-- ==== Sys2Proof/Word.lean ====
section
/-!
DEFINITION. Word.lean: the word types of the spec (R8, R9).
-/
namespace Sys2Proof

/-- One byte of an entry, a register or a two-wire block (R8). -/
abbrev Byte := BitVec 8

/-- Device time, 32.32 fixed-point seconds: bits [63:32] whole seconds, bits [31:0] the fraction (R9). -/
abbrev DT := BitVec 64

/-- A 64-bit count of the conservation ledger (R30). -/
abbrev Count := BitVec 64

end Sys2Proof
end

