-- ==== Sys2Proof/Syntax.lean ====
section
/-!
DEFINITION. Syntax.lean: the commands of the block, one constructor of `Instr` for each row of spec/opcode_table.json,
with the data that each row carries. A host command carries its submission entry (R304). Every other step carries
the device time `t` at which it happens and what the device measures or receives in it.
-/
namespace Sys2Proof

/-- Where a submission entry comes from: submission queue `q` (R299) or the MPORT (R353). -/
inductive Source where
  | queue (q : Fin 32)
  | mport
  deriving DecidableEq, Repr

/-- A submission entry (R304) as the device has fetched it: `param` is entry bytes 16 to 63, `block` the content of the
parameter block that a set PTR points at (empty otherwise), `t` the device time of the fetch. The OPCODE is the
constructor's. -/
structure Entry where
  t : DT
  src : Source
  tag : BitVec 16
  flags : Byte
  plen : Byte
  target : BitVec 16
  deadline : DT
  param : List Byte
  block : List Byte
  deriving DecidableEq, Repr

/-- A ring the device writes entries into: completion queue `q` or the return ring of class `c` (R299, R316). -/
inductive Ring where
  | cq (q : Fin 32)
  | ret (c : Fin 4)
  deriving DecidableEq, Repr

/-- An input with gain control: converter input RFWA or RFWB (R82), or a pointed tuner (R103). -/
inductive GainInput where
  | wb (i : Fin 2)
  | pt (n : Fin 4)
  deriving DecidableEq, Repr

/-- The outcome of one calibration (R337 result codes 0 to 2, R439). -/
inductive CalOutcome where
  | ok
  | unsuitable
  | implausible
  | storeFailed
  deriving DecidableEq, Repr

/-- The figures of one block that a calibration estimates from (R436): a clipped sample (for the Slip self-check: a detector reading out
of its range), the samples with power above 4 times the noise floor, the RMS in 0.01 dBFS (for a Slip tone: its level above the noise
floor in its bin in 0.01 dB); the power of the whole spectrum, of its three strongest bins, and of the part that a carrier would take (the
DC bin and its neighbours; for an ADC block what lies within 100 kHz of the multiples of 38.4 MHz); E|x|² and |E x²| after mean removal. -/
structure CalBlock where
  clip : Bool
  strong : Nat
  rms : Int
  power : Nat
  top : Nat
  carrier : Nat
  ac : Nat
  square : Nat
  deriving DecidableEq, Repr

/-- An estimate with its standard uncertainty (R437), the latter in thousandths of the estimate's unit. -/
structure Estimate where
  value : Int
  unc : Nat
  deriving DecidableEq, Repr

/-- What a Kiln firing found (R388, R436 to R439): its blocks; the estimates of R438 for its activity (tuner offset in 0.01 % of full scale,
image gain in 0.001 dB and phase in 0.001 degree; offset in 0.01 LSB, gain in 0.001 dB and skew in 0.01 ps of the sixteen sub-converters;
Slip drift in 0.01 dB; bandwidth in 0.01 % of nominal); the image rejection in 0.1 dB (activities 2 and 8) and the filter trim (8); the
detector's readings at the sixteen frequencies in 0.01 dBm (6). -/
structure FiringResult where
  blocks : List CalBlock
  estimates : List Estimate
  rejection : Int
  trim : Nat
  levels : List Int
  deriving DecidableEq, Repr

/-- What a channel change found (R111, R112, R436): the spans of the offset and the image calibration and what they estimate (offset in
0.01 % of full scale, gain in 0.001 dB, phase in 0.001 degree), the filter's bandwidth error (0.01 % of nominal) and trim, the band and the
die temperature in degrees. -/
structure ChannelChange where
  offsetSpan : CalBlock
  imageSpan : CalBlock
  offset : Estimate
  bandwidth : Estimate
  irGain : Estimate
  irPhase : Estimate
  trim : Nat
  band : Fin 64
  temp : Int
  deriving DecidableEq, Repr

/-- Figures of one demodulated context frame (R181, R210): levels in 0.1 dBm, ratios in 0.1 dB, offset in Hz. With a branch `level`
and `cnr` are the primary path's, `combinedCnr` that of the combined signal (R232). `lrSnr` is the SNR of the L−R band
(R178), `afcOffset` the offset that the AFC has found, in 2^-16 Hz (R176). `estP` and `estB` are the estimates h and σ² of the primary
and the branch, one for each carrier (R173, R209). -/
structure FrameFigures where
  level : Int
  cnr : Int
  combinedCnr : Int
  freqOffset : Int
  branchLevel : Int
  branchCnr : Int
  carrierLock : Bool
  multipath : Int
  pilotDev : Int
  lrSnr : Int
  mer : Int
  merPrimary : Int
  merBranch : Int
  afcOffset : Int
  estP : List ((Int × Int) × Nat)
  estB : List ((Int × Int) × Nat)
  deriving DecidableEq, Repr

/-- What the demodulator has taken over one measurement window: of AM the envelope at the output rate before DC removal (R177), of FM the
peak of |Δf| in each 1 ms, in 0.01 kHz (R179), of DAB and DRM the channel bit errors in 10^6 bits (R210). -/
structure WindowFigures where
  envelope : List Nat
  peaks : List Nat
  berPre : Nat
  deriving DecidableEq, Repr

/-- One component of a DAB ensemble or DRM signal as its FIC or SDC describes it (R194, R199, R243): service identifier, SCIdS or
short identifier, subchannel or stream, its capacity units and protection, the packet address in packet mode. -/
structure Component where
  sid : Nat
  scids : Nat
  subch : Nat
  cus : Nat
  protection : Nat
  address : Nat
  audio : Bool
  scrambled : Bool
  mp2 : Bool
  decodable : Bool
  deriving DecidableEq, Repr

/-- An announcement or alarm flag read from side data (R236): KIND bit, ON, cluster, type bits and subchannel or PI(ON). -/
structure AlertFlag where
  kind : Fin 6
  on : Bool
  cluster : Nat
  types : Nat
  obj : Nat
  deriving DecidableEq, Repr

/-- A sample of a path with its CLIP mark (R85, R143). -/
structure Sample where
  i : Int
  q : Int
  clip : Bool
  deriving DecidableEq, Repr

/-- A segment of a datum that arrives in parts (R222, R225, R226): which item and object it belongs to, the toggle (A/B flag) it was sent
under, its place among `total` segments, its bytes, and the announced length of the whole where there is one. The segments of an EON item
are the four of PS(ON), then its AF entries. Segments of PAD come from data groups whose CRC passed (R225). -/
structure Segment where
  item : Nat
  obj : Nat
  toggle : Bool
  index : Nat
  total : Nat
  bytes : List Byte
  size : Nat
  deriving DecidableEq, Repr

/-- A complete data group in packet mode (R214, R219): its packet address, the stamp and CIF count of the logical frame that carried its
first byte, whether its CRC passed, its bytes. -/
structure PacketGroup where
  address : Nat
  stamp : DT
  cif : Nat
  crcOk : Bool
  bytes : List Byte
  deriving DecidableEq, Repr

/-- A decoded logical frame of a DAB subchannel (R197, R225): its CIF count and bytes, the PAD segments complete with it, each with the stamp
and the CIF count of the frame that carried its first byte (R219), the packet data groups, and what Reed-Solomon decoding did. -/
structure LogicalFrame where
  cif : Nat
  payload : List Byte
  dls : List (Segment × DT × Nat)
  mot : List (Segment × DT × Nat)
  groups : List PacketGroup
  rsCorrected : Nat
  rsFailed : Nat
  syncLost : Bool
  deriving DecidableEq, Repr

/-- A decoded frame of a DRM stream (R206): its stamp and position in the super frame, bytes, text segments, each with the stamp and the AUX of
the stream frame that carried its first byte (R219), and the level-0 bit error
estimate in errors per 10^6 bits. -/
structure StreamFrame where
  stream : Fin 4
  stamp : DT
  position : Nat
  payload : List Byte
  text : List (Segment × DT × Nat)
  ber : Nat
  deriving DecidableEq, Repr

/-- The passed content of the FIC symbols of one frame (R194, R219, R224): `stamp` the first sample of the first symbol, FIGs with type and
extension, labels with their kind (ensemble, service, component, FIG 2) and object, each with the stamp of the symbol that carried it; the
organisation once it is complete, and the next one with the CIF count signalled for it; the clusters that FIG 0/18 supports, and the
entries of FIG 0/19: stamp of the symbol, cluster, ASw flags, subchannel (R236). -/
structure FicData where
  stamp : DT
  fibsPassed : Nat
  eid : Nat
  cifCount : Nat
  components : Option (List Component)
  next : Option (Nat × List Component)
  figs : List (Nat × Nat × DT × List Byte)
  labels : List (Fin 4 × Nat × DT × List Byte)
  afs : List Nat
  clusters : List Nat
  announce : List (DT × Nat × Nat × Nat)
  deriving DecidableEq, Repr

/-- One DRM transmission frame's end (R204, R207): the stamp of its first sample, sync, mode, FAC CRC and the FAC's items, and the stream
frames completed in it. -/
structure DrmFrame where
  stamp : DT
  syncHeld : Bool
  mode : Option (Fin 5)
  facOk : Bool
  occupancy : Nat
  longInterleave : Bool
  qam : Nat
  reconfigIndex : Nat
  superFrameStart : Bool
  facBits : List Byte
  merFac : Int
  streams : List StreamFrame
  deriving DecidableEq, Repr

/-- The decoded SDC of a super frame (R205, R207, R226), with the stamp of its first sample: the organisation in force, the one announced for
a reconfiguration, and the entities with type, identity and bytes. -/
structure SdcData where
  stamp : DT
  crcOk : Bool
  sid : Nat
  components : List Component
  nextComponents : Option (List Component)
  entities : List (Nat × Nat × List Byte)
  afs : List Nat
  alerts : List AlertFlag
  deriving DecidableEq, Repr

/-- One RDS group (R221): the stamp of its first bit, blocks A to D as corrected as far as could be, `raw` the four as received, their status
codes and the lengths of the error bursts in them, whether it begins with the MMBS offset word E, the segments it carries for R222 (items in
R214 order), its alternatives (R228), those of EON with their PI(ON), and RDS_EYE and RDS_DEV (R223). -/
structure RdsGroup where
  stamp : DT
  blockA : BitVec 16
  blockB : BitVec 16
  blockC : BitVec 16
  blockD : BitVec 16
  raw : List (BitVec 16)
  stA : Fin 4
  stB : Fin 4
  stC : Fin 4
  stD : Fin 4
  bursts : List Nat
  cPrime : Bool
  mmbs : Bool
  items : List Segment
  afs : List Nat
  eonAfs : List (Nat × Nat)
  eye : Int
  dev : Int
  deriving DecidableEq, Repr

/-- An access unit of a coded service (R246, R248): the stamp of the superframe or stream frame that carries it and its place in that, in
samples; the sampling rate in hertz; whether it holds ERASED_CU data; of a good one the decoded frames, each with its channels, and the
dynamic-range and loudness metadata. -/
structure AccessUnit where
  stamp : DT
  pos : Nat
  rate : Nat
  good : Bool
  erased : Bool
  frames : List (List Int)
  metadata : List Byte
  deriving DecidableEq, Repr

/-- A subframe from a biphase input (R271, R283): its 24-bit word, V, U and C, and whether its parity is wrong or a biphase violation is in it. -/
structure AinSub where
  word : BitVec 24
  v : Bool
  u : Bool
  c : Bool
  parity : Bool
  biphase : Bool
  deriving DecidableEq, Repr

/-- One block from a biphase input (R282 to R286): the stamp of its Z preamble, its span up to the next one in DT units, its frames. -/
structure AinBlock where
  stamp : DT
  span : Nat
  frames : List (AinSub × AinSub)
  deriving DecidableEq, Repr

/-- What a cold start finds on the board (R347, R421, R491, R492, R393): straps, fuses, the security version of each QSPI image
whose signature verifies, DRAM in GB, the die temperature in 0.1 degrees, whether SPLL-A locks, and pin levels. -/
structure Boot where
  bootsel : Fin 4
  mpaddr : Fin 4
  pairrole : Bool
  fusesOk : Bool
  imageA : Option Nat
  imageB : Option Nat
  dramGB : Nat
  vaultOk : Bool
  spllLocks : Bool
  dieTemp : Int
  injEn : Bool
  sealSw : Bool
  warmN : Bool
  dormantReq : Bool
  vddSg : Bool
  sgImages : Bool × Bool
  deriving DecidableEq, Repr

/-- A block of a capture ring of an input or a carver; those of paths, outputs and services the model itself makes (R143, R250, R429). A raw block brings
its count since the arm, its gain, the step and the switch inside it, and its converter codes with CLIP; a carver's block its clip count, SEQ
and FLAGS with the sample words. -/
inductive RingBlock where
  | raw (stamp : DT) (count : Nat) (gain : Int) (step : Option DT) (switched : Bool) (codes : List (BitVec 14 × Bool))
  | carver (stamp : DT) (flags clips seq : Nat) (words : List (BitVec 32 × BitVec 32))
  deriving DecidableEq, Repr

/-- A DRAM error (R431): the area of the table. An AIN block is given by the DT of its first frame and of the first frame after it, a
staged record by its place in the staging, a block of a time-shift or capture ring by its stamp. -/
inductive DramArea where
  | firmware
  | demodulator
  | audioOutput (bothCopies : Option (Fin 14 × Fin 32 × DT × DT))
  | ain (i : Fin 4) (first last : DT)
  | staging (cls : Fin 4) (n : Nat)
  | operationalLog
  | legalMirror
  | library (bothCopies : Bool) (refId : Nat)
  | timeshift (svc : Fin 96) (stamp : DT)
  | capture (slot : Fin 4) (stamp : DT)
  deriving DecidableEq, Repr

/-- A vault item of the calibration store (R441). -/
inductive VaultItem where
  | tuneWord
  | refMult
  | recallTable (n : Fin 4)
  | adc (i : Fin 2)
  | schedule
  | cone
  | reservation (slot : Fin 64)
  | counter (i : Fin 8)
  deriving DecidableEq, Repr

/-- The kinds of Saggar fault (R391). -/
inductive SgFaultKind where
  | lockstep
  | watchdog
  | sram
  | vault
  deriving DecidableEq, Repr

/-- A verification tone as the Saggar reads it (R379, R395): sums of I² + Q² at f_mid with their counts of samples, of the preliminary
reading of 2 ms in the measurement bandwidth (the start tone's only) and of the tone over 5 ms on the verification path; and how many
tones a lowering gain step spoilt. -/
structure ToneReading where
  prelim : Nat × Nat
  tone : Nat × Nat
  spoilt : Nat
  deriving DecidableEq, Repr

/-- What the Saggar's own detectors read over the unbroken parts of a job (R378, R385): in the measurement bandwidth and of the path
noise the sums of I² + Q² with their counts of samples; the peaks of |Δf| of each millisecond in Hz; the mean Δf² of each second in Hz²,
none where the second is broken; the envelope at 32 kS/s; its estimate of CNR in 0.1 dB. Then the end tone, the observed identity, and
for each gain-step marker by how much it disagrees with the level step in the samples, in 0.01 dB (R370). -/
structure JobOutcome where
  power : Nat × Nat
  noise : Nat × Nat
  peaks : List Nat
  seconds : List (Option Nat)
  envelope : List Nat
  cnr : Int
  tone : ToneReading
  identity : Nat
  markers : List Int
  deriving DecidableEq, Repr

/-- A write over a two-wire port: the bytes after the command code, the PEC byte if one was sent, and whether the write
reached its last byte before the STOP (R348, R349). -/
structure Xfer where
  data : List Byte
  pec : Option Byte
  whole : Bool
  deriving DecidableEq, Repr

/-- How an attempt at host notify ended (R357, R358). -/
inductive NotifyOutcome where
  | sent
  | nacked
  | arbLost
  deriving DecidableEq, Repr

/-- The two two-wire ports (R346, R364). -/
inductive Port2 where
  | mport
  | lport
  deriving DecidableEq, Repr

/-- What a pair join found (R466): the peer's mode, role and profile, whether its secondary side has an open context, its exports, the
lanes trained, the transit in ns, the secondary's DT less the primary's at step 4 in 2^-32 s, and the primary's DT then. -/
structure JoinInfo where
  peerMode : Fin 3
  peerRole : Fin 3
  peerSpan : Bool
  peerHasOpen : Bool
  peerExport : Byte
  lanes : BitVec 4
  transit : Nat
  dtOffset : Int
  primaryDt : DT
  deriving DecidableEq, Repr

/-- The commands of the block: one constructor for each row of spec/opcode_table.json, in the table's order. -/
inductive Instr where
  | devIdentify (e : Entry)
  | devSetProfile (e : Entry)
  | devRestart (e : Entry)
  | devGetHealth (e : Entry)
  | devSetEventMask (e : Entry)
  | devLedgerRead (e : Entry)
  | timeSet (e : Entry)
  | timeGet (e : Entry)
  | timeRefConfig (e : Entry)
  | timePllConfig (e : Entry)
  | timePhaseStep (e : Entry)
  | timeDisciplineStatus (e : Entry)
  | rfWbConfig (e : Entry)
  | rfCarverSet (e : Entry)
  | rfPtState (e : Entry)
  | rfPtTune (e : Entry)
  | rfPtBandtableLoad (e : Entry)
  | rfPtRecallRead (e : Entry)
  | rfProbe (e : Entry)
  | rfSlipConfig (e : Entry)
  | ctxOpen (e : Entry)
  | ctxRetune (e : Entry)
  | ctxClose (e : Entry)
  | ctxGetQuality (e : Entry)
  | ctxSetThresholds (e : Entry)
  | ctxStage (e : Entry)
  | ctxCommit (e : Entry)
  | ctxCoefLoad (e : Entry)
  | ctxCoefSwap (e : Entry)
  | ctxSync (e : Entry)
  | ctxDiversity (e : Entry)
  | dataSubscribe (e : Entry)
  | dataUnsubscribe (e : Entry)
  | afPolicy (e : Entry)
  | afListSet (e : Entry)
  | alertConfig (e : Entry)
  | audServiceStart (e : Entry)
  | audServiceStop (e : Entry)
  | audSignatureConfig (e : Entry)
  | audLoudnessConfig (e : Entry)
  | portConfig (e : Entry)
  | portRoute (e : Entry)
  | portSlotmask (e : Entry)
  | portChstatusSet (e : Entry)
  | portInputStatus (e : Entry)
  | memCaptureArm (e : Entry)
  | memCaptureFreeze (e : Entry)
  | memCaptureRead (e : Entry)
  | memTimeshiftConfig (e : Entry)
  | bufPost (e : Entry)
  | cryKeyLoad (e : Entry)
  | cryKeyDerive (e : Entry)
  | cryKeyRetire (e : Entry)
  | cryProcess (e : Entry) (input aad : List Byte)
  | cryCounterRead (e : Entry)
  | cryCounterIncrement (e : Entry)
  | logConfig (e : Entry)
  | logRead (e : Entry)
  | logMark (e : Entry)
  | mntCalibrate (e : Entry)
  | mntScheduleSet (e : Entry)
  | mntScheduleStatus (e : Entry)
  | mntConeRead (e : Entry)
  | mntMarginPlan (e : Entry)
  | pairJoin (e : Entry)
  | pairLeave (e : Entry)
  | pairStatus (e : Entry)
  | pairMirror (e : Entry)
  | sgReadResult (e : Entry)
  | sgStatus (e : Entry)
  | sgRequestMeasure (e : Entry)
  | diagLoopback (e : Entry) (source : List Byte)
  | diagReadCounters (e : Entry)
  | unknownOpcode (e : Entry) (opcode : BitVec 16)
  | queuedEntryWrite (t : DT) (ring : Ring)
  | commandDeadlineExpiry (t : DT) (src : Source) (tag : BitVec 16)
  | coalTimeExpiry (t : DT) (ring : Ring)
  | sqDoorbellWrite (t : DT) (q : Fin 32) (value : BitVec 32)
  | cqDoorbellWrite (t : DT) (q : Fin 32) (value : BitVec 32)
  | pairEnableWrite (t : DT) (q : Fin 32) (value : BitVec 32)
  | pairDisableWrite (t : DT) (q : Fin 32) (value : BitVec 32)
  | pairDrainDone (t : DT) (q : Fin 32)
  | returnRingDoorbellWrite (t : DT) (c : Fin 4) (value : BitVec 32)
  | ledgerSnapWrite (t : DT)
  | restartWarmWrite (t : DT) (value : BitVec 32)
  | restartColdWrite (t : DT) (value : BitVec 32)
  | imgGo (t : DT)
  | imageFetchDone (t : DT) (result : Fin 6) (secver : Nat)
  | msixVectorUnmask (t : DT) (v : Fin 33)
  | registerWrite (t : DT) (off : Nat) (wide : Bool) (value : BitVec 64)
  | busMasterEnableSet (t : DT)
  | busMasterEnableClear (t : DT)
  | pcieLinkDown (t : DT)
  | pcieLinkUp (t : DT)
  | ppsinEdgeAccepted (t : DT) (sub : Fin 4)
  | ppsinLost (t : DT)
  | refinLost (t : DT)
  | refinQualified (t : DT)
  | refinSteerWindow (t : DT) (errorPpt : Int)
  | returningPpsTimeout (t : DT)
  | dtForwardStep (t : DT)
  | timeSetStepApply (t : DT)
  | slewTargetReached (t : DT)
  | timeRefCommitApply (t : DT)
  | spllLockDeclared (t : DT) (pllB : Bool)
  | spareAlignmentDone (t : DT)
  | spllReconfigTimeout (t : DT)
  | activeSpllFlagged (t : DT) (vcoStops : Bool)
  | spareSpllFlagged (t : DT)
  | spareAlignTimeout (t : DT)
  | spllRelockAttempt (t : DT) (pllB : Bool)
  | agcWindowEnd (t : DT) (input : GainInput) (peak : Int)
  | agcHoldExpiry (t : DT) (input : GainInput)
  | overloadTrip (t : DT) (input : GainInput) (clipped : Nat)
  | carverFrameCommit (t : DT) (c : Fin 8)
  | peerStreamStop (t : DT) (streamB : Bool)
  | tunerTransitionDone (t : DT) (n : Fin 4)
  | channelChangeDone (t : DT) (n : Fin 4) (r : ChannelChange)
  | recallLockTimeout (t : DT) (n : Fin 4)
  | tunerFailed (t : DT) (n : Fin 4)
  | tunerRetry (t : DT) (n : Fin 4) (pass : Bool)
  | probeStart (t : DT) (n : Fin 4)
  | probeEnd (t : DT) (n : Fin 4) (measured leak : Int)
  | probeWaitTimeout (t : DT) (n : Fin 4)
  | injEnFall (t : DT)
  | slipSaggarRelease (t : DT)
  | supervisionPeriod (t : DT) (level : Int)
  | recallTableSave (t : DT) (n : Fin 4)
  | pathBlockOutput (t : DT) (p : Fin 64) (stamp : DT) (mid : List Sample)
  | syncSample (t : DT) (p : Fin 64) (stamp : DT) (mid : List Sample)
  | pathSourceResume (t : DT) (p : Fin 64)
  | powerBlockEnd (t : DT) (p : Fin 64)
  | pathCommitApply (t : DT) (p : Fin 64)
  | fadeStart (t : DT) (p : Fin 64)
  | fadeEnd (t : DT) (p : Fin 64)
  | ctxSyncReset (t : DT) (p : Fin 64)
  | ctxSyncHoldTimeout (t : DT) (p : Fin 64)
  | contextFrame (t : DT) (c : Fin 64) (f : FrameFigures)
  | acquisitionHoldMet (t : DT) (c : Fin 64)
  | cnrLossTimeout (t : DT) (c : Fin 64)
  | wheelWatchdogExpiry (t : DT) (w : Fin 16)
  | hangBacklogCleared (t : DT) (w : Fin 16)
  | wheelSelfTestDone (t : DT) (w : Fin 16) (pass : Bool)
  | failoverBranchRetry (t : DT) (c : Fin 64)
  | eqAutoTimeout (t : DT) (c : Fin 64) (engage : Bool)
  | pilotDetectTimeout (t : DT) (c : Fin 64) (present : Bool)
  | mpxPowerUpdate (t : DT) (c : Fin 64) (meanSq : Nat)
  | measWindowEnd (t : DT) (c : Fin 64) (f : WindowFigures)
  | dabNullDetected (t : DT) (c : Fin 64) (sample : Nat)
  | ficDecoded (t : DT) (c : Fin 64) (f : FicData)
  | dabFrameEnd (t : DT) (c : Fin 64) (syncHeld nullFound : Bool) (fibsPassed : Nat)
  | cifBoundary (t : DT) (c : Fin 64) (cif : Nat) (received : Bool)
  | logicalFrameComplete (t : DT) (c : Fin 64) (subch : Nat) (stamp : DT) (f : LogicalFrame)
  | dabReacquisition (t : DT) (c : Fin 64) (eid cif : Nat)
  | tiiListUpdate (t : DT) (c : Fin 64) (l : List (Nat × Nat × Int × Int))
  | drmFrameEnd (t : DT) (c : Fin 64) (f : DrmFrame)
  | sdcDecoded (t : DT) (c : Fin 64) (d : SdcData)
  | rdsGroupReceived (t : DT) (c : Fin 64) (g : RdsGroup)
  | bufferFlushTimeout (t : DT) (cls : Fin 4)
  | motObjectTimeout (t : DT) (sub : BitVec 16)
  | afMeterInterval (t : DT) (freq : Nat) (level cnr multipath : Int) (pi : Option (Option Nat))
  | sharedMeterTurn (t : DT) (carver : Fin 8)
  | afHopDwellEnd (t : DT) (n : Fin 4)
  | afPiConfirmed (t : DT) (c : Fin 64) (freq : Nat)
  | afDecisionTimeout (t : DT) (c : Fin 64)
  | afCorrelationDone (t : DT) (c : Fin 64) (delay : Option Int)
  | afCrossfadeEnd (t : DT) (c : Fin 64)
  | afHoldoffExpiry (t : DT) (c : Fin 64)
  | afReportDue (t : DT) (c : Fin 64)
  | accessUnitDecoded (t : DT) (svc : Fin 96) (u : AccessUnit)
  | hostAudioBlock (t : DT) (svc : Fin 96)
  | loudnessBlock (t : DT) (svc : Fin 96)
  | loudReportPeriod (t : DT) (svc : Fin 96)
  | signatureSecond (t : DT) (svc : Fin 96) (text : List Byte)
  | sigChainPeriod (t : DT) (svc : Fin 96)
  | libraryChangeApply (t : DT)
  | portBlockBoundary (t : DT) (port : Fin 14)
  | slotmaskFrameApply (t : DT) (tdm : Fin 2)
  | ainBlockReceived (t : DT) (i : Fin 4) (b : AinBlock)
  | ainAudioReturn (t : DT) (i : Fin 4)
  | ainPreambleTimeout (t : DT) (i : Fin 4)
  | ainRelock (t : DT) (i : Fin 4) (b : AinBlock)
  | ainRateConfirmed (t : DT) (i : Fin 4)
  | ainRateChangeTimeout (t : DT) (i : Fin 4)
  | airchainReport (t : DT) (i : Fin 4)
  | captureFreeze (t : DT) (slot : Fin 4) (written : List RingBlock)
  | dramEccError (t : DT) (area : DramArea) (multi : Bool)
  | entropyHealthFailure (t : DT)
  | entropyRetry (t : DT) (pass : Bool)
  | kilnFiringStart (t : DT) (activity : Fin 9) (obj : Fin 64)
  | kilnFiringEnd (t : DT) (activity : Fin 9) (obj : Fin 64) (r : FiringResult)
  | kilnWindowExpiry (t : DT) (activity : Fin 9) (obj : Fin 64)
  | vaultStoreDone (t : DT) (item : VaultItem) (ok : Bool)
  | coneSample (t : DT) (tHot tAo : Int) (margins : List Int)
  | conePlanDue (t : DT)
  | avsCodeStep (t : DT)
  | avsSettleTimeout (t : DT) (measuredMv : Nat)
  | peerHeartbeatLost (t : DT)
  | walvalLaneLoss (t : DT) (lane : Fin 4)
  | walvalLaneRetry (t : DT) (lane : Fin 4) (pass : Bool)
  | linkTrainTimeout (t : DT)
  | pairJoinComplete (t : DT) (j : JoinInfo)
  | pairJoinTimeout (t : DT)
  | pairDtMarker (t : DT) (offsetPs : Int)
  | porstNRise (t : DT) (b : Boot)
  | porstNFall (t : DT)
  | warmNFall (t : DT) (dieTemp : Int)
  | setterWatchdogExpiry (t : DT) (setter1 : Bool)
  | pfailNFall (t : DT)
  | pfailNRise (t : DT)
  | startTimeout (t : DT)
  | runningFailCountClear (t : DT)
  | thermalTrip (t : DT)
  | dormantReqHeld (t : DT)
  | dormantReqFall (t : DT)
  | pcieResetRise (t : DT)
  | sealSwChange (t : DT) (protect : Bool)
  | tamperNAssert (t : DT)
  | vddSgArrival (t : DT)
  | saggarBootDone (t : DT) (areaB : Option Bool) (selfTest : Bool)
  | saggarJobStart (t : DT) (job : BitVec 32) (tone : ToneReading) (path : Fin 64)
  | saggarJobEnd (t : DT) (job : BitVec 32) (r : JobOutcome)
  | saggarFault (t : DT) (kind : SgFaultKind)
  | legalSherdCommit (t : DT)
  | verifyMaxExpiry (t : DT)
  | lportAddressWake (t : DT)
  | mportStatus (t : DT)
  | cmdSubmit (t : DT) (x : Xfer)
  | cmdResult (t : DT) (whole : Bool)
  | cmdResultRedeliver (t : DT)
  | mportWake (t : DT)
  | mportTimingRead (t : DT)
  | mportTimingWrite (t : DT) (x : Xfer)
  | mportTimingApply (t : DT)
  | eventFetch (t : DT) (whole : Bool)
  | eventFetchRedeliver (t : DT)
  | mportDormantMatch (t : DT)
  | mportRegateTimeout (t : DT)
  | stretchTimeout (t : DT) (port : Port2)
  | sclHeldTimeout (t : DT) (port : Port2)
  | sdaSelfHeld (t : DT) (port : Port2)
  | lineHeldByOther (t : DT) (port : Port2) (scl : Bool)
  | busStuckClear (t : DT) (port : Port2)
  | hostNotifySend (t : DT) (outcome : NotifyOutcome)
  | lportSgStatus (t : DT)
  | sgIdentify (t : DT)
  | sgPortRead (t : DT)
  | sgPortWrite (t : DT) (x : Xfer)
  | sgCounters (t : DT)
  | sgMeasure (t : DT) (x : Xfer)
  | sgResponse (t : DT) (whole : Bool)
  | sgResponseRedeliver (t : DT)
  | sgCancel (t : DT) (x : Xfer)
  | sgResult (t : DT) (x : Xfer)
  | sgLogSeek (t : DT) (x : Xfer)
  | sgLogRead (t : DT) (whole : Bool)
  | sgSeal (t : DT) (x : Xfer)
  | sgAfWrite (t : DT) (x : Xfer)
  | sgAfRead (t : DT) (x : Xfer)
  | sgCalWrite (t : DT) (x : Xfer)
  | sgCalRead (t : DT) (x : Xfer)
  | sgVerify (t : DT) (x : Xfer)
  | sgParam (t : DT) (x : Xfer)
  | sgKeyLoad (t : DT) (x : Xfer)
  | sgImageBlock (t : DT) (x : Xfer)
  | sgImageCommit (t : DT) (x : Xfer)
  | vddSgLoss (t : DT)
  | tamperNRelease (t : DT)
  | vddCoreInRange (t : DT) (dieTemp : Int)
  | entropyStartupTestsDone (t : DT) (pass : Bool)
  | phaseSteppingDone (t : DT)
  | glazeMessageDone (t : DT) (core : Fin 5)
  | ppsoutPulse (t : DT)
  | sharedPoolInitDone (t : DT)
  deriving DecidableEq, Repr

end Sys2Proof
end

