-- ==== Sys2Proof/Decode.lean ====
section
/-!
DEFINITION. Decode.lean: the commands that a word spells. No row of spec/opcode_table.json gives bits, so no word spells one.
-/
namespace Sys2Proof

/-- The command that a word spells by the bits of the opcode table: none, since the table gives no row any bits. -/
def decodeTableWord (_nbits _w : Nat) : Option Instr := none

end Sys2Proof
end

