-- ==== Sys2Proof/Config.lean ====
section
/-!
DEFINITION. Config.lean: what an individual part fixes (fuses, ROM, image) and the values the spec leaves open, as constants
with no body: nothing can be proved of a value of theirs.
-/
namespace Sys2Proof.Config

/-- VARIANT fuse (R501): whether the part is an OQ6404-NFB-I. -/
opaque nfb : Bool
/-- SERIAL fuse (R501). -/
opaque serial : BitVec 64
/-- ROM_VERSION (R501). -/
opaque romVersion : BitVec 32
/-- MIN_SECVER fuse (R501, R491). -/
opaque minSecver : Byte
/-- Firmware version of the image accepted with a given security version (R335). -/
opaque firmwareVersion : Nat → BitVec 32
/-- SHA-256 of the firmware image accepted with a given security version (R335, R491). -/
opaque firmwareDigest : Nat → List Byte
/-- Version of the Saggar image shipped with the part (R376). -/
opaque sgVersion : BitVec 32
/-- SHA-256 of the Saggar image shipped with the part (R376). -/
opaque sgDigest : List Byte
/-- The legal-log key provisioned at manufacture (R368). -/
opaque sgKey : List Byte
/-- The device transport key (R342). -/
opaque transportKey : List Byte
/-- The Saggar transport key (R392). -/
opaque sgTransportKey : List Byte

/-- CCM of a message whose length does not fit its 3-byte length field: key, nonce, AAD, plaintext, tag length; ciphertext and tag. -/
opaque ccmLong : List Byte → List Byte → List Byte → List Byte → Nat → List Byte × List Byte
/-- ECDSA P-256 verification of a Saggar image: image, signature. -/
opaque ecdsaOk : List Byte → List Byte → Bool
/-- The version of a Saggar image, as the Saggar computes it (R376). -/
opaque imageVersion : List Byte → BitVec 32

/-- Whether a quotient that is not whole is rounded up where the spec names no rounding: numerator, denominator. -/
opaque roundUp : Int → Nat → Bool
/-- Whether a root that is not whole is rounded up (R378): its square. -/
opaque rootUp : Nat → Bool
/-- A free value for an unstated result: the n-th drawn. -/
opaque freeValue : Nat → Int
/-- Group delay of a tuner stream in ps for an IF_BW in kHz, measured at manufacture (R100): tuner, IF_BW. -/
opaque tunerDelay : Nat → Nat → Nat
/-- The stored design of the factory filter for a standard at its default length (R136), in Q1.17: standard, coefficient. -/
opaque factoryFilter : Nat → Nat → BitVec 18
/-- The Slip's correction between the entries of its level table in 0.001 dB (R379, R389): the entries (kHz, correction), the frequency in
0.1 Hz. -/
opaque slipBetween : List (Nat × Int) → Nat → Int
/-- Readings of the reference detector stored at manufacture in 0.01 dBm (R388): by number of the frequency. -/
opaque slipStored : Nat → Int
/-- Response of a tuner's IF filter from its filter-bandwidth calibration in 0.01 dB (R379): tuner, IF_BW in kHz, trim, offset from the
centre in 0.1 Hz. -/
opaque filterResponse : Nat → Nat → Nat → Int → Int
/-- The stored taps of the polyphase resampler (R140), in units of 2^-17: phase 0 to 256, tap 0 to 23. -/
opaque resampler : Nat → Nat → Int
/-- Level of a tuner's ADC full scale at its RFPx pins at G_T 0, in 0.01 dBm (R149): tuner. -/
opaque tunerFullScale : Nat → Int
/-- Measured edges of a VCO band in kHz (R106): tuner, band. -/
opaque bandEdges : Nat → Nat → Nat × Nat
/-- Factory image correction of a tuner's band (R112): gain in 0.001 dB, phase in 0.001 degree. -/
opaque factoryImage : Nat → Nat → Int × Int
/-- Group delay of a carver beyond the figures the spec gives (R90), in converter periods, by DECIM. -/
opaque carverDelay : Nat → Nat
/-- The name of a PTY code (R220): whether RBDS, the code. -/
opaque ptyName : Bool → Nat → List Byte
/-- The AM demodulator's audio at 48 kHz (R176): the method in force (AM_MODE), AM_BW, the path blocks of the last 24 ms, newest first, the
frame within the last context frame. -/
opaque amAudio : Nat → Nat → List (List Byte) → Nat → Int
/-- The sum and the difference signal of the FM demodulator at 48 kHz after its equaliser, de-emphasis and low-pass (R178): whether it is the
difference, whether the equaliser works, FM_DEEMPH, the path blocks of the last 24 ms, newest first, the frame. -/
opaque fmAudio : Bool → Bool → Nat → List (List Byte) → Nat → Int
/-- An audio decoder's fixed delay in DT units (R247): of DRM, or of DAB+. -/
opaque decoderDelay : Bool → Nat
/-- The stereo downmix of a frame of more than two channels (R246). -/
opaque downmix : List Int → Int × Int
/-- A frame of the last good access unit repeated as a concealed one (R248), before its attenuation: the unit, the failed units in a row, the
frame. -/
opaque repeated : List (Int × Int) → Nat → Nat → Int × Int
/-- A rational converter's output (R246): samples of the unit before, of the unit, the place in the unit in 2^-32 samples. -/
opaque resampled : List Int → List Int → Nat → Int
/-- An output converter's sample (R277, R279): the port's rate, the source samples around the instant, oldest first, and the instant's place
after the 16th in 2^-32 of their spacing. -/
opaque interpolated : Nat → List Int → Nat → Int
/-- The gain of a ramp at step k of n in 2^-23 (R244, R248, R279, R280), between 0 at step 0 and 1 at step n. -/
opaque ramp : Nat → Nat → Int
/-- A sample of the 8 kHz decimator (R254): the sums L + R at 48 kHz up to it, newest first. -/
opaque decimated : List Int → Int
/-- The Hann window of 512 samples, and the cosine of 2π·n/512, as the signature's arithmetic holds them (R254). -/
opaque hann : Nat → Int
opaque cosine : Nat → Int
/-- The sine of 2π·a/b in 2^-30 (R279): a, b. -/
opaque sine : Nat → Nat → Int
/-- The refinement of a comparison's delay in 10 µs (R289): the 8 kHz signals of the service and of the studio. -/
opaque fineDelay : List Int → List Int → Int
/-- SWAPPED, INVERTED and MONO of a comparison in bits 0 to 2 (R290), from the correlations of A with L, A with R, B with L, B with R. -/
opaque channelFlags : Int → Int → Int → Int → Byte
/-- JTAG_EN of a part that is not in PRODUCTION (R502), by LIFECYCLE. -/
opaque jtagOther : BitVec 3 → Bool

end Sys2Proof.Config
end

