-- ==== Sys2Proof/Machine/State.lean ====
section
/-!
DEFINITION. State.lean: the state of the block as plain data, every piece of state the spec names, the state right
after reset, and the names of a fault and of a refusal.
-/
namespace Sys2Proof.Machine

/-- A fault of the machine. The spec gives every command and event of the block an effect, so no meaning raises it. -/
inductive Fault where
  /-- Raised by no meaning: kept because the interface asks for a fault type. Safe. -/
  | none
  deriving DecidableEq, Repr

/-- A refusal of the machine. -/
inductive Refusal where
  /-- Raised by an arm of `exec` whose command has no meaning yet. Safe: the machine stops. -/
  | notModelled (mnemonic : String)
  deriving DecidableEq, Repr

/-! ### Configuration fields (R11 to R15, R331) -/

/-- A set of configuration fields: the values that differ from the reset values, by FID (R331). -/
abbrev FieldSet := List (Nat × Int)

/-! ### Entries written by the device (R311, R316, R330) -/

/-- A completion or event on its way to a ring (R311): everything but PHASE, EPOCH4 and SQ_HEAD or EVT_SEQ, which are
given when it is written. `result` is bytes 16 to 31. -/
structure CqEntry where
  tag : BitVec 16
  status : BitVec 16
  dt : DT
  result : List Byte
  event : Bool
  deriving DecidableEq, Repr

/-- A return entry on its way to a return ring (R316); `serial` counts the buffers of its class in posting order. -/
structure RetEntry where
  cookie : BitVec 64
  bytes : Nat
  status : BitVec 16
  serial : Nat
  deriving DecidableEq, Repr

/-- What the device sends out: the transactions and pin events of a step, newest first. It is the model's own record,
read by nothing in the model. -/
inductive Out where
  | cqe (q : Nat) (index : Nat) (phase : Bool) (epoch4 : BitVec 4) (headOrSeq : BitVec 16) (e : CqEntry)
  | ret (cls : Nat) (index : Nat) (phase : Bool) (epoch4 : BitVec 4) (e : RetEntry)
  | area (addr : BitVec 64) (data : List Byte)
  | buffer (cls : Nat) (addr : BitVec 64) (off : Nat) (data : List Byte)
  | msix (v : Nat)
  | twoWire (port : Port2) (data : List Byte)
  | nack (port : Port2)
  | link (kind : Nat) (data : List Byte)
  | supervision (level diff : Int) (missed : Nat) (alarm : Bool)
  | channel (port : Nat) (ch : Nat) (play content : DT) (concealed muted invalid : Nat)
  | biphase (port : Nat) (play : DT) (cells : Nat) (subframes : List (Nat × BitVec 28))
  | tdm (port : Nat) (start : DT) (bclk : Nat) (rise : Bool) (bits : List (Bool × Option Bool × Option Bool))
  | amclk (hz : Nat) (edges : Nat)
  | portLow (port : Nat)
  | chanStatus (port : Nat) (data : List Byte)
  | refout (hz : Nat) (fromXo : Bool)
  | carverStep (c : Nat) (centre : Nat)
  | pps (high : Bool)
  | pin (name : Nat) (level : Bool)
  deriving DecidableEq, Repr

/-! ### Commands in the device (R304 to R310, R529) -/

/-- A fetched command that has not completed, or one that completed with OK_DEFERRED and waits for the end of its
deferral (`deferred`). `begun` when it has begun to take effect (R303). `aux` holds what its block counts for it. -/
structure Held where
  id : Nat
  src : Source
  tag : BitVec 16
  op : Nat
  entry : Entry
  cmd : Instr
  begun : Bool
  deferred : Bool
  aux : List Int
  deriving DecidableEq, Repr

/-! ### Queue pairs, return rings, interrupts (R299 to R303, R314 to R319, R503, R504) -/

/-- A command whose completion waits for a slot, and which is held until then (R29, R302): whether it carries FENCE (R309), and the output area
that is written with the completion (R297, R329). -/
structure Unwritten where
  id : Nat
  fence : Bool
  area : Option (BitVec 64 × List Byte)
  deriving DecidableEq, Repr

/-- A command that a warm start has cut off and that is still to be returned (R35, R323); `ok` for the DEV_RESTART that ordered it. -/
structure Returning where
  id : Nat
  src : Source
  tag : BitVec 16
  fence : Bool
  ok : Bool
  deriving DecidableEq, Repr

/-- A queue pair (R299): its registers, the doorbell positions, the phase of the completion ring (R300), and the entries that wait for a slot
(R302), oldest first. `unwritten` goes with the completions among them, in their order. `coalFrom` is the DT of the first entry not yet
signalled with the shortest COAL_TIME and the smallest COAL_COUNT in force since (R315, R504). -/
structure Pairq where
  sqBase : BitVec 64
  cqBase : BitVec 64
  sqLow : Option (BitVec 32)
  cqLow : Option (BitVec 32)
  sqSize : Nat
  cqSize : Nat
  en : Bool
  prio : BitVec 2
  intEn : Bool
  vector : Nat
  sqHead : Nat
  sqTail : Nat
  cqTail : Nat
  cqHead : Nat
  phase : Bool
  enabled : Bool
  draining : Bool
  err : BitVec 4
  wait : List CqEntry
  unwritten : List Unwritten
  coal : BitVec 24
  unsignalled : Nat
  coalFrom : Option (DT × Nat × Nat)
  deriving DecidableEq, Repr

/-- A buffer posted with BUF_POST (R317), in its class's order; `fill` the bytes written in it. `firstWrite` is the DT of its
first write (R318, R240); `bad` when a DRAM multi-bit error made it unrecoverable (R318). -/
structure Buffer where
  addr : BitVec 64
  len : Nat
  cookie : BitVec 64
  fill : Nat
  firstWrite : Option DT
  bad : Bool
  deriving DecidableEq, Repr

/-- A record or block for the buffers of a class (R217, R250, R256, R416): its producer (subscription, service, port or log),
KIND, FLAGS, context, sequence number, stamp, AUX and payload; `total` its bytes in a buffer where the payload is signal
samples that the model does not hold; `block` for an audio block, which has its header in the payload and is never split;
`sherd` the sequence number of the Sherd it carries. -/
structure Rec where
  producer : Nat
  kind : Nat
  flags : Nat
  ctx : Nat
  seq : Nat
  dt : DT
  aux : Nat
  payload : List Byte
  total : Nat
  block : Bool
  sherd : Option (BitVec 64)
  deriving DecidableEq, Repr

/-- The return ring and the buffers of one buffer class (R316 to R319, R503). `stage` is the staging area of the class's
producers, oldest first; `lost` counts, per producer, what an open discard episode has lost, `owed` what the producer's next
record must carry as LOSS (R218); `serial` counts the buffers returned. -/
structure RetRing where
  setup : Bool
  base : BitVec 64
  size : Nat
  head : Nat
  tail : Nat
  phase : Bool
  err : Bool
  vector : Nat
  wait : List RetEntry
  buffers : List Buffer
  stage : List Rec
  lost : List (Nat × Nat)
  owed : List (Nat × Nat)
  serial : Nat
  deriving DecidableEq, Repr

/-- One MSI-X table entry (R314). -/
structure Msix where
  addr : BitVec 64
  data : BitVec 32
  masked : Bool
  deriving DecidableEq, Repr

/-- The three counts of one ledger class (R29, R30). -/
structure LedgerRow where
  posted : Count
  returned : Count
  held : Count
  deriving DecidableEq, Repr

/-- The snapshot registers of the ledger block (R320). -/
structure Snapshot where
  done : Bool
  id : BitVec 16
  dt : DT
  rows : Vector LedgerRow 9
  sqPos : Vector Nat 32
  cqPos : Vector Nat 32
  rrPos : Vector Nat 4
  deriving DecidableEq, Repr

/-- The host interface (R295 to R326). `held` is in submission order (R308); `heldBack` are events that a producing block
holds while the internal queue is full (R44); `resuming` is the held command that the step runs now; `returning` are the commands that a
warm start returns when it ends (R323). `speed` (1 to 3) and `width` are those of the trained link, `d3hot` that the function is in D3hot,
`aerCorrectable` and `aerUncorrectable` the AER status words (R295). -/
structure HostIf where
  pairs : Vector Pairq 32
  rings : Vector RetRing 4
  msix : Vector Msix 33
  pba : BitVec 33
  rrCoal : BitVec 24
  rrUnsignalled : Nat
  rrCoalFrom : Option (DT × Nat × Nat)
  bme : Bool
  linkUp : Bool
  held : List Held
  returning : List Returning
  speed : Nat
  width : Nat
  d3hot : Bool
  aerCorrectable : BitVec 32
  aerUncorrectable : BitVec 32
  nextId : Nat
  turns : Vector (Nat × Nat) 4
  mportTurn : Bool
  resuming : Option Nat
  evMask : BitVec 64
  evtSeq : BitVec 16
  heldBack : List CqEntry
  ledger : Vector LedgerRow 9
  epoch : BitVec 32
  snap : Snapshot
  bar2Discarded : Nat
  deriving DecidableEq, Repr

/-! ### Time, reference and sampling clocks (R45 to R78, R526, R527) -/

/-- The states of the discipline loop (R53), in its order. -/
inductive Disc where
  | free | acquire | locked | phaseHold | holdover | returning
  deriving DecidableEq, Repr

/-- A slew of DT in progress (R48, R49, R59): `left` what was still to be gained at `since` (signed, 2^-32 s), `cmd` the TIME_SET
it belongs to, `cfgRate` whether it runs at SLEW_RATE (R75), `began` the DT at which it began. -/
structure Slew where
  left : Int
  since : DT
  cmd : Option Nat
  cfgRate : Bool
  began : DT
  deriving DecidableEq, Repr

/-- A ratio carried exactly (R140, R267): `word` in units of 2^-48, and the residue p/q of one such unit. -/
structure RateWord where
  word : Nat
  p : Nat
  q : Nat
  deriving DecidableEq, Repr

/-- One sampling PLL (R63 to R71): running, its LOCKx comparator, declared locked (R66), its reference setting, and
whether it was lost and makes re-lock attempts (R69). `unlockAt` is the DT at which its detector stopped charging the LOCKx pin:
the comparator reads high for 0.51 ms more (R67). -/
structure Pll where
  running : Bool
  cmp : Bool
  declared : Bool
  refMult : Nat
  icp : Nat
  lost : Bool
  unlockAt : Option DT
  deriving DecidableEq, Repr

/-- A running TIME_PLL_CONFIG sequence (R64): its command, the step reached (1 or 4, or 0 for SPARE_EN alone, 5 for an
in-place reconfiguration under ALLOW_HIT), the setting it brings, and whether it stops the former active PLL. -/
structure PllSeq where
  cmd : Nat
  stage : Nat
  refMult : Nat
  icp : Nat
  stopOld : Bool
  deriving DecidableEq, Repr

/-- Device time, the discipline loop and the sampling PLLs. `coastFrom` is the DT at which HOLDOVER began, `held` the word it heads for
(R55, R56); `lockedFrom`, `lockedSum` the start and the integral of the tune word of the LOCKED period that runs, `lockedMean` the mean
of the last one, `tuneStored` the DT of its last store (R76, R441). `dtLow` and `residue` are the accumulator below 2^-32 s and the
modulo-9375 residue (R45); `hist` the tune-word history with the DT of each change, newest first (R55); `offsets` the 8-edge measurement
(R59), `last8` the offsets of the last 8 accepted edges (R53), both newest first; `lastEdge` the DT of the last accepted edge, none after
a step of DT. `vcoStopped` while both PLLs are lost and the VCO itself has stopped (R71). DTs that a step of DT may move below zero are
signed. -/
structure TimeSt where
  dt : DT
  dtLow : BitVec 16
  residue : Nat
  rateAdj : Int
  running : Bool
  unset : Bool
  backup : Bool
  cfg : FieldSet
  shadow : FieldSet
  disc : Disc
  tune : Int
  held : Int
  coastFrom : Int
  lockedFrom : Int
  lockedSum : Int
  lockedMean : Int
  tuneStored : DT
  hist : List (Int × Int)
  refinQual : Bool
  ppsQual : Bool
  returnRef : Bool
  returningSince : DT
  measuring : Bool
  offsets : List Int
  last8 : List Int
  lastOffset : Int
  lastEdge : Option Int
  freqErr : Option Int
  y0 : Int
  sumX : Int
  fwdStep : Option (Int × DT)
  slew : Option Slew
  decided : Option (DT × Int × Int × Bool)
  plls : Vector Pll 2
  activeB : Bool
  spareAligned : Bool
  switchedAt : Option DT
  bothLost : Bool
  vcoStopped : Bool
  pllSeq : Option PllSeq
  phaseCmd : Option (Nat × Int)
  phaseRef : Int
  ppsHigh : Option DT
  deriving DecidableEq, Repr

/-! ### Wideband inputs, carvers, pointed tuners, the Slip (R79 to R129) -/

/-- One gain change of an input's history (R85, R334): DT, old G, new G, cause (0 slow loop, 1 overload, 2 command). -/
structure GainChange where
  dt : DT
  old : Int
  new : Int
  cause : Nat
  deriving DecidableEq, Repr

/-- A wideband converter input (R79 to R89, R97): its fields, the gain G, the run of windows below target (R82), its history
and counts (R85), and its interleave calibration (R88): `subs` the offset (0.01 LSB), gain (0.001 dB) and skew (0.01 ps) of the eight
sub-converters of each front end, `lna` the true sizes of the +12 and +20 dB settings and `att` of the thirty 1 dB attenuator steps in
0.01 dB, `delay` the analogue delay in ps to which the digital gain is aligned; `digital` is that gain in 0.01 dB, the same on both
front ends (R84). -/
structure WbIn where
  cfg : FieldSet
  gain : Int
  holdFrom : Option DT
  history : List GainChange
  overloads : Nat
  clipped : Nat
  calGood : Bool
  clippedSinceCal : Bool
  digital : Int
  subs : List (Int × Int × Int)
  lna : Int × Int
  att : List Int
  delay : Int
  deriving DecidableEq, Repr

/-- A band carver (R90 to R98): its active and shadow fields, and whether its peer stream has stopped (R93). -/
structure Carver where
  cfg : FieldSet
  shadow : FieldSet
  stopped : Bool
  resumes : Bool
  deriving DecidableEq, Repr

/-- Tuner states (R108), in its order. -/
inductive TState where
  | sleep | standby | synth | rx | probe | failed
  deriving DecidableEq, Repr

/-- A synthesiser plan (R104): N, D as its binary logarithm, and REF_MULT as coded (0 ×1, 1 ×2, 2 ÷2). -/
structure Plan where
  n : Nat
  dlog : Nat
  mult : Nat
  deriving DecidableEq, Repr

/-- An entry of a recall table (R107). -/
structure Recall where
  plan : Plan
  band : Nat
  irGain : Int
  irPhase : Int
  trim : Nat
  temp : Int
  dtSec : BitVec 32
  deriving DecidableEq, Repr

/-- An entry of a band table (R106): measured edges in kHz, temperature in degrees, EXCLUDE. -/
structure Band where
  low : Nat
  high : Nat
  temp : Int
  exclude : Bool
  deriving DecidableEq, Repr

/-- A channel change under way (R111): whether it uses the recall table, and the held command it belongs to. -/
structure Change where
  fromTable : Bool
  cmd : Option Nat
  ctx : Option Nat
  deriving DecidableEq, Repr

/-- A pointed tuner (R100 to R121, R127). `freq` is the committed frequency; `target` the state a transition heads for;
`probe` the fields of the running or held probe and its command; `retest` the command whose transition first runs the retry
test of R117; `recalls` is most recently used first; `digital` the compensating gain in dB (R103), `offset` the offset correction in
0.01 % of full scale and `bandwidth` the filter's bandwidth error in 0.01 % of nominal (R112). -/
structure Tuner where
  st : TState
  cfg : FieldSet
  shadow : FieldSet
  freq : Option Nat
  plan : Option Plan
  band : Nat
  gain : Int
  holdFrom : Option DT
  calibrating : Bool
  change : Option Change
  target : Option TState
  targetCmd : Option Nat
  probe : Option (Nat × FieldSet × Bool)
  retest : Option (Nat × TState)
  unavailable : Bool
  retries : Nat
  lastRetry : Nat
  irGain : Int
  irPhase : Int
  trim : Nat
  offset : Int
  bandwidth : Int
  digital : Int
  verifiedIr : Int
  history : List GainChange
  overloads : Nat
  clipped : Nat
  bands : Vector Band 64
  recalls : List Recall
  recallDirty : Bool
  deriving DecidableEq, Repr

/-- Who holds the Slip (R125): nobody, the host command's mode (CW, LEARN, SUPERVISE), a Kiln activity, or the Saggar. -/
inductive SlipOwner where
  | nobody | host | firing (activity : Nat) | saggar
  deriving DecidableEq, Repr

/-- The Slip (R122 to R126, R128): fields, owner, a request of the Saggar that waits for the release, the learnt baseline in
0.01 dBm with the sum and number of the measurements taken of 16, the missed measurements, the last difference, the ALARM flag,
and whether a tone is emitted; `level` and `lastAt` are those of the last supervision measurement (R126);
`stopped` a CW emission that a warm start ended (R129). -/
structure SlipSt where
  cfg : FieldSet
  shadow : FieldSet
  owner : SlipOwner
  sgWaiting : Bool
  learnSum : Int
  learnCount : Nat
  baseline : Option Int
  missed : Nat
  lastDiff : Int
  alarm : Bool
  emitting : Bool
  level : Int
  lastAt : Option DT
  stopped : Bool
  deriving DecidableEq, Repr

/-- The RF front end. -/
structure RfSt where
  wb : Vector WbIn 2
  carvers : Vector Carver 8
  tuners : Vector Tuner 4
  slip : SlipSt
  adcTemp : Int
  deriving DecidableEq, Repr

/-! ### Channel paths (R130 to R156) -/

/-- What an open path is doing (R145, R147). -/
inductive PathRun where
  | closed | withholding | running | hold
  deriving DecidableEq, Repr

/-- A coefficient swap (R137, R138): target bank (true for B), FADE_LEN in output samples, its command. -/
structure Swap where
  target : Bool
  len : Nat
  cmd : Nat
  deriving DecidableEq, Repr

/-- A comparator of the power detector (R150): entered or cleared, the blocks of the running dwell, the stamp of its first
block. -/
structure Comparator where
  entered : Bool
  blocks : Nat
  first : DT
  deriving DecidableEq, Repr

/-- A channel path (R130 to R155). `source` is 0 to 7 for BC0 to BC7 and 8 to 11 for PT0 to PT3; `fin` its input rate in hertz; `m` and
`h` the plan (R134); `wp` and `trim` the NCO word and NCO_TRIM (R132, R133), `trimHeld` a value of it that waits for a Saggar job; `cfg`
rows 6 to 12 of R155. `next` is the stamp of the next interval to be delivered; `gapFrom` the first interval not delivered while a gap is
open (R146); `grid` an instant of CTX_SYNC that the SYNC stamp must meet (R148); `dueOpen` the intervals due and not settled, `delivered`
and `gapped` those settled (R29, R32); `opening` until the SYNC sample after CTX_OPEN; `fade` the swap that runs (true) or waits for its
frame boundary, `queued` the one behind it, `fadePos` the FIR samples since the fade began (R137, R138). `inc`, `phase`, `residue` are
the resampler's increment and accumulator (R140, R141); `madeFrom` the DT of the last reset, `made` the output samples made since,
`phases` the accumulator at each one made and not yet delivered; `line` and `firs` the last input and output samples of the FIR, newest
first, `firCount` the FIR samples since the reset. `syncAt` is the stamp of the SYNC sample, `since` the samples from it to `next`,
`blockSync` whether the next block begins with it, `block` the last block delivered (R143), `kept` the blocks of the last 24 ms, newest
first (R169). `powSum`, `powN`, `powFrom` are the running power block and its first stamp, `powers` the sum, length and stamp of complete
ones not yet judged (R149). -/
structure Path where
  run : PathRun
  ctx : Nat
  source : Nat
  fin : Nat
  fout : Nat
  m : Nat
  h : Nat
  wp : Int
  trim : Int
  trimHeld : Option Int
  trimChanged : Bool
  firLen : Nat
  cfg : FieldSet
  bankA : List Int
  bankB : List Int
  activeB : Bool
  fade : Option (Swap × Bool)
  queued : Option Swap
  fadePos : Nat
  inc : RateWord
  phase : Nat
  residue : Nat
  made : Nat
  madeFrom : DT
  phases : List Nat
  line : List Sample
  firs : List Sample
  firCount : Nat
  syncAt : DT
  since : Nat
  blockSync : Bool
  block : List Byte
  kept : List (List Byte)
  powSum : Nat
  powN : Nat
  powFrom : DT
  powers : List (Nat × Nat × DT)
  high : Comparator
  low : Comparator
  next : DT
  dueOpen : Nat
  delivered : Nat
  gapped : Nat
  gapFrom : Option DT
  grid : Option DT
  seq : BitVec 32
  clipped : Nat
  level : Int
  broken : Bool
  opening : Bool
  deriving DecidableEq, Repr

/-! ### Contexts (R157 to R185), DAB and DRM (R186 to R213), side data and alternatives (R214 to R241) -/

/-- The states of a context (R158), in its order. -/
inductive CtxState where
  | closed | opening | acquiring | running | retuning | hold | closing
  deriving DecidableEq, Repr

/-- The standards (R184), in the order of the STANDARD range. -/
inductive Standard where
  | am | fm | dab | drm | drmPlus
  deriving DecidableEq, Repr

/-- What the branch of a context is (R172 to R174). -/
inductive Branch where
  | none | failover | diversity
  deriving DecidableEq, Repr

/-- A DAB subchannel of the organisation in force (R194, R196, R198, R210, R225): `overs` the objects, with their length, that are counted in
`oversize`. -/
structure SubchStat where
  subch : Nat
  cus : Nat
  selectedFrom : Option Nat
  rsCorrected : Nat
  rsFailed : Nat
  syncLosses : Nat
  erasedFrames : Nat
  oversize : Nat
  overs : List (Nat × Nat)
  incomplete : Nat
  deriving DecidableEq, Repr

/-- The DAB part of a context (R191 to R201): frame sync and criteria, ensemble identifier, CIF count, organisation, the CIFs written to the
de-interleaver since its last flush, nulls missed, DT of the loss of sync, TII list; `applied` what asked for subchannels at the last context
frame boundary (R196), `clusters` those that FIG 0/18 supports (R236), `denied` those that found no placement when the organisation changed
(R189), `ficWin` the FIBs failed in the running window. -/
structure DabSt where
  firstNull : Option Nat
  sync : Bool
  full : Bool
  eid : Option Nat
  cif : Nat
  comps : List Component
  next : Option (Nat × List Component)
  cifsWritten : Nat
  missed : Nat
  lostAt : Option DT
  ensembleChanged : Bool
  reconfCount : Nat
  ficErr : Nat
  tii : List (Nat × Nat × Int × Int)
  subs : List SubchStat
  labels : List (Nat × List Byte × Nat)
  erasedCifs : Nat
  applied : List (Nat × Nat)
  clusters : List Nat
  denied : List Nat
  ficWin : Nat
  deriving DecidableEq, Repr

/-- The DRM part of a context (R202 to R208): `facTaken` that the configuration in force is that of a FAC that passed since sync was found;
`compsNext` the organisation announced for a reconfiguration; `facWin` and `sdcErr` the
FACs and SDCs that failed in the running window. -/
structure DrmSt where
  sync : Bool
  mode : Option (Fin 5)
  good : Nat
  bad : Nat
  full : Bool
  occupancy : Nat
  longInt : Bool
  qam : Nat
  reconfIndex : Nat
  framesWritten : Nat
  framePos : Nat
  lostAt : Option DT
  comps : List Component
  merFac : Int
  erasedFrames : Nat
  streams : List (Nat × Nat × Nat)
  sdcErr : Nat
  facTaken : Bool
  compsNext : Option (List Component)
  facWin : Nat
  deriving DecidableEq, Repr

/-- RDS decoding of a context (R220 to R223): `lastPi` the PI of the last group, `pi` the last that passed twice; the results of the last
400 expected blocks, newest first (true for FAILED or NOT_RECEIVED); `synced` the blocks since sync was declared; `winBlocks` and
`winBad` the blocks expected and failed in the running window; `seen` the segments received with how often each was seen and the stamp of
the first; `items` the items complete under the present PI. -/
structure RdsSt where
  sync : Bool
  pi : Option (BitVec 16)
  lastPi : Option (BitVec 16)
  groups : Nat
  blocks : List Bool
  synced : Nat
  winBlocks : Nat
  winBad : Nat
  mmbs : Nat
  eye : Int
  dev : Int
  seen : List (Segment × Nat × DT)
  items : List (Nat × List Byte)
  deriving DecidableEq, Repr

/-- An alternative frequency (R228 to R232): the mask of its sources, the bank that measures it and whether in turn or by tuner hop
(unmeasured when neither), its last intervals (LEVEL, CNR, MULTIPATH), newest first, the PI read last, the PI that passed twice and
when, the intervals in a row in which it was a candidate, and the DT of a crossing that waits for its decision. -/
structure AltFreq where
  freq : Nat
  source : Nat
  bank : Option Nat
  shared : Bool
  hop : Bool
  hist : List (Int × Int × Int)
  piSeen : Option Nat
  pi : Option Nat
  piAt : DT
  met : Nat
  crossed : Option DT
  deriving DecidableEq, Repr

/-- A seamless switch under way (R234): the new frequency, its path, its step (0 deferred, 1 before SYNC, 2 parallel, 3 delay found, 4
cross-fade, 5 a retune of SWITCH_GAP) and the DT at which that began, the crossing, the candidate's PI, the delay found. -/
structure AfSwitch where
  freq : Nat
  path : Option (Fin 64)
  stage : Nat
  since : DT
  crossed : DT
  pi : Nat
  qCtx : Int
  qAf : Int
  delay : Option Int
  deriving DecidableEq, Repr

/-- An alert flag that is ON (R236 to R238): kind, cluster, types, object, and OFF confirmations seen. -/
structure AlertSt where
  kind : Nat
  cluster : Nat
  types : Nat
  obj : Nat
  offs : Nat
  restate : Bool
  deriving DecidableEq, Repr

/-- The figures of the last complete measurement window (R177, R179, R210, R223). -/
structure WinResult where
  mPos : Int
  mNeg : Int
  devPeak : Nat
  devExceed : Nat
  berPre : Nat
  ficErr : Nat
  facErr : Nat
  sdcErr : Nat
  blerWin : Int
  deriving DecidableEq, Repr

/-- A checkpoint (R169): the frames demodulated, and the state of the demodulator, equaliser, blend and measurements at the end of the
last. -/
structure Checkpoint where
  frame : Nat
  fig : FrameFigures
  blend : Nat
  eqEngaged : Bool
  eqDenied : Bool
  pilot : Bool
  win : WinResult
  mpxPower : Int
  mpxSeconds : List Nat
  mpxCount : Nat
  qHist : List Int
  branchFrames : Nat
  selected : Bool
  afcDigital : Int
  deriving DecidableEq, Repr

/-- A context. `wheel` its Wheel; `frame` the frames since the SYNC sample, `frameAt` the stamp at which frame 0 began; `selected` that SELECT
has chosen the branch (R173); `blend` the share of stereo in 0.1 % (R178); `afcDigital` the offset that is followed digitally, in path NCO steps
(R176); `ckpts` the two checkpoint buffers, `checkBuf` the one written last (R169); `commitFrame` the frame at which the last commit applied;
`mpxSeconds` the mean Δf² of the last 60 s, newest first, in Hz², `mpxCount` the seconds taken since the last synchronising reset (R180);
`reportAt` the DT of the last AF report (R235); `acqFrom`, `lossFrom` the DT since which the criteria hold or the CNR is low (R158), `eqFrom`,
`pilotFrom` that since which the equaliser or the pilot is beyond its limit (R178); `triedAt` the DT of the last retry of R174; `clipCount`,
`branchClip` the CLIP-flagged samples of the last frame (R85, R181); `mirror` the state of the SHIELD mirror (0 none, 1 arming, 2 armed) (R476).
-/
structure Ctx where
  st : CtxState
  std : Standard
  freq : Nat
  cfg : FieldSet
  shadow : FieldSet
  source : Nat
  primary : Option (Fin 64)
  branch : Option (Fin 64)
  branchRole : Branch
  branchFrames : Nat
  wheel : Option (Fin 16)
  frame : Nat
  frameAt : DT
  selected : Bool
  blend : Nat
  afcDigital : Int
  ckpts : Vector (Option Checkpoint) 2
  checkBuf : Bool
  commitFrame : Nat
  fig : FrameFigures
  win : WinResult
  winFrom : DT
  eqEngaged : Bool
  eqDenied : Bool
  pilot : Bool
  mpxPower : Int
  mpxSeconds : List Nat
  mpxCount : Nat
  mpxFrom : Option DT
  mpxValid : Bool
  mpxOver : Bool
  acqFrom : Option DT
  lossFrom : Option DT
  eqFrom : Option DT
  pilotFrom : Option DT
  triedAt : Option DT
  clipCount : Nat
  branchClip : Nat
  dab : DabSt
  drm : DrmSt
  rds : RdsSt
  hostAfs : List Nat
  seenAfs : List (Nat × Nat)
  afs : List AltFreq
  qHist : List Int
  afSwitch : Option AfSwitch
  afHoldoff : Option DT
  reportAt : Option DT
  alerts : List AlertSt
  mirror : Nat
  mirrorOn : Bool
  deriving DecidableEq, Repr

/-- A data subscription (R214 to R218): `last` the values last delivered, by label, item or entity; `parts` the segments of an incomplete
label, object or text, each with the stamp and the AUX of the frame in which it came; `motSince` the DT of the last segment of each
incomplete MOT object. -/
structure Sub where
  id : BitVec 16
  ctx : Nat
  kind : Nat
  selector : List Byte
  seq : BitVec 32
  last : List (Nat × List Byte)
  parts : List (Segment × DT × Nat)
  motSince : List (Nat × DT)
  deriving DecidableEq, Repr

/-- A Wheel (R167 to R171): in the pool or failed, in its self-test after a hang, the DT at which its watchdog expired, and
the contexts that moved off it with the frames of the checkpoint they loaded. -/
structure Wheel where
  failed : Bool
  testing : Bool
  hungAt : DT
  moved : List (Nat × Nat)
  deriving DecidableEq, Repr

/-- A running CTX_SYNC (R148): its command, T, the contexts that still have to deliver, and the counts of the result. -/
structure SyncCmd where
  cmd : Nat
  at_ : DT
  waiting : List Nat
  delivered : Nat
  left : Nat
  deriving DecidableEq, Repr

/-- The mill, the contexts, their Wheels, the subscriptions and the tuner hop. -/
structure CtxSt where
  paths : Vector Path 64
  ctxs : Vector Ctx 64
  wheels : Vector Wheel 16
  syncs : List SyncCmd
  subs : List Sub
  nextSub : BitVec 16
  flushMs : Nat
  hops : Vector (Option Nat) 4
  meterTurns : Vector Nat 8
  profile : Nat
  deriving DecidableEq, Repr

/-! ### Programme audio, loudness, signatures (R242 to R264) -/

/-- The states of an audio service (R244), and a service number not in use. -/
inductive SvcState where
  | free | waiting | running | mutedHold
  deriving DecidableEq, Repr

/-- A frame of programme audio at 48 kHz (R246, R248): its samples and the flags CONCEALED and MUTED. -/
structure AFrame where
  l : Int
  r : Int
  conc : Bool
  mute : Bool
  deriving DecidableEq, Repr

/-- The K-weighting of one channel (R251): its last two inputs, and the last two values after each of its two stages, in 2^-16. -/
structure KFilter where
  x1 : Int
  x2 : Int
  y1 : Int
  y2 : Int
  z1 : Int
  z2 : Int
  deriving DecidableEq, Repr

/-- A loudness block of 100 ms (R251): the stamp of its beginning, the sum of the squares of its K-weighted samples over its channels, the
true peak of each channel in 0.1 dB where there is any; `muted` when it holds a MUTED sample. -/
structure LoudBlock where
  stamp : DT
  power : Nat
  peakL : Option Int
  peakR : Option Int
  muted : Bool
  deriving DecidableEq, Repr

/-- The meter of a line of audio (R251): its filters and the last samples of its oversampling; whether a block is under way, with its power,
its peaks in 2^-13 and whether it has a MUTED sample; the blocks that are complete and not judged yet, oldest first. -/
structure Meter where
  kl : KFilter
  kr : KFilter
  tapsL : List Int
  tapsR : List Int
  running : Bool
  power : Nat
  peakL : Nat
  peakR : Nat
  muted : Bool
  done : List LoudBlock
  deriving DecidableEq, Repr

/-- A sub-frame of a signature (R254): the energies of its eight bands, whether its mono level reaches −60 dBFS, whether its window holds
CONCEALED and MUTED samples. -/
structure SubFrame where
  bands : List Nat
  loud : Bool
  concealed : Bool
  muted : Bool
  deriving DecidableEq, Repr

/-- A sample of the mono signal at 8 kHz (R254), with CONCEALED and MUTED. -/
structure Mono where
  v : Int
  conc : Bool
  mute : Bool
  deriving DecidableEq, Repr

/-- A line of audio at 48 kHz (R246, R247, R254): `start` the stamp of its frame 0, `count` the frames that blocks have taken; `wait` the frames
not taken yet, oldest first, each with the DT at which it was made; `past` those taken of the last 4.2 s, newest first; its meter; the mono
samples at 8 kHz of a little over one second, newest first, with the number from DT zero of the next one; `second` the next signature
second. -/
structure Line where
  start : Option DT
  count : Nat
  wait : List (DT × AFrame)
  past : List AFrame
  meter : Meter
  mono : List Mono
  monoNext : Nat
  second : Nat
  deriving DecidableEq, Repr

/-- An open airplay item (R258, R259): reference, start stamp, PARTIAL_START; `offset` the number of the service's sub-frame aligned with
sub-frame 0 of the reference, `total` the sub-frames of the reference; `compared` the reliable sub-frames compared and `errors` the bits
that differed; `badFor` the seconds for which the BER over 2 s has been too high; `last` the stamp of the last sub-frame that matched. -/
structure Airplay where
  ref : Nat
  start : DT
  partialStart : Bool
  offset : Int
  total : Nat
  compared : Nat
  errors : Nat
  badFor : Nat
  last : DT
  deriving DecidableEq, Repr

/-- An audio service (R242 to R264). `fails` the consecutive failed access units, `concealed` all of them, `muted` that the third has muted
the audio, `fade` how far its fade has come in frames (R248), `unit` the decoded samples of the last good unit and `unitRate` their rate;
`gain` how far the ramp of a hold has come (R244), `line` its audio. `loudHist` are the loudness blocks that are not excluded, newest first
(R251), `loudFrom` begins the integration span since the last RESET and `loudOld` began the one before, `itemEnd` is the end of the last airplay
item (R252, R262), `reportFrom` begins the report period.
`chainWords` are the WORDS and RELIABLE bytes since the last SIG_CHAIN Sherd, `chainEnd` the end of the last second in it (R261); `recent`
the stamps, SIG_BLOCK payloads and metadata of the last 640 signature seconds, newest first, from which an ITEM_END takes those of its
span (R259); `bands` the energies of the last two sub-frames (R254), `words` the last 2048 words with whether they are reliable, newest
first, `subEnd` the number from DT zero of the sub-frame after the newest, `cands` the candidates of the matcher with their offsets
(R258). -/
structure Svc where
  st : SvcState
  ctx : Nat
  sid : Nat
  scids : Nat
  cfg : FieldSet
  startFlag : Bool
  seq : BitVec 32
  stereo : Bool
  fails : Nat
  muted : Bool
  fade : Nat
  concealed : Nat
  unit : List (Int × Int)
  unitRate : Nat
  gain : Nat
  line : Line
  loudFrom : DT
  loudOld : DT
  itemEnd : DT
  maxMomentary : Option Int
  maxShort : Option Int
  maxPeakL : Option Int
  maxPeakR : Option Int
  metadata : List Byte
  loudHist : List LoudBlock
  reportFrom : Option DT
  excluded : Nat
  belowFrom : Option DT
  silence : Bool
  recSeq : BitVec 32
  sigSec : Nat
  item : Option Airplay
  chainFirst : Nat
  chainFrom : DT
  chainEnd : DT
  chainCount : Nat
  chainConc : Nat
  chainWords : List Byte
  recent : List (DT × List Byte × List Byte)
  bands : List (List Nat)
  words : List (Nat × Bool)
  subEnd : Nat
  cands : List (Nat × Int)
  deriving DecidableEq, Repr

/-- A reference of the library (R257). -/
structure Ref where
  id : Nat
  seconds : Nat
  words : List Byte
  deriving DecidableEq, Repr

/-- The services and the reference library. -/
structure AudioSt where
  svcs : Vector Svc 96
  library : List Ref
  deriving DecidableEq, Repr

/-! ### Audio ports (R265 to R294) -/

/-- What an output channel plays (R279). -/
inductive RouteSrc where
  | none
  | svc (n : Fin 96) (ch : Fin 3)
  | ain (n : Fin 4) (ch : Fin 2)
  | tone
  | silence
  deriving DecidableEq, Repr

/-- A route of a logical output channel (R277 to R280): port, channel, source, LATENCY in ms (0 for AUTO), whether it is muted since a warm
start until its source delivers (R294), and whether its source is gone. `gain` is how far its mute ramp has come in frames; `old` the source
and LATENCY that fade out in its next block (R279); `next` those that follow when a mute ramp has completed (R291, R293), `zeros` the
frames of zeros it then holds; `held` what its buffer still holds of a service that is gone, with the channel. -/
structure Route where
  port : Nat
  ch : Nat
  src : RouteSrc
  latency : Nat
  muted : Bool
  gone : Bool
  gain : Nat
  old : Option (RouteSrc × Nat)
  next : Option (RouteSrc × Nat)
  zeros : Nat
  held : Option (Line × Fin 3)
  deriving DecidableEq, Repr

/-- The fractional divider of an output rate (R266, R267): its ratio to 983.04 MHz, the 48-bit accumulator, the modulo-q counter, whether
it runs (for a port or AMCLK), the DT of its start, and the F_D edges and reference periods counted since. -/
structure Divider where
  ratio : RateWord
  acc : Nat
  residue : Nat
  running : Bool
  startAt : DT
  edges : Nat
  periods : Nat
  deriving DecidableEq, Repr

/-- A port (R265 to R287, R292): fields, the DT of its grid (R270), the frames since it started (R272) and how many of them it had at that DT,
the channel-status image (R272), the TDM slot mask (R276); `blockAt` the DT of its last block and `sent` the samples of it, channel by
channel, with V; whether it is stopping: its channels ramp to mute (R292). -/
structure Port where
  cfg : FieldSet
  grid : Option DT
  frames : Nat
  base : Nat
  image : List Byte
  mask : BitVec 32
  blockAt : DT
  sent : List (List (BitVec 24 × Bool))
  stopping : Bool
  deriving DecidableEq, Repr

/-- The result of one period of the air-chain comparison (R290), with the sub-frames unreliable on each side. -/
structure CompareResult where
  state : Fin 7
  delay : Int
  ber : Nat
  loudDiff : Int
  flags : Byte
  airUnreliable : Nat
  studioUnreliable : Nat
  deriving DecidableEq, Repr

/-- A sample in the buffer of a biphase input (R282): word, V, U, C, error flag, non-audio flag. -/
structure AinSample where
  word : BitVec 24
  v : Bool
  u : Bool
  c : Bool
  err : Bool
  nonAudio : Bool
  deriving DecidableEq, Repr

/-- A block in the buffers of a biphase input (R282): stamp, span in DT units, the samples of channels A and B, whether a DRAM error has
flagged it (R291). -/
structure AinHeld where
  stamp : DT
  span : Nat
  a : List AinSample
  b : List AinSample
  bad : Bool
  deriving DecidableEq, Repr

/-- A biphase input (R282 to R290): lock, rate code, measured offset, format, non-audio state, counts, a rate change under
way, the last good frame, its comparison. `buf` are the buffers of channels A and B over 12 s, newest block first; `fresh` the blocks at a
rate that is not confirmed yet (R285); `quiet` the frames since the last burst preamble and `tail` the 16 MSBs of the last two subframes
(R286). Of the comparison, `line` is the studio feed at 48 kHz, `loudHist` its loudness blocks, `bands`, `words` and `subEnd` its
signature (as of a service); `cmpSub` the delay found in sub-frames and `cmpWin` the sub-frame of the service at which its window begins
(R289, R291); `cmpBad`, `cmpStudio`, `cmpAir` the DT since which the BER is too high, the studio or the air side silent; `cmpAt` the DT of
its last periodic report (R290). -/
structure Ain where
  locked : Bool
  blocks : Nat
  rate : Nat
  ppm : Int
  professional : Bool
  nonAudio : Bool
  dataType : Nat
  csA : List Byte
  csB : List Byte
  parity : Nat
  biphase : Nat
  lastGood : DT
  lostAt : Option DT
  changeFrom : Option DT
  startFlag : Bool
  seq : BitVec 32
  cmp : Option (Fin 96)
  cmpCfg : FieldSet
  cmpState : Fin 7
  cmpDelay : Int
  buf : List AinHeld
  fresh : List AinBlock
  quiet : Nat
  tail : List Nat
  line : Line
  loudHist : List LoudBlock
  bands : List (List Nat)
  words : List (Nat × Bool)
  subEnd : Nat
  cmpSub : Option Int
  cmpWin : Nat
  cmpBad : Option DT
  cmpStudio : Option DT
  cmpAir : Option DT
  cmpAt : DT
  deriving DecidableEq, Repr

/-- The audio ports: outputs and TDM use ports 0 to 7 and 12, 13 of `ports`; `dividers` are those of 32, 44.1, 48 and 96 kHz, in the order of
RATE; AMCLK_SEL is device-wide (R269) and held by every port. `staged` are routes given without COMMIT (R293); `toMove` that the dividers move
to the new active PLL at the next block boundary (R71, R291). -/
structure PortSt where
  ports : Vector Port 14
  dividers : Vector Divider 4
  ains : Vector Ain 4
  routes : List Route
  staged : List Route
  toMove : Bool
  deriving DecidableEq, Repr

/-! ### Two-wire ports (R346 to R367) -/

/-- The two timing words of a two-wire port (R361, R365). -/
structure Timing where
  word0 : BitVec 32
  word1 : BitVec 32
  deriving DecidableEq, Repr

/-- A completion in the MPORT result store with the output bytes it carries (R354). -/
structure MpResult where
  entry : CqEntry
  area : List Byte
  deriving DecidableEq, Repr

/-- An event copied into the MPORT mirror with its EVT_SEQ (R351). -/
structure MpEvent where
  entry : CqEntry
  seq : BitVec 16
  deriving DecidableEq, Repr

/-- The MPORT (R346 to R363): timing in force and written, control word, the sub-entries received and not yet begun, the result
store and the last delivery, the mirror, host notify, stuck bus, latched status and counts, Dormant gating (R360). -/
structure Mport where
  timing : Timing
  timingNext : Option (Timing × BitVec 32)
  control : BitVec 32
  received : List (List Byte)
  results : List MpResult
  lastResult : Option MpResult
  mirror : List MpEvent
  lastEvents : List MpEvent
  lastFromQueue : Bool
  evtOvf : Bool
  busStuck : Bool
  stuckLine : Bool
  hnPending : Bool
  hnTries : Nat
  pecErr : Bool
  stretchTo : Bool
  arbLost : Bool
  nackHn : Bool
  sdaReleased : Bool
  pecErrors : BitVec 16
  arbLosses : BitVec 16
  awake : Option DT
  deriving DecidableEq, Repr

/-! ### The Saggar (R368 to R395) -/

/-- Saggar states (R371), in the order of SG_STATUS, and the Saggar without power. -/
inductive SgState where
  | boot | ready | measuring | stopped | off
  deriving DecidableEq, Repr

/-- Seal states (R372), in the order of SG_STATUS. -/
inductive Seal where
  | unsealed | sealed_ | never | fault
  deriving DecidableEq, Repr

/-- A measurement job (R381 to R386): queued or running, who asked, its request, how its path was chosen (0 SHARED, 1 OWN on a tuner, 2
OWN on a carver), what it holds, and the marks gathered while it ran. `wheel` is the Wheel that reads the identity of an OWN path with
its cost (R383); `std` and `freq` are its context's at the start, `carverCfg` the fields of an OWN carver before it; `fault` a job that a
Saggar fault ended and whose result is still to be written (R391). `tap` is what the tap copied last with its stamp, `tapped` and
`tapClips` the samples copied within its interval and those with CLIP, `gainSteps` the stamps of the gain-step markers (R86, R153).
`tone` is the level of its verification tones in 0.1 dBm, `toneBad` a start tone that two gain steps spoilt (R379, R395). -/
structure Job where
  id : BitVec 32
  running : Bool
  lport : Bool
  ctx : Nat
  quantity : Nat
  pathSel : Nat
  duration : Nat
  start : DT
  planned : DT
  expected : Option Nat
  bandwidth : Nat
  path : Option (Fin 64)
  own : Nat
  tuner : Option (Fin 4)
  carver : Option (Fin 8)
  wheel : Option (Fin 16 × Nat)
  began : DT
  cStart : Int
  tone : Int
  toneBad : Bool
  std : Standard
  freq : Nat
  carverCfg : FieldSet
  unsealed : Bool
  fault : Bool
  broken : Bool
  tap : Option (DT × List Sample)
  tapped : Nat
  tapClips : Nat
  gainSteps : List DT
  deriving DecidableEq, Repr

/-- A result of the job result store (R387), as laid out there. -/
structure SgResult where
  job : BitVec 32
  quantity : Nat
  flags : BitVec 8
  ctx : Nat
  start : DT
  finish : DT
  value : BitVec 32
  uncertainty : BitVec 32
  seq : BitVec 64
  invalid : BitVec 16
  notLegal : BitVec 16
  source : Nat
  path : Nat
  idSource : Nat
  cStart : Int
  cEnd : Int
  ident : BitVec 32
  deriving DecidableEq, Repr

/-- An antenna-factor entry (R380) or a Slip level entry (R389): kHz, value, uncertainty. -/
structure SgEntry where
  khz : Nat
  value : Int
  unc : Nat
  deriving DecidableEq, Repr

/-- The Saggar: its states, jobs, results, counters, software areas, parameters, legal log, LPORT and response store. `sealBefore` is the
seal state before a fault, `recovering` the fault after which it boots, `coldBoot` a boot that loses the numbers it had reserved;
`tamperArmed` whether TAMPER_N can act; `areas` the version and checksum of image A and B, `imageNext` the blocks written to the inactive
one; `afTables` by input RFWA, RFWB, RFP0 to RFP3; `verifyBad` a drift beyond its limit (R388), `verifyLate` VERIFY_MAX passed (R392).
`committed` is the first number not committed, `reserved` the end of the reservation; `log` the vault ring, `formed` records not
committed, both oldest first; `boots` the count of boots (R409). `halted` in Dormant (R394). -/
structure SaggarSt where
  st : SgState
  sealSt : Seal
  sealBefore : Seal
  recovering : Option SgFaultKind
  coldBoot : Bool
  tamper : Bool
  tamperArmed : Bool
  jobs : List Job
  nextJob : BitVec 32
  results : List SgResult
  counters : Vector (BitVec 32) 4
  version : BitVec 32
  checksum : List Byte
  areas : Vector (BitVec 32 × List Byte) 2
  imageNext : List (Nat × List Byte)
  activeB : Bool
  afTables : Vector (List SgEntry) 6
  slipTable : List SgEntry
  calDate : DT
  coneDue : Option DT
  legalInterval : Nat
  verifyMax : Nat
  lastVerify : DT
  verifyBad : Bool
  verifyLate : Bool
  legalKey : List Byte
  keyIdent : BitVec 32
  invocation : Nat
  prevTag : List Byte
  boots : BitVec 32
  seq : BitVec 64
  committed : BitVec 64
  reserved : BitVec 64
  log : List (BitVec 64 × List Byte)
  formed : List (BitVec 64 × List Byte)
  deliver : Bool
  lastFault : Option DT
  halted : Bool
  responses : List (List Byte)
  lateResponses : List (List Byte)
  lastResponse : Option (List Byte)
  seek : BitVec 64
  timing : Timing
  busStuck : Bool
  pecErr : Bool
  stretchTo : Bool
  pecErrors : BitVec 16
  deriving DecidableEq, Repr

/-! ### Keys, counters, the operational log (R396 to R420) -/

/-- A key slot (R400): TYPE (0 AES-128, 1 AES-256, 2 HMAC-SHA-256), USAGE, identifier, key bytes, invocation counter, the end
of its persisted reservation block (R405), whether a value was ever used, whether near exhaustion was reported. -/
structure Key where
  type : Nat
  usage : Nat
  ident : BitVec 32
  bytes : List Byte
  counter : Nat
  blockEnd : Nat
  used : Bool
  nearDone : Bool
  deriving DecidableEq, Repr

/-- A message of CRY_PROCESS on a core or in a queue (R397): its command, class, whether it is the hash core's, the slot it names and
the key in it. -/
structure GlazeMsg where
  cmd : Nat
  cls : Nat
  hash : Bool
  slot : Nat
  key : List Byte
  deriving DecidableEq, Repr

/-- A Glaze core or the hash core (R397): the message it runs and those it has suspended, most urgent first. -/
structure Glaze where
  running : Option GlazeMsg
  suspended : List GlazeMsg
  deriving DecidableEq, Repr

/-- A record of the operational log (R409, R415): sequence number, 128 bytes, whether it is held untagged (R412), drained, and
handed to a class-3 buffer. -/
structure Sherd where
  seq : BitVec 64
  data : List Byte
  untagged : Bool
  drained : Bool
  sent : Option Nat
  deriving DecidableEq, Repr

/-- The entropy source (R399): running, in its start-up tests, or failed since a DT. -/
structure Entropy where
  testing : Bool
  failed : Bool
  failures : List DT
  failedAt : DT
  deriving DecidableEq, Repr

/-- The key store, the Glaze cores, the host counters and the operational log. `waiting` are records not yet formed because the
ring is full of held records (R415), oldest first; `overwritten` the first number and count of a run of undrained records
overwritten and not yet covered (R415); `prevTag` the last record's first tag bytes (R409); `ownKey` the next identifier. -/
structure CrySt where
  keys : Vector (Option Key) 64
  nextIdent : Nat
  queues : List GlazeMsg
  cores : Vector Glaze 5
  entropy : Entropy
  counters : Vector (BitVec 32) 8
  keySlot : Nat
  deliver : Bool
  ringKb : Nat
  log : List Sherd
  nextSeq : BitVec 64
  reservedTo : BitVec 64
  waiting : List (List Byte)
  overwritten : Option (BitVec 64 × Nat)
  prevTag : List Byte
  deriving DecidableEq, Repr

/-! ### Memory, capture, time-shift (R421 to R434) -/

/-- The states of a capture slot (R426). -/
inductive CapState where
  | idle | armed | triggered | frozen
  deriving DecidableEq, Repr

/-- A capture slot (R426 to R430): its request, its state, the ring in MB, how far back it reaches, the trigger instant, the bytes and
the oldest stamp of the span held, the blocks of the ring with their stamps, oldest first, and the stamps of the blocks that a DRAM error has
spoilt (R431). Of the inputs and carvers, the blocks are in the State from the freeze on. -/
structure Capture where
  st : CapState
  source : Nat
  index : Nat
  event : Bool
  pre : Nat
  post : Nat
  mask : BitVec 64
  filter : Nat
  armedAt : DT
  ring : Nat
  reach : DT
  trigger : DT
  bytes : Nat
  oldest : DT
  blocks : List (DT × List Byte)
  badBlocks : List DT
  deriving DecidableEq, Repr

/-- DRAM (R421 to R434): its size, the shared pool in MB, whether the pool is initialised (R493), the time-shift DEPTH of each service, the
stamp of the first block that its ring still keeps, the blocks of that ring with their stamps, newest first, the blocks that a DRAM error has
spoilt in it, the BAR2 mapping, and the error counts. -/
structure MemSt where
  dramGb : Nat
  poolMb : Nat
  usedMb : Nat
  poolReady : Bool
  depth : Vector Nat 96
  since : Vector DT 96
  history : Vector (List (DT × List Byte)) 96
  spoilt : List (Nat × DT)
  slots : Vector Capture 4
  bar2 : Option (Nat × Nat × Nat)
  corrected : Nat
  multibit : Nat
  deriving DecidableEq, Repr

/-! ### Kiln schedule and Cone (R435 to R460) -/

/-- The settings of one Kiln activity (R452, R458): ENABLE, CLASS, PERIOD (0 PLAN), WINDOW, and the period a plan set. -/
structure Activity where
  enable : Bool
  cls : Nat
  period : Nat
  window : Nat
  planPeriod : Nat
  deriving DecidableEq, Repr

/-- A firing of an activity on one object (R453, R457): last start, due time, running or not, requested by MNT_CALIBRATE, its commands,
deferrals, whether its class is raised, its estimation blocks (R436, R459) and those discarded at gain steps (R89), the outcome, quality,
activity value and end of the last, the die temperature in 0.1 degrees at the last passing calibration (R440). `storing` is the quality
of a passing firing whose values are being stored, `drift` the Slip level drift in force (R438), `moves` how far each passing firing of
the last 30 days moved its values, in 0.1 % of the step limit (R450). -/
structure Firing where
  activity : Nat
  obj : Nat
  last : DT
  due : DT
  running : Bool
  requested : Bool
  cmds : List Nat
  deferrals : Nat
  raised : Bool
  blocks : Nat
  discarded : Nat
  storing : Option Nat
  drift : Int
  moves : List (DT × Nat)
  outcome : BitVec 16
  quality : Nat
  value : Int
  lastEnd : DT
  lastTemp : Option Int
  deriving DecidableEq, Repr

/-- The Cone (R445 to R451). `heat` is the heat work in 0.01 h, `heatFrac` its fraction in 2^-32 of that, `tMax` the highest T_j seen.
`planMv` is the plan's target for SPAN and PRECISION, `planEndurance` that for ENDURANCE (R448). Of the last 365 days `tuneLog` has the
stored LOCKED tune words, `verifs` the heat work and the largest drift of each Saggar verification; of the last 30 days `heatLog` the
heat work at each survey (R446, R451). -/
structure Cone where
  heat : BitVec 64
  heatFrac : Nat
  tMax : Int
  margins : List Int
  xoDrift : Int
  slipDrift : Int
  adcDrift : Int
  planNumber : BitVec 32
  planMv : Nat
  planEndurance : Nat
  planHeadroom : Nat
  planDt : DT
  survey : DT
  derated : Bool
  storeFailed : Bool
  tuneLog : List (DT × Int)
  verifs : List (DT × Nat × Int)
  heatLog : List (DT × Nat)
  deriving DecidableEq, Repr

/-- Maintenance: settings, firings, the Cone with the DT of its last sample, the stores queued for the vault, and those that PFAIL_N holds up
(R487). -/
structure MaintSt where
  acts : Vector Activity 9
  firings : List Firing
  cone : Cone
  sampledAt : DT
  stores : List (VaultItem × Nat × Option Nat)
  stalled : List (VaultItem × Nat × Option Nat)
  paused : Bool
  deriving DecidableEq, Repr

/-! ### Pair mode (R461 to R483) -/

/-- The link states (R464), in the order of their codes. -/
inductive LinkState where
  | down | training | up | degraded | lost
  deriving DecidableEq, Repr

/-- A PAIR_JOIN in progress (R466): its command, mode, role asked, export, and when it was accepted. -/
structure Join where
  cmd : Nat
  mode : Nat
  role : Nat
  exports : BitVec 2
  at_ : DT
  deriving DecidableEq, Repr

/-- Pair mode (R461 to R483). `role` is 0 none, 1 PRIMARY, 2 SECONDARY; `mode` as PAIR_JOIN; `exportOut`, `exportIn` the streams sent and
received; `stoppedIn` those of the peer that have stopped (R93); `lanes` the lane mask; `dtOffset` in ps, `transit` in ns; `takeover`
after a secondary became PRIMARY by loss (R477); `peerHeld` the intervals of class 6 of the peer's contexts that are held (R36). -/
structure PairSt where
  link : LinkState
  role : Nat
  mode : Nat
  exportOut : BitVec 2
  exportIn : BitVec 2
  stoppedIn : BitVec 2
  lanes : BitVec 4
  peerHb : Bool
  transit : BitVec 32
  dtOffset : Int
  crc : Vector Nat 4
  retrains : BitVec 16
  laneDrops : BitVec 16
  join : Option Join
  takeover : Bool
  peerHeld : Nat
  trainFrom : DT
  laneAt : Vector DT 4
  deriving DecidableEq, Repr

/-! ### Power, starts, pins (R484 to R507), identity and the vault -/

/-- The device states (R298), in the order of the STATE codes. -/
inductive DevState where
  | coldStart | running | warmStart | dormant | recovery | halted
  deriving DecidableEq, Repr

/-- Power, starts and pins (R484 to R507). `valid` is set from step 3 of a cold start (R501); `boot` what the last cold start found on the
board; `waitImage` a cold start that waits for a host image (R491); `dormantArmed` whether DORMANT_REQ has fallen since the last entry (R495);
`entering` that the entry has begun, `wakeAfter` that a wake event came in it (R498); `latched` the bits of 0x5004; `avsTarget` the AVS target
in mV. -/
structure PowerSt where
  st : DevState
  porstN : Bool
  valid : Bool
  boot : Boot
  waitImage : Bool
  fails : Nat
  lastCause : Nat
  runningSince : DT
  imgAddr : BitVec 64
  imgLow : Option (BitVec 32)
  imgLen : BitVec 32
  imgBusy : Bool
  imgResult : Nat
  pfail : Bool
  warmN : Bool
  dormantReq : Bool
  dormantArmed : Bool
  entering : Bool
  wakeAfter : Bool
  waking : Bool
  startAt : DT
  coreEn : Bool
  injEn : Bool
  sealSw : Bool
  latched : BitVec 5
  vcoreMv : Nat
  vid : Nat
  vidAt : DT
  avsStopped : Bool
  avsTarget : Nat
  tHot : Int
  tAo : Int
  faultLow : Bool
  heldTuners : List Nat
  deriving DecidableEq, Repr

/-- Identity (R335, R501): fuses, ROM, and the running image. -/
structure Ident where
  nfb : Bool
  lifecycle : BitVec 3
  serial : BitVec 64
  rom : BitVec 32
  minSecver : Byte
  firmware : BitVec 32
  imgSecver : Byte
  digest : List Byte
  deriving DecidableEq, Repr

/-- The contents of the vault that the device restores at a cold start (R33, R34, R441, R400, R408, R420). It survives PORST_N. `copies` are
the sequence numbers in the commit records of each stored item's copies A and B, 0 for a copy that is not valid (R442). -/
structure Vault where
  epoch : BitVec 32
  tune : Int
  refMult : Nat
  recalls : Vector (List Recall) 4
  adcGood : Vector Bool 2
  adc : Vector (List (Int × Int × Int)) 2
  acts : Vector Activity 9
  cone : Cone
  keys : Vector (Option Key) 64
  nextIdent : Nat
  counters : Vector (BitVec 32) 8
  keySlot : Nat
  deliver : Bool
  ringKb : Nat
  seqEnd : BitVec 64
  copies : List (VaultItem × Nat × Nat)
  deriving DecidableEq, Repr

/-- The state of the block: every part the spec names, the queue of waiting commands, the model's record of what was sent out,
and the counter from which fresh free values are drawn (Config). -/
structure State where
  pending : List Instr
  outbox : List Out
  fresh : Nat
  ident : Ident
  power : PowerSt
  host : HostIf
  time : TimeSt
  rf : RfSt
  cx : CtxSt
  audio : AudioSt
  port : PortSt
  mp : Mport
  sg : SaggarSt
  cry : CrySt
  mem : MemSt
  mnt : MaintSt
  pair : PairSt
  vault : Vault
  deriving DecidableEq, Repr

/-! ### Reset -/

/-- A 16-byte result of zeros. -/
def zeros (n : Nat) : List Byte := List.replicate n 0

/-- A queue pair at reset (R299): VECTOR is q. -/
def Pairq.reset (q : Nat) : Pairq :=
  { sqBase := 0, cqBase := 0, sqLow := none, cqLow := none, sqSize := 0, cqSize := 0, en := false, prio := 0, intEn := false,
    vector := q, sqHead := 0, sqTail := 0, cqTail := 0, cqHead := 0, phase := true, enabled := false, draining := false,
    err := 0, wait := [], unwritten := [], coal := 0, unsignalled := 0, coalFrom := none }

/-- A return ring at reset (R503): not set up; vector 32 (R314). -/
def RetRing.reset : RetRing :=
  { setup := false, base := 0, size := 0, head := 0, tail := 0, phase := true, err := false, vector := 32, wait := [],
    buffers := [], stage := [], lost := [], owed := [], serial := 0 }

/-- An MSI-X table entry at reset: masked, as the PCIe MSI-X format has it (R314). -/
def Msix.reset : Msix := { addr := 0, data := 0, masked := true }

def LedgerRow.reset : LedgerRow := { posted := 0, returned := 0, held := 0 }

def Snapshot.reset : Snapshot :=
  { done := false, id := 0, dt := 0, rows := Vector.replicate 9 LedgerRow.reset, sqPos := Vector.replicate 32 0,
    cqPos := Vector.replicate 32 0, rrPos := Vector.replicate 4 0 }

def HostIf.reset : HostIf :=
  { pairs := Vector.ofFn (fun (q : Fin 32) => Pairq.reset q.val), rings := Vector.replicate 4 RetRing.reset,
    msix := Vector.replicate 33 Msix.reset, pba := 0, rrCoal := 0, rrUnsignalled := 0, rrCoalFrom := none, bme := false,
    linkUp := false, held := [], returning := [], speed := 1, width := 1, d3hot := false, aerCorrectable := 0, aerUncorrectable := 0, nextId := 0,
    turns := .replicate 4 (31, 8), mportTurn := false, resuming := none, evMask := 0, evtSeq := 0, heldBack := [],
    ledger := Vector.replicate 9 LedgerRow.reset, epoch := 0, snap := Snapshot.reset, bar2Discarded := 0 }

/-- A PLL that is stopped, at a REF_MULT setting. -/
def Pll.stopped (mult : Nat) : Pll :=
  { running := false, cmp := false, declared := false, refMult := mult, icp := 0, lost := false, unlockAt := none }

/-- Device time and its clocks at reset (R47, R76): DT zero and unset, the loop in FREE, both PLLs stopped, the backup count
selected (0x5000 bit 6 reads 1 at reset, R505). -/
def TimeSt.reset : TimeSt :=
  { dt := 0, dtLow := 0, residue := 0, rateAdj := 0, running := false, unset := true, backup := true, cfg := [], shadow := [],
    disc := .free, tune := 0, held := 0, coastFrom := 0, lockedFrom := 0, lockedSum := 0, lockedMean := 0, tuneStored := 0, hist := [],
    refinQual := false, ppsQual := false, returnRef := false,
    returningSince := 0, measuring := false, offsets := [], last8 := [], lastOffset := 0, lastEdge := none, freqErr := none,
    y0 := 0, sumX := 0, fwdStep := none, slew := none, decided := none, plls := Vector.replicate 2 (Pll.stopped 0),
    activeB := false, spareAligned := false, switchedAt := none, bothLost := false, vcoStopped := false, pllSeq := none, phaseCmd := none,
    phaseRef := 0, ppsHigh := none }

/-- A wideband input at reset (R97): G 0 dB. -/
def WbIn.reset : WbIn :=
  { cfg := [], gain := 0, holdFrom := none, history := [], overloads := 0, clipped := 0, calGood := false,
    clippedSinceCal := false, digital := 0, subs := List.replicate 16 (0, 0, 0), lna := (1200, 2000), att := List.replicate 30 100,
    delay := 0 }

def Carver.reset : Carver := { cfg := [], shadow := [], stopped := false, resumes := false }

def Band.reset : Band := { low := 0, high := 0, temp := 0, exclude := false }

/-- A tuner at reset (R129): SLEEP, the reset values of R127, no committed frequency (R110). -/
def Tuner.reset : Tuner :=
  { st := .sleep, cfg := [], shadow := [], freq := none, plan := none, band := 0, gain := 30, holdFrom := none,
    calibrating := false, change := none, target := none, targetCmd := none, probe := none, retest := none,
    unavailable := false, retries := 0, lastRetry := 0, irGain := 0, irPhase := 0, trim := 0, offset := 0, bandwidth := 0, digital := 0,
    verifiedIr := 0, history := [],
    overloads := 0, clipped := 0, bands := Vector.replicate 64 Band.reset, recalls := [], recallDirty := false }

/-- The Slip at reset (R129): OFF. -/
def SlipSt.reset : SlipSt :=
  { cfg := [], shadow := [], owner := .nobody, sgWaiting := false, learnSum := 0, learnCount := 0,
    baseline := none, missed := 0, lastDiff := 0, alarm := false, emitting := false, level := 0, lastAt := none, stopped := false }

def RfSt.reset : RfSt :=
  { wb := Vector.replicate 2 WbIn.reset, carvers := Vector.replicate 8 Carver.reset, tuners := Vector.replicate 4 Tuner.reset,
    slip := SlipSt.reset, adcTemp := 0 }

def Comparator.reset : Comparator := { entered := false, blocks := 0, first := 0 }

/-- No ratio: nothing is counted. -/
def RateWord.reset : RateWord := { word := 0, p := 0, q := 1 }

/-- A closed path (R156). -/
def Path.reset : Path :=
  { run := .closed, ctx := 0, source := 0, fin := 0, fout := 0, m := 1, h := 0, wp := 0, trim := 0, trimHeld := none,
    trimChanged := false, firLen := 0, cfg := [], bankA := [], bankB := [],
    activeB := false, fade := none, queued := none, fadePos := 0, inc := RateWord.reset, phase := 0, residue := 0, made := 0, madeFrom := 0,
    phases := [], line := [], firs := [], firCount := 0, syncAt := 0, since := 0, blockSync := false, block := [], kept := [], powSum := 0, powN := 0,
    powFrom := 0, powers := [], high := Comparator.reset, low := Comparator.reset, next := 0, dueOpen := 0,
    delivered := 0, gapped := 0, gapFrom := none, grid := none,
    seq := 0, clipped := 0, level := 0, broken := false, opening := false }

def FrameFigures.reset : FrameFigures :=
  { level := 0, cnr := 0, combinedCnr := 0, freqOffset := 0, branchLevel := 0, branchCnr := 0, carrierLock := false,
    multipath := 0, pilotDev := 0, lrSnr := 0, mer := 0, merPrimary := 0, merBranch := 0,
    afcOffset := 0, estP := [], estB := [] }

def WinResult.reset : WinResult :=
  { mPos := 0, mNeg := 0, devPeak := 0, devExceed := 0, berPre := 0, ficErr := 0, facErr := 0, sdcErr := 0, blerWin := 0 }

def DabSt.reset : DabSt :=
  { firstNull := none, sync := false, full := false, eid := none, cif := 0, comps := [], next := none, cifsWritten := 0,
    missed := 0, lostAt := none, ensembleChanged := false, reconfCount := 0, ficErr := 0, tii := [], subs := [],
    labels := [], erasedCifs := 0, applied := [], clusters := [], denied := [], ficWin := 0 }

def DrmSt.reset : DrmSt :=
  { sync := false, mode := none, good := 0, bad := 0, full := false, occupancy := 0, longInt := false, qam := 0,
    reconfIndex := 0, framesWritten := 0, framePos := 0, lostAt := none, comps := [], merFac := 0, erasedFrames := 0,
    streams := [], sdcErr := 0, facTaken := false, compsNext := none, facWin := 0 }

def RdsSt.reset : RdsSt :=
  { sync := false, pi := none, lastPi := none, groups := 0, blocks := [], synced := 0, winBlocks := 0, winBad := 0, mmbs := 0, eye := 0, dev := 0, seen := [], items := [] }

/-- A CLOSED context (R158, R185) with no shadow set. -/
def Ctx.reset : Ctx :=
  { st := .closed, std := .am, freq := 0, cfg := [], shadow := [], source := 0, primary := none, branch := none, branchRole := .none, branchFrames := 0,
    wheel := none, frame := 0, frameAt := 0, selected := false, blend := 0, afcDigital := 0, ckpts := Vector.replicate 2 none, checkBuf := false,
    commitFrame := 0, fig := FrameFigures.reset, win := WinResult.reset, winFrom := 0, eqEngaged := false, eqDenied := false, pilot := false,
    mpxPower := 0, mpxSeconds := [], mpxCount := 0, mpxFrom := none, mpxValid := false, mpxOver := false, acqFrom := none, lossFrom := none,
    eqFrom := none, pilotFrom := none, triedAt := none, clipCount := 0, branchClip := 0, dab := DabSt.reset, drm := DrmSt.reset, rds := RdsSt.reset,
    hostAfs := [], seenAfs := [], afs := [], qHist := [], afSwitch := none,
    afHoldoff := none, reportAt := none, alerts := [], mirror := 0, mirrorOn := true }

def Wheel.reset : Wheel := { failed := false, testing := false, hungAt := 0, moved := [] }

def CtxSt.reset : CtxSt :=
  { paths := Vector.replicate 64 Path.reset, ctxs := Vector.replicate 64 Ctx.reset, wheels := Vector.replicate 16 Wheel.reset,
    syncs := [], subs := [], nextSub := 0, flushMs := 20, hops := Vector.replicate 4 none, meterTurns := Vector.replicate 8 0, profile := 0 }

/-- A service number not in use, at the reset values of R263. -/
def KFilter.reset : KFilter := { x1 := 0, x2 := 0, y1 := 0, y2 := 0, z1 := 0, z2 := 0 }

def Meter.reset : Meter :=
  { kl := KFilter.reset, kr := KFilter.reset, tapsL := [], tapsR := [], running := false, power := 0, peakL := 0, peakR := 0, muted := false,
    done := [] }

def Line.reset : Line :=
  { start := none, count := 0, wait := [], past := [], meter := Meter.reset, mono := [], monoNext := 0, second := 0 }

def Svc.reset : Svc :=
  { st := .free, ctx := 0, sid := 0, scids := 0, cfg := [], startFlag := true, seq := 0, stereo := false, fails := 0, muted := false,
    fade := 960, concealed := 0, unit := [], unitRate := 48000, gain := 240, line := Line.reset, loudFrom := 0, loudOld := 0, itemEnd := 0,
    maxMomentary := none, maxShort := none, maxPeakL := none, maxPeakR := none,
    metadata := [], loudHist := [], reportFrom := none, excluded := 0, belowFrom := none, silence := false, recSeq := 0, sigSec := 0,
    item := none, chainFirst := 0, chainFrom := 0, chainEnd := 0, chainCount := 0, chainConc := 0, chainWords := [], recent := [], bands := [],
    words := [],
    subEnd := 0, cands := [] }

def AudioSt.reset : AudioSt := { svcs := Vector.replicate 96 Svc.reset, library := [] }

/-- A stopped port at the reset values of R292 (R294). -/
def Port.reset : Port :=
  { cfg := [], grid := none, frames := 0, base := 0, image := zeros 24, mask := 0, blockAt := 0, sent := [], stopping := false }

def Ain.reset : Ain :=
  { locked := false, blocks := 0, rate := 2, ppm := 0, professional := false, nonAudio := false, 
    dataType := 0, csA := zeros 24, csB := zeros 24, parity := 0, biphase := 0, lastGood := 0, lostAt := none,
    changeFrom := none, startFlag := true, seq := 0, cmp := none, cmpCfg := [], cmpState := 0, cmpDelay := 0,
    buf := [], fresh := [], quiet := 0, tail := [], line := Line.reset, loudHist := [], bands := [], words := [], subEnd := 0, cmpSub := none,
    cmpWin := 0, cmpBad := none, cmpStudio := none, cmpAir := none, cmpAt := 0 }

/-- A stopped divider: no rate is in use after a cold start (R294). -/
def Divider.reset : Divider := { ratio := RateWord.reset, acc := 0, residue := 0, running := false, startAt := 0, edges := 0, periods := 0 }

def PortSt.reset : PortSt :=
  { ports := Vector.replicate 14 Port.reset, dividers := Vector.replicate 4 Divider.reset, ains := Vector.replicate 4 Ain.reset, routes := [], staged := [],
    toMove := false }

/-- The timing words at reset (R361). -/
def Timing.reset : Timing := { word0 := 0x72626072, word1 := 0x020C7260 }

/-- The MPORT at reset (R361, R367): HN_ADDR 0x08, everything else zero, stores empty. -/
def Mport.reset : Mport :=
  { timing := Timing.reset, timingNext := none, control := 0x00000800, received := [], results := [],
    lastResult := none, mirror := [], lastEvents := [], lastFromQueue := false, evtOvf := false, busStuck := false,
    stuckLine := false, hnPending := false, hnTries := 0, pecErr := false, stretchTo := false, arbLost := false,
    nackHn := false, sdaReleased := false, pecErrors := 0, arbLosses := 0, awake := none }

/-- The Saggar before its first boot: without a job or a result, its defaults of R392; NEVER on OQ6404-NFB-I, else UNSEALED
(R372). -/
def SaggarSt.reset : SaggarSt :=
  { st := .off, sealSt := if Config.nfb then .never else .unsealed, sealBefore := if Config.nfb then .never else .unsealed,
    recovering := none, coldBoot := true, tamper := false, tamperArmed := true, jobs := [], nextJob := 0, results := [],
    counters := Vector.replicate 4 0, version := 0, checksum := zeros 32,
    areas := Vector.replicate 2 (Config.sgVersion, Config.sgDigest), imageNext := [],
    activeB := false, afTables := Vector.replicate 6 [], slipTable := [], calDate := 0, coneDue := none, legalInterval := 730,
    verifyMax := 24, lastVerify := 0, verifyBad := false, verifyLate := false, legalKey := Config.sgKey,
    keyIdent := 1, invocation := 0, prevTag := zeros 8, boots := 0,
    seq := 0, committed := 0, reserved := 0, log := [], formed := [], deliver := false, lastFault := none, halted := false,
    responses := [], lateResponses := [], lastResponse := none, seek := 0, timing := Timing.reset, busStuck := false,
    pecErr := false, stretchTo := false, pecErrors := 0 }

def Glaze.reset : Glaze := { running := none, suspended := [] }

def Entropy.reset : Entropy := { testing := false, failed := false, failures := [], failedAt := 0 }

/-- The key store and the operational log at reset: slots empty, counters zero, no log key (R417). -/
def CrySt.reset : CrySt :=
  { keys := Vector.replicate 64 none, nextIdent := 1, queues := [], cores := Vector.replicate 5 Glaze.reset,
    entropy := Entropy.reset, counters := Vector.replicate 8 0, keySlot := 0xFFFF, deliver := false,
    ringKb := 4096, log := [], nextSeq := 0, reservedTo := 0, waiting := [], overwritten := none, prevTag := zeros 8 }

def Capture.reset : Capture :=
  { st := .idle, source := 0, index := 0, event := false, pre := 0, post := 0, mask := 0, filter := 0, armedAt := 0, ring := 0,
    reach := 0, trigger := 0, bytes := 0, oldest := 0, blocks := [], badBlocks := [] }

def MemSt.reset : MemSt :=
  { dramGb := 0, poolMb := 0, usedMb := 0, poolReady := false, depth := Vector.replicate 96 0, since := Vector.replicate 96 0, history := Vector.replicate 96 [], spoilt := [], slots := Vector.replicate 4 Capture.reset, bar2 := none, corrected := 0,
    multibit := 0 }

/-- The default settings of activity `a` (R452, R458): periods and windows in seconds, PERIOD 0 where the default is PLAN. -/
def Activity.default (a : Nat) : Activity :=
  match a with
  | 0 => { enable := true, cls := 0, period := 43200, window := 43200, planPeriod := 43200 }
  | 1 => { enable := true, cls := 1, period := 86400, window := 21600, planPeriod := 86400 }
  | 2 => { enable := true, cls := 2, period := 0, window := 60, planPeriod := 600 }
  | 3 => { enable := true, cls := 2, period := 0, window := 300, planPeriod := 3600 }
  | 4 => { enable := true, cls := 1, period := 0, window := 3600, planPeriod := 86400 }
  | 5 => { enable := true, cls := 0, period := 86400, window := 3600, planPeriod := 86400 }
  | 6 => { enable := true, cls := 3, period := 86400, window := 0, planPeriod := 86400 }
  | 7 => { enable := true, cls := 3, period := 0, window := 0, planPeriod := 0 }
  | _ => { enable := true, cls := 2, period := 0, window := 300, planPeriod := 3600 }

/-- The Cone of a new part: no heat work, no plan; margins and drifts zero; the nominal 0.75 V (R497). -/
def Cone.reset : Cone :=
  { heat := 0, heatFrac := 0, tMax := 0, margins := List.replicate 8 0, xoDrift := 0, slipDrift := 0, adcDrift := 0,
    planNumber := 0, planMv := 750, planEndurance := 750, planHeadroom := 0, planDt := 0, survey := 0, derated := false, storeFailed := false,
    tuneLog := [], verifs := [], heatLog := [] }

def Activity.defaults : Vector Activity 9 := Vector.ofFn (fun (a : Fin 9) => Activity.default a.val)

def MaintSt.reset : MaintSt :=
  { acts := Activity.defaults, firings := [], cone := Cone.reset, sampledAt := 0, stores := [], stalled := [], paused := false }

/-- No pair (R483). -/
def PairSt.reset : PairSt :=
  { link := .down, role := 0, mode := 0, exportOut := 0, exportIn := 0, stoppedIn := 0, lanes := 0, peerHb := false, transit := 0,
    dtOffset := 0, crc := Vector.replicate 4 0, retrains := 0, laneDrops := 0, join := none, takeover := false, peerHeld := 0,
    trainFrom := 0, laneAt := Vector.replicate 4 0 }

/-- The board before anything was sampled: straps low, no image, no DRAM. -/
def Boot.reset : Boot :=
  { bootsel := 0, mpaddr := 0, pairrole := false, fusesOk := false, imageA := none, imageB := none, dramGB := 0,
    vaultOk := false, spllLocks := false, dieTemp := 0, injEn := false, sealSw := false, warmN := true, dormantReq := false,
    vddSg := false, sgImages := (false, false) }

/-- Power and pins while PORST_N is low (R497, R298, R505, R506): STATE 0x0, WARM_N reads 1, all else zero. -/
def PowerSt.reset : PowerSt :=
  { st := .coldStart, porstN := false, valid := false, boot := Boot.reset, waitImage := false, fails := 0, lastCause := 0,
    runningSince := 0, imgAddr := 0, imgLow := none, imgLen := 0, imgBusy := false, imgResult := 0, pfail := false,
    warmN := true, dormantReq := false, dormantArmed := true, entering := false, wakeAfter := false, waking := false, startAt := 0, coreEn := false,
    injEn := false, sealSw := false,
    latched := 0, vcoreMv := 0, vid := 0, vidAt := 0, avsStopped := false, avsTarget := 750, tHot := 0, tAo := 0, faultLow := false,
    heldTuners := [] }

/-- Identity: the fuses of the part; LIFECYCLE 2 (R502); no image runs. -/
def Ident.reset : Ident :=
  { nfb := Config.nfb, lifecycle := 2, serial := Config.serial, rom := Config.romVersion, minSecver := Config.minSecver,
    firmware := 0, imgSecver := 0, digest := zeros 32 }

/-- The vault of a new part (R34, R76, R460): epoch 0, tune word 0, REF_MULT ×1, defaults, empty. -/
def Vault.reset : Vault :=
  { epoch := 0, tune := 0, refMult := 0, recalls := Vector.replicate 4 [], adcGood := Vector.replicate 2 false, adc := Vector.replicate 2 [],
    acts := Activity.defaults, cone := Cone.reset, keys := Vector.replicate 64 none, nextIdent := 1,
    counters := Vector.replicate 8 0, keySlot := 0xFFFF, deliver := false, ringKb := 4096, seqEnd := 0, copies := [] }

/-- The block right after reset: PORST_N is low (R498), every register at its reset value, the queue empty, a new part's vault.
A cold start begins at PORST_N_RISE (R493). -/
def State.reset : State :=
  { pending := [], outbox := [], fresh := 0, ident := Ident.reset, power := PowerSt.reset, host := HostIf.reset,
    time := TimeSt.reset, rf := RfSt.reset, cx := CtxSt.reset, audio := AudioSt.reset, port := PortSt.reset,
    mp := Mport.reset, sg := SaggarSt.reset, cry := CrySt.reset, mem := MemSt.reset, mnt := MaintSt.reset,
    pair := PairSt.reset, vault := Vault.reset }

end Sys2Proof.Machine
end

