-- ==== Sys2Proof/Machine/Codes.lean ====
section
/-!
DEFINITION. Codes.lean: the status codes (R312), the event codes with their mask bits (R344, R345), the ledger classes (R29)
and the Sherd types (R413).
-/
namespace Sys2Proof.Machine

/-- The statuses of R312. -/
inductive Status where
  | ok | okDeferred | okCoalesced
  | errOpcode | errParam | errLength | errTarget | errState
  | busySettling | busyCalibrating | busyRunning | deadlineMissed
  | noResource
  | authFailed | keyExhausted | keyAbsent | counterSaturated
  | inputUnsuitable | calImplausible | calStoreFailed
  | sealed_ | notLegal
  | hwFault | peerLost | returnedRestart | abortedHost
  deriving DecidableEq, Repr

/-- The code of a status (R312). -/
def statusCode : Status → BitVec 16
  | .ok => 0x0000
  | .okDeferred => 0x0001
  | .okCoalesced => 0x0002
  | .errOpcode => 0x0100
  | .errParam => 0x0101
  | .errLength => 0x0102
  | .errTarget => 0x0103
  | .errState => 0x0104
  | .busySettling => 0x0200
  | .busyCalibrating => 0x0201
  | .busyRunning => 0x0202
  | .deadlineMissed => 0x0203
  | .noResource => 0x0300
  | .authFailed => 0x0400
  | .keyExhausted => 0x0401
  | .keyAbsent => 0x0402
  | .counterSaturated => 0x0403
  | .inputUnsuitable => 0x0500
  | .calImplausible => 0x0501
  | .calStoreFailed => 0x0502
  | .sealed_ => 0x0600
  | .notLegal => 0x0601
  | .hwFault => 0x0700
  | .peerLost => 0x0701
  | .returnedRestart => 0x0702
  | .abortedHost => 0x0703

/-- The unsolicited events of R344, in its order. -/
inductive Ev where
  | threshHigh | threshLow | afSwitch | alert | spllSwitch | spllLost | refLost | refReturn | timeDiscont
  | ainClockLost | ainRateChange | ainNonaudio | calResult | marginPlan | ctxMigrated | gapRecorded | peerState
  | sealEvent | busStuck | deferredDone
  deriving DecidableEq, Repr

/-- The event codes of R344. -/
def evCode : Ev → BitVec 16
  | .threshHigh => 0x8001
  | .threshLow => 0x8002
  | .afSwitch => 0x8003
  | .alert => 0x8004
  | .spllSwitch => 0x8010
  | .spllLost => 0x8011
  | .refLost => 0x8012
  | .refReturn => 0x8013
  | .timeDiscont => 0x8014
  | .ainClockLost => 0x8020
  | .ainRateChange => 0x8021
  | .ainNonaudio => 0x8022
  | .calResult => 0x8030
  | .marginPlan => 0x8031
  | .ctxMigrated => 0x8040
  | .gapRecorded => 0x8041
  | .peerState => 0x8050
  | .sealEvent => 0x8060
  | .busStuck => 0x8070
  | .deferredDone => 0x8080

/-- The mask bit of an event: its place in R344, from 0 (R345). -/
def evBit : Ev → Nat
  | .threshHigh => 0
  | .threshLow => 1
  | .afSwitch => 2
  | .alert => 3
  | .spllSwitch => 4
  | .spllLost => 5
  | .refLost => 6
  | .refReturn => 7
  | .timeDiscont => 8
  | .ainClockLost => 9
  | .ainRateChange => 10
  | .ainNonaudio => 11
  | .calResult => 12
  | .marginPlan => 13
  | .ctxMigrated => 14
  | .gapRecorded => 15
  | .peerState => 16
  | .sealEvent => 17
  | .busStuck => 18
  | .deferredDone => 19

/-- The mask bits that must be zero: SPLL_LOST, TIME_DISCONT, GAP_RECORDED, SEAL_EVENT, BUS_STUCK and bits 20 to 63 (R345). -/
def unmaskable : BitVec 64 := 0xFFFFFFFFFFF68120

/-- The detail codes of completion byte 18 (R311). -/
inductive Detail where
  | none | duplicateTag | adminOnly | reservedNonzero | outOfRange
  deriving DecidableEq, Repr

/-- The code of a detail (R311). -/
def detailCode : Detail → Nat
  | .none => 0
  | .duplicateTag => 1
  | .adminOnly => 2
  | .reservedNonzero => 3
  | .outOfRange => 4

/-- The codes of the device states (R298). -/
def devCode : DevState → Nat
  | .coldStart => 0
  | .running => 1
  | .warmStart => 2
  | .dormant => 3
  | .recovery => 4
  | .halted => 5

/-- The codes of the loop states, FREE 0 to RETURNING 5 (R336). -/
def discCode : Disc → Nat
  | .free => 0
  | .acquire => 1
  | .locked => 2
  | .phaseHold => 3
  | .holdover => 4
  | .returning => 5

/-- The codes of the tuner states, in R108 order (R337). -/
def tstateCode : TState → Nat
  | .sleep => 0
  | .standby => 1
  | .synth => 2
  | .rx => 3
  | .probe => 4
  | .failed => 5

/-- The codes of the context states, in R158 order. -/
def ctxStateCode : CtxState → Nat
  | .closed => 0
  | .opening => 1
  | .acquiring => 2
  | .running => 3
  | .retuning => 4
  | .hold => 5
  | .closing => 6

/-- The codes of the standards (R184, R332). -/
def stdCode : Standard → Nat
  | .am => 0
  | .fm => 1
  | .dab => 2
  | .drm => 3
  | .drmPlus => 4

/-- The standard of a code. -/
def stdOf : Nat → Standard
  | 0 => .am
  | 1 => .fm
  | 2 => .dab
  | 3 => .drm
  | _ => .drmPlus

/-- Link state codes (R464). -/
def linkCode : LinkState → Nat
  | .down => 0
  | .training => 1
  | .up => 2
  | .degraded => 3
  | .lost => 4

/-- Seal state codes of SG_STATUS (R343). -/
def sealCode : Seal → Nat
  | .unsealed => 0
  | .sealed_ => 1
  | .never => 2
  | .fault => 3

/-- Saggar state codes of SG_STATUS (R343); a Saggar without power reads STOPPED. -/
def sgStateCode : SgState → Nat
  | .boot => 0
  | .ready => 1
  | .measuring => 2
  | .stopped => 3
  | .off => 3

end Sys2Proof.Machine
end

