-- ==== Sys2Proof/Machine/Bytes.lean ====
section
/-!
DEFINITION. Bytes.lean: byte order, bit fields, sign extension, check sums and access to indexed families.
-/
namespace Sys2Proof.Machine

/-- A bit as a number. -/
def bit (b : Bool) : Nat := if b then 1 else 0

/-- Byte `i` of a value, byte 0 the least significant (R8). -/
def byteOf (v : Int) (i : Nat) : Byte := BitVec.ofInt 8 (v / (256 ^ i : Nat))

/-- The `n` low bytes of a value, least significant first (R8). -/
def leBytes (n : Nat) (v : Int) : List Byte := (List.range n).map (byteOf v)

/-- The `n` low bytes of a value, most significant first (R404). -/
def beBytes (n : Nat) (v : Int) : List Byte := (leBytes n v).reverse

/-- The little-endian value of `n` bytes from `off`; absent bytes read zero. -/
def le (l : List Byte) (off n : Nat) : Nat :=
  (List.range n).foldr (fun i acc => (l.getD (off + i) 0).toNat + 256 * acc) 0

/-- The two's-complement value of a `w`-bit number. -/
def signed (w v : Nat) : Int := if v < 2 ^ (w - 1) then (v : Int) else (v : Int) - (2 ^ w : Nat)

/-- A two's-complement little-endian field. -/
def leInt (l : List Byte) (off n : Nat) : Int := signed (8 * n) (le l off n)

/-- `size` bytes numbered from `base` that hold the fields given as position, length, value; the rest is zero (R10). -/
def pack (base size : Nat) (fs : List (Nat × Nat × Int)) : List Byte :=
  (List.range size).map fun i =>
    match fs.find? (fun f => decide (f.1 ≤ base + i) && decide (base + i < f.1 + f.2.1)) with
    | some f => byteOf f.2.2 (base + i - f.1)
    | none => 0

/-- The 16 result bytes of a completion, numbered 16 to 31 (R311). -/
def result (fs : List (Nat × Nat × Int)) : List Byte := pack 16 16 fs

/-- A list cut or padded with zeros to `n` bytes. -/
def fit (n : Nat) (l : List Byte) : List Byte := (l ++ List.replicate (n - l.length) 0).take n

/-- DT as a number for a field. -/
def dtInt (t : DT) : Int := t.toNat

/-- The whole seconds of a DT (R9). -/
def dtSec (t : DT) : Nat := t.toNat / 2 ^ 32

/-- The next whole DT second after `t` (R75). -/
def nextSecond (t : DT) : DT := BitVec.ofNat 64 ((dtSec t + 1) * 2 ^ 32)

/-- A span of microseconds in DT units, rounded down. -/
def usDt (us : Nat) : Nat := us * 2 ^ 32 / 1000000

/-- A span of milliseconds in DT units, rounded down. -/
def msDt (ms : Nat) : Nat := ms * 2 ^ 32 / 1000

/-- `t` plus a span. -/
def dtAdd (t : DT) (d : Nat) : DT := BitVec.ofNat 64 (t.toNat + d)

/-- The span from `a` to `b`, zero when `b` is earlier. -/
def dtSince (a b : DT) : Nat := b.toNat - a.toNat

/-- Nearest integer to `n / d`, halves away from zero: the round of R94, R104, R132, R137. -/
def roundDiv (n : Int) (d : Nat) : Int :=
  if 0 ≤ n then (2 * n + d) / (2 * d) else -((2 * (-n) + d) / (2 * d))

/-- An exact quotient, or one rounded up or down: which, the spec leaves open (log entry 9). -/
def ratio (n : Int) (d : Nat) : Int := if n % d = 0 then n / d else if Config.roundUp n d then n / d + 1 else n / d

/-- Changes the first element that meets a test. -/
def modFirst {α : Type} (p : α → Bool) (f : α → α) : List α → List α
  | [] => []
  | x :: rest => if p x then f x :: rest else x :: modFirst p f rest

/-- The quotient rounded up. -/
def ceilDiv (n d : Nat) : Nat := (n + d - 1) / d

/-- Bit `i` of a number. -/
def testBit (n i : Nat) : Bool := n / 2 ^ i % 2 == 1

/-- The CRC-8 of R349: polynomial x^8 + x^2 + x + 1, initial value 0. -/
def crc8 (l : List Byte) : Byte :=
  l.foldl (fun c b =>
    (List.range 8).foldl (fun r _ => if r.getLsbD 7 then (r <<< 1) ^^^ 0x07 else r <<< 1) (c ^^^ b)) 0

/-- The CRC-32 of IEEE 802.3 (R442); DIAG_LOOPBACK uses the same (log entry 24). -/
def crc32 (l : List Byte) : BitVec 32 :=
  ~~~ l.foldl (fun c b =>
    (List.range 8).foldl (fun r _ => if r.getLsbD 0 then (r >>> 1) ^^^ 0xEDB88320#32 else r >>> 1)
      (c ^^^ b.zeroExtend 32)) 0xFFFFFFFF#32

/-- An index of a family, if it exists. -/
def idx (n k : Nat) : Option (Fin n) := if h : k < n then some ⟨k, h⟩ else none

/-- A family with one member changed. -/
def upd {α : Type} {n : Nat} (v : Vector α n) (i : Fin n) (f : α → α) : Vector α n := v.set i (f v[i])

/-- The members of a family with their numbers. -/
def entries {α : Type} {n : Nat} (v : Vector α n) : List (Fin n × α) := (List.finRange n).map fun i => (i, v[i])

/-- The number of members that satisfy a condition. -/
def countBy {α : Type} {n : Nat} (v : Vector α n) (p : α → Bool) : Nat := v.toList.countP p

end Sys2Proof.Machine
end

