-- ==== Sys2Proof/Machine/Cipher.lean ====
section
/-!
DEFINITION. Cipher.lean: what the Glaze cores and the hash core compute, by the standards that the spec names: AES (R396), GCM with the 12-byte
nonces of R404 (NIST SP 800-38D), CCM with 12-byte nonces, counter mode, CMAC, AES key wrap (R342, NIST SP 800-38F), SHA-256 and HMAC-SHA-256
(R342, R396). The spec names them and does not write them out: log entry 7.
-/
namespace Sys2Proof.Machine

/-- Exclusive or of two byte strings. -/
def xorBytes (a b : List Byte) : List Byte := List.zipWith (· ^^^ ·) a b

/-- A number as 16 bytes, most significant first, and back. -/
def bytes16 (n : Nat) : List Byte := beBytes 16 n
def beNat (l : List Byte) : Nat := l.foldl (fun (n : Nat) b => 256 * n + b.toNat) 0

/-- Blocks of `n` bytes, the last one perhaps shorter. The fuel bounds them. -/
def blocksOf (n : Nat) : Nat → List Byte → List (List Byte)
  | 0, _ => []
  | fuel + 1, l => if l.isEmpty then [] else l.take n :: blocksOf n fuel (l.drop n)

/-- A message in blocks of 16 bytes. -/
def blocks16 (l : List Byte) : List (List Byte) := blocksOf 16 l.length l

/-- Zeros that fill the last block of 16 bytes. -/
def pad16 (l : List Byte) : List Byte := l ++ List.replicate ((16 - l.length % 16) % 16) 0

/-! ### AES -/

/-- The S-box, 16 entries a number, the first the most significant byte. -/
def sboxRows : List Nat :=
  [0x637C777BF26B6FC53001672BFED7AB76, 0xCA82C97DFA5947F0ADD4A2AF9CA472C0,
   0xB7FD9326363FF7CC34A5E5F171D83115, 0x04C723C31896059A071280E2EB27B275,
   0x09832C1A1B6E5AA0523BD6B329E32F84, 0x53D100ED20FCB15B6ACBBE394A4C58CF,
   0xD0EFAAFB434D338545F9027F503C9FA8, 0x51A3408F929D38F5BCB6DA2110FFF3D2,
   0xCD0C13EC5F974417C4A77E3D645D1973, 0x60814FDC222A908846EEB814DE5E0BDB,
   0xE0323A0A4906245CC2D3AC629195E479, 0xE7C8376D8DD54EA96C56F4EA657AAE08,
   0xBA78252E1CA6B4C6E8DD741F4BBD8B8A, 0x703EB5664803F60E613557B986C11D9E,
   0xE1F8981169D98E949B1E87E9CE5528DF, 0x8CA1890DBFE6426841992D0FB054BB16]

/-- The inverse S-box. -/
def invRows : List Nat :=
  [0x52096AD53036A538BF40A39E81F3D7FB, 0x7CE339829B2FFF87348E4344C4DEE9CB,
   0x547B9432A6C2233DEE4C950B42FAC34E, 0x082EA16628D924B2765BA2496D8BD125,
   0x72F8F66486689816D4A45CCC5D65B692, 0x6C704850FDEDB9DA5E154657A78D9D84,
   0x90D8AB008CBCD30AF7E45805B8B34506, 0xD02C1E8FCA3F0F02C1AFBD0301138A6B,
   0x3A9111414F67DCEA97F2CFCEF0B4E673, 0x96AC7422E7AD3585E2F937E81C75DF6E,
   0x47F11A711D29C5896FB7620EAA18BE1B, 0xFC563E4BC6D279209ADBC0FE78CD5AF4,
   0x1FDDA8338807C731B11210592780EC5F, 0x60517FA919B54A0D2DE57A9F93C99CEF,
   0xA0E03B4DAE2AF5B0C8EBBB3C83539961, 0x172B047EBA77D626E169146355210C7D]

/-- An entry of an S-box. -/
def sub8 (rows : List Nat) (b : Byte) : Byte :=
  BitVec.ofNat 8 (rows.getD (b.toNat / 16) 0 / 256 ^ (15 - b.toNat % 16))

/-- Multiplication by x in GF(2^8) modulo x^8 + x^4 + x^3 + x + 1. -/
def xtime (b : Byte) : Byte := if b.getLsbD 7 then (b <<< 1) ^^^ 0x1B else b <<< 1

/-- Multiplication by a constant below 16 in that field. -/
def mulBy (k : Nat) (b : Byte) : Byte :=
  (if testBit k 0 then b else 0) ^^^ (if testBit k 1 then xtime b else 0) ^^^ (if testBit k 2 then xtime (xtime b) else 0)
    ^^^ (if testBit k 3 then xtime (xtime (xtime b)) else 0)

/-- The next word of a key schedule with `nk` key words, whose first `i` words stand in `ws`, newest first. -/
def nextWord (nk i : Nat) (ws : List (List Byte)) : List Byte :=
  let prev := ws.headD []
  let temp :=
    if i % nk = 0 then xorBytes ((prev.drop 1 ++ prev.take 1).map (sub8 sboxRows)) [(List.range (i / nk - 1)).foldl (fun r _ => xtime r) 1, 0, 0, 0]
    else if 6 < nk ∧ i % nk = 4 then prev.map (sub8 sboxRows)
    else prev
  xorBytes (ws.getD (nk - 1) []) temp

/-- The round keys of an AES key of 16 or 32 bytes: 11 or 15. -/
def roundKeys (key : List Byte) : List (List Byte) :=
  let nk := key.length / 4
  let ws := (List.range (3 * nk + 28)).foldl (fun ws j => nextWord nk (nk + j) ws :: ws) (blocksOf 4 nk key).reverse
  blocks16 ws.reverse.flatten

/-- ShiftRows and its inverse, `d` the columns that row 1 moves by. The bytes stand by columns. -/
def shiftRows (d : Nat) (l : List Byte) : List Byte := (List.range 16).map fun i => l.getD (i % 4 + 4 * ((i / 4 + d * (i % 4)) % 4)) 0

/-- MixColumns and its inverse, by the first row of the matrix. -/
def mixColumns (row : List Nat) (l : List Byte) : List Byte :=
  (List.range 16).map fun i =>
    (List.range 4).foldl (fun acc j => acc ^^^ mulBy (row.getD ((j + 4 - i % 4) % 4) 0) (l.getD (i / 4 * 4 + j) 0)) 0

/-- AES of one block under its round keys. -/
def aesRounds (keys : List (List Byte)) (block : List Byte) : List Byte :=
  let step (mix : Bool) (l key : List Byte) :=
    let l := shiftRows 1 (l.map (sub8 sboxRows))
    xorBytes (if mix then mixColumns [2, 3, 1, 1] l else l) key
  let l := (keys.drop 1).dropLast.foldl (step true) (xorBytes block (keys.headD []))
  step false l (keys.getLastD [])

/-- The inverse cipher of one block under its round keys. -/
def aesInverse (keys : List (List Byte)) (block : List Byte) : List Byte :=
  let step (mix : Bool) (l key : List Byte) :=
    let l := xorBytes ((shiftRows 3 l).map (sub8 invRows)) key
    if mix then mixColumns [14, 11, 13, 9] l else l
  let keys := keys.reverse
  let l := (keys.drop 1).dropLast.foldl (step true) (xorBytes block (keys.headD []))
  step false l (keys.getLastD [])

/-! ### Modes -/

/-- Keystream of `n` bytes over the counter blocks from `first`, whose last `width` bytes count. -/
def counterStream (keys : List (List Byte)) (width : Nat) (first : List Byte) (n : Nat) : List Byte :=
  let base := first.take (16 - width)
  let c := beNat (first.drop (16 - width))
  ((List.range ((n + 15) / 16)).flatMap fun i => aesRounds keys (base ++ beBytes width ((c + i) % 256 ^ width : Nat))).take n

/-- CTR: counter block nonce ‖ 0x0000_0001, big-endian (R396). -/
@[irreducible] def ctrStream (key nonce : List Byte) (n : Nat) : List Byte :=
  counterStream (roundKeys key) 4 (nonce ++ [0, 0, 0, 1]) n

/-- Multiplication in GF(2^128) as GCM orders its bits: bit 127 here is its bit 0. -/
def ghashMul (x y : BitVec 128) : BitVec 128 :=
  ((List.range 128).foldl (fun (zv : BitVec 128 × BitVec 128) i =>
    (if x.getMsbD i then zv.1 ^^^ zv.2 else zv.1,
      if zv.2.getLsbD 0 then (zv.2 >>> 1) ^^^ 0xE1000000000000000000000000000000#128 else zv.2 >>> 1)) (0, y)).1

/-- GHASH of whole blocks. -/
def ghash (h : BitVec 128) (l : List Byte) : BitVec 128 :=
  (blocks16 l).foldl (fun y b => ghashMul (y ^^^ BitVec.ofNat 128 (beNat b)) h) 0

/-- AES-GCM under a 12-byte nonce: ciphertext and 16-byte tag. -/
@[irreducible] def gcm (key nonce aad pt : List Byte) : List Byte × List Byte :=
  let keys := roundKeys key
  let h := BitVec.ofNat 128 (beNat (aesRounds keys (bytes16 0)))
  let c := xorBytes pt (counterStream keys 4 (nonce ++ [0, 0, 0, 2]) pt.length)
  let s := ghash h (pad16 aad ++ pad16 c ++ beBytes 8 (8 * aad.length : Nat) ++ beBytes 8 (8 * c.length : Nat))
  (c, xorBytes (aesRounds keys (nonce ++ [0, 0, 0, 1])) (bytes16 s.toNat))

/-- The keystream of a GCM message, or of a CCM message with a 12-byte nonce, whose counter is 3 bytes. -/
@[irreducible] def aeadStream (ccm_ : Bool) (key nonce : List Byte) (n : Nat) : List Byte :=
  if ccm_ then counterStream (roundKeys key) 3 (2 :: nonce ++ [0, 0, 1]) n else counterStream (roundKeys key) 4 (nonce ++ [0, 0, 0, 2]) n

/-- The CBC-MAC of whole blocks. -/
def cbcMac (keys : List (List Byte)) (l : List Byte) : List Byte :=
  (blocks16 l).foldl (fun y b => aesRounds keys (xorBytes y b)) (bytes16 0)

/-- The AAD as CCM formats it. -/
def ccmAad (aad : List Byte) : List Byte :=
  if aad.isEmpty then []
  else if aad.length < 65280 then pad16 (beBytes 2 aad.length ++ aad)
  else pad16 ([0xFF, 0xFE] ++ beBytes 4 aad.length ++ aad)

/-- AES-CCM under a 12-byte nonce: ciphertext and a tag of `n` bytes. The length field has 3 bytes: for a message of 16 MB, which does not
fit, neither the spec nor the standard states a result, and it is a free value (log entry 8). -/
@[irreducible] def ccm (key nonce aad pt : List Byte) (n : Nat) : List Byte × List Byte :=
  if 2 ^ 24 ≤ pt.length then Config.ccmLong key nonce aad pt n
  else
    let keys := roundKeys key
    let b0 := BitVec.ofNat 8 ((if aad.isEmpty then 0 else 64) + 8 * ((n - 2) / 2) + 2) :: nonce ++ beBytes 3 pt.length
    let mac := cbcMac keys (b0 ++ ccmAad aad ++ pad16 pt)
    (xorBytes pt (counterStream keys 3 (2 :: nonce ++ [0, 0, 1]) pt.length),
      (xorBytes (aesRounds keys (2 :: nonce ++ [0, 0, 0])) mac).take n)

/-- Doubling in CMAC's field. -/
def cmacDouble (x : BitVec 128) : BitVec 128 := if x.getMsbD 0 then (x <<< 1) ^^^ 0x87 else x <<< 1

/-- AES-CMAC. -/
@[irreducible] def cmac (key msg : List Byte) : List Byte :=
  let keys := roundKeys key
  let k1 := cmacDouble (BitVec.ofNat 128 (beNat (aesRounds keys (bytes16 0))))
  let whole := !msg.isEmpty && msg.length % 16 == 0
  let m := if whole then msg else pad16 (msg ++ [0x80])
  let cut := m.length - 16
  let last := xorBytes (m.drop cut) (bytes16 (if whole then k1 else cmacDouble k1).toNat)
  cbcMac keys (m.take cut ++ last)

/-- One step of the unwrap at count `t` (SP 800-38F): A with the 8-byte blocks, the last first. -/
def unwrapStep (keys : List (List Byte)) (x : List Byte × List (List Byte)) (t : Nat) : List Byte × List (List Byte) :=
  match x.2 with
  | [] => x
  | r :: rest =>
    let b := aesInverse keys (xorBytes x.1 (beBytes 8 t) ++ r)
    (b.take 8, rest ++ [b.drop 8])

/-- AES key unwrap (KW): none when the integrity check fails, or the wrapped bytes are no wrapped key at all. -/
@[irreducible] def keyUnwrap (key wrapped : List Byte) : Option (List Byte) :=
  let n := wrapped.length / 8 - 1
  if wrapped.length % 8 ≠ 0 ∨ n < 2 then none
  else
    let keys := roundKeys key
    let x := (List.range (6 * n)).foldl (fun x i => unwrapStep keys x (6 * n - i)) (wrapped.take 8, (blocksOf 8 n (wrapped.drop 8)).reverse)
    if x.1 = List.replicate 8 0xA6 then some x.2.reverse.flatten else none

/-! ### SHA-256 and HMAC -/

/-- The constants, four words a number. -/
def shaRows : List Nat :=
  [0x428A2F9871374491B5C0FBCFE9B5DBA5, 0x3956C25B59F111F1923F82A4AB1C5ED5,
   0xD807AA9812835B01243185BE550C7DC3, 0x72BE5D7480DEB1FE9BDC06A7C19BF174,
   0xE49B69C1EFBE47860FC19DC6240CA1CC, 0x2DE92C6F4A7484AA5CB0A9DC76F988DA,
   0x983E5152A831C66DB00327C8BF597FC7, 0xC6E00BF3D5A7914706CA635114292967,
   0x27B70A852E1B21384D2C6DFC53380D13, 0x650A7354766A0ABB81C2C92E92722C85,
   0xA2BFE8A1A81A664BC24B8B70C76C51A3, 0xD192E819D6990624F40E3585106AA070,
   0x19A4C1161E376C082748774C34B0BCB5, 0x391C0CB34ED8AA4A5B9CCA4F682E6FF3,
   0x748F82EE78A5636F84C878148CC70208, 0x90BEFFFAA4506CEBBEF9A3F7C67178F2]

def shaK (i : Nat) : BitVec 32 := BitVec.ofNat 32 (shaRows.getD (i / 4) 0 / 2 ^ (32 * (3 - i % 4)))

/-- The initial hash value, eight words. -/
def shaInit : List (BitVec 32) := 
  (List.range 8).map fun i => BitVec.ofNat 32 (0x6A09E667BB67AE853C6EF372A54FF53A510E527F9B05688C1F83D9AB5BE0CD19 / 2 ^ (32 * (7 - i)))

/-- The message schedule of a block, 64 words, newest first while it grows. -/
def shaSchedule (block : List Byte) : List (BitVec 32) :=
  let w := (blocksOf 4 16 block).map fun b => BitVec.ofNat 32 (beNat b)
  ((List.range 48).foldl (fun (ws : List (BitVec 32)) _ =>
    let a := ws.getD 14 0
    let b := ws.getD 1 0
    ((b.rotateRight 17 ^^^ b.rotateRight 19 ^^^ (b >>> 10)) + ws.getD 6 0 + (a.rotateRight 7 ^^^ a.rotateRight 18 ^^^ (a >>> 3))
      + ws.getD 15 0) :: ws)
    w.reverse).reverse

/-- One round on the working words a to h. -/
def shaRound (v : List (BitVec 32)) (kw : BitVec 32) : List (BitVec 32) :=
  match v with
  | [a, b, c, d, e, f, g, h] =>
    let t1 := h + (e.rotateRight 6 ^^^ e.rotateRight 11 ^^^ e.rotateRight 25) + ((e &&& f) ^^^ (~~~ e &&& g)) + kw
    let t2 := (a.rotateRight 2 ^^^ a.rotateRight 13 ^^^ a.rotateRight 22) + ((a &&& b) ^^^ (a &&& c) ^^^ (b &&& c))
    [t1 + t2, a, b, c, d + t1, e, f, g]
  | _ => v

/-- The compression of one block. -/
def shaBlock (v : List (BitVec 32)) (block : List Byte) : List (BitVec 32) :=
  let w := shaSchedule block
  List.zipWith (· + ·) v ((List.range 64).foldl (fun v i => shaRound v (shaK i + w.getD i 0)) v)

/-- SHA-256. -/
@[irreducible] def sha256 (msg : List Byte) : List Byte :=
  let m := msg ++ [0x80] ++ List.replicate ((119 - msg.length % 64) % 64) 0 ++ beBytes 8 (8 * msg.length : Nat)
  ((blocksOf 64 m.length m).foldl shaBlock shaInit).flatMap fun w => beBytes 4 w.toNat

/-- HMAC-SHA-256. -/
@[irreducible] def hmac (key msg : List Byte) : List Byte :=
  let k := fit 64 (if 64 < key.length then sha256 key else key)
  sha256 (k.map (· ^^^ 0x5C) ++ sha256 (k.map (· ^^^ 0x36) ++ msg))

end Sys2Proof.Machine
end

