-- ==== Sys2Proof/Machine/Ops.lean ====
section
/-!
DEFINITION. Ops.lean: the shared operations of the block: changing one part of the state, time and the class-6 count, the
ledger, MSI-X, completions and events, and the entries that wait for a slot.
-/
namespace Sys2Proof.Machine

/-! ### Changing one part of the state -/

def modPower (f : PowerSt → PowerSt) (s : State) : State := { s with power := f s.power }
def modHost (f : HostIf → HostIf) (s : State) : State := { s with host := f s.host }
def modTime (f : TimeSt → TimeSt) (s : State) : State := { s with time := f s.time }
def modRf (f : RfSt → RfSt) (s : State) : State := { s with rf := f s.rf }
def modCx (f : CtxSt → CtxSt) (s : State) : State := { s with cx := f s.cx }
def modAudio (f : AudioSt → AudioSt) (s : State) : State := { s with audio := f s.audio }
def modPortSt (f : PortSt → PortSt) (s : State) : State := { s with port := f s.port }
def modMp (f : Mport → Mport) (s : State) : State := { s with mp := f s.mp }
def modSg (f : SaggarSt → SaggarSt) (s : State) : State := { s with sg := f s.sg }
def modCry (f : CrySt → CrySt) (s : State) : State := { s with cry := f s.cry }
def modMem (f : MemSt → MemSt) (s : State) : State := { s with mem := f s.mem }
def modMnt (f : MaintSt → MaintSt) (s : State) : State := { s with mnt := f s.mnt }
def modPair (f : PairSt → PairSt) (s : State) : State := { s with pair := f s.pair }
def modVault (f : Vault → Vault) (s : State) : State := { s with vault := f s.vault }
def modIdent (f : Ident → Ident) (s : State) : State := { s with ident := f s.ident }

def modPairq (q : Fin 32) (f : Pairq → Pairq) : State → State := modHost fun h => { h with pairs := upd h.pairs q f }
def modRing (c : Fin 4) (f : RetRing → RetRing) : State → State := modHost fun h => { h with rings := upd h.rings c f }
def modPll (b : Fin 2) (f : Pll → Pll) : State → State := modTime fun t => { t with plls := upd t.plls b f }
def modWb (i : Fin 2) (f : WbIn → WbIn) : State → State := modRf fun r => { r with wb := upd r.wb i f }
def modCarver (c : Fin 8) (f : Carver → Carver) : State → State := modRf fun r => { r with carvers := upd r.carvers c f }
def modTuner (n : Fin 4) (f : Tuner → Tuner) : State → State := modRf fun r => { r with tuners := upd r.tuners n f }
def modSlip (f : SlipSt → SlipSt) : State → State := modRf fun r => { r with slip := f r.slip }
def modPath (p : Fin 64) (f : Path → Path) : State → State := modCx fun c => { c with paths := upd c.paths p f }
def modCtx (i : Fin 64) (f : Ctx → Ctx) : State → State := modCx fun c => { c with ctxs := upd c.ctxs i f }
def modWheel (w : Fin 16) (f : Wheel → Wheel) : State → State := modCx fun c => { c with wheels := upd c.wheels w f }
def modSvc (v : Fin 96) (f : Svc → Svc) : State → State := modAudio fun a => { a with svcs := upd a.svcs v f }
def modPort (p : Fin 14) (f : Port → Port) : State → State := modPortSt fun o => { o with ports := upd o.ports p f }
def modAin (i : Fin 4) (f : Ain → Ain) : State → State := modPortSt fun o => { o with ains := upd o.ains i f }
def modSlot (k : Fin 4) (f : Capture → Capture) : State → State := modMem fun m => { m with slots := upd m.slots k f }
def modKey (k : Fin 64) (f : Key → Key) : State → State := modCry fun c => { c with keys := upd c.keys k (Option.map f) }

/-- Adds to the record of what the device sends out. -/
def emit (o : Out) (s : State) : State := { s with outbox := o :: s.outbox }

/-- The next free value, for a result the spec leaves open (Config.freeValue). -/
def freeNow (s : State) : Int := Config.freeValue s.fresh

/-- Marks the free value as used. -/
def useFree (s : State) : State := { s with fresh := s.fresh + 1 }

/-- Marks the next `n` free values as used. -/
def useMany (n : Nat) (s : State) : State := { s with fresh := s.fresh + n }

/-! ### The conservation ledger (R29, R30) -/

/-- Units that become posted, and held. -/
def LedgerRow.post (n : Nat) (r : LedgerRow) : LedgerRow :=
  { r with posted := r.posted + BitVec.ofNat 64 n, held := r.held + BitVec.ofNat 64 n }

/-- Held units that become returned. -/
def LedgerRow.settle (n : Nat) (r : LedgerRow) : LedgerRow :=
  { r with returned := r.returned + BitVec.ofNat 64 n, held := r.held - BitVec.ofNat 64 n }

def modRow (c : Fin 9) (f : LedgerRow → LedgerRow) : State → State := modHost fun h => { h with ledger := upd h.ledger c f }

/-- Posts `n` units of class `c`. -/
def post (c : Fin 9) (n : Nat) : State → State := modRow c (LedgerRow.post n)

/-- Settles `n` units of class `c`. -/
def settle (c : Fin 9) (n : Nat) : State → State := modRow c (LedgerRow.settle n)

/-! ### Time (R45, R46) and the class-6 count (R32) -/

/-- The intervals due and not settled on a path at `t` (R29, R32): counted from DT at the path's output rate, from the first interval
neither delivered nor gap-recorded. Nothing is due before the SYNC sample that follows CTX_OPEN (R146). -/
def Path.dueAt (t : DT) (p : Path) : Nat :=
  if p.run = .closed ∨ p.opening then p.dueOpen else max p.dueOpen (dtSince (p.gapFrom.getD p.next) t * p.fout / 2 ^ 32)

/-- Brings the class-6 counts of all paths to the present DT (R32). -/
def accrue (s : State) : State :=
  let n := s.cx.paths.toList.foldl (fun a p => a + (p.dueAt s.time.dt - p.dueOpen)) 0
  post 6 n (modCx (fun c => { c with paths := c.paths.map fun p => { p with dueOpen := p.dueAt s.time.dt } }) s)

/-- The instant of a step: DT has advanced to `t`, never backwards (R46), and class 6 with it. While DT does not run (R47)
nothing changes. -/
def moment (t : DT) (s : State) : State :=
  if s.time.running then accrue (modTime (fun u => { u with dt := if u.dt.toNat < t.toNat then t else u.dt }) s) else s

/-- The DT now. -/
abbrev now (s : State) : DT := s.time.dt

/-- Whether the firmware of the device runs: STATE RUNNING (R298). -/
def isRunning (s : State) : Bool := s.power.st == .running

/-! ### Exact ratios and RATE_ADJ (R45, R50, R140, R141, R267, R268) -/

/-- The ratio n/d in units of 2^-48 with its residue; while RATE_ADJ is not zero, the ratio times N₀ / (N₀ + RATE_ADJ), to 48 fraction
bits and without a residue (R140, R141, R267, R268). -/
def rateWord (n d : Nat) (adj : Int) : RateWord :=
  if adj = 0 then
    let g := Nat.gcd n d
    let q := d / g
    { word := n / g * 2 ^ 48 / q, p := n / g * 2 ^ 48 % q, q := q }
  else { word := n * 2 ^ 96 / (d * ((2 : Int) ^ 48 + adj * 153600000).toNat), p := 0, q := 1 }

/-- An accumulator and its residue counter after `k` additions of a ratio (R45, R140, R267). -/
def RateWord.after (w : RateWord) (acc residue k : Nat) : Nat × Nat :=
  (acc + k * w.word + (residue + k * w.p) / w.q, (residue + k * w.p) % w.q)

/-- The resampler's increment f_mid / f_out under a RATE_ADJ (R140, R141). -/
def Path.incAt (adj : Int) (x : Path) : RateWord := rateWord x.fin (2 * x.m * 2 ^ x.h * x.fout) adj

/-- The most output samples that a path keeps made and not delivered: the blocks of the clay store. -/
def madeKept : Nat := 4096

/-- The resampler makes `n` output samples (R140): each takes the accumulator as it stands, and INC is added. The oldest of more than the
clay store keeps are lost. -/
def Path.output (n : Nat) (x : Path) : Path :=
  let skip := n - madeKept
  let a := x.inc.after x.phase x.residue skip
  let k := n - skip
  let b := x.inc.after a.1 a.2 k
  { x with
    phases := ((if skip = 0 then x.phases else []) ++ (List.range k).map fun i => (x.inc.after a.1 a.2 i).1 % 2 ^ 64),
    phase := b.1 % 2 ^ 64,
    residue := b.2,
    made := x.made + n }

/-- The resampler up to DT `t`: it makes f_out samples per second of DT since the last reset (R50). -/
def Path.catchUp (t : DT) (x : Path) : Path :=
  if x.run = .withholding ∨ x.run = .running then x.output (dtSince x.madeFrom t * x.fout / 2 ^ 32 - x.made) else x

/-- F_D = 512·fs of a divider (R266), in the order of RATE. -/
def dividerHz (k : Nat) : Nat := 512 * [32000, 44100, 48000, 96000].getD k 48000

/-- The ratio of a divider under a RATE_ADJ (R266 to R268). -/
def dividerRatio (k : Nat) (adj : Int) : RateWord := rateWord 983040000 (dividerHz k) adj

/-- `n` F_D edges of a divider (R267): FRAC is added to the accumulator, the residue counter adds its unit, and an edge falls after INT or,
where the accumulator carries, INT + 1 reference periods. -/
def Divider.edge (n : Nat) (x : Divider) : Divider :=
  let a := x.ratio.after x.acc x.residue n
  { x with acc := a.1 % 2 ^ 48, residue := a.2, edges := x.edges + n, periods := x.periods + a.1 / 2 ^ 48 }

/-- A divider up to DT `t`: F_D is exact in DT (R268). -/
def Divider.catchUp (k : Nat) (t : DT) (x : Divider) : Divider :=
  if x.running then x.edge (dtSince x.startAt t * dividerHz k / 2 ^ 32 - x.edges) else x

/-- RATE_ADJ changes: DT, the increment of every channel-path resampler and every audio divider take it on the same tick (R50, R141,
R268). DESIGN CHOICE (log entry 73): the residue counters start at 0 with the new ratio. -/
def setRate (r : Int) (s : State) : State :=
  let t := s.time.dt
  modPortSt (fun o => { o with
      dividers := Vector.ofFn fun (k : Fin 4) => { o.dividers[k].catchUp k.val t with ratio := dividerRatio k.val r, residue := 0 } })
    (modCx (fun c => { c with paths := c.paths.map fun x => { x.catchUp t with inc := x.incAt r, residue := 0 } })
      (modTime (fun u => { u with rateAdj := r }) s))

/-! ### MSI-X (R314, R315) -/

/-- Whether the device may initiate a transaction (R297). -/
def canSend (s : State) : Bool := s.host.bme && s.host.linkUp && !s.host.d3hot

/-- Sends the message of vector `v`, or sets its pending bit when it is masked (R314) or nothing may be sent now (R297). -/
def sendMsix (v : Nat) (s : State) : State :=
  match idx 33 v with
  | none => s
  | some i =>
    if s.host.msix[i].masked || !canSend s then modHost (fun h => { h with pba := h.pba ||| BitVec.twoPow 33 v }) s
    else emit (.msix v) s

/-- COAL_COUNT and COAL_TIME of a coalescing register (R315). -/
def coalCount (r : BitVec 24) : Nat := r.toNat % 256
def coalTime (r : BitVec 24) : Nat := r.toNat / 256

/-- The first unsignalled entry's record, started by an entry at `t` under a register (R315). -/
def coalStart (r : BitVec 24) (t : DT) (x : Option (DT × Nat × Nat)) : Option (DT × Nat × Nat) :=
  some (x.getD (t, coalTime r, coalCount r))

/-- Whether an entry under a register, the `n`th unsignalled one, is signalled by the count: with the register, or with a smaller count
in force since the first of them (R504). -/
def coalFull (r : BitVec 24) (x : Option (DT × Nat × Nat)) (n : Nat) : Bool :=
  decide (coalCount r ≤ n) || (match x with | some (_, _, c) => decide (c ≤ n) | none => false)

/-- Signals an entry written to completion queue `q` (R315): at once for an event or without coalescing, else when COAL_COUNT
entries are unsignalled. -/
def signalCq (q : Fin 32) (event : Bool) (s : State) : State :=
  let p := s.host.pairs[q]
  if !p.intEn then s
  else if event || coalFull p.coal p.coalFrom (p.unsignalled + 1) then
    sendMsix p.vector (modPairq q (fun p => { p with unsignalled := 0, coalFrom := none }) s)
  else modPairq q (fun p => { p with unsignalled := p.unsignalled + 1, coalFrom := coalStart p.coal (now s) p.coalFrom }) s

/-- Signals an entry written to the return ring of class `c + 1` (R315); the return rings share one coalescing register. -/
def signalRing (c : Fin 4) (s : State) : State :=
  let h := s.host
  if coalFull h.rrCoal h.rrCoalFrom (h.rrUnsignalled + 1) then
    sendMsix h.rings[c].vector (modHost (fun h => { h with rrUnsignalled := 0, rrCoalFrom := none }) s)
  else modHost (fun h => { h with rrUnsignalled := h.rrUnsignalled + 1, rrCoalFrom := coalStart h.rrCoal (now s) h.rrCoalFrom }) s

/-! ### Completion queues (R300 to R302, R311, R313) -/

/-- The completion slots of a pair that are visible to the device and not yet freed. -/
def cqFree (p : Pairq) : Nat :=
  if p.cqSize = 0 then 0 else p.cqSize - 1 - (p.cqTail + p.cqSize - p.cqHead) % p.cqSize

/-- Whether an entry can be written to completion queue `q` now. -/
def cqWritable (q : Fin 32) (s : State) : Bool :=
  canSend s && s.host.pairs[q].enabled && decide (0 < cqFree s.host.pairs[q])

/-- EPOCH4 (R33, R311). -/
def epoch4 (s : State) : BitVec 4 := s.host.epoch.setWidth 4

/-- The MPORT mirror takes a copy of an event written to queue 0 (R351); it holds 64. -/
def mirrorEvent (e : CqEntry) (seq : BitVec 16) (m : Mport) : Mport :=
  if m.mirror.length < 64 then { m with mirror := m.mirror ++ [{ entry := e, seq := seq }] }
  else { m with mirror := m.mirror.drop 1 ++ [{ entry := e, seq := seq }], evtOvf := true }

/-- Pending unsolicited events of the internal queue (R44): the events that wait for queue 0. -/
def internalEvents (s : State) : List CqEntry := s.host.pairs[0].wait.filter (·.event)

/-- RESULT_READY (R352). -/
def resultReady (s : State) : Bool := !s.mp.results.isEmpty

/-- Whether EVENT_FETCH reads the mirror: completion queue 0 is enabled (R351). -/
def queue0Enabled (s : State) : Bool := s.host.pairs[0].enabled

/-- The events that EVENT_FETCH would return (R351). -/
def eventsWaiting (s : State) : Nat := if queue0Enabled s then s.mp.mirror.length else (internalEvents s).length

/-- EVENT_PENDING (R352). -/
def eventPending (s : State) : Bool := eventsWaiting s != 0

/-- HN_EN (R361). -/
def hnEn (s : State) : Bool := s.mp.control.getLsbD 1

/-- A host notify becomes pending when RESULT_READY or EVENT_PENDING has risen since `old` with HN_EN 1 (R357). -/
def notifyRise (old s : State) : State :=
  if hnEn s && ((!resultReady old && resultReady s) || (!eventPending old && eventPending s)) && !s.mp.hnPending then
    modMp (fun m => { m with hnPending := true, hnTries := 0 }) s
  else s

/-- The counts of a completion entry that reaches its slot: a completion slot in class 5, and the command in class 0 (R29). -/
def settleEntry (e : CqEntry) (s : State) : State := if e.event then settle 5 1 s else settle 0 1 (settle 5 1 s)

/-- Numbers an event as it is written (R313): EVT_SEQ, and its copy in the mirror. -/
def countEvent (e : CqEntry) (s : State) : State :=
  if e.event then
    modHost (fun h => { h with evtSeq := h.evtSeq + 1 }) (modMp (mirrorEvent e s.host.evtSeq) s)
  else s

/-- Writes an entry into the next slot of completion queue `q` (R311): PHASE, EPOCH4, SQ_HEAD or EVT_SEQ, the ledger counts,
and its interrupt. -/
def cqWrite (q : Fin 32) (e : CqEntry) (s : State) : State :=
  let p := s.host.pairs[q]
  let n := if e.event then s.host.evtSeq else BitVec.ofNat 16 p.sqHead
  let s := emit (.cqe q.val p.cqTail p.phase (epoch4 s) n e) s
  let s := modPairq q (fun p =>
    if p.cqTail + 1 < p.cqSize then { p with cqTail := p.cqTail + 1 } else { p with cqTail := 0, phase := !p.phase }) s
  signalCq q e.event (countEvent e (settleEntry e s))

/-- Writes the output area of a command that completes (R329). -/
def writeOut (u : Option Unwritten) (s : State) : State :=
  match u.bind (·.area) with
  | some a => emit (.area a.1 a.2) s
  | none => s

/-- Writes an entry, a completion with its output area, or puts it behind those that wait for queue `q` (R297, R302). -/
def cqPush (q : Fin 32) (e : CqEntry) (u : Option Unwritten) (s : State) : State :=
  if cqWritable q s && s.host.pairs[q].wait.isEmpty then cqWrite q e (writeOut u s)
  else modPairq q (fun p => { p with wait := p.wait ++ [e], unwritten := p.unwritten ++ u.toList }) s

/-- A completion enters the MPORT result store with its output bytes (R354, R355). -/
def mpResult (e : CqEntry) (area : List Byte) (s : State) : State :=
  notifyRise s (settle 0 1 (modMp (fun m => { m with results := m.results ++ [{ entry := e, area := area }] }) s))

/-! ### Events (R44, R313, R344, R427) -/

/-- Whether an event waiting in the internal queue is of the same code and path (R44). -/
def sameThresh (a b : CqEntry) : Bool := a.event && a.status == b.status && a.result.getD 0 0 == b.result.getD 0 0

/-- The event that replaces a queued one: bytes 22 and 23 count the events replaced (R44). -/
def replaceThresh (old new : CqEntry) : CqEntry :=
  { new with result := new.result.take 6 ++ leBytes 2 ((le old.result 6 2 + 1 : Nat) : Int) ++ new.result.drop 8 }

/-- How far back a slot's ring reaches at its trigger (R427): to its arm, or where its service's time-shift ring holds more, to the oldest
block of that. -/
def Capture.reachAt (c : Capture) (s : State) : DT :=
  match idx 96 (c.index - 0x80) with
  | some v =>
    if c.source = 4 ∧ 0x80 ≤ c.index ∧ s.mem.depth[v] ≠ 0 then
      BitVec.ofNat 64 (min c.armedAt.toNat (max s.mem.since[v].toNat ((now s).toNat - msDt s.mem.depth[v])))
    else c.armedAt
  | none => c.armedAt

/-- What a slot's ring holds at its trigger (R427): of a service the copy of its time-shift ring. -/
def Capture.atTrigger (c : Capture) (s : State) : List (DT × List Byte) :=
  match idx 96 (c.index - 0x80) with
  | some v => if c.source = 4 ∧ 0x80 ≤ c.index then s.mem.history[v].reverse else c.blocks
  | none => c.blocks

/-- The event triggers every armed slot whose mask and filter it meets: T is the stamp in its result bytes 24 to 31 (R427). -/
def captureTrigger (ev : Ev) (e : CqEntry) (s : State) : State :=
  modMem (fun m => { m with slots := m.slots.map fun c =>
    if c.st == .armed && c.event && c.mask.getLsbD (evBit ev)
        && (c.filter == 0xFFFF || c.filter == (e.result.getD 0 0).toNat) then
      { c with st := .triggered, trigger := BitVec.ofNat 64 (le e.result 8 8), reach := c.reachAt s, blocks := c.atTrigger s }
    else c }) s

/-- Places an event in the internal queue, on queue 0, or behind the events that its block holds back; on a full queue a threshold event
replaces one of the same code and path (R44). DESIGN CHOICE (log entry 94): of several the one that has waited longest. -/
def queueEvent (ev : Ev) (e : CqEntry) (s : State) : State :=
  let n := (internalEvents s).length
  if n < 256 && s.host.heldBack.isEmpty then cqPush 0 e none s
  else if (ev == .threshHigh || ev == .threshLow) && s.host.pairs[0].wait.any (sameThresh e) then
    modPairq 0 (fun p => { p with wait := modFirst (sameThresh e) (fun o => replaceThresh o e) p.wait }) s
  else modHost (fun h => { h with heldBack := h.heldBack ++ [e] }) s

/-- Raises an event at `dt` with its 16 result bytes. A masked event is not produced (R313). -/
def raiseAt (ev : Ev) (dt : DT) (res : List Byte) (s : State) : State :=
  if s.host.evMask.getLsbD (evBit ev) && !unmaskable.getLsbD (evBit ev) then s
  else
    let e : CqEntry := { tag := 0xFFFF, status := evCode ev, dt := dt, result := res, event := true }
    captureTrigger ev e (notifyRise s (queueEvent ev e s))

/-- Raises an event at the instant of the step. -/
def raise (ev : Ev) (fs : List (Nat × Nat × Int)) (s : State) : State := raiseAt ev (now s) (result fs) s

/-- Events held back by their blocks enter the internal queue as space is free (R44). -/
def refill (s : State) : State :=
  let room := 256 - (internalEvents s).length
  notifyRise s (modHost (fun h => { h with
    pairs := upd h.pairs 0 (fun p => { p with wait := p.wait ++ h.heldBack.take room }), heldBack := h.heldBack.drop room }) s)

/-- Writes the entry that has waited longest for queue `q`, if a slot is free (R302). -/
def cqDrainOne (q : Fin 32) (s : State) : State :=
  match s.host.pairs[q].wait with
  | e :: rest =>
    if !cqWritable q s then s
    else if e.event then notifyRise s (refill (cqWrite q e (modPairq q (fun p => { p with wait := rest }) s)))
    else
      let u := s.host.pairs[q].unwritten.head?
      notifyRise s (refill (cqWrite q e (writeOut u (modPairq q (fun p => { p with wait := rest, unwritten := p.unwritten.drop 1 }) s))))
  | [] => s

/-! ### Return rings (R316, R318, R503) -/

/-- The slots of a return ring that are visible to the device and not yet freed. -/
def ringFree (r : RetRing) : Nat := if r.size = 0 then 0 else r.size - 1 - (r.tail + r.size - r.head) % r.size

/-- The ledger class of a buffer class (R29). -/
def bufRow (c : Fin 4) : Fin 9 := ⟨c.val + 1, by omega⟩

/-- Writes a return entry into the next slot (R316); the Sherds in the buffer are drained (R415). -/
def retWrite (c : Fin 4) (e : RetEntry) (s : State) : State :=
  let r := s.host.rings[c]
  let s := emit (.ret (c.val + 1) r.tail r.phase (epoch4 s) e) s
  let s := modRing c (fun r => if r.tail + 1 < r.size then { r with tail := r.tail + 1 } else { r with tail := 0, phase := !r.phase }) s
  let s := signalRing c (settle (bufRow c) 1 (settle 5 1 s))
  if c.val = 2 then
    let n := s.cry.log.countP fun x => !x.drained && x.sent == some e.serial
    settle 7 n (modCry (fun k => { k with log := k.log.map fun x => if x.sent == some e.serial then { x with drained := true } else x }) s)
  else s

/-- Whether a return entry of class `c + 1` can be written now. -/
def retWritable (c : Fin 4) (s : State) : Bool := canSend s && s.host.rings[c].setup && decide (0 < ringFree s.host.rings[c])

/-- Writes a return entry, or lets it wait for a slot (R318). -/
def retPush (c : Fin 4) (e : RetEntry) (s : State) : State :=
  if retWritable c s && s.host.rings[c].wait.isEmpty then retWrite c e s
  else modRing c (fun r => { r with wait := r.wait ++ [e] }) s

/-- Writes the return entry that has waited longest, if a slot is free. -/
def retDrainOne (c : Fin 4) (s : State) : State :=
  match s.host.rings[c].wait with
  | e :: rest => if retWritable c s then retWrite c e (modRing c (fun r => { r with wait := rest }) s) else s
  | [] => s

/-! ### Held commands and their completions (R302, R306, R311, R529) -/

/-- The commands of a source that are fetched and not completed (R302): held, returning, and completions that wait for a slot. -/
def heldOf (src : Source) (s : State) : Nat :=
  (s.host.held.countP fun h => h.src == src && !h.deferred) + (s.host.returning.countP fun r => r.src == src)
    + (match src with | .queue q => s.host.pairs[q].wait.countP fun e => !e.event | .mport => 0)

/-- The commands held across the device (R302). -/
def heldAll (s : State) : Nat :=
  (s.host.held.countP fun h => !h.deferred) + s.host.returning.length
    + s.host.pairs.toList.foldl (fun n p => n + p.wait.countP fun e => !e.event) 0

def findHeld (id : Nat) (s : State) : Option Held := s.host.held.find? (·.id == id)
def dropHeld (id : Nat) : State → State := modHost fun h => { h with held := h.held.filter (·.id != id) }
def modHeld (id : Nat) (f : Held → Held) : State → State :=
  modHost fun h => { h with held := h.held.map fun x => if x.id == id then f x else x }

/-- QID of a source: 0xFF for the MPORT (R344, R353). -/
def qidOf : Source → Nat
  | .queue q => q.val
  | .mport => 0xFF

/-- What waits with a command's completion: its output area lies where its parameters say (R329). -/
def Held.unwritten (h : Held) (area : List Byte) : Unwritten :=
  { id := h.id, fence := h.entry.flags.getLsbD 1, area := if area.isEmpty then none else some (BitVec.ofNat 64 (le h.entry.param 0 8), area) }

/-- Routes a command's completion to its queue, or to the MPORT result store. -/
def sendEntry (h : Held) (e : CqEntry) (area : List Byte) (s : State) : State :=
  match h.src with
  | .queue q => cqPush q e (some (h.unwritten area)) s
  | .mport => mpResult e area s

/-- DEFERRED_DONE of a deferred command (R529). -/
def deferredDone (h : Held) (st : Status) (at_ : DT) (s : State) : State :=
  raise .deferredDone [(16, 2, h.tag.toNat), (18, 1, qidOf h.src), (20, 2, (statusCode st).toNat), (22, 2, h.op), (24, 8, dtInt at_)] s

/-- Ends a command: its completion with status, result and output area; for a deferred command, DEFERRED_DONE (R529), whose DT
is `at_`. -/
def finishAt (h : Held) (st : Status) (res area : List Byte) (at_ : DT) (s : State) : State :=
  if h.deferred then deferredDone h st at_ (dropHeld h.id s)
  else sendEntry h { tag := h.tag, status := statusCode st, dt := now s, result := res, event := false } area (dropHeld h.id s)

/-- Ends a command with a status and result bytes given as position, length, value. -/
def finish (h : Held) (st : Status) (fs : List (Nat × Nat × Int)) (s : State) : State := finishAt h st (result fs) [] (now s) s

/-- Ends the command of an identifier, if it is still held. -/
def finishId (id : Nat) (st : Status) (fs : List (Nat × Nat × Int)) (s : State) : State :=
  match findHeld id s with
  | some h => finish h st fs s
  | none => s

/-- Ends a configuration command with result C, the DT of the boundary (R310, R330). -/
def finishC (h : Held) (s : State) : State := finish h .ok [(24, 8, dtInt (now s))] s
def finishIdC (id : Nat) (s : State) : State := finishId id .ok [(24, 8, dtInt (now s))] s

/-- Ends every command of a list. -/
def finishAll (ids : List Nat) (st : Status) (fs : List (Nat × Nat × Int)) (s : State) : State :=
  ids.foldl (fun s id => finishId id st fs s) s

/-- Ends a command at a failed check: result bytes 16 to 18 (R311). -/
def fail (h : Held) (st : Status) (off : Nat) (d : Detail) (s : State) : State :=
  finish h st (if (statusCode st).toNat / 256 = 1 then [(16, 2, off), (18, 1, detailCode d)] else []) s

/-- Ends a command with a status that has no offending byte. -/
def reject (h : Held) (st : Status) (s : State) : State := fail h st 0xFFFF .none s

/-- Ends the command of an identifier, if it is still held, with a status that has no offending byte (R311). -/
def rejectId (id : Nat) (st : Status) (s : State) : State :=
  match findHeld id s with
  | some h => reject h st s
  | none => s

/-- Ends every command of a list so. -/
def rejectAll (ids : List Nat) (st : Status) (s : State) : State := ids.foldl (fun s id => rejectId id st s) s

/-- Ends a command with an output area of `data` (R329): min(OUT_LEN, size) bytes are written, the full size in the result unless
the command gives its own. -/
def finishOut (h : Held) (st : Status) (data : List Byte) (own : Option (List (Nat × Nat × Int))) (s : State) : State :=
  let len := le h.entry.param 8 4
  finishAt h st (result (own.getD [(16, 4, data.length)])) (data.take len) (now s) s

/-- Completes a command with OK_DEFERRED and keeps it until its deferral ends (R312, R529). A command with a deadline is never
deferred: it completes with DEADLINE_MISSED (R310). One that is deferred already stays so. -/
def deferCmd (h : Held) (fs : List (Nat × Nat × Int)) (s : State) : State :=
  if h.deferred then s
  else if h.entry.flags.getLsbD 2 then reject h .deadlineMissed s
  else
    modHeld h.id (fun x => { x with deferred := true })
      (sendEntry h { tag := h.tag, status := statusCode .okDeferred, dt := now s, result := result fs, event := false } [] s)

/-- A command has begun to take effect (R303, R310). -/
def begin_ (h : Held) : State → State := modHeld h.id fun x => { x with begun := true }

/-- Notes figures that a held command needs later. -/
def note (h : Held) (l : List Int) : State → State := modHeld h.id fun x => { x with begun := true, aux := l }

end Sys2Proof.Machine
end

