-- ==== Sys2Proof/Machine/Records.lean ====
section
/-!
DEFINITION. Records.lean: the buffers of the host and the records packed into them with their staging (R217, R218, R250, R318),
and the Sherds of the operational log: forming, numbering, tagging, delivery and gap records (R409 to R417).
-/
namespace Sys2Proof.Machine

/-! ### Buffers (R318) -/

/-- Returns the oldest buffer held in a class with a status and the bytes written in it (R318). -/
def returnBuffer (c : Fin 4) (st : Status) (s : State) : State :=
  match s.host.rings[c].buffers with
  | b :: rest =>
    let st := if b.bad then Status.hwFault else st
    retPush c { cookie := b.cookie, bytes := b.fill, status := statusCode st, serial := s.host.rings[c].serial }
      (modRing c (fun r => { r with buffers := rest, serial := r.serial + 1 }) s)
  | [] => s

/-- A count added for a producer. -/
def addCount (l : List (Nat × Nat)) (k n : Nat) : List (Nat × Nat) :=
  match l with
  | [] => [(k, n)]
  | (a, m) :: rest => if a = k then (a, m + n) :: rest else (a, m) :: addCount rest k n

/-- The count of a producer. -/
def countOf (l : List (Nat × Nat)) (k : Nat) : Nat := ((l.find? (·.1 == k)).map (·.2)).getD 0

/-- Marks an audio block that is about to be written with the blocks lost before it (R250); the header of R217 carries them
for a record. -/
def withLoss (r : Rec) (n : Nat) : Rec :=
  if n = 0 || !r.block then r
  else { r with
    payload := r.payload.take 12 ++ leBytes 2 ((le r.payload 12 2 ||| 0x20 : Nat) : Int) ++ (r.payload.drop 14).take 4
      ++ leBytes 2 n ++ r.payload.drop 20 }

/-- The 32-byte header of a fragment (R217). -/
def recHeader (r : Rec) (len lossCount : Nat) : List Byte :=
  let first := if r.payload.length = r.total then 1 else 0
  let last := if len = r.payload.length then 2 else 0
  let loss := if lossCount = 0 then 0 else 8
  pack 0 32 [(0, 4, len), (4, 2, r.producer), (6, 1, r.kind), (7, 1, ((r.flags ||| first ||| last ||| loss : Nat) : Int)), (8, 2, r.ctx),
    (10, 2, lossCount), (12, 4, r.seq), (16, 8, dtInt r.dt), (24, 4, r.aux), (28, 4, r.total)]

/-- The bytes that `n` take on an 8-byte grid (R217). -/
def round8 (n : Nat) : Nat := (n + 7) / 8 * 8

/-- Writes bytes into the current buffer of a class; `n` is the space they take. -/
def putBytes (c : Fin 4) (data : List Byte) (n : Nat) (s : State) : State :=
  match s.host.rings[c].buffers with
  | b :: _ =>
    modRing c (fun r => { r with buffers := match r.buffers with
        | b :: rest => { b with fill := b.fill + n, firstWrite := some (b.firstWrite.getD (now s)) } :: rest
        | [] => [] }) (emit (.buffer (c.val + 1) b.addr b.fill data) s)
  | [] => s

/-- A Sherd's last fragment lies in the current buffer (R415): it is drained when that buffer's return entry is written. -/
def markSent (c : Fin 4) (r : Rec) (s : State) : State :=
  match r.sherd with
  | some n =>
    let k := s.host.rings[c].serial
    modCry (fun y => { y with log := y.log.map fun x => if x.seq == n then { x with sent := some k } else x }) s
  | none => s

/-- Takes the LOSS that a producer's next record carries; Sherds (KIND 0x50, 0x51) are never lost (R416). -/
def takeOwed (c : Fin 4) (r : Rec) (s : State) : Nat × State :=
  if r.kind / 16 ≠ 5 ∧ (r.block ∨ r.payload.length = r.total) then
    (countOf s.host.rings[c].owed r.producer,
      modRing c (fun x => { x with owed := x.owed.filter (·.1 != r.producer) }) s)
  else (0, s)

/-- Writes a record over the posted buffers (R217, R250): what is left when they run out. The fuel bounds the buffers tried. -/
def writeRec (c : Fin 4) : Nat → Rec → State → State × Option Rec
  | 0, r, s => (s, some r)
  | n + 1, r, s =>
    match s.host.rings[c].buffers with
    | [] => (s, some r)
    | b :: _ =>
      if r.block then
        if r.total ≤ b.len - b.fill then
          let (k, s) := takeOwed c r s
          (putBytes c (withLoss r k).payload r.total s, none)
        else writeRec c n r (returnBuffer c .ok s)
      else
        let (k, s) := takeOwed c r s
        let len := min r.payload.length (b.len - b.fill - 32)
        let s := putBytes c (recHeader r len k ++ r.payload.take len) (round8 (32 + len)) s
        let done := len == r.payload.length
        let s := if done then markSent c r s else s
        let s := if b.len - b.fill - round8 (32 + len) ≤ 32 then returnBuffer c .ok s else s
        if done then (s, none) else writeRec c n { r with payload := r.payload.drop len } s

/-! ### Staging (R218, R250, R256) -/

/-- The staging space that a record takes; a Sherd waits in the log ring itself. -/
def stageSize (r : Rec) : Nat := if r.sherd.isSome then 0 else round8 (32 + r.payload.length)

/-- Whether the staging of class `c + 1` is over its limit (R218: 4 MB; R256: 2 MB; R250: 2 s per service, 500 blocks). -/
def stageOver (c : Fin 4) (l : List Rec) (producer : Nat) : Bool :=
  if c.val = 0 then decide (500 < l.countP (·.producer == producer))
  else decide ((if c.val = 1 then 4194304 else 2097152) < l.foldl (fun n r => n + stageSize r) 0)

/-- Whether a staged record may be discarded: unfragmented (R218), of the service concerned for audio (R250), and no Sherd. -/
def discardable (c : Fin 4) (producer : Nat) (r : Rec) : Bool :=
  r.sherd.isNone && (r.block || r.payload.length == r.total) && (c.val != 0 || r.producer == producer)

/-- Discards the oldest staged records until the staging is within its limit; each is counted for its producer (R218). -/
def discard (c : Fin 4) (producer : Nat) : Nat → RetRing → RetRing
  | 0, r => r
  | n + 1, r =>
    if stageOver c r.stage producer then
      match r.stage.find? (discardable c producer) with
      | some x =>
        discard c producer n { r with
          stage := r.stage.eraseP (discardable c producer), lost := addCount r.lost x.producer 1,
          owed := addCount r.owed x.producer 1 }
      | none => r
    else r

/-- A record waits in the staging of its class. -/
def stageRec (c : Fin 4) (x : Rec) (s : State) : State :=
  modRing c (fun r => discard c x.producer (r.stage.length + 1) { r with stage := r.stage ++ [x] }) s

/-- Whether buffers of a class can be written: some are posted, the device may write to the host (R297), and they are not to be returned by a
warm start (R323). -/
def canDeliver (c : Fin 4) (s : State) : Bool := canSend s && s.power.st != .warmStart && !s.host.rings[c].buffers.isEmpty

/-- Delivers a record: into the buffers, or into the staging behind those that wait there. -/
def deliver (c : Fin 4) (x : Rec) (s : State) : State :=
  if canDeliver c s && s.host.rings[c].stage.isEmpty then
    match writeRec c (s.host.rings[c].buffers.length + 1) x s with
    | (s, some rest) => stageRec c rest s
    | (s, none) => s
  else stageRec c x s

/-- Moves staged records into the buffers, oldest first, as far as the buffers reach. The fuel bounds the records moved. -/
def unstage (c : Fin 4) : Nat → State → State
  | 0, s => s
  | n + 1, s =>
    match s.host.rings[c].stage with
    | [] => s
    | x :: rest =>
      if canDeliver c s then
        match writeRec c (s.host.rings[c].buffers.length + 1) x (modRing c (fun r => { r with stage := rest }) s) with
        | (s, none) => unstage c n s
        | (s, some x) => modRing c (fun r => { r with stage := x :: r.stage }) s
      else s

/-! ### Sherds of the operational log (R409 to R417) -/

/-- UNIT of a Sherd (R409). -/
def unitOf (s : State) : Nat := if s.pair.role = 2 then 1 else 0

/-- A Sherd without SEQ, key fields, PREV_TAG and TAG (R409). -/
def sherdBody (type flags ctx unit : Nat) (start stop : DT) (epoch : BitVec 32) (serial : BitVec 64) (payload : List Byte) :
    List Byte :=
  pack 0 48 [(0, 2, type), (2, 1, 1), (3, 1, flags), (4, 2, ctx), (6, 1, unit), (16, 8, dtInt start), (24, 8, dtInt stop),
    (44, 4, epoch.toNat)] ++ fit 48 payload ++ zeros 8 ++ leBytes 8 serial.toNat ++ zeros 16

/-- Bytes replaced from a position. -/
def patch (l : List Byte) (off : Nat) (new : List Byte) : List Byte := l.take off ++ new ++ l.drop (off + new.length)

/-- The records that the ring holds (R415). -/
def ringCap (s : State) : Nat := s.cry.ringKb * 8

/-- The undrained records overwritten so far, with one more (R415). -/
def extendRun (run : Option (BitVec 64 × Nat)) (x : Sherd) : Option (BitVec 64 × Nat) :=
  if x.drained then run
  else match run with
    | some (a, n) => some (a, n + 1)
    | none => some (x.seq, 1)

/-- Makes room for one record: a full ring overwrites its oldest record that is not held (R415). None when every record is
held. -/
def makeRoom (s : State) : Option State :=
  if s.cry.log.length < ringCap s then some s
  else match s.cry.log.find? (fun x => !x.untagged) with
    | some x =>
      some (modHost (fun h => { h with rings := h.rings.map fun r =>
          { r with stage := r.stage.filter fun y => y.sherd != some x.seq } })
        (modCry (fun k => { k with log := k.log.filter (fun y => y.seq != x.seq), overwritten := extendRun k.overwritten x }) s))
    | none => none

/-- Reserves the next 4096 numbers of the log in the vault when they are needed (R34). -/
def reserveSeq (s : State) : State :=
  if s.cry.nextSeq.toNat < s.cry.reservedTo.toNat then s
  else
    let e := s.cry.nextSeq + 4096
    modVault (fun v => { v with seqEnd := e }) (modCry (fun k => { k with reservedTo := e }) s)

/-- The numbers that a record covers: a gap record of cause 3 (R414, R29). -/
def coveredBy (d : List Byte) : Nat := if le d 0 2 = 1 && le d 48 1 = 3 then le d 56 8 else 0

/-- GAP_RECORDED of a gap record with its own SEQ (R344, R414); for cause 1 it names the first producer listed. -/
def gapRecorded (log : Nat) (d : List Byte) (seq : BitVec 64) (s : State) : State :=
  if le d 0 2 = 1 then
    let obj := if le d 48 1 = 1 then le d 64 2 else le d 50 2
    raise .gapRecorded [(16, 1, log), (17, 1, le d 48 1), (18, 2, obj), (20, 4, le d 56 8), (24, 8, seq.toNat)] s
  else s

/-- Numbers a record and puts it in the ring, untagged (R411, R415). -/
def formIn (d : List Byte) (s : State) : State :=
  let s := reserveSeq s
  let q := s.cry.nextSeq
  let s := modCry (fun k => { k with
    nextSeq := q + 1,
    log := k.log ++ [{ seq := q, data := patch d 8 (leBytes 8 q.toNat), untagged := true, drained := false, sent := none }] }) s
  gapRecorded 0 d q (settle 7 (coveredBy d) (post 7 1 s))

/-- Forms a record, or lets its event wait when the ring is full of held records (R415). -/
def form (d : List Byte) (s : State) : State :=
  if !s.cry.waiting.isEmpty then modCry (fun k => { k with waiting := k.waiting ++ [d] }) s
  else match makeRoom s with
    | some s => formIn d s
    | none => modCry (fun k => { k with waiting := k.waiting ++ [d] }) s

/-- A gap record's payload (R414) for causes other than 1. -/
def gapPayload (cause obj count : Nat) (first last : Int) : List Byte :=
  pack 0 48 [(0, 1, cause), (2, 2, obj), (8, 8, count), (16, 8, first), (24, 8, last)]

/-- A Sherd body of the operational log. -/
def opBody (type ctx : Nat) (start stop : DT) (payload : List Byte) (s : State) : List Byte :=
  sherdBody type 0 ctx (unitOf s) start stop s.host.epoch s.ident.serial payload

/-- Whether the run of overwritten undrained records must be covered before the next record: it has reached 4096 numbers, or
the next record overwrites none that continues it (R415). -/
def runEnds (s : State) : Bool :=
  match s.cry.overwritten with
  | none => false
  | some (a, n) =>
    4096 ≤ n ||
      (if s.cry.log.length < ringCap s then true
       else match s.cry.log.find? (fun x => !x.untagged) with
        | some x => x.drained || x.seq.toNat != a.toNat + n
        | none => true)

/-- Covers the run of overwritten records with a gap record of cause 3 (R415). -/
def coverRun (s : State) : State :=
  match s.cry.overwritten with
  | some (a, n) =>
    form (opBody 1 0xFFFF (now s) (now s) (gapPayload 3 0 n (a.toNat : Int) ((a.toNat + n - 1 : Nat) : Int)) s)
      (modCry (fun k => { k with overwritten := none }) s)
  | none => s

/-- The slot and key that tag the operational log, if present with USAGE bit 3 (R412, R417). -/
def logKey (s : State) : Option (Fin 64 × Key) :=
  match idx 64 s.cry.keySlot with
  | some i => match s.cry.keys[i] with
    | some k => if testBit k.usage 3 then some (i, k) else none
    | none => none
  | none => none

/-- The nonce of R404. -/
def nonceOf (ident : BitVec 32) (counter : Nat) : List Byte := beBytes 4 ident.toNat ++ beBytes 8 counter

/-- The end of a key's life, and the point of near exhaustion (R406). -/
def keyEnd : Nat := 2 ^ 48
def keyNear : Nat := 2 ^ 48 - 2 ^ 32

/-- A KEY_EVENT Sherd's payload (R413). -/
def keyEvent (action slot : Nat) (k : Key) : List Byte :=
  pack 0 48 [(0, 1, action), (1, 1, slot), (2, 1, k.type), (3, 1, k.usage), (4, 4, k.ident.toNat), (8, 8, k.counter)]

/-- Asks for a vault store of an item, once (R405, R441); while PFAIL_N is low no new store starts (R487). -/
def askStore (item : VaultItem) (cmd : Option Nat) (s : State) : State :=
  if (s.mnt.stores ++ s.mnt.stalled).any (fun x => x.1 == item && x.2.2 == cmd) then s
  else if s.power.pfail then modMnt (fun m => { m with stalled := m.stalled ++ [(item, 0, cmd)] }) s
  else modMnt (fun m => { m with stores := m.stores ++ [(item, 0, cmd)] }) s

/-- Uses one invocation counter value of a key (R404), with the KEY_EVENT Sherds of R406. -/
def useCounter (i : Fin 64) (k : Key) (s : State) : State :=
  let n := k.counter + 1
  let near := decide (keyNear ≤ n) && !k.nearDone
  let s := modKey i (fun k => { k with counter := n, used := true, nearDone := k.nearDone || near }) s
  let k := { k with counter := n, used := true }
  let s := if near then form (opBody 0x50 0xFFFF (now s) (now s) (keyEvent 3 i.val k) s) s else s
  if n = keyEnd then form (opBody 0x50 0xFFFF (now s) (now s) (keyEvent 4 i.val k) s) s else s

/-- A Sherd with KEY_ID, INVOCATION, PREV_TAG and its tag (R409, R410). -/
def tagged (k : Key) (prev d : List Byte) : List Byte :=
  let d := patch (patch (patch d 32 (leBytes 4 k.ident.toNat)) 36 (leBytes 8 k.counter)) 96 (fit 8 prev)
  d.take 112 ++ fit 16 (gcm k.bytes (nonceOf k.ident k.counter) (d.take 112) []).2

/-- The class-3 record that delivers a Sherd (R416). -/
def sherdRec (kind : Nat) (seq : BitVec 64) (d : List Byte) (op : Bool) : Rec :=
  { producer := 0, kind := kind, flags := 0, ctx := le d 4 2, seq := seq.toNat % 2 ^ 32, dt := BitVec.ofNat 64 (le d 16 8), aux := 0,
    payload := d, total := 128, block := false, sherd := if op then some seq else none }

/-- Tags held records in sequence order as long as the key can tag them, and delivers each (R412, R416). The fuel bounds the
records tagged. -/
def tagLoop : Nat → State → State
  | 0, s => s
  | n + 1, s =>
    match s.cry.log.find? (·.untagged) with
    | none => s
    | some x =>
      if s.cry.entropy.failed then s
      else match logKey s with
        | none => s
        | some (i, k) =>
          if keyEnd ≤ k.counter then s
          else if k.blockEnd ≤ k.counter then askStore (.reservation i) none s
          else
            let d := tagged k s.cry.prevTag x.data
            let s := modCry (fun y => { y with
              prevTag := (d.drop 112).take 8,
              log := y.log.map fun z => if z.seq == x.seq then { z with data := d, untagged := false } else z }) s
            let s := useCounter i k s
            tagLoop n (if s.cry.deliver then deliver 2 (sherdRec 0x50 x.seq d true) s else s)

/-- Forms the records whose events waited for space, oldest first (R415). The fuel bounds them. -/
def formWaiting : Nat → State → State
  | 0, s => s
  | n + 1, s =>
    match s.cry.waiting with
    | [] => s
    | d :: rest =>
      match makeRoom s with
      | some t => formWaiting n (formIn d (modCry (fun k => { k with waiting := rest }) t))
      | none => s

/-- Tags what can be tagged, then forms and tags what waited (R412, R415). -/
def tagAll (s : State) : State :=
  let s := tagLoop (s.cry.log.length + 4) s
  if s.cry.waiting.isEmpty then s
  else
    let s := formWaiting s.cry.waiting.length s
    tagLoop (s.cry.log.length + 4) s

/-- Writes a Sherd body to the operational log: the run of overwritten records is covered first where it ends (R415). A secondary sends its
records to the primary, which numbers and tags them (R36, R474). -/
def writeSherd (d : List Byte) (s : State) : State :=
  if s.pair.role = 2 then emit (.link 7 d) s
  else tagAll (form d (if runEnds s then coverRun s else s))

/-- Writes a Sherd to the operational log (R411, R415): a type, a context (0xFFFF for none), the interval and the payload. -/
def opSherd (type ctx : Nat) (start stop : DT) (payload : List Byte) (s : State) : State :=
  writeSherd (opBody type ctx start stop payload s) s

/-- A Sherd that copies an event: its 16 result bytes (R413). -/
def evSherd (type ctx : Nat) (res : List Byte) (s : State) : State := opSherd type ctx (now s) (now s) res s

/-- A FAULT Sherd (R413): the row of the fault table of R37 without the SPLL row, the object, detection and recovery. -/
def faultSherd (row obj : Nat) (detected recovered : DT) (s : State) : State :=
  opSherd 0x40 0xFFFF detected recovered
    (pack 0 48 [(0, 1, row), (1, 1, obj), (8, 8, dtInt detected), (16, 8, dtInt recovered)]) s

/-- A gap record of the operational log, with its GAP_RECORDED (R414, R344). -/
def gapSherd (cause obj ctx count : Nat) (first last : Int) (start stop : DT) (s : State) : State :=
  opSherd 1 ctx start stop (gapPayload cause obj count first last) s

/-! ### Sherds of the legal log (R34, R390, R409, R413) -/

/-- Reserves the next 4096 numbers of the legal log in the vault when they are needed (R34). -/
def reserveLegal (g : SaggarSt) : SaggarSt :=
  if g.seq.toNat < g.reserved.toNat then g else { g with reserved := g.seq + 4096 }

/-- The key that tags the legal log (R368). -/
def legalKeyOf (g : SaggarSt) : Key :=
  { type := 1, usage := 8, ident := g.keyIdent, bytes := g.legalKey, counter := g.invocation, blockEnd := 0, used := true, nearDone := false }

/-- Forms a legal Sherd with its number and tag (R390, R409); FLAGS bit 1 is the not-legal mark (R5, R386). -/
def legalSherd (type ctx : Nat) (start stop : DT) (payload : List Byte) (notLegal : Bool) (s : State) : State :=
  let s := modSg reserveLegal s
  let g := s.sg
  let d := sherdBody type (1 + 2 * bit (s.ident.nfb || notLegal)) ctx (unitOf s) start stop g.boots s.ident.serial payload
  let d := tagged (legalKeyOf g) g.prevTag (patch d 8 (leBytes 8 g.seq.toNat))
  let s := modSg (fun g => { g with
    seq := g.seq + 1, invocation := g.invocation + 1, prevTag := (d.drop 112).take 8, formed := g.formed ++ [(g.seq, d)] }) s
  gapRecorded 1 d g.seq (post 8 1 s)

/-- A fault that touched a Saggar measurement also has a Sherd in the legal log (R40). -/
def legalFault (touched : Bool) (row obj : Nat) (detected recovered : DT) (s : State) : State :=
  if touched then
    legalSherd 0x40 0xFFFF detected recovered
      (pack 0 48 [(0, 1, row), (1, 1, obj), (8, 8, dtInt detected), (16, 8, dtInt recovered)]) false s
  else s

/-- Insertion of a pair by descending count. -/
def insertCount (x : Nat × Nat) : List (Nat × Nat) → List (Nat × Nat)
  | [] => [x]
  | y :: rest => if y.2 < x.2 then x :: y :: rest else y :: insertCount x rest

/-- The gap record of a discard episode (R218, R414): up to eight producers with their counts, largest first. -/
def lossGap (l : List (Nat × Nat)) (s : State) : State :=
  let sorted := l.foldl (fun acc x => insertCount x acc) []
  let total : Nat := l.foldl (fun (n : Nat) x => n + x.2) 0
  opSherd 1 0xFFFF (now s) (now s)
    (pack 0 16 [(0, 1, 1), (1, 1, if l.length ≤ 8 then 1 else 0), (2, 2, l.length), (8, 8, total)]
      ++ fit 32 ((sorted.take 8).flatMap fun x => leBytes 2 x.1 ++ leBytes 2 x.2)) s

/-- Ends the discard episode of a class with its gap record, once its buffers can be written again (R218). -/
def closeEpisode (c : Fin 4) (s : State) : State :=
  let l := s.host.rings[c].lost
  if l.isEmpty || !canDeliver c s then s else lossGap l (modRing c (fun r => { r with lost := [] }) s)

/-- Delivers what is staged in a class as far as its buffers reach (R218, R250). -/
def flushStage (c : Fin 4) (s : State) : State :=
  let s := closeEpisode c s
  unstage c s.host.rings[c].stage.length s

end Sys2Proof.Machine
end

