-- ==== Sys2Proof/Machine/Operands.lean ====
section
/-!
DEFINITION. Operands.lean: the operand forms of a submission entry (R304, R327 to R333, R528): its parameter bytes, field items
and the field tables with their encodings, and the description of a command that the checks of R306 use.
-/
namespace Sys2Proof.Machine

/-! ### Entry and parameter bytes -/

def Entry.ptr (e : Entry) : Bool := e.flags.getLsbD 0
def Entry.fence (e : Entry) : Bool := e.flags.getLsbD 1
def Entry.hasDeadline (e : Entry) : Bool := e.flags.getLsbD 2

/-- The length of the parameters: PLEN, or the pointed length (R304). -/
def Entry.len (e : Entry) : Nat := if Entry.ptr e then le e.param 8 4 else e.plen.toNat

/-- The parameter bytes: from entry byte 16, or from B0 of the pointed block (R327). -/
def Entry.args (e : Entry) : List Byte := if Entry.ptr e then e.block.take (Entry.len e) else e.param

/-- The offset that R311 gives byte `i` of the parameters. -/
def Entry.offset (e : Entry) (i : Nat) : Nat := if Entry.ptr e then 64 + i else 16 + i

/-- The 64 bytes of an entry (R304). -/
def entryBytes (op : Nat) (e : Entry) : List Byte :=
  leBytes 2 op ++ leBytes 2 e.tag.toNat ++ [e.flags, e.plen] ++ leBytes 2 e.target.toNat ++ leBytes 8 (dtInt e.deadline)
    ++ fit 48 e.param

/-- OUT_LEN (R329). -/
def outLen (e : Entry) : Nat := le e.param 8 4

/-! ### Items (R330) -/

/-- The header fields of an item command (R330). -/
def itemCommit (a : List Byte) : Bool := testBit (le a 0 1) 0
def itemAllowHit (a : List Byte) : Bool := testBit (le a 0 1) 1
def itemAction (a : List Byte) : Nat := le a 1 1
def itemCount (a : List Byte) : Nat := le a 2 1
def itemArg8 (a : List Byte) : Nat := le a 3 1
def itemArg32 (a : List Byte) : Nat := le a 4 4

/-- The classes of configuration fields (R11). -/
inductive FClass where
  | lv | st | lk
  deriving DecidableEq, Repr

/-- A field of a field table: class, reset value, range `lo` to `hi` in steps, and further values allowed (R331, R332). A range of
listed values is empty with the values listed. -/
structure Field where
  cls : FClass
  reset : Int
  lo : Int
  hi : Int
  step : Nat
  more : List Int
  deriving DecidableEq, Repr

def fSpan (cls : FClass) (reset lo hi : Int) : Field := { cls := cls, reset := reset, lo := lo, hi := hi, step := 1, more := [] }
def fStep (cls : FClass) (reset lo hi : Int) (step : Nat) : Field := { cls := cls, reset := reset, lo := lo, hi := hi, step := step, more := [] }
def fList (cls : FClass) (reset : Int) (l : List Int) : Field := { cls := cls, reset := reset, lo := 0, hi := -1, step := 1, more := l }

/-- The fields of the discipline block and the sampling PLLs (R75). -/
def field01 : Nat → Option Field
  | 0 => some (fSpan .st 0 0 3)
  | 1 => some (fList .st 10000000 [5000000, 10000000, 20000000, 40000000])
  | 2 => some (fSpan .st 0 0 1)
  | 3 => some { cls := .st, reset := 10000, lo := 100, hi := 100000, step := 1, more := [] }
  | 4 => some (fSpan .lv 100 10 1000)
  | 5 => some (fSpan .lv 1000000 1000 100000000)
  | 6 => some (fSpan .lv 2000 100 20000)
  | 7 => some (fList .lv 0 [0, 38400000, 19200000, 12288000, 9600000])
  | 8 => some (fSpan .lv 10000 1 500000)
  | 9 => some (fSpan .st 0 0 2)
  | 10 => some (fSpan .st 0 0 16)
  | 11 => some (fSpan .st 1 0 1)
  | _ => none

/-- The fields of a wideband input (R97). -/
def field02 : Nat → Option Field
  | 0 => some (fSpan .lk 1 0 1)
  | 1 => some (fSpan .lv 0 0 1)
  | 2 => some (fSpan .lv 0 (-30) 20)
  | 3 => some (fSpan .lv (-6) (-20) (-3))
  | 4 => some (fSpan .lv 10 1 600)
  | 5 => some (fSpan .lv 4 1 64)
  | 6 => some (fSpan .lv 6 3 12)
  | _ => none

/-- The fields of a carver (R98). -/
def field03 : Nat → Option Field
  | 0 => some (fSpan .st 0 0 4)
  | 1 => some (fSpan .st 0 0 0x6C555555)
  | 2 => some (fList .lk 16 [8, 16, 32, 64])
  | _ => none

/-- The fields of a pointed tuner (R127). FREQ has no reset value: 0 stands for none. -/
def field04 : Nat → Option Field
  | 0 => some (fSpan .st 0 30000000 1500000000)
  | 1 => some (fSpan .st 0 0 1)
  | 2 => some (fSpan .st 2000 1200 2800)
  | 3 => some (fList .st 1800 [300, 600, 1200, 1800, 2400])
  | 4 => some (fSpan .st 0 0 2)
  | 5 => some (fSpan .st 0 0 1)
  | 6 => some (fSpan .lv 0 0 1)
  | 7 => some (fSpan .lv 30 0 60)
  | 8 => some (fSpan .lv (-6) (-20) (-3))
  | 9 => some (fSpan .lv 1000 100 60000)
  | 10 => some (fSpan .lv 4 1 64)
  | 11 => some (fSpan .lv 6 3 12)
  | _ => none

/-- The fields of a probe and of the Slip (R128). -/
def field06 : Nat → Option Field
  | 0 => some (fSpan .lv 0 0 1)
  | 1 => some (fSpan .lv 0 (-1200) 1200)
  | 2 => some (fSpan .lv (-700) (-900) (-400))
  | 3 => some (fSpan .lv 100 10 10000)
  | 4 => some (fSpan .lv 30 10 100)
  | 5 => some (fSpan .st 0 0 3)
  | 6 => some (fSpan .st 0 0 6)
  | 7 => some (fSpan .lv 1000000000 1000000 15000000000)
  | 8 => some (fSpan .lv (-1000) (-1000) (-200))
  | 9 => some (fSpan .st 0 0 5)
  | 10 => some (fSpan .lv 60 1 3600)
  | 11 => some (fSpan .lv 30 5 200)
  | _ => none

/-- The fields of a channel path (R155). NCO_TRIM's range depends on the path (R133); FIR_LEN 0 stands for the standard's value. -/
def field07 : Nat → Option Field
  | 2 => some (fSpan .lv 0 (-(2 ^ 31 : Nat)) (2 ^ 31 - 1 : Nat))
  | 3 => some (fStep .lk 0 15 255 2)
  | 4 => some (fSpan .lv 0 0 1)
  | 5 => some (fSpan .lv 64 64 4096)
  | 6 => some (fSpan .lv 0 0 3)
  | 7 => some (fSpan .st (-100) (-1300) 300)
  | 8 => some (fSpan .st (-1100) (-1300) 300)
  | 9 => some (fSpan .st 30 0 200)
  | 10 => some (fList .st 1000 [250, 1000, 4000, 16000])
  | 11 => some (fSpan .lv 100 0 10000)
  | 12 => some (fSpan .lv 1000 0 10000)
  | _ => none

/-- The fields of a context (R184). FREQ's range depends on the standard (R162, R186). -/
def field08 : Nat → Option Field
  | 0 => some (fSpan .lk 0 0 4)
  | 1 => some (fSpan .st 0 0 0xFFFFFFFF)
  | 2 => some (fSpan .st 0 0 14)
  | 3 => some (fSpan .lv 0 0 1)
  | 4 => some (fSpan .st 0 0 2)
  | 5 => some (fSpan .st 0 0 12)
  | 6 => some (fSpan .lv 1 0 1)
  | 7 => some (fSpan .lv 0 0 3)
  | 8 => some (fStep .lv 45 25 100 5)
  | 9 => some (fSpan .lv 0 0 2)
  | 10 => some (fSpan .st 40 10 60)
  | 11 => some (fSpan .st 20 0 50)
  | 12 => some (fList .lv 50 [50, 75, 0])
  | 13 => some (fSpan .lv 1 0 2)
  | 14 => some (fSpan .lv 10 1 100)
  | 15 => some (fSpan .lv 750 100 1500)
  | 16 => some (fSpan .lv 0 (-600) 600)
  | _ => none

/-- The fields of R212 that R184 does not have (R331). -/
def field09 : Nat → Option Field
  | 7 => some (fSpan .lv 0 0 1)
  | 8 => some (fSpan .lv 0 0 1)
  | 9 => some (fSpan .st 0 0 4)
  | _ => none

/-- The fields of side data, AF policy and alerts (R240). -/
def field0A : Nat → Option Field
  | 0 => some (fSpan .lv 0 0 1)
  | 1 => some (fList .lv 2 [0, 2, 5])
  | 2 => some (fSpan .lv 20 1 1000)
  | 3 => some (fSpan .st 1 0 3)
  | 4 => some (fSpan .st 31 0 31)
  | 5 => some (fSpan .st 60 10 300)
  | 6 => some (fStep .st 500 100 10000 10)
  | 7 => some (fStep .st 100 10 1000 10)
  | 8 => some (fSpan .st 10 1 600)
  | 9 => some (fSpan .st 0 0 1)
  | 10 => some (fSpan .st 0 0 1)
  | 11 => some (fSpan .lv 18 0 63)
  | 12 => some (fSpan .lv 1 0 65535)
  | 13 => some (fSpan .lv 0 0 1)
  | 14 => some (fSpan .lv 18 0 63)
  | _ => none

/-- The fields of an audio service (R263). -/
def field0B : Nat → Option Field
  | 1 => some (fSpan .lv 0 0 1)
  | 2 => some (fSpan .lv 0 0 1)
  | 3 => some (fSpan .lv 1 0 1)
  | 4 => some (fSpan .lv 1 0 1)
  | 5 => some (fSpan .st 0 0 2)
  | 6 => some (fSpan .st 3600 60 86400)
  | 7 => some (fSpan .st 10 1 60)
  | 8 => some (fSpan .lv (-500) (-700) (-300))
  | 9 => some (fSpan .lv 5 1 60)
  | 10 => some (fSpan .lv 1 0 1)
  | 11 => some (fSpan .lv 0 0 1)
  | 12 => some (fSpan .lv 0 0 1)
  | 13 => some (fSpan .st 6 3 30)
  | 14 => some (fSpan .st 25 5 40)
  | 15 => some (fSpan .st 2 1 10)
  | 16 => some (fSpan .st 60 10 600)
  | _ => none

/-- The fields of a port (R292). -/
def field0C : Nat → Option Field
  | 0 => some (fSpan .lv 0 0 1)
  | 1 => some (fList .lk 48000 [32000, 44100, 48000, 96000])
  | 2 => some (fSpan .lv 0 0 1)
  | 3 => some (fSpan .lv 0 0 1)
  | 4 => some (fSpan .lv 0 0 1)
  | 5 => some (fSpan .lk 0 0 1)
  | 6 => some (fSpan .lk 0 0 1)
  | 7 => some (fSpan .lk 1 0 1)
  | 8 => some (fSpan .lk 1 0 1)
  | 9 => some (fSpan .lv 0 0 1)
  | 11 => some (fList .lv 0 [0, 12288000, 24576000, 11289600, 22579200])
  | 12 => some (fSpan .lv 0 0 1)
  | _ => none

/-- The fields of a comparison (R293). -/
def field0D : Nat → Option Field
  | 2 => some (fSpan .st 5 1 10)
  | 3 => some (fSpan .lv 1 1 60)
  | 4 => some (fSpan .st 10 5 60)
  | 5 => some (fSpan .st 25 5 40)
  | 6 => some (fSpan .st 5 1 60)
  | _ => none

/-- The field of an FID: block code in the high byte, row position in the low byte (R331). -/
def fieldOf (fid : Nat) : Option Field :=
  match fid / 256 with
  | 0x01 => field01 (fid % 256)
  | 0x02 => field02 (fid % 256)
  | 0x03 => field03 (fid % 256)
  | 0x04 => field04 (fid % 256)
  | 0x06 => field06 (fid % 256)
  | 0x07 => field07 (fid % 256)
  | 0x08 => field08 (fid % 256)
  | 0x09 => field09 (fid % 256)
  | 0x0A => field0A (fid % 256)
  | 0x0B => field0B (fid % 256)
  | 0x0C => field0C (fid % 256)
  | 0x0D => field0D (fid % 256)
  | _ => none

/-- XO_SLOPE, whose range has both signs (R75). -/
def isSlope (fid : Nat) : Bool := fid == 0x0103

/-- Whether a value lies in a field's range (R332, R333). -/
def inRange (fid : Nat) (f : Field) (v : Int) : Bool :=
  let v := if isSlope fid then (v.natAbs : Int) else v
  f.more.contains v || (decide (f.lo ≤ v) && decide (v ≤ f.hi) && (v - f.lo) % f.step == 0)

/-- The value of a field of a set: as set, or the reset value. -/
def fget (set : FieldSet) (fid : Nat) : Int :=
  match set.find? (·.1 == fid) with
  | some x => x.2
  | none => match fieldOf fid with
    | some f => f.reset
    | none => 0

/-- A field given a value. -/
def fset (set : FieldSet) (fid : Nat) (v : Int) : FieldSet := set.filter (·.1 != fid) ++ [(fid, v)]

/-- Every field of `new` given its value (the later wins, R12). -/
def fmerge (set new : FieldSet) : FieldSet := new.foldl (fun acc x => fset acc x.1 x.2) set

/-- Whether a set gives a field a value. -/
def fhas (set : FieldSet) (fid : Nat) : Bool := set.any (·.1 == fid)

/-- The class of an FID. -/
def clsOf (fid : Nat) : FClass :=
  match fieldOf fid with
  | some f => f.cls
  | none => .lv

def ofClass (c : FClass) (l : FieldSet) : FieldSet := l.filter fun x => clsOf x.1 == c

/-- The value of item `i` (R330): a 48-bit value, two's complement where the field's range has negative values. -/
def itemVal (a : List Byte) (i : Nat) : Int :=
  let fid := le a (8 + 8 * i) 2
  let v := le a (10 + 8 * i) 6
  match fieldOf fid with
  | some f => if decide (f.lo < 0) || isSlope fid then signed 48 v else v
  | none => v

/-- The items of a command (R330). -/
def items (a : List Byte) : FieldSet := (List.range (itemCount a)).map fun i => (le a (8 + 8 * i) 2, itemVal a i)

/-- An offence of check 4: the offset within the parameters and the detail (R311). -/
abbrev Offence := Nat × Detail

/-- The item offences (R333): an FID not accepted or repeated, a value out of range. -/
def itemOffences (accept : Nat → Bool) (ok : Nat → Int → Bool) (a : List Byte) : List Offence :=
  let l := items a
  (List.range l.length).filterMap fun i =>
    match l[i]? with
    | some (fid, v) =>
      let bad := match fieldOf fid with
        | some f => !accept fid || (l.take i).any (·.1 == fid) || !inRange fid f v || !ok fid v
        | none => true
      if bad then some (8 + 8 * i, .outOfRange) else none
    | none => none

/-! ### The description of a command (R306, R307, R328, R329, R353, R468, R528) -/

/-- What checks 1 to 5 of R306 need of a command: its opcode; marked OUT; parameters only by pointer; admin queue only; accepted on the
MPORT; accepted there on a SECONDARY; the targets that exist and those of the secondary (R473), with what depends on the parameters; the
extent E; the byte ranges its row names (position, length) and the bits allowed in a byte (position, mask); and its range offences. -/
structure Spec where
  op : Nat
  out : Bool
  ptrOnly : List Byte → Bool
  admin : List Byte → Bool
  mport : List Byte → Bool
  secondary : List Byte → Bool
  target : State → Nat → Bool
  targetFor : List Byte → State → Nat → Bool
  remote : Nat → Bool
  remoteFor : List Byte → Nat → Bool
  extent : List Byte → Nat
  used : List Byte → List (Nat × Nat)
  bits : List (Nat × Nat)
  range : State → Entry → List Byte → List Offence

/-- A target that must be 0. -/
def tZero (_ : State) (t : Nat) : Bool := t == 0
/-- Targets below a number. -/
def tBelow (n : Nat) (_ : State) (t : Nat) : Bool := decide (t < n)
/-- Whether this unit is the PRIMARY of a pair: it addresses the secondary's objects too (R473). -/
def isPrimary (s : State) : Bool := s.pair.role == 1
/-- A context: CTX0 to CTX63, and CTX64 to CTX127 on a PRIMARY (R157, R473). -/
def tContext (s : State) (t : Nat) : Bool := decide (t < 64) || (decide (t < 128) && isPrimary s)
/-- An input, carver, tuner or port: below `n`, and 0x0100 above it for the secondary's (R473). -/
def tUnit (n : Nat) (s : State) (t : Nat) : Bool := decide (t < n) || (isPrimary s && decide (0x100 ≤ t) && decide (t < 0x100 + n))
/-- An audio service: SVC0 to SVC95, and SVC96 to SVC191 on a PRIMARY (R473). -/
def tService (s : State) (t : Nat) : Bool := decide (t < 96) || (isPrimary s && decide (t < 192))

/-- A command with parameters inline or by pointer. -/
def plain (op ext : Nat) (target : State → Nat → Bool) (used : List (Nat × Nat)) : Spec :=
  { op := op, out := false, ptrOnly := fun _ => false, admin := fun _ => false, mport := fun _ => true, secondary := fun _ => false,
    target := target, targetFor := fun _ _ _ => true, remote := fun _ => false, remoteFor := fun _ _ => false, extent := fun _ => ext,
    used := fun _ => used, bits := [], range := fun _ _ _ => [] }

/-- A command marked OUT (R329): OUT_ADDR and OUT_LEN in bytes 0 to 11 of the parameters. -/
def outCmd (op ext : Nat) (target : State → Nat → Bool) (used : List (Nat × Nat)) : Spec :=
  { plain op (max 12 ext) target ((0, 12) :: used) with out := true }

/-- An item command (R330) with the FIDs it accepts; `head` are the header bytes it uses beside CTRL, COUNT and ITEMS. -/
def itemCmd (op : Nat) (target : State → Nat → Bool) (head : List (Nat × Nat)) (accept : Nat → Bool) : Spec :=
  { plain op 0 target [] with
    extent := fun a => 8 + 8 * itemCount a
    used := fun a => [(0, 1), (2, 1), (8, 8 * itemCount a)] ++ head
    bits := [(0, 1)]
    range := fun _ _ a => itemOffences accept (fun _ _ => true) a }

/-- A byte given as a set of allowed values. -/
def oneOf (a : List Byte) (off : Nat) (l : List Nat) : List Offence := if l.contains (le a off 1) then [] else [(off, .outOfRange)]

/-- A condition whose failure offends at a byte. -/
def require (ok : Bool) (off : Nat) : List Offence := if ok then [] else [(off, .outOfRange)]

/-- Whether a byte of the parameters is named by the command's row. -/
def named (used : List (Nat × Nat)) (i : Nat) : Bool := used.any fun u => decide (u.1 ≤ i) && decide (i < u.1 + u.2)

/-- The first non-zero byte that the row does not name (R10, R528). -/
def firstReserved (used : List (Nat × Nat)) (a : List Byte) : List Offence :=
  match (List.range a.length).find? (fun i => !named used i && a.getD i 0 != 0) with
  | some i => [(i, .reservedNonzero)]
  | none => []

/-- Bytes with bits that the row does not name. -/
def badBits (bits : List (Nat × Nat)) (a : List Byte) : List Offence :=
  bits.filterMap fun b => if le a b.1 1 ||| b.2 = b.2 then none else some (b.1, .reservedNonzero)

/-- The offset of the first non-zero byte of a list, from a base. -/
def firstNonzero (base : Nat) (l : List Byte) : List Offence :=
  match l.findIdx? (· != 0) with
  | some i => [(base + i, .reservedNonzero)]
  | none => []

/-- The offence with the smallest offset (R311). -/
def firstOffence (l : List Offence) : Option Offence :=
  l.foldl (fun best x => match best with
    | some b => if x.1 < b.1 then some x else some b
    | none => some x) none

/-- The offences of an output area (R329, R353). -/
def outOffences (e : Entry) : List Offence :=
  if e.src = .mport then
    (if le e.param 0 8 = 0 then [] else [(16, .outOfRange)]) ++ (if 8 ≤ outLen e ∧ outLen e ≤ 216 then [] else [(24, .outOfRange)])
  else
    (if le e.param 0 8 % 8 = 0 then [] else [(16, .outOfRange)]) ++ (if 8 ≤ outLen e ∧ outLen e ≤ 1048576 then [] else [(24, .outOfRange)])

end Sys2Proof.Machine
end

