-- ==== Sys2Proof/Machine/HostCmd.lean ====
section
/-!
DEFINITION. HostCmd.lean: how every host command is fetched, checked, held and begun (R302, R305 to R310, R353, R468, R473),
written once for all commands.
-/
namespace Sys2Proof.Machine

/-! ### What a running Saggar job reads (R86, R96, R115, R153, R166) -/

/-- The converter input a carver takes: its SOURCE WBA or WBB (R92). -/
def carverInput (c : Carver) : Option (Fin 2) :=
  match fget c.cfg 0x0300 with
  | 1 => some 0
  | 2 => some 1
  | _ => none

/-- The paths that running jobs read. -/
def jobPaths (s : State) : List (Fin 64) := (s.sg.jobs.filter (·.running)).filterMap (·.path)
def jobReadsPath (p : Fin 64) (s : State) : Bool := (jobPaths s).contains p
def jobReadsSource (src : Nat) (s : State) : Bool := (jobPaths s).any fun p => s.cx.paths[p].source == src
def jobReadsCarver (c : Fin 8) (s : State) : Bool := jobReadsSource c.val s
def jobReadsTuner (n : Fin 4) (s : State) : Bool := jobReadsSource (8 + n.val) s
def jobReadsInput (i : Fin 2) (s : State) : Bool :=
  (jobPaths s).any fun p => match idx 8 s.cx.paths[p].source with
    | some c => carverInput s.rf.carvers[c] == some i
    | none => false

/-! ### Waiting (R309, and the orders that the chapters give) -/

/-- The commands held before a command, in submission order (R308). -/
def earlier (h : Held) (s : State) : List Held := s.host.held.takeWhile (·.id != h.id)

/-- The contexts that a lifecycle command concerns (R160). -/
def lifecycleOf (h : Held) : List Nat :=
  if h.op = 0x0409 then (List.range (le (Entry.args h.entry) 8 1)).map fun i => le (Entry.args h.entry) (16 + i) 1
  else if h.op = 0x0400 ∨ h.op = 0x0401 ∨ h.op = 0x0402 ∨ h.op = 0x040A then [h.entry.target.toNat] else []

/-- Whether an earlier command must end first: lifecycle commands of one context, deferred ones too (R160); of those not deferred the
state, tune and probe commands of one tuner (R110), TIME_PLL_CONFIG and TIME_PHASE_STEP each among their own kind (R64, R74), and
increments of one counter (R408). -/
def follows (h x : Held) : Bool :=
  (lifecycleOf h).any (lifecycleOf x).contains
    || (!x.deferred && (([0x0302, 0x0303, 0x0306].contains h.op && [0x0302, 0x0303, 0x0306].contains x.op && h.entry.target == x.entry.target)
      || ([0x0203, 0x0204].contains h.op && x.op == h.op)
      || (h.op == 0x0805 && x.op == 0x0805 && h.entry.target == x.entry.target)))

/-- Whether a command that was deferred and now runs, or a probe, occupies the tuner that a command names (R110, R121). -/
def tunerBusy (h : Held) (s : State) : Bool :=
  match idx 4 h.entry.target.toNat with
  | some n =>
    let t := s.rf.tuners[n]
    t.targetCmd.isSome || t.retest.isSome || t.probe.isSome || (match t.change with | some c => c.cmd.isSome | none => false)
  | none => false

/-- Whether a command of the context layer may take a tuner as its source: it names that tuner, or leaves the choice to the device. -/
def mayTake (h : Held) (n : Fin 4) : Bool :=
  let l := items (Entry.args h.entry)
  let v := (if h.op = 0x040A then fget l 0x0805 + 2 else fget l 0x0802).toNat
  v == 0 || v == 2 || v == 11 + n.val

/-- Whether a running probe holds a command back (R121): a table command of its tuner, the retune of a context that the tuner feeds, or a
command that may take the tuner as a source. -/
def probing (h : Held) (s : State) : Bool :=
  let runs (n : Fin 4) : Bool := s.rf.tuners[n].st == .probe
  let source := [0x0400, 0x0401, 0x0406, 0x040A].contains h.op && (List.finRange 4).any fun n => runs n && mayTake h n
  if h.op = 0x0304 ∨ h.op = 0x0305 then (match idx 4 h.entry.target.toNat with | some n => runs n | none => false)
  else if h.op = 0x0401 ∧ !source then
    match idx 64 h.entry.target.toNat with
    | some c => (s.cx.ctxs[c].primary.toList ++ s.cx.ctxs[c].branch.toList).any fun p =>
        decide (8 ≤ s.cx.paths[p].source) && (match idx 4 (s.cx.paths[p].source - 8) with | some n => runs n | none => false)
    | none => false
  else source

/-- Whether the operational log has no room for another record and a gap record before it (R415). -/
def logFull (s : State) : Bool :=
  !s.cry.waiting.isEmpty || decide (ringCap s < (s.cry.log.countP fun x => x.untagged) + 2)

/-- Whether a command is kept for a step of its own, such as the frame boundary at which its values apply. -/
def parked (h : Held) : Bool := !h.begun && !h.aux.isEmpty

/-- Whether a command kept for its block's frame boundary has no row for it: RF_WB_CONFIG, RF_PT_TUNE and RF_SLIP_CONFIG, whose boundaries
come within 21 µs, apply in a step of their own on an empty queue. DESIGN CHOICE (log entry 63). -/
def atNextBoundary (h : Held) : Bool := parked h && [0x0300, 0x0303, 0x0307].contains h.op

/-- Whether the deadline of a command that has not taken effect has passed: no boundary applies it any more, and it ends with
DEADLINE_MISSED (R310). -/
def late (h : Held) (s : State) : Bool := !h.begun && Entry.hasDeadline h.entry && decide (h.entry.deadline.toNat < (now s).toNat)

/-- The commands of a held command's queue whose completion waits for a slot: they have not completed (R302). -/
def unwrittenOf (h : Held) (s : State) : List Unwritten :=
  match h.src with
  | .queue q => s.host.pairs[q].unwritten
  | .mport => []

/-- Whether a command must wait before it begins: it is parked for a step of its own; a fence (R309); an earlier command that it follows;
a reservation of the shared pool before the pool is initialised (R493); a host mark that the log has no room for (R415); or a DMA while
the device may send nothing (R297). -/
def mustWait (h : Held) (s : State) : Bool :=
  let es := earlier h s
  (parked h && !atNextBoundary h)
    || es.any (fun x => x.src == h.src && !x.deferred && (Entry.fence h.entry || Entry.fence x.entry))
    || (unwrittenOf h s).any (fun u => decide (u.id < h.id) && (Entry.fence h.entry || u.fence))
    || es.any (follows h)
    || ((h.op == 0x0700 || h.op == 0x0703) && !s.mem.poolReady)
    || (h.op == 0x0902 && logFull s)
    || (h.op == 0x0F00 && le (Entry.args h.entry) 0 1 == 1 && !canSend s)
    || ([0x0302, 0x0303, 0x0306].contains h.op && tunerBusy h s)
    || probing h s

/-- Keeps a command for a step of its own, not yet begun; `l` is what that step needs. -/
def park (h : Held) (l : List Int) : State → State := modHeld h.id fun x => { x with aux := 1 :: l }

/-! ### Fetching (R297, R298, R302, R303) -/

/-- Whether queue `q` has an entry that its own state lets the device fetch. -/
def ready (q : Fin 32) (s : State) : Bool :=
  let p := s.host.pairs[q]
  isRunning s && !s.power.entering && canSend s && p.en && p.enabled && !p.draining && p.err == 0 && p.sqHead != p.sqTail
    && decide (heldOf (.queue q) s + (p.cqSize - 1 - cqFree p) < p.cqSize - 1) && decide (heldAll s < 1024)

/-- Whether the MPORT has an entry that the device may fetch. -/
def mportReady (s : State) : Bool := !s.mp.received.isEmpty && isRunning s && !s.power.entering && decide (heldAll s < 1024)

/-- Of the queues of one PRIO level that may be fetched, the one whose turn it is: the one fetched last while it has taken fewer than
8 entries of its turn, else the next in round robin (R302). -/
def levelNext (k : Fin 4) (s : State) : Option (Fin 32) :=
  let l := (List.finRange 32).filter fun q => q.val != 0 && s.host.pairs[q].prio.toNat == k.val && ready q s
  let t := s.host.turns[k]
  ((if t.2 < 8 then l.find? fun q => q.val == t.1 else none).or (l.find? fun q => decide (t.1 < q.val))).or l.head?

/-- The source that the device fetches from next: the admin queue and the MPORT in turn, ahead of every other pair; then descending
PRIO, and within a level in round robin (R302, R355). -/
def nextSource (s : State) : Option Source :=
  if ready 0 s && mportReady s then some (if s.host.mportTurn then .mport else .queue 0)
  else if ready 0 s then some (.queue 0)
  else if mportReady s then some .mport
  else ([3, 2, 1, 0].findSome? fun k => levelNext k s).map .queue

/-- Whether the device fetches from a source now. -/
def fetchable (src : Source) (s : State) : Bool := nextSource s == some src

/-- Notes that an entry of a source was taken: of the admin queue and the MPORT the other's turn is next; a queue has taken one more of its
turn, or begins one (R302, R355). DESIGN CHOICE (log entry 13): an empty queue keeps its turn until another of its level is fetched. -/
def takeTurn (src : Source) (s : State) : State :=
  match src with
  | .mport => modHost (fun h => { h with mportTurn := false }) s
  | .queue q =>
    if q.val = 0 then modHost (fun h => { h with mportTurn := true }) s
    else modHost (fun h => { h with turns := upd h.turns h.pairs[q].prio.toFin fun t =>
      if t.1 = q.val ∧ t.2 < 8 then (q.val, t.2 + 1) else (q.val, 1) }) s

/-- Takes the next entry of a source: SQ_HEAD moves on, the slot is freed, the command is posted (R29, R302). An MPORT entry was
posted when it was received (R355). None when the device fetches no such entry from this source now. -/
def fetch (op : Nat) (e : Entry) (s : State) : Option State :=
  if fetchable e.src s then
    match e.src with
    | .queue q => some (settle 5 1 (post 0 1 (modPairq q (fun p => { p with sqHead := (p.sqHead + 1) % p.sqSize }) (takeTurn e.src s))))
    | .mport =>
      match s.mp.received with
      | b :: rest => if b == entryBytes op e then some (modMp (fun m => { m with received := rest }) (takeTurn e.src s)) else none
      | [] => none
  else none

/-- Makes a fetched entry a held command. -/
def hold (op : Nat) (cmd : Instr) (e : Entry) (s : State) : Held × State :=
  let h : Held :=
    { id := s.host.nextId, src := e.src, tag := e.tag, op := op, entry := e, cmd := cmd, begun := false, deferred := false,
      aux := [] }
  (h, modHost (fun x => { x with held := x.held ++ [h], nextId := x.nextId + 1 }) s)

/-! ### The checks of R306 -/

/-- Whether a completion with a tag waits for a slot of a queue, so that its command is still held (R302, R305). -/
def tagWaits (src : Source) (tag : BitVec 16) (s : State) : Bool :=
  match src with
  | .queue q => s.host.pairs[q].wait.any fun e => !e.event && e.tag == tag
  | .mport => false

/-- Whether a tag is 0xFFFF or already held on its queue (R305). -/
def badTag (h : Held) (s : State) : Bool :=
  h.tag == 0xFFFF || tagWaits h.src h.tag s || (earlier h s).any fun x => x.src == h.src && x.tag == h.tag && !x.deferred

/-- Check 1: the opcode is allowed on this queue (R307, R353). -/
def check1 (c : Spec) (e : Entry) : Option (Status × Nat × Detail) :=
  match e.src with
  | .queue q => if c.admin (Entry.args e) && q.val != 0 then some (.errOpcode, 0, .adminOnly) else none
  | .mport => if c.mport e.param then none else some (.errOpcode, 0, .none)

/-- Check 2: PLEN and the pointer length (R304, R329, R353, R528). -/
def check2 (c : Spec) (e : Entry) : Option (Status × Nat × Detail) :=
  if Entry.ptr e then
    if c.out || e.src == .mport then some (.errLength, 4, .none)
    else if e.plen != 0 then some (.errLength, 5, .none)
    else if Entry.len e = 0 || 1048576 < Entry.len e || Entry.len e < c.extent (Entry.args e) then some (.errLength, 24, .none)
    else none
  else if c.ptrOnly (Entry.args e) then some (.errLength, 4, .none)
  else if 48 < e.plen.toNat || e.plen.toNat < c.extent (Entry.args e) then some (.errLength, 5, .none)
  else none

/-- The offences of check 4 with their entry offsets (R10, R305, R311, R333, R528). -/
def offences (c : Spec) (h : Held) (s : State) : List Offence :=
  let e := h.entry
  let a := Entry.args e
  let at_ (l : List Offence) : List Offence := l.map fun x => (Entry.offset e x.1, x.2)
  (if badTag h s then [(2, .duplicateTag)] else [])
    ++ (if e.flags.toNat < 8 then [] else [(4, .reservedNonzero)])
    ++ (if Entry.hasDeadline e then [] else firstNonzero 8 (leBytes 8 (dtInt e.deadline)))
    ++ (if Entry.ptr e then firstNonzero 28 (e.param.drop 12) else [])
    ++ (if c.out then outOffences e else [])
    ++ at_ (firstReserved (c.used a) a) ++ at_ (badBits c.bits a) ++ at_ (c.range s e a)

/-- Whether a command names an object of the secondary (R473). -/
def isRemote (c : Spec) (e : Entry) : Bool := c.remote e.target.toNat || c.remoteFor (Entry.args e) e.target.toNat

/-- The first check of R306 that fails, of checks 1 to 5; then the rule of a SECONDARY (R468). -/
def failing (c : Spec) (h : Held) (s : State) : Option (Status × Nat × Detail) :=
  let e := h.entry
  match check1 c e with
  | some x => some x
  | none =>
    match check2 c e with
    | some x => some x
    | none =>
      if !c.target s e.target.toNat || !c.targetFor (Entry.args e) s e.target.toNat then some (.errTarget, 6, .none)
      else match firstOffence (offences c h s) with
        | some (off, d) => some (.errParam, off, d)
        | none =>
          if Entry.hasDeadline e && decide (e.deadline.toNat < (now s).toNat) then some (.deadlineMissed, 0xFFFF, .none)
          else if s.pair.role == 2 && e.src == .mport && !c.secondary (Entry.args e) then some (.errState, 0xFFFF, .none)
          else if isRemote c e && s.pair.mode == 2 then some (.errState, 0xFFFF, .none)
          else none

/-- The figures noted for a command that was sent over the link. -/
def sentAway : List Int := [-1, -1]

/-- Sends a command for one of the secondary's objects over the link (R473); it stays held until the peer ends it. -/
def forward (h : Held) (s : State) : State := note h sentAway (emit (.link 1 (entryBytes h.op h.entry)) s)

/-- The commands that the peer carries out. -/
def awayCmds (s : State) : List Held := s.host.held.filter fun h => h.begun && h.aux == sentAway

/-- Begins a held command: its deadline is judged once more (R310), then its own meaning runs. -/
def start (c : Spec) (body : Held → State → State) (h : Held) (s : State) : State :=
  if Entry.hasDeadline h.entry && decide (h.entry.deadline.toNat < (now s).toNat) then reject h .deadlineMissed s
  else if isRemote c h.entry then forward h s
  else body h s

/-- In SHIELD the primary sends the secondary every fetched entry before it acts on it (R476). -/
def shieldCopy (op : Nat) (e : Entry) (s : State) : State :=
  if s.pair.role = 1 && s.pair.mode == 2 then emit (.link 5 (entryBytes op e)) s else s

/-- Runs a host command: fetched, checked, then begun, or held while it must wait. A command that the model resumes was fetched and
checked before. An entry that the device cannot fetch now changes nothing but the time. -/
def hostCmd (cmd : Instr) (c : Spec) (body : Held → State → State) (e : Entry) (s : State) : State :=
  match s.host.resuming with
  | some id =>
    let s := modHost (fun x => { x with resuming := none }) s
    match findHeld id s with
    | some h => start c body h s
    | none => s
  | none =>
    let s := moment e.t s
    match fetch c.op e s with
    | none => s
    | some s =>
      let (h, s) := hold c.op cmd e (shieldCopy c.op e s)
      match failing c h s with
      | some (st, off, d) => fail h st off d s
      | none => if mustWait h s then s else start c body h s

/-- Whether a running job reads a path of a context. -/
def ctxRead (c : Nat) (s : State) : Bool :=
  match idx 64 c with
  | some c => (s.cx.ctxs[c].primary.toList ++ s.cx.ctxs[c].branch.toList).any fun p => jobReadsPath p s
  | none => false

/-- Whether a firing that needs the Slip is due and could run: activities 4 and 6, and 8 on a settled tuner (R452, R453). DESIGN CHOICE (log
entry 69): a host's Slip command has no class of its own, so of two users of a free Slip the one due earlier comes first (R455). -/
def slipDue (s : State) : Bool :=
  s.mnt.firings.any fun f =>
    [4, 6, 8].contains f.activity && !f.running && !s.mnt.paused
      && (f.requested || (decide (f.due.toNat ≤ (now s).toNat) && (match idx 9 f.activity with | some a => s.mnt.acts[a].enable | none => false)))
      && (f.activity != 8 || (match idx 4 f.obj with | some n => s.rf.tuners[n].st == .rx && s.rf.tuners[n].change.isNone | none => false))
      && (f.activity != 6 || s.sg.st == .ready || s.sg.st == .measuring)

/-- Whether what deferred a command has ended: a Saggar job no longer reads what it names (R86, R103, R115, R153, R166), or the Slip is
free (R125). Carver commits have their own step (R96). -/
def resumes (h : Held) (s : State) : Bool :=
  let t := h.entry.target.toNat
  if h.op = 0x0307 then (s.rf.slip.owner == .nobody || s.rf.slip.owner == .host) && !slipDue s
  else if h.op = 0x0300 then (match idx 2 t with | some i => !jobReadsInput i s | none => false)
  else if h.op = 0x0302 ∨ h.op = 0x0303 ∨ h.op = 0x0306 then (match idx 4 t with | some n => !jobReadsTuner n s | none => false)
  else if h.op = 0x0409 then !(lifecycleOf h).any fun c => ctxRead c s
  else if h.op = 0x0401 ∨ h.op = 0x0402 ∨ h.op = 0x0406 then !ctxRead t s
  else false

/-- The held command that begins next on an empty queue: the first that waits, or was deferred, and need not wait any longer. None begins but
in RUNNING, nor once Dormant is being entered (R298, R325). -/
def nextHeld (s : State) : Option Held :=
  if isRunning s && !s.power.entering then s.host.held.find? fun h => !h.begun && (!h.deferred || resumes h s) && !mustWait h s else none

/-- The state in which a held command that waited begins (log entry 3). -/
def resumeHeld (h : Held) : State → State := modHost fun x => { x with resuming := some h.id }

/-! ### Values that wait for a frame boundary (R11, R12, R310, R330) -/

/-- The commands of an opcode and target that wait for their boundary, in submission order. -/
def waiting (op target : Nat) (s : State) : List Held :=
  s.host.held.filter fun h => parked h && !late h s && h.op == op && h.entry.target.toNat == target

/-- Those that apply at a boundary now: none that is still deferred. -/
def waitingNow (op target : Nat) (s : State) : List Held := (waiting op target s).filter fun h => !h.deferred || resumes h s

/-- The items of a held command. -/
def itemsOf (h : Held) : FieldSet := items (Entry.args h.entry)

/-- The items that commands bring together to one boundary: of a field written more than once the last value (R12). -/
def lastValues (hs : List Held) : FieldSet := hs.foldl (fun l h => fmerge l (itemsOf h)) []

/-- Whether a held item command carries COMMIT. -/
def commits (h : Held) : Bool := itemCommit (Entry.args h.entry)

/-- The active and the shadow set after a command's values have taken effect: its LV items, and with COMMIT the whole shadow set
with its ST items (R11, R15). -/
def applyItems (h : Held) (sets : FieldSet × FieldSet) : FieldSet × FieldSet :=
  let l := itemsOf h
  let live := fmerge sets.1 (ofClass .lv l ++ ofClass .lk l)
  if commits h then (fmerge live (fmerge sets.2 (ofClass .st l)), []) else (live, sets.2)

/-- Completes a command whose items are all staged: its result gives the DT of acceptance (R330). -/
def finishStaged (h : Held) : State → State := finishC h

/-- Ends every command of a list with result C. -/
def finishAllC (hs : List Held) (s : State) : State := hs.foldl (fun s h => finishC h s) s

end Sys2Proof.Machine
end

