-- ==== Sys2Proof/Machine/Kiln.lean ====
section
/-!
DEFINITION. Kiln.lean: what several families share about the Kiln schedule: the firings, their end without a result of their own,
and the holder of the Slip (R125, R453 to R457).
-/
namespace Sys2Proof.Machine

/-! ### Input suitability and quality (R436, R437) -/

/-- Tests (a), (c) and (d) of a tuner's block: no CLIP, at most half the power in three bins, at most a fifth about DC. -/
def tunerBlockOk (b : CalBlock) : Bool := !b.clip && decide (2 * b.top ≤ b.power) && decide (5 * b.carrier ≤ b.power)

/-- Test (e), for the image: |E x²| is at most a quarter of E|x|². -/
def circular (b : CalBlock) : Bool := decide (0 < b.ac) && decide (4 * b.square ≤ b.ac)

/-- The tests of an ADC block. -/
def adcBlockOk (b : CalBlock) : Bool :=
  !b.clip && decide (-4000 ≤ b.rms) && decide (2 * b.top ≤ b.power) && decide (2 * b.carrier ≤ b.power)

/-- Test (b): at least 2048 samples of the span lie above 4 times the noise floor. -/
def strongEnough (l : List CalBlock) : Bool := decide (2048 ≤ l.foldl (fun (n : Nat) b => n + b.strong) 0)

/-- The quality figure of estimates with half the widths of their absolute ranges: floor of 100·(1 − u/h), the smallest of several (R437). -/
def qualityFigure (l : List (Nat × Estimate)) : Nat :=
  l.foldl (fun (q : Nat) x => min q (100 * (1000 * x.1 - x.2.unc) / (1000 * x.1))) 100

/-! ### Firings -/

/-- The firing of an activity on an object. -/
def findFiring (a o : Nat) (s : State) : Option Firing := s.mnt.firings.find? fun f => f.activity == a && f.obj == o

def modFiring (a o : Nat) (f : Firing → Firing) : State → State :=
  modMnt fun m => { m with firings := m.firings.map fun x => if x.activity = a ∧ x.obj = o then f x else x }

/-- Whether a firing of an activity runs on an object. -/
def firingRuns (a o : Nat) (s : State) : Bool := match findFiring a o s with | some f => f.running | none => false

/-- Whether a firing runs on a tuner (R454). -/
def tunerFires (n : Fin 4) (s : State) : Bool := firingRuns 2 n.val s || firingRuns 8 n.val s

/-- The period of an activity in 2^-32 s: its PERIOD, or with PLAN what the last plan set (R450, R452). -/
def periodOf (x : Activity) : Nat := (if x.period = 0 then x.planPeriod else x.period) * 2 ^ 32

/-- Restarts the period of an activity on an object from an instant (R440, R453, R457). -/
def restartPeriod (a : Fin 9) (o : Nat) (t : DT) (s : State) : State :=
  modFiring a.val o (fun f => { f with last := t, due := dtAdd t (periodOf s.mnt.acts[a]) }) s

/-- CAL_RESULT (R344, R439). -/
def calResult (a o : Nat) (st : BitVec 16) (q flags : Nat) (value : Int) (s : State) : State :=
  raise .calResult [(16, 1, a), (17, 1, o), (18, 2, st.toNat), (20, 1, q), (21, 1, flags), (22, 2, value), (24, 8, dtInt (now s))] s

/-- Ends the MNT_CALIBRATE commands joined to a firing; those deferred have CAL_RESULT in place of DEFERRED_DONE (R529). -/
def endJoined (ids : List Nat) (st : Status) (q : Nat) (s : State) : State :=
  ids.foldl (fun s id => match findHeld id s with
    | some h =>
      if h.deferred then dropHeld id s else finish h st [(18, 1, q), (24, 8, dtInt (now s))] s
    | none => s) s

/-- The Slip is released by its holder (R125): to the Saggar where it waits, else to the host's operation. A CW emission that a warm start
stopped (R129), or one on INJ while INJ_EN is low (R123), does not go on. -/
def SlipSt.release (inj : Bool) (x : SlipSt) : SlipSt :=
  let mode := fget x.cfg 0x0605
  if x.sgWaiting then { x with owner := .saggar, sgWaiting := false, emitting := false }
  else if mode = 0 || (mode = 1 && (x.stopped || (fget x.cfg 0x0606 == 0 && !inj))) then { x with owner := .nobody, emitting := false }
  else { x with owner := .host, emitting := mode == 1 }

/-- Releases the Slip if a firing of an activity holds it. -/
def freeFiringSlip (a : Nat) (s : State) : State := modSlip (fun x => if x.owner = .firing a then x.release s.power.injEn else x) s

/-- A running firing is abandoned with the values in force kept (R456): it is due again at once; `tell` gives the CAL_RESULT and the
end of the commands joined to it, `none` the rule of a failed tuner. -/
def abandonFiring (a o : Nat) (tell : Option Status) (s : State) : State :=
  match findFiring a o s with
  | some f =>
    if !f.running then s
    else
      let s := freeFiringSlip a (modFiring a o (fun f => { f with running := false, storing := none, due := now s, cmds := [], requested := false }) s)
      match tell with
      | some st => endJoined f.cmds st 0 (calResult a o (statusCode st) 0 0 0 s)
      | none => endJoined f.cmds .hwFault 0 s
  | none => s

/-- A tuner's running firings are abandoned (R456). -/
def abandonTunerFirings (n : Fin 4) (tell : Option Status) (s : State) : State :=
  abandonFiring 8 n.val tell (abandonFiring 2 n.val tell s)

end Sys2Proof.Machine
end

