-- ==== Sys2Proof/Machine/Paths.lean ====
section
/-!
DEFINITION. Paths.lean: what several families share about signals: the frequency plans of carvers, tuners and paths (R90 to R92,
R100 to R104, R132 to R136, R144), the class-6 count of a path with its gaps, holds and resets (R145 to R147, R165), Wheel
placement (R167, R168, R189, R249), and the choice of sources, branches and failover (R161, R172 to R175).
-/
namespace Sys2Proof.Machine

/-! ### Frequencies, in units of 2^-16 Hz -/

/-- The realised centre of a carver with NCO word `w` (R90): 614.4 MHz · w / 2^32. -/
def carverCentre (w : Int) : Int := w * 9375

/-- Half the usable band of a carver in hertz, by DECIM (R90). -/
def carverHalf (decim : Int) : Nat :=
  match decim with
  | 8 => 30720000
  | 16 => 15360000
  | 32 => 7680000
  | _ => 3840000

/-- The output rate of a carver in hertz (R90). -/
def carverRate (decim : Int) : Nat := 614400000 / decim.toNat

/-- Whether a carver with a word and DECIM covers a band of `half` hertz about `freq` (R90, R132, R161). -/
def bandCovers (w decim : Int) (freq half : Nat) : Bool :=
  decide (((freq : Int) * 65536 - carverCentre w).natAbs + half * 65536 ≤ carverHalf decim * 65536)

/-- The comparison frequency of a tuner's synthesiser in hertz (R104): REF_MULT 0 ×1, 1 ×2, 2 ÷2. -/
def pfd (mult : Nat) : Nat :=
  match mult with
  | 0 => 1600000
  | 1 => 3200000
  | _ => 800000

/-- The local oscillator of a plan in hertz (R104). -/
def planLo (p : Plan) : Nat := p.n * pfd p.mult / 2 ^ p.dlog

/-- The VCO frequency of a plan in hertz (R104). -/
def planVco (p : Plan) : Nat := p.n * pfd p.mult

/-- The binary logarithm of D that places the VCO in range for an LO (R104). -/
def planD (lo : Nat) : Nat :=
  ([1, 2, 3, 4, 5, 6, 7].find? fun k => decide (3200000000 ≤ lo * 2 ^ k) && decide (lo * 2 ^ k < 6400000000)).getD 7

/-- Whether N keeps the VCO in range and |f_s| from 1.2 to 2.8 MHz on its side, at a comparison frequency and 2^d (R101, R104). -/
def planOk (freq : Nat) (high : Bool) (d f n : Nat) : Bool :=
  let off : Int := (freq : Int) * 2 ^ d - (n * f : Nat)
  let mag := if high then -off else off
  decide (3200000000 ≤ n * f) && decide (n * f < 6400000000) && decide (1200000 * 2 ^ d ≤ mag) && decide (mag ≤ 2800000 * 2 ^ d)

/-- The N whose VCO frequency is nearest to the required one, of those allowed; of two equally near the lower (R104). None is allowed where
the VCO would have to leave its range. -/
def planN (freq : Nat) (high : Bool) (d vco f : Nat) : Option Nat :=
  let far (n : Nat) : Nat := ((n * f : Nat) - (vco : Int)).natAbs
  ((List.range 8).map fun i => vco / f + i - 3).foldl (fun (best : Option Nat) n =>
    if !planOk freq high d f n then best
    else match best with
      | some b => if far n < far b then some n else some b
      | none => some n) none

/-- The synthesiser plan for a frequency, SIDE (true HIGH), IF_TARGET in kHz and REF_MULT (R101, R104). DESIGN CHOICE (log entry 25): where the
D of the required LO has no allowed N, at an end of the VCO range, the first D with one is taken. -/
def tunerPlan (freq : Nat) (high : Bool) (ifKhz mult : Nat) : Plan :=
  let lo := if high then freq + ifKhz * 1000 else freq - ifKhz * 1000
  let d := planD lo
  let try_ (k : Nat) : Option (Nat × Nat) := (planN freq high k (lo * 2 ^ k) (pfd mult)).map fun n => (k, n)
  let r := ((d :: [1, 2, 3, 4, 5, 6, 7]).findSome? try_).getD (d, lo * 2 ^ d / pfd mult)
  { n := r.2, dlog := r.1, mult := mult }

/-- The tuner's NCO word (R104): round(|f_s| · 2^32 / 24.576 MHz). -/
def tunerWord (freq : Nat) (p : Plan) : Nat := (roundDiv ((((freq : Int) - planLo p).natAbs : Int) * 2 ^ 32) 24576000).toNat

/-- f_s as realised from the NCO word, signed (R100, R104). -/
def tunerIf (freq : Nat) (p : Plan) : Int := (if planLo p ≤ freq then 1 else -1) * ((tunerWord freq p : Int) * 375)

/-! ### Standards (R134, R159, R161, R162, R186, R187) -/

/-- The output rate of a path by standard (R134). -/
def outRate : Standard → Nat
  | .am => 32000
  | .fm => 256000
  | .dab => 2048000
  | .drm => 48000
  | .drmPlus => 192000

/-- Half the occupied band in hertz (R161, R186); AM's is AM_BW, in 100 Hz. -/
def halfBand (std : Standard) (cfg : FieldSet) : Nat :=
  match std with
  | .am => (fget cfg 0x0808).toNat * 100
  | .fm => 100000
  | .dab => 768000
  | .drm => 15000
  | .drmPlus => 50000

/-- The FREQ range of a standard (R162, R186). -/
def freqOk (std : Standard) (f : Int) : Bool :=
  match std with
  | .am => decide (100000 ≤ f ∧ f ≤ 30000000)
  | .fm => decide (64000000 ≤ f ∧ f ≤ 110000000)
  | .dab => decide (174000000 ≤ f ∧ f ≤ 240000000) || decide (1452000000 ≤ f ∧ f ≤ 1492000000)
  | .drm => decide (100000 ≤ f ∧ f ≤ 30000000)
  | .drmPlus => decide (30000000 ≤ f ∧ f ≤ 240000000)

/-- The context frame in path blocks (R159, R187). -/
def frameBlocks : Standard → Nat
  | .am => 1
  | .fm => 8
  | .dab => 64
  | .drm => 1
  | .drmPlus => 6

/-- The default FIR_LEN of a standard (R155). -/
def firDefault : Standard → Nat
  | .am => 63
  | .fm => 127
  | .dab => 127
  | .drm => 95
  | .drmPlus => 127

/-- The IF_BW values in kHz (R102). -/
def ifWidths : List Nat := [300, 600, 1200, 1800, 2400]

/-- The narrowest IF_BW that is at least 100 kHz wider than the occupied band (R102, R161). -/
def ifWidthFor (half : Nat) : Option Nat := ifWidths.find? fun w => decide (2 * half + 100000 ≤ w * 1000)

/-! ### The plan of a path (R133, R134, R136, R144) -/

/-- The pairs (M, H). -/
def planPairs : List (Nat × Nat) := (List.range 5).flatMap fun h => (List.range 16).map fun m => (m + 1, h)

/-- M and H for an input and an output rate (R134): the largest D with f_in / D ≥ 1.125 f_out, of equal D the larger H. -/
def pathPlan (fin fout : Nat) : Nat × Nat :=
  planPairs.foldl (fun (best : Nat × Nat) x =>
    let d := 2 * x.1 * 2 ^ x.2
    if 9 * fout * d ≤ 8 * fin && 2 * best.1 * 2 ^ best.2 ≤ d then x else best) (1, 0)

/-- The path group delay in half periods of f_in (R144): τ = tauHalf / (2 f_in). -/
def tauHalf (p : Path) : Nat :=
  5 * (p.m - 1) + 30 * p.m + 22 * p.m * (2 ^ (p.h + 1) - 2) + (p.firLen - 1 + 23) * 2 * p.m * 2 ^ p.h

/-- τ in ps; the spec names no rounding. -/
def tauPs (p : Path) : Int := ratio ((tauHalf p : Int) * 1000000000000) (2 * p.fin)

/-- The settling length L (R144). -/
def settling (p : Path) : Nat := ceilDiv (tauHalf p * p.fout) (2 * p.fin) + 24

/-- The bound of NCO_TRIM on a path (R133). -/
def trimBound (p : Path) : Nat := p.fout * 2 ^ 32 / (16 * p.fin)

/-- π in units of 2^-64. -/
def piFixed : Int := 57952155664616982739

/-- The sine of an angle between -π and π, both in units of 2^-64. -/
def sinFixed (x : Int) : Int :=
  ((List.range 20).foldl (fun (a : Int × Int) k =>
    (a.1 + a.2, -(a.2 * x / 2 ^ 64 * x / 2 ^ 64) / ((2 * k + 2) * (2 * k + 3) : Nat))) (0, x)).1

/-- The Kaiser window with β = 8.0 at tap `k` of `m` on each side, but for a factor common to all taps, in units of 2^-64 (R136):
I₀(8 √(1 - k²/m²)). -/
def kaiser (k m : Nat) : Nat :=
  ((List.range 48).foldl (fun (a : Nat × Nat) j =>
    (a.1 + a.2, a.2 * 16 * (m * m - k * k) / (m * m * (j + 1) * (j + 1)))) (0, 2 ^ 64)).1

/-- π times the ideal low-pass at `k` taps from its middle, in units of 2^-64 (R136): its cutoff lies midway between `half` and 0.4·f_out;
f_mid is fin / d. -/
def idealTap (half fout fin d k : Nat) : Int :=
  let n := (5 * half + 2 * fout) * d
  if k = 0 then 2 * piFixed * n / (10 * fin : Nat)
  else
    let r : Int := (n * k % (10 * fin) : Nat)
    let r := if 5 * fin < r then r - (10 * fin : Nat) else r
    sinFixed (2 * piFixed * r / (10 * fin : Nat)) / k

/-- The linear-phase low-pass of the window method, unity gain at zero frequency, in Q1.17 (R136). -/
def windowFilter (half fout fin d len : Nat) : List Int :=
  let m := (len - 1) / 2
  let w (i : Nat) : Int :=
    let k := if i ≤ m then m - i else i - m
    idealTap half fout fin d k * kaiser k m / 2 ^ 64
  let side := (List.range (m + 1)).map w
  let sum := 2 * side.foldl (· + ·) 0 - side.getLastD 0
  let taps := side.map fun v => min 131071 (ratio (v * 131072) sum.toNat)
  taps ++ (taps.take m).reverse

/-- D of a path's plan (R134): f_mid = f_in / D. -/
def Path.decim (p : Path) : Nat := 2 * p.m * 2 ^ p.h

/-- The factory filter of a path (R135, R136): the stored design at the default FIR_LEN, the computed one at any other. -/
def factoryBank (std : Standard) (half : Nat) (p : Path) : List Int :=
  if p.firLen = firDefault std then (List.range p.firLen).map fun i => (Config.factoryFilter (stdCode std) i).toInt
  else windowFilter half p.fout p.fin p.decim p.firLen

/-- The path NCO word W_p for an offset in 2^-16 Hz (R132). -/
def pathWord (off : Int) (fin : Nat) : Int := roundDiv (off * 65536) fin

/-! ### Sources -/

/-- The carver or tuner of a source number: 0 to 7 BC, 8 to 11 PT. -/
def srcCarver (src : Nat) : Option (Fin 8) := idx 8 src
def srcTuner (src : Nat) : Option (Fin 4) := if 8 ≤ src then idx 4 (src - 8) else none

/-- The rate of a source (R130). -/
def srcRate (src : Nat) (s : State) : Nat :=
  match srcCarver src with
  | some c => carverRate (fget s.rf.carvers[c].cfg 0x0302)
  | none => 24576000

/-- Whether a carver runs and delivers (R93, R98). -/
def carverRuns (c : Carver) : Bool := fget c.cfg 0x0300 != 0 && !c.stopped

/-- Whether the source of a number delivers: its carver runs, or its tuner is settled in RX (R108, R147) and not on an AF hop (R230);
none does while both sampling PLLs are lost (R71), and in Dormant all have stopped (R99). -/
def delivers (src : Nat) (s : State) : Bool :=
  !s.time.bothLost && (s.power.st != .dormant || s.power.waking) &&
  match srcCarver src, srcTuner src with
  | some c, _ => carverRuns s.rf.carvers[c]
  | _, some n => s.rf.tuners[n].st == .rx && s.rf.tuners[n].change.isNone && s.cx.hops[n].isNone
  | _, _ => false

/-- The offset of a frequency on a source in 2^-16 Hz (R132). -/
def srcOffset (src freq : Nat) (s : State) : Int :=
  match srcCarver src, srcTuner src with
  | some c, _ => (freq : Int) * 65536 - carverCentre (fget s.rf.carvers[c].cfg 0x0301)
  | _, some n => match s.rf.tuners[n].plan with
    | some p => tunerIf freq p
    | none => 0
  | _, _ => 0

/-- The open paths that take a source. -/
def pathsOn (src : Nat) (s : State) : List (Fin 64) :=
  (List.finRange 64).filter fun p => s.cx.paths[p].run != .closed && s.cx.paths[p].source == src

/-- Whether a tuner feeds a path (R161). -/
def feeds (n : Fin 4) (s : State) : Bool := !(pathsOn (8 + n.val) s).isEmpty

/-- Whether a carver can be a source of a context (R21, R130, R161). -/
def carverFits (c : Fin 8) (freq half : Nat) (s : State) : Bool :=
  let x := s.rf.carvers[c]
  carverRuns x && decide (16 ≤ fget x.cfg 0x0302) && bandCovers (fget x.cfg 0x0301) (fget x.cfg 0x0302) freq half
    && !(c.val == 7 && s.cx.profile == 1)

/-- Whether an entry of the band table contains a VCO frequency in hertz. -/
def bandHolds (vco : Nat) (b : Band) : Bool := decide (b.low * 1000 ≤ vco) && decide (vco ≤ b.high * 1000)

/-- Whether a plan can be met only by excluded bands (R106). -/
def onlyExcluded (t : Tuner) (p : Plan) : Bool :=
  t.bands.toList.any (bandHolds (planVco p)) && t.bands.toList.all fun b => b.exclude || !bandHolds (planVco p) b

/-- The margin of a band about a VCO frequency in hertz (R111). -/
def bandMargin (vco : Nat) (b : Band) : Nat := min (vco - b.low * 1000) (b.high * 1000 - vco)

/-- The band at which a search starts (R111): of those that contain f_VCO and are not excluded (R106) the one with the widest margin, of
equals the lower-numbered. -/
def searchStart (t : Tuner) (p : Plan) : Option (Fin 64) :=
  (List.finRange 64).foldl (fun (best : Option (Fin 64)) k =>
    let b := t.bands[k]
    if b.exclude || !bandHolds (planVco p) b then best
    else match best with
      | some o => if bandMargin (planVco p) t.bands[o] < bandMargin (planVco p) b then some k else some o
      | none => some k) none

/-- The bands that a search tries (R106, R111): its start and the two beside it, none that is excluded. -/
def searchBands (t : Tuner) (p : Plan) : List (Fin 64) :=
  match searchStart t p with
  | some k => (List.finRange 64).filter fun b => decide (b.val ≤ k.val + 1) && decide (k.val ≤ b.val + 1) && !t.bands[b].exclude
  | none => []

/-- The plan of a tuner for a context (R161): SIDE LOW, IF_TARGET 2.0 MHz, at its own REF_MULT. -/
def ctxPlan (t : Tuner) (freq : Nat) : Plan := tunerPlan freq false 2000 (fget t.cfg 0x0404).toNat

/-- Whether a tuner can be tuned to a context (R102, R104, R106, R117, R161): never for AM and DRM, whose contexts are carver-fed (R162,
R186). A tuner used for the AF hop (R230) is not free, nor one in PROBE, for which a command waits (R121). -/
def tunerFits (n : Fin 4) (freq half : Nat) (s : State) : Bool :=
  let x := s.rf.tuners[n]
  decide (30000000 ≤ freq) && decide (freq ≤ 1500000000) && (ifWidthFor half).isSome && x.st != .failed
    && decide (50000 ≤ half) && x.st != .probe && !x.unavailable && s.cx.hops[n].isNone && !feeds n s && !onlyExcluded x (ctxPlan x freq)

/-- Whether the source of a number meets the conditions of R161. -/
def sourceFits (src freq half : Nat) (s : State) : Bool :=
  match srcCarver src, srcTuner src with
  | some c, _ => carverFits c freq half s
  | _, some n => tunerFits n freq half s
  | _, _ => false

/-- The sources that a SOURCE_PREF code allows, in the order of R161. -/
def prefSources : Nat → List Nat
  | 0 => List.range 12
  | 1 => List.range 8
  | 2 => [8, 9, 10, 11]
  | n => if n < 15 then [n - 3] else []

/-- The primary source for a context (R161). -/
def chooseSource (pref freq half : Nat) (s : State) : Option Nat := (prefSources pref).find? fun x => sourceFits x freq half s

/-! ### The count of class 6 on a path (R29, R32, R145 to R147, R165) -/

/-- Posts what has become due and settles `n` intervals of a path. -/
def settlePath (p : Fin 64) (n : Nat) (s : State) : State :=
  let x := s.cx.paths[p]
  modPath p (fun x => { x with dueOpen := x.dueOpen - n }) (settle 6 n (post 6 (n - x.dueOpen) s))

/-- Delivers `n` intervals of a path (R29). -/
def deliverIntervals (p : Fin 64) (n : Nat) (s : State) : State :=
  modPath p (fun x => { x with delivered := x.delivered + n }) (settlePath p n s)

/-- Settles the open gap of a path with one gap record of `n` intervals that ends at a DT (R146, R165, R414). -/
def closeGap (p : Fin 64) (n : Nat) (last : DT) (s : State) : State :=
  let x := s.cx.paths[p]
  match x.gapFrom with
  | some g =>
    gapSherd 0 p.val x.ctx n (dtInt g) (dtInt last) g last
      (modPath p (fun x => { x with gapped := x.gapped + n, gapFrom := none }) (settlePath p n s))
  | none => s

/-- The target that a path's swaps leave active: that of the last accepted request (R139). -/
def swapTarget (p : Path) : Bool :=
  match p.queued, p.fade with
  | some q, _ => q.target
  | none, some (f, _) => f.target
  | none, none => p.activeB

/-- The commands of a path's swaps. -/
def swapCmds (p : Path) : List Nat := (p.fade.map (·.1.cmd)).toList ++ (p.queued.map (·.cmd)).toList

/-- A synchronising reset completes the swaps of a path on the spot (R139). -/
def endSwaps (p : Fin 64) (s : State) : State :=
  let x := s.cx.paths[p]
  let t := swapTarget x
  finishAll (swapCmds x) .ok [(16, 1, bit t), (24, 8, dtInt (now s))]
    (modPath p (fun x => { x with activeB := t, fade := none, queued := none }) s)

/-- Opens the gap of a path that delivered (R146). -/
def Path.openGap (x : Path) : Path := { x with gapFrom := if x.opening then none else some (x.gapFrom.getD x.next) }

/-- DAB and DRM take an interruption of their primary path as a loss of signal (R201, R208, R211, R213). -/
def Ctx.loseSignal (t : DT) (x : Ctx) : Ctx :=
  { x with
    dab := if x.dab.sync then { x.dab with sync := false, full := false, firstNull := none, missed := 0, lostAt := some t } else x.dab,
    drm := if x.drm.sync then { x.drm with sync := false, full := false, good := 0, bad := 0, lostAt := some t } else x.drm,
    acqFrom := none }

/-- The MPX power window restarts (R180). -/
def Ctx.restartMpx (x : Ctx) : Ctx :=
  { x with mpxFrom := none, mpxSeconds := [], mpxCount := 0, mpxValid := false }

/-- A measurement window begins; the one that was running is discarded (R184). -/
def Ctx.newWindow (t : DT) (x : Ctx) : Ctx :=
  { x with
    winFrom := t, dab := { x.dab with ficWin := 0 }, drm := { x.drm with facWin := 0, sdcErr := 0 },
    rds := { x.rds with winBlocks := 0, winBad := 0 } }

/-- Context frames are counted from a SYNC sample (R159); checkpoints of the frames before it are none of theirs (R169). -/
def Ctx.beginFrames (t : DT) (x : Ctx) : Ctx :=
  { x with frame := 0, frameAt := t, ckpts := Vector.replicate 2 none, mpxFrom := some t }

/-- The signal of a path's context is lost, if the path is its primary. -/
def loseSignal (p : Fin 64) (s : State) : State :=
  match idx 64 s.cx.paths[p].ctx with
  | some c => if s.cx.ctxs[c].primary == some p then modCtx c (Ctx.loseSignal s.time.dt) s else s
  | none => s

/-- A path enters HOLD (R147): it delivers nothing, its gap stays open, its dwells pause. -/
def holdPath (p : Fin 64) (s : State) : State :=
  if s.cx.paths[p].run == .closed then s else loseSignal p (accrue (modPath p (fun x => { x.openGap with run := .hold, broken := true }) s))

/-- All filter and resampler state is zeroed and output is counted from `t` (R142, R145); the running power block is dropped. -/
def Path.zeroed (t : DT) (adj : Int) (x : Path) : Path :=
  { x with
    inc := x.incAt adj, phase := 0, residue := 0, made := 0, madeFrom := t, phases := [], line := [], firs := [], firCount := 0,
    fadePos := 0, blockSync := false, powSum := 0, powN := 0 }

/-- The MPX power window of a path's context restarts, if the path is its primary. -/
def restartMpx (p : Fin 64) (s : State) : State :=
  match idx 64 s.cx.paths[p].ctx with
  | some c => if s.cx.ctxs[c].primary == some p then modCtx c Ctx.restartMpx s else s
  | none => s

/-- The span of `n` output samples of a path (R143). -/
def outSpan (n : Nat) (x : Path) : Nat := if x.fout = 0 then 0 else n * 2 ^ 32 / x.fout

/-- A DT in ps, from a count of 2^-32 s. -/
def unitsOfPs (ps : Int) : Int := roundDiv (ps * 2 ^ 32) 1000000000000

/-- The group delay of a carver in converter periods (R90, R92): 1071 at DECIM 16, as the example of the catalogue gives it. A peer
stream adds the link transit. -/
def carverGroupDelay (set : FieldSet) (s : State) : Int :=
  let base : Nat := if fget set 0x0302 = 16 then 1071 else Config.carverDelay (fget set 0x0302).toNat
  if 3 ≤ fget set 0x0300 then base + ratio (s.pair.transit.toNat * 6144) 10000 else base

/-- The group delay of a path's source in ps (R90, R100, R144). -/
def sourceDelay (src : Nat) (s : State) : Int :=
  match srcCarver src, srcTuner src with
  | some c, _ => ratio (carverGroupDelay s.rf.carvers[c].cfg s * 10000000) 6144
  | _, some n => Config.tunerDelay n.val (fget s.rf.tuners[n].cfg 0x0403).toNat
  | _, _ => 0

/-- The instant of a reset that withholds exactly L samples before an instant (R144, R148): the stamps lie behind the samples by τ and the
source's delay. -/
def resetDue (p : Fin 64) (at_ : DT) (s : State) : Int :=
  let x := s.cx.paths[p]
  dtInt at_ + unitsOfPs (tauPs x + sourceDelay x.source s) - (outSpan (settling x) x : Int)

/-- The resampler phase that puts the SYNC sample on T (R142, R148): less than one input sample. The spec gives it by the converter's
sampling instants, which no row brings: a free value. -/
def setPhase (p : Fin 64) (s : State) : State := useFree (modPath p (fun x => { x with phase := (freeNow s % 2 ^ 48).toNat }) s)

/-- A path that resets under a CTX_SYNC, at its due instant or later, puts its SYNC sample on the grid of T (R148). -/
def gridPhase (p : Fin 64) (s : State) : State :=
  match s.cx.paths[p].grid with
  | some g => if resetDue p g s ≤ dtInt (now s) + (outSpan 1 s.cx.paths[p] : Int) then setPhase p s else s
  | none => s

/-- A synchronising reset of a path (R139, R145, R146, R180); in HOLD it waits for the source (R147). -/
def resetPath (p : Fin 64) (s : State) : State :=
  let x := s.cx.paths[p]
  if x.run == .closed || x.run == .hold then s
  else gridPhase p <| restartMpx p <| loseSignal p (accrue (endSwaps p (modPath p (fun x =>
    { (x.openGap.zeroed s.time.dt s.time.rateAdj) with run := .withholding, broken := true }) s)))

/-- FIR_LEN of a context's fields: the standard's default where none is set (R155). -/
def firLenOf (std : Standard) (cfg : FieldSet) : Nat :=
  let n := (fget cfg 0x0703).toNat
  if n = 0 then firDefault std else n

/-- A path at a FIR_LEN: both banks hold the factory filter of that length (R136). DESIGN CHOICE (log entry 60): a length changed on an
open path, too, fills both banks and leaves the active one active. -/
def Path.refill (std : Standard) (half len : Nat) (x : Path) : Path :=
  let y := { x with firLen := len }
  let bank := factoryBank std half y
  { y with bankA := bank, bankB := bank }

/-- The context of a path. -/
def ctxOf (p : Fin 64) (s : State) : Option (Fin 64) := idx 64 s.cx.paths[p].ctx

/-- A path that starts takes the FIR_LEN set while it did not run (R11, R155). -/
def takeLength (p : Fin 64) (s : State) : State :=
  match ctxOf p s with
  | some c =>
    let x := s.cx.ctxs[c]
    let len := firLenOf x.std x.cfg
    if len = s.cx.paths[p].firLen then s else modPath p (Path.refill x.std (halfBand x.std x.cfg) len) s
  | none => s

/-- A path leaves HOLD through a synchronising reset (R147). -/
def resumePath (p : Fin 64) (s : State) : State :=
  if s.cx.paths[p].run == .hold then resetPath p (modPath p (fun x => { x with run := .running }) (takeLength p s)) else s

/-- A path is closed or removed (R154, R165): its swaps end; an open gap is settled by one gap record up to now; a path that
delivered writes none. -/
def closePath (p : Fin 64) (s : State) : State :=
  let x := s.cx.paths[p]
  if x.run == .closed then s
  else
    let s := finishAll (swapCmds x) .abortedHost [] s
    let s := accrue s
    let n := s.cx.paths[p].dueOpen
    let s := if x.gapFrom.isSome then closeGap p n (now s) s else settlePath p n s
    modPath p (fun _ => Path.reset) s

/-- A failed primary is removed at a failover without a gap record (R175). -/
def dropPath (p : Fin 64) (s : State) : State :=
  let s := finishAll (swapCmds s.cx.paths[p]) .abortedHost [] s
  modPath p (fun _ => Path.reset) (settlePath p s.cx.paths[p].dueOpen s)

/-- The lowest-numbered closed path (R131). -/
def freePath (s : State) : Option (Fin 64) := (List.finRange 64).find? fun p => s.cx.paths[p].run == .closed

/-! ### Wheel placement, in hundredths of a capacity unit (R167, R168, R189, R249) -/

/-- The cost of a started service. -/
def svcCost (std : Standard) (v : Svc) : Nat :=
  (match std with | .am => 50 | .fm => 50 | .dab => 300 | .drm => 400 | .drmPlus => 400)
    + (if fget v.cfg 0x0B03 = 1 then 30 else 0) + (if fget v.cfg 0x0B04 = 1 then 20 else 0)
    + (if fget v.cfg 0x0B0A = 1 then 50 else 0) + (if fget v.cfg 0x0B0C = 1 then 50 else 0)

/-- The started services of a context. -/
def svcsOf (c : Nat) (s : State) : List (Fin 96) :=
  (List.finRange 96).filter fun v => s.audio.svcs[v].st != .free && s.audio.svcs[v].ctx == c

/-- The component that a selector names in a context's organisation (R242, R214). -/
def compOf (x : Ctx) (sid scids : Nat) : Option Component :=
  match x.std with
  | .dab => x.dab.comps.find? fun c => c.sid == sid && c.scids == scids
  | .drm | .drmPlus => x.drm.comps.find? fun c => c.scids == scids
  | _ => none

/-- The component that a PAD subscription names (R339). -/
def padComp (x : Ctx) (u : Sub) : Option Component := compOf x (le u.selector 0 4) (le u.selector 4 1)

/-- The subchannel that a subscription asks for (R215). -/
def subSubch (x : Ctx) (u : Sub) : Option Nat :=
  match u.kind with
  | 4 | 5 => (padComp x u).map (·.subch)
  | 6 | 7 => some (le u.selector 0 1)
  | _ => none

/-- The subscriptions of a context. -/
def subsOf (c : Nat) (s : State) : List Sub := s.cx.subs.filter fun u => u.ctx == c

/-- The component of a started service. -/
def svcComp (v : Fin 96) (s : State) : Option Component :=
  let y := s.audio.svcs[v]
  match idx 64 y.ctx with
  | some c => compOf s.cx.ctxs[c] y.sid y.scids
  | none => none

/-- What asks for subchannels (R196), with those it asks for under the organisation in force: (0, service), (1, subscription), (2, 0) for
SUBCH_MODE ALL. -/
def askers (c : Fin 64) (s : State) : List ((Nat × Nat) × List Nat) :=
  let x := s.cx.ctxs[c]
  (svcsOf c.val s).map (fun v => ((0, v.val), ((svcComp v s).map (·.subch)).toList))
    ++ (subsOf c.val s).map (fun u => ((1, u.id.toNat), (subSubch x u).toList))
    ++ (if fget x.cfg 0x0907 = 1 then [((2, 0), x.dab.comps.map (·.subch))] else [])

/-- The subchannels that something asks for (R196), but for those that found no placement (R189). -/
def wantedSubch (c : Fin 64) (s : State) : List Nat :=
  ((askers c s).flatMap (·.2)).eraseDups.filter fun k => !s.cx.ctxs[c].dab.denied.contains k

/-- A subchannel that found no placement is asked for anew (R189). -/
def Ctx.askAgain (l : List Nat) (x : Ctx) : Ctx := { x with dab := { x.dab with denied := x.dab.denied.filter fun k => !l.contains k } }

/-- The capacity units of a subchannel, 0 while the organisation does not have it. -/
def cusOf (x : Ctx) (subch : Nat) : Nat := ((x.dab.comps.find? (·.subch == subch)).map (·.cus)).getD 0

/-- The components whose PAD is parsed without a started service of theirs (R215). -/
def padOnly (c : Fin 64) (s : State) : List (Nat × Nat) :=
  let l := ((subsOf c.val s).filter fun u => u.kind == 4 || u.kind == 5).map fun u => (le u.selector 0 4, le u.selector 4 1)
  l.eraseDups.filter fun k => !(svcsOf c.val s).any fun v => s.audio.svcs[v].sid == k.1 && s.audio.svcs[v].scids == k.2

/-- The cost of a branch (R167, R189). -/
def branchCost (std : Standard) : Branch → Nat
  | .none => 0
  | .failover => 50
  | .diversity => match std with
    | .am => 300 | .fm => 300 | .dab => 400 | .drm => 200 | .drmPlus => 200

/-- The cost of a context's demodulation (R167, R189, R215, R234). -/
def demodCost (c : Fin 64) (s : State) : Nat :=
  let x := s.cx.ctxs[c]
  (match x.std with
    | .am => if fget x.cfg 0x0807 = 0 then 150 else 250
    | .fm => 600 + (if fget x.cfg 0x080D = 2 || (fget x.cfg 0x080D = 1 && x.eqEngaged) then 200 else 0)
    | .dab => 700 + (wantedSubch c s).foldl (fun (n : Nat) k => n + cusOf x k) 0
        + (if fget x.cfg 0x0908 = 1 then 50 else 0) + 20 * (padOnly c s).length
    | .drm => 500
    | .drmPlus => 800)
    + branchCost x.std x.branchRole
    + (match x.afSwitch with | some w => if w.path.isSome then 600 else 0 | none => 0)

/-- The comparisons bound to services of a context (R288). -/
def compares (c : Fin 64) (s : State) : Nat :=
  countBy s.port.ains fun a => match a.cmp with | some v => s.audio.svcs[v].ctx == c.val | none => false

/-- The cost of a context with its services and comparisons (R249, R288). -/
def ctxCost (c : Fin 64) (s : State) : Nat :=
  let x := s.cx.ctxs[c]
  (svcsOf c.val s).foldl (fun (n : Nat) v => n + svcCost x.std s.audio.svcs[v]) (demodCost c s + 100 * compares c s)

/-- The capacity of a Wheel: 100 units, 60 in ENDURANCE (R167). -/
def wheelCap (s : State) : Nat := if s.cx.profile = 2 then 6000 else 10000

/-- Whether a Wheel takes contexts: in the pool, and in PRECISION not one of the two kept for the Saggar (R21, R171). -/
def wheelUp (w : Fin 16) (s : State) : Bool :=
  !s.cx.wheels[w].failed && !s.cx.wheels[w].testing && !(s.cx.profile == 1 && decide (14 ≤ w.val))

/-- The open contexts with their Wheel and cost. -/
def placed (s : State) : List (Fin 64 × Fin 16 × Nat) :=
  (List.finRange 64).filterMap fun c =>
    if s.cx.ctxs[c].st == .closed then none else s.cx.ctxs[c].wheel.map fun w => (c, w, ctxCost c s)

/-- The load of a Wheel. -/
def loadOf (l : List (Fin 64 × Fin 16 × Nat)) (w : Fin 16) : Nat :=
  l.foldl (fun (n : Nat) x => if x.2.1 = w then n + x.2.2 else n) 0

/-- What Saggar jobs with an OWN path take of a Wheel (R383). -/
def jobLoad (w : Fin 16) (s : State) : Nat :=
  (s.sg.jobs.filter (·.running)).foldl (fun (n : Nat) j => match j.wheel with
    | some (v, k) => if v = w then n + k else n
    | none => n) 0

/-- The free capacity of the Wheels that take contexts. -/
def freeCaps (l : List (Fin 64 × Fin 16 × Nat)) (s : State) : List (Fin 16 × Nat) :=
  ((List.finRange 16).filter fun w => wheelUp w s).map fun w => (w, wheelCap s - (loadOf l w + jobLoad w s))

/-- The Wheel with most free capacity, the lowest-numbered of equals. -/
def roomiest (caps : List (Fin 16 × Nat)) : Option (Fin 16 × Nat) :=
  caps.foldl (fun (best : Option (Fin 16 × Nat)) x => match best with
    | some b => if b.2 < x.2 then some x else some b
    | none => some x) none

/-- Takes capacity from a Wheel. -/
def takeCap (caps : List (Fin 16 × Nat)) (w : Fin 16) (n : Nat) : List (Fin 16 × Nat) :=
  caps.map fun x => if x.1 = w then (x.1, x.2 - n) else x

/-- Whether costs, in the order given, fit into free capacities, each on the Wheel with most room. -/
def fitAll : List Nat → List (Fin 16 × Nat) → Bool
  | [], _ => true
  | n :: rest, caps =>
    match roomiest caps with
    | some (w, room) => if n ≤ room then fitAll rest (takeCap caps w n) else false
    | none => false

/-- Insertion by descending cost. -/
def insertDesc (n : Nat) : List Nat → List Nat
  | [] => [n]
  | m :: rest => if m < n then n :: m :: rest else m :: insertDesc n rest

/-- The rule of R168: the contexts of every Wheel could be placed, largest first, into the free capacity of the others. -/
def reserveKept (l : List (Fin 64 × Fin 16 × Nat)) (s : State) : Bool :=
  (List.finRange 16).all fun w =>
    let own := (l.filter fun x => x.2.1 == w).foldl (fun acc x => insertDesc x.2.2 acc) []
    own.isEmpty || fitAll own ((freeCaps l s).filter fun x => x.1 != w)

/-- The Wheel for a context at its present cost (R168): the least-loaded that can take it, its own where none is less loaded. -/
def place (c : Fin 64) (s : State) : Option (Fin 16) :=
  let l := (placed s).filter fun x => x.1 != c
  let n := ctxCost c s
  let caps := freeCaps l s
  let best := match roomiest caps with
    | some b => match s.cx.ctxs[c].wheel with
      | some w => if caps.any (fun x => x.1 == w && x.2 == b.2) then some (w, b.2) else some b
      | none => some b
    | none => none
  match best with
  | some (w, room) => if n ≤ room && reserveKept ((c, w, n) :: l) s then some w else none
  | none => none

/-- CTX_MIGRATED (R170, R175, R344). -/
def migratedFields (c : Fin 64) (old new reason frames oldPath newPath : Nat) (s : State) : List Byte :=
  result [(16, 1, c.val), (17, 1, old), (18, 1, new), (19, 1, reason), (20, 2, frames), (22, 1, oldPath), (23, 1, newPath), (24, 8, dtInt (now s))]

/-- The number of a context's primary path. -/
def primaryNo (x : Ctx) : Nat := match x.primary with | some p => p.val | none => 0xFF

/-- Moves a context to a Wheel as a planned migration (R170): reason 0 PROFILE, 1 PLACEMENT, 2 HOST. -/
def migrate (c : Fin 64) (w : Fin 16) (reason : Nat) (s : State) : State :=
  let x := s.cx.ctxs[c]
  let old := match x.wheel with | some o => o.val | none => w.val
  let s := modCtx c (fun x => { x with wheel := some w }) s
  if old = w.val then s
  else raiseAt .ctxMigrated (now s) (migratedFields c old w.val reason 0 (primaryNo x) (primaryNo x) s) s

/-- Places a context whose cost may have grown since `old` (R168); none when the placement fails. -/
def regrow (c : Fin 64) (old s : State) : Option State :=
  if ctxCost c s ≤ ctxCost c old then some s
  else (place c s).map fun w => migrate c w 1 s

/-! ### Channel changes (R110, R111) -/

/-- The key of a recall entry. -/
def recallOf (t : Tuner) (p : Plan) : Option Recall := t.recalls.find? fun r => r.plan == p

/-- The die temperature in whole degrees. -/
def dieTemp (s : State) : Int := s.power.tHot / 10

/-- Whether a band of the table is excluded (R106). -/
def excluded (t : Tuner) (band : Nat) : Bool := match idx 64 band with | some k => t.bands[k].exclude | none => false

/-- Whether a channel change takes its band from the recall table (R106, R107): an entry whose band is not excluded, within 15 degrees,
and no forced search. -/
def useRecall (t : Tuner) (p : Plan) (s : State) : Bool :=
  match recallOf t p with
  | some r => fget t.cfg 0x0405 == 0 && decide ((dieTemp s - r.temp).natAbs ≤ 15) && !excluded t r.band
  | none => false

/-- Step 1 of a channel change as the synthesiser starts (R111): VCO band and filter trim come from the recall entry, or the search stands at
its first band. -/
def Tuner.synthStart (t : Tuner) : Tuner :=
  match t.change, t.plan with
  | some c, some p =>
    match (if c.fromTable then recallOf t p else none), searchStart t p with
    | some e, _ => { t with band := e.band, trim := e.trim }
    | none, some k => { t with band := k.val }
    | none, none => t
  | _, _ => t

/-- Begins the channel change of a tuner to its committed plan (R111): from RX the stream stops at once, from SLEEP and STANDBY
the transitions to RX run first, and a running probe ends first (R121). Paths on it enter HOLD, and a running firing is abandoned (R456).
DESIGN CHOICE (log entry 61): a command whose channel change a later one of the context layer overtakes completes with that one. -/
def beginChange (n : Fin 4) (cmd ctx : Option Nat) (s : State) : State :=
  let t := s.rf.tuners[n]
  match t.plan with
  | some p =>
    let s := abandonTunerFirings n (some .abortedHost) s
    let s := (pathsOn (8 + n.val) s).foldl (fun s q => holdPath q s) s
    modTuner n (fun t =>
      let y := { t with
        change := some { fromTable := useRecall t p s, cmd := match cmd, t.change with | none, some c => c.cmd | k, _ => k, ctx := ctx },
        calibrating := false,
        target := some .rx }
      if t.st = .rx then { y.synthStart with st := .synth } else y) s
  | none => s

/-- Commits the fields of a tuner and computes its plan (R110, R104). -/
def commitTuner (n : Fin 4) (set : FieldSet) (s : State) : State :=
  modTuner n (fun t =>
    let cfg := fmerge t.cfg set
    let f := (fget cfg 0x0400).toNat
    { t with
      cfg := cfg,
      freq := some f,
      plan := some (tunerPlan f (fget cfg 0x0401 == 1) (fget cfg 0x0402).toNat (fget cfg 0x0404).toNat) }) s

/-- Tunes a tuner for a context (R161): SIDE LOW, IF_TARGET 2.0 MHz, the narrowest IF_BW of R102. -/
def tuneFor (n : Fin 4) (freq half : Nat) (ctx : Nat) (s : State) : State :=
  beginChange n none (some ctx)
    (commitTuner n [(0x0400, freq), (0x0401, 0), (0x0402, 2000), (0x0403, ((ifWidthFor half).getD 2400 : Nat))] s)

/-- Releases the tuner of a source: it goes to STANDBY (R164, R165), also from SLEEP on its way to RX; a running probe runs to its end
first (R121). -/
def releaseTuner (src : Nat) (s : State) : State :=
  match srcTuner src with
  | some n =>
    let t := s.rf.tuners[n]
    if feeds n s || t.st == .failed || (t.st == .sleep && t.target.isNone && t.change.isNone) then s
    else if t.st == .probe then modTuner n (fun t => { t with target := some .standby, change := none }) s
    else modTuner n (fun t => { t with st := .standby, target := none, change := none, calibrating := false, holdFrom := none }) s
  | none => s

/-! ### Opening a path on a source -/

/-- Sets the plan and the NCO word of a path for a source and a frequency (R132, R134). -/
def Path.plan (x : Path) (src fin fout : Nat) (off : Int) : Path :=
  let (m, h) := pathPlan fin fout
  { x with source := src, fin := fin, fout := fout, m := m, h := h, wp := pathWord off fin }

/-- Opens a path for a context on a source that is tuned or running (R131, R136, R145): both banks hold the factory filter, and the
path withholds its settling samples, or waits for its source in HOLD. -/
def openPath (p : Fin 64) (c : Fin 64) (src freq : Nat) (cfg : FieldSet) (s : State) : State :=
  let x := s.cx.ctxs[c]
  let base : Path := { (Path.reset.plan src (srcRate src s) (outRate x.std) (srcOffset src freq s)) with
    run := if delivers src s then .withholding else .hold,
    ctx := c.val,
    trim := fget cfg 0x0702,
    cfg := cfg.filter fun f => 0x0706 ≤ f.1 && f.1 ≤ 0x070C,
    opening := true }
  modPath p (fun _ => (base.refill x.std (halfBand x.std cfg) (firLenOf x.std cfg)).zeroed s.time.dt s.time.rateAdj) s

/-! ### Branches (R172 to R174, R475) -/

/-- Whether the unit is joined to a pair in DIVERSITY. -/
def inDiversity (s : State) : Bool := s.pair.role != 0 && s.pair.mode == 1

/-- The SOURCE of a carver: 1 WBA, 2 WBB, 3 PEER_A, 4 PEER_B (R92). -/
def carverSource (c : Fin 8) (s : State) : Int := fget s.rf.carvers[c].cfg 0x0300

/-- Whether a source may be the branch of a primary source (R172): two carvers of one converter never are. -/
def branchAllowed (primary src : Nat) (s : State) : Bool :=
  match srcCarver primary, srcCarver src with
  | some a, some b => carverSource a s != carverSource b s
  | _, _ => primary != src

/-- The order in which branch sources are tried (R172, R475). -/
def branchOrder (primary : Nat) (s : State) : List Nat :=
  let carvers := List.range 8
  let isPeer (x : Nat) : Bool := match srcCarver x with | some c => decide (3 ≤ carverSource c s) | none => false
  let peers := carvers.filter isPeer
  let locals := carvers.filter fun x => !isPeer x
  let tuners := [8, 9, 10, 11]
  if inDiversity s then peers ++ locals ++ tuners
  else match srcCarver primary with
    | some _ => locals ++ peers ++ tuners
    | none => carvers ++ tuners

/-- The delay that the stamps of a path on a source have had removed, in ps (R90, R100, R144). -/
def stampDelay (src : Nat) (x : Path) (s : State) : Int := tauPs x + sourceDelay src s

/-- Whether a branch on a source could be aligned with the primary (R173): the stamps differ by at most 50 µs. -/
def alignable (c : Fin 64) (src : Nat) (s : State) : Bool :=
  match s.cx.ctxs[c].primary with
  | some p =>
    let x := s.cx.paths[p]
    decide ((stampDelay x.source x s - stampDelay src (x.plan src (srcRate src s) x.fout 0) s).natAbs ≤ 50000000)
  | none => false

/-- A value held to ±`bound`. -/
def clampTo (bound : Nat) (v : Int) : Int := max (-(bound : Int)) (min bound v)

/-- The fields with which a context opens a branch path (R173): its own and those of the primary. -/
def branchSet (c : Fin 64) (s : State) : FieldSet :=
  let x := s.cx.ctxs[c]
  x.cfg ++ (match x.primary with | some q => s.cx.paths[q].cfg | none => [])

/-- A path whose NCO_TRIM lies beyond its bound is held to the bound (R133). DESIGN CHOICE (log entry 76). -/
def boundTrim (p : Fin 64) : State → State := modPath p fun x => { x with trim := clampTo (trimBound x) x.trim }

/-- The branch source of a context (R172 to R174): DIV_SOURCE AUTO, or the one it names. -/
def chooseBranch (c : Fin 64) (divSource : Nat) (s : State) : Option Nat :=
  let x := s.cx.ctxs[c]
  let l := if divSource = 0 then branchOrder x.source s else [divSource - 1]
  l.find? fun src => branchAllowed x.source src s && alignable c src s && sourceFits src x.freq (halfBand x.std x.cfg) s

/-- Removes the branch of a context and releases its tuner. -/
def dropBranch (c : Fin 64) (s : State) : State :=
  match s.cx.ctxs[c].branch with
  | some p =>
    let src := s.cx.paths[p].source
    releaseTuner src (closePath p (modCtx c (fun x => { x with branch := none, branchRole := .none, branchFrames := 0, selected := false }) s))
  | none => s

/-- Attaches a branch of a role to a context: a free path, a source and a placement; none when one of them is missing. -/
def attachBranch (c : Fin 64) (role : Branch) (divSource : Nat) (s : State) : Option State :=
  match freePath s, chooseBranch c divSource s with
  | some p, some src =>
    let x := s.cx.ctxs[c]
    let t := modCtx c (fun x => { x with branch := some p, branchRole := role, branchFrames := 0 }) s
    match regrow c s t with
    | some t =>
      let t := match srcTuner src with
        | some n => tuneFor n x.freq (halfBand x.std x.cfg) c.val t
        | none => t
      some (boundTrim p (openPath p c src x.freq (branchSet c s) t))
    | none => none
  | _, _ => none

/-- Whether a context keeps a failover branch (R174): tuner-fed, FAILOVER AUTO, no branch. -/
def wantsFailover (x : Ctx) : Bool :=
  x.st != .closed && x.st != .closing && (srcTuner x.source).isSome && fget x.cfg 0x0803 == 0 && x.branch.isNone

/-- Tries to attach a failover branch (R174); without one the next try comes 1 s later. -/
def seekFailover (c : Fin 64) (s : State) : State :=
  if wantsFailover s.cx.ctxs[c] then
    match attachBranch c .failover 0 s with
    | some t => t
    | none => modCtx c (fun x => { x with triedAt := some (now s) }) s
  else s

/-- The branch of a context is established anew (R164, R174): a diversity branch, and where none can be attached or DIV_MODE is OFF a
failover branch. -/
def rebranch (c : Fin 64) (s : State) : State :=
  let x := s.cx.ctxs[c]
  if x.branch.isSome then s
  else if fget x.cfg 0x0804 ≠ 0 then
    match attachBranch c .diversity (fget x.cfg 0x0805).toNat s with
    | some t => t
    | none => seekFailover c s
  else seekFailover c s

/-- After the primary has moved, a branch that R172 no longer allows beside it is given up, and another is sought. -/
def recheckBranch (c : Fin 64) (s : State) : State :=
  match s.cx.ctxs[c].branch with
  | some b => if branchAllowed s.cx.ctxs[c].source s.cx.paths[b].source s then s else rebranch c (dropBranch c s)
  | none => s

/-- Whether the branch of a context is live: its path delivers. -/
def branchLive (x : Ctx) (s : State) : Bool := match x.branch with | some p => s.cx.paths[p].run == .running | none => false

/-! ### Hold and failover of a context (R158, R175, R244) -/

/-- A context enters HOLD and its services MUTED_HOLD (R158, R244). -/
def holdCtx (c : Fin 64) (s : State) : State :=
  let s := modCtx c (fun x => if x.st = .closed ∨ x.st = .closing then x else { x with st := .hold, acqFrom := none, lossFrom := none, eqFrom := none, pilotFrom := none }) s
  (svcsOf c.val s).foldl (fun s v => modSvc v (fun x => if x.st = .running then { x with st := .mutedHold } else x) s) s

/-- A context leaves HOLD at its path's SYNC sample, and its services resume, also those of one retuned in HOLD (R158, R244, R250). -/
def leaveHold (c : Fin 64) (s : State) : State :=
  if s.cx.ctxs[c].st == .closed then s
  else
    (svcsOf c.val s).foldl (fun s v =>
      modSvc v (fun x => if x.st = .mutedHold then { x with st := .running, startFlag := true } else x) s)
      (modCtx c (fun x => if x.st = .hold then { x with st := .acquiring } else x) s)

/-- The live branch becomes the primary and the failed path is removed without a gap record, but for a gap that was open
before (R165, R175). A Saggar job on the path goes on with the new primary and sees a break (R183). -/
def failover (c : Fin 64) (s : State) : State :=
  let x := s.cx.ctxs[c]
  match x.primary, x.branch with
  | some p, some b =>
    let w := match x.wheel with | some w => w.val | none => 0
    let res := migratedFields c w w 4 0 p.val b.val s
    let old := x.source
    let s := modCtx c (fun x => { x with
      primary := some b, branch := none, branchRole := .none, branchFrames := 0, selected := false, source := s.cx.paths[b].source })
      (if s.cx.paths[p].gapFrom.isSome then closePath p s else dropPath p s)
    let s := modSg (fun g => { g with jobs := g.jobs.map fun j => if j.path = some p then { j with path := some b, broken := true } else j }) s
    let s := leaveHold c s
    let s := evSherd 0x0020 c.val res (raiseAt .ctxMigrated (now s) res s)
    seekFailover c (releaseTuner old s)
  | _, _ => s

/-- The source of a path stops delivering (R147, R158, R173, R175): a primary with a live branch fails over, one without enters HOLD
with its context; a branch enters HOLD with weight 0. -/
def loseSource (p : Fin 64) (s : State) : State :=
  if s.cx.paths[p].run == .closed then s
  else match ctxOf p s with
    | some c =>
      let x := s.cx.ctxs[c]
      if x.primary == some p then
        if branchLive x s then failover c s else holdCtx c (holdPath p s)
      else if x.branch == some p then modCtx c (fun x => { x with branchFrames := 0, selected := false }) (holdPath p s)
      else holdPath p s
    | none => holdPath p s

/-- All paths enter HOLD together, and their contexts with them (R71, R156). -/
def holdAll (s : State) : State :=
  let s := (List.finRange 64).foldl (fun s p => holdPath p s) s
  (List.finRange 64).foldl (fun s c => if s.cx.ctxs[c].st == .closed then s else holdCtx c s) s

/-- The path of a context takes a source and a frequency: plan, NCO word, trim (R132 to R134). A new plan sets NCO_TRIM to 0, in the active
set of the context too (R133). DESIGN CHOICE (log entry 100): the next block's TRIM_CHANGED does not tell of that. -/
def rebind (p : Fin 64) (src freq : Nat) (s : State) : State :=
  let x := s.cx.paths[p]
  let y := x.plan src (srcRate src s) x.fout (srcOffset src freq s)
  if y.m = x.m ∧ y.h = x.h ∧ y.fin = x.fin then modPath p (fun _ => y) s
  else
    let s := modPath p (fun _ => { y with trim := 0, trimHeld := none }) s
    match ctxOf p s with
    | some c => modCtx c (fun z => if fhas z.cfg 0x0702 then { z with cfg := fset z.cfg 0x0702 0 } else z) s
    | none => s

/-- Moves a context without a live branch to a new source after its tuner failed (R41, R175): a free tuner, or a carver that covers
it, with a synchronising reset; otherwise it stays in HOLD. -/
def reSource (c : Fin 64) (s : State) : State :=
  let x := s.cx.ctxs[c]
  let half := halfBand x.std x.cfg
  match x.primary, ([8, 9, 10, 11] ++ List.range 8).find? (fun src => src != x.source && sourceFits src x.freq half s) with
  | some p, some src =>
    let s := match srcTuner src with
      | some n => tuneFor n x.freq half c.val s
      | none => s
    let s := rebind p src x.freq (modCtx c (fun y => { y with source := src }) s)
    seekFailover c (recheckBranch c (if delivers src s then resumePath p s else s))
  | _, _ => s

end Sys2Proof.Machine
end

