-- ==== Sys2Proof/Machine/Time.lean ====
section
/-!
DEFINITION. Time.lean: device time, the reference discipline, the sampling PLLs and fine phase stepping (R45 to R78, R526, R527).
-/
namespace Sys2Proof.Machine

/-! ### Rates and spans -/

/-- 199.725 ppm as RATE_ADJ (R49). -/
def maxRateAdj : Int := 366

/-- SLEW_RATE, in 0.01 ppm, as RATE_ADJ, rounded towards zero (R49). -/
def rateAdjOf (r : Int) : Int := ((r.toNat * 2 ^ 48 / 15360000000000000 : Nat) : Int)

/-- A span of nanoseconds in 2^-32 s, rounded down. -/
def nsDt (n : Nat) : Nat := n * 2 ^ 32 / 1000000000

/-- SLEW_LIMIT in 2^-32 s (R75). -/
def slewLimit (u : TimeSt) : Nat := nsDt (fget u.cfg 0x0105).toNat

/-- REF_MODE (R52): 0 NONE, 1 REFIN, 2 PPS, 3 REFIN_PPS. -/
def refMode (u : TimeSt) : Int := fget u.cfg 0x0100

/-- The REF_MODE that the loop follows: the secondary of a pair ignores its own (R470). -/
def modeNow (s : State) : Int := if s.pair.role = 2 then 0 else refMode s.time

/-- A quotient by a signed divisor, rounded as ratio has it. -/
def roundSigned (n d : Int) : Int := ratio (if d < 0 then -n else n) d.natAbs

/-- The largest change of the tune word for 0.05 ppm (R56): one DAC step is 1.4 V / 65535 (R52). -/
def maxTuneStep (u : TimeSt) : Nat := 50 * 655350 / (14 * (fget u.cfg 0x0103).natAbs)

/-- A word within the DAC's range. -/
def clampWord (w : Int) : Int := max 0 (min 65535 w)

/-- A move of the tune word towards a value by at most `n` steps (R56). -/
def approach (word dest : Int) (n : Nat) : Int := clampWord (max (word - n) (min (word + n) dest))

/-- The tune word now: in HOLDOVER it approaches the held word by 0.05 ppm (R55, R56). DESIGN CHOICE (log entry 95): in one move each whole
second. -/
def tuneNow (t : DT) (u : TimeSt) : Int :=
  if u.disc = .holdover then approach u.tune u.held (maxTuneStep u * ((dtInt t - u.coastFrom).toNat / 2 ^ 32)) else u.tune

/-- The integral of the tune word over the LOCKED period that runs, up to `t` (R76). -/
def lockedArea (t : DT) (u : TimeSt) : Int :=
  let last := match u.hist with | x :: _ => x.1 | [] => 0
  u.lockedSum + u.tune * (dtInt t - max u.lockedFrom last).toNat

/-- The mean of the tune word over the LOCKED period that runs. -/
def lockedMeanAt (t : DT) (u : TimeSt) : Int :=
  let n := (dtInt t - u.lockedFrom).toNat
  if n = 0 then u.tune else ratio (lockedArea t u) n

/-- Sets the tune word and notes the change (R55). Changes older than 66 s are dropped but for the last of them. -/
def setTune (t : DT) (w : Int) (u : TimeSt) : TimeSt :=
  if w = u.tune then u
  else
    let recent := u.hist.takeWhile fun x => decide (dtInt t - x.1 < 66 * 2 ^ 32)
    { u with
      tune := w,
      lockedSum := lockedArea t u,
      hist := (dtInt t, w) :: (recent ++ (u.hist.drop recent.length).take 1) }

/-- The integral of the tune word over an interval and the length of that part of it which has history. -/
def tuneArea (lo hi : Int) (l : List (Int × Int)) : Int × Nat :=
  let r := l.foldl (fun (acc : Int × Int × Int) x =>
    let start := max lo x.1
    if start < acc.2.2 then (acc.1 + x.2 * (acc.2.2 - start), acc.2.1 + (acc.2.2 - start), start) else acc) (0, 0, hi)
  (r.1, r.2.1.toNat)

/-- The word that HOLDOVER holds (R55): the mean over the 64 s that end 1 s before the loss. -/
def heldWord (t : DT) (u : TimeSt) : Int :=
  let r := tuneArea (dtInt t - 65 * 2 ^ 32) (dtInt t - 2 ^ 32) u.hist
  if r.2 = 0 then u.tune else ratio r.1 r.2

/-- Tells the pair's secondary of a DT step, a rate change or a phase step, with the DT at which it applies (R471). -/
def tellPair (kind : Nat) (v : Int) (tick : DT) (s : State) : State :=
  if s.pair.role = 1 then emit (.link kind (leBytes 8 v ++ leBytes 8 (dtInt tick))) s else s

/-! ### Loop states (R53 to R62) -/

/-- Leaves LOCKED: the mean of the period is kept and stored (R76, R441). -/
def leaveLocked (s : State) : State :=
  if s.time.disc = .locked then
    askStore .tuneWord none (modTime (fun u => { u with lockedMean := lockedMeanAt (now s) u, tuneStored := now s }) s)
  else s

/-- The words of a HOLDOVER that ends at `t`, newest first, for the history of R55: one for each second, of the last 66. -/
def coastHist (t : DT) (u : TimeSt) : List (Int × Int) :=
  if u.disc = .holdover then
    let n := (dtInt t - u.coastFrom).toNat / 2 ^ 32
    (List.range (min n 66)).map fun k => (u.coastFrom + ((n - k : Nat) : Int) * 2 ^ 32, approach u.tune u.held (maxTuneStep u * (n - k)))
  else []

/-- Changes the loop state. Leaving HOLDOVER, the tune word stands where it has got to, and its way there joins the history (R55). -/
def setDisc (d : Disc) (s : State) : State :=
  let s := if d = .locked then s else leaveLocked s
  modTime (fun u => { (setTune (now s) (tuneNow (now s) u) { u with hist := coastHist (now s) u ++ u.hist }) with
    disc := d,
    lockedSum := if d = .locked then 0 else u.lockedSum,
    lockedFrom := if d = .locked then dtInt (now s) else u.lockedFrom }) s

/-- Enters ACQUIRE (R526): y_0 and S are taken afresh, and so is the frequency error that R53 asks for; `measure` begins the 8-edge
measurement. -/
def enterAcquire (measure : Bool) (s : State) : State :=
  modTime (fun u => { u with y0 := u.tune, sumX := 0, freqErr := none, measuring := measure, offsets := [] }) (setDisc .acquire s)

/-- Enters HOLDOVER (R55). -/
def enterHoldover (s : State) : State :=
  let h := heldWord (now s) s.time
  modTime (fun u => { u with held := h, coastFrom := dtInt (now s), measuring := false, offsets := [] }) (setDisc .holdover s)

/-- Enters RETURNING (R59); `pps` names the reference that re-qualified. -/
def enterReturning (pps : Bool) (s : State) : State :=
  modTime (fun u => { u with returnRef := pps, returningSince := now s, measuring := true, offsets := [] }) (setDisc .returning s)

/-- Whether a slew or step that a reference decided is being carried out. -/
def correcting (u : TimeSt) : Bool := u.fwdStep.isSome || u.decided.isSome || (match u.slew with | some w => w.cmd.isNone | none => false)

/-- The criteria of LOCKED (R53). -/
def lockCriteria (u : TimeSt) : Bool :=
  !u.measuring && !correcting u && u.freqErr.any (fun e => decide (e.natAbs < 10000))
    && (decide (refMode u < 2) || (u.last8.length == 8 && decide (u.last8.sum.natAbs * 1000000000 < 800 * 2 ^ 32)))

/-- Enters LOCKED when the criteria hold, and falls back to ACQUIRE when they hold no longer (R53). -/
def checkLocked (s : State) : State :=
  if s.time.disc == .acquire && lockCriteria s.time then setDisc .locked s
  else if s.time.disc == .locked && !lockCriteria s.time then enterAcquire false s
  else s

/-! ### Slews and steps (R46 to R50, R60, R62) -/

/-- What a slew has gained since it was last counted, in 2^-32 s; the spec names no rounding. -/
def slewGained (t : DT) (rate : Int) (w : Slew) : Int :=
  roundSigned ((dtSince w.since t : Int) * rate * 153600000) (2 ^ 48 + rate * 153600000)

/-- The slew remaining (R336). -/
def slewLeft (t : DT) (u : TimeSt) : Int := match u.slew with | some w => w.left - slewGained t u.rateAdj w | none => 0

/-- Ends the slew in progress: RATE_ADJ returns to zero; a SLEW-mode TIME_SET completes with ABORTED_HOST (R48, R62). -/
def endSlew (s : State) : State :=
  let s := modTime (fun u => { u with decided := none }) s
  match s.time.slew with
  | some w =>
    let s := tellPair 3 0 (now s) (setRate 0 (modTime (fun u => { u with slew := none }) s))
    match w.cmd with
    | some id => finishId id .abortedHost [] s
    | none => s
  | none => s

/-- The signed rate of a slew, of a magnitude. -/
def slewRate (left rate : Int) : Int := if left < 0 then -rate else rate

/-- A slew that gains `left` at a rate given as a magnitude runs from now; one in progress is replaced, its command ends with ABORTED_HOST
(R48, R62). -/
def runSlew (left rate : Int) (cfgRate : Bool) (cmd : Option Nat) (s : State) : State :=
  let old := s.time.slew.bind (·.cmd)
  let s := setRate (slewRate left rate) (modTime (fun u => { u with
    decided := none, slew := some { left := left, since := now s, cmd := cmd, cfgRate := cfgRate, began := now s } }) s)
  match old with
  | some id => finishId id .abortedHost [] s
  | none => s

/-- Starts a slew. -/
def startSlew (left rate : Int) (cfgRate : Bool) (cmd : Option Nat) (s : State) : State :=
  tellPair 3 (slewRate left rate) (now s) (runSlew left rate cfgRate cmd s)

/-- A slew that a reference decides (R59, R62): on the primary of a pair it takes effect 200 µs later, so that both units change on one tick
(R471). -/
def decideSlew (left rate : Int) (cfgRate : Bool) (s : State) : State :=
  if s.pair.role = 1 then
    let due := dtAdd (now s) (usDt 200)
    tellPair 3 (slewRate left rate) due (modTime (fun u => { u with decided := some (due, left, rate, cfgRate) }) s)
  else startSlew left rate cfgRate none s

/-- A decided slew whose instant has come takes effect. DESIGN CHOICE (log entry 92): with the next tick, for the remaining it was decided
on. -/
def applyDecided (s : State) : State :=
  match s.time.decided with
  | some (due, left, rate, cfgRate) => if due.toNat ≤ (now s).toNat then runSlew left rate cfgRate none s else s
  | none => s

/-- A span by which a DT moves with a step of DT. -/
def shiftDt (d : Int) (t : DT) : DT := BitVec.ofInt 64 (dtInt t + d)

/-- A line of audio as DT steps by a span: its frames go on with the new stamps (R291), its block of the meter and its signature begin anew. -/
def Line.shift (d : Int) (x : Line) : Line :=
  let start := x.start.map (shiftDt d)
  { x with
    start := start, wait := x.wait.map fun f => (shiftDt d f.1, f.2), mono := [], meter := { x.meter with running := false },
    second := ((start.map (·.toNat)).getD 0 + x.count * 2 ^ 32 / 48000) / 2 ^ 32 + 1 }

/-- A service as DT steps: what it has measured keeps its place in time. -/
def Svc.shift (d : Int) (y : Svc) : Svc :=
  let line := y.line.shift d
  { y with
    line := line, loudFrom := shiftDt d y.loudFrom, loudOld := shiftDt d y.loudOld, itemEnd := shiftDt d y.itemEnd,
    reportFrom := y.reportFrom.map (shiftDt d), belowFrom := y.belowFrom.map (shiftDt d),
    loudHist := y.loudHist.map fun b => { b with stamp := shiftDt d b.stamp }, bands := [], words := [], cands := [],
    subEnd := 32 * line.second }

/-- An input as DT steps (R291): its buffers go on, a comparison discards its window and keeps the delay it had. -/
def Ain.shift (d : Int) (svcs : Vector Svc 96) (a : Ain) : Ain :=
  { a with
    lastGood := shiftDt d a.lastGood, lostAt := a.lostAt.map (shiftDt d), changeFrom := a.changeFrom.map (shiftDt d),
    buf := a.buf.map fun b => { b with stamp := shiftDt d b.stamp }, fresh := a.fresh.map fun b => { b with stamp := shiftDt d b.stamp },
    line := a.line.shift d, loudHist := a.loudHist.map fun b => { b with stamp := shiftDt d b.stamp }, bands := [], words := [], subEnd := 0,
    cmpWin := (match a.cmp with | some v => svcs[v].subEnd | none => 0), cmpBad := none, cmpStudio := none, cmpAir := none,
    cmpAt := shiftDt d a.cmpAt }

/-- DT steps to a value (R47, R48): the slew ends, TIME_DISCONT and a Sherd carry both values and the cause; `keep` leaves TIME_UNSET as it is.
The tune history, a PPSOUT pulse in progress (R58), the paths' intervals, the audio and the grids of the ports keep their places in time (R270,
R291; DEDUCED, log entry 112). With PPS configured LOCKED is left and the offset measured again (R53; DEDUCED, log entry 20). -/
def stepDtAs (dest : DT) (cause : Int) (keep : Bool) (s : State) : State :=
  let old := now s
  let d := dtInt dest - dtInt old
  let s := endSlew s
  let s := modTime (fun u => { u with
    dt := dest,
    dtLow := 0,
    unset := keep && u.unset,
    hist := u.hist.map fun x => (x.1 + d, x.2),
    coastFrom := u.coastFrom + d,
    lockedFrom := u.lockedFrom + d,
    lastEdge := none,
    last8 := [],
    ppsHigh := u.ppsHigh.map (shiftDt d),
    plls := u.plls.map fun p => { p with unlockAt := p.unlockAt.map (shiftDt d) },
    fwdStep := none }) s
  let s := modCx (fun c => { c with
    paths := c.paths.map fun p =>
      { p with gapFrom := p.gapFrom.map (shiftDt d), next := shiftDt d p.next, syncAt := shiftDt d p.syncAt, madeFrom := shiftDt d p.madeFrom },
    ctxs := c.ctxs.map fun x => { x with frameAt := shiftDt d x.frameAt } }) s
  let s := modAudio (fun x => { x with svcs := x.svcs.map (Svc.shift d) }) s
  let s := modPortSt (fun o => { o with
    ports := o.ports.map fun p => { p with grid := p.grid.map (shiftDt d), blockAt := shiftDt d p.blockAt },
    ains := o.ains.map (Ain.shift d s.audio.svcs),
    dividers := o.dividers.map fun x => { x with startAt := shiftDt d x.startAt } }) s
  let s := if s.time.disc == .locked && !lockCriteria s.time then enterAcquire (decide (2 ≤ modeNow s)) s else s
  let s := tellPair 2 d dest (raise .timeDiscont [(16, 8, dtInt old), (24, 8, dtInt dest)] s)
  opSherd 0x0010 0xFFFF dest dest (pack 0 48 [(0, 8, dtInt old), (8, 8, dtInt dest), (16, 1, cause)]) s

/-- DT steps to a value with a cause of R413. -/
def stepDt (dest : DT) (cause : Nat) (s : State) : State := stepDtAs dest cause (cause == 3) s

/-- After a reference decision has been carried out the loop enters ACQUIRE (R53, R59). -/
def corrected (s : State) : State := if s.time.disc == .returning then enterAcquire false s else s

/-! ### TIME_SET (R47, R48, R62) -/

def specTimeSet : Spec :=
  { plain 0x0200 16 tZero [(0, 1), (8, 8)] with
    secondary := fun _ => false
    range := fun _ _ a => oneOf a 0 [0, 1, 2] ++ require (le a 0 1 != 2 || le a 8 4 == 0) 8 }

/-- TIME_SET begins. A STEP, and a SLEW while DT is unset, waits for the next whole DT second; an AT_PPS for the next accepted
edge. The figures kept are 1, the kind (0 second, 1 edge), then the second or whether the edge has come. DESIGN CHOICE (log entry 55):
an AT_PPS accepted while PPS is qualified goes on waiting when PPSIN is declared lost, and takes the first edge accepted after it
re-qualifies. DESIGN CHOICE (log entry 56): a forward step already decided stays pending when a SLEW-mode TIME_SET restarts the
measurement in RETURNING. -/
def beginTimeSet (h : Held) (s : State) : State :=
  let a := Entry.args h.entry
  let mode := le a 0 1
  let v : DT := BitVec.ofNat 64 (le a 8 8)
  if mode = 2 then if s.time.ppsQual then park h [1, 0] s else reject h .errState s
  else if mode = 0 || s.time.unset then park h [0, dtInt (nextSecond (now s))] s
  else
    let s := begin_ h (startSlew (dtInt v - dtInt (now s)) (rateAdjOf (fget s.time.cfg 0x0106)) true (some h.id) s)
    if s.time.disc == .returning then modTime (fun u => { u with measuring := true, offsets := [] }) s else s

def execTimeSet (e : Entry) (s : State) : Host.Outcome State Fault Refusal :=
  .next (hostCmd (.timeSet e) specTimeSet beginTimeSet e s)

/-- Applies one waiting TIME_SET step (R47, R48): judged against DT at this instant. -/
def applyTimeSet (s : State) (h : Held) : State :=
  let v : DT := BitVec.ofNat 64 (le (Entry.args h.entry) 8 8)
  let old := now s
  if !s.time.unset && decide (v.toNat ≤ old.toNat) then fail h .errParam (Entry.offset h.entry 8) .outOfRange s
  else
    let cause := if s.time.unset then 0 else if le (Entry.args h.entry) 0 1 = 2 then 2 else 1
    let s := stepDt v cause s
    let s := if s.time.disc == .returning || (s.time.disc == .acquire && s.time.measuring) then
        modTime (fun u => { u with measuring := true, offsets := [] }) s
      else s
    finish h .ok [(16, 8, dtInt old), (24, 8, dtInt v)] s

/-- Whether the instant of a waiting TIME_SET has come. -/
def timeSetDue (t : DT) (h : Held) : Bool :=
  match h.aux with
  | [_, 0, sec] => decide (sec ≤ dtInt t)
  | [_, 1, edge] => edge == 1
  | _ => false

/-- A STEP or AT_PPS TIME_SET is applied (R47, R48). -/
def execTimeSetStepApply (t : DT) (s : State) : Host.Outcome State Fault Refusal :=
  let s := moment t s
  .next (((waiting 0x0200 0 s).filter (timeSetDue (now s))).foldl applyTimeSet s)

/-- A slew reaches its target (R48, R59). -/
def execSlewTargetReached (t : DT) (s : State) : Host.Outcome State Fault Refusal :=
  let s := moment t s
  .next (match s.time.slew with
    | some w =>
      let s := tellPair 3 0 (now s) (setRate 0 (modTime (fun u => { u with slew := none }) s))
      match w.cmd with
      | some id => finishId id .ok [(16, 8, dtInt w.began), (24, 8, dtInt (now s))] s
      | none => if s.time.decided.isSome then s else corrected s
    | none => s)

/-! ### TIME_GET, TIME_DISCIPLINE_STATUS (R336) -/

def specTimeGet : Spec := { plain 0x0201 0 tZero [] with secondary := fun _ => true }

def doTimeGet (h : Held) (s : State) : State :=
  let u := s.time
  finish h .ok [(16, 8, dtInt u.dt), (24, 1, bit u.unset), (25, 1, discCode u.disc), (26, 1, bit u.activeB), (27, 1, bit u.spareAligned)] s

def execTimeGet (e : Entry) (s : State) : Host.Outcome State Fault Refusal := .next (hostCmd (.timeGet e) specTimeGet doTimeGet e s)

def specTimeDisciplineStatus : Spec := { outCmd 0x0205 0 tZero [] with secondary := fun _ => true }

/-- The mean PPS offset: over the last 8 accepted edges (R53). -/
def meanOffset (u : TimeSt) : Int := if u.last8.isEmpty then 0 else ratio u.last8.sum u.last8.length

/-- The area of TIME_DISCIPLINE_STATUS (R336). -/
def disciplineArea (u : TimeSt) : List Byte :=
  pack 0 40 [(0, 1, discCode u.disc), (1, 1, refMode u),
    (2, 1, ((bit u.unset + 2 * bit u.plls[0].declared + 4 * bit u.plls[1].declared + 8 * bit u.activeB + 16 * bit u.refinQual
      + 32 * bit u.ppsQual : Nat) : Int)),
    (4, 2, tuneNow u.dt u), (8, 4, u.rateAdj), (12, 4, u.offsets.length), (16, 8, u.lastOffset), (24, 8, meanOffset u),
    (32, 8, slewLeft u.dt u)]

def doTimeDisciplineStatus (h : Held) (s : State) : State := finishOut h .ok (disciplineArea s.time) none s

def execTimeDisciplineStatus (e : Entry) (s : State) : Host.Outcome State Fault Refusal :=
  .next (hostCmd (.timeDisciplineStatus e) specTimeDisciplineStatus doTimeDisciplineStatus e s)

/-! ### TIME_REF_CONFIG (R75, R527) -/

def specTimeRefConfig : Spec := itemCmd 0x0202 tZero [] fun f => 0x0100 ≤ f && f ≤ 0x0108

/-- ST items enter the shadow set at once; LV items and a commit wait for the next whole DT second (R75). -/
def doTimeRefConfig (h : Held) (s : State) : State :=
  let l := itemsOf h
  let s := modTime (fun u => { u with shadow := fmerge u.shadow (ofClass .st l) }) s
  if commits h || !(ofClass .lv l).isEmpty then park h [dtInt (nextSecond (now s))] s else finishStaged h s

def execTimeRefConfig (e : Entry) (s : State) : Host.Outcome State Fault Refusal :=
  .next (hostCmd (.timeRefConfig e) specTimeRefConfig doTimeRefConfig e s)

/-- Whether the steering reference of a mode is qualified (R52, R527). -/
def steeringQual (u : TimeSt) : Bool := if refMode u = 2 then u.ppsQual else u.refinQual

/-- The loop restarts after a change of REF_MODE (R527). -/
def restartLoop (s : State) : State :=
  let s := modTime (fun u => { u with fwdStep := none, measuring := false, offsets := [] }) s
  if modeNow s = 0 || !steeringQual s.time then setDisc .free s else enterAcquire (decide (2 ≤ modeNow s)) s

/-- A new SLEW_RATE changes RATE_ADJ of a slew that runs at it (R75). -/
def newSlewRate (s : State) : State :=
  match s.time.slew with
  | some w =>
    let r := rateAdjOf (fget s.time.cfg 0x0106)
    if w.cfgRate && s.time.rateAdj.natAbs != r.natAbs then
      let left := slewLeft (now s) s.time
      let r := if left < 0 then -r else r
      tellPair 3 r (now s) (setRate r (modTime (fun u => { u with slew := some { w with left := left, since := now s } }) s))
    else s
  | none => s

/-- Whether an FID belongs to TIME_REF_CONFIG. -/
def refRow (f : Nat × Int) : Bool := decide (f.1 ≤ 0x0108)

/-- One TIME_REF_CONFIG takes effect: its LV items, and with COMMIT the shadow set as it stands (R75, R11). -/
def applyRef (h : Held) (u : TimeSt) : TimeSt :=
  let live := fmerge u.cfg (ofClass .lv (itemsOf h))
  if commits h then { u with cfg := fmerge live (u.shadow.filter refRow), shadow := u.shadow.filter fun f => !refRow f }
  else { u with cfg := live }

/-- The frequency on REFOUT and whether it comes from the XO, else from the sampling domain (R58); 0 when it is off. -/
def refoutOf (u : TimeSt) : Nat × Bool :=
  let hz := (fget u.cfg 0x0107).toNat
  (hz, decide (19200000 ≤ hz))

/-- A committed discipline set and LV values apply at the whole DT second (R75, R527). -/
def execTimeRefCommitApply (t : DT) (s : State) : Host.Outcome State Fault Refusal :=
  let s := moment t s
  let hs := (waiting 0x0202 0 s).filter fun h => match h.aux with | [_, sec] => decide (sec ≤ dtInt (now s)) | _ => false
  let mode := modeNow s
  let old := refoutOf s.time
  let s := hs.foldl (fun s h => modTime (applyRef h) s) s
  let s := if refoutOf s.time = old then s else emit (.refout (refoutOf s.time).1 (refoutOf s.time).2) s
  let s := if modeNow s = mode then s else restartLoop s
  .next (finishAllC hs (newSlewRate s))

/-! ### References (R54 to R62, R526) -/

/-- REF_LOST with its FAULT Sherd (R37, R40, R344). -/
def refLost (pps hold : Bool) (s : State) : State :=
  let w := if hold then s.time.held else 0
  faultSherd 4 (bit pps) (now s) (now s)
    (raise .refLost [(16, 1, bit pps), (17, 1, discCode s.time.disc), (18, 2, w), (24, 8, dtInt (now s))] s)

/-- REF_RETURN (R59, R61, R344): action 0 slew, 1 step, 2 slew down, 3 not measured. -/
def refReturn (action : Nat) (mean : Int) (s : State) : State :=
  raise .refReturn [(16, 1, bit s.time.returnRef), (17, 1, action), (20, 8, mean)] s

/-- Whether the loop is steering or holding phase, not free or coasting. -/
def tracking (d : Disc) : Bool := d == .acquire || d == .locked || d == .phaseHold || d == .returning

/-- Whether the loop rests: in Dormant the tune word is held, and a reference that qualifies there counts at the wake (R78). -/
def loopRests (s : State) : Bool := s.power.st == .dormant

/-- REFIN is declared lost (R52, R54, R55). -/
def execRefinLost (t : DT) (s : State) : Host.Outcome State Fault Refusal :=
  let s := moment t s
  if !s.time.refinQual then .next s
  else
    let s := modTime (fun u => { u with refinQual := false }) s
    let hold := (modeNow s == 1 || modeNow s == 3) && tracking s.time.disc && !loopRests s
    .next (refLost false hold (if hold then enterHoldover s else s))

/-- PPSIN is declared lost (R52, R54): HOLDOVER in PPS mode, PHASE_HOLD in REFIN_PPS mode. -/
def execPpsinLost (t : DT) (s : State) : Host.Outcome State Fault Refusal :=
  let s := moment t s
  if !s.time.ppsQual then .next s
  else
    let s := modTime (fun u => { u with ppsQual := false }) s
    let hold := modeNow s == 2 && tracking s.time.disc && !loopRests s
    let s :=
      if hold then enterHoldover s
      else if modeNow s == 3 && tracking s.time.disc && !loopRests s then
        modTime (fun u => { u with measuring := false, offsets := [] }) (setDisc .phaseHold s)
      else s
    .next (refLost true hold s)

/-- REFIN counts as qualified (R54, R59, R61). -/
def refinReturns (s : State) : State :=
  if modeNow s = 1 then
    if s.time.disc == .holdover then enterAcquire false (refReturn 3 0 (modTime (fun u => { u with returnRef := false }) s))
    else if s.time.disc == .free then enterAcquire false s else s
  else if modeNow s = 3 then
    if s.time.disc == .holdover then enterReturning false s
    else if s.time.disc == .free then enterAcquire true s else s
  else s

def execRefinQualified (t : DT) (s : State) : Host.Outcome State Fault Refusal :=
  let s := moment t s
  let s := modTime (fun u => { u with refinQual := true }) s
  .next (if loopRests s then s else refinReturns s)

/-- A 1 s REFIN window ends (R526): the tune word moves to cancel the error with a time constant of 10 s, within R56. DESIGN CHOICE (log
entry 57): over the 1 s window that time constant moves the word by one tenth of the error measured. -/
def execRefinSteerWindow (t : DT) (errorPpt : Int) (s : State) : Host.Outcome State Fault Refusal :=
  let s := moment t s
  if (modeNow s == 1 || modeNow s == 3) && s.time.refinQual && tracking s.time.disc && !loopRests s then
    let u := s.time
    let w := u.tune + roundSigned (-errorPpt * 65535) (14000 * fget u.cfg 0x0103)
    .next (checkLocked (modTime (fun u => { (setTune (now s) (approach u.tune w (maxTuneStep u)) u) with freqErr := some errorPpt }) s))
  else .next s

/-- PPSIN has not qualified 10 s after RETURNING (R59). -/
def execReturningPpsTimeout (t : DT) (s : State) : Host.Outcome State Fault Refusal :=
  let s := moment t s
  if s.time.disc == .returning && modeNow s == 3 && !s.time.ppsQual
      && decide (10 * 2 ^ 32 ≤ dtSince s.time.returningSince (now s)) then
    .next (modTime (fun u => { u with measuring := false, offsets := [] }) (setDisc .phaseHold s))
  else .next s

/-- PPSIN qualifies at an edge (R52, R54, R59). -/
def ppsReturns (s : State) : State :=
  let s := modTime (fun u => { u with ppsQual := true, last8 := [], lastEdge := none }) s
  if loopRests s then s
  else if modeNow s = 2 then
    if s.time.disc == .holdover then enterReturning true s
    else if s.time.disc == .free then enterAcquire true s else s
  else if modeNow s = 3 && s.time.disc == .phaseHold then enterReturning true s
  else s

/-- Steering by PPSIN after an accepted edge (R526): y = y_0 − 2x/LOOP_TC − S/LOOP_TC², within R56. An offset beyond SLEW_LIMIT is
left to the decisions of R53 and R59. -/
def steerPps (x : Int) (u : TimeSt) : Int :=
  if slewLimit u < x.natAbs then u.tune
  else
    let tc := fget u.cfg 0x0104
    let n := (-(2 * x * tc) - u.sumX) * 655350000000000
    approach u.tune (u.y0 + roundSigned n (tc * tc * 2 ^ 32 * 14 * fget u.cfg 0x0103)) (maxTuneStep u)

/-- The decision on the mean of 8 offsets (R53, R59, R62): a slew to the reference, a forward step 500 ms later, or a slew down. -/
def decideOffset (mean : Int) (s : State) : State :=
  let returning := s.time.disc == .returning
  let within := returning && decide (mean.natAbs ≤ slewLimit s.time)
  let s := modTime (fun u => { u with measuring := false, offsets := [] }) s
  let s := if returning then refReturn (if within then 0 else if mean < 0 then 1 else 2) mean s else s
  if within then decideSlew (-mean) (rateAdjOf (fget s.time.cfg 0x0106)) true s
  else if mean < 0 then modTime (fun u => { u with fwdStep := some (-mean, dtAdd (now s) (2 ^ 31)) }) s
  else if mean = 0 then s
  else decideSlew (-mean) maxRateAdj false s

/-- The 8-edge measurement advances (R59): it restarts when the offsets spread by more than 10 µs. -/
def measure (s : State) : State :=
  let l := s.time.offsets
  if !s.time.measuring || l.length < 8 then s
  else
    let hi := l.foldl max (l.headD 0)
    let lo := l.foldl min (l.headD 0)
    if 10 * 2 ^ 32 < (hi - lo) * 1000000 then modTime (fun u => { u with offsets := [] }) s
    else decideOffset (ratio l.sum 8) s

/-- The fixed input delay of PPSIN, 4.9 ns (R57, R519). -/
def ppsDelay : Nat := 49 * 2 ^ 32 / 10000000000

/-- The capture of an edge (R57): DT at the 614.4 MHz edge `sub` of the tick, with the input delay removed. -/
def ppsCapture (t : DT) (sub : Fin 4) : Int := dtInt t + (sub.val * 2 ^ 32 / 614400000 : Nat) - ppsDelay

/-- The offset of a capture from the nearest whole DT second, positive when DT is ahead (R57, R59, R526). -/
def ppsOffset (x : Int) : Int := (x + 2 ^ 31) % 2 ^ 32 - 2 ^ 31

/-- The frequency error that two accepted edges show, in 10^-12: the offsets' difference over the whole seconds between them. -/
def edgeError (x y gap : Int) : Int := ratio ((x - y) * 1000000000000) (2 ^ 32 * max 1 ((gap + 2 ^ 31) / 2 ^ 32).toNat)

/-- An accepted PPSIN edge (R54, R57, R526, R53, R59), captured at the 614.4 MHz edge `sub` of the DT tick `t`; AT_PPS commands that wait
take this edge. -/
def execPpsinEdgeAccepted (t : DT) (sub : Fin 4) (s : State) : Host.Outcome State Fault Refusal :=
  let s := moment t s
  let edge := ppsCapture (now s) sub
  let s := if s.time.ppsQual then s else ppsReturns s
  let s := (waiting 0x0200 0 s).foldl (fun s h => match h.aux with
    | [_, 1, _] => modHeld h.id (fun x => { x with aux := [1, 1, 1] }) s
    | _ => s) s
  let x := ppsOffset edge + s.time.phaseRef
  let prev := s.time.lastEdge.map fun d => (s.time.lastOffset, edge - d)
  let s := modTime (fun u => { u with
    lastOffset := x,
    lastEdge := some edge,
    last8 := (x :: u.last8).take 8,
    sumX := u.sumX + x,
    offsets := if u.measuring then u.offsets ++ [x] else u.offsets }) s
  let s :=
    if modeNow s == 2 && tracking s.time.disc && !loopRests s then
      modTime (fun u => { (setTune (now s) (steerPps x u) u) with
        freqErr := match prev with
          | some (y, gap) => some (edgeError x y gap)
          | none => u.freqErr }) s
    else s
  .next (if loopRests s then s else checkLocked (measure s))

/-- A forward step that the offset decision ordered (R53, R59, R60). -/
def execDtForwardStep (t : DT) (s : State) : Host.Outcome State Fault Refusal :=
  let s := moment t s
  .next (match s.time.fwdStep with
    | some (d, due) =>
      if due.toNat ≤ (now s).toNat then corrected (stepDt (BitVec.ofInt 64 (dtInt (now s) + d)) 3 s) else s
    | none => s)

/-- One tick of the DT clock in 2^-32 s, rounded up: 6.51 ns, or 26.04 ns on the backup count (R45, R51). -/
def tickSpan (u : TimeSt) : Nat := if u.backup then 112 else 28

/-- PPSOUT rises at the first edge at or after a whole DT second and falls after PPSOUT_WIDTH (R58): a rise is due on the tick that
reaches the second. -/
def execPpsoutPulse (t : DT) (s : State) : Host.Outcome State Fault Refusal :=
  let s := moment t s
  .next (match s.time.ppsHigh with
    | some r =>
      if usDt (fget s.time.cfg 0x0108).toNat ≤ dtSince r (now s) then
        emit (.pps false) (modTime (fun u => { u with ppsHigh := none }) s)
      else s
    | none => if s.time.running && decide ((now s).toNat % 2 ^ 32 < tickSpan s.time) then emit (.pps true) (modTime (fun u => { u with ppsHigh := some (now s) }) s) else s)

/-! ### Sampling PLLs (R63 to R72) -/

/-- The number of the inactive PLL. -/
def sparePll (u : TimeSt) : Fin 2 := if u.activeB then 0 else 1
def activePll (u : TimeSt) : Fin 2 := if u.activeB then 1 else 0

/-- The comparison frequency in hertz of a REF_MULT setting (R63). -/
def compHz (mult : Nat) : Nat :=
  match mult with
  | 0 => 38400000
  | 1 => 76800000
  | _ => 19200000

/-- N of a REF_MULT setting (R63): the VCO runs at 4.9152 GHz. -/
def pllN (mult : Nat) : Nat := 4915200000 / compHz mult

/-- The charge-pump current of a PLL in µA (R63): ICP in steps of 0.2 mA, or the default of its REF_MULT, which scales with N. -/
def chargePump (p : Pll) : Nat := if p.icp = 0 then 25 * pllN p.refMult / 2 else 200 * p.icp

/-- The LOCKx pin takes 0.51 ms to fall from 1.0 V to the comparator's 0.60 V (R67). -/
def lockFall : Nat := usDt 510

/-- The LOCKx comparator of a PLL as it reads at `t` (R66, R67, R505): high until 0.51 ms after the detector stopped charging its pin. -/
def Pll.cmpAt (t : DT) (p : Pll) : Bool :=
  p.cmp && (match p.unlockAt with | some d => decide (dtSince d t < lockFall) | none => true)

/-- A comparator that has fallen by now is taken as fallen, and its FELL bit latched (R506). -/
def settleLock (b : Fin 2) (s : State) : State :=
  let p := s.time.plls[b]
  if p.cmp && !p.cmpAt (now s) then
    modPower (fun p => { p with latched := p.latched ||| BitVec.twoPow 5 b.val })
      (modPll b (fun p => { p with cmp := false, unlockAt := none }) s)
  else s

/-- A PLL is in lock no more: its LOCKx pin begins to fall (R67). -/
def Pll.unlock (t : DT) (p : Pll) : Pll :=
  { p with declared := false, unlockAt := if p.cmp then some (p.unlockAt.getD t) else none }

/-- SPLL_LOST (R70, R344): reason 0 SPARE, 1 BOTH. -/
def spllLost (reason : Nat) (b : Fin 2) (s : State) : State := raise .spllLost [(16, 1, reason), (17, 1, b.val), (24, 8, dtInt (now s))] s

/-- SPLL_SWITCH fields (R344): cause 0 loss, 1 planned. -/
def switchFields (b : Bool) (cause n : Nat) (s : State) : List (Nat × Nat × Int) :=
  [(16, 1, bit b), (17, 1, cause), (18, 2, n), (24, 8, dtInt (now s))]

/-- The other PLL becomes active (R64, R69): the active REF_MULT and ICP are its own. -/
def switchPll (s : State) : State :=
  modTime (fun u =>
    let b := !u.activeB
    let p := u.plls[if b then (1 : Fin 2) else 0]
    { u with
      activeB := b,
      spareAligned := false,
      switchedAt := some (now s),
      cfg := fset (fset u.cfg 0x0109 p.refMult) 0x010A p.icp }) s

/-- A planned switch (R64): no samples are substituted. -/
def plannedSwitch (s : State) : State :=
  let s := switchPll s
  raise .spllSwitch (switchFields s.time.activeB 1 0 s) s

/-- A PLL is reconfigured (R64): it stops being the spare until it is declared and aligned again. -/
def reconfigure (b : Fin 2) (mult icp : Nat) (s : State) : State :=
  let s := settleLock b s
  modPll b (fun p => { (p.unlock (now s)) with running := true, lost := false, refMult := mult, icp := icp }) s

/-- A PLL is stopped. -/
def stopPll (b : Fin 2) (s : State) : State :=
  let s := settleLock b s
  modPll b (fun p => { (p.unlock (now s)) with running := false, lost := false }) s

/-- Ends the running TIME_PLL_CONFIG (R64, R336); a change of REF_MULT is stored (R441). -/
def endPllSeq (st : Status) (s : State) : State :=
  match s.time.pllSeq with
  | some q =>
    let s := modTime (fun u => { u with pllSeq := none }) s
    let s := if q.stage != 0 then askStore .refMult none s else s
    finishId q.cmd st (if st = .ok then [(16, 1, bit s.time.activeB), (24, 8, dtInt (now s))] else []) s
  | none => s

/-- Both PLLs are lost (R70, R71): DT moves to the backup count, the paths enter HOLD. -/
def loseBoth (b : Fin 2) (s : State) : State :=
  let t := now s
  let s := modPortSt (fun o => { o with dividers := Vector.ofFn fun (k : Fin 4) => o.dividers[k].catchUp k.val t }) s
  let s := modTime (fun u => { u with bothLost := true, backup := true, spareAligned := false }) s
  holdAll (spllLost 1 b s)

/-- The audio dividers run on the new active PLL (R71, R291): their edges count in DT again from now. What they counted on the drifting VCO
the spec does not tell: they count nothing there (DESIGN CHOICE, log entry 73). -/
def dividersAgain (s : State) : State :=
  let t := now s
  modPortSt (fun o => { o with
    toMove := false, dividers := o.dividers.map fun x => if x.running then { x with startAt := t, edges := 0 } else x }) s

/-- The dividers move to the new active PLL at the next block boundary of a port (R71, R291), or at once while no port runs. -/
def moveDividers (s : State) : State :=
  if (List.finRange 14).any fun p => s.port.ports[p].grid.isSome then modPortSt (fun o => { o with toMove := true }) s else dividersAgain s

def specTimePllConfig : Spec :=
  { itemCmd 0x0203 tZero [(1, 1)] (fun f => 0x0109 ≤ f && f ≤ 0x010B) with
    bits := [(0, 3)]
    range := fun _ _ a => itemOffences (fun f => 0x0109 ≤ f && f ≤ 0x010B) (fun _ _ => true) a
      ++ oneOf a 1 [0, 1] ++ require (itemAction a != 1 || itemCount a == 0) 2 }

/-- A commit of REF_MULT, ICP and SPARE_EN (R64, R65). In place under ALLOW_HIT, SPARE_EN 0 stops the other PLL at once. -/
def commitPll (h : Held) (new : FieldSet) (s : State) : State :=
  let u := s.time
  let mult := (fget new 0x0109).toNat
  let icp := (fget new 0x010A).toNat
  let changes := mult != (fget u.cfg 0x0109).toNat || icp != (fget u.cfg 0x010A).toNat
  let was := fget u.cfg 0x010B == 1
  let on := fget new 0x010B == 1
  let keep (s : State) : State := modTime (fun u => { u with shadow := u.shadow.filter refRow }) s
  let sp := sparePll u
  let seq (stage : Nat) (s : State) : State := begin_ h (modTime (fun u => { u with
    pllSeq := some { cmd := h.id, stage := stage, refMult := mult, icp := icp, stopOld := !on } }) s)
  let done (s : State) : State := finish h .ok [(16, 1, bit s.time.activeB), (24, 8, dtInt (now s))] s
  let setEn (s : State) : State := modTime (fun u => { u with cfg := fset u.cfg 0x010B (bit on) }) s
  if !changes then
    if was == on then done (keep s)
    else if on then seq 0 (reconfigure sp mult icp (setEn (keep s)))
    else done (stopPll sp (modTime (fun u => { u with spareAligned := false }) (setEn (keep s))))
  else if (on && !was) || u.spareAligned then
    seq 1 (reconfigure sp mult icp (modTime (fun u => { u with spareAligned := false }) (if on then setEn (keep s) else keep s)))
  else if itemAllowHit (Entry.args h.entry) then
    let a := activePll u
    let s := loseBoth a (setEn (keep s))
    seq 5 (reconfigure a mult icp (if on then s else stopPll sp s))
  else reject h .errState s

/-- TIME_PLL_CONFIG begins (R64, R65). -/
def doTimePllConfig (h : Held) (s : State) : State :=
  let a := Entry.args h.entry
  if itemAction a = 1 then
    if s.time.spareAligned then
      let s := modTime (fun u => { u with spareAligned := true, switchedAt := none }) (plannedSwitch s)
      finish h .ok [(16, 1, bit s.time.activeB), (24, 8, dtInt (now s))] s
    else reject h .errState s
  else if commits h then
    commitPll h (fmerge s.time.cfg (fmerge (s.time.shadow.filter fun f => !refRow f) (itemsOf h))) s
  else finishStaged h (modTime (fun u => { u with shadow := fmerge u.shadow (itemsOf h) }) s)

def execTimePllConfig (e : Entry) (s : State) : Host.Outcome State Fault Refusal :=
  .next (hostCmd (.timePllConfig e) specTimePllConfig doTimePllConfig e s)

/-- The contexts' sources return after a loss of both PLLs: each path restarts with a synchronising reset (R71). -/
def resumeAll (s : State) : State :=
  (List.finRange 64).foldl (fun s p => if delivers s.cx.paths[p].source s then resumePath p s else s) s

/-- Whether a declared PLL ends the loss of both: the first one does (R71), under ALLOW_HIT the one reconfigured in place (R65). -/
def endsLoss (b : Bool) (u : TimeSt) : Bool :=
  u.bothLost && (match u.pllSeq with | some q => q.stage != 5 || u.activeB == b | none => true)

/-- A PLL is declared locked (R51, R65, R66, R71): after the loss of both the first one becomes active, and DT moves to it. -/
def execSpllLockDeclared (t : DT) (pllB : Bool) (s : State) : Host.Outcome State Fault Refusal :=
  let s := moment t s
  let b : Fin 2 := if pllB then 1 else 0
  if !s.time.plls[b].running then .next s
  else
    let s := modPll b (fun p => { p with cmp := true, declared := true, lost := false, unlockAt := none }) (settleLock b s)
    if endsLoss pllB s.time then
      let s := if s.time.activeB = pllB then s else switchPll s
      let s := modTime (fun u => { u with
        bothLost := false,
        vcoStopped := false,
        backup := false,
        cfg := fset (fset u.cfg 0x0109 u.plls[b].refMult) 0x010A u.plls[b].icp }) s
      let s := resumeAll (moveDividers s)
      .next (match s.time.pllSeq with
        | some q => if q.stage = 5 then endPllSeq .ok s else s
        | none => s)
    else .next (if s.time.activeB = pllB ∧ s.time.bothLost = false then modTime (fun u => { u with backup := false }) s else s)

/-- Spare alignment completes (R64, R68). -/
def execSpareAlignmentDone (t : DT) (s : State) : Host.Outcome State Fault Refusal :=
  let s := moment t s
  let sp := sparePll s.time
  if !s.time.plls[sp].declared || s.time.bothLost || s.time.phaseCmd.isSome then .next s
  else
    let s := modTime (fun u => { u with spareAligned := true, switchedAt := none }) s
    .next (match s.time.pllSeq with
      | some q =>
        if q.stage = 1 then
          let s := plannedSwitch s
          let old := sparePll s.time
          if q.stopOld then
            endPllSeq .ok (stopPll old (modTime (fun u => { u with cfg := fset u.cfg 0x010B 0, switchedAt := none }) s))
          else
            reconfigure old q.refMult q.icp (modTime (fun u => { u with pllSeq := some { q with stage := 4 } }) s)
        else endPllSeq .ok s
      | none => s)

/-- The reconfigured PLL of a sequence fails (R64): SPLL_LOST with reason SPARE, HW_FAULT; it makes re-lock attempts. -/
def failPllSeq (s : State) : State :=
  let b := sparePll s.time
  endPllSeq .hwFault (spllLost 0 b (modPll b (fun p => { p with lost := true }) s))

/-- A reconfigured PLL is not declared and aligned within 10 ms (R64). DESIGN CHOICE (log entry 58): an in-place reconfiguration under
ALLOW_HIT that has not locked by then ends with HW_FAULT too. -/
def execSpllReconfigTimeout (t : DT) (s : State) : Host.Outcome State Fault Refusal :=
  let s := moment t s
  .next (match s.time.pllSeq with
    | some q => if q.stage = 5 then endPllSeq .hwFault s else failPllSeq s
    | none => s)

/-- The samples that the spare substitutes at a loss (R69): those of two comparison periods at 614.4 MS/s. -/
def substituted (mult : Nat) : Nat := 2 * (614400000 / compHz mult)

/-- The detector flags the active PLL (R69, R71): the aligned spare takes over; without one both are lost, and where the VCO itself
stops the outputs stop with it. -/
def execActiveSpllFlagged (t : DT) (vcoStops : Bool) (s : State) : Host.Outcome State Fault Refusal :=
  let s := moment t s
  let a := activePll s.time
  if !s.time.plls[a].declared then .next s
  else
    let s := modPll a (fun p => { (p.unlock (now s)) with lost := true }) (settleLock a s)
    if s.time.spareAligned then
      let n := substituted s.time.plls[a].refMult
      let s := switchPll s
      let f := switchFields s.time.activeB 0 n s
      .next (evSherd 0x0011 0xFFFF (result f) (raise .spllSwitch f s))
    else
      .next (endPllSeq .hwFault (loseBoth a (modTime (fun u => { u with vcoStopped := vcoStops }) s)))

/-- The spare is flagged or loses its declaration (R64, R70). While the active PLL is reconfigured in place there is no spare to lose. -/
def execSpareSpllFlagged (t : DT) (s : State) : Host.Outcome State Fault Refusal :=
  let s := moment t s
  let b := sparePll s.time
  if !s.time.plls[b].running then .next s
  else
    let s := modPll b (fun p => { (p.unlock (now s)) with lost := true }) (settleLock b s)
    let was := s.time.spareAligned
    let s := modTime (fun u => { u with spareAligned := false }) s
    .next (match s.time.pllSeq with
      | some q => if q.stage = 5 then s else failPllSeq s
      | none => if was then spllLost 0 b s else s)

/-- The inactive PLL has not become the spare within 1 s of the switch (R70). -/
def execSpareAlignTimeout (t : DT) (s : State) : Host.Outcome State Fault Refusal :=
  let s := moment t s
  .next (match s.time.switchedAt with
    | some w =>
      if !s.time.spareAligned && fget s.time.cfg 0x010B == 1 && decide (2 ^ 32 ≤ dtSince w (now s)) then
        spllLost 0 (sparePll s.time) (modTime (fun u => { u with switchedAt := none }) s)
      else s
    | none => s)

/-- A lost PLL attempts to re-lock (R69): it runs again, and its lock declaration is a step of its own. -/
def execSpllRelockAttempt (t : DT) (pllB : Bool) (s : State) : Host.Outcome State Fault Refusal :=
  let s := moment t s
  let b : Fin 2 := if pllB then 1 else 0
  .next (if s.time.plls[b].lost then modPll b (fun p => { p with running := true }) s else s)

/-! ### Fine phase stepping (R73, R74) -/

/-- COUNT of TIME_PHASE_STEP (R73, R336). -/
def phaseCount (a : List Byte) : Int := leInt a 0 2

def specTimePhaseStep : Spec :=
  { plain 0x0204 2 tZero [(0, 2)] with
    range := fun _ _ a => require (decide ((phaseCount a).natAbs ≤ 8192)) 0 }

/-- TIME_PHASE_STEP begins: one step per 16 output cycles (R73). -/
def doTimePhaseStep (h : Held) (s : State) : State :=
  begin_ h (modTime (fun u => { u with phaseCmd := some (h.id, phaseCount (Entry.args h.entry)) })
    (tellPair 4 (phaseCount (Entry.args h.entry)) (now s) s))

def execTimePhaseStep (e : Entry) (s : State) : Host.Outcome State Fault Refusal :=
  .next (hostCmd (.timePhaseStep e) specTimePhaseStep doTimePhaseStep e s)

/-- The last fine step is applied (R73, R74): the loop's phase reference takes up every step, 1/64 of the VCO period each. -/
def execPhaseSteppingDone (t : DT) (s : State) : Host.Outcome State Fault Refusal :=
  let s := moment t s
  .next (match s.time.phaseCmd with
    | some (id, n) =>
      finishId id .ok [(16, 2, n), (24, 8, dtInt (now s))]
        (modTime (fun u => { u with phaseCmd := none, phaseRef := u.phaseRef + ratio (n * 2 ^ 32) 314572800000 }) s)
    | none => s)

/-! ### The tick of the DT clock (R45, R51) -/

/-- One tick: DT advances by 1 832 519 + RATE_ADJ units of 2^-48 s and the carry of the modulo-9375 residue; the backup count
advances by four times as much. -/
def tickTime (u : TimeSt) : TimeSt :=
  let k : Nat := if u.backup then 4 else 1
  let r := u.residue + 3559 * k
  let acc : Int := (u.dt.toNat * 65536 + u.dtLow.toNat : Nat) + (k : Int) * (1832519 + u.rateAdj) + (r / 9375 : Nat)
  { u with
    dt := BitVec.ofInt 64 (acc / 65536),
    dtLow := BitVec.ofInt 16 acc,
    residue := r % 9375 }

/-- One tick of the device's time; class 6 follows it (R32), and a decided slew whose instant has come begins (R471). While DT does not run
nothing happens. -/
def tick (s : State) : State := if s.time.running then applyDecided (accrue (modTime tickTime s)) else s

end Sys2Proof.Machine
end

