-- ==== Sys2Proof/Machine/Rf.lean ====
section
/-!
DEFINITION. Rf.lean: the wideband inputs with their gain control, and the band carvers (R79 to R99).
-/
namespace Sys2Proof.Machine

/-! ### Gain (R79, R82 to R86, R103) -/

/-- LNA gain and attenuation for an input gain G (R79). -/
def ladder (g : Int) : Int × Int := if 13 ≤ g then (20, 20 - g) else if 1 ≤ g then (12, 12 - g) else (0, -g)

/-- Full scale in dBm for an input gain (R79). -/
def fullScale (g : Int) : Int := -1 - g

/-- LNA and IF amplifier of a tuner for G_T (R103): the LNA at the highest setting that the gain allows. -/
def tunerLadder (g : Int) : Int × Int := if 30 ≤ g then (30, g - 30) else if 15 ≤ g then (15, g - 15) else (0, g)

/-- The calibrated gain of an input at G in 0.01 dB: the true sizes of the LNA setting and of the attenuator steps in use (R84, R88). -/
def WbIn.calGain (x : WbIn) (g : Int) : Int :=
  let l := ladder g
  (if l.1 = 20 then x.lna.2 else if l.1 = 12 then x.lna.1 else 0) - (x.att.take l.2.toNat).foldl (· + ·) 0

/-- A wideband input at a new gain: the opposite digital gain follows on the same sample, on both front ends (R84). -/
def WbIn.toGain (g : Int) (x : WbIn) : WbIn := { x with gain := g, digital := x.digital - (x.calGain g - x.calGain x.gain) }

/-- A tuner at a new gain, compensated digitally (R103). -/
def Tuner.toGain (g : Int) (x : Tuner) : Tuner := { x with gain := g, digital := x.digital - (g - x.gain) }

/-- The last 64 gain changes, newest first (R85). -/
def logGain (t : DT) (old new : Int) (cause : Nat) (l : List GainChange) : List GainChange :=
  if old = new then l else ({ dt := t, old := old, new := new, cause := cause } :: l).take 64

/-- The gain control of an input: fields, gain, range, and whether it can move now. -/
structure GainView where
  auto : Bool
  target : Int
  hold : Nat
  count : Nat
  step : Int
  gain : Int
  lo : Int
  hi : Int
  holdFrom : Option DT
  live : Bool
  read : Bool
  deriving DecidableEq, Repr

/-- The view of an input; times in 2^-32 s, the target in dBFS (R82, R97, R103, R127). In Dormant the converters are powered down (R99). -/
def gainView (i : GainInput) (s : State) : GainView :=
  let powered := s.power.st != .dormant || s.power.waking
  match i with
  | .wb i =>
    let x := s.rf.wb[i]
    { auto := fget x.cfg 0x0201 == 0, target := fget x.cfg 0x0203, hold := (fget x.cfg 0x0204).toNat * 2 ^ 32,
      count := (fget x.cfg 0x0205).toNat, step := fget x.cfg 0x0206, gain := x.gain, lo := -30, hi := 20, holdFrom := x.holdFrom,
      live := fget x.cfg 0x0200 == 1 && powered, read := jobReadsInput i s }
  | .pt n =>
    let x := s.rf.tuners[n]
    { auto := fget x.cfg 0x0406 == 0, target := fget x.cfg 0x0408, hold := msDt (fget x.cfg 0x0409).toNat,
      count := (fget x.cfg 0x040A).toNat, step := fget x.cfg 0x040B, gain := x.gain, lo := 0, hi := 60, holdFrom := x.holdFrom,
      live := x.st == .rx, read := jobReadsTuner n s }

/-- The window of the slow loop in µs (R82, R103). -/
def agcWindow : GainInput → Nat
  | .wb _ => 100000
  | .pt _ => 10000

/-- A gain step that lowers passes to the tap of every running job whose path `reads` names, with its sample stamp (R86). -/
def markGain (reads : Fin 64 → Bool) (s : State) : State :=
  modSg (fun g => { g with jobs := g.jobs.map fun j =>
    if j.running && (match j.path with | some p => reads p | none => false) then { j with gainSteps := j.gainSteps ++ [now s] } else j }) s

/-- Whether a path is fed from an input. -/
def fedFrom (i : GainInput) (s : State) (p : Fin 64) : Bool :=
  match i, srcCarver s.cx.paths[p].source, srcTuner s.cx.paths[p].source with
  | .wb i, some c, _ => carverInput s.rf.carvers[c] == some i
  | .pt n, _, some k => k == n
  | _, _, _ => false

/-- Changes the gain of an input with its cause (0 slow loop, 1 overload, 2 command) and its history; the digital gain takes the opposite
step (R84), a running blind firing discards its block (R89, R459), and a step that lowers marks the taps (R86). -/
def setGain (i : GainInput) (g : Int) (cause : Nat) (holdFrom : Option DT) (s : State) : State :=
  let old := (gainView i s).gain
  let s := if g < old then markGain (fedFrom i s) s else s
  match i with
  | .wb i =>
    let s := if g = old then s else modFiring 3 i.val (fun f => if f.running then { f with discarded := f.discarded + 1 } else f) s
    modWb i (fun x => { (x.toGain g) with holdFrom := holdFrom, history := logGain (now s) x.gain g cause x.history }) s
  | .pt n =>
    let s := if g = old then s else modFiring 2 n.val (fun f => if f.running then { f with discarded := f.discarded + 1 } else f) s
    modTuner n (fun x => { (x.toGain g) with holdFrom := holdFrom, history := logGain (now s) x.gain g cause x.history }) s

def setHold (i : GainInput) (f : Option DT) (s : State) : State :=
  match i with
  | .wb i => modWb i (fun x => { x with holdFrom := f }) s
  | .pt n => modTuner n (fun x => { x with holdFrom := f }) s

/-- A window of the slow loop ends (R82, R103): `peak` in 0.01 dBFS. A window that the loop does not measure interrupts the hold. -/
def execAgcWindowEnd (t : DT) (input : GainInput) (peak : Int) (s : State) : Host.Outcome State Fault Refusal :=
  let s := moment t s
  let v := gainView input s
  .next (if !v.live || !v.auto then setHold input none s
    else if (v.target + 2) * 100 < peak then setGain input (max v.lo (v.gain - 1)) 0 none s
    else if peak < (v.target - 4) * 100 then
      setHold input (some (v.holdFrom.getD (BitVec.ofNat 64 ((now s).toNat - usDt (agcWindow input))))) s
    else setHold input none s)

/-- AGC_HOLD has passed with every window peak below the target: G rises by 1 dB and the hold restarts; no step that raises G is
taken while a Saggar job reads the input (R82, R86, R103). -/
def execAgcHoldExpiry (t : DT) (input : GainInput) (s : State) : Host.Outcome State Fault Refusal :=
  let s := moment t s
  let v := gainView input s
  .next (match v.holdFrom with
    | some f =>
      if v.live && v.auto && decide (v.hold ≤ dtSince f (now s)) && !v.read && decide (v.gain < v.hi) then
        setGain input (v.gain + 1) 0 (some (now s)) s
      else s
    | none => s)

/-- Counts clipped samples and an overload step of an input (R85, R334). -/
def countClipped (i : GainInput) (n steps : Nat) (s : State) : State :=
  match i with
  | .wb i => modWb i (fun x => { x with clipped := x.clipped + n, overloads := x.overloads + steps, clippedSinceCal := x.clippedSinceCal || decide (0 < n) }) s
  | .pt k => modTuner k (fun x => { x with clipped := x.clipped + n, overloads := x.overloads + steps }) s

/-- OVL_COUNT clipped samples fell in a window (R83, R103): the gain falls at once by OVL_STEP, within its range; the slow loop
restarts its hold. -/
def execOverloadTrip (t : DT) (input : GainInput) (clipped : Nat) (s : State) : Host.Outcome State Fault Refusal :=
  let s := moment t s
  let v := gainView input s
  .next (if !v.live then s
    else if clipped < v.count then countClipped input clipped 0 s
    else setGain input (max v.lo (v.gain - v.step)) 1 none (countClipped input clipped 1 s))

/-! ### RF_WB_CONFIG (R82, R86, R92, R97) -/

/-- Whether a target names an object of the secondary: the unit's number plus 0x0100 (R473). -/
def remoteUnit (t : Nat) : Bool := decide (0x100 ≤ t)

def specRfWbConfig : Spec :=
  { itemCmd 0x0300 (tUnit 2) [] (fun f => 0x0200 ≤ f && f ≤ 0x0206) with remote := remoteUnit }

/-- Whether an input runs: a carver takes its stream (R92, R97). -/
def inputRuns (i : Fin 2) (s : State) : Bool :=
  (List.finRange 8).any fun c => carverInput s.rf.carvers[c] == some i

/-- Applies items of RF_WB_CONFIG; a commanded GAIN sets G and restarts the hold (R82), as a change of GAIN_MODE or INPUT_EN does. -/
def applyWb (i : Fin 2) (l : FieldSet) (s : State) : State :=
  let s := modWb i (fun x => { x with
    cfg := fmerge x.cfg l,
    holdFrom := if fhas l 0x0200 || fhas l 0x0201 then none else x.holdFrom }) s
  if fhas l 0x0202 then setGain (.wb i) (fget l 0x0202) 2 none s else s

/-- Whether a command's items would raise G. -/
def wbRaises (i : Fin 2) (h : Held) (s : State) : Bool := fhas (itemsOf h) 0x0202 && decide (s.rf.wb[i].gain < fget (itemsOf h) 0x0202)

/-- RF_WB_CONFIG begins: BUSY_RUNNING for INPUT_EN of a running input (R14, R97), deferred whole while a Saggar job reads the input
and an item would raise G (R86). Its items wait for the frame boundary of the input (R11), where all that wait apply at once and of one
field the last value alone (R12). -/
def doRfWbConfig (h : Held) (s : State) : State :=
  match idx 2 h.entry.target.toNat with
  | some i =>
    let l := itemsOf h
    if fhas l 0x0200 && inputRuns i s then reject h .busyRunning s
    else if wbRaises i h s && jobReadsInput i s then deferCmd h [] s
    else if !parked h then park h [] s
    else
      let locked (x : Held) : Bool := fhas (itemsOf x) 0x0200 && inputRuns i s
      let all := (waitingNow 0x0300 i.val s).filter fun x => !wbRaises i x s || !jobReadsInput i s
      let hs := all.filter fun x => !locked x
      (all.filter locked).foldl (fun s x => reject x .busyRunning s) (finishAllC hs (applyWb i (lastValues hs) s))
  | none => s

def execRfWbConfig (e : Entry) (s : State) : Host.Outcome State Fault Refusal :=
  .next (hostCmd (.rfWbConfig e) specRfWbConfig doRfWbConfig e s)

/-! ### RF_CARVER_SET (R90 to R96, R98) -/

def specRfCarverSet : Spec :=
  { itemCmd 0x0301 (tUnit 8) [] (fun f => 0x0300 ≤ f && f ≤ 0x0302) with remote := remoteUnit }

/-- Result of RF_CARVER_SET (R337). -/
def carverResult (set : FieldSet) (s : State) : List (Nat × Nat × Int) :=
  let f := carverCentre (fget set 0x0301)
  [(16, 4, f / 65536), (20, 2, f % 65536), (22, 2, carverGroupDelay set s), (24, 8, dtInt (now s))]

/-- Whether this unit receives a peer stream: joined, exported by the peer, over a link that carries it, and not stopped or shed (R92, R93,
R465, R467). -/
def peerStream (b : Bool) (s : State) : Bool :=
  s.pair.role != 0 && s.pair.exportIn.getLsbD (bit b) && !s.pair.stoppedIn.getLsbD (bit b)
    && [LinkState.training, .up, .degraded].contains s.pair.link

/-- Whether a carver's SOURCE can be taken (R92). -/
def sourceOk (src : Int) (s : State) : Bool :=
  match src with
  | 0 => true
  | 1 => fget s.rf.wb[0].cfg 0x0200 == 1
  | 2 => fget s.rf.wb[1].cfg 0x0200 == 1
  | 3 => peerStream false s
  | _ => peerStream true s

/-- The active set of a carver as a command's commit would leave it. -/
def carverNew (c : Fin 8) (h : Held) (s : State) : FieldSet :=
  let x := s.rf.carvers[c]
  (applyItems h (x.cfg, x.shadow)).1

/-- Whether a commit changes SOURCE or NCO_FREQ. -/
def carverMoves (c : Fin 8) (new : FieldSet) (s : State) : Bool :=
  let x := s.rf.carvers[c].cfg
  fget new 0x0300 != fget x 0x0300 || fget new 0x0301 != fget x 0x0301

/-- Whether a commit would stop a carver that feeds an open path (R98). -/
def stopsFed (c : Fin 8) (new : FieldSet) (s : State) : Bool :=
  fget new 0x0300 == 0 && fget s.rf.carvers[c].cfg 0x0300 != 0 && !(pathsOn c.val s).isEmpty

/-- The RF frequency and half band of what a path receives: that of its context, or of the seamless switch that opened it (R234). -/
def pathBand (p : Fin 64) (s : State) : Nat × Nat :=
  match ctxOf p s with
  | some c =>
    let x := s.cx.ctxs[c]
    (match x.afSwitch with
      | some w => if w.path = some p then w.freq else x.freq
      | none => x.freq, halfBand x.std x.cfg)
  | none => (0, 0)

/-- RF_CARVER_SET begins (R14, R92, R96, R98). DESIGN CHOICE (log entry 62): without COMMIT a SOURCE is staged whether or not it is
available now; its availability is judged at the commit. DESIGN CHOICE (log entry 97): a commit is judged for ERR_STATE as it is accepted,
before a Saggar job defers it, and again at the boundary at which it applies. -/
def doRfCarverSet (h : Held) (s : State) : State :=
  match idx 8 h.entry.target.toNat with
  | some c =>
    let l := itemsOf h
    let new := carverNew c h s
    if c.val = 7 && s.cx.profile = 1 then reject h .noResource s
    else if fhas l 0x0302 && fget s.rf.carvers[c].cfg 0x0300 != 0 then reject h .busyRunning s
    else if !commits h then
      finishStaged h (modCarver c (fun x => { x with
        cfg := fmerge x.cfg (ofClass .lk l),
        shadow := fmerge x.shadow (ofClass .st l) }) s)
    else if !sourceOk (fget new 0x0300) s || stopsFed c new s then reject h .errState s
    else if carverMoves c new s && jobReadsCarver c s then deferCmd h [] s
    else park h [] s
  | none => s

def execRfCarverSet (e : Entry) (s : State) : Host.Outcome State Fault Refusal :=
  .next (hostCmd (.rfCarverSet e) specRfCarverSet doRfCarverSet e s)

/-- A commit that changes only NCO_FREQ (R94): the paths' own NCOs take the opposite step, exact in path NCO steps. -/
def retuneCarver (c : Fin 8) (new : FieldSet) (s : State) : State :=
  let d := (fget new 0x0301 - fget s.rf.carvers[c].cfg 0x0301) * fget new 0x0302
  (pathsOn c.val s).foldl (fun s p => modPath p (fun x => { x with wp := x.wp - d }) s) s

/-- Every dependent path starts afresh on the carver's new stream (R95, R147). -/
def restartCarverPaths (c : Fin 8) (s : State) : State :=
  (pathsOn c.val s).foldl (fun s p =>
    let s := modPath p (fun x => { x with wp := pathWord (srcOffset c.val (pathBand p s).1 s) x.fin }) s
    if s.cx.paths[p].run == .hold then (if delivers c.val s then resumePath p s else s) else resetPath p s) s

/-- Applies a carver commit at its frame boundary, judged afresh (R94 to R96). -/
def commitCarver (c : Fin 8) (s : State) (h : Held) : State :=
  let old := s.rf.carvers[c]
  let new := carverNew c h s
  let keep (s : State) : State := modCarver c (fun x => { x with shadow := fmerge x.shadow (ofClass .st (itemsOf h)) }) s
  let bad := !sourceOk (fget new 0x0300) s || stopsFed c new s
  let sourceChange := fget new 0x0300 != fget old.cfg 0x0300
  let outside := !sourceChange && fget new 0x0301 != fget old.cfg 0x0301 && (pathsOn c.val s).any fun p =>
    !bandCovers (fget new 0x0301) (fget new 0x0302) (pathBand p s).1 (pathBand p s).2
  if carverMoves c new s && jobReadsCarver c s then if h.deferred then s else deferCmd h [] s
  else if bad || outside then reject h .errState (keep s)
  else
    let s := if sourceChange then s else retuneCarver c new s
    let s := modCarver c (fun x => { x with
      cfg := new, shadow := [], stopped := if sourceChange then false else x.stopped, resumes := x.resumes && !sourceChange }) s
    let s := if sourceChange then restartCarverPaths c s else s
    let s := emit (.carverStep c.val (carverCentre (fget new 0x0301)).toNat) s
    finish h .ok (carverResult new s) s

/-- The commits of a carver that wait: parked, or deferred by a Saggar job that no longer reads it (R96). -/
def carverCmds (c : Fin 8) (s : State) : List Held :=
  s.host.held.filter fun h => h.op == 0x0301 && h.entry.target.toNat == c.val && ((parked h && !late h s) || (h.deferred && !jobReadsCarver c s))

/-- A carver whose shed stream has come back runs again; its paths leave HOLD with a synchronising reset (R465). -/
def resumeCarver (c : Fin 8) (s : State) : State :=
  if s.rf.carvers[c].resumes then
    let s := modCarver c (fun x => { x with stopped := false, resumes := false }) s
    (pathsOn c.val s).foldl (fun s p => if delivers s.cx.paths[p].source s then resumePath p s else s) s
  else s

/-- A carver's frame boundary, at which commits apply (R94 to R96) and a stream that has come back is taken again (R465). -/
def execCarverFrameCommit (t : DT) (c : Fin 8) (s : State) : Host.Outcome State Fault Refusal :=
  let s := moment t s
  .next ((carverCmds c s).foldl (commitCarver c) (resumeCarver c s))

/-- A peer converter stream stops (R93): the carvers that use it output nothing and their paths enter HOLD. -/
def stopStream (b : Bool) (s : State) : State :=
  let cs := (List.finRange 8).filter fun c => carverSource c s == 3 + (bit b : Int)
  let s := cs.foldl (fun s c => modCarver c (fun x => { x with stopped := true, resumes := false }) s) s
  let ps := cs.flatMap fun c => pathsOn c.val s
  ps.foldl (fun s p => loseSource p s) (modPair (fun p => { p with stoppedIn := p.stoppedIn ||| BitVec.twoPow 2 (bit b) }) s)

def execPeerStreamStop (t : DT) (streamB : Bool) (s : State) : Host.Outcome State Fault Refusal :=
  .next (stopStream streamB (moment t s))

end Sys2Proof.Machine
end

