-- ==== Sys2Proof/Machine/Tuner.lean ====
section
/-!
DEFINITION. Tuner.lean: the pointed tuners with their tables, channel changes, probes and retries (R100 to R121, R127), and the
Slip with supervision (R122 to R126, R128).
-/
namespace Sys2Proof.Machine

/-! ### Settled tuners, ends of commands -/

/-- Whether a tuner is settled: in RX with no calibration running (R108). -/
def settled (t : Tuner) : Bool := t.st == .rx && t.change.isNone && !t.calibrating

/-- The tuner that a command names. -/
def tunerOf (h : Held) : Option (Fin 4) := idx 4 h.entry.target.toNat

/-- Result of a SET of RF_PT_STATE whose transition ran no channel change (R337). -/
def stateResult (st : TState) (s : State) : List (Nat × Nat × Int) :=
  [(16, 1, tstateCode st), (17, 7, 0xFFFFFFFFFFFFFF), (24, 8, dtInt (now s))]

/-- The code of a calibration outcome in results of R337. -/
def outcomeCode : CalOutcome → Nat
  | .ok => 0
  | .unsuitable => 1
  | .implausible => 2
  | .storeFailed => 0

/-! ### RF_PT_STATE (R108 to R110, R337) -/

def specRfPtState : Spec :=
  { plain 0x0302 0 (tUnit 4) [] with
    remote := remoteUnit
    extent := fun a => if le a 0 1 = 0 then 2 else 1
    used := fun a => if le a 0 1 = 0 then [(0, 2)] else [(0, 1)]
    range := fun _ _ a => oneOf a 0 [0, 1] ++ if le a 0 1 = 0 then oneOf a 1 [0, 1, 3] else [] }

/-- Byte 2 of a recall entry for a plan (R107). -/
def planByte (p : Plan) : Nat := p.dlog + 8 * p.mult + 128

/-- Result of QUERY (R337). -/
def queryResult (n : Fin 4) (s : State) : List (Nat × Nat × Int) :=
  let t := s.rf.tuners[n]
  let flags := bit t.calibrating + 2 * bit (settled t)
  let delay := Config.tunerDelay n.val (fget t.cfg 0x0403).toNat
  match t.plan, t.freq with
  | some p, some f =>
    [(16, 1, tstateCode t.st), (17, 1, flags), (18, 2, p.n), (20, 1, planByte p), (21, 1, t.band), (22, 1, t.gain),
      (24, 4, ratio (tunerIf f p * 100) 65536), (28, 4, delay)]
  | _, _ => [(16, 1, tstateCode t.st), (17, 1, flags), (21, 1, t.band), (22, 1, t.gain), (28, 4, delay)]

/-- A state request sets out for its target: at once where the tuner is there, else through its transitions (R109). -/
def headFor (h : Held) (n : Fin 4) (want : TState) (s : State) : State :=
  let t := s.rf.tuners[n]
  if t.st = want && t.change.isNone && t.target.isNone then finish h .ok (stateResult want s) s
  else if want = .rx then
    if t.change.isSome then begin_ h (modTuner n (fun t => { t with change := t.change.map fun c => { c with cmd := some h.id } }) s)
    else begin_ h (beginChange n (some h.id) none s)
  else begin_ h (modTuner n (fun t => { t with target := some want, targetCmd := some h.id, change := none }) s)

/-- A SET of RF_PT_STATE begins (R110, R115, R117). DESIGN CHOICE (log entry 66): SLEEP for a FAILED tuner on which a path waits in HOLD
completes with ERR_STATE (R110), although R117 would take it to SLEEP. DESIGN CHOICE (log entry 68): while a job reads a path that the tuner
feeds, the deferral of R115 comes before the ERR_STATE of R110. RX for a plan that only excluded bands meet ends with NO_RESOURCE (R106). -/
def setPtState (h : Held) (n : Fin 4) (want : TState) (s : State) : State :=
  let t := s.rf.tuners[n]
  if t.st == .failed && want != .sleep then reject h .errState s
  else if want == .rx && t.freq.isNone then reject h .errState s
  else if t.st != want && jobReadsTuner n s then deferCmd h [] s
  else if want != .rx && feeds n s then reject h .errState s
  else if want == .rx && t.st != .rx && t.change.isNone && t.plan.any (onlyExcluded t) then reject h .noResource s
  else if want != .sleep && t.unavailable then begin_ h (modTuner n (fun t => { t with retest := some (h.id, want) }) s)
  else headFor h n want s

def doRfPtState (h : Held) (s : State) : State :=
  let a := Entry.args h.entry
  match tunerOf h with
  | some n =>
    if le a 0 1 = 1 then finish h .ok (queryResult n s) s
    else setPtState h n (if le a 1 1 = 0 then .sleep else if le a 1 1 = 1 then .standby else .rx) s
  | none => s

def execRfPtState (e : Entry) (s : State) : Host.Outcome State Fault Refusal :=
  .next (hostCmd (.rfPtState e) specRfPtState doRfPtState e s)

/-! ### RF_PT_TUNE (R101 to R106, R110, R114, R115, R127) -/

def specRfPtTune : Spec :=
  { itemCmd 0x0303 (tUnit 4) [] (fun f => 0x0400 ≤ f && f ≤ 0x040B) with remote := remoteUnit }

/-- The active fields of a tuner after a commit. -/
def tunerNew (t : Tuner) (l : FieldSet) : FieldSet := fmerge (fmerge t.cfg (ofClass .lv l)) (fmerge t.shadow (ofClass .st l))

/-- The plan of a set of fields. -/
def planOf (cfg : FieldSet) : Plan :=
  tunerPlan (fget cfg 0x0400).toNat (fget cfg 0x0401 == 1) (fget cfg 0x0402).toNat (fget cfg 0x0404).toNat

/-- Applies the LV items of RF_PT_TUNE; a commanded GAIN sets G_T (R103), and a change of GAIN_MODE restarts the hold. -/
def applyTunerLive (n : Fin 4) (l : FieldSet) (s : State) : State :=
  let s := modTuner n (fun t => { t with
    cfg := fmerge t.cfg (ofClass .lv l), holdFrom := if fhas l 0x0406 then none else t.holdFrom }) s
  if fhas l 0x0407 then setGain (.pt n) (fget l 0x0407) 2 none s else s

/-- COMMIT of RF_PT_TUNE (R110, R114): a channel change in RX, the plan alone in SLEEP or STANDBY. -/
def commitPtTune (h : Held) (n : Fin 4) (l : FieldSet) (s : State) : State :=
  let t := s.rf.tuners[n]
  let new := tunerNew t l
  if t.st == .failed || feeds n s || (t.freq.isNone && !fhas new 0x0400) then reject h .errState s
  else if onlyExcluded t (planOf new) then reject h .noResource s
  else
    let s := modTuner n (fun t => { t with shadow := [] }) (applyTunerLive n l s)
    let s := commitTuner n new s
    if t.st = .sleep || t.st = .standby then finish h .ok [(16, 7, 0xFFFFFFFFFFFFFF), (24, 8, dtInt (now s))] s
    else begin_ h (beginChange n (some h.id) none s)

/-- Whether a tuner runs (R127). -/
def tunerRuns (t : Tuner) : Bool := t.st == .rx || t.st == .probe

/-- RF_PT_TUNE begins. While a Saggar job reads the tuner, a commit and a rise of G_T are deferred (R103, R115). DESIGN CHOICE (log entry
68): the deferral comes before the rule of R110 and R114, so that a commit on a tuner that feeds the job's path is deferred and ends with
ERR_STATE after the job. The LV items of a running tuner wait for its frame boundary (R11). -/
def doRfPtTune (h : Held) (s : State) : State :=
  match tunerOf h with
  | some n =>
    let l := itemsOf h
    let raises := fhas l 0x0407 && decide (s.rf.tuners[n].gain < fget l 0x0407)
    if jobReadsTuner n s && (commits h || raises) then deferCmd h [] s
    else if commits h then commitPtTune h n l s
    else if parked h then finishC h (applyTunerLive n l s)
    else
      let s := modTuner n (fun t => { t with shadow := fmerge t.shadow (ofClass .st l) }) s
      if tunerRuns s.rf.tuners[n] && !(ofClass .lv l).isEmpty then park h [] s else finishC h (applyTunerLive n l s)
  | none => s

def execRfPtTune (e : Entry) (s : State) : Host.Outcome State Fault Refusal :=
  .next (hostCmd (.rfPtTune e) specRfPtTune doRfPtTune e s)

/-! ### The tables (R106, R107) -/

def loadCount (a : List Byte) : Nat := le a 0 2

def specRfPtBandtableLoad : Spec :=
  { plain 0x0304 0 (tUnit 4) [] with
    ptrOnly := fun _ => true
    mport := fun _ => false
    remote := remoteUnit
    extent := fun a => 8 + 12 * loadCount a
    used := fun a => (0, 2) :: (List.range (loadCount a)).flatMap fun i => [(8 + 12 * i, 3), (12 + 12 * i, 8)]
    range := fun _ _ a =>
      require (1 ≤ loadCount a && loadCount a ≤ 64) 0
        ++ (List.range (loadCount a)).flatMap fun i =>
          require (le a (8 + 12 * i) 1 < 64) (8 + 12 * i)
            ++ if le a (9 + 12 * i) 1 < 4 then [] else [(9 + 12 * i, .reservedNonzero)] }

/-- One entry of RF_PT_BANDTABLE_LOAD applied: EXCLUDE, and with bit 1 the edges and the temperature. -/
def loadBand (a : List Byte) (v : Vector Band 64) (i : Nat) : Vector Band 64 :=
  match idx 64 (le a (8 + 12 * i) 1) with
  | some k =>
    let f := le a (9 + 12 * i) 1
    upd v k fun b =>
      let b := { b with exclude := testBit f 0 }
      if testBit f 1 then { b with low := le a (12 + 12 * i) 4, high := le a (16 + 12 * i) 4, temp := leInt a (10 + 12 * i) 1 } else b
  | none => v

def doRfPtBandtableLoad (h : Held) (s : State) : State :=
  let a := Entry.args h.entry
  match tunerOf h with
  | some n =>
    finish h .ok [(16, 1, loadCount a)]
      (modTuner n (fun t => { t with bands := (List.range (loadCount a)).foldl (loadBand a) t.bands }) s)
  | none => s

def execRfPtBandtableLoad (e : Entry) (s : State) : Host.Outcome State Fault Refusal :=
  .next (hostCmd (.rfPtBandtableLoad e) specRfPtBandtableLoad doRfPtBandtableLoad e s)

def specRfPtRecallRead : Spec :=
  { outCmd 0x0305 13 (tUnit 4) [(12, 1)] with remote := remoteUnit, range := fun _ _ a => oneOf a 12 [0, 1] }

/-- A recall entry (R107). -/
def recallBytes (r : Recall) : List Byte :=
  pack 0 16 [(0, 2, r.plan.n), (2, 1, planByte r.plan), (3, 1, r.band), (4, 2, r.irGain), (6, 2, r.irPhase), (8, 1, r.trim),
    (9, 1, r.temp), (12, 4, r.dtSec.toNat)]

/-- A band entry in the layout of RF_PT_BANDTABLE_LOAD (R337). -/
def bandBytes (k : Nat) (b : Band) : List Byte :=
  pack 0 12 [(0, 1, k), (1, 1, bit b.exclude), (2, 1, b.temp), (4, 4, b.low), (8, 4, b.high)]

def doRfPtRecallRead (h : Held) (s : State) : State :=
  match tunerOf h with
  | some n =>
    let t := s.rf.tuners[n]
    finishOut h .ok (if le (Entry.args h.entry) 12 1 = 0 then fit 4096 (t.recalls.flatMap recallBytes)
      else (entries t.bands).flatMap fun x => bandBytes x.1.val x.2) none s
  | none => s

def execRfPtRecallRead (e : Entry) (s : State) : Host.Outcome State Fault Refusal :=
  .next (hostCmd (.rfPtRecallRead e) specRfPtRecallRead doRfPtRecallRead e s)

/-- A changed recall table is saved to the vault within an hour (R107, R441). -/
def execRecallTableSave (t : DT) (n : Fin 4) (s : State) : Host.Outcome State Fault Refusal :=
  let s := moment t s
  .next (if s.rf.tuners[n].recallDirty then askStore (.recallTable n) none (modTuner n (fun t => { t with recallDirty := false }) s) else s)

/-! ### Transitions and channel changes (R108 to R113) -/

/-- The next state of a tuner on its way to a target (R109). -/
def nextState (t : Tuner) (want : TState) : TState :=
  if want = .rx then
    match t.st with
    | .sleep => .standby
    | .standby => .synth
    | _ => .rx
  else want

/-- Ends the command that asked for a state, once the tuner is there. -/
def endTransition (n : Fin 4) (want : TState) (s : State) : State :=
  let cmd := s.rf.tuners[n].targetCmd
  let s := modTuner n (fun t => { t with
    target := none, targetCmd := none, calibrating := want == .rx && t.change.isSome }) s
  match cmd with
  | some id => finishId id .ok (stateResult want s) s
  | none => s

/-- A state transition of a tuner reaches its state; a request further away goes on to the next (R109). A running firing is not
interrupted (R453). -/
def execTunerTransitionDone (t : DT) (n : Fin 4) (s : State) : Host.Outcome State Fault Refusal :=
  let s := moment t s
  let x := s.rf.tuners[n]
  .next (match x.target with
    | some want =>
      if tunerFires n s || x.probe.isSome then s
      else
        let st := nextState x want
        let s := modTuner n (fun t =>
          let y := { t with st := st, holdFrom := none, unavailable := t.unavailable || x.st == .failed }
          if st = .synth then y.synthStart else y) s
        if st = want then endTransition n want s else s
    | none => s)

/-- An outcome after the plausibility gate (R112, R438). -/
def gate (suitable fits : Bool) : CalOutcome := if !suitable then .unsuitable else if fits then .ok else .implausible

/-- A quality figure as reported: 0 with INPUT_UNSUITABLE (R437). -/
def shownQuality (o : CalOutcome) (q : Nat) : Nat := if o = .unsuitable then 0 else q

/-- How the three calibrations of a channel change came out, with their quality figures (R112, R437). -/
structure Quick where
  offset : CalOutcome
  filter : CalOutcome
  image : CalOutcome
  qOffset : Nat
  qFilter : Nat
  qImage : Nat
  deriving DecidableEq, Repr

/-- A channel change as its three calibrations are judged: the tests of R436, then the plausibility limits ±2 %, ±15 %, ±1.0 dB and ±5°
(R112). The filter is checked against an on-chip replica, not from the input. -/
def judgedChange (r : ChannelChange) : Quick :=
  let o := gate (tunerBlockOk r.offsetSpan && strongEnough [r.offsetSpan]) (decide (r.offset.value.natAbs ≤ 200))
  let f := gate true (decide (r.bandwidth.value.natAbs ≤ 1500))
  let i := gate (tunerBlockOk r.imageSpan && strongEnough [r.imageSpan] && circular r.imageSpan)
    (decide (r.irGain.value.natAbs ≤ 1000) && decide (r.irPhase.value.natAbs ≤ 5000))
  { offset := o, filter := f, image := i,
    qOffset := shownQuality o (qualityFigure [(200, r.offset)]),
    qFilter := shownQuality f (qualityFigure [(1500, r.bandwidth)]),
    qImage := shownQuality i (qualityFigure [(1000, r.irGain), (5000, r.irPhase)]) }

/-- The band a change found (R106, R107, R111): that of its recall entry; in a search one of the bands that it tries. -/
def changeBand (t : Tuner) (c : Change) (p : Plan) (r : ChannelChange) : Nat :=
  match (if c.fromTable then recallOf t p else none) with
  | some e => e.band
  | none => if (searchBands t p).contains r.band then r.band.val else match searchStart t p with | some k => k.val | none => r.band.val

/-- The correction values that a change leaves in force: those found where they pass; else the recall entry's seed; else, for
the image, the factory values of the band, and for the trim the value before; for the offset, which no entry holds, the value before
(R107, R112). -/
def changeValues (n : Fin 4) (t : Tuner) (c : Change) (p : Plan) (r : ChannelChange) (k : Quick) : Int × Int × Nat × Int :=
  let seed := if c.fromTable then recallOf t p else none
  let band := changeBand t c p r
  let image := if k.image = .ok then (r.irGain.value, r.irPhase.value)
    else match seed with
      | some e => (e.irGain, e.irPhase)
      | none => Config.factoryImage n.val band
  let trim := if k.filter = .ok then r.trim
    else match seed with
      | some e => e.trim
      | none => t.trim
  (image.1, image.2, trim, if k.offset = .ok then r.offset.value else t.offset)

/-- The recall table with an entry written: its key is overwritten, else the least recently used entry of a full table is replaced
(R107). -/
def writeRecall (e : Recall) (l : List Recall) : List Recall := e :: (l.filter fun x => x.plan != e.plan).take 255

/-- Result bytes of a channel change: RF_PT_TUNE, or RF_PT_STATE that ran it (R337). -/
def changeResult (tune : Bool) (c : Change) (r : Quick) (s : State) : List (Nat × Nat × Int) :=
  let band := bit (!c.fromTable)
  if tune then
    [(16, 1, outcomeCode r.offset), (17, 1, outcomeCode r.filter), (18, 1, outcomeCode r.image), (19, 1, band), (20, 1, r.qOffset),
      (21, 1, r.qFilter), (22, 1, r.qImage), (24, 8, dtInt (now s))]
  else
    [(16, 1, tstateCode .rx), (17, 1, outcomeCode r.offset), (18, 1, outcomeCode r.filter), (19, 1, outcomeCode r.image),
      (20, 1, r.qOffset), (21, 1, r.qFilter), (22, 1, r.qImage), (23, 1, band), (24, 8, dtInt (now s))]

/-- A channel change ends: the tuner is settled and its stream delivered; the recall entry is written; the command completes (R111 to
R113, R440). -/
def execChannelChangeDone (t : DT) (n : Fin 4) (r : ChannelChange) (s : State) : Host.Outcome State Fault Refusal :=
  let s := moment t s
  let x := s.rf.tuners[n]
  .next (match x.change, x.plan with
    | some c, some p =>
      if x.st != .rx || excluded x (changeBand x c p r) then s
      else
        let k := judgedChange r
        let v := changeValues n x c p r k
        let band := changeBand x c p r
        let e : Recall :=
          { plan := p, band := band, irGain := v.1, irPhase := v.2.1, trim := v.2.2.1, temp := r.temp, dtSec := BitVec.ofNat 32 (dtSec (now s)) }
        let s := modTuner n (fun t => { t with
          change := none, calibrating := false, band := band, irGain := v.1, irPhase := v.2.1, trim := v.2.2.1, offset := v.2.2.2,
          bandwidth := if k.filter = .ok then r.bandwidth.value else t.bandwidth,
          recalls := writeRecall e t.recalls, recallDirty := true }) s
        let s := if k.image = .ok then modFiring 2 n.val (fun f => { f with lastTemp := some (r.temp * 10) }) (restartPeriod 2 n.val (now s) s) else s
        match c.cmd with
        | some id => match findHeld id s with
          | some h => finish h .ok (changeResult (h.op == 0x0303) c k s) s
          | none => s
        | none => s
    | _, _ => s)

/-- A recall attempt has not locked in 300 µs: the change falls back to a full band search (R111). -/
def execRecallLockTimeout (t : DT) (n : Fin 4) (s : State) : Host.Outcome State Fault Refusal :=
  let s := moment t s
  .next (if s.rf.tuners[n].st = .synth then
      modTuner n (fun t => Tuner.synthStart { t with change := t.change.map fun c => { c with fromTable := false } }) s
    else s)

/-! ### Failure and retries (R117, R456) -/

/-- The commands in progress on a tuner. -/
def tunerCmds (t : Tuner) : List Nat :=
  (match t.change with | some c => c.cmd.toList | none => []) ++ t.targetCmd.toList ++ (t.probe.map (·.1)).toList ++ (t.retest.map (·.1)).toList

/-- A tuner in FAILED. DESIGN CHOICE (log entry 67): its count of retries and their last outcome start from 0 at each failure. -/
def Tuner.fail (t : Tuner) : Tuner :=
  { t with
    st := .failed, change := none, target := none, targetCmd := none, probe := none, retest := none, calibrating := false,
    holdFrom := none, retries := 0, lastRetry := 0 }

/-- The contexts of a failed tuner's paths are moved: to their live branch, else to a new source (R37, R41, R175). -/
def moveFrom (s : State) (p : Fin 64) : State :=
  let c := ctxOf p s
  let primary := match c with | some c => s.cx.ctxs[c].primary == some p | none => false
  let live := match c with | some c => branchLive s.cx.ctxs[c] s | none => false
  let s := loseSource p s
  match c with
  | some c => if primary && !live then reSource c s else s
  | none => s

/-- A tuner is declared failed (R117): its command completes with HW_FAULT, its firings are abandoned, its contexts are moved. DESIGN CHOICE
(log entry 98): a probe that has not begun stays held until its 2 ms or its deadline end it (R120). -/
def execTunerFailed (t : DT) (n : Fin 4) (s : State) : Host.Outcome State Fault Refusal :=
  let s := moment t s
  let x := s.rf.tuners[n]
  .next (if x.st = .failed || x.st = .sleep || x.st = .standby then s
    else
      let touched := jobReadsTuner n s
      let s := finishAll (tunerCmds x) .hwFault [] (modTuner n Tuner.fail s)
      let s := abandonTunerFirings n none s
      let s := (pathsOn (8 + n.val) s).foldl moveFrom s
      legalFault touched 3 n.val (now s) (now s) (faultSherd 3 n.val (now s) (now s) s))

/-- A retry of a failed tuner, or the retry test that a state request runs first on an unavailable one (R117). -/
def execTunerRetry (t : DT) (n : Fin 4) (pass : Bool) (s : State) : Host.Outcome State Fault Refusal :=
  let s := moment t s
  let x := s.rf.tuners[n]
  let count := modTuner n (fun t => { t with retries := t.retries + 1, lastRetry := bit pass }) s
  .next (match x.retest with
    | some (id, want) =>
      if pass then
        let s := modTuner n (fun t => { t with retest := none, unavailable := false, st := .standby }) count
        match findHeld id s with
        | some h => headFor h n want s
        | none => s
      else rejectId id .hwFault (modTuner n (fun t => { t with retest := none, st := .failed }) count)
    | none =>
      if x.st = .failed && x.target.isNone then
        if pass then modTuner n (fun t => { t with st := .standby, unavailable := false }) count else count
      else s)

/-! ### Probes (R118 to R121) -/

def specRfProbe : Spec :=
  { itemCmd 0x0306 (tUnit 4) [] (fun f => 0x0600 ≤ f && f ≤ 0x0604) with remote := remoteUnit }

/-- The offset of an FID's item in the parameters. -/
def itemAt (fid : Nat) (h : Held) : Nat :=
  match (itemsOf h).findIdx? (·.1 == fid) with
  | some i => Entry.offset h.entry (8 + 8 * i)
  | none => 0xFFFF

/-- RF_PROBE begins: it waits until its tuner is settled (R120), or until a Saggar job ends (R115). The DT from which it waits is
kept. -/
def doRfProbe (h : Held) (s : State) : State :=
  match tunerOf h with
  | some n =>
    let t := s.rf.tuners[n]
    if (fget t.cfg 0x0403).toNat < 2 * (fget (itemsOf h) 0x0601).natAbs then fail h .errParam (itemAt 0x0601 h) .outOfRange s
    else if t.st = .sleep || t.st = .standby || t.st = .failed then reject h .errState s
    else if jobReadsTuner n s then deferCmd h [] s
    else park h [dtInt (now s)] s
  | none => s

def execRfProbe (e : Entry) (s : State) : Host.Outcome State Fault Refusal :=
  .next (hostCmd (.rfProbe e) specRfProbe doRfProbe e s)

/-- A held probe starts when its tuner is settled (R118 step 1): every path fed by the tuner enters HOLD. -/
def execProbeStart (t : DT) (n : Fin 4) (s : State) : Host.Outcome State Fault Refusal :=
  let s := moment t s
  .next (match waiting 0x0306 n.val s with
    | h :: _ =>
      if settled s.rf.tuners[n] && !jobReadsTuner n s && !tunerFires n s then
        let s := note h [dtInt (now s)] (modTuner n (fun t => { t with st := .probe, probe := some (h.id, itemsOf h, true), holdFrom := none }) s)
        (pathsOn (8 + n.val) s).foldl (fun s p => loseSource p s) s
      else s
    | [] => s)

/-- Result of a probe in 0.1 dBm and 0.1 dB: measured, expected, gain error, image rejection, PASS (R119). -/
def probeResult (l : FieldSet) (measured leak : Int) : List (Nat × Nat × Int) :=
  let level := fget l 0x0602
  let image := fget l 0x0600 == 1
  let pass := decide ((measured - level).natAbs ≤ (fget l 0x0604).toNat) && (!image || decide (600 ≤ measured - leak))
  [(16, 2, measured), (18, 2, level), (20, 2, measured - level), (22, 2, if image then measured - leak else 0), (24, 1, bit pass)]

/-- The probe measurement ends and the tuner is back in RX (R118 steps 3 and 4): its paths make a synchronising reset. Levels in
0.1 dBm. -/
def execProbeEnd (t : DT) (n : Fin 4) (measured leak : Int) (s : State) : Host.Outcome State Fault Refusal :=
  let s := moment t s
  .next (match s.rf.tuners[n].probe with
    | some (id, l, true) =>
      let s := modTuner n (fun t => if t.change.isSome then { t.synthStart with st := .synth, probe := none } else { t with st := .rx, probe := none }) s
      let s := if s.rf.tuners[n].st = .synth then s else (pathsOn (8 + n.val) s).foldl (fun s p => resumePath p s) s
      match findHeld id s with
      | some h => finishAt h .ok (result (probeResult l measured leak)) [] (BitVec.ofInt 64 (h.aux.headD 0)) s
      | none => s
    | _ => s)

/-- The probes held for a tuner are deferred when a Saggar job begins to read it (R115). -/
def deferProbes (n : Fin 4) (s : State) : State :=
  (waiting 0x0306 n.val s).foldl (fun s h => if h.deferred then s else deferCmd h [] (modHeld h.id (fun x => { x with aux := [] }) s)) s

/-- A probe without a deadline has waited 2 ms on a tuner that is not settled (R120). -/
def execProbeWaitTimeout (t : DT) (n : Fin 4) (s : State) : Host.Outcome State Fault Refusal :=
  let s := moment t s
  .next (match waiting 0x0306 n.val s with
    | h :: _ =>
      let from_ : DT := BitVec.ofInt 64 (h.aux.getD 1 0)
      if !Entry.hasDeadline h.entry && decide (msDt 2 ≤ dtSince from_ (now s))
          && !(settled s.rf.tuners[n] && !tunerFires n s) then
        reject h .busyCalibrating s
      else s
    | [] => s)

/-! ### The Slip (R122 to R126, R128) -/

def specRfSlipConfig : Spec := itemCmd 0x0307 tZero [] fun f => 0x0605 ≤ f && f ≤ 0x060B

/-- The paths fed by an input: 0 WBA, 1 WBB, 2 to 5 PT0 to PT3. -/
def inputPaths (i : Nat) (s : State) : List (Fin 64) :=
  (List.finRange 64).filter fun p =>
    let x := s.cx.paths[p]
    x.run != .closed && (match srcCarver x.source, srcTuner x.source with
      | some c, _ => decide (i < 2) && carverInput s.rf.carvers[c] == idx 2 i
      | _, some n => n.val + 2 == i
      | _, _ => false)

/-- Whether a tone, in 0.1 Hz, lies outside the occupied band of every context fed from an input by 50 kHz (R124). -/
def toneClear (i : Nat) (f10 : Nat) (s : State) : Bool :=
  (inputPaths i s).all fun p =>
    let b := pathBand p s
    decide ((b.2 + 50000) * 10 ≤ ((f10 : Int) - b.1 * 10).natAbs)

/-- Whether a tone lies in the IF passband of a tuner (R102, R126). DESIGN CHOICE (log entry 70): a tuner that is not in RX has none, so that
supervision on it completes with ERR_PARAM. -/
def toneInIf (n : Fin 4) (f10 : Nat) (s : State) : Bool :=
  let t := s.rf.tuners[n]
  match t.freq with
  | some f => t.st == .rx && decide (((f10 : Int) - f * 10).natAbs * 2 ≤ (fget t.cfg 0x0403).toNat * 10000)
  | none => false

/-- Whether the Slip emits on INJ under a set of fields: the target INJ, or a supervision mode (R123, R126). -/
def onInj (cfg : FieldSet) : Bool := fget cfg 0x0605 != 0 && (fget cfg 0x0606 == 0 || decide (2 ≤ fget cfg 0x0605))

/-- The input whose contexts an emission reaches (R124, R126). -/
def slipInput (cfg : FieldSet) : Option Nat :=
  if 2 ≤ fget cfg 0x0605 then some (fget cfg 0x0609).toNat
  else if fget cfg 0x0606 = 0 then none
  else some ((fget cfg 0x0606).toNat - 1)

/-- Why a set of fields cannot be taken: the status and whether an item is at fault. -/
def slipRefused (cfg : FieldSet) (s : State) : Option Status :=
  let f10 := (fget cfg 0x0607).toNat
  let sup := decide (2 ≤ fget cfg 0x0605)
  if fget cfg 0x0605 = 0 then none
  else if (match slipInput cfg with | some i => !toneClear i f10 s | none => false) then some .errParam
  else if sup && (match idx 4 ((fget cfg 0x0609).toNat - 2) with
      | some n => decide (2 ≤ fget cfg 0x0609) && !toneInIf n f10 s
      | none => false) then some .errParam
  else if onInj cfg && !s.power.injEn then some .errState
  else if fget cfg 0x0605 = 3 && s.rf.slip.baseline.isNone then some .errState
  else none

/-- The DT at which a deferred Slip command is to start (R125): the longest end of the firing that holds the Slip (R452). No figure
is given for the Saggar's hold: a free value. -/
def slipStart (s : State) : Int × State :=
  let end_ (a ms : Nat) : Int :=
    match s.mnt.firings.find? fun f => f.activity == a && f.running with
    | some f => dtInt (dtAdd f.last (msDt ms))
    | none => dtInt (now s)
  match s.rf.slip.owner with
  | .firing 4 => (end_ 4 100, s)
  | .firing a => (end_ a (if s.cx.profile = 1 then 25 else 7), s)
  | _ => (freeNow s, useFree s)

/-- The Slip under a new set of fields; `commit` starts or stops its operation (R126). DESIGN CHOICE (log entry 71): the host's operation
holds the Slip for the whole of LEARN and SUPERVISE, between its emissions too, so that activities 4 and 8 wait meanwhile. -/
def SlipSt.take (x : SlipSt) (cfg shadow : FieldSet) (commit : Bool) : SlipSt :=
  let x := { x with cfg := cfg, shadow := shadow, stopped := x.stopped && !commit }
  if !commit then x
  else
    let x := if x.owner = .host || x.owner = .nobody then
        { x with owner := if fget cfg 0x0605 = 0 then .nobody else .host, emitting := fget cfg 0x0605 == 1 }
      else x
    if fget cfg 0x0605 = 2 then { x with learnSum := 0, learnCount := 0, missed := 0, lastAt := none }
    else if fget cfg 0x0605 = 3 then { x with missed := 0, lastAt := none }
    else x

/-- RF_SLIP_CONFIG takes effect (R123 to R126). A value that breaks R124 changes nothing. -/
def applySlip (s : State) (h : Held) : State :=
  let x := s.rf.slip
  let sets := applyItems h (x.cfg, x.shadow)
  let shadow := if commits h then sets.2 else fmerge x.shadow (ofClass .st (itemsOf h))
  let busy := !(x.owner == .nobody || x.owner == .host) || (x.owner == .nobody && slipDue s)
  match slipRefused sets.1 s with
  | some st => if st = .errParam then fail h st (itemAt 0x0607 h) .outOfRange s else reject h st s
  | none =>
    if busy && commits h && fget sets.1 0x0605 != 0 then
      let r := slipStart s
      deferCmd h [(24, 8, r.1)] r.2
    else finishC h (modSlip (fun x => x.take sets.1 shadow (commits h)) s)

/-- RF_SLIP_CONFIG begins: a Slip that runs takes it at its next tone boundary (R11, R128), where all that wait apply. -/
def doRfSlipConfig (h : Held) (s : State) : State :=
  if parked h then (waitingNow 0x0307 0 s).foldl applySlip s
  else if fget s.rf.slip.cfg 0x0605 ≠ 0 then park h [] s
  else applySlip s h

def execRfSlipConfig (e : Entry) (s : State) : Host.Outcome State Fault Refusal :=
  .next (hostCmd (.rfSlipConfig e) specRfSlipConfig doRfSlipConfig e s)

/-- INJ_EN falls (R123, R506): an emission on INJ stops and its operation ends. DESIGN CHOICE (log entry 72): MODE is then OFF and the Slip
free. -/
def execInjEnFall (t : DT) (s : State) : Host.Outcome State Fault Refusal :=
  let s := moment t s
  let s := modPower (fun p => { p with injEn := false, latched := p.latched ||| BitVec.twoPow 5 4 }) s
  .next (if s.rf.slip.emitting && s.rf.slip.owner == .host && fget s.rf.slip.cfg 0x0606 == 0 then
      modSlip (fun x => { x with emitting := false, owner := .nobody, cfg := fset x.cfg 0x0605 0 }) s
    else s)

/-- A holder releases the Slip to the Saggar at its tone boundary (R125, R459): a firing is to run again whole, due at once. -/
def execSlipSaggarRelease (t : DT) (s : State) : Host.Outcome State Fault Refusal :=
  let s := moment t s
  .next (if !s.rf.slip.sgWaiting then s
    else
      let s := match s.rf.slip.owner with
        | .firing a =>
          let ran := s.mnt.firings.filter (·.running)
          let s := modMnt (fun m => { m with firings := m.firings.map fun f =>
            if f.activity = a ∧ f.running then { f with running := false, due := now s } else f }) s
          let freed (n : Fin 4) (t : Tuner) : Tuner :=
            if t.change.isNone && ran.any (fun f => f.activity == 8 && f.obj == n.val) then { t with calibrating := false } else t
          if a = 8 then modRf (fun r => { r with tuners := Vector.ofFn fun (n : Fin 4) => freed n r.tuners[n] }) s else s
        | _ => s
      modSlip (SlipSt.release s.power.injEn) s)

/-- Whether a Saggar job reads a path fed from an input. -/
def jobReadsSide (i : Nat) (s : State) : Bool := (inputPaths i s).any fun p => jobReadsPath p s

/-- CAL_RESULT of a supervision measurement (R126, R344). The spec gives no activity code, no quality and, before the first baseline,
no difference: free values. The activity value is the difference. The level and the measurements missed, for which the layout has no byte, go
out beside it (R125, R126). DESIGN CHOICE (log entry 69). -/
def supervisionResult (level : Int) (s : State) : State :=
  let code := freeNow s
  let q := freeNow (useFree s)
  let s := useFree (useFree s)
  let (diff, s) := match s.rf.slip.baseline with
    | some b => (level - b, s)
    | none => (freeNow s, useFree s)
  let alarm := decide ((fget s.rf.slip.cfg 0x060B).toNat * 10 < diff.natAbs)
  emit (.supervision level diff s.rf.slip.missed alarm) <| raise .calResult [(16, 1, code), (17, 1, fget s.rf.slip.cfg 0x0609), (18, 2, 0), (20, 1, q), (21, 1, bit alarm),
    (22, 2, diff), (24, 8, dtInt (now s))] (modSlip (fun x => { x with lastDiff := diff, alarm := alarm, level := level }) s)

/-- One measurement of MODE LEARN enters the average of 16 (R126); `level` in 0.01 dBm. -/
def SlipSt.learn (x : SlipSt) (level : Int) : SlipSt :=
  if x.learnCount < 16 then
    let sum := x.learnSum + level
    let n := x.learnCount + 1
    { x with learnSum := sum, learnCount := n, baseline := if n = 16 then some (ratio sum 16) else x.baseline }
  else x

/-- Whether a SUP_PERIOD has passed since the last measurement, made or missed (R126). -/
def supDue (s : State) : Bool :=
  match s.rf.slip.lastAt with
  | some t => decide (t.toNat + (fget s.rf.slip.cfg 0x060A).toNat * 2 ^ 32 ≤ (now s).toNat)
  | none => true

/-- Every SUP_PERIOD the Slip emits and measures (R126). A measurement is missed while the Saggar holds the Slip or reads a path fed
from SUP_INPUT, or while INJ_EN is low. `level` in 0.01 dBm. -/
def execSupervisionPeriod (t : DT) (level : Int) (s : State) : Host.Outcome State Fault Refusal :=
  let s := moment t s
  let x := s.rf.slip
  let mode := fget x.cfg 0x0605
  .next (if mode < 2 || (mode = 2 && x.learnCount = 16) || s.power.st == .dormant || !supDue s then s
    else
      let s := modSlip (fun x => { x with lastAt := some (now s) }) s
      if x.owner != .host || jobReadsSide (fget x.cfg 0x0609).toNat s || !s.power.injEn then
        modSlip (fun x => { x with missed := x.missed + 1 }) s
      else if mode = 2 then supervisionResult level (modSlip (fun x => x.learn level) s)
      else supervisionResult level s)

end Sys2Proof.Machine
end

