-- ==== Sys2Proof/Machine/Mill.lean ====
section
/-!
DEFINITION. Mill.lean: the channel paths: blocks, synchronising resets and SYNC samples, coefficient banks and swaps, CTX_SYNC and
the threshold comparators (R130 to R156).
-/
namespace Sys2Proof.Machine

/-! ### Paths that a command names (R160, R338) -/

/-- The open context of a command's target. -/
def openCtx (h : Held) (s : State) : Option (Fin 64) :=
  match idx 64 h.entry.target.toNat with
  | some c => if s.cx.ctxs[c].st == .closed then none else some c
  | none => none

/-- Whether a target is a context of the secondary (R473). -/
def remoteCtx (t : Nat) : Bool := decide (64 ≤ t)

/-- The paths that PATH names: 0 the primary, 1 the branch, 2 both; none when one of them is missing (R338). -/
def pathsNamed (c : Fin 64) (which : Nat) (s : State) : Option (List (Fin 64)) :=
  let x := s.cx.ctxs[c]
  match which, x.primary, x.branch with
  | 0, some p, _ => some [p]
  | 1, _, some b => some [b]
  | 2, some p, some b => some [p, b]
  | _, _, _ => none

/-- The open paths of a context. -/
def pathsOf (c : Fin 64) (s : State) : List (Fin 64) := s.cx.ctxs[c].primary.toList ++ s.cx.ctxs[c].branch.toList

/-! ### Blocks (R140 to R143) -/

/-- A sample held to ±full scale, and whether it was beyond (R135). -/
def saturate (v : Int) : Int × Bool := if 0x7FFFFF < v then (0x7FFFFF, true) else if v < -0x7FFFFF then (-0x7FFFFF, true) else (v, false)

/-- A sum of products over samples, the newest first: I and Q. -/
def weigh (c : List Int) (l : List Sample) : Int × Int :=
  (c.zip l).foldl (fun (a : Int × Int) x => (a.1 + x.1 * x.2.i, a.2 + x.1 * x.2.q)) (0, 0)

/-- A sample from sums in units of 1/den, saturated, with a CLIP flag that it carries already. No rounding is stated: `ratio`. -/
def narrowTo (sum : Int × Int) (den : Nat) (clip : Bool) : Sample :=
  let i := saturate (ratio sum.1 den)
  let q := saturate (ratio sum.2 den)
  { i := i.1, q := q.1, clip := clip || i.2 || q.2 }

/-- The length of a cross-fade in FIR samples (R137): round(FADE_LEN · f_mid / f_out). -/
def fadeSamples (x : Path) (q : Swap) : Nat := (roundDiv ((q.len * x.fin : Nat) : Int) (x.decim * x.fout)).toNat

/-- A bank of a path. -/
def Path.bank (x : Path) (b : Bool) : List Int := if b then x.bankB else x.bankA

/-- The FIR output for the input line (R135, R137): the active bank, or the mix of both while a fade runs. DESIGN CHOICE (log entry 59): CLIP
follows the FIR's stated delay. -/
def Path.firOut (x : Path) : Sample :=
  let old := weigh (x.bank x.activeB) x.line
  let clip := ((x.line[(x.firLen - 1) / 2]?).map (·.clip)).getD false
  match x.fade with
  | some (q, true) =>
    let n := fadeSamples x q
    let k := min x.fadePos n
    let new := weigh (x.bank q.target) x.line
    narrowTo ((n - k : Nat) * old.1 + k * new.1, (n - k : Nat) * old.2 + k * new.2) (n * 131072) clip
  | _ => narrowTo old 131072 clip

/-- One sample at f_mid passes the FIR. -/
def Path.feed (m : Sample) (x : Path) : Path :=
  let x := { x with line := (m :: x.line).take x.firLen }
  { x with
    firs := (x.firOut :: x.firs).take 24, firCount := x.firCount + 1,
    fadePos := match x.fade with | some (_, true) => x.fadePos + 1 | _ => x.fadePos }

/-- The resampler's output for an accumulator (R140): the top 8 fraction bits name the phase, the next 16 interpolate to the one beside
it. DESIGN CHOICE (log entry 59): CLIP follows the middle of its 24 taps. -/
def Path.resample (a : Nat) (x : Path) : Sample :=
  let ph := a / 2 ^ 40 % 256
  let fr := a / 2 ^ 24 % 65536
  let c := (List.range 24).map fun j => (65536 - fr : Nat) * Config.resampler ph j + fr * Config.resampler (ph + 1) j
  narrowTo (weigh c x.firs) (131072 * 65536) ((x.firs.drop 11).take 2 |>.any (·.clip))

/-- The samples that the FIR needs before an output at an accumulator (R140): the integer part is an input position modulo 2^16. -/
def Path.needs (a : Nat) (x : Path) : Nat := (a / 2 ^ 48 + 65536 + 1 - x.firCount % 65536) % 65536

/-- The path fed with the samples that the outputs at some accumulators need, and those outputs; none where the samples do not
suffice. -/
def Path.outputs : List Nat → List Sample → Path → Option (Path × List Sample)
  | [], _, x => some (x, [])
  | a :: rest, mid, x =>
    let n := x.needs a
    if mid.length < n then none
    else
      let x := (mid.take n).foldl (fun x m => x.feed m) x
      match Path.outputs rest (mid.drop n) x with
      | some (y, out) => some (y, x.resample a :: out)
      | none => none

/-- A path whose resampler has made at least `n` outputs since its reset, with the accumulators of outputs `first` to `n - 1`. -/
def Path.madeTo (first n : Nat) (x : Path) : Path × List Nat :=
  let x := if x.made < n then x.output (n - x.made) else x
  (x, (x.phases.drop (first - (x.made - x.phases.length))).take (n - first))

/-- The header and sample words of a block (R143). -/
def blockBytes (p : Nat) (stamp : DT) (x : Path) (out : List Sample) : List Byte :=
  let clips := out.countP (·.clip)
  pack 0 16 [(0, 8, dtInt stamp), (8, 1, p), (9, 1, bit x.blockSync + 2 * bit (decide (0 < clips)) + 4 * bit x.trimChanged), (10, 2, clips),
      (12, 4, x.seq.toNat)]
    ++ (out.mapIdx fun k m => leBytes 4 ((m.i % 2 ^ 24) + 2 ^ 24 * bit m.clip + 2 ^ 25 * bit (k == 0 && x.blockSync)) ++ leBytes 4 (m.q % 2 ^ 24)).flatten

/-- The output samples of a power block (R149). -/
def powBlock (x : Path) : Nat := (fget x.cfg 0x070A).toNat * x.fout / 1000000

/-- A delivered sample enters the power detector (R149): `stamp` is its own. -/
def Path.detect (x : Path) (stamp : DT) (m : Sample) : Path :=
  let sum := x.powSum + (m.i * m.i + m.q * m.q).toNat
  let from_ := if x.powN = 0 then stamp else x.powFrom
  let n := x.powN + 1
  if n < powBlock x then { x with powSum := sum, powN := n, powFrom := from_ }
  else { x with powSum := 0, powN := 0, powFrom := from_, powers := x.powers ++ [(sum, n, from_)] }

/-- The stamp of a path's `n`th sample from its SYNC sample on (R17, R143). -/
def stampOf (x : Path) (n : Nat) : DT := dtAdd x.syncAt (outSpan n x)

/-- The blocks lost before one that begins at `stamp`: whole blocks, and those whose outputs the clay store no longer keeps. -/
def lostBlocks (x : Path) (stamp : DT) : Nat :=
  let late := if x.next.toNat ≤ stamp.toNat then ((stamp.toNat - x.next.toNat) * x.fout / 2 ^ 32 + 32) / 64 else 0
  max late ((x.made - x.phases.length - (settling x + x.since) + 63) / 64)

/-- The blocks of a path in 24 ms (R169). -/
def keptBlocks (fout : Nat) : Nat := 3 * fout / 8000

/-- A running path makes the block at `stamp`, on its output grid, from the samples at f_mid since its last block; the bytes are kept in
the path (R137, R140, R143). None where the samples do not reach to its last output. -/
def Path.makeBlock (p : Nat) (stamp : DT) (mid : List Sample) (x : Path) : Option Path :=
  let lost := lostBlocks x stamp
  let first := settling x + x.since
  let made := x.madeTo first (first + 64 * (lost + 1))
  match made.1.outputs made.2 mid with
  | some (y, out) =>
    let since := x.since + 64 * lost
    let own := out.drop (64 * lost)
    let y := own.zipIdx.foldl (fun y m => y.detect (stampOf x (since + m.2)) m.1) { y with seq := y.seq + BitVec.ofNat 32 lost }
    some { y with
      block := blockBytes p (stampOf x since) y own, kept := (blockBytes p (stampOf x since) y own :: x.kept).take (keptBlocks x.fout),
      phases := y.phases.drop (y.phases.length - (y.made - (first + 64 * (lost + 1)))),
      since := since + 64, next := stampOf x (since + 64), seq := y.seq + 1, clipped := x.clipped + own.countP (·.clip),
      trimChanged := false, blockSync := false }
  | none => none

/-- The tap copies the stream at f_mid before the FIR, with its stamps and CLIP flags, to every running job on the path whose interval
has not ended (R153, R385). -/
def tapCopy (p : Fin 64) (stamp : DT) (mid : List Sample) : State → State :=
  modSg fun g => { g with jobs := g.jobs.map fun j =>
    if j.running && j.path == some p && decide (stamp.toNat < j.began.toNat + msDt j.duration) then
      { j with tap := some (stamp, mid), tapped := j.tapped + mid.length, tapClips := j.tapClips + mid.countP (·.clip) }
    else j }

/-- The bytes of a block of a capture's source, its samples and its rate, for the sources with blocks of 64 samples. -/
def blockSize (source index : Nat) : Nat :=
  if source < 2 then 8224 else if source < 4 then 528 else if index < 0x80 then 800 else 1568

/-- The path's block is written to every armed slot that records it; a full ring loses its oldest block (R426). -/
def recordBlock (p : Fin 64) (stamp : DT) (bytes : List Byte) : State → State :=
  modMem fun m => { m with slots := m.slots.map fun c =>
    if (c.st == .armed || c.st == .triggered) && c.source == 3 && c.index == p.val then
      let l := c.blocks ++ [(stamp, bytes)]
      { c with blocks := l.drop (l.length - c.ring * 1048576 / 528) }
    else c }

/-- A path delivers a block of 64 samples (R143): `stamp` names the block, `mid` brings the samples at f_mid since the last one. Blocks that
it lost before are settled by one gap record (R32, R41). -/
def execPathBlockOutput (t : DT) (p : Fin 64) (stamp : DT) (mid : List Sample) (s : State) : Host.Outcome State Fault Refusal :=
  let s := moment t s
  let x := s.cx.paths[p]
  .next (if x.run != .running then s
    else match x.makeBlock p.val stamp mid with
      | some y =>
        let lost := 64 * lostBlocks x stamp
        let s := recordBlock p (stampOf x (x.since + lost)) y.block (tapCopy p stamp mid s)
        let s := if lost = 0 then s else closeGap p lost (stampOf x (x.since + lost)) (modPath p (fun x => { x with gapFrom := some x.next }) s)
        let s := deliverIntervals p 64 s
        modPath p (fun x => { y with dueOpen := x.dueOpen, delivered := x.delivered, gapped := x.gapped, gapFrom := none }) s
      | none => s)

/-! ### CTX_SYNC (R148, R153, R160) -/

/-- COUNT and the contexts of CTX_SYNC (R338). -/
def syncCount (a : List Byte) : Nat := le a 8 1
def syncCtxs (a : List Byte) : List Nat := ((List.range (syncCount a)).map fun i => le a (16 + i) 1).eraseDups

def specCtxSync : Spec :=
  { plain 0x0409 0 tZero [] with
    extent := fun a => 16 + syncCount a
    used := fun a => [(0, 9), (16, syncCount a)]
    range := fun s _ a =>
      let t := le a 0 8
      let n := (now s).toNat
      require (n + msDt 20 ≤ t && t ≤ n + 10 * 2 ^ 32) 0 ++ require (1 ≤ syncCount a && syncCount a ≤ 64) 8
        ++ (List.range (syncCount a)).flatMap fun i => require (tContext s (le a (16 + i) 1)) (16 + i) }

/-- Whether a named context is open; one of the secondary is the secondary's to judge. -/
def namedOpen (s : State) (c : Nat) : Bool :=
  match idx 64 c with
  | some c => s.cx.ctxs[c].st != .closed
  | none => true

/-- Whether a job reads a path of a named context. -/
def namedRead (s : State) (c : Nat) : Bool :=
  match idx 64 c with
  | some c => (pathsOf c s).any fun p => jobReadsPath p s
  | none => false

/-- The paths of a context are to put their SYNC sample on an instant. -/
def setGrid (t : DT) (s : State) (c : Nat) : State :=
  match idx 64 c with
  | some c => (pathsOf c s).foldl (fun s p => modPath p (fun x => { x with grid := some t }) s) s
  | none => s

/-- Whether a reset now puts a path's SYNC sample on an instant to within one output period (R148). -/
def resetMeets (p : Fin 64) (at_ : DT) (s : State) : Bool :=
  decide ((dtInt (now s) - resetDue p at_ s).natAbs ≤ outSpan 1 s.cx.paths[p])

/-- The paths of a context make the reset of a CTX_SYNC that begins past its due instant (R148, R153): one that was deferred, or that came
behind another command. DESIGN CHOICE (log entry 99): they reset at once, and their SYNC samples still lie on the grid of T. -/
def lateResets (at_ : DT) (s : State) (c : Nat) : State :=
  match idx 64 c with
  | some c => (pathsOf c s).foldl (fun s p =>
      if resetDue p at_ s + (outSpan 1 s.cx.paths[p] : Int) < dtInt (now s) then resetPath p s else s) s
  | none => s

/-- CTX_SYNC begins: deferred while a Saggar job reads one of the paths (R153); contexts of the secondary are told over the link. -/
def doCtxSync (h : Held) (s : State) : State :=
  let a := Entry.args h.entry
  let l := syncCtxs a
  let t : DT := BitVec.ofNat 64 (le a 0 8)
  if !l.all (namedOpen s) then reject h .errState s
  else if l.any (namedRead s) then deferCmd h [] s
  else
    let s := if l.any (fun c => 64 ≤ c) then emit (.link 1 (entryBytes h.op h.entry)) s else s
    let y : SyncCmd := { cmd := h.id, at_ := t, waiting := l, delivered := 0, left := 0 }
    l.foldl (lateResets t) (begin_ h (modCx (fun x => { x with syncs := x.syncs ++ [y] }) (l.foldl (setGrid t) s)))

def execCtxSync (e : Entry) (s : State) : Host.Outcome State Fault Refusal :=
  .next (hostCmd (.ctxSync e) specCtxSync doCtxSync e s)

/-- A CTX_SYNC begun before a Saggar job is held back as one that comes during it (R153): its command completes with OK_DEFERRED and, when
the job ends, begins anew; the paths that have made its reset keep it. -/
def deferSync (c : Nat) (s : State) : State :=
  let ys := s.cx.syncs.filter fun y => y.waiting.contains c
  let s := modCx (fun x => { x with syncs := x.syncs.filter fun y => !y.waiting.contains c }) s
  ys.foldl (fun s y => match findHeld y.cmd s with
    | some h => deferCmd h [] (modHeld h.id (fun h => { h with begun := false }) s)
    | none => s) s

/-- Ends the CTX_SYNC commands that wait for nothing (R148). -/
def endSyncs (s : State) : State :=
  let done := s.cx.syncs.filter fun y => y.waiting.isEmpty
  let s := modCx (fun x => { x with syncs := x.syncs.filter fun y => !y.waiting.isEmpty }) s
  done.foldl (fun s y => finishId y.cmd .ok [(16, 1, y.delivered), (17, 1, y.left), (24, 8, dtInt y.at_)] s) s

/-- A context leaves its CTX_SYNC (R148). -/
def leaveSync (c : Nat) (s : State) : State :=
  endSyncs (modCx (fun x => { x with
    syncs := x.syncs.map fun y => if y.waiting.contains c then { y with waiting := y.waiting.erase c, left := y.left + 1 } else y }) s)

/-- A context whose paths have all delivered their SYNC sample on the grid counts as delivered (R148). -/
def syncDelivered (c : Fin 64) (s : State) : State :=
  if (pathsOf c s).any (fun p => s.cx.paths[p].grid.isSome) then s
  else
    endSyncs (modCx (fun x => { x with
      syncs := x.syncs.map fun y =>
        if y.waiting.contains c.val then { y with waiting := y.waiting.erase c.val, delivered := y.delivered + 1 } else y }) s)

/-- The contexts of the secondary leave the CTX_SYNC commands that a test names (R148, R472, R478). -/
def peersLeave (which : SyncCmd → Bool) (s : State) : State :=
  endSyncs (modCx (fun x => { x with
    syncs := x.syncs.map fun y =>
      if which y then { y with waiting := y.waiting.filter (· < 64), left := y.left + (y.waiting.filter (64 ≤ ·)).length } else y }) s)

/-- What the secondary reports of a CTX_SYNC has no row (log entry 48). DESIGN CHOICE (log entry 64): on an empty queue at or after T, with
the link up, each of its contexts counts as delivered or as left, which of the two a free value; 10 s after T those still waiting leave. -/
def peerSyncs (s : State) : State :=
  let up := s.pair.link == .up || s.pair.link == .degraded
  let ripe (y : SyncCmd) : Bool := y.waiting.any (64 ≤ ·) && up && decide (y.at_.toNat ≤ (now s).toNat)
  let s := if s.cx.syncs.any ripe then
      let report (y : SyncCmd) : SyncCmd :=
        let n := (y.waiting.filter (64 ≤ ·)).length
        let d := (freeNow s).natAbs % (n + 1)
        { y with waiting := y.waiting.filter (· < 64), delivered := y.delivered + d, left := y.left + (n - d) }
      useFree (modCx (fun x => { x with syncs := x.syncs.map fun y => if ripe y then report y else y }) s)
    else s
  peersLeave (fun y => decide (y.at_.toNat + 10 * 2 ^ 32 ≤ (now s).toNat)) s

/-- Whether a CTX_SYNC waits for a path. -/
def syncAwaits (p : Fin 64) (s : State) : Bool :=
  s.cx.paths[p].grid.isSome && s.cx.syncs.any fun y => y.waiting.contains s.cx.paths[p].ctx

/-- A named path makes its synchronising reset, timed so that its SYNC sample lies on T (R148); in HOLD it waits. While a Saggar job
begun since reads the path, its command is held back (R153). -/
def execCtxSyncReset (t : DT) (p : Fin 64) (s : State) : Host.Outcome State Fault Refusal :=
  let s := moment t s
  .next (match s.cx.paths[p].grid with
    | some g =>
      if !syncAwaits p s || s.cx.paths[p].run == .hold || !resetMeets p g s then s
      else if jobReadsPath p s then deferSync s.cx.paths[p].ctx s
      else resetPath p s
    | none => s)

/-- A path in HOLD has not delivered 10 s after T (R148). -/
def execCtxSyncHoldTimeout (t : DT) (p : Fin 64) (s : State) : Host.Outcome State Fault Refusal :=
  let s := moment t s
  let x := s.cx.paths[p]
  .next (match x.grid with
    | some g => if x.run == .hold && syncAwaits p s && decide (g.toNat + 10 * 2 ^ 32 ≤ (now s).toNat) then leaveSync x.ctx s else s
    | none => s)

/-! ### SYNC samples, HOLD (R145 to R147) -/

/-- What a SYNC sample means to its context: the primary's restarts the context frames and the MPX window and ends HOLD (R158, R159,
R180); the branch's restarts its weight (R173); the new path's of an AF switch begins its parallel demodulation (R234). -/
def syncCtx (p : Fin 64) (stamp : DT) (s : State) : State :=
  match ctxOf p s with
  | some c =>
    let x := s.cx.ctxs[c]
    let s := if x.primary == some p then
        leaveHold c (modCtx c (fun x => (x.restartMpx.newWindow stamp).beginFrames stamp) s)
      else if x.branch == some p then modCtx c (fun x => { x with branchFrames := 0 }) s
      else modCtx c (fun x => { x with
        afSwitch := x.afSwitch.map fun w => if w.path == some p && w.stage = 1 then { w with stage := 2, since := stamp } else w }) s
    syncDelivered c s
  | none => s

/-- The stamp of a SYNC sample: as it is taken (R17), or on the grid of a CTX_SYNC's T where it does not lie before it (R148). -/
def syncStamp (x : Path) (stamp : DT) : DT :=
  match x.grid with
  | some g =>
    if stamp.toNat + outSpan 1 x / 2 < g.toNat then stamp
    else dtAdd g (outSpan (((stamp.toNat - g.toNat) * x.fout + 2 ^ 31) / 2 ^ 32) x)
  | none => stamp

/-- A path that has withheld its L samples (R145): the samples at f_mid up to there have passed the FIR, and its next output is the SYNC
sample of a new block. None before L outputs were made, or where the samples do not reach so far. -/
def Path.begin_ (t stamp : DT) (mid : List Sample) (x : Path) : Option Path :=
  let n := settling x
  let x := x.catchUp t
  if x.made < n then none
  else
    let at_ := (x.phases.drop (n - 1 - (x.made - x.phases.length))).headD 0
    if mid.length < x.needs at_ then none
    else
      let y := (mid.take (x.needs at_)).foldl (fun x m => x.feed m) x
      some { y with
        run := .running, syncAt := stamp, since := 0, next := stamp, opening := false, blockSync := true,
        phases := y.phases.drop (n - (y.made - y.phases.length)),
        grid := y.grid.filter fun g => decide (stamp.toNat < g.toNat) }

/-- A path delivers its SYNC sample after L withheld ones (R145, R146): at an open its due count starts there; otherwise its gap is settled
by one record. A SYNC sample before T is not yet that of CTX_SYNC (R148). `mid` brings the samples at f_mid since the reset. -/
def execSyncSample (t : DT) (p : Fin 64) (stamp : DT) (mid : List Sample) (s : State) : Host.Outcome State Fault Refusal :=
  let s := moment t s
  let x := s.cx.paths[p]
  let stamp := syncStamp x stamp
  .next (if x.run != .withholding then s
    else match x.begin_ (now s) stamp mid with
      | some y =>
        let n := match x.gapFrom with
          | some g => dtSince g stamp * x.fout / 2 ^ 32
          | none => 0
        let s := closeGap p n stamp (tapCopy p stamp mid s)
        let s := modPath p (fun x => { y with dueOpen := x.dueOpen, delivered := x.delivered, gapped := x.gapped, gapFrom := x.gapFrom }) s
        syncCtx p stamp s
      | none => s)

/-- The source of a path in HOLD delivers again (R147). -/
def execPathSourceResume (t : DT) (p : Fin 64) (s : State) : Host.Outcome State Fault Refusal :=
  let s := moment t s
  .next (if delivers s.cx.paths[p].source s && !s.time.bothLost then resumePath p s else s)

/-! ### Coefficient banks (R135, R136) -/

def coefCount (a : List Byte) : Nat := le a 2 2

def specCtxCoefLoad : Spec :=
  { plain 0x0407 0 tContext [] with
    ptrOnly := fun _ => true
    mport := fun _ => false
    remote := remoteCtx
    extent := fun a => 8 + 4 * coefCount a
    used := fun a => [(0, 4), (8, 4 * coefCount a)]
    range := fun _ _ a =>
      oneOf a 0 [0, 1] ++ oneOf a 1 [0, 1]
        ++ (List.range (coefCount a)).flatMap fun i =>
          let v := leInt a (8 + 4 * i) 4
          require (decide (-131072 ≤ v) && decide (v ≤ 131071)) (8 + 4 * i) }

/-- Whether a bank is active or taken by a fade (R136). -/
def bankBusy (b : Bool) (x : Path) : Bool :=
  x.activeB == b || x.fade.isSome || (match x.queued with | some q => q.target == b | none => false)

def doCtxCoefLoad (h : Held) (s : State) : State :=
  let a := Entry.args h.entry
  match openCtx h s with
  | some c => match pathsNamed c (le a 1 1) s with
    | some (p :: _) =>
      let b := le a 0 1 == 1
      let coefs := (List.range (coefCount a)).map fun i => leInt a (8 + 4 * i) 4
      if coefCount a ≠ s.cx.paths[p].firLen then fail h .errParam (Entry.offset h.entry 2) .outOfRange s
      else if bankBusy b s.cx.paths[p] then reject h .errState s
      else finish h .ok [(16, 1, bit b)] (modPath p (fun x => if b then { x with bankB := coefs } else { x with bankA := coefs }) s)
    | _ => reject h .errState s
  | none => reject h .errState s

def execCtxCoefLoad (e : Entry) (s : State) : Host.Outcome State Fault Refusal :=
  .next (hostCmd (.ctxCoefLoad e) specCtxCoefLoad doCtxCoefLoad e s)

/-! ### Swaps (R137 to R139, R154) -/

def specCtxCoefSwap : Spec :=
  { itemCmd 0x0408 tContext [(3, 1)] (fun f => 0x0704 ≤ f && f ≤ 0x0705) with
    remote := remoteCtx
    range := fun _ _ a => itemOffences (fun f => 0x0704 ≤ f && f ≤ 0x0705) (fun _ _ => true) a ++ oneOf a 3 [0, 1] }

/-- Result of a swap (R338). -/
def swapResult (b : Bool) (s : State) : List (Nat × Nat × Int) := [(16, 1, bit b), (24, 8, dtInt (now s))]

/-- A swap request on a path: done at once where its bank is active and nothing fades; otherwise it waits for the frame boundary, or
behind the fade before it, where it replaces a queued one (R137, R138). DESIGN CHOICE (log entry 65): one that arrives while the first
still waits for its boundary is queued behind it like one that arrives during the fade, whatever its target. -/
def requestSwap (h : Held) (p : Fin 64) (q : Swap) (s : State) : State :=
  let x := s.cx.paths[p]
  if x.fade.isSome then
    let s := match x.queued with
      | some old => finishId old.cmd .okCoalesced (swapResult x.activeB s) s
      | none => s
    park h [] (modPath p (fun x => { x with queued := some q }) s)
  else if q.target = x.activeB then finish h .ok (swapResult x.activeB s) s
  else park h [] (modPath p (fun x => { x with fade := some (q, false) }) s)

def doCtxCoefSwap (h : Held) (s : State) : State :=
  match openCtx h s with
  | some c => match pathsNamed c (itemArg8 (Entry.args h.entry)) s with
    | some (p :: _) =>
      let l := itemsOf h
      requestSwap h p { target := fget l 0x0704 == 1, len := (fget l 0x0705).toNat, cmd := h.id } s
    | _ => reject h .errState s
  | none => reject h .errState s

def execCtxCoefSwap (e : Entry) (s : State) : Host.Outcome State Fault Refusal :=
  .next (hostCmd (.ctxCoefSwap e) specCtxCoefSwap doCtxCoefSwap e s)

/-- The queued swap takes its turn: done at once where its bank is active (R138). -/
def promoteSwap (p : Fin 64) (s : State) : State :=
  let x := s.cx.paths[p]
  match x.queued with
  | some q =>
    if q.target = x.activeB then
      finishId q.cmd .ok (swapResult x.activeB s) (modPath p (fun x => { x with queued := none, fade := none }) s)
    else modPath p (fun x => { x with queued := none, fade := some (q, false) }) s
  | none => modPath p (fun x => { x with fade := none }) s

/-- A swap whose command has ended before its fade began has no effect (R303, R310). -/
def forgetSwap (id : Nat) (s : State) : State :=
  (List.finRange 64).foldl (fun s p =>
    let x := s.cx.paths[p]
    if x.queued.map (·.cmd) = some id then modPath p (fun x => { x with queued := none }) s
    else match x.fade with
      | some (q, false) => if q.cmd = id then promoteSwap p s else s
      | _ => s) s

/-- A swap starts its cross-fade at the path's frame boundary (R137). -/
def execFadeStart (t : DT) (p : Fin 64) (s : State) : Host.Outcome State Fault Refusal :=
  let s := moment t s
  let x := s.cx.paths[p]
  .next (match x.fade with
    | some (q, false) =>
      if x.run == .running then modHeld q.cmd (fun h => { h with begun := true }) (modPath p (fun x => { x with fade := some (q, true), fadePos := 0 }) s)
      else s
    | _ => s)

/-- A cross-fade reaches full weight after its length in FIR samples (R137, R138). -/
def execFadeEnd (t : DT) (p : Fin 64) (s : State) : Host.Outcome State Fault Refusal :=
  let s := moment t s
  let x := s.cx.paths[p]
  .next (match x.fade with
    | some (q, true) =>
      if x.run == .running && decide (fadeSamples x q ≤ x.fadePos) then
        let s := modPath p (fun x => { x with activeB := q.target, fade := none, fadePos := 0 }) s
        promoteSwap p (finishId q.cmd .ok (swapResult q.target s) s)
      else s
    | _ => s)

/-! ### Threshold comparators (R149 to R152) -/

def specCtxSetThresholds : Spec :=
  { itemCmd 0x0404 tContext [(3, 1)] (fun f => 0x0706 ≤ f && f ≤ 0x070C) with
    remote := remoteCtx
    range := fun _ _ a => itemOffences (fun f => 0x0706 ≤ f && f ≤ 0x070C) (fun _ _ => true) a ++ oneOf a 3 [0, 1, 2] }

/-- The rule of R152 on a path's fields. -/
def levelsOk (cfg : FieldSet) : Bool := decide (fget cfg 0x0708 + 2 * fget cfg 0x0709 ≤ fget cfg 0x0707)

/-- CTX_SET_THRESHOLDS waits for the frame boundary of each path it names; the paths left are kept. -/
def doCtxSetThresholds (h : Held) (s : State) : State :=
  match openCtx h s with
  | some c => match pathsNamed c (itemArg8 (Entry.args h.entry)) s with
    | some ps =>
      if ps.all fun p => levelsOk (fmerge s.cx.paths[p].cfg (itemsOf h)) then park h (ps.map fun p => (p.val : Int)) s
      else fail h .errParam 0xFFFF .outOfRange s
    | none => reject h .errState s
  | none => reject h .errState s

def execCtxSetThresholds (e : Entry) (s : State) : Host.Outcome State Fault Refusal :=
  .next (hostCmd (.ctxSetThresholds e) specCtxSetThresholds doCtxSetThresholds e s)

/-- A dwell starts anew. -/
def Comparator.restart (c : Comparator) : Comparator := { c with blocks := 0 }

/-- New threshold fields of a path (R152, R155): a commit of ST fields restarts both dwells, a re-enabled comparator its own, and a new
PWR_BLOCK the running block. -/
def applyThresholds (l : FieldSet) (x : Path) : Path :=
  let old := (fget x.cfg 0x0706).toNat
  let cfg := fmerge x.cfg l
  let new := (fget cfg 0x0706).toNat
  let st := !(ofClass .st l).isEmpty
  let block := fget cfg 0x070A != fget x.cfg 0x070A
  { x with
    cfg := cfg,
    powSum := if block then 0 else x.powSum,
    powN := if block then 0 else x.powN,
    high := if st || (testBit new 0 && !testBit old 0) then x.high.restart else x.high,
    low := if st || (testBit new 1 && !testBit old 1) then x.low.restart else x.low }

/-- The threshold commands that still have to apply on a path (R152): those that wait, and those that have applied on the context's other
path. -/
def thresholdCmds (p : Fin 64) (s : State) : List Held :=
  s.host.held.filter fun h => h.op == 0x0404 && h.entry.target.toNat == s.cx.paths[p].ctx && !late h s && (h.aux.drop 1).contains (p.val : Int)

/-- The fields that some threshold commands bring together, in submission order, and the commands whose levels agree with a set and the
fields before them. -/
def thresholdFields (cfg : FieldSet) (l : List Held) : FieldSet × List Held :=
  l.foldl (fun r h =>
    let acc := fmerge r.1 (itemsOf h)
    if levelsOk (fmerge cfg acc) then (acc, r.2 ++ [h]) else r) ([], [])

/-- The waiting threshold commands apply at a path's frame boundary together (R12, R152); one whose levels no longer agree with what those
before it set changes nothing more. -/
def thresholdsAt (p : Fin 64) (s : State) : State :=
  let l := thresholdCmds p s
  let r := thresholdFields s.cx.paths[p].cfg l
  let s := if r.2.isEmpty then s else modPath p (applyThresholds r.1) s
  l.foldl (fun s h =>
    if !r.2.contains h then fail h .errParam 0xFFFF .outOfRange s
    else
      let left := (h.aux.drop 1).filter fun q => q != (p.val : Int)
      if left.isEmpty then finishC h s else note h (1 :: left) s) s

/-- The whole blocks of a dwell: rounded up, at least one (R150). -/
def dwellBlocks (ms blockUs : Nat) : Nat := max 1 (ceilDiv (ms * 1000) blockUs)

/-- One block's step of a comparator (R150): `meets` says that the block is beyond the threshold it waits for. The result tells whether
the dwell is complete. -/
def Comparator.step (c : Comparator) (meets : Bool) (blocks : Nat) (stamp : DT) : Comparator × Bool :=
  if !meets then ({ c with blocks := 0 }, false)
  else
    let c := { c with first := if c.blocks = 0 then stamp else c.first, blocks := c.blocks + 1 }
    if blocks ≤ c.blocks then ({ c with entered := !c.entered, blocks := 0 }, true) else (c, false)

/-- THRESH_HIGH and THRESH_LOW (R344): direction 0 ENTER, 1 CLEAR. -/
def threshEvent (ev : Ev) (p : Fin 64) (c : Comparator) (level : Int) (s : State) : State :=
  raise ev [(16, 1, p.val), (17, 1, bit (!c.entered)), (18, 1, s.cx.paths[p].ctx), (20, 2, level), (24, 8, dtInt c.first)] s

/-- 10·log10 of num/den in 0.1 dB for 0 < num ≤ 1000 · den, rounded as `ratio` rounds (R149). -/
def tenthsDb (num den : Nat) : Int :=
  let a := num ^ 100
  let b := den ^ 100
  match (List.range 3000).find? fun i => decide (b * 10 ^ 300 ≤ a * 10 ^ i) with
  | some i => 300 - i + bit (b * 10 ^ 300 != a * 10 ^ i && Config.roundUp num den)
  | none => -2700

/-- The level in dBm at a source's input pins of full scale in its stream, in 0.01 dB (R79, R103, R149): the calibrated gain with the
digital gain that compensates its steps, so that a step moves no level. None for a peer's stream, whose gain the peer controls (R92). -/
def sourceScale (src : Nat) (s : State) : Option Int :=
  match srcCarver src, srcTuner src with
  | some c, _ => (carverInput s.rf.carvers[c]).map (fun i => -100 - (s.rf.wb[i].calGain s.rf.wb[i].gain + s.rf.wb[i].digital))
  | _, some n => some (Config.tunerFullScale n.val - 100 * (s.rf.tuners[n].gain + s.rf.tuners[n].digital))
  | _, _ => none

/-- The level of a power block in 0.1 dBm: its mean of I² + Q² against full scale, referred to the source's pins (R149). Of a block
without power, and on a peer's stream, whose scale is not told, it is a free value. -/
def blockLevel (p : Fin 64) (sum n : Nat) (s : State) : Int × State :=
  match sourceScale s.cx.paths[p].source s with
  | some k =>
    if sum = 0 then (freeNow s, useFree s) else (tenthsDb sum (n * 0x7FFFFF ^ 2) + ratio k 10, s)
  | none => (freeNow s, useFree s)

/-- A power block goes to both comparators, the high one first (R150, R151). -/
def judgeBlock (p : Fin 64) (stamp : DT) (level : Int) (s : State) : State :=
  let x := s.cx.paths[p]
  let en := (fget x.cfg 0x0706).toNat
  let us := (fget x.cfg 0x070A).toNat
  let hyst := fget x.cfg 0x0709
  let hi := fget x.cfg 0x0707
  let lo := fget x.cfg 0x0708
  let s := if testBit en 0 then
      let r := x.high.step (if x.high.entered then decide (level < hi - hyst) else decide (hi < level))
        (dwellBlocks (fget x.cfg 0x070B).toNat us) stamp
      let s := modPath p (fun x => { x with high := r.1 }) s
      if r.2 then threshEvent .threshHigh p r.1 level s else s
    else s
  if testBit en 1 then
    let r := x.low.step (if x.low.entered then decide (lo + hyst < level) else decide (level < lo))
      (dwellBlocks (fget x.cfg 0x070C).toNat us) stamp
    let s := modPath p (fun x => { x with low := r.1 }) s
    if r.2 then threshEvent .threshLow p r.1 level s else s
  else s

/-- A block of the power detector ends (R149 to R151): the high comparator is judged first. -/
def execPowerBlockEnd (t : DT) (p : Fin 64) (s : State) : Host.Outcome State Fault Refusal :=
  let s := moment t s
  .next (match s.cx.paths[p].powers with
    | (sum, n, stamp) :: rest =>
      if s.cx.paths[p].run != .running then s
      else
        let (level, t) := blockLevel p sum n s
        judgeBlock p stamp level (modPath p (fun x => { x with powers := rest, level := level }) t)
    | [] => s)

end Sys2Proof.Machine
end

