-- ==== Sys2Proof/Machine/Meter.lean ====
section
/-!
DEFINITION. Meter.lean: the arithmetic of the measurement chain of an audio service: loudness and its range (R251, R252), the signature words
(R254), and the matcher with its candidates and counts (R258, R259).
-/
namespace Sys2Proof.Machine

/-! ### Levels -/

/-- Every run of `n` values in a row of a list. -/
def runsOf {α : Type} (n : Nat) (l : List α) : List (List α) := (List.range (l.length + 1 - n)).map fun i => (l.drop i).take n
def leastOf (l : List Nat) : Nat := l.foldl min (l.headD 0)
def greatestOf (l : List Nat) : Nat := l.foldl max 0
def sumOf (l : List Nat) : Nat := l.foldl (· + ·) 0

/-- The largest of `2^n` steps from 0 that meets a test which holds of no step beyond one that fails it. -/
def bisect (n : Nat) (p : Nat → Bool) : Nat :=
  (List.range n).foldl (fun (k : Nat) i => if p (k + 2 ^ (n - 1 - i)) then k + 2 ^ (n - 1 - i) else k) 0

/-- 10·log10 of num/den in 0.01 dB from -200 dB to 127.67 dB, rounded as `ratio` rounds. -/
def hundredthsDb (num den : Nat) : Int :=
  let a := num ^ 1000 * 10 ^ 20000
  let b := den ^ 1000
  let k := bisect 15 fun k => decide (b * 10 ^ k ≤ a)
  (k : Int) - 20000 + bit (b * 10 ^ k != a && Config.roundUp num den)

/-! ### Loudness (R251, R252) -/

/-- Full scale of the power of one block of 100 ms: 4800 frames of a sample of 1.0. -/
def blockScale : Nat := 4800 * (2 ^ 23) ^ 2

/-- The loudness −0.691 + 10·log10 of a mean power in 0.1 LU, rounded as `ratio` rounds: of the powers of `n` blocks of 100 ms their sum.
None where there is no power at all. -/
def loudness (sum n : Nat) : Option Int :=
  if sum = 0 then none
  else
    let a := sum ^ 10000 * 10 ^ 199309
    let b := (n * blockScale) ^ 10000
    let k := bisect 12 fun k => decide (b * 10 ^ (100 * k) ≤ a)
    some ((k : Int) - 2000 + bit (b * 10 ^ (100 * k) != a && Config.roundUp sum (n * blockScale)))

/-- Whether the power of `n` blocks lies above −70 LUFS. -/
def aboveFloor (n sum : Nat) : Bool := decide ((n * blockScale) ^ 10000 < sum ^ 10000 * 10 ^ 69309)

/-- The powers of the measuring blocks of `n` blocks of 100 ms in a list, the newest first: a run that a MUTED block interrupts is none. -/
def gates (n : Nat) (l : List LoudBlock) : List Nat :=
  ((runsOf n l).filter fun r => match r.head?, r.getLast? with
    | some a, some b => decide (dtSince b.stamp a.stamp ≤ msDt (100 * (n - 1) + 10))
    | _, _ => false).map fun r => sumOf (r.map (·.power))

/-- Integrated loudness over a span (R251): gated at −70 LUFS, then at 10 LU below the mean of what remains. -/
def integratedOf (l : List LoudBlock) : Option Int :=
  let z := (gates 4 l).filter (aboveFloor 4)
  let w := z.filter fun k => decide (sumOf z < 10 * z.length * k)
  if w.isEmpty then none else loudness (sumOf w) (4 * w.length)

/-- Loudness range over a span (R251): the 10th to the 95th percentile of the short-term values gated at −70 LUFS and at 20 LU below
their mean. DESIGN CHOICE (log entry 84): a percentile is the value whose place is nearest to it. -/
def rangeOf (l : List LoudBlock) : Option Int :=
  let z := (gates 30 l).filter (aboveFloor 30)
  let w := (z.filter fun k => decide (sumOf z < 100 * z.length * k)).foldl (fun acc k => insertDesc k acc) []
  let at_ (p : Nat) : Nat := w.getD (w.length - 1 - (roundDiv ((w.length - 1) * p : Nat) 100).toNat) 0
  if w.isEmpty then none else some (ratio (hundredthsDb (at_ 95) (at_ 10)) 10)

/-- The blocks of a span, from a stamp up to another. -/
def blocksIn (from_ stop : Nat) (l : List LoudBlock) : List LoudBlock :=
  l.filter fun b => decide (from_ ≤ b.stamp.toNat) && decide (b.stamp.toNat < stop)

/-- Momentary (`n` = 4) and short-term (`n` = 30) loudness at a stamp: over the blocks of the `n` · 100 ms before it that are not excluded. -/
def recentLoudness (n : Nat) (stop : DT) (l : List LoudBlock) : Option Int :=
  let m := blocksIn (stop.toNat - msDt (100 * n) - 8) stop.toNat l
  loudness (sumOf (m.map (·.power))) m.length

/-- The blocks of the span that INT_MODE sets, up to a stamp (R252): since the last RESET or the service's start, the last INT_PERIOD, or the
open item or since the end of the last one. A RESET at that stamp or later leaves the span before it in force (R262). -/
def spanOf (y : Svc) (t : DT) : List LoudBlock :=
  let from_ : Nat :=
    if fget y.cfg 0x0B05 = 1 then t.toNat - (fget y.cfg 0x0B06).toNat * 2 ^ 32
    else if fget y.cfg 0x0B05 = 2 then match y.item with
      | some a => a.start.toNat
      | none => y.itemEnd.toNat
    else if t.toNat ≤ y.loudFrom.toNat then y.loudOld.toNat
    else y.loudFrom.toNat
  blocksIn from_ t.toNat y.loudHist

/-- The greater of two figures of which the first may not exist yet. -/
def raiseTo (a : Option Int) (b : Option Int) : Option Int :=
  match a, b with
  | some x, some y => some (max x y)
  | some x, none => some x
  | none, y => y

/-- A figure as a record gives it: one that does not exist, for want of any sound, is a free value (log entry 84). -/
def told (v : Option Int) (s : State) : Int × State :=
  match v with
  | some k => (k, s)
  | none => (freeNow s, useFree s)

/-! ### Signature words (R254) -/

/-- Insertion by ascending quotient: numerator, denominator. -/
def insertRatio (n : Nat × Nat) : List (Nat × Nat) → List (Nat × Nat)
  | [] => [n]
  | m :: rest => if n.1 * m.2 < m.1 * n.2 then n :: m :: rest else m :: insertRatio n rest

/-- The word of a sub-frame from the energies of its bands and those two sub-frames before: bit b where d, the difference of the log
energies, exceeds the median of all eight. d is the log of the quotient of the energies, and the mean of two logs that of a product's root. -/
def wordOf (e e2 : List Nat) : Nat :=
  let d := List.zipWith Prod.mk e e2
  let o := d.foldl (fun acc k => insertRatio k acc) []
  let p := o.getD 3 (0, 1)
  let q := o.getD 4 (0, 1)
  (List.range 8).foldl (fun (n : Nat) b =>
    let k := d.getD b (0, 1)
    if p.1 * q.1 * (k.2 * k.2) < k.1 * k.1 * (p.2 * q.2) then n + 2 ^ b else n) 0

/-- Whether a sub-frame is reliable: none of its samples CONCEALED or MUTED, its mono level at least −60 dBFS. -/
def subReliable (f : SubFrame) : Bool := !f.concealed && !f.muted && f.loud

/-- The words of sub-frames after some others, the newest of these first. DESIGN CHOICE (log entry 84): where no sub-frame lies two
before one, as at a service's start, or a band has no energy, whose log there is none, its word is a free value. -/
def subWords : List (List Nat) → List SubFrame → State → List (Nat × Bool) × State
  | _, [], s => ([], s)
  | hist, f :: rest, s =>
    let (w, s) := match hist[1]? with
      | some e2 => if (f.bands ++ e2).contains 0 then ((freeNow s % 256).toNat, useFree s) else (wordOf f.bands e2, s)
      | none => ((freeNow s % 256).toNat, useFree s)
    let (l, s) := subWords (f.bands :: hist.take 1) rest s
    ((w, subReliable f) :: l, s)

/-- RELIABLE of the words of a second. -/
def reliableBits (l : List (Nat × Bool)) : Nat := l.zipIdx.foldl (fun (n : Nat) x => if x.1.2 then n + 2 ^ x.2 else n) 0

/-! ### The matcher (R258, R259). Sub-frames of a service are numbered from its start, those of a reference from 0; the offset of a candidate is
the service's number of the reference's sub-frame 0. -/

/-- The sub-frames of a reference. -/
def Ref.len (r : Ref) : Nat := 32 * r.seconds

/-- The word of a reference's sub-frame, and whether it is reliable. -/
def Ref.word (r : Ref) (j : Nat) : Nat × Bool :=
  (le r.words (36 * (j / 32) + j % 32) 1, testBit (le r.words (36 * (j / 32) + 32) 4) (j % 32))

/-- The number of the next sub-frame of a service. -/
def nextSubFrame (y : Svc) : Nat := 32 * y.sigSec

/-- The word of a service's sub-frame, where it is still held. -/
def svcWord (y : Svc) (n : Int) : Option (Nat × Bool) :=
  if n < 0 ∨ (nextSubFrame y : Int) ≤ n then none else y.words[(nextSubFrame y - 1 - n.toNat : Nat)]?

/-- The bits in which two words differ. -/
def diffBits (a b : Nat) : Nat := (List.range 8).countP fun k => testBit a k != testBit b k

/-- The bits that differ and the sub-frames compared, from reference sub-frame `lo` on, `n` of them at an offset: those reliable on both
sides. -/
def compareSubs (y : Svc) (r : Ref) (off : Int) (lo n : Nat) : Nat × Nat :=
  (List.range n).foldl (fun (acc : Nat × Nat) i =>
    match svcWord y (off + (lo + i : Nat)), r.word (lo + i) with
    | some (a, true), (b, true) => (acc.1 + diffBits a b, acc.2 + 1)
    | _, _ => acc) (0, 0)

/-- Whether one bit error rate is below another: bits that differ, sub-frames compared. -/
def lowerBer (a b : Nat × Nat) : Bool := decide (a.1 * b.2 < b.1 * a.2)

/-- Whether a bit error rate is at most `c` hundredths. -/
def berAtMost (c : Int) (a : Nat × Nat) : Bool := decide (((100 * a.1 : Nat) : Int) ≤ c * (8 * a.2 : Nat))

/-- The seconds of a reference that have been aired whole at an offset. -/
def airedSeconds (y : Svc) (r : Ref) (off : Int) : Nat := min r.seconds ((nextSubFrame y - off).toNat / 32)

/-- The window of a match (R258): the last MATCH_WIN seconds of the reference that have been aired, by its first sub-frame and length; none
before there are so many. -/
def matchWindow (y : Svc) (r : Ref) (off : Int) : Option (Nat × Nat) :=
  let w := (fget y.cfg 0x0B0D).toNat
  let k := airedSeconds y r off
  if k < w then none else some (32 * (k - w), 32 * w)

/-- The rate over the window of a match, where at least 75 % of it can be compared. -/
def windowBer (y : Svc) (r : Ref) (off : Int) : Option (Nat × Nat) :=
  match matchWindow y r off with
  | some (lo, n) =>
    let a := compareSubs y r off lo n
    if 3 * n ≤ 4 * a.2 then some a else none
  | none => none

/-- A candidate is searched again by one sub-frame on either side (R258), over the last seconds that a match is judged by. -/
def research (y : Svc) (r : Ref) (off : Int) : Int :=
  let rate (o : Int) : Nat × Nat :=
    let m := (fget y.cfg 0x0B0D).toNat * 32
    let done := min r.len (nextSubFrame y - o).toNat
    compareSubs y r o (done - m) (min m done)
  let pick (a b : Int) : Int := if lowerBer (rate b) (rate a) then b else a
  pick (pick off (off - 1)) (off + 1)

/-- The candidates that the consecutive word pairs of the last second bring (R258). -/
def newCandidates (y : Svc) (lib : List Ref) : List (Nat × Int) :=
  (List.range 32).flatMap fun (i : Nat) =>
    let n : Int := (nextSubFrame y : Int) - 33 + (i : Nat)
    match svcWord y n, svcWord y (n + 1) with
    | some a, some b => lib.flatMap fun r =>
      (List.range (r.len - 1)).filterMap fun j =>
        if (r.word j).1 == a.1 && (r.word (j + 1)).1 == b.1 then some (r.id, n - (j : Nat)) else none
    | _, _ => []

/-- The reference of a number. -/
def refOf (lib : List Ref) (id : Nat) : Option Ref := lib.find? (·.id == id)

/-- The candidates after a second: those held, searched again, and the new ones, while their reference has been aired no longer than a
second. -/
def candidatesOf (y : Svc) (lib : List Ref) : List (Nat × Int) :=
  let old := y.cands.filterMap fun k => (refOf lib k.1).map fun r => (k.1, research y r k.2)
  (old ++ newCandidates y lib).eraseDups.filter fun k => match refOf lib k.1 with
    | some r => decide ((nextSubFrame y : Int) ≤ k.2 + r.len + 32)
    | none => false

/-- Of two matches the one with the lower rate, of equals the lower REF_ID (R262). -/
def betterMatch (a b : Nat × Int × (Nat × Nat)) : Nat × Int × (Nat × Nat) :=
  if lowerBer b.2.2 a.2.2 || (!lowerBer a.2.2 b.2.2 && decide (b.1 < a.1)) then b else a

/-- The best of the candidates that match at the end of a second (R258). -/
def bestMatch (y : Svc) (lib : List Ref) : Option (Nat × Int × (Nat × Nat)) :=
  (y.cands.filterMap fun k => match refOf lib k.1 with
    | some r => match windowBer y r k.2 with
      | some a => if berAtMost (fget y.cfg 0x0B0E) a then some (k.1, k.2, a) else none
      | none => none
    | none => none).foldl (fun (best : Option (Nat × Int × (Nat × Nat))) k => match best with
      | some b => some (betterMatch b k)
      | none => some k) none

/-- The on-air stamp of a service's sub-frame, from the seconds still held. -/
def subFrameStamp (y : Svc) (n : Int) : Option DT :=
  if n < 0 then none
  else (y.recent[(y.sigSec - 1 - n.toNat / 32 : Nat)]?).map fun r => dtAdd r.1 (n.toNat % 32 * 2 ^ 27)

/-- Mean BER of an item in 1/65536, and its coverage in 0.1 % (R259). -/
def itemBer (a : Airplay) : Int := if a.compared = 0 then 0 else ratio (a.errors * 65536 : Nat) (8 * a.compared)
def itemCoverage (a : Airplay) : Int := if a.total = 0 then 0 else ratio (a.compared * 1000 : Nat) a.total

end Sys2Proof.Machine
end

