-- ==== Sys2Proof/Machine/Line.lean ====
section
/-!
DEFINITION. Line.lean: a line of programme audio at 48 kHz: its stamps, the frames that join it and those that blocks take (R244, R246,
R247), its meter (R251) and the sub-frames of its signature (R254); and the captures that record blocks (R425 to R429).
-/
namespace Sys2Proof.Machine

/-! ### Stamps (R247, R251, R254) -/

/-- The number of the frame at a stamp, counted at 48 kHz from DT zero. -/
def frameNo (t : DT) : Nat := t.toNat * 48000 / 2 ^ 32

/-- The number from DT zero and the stamp of frame `n` of a line. -/
def Line.no (x : Line) (n : Nat) : Nat := frameNo (x.start.getD 0) + n
def Line.stamp (x : Line) (n : Nat) : DT := dtAdd (x.start.getD 0) (n * 2 ^ 32 / 48000)

/-- The stamp of the next frame that a block takes. -/
def Line.next (x : Line) : DT := x.stamp x.count

/-- A frame of a line, by its number in it, while it is held. -/
def Line.frame? (x : Line) (n : Int) : Option AFrame :=
  if n < 0 then none
  else if n < x.count then x.past[(x.count - 1 - n.toNat : Nat)]?
  else (x.wait[(n.toNat - x.count : Nat)]?).map (·.2)

/-! ### Ramps (R244, R248, R279, R280) -/

/-- A sample at step `k` of a ramp of `n`: 0 at its foot, itself at its top. -/
def rampTo (n k : Nat) (v : Int) : Int :=
  if k = 0 then 0 else if n ≤ k then v else ratio (v * Config.ramp n k) (2 ^ 23)

def AFrame.ramp (n k : Nat) (f : AFrame) : AFrame := { f with l := rampTo n k f.l, r := rampTo n k f.r }

/-- A muted frame of zeros. -/
def AFrame.silent : AFrame := { l := 0, r := 0, conc := false, mute := true }

/-- The mean of two channels. -/
def meanOf (l r : Int) : Int := ratio (l + r) 2

/-! ### Frames join a line -/

/-- A line begins anew at a stamp: its meter and its signature begin with it. What they have completed stays. -/
def Line.begin_ (made stamp : DT) (fs : List AFrame) (x : Line) : Line :=
  { Line.reset with
    start := some stamp, wait := fs.map fun f => (made, f), second := ceilDiv stamp.toNat (2 ^ 32),
    meter := { Meter.reset with done := x.meter.done } }

/-- Frames made now join a line at their stamp: a gap before them is filled with MUTED ones, what lies in it already is dropped. DESIGN CHOICE
(log entry 108): after a gap of more than a second, as a stay in Dormant leaves one, the line begins anew. -/
def Line.push (made stamp : DT) (fs : List AFrame) (x : Line) : Line :=
  match x.start with
  | none => x.begin_ made stamp fs
  | some t =>
    let e : Int := ((x.count + x.wait.length : Nat) : Int)
    let k := roundDiv ((dtInt stamp - dtInt t) * 48000) (2 ^ 32)
    if e + 48000 < k then x.begin_ made stamp fs
    else { x with wait := x.wait ++ List.replicate (k - e).toNat (made, AFrame.silent) ++ (fs.drop (e - k).toNat).map fun f => (made, f) }

/-! ### The meter (R251). PRESUMED (log entry 109): the coefficients of ITU-R BS.1770. -/

/-- One sample through the two stages of the K-weighting, in 2^-16. -/
def KFilter.step (v : Int) (f : KFilter) : KFilter :=
  let x := v * 2 ^ 16
  let d : Nat := 100000000000000
  let y := roundDiv (153512485958697 * x - 269169618940638 * f.x1 + 119839281085285 * f.x2 + 169065929318241 * f.y1 - 73248077421585 * f.y2) d
  let z := roundDiv (100000000000000 * (y - 2 * f.y1 + f.y2) + 199004745483398 * f.z1 - 99007225036621 * f.z2) d
  { x1 := x, x2 := f.x1, y1 := y, y2 := f.y1, z1 := z, z2 := f.z1 }

/-- The phases of the 4x oversampling filter, in 2^-13. -/
def peakPhases : List (List Int) :=
  [[14, 90, -161, 272, -487, 1125, 7964, -838, 390, -218, 122, -68], [-239, 240, -424, 730, -1364, 3810, 6388, -1641, 832, -477, 271, -155],
    [-155, 271, -477, 832, -1641, 6388, 3810, -1364, 730, -424, 240, -239], [-68, 122, -218, 390, -838, 7964, 1125, -487, 272, -161, 90, 14]]

/-- The greatest of the four samples between the last ones, newest first, in 2^-13. -/
def truePeak (l : List Int) : Nat :=
  greatestOf (peakPhases.map fun h => (List.zipWith (· * ·) h l).sum.natAbs)

/-- A true peak in 0.1 dB of full scale; none where there is no sound. -/
def peakDb (p : Nat) : Option Int := if p = 0 then none else some (ratio (hundredthsDb (p * p) (2 ^ 72)) 10)

/-- The block that is under way is complete, and with it tenth `k` of a second begins (R251). -/
def Meter.turn (k : Nat) (m : Meter) : Meter :=
  let b : LoudBlock :=
    { stamp := BitVec.ofNat 64 (ceilDiv ((k - 1) * 2 ^ 32) 10), power := m.power / 2 ^ 32, peakL := peakDb m.peakL, peakR := peakDb m.peakR,
      muted := m.muted }
  let done := if m.running then m.done ++ [b] else m.done
  { m with running := true, power := 0, peakL := 0, peakR := 0, muted := false, done := done }

/-- Frame `n` from DT zero passes through the meter; the blocks begin at whole tenths of a second. One channel counts of mono. -/
def Meter.frame (n : Nat) (stereo : Bool) (f : AFrame) (m : Meter) : Meter :=
  let m := if n % 4800 = 0 then m.turn (n / 4800) else m
  let kl := m.kl.step f.l
  let kr := m.kr.step f.r
  let l := (f.l :: m.tapsL).take 12
  let r := (f.r :: m.tapsR).take 12
  { m with
    kl := kl, kr := kr, tapsL := l, tapsR := r, power := m.power + kl.z1.natAbs ^ 2 + (if stereo then kr.z1.natAbs ^ 2 else 0),
    peakL := max m.peakL (truePeak l), peakR := max m.peakR (truePeak (if stereo then r else l)), muted := m.muted || f.mute }

/-! ### Blocks are taken (R250, R251, R254) -/

/-- One frame is taken: it passes through the meter while that is on, and the mono signal is decimated to 8 kHz. -/
def Line.feed (metered stereo : Bool) (x : Line) (f : AFrame) : Line :=
  let n := x.no x.count
  let past := f :: x.past
  let six := past.take 6
  { x with
    count := x.count + 1, past := past,
    meter := if metered then x.meter.frame n stereo f else Meter.reset,
    mono := if n % 6 = 0 then
        { v := Config.decimated ((past.take 256).map fun f => f.l + f.r), conc := six.any (·.conc), mute := six.any (·.mute) } :: x.mono
      else x.mono,
    monoNext := if n % 6 = 0 then n / 6 + 1 else x.monoNext }

/-- A block of frames is taken. -/
def Line.take_ (metered stereo : Bool) (fs : List AFrame) (x : Line) : Line :=
  let y := fs.foldl (Line.feed metered stereo) x
  { y with wait := y.wait.drop fs.length, past := y.past.take 201600, mono := y.mono.take 9000 }

/-! ### The sub-frames of a signature second (R254) -/

/-- The 512 samples at 8 kHz from number `j` on, oldest first, while they are held. -/
def Line.window (x : Line) (j : Nat) : Option (List Mono) :=
  let l := (x.mono.drop (x.monoNext - (j + 512))).take 512
  if j + 512 ≤ x.monoNext ∧ l.length = 512 then some l.reverse else none

/-- Whether bin `k` of 15.625 Hz lies in half-octave band `b`, from 250·2^(b/2) Hz. -/
def inOctave (b k : Nat) : Bool := decide (256 * 2 ^ b ≤ k * k) && decide (k * k < 256 * 2 ^ (b + 1))

/-- The energy of a band of a windowed signal. -/
def bandEnergy (l : List Int) (b : Nat) : Nat :=
  sumOf (((List.range 256).filter (inOctave b)).map fun k =>
    let part (q : Nat) : Nat := (l.zipIdx.map fun x => x.1 * Config.cosine ((x.2 * k + q) % 512)).sum.natAbs
    part 0 ^ 2 + part 384 ^ 2)

/-- A sub-frame from the samples of its window. DESIGN CHOICE (log entry 109): its level is that of the mean square, of which full scale
squared is 0 dBFS. -/
def subFrame (l : List Mono) : SubFrame :=
  let w := l.zipIdx.map fun x => x.1.v * Config.hann x.2
  { bands := (List.range 8).map (bandEnergy w),
    loud := decide (512 * 2 ^ 46 ≤ 1000000 * sumOf (l.map fun x => x.v.natAbs ^ 2)),
    concealed := l.any (·.conc), muted := l.any (·.mute) }

/-- The 32 sub-frames of a second, once the line reaches far enough: sub-frame k begins k/32 s after it. -/
def Line.subs (x : Line) (sec : Nat) : Option (List SubFrame) :=
  let l := (List.range 32).filterMap fun k => x.window (8000 * sec + 250 * k)
  if l.length = 32 then some (l.map subFrame) else none

/-- Whether a line has passed the last sample of a second's signature. -/
def Line.past? (x : Line) (sec : Nat) : Bool := decide (8000 * sec + 8262 ≤ x.monoNext)

/-! ### Blocks of outputs and services in a capture (R426, R427, R429) -/

/-- A block is written to every slot that records its source; a full ring loses its oldest block (R426). Of a service the ring of its history
serves until the trigger (R427). -/
def recordFrom (source index : Nat) (stamp : DT) (bytes : List Byte) : State → State :=
  modMem fun m => { m with slots := m.slots.map fun c =>
    if ((c.st == .armed && decide (index < 0x80)) || c.st == .triggered) && c.source == source && c.index == index then
      let l := c.blocks ++ [(stamp, bytes)]
      { c with blocks := l.drop (l.length - c.ring * 1048576 / blockSize source index) }
    else c }

/-- The delay of a service's audio with LATENCY AUTO in ms (R278). -/
def svcLatency : Standard → Nat
  | .am => 50
  | .fm => 50
  | .dab => 640
  | .drm => 2640
  | .drmPlus => 940

end Sys2Proof.Machine
end

