-- ==== Sys2Proof/Machine/Consumers.lean ====
section
/-!
DEFINITION. Consumers.lean: what the families of programme data share: data records of subscriptions (R216 to R219), host audio
blocks (R250), audio records (R256), airplay items and signature chains with their Sherds (R258 to R261), the end of a service
(R245, R280, R288), and the AF_SWITCH event with the end of a seamless switch (R234, R239).
-/
namespace Sys2Proof.Machine

/-! ### Data records -/

def modSub (id : BitVec 16) (f : Sub → Sub) : State → State :=
  modCx fun c => { c with subs := c.subs.map fun u => if u.id = id then f u else u }

def findSub (id : BitVec 16) (s : State) : Option Sub := s.cx.subs.find? (·.id == id)

/-- FLAGS bit 5: the side data was decoded from the combined signal (R217). -/
def combinedFlag (c : Nat) (s : State) : Nat :=
  match idx 64 c with
  | some i => if s.cx.ctxs[i].branchRole == .diversity && branchLive s.cx.ctxs[i] s then 32 else 0
  | none => 0

/-- Writes a record of a subscription (R217): FLAGS beside those of the fragments, the on-air stamp, AUX and payload. -/
def dataRec (id : BitVec 16) (flags : Nat) (dt : DT) (aux : Nat) (payload : List Byte) (s : State) : State :=
  match findSub id s with
  | some u =>
    deliver 1
      { producer := id.toNat, kind := u.kind, flags := flags ||| combinedFlag u.ctx s, ctx := u.ctx, seq := u.seq.toNat, dt := dt,
        aux := aux, payload := payload, total := payload.length, block := false, sherd := none }
      (modSub id (fun u => { u with seq := u.seq + 1 }) s)
  | none => s

/-- Ends a subscription with its END record (R216). -/
def endSub (id : BitVec 16) (s : State) : State :=
  let s := dataRec id 4 (now s) 0 [] s
  modCx (fun c => { c with subs := c.subs.filter fun u => u.id != id }) s

/-- A value is delivered to a subscription when it differs from the last delivered under its key (R214). -/
def deliverChanged (id : BitVec 16) (key : Nat) (flags : Nat) (dt : DT) (aux : Nat) (value : List Byte) (s : State) : State :=
  match findSub id s with
  | some u =>
    if u.last.any (fun l => l.1 == key && l.2 == value) then s
    else dataRec id flags dt aux value (modSub id (fun u => { u with last := u.last.filter (·.1 != key) ++ [(key, value)] }) s)
  | none => s

/-! ### Host audio blocks (R250) -/

/-- The channels of a service: one for mono, two for stereo (R176, R178, R246). -/
def svcChannels (y : Svc) : Nat := if y.stereo then 2 else 1

/-- The bytes of a block of a service (R250): the header, then each sample in bits 31 to 8 of a word. -/
def svcBlock (v : Fin 96) (flags : Nat) (stamp : DT) (fs : List AFrame) (y : Svc) : List Byte :=
  let conc := fs.countP (·.conc)
  let muted := fs.countP (·.mute)
  let fl := flags ||| (if y.startFlag then 1 else 0) ||| (if conc = 0 then 0 else 4) ||| (if muted = 0 then 0 else 8)
    ||| (if y.stereo then 16 else 0)
  pack 0 32 [(0, 8, dtInt stamp), (8, 2, v.val), (10, 2, y.ctx), (12, 2, fl), (14, 2, conc), (16, 2, muted), (20, 4, y.seq.toNat)]
    ++ fs.flatMap fun f => leBytes 4 (256 * f.l) ++ if y.stereo then leBytes 4 (256 * f.r) else []

/-- A block joins the time-shift ring of its service, which keeps the last DEPTH (R425). -/
def keepHistory (v : Fin 96) (stamp : DT) (bytes : List Byte) : State → State :=
  modMem fun m =>
    if m.depth[v] = 0 then m
    else { m with history := m.history.set v (((stamp, bytes) :: m.history[v]).filter fun b => decide (stamp.toNat < b.1.toNat + msDt m.depth[v])) }

/-- A block of a service with its number (R250): into the time-shift ring, the captures that record it, and with HOST_AUDIO ON a host
buffer. -/
def hostBlock (v : Fin 96) (flags : Nat) (stamp : DT) (fs : List AFrame) (s : State) : State :=
  let y := s.audio.svcs[v]
  let bytes := svcBlock v flags stamp fs y
  let s := recordFrom 4 (0x80 + v.val) stamp bytes (keepHistory v stamp bytes s)
  let s := modSvc v (fun y => { y with seq := y.seq + 1, startFlag := false }) s
  if fget y.cfg 0x0B01 = 1 then
    deliver 0
      { producer := v.val, kind := 0, flags := 0, ctx := y.ctx, seq := y.seq.toNat, dt := stamp, aux := 0, payload := bytes,
        total := bytes.length, block := true, sherd := none } s
  else s

/-- The frames of a block of a service that does not run (R244): what its line still holds ramps to mute over 5 ms, and stays muted. -/
def Svc.heldFrames (y : Svc) : List AFrame :=
  (List.range 192).map fun i => match y.line.wait[i]? with
    | some x => { x.2.ramp 240 (y.gain - (i + 1)) with mute := true }
    | none => AFrame.silent

/-- The frames of a service's next block, once they are due: of one that runs, 40 ms after they were made (R17, R247); of one that does not,
when its audio would be (R278). -/
def Svc.nextBlock (t : DT) (lat : Nat) (y : Svc) : Option (List AFrame) :=
  if y.st = .running then
    let l := y.line.wait.take 192
    if l.length = 192 && l.all fun x => decide (x.1.toNat + msDt 40 ≤ t.toNat) then some (l.map (·.2)) else none
  else if y.line.start.isSome && decide ((y.line.stamp (y.line.count + 192)).toNat + msDt lat ≤ t.toNat) then some y.heldFrames
  else none

/-- The block is taken from the service's line. -/
def Svc.takeBlock (fs : List AFrame) (y : Svc) : Svc :=
  { y with
    line := y.line.take_ (fget y.cfg 0x0B03 == 1) y.stereo fs,
    gain := if y.st = .running then 240 else y.gain - 192 }

/-- The delay of a service's audio in ms. -/
def svcLat (y : Svc) (s : State) : Nat := match idx 64 y.ctx with | some c => svcLatency s.cx.ctxs[c].std | none => 0

/-- A service's frames join its line (R246 to R248). Its first audio begins its report period. -/
def Svc.push (made stamp : DT) (fs : List AFrame) (y : Svc) : Svc :=
  { y with line := y.line.push made stamp fs, reportFrom := some (y.reportFrom.getD stamp) }

/-! ### Audio records, items, chains (R253, R255, R256, R259 to R261) -/

/-- Writes an audio record of a service into the class-3 buffers (R256). -/
def audioRec (v : Fin 96) (kind flags : Nat) (dt : DT) (payload : List Byte) (s : State) : State :=
  let y := s.audio.svcs[v]
  deliver 2
    { producer := v.val, kind := kind, flags := flags, ctx := y.ctx, seq := y.recSeq.toNat, dt := dt, aux := 0, payload := payload,
      total := payload.length, block := false, sherd := none }
    (modSvc v (fun y => { y with recSeq := y.recSeq + 1 }) s)

/-- ITEM_FLAGS (R259, R413): COMPLETE, PARTIAL_START, PARTIAL_END, reason. -/
def itemFlags (a : Airplay) (reason : Nat) : Nat :=
  (if reason = 0 && !a.partialStart && decide (95 * a.total ≤ 100 * a.compared) then 1 else 0) + (if a.partialStart then 2 else 0)
    + (if reason = 0 then 0 else 4) + 16 * reason

/-- The SIG_BLOCK payloads of the seconds that an item touches, oldest first. -/
def itemBlocks (y : Svc) (start stop : DT) : List Byte :=
  (y.recent.filter fun r => decide (start.toNat < r.1.toNat + 2 ^ 32) && decide (r.1.toNat ≤ stop.toNat)).reverse.flatMap (·.2.1)

/-- The metadata snapshot of an item: that of the second at its midpoint (R259). -/
def itemSnapshot (y : Svc) (start stop : DT) : List Byte :=
  match y.recent.find? (fun r => decide (r.1.toNat ≤ (start.toNat + stop.toNat) / 2)) with
  | some r => r.2.2
  | none => []

/-- The payload of ITEM_END (R259), in a layout of the model's own (log entry 40). -/
def itemPayload (v : Fin 96) (y : Svc) (a : Airplay) (loud peak : Int) (stop : DT) (reason : Nat) : List Byte :=
  let snap := itemSnapshot y a.start stop
  pack 0 36 [(0, 4, a.ref), (4, 2, v.val), (6, 2, itemFlags a reason), (8, 8, dtInt a.start), (16, 8, dtInt stop), (24, 2, itemBer a),
      (26, 2, itemCoverage a), (28, 2, loud), (30, 2, peak), (32, 4, snap.length)]
    ++ snap ++ itemBlocks y a.start stop

/-- Integrated loudness and the greatest true peak over an item (R259). -/
def itemLoudness (y : Svc) (a : Airplay) (stop : DT) : Option Int := integratedOf (blocksIn a.start.toNat stop.toNat y.loudHist)
def itemPeak (y : Svc) (a : Airplay) (stop : DT) : Option Int :=
  (blocksIn a.start.toNat stop.toNat y.loudHist).foldl (fun p b => raiseTo (raiseTo p b.peakL) b.peakR) none

/-- Ends the open item of a service: ITEM_END and the AIRPLAY_ITEM Sherd (R258 to R260). -/
def endItem (v : Fin 96) (stop : DT) (reason : Nat) (s : State) : State :=
  let y := s.audio.svcs[v]
  match y.item with
  | some a =>
    let (loud, s) := told (itemLoudness y a stop) s
    let (peak, s) := told (itemPeak y a stop) s
    let body := itemPayload v y a loud peak stop reason
    let s := audioRec v 0x43 0 a.start body s
    let s := opSherd 0x30 y.ctx a.start stop
      (pack 0 16 [(0, 4, a.ref), (4, 2, v.val), (6, 2, itemFlags a reason), (8, 4, y.recSeq.toNat), (12, 2, itemBer a), (14, 2, loud)]
        ++ fit 32 (sha256 body)) s
    modSvc v (fun y => { y with item := none, itemEnd := stop }) s
  | none => s

/-- Ends an item at its last sub-frame that matched. -/
def stopItem (v : Fin 96) (reason : Nat) (s : State) : State :=
  match s.audio.svcs[v].item with
  | some a => endItem v a.last reason s
  | none => s

/-- Writes the SIG_CHAIN Sherd over the seconds since the last one, from the first's stamp to the last's end, with the integrated loudness
over them (R261). -/
def sigChain (v : Fin 96) (s : State) : State :=
  let y := s.audio.svcs[v]
  if y.chainCount = 0 then s
  else
    let (loud, s) := told (integratedOf (blocksIn y.chainFrom.toNat y.chainEnd.toNat y.loudHist)) s
    opSherd 0x31 y.ctx y.chainFrom y.chainEnd
      (pack 0 16 [(0, 4, y.chainFirst), (4, 2, y.chainCount), (6, 2, y.chainConc), (8, 2, loud)]
        ++ fit 32 (sha256 y.chainWords))
      (modSvc v (fun y => { y with chainFirst := y.sigSec, chainCount := 0, chainConc := 0, chainWords := [] }) s)

/-! ### Comparisons and routes (R280, R288, R290) -/

/-- The AIRCHAIN_REPORT record of an input's comparison (R290), in a layout of the model's own (log entry 40). -/
def airchainRec (i : Fin 4) (flags : Nat) (r : CompareResult) (s : State) : State :=
  match s.port.ains[i].cmp with
  | some v =>
    audioRec v 0x44 flags (now s)
      (pack 0 24 [(0, 1, i.val), (1, 1, r.state.val), (2, 2, v.val), (4, 4, r.delay), (8, 2, r.ber), (10, 2, r.loudDiff), (12, 1, r.flags.toNat),
        (16, 4, r.airUnreliable), (20, 4, r.studioUnreliable)]) s
  | none => s

/-- The end of an input's comparison, with a final report carrying END (R288). -/
def endCompare (i : Fin 4) (s : State) : State :=
  let a := s.port.ains[i]
  modAin i (fun a => { a with
    cmp := none, cmpCfg := [], cmpState := 0, cmpDelay := 0, line := Line.reset, loudHist := [], bands := [], words := [], subEnd := 0,
    cmpSub := none, cmpWin := 0, cmpBad := none, cmpStudio := none, cmpAir := none })
    (airchainRec i 4
      { state := a.cmpState, delay := a.cmpDelay, ber := 0, loudDiff := 0, flags := 0, airUnreliable := 0, studioUnreliable := 0 } s)

/-- The comparisons that a service ends with. -/
def endCompares (v : Fin 96) (s : State) : State :=
  (List.finRange 4).foldl (fun s i => if s.port.ains[i].cmp == some v then endCompare i s else s) s

/-- The routes from a service lose their source (R280); their buffers still hold its audio, which ramps to mute. -/
def loseRoutes (v : Fin 96) (s : State) : State :=
  modPortSt (fun p => { p with routes := p.routes.map fun r =>
    match r.src with
    | .svc w k => if w = v then
      { r with
        gone := true, muted := true, held := some (s.audio.svcs[v].line, k),
        latency := if r.latency = 0 then svcLat s.audio.svcs[v] s else r.latency }
      else r
    | _ => r }) s

/-! ### The shared pool (R424, R425) -/

/-- The pool megabytes of a time-shift ring of a depth in ms (R425). -/
def depthMb (ms : Nat) : Nat := ceilDiv (ms * 384) 1048576

/-- Sets the depth of a service's ring at the block of a stamp (R425): its reservation follows, a smaller depth discards the oldest history
at once, a larger one keeps it. -/
def setDepth (v : Fin 96) (ms : Nat) (stamp : DT) (s : State) : State :=
  let old := s.mem.depth[v]
  let from_ := if old = 0 then stamp.toNat else max s.mem.since[v].toNat (stamp.toNat - msDt (min old ms))
  modMem (fun m => { m with
    usedMb := m.usedMb - depthMb old + depthMb ms, depth := m.depth.set v ms, since := m.since.set v (BitVec.ofNat 64 from_),
    history := m.history.set v (if ms = 0 then [] else m.history[v].filter fun b => decide (from_ ≤ b.1.toNat)),
    spoilt := m.spoilt.filter fun x => x.1 != v.val || (decide (from_ ≤ x.2.toNat) && ms != 0) }) s

/-! ### The end of a service (R245, R280, R288, R425) -/

/-- The commands that wait for a boundary of a service, and the deferred start that waits for its component. -/
def svcCmds (v : Fin 96) (s : State) : List Held :=
  s.host.held.filter fun h => (h.op == 0x0600 && h.deferred && h.aux == [(v.val : Int)]) ||
    parked h && h.entry.target.toNat == v.val
      && ([0x0601, 0x0602, 0x0603, 0x0703].contains h.op || (h.op == 0x0600 && itemAction (Entry.args h.entry) == 1))

/-- The last block of a service (R245): what its line holds, then MUTED frames, with the on-air stamp of its frame 0. DESIGN CHOICE (log
entry 108): one that never had audio ends with a muted block at the boundary's DT. -/
def endBlock (v : Fin 96) (s : State) : State :=
  let y := s.audio.svcs[v]
  let l := (y.line.wait.take 192).map (·.2)
  let fs := if y.st = .running then l ++ List.replicate (192 - l.length) AFrame.silent else y.heldFrames
  hostBlock v 2 (if y.line.start.isSome then y.line.next else now s) fs s

/-- A service stops at a boundary: END block, open item STOPPED, final SIG_CHAIN, its comparisons, routes and ring end. Its stop
commands complete with the DT of the END block, others that waited for it with ERR_STATE. -/
def endService (v : Fin 96) (s : State) : State :=
  let y := s.audio.svcs[v]
  if y.st = .free then s
  else
    let cmds := svcCmds v s
    let s := stopItem v 2 (endBlock v s)
    let s := sigChain v s
    let s := setDepth v 0 (now s) (loseRoutes v (endCompares v s))
    let s := modSvc v (fun _ => Svc.reset) s
    cmds.foldl (fun s h => if h.op = 0x0601 then finishC h s else reject h .errState s) s

/-! ### The end of a seamless switch (R233 to R235, R239) -/

/-- AF_SWITCH (R344): phase 0 DECIDED, 1 DONE, 2 DECLINED; `bits` are DEFERRED (4) and ALIGN_FAIL (8); the reason; the last two bytes. -/
def afEvent (c : Fin 64) (phase bits reason : Nat) (w : AfSwitch) (old last : Int) : List Byte :=
  result [(16, 1, c.val), (17, 1, ((phase + bits + 16 * reason : Nat) : Int)), (18, 1, w.qCtx), (19, 1, w.qAf), (20, 4, w.freq), (24, 4, old),
    (28, 2, w.pi), (30, 2, last)]

/-- A seamless switch ends without taking place: its path is removed without a gap record, AF_SWITCH DECLINED gives the reason (1
NO_RESOURCE, 2 HOST, 3 RESTART, 4 CANDIDATE_LOST), and AF_HOLDOFF begins (R235, R239). -/
def declineSwitch (c : Fin 64) (reason : Nat) (s : State) : State :=
  let x := s.cx.ctxs[c]
  match x.afSwitch with
  | some w =>
    let s := match w.path with | some p => dropPath p s | none => s
    let s := modCtx c (fun x => { x with afSwitch := none, afHoldoff := some (now s) }) s
    raiseAt .afSwitch (now s) (afEvent c 2 0 reason w x.freq 0) s
  | none => s

end Sys2Proof.Machine
end

