-- ==== Sys2Proof/Machine/Context.lean ====
section
/-!
DEFINITION. Context.lean: the life of a context: opening, retuning, closing, staging and commit, diversity, the context frame with all
that applies at it, acquisition, Wheel hangs, and the analogue measurements (R157 to R185, R187, R209).
-/
namespace Sys2Proof.Machine

/-! ### Fields of a context (R163, R184, R212, R240, R331) -/

/-- The standards that a field belongs to. -/
def fieldStd (fid : Nat) (std : Standard) : Bool :=
  if fid = 0x0807 ∨ fid = 0x0808 then std == .am
  else if (0x0809 ≤ fid ∧ fid ≤ 0x080D) ∨ fid = 0x080F ∨ fid = 0x0810 ∨ fid = 0x0A00 ∨ fid = 0x0A01 then std == .fm
  else if fid = 0x0907 ∨ fid = 0x0908 then std == .dab
  else if fid = 0x0909 then std == .drm
  else true

/-- The fields that CTX_STAGE accepts (R331). -/
def stageFid (f : Nat) : Bool :=
  f == 0x0702 || f == 0x0703 || f == 0x0802 || f == 0x0803 || (decide (0x0806 ≤ f) && decide (f ≤ 0x0810))
    || (decide (0x0907 ≤ f) && decide (f ≤ 0x0909)) || (decide (0x0A00 ≤ f) && decide (f ≤ 0x0A02))

/-- The rule of R184 on the blend limits. -/
def blendOk (std : Standard) (cfg : FieldSet) : Bool :=
  std != .fm || decide (fget cfg 0x080B + 6 ≤ fget cfg 0x080A)

/-- The item checks that depend on the standard (R162, R163, R186, R333). -/
def stdItem (std : Standard) (fid : Nat) (v : Int) : Bool := fieldStd fid std && (fid != 0x0801 || freqOk std v)

/-- The standard that a command's items are checked against: that of the open context. -/
def targetStd (s : State) (e : Entry) : Option Standard :=
  match idx 64 e.target.toNat with
  | some c => if s.cx.ctxs[c].st == .closed then none else some s.cx.ctxs[c].std
  | none => none

/-- The item offences of a command of an open context. -/
def ctxOffences (accept : Nat → Bool) (s : State) (e : Entry) (a : List Byte) : List Offence :=
  match targetStd s e with
  | some std => itemOffences accept (stdItem std) a
  | none => itemOffences accept (fun _ _ => true) a

/-! ### Limits and sources (R21, R161, R162, R174, R182) -/

/-- Contexts, DAB ensembles, DRM signals and audio services of a profile (R21). -/
def limits (profile : Nat) : Nat × Nat × Nat × Nat :=
  match profile with
  | 1 => (48, 24, 12, 72)
  | 2 => (32, 16, 8, 48)
  | _ => (64, 32, 16, 96)

/-- The open contexts of some standards. -/
def openCount (p : Standard → Bool) (s : State) : Nat := countBy s.cx.ctxs fun x => x.st != .closed && p x.std

/-- DRM and DRM+ are counted together (R21). -/
def isDrm (std : Standard) : Bool := std == .drm || std == .drmPlus

/-- Whether one more context of a standard stays within the limits. -/
def withinLimits (std : Standard) (s : State) : Bool :=
  let l := limits s.cx.profile
  decide (openCount (fun _ => true) s < l.1) && (std != .dab || decide (openCount (· == .dab) s < l.2.1))
    && (!isDrm std || decide (openCount isDrm s < l.2.2.1))

/-- The context whose failover branch holds a tuner (R174). -/
def failoverHolder (n : Fin 4) (s : State) : Option (Fin 64) :=
  (List.finRange 64).find? fun c =>
    s.cx.ctxs[c].branchRole == .failover && (match s.cx.ctxs[c].branch with | some p => s.cx.paths[p].source == 8 + n.val | none => false)

/-- Whether the source of a number covers a band, leaving aside whether it is taken (R161, R162): AM and DRM are carver-fed (R162, R186). -/
def covers (src freq half : Nat) (s : State) : Bool :=
  match srcCarver src, srcTuner src with
  | some c, _ => carverFits c freq half s
  | _, some n =>
    let x := s.rf.tuners[n]
    decide (30000000 ≤ freq) && decide (freq ≤ 1500000000) && decide (50000 ≤ half) && (ifWidthFor half).isSome && x.st != .failed && !x.unavailable
  | _, _ => false

/-- Whether CTX_OPEN or CTX_DIVERSITY can take a source: free; `hop` also a hopping tuner (R239); `steal` also one held for failover
only (R174). -/
def takes (hop steal : Bool) (src freq half : Nat) (s : State) : Bool :=
  sourceFits src freq half s ||
    (match srcTuner src with
      | some n => covers src freq half s &&
          ((hop && s.cx.hops[n].isSome && !feeds n s) || (steal && (failoverHolder n s).isSome))
      | none => false)

/-- The source that CTX_OPEN takes (R161, R174, R239): a free one first, then a hopping tuner, then one held for failover. -/
def openSource (pref freq half : Nat) (s : State) : Option Nat :=
  let l := prefSources pref
  match l.find? fun x => takes false false x freq half s with
  | some x => some x
  | none => match l.find? fun x => takes true false x freq half s with
    | some x => some x
    | none => l.find? fun x => takes true true x freq half s

/-- Whether a named source does not cover the band (R162, R186). DESIGN CHOICE (log entry 101): one that is FAILED, unavailable or not running
covers nothing, and one that only feeds another path is NO_RESOURCE. -/
def namedMisses (pref freq half : Nat) (s : State) : Bool := decide (3 ≤ pref) && !covers (pref - 3) freq half s

/-- Releases the failover branch that holds a tuner. -/
def freeTuner (src : Nat) (s : State) : State :=
  match srcTuner src with
  | some n => match failoverHolder n s with
    | some c => dropBranch c s
    | none => s
  | none => s

/-- Makes a path free, if none is, by releasing a failover branch (R174). -/
def freeAPath (s : State) : State :=
  if (freePath s).isSome then s
  else match (List.finRange 64).find? fun c => s.cx.ctxs[c].branchRole == .failover with
    | some c => dropBranch c s
    | none => s

/-- Tunes the tuner of a source for a context, if the source is a tuner that does not hop (R161, R239). -/
def tuneSource (src freq half : Nat) (c : Fin 64) (s : State) : State :=
  match srcTuner src with
  | some n => if s.cx.hops[n].isSome then s else tuneFor n freq half c.val s
  | none => s

/-- The current source serves a frequency and a preference (R164). -/
def keepsSource (x : Ctx) (pref freq half : Nat) (s : State) : Bool := (prefSources pref).contains x.source && covers x.source freq half s

/-- The source of a context under a preference and a frequency: its own where it serves, else a new one (R164). -/
def pickSource (x : Ctx) (pref freq half : Nat) (s : State) : Option Nat :=
  if keepsSource x pref freq half s then some x.source else chooseSource pref freq half s

/-! ### Results (R162, R338) -/

/-- A source in SOURCE_PREF code (R332). -/
def srcCode (src : Nat) : Nat := src + 3

def roleCode : Branch → Nat
  | .none => 0
  | .failover => 1
  | .diversity => 2

/-- The source of a path. -/
def pathSrc (p : Option (Fin 64)) (s : State) : Nat := match p with | some p => srcCode s.cx.paths[p].source | none => 0xFF

/-- The number of a path or 0xFF. -/
def pathNo (p : Option (Fin 64)) : Nat := match p with | some p => p.val | none => 0xFF

/-- The result of CTX_OPEN and CTX_RETUNE. -/
def openResult (c : Fin 64) (s : State) : List (Nat × Nat × Int) :=
  let x := s.cx.ctxs[c]
  let w := match x.wheel with | some w => w.val | none => 0xFF
  let y := match x.primary with | some p => s.cx.paths[p] | none => Path.reset
  [(16, 1, pathNo x.primary), (17, 1, pathNo x.branch), (18, 1, srcCode x.source), (19, 1, w), (20, 1, y.m), (21, 1, y.h), (22, 2, settling y),
    (24, 4, tauPs y), (28, 1, roleCode x.branchRole), (29, 1, pathSrc x.branch s)]

/-! ### CTX_OPEN (R157, R160 to R162, R174, R182, R188) -/

/-- STANDARD of an item list. -/
def itemStd (a : List Byte) : Option Standard := (items a).find? (·.1 == 0x0800) |>.map fun x => stdOf x.2.toNat

def openFid (f : Nat) : Bool := (decide (0x0800 ≤ f) && decide (f ≤ 0x0803)) || stageFid f

def specCtxOpen : Spec :=
  { itemCmd 0x0400 tContext [] openFid with
    remote := remoteCtx
    range := fun _ _ a => match itemStd a with
      | some std => itemOffences openFid (stdItem std) a
      | none => itemOffences openFid (fun _ _ => true) a }

/-- The active set of a new context: its staged fields of the standard, then the items of CTX_OPEN (R161, R338). DESIGN CHOICE (log entry
102): fields staged for a closed context that belong to no block of the standard it is opened with are dropped. -/
def openSet (c : Fin 64) (std : Standard) (l : FieldSet) (s : State) : FieldSet :=
  fmerge (s.cx.ctxs[c].shadow.filter fun f => fieldStd f.1 std) l

/-- Puts a context with its path and source in place (R161, R162); none when a path or the placement is missing. -/
def putContext (c : Fin 64) (std : Standard) (cfg : FieldSet) (src : Nat) (s : State) : Option State :=
  let freq := (fget cfg 0x0801).toNat
  let s := freeAPath (freeTuner src s)
  match freePath s with
  | some p =>
    let s := modCtx c (fun _ => { Ctx.reset with st := .opening, std := std, freq := freq, cfg := cfg, source := src, primary := some p }) s
    match place c s with
    | some w =>
      let s := tuneSource src freq (halfBand std cfg) c (modCtx c (fun x => { x with wheel := some w }) s)
      some (openPath p c src freq cfg s)
    | none => none
  | none => none

/-- What an accepted CTX_OPEN also sets: the device-wide FLUSH_MS, and in SHIELD the mirror (R331, R476). -/
def openExtras (h : Held) (c : Fin 64) (cfg : FieldSet) (s : State) : State :=
  let s := if fhas cfg 0x0A02 then modCx (fun x => { x with flushMs := (fget cfg 0x0A02).toNat }) s else s
  if s.pair.role = 1 && s.pair.mode == 2 then
    modCtx c (fun x => { x with mirror := 1 }) (emit (.link 1 (entryBytes h.op h.entry)) s)
  else s

/-- CTX_OPEN (R162), in the order of R306: parameters, state, resources. -/
def doCtxOpen (h : Held) (s : State) : State :=
  let a := Entry.args h.entry
  match idx 64 h.entry.target.toNat, itemStd a with
  | some c, some std =>
    let cfg := openSet c std (items a) s
    let freq := (fget cfg 0x0801).toNat
    let half := halfBand std cfg
    let pref := (fget cfg 0x0802).toNat
    if !fhas (items a) 0x0801 || !blendOk std cfg || namedMisses pref freq half s then fail h .errParam 0xFFFF .outOfRange s
    else if s.cx.ctxs[c].st ≠ .closed then reject h .errState s
    else
      if !withinLimits std s then reject h .noResource s
      else match openSource pref freq half s with
        | none => reject h .noResource s
        | some src => match putContext c std cfg src s with
          | none => reject h .noResource s
          | some t =>
            let x := t.cx.paths[(t.cx.ctxs[c].primary.getD 0)]
            if decide ((trimBound x : Int) < x.trim.natAbs) then
              fail h .errParam (if fhas (items a) 0x0702 then Entry.offset h.entry (itemAt 0x0702 h) else 0xFFFF) .outOfRange s
            else begin_ h (openExtras h c cfg t)
  | some _, none => fail h .errParam 0xFFFF .outOfRange s
  | none, _ => reject h .errState s

def execCtxOpen (e : Entry) (s : State) : Host.Outcome State Fault Refusal :=
  .next (hostCmd (.ctxOpen e) specCtxOpen doCtxOpen e s)

/-! ### CTX_STAGE (R133, R163, R338) -/

def specCtxStage : Spec :=
  { itemCmd 0x0405 tContext [] stageFid with
    remote := remoteCtx
    range := fun s e a => ctxOffences stageFid s e a }

/-- Whether NCO_TRIM lies in the bound of every path of a context (R133). -/
def trimOk (c : Fin 64) (l : FieldSet) (s : State) : Bool :=
  !fhas l 0x0702 || (pathsOf c s).all fun p => decide ((fget l 0x0702).natAbs ≤ trimBound s.cx.paths[p])

/-- Whether a path of a context runs, so that its LK fields are locked (R14, R131). -/
def pathRuns (c : Fin 64) (s : State) : Bool :=
  (pathsOf c s).any fun p => s.cx.paths[p].run != .closed && s.cx.paths[p].run != .hold

/-- A context with live fields in its active set; SUBCH_MODE ALL asks anew for every subchannel (R189). -/
def withLive (c : Fin 64) (l : FieldSet) (s : State) : State :=
  modCtx c (fun x => { (if fget l 0x0907 = 1 then x.askAgain x.dab.denied else x) with cfg := fmerge x.cfg l }) s

/-- CTX_STAGE: without live fields its items are staged at once; with them all take effect at the frame boundary (R14), and later ones wait
behind it. FIR_LEN, accepted while no path runs, needs no commit: the next start of the path takes it (R11, R155). Of the checks of R306
the bound of NCO_TRIM is one of the parameters, FIR_LEN's lock one of the state. -/
def doCtxStage (h : Held) (s : State) : State :=
  match idx 64 h.entry.target.toNat with
  | some c =>
    let x := s.cx.ctxs[c]
    let l := itemsOf h
    if x.st = .closed then
      finish h .ok [(16, 1, l.length), (24, 8, dtInt (now s))] (modCtx c (fun x => { x with shadow := fmerge x.shadow l }) s)
    else
      let live := ofClass .lv l
      let locked := ofClass .lk l
      if !trimOk c l s then fail h .errParam (Entry.offset h.entry (itemAt 0x0702 h)) .outOfRange s
      else if !locked.isEmpty && pathRuns c s then reject h .busyRunning s
      else if (regrow c s (withLive c live s)).isNone then reject h .noResource s
      else
        let s := if locked.isEmpty then s else modCtx c (fun x => { x with cfg := fmerge x.cfg locked }) s
        if live.isEmpty && (waiting 0x0405 c.val s).isEmpty then
          finish h .ok [(16, 1, l.length), (24, 8, dtInt (now s))] (modCtx c (fun x => { x with shadow := fmerge x.shadow (ofClass .st l) }) s)
        else park h [] s
  | none => reject h .errState s

def execCtxStage (e : Entry) (s : State) : Host.Outcome State Fault Refusal :=
  .next (hostCmd (.ctxStage e) specCtxStage doCtxStage e s)

/-- NCO_TRIM reaches a path; while a job reads it the value is held (R153). A value that was accepted under an earlier plan is held to the
bound of the path's own (R133; log entry 76). -/
def setTrim (v : Int) (s : State) (p : Fin 64) : State :=
  if jobReadsPath p s then modPath p (fun x => { x with trimHeld := some v }) s
  else modPath p (fun x => { x with trim := clampTo (trimBound x) v, trimChanged := true }) s

/-- What live fields bring about when they take effect (R133, R174, R184, R240). -/
def liveEffects (c : Fin 64) (l : FieldSet) (s : State) : State :=
  let s := if fhas l 0x0702 then (pathsOf c s).foldl (setTrim (fget l 0x0702)) s else s
  let s := if fhas l 0x0A02 then modCx (fun x => { x with flushMs := (fget l 0x0A02).toNat }) s else s
  let s := if fhas l 0x080E then modCtx c (Ctx.newWindow (now s)) s else s
  let s := if fhas l 0x080D then modCtx c (fun x => { x with eqEngaged := false, eqDenied := false, eqFrom := none }) s else s
  let s := if fhas l 0x0810 then modCtx c (fun x => { x with mpxOver := x.mpxCount != 0 && decide (fget l 0x0810 < x.mpxPower) }) s else s
  if fhas l 0x0803 then
    if fget l 0x0803 = 1 then (if s.cx.ctxs[c].branchRole = .failover then dropBranch c s else s) else seekFailover c s
  else s

/-- A CTX_STAGE that waited takes effect at the frame boundary: its ST items are staged, its live ones join those of the boundary. Where the
placement fails with them, all its fields keep their old values (R14, R168, R184, R212). -/
def applyStage (c : Fin 64) (r : State × FieldSet) (h : Held) : State × FieldSet :=
  let (s, acc) := r
  let l := itemsOf h
  let live := ofClass .lv l
  let acc' := fmerge acc live
  if (regrow c s (withLive c acc' s)).isNone then (reject h .noResource s, acc)
  else
    let s := modCtx c (fun x => { x with shadow := fmerge x.shadow (ofClass .st l) }) s
    (finish h .ok [(16, 1, ((l.length - live.length : Nat) : Int)), (17, 1, live.length), (24, 8, dtInt (now s))] s, acc')

/-- The live fields of a boundary take effect together: of a field written more than once the last value (R12). -/
def applyLiveFields (c : Fin 64) (old : State) (r : State × FieldSet) : State :=
  match regrow c old (withLive c r.2 r.1) with
  | some t => liveEffects c r.2 t
  | none => r.1

/-- The CTX_STAGE commands of a list take effect at the boundary, in submission order. -/
def applyStages (c : Fin 64) (hs : List Held) (s : State) : State := applyLiveFields c s (hs.foldl (applyStage c) (s, []))

/-! ### Sources changed at a boundary (R153, R164, R166) -/

/-- A context takes a source for a frequency with a synchronising reset; a tuner is tuned; the source it leaves is released (R161,
R164). -/
def moveSource (c : Fin 64) (src freq : Nat) (s : State) : State :=
  let x := s.cx.ctxs[c]
  match x.primary with
  | some p =>
    let s := modCtx c (fun x => { x with source := src, freq := freq }) s
    let s := modPath p (fun y => { y with source := src }) s
    let s := tuneSource src freq (halfBand x.std x.cfg) c s
    let s := rebind p src freq s
    let s := if delivers src s then (if s.cx.paths[p].run = .hold then resumePath p s else resetPath p s) else holdPath p s
    if src = x.source then s else releaseTuner x.source s
  | none => s

/-- The active set that a commit of a context brings (R163). -/
def committed (x : Ctx) : FieldSet := fmerge x.cfg x.shadow

/-! ### CTX_COMMIT (R163, R166, R168, R170) -/

def specCtxCommit : Spec :=
  { itemCmd 0x0406 tContext [(1, 1), (3, 1)] (fun _ => false) with
    remote := remoteCtx
    range := fun _ _ a =>
      itemOffences (fun _ => false) (fun _ _ => true) a ++ oneOf a 1 [0, 1] ++ require (itemAction a = 0 || itemArg8 a < 16) 3 }

/-- Whether the commit of a context moves it to another source: the committed SOURCE_PREF does not allow its own. -/
def commitMoves (x : Ctx) (s : State) : Bool :=
  fhas x.shadow 0x0802 && !keepsSource x (fget (committed x) 0x0802).toNat x.freq (halfBand x.std x.cfg) s

/-- The source that a commit moves a context to. -/
def commitSource (x : Ctx) (s : State) : Option Nat :=
  chooseSource (fget (committed x) 0x0802).toNat x.freq (halfBand x.std x.cfg) s

/-- Whether the occupied band of a context lies in the usable band of its source (R132). -/
def inBand (x : Ctx) (s : State) : Bool :=
  let half := halfBand x.std x.cfg
  match srcCarver x.source, srcTuner x.source with
  | some c, _ => bandCovers (fget s.rf.carvers[c].cfg 0x0301) (fget s.rf.carvers[c].cfg 0x0302) x.freq half
  | _, some n => decide (2 * (half : Int) + 100000 ≤ fget s.rf.tuners[n].cfg 0x0403 * 1000)
  | _, _ => true

/-- Whether a commit would leave a context outside the usable band of its source (R132): of the one that SOURCE_PREF names, or its own. -/
def commitMisses (x : Ctx) (s : State) : Bool :=
  if commitMoves x s then namedMisses (fget (committed x) 0x0802).toNat x.freq (halfBand x.std x.cfg) s else !inBand x s

def doCtxCommit (h : Held) (s : State) : State :=
  match openCtx h s with
  | some c =>
    let x := s.cx.ctxs[c]
    if itemAction (Entry.args h.entry) = 1 then park h [] s
    else if !blendOk x.std (committed x) || commitMisses x s then fail h .errParam 0xFFFF .outOfRange s
    else if commitMoves x s && (commitSource x s).isNone then reject h .noResource s
    else if (regrow c s (withLive c x.shadow s)).isNone then reject h .noResource s
    else if commitMoves x s && namedRead s c.val then deferCmd h [] s
    else park h [] s
  | none => reject h .errState s

def execCtxCommit (e : Entry) (s : State) : Host.Outcome State Fault Refusal :=
  .next (hostCmd (.ctxCommit e) specCtxCommit doCtxCommit e s)

/-- The source part of a commit (R153, R155): without a live branch a context whose new source does not deliver yet enters HOLD (R158), and a
branch that may not stand beside the new source is given up (R172). -/
def commitPath (c : Fin 64) (s : State) : State :=
  let x := s.cx.ctxs[c]
  if commitMoves x s then
    match commitSource x s with
    | some src =>
      let s := recheckBranch c (moveSource c src x.freq s)
      if !branchLive s.cx.ctxs[c] s && s.cx.ctxs[c].primary.any (fun p => s.cx.paths[p].run == .hold) then holdCtx c s else s
    | none => s
  else s

/-- A waiting command whose change a Saggar job begun since holds back (R153): it completes with OK_DEFERRED and begins anew when the job
ends. -/
def holdBack (h : Held) (s : State) : State := modHeld h.id (fun x => { x with aux := [] }) (deferCmd h [] s)

/-- A CTX_COMMIT applies at the frame boundary, and completes when a frame has been demodulated under the new set (R163); its fields are
judged again, with what was staged since (R132, R184). Its frame is recorded (R169). -/
def applyCommit (c : Fin 64) (r : State × FieldSet) (h : Held) : State × FieldSet :=
  let (s, acc) := r
  let x := s.cx.ctxs[c]
  if !blendOk x.std (committed x) || commitMisses x s then (fail h .errParam 0xFFFF .outOfRange s, acc)
  else if commitMoves x s && namedRead s c.val then (holdBack h s, acc)
  else
    let s := commitPath c s
    let x := s.cx.ctxs[c]
    let t := modCtx c (fun x => { x with cfg := committed x, shadow := [], commitFrame := x.frame }) s
    let acc' := fmerge acc (ofClass .lv x.shadow)
    if (regrow c s (withLive c acc' t)).isNone then (reject h .noResource s, acc) else (note h [dtInt (now t)] t, acc')

/-- The commits and the stages that wait for a boundary, in submission order (R163). -/
def applyFields (c : Fin 64) (s : State) : State :=
  let mine (h : Held) : Bool :=
    parked h && !late h s && h.entry.target.toNat == c.val && (h.op == 0x0405 || (h.op == 0x0406 && itemAction (Entry.args h.entry) == 0))
  applyLiveFields c s ((s.host.held.filter mine).foldl (fun r h => if h.op = 0x0405 then applyStage c r h else applyCommit c r h) (s, []))

/-- Whether a Wheel can take a context (R168, R170). -/
def wheelTakes (c : Fin 64) (w : Fin 16) (s : State) : Bool :=
  let l := (placed s).filter fun x => x.1 != c
  let n := ctxCost c s
  wheelUp w s && decide (loadOf l w + jobLoad w s + n ≤ wheelCap s) && reserveKept ((c, w, n) :: l) s

/-- MIGRATE at the frame boundary (R170). -/
def applyMigrate (c : Fin 64) (s : State) (h : Held) : State :=
  match idx 16 (itemArg8 (Entry.args h.entry)) with
  | some w =>
    let old := match s.cx.ctxs[c].wheel with | some o => o.val | none => 0xFF
    if wheelTakes c w s then finish h .ok [(16, 1, old), (17, 1, w.val), (24, 8, dtInt (now s))] (migrate c w 2 s) else reject h .noResource s
  | none => reject h .noResource s

/-! ### CTX_RETUNE (R164, R166, R185, R211) -/

def retuneFid (f : Nat) : Bool := f == 0x0801 || f == 0x0802

def specCtxRetune : Spec :=
  { itemCmd 0x0401 tContext [] retuneFid with
    remote := remoteCtx
    range := fun s e a => ctxOffences retuneFid s e a }

/-- The active set that a retune brings: the shadow set with its items (R164). -/
def retuned (x : Ctx) (l : FieldSet) : FieldSet := fmerge (committed x) l

/-- The source of a retune. -/
def retuneSource (x : Ctx) (l : FieldSet) (s : State) : Option Nat :=
  let cfg := retuned x l
  pickSource x (fget cfg 0x0802).toNat (fget cfg 0x0801).toNat (halfBand x.std cfg) s

/-- The status of a retune that finds no source: a named source that misses is a parameter error for DAB and DRM (R164, R186). -/
def retuneMiss (x : Ctx) (l : FieldSet) (s : State) : Status :=
  let cfg := retuned x l
  if (x.std == .dab || isDrm x.std) && namedMisses (fget cfg 0x0802).toNat (fget cfg 0x0801).toNat (halfBand x.std cfg) s then .errParam
  else .noResource

def doCtxRetune (h : Held) (s : State) : State :=
  match openCtx h s with
  | some c =>
    let x := s.cx.ctxs[c]
    let l := itemsOf h
    if !fhas l 0x0801 || !blendOk x.std (retuned x l) then fail h .errParam 0xFFFF .outOfRange s
    else if (retuneSource x l s).isNone then fail h (retuneMiss x l s) 0xFFFF .outOfRange s
    else if (regrow c s (withLive c (fmerge x.shadow l) s)).isNone then reject h .noResource s
    else if namedRead s c.val then deferCmd h [] s
    else park h [] s
  | none => reject h .errState s

def execCtxRetune (e : Entry) (s : State) : Host.Outcome State Fault Refusal :=
  .next (hostCmd (.ctxRetune e) specCtxRetune doCtxRetune e s)

/-- A component's services wait for it (R244): their open items end with COMPONENT_GONE. -/
def waitService (s : State) (v : Fin 96) : State :=
  modSvc v (fun y => { y with st := .waiting }) (stopItem v 3 s)

/-- The members of the AF set with their sources: HOST first, then the others by last reception (R228). -/
def afMembers (x : Ctx) : List (Nat × Nat) :=
  let mask := (fget x.cfg 0x0A04).toNat
  let host := if testBit mask 2 then x.hostAfs.map fun f => (f, 2) else []
  let seen := x.seenAfs.filter fun f => testBit mask f.2
  let l := (host ++ seen).filter fun f => f.1 != x.freq
  ((l.map (·.1)).eraseDups.filterMap fun f => l.find? (·.1 == f)).take 32

/-- A member that has not been measured. -/
def AltFreq.fresh (freq source : Nat) : AltFreq :=
  { freq := freq, source := source, bank := none, shared := false, hop := false, hist := [], piSeen := none, pi := none, piAt := 0, met := 0,
    crossed := none }

/-- The AF set follows its sources; members that stay keep what was measured. -/
def Ctx.refreshAfs (x : Ctx) : Ctx :=
  { x with
    afs := (afMembers x).map fun f => match x.afs.find? (·.freq == f.1) with
      | some a => { a with source := f.2 }
      | none => AltFreq.fresh f.1 f.2 }

/-- Raises ALERT (R344), with its Sherd for kinds 1 and 4 and those of EVIDENCE_MASK (R237). -/
def raiseAlert (c : Fin 64) (f : AlertFlag) (on restated : Bool) (stamp : DT) (s : State) : State :=
  let res := result [(16, 1, c.val), (17, 1, f.kind.val), (18, 1, bit on + 2 * bit restated), (19, 1, f.cluster), (20, 2, f.types), (22, 2, f.obj),
    (24, 8, dtInt stamp)]
  let s := raiseAt .alert (now s) res s
  if f.kind.val = 1 || f.kind.val = 4 || testBit (fget s.cx.ctxs[c].cfg 0x0A0E).toNat f.kind.val then evSherd 0x23 c.val res s else s

/-- Alert flags that stand ON and are no longer followed are dropped, each with its OFF, so that no ON follows an ON (R238). DESIGN CHOICE
(log entry 105): a retune does so, and an ALERT_CONFIG that deselects the kind; a context that closes drops its flags in silence. -/
def dropAlerts (c : Fin 64) (keep : AlertSt → Bool) (s : State) : State :=
  let gone := s.cx.ctxs[c].alerts.filter fun a => !keep a
  gone.foldl (fun s a => raiseAlert c { kind := Fin.ofNat 6 a.kind, on := false, cluster := a.cluster, types := a.types, obj := a.obj } false false (now s) s)
    (modCtx c (fun x => { x with alerts := x.alerts.filter keep }) s)

/-- The demodulator of a context starts afresh (R164, R180, R211): DAB and DRM services wait for their components; of the AF set the HOST
list stays (R228). -/
def zeroDemod (c : Fin 64) (s : State) : State :=
  let x := s.cx.ctxs[c]
  let s := dropAlerts c (fun _ => false) s
  let s := modCtx c (fun x => Ctx.refreshAfs (Ctx.newWindow (now s) (Ctx.restartMpx { x with
    dab := DabSt.reset, drm := DrmSt.reset, rds := RdsSt.reset, fig := FrameFigures.reset, win := WinResult.reset,
    acqFrom := none, lossFrom := none, pilot := false, eqEngaged := false, eqDenied := false, eqFrom := none, pilotFrom := none, blend := 0,
    afcDigital := 0, selected := false,
    ckpts := Vector.replicate 2 none, mpxPower := 0, mpxOver := false, seenAfs := [], afs := [] }))) s
  if x.std = .dab || isDrm x.std then
    ((svcsOf c.val s).filter fun v => s.audio.svcs[v].st != .waiting).foldl waitService s
  else s

/-- The commits of a context that a retune takes with it (R183). -/
def endCommits (c : Fin 64) (s : State) : State :=
  finishAllC ((waiting 0x0406 c.val s).filter fun h => itemAction (Entry.args h.entry) == 0) s

/-- A retune to a set of fields, at the frame boundary (R164): the path starts anew, and takes the FIR_LEN set while it did not run
(R136). -/
def retuneTo (c : Fin 64) (cfg : FieldSet) (src : Nat) (s : State) : State :=
  let s := dropBranch c (declineSwitch c 2 s)
  let s := modCtx c (fun x => { x with cfg := cfg, shadow := [], st := .retuning }) s
  let s := match s.cx.ctxs[c].primary with
    | some p => takeLength p s
    | none => s
  endCommits c (zeroDemod c (moveSource c src (fget cfg 0x0801).toNat s))

/-- A CTX_RETUNE applies at the frame boundary; its fields are judged again, with what was staged since (R184). -/
def applyRetune (c : Fin 64) (s : State) (h : Held) : State :=
  let x := s.cx.ctxs[c]
  let l := itemsOf h
  if namedRead s c.val then holdBack h s
  else if !blendOk x.std (retuned x l) then fail h .errParam 0xFFFF .outOfRange s
  else match retuneSource x l s with
    | some src => note h [dtInt (now s)] (retuneTo c (retuned x l) src s)
    | none => fail h (retuneMiss x l s) 0xFFFF .outOfRange s

/-! ### CTX_CLOSE (R165, R166, R185) -/

def specCtxClose : Spec := { plain 0x0402 0 tContext [] with remote := remoteCtx }

def doCtxClose (h : Held) (s : State) : State :=
  match openCtx h s with
  | some c => if namedRead s c.val then deferCmd h [] s else park h [] s
  | none => reject h .errState s

def execCtxClose (e : Entry) (s : State) : Host.Outcome State Fault Refusal :=
  .next (hostCmd (.ctxClose e) specCtxClose doCtxClose e s)

/-- The opcodes whose target is a context. -/
def ctxOps : List Nat :=
  [0x0400, 0x0401, 0x0402, 0x0404, 0x0405, 0x0406, 0x0408, 0x040A, 0x0500, 0x0501, 0x0502, 0x0503, 0x0504, 0x0B03]

/-- The commands of a context that have begun, wait for one of its boundaries or are deferred. -/
def ctxCmds (c : Nat) (s : State) : List Held :=
  s.host.held.filter fun h => ctxOps.contains h.op && h.entry.target.toNat == c && (h.begun || h.deferred || parked h)

/-- A context ends with all that it holds: services, subscriptions, swaps, paths, Wheel share, tuner, shadow set (R165). The commands
that waited for it, but for `keep`, end with a status. DESIGN CHOICE (log entry 75): the release takes no time of its own, so CLOSING,
which it enters first (R158), is left in the same step. -/
def closeCtx (c : Fin 64) (keep : Option Nat) (st : Status) (s : State) : State :=
  let s := modCtx c (fun x => { x with st := .closing }) s
  let s := declineSwitch c 2 s
  let s := (svcsOf c.val s).foldl (fun s v => endService v s) s
  let s := (subsOf c.val s).foldl (fun s u => endSub u.id s) s
  let s := leaveSync c.val (dropBranch c s)
  let x := s.cx.ctxs[c]
  let s := match x.primary with | some p => closePath p s | none => s
  let s := modCtx c (fun _ => Ctx.reset) s
  ((ctxCmds c.val s).filter fun h => keep != some h.id).foldl (fun s h => reject h st s) (releaseTuner x.source s)

/-- A CTX_CLOSE applies at the frame boundary. -/
def applyClose (c : Fin 64) (h : Held) (s : State) : State :=
  if namedRead s c.val then holdBack h s else finishC h (closeCtx c (some h.id) .errState s)

/-! ### CTX_DIVERSITY (R172 to R174, R209) -/

def specCtxDiversity : Spec :=
  { itemCmd 0x040A tContext [] (fun f => f == 0x0804 || f == 0x0805) with
    remote := remoteCtx
    range := fun s e a => ctxOffences (fun f => f == 0x0804 || f == 0x0805) s e a }

/-- The DIV_SOURCE candidates in order. -/
def divSources (c : Fin 64) (divSource : Nat) (s : State) : List Nat :=
  if divSource = 0 then branchOrder s.cx.ctxs[c].source s else [divSource - 1]

/-- The branch source that CTX_DIVERSITY takes: a free one first, then one held for failover only (R172 to R174). -/
def diversitySource (c : Fin 64) (divSource : Nat) (s : State) : Option Nat :=
  let x := s.cx.ctxs[c]
  let half := halfBand x.std x.cfg
  let l := (divSources c divSource s).filter fun src => branchAllowed x.source src s
  match l.find? fun src => takes false false src x.freq half s with
  | some y => some y
  | none => l.find? fun src => takes false true src x.freq half s

/-- Whether a named branch source is refused by R172 or does not cover the context. -/
def divRefused (c : Fin 64) (divSource : Nat) (s : State) : Bool :=
  let x := s.cx.ctxs[c]
  divSource != 0 && !(branchAllowed x.source (divSource - 1) s && covers (divSource - 1) x.freq (halfBand x.std x.cfg) s)

/-- Whether the diversity branch of a context stays under a DIV_SOURCE. -/
def keepsBranch (c : Fin 64) (divSource : Nat) (s : State) : Bool :=
  let x := s.cx.ctxs[c]
  x.branchRole == .diversity && (match x.branch with | some p => divSource == 0 || s.cx.paths[p].source == divSource - 1 | none => false)

/-- The active set with the fields of CTX_DIVERSITY. -/
def divSet (x : Ctx) (l : FieldSet) : FieldSet := fmerge x.cfg l

/-- Attaches a diversity branch on a source; none when a path or the placement is missing. -/
def addDiversity (c : Fin 64) (src : Nat) (s : State) : Option State :=
  let s := freeAPath (freeTuner src (dropBranch c s))
  match freePath s with
  | some p =>
    let x := s.cx.ctxs[c]
    match regrow c s (modCtx c (fun x => { x with branch := some p, branchRole := .diversity, branchFrames := 0 }) s) with
    | some t =>
      let t := tuneSource src x.freq (halfBand x.std x.cfg) c t
      some (boundTrim p (openPath p c src x.freq (branchSet c s) t))
    | none => none
  | none => none

/-- CTX_DIVERSITY (R172 to R174). DESIGN CHOICE (log entry 103): with DIV_SOURCE AUTO the first source that fits is the one that is judged; where
it cannot be aligned the command ends with ERR_PARAM, and no later source is tried. -/
def doCtxDiversity (h : Held) (s : State) : State :=
  match openCtx h s with
  | some c =>
    let cfg := divSet s.cx.ctxs[c] (itemsOf h)
    let d := (fget cfg 0x0805).toNat
    if fget cfg 0x0804 = 0 || keepsBranch c d s then park h [] s
    else if divRefused c d s then fail h .errParam 0xFFFF .outOfRange s
    else match diversitySource c d s with
      | none => reject h .noResource s
      | some src =>
        if !alignable c src s then fail h .errParam 0xFFFF .outOfRange s
        else if (addDiversity c src s).isNone then reject h .noResource s
        else park h [] s
  | none => reject h .errState s

def execCtxDiversity (e : Entry) (s : State) : Host.Outcome State Fault Refusal :=
  .next (hostCmd (.ctxDiversity e) specCtxDiversity doCtxDiversity e s)

/-- The result of CTX_DIVERSITY. -/
def divResult (c : Fin 64) (s : State) : List (Nat × Nat × Int) :=
  let x := s.cx.ctxs[c]
  [(16, 1, pathNo x.branch), (17, 1, pathSrc x.branch s), (24, 8, dtInt (now s))]

/-- A CTX_DIVERSITY applies at the frame boundary (R173). -/
def applyDiversity (c : Fin 64) (s : State) (h : Held) : State :=
  let cfg := divSet s.cx.ctxs[c] (itemsOf h)
  let d := (fget cfg 0x0805).toNat
  let set (s : State) : State := modCtx c (fun x => { x with cfg := cfg }) s
  if fget cfg 0x0804 = 0 then
    let s := if s.cx.ctxs[c].branchRole = .diversity then dropBranch c (set s) else set s
    seekFailover c (finish h .ok (divResult c s) s)
  else if keepsBranch c d s then finish h .ok (divResult c (set s)) (set s)
  else match diversitySource c d s with
    | none => reject h .noResource s
    | some src =>
      if !alignable c src s then fail h .errParam 0xFFFF .outOfRange s
      else match addDiversity c src s with
        | some t => note h [] (set t)
        | none => reject h .noResource s

end Sys2Proof.Machine
end

