-- ==== Sys2Proof/Machine/Afs.lean ====
section
/-!
DEFINITION. Afs.lean: alternative frequencies: the AF set with its meters and tuner hop, identity, candidates and crossings, decisions,
the seamless switch, AF_REPORT, and the commands AF_POLICY, AF_LIST_SET and ALERT_CONFIG (R227 to R235, R239, R240, R339).
-/
namespace Sys2Proof.Machine

/-! ### The AF set (R227, R228) -/

/-- AF_MODE of a context: 0 OFF, 1 REPORT, 2 SWITCH, 3 SWITCH_GAP. -/
def afMode (x : Ctx) : Nat := (fget x.cfg 0x0A03).toNat

/-- Frequencies received in side data move to the front of those seen (R228). -/
def Ctx.seeAfs (l : List Nat) (source : Nat) (x : Ctx) : Ctx :=
  if l.isEmpty then x
  else (Ctx.refreshAfs { x with
    seenAfs := (l.map fun f => (f, source)) ++ x.seenAfs.filter fun f => !(f.2 == source && l.contains f.1) })

/-! ### Meters and tuner hop (R229, R230) -/

/-- Half the meter bandwidth in hertz for an alternative of a standard (R229): of DRM and DRM+ by the alternative's own frequency. -/
def meterHalf (std : Standard) (freq : Nat) : Nat :=
  match std with
  | .am => 5000
  | .fm => 100000
  | .dab => 768000
  | .drm | .drmPlus => if freq < 30000000 then 5000 else 50000

/-- Whether the bank behind a carver reaches a frequency (R230). -/
def bankCovers (freq half : Nat) (s : State) (c : Fin 8) : Bool :=
  let x := s.rf.carvers[c]
  carverRuns x && bandCovers (fget x.cfg 0x0301) (fget x.cfg 0x0302) freq half

/-- The bank for a frequency of a context (R230): that of its own carver, then one on the converter of its primary source, then another. -/
def bankFor (c : Fin 64) (freq half : Nat) (s : State) : Option Nat :=
  let l := (List.finRange 8).filter fun k => bankCovers freq half s k
  let src := s.cx.ctxs[c].source
  let near := match srcCarver src with
    | some p => l.filter fun k => carverSource k s == carverSource p s
    | none => []
  if l.any (fun k => k.val == src) then some src else ((near ++ l).head?).map (·.val)

/-- The open contexts whose AF set is evaluated (R227). -/
def afContexts (s : State) : List (Fin 64) := (List.finRange 64).filter fun c => s.cx.ctxs[c].st != .closed && afMode s.cx.ctxs[c] != 0

/-- The members of a context with their meter bandwidth. -/
def afKeys (c : Fin 64) (s : State) : List (Nat × Nat) :=
  let x := s.cx.ctxs[c]
  x.afs.map fun a => (a.freq, meterHalf x.std a.freq)

/-- Each distinct frequency with its bank; the first context that has it chooses (R230). -/
def meterPlan (s : State) : List ((Nat × Nat) × Option Nat) :=
  (afContexts s).foldl (fun acc c =>
    (afKeys c s).foldl (fun (acc : List ((Nat × Nat) × Option Nat)) k =>
      if acc.any (·.1 == k) then acc else acc ++ [(k, bankFor c k.1 k.2 s)]) acc) []

/-- The frequencies of a bank in the order of their turns. -/
def bankKeys (plan : List ((Nat × Nat) × Option Nat)) (b : Nat) : List (Nat × Nat) := (plan.filter fun x => x.2 == some b).map (·.1)

/-- The frequencies that a tuner hop would visit: no bank reaches them, AF_HOP is ON for a context that has them (R230). -/
def hopKeys (plan : List ((Nat × Nat) × Option Nat)) (s : State) : List Nat :=
  ((plan.filter fun x => x.2.isNone && decide (30000000 ≤ x.1.1) && decide (x.1.1 ≤ 1500000000)
      && (afContexts s).any fun c => fget s.cx.ctxs[c].cfg 0x0A09 == 1 && (afKeys c s).contains x.1).map (·.1.1)).eraseDups

/-- Whether a Saggar job waits for a hopping tuner: its start has come, it would take a path of its own on one, and no other is free
(R382). -/
def jobWantsHop (s : State) : Bool :=
  (s.sg.st == .ready || s.sg.st == .measuring)
    && (List.finRange 4).all (fun n => s.cx.hops[n].isSome || feeds n s || s.rf.tuners[n].st == .failed)
    && s.sg.jobs.any fun j => !j.running && !j.fault && (j.pathSel == 0 || j.pathSel == 2) && decide (j.start.toNat ≤ (now s).toNat)
      && (match idx 64 j.ctx with
        | some c => s.cx.ctxs[c].st != .closed && decide (30000000 ≤ s.cx.ctxs[c].freq) && (srcTuner s.cx.ctxs[c].source).isNone
        | none => false)

/-- Whether a tuner can hop: in STANDBY, feeding no path. -/
def canHop (n : Fin 4) (s : State) : Bool :=
  let t := s.rf.tuners[n]
  t.st == .standby && t.target.isNone && t.change.isNone && t.probe.isNone && !t.unavailable && !feeds n s

/-- Whether a tuner is still on its hop: on the way to its frequency or measuring it, and taken by no command. -/
def onHop (n : Fin 4) (s : State) : Bool :=
  let t := s.rf.tuners[n]
  (t.st == .rx || t.change.isSome) && t.freq == s.cx.hops[n] && !t.unavailable && (match t.change with | some c => c.cmd.isNone | none => true)

/-- A meter turns to other frequencies: the groups before and after are not successive, so a PI read once is forgotten (R229). -/
def forgetPi (p : AltFreq → Bool) : State → State :=
  modCx fun x => { x with ctxs := x.ctxs.map fun y => { y with afs := y.afs.map fun a => if p a then { a with piSeen := none } else a } }

/-- A tuner hops to a frequency: a channel change under R111 (R230). DESIGN CHOICE (log entry 81): with the settings of R161, for the widest
meter bandwidth that has the frequency. -/
def hopTo (n : Fin 4) (freq half : Nat) (s : State) : State :=
  beginChange n none none
    (commitTuner n [(0x0400, freq), (0x0401, 0), (0x0402, 2000), (0x0403, ((ifWidthFor half).getD 2400 : Nat))]
      (forgetPi (·.hop) (modCx (fun x => { x with hops := x.hops.set n (some freq) }) s)))

/-- A tuner ends its hop: it goes back to STANDBY unless a command has taken it. -/
def endHop (n : Fin 4) (s : State) : State :=
  let on := onHop n s
  let s := modCx (fun x => { x with hops := x.hops.set n none }) s
  if on then releaseTuner (8 + n.val) s else s

/-- The widest meter bandwidth, halved, with which a plan has a frequency. -/
def hopHalf (plan : List ((Nat × Nat) × Option Nat)) (f : Nat) : Nat := ((plan.filter fun x => x.1.1 == f).map (·.1.2)).foldl max 0

/-- The tuner hop after an assignment: a tuner that hops goes on while it has a list, else the lowest-numbered free one begins. A tuner
that a context has taken keeps its measurement to the end (R239). -/
def assignHop (plan : List ((Nat × Nat) × Option Nat)) (s : State) : State :=
  let l := hopKeys plan s
  let s := (List.finRange 4).foldl (fun s n =>
    if s.cx.hops[n].isNone || feeds n s || (onHop n s && !l.isEmpty) then s else endHop n s) s
  if (List.finRange 4).any (fun n => s.cx.hops[n].isSome && !feeds n s) then s
  else match l.head?, (List.finRange 4).find? fun n => s.cx.hops[n].isNone && canHop n s with
    | some f, some n => hopTo n f (hopHalf plan f) s
    | _, _ => s

/-- Assigns the meters and the hop anew (R230); the model does so before every use of them. -/
def assignMeters (s : State) : State :=
  let plan := meterPlan s
  let l := hopKeys plan s
  let s := assignHop plan s
  let hopping := (List.finRange 4).any fun n => s.cx.hops[n].isSome
  modCx (fun x => { x with
    ctxs := x.ctxs.map fun y =>
      if y.st == .closed || afMode y == 0 then y
      else { y with
        afs := y.afs.map fun a =>
          let b := ((plan.find? (·.1 == (a.freq, meterHalf y.std a.freq))).map (·.2)).getD none
          let hop := b.isNone && hopping && l.contains a.freq
          if b.isNone && !hop then { AltFreq.fresh a.freq a.source with pi := a.pi, piAt := a.piAt }
          else { a with
            bank := b, hop := hop,
            shared := match b with
              | some k => decide (32 < (bankKeys plan k).length)
              | none => false } } }) s

/-- The turns of a shared bank (R230). -/
def bankTurns (s : State) (b : Nat) : Nat := ceilDiv (bankKeys (meterPlan s) b).length 32

/-- Whether a member is measured now: CONTINUOUS, in its turn, or by the hop. -/
def measuredNow (std : Standard) (a : AltFreq) (s : State) : Bool :=
  match a.bank with
  | some b =>
    !a.shared || (match idx 8 b, (bankKeys (meterPlan s) b).findIdx? (· == (a.freq, meterHalf std a.freq)) with
      | some k, some i => i / 32 == s.cx.meterTurns[k]
      | _, _ => false)
  | none => a.hop && (List.finRange 4).any fun n => s.cx.hops[n] == some a.freq && s.rf.tuners[n].st == .rx && s.rf.tuners[n].change.isNone

/-! ### Identity and quality (R231, R232) -/

/-- Whether two PIs match: equal, or with PI_MATCH REGIONAL in bits 15 to 12 and 7 to 0 (R231). -/
def piMatch (regional : Bool) (a b : Nat) : Bool := a == b || (regional && a / 4096 == b / 4096 && a % 256 == b % 256)

/-- The identifier that a DAB or DRM context reports: its EId, or the identifier of its first service. -/
def ctxIdent (x : Ctx) : Option Nat :=
  match x.std with
  | .dab => x.dab.eid
  | .drm | .drmPlus => x.drm.comps.head?.map (·.sid)
  | _ => none

/-- The identity state of a member (R231): 0 UNVERIFIED, 1 VERIFIED, 2 WRONG_ID. -/
def identity (c : Fin 64) (a : AltFreq) (s : State) : Nat :=
  let x := s.cx.ctxs[c]
  match x.std with
  | .fm =>
    match a.pi, x.rds.pi with
    | some p, some q =>
      if 2 * 2 ^ 32 < dtSince a.piAt (now s) then 0
      else if piMatch (fget x.cfg 0x0A0A == 1) p q.toNat then 1 else 2
    | _, _ => 0
  | _ =>
    let others := ((List.finRange 64).filter fun d =>
      d != c && s.cx.ctxs[d].st != .closed && s.cx.ctxs[d].std == x.std && s.cx.ctxs[d].freq == a.freq).filterMap fun d => ctxIdent s.cx.ctxs[d]
    match ctxIdent x with
    | some q => if others.contains q then 1 else if others.isEmpty then 0 else 2
    | none => 0

/-- The sum and number of the Q values of a member over AF_AVG, in 0.1 dB (R232): Q = CNR − 0.2 × MULTIPATH. -/
def altQ (x : Ctx) (a : AltFreq) : Int × Nat :=
  let l := a.hist.take ((fget x.cfg 0x0A07).toNat / 10)
  (l.foldl (fun (n : Int) h => n + (h.2.1 - 2 * h.2.2)) 0, l.length)

/-- The same for the context, from its frames of 2 ms. -/
def ctxQ (x : Ctx) : Int × Nat :=
  let l := x.qHist.take ((fget x.cfg 0x0A07).toNat / 2)
  (l.foldl (fun (n : Int) q => n + q) 0, l.length)

/-- Whether a member is a candidate (R232). -/
def candidate (c : Fin 64) (a : AltFreq) (s : State) : Bool :=
  let x := s.cx.ctxs[c]
  let q := altQ x a
  let p := ctxQ x
  x.std == .fm && identity c a s == 1 && a.bank.isSome && !a.shared && q.2 != 0 && p.2 != 0
    && decide ((p.1 + fget x.cfg 0x0A05 * p.2) * q.2 ≤ q.1 * p.2)

/-- Whether new decisions are held off (R235). -/
def heldOff (x : Ctx) : Bool := x.afHoldoff.isSome || x.afSwitch.isSome

/-- One interval's step of the hold of a member: the crossing is the end of the first interval in which AF_HOLD is reached (R232). -/
def AltFreq.holdStep (a : AltFreq) (cand free : Bool) (holdMs : Nat) (t : DT) : AltFreq :=
  if !cand then { a with met := 0 }
  else
    let a := { a with met := a.met + 1 }
    if free && decide (holdMs ≤ a.met * 10) && decide (a.met * 10 < holdMs + 10) then { a with crossed := some t } else a

/-- A meter's result for one member: `pi` the block A that ended in the interval, none within it where it failed. A PI is valid when it
passes in two successive groups (R229). -/
def AltFreq.measure (a : AltFreq) (level cnr multipath : Int) (pi : Option (Option Nat)) (t : DT) : AltFreq :=
  let a := { a with hist := ((level, cnr, multipath) :: a.hist).take 100 }
  match pi with
  | some (some p) => if a.piSeen = some p then { a with pi := some p, piAt := t } else { a with piSeen := some p }
  | some none => { a with piSeen := none }
  | none => a

/-- A meter ends a 10 ms interval (R229): its result goes to every context whose set contains the frequency. -/
def execAfMeterInterval (t : DT) (freq : Nat) (level cnr multipath : Int) (pi : Option (Option Nat)) (s : State) : Host.Outcome State Fault Refusal :=
  let s := assignMeters (moment t s)
  .next ((afContexts s).foldl (fun s c =>
    match s.cx.ctxs[c].afs.find? (·.freq == freq) with
    | some a =>
      if measuredNow s.cx.ctxs[c].std a s then
        let a := a.measure level cnr multipath pi (now s)
        let x := s.cx.ctxs[c]
        let a := a.holdStep (candidate c a s) (!heldOff x) (fget x.cfg 0x0A06).toNat (now s)
        modCtx c (fun x => { x with afs := x.afs.map fun b => if b.freq = freq then a else b }) s
      else s
    | none => s) s)

/-- A shared bank passes on to its next frequencies (R230). -/
def execSharedMeterTurn (t : DT) (carver : Fin 8) (s : State) : Host.Outcome State Fault Refusal :=
  let s := assignMeters (moment t s)
  let n := bankTurns s carver.val
  .next (if n ≤ 1 then s
    else forgetPi (fun a => a.bank == some carver.val) (modCx (fun x => { x with meterTurns := upd x.meterTurns carver fun k => (k + 1) % n }) s))

/-- The hop tuner ends a dwell of 200 ms (R230): a context that took the tuner has it now (R239); one that a Saggar job wants is released
(R382); else it goes to the next frequency. -/
def execAfHopDwellEnd (t : DT) (n : Fin 4) (s : State) : Host.Outcome State Fault Refusal :=
  let s := moment t s
  .next (match s.cx.hops[n] with
    | some f =>
      match pathsOn (8 + n.val) s with
      | p :: _ =>
        let s := modCx (fun x => { x with hops := x.hops.set n none }) s
        match ctxOf p s with
        | some c =>
          let x := s.cx.ctxs[c]
          rebind p (8 + n.val) x.freq (tuneSource (8 + n.val) x.freq (halfBand x.std x.cfg) c s)
        | none => s
      | [] =>
        if jobWantsHop s then endHop n s
        else
        let s := assignMeters s
        let plan := meterPlan s
        let l := hopKeys plan s
        let next := match l.findIdx? (· == f) with
          | some i => if i + 1 < l.length then l[i + 1]? else l.head?
          | none => l.head?
        match next with
        | some g => if s.cx.hops[n].isSome && s.rf.tuners[n].st == .rx && s.rf.tuners[n].change.isNone && g != f then hopTo n g (hopHalf plan g) s else s
        | none => s
    | none => s)

/-! ### Decisions and the seamless switch (R233 to R235, R239) -/

/-- 175.2 ms (R233). -/
def decisionSpan : Nat := 1752 * 2 ^ 32 / 10000

/-- A mean Q in whole dB; the spec names no rounding. -/
def qDb (q : Int × Nat) : Int := ratio q.1 (10 * q.2)

/-- Of two members the one with the higher mean Q. -/
def betterAlt (x : Ctx) (a b : AltFreq) : AltFreq :=
  let p := altQ x a
  let q := altQ x b
  if p.1 * q.2 < q.1 * p.2 then b else a

/-- The members that crossed together with one: at the end of the same meter interval of 10 ms (R232). -/
def crossedWith (x : Ctx) (k : DT) : List AltFreq :=
  x.afs.filter fun b => match b.crossed with
    | some j => decide (dtSince j k < msDt 10) && decide (dtSince k j < msDt 10)
    | none => false

/-- The member at a frequency, where a decision can take it: it crossed at most 175.2 ms ago, and no other that crossed together with it
has a higher Q (R232, R233). -/
def decided (x : Ctx) (freq : Nat) (t : DT) : Option AltFreq :=
  match x.afs.find? (·.freq == freq) with
  | some a => match a.crossed with
    | some k =>
      if decide (dtSince k t ≤ decisionSpan) && ((crossedWith x k).foldl (betterAlt x) a).freq == freq then some a else none
    | none => none
  | none => none

/-- Whether a job reads the primary path of a context. -/
def primaryRead (c : Fin 64) (s : State) : Bool :=
  match s.cx.ctxs[c].primary with
  | some p => jobReadsPath p s
  | none => false

/-- The switch path on the bank's carver, placed with its overlap; none when one of them is missing (R234). -/
def openSwitch (c : Fin 64) (w : AfSwitch) (s : State) : Option State :=
  let x := s.cx.ctxs[c]
  match freePath s, (x.afs.find? (·.freq == w.freq)).bind (·.bank) with
  | some p, some b =>
    if !(match idx 8 b with | some k => carverFits k w.freq (halfBand x.std x.cfg) s | none => false) then none
    else
      (regrow c s (modCtx c (fun x => { x with afSwitch := some { w with path := some p, stage := 1 } }) s)).map fun t =>
        boundTrim p (openPath p c b w.freq (branchSet c s) t)
  | _, _ => none

/-- A switch begins (R233, R234): where resources are missing it is declined, or with SWITCH_GAP becomes a retune at the next frame
boundary (stage 5). -/
def startSwitch (c : Fin 64) (w : AfSwitch) (s : State) : State :=
  match openSwitch c w s with
  | some t => t
  | none =>
    let s := modCtx c (fun x => { x with afSwitch := some { w with stage := 5 } }) s
    if afMode s.cx.ctxs[c] = 3 then s else declineSwitch c 1 s

/-- The members that crossed together have been judged: they must cross again. -/
def Ctx.clearCrossings (k : DT) (x : Ctx) : Ctx :=
  let l := (crossedWith x k).map (·.freq)
  { x with afs := x.afs.map fun a => if l.contains a.freq then { a with crossed := none } else a }

/-- Block A of the candidate at a frequency passes, its PI is confirmed and the decision issued (R233). -/
def execAfPiConfirmed (t : DT) (c : Fin 64) (freq : Nat) (s : State) : Host.Outcome State Fault Refusal :=
  let s := moment t s
  let x := s.cx.ctxs[c]
  .next (if x.st == .closed || afMode x == 0 || heldOff x then s
    else match decided x freq (now s) with
      | some a =>
        let k := a.crossed.getD 0
        let w : AfSwitch := { freq := a.freq, path := none, stage := 0, since := now s, crossed := k, pi := a.pi.getD 0, qCtx := qDb (ctxQ x), qAf := qDb (altQ x a), delay := none }
        let defer := 2 ≤ afMode x && primaryRead c s
        let s := modCtx c (Ctx.clearCrossings k) s
        let s := raiseAt .afSwitch (now s)
          (afEvent c 0 (if defer then 4 else 0) 0 w x.freq (ratio (dtSince k (now s) * 10000) (2 ^ 32))) s
        if afMode x < 2 then s
        else if defer then modCtx c (fun x => { x with afSwitch := some w }) s
        else startSwitch c w s
      | none => s)

/-- No block A has passed within 175.2 ms: the candidate must cross again (R233). -/
def execAfDecisionTimeout (t : DT) (c : Fin 64) (s : State) : Host.Outcome State Fault Refusal :=
  let s := moment t s
  .next (modCtx c (fun x => { x with afs := x.afs.map fun a => match a.crossed with
    | some k => if decisionSpan ≤ dtSince k (now s) then { a with crossed := none, met := 0 } else a
    | none => a }) s)

/-- A switch deferred by a job starts when the job ends, if the candidate still meets R232 (R239). -/
def resumeSwitch (c : Fin 64) (s : State) : State :=
  let x := s.cx.ctxs[c]
  match x.afSwitch with
  | some w =>
    if w.stage ≠ 0 || primaryRead c s then s
    else if x.afs.any fun a => a.freq == w.freq && candidate c a s then startSwitch c w s
    else declineSwitch c 4 s
  | none => s

/-- The correlation of the two programmes has ended, with the delay in 10 µs where it succeeded (R234): not before 200 ms of parallel
demodulation, and a delay beyond ±20 ms is none. -/
def execAfCorrelationDone (t : DT) (c : Fin 64) (delay : Option Int) (s : State) : Host.Outcome State Fault Refusal :=
  let s := moment t s
  .next (modCtx c (fun x => { x with
    afSwitch := x.afSwitch.map fun w =>
      if w.stage = 2 && decide (msDt 200 ≤ dtSince w.since (now s)) then
        { w with stage := 3, since := now s, delay := delay.filter fun d => decide (d.natAbs ≤ 2000) }
      else w }) s)

/-- The switch path takes over (R234). -/
def finishSwitch (c : Fin 64) (w : AfSwitch) (new old : Fin 64) (s : State) : State :=
  let x := s.cx.ctxs[c]
  let s := closePath old (dropBranch c s)
  let src := s.cx.paths[new].source
  let kind := ((x.afs.find? (·.freq == w.freq)).map (·.source)).getD 2
  let s := modCtx c (fun x => Ctx.refreshAfs { x with
    primary := some new, source := src, freq := w.freq, cfg := fset x.cfg 0x0801 w.freq, afSwitch := none, afHoldoff := some (now s),
    frameAt := s.cx.paths[new].syncAt, frame := s.cx.paths[new].since / (64 * frameBlocks x.std), ckpts := Vector.replicate 2 none,
    seenAfs := (x.freq, kind) :: x.seenAfs.filter fun f => f.1 != x.freq }) s
  let s := if src = x.source then s else releaseTuner x.source s
  let res := afEvent c 1 (if w.delay.isNone then 8 else 0) 0 w x.freq (w.delay.getD 0)
  rebranch c (evSherd 0x22 c.val res (raiseAt .afSwitch (now s) res s))

/-- The cross-fade of a switch ends, 10 ms after it began (R234). -/
def execAfCrossfadeEnd (t : DT) (c : Fin 64) (s : State) : Host.Outcome State Fault Refusal :=
  let s := moment t s
  let x := s.cx.ctxs[c]
  .next (match x.afSwitch, x.primary with
    | some w, some old => match w.path with
      | some new => if w.stage = 4 && decide (msDt 10 ≤ dtSince w.since (now s)) then finishSwitch c w new old s else s
      | none => s
    | _, _ => s)

/-- AF_HOLDOFF has passed (R235): candidates are timed afresh. -/
def execAfHoldoffExpiry (t : DT) (c : Fin 64) (s : State) : Host.Outcome State Fault Refusal :=
  let s := moment t s
  let x := s.cx.ctxs[c]
  .next (match x.afHoldoff with
    | some k =>
      if (fget x.cfg 0x0A08).toNat * 2 ^ 32 ≤ dtSince k (now s) then
        modCtx c (fun x => { x with afHoldoff := none, afs := x.afs.map fun a => { a with met := 0 } }) s
      else s
    | none => s)

/-- What the frame boundary means to a switch: the cross-fade begins (R234), or the retune of SWITCH_GAP applies (R233). -/
def switchFrame (c : Fin 64) (s : State) : State :=
  let x := s.cx.ctxs[c]
  match x.afSwitch with
  | some w =>
    if w.stage = 3 then modCtx c (fun x => { x with afSwitch := some { w with stage := 4, since := now s } }) s
    else if w.stage = 5 then
      let l : FieldSet := [(0x0801, (w.freq : Int))]
      match retuneSource x l s with
      | some src =>
        retuneTo c (retuned x l) src (modCtx c (fun x => { x with afSwitch := none, afHoldoff := some (now s) }) s)
      | none => declineSwitch c 1 s
    else s
  | none => s

/-! ### AF_REPORT (R230, R235) -/

/-- The meter mode of a member: 0 CONTINUOUS, 1 SHARED, 2 tuner hop, 3 UNMEASURED. -/
def meterMode (a : AltFreq) : Nat := if a.bank.isSome then bit a.shared else if a.hop then 2 else 3

/-- One member in an AF_REPORT, in a layout of the model's own (log entry 40): LEVEL and CNR of its last interval, Q over AF_AVG (R232). -/
def reportEntry (c : Fin 64) (s : State) (a : AltFreq) : List Byte :=
  let h := a.hist.head?.getD (0, 0, 0)
  let q := altQ s.cx.ctxs[c] a
  let revisit := match a.bank with
    | some b => if a.shared then 200 * bankTurns s b else 0
    | none => 0
  pack 0 24 [(0, 4, a.freq), (4, 1, a.source), (5, 1, meterMode a), (6, 1, identity c a s), (8, 2, h.1), (10, 2, h.2.1), (12, 2, if q.2 = 0 then 0 else ratio q.1 q.2),
    (14, 2, (a.pi.getD 0 : Nat)), (16, 4, revisit)]

/-- The report of an evaluation cycle is due: once per AF_AVG (R235). -/
def execAfReportDue (t : DT) (c : Fin 64) (s : State) : Host.Outcome State Fault Refusal :=
  let s := assignMeters (moment t s)
  let x := s.cx.ctxs[c]
  .next (if x.st == .closed || afMode x == 0
      || (match x.reportAt with | some d => decide (dtSince d (now s) < msDt (fget x.cfg 0x0A07).toNat) | none => false) then s
    else
      let s := modCtx c (fun x => { x with reportAt := some (now s) }) s
      let body := x.afs.flatMap (reportEntry c s)
      ((subsOf c.val s).filter (·.kind == 12)).foldl (fun s u => dataRec u.id 0 (now s) 0 body s) s)

/-! ### AF_POLICY, AF_LIST_SET, ALERT_CONFIG (R227, R228, R236, R239, R240, R339) -/

def specAfPolicy : Spec := { itemCmd 0x0502 tContext [] (fun f => 0x0A03 ≤ f && f ≤ 0x0A0A) with remote := remoteCtx }

/-- The rules of R227 and R240 on a policy. -/
def policyOk (std : Standard) (cfg : FieldSet) : Bool :=
  (std == .fm || decide (fget cfg 0x0A03 ≤ 1)) && decide (fget cfg 0x0A07 ≤ fget cfg 0x0A06)

def doAfPolicy (h : Held) (s : State) : State :=
  match openCtx h s with
  | some c =>
    let x := s.cx.ctxs[c]
    if policyOk x.std (fmerge x.cfg (itemsOf h)) then park h [] s else fail h .errParam 0xFFFF .outOfRange s
  | none => reject h .errState s

def execAfPolicy (e : Entry) (s : State) : Host.Outcome State Fault Refusal :=
  .next (hostCmd (.afPolicy e) specAfPolicy doAfPolicy e s)

/-- AF_POLICY applies at the frame boundary; with AF_MODE OFF nothing is measured (R233). -/
def applyPolicy (c : Fin 64) (s : State) (h : Held) : State :=
  let x := s.cx.ctxs[c]
  let cfg := fmerge x.cfg (itemsOf h)
  if !policyOk x.std cfg then fail h .errParam 0xFFFF .outOfRange s
  else
    finishC h (modCtx c (fun x =>
      let y := Ctx.refreshAfs { x with cfg := cfg }
      if afMode y = 0 then { y with afs := y.afs.map fun a => AltFreq.fresh a.freq a.source } else y) s)

def listCount (a : List Byte) : Nat := le a 0 1

/-- The frequencies of AF_LIST_SET. -/
def listFreqs (a : List Byte) : List Nat := (List.range (listCount a)).map fun i => le a (8 + 4 * i) 4

def specAfListSet : Spec :=
  { plain 0x0503 0 tContext [] with
    remote := remoteCtx
    extent := fun a => 8 + 4 * listCount a
    used := fun a => [(0, 1), (8, 4 * listCount a)]
    range := fun _ _ a =>
      require (decide (listCount a ≤ 32)) 0 ++ (List.range (listCount a)).flatMap fun i =>
        require (decide (64000000 ≤ le a (8 + 4 * i) 4) && decide (le a (8 + 4 * i) 4 ≤ 110000000)) (8 + 4 * i) }

/-- The HOST list of a context is replaced. -/
def applyList (c : Fin 64) (s : State) (h : Held) : State :=
  let s := modCtx c (fun x => Ctx.refreshAfs { x with hostAfs := listFreqs (Entry.args h.entry) }) s
  finish h .ok [(16, 1, (s.cx.ctxs[c].afs.length : Nat))] s

/-- AF_LIST_SET takes effect at once, during a switch at the next frame boundary (R239). -/
def doAfListSet (h : Held) (s : State) : State :=
  match openCtx h s with
  | some c => if s.cx.ctxs[c].afSwitch.isSome then park h [] s else applyList c s h
  | none => reject h .errState s

def execAfListSet (e : Entry) (s : State) : Host.Outcome State Fault Refusal :=
  .next (hostCmd (.afListSet e) specAfListSet doAfListSet e s)

def specAlertConfig : Spec := { itemCmd 0x0504 tContext [] (fun f => 0x0A0B ≤ f && f ≤ 0x0A0E) with remote := remoteCtx }

def doAlertConfig (h : Held) (s : State) : State := if (openCtx h s).isSome then park h [] s else reject h .errState s

def execAlertConfig (e : Entry) (s : State) : Host.Outcome State Fault Refusal :=
  .next (hostCmd (.alertConfig e) specAlertConfig doAlertConfig e s)

/-- ALERT_CONFIG applies at the frame boundary; a kind no longer selected keeps no flag. -/
def applyAlertConfig (c : Fin 64) (s : State) (h : Held) : State :=
  let s := modCtx c (fun x => { x with cfg := fmerge x.cfg (itemsOf h) }) s
  finishC h (dropAlerts c (fun a => testBit (fget s.cx.ctxs[c].cfg 0x0A0B).toNat a.kind) s)

end Sys2Proof.Machine
end

