-- ==== Sys2Proof/Machine/Compare.lean ====
section
/-!
DEFINITION. Compare.lean: the air-chain comparison of a studio feed with a service (R289 to R291, R413).
-/
namespace Sys2Proof.Machine

/-! ### The two signatures (R289) -/

/-- The word of sub-frame `n`, counted from DT zero, in a list that ends before `stop`, newest first. -/
def wordAt (words : List (Nat × Bool)) (stop : Nat) (n : Int) : Option (Nat × Bool) :=
  if n < 0 ∨ (stop : Int) ≤ n then none else words[(stop - 1 - n.toNat : Nat)]?

/-- The sub-frames of the service in the last CMP_WIN, as far as the window of the comparison goes. -/
def cmpFrames (y : Svc) (a : Ain) : List Nat :=
  (List.range (min (32 * (fget a.cmpCfg 0x0D04).toNat) (y.subEnd - a.cmpWin))).map fun i => y.subEnd - 1 - i

/-- The counts of a comparison at a delay of `d` sub-frames (R290): the bits that differ and the sub-frames compared, those reliable on both
sides; the sub-frames that are not reliable on the air and on the studio side. -/
structure CmpCount where
  errors : Nat
  compared : Nat
  air : Nat
  studio : Nat
  deriving DecidableEq, Repr

def cmpCount (y : Svc) (a : Ain) (d : Int) : CmpCount :=
  (cmpFrames y a).foldl (fun (c : CmpCount) (n : Nat) =>
    let p := wordAt y.words y.subEnd n
    let q := wordAt a.words a.subEnd ((n : Int) - d)
    let airOk := match p with | some x => x.2 | none => false
    let studioOk := match q with | some x => x.2 | none => false
    let c := { c with air := c.air + bit !airOk, studio := c.studio + bit !studioOk }
    match p, q with
    | some (u, true), some (w, true) => { c with errors := c.errors + diffBits u w, compared := c.compared + 1 }
    | _, _ => c) { errors := 0, compared := 0, air := 0, studio := 0 }

/-- Whether three quarters of a window can be compared. DESIGN CHOICE (log entry 110): as R258 has it for a match; and a delay is sought once a
whole CMP_WIN has passed. -/
def CmpCount.enough (n : Nat) (c : CmpCount) : Bool := decide (0 < n) && decide (3 * n ≤ 4 * c.compared)

/-- Whether the BER is at most `k` hundredths. -/
def CmpCount.within (k : Int) (c : CmpCount) : Bool := berAtMost k (c.errors, c.compared)

/-- Of two delays the one with the lower BER, of equals the first. -/
def betterDelay (y : Svc) (a : Ain) (d e : Int) : Int :=
  let p := cmpCount y a d
  let q := cmpCount y a e
  if q.compared != 0 && (p.compared == 0 || lowerBer (q.errors, q.compared) (p.errors, p.compared)) then e else d

/-- The delay that a search from −1 s to MAX_DELAY finds, in sub-frames (R289). -/
def searchDelay (y : Svc) (a : Ain) : Option Int :=
  let n := (cmpFrames y a).length
  if n < 32 * (fget a.cmpCfg 0x0D04).toNat then none
  else
    let l := ((List.range (32 + 32 * (fget a.cmpCfg 0x0D02).toNat + 1)).map fun (k : Nat) => (k : Int) - 32).filter fun d => (cmpCount y a d).enough n
    match l with
    | d :: rest =>
      let best := rest.foldl (betterDelay y a) d
      if (cmpCount y a best).within (fget a.cmpCfg 0x0D05) then some best else none
    | [] => none

/-- The delay after a period (R289): searched while there is none; else tracked by one sub-frame. Where the content has jumped further away,
which the search then finds, there is none again. -/
def trackDelay (y : Svc) (a : Ain) : Option Int :=
  match a.cmpSub with
  | none => searchDelay y a
  | some d =>
    let near := betterDelay y a (betterDelay y a d (d - 1)) (d + 1)
    if (cmpCount y a near).within (fget a.cmpCfg 0x0D05) then some near
    else match searchDelay y a with
      | some e => if (e - near).natAbs ≤ 1 then some e else none
      | none => some near

/-- The delay in 10 µs (R289): that of the signatures, refined over ±31.25 ms by the two mono signals. -/
def fineDelayOf (y : Svc) (a : Ain) (d : Int) : Int :=
  d * 3125 + max (-3125) (min 3125 (Config.fineDelay (y.line.mono.map (·.v)) (a.line.mono.map (·.v))))

/-! ### Its states (R290) -/

/-- The short-term loudness of a side at the end of its last second. -/
def airLoud (y : Svc) : Option Int := recentLoudness 30 (BitVec.ofNat 64 (y.subEnd * 2 ^ 27)) y.loudHist
def studioLoud (a : Ain) : Option Int := recentLoudness 30 (BitVec.ofNat 64 (a.subEnd * 2 ^ 27)) a.loudHist

/-- Whether a side is silent: below −60 LUFS, or without any sound. -/
def sideSilent (l : Option Int) : Bool := match l with | some k => decide (k < -600) | none => true

/-- A condition is timed from its first instant. -/
def timed (on : Bool) (since : Option DT) (t : DT) : Option DT := if on then some (since.getD t) else none

/-- Whether a timed condition has lasted CMP_HOLD. -/
def heldCmp (a : Ain) (since : Option DT) (t : DT) : Bool :=
  match since with
  | some d => decide ((fget a.cmpCfg 0x0D06).toNat * 2 ^ 32 ≤ dtSince d t)
  | none => false

/-- A comparison after a second of signatures: its delay, and what CMP_HOLD times. -/
def Ain.track (y : Svc) (t : DT) (a : Ain) : Ain :=
  let d := trackDelay y a
  let bad := match d with | some d => !(cmpCount y a d).within (fget a.cmpCfg 0x0D05 + 10) | none => false
  { a with
    cmpSub := d, cmpDelay := (match d with | some d => fineDelayOf y a d | none => a.cmpDelay), cmpBad := timed bad a.cmpBad t,
    cmpStudio := timed (sideSilent (studioLoud a)) a.cmpStudio t, cmpAir := timed (sideSilent (airLoud y)) a.cmpAir t }

/-- The state of a comparison (R290). DESIGN CHOICE (log entry 110): of several that hold, NO_INPUT, AIR_UNAVAILABLE and the silent sides come
first; between CMP_BER and MISMATCH the state stays. -/
def compareState (y : Svc) (a : Ain) (t : DT) : Fin 7 :=
  if !a.locked || a.nonAudio then 5
  else if y.st != .running then 6
  else if heldCmp a a.cmpStudio t then 3
  else if heldCmp a a.cmpAir t then 4
  else match a.cmpSub with
    | none => 0
    | some d =>
      if heldCmp a a.cmpBad t then 2
      else if (cmpCount y a d).within (fget a.cmpCfg 0x0D05) then 1
      else if a.cmpState = 2 then 2
      else if a.cmpState = 1 then 1
      else 0

/-! ### Its reports (R290, R413) -/

/-- The correlation of two channels over the last second that both sides hold, at a delay of `d` sub-frames of 1500 frames each. -/
def correlation (air studio : AFrame → Int) (y : Svc) (a : Ain) (d : Int) : Int :=
  let first := (a.line.no 0 : Int) + d * 1500 - (y.line.no 0 : Int)
  ((List.range 48000).map fun k =>
    let n : Int := (a.line.count : Int) - 1 - (k : Nat)
    match a.line.frame? n, y.line.frame? (n + first) with
    | some p, some q => studio p * air q
    | _, _ => 0).sum

/-- What a comparison reports now. The BER and the loudness difference of what cannot be compared are free values. -/
def compareResult (i : Fin 4) (v : Fin 96) (s : State) : CompareResult × State :=
  let y := s.audio.svcs[v]
  let a := s.port.ains[i]
  let d := a.cmpSub.getD 0
  let c := cmpCount y a d
  let (ber, s) := told (if c.compared = 0 then none else some (ratio (c.errors * 65536 : Nat) (8 * c.compared))) s
  let (diff, s) := told (match airLoud y, studioLoud a with | some p, some q => some (p - q) | _, _ => none) s
  let cor (f g : AFrame → Int) : Int := correlation f g y a d
  ({ state := a.cmpState, delay := a.cmpDelay, ber := ber.toNat, loudDiff := diff,
     flags := Config.channelFlags (cor (·.l) (·.l)) (cor (·.r) (·.l)) (cor (·.l) (·.r)) (cor (·.r) (·.r)) &&& 7,
     airUnreliable := c.air, studioUnreliable := c.studio }, s)

/-- The AIRCHAIN_REPORT of a comparison, and with a change of state its Sherd. -/
def reportCompare (i : Fin 4) (changed : Bool) (s : State) : State :=
  match s.port.ains[i].cmp with
  | some v =>
    let (r, s) := compareResult i v s
    let s := airchainRec i 0 r s
    if changed then
      opSherd 0x32 s.audio.svcs[v].ctx (now s) (now s)
        (pack 0 48 [(0, 1, i.val), (1, 1, r.state.val), (2, 2, v.val), (4, 4, r.delay), (8, 2, r.ber), (10, 2, r.loudDiff)]) s
    else s
  | none => s

/-- A comparison follows what it depends on: a change of state is reported at once. -/
def followCompare (i : Fin 4) (s : State) : State :=
  match s.port.ains[i].cmp with
  | some v =>
    let st := compareState s.audio.svcs[v] s.port.ains[i] (now s)
    if st = s.port.ains[i].cmpState then s else reportCompare i true (modAin i (fun a => { a with cmpState := st }) s)
  | none => s

/-- The comparisons of a service follow it; `second` when a second of its signature is complete. -/
def followCompares (v : Fin 96) (second : Bool) (s : State) : State :=
  (List.finRange 4).foldl (fun s i =>
    if s.port.ains[i].cmp == some v then
      followCompare i (if second then modAin i (Ain.track s.audio.svcs[v] (now s)) s else s)
    else s) s

end Sys2Proof.Machine
end

