-- ==== Sys2Proof/Machine/Frame.lean ====
section
/-!
DEFINITION. Frame.lean: the context frame with all that applies at its boundary, acquisition and loss, Wheel hangs, failover retries, the
analogue measurements, and CTX_GET_QUALITY (R158 to R185, R187, R210, R216, R223, R334).
-/
namespace Sys2Proof.Machine

/-! ### What a frame brings (R158, R159, R162 to R164, R169, R173) -/

/-- The frames over which a joining branch reaches its weight: 50 ms (R173, R209). -/
def rampFrames (std : Standard) : Nat := if std = .drm then 38 else 25

/-- The branch that is used, and whether it is combined (R173): DIV_MODE, 0 OFF, 1 MRC, 2 SELECT. -/
def divMode (x : Ctx) : Int := if x.branchRole = .diversity then fget x.cfg 0x0804 else 0

/-- A weight conj(h)/σ² at `k` of `n` parts of its ramp: numerator and denominator. -/
def weightAt (k n : Nat) (e : (Int × Int) × Nat) : (Int × Int) × Nat := ((k * e.1.1, -(k * e.1.2)), n * e.2)

/-- The weights of the primary and the branch on each carrier (R173, R209): conj(h)/σ², the branch's on its ramp; of SELECT the one that
is not chosen has weight 0, and so has a branch that is not live or serves for failover only. -/
def combineWeights (x : Ctx) (live : Bool) : List ((Int × Int) × Nat) × List ((Int × Int) × Nat) :=
  let used := live && divMode x != 0
  let sel := divMode x == 2
  (x.fig.estP.map (weightAt (if used && sel && x.selected then 0 else 1) 1),
    x.fig.estB.map (weightAt (if !used then 0 else if sel then bit x.selected else min x.branchFrames (rampFrames x.std))
      (if sel then 1 else rampFrames x.std)))

/-- What a path brings to the combination with its weights: the sum of |w·h|, in units of 2^-16. An estimate with σ² = 0 brings nothing. -/
def contribution (w e : List ((Int × Int) × Nat)) : Nat :=
  (w.zip e).foldl (fun (n : Nat) x => n + (x.1.1.1 * x.2.1.1 - x.1.1.2 * x.2.1.2).natAbs * 65536 / x.1.2) 0

/-- The current weights that the quality report gives (R181), as shares of the combination in 0.1 %. DESIGN CHOICE (log entry 78). -/
def weightShares (x : Ctx) (live : Bool) : Int × Int :=
  let w := combineWeights x live
  let p := contribution w.1 x.fig.estP
  let b := contribution w.2 x.fig.estB
  if p + b = 0 then (if live && divMode x == 2 && x.selected then (0, 1000) else (1000, 0))
  else (ratio (1000 * p : Nat) (p + b), 1000 - ratio (1000 * p : Nat) (p + b))

/-- SELECT's choice between two measures in 0.1 dB, with 3 dB hysteresis (R173, R209). -/
def choose3dB (branch : Bool) (p b : Int) : Bool := if branch then decide (p < b + 30) else decide (p + 30 ≤ b)

/-- The CNR of what is demodulated: of the combined signal where there is one (R232). -/
def Ctx.cnr (x : Ctx) : Int := if divMode x = 0 then x.fig.cnr else x.fig.combinedCnr

/-- The share of stereo that BLEND_HIGH, BLEND_LOW and STEREO_MODE ask for, in 0.1 % (R178). -/
def blendTarget (x : Ctx) : Nat :=
  let mode := fget x.cfg 0x0809
  let hi := 10 * fget x.cfg 0x080A
  let lo := 10 * fget x.cfg 0x080B
  if mode = 1 || !x.pilot then 0
  else if mode = 2 || decide (hi ≤ x.fig.lrSnr) then 1000
  else if x.fig.lrSnr ≤ lo then 0
  else (ratio (1000 * (x.fig.lrSnr - lo)) (hi - lo).toNat).toNat

/-- The share of stereo after a frame of 2 ms (R178). DESIGN CHOICE (log entry 79): attack towards mono and release towards stereo are
linear, the whole range in 10 ms and in 1 s; FORCE_MONO and FORCE_STEREO act at once. -/
def blendStep (x : Ctx) : Nat :=
  let want := blendTarget x
  if fget x.cfg 0x0809 ≠ 0 then want
  else if want < x.blend then max want (x.blend - 200) else min want (x.blend + 2)

/-- The state that a checkpoint holds (R169). -/
def Ctx.checkpoint (x : Ctx) : Checkpoint :=
  { frame := x.frame, fig := x.fig, blend := x.blend, eqEngaged := x.eqEngaged, eqDenied := x.eqDenied, pilot := x.pilot, win := x.win,
    mpxPower := x.mpxPower, mpxSeconds := x.mpxSeconds, mpxCount := x.mpxCount, qHist := x.qHist, branchFrames := x.branchFrames,
    selected := x.selected, afcDigital := x.afcDigital }

/-- A checkpoint is written to the buffer that the last one did not take (R169). -/
def Ctx.save (x : Ctx) : Ctx :=
  { x with checkBuf := !x.checkBuf, ckpts := if x.checkBuf then x.ckpts.set 0 (some x.checkpoint) else x.ckpts.set 1 (some x.checkpoint) }

/-- The last checkpoint written. -/
def Ctx.lastSaved (x : Ctx) : Option Checkpoint := if x.checkBuf then x.ckpts[1] else x.ckpts[0]

/-- A context goes on from its last checkpoint (R171, R185). DESIGN CHOICE (log entry 80): what the data decoders have taken since stands. -/
def Ctx.reload (x : Ctx) : Ctx :=
  match x.lastSaved with
  | some k => { x with
      frame := k.frame, fig := k.fig, blend := k.blend, eqEngaged := k.eqEngaged, eqDenied := k.eqDenied, pilot := k.pilot, win := k.win,
      mpxPower := k.mpxPower, mpxSeconds := k.mpxSeconds, mpxCount := k.mpxCount, qHist := k.qHist, branchFrames := k.branchFrames,
      selected := k.selected, afcDigital := k.afcDigital }
  | none => x

/-- Whether the primary path of a context runs. -/
def primaryRuns (c : Fin 64) (s : State) : Bool :=
  match s.cx.ctxs[c].primary with
  | some p => s.cx.paths[p].run == .running
  | none => false

/-- The acquisition criteria (R158, R193, R204). -/
def acquired (x : Ctx) : Bool :=
  match x.std with
  | .am => if fget x.cfg 0x0807 = 0 then decide (100 ≤ x.cnr) else x.fig.carrierLock
  | .fm => decide (100 ≤ x.cnr)
  | .dab => x.dab.full
  | .drm | .drmPlus => x.drm.full

/-- Whether MULTIPATH lies beyond the limit at which EQ_MODE AUTO would change over (R178): above 20 % to engage, below 10 % to disengage. -/
def eqWants (x : Ctx) : Bool :=
  x.std == .fm && fget x.cfg 0x080D == 1 && (if x.eqEngaged then decide (x.fig.multipath < 10) else decide (20 < x.fig.multipath))

/-- Whether the pilot's deviation lies beyond the limit at which its presence changes (R178): 4 kHz or more, below 2.5 kHz. -/
def pilotWants (x : Ctx) : Bool := x.std == .fm && (if x.pilot then decide (x.fig.pilotDev < 250) else decide (400 ≤ x.fig.pilotDev))

/-- Times the criteria, the CNR rule, and those of the equaliser and the pilot, from the frame that begins them (R158, R178). -/
def Ctx.judge (t : DT) (x : Ctx) : Ctx :=
  { x with
    eqFrom := if eqWants x then some (x.eqFrom.getD t) else none,
    pilotFrom := if pilotWants x then some (x.pilotFrom.getD t) else none,
    acqFrom := if x.st = .acquiring ∧ acquired x = true then some (x.acqFrom.getD t) else none,
    lossFrom := if x.st = .running ∧ x.cnr < 60 then some (x.lossFrom.getD t) else none }

/-- A branch after a frame (R173, R209, R211): its ramp, which for DAB begins when sync is FULL, and for AM and FM the choice of SELECT. -/
def Ctx.useBranch (live : Bool) (x : Ctx) : Ctx :=
  { x with
    branchFrames := if live && (x.std != .dab || x.dab.full || x.branchFrames != 0) then min (rampFrames x.std) (x.branchFrames + 1)
      else x.branchFrames,
    selected := if !live || divMode x != 2 then false
      else if x.std = .am ∨ x.std = .fm then choose3dB x.selected x.fig.cnr x.fig.branchCnr else x.selected }

/-- A demodulated frame (R158, R159, R173, R178): figures, with the CLIP-flagged samples of each path in it (R85), the use of the branch,
blend, the states it ends. -/
def Ctx.takeFrame (f : FrameFigures) (clips : Nat × Nat) (live : Bool) (t : DT) (x : Ctx) : Ctx :=
  let x := Ctx.useBranch live { x with fig := f, clipCount := clips.1, branchClip := clips.2 }
  Ctx.judge t { x with
    qHist := ((x.cnr - 2 * f.multipath) :: x.qHist).take 500,
    frame := x.frame + 1,
    blend := blendStep x,
    mirror := if x.mirror = 1 then 2 else x.mirror,
    st := if x.st = .opening ∨ x.st = .retuning then .acquiring else x.st }

/-- The range of the AFC in hertz (R176, R178, R192, R203). -/
def afcRange : Standard → Nat
  | .am => 2000
  | .fm => 16000
  | .dab => 128000
  | .drm => 3000
  | .drmPlus => 12000

/-- The NCO_TRIM that the AFC gives a path for the offset it has found, within its range and the bound of R133. -/
def afcTrim (x : Ctx) (y : Path) : Int :=
  clampTo (min (trimBound y) (pathWord (afcRange x.std * 65536 : Nat) y.fin).toNat) (pathWord x.fig.afcOffset y.fin)

/-- With AFC on NCO_TRIM of a context's paths follows the offset; while a Saggar job holds it (R153) the offset is followed digitally
(R176). -/
def steer (c : Fin 64) (s : State) : State :=
  let x := s.cx.ctxs[c]
  if fget x.cfg 0x0806 = 0 then modCtx c (fun x => { x with afcDigital := 0 }) s
  else
    let held := (pathsOf c s).find? fun p => jobReadsPath p s
    let s := modCtx c (fun y => { y with
      afcDigital := match held with | some p => afcTrim x s.cx.paths[p] - s.cx.paths[p].trim | none => 0 }) s
    (pathsOf c s).foldl (fun s p =>
      let v := afcTrim x s.cx.paths[p]
      if jobReadsPath p s || v == s.cx.paths[p].trim then s else setTrim v s p) s

/-- The commands of a context that have begun, by opcode. -/
def begunOf (op : Nat) (c : Fin 64) (s : State) : List Held :=
  s.host.held.filter fun h => h.begun && h.op == op && h.entry.target.toNat == c.val

/-- A CTX_OPEN or CTX_RETUNE ends with the first frame: the branch is established and the result given (R162, R164, R174). -/
def endOpening (c : Fin 64) (s : State) : State :=
  let hs := begunOf 0x0400 c s ++ begunOf 0x0401 c s
  if hs.isEmpty then s
  else
    let s := rebranch c s
    hs.foldl (fun s h => finish h .ok (openResult c s) s) s

/-- A CTX_DIVERSITY ends when the branch has joined (R173); when its branch is gone it ends with HW_FAULT. -/
def endDiversity (c : Fin 64) (s : State) : State :=
  (begunOf 0x040A c s).foldl (fun s h =>
    if s.cx.ctxs[c].branch.isNone then reject h .hwFault s
    else if branchLive s.cx.ctxs[c] s then finish h .ok (divResult c s) s
    else s) s

/-- The commits applied at the boundary before this frame end with it (R163). -/
def endApplied (c : Fin 64) (s : State) : State :=
  (begunOf 0x0406 c s).foldl (fun s h => finish h .ok [(24, 8, h.aux.headD 0)] s) s

/-- The stamp at which the current context frame begins, in DT units from a count of its frames (R159, R187). -/
def frameStart (x : Ctx) (y : Path) (k : Nat) : Nat := x.frameAt.toNat + outSpan (64 * frameBlocks x.std * k) y

/-- The CLIP-flagged samples of a path in a span of stamps, by the headers of its kept blocks (R85, R143). -/
def clipsIn (from_ till : Nat) (y : Path) : Nat :=
  y.kept.foldl (fun (n : Nat) b =>
    let at_ := le b 0 8 + outSpan 32 y
    if from_ ≤ at_ && at_ < till then n + le b 10 2 else n) 0

/-- The CLIP-flagged samples of a context's paths in its current frame: of the primary and of the branch (R85, R181). -/
def frameClips (c : Fin 64) (s : State) : Nat × Nat :=
  let x := s.cx.ctxs[c]
  let count (p : Option (Fin 64)) : Nat := match p with
    | some p =>
      let y := s.cx.paths[p]
      clipsIn (frameStart x y x.frame) (frameStart x y (x.frame + 1)) y
    | none => 0
  (count x.primary, count x.branch)

/-- Whether the equaliser works: EQ_MODE ON, or AUTO engaged (R178). -/
def eqActs (x : Ctx) : Bool := fget x.cfg 0x080D == 2 || (fget x.cfg 0x080D == 1 && x.eqEngaged)

/-- The audio of a frame of 2 ms of AM or FM from the path blocks (R176, R178): AM_MODE's method while the carrier PLL is locked and the
envelope otherwise; of FM the sum signal, and the difference signal as far as the blend lets it through. It is never concealed (R246). -/
def analogAudio (x : Ctx) (l : List (List Byte)) : List AFrame :=
  (List.range 96).map fun k =>
    if x.std = .am then
      let v := Config.amAudio (if x.fig.carrierLock then (fget x.cfg 0x0807).toNat else 0) (fget x.cfg 0x0808).toNat l k
      { l := v, r := v, conc := false, mute := false }
    else
      let m := Config.fmAudio false (eqActs x) (fget x.cfg 0x080C).toNat l k
      let d := ratio (x.blend * Config.fmAudio true (eqActs x) (fget x.cfg 0x080C).toNat l k) 1000
      { l := m + d, r := m - d, conc := false, mute := false }

/-- The blocks that a frame of a context is demodulated from: those of its primary path while it runs, and those of its live branch. -/
def frameBytes (x : Ctx) (s : State) : List (List Byte) :=
  let of (p : Option (Fin 64)) : List (List Byte) := match p with
    | some p => if s.cx.paths[p].run == .running then s.cx.paths[p].kept else []
    | none => []
  of x.primary ++ of x.branch

/-- The audio of AM and FM joins the lines of the context's services, with the path stamp of the frame (R17, R247). -/
def pushAnalog (c : Fin 64) (start : DT) (s : State) : State :=
  let x := s.cx.ctxs[c]
  if x.std != .am && x.std != .fm then s
  else
    let fs := analogAudio x (frameBytes x s)
    (svcsOf c.val s).foldl (fun s v => modSvc v (fun y => if y.st = .running then y.push (now s) start fs else y) s) s

/-- The stamp at which the current frame of a context begins. -/
def frameStamp (x : Ctx) (s : State) : DT :=
  match x.primary with
  | some p => BitVec.ofNat 64 (frameStart x s.cx.paths[p] x.frame)
  | none => now s

/-- The frame that has ended, with its audio and its checkpoint (R169). -/
def takeFrame (c : Fin 64) (f : FrameFigures) (s : State) : State :=
  let start := frameStamp s.cx.ctxs[c] s
  let s := modCtx c (Ctx.takeFrame f (frameClips c s) (branchLive s.cx.ctxs[c] s) (now s)) s
  let s := modCtx c Ctx.save (steer c (pushAnalog c start s))
  endDiversity c (endApplied c (endOpening c s))

/-! ### What applies at the boundary (R11, R12, R160, R163 to R166, R173, R216, R240, R476) -/

/-- Whether a lifecycle command of a context is under way, so that the next one waits (R160). -/
def lifecycleBusy (c : Fin 64) (s : State) : Bool :=
  s.host.held.any fun h => h.begun && h.entry.target.toNat == c.val && [0x0400, 0x0401, 0x040A].contains h.op

/-- The lifecycle command that applies at this boundary. -/
def nextLifecycle (c : Fin 64) (s : State) : Option Held :=
  if lifecycleBusy c s then none
  else s.host.held.find? fun h => parked h && !late h s && h.entry.target.toNat == c.val && [0x0401, 0x0402, 0x040A].contains h.op

/-- PAIR_MIRROR applies (R476): the mirror is the secondary's context of the same number. -/
def applyMirror (c : Fin 64) (s : State) (h : Held) : State :=
  let on := le (Entry.args h.entry) 0 1 == 1
  finish h .ok [(16, 1, ((c.val + 64 : Nat) : Int)), (24, 8, dtInt (now s))]
    (modCtx c (fun x => { x with mirrorOn := on, mirror := if on then max 1 x.mirror else 0 }) (emit (.link 1 (entryBytes h.op h.entry)) s))

/-- DATA_UNSUBSCRIBE applies (R216, R339). -/
def applyUnsubscribe (c : Fin 64) (s : State) (h : Held) : State :=
  let id := BitVec.ofNat 16 (le (Entry.args h.entry) 0 2)
  if (subsOf c.val s).any (·.id == id) then finishC h (endSub id s) else fail h .errParam 16 .outOfRange s

/-- The services of a context whose stop waits for this boundary end (R245). -/
def applyStops (c : Fin 64) (s : State) : State :=
  (svcsOf c.val s).foldl (fun s v => if (waiting 0x0601 v.val s).isEmpty then s else endService v s) s

/-- The values and requests of other commands that wait for the boundary. -/
def applyWaiting (c : Fin 64) (s : State) : State :=
  let s := ((waiting 0x0406 c.val s).filter fun h => itemAction (Entry.args h.entry) == 1).foldl (applyMigrate c) s
  let s := applyFields c s
  let s := (waiting 0x0502 c.val s).foldl (applyPolicy c) s
  let s := (waiting 0x0503 c.val s).foldl (applyList c) s
  let s := (waiting 0x0504 c.val s).foldl (applyAlertConfig c) s
  let s := (waiting 0x0B03 c.val s).foldl (applyMirror c) s
  let s := (waiting 0x0501 c.val s).foldl (applyUnsubscribe c) s
  applyStops c (switchFrame c s)

/-- What asks for subchannels at a context frame boundary: theirs are selected from the next CIF boundary (R196). -/
def applySelection (c : Fin 64) (s : State) : State :=
  if s.cx.ctxs[c].std = .dab then
    let l := (askers c s).map (·.1)
    modCtx c (fun x => { x with dab := { x.dab with applied := l } }) s
  else s

/-- The frame boundary of a context. The stages submitted before a lifecycle command apply before it; a CTX_CLOSE ends the context there, so
nothing else applies. -/
def frameBoundary (c : Fin 64) (s : State) : State :=
  match nextLifecycle c s with
  | some h =>
    let s := applyStages c ((waiting 0x0405 c.val s).filter fun x => (earlier h s).any (·.id == x.id)) s
    if h.op = 0x0402 then
      let t := applyClose c h s
      if t.cx.ctxs[c].st == .closed then t else applySelection c (applyWaiting c t)
    else applySelection c (applyWaiting c (if h.op = 0x0401 then applyRetune c s h else applyDiversity c s h))
  | none => applySelection c (applyWaiting c s)

/-- Whether a running primary path has delivered the current context frame, and the one after it while a branch is live (R159, R175,
R187). Where the path does not run, the boundary comes by itself (log entry 41). -/
def frameDue (c : Fin 64) (s : State) : Bool :=
  let x := s.cx.ctxs[c]
  match x.primary with
  | some p =>
    let y := s.cx.paths[p]
    y.run != .running || decide (frameStart x y (x.frame + 1 + bit (branchLive x s)) ≤ y.next.toNat + outSpan 1 y / 2)
  | none => true

/-- Whether the blocks of the current frame are still kept (R169). -/
def frameKept (c : Fin 64) (s : State) : Bool :=
  let x := s.cx.ctxs[c]
  match x.primary with
  | some p =>
    let y := s.cx.paths[p]
    decide (y.next.toNat ≤ frameStart x y x.frame + outSpan (64 * y.kept.length + 1) y)
  | none => false

/-- A context frame (R159, R187): a frame is demodulated from the blocks of the primary path, or of the live branch alone while the primary
waits for its source (R175); the boundary comes all the same (log entry 41). A frame whose blocks are kept no longer is passed over. -/
def execContextFrame (t : DT) (c : Fin 64) (f : FrameFigures) (s : State) : Host.Outcome State Fault Refusal :=
  let s := moment t s
  let x := s.cx.ctxs[c]
  .next (if x.st == .closed || !frameDue c s then s
    else frameBoundary c (
      if !(primaryRuns c s || branchLive x s) || x.st == .hold then s
      else if !primaryRuns c s || frameKept c s then takeFrame c f s
      else modCtx c (fun x => { x with frame := x.frame + 1 }) s))

/-- The ST fields of a path apply at its frame boundary: thresholds (R152) and the source part of a commit (R155). -/
def execPathCommitApply (t : DT) (p : Fin 64) (s : State) : Host.Outcome State Fault Refusal :=
  let s := moment t s
  .next (if s.cx.paths[p].run != .running then s
    else
      let s := thresholdsAt p s
      match ctxOf p s with
      | some c =>
        let x := s.cx.ctxs[c]
        if x.primary == some p && (waiting 0x0406 c.val s).any (fun h => itemAction (Entry.args h.entry) == 0)
            && blendOk x.std (committed x) && !commitMisses x s && !namedRead s c.val then commitPath c s
        else s
      | none => s)

/-- The criteria have held for 20 ms (R158). -/
def execAcquisitionHoldMet (t : DT) (c : Fin 64) (s : State) : Host.Outcome State Fault Refusal :=
  let s := moment t s
  .next (modCtx c (fun x => match x.acqFrom with
    | some d => if x.st = .acquiring ∧ msDt 20 ≤ dtSince d (now s) then { x with st := .running, acqFrom := none } else x
    | none => x) s)

/-- The CNR has been below 6 dB for 200 ms (R158). -/
def execCnrLossTimeout (t : DT) (c : Fin 64) (s : State) : Host.Outcome State Fault Refusal :=
  let s := moment t s
  .next (modCtx c (fun x => match x.lossFrom with
    | some d => if x.st = .running ∧ msDt 200 ≤ dtSince d (now s) then { x with st := .acquiring, lossFrom := none } else x
    | none => x) s)

/-! ### Wheel hangs (R168, R171) -/

/-- Insertion of a context by descending cost. -/
def insertCost (s : State) (c : Fin 64) : List (Fin 64) → List (Fin 64)
  | [] => [c]
  | d :: rest => if ctxCost d s < ctxCost c s then c :: d :: rest else d :: insertCost s c rest

/-- The contexts on a Wheel, the most costly first. -/
def onWheel (w : Fin 16) (s : State) : List (Fin 64) :=
  ((List.finRange 64).filter fun c => s.cx.ctxs[c].st != .closed && s.cx.ctxs[c].wheel == some w).foldl (fun l c => insertCost s c l) []

/-- Places a context that a hang took from its Wheel on the least-loaded other one with room; without room it waits in HOLD. -/
def rescue (s : State) (c : Fin 64) : State :=
  match roomiest (freeCaps (placed s) s) with
  | some (w, room) =>
    if ctxCost c s ≤ room then modCtx c (fun x => { x with wheel := some w }) s
    else holdCtx c ((pathsOf c s).foldl (fun s p => holdPath p s) s)
  | none => holdCtx c ((pathsOf c s).foldl (fun s p => holdPath p s) s)

/-- The Sherds of a hang that is over (R37, R40). -/
def hangSherds (w : Fin 16) (s : State) : State :=
  let t := s.cx.wheels[w].hungAt
  legalFault (decide (0 < jobLoad w s)) 0 w.val t (now s) (faultSherd 0 w.val t (now s) s)

/-- A Wheel's watchdog expires (R171): its contexts go on elsewhere from their last complete checkpoints. With none on it the hang is over at
once. -/
def execWheelWatchdogExpiry (t : DT) (w : Fin 16) (s : State) : Host.Outcome State Fault Refusal :=
  let s := moment t s
  .next (if s.cx.wheels[w].failed || s.cx.wheels[w].testing then s
    else
      let l := onWheel w s
      let s := modWheel w (fun x => { x with testing := true, hungAt := now s, moved := l.map fun c => (c.val, s.cx.ctxs[c].reload.frame) }) s
      let s := l.foldl (fun s c => modCtx c (fun x => { x.reload with wheel := none }) s) s
      if l.isEmpty then hangSherds w s else l.foldl rescue s)

/-- The backlog of a hang is cleared (R171): CTX_MIGRATED with a Sherd for each context moved, and the FAULT Sherd. The frames processed
again are those since the checkpoint that was loaded. -/
def execHangBacklogCleared (t : DT) (w : Fin 16) (s : State) : Host.Outcome State Fault Refusal :=
  let s := moment t s
  let y := s.cx.wheels[w]
  .next (if y.moved.isEmpty then s
    else
      let s := modWheel w (fun x => { x with moved := [] }) s
      let s := y.moved.foldl (fun s k => match idx 64 k.1 with
        | some c => match s.cx.ctxs[c].wheel with
          | some new =>
            let res := migratedFields c w.val new.val 3 (s.cx.ctxs[c].frame - k.2) (primaryNo s.cx.ctxs[c]) (primaryNo s.cx.ctxs[c]) s
            evSherd 0x20 k.1 res (raiseAt .ctxMigrated (now s) res s)
          | none => s
        | none => s) s
      hangSherds w s)

/-- A context that found no Wheel tries again, and its paths resume. -/
def retryRescue (s : State) (c : Fin 64) : State :=
  if s.cx.ctxs[c].st == .closed || s.cx.ctxs[c].wheel.isSome then s
  else
    let s := rescue s c
    if s.cx.ctxs[c].wheel.isNone then s
    else (pathsOf c s).foldl (fun s p => if delivers s.cx.paths[p].source s && !s.time.bothLost then resumePath p s else s) s

/-- A hung Wheel ends its self-test (R171): back to the pool, or failed. -/
def execWheelSelfTestDone (t : DT) (w : Fin 16) (pass : Bool) (s : State) : Host.Outcome State Fault Refusal :=
  let s := moment t s
  .next (if !s.cx.wheels[w].testing then s
    else
      (List.finRange 64).foldl retryRescue (modWheel w (fun x => { x with testing := false, failed := !pass }) s))

/-- Whether the source of a context has failed (R117, R147). -/
def sourceFailed (x : Ctx) (s : State) : Bool :=
  match srcTuner x.source with
  | some n => s.rf.tuners[n].st == .failed || s.rf.tuners[n].unavailable
  | none => false

/-- Whether 1 s has passed since a context last sought a source, a branch or a Wheel in vain (R174). -/
def retryDue (x : Ctx) (t : DT) : Bool := match x.triedAt with | some d => decide (2 ^ 32 ≤ dtSince d t) | none => true

/-- The retry every second (R174): a failover branch where none exists; a context in HOLD with a failed source seeks another (R175). -/
def execFailoverBranchRetry (t : DT) (c : Fin 64) (s : State) : Host.Outcome State Fault Refusal :=
  let s := moment t s
  let due := retryDue s.cx.ctxs[c] (now s)
  let s := if due then retryRescue (modCtx c (fun x => { x with triedAt := some (now s) }) s) c else s
  let x := s.cx.ctxs[c]
  .next (if !due then s
    else if x.st == .hold && sourceFailed x s then reSource c s
    else if x.st == .opening || x.st == .retuning then s
    else seekFailover c s)

/-! ### Analogue measurements (R168, R177 to R180) -/

/-- Whether a condition that holds since an instant has held for some ms. -/
def heldFor (ms : Nat) (since : Option DT) (t : DT) : Bool := match since with | some d => decide (msDt ms ≤ dtSince d t) | none => false

/-- MULTIPATH has been above 20 % or below 10 % for 1 s (R178): AUTO engages the equaliser where it can be placed, or disengages
it. -/
def execEqAutoTimeout (t : DT) (c : Fin 64) (engage : Bool) (s : State) : Host.Outcome State Fault Refusal :=
  let s := moment t s
  let x := s.cx.ctxs[c]
  .next (if x.st == .closed || x.std != .fm || fget x.cfg 0x080D != 1 then s
    else if engage then
      if x.eqEngaged || !heldFor 1000 x.eqFrom (now s) then s
      else match regrow c s (modCtx c (fun x => { x with eqEngaged := true, eqDenied := false }) s) with
        | some t => modCtx c (fun x => { x with eqFrom := none }) t
        | none => modCtx c (fun x => { x with eqDenied := true }) s
    else if !x.eqEngaged || !heldFor 1000 x.eqFrom (now s) then s
    else modCtx c (fun x => { x with eqEngaged := false, eqDenied := false, eqFrom := none }) s)

/-- The pilot's deviation has been at least 4 kHz, or below 2.5 kHz, for 50 ms (R178). -/
def execPilotDetectTimeout (t : DT) (c : Fin 64) (present : Bool) (s : State) : Host.Outcome State Fault Refusal :=
  let s := moment t s
  .next (modCtx c (fun x =>
    if x.std != .fm || x.st == .closed || x.pilot == present || !heldFor 50 x.pilotFrom (now s) then x
    else { x with pilot := present, pilotFrom := none }) s)

/-- The MPX power is updated once a second (R180): the mean of Δf² over the last 60 s in 0.01 dBr, 0 dBr being 180.5 kHz². Where there was no
deviation at all it is a free value. -/
def execMpxPowerUpdate (t : DT) (c : Fin 64) (meanSq : Nat) (s : State) : Host.Outcome State Fault Refusal :=
  let s := moment t s
  let x := s.cx.ctxs[c]
  .next (match x.mpxFrom with
    | some d =>
      if x.std != .fm || x.st == .closed || x.st == .hold || decide (dtSince d (now s) < (x.mpxCount + 1) * 2 ^ 32) then s
      else
        let l := (meanSq :: x.mpxSeconds).take 60
        let sum : Nat := l.foldl (· + ·) 0
        let power := if sum = 0 then freeNow s else hundredthsDb sum (l.length * 180500000)
        modCtx c (fun x => { x with
          mpxSeconds := l, mpxCount := x.mpxCount + 1, mpxPower := power,
          mpxValid := decide (60 ≤ x.mpxCount + 1),
          mpxOver := decide (fget x.cfg 0x0810 < power) }) (if sum = 0 then useFree s else s)
    | none => s)

/-- m+ and m− of an envelope at 32 kS/s in `scale`ths (R177): peaks shorter than 1 ms are excluded, so V_max is the greatest level that 32
samples in a row reach, and V_min the least that they do not exceed. None where there is no such run or no carrier. -/
def modDepth (scale : Nat) (l : List Nat) : Option (Int × Int) :=
  let sum : Nat := l.foldl (· + ·) 0
  if sum = 0 || decide (l.length < 32) then none
  else
    let hi := greatestOf ((runsOf 32 l).map leastOf)
    let lo := leastOf ((runsOf 32 l).map greatestOf)
    some (ratio (scale * (l.length * hi - sum)) sum, ratio (scale * (sum - l.length * lo)) sum)

/-- The figures of a window that ends (R177, R179, R210, R223). -/
def windowResult (x : Ctx) (f : WindowFigures) (m : Int × Int) : WinResult :=
  { mPos := m.1, mNeg := m.2, devPeak := greatestOf f.peaks,
    devExceed := f.peaks.countP fun (k : Nat) => decide (10 * fget x.cfg 0x080F < (k : Int)),
    berPre := f.berPre, ficErr := x.dab.ficWin, facErr := x.drm.facWin, sdcErr := x.drm.sdcErr,
    blerWin := if x.rds.winBlocks = 0 then 0 else ratio (1000 * x.rds.winBad : Nat) x.rds.winBlocks }

/-- A measurement window ends (R177, R179, R184, R210, R223). The depths of an envelope that gives none are free values. -/
def execMeasWindowEnd (t : DT) (c : Fin 64) (f : WindowFigures) (s : State) : Host.Outcome State Fault Refusal :=
  let s := moment t s
  let x := s.cx.ctxs[c]
  .next (
    if x.st == .closed || x.st == .hold || decide (dtSince x.winFrom (now s) < msDt ((fget x.cfg 0x080E).toNat * 100)) then s
    else match modDepth 1000 f.envelope with
      | some m => modCtx c (fun x => Ctx.newWindow (now s) { x with win := windowResult x f m }) s
      | none =>
        if x.std = .am then
          modCtx c (fun x => Ctx.newWindow (now s) { x with win := windowResult x f (freeNow s, freeNow (useFree s)) }) (useFree (useFree s))
        else modCtx c (fun x => Ctx.newWindow (now s) { x with win := windowResult x f (0, 0) }) s)

/-! ### CTX_GET_QUALITY (R181, R210, R223, R334) -/

/-- A figure of a list (R334). -/
def figure (id scope : Nat) (v : List Byte) : List Byte :=
  pack 0 8 [(0, 2, id), (2, 1, scope), (4, 2, v.length)] ++ fit (round8 v.length) v

/-- A figure of signed 32-bit values. -/
def scalars (id scope : Nat) (l : List Int) : List Byte := figure id scope (l.flatMap (leBytes 4))

/-- LEVEL, with a branch followed by the current weight of each path (R181). -/
def levelFigures (x : Ctx) (live : Bool) : List Byte :=
  if x.branch.isSome then
    scalars 0x0102 1 [x.fig.level, (weightShares x live).1] ++ scalars 0x0102 2 [x.fig.branchLevel, (weightShares x live).2]
  else scalars 0x0102 0 [x.fig.level]

/-- The branch a figure belongs to: with a branch one for each path, without one for the context (R181, R334). -/
def perBranch (x : Ctx) (id : Nat) (primary branch : Int) : List Byte :=
  if x.branch.isSome then scalars id 1 [primary] ++ scalars id 2 [branch] else scalars id 0 [primary]

/-- The EQ figure: 0 OFF, 1 ENGAGED, 2 EQ_DENIED. -/
def eqFigure (x : Ctx) : Int :=
  if eqActs x then 1 else if x.eqDenied then 2 else 0

/-- The figures of table 0x01 that every standard has. -/
def commonFigures (x : Ctx) (live : Bool) : List Byte :=
  let w : Int := match x.wheel with | some w => w.val | none => -1
  let pathInt (p : Option (Fin 64)) : Int := match p with | some p => p.val | none => -1
  scalars 0x0100 0 [ctxStateCode x.st] ++ scalars 0x0101 0 [w, pathInt x.primary, pathInt x.branch]
    ++ levelFigures x live ++ perBranch x 0x0103 x.fig.cnr x.fig.branchCnr
    ++ scalars 0x0104 0 [x.fig.freqOffset] ++ perBranch x 0x0105 x.clipCount x.branchClip

/-- The figures of AM and FM. DEDUCED (log entry 77): with AM_MODE ENV no carrier PLL runs, and CARRIER_LOCK reads 0. -/
def analogFigures (x : Ctx) : List Byte :=
  match x.std with
  | .am => scalars 0x0106 0 [bit (x.fig.carrierLock && fget x.cfg 0x0807 != 0)] ++ scalars 0x0107 0 [x.win.mPos, x.win.mNeg]
  | .fm =>
    scalars 0x0108 0 [x.fig.multipath] ++ scalars 0x0109 0 [eqFigure x]
      ++ scalars 0x010A 0 [if x.pilot then x.fig.pilotDev else 0] ++ scalars 0x010B 0 [ratio x.blend 10]
      ++ scalars 0x010C 0 [x.win.devPeak, x.win.devExceed] ++ scalars 0x010D 0 [x.mpxPower, bit x.mpxValid, bit x.mpxOver]
  | _ => []

/-- SYNC: 0 NONE, 1 FRAME, 2 FULL. -/
def syncFigure (x : Ctx) : Int :=
  match x.std with
  | .dab => if x.dab.full then 2 else if x.dab.sync then 1 else 0
  | _ => if x.drm.full then 2 else if x.drm.sync then 1 else 0

/-- MER, for the combination and with a branch for each path. -/
def merFigures (x : Ctx) : List Byte :=
  scalars 0x0201 0 [x.fig.mer] ++ if x.branch.isSome then scalars 0x0201 1 [x.fig.merPrimary] ++ scalars 0x0201 2 [x.fig.merBranch] else []

/-- An entry of TII (R334). -/
def tiiEntry (e : Nat × Nat × Int × Int) : List Byte := leBytes 1 e.1 ++ leBytes 1 e.2.1 ++ leBytes 2 e.2.2.1 ++ leBytes 4 e.2.2.2

/-- An entry of SUBCH: what R334 lists, then the two counts of R225 (log entry 42). -/
def subchEntry (x : Ctx) (y : SubchStat) : List Byte :=
  let prot := ((x.dab.comps.find? (·.subch == y.subch)).map (·.protection)).getD 0
  pack 0 32 [(0, 1, y.subch), (2, 2, y.cus), (4, 2, prot), (8, 4, y.rsCorrected), (12, 4, y.rsFailed), (16, 4, y.syncLosses),
    (20, 4, y.erasedFrames), (24, 4, y.oversize), (28, 4, y.incomplete)]

/-- The figures of DAB, DRM and DRM+. -/
def digitalFigures (x : Ctx) : List Byte :=
  match x.std with
  | .dab =>
    scalars 0x0200 0 [syncFigure x] ++ merFigures x ++ scalars 0x0203 0 [x.win.berPre]
      ++ scalars 0x0204 0 [((x.dab.eid.getD 0 : Nat) : Int), x.dab.cif] ++ scalars 0x0205 0 [x.dab.ficErr, x.win.ficErr]
      ++ figure 0x0206 0 (if fget x.cfg 0x0908 = 1 then x.dab.tii.flatMap tiiEntry else []) ++ scalars 0x0207 0 [bit x.dab.ensembleChanged, x.dab.reconfCount]
      ++ figure 0x020B 0 ((x.dab.subs.filter (·.selectedFrom.isSome)).flatMap (subchEntry x))
  | .drm | .drmPlus =>
    scalars 0x0200 0 [syncFigure x] ++ merFigures x ++ scalars 0x0202 0 [x.drm.merFac] ++ scalars 0x0203 0 [x.win.berPre]
      ++ scalars 0x0208 0 [(((x.drm.mode.map (·.val)).getD 0 : Nat) : Int), x.drm.occupancy]
      ++ scalars 0x0209 0 [x.drm.qam, bit x.drm.longInt] ++ scalars 0x020A 0 [x.win.facErr, x.win.sdcErr]
      ++ figure 0x020C 0 (x.drm.streams.flatMap fun e => leBytes 4 e.2.1 ++ leBytes 4 e.2.2)
  | _ => []

/-- BLER in 0.1 % over the last 400 expected blocks (R223); the spec names no rounding. -/
def bler (r : RdsSt) : Int := if r.blocks.isEmpty then 0 else ratio (r.blocks.countP id * 1000) r.blocks.length

/-- The RDS figures of an FM context (R223). -/
def rdsFigures (x : Ctx) : List Byte :=
  if x.std != .fm then []
  else
    scalars 0x0300 0 [bit x.rds.sync] ++ scalars 0x0301 0 [(((x.rds.pi.map (·.toNat)).getD 0 : Nat) : Int)] ++ scalars 0x0302 0 [bler x.rds]
      ++ scalars 0x0303 0 [x.win.blerWin] ++ scalars 0x0304 0 [x.rds.eye] ++ scalars 0x0305 0 [x.rds.dev]

/-- The figures of a context. -/
def qualityFigures (x : Ctx) (live : Bool) : List Byte :=
  commonFigures x live ++ analogFigures x ++ scalars 0x010E 0 [roleCode x.branchRole] ++ digitalFigures x ++ rdsFigures x

def specCtxGetQuality : Spec := { outCmd 0x0403 0 tContext [] with remote := remoteCtx }

def doCtxGetQuality (h : Held) (s : State) : State :=
  match openCtx h s with
  | some c => finishOut h .ok (qualityFigures s.cx.ctxs[c] (branchLive s.cx.ctxs[c] s)) none s
  | none => reject h .errState s

def execCtxGetQuality (e : Entry) (s : State) : Host.Outcome State Fault Refusal :=
  .next (hostCmd (.ctxGetQuality e) specCtxGetQuality doCtxGetQuality e s)

end Sys2Proof.Machine
end

