-- ==== Sys2Proof/Machine/Side.lean ====
section
/-!
DEFINITION. Side.lean: subscriptions to side data, the flush of buffers, announcements and alarms, the assembly of labels, texts and objects
from their segments, and RDS (R214 to R226, R236 to R239, R339).
-/
namespace Sys2Proof.Machine

/-! ### DATA_SUBSCRIBE, DATA_UNSUBSCRIBE (R214 to R216, R339) -/

/-- Where the selector of a KIND lies in the parameters, and the extent it needs (R339). -/
def selectorUse (kind : Nat) : List (Nat × Nat) × Nat :=
  match kind with
  | 0 | 1 | 3 | 9 => ([(8, 4)], 12)
  | 2 => ([(8, 1), (12, 4), (16, 2)], 18)
  | 4 | 5 => ([(8, 5)], 13)
  | 6 | 10 | 11 => ([(8, 1)], 9)
  | 7 => ([(8, 1), (10, 2)], 12)
  | _ => ([], 1)

/-- Whether a KIND belongs to a standard (R214). -/
def kindOk (kind : Nat) (std : Standard) : Bool :=
  if kind ≤ 1 then std == .fm else if kind ≤ 7 then std == .dab else if kind ≤ 11 then isDrm std else kind == 12

def specDataSubscribe : Spec :=
  { plain 0x0500 0 tContext [] with
    remote := remoteCtx
    extent := fun a => (selectorUse (le a 0 1)).2
    used := fun a => (0, 1) :: (selectorUse (le a 0 1)).1
    range := fun _ _ a => require (decide (le a 0 1 ≤ 12)) 0 }

/-- The first subscription identifier not in use, from the one after the last given. -/
def freeSub (s : State) : BitVec 16 :=
  let n := s.cx.nextSub.toNat
  BitVec.ofNat 16 (((List.range 513).map fun i => (n + i) % 65536).find? (fun k => !s.cx.subs.any fun u => u.id.toNat == k) |>.getD n)

def doDataSubscribe (h : Held) (s : State) : State :=
  let a := Entry.args h.entry
  let kind := le a 0 1
  match openCtx h s with
  | some c =>
    if !kindOk kind s.cx.ctxs[c].std then fail h .errParam (Entry.offset h.entry 0) .outOfRange s
    else if 512 ≤ s.cx.subs.length || 32 ≤ (subsOf c.val s).length then reject h .noResource s
    else
      let id := freeSub s
      let u : Sub := { id := id, ctx := c.val, kind := kind, selector := (a.drop 8).take 10, seq := 0, last := [], parts := [], motSince := [] }
      match regrow c s (modCtx c (fun x => x.askAgain (subSubch x u).toList)
          (modCx (fun x => { x with subs := x.subs ++ [u], nextSub := id + 1 }) s)) with
      | some t => finish h .ok [(16, 2, id.toNat)] t
      | none => reject h .noResource s
  | none => reject h .errState s

def execDataSubscribe (e : Entry) (s : State) : Host.Outcome State Fault Refusal :=
  .next (hostCmd (.dataSubscribe e) specDataSubscribe doDataSubscribe e s)

def specDataUnsubscribe : Spec := { plain 0x0501 2 tContext [(0, 2)] with remote := remoteCtx }

def doDataUnsubscribe (h : Held) (s : State) : State :=
  match openCtx h s with
  | some c =>
    if (subsOf c.val s).any (fun u => u.id.toNat == le (Entry.args h.entry) 0 2) then park h [] s
    else fail h .errParam (Entry.offset h.entry 0) .outOfRange s
  | none => reject h .errState s

def execDataUnsubscribe (e : Entry) (s : State) : Host.Outcome State Fault Refusal :=
  .next (hostCmd (.dataUnsubscribe e) specDataUnsubscribe doDataUnsubscribe e s)

/-- The subscriptions of a context with a kind. -/
def subsKind (c : Fin 64) (kind : Nat) (s : State) : List Sub := (subsOf c.val s).filter (·.kind == kind)

/-! ### Buffers (R217, R240, R318) -/

/-- A buffer of class 1 to 3 is returned FLUSH_MS after its first write. -/
def execBufferFlushTimeout (t : DT) (cls : Fin 4) (s : State) : Host.Outcome State Fault Refusal :=
  let s := moment t s
  .next (match s.host.rings[cls].buffers with
    | b :: _ => match b.firstWrite with
      | some d => if cls.val < 3 && decide (msDt s.cx.flushMs ≤ dtSince d (now s)) then returnBuffer cls .ok s else s
      | none => s
    | [] => s)

/-! ### Announcements and alarms (R236 to R238) -/

/-- Whether a received flag counts as ON: announcement kinds by ANN_MASK, PTY_ALARM by PTY 31, or 30 with TEST. -/
def flagOn (cfg : FieldSet) (f : AlertFlag) : Bool :=
  match f.kind.val with
  | 1 => f.types == 31 || (f.types == 30 && fget cfg 0x0A0D == 1)
  | 3 | 5 => f.on && f.types &&& (fget cfg 0x0A0C).toNat != 0
  | _ => f.on

/-- One received flag (R236, R238): ON once for a kind and cluster; OFF after two confirmations (R237). DESIGN CHOICE (log entry 106): while a
TA of one PI(ON) is ON, the flags of the others are passed over. -/
def takeFlag (c : Fin 64) (stamp : DT) (s : State) (f : AlertFlag) : State :=
  let x := s.cx.ctxs[c]
  let key (a : AlertSt) : Bool := a.kind == f.kind.val && a.cluster == f.cluster
  let setA (l : List AlertSt) (s : State) : State := modCtx c (fun x => { x with alerts := l }) s
  let other := f.kind.val = 2 && x.alerts.any fun a => key a && a.obj != f.obj
  if !testBit (fget x.cfg 0x0A0B).toNat f.kind.val || other then s
  else match x.alerts.find? key, flagOn x.cfg f with
    | none, true =>
      raiseAlert c f true false stamp
        (setA (x.alerts ++ [{ kind := f.kind.val, cluster := f.cluster, types := f.types, obj := f.obj, offs := 0, restate := false }]) s)
    | some a, true =>
      let s := setA (x.alerts.map fun b => if key b then { b with offs := 0, restate := false } else b) s
      if a.restate then raiseAlert c f true true stamp s else s
    | some a, false =>
      if a.offs = 0 then setA (x.alerts.map fun b => if key b then { b with offs := 1 } else b) s
      else
        raiseAlert c { f with types := if f.kind.val = 1 then f.types else a.types, obj := a.obj } false false stamp
          (setA (x.alerts.filter fun b => !key b) s)
    | none, false => s

/-- The flags of one datum, the alarms first (R239). -/
def takeFlags (c : Fin 64) (stamp : DT) (l : List AlertFlag) (s : State) : State :=
  ((l.filter fun f => f.kind.val == 4) ++ l.filter fun f => f.kind.val != 4).foldl (takeFlag c stamp) s

/-! ### Assembly from segments (R222, R225, R226) -/

/-- Segments in the order of their index. -/
def insertSeg (g : Segment) : List Segment → List Segment
  | [] => [g]
  | h :: rest => if g.index < h.index then g :: h :: rest else h :: insertSeg g rest

/-- The bytes of segments in order. -/
def joinSegs (l : List Segment) : List Byte := (l.foldl (fun acc g => insertSeg g acc) []).flatMap (·.bytes)

/-- Whether segments hold every place of their total. -/
def segsWhole (l : List Segment) : Bool :=
  match l with
  | g :: _ => (List.range g.total).all fun i => l.any fun h => h.index == i
  | [] => false

/-- The largest MOT object that is reassembled (R225), and the largest record (R217). -/
def motLimit : Nat := 1048576

/-- The stamp and AUX of the frame that brought the first byte of what segments hold (R219). -/
def firstFrame (l : List (Segment × DT × Nat)) (stamp : DT) (aux : Nat) : DT × Nat :=
  match l.find? (·.1.index == 0) with
  | some p => p.2
  | none => (stamp, aux)

/-- One segment of a label or text under its toggle (item 0 text, 1 attached tags, 2 clear): a label of at most `limit` bytes is
delivered when its text becomes whole, and once more with tags that come after it (R225, R226). AUX and the stamp are those of the frame
of its first byte (R219). DESIGN CHOICE (log entry 82). -/
def takeText (limit : Nat) (id : BitVec 16) (flags : Nat) (s : State) (p : Segment × DT × Nat) : State :=
  let g := p.1
  let stamp := p.2.1
  let aux := p.2.2
  match findSub id s with
  | some u =>
    if g.item = 2 then dataRec id flags stamp aux [] (modSub id (fun u => { u with parts := [] }) s)
    else
      let old := u.parts.filter fun p => p.1.toggle == g.toggle
      if old.any (fun p => p.1.item == g.item && p.1.index == g.index) then s
      else
        let new := old ++ [p]
        let text := new.filter (·.1.item == 0)
        let s := modSub id (fun u => { u with parts := new }) s
        if segsWhole (text.map (·.1)) then
          let body := (joinSegs (text.map (·.1))).take limit
          let first := firstFrame text stamp aux
          dataRec id flags first.1 first.2 (leBytes 2 body.length ++ body ++ joinSegs ((new.filter (·.1.item == 1)).map (·.1))) s
        else s
  | none => s

/-- The limit of a DAB label (R225), and of a DRM text, which has none (R226). -/
def labelLimit : Nat := 128
def textLimit : Nat := motLimit

/-- Counts of a subchannel (R210, R225). -/
def modStat (c : Fin 64) (subch : Nat) (f : SubchStat → SubchStat) : State → State :=
  modCtx c fun x => { x with dab := { x.dab with subs := x.dab.subs.map fun y => if y.subch = subch then f y else y } }

/-- One segment of a MOT object (R225): too large an object is counted once. -/
def takeMot (c : Fin 64) (subch : Nat) (id : BitVec 16) (flags : Nat) (s : State) (p : Segment × DT × Nat) : State :=
  let g := p.1
  match findSub id s with
  | some u =>
    if motLimit < g.size then
      modStat c subch (fun y =>
        if y.overs.contains (g.obj, g.size) then y else { y with oversize := y.oversize + 1, overs := y.overs ++ [(g.obj, g.size)] }) s
    else
      let mine := u.parts.filter (·.1.obj == g.obj)
      let mine := if mine.any (fun q => q.1.index == g.index) then mine else mine ++ [p]
      let others := u.parts.filter (·.1.obj != g.obj)
      let since := u.motSince.filter (·.1 != g.obj)
      if segsWhole (mine.map (·.1)) then
        let first := firstFrame mine p.2.1 p.2.2
        deliverChanged id g.obj flags first.1 first.2 (joinSegs (mine.map (·.1))) (modSub id (fun u => { u with parts := others, motSince := since }) s)
      else modSub id (fun u => { u with parts := others ++ mine, motSince := since ++ [(g.obj, now s)] }) s
  | none => s

/-- A MOT object is incomplete 60 s after its last segment (R225): every subscription of the component discards it, and it is counted
once. -/
def execMotObjectTimeout (t : DT) (sub : BitVec 16) (s : State) : Host.Outcome State Fault Refusal :=
  let s := moment t s
  .next (match findSub sub s with
    | some u =>
      let late := (u.motSince.filter fun m => decide (60 * 2 ^ 32 ≤ dtSince m.2 (now s))).map (·.1)
      if late.isEmpty then s
      else
        let s := modCx (fun x => { x with subs := x.subs.map fun w =>
          if w.ctx = u.ctx ∧ w.kind = u.kind ∧ w.selector = u.selector then
            { w with
              parts := w.parts.filter fun p => !late.contains p.1.obj,
              motSince := w.motSince.filter fun m => !late.contains m.1 }
          else w }) s
        match idx 64 u.ctx with
        | some c => match subSubch s.cx.ctxs[c] u with
          | some k => modStat c k (fun y => { y with incomplete := y.incomplete + late.length }) s
          | none => s
        | none => s
    | none => s)

/-! ### RDS (R220 to R223, R231, R239) -/

/-- The four status codes of a group at a burst limit (R220): a block whose errors exceed RDS_CORR is not corrected. -/
def rdsStatus (corr : Int) (g : RdsGroup) : List Nat :=
  [g.stA.val, g.stB.val, g.stC.val, g.stD.val].mapIdx fun i st => if st = 1 && decide (corr < (g.bursts.getD i 0 : Nat)) then 2 else st

/-- A group as the decoder gives it at RDS_CORR: a block that is not corrected keeps its raw bits (R221). -/
def correctGroup (corr : Int) (g : RdsGroup) : RdsGroup :=
  let at_ (i : Nat) : Fin 4 := Fin.ofNat 4 ((rdsStatus corr g).getD i 2)
  let bits (i : Nat) (fixed : BitVec 16) : BitVec 16 := if (at_ i).val < 2 then fixed else g.raw.getD i fixed
  { g with
    stA := at_ 0, stB := at_ 1, stC := at_ 2, stD := at_ 3,
    blockA := bits 0 g.blockA, blockB := bits 1 g.blockB, blockC := bits 2 g.blockC, blockD := bits 3 g.blockD }

/-- Whether a block passed: OK or CORRECTED. -/
def blockOk (st : Nat) : Bool := decide (st < 2)

/-- Block statistics and synchronisation (R220, R223): sync is declared after two blocks in sequence, block D and the next block A among
them, and lost after 45 failed of the 50 since. -/
def RdsSt.takeBlocks (g : RdsGroup) (r : RdsSt) : RdsSt :=
  let st := [g.stA.val, g.stB.val, g.stC.val, g.stD.val].map blockOk
  let blocks := ((st.map (!·)).reverse ++ r.blocks).take 400
  let seq := (r.blocks.head?.map (!·)).toList ++ st
  let pair := ((seq.zip seq.tail).any fun p => p.1 && p.2)
  let synced := min 50 (r.synced + 4)
  let lost := decide (45 ≤ (blocks.take synced).countP id)
  let sync := if r.sync then !lost else pair
  { r with
    blocks := blocks, sync := sync, synced := if r.sync && sync then synced else 0,
    winBlocks := r.winBlocks + 4, winBad := r.winBad + st.countP (!·), eye := g.eye, dev := g.dev }

/-- The PI of a group: it counts once it has passed twice; a new one restarts every item (R222, R223). -/
def RdsSt.takePi (g : RdsGroup) (r : RdsSt) : RdsSt :=
  if !blockOk g.stA.val then r
  else if r.lastPi = some g.blockA then
    if r.pi = some g.blockA then r else { r with pi := some g.blockA, seen := [], items := [] }
  else { r with lastPi := some g.blockA }

/-- How often each segment of an item must be seen (R222): PS, RT and PTYN twice. -/
def itemNeeds (item : Nat) : Nat := if item = 0 ∨ item = 2 ∨ item = 5 then 2 else 1

/-- One segment of an item: a change of the A/B flag restarts the item, a changed segment counts afresh. -/
def seeSegment (stamp : DT) (g : Segment) (l : List (Segment × Nat × DT)) : List (Segment × Nat × DT) :=
  let l := l.filter fun x => !(x.1.item == g.item && x.1.obj == g.obj && (x.1.toggle != g.toggle || x.1.total != g.total))
  let same (x : Segment × Nat × DT) : Bool := x.1.item == g.item && x.1.obj == g.obj && x.1.index == g.index
  match l.find? same with
  | some x => l.map fun y => if same y then (if x.1.bytes = g.bytes then (y.1, y.2.1 + 1, y.2.2) else (g, 1, stamp)) else y
  | none => l ++ [(g, 1, stamp)]

/-- The earliest stamp of the segments of an item (R219). -/
def firstStamp (l : List (Segment × Nat × DT)) (t : DT) : DT := l.foldl (fun (a : DT) x => if x.2.2.toNat < a.toNat then x.2.2 else a) t

/-- The bit of RDS_ITEMS in a subscription's mask. -/
def maskBit (u : Sub) (k : Nat) : Bool := testBit (le u.selector 0 4) k

/-- The A/B flag of an item has changed with a segment (R222): RT+ then waits for a complete RT again. -/
def RdsSt.toggled (g : Segment) (r : RdsSt) : Bool :=
  r.seen.any fun x => x.1.item == g.item && x.1.obj == g.obj && x.1.toggle != g.toggle

/-- What else an item needs (R222): RT+ a complete RT, EON its AF entries beside the four segments of PS. -/
def itemReady (r : RdsSt) (g : Segment) : Bool :=
  match g.item with
  | 3 => r.items.any fun i => i.1 % 8 == 2
  | 6 => decide (5 ≤ g.total)
  | _ => true

/-- Whether the blocks of a group that bring an item have passed (R220, R222): all for CT. PRESUMED (log entry 106) for the others, from IEC
62106: PTY lies in block B, PS in B and D, RT of a group 2B in B and D, all else in B, C and D. -/
def itemPassed (g : RdsGroup) (item : Nat) : Bool :=
  let a := blockOk g.stA.val
  let b := blockOk g.stB.val
  let c := blockOk g.stC.val
  let d := blockOk g.stD.val
  match item with
  | 0 => b && d
  | 1 => b
  | 2 => b && d && (c || g.blockB.getLsbD 11)
  | 4 => a && b && c && d
  | _ => b && c && d

/-- The segments of a group that count (R220, R222): those whose blocks passed. -/
def groupItems (g : RdsGroup) : List Segment := g.items.filter fun k => itemPassed g k.item

/-- One segment of an RDS item: a whole item goes to the subscriptions that have not had this value (R214, R222). The payload is the item
code, its object, then its bytes (log entry 40); a PTY is followed by its name in the standard chosen (R220). -/
def takeItem (c : Fin 64) (stamp : DT) (s : State) (g : Segment) : State :=
  let x := s.cx.ctxs[c]
  let r := x.rds
  let seen := seeSegment stamp g r.seen
  let mine := seen.filter fun x => x.1.item == g.item && x.1.obj == g.obj
  let items := if g.item = 2 && r.toggled g then r.items.filter fun i => i.1 % 8 != 2 else r.items
  let s := modCtx c (fun x => { x with rds := { x.rds with seen := seen, items := items } }) s
  if segsWhole (mine.map (·.1)) && mine.all (fun x => decide (itemNeeds g.item ≤ x.2.1)) && itemReady r g then
    let v := joinSegs (mine.map (·.1))
    let v := if g.item = 1 then v ++ Config.ptyName (fget x.cfg 0x0A00 == 1) (v.headD 0).toNat else v
    let key := g.item + 8 * g.obj
    let s := modCtx c (fun x => { x with rds := { x.rds with items := x.rds.items.filter (·.1 != key) ++ [(key, v)] } }) s
    ((subsKind c 1 s).filter fun u => maskBit u g.item).foldl (fun s u =>
      deliverChanged u.id key 0 (firstStamp mine stamp) r.groups (leBytes 1 g.item ++ leBytes 1 0 ++ leBytes 2 g.obj ++ v) s) s
  else s

/-- The payload of RDS_GROUPS (R221): the blocks, first bit first, and a status byte each. -/
def groupPayload (g : RdsGroup) : List Byte :=
  beBytes 2 g.blockA.toNat ++ beBytes 2 g.blockB.toNat ++ beBytes 2 g.blockC.toNat ++ beBytes 2 g.blockD.toNat
    ++ [g.stA.val, g.stB.val, g.stC.val + 128 * bit g.cPrime, g.stD.val].map (BitVec.ofNat 8)

/-- The group type and version of block B: bit 2·type + version (R214). -/
def groupBit (g : RdsGroup) : Nat := g.blockB.toNat / 2048

/-- The flags of a group whose block B passed (R236): TA with TP in groups 0A, 0B and 15B, the PTY of every group, TA of a PI(ON) of the EON in
group 14B. PRESUMED (log entry 106), from IEC 62106: block B holds TP in bit 10, PTY in bits 9 to 5, TA in bit 4 and TA(ON) in bit 3,
block D of a group 14B the PI(ON). -/
def rdsFlags (g : RdsGroup) (pis : List Nat) : List AlertFlag :=
  let b := g.blockB.toNat
  let pi := g.blockD.toNat
  let ta : List AlertFlag :=
    if !([0, 1, 31].contains (groupBit g)) || (testBit b 4 && !testBit b 10) then []
    else [{ kind := 0, on := testBit b 4, cluster := 0, types := 0, obj := 0 }]
  let eon : List AlertFlag :=
    if groupBit g = 29 && blockOk g.stD.val && pis.contains pi then [{ kind := 2, on := testBit b 3, cluster := 0, types := 0, obj := pi }] else []
  if blockOk g.stB.val then ta ++ [{ kind := 1, on := true, cluster := 0, types := b / 32 % 32, obj := 0 }] ++ eon else []

/-- A delivered group: its record, items, alternatives and flags. -/
def takeGroup (c : Fin 64) (g : RdsGroup) (s : State) : State :=
  let s := modCtx c (fun x => { x with rds := { x.rds with groups := x.rds.groups + 1 } }) s
  let n := s.cx.ctxs[c].rds.groups
  let s := ((subsKind c 0 s).filter fun u => !blockOk g.stB.val || maskBit u (groupBit g)).foldl (fun s u =>
    dataRec u.id 0 g.stamp n (groupPayload g) s) s
  let s := (groupItems g).foldl (takeItem c g.stamp) s
  let afs := if blockOk g.stB.val && blockOk g.stC.val then g.afs else []
  let own (x : Ctx) : List Nat :=
    if itemPassed g 6 then (g.eonAfs.filter fun f => x.rds.pi.map (·.toNat) == some f.1).map (·.2) else []
  let pis := (s.cx.ctxs[c].rds.seen.filter fun y => y.1.item == 6).map (·.1.obj)
  takeFlags c g.stamp (rdsFlags g pis) (modCtx c (fun x => Ctx.seeAfs (own x) 1 (Ctx.seeAfs afs 0 x)) s)

/-- An RDS group is received, corrected as far as RDS_CORR allows (R220 to R222). With RBDS a group of offset word E is counted and
discarded; a group is delivered in sync when block A or B passes. A new PI leaves every alternative unverified (R239). -/
def execRdsGroupReceived (t : DT) (c : Fin 64) (g : RdsGroup) (s : State) : Host.Outcome State Fault Refusal :=
  let s := moment t s
  let x := s.cx.ctxs[c]
  let g := correctGroup (fget x.cfg 0x0A01) g
  .next (if x.std != .fm || !primaryRuns c s then s
    else
      let r := x.rds.takeBlocks g
      if fget x.cfg 0x0A00 = 1 && g.mmbs then modCtx c (fun x => { x with rds := { r with mmbs := r.mmbs + 1 } }) s
      else
        let new := if r.sync then r.takePi g else r
        let s := modCtx c (fun x => { x with
          rds := new, afs := if new.pi = r.pi then x.afs else x.afs.map fun a => { a with pi := none, piSeen := none } }) s
        if r.sync && (blockOk g.stA.val || blockOk g.stB.val) then takeGroup c g s else s)

end Sys2Proof.Machine
end

