-- ==== Sys2Proof/Machine/Digital.lean ====
section
/-!
DEFINITION. Digital.lean: DAB and DRM reception: synchronisation, organisation and reconfiguration, subchannels and streams with their
consumers, loss and re-acquisition (R186 to R213, R219, R224 to R228, R243, R244).
-/
namespace Sys2Proof.Machine

/-! ### Services that wait for their component (R243, R244) -/

/-- The deferred AUD_SERVICE_START that waits for a service. -/
def startOf (v : Fin 96) (s : State) : Option Held :=
  s.host.held.find? fun h => h.op == 0x0600 && h.deferred && h.aux == [(v.val : Int)]

/-- A service whose start has not completed is undone: nothing of it remains. -/
def undoService (v : Fin 96) (s : State) : State := modSvc v (fun _ => Svc.reset) (setDepth v 0 (now s) (loseRoutes v (endCompares v s)))

/-- Whether a component cannot be decoded to audio (R199, R243). -/
def unsuitable (k : Component) : Bool := k.scrambled || k.mp2 || !k.decodable || !k.audio

/-- A waiting service whose component has appeared resumes; a start that waited for it ends. A component that cannot be decoded ends the
start with INPUT_UNSUITABLE. -/
def resumeService (c : Fin 64) (s : State) (v : Fin 96) : State :=
  match s.audio.svcs[v].st, svcComp v s with
  | .waiting, some k =>
    match unsuitable k, startOf v s with
    | true, some h => undoService v (finish h .inputUnsuitable [] s)
    | true, none => s
    | false, h =>
      let st : SvcState := if s.cx.ctxs[c].st = .hold then .mutedHold else .running
      let s := modSvc v (fun y => { y with st := st, startFlag := true }) s
      match h with
      | some h => finish h .ok [(16, 2, v.val), (18, 1, if st = .running then 1 else 2)] s
      | none => s
  | _, _ => s

/-- The deferred starts of a context end with NO_RESOURCE when its new organisation cannot be placed (R189). -/
def dropStarts (c : Fin 64) (s : State) : State :=
  (svcsOf c.val s).foldl (fun s v => match startOf v s with
    | some h => if (svcComp v s).isSome then undoService v (reject h .noResource s) else s
    | none => s) s

/-- The subchannels that cost more than they did: none of them is decoded (R189). -/
def denyGrown (c : Fin 64) (old s : State) : State :=
  let was := old.cx.ctxs[c]
  let x := s.cx.ctxs[c]
  let before := wantedSubch c old
  let grown := (wantedSubch c s).filter fun k => !before.contains k || decide (cusOf was k < cusOf x k)
  modCtx c (fun x => { x with dab := { x.dab with denied := grown } }) s

/-- The capacity of a context after its organisation changed since `old` (R168, R189): where the placement fails, the deferred starts
end, and then the subchannels that grew are not selected. -/
def settleCost (c : Fin 64) (old s : State) : State :=
  let s := modCtx c (fun x => { x with dab := { x.dab with denied := [] } }) s
  match regrow c old s with
  | some t => t
  | none =>
    let s := dropStarts c s
    match regrow c old s with
    | some t => t
    | none =>
      let s := denyGrown c old s
      (regrow c old s).getD s

/-- A subscription ends because its component is gone (R216); the reason is its payload, in the code of R413 (log entry 40). -/
def endSubGone (s : State) (u : Sub) : State :=
  let s := dataRec u.id 4 (now s) 0 [3] s
  modCx (fun c => { c with subs := c.subs.filter fun w => w.id != u.id }) s

/-! ### Organisation (R194, R198, R205, R207) -/

/-- The components of a context. -/
def compsOf (x : Ctx) : List Component := if x.std = .dab then x.dab.comps else x.drm.comps

/-- Sets the components of a context. -/
def Ctx.setComps (l : List Component) (x : Ctx) : Ctx :=
  if x.std = .dab then
    { x with dab := { x.dab with comps := l, subs := x.dab.subs.map fun y => match l.find? (·.subch == y.subch) with
        | some k => { y with cus := k.cus }
        | none => y } }
  else { x with drm := { x.drm with comps := l, streams := x.drm.streams.filter fun e => l.any (·.subch == e.1) } }

/-- A new organisation applies: consumers of components that are gone or can no longer be decoded end or wait (R199), waiting services whose
component appears resume. -/
def applyOrg (c : Fin 64) (l : List Component) (s : State) : State :=
  if compsOf s.cx.ctxs[c] = l then s
  else
    let old := s
    let was := s.cx.ctxs[c]
    let s := modCtx c (Ctx.setComps l) s
    let gone := ((subsOf c.val s).filter fun u => u.kind == 4 || u.kind == 5).filter fun u =>
      (padComp was u).isSome && (padComp s.cx.ctxs[c] u).isNone
    let s := gone.foldl endSubGone s
    let s := ((svcsOf c.val s).filter fun v => was.std != .am && was.std != .fm && s.audio.svcs[v].st != .waiting
        && (match svcComp v s with | some k => unsuitable k | none => true)).foldl waitService s
    let s := settleCost c old s
    (svcsOf c.val s).foldl (resumeService c) s

/-- An ENSEMBLE Sherd (R413): cause 0 EId changed, 1 unsignalled reconfiguration. -/
def ensembleSherd (c : Fin 64) (old new cif cause : Nat) (s : State) : State :=
  opSherd 0x21 c.val (now s) (now s) (pack 0 48 [(0, 2, old), (2, 2, new), (4, 2, cif), (6, 1, cause)]) s

/-! ### DAB (R192 to R201) -/

def modDab (c : Fin 64) (f : DabSt → DabSt) : State → State := modCtx c fun x => { x with dab := f x.dab }

/-- A null symbol is found at an output sample (R192): frame sync at the second, 196 608 ± 64 samples after the first. -/
def execDabNullDetected (t : DT) (c : Fin 64) (sample : Nat) (s : State) : Host.Outcome State Fault Refusal :=
  let s := moment t s
  .next (if s.cx.ctxs[c].std != .dab || !primaryRuns c s then s
    else modDab c (fun d => match d.firstNull with
      | some a =>
        let on := decide (a + 196544 ≤ sample) && decide (sample ≤ a + 196672)
        { d with firstNull := some sample, sync := d.sync || on, missed := if on then 0 else d.missed }
      | none => { d with firstNull := some sample }) s)

/-- One label: delivered when received identically in a second FIB (R224), in a payload layout of the model's own (log entry 40). -/
def takeLabel (c : Fin 64) (cif : Nat) (s : State) (l : Fin 4 × Nat × DT × List Byte) : State :=
  let key := 4 * l.2.1 + l.1.val
  let stamp := l.2.2.1
  let text := l.2.2.2
  let d := s.cx.ctxs[c].dab
  let n := match d.labels.find? (·.1 == key) with
    | some y => if y.2.1 = text then y.2.2 + 1 else 1
    | none => 1
  let s := modDab c (fun d => { d with labels := d.labels.filter (·.1 != key) ++ [(key, text, n)] }) s
  if n < 2 then s
  else
    ((subsKind c 3 s).filter fun u => maskBit u l.1.val).foldl (fun s u =>
      deliverChanged u.id key 0 stamp cif (leBytes 1 l.1.val ++ zeros 3 ++ leBytes 4 l.2.1 ++ text) s) s

/-- Whether a FIC_FIGS subscription takes a FIG (R339). -/
def takesFig (u : Sub) (type ext : Nat) : Bool :=
  testBit (le u.selector 0 1) type &&
    (match type with
      | 0 => testBit (le u.selector 4 4) ext
      | 1 => testBit (le u.selector 8 1) ext
      | 2 => testBit (le u.selector 9 1) ext
      | _ => true)

/-- What the FIC says of the organisation (R194, R198): the first is taken; one that disagrees without signalling is counted and written
as a Sherd. -/
def takeComponents (c : Fin 64) (f : FicData) (s : State) : State :=
  match f.components with
  | some l =>
    let d := s.cx.ctxs[c].dab
    if d.comps = l then s
    else if d.comps.isEmpty then applyOrg c l s
    else
      let e := d.eid.getD f.eid
      applyOrg c l (ensembleSherd c e e f.cifCount 1 (modDab c (fun d => { d with reconfCount := d.reconfCount + 1, next := none }) s))
  | none => s

/-- The flags of an entry of FIG 0/19 (R236): the announcement of a cluster that FIG 0/18 supports, and the alarm, bit 0. -/
def ficFlags (clusters : List Nat) (a : Nat × Nat × Nat) : List AlertFlag :=
  [{ kind := 4, on := testBit a.2.1 0, cluster := a.1, types := a.2.1, obj := a.2.2 },
    { kind := 3, on := clusters.contains a.1, cluster := a.1, types := a.2.1, obj := a.2.2 }]

/-- The FIC symbols of a frame are decoded (R194, R224, R228, R236). While a re-acquisition is still to be judged (R201) the FIC brings
only its FIGs. -/
def execFicDecoded (t : DT) (c : Fin 64) (f : FicData) (s : State) : Host.Outcome State Fault Refusal :=
  let s := moment t s
  let x := s.cx.ctxs[c]
  .next (if x.std != .dab || !primaryRuns c s || !x.dab.sync || f.fibsPassed = 0 then s
    else
      let s := (subsKind c 2 s).foldl (fun s u =>
        (f.figs.filter fun g => takesFig u g.1 g.2.1).foldl (fun s g => dataRec u.id 0 g.2.2.1 f.cifCount g.2.2.2 s) s) s
      let s := f.labels.foldl (takeLabel c f.cifCount) s
      let s := if x.dab.lostAt.isSome then s
        else takeComponents c f (modDab c (fun d => { d with
          eid := some f.eid, cif := f.cifCount, next := match f.next with | some n => some n | none => d.next }) s)
      let s := modCtx c (fun x => Ctx.seeAfs f.afs 3 { x with dab := { x.dab with clusters := (x.dab.clusters ++ f.clusters).eraseDups } }) s
      f.announce.foldl (fun s a => takeFlags c a.1 (ficFlags s.cx.ctxs[c].dab.clusters a.2) s) s)

/-- SELECT's choice at the end of a transmission frame, by MER (R209). -/
def Ctx.chooseMer (live : Bool) (x : Ctx) : Ctx :=
  { x with selected := live && divMode x == 2 && choose3dB x.selected x.fig.merPrimary x.fig.merBranch }

/-- A transmission frame ends (R193): the criteria are judged, three missed nulls lose sync at once. -/
def execDabFrameEnd (t : DT) (c : Fin 64) (syncHeld nullFound : Bool) (fibsPassed : Nat) (s : State) : Host.Outcome State Fault Refusal :=
  let s := moment t s
  let x := s.cx.ctxs[c]
  .next (if x.std != .dab || !x.dab.sync || !primaryRuns c s then s
    else
      let missed := if nullFound then 0 else x.dab.missed + 1
      let full := syncHeld && decide (9 ≤ fibsPassed)
      let s := modCtx c (Ctx.chooseMer (branchLive x s)) (modDab c (fun d => { d with ficWin := d.ficWin + (12 - fibsPassed) }) s)
      if missed < 3 then
        modCtx c (fun x => { x with
          dab := { x.dab with missed := missed, full := full, ficErr := 12 - fibsPassed },
          st := if full && x.st == .acquiring then .running else x.st }) s
      else
        modCtx c (fun x => { x with
          dab := { x.dab with missed := 0, full := false, sync := false, firstNull := none, lostAt := some (now s), ficErr := 12 - fibsPassed },
          st := if x.st = .running then .acquiring else x.st }) s)

/-- The subchannels selected from a CIF boundary (R196): those that what asked at a context frame boundary asks for, under the organisation that
applies at this CIF (R211). -/
def selectSubs (c : Fin 64) (cif : Nat) (s : State) : State :=
  let x := s.cx.ctxs[c]
  let asked := (((askers c s).filter fun a => x.dab.applied.contains a.1).flatMap (·.2)).eraseDups
  let want := asked.filter fun k => !x.dab.denied.contains k && x.dab.comps.any (·.subch == k)
  modDab c (fun d => { d with
    subs := want.map fun k => match d.subs.find? (·.subch == k) with
      | some y => y
      | none =>
        { subch := k, cus := cusOf x k, selectedFrom := some cif, rsCorrected := 0, rsFailed := 0, syncLosses := 0, erasedFrames := 0,
          oversize := 0, overs := [], incomplete := 0 } }) s

/-- A CIF begins (R195, R196, R198, R201): a signalled organisation whose count it is applies, then the selections; a CIF not received is
written as erased. -/
def execCifBoundary (t : DT) (c : Fin 64) (cif : Nat) (received : Bool) (s : State) : Host.Outcome State Fault Refusal :=
  let s := moment t s
  let x := s.cx.ctxs[c]
  .next (if x.std != .dab || x.dab.eid.isNone then s
    else
      let s := match x.dab.next with
        | some (n, l) => if n = cif then applyOrg c l (modDab c (fun d => { d with next := none }) s) else s
        | none => s
      let s := modDab c (fun d => { d with
        cif := if d.lostAt.isSome then d.cif else cif,
        cifsWritten := min 16 (d.cifsWritten + 1),
        erasedCifs := if received then d.erasedCifs - 1 else 16 }) s
      selectSubs c cif s)

/-- ERASED_CU (R217) while erased CIFs lie in the span of 16. -/
def erasedFlag (n : Nat) : Nat := if n = 0 then 0 else 16

/-- The subscriptions that take part of a logical frame of a subchannel. -/
def frameSubs (c : Fin 64) (kind subch : Nat) (s : State) : List Sub :=
  (subsKind c kind s).filter fun u => subSubch s.cx.ctxs[c] u == some subch
    && (kind == 6 || kind == 7 || (match padComp s.cx.ctxs[c] u with | some k => !k.scrambled | none => false))

/-- Whether a packet address of a subchannel belongs to a scrambled component (R199). -/
def packetScrambled (x : Ctx) (subch addr : Nat) : Bool := x.dab.comps.any fun k => k.subch == subch && k.address == addr && k.scrambled

/-- A logical frame of a decoded subchannel is complete (R195 to R197, R199, R201, R215, R225). -/
def execLogicalFrameComplete (t : DT) (c : Fin 64) (subch : Nat) (stamp : DT) (f : LogicalFrame) (s : State) : Host.Outcome State Fault Refusal :=
  let s := moment t s
  let d := s.cx.ctxs[c].dab
  .next (if s.cx.ctxs[c].std != .dab || d.cifsWritten < 16 || !d.subs.any (·.subch == subch) then s
    else
      let fl := erasedFlag d.erasedCifs
      let s := modStat c subch (fun y => { y with
        rsCorrected := y.rsCorrected + f.rsCorrected,
        rsFailed := y.rsFailed + f.rsFailed,
        syncLosses := y.syncLosses + bit f.syncLost,
        erasedFrames := y.erasedFrames + (if fl = 0 then 0 else 1) }) s
      let s := (frameSubs c 6 subch s).foldl (fun s u => dataRec u.id fl stamp f.cif f.payload s) s
      let s := (frameSubs c 7 subch s).foldl (fun s u =>
        (f.groups.filter fun g => g.address == le u.selector 2 2 && (g.crcOk || fl == 0)
            && !packetScrambled s.cx.ctxs[c] subch g.address).foldl (fun s g => dataRec u.id fl g.stamp g.cif g.bytes s) s) s
      let s := (frameSubs c 4 subch s).foldl (fun s u => f.dls.foldl (takeText labelLimit u.id fl) s) s
      (frameSubs c 5 subch s).foldl (fun s u => f.mot.foldl (takeMot c subch u.id fl) s) s)

/-- Whether the CIF count after a loss is consistent with the elapsed DT (R201): within one of the CIFs of 24 ms that have passed. -/
def cifConsistent (before after span : Nat) : Bool :=
  let n := (span * 1000 / (24 * 2 ^ 32)) % 5000
  let k := (after + 5000 - before % 5000) % 5000
  k == n || k == (n + 1) % 5000 || k == (n + 4999) % 5000

/-- Frame sync is back after a loss (R201): the history is kept, flushed, or the ensemble has changed. DESIGN CHOICE (log entry 104): a PAD
subscription whose component the new ensemble lacks is kept, and takes the component when an organisation brings it. -/
def execDabReacquisition (t : DT) (c : Fin 64) (eid cif : Nat) (s : State) : Host.Outcome State Fault Refusal :=
  let s := moment t s
  let d := s.cx.ctxs[c].dab
  .next (match d.lostAt, d.eid with
    | some l, some e =>
      if !d.sync then s
      else
        let span := dtSince l (now s)
        let s := modDab c (fun d => { d with lostAt := none, cif := cif }) s
        if e = eid then
          if cifConsistent d.cif cif span && decide (span ≤ 2 * 2 ^ 32) then s
          else modDab c (fun d => { d with cifsWritten := 0, erasedCifs := 0 }) s
        else
          ensembleSherd c e eid cif 0 (modDab c (fun d => { d with
            eid := some eid, ensembleChanged := true, cifsWritten := 0, erasedCifs := 0, comps := [], next := none, labels := [], clusters := [],
            subs := [] }) s)
    | some _, none => if d.sync then modDab c (fun d => { d with lostAt := none, cif := cif }) s else s
    | none, _ => s)

/-- A transmitter takes its place in a list, the strongest first. -/
def insertTii (e : Nat × Nat × Int × Int) : List (Nat × Nat × Int × Int) → List (Nat × Nat × Int × Int)
  | [] => [e]
  | h :: rest => if h.2.2.1 < e.2.2.1 then e :: h :: rest else h :: insertTii e rest

/-- The list of transmitters over 8 frames (R200): up to 8, strongest first, down to −30 dB and over ±246 µs. -/
def execTiiListUpdate (t : DT) (c : Fin 64) (l : List (Nat × Nat × Int × Int)) (s : State) : Host.Outcome State Fault Refusal :=
  let s := moment t s
  let x := s.cx.ctxs[c]
  .next (if x.std != .dab || fget x.cfg 0x0908 != 1 || !x.dab.sync then s
    else modDab c (fun d => { d with tii := ((l.filter fun e => decide (-300 ≤ e.2.2.1) && decide (e.2.2.2.natAbs ≤ 2460)).foldl (fun acc e => insertTii e acc) []).take 8 }) s)

/-! ### DRM (R202 to R208) -/

def modDrm (c : Fin 64) (f : DrmSt → DrmSt) : State → State := modCtx c fun x => { x with drm := f x.drm }

/-- The depth of the cell de-interleaver in frames (R202). -/
def drmDepth (std : Standard) (long : Bool) : Nat := if !long then 1 else if std = .drmPlus then 6 else 5

/-- Whether a detected mode is allowed: mode E alone for DRM+, DRM_MODE's one, or any of A to D (R203). -/
def modeOk (x : Ctx) (m : Option (Fin 5)) : Bool :=
  match m with
  | some m =>
    if x.std = .drmPlus then m.val == 4
    else m.val != 4 && (fget x.cfg 0x0909 == 0 || fget x.cfg 0x0909 == (m.val : Int) + 1)
  | none => false

/-- AUX of a DRM record (R217): the frames counted in the low 24 bits, the position in the super frame above (log entry 40). -/
def drmAux (d : DrmSt) (pos : Nat) : Nat := d.framesWritten % 2 ^ 24 + 2 ^ 24 * pos

/-- Whether a frame begins the super frame at which an announced reconfiguration applies (R207). PRESUMED (log entry 83): the index
counts the super frames that remain under the old configuration, so it reaches the boundary after the one with index 1. -/
def DrmSt.reconfigures (f : DrmFrame) (d : DrmSt) : Bool := f.superFrameStart && d.reconfIndex == 1

/-- What a frame's FAC and synchronisation do to the DRM part (R203, R204, R207, R208). Another robustness mode is a loss of sync. While a
reconfiguration is announced, the configuration in force stays until its boundary. The first FAC that passes after sync was found, or after
a boundary whose own FAC failed, gives the configuration in any frame. -/
def DrmSt.takeFrame (std : Standard) (f : DrmFrame) (ok : Bool) (t : DT) (d : DrmSt) : DrmSt :=
  let moved := d.mode.isSome && f.mode.isSome && d.mode != f.mode
  let held := f.syncHeld && !moved
  let good := held && ok && f.facOk
  let take := f.facOk && held && (!d.facTaken || (f.superFrameStart && (d.reconfIndex ≤ 1 || f.reconfigIndex = 0)))
  let newFac := take && d.framesWritten != 0 && (d.occupancy != f.occupancy || d.longInt != f.longInterleave)
  let late := match d.lostAt with | some l => held && decide (2 * 2 ^ 32 < dtSince l t) | none => false
  let flush := newFac || late || moved
  let goods := if good then min 2 (d.good + 1) else 0
  { d with
    sync := held,
    mode := if f.mode.isSome then f.mode else d.mode,
    good := goods,
    bad := if f.facOk then 0 else d.bad + 1,
    full := decide (2 ≤ goods),
    occupancy := if take then f.occupancy else d.occupancy,
    longInt := if take then f.longInterleave else d.longInt,
    qam := if take then f.qam else d.qam,
    facTaken := held && (take || (d.facTaken && !DrmSt.reconfigures f d)),
    reconfIndex := if f.facOk then f.reconfigIndex else if f.superFrameStart then d.reconfIndex - 1 else d.reconfIndex,
    framesWritten := if flush then 1 else d.framesWritten + 1,
    framePos := if f.superFrameStart then 0 else d.framePos + 1,
    erasedFrames := if flush then 0 else if !held then drmDepth std d.longInt
      else if d.lostAt.isSome then drmDepth std d.longInt - 1 else d.erasedFrames - 1,
    merFac := f.merFac,
    facWin := d.facWin + bit (!f.facOk),
    lostAt := if held then none else some (d.lostAt.getD t) }

/-- The delivery of one decoded stream frame (R206, R208, R226). -/
def takeStream (c : Fin 64) (s : State) (g : StreamFrame) : State :=
  let x := s.cx.ctxs[c]
  let k := g.stream.val
  let fl := erasedFlag x.drm.erasedFrames
  let aux := drmAux x.drm g.position
  let closed := x.drm.comps.any fun y => y.subch == k && y.scrambled
  let s := modDrm c (fun d =>
    let er := match d.streams.find? (·.1 == k) with | some e => e.2.2 | none => 0
    { d with streams := d.streams.filter (·.1 != k) ++ [(k, g.ber, if fl = 0 then er else er + 1)] }) s
  let mine (kind : Nat) (s : State) : List Sub := (subsKind c kind s).filter fun u => le u.selector 0 1 == k
  let s := (mine 11 s).foldl (fun s u => dataRec u.id fl g.stamp aux g.payload s) s
  if closed then s else (mine 10 s).foldl (fun s u => g.text.foldl (takeText textLimit u.id fl) s) s

/-- A DRM transmission frame ends (R204 to R209): stream frames that are complete are delivered, also while sync is lost. -/
def execDrmFrameEnd (t : DT) (c : Fin 64) (f : DrmFrame) (s : State) : Host.Outcome State Fault Refusal :=
  let s := moment t s
  let x := s.cx.ctxs[c]
  .next (if !isDrm x.std || !primaryRuns c s then s
    else
      let d := x.drm.takeFrame x.std f (modeOk x f.mode) (now s)
      let next := if x.drm.reconfigures f then x.drm.compsNext else none
      let s := modCtx c (fun x => Ctx.chooseMer (branchLive x s) { x with
        drm := { d with compsNext := if next.isSome then none else d.compsNext },
        st := if x.st = .acquiring ∧ d.full = true then .running
          else if x.st = .running ∧ (3 ≤ d.bad ∨ d.sync = false) then .acquiring else x.st }) s
      let s := match next with | some l => applyOrg c l s | none => s
      let s := if f.facOk && d.sync then
          (subsKind c 8 s).foldl (fun s u => dataRec u.id 0 f.stamp (drmAux d d.framePos) f.facBits s) s
        else s
      if decide (drmDepth x.std d.longInt ≤ d.framesWritten) then f.streams.foldl (takeStream c) s else s)

/-- The SDC of a super frame is decoded (R205, R226, R228, R236): an entity is one record when it changes. -/
def execSdcDecoded (t : DT) (c : Fin 64) (d : SdcData) (s : State) : Host.Outcome State Fault Refusal :=
  let s := moment t s
  let x := s.cx.ctxs[c]
  .next (if !isDrm x.std || !x.drm.sync || !primaryRuns c s then s
    else if !d.crcOk then modDrm c (fun y => { y with sdcErr := y.sdcErr + 1 }) s
    else
      let aux := drmAux x.drm 0
      let s := d.entities.foldl (fun s e =>
        ((subsKind c 9 s).filter fun u => maskBit u e.1).foldl (fun s u =>
          deliverChanged u.id (e.1 + 16 * e.2.1) 0 d.stamp aux (leBytes 1 e.1 ++ e.2.2) s) s) s
      let s := modDrm c (fun y => { y with compsNext := match d.nextComponents with | some l => some l | none => y.compsNext }) s
      let s := applyOrg c d.components s
      takeFlags c d.stamp d.alerts (modCtx c (Ctx.seeAfs d.afs 4) s))

end Sys2Proof.Machine
end

