-- ==== Sys2Proof/Machine/Audio.lean ====
section
/-!
DEFINITION. Audio.lean: audio services with their concealment, host blocks, loudness, signatures, airplay items and the reference library
(R242 to R263, R340).
-/
namespace Sys2Proof.Machine

/-! ### AUD_SERVICE_START, AUD_SERVICE_STOP (R242 to R245, R249, R263, R340) -/

/-- The fields of START and CHANGE (R331). -/
def startFid (f : Nat) : Bool := (decide (0x0B01 ≤ f) && decide (f ≤ 0x0B04)) || (decide (0x0B0A ≤ f) && decide (f ≤ 0x0B0C))

def specAudServiceStart : Spec :=
  { itemCmd 0x0600 (fun _ _ => true) [(1, 1), (3, 1), (4, 4)] startFid with
    targetFor := fun a s t => if itemAction a = 1 then tService s t else tContext s t
    remoteFor := fun a t => if itemAction a = 1 then decide (96 ≤ t) else decide (64 ≤ t)
    range := fun _ _ a => itemOffences startFid (fun _ _ => true) a ++ oneOf a 1 [0, 1] }

/-- The rule of R263: matching needs signatures. -/
def matchOk (cfg : FieldSet) : Bool := !(fget cfg 0x0B0C == 1 && fget cfg 0x0B0A == 0)

/-- Whether a selector is valid for a standard (R242); the byte that offends. -/
def badSelector (std : Standard) (scids sid : Nat) : Option Nat :=
  match std with
  | .am | .fm => if scids ≠ 0 then some 3 else if sid ≠ 0 then some 4 else none
  | .dab => none
  | .drm | .drmPlus => if 3 < scids then some 3 else none

/-- The audio services in use. -/
def svcCount (s : State) : Nat := countBy s.audio.svcs (·.st != .free)

/-- The lowest free service number. -/
def freeSvc (s : State) : Option (Fin 96) := (List.finRange 96).find? fun v => s.audio.svcs[v].st == .free

/-- A service as it starts; AM has one channel, FM two, a coded service what its access units say (R176, R178, R246). -/
def Svc.begin_ (c : Nat) (std : Standard) (st : SvcState) (sid scids : Nat) (cfg : FieldSet) : Svc :=
  { Svc.reset with st := st, ctx := c, sid := sid, scids := scids, cfg := cfg, stereo := std != .am }

/-- The subchannel of a component is asked for anew (R189). -/
def askComp (c : Fin 64) (k : Option Component) (s : State) : State :=
  match k with
  | some k => modCtx c (fun x => x.askAgain [k.subch]) s
  | none => s

/-- START on an open context with a valid selector. -/
def startService (h : Held) (c : Fin 64) (sid scids : Nat) (s : State) : State :=
  let x := s.cx.ctxs[c]
  let cfg := itemsOf h
  let comp := compOf x sid scids
  let coded := x.std == .dab || isDrm x.std
  let wait := coded && comp.isNone
  let st : SvcState := if wait then .waiting else if x.st = .hold then .mutedHold else .running
  if (match comp with | some k => unsuitable k | none => false) then finish h .inputUnsuitable [] s
  else if (limits s.cx.profile).2.2.2 ≤ svcCount s then reject h .noResource s
  else match freeSvc s with
    | none => reject h .noResource s
    | some v =>
      match regrow c s (askComp c comp (modSvc v (fun _ => Svc.begin_ c.val x.std st sid scids cfg) s)) with
      | none => reject h .noResource s
      | some t =>
        let res : List (Nat × Nat × Int) := [(16, 2, v.val), (18, 1, if wait then 0 else if st = .running then 1 else 2)]
        if !wait then finish h .ok res t
        else if Entry.hasDeadline h.entry then reject h .deadlineMissed s
        else deferCmd h res (note h [v.val] t)

/-- CHANGE of a started service: its fields wait for the next host block. -/
def changeService (h : Held) (v : Fin 96) (s : State) : State :=
  let y := s.audio.svcs[v]
  let cfg := fmerge y.cfg (itemsOf h)
  if !matchOk cfg then fail h .errParam 0xFFFF .outOfRange s
  else if y.st = .free then reject h .errState s
  else match idx 64 y.ctx with
    | some c => if (regrow c s (modSvc v (fun y => { y with cfg := cfg }) s)).isNone then reject h .noResource s else park h [] s
    | none => reject h .errState s

/-- Whether a started service has the component that a selector names: of DRM its Short identifier alone names it (R242, R243). -/
def hasComp (std : Standard) (scids sid : Nat) (y : Svc) : Bool := y.scids == scids && (isDrm std || y.sid == sid)

/-- AUD_SERVICE_START begins (R243, R263). DESIGN CHOICE (log entry 107): a CHANGE does not read ARG8 and ARG32, the SELECTOR, which a started
service keeps. -/
def doAudServiceStart (h : Held) (s : State) : State :=
  let a := Entry.args h.entry
  if itemAction a = 1 then
    match idx 96 h.entry.target.toNat with
    | some v => changeService h v s
    | none => reject h .errState s
  else if !matchOk (itemsOf h) then fail h .errParam 0xFFFF .outOfRange s
  else match openCtx h s with
    | some c =>
      let scids := itemArg8 a
      let sid := itemArg32 a
      let std := s.cx.ctxs[c].std
      match badSelector std scids sid with
        | some off => fail h .errParam (Entry.offset h.entry off) .outOfRange s
        | none =>
          if (svcsOf c.val s).any fun v => hasComp std scids sid s.audio.svcs[v] then reject h .errState s
          else startService h c sid scids s
    | none => reject h .errState s

def execAudServiceStart (e : Entry) (s : State) : Host.Outcome State Fault Refusal :=
  .next (hostCmd (.audServiceStart e) specAudServiceStart doAudServiceStart e s)

/-- Whether a target is a service of the secondary (R473). -/
def remoteSvc (t : Nat) : Bool := decide (96 ≤ t)

def specAudServiceStop : Spec := { plain 0x0601 0 tService [] with remote := remoteSvc }

/-- The started service that a command names. -/
def svcOf (h : Held) (s : State) : Option (Fin 96) := (idx 96 h.entry.target.toNat).filter fun v => s.audio.svcs[v].st != .free

/-- AUD_SERVICE_STOP waits for the next context frame boundary; a start that still waits for its component is undone there. -/
def doAudServiceStop (h : Held) (s : State) : State :=
  if (svcOf h s).isSome then park h [] s else reject h .errState s

def execAudServiceStop (e : Entry) (s : State) : Host.Outcome State Fault Refusal :=
  .next (hostCmd (.audServiceStop e) specAudServiceStop doAudServiceStop e s)

/-! ### AUD_LOUDNESS_CONFIG, AUD_SIGNATURE_CONFIG (R252, R257, R262, R263, R340) -/

def loudFid (f : Nat) : Bool := decide (0x0B05 ≤ f) && decide (f ≤ 0x0B09)

def specAudLoudnessConfig : Spec :=
  { itemCmd 0x0603 tService [(1, 1)] loudFid with
    remote := remoteSvc
    range := fun _ _ a => itemOffences (fun f => itemAction a == 0 && loudFid f) (fun _ _ => true) a ++ oneOf a 1 [0, 1] }

def doAudLoudnessConfig (h : Held) (s : State) : State :=
  if (svcOf h s).isSome then park h [] s else reject h .errState s

def execAudLoudnessConfig (e : Entry) (s : State) : Host.Outcome State Fault Refusal :=
  .next (hostCmd (.audLoudnessConfig e) specAudLoudnessConfig doAudLoudnessConfig e s)

def sigFid (f : Nat) : Bool := decide (0x0B0D ≤ f) && decide (f ≤ 0x0B10)

/-- REF_ID and the seconds of LIB_ADD. -/
def libRef (a : List Byte) : Nat := le a 8 4
def libSeconds (a : List Byte) : Nat := le a 12 4

def specAudSignatureConfig : Spec :=
  { itemCmd 0x0602 (fun _ _ => true) [] sigFid with
    targetFor := fun a s t => if itemAction a = 0 then tService s t else t == 0xFFFF
    remoteFor := fun a t => itemAction a == 0 && decide (96 ≤ t)
    mport := fun a => itemAction a != 1
    extent := fun a => match itemAction a with
      | 1 => 16 + 36 * max 5 (libSeconds a)
      | 2 => 8
      | 3 => 3
      | _ => 8 + 8 * itemCount a
    used := fun a => match itemAction a with
      | 1 => [(0, 2), (8, 8), (16, 36 * libSeconds a)]
      | 2 => [(0, 2), (4, 4)]
      | 3 => [(0, 2)]
      | _ => [(0, 3), (8, 8 * itemCount a)]
    range := fun _ _ a => oneOf a 1 [0, 1, 2, 3] ++
      (match itemAction a with
        | 0 => itemOffences sigFid (fun _ _ => true) a
        | 1 => require (decide (5 ≤ libSeconds a) && decide (libSeconds a ≤ 600)) 12
        | _ => []) }

/-- The signature seconds in the library. -/
def libTotal (l : List Ref) : Nat := l.foldl (fun (n : Nat) r => n + r.seconds) 0

/-- The limits of R257 on an addition. -/
def libTakes (l : List Ref) (ref secs : Nat) : Bool :=
  !l.any (·.id == ref) && decide (l.length < 4096) && decide (libTotal l + secs ≤ 2097152)

/-- AUD_SIGNATURE_CONFIG begins: fields wait for their block, library changes, with the DT of their acceptance, for a second. -/
def doAudSignatureConfig (h : Held) (s : State) : State :=
  let a := Entry.args h.entry
  match itemAction a with
  | 0 => if (svcOf h s).isSome then park h [] s else reject h .errState s
  | 1 =>
    if libTakes s.audio.library (libRef a) (libSeconds a) then park h [dtInt (now s)] s
    else fail h .errParam (Entry.offset h.entry 8) .outOfRange s
  | _ => park h [dtInt (now s)] s

def execAudSignatureConfig (e : Entry) (s : State) : Host.Outcome State Fault Refusal :=
  .next (hostCmd (.audSignatureConfig e) specAudSignatureConfig doAudSignatureConfig e s)

/-- Items of references that are no longer in the library end with REMOVED. -/
def endRemoved (s : State) : State :=
  (List.finRange 96).foldl (fun s v => match s.audio.svcs[v].item with
    | some i => if s.audio.library.any (·.id == i.ref) then s else stopItem v 4 s
    | none => s) s

/-- One library change applies (R257). -/
def applyLib (s : State) (h : Held) : State :=
  let a := Entry.args h.entry
  let setLib (l : List Ref) (s : State) : State := endRemoved (modAudio (fun x => { x with library := l }) s)
  let done (s : State) : State :=
    finish h .ok [(16, 4, s.audio.library.length), (20, 4, libTotal s.audio.library), (24, 8, dtInt (now s))] s
  match itemAction a with
  | 1 =>
    if libTakes s.audio.library (libRef a) (libSeconds a) then
      done (setLib (s.audio.library ++ [{ id := libRef a, seconds := libSeconds a, words := (a.drop 16).take (36 * libSeconds a) }]) s)
    else fail h .errParam (Entry.offset h.entry 8) .outOfRange s
  | 2 => done (setLib (s.audio.library.filter fun r => r.id != itemArg32 a) s)
  | _ => done (setLib [] s)

/-- Whether an instant is a whole second of DT, within a few units of it. -/
def onSecond (t : DT) : Bool := decide (t.toNat % 2 ^ 32 < 8)

/-- Library changes apply at the next whole DT second after their acceptance (R257). -/
def execLibraryChangeApply (t : DT) (s : State) : Host.Outcome State Fault Refusal :=
  let s := moment t s
  let due (h : Held) : Bool := decide ((h.aux.getD 1 0).toNat / 2 ^ 32 < (now s).toNat / 2 ^ 32)
  .next (if onSecond (now s) then ((waiting 0x0602 0xFFFF s).filter due).foldl applyLib s else s)

/-! ### Decoding (R246 to R248) -/

/-- A frame of a decoder as one of two channels (R246). -/
def stereoOf : List Int → Int × Int
  | [m] => (m, m)
  | [l, r] => (l, r)
  | l => Config.downmix l

/-- The ratio of the exact converter of a unit to 48 kHz, which follows RATE_ADJ (R246, R268): output over input frames. -/
def unitRatio (adj : Int) (rate : Nat) : Nat × Nat := (48000 * ((2 : Int) ^ 48 + adj * 153600000).toNat, rate * 2 ^ 48)

/-- The number of the first output frame at or after place `n` of a carrying frame. -/
def outputAt (q : Nat × Nat) (n : Nat) : Nat := ceilDiv (n * q.1) q.2

/-- A unit's output frames at 48 kHz (R246): those whose instants lie in it. -/
def convertUnit (q : Nat × Nat) (pos : Nat) (before cur : List (Int × Int)) : List (Int × Int) :=
  let first := outputAt q pos
  (List.range (outputAt q (pos + cur.length) - first)).map fun i =>
    let place := (first + i) * q.2 * 2 ^ 32 / q.1 - pos * 2 ^ 32
    (Config.resampled (before.map (·.1)) (cur.map (·.1)) place, Config.resampled (before.map (·.2)) (cur.map (·.2)) place)

/-- A sample 6 dB lower `k` times over: a factor of 10^(−6/20) each (R248). -/
def lower6 (k : Nat) (v : Int) : Int := ratio (v * 501187 ^ k) (1000000 ^ k)

/-- The frames of a unit with their flags and the fades (R248): the mute fades over 960 frames, and so does its end, which is CONCEALED. -/
def unitFrames (muted conc : Bool) (fade : Nat) (l : List (Int × Int)) : List AFrame :=
  l.zipIdx.map fun x =>
    let f : AFrame := { l := x.1.1, r := x.1.2, conc := !muted && (conc || decide (fade + x.2 < 960)), mute := muted }
    f.ramp 960 (if muted then fade - (x.2 + 1) else fade + x.2 + 1)

/-- The state of a fade after `n` frames. -/
def fadeAfter (muted : Bool) (fade n : Nat) : Nat := if muted then fade - n else min 960 (fade + n)

/-- A unit as a service's decoder takes it (R246 to R248): a good one is decoded; of one that has failed, or holds ERASED_CU data, the last good
one is repeated, 6 dB lower with each, and the third in a row, or with CONCEAL = MUTE the first, mutes. -/
def Svc.takeUnit (drm : Bool) (adj : Int) (t : DT) (u : AccessUnit) (y : Svc) : Svc :=
  let ok := u.good && !u.erased
  let fails := if ok then 0 else y.fails + 1
  let muted := !ok && (y.muted || decide (3 ≤ fails) || fget y.cfg 0x0B02 == 1)
  let rate := if ok then u.rate else y.unitRate
  let cur := if ok then u.frames.map stereoOf
    else (List.range y.unit.length).map fun k =>
      let f := Config.repeated y.unit fails k
      (lower6 fails f.1, lower6 fails f.2)
  let q := unitRatio adj rate
  let l := convertUnit q u.pos y.unit cur
  let stamp := BitVec.ofInt 64 (dtInt u.stamp + ((outputAt q u.pos * 2 ^ 32 / 48000 : Nat) : Int) - Config.decoderDelay drm)
  let y := { y with
    fails := fails, muted := muted, concealed := y.concealed + bit !ok, fade := fadeAfter muted y.fade l.length,
    unit := if ok then cur else y.unit, unitRate := rate,
    stereo := if ok then u.frames.any (fun f => decide (1 < f.length)) else y.stereo,
    metadata := if ok && !u.metadata.isEmpty then u.metadata else y.metadata }
  if l.isEmpty then y else y.push t stamp (unitFrames muted (!ok) (if muted then y.fade + l.length else y.fade - l.length) l)

/-- An access unit of a coded service is decoded or concealed (R246 to R248). AM and FM have none. -/
def execAccessUnitDecoded (t : DT) (svc : Fin 96) (u : AccessUnit) (s : State) : Host.Outcome State Fault Refusal :=
  let s := moment t s
  let y := s.audio.svcs[svc]
  .next (match idx 64 y.ctx with
    | some c =>
      let std := s.cx.ctxs[c].std
      if y.st = .running && (std == .dab || isDrm std) then modSvc svc (fun y => y.takeUnit (isDrm std) s.time.rateAdj (now s) u) s else s
    | none => s)

/-! ### The host block and the fields that apply at it (R249, R250, R252, R263) -/

/-- A change of fields ends what it switches off: the open item with matching, the chain with signatures. -/
def fieldsOff (v : Fin 96) (old : FieldSet) (s : State) : State :=
  let y := s.audio.svcs[v]
  let off (fid : Nat) : Bool := fget old fid == 1 && fget y.cfg fid == 0
  let s := if off 0x0B0C || off 0x0B0A then stopItem v 2 s else s
  if off 0x0B0A then sigChain v s else s

/-- CHANGE joins the values of its boundary; where it cannot be placed the old values stay (R249). The list holds those that apply. -/
def applyChange (v : Fin 96) (p : State × List Held) (h : Held) : State × List Held :=
  let s := p.1
  let y := s.audio.svcs[v]
  let cfg := fmerge y.cfg (itemsOf h)
  if !matchOk cfg then (fail h .errParam 0xFFFF .outOfRange s, p.2)
  else match idx 64 y.ctx with
    | some c => match regrow c s (modSvc v (fun y => { y with cfg := cfg }) s) with
      | some t => (t, p.2 ++ [h])
      | none => (reject h .noResource s, p.2)
    | none => (reject h .errState s, p.2)

/-- The CHANGEs that wait for a block apply together, the later value in force (R12). -/
def applyChanges (v : Fin 96) (s : State) : State :=
  let old := s.audio.svcs[v].cfg
  let p := (waiting 0x0600 v.val s).foldl (applyChange v) (s, [])
  p.2.foldl (fun s h => finishC h s) (fieldsOff v old p.1)

/-- The LV fields of a configuration apply at the host block; one that has ST fields then waits for the signature second. A RESET begins
the new span with the following block (R252, R262). -/
def applyLive (v : Fin 96) (s : State) (h : Held) : State :=
  let l := itemsOf h
  if h.op = 0x0603 && itemAction (Entry.args h.entry) = 1 then
    finishC h (modSvc v (fun y => { y with loudOld := y.loudFrom, loudFrom := y.line.next }) s)
  else
    let s := modSvc v (fun y => { y with cfg := fmerge y.cfg (ofClass .lv l) }) s
    if (ofClass .st l).isEmpty then finishC h s else modHeld h.id (fun x => { x with aux := [1, 1] }) s

/-- The ST fields of a configuration apply together at the signature second (R263). -/
def applySecond (v : Fin 96) (s : State) (h : Held) : State :=
  if h.op = 0x0603 && itemAction (Entry.args h.entry) = 1 then s
  else
    let l := itemsOf h
    finishC h (modSvc v (fun y => { y with cfg := fmerge y.cfg (if h.aux = [1, 1] then ofClass .st l else l) }) s)

/-- The configurations that wait for a boundary of a service. -/
def svcConfigs (v : Fin 96) (s : State) : List Held := waiting 0x0602 v.val s ++ waiting 0x0603 v.val s

/-- The routes from a service play again once it delivers (R294). -/
def svcPlays (v : Fin 96) (s : State) : State :=
  if s.audio.svcs[v].st != .running then s
  else modPortSt (fun o => { o with routes := o.routes.map fun r => match r.src with
    | .svc w _ => if w = v && !r.gone then { r with muted := false } else r
    | _ => r }) s

/-- What waits for a block of a service applies at it. -/
def blockBoundary (v : Fin 96) (stamp : DT) (s : State) : State :=
  let s := applyChanges v s
  let s := (waiting 0x0703 v.val s).foldl (fun s h => finishC h (setDepth v (le (Entry.args h.entry) 0 4) stamp s)) s
  ((svcConfigs v s).filter fun h => h.aux == [1]).foldl (applyLive v) s

/-- A block of 192 frames is complete (R250): it passes through the meter and the signature, is written with HOST_AUDIO ON, and is the frame
boundary of the service's fields. A service that has had no audio yet has its boundary all the same (log entry 41). -/
def execHostAudioBlock (t : DT) (svc : Fin 96) (s : State) : Host.Outcome State Fault Refusal :=
  let s := moment t s
  let y := s.audio.svcs[svc]
  .next (if y.st == .free then s
    else match y.nextBlock (now s) (svcLat y s) with
      | some fs =>
        let stamp := y.line.next
        let s := modSvc svc (Svc.takeBlock fs) (hostBlock svc 0 stamp fs s)
        followCompares svc false (blockBoundary svc stamp (svcPlays svc s))
      | none => if y.line.start.isNone then blockBoundary svc (now s) s else s)

/-! ### Loudness (R251 to R253) -/

/-- A LOUD_REPORT, in a layout of the model's own (log entry 40), with the figures of the span and the period up to a stamp (R253).
Figures that do not exist for want of any sound are free values. -/
def loudReport (v : Fin 96) (stamp : DT) (s : State) : State :=
  let y := s.audio.svcs[v]
  let span := spanOf y stamp
  let (mom, s) := told y.maxMomentary s
  let (short, s) := told y.maxShort s
  let (last, s) := told (recentLoudness 30 stamp y.loudHist) s
  let (int, s) := told (integratedOf span) s
  let (range, s) := told (rangeOf span) s
  let (left, s) := told y.maxPeakL s
  let (right, s) := told y.maxPeakR s
  audioRec v 0x41 0 stamp
    (pack 0 20 [(0, 2, mom), (2, 2, short), (4, 2, last), (6, 2, int), (8, 2, range), (10, 2, left), (12, 2, right), (14, 2, y.excluded),
      (16, 1, bit y.silence), (18, 2, y.metadata.length)] ++ y.metadata) s

/-- Whether a loudness is below a level; no sound at all is below every level. -/
def below (v : Option Int) (level : Int) : Bool := match v with | some k => decide (k < level) | none => true

/-- The end of a loudness block. -/
def LoudBlock.stop (b : LoudBlock) : DT := dtAdd b.stamp (msDt 100)

/-- A block's figures in the meter of a service; a block with MUTED samples is excluded from every measure (R251, R253). -/
def Svc.meter (b : LoudBlock) (y : Svc) : Svc :=
  if b.muted then { y with excluded := y.excluded + 1 }
  else
    let tp := fget y.cfg 0x0B04 == 1
    let b := { b with peakL := if tp then b.peakL else none, peakR := if tp then b.peakR else none }
    let hist := b :: y.loudHist
    let short := recentLoudness 30 b.stop hist
    { y with
      loudHist := hist,
      maxMomentary := raiseTo y.maxMomentary (recentLoudness 4 b.stop hist),
      maxShort := raiseTo y.maxShort short,
      maxPeakL := raiseTo y.maxPeakL b.peakL,
      maxPeakR := raiseTo y.maxPeakR b.peakR,
      belowFrom := if below short (fget y.cfg 0x0B08) then some (y.belowFrom.getD b.stamp) else none }

/-- SILENCE at the end of a block (R253). -/
def Svc.silent (t : DT) (y : Svc) : Bool :=
  let short := recentLoudness 30 t y.loudHist
  if y.silence then below short (fget y.cfg 0x0B08 + 31)
  else match y.belowFrom with
    | some d => decide ((fget y.cfg 0x0B09).toNat * 2 ^ 32 ≤ dtSince d t)
    | none => false

/-- A loudness block of 100 ms that the meter has completed is judged (R251, R253): a change of SILENCE is reported at once, with the stamp
of the change. -/
def execLoudnessBlock (t : DT) (svc : Fin 96) (s : State) : Host.Outcome State Fault Refusal :=
  let s := moment t s
  let y := s.audio.svcs[svc]
  .next (match y.line.meter.done with
    | b :: rest =>
      let y := { y with line := { y.line with meter := { y.line.meter with done := rest } } }
      if fget y.cfg 0x0B03 != 1 then modSvc svc (fun _ => y) s
      else
        let y' := y.meter b
        let q := if b.muted then y.silence else y'.silent b.stop
        let s := modSvc svc (fun _ => { y' with silence := q }) s
        if q = y.silence then s else loudReport svc b.stop s
    | [] => s)

/-- A report period ends, with the audio of its last instant (R253): the record, then a new period. -/
def execLoudReportPeriod (t : DT) (svc : Fin 96) (s : State) : Host.Outcome State Fault Refusal :=
  let s := moment t s
  let y := s.audio.svcs[svc]
  .next (match y.reportFrom with
    | some d =>
      let stop := dtAdd d ((fget y.cfg 0x0B07).toNat * 2 ^ 32)
      if fget y.cfg 0x0B03 != 1 || decide (y.line.next.toNat < stop.toNat) then s
      else
        modSvc svc (fun y => { y with
          maxMomentary := none, maxShort := none, maxPeakL := none, maxPeakR := none, excluded := 0, reportFrom := some stop })
          (loudReport svc stop s)
    | none => s)

/-! ### Signatures and items (R254 to R261) -/

/-- The short-term loudness at the end of a second (R255), with the blocks that the meter has completed and not judged yet. -/
def secondLoudness (y : Svc) (sec : Nat) : Option Int :=
  recentLoudness 30 (BitVec.ofNat 64 ((sec + 1) * 2 ^ 32)) ((y.line.meter.done.filter fun b => !b.muted).reverse ++ y.loudHist)

/-- The payload of SIG_BLOCK (R255): words and RELIABLE, short-term loudness, sub-frames touched by concealment, SIG_SEC. -/
def sigPayload (y : Svc) (words : List (Nat × Bool)) (conc : Nat) (loud : Int) : List Byte :=
  fit 32 (words.map fun w => BitVec.ofNat 8 w.1) ++ leBytes 4 (reliableBits words) ++ leBytes 2 loud
    ++ leBytes 2 conc ++ leBytes 4 y.sigSec ++ zeros 4

/-- A service before a second whose signature follows some that it lacks: the words before it no longer count, and the sub-frames of an open
item keep their places in time. -/
def Svc.skipTo (sec : Nat) (y : Svc) : Svc :=
  if y.subEnd = 32 * sec then y
  else { y with
    bands := [], words := [], cands := [],
    item := y.item.map fun a => { a with offset := a.offset - ((32 * sec - y.subEnd : Nat) : Int) } }

/-- A signature second in the chain, the words and the recent seconds of a service. -/
def Svc.takeSecond (sec : Nat) (stamp : DT) (subs : List SubFrame) (words : List (Nat × Bool)) (payload snap : List Byte) (y : Svc) : Svc :=
  { y with
    sigSec := y.sigSec + 1,
    chainFirst := if y.chainCount = 0 then y.sigSec else y.chainFirst,
    chainFrom := if y.chainCount = 0 then stamp else y.chainFrom,
    chainEnd := dtAdd stamp (2 ^ 32),
    chainCount := y.chainCount + 1,
    chainConc := y.chainConc + subs.countP (·.concealed),
    chainWords := y.chainWords ++ payload.take 36,
    recent := ((stamp, payload, snap) :: y.recent).take 640,
    bands := ((subs.map (·.bands)).reverse ++ y.bands).take 2,
    words := (words.reverse ++ y.words).take 2048,
    subEnd := 32 * (sec + 1) }

/-- The metadata of a service in a second (R259): of FM the PI, PS and RT; of DAB the SId before the label and text, of DRM these alone. -/
def snapshotOf (v : Fin 96) (text : List Byte) (s : State) : List Byte :=
  let y := s.audio.svcs[v]
  match idx 64 y.ctx with
  | some c =>
    let x := s.cx.ctxs[c]
    let item (k : Nat) : List Byte := ((x.rds.items.find? (·.1 == k)).map (·.2)).getD []
    match x.std with
    | .am => []
    | .fm => leBytes 2 ((x.rds.pi.map (·.toNat)).getD 0 : Nat) ++ item 0 ++ item 2
    | .dab => leBytes 4 y.sid ++ text
    | .drm | .drmPlus => text
  | none => []

/-- Whether a sub-frame of a reference is matched: reliable on both sides. -/
def subMatched (y : Svc) (r : Ref) (off : Int) (j : Nat) : Bool :=
  match svcWord y (off + (j : Nat)), r.word j with
  | some (_, true), (_, true) => true
  | _, _ => false

/-- ITEM_START (R259), in a layout of the model's own (log entry 40): its start stamp is that of sub-frame 0 of the reference, or with
PARTIAL_START that of the first sub-frame that matched. DESIGN CHOICE (log entry 84): the opening counts as not aired where the first match
leaves it out of its window, or it lies before the service's start. -/
def startItem (v : Fin 96) (r : Ref) (off : Int) (rate : Nat × Nat) (stamp : DT) (s : State) : State :=
  let y := s.audio.svcs[v]
  let lo := ((matchWindow y r off).map (·.1)).getD 0
  let part := lo != 0 || decide (off < 0)
  let n := min (r.len - lo) (nextSubFrame y - (off + (lo : Nat))).toNat
  let hits := (List.range n).filter fun i => subMatched y r off (lo + i)
  let first := if part then lo + hits.headD 0 else 0
  let start := (subFrameStamp y (off + (first : Nat))).getD stamp
  let c := compareSubs y r off lo n
  let a : Airplay :=
    { ref := r.id, start := start, partialStart := part, offset := off, total := r.len, compared := c.2, errors := c.1, badFor := 0,
      last := (subFrameStamp y (off + (lo + hits.getLastD 0 : Nat))).getD stamp }
  let s := modSvc v (fun y => { y with item := some a }) s
  audioRec v 0x42 0 start
    (pack 0 20 [(0, 4, r.id), (4, 2, v.val), (6, 2, if part then 2 else 0), (8, 8, dtInt start), (16, 2, ratio (rate.1 * 65536 : Nat) (8 * rate.2))]) s

/-- The open item after a signature second (R258, R259): its alignment is searched again and the new sub-frames are compared; the last of
them that matched is noted while the BER is not too high. -/
def followItem (v : Fin 96) (r : Ref) (a : Airplay) (s : State) : Airplay :=
  let y := s.audio.svcs[v]
  let off := research y r a.offset
  let next := nextSubFrame y
  let from_ := (next - 32 - off).toNat
  let n := min r.len (next - off).toNat - from_
  let c := compareSubs y r off from_ n
  let two := compareSubs y r off (next - 64 - off).toNat (min r.len (next - off).toNat - (next - 64 - off).toNat)
  let bad := !berAtMost (fget y.cfg 0x0B0E + 10) two
  let hit := ((List.range n).filter fun i => subMatched y r off (from_ + i)).getLast?
  { a with
    offset := off, compared := a.compared + c.2, errors := a.errors + c.1,
    badFor := if bad then a.badFor + 1 else 0,
    last := match bad, hit with
      | false, some i => (subFrameStamp y (off + (from_ + i : Nat))).getD a.last
      | _, _ => a.last }

/-- The candidates of a reference are dropped. -/
def dropCands (v : Fin 96) (ref : Nat) (s : State) : State := modSvc v (fun y => { y with cands := y.cands.filter fun k => k.1 != ref }) s

/-- Ends or follows the open item of a service in a second (R258): its reference has been aired to the end, or the BER has been too high for
MATCH_GAP. It ends at its last sub-frame that matched. -/
def followOpen (v : Fin 96) (s : State) : State :=
  match s.audio.svcs[v].item with
  | some a => match refOf s.audio.library a.ref with
    | some r =>
      let a := followItem v r a s
      let s := modSvc v (fun y => { y with item := some a }) s
      let y := s.audio.svcs[v]
      if a.offset + (r.len : Int) ≤ nextSubFrame y then dropCands v a.ref (endItem v a.last 0 s)
      else if (fget y.cfg 0x0B0F).toNat ≤ a.badFor then endItem v a.last 1 s
      else s
    | none => s
  | none => s

/-- An item opens at a match: the reference, its offset and the window's BER (R258). -/
def openMatch (v : Fin 96) (stamp : DT) (k : Nat × Int × (Nat × Nat)) (s : State) : State :=
  match refOf s.audio.library k.1 with
  | some r => startItem v r k.2.1 k.2.2 stamp s
  | none => s

/-- What the matcher does in a second (R258, R259, R262): the open item, the candidates, then a match, which ends an open item that
matches worse as SUPERSEDED. -/
def takeMatch (v : Fin 96) (stamp : DT) (s : State) : State :=
  let s := modSvc v (fun y => { y with cands := candidatesOf y s.audio.library }) s
  let s := followOpen v s
  let y := s.audio.svcs[v]
  match bestMatch y s.audio.library, y.item with
  | some k, none => openMatch v stamp k s
  | some k, some a =>
    let own := match refOf s.audio.library a.ref with | some r => windowBer y r a.offset | none => none
    if k.1 != a.ref && (match own with | some w => lowerBer k.2.2 w | none => true) then openMatch v stamp k (stopItem v 5 s) else s
  | none, _ => s

/-- The signature of a second from its sub-frames (R254, R255): words, record, chain, matcher, comparisons. -/
def signSecond (v : Fin 96) (sec : Nat) (subs : List SubFrame) (text : List Byte) (s : State) : State :=
  let s := modSvc v (Svc.skipTo sec) s
  let y := s.audio.svcs[v]
  let stamp := y.line.stamp (48000 * sec - y.line.no 0)
  let (words, s) := subWords y.bands subs s
  let (loud, s) := told (secondLoudness y sec) s
  let payload := sigPayload y words (subs.countP (·.concealed)) loud
  let s := if fget y.cfg 0x0B0B = 1 then audioRec v 0x40 0 stamp payload s else s
  let s := modSvc v (Svc.takeSecond sec stamp subs words payload (snapshotOf v text s)) s
  followCompares v true (if fget y.cfg 0x0B0C = 1 then takeMatch v stamp s else s)

/-- A signature second of a service's line is complete (R254, R255, R258), and the fields that wait for it apply (R263); each second is taken
once (R262). A second of which the line lacks a part has no signature. -/
def execSignatureSecond (t : DT) (svc : Fin 96) (text : List Byte) (s : State) : Host.Outcome State Fault Refusal :=
  let s := moment t s
  let y := s.audio.svcs[svc]
  let sec := y.line.second
  .next (if y.st == .free then s
    else if y.line.start.isNone then (svcConfigs svc s).foldl (applySecond svc) s
    else if !y.line.past? sec then s
    else
      let s := modSvc svc (fun y => { y with line := { y.line with second := sec + 1 } }) s
      let s := match fget y.cfg 0x0B0A == 1, y.line.subs sec with
        | true, some subs => signSecond svc sec subs text s
        | _, _ => s
      (svcConfigs svc s).foldl (applySecond svc) s)

/-- An evidence period is covered, SIG_EVIDENCE seconds of DT (R261). -/
def execSigChainPeriod (t : DT) (svc : Fin 96) (s : State) : Host.Outcome State Fault Refusal :=
  let s := moment t s
  let y := s.audio.svcs[svc]
  .next (if decide (dtSince y.chainFrom y.chainEnd < (fget y.cfg 0x0B10).toNat * 2 ^ 32) then s else sigChain svc s)

end Sys2Proof.Machine
end

