-- ==== Sys2Proof/Machine/Port.lean ====
section
/-!
DEFINITION. Port.lean: the audio ports: configuration, block grids, routes, slot masks, channel status, the biphase inputs and the air-chain
comparison (R265 to R294, R340).
-/
namespace Sys2Proof.Machine

/-! ### Ports and their grids (R265, R270, R292) -/

/-- Biphase outputs, biphase inputs, TDM ports. -/
def isAout (p : Nat) : Bool := decide (p < 8)
def isAin (p : Nat) : Bool := decide (8 ≤ p) && decide (p < 12)
def isTdm (p : Nat) : Bool := decide (12 ≤ p)

/-- Whether a port runs (R265). -/
def portRuns (x : Port) : Bool := fget x.cfg 0x0C00 == 1

/-- The frame rate of an output port in hertz; TDM runs at 48 kHz. -/
def portRate (x : Port) : Nat := (fget x.cfg 0x0C01).toNat

/-- The first DT at or after an instant that is a whole multiple of 192/fs seconds (R270). -/
def gridStart (fs : Nat) (t : DT) : DT :=
  let n := ceilDiv (t.toNat * fs) (192 * 2 ^ 32)
  BitVec.ofNat 64 (ceilDiv (n * 192 * 2 ^ 32) fs)

/-- The instant of frame `n` of a running port, counted from its start (R270). -/
def frameAt (x : Port) (g : DT) (n : Nat) : DT := dtAdd g ((n - x.base) * 2 ^ 32 / portRate x)

/-- The frames that a running port has had at the block boundary nearest to an instant. -/
def framesAt (t : DT) (x : Port) (g : DT) : Nat := x.base + 192 * (roundDiv ((dtSince g t * portRate x : Nat) : Int) (192 * 2 ^ 32)).toNat

/-- Whether an instant is a block boundary of a running port: within a few units of its grid, whose instants are not whole. -/
def onGrid (t : DT) (x : Port) : Bool :=
  match x.grid with
  | some g =>
    let d := dtSince g t
    let n := framesAt t x g - x.base
    decide (n * 2 ^ 32 ≤ (d + 8) * portRate x) && decide (d * portRate x ≤ n * 2 ^ 32 + 8 * portRate x)
  | none => false

/-! ### PORT_CONFIG (R292, R340) -/

def portFid (f : Nat) : Bool := (decide (0x0C00 ≤ f) && decide (f ≤ 0x0C09)) || f == 0x0C0B || f == 0x0C0C

/-- Whether a field belongs to a port, and its value to the port's kind. -/
def portItem (p : Nat) (f : Nat) (v : Int) : Bool :=
  match f with
  | 0x0C01 => if isTdm p then v == 48000 else isAout p
  | 0x0C02 | 0x0C03 => isAout p
  | 0x0C04 => !isAin p
  | 0x0C05 | 0x0C06 | 0x0C07 | 0x0C08 | 0x0C09 => isTdm p
  | 0x0C0C => isAin p
  | _ => true

/-- Whether a target is a unit of the secondary, and which port it names. -/
def portNo (t : Nat) : Nat := t % 0x100

def specPortConfig : Spec :=
  { itemCmd 0x0680 (tUnit 14) [] portFid with
    remote := remoteUnit
    range := fun _ e a => itemOffences portFid (portItem (portNo e.target.toNat)) a }

/-- AMCLK in hertz (R269); 0 is OFF. -/
def amclkHz (s : State) : Nat := (fget s.port.ports[(0 : Fin 14)].cfg 0x0C0B).toNat

/-- The divider that AMCLK comes from: that of 48 kHz, or of 44.1 kHz (R269). -/
def amclkDivider (hz : Nat) : Option Nat :=
  if hz = 12288000 ∨ hz = 24576000 then some 2 else if hz = 11289600 ∨ hz = 22579200 then some 1 else none

/-- Whether a rate is in use: by an output that runs or is stopping, or by AMCLK (R266, R269). -/
def rateUsed (k : Nat) (s : State) : Bool :=
  amclkDivider (amclkHz s) == some k
    || (List.finRange 14).any fun p =>
      !isAin p.val && (portRuns s.port.ports[p] || s.port.ports[p].stopping) && 512 * portRate s.port.ports[p] == dividerHz k

/-- The F_D edges of the divider of a rate. -/
def edgesOf (k : Nat) (s : State) : Nat := match idx 4 k with | some k => s.port.dividers[k].edges | none => 0

/-- The divider of a port's rate. -/
def dividerOf (x : Port) : Nat := ((List.range 4).find? fun k => 512 * portRate x == dividerHz k).getD 2

/-- The edges of a biphase port's cell clock F_D / 4, of a TDM port's bit clock F_D at 48 kHz, and of AMCLK, F_D or F_D / 2 (R266, R269). -/
def cellEdges (x : Port) (s : State) : Nat := edgesOf (dividerOf x) s / 4
def bitEdges (s : State) : Nat := edgesOf 2 s
def amclkEdges (s : State) : Nat :=
  match amclkDivider (amclkHz s) with
  | some k => if dividerHz k = amclkHz s then edgesOf k s else edgesOf k s / 2
  | none => 0

/-- The divider of each rate runs while the rate is in use, counted up to now (R266 to R269). -/
def setDividers (s : State) : State :=
  let t := now s
  let used (k : Nat) : Bool := rateUsed k s
  let adj := s.time.rateAdj
  modPortSt (fun o => { o with
    dividers := Vector.ofFn fun (k : Fin 4) =>
      if !used k.val then Divider.reset
      else if o.dividers[k].running then if s.time.bothLost || o.toMove then o.dividers[k] else o.dividers[k].catchUp k.val t
      else { Divider.reset with ratio := dividerRatio k.val adj, running := true, startAt := t } }) s

/-- The port that a command names. -/
def portOf (h : Held) : Option (Fin 14) := idx 14 h.entry.target.toNat

/-- A port starts: its grid and frames begin anew (R270, R272). An input begins to look for preambles. -/
def startPort (p : Fin 14) (s : State) : State :=
  let begun (x : Port) : Port := { x with grid := some (gridStart (portRate x) (now s)), frames := 0, base := 0, stopping := false, sent := [] }
  match idx 4 (p.val - 8) with
  | some i =>
    if isAin p.val then modAin i (fun a => { Ain.reset with
      cmp := a.cmp, cmpCfg := a.cmpCfg, cmpState := a.cmpState, cmpDelay := a.cmpDelay, cmpAt := a.cmpAt, seq := a.seq }) s
    else modPort p begun s
  | none => modPort p begun s

/-- An output whose ramp has ended drives its pins low (R292); an input's receiver is idle. -/
def stopPort (p : Fin 14) (s : State) : State :=
  let s := if s.port.ports[p].grid.isSome then emit (.portLow p.val) s else s
  let s := modPort p (fun x => { x with grid := none, frames := 0, base := 0, stopping := false, sent := [] }) s
  match idx 4 (p.val - 8) with
  | some i => if isAin p.val then modAin i (fun a => { a with locked := false, blocks := 0, lostAt := none, changeFrom := none, fresh := [] }) s else s
  | none => s

/-- A stop begins: an output ramps to mute first (R292). -/
def endPort (p : Fin 14) (s : State) : State :=
  if isAin p.val || s.port.ports[p].grid.isNone then stopPort p s else modPort p (fun x => { x with stopping := true }) s

/-- Fields take effect on a port; AMCLK_SEL is device-wide (R269). A port that is still ramping to its stop ends that at once when it starts
again or an LK field changes. -/
def applyPort (p : Fin 14) (l : FieldSet) (s : State) : State :=
  let was := portRuns s.port.ports[p]
  let s := modPort p (fun x => { x with cfg := fmerge x.cfg l }) s
  let s := if fhas l 0x0C0B then modPortSt (fun o => { o with ports := o.ports.map fun x => { x with cfg := fset x.cfg 0x0C0B (fget l 0x0C0B) } }) s else s
  let is_ := portRuns s.port.ports[p]
  let s := if s.port.ports[p].stopping && (is_ || !(ofClass .lk l).isEmpty) then stopPort p s else s
  let s := setDividers (if !was && is_ then startPort p s else if was && !is_ then endPort p s else s)
  if fhas l 0x0C0B then emit (.amclk (amclkHz s) (amclkEdges s)) s else s

/-- PORT_CONFIG: on a stopped port and on an input the fields take effect at acceptance (log entry 43), on a running output at its block
boundary. -/
def doPortConfig (h : Held) (s : State) : State :=
  match portOf h with
  | some p =>
    let l := itemsOf h
    if portRuns s.port.ports[p] && !(ofClass .lk l).isEmpty then reject h .busyRunning s
    else if portRuns s.port.ports[p] && !isAin p.val then park h [] s
    else finishC h (applyPort p l s)
  | none => s

def execPortConfig (e : Entry) (s : State) : Host.Outcome State Fault Refusal :=
  .next (hostCmd (.portConfig e) specPortConfig doPortConfig e s)

/-! ### Routes (R277 to R280, R340) -/

/-- The least LATENCY of a source in ms. -/
def autoLatency (src : RouteSrc) (s : State) : Nat :=
  match src with
  | .svc v _ => svcLat s.audio.svcs[v] s
  | .ain _ _ => 42
  | _ => 0

/-- The 8 bytes of route `i` (R340). -/
def routeBytes (a : List Byte) (i : Nat) : List Byte := (a.drop (8 + 8 * i)).take 8

/-- The source that a route's bytes name; none where there is no such service or input. -/
def routeSrc (b : List Byte) (s : State) : Option RouteSrc :=
  let n := le b 4 2
  let ch := le b 3 1
  match le b 2 1 with
  | 0 => some .none
  | 1 => match idx 96 n, idx 3 ch with
    | some v, some k => if s.audio.svcs[v].st = .free then none else some (.svc v k)
    | _, _ => none
  | 2 => match idx 4 n, idx 2 ch with
    | some i, some k => if fget (s.port.ports[(⟨8 + i.val, by omega⟩ : Fin 14)]).cfg 0x0C00 = 1 then some (.ain i k) else none
    | _, _ => none
  | 3 => some .tone
  | 4 => some .silence
  | _ => none

/-- A TDM route needs a 48 kHz source chain (R279). -/
def chainOk (port : Nat) (src : RouteSrc) (s : State) : Bool :=
  match src with
  | .ain i _ => !isTdm port || s.port.ains[i].rate == 2
  | _ => true

/-- The first byte of a route that offends, if any. -/
def badRoute (b : List Byte) (s : State) : Option Nat :=
  let p := le b 0 1
  let lat := le b 6 2
  if !(isAout p || (isTdm p && decide (p < 14))) then some 0
  else if (if isTdm p then 32 else 2) ≤ le b 1 1 then some 1
  else if 4 < le b 2 1 then some 2
  else match routeSrc b s with
    | none => some (if 2 < le b 3 1 || (le b 2 1 == 2 && 1 < le b 3 1) then 3 else 4)
    | some src =>
      if !chainOk p src s then some 4
      else if lat ≠ 0 && (lat < 40 || 4000 < lat || lat < autoLatency src s) then some 6
      else none

/-- A route that plays its source at once. -/
def Route.fresh (port ch : Nat) (src : RouteSrc) (latency : Nat) : Route :=
  { port := port, ch := ch, src := src, latency := latency, muted := false, gone := false, gain := 480, old := none, next := none, zeros := 0,
    held := none }

/-- The route of its bytes. -/
def routeOf (b : List Byte) (s : State) : Route := Route.fresh (le b 0 1) (le b 1 1) ((routeSrc b s).getD .none) (le b 6 2)

/-- The routes of a command. -/
def routesOf (a : List Byte) (s : State) : List Route := (List.range (itemCount a)).map fun i => routeOf (routeBytes a i) s

/-- Routes given their channels, the later of two for one channel in force (R12). -/
def mergeRoutes (old new : List Route) : List Route :=
  new.foldl (fun l r => l.filter (fun x => !(x.port == r.port && x.ch == r.ch)) ++ [r]) old

def cmpFid (f : Nat) : Bool := decide (0x0D02 ≤ f) && decide (f ≤ 0x0D06)

def specPortRoute : Spec :=
  { itemCmd 0x0681 tZero [] cmpFid with
    used := fun a => match itemAction a with
      | 0 => [(0, 3), (8, 8 * itemCount a)]
      | 1 => [(0, 8), (8, 8 * itemCount a)]
      | _ => [(0, 4)]
    extent := fun a => if itemAction a = 2 then 4 else 8 + 8 * itemCount a
    range := fun s _ a => oneOf a 1 [0, 1, 2] ++
      (match itemAction a with
        | 0 => require (decide (itemCount a ≤ 8)) 2 ++ (List.range (itemCount a)).filterMap fun i =>
            (badRoute (routeBytes a i) s).map fun k => (8 + 8 * i + k, .outOfRange)
        | 1 => require (decide (itemArg8 a < 4)) 3 ++ require (decide (itemArg32 a < 96)) 4 ++ itemOffences cmpFid (fun _ _ => true) a
        | _ => require (decide (itemArg8 a < 4)) 3) }

/-- The running ports that a set of routes concerns. -/
def routePorts (l : List Route) (s : State) : List (Fin 14) :=
  (List.finRange 14).filter fun p => l.any (·.port == p.val) && portRuns s.port.ports[p]

/-- The frames of a ramp of 5 ms at a port's rate. -/
def rampFramesOf (x : Port) : Nat := portRate x * 5 / 1000

/-- A route comes into force on a channel whose route was `e` (R279, R291, R293): with another LATENCY of the same source, or while the
channel ramps to mute, it follows when the channel is mute; else the two cross-fade. -/
def Route.replace (n : Nat) (e r : Route) : Route :=
  if e.gone || e.src == .none then { r with old := some (.none, 0) }
  else if e.src == r.src && e.latency == r.latency then { e with next := none }
  else if e.src == r.src || (decide (0 < e.gain) && decide (e.gain < n)) then { e with next := some (r.src, r.latency) }
  else { r with old := some (e.src, e.latency), gain := e.gain }

/-- Routes come into force. On a port that does not run they stand at once. -/
def setRoutes (l : List Route) (s : State) : State :=
  let place (r : Route) : Route :=
    match idx 14 r.port, s.port.routes.find? (fun e => e.port == r.port && e.ch == r.ch) with
    | some p, some e => if s.port.ports[p].grid.isSome then Route.replace (rampFramesOf s.port.ports[p]) e r else r
    | some p, none => if s.port.ports[p].grid.isSome then { r with old := some (.none, 0) } else r
    | _, _ => r
  modPortSt (fun o => { o with
    routes := (mergeRoutes o.routes (l.map place)).filter fun r => r.src != .none || r.gone || r.old.isSome || r.next.isSome }) s

/-- The comparison of R288 begins. -/
def startCompare (h : Held) (s : State) : State :=
  let a := Entry.args h.entry
  match idx 4 (itemArg8 a), idx 96 (itemArg32 a) with
  | some i, some v =>
    let y := s.audio.svcs[v]
    if s.port.ains[i].cmp.isSome then reject h .errState s
    else if y.st = .free then fail h .errParam (Entry.offset h.entry 4) .outOfRange s
    else match idx 64 y.ctx with
      | some c =>
        match regrow c s (modAin i (fun x => { x with
            cmp := some v, cmpCfg := itemsOf h, cmpState := 0, cmpDelay := 0, line := Line.reset, loudHist := [], bands := [], words := [],
            subEnd := 0,
            cmpSub := none, cmpWin := y.subEnd, cmpBad := none, cmpStudio := none, cmpAir := none, cmpAt := now s }) s) with
        | some t => followCompare i (finishC h t)
        | none => reject h .noResource s
      | none => reject h .errState s
  | _, _ => reject h .errState s

/-- PORT_ROUTE: routes without COMMIT are staged; with it they apply, with those staged before, at the next shared block boundary of their
running ports, or at once where none of them runs (R279, R293). -/
def doPortRoute (h : Held) (s : State) : State :=
  let a := Entry.args h.entry
  match itemAction a with
  | 0 =>
    let l := routesOf a s
    if !itemCommit a then finishC h (modPortSt (fun o => { o with staged := mergeRoutes o.staged l }) s)
    else if (routePorts (s.port.staged ++ l) s).isEmpty then
      finishC h (modPortSt (fun o => { o with staged := [] }) (setRoutes (mergeRoutes s.port.staged l) s))
    else park h [] s
  | 1 => startCompare h s
  | _ => match idx 4 (itemArg8 a) with
    | some i => if s.port.ains[i].cmp.isNone then reject h .errState s else finishC h (endCompare i s)
    | none => reject h .errState s

def execPortRoute (e : Entry) (s : State) : Host.Outcome State Fault Refusal :=
  .next (hostCmd (.portRoute e) specPortRoute doPortRoute e s)

/-! ### PORT_SLOTMASK, PORT_CHSTATUS_SET, PORT_INPUT_STATUS (R272, R276, R282, R340) -/

def specPortSlotmask : Spec :=
  { plain 0x0682 12 (fun s t => tUnit 14 s t && isTdm (portNo t)) [(8, 4)] with remote := remoteUnit }

/-- The mask that a command brings. -/
def maskOf (h : Held) : BitVec 32 := BitVec.ofNat 32 (le (Entry.args h.entry) 8 4)

/-- PORT_SLOTMASK commits its mask when it is accepted (R276): on a port that runs the mask waits for a frame. -/
def doPortSlotmask (h : Held) (s : State) : State :=
  match portOf h with
  | some p =>
    if s.port.ports[p].grid.isSome then park h [dtInt (now s)] s else finishC h (modPort p (fun x => { x with mask := maskOf h }) s)
  | none => s

def execPortSlotmask (e : Entry) (s : State) : Host.Outcome State Fault Refusal :=
  .next (hostCmd (.portSlotmask e) specPortSlotmask doPortSlotmask e s)

/-! ### TDM frames (R275, R276) -/

/-- Bit `k` of a line of a TDM frame: 16 slots of 32 bits, each with a 24-bit sample MSB first and 8 zeros; a masked slot is zero or in high
impedance (none). -/
def slotBit (x : Port) (mask : BitVec 32) (line : Nat) (words : List (BitVec 24)) (k : Nat) : Option Bool :=
  let slot := 16 * line + k / 32
  if mask.getLsbD slot then if fget x.cfg 0x0C09 = 1 then none else some false
  else some (decide (k % 32 < 24) && (words.getD slot 0).getLsbD (23 - k % 32))

/-- The level of FS in BCLK period `k` of a frame (R292): for one BCLK or the first 32, with the polarity of FS_POL. -/
def fsLevel (x : Port) (k : Nat) : Bool :=
  (decide (k < if fget x.cfg 0x0C05 = 1 then 32 else 1)) != (fget x.cfg 0x0C06 == 1)

/-- A frame of 512 BCLK (R275): FS, SD0 and SD1 in each period; the data follow FS by DATA_DELAY, so with 1 the first period has the last
bit of the frame before. -/
def tdmFrame (x : Port) (mask : BitVec 32) (words : List (BitVec 24)) : List (Bool × Option Bool × Option Bool) :=
  (List.range 512).map fun k =>
    let b := (k + 512 - (fget x.cfg 0x0C07).toNat) % 512
    (fsLevel x k, slotBit x mask 0 words b, slotBit x mask 1 words b)

/-- What a TDM port sends of its block from frame `n` on. -/
def sendTdm (p : Fin 14) (n : Nat) (s : State) : State :=
  let x := s.port.ports[p]
  let frames := (List.range (192 - n)).flatMap fun j => tdmFrame x x.mask (x.sent.map fun l => (l.getD (n + j) (0, true)).1)
  emit (.tdm p.val (dtAdd x.blockAt (n * 2 ^ 32 / 48000)) (bitEdges s) (fget x.cfg 0x0C08 == 0) frames) s

/-- Two periods of BCLK in DT units, 81.4 ns (R276). -/
def twoBclk : Nat := ceilDiv (2 * 2 ^ 32) 24576000

/-- A frame of a TDM port begins: every mask committed at least 2 BCLK before it applies, the last in force (R276, R291). A slot that becomes
unmasked starts with what its buffer holds for that frame. -/
def execSlotmaskFrameApply (t : DT) (tdm : Fin 2) (s : State) : Host.Outcome State Fault Refusal :=
  let s := moment t s
  let p : Fin 14 := ⟨12 + tdm.val, by omega⟩
  let x := s.port.ports[p]
  let n := dtSince x.blockAt (now s) * 48000 / 2 ^ 32
  let frame := dtAdd x.blockAt (n * 2 ^ 32 / 48000)
  let l := (waiting 0x0682 p.val s).filter fun h => decide ((h.aux.getD 1 0).toNat + twoBclk ≤ frame.toNat) || x.grid.isNone
  .next (if l.isEmpty then s
    else
      let s := l.foldl (fun s h => finish h .ok [(24, 8, dtInt (if x.grid.isSome then frame else now s))] (modPort p (fun x => { x with mask := maskOf h }) s)) s
      if x.grid.isSome && !x.sent.isEmpty && decide (n < 192) then sendTdm p n s else s)

def specPortChstatusSet : Spec :=
  { plain 0x0683 48 (tUnit 8) [(0, 48)] with remote := remoteUnit }

/-- The image of a command under its mask: a clear bit gives 0. -/
def imageOf (h : Held) : List Byte :=
  let a := Entry.args h.entry
  (List.range 24).map fun i => a.getD i 0 &&& a.getD (24 + i) 0

def doPortChstatusSet (h : Held) (s : State) : State :=
  match portOf h with
  | some p => if portRuns s.port.ports[p] then park h [] s else finishC h (modPort p (fun x => { x with image := imageOf h }) s)
  | none => s

def execPortChstatusSet (e : Entry) (s : State) : Host.Outcome State Fault Refusal :=
  .next (hostCmd (.portChstatusSet e) specPortChstatusSet doPortChstatusSet e s)

def specPortInputStatus : Spec :=
  { outCmd 0x0684 0 (fun s t => tUnit 12 s t && decide (8 ≤ portNo t)) [] with remote := remoteUnit }

/-- The area of PORT_INPUT_STATUS. -/
def inputStatus (a : Ain) : List Byte :=
  pack 0 24 [(0, 1, bit a.locked), (1, 1, a.rate), (2, 1, bit (!a.professional)), (3, 1, bit a.nonAudio), (4, 4, a.ppm), (8, 4, a.parity),
    (12, 4, a.biphase), (16, 1, a.cmpState.val)] ++ fit 24 a.csA ++ fit 24 a.csB

def doPortInputStatus (h : Held) (s : State) : State :=
  match idx 4 (h.entry.target.toNat - 8) with
  | some i => finishOut h .ok (inputStatus s.port.ains[i]) none s
  | none => s

def execPortInputStatus (e : Entry) (s : State) : Host.Outcome State Fault Refusal :=
  .next (hostCmd (.portInputStatus e) specPortInputStatus doPortInputStatus e s)

/-! ### What a channel plays (R273, R274, R277, R279, R280) -/

/-- Whether a route's source delivers audio now: a service that runs, an input that is locked with audio. -/
def srcDelivers (r : Route) (s : State) : Bool :=
  match r.src with
  | .none => false
  | .svc v _ => s.audio.svcs[v].st == .running
  | .ain i _ => s.port.ains[i].locked && !s.port.ains[i].nonAudio
  | .tone | .silence => true

/-- The route of a channel. -/
def routeAt (p : Fin 14) (ch : Nat) (s : State) : Option Route := s.port.routes.find? fun r => r.port == p.val && r.ch == ch

/-- Whether a channel ramps to mute or is mute (R273): no route, a muted or missing source, MUTE, a stop (R292), both PLLs lost (R71), or a
restart whose mute lasts until the source delivers (R294). -/
def channelMuted (p : Fin 14) (ch : Nat) (s : State) : Bool :=
  fget s.port.ports[p].cfg 0x0C04 == 1 || s.port.ports[p].stopping || s.time.bothLost || !isRunning s
    || (match routeAt p ch s with | some r => r.gone || r.muted || !srcDelivers r s | none => true)

/-- A sample that an output plays: its value, V, and CONCEALED and MUTED of its source. -/
structure OutSample where
  v : Int
  invalid : Bool
  conc : Bool
  mute : Bool
  deriving DecidableEq, Repr

/-- The sample of a muted channel: zero with V = 1 (R273). -/
def OutSample.zero : OutSample := { v := 0, invalid := true, conc := false, mute := false }

/-- A channel of a service: L, R or M (R279). -/
def pick (k : Fin 3) (f : AFrame) : Int := match k with | 0 => f.l | 1 => f.r | 2 => meanOf f.l f.r

/-- What a line holds for an instant in DT units, converted to a rate (R277, R279). -/
def Line.sample (fs : Nat) (at_ : Int) (k : Fin 3) (x : Line) : Option OutSample :=
  match x.start with
  | none => none
  | some t =>
    let q := (at_ - dtInt t) * 48000
    let n := q / 2 ^ 32
    match x.frame? n with
    | some f =>
      let l := (List.range 32).map fun (i : Nat) => match x.frame? (n - 15 + (i : Int)) with | some g => pick k g | none => 0
      some { v := Config.interpolated fs l (q % 2 ^ 32).toNat, invalid := f.mute, conc := f.conc, mute := f.mute }
    | none => none

/-- The bits of a biphase source's words (PRESUMED from AES3 and IEC 60958, log entry 44): 24 where its channel status says so, else 20; what
lies below them is padded with zeros (R271). -/
def padWord (pro : Bool) (cs : List Byte) (w : BitVec 24) : BitVec 24 :=
  let full := if pro then (cs.getD 2 0 &&& 7) == 4 || (cs.getD 2 0 &&& 7) == 1 else (cs.getD 4 0 &&& 1) == 1
  if full then w else w &&& 0xFFFFF0

/-- What the buffer of an input holds for an instant in DT units, converted to a rate (R279, R282). Non-audio is zeros with V = 1 (R274),
and so is what was not received. -/
def Ain.sample (fs : Nat) (at_ : Int) (ch : Fin 2) (a : Ain) : Option OutSample :=
  let chan (b : AinHeld) : List AinSample := if ch = 0 then b.a else b.b
  let val (x : AinSample) : Int := (padWord a.professional (if ch = 0 then a.csA else a.csB) x.word).toInt
  match a.buf.findIdx? (fun b => decide (dtInt b.stamp ≤ at_) && decide (at_ < dtInt b.stamp + (b.span : Int))) with
  | some k =>
    let of (b : Option AinHeld) : List AinSample := match b with | some b => chan b | none => []
    let older := of (a.buf[k + 1]?)
    let newer := if k = 0 then [] else of (a.buf[k - 1]?)
    match a.buf[k]? with
    | some b =>
      let q := ((at_ - dtInt b.stamp).toNat * (chan b).length) * 2 ^ 32 / max 1 b.span
      let n := q / 2 ^ 32
      match (chan b)[n]? with
      | some x =>
        if x.nonAudio || x.v && x.word == 0 || b.bad then some OutSample.zero
        else
          let l := older ++ chan b ++ newer
          let w := (List.range 32).map fun (i : Nat) =>
            let m : Int := ((older.length + n + i : Nat) : Int) - 15
            if m < 0 then 0 else match l[m.toNat]? with | some y => val y | none => 0
          some { v := Config.interpolated fs w (q % 2 ^ 32), invalid := false, conc := false, mute := false }
      | none => none
    | none => none
  | none => none

/-- TONE at a frame (R279): 997 Hz at 0.1 of full scale. -/
def toneAt (fs n : Nat) : Int := ratio (Config.sine (997 * n % fs) fs * 8388608) (10 * 2 ^ 30)

/-- What a source gives for an instant, and for TONE a frame. -/
def srcSample (fs n : Nat) (at_ : Int) (src : RouteSrc) (s : State) : Option OutSample :=
  match src with
  | .none => none
  | .svc v k => s.audio.svcs[v].line.sample fs at_ k
  | .ain i k => s.port.ains[i].sample fs at_ k
  | .tone => some { v := toneAt fs n, invalid := false, conc := false, mute := false }
  | .silence => some { v := 0, invalid := false, conc := false, mute := false }

/-- The delay of a source with a LATENCY in DT units. -/
def delayOf (src : RouteSrc) (lat : Nat) (s : State) : Nat := msDt (if lat = 0 then autoLatency src s else lat)

/-- A change of LATENCY acts once the channel is mute (R293): a longer one holds zeros for the difference, a shorter one skips it. -/
def Route.move (fs : Nat) (s : State) (r : Route) : Route :=
  match r.next with
  | some (src, lat) =>
    let ms (l : Nat) : Nat := if l = 0 then autoLatency src s else l
    if src = r.src ∧ r.gain = 0 then
      { r with latency := lat, next := none, zeros := (ms lat - ms r.latency) * fs / 1000 }
    else r
  | none => r

/-- A frame of a channel (R273, R277, R279, R280): `j` its number in the block, `n` since the port's start, `t` the instant at which it is played.
A channel that is muted goes on down its ramp, another up; a source that has just been given cross-fades with the one before. -/
def playFrame (x : Port) (down : Bool) (j n : Nat) (t : Int) (s : State) (r : Route) : Route × OutSample :=
  let fs := portRate x
  let top := rampFramesOf x
  let gain := if down || r.next.isSome then min r.gain top - 1 else if r.zeros ≠ 0 then 0 else min top (r.gain + 1)
  let got := match r.held with
    | some (line, k) => line.sample fs (t - (msDt r.latency : Nat)) k
    | none => srcSample fs n (t - (delayOf r.src r.latency s : Nat)) r.src s
  let new := got.getD OutSample.zero
  let f := match r.old with
    | some (src, lat) =>
      let was := (srcSample fs n (t - (delayOf src lat s : Nat)) src s).getD OutSample.zero
      if j < 64 then { new with v := rampTo 64 (j + 1) new.v + rampTo 64 (63 - j) was.v, invalid := new.invalid && was.invalid } else new
    | none => new
  let f := if gain = 0 then { OutSample.zero with mute := f.mute } else { f with v := rampTo top gain f.v }
  ((Route.move fs s { r with gain := gain, zeros := r.zeros - 1, held := if gain = 0 then none else r.held }), f)

/-- The 192 frames of a channel's block and its route after them. -/
def playChannel (p : Fin 14) (play : DT) (ch : Nat) (s : State) : Option Route × List OutSample :=
  match routeAt p ch s with
  | none => (none, List.replicate 192 OutSample.zero)
  | some r =>
    let x := s.port.ports[p]
    let down := channelMuted p ch s
    let r := match r.next with
      | some (src, lat) => if r.gain = 0 ∧ src ≠ r.src then { r with src := src, latency := lat, next := none } else r
      | none => r
    let e := (List.range 192).foldl (fun (e : Route × List OutSample) j =>
      let t := dtInt play + ((j * 2 ^ 32 / portRate x : Nat) : Int)
      let k := playFrame x down j (x.frames + j) t s e.1
      (k.1, k.2 :: e.2)) (r, [])
    (some { e.1 with old := none }, e.2.reverse)

/-- CONTENT_DT of a channel's block (R277, R281): LATENCY before its PLAY_DT; a channel without a source of its own has none but PLAY_DT. -/
def contentDt (p : Fin 14) (ch : Nat) (play : DT) (s : State) : DT :=
  match routeAt p ch s with
  | some r => play - BitVec.ofNat 64 (delayOf r.src r.latency s)
  | none => play

/-- The channels of a port, and those that are driven: both of a biphase output, the unmasked slots of a TDM port (R275, R276). -/
def channelsOf (p : Fin 14) : List Nat := if isTdm p.val then List.range 32 else [0, 1]
def drivenChannels (p : Fin 14) (s : State) : List Nat :=
  (channelsOf p).filter fun ch => !isTdm p.val || !s.port.ports[p].mask.getLsbD ch

/-- The number of a channel as a capture source (R426). -/
def captureChannel (p : Fin 14) (ch : Nat) : Nat := if isTdm p.val then 16 + 32 * (p.val - 12) + ch else 2 * p.val + ch

/-! ### The block of an output (R271, R272, R281) -/

/-- AES3 CRCC of bytes 0 to 22 (PRESUMED: polynomial x^8 + x^4 + x^3 + x^2 + 1, initial value all ones, log entry 44). -/
def crcc (l : List Byte) : Byte :=
  l.foldl (fun c b => (List.range 8).foldl (fun r _ => if r.getLsbD 0 then (r >>> 1) ^^^ 0xB8 else r >>> 1) (c ^^^ b)) 0xFF

/-- The sampling-frequency code of the channel status: professional byte 0 bits 7:6 and byte 4 bits 6:3, consumer byte 3 bits 3:0
(PRESUMED from AES3 and IEC 60958, log entry 44). -/
def fsCode (pro : Bool) (fs : Nat) : List (Nat × Byte × Byte) :=
  match pro, fs with
  | true, 32000 => [(0, 0xC0, 0xC0), (4, 0x78, 0)]
  | true, 44100 => [(0, 0xC0, 0x40), (4, 0x78, 0)]
  | true, 48000 => [(0, 0xC0, 0x80), (4, 0x78, 0)]
  | true, _ => [(0, 0xC0, 0), (4, 0x78, 0x10)]
  | false, 32000 => [(3, 0x0F, 0x03)]
  | false, 44100 => [(3, 0x0F, 0)]
  | false, 48000 => [(3, 0x0F, 0x02)]
  | false, _ => [(3, 0x0F, 0x0A)]

/-- Bits of a byte of the image replaced. -/
def setBits (l : List Byte) (x : Nat × Byte × Byte) : List Byte := l.set x.1 ((l.getD x.1 0 &&& ~~~ x.2.1) ||| x.2.2)

/-- The time-of-day sample address (R272). -/
def todAddress (fs : Nat) (t : DT) : Nat := (dtSec t % 86400) * fs + (t.toNat % 2 ^ 32) * fs / 2 ^ 32

/-- The channel status that a port sends in a block (R272): the fields the device generates over the image. -/
def chStatus (x : Port) (t : DT) : List Byte :=
  let pro := fget x.cfg 0x0C02 == 0
  let l := setBits (fit 24 x.image) (0, 1, if pro then 1 else 0)
  let l := (fsCode pro (portRate x)).foldl setBits l
  if pro then
    let l := setBits l (2, 0x3F, 0x2C)
    let l := if fget x.cfg 0x0C03 = 0 then
        patch (patch l 14 (leBytes 4 x.frames)) 18 (leBytes 4 (todAddress (portRate x) t))
      else l
    l.take 23 ++ [crcc (l.take 23)]
  else setBits (setBits l (0, 2, 0)) (4, 0x0F, 0x0B)

/-- A subframe (R271): its preamble (0 Z, 1 X, 2 Y), then its 28 bits in the order sent: 24 audio bits LSB first, V, U = 0, C, and P, which makes
their parity even. -/
def subframe (pre : Nat) (word : BitVec 24) (v c : Bool) : Nat × BitVec 28 :=
  let b : BitVec 28 := word.setWidth 28 ||| (if v then 0x1000000#28 else 0) ||| (if c then 0x4000000#28 else 0)
  let odd := (List.range 28).foldl (fun q i => q != b.getLsbD i) false
  (pre, if odd then b ||| 0x8000000#28 else b)

/-- The subframes of a block: the Z preamble opens frame 0, and the C bits of the frames are the channel status. -/
def subframes (cs : List Byte) (sent : List (List (BitVec 24 × Bool))) : List (Nat × BitVec 28) :=
  (List.range 192).flatMap fun j =>
    let c := (cs.getD (j / 8) 0).getLsbD (j % 8)
    let of (ch : Nat) : BitVec 24 × Bool := (sent.getD ch []).getD j (0, true)
    [subframe (if j = 0 then 0 else 1) (of 0).1 (of 0).2 c, subframe 2 (of 1).1 (of 1).2 c]

/-- The bytes of an output block (R281, R429). -/
def outputBlock (play content : DT) (l : List OutSample) : List Byte :=
  pack 0 32 [(0, 8, dtInt play), (8, 8, dtInt content), (16, 2, l.countP (·.conc)), (18, 2, l.countP (·.mute)), (20, 2, l.countP (·.invalid))]
    ++ l.flatMap fun x => leBytes 4 (256 * x.v + bit x.invalid)

/-- The block of a channel is reported with its stamps and counts where the channel is driven, and recorded (R281, R426). -/
def sendChannel (p : Fin 14) (play : DT) (s : State) (x : Nat × DT × List OutSample) : State :=
  let s := recordFrom 4 (captureChannel p x.1) play (outputBlock play x.2.1 x.2.2) s
  if (drivenChannels p s).contains x.1 then
    emit (.channel p.val x.1 play x.2.1 (x.2.2.countP (·.conc)) (x.2.2.countP (·.mute)) (x.2.2.countP (·.invalid))) s
  else s

/-- A port sends a block, which begins at `play` (R271 to R275, R281): every channel is played, masked slots too. -/
def sendBlock (p : Fin 14) (play : DT) (s : State) : State :=
  let l := (channelsOf p).map fun ch => (ch, contentDt p ch play s, playChannel p play ch s)
  let cs := chStatus s.port.ports[p] play
  let s := modPortSt (fun o => { o with
    routes := (o.routes.map fun r => match l.find? (fun x => r.port == p.val && r.ch == x.1) with
      | some x => x.2.2.1.getD r
      | none => r).filter fun r => r.src != .none || r.gone || r.next.isSome || r.old.isSome }) s
  let s := modPort p (fun x => { x with
    blockAt := play, sent := l.map fun e => e.2.2.2.map fun k => (BitVec.ofInt 24 k.v, k.invalid), frames := x.frames + 192 }) s
  let s := (l.map fun e => (e.1, e.2.1, e.2.2.2)).foldl (sendChannel p play) s
  let x := s.port.ports[p]
  if isTdm p.val then sendTdm p 0 s
  else emit (.biphase p.val play (cellEdges x s) (subframes cs x.sent)) (emit (.chanStatus p.val cs) s)

/-- Routes whose source is gone become NONE at the boundary; they stay to be reported as SOURCE_GONE (R280). -/
def clearGone (p : Fin 14) : State → State :=
  modPortSt fun o => { o with routes := o.routes.map fun r => if r.port == p.val && r.gone then { r with src := .none } else r }

/-- TONE and SILENCE play again after a restart once the device runs (R294). -/
def selfPlays (s : State) : State :=
  if !isRunning s then s
  else modPortSt (fun o => { o with routes := o.routes.map fun r =>
    if r.src == .tone || r.src == .silence then { r with muted := r.muted && r.gone } else r }) s

/-- The PORT_ROUTE commands that wait and whose running ports all have a boundary now (R279). -/
def applyRoutes (p : Fin 14) (s : State) : State :=
  (waiting 0x0681 0 s).foldl (fun s h =>
    let l := mergeRoutes s.port.staged (routesOf (Entry.args h.entry) s)
    let ps := routePorts l s
    if ps.isEmpty || (ps.contains p && ps.all fun q => q == p || onGrid (now s) s.port.ports[q]) then
      finishC h (modPortSt (fun o => { o with staged := [] }) (setRoutes l s))
    else s) s

/-- Whether every channel of a port has come down its ramp. -/
def rampsDown (p : Fin 14) (s : State) : Bool := s.port.routes.all fun r => r.port != p.val || r.gain == 0

/-- What waits for a boundary of a port applies there, the values of several commands together (R12). -/
def portBoundary (p : Fin 14) (s : State) : State :=
  let l := waiting 0x0680 p.val s
  let s := if l.isEmpty then s else applyPort p (l.flatMap itemsOf) s
  let s := l.foldl (fun s h => finishC h s) s
  let s := (waiting 0x0683 p.val s).foldl (fun s h => finishC h (modPort p (fun x => { x with image := imageOf h }) s)) s
  setDividers (selfPlays (clearGone p (applyRoutes p s)))

/-- A block of an output port begins on its grid (R270 to R272, R279, R292): what waits for the boundary applies, then the block goes out.
After the loss of both PLLs the dividers move to the new one first (R71, R291). A stop is carried out when the ramps are down. Where the VCO
has stopped the outputs have stopped with it (R71). -/
def execPortBlockBoundary (t : DT) (port : Fin 14) (s : State) : Host.Outcome State Fault Refusal :=
  let s := moment t s
  let x := s.port.ports[port]
  .next (match x.grid with
    | some g =>
      let n := framesAt (now s) x g
      if isAin port.val || (s.time.bothLost && s.time.vcoStopped) || !onGrid (now s) x || decide (n < x.frames) then s
      else
        let s := modPort port (fun x => { x with frames := n }) (if s.port.toMove then dividersAgain s else s)
        if x.stopping && rampsDown port s then setDividers (stopPort port s)
        else
          let s := portBoundary port s
          match s.port.ports[port].grid with
          | some g => sendBlock port (frameAt s.port.ports[port] g s.port.ports[port].frames) s
          | none => s
    | none => s)

/-! ### Biphase inputs (R282 to R287) -/

/-- The rates of R282 in hertz. -/
def ainRate (code : Nat) : Nat :=
  match code with
  | 0 => 32000
  | 1 => 44100
  | 2 => 48000
  | 3 => 88200
  | _ => 96000

/-- The port number of an input. -/
def ainPort (i : Fin 4) : Nat := 8 + i.val

/-- Whether an input is enabled. -/
def ainOn (i : Fin 4) (s : State) : Bool := fget (s.port.ports[(⟨8 + i.val, by omega⟩ : Fin 14)]).cfg 0x0C00 == 1

/-- An input loses lock (R284). -/
def loseAin (i : Fin 4) (s : State) : State :=
  let a := s.port.ains[i]
  if !a.locked then s
  else
    followCompare i (raise .ainClockLost [(16, 1, ainPort i), (17, 1, 0), (24, 8, dtInt a.lastGood)]
      (modAin i (fun a => { a with locked := false, blocks := 0, lostAt := some a.lastGood, changeFrom := none, fresh := [] }) s))

/-- A change of the non-audio state (R286). -/
def nonAudio (i : Fin 4) (on : Bool) (cause dataType : Nat) (s : State) : State :=
  followCompare i (raise .ainNonaudio [(16, 1, ainPort i), (17, 1, bit on), (18, 1, cause), (19, 1, dataType), (24, 8, dtInt (now s))]
    (modAin i (fun a => { a with nonAudio := on, dataType := dataType }) s))

/-- A block of an input goes to the class-1 buffers with the stamp of its Z preamble and its samples (R282, R287). -/
def ainBlock (i : Fin 4) (stamp : DT) (l : List (AinSample × AinSample)) (s : State) : State :=
  let a := s.port.ains[i]
  let n := 0x8000 + ainPort i
  let bytes := pack 0 32 [(0, 8, dtInt stamp), (8, 2, n), (10, 2, 0xFFFF), (12, 2, (if a.startFlag then 17 else 16)), (20, 4, a.seq.toNat)]
    ++ l.flatMap fun x => leBytes 4 (256 * (x.1.word.toNat : Int)) ++ leBytes 4 (256 * (x.2.word.toNat : Int))
  deliver 0
    { producer := n, kind := 0, flags := 0, ctx := 0xFFFF, seq := a.seq.toNat, dt := stamp, aux := 0, payload := bytes, total := bytes.length,
      block := true, sherd := none }
    (modAin i (fun a => { a with seq := a.seq + 1, startFlag := false }) s)

/-- The subframes of a block that have a fault, each counted once (R283). -/
def faultsOf (b : AinBlock) : Nat :=
  b.frames.countP (fun f => f.1.parity || f.1.biphase) + b.frames.countP (fun f => f.2.parity || f.2.biphase)

/-- The parity errors and the biphase violations of a block (R282). -/
def parityOf (b : AinBlock) : Nat := b.frames.countP (·.1.parity) + b.frames.countP (·.2.parity)
def biphaseOf (b : AinBlock) : Nat := b.frames.countP (·.1.biphase) + b.frames.countP (·.2.biphase)

/-- How far a block's frame rate lies from a nominal one, over it: the numerator and the denominator. -/
def rateOff (code : Nat) (span : Nat) : Nat × Nat := (((192 * 2 ^ 32 : Nat) : Int) - ((span * ainRate code : Nat) : Int) |>.natAbs, span * ainRate code)

/-- The nominal rate of a block, within 1000 ppm (R282). -/
def nominalOf (b : AinBlock) : Option (Fin 5) :=
  (List.finRange 5).find? fun k => decide ((rateOff k.val b.span).1 * 1000 ≤ (rateOff k.val b.span).2)

/-- Whether a block's rate lies more than 2 % from the current nominal one (R285). -/
def farFrom (code : Nat) (b : AinBlock) : Bool := decide ((rateOff code b.span).2 < 50 * (rateOff code b.span).1)

/-- The rate in ppm of the nominal one over the blocks of the last second (R282). -/
def ppmOf (code : Nat) (l : List AinHeld) (stop : Nat) : Int :=
  let l := l.filter fun b => decide (stop < b.stamp.toNat + 2 ^ 32)
  let span := sumOf (l.map (·.span))
  if span = 0 then 0
  else ratio (1000000 * (((192 * l.length * 2 ^ 32 : Nat) : Int) - ((span * ainRate code : Nat) : Int))) (span * ainRate code)

/-- The samples of a channel: one with a fault is replaced by the one before it and flagged; while the input is non-audio the words stay raw
(R283, R286). -/
def repair (non : Bool) : BitVec 24 → List AinSub → List AinSample
  | _, [] => []
  | prev, x :: rest =>
    let bad := x.parity || x.biphase
    let w := if bad && !non then prev else x.word
    { word := w, v := x.v, u := x.u, c := x.c, err := bad, nonAudio := non } :: repair non w rest

/-- The channel status of a block: the C bits of its 192 frames. -/
def statusBytes (l : List AinSub) : List Byte :=
  (List.range 24).map fun k => (List.range 8).foldl (fun (b : Byte) i =>
    if (l[8 * k + i]?).any (·.c) then b ||| (1#8 <<< i) else b) 0

/-- The 16 MSBs of the subframes of a block, in the order received. -/
def msbWords (b : AinBlock) : List Nat := b.frames.flatMap fun f => [f.1.word.toNat / 256, f.2.word.toNat / 256]

/-- The burst preambles Pa, Pb of a row of words, with the word Pc after them: the places and Pc (R286). -/
def bursts (l : List Nat) : List (Nat × Nat) :=
  (List.range (l.length - 2)).filterMap fun i => if l.getD i 0 = 0xF872 ∧ l.getD (i + 1) 0 = 0x4E1F then some (i, l.getD (i + 2) 0) else none

/-- The routes from an input play again once it delivers (R294). -/
def ainPlays (i : Fin 4) : State → State :=
  modPortSt fun o => { o with routes := o.routes.map fun r => match r.src with
    | .ain k _ => if k = i then { r with muted := false } else r
    | _ => r }

/-- Whether a channel status says that the words are no linear PCM: its bit 1. -/
def csNonAudio (cs : List Byte) : Bool := testBit (cs.headD 0).toNat 1

/-- The frames of the studio feed at 48 kHz that lie in a block (R289), numbered from DT zero. -/
def studioFrames (a : Ain) (b : AinHeld) : Nat × List AFrame :=
  let first := ceilDiv (b.stamp.toNat * 48000) (2 ^ 32)
  let last := ceilDiv ((b.stamp.toNat + b.span) * 48000) (2 ^ 32)
  (first, (List.range (last - first)).map fun k =>
    let at_ : Int := (ceilDiv ((first + k) * 2 ^ 32) 48000 : Nat)
    match a.sample 48000 at_ 0, a.sample 48000 at_ 1 with
    | some p, some q => if p.invalid then AFrame.silent else { l := p.v, r := q.v, conc := false, mute := false }
    | _, _ => AFrame.silent)

/-- A second of the studio's signature, once its line reaches far enough (R289). -/
def signStudio (i : Fin 4) (s : State) : State :=
  let a := s.port.ains[i]
  let sec := a.line.second
  if !a.line.past? sec then s
  else
    let s := modAin i (fun a => { a with line := { a.line with second := sec + 1 } }) s
    match a.line.subs sec with
    | some subs =>
      let fresh := a.subEnd != 32 * sec
      let (words, s) := subWords (if fresh then [] else a.bands) subs s
      modAin i (fun a => { a with
        bands := ((subs.map (·.bands)).reverse ++ if fresh then [] else a.bands).take 2,
        words := (words.reverse ++ if fresh then [] else a.words).take 3000, subEnd := 32 * (sec + 1) }) s
    | none => s

/-- A block of a compared input joins the studio feed: its meter and its signature (R289, R290). -/
def feedStudio (i : Fin 4) (b : AinHeld) (s : State) : State :=
  if s.port.ains[i].cmp.isNone then s
  else
    signStudio i (modAin i (fun a =>
      let f := studioFrames a b
      let x := a.line.push (now s) (BitVec.ofNat 64 (ceilDiv (f.1 * 2 ^ 32) 48000)) f.2
      let x := x.take_ true true (x.wait.map (·.2))
      { a with
        line := { x with meter := { x.meter with done := [] } },
        loudHist := ((x.meter.done.filter fun b => !b.muted).reverse ++ a.loudHist).take 1200 }) s)

/-- The stamp of the last frame of a block. -/
def lastFrame (b : AinBlock) : DT := dtAdd b.stamp (b.span * 191 / 192)

/-- What a block of a locked input at its rate brings (R282, R283, R286, R287): the non-audio state, the 12 s buffers, the status, the
comparison, and with HOST_AUDIO ON a host block. -/
def takeBlock (i : Fin 4) (b : AinBlock) (s : State) : State :=
  let a := s.port.ains[i]
  let csA := statusBytes (b.frames.map (·.1))
  let csB := statusBytes (b.frames.map (·.2))
  let words := a.tail ++ msbWords b
  let found := bursts words
  let s := match a.nonAudio, csNonAudio csA || csNonAudio csB, found with
    | false, true, _ => nonAudio i true 0 0 s
    | false, false, k :: _ => nonAudio i true 1 (k.2 % 32) s
    | _, _, _ => s
  let non := s.port.ains[i].nonAudio
  let prev (l : List AinSample) : BitVec 24 := match l.getLast? with | some x => x.word | none => 0
  let h : AinHeld :=
    { stamp := b.stamp, span := b.span, a := repair non (prev ((a.buf.head?.map (·.a)).getD [])) (b.frames.map (·.1)),
      b := repair non (prev ((a.buf.head?.map (·.b)).getD [])) (b.frames.map (·.2)), bad := false }
  let buf := (h :: a.buf).filter fun x => decide (b.stamp.toNat < x.stamp.toNat + 12 * 2 ^ 32)
  let s := modAin i (fun a => { a with
    buf := buf, ppm := ppmOf a.rate buf b.stamp.toNat, professional := testBit (csA.headD 0).toNat 0, csA := csA, csB := csB,
    parity := a.parity + parityOf b, biphase := a.biphase + biphaseOf b, lastGood := lastFrame b, changeFrom := none, fresh := [],
    quiet := match found.getLast? with | some k => (words.length - k.1) / 2 | none => a.quiet + 192,
    tail := words.drop (words.length - 2) }) s
  let s := feedStudio i h (ainPlays i s)
  if fget (s.port.ports[(⟨8 + i.val, by omega⟩ : Fin 14)]).cfg 0x0C0C = 1 then ainBlock i b.stamp (h.a.zip h.b) s else s

/-- The gap record of one channel of an input: frames at a rate between two instants (R284, R285). -/
def ainGap (i : Fin 4) (count : Nat) (first last : DT) (s : State) : State :=
  gapSherd 4 (ainPort i) 0xFFFF count (dtInt first) (dtInt last) first last s

/-- The frames of a rate in a span, rounded down. -/
def framesIn (code span : Nat) : Nat := span * ainRate code / 2 ^ 32

/-- The interval of a loss in the buffers: zeros with V = 1 (R284). -/
def lostBlock (n : Nat) (first stop : DT) : AinHeld :=
  let x : AinSample := { word := 0, v := true, u := false, c := false, err := false, nonAudio := false }
  { stamp := first, span := dtSince first stop, a := List.replicate n x, b := List.replicate n x, bad := false }

/-- Frames that a locked receiver has not written, as over a restart (R294): a gap record for each channel. -/
def settleJump (i : Fin 4) (stop : DT) (s : State) : State :=
  let a := s.port.ains[i]
  let first := dtAdd a.lastGood (2 ^ 32 / ainRate a.rate)
  let n := framesIn a.rate (dtSince first stop + 8)
  if n = 0 then s
  else modAin i (fun a => { a with startFlag := true, buf := lostBlock n first stop :: a.buf })
    (ainGap i n first stop (ainGap i n first stop s))

/-- A block is received (R282 to R287): two blocks in a row at one rate lock the receiver; more than 16 subframes with faults lose lock; a
block whose rate is another by more than 2 % begins a rate change, and those that follow at its rate wait for the confirmation. DESIGN CHOICE
(log entry 111): one that is off by less is taken at the current rate. -/
def execAinBlockReceived (t : DT) (i : Fin 4) (b : AinBlock) (s : State) : Host.Outcome State Fault Refusal :=
  let s := moment t s
  let a := s.port.ains[i]
  .next (if !ainOn i s || a.lostAt.isSome then s
    else if !a.locked then
      match nominalOf b with
      | some k =>
        if a.blocks = 1 ∧ a.rate = k.val then
          followCompare i (takeBlock i b (modAin i (fun a => { a with locked := true, blocks := 2, startFlag := true, buf := [], tail := [] }) s))
        else modAin i (fun a => { a with rate := k.val, blocks := 1 }) s
      | none => modAin i (fun a => { a with blocks := 0 }) s
    else if 16 < faultsOf b then
      loseAin i (modAin i (fun a => { a with parity := a.parity + parityOf b, biphase := a.biphase + biphaseOf b }) s)
    else if !farFrom a.rate b then takeBlock i b (settleJump i b.stamp s)
    else modAin i (fun a => { a with
      changeFrom := some (a.changeFrom.getD b.stamp),
      fresh := if a.fresh.all fun x => nominalOf x == nominalOf b then a.fresh ++ [b] else [b] }) s)

/-- Bit 1 is clear and no burst has been seen for 16 384 frames (R286). -/
def execAinAudioReturn (t : DT) (i : Fin 4) (s : State) : Host.Outcome State Fault Refusal :=
  let s := moment t s
  let a := s.port.ains[i]
  .next (if a.nonAudio && !csNonAudio a.csA && !csNonAudio a.csB && decide (16384 ≤ a.quiet) then nonAudio i false 2 0 s else s)

/-- No valid preamble for three frame periods at the last rate (R284). -/
def execAinPreambleTimeout (t : DT) (i : Fin 4) (s : State) : Host.Outcome State Fault Refusal :=
  let s := moment t s
  let a := s.port.ains[i]
  .next (if decide (3 * 2 ^ 32 ≤ dtSince a.lastGood (now s) * ainRate a.rate) then loseAin i s else s)

/-- The instant after the last good frame of an input. -/
def afterGood (a : Ain) (d : DT) : DT := dtAdd d (2 ^ 32 / ainRate a.rate)

/-- The frames lost from the last good frame up to an instant (R284, R285). DEDUCED (log entry 111): that frame itself is not lost. -/
def lostFrames (a : Ain) (d stop : DT) : Nat := framesIn a.rate (dtSince (afterGood a d) stop + 8)

/-- AIN_RATE_CHANGE (R344). -/
def rateChange (i : Fin 4) (old new : Nat) (ppm : Int) (stamp : DT) (s : State) : State :=
  raise .ainRateChange [(16, 1, ainPort i), (17, 1, old), (18, 1, new), (20, 4, ppm), (24, 8, dtInt stamp)] s

/-- The ppm of one block from a nominal rate. -/
def blockPpm (code : Nat) (b : AinBlock) : Int :=
  ppmOf code [{ stamp := b.stamp, span := b.span, a := [], b := [], bad := false }] b.stamp.toNat

/-- The receiver locks again (R284): a gap record for each channel, AIN_CLOCK_LOST with LOCKED, and a rate change found then (R291). -/
def execAinRelock (t : DT) (i : Fin 4) (b : AinBlock) (s : State) : Host.Outcome State Fault Refusal :=
  let s := moment t s
  let a := s.port.ains[i]
  .next (match a.lostAt, nominalOf b with
    | some d, some k =>
      if !ainOn i s then s
      else
        let first := afterGood a d
        let n := lostFrames a d b.stamp
        let s := ainGap i n first b.stamp (ainGap i n first b.stamp s)
        let s := modAin i (fun a => { a with
          locked := true, blocks := 2, lostAt := none, rate := k.val, startFlag := true, tail := [], buf := lostBlock n first b.stamp :: a.buf }) s
        let s := raise .ainClockLost [(16, 1, ainPort i), (17, 1, 1), (20, 4, n), (24, 8, dtInt (now s))] s
        let s := if k.val = a.rate then s else rateChange i a.rate k.val (blockPpm k.val b) b.stamp s
        followCompare i (takeBlock i b s)
    | _, _ => s)

/-- A new rate is confirmed over two blocks at it (R285): the frames since the last block at the old rate are settled by a gap record for
each channel, and the buffers begin anew with the first block at the new one. -/
def execAinRateConfirmed (t : DT) (i : Fin 4) (s : State) : Host.Outcome State Fault Refusal :=
  let s := moment t s
  let a := s.port.ains[i]
  .next (match a.fresh with
    | b :: _ :: _ => match nominalOf b with
      | some k =>
        if !a.locked then s
        else
          let n := lostFrames a a.lastGood b.stamp
          let s := ainGap i n (afterGood a a.lastGood) b.stamp (ainGap i n (afterGood a a.lastGood) b.stamp s)
          let s := rateChange i a.rate k.val (blockPpm k.val b) b.stamp
            (modAin i (fun a => { a with rate := k.val, changeFrom := none, fresh := [], startFlag := true, buf := [], tail := [] }) s)
          a.fresh.foldl (fun s b => takeBlock i b s) s
      | none => s
    | _ => s)

/-- A rate change was not confirmed within 100 ms (R285). -/
def execAinRateChangeTimeout (t : DT) (i : Fin 4) (s : State) : Host.Outcome State Fault Refusal :=
  let s := moment t s
  .next (match s.port.ains[i].changeFrom with
    | some d => if msDt 100 ≤ dtSince d (now s) then loseAin i s else s
    | none => s)

/-- A DRAM error has spoilt a block of an input (R291, R431): it is flagged, and the comparison sees silence for it. -/
def spoilInput (i : Fin 4) (first stop : DT) : State → State :=
  modAin i fun a => { a with
    buf := a.buf.map fun b => if b.stamp = first then { b with bad := true } else b,
    words := a.words.zipIdx.map fun w =>
      let n := (a.subEnd - 1 - w.2) * 2 ^ 27
      if first.toNat < n + 2 ^ 28 ∧ n < stop.toNat then (w.1.1, false) else w.1 }

/-! ### The air-chain comparison (R290) -/

/-- A comparison reports at its period, CMP_PERIOD (R290). -/
def execAirchainReport (t : DT) (i : Fin 4) (s : State) : Host.Outcome State Fault Refusal :=
  let s := moment t s
  let a := s.port.ains[i]
  .next (if a.cmp.isNone || decide (dtSince a.cmpAt (now s) < (fget a.cmpCfg 0x0D03).toNat * 2 ^ 32) then s
    else reportCompare i false (followCompare i (modAin i (fun a => { a with cmpAt := now s }) s)))

end Sys2Proof.Machine
end

