-- ==== Sys2Proof/Machine/Memory.lean ====
section
/-!
DEFINITION. Memory.lean: the shared pool, time-shift rings, capture slots and the outcome of DRAM errors (R421 to R434).
-/
namespace Sys2Proof.Machine

/-! ### The shared pool (R423, R424, R493) -/

/-- The pool in MB for a usable DRAM size (R423). -/
def poolSize (gb : Nat) : Nat := if gb = 2 then 768 else if gb = 4 then 2560 else 6144

/-- The growth in MB of the time-shift depths that wait for their host block. -/
def pendingMb (s : State) : Nat :=
  (s.host.held.filter fun h => parked h && h.op == 0x0703).foldl (fun (n : Nat) h =>
    match idx 96 h.entry.target.toNat with
    | some v => n + (depthMb (le (Entry.args h.entry) 0 4) - depthMb s.mem.depth[v])
    | none => n) 0

/-- The free megabytes of the pool. -/
def poolFree (s : State) : Nat := s.mem.poolMb - (s.mem.usedMb + pendingMb s)

/-! ### Sources of a capture (R426) -/

/-- Whether an index names an object of a source. -/
def captureIndexOk (source index : Nat) : Bool :=
  match source with
  | 0 | 1 => decide (index < 2)
  | 2 => decide (index < 8)
  | 3 => decide (index < 64)
  | _ => decide (index < 80) || (decide (0x80 ≤ index) && decide (index < 0x80 + 96))

/-- The samples per second of a source, and the samples and bytes of its blocks (R426). A path that is closed has no rate. -/
def captureRate (source index : Nat) (s : State) : Nat × Nat × Nat :=
  match source with
  | 0 | 1 => (614400000, 4096, 8224)
  | 2 => match idx 8 index with
    | some c => (carverRate (fget s.rf.carvers[c].cfg 0x0302), 64, 528)
    | none => (0, 64, 528)
  | 3 => match idx 64 index with
    | some p => ((if s.cx.paths[p].run = .closed then 0 else s.cx.paths[p].fout), 64, 528)
    | none => (0, 64, 528)
  | _ =>
    if index < 16 then
      match idx 14 (index / 2) with
      | some p => (portRate s.port.ports[p], 192, 800)
      | none => (48000, 192, 800)
    else if index < 80 then (48000, 192, 800)
    else (48000, 192, 1568)

/-- The ring of a request in MB (R426): ceil of the span in blocks, one block more, rounded up to 1 MB. -/
def captureMb (source index pre post : Nat) (s : State) : Nat :=
  let (rate, samples, bytes) := captureRate source index s
  ceilDiv ((ceilDiv ((pre + post) * rate) (samples * 1000) + 1) * bytes) 1048576

/-- Whether a slot counts as armed (R426). -/
def Capture.armed (c : Capture) : Bool := c.st == .armed || c.st == .triggered

/-- The slots that take raw sources now, but for slot `k`. -/
def rawSlots (k : Fin 4) (s : State) : Nat :=
  (entries s.mem.slots).countP fun x => x.1 != k && x.2.armed && decide (x.2.source < 2)

/-! ### Class-4 reads (R430, R434) -/

/-- The MODE 0 reads that run on a slot. -/
def readsOf (k : Fin 4) (s : State) : List Held :=
  s.host.held.filter fun h => h.begun && h.op == 0x0702 && h.entry.target.toNat == k.val

/-- A release or a new arm of a slot: its reads end with ABORTED_HOST, its pages are unmapped, its reservation is returned. -/
def freeSlot (k : Fin 4) (s : State) : State :=
  let s := (readsOf k s).foldl (fun s h => reject h .abortedHost s) s
  modMem (fun m => { m with
    usedMb := m.usedMb - m.slots[k].ring,
    bar2 := match m.bar2 with
      | some (j, x) => if j = k.val then none else some (j, x)
      | none => none,
    slots := m.slots.set k Capture.reset }) s

/-- The header bytes of a block of a source, and the byte whose bit 3 is ERR (R429). DESIGN CHOICE (log entry 91): a service's block, whose
layout has no ERR, shows it as its MUTED_ANY. -/
def headerOf (source index : Nat) : Nat × Nat :=
  if source < 2 then (32, 9) else if source < 4 then (16, 9) else if index < 0x80 then (32, 22) else (32, 12)

/-- A block that a DRAM error has spoilt (R431): its samples are zeroed and it is flagged ERR. -/
def spoil (source index : Nat) (b : List Byte) : List Byte :=
  let (n, f) := headerOf source index
  b.mapIdx fun i x => if i = f then x ||| 8 else if i < n then x else 0

/-- The bytes of the span of a frozen slot (R430). -/
def Capture.content (c : Capture) : List Byte :=
  c.blocks.flatMap fun b => if c.badBlocks.contains b.1 then spoil c.source c.index b.2 else b.2

/-- Whether a stretch of a slot's span holds a byte of a block that a DRAM error has spoilt. -/
def Capture.bad (c : Capture) (off len : Nat) : Bool :=
  let size := blockSize c.source c.index
  c.blocks.zipIdx.any fun b => c.badBlocks.contains b.1.1 && decide (off < (b.2 + 1) * size) && decide (b.2 * size < off + len)

/-- Writes the next bytes of a read into the oldest class-4 buffer, which is returned: it is full, or has the read's last byte. A buffer
with a spoilt block returns with HW_FAULT and is covered by a gap record that names its COOKIE (R318, R431). OBJECT is a free value. -/
def readBuffer (k : Fin 4) (off left : Nat) (b : Buffer) (s : State) : State :=
  let n := min left b.len
  let bad := s.mem.slots[k].bad off n
  let s := putBytes 3 ((s.mem.slots[k].content.drop off).take n) n s
  if bad then
    let s := returnBuffer 3 .hwFault s
    useFree (gapSherd 2 (BitVec.ofInt 16 (freeNow s)).toNat 0xFFFF 1 (b.cookie.toNat : Int) 0 (now s) (now s) s)
  else returnBuffer 3 .ok s

/-- Carries the running reads on, in submission order, as far as the posted class-4 buffers reach. `aux` of a read holds its offset,
the bytes left and the bytes delivered; it completes after its last return entry. The fuel bounds the buffers and reads. -/
def pumpReads : Nat → State → State
  | 0, s => s
  | n + 1, s =>
    match s.host.held.find? (fun h => h.begun && h.op == 0x0702) with
    | some h =>
      match idx 4 h.entry.target.toNat, h.aux with
      | some k, [off, left, got] =>
        if left = 0 then
          if s.host.rings[(3 : Fin 4)].wait.isEmpty then pumpReads n (finish h .ok [(16, 4, got)] s) else s
        else match s.host.rings[(3 : Fin 4)].buffers with
          | b :: _ =>
            if canDeliver 3 s then
              let m := min left.toNat b.len
              pumpReads n (readBuffer k off.toNat left.toNat b (note h [off + m, left - m, got + m] s))
            else s
          | [] => s
      | _, _ => s
    | none => s

/-- Carries the running reads on. -/
def carryReads (s : State) : State := pumpReads (s.host.rings[(3 : Fin 4)].buffers.length + s.host.held.length + 1) s

/-! ### The capture commands -/

def capSource (a : List Byte) : Nat := le a 0 1
def capIndex (a : List Byte) : Nat := le a 1 1
def capPre (a : List Byte) : Nat := le a 4 4
def capPost (a : List Byte) : Nat := le a 8 4

def specMemCaptureArm : Spec :=
  { plain 0x0700 22 (tBelow 4) [(0, 3), (4, 18)] with
    bits := [(14, 0x0F), (15, 0), (16, 0), (17, 0), (18, 0), (19, 0)]
    range := fun _ _ a => oneOf a 0 [0, 1, 2, 3, 4] ++ require (captureIndexOk (capSource a) (capIndex a)) 1 ++ oneOf a 2 [0, 1] }

/-- MEM_CAPTURE_ARM begins (R424, R426): with PRE and POST both 0 it releases the slot. -/
def doMemCaptureArm (h : Held) (s : State) : State :=
  match idx 4 h.entry.target.toNat with
  | some k =>
    let a := Entry.args h.entry
    let c := s.mem.slots[k]
    let src := capSource a
    let mb := captureMb src (capIndex a) (capPre a) (capPost a) s
    if c.armed then reject h .errState s
    else if capPre a = 0 ∧ capPost a = 0 then finish h .ok [(16, 4, 0), (24, 8, dtInt (now s))] (freeSlot k s)
    else if src < 2 && capIndex a == 1 && !peerStream (src == 1) s then reject h .errState s
    else if 3072 < mb || (src < 2 && decide (2 ≤ rawSlots k s)) || decide (poolFree s + c.ring < mb) then reject h .noResource s
    else
      let s := modMem (fun m => { m with
        usedMb := m.usedMb + mb,
        slots := m.slots.set k { Capture.reset with
          st := .armed, source := src, index := capIndex a, event := le a 2 1 == 1, pre := capPre a, post := capPost a,
          mask := BitVec.ofNat 64 (le a 12 8), filter := le a 20 2, armedAt := now s, ring := mb } }) (freeSlot k s)
      finish h .ok [(16, 4, ((mb * 1048576 : Nat) : Int)), (24, 8, dtInt (now s))] s
  | none => s

def execMemCaptureArm (e : Entry) (s : State) : Host.Outcome State Fault Refusal :=
  .next (hostCmd (.memCaptureArm e) specMemCaptureArm doMemCaptureArm e s)

def specMemCaptureFreeze : Spec := plain 0x0701 0 (tBelow 4) []

/-- MEM_CAPTURE_FREEZE begins (R428): the manual trigger of an armed slot; it completes at the freeze. -/
def doMemCaptureFreeze (h : Held) (s : State) : State :=
  match idx 4 h.entry.target.toNat with
  | some k =>
    match s.mem.slots[k].st with
    | .armed => begin_ h (modSlot k (fun c => { c with st := .triggered, trigger := now s, reach := c.reachAt s, blocks := c.atTrigger s }) s)
    | .triggered => begin_ h s
    | _ => reject h .errState s
  | none => s

def execMemCaptureFreeze (e : Entry) (s : State) : Host.Outcome State Fault Refusal :=
  .next (hostCmd (.memCaptureFreeze e) specMemCaptureFreeze doMemCaptureFreeze e s)

/-- A block as its source gave it, with its stamp and bytes (R143, R429); none of another source's shape or length. -/
def ringBlock (c : Capture) (b : RingBlock) : Option (DT × List Byte) :=
  match b with
  | .raw stamp count gain step switched codes =>
    let clip := codes.any (·.2)
    if c.source < 2 ∧ codes.length = 4096 then
      some (stamp, pack 0 32 [(0, 8, dtInt stamp), (8, 1, c.source + 128 * c.index),
        (9, 1, bit clip + 2 * bit step.isSome + 4 * bit switched), (10, 2, gain), (12, 4, count), (16, 8, dtInt (step.getD 0))]
        ++ codes.flatMap fun x => leBytes 2 (4 * (x.1.toNat : Int) + 2 * bit x.2))
    else none
  | .carver stamp flags clips seq words =>
    if c.source = 2 ∧ words.length = 64 then
      some (stamp, pack 0 16 [(0, 8, dtInt stamp), (8, 1, 0x40 + c.index), (9, 1, flags), (10, 2, clips), (12, 4, seq)]
        ++ words.flatMap fun x => leBytes 4 x.1.toNat ++ leBytes 4 x.2.toNat)
    else none

/-- The span of a block of a source in DT units (R426). -/
def blockSpan (c : Capture) (s : State) : Nat :=
  let (rate, samples, _) := captureRate c.source c.index s
  if rate = 0 then 0 else samples * 2 ^ 32 / rate

/-- The blocks of the frozen span (R427): those that reach past the later of T − PRE and the ring's oldest block and begin before
T + POST. -/
def spanOfRing (c : Capture) (w : Nat) (l : List (DT × List Byte)) : List (DT × List Byte) :=
  let from_ := max c.reach.toNat (c.trigger.toNat - msDt c.pre)
  l.filter fun b => (decide (from_ < b.1.toNat + w) || b.1.toNat == from_) && decide (b.1.toNat < c.trigger.toNat + msDt c.post)

/-- A triggered slot freezes once the block that reaches T + POST is written (R427), which needs DT there. The blocks of paths, outputs and
services are in the ring, those of an input or a carver are `written`; what the ring is too short for is lost, oldest first. The FREEZE commands
that wait complete (R428). In Dormant a slot stops (R434). -/
def execCaptureFreeze (t : DT) (slot : Fin 4) (written : List RingBlock) (s : State) : Host.Outcome State Fault Refusal :=
  let s := moment t s
  let c := s.mem.slots[slot]
  .next (if c.st == .triggered && s.power.st != .dormant && decide (c.trigger.toNat + msDt c.post ≤ (now s).toNat) then
      let size := blockSize c.source c.index
      let l := if 3 ≤ c.source then c.blocks else written.filterMap (ringBlock c)
      let l := spanOfRing c (blockSpan c s) (l.drop (l.length - c.ring * 1048576 / size))
      let spoilt := if c.source = 4 ∧ 0x80 ≤ c.index then
          (s.mem.spoilt.filter fun x => x.1 + 0x80 == c.index && decide (x.2.toNat < c.trigger.toNat)).map (·.2)
        else []
      let n := sumOf (l.map (·.2.length))
      let from_ := (l.head?.map (·.1)).getD c.trigger
      let s := modSlot slot (fun c => { c with
        st := .frozen, bytes := n, oldest := from_, blocks := l, badBlocks := c.badBlocks ++ spoilt }) s
      finishAll ((s.host.held.filter fun h => h.begun && h.op == 0x0701 && h.entry.target.toNat == slot.val).map (·.id)) .ok
        [(16, 4, n), (24, 8, dtInt (now s))] s
    else s)

def specMemCaptureRead : Spec :=
  { plain 0x0702 20 (tBelow 4) [(0, 1), (8, 12)] with range := fun _ _ a => oneOf a 0 [0, 1] }

/-- MEM_CAPTURE_READ begins (R430). Where the range lies in the BAR2 window is open within the first page: the place of the span in
its ring decides it. -/
def doMemCaptureRead (h : Held) (s : State) : State :=
  match idx 4 h.entry.target.toNat with
  | some k =>
    let a := Entry.args h.entry
    let c := s.mem.slots[k]
    let off := min (le a 8 8) c.bytes
    let len := min (le a 16 4) (c.bytes - off)
    if c.st != .frozen then reject h .errState s
    else if le a 0 1 = 0 then carryReads (note h [off, len, 0] s)
    else
      let base := (freeNow s).natAbs % 1048576
      let n := min len (268435456 - base)
      let s := useFree (modMem (fun m => { m with bar2 := some (k.val, off, n) }) s)
      finish h .ok [(16, 8, base), (24, 4, n)] s
  | none => s

def execMemCaptureRead (e : Entry) (s : State) : Host.Outcome State Fault Refusal :=
  .next (hostCmd (.memCaptureRead e) specMemCaptureRead doMemCaptureRead e s)

/-! ### Time-shift (R425) -/

/-- DEPTH is 4 bytes, 0 to 600 000 ms; the secondary's services are SVC96 to SVC191 (R473). -/
def specMemTimeshiftConfig : Spec :=
  { plain 0x0703 4 tService [(0, 4)] with
    remote := fun t => decide (96 ≤ t)
    range := fun _ _ a => require (decide (le a 0 4 ≤ 600000)) 0 }

/-- MEM_TIMESHIFT_CONFIG begins (R424, R425): the depth applies at the service's next host block. -/
def doMemTimeshiftConfig (h : Held) (s : State) : State :=
  match idx 96 h.entry.target.toNat with
  | some v =>
    let mb := depthMb (le (Entry.args h.entry) 0 4)
    if s.audio.svcs[v].st = .free then reject h .errState s
    else if poolFree s < mb - depthMb s.mem.depth[v] then reject h .noResource s
    else park h [] s
  | none => s

def execMemTimeshiftConfig (e : Entry) (s : State) : Host.Outcome State Fault Refusal :=
  .next (hostCmd (.memTimeshiftConfig e) specMemTimeshiftConfig doMemTimeshiftConfig e s)

/-- Background initialisation of the shared pool ends (R493): from here reservations proceed; those that wait are resumed by the
steps on an empty queue. -/
def execSharedPoolInitDone (t : DT) (s : State) : Host.Outcome State Fault Refusal :=
  let s := moment t s
  .next (if isRunning s || s.power.st == .coldStart then modMem (fun m => { m with poolReady := true }) s else s)

/-! ### DRAM errors (R431, R37, R40) -/

/-- A staged record that a multi-bit error has spoilt is discarded under the rule of its class (R218, R250). -/
def discardStaged (c : Fin 4) (n : Nat) (s : State) : State :=
  match s.host.rings[c].stage[n]? with
  | some x =>
    if x.sherd.isSome then s
    else flushStage c (modRing c (fun r => { r with
      stage := r.stage.eraseIdx n, lost := addCount r.lost x.producer 1, owed := addCount r.owed x.producer 1 }) s)
  | none => s

/-- A reference whose two copies fail is removed; its open items end with REMOVED. -/
def loseReference (refId : Nat) (s : State) : State :=
  endRemoved (modAudio (fun a => { a with library := a.library.filter fun r => r.id != refId }) s)

/-- Both copies of a staged output block are bad (R41): the channel is muted until its source delivers again, and a gap record covers the
block. Its cause and object, samples and the port, are DESIGN CHOICE (log entry 74). -/
def loseStaged (p : Fin 14) (ch : Nat) (first last : DT) (s : State) : State :=
  gapSherd 0 p.val 0xFFFF 192 (dtInt first) (dtInt last) first last
    (modPortSt (fun o => { o with routes := o.routes.map fun r => if r.port == p.val && r.ch == ch then { r with muted := true } else r }) s)

/-- What a multi-bit error in an area does, but for firmware memory. The areas held twice, and the demodulator's, whose entries are
erased and whose frames carry the flag, lose nothing else here. -/
def dramOutcome (area : DramArea) (s : State) : State :=
  match area with
  | .ain i first last => ainGap i 192 first last (spoilInput i first last s)
  | .staging c n => discardStaged c n s
  | .library true r => loseReference r s
  | .capture k stamp => modSlot k (fun c => if c.st == .idle then c else { c with badBlocks := c.badBlocks ++ [stamp] }) s
  | .timeshift v stamp =>
    if s.mem.depth[v] = 0 then s else modMem (fun m => { m with spoilt := m.spoilt ++ [(v.val, stamp)] }) s
  | .audioOutput (some (p, ch, first, last)) => loseStaged p ch.val first last s
  | .firmware | .demodulator | .audioOutput none | .operationalLog | .legalMirror | .library false _ => s

end Sys2Proof.Machine
end

