-- ==== Sys2Proof/Machine/HostIf.lean ====
section
/-!
DEFINITION. HostIf.lean: BUF_POST, the doorbells, the pairs' enable and drain, coalescing, MSI-X, the ledger snapshot, BAR0 writes,
the PCIe link, deadlines, unknown opcodes and DIAG_LOOPBACK (R295 to R322, R499 to R507).
-/
namespace Sys2Proof.Machine

/-! ### BUF_POST (R316 to R319) -/

def postAction (a : List Byte) : Nat := le a 0 1
def postClass (a : List Byte) : Nat := le a 1 1
def postCount (a : List Byte) : Nat := le a 2 2

/-- The buffer of descriptor `i` (R317). -/
def postBuffer (a : List Byte) (i : Nat) : Buffer :=
  { addr := BitVec.ofNat 64 (le a (8 + 24 * i) 8), len := le a (16 + 24 * i) 4, cookie := BitVec.ofNat 64 (le a (24 + 24 * i) 8), fill := 0,
    firstWrite := none, bad := false }

/-- The offences of a descriptor: a 4 KB-aligned address, a length of 4 KB to 4 MB in whole multiples of 4 KB (R317). -/
def descriptorOffences (a : List Byte) (i : Nat) : List Offence :=
  let b := postBuffer a i
  require (decide (b.addr.toNat % 4096 = 0)) (8 + 24 * i)
    ++ require (decide (4096 ≤ b.len) && decide (b.len ≤ 4194304) && decide (b.len % 4096 = 0)) (16 + 24 * i)

def specBufPost : Spec :=
  { plain 0x0704 0 tZero [] with
    admin := fun a => postAction a == 0
    ptrOnly := fun a => postAction a == 1
    mport := fun _ => false
    extent := fun a => match postAction a with
      | 0 => 18
      | 1 => 8 + 24 * postCount a
      | _ => 2
    used := fun a => match postAction a with
      | 0 => [(0, 4), (8, 10)]
      | 1 => (0, 4) :: (List.range (postCount a)).flatMap fun i => [(8 + 24 * i, 12), (24 + 24 * i, 8)]
      | _ => [(0, 2)]
    range := fun _ _ a => oneOf a 0 [0, 1, 2] ++ oneOf a 1 [1, 2, 3, 4] ++ (match postAction a with
      | 0 => require (decide (le a 2 2 ≤ 32)) 2 ++ require (decide (le a 8 8 % 4096 = 0)) 8
        ++ require (decide (16 ≤ le a 16 2) && decide (le a 16 2 ≤ 4096)) 16
      | 1 => require (decide (1 ≤ postCount a) && decide (postCount a ≤ 256)) 2
        ++ (List.range (postCount a)).flatMap (descriptorOffences a)
      | _ => []) }

/-- The buffers of a class that the device holds: those posted, and those whose return entry waits for a slot. -/
def heldBuffers (c : Fin 4) (s : State) : Nat := s.host.rings[c].buffers.length + s.host.rings[c].wait.length

/-- SETUP (R316): the old ring's visible slots are returned in class 5, the new ring's are posted. -/
def setupRing (c : Fin 4) (a : List Byte) (s : State) : State :=
  let r := s.host.rings[c]
  let s := if r.setup then settle 5 (ringFree r) s else s
  let size := le a 16 2
  post 5 (size - 1) (modRing c (fun r => { r with
    setup := true, base := BitVec.ofNat 64 (le a 8 8), size := size, vector := le a 2 2, head := 0, tail := 0, phase := true, err := false }) s)

/-- Returns every buffer of a class (R319): the partly filled one with OK, the unused ones with ABORTED_HOST. The fuel bounds the
buffers. -/
def reclaim (c : Fin 4) : Nat → State → State
  | 0, s => s
  | n + 1, s =>
    match s.host.rings[c].buffers with
    | b :: _ => reclaim c n (returnBuffer c (if b.fill = 0 then .abortedHost else .ok) s)
    | [] => s

/-- The RECLAIM commands of a class that have returned its buffers. -/
def reclaims (c : Fin 4) (s : State) : List Held :=
  s.host.held.filter fun h => h.begun && h.op == 0x0704 && postClass (Entry.args h.entry) == c.val + 1

/-- RECLAIM completes after the last return entry has been written (R319). -/
def endReclaims (c : Fin 4) (s : State) : State :=
  if s.host.rings[c].wait.isEmpty then (reclaims c s).foldl (fun s h => finish h .ok [(16, 4, h.aux.headD 0)] s) s else s

/-- What a class does when buffers or the way to the host return: its staging and the reads of class 4 go on. -/
def resumeClass (c : Fin 4) (s : State) : State :=
  let s := flushStage c s
  if c.val = 3 then carryReads s else s

/-- BUF_POST begins (R316, R317, R319). -/
def doBufPost (h : Held) (s : State) : State :=
  let a := Entry.args h.entry
  match idx 4 (postClass a - 1) with
  | some c =>
    match postAction a with
    | 0 => if heldBuffers c s = 0 then finish h .ok [] (setupRing c a s) else reject h .errState s
    | 1 =>
      let n := postCount a
      if !s.host.rings[c].setup || 65536 < heldBuffers c s + n then reject h .noResource s
      else
        let s := post (bufRow c) n (modRing c (fun r => { r with buffers := r.buffers ++ (List.range n).map (postBuffer a) }) s)
        resumeClass c (finish h .ok [(16, 2, n), (20, 4, heldBuffers c s)] s)
    | _ =>
      let n := s.host.rings[c].buffers.length
      endReclaims c (note h [n] (reclaim c n s))
  | none => s

def execBufPost (e : Entry) (s : State) : Host.Outcome State Fault Refusal :=
  .next (hostCmd (.bufPost e) specBufPost doBufPost e s)

/-! ### Waiting entries and coalescing (R302, R315, R318) -/

/-- An entry that waited for a slot is written (R302, R318): the oldest of its ring. -/
def execQueuedEntryWrite (t : DT) (ring : Ring) (s : State) : Host.Outcome State Fault Refusal :=
  let s := moment t s
  .next (match ring with
    | .cq q => cqDrainOne q s
    | .ret c =>
      let s := endReclaims c (retDrainOne c s)
      if c.val = 3 then carryReads s else s)

/-- Whether the time of a record of unsignalled entries has passed (R315). -/
def coalDue (x : Option (DT × Nat × Nat)) (t : DT) : Bool :=
  match x with
  | some (from_, us, _) => decide (usDt us ≤ dtSince from_ t)
  | none => false

/-- COAL_TIME has passed since the first entry not yet signalled (R315). -/
def execCoalTimeExpiry (t : DT) (ring : Ring) (s : State) : Host.Outcome State Fault Refusal :=
  let s := moment t s
  .next (match ring with
    | .cq q =>
      let p := s.host.pairs[q]
      if p.intEn && coalDue p.coalFrom (now s) then
        sendMsix p.vector (modPairq q (fun p => { p with unsignalled := 0, coalFrom := none }) s)
      else s
    | .ret c =>
      if coalDue s.host.rrCoalFrom (now s) then
        sendMsix s.host.rings[c].vector (modHost (fun h => { h with rrUnsignalled := 0, rrCoalFrom := none }) s)
      else s)

/-! ### Doorbells (R301, R316, R503) -/

/-- Whether BAR0's queue, ring, interrupt and ledger blocks take writes (R507): the link is up and the device is not in RECOVERY, HALTED
or Dormant. -/
def barOpen (s : State) : Bool :=
  s.host.linkUp && (s.power.st == .running || s.power.st == .coldStart || s.power.st == .warmStart)

/-- The index of a doorbell write: bits [12:0] (R301). -/
def doorbell (v : BitVec 32) : Nat := v.toNat % 8192

/-- The steps from index `a` to index `b` in a ring. -/
def ringSteps (size a b : Nat) : Nat := (b + size - a) % size

/-- A write of a submission tail (R301). -/
def execSqDoorbellWrite (t : DT) (q : Fin 32) (value : BitVec 32) (s : State) : Host.Outcome State Fault Refusal :=
  let s := moment t s
  let p := s.host.pairs[q]
  let i := doorbell value
  .next (if !barOpen s || !p.enabled then s
    else
      let n := ringSteps p.sqSize p.sqTail i
      if p.sqSize ≤ i || p.sqSize ≤ ringSteps p.sqSize p.sqHead p.sqTail + n then modPairq q (fun p => { p with err := 1 }) s
      else post 5 n (modPairq q (fun p => { p with sqTail := i }) s))

/-- A write of a completion head (R301). -/
def execCqDoorbellWrite (t : DT) (q : Fin 32) (value : BitVec 32) (s : State) : Host.Outcome State Fault Refusal :=
  let s := moment t s
  let p := s.host.pairs[q]
  let i := doorbell value
  .next (if !barOpen s || !p.enabled then s
    else
      let n := ringSteps p.cqSize p.cqHead i
      if p.cqSize ≤ i || ringSteps p.cqSize p.cqHead p.cqTail < n then modPairq q (fun p => { p with err := 2 }) s
      else post 5 n (modPairq q (fun p => { p with cqHead := i }) s))

/-- A write of a return-ring head (R316, R503): the ring keeps operating on an error. -/
def execReturnRingDoorbellWrite (t : DT) (c : Fin 4) (value : BitVec 32) (s : State) : Host.Outcome State Fault Refusal :=
  let s := moment t s
  let r := s.host.rings[c]
  let i := doorbell value
  .next (if !barOpen s || !r.setup then s
    else
      let n := ringSteps r.size r.head i
      if r.size ≤ i || ringSteps r.size r.head r.tail < n then modRing c (fun r => { r with err := true }) s
      else post 5 n (modRing c (fun r => { r with head := i }) s))

/-! ### Enabling and draining a pair (R299, R300, R303) -/

/-- Whether a base is valid for a ring of `bytes` bytes (R300). -/
def baseOk (base : BitVec 64) (bytes : Nat) : Bool := decide (base.toNat % 4096 = 0) && decide (base.toNat + bytes ≤ 2 ^ 64)

/-- Whether a size is valid (R300). -/
def sizeOk (n : Nat) : Bool := decide (2 ≤ n) && decide (n ≤ 4096)

/-- PRIO, INT_EN and VECTOR of a write to +0x14 (R299). -/
def setPairControl (v : BitVec 32) (p : Pairq) : Pairq :=
  { p with prio := v.extractLsb' 4 2, intEn := v.getLsbD 8, vector := v.toNat / 65536 % 64 }

/-- A disabled pair is enabled after its checks (R300); not on a SECONDARY (R468). -/
def enablePair (q : Fin 32) (s : State) : State :=
  let p := s.host.pairs[q]
  if s.pair.role = 2 || !baseOk p.sqBase (64 * p.sqSize) || !baseOk p.cqBase (32 * p.cqSize) || !sizeOk p.sqSize || !sizeOk p.cqSize then
    modPairq q (fun p => { p with en := true, err := 3 }) s
  else
    post 5 (p.cqSize - 1) (modPairq q (fun p => { p with
      en := true, enabled := true, err := 0, sqHead := 0, sqTail := 0, cqTail := 0, cqHead := 0, phase := true }) s)

/-- EN is written 1 (R300); ignored while the pair drains (R303). The other fields of the register take the values written. -/
def execPairEnableWrite (t : DT) (q : Fin 32) (value : BitVec 32) (s : State) : Host.Outcome State Fault Refusal :=
  let s := moment t s
  .next (if !barOpen s || !value.getLsbD 0 then s
    else
      let s := modPairq q (setPairControl value) s
      let p := s.host.pairs[q]
      if p.enabled || p.draining then s else enablePair q s)

/-- Ends a command that has not begun and takes back what waits for it (R303, R310, R325). -/
def withdraw (st : Status) (s : State) (h : Held) : State := reject h st (forgetSwap h.id s)

/-- The commands of a source that have not begun to take effect. -/
def notBegun (src : Source) (s : State) : List Held := s.host.held.filter fun h => h.src == src && !h.begun && !h.deferred

/-- EN is written 0 (R303): the pair drains; its commands that have not begun complete with ABORTED_HOST. -/
def execPairDisableWrite (t : DT) (q : Fin 32) (value : BitVec 32) (s : State) : Host.Outcome State Fault Refusal :=
  let s := moment t s
  .next (if !barOpen s || value.getLsbD 0 then s
    else
      let s := modPairq q (fun p => { setPairControl value p with en := false, draining := p.enabled }) s
      if s.host.pairs[q].enabled then (notBegun (.queue q) s).foldl (withdraw .abortedHost) s else s)

/-- HELD of a pair's block (R299): commands fetched and not yet completed. -/
def pairHeld (q : Fin 32) (s : State) : Nat :=
  (s.host.held.countP fun h => h.src == .queue q && !h.deferred) + s.host.returning.countP fun r => r.src == .queue q

/-- The slots of a pair that are still visible to the device: unfetched submission slots and completion slots not written (R303). -/
def visibleSlots (p : Pairq) : Nat := ringSteps p.sqSize p.sqHead p.sqTail + cqFree p

/-- The drain of a pair ends (R303): no command is held and every completion is written. -/
def execPairDrainDone (t : DT) (q : Fin 32) (s : State) : Host.Outcome State Fault Refusal :=
  let s := moment t s
  let p := s.host.pairs[q]
  .next (if p.draining && heldOf (.queue q) s == 0 then
      settle 5 (visibleSlots p) (modPairq q (fun p => { p with enabled := false, draining := false }) s)
    else s)

/-! ### Deadlines (R310) -/

/-- The deadline of a waiting command passes: DEADLINE_MISSED, without effect. -/
def execCommandDeadlineExpiry (t : DT) (src : Source) (tag : BitVec 16) (s : State) : Host.Outcome State Fault Refusal :=
  let s := moment t s
  .next (match (notBegun src s).find? (fun h => h.tag == tag && Entry.hasDeadline h.entry && decide (h.entry.deadline.toNat ≤ (now s).toNat)) with
    | some h => withdraw .deadlineMissed s h
    | none => s)

/-! ### The ledger snapshot (R31, R320) -/

/-- Latches all counts and ring positions at one instant. -/
def latchSnapshot (s : State) : State :=
  modHost (fun h => { h with snap :=
    { done := true, id := h.snap.id + 1, dt := s.time.dt, rows := h.ledger, sqPos := h.pairs.map (·.sqHead), cqPos := h.pairs.map (·.cqTail),
      rrPos := h.rings.map (·.tail) } }) s

/-- SNAP is written 1 (R320). -/
def execLedgerSnapWrite (t : DT) (s : State) : Host.Outcome State Fault Refusal :=
  let s := moment t s
  .next (if barOpen s then latchSnapshot s else s)

/-! ### MSI-X, Bus Master Enable and the link (R297, R314) -/

/-- Sends the pending messages of vectors that are not masked (R314). -/
def flushMsix (s : State) : State :=
  if canSend s then
    (List.finRange 33).foldl (fun s v =>
      if s.host.pba.getLsbD v.val && !s.host.msix[v].masked then
        emit (.msix v.val) (modHost (fun h => { h with pba := h.pba &&& ~~~ BitVec.twoPow 33 v.val }) s)
      else s) s
  else s

/-- Unmasking a vector sends its pending message (R314). -/
def execMsixVectorUnmask (t : DT) (v : Fin 33) (s : State) : Host.Outcome State Fault Refusal :=
  let s := moment t s
  .next (if barOpen s then flushMsix (modHost (fun h => { h with msix := upd h.msix v fun x => { x with masked := false } }) s) else s)

/-- The way to the host returns (R297): pending messages go out, the staging areas and reads go on. Waiting entries and fetches are
steps of their own. -/
def resumeHost (s : State) : State :=
  if canSend s then (List.finRange 4).foldl (fun s c => resumeClass c s) (flushMsix s) else s

/-- Bus Master Enable is set (R297). -/
def execBusMasterEnableSet (t : DT) (s : State) : Host.Outcome State Fault Refusal :=
  let s := moment t s
  .next (if s.host.linkUp then resumeHost (modHost (fun h => { h with bme := true }) s) else s)

/-- Bus Master Enable is cleared (R297). -/
def execBusMasterEnableClear (t : DT) (s : State) : Host.Outcome State Fault Refusal :=
  let s := moment t s
  .next (if s.host.linkUp then modHost (fun h => { h with bme := false }) s else s)

/-- The link goes down (R297). -/
def execPcieLinkDown (t : DT) (s : State) : Host.Outcome State Fault Refusal :=
  .next (modHost (fun h => { h with linkUp := false }) (moment t s))

/-- The speed and width with which the link trains (R295): the spec leaves open which of those allowed, free values (log entry 52). -/
def trainLink (s : State) : State :=
  useMany 2 (modHost (fun h => { h with
    linkUp := true, d3hot := false, speed := (freeNow s % 3).toNat + 1, width := (freeNow (useFree s) % 2).toNat + 1 }) s)

/-- The link trains or returns (R297, R493, R496); not while PORST_N is low or in Dormant. -/
def execPcieLinkUp (t : DT) (s : State) : Host.Outcome State Fault Refusal :=
  let s := moment t s
  .next (if s.power.porstN && s.power.st != .dormant then resumeHost (trainLink s) else s)

/-! ### BAR0 writes without a step of their own (R296, R299, R314, R361, R492, R500, R503, R504, R506) -/

/-- Whether the boot-load registers take writes (R492). -/
def bootOpen (s : State) : Bool := s.host.bme && s.host.linkUp && (s.power.st == .recovery || (s.power.st == .coldStart && s.power.waitImage))

/-- A 64-bit field from its halves. -/
def joinHalves (hi lo : BitVec 32) : BitVec 64 := hi ++ lo

/-- A write to a boot-load register. -/
def writeBoot (off : Nat) (v : BitVec 32) (p : PowerSt) : PowerSt :=
  match off with
  | 0x20 => { p with imgLow := some v }
  | 0x24 => { p with imgAddr := joinHalves v (p.imgLow.getD (p.imgAddr.setWidth 32)), imgLow := none }
  | 0x28 => { p with imgLen := v }
  | _ => p

/-- A write to a queue-pair register below +0x14; ignored while the pair is enabled (R299). -/
def writePairReg (r : Nat) (v : BitVec 32) (p : Pairq) : Pairq :=
  if p.enabled then p
  else match r with
    | 0x00 => { p with sqLow := some v }
    | 0x04 => { p with sqBase := joinHalves v (p.sqLow.getD (p.sqBase.setWidth 32)), sqLow := none }
    | 0x08 => { p with cqLow := some v }
    | 0x0C => { p with cqBase := joinHalves v (p.cqLow.getD (p.cqBase.setWidth 32)), cqLow := none }
    | 0x10 => { p with sqSize := v.toNat % 8192, cqSize := v.toNat / 65536 % 8192 }
    | _ => p

/-- A write to an MSI-X table entry; clearing the mask is a step of its own (R314). -/
def writeMsixReg (r : Nat) (v : BitVec 32) (x : Msix) : Msix :=
  match r with
  | 0x0 => { x with addr := joinHalves (x.addr.extractLsb' 32 32) v }
  | 0x4 => { x with addr := joinHalves v (x.addr.setWidth 32) }
  | 0x8 => { x with data := v }
  | _ => { x with masked := x.masked || v.getLsbD 0 }

/-- A new register value for a record of unsignalled entries: each is signalled by the condition met first (R504). -/
def coalMeet (r : BitVec 24) (x : Option (DT × Nat × Nat)) : Option (DT × Nat × Nat) :=
  x.map fun y => (y.1, min y.2.1 (coalTime r), min y.2.2 (coalCount r))

/-- Whether a record of `n` unsignalled entries has reached its count. -/
def coalMet (x : Option (DT × Nat × Nat)) (n : Nat) : Bool :=
  match x with
  | some (_, _, c) => decide (c ≤ n)
  | none => false

/-- A write to a completion queue's coalescing register (R504). -/
def writeCoal (q : Fin 32) (v : BitVec 32) (s : State) : State :=
  let r : BitVec 24 := v.setWidth 24
  let s := modPairq q (fun p => { p with coal := r, coalFrom := coalMeet r p.coalFrom }) s
  let p := s.host.pairs[q]
  if coalMet p.coalFrom p.unsignalled then sendMsix p.vector (modPairq q (fun p => { p with unsignalled := 0, coalFrom := none }) s) else s

/-- A write to the return rings' coalescing register; the message of waiting entries goes to the vector of the first ring set up. -/
def writeRingCoal (v : BitVec 32) (s : State) : State :=
  let r : BitVec 24 := v.setWidth 24
  let s := modHost (fun h => { h with rrCoal := r, rrCoalFrom := coalMeet r h.rrCoalFrom }) s
  if coalMet s.host.rrCoalFrom s.host.rrUnsignalled then
    sendMsix (((s.host.rings.toList.find? (·.setup)).map (·.vector)).getD 32)
      (modHost (fun h => { h with rrUnsignalled := 0, rrCoalFrom := none }) s)
  else s

/-- The MPORT's own address (R347). -/
def mpAddress (s : State) : Nat := 0x4C + s.power.boot.mpaddr.val

/-- The MPORT control word after a write (R361): HN_ADDR takes 0x08 to 0x77 but for the device's own address. -/
def mpControl (old v : BitVec 32) (own : Nat) : BitVec 32 :=
  let a := v.toNat / 256 % 128
  let addr := if 0x08 ≤ a ∧ a ≤ 0x77 ∧ a ≠ own then a else old.toNat / 256 % 128
  BitVec.ofNat 32 (v.toNat % 4 + 256 * addr)

/-- Word 1 of the timing: bits [31:27] are reserved (R361). -/
def timingWord1 (v : BitVec 32) : BitVec 32 := v &&& 0x07FFFFFF

/-- A write to the MPORT block (R361): the timing waits for the next STOP, a step of its own; the control word acts at once. -/
def writeMport (off : Nat) (v : BitVec 32) (s : State) : State :=
  let m := s.mp
  let pend := m.timingNext.getD (m.timing, m.control)
  match off with
  | 0x4000 => modMp (fun m => { m with timingNext := some ({ pend.1 with word0 := v }, pend.2) }) s
  | 0x4004 => modMp (fun m => { m with timingNext := some ({ pend.1 with word1 := timingWord1 v }, pend.2) }) s
  | 0x4008 =>
    let w := mpControl m.control v (mpAddress s)
    modMp (fun m => { m with control := w, timingNext := m.timingNext.map fun x => (x.1, w) }) s
  | 0x400C => modMp (fun m => { m with
      pecErr := m.pecErr && !v.getLsbD 8, stretchTo := m.stretchTo && !v.getLsbD 9, arbLost := m.arbLost && !v.getLsbD 10,
      nackHn := m.nackHn && !v.getLsbD 11, sdaReleased := m.sdaReleased && !v.getLsbD 12 }) s
  | _ => s

/-- A 32-bit write at a BAR0 offset; an offset not listed ignores it (R499). -/
def writeReg (off : Nat) (v : BitVec 32) (s : State) : State :=
  if off < 0x100 then if bootOpen s then modPower (writeBoot off v) s else s
  else if off < 0x500 then
    match idx 32 ((off - 0x100) / 0x20) with
    | some q => if barOpen s then modPairq q (writePairReg ((off - 0x100) % 0x20) v) s else s
    | none => s
  else if 0x1144 ≤ off ∧ off < 0x1154 then
    match idx 4 ((off - 0x1144) / 4) with
    | some c => if barOpen s && v.getLsbD 31 then modRing c (fun r => { r with err := false }) s else s
    | none => s
  else if 0x2000 ≤ off ∧ off < 0x2210 then
    match idx 33 ((off - 0x2000) / 16) with
    | some i => if barOpen s then modHost (fun h => { h with msix := upd h.msix i (writeMsixReg ((off - 0x2000) % 16) v) }) s else s
    | none => s
  else if 0x2800 ≤ off ∧ off < 0x2880 then
    match idx 32 ((off - 0x2800) / 4) with
    | some q => if barOpen s then writeCoal q v s else s
    | none => s
  else if off = 0x2880 then if barOpen s then writeRingCoal v s else s
  else if 0x4000 ≤ off ∧ off < 0x4014 then writeMport off v s
  else if off = 0x5004 then modPower (fun p => { p with latched := p.latched &&& ~~~ v.setWidth 5 }) (settleLock 1 (settleLock 0 s))
  else s

/-- A host write by memory (R296): aligned 32-bit or 64-bit at an offset of BAR0; an offset from 0x10000 on stands for BAR2, whose writes
are discarded and counted. -/
def execRegisterWrite (t : DT) (off : Nat) (wide : Bool) (value : BitVec 64) (s : State) : Host.Outcome State Fault Refusal :=
  let s := moment t s
  .next (if !s.host.linkUp || s.power.st == .dormant then s
    else if 0x10000 ≤ off then modHost (fun h => { h with bar2Discarded := h.bar2Discarded + 1 }) s
    else if wide then
      if off % 8 = 0 then writeReg (off + 4) (value.extractLsb' 32 32) (writeReg off (value.setWidth 32) s) else s
    else if off % 4 = 0 then writeReg off (value.setWidth 32) s else s)

/-! ### Unknown opcodes (R306, R307, R353) -/

/-- The opcodes of the catalogue, by group (R335 to R343). -/
def knownOpcode (op : Nat) : Bool :=
  match op / 256 with
  | 0x01 => op % 256 ≤ 5
  | 0x02 => op % 256 ≤ 5
  | 0x03 => op % 256 ≤ 7
  | 0x04 => op % 256 ≤ 10
  | 0x05 => op % 256 ≤ 4
  | 0x06 => op % 256 ≤ 3 || (0x80 ≤ op % 256 && op % 256 ≤ 0x84)
  | 0x07 => op % 256 ≤ 4
  | 0x08 => op % 256 ≤ 5
  | 0x09 => op % 256 ≤ 2
  | 0x0A => op % 256 ≤ 4
  | 0x0B => op % 256 ≤ 3
  | 0x0C => op % 256 ≤ 2
  | 0x0F => op % 256 ≤ 1
  | _ => false

/-- Whether a known opcode is not allowed where an entry comes from (R307, R353). -/
def disallowed (op : Nat) (e : Entry) : Bool :=
  match e.src with
  | .queue q => q.val != 0 && (op / 256 == 0x01 || op / 256 == 0x0B || op == 0x0A01 || (op == 0x0704 && postAction (Entry.args e) == 0))
  | .mport => op == 0x0704 || op == 0x0803 || op == 0x0407 || op == 0x0304 || (op == 0x0602 && itemAction (Entry.args e) == 1)

/-- An entry with an unknown or disallowed opcode is fetched: it completes with ERR_OPCODE (R306). -/
def execUnknownOpcode (e : Entry) (opcode : BitVec 16) (s : State) : Host.Outcome State Fault Refusal :=
  let s := moment e.t (modHost (fun h => { h with resuming := none }) s)
  let op := opcode.toNat
  .next (if knownOpcode op && !disallowed op e then s
    else match fetch op e s with
      | none => s
      | some s =>
        let (h, s) := hold op (.unknownOpcode e opcode) e (shieldCopy op e s)
        fail h .errOpcode 0 (if knownOpcode op && e.src != .mport then .adminOnly else .none) s)

/-! ### DIAG_LOOPBACK (R343) -/

def specDiagLoopback : Spec :=
  { plain 0x0F00 0 tZero [] with
    extent := fun a => if le a 0 1 = 0 then 32 else 28
    used := fun a => if le a 0 1 = 0 then [(0, 1), (16, 16)] else [(0, 1), (8, 20)]
    range := fun _ _ a => oneOf a 0 [0, 1] ++ if le a 0 1 = 1 then require (decide (le a 24 4 ≤ 1048576)) 24 else [] }

/-- DIAG_LOOPBACK: ECHO returns entry bytes 32 to 47; DMA copies `source`, the block read, and returns its CRC. -/
def doDiagLoopback (source : List Byte) (h : Held) (s : State) : State :=
  let a := Entry.args h.entry
  if le a 0 1 = 0 then finishAt h .ok (fit 16 ((a.drop 16).take 16)) [] (now s) s
  else
    let data := fit (le a 24 4) source
    let s := emit (.area (BitVec.ofNat 64 (le a 16 8)) data) s
    finish h .ok [(16, 4, data.length), (20, 4, (crc32 data).toNat)] s

def execDiagLoopback (e : Entry) (source : List Byte) (s : State) : Host.Outcome State Fault Refusal :=
  .next (hostCmd (.diagLoopback e source) specDiagLoopback (doDiagLoopback source) e s)

end Sys2Proof.Machine
end

