-- ==== Sys2Proof/Machine/TwoWire.lean ====
section
/-!
DEFINITION. TwoWire.lean: framing and PEC of both two-wire ports, the MPORT's commands but for WAKE, host notify and the stuck bus
(R346 to R367).
-/
namespace Sys2Proof.Machine

/-! ### Framing and PEC (R347 to R349) -/

/-- The address byte of a transfer: the address above the R/W bit. -/
def addrByte (a : Nat) (read : Bool) : Byte := BitVec.ofNat 8 (2 * a + bit read)

/-- What a target finds of a write: its data, an end before its last byte, a byte that it NACKs, a PEC byte that does not match, or a
write that ends without its PEC byte. -/
inductive Framed where
  | data (l : List Byte)
  | nothing
  | nacked
  | pecError
  | pecMissing
  deriving DecidableEq, Repr

/-- Judges a write of code `code` at an address (R348, R349): its length, its byte count where it is counted, and its PEC where PEC
applies. A byte count other than the code's and a byte beyond the block are NACKed; a write that ends before its last byte has no
effect. -/
def frame (addr code : Nat) (counted : Bool) (n : Nat) (pecOn : Bool) (x : Xfer) : Framed :=
  let body := if counted then x.data.drop 1 else x.data
  if (counted && !x.data.isEmpty && x.data.headD 0 != BitVec.ofNat 8 n) || n < body.length then .nacked
  else if !x.whole || (counted && x.data.isEmpty) || body.length < n then .nothing
  else if !pecOn then (if x.pec.isSome then .nacked else .data body)
  else match x.pec with
    | some p => if p = crc8 (addrByte addr false :: BitVec.ofNat 8 code :: x.data) then .data body else .pecError
    | none => .pecMissing

/-- The bytes of a read from the code on: the count where it is counted, the data, and PEC where it applies (R349). -/
def readBytes (addr code : Nat) (counted pecOn : Bool) (l : List Byte) : List Byte :=
  let body := if counted then BitVec.ofNat 8 l.length :: l else l
  if pecOn then body ++ [crc8 ([addrByte addr false, BitVec.ofNat 8 code, addrByte addr true] ++ body)] else body

/-! ### The MPORT (R350 to R355) -/

/-- Whether the MPORT answers: from step 3 of a cold start (R367). -/
def mpAnswers (s : State) : Bool := s.power.porstN && s.power.valid

/-- PEC_EN (R361). -/
def pecEn (s : State) : Bool := s.mp.control.getLsbD 0

/-- A transfer has ended: in Dormant the port logic stays clocked from here on (R360). -/
def mpStop (s : State) : State := if s.power.st == .dormant then modMp (fun m => { m with awake := some (now s) }) s else s

/-- Answers a read of the MPORT. -/
def mpSend (code : Nat) (counted : Bool) (l : List Byte) (s : State) : State :=
  mpStop (emit (.twoWire .mport (readBytes (mpAddress s) code counted (pecEn s) l)) s)

/-- A NACK of the MPORT. -/
def mpNack (s : State) : State := mpStop (emit (.nack .mport) s)

/-- A PEC error of the MPORT is counted (R349). -/
def mpPecError (s : State) : State := mpStop (modMp (fun m => { m with pecErr := true, pecErrors := m.pecErrors + 1 }) s)

/-- The MPORT commands held, or completed and not yet read (R353). -/
def mpCount (s : State) : Nat := heldOf .mport s + s.mp.received.length + s.mp.results.length

/-- The STATUS bytes (R352). -/
def mpStatus (s : State) : List Byte :=
  let b0 := devCode s.power.st + 16 * bit (resultReady s) + 32 * bit (eventPending s) + 64 * bit s.mp.busStuck + 128 * bit s.mp.evtOvf
  pack 0 4 [(0, 1, b0), (1, 1, s.mp.results.length), (2, 1, ((min 255 (eventsWaiting s) : Nat) : Int)),
    (3, 1, (((epoch4 s).toNat + 16 * (8 - mpCount s) : Nat) : Int))]

/-- STATUS is read (R352, R357): it cancels a pending notify and clears EVT_OVF. In Dormant its address match wakes the port. -/
def execMportStatus (t : DT) (s : State) : Host.Outcome State Fault Refusal :=
  let s := moment t s
  .next (if mpAnswers s then
      modMp (fun m => { m with evtOvf := false, hnPending := false, hnTries := 0 }) (mpSend 0x01 false (mpStatus s) s)
    else s)

/-- One entry is submitted (R353, R355): it is counted when it has been received in full with a valid PEC. -/
def execCmdSubmit (t : DT) (x : Xfer) (s : State) : Host.Outcome State Fault Refusal :=
  let s := moment t s
  .next (if !mpAnswers s then s
    else if !isRunning s || 8 ≤ mpCount s then mpNack s
    else match frame (mpAddress s) 0x10 true 64 (pecEn s) x with
      | .data l => post 0 1 (modMp (fun m => { m with received := m.received ++ [l] }) s)
      | .nothing => s
      | .nacked => mpNack s
      | .pecError => mpPecError (mpNack s)
      | .pecMissing => mpPecError s)

/-- An entry as the ring or the MPORT carries it (R311). -/
def cqeBytes (phase : Bool) (epoch : BitVec 4) (qid headOrSeq : Nat) (e : CqEntry) : List Byte :=
  leBytes 2 e.tag.toNat ++ leBytes 2 e.status.toNat ++ [BitVec.ofNat 8 (bit phase + 16 * epoch.toNat), BitVec.ofNat 8 qid]
    ++ leBytes 2 headOrSeq ++ leBytes 8 (dtInt e.dt) ++ fit 16 e.result

/-- The oldest waiting completion is read with its output bytes (R354); a read that ends early removes nothing. PHASE and SQ_HEAD have
no meaning without a ring: they are a free value. -/
def execCmdResult (t : DT) (whole : Bool) (s : State) : Host.Outcome State Fault Refusal :=
  let s := moment t s
  .next (if !mpAnswers s then s
    else if !isRunning s then mpNack s
    else
      let s := modMp (fun m => { m with lastResult := none }) s
      match s.mp.results with
      | [] => mpSend 0x11 true [] s
      | r :: rest =>
        let v := (freeNow s).natAbs
        let s := useFree (mpSend 0x11 true (cqeBytes (v % 2 == 1) (epoch4 s) 0xFF (v / 2 % 65536) r.entry ++ r.area) s)
        if whole then modMp (fun m => { m with results := rest, lastResult := some r }) s else s)

/-- The last completion delivered is put back at the head (R354). -/
def execCmdResultRedeliver (t : DT) (s : State) : Host.Outcome State Fault Refusal :=
  let s := moment t s
  .next (if !mpAnswers s then s
    else if !isRunning s then mpNack s
    else match s.mp.lastResult with
      | some r => notifyRise s (modMp (fun m => { m with results := r :: m.results, lastResult := none }) s)
      | none => s)

/-! ### Timing and control (R361) -/

/-- The three words of TIMING. -/
def timingBytes (s : State) : List Byte :=
  leBytes 4 s.mp.timing.word0.toNat ++ leBytes 4 s.mp.timing.word1.toNat ++ leBytes 4 s.mp.control.toNat

def execMportTimingRead (t : DT) (s : State) : Host.Outcome State Fault Refusal :=
  let s := moment t s
  .next (if mpAnswers s then mpSend 0x30 false (timingBytes s) s else s)

/-- TIMING is written; it acts only after its own STOP (R361). -/
def execMportTimingWrite (t : DT) (x : Xfer) (s : State) : Host.Outcome State Fault Refusal :=
  let s := moment t s
  .next (if !mpAnswers s then s
    else match frame (mpAddress s) 0x30 false 12 (pecEn s) x with
      | .data l =>
        let w (i : Nat) : BitVec 32 := BitVec.ofNat 32 (le l i 4)
        mpStop (modMp (fun m => { m with
          timingNext := some ({ word0 := w 0, word1 := timingWord1 (w 4) }, mpControl m.control (w 8) (mpAddress s)) }) s)
      | .nothing => mpStop s
      | .nacked => mpNack s
      | .pecError => mpPecError (mpNack s)
      | .pecMissing => mpPecError s)

/-- The words written take effect at the next STOP, or at once on an idle bus (R361). -/
def execMportTimingApply (t : DT) (s : State) : Host.Outcome State Fault Refusal :=
  .next (modMp (fun m => match m.timingNext with
    | some (w, c) => { m with timing := w, control := c, timingNext := none }
    | none => m) (moment t s))

/-! ### Events over the MPORT (R351, R354) -/

/-- Takes the oldest `n` events out of the internal queue (R351). -/
def takeEvents : Nat → List CqEntry → List CqEntry
  | _, [] => []
  | n, e :: rest => if e.event then (match n with | 0 => e :: rest | k + 1 => takeEvents k rest) else e :: takeEvents n rest

/-- Up to seven events with their EVT_SEQ: from the mirror, or from the internal queue, numbered as they are delivered. -/
def eventBatch (s : State) : List MpEvent :=
  if queue0Enabled s then s.mp.mirror.take 7
  else ((internalEvents s).take 7).zipIdx.map fun x => { entry := x.1, seq := s.host.evtSeq + BitVec.ofNat 16 x.2 }

/-- EVENT_FETCH is read (R351): events read in full are removed from where they came. -/
def execEventFetch (t : DT) (whole : Bool) (s : State) : Host.Outcome State Fault Refusal :=
  let s := moment t s
  .next (if !mpAnswers s then s
    else if s.power.st == .dormant then mpNack s
    else
      let l := eventBatch s
      let v := (freeNow s).natAbs
      let s := useFree (mpSend 0x40 true (l.flatMap fun e => cqeBytes (v % 2 == 1) (epoch4 s) 0 e.seq.toNat e.entry) s)
      let s := modMp (fun m => { m with lastEvents := [] }) s
      if !whole then s
      else if queue0Enabled s then modMp (fun m => { m with mirror := m.mirror.drop l.length, lastEvents := l, lastFromQueue := false }) s
      else
        refill (modMp (fun m => { m with lastEvents := l, lastFromQueue := true }) (modHost (fun h => { h with
          evtSeq := h.evtSeq + BitVec.ofNat 16 l.length,
          pairs := upd h.pairs 0 fun p => { p with wait := takeEvents l.length p.wait } }) s)))

/-- The last batch is put back at the head (R351, R354). -/
def execEventFetchRedeliver (t : DT) (s : State) : Host.Outcome State Fault Refusal :=
  let s := moment t s
  let l := s.mp.lastEvents
  .next (if !mpAnswers s then s
    else if s.power.st == .dormant then mpNack s
    else
      let t := modMp (fun m => { m with lastEvents := [] }) s
      notifyRise s (if s.mp.lastFromQueue then
          modHost (fun h => { h with
            evtSeq := if queue0Enabled s then h.evtSeq else h.evtSeq - BitVec.ofNat 16 l.length,
            pairs := upd h.pairs 0 fun p => { p with wait := l.map (·.entry) ++ p.wait } }) t
        else modMp (fun m =>
          let k := (l ++ m.mirror).length - 64
          { m with mirror := (l ++ m.mirror).drop k, evtOvf := m.evtOvf || decide (0 < k) }) t))

/-! ### Dormant (R360) -/

/-- An address match in Dormant wakes the port logic. -/
def execMportDormantMatch (t : DT) (s : State) : Host.Outcome State Fault Refusal :=
  let s := moment t s
  .next (mpStop s)

/-- 100 ms after the last STOP without WAKE the port returns to gated operation. -/
def execMportRegateTimeout (t : DT) (s : State) : Host.Outcome State Fault Refusal :=
  let s := moment t s
  .next (if s.power.st == .dormant && s.mp.awake.any (fun x => decide (msDt 100 ≤ dtSince x (now s))) then
      modMp (fun m => { m with awake := none }) s
    else s)

/-! ### Stretching and the stuck bus (R359, R363, R365) -/

/-- Whether a port has its supplies and is out of reset. -/
def portUp (port : Port2) (s : State) : Bool :=
  match port with
  | .mport => mpAnswers s
  | .lport => s.sg.st != .off

/-- A stretch reaches 25 ms (R359): the transfer is void, which a transfer that has no step shows. -/
def execStretchTimeout (t : DT) (port : Port2) (s : State) : Host.Outcome State Fault Refusal :=
  let s := moment t s
  .next (if !portUp port s then s
    else emit (.nack port) (match port with
      | .mport => modMp (fun m => { m with stretchTo := true }) s
      | .lport => modSg (fun g => { g with stretchTo := true }) s))

/-- The open-drain lines by number: MP_SCL, MP_SDA, LP_SCL, LP_SDA. -/
def lineOf (port : Port2) (scl : Bool) : Nat :=
  match port with
  | .mport => if scl then 0 else 1
  | .lport => if scl then 2 else 3

/-- Another device has held SCL low for 35 ms (R359): both lines are released and the port is idle. -/
def execSclHeldTimeout (t : DT) (port : Port2) (s : State) : Host.Outcome State Fault Refusal :=
  let s := moment t s
  .next (if portUp port s then emit (.pin (lineOf port false) true) (emit (.pin (lineOf port true) true) s) else s)

/-- BUS_STUCK (R344). -/
def busStuckEvent (state line : Nat) (s : State) : State :=
  raise .busStuck [(17, 1, state), (18, 1, line), (24, 8, dtInt (now s))] s

/-- The device has held SDA for 35 ms without SCL edges (R363): it releases SDA and resets its port. -/
def execSdaSelfHeld (t : DT) (port : Port2) (s : State) : Host.Outcome State Fault Refusal :=
  let s := moment t s
  .next (if !portUp port s then s
    else
      let s := emit (.pin (lineOf port false) true) s
      match port with
      | .mport => busStuckEvent 1 0 (modMp (fun m => { m with sdaReleased := true }) s)
      | .lport => s)

/-- Another party holds a line low for 35 ms (R363, R365). -/
def execLineHeldByOther (t : DT) (port : Port2) (scl : Bool) (s : State) : Host.Outcome State Fault Refusal :=
  let s := moment t s
  .next (if !portUp port s then s
    else match port with
      | .mport => busStuckEvent 0 (bit scl) (modMp (fun m => { m with busStuck := true, stuckLine := scl }) s)
      | .lport => modSg (fun g => { g with busStuck := true }) s)

/-- Both lines have been high for BUF (R363): the bit clears and a host notify follows. -/
def execBusStuckClear (t : DT) (port : Port2) (s : State) : Host.Outcome State Fault Refusal :=
  let s := moment t s
  .next (match port with
    | .mport =>
      if s.mp.busStuck then
        let s := modMp (fun m => { m with busStuck := false, hnPending := m.hnPending || hnEn s, hnTries := 0 }) s
        busStuckEvent 2 (bit s.mp.stuckLine) s
      else s
    | .lport => modSg (fun g => { g with busStuck := false }) s)

/-! ### Host notify (R357, R358) -/

/-- A pending host notify is sent, NACKed or loses arbitration (R357, R358). -/
def execHostNotifySend (t : DT) (outcome : NotifyOutcome) (s : State) : Host.Outcome State Fault Refusal :=
  let s := moment t s
  .next (if !s.mp.hnPending || s.mp.busStuck || !hnEn s then s
    else match outcome with
      | .sent =>
        emit (.twoWire .mport (addrByte (s.mp.control.toNat / 256 % 128) false :: BitVec.ofNat 8 (2 * mpAddress s) :: (mpStatus s).take 2))
          (modMp (fun m => { m with hnPending := false, hnTries := 0 }) s)
      | .nacked =>
        if 2 ≤ s.mp.hnTries then modMp (fun m => { m with hnPending := false, hnTries := 0, nackHn := true }) s
        else modMp (fun m => { m with hnTries := m.hnTries + 1 }) s
      | .arbLost => modMp (fun m => { m with arbLost := true, arbLosses := m.arbLosses + 1 }) s)

end Sys2Proof.Machine
end

