-- ==== Sys2Proof/Machine/Saggar.lean ====
section
/-!
DEFINITION. Saggar.lean: the sealed measuring partition: its counters and seal, its log, its jobs and results, faults, boots, and the
host's commands for it (R368 to R395).
-/
namespace Sys2Proof.Machine

/-! ### Counters, seal, events (R371 to R375) -/

/-- Whether the Saggar acts: it has booted and is not STOPPED (R371). -/
def sgActs (s : State) : Bool := s.sg.st == .ready || s.sg.st == .measuring

/-- Counter `i` counts one, up to its saturation (R375). -/
def bumpCounter (i : Fin 4) : State → State :=
  modSg fun g => { g with counters := upd g.counters i fun c => if c = 0xFFFFFFFF then c else c + 1 }

/-- The audit counter and whether it is saturated (R372, R375). -/
def auditOf (s : State) : Nat := s.sg.counters[0].toNat
def auditFull (s : State) : Bool := s.sg.counters[0] == 0xFFFFFFFF

/-- SEAL_EVENT of a kind (R344); kinds 0 to 3 also write a legal Sherd (R372, R413). -/
def sealEvent (kind : Nat) (s : State) : State :=
  let fs : List (Nat × Nat × Int) := [(16, 1, kind), (17, 1, sealCode s.sg.sealSt), (20, 4, auditOf s), (24, 8, dtInt (now s))]
  let s := raise .sealEvent fs s
  if kind < 4 then legalSherd 0x0102 0xFFFF (now s) (now s) (result fs) false s else s

/-- The seal becomes UNSEALED; running jobs are no longer legal (R372, R386). -/
def unsealSt (s : State) : State :=
  modSg (fun g => { g with
    sealSt := .unsealed, jobs := g.jobs.map fun j => if j.running then { j with unsealed := true } else j }) (bumpCounter 0 s)

/-- SEAL_SW changes (R372, R395, R506): OPEN breaks the seal. The pin shows its level in every state of the Saggar. -/
def execSealSwChange (t : DT) (protect : Bool) (s : State) : Host.Outcome State Fault Refusal :=
  let s := moment t s
  .next (if s.power.sealSw = protect then s
    else
      let s := modPower (fun p => { p with sealSw := protect, latched := p.latched ||| BitVec.twoPow 5 3 }) s
      if !sgActs s then s
      else if s.sg.sealSt = .sealed_ ∧ protect = false then sealEvent 1 (sealEvent 3 (unsealSt s))
      else sealEvent 3 s)

/-- TAMPER_N has been low for 100 µs (R372): acted on once for each assertion. -/
def execTamperNAssert (t : DT) (s : State) : Host.Outcome State Fault Refusal :=
  let s := moment t s
  let s := modSg (fun g => { g with tamper := true }) s
  .next (if !sgActs s || !s.sg.tamperArmed then s
    else
      let s := modSg (fun g => { g with tamperArmed := false }) s
      match s.sg.sealSt with
      | .sealed_ => sealEvent 1 (sealEvent 2 (unsealSt s))
      | .unsealed => sealEvent 2 (bumpCounter 0 s)
      | _ => s)

/-- TAMPER_N has been high for 100 µs and can act again (R372). -/
def execTamperNRelease (t : DT) (s : State) : Host.Outcome State Fault Refusal :=
  .next (modSg (fun g => { g with tamper := false, tamperArmed := true }) (moment t s))

/-! ### The recalibration due date (R389) -/

/-- A count of days in DT units. -/
def daysDt (n : Nat) : Nat := n * 86400 * 2 ^ 32

/-- The recalibration due date: the earlier of the interval's end and the Cone's projection. -/
def dueDate (g : SaggarSt) : DT :=
  let d := dtAdd g.calDate (daysDt g.legalInterval)
  match g.coneDue with
  | some c => if c.toNat < d.toNat then c else d
  | none => d

/-- A change that may move the due date; a changed date writes an SG_DUE Sherd with its cause (R389, R392, R413). -/
def changeDue (cause : Nat) (f : SaggarSt → SaggarSt) (s : State) : State :=
  let old := dueDate s.sg
  let s := modSg f s
  let new := dueDate s.sg
  if old = new then s
  else legalSherd 0x0109 0xFFFF (now s) (now s) (pack 0 48 [(0, 8, dtInt old), (8, 8, dtInt new), (16, 1, cause)]) false s

/-- Saggar verification falls due at once (R388, R392, R393). -/
def verifyNow (s : State) : State := modFiring 6 0 (fun f => { f with due := now s }) s

/-! ### Antenna factors (R380) -/

/-- The antenna factor and its uncertainty at a frequency in hertz, interpolated linearly; none outside the table. -/
def antenna (l : List SgEntry) (freq : Nat) : Option (Int × Int) :=
  match l.find? (fun e => e.khz * 1000 == freq) with
  | some e => some (e.value, e.unc)
  | none =>
    match (l.filter fun e => e.khz * 1000 < freq).getLast?, l.find? fun e => freq < e.khz * 1000 with
    | some a, some b =>
      let n : Int := (freq : Int) - a.khz * 1000
      let d := (b.khz - a.khz) * 1000
      some (a.value + ratio ((b.value - a.value) * n) d, a.unc + ratio (((b.unc : Int) - a.unc) * n) d)
    | _, _ => none

/-- The input that a source measures: RFWA 0, RFWB 1, RFP0 to RFP3 2 to 5 (R380, R392). -/
def inputOf (src : Nat) (s : State) : Option (Fin 6) :=
  match srcCarver src, srcTuner src with
  | some c, _ => (carverInput s.rf.carvers[c]).map fun i => ⟨i.val, by omega⟩
  | _, some n => some ⟨n.val + 2, by omega⟩
  | _, _ => none

/-! ### The choice of the job path (R382, R383) -/

/-- A job path: 0 SHARED, 1 OWN on a tuner, 2 OWN on a carver; its source, the converter of an OWN carver, and the Wheel that reads the
identity with its cost. -/
structure JobPath where
  own : Nat
  src : Nat
  conv : Option (Fin 2)
  wheel : Option (Fin 16 × Nat)
  deriving DecidableEq, Repr

/-- The base cost of a Wheel that reads an identity from an OWN path (R189, R383), in hundredths. -/
def identityCost : Standard → Nat
  | .dab => 700
  | .drm => 500
  | .drmPlus => 800
  | _ => 0

/-- Places the identity reading of an OWN path (R168, R383): in PRECISION on the Wheels kept for the Saggar; none when it fails. -/
def placeIdentity (c : Fin 64) (std : Standard) (s : State) : Option (Option (Fin 16 × Nat)) :=
  let n := identityCost std
  if n = 0 then some none
  else if s.cx.profile = 1 then
    let caps := ((List.finRange 16).filter fun w => decide (14 ≤ w.val) && !s.cx.wheels[w].failed && !s.cx.wheels[w].testing).map
      fun w => (w, wheelCap s - jobLoad w s)
    match roomiest caps with
    | some (w, room) => if n ≤ room then some (some (w, n)) else none
    | none => none
  else
    let l := placed s
    match roomiest (freeCaps l s) with
    | some (w, room) => if n ≤ room && reserveKept ((c, w, n) :: l) s then some (some (w, n)) else none
    | none => none

/-- A free tuner: one that feeds no path and has not failed (R117, R382), for a frequency and an occupied band (R102, R106); one that hops only
where there is no other. -/
def freeJobTuner (freq half : Nat) (s : State) : Option (Fin 4) :=
  if freq < 30000000 || 1500000000 < freq || (ifWidthFor half).isNone then none
  else
    let free (n : Fin 4) : Bool :=
      !feeds n s && s.rf.tuners[n].st != .failed && !s.rf.tuners[n].unavailable && !onlyExcluded s.rf.tuners[n] (ctxPlan s.rf.tuners[n] freq)
    ((List.finRange 4).find? fun n => free n && s.cx.hops[n].isNone).or ((List.finRange 4).find? free)

/-- An OWN path on a free tuner (R382 row 2). -/
def ownTuner (c : Fin 64) (s : State) : Option JobPath :=
  let x := s.cx.ctxs[c]
  match freeJobTuner x.freq (halfBand x.std x.cfg) s, placeIdentity c x.std s with
  | some n, some w => some { own := 1, src := 8 + n.val, conv := none, wheel := w }
  | _, _ => none

/-- The carver of an OWN path (R382): BC7 in PRECISION, else a carver whose SOURCE is OFF. -/
def ownCarverNo (s : State) : Option (Fin 8) :=
  if s.cx.profile = 1 then (if s.sg.jobs.any fun j => j.running && j.carver == some 7 then none else some 7)
  else (List.finRange 8).find? fun k => carverSource k s == 0

/-- An OWN path on a carver at the primary source's converter (R382 row 3). -/
def ownCarver (c : Fin 64) (s : State) : Option JobPath :=
  let x := s.cx.ctxs[c]
  match srcCarver x.source with
  | some k => match carverInput s.rf.carvers[k], ownCarverNo s, placeIdentity c x.std s with
    | some i, some b, some w => some { own := 2, src := b.val, conv := some i, wheel := w }
    | _, _, _ => none
  | none => none

/-- The context's primary path (R382 rows 1 and 4). -/
def sharedPath (c : Fin 64) (s : State) : Option JobPath :=
  some { own := 0, src := s.cx.ctxs[c].source, conv := none, wheel := none }

/-- The job path under PATH: 0 AUTO, 1 SHARED, 2 TUNER, 3 CARVER (R382). -/
def choosePath (sel : Nat) (c : Fin 64) (s : State) : Option JobPath :=
  let fed := (srcTuner s.cx.ctxs[c].source).isSome
  match sel with
  | 1 => sharedPath c s
  | 2 => if fed then sharedPath c s else ownTuner c s
  | 3 => ownCarver c s
  | _ =>
    if fed then sharedPath c s
    else (ownTuner c s).orElse fun _ =>
      (if s.cx.profile = 1 then ownCarver c s else none).orElse fun _ => sharedPath c s

/-- The input of a job path. -/
def jobInput (j : JobPath) (s : State) : Option (Fin 6) :=
  match j.conv with
  | some i => some ⟨i.val, by omega⟩
  | none => inputOf j.src s

/-- The rate of a job path's source. -/
def jobRate (j : JobPath) (s : State) : Nat := if j.own = 2 then carverRate 64 else srcRate j.src s

/-! ### Requests (R378, R381) -/

/-- A quantity foreign to a standard (R378): deviation and MPX power are FM's, depth AM's. -/
def foreign (quantity : Nat) (std : Standard) : Bool :=
  ((quantity == 2 || quantity == 3) && std != .fm) || (quantity == 4 && std != .am)

/-- The jobs that are queued (R381). -/
def queuedJobs (s : State) : List Job := s.sg.jobs.filter fun j => !j.running && !j.fault

/-- The jobs that run. -/
def runningJobs (s : State) : List Job := s.sg.jobs.filter (·.running)

/-- A request as it is judged: quantity, PATH, duration in ms, start, expected identity, bandwidth. -/
structure Request where
  quantity : Nat
  sel : Nat
  duration : Nat
  start : DT
  expected : Option Nat
  bandwidth : Nat
  lport : Bool
  deriving DecidableEq, Repr

/-- Where a request is wrong. -/
inductive BadRequest where
  | state | quantity | duration | bandwidth | resource
  deriving DecidableEq, Repr

/-- Judges a request on an open context (R378, R380 to R382, R392): in Dormant new jobs are refused (R394). -/
def judge (r : Request) (c : Fin 64) (s : State) : Option BadRequest :=
  let x := s.cx.ctxs[c]
  if s.sg.st = .stopped || s.power.st == .dormant || x.st == .closed then some .state
  else if foreign r.quantity x.std then some .quantity
  else if r.duration < (if r.quantity = 3 then 60000 else 100) || 600000 < r.duration then some .duration
  else match choosePath r.sel c s with
    | none => some .resource
    | some j =>
      let plan := pathPlan (jobRate j s) (outRate x.std)
      let mid := jobRate j s / (2 * plan.1 * 2 ^ plan.2)
      if 4 * mid < 5 * r.bandwidth then some .bandwidth
      else if r.quantity = 0 && (match jobInput j s with
          | some i => (antenna s.sg.afTables[i] x.freq).isNone
          | none => true) then some .quantity
      else if 32 ≤ (queuedJobs s).length then some .resource
      else none

/-- Queues a job (R381). Its planned start is the requested one, or the first at which it can start: the spec gives no figure for the
time that takes, a free value. -/
def queueJob (r : Request) (c : Fin 64) (s : State) : Job × State :=
  let first := dtAdd (now s) (freeNow s).natAbs
  let j : Job :=
    { id := s.sg.nextJob, running := false, lport := r.lport, ctx := c.val, quantity := r.quantity, pathSel := r.sel, duration := r.duration,
      start := r.start, planned := if r.start.toNat < first.toNat then first else r.start, expected := r.expected,
      bandwidth := r.bandwidth, path := none, own := 0, tuner := none, carver := none, wheel := none, began := 0, cStart := 0, tone := 0,
      toneBad := false,
      std := s.cx.ctxs[c].std, freq := s.cx.ctxs[c].freq, carverCfg := [], unsealed := false, fault := false, broken := false,
      tap := none, tapped := 0, tapClips := 0, gainSteps := [] }
  (j, modSg (fun g => { g with nextJob := g.nextJob + 1, jobs := g.jobs ++ [j] }) (useFree s))

/-! ### Results (R385 to R387) -/

/-- Bytes 0 to 39 of a result: the area of SG_READ_RESULT (R343). -/
def resultArea (r : SgResult) : List Byte :=
  pack 0 40 [(0, 4, r.job.toNat), (4, 1, r.quantity), (5, 1, r.flags.toNat), (6, 2, r.ctx), (8, 8, dtInt r.start), (16, 8, dtInt r.finish),
    (24, 4, r.value.toNat), (28, 4, r.uncertainty.toNat), (32, 8, r.seq.toNat)]

/-- Bytes 40 to 55 of a result (R387). -/
def resultTail (r : SgResult) : List Byte :=
  pack 40 16 [(40, 2, r.invalid.toNat), (42, 2, r.notLegal.toNat), (44, 1, r.source), (45, 1, r.path), (46, 1, r.idSource),
    (48, 2, r.cStart), (50, 2, r.cEnd), (52, 4, r.ident.toNat)]

/-- ID_SOURCE (R383). -/
def idSource : Standard → Nat
  | .am => 0
  | .fm => 1
  | _ => 2

/-- A response of the LPORT (R392). -/
def responseOf (st : Status) (code : Nat) (data : List Byte) : List Byte :=
  leBytes 2 (statusCode st).toNat ++ [BitVec.ofNat 8 code, BitVec.ofNat 8 data.length] ++ data

/-- A job's result response enters the store, or is held behind those that wait for a slot (R392). -/
def lateResponse (l : List Byte) (s : State) : State :=
  modSg (fun g => if g.responses.length < 8 && g.lateResponses.isEmpty then { g with responses := g.responses ++ [l] }
    else { g with lateResponses := g.lateResponses ++ [l] }) s

/-- What a job is judged on (R385): its end, value and uncertainty, end correction, identity, the INVALID bits and the broken mark. -/
structure Verdict where
  finish : DT
  value : Int
  unc : Int
  cEnd : Int
  ident : Int
  invalid : Nat
  broken : Bool
  deriving DecidableEq, Repr

/-- The NOT_LEGAL bits of a job (R386, R387). -/
def notLegalBits (j : Job) (finish : DT) (s : State) : Nat :=
  bit s.ident.nfb + 2 * bit (j.unsealed || s.sg.sealSt != .sealed_) + 4 * bit (decide ((dueDate s.sg).toNat < finish.toNat)) + 8 * bit j.fault

/-- Writes a job's result: into the result store of 256, as a legal Sherd, and for an LPORT job as a response (R387, R390, R392). -/
def writeResult (j : Job) (v : Verdict) (wide : Bool) (s : State) : State :=
  let bits := notLegalBits j v.finish s
  let r : SgResult :=
    { job := j.id, quantity := j.quantity,
      flags := BitVec.ofNat 8 (bit (v.invalid == 0) + 2 * bit (bits != 0) + 4 * bit v.broken), ctx := j.ctx, start := j.began,
      finish := v.finish, value := BitVec.ofInt 32 v.value, uncertainty := BitVec.ofInt 32 v.unc, seq := s.sg.seq,
      invalid := BitVec.ofNat 16 v.invalid, notLegal := BitVec.ofNat 16 bits, source := bit wide, path := j.own,
      idSource := idSource j.std, cStart := j.cStart, cEnd := v.cEnd, ident := if j.std = .am then 0 else BitVec.ofInt 32 v.ident }
  let s := legalSherd 0x0101 j.ctx j.began v.finish ((resultArea r).take 32 ++ resultTail r) (bits != 0) s
  let s := modSg (fun g => { g with results := (g.results ++ [r]).drop (g.results.length + 1 - 256) }) s
  if j.lport then lateResponse (responseOf .ok 0x80 (resultArea r ++ resultTail r)) s else s

/-- A job that ends before its measurement (R377, R385, R391, R392): the spec states no value for it, free values. -/
def cutVerdict (invalid : Nat) (finish : DT) (broken : Bool) (s : State) : Verdict × State :=
  let a := freeNow s
  let s := useFree s
  let b := freeNow s
  let s := useFree s
  let c := freeNow s
  let s := useFree s
  let d := freeNow s
  ({ finish := finish, value := a, unc := b, cEnd := c, ident := d, invalid := invalid, broken := broken }, useFree s)

/-! ### The Slip in the Saggar's hands (R125, R379) -/

/-- Whether a quantity is traced through the Slip (R379). -/
def levelJob (j : Job) : Bool := decide (j.quantity < 2)

/-- Whether the Saggar can use the Slip now: nobody holds it, or it has been released to the Saggar (R125). -/
def slipForSaggar (s : State) : Bool := s.rf.slip.owner == .nobody || s.rf.slip.owner == .saggar

/-- The Saggar asks the holder of the Slip for it (R125), unless its own verification holds it. -/
def claimSlip : State → State := modSlip fun x => if x.owner = .firing 6 then x else { x with sgWaiting := true }

/-- The Saggar lets the Slip go (R125). -/
def endSlip (s : State) : State := modSlip (fun x => if x.owner = .saggar then { x with sgWaiting := false }.release s.power.injEn else x) s

/-- A claim of the Saggar that has lost its job is dropped. -/
def dropClaim (s : State) : State := endSlip (modSlip (fun x => { x with sgWaiting := false }) s)

/-! ### Verification through the Slip (R378, R379, R395) -/

/-- The measurement bandwidth in hertz: the one requested, else the standard's (R378). -/
def measBand (std : Standard) (asked : Nat) : Nat :=
  if 0 < asked then asked
  else match std with
    | .am => 9000
    | .fm => 200000
    | .dab => 1536000
    | .drm => 10000
    | .drmPlus => 96000

/-- The source centre from which the room beside a frequency is counted, as that frequency's offset in 2^-16 Hz; a path of the job's own is
centred on it. -/
def centreOffset (x : JobPath) (freq : Nat) (s : State) : Int :=
  if x.own != 0 then 0
  else match srcTuner x.src with
    | some n => ((freq : Int) - ((s.rf.tuners[n].freq.getD freq : Nat) : Int)) * 65536
    | none => srcOffset x.src freq s

/-- The frequency of the verification tone in 0.1 Hz (R379): beyond the edge of the measurement band by 50 kHz for a tuner and 100 kHz
for a carver, on the side with more room, and as far as R124 asks from the occupied band. DESIGN CHOICE (log entry 85): of equal sides
the upper. -/
def toneFreq (wide : Bool) (off : Int) (freq band occupied : Nat) : Nat :=
  let d := max (5 * band + (if wide then 1000000 else 500000)) (10 * occupied + 500000)
  if off ≤ 0 then 10 * freq + d else 10 * freq - d

/-- Where the tone of a job on a path lies. -/
def jobTone (j : Job) (x : JobPath) (c : Fin 64) (s : State) : Nat :=
  let y := s.cx.ctxs[c]
  toneFreq (srcTuner x.src).isNone (centreOffset x y.freq s) y.freq (measBand y.std j.bandwidth) (halfBand y.std y.cfg)

/-- Whether the start verification of a job on a path can complete (R124, R379, R381): the tone keeps clear of every context on the
input, and a second channel path is free for it. -/
def verifiable (j : Job) (x : JobPath) (c p : Fin 64) (s : State) : Bool :=
  (match jobInput x s with | some i => toneClear i.val (jobTone j x c s) s | none => false)
    && (List.finRange 64).any fun q => s.cx.paths[q].run == .closed && (x.own == 0 || q != p)

/-- The level at a source's pins of a sum of I² + Q² over a count of samples, in 0.01 dBm (R149, R378); none without power or scale. -/
def levelOf (src : Nat) (p : Nat × Nat) (s : State) : Option Int :=
  match sourceScale src s with
  | some k => if p.1 = 0 || p.2 = 0 then none else some (hundredthsDb p.1 (p.2 * 0x7FFFFF ^ 2) + k)
  | none => none

/-- The level, a free value where there is none. -/
def levelFree (src : Nat) (p : Nat × Nat) (s : State) : Int × State :=
  match levelOf src p s with
  | some v => (v, s)
  | none => (freeNow s, useFree s)

/-- The level of the tones in 0.1 dBm from the preliminary reading in 0.01 dBm: rounded, and within −100 to −20 dBm (R379). -/
def toneLevel (prelim : Int) : Int := max (-1000) (min (-200) (roundDiv prelim 10))

/-- The Slip's correction at a frequency in 0.1 Hz, in 0.001 dB: its table's entry; between entries the spec gives no rule (R379, R389). -/
def slipCorrection (f10 : Nat) (s : State) : Int :=
  match s.sg.slipTable.find? fun e => e.khz * 10000 == f10 with
  | some e => e.value
  | none => Config.slipBetween (s.sg.slipTable.map fun e => (e.khz, e.value)) f10

/-- What the tone should read, in 0.01 dBm: its level, the correction, and for a tuner its IF filter's response at the offset (R379). -/
def expectedTone (level : Int) (src f10 : Nat) (s : State) : Int :=
  10 * level + ratio (slipCorrection f10 s) 10 + (match srcTuner src with
    | some n =>
      let t := s.rf.tuners[n]
      Config.filterResponse n.val (fget t.cfg 0x0403).toNat t.trim ((f10 : Int) - 10 * ((t.freq.getD 0 : Nat) : Int))
    | none => 0)

/-! ### The end of a job's holds (R86, R153, R384) -/

/-- NCO_TRIM values held for a job reach their paths (R153). -/
def applyTrims (s : State) : State :=
  (List.finRange 64).foldl (fun s p => match s.cx.paths[p].trimHeld with
    | some v => if jobReadsPath p s then s else modPath p (fun x => { x with trim := clampTo (trimBound x) v, trimHeld := none, trimChanged := true }) s
    | none => s) s

/-- The Saggar's state follows its jobs (R371). -/
def settleState (s : State) : State :=
  if sgActs s then modSg (fun g => { g with st := if g.jobs.any (·.running) then .measuring else .ready }) s else s

/-- What a job held is released (R382, R384): its OWN path, its tuner or carver; `s` no longer counts the job as running. Commands deferred
by it go on when the queue is empty, and switches with it. -/
def releaseJob (j : Job) (s : State) : State :=
  let s := match j.own, j.path with
    | 0, _ => s
    | _, some p =>
      let s := closePath p s
      match j.tuner, j.carver with
      | some n, _ => releaseTuner (8 + n.val) s
      | _, some k => modCarver k (fun x => { x with cfg := j.carverCfg }) s
      | _, _ => s
    | _, none => s
  settleState ((List.finRange 64).foldl (fun s c => resumeSwitch c s) (applyTrims s))

/-- Removes a job. -/
def dropJob (id : BitVec 32) : State → State := modSg fun g => { g with jobs := g.jobs.filter (·.id != id) }

/-- Whether a job's source is a wideband one (R387). -/
def wideJob (j : Job) (s : State) : Bool :=
  match j.own, idx 64 j.ctx with
  | 0, some c => decide (s.cx.ctxs[c].source < 8)
  | k, _ => k != 1

/-- Ends a job invalid without its measurement. -/
def cutJob (j : Job) (invalid : Nat) (s : State) : State :=
  let wide := wideJob j s
  let broken := j.broken || (match j.path with | some p => s.cx.paths[p].broken | none => false)
  let j := if j.running then j else { j with began := if j.fault then j.began else now s }
  let s := dropClaim (releaseJob j (dropJob j.id s))
  let r := cutVerdict invalid (if j.fault then s.sg.lastFault.getD (now s) else now s) broken s
  writeResult j r.1 wide r.2

/-! ### Job start (R125, R381 to R384) -/

/-- Whether the path that a job is to take can be had now: a shared path that runs, a tuner that nothing occupies and whose hop has ended
(R121, R381, R382). -/
def pathReady (j : JobPath) (c : Fin 64) (p : Fin 64) (s : State) : Bool :=
  match j.own, s.cx.ctxs[c].primary, srcTuner j.src with
  | 0, some q, _ => s.cx.paths[q].run == .running
  | 1, _, some n =>
    let t := s.rf.tuners[n]
    s.cx.paths[p].run == .closed && s.cx.hops[n].isNone && t.probe.isNone && t.change.isNone && t.target.isNone && t.retest.isNone && !tunerFires n s
  | 2, _, _ => s.cx.paths[p].run == .closed
  | _, _, _ => false

/-- Whether a queued job can start now, but for the Slip: its requested start has come, fewer than four run, its path can be had, and a level
job's verification can complete. -/
def canStart (j : Job) (p : Fin 64) (s : State) : Bool :=
  !j.running && !j.fault && decide (j.start.toNat ≤ (now s).toNat) && decide ((runningJobs s).length < 4)
    && (match idx 64 j.ctx with
      | some c => s.cx.ctxs[c].st != .closed && (match choosePath j.pathSel c s with
        | some x => pathReady x c p s && (!levelJob j || verifiable j x c p s)
        | none => false)
      | none => false)

/-- Whether a job comes before another (R381): the earlier planned start, of equals the LPORT job. -/
def beforeJob (a b : Job) : Bool :=
  decide (a.planned.toNat < b.planned.toNat) || (a.planned == b.planned && a.lport && !b.lport)

/-- The path of a job on an OWN source: it delivers to the tap from its SYNC sample (R382). -/
def openOwn (p c : Fin 64) (src freq : Nat) (s : State) : State :=
  modPath p (fun x => { x with run := .running, opening := false, next := now s }) (openPath p c src freq s.cx.ctxs[c].cfg s)

/-- Takes a free tuner to RX for an OWN path (R111, R382): its band from the recall table where R107 allows that, else found by a search, and
the entry written after the lock. The corrections of a change without a recall entry are what the device finds: free values within the
limits of R112. -/
def takeTuner (n : Fin 4) (freq half : Nat) (s : State) : State :=
  let s := commitTuner n [(0x0400, freq), (0x0401, 0), (0x0402, 2000), (0x0403, ((ifWidthFor half).getD 2400 : Nat))] s
  let t := s.rf.tuners[n]
  match t.plan with
  | some pl =>
    let e : Recall := match (if useRecall t pl s then recallOf t pl else none) with
      | some e => e
      | none =>
        { plan := pl, band := match searchStart t pl with | some k => k.val | none => (Config.freeValue s.fresh).natAbs % 64,
          irGain := Config.freeValue (s.fresh + 1) % 2001 - 1000, irPhase := Config.freeValue (s.fresh + 2) % 10001 - 5000,
          trim := (Config.freeValue (s.fresh + 3)).natAbs % 256, temp := 0, dtSec := 0 }
    let e := { e with temp := dieTemp s, dtSec := BitVec.ofNat 32 (dtSec (now s)) }
    useMany 4 (modTuner n (fun t => { t with
      st := .rx, band := e.band, irGain := e.irGain, irPhase := e.irPhase, trim := e.trim,
      recalls := writeRecall e t.recalls, recallDirty := true }) s)
  | none => s

/-- Sets a carver up for an OWN path (R382): DECIM 64 on a converter, centred on the frequency. -/
def takeCarver (k : Fin 8) (conv : Option (Fin 2)) (freq : Nat) (s : State) : State :=
  modCarver k (fun x => { x with
    cfg := fmerge x.cfg [(0x0300, match conv with | some i => (i.val : Int) + 1 | none => 0), (0x0301, roundDiv ((freq : Int) * 2 ^ 32) 614400000),
      (0x0302, 64)],
    stopped := false }) s

/-- The start verification of a level job (R379): the preliminary reading fixes the level of its tones, and the tone gives the start
correction. -/
def verifyStart (j : Job) (x : JobPath) (c : Fin 64) (r : ToneReading) (s : State) : Job × State :=
  if !levelJob j then (j, s)
  else
    let (prelim, s) := levelFree x.src r.prelim s
    let (seen, s) := levelFree x.src r.tone s
    let level := toneLevel prelim
    ({ j with tone := level, cStart := expectedTone level x.src (jobTone j x c s) s - seen, toneBad := decide (2 ≤ r.spoilt) }, s)

/-- Starts a job on its path after its first verification (R379, R381 to R384); probes held for its tuner are deferred (R115). -/
def startJob (j : Job) (x : JobPath) (c p : Fin 64) (r : ToneReading) (s : State) : State :=
  let y := s.cx.ctxs[c]
  let tuner := if x.own = 1 then srcTuner x.src else none
  let carver := if x.own = 2 then srcCarver x.src else none
  let saved := match carver with | some k => s.rf.carvers[k].cfg | none => []
  let s := match tuner, carver with
    | some n, _ => openOwn p c x.src y.freq (takeTuner n y.freq (halfBand y.std y.cfg) s)
    | _, some k => openOwn p c x.src y.freq (takeCarver k x.conv y.freq s)
    | _, _ => s
  let path := if x.own = 0 then y.primary else some p
  let s := match path with
    | some q => modPath q (fun z => { z with broken := false }) s
    | none => s
  let j := { j with
    running := true, path := path, own := x.own, tuner := tuner, carver := carver, wheel := x.wheel, began := now s,
    cStart := 0, tone := 0, toneBad := false, std := y.std, freq := y.freq, carverCfg := saved, unsealed := s.sg.sealSt != .sealed_,
    broken := false, tap := none, tapped := 0, tapClips := 0, gainSteps := [] }
  let (j, s) := verifyStart j x c r s
  let s := match srcTuner x.src with
    | some n => deferProbes n s
    | none => s
  settleState (modSg (fun g => { g with jobs := g.jobs.map fun k => if k.id = j.id then j else k }) s)

/-- A queued job starts after its first verification (R379, R381): it is the first of those that can start. A level job whose Slip is held
by another first has it released. -/
def execSaggarJobStart (t : DT) (job : BitVec 32) (tone : ToneReading) (path : Fin 64) (s : State) : Host.Outcome State Fault Refusal :=
  let s := moment t s
  .next (match s.sg.jobs.find? (·.id == job) with
    | some j =>
      if !sgActs s || !isRunning s || !canStart j path s || s.sg.jobs.any (fun k => beforeJob k j && canStart k path s) then s
      else if levelJob j && !slipForSaggar s then claimSlip s
      else match idx 64 j.ctx with
        | some c => match choosePath j.pathSel c s with
          | some x => endSlip (startJob j x c path tone s)
          | none => s
        | none => s
    | none => s)

/-! ### Job end (R378 to R380, R385) -/

/-- Half the sum of the corrections added to a level in 0.01 dBm (R379). -/
def correctedLevel (value cStart cEnd : Int) : Int := ratio (2 * value + cStart + cEnd) 2

/-- The square root of the sum of two squares, rounded up or down where it is not whole: which, the spec leaves open (R378, log entry 9). -/
def rootSum (a b : Nat) : Nat :=
  let n := a * a + b * b
  let r := (List.range 24).foldr (fun i (r : Nat) => if (r + 2 ^ i) * (r + 2 ^ i) ≤ n then r + 2 ^ i else r) 0
  if r * r < n && Config.rootUp n then r + 1 else r

/-- Whether verification fails (R379, R388, R392, R395): a correction beyond 1.5 dB, two that differ by more than 0.2 dB, a tone that
gain steps spoilt twice, a drift or a late verification run. -/
def verifyFails (j : Job) (r : JobOutcome) (cEnd : Int) (s : State) : Bool :=
  levelJob j && (j.toneBad || decide (2 ≤ r.tone.spoilt) || decide (150 < j.cStart.natAbs) || decide (150 < cEnd.natAbs) || decide (20 < (j.cStart - cEnd).natAbs)
    || s.sg.verifyBad || s.sg.verifyLate)

/-- What a job reads (R378, R385): value, uncertainty and end correction; whether the conditions of R378 hold, and whether there was an
unbroken minute where MPX power asks for one. -/
structure Reading where
  value : Int
  unc : Int
  cEnd : Int
  holds : Bool
  minute : Bool
  deriving DecidableEq, Repr

/-- The highest mean over 60 unbroken seconds in a row, slid in steps of 1 s, as the sum of the 60 (R378); none without such a minute. -/
def bestMinute (l : List (Option Nat)) : Option Nat :=
  let full := (runsOf 60 l).filter fun w => w.all (·.isSome)
  if full.isEmpty then none else some (greatestOf (full.map fun w => sumOf (w.filterMap id)))

/-- The source that a running job reads. -/
def jobSource (j : Job) (s : State) : Nat := match j.path with | some p => s.cx.paths[p].source | none => 0

/-- The end correction of a level job: the tone at the level of the start tone (R379). -/
def endCorrection (j : Job) (r : JobOutcome) (s : State) : Int × State :=
  let src := jobSource j s
  let (seen, s) := levelFree src r.tone.tone s
  let off := centreOffset { own := j.own, src := src, conv := none, wheel := none } j.freq s
  let occupied := match idx 64 j.ctx with | some c => halfBand j.std s.cx.ctxs[c].cfg | none => 0
  let f := toneFreq (srcTuner src).isNone off j.freq (measBand j.std j.bandwidth) occupied
  (expectedTone j.tone src f s - seen, s)

/-- What a job measured (R378 to R380). Where the spec states no value (no power, no antenna factor, no minute, no carrier), free values. -/
def measured (j : Job) (r : JobOutcome) (s : State) : Reading × State :=
  let src := jobSource j s
  let ul : Nat := if src < 8 then 100 else 50
  match j.quantity with
  | 0 | 1 =>
    let (raw, s) := levelFree src r.power s
    let (cEnd, s) := endCorrection j r s
    let level := correctedLevel raw j.cStart cEnd
    let strong := decide (100 * r.noise.1 * r.power.2 ≤ r.power.1 * r.noise.2)
    if j.quantity = 1 then ({ value := level, unc := ul, cEnd := cEnd, holds := strong, minute := true }, s)
    else match (inputOf src s).bind fun i => antenna s.sg.afTables[i] j.freq with
      | some (af, u) => ({ value := level + 11000 + af, unc := rootSum ul u.toNat, cEnd := cEnd, holds := strong, minute := true }, s)
      | none =>
        ({ value := freeNow s, unc := freeNow (useFree s), cEnd := cEnd, holds := false, minute := true }, useFree (useFree s))
  | 2 =>
    let cnr := decide (400 ≤ r.cnr)
    if r.peaks.isEmpty then ({ value := freeNow s, unc := freeNow (useFree s), cEnd := 0, holds := cnr, minute := true }, useFree (useFree s))
    else
      let v := ratio (greatestOf r.peaks) 10
      ({ value := v, unc := ratio v 100 + 20, cEnd := 0, holds := cnr, minute := true }, s)
  | 3 =>
    let cnr := decide (400 ≤ r.cnr)
    match bestMinute r.seconds with
    | some n =>
      if n = 0 then ({ value := freeNow s, unc := 20, cEnd := 0, holds := cnr, minute := true }, useFree s)
      else ({ value := hundredthsDb n (60 * 180500000), unc := 20, cEnd := 0, holds := cnr, minute := true }, s)
    | none => ({ value := freeNow s, unc := 20, cEnd := 0, holds := cnr, minute := false }, useFree s)
  | _ =>
    let unc := 100 + 100 * 65536
    match modDepth 10000 r.envelope with
    | some (p, m) =>
      let deep (v : Int) : Bool := decide (500 ≤ v) && decide (v ≤ 10000)
      ({ value := p % 65536 + m % 65536 * 65536, unc := unc, cEnd := 0, holds := decide (400 ≤ r.cnr) && deep p && deep m, minute := true }, s)
    | none => ({ value := freeNow s, unc := unc, cEnd := 0, holds := false, minute := true }, useFree s)

/-- Whether the unbroken part of a job is below 90 % of its duration: counted in the samples at f_mid that its tap copied (R385). -/
def tooBroken (j : Job) (s : State) : Bool :=
  match j.path with
  | some p =>
    let x := s.cx.paths[p]
    decide (j.tapped * 100000 < 90 * (x.fin / (2 * x.m * 2 ^ x.h)) * j.duration)
  | none => true

/-- The INVALID bits of a measured job (R385, R387). -/
def invalidBits (j : Job) (r : JobOutcome) (m : Reading) (s : State) : Nat :=
  let wrong := match j.expected with
    | some k => j.std != .am && k != r.identity
    | none => false
  bit (decide (0 < j.tapClips)) + 2 * bit (tooBroken j s || !m.minute) + 4 * bit (!m.holds)
    + 8 * bit (verifyFails j r m.cEnd s || r.markers.any fun (d : Int) => decide (50 < d.natAbs)) + 16 * bit wrong

/-- A running job has lasted its duration and ends after its last verification (R379, R381, R385). -/
def execSaggarJobEnd (t : DT) (job : BitVec 32) (r : JobOutcome) (s : State) : Host.Outcome State Fault Refusal :=
  let s := moment t s
  .next (match s.sg.jobs.find? (·.id == job) with
    | some j =>
      let finish := dtAdd j.began (msDt j.duration)
      if !j.running || decide ((now s).toNat < finish.toNat) then s
      else if levelJob j && !slipForSaggar s then claimSlip s
      else
        let (m, s) := measured j r s
        let broken := j.broken || (match j.path with | some p => s.cx.paths[p].broken | none => false)
        let v : Verdict :=
          { finish := finish, value := m.value, unc := m.unc, cEnd := m.cEnd, ident := r.identity, invalid := invalidBits j r m s, broken := broken }
        let wide := wideJob j s
        endSlip (releaseJob j (dropJob job (writeResult j v wide s)))
    | none => s)

/-! ### The legal log (R34, R390, R391) -/

/-- Commits the oldest formed record to the vault ring (R390): ledger class 8, the ring of 16 384, and DELIVER. -/
def commitOne (s : State) : State :=
  match s.sg.formed with
  | (q, d) :: rest =>
    let s := settle 8 1 (modSg (fun g => { g with
      formed := rest, committed := q + 1, log := (g.log ++ [(q, d)]).drop (g.log.length + 1 - 16384) }) s)
    if s.sg.deliver then deliver 2 (sherdRec 0x51 q d false) s else s
  | [] => s

/-- A legal Sherd is committed within 10 ms of forming it, in sequence order (R390). -/
def execLegalSherdCommit (t : DT) (s : State) : Host.Outcome State Fault Refusal :=
  let s := moment t s
  .next (if sgActs s || s.sg.st == .stopped then commitOne s else s)

/-- Commits every formed record. -/
def commitAll (s : State) : State := s.sg.formed.foldl (fun s _ => commitOne s) s

/-- The numbers allocated and not committed, up to the end of the reservation at a cold boot, are covered by one gap record (R34, R391);
those that were formed are settled in class 8. -/
def legalGap (s : State) : State :=
  let g := s.sg
  let last := if g.coldBoot then g.reserved else g.seq
  let s := settle 8 s.host.ledger[8].held.toNat (modSg (fun g => { g with seq := last, committed := last, formed := [] }) s)
  if g.committed.toNat < last.toNat then
    legalSherd 1 0xFFFF (now s) (now s)
      (gapPayload 3 1 (last.toNat - g.committed.toNat) (g.committed.toNat : Int) ((last.toNat : Int) - 1)) false s
  else s

/-! ### Faults and boots (R391, R393) -/

/-- Codes of the SG_FAULT kinds (R413). -/
def faultKind : SgFaultKind → Nat
  | .lockstep => 0
  | .watchdog => 1
  | .sram => 2
  | .vault => 3

/-- An SG_FAULT Sherd (R413). -/
def sgFaultSherd (kind : Nat) (s : State) : State :=
  legalSherd 0x0106 0xFFFF (now s) (now s) (pack 0 48 [(0, 1, kind), (4, 4, auditOf s)]) false s

/-- The Sherds of a Saggar fault in the legal log: SG_FAULT, and FAULT where it touched a job (R40, R391). -/
def faultSherds (k : SgFaultKind) (s : State) : State :=
  legalFault (s.sg.jobs.any (·.fault)) 6 0 (s.sg.lastFault.getD (now s)) (now s) (sgFaultSherd (faultKind k) s)

/-- The results of the jobs that a fault ended: FAULT and CANCELLED (R391). -/
def faultResults (s : State) : State := (s.sg.jobs.filter (·.fault)).foldl (fun s j => cutJob j 96 s) s

/-- The Saggar enters STOPPED and stays there (R391): the log is opened, with the fault and the stop. -/
def stopSaggar (kind : Option SgFaultKind) (s : State) : State :=
  let s := legalGap (modSg (fun g => { g with st := .stopped, recovering := none, prevTag := zeros 8 }) s)
  let s := match kind with
    | some k => faultSherds k s
    | none => s
  sgFaultSherd 5 (faultResults s)

/-- The running jobs of a Saggar that fails stop reading their paths; their results follow (R391). -/
def haltJobs (s : State) : State :=
  (runningJobs s).foldl (fun s j =>
    dropClaim (releaseJob j (modSg (fun g => { g with jobs := g.jobs.map fun k =>
      if k.id = j.id then { k with running := false, fault := true, path := none } else k }) s))) s

/-- A Saggar fault (R391): the seal state becomes FAULT, running jobs end, what is not committed is lost. A second fault within 24 h stops
the Saggar. One in a boot that has lost its reserved numbers leaves them to the next boot's gap record (R34). -/
def execSaggarFault (t : DT) (kind : SgFaultKind) (s : State) : Host.Outcome State Fault Refusal :=
  let s := moment t s
  .next (if s.sg.st = .off || s.sg.st = .stopped then s
    else
      let again := match s.sg.lastFault with
        | some d => decide (dtSince d (now s) ≤ daysDt 1)
        | none => false
      let s := faultSherd 6 0 (now s) (now s) (haltJobs s)
      let s := modSg (fun g => { g with formed := [], lastFault := some (now s), coldBoot := g.coldBoot && g.st == .boot }) s
      let s := if s.sg.sealSt = .sealed_ || s.sg.sealSt = .unsealed then
          sealEvent 4 (modSg (fun g => { g with sealBefore := g.sealSt, sealSt := .fault }) (bumpCounter 0 s))
        else s
      if again then stopSaggar (some kind) s else modSg (fun g => { g with st := .boot, recovering := some kind }) s)

/-- VDD_SG arrives and the Saggar boots (R393). -/
def execVddSgArrival (t : DT) (s : State) : Host.Outcome State Fault Refusal :=
  let s := moment t s
  .next (if s.sg.st = .off && s.power.porstN then modSg (fun g => { g with st := .boot, coldBoot := true }) s else s)

/-- The Saggar without power: its SRAM is lost (R391). -/
def sgDark (g : SaggarSt) : SaggarSt :=
  { g with
    st := .off, jobs := [], formed := [], responses := [], lateResponses := [], lastResponse := none, lastFault := none, recovering := none,
    coldBoot := true, imageNext := [], halted := false }

/-- VDD_SG leaves its range (R391): what its jobs held is released, and its host commands complete with HW_FAULT. -/
def execVddSgLoss (t : DT) (s : State) : Host.Outcome State Fault Refusal :=
  let s := moment t s
  .next (if s.sg.st = .off then s
    else
      let s := modSg sgDark (haltJobs s)
      finishAll ((s.host.held.filter fun h => h.op / 256 = 0x0C && decide (h.entry.target.toNat < 64)).map (·.id)) .hwFault [] s)

/-- The software that a boot found (R376, R393). -/
def loadImage (b : Bool) (g : SaggarSt) : SaggarSt :=
  let x := if b then g.areas[1] else g.areas[0]
  { g with activeB := b, version := x.1, checksum := x.2 }

/-- A boot Sherd (R413). -/
def bootSherd (s : State) : State :=
  legalSherd 0x0107 0xFFFF (now s) (now s)
    (pack 0 4 [(0, 4, s.sg.version.toNat)] ++ fit 4 s.sg.checksum ++ pack 8 40 [(8, 1, bit s.sg.activeB), (9, 1, sealCode s.sg.sealSt)]) false s

/-- A seal in FAULT returns to its state before (R372, R391). -/
def restoreSeal (s : State) : State :=
  if s.sg.sealSt = .fault then sealEvent 5 (modSg (fun g => { g with sealSt := g.sealBefore }) s) else s

/-- The end of the last invocation block that the Saggar persisted (R405, R418): of the block in use, or of the next once 75 % of it is
used. A cold boot resumes there. -/
def invocationEnd (n : Nat) : Nat :=
  if n = 0 then 0
  else
    let k := (n - 1) / 65536
    if 49152 ≤ n - k * 65536 then (k + 2) * 65536 else (k + 1) * 65536

/-- The boot ends (R393): READY with the gap record, what a fault left to write, the boot Sherd and the start-up verification; or
STOPPED, also where a recovery has not passed within 500 ms of its fault (R391). -/
def execSaggarBootDone (t : DT) (areaB : Option Bool) (selfTest : Bool) (s : State) : Host.Outcome State Fault Refusal :=
  let s := moment t s
  .next (if s.sg.st ≠ .boot then s
    else
      let kind := s.sg.recovering
      let inTime := kind.isNone || s.sg.lastFault.all fun f => decide (dtSince f (now s) ≤ msDt 500)
      let s := modSg (fun g => { g with
        boots := g.boots + 1, invocation := if g.coldBoot then invocationEnd g.invocation else g.invocation }) s
      match areaB, selfTest && inTime with
      | some b, true =>
        let s := modSg (fun g => { loadImage b g with st := .ready, recovering := none, prevTag := zeros 8 }) s
        let s := legalGap s
        let s := match kind with
          | some k => sgFaultSherd 4 (faultResults (faultSherds k s))
          | none => s
        verifyNow (bootSherd (restoreSeal (modSg (fun g => { g with coldBoot := false }) s)))
      | some b, false => stopSaggar kind (modSg (loadImage b) s)
      | none, _ => stopSaggar kind (modSg (fun g => { g with version := 0, checksum := zeros 32 }) s))

/-! ### Verification (R388, R392) -/

/-- VERIFY_MAX has passed without a run: level results are invalid until the next passing run (R392). -/
def execVerifyMaxExpiry (t : DT) (s : State) : Host.Outcome State Fault Refusal :=
  let s := moment t s
  .next (if s.sg.verifyMax * 3600 * 2 ^ 32 ≤ dtSince s.sg.lastVerify (now s) then modSg (fun g => { g with verifyLate := true }) s else s)

/-- The sixteen frequencies of a verification run in kHz, spread logarithmically from 0.1 to 1500 MHz (R388). DESIGN CHOICE (log entry 86):
rounded down to whole kHz. -/
def verifyKhz (k : Nat) : Nat := bisect 21 fun n => decide (n ^ 15 ≤ 100 ^ 15 * 15000 ^ k)

/-- The largest drift of the detector's readings against the values stored at manufacture in 0.01 dB, with its frequency in kHz (R388). -/
def largestDrift (levels : List Int) : Int × Nat :=
  (List.range 16).foldl (fun (b : Int × Nat) k =>
    let d := levels.getD k 0 - Config.slipStored k
    if b.1.natAbs < d.natAbs then (d, verifyKhz k) else b) (0, verifyKhz 0)

/-- A verification run ends with its largest drift in 0.01 dB and the frequency of it in kHz (R388, R413). A drift beyond 0.15 dB stays
until an external calibration. The Cone receives it for its trend. -/
def endVerify (drift : Int) (khz : Nat) (s : State) : State :=
  let bad := decide (15 < drift.natAbs)
  let s := modMnt (fun m => { m with cone := { m.cone with
    verifs := (m.cone.verifs ++ [(now s, m.cone.heat.toNat, drift)]).filter fun x => decide (dtSince x.1 (now s) ≤ daysDt 365) } }) s
  let s := modSg (fun g => { g with verifyBad := g.verifyBad || bad, verifyLate := g.verifyLate && bad, lastVerify := now s }) s
  legalSherd 0x0104 0xFFFF (now s) (now s) (pack 0 48 [(0, 1, bit bad), (2, 2, drift), (4, 4, khz)]) false s

/-! ### Host commands (R343, R371, R381, R387, R391) -/

/-- A command of the Saggar group begins only while the Saggar has power (R391). -/
def sgCmd (body : Held → State → State) (h : Held) (s : State) : State :=
  if s.sg.st = .off then reject h .hwFault s else body h s

def specSgReadResult : Spec := outCmd 0x0C00 16 tZero [(12, 4)]

/-- SG_READ_RESULT: NOT_LEGAL on OQ6404-NFB-I (R5, R387). -/
def doSgReadResult : Held → State → State := sgCmd fun h s =>
  let job := BitVec.ofNat 32 (le (Entry.args h.entry) 12 4)
  if s.sg.jobs.any (·.id == job) then reject h .errState s
  else match s.sg.results.find? (·.job == job) with
    | some r => finishOut h (if s.ident.nfb then .notLegal else .ok) (resultArea r) none s
    | none => fail h .errParam (Entry.offset h.entry 12) .outOfRange s

def execSgReadResult (e : Entry) (s : State) : Host.Outcome State Fault Refusal :=
  .next (hostCmd (.sgReadResult e) specSgReadResult doSgReadResult e s)

def specSgStatus : Spec := { plain 0x0C01 1 tZero [(0, 1)] with range := fun _ _ a => oneOf a 0 [0, 1] }

/-- SG_STATUS: summary or identity (R343, R371, R376). -/
def doSgStatus : Held → State → State := sgCmd fun h s =>
  let g := s.sg
  finish h .ok (if le (Entry.args h.entry) 0 1 = 0 then
      [(16, 1, sealCode g.sealSt), (17, 1, sgStateCode g.st), (18, 2, (queuedJobs s).length), (20, 4, auditOf s), (24, 8, dtInt (dueDate g))]
    else [(16, 4, g.version.toNat), (20, 4, le g.checksum 0 4)]) s

def execSgStatus (e : Entry) (s : State) : Host.Outcome State Fault Refusal :=
  .next (hostCmd (.sgStatus e) specSgStatus doSgStatus e s)

def specSgRequestMeasure : Spec :=
  { plain 0x0C02 16 tContext [(0, 1), (4, 12)] with
    remote := remoteCtx
    range := fun _ _ a => require (le a 0 1 < 5) 0 ++ require (100 ≤ le a 4 4 && le a 4 4 ≤ 600000) 4 }

/-- SG_REQUEST_MEASURE (R381): PATH AUTO and no expected identity. -/
def doSgRequestMeasure : Held → State → State := sgCmd fun h s =>
  let a := Entry.args h.entry
  let r : Request :=
    { quantity := le a 0 1, sel := 0, duration := le a 4 4, start := BitVec.ofNat 64 (le a 8 8), expected := none, bandwidth := 0, lport := false }
  match idx 64 h.entry.target.toNat with
  | some c => match judge r c s with
    | some .state => reject h .errState s
    | some .resource => reject h .noResource s
    | some .duration => fail h .errParam (Entry.offset h.entry 4) .outOfRange s
    | some _ => fail h .errParam (Entry.offset h.entry 0) .outOfRange s
    | none =>
      let (j, s) := queueJob r c s
      finish h .ok [(16, 4, j.id.toNat), (24, 8, dtInt j.planned)] s
  | none => reject h .errState s

def execSgRequestMeasure (e : Entry) (s : State) : Host.Outcome State Fault Refusal :=
  .next (hostCmd (.sgRequestMeasure e) specSgRequestMeasure doSgRequestMeasure e s)

end Sys2Proof.Machine
end

