-- ==== Sys2Proof/Machine/LPort.lean ====
section
/-!
DEFINITION. LPort.lean: the Saggar's two-wire port: its state words and every request and response of R392 (R364, R365, R373 to R377,
R380, R389, R392, R394).
-/
namespace Sys2Proof.Machine

/-! ### Framing, responses (R347 to R349, R364, R392) -/

/-- The LPORT's address (R347). -/
def lpAddress : Nat := 0x5A

/-- Answers a read; PEC is always on (R364). -/
def lpSend (code : Nat) (counted : Bool) (l : List Byte) (s : State) : State :=
  emit (.twoWire .lport (readBytes lpAddress code counted true l)) s

def lpNack (s : State) : State := emit (.nack .lport) s

/-- A PEC error of the LPORT is counted (R349, R365). -/
def lpPecError (s : State) : State := modSg (fun g => { g with pecErr := true, pecErrors := g.pecErrors + 1 }) s

/-- The seal state, or the one before a fault (R391). -/
def sealHeld (g : SaggarSt) : Seal := if g.sealSt = .fault then g.sealBefore else g.sealSt

/-- Whether the LPORT answers a code: once the Saggar has booted (R367); in STOPPED only SG_STATUS, SG_IDENTIFY and, when the seal state
was UNSEALED, the image commands (R391). -/
def lpAnswers (code : Nat) (s : State) : Bool :=
  sgActs s || (s.sg.st == .stopped
    && (code == 0x01 || code == 0x02 || ((code == 0x1D || code == 0x1E) && sealHeld s.sg == .unsealed)))

/-- An address match wakes the halted cores (R394). -/
def lpWake : State → State := modSg fun g => { g with halted := false }

/-- A read command: its bytes, or a NACK. -/
def lpRead (t : DT) (code : Nat) (counted : Bool) (data : State → List Byte) (s : State) : State :=
  let s := lpWake (moment t s)
  if lpAnswers code s then lpSend code counted (data s) s else lpNack s

/-- Puts a response into the store (R392). -/
def respond (st : Status) (code : Nat) (data : List Byte) : State → State :=
  modSg fun g => { g with responses := g.responses ++ [responseOf st code data] }

/-- A write command (R348, R364, R392): NACKed while the store of 8 is full; its request is carried out on its data. `ok` judges the
length: a byte count that it refuses is NACKed, and so is a byte beyond the length of a fixed block; a write that ends early has no
effect. -/
def lpWrite (t : DT) (code : Nat) (counted : Bool) (ok : Nat → Bool) (x : Xfer) (body : List Byte → State → State) (s : State) : State :=
  let s := lpWake (moment t s)
  let n := if counted then (x.data.headD 0).toNat else x.data.length
  if !lpAnswers code s || 8 ≤ s.sg.responses.length then lpNack s
  else if !ok n then (if (counted && !x.data.isEmpty) || (List.range n).any ok then lpNack s else s)
  else match frame lpAddress code counted n true x with
    | .data l => body l s
    | .nothing => s
    | .nacked => lpNack s
    | .pecError => lpPecError (lpNack s)
    | .pecMissing => lpPecError s

/-- A change of a legal parameter (R374, R375): refused while SEALED or with the audit counter saturated. -/
def legalChange (code : Nat) (change : State → State) (s : State) : State :=
  if s.sg.sealSt = .sealed_ then respond .sealed_ code [] s
  else if auditFull s then respond .counterSaturated code [] s
  else change s

/-- An accepted change of a parameter: the audit counter, the SG_PARAM Sherd that names it, and the response (R374, R413). -/
def acceptChange (code param input : Nat) (value : List Byte) (s : State) : State :=
  let s := bumpCounter 0 s
  respond .ok code [] (legalSherd 0x0103 0xFFFF (now s) (now s)
    (pack 0 16 [(0, 1, param), (1, 1, input), (4, 4, auditOf s)] ++ fit 32 (sha256 value)) false s)

/-! ### Reads (R365, R392) -/

/-- The cores wake on an address match in Dormant (R394). -/
def execLportAddressWake (t : DT) (s : State) : Host.Outcome State Fault Refusal := .next (lpWake (moment t s))

/-- The 12 bytes of SG_STATUS. -/
def sgStatusBytes (s : State) : List Byte :=
  pack 0 12 [(0, 1, sealCode s.sg.sealSt), (1, 1, sgStateCode s.sg.st), (2, 1, (runningJobs s).length), (3, 1, (queuedJobs s).length),
    (4, 4, auditOf s), (8, 1, s.sg.responses.length), (9, 1, bit s.power.sealSw + 2 * bit s.sg.tamper)]

def execLportSgStatus (t : DT) (s : State) : Host.Outcome State Fault Refusal := .next (lpRead t 0x01 false sgStatusBytes s)

/-- The 48 bytes of SG_IDENTIFY. -/
def sgIdentifyBytes (s : State) : List Byte :=
  leBytes 4 s.sg.version.toNat ++ fit 32 s.sg.checksum ++ pack 36 4 [(36, 1, bit s.ident.nfb), (37, 1, 0xA1)] ++ leBytes 8 s.ident.serial.toNat

def execSgIdentify (t : DT) (s : State) : Host.Outcome State Fault Refusal := .next (lpRead t 0x02 true sgIdentifyBytes s)

/-- Words 0 to 2 of R365. -/
def sgPortBytes (s : State) : List Byte :=
  let g := s.sg
  leBytes 4 g.timing.word0.toNat ++ leBytes 4 g.timing.word1.toNat
    ++ pack 8 4 [(8, 1, bit g.busStuck), (9, 1, bit g.pecErr + 2 * bit g.stretchTo), (10, 2, g.pecErrors.toNat)]

def execSgPortRead (t : DT) (s : State) : Host.Outcome State Fault Refusal := .next (lpRead t 0x03 false sgPortBytes s)

def sgCounterBytes (s : State) : List Byte := s.sg.counters.toList.flatMap fun c => leBytes 4 c.toNat

def execSgCounters (t : DT) (s : State) : Host.Outcome State Fault Refusal := .next (lpRead t 0x04 false sgCounterBytes s)

/-- Bits 8 and 9 of word 2 are cleared by writing ones (R365). -/
def clearPort (w : Nat) (g : SaggarSt) : SaggarSt :=
  { g with pecErr := g.pecErr && !testBit w 8, stretchTo := g.stretchTo && !testBit w 9 }

/-- The port state words are written (R365, R374). -/
def doSgPort (l : List Byte) (s : State) : State :=
  legalChange 0x03 (fun s =>
    acceptChange 0x03 5 0 (l.take 8) (modSg (fun g =>
      { (clearPort (le l 8 4) g) with timing := { word0 := BitVec.ofNat 32 (le l 0 4), word1 := timingWord1 (BitVec.ofNat 32 (le l 4 4)) } }) s)) s

def execSgPortWrite (t : DT) (x : Xfer) (s : State) : Host.Outcome State Fault Refusal :=
  .next (lpWrite t 0x03 false (· == 12) x doSgPort s)

/-! ### Responses (R392) -/

/-- Held result responses enter the store at free slots, oldest first. -/
def fillResponses (g : SaggarSt) : SaggarSt :=
  let room := 8 - g.responses.length
  { g with responses := g.responses ++ g.lateResponses.take room, lateResponses := g.lateResponses.drop room }

/-- The oldest response is read; one read in full leaves the store. -/
def execSgResponse (t : DT) (whole : Bool) (s : State) : Host.Outcome State Fault Refusal :=
  let r := s.sg.responses.head?
  let s := lpRead t 0x09 true (fun s => s.sg.responses.headD []) s
  .next (if !lpAnswers 0x09 s then s
    else modSg (fun g => match r with
      | some l => if whole then fillResponses { g with responses := g.responses.drop 1, lastResponse := some l } else { g with lastResponse := none }
      | none => { g with lastResponse := none }) s)

/-- The last response delivered is put back at the head (R354, R392). -/
def execSgResponseRedeliver (t : DT) (s : State) : Host.Outcome State Fault Refusal :=
  let s := lpWake (moment t s)
  .next (if !lpAnswers 0x0A s then lpNack s
    else modSg (fun g => match g.lastResponse with
      | some l => { g with responses := l :: g.responses, lastResponse := none }
      | none => g) s)

/-! ### Jobs (R381 to R387, R392) -/

/-- The request of SG_MEASURE. -/
def requestOf (l : List Byte) : Request :=
  { quantity := le l 2 1, sel := le l 3 1, duration := le l 4 4, start := BitVec.ofNat 64 (le l 8 8),
    expected := if le l 16 4 = 0xFFFFFFFF then none else some (le l 16 4), bandwidth := le l 20 4, lport := true }

/-- SG_MEASURE: the response carries the job and its planned start. -/
def doSgMeasure (l : List Byte) (s : State) : State :=
  let r := requestOf l
  match idx 64 (le l 0 2) with
  | some c =>
    if 4 < r.quantity || 3 < r.sel then respond .errParam 0x08 [] s
    else match judge r c s with
      | some .state => respond .errState 0x08 [] s
      | some .resource => respond .noResource 0x08 [] s
      | some _ => respond .errParam 0x08 [] s
      | none =>
        let (j, s) := queueJob r c s
        respond .ok 0x08 (leBytes 4 j.id.toNat ++ leBytes 8 (dtInt j.planned)) s
  | none => respond .errParam 0x08 [] s

def execSgMeasure (t : DT) (x : Xfer) (s : State) : Host.Outcome State Fault Refusal :=
  .next (lpWrite t 0x08 true (· == 24) x doSgMeasure s)

/-- SG_CANCEL ends a job requested over the LPORT (R392): its own response comes first. -/
def doSgCancel (l : List Byte) (s : State) : State :=
  match s.sg.jobs.find? fun j => j.id.toNat == le l 0 4 && j.lport && !j.fault with
  | some j => cutJob j 64 (respond .ok 0x0B [] s)
  | none => respond .errParam 0x0B [] s

def execSgCancel (t : DT) (x : Xfer) (s : State) : Host.Outcome State Fault Refusal :=
  .next (lpWrite t 0x0B true (· == 4) x doSgCancel s)

/-- SG_RESULT (R387). -/
def doSgResult (l : List Byte) (s : State) : State :=
  if s.sg.jobs.any (fun j => j.id.toNat == le l 0 4) then respond .errState 0x0C [] s
  else match s.sg.results.find? (fun r => r.job.toNat == le l 0 4) with
    | some r => respond .ok 0x0C (resultArea r ++ resultTail r) s
    | none => respond .errParam 0x0C [] s

def execSgResult (t : DT) (x : Xfer) (s : State) : Host.Outcome State Fault Refusal :=
  .next (lpWrite t 0x0C true (· == 4) x doSgResult s)

/-! ### The legal log (R390, R392) -/

def doSgLogSeek (l : List Byte) (s : State) : State :=
  respond .ok 0x10 [] (modSg (fun g => { g with seek := BitVec.ofNat 64 (le l 0 8) }) s)

def execSgLogSeek (t : DT) (x : Xfer) (s : State) : Host.Outcome State Fault Refusal :=
  .next (lpWrite t 0x10 false (· == 8) x doSgLogSeek s)

/-- The record that reading has come to: the oldest of the ring from the number sought on. -/
def logNext (g : SaggarSt) : Option (BitVec 64 × List Byte) := g.log.find? fun x => decide (g.seek.toNat ≤ x.1.toNat)

/-- SG_LOG_READ: one Sherd, or none past the newest; a read in full advances. -/
def execSgLogRead (t : DT) (whole : Bool) (s : State) : Host.Outcome State Fault Refusal :=
  let s := lpRead t 0x11 true (fun s => match logNext s.sg with | some x => x.2 | none => []) s
  .next (if lpAnswers 0x11 s && whole then
      modSg (fun g => match logNext g with
        | some x => { g with seek := x.1 + 1 }
        | none => g) s
    else s)

/-! ### Sealing (R372, R373) -/

/-- SG_SEAL: every condition of R373, then the audit value. -/
def doSgSeal (l : List Byte) (s : State) : State :=
  let g := s.sg
  if g.sealSt ≠ .unsealed || !s.power.sealSw || g.tamper || !(runningJobs s).isEmpty then respond .errState 0x14 [] s
  else if le l 0 4 ≠ auditOf s then respond .errParam 0x14 [] s
  else if auditFull s then respond .counterSaturated 0x14 [] s
  else respond .ok 0x14 [] (sealEvent 0 (modSg (fun g => { g with sealSt := .sealed_ }) (bumpCounter 1 (bumpCounter 0 s))))

def execSgSeal (t : DT) (x : Xfer) (s : State) : Host.Outcome State Fault Refusal :=
  .next (lpWrite t 0x14 true (· == 4) x doSgSeal s)

/-! ### Antenna factors and the Slip level table (R380, R389, R392) -/

/-- An entry put into a table in ascending frequency, in place of one of its frequency. -/
def putEntry (e : SgEntry) : List SgEntry → List SgEntry
  | [] => [e]
  | x :: rest => if e.khz < x.khz then e :: x :: rest else if e.khz = x.khz then e :: rest else x :: putEntry e rest

/-- The entries of 8 bytes from an offset. -/
def entriesAt (l : List Byte) (off : Nat) : List SgEntry :=
  (List.range ((l.length - off) / 8)).map fun i =>
    { khz := le l (off + 8 * i) 4, value := leInt l (off + 8 * i + 4) 2, unc := le l (off + 8 * i + 6) 2 }

/-- An entry as its 8 bytes. -/
def entryOut (e : SgEntry) : List Byte := leBytes 4 e.khz ++ leBytes 2 e.value ++ leBytes 2 e.unc

/-- SG_AF_WRITE: a table holds up to 64 entries. -/
def doSgAfWrite (l : List Byte) (s : State) : State :=
  legalChange 0x15 (fun s =>
    match idx 6 (le l 0 1) with
    | some i =>
      let old := if testBit (le l 1 1) 0 then [] else s.sg.afTables[i]
      let new := (entriesAt l 2).foldl (fun acc e => putEntry e acc) old
      if 1 < le l 1 1 || l.length % 8 ≠ 2 then respond .errParam 0x15 [] s
      else if 64 < new.length then respond .noResource 0x15 [] s
      else acceptChange 0x15 1 i.val (new.flatMap entryOut) (modSg (fun g => { g with afTables := upd g.afTables i fun _ => new }) s)
    | none => respond .errParam 0x15 [] s) s

def execSgAfWrite (t : DT) (x : Xfer) (s : State) : Host.Outcome State Fault Refusal :=
  .next (lpWrite t 0x15 true (fun n => decide (2 ≤ n ∧ n ≤ 210)) x doSgAfWrite s)

/-- Up to seven entries of a table. -/
def sevenEntries (t : List SgEntry) (first : Nat) : List Byte := ((t.drop first).take 7).flatMap entryOut

def doSgAfRead (l : List Byte) (s : State) : State :=
  match idx 6 (le l 0 1) with
  | some i => respond .ok 0x16 (sevenEntries s.sg.afTables[i] (le l 1 1)) s
  | none => respond .errParam 0x16 [] s

def execSgAfRead (t : DT) (x : Xfer) (s : State) : Host.Outcome State Fault Refusal :=
  .next (lpWrite t 0x16 true (· == 2) x doSgAfRead s)

/-- SG_CAL_WRITE (R389, R395): the Slip level table at the frequencies given, counters 0 and 3, a new interval, and its two Sherds. -/
def doSgCalWrite (l : List Byte) (s : State) : State :=
  legalChange 0x18 (fun s =>
    if l.length % 8 ≠ 0 then respond .errParam 0x18 [] s
    else if (runningJobs s).any levelJob then respond .errState 0x18 [] s
    else
      let es := entriesAt l 8
      let date : DT := BitVec.ofNat 64 (le l 0 8)
      let s := modSg (fun g => { g with
        slipTable := es.foldl (fun acc e => putEntry e acc) g.slipTable, calDate := date, verifyBad := false }) s
      let table := s.sg.slipTable.flatMap entryOut
      let s := acceptChange 0x18 0 0 table (bumpCounter 3 s)
      legalSherd 0x0105 0xFFFF (now s) (now s)
        (pack 0 16 [(0, 8, dtInt date), (8, 4, es.length), (12, 4, auditOf s)] ++ fit 32 (sha256 table)) false s) s

def execSgCalWrite (t : DT) (x : Xfer) (s : State) : Host.Outcome State Fault Refusal :=
  .next (lpWrite t 0x18 true (fun n => decide (8 ≤ n ∧ n ≤ 200)) x doSgCalWrite s)

def doSgCalRead (l : List Byte) (s : State) : State := respond .ok 0x19 (sevenEntries s.sg.slipTable (le l 0 1)) s

def execSgCalRead (t : DT) (x : Xfer) (s : State) : Host.Outcome State Fault Refusal :=
  .next (lpWrite t 0x19 true (· == 1) x doSgCalRead s)

/-- SG_VERIFY runs R388 at once. -/
def doSgVerify (_ : List Byte) (s : State) : State := respond .ok 0x1A [] (verifyNow s)

def execSgVerify (t : DT) (x : Xfer) (s : State) : Host.Outcome State Fault Refusal :=
  .next (lpWrite t 0x1A false (· == 0) x doSgVerify s)

/-! ### Parameters, key (R392) -/

/-- A new VERIFY_MAX: activity 6 runs at the lesser of 24 h and it, counted from the last run, and is due at once where that has
passed. -/
def setVerifyMax (hours : Nat) (s : State) : State :=
  let period := min 86400 (hours * 3600)
  let s := modSg (fun g => { g with verifyMax := hours }) s
  let s := modMnt (fun m => { m with acts := upd m.acts 6 fun a => { a with period := period } }) s
  modFiring 6 0 (fun f => { f with due :=
    if hours * 3600 * 2 ^ 32 < dtSince f.last (now s) then now s else dtAdd f.last (period * 2 ^ 32) }) s

/-- SG_PARAM: parameter 0 LEGAL_INTERVAL in days, 1 VERIFY_MAX in hours; bit 7 writes. -/
def doSgParam (l : List Byte) (s : State) : State :=
  let k := le l 0 1 % 128
  let v := le l 1 4
  if le l 0 1 < 128 then
    match k with
    | 0 => respond .ok 0x1B (leBytes 4 s.sg.legalInterval) s
    | 1 => respond .ok 0x1B (leBytes 4 s.sg.verifyMax) s
    | _ => respond .errParam 0x1B [] s
  else
    legalChange 0x1B (fun s =>
      if k = 0 ∧ 30 ≤ v ∧ v ≤ 3650 then
        acceptChange 0x1B 2 0 (leBytes 4 v) (changeDue 0 (fun g => { g with legalInterval := v }) s)
      else if k = 1 ∧ 1 ≤ v ∧ v ≤ 168 then acceptChange 0x1B 3 0 (leBytes 4 v) (setVerifyMax v s)
      else respond .errParam 0x1B [] s) s

def execSgParam (t : DT) (x : Xfer) (s : State) : Host.Outcome State Fault Refusal :=
  .next (lpWrite t 0x1B true (· == 5) x doSgParam s)

/-- SG_KEY_LOAD: a legal-log key wrapped under the Saggar transport key. -/
def doSgKeyLoad (l : List Byte) (s : State) : State :=
  legalChange 0x1C (fun s =>
    match keyUnwrap Config.sgTransportKey l with
    | some k => acceptChange 0x1C 4 0 k (modSg (fun g => { g with legalKey := k, keyIdent := g.keyIdent + 1, invocation := 0 }) s)
    | none => respond .authFailed 0x1C [] s) s

def execSgKeyLoad (t : DT) (x : Xfer) (s : State) : Host.Outcome State Fault Refusal :=
  .next (lpWrite t 0x1C true (· == 40) x doSgKeyLoad s)

/-! ### The image (R377) -/

/-- SG_IMAGE_BLOCK: data for the inactive area of 512 KB; bytes 4 to 7 are reserved. -/
def doSgImageBlock (l : List Byte) (s : State) : State :=
  if s.sg.sealSt = .sealed_ then respond .sealed_ 0x1D [] s
  else if le l 4 4 ≠ 0 || 524288 < le l 0 4 + (l.length - 8) then respond .errParam 0x1D [] s
  else respond .ok 0x1D [] (modSg (fun g => { g with imageNext := g.imageNext ++ [(le l 0 4, l.drop 8)] }) s)

def execSgImageBlock (t : DT) (x : Xfer) (s : State) : Host.Outcome State Fault Refusal :=
  .next (lpWrite t 0x1D true (fun n => decide (8 ≤ n ∧ n ≤ 232)) x doSgImageBlock s)

/-- The image that blocks make up, in the order they were written. -/
def imageBytes (l : List (Nat × List Byte)) : List Byte :=
  l.foldl (fun img x => patch (img ++ zeros (x.1 - img.length)) x.1 x.2) []

/-- An image whose signature verifies becomes active, and the Saggar restarts (R377); in STOPPED it stays stopped (R391). -/
def installImage (img : List Byte) (s : State) : State :=
  let g := s.sg
  let new : BitVec 32 × List Byte := (Config.imageVersion img, sha256 img)
  let s := respond .ok 0x1E [] (bumpCounter 2 (bumpCounter 0 s))
  let s := (runningJobs s).foldl (fun s j => cutJob j 64 s) s
  let s := legalSherd 0x0108 0xFFFF (now s) (now s)
    (pack 0 8 [(0, 4, g.version.toNat), (4, 4, new.1.toNat)] ++ fit 4 g.checksum ++ zeros 4 ++ fit 32 new.2) false s
  modSg (fun g => { g with
    areas := if g.activeB then g.areas.set 0 new else g.areas.set 1 new, activeB := !g.activeB, imageNext := [],
    st := if g.st = .stopped then .stopped else .boot, recovering := none,
    coldBoot := false }) (commitAll s)

/-- SG_IMAGE_COMMIT: the signature, then the version (R377). -/
def doSgImageCommit (l : List Byte) (s : State) : State :=
  legalChange 0x1E (fun s =>
    let img := imageBytes s.sg.imageNext
    if !Config.ecdsaOk img l then respond .authFailed 0x1E [] s
    else if Config.imageVersion img < s.sg.version then respond .errParam 0x1E [] s
    else installImage img s) s

def execSgImageCommit (t : DT) (x : Xfer) (s : State) : Host.Outcome State Fault Refusal :=
  .next (lpWrite t 0x1E true (· == 64) x doSgImageCommit s)

end Sys2Proof.Machine
end

