-- ==== Sys2Proof/Machine/Crypto.lean ====
section
/-!
DEFINITION. Crypto.lean: the key slots, the Glaze scheduler and its messages, the entropy source, the monotonic counters, and the log
commands (R396 to R420).
-/
namespace Sys2Proof.Machine

/-! ### Keys (R400 to R403) -/

/-- The slot a command names, and its key. -/
def slotOf (h : Held) : Option (Fin 64) := idx 64 h.entry.target.toNat
def keyAt (n : Nat) (s : State) : Option Key := match idx 64 n with | some i => s.cry.keys[i] | none => none

/-- Whether a key is an AES key (R342). -/
def isAes (k : Key) : Bool := decide (k.type < 2)

/-- Puts a new key into a slot with the next identifier (R400): a persistent one goes to the vault too. -/
def putKey (i : Fin 64) (type usage : Nat) (bytes : List Byte) (s : State) : Key × State :=
  let k : Key :=
    { type := type, usage := usage, ident := BitVec.ofNat 32 s.cry.nextIdent, bytes := bytes, counter := 0, blockEnd := 0, used := false,
      nearDone := false }
  let n := s.cry.nextIdent + 1
  (k, modVault (fun v => { v with
      nextIdent := n, keys := if testBit usage 3 then v.keys.set i (some k) else v.keys })
    (modCry (fun c => { c with keys := c.keys.set i (some k), nextIdent := n }) s))

/-- A KEY_EVENT Sherd (R413). -/
def keySherd (action : Nat) (i : Fin 64) (k : Key) (s : State) : State :=
  opSherd 0x50 0xFFFF (now s) (now s) (keyEvent action i.val k) s

/-- Whether identifiers have run out (R400). -/
def identsOut (s : State) : Bool := decide (0xFFFFFFFE ≤ s.cry.nextIdent)

/-- Whether a key has reached the end of its life (R406). -/
def worn (k : Key) : Bool := decide (keyEnd ≤ k.counter)

/-- A slot number of a parameter: 0 to 63, or also 0xFFFF. -/
def slotRange (none_ : Bool) (v off : Nat) : List Offence := require (v < 64 || (none_ && v == 0xFFFF)) off

def specCryKeyLoad : Spec :=
  { plain 0x0800 48 (tBelow 64) [(0, 4), (8, 40)] with
    secondary := fun _ => true
    bits := [(1, 31)]
    range := fun _ _ a => require (le a 0 1 < 3) 0 ++ slotRange true (le a 2 2) 2 }

/-- A key unwrapped under a slot or the device transport key (R401): none where the unwrap or the padding fails. -/
def unwrapped (type : Nat) (wrap wrapped : List Byte) : Option (List Byte) :=
  match keyUnwrap wrap wrapped with
  | some k => if type = 0 then (if (k.drop 16).all (· == 0) then some (k.take 16) else none) else some k
  | none => none

/-- CRY_KEY_LOAD (R342, R401). -/
def doCryKeyLoad (h : Held) (s : State) : State :=
  let a := Entry.args h.entry
  let w := le a 2 2
  match slotOf h with
  | some i =>
    let load (wrap : List Byte) : State :=
      if identsOut s then reject h .keyExhausted s
      else match unwrapped (le a 0 1) wrap ((a.drop 8).take 40) with
        | some bytes =>
          let (k, s) := putKey i (le a 0 1) (le a 1 1) bytes s
          finish h .ok [(16, 4, k.ident.toNat)] (keySherd 0 i k s)
        | none => reject h .authFailed s
    if s.cry.keys[i].isSome || s.power.pfail then reject h .errState s
    else if w = 0xFFFF then load Config.transportKey
    else match keyAt w s with
      | none => reject h .keyAbsent s
      | some k =>
        if !(isAes k && testBit k.usage 1) then fail h .errParam (Entry.offset h.entry 2) .outOfRange s
        else if worn k then reject h .keyExhausted s
        else load k.bytes
  | none => reject h .errState s

def execCryKeyLoad (e : Entry) (s : State) : Host.Outcome State Fault Refusal :=
  .next (hostCmd (.cryKeyLoad e) specCryKeyLoad doCryKeyLoad e s)

def specCryKeyDerive : Spec :=
  { plain 0x0801 40 (tBelow 64) [(0, 4), (8, 32)] with
    bits := [(1, 31)]
    range := fun _ _ a => require (le a 0 1 < 3) 0 ++ slotRange false (le a 2 2) 2 }

/-- One block of the derivation (R402). -/
def derivedBlock (parent label : List Byte) (serial : BitVec 64) (bits i : Nat) : List Byte :=
  fit 32 (hmac parent (beBytes 4 i ++ label ++ [0] ++ leBytes 8 serial.toNat ++ beBytes 4 bits))

/-- The derived key: L is 128 bits for AES-128, else 256; one block is enough for either. -/
def derivedKey (parent label : List Byte) (serial : BitVec 64) (type : Nat) : List Byte :=
  let bits := if type = 0 then 128 else 256
  (derivedBlock parent label serial bits 1).take (bits / 8)

/-- CRY_KEY_DERIVE (R342, R402). -/
def doCryKeyDerive (h : Held) (s : State) : State :=
  let a := Entry.args h.entry
  match slotOf h, keyAt (le a 2 2) s with
  | some _, none => reject h .keyAbsent s
  | some i, some p =>
    if !testBit p.usage 4 then fail h .errParam (Entry.offset h.entry 2) .outOfRange s
    else if s.cry.keys[i].isSome then reject h .errState s
    else if worn p || identsOut s then reject h .keyExhausted s
    else
      let (k, s) := putKey i (le a 0 1) (le a 1 1) (derivedKey p.bytes ((a.drop 8).take 32) s.ident.serial (le a 0 1)) s
      finish h .ok [(16, 4, k.ident.toNat)] (keySherd 1 i k s)
  | none, _ => reject h .errState s

def execCryKeyDerive (e : Entry) (s : State) : Host.Outcome State Fault Refusal :=
  .next (hostCmd (.cryKeyDerive e) specCryKeyDerive doCryKeyDerive e s)

def specCryKeyRetire : Spec := { plain 0x0802 0 (tBelow 64) [] with secondary := fun _ => true }

/-- CRY_KEY_RETIRE (R403): running messages go on, queued ones end with KEY_ABSENT. -/
def doCryKeyRetire (h : Held) (s : State) : State :=
  match slotOf h with
  | some i => match s.cry.keys[i] with
    | some k =>
      let gone := s.cry.queues.filter fun m => !(m.hash && m.slot == 0xFFFF) && m.slot == i.val
      let s := modCry (fun c => { c with
        keys := c.keys.set i none, queues := c.queues.filter fun m => !gone.any fun g => g.cmd == m.cmd }) s
      let s := modVault (fun v => { v with keys := v.keys.set i none }) s
      let s := finishAll (gone.map (·.cmd)) .keyAbsent [] s
      finish h .ok [(16, 8, if k.used then (k.counter : Int) - 1 else 0xFFFFFFFFFFFFFFFF)] (keySherd 2 i k s)
    | none => reject h .keyAbsent s
  | none => reject h .keyAbsent s

def execCryKeyRetire (e : Entry) (s : State) : Host.Outcome State Fault Refusal :=
  .next (hostCmd (.cryKeyRetire e) specCryKeyRetire doCryKeyRetire e s)

/-! ### The Glaze scheduler (R397) -/

/-- The cores that run a kind of message: GC0 to GC3, or the hash core. -/
def coresFor (hash : Bool) : List (Fin 5) := if hash then [4] else [0, 1, 2, 3]

/-- The most urgent message of a list; of equals the first. -/
def mostUrgent (l : List GlazeMsg) : Option GlazeMsg :=
  l.foldl (fun best x => match best with
    | some b => if b.cls < x.cls then some x else some b
    | none => some x) none

/-- The suspended messages of a kind. -/
def suspendedOf (hash : Bool) (s : State) : List GlazeMsg := (coresFor hash).flatMap fun c => s.cry.cores[c].suspended

/-- The queued messages of a kind. -/
def queuedOf (hash : Bool) (s : State) : List GlazeMsg := s.cry.queues.filter (·.hash == hash)

/-- A core takes a message from the queue or from the suspended. -/
def assign (c : Fin 5) (m : GlazeMsg) : State → State :=
  modCry fun y => { y with
    queues := y.queues.filter (·.cmd != m.cmd),
    cores := upd (y.cores.map fun g => { g with suspended := g.suspended.filter (·.cmd != m.cmd) }) c fun g => { g with running := some m } }

/-- A core suspends its message. -/
def suspend (c : Fin 5) : State → State :=
  modCry fun y => { y with cores := upd y.cores c fun g => { g with running := none, suspended := g.suspended ++ g.running.toList } }

/-- The core that gives way to a message (R397, R419): the one running the least urgent message below its class, with none of that class
suspended on it. -/
def victim (m : GlazeMsg) (s : State) : Option (Fin 5) :=
  ((coresFor m.hash).foldl (fun (best : Option (Fin 5 × Nat)) c =>
    match s.cry.cores[c].running with
    | some r =>
      if r.cls < m.cls && r.cls < 3 && !s.cry.cores[c].suspended.any (fun x => x.cls == r.cls)
          && (match best with | some b => decide (r.cls < b.2) | none => true) then some (c, r.cls)
      else best
    | none => best) none).map (·.1)

/-- Feeds the cores of a kind from the most urgent work that waits. The fuel bounds the messages moved. -/
def feedCores (hash : Bool) : Nat → State → State
  | 0, s => s
  | n + 1, s =>
    match (coresFor hash).find? fun c => s.cry.cores[c].running.isNone with
    | some c => match mostUrgent (suspendedOf hash s ++ queuedOf hash s) with
      | some m => feedCores hash n (assign c m s)
      | none => s
    | none => match mostUrgent (queuedOf hash s) with
      | some m => match victim m s with
        | some c => feedCores hash n (assign c m (suspend c s))
        | none => s
      | none => s

/-- Feeds every core. -/
def schedule (s : State) : State :=
  let n := s.cry.queues.length + 16
  feedCores true n (feedCores false n s)

/-! ### CRY_PROCESS (R342, R396, R404 to R407) -/

/-- The size of a message's output area content (R396). -/
def cryOut (mode len : Nat) : Nat := if mode < 5 then len else if mode < 7 then 0 else 32

/-- The tag lengths of a mode (R396). -/
def tagLengths (mode n : Nat) : Bool :=
  match mode with
  | 0 | 1 => decide (12 ≤ n ∧ n ≤ 16)
  | 2 | 3 => decide (4 ≤ n ∧ n ≤ 16) && n % 2 == 0
  | 5 | 6 => decide (8 ≤ n ∧ n ≤ 16)
  | _ => true

/-- Whether two areas overlap without starting together (R396). -/
def areasClash (a n b m : Nat) : Bool := a != b && decide (a < b + m) && decide (b < a + n)

/-- The longest input, AAD and output (R396). -/
def cryMax : Nat := 16777216

def specCryProcess : Spec :=
  { plain 0x0803 96 tZero [(0, 6), (8, 12), (24, 12), (40, 12), (56, 28)] with
    ptrOnly := fun _ => true
    mport := fun _ => false
    bits := [(2, 1)]
    range := fun _ _ a =>
      let mode := le a 0 1
      let len := le a 16 4
      require (mode < 9) 0 ++ require (le a 1 1 < 4) 1 ++ require (tagLengths mode (le a 3 1)) 3
        ++ (if mode = 7 then require (le a 4 2 == 0xFFFF) 4 else slotRange false (le a 4 2) 4)
        ++ require (len ≤ cryMax && !((mode == 1 || mode == 3) && !testBit (le a 2 1) 0 && decide (65536 < len))) 16
        ++ require (le a 32 4 ≤ cryMax) 32
        ++ require (!areasClash (le a 8 8) len (le a 40 8) (le a 48 4)) 40
        ++ require (le a 48 4 ≤ cryMax && cryOut mode len ≤ le a 48 4) 48 }

/-- Whether a key suits a mode (R396): its type and its usage bits. -/
def keySuits (mode : Nat) (k : Key) : Bool :=
  match mode with
  | 0 | 2 => isAes k && testBit k.usage 0
  | 1 | 3 => isAes k && testBit k.usage 1
  | 4 => isAes k && testBit k.usage 1 && !testBit k.usage 0
  | 5 | 6 => isAes k && testBit k.usage 2
  | _ => k.type == 2 && testBit k.usage 2

/-- Whether the device builds the nonce of a mode (R396). -/
def buildsNonce (mode : Nat) : Bool := mode == 0 || mode == 2

/-- A message enters the queue of its class (R397); `l` is the nonce built for it, as identifier and counter. -/
def enqueue (h : Held) (key : List Byte) (l : List Int) (s : State) : State :=
  let a := Entry.args h.entry
  let m : GlazeMsg := { cmd := h.id, cls := le a 1 1, hash := decide (7 ≤ le a 0 1), slot := le a 4 2, key := key }
  schedule (modCry (fun c => { c with queues := c.queues ++ [m] }) (note h (1 :: l) s))

/-- CRY_PROCESS begins, or goes on once its nonce block is reserved (R399, R404 to R406). -/
def admitMessage (h : Held) (s : State) : State :=
  let a := Entry.args h.entry
  let mode := le a 0 1
  if s.cry.entropy.failed then reject h .hwFault s
  else if mode = 7 then enqueue h [] [] s
  else match idx 64 (le a 4 2) with
    | none => reject h .keyAbsent s
    | some i => match s.cry.keys[i] with
      | none => reject h .keyAbsent s
      | some k =>
        if !keySuits mode k then fail h .errParam (Entry.offset h.entry 4) .outOfRange s
        else if worn k then reject h .keyExhausted s
        else if !buildsNonce mode then enqueue h k.bytes [] s
        else if k.counter < k.blockEnd then enqueue h k.bytes [(k.ident.toNat : Int), k.counter] (tagAll (useCounter i k s))
        else if s.power.pfail then reject h .errState s
        else askStore (.reservation i) (some h.id) (begin_ h s)

def doCryProcess (h : Held) (s : State) : State := admitMessage h s

def execCryProcess (e : Entry) (input aad : List Byte) (s : State) : Host.Outcome State Fault Refusal :=
  .next (hostCmd (.cryProcess e input aad) specCryProcess doCryProcess e s)

/-- What a message comes to: the output area, the tag to write, and whether a tag that was checked holds. -/
def cryResult (mode n : Nat) (key nonce input aad tag : List Byte) : List Byte × List Byte × Bool :=
  let len := input.length
  match mode with
  | 0 =>
    let r := gcm key nonce aad input
    (fit len r.1, (fit 16 r.2).take n, true)
  | 1 =>
    let pt := xorBytes input (fit len (aeadStream false key nonce len))
    (pt, [], (fit 16 (gcm key nonce aad pt).2).take n == tag)
  | 2 =>
    let r := ccm key nonce aad input n
    (fit len r.1, fit n r.2, true)
  | 3 =>
    let pt := xorBytes input (fit len (aeadStream true key nonce len))
    (pt, [], fit n (ccm key nonce aad pt n).2 == tag)
  | 4 => (xorBytes input (fit len (ctrStream key nonce len)), [], true)
  | 5 => ([], (fit 16 (cmac key input)).take n, true)
  | 6 => ([], [], (fit 16 (cmac key input)).take n == tag)
  | 7 => (fit 32 (sha256 input), [], true)
  | _ => (fit 32 (hmac key input), [], true)

/-- Writes bytes to host memory, if there are any. -/
def writeArea (addr : Nat) (l : List Byte) (s : State) : State :=
  if l.isEmpty then s else emit (.area (BitVec.ofNat 64 addr) l) s

/-- The nonce of a message: built by the device, or read from the block (R342, R404). -/
def messageNonce (h : Held) : List Byte :=
  if buildsNonce (le (Entry.args h.entry) 0 1) then
    nonceOf (BitVec.ofInt 32 (h.aux.getD 1 0)) (h.aux.getD 2 0).toNat
  else ((Entry.args h.entry).drop 72).take 12

/-- A message has run to its end (R396, R407): its output, tag and nonce are written, or the output area zeroed where the tag fails; with
EARLY_RELEASE the plaintext was there before. -/
def endMessage (m : GlazeMsg) (h : Held) (input aad : List Byte) (s : State) : State :=
  let a := Entry.args h.entry
  let mode := le a 0 1
  let n := le a 3 1
  let block := le h.entry.param 0 8
  let nonce := messageNonce h
  let out := le a 40 8
  let r := cryResult mode n m.key nonce (fit (le a 16 4) input) (fit (le a 32 4) aad) (((a.drop 56).take 16).take n)
  if r.2.2 then
    let s := writeArea (block + 56) r.2.1 (writeArea out r.1 s)
    let s := if buildsNonce mode then writeArea (block + 72) nonce s else s
    let used := if mode < 5 then nonce else zeros 12
    finishAt h .ok (leBytes 4 r.1.length ++ used) [] (now s) s
  else
    let s := if mode < 5 && testBit (le a 2 1) 0 then writeArea out r.1 s else s
    reject h .authFailed (if mode < 5 then writeArea out (zeros (le a 48 4)) s else s)

/-- The message on a core ends, and the cores are fed again (R397). -/
def execGlazeMessageDone (t : DT) (core : Fin 5) (s : State) : Host.Outcome State Fault Refusal :=
  let s := moment t s
  .next (match s.cry.cores[core].running with
    | some m =>
      let s := modCry (fun y => { y with cores := upd y.cores core fun g => { g with running := none } }) s
      let s := match findHeld m.cmd s with
        | some h => match h.cmd with
          | .cryProcess _ input aad => endMessage m h input aad s
          | _ => s
        | none => s
      schedule s
    | none => s)

/-! ### The entropy source (R399) -/

/-- Every message of the host. -/
def allMessages (s : State) : List GlazeMsg :=
  s.cry.queues ++ s.cry.cores.toList.flatMap fun g => g.running.toList ++ g.suspended

/-- Takes every message off the cores and queues. -/
def clearMessages : State → State :=
  modCry fun y => { y with queues := [], cores := y.cores.map fun _ => Glaze.reset }

/-- A health test fails: the source restarts its start-up tests; three failures within 1 s declare it failed, and host work ends with
HW_FAULT. -/
def healthFailure (s : State) : State :=
  let l := now s :: s.cry.entropy.failures.filter fun d => decide (dtSince d (now s) ≤ 2 ^ 32)
  if l.length < 3 then modCry (fun y => { y with entropy := { y.entropy with testing := true, failures := l } }) s
  else
    let ids := (allMessages s).map (·.cmd)
    let s := modCry (fun y => { y with entropy := { testing := false, failed := true, failures := [], failedAt := now s } }) (clearMessages s)
    finishAll ids .hwFault [] s

def execEntropyHealthFailure (t : DT) (s : State) : Host.Outcome State Fault Refusal :=
  let s := moment t s
  .next (if s.cry.entropy.failed then s else healthFailure s)

/-- The start-up tests end; a failure of them is a failure of the source's health. -/
def execEntropyStartupTestsDone (t : DT) (pass : Bool) (s : State) : Host.Outcome State Fault Refusal :=
  let s := moment t s
  .next (if !s.cry.entropy.testing then s
    else
      let s := modCry (fun y => { y with entropy := { y.entropy with testing := false } }) s
      if pass then s else healthFailure s)

/-- Every 10 s a failed source is retried. When it recovers tagging resumes and a FAULT Sherd records the interval; the fault table has no
row for it: a free value. -/
def execEntropyRetry (t : DT) (pass : Bool) (s : State) : Host.Outcome State Fault Refusal :=
  let s := moment t s
  .next (if s.cry.entropy.failed && pass then
      let from_ := s.cry.entropy.failedAt
      let s := tagAll (modCry (fun y => { y with entropy := Entropy.reset }) s)
      faultSherd ((freeNow s).natAbs % 256) 0 from_ (now s) (useFree s)
    else s)

/-! ### Monotonic counters (R342, R408) -/

def counterAt (h : Held) : Option (Fin 8) := idx 8 h.entry.target.toNat

def specCryCounterRead : Spec := plain 0x0804 0 (tBelow 8) []

def doCryCounterRead (h : Held) (s : State) : State :=
  match counterAt h with
  | some i => finish h .ok [(16, 4, s.cry.counters[i].toNat), (20, 1, bit (s.cry.counters[i] == 0xFFFFFFFF))] s
  | none => reject h .errState s

def execCryCounterRead (e : Entry) (s : State) : Host.Outcome State Fault Refusal :=
  .next (hostCmd (.cryCounterRead e) specCryCounterRead doCryCounterRead e s)

def specCryCounterIncrement : Spec := plain 0x0805 0 (tBelow 8) []

/-- CRY_COUNTER_INCREMENT completes when the new value has been committed. -/
def doCryCounterIncrement (h : Held) (s : State) : State :=
  match counterAt h with
  | some i =>
    if s.power.pfail then reject h .errState s
    else if s.cry.counters[i] = 0xFFFFFFFF then reject h .counterSaturated s
    else askStore (.counter i) (some h.id) (begin_ h s)
  | none => reject h .errState s

def execCryCounterIncrement (e : Entry) (s : State) : Host.Outcome State Fault Refusal :=
  .next (hostCmd (.cryCounterIncrement e) specCryCounterIncrement doCryCounterIncrement e s)

/-! ### The logs (R342, R415 to R418) -/

def specLogConfig : Spec :=
  { plain 0x0900 8 (tBelow 2) [(0, 3), (4, 4)] with
    secondary := fun _ => true
    range := fun _ e a =>
      oneOf a 2 [0, 1]
        ++ (if e.target.toNat = 1 then require (le a 0 2 == 0xFFFF) 0 ++ require (le a 4 4 == 0) 4
          else slotRange true (le a 0 2) 0 ++ require (1024 ≤ le a 4 4 && le a 4 4 ≤ 65536) 4) }

/-- The operational log takes a configuration (R417); on a SECONDARY only KEY_SLOT acts (R468). -/
def setLog (slot : Nat) (deliver : Bool) (kb : Nat) (s : State) : State :=
  let only := s.pair.role == 2
  let s := modCry (fun c => { c with
    keySlot := slot, deliver := if only then c.deliver else deliver, ringKb := if only then c.ringKb else kb }) s
  let s := modCry (fun c => { c with log := c.log.drop (c.log.length - c.ringKb * 8) }) s
  tagAll (modVault (fun v => { v with keySlot := s.cry.keySlot, deliver := s.cry.deliver, ringKb := s.cry.ringKb }) s)

/-- LOG_CONFIG (R342, R390, R417). -/
def doLogConfig (h : Held) (s : State) : State :=
  let a := Entry.args h.entry
  let slot := le a 0 2
  let deliver := le a 2 1 == 1
  if h.entry.target.toNat = 1 then
    finishC h (modSg (fun g => { g with deliver := if s.pair.role = 2 then g.deliver else deliver }) s)
  else if slot ≠ 0xFFFF && (keyAt slot s).isNone then reject h .keyAbsent s
  else if slot ≠ 0xFFFF && (match keyAt slot s with | some k => !testBit k.usage 3 | none => false) then
    fail h .errParam (Entry.offset h.entry 0) .outOfRange s
  else if le a 4 4 ≠ s.cry.ringKb && s.pair.role ≠ 2 && s.cry.log.any (fun x => !x.drained) then reject h .busyRunning s
  else finishC h (setLog slot deliver (le a 4 4) s)

def execLogConfig (e : Entry) (s : State) : Host.Outcome State Fault Refusal :=
  .next (hostCmd (.logConfig e) specLogConfig doLogConfig e s)

/-- Targets of LOG_READ: the two logs, and the legal log of the secondary (R473). -/
def logTarget (s : State) (t : Nat) : Bool := decide (t < 2) || (isPrimary s && t == 0x0101)

def specLogRead : Spec :=
  { outCmd 0x0901 28 logTarget [(16, 12)] with
    remote := fun t => t == 0x0101
    range := fun _ _ a => require (1 ≤ le a 24 4 && le a 24 4 ≤ 8192) 24 }

/-- How many Sherds LOG_READ may write: COUNT, and whole ones in the output area. -/
def readLimit (h : Held) : Nat := min (le (Entry.args h.entry) 24 4) (outLen h.entry / 128)

/-- The end of LOG_READ: the Sherds written and the number after the last of them. -/
def endRead (h : Held) (first : Nat) (l : List (BitVec 64 × List Byte)) (s : State) : State :=
  let next := match l.getLast? with | some x => x.1.toNat + 1 | none => first
  finishOut h .ok (l.flatMap (·.2)) (some [(16, 4, l.length), (24, 8, next)]) s

/-- LOG_READ (R342, R415, R418): from the first number on, up to the newest, or to the first that is held untagged; what is written is
drained. -/
def doLogRead (h : Held) (s : State) : State :=
  let first := le (Entry.args h.entry) 16 8
  let bad (n : BitVec 64) : Bool := decide (n.toNat ≤ first)
  if h.entry.target.toNat = 1 then
    if bad s.sg.seq then fail h .errParam (Entry.offset h.entry 16) .outOfRange s
    else endRead h first ((s.sg.log.filter fun x => decide (first ≤ x.1.toNat)).take (readLimit h)) s
  else if bad s.cry.nextSeq then fail h .errParam (Entry.offset h.entry 16) .outOfRange s
  else
    let l := ((s.cry.log.filter fun x => decide (first ≤ x.seq.toNat)).takeWhile fun x => !x.untagged).take (readLimit h)
    let n := l.countP fun x => !x.drained
    let s := settle 7 n (modCry (fun c => { c with
      log := c.log.map fun x => if l.any (fun y => y.seq == x.seq) then { x with drained := true } else x }) s)
    endRead h first (l.map fun x => (x.seq, x.data)) s

def execLogRead (e : Entry) (s : State) : Host.Outcome State Fault Refusal :=
  .next (hostCmd (.logRead e) specLogRead doLogRead e s)

def specLogMark : Spec := plain 0x0902 48 tZero [(8, 40)]

/-- LOG_MARK (R342, R413): the mark's Sherd takes the next number, after that of a gap record that goes first (R415). -/
def doLogMark (h : Held) (s : State) : State :=
  let a := Entry.args h.entry
  let seq := s.cry.nextSeq + (if runEnds s then 1 else 0)
  let s := opSherd 0x60 0xFFFF (now s) (now s) (fit 40 (a.drop 8) ++ pack 40 8 [(40, 2, h.tag.toNat), (42, 1, qidOf h.src)]) s
  finish h .ok [(16, 8, seq.toNat), (24, 1, bit (s.cry.log.any fun x => x.seq == seq && x.untagged))] s

def execLogMark (e : Entry) (s : State) : Host.Outcome State Fault Refusal :=
  .next (hostCmd (.logMark e) specLogMark doLogMark e s)

end Sys2Proof.Machine
end

