-- ==== Sys2Proof/Machine/Maint.lean ====
section
/-!
DEFINITION. Maint.lean: the Kiln schedule with its firings and conflicts, the calibration store, the Cone and its margin plans (R435 to
R460).
-/
namespace Sys2Proof.Machine

/-! ### Firings: due, resources, order (R440, R452 to R456) -/

/-- A new entry of the schedule. -/
def newFiring (a o : Nat) (due : DT) : Firing :=
  { activity := a, obj := o, last := 0, due := due, running := false, requested := false, cmds := [], deferrals := 0, raised := false,
    blocks := 0, discarded := 0, storing := none, drift := 0, moves := [], outcome := 0, quality := 0, value := 0, lastEnd := 0, lastTemp := none }

/-- The resources of the conflict matrix (R452, R454). -/
inductive Resource where
  | slip | tuner (n : Nat) | input (n : Nat)
  deriving DecidableEq, Repr

/-- The resources of an activity on an object. VAULT is left out: activity 7 and the stores run between the chunks of activity 1. -/
def needs (a o : Nat) : List Resource :=
  match a with
  | 2 => [.tuner o]
  | 3 => [.input o]
  | 4 => [.slip]
  | 6 => [.slip]
  | 8 => [.slip, .tuner o]
  | _ => []

/-- Whether two firings share a resource. -/
def clash (f g : Firing) : Bool := (needs f.activity f.obj).any fun r => (needs g.activity g.obj).contains r

/-- Whether a key's block is 75 % used (R405, R452). -/
def blockLow (k : Key) : Bool := decide (0 < k.blockEnd) && decide (k.blockEnd ≤ k.counter + 16384)

/-- Whether an activity can have a firing on an object at all (R452): a tuner in RX, an enabled input, a key whose block runs low. -/
def fireable (a o : Nat) (s : State) : Bool :=
  match a with
  | 2 | 8 => match idx 4 o with | some n => s.rf.tuners[n].st == .rx && s.rf.tuners[n].change.isNone | none => false
  | 3 => match idx 2 o with | some i => fget s.rf.wb[i].cfg 0x0200 == 1 | none => false
  | 7 => match idx 64 o with | some i => (match s.cry.keys[i] with | some k => blockLow k | none => false) | none => false
  | 6 => sgActs s
  | _ => o == 0

/-- Whether the schedule has an activity due on an object (R452, R453, R457). -/
def isDue (f : Firing) (s : State) : Bool :=
  !f.running && fireable f.activity f.obj s
    && (f.requested || (decide (f.due.toNat ≤ (now s).toNat)
      && (match idx 9 f.activity with | some a => s.mnt.acts[a].enable | none => false)))

/-- The class of a firing: one higher, to 2, once it was deferred (R453). -/
def classOf (f : Firing) (s : State) : Nat :=
  let c := match idx 9 f.activity with | some a => s.mnt.acts[a].cls | none => 0
  if f.raised && c < 2 then c + 1 else c

/-- Whether a firing comes before another (R455). -/
def outranks (f g : Firing) (s : State) : Bool :=
  let key (x : Firing) : Nat × Nat × Nat × Nat × Nat :=
    (bit (x.activity != 6), 3 - classOf x s, x.due.toNat, x.activity, x.obj)
  let (a, b, c, d, e) := key f
  let (a', b', c', d', e') := key g
  decide (a < a') || (a == a' && (decide (b < b') || (b == b' && (decide (c < c') || (c == c' && (decide (d < d') || (d == d' && decide (e < e'))))))))

/-- Whether the tones of a filter-bandwidth firing keep clear of the contexts on a tuner: they lie at the edges of its IF filter (R116,
R124). The other firings on the Slip drive the reference detector, which carries no context (R122, R388). -/
def tonesClear (n : Fin 4) (s : State) : Bool :=
  let t := s.rf.tuners[n]
  let bw := (fget t.cfg 0x0403).toNat * 500
  match t.freq with
  | some f => toneClear (n.val + 2) ((f + bw) * 10) s && toneClear (n.val + 2) ((f - bw) * 10) s
  | none => true

/-- Whether what operational users hold is free for an activity on an object (R120, R439, R454): a running Saggar job reads no value
that the firing would change, the tuner is settled with no probe held. -/
def operFree (a o : Nat) (s : State) : Bool :=
  let tunerFree : Bool := match idx 4 o with
    | some n => settled s.rf.tuners[n] && s.rf.tuners[n].target.isNone && (waiting 0x0306 o s).isEmpty && !jobReadsTuner n s
    | none => false
  let slip := s.rf.slip.owner
  match a with
  | 2 => tunerFree
  | 3 => match idx 2 o with | some i => !jobReadsInput i s | none => false
  | 4 => slip == .nobody
  | 6 => slip == .nobody || slip == .saggar
  | 8 => tunerFree && slip == .nobody && (match idx 4 o with | some n => tonesClear n s | none => false)
  | _ => true

/-- Whether a firing can start now: its resources are free and none that waits for them outranks it (R453 to R455). -/
def canFire (f : Firing) (s : State) : Bool :=
  operFree f.activity f.obj s
    && s.mnt.firings.all fun g =>
      (g.activity == f.activity && g.obj == f.obj) || !clash f g || (!g.running && !(isDue g s && outranks g f s))

/-- The estimation blocks of a firing (R436): of activity 2 the 2^20 samples, of activity 3 16 blocks on each front end, four times as
many in PRECISION. -/
def firingBlocks (a : Nat) (s : State) : Nat :=
  (match a with | 2 => 512 | 3 => 32 | _ => 0) * (if s.cx.profile = 1 then 4 else 1)

/-- A firing starts (R453, R457): its period runs from here; it takes its resources, and keeps the number of its blocks through a change of
profile (R459). Activity 7 is a vault store (R405). -/
def startFiring (a : Fin 9) (o : Nat) (s : State) : State :=
  let s := modFiring a.val o (fun f => { f with
    running := true, requested := false, raised := false, blocks := firingBlocks a.val s, discarded := 0, storing := none, last := now s,
    due := dtAdd (now s) (periodOf s.mnt.acts[a]) }) s
  let s := if (needs a.val o).contains .slip then modSlip (fun x => { x with owner := .firing a.val, emitting := false }) s else s
  match a.val with
  | 3 => match idx 2 o with | some i => modWb i (fun x => { x with clippedSinceCal := false }) s | none => s
  | 7 => match idx 64 o with | some i => askStore (.reservation i) none s | none => s
  | 2 | 8 => match idx 4 o with | some n => modTuner n (fun t => { t with calibrating := true }) s | none => s
  | _ => s

/-- The schedule as a firing sees it: an activity 7 has an entry once its key asks for it. -/
def withEntry (a o : Nat) (s : State) : State :=
  if a = 7 && fireable 7 o s && (findFiring a o s).isNone then modMnt (fun m => { m with firings := m.firings ++ [newFiring a o (now s)] }) s else s

/-- The device starts a firing that is due (R453 to R455). The Saggar's verification asks a holder of the Slip for it (R125). -/
def execKilnFiringStart (t : DT) (activity : Fin 9) (obj : Fin 64) (s : State) : Host.Outcome State Fault Refusal :=
  let s := withEntry activity.val obj.val (moment t s)
  .next (match findFiring activity.val obj.val s with
    | some f =>
      if !isRunning s || s.mnt.paused || !isDue f s then s
      else if canFire f s then startFiring activity obj.val s
      else if activity.val = 6 then claimSlip s
      else s
    | none => s)

/-- A firing has reached the end of its window unstarted (R453). -/
def execKilnWindowExpiry (t : DT) (activity : Fin 9) (obj : Fin 64) (s : State) : Host.Outcome State Fault Refusal :=
  let s := moment t s
  .next (match findFiring activity.val obj.val s with
    | some f =>
      if isDue f s && !f.raised && decide (f.due.toNat + s.mnt.acts[activity].window * 2 ^ 32 ≤ (now s).toNat) then
        modFiring activity.val obj.val (fun f => { f with deferrals := f.deferrals + 1, raised := true }) s
      else s
    | none => s)

/-! ### The end of a firing (R437 to R441, R457) -/

def calStatus : CalOutcome → Status
  | .ok => .ok
  | .unsuitable => .inputUnsuitable
  | .implausible => .calImplausible
  | .storeFailed => .calStoreFailed

/-- Whether new values came into force: they passed, stored or not (R444). -/
def passed : CalOutcome → Bool
  | .ok => true
  | .storeFailed => true
  | _ => false

/-- Whether a value lies within its absolute limit and within the step limit of the value in force (R438). -/
def within (v old lim step : Int) : Bool := decide (v.natAbs ≤ lim.natAbs) && decide ((v - old).natAbs ≤ step.natAbs)

/-- The absolute and the step limits of an activity's estimates (R438), in the units of `FiringResult`. -/
def limitsOf (a : Nat) : List (Nat × Nat) :=
  match a with
  | 2 => [(200, 50), (1000, 200), (5000, 1000)]
  | 3 => (List.replicate 16 [(6400, 800), (500, 50), (1000, 100)]).flatten
  | 4 => [(50, 10)]
  | 8 => [(1500, 300)]
  | _ => []

/-- The values in force that an activity's estimates are held against. -/
def inForce (f : Firing) (s : State) : List Int :=
  match f.activity, idx 4 f.obj, idx 2 f.obj with
  | 2, some n, _ => let t := s.rf.tuners[n]; [t.offset, t.irGain, t.irPhase]
  | 3, _, some i => s.rf.wb[i].subs.flatMap fun v => [v.1, v.2.1, v.2.2]
  | 4, _, _ => [f.drift]
  | 8, some n, _ => [s.rf.tuners[n].bandwidth]
  | _, _, _ => []

/-- What a firing compares: each limit with the value in force and the estimate. -/
def compared (f : Firing) (r : FiringResult) (s : State) : List ((Nat × Nat) × Int × Estimate) :=
  (limitsOf f.activity).zip ((inForce f s).zip r.estimates)

/-- Whether the result of a periodic firing is plausible (R438): it has every estimate of its activity, and each lies within its limits. -/
def plausible (f : Firing) (r : FiringResult) (s : State) : Bool :=
  decide ((compared f r s).length = (limitsOf f.activity).length)
    && (compared f r s).all fun x => within x.2.2.value x.2.1 x.1.1 x.1.2

/-- The blocks that a firing estimates from: those not discarded for a gain step (R89, R459). -/
def usedBlocks (f : Firing) (r : FiringResult) : List CalBlock := r.blocks.take (f.blocks - f.discarded)

/-- The input suitability of a firing (R436): of activity 2 a block that passes every test, with 2048 strong samples in the passing ones; of
activity 3 a block that passes, and no clipping of the input since the start (R89); of activities 4 and 8 every reading or tone passes.
DESIGN CHOICE (log entry 87): where only test (e) fails in every block, the offset is not renewed either. -/
def suitable (f : Firing) (r : FiringResult) (s : State) : Bool :=
  match f.activity with
  | 2 =>
    let l := (usedBlocks f r).filter fun b => tunerBlockOk b && circular b
    !l.isEmpty && strongEnough l
  | 3 => (usedBlocks f r).any adcBlockOk && (match idx 2 f.obj with | some i => !s.rf.wb[i].clippedSinceCal | none => true)
  | 4 => !r.blocks.isEmpty && r.blocks.all fun b => !b.clip
  | 8 => !r.blocks.isEmpty && r.blocks.all fun b => !b.clip && decide (3000 ≤ b.rms)
  | _ => true

/-- The outcome of a firing (R436, R438, R439). DESIGN CHOICE (log entry 87): activities 0, 1, 5 and 6 have no test of their own and are
OK. -/
def judgedOutcome (f : Firing) (r : FiringResult) (s : State) : CalOutcome :=
  if !suitable f r s then .unsuitable else if plausible f r s then .ok else .implausible

/-- The quality figure of a firing (R437); where its activity has no range in R438 the spec gives none: a free value. -/
def firingQuality (f : Firing) (outcome : CalOutcome) (r : FiringResult) (s : State) : Nat × State :=
  if outcome = .unsuitable then (0, s)
  else if (limitsOf f.activity).isEmpty then ((freeNow s).natAbs % 101, useFree s)
  else (qualityFigure (((limitsOf f.activity).map (·.1)).zip r.estimates), s)

/-- How far estimates moved the values in force, in 0.1 % of the step limits: the largest share (R450). DESIGN CHOICE (log entry 88). -/
def movement (f : Firing) (r : FiringResult) (s : State) : Nat :=
  (compared f r s).foldl (fun (m : Nat) x => max m (1000 * (x.2.2.value - x.2.1).natAbs / x.1.2)) 0

/-- The estimates of three figures each. -/
def triples (l : List Int) : Nat → List (Int × Int × Int)
  | 0 => []
  | n + 1 => (l.getD 0 0, l.getD 1 0, l.getD 2 0) :: triples (l.drop 3) n

/-- The values that a passing firing brings (R89, R116, R438, R450). -/
def newValues (a : Fin 9) (o : Nat) (r : FiringResult) (s : State) : State :=
  let v (k : Nat) : Int := (r.estimates.map (·.value)).getD k 0
  let s := match findFiring a.val o s with
    | some f =>
      let n := movement f r s
      modFiring a.val o (fun f => { f with
        moves := (if a.val = 2 ∨ a.val = 3 ∨ a.val = 4 ∨ a.val = 8 then f.moves ++ [(now s, n)] else f.moves).filter fun x =>
          decide (dtSince x.1 (now s) ≤ daysDt 30),
        drift := if a.val = 4 then v 0 else f.drift }) s
    | none => s
  match a.val with
  | 2 => match idx 4 o with
    | some n => modTuner n (fun t => { t with offset := v 0, irGain := v 1, irPhase := v 2 }) s
    | none => s
  | 3 => match idx 2 o with
    | some i => modWb i (fun x => { x with calGood := true, subs := triples (r.estimates.map (·.value)) 16 }) s
    | none => s
  | 8 => match idx 4 o with
    | some n => modTuner n (fun t => { t with bandwidth := v 0, verifiedIr := r.rejection, trim := r.trim % 256 }) s
    | none => s
  | _ => s

/-- n·Σxy − Σx·Σy and n·Σx² − (Σx)² of points: their least-squares slope is the quotient. -/
def leastSquares (l : List (Int × Int)) : Int × Int :=
  let n : Int := l.length
  let sx := (l.map (·.1)).foldl (· + ·) 0
  let sy := (l.map (·.2)).foldl (· + ·) 0
  let sxy := (l.map fun p => p.1 * p.2).foldl (· + ·) 0
  let sxx := (l.map fun p => p.1 * p.1).foldl (· + ·) 0
  (n * sxy - sx * sy, n * sxx - sx * sx)

/-- Whether stamped entries, oldest first, span a number of days. -/
def spansDays {α : Type} (n : Nat) (l : List (DT × α)) : Bool :=
  match l.head?, l.getLast? with
  | some a, some b => decide (daysDt n ≤ dtSince a.1 b.1)
  | _, _ => false

/-- The XO tune drift in ppb per year: the slope of the stored LOCKED tune words, one DAC step being 1.4 V / 65535, converted through
XO_SLOPE; none before 30 days exist (R52, R446). DESIGN CHOICE (log entry 89): a least-squares slope over the last 365 days, a year of
365 days. -/
def xoDriftOf (s : State) : Option Int :=
  let l := s.mnt.cone.tuneLog
  let k := leastSquares (l.map fun x => (dtInt x.1, x.2))
  if !spansDays 30 l || k.2 ≤ 0 then none
  else some (ratio (k.1 * 14 * fget s.time.cfg 0x0103 * (daysDt 365 : Int)) (k.2.toNat * 655350))

/-- A Cone survey (R446): the Slip drift is activity 4's. The ADC reference drift and the corrected margins are the device's own figures,
free values: the spec gives no rule for them. -/
def survey (s : State) : State :=
  let slip := match findFiring 4 0 s with | some f => f.drift * 10 | none => 0
  let xo := (xoDriftOf s).getD s.mnt.cone.xoDrift
  let adc := freeNow s
  let s := useFree s
  let m := (List.range 8).map fun i => Config.freeValue (s.fresh + i)
  let log := (s.mnt.cone.heatLog ++ [(now s, s.mnt.cone.heat.toNat)]).filter fun x => decide (dtSince x.1 (now s) ≤ daysDt 30)
  askStore .cone none (modMnt (fun x => { x with cone := { x.cone with
    survey := now s, slipDrift := slip, xoDrift := xo, adcDrift := adc, margins := m, heatLog := log } }) (useMany 8 s))

/-- The CAL_RESULT flags and value of an activity (R344, R439): the image rejection, and of activity 4 the drift. -/
def calFields (a : Nat) (ok : Bool) (rejection drift : Int) : Nat × Int :=
  (if (a = 2 ∨ a = 8) ∧ ok ∧ rejection < 600 then 2 else 0, if a = 4 then drift else if a = 2 ∨ a = 8 then rejection else 0)

/-- A firing is closed with its outcome: its record, its resources, CAL_RESULT, and the commands joined to it (R439, R457). -/
def closeFiring (a : Fin 9) (o : Nat) (outcome : CalOutcome) (q : Nat) (fields : Nat × Int) (s : State) : State :=
  let cmds := match findFiring a.val o s with | some f => f.cmds | none => []
  let st := calStatus outcome
  let s := modFiring a.val o (fun f => { f with
    running := false, storing := none, cmds := [], outcome := statusCode st, quality := q, value := fields.2, lastEnd := now s,
    lastTemp := if passed outcome then some s.power.tHot else f.lastTemp }) s
  let s := freeFiringSlip a.val s
  let s := match a.val, idx 4 o with
    | 2, some n | 8, some n => modTuner n (fun t => { t with calibrating := t.change.isSome && t.st == .rx }) s
    | _, _ => s
  endJoined cmds st q (calResult a.val o (statusCode st) q fields.1 fields.2 s)

/-- A firing whose values are stored is closed when its store ends (R439, R444). -/
def closeStored (a : Fin 9) (o : Nat) (outcome : CalOutcome) (s : State) : State :=
  match findFiring a.val o s with
  | some f => match f.storing with
    | some q => closeFiring a o outcome q (0, 0) s
    | none => s
  | none => s

/-- A firing with its result judged: a passing one brings its values, a survey is made, a verification run judged; activities 3 and 5 store
what they found before they end (R439, R441). -/
def endFiring (a : Fin 9) (o : Nat) (outcome : CalOutcome) (q : Nat) (r : FiringResult) (s : State) : State :=
  let s := if outcome = .ok then newValues a o r s else s
  let fields := calFields a.val (outcome == .ok) r.rejection ((r.estimates.map (·.value)).getD 0 0)
  match a.val, outcome, idx 2 o with
  | 3, .ok, some i => askStore (.adc i) none (modFiring 3 o (fun f => { f with storing := some q }) s)
  | 5, _, _ => survey (modFiring 5 o (fun f => { f with storing := some q }) s)
  | 6, _, _ =>
    let d := largestDrift r.levels
    closeFiring a o outcome q fields (endVerify d.1 d.2 s)
  | _, _, _ => closeFiring a o outcome q fields s

/-- A running firing ends (R439), its result judged by R89 and R436 to R438; a key reservation ends with its store. -/
def execKilnFiringEnd (t : DT) (activity : Fin 9) (obj : Fin 64) (r : FiringResult) (s : State) : Host.Outcome State Fault Refusal :=
  let s := moment t s
  .next (match findFiring activity.val obj.val s with
    | some f =>
      if !f.running || f.storing.isSome || activity.val = 7 then s
      else
        let o := judgedOutcome f r s
        let (q, s) := firingQuality f o r s
        endFiring activity obj.val o q r s
    | none => s)

/-! ### MNT_CALIBRATE, the schedule (R343, R455, R457, R458) -/

/-- The objects of an activity that a command may name (R343): on a PRIMARY also the secondary's inputs and tuners (R473). -/
def calTarget (a : List Byte) (s : State) (t : Nat) : Bool :=
  match le a 0 1 with
  | 3 => tUnit 2 s t
  | 2 | 8 => tUnit 4 s t
  | _ => t == 0

def specMntCalibrate : Spec :=
  { plain 0x0A00 1 (fun _ _ => true) [(0, 1)] with
    targetFor := calTarget
    remoteFor := fun _ t => decide (0x100 ≤ t)
    range := fun _ _ a => oneOf a 0 [0, 1, 2, 3, 4, 5, 8] }

/-- A request starts its firing at once or is deferred to it; the predicted start is a free value (R455). -/
def requestFiring (h : Held) (a : Fin 9) (o : Nat) (s : State) : State :=
  let s := modFiring a.val o (fun f => { f with
    requested := true, due := if f.due.toNat ≤ (now s).toNat then f.due else now s, cmds := f.cmds ++ [h.id] }) s
  match findFiring a.val o s with
  | some f =>
    if !s.mnt.paused && canFire f s then startFiring a o (begin_ h s)
    else deferCmd h [(24, 8, freeNow s)] (useFree s)
  | none => s

/-- MNT_CALIBRATE (R457): joined to a firing that runs, else one is requested. -/
def doMntCalibrate (h : Held) (s : State) : State :=
  let o := h.entry.target.toNat
  match idx 9 (le (Entry.args h.entry) 0 1) with
  | some a => match findFiring a.val o s with
    | some f =>
      if !fireable a.val o s then reject h .errState s
      else if f.running then begin_ h (modFiring a.val o (fun f => { f with cmds := f.cmds ++ [h.id] }) s)
      else requestFiring h a o s
    | none => reject h .errState s
  | none => reject h .errState s

def execMntCalibrate (e : Entry) (s : State) : Host.Outcome State Fault Refusal :=
  .next (hostCmd (.mntCalibrate e) specMntCalibrate doMntCalibrate e s)

/-- The PERIOD range of an activity in seconds, and whether PLAN is allowed (R452, R458). -/
def periodRange (a : Nat) : Nat × Nat × Bool :=
  match a with
  | 2 => (60, 3600, true)
  | 3 => (600, 86400, true)
  | 4 => (3600, 604800, true)
  | 5 => (3600, 86400, false)
  | 8 => (600, 86400, true)
  | _ => (3600, 604800, false)

/-- The offences of MNT_SCHEDULE_SET on its activity (R343, R458). -/
def scheduleOffences (_ : State) (e : Entry) (a : List Byte) : List Offence :=
  let t := e.target.toNat
  let r := periodRange t
  let period := le a 4 4
  let plan := r.2.2 && period == 0
  oneOf a 0 (if t = 0 ∨ t = 1 ∨ t = 5 then [1] else [0, 1]) ++ require (le a 1 1 < 4) 1
    ++ require (plan || (r.1 ≤ period && period ≤ r.2.1)) 4
    ++ require (1 ≤ le a 8 4 && le a 8 4 ≤ (if plan then r.1 / 2 else period)) 8

def specMntScheduleSet : Spec :=
  { plain 0x0A01 12 (tBelow 9) [(0, 2), (4, 8)] with admin := fun _ => true, range := scheduleOffences }

/-- MNT_SCHEDULE_SET (R458): the due times follow the new period, and the settings are stored. -/
def doMntScheduleSet (h : Held) (s : State) : State :=
  let a := Entry.args h.entry
  match idx 9 h.entry.target.toNat with
  | some k =>
    if k.val = 6 || k.val = 7 then fail h .errParam 6 .outOfRange s
    else
      let s := modMnt (fun m => { m with acts := upd m.acts k fun x =>
        { x with enable := le a 0 1 == 1, cls := le a 1 1, period := le a 4 4, window := le a 8 4 } }) s
      let p := periodOf s.mnt.acts[k]
      let s := modMnt (fun m => { m with firings := m.firings.map fun f => if f.activity = k.val then { f with due := dtAdd f.last p } else f }) s
      finishC h (askStore .schedule none s)
  | none => reject h .errState s

def execMntScheduleSet (e : Entry) (s : State) : Host.Outcome State Fault Refusal :=
  .next (hostCmd (.mntScheduleSet e) specMntScheduleSet doMntScheduleSet e s)

def specMntScheduleStatus : Spec := outCmd 0x0A02 0 (fun _ t => decide (t < 9) || t == 0xFFFF) []

/-- One entry of MNT_SCHEDULE_STATUS (R343). -/
def firingBytes (f : Firing) (s : State) : List Byte :=
  let x := match idx 9 f.activity with | some a => s.mnt.acts[a] | none => Activity.default 0
  pack 0 32 [(0, 1, f.activity), (1, 1, f.obj), (2, 1, bit x.enable), (3, 1, x.cls), (4, 4, ((periodOf x / 2 ^ 32 : Nat) : Int)),
    (8, 8, dtInt f.last), (16, 8, dtInt f.due), (24, 2, f.outcome.toNat), (26, 1, f.quality), (28, 4, f.deferrals)]

def doMntScheduleStatus (h : Held) (s : State) : State :=
  let t := h.entry.target.toNat
  let l := (List.range 9).flatMap fun a => if t = a ∨ t = 0xFFFF then s.mnt.firings.filter fun f => f.activity == a else []
  finishOut h .ok (l.flatMap fun f => firingBytes f s) none s

def execMntScheduleStatus (e : Entry) (s : State) : Host.Outcome State Fault Refusal :=
  .next (hostCmd (.mntScheduleStatus e) specMntScheduleStatus doMntScheduleStatus e s)

/-! ### The Cone and its plans (R445 to R451) -/

def specMntConeRead : Spec := outCmd 0x0A03 0 tZero []

/-- The 64 bytes of MNT_CONE_READ (R343). -/
def coneBytes (c : Cone) : List Byte :=
  pack 0 16 [(0, 8, c.heat.toNat), (8, 2, c.tMax)] ++ fit 16 (c.margins.flatMap (leBytes 2))
    ++ pack 32 32 [(32, 4, c.xoDrift), (36, 4, c.slipDrift), (40, 4, c.adcDrift), (44, 4, c.planNumber.toNat), (48, 8, dtInt c.survey)]

def doMntConeRead (h : Held) (s : State) : State := finishOut h .ok (coneBytes s.mnt.cone) none s

def execMntConeRead (e : Entry) (s : State) : Host.Outcome State Fault Refusal :=
  .next (hostCmd (.mntConeRead e) specMntConeRead doMntConeRead e s)

/-- The plan's AVS target for the profile in force: ENDURANCE has its own (R448). -/
def planMvNow (s : State) : Nat := if s.cx.profile = 2 then s.mnt.cone.planEndurance else s.mnt.cone.planMv

/-- The plan as MNT_MARGIN_PLAN and MARGIN_PLAN give it (R343, R344). -/
def planFields (s : State) : List (Nat × Nat × Int) :=
  let c := s.mnt.cone
  [(16, 2, planMvNow s), (18, 1, c.planHeadroom), (20, 4, c.planNumber.toNat), (24, 8, dtInt (dueDate s.sg))]

/-- The movements of an activity's firings in the last 30 days, on all its objects (R450). -/
def movesOf (a : Nat) (s : State) : List Nat :=
  (s.mnt.firings.filter (·.activity == a)).flatMap fun f =>
    (f.moves.filter fun x => decide (dtSince x.1 (now s) ≤ daysDt 30)).map (·.2)

/-- The period that a plan sets for an activity on PLAN (R450): twice where its firings moved their values by less than 25 % of the step
limit in the mean, half above 75 %, within its bounds. DESIGN CHOICE (log entry 88): without a firing in the 30 days the same. -/
def plannedPeriod (a : Nat) (moves : List Nat) (x : Activity) : Activity :=
  let r := periodRange a
  if x.period ≠ 0 || !r.2.2 || moves.isEmpty then x
  else
    let p := if sumOf moves < 250 * moves.length then 2 * x.planPeriod
      else if 750 * moves.length < sumOf moves then x.planPeriod / 2
      else x.planPeriod
    { x with planPeriod := max r.1 (min r.2.1 p) }

/-- The recalibration date that the trend of the verification runs projects (R451): the heat work at which the least-squares line of their
drifts reaches 0.15 dB either way, converted at the mean rate of the last 30 days; none before 90 days of results, for a level line, or
without heat work in the 30 days. -/
def projectedDue (s : State) : Option DT :=
  let c := s.mnt.cone
  let l := c.verifs.filter fun x => decide (dtSince x.1 (now s) ≤ daysDt 365)
  let pts : List (Int × Int) := l.map fun x => ((x.2.1 : Int), x.2.2)
  let k := leastSquares pts
  match (c.heatLog.filter fun x => decide (dtSince x.1 (now s) ≤ daysDt 30)).head? with
  | some (t0, h0) =>
    let gained := c.heat.toNat - h0
    if !spansDays 90 l || k.2 ≤ 0 || k.1 = 0 || gained = 0 then none
    else
      let sx := (pts.map (·.1)).foldl (· + ·) 0
      let sy := (pts.map (·.2)).foldl (· + ·) 0
      let limit : Int := if 0 < k.1 then 15 else -15
      let top := k.2 * (pts.length * limit - sy) + k.1 * sx
      let h := (if 0 < k.1 then top else -top) / ((pts.length * k.1.natAbs : Nat) : Int)
      let at_ := (now s).toNat + (h - c.heat.toNat).toNat * dtSince t0 (now s) / gained
      if at_ < 2 ^ 64 then some (BitVec.ofNat 64 at_) else none
  | none => none

/-- A margin plan is issued (R447 to R451): its number, targets, headroom, periods and the Saggar's due date. -/
def issuePlan (mv endurance headroom : Nat) (s : State) : State :=
  let s := modMnt (fun m => { m with
    acts := Vector.ofFn fun (i : Fin 9) => plannedPeriod i.val (movesOf i.val s) m.acts[i],
    cone := { m.cone with
      planNumber := m.cone.planNumber + 1, planMv := mv, planEndurance := endurance, planHeadroom := headroom, planDt := now s,
      derated := headroom == 0 && (if s.cx.profile = 2 then endurance else mv) == 850 } }) s
  let s := modPower (fun p => { p with avsTarget := planMvNow s }) s
  let s := if sgActs s then changeDue 1 (fun g => { g with coneDue := projectedDue s }) s else s
  raise .marginPlan (planFields s) (askStore .cone none s)

/-- Wheel headroom in percent (R449): the smaller margin of islands 0 and 1 against the Wheel clock period in ps. -/
def headroomOf (margins : List Int) (profile : Nat) : Nat :=
  let m := min (margins.getD 0 0) (margins.getD 1 0)
  let period : Int := if profile = 2 then 1667 else 1000
  if m ≤ 60 || period ≤ m then 0 else (100 * (m - 60) / (period - m)).toNat

/-- An AVS target of a plan (R448): the voltage within 700 to 850 mV in 5 mV steps at which the corrected margins suffice, the device's own
figure: a free value; after the regulator did not settle, the voltage measured (R485). -/
def planTarget (s : State) : Nat × State :=
  if s.power.avsStopped then (s.power.vcoreMv, s) else (700 + 5 * ((freeNow s).natAbs % 31), useFree s)

/-- A plan that the device works out (R447 to R449). -/
def ownPlan (s : State) : State :=
  let (mv, s) := planTarget s
  let (endurance, s) := planTarget s
  issuePlan mv endurance (headroomOf s.mnt.cone.margins s.cx.profile) s

def specMntMarginPlan : Spec := { plain 0x0A04 1 tZero [(0, 1)] with range := fun _ _ a => oneOf a 0 [0, 1] }

def doMntMarginPlan (h : Held) (s : State) : State :=
  let s := if le (Entry.args h.entry) 0 1 = 1 then ownPlan s else s
  finish h .ok (planFields s) s

def execMntMarginPlan (e : Entry) (s : State) : Host.Outcome State Fault Refusal :=
  .next (hostCmd (.mntMarginPlan e) specMntMarginPlan doMntMarginPlan e s)

/-- Thirty days after the last plan (R447). -/
def execConePlanDue (t : DT) (s : State) : Host.Outcome State Fault Refusal :=
  let s := moment t s
  .next (if daysDt 30 ≤ dtSince s.mnt.cone.planDt (now s) then ownPlan s else s)

/-- A change of die temperature by more than 10 degrees since an object's last passing calibration makes activity 2 or 3 due (R440). -/
def tempDue (s : State) : State :=
  modMnt (fun m => { m with firings := m.firings.map fun f =>
    match f.lastTemp with
    | some x =>
      if (f.activity = 2 || f.activity = 3) && decide (100 < (s.power.tHot - x).natAbs) && decide ((now s).toNat < f.due.toNat) then
        { f with due := now s }
      else f
    | none => f }) s

/-- The heat work of `seconds` at a junction temperature in 0.1 degrees, in 2^-32 of 0.01 h: the time times exp(8123.5 K·(1/358.15 K −
1/T_j)) (R445). DESIGN CHOICE (log entry 90): the exponential is worked out in fixed point with 2^-60, by its series for 1/256 of the
exponent and eight squarings, each rounded down. -/
def heatWork (seconds : Nat) (tj : Int) : Nat :=
  let one : Int := 2 ^ 60
  let k := 2 * tj + 5463
  let x := (16247 * (k - 7163) * 10 * one) / (7163 * k * 256)
  let y := [6, 5, 4, 3, 2, 1].foldl (fun (acc : Int) (n : Int) => one + x * acc / (n * one)) one
  let e := (List.range 8).foldl (fun (v : Int) _ => v * v / one) y
  (seconds * 2 ^ 32 * e / (36 * one)).toNat

/-- The Cone's trip (R446): a margin below 30 ps raises the target by 10 mV, up to 0.85 V, and issues a plan. -/
def marginTrip (margins : List Int) (s : State) : State :=
  if margins.any (· < 30) && s.power.st != .dormant then
    let mv := if s.power.avsStopped then s.power.vcoreMv else min 850 (s.power.avsTarget + 10)
    let c := s.mnt.cone
    issuePlan (if s.cx.profile = 2 then c.planMv else mv) (if s.cx.profile = 2 then mv else c.planEndurance) (headroomOf margins s.cx.profile) s
  else s

/-- The daily store of the tune word while LOCKED (R76, R441). -/
def dailyTune (s : State) : State :=
  if s.time.disc = .locked && decide (daysDt 1 ≤ dtSince s.time.tuneStored (now s)) then
    askStore .tuneWord none (modTime (fun u => { u with lockedMean := lockedMeanAt (now s) u, tuneStored := now s }) s)
  else s

/-- The time between two samples of the Cone in seconds (R445). -/
def conePeriod (s : State) : Nat := if s.power.st = .dormant then 10 else 1

/-- The Cone samples temperatures and margins (R445, R446): in 0.1 degrees and ps, once a second; in Dormant every 10 s from the always-on
sensor. The reading of VDD_CORE's monitor at the sample is not given: a free value. -/
def execConeSample (t : DT) (tHot tAo : Int) (margins : List Int) (s : State) : Host.Outcome State Fault Refusal :=
  let s := moment t s
  .next (if !s.power.porstN || decide (dtSince s.mnt.sampledAt (now s) < conePeriod s * 2 ^ 32) then s
    else
      let tj := if s.power.st = .dormant then tAo else tHot
      let work := s.mnt.cone.heatFrac + heatWork (conePeriod s) tj
      let s := useFree (modPower (fun p => { p with tHot := tHot, tAo := tAo, vcoreMv := (freeNow s).natAbs % 65536 }) s)
      let s := modMnt (fun m => { m with sampledAt := now s, cone := { m.cone with
        heat := m.cone.heat + BitVec.ofNat 64 (work / 2 ^ 32), heatFrac := work % 2 ^ 32,
        tMax := max m.cone.tMax tj, margins := if s.power.st = .dormant then m.cone.margins else margins.take 8 } }) s
      if s.power.st = .running then dailyTune (marginTrip margins (tempDue s))
      else if s.power.st = .dormant then tempDue s
      else s)

/-! ### The calibration store (R405, R408, R441 to R444) -/

/-- A key's next block is persisted (R405). -/
def reserveBlock (i : Fin 64) (s : State) : State :=
  let s := modKey i (fun k => { k with blockEnd := k.blockEnd + 65536 }) s
  match s.cry.keys[i] with
  | some k => if testBit k.usage 3 then modVault (fun v => { v with keys := v.keys.set i (some k) }) s else s
  | none => s

/-- The sequence numbers of an item's copies A and B (R442). -/
def copiesOf (item : VaultItem) (v : Vault) : Nat × Nat :=
  match v.copies.find? (·.1 == item) with
  | some x => x.2
  | none => (0, 0)

/-- A store goes into the copy that does not hold the newest valid version, with the number one above it; a copy whose read-back fails is
not valid (R442, R444). -/
def writeCopy (item : VaultItem) (ok : Bool) : State → State :=
  modVault fun v =>
    let x := copiesOf item v
    let n := if ok then max x.1 x.2 + 1 else 0
    { v with copies := (item, if x.2 ≤ x.1 then (x.1, n) else (n, x.2)) :: v.copies.filter (·.1 != item) }

/-- What a store that succeeded leaves in the vault, and what follows from it (R439, R441). -/
def storedItem (item : VaultItem) (cmds : List Nat) (s : State) : State :=
  match item with
  | .tuneWord =>
    modMnt (fun m => { m with cone := { m.cone with
      tuneLog := (m.cone.tuneLog ++ [(now s, s.time.lockedMean)]).filter fun x => decide (dtSince x.1 (now s) ≤ daysDt 365) } })
      (modVault (fun v => { v with tune := s.time.lockedMean }) s)
  | .refMult => modVault (fun v => { v with refMult := s.time.plls[(if s.time.activeB then 1 else 0 : Fin 2)].refMult }) s
  | .recallTable n => modVault (fun v => { v with recalls := v.recalls.set n s.rf.tuners[n].recalls }) s
  | .adc i => closeStored 3 i.val .ok (modVault (fun v => { v with adcGood := v.adcGood.set i true, adc := v.adc.set i s.rf.wb[i].subs }) s)
  | .schedule => modVault (fun v => { v with acts := s.mnt.acts }) s
  | .cone => closeStored 5 0 .ok (modVault (fun v => { v with cone := s.mnt.cone }) s)
  | .reservation i =>
    let s := reserveBlock i s
    let s := modFiring 7 i.val (fun f => { f with running := false, outcome := 0, lastEnd := now s }) s
    let s := cmds.foldl (fun s id => match findHeld id s with | some h => admitMessage h s | none => s) s
    tagAll s
  | .counter i =>
    let s := modCry (fun c => { c with counters := upd c.counters i (· + 1) }) s
    let s := modVault (fun v => { v with counters := s.cry.counters }) s
    cmds.foldl (fun s id => finishId id .ok [(16, 4, s.cry.counters[i].toNat)] s) s

/-- What a store that failed twice leaves behind (R405, R408, R444). -/
def storeFailed (item : VaultItem) (cmds : List Nat) (s : State) : State :=
  let s := modMnt (fun m => { m with cone := { m.cone with storeFailed := true } }) s
  match item with
  | .reservation i =>
    rejectAll cmds .errState (modFiring 7 i.val (fun f => { f with running := false, outcome := statusCode .calStoreFailed, lastEnd := now s }) s)
  | .adc i => closeStored 3 i.val .storeFailed s
  | .cone => closeStored 5 0 .storeFailed s
  | _ => rejectAll cmds .errState s

/-- A vault store ends; one that fails is repeated once (R444). -/
def execVaultStoreDone (t : DT) (item : VaultItem) (ok : Bool) (s : State) : Host.Outcome State Fault Refusal :=
  let s := moment t s
  let mine := s.mnt.stores.filter fun x => x.1 == item
  let rest := s.mnt.stores.filter fun x => x.1 != item
  let cmds := mine.filterMap (·.2.2)
  .next (match mine with
    | [] => s
    | x :: _ =>
      let s := writeCopy item ok s
      if ok then storedItem item cmds (modMnt (fun m => { m with stores := rest }) s)
      else if x.2.1 = 0 then modMnt (fun m => { m with stores := m.stores.map fun y => if y.1 == item then (y.1, 1, y.2.2) else y }) s
      else storeFailed item cmds (modMnt (fun m => { m with stores := rest }) s))

end Sys2Proof.Machine
end

