-- ==== Sys2Proof/Machine/Dormant.lean ====
section
/-!
DEFINITION. Dormant.lean: the entry to Dormant: what every block does there (R78, R99, R129, R156, R185, R294, R325, R394, R420, R460,
R495), and when it takes place (R482, R498).
-/
namespace Sys2Proof.Machine

/-- Whether this unit runs in a pair. -/
def joined (s : State) : Bool := s.pair.role != 0

/-- The commands that are fetched and not completed, in submission order (R308). -/
def openHeld (s : State) : List Held := s.host.held.filter fun h => !h.deferred

/-- An entry that the MPORT has received and the device not taken ends too (R325, R355). -/
def abortReceived (s : State) (b : List Byte) : State :=
  mpResult { tag := BitVec.ofNat 16 (le b 2 2), status := statusCode .abortedHost, dt := now s, result := zeros 16, event := false } [] s

/-- The commands that have not begun end without effect as the entry to Dormant begins (R325). -/
def abortNotBegun (s : State) : State :=
  let s := ((openHeld s).filter fun h => !h.begun).foldl (withdraw .abortedHost) s
  s.mp.received.foldl abortReceived (modMp (fun m => { m with received := [] }) s)

/-- Queues and buffers are settled (R325): a begun command still running ends as it stands, and the buffers return. A slew ends where it has got
to, and a join is abandoned. DESIGN CHOICE (log entry 96): so does a slew that a reference decided (R59), and a forward step that is decided and
not yet due is dropped. -/
def settleDormant (s : State) : State :=
  let s := (openHeld s).foldl (fun s h => reject h .abortedHost s) (endSlew s)
  let s := modPair (fun p => { p with join := none }) s
  (List.finRange 4).foldl (fun s c => reclaim c s.host.rings[c].buffers.length s) s

/-- The tuners that are in RX or on their way there. -/
def receiving (s : State) : List Nat :=
  ((List.finRange 4).filter fun n =>
    let t := s.rf.tuners[n]
    t.st == .rx || t.st == .synth || t.change.isSome || t.target == some .rx || t.st == .probe).map (·.val)

/-- A tuner goes to SLEEP (R129). -/
def Tuner.rest (t : Tuner) : Tuner :=
  { t with
    st := .sleep, unavailable := t.unavailable || t.st == .failed, change := none, target := none, targetCmd := none, probe := none, retest := none,
    calibrating := false, holdFrom := none, recallDirty := false }

/-- The Slip goes to OFF (R129); SUPERVISE stays set and resumes at its next period. -/
def SlipSt.rest (x : SlipSt) : SlipSt :=
  { x with
    emitting := false, cfg := if fget x.cfg 0x0605 = 3 then x.cfg else fset x.cfg 0x0605 0,
    owner := if x.owner = .host ∧ fget x.cfg 0x0605 ≠ 3 then .nobody else x.owner }

/-- The firings that run are abandoned with the values in force kept; a request with a deferred command stays (R325, R460). -/
def stopFirings (s : State) : State :=
  s.mnt.firings.foldl (fun s f =>
    if f.running then
      freeFiringSlip f.activity (modFiring f.activity f.obj (fun f => { f with
        running := false, due := now s, cmds := f.cmds.filter fun id => (findHeld id s).isSome,
        requested := f.cmds.any fun id => (findHeld id s).isSome }) s)
    else s) s

/-- The tuners, the Slip and the inputs in Dormant: what was in RX is kept for the wake, the recall tables are stored, and gain control
starts anew at the G held (R99, R107, R129). -/
def restTuners (s : State) : State :=
  let l := receiving s
  let s := modVault (fun v => { v with recalls := s.rf.tuners.map (·.recalls) }) s
  modSlip SlipSt.rest (modRf (fun r => { r with tuners := r.tuners.map Tuner.rest, wb := r.wb.map fun w => { w with holdFrom := none } }) (modPower (fun p => { p with heldTuners := l }) s))

/-- The pins of the ports that run go low (R294). -/
def lowPins (s : State) : State :=
  (List.finRange 14).foldl (fun t p => if s.port.ports[p].grid.isSome then emit (.portLow p.val) t else t) s

/-- The ports stop, and with them the dividers and AMCLK; a locked receiver loses its input here (R294). -/
def restPorts (s : State) : State :=
  modPortSt (fun o => { o with
    ports := o.ports.map fun p => { p with grid := none, frames := 0, base := 0, stopping := false, sent := [] },
    dividers := Vector.replicate 4 Divider.reset, toMove := false,
    routes := o.routes.map fun r => { r with muted := true, gain := 0, old := none },
    ains := o.ains.map fun a => { a with
      locked := false, blocks := 0, changeFrom := none, fresh := [], lostAt := if a.locked then some s.time.dt else a.lostAt } }) (lowPins s)

/-- The loop as it stands in Dormant, with the tune word held (R78). -/
def restLoop (s : State) : State :=
  let mode := modeNow s
  let s := setDisc (if mode = 0 then .free else .holdover) s
  modTime (fun u => { u with held := u.tune, coastFrom := dtInt u.dt, measuring := false, offsets := [], fwdStep := none }) s

/-- Both sampling PLLs stop and DT moves to the backup count (R78, R490). -/
def stopPlls (s : State) : State :=
  modTime (fun u => { u with backup := true, bothLost := false, vcoStopped := false, spareAligned := false, switchedAt := none, pllSeq := none, phaseCmd := none })
    (stopPll 1 (stopPll 0 s))

/-- The Saggar in Dormant (R394): running jobs end broken, its cores halt. -/
def restSaggar (s : State) : State :=
  modSg (fun g => { g with halted := g.st != .off }) ((runningJobs s).foldl (fun s j => cutJob j 2 s) s)

/-- Dormant is entered (R495). -/
def enterDormant (s : State) : State :=
  let s := settleDormant s
  let s := holdAll (modCx (fun c => { c with
    syncs := [], hops := Vector.replicate 4 none,
    ctxs := c.ctxs.map fun x => { x with afs := x.afs.map fun a => { a with met := 0, crossed := none, piSeen := none } },
    paths := c.paths.map fun p => { p with grid := none } }) s)
  let s := restPorts (restTuners (stopFirings (restSaggar s)))
  let s := clearMessages (stopPlls (restLoop s))
  let s := modMnt (fun m => { m with paused := true }) s
  let s := modHost (fun h => { h with linkUp := false, bme := false }) (modMp (fun m => { m with awake := none }) s)
  modPower (fun p => { p with st := .dormant, coreEn := false, vid := 10, dormantArmed := false, entering := false, wakeAfter := false }) s

/-- The entry to Dormant begins where DORMANT_REQ asks for it in RUNNING (R482, R495, R498): not by a joined unit, and once for each rise.
Commands that have begun go on to the end of the entry (R325; log entry 12). -/
def dormantCheck (s : State) : State :=
  if isRunning s && s.power.dormantReq && s.power.dormantArmed && !s.power.entering && !joined s then
    abortNotBegun (modPower (fun p => { p with entering := true }) s)
  else s

/-- DORMANT_REQ has been high for 1 ms (R495). -/
def execDormantReqHeld (t : DT) (s : State) : Host.Outcome State Fault Refusal :=
  .next (dormantCheck (modPower (fun p => { p with dormantReq := p.porstN || p.dormantReq }) (moment t s)))

end Sys2Proof.Machine
end

