-- ==== Sys2Proof/Machine/PairMode.lean ====
section
/-!
DEFINITION. PairMode.lean: joining and leaving a pair, the Walval link and its lanes, the loss of the peer, and the secondary's time (R461
to R483).
-/
namespace Sys2Proof.Machine

/-! ### The link and its report (R464, R467) -/

/-- The lanes of a mask in use. -/
def laneCount (m : BitVec 4) : Nat := (List.range 4).countP fun i => m.getLsbD i

/-- PEER_STATE (R344). -/
def peerState (s : State) : State :=
  raise .peerState [(16, 1, linkCode s.pair.link), (17, 1, s.pair.lanes.toNat), (18, 1, s.pair.mode), (19, 1, s.pair.role),
    (24, 8, dtInt (now s))] s

/-- The link changes its state; PEER_STATE reports every change (R464). -/
def setLink (l : LinkState) (s : State) : State := if s.pair.link = l then s
  else peerState (modPair (fun p => { p with link := l, trainFrom := if l = .training then now s else p.trainFrom }) s)

/-- The state of a trained link by its lanes (R464). -/
def trained (m : BitVec 4) : LinkState := if laneCount m = 4 then .up else if laneCount m = 0 then .training else .degraded

/-- The link retrains on a set of lanes (R465): TRAINING, then the state of the lanes that remain. -/
def retrain (m : BitVec 4) (s : State) : State :=
  let s := modPair (fun p => { p with lanes := m, retrains := p.retrains + 1 }) s
  setLink (trained m) (setLink .training s)

/-- The streams exported in a mode (R467). -/
def exportOf (mode : Nat) (asked : BitVec 2) : BitVec 2 := if mode = 1 then 3 else if mode = 2 then 0 else asked

/-- Whether the pair runs in SHIELD. -/
def inShield (s : State) : Bool := joined s && s.pair.mode == 2

/-- The carvers on a peer stream (R92). -/
def peerCarvers (b : Bool) (s : State) : List (Fin 8) := (List.finRange 8).filter fun c => carverSource c s == 3 + (bit b : Int)

/-- A shed stream comes back: its carvers take it from their next frame boundary on (R465). -/
def resumeStream (b : Bool) (s : State) : State :=
  (peerCarvers b s).foldl (fun s c => modCarver c (fun x => { x with resumes := x.stopped }) s)
    (modPair (fun p => { p with stoppedIn := p.stoppedIn &&& ~~~ BitVec.twoPow 2 (bit b) }) s)

/-! ### PAIR_JOIN (R466, R467, R477, R481) -/

def specPairJoin : Spec :=
  { plain 0x0B00 3 tZero [(0, 3)] with
    admin := fun _ => true
    range := fun _ _ a => oneOf a 0 [0, 1, 2] ++ oneOf a 1 [0, 1, 2] ++ require (decide (le a 2 1 < 4)) 2 }

/-- PAIR_JOIN begins: it waits for the peer's. -/
def doPairJoin (h : Held) (s : State) : State :=
  let a := Entry.args h.entry
  let mode := le a 0 1
  if joined s || s.pair.join.isSome then reject h .errState s
  else if mode = 2 && (s.cx.profile ≠ 0 || (logKey s).isNone) then reject h .errState s
  else begin_ h (modPair (fun p => { p with
    join := some { cmd := h.id, mode := mode, role := le a 1 1, exports := BitVec.ofNat 2 (le a 2 1), at_ := now s } }) s)

def execPairJoin (e : Entry) (s : State) : Host.Outcome State Fault Refusal :=
  .next (hostCmd (.pairJoin e) specPairJoin doPairJoin e s)

/-- The role of a join: the strap unless ROLE overrides it. -/
def joinRole (j : Join) (s : State) : Nat := if j.role = 0 then (if s.power.boot.pairrole then 1 else 2) else j.role

/-- Why the two joins fail, if they do. -/
def joinFails (j : Join) (i : JoinInfo) (s : State) : Option Status :=
  let role := joinRole j s
  let open_ := if role = 2 then decide (0 < openCount (fun _ => true) s) else i.peerHasOpen
  if i.peerMode.val ≠ j.mode then some .errParam
  else if i.peerRole.val = role || open_ || (j.mode = 2 && (s.cx.profile ≠ 0 || !i.peerSpan)) || decide ((usDt 100 : Int) < i.dtOffset) then
    some .errState
  else none

/-- A join that fails leaves the unit unpaired, its link DOWN. -/
def endJoin (j : Join) (st : Status) (s : State) : State :=
  rejectId j.cmd st (setLink .down (modPair (fun p => { p with join := none, lanes := 0 }) s))

/-- The residual DT offset in ps, within ±1 ns: the spec states no more, a free value. -/
def residualPs (s : State) : Int := freeNow s % 2001 - 1000

/-- The secondary's DT behind the primary's is stepped forward to it; the spec gives that step's Sherd no cause, a free value. -/
def alignDt (i : JoinInfo) (s : State) : State :=
  if s.pair.role = 2 && decide (i.dtOffset < 0) && decide ((now s).toNat < i.primaryDt.toNat) then
    stepDtAs i.primaryDt (freeNow s) true (useFree s)
  else s

/-- The secondary follows the primary's DT in place of its own reference (R470). -/
def followPrimary (s : State) : State :=
  if s.pair.role = 2 then
    setDisc .free (modTime (fun u => { u with measuring := false, offsets := [], fwdStep := none }) (endSlew s))
  else s

/-- The pair runs: exports, transit, profile, link (R466). -/
def pairUp (mode role : Nat) (exports : BitVec 2) (i : JoinInfo) (s : State) : State :=
  let s := modPair (fun p => { p with
    join := none, role := role, mode := mode, lanes := i.lanes, peerHb := true, takeover := false,
    transit := BitVec.ofNat 32 i.transit,
    exportOut := exportOf mode exports, exportIn := exportOf mode (i.peerExport.setWidth 2), stoppedIn := 0 }) s
  let s := followPrimary (alignDt i s)
  let s := useFree (modPair (fun p => { p with dtOffset := residualPs s }) s)
  let s := if mode = 2 then modCx (fun c => { c with profile := 3 }) s else s
  setLink (trained i.lanes) s

/-- Every mirrored context of a survivor is opened on the joiner and passes through ARMING (R479). -/
def armMirrors : State → State :=
  modCx fun c => { c with ctxs := c.ctxs.map fun x => if x.st ≠ .closed ∧ x.mirrorOn then { x with mirror := 1 } else x }

/-- Training, the transit measurement and the alignment of DT end (R466). A survivor in SHIELD accepts a joiner without a command of its
own (R479). -/
def execPairJoinComplete (t : DT) (j : JoinInfo) (s : State) : Host.Outcome State Fault Refusal :=
  let s := moment t s
  .next (match s.pair.join with
    | some q =>
      let s := setLink .training s
      match joinFails q j s with
      | some st => endJoin q st s
      | none =>
        let role := joinRole q s
        let s := pairUp q.mode role q.exports j s
        finishId q.cmd .ok [(16, 1, role), (17, 1, s.pair.lanes.toNat), (18, 1, q.mode), (20, 4, s.pair.transit.toNat), (24, 8, dtInt (now s))] s
    | none =>
      if inShield s && s.pair.link == .lost && s.pair.role == 1 && j.peerMode.val == 2 && j.peerRole.val == 2 then
        armMirrors (pairUp 2 1 0 j (setLink .training s))
      else s)

/-- The peer's PAIR_JOIN has not arrived within 10 s (R466). -/
def execPairJoinTimeout (t : DT) (s : State) : Host.Outcome State Fault Refusal :=
  let s := moment t s
  .next (match s.pair.join with
    | some q => if 10 * 2 ^ 32 ≤ dtSince q.at_ (now s) then endJoin q .peerLost s else s
    | none => s)

/-! ### Leaving and losing the peer (R463, R469, R476 to R478, R482) -/

/-- The loop resumes as from HOLDOVER (R78, R469): a reference that is qualified counts as re-qualifying now. -/
def resumeLoop (s : State) : State :=
  if modeNow s = 0 then setDisc .free s
  else
    let s := enterHoldover s
    let s := if s.time.refinQual then refinReturns s else s
    if s.time.ppsQual then ppsReturns s else s

/-- The mirrors of all contexts stop. -/
def stopMirrors : State → State := modCx fun c => { c with ctxs := c.ctxs.map fun x => { x with mirror := 0 } }

/-- The peer's intervals of class 6 end with its contexts (R478). -/
def dropPeerUnits (s : State) : State := modPair (fun p => { p with peerHeld := 0 }) (settle 6 s.pair.peerHeld s)

/-- This unit is unpaired: no role, mode or export; a secondary resumes its own reference configuration. -/
def unpair (s : State) : State :=
  let was := s.pair.role
  let s := modPair (fun p => { p with role := 0, mode := 0, exportOut := 0, exportIn := 0, stoppedIn := 0, lanes := 0, takeover := false }) (dropPeerUnits s)
  setLink .down (if was = 2 then resumeLoop s else s)

/-- The carvers on peer streams enter the HOLD of R93. -/
def losePeerStreams (s : State) : State := stopStream true (stopStream false s)

/-- Every open context ends, and the commands for it with PEER_LOST (R478). -/
def endContexts (s : State) : State :=
  (List.finRange 64).foldl (fun s c => if s.cx.ctxs[c].st = .closed then s else closeCtx c none .peerLost s) s

/-- Every buffer held in a class returns with a status; the fuel bounds the buffers. -/
def returnAll (c : Fin 4) (st : Status) : Nat → State → State
  | 0, s => s
  | n + 1, s => returnAll c st n (returnBuffer c st s)

/-- Every held buffer returns with a status (R35, R325, R477). -/
def returnBuffers (st : Status) (s : State) : State :=
  (List.finRange 4).foldl (fun s c => returnAll c st s.host.rings[c].buffers.length s) s

/-- The takeover of a survivor that was the secondary (R477 steps 3 to 5): held commands it had not applied end with PEER_LOST, held
buffers return with RETURNED_RESTART. -/
def takeOver (s : State) : State :=
  let s := modPair (fun p => { p with role := 1, takeover := true }) s
  let hs := s.host.held.filter fun h => h.src != .mport && !h.begun
  let s := hs.foldl (fun s h => reject h .peerLost s) s
  modPair (fun p => { p with takeover := false }) (returnBuffers .returnedRestart s)

/-- What the secondary carries of the units that the primary's ledger counts (R36, R474): intervals of class 6 of CTX64 to CTX127 that fall
due or are settled, and records, which the primary numbers and tags as they arrive. No row tells them. DESIGN CHOICE (log entry 64): on an
empty queue, with the link up, any number of them, with free contents. -/
def peerUnits (s : State) : State :=
  if s.pair.role = 1 && (s.pair.link == .up || s.pair.link == .degraded) then
    let n := if inShield s then 0 else (freeNow s).natAbs
    let s := useFree (modPair (fun p => { p with peerHeld := p.peerHeld + n }) (post 6 n s))
    let k := (freeNow s).natAbs % (s.pair.peerHeld + 1)
    let s := useFree (modPair (fun p => { p with peerHeld := p.peerHeld - k }) (settle 6 k s))
    if freeNow s % 2 = 0 then useFree s
    else
      let v (i : Nat) : Int := Config.freeValue (s.fresh + 1 + i)
      writeSherd (sherdBody (v 0).natAbs 0 (64 + (v 1).natAbs % 64) 1 (BitVec.ofInt 64 (v 2)) (BitVec.ofInt 64 (v 3)) s.host.epoch s.ident.serial
        ((List.range 48).map fun i => BitVec.ofInt 8 (v (4 + i)))) (useMany 53 s)
  else s

/-- The peer or the link to it is lost; `gone` when the peer itself is absent. -/
def losePeer (gone : Bool) (s : State) : State :=
  let was := s.pair.role
  let s := modPair (fun p => { p with lanes := 0 }) s
  if inShield s then
    let s := if gone && was == 2 then resumeLoop (takeOver s) else s
    let s := stopMirrors (setLink .lost s)
    if gone then faultSherd 7 0 (now s) (now s) s else s
  else
    let s := losePeerStreams (setLink .lost s)
    let s := dropPeerUnits s
    if was = 1 then peersLeave (fun _ => true) ((awayCmds s).foldl (fun s h => reject h .peerLost s) s)
    else unpair (endContexts s)

/-- No edge of the heartbeat for 3 ms: the peer is absent (R463, R477, R478). -/
def execPeerHeartbeatLost (t : DT) (s : State) : Host.Outcome State Fault Refusal :=
  let s := modPair (fun p => { p with peerHb := false }) (moment t s)
  .next (match s.pair.join with
    | some q => endJoin q .peerLost s
    | none => if joined s && s.pair.link != .lost then dormantCheck (losePeer true s) else s)

/-- The link has not trained within 5 ms with the peer present (R464, R482). -/
def execLinkTrainTimeout (t : DT) (s : State) : Host.Outcome State Fault Refusal :=
  let s := moment t s
  .next (if joined s && s.pair.link == .training && decide (msDt 5 ≤ dtSince s.pair.trainFrom (now s)) then dormantCheck (losePeer false s) else s)

def specPairLeave : Spec := { plain 0x0B01 0 tZero [] with admin := fun _ => true, secondary := fun _ => true }

/-- Whether a carver takes a peer stream. -/
def usesPeer (s : State) : Bool := !(peerCarvers false s).isEmpty || !(peerCarvers true s).isEmpty

/-- Whether a context of the secondary is open, as this unit sees it: one it opened over the link, or, on the secondary outside SHIELD, one
of its own. -/
def secondaryOpen (s : State) : Bool :=
  (awayCmds s).any (·.op == 0x0400) || (s.pair.role == 2 && !inShield s && decide (0 < openCount (fun _ => true) s))

/-- PAIR_LEAVE (R469). In SHIELD the mirrors end, and both units return to SPAN. -/
def doPairLeave (h : Held) (s : State) : State :=
  if !joined s || s.pair.takeover || secondaryOpen s || usesPeer s then reject h .errState s
  else
    let s := emit (.link 6 []) s
    let s := if inShield s then
        let s := if s.pair.role = 2 then endContexts s else stopMirrors s
        modCx (fun c => { c with profile := 0 }) s
      else s
    finishC h (unpair s)

/-- A DORMANT_REQ that waited for the end of the pair is acted on then (R482). -/
def execPairLeave (e : Entry) (s : State) : Host.Outcome State Fault Refusal :=
  .next (dormantCheck (hostCmd (.pairLeave e) specPairLeave doPairLeave e s))

/-! ### Lanes (R465) -/

/-- A lane is removed: the link retrains on the rest; one lane keeps WBA alone, and none leaves the link TRAINING. -/
def execWalvalLaneLoss (t : DT) (lane : Fin 4) (s : State) : Host.Outcome State Fault Refusal :=
  let s := moment t s
  .next (if !joined s || !s.pair.lanes.getLsbD lane.val then s
    else
      let m := s.pair.lanes &&& ~~~ BitVec.twoPow 4 lane.val
      let s := retrain m (modPair (fun p => { p with laneDrops := p.laneDrops + 1, laneAt := p.laneAt.set lane (now s) }) s)
      let s := if laneCount m = 1 then stopStream true s else s
      faultSherd 5 lane.val (now s) (now s) s)

/-- A removed lane is retried, 1 s after its loss and after each retry (R465): one that passes is taken in again. -/
def execWalvalLaneRetry (t : DT) (lane : Fin 4) (pass : Bool) (s : State) : Host.Outcome State Fault Refusal :=
  let s := moment t s
  .next (if !joined s || s.pair.lanes.getLsbD lane.val || s.pair.link == .lost
      || decide (dtSince s.pair.laneAt[lane] (now s) < msDt 1000) then s
    else if !pass then modPair (fun p => { p with laneAt := p.laneAt.set lane (now s) }) s
    else
      let m := s.pair.lanes ||| BitVec.twoPow 4 lane.val
      let s := retrain m s
      if laneCount m = 2 && s.pair.exportIn.getLsbD 1 then resumeStream true s else s)

/-! ### Status, mirrors, the secondary's time (R343, R470, R476, R480) -/

def specPairStatus : Spec := { plain 0x0B02 0 tZero [] with admin := fun _ => true, secondary := fun _ => true }

/-- CRC_ERRORS: 8 bits for each lane, saturating (R480). -/
def crcErrors (p : PairSt) : Nat := (List.finRange 4).foldl (fun (n : Nat) i => n + min 255 p.crc[i] * 256 ^ i.val) 0

def doPairStatus (h : Held) (s : State) : State :=
  let p := s.pair
  finish h .ok [(16, 1, linkCode p.link), (17, 1, p.lanes.toNat), (18, 1, p.role), (19, 1, p.mode), (20, 4, p.dtOffset),
    (24, 4, crcErrors p), (28, 4, p.retrains.toNat)] s

def execPairStatus (e : Entry) (s : State) : Host.Outcome State Fault Refusal :=
  .next (hostCmd (.pairStatus e) specPairStatus doPairStatus e s)

def specPairMirror : Spec :=
  { plain 0x0B03 1 tContext [(0, 1)] with admin := fun _ => true, range := fun _ _ a => oneOf a 0 [0, 1] }

/-- PAIR_MIRROR waits for the context's next frame boundary (R476, R481). -/
def doPairMirror (h : Held) (s : State) : State :=
  match openCtx h s with
  | some _ => if inShield s then park h [] s else reject h .errState s
  | none => reject h .errState s

def execPairMirror (e : Entry) (s : State) : Host.Outcome State Fault Refusal :=
  .next (hostCmd (.pairMirror e) specPairMirror doPairMirror e s)

/-- The DT of the last change of the tune word. -/
def lastTune (u : TimeSt) : Int := match u.hist with | x :: _ => x.1 | [] => 0

/-- A marker of the primary arrives (R470): the secondary steers its XO. The spec gives the loop's time constant and its rate limit, not the
word: a free value within that limit. -/
def execPairDtMarker (t : DT) (offsetPs : Int) (s : State) : Host.Outcome State Fault Refusal :=
  let s := moment t s
  .next (if s.pair.role = 2 && (s.pair.link == .up || s.pair.link == .degraded) then
      let n := maxTuneStep s.time * (dtInt (now s) - lastTune s.time).toNat / 2 ^ 32
      let w := approach s.time.tune (freeNow s) n
      useFree (modTime (setTune (now s) w) (modPair (fun p => { p with dtOffset := offsetPs, peerHb := true }) s))
    else s)

end Sys2Proof.Machine
end

