-- ==== Sys2Proof/Machine/Power.lean ====
section
/-!
DEFINITION. Power.lean: cold starts with their images, failed starts, RECOVERY and HALTED, warm starts, the wake from Dormant, the
power-fail warning, AVS, and DRAM errors (R33 to R35, R76 to R78, R298, R323 to R325, R431, R484 to R498). A start is one whole step: DT
stands still in it, and every later start finds the board as the last rise of PORST_N sampled it.
-/
namespace Sys2Proof.Machine

/-! ### RECOVERY and HALTED (R490) -/

/-- The host interface after a cold start (R324, R507): one that keeps the link keeps the MSI-X table and the pending bits. -/
def coldHost (keepLink : Bool) (h : HostIf) : HostIf :=
  if keepLink then
    { HostIf.reset with
      nextId := h.nextId, epoch := h.epoch, linkUp := h.linkUp, bme := h.bme, msix := h.msix, pba := h.pba }
  else { HostIf.reset with nextId := h.nextId, epoch := h.epoch }

/-- Jobs that ran go on without their paths (R394): their intervals are broken, and nothing is left to release. -/
def orphanJobs : State → State :=
  modSg fun g => { g with jobs := g.jobs.map fun j =>
    if j.running then { j with path := none, tuner := none, carver := none, wheel := none, carverCfg := [], broken := true } else j }

/-- What stops with the main die's software: every block between the antennas and the host, the pair, the schedule, the keys in use. The
operational log stays until its opening gap records are written. -/
def clearBlocks (keepLink : Bool) (s : State) : State :=
  let s := modRf (fun _ => RfSt.reset) (modCx (fun _ => CtxSt.reset) (modAudio (fun _ => AudioSt.reset) s))
  let s := modPortSt (fun _ => PortSt.reset) (modMem (fun _ => MemSt.reset) (modMnt (fun _ => MaintSt.reset) s))
  let s := modPair (fun _ => PairSt.reset) (modHost (coldHost keepLink) s)
  let s := modIdent (fun i => { i with firmware := 0, imgSecver := 0, digest := zeros 32 }) s
  orphanJobs (modCry (fun k => { CrySt.reset with
    log := k.log, nextSeq := k.nextSeq, reservedTo := k.reservedTo, overwritten := k.overwritten }) s)

/-- RECOVERY (R490). -/
def enterRecovery (s : State) : State :=
  modPower (fun p => { p with st := .recovery, waitImage := false, waking := false, entering := false, wakeAfter := false, coreEn := true, vid := 10, faultLow := true })
    (stopPlls (clearBlocks true s))

/-- HALTED (R490): the Saggar enters STOPPED. -/
def enterHalted (s : State) : State :=
  let s := if s.sg.st = .off || s.sg.st = .stopped then s else stopSaggar none (haltJobs s)
  modPower (fun p => { p with st := .halted, waitImage := false, waking := false, entering := false, wakeAfter := false, coreEn := true, vid := 10, faultLow := true })
    (stopPlls (clearBlocks true s))

/-- A start fails with a cause (R489): a cold start follows; the third in a row, or one with a host image from RECOVERY, ends there. -/
def failStart (again : State → State) (fromRecovery : Bool) (cause : Nat) (s : State) : State :=
  let s := modPower (fun p => { p with fails := min 3 (p.fails + 1), lastCause := cause, waitImage := false }) s
  if fromRecovery || decide (3 ≤ s.power.fails) then enterRecovery s else again s

/-- RUNNING is reached (R489, R493, R494, R498). -/
def reachRunning (s : State) : State :=
  dormantCheck (modPower (fun p => { p with
    st := .running, runningSince := s.time.dt, waking := false, waitImage := false, entering := false, wakeAfter := false }) s)

/-! ### Cold start: clocks, front end, memory, schedule (R76, R88, R106, R421, R460, R493) -/

/-- A PLL in lock at a setting. -/
def Pll.locked (mult icp : Nat) : Pll := { Pll.stopped mult with running := true, cmp := true, declared := true, icp := icp }

/-- SPLL-A and then SPLL-B are declared at the stored REF_MULT, and DT moves to SPLL-A (R76). -/
def clocksUp (s : State) : State :=
  let m := s.vault.refMult
  modTime (fun u => { u with
    cfg := if m = 0 then u.cfg else fset u.cfg 0x0109 m,
    plls := Vector.replicate 2 (Pll.locked m (fget u.cfg 0x010A).toNat),
    activeB := false,
    spareAligned := true,
    backup := false }) s

/-- A die temperature in 0.1 degrees, in whole degrees. -/
def wholeDegrees (t : Int) : Int := t / 10

/-- The band table that a cold start builds (R106). -/
def builtBands (n : Nat) (temp : Int) : Vector Band 64 :=
  Vector.ofFn fun (b : Fin 64) =>
    let e := Config.bandEdges n b.val
    { low := e.1, high := e.2, temp := wholeDegrees temp, exclude := false }

/-- The start-up calibration of an input (R88): sub-converters, LNA and attenuator steps and analogue delay as the device finds them, free
values drawn from `k` on, the sub-converters within the limits of R89. -/
def WbIn.calibrate (k : Nat) (x : WbIn) : WbIn :=
  { x with
    calGood := true,
    subs := (List.range 16).map fun j => (Config.freeValue (k + 3 * j) % 12801 - 6400, Config.freeValue (k + 3 * j + 1) % 1001 - 500,
      Config.freeValue (k + 3 * j + 2) % 2001 - 1000),
    lna := (Config.freeValue (k + 48), Config.freeValue (k + 49)),
    att := (List.range 30).map fun j => Config.freeValue (k + 50 + j),
    delay := Config.freeValue (k + 80) }

/-- Both inputs are calibrated with the tones of the Slip (R88). -/
def calibrateInputs (s : State) : State :=
  useMany 162 (modRf (fun r => { r with wb := Vector.ofFn fun (i : Fin 2) => r.wb[i].calibrate (s.fresh + 81 * i.val) }) s)

/-- The ADC values and the recall tables are restored, the converters calibrated, the band tables built (R88, R106, R107, R129, R460). -/
def frontEndUp (s : State) : State :=
  let temp := s.power.boot.dieTemp
  let s := calibrateInputs (modRf (fun r => { r with wb := Vector.ofFn fun (i : Fin 2) =>
    if s.vault.adcGood[i] then { r.wb[i] with subs := s.vault.adc[i] } else r.wb[i] }) s)
  modRf (fun r => { r with
    tuners := Vector.ofFn (fun (n : Fin 4) => { r.tuners[n] with bands := builtBands n.val temp, recalls := s.vault.recalls[n] }),
    adcTemp := temp }) s

/-- The DRAM size in use (R421): one between the supported sizes counts as the next lower. -/
def dramSize (gb : Nat) : Nat := if 8 ≤ gb then 8 else if 4 ≤ gb then 4 else 2

/-- DRAM is trained and its system region initialised; the shared pool is not yet (R421, R424, R493). -/
def memoryUp (s : State) : State :=
  let gb := dramSize s.power.boot.dramGB
  modMem (fun m => { m with dramGb := gb, poolMb := poolSize gb }) s

/-- The entries of the schedule (R452). -/
def scheduleObjects : List (Fin 9 × Nat) :=
  [(0, 0), (1, 0), (4, 0), (5, 0)] ++ [0, 1, 2, 3].map (fun n => (2, n)) ++ [0, 1].map (fun i => (3, i)) ++ [0, 1, 2, 3].map (fun n => (8, n))

/-- The schedule and the Cone are restored (R460): each activity is first due one period on, the Saggar's verification at once (R393). The
start-up calibration of the converters counts as their last (R440). -/
def scheduleUp (s : State) : State :=
  let due (a : Fin 9) : DT := dtAdd s.time.dt (periodOf s.vault.acts[a])
  modMnt (fun m => { m with
    acts := s.vault.acts, cone := s.vault.cone, paused := s.power.pfail,
    firings := newFiring 6 0 s.time.dt :: scheduleObjects.map fun x =>
      { newFiring x.1.val x.2 (due x.1) with lastTemp := if x.1.val = 3 then some s.power.boot.dieTemp else none } }) s

/-! ### Cold start: keys, and the opening of the log (R34, R405, R420) -/

/-- A restored key goes on at the first value after its last persisted block (R405). -/
def Key.restored (k : Key) : Key := { k with counter := k.blockEnd }

/-- The persistent keys, the counters and the log configuration are restored (R400, R408, R420). -/
def keysUp (s : State) : State :=
  let v := s.vault
  modCry (fun c => { c with
    keys := v.keys.map (Option.map Key.restored), nextIdent := v.nextIdent, counters := v.counters, keySlot := v.keySlot,
    deliver := v.deliver, ringKb := v.ringKb }) s

/-- Adds a run of numbers, first and count, to ascending runs; one that continues the last extends it. -/
def joinRun (l : List (Nat × Nat)) (x : Nat × Nat) : List (Nat × Nat) :=
  if x.2 = 0 then l
  else match l.getLast? with
    | some (a, n) => if a + n = x.1 then l.dropLast ++ [(a, n + x.2)] else l ++ [x]
    | none => [x]

/-- The runs of numbers of the operational log allocated and not drained, up to the end of the last persisted block (R34). -/
def undrained (seqEnd : Nat) (c : CrySt) : List (Nat × Nat) :=
  let old := match c.overwritten with | some (a, n) => [(a.toNat, n)] | none => []
  let held := (c.log.filter fun x => !x.drained).map fun x => (x.seq.toNat, 1)
  (old ++ held ++ [(c.nextSeq.toNat, seqEnd - c.nextSeq.toNat)]).foldl joinRun []

/-- One opening gap record (R34, R414). -/
def openingGap (s : State) (x : Nat × Nat) : State :=
  gapSherd 3 0 0xFFFF x.2 (x.1 : Int) ((x.1 + x.2 - 1 : Nat) : Int) s.time.dt s.time.dt s

/-- The operational log opens with its gap records; class 7 starts after them with the records themselves (R34, R420). -/
def openLog (s : State) : State :=
  let last := max s.cry.nextSeq.toNat s.vault.seqEnd.toNat
  let runs := undrained last s.cry
  let s := modCry (fun c => { c with
    log := [], overwritten := none, nextSeq := BitVec.ofNat 64 last, reservedTo := BitVec.ofNat 64 last }) s
  let s := runs.foldl openingGap s
  modRow 7 (fun _ => { posted := BitVec.ofNat 64 runs.length, returned := 0, held := BitVec.ofNat 64 runs.length }) s

/-- The KEY_EVENT Sherds of the restored keys (R413, R420). -/
def announceKeys (s : State) : State :=
  (List.finRange 64).foldl (fun s i => match s.cry.keys[i] with
    | some k => keySherd 5 i k s
    | none => s) s

/-! ### Cold start: the sequence (R33, R34, R324, R489, R491 to R493) -/

/-- The power block as a cold start begins; the boot-load registers stay for an image from RECOVERY (R490, R506, R507). -/
def startPower (fromRecovery : Bool) (targetMv : Nat) (p : PowerSt) : PowerSt :=
  let p := if fromRecovery then p else { p with imgAddr := 0, imgLen := 0, imgBusy := false, imgResult := 0 }
  { p with
    st := .coldStart, valid := p.boot.fusesOk, waitImage := false, imgLow := none, waking := false, startAt := 0, coreEn := true, latched := 0,
    vid := 10, vidAt := 0,
    avsStopped := false, avsTarget := targetMv, tHot := p.boot.dieTemp, faultLow := false, heldTuners := [] }

/-- Device time as a cold start begins (R76): zero on the backup count, with the stored tune word. -/
def startTime (tune : Int) : TimeSt := { TimeSt.reset with running := true, tune := tune, hist := [(0, tune)] }

/-- A Saggar that survives the cold start (R34, R394): its formed records count in the new epoch; a gap record covers the rest of its
block. -/
def surviveSaggar (s : State) : State :=
  let g := s.sg
  let f := BitVec.ofNat 64 g.formed.length
  let s := modRow 8 (fun _ => { posted := f, returned := 0, held := f }) s
  if sgActs s && decide (g.seq.toNat < g.reserved.toNat) then
    legalSherd 1 0xFFFF (now s) (now s)
      (gapPayload 3 1 (g.reserved.toNat - g.seq.toNat) (g.seq.toNat : Int) ((g.reserved.toNat : Int) - 1)) false
      (modSg (fun g => { g with seq := g.reserved, prevTag := zeros 8 }) s)
  else s

/-- The start of a cold start: what it clears, the vault's values that act at once, the new epoch (R33, R76, R324, R367). -/
def beginCold (fromRecovery : Bool) (keepLink : Bool) (s : State) : State :=
  let s := clearBlocks keepLink s
  let s := modPower (startPower fromRecovery s.vault.cone.planMv)
    (modTime (fun _ => startTime s.vault.tune) (modMp (fun _ => Mport.reset) s))
  modSg (fun g => { g with timing := Timing.reset, busStuck := false, pecErr := false, stretchTo := false, pecErrors := 0 }) s

/-- The epoch is incremented (R33). -/
def newEpoch (s : State) : State :=
  let e := s.vault.epoch + 1
  surviveSaggar (modHost (fun h => { h with epoch := e }) (modVault (fun v => { v with epoch := e }) s))

/-- The steps after the image (R493). -/
def coldTail (again : State → State) (fromRecovery : Bool) (secver : Nat) (s : State) : State :=
  let s := modIdent (fun i => { i with
    firmware := Config.firmwareVersion secver, digest := fit 32 (Config.firmwareDigest secver), imgSecver := BitVec.ofNat 8 secver }) s
  let s := modPower (fun p => { p with waitImage := false }) s
  if !s.power.boot.spllLocks then failStart again fromRecovery 5 s
  else
    let s := scheduleUp (frontEndUp (clocksUp s))
    reachRunning (announceKeys (openLog (keysUp s)))

/-- The first QSPI image that verifies (R491). -/
def qspiImage (s : State) : Option Nat :=
  let b := s.power.boot
  let ok (n : Nat) : Bool := decide (s.ident.minSecver.toNat ≤ n)
  if b.bootsel = 1 then none
  else match b.imageA.filter ok with
    | some n => some n
    | none => b.imageB.filter ok

/-- Whether the boot source includes the host (R491). -/
def hostBoot (s : State) : Bool := s.power.boot.bootsel == 1 || s.power.boot.bootsel == 2

/-- The steps of a cold start on the board as it was sampled (R489, R493). `again` is the cold start that follows a failed one, `img` the
image that RECOVERY was given. -/
def coldSteps (again : State → State) (fromRecovery : Bool) (img : Option Nat) (s : State) : State :=
  let b := s.power.boot
  if !b.fusesOk then enterHalted s
  else if s.ident.lifecycle = 3 then enterRecovery s
  else if !b.vaultOk then failStart again fromRecovery 3 s
  else
    let s := newEpoch s
    if b.dramGB < 2 then failStart again fromRecovery 2 s
    else
      let s := memoryUp s
      match img, qspiImage s with
      | some n, _ => coldTail again fromRecovery n s
      | none, some n => coldTail again fromRecovery n s
      | none, none =>
        if hostBoot s then modPower (fun p => { p with waitImage := true }) s
        else failStart again fromRecovery 1 s

/-- A cold start with those that follow failed ones; the fuel is the number of these. -/
def coldStart : Nat → Bool → Bool → Option Nat → State → State
  | 0, fromRecovery, keepLink, img, s => coldSteps enterRecovery fromRecovery img (beginCold fromRecovery keepLink s)
  | n + 1, fromRecovery, keepLink, img, s =>
    coldSteps (coldStart n false true none) fromRecovery img (beginCold fromRecovery keepLink s)

/-- A cold start ordered, or after a failed start: it keeps the link, and the Saggar runs on (R324, R394, R488). -/
def orderedCold (s : State) : State := coldStart 3 false true none s

/-- A start that fails outside a cold start. -/
def failRunning (cause : Nat) (s : State) : State := failStart orderedCold false cause s

/-! ### Warm start: what every block does (R35, R77, R129, R156, R185, R241, R264, R294, R420, R460) -/

/-- The restart of device time's block (R77): the shadow set is gone, an interrupted PLL sequence keeps the setting it reached; of an
interrupted phase stepping the steps applied stay, which the spec does not count: a free value. -/
def warmTime (s : State) : State :=
  let s := endPllSeq .returnedRestart (modTime (fun u => { u with shadow := [] }) s)
  match s.time.phaseCmd with
  | some (_, n) =>
    let k : Int := freeNow s % ((n.natAbs : Int) + 1) * (if n < 0 then -1 else 1)
    useFree (modTime (fun u => { u with phaseCmd := none, phaseRef := u.phaseRef + ratio (k * 2 ^ 32) 314572800000 }) s)
  | none => s

/-- A tuner at a warm start (R129): a probe returns it to RX, a change goes on in hardware. -/
def Tuner.warm (t : Tuner) : Tuner :=
  { t with shadow := [], st := if t.st = .probe then .rx else t.st, probe := none, retest := none }

/-- The front end at a warm start (R99, R129). -/
def warmRf : State → State :=
  modRf fun r => { r with
    carvers := r.carvers.map fun c => { c with shadow := [] },
    tuners := r.tuners.map Tuner.warm,
    slip := { r.slip with shadow := [], emitting := false, stopped := r.slip.stopped || fget r.slip.cfg 0x0605 == 1 } }

/-- Whether the item of a segment is complete with what was seen of it (R222). -/
def RdsSt.whole (r : RdsSt) (g : Segment) : Bool :=
  let mine := r.seen.filter fun x => x.1.item == g.item && x.1.obj == g.obj
  segsWhole (mine.map (·.1)) && mine.all fun x => decide (itemNeeds g.item ≤ x.2.1)

/-- A context at a warm start: it goes on from its last checkpoint (R180, R185, R241). -/
def Ctx.warm (x : Ctx) : Ctx :=
  { x.reload.restartMpx with
    shadow := [], alerts := x.alerts.map (fun a => { a with restate := true }),
    dab := { x.dab with labels := x.dab.labels.filter fun l => decide (2 ≤ l.2.2) },
    rds := { x.rds with seen := x.rds.seen.filter fun y => x.rds.whole y.1 } }

/-- The objects that a subscription has in assembly (R241). -/
def partialObjects (u : Sub) (x : Ctx) : Nat :=
  if u.kind = 1 then
    (((x.rds.seen.filter fun y => maskBit u y.1.item && !x.rds.whole y.1).map fun y => y.1.item + 8 * y.1.obj).eraseDups).length
  else if u.kind = 3 then x.dab.labels.countP fun l => l.2.2 < 2 && maskBit u (l.1 % 4)
  else if u.parts.isEmpty || (u.kind != 5 && segsWhole ((u.parts.map (·.1)).filter (·.item == 0))) then 0
  else max 1 u.motSince.length

/-- Partial objects are discarded; the next record of the subscription carries their count (R241). -/
def dropPartials (s : State) (u : Sub) : State :=
  match idx 64 u.ctx with
  | some c =>
    let n := partialObjects u s.cx.ctxs[c]
    let s := modSub u.id (fun u => { u with parts := [], motSince := [] }) s
    if n = 0 then s else modRing 1 (fun r => { r with owed := addCount r.owed u.id.toNat n }) s
  | none => s

/-- The contexts at a warm start: switches are abandoned, partial items discarded, every path reset (R35, R156, R185, R241). -/
def warmContexts (s : State) : State :=
  let s := (List.finRange 64).foldl (fun s c => declineSwitch c 3 s) s
  let s := s.cx.subs.foldl dropPartials s
  let s := modCx (fun x => { x with
    ctxs := x.ctxs.map Ctx.warm, syncs := [], paths := x.paths.map fun p => { p with grid := none } }) s
  (List.finRange 64).foldl (fun s p => resetPath p s) s

/-- Open items end with reason RESTART at the last delivered stamp (R264); the matcher begins anew, so a match that goes on opens an item with
PARTIAL_START, and the next block carries START (R250). -/
def warmService (s : State) (v : Fin 96) : State :=
  let s := endItem v s.audio.svcs[v].line.next 6 s
  modSvc v (fun y => { y with bands := [], words := [], cands := [], startFlag := true }) s

def warmAudio (s : State) : State := (List.finRange 96).foldl warmService s

/-- An input at a warm start (R294): what it does not write until it delivers again is settled by a gap record for each channel then. -/
def Ain.warm (a : Ain) : Ain := { a with changeFrom := none, fresh := [], startFlag := true }

/-- A port at a warm start: its frames run on, and its block grid is placed again (R270, R294). -/
def Port.warm (t : DT) (x : Port) : Port :=
  if x.grid.isSome then { x with grid := some (gridStart (portRate x) t), base := x.frames } else x

/-- The ports at a warm start (R294): the outputs are muted until their sources deliver. -/
def warmPorts (s : State) : State :=
  let t := now s
  modPortSt (fun o => { o with
    staged := [], ports := o.ports.map (Port.warm t), ains := o.ains.map Ain.warm, routes := o.routes.map fun r => { r with muted := true } }) s

/-- Running firings are abandoned (R460): no calibration runs on a tuner any longer but that of a channel change. -/
def warmFirings (s : State) : State :=
  modRf (fun r => { r with tuners := r.tuners.map fun t => { t with calibrating := t.calibrating && t.change.isSome } }) (stopFirings s)

/-- The converters are calibrated again where the die is more than 10 degrees from their last calibration (R88, R494). -/
def warmCalibration (dieTemp : Int) (s : State) : State :=
  let s := modPower (fun p => { p with tHot := dieTemp }) s
  if 100 < (dieTemp - s.rf.adcTemp).natAbs then
    modMnt (fun m => { m with firings := m.firings.map fun f => if f.activity = 3 then { f with lastTemp := some dieTemp } else f })
      (modRf (fun r => { r with adcTemp := dieTemp }) (calibrateInputs s))
  else s

/-- What a warm start and a wake do in the blocks (R494, R496). -/
def warmBlocks (dieTemp : Int) (s : State) : State :=
  let s := warmCalibration dieTemp (clearMessages (warmRf (warmTime s)))
  warmFirings (warmPorts (warmAudio (warmContexts s)))

/-! ### Warm start: what is returned (R35, R323, R407) -/

/-- A decryption that is cut off zero-fills its output area (R407). -/
def zeroCut (s : State) (m : GlazeMsg) : State :=
  match findHeld m.cmd s with
  | some h =>
    let a := Entry.args h.entry
    if le a 0 1 = 1 ∨ le a 0 1 = 3 then writeArea (le a 40 8) (zeros (le a 48 4)) s else s
  | none => s

/-- Every command that is held is cut off, and so is one that the MPORT has received and the device not taken (R35, R355): they are returned
when the warm start ends; the DEV_RESTART that ordered it completes with OK (R323). -/
def cutHeld (order : Option Nat) (s : State) : State :=
  let s := (allMessages s).foldl zeroCut s
  let mine (h : Held) : Returning :=
    { id := h.id, src := h.src, tag := h.tag, fence := h.entry.flags.getLsbD 1, ok := order == some h.id }
  let got (b : List Byte) : Returning := { id := s.host.nextId, src := .mport, tag := BitVec.ofNat 16 (le b 2 2), fence := false, ok := false }
  let l := (openHeld s).map mine ++ s.mp.received.map got
  modMp (fun m => { m with received := [] }) (modHost (fun h => { h with
    held := h.held.filter (·.deferred), returning := l.filter (·.ok) ++ l.filter (!·.ok) }) s)

/-- The completion of a command that is returned (R35, R323): its result bytes are zero. -/
def Returning.entry (r : Returning) (t : DT) : CqEntry :=
  { tag := r.tag, status := statusCode (if r.ok then .ok else .returnedRestart), dt := t, result := zeros 16, event := false }

/-- Writes what waits for a queue, as far as slots are free. The fuel bounds the entries. -/
def drainQueue (q : Fin 32) : Nat → State → State
  | 0, s => s
  | n + 1, s => if cqWritable q s && !s.host.pairs[q].wait.isEmpty then drainQueue q n (cqDrainOne q s) else s

/-- The cut-off commands of a queue are returned ahead of every other completion, in submission order (R323). -/
def returnQueue (l : List Returning) (s : State) (q : Fin 32) : State :=
  let mine := l.filter (·.src == .queue q)
  if mine.isEmpty then s
  else
    let s := modPairq q (fun p => { p with
      wait := mine.map (·.entry (now s)) ++ p.wait,
      unwritten := mine.map (fun r => { id := r.id, fence := r.fence, area := none }) ++ p.unwritten }) s
    drainQueue q mine.length s

/-- Those of the MPORT enter its result store ahead of every other (R355). -/
def returnMport (l : List Returning) (s : State) : State :=
  let mine := l.filter (·.src == .mport)
  if mine.isEmpty then s
  else notifyRise s (settle 0 mine.length (modMp (fun m => { m with
    results := mine.map (fun r => { entry := r.entry (now s), area := [] }) ++ m.results }) s))

/-- Every cut-off command is returned, then every buffer (R35, R323). -/
def returnHeld (s : State) : State :=
  let l := s.host.returning
  let s := (List.finRange 32).foldl (returnQueue l) (modHost (fun h => { h with returning := [] }) s)
  returnBuffers .returnedRestart (returnMport l s)

/-- The contexts whose CTX_OPEN has not completed (R185). -/
def opening (s : State) : List (Fin 64) :=
  (s.host.held.filter fun h => h.op == 0x0400 && h.begun && !h.deferred && h.aux != sentAway).filterMap fun h => idx 64 h.entry.target.toNat

/-- A warm start from RUNNING (R494). With `refetch` the retained image fails its digest and is fetched again from the flash (R431). Up to
the restart of the firmware it is one step; STATE reads WARM_START until the units held are returned (log entry 12). `order` is the
DEV_RESTART that ordered it. -/
def warmStart (dieTemp : Int) (refetch : Bool) (order : Option Held) (s : State) : State :=
  if refetch && (qspiImage s).isNone then failRunning 1 s
  else
    let cs := opening s
    let s := cutHeld (order.map (·.id)) s
    let s := cs.foldl (fun s c => closeCtx c none .returnedRestart s) s
    modPower (fun p => { p with st := .warmStart, entering := false, wakeAfter := false }) (warmBlocks dieTemp s)

/-- A warm start that is under way ends (R494): the units held are returned, RUNNING is reached, and what was staged goes out. -/
def endWarm (s : State) : State :=
  if s.power.st == .warmStart && !s.power.waking then
    let s := reachRunning (returnHeld s)
    (List.finRange 4).foldl (fun s c => resumeClass c s) s
  else s

/-- Whether a warm-start order acts: in RUNNING only (R498). -/
def warmIfRunning (dieTemp : Int) (s : State) : State :=
  if isRunning s && !s.power.entering then warmStart dieTemp false none s else s

/-- A restart that a fault of the processors or their memory causes: within 60 s of RUNNING the start has failed (R19, R431, R489). -/
def faultRestart (refetch : Bool) (s : State) : State :=
  if !isRunning s then s
  else if dtSince s.power.runningSince (now s) < 60 * 2 ^ 32 then failRunning 4 s
  else warmStart s.power.tHot refetch none s

/-! ### Restart orders (R298, R488, R498) -/

/-- Whether a write to the device state register orders a start: the key and RESTART (R298). -/
def restartOrder (value : BitVec 32) (code : Nat) : Bool :=
  value.toNat / 65536 == 0x5A3C && value.toNat / 256 % 4 == code

/-- Whether the device state register can be written: the link is up (R507). -/
def regOpen (s : State) : Bool := s.host.linkUp && s.power.porstN && s.power.st != .dormant

/-- A warm start ordered through RESTART has no completion (R323); the die temperature is the last sampled. -/
def execRestartWarmWrite (t : DT) (value : BitVec 32) (s : State) : Host.Outcome State Fault Refusal :=
  let s := moment t s
  .next (if regOpen s && restartOrder value 1 then warmIfRunning s.power.tHot s else s)

/-- Whether a cold-start order acts; only PORST_N leaves HALTED (R490). -/
def coldAllowed (s : State) : Bool := s.power.porstN && s.power.st != .halted && s.power.st != .dormant

def execRestartColdWrite (t : DT) (value : BitVec 32) (s : State) : Host.Outcome State Fault Refusal :=
  let s := moment t s
  .next (if regOpen s && coldAllowed s && restartOrder value 2 then orderedCold s else s)

/-- WARM_N has been low for 1 µs (R488); the pin shows its level in every state. -/
def execWarmNFall (t : DT) (dieTemp : Int) (s : State) : Host.Outcome State Fault Refusal :=
  let s := modPower (fun p => { p with warmN := false }) (moment t s)
  .next (warmIfRunning dieTemp s)

/-- A Setter misses its watchdog (R19, R489); either Setter has the same outcome. -/
def execSetterWatchdogExpiry (t : DT) (_setter1 : Bool) (s : State) : Host.Outcome State Fault Refusal :=
  .next (faultRestart false (moment t s))

/-! ### PORST_N (R488, R493, R498) -/

/-- The Saggar boots with PORST_N, if VDD_SG is there (R391, R393). -/
def bootSaggar (vddSg : Bool) : State → State :=
  modSg fun g => if vddSg then { sgDark g with st := .boot } else sgDark g

/-- PORST_N rises: the straps are sampled, the count of failed starts is cleared, and a cold start begins (R489, R493). -/
def execPorstNRise (t : DT) (b : Boot) (s : State) : Host.Outcome State Fault Refusal :=
  let s := moment t s
  .next (if s.power.porstN then s
    else
      let s := modPower (fun _ => { PowerSt.reset with
        porstN := true, boot := b, injEn := b.injEn, sealSw := b.sealSw, warmN := b.warmN, dormantReq := b.dormantReq }) s
      coldStart 3 false false none (bootSaggar b.vddSg s))

/-- PORST_N falls (R498): the main die stops. The Saggar keeps running while it has power (R368, R484); its jobs have lost their paths. -/
def execPorstNFall (t : DT) (s : State) : Host.Outcome State Fault Refusal :=
  let s := moment t s
  .next (if s.power.porstN then
      modPower (fun _ => PowerSt.reset) (modTime (fun _ => TimeSt.reset) (modMp (fun _ => Mport.reset)
        (modHost (fun h => { h with epoch := 0 }) (clearBlocks false s))))
    else s)

/-! ### Host images (R491, R492) -/

/-- IMG_GO (R492): an invalid length ends at once. -/
def execImgGo (t : DT) (s : State) : Host.Outcome State Fault Refusal :=
  let s := moment t s
  let n := s.power.imgLen.toNat
  .next (if !bootOpen s || s.power.imgBusy then s
    else if 4096 ≤ n ∧ n ≤ 16777216 then modPower (fun p => { p with imgBusy := true, imgResult := 0 }) s
    else modPower (fun p => { p with imgResult := 4 }) s)

/-- The fetch and verification of a host image end (R490 to R492): a good image goes on with the cold start that waits for it, or begins
one from RECOVERY; one that fails verification in a cold start has failed the start. -/
def execImageFetchDone (t : DT) (result : Fin 6) (secver : Nat) (s : State) : Host.Outcome State Fault Refusal :=
  let s := moment t s
  .next (if !s.power.imgBusy then s
    else
      let r := if result.val = 1 ∧ secver < s.ident.minSecver.toNat then 3 else result.val
      let s := modPower (fun p => { p with imgBusy := false, imgResult := r }) s
      match s.power.st, r with
      | .recovery, 1 => coldStart 3 true true (some secver) s
      | .coldStart, 1 => coldTail orderedCold false secver s
      | .coldStart, 2 | .coldStart, 3 => failRunning 1 s
      | _, _ => s)

/-! ### Limits and trips (R489, R490) -/

/-- A start has not reached RUNNING in its time: a cold start that waits for an image 3 s after it began, or a wake 1 s after (R489). -/
def execStartTimeout (t : DT) (s : State) : Host.Outcome State Fault Refusal :=
  let s := moment t s
  let late (ms : Nat) : Bool := decide (msDt ms ≤ dtSince s.power.startAt (now s))
  .next (if (s.power.st == .coldStart && s.power.waitImage && late 3000) || (s.power.waking && late 1000) then failRunning 6 s else s)

/-- 60 s of RUNNING without a break clear the count (R489). -/
def execRunningFailCountClear (t : DT) (s : State) : Host.Outcome State Fault Refusal :=
  let s := moment t s
  .next (if isRunning s && decide (60 * 2 ^ 32 ≤ dtSince s.power.runningSince (now s)) then modPower (fun p => { p with fails := 0 }) s else s)

/-- The junction has been above +125 °C for 10 ms (R490, R498). -/
def execThermalTrip (t : DT) (s : State) : Host.Outcome State Fault Refusal :=
  let s := moment t s
  .next (if s.power.porstN && s.power.st != .halted then enterHalted s else s)

/-! ### The wake from Dormant (R78, R156, R185, R294, R360, R394, R496) -/

/-- A wake event: CORE_EN rises and the warm-start steps wait for VDD_CORE. One that comes during the entry is kept to its end (R498). -/
def wake (s : State) : State :=
  if s.power.st = .dormant then modPower (fun p => { p with st := .warmStart, waking := true, startAt := now s, coreEn := true }) s
  else if s.power.entering then modPower (fun p => { p with wakeAfter := true }) s
  else s

/-- The entry to Dormant that is under way ends (R325, R495): commands still running end there. A wake event that came since follows (R498). -/
def endDormant (s : State) : State :=
  if s.power.entering then
    let after := s.power.wakeAfter
    let s := enterDormant s
    if after then wake s else s
  else s

/-- DORMANT_REQ falls (R495, R496): a new entry may follow its next rise. -/
def execDormantReqFall (t : DT) (s : State) : Host.Outcome State Fault Refusal :=
  .next (wake (modPower (fun p => { p with dormantReq := false, dormantArmed := true }) (moment t s)))

/-- The PCIe reset input rises (R496). -/
def execPcieResetRise (t : DT) (s : State) : Host.Outcome State Fault Refusal := .next (wake (moment t s))

/-- WAKE is received on the MPORT (R360). -/
def execMportWake (t : DT) (s : State) : Host.Outcome State Fault Refusal := .next (wake (moment t s))

/-- SPLL-A is declared and DT moves to it; SPLL-B runs and is declared in a step of its own (R78). -/
def wakeClocks (s : State) : State :=
  let s := settleLock 1 (settleLock 0 s)
  let s := modTime (fun u =>
    let m := (fget u.cfg 0x0109).toNat
    let i := (fget u.cfg 0x010A).toNat
    let b : Pll := if fget u.cfg 0x010B = 1 then { Pll.stopped m with running := true, icp := i } else Pll.stopped m
    { u with plls := #v[Pll.locked m i, b], activeB := false, spareAligned := false, backup := false }) s
  if modeNow s = 0 then s
  else
    let s := if s.time.refinQual then refinReturns s else s
    if s.time.ppsQual then ppsReturns s else s

/-- Each tuner that was in RX makes a channel change with recall (R129). -/
def wakeTuners (s : State) : State :=
  modPower (fun p => { p with heldTuners := [] })
    (s.power.heldTuners.foldl (fun s k => match idx 4 k with
      | some n => if s.rf.tuners[n].st = .sleep then beginChange n none none s else s
      | none => s) s)

/-- Running outputs start on a new grid (R294); the inputs relock in steps of their own. -/
def wakePorts (s : State) : State :=
  setDividers <| (List.finRange 14).foldl (fun s p => if portRuns s.port.ports[p] && !isAin p.val then startPort p s else s) s

/-- VDD_CORE is in range (R496): steps 3 to 7 of a warm start, with what Dormant had stopped. -/
def execVddCoreInRange (t : DT) (dieTemp : Int) (s : State) : Host.Outcome State Fault Refusal :=
  let s := moment t s
  .next (if !s.power.waking then s
    else if !s.power.boot.spllLocks then failRunning 5 s
    else
      let s := warmBlocks dieTemp (wakeClocks s)
      let s := resumeAll (wakePorts (wakeTuners s))
      let s := modMnt (fun m => { m with paused := s.power.pfail }) (modSg (fun g => { g with halted := false }) s)
      reachRunning (tagAll s))

/-! ### The power-fail warning (R443, R487) -/

/-- What becomes of the stores queued at PFAIL_N: the one being written is completed; of the rest a command's ends with it, the others
wait (R443, R487). -/
def pauseStores (s : State) : State :=
  match s.mnt.stores with
  | [] => s
  | x :: rest =>
    let mine := rest.filter fun y => y.1 == x.1
    let other := rest.filter fun y => y.1 != x.1
    let s := modMnt (fun m => { m with stores := x :: mine, stalled := m.stalled ++ other.filter fun y => y.2.2.isNone }) s
    rejectAll (other.filterMap (·.2.2)) .errState s

/-- PFAIL_N falls (R487, R506). -/
def execPfailNFall (t : DT) (s : State) : Host.Outcome State Fault Refusal :=
  let s := moment t s
  .next (if !s.power.porstN then s
    else
      let s := modPower (fun p => { p with pfail := true, latched := p.latched ||| BitVec.twoPow 5 2 }) s
      pauseStores (modMnt (fun m => { m with paused := true }) s))

/-- PFAIL_N rises without a reset (R487): the schedule and the stores go on. -/
def execPfailNRise (t : DT) (s : State) : Host.Outcome State Fault Refusal :=
  let s := moment t s
  .next (if !s.power.pfail then s
    else
      modMnt (fun m => { m with paused := s.power.st == .dormant, stores := m.stores ++ m.stalled, stalled := [] })
        (modPower (fun p => { p with pfail := false }) s))

/-! ### AVS (R485) -/

/-- The code of a target voltage. -/
def avsCode (mv : Nat) : Nat := min 30 ((mv - 700) / 5)

/-- The code moves one step towards its target, at most one each 0.5 ms (R485); downwards only while the monitors confirm the margin
(R448). -/
def execAvsCodeStep (t : DT) (s : State) : Host.Outcome State Fault Refusal :=
  let s := moment t s
  let n := avsCode s.power.avsTarget
  let confirmed := s.mnt.cone.margins.all fun (m : Int) => decide (60 ≤ m)
  .next (if !isRunning s || s.power.avsStopped || decide (dtSince s.power.vidAt (now s) < usDt 500) then s
    else if s.power.vid < n then modPower (fun p => { p with vid := p.vid + 1, vidAt := now s }) s
    else if n < s.power.vid && confirmed then modPower (fun p => { p with vid := p.vid - 1, vidAt := now s }) s
    else s)

/-- VDD_CORE has not come within 10 mV of the code 5 ms after a change: the code stops, and plans report the measured voltage. -/
def execAvsSettleTimeout (t : DT) (measuredMv : Nat) (s : State) : Host.Outcome State Fault Refusal :=
  let s := moment t s
  let coded : Int := 700 + 5 * s.power.vid
  .next (if !isRunning s || decide (dtSince s.power.vidAt (now s) < msDt 5) || decide (((measuredMv : Int) - coded).natAbs ≤ 10) then s
    else
      modMnt (fun m => { m with cone := { m.cone with planMv := measuredMv, planEndurance := measuredMv } })
        (modPower (fun p => { p with avsStopped := true, vcoreMv := measuredMv, avsTarget := measuredMv }) s))

/-! ### DRAM errors (R37, R431) -/

/-- A DRAM error is corrected, or handled by the rule of its area. One in firmware memory is not covered and restarts the device. -/
def execDramEccError (t : DT) (area : DramArea) (multi : Bool) (s : State) : Host.Outcome State Fault Refusal :=
  let s := moment t s
  .next (if !isRunning s then s
    else if !multi then faultSherd 1 0 (now s) (now s) (modMem (fun m => { m with corrected := m.corrected + 1 }) s)
    else
      let s := modMem (fun m => { m with multibit := m.multibit + 1 }) s
      match area with
      | .firmware => faultRestart true s
      | .demodulator | .audioOutput _ | .ain .. | .staging .. | .operationalLog | .legalMirror | .library .. | .timeshift .. | .capture .. =>
        faultSherd 2 0 (now s) (now s) (dramOutcome area s))

end Sys2Proof.Machine
end

