-- ==== Sys2Proof/Machine/Device.lean ====
section
/-!
DEFINITION. Device.lean: the device commands and the diagnostic counters (R23, R24, R31, R85, R171, R183, R313, R323, R324, R334, R335,
R343, R345).
-/
namespace Sys2Proof.Machine

/-! ### DEV_IDENTIFY (R335) -/

def specDevIdentify : Spec := { outCmd 0x0100 0 tZero [] with admin := fun _ => true, secondary := fun _ => true }

/-- The area of DEV_IDENTIFY. -/
def identBytes (s : State) : List Byte :=
  let i := s.ident
  pack 0 20 [(0, 1, bit i.nfb), (1, 1, 0xA1), (2, 1, i.lifecycle.toNat), (3, 1, s.pair.role), (4, 8, i.serial.toNat), (12, 4, i.rom.toNat),
    (16, 4, i.firmware.toNat)] ++ fit 32 i.digest ++ zeros 12

def doDevIdentify (h : Held) (s : State) : State := finishOut h .ok (identBytes s) none s

def execDevIdentify (e : Entry) (s : State) : Host.Outcome State Fault Refusal :=
  .next (hostCmd (.devIdentify e) specDevIdentify doDevIdentify e s)

/-! ### DEV_SET_PROFILE (R21, R23, R24, R183) -/

def specDevSetProfile : Spec :=
  { plain 0x0101 1 tZero [(0, 1)] with admin := fun _ => true, range := fun _ _ a => oneOf a 0 [0, 1, 2, 3] }

/-- The capacity of a Wheel in a profile (R167). -/
def profileCap (profile : Nat) : Nat := if profile = 2 then 6000 else 10000

/-- Whether what is open exceeds a limit of a profile, or stands on what it keeps for the Saggar (R21, R23). -/
def exceeds (new : Nat) (s : State) : Bool :=
  let l := limits new
  decide (l.1 < openCount (fun _ => true) s) || decide (l.2.1 < openCount (· == .dab) s) || decide (l.2.2.1 < openCount isDrm s)
    || decide (l.2.2.2 < svcCount s) || (new == 1 && !(pathsOn 7 s).isEmpty)

/-- The Wheels that the contexts of Wheel `w` may move to, with their room: one that was re-clocked, below `w`, has the capacity of the new
profile (R24). -/
def moveCaps (old new : Nat) (w : Fin 16) (s : State) : List (Fin 16 × Nat) :=
  let l := placed s
  ((List.finRange 16).filter fun v =>
      v != w && !s.cx.wheels[v].failed && !s.cx.wheels[v].testing && !(new == 1 && decide (14 ≤ v.val))).map fun v =>
    (v, profileCap (if v < w then new else old) - (loadOf l v + jobLoad v s))

/-- Moves a context off a Wheel, if another has room. -/
def moveOff (old new : Nat) (w : Fin 16) (o : Option State) (c : Fin 64) : Option State :=
  match o with
  | some s => match roomiest (moveCaps old new w s) with
    | some (v, room) => if ctxCost c s ≤ room then some (migrate c v 0 s) else none
    | none => none
  | none => none

/-- Moves every context off a Wheel. -/
def emptyWheel (old new : Nat) (o : Option State) (w : Fin 16) : Option State :=
  match o with
  | some s => (onWheel w s).foldl (moveOff old new w) (some s)
  | none => none

/-- The Wheels that a profile change empties: all when the clock changes, else those that PRECISION keeps (R21, R24). -/
def emptied (old new : Nat) : List (Fin 16) :=
  if (old == 2) != (new == 2) then List.finRange 16 else if new = 1 then [14, 15] else []

/-- The profile in force. A change of the Wheel clock applies that profile's AVS target from the current plan (R21, R448). -/
def setProfile (old new : Nat) (s : State) : State :=
  let s := modCx (fun c => { c with profile := new }) s
  if (old == 2) != (new == 2) && !s.power.avsStopped then modPower (fun p => { p with avsTarget := planMvNow s }) s else s

/-- DEV_SET_PROFILE begins: its moves are one step (log entry 45). -/
def doDevSetProfile (h : Held) (s : State) : State :=
  let new := le (Entry.args h.entry) 0 1
  let old := s.cx.profile
  if new = 3 || inShield s then reject h .errState s
  else if exceeds new s then reject h .noResource s
  else match (emptied old new).foldl (emptyWheel old new) (some s) with
    | some t =>
      let t := setProfile old new t
      if old = new || reserveKept (placed t) t then finish h .ok [(16, 1, old), (24, 8, dtInt (now t))] t
      else reject h .noResource s
    | none => reject h .noResource s

def execDevSetProfile (e : Entry) (s : State) : Host.Outcome State Fault Refusal :=
  .next (hostCmd (.devSetProfile e) specDevSetProfile doDevSetProfile e s)

/-! ### DEV_RESTART (R323, R324, R335) -/

def specDevRestart : Spec :=
  { plain 0x0102 1 tZero [(0, 1)] with admin := fun _ => true, range := fun _ _ a => oneOf a 0 [0, 1] }

/-- DEV_RESTART begins: a warm start, with whose end it completes first (R323), or a cold start without a completion. -/
def doDevRestart (h : Held) (s : State) : State :=
  if s.power.st = .recovery then reject h .errState s
  else if le (Entry.args h.entry) 0 1 = 0 then warmStart s.power.tHot false (some h) s
  else orderedCold s

def execDevRestart (e : Entry) (s : State) : Host.Outcome State Fault Refusal :=
  .next (hostCmd (.devRestart e) specDevRestart doDevRestart e s)

/-! ### DEV_GET_HEALTH (R85, R103, R171, R334) -/

def specDevGetHealth : Spec := { outCmd 0x0103 0 tZero [] with admin := fun _ => true, secondary := fun _ => true }

/-- A gain change as a history entry (log entry 40). -/
def gainBytes (g : GainChange) : List Byte := pack 0 16 [(0, 8, g.dt.toNat), (8, 2, g.old), (10, 2, g.new), (12, 1, g.cause)]

/-- The 64 entries of a gain history. -/
def historyFigure (scope : Nat) (l : List GainChange) : List Byte := figure 0x2000 scope (fit 1024 (l.flatMap gainBytes))

/-- Status of every Wheel, and whether the rule of R168 holds. -/
def wheelFigure (s : State) : List Byte :=
  figure 0x2001 0 (s.cx.wheels.toList.map (fun w => if w.failed || w.testing then 1 else 0) ++ [if reserveKept (placed s) s then 1 else 0])

/-- The figures of a tuner: its state, retries and last outcome; its verified image rejection. -/
def tunerFigures (n : Fin 4) (s : State) : List Byte :=
  let t := s.rf.tuners[n]
  scalars 0x2002 n.val [tstateCode t.st, t.retries, t.lastRetry] ++ scalars 0x2003 n.val [t.verifiedIr]

/-- The figures of DEV_GET_HEALTH, with the trained PCIe generation and width (R295). R449 has the part report that it is
derated and R334 gives no figure for it: the last one here (log entry 40). -/
def healthFigures (s : State) : List Byte :=
  (List.finRange 2).flatMap (fun i => historyFigure i.val s.rf.wb[i].history)
    ++ (List.finRange 4).flatMap (fun n => historyFigure (2 + n.val) s.rf.tuners[n].history)
    ++ wheelFigure s ++ (List.finRange 4).flatMap (fun n => tunerFigures n s)
    ++ scalars 0x2004 0 [s.rf.slip.lastDiff, bit s.rf.slip.alarm]
    ++ scalars 0x2005 0 [s.host.speed, s.host.width]
    ++ scalars 0x2006 0 [s.power.tHot, s.power.tAo] ++ scalars 0x2007 0 [bit s.mnt.cone.derated]

def doDevGetHealth (h : Held) (s : State) : State := finishOut h .ok (healthFigures s) none s

def execDevGetHealth (e : Entry) (s : State) : Host.Outcome State Fault Refusal :=
  .next (hostCmd (.devGetHealth e) specDevGetHealth doDevGetHealth e s)

/-! ### DEV_SET_EVENT_MASK (R313, R345) -/

/-- MASK is at entry bytes 24 to 31. A bit of an event that cannot be masked is out of range; bits 20 to 63 are reserved. -/
def specDevSetEventMask : Spec :=
  { plain 0x0104 16 tZero [(8, 8)] with
    admin := fun _ => true
    bits := [(10, 0x0F), (11, 0), (12, 0), (13, 0), (14, 0), (15, 0)]
    range := fun _ _ a => [8, 9, 10].flatMap fun i =>
      require ((le a i 1 &&& [0x20, 0x81, 0x06].getD (i - 8) 0) == 0) i }

/-- DEV_SET_EVENT_MASK begins. -/
def doDevSetEventMask (h : Held) (s : State) : State :=
  let old := s.host.evMask
  finish h .ok [(24, 8, old.toNat)] (modHost (fun x => { x with evMask := BitVec.ofNat 64 (le (Entry.args h.entry) 8 8) }) s)

def execDevSetEventMask (e : Entry) (s : State) : Host.Outcome State Fault Refusal :=
  .next (hostCmd (.devSetEventMask e) specDevSetEventMask doDevSetEventMask e s)

/-! ### DEV_LEDGER_READ (R31, R32, R335) -/

def specDevLedgerRead : Spec :=
  { outCmd 0x0105 13 tZero [(12, 1)] with
    admin := fun _ => true
    secondary := fun _ => true
    range := fun _ _ a => oneOf a 12 [0, 1] }

/-- The three counts of a row with its reserved word. -/
def rowBytes (posted returned held : Nat) : List Byte := pack 0 32 [(0, 8, posted), (8, 8, returned), (16, 8, held)]

/-- The class-6 counts of a path. -/
def pathRow (p : Path) : List Byte := rowBytes (p.delivered + p.gapped + p.dueOpen) (p.delivered + p.gapped) p.dueOpen

/-- DEV_LEDGER_READ begins: it latches the snapshot it returns. -/
def doDevLedgerRead (h : Held) (s : State) : State :=
  let s := latchSnapshot s
  let x := s.host.snap
  let area := x.rows.toList.flatMap fun r => rowBytes r.posted.toNat r.returned.toNat r.held.toNat
  let paths := if le (Entry.args h.entry) 12 1 = 1 then s.cx.paths.toList.flatMap pathRow else []
  finishOut h .ok (area ++ paths) (some [(16, 2, x.id.toNat), (20, 4, s.host.epoch.toNat), (24, 8, dtInt x.dt)]) s

def execDevLedgerRead (e : Entry) (s : State) : Host.Outcome State Fault Refusal :=
  .next (hostCmd (.devLedgerRead e) specDevLedgerRead doDevLedgerRead e s)

/-! ### DIAG_READ_COUNTERS (R85, R334, R343) -/

def specDiagReadCounters : Spec :=
  { outCmd 0x0F01 13 tZero [(12, 1)] with
    secondary := fun _ => true
    range := fun _ _ a => oneOf a 12 [0, 1] }

/-- 64-bit counts of a figure. -/
def counts (id scope : Nat) (l : List Nat) : List Byte := figure id scope (l.flatMap fun (n : Nat) => leBytes 8 n)

/-- The figures of DIAG_READ_COUNTERS. -/
def counterFigures (s : State) : List Byte :=
  (List.finRange 2).flatMap (fun i => counts 0x3000 i.val [s.rf.wb[i].overloads] ++ counts 0x3001 i.val [s.rf.wb[i].clipped])
    ++ (List.finRange 4).flatMap (fun n =>
      counts 0x3000 (2 + n.val) [s.rf.tuners[n].overloads] ++ counts 0x3001 (2 + n.val) [s.rf.tuners[n].clipped])
    ++ counts 0x3002 0 [s.mem.corrected] ++ counts 0x3003 0 [s.mem.multibit] ++ counts 0x3004 0 [s.host.bar2Discarded]
    ++ (List.finRange 4).flatMap (fun i => counts 0x3005 (8 + i.val) [s.port.ains[i].parity, s.port.ains[i].biphase])
    ++ (List.finRange 4).flatMap (fun k => counts 0x3006 k.val [s.pair.crc[k]])

/-- READ_CLEAR: every counter of the table is zero. -/
def clearCounters (s : State) : State :=
  let s := modRf (fun r => { r with
    wb := r.wb.map fun x => { x with overloads := 0, clipped := 0 },
    tuners := r.tuners.map fun t => { t with overloads := 0, clipped := 0 } }) s
  let s := modMem (fun m => { m with corrected := 0, multibit := 0 }) (modHost (fun x => { x with bar2Discarded := 0 }) s)
  modPair (fun p => { p with crc := Vector.replicate 4 0 })
    (modPortSt (fun o => { o with ains := o.ains.map fun a => { a with parity := 0, biphase := 0 } }) s)

/-- DIAG_READ_COUNTERS begins. -/
def doDiagReadCounters (h : Held) (s : State) : State :=
  let l := counterFigures s
  finishOut h .ok l none (if le (Entry.args h.entry) 12 1 = 1 then clearCounters s else s)

def execDiagReadCounters (e : Entry) (s : State) : Host.Outcome State Fault Refusal :=
  .next (hostCmd (.diagReadCounters e) specDiagReadCounters doDiagReadCounters e s)

/-- What the block does on an empty queue with no held command that can begin: a warm start, or an entry to Dormant, that is under way ends
(log entry 12); the DT clock ticks once (R45; log entry 2), and what the secondary reports of a CTX_SYNC, and its units, fall due (log entry
64). -/
def idle (s : State) : State := peerUnits (peerSyncs (endWarm (endDormant (tick s))))

end Sys2Proof.Machine
end

