-- ==== Sys2Proof/Machine/Dispatch.lean ====
section
/-!
DEFINITION. Dispatch.lean: one arm for each command, a direct call of its meaning.
-/
namespace Sys2Proof.Machine

/-- The effect of a command on everything but the queue. -/
def exec (i : Instr) (s : State) : Host.Outcome State Fault Refusal :=
  match i with
  | .devIdentify e => Sys2Proof.Machine.execDevIdentify e s
  | .devSetProfile e => Sys2Proof.Machine.execDevSetProfile e s
  | .devRestart e => Sys2Proof.Machine.execDevRestart e s
  | .devGetHealth e => Sys2Proof.Machine.execDevGetHealth e s
  | .devSetEventMask e => Sys2Proof.Machine.execDevSetEventMask e s
  | .devLedgerRead e => Sys2Proof.Machine.execDevLedgerRead e s
  | .timeSet e => Sys2Proof.Machine.execTimeSet e s
  | .timeGet e => Sys2Proof.Machine.execTimeGet e s
  | .timeRefConfig e => Sys2Proof.Machine.execTimeRefConfig e s
  | .timePllConfig e => Sys2Proof.Machine.execTimePllConfig e s
  | .timePhaseStep e => Sys2Proof.Machine.execTimePhaseStep e s
  | .timeDisciplineStatus e => Sys2Proof.Machine.execTimeDisciplineStatus e s
  | .rfWbConfig e => Sys2Proof.Machine.execRfWbConfig e s
  | .rfCarverSet e => Sys2Proof.Machine.execRfCarverSet e s
  | .rfPtState e => Sys2Proof.Machine.execRfPtState e s
  | .rfPtTune e => Sys2Proof.Machine.execRfPtTune e s
  | .rfPtBandtableLoad e => Sys2Proof.Machine.execRfPtBandtableLoad e s
  | .rfPtRecallRead e => Sys2Proof.Machine.execRfPtRecallRead e s
  | .rfProbe e => Sys2Proof.Machine.execRfProbe e s
  | .rfSlipConfig e => Sys2Proof.Machine.execRfSlipConfig e s
  | .ctxOpen e => Sys2Proof.Machine.execCtxOpen e s
  | .ctxRetune e => Sys2Proof.Machine.execCtxRetune e s
  | .ctxClose e => Sys2Proof.Machine.execCtxClose e s
  | .ctxGetQuality e => Sys2Proof.Machine.execCtxGetQuality e s
  | .ctxSetThresholds e => Sys2Proof.Machine.execCtxSetThresholds e s
  | .ctxStage e => Sys2Proof.Machine.execCtxStage e s
  | .ctxCommit e => Sys2Proof.Machine.execCtxCommit e s
  | .ctxCoefLoad e => Sys2Proof.Machine.execCtxCoefLoad e s
  | .ctxCoefSwap e => Sys2Proof.Machine.execCtxCoefSwap e s
  | .ctxSync e => Sys2Proof.Machine.execCtxSync e s
  | .ctxDiversity e => Sys2Proof.Machine.execCtxDiversity e s
  | .dataSubscribe e => Sys2Proof.Machine.execDataSubscribe e s
  | .dataUnsubscribe e => Sys2Proof.Machine.execDataUnsubscribe e s
  | .afPolicy e => Sys2Proof.Machine.execAfPolicy e s
  | .afListSet e => Sys2Proof.Machine.execAfListSet e s
  | .alertConfig e => Sys2Proof.Machine.execAlertConfig e s
  | .audServiceStart e => Sys2Proof.Machine.execAudServiceStart e s
  | .audServiceStop e => Sys2Proof.Machine.execAudServiceStop e s
  | .audSignatureConfig e => Sys2Proof.Machine.execAudSignatureConfig e s
  | .audLoudnessConfig e => Sys2Proof.Machine.execAudLoudnessConfig e s
  | .portConfig e => Sys2Proof.Machine.execPortConfig e s
  | .portRoute e => Sys2Proof.Machine.execPortRoute e s
  | .portSlotmask e => Sys2Proof.Machine.execPortSlotmask e s
  | .portChstatusSet e => Sys2Proof.Machine.execPortChstatusSet e s
  | .portInputStatus e => Sys2Proof.Machine.execPortInputStatus e s
  | .memCaptureArm e => Sys2Proof.Machine.execMemCaptureArm e s
  | .memCaptureFreeze e => Sys2Proof.Machine.execMemCaptureFreeze e s
  | .memCaptureRead e => Sys2Proof.Machine.execMemCaptureRead e s
  | .memTimeshiftConfig e => Sys2Proof.Machine.execMemTimeshiftConfig e s
  | .bufPost e => Sys2Proof.Machine.execBufPost e s
  | .cryKeyLoad e => Sys2Proof.Machine.execCryKeyLoad e s
  | .cryKeyDerive e => Sys2Proof.Machine.execCryKeyDerive e s
  | .cryKeyRetire e => Sys2Proof.Machine.execCryKeyRetire e s
  | .cryProcess e input aad => Sys2Proof.Machine.execCryProcess e input aad s
  | .cryCounterRead e => Sys2Proof.Machine.execCryCounterRead e s
  | .cryCounterIncrement e => Sys2Proof.Machine.execCryCounterIncrement e s
  | .logConfig e => Sys2Proof.Machine.execLogConfig e s
  | .logRead e => Sys2Proof.Machine.execLogRead e s
  | .logMark e => Sys2Proof.Machine.execLogMark e s
  | .mntCalibrate e => Sys2Proof.Machine.execMntCalibrate e s
  | .mntScheduleSet e => Sys2Proof.Machine.execMntScheduleSet e s
  | .mntScheduleStatus e => Sys2Proof.Machine.execMntScheduleStatus e s
  | .mntConeRead e => Sys2Proof.Machine.execMntConeRead e s
  | .mntMarginPlan e => Sys2Proof.Machine.execMntMarginPlan e s
  | .pairJoin e => Sys2Proof.Machine.execPairJoin e s
  | .pairLeave e => Sys2Proof.Machine.execPairLeave e s
  | .pairStatus e => Sys2Proof.Machine.execPairStatus e s
  | .pairMirror e => Sys2Proof.Machine.execPairMirror e s
  | .sgReadResult e => Sys2Proof.Machine.execSgReadResult e s
  | .sgStatus e => Sys2Proof.Machine.execSgStatus e s
  | .sgRequestMeasure e => Sys2Proof.Machine.execSgRequestMeasure e s
  | .diagLoopback e source => Sys2Proof.Machine.execDiagLoopback e source s
  | .diagReadCounters e => Sys2Proof.Machine.execDiagReadCounters e s
  | .unknownOpcode e opcode => Sys2Proof.Machine.execUnknownOpcode e opcode s
  | .queuedEntryWrite t ring => Sys2Proof.Machine.execQueuedEntryWrite t ring s
  | .commandDeadlineExpiry t src tag => Sys2Proof.Machine.execCommandDeadlineExpiry t src tag s
  | .coalTimeExpiry t ring => Sys2Proof.Machine.execCoalTimeExpiry t ring s
  | .sqDoorbellWrite t q value => Sys2Proof.Machine.execSqDoorbellWrite t q value s
  | .cqDoorbellWrite t q value => Sys2Proof.Machine.execCqDoorbellWrite t q value s
  | .pairEnableWrite t q value => Sys2Proof.Machine.execPairEnableWrite t q value s
  | .pairDisableWrite t q value => Sys2Proof.Machine.execPairDisableWrite t q value s
  | .pairDrainDone t q => Sys2Proof.Machine.execPairDrainDone t q s
  | .returnRingDoorbellWrite t c value => Sys2Proof.Machine.execReturnRingDoorbellWrite t c value s
  | .ledgerSnapWrite t => Sys2Proof.Machine.execLedgerSnapWrite t s
  | .restartWarmWrite t value => Sys2Proof.Machine.execRestartWarmWrite t value s
  | .restartColdWrite t value => Sys2Proof.Machine.execRestartColdWrite t value s
  | .imgGo t => Sys2Proof.Machine.execImgGo t s
  | .imageFetchDone t result secver => Sys2Proof.Machine.execImageFetchDone t result secver s
  | .msixVectorUnmask t v => Sys2Proof.Machine.execMsixVectorUnmask t v s
  | .registerWrite t off wide value => Sys2Proof.Machine.execRegisterWrite t off wide value s
  | .busMasterEnableSet t => Sys2Proof.Machine.execBusMasterEnableSet t s
  | .busMasterEnableClear t => Sys2Proof.Machine.execBusMasterEnableClear t s
  | .pcieLinkDown t => Sys2Proof.Machine.execPcieLinkDown t s
  | .pcieLinkUp t => Sys2Proof.Machine.execPcieLinkUp t s
  | .ppsinEdgeAccepted t sub => Sys2Proof.Machine.execPpsinEdgeAccepted t sub s
  | .ppsinLost t => Sys2Proof.Machine.execPpsinLost t s
  | .refinLost t => Sys2Proof.Machine.execRefinLost t s
  | .refinQualified t => Sys2Proof.Machine.execRefinQualified t s
  | .refinSteerWindow t errorPpt => Sys2Proof.Machine.execRefinSteerWindow t errorPpt s
  | .returningPpsTimeout t => Sys2Proof.Machine.execReturningPpsTimeout t s
  | .dtForwardStep t => Sys2Proof.Machine.execDtForwardStep t s
  | .timeSetStepApply t => Sys2Proof.Machine.execTimeSetStepApply t s
  | .slewTargetReached t => Sys2Proof.Machine.execSlewTargetReached t s
  | .timeRefCommitApply t => Sys2Proof.Machine.execTimeRefCommitApply t s
  | .spllLockDeclared t pllB => Sys2Proof.Machine.execSpllLockDeclared t pllB s
  | .spareAlignmentDone t => Sys2Proof.Machine.execSpareAlignmentDone t s
  | .spllReconfigTimeout t => Sys2Proof.Machine.execSpllReconfigTimeout t s
  | .activeSpllFlagged t vcoStops => Sys2Proof.Machine.execActiveSpllFlagged t vcoStops s
  | .spareSpllFlagged t => Sys2Proof.Machine.execSpareSpllFlagged t s
  | .spareAlignTimeout t => Sys2Proof.Machine.execSpareAlignTimeout t s
  | .spllRelockAttempt t pllB => Sys2Proof.Machine.execSpllRelockAttempt t pllB s
  | .agcWindowEnd t input peak => Sys2Proof.Machine.execAgcWindowEnd t input peak s
  | .agcHoldExpiry t input => Sys2Proof.Machine.execAgcHoldExpiry t input s
  | .overloadTrip t input clipped => Sys2Proof.Machine.execOverloadTrip t input clipped s
  | .carverFrameCommit t c => Sys2Proof.Machine.execCarverFrameCommit t c s
  | .peerStreamStop t streamB => Sys2Proof.Machine.execPeerStreamStop t streamB s
  | .tunerTransitionDone t n => Sys2Proof.Machine.execTunerTransitionDone t n s
  | .channelChangeDone t n r => Sys2Proof.Machine.execChannelChangeDone t n r s
  | .recallLockTimeout t n => Sys2Proof.Machine.execRecallLockTimeout t n s
  | .tunerFailed t n => Sys2Proof.Machine.execTunerFailed t n s
  | .tunerRetry t n pass => Sys2Proof.Machine.execTunerRetry t n pass s
  | .probeStart t n => Sys2Proof.Machine.execProbeStart t n s
  | .probeEnd t n measured leak => Sys2Proof.Machine.execProbeEnd t n measured leak s
  | .probeWaitTimeout t n => Sys2Proof.Machine.execProbeWaitTimeout t n s
  | .injEnFall t => Sys2Proof.Machine.execInjEnFall t s
  | .slipSaggarRelease t => Sys2Proof.Machine.execSlipSaggarRelease t s
  | .supervisionPeriod t level => Sys2Proof.Machine.execSupervisionPeriod t level s
  | .recallTableSave t n => Sys2Proof.Machine.execRecallTableSave t n s
  | .pathBlockOutput t p stamp mid => Sys2Proof.Machine.execPathBlockOutput t p stamp mid s
  | .syncSample t p stamp mid => Sys2Proof.Machine.execSyncSample t p stamp mid s
  | .pathSourceResume t p => Sys2Proof.Machine.execPathSourceResume t p s
  | .powerBlockEnd t p => Sys2Proof.Machine.execPowerBlockEnd t p s
  | .pathCommitApply t p => Sys2Proof.Machine.execPathCommitApply t p s
  | .fadeStart t p => Sys2Proof.Machine.execFadeStart t p s
  | .fadeEnd t p => Sys2Proof.Machine.execFadeEnd t p s
  | .ctxSyncReset t p => Sys2Proof.Machine.execCtxSyncReset t p s
  | .ctxSyncHoldTimeout t p => Sys2Proof.Machine.execCtxSyncHoldTimeout t p s
  | .contextFrame t c f => Sys2Proof.Machine.execContextFrame t c f s
  | .acquisitionHoldMet t c => Sys2Proof.Machine.execAcquisitionHoldMet t c s
  | .cnrLossTimeout t c => Sys2Proof.Machine.execCnrLossTimeout t c s
  | .wheelWatchdogExpiry t w => Sys2Proof.Machine.execWheelWatchdogExpiry t w s
  | .hangBacklogCleared t w => Sys2Proof.Machine.execHangBacklogCleared t w s
  | .wheelSelfTestDone t w pass => Sys2Proof.Machine.execWheelSelfTestDone t w pass s
  | .failoverBranchRetry t c => Sys2Proof.Machine.execFailoverBranchRetry t c s
  | .eqAutoTimeout t c engage => Sys2Proof.Machine.execEqAutoTimeout t c engage s
  | .pilotDetectTimeout t c present => Sys2Proof.Machine.execPilotDetectTimeout t c present s
  | .mpxPowerUpdate t c meanSq => Sys2Proof.Machine.execMpxPowerUpdate t c meanSq s
  | .measWindowEnd t c f => Sys2Proof.Machine.execMeasWindowEnd t c f s
  | .dabNullDetected t c sample => Sys2Proof.Machine.execDabNullDetected t c sample s
  | .ficDecoded t c f => Sys2Proof.Machine.execFicDecoded t c f s
  | .dabFrameEnd t c syncHeld nullFound fibsPassed => Sys2Proof.Machine.execDabFrameEnd t c syncHeld nullFound fibsPassed s
  | .cifBoundary t c cif received => Sys2Proof.Machine.execCifBoundary t c cif received s
  | .logicalFrameComplete t c subch stamp f => Sys2Proof.Machine.execLogicalFrameComplete t c subch stamp f s
  | .dabReacquisition t c eid cif => Sys2Proof.Machine.execDabReacquisition t c eid cif s
  | .tiiListUpdate t c l => Sys2Proof.Machine.execTiiListUpdate t c l s
  | .drmFrameEnd t c f => Sys2Proof.Machine.execDrmFrameEnd t c f s
  | .sdcDecoded t c d => Sys2Proof.Machine.execSdcDecoded t c d s
  | .rdsGroupReceived t c g => Sys2Proof.Machine.execRdsGroupReceived t c g s
  | .bufferFlushTimeout t cls => Sys2Proof.Machine.execBufferFlushTimeout t cls s
  | .motObjectTimeout t sub => Sys2Proof.Machine.execMotObjectTimeout t sub s
  | .afMeterInterval t freq level cnr multipath pi => Sys2Proof.Machine.execAfMeterInterval t freq level cnr multipath pi s
  | .sharedMeterTurn t carver => Sys2Proof.Machine.execSharedMeterTurn t carver s
  | .afHopDwellEnd t n => Sys2Proof.Machine.execAfHopDwellEnd t n s
  | .afPiConfirmed t c freq => Sys2Proof.Machine.execAfPiConfirmed t c freq s
  | .afDecisionTimeout t c => Sys2Proof.Machine.execAfDecisionTimeout t c s
  | .afCorrelationDone t c delay => Sys2Proof.Machine.execAfCorrelationDone t c delay s
  | .afCrossfadeEnd t c => Sys2Proof.Machine.execAfCrossfadeEnd t c s
  | .afHoldoffExpiry t c => Sys2Proof.Machine.execAfHoldoffExpiry t c s
  | .afReportDue t c => Sys2Proof.Machine.execAfReportDue t c s
  | .accessUnitDecoded t svc u => Sys2Proof.Machine.execAccessUnitDecoded t svc u s
  | .hostAudioBlock t svc => Sys2Proof.Machine.execHostAudioBlock t svc s
  | .loudnessBlock t svc => Sys2Proof.Machine.execLoudnessBlock t svc s
  | .loudReportPeriod t svc => Sys2Proof.Machine.execLoudReportPeriod t svc s
  | .signatureSecond t svc text => Sys2Proof.Machine.execSignatureSecond t svc text s
  | .sigChainPeriod t svc => Sys2Proof.Machine.execSigChainPeriod t svc s
  | .libraryChangeApply t => Sys2Proof.Machine.execLibraryChangeApply t s
  | .portBlockBoundary t port => Sys2Proof.Machine.execPortBlockBoundary t port s
  | .slotmaskFrameApply t tdm => Sys2Proof.Machine.execSlotmaskFrameApply t tdm s
  | .ainBlockReceived t n b => Sys2Proof.Machine.execAinBlockReceived t n b s
  | .ainAudioReturn t n => Sys2Proof.Machine.execAinAudioReturn t n s
  | .ainPreambleTimeout t n => Sys2Proof.Machine.execAinPreambleTimeout t n s
  | .ainRelock t n b => Sys2Proof.Machine.execAinRelock t n b s
  | .ainRateConfirmed t n => Sys2Proof.Machine.execAinRateConfirmed t n s
  | .ainRateChangeTimeout t n => Sys2Proof.Machine.execAinRateChangeTimeout t n s
  | .airchainReport t n => Sys2Proof.Machine.execAirchainReport t n s
  | .captureFreeze t slot written => Sys2Proof.Machine.execCaptureFreeze t slot written s
  | .dramEccError t area multi => Sys2Proof.Machine.execDramEccError t area multi s
  | .entropyHealthFailure t => Sys2Proof.Machine.execEntropyHealthFailure t s
  | .entropyRetry t pass => Sys2Proof.Machine.execEntropyRetry t pass s
  | .kilnFiringStart t activity obj => Sys2Proof.Machine.execKilnFiringStart t activity obj s
  | .kilnFiringEnd t activity obj r => Sys2Proof.Machine.execKilnFiringEnd t activity obj r s
  | .kilnWindowExpiry t activity obj => Sys2Proof.Machine.execKilnWindowExpiry t activity obj s
  | .vaultStoreDone t item ok => Sys2Proof.Machine.execVaultStoreDone t item ok s
  | .coneSample t tHot tAo margins => Sys2Proof.Machine.execConeSample t tHot tAo margins s
  | .conePlanDue t => Sys2Proof.Machine.execConePlanDue t s
  | .avsCodeStep t => Sys2Proof.Machine.execAvsCodeStep t s
  | .avsSettleTimeout t measuredMv => Sys2Proof.Machine.execAvsSettleTimeout t measuredMv s
  | .peerHeartbeatLost t => Sys2Proof.Machine.execPeerHeartbeatLost t s
  | .walvalLaneLoss t lane => Sys2Proof.Machine.execWalvalLaneLoss t lane s
  | .walvalLaneRetry t lane pass => Sys2Proof.Machine.execWalvalLaneRetry t lane pass s
  | .linkTrainTimeout t => Sys2Proof.Machine.execLinkTrainTimeout t s
  | .pairJoinComplete t j => Sys2Proof.Machine.execPairJoinComplete t j s
  | .pairJoinTimeout t => Sys2Proof.Machine.execPairJoinTimeout t s
  | .pairDtMarker t offsetPs => Sys2Proof.Machine.execPairDtMarker t offsetPs s
  | .porstNRise t b => Sys2Proof.Machine.execPorstNRise t b s
  | .porstNFall t => Sys2Proof.Machine.execPorstNFall t s
  | .warmNFall t dieTemp => Sys2Proof.Machine.execWarmNFall t dieTemp s
  | .setterWatchdogExpiry t setter1 => Sys2Proof.Machine.execSetterWatchdogExpiry t setter1 s
  | .pfailNFall t => Sys2Proof.Machine.execPfailNFall t s
  | .pfailNRise t => Sys2Proof.Machine.execPfailNRise t s
  | .startTimeout t => Sys2Proof.Machine.execStartTimeout t s
  | .runningFailCountClear t => Sys2Proof.Machine.execRunningFailCountClear t s
  | .thermalTrip t => Sys2Proof.Machine.execThermalTrip t s
  | .dormantReqHeld t => Sys2Proof.Machine.execDormantReqHeld t s
  | .dormantReqFall t => Sys2Proof.Machine.execDormantReqFall t s
  | .pcieResetRise t => Sys2Proof.Machine.execPcieResetRise t s
  | .sealSwChange t protect => Sys2Proof.Machine.execSealSwChange t protect s
  | .tamperNAssert t => Sys2Proof.Machine.execTamperNAssert t s
  | .vddSgArrival t => Sys2Proof.Machine.execVddSgArrival t s
  | .saggarBootDone t areaB selfTest => Sys2Proof.Machine.execSaggarBootDone t areaB selfTest s
  | .saggarJobStart t job cStart path => Sys2Proof.Machine.execSaggarJobStart t job cStart path s
  | .saggarJobEnd t job r => Sys2Proof.Machine.execSaggarJobEnd t job r s
  | .saggarFault t kind => Sys2Proof.Machine.execSaggarFault t kind s
  | .legalSherdCommit t => Sys2Proof.Machine.execLegalSherdCommit t s
  | .verifyMaxExpiry t => Sys2Proof.Machine.execVerifyMaxExpiry t s
  | .lportAddressWake t => Sys2Proof.Machine.execLportAddressWake t s
  | .mportStatus t => Sys2Proof.Machine.execMportStatus t s
  | .cmdSubmit t x => Sys2Proof.Machine.execCmdSubmit t x s
  | .cmdResult t whole => Sys2Proof.Machine.execCmdResult t whole s
  | .cmdResultRedeliver t => Sys2Proof.Machine.execCmdResultRedeliver t s
  | .mportWake t => Sys2Proof.Machine.execMportWake t s
  | .mportTimingRead t => Sys2Proof.Machine.execMportTimingRead t s
  | .mportTimingWrite t x => Sys2Proof.Machine.execMportTimingWrite t x s
  | .mportTimingApply t => Sys2Proof.Machine.execMportTimingApply t s
  | .eventFetch t whole => Sys2Proof.Machine.execEventFetch t whole s
  | .eventFetchRedeliver t => Sys2Proof.Machine.execEventFetchRedeliver t s
  | .mportDormantMatch t => Sys2Proof.Machine.execMportDormantMatch t s
  | .mportRegateTimeout t => Sys2Proof.Machine.execMportRegateTimeout t s
  | .stretchTimeout t port => Sys2Proof.Machine.execStretchTimeout t port s
  | .sclHeldTimeout t port => Sys2Proof.Machine.execSclHeldTimeout t port s
  | .sdaSelfHeld t port => Sys2Proof.Machine.execSdaSelfHeld t port s
  | .lineHeldByOther t port scl => Sys2Proof.Machine.execLineHeldByOther t port scl s
  | .busStuckClear t port => Sys2Proof.Machine.execBusStuckClear t port s
  | .hostNotifySend t outcome => Sys2Proof.Machine.execHostNotifySend t outcome s
  | .lportSgStatus t => Sys2Proof.Machine.execLportSgStatus t s
  | .sgIdentify t => Sys2Proof.Machine.execSgIdentify t s
  | .sgPortRead t => Sys2Proof.Machine.execSgPortRead t s
  | .sgPortWrite t x => Sys2Proof.Machine.execSgPortWrite t x s
  | .sgCounters t => Sys2Proof.Machine.execSgCounters t s
  | .sgMeasure t x => Sys2Proof.Machine.execSgMeasure t x s
  | .sgResponse t whole => Sys2Proof.Machine.execSgResponse t whole s
  | .sgResponseRedeliver t => Sys2Proof.Machine.execSgResponseRedeliver t s
  | .sgCancel t x => Sys2Proof.Machine.execSgCancel t x s
  | .sgResult t x => Sys2Proof.Machine.execSgResult t x s
  | .sgLogSeek t x => Sys2Proof.Machine.execSgLogSeek t x s
  | .sgLogRead t whole => Sys2Proof.Machine.execSgLogRead t whole s
  | .sgSeal t x => Sys2Proof.Machine.execSgSeal t x s
  | .sgAfWrite t x => Sys2Proof.Machine.execSgAfWrite t x s
  | .sgAfRead t x => Sys2Proof.Machine.execSgAfRead t x s
  | .sgCalWrite t x => Sys2Proof.Machine.execSgCalWrite t x s
  | .sgCalRead t x => Sys2Proof.Machine.execSgCalRead t x s
  | .sgVerify t x => Sys2Proof.Machine.execSgVerify t x s
  | .sgParam t x => Sys2Proof.Machine.execSgParam t x s
  | .sgKeyLoad t x => Sys2Proof.Machine.execSgKeyLoad t x s
  | .sgImageBlock t x => Sys2Proof.Machine.execSgImageBlock t x s
  | .sgImageCommit t x => Sys2Proof.Machine.execSgImageCommit t x s
  | .vddSgLoss t => Sys2Proof.Machine.execVddSgLoss t s
  | .tamperNRelease t => Sys2Proof.Machine.execTamperNRelease t s
  | .vddCoreInRange t dieTemp => Sys2Proof.Machine.execVddCoreInRange t dieTemp s
  | .entropyStartupTestsDone t pass => Sys2Proof.Machine.execEntropyStartupTestsDone t pass s
  | .phaseSteppingDone t => Sys2Proof.Machine.execPhaseSteppingDone t s
  | .glazeMessageDone t core => Sys2Proof.Machine.execGlazeMessageDone t core s
  | .ppsoutPulse t => Sys2Proof.Machine.execPpsoutPulse t s
  | .sharedPoolInitDone t => Sys2Proof.Machine.execSharedPoolInitDone t s

end Sys2Proof.Machine
end

