-- ==== Sys2Proof/Machine/Step.lean ====
section
/-!
DEFINITION. Step.lean: one step of the block: the command at the front of the queue, and what the block does on an empty queue.
-/
namespace Sys2Proof.Machine

/-- One step: the command at the front of the queue. On an empty queue the held command that has waited longest and need wait no more begins
(R308, R309; log entry 3); with none the DT clock ticks once (R45; log entry 2), and what the secondary reports falls due (log entry 64). -/
def step (s : State) : Host.Outcome State Fault Refusal :=
  match s.pending with
  | c :: rest => exec c { s with pending := rest }
  | [] =>
    match nextHeld s with
    | some h => exec h.cmd (resumeHeld h s)
    | none => .next (idle s)

/-- The state with the command that a word spells at the front of its queue; unchanged where the word spells none. -/
def State.withFetchWord (s : State) (nbits w : Nat) : State :=
  match decodeTableWord nbits w with
  | some c => { s with pending := c :: s.pending }
  | none => s

end Sys2Proof.Machine
end

