-- ==== Sys2Proof/Safety.lean ====
section
/-!
DEFINITION. Safety.lean: what a safe step of the block is, in the terms that the statements use: the conservation ledger
balances (R30), fuses and ROM stay, the queue is left alone, what was sent out stays sent, and a step changes only named parts
of the state.
-/
namespace Sys2Proof.Machine

/-! ### The conservation ledger (R29, R30) -/

/-- A row of the ledger balances: what was posted has been returned or is held (R30). -/
def LedgerRow.Balanced (r : LedgerRow) : Prop := r.posted = r.returned + r.held

/-- Every class of the ledger balances, and every class of the last snapshot of it (R30, R31). -/
def Balanced (h : HostIf) : Prop := ∀ c : Fin 9, h.ledger[c].Balanced ∧ h.snap.rows[c].Balanced

/-! ### Fuses and ROM (R501, R502) -/

/-- What fuses and the mask ROM fix: variant, LIFECYCLE, serial number, ROM version, MIN_SECVER. -/
def fuses (s : State) : Bool × BitVec 3 × BitVec 64 × BitVec 32 × Byte :=
  (s.ident.nfb, s.ident.lifecycle, s.ident.serial, s.ident.rom, s.ident.minSecver)

/-! ### Parts of the state -/

/-- Parts of the state that a step may change. `hostq` is the host interface's queues, rings, held commands and ledger, `hostr` the rest
of it (MSI-X table, Bus Master Enable, link and its training, power state, event mask, epoch, snapshot); `dt` device time, `clock` the
rest of its part; `due` the interval counts of class 6 on the paths, `paths` the rest of them; `cx` what CtxSt holds beside paths and
contexts; `slots` the capture slots, `mem` the rest of its part; `slip` the Slip and the converters' temperature. -/
structure Parts where
  ident : Bool := false
  power : Bool := false
  hostq : Bool := false
  hostr : Bool := false
  dt : Bool := false
  clock : Bool := false
  wb : Bool := false
  carvers : Bool := false
  tuners : Bool := false
  slip : Bool := false
  due : Bool := false
  paths : Bool := false
  ctxs : Bool := false
  cx : Bool := false
  audio : Bool := false
  port : Bool := false
  mp : Bool := false
  sg : Bool := false
  cry : Bool := false
  slots : Bool := false
  mem : Bool := false
  mnt : Bool := false
  pair : Bool := false
  vault : Bool := false
  deriving DecidableEq, Repr

/-- Every part. -/
def Parts.all : Parts :=
  { ident := true, power := true, hostq := true, hostr := true, dt := true, clock := true, wb := true, carvers := true,
    tuners := true, slip := true, due := true, paths := true, ctxs := true, cx := true, audio := true, port := true,
    mp := true, sg := true, cry := true, slots := true, mem := true, mnt := true, pair := true, vault := true }

/-- Whether every part of `p` is a part of `m`. -/
def Parts.sub (p m : Parts) : Bool :=
  (!p.ident || m.ident) && (!p.power || m.power) && (!p.hostq || m.hostq) && (!p.hostr || m.hostr) && (!p.dt || m.dt)
    && (!p.clock || m.clock) && (!p.wb || m.wb) && (!p.carvers || m.carvers) && (!p.tuners || m.tuners) && (!p.slip || m.slip)
    && (!p.due || m.due) && (!p.paths || m.paths) && (!p.ctxs || m.ctxs) && (!p.cx || m.cx) && (!p.audio || m.audio)
    && (!p.port || m.port) && (!p.mp || m.mp) && (!p.sg || m.sg) && (!p.cry || m.cry) && (!p.slots || m.slots)
    && (!p.mem || m.mem) && (!p.mnt || m.mnt) && (!p.pair || m.pair) && (!p.vault || m.vault)

/-- What `hostr` names. -/
def HostIf.rest (h : HostIf) : HostIf :=
  { HostIf.reset with
    msix := h.msix, rrCoal := h.rrCoal, bme := h.bme, linkUp := h.linkUp, speed := h.speed, width := h.width, d3hot := h.d3hot,
    aerCorrectable := h.aerCorrectable, aerUncorrectable := h.aerUncorrectable, evMask := h.evMask, epoch := h.epoch, snap := h.snap,
    bar2Discarded := h.bar2Discarded }

/-- What `hostq` names. -/
def HostIf.queues (h : HostIf) : HostIf :=
  { h with
    msix := HostIf.reset.msix, rrCoal := 0, bme := false, linkUp := false, speed := 0, width := 0, d3hot := false, aerCorrectable := 0,
    aerUncorrectable := 0, evMask := 0, epoch := 0, snap := Snapshot.reset, bar2Discarded := 0 }

/-- What `clock` names. -/
def TimeSt.clock (t : TimeSt) : TimeSt := { t with dt := 0 }

/-- What `slip` names. -/
def RfSt.slipPart (r : RfSt) : SlipSt × Int := (r.slip, r.adcTemp)

/-- A path without its class-6 count. -/
def Path.noDue (p : Path) : Path := { p with dueOpen := 0 }

/-- What `cx` names. -/
def CtxSt.rest (c : CtxSt) : CtxSt := { c with paths := CtxSt.reset.paths, ctxs := CtxSt.reset.ctxs }

/-- What `mem` names. -/
def MemSt.rest (m : MemSt) : MemSt := { m with slots := MemSt.reset.slots }

/-- `t` comes from `s` by a change within the parts `m`: every other part is the same; the waiting commands, fuses and ROM are the same;
what was sent out stays, with more behind it; and the ledger balances if it did. -/
structure Within (m : Parts) (s t : State) : Prop where
  pending : t.pending = s.pending
  outbox : s.outbox <:+ t.outbox
  fresh : s.fresh ≤ t.fresh
  fuses : fuses t = fuses s
  ledger : Balanced s.host → Balanced t.host
  ident : m.ident = false → t.ident = s.ident
  power : m.power = false → t.power = s.power
  hostq : m.hostq = false → t.host.queues = s.host.queues
  hostr : m.hostr = false → t.host.rest = s.host.rest
  dt : m.dt = false → t.time.dt = s.time.dt
  clock : m.clock = false → t.time.clock = s.time.clock
  wb : m.wb = false → t.rf.wb = s.rf.wb
  carvers : m.carvers = false → t.rf.carvers = s.rf.carvers
  tuners : m.tuners = false → t.rf.tuners = s.rf.tuners
  slip : m.slip = false → t.rf.slipPart = s.rf.slipPart
  due : m.due = false → t.cx.paths.map (·.dueOpen) = s.cx.paths.map (·.dueOpen)
  paths : m.paths = false → t.cx.paths.map Path.noDue = s.cx.paths.map Path.noDue
  ctxs : m.ctxs = false → t.cx.ctxs = s.cx.ctxs
  cx : m.cx = false → t.cx.rest = s.cx.rest
  audio : m.audio = false → t.audio = s.audio
  port : m.port = false → t.port = s.port
  mp : m.mp = false → t.mp = s.mp
  sg : m.sg = false → t.sg = s.sg
  cry : m.cry = false → t.cry = s.cry
  slots : m.slots = false → t.mem.slots = s.mem.slots
  mem : m.mem = false → t.mem.rest = s.mem.rest
  mnt : m.mnt = false → t.mnt = s.mnt
  pair : m.pair = false → t.pair = s.pair
  vault : m.vault = false → t.vault = s.vault

/-! ### What each command may change -/

/-- What every command may change: the host interface's queues and ledger, device time, the class-6 counts of the paths. -/
def Parts.common : Parts := { hostq := true, dt := true, due := true }

/-- The parts of the state that a command's step may change, the events of its instant with it (R312, R313 and R426 make every command
that raises an event reach the MPORT's mirror and the capture slots). -/
def touches (i : Instr) : Parts :=
  match i with
  | .devIdentify .. | .devGetHealth .. | .timeGet .. | .timeDisciplineStatus .. | .rfPtRecallRead .. | .rfProbe ..
  | .ctxClose .. | .ctxGetQuality .. | .ctxSetThresholds .. | .dataUnsubscribe .. | .afPolicy .. | .alertConfig ..
  | .audServiceStop .. | .audSignatureConfig .. | .audLoudnessConfig .. | .portInputStatus .. | .memCaptureFreeze ..
  | .memTimeshiftConfig .. | .cryCounterRead .. | .mntScheduleStatus .. | .mntConeRead .. | .pairStatus .. | .pairMirror ..
  | .sgReadResult .. | .sgStatus .. | .diagLoopback .. | .unknownOpcode .. | .probeWaitTimeout .. | .captureFreeze ..
  | .sdaSelfHeld .. =>
    { Parts.common with mp := true, slots := true }
  | .devSetProfile .. =>
    { Parts.common with power := true, ctxs := true, cx := true, mp := true, slots := true }
  | .devRestart .. | .restartWarmWrite .. | .restartColdWrite .. | .imageFetchDone .. | .dramEccError .. | .porstNRise ..
  | .warmNFall .. | .setterWatchdogExpiry .. | .startTimeout .. | .thermalTrip .. | .vddCoreInRange .. =>
    Parts.all
  | .devSetEventMask .. | .devLedgerRead .. =>
    { Parts.common with hostr := true, mp := true, slots := true }
  | .timeSet .. =>
    { Parts.common with clock := true, paths := true, port := true, mp := true, slots := true }
  | .timeRefConfig .. | .timePhaseStep .. | .spareAlignTimeout .. | .phaseSteppingDone .. =>
    { Parts.common with clock := true, mp := true, slots := true }
  | .timePllConfig .. =>
    { Parts.common with
      power := true, clock := true, paths := true, ctxs := true, audio := true, port := true, mp := true, slots := true }
  | .rfWbConfig .. =>
    { Parts.common with wb := true, tuners := true, mp := true, sg := true, slots := true, mnt := true }
  | .rfCarverSet .. =>
    { Parts.common with carvers := true, mp := true, slots := true }
  | .rfPtState .. | .tunerRetry .. =>
    { Parts.common with tuners := true, slip := true, paths := true, ctxs := true, mp := true, slots := true, mnt := true }
  | .rfPtTune .. =>
    { Parts.common with
      wb := true, tuners := true, slip := true, paths := true, ctxs := true, mp := true, sg := true, slots := true, mnt := true }
  | .rfPtBandtableLoad .. | .tunerTransitionDone .. =>
    { Parts.common with tuners := true, mp := true, slots := true }
  | .rfSlipConfig .. | .supervisionPeriod .. =>
    { Parts.common with slip := true, mp := true, slots := true }
  | .ctxOpen .. =>
    { Parts.common with
      tuners := true, slip := true, paths := true, ctxs := true, cx := true, mp := true, cry := true, slots := true, mnt := true,
      vault := true }
  | .ctxRetune .. | .ctxStage .. | .ctxCommit .. | .afListSet .. | .eqAutoTimeout .. =>
    { Parts.common with ctxs := true, mp := true, slots := true }
  | .ctxCoefLoad .. | .ctxCoefSwap .. | .commandDeadlineExpiry .. | .pairDisableWrite .. | .powerBlockEnd .. | .fadeEnd .. =>
    { Parts.common with paths := true, mp := true, slots := true }
  | .ctxSync .. | .ctxSyncReset .. =>
    { Parts.common with paths := true, ctxs := true, cx := true, mp := true, slots := true }
  | .ctxDiversity .. | .afCrossfadeEnd .. =>
    { Parts.common with
      tuners := true, slip := true, paths := true, ctxs := true, mp := true, cry := true, slots := true, mnt := true, vault := true }
  | .dataSubscribe .. =>
    { Parts.common with ctxs := true, cx := true, mp := true, slots := true }
  | .audServiceStart .. =>
    { Parts.common with ctxs := true, audio := true, mp := true, slots := true }
  | .portConfig .. | .portSlotmask .. | .portChstatusSet .. | .portBlockBoundary .. | .slotmaskFrameApply .. =>
    { Parts.common with port := true, mp := true, slots := true }
  | .portRoute .. =>
    { Parts.common with
      ctxs := true, audio := true, port := true, mp := true, cry := true, slots := true, mnt := true, vault := true }
  | .memCaptureArm .. =>
    { Parts.common with mp := true, slots := true, mem := true }
  | .memCaptureRead .. =>
    { Parts.common with mp := true, cry := true, slots := true, mem := true, mnt := true, vault := true }
  | .bufPost .. | .cryKeyLoad .. | .cryKeyDerive .. | .cryKeyRetire .. | .cryProcess .. | .logMark .. | .queuedEntryWrite ..
  | .entropyRetry .. =>
    { Parts.common with mp := true, cry := true, slots := true, mnt := true, vault := true }
  | .cryCounterIncrement .. | .mntScheduleSet .. =>
    { Parts.common with mp := true, slots := true, mnt := true }
  | .logConfig .. =>
    { Parts.common with mp := true, sg := true, cry := true, slots := true, mnt := true, vault := true }
  | .logRead .. | .entropyHealthFailure .. | .entropyStartupTestsDone .. | .glazeMessageDone .. =>
    { Parts.common with mp := true, cry := true, slots := true }
  | .mntCalibrate .. =>
    { Parts.common with wb := true, tuners := true, slip := true, mp := true, slots := true, mnt := true }
  | .mntMarginPlan .. | .conePlanDue .. =>
    { Parts.common with power := true, mp := true, sg := true, slots := true, mnt := true }
  | .pairJoin .. | .pairJoinTimeout .. =>
    { Parts.common with mp := true, slots := true, pair := true }
  | .pairLeave .. | .peerHeartbeatLost .. | .linkTrainTimeout .. =>
    { Parts.common with
      power := true, hostr := true, clock := true, wb := true, carvers := true, tuners := true, slip := true, paths := true,
      ctxs := true, cx := true, audio := true, port := true, mp := true, sg := true, cry := true, slots := true, mem := true,
      mnt := true, pair := true, vault := true }
  | .sgRequestMeasure .. | .tamperNAssert .. | .lineHeldByOther .. | .busStuckClear .. | .sgPortWrite .. | .sgSeal ..
  | .sgAfWrite .. | .sgCalWrite .. | .sgKeyLoad .. =>
    { Parts.common with mp := true, sg := true, slots := true }
  | .diagReadCounters .. =>
    { Parts.common with
      hostr := true, clock := true, wb := true, tuners := true, port := true, mp := true, slots := true, mem := true, mnt := true,
      pair := true }
  | .coalTimeExpiry .. | .sqDoorbellWrite .. | .cqDoorbellWrite .. | .pairEnableWrite .. | .pairDrainDone ..
  | .returnRingDoorbellWrite .. | .sclHeldTimeout .. =>
    Parts.common
  | .ledgerSnapWrite .. | .msixVectorUnmask .. | .busMasterEnableClear .. | .pcieLinkDown .. =>
    { Parts.common with hostr := true }
  | .imgGo .. | .avsCodeStep .. | .runningFailCountClear .. | .dormantReqFall .. | .pcieResetRise .. | .mportWake .. =>
    { Parts.common with power := true }
  | .registerWrite .. =>
    { Parts.common with power := true, hostr := true, clock := true, mp := true }
  | .busMasterEnableSet .. | .pcieLinkUp .. =>
    { Parts.common with hostr := true, mp := true, cry := true, slots := true, mnt := true, vault := true }
  | .ppsinEdgeAccepted .. | .slewTargetReached .. | .timeRefCommitApply .. =>
    { Parts.common with clock := true, paths := true, port := true, mp := true, slots := true, mnt := true }
  | .ppsinLost .. | .refinLost .. =>
    { Parts.common with clock := true, mp := true, cry := true, slots := true, mnt := true, vault := true }
  | .refinQualified .. | .spllReconfigTimeout .. =>
    { Parts.common with clock := true, mp := true, slots := true, mnt := true }
  | .refinSteerWindow .. | .returningPpsTimeout .. =>
    { Parts.common with clock := true, mnt := true }
  | .dtForwardStep .. | .timeSetStepApply .. =>
    { Parts.common with
      clock := true, paths := true, ctxs := true, audio := true, port := true, mp := true, cry := true, slots := true, mnt := true,
      vault := true }
  | .spllLockDeclared .. =>
    { Parts.common with
      power := true, clock := true, paths := true, ctxs := true, port := true, mp := true, slots := true, mnt := true }
  | .spareAlignmentDone .. | .spareSpllFlagged .. =>
    { Parts.common with power := true, clock := true, mp := true, slots := true, mnt := true }
  | .activeSpllFlagged .. =>
    { Parts.common with
      power := true, clock := true, paths := true, ctxs := true, audio := true, port := true, mp := true, cry := true, slots := true,
      mnt := true, vault := true }
  | .spllRelockAttempt .. | .ppsoutPulse .. =>
    { Parts.common with clock := true }
  | .agcWindowEnd .. | .agcHoldExpiry .. | .overloadTrip .. =>
    { Parts.common with wb := true, tuners := true, sg := true, mnt := true }
  | .carverFrameCommit .. =>
    { Parts.common with carvers := true, paths := true, ctxs := true, mp := true, slots := true }
  | .peerStreamStop .. | .walvalLaneLoss .. =>
    { Parts.common with
      carvers := true, tuners := true, slip := true, paths := true, ctxs := true, audio := true, mp := true, sg := true, cry := true,
      slots := true, mnt := true, pair := true, vault := true }
  | .channelChangeDone .. =>
    { Parts.common with tuners := true, mp := true, slots := true, mnt := true }
  | .recallLockTimeout .. =>
    { Parts.common with tuners := true }
  | .tunerFailed .. | .probeStart .. =>
    { Parts.common with
      tuners := true, slip := true, paths := true, ctxs := true, audio := true, mp := true, sg := true, cry := true, slots := true,
      mnt := true, vault := true }
  | .probeEnd .. =>
    { Parts.common with tuners := true, paths := true, ctxs := true, mp := true, slots := true }
  | .injEnFall .. =>
    { Parts.common with power := true, slip := true }
  | .slipSaggarRelease .. =>
    { Parts.common with tuners := true, slip := true, mnt := true }
  | .recallTableSave .. =>
    { Parts.common with tuners := true, mnt := true }
  | .pathBlockOutput .. =>
    { Parts.common with paths := true, mp := true, sg := true, cry := true, slots := true, mnt := true, vault := true }
  | .syncSample .. | .wheelWatchdogExpiry .. =>
    { Parts.common with
      paths := true, ctxs := true, cx := true, audio := true, mp := true, sg := true, cry := true, slots := true, mnt := true,
      vault := true }
  | .pathSourceResume .. | .afPiConfirmed .. =>
    { Parts.common with paths := true, ctxs := true, mp := true, slots := true }
  | .pathCommitApply .. | .failoverBranchRetry .. =>
    { Parts.common with
      tuners := true, slip := true, paths := true, ctxs := true, audio := true, mp := true, cry := true, slots := true, mnt := true,
      vault := true }
  | .fadeStart .. =>
    { Parts.common with paths := true }
  | .ctxSyncHoldTimeout .. =>
    { Parts.common with cx := true, mp := true, slots := true }
  | .contextFrame .. =>
    { Parts.common with
      tuners := true, slip := true, paths := true, ctxs := true, cx := true, audio := true, port := true, mp := true, cry := true,
      slots := true, mem := true, mnt := true, vault := true }
  | .acquisitionHoldMet .. | .cnrLossTimeout .. | .pilotDetectTimeout .. | .mpxPowerUpdate .. | .measWindowEnd ..
  | .dabNullDetected .. | .dabFrameEnd .. | .tiiListUpdate .. | .afDecisionTimeout .. | .afCorrelationDone ..
  | .afHoldoffExpiry .. =>
    { Parts.common with ctxs := true }
  | .hangBacklogCleared .. =>
    { Parts.common with cx := true, mp := true, sg := true, cry := true, slots := true, mnt := true, vault := true }
  | .wheelSelfTestDone .. =>
    { Parts.common with paths := true, ctxs := true, cx := true, audio := true, mp := true, slots := true }
  | .ficDecoded .. | .cifBoundary .. | .drmFrameEnd .. | .sdcDecoded .. =>
    { Parts.common with
      ctxs := true, cx := true, audio := true, port := true, mp := true, cry := true, slots := true, mem := true, mnt := true,
      vault := true }
  | .logicalFrameComplete .. =>
    { Parts.common with ctxs := true, cx := true, cry := true }
  | .dabReacquisition .. =>
    { Parts.common with ctxs := true, mp := true, cry := true, slots := true, mnt := true, vault := true }
  | .rdsGroupReceived .. =>
    { Parts.common with ctxs := true, cx := true, mp := true, cry := true, slots := true, mnt := true, vault := true }
  | .bufferFlushTimeout .. =>
    { Parts.common with cry := true }
  | .motObjectTimeout .. =>
    { Parts.common with ctxs := true, cx := true }
  | .afMeterInterval .. | .sharedMeterTurn .. | .afHopDwellEnd .. =>
    { Parts.common with
      tuners := true, slip := true, paths := true, ctxs := true, cx := true, mp := true, slots := true, mnt := true }
  | .afReportDue .. =>
    { Parts.common with
      tuners := true, slip := true, paths := true, ctxs := true, cx := true, mp := true, cry := true, slots := true, mnt := true }
  | .accessUnitDecoded .. =>
    { Parts.common with audio := true }
  | .hostAudioBlock .. =>
    { Parts.common with
      ctxs := true, audio := true, port := true, mp := true, cry := true, slots := true, mem := true, mnt := true, vault := true }
  | .loudnessBlock .. | .loudReportPeriod .. =>
    { Parts.common with audio := true, cry := true }
  | .signatureSecond .. | .ainBlockReceived .. | .ainAudioReturn .. | .ainPreambleTimeout .. | .ainRelock ..
  | .ainRateConfirmed .. | .ainRateChangeTimeout .. | .airchainReport .. =>
    { Parts.common with audio := true, port := true, mp := true, cry := true, slots := true, mnt := true, vault := true }
  | .sigChainPeriod .. | .libraryChangeApply .. =>
    { Parts.common with audio := true, mp := true, cry := true, slots := true, mnt := true, vault := true }
  | .kilnFiringStart .. =>
    { Parts.common with wb := true, tuners := true, slip := true, mnt := true }
  | .kilnFiringEnd .. =>
    { Parts.common with wb := true, tuners := true, slip := true, mp := true, sg := true, slots := true, mnt := true }
  | .kilnWindowExpiry .. =>
    { Parts.common with mnt := true }
  | .vaultStoreDone .. =>
    { Parts.common with tuners := true, slip := true, mp := true, cry := true, slots := true, mnt := true, vault := true }
  | .coneSample .. =>
    { Parts.common with power := true, clock := true, mp := true, sg := true, slots := true, mnt := true }
  | .avsSettleTimeout .. | .pfailNRise .. =>
    { Parts.common with power := true, mnt := true }
  | .walvalLaneRetry .. =>
    { Parts.common with carvers := true, mp := true, slots := true, pair := true }
  | .pairJoinComplete .. =>
    { Parts.common with
      clock := true, paths := true, ctxs := true, cx := true, audio := true, port := true, mp := true, cry := true, slots := true,
      mnt := true, pair := true, vault := true }
  | .pairDtMarker .. =>
    { Parts.common with clock := true, pair := true }
  | .porstNFall .. =>
    { Parts.common with
      ident := true, power := true, hostr := true, clock := true, wb := true, carvers := true, tuners := true, slip := true,
      paths := true, ctxs := true, cx := true, audio := true, port := true, mp := true, sg := true, cry := true, slots := true,
      mem := true, mnt := true, pair := true }
  | .pfailNFall .. =>
    { Parts.common with power := true, mp := true, slots := true, mnt := true }
  | .dormantReqHeld .. =>
    { Parts.common with power := true, clock := true, paths := true, mp := true, slots := true }
  | .sealSwChange .. =>
    { Parts.common with power := true, mp := true, sg := true, slots := true }
  | .vddSgArrival .. | .verifyMaxExpiry .. | .lportAddressWake .. | .lportSgStatus .. | .sgIdentify .. | .sgPortRead ..
  | .sgCounters .. | .sgMeasure .. | .sgResponse .. | .sgResponseRedeliver .. | .sgResult .. | .sgLogSeek .. | .sgLogRead ..
  | .sgAfRead .. | .sgCalRead .. | .sgImageBlock .. | .tamperNRelease .. =>
    { Parts.common with sg := true }
  | .saggarBootDone .. | .saggarJobEnd .. | .saggarFault .. | .sgCancel .. | .sgImageCommit .. | .vddSgLoss .. =>
    { Parts.common with
      carvers := true, tuners := true, slip := true, paths := true, ctxs := true, mp := true, sg := true, cry := true, slots := true,
      mnt := true, vault := true }
  | .saggarJobStart .. =>
    { Parts.common with carvers := true, tuners := true, slip := true, paths := true, mp := true, sg := true, slots := true }
  | .legalSherdCommit .. =>
    { Parts.common with sg := true, cry := true }
  | .mportStatus .. | .cmdSubmit .. | .cmdResult .. | .cmdResultRedeliver .. | .mportTimingRead .. | .mportTimingWrite ..
  | .mportTimingApply .. | .eventFetch .. | .eventFetchRedeliver .. | .mportDormantMatch .. | .mportRegateTimeout ..
  | .hostNotifySend .. =>
    { Parts.common with mp := true }
  | .stretchTimeout .. =>
    { Parts.common with mp := true, sg := true }
  | .sgVerify .. =>
    { Parts.common with sg := true, mnt := true }
  | .sgParam .. =>
    { Parts.common with mp := true, sg := true, slots := true, mnt := true }
  | .sharedPoolInitDone .. =>
    { Parts.common with mem := true }

/-! ### How statements speak of a command -/

/-- `i` completes in `s`, with a next state of which `P` holds. -/
def Gives (i : Instr) (s : State) (P : State → Prop) : Prop := ∃ t, exec i s = .next t ∧ P t

/-- A host command begins in `s`: it is fetched, passes the checks of R306, need not wait and is not one for the secondary (R473); or it
was held and begins now. `h` is the command as held, `u` the state in which its own meaning runs. -/
inductive Starts (c : Spec) (i : Instr) (e : Entry) (s : State) : Held → State → Prop where
  | fetched (v : State) (h : Held) (u : State) : s.host.resuming = none → fetch c.op e (moment e.t s) = some v →
      hold c.op i e (shieldCopy c.op e v) = (h, u) → failing c h u = none → mustWait h u = false → isRemote c e = false →
      Starts c i e s h u
  | resumed (id : Nat) (h : Held) : s.host.resuming = some id → findHeld id s = some h → h.entry = e → h.deferred = false →
      (Entry.hasDeadline e && decide (e.deadline.toNat < (now s).toNat)) = false → isRemote c e = false →
      Starts c i e s h (modHost (fun x => { x with resuming := none }) s)

/-- Whenever host command `i` begins, it completes, and `P` holds of the command as held, the state in which it begins and the next
state. -/
def Does (i : Instr) (c : Spec) (e : Entry) (P : Held → State → State → Prop) : Prop :=
  ∀ s h u, Starts c i e s h u → Gives i s (P h u)

/-- The LPORT takes a write of `code` as request `l`: it answers the code, its store has a slot, and the write is whole with a good PEC
(R348, R349, R392). -/
def LpTakes (code : Nat) (counted : Bool) (x : Xfer) (t : DT) (s : State) (l : List Byte) : Prop :=
  lpAnswers code (lpWake (moment t s)) = true ∧ s.sg.responses.length < 8
    ∧ frame lpAddress code counted (if counted then (x.data.headD 0).toNat else x.data.length) true x = .data l

end Sys2Proof.Machine
end

