-- ==== Sys2Proof/Certificates/Slice0/Obligations.lean ====
section
/-!
DEFINITION. Obligations.lean: the statements about the model for the provers. An event's clauses are said with Gives: exec i s = .next t for
a t of which the clause holds. A host command's are said with Does: in every s in which the command begins (it is fetched, passes the checks
of R306 and need not wait, or was held and begins now: conditions on s and the entry alone), exec i s = .next t for such a t. u is the state in
which a host command begins, m the state at the instant of an event. "Completion of" in a docstring names the commands whose own
effect a statement concludes so.
-/
open Sys2Proof Sys2Proof.Machine

/-- A step runs the command at the front of the queue. For every command c, every rest of the queue and every state s whose queue is c
followed by that rest, step of s is exec of c on s with its queue set to the rest. Every per-command statement reaches a run through this
one. (the block: a queue of waiting commands, first in first out (the row's cut); 11_host_interface.md: Submission entries) -/
def Obligations.StepRunsTheFrontCommand : Prop :=
  ∀ (c : Instr) (rest : List Instr) (s : State), s.pending = c :: rest → step s = exec c { s with pending := rest }

/-- On an empty queue the first held command that need wait no more begins, else the DT clock ticks once (the model's choice, log entries
2, 3, 12 and 64). With an empty queue: outside RUNNING, while Dormant is being entered, and if every held command has begun, or was
deferred and is not yet released, or must still wait (fences, submission order and the waits of its block), step answers what the block
does idle. Idle, an entry to Dormant or a warm start that is under way ends, the DT clock ticks once, and what the peer reports falls
due; with neither under way and no PRIMARY's link up it is the tick and the peer's part of a CTX_SYNC; where no CTX_SYNC is under way
either the tick alone, and the same state while DT does not run. In RUNNING, if h is the first held command of which none of these holds,
step runs h's own command with the note that it resumes. The tick, the ends and the resumption as steps of their own are the model's
choice (log entries 2, 3 and 12); the waits themselves follow R309 and the block chapters, and TickAdvancesDtExactly says what a tick
adds. (11_host_interface.md: Submission entries; 11_host_interface.md: Queue pairs; 02_time_reference_clocks.md: Device time) -/
def Obligations.EmptyQueueResumesOrTicks : Prop :=
  ∀ s : State, s.pending = [] →
    ((isRunning s = false ∨ s.power.entering = true
        ∨ ∀ h ∈ s.host.held, h.begun = true ∨ (h.deferred = true ∧ resumes h s = false) ∨ mustWait h s = true) →
      step s = .next (idle s)
        ∧ (s.power.entering = false → (s.power.st = .warmStart → s.power.waking = true) →
            (s.pair.role ≠ 1 ∨ (s.pair.link ≠ .up ∧ s.pair.link ≠ .degraded)) →
            step s = .next (peerSyncs (tick s)) ∧ (s.cx.syncs = [] → step s = .next (tick s))
              ∧ (s.cx.syncs = [] → s.time.running = false → step s = .next s)))
      ∧ ∀ (a b : List Held) (h : Held), isRunning s = true → s.power.entering = false → s.host.held = a ++ h :: b →
          (∀ x ∈ a, x.begun = true ∨ (x.deferred = true ∧ resumes x s = false) ∨ mustWait x s = true) →
          h.begun = false → (h.deferred = true → resumes h s = true) → mustWait h s = false →
          step s = exec h.cmd { s with host := { s.host with resuming := some h.id } }

/-- Reset leaves the values that the register tables give. In State.reset the ledger balances, the queue is empty, DT is 0 and unset,
every queue pair has bases, sizes, EN, PRIO, INT_EN, head, tail, ENABLED, DRAINING and ERR 0 and VECTOR equal to its number (R299), the
MPORT timing words and control word have the values of R361, LEGAL_INTERVAL is 730 days and VERIFY_MAX 24 hours (R392).
(11_host_interface.md: Queue pairs; 13_two_wire_ports.md: MPORT timing and status registers; 14_saggar.md: LPORT commands;
02_time_reference_clocks.md: Device time) -/
def Obligations.ResetHoldsTheGivenValues : Prop :=
  let s := State.reset
  Balanced s.host ∧ s.pending = [] ∧ s.time.dt = 0 ∧ s.time.unset = true
    ∧ (∀ q : Fin 32, let p := s.host.pairs[q]
        p.sqBase = 0 ∧ p.cqBase = 0 ∧ p.sqSize = 0 ∧ p.cqSize = 0 ∧ p.en = false ∧ p.prio = 0 ∧ p.intEn = false ∧ p.vector = q.val
          ∧ p.sqHead = 0 ∧ p.cqTail = 0 ∧ p.enabled = false ∧ p.draining = false ∧ p.err = 0)
    ∧ s.mp.timing.word0 = 0x72626072 ∧ s.mp.timing.word1 = 0x020C7260 ∧ s.mp.control = 0x00000800
    ∧ s.sg.legalInterval = 730 ∧ s.sg.verifyMax = 24

/-- Every step keeps the conservation ledger balanced. For all states s and t: if in s posted = returned + held holds in each of the nine
ledger classes and in each class of the last snapshot, and step of s answers next t, then the same holds in t. It formalises the equation
of R30 (posted - returned - held = 0 for every class at any instant) over every command of the table and over the resumption of held
commands; R30's second sentence, that counts never decrease within an epoch, is not part of it. ResetHoldsTheGivenValues says that the
invariant holds at reset. (01_architecture.md: Conservation) -/
def Obligations.EveryStepKeepsTheLedgerBalanced : Prop :=
  ∀ s t : State, Balanced s.host → step s = .next t → Balanced t.host

/-- Every command changes only the parts of the state that touches names for it. The frame of all 274 commands. For every command i and
states s and t, if exec i s answers next t then t differs from s only within the parts that touches i names (clock, inputs, carvers,
tuners, Slip, paths, contexts, audio, ports, MPORT, Saggar, keys and logs, capture slots, memory, Kiln and Cone, pair, vault, power,
identity, host queues, host registers): every other part is equal. In every case the waiting commands, the fuses and ROM (variant,
LIFECYCLE, serial number, ROM version, MIN_SECVER) are unchanged, what was sent out stays sent with more in front of it, and the ledger
stays balanced if it was. (01_architecture.md: System guarantees (Conservation, Single faults); 12_command_catalogue.md: Device to
Events; 19_start_reset_power.md: Start triggers and states) -/
def Obligations.EveryCommandStaysWithinItsParts : Prop :=
  ∀ (i : Instr) (s t : State), exec i s = .next t → Within (touches i) s t

/-- A step takes at most the front command, keeps fuses and ROM, and only adds to what was sent. For all s and t, if step of s answers
next t, then t's queue is s's queue without its first command (empty stays empty), the variant, LIFECYCLE, serial number, ROM version and
MIN_SECVER are those of s, and the record of what the device sent out in s is the older end of that in t. (20_register_map.md: Identity;
19_start_reset_power.md: Boot sources and images) -/
def Obligations.EveryStepKeepsQueueFusesAndRecord : Prop :=
  ∀ s t : State, step s = .next t → t.pending = s.pending.drop 1 ∧ fuses t = fuses s ∧ s.outbox <:+ t.outbox

/-- A fetched entry is checked in the order of R306; the first failing check decides and the command has no effect. For every host
command (any opcode specification c with any meaning): if it is fetched and a check fails with status st, offset off and detail d, the
step is fail h st off d, and nothing but the host queues and ledger, DT, the class-6 counts and the MPORT changes; if no check fails but
it must wait, it stays held; otherwise its own meaning runs. The checks go in order: opcode and queue, then lengths, then target
(ERR_TARGET, offset 6), then the offending byte with the smallest offset (ERR_PARAM), then a deadline already past (DEADLINE_MISSED).
With checks 1 to 3 passed, tag 0xFFFF, a tag already held on the queue or that of a completion which waits for a slot of it gives
ERR_PARAM at offset 2 with detail DUPLICATE_TAG. (11_host_interface.md: Submission entries; 11_host_interface.md: Completions) -/
def Obligations.FirstFailingCheckDecides : Prop :=
  (∀ (i : Instr) (c : Spec) (body : Held → State → State) (e : Entry) (s v : State) (h : Held) (u : State),
    s.host.resuming = none → fetch c.op e (moment e.t s) = some v → hold c.op i e (shieldCopy c.op e v) = (h, u) →
    (∀ st off d, failing c h u = some (st, off, d) → hostCmd i c body e s = fail h st off d u
        ∧ Within { hostq := true, dt := true, due := true, mp := true } s (fail h st off d u))
      ∧ (failing c h u = none → mustWait h u = true → hostCmd i c body e s = u)
      ∧ (failing c h u = none → mustWait h u = false → isRemote c e = false → hostCmd i c body e s = body h u))
  ∧ (∀ (c : Spec) (h : Held) (u : State) (q : Fin 32), h.entry.src = .queue q → q.val ≠ 0 → c.admin (Entry.args h.entry) = true →
      failing c h u = some (.errOpcode, 0, .adminOnly))
  ∧ (∀ (c : Spec) (h : Held) (u : State), check1 c h.entry = none →
      (∀ x, check2 c h.entry = some x → failing c h u = some x)
        ∧ (check2 c h.entry = none →
          let found := c.target u h.entry.target.toNat && c.targetFor (Entry.args h.entry) u h.entry.target.toNat
          (found = false → failing c h u = some (.errTarget, 6, .none))
            ∧ (found = true → ∀ off d, firstOffence (offences c h u) = some (off, d) → failing c h u = some (.errParam, off, d))
            ∧ (found = true → offences c h u = [] → Entry.hasDeadline h.entry = true → h.entry.deadline.toNat < (now u).toNat →
                failing c h u = some (.deadlineMissed, 0xFFFF, .none))))
  ∧ (∀ l : List Offence, l ≠ [] → ∃ x ∈ l, firstOffence l = some x ∧ ∀ y ∈ l, x.1 ≤ y.1)
  ∧ ∀ (c : Spec) (h : Held) (u : State), check1 c h.entry = none → check2 c h.entry = none →
      (c.target u h.entry.target.toNat && c.targetFor (Entry.args h.entry) u h.entry.target.toNat) = true →
      h.tag = 0xFFFF ∨ (∃ x ∈ earlier h u, x.src = h.src ∧ x.tag = h.tag ∧ x.deferred = false)
        ∨ (∃ q : Fin 32, h.src = .queue q ∧ ∃ x ∈ u.host.pairs[q].wait, x.event = false ∧ x.tag = h.tag) →
      failing c h u = some (.errParam, 2, .duplicateTag)

/-- A tag is unique among the held commands of its queue. A fetched command whose opcode, length and target pass and whose tag is 0xFFFF,
or is the tag of a command still held (not deferred) from the same queue, one whose completion waits for a slot included, completes with
ERR_PARAM, offset 2 and detail DUPLICATE_TAG, changes nothing but the host queues and ledger, DT, class-6 counts and the MPORT, and
leaves every command that was held before it as it was, the earlier one with that tag included. Conversely, a tag other than 0xFFFF that
no such command of the same queue holds is never reported, whatever tags other queues hold. The premise that no held command has the next
identifier holds in every state that a run reaches: identifiers are given in rising order. (R305) -/
def Obligations.TagsAreUniqueAmongHeldCommands : Prop :=
  (∀ (i : Instr) (c : Spec) (body : Held → State → State) (e : Entry) (s v : State) (h : Held) (u : State),
    s.host.resuming = none → fetch c.op e (moment e.t s) = some v → hold c.op i e (shieldCopy c.op e v) = (h, u) →
    check1 c e = none → check2 c e = none → (c.target u e.target.toNat && c.targetFor (Entry.args e) u e.target.toNat) = true →
    (∀ x ∈ s.host.held, x.id ≠ s.host.nextId) →
    e.tag = 0xFFFF ∨ (∃ x ∈ s.host.held, x.src = e.src ∧ x.tag = e.tag ∧ x.deferred = false)
      ∨ (∃ q : Fin 32, e.src = .queue q ∧ ∃ x ∈ s.host.pairs[q].wait, x.event = false ∧ x.tag = e.tag) →
    let t := hostCmd i c body e s
    t = fail h .errParam 2 .duplicateTag u ∧ t.host.held = s.host.held ∧ Within { hostq := true, dt := true, due := true, mp := true } s t)
  ∧ ∀ (c : Spec) (h : Held) (u : State), h.tag ≠ 0xFFFF → (∀ x ∈ earlier h u, x.src = h.src → x.tag = h.tag → x.deferred = true) →
      (∀ q : Fin 32, h.src = .queue q → ∀ x ∈ u.host.pairs[q].wait, x.event = false → x.tag ≠ h.tag) →
      ((2, .duplicateTag) : Offence) ∉ offences c h u

/-- Device, Pair and schedule commands complete with ADMIN_ONLY on every queue but the admin queue. For each opcode of the Device group
(0x01xx), the Pair group (0x0Bxx) and MNT_SCHEDULE_SET, fetched from a submission queue other than 0: the step is a failure with
ERR_OPCODE, offset 0 and detail ADMIN_ONLY, whatever its parameters. For every opcode, check 1 (opcode known and allowed on this queue)
passes on queue 0. (R307) -/
def Obligations.AdminCommandsAreForQueueZero : Prop :=
  (∀ c ∈ [specDevIdentify, specDevSetProfile, specDevRestart, specDevGetHealth, specDevSetEventMask, specDevLedgerRead, specPairJoin,
      specPairLeave, specPairStatus, specPairMirror, specMntScheduleSet],
    ∀ (i : Instr) (body : Held → State → State) (e : Entry) (q : Fin 32) (s v : State) (h : Held) (u : State),
      e.src = .queue q → q.val ≠ 0 → s.host.resuming = none → fetch c.op e (moment e.t s) = some v →
      hold c.op i e (shieldCopy c.op e v) = (h, u) → hostCmd i c body e s = fail h .errOpcode 0 .adminOnly u)
  ∧ ∀ (c : Spec) (e : Entry), e.src = .queue 0 → check1 c e = none

/-- A submission entry is fetched under the rules of completion space and device-wide limit, in the order of turns, and counted. An entry
of queue q can be fetched only if the firmware runs, Dormant is not being entered, the device may send, the pair is enabled and not
draining, ERR is 0, entries are waiting, HELD plus completions not handed back is less than CQ_SIZE - 1, and fewer than 1024 commands are
held; call such a pair ready. A ready pair that is the only ready source, or the only ready one of its PRIO with no ready pair above it
and neither queue 0 nor the MPORT ready, is the next. While queue 0 or a received MPORT entry is ready no other pair is fetched from, and
none of a lower PRIO while one of a higher is ready. The entry of the next source is fetched: SQ_HEAD moves on by one modulo SQ_SIZE,
class 0 counts one more posted and held, class 5 one more returned and one fewer held, and nothing beyond the host queues changes. A
fetched entry becomes the last held command, with its own identifier, not begun and not deferred. (11_host_interface.md: Queue pairs;
01_architecture.md: Conservation; 13_two_wire_ports.md: MPORT commands) -/
def Obligations.FetchTakesTheNextEntry : Prop :=
  (∀ (op : Nat) (e : Entry) (q : Fin 32) (s : State), e.src = .queue q →
    let p := s.host.pairs[q]
    let may := isRunning s = true ∧ s.power.entering = false ∧ canSend s = true ∧ p.en = true ∧ p.enabled = true ∧ p.draining = false ∧ p.err = 0 ∧ p.sqHead ≠ p.sqTail
      ∧ heldOf (.queue q) s + (p.cqSize - 1 - cqFree p) < p.cqSize - 1 ∧ heldAll s < 1024
    (ready q s = true ↔ may)
      ∧ (¬ may → fetch op e s = none)
      ∧ (may → (q.val ≠ 0 → ready 0 s = false ∧ mportReady s = false ∧ ∀ r : Fin 32, r ≠ q → ready r s = true →
          s.host.pairs[r].prio < p.prio) → (q.val = 0 → mportReady s = false) → nextSource s = some (.queue q))
      ∧ (q.val ≠ 0 → ready 0 s = true ∨ mportReady s = true → fetch op e s = none)
      ∧ (∀ r : Fin 32, q.val ≠ 0 → r.val ≠ 0 → ready r s = true → p.prio < s.host.pairs[r].prio → fetch op e s = none)
      ∧ (nextSource s ≠ some (.queue q) → fetch op e s = none)
      ∧ (nextSource s = some (.queue q) → ∃ v, fetch op e s = some v ∧ v.host.pairs[q] = { p with sqHead := (p.sqHead + 1) % p.sqSize }
          ∧ v.host.ledger[0].posted = s.host.ledger[0].posted + 1 ∧ v.host.ledger[0].held = s.host.ledger[0].held + 1
          ∧ v.host.ledger[5].returned = s.host.ledger[5].returned + 1 ∧ v.host.ledger[5].held = s.host.ledger[5].held - 1
          ∧ Within { hostq := true } s v))
  ∧ ∀ (op : Nat) (cmd : Instr) (e : Entry) (s : State),
      let (h, u) := hold op cmd e s
      h = { id := s.host.nextId, src := e.src, tag := e.tag, op := op, entry := e, cmd := cmd, begun := false, deferred := false, aux := [] }
        ∧ u.host.held = s.host.held ++ [h]

/-- A completion is written to its command's queue, waits for a slot, or enters the MPORT result store. Ending a command that was not
deferred removes it, and it alone by identifier, from the held commands. From queue q: if the device may send, the pair is enabled, a
slot is free and nothing waits, the entry with the command's tag, the status, the present DT and the result is written into slot CQ_TAIL
with the ring's PHASE, EPOCH4 and SQ_HEAD; CQ_TAIL moves on, PHASE turns at the ring's end, and classes 0 and 5 each count one returned;
an output area of the command lies in host memory before it; otherwise the entry waits behind the others, its output area with it, and
neither the ledger nor the output changes. From the MPORT: the entry with its output bytes joins the result store and class 0 counts one
returned. (11_host_interface.md: Completions; 11_host_interface.md: Queue pairs; 13_two_wire_ports.md: MPORT commands) -/
def Obligations.CompletionsGoWhereTheirCommandsCameFrom : Prop :=
  ∀ (h : Held) (st : Status) (res area : List Byte) (at_ : DT) (s : State), h.deferred = false →
    let t := finishAt h st res area at_ s
    let e : CqEntry := { tag := h.tag, status := statusCode st, dt := now s, result := res, event := false }
    t.host.held = s.host.held.filter (·.id != h.id)
      ∧ (∀ q, h.src = .queue q → let p := s.host.pairs[q]
          (canSend s = true → p.enabled = true → 0 < cqFree p → p.wait = [] →
            .cqe q.val p.cqTail p.phase (epoch4 s) (BitVec.ofNat 16 p.sqHead) e ∈ t.outbox
              ∧ (area ≠ [] → .area (BitVec.ofNat 64 (le h.entry.param 0 8)) area ∈ t.outbox)
              ∧ (p.cqTail + 1 < p.cqSize → t.host.pairs[q].cqTail = p.cqTail + 1 ∧ t.host.pairs[q].phase = p.phase)
              ∧ (p.cqSize ≤ p.cqTail + 1 → t.host.pairs[q].cqTail = 0 ∧ t.host.pairs[q].phase = !p.phase)
              ∧ t.host.ledger[0].returned = s.host.ledger[0].returned + 1 ∧ t.host.ledger[0].held = s.host.ledger[0].held - 1
              ∧ t.host.ledger[5].returned = s.host.ledger[5].returned + 1 ∧ t.host.ledger[5].held = s.host.ledger[5].held - 1)
            ∧ (canSend s = false ∨ p.enabled = false ∨ cqFree p = 0 ∨ p.wait ≠ [] →
                t.host.pairs[q] = { p with wait := p.wait ++ [e], unwritten := p.unwritten ++ [h.unwritten area] }
                  ∧ t.outbox = s.outbox ∧ t.host.ledger = s.host.ledger))
      ∧ (h.src = .mport → t.mp.results = s.mp.results ++ [{ entry := e, area := area }] ∧ t.outbox = s.outbox
          ∧ t.host.ledger[0].returned = s.host.ledger[0].returned + 1 ∧ t.host.ledger[0].held = s.host.ledger[0].held - 1)

/-- A deferred command completes with OK_DEFERRED and reports its end with DEFERRED_DONE; with a deadline it misses it. Deferring a
command without a deadline sends a completion with status 0x0001 and keeps the command, marked deferred. Deferring a command with the
DEADLINE flag ends it with DEADLINE_MISSED instead (R310). Ending a deferred command with a status raises DEFERRED_DONE with its tag,
queue, that status, its opcode and the DT given, and removes it from the held commands. (11_host_interface.md: Completions;
11_host_interface.md: Submission entries) -/
def Obligations.DeferredCommandsReportTheirEnd : Prop :=
  (∀ (h : Held) (fs : List (Nat × Nat × Int)) (s : State), h.deferred = false → h.entry.flags.getLsbD 2 = false →
    deferCmd h fs s = modHeld h.id (fun x => { x with deferred := true })
      (sendEntry h { tag := h.tag, status := 0x0001, dt := now s, result := result fs, event := false } [] s))
  ∧ (∀ (h : Held) (fs : List (Nat × Nat × Int)) (s : State), h.deferred = false → h.entry.flags.getLsbD 2 = true →
      deferCmd h fs s = reject h .deadlineMissed s)
  ∧ ∀ (h : Held) (st : Status) (res area : List Byte) (at_ : DT) (s : State), h.deferred = true →
      finishAt h st res area at_ s = raise .deferredDone
        [(16, 2, h.tag.toNat), (18, 1, qidOf h.src), (20, 2, (statusCode st).toNat), (22, 2, h.op), (24, 8, dtInt at_)] (dropHeld h.id s)

/-- A masked event is not produced; others are numbered as written, wait, replace a threshold event, or are held back. Raising a maskable
event whose mask bit is set changes nothing. Otherwise the entry has tag 0xFFFF, the event code and the DT of its instant: with space in
the internal queue and a writable completion queue 0 it is written with the present EVT_SEQ, which then rises by one; without a free slot
it waits and EVT_SEQ stays; with the internal queue full or events held back, a THRESH event replaces the one of the same code and path
that has waited longest, that one alone, and any other is held back by its block. The events that cannot be masked are exactly SPLL_LOST,
TIME_DISCONT, GAP_RECORDED, SEAL_EVENT and BUS_STUCK. (11_host_interface.md: Completions; 01_architecture.md: Timeliness) -/
def Obligations.EventsAreMaskedNumberedAndKept : Prop :=
  (∀ (ev : Ev) (dt : DT) (res : List Byte) (s : State), s.host.evMask.getLsbD (evBit ev) = true → unmaskable.getLsbD (evBit ev) = false →
    raiseAt ev dt res s = s)
  ∧ (∀ (ev : Ev) (dt : DT) (res : List Byte) (s : State),
      s.host.evMask.getLsbD (evBit ev) = false ∨ unmaskable.getLsbD (evBit ev) = true →
      let e : CqEntry := { tag := 0xFFFF, status := evCode ev, dt := dt, result := res, event := true }
      let t := raiseAt ev dt res s
      let p := s.host.pairs[0]
      let n := (internalEvents s).length
      (n < 256 → s.host.heldBack = [] →
        (canSend s = true → p.enabled = true → 0 < cqFree p → p.wait = [] →
          .cqe 0 p.cqTail p.phase (epoch4 s) s.host.evtSeq e ∈ t.outbox ∧ t.host.evtSeq = s.host.evtSeq + 1)
          ∧ (canSend s = false ∨ p.enabled = false ∨ cqFree p = 0 ∨ p.wait ≠ [] →
              t.host.pairs[0] = { p with wait := p.wait ++ [e] } ∧ t.host.evtSeq = s.host.evtSeq))
        ∧ (256 ≤ n ∨ s.host.heldBack ≠ [] → t.host.evtSeq = s.host.evtSeq ∧
            if (ev = .threshHigh ∨ ev = .threshLow) ∧ p.wait.any (sameThresh e) = true then
              ∃ a o b, p.wait = a ++ o :: b ∧ sameThresh e o = true ∧ (∀ x ∈ a, sameThresh e x = false)
                ∧ t.host.pairs[0] = { p with wait := a ++ replaceThresh o e :: b }
            else t.host.heldBack = s.host.heldBack ++ [e] ∧ t.host.pairs[0] = p))
  ∧ ∀ ev : Ev, unmaskable.getLsbD (evBit ev) = true ↔
      ev = .spllLost ∨ ev = .timeDiscont ∨ ev = .gapRecorded ∨ ev = .sealEvent ∨ ev = .busStuck

/-- Doorbells, pair enable and drain, queued entries and coalescing act on their pair or ring. Doorbells: an index within the ring and
the slots that may be posted or handed back sets the tail or head; any other sets ERR 1 (submission), ERR 2 (completion) or the ring's
error; on a disabled pair, a ring not set up or a closed BAR nothing happens. EN = 1 with valid bases and sizes enables the pair with
fresh positions and phase; invalid ones set ERR 3; EN = 0 drains: commands not begun end with ABORTED_HOST, and ENABLED falls once
nothing is held. A queued completion, with its output area before it, or return entry is written, oldest first, when a slot is free; the
return entry clause is stated with no command held and for classes 1 to 3. A coalescing time that has run out sends the vector and clears
the count. Completion of sqDoorbellWrite, cqDoorbellWrite, returnRingDoorbellWrite, pairEnableWrite, pairDisableWrite, pairDrainDone,
queuedEntryWrite and coalTimeExpiry. (11_host_interface.md: Queue pairs; 11_host_interface.md: Interrupts; 11_host_interface.md: Buffer
rings; 20_register_map.md: Interrupt coalescing) -/
def Obligations.QueuesFollowTheirRegisters : Prop :=
  (∀ (t : DT) (q : Fin 32) (value : BitVec 32) (s : State), Gives (.sqDoorbellWrite t q value) s fun u =>
    let m := moment t s
    let p := s.host.pairs[q]
    let i := value.toNat % 8192
    let fits := i < p.sqSize ∧ ringSteps p.sqSize p.sqHead p.sqTail + ringSteps p.sqSize p.sqTail i < p.sqSize
    (barOpen m = false ∨ p.enabled = false → u = m)
      ∧ (barOpen m = true → p.enabled = true → ¬ fits → u.host.pairs[q] = { p with err := 1 })
      ∧ (barOpen m = true → p.enabled = true → fits → u.host.pairs[q] = { p with sqTail := i }))
  ∧ (∀ (t : DT) (q : Fin 32) (value : BitVec 32) (s : State), Gives (.cqDoorbellWrite t q value) s fun u =>
      let m := moment t s
      let p := s.host.pairs[q]
      let i := value.toNat % 8192
      let fits := i < p.cqSize ∧ ringSteps p.cqSize p.cqHead i ≤ ringSteps p.cqSize p.cqHead p.cqTail
      (barOpen m = false ∨ p.enabled = false → u = m)
        ∧ (barOpen m = true → p.enabled = true → ¬ fits → u.host.pairs[q] = { p with err := 2 })
        ∧ (barOpen m = true → p.enabled = true → fits → u.host.pairs[q] = { p with cqHead := i }))
  ∧ (∀ (t : DT) (c : Fin 4) (value : BitVec 32) (s : State), Gives (.returnRingDoorbellWrite t c value) s fun u =>
      let m := moment t s
      let r := s.host.rings[c]
      let i := value.toNat % 8192
      let fits := i < r.size ∧ ringSteps r.size r.head i ≤ ringSteps r.size r.head r.tail
      (barOpen m = false ∨ r.setup = false → u = m)
        ∧ (barOpen m = true → r.setup = true → ¬ fits → u.host.rings[c] = { r with err := true })
        ∧ (barOpen m = true → r.setup = true → fits → u.host.rings[c] = { r with head := i }))
  ∧ (∀ (t : DT) (q : Fin 32) (value : BitVec 32) (s : State), Gives (.pairEnableWrite t q value) s fun u =>
      let m := moment t s
      let p := setPairControl value s.host.pairs[q]
      let bad := s.pair.role = 2 ∨ baseOk p.sqBase (64 * p.sqSize) = false ∨ baseOk p.cqBase (32 * p.cqSize) = false
        ∨ sizeOk p.sqSize = false ∨ sizeOk p.cqSize = false
      (barOpen m = false ∨ value.getLsbD 0 = false → u = m)
        ∧ (barOpen m = true → value.getLsbD 0 = true →
            (p.enabled = true ∨ p.draining = true → u.host.pairs[q] = p)
              ∧ (p.enabled = false → p.draining = false → bad → u.host.pairs[q] = { p with en := true, err := 3 })
              ∧ (p.enabled = false → p.draining = false → ¬ bad → u.host.pairs[q] =
                  { p with en := true, enabled := true, err := 0, sqHead := 0, sqTail := 0, cqTail := 0, cqHead := 0, phase := true })))
  ∧ (∀ (t : DT) (q : Fin 32) (value : BitVec 32) (s : State), Gives (.pairDisableWrite t q value) s fun u =>
      let m := moment t s
      let p := setPairControl value s.host.pairs[q]
      (barOpen m = false ∨ value.getLsbD 0 = true → u = m)
        ∧ (barOpen m = true → value.getLsbD 0 = false →
            ∃ v, v.host.pairs[q] = { p with en := false, draining := p.enabled }
              ∧ (p.enabled = false → u = v)
              ∧ (p.enabled = true → u = (notBegun (.queue q) v).foldl (withdraw .abortedHost) v ∧ notBegun (.queue q) u = [])))
  ∧ (∀ (t : DT) (q : Fin 32) (s : State), Gives (.pairDrainDone t q) s fun u =>
      let m := moment t s
      let p := s.host.pairs[q]
      (p.draining = true → heldOf (.queue q) m = 0 → u.host.pairs[q] = { p with enabled := false, draining := false })
        ∧ (p.draining = false ∨ heldOf (.queue q) m ≠ 0 → u = m))
  ∧ (∀ (t : DT) (q : Fin 32) (s : State), Gives (.queuedEntryWrite t (.cq q)) s fun u => 
      let m := moment t s
      (s.host.pairs[q].wait = [] ∨ cqWritable q m = false → u = m)
        ∧ ∀ x rest, s.host.pairs[q].wait = x :: rest → cqWritable q m = true →
            ∃ v, u = notifyRise m (refill (cqWrite q x v))
              ∧ v.host.pairs[q] = { s.host.pairs[q] with
                  wait := rest, unwritten := if x.event then s.host.pairs[q].unwritten else s.host.pairs[q].unwritten.drop 1 }
              ∧ ∀ y l a, x.event = false → s.host.pairs[q].unwritten = y :: l → y.area = some a → .area a.1 a.2 ∈ v.outbox)
  ∧ (∀ (t : DT) (c : Fin 4) (s : State), Gives (.queuedEntryWrite t (.ret c)) s fun u =>
      let m := moment t s
      s.host.held = [] → c.val ≠ 3 →
        (s.host.rings[c].wait = [] ∨ retWritable c m = false → u = m)
          ∧ ∀ x rest, s.host.rings[c].wait = x :: rest → retWritable c m = true →
              ∃ v, u = retWrite c x v ∧ v.host.rings[c] = { s.host.rings[c] with wait := rest })
  ∧ (∀ (t : DT) (q : Fin 32) (s : State), Gives (.coalTimeExpiry t (.cq q)) s fun u =>
      let m := moment t s
      let p := s.host.pairs[q]
      (p.intEn = true → coalDue p.coalFrom (now m) = true → ∃ v, u = sendMsix p.vector v ∧ v.host.pairs[q] = { p with unsignalled := 0, coalFrom := none })
        ∧ (p.intEn = false ∨ coalDue p.coalFrom (now m) = false → u = m))
  ∧ (∀ (t : DT) (c : Fin 4) (s : State), Gives (.coalTimeExpiry t (.ret c)) s fun u =>
      let m := moment t s
      (coalDue s.host.rrCoalFrom (now m) = true → ∃ v, u = sendMsix s.host.rings[c].vector v
          ∧ v.host.rrUnsignalled = 0 ∧ v.host.rrCoalFrom = none)
        ∧ (coalDue s.host.rrCoalFrom (now m) = false → u = m))

/-- BUF_POST, snapshot, MSI-X, Bus Master Enable, link, register writes, deadlines and unknown opcodes. BUF_POST sets up a return ring
that holds no buffer (else ERR_STATE), posts buffers within 65 536 per class (else NO_RESOURCE) and reclaims. A LEDGER_SNAP write copies
the ledger, its DT and a new identifier; unmasking an MSI-X vector sends it if pending and the device may send; Bus Master Enable and the
link open and close what the device may send, and what waited resumes; a link that trains has one of the speeds and widths allowed. A
register write at or above 0x10000 is discarded and counted; a 32-bit write acts on its word, a 64-bit write on its low half and then its
high half; the pair registers take the value only while the pair is not enabled. At its deadline a command not yet begun ends with
DEADLINE_MISSED. An unknown or disallowed opcode ends with ERR_OPCODE, with ADMIN_ONLY exactly when the opcode is known and the source is
not the MPORT. Completion of bufPost, ledgerSnapWrite, msixVectorUnmask, busMasterEnableSet, busMasterEnableClear, pcieLinkDown,
pcieLinkUp, registerWrite, commandDeadlineExpiry and unknownOpcode. (11_host_interface.md: Buffer rings; 11_host_interface.md: PCIe
endpoint; 11_host_interface.md: The ledger at the interface; 11_host_interface.md: Submission entries; 20_register_map.md: Address map;
12_command_catalogue.md: Memory and buffers) -/
def Obligations.HostInterfaceAnswersItsWrites : Prop :=
  (∀ (e : Entry) (c : Fin 4), postClass (Entry.args e) = c.val + 1 → Does (.bufPost e) specBufPost e fun h u t =>
    let a := Entry.args e
    let r := u.host.rings[c]
    let n := postCount a
    (postAction a = 0 → heldBuffers c u ≠ 0 → t = reject h .errState u)
      ∧ (postAction a = 0 → heldBuffers c u = 0 → ∃ v, t = finish h .ok [] v
          ∧ v.host.rings[c] = { r with setup := true, base := BitVec.ofNat 64 (le a 8 8), size := le a 16 2, vector := le a 2 2,
                                       head := 0, tail := 0, phase := true, err := false })
      ∧ (postAction a = 1 → r.setup = false ∨ 65536 < heldBuffers c u + n → t = reject h .noResource u)
      ∧ (postAction a = 1 → r.setup = true → heldBuffers c u + n ≤ 65536 → ∃ v,
          t = resumeClass c (finish h .ok [(16, 2, (n : Int)), (20, 4, (heldBuffers c v : Int))] v)
            ∧ v.host.rings[c] = { r with buffers := r.buffers ++ (List.range n).map (postBuffer a) })
      ∧ (postAction a ≠ 0 → postAction a ≠ 1 → r.buffers = [] → ∃ v, t = endReclaims c v ∧ v = note h [0] u))
  ∧ (∀ (t : DT) (s : State), Gives (.ledgerSnapWrite t) s fun u =>
      let m := moment t s
      (barOpen m = true → u.host.snap.id = m.host.snap.id + 1 ∧ u.host.snap.rows = m.host.ledger ∧ u.host.snap.dt = now m
          ∧ u.host.ledger = m.host.ledger)
        ∧ (barOpen m = false → u = m))
  ∧ (∀ (t : DT) (v : Fin 33) (s : State), Gives (.msixVectorUnmask t v) s fun u =>
      let m := moment t s
      (barOpen m = false → u = m)
        ∧ (barOpen m = true → u.host.msix[v].masked = false
            ∧ (canSend m = true → u.host.pba.getLsbD v.val = false)
            ∧ (canSend m = false → u.host.pba = m.host.pba ∧ u.outbox = m.outbox)))
  ∧ (∀ (t : DT) (s : State), Gives (.busMasterEnableSet t) s fun u =>
      let m := moment t s
      (s.host.linkUp = true → ∃ v, u = resumeHost v ∧ v.host = { m.host with bme := true })
        ∧ (s.host.linkUp = false → u = m))
  ∧ (∀ (t : DT) (s : State), Gives (.busMasterEnableClear t) s fun u =>
      let m := moment t s
      (s.host.linkUp = true → u.host = { m.host with bme := false } ∧ canSend u = false)
        ∧ (s.host.linkUp = false → u = m))
  ∧ (∀ (t : DT) (s : State), Gives (.pcieLinkDown t) s fun u =>
      u.host = { (moment t s).host with linkUp := false } ∧ canSend u = false ∧ barOpen u = false)
  ∧ (∀ (t : DT) (s : State), Gives (.pcieLinkUp t) s fun u =>
      let m := moment t s
      (s.power.porstN = true → s.power.st ≠ .dormant → ∃ v, u = resumeHost v
          ∧ v.host = { m.host with linkUp := true, d3hot := false, speed := v.host.speed, width := v.host.width }
          ∧ 1 ≤ v.host.speed ∧ v.host.speed ≤ 3 ∧ 1 ≤ v.host.width ∧ v.host.width ≤ 2)
        ∧ (s.power.porstN = false ∨ s.power.st = .dormant → u = m))
  ∧ (∀ (t : DT) (off : Nat) (wide : Bool) (value : BitVec 64) (s : State), Gives (.registerWrite t off wide value) s fun u =>
      let m := moment t s
      (s.host.linkUp = false ∨ s.power.st = .dormant → u = m)
        ∧ (s.host.linkUp = true → s.power.st ≠ .dormant →
            (0x10000 ≤ off → u.host = { m.host with bar2Discarded := m.host.bar2Discarded + 1 })
              ∧ (off < 0x10000 → wide = false → off % 4 = 0 → u = writeReg off (value.setWidth 32) m)
              ∧ (off < 0x10000 → wide = true → off % 8 = 0 →
                  u = writeReg (off + 4) (value.extractLsb' 32 32) (writeReg off (value.setWidth 32) m))))
  ∧ (∀ (q : Fin 32) (r : Fin 8) (v : BitVec 32) (s : State),
      let u := writeReg (0x100 + 0x20 * q.val + 4 * r.val) v s
      (barOpen s = false ∨ s.host.pairs[q].enabled = true → u.host.pairs[q] = s.host.pairs[q])
        ∧ (barOpen s = true → s.host.pairs[q].enabled = false →
            (r.val = 1 → u.host.pairs[q].sqBase = joinHalves v (s.host.pairs[q].sqLow.getD (s.host.pairs[q].sqBase.setWidth 32)))
              ∧ (r.val = 3 → u.host.pairs[q].cqBase = joinHalves v (s.host.pairs[q].cqLow.getD (s.host.pairs[q].cqBase.setWidth 32)))
              ∧ (r.val = 4 → u.host.pairs[q].sqSize = v.toNat % 8192 ∧ u.host.pairs[q].cqSize = v.toNat / 65536 % 8192)))
  ∧ (∀ (t : DT) (src : Source) (tag : BitVec 16) (s : State), Gives (.commandDeadlineExpiry t src tag) s fun u =>
      let m := moment t s
      let late := (notBegun src m).filter fun h => h.tag == tag && Entry.hasDeadline h.entry && decide (h.entry.deadline.toNat ≤ (now m).toNat)
      (late = [] → u = m) ∧ (∀ h rest, late = h :: rest → u = withdraw .deadlineMissed m h))
  ∧ ∀ (e : Entry) (op : BitVec 16) (s : State), Gives (.unknownOpcode e op) s fun u =>
      let m := moment e.t (modHost (fun h => { h with resuming := none }) s)
      (knownOpcode op.toNat = true → disallowed op.toNat e = false → u = m)
        ∧ ((knownOpcode op.toNat = false ∨ disallowed op.toNat e = true) →
            (fetch op.toNat e m = none → u = m)
              ∧ ∀ v, fetch op.toNat e m = some v → ∃ h w d, u = fail h .errOpcode 0 d w
                  ∧ (h, w) = hold op.toNat (.unknownOpcode e op) e (shieldCopy op.toNat e v)
                  ∧ (d = .adminOnly ↔ knownOpcode op.toNat = true ∧ e.src ≠ .mport))

/-- Device and diagnostic commands answer and set what the catalogue says. DEV_IDENTIFY gives 64 bytes. DEV_SET_PROFILE: ERR_STATE for
profile 3 or in SHIELD, NO_RESOURCE where limits or Wheel placement refuse, else the new profile and the old one in the result.
DEV_RESTART orders a warm or a cold start, ERR_STATE in RECOVERY. DEV_GET_HEALTH gives the figures and no more. DEV_SET_EVENT_MASK gives
the old mask and sets the new one, nothing else of the host interface. DEV_LEDGER_READ takes a new snapshot of the ledger and gives it
(288 bytes, or 2336 with positions). DIAG_READ_COUNTERS gives the counters and, with READ_CLEAR, clears the shared ones. DIAG_LOOPBACK
returns 16 inline bytes or copies by DMA with its CRC-32. Completion of devIdentify, devSetProfile, devRestart, devGetHealth,
devSetEventMask, devLedgerRead, diagReadCounters and diagLoopback. (12_command_catalogue.md: Device; 01_architecture.md: Operating
profiles; 11_host_interface.md: The ledger at the interface; 12_command_catalogue.md: Maintenance, pair, Saggar and diagnostics) -/
def Obligations.DeviceCommandsAnswerAndSet : Prop :=
  (∀ e : Entry, Does (.devIdentify e) specDevIdentify e fun h u t =>
    t = finishOut h .ok (identBytes u) none u ∧ (identBytes u).length = 64)
  ∧ (∀ e : Entry, Does (.devSetProfile e) specDevSetProfile e fun h u t =>
      let new := le (Entry.args e) 0 1
      let old := u.cx.profile
      (new = 3 ∨ inShield u = true → t = reject h .errState u)
        ∧ (new ≠ 3 → inShield u = false → exceeds new u = true → t = reject h .noResource u)
        ∧ (new ≠ 3 → inShield u = false → exceeds new u = false →
            ((emptied old new).foldl (emptyWheel old new) (some u) = none → t = reject h .noResource u)
              ∧ ∀ v, (emptied old new).foldl (emptyWheel old new) (some u) = some v →
                let w := setProfile old new v
                (old ≠ new → reserveKept (placed w) w = false → t = reject h .noResource u)
                  ∧ (old = new ∨ reserveKept (placed w) w = true →
                      t = finish h .ok [(16, 1, (old : Int)), (24, 8, dtInt (now w))] w ∧ w.cx.profile = new)))
  ∧ (∀ e : Entry, Does (.devRestart e) specDevRestart e fun h u t =>
      let cold := le (Entry.args e) 0 1
      (u.power.st = .recovery → t = reject h .errState u)
        ∧ (u.power.st ≠ .recovery → cold = 0 → t = warmStart u.power.tHot false (some h) u)
        ∧ (u.power.st ≠ .recovery → cold ≠ 0 → t = orderedCold u))
  ∧ (∀ e : Entry, Does (.devGetHealth e) specDevGetHealth e fun h u t => t = finishOut h .ok (healthFigures u) none u)
  ∧ (∀ e : Entry, Does (.devSetEventMask e) specDevSetEventMask e fun h u t =>
      ∃ v, t = finish h .ok [(24, 8, (u.host.evMask.toNat : Int))] v
        ∧ v.host = { u.host with evMask := BitVec.ofNat 64 (le (Entry.args e) 8 8) })
  ∧ (∀ e : Entry, Does (.devLedgerRead e) specDevLedgerRead e fun h u t =>
      ∃ area v, t = finishOut h .ok area
          (some [(16, 2, (v.host.snap.id.toNat : Int)), (20, 4, (u.host.epoch.toNat : Int)), (24, 8, dtInt (now u))]) v
        ∧ v.host.snap.id = u.host.snap.id + 1 ∧ v.host.snap.rows = u.host.ledger ∧ v.host.ledger = u.host.ledger
        ∧ area.length = if le (Entry.args e) 12 1 = 1 then 288 + 2048 else 288)
  ∧ (∀ e : Entry, Does (.diagReadCounters e) specDiagReadCounters e fun h u t =>
      ∃ v, t = finishOut h .ok (counterFigures u) none v
        ∧ (le (Entry.args e) 12 1 ≠ 1 → v = u)
        ∧ (le (Entry.args e) 12 1 = 1 → v.mem.corrected = 0 ∧ v.mem.multibit = 0 ∧ v.host.bar2Discarded = 0
            ∧ (∀ i : Fin 2, v.rf.wb[i] = { u.rf.wb[i] with overloads := 0, clipped := 0 })
            ∧ (∀ n : Fin 4, v.rf.tuners[n] = { u.rf.tuners[n] with overloads := 0, clipped := 0 })
            ∧ (∀ i : Fin 4, v.port.ains[i] = { u.port.ains[i] with parity := 0, biphase := 0 })
            ∧ ∀ k : Fin 4, v.pair.crc[k] = 0))
  ∧ (∀ (e : Entry) (source : List Byte), Does (.diagLoopback e source) specDiagLoopback e fun h u t =>
      let a := Entry.args e
      (le a 0 1 = 0 → t = finishAt h .ok (fit 16 ((a.drop 16).take 16)) [] (now u) u)
        ∧ (le a 0 1 ≠ 0 → ∃ v data, t = finish h .ok [(16, 4, (le a 24 4 : Int)), (20, 4, ((crc32 data).toNat : Int))] v
            ∧ data = fit (le a 24 4) source ∧ v.outbox = .area (BitVec.ofNat 64 (le a 16 8)) data :: u.outbox))

/-- The DT of a step is the larger of the DT before and the instant of the command. While DT runs, the DT at the instant of a step is the
maximum of the DT before it and the DT that the command carries, so no command moves DT backwards by its instant (R46); while DT does not
run, the instant changes nothing. Log entry 6: every event carries its DT. (02_time_reference_clocks.md: Device time) -/
def Obligations.TimeNeverRunsBack : Prop :=
  ∀ t s, (s.time.running = true → (now (moment t s)).toNat = max (now s).toNat t.toNat) ∧ (s.time.running = false → moment t s = s)

/-- A tick advances the DT accumulator by exactly 1 832 519 + 3559/9375 units, without arithmetic error. Counted in units of 2^-48 s /
9375, the accumulator with its residue rises on every tick by exactly (1 832 519 + rate adjustment) * 9375 + 3559, four times that on the
backup count (R51), and the residue stays below 9375, as long as the sum stays within the 80 bits of the accumulator. With no rate
adjustment this is the nominal increment of R45, so nominal DT accumulates no error over any number of ticks. (R45) -/
def Obligations.TickAdvancesDtExactly : Prop :=
  ∀ u : TimeSt, u.residue < 9375 → 0 ≤ 1832519 + u.rateAdj →
    let k : Int := if u.backup then 4 else 1
    let units (v : TimeSt) : Int := ((v.dt.toNat * 65536 + v.dtLow.toNat) * 9375 + v.residue : Nat)
    units u + k * ((1832519 + u.rateAdj) * 9375 + 3559) < 2 ^ 80 * 9375 →
    (tickTime u).residue < 9375 ∧ units (tickTime u) = units u + k * ((1832519 + u.rateAdj) * 9375 + 3559)

/-- TIME_GET and TIME_DISCIPLINE_STATUS give the time state and change nothing else. TIME_GET completes with OK and gives DT, TIME_UNSET,
the discipline state, the active SPLL and whether the spare is aligned. TIME_DISCIPLINE_STATUS completes with OK and its figure list. The
next state is the end of the command and nothing more. Completion of timeGet and timeDisciplineStatus. (02_time_reference_clocks.md: Time
commands and parameters; 12_command_catalogue.md: Time) -/
def Obligations.TimeReadsComplete : Prop :=
  (∀ e, Does (.timeGet e) specTimeGet e fun h u t =>
    t = finish h .ok [(16, 8, dtInt u.time.dt), (24, 1, bit u.time.unset), (25, 1, discCode u.time.disc), (26, 1, bit u.time.activeB),
      (27, 1, bit u.time.spareAligned)] u)
  ∧ ∀ e, Does (.timeDisciplineStatus e) specTimeDisciplineStatus e fun h u t => t = finishOut h .ok (disciplineArea u.time) none u

/-- TIME_SET steps at the next second or PPS edge, or slews; a step never goes backwards once DT is set. TIME_SET: AT_PPS waits for the
edge with a qualified PPSIN and else ends with ERR_STATE; STEP, and any mode but AT_PPS while DT is unset, waits for the next whole
second; SLEW sets a slew of the difference at the configured rate with the sign of the difference and leaves DT as it is. At its instant
a step gives DT its new value, clears TIME_UNSET and any slew, and the result gives both values; a step backwards of a set DT ends with
ERR_PARAM. When a slew's target is reached the command ends with its start and end, the rate adjustment is 0, and a RETURNING loop with
neither a command nor another slew decided goes on to ACQUIRE. Completion of timeSet, timeSetStepApply and slewTargetReached.
(02_time_reference_clocks.md: Device time; 02_time_reference_clocks.md: Time commands and parameters) -/
def Obligations.TimeSetActs : Prop :=
  (∀ e, Does (.timeSet e) specTimeSet e fun h u t =>
    let a := Entry.args e
    let v : DT := BitVec.ofNat 64 (le a 8 8)
    (le a 0 1 = 2 → u.time.ppsQual = true → t = park h [1, 0] u)
      ∧ (le a 0 1 = 2 → u.time.ppsQual = false → t = reject h .errState u)
      ∧ (le a 0 1 ≠ 2 → (le a 0 1 = 0 ∨ u.time.unset = true) → t = park h [0, dtInt (nextSecond (now u))] u)
      ∧ (le a 0 1 = 1 → u.time.unset = false →
          t.time.slew = some { left := dtInt v - dtInt (now u), since := now u, cmd := some h.id, cfgRate := true, began := now u }
            ∧ t.time.rateAdj.natAbs = (rateAdjOf (fget u.time.cfg 0x0106)).natAbs
            ∧ (v.toNat < (now u).toNat → t.time.rateAdj ≤ 0) ∧ ((now u).toNat ≤ v.toNat → 0 ≤ t.time.rateAdj) ∧ t.time.dt = u.time.dt))
  ∧ (∀ t s h, (waiting 0x0200 0 (moment t s)).filter (timeSetDue (now (moment t s))) = [h] →
      let old := now (moment t s)
      let v : DT := BitVec.ofNat 64 (le (Entry.args h.entry) 8 8)
      ((s.time.unset = true ∨ old.toNat < v.toNat) →
        Gives (.timeSetStepApply t) s fun u => ∃ w, u = finish h .ok [(16, 8, dtInt old), (24, 8, dtInt v)] w ∧
          w.time.dt = v ∧ w.time.unset = false ∧ w.time.slew = none)
      ∧ (s.time.unset = false → v.toNat ≤ old.toNat →
        Gives (.timeSetStepApply t) s fun u => u = fail h .errParam (Entry.offset h.entry 8) .outOfRange (moment t s)))
  ∧ ∀ t s w, s.time.slew = some w →
      (∀ id h, w.cmd = some id → findHeld id s = some h → Gives (.slewTargetReached t) s fun u => ∃ x,
        u = finish h .ok [(16, 8, dtInt w.began), (24, 8, dtInt (now x))] x ∧ x.time.dt = (moment t s).time.dt ∧ x.time.slew = none ∧ x.time.rateAdj = 0)
      ∧ (w.cmd = none → Gives (.slewTargetReached t) s fun u => u.time.slew = none ∧ u.time.rateAdj = 0 ∧
        (s.time.disc = .returning → s.time.decided = none → u.time.disc = .acquire))

/-- The discipline loop holds over, holds phase, acquires and returns as its references go and come. Loss of REFIN while tracking in a
REF mode gives HOLDOVER with the held word, the tune word unchanged; loss of PPSIN while tracking gives HOLDOVER in PPS mode and
PHASE_HOLD in the combined mode; elsewhere the state stays. REFIN qualified gives ACQUIRE or RETURNING as the mode and state say. In
Dormant each of these only notes whether the reference is there. RETURNING in the combined mode without PPSIN for 10 s gives PHASE_HOLD.
The PPSOUT pulse begins on the tick that reaches a whole DT second and, after its width, ends. Completion of refinLost, ppsinLost,
refinQualified, returningPpsTimeout and ppsoutPulse. (02_time_reference_clocks.md: Reference discipline; 02_time_reference_clocks.md:
Return of the reference) -/
def Obligations.ReferencesAreLostAndReturn : Prop :=
  (∀ (t : DT) (s : State), s.time.refinQual = true → Gives (.refinLost t) s fun u => u.time.refinQual = false ∧ u.time.tune = s.time.tune
      ∧ ((modeNow s = 1 ∨ modeNow s = 3) → tracking s.time.disc = true → s.power.st ≠ .dormant →
          u.time.disc = .holdover ∧ u.time.held = heldWord (now (moment t s)) s.time)
      ∧ (¬ (modeNow s = 1 ∨ modeNow s = 3) ∨ tracking s.time.disc = false ∨ s.power.st = .dormant → u.time.disc = s.time.disc))
  ∧ (∀ (t : DT) (s : State), s.time.ppsQual = true → Gives (.ppsinLost t) s fun u => u.time.ppsQual = false
      ∧ (tracking s.time.disc = true → modeNow s = 2 → s.power.st ≠ .dormant →
          u.time.disc = .holdover ∧ u.time.held = heldWord (now (moment t s)) s.time)
      ∧ (tracking s.time.disc = true → modeNow s = 3 → s.power.st ≠ .dormant → u.time.disc = .phaseHold ∧ u.time.measuring = false)
      ∧ (tracking s.time.disc = false ∨ (modeNow s ≠ 2 ∧ modeNow s ≠ 3) ∨ s.power.st = .dormant → u.time.disc = s.time.disc))
  ∧ (∀ (t : DT) (s : State), Gives (.refinQualified t) s fun u => u.time.refinQual = true
      ∧ (s.power.st ≠ .dormant →
          (modeNow s = 1 → (s.time.disc = .holdover ∨ s.time.disc = .free) → u.time.disc = .acquire)
          ∧ (modeNow s = 3 → s.time.disc = .holdover → u.time.disc = .returning)
          ∧ (modeNow s = 3 → s.time.disc = .free → u.time.disc = .acquire ∧ u.time.measuring = true))
      ∧ ((modeNow s ≠ 1 ∧ modeNow s ≠ 3) ∨ (s.time.disc ≠ .holdover ∧ s.time.disc ≠ .free) ∨ s.power.st = .dormant →
          u.time.disc = s.time.disc))
  ∧ (∀ (t : DT) (s : State), Gives (.returningPpsTimeout t) s fun u =>
      (s.time.disc = .returning → modeNow s = 3 → s.time.ppsQual = false → 10 * 2 ^ 32 ≤ dtSince s.time.returningSince (now (moment t s)) →
        u.time.disc = .phaseHold)
      ∧ (s.time.disc ≠ .returning → u = moment t s))
  ∧ (∀ (t : DT) (s : State) (r : DT), s.time.ppsHigh = some r → usDt (fget s.time.cfg 0x0108).toNat ≤ dtSince r (now (moment t s)) →
      Gives (.ppsoutPulse t) s fun u => u.outbox = .pps false :: s.outbox ∧ u.time.ppsHigh = none)
  ∧ ∀ (t : DT) (s : State), s.time.ppsHigh = none → s.time.running = true → Gives (.ppsoutPulse t) s fun u =>
      let m := moment t s
      ((now m).toNat % 2 ^ 32 < tickSpan s.time → u.outbox = .pps true :: s.outbox ∧ u.time.ppsHigh = some (now m))
        ∧ (tickSpan s.time ≤ (now m).toNat % 2 ^ 32 → u = m)

/-- REFIN and PPSIN steer the tune word; the forward step and the reference settings apply at their instants. In a REF mode with REFIN
qualified and the loop tracking, a steer window keeps the error for the criteria of LOCKED (none, where LOCKED is left) and moves the
tune word towards the corrected one by no more than the largest step; one tenth of the error per window is the model's choice (log entry
57). In PPS mode each accepted edge is captured as DT at the 614.4 MHz edge of its tick without the input's 4.9 ns, its offset from the
nearest second enters, with the reference phase, the eight last offsets, the tune word follows the loop's law, and the sum takes the
offset, or restarts where LOCKED is left. A due forward step moves DT by its amount, leaves TIME_UNSET, and lets RETURNING go on.
TIME_REF_CONFIG stages its ST items and, with COMMIT or LV items, waits for the next second; there the LV items and with COMMIT its rows
of the shadow set as it stands take effect, a new REFOUT is sent out, and a new MODE of FREE frees the loop. Completion of
refinSteerWindow, ppsinEdgeAccepted, dtForwardStep, timeRefConfig and timeRefCommitApply. (02_time_reference_clocks.md: Reference
discipline; 02_time_reference_clocks.md: Return of the reference; 02_time_reference_clocks.md: Time commands and parameters) -/
def Obligations.ReferenceSteersTheClock : Prop :=
  (∀ (t : DT) (err : Int) (s : State), (modeNow s = 1 ∨ modeNow s = 3) → s.time.refinQual = true → tracking s.time.disc = true →
    s.power.st ≠ .dormant → Gives (.refinSteerWindow t err) s fun u =>
      u.time.freqErr = (if s.time.disc = .locked ∧ u.time.disc = .acquire then none else some err)
      ∧ u.time.tune = approach s.time.tune (s.time.tune + roundSigned (-err * 65535) (14000 * fget s.time.cfg 0x0103)) (maxTuneStep s.time))
  ∧ (∀ (t : DT) (sub : Fin 4) (s : State), s.time.ppsQual = true → modeNow s = 2 → tracking s.time.disc = true → s.time.measuring = false →
    s.power.st ≠ .dormant → waiting 0x0200 0 (moment t s) = [] → Gives (.ppsinEdgeAccepted t sub) s fun u =>
      let y := ppsOffset (dtInt (now (moment t s)) + (sub.val * 2 ^ 32 / 614400000 : Nat) - 21) + s.time.phaseRef
      u.time.lastOffset = y ∧ u.time.last8 = (y :: s.time.last8).take 8
        ∧ (u.time.sumX = if s.time.disc = .locked ∧ u.time.disc = .acquire then 0 else s.time.sumX + y)
        ∧ u.time.tune = steerPps y { s.time with sumX := s.time.sumX + y })
  ∧ (∀ (t : DT) (s : State) (d : Int) (due : DT), s.time.fwdStep = some (d, due) → due.toNat ≤ (now (moment t s)).toNat →
    Gives (.dtForwardStep t) s fun u => u.time.dt = BitVec.ofInt 64 (dtInt (now (moment t s)) + d) ∧ u.time.fwdStep = none
      ∧ u.time.unset = s.time.unset ∧ (s.time.disc = .returning → u.time.disc = .acquire))
  ∧ (∀ e, Does (.timeRefConfig e) specTimeRefConfig e fun h u t =>
      let l := itemsOf h
      (commits h = false → ofClass .lv l = [] →
        t = finish h .ok [(24, 8, dtInt (now u))] (modTime (fun x => { x with shadow := fmerge x.shadow (ofClass .st l) }) u))
      ∧ (commits h = true ∨ ofClass .lv l ≠ [] → t = park h [dtInt (nextSecond (now u))]
          (modTime (fun x => { x with shadow := fmerge x.shadow (ofClass .st l) }) u)))
  ∧ ∀ (t : DT) (s : State) (h : Held) (sec : Int), waiting 0x0202 0 (moment t s) = [h] → h.aux = [1, sec] → sec ≤ dtInt (now (moment t s)) → findHeld h.id s = some h → s.pair.role ≠ 2 →
      s.time.slew = none →
      let live := fmerge s.time.cfg (ofClass .lv (itemsOf h))
      let new := if commits h then fmerge live (s.time.shadow.filter refRow) else live
      Gives (.timeRefCommitApply t) s fun u => ∃ w, u = finish h .ok [(24, 8, dtInt (now w))] w ∧ w.time.dt = (moment t s).time.dt
        ∧ w.time.cfg = new
        ∧ (w.time.shadow = if commits h then s.time.shadow.filter (fun f => !refRow f) else s.time.shadow)
        ∧ (refoutOf w.time ≠ refoutOf s.time → .refout (refoutOf w.time).1 (refoutOf w.time).2 ∈ w.outbox)
        ∧ (fget new 0x0100 = fget s.time.cfg 0x0100 → w.time.disc = s.time.disc)
        ∧ (fget new 0x0100 ≠ fget s.time.cfg 0x0100 → fget new 0x0100 = 0 → w.time.disc = .free)

/-- Lock, spare alignment, switchover, loss of both PLLs, relock and phase steps. SWITCH with the spare aligned exchanges the SPLLs and
keeps DT; without it ERR_STATE; a configuration without COMMIT is staged. A declared lock ends the backup count when it is the active one
or when both were lost, which makes it the active one, unless the active one is being reconfigured in place. Alignment done marks the
spare aligned, or carries on a reconfiguration by switching. The active one flagged with the spare aligned switches over; without it both
are lost and the backup count takes over. The spare flagged is no longer aligned. With SPARE_EN a spare not aligned one second after a
switchover counts as lost. A phase step is kept until done, and then adds its 2^32/314 572 800 000-second units to the reference phase.
Completion of timePllConfig, spllLockDeclared, spareAlignmentDone, spllReconfigTimeout, activeSpllFlagged, spareSpllFlagged,
spareAlignTimeout, spllRelockAttempt, timePhaseStep and phaseSteppingDone. (02_time_reference_clocks.md: Sampling PLLs;
02_time_reference_clocks.md: Lock declaration; 02_time_reference_clocks.md: Spare and switchover; 02_time_reference_clocks.md: Fine phase
stepping) -/
def Obligations.SamplingPllsSwitch : Prop :=
  (∀ e, Does (.timePllConfig e) specTimePllConfig e fun h u t =>
    (itemAction (Entry.args e) = 1 → u.time.spareAligned = true → ∃ v, t = finish h .ok [(16, 1, bit v.time.activeB), (24, 8, dtInt (now v))] v
        ∧ v.time.dt = u.time.dt ∧ v.time.activeB = !u.time.activeB ∧ v.time.spareAligned = true)
      ∧ (itemAction (Entry.args e) = 1 → u.time.spareAligned = false → t = reject h .errState u)
      ∧ (itemAction (Entry.args e) = 0 → commits h = false →
          t = finish h .ok [(24, 8, dtInt (now u))] (modTime (fun x => { x with shadow := fmerge x.shadow (itemsOf h) }) u)))
  ∧ (∀ (t : DT) (b : Bool) (s : State), (let p : Fin 2 := if b then 1 else 0
      s.time.plls[p].running = true → Gives (.spllLockDeclared t b) s fun u =>
        (s.time.bothLost = false → u.time.plls[p].declared = true ∧ u.time.activeB = s.time.activeB
            ∧ u.time.backup = (s.time.backup && s.time.activeB != b))
          ∧ (s.time.bothLost = true → (∀ q, s.time.pllSeq = some q → q.stage ≠ 5 ∨ s.time.activeB = b) →
              u.time.bothLost = false ∧ u.time.backup = false ∧ u.time.activeB = b)
          ∧ (∀ q, s.time.bothLost = true → s.time.pllSeq = some q → q.stage = 5 → s.time.activeB ≠ b →
              u.time.bothLost = true ∧ u.time.plls[p].declared = true ∧ u.time.backup = s.time.backup ∧ u.time.activeB = s.time.activeB)))
  ∧ (∀ (t : DT) (s : State), s.time.plls[sparePll s.time].declared = true → s.time.bothLost = false → s.time.phaseCmd = none → s.time.pllSeq = none →
      Gives (.spareAlignmentDone t) s fun u => u.time.spareAligned = true ∧ u.time.activeB = s.time.activeB ∧ u.time.switchedAt = none)
  ∧ (∀ (t : DT) (s : State) (q : PllSeq), s.time.plls[sparePll s.time].declared = true → s.time.bothLost = false → s.time.phaseCmd = none → s.time.pllSeq = some q → q.stage = 1 →
      Gives (.spareAlignmentDone t) s fun u => u.time.activeB = !s.time.activeB)
  ∧ (∀ (t : DT) (s : State) (q : PllSeq) (h : Held), s.time.pllSeq = some q → findHeld q.cmd s = some h → Gives (.spllReconfigTimeout t) s fun u => ∃ v,
      u = finish h .hwFault [] v ∧ v.time.pllSeq = none)
  ∧ (∀ (t : DT) (vco : Bool) (s : State), s.time.plls[activePll s.time].declared = true → s.time.spareAligned = true → Gives (.activeSpllFlagged t vco) s fun u =>
      u.time.activeB = (!s.time.activeB) ∧ u.time.spareAligned = false ∧ u.time.bothLost = s.time.bothLost
        ∧ u.time.plls[activePll s.time].lost = true ∧ u.time.plls[activePll s.time].declared = false)
  ∧ (∀ (t : DT) (vco : Bool) (s : State), s.time.plls[activePll s.time].declared = true → s.time.spareAligned = false → Gives (.activeSpllFlagged t vco) s fun u =>
      u.time.bothLost = true ∧ u.time.backup = true ∧ u.time.vcoStopped = vco ∧ u.time.activeB = s.time.activeB ∧ u.time.pllSeq = none)
  ∧ (∀ (t : DT) (s : State), s.time.plls[sparePll s.time].running = true → Gives (.spareSpllFlagged t) s fun u =>
      u.time.spareAligned = false ∧ u.time.plls[sparePll s.time].declared = false ∧ u.time.plls[sparePll s.time].lost = true)
  ∧ (∀ (t : DT) (s : State) (w : DT), s.time.switchedAt = some w → s.time.spareAligned = false → 2 ^ 32 ≤ dtSince w (now (moment t s)) →
      Gives (.spareAlignTimeout t) s fun u =>
        (fget s.time.cfg 0x010B = 1 → u.time.switchedAt = none
          ∧ u = spllLost 0 (sparePll s.time) (modTime (fun x => { x with switchedAt := none }) (moment t s)))
        ∧ (fget s.time.cfg 0x010B ≠ 1 → u = moment t s))
  ∧ (∀ (t : DT) (b : Bool) (s : State), (let p : Fin 2 := if b then 1 else 0
      Gives (.spllRelockAttempt t b) s fun u => u.time.plls[p].running = (s.time.plls[p].running || s.time.plls[p].lost)))
  ∧ (∀ e, Does (.timePhaseStep e) specTimePhaseStep e fun h u t =>
      t.time.phaseCmd = some (h.id, leInt (Entry.args e) 0 2) ∧ t.time.phaseRef = u.time.phaseRef)
  ∧ ∀ (t : DT) (s : State) (id : Nat) (n : Int) (h : Held), s.time.phaseCmd = some (id, n) → findHeld id s = some h → Gives (.phaseSteppingDone t) s fun u => ∃ v,
      u = finish h .ok [(16, 2, n), (24, 8, dtInt (now v))] v ∧ v.time.dt = (moment t s).time.dt ∧ v.time.phaseCmd = none
        ∧ v.time.phaseRef = s.time.phaseRef + ratio (n * 2 ^ 32) 314572800000

/-- Automatic gain lowers at once, raises after HOLD, and trips on overload, on wideband inputs and tuners alike. For a live input in
automatic gain: a window whose peak is above the target by more than 2 dB lowers the gain by one step, not below its minimum, and ends
the hold; otherwise the gain stays and the hold runs exactly while the peak is more than 4 dB below the target. A window that the loop
does not measure ends the hold. When the hold has run out below the maximum, the gain rises by one step unless a Saggar job reads the
input. An overload trip of at least the set count lowers the gain by the trip step. RF_WB_CONFIG refuses LK fields on a running input
with BUSY_RUNNING, is deferred whole where it would raise the gain under a Saggar job, and else waits for the input's frame boundary,
where the last values of all that wait are set at once, the gain included, but of one that would disable a running input. Completion of
agcWindowEnd, agcHoldExpiry, overloadTrip and rfWbConfig. (03_wideband_sampling.md: Gain control and overload; 04_pointed_tuners.md:
Receive chain; 03_wideband_sampling.md: Commands and fields) -/
def Obligations.GainControlMoves : Prop :=
  (∀ (t : DT) (i : GainInput) (peak : Int) (s : State), Gives (.agcWindowEnd t i peak) s fun u =>
    let v := gainView i s
    let w := gainView i u
    (v.live = true → v.auto = true → (v.target + 2) * 100 < peak → w.gain = max v.lo (v.gain - 1) ∧ w.holdFrom = none)
      ∧ (v.live = true → v.auto = true → peak ≤ (v.target + 2) * 100 → w.gain = v.gain
          ∧ (w.holdFrom.isSome ↔ peak < (v.target - 4) * 100))
      ∧ (v.live = false ∨ v.auto = false → w.gain = v.gain ∧ w.holdFrom = none))
  ∧ (∀ (t : DT) (i : GainInput) (s : State) (f : DT),
      let v := gainView i s
      v.live = true → v.auto = true → v.holdFrom = some f → v.hold ≤ dtSince f (now (moment t s)) → v.gain < v.hi →
      Gives (.agcHoldExpiry t i) s fun u =>
        (v.read = false → (gainView i u).gain = v.gain + 1 ∧ (gainView i u).holdFrom = some (now (moment t s)))
          ∧ (v.read = true → u = moment t s))
  ∧ (∀ (t : DT) (i : GainInput) (n : Nat) (s : State),
      let v := gainView i s
      v.live = true → Gives (.overloadTrip t i n) s fun u =>
        (v.count ≤ n → (gainView i u).gain = max v.lo (v.gain - v.step) ∧ (gainView i u).holdFrom = none)
          ∧ (n < v.count → (gainView i u).gain = v.gain))
  ∧ ∀ (e : Entry) (i : Fin 2), e.target.toNat = i.val → Does (.rfWbConfig e) specRfWbConfig e fun h u t =>
      let l := itemsOf h
      (fhas l 0x0200 = true → inputRuns i u = true → t = reject h .busyRunning u)
        ∧ ((fhas l 0x0200 = false ∨ inputRuns i u = false) → fhas l 0x0202 = true → u.rf.wb[i].gain < fget l 0x0202 →
            jobReadsInput i u = true → t = deferCmd h [] u)
        ∧ ((fhas l 0x0200 = false ∨ inputRuns i u = false) →
            (fhas l 0x0202 = false ∨ fget l 0x0202 ≤ u.rf.wb[i].gain ∨ jobReadsInput i u = false) →
            (parked h = false → t = park h [] u)
              ∧ (parked h = true →
                let all := (waitingNow 0x0300 i.val u).filter fun x => !wbRaises i x u || !jobReadsInput i u
                let locked (x : Held) : Bool := fhas (itemsOf x) 0x0200 && inputRuns i u
                let hs := all.filter fun x => !locked x
                let new := lastValues hs
                ∃ v, t = (all.filter locked).foldl (fun s x => reject x .busyRunning s) (finishAllC hs v) ∧ v.rf.wb[i].cfg = fmerge u.rf.wb[i].cfg new
                  ∧ v.rf.wb[i].gain = if fhas new 0x0202 then fget new 0x0202 else u.rf.wb[i].gain))

/-- A carver's staged values apply together at the frame boundary, keeping each path's frequency. RF_CARVER_SET without COMMIT stages;
with COMMIT and a good source, feeding nothing that would stop and read by no job, it waits for the boundary. There, with the SOURCE
unchanged and every path's band still covered, the new set is in force, the shadow is empty, the step of the centre word is sent out, and
the tuning word of each path on the carver, and of no other path, moves against the step. With nothing waiting the boundary changes
nothing but the time, but that a carver whose shed stream has come back runs again. A stopped peer stream is noted as stopped and stops
exactly the carvers that take it. Completion of rfCarverSet, carverFrameCommit and peerStreamStop. (03_wideband_sampling.md: Band
carvers; 03_wideband_sampling.md: Commands and fields) -/
def Obligations.CarversCommitAtFrameBoundary : Prop :=
  (∀ (e : Entry) (c : Fin 8), e.target.toNat = c.val → Does (.rfCarverSet e) specRfCarverSet e fun h u t =>
    let l := itemsOf h
    (fhas l 0x0302 = false ∨ fget u.rf.carvers[c].cfg 0x0300 = 0) → (c.val ≠ 7 ∨ u.cx.profile ≠ 1) →
      (commits h = false → ∃ v, t = finishC h v ∧ v.rf.carvers[c].cfg = fmerge u.rf.carvers[c].cfg (ofClass .lk l)
          ∧ v.rf.carvers[c].shadow = fmerge u.rf.carvers[c].shadow (ofClass .st l))
        ∧ (commits h = true → sourceOk (fget (carverNew c h u) 0x0300) u = true → stopsFed c (carverNew c h u) u = false →
            jobReadsCarver c u = false → t = park h [] u))
  ∧ (∀ (t : DT) (c : Fin 8) (s : State) (h : Held),
      let m := moment t s
      let new := carverNew c h m
      carverCmds c m = [h] → s.rf.carvers[c].resumes = false → sourceOk (fget new 0x0300) m = true → stopsFed c new m = false → jobReadsCarver c m = false →
      fget new 0x0300 = fget s.rf.carvers[c].cfg 0x0300 →
      (∀ p ∈ pathsOn c.val m, bandCovers (fget new 0x0301) (fget new 0x0302) (pathBand p m).1 (pathBand p m).2 = true) →
      Gives (.carverFrameCommit t c) s fun u => ∃ v, u = finish h .ok (carverResult new v) v
        ∧ v.rf.carvers[c].cfg = new ∧ v.rf.carvers[c].shadow = []
        ∧ v.outbox = .carverStep c.val (carverCentre (fget new 0x0301)).toNat :: s.outbox
        ∧ ∀ p : Fin 64, v.cx.paths[p].wp = if p ∈ pathsOn c.val m then
            s.cx.paths[p].wp - (fget new 0x0301 - fget s.rf.carvers[c].cfg 0x0301) * fget new 0x0302 else s.cx.paths[p].wp)
  ∧ (∀ (t : DT) (c : Fin 8) (s : State), carverCmds c (moment t s) = [] → Gives (.carverFrameCommit t c) s fun u =>
      (s.rf.carvers[c].resumes = false → u = moment t s)
        ∧ (s.rf.carvers[c].resumes = true → u.rf.carvers[c] = { s.rf.carvers[c] with stopped := false, resumes := false }))
  ∧ ∀ (t : DT) (b : Bool) (s : State), Gives (.peerStreamStop t b) s fun u => u.pair.stoppedIn.getLsbD (bit b) = true ∧
      ∀ c : Fin 8, u.rf.carvers[c] = if carverSource c s = 3 + (bit b : Int) then { s.rf.carvers[c] with stopped := true, resumes := false } else s.rf.carvers[c]

/-- Tuner states, channel change, lock and failure. RF_PT_STATE: a query gives the state; RX on a failed tuner or without a frequency is
ERR_STATE, on one whose plan only excluded bands meet NO_RESOURCE, already RX it completes; STANDBY sets the target; SLEEP while a path
uses the tuner is ERR_STATE. A transition moves one state towards the target and ends the command at it. RF_PT_TUNE stages, the LV items
of a running tuner at its frame boundary, or with COMMIT applies, with ERR_STATE on a failed tuner or one feeding a path; in SLEEP or
STANDBY it sets frequency and plan at once. A channel change done, on a band not excluded, leaves the tuner settled, with its recall
entry first and the corrections that passed, none of them beyond its limit. A recall that does not lock falls back to the full change,
whose search stands at its first band. A failure makes the tuner FAILED; a retest that passes returns it to STANDBY and counts.
Completion of rfPtState, tunerTransitionDone, rfPtTune, channelChangeDone, recallLockTimeout, tunerFailed and tunerRetry.
(04_pointed_tuners.md: States and transitions; 04_pointed_tuners.md: Channel change and quick calibration; 04_pointed_tuners.md: Failure
and failover; 04_pointed_tuners.md: Tuner commands and fields) -/
def Obligations.TunersChangeState : Prop :=
  (∀ (e : Entry) (n : Fin 4), e.target.toNat = n.val → Does (.rfPtState e) specRfPtState e fun h u t =>
    let a := Entry.args e
    let x := u.rf.tuners[n]
    (le a 0 1 = 1 → t = finish h .ok (queryResult n u) u)
      ∧ (le a 0 1 = 0 → le a 1 1 = 3 → (x.st = .failed ∨ x.freq = none) → t = reject h .errState u)
      ∧ (le a 0 1 = 0 → le a 1 1 = 3 → x.st = .rx → x.freq ≠ none → x.change = none → x.target = none → x.unavailable = false →
          t = finish h .ok (stateResult .rx u) u)
      ∧ (le a 0 1 = 0 → le a 1 1 = 3 → x.st ≠ .failed → x.st ≠ .rx → x.freq ≠ none → jobReadsTuner n u = false → x.change = none →
          (∃ p, x.plan = some p ∧ onlyExcluded x p = true) → t = reject h .noResource u)
      ∧ (le a 0 1 = 0 → le a 1 1 = 1 → x.st ≠ .failed → x.st ≠ .standby → jobReadsTuner n u = false → feeds n u = false → x.unavailable = false →
          t.rf.tuners[n] = { x with target := some .standby, targetCmd := some h.id, change := none } ∧ t.time = u.time)
      ∧ (le a 0 1 = 0 → le a 1 1 = 0 → x.st ≠ .sleep → jobReadsTuner n u = false → feeds n u = true → t = reject h .errState u))
  ∧ (∀ (t : DT) (n : Fin 4) (s : State) (want : TState),
      let m := moment t s
      let x := s.rf.tuners[n]
      x.target = some want → x.probe = none → tunerFires n m = false →
        (nextState x want ≠ want → Gives (.tunerTransitionDone t n) s fun u =>
            u.rf.tuners[n].st = nextState x want ∧ u.rf.tuners[n].target = some want)
          ∧ (nextState x want = want → ∀ id h, x.targetCmd = some id → findHeld id s = some h →
              Gives (.tunerTransitionDone t n) s fun u => ∃ v, u = finish h .ok (stateResult want v) v
                ∧ v.rf.tuners[n].st = want ∧ v.rf.tuners[n].target = none ∧ v.time.dt = m.time.dt))
  ∧ (∀ (e : Entry) (n : Fin 4), e.target.toNat = n.val → Does (.rfPtTune e) specRfPtTune e fun h u t =>
      let l := itemsOf h
      let x := u.rf.tuners[n]
      let new := tunerNew x l
      jobReadsTuner n u = false →
        (commits h = false → parked h = false → (tunerRuns x = false ∨ ofClass .lv l = []) →
            ∃ v, t = finishC h v ∧ v.rf.tuners[n].shadow = fmerge x.shadow (ofClass .st l) ∧ v.rf.tuners[n].cfg = fmerge x.cfg (ofClass .lv l))
          ∧ (commits h = false → parked h = false → tunerRuns x = true → ofClass .lv l ≠ [] →
            ∃ v, t = park h [] v ∧ v.rf.tuners[n] = { x with shadow := fmerge x.shadow (ofClass .st l) })
          ∧ (commits h = false → parked h = true →
            ∃ v, t = finishC h v ∧ v.rf.tuners[n].shadow = x.shadow ∧ v.rf.tuners[n].cfg = fmerge x.cfg (ofClass .lv l))
          ∧ (commits h = true → (x.st = .failed ∨ feeds n u = true) → t = reject h .errState u)
          ∧ (commits h = true → (x.st = .sleep ∨ x.st = .standby) → feeds n u = false → (x.freq ≠ none ∨ fhas new 0x0400 = true) →
              onlyExcluded x (planOf new) = false →
              ∃ v, t = finish h .ok [(16, 7, 0xFFFFFFFFFFFFFF), (24, 8, dtInt (now v))] v ∧ v.rf.tuners[n].shadow = []
                ∧ v.rf.tuners[n].st = x.st ∧ v.rf.tuners[n].freq = some (fget v.rf.tuners[n].cfg 0x0400).toNat
                ∧ v.rf.tuners[n].plan = some (planOf v.rf.tuners[n].cfg)))
  ∧ (∀ (t : DT) (n : Fin 4) (r : ChannelChange) (s : State) (c : Change) (p : Plan) (id : Nat) (h : Held),
      s.rf.tuners[n].change = some c → s.rf.tuners[n].plan = some p → s.rf.tuners[n].st = .rx →
      excluded s.rf.tuners[n] (changeBand s.rf.tuners[n] c p r) = false → c.cmd = some id → findHeld id s = some h →
      let k := judgedChange r
      Gives (.channelChangeDone t n r) s fun u => ∃ v, u = finish h .ok (changeResult (h.op == 0x0303) c k v) v
        ∧ settled v.rf.tuners[n] = true ∧ v.rf.tuners[n].recallDirty = true
        ∧ (v.rf.tuners[n].recalls.head?.map (·.plan)) = some p
        ∧ (c.fromTable = false → r.band ∈ searchBands s.rf.tuners[n] p → v.rf.tuners[n].band = r.band.val)
        ∧ (k.image = .ok → v.rf.tuners[n].irGain = r.irGain.value ∧ v.rf.tuners[n].irPhase = r.irPhase.value
            ∧ r.irGain.value.natAbs ≤ 1000 ∧ r.irPhase.value.natAbs ≤ 5000)
        ∧ (k.filter = .ok → v.rf.tuners[n].trim = r.trim ∧ v.rf.tuners[n].bandwidth = r.bandwidth.value ∧ r.bandwidth.value.natAbs ≤ 1500)
        ∧ (v.rf.tuners[n].offset = if k.offset = .ok then r.offset.value else s.rf.tuners[n].offset)
        ∧ (k.offset = .ok → r.offset.value.natAbs ≤ 200))
  ∧ (∀ (t : DT) (n : Fin 4) (s : State), s.rf.tuners[n].st = .synth → Gives (.recallLockTimeout t n) s fun u =>
      u.rf.tuners[n] = Tuner.synthStart { s.rf.tuners[n] with change := s.rf.tuners[n].change.map fun c => { c with fromTable := false } }
        ∧ ∀ c p k, s.rf.tuners[n].change = some c → s.rf.tuners[n].plan = some p → searchStart s.rf.tuners[n] p = some k →
            u.rf.tuners[n].band = k.val)
  ∧ (∀ (t : DT) (n : Fin 4) (s : State), (s.rf.tuners[n].st = .synth ∨ s.rf.tuners[n].st = .rx ∨ s.rf.tuners[n].st = .probe) →
      Gives (.tunerFailed t n) s fun u => u.rf.tuners[n].st = .failed)
  ∧ (∀ (t : DT) (n : Fin 4) (pass : Bool) (s : State), s.rf.tuners[n].st = .failed → s.rf.tuners[n].target = none → s.rf.tuners[n].retest = none →
      Gives (.tunerRetry t n pass) s fun u => u.rf.tuners[n].st = (if pass then .standby else .failed)
        ∧ u.rf.tuners[n].retries = s.rf.tuners[n].retries + 1 ∧ (pass = true → u.rf.tuners[n].unavailable = false))

/-- Band table, recall table and probes. RF_PT_BANDTABLE_LOAD writes its entries; RF_PT_RECALL_READ gives the recall table (4096 bytes)
or the band table; a dirty recall table is saved to the vault. RF_PROBE is ERR_STATE on a tuner asleep, in standby or failed and else
waits; at its start the tuner is in PROBE; at its end the command gives its result and the tuner is back in RX, or goes on with a channel
change that a context asked for meanwhile; a probe that waited 2 ms on an unsettled tuner ends with BUSY_CALIBRATING. Completion of
rfPtBandtableLoad, rfPtRecallRead, recallTableSave, rfProbe, probeStart, probeEnd and probeWaitTimeout. (04_pointed_tuners.md: Band table
and recall table; 04_pointed_tuners.md: Probe mode; 04_pointed_tuners.md: Tuner commands and fields) -/
def Obligations.TunerTablesAndProbes : Prop :=
  (∀ (e : Entry) (n : Fin 4), e.target.toNat = n.val → Does (.rfPtBandtableLoad e) specRfPtBandtableLoad e fun h u t =>
    let a := Entry.args e
    ∃ v, t = finish h .ok [(16, 1, loadCount a)] v ∧ v.rf.tuners[n].bands = (List.range (loadCount a)).foldl (loadBand a) u.rf.tuners[n].bands)
  ∧ (∀ (e : Entry) (n : Fin 4), e.target.toNat = n.val → Does (.rfPtRecallRead e) specRfPtRecallRead e fun h u t =>
      t = finishOut h .ok (if le (Entry.args e) 12 1 = 0 then fit 4096 (u.rf.tuners[n].recalls.flatMap recallBytes)
        else (entries u.rf.tuners[n].bands).flatMap fun x => bandBytes x.1.val x.2) none u)
  ∧ (∀ (t : DT) (n : Fin 4) (s : State), s.rf.tuners[n].recallDirty = true → Gives (.recallTableSave t n) s fun u =>
      u.rf.tuners[n].recallDirty = false ∧ (u.mnt.stores ++ u.mnt.stalled).any (fun x => x.1 == .recallTable n) = true)
  ∧ (∀ (e : Entry) (n : Fin 4), e.target.toNat = n.val → Does (.rfProbe e) specRfProbe e fun h u t =>
      let x := u.rf.tuners[n]
      2 * (fget (itemsOf h) 0x0601).natAbs ≤ (fget x.cfg 0x0403).toNat →
        ((x.st = .sleep ∨ x.st = .standby ∨ x.st = .failed) → t = reject h .errState u)
          ∧ (x.st ≠ .sleep → x.st ≠ .standby → x.st ≠ .failed → jobReadsTuner n u = false → t = park h [dtInt (now u)] u))
  ∧ (∀ (t : DT) (n : Fin 4) (s : State) (h : Held) (l : List Held),
      let m := moment t s
      waiting 0x0306 n.val m = h :: l → settled s.rf.tuners[n] = true → jobReadsTuner n m = false → tunerFires n m = false →
      Gives (.probeStart t n) s fun u => u.rf.tuners[n].st = .probe ∧ u.rf.tuners[n].probe = some (h.id, itemsOf h, true))
  ∧ (∀ (t : DT) (n : Fin 4) (measured leak : Int) (s : State) (id : Nat) (l : FieldSet) (h : Held),
      s.rf.tuners[n].probe = some (id, l, true) → findHeld id s = some h →
      (∀ p : Fin 64, s.cx.paths[p].fade = none ∧ s.cx.paths[p].queued = none) →
      Gives (.probeEnd t n measured leak) s fun u => ∃ v,
        u = finishAt h .ok (result (probeResult l measured leak)) [] (BitVec.ofInt 64 (h.aux.headD 0)) v
          ∧ v.rf.tuners[n].st = (if s.rf.tuners[n].change.isSome then .synth else .rx) ∧ v.rf.tuners[n].probe = none)
  ∧ ∀ (t : DT) (n : Fin 4) (s : State) (h : Held) (l : List Held),
      let m := moment t s
      waiting 0x0306 n.val m = h :: l → Entry.hasDeadline h.entry = false → msDt 2 ≤ dtSince (BitVec.ofInt 64 (h.aux.getD 1 0)) (now m) →
      settled s.rf.tuners[n] = false → Gives (.probeWaitTimeout t n) s fun u => u = reject h .busyCalibrating m

/-- The Slip has one owner; it stops when INJ_EN falls, is handed to the Saggar, learns and supervises. RF_SLIP_CONFIG on a Slip that
runs waits for its tone boundary; there, and at once on one that does not run, it is refused by ERR_PARAM or ERR_STATE, and else its
owner and emission follow the mode; held by the Saggar, or with a firing that needs the Slip due before it, a committed use is deferred
(the order of such a firing and a host command is the model's choice, log entry 69). INJ_EN falling stops the host's tone with STOP.
Release hands the Slip to a waiting Saggar. Before its period has passed a measurement does not count. A supervision period without
INJ_EN or the Slip counts as missed; with them it gives the level, the difference from the baseline, the measurements missed and the
alarm against the limit; learning sums 16 periods into the baseline; in Dormant nothing is measured. Completion of rfSlipConfig,
injEnFall, slipSaggarRelease and supervisionPeriod. (04_pointed_tuners.md: The Slip; 04_pointed_tuners.md: Antenna supervision) -/
def Obligations.SlipIsSharedAndSupervises : Prop :=
  (∀ e : Entry, Does (.rfSlipConfig e) specRfSlipConfig e fun h u t =>
    let x := u.rf.slip
    let sets := applyItems h (x.cfg, x.shadow)
    (parked h = false → fget x.cfg 0x0605 ≠ 0 → t = park h [] u)
      ∧ ((parked h = false ∧ fget x.cfg 0x0605 = 0) ∨ (parked h = true ∧ waitingNow 0x0307 0 u = [h]) →
        (slipRefused sets.1 u = some .errParam → t = fail h .errParam (itemAt 0x0607 h) .outOfRange u)
        ∧ (slipRefused sets.1 u = some .errState → t = reject h .errState u)
        ∧ (slipRefused sets.1 u = none → commits h = true →
            (x.owner = .host ∨ (x.owner = .nobody ∧ (slipDue u = false ∨ fget sets.1 0x0605 = 0))) → ∃ v, t = finishC h v
            ∧ v.rf.slip.cfg = sets.1 ∧ v.rf.slip.shadow = sets.2
            ∧ v.rf.slip.owner = (if fget sets.1 0x0605 = 0 then .nobody else .host) ∧ v.rf.slip.emitting = (fget sets.1 0x0605 == 1)
            ∧ (fget sets.1 0x0605 = 2 → v.rf.slip.learnCount = 0))
        ∧ (slipRefused sets.1 u = none → commits h = true → fget sets.1 0x0605 ≠ 0 →
            (x.owner = .saggar ∨ (x.owner = .nobody ∧ slipDue u = true)) → t = deferCmd h [(24, 8, freeNow u)] (useFree u))))
  ∧ (∀ (t : DT) (s : State), Gives (.injEnFall t) s fun u => u.power.injEn = false
      ∧ (s.rf.slip.emitting = true → s.rf.slip.owner = .host → fget s.rf.slip.cfg 0x0606 = 0 →
          u.rf.slip.emitting = false ∧ u.rf.slip.owner = .nobody ∧ fget u.rf.slip.cfg 0x0605 = 0))
  ∧ (∀ (t : DT) (s : State), Gives (.slipSaggarRelease t) s fun u =>
      (s.rf.slip.sgWaiting = true → u.rf.slip.owner = .saggar ∧ u.rf.slip.sgWaiting = false ∧ u.rf.slip.emitting = false)
        ∧ (s.rf.slip.sgWaiting = false → u = moment t s))
  ∧ ∀ (t : DT) (level : Int) (s : State), Gives (.supervisionPeriod t level) s fun u =>
      let x := s.rf.slip
      let mode := fget x.cfg 0x0605
      let m := moment t s
      (mode < 2 ∨ supDue m = false ∨ s.power.st = .dormant → u = m)
        ∧ (s.power.st ≠ .dormant → mode = 3 → supDue m = true → (x.owner ≠ .host ∨ s.power.injEn = false) →
            u.rf.slip = { x with missed := x.missed + 1, lastAt := some (now m) })
        ∧ (s.power.st ≠ .dormant → mode = 3 → supDue m = true → x.owner = .host → s.power.injEn = true → jobReadsSide (fget x.cfg 0x0609).toNat (moment t s) = false → ∀ b, x.baseline = some b →
            let alarm := decide ((fget x.cfg 0x060B).toNat * 10 < (level - b).natAbs)
            u.rf.slip.lastDiff = level - b ∧ u.rf.slip.level = level ∧ u.rf.slip.alarm = alarm ∧ u.rf.slip.missed = x.missed
              ∧ ∃ l, u.outbox = .supervision level (level - b) x.missed alarm :: l)
        ∧ (s.power.st ≠ .dormant → mode = 2 → supDue m = true → x.owner = .host → s.power.injEn = true → jobReadsSide (fget x.cfg 0x0609).toNat (moment t s) = false → x.learnCount < 16 →
            u.rf.slip.learnCount = x.learnCount + 1 ∧ u.rf.slip.learnSum = x.learnSum + level
              ∧ u.rf.slip.baseline = if x.learnCount = 15 then some (ratio (x.learnSum + level) 16) else x.baseline)

/-- Paths deliver blocks of 64, synchronise with a gap count, hold and resume, and CTX_SYNC sets one grid. A running path's block counts
up its sequence number, moves its next stamp on by 64 output intervals and returns 64 intervals in class 6; blocks lost before it count
in the sequence number and as gap-recorded. Before L samples are withheld no SYNC sample comes. The SYNC sample makes a withholding path
run from its stamp and counts the intervals of an open gap. A path in HOLD whose source delivers withholds again. CTX_SYNC with all its
contexts open (else ERR_STATE) sets the grid of exactly their paths, and one whose due instant has passed resets at once (log entry 99);
a path awaiting it resets at the instant that puts its SYNC sample on the grid, and at no other; 10 s after T a path still in HOLD leaves
the command, which ends with its counts. Completion of pathBlockOutput, syncSample, pathSourceResume, ctxSync, ctxSyncReset and
ctxSyncHoldTimeout. (05_channel_mill.md: Output stream and stamps; 05_channel_mill.md: Synchronising reset and HOLD) -/
def Obligations.PathsDeliverAndReset : Prop :=
  (∀ (t : DT) (p : Fin 64) (stamp : DT) (mid : List Sample) (s : State), Gives (.pathBlockOutput t p stamp mid) s fun u =>
    let m := moment t s
    let x := m.cx.paths[p]
    let k := lostBlocks x stamp
    (x.run = .running → x.makeBlock p.val stamp mid = none → u = m)
      ∧ (∀ y, x.run = .running → x.makeBlock p.val stamp mid = some y →
          u.cx.paths[p].seq = x.seq + BitVec.ofNat 32 k + 1 ∧ u.cx.paths[p].next = dtAdd x.syncAt (outSpan (x.since + 64 * k + 64) x)
          ∧ u.cx.paths[p].delivered = x.delivered + 64 ∧ u.cx.paths[p].gapped = x.gapped + 64 * k ∧ u.cx.paths[p].block = y.block
          ∧ u.host.ledger[(6 : Fin 9)].returned = s.host.ledger[(6 : Fin 9)].returned + BitVec.ofNat 64 (64 * k) + 64)
      ∧ (x.run ≠ .running → u = m))
  ∧ (∀ (t : DT) (p : Fin 64) (given : DT) (mid : List Sample) (s : State), s.cx.paths[p].run = .withholding →
      Gives (.syncSample t p given mid) s fun u =>
      let m := moment t s
      let x := m.cx.paths[p]
      let stamp := syncStamp x given
      ((x.catchUp (now m)).made < settling x → u = m)
        ∧ ((x.begin_ (now m) stamp mid).isSome = true →
            u.cx.paths[p].run = .running ∧ u.cx.paths[p].next = stamp ∧ u.cx.paths[p].opening = false ∧ u.cx.paths[p].gapFrom = none
            ∧ (∀ g, x.gapFrom = some g → u.cx.paths[p].gapped = x.gapped + dtSince g stamp * x.fout / 2 ^ 32)
            ∧ (x.gapFrom = none → u.cx.paths[p].gapped = x.gapped)))
  ∧ (∀ (t : DT) (p : Fin 64) (s : State), s.cx.paths[p].run = .hold → delivers s.cx.paths[p].source s = true → s.time.bothLost = false →
      Gives (.pathSourceResume t p) s fun u => u.cx.paths[p].run = .withholding)
  ∧ (∀ e : Entry, Does (.ctxSync e) specCtxSync e fun h u v =>
      let a := Entry.args e
      let l := syncCtxs a
      (l.all (namedOpen u) = false → v = reject h .errState u)
        ∧ (l.all (namedOpen u) = true → l.any (namedRead u) = false → l.all (· < 64) = true →
            v.cx.syncs = u.cx.syncs ++ [{ cmd := h.id, at_ := BitVec.ofNat 64 (le a 0 8), waiting := l, delivered := 0, left := 0 }]
              ∧ (∀ (c p : Fin 64), c.val ∈ l → p ∈ pathsOf c u → (u.cx.paths[p].run = .running ∨ u.cx.paths[p].run = .withholding) →
                  resetDue p (BitVec.ofNat 64 (le a 0 8)) u + (outSpan 1 u.cx.paths[p] : Int) < dtInt (now u) →
                  v.cx.paths[p].run = .withholding)
              ∧ ∀ p : Fin 64, v.cx.paths[p].grid = if l.any (fun c => match idx 64 c with | some c => (pathsOf c u).contains p | none => false)
                  then some (BitVec.ofNat 64 (le a 0 8)) else u.cx.paths[p].grid))
  ∧ (∀ (t : DT) (p : Fin 64) (s : State) (g : DT), s.cx.paths[p].grid = some g → syncAwaits p (moment t s) = true →
      (s.cx.paths[p].run = .running ∨ s.cx.paths[p].run = .withholding) → Gives (.ctxSyncReset t p) s fun u =>
        (resetMeets p g (moment t s) = true → jobReadsPath p s = false → u.cx.paths[p].run = .withholding)
          ∧ (resetMeets p g (moment t s) = false → u = moment t s))
  ∧ ∀ (t : DT) (p : Fin 64) (s : State) (g : DT) (y : SyncCmd) (h : Held), s.cx.paths[p].grid = some g → s.cx.paths[p].run = .hold →
      s.cx.syncs = [y] → y.waiting = [s.cx.paths[p].ctx] → findHeld y.cmd s = some h → g.toNat + 10 * 2 ^ 32 ≤ (now (moment t s)).toNat →
      Gives (.ctxSyncHoldTimeout t p) s fun u => ∃ v, u = finish h .ok [(16, 1, y.delivered), (17, 1, (y.left + 1 : Nat)), (24, 8, dtInt y.at_)] v
        ∧ v.cx.syncs = []

/-- Coefficient banks are loaded while idle and swapped by a fade; one swap waits behind a running one. CTX_COEF_LOAD with another count
than FIR_LEN is ERR_PARAM, into a busy bank ERR_STATE, else it fills the bank. CTX_COEF_SWAP to the active bank without a fade completes
at once; else the fade waits for the frame boundary; during a fade the request is queued in place of any queued one. The fade starts,
keeping the active bank, and after its length in FIR samples, not before, makes its target active and ends its command; a queued request
then follows, or is over if its bank is already active. Completion of ctxCoefLoad, ctxCoefSwap, fadeStart and fadeEnd.
(05_channel_mill.md: Programmable FIR and coefficient banks) -/
def Obligations.CoefficientSwapsFade : Prop :=
  (∀ (e : Entry) (c p : Fin 64) (l : List (Fin 64)), Does (.ctxCoefLoad e) specCtxCoefLoad e fun h u t =>
    let a := Entry.args e
    let b := le a 0 1 == 1
    let coefs := (List.range (coefCount a)).map fun i => leInt a (8 + 4 * i) 4
    openCtx h u = some c → pathsNamed c (le a 1 1) u = some (p :: l) →
      (coefCount a ≠ u.cx.paths[p].firLen → t = fail h .errParam (Entry.offset e 2) .outOfRange u)
        ∧ (coefCount a = u.cx.paths[p].firLen → bankBusy b u.cx.paths[p] = true → t = reject h .errState u)
        ∧ (coefCount a = u.cx.paths[p].firLen → bankBusy b u.cx.paths[p] = false → ∃ v, t = finish h .ok [(16, 1, bit b)] v
            ∧ v.cx.paths[p] = if b then { u.cx.paths[p] with bankB := coefs } else { u.cx.paths[p] with bankA := coefs }))
  ∧ (∀ (e : Entry) (c p : Fin 64) (l : List (Fin 64)), Does (.ctxCoefSwap e) specCtxCoefSwap e fun h u t =>
      let q : Swap := { target := fget (itemsOf h) 0x0704 == 1, len := (fget (itemsOf h) 0x0705).toNat, cmd := h.id }
      let x := u.cx.paths[p]
      openCtx h u = some c → pathsNamed c (itemArg8 (Entry.args e)) u = some (p :: l) →
        (x.fade = none → q.target = x.activeB → t = finish h .ok (swapResult x.activeB u) u)
          ∧ (x.fade = none → q.target ≠ x.activeB → t.cx.paths[p] = { x with fade := some (q, false) })
          ∧ (x.fade.isSome = true → t.cx.paths[p] = { x with queued := some q }))
  ∧ (∀ (t : DT) (p : Fin 64) (s : State) (q : Swap), s.cx.paths[p].fade = some (q, false) → s.cx.paths[p].run = .running →
      Gives (.fadeStart t p) s fun u => u.cx.paths[p].fade = some (q, true) ∧ u.cx.paths[p].activeB = s.cx.paths[p].activeB)
  ∧ ∀ (t : DT) (p : Fin 64) (s : State) (q : Swap) (h : Held), s.cx.paths[p].fade = some (q, true) → s.cx.paths[p].run = .running →
      findHeld q.cmd s = some h → Gives (.fadeEnd t p) s fun u =>
        let x := s.cx.paths[p]
        (x.fadePos < fadeSamples x q → u = moment t s) ∧ (fadeSamples x q ≤ x.fadePos → u.cx.paths[p].activeB = q.target
          ∧ (s.cx.paths[p].queued = none → u.cx.paths[p].fade = none ∧
              ∃ v, u = modPath p (fun x => { x with fade := none }) (finish h .ok (swapResult q.target v) v) ∧ v.time = (moment t s).time)
          ∧ (∀ y, s.cx.paths[p].queued = some y → u.cx.paths[p].queued = none
              ∧ u.cx.paths[p].fade = if y.target = q.target then none else some (y, false)))

/-- Each power block steps the two comparators, which raise THRESH_HIGH and THRESH_LOW. CTX_SET_THRESHOLDS with consistent levels waits
for the frame boundary of its paths, else ERR_PARAM, and ERR_STATE without an open context. On a running path each power block that its
samples filled gives its level and steps the enabled comparators with the conditions of R150 (above HIGH_LEVEL to enter, below HIGH_LEVEL
- HYST to clear; the low one likewise) and nothing else of the path but its level; a comparator that changes raises its event. Completion
of ctxSetThresholds and powerBlockEnd. (05_channel_mill.md: Threshold events; 05_channel_mill.md: Fields) -/
def Obligations.ThresholdsJudgePower : Prop :=
  (∀ (e : Entry) (c : Fin 64) (ps : List (Fin 64)), Does (.ctxSetThresholds e) specCtxSetThresholds e fun h u t =>
    openCtx h u = some c → pathsNamed c (itemArg8 (Entry.args e)) u = some ps →
      (ps.all (fun p => levelsOk (fmerge u.cx.paths[p].cfg (itemsOf h))) = true → t = park h (ps.map fun p => (p.val : Int)) u)
        ∧ (ps.all (fun p => levelsOk (fmerge u.cx.paths[p].cfg (itemsOf h))) = false → t = fail h .errParam 0xFFFF .outOfRange u))
  ∧ (∀ e : Entry, Does (.ctxSetThresholds e) specCtxSetThresholds e fun h u t => openCtx h u = none → t = reject h .errState u)
  ∧ ∀ (t : DT) (p : Fin 64) (sum n : Nat) (stamp : DT) (rest : List (Nat × Nat × DT)) (s : State),
      s.cx.paths[p].powers = (sum, n, stamp) :: rest → Gives (.powerBlockEnd t p) s fun u =>
      let x := s.cx.paths[p]
      let level := (blockLevel p sum n (moment t s)).1
      let en := (fget x.cfg 0x0706).toNat
      let us := (fget x.cfg 0x070A).toNat
      let hi := x.high.step (if x.high.entered then decide (level < fget x.cfg 0x0707 - fget x.cfg 0x0709) else decide (fget x.cfg 0x0707 < level))
        (dwellBlocks (fget x.cfg 0x070B).toNat us) stamp
      let lo := x.low.step (if x.low.entered then decide (fget x.cfg 0x0708 + fget x.cfg 0x0709 < level) else decide (level < fget x.cfg 0x0708))
        (dwellBlocks (fget x.cfg 0x070C).toNat us) stamp
      (x.run ≠ .running → u = moment t s)
        ∧ (x.run = .running → u.cx.paths[p] = { (moment t s).cx.paths[p] with
            powers := rest, level := level, high := if testBit en 0 then hi.1 else x.high, low := if testBit en 1 then lo.1 else x.low })
        ∧ (x.run = .running → testBit en 0 = true → hi.2 = true → testBit en 1 = false → ∃ v, u = threshEvent .threshHigh p hi.1 level v)
        ∧ (x.run = .running → testBit en 1 = true → lo.2 = true → testBit en 0 = false → ∃ v, u = threshEvent .threshLow p lo.1 level v)

/-- A comparator changes after exactly its dwell of consecutive blocks, stamped with the first of them. From a fresh dwell, as many
consecutive blocks that meet the condition as the dwell asks turn the comparator, leave it with a fresh dwell and the stamp of the first
block; fewer leave it unturned with that many counted; a block that breaks the condition restarts the dwell and turns nothing.
(05_channel_mill.md: Threshold events) -/
def Obligations.DwellCountsConsecutiveBlocks : Prop :=
  (∀ (c : Comparator) (stamps : List DT), c.blocks = 0 → stamps ≠ [] →
    stamps.foldl (fun c st => (c.step true stamps.length st).1) c = { entered := !c.entered, blocks := 0, first := stamps.headD 0 })
  ∧ (∀ (c : Comparator) (n : Nat) (stamps : List DT), c.blocks = 0 → stamps.length < n →
      (stamps.foldl (fun c st => (c.step true n st).1) c).entered = c.entered
        ∧ (stamps.foldl (fun c st => (c.step true n st).1) c).blocks = stamps.length)
  ∧ ∀ (c : Comparator) (n : Nat) (st : DT), (c.step false n st) = ({ c with blocks := 0 }, false)

/-- Context commands are judged on acceptance: open, retune, close, stage, commit, diversity, quality. CTX_OPEN, in this order: ERR_PARAM
without a standard or a frequency, with blend levels that do not agree or a named source that does not cover the band, ERR_STATE unless
CLOSED, NO_RESOURCE beyond the limits or without a source; else the context opens with its standard, frequency, source and set and an
empty shadow. CTX_RETUNE, CTX_CLOSE, CTX_COMMIT and CTX_DIVERSITY are ERR_STATE without an open context and otherwise wait for the frame
boundary once resources allow (deferred where a Saggar job reads the context). CTX_STAGE keeps ST values in the shadow set and LK values,
while no path runs, in the set for the next start; ERR_PARAM for an NCO_TRIM beyond its bound comes before BUSY_RUNNING for LK fields of
a running path. CTX_GET_QUALITY gives its figures. Completion of ctxOpen, ctxRetune, ctxClose, ctxStage, ctxCommit, ctxDiversity and
ctxGetQuality. (06_contexts_analogue.md: Opening; 06_contexts_analogue.md: Staging and commit; 06_contexts_analogue.md: Wheel placement;
06_contexts_analogue.md: Branches: diversity and failover) -/
def Obligations.ContextCommandsAreJudged : Prop :=
  (∀ (e : Entry) (c : Fin 64) (std : Standard) (src : Nat) (v : State), e.target.toNat = c.val → Does (.ctxOpen e) specCtxOpen e fun h u t =>
    let a := Entry.args e
    let cfg := openSet c std (items a) u
    let freq := (fget cfg 0x0801).toNat
    let pref := (fget cfg 0x0802).toNat
    (itemStd a = none → t = fail h .errParam 0xFFFF .outOfRange u)
      ∧ (itemStd a = some std → (fhas (items a) 0x0801 = false ∨ blendOk std cfg = false ∨ namedMisses pref freq (halfBand std cfg) u = true) →
          t = fail h .errParam 0xFFFF .outOfRange u)
      ∧ (itemStd a = some std → fhas (items a) 0x0801 = true → blendOk std cfg = true → namedMisses pref freq (halfBand std cfg) u = false →
          u.cx.ctxs[c].st ≠ .closed → t = reject h .errState u)
      ∧ (u.cx.ctxs[c].st = .closed → itemStd a = some std → fhas (items a) 0x0801 = true → blendOk std cfg = true →
          namedMisses pref freq (halfBand std cfg) u = false →
          (withinLimits std u = false → t = reject h .noResource u)
            ∧ (withinLimits std u = true → openSource pref freq (halfBand std cfg) u = none → t = reject h .noResource u)
            ∧ (withinLimits std u = true → openSource pref freq (halfBand std cfg) u = some src → putContext c std cfg src u = some v →
                (v.cx.paths[(v.cx.ctxs[c].primary.getD 0)]).trim.natAbs ≤ trimBound v.cx.paths[(v.cx.ctxs[c].primary.getD 0)] →
                ∃ w, t = begin_ h w ∧ w.cx.ctxs[c].st = .opening ∧ w.cx.ctxs[c].std = std ∧ w.cx.ctxs[c].freq = freq
                  ∧ w.cx.ctxs[c].source = src ∧ w.cx.ctxs[c].cfg = cfg ∧ w.cx.ctxs[c].shadow = [])))
  ∧ (∀ e : Entry, Does (.ctxRetune e) specCtxRetune e fun h u t => openCtx h u = none → t = reject h .errState u)
  ∧ (∀ (e : Entry) (c : Fin 64), Does (.ctxRetune e) specCtxRetune e fun h u t =>
      let x := u.cx.ctxs[c]
      let l := itemsOf h
      openCtx h u = some c → fhas l 0x0801 = true → blendOk x.std (retuned x l) = true →
        (retuneSource x l u = none → t = fail h (retuneMiss x l u) 0xFFFF .outOfRange u)
          ∧ ((retuneSource x l u).isSome = true → (regrow c u (withLive c (fmerge x.shadow l) u)).isSome = true →
              t = if namedRead u c.val then deferCmd h [] u else park h [] u))
  ∧ (∀ (e : Entry) (c : Fin 64), Does (.ctxClose e) specCtxClose e fun h u t =>
      (openCtx h u = none → t = reject h .errState u)
        ∧ (openCtx h u = some c → t = if namedRead u c.val then deferCmd h [] u else park h [] u))
  ∧ (∀ (e : Entry) (c : Fin 64), e.target.toNat = c.val → Does (.ctxStage e) specCtxStage e fun h u t =>
      let x := u.cx.ctxs[c]
      let l := itemsOf h
      (x.st = .closed → ∃ v, t = finish h .ok [(16, 1, l.length), (24, 8, dtInt (now v))] v ∧ v.cx.ctxs[c].shadow = fmerge x.shadow l
          ∧ v.cx.ctxs[c].cfg = x.cfg)
        ∧ (x.st ≠ .closed → trimOk c l u = false → t = fail h .errParam (Entry.offset h.entry (itemAt 0x0702 h)) .outOfRange u)
        ∧ (x.st ≠ .closed → trimOk c l u = true → ofClass .lk l ≠ [] → pathRuns c u = true → t = reject h .busyRunning u)
        ∧ (x.st ≠ .closed → (ofClass .lk l = [] ∨ pathRuns c u = false) → trimOk c l u = true → ofClass .lv l = [] → waiting 0x0405 c.val u = [] →
            regrow c u (withLive c [] u) ≠ none → ∃ v, t = finish h .ok [(16, 1, l.length), (24, 8, dtInt (now v))] v
              ∧ v.cx.ctxs[c].shadow = fmerge x.shadow (ofClass .st l)
              ∧ v.cx.ctxs[c].cfg = if ofClass .lk l = [] then x.cfg else fmerge x.cfg (ofClass .lk l)))
  ∧ (∀ (e : Entry) (c : Fin 64), Does (.ctxCommit e) specCtxCommit e fun h u t =>
      let x := u.cx.ctxs[c]
      (openCtx h u = none → t = reject h .errState u)
        ∧ (openCtx h u = some c → itemAction (Entry.args e) = 1 → t = park h [] u)
        ∧ (openCtx h u = some c → itemAction (Entry.args e) = 0 → (blendOk x.std (committed x) = false ∨ commitMisses x u = true) →
            t = fail h .errParam 0xFFFF .outOfRange u)
        ∧ (openCtx h u = some c → itemAction (Entry.args e) = 0 → blendOk x.std (committed x) = true → commitMisses x u = false →
            commitMoves x u = false → (regrow c u (withLive c x.shadow u)).isSome = true → t = park h [] u))
  ∧ (∀ (e : Entry) (c : Fin 64), Does (.ctxDiversity e) specCtxDiversity e fun h u t =>
      let cfg := divSet u.cx.ctxs[c] (itemsOf h)
      let d := (fget cfg 0x0805).toNat
      (openCtx h u = none → t = reject h .errState u)
        ∧ (openCtx h u = some c → (fget cfg 0x0804 = 0 ∨ keepsBranch c d u = true) → t = park h [] u)
        ∧ (openCtx h u = some c → fget cfg 0x0804 ≠ 0 → keepsBranch c d u = false → divRefused c d u = false → diversitySource c d u = none →
            t = reject h .noResource u)
        ∧ (∀ src, openCtx h u = some c → fget cfg 0x0804 ≠ 0 → keepsBranch c d u = false → divRefused c d u = false → diversitySource c d u = some src →
            alignable c src u = true → (addDiversity c src u).isSome = true → t = park h [] u))
  ∧ ∀ (e : Entry) (c : Fin 64), Does (.ctxGetQuality e) specCtxGetQuality e fun h u t =>
      (openCtx h u = none → t = reject h .errState u)
        ∧ (openCtx h u = some c → t = finishOut h .ok (qualityFigures u.cx.ctxs[c] (branchLive u.cx.ctxs[c] u)) none u)

/-- A context frame and a path's frame boundary apply what waits for them. A frame of a closed context, or before the primary path has
delivered it, changes nothing but the time. Of a context in production with nothing waiting (other than DAB) it takes the frame's figures
into the context and writes a checkpoint, one whose blocks are kept no longer is only counted; with AFC ON and no Saggar job reading the
path, NCO_TRIM follows the offset found. While the primary waits for its source a live branch gives the frames. With no path running and
nothing waiting nothing changes; a waiting CTX_CLOSE closes it and completes. At a path's boundary a waiting CTX_SET_THRESHOLDS applies
its levels and completes, with ERR_PARAM and no change where they no longer agree; a path that does not run changes nothing. Completion
of contextFrame and pathCommitApply. (06_contexts_analogue.md: The context; 06_contexts_analogue.md: Staging and commit;
05_channel_mill.md: Coinciding events) -/
def Obligations.FramesApplyWhatWaits : Prop :=
  (∀ (t : DT) (c : Fin 64) (f : FrameFigures) (s : State), Gives (.contextFrame t c f) s fun u =>
    let m := moment t s
    let x := m.cx.ctxs[c]
    let y := Ctx.takeFrame f (frameClips c m) (branchLive x m) (now m) x
    let free := m.host.held = [] ∧ x.afSwitch = none ∧ x.std ≠ .dab
    (x.st = .closed ∨ frameDue c m = false → u = m)
      ∧ (x.st ≠ .closed → x.st ≠ .hold → primaryRuns c m = true → frameDue c m = true → free →
          (frameKept c m = false → u.cx.ctxs[c] = { x with frame := x.frame + 1 })
            ∧ (frameKept c m = true → fget x.cfg 0x0806 = 0 → u.cx.ctxs[c] = Ctx.save { y with afcDigital := 0 })
            ∧ (∀ p : Fin 64, frameKept c m = true → fget x.cfg 0x0806 ≠ 0 → x.primary = some p → x.branch = none → jobReadsPath p m = false →
                u.cx.paths[p].trim = afcTrim y m.cx.paths[p]))
      ∧ (x.st ≠ .closed → x.st ≠ .hold → primaryRuns c m = false → branchLive x m = true → free → fget x.cfg 0x0806 = 0 →
          u.cx.ctxs[c] = Ctx.save { y with afcDigital := 0 })
      ∧ (x.st ≠ .closed → primaryRuns c m = false → branchLive x m = false → free → u = m)
      ∧ (∀ h, x.st ≠ .closed → primaryRuns c m = false → branchLive x m = false → nextLifecycle c m = some h → h.op = 0x0402 → waiting 0x0405 c.val m = [] →
          namedRead m c.val = false → ∃ v, u = finishC h v ∧ v.cx.ctxs[c].st = .closed))
  ∧ ∀ (t : DT) (p : Fin 64) (s : State), Gives (.pathCommitApply t p) s fun u =>
      let m := moment t s
      (m.cx.paths[p].run ≠ .running → u = m)
        ∧ (∀ h, m.cx.paths[p].run = .running → thresholdCmds p m = [h] → h.aux.drop 1 = [(p.val : Int)] → (∀ c, waiting 0x0406 c m = []) →
            let new := fmerge [] (itemsOf h)
            (levelsOk (fmerge m.cx.paths[p].cfg new) = true → ∃ v, u = finishC h v ∧ v.cx.paths[p] = applyThresholds new m.cx.paths[p])
              ∧ (levelsOk (fmerge m.cx.paths[p].cfg new) = false → u = fail h .errParam 0xFFFF .outOfRange m))

/-- Acquisition, loss, pilot, equaliser, MPX power and measurement windows follow their times. A context acquires into RUNNING after 20
ms of its condition and falls back to ACQUIRING after 200 ms of loss. The presence of the FM pilot changes once its frames have asked for
it for 50 ms; the equaliser in AUTO engages or disengages once they have asked for that for 1 s, with EQ_DENIED where it cannot be
placed, and neither any earlier. MPX power is valid after 60 s and over its limit when above it. Window figures are taken when the window
has run. Completion of acquisitionHoldMet, cnrLossTimeout, pilotDetectTimeout, eqAutoTimeout, mpxPowerUpdate and measWindowEnd.
(06_contexts_analogue.md: The context; 06_contexts_analogue.md: FM demodulation; 06_contexts_analogue.md: Quality figures) -/
def Obligations.ContextTimersAct : Prop :=
  (∀ (t d : DT) (c : Fin 64) (s : State), s.cx.ctxs[c].acqFrom = some d → s.cx.ctxs[c].st = .acquiring →
    Gives (.acquisitionHoldMet t c) s fun u =>
      u.cx.ctxs[c].st = if msDt 20 ≤ dtSince d (now (moment t s)) then .running else .acquiring)
  ∧ (∀ (t d : DT) (c : Fin 64) (s : State), s.cx.ctxs[c].lossFrom = some d → s.cx.ctxs[c].st = .running →
      Gives (.cnrLossTimeout t c) s fun u =>
        u.cx.ctxs[c].st = if msDt 200 ≤ dtSince d (now (moment t s)) then .acquiring else .running)
  ∧ (∀ (t : DT) (c : Fin 64) (present : Bool) (s : State), s.cx.ctxs[c].std = .fm → s.cx.ctxs[c].st ≠ .closed →
      Gives (.pilotDetectTimeout t c present) s fun u =>
        let x := s.cx.ctxs[c]
        let beyond := heldFor 50 x.pilotFrom (now (moment t s))
        (x.pilot ≠ present → beyond = true → u.cx.ctxs[c] = { x with pilot := present, pilotFrom := none })
          ∧ (x.pilot = present ∨ beyond = false → u.cx.ctxs[c] = x))
  ∧ (∀ (t : DT) (c : Fin 64) (s : State), s.cx.ctxs[c].std = .fm → s.cx.ctxs[c].st ≠ .closed → fget s.cx.ctxs[c].cfg 0x080D = 1 →
      let x := s.cx.ctxs[c]
      let beyond := heldFor 1000 x.eqFrom (now (moment t s))
      (∀ engage, beyond = false → Gives (.eqAutoTimeout t c engage) s fun u => u = moment t s)
        ∧ (beyond = true → x.eqEngaged = true → Gives (.eqAutoTimeout t c false) s fun u =>
            u.cx.ctxs[c] = { x with eqEngaged := false, eqDenied := false, eqFrom := none })
        ∧ (beyond = true → x.eqEngaged = false →
            regrow c (moment t s) (modCtx c (fun x => { x with eqEngaged := true, eqDenied := false }) (moment t s)) = none →
            Gives (.eqAutoTimeout t c true) s fun u => u.cx.ctxs[c] = { x with eqDenied := true })
        ∧ ∀ v, beyond = true → x.eqEngaged = false →
            regrow c (moment t s) (modCtx c (fun x => { x with eqEngaged := true, eqDenied := false }) (moment t s)) = some v →
            Gives (.eqAutoTimeout t c true) s fun u => u = modCtx c (fun x => { x with eqFrom := none }) v ∧ u.cx.ctxs[c].eqEngaged = true)
  ∧ (∀ (t d : DT) (c : Fin 64) (meanSq : Nat) (s : State), s.cx.ctxs[c].mpxFrom = some d → s.cx.ctxs[c].std = .fm →
      s.cx.ctxs[c].st ≠ .closed → s.cx.ctxs[c].st ≠ .hold → Gives (.mpxPowerUpdate t c meanSq) s fun u =>
        let m := moment t s
        let x := s.cx.ctxs[c]
        let l := (meanSq :: x.mpxSeconds).take 60
        let sum : Nat := l.foldl (· + ·) 0
        let power := if sum = 0 then freeNow m else hundredthsDb sum (l.length * 180500000)
        (dtSince d (now m) < (x.mpxCount + 1) * 2 ^ 32 → u = m)
          ∧ ((x.mpxCount + 1) * 2 ^ 32 ≤ dtSince d (now m) → u.cx.ctxs[c] = { x with
              mpxSeconds := l, mpxCount := x.mpxCount + 1, mpxPower := power, mpxValid := decide (60 ≤ x.mpxCount + 1),
              mpxOver := decide (fget x.cfg 0x0810 < power) }))
  ∧ ∀ (t : DT) (c : Fin 64) (f : WindowFigures) (s : State), s.cx.ctxs[c].st ≠ .closed → s.cx.ctxs[c].st ≠ .hold →
      Gives (.measWindowEnd t c f) s fun u =>
        let m := moment t s
        let x := s.cx.ctxs[c]
        let depth : Int × Int := match modDepth 1000 f.envelope with
          | some d => d
          | none => if x.std = .am then (freeNow m, freeNow (useFree m)) else (0, 0)
        u.cx.ctxs[c] = if dtSince x.winFrom (now m) < msDt ((fget x.cfg 0x080E).toNat * 100) then x
          else Ctx.newWindow (now m) { x with win := windowResult x f depth }

/-- A hung Wheel is taken out for its self-test and no open context stays on it; failover attaches a branch. When the watchdog of a Wheel
that works expires, the Wheel is in test, remembers the instant and the contexts it had, and no context that is not CLOSED is on it
afterwards. The cleared backlog forgets those contexts; the self-test passed returns the Wheel, failed marks it failed. A context that
wants no failover branch keeps what it has; one that wants it has it after an attachment that succeeds; within 1 s of the last try
nothing is tried. Completion of wheelWatchdogExpiry, hangBacklogCleared, wheelSelfTestDone and failoverBranchRetry.
(06_contexts_analogue.md: Checkpoints and migration; 06_contexts_analogue.md: Branches: diversity and failover) -/
def Obligations.HungWheelsLoseTheirContexts : Prop :=
  (∀ (t : DT) (w : Fin 16) (s : State), s.cx.wheels[w].failed = false → s.cx.wheels[w].testing = false →
    Gives (.wheelWatchdogExpiry t w) s fun u =>
      let m := moment t s
      u.cx.wheels[w] = { s.cx.wheels[w] with testing := true, hungAt := now m, moved := (onWheel w m).map fun c => (c.val, m.cx.ctxs[c].reload.frame) }
        ∧ ∀ c : Fin 64, u.cx.ctxs[c].st ≠ .closed → u.cx.ctxs[c].wheel ≠ some w)
  ∧ (∀ (t : DT) (w : Fin 16) (s : State), Gives (.hangBacklogCleared t w) s fun u =>
      u.cx.wheels = upd s.cx.wheels w (fun x => { x with moved := [] }) ∧ u.cx.ctxs = s.cx.ctxs)
  ∧ (∀ (t : DT) (w : Fin 16) (pass : Bool) (s : State), Gives (.wheelSelfTestDone t w pass) s fun u =>
      (s.cx.wheels[w].testing = true → u.cx.wheels[w] = { s.cx.wheels[w] with testing := false, failed := !pass })
        ∧ (s.cx.wheels[w].testing = false → u = moment t s))
  ∧ ∀ (t : DT) (c : Fin 64) (s : State), s.cx.ctxs[c].wheel.isSome = true → s.cx.ctxs[c].st ≠ .hold → s.cx.ctxs[c].st ≠ .opening →
      s.cx.ctxs[c].st ≠ .retuning → Gives (.failoverBranchRetry t c) s fun u =>
        let m := moment t s
        let n := modCtx c (fun x => { x with triedAt := some (now m) }) m
        (retryDue m.cx.ctxs[c] (now m) = false → u = m)
          ∧ (retryDue m.cx.ctxs[c] (now m) = true →
            (wantsFailover m.cx.ctxs[c] = false → u = n)
              ∧ (wantsFailover m.cx.ctxs[c] = true → attachBranch c .failover 0 n = none → u.cx.ctxs = n.cx.ctxs)
              ∧ ∀ v, wantsFailover m.cx.ctxs[c] = true → attachBranch c .failover 0 n = some v → u = v)

/-- DAB synchronisation, frames, CIFs, logical frames, reacquisition, FIC and TII. Two null symbols one frame apart within the tolerance
give synchronisation; a frame holds it, gives full reception with 9 or more FIBs, or after missed nulls loses it. CIF boundaries number
the CIFs and count time-interleaving and erasures; a logical frame adds to its sub-channel's statistics once 16 CIFs are written. After
loss, another ensemble clears what was known, the same one keeps it when the CIF count fits the span of at most 2 s, and else refills.
The FIC sets ensemble, CIF count, reconfiguration and the clusters supported; the TII list keeps at most eight entries above the limit
and within 246 us, the strongest first. Completion of dabNullDetected, dabFrameEnd, cifBoundary, logicalFrameComplete, dabReacquisition,
ficDecoded and tiiListUpdate. (07_digital_demodulation.md: DAB reception) -/
def Obligations.DabReceptionFollowsItsFrames : Prop :=
  (∀ (t : DT) (c : Fin 64) (k : Nat) (s : State), s.cx.ctxs[c].std = .dab → primaryRuns c (moment t s) = true →
    Gives (.dabNullDetected t c k) s fun u =>
      let d := s.cx.ctxs[c].dab
      (d.firstNull = none → u.cx.ctxs[c].dab = { d with firstNull := some k })
        ∧ ∀ a, d.firstNull = some a → u.cx.ctxs[c].dab.firstNull = some k
            ∧ u.cx.ctxs[c].dab.sync = (d.sync || decide (a + 196608 ≤ k + 64 ∧ k ≤ a + 196608 + 64)))
  ∧ (∀ (t : DT) (c : Fin 64) (held null : Bool) (fibs : Nat) (s : State), s.cx.ctxs[c].std = .dab → s.cx.ctxs[c].dab.sync = true →
      primaryRuns c (moment t s) = true → Gives (.dabFrameEnd t c held null fibs) s fun u =>
        let x := s.cx.ctxs[c]
        let y := u.cx.ctxs[c]
        (null = false → 2 ≤ x.dab.missed → y.dab.sync = false ∧ y.dab.full = false ∧ y.dab.lostAt = some (now (moment t s))
            ∧ y.st = if x.st = .running then .acquiring else x.st)
          ∧ ((null = true ∨ x.dab.missed < 2) → y.dab.sync = true ∧ y.dab.full = (held && decide (9 ≤ fibs))
            ∧ y.dab.missed = (if null then 0 else x.dab.missed + 1)
            ∧ y.st = if held = true ∧ 9 ≤ fibs ∧ x.st = .acquiring then .running else x.st))
  ∧ (∀ (t : DT) (c : Fin 64) (cif : Nat) (received : Bool) (s : State), s.cx.ctxs[c].std = .dab → s.cx.ctxs[c].dab.eid.isSome = true →
      s.cx.ctxs[c].dab.next = none → Gives (.cifBoundary t c cif received) s fun u =>
        let d := s.cx.ctxs[c].dab
        let e := u.cx.ctxs[c].dab
        e.cif = (if d.lostAt.isSome then d.cif else cif) ∧ e.cifsWritten = min 16 (d.cifsWritten + 1)
          ∧ e.erasedCifs = if received then d.erasedCifs - 1 else 16)
  ∧ (∀ (t : DT) (c : Fin 64) (k : Nat) (stamp : DT) (f : LogicalFrame) (s : State), Gives (.logicalFrameComplete t c k stamp f) s fun u =>
      let d := s.cx.ctxs[c].dab
      (d.cifsWritten < 16 → u = moment t s)
        ∧ (s.cx.ctxs[c].std = .dab → 16 ≤ d.cifsWritten → d.subs.any (·.subch == k) = true → s.cx.subs = [] →
            u = modStat c k (fun y => { y with
              rsCorrected := y.rsCorrected + f.rsCorrected, rsFailed := y.rsFailed + f.rsFailed,
              syncLosses := y.syncLosses + bit f.syncLost, erasedFrames := y.erasedFrames + (if d.erasedCifs = 0 then 0 else 1) }) (moment t s)))
  ∧ (∀ (t l : DT) (c : Fin 64) (e eid cif : Nat) (s : State), s.cx.ctxs[c].dab.lostAt = some l → s.cx.ctxs[c].dab.eid = some e →
      s.cx.ctxs[c].dab.sync = true → Gives (.dabReacquisition t c eid cif) s fun u =>
        let d := s.cx.ctxs[c].dab
        let y := u.cx.ctxs[c].dab
        let span := dtSince l (now (moment t s))
        y.lostAt = none ∧ y.cif = cif
          ∧ (e ≠ eid → y.eid = some eid ∧ y.ensembleChanged = true ∧ y.cifsWritten = 0 ∧ y.comps = [] ∧ y.subs = [])
          ∧ (e = eid → cifConsistent d.cif cif span = true → span ≤ 2 * 2 ^ 32 → y.cifsWritten = d.cifsWritten ∧ y.comps = d.comps)
          ∧ (e = eid → (cifConsistent d.cif cif span = false ∨ 2 * 2 ^ 32 < span) → y.cifsWritten = 0 ∧ y.comps = d.comps))
  ∧ (∀ (t : DT) (c : Fin 64) (f : FicData) (s : State), s.cx.ctxs[c].std = .dab → primaryRuns c (moment t s) = true →
      s.cx.ctxs[c].dab.sync = true → f.fibsPassed ≠ 0 → s.cx.subs = [] → f.labels = [] → f.announce = [] → f.components = none →
      s.cx.ctxs[c].dab.lostAt = none → Gives (.ficDecoded t c f) s fun u =>
        let d := s.cx.ctxs[c].dab
        u.cx.ctxs[c].dab = { d with
          eid := some f.eid, cif := f.cifCount, next := (match f.next with | some n => some n | none => d.next),
          clusters := (d.clusters ++ f.clusters).eraseDups })
  ∧ ∀ (t : DT) (c : Fin 64) (l : List (Nat × Nat × Int × Int)) (s : State), s.cx.ctxs[c].std = .dab → s.cx.ctxs[c].dab.sync = true →
      fget s.cx.ctxs[c].cfg 0x0908 = 1 → Gives (.tiiListUpdate t c l) s fun u =>
        u.cx.ctxs[c].dab.tii.length ≤ 8 ∧ (∀ e ∈ u.cx.ctxs[c].dab.tii, e ∈ l ∧ -300 ≤ e.2.2.1 ∧ e.2.2.2.natAbs ≤ 2460)
          ∧ u.cx.ctxs[c].dab.tii.Pairwise fun a b => b.2.2.1 ≤ a.2.2.1

/-- DRM frames and the SDC move synchronisation, full reception and the multiplex. A DRM frame sets synchronisation as held, another
robustness mode being a loss of it; full reception comes after the second good FAC of an unchanged permitted mode, and goes on lost
synchronisation, a bad FAC or a foreign mode; a running context falls back to ACQUIRING on lost synchronisation or the third bad FAC and
runs again with full reception. The first FAC that passes once sync is found gives occupancy, interleaving and modulation. At the super
frame of an announced reconfiguration the components announced apply. An SDC with a bad CRC is counted and changes no component.
Completion of drmFrameEnd and sdcDecoded. (07_digital_demodulation.md: DRM and DRM+ reception) -/
def Obligations.DrmReceptionFollowsItsFrames : Prop :=
  (∀ (t : DT) (c : Fin 64) (f : DrmFrame) (s : State), isDrm s.cx.ctxs[c].std = true → primaryRuns c (moment t s) = true → s.cx.subs = [] →
    f.streams = [] → s.cx.ctxs[c].drm.compsNext = none ∨ s.cx.ctxs[c].drm.reconfigures f = false → Gives (.drmFrameEnd t c f) s fun u =>
      let x := s.cx.ctxs[c]
      let y := u.cx.ctxs[c]
      let other := ∃ a b, x.drm.mode = some a ∧ f.mode = some b ∧ a ≠ b
      let lost := f.syncHeld = false ∨ other
      y.drm = x.drm.takeFrame x.std f (modeOk x f.mode) (now (moment t s)) ∧ (y.drm.sync = false ↔ lost)
        ∧ (f.syncHeld = true → f.facOk = true → modeOk x f.mode = true → 1 ≤ x.drm.good → f.mode = x.drm.mode → y.drm.full = true)
        ∧ (lost ∨ f.facOk = false ∨ modeOk x f.mode = false → y.drm.full = false)
        ∧ (¬ lost → f.facOk = true → x.drm.facTaken = false →
            y.drm.occupancy = f.occupancy ∧ y.drm.longInt = f.longInterleave ∧ y.drm.qam = f.qam)
        ∧ (x.st = .running → (lost ∨ (f.facOk = false ∧ 2 ≤ x.drm.bad)) → y.st = .acquiring)
        ∧ (x.st = .running → ¬ lost → (f.facOk = true ∨ x.drm.bad < 2) → y.st = .running)
        ∧ (x.st = .acquiring → y.st = if y.drm.full then .running else .acquiring))
  ∧ (∀ (t : DT) (c : Fin 64) (f : DrmFrame) (l : List Component) (s : State), isDrm s.cx.ctxs[c].std = true →
      primaryRuns c (moment t s) = true → f.streams = [] → s.cx.subs = [] → s.cx.ctxs[c].drm.compsNext = some l →
      s.cx.ctxs[c].drm.reconfigures f = true → Gives (.drmFrameEnd t c f) s fun u =>
        compsOf u.cx.ctxs[c] = l ∧ u.cx.ctxs[c].drm.compsNext = none)
  ∧ (∀ (t : DT) (c : Fin 64) (d : SdcData) (s : State), isDrm s.cx.ctxs[c].std = true → primaryRuns c (moment t s) = true →
      s.cx.ctxs[c].drm.sync = true → Gives (.sdcDecoded t c d) s fun u =>
        (d.crcOk = false → u.cx.ctxs[c].drm.sdcErr = s.cx.ctxs[c].drm.sdcErr + 1 ∧ u.cx.ctxs[c].drm.comps = s.cx.ctxs[c].drm.comps)
          ∧ (d.crcOk = true → s.cx.subs = [] → d.alerts = [] → compsOf s.cx.ctxs[c] = d.components → d.nextComponents = none →
              u = modCtx c (Ctx.seeAfs d.afs 4) (moment t s)))

/-- Subscriptions are granted within their limits; RDS groups, buffer flush and MOT timeouts follow their rules. DATA_SUBSCRIBE:
ERR_STATE without an open context, ERR_PARAM for a kind the standard lacks, NO_RESOURCE beyond 512 or 32 per context, else the identifier
of SubscriptionIdentifiersAreFresh and a new last subscription. DATA_UNSUBSCRIBE waits for the frame boundary. An RDS group, corrected as
far as RDS_CORR allows, moves the block history, synchronisation (lost at 45 failed of the 50 since) and counts. A buffer is flushed
after FLUSH since its first write. A MOT object is dropped 60 s after its last part from every subscription of its component, and counted
once. Completion of dataSubscribe, dataUnsubscribe, rdsGroupReceived, bufferFlushTimeout and motObjectTimeout. (08_side_data_af.md:
Subscriptions; 08_side_data_af.md: Data records and buffers; 08_side_data_af.md: RDS and RBDS) -/
def Obligations.SideDataIsSubscribedAndReceived : Prop :=
  (∀ (e : Entry) (c : Fin 64), Does (.dataSubscribe e) specDataSubscribe e fun h u t =>
    let a := Entry.args e
    let kind := le a 0 1
    let id := freeSub u
    let new : Sub := { id := id, ctx := c.val, kind := kind, selector := (a.drop 8).take 10, seq := 0, last := [], parts := [], motSince := [] }
    (openCtx h u = none → t = reject h .errState u)
      ∧ (openCtx h u = some c → kindOk kind u.cx.ctxs[c].std = false → t = fail h .errParam (Entry.offset e 0) .outOfRange u)
      ∧ (openCtx h u = some c → kindOk kind u.cx.ctxs[c].std = true → (512 ≤ u.cx.subs.length ∨ 32 ≤ (subsOf c.val u).length) →
          t = reject h .noResource u)
      ∧ (∀ v, openCtx h u = some c → kindOk kind u.cx.ctxs[c].std = true → u.cx.subs.length < 512 → (subsOf c.val u).length < 32 →
          regrow c u (modCtx c (fun x => x.askAgain (subSubch x new).toList) (modCx (fun x => { x with subs := x.subs ++ [new], nextSub := id + 1 }) u))
            = some v →
          t = finish h .ok [(16, 2, id.toNat)] v ∧ v.cx.subs = u.cx.subs ++ [new]))
  ∧ (∀ (e : Entry) (c : Fin 64), Does (.dataUnsubscribe e) specDataUnsubscribe e fun h u t =>
      let n := le (Entry.args e) 0 2
      (openCtx h u = none → t = reject h .errState u)
        ∧ (openCtx h u = some c → (subsOf c.val u).any (fun w => w.id.toNat == n) = true → t = park h [] u)
        ∧ (openCtx h u = some c → (subsOf c.val u).any (fun w => w.id.toNat == n) = false → t = fail h .errParam (Entry.offset e 0) .outOfRange u))
  ∧ (∀ (t : DT) (c : Fin 64) (g : RdsGroup) (s : State), s.cx.ctxs[c].std = .fm → primaryRuns c (moment t s) = true →
      Gives (.rdsGroupReceived t c g) s fun u =>
        let x := s.cx.ctxs[c]
        let k := correctGroup (fget x.cfg 0x0A01) g
        let r := x.rds.takeBlocks k
        let y := u.cx.ctxs[c].rds
        let e := fget x.cfg 0x0A00 = 1 ∧ g.mmbs = true
        y.blocks = r.blocks ∧ y.sync = r.sync
          ∧ (x.rds.sync = true → 46 ≤ x.rds.synced → (y.sync = false ↔ 45 ≤ (r.blocks.take 50).countP id))
          ∧ (x.rds.sync = true → x.rds.synced < 41 → y.sync = true)
          ∧ (e → y.mmbs = x.rds.mmbs + 1 ∧ y.groups = x.rds.groups)
          ∧ (¬ e → y.groups = if r.sync = true ∧ (k.stA.val < 2 ∨ k.stB.val < 2) then x.rds.groups + 1 else x.rds.groups))
  ∧ (∀ (t d : DT) (cls : Fin 4) (b : Buffer) (rest : List Buffer) (s : State), s.host.rings[cls].buffers = b :: rest → b.firstWrite = some d →
      cls.val < 3 → Gives (.bufferFlushTimeout t cls) s fun u =>
        (msDt s.cx.flushMs ≤ dtSince d (now (moment t s)) → u = returnBuffer cls .ok (moment t s) ∧ u.host.rings[cls].buffers = rest)
          ∧ (dtSince d (now (moment t s)) < msDt s.cx.flushMs → u = moment t s))
  ∧ ∀ (t : DT) (id : BitVec 16) (s : State), Gives (.motObjectTimeout t id) s fun u =>
      (findSub id s = none → u = moment t s)
        ∧ (∀ w, findSub id s = some w → (w.motSince.all fun m => decide (dtSince m.2 (now (moment t s)) < 60 * 2 ^ 32)) = true → u = moment t s)
        ∧ (∀ w, findSub id s = some w →
            let late := (w.motSince.filter fun m => decide (60 * 2 ^ 32 ≤ dtSince m.2 (now (moment t s)))).map (·.1)
            let all_ := s.cx.subs.map fun v => if (v.ctx = w.ctx ∧ v.kind = w.kind ∧ v.selector = w.selector) ∧ late ≠ [] then { v with
              parts := v.parts.filter fun p => !late.contains p.1.obj, motSince := v.motSince.filter fun m => !late.contains m.1 } else v
            u.cx.subs = all_
              ∧ ∀ (c : Fin 64) (k : Nat), w.ctx = c.val → subSubch s.cx.ctxs[c] w = some k → late ≠ [] →
                u.cx.ctxs[c].dab.subs = s.cx.ctxs[c].dab.subs.map fun y =>
                  if y.subch = k then { y with incomplete := y.incomplete + late.length } else y)

/-- The identifier given to a new subscription is held by no other subscription. With at most 512 subscriptions, the limit of R214, the
identifier that DATA_SUBSCRIBE gives differs from that of every subscription there is, and it is the next one in turn where that is free.
R214 asks that identifiers be unique; the order of giving is the model's choice. (08_side_data_af.md: Subscriptions) -/
def Obligations.SubscriptionIdentifiersAreFresh : Prop :=
  ∀ s : State, s.cx.subs.length ≤ 512 → (∀ w ∈ s.cx.subs, w.id ≠ freeSub s)
    ∧ ((s.cx.subs.any fun w => w.id == s.cx.nextSub) = false → freeSub s = s.cx.nextSub)

/-- AF policy, list and alerts are configured; meters measure alternatives in turn; hops dwell. AF_POLICY, AF_LIST_SET and ALERT_CONFIG
are ERR_STATE without an open context; a valid policy and an alert configuration wait for the boundary, a list applies at once unless a
switch runs. A meter interval writes its measurement and holds the crossing of the alternative it measured, of that one only. Shared
meters take turns in order. A hop ends when its tuner is taken or wanted by a Saggar job, and otherwise stays or goes on to a planned
frequency, the next of the list once the tuner receives. Completion of afPolicy, afListSet, alertConfig, afMeterInterval, sharedMeterTurn
and afHopDwellEnd. (08_side_data_af.md: Alternative frequencies; 08_side_data_af.md: Announcements and alarms) -/
def Obligations.AlternativesAreMeteredAndConfigured : Prop :=
  (∀ (e : Entry) (c : Fin 64), Does (.afPolicy e) specAfPolicy e fun h u t =>
    (openCtx h u = none → t = reject h .errState u)
      ∧ (openCtx h u = some c → t = if policyOk u.cx.ctxs[c].std (fmerge u.cx.ctxs[c].cfg (itemsOf h)) then park h [] u
          else fail h .errParam 0xFFFF .outOfRange u))
  ∧ (∀ (e : Entry) (c : Fin 64), Does (.afListSet e) specAfListSet e fun h u t =>
      let x := Ctx.refreshAfs { u.cx.ctxs[c] with hostAfs := listFreqs (Entry.args e) }
      (openCtx h u = none → t = reject h .errState u)
        ∧ (openCtx h u = some c → u.cx.ctxs[c].afSwitch.isSome = true → t = park h [] u)
        ∧ (openCtx h u = some c → u.cx.ctxs[c].afSwitch = none →
            ∃ v, t = finish h .ok [(16, 1, x.afs.length)] v ∧ v.cx.ctxs[c] = x))
  ∧ (∀ (e : Entry), Does (.alertConfig e) specAlertConfig e fun h u t =>
      t = if (openCtx h u).isSome then park h [] u else reject h .errState u)
  ∧ (∀ (t : DT) (freq : Nat) (level cnr mp : Int) (pi : Option (Option Nat)) (c : Fin 64) (a : AltFreq) (s : State),
      let v := assignMeters (moment t s)
      let x := v.cx.ctxs[c]
      let b := (a.measure level cnr mp pi (now v)).holdStep (candidate c (a.measure level cnr mp pi (now v)) v) (!heldOff x)
        (fget x.cfg 0x0A06).toNat (now v)
      afContexts v = [c] → x.afs.find? (·.freq == freq) = some a → Gives (.afMeterInterval t freq level cnr mp pi) s fun u =>
        (measuredNow x.std a v = false → u = v)
          ∧ (measuredNow x.std a v = true → u.cx.ctxs[c] = { x with afs := x.afs.map fun d => if d.freq = freq then b else d }))
  ∧ (∀ (t : DT) (k : Fin 8) (s : State), Gives (.sharedMeterTurn t k) s fun u =>
      let v := assignMeters (moment t s)
      let n := bankTurns v k.val
      (n ≤ 1 → u = v) ∧ (1 < n → u.cx.meterTurns[k] = (v.cx.meterTurns[k] + 1) % n ∧ u.cx.meterTurns[k] < n))
  ∧ ∀ (t : DT) (n : Fin 4) (s : State), Gives (.afHopDwellEnd t n) s fun u =>
      let m := moment t s
      let v := assignMeters m
      (m.cx.hops[n] = none → u = m)
        ∧ (∀ f p l, m.cx.hops[n] = some f → pathsOn (8 + n.val) m = p :: l → u.cx.hops[n] = none)
        ∧ (∀ f, m.cx.hops[n] = some f → pathsOn (8 + n.val) m = [] →
            let l := hopKeys (meterPlan v) v
            (jobWantsHop m = true ∨ v.cx.hops[n] = none → u.cx.hops[n] = none)
              ∧ (∀ g, u.cx.hops[n] = some g → g = f ∨ g ∈ l)
              ∧ (∀ i g, jobWantsHop m = false → v.cx.hops[n] = some f → v.rf.tuners[n].st = .rx → v.rf.tuners[n].change = none →
                  l.findIdx? (· == f) = some i → l[i + 1]? = some g → u.cx.hops[n] = some g))

/-- A confirmed decision reports, switches or waits; correlation, crossfade, holdoff and report follow. With mode OFF, in holdoff or
undecided nothing changes; else the event is raised and the crossings judged together are cleared; REPORT does no more. In the switching
modes a switch of the decided frequency begins; it waits at its first stage while a Saggar job reads the primary; without resources it
becomes a retune with SWITCH_GAP, else it is declined and the holdoff runs. A decision is of the frequency whose block A passed, and not
later than 175.2 ms after its crossing; one not confirmed in time is dropped. Correlation gives the switch its delay, not before 200 ms
and none beyond 20 ms. At the end of the crossfade, 10 ms after it began, the new path is the primary, its frequency is the context's,
and the holdoff runs; after it the alternatives count afresh. A report is written once per AF_AVG. Completion of afPiConfirmed,
afDecisionTimeout, afCorrelationDone, afCrossfadeEnd, afHoldoffExpiry and afReportDue. (08_side_data_af.md: Alternative frequencies) -/
def Obligations.SwitchesFollowDecisions : Prop :=
  (∀ (t : DT) (c : Fin 64) (freq : Nat) (s : State), Gives (.afPiConfirmed t c freq) s fun u =>
    let m := moment t s
    let x := m.cx.ctxs[c]
    let judged := x.st ≠ .closed ∧ afMode x ≠ 0 ∧ heldOff x = false
    (¬ judged ∨ decided x freq (now m) = none → u = m)
      ∧ (∀ a, judged → decided x freq (now m) = some a →
          let k := a.crossed.getD 0
          let w : AfSwitch :=
            { freq := a.freq, path := none, stage := 0, since := now m, crossed := k, pi := a.pi.getD 0, qCtx := qDb (ctxQ x), qAf := qDb (altQ x a), delay := none }
          let later := decide (2 ≤ afMode x) && primaryRead c m
          let v := raiseAt .afSwitch (now m) (afEvent c 0 (if later then 4 else 0) 0 w x.freq (ratio (dtSince k (now m) * 10000) (2 ^ 32)))
            (modCtx c (Ctx.clearCrossings k) m)
          v.cx.ctxs[c] = x.clearCrossings k
            ∧ (afMode x = 1 → u = v)
            ∧ (2 ≤ afMode x → primaryRead c m = true → u = modCtx c (fun x => { x with afSwitch := some w }) v)
            ∧ (∀ z, 2 ≤ afMode x → primaryRead c m = false → openSwitch c w v = some z → u = z)
            ∧ (2 ≤ afMode x → primaryRead c m = false → openSwitch c w v = none →
                (afMode x = 3 → u.cx.ctxs[c].afSwitch = some { w with stage := 5 })
                  ∧ (afMode x = 2 → u.cx.ctxs[c].afSwitch = none ∧ u.cx.ctxs[c].afHoldoff = some (now m))))
      ∧ (∀ a, decided x freq (now m) = some a → a.freq = freq ∧ ∃ k, a.crossed = some k ∧ dtSince k (now m) ≤ decisionSpan))
  ∧ (∀ (t : DT) (c : Fin 64) (s : State), Gives (.afDecisionTimeout t c) s fun u =>
      let m := moment t s
      u = modCtx c (fun x => { x with afs := x.afs.map fun a => match a.crossed with
        | some k => if decisionSpan ≤ dtSince k (now m) then { a with crossed := none, met := 0 } else a
        | none => a }) m)
  ∧ (∀ (t : DT) (c : Fin 64) (delay : Option Int) (s : State), Gives (.afCorrelationDone t c delay) s fun u =>
      let m := moment t s
      (m.cx.ctxs[c].afSwitch = none → u.cx.ctxs[c] = m.cx.ctxs[c])
        ∧ ∀ w, m.cx.ctxs[c].afSwitch = some w →
          let due := w.stage = 2 ∧ msDt 200 ≤ dtSince w.since (now m)
          (¬ due → u.cx.ctxs[c] = m.cx.ctxs[c])
            ∧ (due → ∃ d, u.cx.ctxs[c] = { m.cx.ctxs[c] with afSwitch := some { w with stage := 3, since := now m, delay := d } }
                ∧ (∀ k, d = some k ↔ delay = some k ∧ k.natAbs ≤ 2000)))
  ∧ (∀ (t : DT) (c : Fin 64) (s : State), Gives (.afCrossfadeEnd t c) s fun u =>
      let m := moment t s
      (m.cx.ctxs[c].afSwitch = none → u = m)
        ∧ ∀ w, m.cx.ctxs[c].afSwitch = some w →
          let due := w.stage = 4 ∧ msDt 10 ≤ dtSince w.since (now m)
          (¬ due → u = m)
            ∧ ∀ new old : Fin 64, due → m.cx.ctxs[c].primary = some old → w.path = some new →
              let y := u.cx.ctxs[c]
              y.primary = some new ∧ y.freq = w.freq ∧ y.afSwitch = none ∧ y.afHoldoff = some (now m))
  ∧ (∀ (t k : DT) (c : Fin 64) (s : State), s.cx.ctxs[c].afHoldoff = some k → Gives (.afHoldoffExpiry t c) s fun u =>
      let x := s.cx.ctxs[c]
      ((fget x.cfg 0x0A08).toNat * 2 ^ 32 ≤ dtSince k (now (moment t s)) →
          u.cx.ctxs[c] = { x with afHoldoff := none, afs := x.afs.map fun a => { a with met := 0 } })
        ∧ (dtSince k (now (moment t s)) < (fget x.cfg 0x0A08).toNat * 2 ^ 32 → u = moment t s))
  ∧ ∀ (t : DT) (c : Fin 64) (s : State), Gives (.afReportDue t c) s fun u =>
      let v := assignMeters (moment t s)
      let x := v.cx.ctxs[c]
      let early := x.st = .closed ∨ afMode x = 0 ∨ ∃ d, x.reportAt = some d ∧ dtSince d (now v) < msDt (fget x.cfg 0x0A07).toNat
      (early → u = v) ∧ (¬ early → u.cx.ctxs[c] = { x with reportAt := some (now v) })

/-- Audio services start, change and stop. AUD_SERVICE_START: ERR_PARAM for matching without signatures or a bad selector, ERR_STATE
without an open context or for a component already started, INPUT_UNSUITABLE for a component that cannot be decoded, NO_RESOURCE beyond
the limits or Wheel capacity; else the service has its number and starts running, muted in HOLD, or deferred until its component appears
(DEADLINE_MISSED with a deadline). A change, a stop, a loudness or signature configuration of a service in use waits for its boundary, of
a free one is ERR_STATE; the library accepts within its size. Completion of audServiceStart, audServiceStop, audLoudnessConfig and
audSignatureConfig. (09_programme_audio_signatures.md: Starting and stopping; 09_programme_audio_signatures.md: Wheel cost;
09_programme_audio_signatures.md: Matching and airplay items) -/
def Obligations.ServicesStartChangeAndStop : Prop :=
  (∀ (e : Entry) (c : Fin 64) (n : Fin 96) (v : State), itemAction (Entry.args e) = 0 → Does (.audServiceStart e) specAudServiceStart e fun h u t =>
    let a := Entry.args e
    let x := u.cx.ctxs[c]
    let scids := itemArg8 a
    let sid := itemArg32 a
    let comp := compOf x sid scids
    let coded := x.std == .dab || isDrm x.std
    let st : SvcState := if coded && comp.isNone then .waiting else if x.st = .hold then .mutedHold else .running
    let code : Int := if coded && comp.isNone then 0 else if st = .running then 1 else 2
    let new := Svc.begin_ c.val x.std st sid scids (itemsOf h)
    let taken := (svcsOf c.val u).any fun w => hasComp x.std scids sid u.audio.svcs[w]
    (matchOk (itemsOf h) = false → t = fail h .errParam 0xFFFF .outOfRange u)
      ∧ (matchOk (itemsOf h) = true → openCtx h u = none → t = reject h .errState u)
      ∧ (∀ off, matchOk (itemsOf h) = true → openCtx h u = some c → badSelector x.std scids sid = some off →
          t = fail h .errParam (Entry.offset h.entry off) .outOfRange u)
      ∧ (matchOk (itemsOf h) = true → openCtx h u = some c → badSelector x.std scids sid = none →
          (taken = true → t = reject h .errState u)
            ∧ (taken = false → (∃ k, comp = some k ∧ unsuitable k = true) → t = finish h .inputUnsuitable [] u)
            ∧ (taken = false → (∀ k, comp = some k → unsuitable k = false) →
                ((limits u.cx.profile).2.2.2 ≤ svcCount u → t = reject h .noResource u)
                  ∧ (svcCount u < (limits u.cx.profile).2.2.2 → freeSvc u = some n →
                      regrow c u (askComp c comp (modSvc n (fun _ => new) u)) = some v →
                      v.audio.svcs[n] = new
                        ∧ (st ≠ .waiting → t = finish h .ok [(16, 2, n.val), (18, 1, code)] v)
                        ∧ (st = .waiting → Entry.hasDeadline h.entry = true → t = reject h .deadlineMissed u)
                        ∧ (st = .waiting → Entry.hasDeadline h.entry = false → t = deferCmd h [(16, 2, n.val), (18, 1, code)] (note h [n.val] v))))))
  ∧ (∀ (e : Entry) (n : Fin 96) (c : Fin 64), itemAction (Entry.args e) = 1 → e.target.toNat = n.val → Does (.audServiceStart e) specAudServiceStart e fun h u t =>
      let y := u.audio.svcs[n]
      let cfg := fmerge y.cfg (itemsOf h)
      (matchOk cfg = false → t = fail h .errParam 0xFFFF .outOfRange u)
        ∧ (matchOk cfg = true → y.st = .free → t = reject h .errState u)
        ∧ (matchOk cfg = true → y.st ≠ .free → y.ctx = c.val →
            t = if (regrow c u (modSvc n (fun y => { y with cfg := cfg }) u)).isNone then reject h .noResource u else park h [] u))
  ∧ (∀ e : Entry, Does (.audServiceStop e) specAudServiceStop e fun h u t => t = if (svcOf h u).isSome then park h [] u else reject h .errState u)
  ∧ (∀ e : Entry, Does (.audLoudnessConfig e) specAudLoudnessConfig e fun h u t =>
      t = if (svcOf h u).isSome then park h [] u else reject h .errState u)
  ∧ ∀ e : Entry, Does (.audSignatureConfig e) specAudSignatureConfig e fun h u t =>
      let a := Entry.args e
      (itemAction a = 0 → t = if (svcOf h u).isSome then park h [] u else reject h .errState u)
        ∧ (itemAction a = 1 → t = if libTakes u.audio.library (libRef a) (libSeconds a) then park h [dtInt (now u)] u
            else fail h .errParam (Entry.offset e 8) .outOfRange u)
        ∧ (2 ≤ itemAction a → t = park h [dtInt (now u)] u)

/-- Access units, host audio, loudness, signatures, chains and the library. Only a running service of DAB or DRM takes access units: a
good one is decoded and ends concealment, a bad or erased one counts, keeps the last good one, and mutes from the third in a row or where
set to mute; every frame of a muted unit is MUTED, of a concealed one CONCEALED. A block of 192 frames goes out no earlier than 40 ms
after they were made, MUTED while the service does not run; with no block due nothing changes, but the waiting depth of a service without
audio applies. Loudness blocks end at whole tenths of a second, one with MUTED samples is only counted, and a report at the end of its
period restarts the maxima. A signature second that the line has passed is taken once, recorded and chained. The end of an evidence
period ends the chain. At the whole second after its acceptance a library change adds, removes or clears. Completion of
accessUnitDecoded, hostAudioBlock, loudnessBlock, loudReportPeriod, signatureSecond, sigChainPeriod and libraryChangeApply.
(09_programme_audio_signatures.md: Decoding and concealment; 09_programme_audio_signatures.md: Service audio to the host;
09_programme_audio_signatures.md: Loudness; 09_programme_audio_signatures.md: Quitin signature; 09_programme_audio_signatures.md:
Evidence; 16_memory_capture.md: Time-shift) -/
def Obligations.AudioIsConcealedMeteredAndSigned : Prop :=
  (∀ (t : DT) (v : Fin 96) (c : Fin 64) (a : AccessUnit) (s : State), s.audio.svcs[v].ctx = c.val → Gives (.accessUnitDecoded t v a) s fun u =>
    let y := s.audio.svcs[v]
    let z := u.audio.svcs[v]
    let taken := y.st = .running ∧ (s.cx.ctxs[c].std = .dab ∨ isDrm s.cx.ctxs[c].std = true)
    let ok := a.good = true ∧ a.erased = false
    (¬ taken → u = moment t s)
      ∧ (taken → ok → z.fails = 0 ∧ z.muted = false ∧ z.concealed = y.concealed ∧ z.unit = a.frames.map stereoOf ∧ z.unitRate = a.rate)
      ∧ (taken → ¬ ok → z.fails = y.fails + 1 ∧ z.concealed = y.concealed + 1 ∧ z.unit = y.unit ∧ z.unitRate = y.unitRate
          ∧ z.muted = (y.muted || decide (3 ≤ y.fails + 1) || fget y.cfg 0x0B02 == 1)))
  ∧ (∀ (muted conc : Bool) (fade : Nat) (l : List (Int × Int)), (unitFrames muted conc fade l).length = l.length
      ∧ ∀ f ∈ unitFrames muted conc fade l, f.mute = muted ∧ (muted = true → f.conc = false) ∧ (muted = false → conc = true → f.conc = true))
  ∧ (∀ (t : DT) (v : Fin 96) (s : State), Gives (.hostAudioBlock t v) s fun u =>
      let m := moment t s
      let y := m.audio.svcs[v]
      (y.st = .free → u = m)
        ∧ (y.st ≠ .free → y.nextBlock (now m) (svcLat y m) = none → y.line.start.isSome = true → u = m)
        ∧ (∀ fs, y.st ≠ .free → y.nextBlock (now m) (svcLat y m) = some fs → s.host.held = [] →
            u = followCompares v false (svcPlays v (modSvc v (Svc.takeBlock fs) (hostBlock v 0 y.line.next fs m))))
        ∧ (∀ h, y.st ≠ .free → y.nextBlock (now m) (svcLat y m) = none → y.line.start = none → s.host.held = [h] → parked h = true →
            h.op = 0x0703 → h.entry.target.toNat = v.val → ∃ w, u = finishC h w ∧ w.mem.depth[v] = le (Entry.args h.entry) 0 4))
  ∧ (∀ (t : DT) (lat : Nat) (y : Svc) (fs : List AFrame), y.nextBlock t lat = some fs → fs.length = 192
      ∧ (y.st = .running → fs = (y.line.wait.take 192).map (·.2) ∧ ∀ x ∈ y.line.wait.take 192, x.1.toNat + msDt 40 ≤ t.toNat)
      ∧ (y.st ≠ .running → ∀ f ∈ fs, f.mute = true))
  ∧ (∀ (n : Nat) (stereo : Bool) (f : AFrame) (x : Meter), (n % 4800 ≠ 0 → (x.frame n stereo f).done = x.done)
      ∧ (n % 4800 = 0 → x.running = true → ∃ b, (x.frame n stereo f).done = x.done ++ [b] ∧ b.muted = x.muted
          ∧ b.stamp = BitVec.ofNat 64 (ceilDiv ((n / 4800 - 1) * 2 ^ 32) 10)))
  ∧ (∀ (t : DT) (v : Fin 96) (s : State), Gives (.loudnessBlock t v) s fun u =>
      let m := moment t s
      let y := m.audio.svcs[v]
      (y.line.meter.done = [] → u = m)
        ∧ ∀ b rest, y.line.meter.done = b :: rest →
          let x := { y with line := { y.line with meter := { y.line.meter with done := rest } } }
          let z := x.meter b
          let q := if b.muted then x.silence else z.silent b.stop
          let w := modSvc v (fun _ => { z with silence := q }) m
          (fget y.cfg 0x0B03 ≠ 1 → u = modSvc v (fun _ => x) m)
            ∧ (fget y.cfg 0x0B03 = 1 → u = if q = x.silence then w else loudReport v b.stop w))
  ∧ (∀ (b : LoudBlock) (y : Svc), (b.muted = true → (y.meter b).loudHist = y.loudHist ∧ (y.meter b).excluded = y.excluded + 1)
      ∧ (b.muted = false → (y.meter b).excluded = y.excluded ∧ ∃ p q, (y.meter b).loudHist = { b with peakL := p, peakR := q } :: y.loudHist
          ∧ (fget y.cfg 0x0B04 = 1 → p = b.peakL ∧ q = b.peakR)))
  ∧ (∀ (t : DT) (v : Fin 96) (s : State), Gives (.loudReportPeriod t v) s fun u =>
      let m := moment t s
      let y := m.audio.svcs[v]
      let z := u.audio.svcs[v]
      (y.reportFrom = none → u = m)
        ∧ ∀ d, y.reportFrom = some d →
          let stop := dtAdd d ((fget y.cfg 0x0B07).toNat * 2 ^ 32)
          let due := fget y.cfg 0x0B03 = 1 ∧ stop.toNat ≤ y.line.next.toNat
          (¬ due → u = m)
            ∧ (due → z.maxMomentary = none ∧ z.maxShort = none ∧ z.maxPeakL = none ∧ z.maxPeakR = none ∧ z.excluded = 0
                ∧ z.reportFrom = some stop ∧ z.loudHist = y.loudHist))
  ∧ (∀ (t : DT) (v : Fin 96) (text : List Byte) (s : State), Gives (.signatureSecond t v text) s fun u =>
      let m := moment t s
      let y := m.audio.svcs[v]
      let sec := y.line.second
      let n := modSvc v (fun y => { y with line := { y.line with second := sec + 1 } }) m
      let k := modSvc v (Svc.skipTo sec) n
      let z := k.audio.svcs[v]
      let stamp := z.line.stamp (48000 * sec - z.line.no 0)
      let ready := y.st ≠ .free ∧ y.line.start.isSome = true ∧ y.line.past? sec = true ∧ s.host.held = []
      (y.st = .free → u = m)
        ∧ (y.line.start.isSome = true → y.line.past? sec = false → u = m)
        ∧ (ready → fget y.cfg 0x0B0A ≠ 1 ∨ y.line.subs sec = none → u = n)
        ∧ (∀ subs, ready → fget y.cfg 0x0B0A = 1 → fget y.cfg 0x0B0C = 0 → y.line.subs sec = some subs →
            let words := subWords z.bands subs k
            let loud := told (secondLoudness z sec) words.2
            let payload := sigPayload z words.1 (subs.countP (·.concealed)) loud.1
            let w := if fget y.cfg 0x0B0B = 1 then audioRec v 0x40 0 stamp payload loud.2 else loud.2
            u = followCompares v true (modSvc v (Svc.takeSecond sec stamp subs words.1 payload (snapshotOf v text w)) w)))
  ∧ (∀ (t : DT) (v : Fin 96) (s : State), Gives (.sigChainPeriod t v) s fun u =>
      let m := moment t s
      let y := s.audio.svcs[v]
      let due := (fget y.cfg 0x0B10).toNat * 2 ^ 32 ≤ dtSince y.chainFrom y.chainEnd
      (¬ due → u = m) ∧ (due → u = sigChain v m ∧ u.audio.svcs[v].chainCount = 0))
  ∧ ∀ (t : DT) (s : State), Gives (.libraryChangeApply t) s fun u =>
      let m := moment t s
      (onSecond (now m) = false ∨ waiting 0x0602 0xFFFF m = [] → u = m)
        ∧ ∀ h, onSecond (now m) = true → waiting 0x0602 0xFFFF m = [h] →
          let a := Entry.args h.entry
          let due := (h.aux.getD 1 0).toNat / 2 ^ 32 < (now m).toNat / 2 ^ 32
          (¬ due → u = m)
            ∧ (due → itemAction a = 1 → libTakes m.audio.library (libRef a) (libSeconds a) = false →
                u = fail h .errParam (Entry.offset h.entry 8) .outOfRange m)
            ∧ (due → itemAction a = 1 → libTakes m.audio.library (libRef a) (libSeconds a) = true → ∃ w fs, u = finish h .ok fs w
                ∧ w.audio.library = m.audio.library ++ [{ id := libRef a, seconds := libSeconds a, words := (a.drop 16).take (36 * libSeconds a) }])
            ∧ (due → itemAction a = 2 → ∃ w fs, u = finish h .ok fs w ∧ w.audio.library = m.audio.library.filter fun r => r.id != itemArg32 a)
            ∧ (due → itemAction a = 3 → ∃ w fs, u = finish h .ok fs w ∧ w.audio.library = [])

/-- Port configuration, routes, channel status and slot masks apply at once on a stopped port and at the boundary on a running one.
PORT_CONFIG on a running port refuses LK fields with BUSY_RUNNING and waits for the block boundary; on a stopped port it applies at once
and enabling starts the sample grid. PORT_ROUTE stages, commits at the boundary of running ports or at once, and starts or stops a
comparison. PORT_SLOTMASK and PORT_CHSTATUS_SET apply at once or at a boundary, a mask at a frame at least 2 BCLK after it was committed.
PORT_INPUT_STATUS gives its figures. A boundary on the grid sends a block of 192 frames for every channel, from frame 0 on; a stop ends
when the ramps are down; off the grid, or while the VCO stands still, nothing goes out. A subframe holds its word, V, U = 0 and C with
even parity, and the Z preamble opens a block only. Completion of portConfig, portRoute, portSlotmask, portChstatusSet, portInputStatus,
portBlockBoundary and slotmaskFrameApply. (10_audio_ports.md: Ports and channels; 10_audio_ports.md: Biphase outputs; 10_audio_ports.md:
TDM outputs; 10_audio_ports.md: Channel buffers, routing and latency; 10_audio_ports.md: Air-chain comparison) -/
def Obligations.PortsApplyAtTheirBoundaries : Prop :=
  (∀ (e : Entry) (p : Fin 14), e.target.toNat = p.val → Does (.portConfig e) specPortConfig e fun h u t =>
    let l := itemsOf h
    let x := u.port.ports[p]
    (portRuns x = true → ofClass .lk l ≠ [] → t = reject h .busyRunning u)
      ∧ (portRuns x = true → ofClass .lk l = [] → isAin p.val = false → t = park h [] u)
      ∧ (portRuns x = false ∨ (ofClass .lk l = [] ∧ isAin p.val = true) → ∃ v, t = finishC h v
          ∧ (fhas l 0x0C0B = false → v.port.ports[p].cfg = fmerge x.cfg l)
          ∧ (fget (fmerge x.cfg l) 0x0C00 = 1 → fhas l 0x0C0B = false → isAin p.val = false →
              v.port.ports[p].grid = some (gridStart (fget (fmerge x.cfg l) 0x0C01).toNat (now u)) ∧ v.port.ports[p].frames = 0)))
  ∧ (∀ e : Entry, Does (.portRoute e) specPortRoute e fun h u t =>
      let a := Entry.args e
      let l := routesOf a u
      (itemAction a = 0 → itemCommit a = false → ∃ v, t = finishC h v ∧ v.port.staged = mergeRoutes u.port.staged l ∧ v.port.routes = u.port.routes)
        ∧ (itemAction a = 0 → itemCommit a = true → routePorts (u.port.staged ++ l) u ≠ [] → t = park h [] u)
        ∧ (itemAction a = 0 → itemCommit a = true → routePorts (u.port.staged ++ l) u = [] → ∃ v, t = finishC h v ∧ v.port.staged = []
            ∧ v.port.routes = (setRoutes (mergeRoutes u.port.staged l) u).port.routes
            ∧ ((∀ p : Fin 14, u.port.ports[p].grid = none) → v.port.routes = (mergeRoutes u.port.routes (mergeRoutes u.port.staged l)).filter fun r =>
                r.src != .none || r.gone || r.old.isSome || r.next.isSome))
        ∧ (∀ (i : Fin 4) (v : Fin 96), itemAction a = 1 → itemArg8 a = i.val → itemArg32 a = v.val →
            (u.port.ains[i].cmp.isSome = true → t = reject h .errState u)
              ∧ (u.port.ains[i].cmp = none → u.audio.svcs[v].st = .free → t = fail h .errParam (Entry.offset h.entry 4) .outOfRange u)
              ∧ ∀ (c : Fin 64) (w : State), u.port.ains[i].cmp = none → u.audio.svcs[v].st ≠ .free → u.audio.svcs[v].ctx = c.val →
                  regrow c u (modAin i (fun x => { x with
                    cmp := some v, cmpCfg := itemsOf h, cmpState := 0, cmpDelay := 0, line := Line.reset, loudHist := [], bands := [], words := [],
                    subEnd := 0, cmpSub := none, cmpWin := u.audio.svcs[v].subEnd, cmpBad := none, cmpStudio := none, cmpAir := none,
                    cmpAt := now u }) u) = some w →
                  t = followCompare i (finishC h w) ∧ w.port.ains[i].cmp = some v ∧ w.port.ains[i].cmpCfg = itemsOf h)
        ∧ ∀ i : Fin 4, itemAction a = 2 → itemArg8 a = i.val → (u.port.ains[i].cmp = none → t = reject h .errState u)
            ∧ (u.port.ains[i].cmp.isSome = true → ∃ v, t = finishC h v ∧ v.port.ains[i].cmp = none))
  ∧ (∀ (e : Entry) (p : Fin 14), e.target.toNat = p.val → Does (.portSlotmask e) specPortSlotmask e fun h u t =>
      (u.port.ports[p].grid.isSome = true → t = park h [dtInt (now u)] u)
        ∧ (u.port.ports[p].grid = none → ∃ v, t = finishC h v
            ∧ v.port.ports = upd u.port.ports p fun x => { x with mask := BitVec.ofNat 32 (le (Entry.args e) 8 4) }))
  ∧ (∀ (e : Entry) (p : Fin 14), e.target.toNat = p.val → Does (.portChstatusSet e) specPortChstatusSet e fun h u t =>
      (portRuns u.port.ports[p] = true → t = park h [] u)
        ∧ (portRuns u.port.ports[p] = false → ∃ v, t = finishC h v ∧ v.port.ports = upd u.port.ports p fun x => { x with image := imageOf h }))
  ∧ (∀ (e : Entry) (i : Fin 4), e.target.toNat = 8 + i.val → Does (.portInputStatus e) specPortInputStatus e fun h u t =>
      t = finishOut h .ok (inputStatus u.port.ains[i]) none u)
  ∧ (∀ (t : DT) (p : Fin 14) (s : State), Gives (.portBlockBoundary t p) s fun u =>
      let m := moment t s
      let x := m.port.ports[p]
      let dead := m.time.bothLost = true ∧ m.time.vcoStopped = true
      (isAin p.val = true ∨ x.grid = none ∨ dead ∨ onGrid (now m) x = false → u = m)
        ∧ ∀ g, isAin p.val = false → x.grid = some g → ¬ dead → onGrid (now m) x = true →
          let n := framesAt (now m) x g
          (n < x.frames → u = m)
            ∧ (x.frames ≤ n → x.stopping = true → rampsDown p m = true → u.port.ports[p].grid = none ∧ u.port.ports[p].cfg = x.cfg)
            ∧ (x.frames ≤ n → x.stopping = false ∨ rampsDown p m = false → s.host.held = [] →
                let y := u.port.ports[p]
                y.frames = n + 192 ∧ y.blockAt = frameAt x g n ∧ y.grid = some g ∧ y.cfg = x.cfg
                  ∧ y.sent.length = (channelsOf p).length ∧ (∀ l ∈ y.sent, l.length = 192)))
  ∧ (∀ (pre : Nat) (word : BitVec 24) (v c : Bool), (subframe pre word v c).1 = pre ∧ (subframe pre word v c).2.setWidth 24 = word
      ∧ (subframe pre word v c).2.getLsbD 24 = v ∧ (subframe pre word v c).2.getLsbD 25 = false ∧ (subframe pre word v c).2.getLsbD 26 = c
      ∧ (List.range 28).foldl (fun q i => q != (subframe pre word v c).2.getLsbD i) false = false)
  ∧ (∀ (cs : List Byte) (sent : List (List (BitVec 24 × Bool))), (subframes cs sent).length = 384
      ∧ ∀ k : Nat, k < 384 → ((subframes cs sent)[k]?.map (·.1)) = some (if k = 0 then 0 else if k % 2 = 0 then 1 else 2))
  ∧ ∀ (t : DT) (k : Fin 2) (s : State), Gives (.slotmaskFrameApply t k) s fun u =>
      let m := moment t s
      let p : Fin 14 := ⟨12 + k.val, by omega⟩
      let x := m.port.ports[p]
      let n := dtSince x.blockAt (now m) * 48000 / 2 ^ 32
      let frame := dtAdd x.blockAt (n * 2 ^ 32 / 48000)
      (waiting 0x0682 p.val m = [] → u = m)
        ∧ ∀ h, waiting 0x0682 p.val m = [h] →
          let early := x.grid.isSome = true ∧ frame.toNat < (h.aux.getD 1 0).toNat + twoBclk
          let w := finish h .ok [(24, 8, dtInt (if x.grid.isSome then frame else now m))] (modPort p (fun x => { x with mask := maskOf h }) m)
          (early → u = m)
            ∧ (¬ early → x.grid = none ∨ x.sent = [] ∨ 192 ≤ n → u = w)
            ∧ (¬ early → x.grid.isSome = true → x.sent ≠ [] → n < 192 → u = sendTdm p n w ∧ u.port.ports[p].mask = maskOf h)

/-- Biphase inputs lock on two blocks, lose lock on errors, silence or an unconfirmed rate change. Two consecutive blocks of one nominal
rate lock an input; more than 16 subframes with faults, missing preambles for three frames or a rate change not confirmed in 100 ms lose
lock with the instant of the last good frame; a good block takes channel status and error counts; a rate confirmed over two blocks is
taken with them; relock clears the loss; audio returns when the channel status says so and no burst was seen for 16384 frames. The
comparison reports at its period, and its state follows what it depends on: no input, no service, or what the signatures say. Completion
of ainBlockReceived, ainAudioReturn, ainPreambleTimeout, ainRelock, ainRateConfirmed, ainRateChangeTimeout and airchainReport.
(10_audio_ports.md: Biphase inputs; 10_audio_ports.md: Air-chain comparison) -/
def Obligations.InputsLockLoseAndChangeRate : Prop :=
  (∀ (t : DT) (i : Fin 4) (b : AinBlock) (s : State), Gives (.ainBlockReceived t i b) s fun u =>
    let m := moment t s
    let a := m.port.ains[i]
    let z := u.port.ains[i]
    let open_ := ainOn i m = true ∧ a.lostAt = none
    (ainOn i m = false ∨ a.lostAt.isSome = true → u = m)
      ∧ (open_ → a.locked = false → nominalOf b = none → z = { a with blocks := 0 })
      ∧ (∀ k, open_ → a.locked = false → nominalOf b = some k → ¬ (a.blocks = 1 ∧ a.rate = k.val) → z = { a with rate := k.val, blocks := 1 })
      ∧ (∀ k, open_ → a.locked = false → nominalOf b = some k → a.blocks = 1 → a.rate = k.val →
          z.locked = true ∧ z.lastGood = lastFrame b ∧ z.parity = a.parity + parityOf b)
      ∧ (open_ → a.locked = true → 16 < faultsOf b →
          z.locked = false ∧ z.lostAt = some a.lastGood ∧ z.parity = a.parity + parityOf b ∧ z.biphase = a.biphase + biphaseOf b)
      ∧ (open_ → a.locked = true → faultsOf b ≤ 16 → farFrom a.rate b = false →
          z.locked = true ∧ z.lastGood = lastFrame b ∧ z.csA = statusBytes (b.frames.map (·.1)) ∧ z.csB = statusBytes (b.frames.map (·.2))
            ∧ z.parity = a.parity + parityOf b ∧ z.biphase = a.biphase + biphaseOf b ∧ z.changeFrom = none)
      ∧ (open_ → a.locked = true → faultsOf b ≤ 16 → farFrom a.rate b = true →
          z.locked = true ∧ z.rate = a.rate ∧ z.lastGood = a.lastGood ∧ z.changeFrom = some (a.changeFrom.getD b.stamp) ∧ b ∈ z.fresh))
  ∧ (∀ b : AinBlock, faultsOf b ≤ parityOf b + biphaseOf b ∧ faultsOf b ≤ 2 * b.frames.length)
  ∧ (∀ (t : DT) (i : Fin 4) (s : State), Gives (.ainAudioReturn t i) s fun u =>
      let a := s.port.ains[i]
      let returns := a.nonAudio = true ∧ csNonAudio a.csA = false ∧ csNonAudio a.csB = false ∧ 16384 ≤ a.quiet
      (returns → u.port.ains[i].nonAudio = false ∧ u.port.ains[i].dataType = 0 ∧ u.port.ains[i].locked = a.locked)
        ∧ (¬ returns → u = moment t s))
  ∧ (∀ (t : DT) (i : Fin 4) (s : State), Gives (.ainPreambleTimeout t i) s fun u =>
      let a := s.port.ains[i]
      let z := u.port.ains[i]
      let silent := 3 * 2 ^ 32 ≤ dtSince a.lastGood (now (moment t s)) * ainRate a.rate
      (a.locked = true → silent → z.locked = false ∧ z.blocks = 0 ∧ z.lostAt = some a.lastGood ∧ z.changeFrom = none)
        ∧ (a.locked = false ∨ ¬ silent → u = moment t s))
  ∧ (∀ (t : DT) (i : Fin 4) (b : AinBlock) (s : State), Gives (.ainRelock t i b) s fun u =>
      let m := moment t s
      let z := u.port.ains[i]
      (m.port.ains[i].lostAt = none ∨ ainOn i m = false ∨ nominalOf b = none → u = m)
        ∧ ∀ k, m.port.ains[i].lostAt.isSome = true → ainOn i m = true → nominalOf b = some k →
            z.locked = true ∧ z.lostAt = none ∧ z.rate = k.val ∧ z.lastGood = lastFrame b)
  ∧ (∀ (t : DT) (i : Fin 4) (s : State), Gives (.ainRateConfirmed t i) s fun u =>
      let a := s.port.ains[i]
      let z := u.port.ains[i]
      (a.locked = false ∨ a.fresh.length < 2 → u = moment t s)
        ∧ ∀ b d l k, a.locked = true → a.fresh = b :: d :: l → nominalOf b = some k →
            z.rate = k.val ∧ z.changeFrom = none ∧ z.fresh = [] ∧ z.locked = true ∧ z.lastGood = lastFrame ((b :: d :: l).getLast (by simp)))
  ∧ (∀ (t d : DT) (i : Fin 4) (s : State), s.port.ains[i].changeFrom = some d → Gives (.ainRateChangeTimeout t i) s fun u =>
      (msDt 100 ≤ dtSince d (now (moment t s)) → s.port.ains[i].locked = true →
          u.port.ains[i].locked = false ∧ u.port.ains[i].lostAt = some s.port.ains[i].lastGood ∧ u.port.ains[i].changeFrom = none)
        ∧ (dtSince d (now (moment t s)) < msDt 100 → u = moment t s))
  ∧ (∀ (t : DT) (i : Fin 4) (s : State), Gives (.airchainReport t i) s fun u =>
      let m := moment t s
      let a := m.port.ains[i]
      (a.cmp = none → u = m)
        ∧ ∀ v, a.cmp = some v →
          let due := (fget a.cmpCfg 0x0D03).toNat * 2 ^ 32 ≤ dtSince a.cmpAt (now m)
          (¬ due → u = m)
            ∧ (due → u = reportCompare i false (followCompare i (modAin i (fun a => { a with cmpAt := now m }) m))
                ∧ u.port.ains[i].cmpAt = now m ∧ u.port.ains[i].cmpState = compareState m.audio.svcs[v] a (now m)))
  ∧ ∀ (y : Svc) (a : Ain) (t : DT), (a.locked = false ∨ a.nonAudio = true → compareState y a t = 5)
      ∧ (a.locked = true → a.nonAudio = false → y.st ≠ .running → compareState y a t = 6)
      ∧ (∀ d, searchDelay y a = some d → -32 ≤ d ∧ d ≤ 32 * (fget a.cmpCfg 0x0D02).toNat ∧ (cmpCount y a d).within (fget a.cmpCfg 0x0D05) = true)

/-- Captures are armed within the pool, frozen after POST, and read. MEM_CAPTURE_ARM: ERR_STATE on an armed slot or a peer stream that is
not there, NO_RESOURCE beyond 3072 MB, two raw slots or the free pool; with PRE and POST 0 it disarms; else the slot is armed with its
ring. FREEZE triggers an armed slot; when POST has passed, other than in Dormant, the slot freezes with the blocks of its span that its
ring holds, none outside from PRE before to POST after the trigger. MEM_CAPTURE_READ of a frozen slot delivers into capture buffers or
opens the BAR2 window, within the bytes captured. MEM_TIMESHIFT_CONFIG waits for its boundary when the pool suffices. The shared pool
becomes ready. Completion of memCaptureArm, memCaptureFreeze, captureFreeze, memCaptureRead, memTimeshiftConfig and sharedPoolInitDone.
(16_memory_capture.md: Capture; 16_memory_capture.md: Time-shift; 16_memory_capture.md: Memory map) -/
def Obligations.CapturesAreArmedFrozenAndRead : Prop :=
  (∀ (e : Entry) (k : Fin 4), e.target.toNat = k.val → Does (.memCaptureArm e) specMemCaptureArm e fun h u t =>
    let a := Entry.args e
    let c := u.mem.slots[k]
    let src := capSource a
    let mb := captureMb src (capIndex a) (capPre a) (capPost a) u
    let noStream := decide (src < 2) && capIndex a == 1 && !peerStream (src == 1) u
    let full := decide (3072 < mb) || (decide (src < 2) && decide (2 ≤ rawSlots k u)) || decide (poolFree u + c.ring < mb)
    let none_ := capPre a = 0 ∧ capPost a = 0
    (c.armed = true → t = reject h .errState u)
      ∧ (c.armed = false → none_ → ∃ v, t = finish h .ok [(16, 4, 0), (24, 8, dtInt (now u))] v ∧ v.mem.slots[k] = Capture.reset)
      ∧ (c.armed = false → ¬ none_ → noStream = true → t = reject h .errState u)
      ∧ (c.armed = false → ¬ none_ → noStream = false → full = true → t = reject h .noResource u)
      ∧ (c.armed = false → ¬ none_ → noStream = false → full = false → ∃ v, t = finish h .ok [(16, 4, ((mb * 1048576 : Nat) : Int)), (24, 8, dtInt (now v))] v
          ∧ v.mem.slots[k].st = .armed ∧ v.mem.slots[k].source = src ∧ v.mem.slots[k].pre = capPre a ∧ v.mem.slots[k].post = capPost a
          ∧ v.mem.slots[k].ring = mb))
  ∧ (∀ (e : Entry) (k : Fin 4), e.target.toNat = k.val → Does (.memCaptureFreeze e) specMemCaptureFreeze e fun h u t =>
      (u.mem.slots[k].st = .armed → ∃ v, t = begin_ h v ∧ v.mem.slots[k] = { u.mem.slots[k] with
          st := .triggered, trigger := now u, reach := u.mem.slots[k].reachAt u, blocks := u.mem.slots[k].atTrigger u })
        ∧ (u.mem.slots[k].st = .triggered → t = begin_ h u)
        ∧ (u.mem.slots[k].st = .idle ∨ u.mem.slots[k].st = .frozen → t = reject h .errState u))
  ∧ (∀ (t : DT) (k : Fin 4) (written : List RingBlock) (s : State), Gives (.captureFreeze t k written) s fun u =>
      let m := moment t s
      let c := m.mem.slots[k]
      let d := u.mem.slots[k]
      let all_ := if 3 ≤ c.source then c.blocks else written.filterMap (ringBlock c)
      let l := spanOfRing c (blockSpan c m) (all_.drop (all_.length - c.ring * 1048576 / blockSize c.source c.index))
      let due := c.st = .triggered ∧ m.power.st ≠ .dormant ∧ c.trigger.toNat + msDt c.post ≤ (now m).toNat
      (¬ due → u = m)
        ∧ (due → m.host.held = [] → d.st = .frozen ∧ d.blocks = l ∧ d.bytes = sumOf (l.map (·.2.length))
            ∧ (∀ b rest, l = b :: rest → d.oldest = b.1) ∧ d.source = c.source ∧ d.trigger = c.trigger))
  ∧ (∀ (c : Capture) (w : Nat) (l : List (DT × List Byte)), ∀ b ∈ spanOfRing c w l,
      b ∈ l ∧ c.trigger.toNat - msDt c.pre ≤ b.1.toNat + w ∧ b.1.toNat < c.trigger.toNat + msDt c.post)
  ∧ (∀ (e : Entry) (k : Fin 4), e.target.toNat = k.val → Does (.memCaptureRead e) specMemCaptureRead e fun h u t =>
      let a := Entry.args e
      let c := u.mem.slots[k]
      let off := min (le a 8 8) c.bytes
      let len := min (le a 16 4) (c.bytes - off)
      (c.st ≠ .frozen → t = reject h .errState u)
        ∧ (c.st = .frozen → le a 0 1 = 0 → t = carryReads (note h [off, len, 0] u))
        ∧ (c.st = .frozen → le a 0 1 ≠ 0 → ∃ (base n : Nat) (v : State), t = finish h .ok [(16, 8, (base : Int)), (24, 4, (n : Int))] v ∧ v.mem.bar2 = some (k.val, off, n) ∧ n ≤ len))
  ∧ (∀ (e : Entry) (v : Fin 96), e.target.toNat = v.val → Does (.memTimeshiftConfig e) specMemTimeshiftConfig e fun h u t =>
      let mb := depthMb (le (Entry.args e) 0 4)
      (u.audio.svcs[v].st = .free → t = reject h .errState u)
        ∧ (u.audio.svcs[v].st ≠ .free → poolFree u < mb - depthMb u.mem.depth[v] → t = reject h .noResource u)
        ∧ (u.audio.svcs[v].st ≠ .free → mb - depthMb u.mem.depth[v] ≤ poolFree u → t = park h [] u))
  ∧ ∀ (t : DT) (s : State), Gives (.sharedPoolInitDone t) s fun u =>
      (isRunning s = true ∨ s.power.st = .coldStart → u.mem = { s.mem with poolReady := true })
        ∧ (isRunning s = false → s.power.st ≠ .coldStart → u = moment t s)

/-- Keys are loaded under a wrapping key, derived, retired; counters read and increment. CRY_KEY_LOAD: ERR_STATE on an occupied slot or
under PFAIL, KEY_ABSENT or ERR_PARAM for the wrapping key, KEY_EXHAUSTED without identifiers, AUTH_FAILED where the unwrapping fails;
else the slot holds the key with a new identifier, counter 0, and a KEY_EVENT Sherd. CRY_KEY_DERIVE: KEY_ABSENT, ERR_PARAM without the
usage, ERR_STATE, KEY_EXHAUSTED, else the derived key. CRY_KEY_RETIRE frees the slot, drops its queued messages and gives the last
counter used, all ones for none. CRY_COUNTER_READ gives the value and its saturation; CRY_COUNTER_INCREMENT is ERR_STATE under PFAIL,
COUNTER_SATURATED when frozen, and else waits for the vault, the counter unchanged until then. Completion of cryKeyLoad, cryKeyDerive,
cryKeyRetire, cryCounterRead and cryCounterIncrement. (15_cipher_evidence.md: Key slots; 15_cipher_evidence.md: Monotonic counters) -/
def Obligations.KeysAreLoadedDerivedAndRetired : Prop :=
  (∀ (e : Entry) (i : Fin 64), e.target.toNat = i.val → Does (.cryKeyLoad e) specCryKeyLoad e fun h u t =>
    let a := Entry.args e
    let w := le a 2 2
    let wrapper := if w = 0xFFFF then some Config.transportKey else (keyAt w u).map (·.bytes)
    let closed := u.cry.keys[i].isSome = true ∨ u.power.pfail = true
    (closed → t = reject h .errState u)
      ∧ (¬ closed → w ≠ 0xFFFF → keyAt w u = none → t = reject h .keyAbsent u)
      ∧ (¬ closed → ∀ k, w ≠ 0xFFFF → keyAt w u = some k → (isAes k && testBit k.usage 1) = false →
          t = fail h .errParam (Entry.offset e 2) .outOfRange u)
      ∧ (¬ closed → (w = 0xFFFF ∨ ∃ k, keyAt w u = some k ∧ isAes k = true ∧ testBit k.usage 1 = true ∧ worn k = false) →
          ∀ wrap, wrapper = some wrap →
          (identsOut u = true → t = reject h .keyExhausted u)
            ∧ (identsOut u = false → unwrapped (le a 0 1) wrap ((a.drop 8).take 40) = none → t = reject h .authFailed u)
            ∧ (identsOut u = false → ∀ bytes, unwrapped (le a 0 1) wrap ((a.drop 8).take 40) = some bytes →
                ∃ k v, t = finish h .ok [(16, 4, ((BitVec.ofNat 32 u.cry.nextIdent).toNat : Int))] v
                  ∧ k = { type := le a 0 1, usage := le a 1 1, ident := BitVec.ofNat 32 u.cry.nextIdent, bytes := bytes, counter := 0,
                          blockEnd := 0, used := false, nearDone := false }
                  ∧ v = keySherd 0 i k (putKey i (le a 0 1) (le a 1 1) bytes u).2
                  ∧ (putKey i (le a 0 1) (le a 1 1) bytes u).2.cry.keys[i] = some k)))
  ∧ (∀ (e : Entry) (i : Fin 64), e.target.toNat = i.val → Does (.cryKeyDerive e) specCryKeyDerive e fun h u t =>
      let a := Entry.args e
      (keyAt (le a 2 2) u = none → t = reject h .keyAbsent u)
        ∧ ∀ p, keyAt (le a 2 2) u = some p →
          (testBit p.usage 4 = false → t = fail h .errParam (Entry.offset e 2) .outOfRange u)
            ∧ (testBit p.usage 4 = true → u.cry.keys[i].isSome = true → t = reject h .errState u)
            ∧ (testBit p.usage 4 = true → u.cry.keys[i] = none → worn p = true ∨ identsOut u = true → t = reject h .keyExhausted u)
            ∧ (testBit p.usage 4 = true → u.cry.keys[i] = none → worn p = false → identsOut u = false →
                ∃ k v, t = finish h .ok [(16, 4, ((BitVec.ofNat 32 u.cry.nextIdent).toNat : Int))] (keySherd 1 i k v)
                  ∧ v.cry.keys[i] = some k ∧ v.cry.nextIdent = u.cry.nextIdent + 1
                  ∧ k.bytes = derivedKey p.bytes ((a.drop 8).take 32) u.ident.serial (le a 0 1) ∧ k.usage = le a 1 1 ∧ k.type = le a 0 1))
  ∧ (∀ (e : Entry) (i : Fin 64), e.target.toNat = i.val → Does (.cryKeyRetire e) specCryKeyRetire e fun h u t =>
      (u.cry.keys[i] = none → t = reject h .keyAbsent u)
        ∧ ∀ k, u.cry.keys[i] = some k →
            ∃ v, t = finish h .ok [(16, 8, if k.used then (k.counter : Int) - 1 else 0xFFFFFFFFFFFFFFFF)] (keySherd 2 i k v)
              ∧ v.cry.keys[i] = none ∧ v.cry.cores = u.cry.cores
              ∧ v.cry.queues.filter (fun m => !(m.hash && m.slot == 0xFFFF) && m.slot == i.val) = [])
  ∧ (∀ (e : Entry) (i : Fin 8), e.target.toNat = i.val → Does (.cryCounterRead e) specCryCounterRead e fun h u t =>
      t = finish h .ok [(16, 4, (u.cry.counters[i].toNat : Int)), (20, 1, bit (u.cry.counters[i] == 0xFFFFFFFF))] u)
  ∧ ∀ (e : Entry) (i : Fin 8), e.target.toNat = i.val → Does (.cryCounterIncrement e) specCryCounterIncrement e fun h u t =>
      (u.power.pfail = true → t = reject h .errState u)
        ∧ (u.power.pfail = false → u.cry.counters[i] = 0xFFFFFFFF → t = reject h .counterSaturated u)
        ∧ (u.power.pfail = false → u.cry.counters[i] ≠ 0xFFFFFFFF → t = askStore (.counter i) (some h.id) (begin_ h u)
            ∧ t.cry.counters = u.cry.counters)

/-- Glaze messages, the entropy source and the log commands. CRY_PROCESS: HW_FAULT while the entropy source has failed, KEY_ABSENT,
ERR_PARAM for an unsuited key, KEY_EXHAUSTED, else the message is queued with its key and, where the device builds the nonce, the key's
next counter. A done message ends and the core takes the next. A health failure restarts the tests, the third within a second fails the
source and ends every message with HW_FAULT; a passed retry restores it. LOG_CONFIG sets key, delivery and ring, BUSY_RUNNING for another
ring size while records are undrained; LOG_READ is ERR_PARAM for a number not yet allocated and else gives tagged records from it and
marks them drained; LOG_MARK forms a Sherd with the next number. Completion of cryProcess, glazeMessageDone, entropyHealthFailure,
entropyStartupTestsDone, entropyRetry, logConfig, logRead and logMark. (15_cipher_evidence.md: Glaze cores and the scheduler;
15_cipher_evidence.md: Nonces and reservations; 15_cipher_evidence.md: The operational log; 15_cipher_evidence.md: Start-up and restart) -/
def Obligations.GlazeAndLogsAnswer : Prop :=
  (∀ (e : Entry) (input aad : List Byte), Does (.cryProcess e input aad) specCryProcess e fun h u t =>
    let a := Entry.args e
    let mode := le a 0 1
    let slot := le a 4 2
    (u.cry.entropy.failed = true → t = reject h .hwFault u)
      ∧ (u.cry.entropy.failed = false → mode = 7 → t = enqueue h [] [] u)
      ∧ (u.cry.entropy.failed = false → mode ≠ 7 → keyAt slot u = none → t = reject h .keyAbsent u)
      ∧ (u.cry.entropy.failed = false → mode ≠ 7 → ∀ k, keyAt slot u = some k →
          (keySuits mode k = false → t = fail h .errParam (Entry.offset e 4) .outOfRange u)
            ∧ (keySuits mode k = true → worn k = true → t = reject h .keyExhausted u)
            ∧ (keySuits mode k = true → worn k = false → buildsNonce mode = false → t = enqueue h k.bytes [] u)
            ∧ (keySuits mode k = true → worn k = false → buildsNonce mode = true → k.counter < k.blockEnd →
                ∃ v, t = enqueue h k.bytes [(k.ident.toNat : Int), (k.counter : Int)] v)
            ∧ (keySuits mode k = true → worn k = false → buildsNonce mode = true → k.blockEnd ≤ k.counter → u.power.pfail = true →
                t = reject h .errState u)))
  ∧ (∀ (t : DT) (core : Fin 5) (s : State), Gives (.glazeMessageDone t core) s fun u =>
      let m := moment t s
      (s.cry.cores[core].running = none → u = m)
        ∧ ∀ (g : GlazeMsg) (h : Held) (e : Entry) (input aad : List Byte), s.cry.cores[core].running = some g →
            findHeld g.cmd s = some h → h.cmd = .cryProcess e input aad →
            ∃ v, u = schedule (endMessage g h input aad v) ∧ v.cry.cores[core] = { s.cry.cores[core] with running := none })
  ∧ (∀ (t : DT) (s : State), Gives (.entropyHealthFailure t) s fun u =>
      let m := moment t s
      let recent := (s.cry.entropy.failures.filter fun d => decide (dtSince d (now m) ≤ 2 ^ 32)).length
      (s.cry.entropy.failed = true → u = m)
        ∧ (s.cry.entropy.failed = false → recent < 2 →
            u.cry = { s.cry with entropy := { s.cry.entropy with
              testing := true, failures := now m :: s.cry.entropy.failures.filter fun d => decide (dtSince d (now m) ≤ 2 ^ 32) } })
        ∧ (s.cry.entropy.failed = false → 2 ≤ recent → u.cry.entropy.failed = true ∧ u.cry.entropy.failedAt = now m
            ∧ allMessages u = [] ∧ ∃ v, u = finishAll ((allMessages s).map (·.cmd)) .hwFault [] v))
  ∧ (∀ (t : DT) (pass : Bool) (s : State), Gives (.entropyStartupTestsDone t pass) s fun u =>
      let m := moment t s
      (s.cry.entropy.testing = false → u = m)
        ∧ (s.cry.entropy.testing = true → pass = true → u.cry = { s.cry with entropy := { s.cry.entropy with testing := false } })
        ∧ (s.cry.entropy.testing = true → pass = false → ∃ v, u = healthFailure v
            ∧ v.cry = { s.cry with entropy := { s.cry.entropy with testing := false } }))
  ∧ (∀ (t : DT) (pass : Bool) (s : State), Gives (.entropyRetry t pass) s fun u =>
      let m := moment t s
      (s.cry.entropy.failed = false ∨ pass = false → u = m)
        ∧ (s.cry.entropy.failed = true → pass = true → ∃ c w, w.cry = { s.cry with entropy := Entropy.reset }
            ∧ u = faultSherd c 0 s.cry.entropy.failedAt (now (tagAll w)) (useFree (tagAll w))))
  ∧ (∀ e : Entry, e.target.toNat = 1 → Does (.logConfig e) specLogConfig e fun h u t => ∃ v, t = finishC h v
      ∧ v.sg.deliver = if u.pair.role = 2 then u.sg.deliver else le (Entry.args e) 2 1 == 1)
  ∧ (∀ e : Entry, e.target.toNat = 0 → Does (.logConfig e) specLogConfig e fun h u t =>
      let a := Entry.args e
      let slot := le a 0 2
      (slot ≠ 0xFFFF → keyAt slot u = none → t = reject h .keyAbsent u)
        ∧ (slot ≠ 0xFFFF → ∀ k, keyAt slot u = some k → testBit k.usage 3 = false → t = fail h .errParam (Entry.offset e 0) .outOfRange u)
        ∧ ((slot = 0xFFFF ∨ ∃ k, keyAt slot u = some k ∧ testBit k.usage 3 = true) →
            let busy := le a 4 4 ≠ u.cry.ringKb ∧ u.pair.role ≠ 2 ∧ u.cry.log.any (fun x => !x.drained) = true
            (busy → t = reject h .busyRunning u) ∧ (¬ busy → t = finishC h (setLog slot (le a 2 1 == 1) (le a 4 4) u))))
  ∧ (∀ e : Entry, e.target.toNat = 0 → Does (.logRead e) specLogRead e fun h u t =>
      let first := le (Entry.args e) 16 8
      let ready := ((u.cry.log.filter fun x => decide (first ≤ x.seq.toNat)).takeWhile fun x => !x.untagged).take (readLimit h)
      (u.cry.nextSeq.toNat ≤ first → t = fail h .errParam (Entry.offset e 16) .outOfRange u)
        ∧ (first < u.cry.nextSeq.toNat → ∃ v, t = endRead h first (ready.map fun x => (x.seq, x.data)) v
            ∧ v.cry.log = u.cry.log.map fun x => if ready.any (fun y => y.seq == x.seq) then { x with drained := true } else x))
  ∧ (∀ e : Entry, e.target.toNat = 1 → Does (.logRead e) specLogRead e fun h u t =>
      let first := le (Entry.args e) 16 8
      (u.sg.seq.toNat ≤ first → t = fail h .errParam (Entry.offset e 16) .outOfRange u)
        ∧ (first < u.sg.seq.toNat → t = endRead h first ((u.sg.log.filter fun x => decide (first ≤ x.1.toNat)).take (readLimit h)) u))
  ∧ ∀ e : Entry, Does (.logMark e) specLogMark e fun h u t =>
      ∃ v n, t = finish h .ok [(16, 8, (BitVec.toNat n : Int)), (24, 1, bit (v.cry.log.any fun x => x.seq == n && x.untagged))] v
        ∧ n = u.cry.nextSeq + (if runEnds u then 1 else 0)
        ∧ v = opSherd 0x60 0xFFFF (now u) (now u)
            (fit 40 ((Entry.args e).drop 8) ++ pack 40 8 [(40, 2, (h.tag.toNat : Int)), (42, 1, (qidOf h.src : Int))]) u

/-- Calibration requests, the schedule, firings, windows, vault stores, the Cone and the voltage plan. MNT_CALIBRATE joins a running
firing or requests one, ERR_STATE where the object cannot fire. MNT_SCHEDULE_SET refuses activities 6 and 7 and else sets the activity,
its due dates and the vault. The status lists exactly the firings asked for; MNT_CONE_READ gives 64 bytes; MNT_MARGIN_PLAN gives the plan
or issues one. A due firing starts when it can; a window that has passed counts a deferral once; a firing ends with the outcome that its
tests and limits give, unsuitable where the input clipped, the values in force kept unless it is OK. A store done takes effect, a first
failure is retried, a second ends with it. Cone samples, one a second or every 10 s in Dormant, integrate temperatures; every 30 days a
new plan is issued within 700 to 850 mV. Completion of the commands mntCalibrate, mntScheduleSet, mntScheduleStatus, mntConeRead,
mntMarginPlan, kilnFiringStart, kilnWindowExpiry, kilnFiringEnd, vaultStoreDone, coneSample and conePlanDue.
(17_calibration_ageing_maintenance.md: Activities and defaults; 17_calibration_ageing_maintenance.md: Windows and conflicts;
17_calibration_ageing_maintenance.md: The Cone; 17_calibration_ageing_maintenance.md: The calibration store) -/
def Obligations.KilnFiresPlansAndStores : Prop :=
  (∀ (e : Entry) (a : Fin 9), le (Entry.args e) 0 1 = a.val → Does (.mntCalibrate e) specMntCalibrate e fun h u t =>
    let o := e.target.toNat
    (findFiring a.val o u = none ∨ fireable a.val o u = false → t = reject h .errState u)
      ∧ ∀ f, findFiring a.val o u = some f → fireable a.val o u = true →
        (f.running = true → ∃ v, t = begin_ h v
            ∧ v.mnt.firings = u.mnt.firings.map fun x => if x.activity = a.val ∧ x.obj = o then { x with cmds := x.cmds ++ [h.id] } else x)
          ∧ (f.running = false → t = requestFiring h a o u))
  ∧ (∀ (e : Entry) (a : Fin 9), e.target.toNat = a.val → Does (.mntScheduleSet e) specMntScheduleSet e fun h u t =>
      let p := Entry.args e
      (a.val = 6 ∨ a.val = 7 → t = fail h .errParam 6 .outOfRange u)
        ∧ (a.val ≠ 6 → a.val ≠ 7 → ∃ v, t = finishC h (askStore .schedule none v)
            ∧ v.mnt.acts[a] = { u.mnt.acts[a] with enable := le p 0 1 == 1, cls := le p 1 1, period := le p 4 4, window := le p 8 4 }
            ∧ ∀ f, f ∈ v.mnt.firings → f.activity = a.val → f.due = dtAdd f.last (periodOf v.mnt.acts[a])))
  ∧ (∀ e : Entry, Does (.mntScheduleStatus e) specMntScheduleStatus e fun h u t =>
      ∃ l : List Firing, t = finishOut h .ok (l.flatMap fun f => firingBytes f u) none u
        ∧ ∀ f, f ∈ l ↔ f ∈ u.mnt.firings ∧ f.activity < 9 ∧ (e.target.toNat = f.activity ∨ e.target.toNat = 0xFFFF))
  ∧ (∀ e : Entry, Does (.mntConeRead e) specMntConeRead e fun h u t => t = finishOut h .ok (coneBytes u.mnt.cone) none u
      ∧ (coneBytes u.mnt.cone).length = 64)
  ∧ (∀ e : Entry, Does (.mntMarginPlan e) specMntMarginPlan e fun h u t =>
      (le (Entry.args e) 0 1 ≠ 1 → t = finish h .ok (planFields u) u)
        ∧ (le (Entry.args e) 0 1 = 1 → ∃ v, t = finish h .ok (planFields v) v ∧ v = ownPlan u
            ∧ v.mnt.cone.planNumber = u.mnt.cone.planNumber + 1))
  ∧ (∀ (t : DT) (a : Fin 9) (obj : Fin 64) (s : State), Gives (.kilnFiringStart t a obj) s fun u =>
      let m := withEntry a.val obj.val (moment t s)
      (isRunning m = false ∨ m.mnt.paused = true ∨ findFiring a.val obj.val m = none → u = m)
        ∧ ∀ f, findFiring a.val obj.val m = some f → isRunning m = true → m.mnt.paused = false →
          (isDue f m = false → u = m)
            ∧ (isDue f m = true → canFire f m = true → u = startFiring a obj.val m)
            ∧ (isDue f m = true → canFire f m = false → u = if a.val = 6 then claimSlip m else m))
  ∧ (∀ (t : DT) (a : Fin 9) (obj : Fin 64) (s : State), Gives (.kilnWindowExpiry t a obj) s fun u =>
      let m := moment t s
      ∀ f, findFiring a.val obj.val m = some f →
        let past := isDue f m = true ∧ f.raised = false ∧ f.due.toNat + m.mnt.acts[a].window * 2 ^ 32 ≤ (now m).toNat
        (past → u = modFiring a.val obj.val (fun f => { f with deferrals := f.deferrals + 1, raised := true }) m) ∧ (¬ past → u = m))
  ∧ (∀ (t : DT) (a : Fin 9) (obj : Fin 64) (r : FiringResult) (s : State), Gives (.kilnFiringEnd t a obj r) s fun u =>
      let m := moment t s
      (findFiring a.val obj.val m = none → u = m)
        ∧ ∀ f, findFiring a.val obj.val m = some f →
          (f.running = false ∨ f.storing.isSome = true ∨ a.val = 7 → u = m)
            ∧ (f.running = true → f.storing = none → a.val ≠ 7 →
                (u = endFiring a obj.val (judgedOutcome f r m) (firingQuality f (judgedOutcome f r m) r m).1 r
                    (firingQuality f (judgedOutcome f r m) r m).2)
                  ∧ (judgedOutcome f r m = .ok ↔ suitable f r m = true ∧ plausible f r m = true)
                  ∧ (judgedOutcome f r m = .unsuitable ↔ suitable f r m = false)
                  ∧ (∀ i : Fin 2, a.val = 3 → obj.val = i.val → m.rf.wb[i].clippedSinceCal = true → judgedOutcome f r m = .unsuitable)
                  ∧ (∀ n : Fin 4, a.val = 2 → obj.val = n.val → judgedOutcome f r m ≠ .ok →
                      u.rf.tuners[n].offset = m.rf.tuners[n].offset ∧ u.rf.tuners[n].irGain = m.rf.tuners[n].irGain
                        ∧ u.rf.tuners[n].irPhase = m.rf.tuners[n].irPhase)))
  ∧ (∀ (t : DT) (item : VaultItem) (ok : Bool) (s : State), Gives (.vaultStoreDone t item ok) s fun u =>
      let m := moment t s
      let mine := s.mnt.stores.filter fun x => x.1 == item
      let cmds := mine.filterMap (·.2.2)
      (mine = [] → u = m)
        ∧ ∀ x rest, mine = x :: rest →
          (ok = true → ∃ v, u = storedItem item cmds v ∧ v.mnt.stores = s.mnt.stores.filter fun x => x.1 != item)
            ∧ (ok = false → x.2.1 = 0 → u.mnt.stores = s.mnt.stores.map fun y => if y.1 == item then (y.1, 1, y.2.2) else y)
            ∧ (ok = false → x.2.1 ≠ 0 → ∃ v, u = storeFailed item cmds v ∧ v.mnt.stores = s.mnt.stores.filter fun x => x.1 != item))
  ∧ (∀ (t : DT) (tHot tAo : Int) (margins : List Int) (s : State), Gives (.coneSample t tHot tAo margins) s fun u =>
      let m := moment t s
      let heat (tj : Int) : BitVec 64 := s.mnt.cone.heat + BitVec.ofNat 64 ((s.mnt.cone.heatFrac + heatWork (conePeriod s) tj) / 2 ^ 32)
      let due := conePeriod s * 2 ^ 32 ≤ dtSince s.mnt.sampledAt (now m)
      (s.power.porstN = false ∨ ¬ due → u = m)
        ∧ (s.power.porstN = true → due → s.power.st ≠ .running → s.power.st ≠ .dormant → u.power.tHot = tHot ∧ u.power.tAo = tAo
            ∧ u.mnt.cone.heat = heat tHot ∧ u.mnt.cone.tMax = max s.mnt.cone.tMax tHot ∧ u.mnt.cone.margins = margins.take 8)
        ∧ (s.power.porstN = true → due → s.power.st = .running → ∃ v, u = dailyTune (marginTrip margins (tempDue v)) ∧ v.power.tHot = tHot
            ∧ v.mnt.cone.heat = heat tHot ∧ v.mnt.cone.tMax = max s.mnt.cone.tMax tHot ∧ v.mnt.cone.margins = margins.take 8)
        ∧ (s.power.porstN = true → due → s.power.st = .dormant → u.mnt.cone.heat = heat tAo ∧ u.mnt.cone.tMax = max s.mnt.cone.tMax tAo
            ∧ u.mnt.cone.margins = s.mnt.cone.margins))
  ∧ ∀ (t : DT) (s : State), Gives (.conePlanDue t) s fun u =>
      let m := moment t s
      (dtSince s.mnt.cone.planDt (now m) < daysDt 30 → u = m)
        ∧ (daysDt 30 ≤ dtSince s.mnt.cone.planDt (now m) → u = ownPlan m
            ∧ u.mnt.cone.planNumber = s.mnt.cone.planNumber + 1 ∧ u.mnt.cone.planDt = now m
            ∧ u.mnt.cone.planHeadroom = headroomOf s.mnt.cone.margins s.cx.profile
            ∧ (s.power.avsStopped = true → u.mnt.cone.planMv = s.power.vcoreMv)
            ∧ (s.power.avsStopped = false → 700 ≤ u.mnt.cone.planMv ∧ u.mnt.cone.planMv ≤ 850 ∧ u.mnt.cone.planMv % 5 = 0))

/-- Units join, degrade, follow time and part. PAIR_JOIN: ERR_STATE while joined or joining, or for SHIELD outside profile 0 or without a
log key; else the join is noted. PAIR_LEAVE: ERR_STATE unless joined and free of the peer's use; else the pair ends, in SHIELD with the
profile back at 0. PAIR_STATUS gives its fields, PAIR_MIRROR waits in SHIELD. A lost heartbeat ends a join with PEER_LOST or loses the
peer; training not done in 5 ms likewise. A lost lane leaves the rest, counts, and retrains; retried a second later it joins again or
waits another second. A completed join that fails ends with its status, else both modes and lanes are set and the result given; after 10
s it ends with PEER_LOST. A DT marker gives the SECONDARY its offset and a bounded step of the tune word. Completion of pairJoin,
pairLeave, pairStatus, pairMirror, peerHeartbeatLost, linkTrainTimeout, walvalLaneLoss, walvalLaneRetry, pairJoinComplete,
pairJoinTimeout and pairDtMarker. (18_pair_mode.md: Joining and roles; 18_pair_mode.md: Link states and lane degradation;
18_pair_mode.md: Loss of a unit; 18_pair_mode.md: Pair status; 18_pair_mode.md: Time across the pair) -/
def Obligations.PairsJoinRunAndPart : Prop :=
  (∀ e : Entry, Does (.pairJoin e) specPairJoin e fun h u t =>
    let a := Entry.args e
    let busy := joined u = true ∨ u.pair.join.isSome = true
    let unfit := le a 0 1 = 2 ∧ (u.cx.profile ≠ 0 ∨ logKey u = none)
    (busy ∨ unfit → t = reject h .errState u)
      ∧ (¬ busy → ¬ unfit → ∃ v, t = begin_ h v ∧ v.pair = { u.pair with
          join := some { cmd := h.id, mode := le a 0 1, role := le a 1 1, exports := BitVec.ofNat 2 (le a 2 1), at_ := now u } }))
  ∧ (∀ e : Entry, Does (.pairLeave e) specPairLeave e fun h u t =>
      let barred := joined u = false ∨ u.pair.takeover = true ∨ secondaryOpen u = true ∨ usesPeer u = true
      (barred → t = dormantCheck (reject h .errState u))
        ∧ (¬ barred → inShield u = false → t = dormantCheck (finishC h (unpair (emit (.link 6 []) u))))
        ∧ (¬ barred → inShield u = true → ∃ v, t = dormantCheck (finishC h (unpair v)) ∧ v.cx.profile = 0))
  ∧ (∀ e : Entry, Does (.pairStatus e) specPairStatus e fun h u t =>
      t = finish h .ok [(16, 1, (linkCode u.pair.link : Int)), (17, 1, (u.pair.lanes.toNat : Int)), (18, 1, (u.pair.role : Int)),
        (19, 1, (u.pair.mode : Int)), (20, 4, u.pair.dtOffset), (24, 4, (crcErrors u.pair : Int)), (28, 4, (u.pair.retrains.toNat : Int))] u)
  ∧ (∀ (e : Entry) (c : Fin 64), e.target.toNat = c.val → Does (.pairMirror e) specPairMirror e fun h u t =>
      (u.cx.ctxs[c].st ≠ .closed ∧ inShield u = true → t = park h [] u)
        ∧ (u.cx.ctxs[c].st = .closed ∨ inShield u = false → t = reject h .errState u))
  ∧ (∀ (t : DT) (s : State), Gives (.peerHeartbeatLost t) s fun u =>
      ∃ m : State, m.pair = { s.pair with peerHb := false } ∧ now m = now (moment t s)
        ∧ (∀ q, s.pair.join = some q → u = endJoin q .peerLost m)
        ∧ (s.pair.join = none → joined m = true → s.pair.link ≠ .lost → u = dormantCheck (losePeer true m))
        ∧ (s.pair.join = none → joined m = false ∨ s.pair.link = .lost → u = m))
  ∧ (∀ (t : DT) (s : State), Gives (.linkTrainTimeout t) s fun u =>
      let m := moment t s
      let late := joined m = true ∧ s.pair.link = .training ∧ msDt 5 ≤ dtSince s.pair.trainFrom (now m)
      (late → u = dormantCheck (losePeer false m)) ∧ (¬ late → u = m))
  ∧ (∀ (t : DT) (lane : Fin 4) (s : State), Gives (.walvalLaneLoss t lane) s fun u =>
      let m := moment t s
      let rest := s.pair.lanes &&& ~~~ BitVec.twoPow 4 lane.val
      (joined m = false ∨ s.pair.lanes.getLsbD lane.val = false → u = m)
        ∧ (joined m = true → s.pair.lanes.getLsbD lane.val = true →
            u.pair.lanes = rest ∧ u.pair.retrains = s.pair.retrains + 1 ∧ u.pair.laneDrops = s.pair.laneDrops + 1
              ∧ u.pair.link = trained rest
              ∧ ∃ v, u = faultSherd 5 lane.val (now m) (now m) v
                ∧ (laneCount rest = 1 → ∃ w, v = stopStream true w)))
  ∧ (∀ (t : DT) (lane : Fin 4) (pass : Bool) (s : State), Gives (.walvalLaneRetry t lane pass) s fun u =>
      let m := moment t s
      let all_ := s.pair.lanes ||| BitVec.twoPow 4 lane.val
      let tries := joined m = true ∧ s.pair.lanes.getLsbD lane.val = false ∧ s.pair.link ≠ .lost ∧ msDt 1000 ≤ dtSince s.pair.laneAt[lane] (now m)
      (¬ tries → u = m)
        ∧ (tries → pass = false → u.pair = { s.pair with laneAt := s.pair.laneAt.set lane (now m) })
        ∧ (tries → pass = true → u.pair.lanes = all_ ∧ u.pair.link = trained all_ ∧ u.pair.retrains = s.pair.retrains + 1))
  ∧ (∀ (t : DT) (j : JoinInfo) (s : State), Gives (.pairJoinComplete t j) s fun u =>
      ∀ q, s.pair.join = some q → ∃ m : State, m = setLink .training (moment t s)
        ∧ (∀ st, joinFails q j m = some st → u = endJoin q st m)
        ∧ (joinFails q j m = none → ∃ v, v = pairUp q.mode (joinRole q m) q.exports j m
            ∧ u = finishId q.cmd .ok [(16, 1, (joinRole q m : Int)), (17, 1, (v.pair.lanes.toNat : Int)), (18, 1, (q.mode : Int)),
                (20, 4, (v.pair.transit.toNat : Int)), (24, 8, dtInt (now v))] v
            ∧ v.pair.role = joinRole q m ∧ v.pair.mode = q.mode ∧ v.pair.lanes = j.lanes ∧ v.pair.join = none))
  ∧ (∀ (t : DT) (s : State), Gives (.pairJoinTimeout t) s fun u =>
      let m := moment t s
      (s.pair.join = none → u = m)
        ∧ ∀ q, s.pair.join = some q →
          (10 * 2 ^ 32 ≤ dtSince q.at_ (now m) → u = endJoin q .peerLost m) ∧ (dtSince q.at_ (now m) < 10 * 2 ^ 32 → u = m))
  ∧ ∀ (t : DT) (offsetPs : Int) (s : State), Gives (.pairDtMarker t offsetPs) s fun u =>
      let m := moment t s
      let follows := s.pair.role = 2 ∧ (s.pair.link = .up ∨ s.pair.link = .degraded)
      (¬ follows → u = m)
        ∧ (follows → u.pair = { s.pair with dtOffset := offsetPs, peerHb := true }
            ∧ ∃ w, u.time.tune = approach s.time.tune w (maxTuneStep s.time * (dtInt (now m) - lastTune s.time).toNat / 2 ^ 32))

/-- Seal and tamper, supply, faults, boot, legal Sherds, requests, job starts and results. SEAL_SW to OPEN unseals a sealed Saggar that
acts and counts the audit, any other change of the switch leaves seal and counters; TAMPER_N does the same once per assertion. VDD_SG
arriving boots, leaving clears jobs, responses and unformed records; a first fault in 24 h recovers, a boot sets the image or STOPPED,
which it also does where a recovery took more than 500 ms. A formed Sherd commits in order into a ring of 16 384. Requests are judged
(HW_FAULT, ERR_STATE, NO_RESOURCE, ERR_PARAM) and else queued with their planned start; a job starts in its turn, claiming the Slip for
level jobs; at its end the result carries value, uncertainty, identity and invalid bits. SG_READ_RESULT and SG_STATUS answer, NOT_LEGAL
on OQ6404-NFB-I. Completion of sealSwChange, tamperNAssert, tamperNRelease, vddSgArrival, vddSgLoss, saggarFault, saggarBootDone,
legalSherdCommit, verifyMaxExpiry, sgReadResult, sgStatus, sgRequestMeasure, saggarJobStart and saggarJobEnd. (14_saggar.md: Saggar and
seal states; 14_saggar.md: Jobs; 14_saggar.md: Legal log; 14_saggar.md: Faults; 14_saggar.md: Level calibration and recalibration;
12_command_catalogue.md: Maintenance, pair, Saggar and diagnostics) -/
def Obligations.SaggarSealsJudgesAndMeasures : Prop :=
  (∀ (t : DT) (protect : Bool) (s : State), Gives (.sealSwChange t protect) s fun u =>
    let m := moment t s
    (s.power.sealSw = protect → u = m)
      ∧ (s.power.sealSw ≠ protect → u.power.sealSw = protect ∧ u.power.latched = s.power.latched ||| BitVec.twoPow 5 3
          ∧ (sgActs m = true → s.sg.sealSt = .sealed_ → protect = false →
              u.sg.sealSt = .unsealed ∧ u.sg.counters[0] = if s.sg.counters[0] = 0xFFFFFFFF then s.sg.counters[0] else s.sg.counters[0] + 1)
          ∧ (sgActs m = true → s.sg.sealSt ≠ .sealed_ ∨ protect = true → u.sg.sealSt = s.sg.sealSt ∧ u.sg.counters = s.sg.counters)))
  ∧ (∀ (t : DT) (s : State), Gives (.tamperNAssert t) s fun u =>
      let m := moment t s
      let acts := sgActs m = true ∧ s.sg.tamperArmed = true
      u.sg.tamper = true
        ∧ (¬ acts → u.sg = { s.sg with tamper := true })
        ∧ (acts → u.sg.tamperArmed = false
            ∧ (s.sg.sealSt = .sealed_ → u.sg.sealSt = .unsealed)
            ∧ (s.sg.sealSt = .sealed_ ∨ s.sg.sealSt = .unsealed →
                u.sg.counters[0] = if s.sg.counters[0] = 0xFFFFFFFF then s.sg.counters[0] else s.sg.counters[0] + 1)
            ∧ (s.sg.sealSt ≠ .sealed_ → s.sg.sealSt ≠ .unsealed → u.sg.sealSt = s.sg.sealSt ∧ u.sg.counters = s.sg.counters)))
  ∧ (∀ (t : DT) (s : State), Gives (.tamperNRelease t) s fun u => u.sg = { s.sg with tamper := false, tamperArmed := true })
  ∧ (∀ (t : DT) (s : State), Gives (.vddSgArrival t) s fun u =>
      (s.sg.st = .off → s.power.porstN = true → u.sg = { s.sg with st := .boot, coldBoot := true })
        ∧ (s.sg.st ≠ .off ∨ s.power.porstN = false → u = moment t s))
  ∧ (∀ (t : DT) (s : State), Gives (.vddSgLoss t) s fun u =>
      (s.sg.st = .off → u = moment t s)
        ∧ (s.sg.st ≠ .off → u.sg.st = .off ∧ u.sg.jobs = [] ∧ u.sg.formed = [] ∧ u.sg.responses = [] ∧ u.sg.lateResponses = []
            ∧ u.sg.lastFault = none))
  ∧ (∀ (t : DT) (kind : SgFaultKind) (s : State), Gives (.saggarFault t kind) s fun u =>
      let m := moment t s
      (s.sg.st = .off ∨ s.sg.st = .stopped → u = m)
        ∧ (s.sg.st ≠ .off → s.sg.st ≠ .stopped → (s.sg.lastFault = none ∨ ∃ d, s.sg.lastFault = some d ∧ daysDt 1 < dtSince d (now m)) →
            u.sg.st = .boot ∧ u.sg.recovering = some kind ∧ u.sg.lastFault = some (now m)))
  ∧ (∀ (t : DT) (area : Option Bool) (pass : Bool) (s : State), Gives (.saggarBootDone t area pass) s fun u =>
      (s.sg.st ≠ .boot → u = moment t s)
        ∧ (s.sg.st = .boot →
            let inTime := s.sg.recovering = none ∨ ∀ f, s.sg.lastFault = some f → dtSince f (now (moment t s)) ≤ msDt 500
            (∀ b, area = some b → pass = true → inTime → sgActs u = true ∧ u.sg.activeB = b
                ∧ u.sg.version = (if b then s.sg.areas[1] else s.sg.areas[0]).1)
              ∧ (area = none ∨ pass = false ∨ ¬ inTime → u.sg.st = .stopped)))
  ∧ (∀ (t : DT) (s : State), Gives (.legalSherdCommit t) s fun u =>
      let m := moment t s
      (s.sg.st = .off ∨ s.sg.st = .boot → u = m)
        ∧ (s.sg.st ≠ .off → s.sg.st ≠ .boot →
            (s.sg.formed = [] → u = m)
              ∧ ∀ q d rest, s.sg.formed = (q, d) :: rest → u.sg.formed = rest ∧ u.sg.committed = q + 1
                ∧ u.sg.log = (s.sg.log ++ [(q, d)]).drop (s.sg.log.length + 1 - 16384)))
  ∧ (∀ (t : DT) (s : State), Gives (.verifyMaxExpiry t) s fun u =>
      let m := moment t s
      (s.sg.verifyMax * 3600 * 2 ^ 32 ≤ dtSince s.sg.lastVerify (now m) → u.sg = { s.sg with verifyLate := true })
        ∧ (dtSince s.sg.lastVerify (now m) < s.sg.verifyMax * 3600 * 2 ^ 32 → u = m))
  ∧ (∀ e : Entry, Does (.sgReadResult e) specSgReadResult e fun h u t =>
      let job := BitVec.ofNat 32 (le (Entry.args e) 12 4)
      (u.sg.st = .off → t = reject h .hwFault u)
        ∧ (u.sg.st ≠ .off → u.sg.jobs.any (·.id == job) = true → t = reject h .errState u)
        ∧ (u.sg.st ≠ .off → u.sg.jobs.any (·.id == job) = false →
            (u.sg.results.find? (·.job == job) = none → t = fail h .errParam (Entry.offset e 12) .outOfRange u)
              ∧ ∀ r, u.sg.results.find? (·.job == job) = some r →
                t = finishOut h (if u.ident.nfb then .notLegal else .ok) (resultArea r) none u ∧ (resultArea r).length = 40))
  ∧ (∀ e : Entry, Does (.sgStatus e) specSgStatus e fun h u t =>
      (u.sg.st = .off → t = reject h .hwFault u)
        ∧ (u.sg.st ≠ .off → le (Entry.args e) 0 1 = 0 →
            t = finish h .ok [(16, 1, (sealCode u.sg.sealSt : Int)), (17, 1, (sgStateCode u.sg.st : Int)), (18, 2, ((queuedJobs u).length : Int)),
              (20, 4, (auditOf u : Int)), (24, 8, dtInt (dueDate u.sg))] u)
        ∧ (u.sg.st ≠ .off → le (Entry.args e) 0 1 ≠ 0 →
            t = finish h .ok [(16, 4, (u.sg.version.toNat : Int)), (20, 4, (le u.sg.checksum 0 4 : Int))] u))
  ∧ (∀ (e : Entry) (c : Fin 64), e.target.toNat = c.val → Does (.sgRequestMeasure e) specSgRequestMeasure e fun h u t =>
      let a := Entry.args e
      let r : Request :=
        { quantity := le a 0 1, sel := 0, duration := le a 4 4, start := BitVec.ofNat 64 (le a 8 8), expected := none, bandwidth := 0,
          lport := false }
      (u.sg.st = .off → t = reject h .hwFault u)
        ∧ (u.sg.st ≠ .off → judge r c u = some .state → t = reject h .errState u)
        ∧ (u.sg.st ≠ .off → judge r c u = some .resource → t = reject h .noResource u)
        ∧ (u.sg.st ≠ .off → judge r c u = some .duration → t = fail h .errParam (Entry.offset e 4) .outOfRange u)
        ∧ (u.sg.st ≠ .off → judge r c u = some .quantity → t = fail h .errParam (Entry.offset e 0) .outOfRange u)
        ∧ (u.sg.st ≠ .off → judge r c u = none → ∃ j v, (j, v) = queueJob r c u
            ∧ t = finish h .ok [(16, 4, (j.id.toNat : Int)), (24, 8, dtInt j.planned)] v
            ∧ v.sg.jobs = u.sg.jobs ++ [j] ∧ j.id = u.sg.nextJob ∧ j.running = false ∧ r.start.toNat ≤ j.planned.toNat))
  ∧ (∀ (t : DT) (job : BitVec 32) (tone : ToneReading) (path : Fin 64) (s : State), Gives (.saggarJobStart t job tone path) s fun u =>
      let m := moment t s
      (s.sg.jobs.find? (·.id == job) = none → u = m)
        ∧ ∀ j, s.sg.jobs.find? (·.id == job) = some j →
          let first := sgActs m = true ∧ isRunning m = true ∧ canStart j path m = true
            ∧ s.sg.jobs.any (fun k => beforeJob k j && canStart k path m) = false
          (¬ first → u = m)
            ∧ (first → levelJob j = true → slipForSaggar m = false → u = claimSlip m)
            ∧ (first → levelJob j = false ∨ slipForSaggar m = true → ∀ (c : Fin 64) x, j.ctx = c.val → choosePath j.pathSel c m = some x →
                u = endSlip (startJob j x c path tone m)))
  ∧ ∀ (t : DT) (job : BitVec 32) (r : JobOutcome) (s : State), Gives (.saggarJobEnd t job r) s fun u =>
      let m := moment t s
      (s.sg.jobs.find? (·.id == job) = none → u = m)
        ∧ ∀ j, s.sg.jobs.find? (·.id == job) = some j →
          let finish := dtAdd j.began (msDt j.duration)
          (j.running = false ∨ (now m).toNat < finish.toNat → u = m)
            ∧ (j.running = true → finish.toNat ≤ (now m).toNat → levelJob j = true → slipForSaggar m = false → u = claimSlip m)
            ∧ (j.running = true → finish.toNat ≤ (now m).toNat → levelJob j = false ∨ slipForSaggar m = true →
                let k := (measured j r m).1
                let n := (measured j r m).2
                (∃ v wide, v.finish = finish ∧ v.ident = (r.identity : Int) ∧ v.cEnd = k.cEnd ∧ v.value = k.value ∧ v.unc = k.unc
                    ∧ v.invalid = invalidBits j r k n ∧ u = endSlip (releaseJob j (dropJob job (writeResult j v wide n))))
                  ∧ (levelJob j = false → k.cEnd = 0)
                  ∧ (∀ a b, levelOf (jobSource j m) r.power m = some a → levelOf (jobSource j m) r.tone.tone m = some b → j.quantity = 1 →
                      k.value = correctedLevel a j.cStart k.cEnd ∧ k.unc = if jobSource j m < 8 then 100 else 50))

/-- Restart orders, pins, image fetch, Dormant, wake, power fail, AVS and DRAM errors. RESTART takes effect only with its key and in the
states that allow it. WARM_N falling warm-starts a running device; the setter watchdog is a failed start within 60 s of RUNNING, and
warm-starts it later. PORST_N rising starts cold with fresh boot conditions; falling resets everything but the vault and the Saggar's own
supply. IMG_GO and the fetch result are judged; a start not done in time fails; the failure count clears after 60 s. A thermal trip
halts. The entry to Dormant begins with DORMANT_REQ when armed and not joined, ends with the core supply off, and a wake event during it
is kept; Dormant is left by its pin, the PCIe reset or an MPORT match, with VDD_CORE in range. PFAIL_N pauses the Kiln and resumes it.
AVS moves one code at a time, at most one each 0.5 ms and down only with the margins, and stops when the voltage has not followed in 5
ms. Single-bit errors are corrected and counted, multi-bit ones in firmware restart. Completion of restartWarmWrite, restartColdWrite,
warmNFall, setterWatchdogExpiry, porstNRise, porstNFall, imgGo, imageFetchDone, startTimeout, runningFailCountClear, thermalTrip,
dormantReqFall, pcieResetRise, mportWake, vddCoreInRange, dormantReqHeld, pfailNFall, pfailNRise, avsCodeStep, avsSettleTimeout and
dramEccError. (19_start_reset_power.md: Start triggers and states; 19_start_reset_power.md: Boot sources and images;
19_start_reset_power.md: Warm start; 19_start_reset_power.md: Dormant; 19_start_reset_power.md: Power-fail warning; 16_memory_capture.md:
Errors and scrub) -/
def Obligations.StartsAndPinsAct : Prop :=
  (∀ (t : DT) (value : BitVec 32) (s : State), Gives (.restartWarmWrite t value) s fun u =>
    let m := moment t s
    let ordered := regOpen m = true ∧ value.toNat / 65536 = 0x5A3C ∧ value.toNat / 256 % 4 = 1
    let may := isRunning m = true ∧ s.power.entering = false
    (ordered → may → u = warmStart s.power.tHot false none m) ∧ (¬ ordered ∨ ¬ may → u = m))
  ∧ (∀ (t : DT) (value : BitVec 32) (s : State), Gives (.restartColdWrite t value) s fun u =>
      let m := moment t s
      let ordered := regOpen m = true ∧ coldAllowed m = true ∧ value.toNat / 65536 = 0x5A3C ∧ value.toNat / 256 % 4 = 2
      (ordered → u = orderedCold m) ∧ (¬ ordered → u = m))
  ∧ (∀ (t : DT) (temp : Int) (s : State), Gives (.warmNFall t temp) s fun u => ∃ v, v.power = { s.power with warmN := false }
      ∧ (isRunning s = true → s.power.entering = false → u = warmStart temp false none v)
      ∧ (isRunning s = false ∨ s.power.entering = true → u = v))
  ∧ (∀ (t : DT) (b : Bool) (s : State), Gives (.setterWatchdogExpiry t b) s fun u =>
      let m := moment t s
      (isRunning s = false → u = m)
        ∧ (isRunning s = true → dtSince s.power.runningSince (now m) < 60 * 2 ^ 32 → u = failRunning 4 m)
        ∧ (isRunning s = true → 60 * 2 ^ 32 ≤ dtSince s.power.runningSince (now m) → u = warmStart s.power.tHot false none m))
  ∧ (∀ (t : DT) (b : Boot) (s : State), Gives (.porstNRise t b) s fun u =>
      (s.power.porstN = true → u = moment t s)
        ∧ (s.power.porstN = false → ∃ v, u = coldStart 3 false false none v ∧ v.power.boot = b ∧ v.power.porstN = true ∧ v.power.fails = 0
            ∧ v.sg.st = (if b.vddSg then .boot else .off) ∧ v.vault = s.vault))
  ∧ (∀ (t : DT) (s : State), Gives (.porstNFall t) s fun u =>
      (s.power.porstN = false → u = moment t s)
        ∧ (s.power.porstN = true → u.power = PowerSt.reset ∧ u.time = TimeSt.reset ∧ u.mp = Mport.reset ∧ u.cx = CtxSt.reset
            ∧ u.rf = RfSt.reset ∧ u.vault = s.vault ∧ u.sg.st = s.sg.st ∧ u.sg.log = s.sg.log ∧ u.sg.counters = s.sg.counters))
  ∧ (∀ (t : DT) (s : State), Gives (.imgGo t) s fun u =>
      let m := moment t s
      let n := s.power.imgLen.toNat
      (bootOpen m = false ∨ s.power.imgBusy = true → u = m)
        ∧ (bootOpen m = true → s.power.imgBusy = false →
            (4096 ≤ n ∧ n ≤ 16777216 → u.power = { s.power with imgBusy := true, imgResult := 0 })
              ∧ (n < 4096 ∨ 16777216 < n → u.power = { s.power with imgResult := 4 })))
  ∧ (∀ (t : DT) (result : Fin 6) (secver : Nat) (s : State), Gives (.imageFetchDone t result secver) s fun u =>
      let r := if result.val = 1 ∧ secver < s.ident.minSecver.toNat then 3 else result.val
      (s.power.imgBusy = false → u = moment t s)
        ∧ (s.power.imgBusy = true → ∃ v, v.power = { s.power with imgBusy := false, imgResult := r }
            ∧ (s.power.st = .recovery → r = 1 → u = coldStart 3 true true (some secver) v)
            ∧ (s.power.st = .coldStart → r = 1 → u = coldTail orderedCold false secver v)
            ∧ (s.power.st = .coldStart → r = 2 ∨ r = 3 → u = failRunning 1 v)
            ∧ (s.power.st = .recovery → r ≠ 1 → u = v)
            ∧ (s.power.st = .coldStart → r ≠ 1 → r ≠ 2 → r ≠ 3 → u = v)))
  ∧ (∀ (t : DT) (s : State), Gives (.startTimeout t) s fun u =>
      let m := moment t s
      let span := dtSince s.power.startAt (now m)
      let late := (s.power.st = .coldStart ∧ s.power.waitImage = true ∧ msDt 3000 ≤ span) ∨ (s.power.waking = true ∧ msDt 1000 ≤ span)
      (late → u = failRunning 6 m) ∧ (¬ late → u = m))
  ∧ (∀ (t : DT) (s : State), Gives (.runningFailCountClear t) s fun u =>
      let m := moment t s
      let held := isRunning s = true ∧ 60 * 2 ^ 32 ≤ dtSince s.power.runningSince (now m)
      (held → u.power = { s.power with fails := 0 }) ∧ (¬ held → u = m))
  ∧ (∀ (t : DT) (s : State), Gives (.thermalTrip t) s fun u =>
      (s.power.porstN = true → s.power.st ≠ .halted → u.power.st = .halted ∧ u.power.coreEn = true ∧ u.power.vid = 10 ∧ u.power.faultLow = true)
        ∧ (s.power.porstN = false ∨ s.power.st = .halted → u = moment t s))
  ∧ (∀ (t : DT) (s : State), Gives (.dormantReqFall t) s fun u => u.power.dormantReq = false ∧ u.power.dormantArmed = true
      ∧ (s.power.st = .dormant → u.power.st = .warmStart ∧ u.power.waking = true ∧ u.power.coreEn = true)
      ∧ (s.power.st ≠ .dormant → u.power = { s.power with
          dormantReq := false, dormantArmed := true, wakeAfter := s.power.wakeAfter || s.power.entering }))
  ∧ (∀ (t : DT) (s : State), Gives (.pcieResetRise t) s fun u =>
      (s.power.st = .dormant → u.power = { s.power with st := .warmStart, waking := true, startAt := now (moment t s), coreEn := true })
        ∧ (s.power.st ≠ .dormant → s.power.entering = false → u = moment t s)
        ∧ (s.power.st ≠ .dormant → s.power.entering = true → u.power = { s.power with wakeAfter := true }))
  ∧ (∀ (t : DT) (s : State), Gives (.mportWake t) s fun u =>
      (s.power.st = .dormant → u.power = { s.power with st := .warmStart, waking := true, startAt := now (moment t s), coreEn := true })
        ∧ (s.power.st ≠ .dormant → s.power.entering = false → u = moment t s)
        ∧ (s.power.st ≠ .dormant → s.power.entering = true → u.power = { s.power with wakeAfter := true }))
  ∧ (∀ (t : DT) (temp : Int) (s : State), Gives (.vddCoreInRange t temp) s fun u =>
      (s.power.waking = false → u = moment t s)
        ∧ (s.power.waking = true → s.power.boot.spllLocks = false → u = failRunning 5 (moment t s))
        ∧ (s.power.waking = true → s.power.boot.spllLocks = true → ∃ v, u = reachRunning v ∧ v.sg.halted = false))
  ∧ (∀ (t : DT) (s : State), Gives (.dormantReqHeld t) s fun u => ∃ v, v.power = { s.power with dormantReq := s.power.porstN || s.power.dormantReq }
      ∧ (isRunning s = true → v.power.dormantReq = true → s.power.dormantArmed = true → s.power.entering = false → joined s = false →
          u = abortNotBegun (modPower (fun p => { p with entering := true }) v) ∧ u.power.entering = true ∧ u.mp.received = [])
      ∧ (isRunning s = false ∨ v.power.dormantReq = false ∨ s.power.dormantArmed = false ∨ s.power.entering = true ∨ joined s = true → u = v))
  ∧ (∀ s : State, (s.power.entering = false → endDormant s = s)
      ∧ (s.power.entering = true → s.power.wakeAfter = false → (endDormant s).power.st = .dormant ∧ (endDormant s).power.coreEn = false
          ∧ (endDormant s).power.entering = false ∧ (endDormant s).time.backup = true)
      ∧ (s.power.entering = true → s.power.wakeAfter = true → (endDormant s).power.st = .warmStart ∧ (endDormant s).power.waking = true))
  ∧ (∀ (t : DT) (s : State), Gives (.pfailNFall t) s fun u =>
      (s.power.porstN = false → u = moment t s)
        ∧ (s.power.porstN = true → u.power.pfail = true ∧ u.power.latched = s.power.latched ||| BitVec.twoPow 5 2 ∧ u.mnt.paused = true))
  ∧ (∀ (t : DT) (s : State), Gives (.pfailNRise t) s fun u =>
      (s.power.pfail = false → u = moment t s)
        ∧ (s.power.pfail = true → u.power = { s.power with pfail := false }
            ∧ u.mnt = { s.mnt with paused := s.power.st == .dormant, stores := s.mnt.stores ++ s.mnt.stalled, stalled := [] }))
  ∧ (∀ (t : DT) (s : State), Gives (.avsCodeStep t) s fun u =>
      let m := moment t s
      let n := min 30 ((s.power.avsTarget - 700) / 5)
      let may := isRunning s = true ∧ s.power.avsStopped = false ∧ usDt 500 ≤ dtSince s.power.vidAt (now m)
      let margin := s.mnt.cone.margins.all (fun (k : Int) => decide (60 ≤ k)) = true
      (may → s.power.vid < n → u.power = { s.power with vid := s.power.vid + 1, vidAt := now m })
        ∧ (may → n < s.power.vid → margin → u.power = { s.power with vid := s.power.vid - 1, vidAt := now m })
        ∧ (¬ may ∨ s.power.vid = n ∨ (n < s.power.vid ∧ ¬ margin) → u = m))
  ∧ (∀ (t : DT) (mv : Nat) (s : State), Gives (.avsSettleTimeout t mv) s fun u =>
      let settled := ((mv : Int) - (700 + 5 * s.power.vid)).natAbs ≤ 10
      let early := dtSince s.power.vidAt (now (moment t s)) < msDt 5
      (isRunning s = false ∨ settled ∨ early → u = moment t s)
        ∧ (isRunning s = true → ¬ settled → ¬ early → u.power = { s.power with avsStopped := true, vcoreMv := mv, avsTarget := mv }
            ∧ u.mnt.cone.planMv = mv))
  ∧ ∀ (t : DT) (area : DramArea) (multi : Bool) (s : State), Gives (.dramEccError t area multi) s fun u =>
      let m := moment t s
      (isRunning s = false → u = m)
        ∧ (isRunning s = true → multi = false → ∃ v, u = faultSherd 1 0 (now m) (now m) v ∧ v.mem = { s.mem with corrected := s.mem.corrected + 1 })
        ∧ (isRunning s = true → multi = true → ∃ v, v.mem = { s.mem with multibit := s.mem.multibit + 1 }
            ∧ (area = .firmware → u = faultRestart true v) ∧ (area ≠ .firmware → u = faultSherd 2 0 (now m) (now m) (dramOutcome area v)))

/-- A cold start reaches RUNNING with a new epoch, waits for an image, halts, or fails into RECOVERY. After PORST_N rises: with good
fuses, a legal LIFECYCLE, the vault, at least 2 GB, a bootable image of permitted version and locking SPLLs the device is RUNNING with no
failures, the epoch one higher, DT 0 on the SPLL, the contexts at reset and the pool not ready; with bad fuses it is HALTED; in LIFECYCLE
3 it is in RECOVERY; without the vault or with too little DRAM it fails three times into RECOVERY with cause 3 or 2, the epoch counted
for each start that read the vault; with the image from the MPORT it waits in COLD_START. That each start runs as one step is the model's
choice (log entry 12). Completion of porstNRise. (19_start_reset_power.md: Cold start; 19_start_reset_power.md: Boot sources and images;
01_architecture.md: Conservation; 02_time_reference_clocks.md: Start-up, restart and Dormant) -/
def Obligations.ColdStartsRunOrFailThreeTimes : Prop :=
  (∀ (t : DT) (b : Boot) (s : State) (n : Nat), s.power.porstN = false → b.fusesOk = true → s.ident.lifecycle ≠ 3 → b.vaultOk = true →
    2 ≤ b.dramGB → b.bootsel ≠ 1 → b.imageA = some n → s.ident.minSecver.toNat ≤ n → b.spllLocks = true → b.dormantReq = false →
    Gives (.porstNRise t b) s fun u => u.power.st = .running ∧ u.power.fails = 0 ∧ u.power.porstN = true
      ∧ u.host.epoch = s.vault.epoch + 1 ∧ u.time.dt = 0 ∧ u.time.backup = false ∧ u.ident.imgSecver = BitVec.ofNat 8 n
      ∧ u.cx.ctxs = CtxSt.reset.ctxs ∧ u.mem.poolReady = false)
  ∧ (∀ (t : DT) (b : Boot) (s : State), s.power.porstN = false → b.fusesOk = false →
      Gives (.porstNRise t b) s fun u => u.power.st = .halted ∧ u.host.epoch = s.host.epoch)
  ∧ (∀ (t : DT) (b : Boot) (s : State), s.power.porstN = false → b.fusesOk = true → s.ident.lifecycle = 3 →
      Gives (.porstNRise t b) s fun u => u.power.st = .recovery ∧ u.power.fails = 0)
  ∧ (∀ (t : DT) (b : Boot) (s : State), s.power.porstN = false → b.fusesOk = true → s.ident.lifecycle ≠ 3 → b.vaultOk = false →
      Gives (.porstNRise t b) s fun u => u.power.st = .recovery ∧ u.power.fails = 3 ∧ u.power.lastCause = 3 ∧ u.vault = s.vault)
  ∧ (∀ (t : DT) (b : Boot) (s : State), s.power.porstN = false → b.fusesOk = true → s.ident.lifecycle ≠ 3 → b.vaultOk = true → b.dramGB < 2 →
      Gives (.porstNRise t b) s fun u => u.power.st = .recovery ∧ u.power.fails = 3 ∧ u.power.lastCause = 2 ∧ u.vault.epoch = s.vault.epoch + 3)
  ∧ ∀ (t : DT) (b : Boot) (s : State), s.power.porstN = false → b.fusesOk = true → s.ident.lifecycle ≠ 3 → b.vaultOk = true → 2 ≤ b.dramGB →
      b.bootsel = 1 → Gives (.porstNRise t b) s fun u => u.power.st = .coldStart ∧ u.power.waitImage = true ∧ u.host.epoch = s.vault.epoch + 1

/-- A warm start returns every held command and buffer and leaves DT, the Saggar, the pair and the epoch alone. As it begins, every held
command that is not deferred is cut off and noted for its return, with those the MPORT had not taken; only deferred ones, whose
completions were written when they were deferred, stay. What is noted is returned with RETURNED_RESTART and zero result bytes, OK for the
DEV_RESTART that ordered it, and then no buffer of any class is left. A warm start without refetch reads WARM_START and leaves DT, the
Saggar, the pair, the epoch, the event mask and the MSI-X table as they were and the ledger balanced if it was; so does its end, which
with DORMANT_REQ low, not armed, or the unit joined, is RUNNING with nothing left to return; that entry to RUNNING changes only STATE,
the instant of RUNNING and the marks of a wake, an entry or an image wait. (01_architecture.md: Conservation; 19_start_reset_power.md:
Warm start; 11_host_interface.md: Restarts and Dormant) -/
def Obligations.WarmStartsReturnWhatIsHeld : Prop :=
  (∀ (order : Option Nat) (s : State), let v := cutHeld order s
    (∀ h ∈ v.host.held, h ∈ s.host.held ∧ h.deferred = true) ∧ v.mp.received = []
      ∧ v.host.returning.length = (openHeld s).length + s.mp.received.length
      ∧ ∀ h ∈ openHeld s, ∃ r ∈ v.host.returning, r.id = h.id ∧ r.src = h.src ∧ r.tag = h.tag ∧ r.ok = (order == some h.id))
  ∧ (∀ s : State, (returnHeld s).host.returning = [] ∧ ∀ c : Fin 4, (returnHeld s).host.rings[c].buffers = [])
  ∧ (∀ (r : Returning) (t : DT), (r.entry t).tag = r.tag ∧ (r.entry t).result = zeros 16
      ∧ (r.entry t).status = statusCode (if r.ok then .ok else .returnedRestart))
  ∧ (∀ (temp : Int) (order : Option Held) (s : State), let w := warmStart temp false order s
      w.power.st = .warmStart ∧ w.time.dt = s.time.dt ∧ w.sg = s.sg ∧ w.pair = s.pair
      ∧ w.host.epoch = s.host.epoch ∧ w.host.evMask = s.host.evMask ∧ w.host.msix = s.host.msix ∧ (Balanced s.host → Balanced w.host))
  ∧ (∀ s : State, (s.power.st ≠ .warmStart ∨ s.power.waking = true → endWarm s = s)
      ∧ (s.power.st = .warmStart → s.power.waking = false → s.power.dormantReq = false ∨ s.power.dormantArmed = false ∨ joined s = true →
          let w := endWarm s
          w.power.st = .running ∧ w.host.returning = [] ∧ w.time = s.time ∧ w.sg = s.sg ∧ w.pair = s.pair ∧ w.host.epoch = s.host.epoch
            ∧ (Balanced s.host → Balanced w.host)))
  ∧ ∀ s : State, s.power.dormantReq = false ∨ s.power.dormantArmed = false ∨ joined s = true →
      reachRunning s = { s with power := { s.power with
        st := .running, runningSince := s.time.dt, waking := false, waitImage := false, entering := false, wakeAfter := false } }

/-- The MPORT answers its codes, delivers and redelivers results and events, and handles its bus. Where the MPORT does not answer nothing
happens; where it must refuse it NACKs. STATUS sends its bytes and clears what reading clears; CMD_SUBMIT keeps a whole good frame and
posts it, NACKs a wrong count, a byte too many, or a full store, takes no notice of a write that ends early, and counts a bad or missing
PEC; CMD_RESULT sends the oldest result with its area and keeps it for redelivery; EVENT_FETCH the same for events; TIMING reads 12
bytes, and a write waits for its STOP. In Dormant a match wakes the port, which is gated again 100 ms after the last STOP. A port without
its supplies or in reset does nothing. A stretch that timed out, a held line and its clearing set their bits and raise BUS_STUCK on the
MPORT only. A host notify is sent, retried twice, or waits. Completion of mportStatus, cmdSubmit, cmdResult, cmdResultRedeliver,
mportTimingRead, mportTimingWrite, mportTimingApply, eventFetch, eventFetchRedeliver, mportDormantMatch, mportRegateTimeout,
stretchTimeout, sclHeldTimeout, sdaSelfHeld, lineHeldByOther, busStuckClear and hostNotifySend. (13_two_wire_ports.md: MPORT commands;
13_two_wire_ports.md: Attention and host notify; 13_two_wire_ports.md: Clock stretching and Dormant; 13_two_wire_ports.md: MPORT timing
and status registers; 13_two_wire_ports.md: Stuck bus) -/
def Obligations.MportAnswersAndDelivers : Prop :=
  (∀ (t : DT) (s : State), Gives (.mportStatus t) s fun u =>
    let m := moment t s
    (mpAnswers s = false → u = m)
      ∧ (mpAnswers s = true → u.outbox = .twoWire .mport (readBytes (mpAddress s) 0x01 false (pecEn s) (mpStatus m)) :: m.outbox
          ∧ u.mp = { s.mp with evtOvf := false, hnPending := false, hnTries := 0,
                               awake := if s.power.st = .dormant then some (now m) else s.mp.awake }))
  ∧ (∀ (t : DT) (x : Xfer) (s : State), Gives (.cmdSubmit t x) s fun u =>
      let m := moment t s
      (mpAnswers s = false → u = m)
        ∧ (mpAnswers s = true → isRunning s = false ∨ 8 ≤ mpCount m → u = mpNack m)
        ∧ (mpAnswers s = true → isRunning s = true → mpCount m < 8 →
            (∀ l, frame (mpAddress s) 0x10 true 64 (pecEn s) x = .data l → u.mp = { s.mp with received := s.mp.received ++ [l] }
                ∧ u.host.ledger[0].posted = m.host.ledger[0].posted + 1)
              ∧ (frame (mpAddress s) 0x10 true 64 (pecEn s) x = .nothing → u = m)
              ∧ (frame (mpAddress s) 0x10 true 64 (pecEn s) x = .nacked → u = mpNack m)
              ∧ (frame (mpAddress s) 0x10 true 64 (pecEn s) x = .pecError → u = mpPecError (mpNack m))
              ∧ (frame (mpAddress s) 0x10 true 64 (pecEn s) x = .pecMissing → u = mpPecError m)))
  ∧ (∀ (t : DT) (whole : Bool) (s : State), Gives (.cmdResult t whole) s fun u =>
      let m := moment t s
      (mpAnswers s = false → u = m)
        ∧ (mpAnswers s = true → isRunning s = false → u = mpNack m)
        ∧ (mpAnswers s = true → isRunning s = true →
            (s.mp.results = [] → u.mp = { s.mp with lastResult := none }
                ∧ u.outbox = .twoWire .mport (readBytes (mpAddress s) 0x11 true (pecEn s) []) :: m.outbox)
              ∧ ∀ r rest, s.mp.results = r :: rest →
                (whole = true → u.mp = { s.mp with results := rest, lastResult := some r })
                  ∧ (whole = false → u.mp = { s.mp with lastResult := none })
                  ∧ ∃ phase head, u.outbox = .twoWire .mport (readBytes (mpAddress s) 0x11 true (pecEn s)
                      (cqeBytes phase (epoch4 s) 0xFF head r.entry ++ r.area)) :: m.outbox))
  ∧ (∀ (t : DT) (s : State), Gives (.cmdResultRedeliver t) s fun u =>
      let m := moment t s
      (mpAnswers s = false → u = m)
        ∧ (mpAnswers s = true → isRunning s = false → u = mpNack m)
        ∧ (mpAnswers s = true → isRunning s = true → s.mp.lastResult = none → u = m)
        ∧ (mpAnswers s = true → isRunning s = true → ∀ r, s.mp.lastResult = some r → ∃ v, u = notifyRise m v
            ∧ v.mp = { s.mp with results := r :: s.mp.results, lastResult := none }))
  ∧ (∀ (t : DT) (s : State), Gives (.mportTimingRead t) s fun u =>
      (mpAnswers s = false → u = moment t s)
        ∧ (mpAnswers s = true → u.outbox = .twoWire .mport (readBytes (mpAddress s) 0x30 false (pecEn s) (timingBytes s)) :: (moment t s).outbox
            ∧ (s.power.st ≠ .dormant → u.mp = s.mp) ∧ (timingBytes s).length = 12))
  ∧ (∀ (t : DT) (x : Xfer) (s : State), Gives (.mportTimingWrite t x) s fun u =>
      let m := moment t s
      (mpAnswers s = false → u = m)
        ∧ (mpAnswers s = true →
            (∀ l, frame (mpAddress s) 0x30 false 12 (pecEn s) x = .data l →
                u.mp = { s.mp with
                  timingNext := some ({ word0 := BitVec.ofNat 32 (le l 0 4), word1 := timingWord1 (BitVec.ofNat 32 (le l 4 4)) },
                    mpControl s.mp.control (BitVec.ofNat 32 (le l 8 4)) (mpAddress s)),
                  awake := if s.power.st = .dormant then some (now m) else s.mp.awake })
              ∧ (frame (mpAddress s) 0x30 false 12 (pecEn s) x = .nothing → s.power.st ≠ .dormant → u = m)
              ∧ (frame (mpAddress s) 0x30 false 12 (pecEn s) x = .nacked → u = mpNack m)
              ∧ (frame (mpAddress s) 0x30 false 12 (pecEn s) x = .pecError → u = mpPecError (mpNack m))
              ∧ (frame (mpAddress s) 0x30 false 12 (pecEn s) x = .pecMissing → u = mpPecError m)))
  ∧ (∀ (t : DT) (s : State), Gives (.mportTimingApply t) s fun u =>
      (s.mp.timingNext = none → u.mp = s.mp)
        ∧ ∀ w c, s.mp.timingNext = some (w, c) → u.mp = { s.mp with timing := w, control := c, timingNext := none })
  ∧ (∀ (t : DT) (whole : Bool) (s : State), Gives (.eventFetch t whole) s fun u =>
      let m := moment t s
      let l := eventBatch m
      (mpAnswers s = false → u = m)
        ∧ (mpAnswers s = true → s.power.st = .dormant → u = mpNack m)
        ∧ (mpAnswers s = true → s.power.st ≠ .dormant →
            (whole = false → u.mp = { s.mp with lastEvents := [] })
              ∧ (whole = true → queue0Enabled s = true → u.mp = { s.mp with mirror := s.mp.mirror.drop l.length, lastEvents := l, lastFromQueue := false })
              ∧ (whole = true → queue0Enabled s = false → ∃ v, u = refill v
                  ∧ v.mp = { s.mp with lastEvents := l, lastFromQueue := true } ∧ v.host.evtSeq = s.host.evtSeq + BitVec.ofNat 16 l.length
                  ∧ v.host.pairs[0].wait = takeEvents l.length s.host.pairs[0].wait)))
  ∧ (∀ (t : DT) (s : State), Gives (.eventFetchRedeliver t) s fun u =>
      let m := moment t s
      (mpAnswers s = false → u = m)
        ∧ (mpAnswers s = true → s.power.st = .dormant → u = mpNack m)
        ∧ (mpAnswers s = true → s.power.st ≠ .dormant →
            (s.mp.lastFromQueue = true → ∃ v, u = notifyRise m v ∧ v.host.pairs[0].wait = s.mp.lastEvents.map (·.entry) ++ s.host.pairs[0].wait)
              ∧ (s.mp.lastFromQueue = false → s.mp.lastEvents.length + s.mp.mirror.length ≤ 64 →
                  ∃ v, u = notifyRise m v ∧ v.mp = { s.mp with mirror := s.mp.lastEvents ++ s.mp.mirror, lastEvents := [] })))
  ∧ (∀ (t : DT) (s : State), Gives (.mportDormantMatch t) s fun u =>
      (s.power.st = .dormant → u.mp = { s.mp with awake := some (now (moment t s)) }) ∧ (s.power.st ≠ .dormant → u = moment t s))
  ∧ (∀ (t : DT) (s : State), Gives (.mportRegateTimeout t) s fun u =>
      let m := moment t s
      (∀ d, s.power.st = .dormant → s.mp.awake = some d → msDt 100 ≤ dtSince d (now m) → u.mp = { s.mp with awake := none })
        ∧ (s.power.st ≠ .dormant ∨ s.mp.awake = none → u = m) ∧ (∀ d, s.mp.awake = some d → dtSince d (now m) < msDt 100 → u = m))
  ∧ (∀ (t : DT) (p : Port2) (s : State), portUp p s = false →
      (Gives (.stretchTimeout t p) s fun u => u = moment t s) ∧ (Gives (.sclHeldTimeout t p) s fun u => u = moment t s)
        ∧ (Gives (.sdaSelfHeld t p) s fun u => u = moment t s) ∧ ∀ scl : Bool, Gives (.lineHeldByOther t p scl) s fun u => u = moment t s)
  ∧ (∀ (t : DT) (s : State), portUp .mport s = true → Gives (.stretchTimeout t .mport) s fun u => u.mp = { s.mp with stretchTo := true } ∧ u.sg = s.sg)
  ∧ (∀ (t : DT) (s : State), portUp .lport s = true → Gives (.stretchTimeout t .lport) s fun u => u.sg = { s.sg with stretchTo := true } ∧ u.mp = s.mp)
  ∧ (∀ (t : DT) (p : Port2) (s : State), portUp p s = true → Gives (.sclHeldTimeout t p) s fun u =>
      u.outbox = .pin (lineOf p false) true :: .pin (lineOf p true) true :: (moment t s).outbox ∧ u.mp = s.mp ∧ u.sg = s.sg)
  ∧ (∀ (t : DT) (s : State), portUp .mport s = true → Gives (.sdaSelfHeld t .mport) s fun u => ∃ v, u = busStuckEvent 1 0 v
      ∧ v.mp = { s.mp with sdaReleased := true } ∧ v.outbox = .pin 1 true :: (moment t s).outbox)
  ∧ (∀ (t : DT) (s : State), portUp .lport s = true → Gives (.sdaSelfHeld t .lport) s fun u => u = emit (.pin 3 true) (moment t s))
  ∧ (∀ (t : DT) (scl : Bool) (s : State), portUp .mport s = true → Gives (.lineHeldByOther t .mport scl) s fun u => ∃ v, u = busStuckEvent 0 (bit scl) v
      ∧ v.mp = { s.mp with busStuck := true, stuckLine := scl })
  ∧ (∀ (t : DT) (scl : Bool) (s : State), portUp .lport s = true → Gives (.lineHeldByOther t .lport scl) s fun u =>
      u.sg = { s.sg with busStuck := true } ∧ u.mp = s.mp)
  ∧ (∀ (t : DT) (s : State), Gives (.busStuckClear t .mport) s fun u =>
      (s.mp.busStuck = false → u = moment t s)
        ∧ (s.mp.busStuck = true → ∃ v, u = busStuckEvent 2 (bit s.mp.stuckLine) v
            ∧ v.mp = { s.mp with busStuck := false, hnPending := s.mp.hnPending || hnEn s, hnTries := 0 }))
  ∧ (∀ (t : DT) (s : State), Gives (.busStuckClear t .lport) s fun u => u.sg = { s.sg with busStuck := false } ∧ u.mp = s.mp)
  ∧ ∀ (t : DT) (o : NotifyOutcome) (s : State), Gives (.hostNotifySend t o) s fun u =>
      let may := s.mp.hnPending = true ∧ s.mp.busStuck = false ∧ hnEn s = true
      (¬ may → u = moment t s)
        ∧ (may → o = .sent → u.mp = { s.mp with hnPending := false, hnTries := 0 }
            ∧ u.outbox = .twoWire .mport (addrByte (s.mp.control.toNat / 256 % 128) false :: BitVec.ofNat 8 (2 * mpAddress s) ::
                (mpStatus (moment t s)).take 2) :: (moment t s).outbox)
        ∧ (may → o = .nacked → u.mp = if 2 ≤ s.mp.hnTries then { s.mp with hnPending := false, hnTries := 0, nackHn := true }
            else { s.mp with hnTries := s.mp.hnTries + 1 })
        ∧ (may → o = .arbLost → u.mp = { s.mp with arbLost := true, arbLosses := s.mp.arbLosses + 1 })

/-- The LPORT wakes, answers its reads, judges every write's frame, and responds to requests. Every write code: refused, or with a byte
count or a length that it does not have, it is NACKed; one that ends early has no effect; a bad or missing PEC is counted, and a whole
good one is carried out. Reads send their bytes: status, identification, port words, counters, the oldest response (kept for redelivery),
the next Sherd of the vault ring. SG_LOG_SEEK sets the position; SG_RESULT gives a stored result or ERR_STATE, ERR_PARAM; SG_MEASURE is
judged as a request and queued; SG_CANCEL cuts a job of the LPORT only. Completion of lportAddressWake, lportSgStatus, sgIdentify,
sgPortRead, sgCounters, sgResponse, sgResponseRedeliver, sgLogRead, sgLogSeek, sgResult, sgMeasure and sgCancel. (13_two_wire_ports.md:
LPORT; 14_saggar.md: LPORT commands; 14_saggar.md: Jobs) -/
def Obligations.LportReadsJudgesAndResponds : Prop :=
  (∀ (t : DT) (code : Nat) (counted : Bool) (ok : Nat → Bool) (x : Xfer) (body : List Byte → State → State) (s : State),
    let m := lpWake (moment t s)
    let n := if counted then (x.data.headD 0).toNat else x.data.length
    let u := lpWrite t code counted ok x body s
    let open_ := lpAnswers code m = true ∧ s.sg.responses.length < 8
    (¬ open_ → u = lpNack m)
      ∧ (open_ → ok n = false → (counted = true ∧ x.data ≠ []) ∨ (∃ k, k < n ∧ ok k = true) → u = lpNack m)
      ∧ (open_ → ok n = false → counted = false ∨ x.data = [] → (∀ k, k < n → ok k = false) → u = m)
      ∧ (open_ → ok n = true → frame lpAddress code counted n true x = .nothing → u = m)
      ∧ (open_ → ok n = true → frame lpAddress code counted n true x = .nacked → u = lpNack m)
      ∧ (open_ → ok n = true → frame lpAddress code counted n true x = .pecError → u = lpPecError (lpNack m))
      ∧ (open_ → ok n = true → frame lpAddress code counted n true x = .pecMissing →
          u = lpPecError m ∧ u.sg = { s.sg with halted := false, pecErr := true, pecErrors := s.sg.pecErrors + 1 })
      ∧ (∀ l, LpTakes code counted x t s l → ok l.length = true → u = body l m))
  ∧ (∀ (t : DT) (s : State), Gives (.lportAddressWake t) s fun u => u.sg = { s.sg with halted := false })
  ∧ (∀ (t : DT) (s : State), Gives (.lportSgStatus t) s fun u =>
      let m := lpWake (moment t s)
      (lpAnswers 0x01 m = true → u = lpSend 0x01 false (sgStatusBytes m) m) ∧ (lpAnswers 0x01 m = false → u = lpNack m))
  ∧ (∀ (t : DT) (s : State), Gives (.sgIdentify t) s fun u =>
      let m := lpWake (moment t s)
      (lpAnswers 0x02 m = true → u = lpSend 0x02 true (sgIdentifyBytes m) m) ∧ (lpAnswers 0x02 m = false → u = lpNack m))
  ∧ (∀ (t : DT) (s : State), Gives (.sgPortRead t) s fun u =>
      let m := lpWake (moment t s)
      (lpAnswers 0x03 m = true → u = lpSend 0x03 false (sgPortBytes m) m) ∧ (lpAnswers 0x03 m = false → u = lpNack m))
  ∧ (∀ (t : DT) (s : State), Gives (.sgCounters t) s fun u =>
      let m := lpWake (moment t s)
      (lpAnswers 0x04 m = true → u = lpSend 0x04 false (s.sg.counters.toList.flatMap fun c => leBytes 4 c.toNat) m)
        ∧ (lpAnswers 0x04 m = false → u = lpNack m))
  ∧ (∀ (t : DT) (whole : Bool) (s : State), Gives (.sgResponse t whole) s fun u =>
      let m := lpWake (moment t s)
      (lpAnswers 0x09 m = false → u = lpNack m)
        ∧ (lpAnswers 0x09 m = true → u.outbox = .twoWire .lport (readBytes lpAddress 0x09 true true (s.sg.responses.headD [])) :: m.outbox
            ∧ (∀ l, whole = true → s.sg.responses.head? = some l → s.sg.lateResponses = [] →
                u.sg = { s.sg with halted := false, responses := s.sg.responses.drop 1, lastResponse := some l })
            ∧ (whole = false ∨ s.sg.responses = [] → u.sg = { s.sg with halted := false, lastResponse := none })))
  ∧ (∀ (t : DT) (s : State), Gives (.sgResponseRedeliver t) s fun u =>
      let m := lpWake (moment t s)
      (lpAnswers 0x0A m = false → u = lpNack m)
        ∧ (lpAnswers 0x0A m = true → s.sg.lastResponse = none → u = m)
        ∧ (lpAnswers 0x0A m = true → ∀ l, s.sg.lastResponse = some l →
            u.sg = { s.sg with halted := false, responses := l :: s.sg.responses, lastResponse := none }))
  ∧ (∀ (t : DT) (whole : Bool) (s : State), Gives (.sgLogRead t whole) s fun u =>
      let m := lpWake (moment t s)
      (lpAnswers 0x11 m = false → u = lpNack m)
        ∧ (lpAnswers 0x11 m = true → (logNext s.sg = none →
              u.outbox = .twoWire .lport (readBytes lpAddress 0x11 true true []) :: m.outbox ∧ u.sg.seek = s.sg.seek)
            ∧ ∀ q d, logNext s.sg = some (q, d) → u.outbox = .twoWire .lport (readBytes lpAddress 0x11 true true d) :: m.outbox
              ∧ u.sg.seek = if whole then q + 1 else s.sg.seek))
  ∧ (∀ (t : DT) (x : Xfer) (s : State) (l : List Byte), LpTakes 0x10 false x t s l → l.length = 8 → Gives (.sgLogSeek t x) s fun u =>
      u.sg = { s.sg with halted := false, seek := BitVec.ofNat 64 (le l 0 8), responses := s.sg.responses ++ [responseOf .ok 0x10 []] })
  ∧ (∀ (t : DT) (x : Xfer) (s : State) (l : List Byte), LpTakes 0x0C true x t s l → l.length = 4 → Gives (.sgResult t x) s fun u =>
      let m := lpWake (moment t s)
      let open_ := s.sg.jobs.any fun j => j.id.toNat == le l 0 4
      let done := s.sg.results.find? fun r => r.job.toNat == le l 0 4
      (open_ = true → u = respond .errState 0x0C [] m)
        ∧ (open_ = false → done = none → u = respond .errParam 0x0C [] m)
        ∧ (open_ = false → ∀ r, done = some r → u = respond .ok 0x0C (resultArea r ++ resultTail r) m))
  ∧ (∀ (t : DT) (x : Xfer) (s : State) (l : List Byte) (c : Fin 64), LpTakes 0x08 true x t s l → l.length = 24 → le l 0 2 = c.val →
      Gives (.sgMeasure t x) s fun u =>
      let m := lpWake (moment t s)
      let r := requestOf l
      (4 < r.quantity ∨ 3 < r.sel → u = respond .errParam 0x08 [] m)
        ∧ (r.quantity ≤ 4 → r.sel ≤ 3 →
            (judge r c m = some .state → u = respond .errState 0x08 [] m)
              ∧ (judge r c m = some .resource → u = respond .noResource 0x08 [] m)
              ∧ (judge r c m = some .quantity ∨ judge r c m = some .duration ∨ judge r c m = some .bandwidth → u = respond .errParam 0x08 [] m)
              ∧ (judge r c m = none → ∃ j v, (j, v) = queueJob r c m ∧ u = respond .ok 0x08 (leBytes 4 j.id.toNat ++ leBytes 8 (dtInt j.planned)) v
                  ∧ v.sg.jobs = s.sg.jobs ++ [j] ∧ j.lport = true ∧ j.id = s.sg.nextJob)))
  ∧ ∀ (t : DT) (x : Xfer) (s : State) (l : List Byte), LpTakes 0x0B true x t s l → l.length = 4 → Gives (.sgCancel t x) s fun u =>
      let m := lpWake (moment t s)
      let mine := s.sg.jobs.find? fun j => j.id.toNat == le l 0 4 && j.lport && !j.fault
      (mine = none → u = respond .errParam 0x0B [] m) ∧ (∀ j, mine = some j → u = cutJob j 64 (respond .ok 0x0B [] m))

/-- Legally relevant LPORT changes are refused when sealed or the audit counter is saturated, and counted. A legal change answers SEALED
in SEALED and COUNTER_SATURATED with a frozen audit counter; an accepted one counts the audit counter by one, responds OK and keeps the
seal. SG_PORT, SG_AF_WRITE (64 entries per input), SG_CAL_WRITE (not during a level job; counter 3 too), SG_PARAM writes within 30 to
3650 days and 1 to 168 hours, SG_KEY_LOAD (AUTH_FAILED) and SG_IMAGE_COMMIT (AUTH_FAILED, no older version) follow it; SG_SEAL needs
UNSEALED, PROTECT, no tamper, no job and the right audit value; SG_IMAGE_BLOCK is refused only when sealed or out of range; SG_AF_READ,
SG_CAL_READ, SG_VERIFY and parameter reads answer in every state. Completion of sgPortWrite, sgSeal, sgAfWrite, sgAfRead, sgCalWrite,
sgCalRead, sgVerify, sgParam, sgKeyLoad, sgImageBlock and sgImageCommit. (14_saggar.md: LPORT commands; 14_saggar.md: Saggar and seal
states; 14_saggar.md: Software identification; 13_two_wire_ports.md: LPORT) -/
def Obligations.LportChangesAreSealedAndAudited : Prop :=
  (∀ (code : Nat) (change : State → State) (s : State),
    (s.sg.sealSt = .sealed_ → legalChange code change s = respond .sealed_ code [] s)
      ∧ (s.sg.sealSt ≠ .sealed_ → s.sg.counters[0] = 0xFFFFFFFF → legalChange code change s = respond .counterSaturated code [] s)
      ∧ (s.sg.sealSt ≠ .sealed_ → s.sg.counters[0] ≠ 0xFFFFFFFF → legalChange code change s = change s))
  ∧ (∀ (code param input : Nat) (value : List Byte) (s : State), s.sg.counters[0] ≠ 0xFFFFFFFF →
      (acceptChange code param input value s).sg.counters[0] = s.sg.counters[0] + 1
        ∧ (acceptChange code param input value s).sg.responses = s.sg.responses ++ [responseOf .ok code []]
        ∧ (acceptChange code param input value s).sg.sealSt = s.sg.sealSt)
  ∧ (∀ (t : DT) (x : Xfer) (s : State) (l : List Byte), LpTakes 0x03 false x t s l → l.length = 12 → s.sg.sealSt ≠ .sealed_ →
      s.sg.counters[0] ≠ 0xFFFFFFFF → Gives (.sgPortWrite t x) s fun u => ∃ v, u = acceptChange 0x03 5 0 (l.take 8) v
        ∧ v.sg = { s.sg with
            halted := false, pecErr := s.sg.pecErr && !testBit (le l 8 4) 8, stretchTo := s.sg.stretchTo && !testBit (le l 8 4) 9,
            timing := { word0 := BitVec.ofNat 32 (le l 0 4), word1 := timingWord1 (BitVec.ofNat 32 (le l 4 4)) } })
  ∧ (∀ (t : DT) (x : Xfer) (s : State) (l : List Byte), LpTakes 0x14 true x t s l → l.length = 4 → Gives (.sgSeal t x) s fun u =>
      let m := lpWake (moment t s)
      let ready := s.sg.sealSt = .unsealed ∧ s.power.sealSw = true ∧ s.sg.tamper = false ∧ runningJobs s = []
      (¬ ready → u = respond .errState 0x14 [] m)
        ∧ (ready → le l 0 4 ≠ auditOf s → u = respond .errParam 0x14 [] m)
        ∧ (ready → le l 0 4 = auditOf s → s.sg.counters[0] = 0xFFFFFFFF → u = respond .counterSaturated 0x14 [] m)
        ∧ (ready → le l 0 4 = auditOf s → s.sg.counters[0] ≠ 0xFFFFFFFF → u.sg.sealSt = .sealed_
            ∧ u.sg.counters[0] = s.sg.counters[0] + 1 ∧ u.sg.responses = s.sg.responses ++ [responseOf .ok 0x14 []]))
  ∧ (∀ (t : DT) (x : Xfer) (s : State) (l : List Byte) (i : Fin 6), LpTakes 0x15 true x t s l → 2 ≤ l.length → l.length ≤ 210 →
      s.sg.sealSt ≠ .sealed_ → s.sg.counters[0] ≠ 0xFFFFFFFF → le l 0 1 = i.val → le l 1 1 ≤ 1 → l.length % 8 = 2 →
      Gives (.sgAfWrite t x) s fun u =>
      let old := if testBit (le l 1 1) 0 then [] else s.sg.afTables[i]
      let new := (entriesAt l 2).foldl (fun acc e => putEntry e acc) old
      (64 < new.length → u = respond .noResource 0x15 [] (lpWake (moment t s)))
        ∧ (new.length ≤ 64 → u.sg.afTables[i] = new ∧ u.sg.counters[0] = s.sg.counters[0] + 1))
  ∧ (∀ (t : DT) (x : Xfer) (s : State) (l : List Byte) (i : Fin 6), LpTakes 0x16 true x t s l → l.length = 2 → le l 0 1 = i.val →
      Gives (.sgAfRead t x) s fun u => u = respond .ok 0x16 (sevenEntries s.sg.afTables[i] (le l 1 1)) (lpWake (moment t s)))
  ∧ (∀ (t : DT) (x : Xfer) (s : State) (l : List Byte), LpTakes 0x18 true x t s l → 8 ≤ l.length → l.length ≤ 200 →
      s.sg.sealSt ≠ .sealed_ → s.sg.counters[0] ≠ 0xFFFFFFFF → l.length % 8 = 0 → Gives (.sgCalWrite t x) s fun u =>
      ((runningJobs s).any levelJob = true → u = respond .errState 0x18 [] (lpWake (moment t s)))
        ∧ ((runningJobs s).any levelJob = false → u.sg.slipTable = (entriesAt l 8).foldl (fun acc e => putEntry e acc) s.sg.slipTable
            ∧ u.sg.calDate = BitVec.ofNat 64 (le l 0 8) ∧ u.sg.verifyBad = false ∧ u.sg.counters[0] = s.sg.counters[0] + 1
            ∧ u.sg.counters[3] = if s.sg.counters[3] = 0xFFFFFFFF then s.sg.counters[3] else s.sg.counters[3] + 1))
  ∧ (∀ (t : DT) (x : Xfer) (s : State) (l : List Byte), LpTakes 0x19 true x t s l → l.length = 1 → Gives (.sgCalRead t x) s fun u =>
      u = respond .ok 0x19 (sevenEntries s.sg.slipTable (le l 0 1)) (lpWake (moment t s)))
  ∧ (∀ (t : DT) (x : Xfer) (s : State) (l : List Byte), LpTakes 0x1A false x t s l → l.length = 0 → Gives (.sgVerify t x) s fun u =>
      u = respond .ok 0x1A [] (verifyNow (lpWake (moment t s))))
  ∧ (∀ (t : DT) (x : Xfer) (s : State) (l : List Byte), LpTakes 0x1B true x t s l → l.length = 5 → le l 0 1 < 128 →
      Gives (.sgParam t x) s fun u =>
      let m := lpWake (moment t s)
      (le l 0 1 = 0 → u = respond .ok 0x1B (leBytes 4 s.sg.legalInterval) m)
        ∧ (le l 0 1 = 1 → u = respond .ok 0x1B (leBytes 4 s.sg.verifyMax) m)
        ∧ (1 < le l 0 1 → u = respond .errParam 0x1B [] m))
  ∧ (∀ (t : DT) (x : Xfer) (s : State) (l : List Byte), LpTakes 0x1B true x t s l → l.length = 5 → 128 ≤ le l 0 1 →
      s.sg.sealSt ≠ .sealed_ → s.sg.counters[0] ≠ 0xFFFFFFFF → Gives (.sgParam t x) s fun u =>
      let m := lpWake (moment t s)
      let k := le l 0 1 % 128
      let v := le l 1 4
      (k = 0 → 30 ≤ v → v ≤ 3650 → u.sg.legalInterval = v ∧ u.sg.counters[0] = s.sg.counters[0] + 1)
        ∧ (k = 1 → 1 ≤ v → v ≤ 168 → u.sg.verifyMax = v ∧ u.sg.counters[0] = s.sg.counters[0] + 1
            ∧ u.mnt.acts[6].period = min 86400 (v * 3600))
        ∧ ((k = 0 ∧ (v < 30 ∨ 3650 < v)) ∨ (k = 1 ∧ (v < 1 ∨ 168 < v)) ∨ 1 < k → u = respond .errParam 0x1B [] m))
  ∧ (∀ (t : DT) (x : Xfer) (s : State) (l : List Byte), LpTakes 0x1C true x t s l → l.length = 40 → s.sg.sealSt ≠ .sealed_ →
      s.sg.counters[0] ≠ 0xFFFFFFFF → Gives (.sgKeyLoad t x) s fun u =>
      (keyUnwrap Config.sgTransportKey l = none → u = respond .authFailed 0x1C [] (lpWake (moment t s)))
        ∧ ∀ k, keyUnwrap Config.sgTransportKey l = some k → u.sg.legalKey = k ∧ u.sg.keyIdent = s.sg.keyIdent + 1
          ∧ u.sg.counters[0] = s.sg.counters[0] + 1)
  ∧ (∀ (t : DT) (x : Xfer) (s : State) (l : List Byte), LpTakes 0x1D true x t s l → 8 ≤ l.length → l.length ≤ 232 →
      Gives (.sgImageBlock t x) s fun u =>
      let m := lpWake (moment t s)
      (s.sg.sealSt = .sealed_ → u = respond .sealed_ 0x1D [] m)
        ∧ (s.sg.sealSt ≠ .sealed_ → le l 4 4 ≠ 0 ∨ 524288 < le l 0 4 + (l.length - 8) → u = respond .errParam 0x1D [] m)
        ∧ (s.sg.sealSt ≠ .sealed_ → le l 4 4 = 0 → le l 0 4 + (l.length - 8) ≤ 524288 →
            u.sg = { s.sg with halted := false, imageNext := s.sg.imageNext ++ [(le l 0 4, l.drop 8)],
                               responses := s.sg.responses ++ [responseOf .ok 0x1D []] }))
  ∧ ∀ (t : DT) (x : Xfer) (s : State) (l : List Byte), LpTakes 0x1E true x t s l → l.length = 64 → s.sg.sealSt ≠ .sealed_ →
      s.sg.counters[0] ≠ 0xFFFFFFFF → Gives (.sgImageCommit t x) s fun u =>
      let m := lpWake (moment t s)
      let img := imageBytes s.sg.imageNext
      (Config.ecdsaOk img l = false → u = respond .authFailed 0x1E [] m)
        ∧ (Config.ecdsaOk img l = true → Config.imageVersion img < s.sg.version → u = respond .errParam 0x1E [] m)
        ∧ (Config.ecdsaOk img l = true → s.sg.version ≤ Config.imageVersion img →
            u = installImage img m ∧ u.sg.imageNext = [])

/-- No command of the table ends in a fault or a refusal. For every command i and every state s, exec of i at s is next t for some t: a
command that finds nothing to act on, or is turned away by a check of R306, still answers a next state. What each command's own effect
leaves in t is said by the statements that name its completion. (11_host_interface.md: Submission entries; 11_host_interface.md:
Completions; 12_command_catalogue.md: Device to Events) -/
def Obligations.NoCommandStopsTheBlock : Prop :=
  ∀ (i : Instr) (s : State), ∃ t, exec i s = .next t

/-- Resampler increments and audio dividers carry their ratios without arithmetic error, and take RATE_ADJ together. With RATE_ADJ 0 a
ratio n/d is held as a word in units of 2^-48 and a residue p/q with p below q that together equal n/d exactly (R140, R267); for the four
output rates q is at most 255. With RATE_ADJ not 0 there is no residue and the word is n/d · N₀/(N₀ + RATE_ADJ) rounded down to 48
fraction bits (R141, R268). Counted in units of 1/q of 2^-48, an accumulator with its residue rises by exactly k times the ratio in k
additions, and j additions and then k more are j + k additions. A change of RATE_ADJ reaches DT, every path's increment and every divider
at the same instant: the accumulators stand where the old ratio left them, and the residue counters start at 0 (the model's choice, log
entry 73). (05_channel_mill.md: Fractional resampler; 10_audio_ports.md: Sample clocks; 02_time_reference_clocks.md: Device time) -/
def Obligations.RatiosAreCarriedExactly : Prop :=
  (∀ n d : Nat, 0 < n → 0 < d → let w := rateWord n d 0
    w.p < w.q ∧ (w.word * w.q + w.p) * d = n * 2 ^ 48 * w.q)
  ∧ (∀ k : Fin 4, (dividerRatio k.val 0).q ≤ 255)
  ∧ (∀ (n d : Nat) (adj : Int), adj ≠ 0 → 0 < d → 0 < (2 : Int) ^ 48 + adj * 153600000 →
    let w := rateWord n d adj
    let slow := d * ((2 : Int) ^ 48 + adj * 153600000).toNat
    w.p = 0 ∧ w.q = 1 ∧ w.word * slow ≤ n * 2 ^ 96 ∧ n * 2 ^ 96 < (w.word + 1) * slow)
  ∧ (∀ (w : RateWord) (acc residue k : Nat), residue < w.q →
    let a := w.after acc residue k
    a.2 < w.q ∧ a.1 * w.q + a.2 = acc * w.q + residue + k * (w.word * w.q + w.p)
      ∧ ∀ j : Nat, w.after acc residue (k + j) = w.after a.1 a.2 j)
  ∧ ∀ (r : Int) (s : State), let u := setRate r s
    u.time = { s.time with rateAdj := r }
      ∧ (∀ p : Fin 64, ∃ v, v = s.cx.paths[p].catchUp (now s) ∧ u.cx.paths[p] = { v with inc := v.incAt r, residue := 0 })
      ∧ ∀ k : Fin 4, ∃ v, v = s.port.dividers[k].catchUp k.val (now s) ∧ u.port.dividers[k] = { v with ratio := dividerRatio k.val r, residue := 0 }
end

