-- ==== Sys2Proof/Laws/Within.lean ====
section
/-!
SUPPORT. Laws/Within.lean: `Within` composes, and what each primitive change keeps.
-/
namespace Sys2Proof.Machine

theorem Within.rfl {m : Parts} {s : State} : Within m s s := by
  constructor <;> first | exact List.suffix_refl _ | exact Nat.le_refl _ | exact id | exact fun _ => Eq.refl _ | exact Eq.refl _

theorem Within.trans {m : Parts} {s t u : State} (h : Within m s t) (k : Within m t u) : Within m s u := by
  constructor
  · exact k.pending.trans h.pending
  · exact h.outbox.trans k.outbox
  · exact Nat.le_trans h.fresh k.fresh
  · exact k.fuses.trans h.fuses
  · exact k.ledger ∘ h.ledger
  · exact fun e => (k.ident e).trans (h.ident e)
  · exact fun e => (k.power e).trans (h.power e)
  · exact fun e => (k.hostq e).trans (h.hostq e)
  · exact fun e => (k.hostr e).trans (h.hostr e)
  · exact fun e => (k.dt e).trans (h.dt e)
  · exact fun e => (k.clock e).trans (h.clock e)
  · exact fun e => (k.wb e).trans (h.wb e)
  · exact fun e => (k.carvers e).trans (h.carvers e)
  · exact fun e => (k.tuners e).trans (h.tuners e)
  · exact fun e => (k.slip e).trans (h.slip e)
  · exact fun e => (k.due e).trans (h.due e)
  · exact fun e => (k.paths e).trans (h.paths e)
  · exact fun e => (k.ctxs e).trans (h.ctxs e)
  · exact fun e => (k.cx e).trans (h.cx e)
  · exact fun e => (k.audio e).trans (h.audio e)
  · exact fun e => (k.port e).trans (h.port e)
  · exact fun e => (k.mp e).trans (h.mp e)
  · exact fun e => (k.sg e).trans (h.sg e)
  · exact fun e => (k.cry e).trans (h.cry e)
  · exact fun e => (k.slots e).trans (h.slots e)
  · exact fun e => (k.mem e).trans (h.mem e)
  · exact fun e => (k.mnt e).trans (h.mnt e)
  · exact fun e => (k.pair e).trans (h.pair e)
  · exact fun e => (k.vault e).trans (h.vault e)

theorem Within.widen {p m : Parts} {s t : State} (h : Within p s t) (hs : p.sub m = true) : Within m s t := by
  simp only [Parts.sub, Bool.and_eq_true, Bool.or_eq_true, Bool.not_eq_true'] at hs
  constructor
  · exact h.pending
  · exact h.outbox
  · exact h.fresh
  · exact h.fuses
  · exact h.ledger
  · exact fun e => h.ident (by simp_all)
  · exact fun e => h.power (by simp_all)
  · exact fun e => h.hostq (by simp_all)
  · exact fun e => h.hostr (by simp_all)
  · exact fun e => h.dt (by simp_all)
  · exact fun e => h.clock (by simp_all)
  · exact fun e => h.wb (by simp_all)
  · exact fun e => h.carvers (by simp_all)
  · exact fun e => h.tuners (by simp_all)
  · exact fun e => h.slip (by simp_all)
  · exact fun e => h.due (by simp_all)
  · exact fun e => h.paths (by simp_all)
  · exact fun e => h.ctxs (by simp_all)
  · exact fun e => h.cx (by simp_all)
  · exact fun e => h.audio (by simp_all)
  · exact fun e => h.port (by simp_all)
  · exact fun e => h.mp (by simp_all)
  · exact fun e => h.sg (by simp_all)
  · exact fun e => h.cry (by simp_all)
  · exact fun e => h.slots (by simp_all)
  · exact fun e => h.mem (by simp_all)
  · exact fun e => h.mnt (by simp_all)
  · exact fun e => h.pair (by simp_all)
  · exact fun e => h.vault (by simp_all)

/-- One more change, within parts of `m`. -/
theorem Within.after {p m : Parts} {s t u : State} (k : Within p t u) (hs : p.sub m = true) (h : Within m s t) : Within m s u :=
  h.trans (k.widen hs)

/-- An intermediate state. -/
theorem Within.cut {m : Parts} {s t : State} (x : State) (k : Within m s x → Within m s t) (h : Within m s x) : Within m s t := k h

/-- A fold of changes. -/
theorem Within.foldl {m : Parts} {s t : State} {α : Type} {l : List α} {f : State → α → State}
    (hf : ∀ u x, Within m u (f u x)) (h : Within m s t) : Within m s (l.foldl f t) := by
  induction l generalizing t with
  | nil => exact h
  | cons x l ih => exact ih (h.trans (hf t x))

/-- What a meaning answers, where it answers a next state, comes from `s` by a change within `m`. -/
def Stays (m : Parts) (s : State) (o : Host.Outcome State Fault Refusal) : Prop := ∀ t, o = .next t → Within m s t

theorem stays_next {m : Parts} {s t : State} (h : Within m s t) : Stays m s (.next t) := by
  intro u e
  cases e
  exact h

theorem Stays.cut {m : Parts} {s : State} {o : Host.Outcome State Fault Refusal} (x : State) (k : Within m s x → Stays m s o)
    (h : Within m s x) : Stays m s o := k h

/-- The state that an operation answers, where it answers one, comes from `s` by a change within `m`. -/
def OptW (m : Parts) (s : State) (o : Option State) : Prop := ∀ t, o = some t → Within m s t

theorem OptW.of {m : Parts} {s t : State} {o : Option State} (h : OptW m s o) (e : o = some t) : Within m s t := h t e

theorem optW_some {m : Parts} {s t : State} (h : Within m s t) : OptW m s (some t) := by
  intro u e
  cases e
  exact h

theorem optW_none {m : Parts} {s : State} : OptW m s none := fun _ e => nomatch e

theorem OptW.cut {m : Parts} {s : State} {o : Option State} (x : State) (k : Within m s x → OptW m s o)
    (h : Within m s x) : OptW m s o := k h

/-- The state that an operation answers beside a value comes from `s` by a change within `m`. -/
def PairW {α : Type} (m : Parts) (s : State) (p : α × State) : Prop := Within m s p.2

theorem PairW.of {α : Type} {m : Parts} {s t : State} {p : α × State} {a : α} (h : PairW m s p) (e : p = (a, t)) : Within m s t := by
  subst e
  exact h

theorem PairW.snd {α : Type} {m : Parts} {s : State} {p : α × State} (h : PairW m s p) : Within m s p.2 := h

theorem pairW_mk {α : Type} {m : Parts} {s t : State} {a : α} (h : Within m s t) : PairW m s (a, t) := h

theorem PairW.cut {α : Type} {m : Parts} {s : State} {p : α × State} (x : State) (k : Within m s x → PairW m s p)
    (h : Within m s x) : PairW m s p := k h

/-- The state that an operation answers before a value comes from `s` by a change within `m`. -/
def FstW {α : Type} (m : Parts) (s : State) (p : State × α) : Prop := Within m s p.1

theorem FstW.of {α : Type} {m : Parts} {s t : State} {p : State × α} {a : α} (h : FstW m s p) (e : p = (t, a)) : Within m s t := by
  subst e
  exact h

theorem fstW_mk {α : Type} {m : Parts} {s t : State} {a : α} (h : Within m s t) : FstW m s (t, a) := h

theorem FstW.cut {α : Type} {m : Parts} {s : State} {p : State × α} (x : State) (k : Within m s x → FstW m s p)
    (h : Within m s x) : FstW m s p := k h

theorem FstW.after {α : Type} {p m : Parts} {s t : State} {q : State × α} (k : FstW p t q) (hs : p.sub m = true) (h : Within m s t) :
    FstW m s q := Within.after (t := t) k hs h

theorem FstW.foldl {α β : Type} {m : Parts} {l : List α} {f : State × β → α → State × β} (hf : ∀ r a, FstW m r.1 (f r a)) (r : State × β) :
    FstW m r.1 (l.foldl f r) := by
  induction l generalizing r with
  | nil => exact Within.rfl
  | cons a l ih => exact Within.trans (hf r a) (ih (f r a))

theorem Within.ite {m : Parts} {s : State} {t u : State} {c : Prop} [Decidable c] (h : Within m s t) (k : Within m s u) :
    Within m s (if c then t else u) := by
  split
  · exact h
  · exact k

theorem Stays.ite {m : Parts} {s : State} {t u : Host.Outcome State Fault Refusal} {c : Prop} [Decidable c] (h : Stays m s t) (k : Stays m s u) :
    Stays m s (if c then t else u) := by
  split
  · exact h
  · exact k

theorem OptW.ite {m : Parts} {s : State} {t u : Option State} {c : Prop} [Decidable c] (h : OptW m s t) (k : OptW m s u) :
    OptW m s (if c then t else u) := by
  split
  · exact h
  · exact k

theorem PairW.ite {α : Type} {m : Parts} {s : State} {t u : α × State} {c : Prop} [Decidable c] (h : PairW m s t) (k : PairW m s u) :
    PairW m s (if c then t else u) := by
  split
  · exact h
  · exact k

theorem FstW.ite {α : Type} {m : Parts} {s : State} {t u : State × α} {c : Prop} [Decidable c] (h : FstW m s t) (k : FstW m s u) :
    FstW m s (if c then t else u) := by
  split
  · exact h
  · exact k

theorem Within.getD {m : Parts} {s t : State} {o : Option State} (h : OptW m s o) (k : Within m s t) : Within m s (o.getD t) := by
  cases o with
  | none => exact k
  | some x => exact h x (Eq.refl _)

theorem optW_map {m : Parts} {s : State} {α : Type} {o : Option α} {f : α → State} (h : ∀ a, Within m s (f a)) :
    OptW m s (o.map f) := by
  cases o with
  | none => exact optW_none
  | some x => exact optW_some (h x)

theorem OptW.widen {p m : Parts} {s : State} {o : Option State} (h : OptW p s o) (hs : p.sub m = true) : OptW m s o :=
  fun t e => (h t e).widen hs

theorem OptW.after {p m : Parts} {s t : State} {o : Option State} (k : OptW p t o) (hs : p.sub m = true) (h : Within m s t) :
    OptW m s o := fun u e => h.trans ((k u e).widen hs)

theorem OptW.map {m : Parts} {s : State} {o : Option State} {f : State → State} (hf : ∀ u, Within m u (f u)) (h : OptW m s o) :
    OptW m s (o.map f) := by
  cases o with
  | none => exact optW_none
  | some x => exact optW_some ((h x (Eq.refl _)).trans (hf x))

/-- Reading an updated family. -/
theorem upd_get {α : Type} {n : Nat} (v : Vector α n) (i j : Fin n) (f : α → α) :
    (upd v i f)[j] = if i = j then f v[j] else v[j] := by
  simp only [upd, Fin.getElem_fin, Vector.getElem_set]
  simp only [Fin.ext_iff]
  split
  · simp_all
  · rfl

/-! ### The primitive changes -/

theorem modPower_within {m : Parts} {s t : State} (f : PowerSt → PowerSt) (hm : m.power = true) (h : Within m s t) : Within m s (modPower f t) where
  pending := h.pending
  outbox := h.outbox
  fresh := h.fresh
  fuses := h.fuses
  ledger := h.ledger
  ident := h.ident
  power := fun e => absurd (hm.symm.trans e) (by decide)
  hostq := h.hostq
  hostr := h.hostr
  dt := h.dt
  clock := h.clock
  wb := h.wb
  carvers := h.carvers
  tuners := h.tuners
  slip := h.slip
  due := h.due
  paths := h.paths
  ctxs := h.ctxs
  cx := h.cx
  audio := h.audio
  port := h.port
  mp := h.mp
  sg := h.sg
  cry := h.cry
  slots := h.slots
  mem := h.mem
  mnt := h.mnt
  pair := h.pair
  vault := h.vault

theorem modAudio_within {m : Parts} {s t : State} (f : AudioSt → AudioSt) (hm : m.audio = true) (h : Within m s t) : Within m s (modAudio f t) where
  pending := h.pending
  outbox := h.outbox
  fresh := h.fresh
  fuses := h.fuses
  ledger := h.ledger
  ident := h.ident
  power := h.power
  hostq := h.hostq
  hostr := h.hostr
  dt := h.dt
  clock := h.clock
  wb := h.wb
  carvers := h.carvers
  tuners := h.tuners
  slip := h.slip
  due := h.due
  paths := h.paths
  ctxs := h.ctxs
  cx := h.cx
  audio := fun e => absurd (hm.symm.trans e) (by decide)
  port := h.port
  mp := h.mp
  sg := h.sg
  cry := h.cry
  slots := h.slots
  mem := h.mem
  mnt := h.mnt
  pair := h.pair
  vault := h.vault

theorem modPortSt_within {m : Parts} {s t : State} (f : PortSt → PortSt) (hm : m.port = true) (h : Within m s t) : Within m s (modPortSt f t) where
  pending := h.pending
  outbox := h.outbox
  fresh := h.fresh
  fuses := h.fuses
  ledger := h.ledger
  ident := h.ident
  power := h.power
  hostq := h.hostq
  hostr := h.hostr
  dt := h.dt
  clock := h.clock
  wb := h.wb
  carvers := h.carvers
  tuners := h.tuners
  slip := h.slip
  due := h.due
  paths := h.paths
  ctxs := h.ctxs
  cx := h.cx
  audio := h.audio
  port := fun e => absurd (hm.symm.trans e) (by decide)
  mp := h.mp
  sg := h.sg
  cry := h.cry
  slots := h.slots
  mem := h.mem
  mnt := h.mnt
  pair := h.pair
  vault := h.vault

theorem modMp_within {m : Parts} {s t : State} (f : Mport → Mport) (hm : m.mp = true) (h : Within m s t) : Within m s (modMp f t) where
  pending := h.pending
  outbox := h.outbox
  fresh := h.fresh
  fuses := h.fuses
  ledger := h.ledger
  ident := h.ident
  power := h.power
  hostq := h.hostq
  hostr := h.hostr
  dt := h.dt
  clock := h.clock
  wb := h.wb
  carvers := h.carvers
  tuners := h.tuners
  slip := h.slip
  due := h.due
  paths := h.paths
  ctxs := h.ctxs
  cx := h.cx
  audio := h.audio
  port := h.port
  mp := fun e => absurd (hm.symm.trans e) (by decide)
  sg := h.sg
  cry := h.cry
  slots := h.slots
  mem := h.mem
  mnt := h.mnt
  pair := h.pair
  vault := h.vault

theorem modSg_within {m : Parts} {s t : State} (f : SaggarSt → SaggarSt) (hm : m.sg = true) (h : Within m s t) : Within m s (modSg f t) where
  pending := h.pending
  outbox := h.outbox
  fresh := h.fresh
  fuses := h.fuses
  ledger := h.ledger
  ident := h.ident
  power := h.power
  hostq := h.hostq
  hostr := h.hostr
  dt := h.dt
  clock := h.clock
  wb := h.wb
  carvers := h.carvers
  tuners := h.tuners
  slip := h.slip
  due := h.due
  paths := h.paths
  ctxs := h.ctxs
  cx := h.cx
  audio := h.audio
  port := h.port
  mp := h.mp
  sg := fun e => absurd (hm.symm.trans e) (by decide)
  cry := h.cry
  slots := h.slots
  mem := h.mem
  mnt := h.mnt
  pair := h.pair
  vault := h.vault

theorem modCry_within {m : Parts} {s t : State} (f : CrySt → CrySt) (hm : m.cry = true) (h : Within m s t) : Within m s (modCry f t) where
  pending := h.pending
  outbox := h.outbox
  fresh := h.fresh
  fuses := h.fuses
  ledger := h.ledger
  ident := h.ident
  power := h.power
  hostq := h.hostq
  hostr := h.hostr
  dt := h.dt
  clock := h.clock
  wb := h.wb
  carvers := h.carvers
  tuners := h.tuners
  slip := h.slip
  due := h.due
  paths := h.paths
  ctxs := h.ctxs
  cx := h.cx
  audio := h.audio
  port := h.port
  mp := h.mp
  sg := h.sg
  cry := fun e => absurd (hm.symm.trans e) (by decide)
  slots := h.slots
  mem := h.mem
  mnt := h.mnt
  pair := h.pair
  vault := h.vault

theorem modMnt_within {m : Parts} {s t : State} (f : MaintSt → MaintSt) (hm : m.mnt = true) (h : Within m s t) : Within m s (modMnt f t) where
  pending := h.pending
  outbox := h.outbox
  fresh := h.fresh
  fuses := h.fuses
  ledger := h.ledger
  ident := h.ident
  power := h.power
  hostq := h.hostq
  hostr := h.hostr
  dt := h.dt
  clock := h.clock
  wb := h.wb
  carvers := h.carvers
  tuners := h.tuners
  slip := h.slip
  due := h.due
  paths := h.paths
  ctxs := h.ctxs
  cx := h.cx
  audio := h.audio
  port := h.port
  mp := h.mp
  sg := h.sg
  cry := h.cry
  slots := h.slots
  mem := h.mem
  mnt := fun e => absurd (hm.symm.trans e) (by decide)
  pair := h.pair
  vault := h.vault

theorem modPair_within {m : Parts} {s t : State} (f : PairSt → PairSt) (hm : m.pair = true) (h : Within m s t) : Within m s (modPair f t) where
  pending := h.pending
  outbox := h.outbox
  fresh := h.fresh
  fuses := h.fuses
  ledger := h.ledger
  ident := h.ident
  power := h.power
  hostq := h.hostq
  hostr := h.hostr
  dt := h.dt
  clock := h.clock
  wb := h.wb
  carvers := h.carvers
  tuners := h.tuners
  slip := h.slip
  due := h.due
  paths := h.paths
  ctxs := h.ctxs
  cx := h.cx
  audio := h.audio
  port := h.port
  mp := h.mp
  sg := h.sg
  cry := h.cry
  slots := h.slots
  mem := h.mem
  mnt := h.mnt
  pair := fun e => absurd (hm.symm.trans e) (by decide)
  vault := h.vault

theorem modVault_within {m : Parts} {s t : State} (f : Vault → Vault) (hm : m.vault = true) (h : Within m s t) : Within m s (modVault f t) where
  pending := h.pending
  outbox := h.outbox
  fresh := h.fresh
  fuses := h.fuses
  ledger := h.ledger
  ident := h.ident
  power := h.power
  hostq := h.hostq
  hostr := h.hostr
  dt := h.dt
  clock := h.clock
  wb := h.wb
  carvers := h.carvers
  tuners := h.tuners
  slip := h.slip
  due := h.due
  paths := h.paths
  ctxs := h.ctxs
  cx := h.cx
  audio := h.audio
  port := h.port
  mp := h.mp
  sg := h.sg
  cry := h.cry
  slots := h.slots
  mem := h.mem
  mnt := h.mnt
  pair := h.pair
  vault := fun e => absurd (hm.symm.trans e) (by decide)

theorem modHost_within {m : Parts} {s t : State} (f : HostIf → HostIf) (hhostq : m.hostq = true ∨ ∀ x, HostIf.queues (f x) = HostIf.queues x) (hhostr : m.hostr = true ∨ ∀ x, HostIf.rest (f x) = HostIf.rest x) (hl : ∀ x, Balanced x → Balanced (f x)) (h : Within m s t) :
    Within m s (modHost f t) where
  pending := h.pending
  outbox := h.outbox
  fresh := h.fresh
  fuses := h.fuses
  ledger := fun b => hl _ (h.ledger b)
  ident := h.ident
  power := h.power
  hostq := fun e => match hhostq with
    | .inl x => absurd (x.symm.trans e) (by decide)
    | .inr x => (x _).trans (h.hostq e)
  hostr := fun e => match hhostr with
    | .inl x => absurd (x.symm.trans e) (by decide)
    | .inr x => (x _).trans (h.hostr e)
  dt := h.dt
  clock := h.clock
  wb := h.wb
  carvers := h.carvers
  tuners := h.tuners
  slip := h.slip
  due := h.due
  paths := h.paths
  ctxs := h.ctxs
  cx := h.cx
  audio := h.audio
  port := h.port
  mp := h.mp
  sg := h.sg
  cry := h.cry
  slots := h.slots
  mem := h.mem
  mnt := h.mnt
  pair := h.pair
  vault := h.vault

theorem modTime_within {m : Parts} {s t : State} (f : TimeSt → TimeSt) (hdt : m.dt = true ∨ ∀ x, (f x).dt = x.dt) (hclock : m.clock = true ∨ ∀ x, TimeSt.clock (f x) = TimeSt.clock x) (h : Within m s t) :
    Within m s (modTime f t) where
  pending := h.pending
  outbox := h.outbox
  fresh := h.fresh
  fuses := h.fuses
  ledger := h.ledger
  ident := h.ident
  power := h.power
  hostq := h.hostq
  hostr := h.hostr
  dt := fun e => match hdt with
    | .inl x => absurd (x.symm.trans e) (by decide)
    | .inr x => (x _).trans (h.dt e)
  clock := fun e => match hclock with
    | .inl x => absurd (x.symm.trans e) (by decide)
    | .inr x => (x _).trans (h.clock e)
  wb := h.wb
  carvers := h.carvers
  tuners := h.tuners
  slip := h.slip
  due := h.due
  paths := h.paths
  ctxs := h.ctxs
  cx := h.cx
  audio := h.audio
  port := h.port
  mp := h.mp
  sg := h.sg
  cry := h.cry
  slots := h.slots
  mem := h.mem
  mnt := h.mnt
  pair := h.pair
  vault := h.vault

theorem modRf_within {m : Parts} {s t : State} (f : RfSt → RfSt) (hwb : m.wb = true ∨ ∀ x, (f x).wb = x.wb) (hcarvers : m.carvers = true ∨ ∀ x, (f x).carvers = x.carvers) (htuners : m.tuners = true ∨ ∀ x, (f x).tuners = x.tuners) (hslip : m.slip = true ∨ ∀ x, RfSt.slipPart (f x) = RfSt.slipPart x) (h : Within m s t) :
    Within m s (modRf f t) where
  pending := h.pending
  outbox := h.outbox
  fresh := h.fresh
  fuses := h.fuses
  ledger := h.ledger
  ident := h.ident
  power := h.power
  hostq := h.hostq
  hostr := h.hostr
  dt := h.dt
  clock := h.clock
  wb := fun e => match hwb with
    | .inl x => absurd (x.symm.trans e) (by decide)
    | .inr x => (x _).trans (h.wb e)
  carvers := fun e => match hcarvers with
    | .inl x => absurd (x.symm.trans e) (by decide)
    | .inr x => (x _).trans (h.carvers e)
  tuners := fun e => match htuners with
    | .inl x => absurd (x.symm.trans e) (by decide)
    | .inr x => (x _).trans (h.tuners e)
  slip := fun e => match hslip with
    | .inl x => absurd (x.symm.trans e) (by decide)
    | .inr x => (x _).trans (h.slip e)
  due := h.due
  paths := h.paths
  ctxs := h.ctxs
  cx := h.cx
  audio := h.audio
  port := h.port
  mp := h.mp
  sg := h.sg
  cry := h.cry
  slots := h.slots
  mem := h.mem
  mnt := h.mnt
  pair := h.pair
  vault := h.vault

theorem modCx_within {m : Parts} {s t : State} (f : CtxSt → CtxSt) (hdue : m.due = true ∨ ∀ x, (f x).paths.map (·.dueOpen) = x.paths.map (·.dueOpen)) (hpaths : m.paths = true ∨ ∀ x, (f x).paths.map Path.noDue = x.paths.map Path.noDue) (hctxs : m.ctxs = true ∨ ∀ x, (f x).ctxs = x.ctxs) (hcx : m.cx = true ∨ ∀ x, CtxSt.rest (f x) = CtxSt.rest x) (h : Within m s t) :
    Within m s (modCx f t) where
  pending := h.pending
  outbox := h.outbox
  fresh := h.fresh
  fuses := h.fuses
  ledger := h.ledger
  ident := h.ident
  power := h.power
  hostq := h.hostq
  hostr := h.hostr
  dt := h.dt
  clock := h.clock
  wb := h.wb
  carvers := h.carvers
  tuners := h.tuners
  slip := h.slip
  due := fun e => match hdue with
    | .inl x => absurd (x.symm.trans e) (by decide)
    | .inr x => (x _).trans (h.due e)
  paths := fun e => match hpaths with
    | .inl x => absurd (x.symm.trans e) (by decide)
    | .inr x => (x _).trans (h.paths e)
  ctxs := fun e => match hctxs with
    | .inl x => absurd (x.symm.trans e) (by decide)
    | .inr x => (x _).trans (h.ctxs e)
  cx := fun e => match hcx with
    | .inl x => absurd (x.symm.trans e) (by decide)
    | .inr x => (x _).trans (h.cx e)
  audio := h.audio
  port := h.port
  mp := h.mp
  sg := h.sg
  cry := h.cry
  slots := h.slots
  mem := h.mem
  mnt := h.mnt
  pair := h.pair
  vault := h.vault

theorem modMem_within {m : Parts} {s t : State} (f : MemSt → MemSt) (hslots : m.slots = true ∨ ∀ x, (f x).slots = x.slots) (hmem : m.mem = true ∨ ∀ x, MemSt.rest (f x) = MemSt.rest x) (h : Within m s t) :
    Within m s (modMem f t) where
  pending := h.pending
  outbox := h.outbox
  fresh := h.fresh
  fuses := h.fuses
  ledger := h.ledger
  ident := h.ident
  power := h.power
  hostq := h.hostq
  hostr := h.hostr
  dt := h.dt
  clock := h.clock
  wb := h.wb
  carvers := h.carvers
  tuners := h.tuners
  slip := h.slip
  due := h.due
  paths := h.paths
  ctxs := h.ctxs
  cx := h.cx
  audio := h.audio
  port := h.port
  mp := h.mp
  sg := h.sg
  cry := h.cry
  slots := fun e => match hslots with
    | .inl x => absurd (x.symm.trans e) (by decide)
    | .inr x => (x _).trans (h.slots e)
  mem := fun e => match hmem with
    | .inl x => absurd (x.symm.trans e) (by decide)
    | .inr x => (x _).trans (h.mem e)
  mnt := h.mnt
  pair := h.pair
  vault := h.vault

theorem modIdent_within {m : Parts} {s t : State} (f : Ident → Ident) (hm : m.ident = true)
    (hf : ∀ i, (f i).nfb = i.nfb ∧ (f i).lifecycle = i.lifecycle ∧ (f i).serial = i.serial ∧ (f i).rom = i.rom ∧
      (f i).minSecver = i.minSecver) (h : Within m s t) : Within m s (modIdent f t) where
  pending := h.pending
  outbox := h.outbox
  fresh := h.fresh
  fuses := by
    obtain ⟨a, b, c, d, e⟩ := hf t.ident
    refine Eq.trans ?_ h.fuses
    simp only [Machine.fuses, modIdent, a, b, c, d, e]
  ledger := h.ledger
  ident := fun e => absurd (hm.symm.trans e) (by decide)
  power := h.power
  hostq := h.hostq
  hostr := h.hostr
  dt := h.dt
  clock := h.clock
  wb := h.wb
  carvers := h.carvers
  tuners := h.tuners
  slip := h.slip
  due := h.due
  paths := h.paths
  ctxs := h.ctxs
  cx := h.cx
  audio := h.audio
  port := h.port
  mp := h.mp
  sg := h.sg
  cry := h.cry
  slots := h.slots
  mem := h.mem
  mnt := h.mnt
  pair := h.pair
  vault := h.vault

end Sys2Proof.Machine
end

