-- ==== Sys2Proof/Laws/Ops.lean ====
section
/-!
SUPPORT. Laws/Ops.lean: what each operation of Machine/Ops.lean leaves as it was.
-/
namespace Sys2Proof.Machine

theorem modPairq_within (q : Fin 32) (f : Pairq → Pairq) (s : State) : Within { hostq := true } s (modPairq q f s) := by
  unfold modPairq
  repeat' first
    | with_reducible apply Within.rfl | with_reducible assumption | exact rfl | with_reducible apply modHost_within
    | exact .inl rfl | exact .inr fun _ => rfl | exact fun _ b => b

theorem modRing_within (c : Fin 4) (f : RetRing → RetRing) (s : State) : Within { hostq := true } s (modRing c f s) := by
  unfold modRing
  repeat' first
    | with_reducible apply Within.rfl | with_reducible assumption | exact rfl | with_reducible apply modHost_within
    | exact .inl rfl | exact .inr fun _ => rfl | exact fun _ b => b

theorem modPll_within (b : Fin 2) (f : Pll → Pll) (s : State) : Within { clock := true } s (modPll b f s) := by
  unfold modPll
  repeat' first
    | with_reducible apply Within.rfl | with_reducible assumption | exact rfl | with_reducible apply modTime_within
    | exact .inl rfl | exact .inr fun _ => rfl

theorem modWb_within (i : Fin 2) (f : WbIn → WbIn) (s : State) : Within { wb := true } s (modWb i f s) := by
  unfold modWb
  repeat' first
    | with_reducible apply Within.rfl | with_reducible assumption | exact rfl | with_reducible apply modRf_within
    | exact .inl rfl | exact .inr fun _ => rfl

theorem modCarver_within (c : Fin 8) (f : Carver → Carver) (s : State) : Within { carvers := true } s (modCarver c f s) := by
  unfold modCarver
  repeat' first
    | with_reducible apply Within.rfl | with_reducible assumption | exact rfl | with_reducible apply modRf_within
    | exact .inl rfl | exact .inr fun _ => rfl

theorem modTuner_within (n : Fin 4) (f : Tuner → Tuner) (s : State) : Within { tuners := true } s (modTuner n f s) := by
  unfold modTuner
  repeat' first
    | with_reducible apply Within.rfl | with_reducible assumption | exact rfl | with_reducible apply modRf_within
    | exact .inl rfl | exact .inr fun _ => rfl

theorem modSlip_within (f : SlipSt → SlipSt) (s : State) : Within { slip := true } s (modSlip f s) := by
  unfold modSlip
  repeat' first
    | with_reducible apply Within.rfl | with_reducible assumption | exact rfl | with_reducible apply modRf_within
    | exact .inl rfl | exact .inr fun _ => rfl

theorem modPath_within (p : Fin 64) (f : Path → Path) (s : State) : Within { due := true, paths := true } s (modPath p f s) :=
    by
  unfold modPath
  repeat' first
    | with_reducible apply Within.rfl | with_reducible assumption | exact rfl | with_reducible apply modCx_within
    | exact .inl rfl | exact .inr fun _ => rfl

theorem modCtx_within (i : Fin 64) (f : Ctx → Ctx) (s : State) : Within { ctxs := true } s (modCtx i f s) := by
  unfold modCtx
  repeat' first
    | with_reducible apply Within.rfl | with_reducible assumption | exact rfl | with_reducible apply modCx_within
    | exact .inl rfl | exact .inr fun _ => rfl

theorem modWheel_within (w : Fin 16) (f : Wheel → Wheel) (s : State) : Within { cx := true } s (modWheel w f s) := by
  unfold modWheel
  repeat' first
    | with_reducible apply Within.rfl | with_reducible assumption | exact rfl | with_reducible apply modCx_within
    | exact .inl rfl | exact .inr fun _ => rfl

theorem modSvc_within (v : Fin 96) (f : Svc → Svc) (s : State) : Within { audio := true } s (modSvc v f s) := by
  unfold modSvc
  repeat' first
    | with_reducible apply Within.rfl | with_reducible assumption | exact rfl | with_reducible apply modAudio_within

theorem modPort_within (p : Fin 14) (f : Port → Port) (s : State) : Within { port := true } s (modPort p f s) := by
  unfold modPort
  repeat' first
    | with_reducible apply Within.rfl | with_reducible assumption | exact rfl | with_reducible apply modPortSt_within

theorem modAin_within (i : Fin 4) (f : Ain → Ain) (s : State) : Within { port := true } s (modAin i f s) := by
  unfold modAin
  repeat' first
    | with_reducible apply Within.rfl | with_reducible assumption | exact rfl | with_reducible apply modPortSt_within

theorem modSlot_within (k : Fin 4) (f : Capture → Capture) (s : State) : Within { slots := true } s (modSlot k f s) := by
  unfold modSlot
  repeat' first
    | with_reducible apply Within.rfl | with_reducible assumption | exact rfl | with_reducible apply modMem_within
    | exact .inl rfl | exact .inr fun _ => rfl

theorem modKey_within (k : Fin 64) (f : Key → Key) (s : State) : Within { cry := true } s (modKey k f s) := by
  unfold modKey
  repeat' first
    | with_reducible apply Within.rfl | with_reducible assumption | exact rfl | with_reducible apply modCry_within

theorem emit_within (o : Out) (s : State) : Within {} s (emit o s) where
  pending := rfl
  outbox := List.suffix_cons _ _
  fresh := Nat.le_refl _
  fuses := rfl
  ledger := id
  ident := fun _ => rfl
  power := fun _ => rfl
  hostq := fun _ => rfl
  hostr := fun _ => rfl
  dt := fun _ => rfl
  clock := fun _ => rfl
  wb := fun _ => rfl
  carvers := fun _ => rfl
  tuners := fun _ => rfl
  slip := fun _ => rfl
  due := fun _ => rfl
  paths := fun _ => rfl
  ctxs := fun _ => rfl
  cx := fun _ => rfl
  audio := fun _ => rfl
  port := fun _ => rfl
  mp := fun _ => rfl
  sg := fun _ => rfl
  cry := fun _ => rfl
  slots := fun _ => rfl
  mem := fun _ => rfl
  mnt := fun _ => rfl
  pair := fun _ => rfl
  vault := fun _ => rfl


theorem useFree_within (s : State) : Within {} s (useFree s) where
  pending := rfl
  outbox := List.suffix_refl _
  fresh := Nat.le_succ _
  fuses := rfl
  ledger := id
  ident := fun _ => rfl
  power := fun _ => rfl
  hostq := fun _ => rfl
  hostr := fun _ => rfl
  dt := fun _ => rfl
  clock := fun _ => rfl
  wb := fun _ => rfl
  carvers := fun _ => rfl
  tuners := fun _ => rfl
  slip := fun _ => rfl
  due := fun _ => rfl
  paths := fun _ => rfl
  ctxs := fun _ => rfl
  cx := fun _ => rfl
  audio := fun _ => rfl
  port := fun _ => rfl
  mp := fun _ => rfl
  sg := fun _ => rfl
  cry := fun _ => rfl
  slots := fun _ => rfl
  mem := fun _ => rfl
  mnt := fun _ => rfl
  pair := fun _ => rfl
  vault := fun _ => rfl


theorem useMany_within (n : Nat) (s : State) : Within {} s (useMany n s) where
  pending := rfl
  outbox := List.suffix_refl _
  fresh := Nat.le_add_right _ _
  fuses := rfl
  ledger := id
  ident := fun _ => rfl
  power := fun _ => rfl
  hostq := fun _ => rfl
  hostr := fun _ => rfl
  dt := fun _ => rfl
  clock := fun _ => rfl
  wb := fun _ => rfl
  carvers := fun _ => rfl
  tuners := fun _ => rfl
  slip := fun _ => rfl
  due := fun _ => rfl
  paths := fun _ => rfl
  ctxs := fun _ => rfl
  cx := fun _ => rfl
  audio := fun _ => rfl
  port := fun _ => rfl
  mp := fun _ => rfl
  sg := fun _ => rfl
  cry := fun _ => rfl
  slots := fun _ => rfl
  mem := fun _ => rfl
  mnt := fun _ => rfl
  pair := fun _ => rfl
  vault := fun _ => rfl


/-- A change of a ledger row that keeps it balanced. -/
theorem modRow_within (c : Fin 9) {f : LedgerRow → LedgerRow} (hf : ∀ r, r.Balanced → (f r).Balanced) (s : State) :
    Within { hostq := true } s (modRow c f s) := by
  refine modHost_within _ (.inl rfl) (.inr fun _ => rfl) (fun x b d => ⟨?_, (b d).2⟩) .rfl
  have hc := (b c).1
  have hd := (b d).1
  show LedgerRow.Balanced ((upd x.ledger c f)[d])
  rw [upd_get]
  split
  · subst_vars; exact hf _ hc
  · exact hd


theorem post_within (c : Fin 9) (n : Nat) (s : State) : Within { hostq := true } s (post c n s) :=
  modRow_within c (fun r b => by simp only [LedgerRow.Balanced, LedgerRow.post] at b ⊢; rw [b, BitVec.add_assoc]) s


theorem settle_within (c : Fin 9) (n : Nat) (s : State) : Within { hostq := true } s (settle c n s) :=
  modRow_within c (fun r b => by simp only [LedgerRow.Balanced, LedgerRow.settle] at b ⊢; rw [b]; ring) s


theorem accrue_within (s : State) : Within { hostq := true, due := true } s (accrue s) := by
  unfold accrue
  extract_lets n
  refine Within.after (post_within _ _ _) rfl (modCx_within _ (.inl rfl) (.inr fun x => ?_) (.inr fun _ => rfl) (.inr fun _ => rfl) .rfl)
  simp [Path.noDue, Function.comp_def]


theorem moment_within (t : DT) (s : State) : Within { hostq := true, dt := true, due := true } s (moment t s) := by
  unfold moment
  repeat' first
    | with_reducible apply Within.rfl | with_reducible assumption | exact rfl | with_reducible apply Within.ite
    | with_reducible apply modTime_within | exact .inl rfl | exact .inr fun _ => rfl
    | with_reducible apply Within.after (accrue_within _)

theorem setRate_within (r : Int) (s : State) : Within { clock := true, due := true, paths := true, port := true } s (setRate r
    s) := by
  unfold setRate
  repeat' first
    | with_reducible apply Within.rfl | with_reducible assumption | exact rfl
    | (extract_lets -underBinder -merge -useContext +onlyGivenNames x; refine Within.cut x (fun hx => ?_) ?_; (on_goal 1 => clear_value x); (on_goal 2 => (unfold x; clear x)))
    | (extract_lets -underBinder -merge -useContext +onlyGivenNames x; clear_value x) | with_reducible apply modPortSt_within
    | with_reducible apply modCx_within | with_reducible apply modTime_within | exact .inl rfl | exact .inr fun _ => rfl

theorem sendMsix_within (v : Nat) (s : State) : Within { hostq := true } s (sendMsix v s) := by
  unfold sendMsix
  repeat' first
    | with_reducible apply Within.rfl | with_reducible assumption | exact rfl | with_reducible apply Within.ite
    | with_reducible apply modHost_within | exact .inl rfl | exact .inr fun _ => rfl | exact fun _ b => b
    | with_reducible apply Within.after (emit_within _ _) | split

theorem signalCq_within (q : Fin 32) (event : Bool) (s : State) : Within { hostq := true } s (signalCq q event s) := by
  unfold signalCq
  repeat' first
    | with_reducible apply Within.rfl | with_reducible assumption | exact rfl
    | (extract_lets -underBinder -merge -useContext +onlyGivenNames x; clear_value x) | with_reducible apply Within.ite
    | with_reducible apply Within.after (sendMsix_within _ _) | with_reducible apply Within.after (modPairq_within _ _ _)

theorem signalRing_within (c : Fin 4) (s : State) : Within { hostq := true } s (signalRing c s) := by
  unfold signalRing
  repeat' first
    | with_reducible apply Within.rfl | with_reducible assumption | exact rfl
    | (extract_lets -underBinder -merge -useContext +onlyGivenNames x; clear_value x) | with_reducible apply Within.ite
    | with_reducible apply modHost_within | exact .inl rfl | exact .inr fun _ => rfl | exact fun _ b => b
    | with_reducible apply Within.after (sendMsix_within _ _)

theorem notifyRise_within (old s : State) : Within { mp := true } s (notifyRise old s) := by
  unfold notifyRise
  repeat' first
    | with_reducible apply Within.rfl | with_reducible assumption | exact rfl | with_reducible apply Within.ite
    | with_reducible apply modMp_within

theorem settleEntry_within (e : CqEntry) (s : State) : Within { hostq := true } s (settleEntry e s) := by
  unfold settleEntry
  repeat' first
    | with_reducible apply Within.rfl | with_reducible assumption | exact rfl | with_reducible apply Within.ite
    | with_reducible apply Within.after (settle_within _ _ _)

theorem countEvent_within (e : CqEntry) (s : State) : Within { hostq := true, mp := true } s (countEvent e s) := by
  unfold countEvent
  repeat' first
    | with_reducible apply Within.rfl | with_reducible assumption | exact rfl | with_reducible apply Within.ite
    | with_reducible apply modHost_within | with_reducible apply modMp_within | exact .inl rfl | exact .inr fun _ => rfl
    | exact fun _ b => b

theorem cqWrite_within (q : Fin 32) (e : CqEntry) (s : State) : Within { hostq := true, mp := true } s (cqWrite q e s) := by
  unfold cqWrite
  repeat' first
    | with_reducible apply Within.rfl | with_reducible assumption | exact rfl
    | (extract_lets -underBinder -merge -useContext +onlyGivenNames x; refine Within.cut x (fun hx => ?_) ?_; (on_goal 1 => clear_value x); (on_goal 2 => (unfold x; clear x)))
    | (extract_lets -underBinder -merge -useContext +onlyGivenNames x; clear_value x) | with_reducible apply Within.ite
    | with_reducible apply Within.after (emit_within _ _) | with_reducible apply Within.after (modPairq_within _ _ _)
    | with_reducible apply Within.after (signalCq_within _ _ _) | with_reducible apply Within.after (countEvent_within _ _)
    | with_reducible apply Within.after (settleEntry_within _ _)

theorem writeOut_within (u : Option Unwritten) (s : State) : Within {} s (writeOut u s) := by
  unfold writeOut
  repeat' first
    | with_reducible apply Within.rfl | with_reducible assumption | exact rfl | with_reducible apply Within.after (emit_within _ _)
    | split

theorem cqPush_within (q : Fin 32) (e : CqEntry) (u : Option Unwritten) (s : State) : Within { hostq := true, mp := true } s
    (cqPush q e u s) := by
  unfold cqPush
  repeat' first
    | with_reducible apply Within.rfl | with_reducible assumption | exact rfl | with_reducible apply Within.ite
    | with_reducible apply Within.after (cqWrite_within _ _ _) | with_reducible apply Within.after (writeOut_within _ _)
    | with_reducible apply Within.after (modPairq_within _ _ _)

theorem mpResult_within (e : CqEntry) (area : List Byte) (s : State) : Within { hostq := true, mp := true } s (mpResult e area
    s) := by
  unfold mpResult
  repeat' first
    | with_reducible apply Within.rfl | with_reducible assumption | exact rfl | with_reducible apply modMp_within
    | with_reducible apply Within.after (notifyRise_within _ _) | with_reducible apply Within.after (settle_within _ _ _)

theorem captureTrigger_within (ev : Ev) (e : CqEntry) (s : State) : Within { slots := true } s (captureTrigger ev e s) := by
  unfold captureTrigger
  repeat' first
    | with_reducible apply Within.rfl | with_reducible assumption | exact rfl | with_reducible apply Within.ite
    | with_reducible apply modMem_within | exact .inl rfl | exact .inr fun _ => rfl

theorem queueEvent_within (ev : Ev) (e : CqEntry) (s : State) : Within { hostq := true, mp := true } s (queueEvent ev e s) := by
  unfold queueEvent
  repeat' first
    | with_reducible apply Within.rfl | with_reducible assumption | exact rfl
    | (extract_lets -underBinder -merge -useContext +onlyGivenNames x; refine Within.cut x (fun hx => ?_) ?_; (on_goal 1 => clear_value x); (on_goal 2 => (unfold x; clear x)))
    | (extract_lets -underBinder -merge -useContext +onlyGivenNames x; clear_value x) | with_reducible apply Within.ite
    | with_reducible apply modHost_within | exact .inl rfl | exact .inr fun _ => rfl | exact fun _ b => b
    | with_reducible apply Within.after (cqPush_within _ _ _ _) | with_reducible apply Within.after (modPairq_within _ _ _)

theorem raiseAt_within (ev : Ev) (dt : DT) (res : List Byte) (s : State) : Within { hostq := true, mp := true, slots := true } s
    (raiseAt ev dt res s) := by
  unfold raiseAt
  repeat' first
    | with_reducible apply Within.rfl | with_reducible assumption | exact rfl
    | (extract_lets -underBinder -merge -useContext +onlyGivenNames x; clear_value x) | with_reducible apply Within.ite
    | with_reducible apply Within.after (captureTrigger_within _ _ _)
    | with_reducible apply Within.after (notifyRise_within _ _) | with_reducible apply Within.after (queueEvent_within _ _ _)

theorem raise_within (ev : Ev) (fs : List (Nat × Nat × Int)) (s : State) : Within { hostq := true, mp := true, slots := true } s
    (raise ev fs s) := by
  unfold raise
  repeat' first
    | with_reducible apply Within.rfl | with_reducible assumption | exact rfl
    | with_reducible apply Within.after (raiseAt_within _ _ _ _)

theorem refill_within (s : State) : Within { hostq := true, mp := true } s (refill s) := by
  unfold refill
  repeat' first
    | with_reducible apply Within.rfl | with_reducible assumption | exact rfl
    | (extract_lets -underBinder -merge -useContext +onlyGivenNames x; clear_value x) | with_reducible apply modHost_within
    | exact .inl rfl | exact .inr fun _ => rfl | exact fun _ b => b | with_reducible apply Within.after (notifyRise_within _ _)

theorem cqDrainOne_within (q : Fin 32) (s : State) : Within { hostq := true, mp := true } s (cqDrainOne q s) := by
  unfold cqDrainOne
  repeat' first
    | with_reducible apply Within.rfl | with_reducible assumption | exact rfl
    | (extract_lets -underBinder -merge -useContext +onlyGivenNames x; refine Within.cut x (fun hx => ?_) ?_; (on_goal 1 => clear_value x); (on_goal 2 => (unfold x; clear x)))
    | (extract_lets -underBinder -merge -useContext +onlyGivenNames x; clear_value x) | with_reducible apply Within.ite
    | with_reducible apply Within.after (notifyRise_within _ _) | with_reducible apply Within.after (refill_within _)
    | with_reducible apply Within.after (cqWrite_within _ _ _) | with_reducible apply Within.after (modPairq_within _ _ _)
    | with_reducible apply Within.after (writeOut_within _ _) | split

theorem retWrite_within (c : Fin 4) (e : RetEntry) (s : State) : Within { hostq := true, cry := true } s (retWrite c e s) := by
  unfold retWrite
  repeat' first
    | with_reducible apply Within.rfl | with_reducible assumption | exact rfl
    | (extract_lets -underBinder -merge -useContext +onlyGivenNames x; refine Within.cut x (fun hx => ?_) ?_; (on_goal 1 => clear_value x); (on_goal 2 => (unfold x; clear x)))
    | (extract_lets -underBinder -merge -useContext +onlyGivenNames x; clear_value x) | with_reducible apply Within.ite
    | with_reducible apply modCry_within | with_reducible apply Within.after (emit_within _ _)
    | with_reducible apply Within.after (modRing_within _ _ _) | with_reducible apply Within.after (signalRing_within _ _)
    | with_reducible apply Within.after (settle_within _ _ _)

theorem retPush_within (c : Fin 4) (e : RetEntry) (s : State) : Within { hostq := true, cry := true } s (retPush c e s) := by
  unfold retPush
  repeat' first
    | with_reducible apply Within.rfl | with_reducible assumption | exact rfl | with_reducible apply Within.ite
    | with_reducible apply Within.after (retWrite_within _ _ _) | with_reducible apply Within.after (modRing_within _ _ _)

theorem retDrainOne_within (c : Fin 4) (s : State) : Within { hostq := true, cry := true } s (retDrainOne c s) := by
  unfold retDrainOne
  repeat' first
    | with_reducible apply Within.rfl | with_reducible assumption | exact rfl | with_reducible apply Within.ite
    | with_reducible apply Within.after (retWrite_within _ _ _) | with_reducible apply Within.after (modRing_within _ _ _)
    | split

theorem dropHeld_within (id : Nat) (s : State) : Within { hostq := true } s (dropHeld id s) := by
  unfold dropHeld
  repeat' first
    | with_reducible apply Within.rfl | with_reducible assumption | exact rfl | with_reducible apply modHost_within
    | exact .inl rfl | exact .inr fun _ => rfl | exact fun _ b => b

theorem modHeld_within (id : Nat) (f : Held → Held) (s : State) : Within { hostq := true } s (modHeld id f s) := by
  unfold modHeld
  repeat' first
    | with_reducible apply Within.rfl | with_reducible assumption | exact rfl | with_reducible apply Within.ite
    | with_reducible apply modHost_within | exact .inl rfl | exact .inr fun _ => rfl | exact fun _ b => b

theorem sendEntry_within (h : Held) (e : CqEntry) (area : List Byte) (s : State) : Within { hostq := true, mp := true } s
    (sendEntry h e area s) := by
  unfold sendEntry
  repeat' first
    | with_reducible apply Within.rfl | with_reducible assumption | exact rfl
    | with_reducible apply Within.after (cqPush_within _ _ _ _) | with_reducible apply Within.after (mpResult_within _ _ _) | split

theorem deferredDone_within (h : Held) (st : Status) (at_ : DT) (s : State) : Within
    { hostq := true, mp := true, slots := true } s (deferredDone h st at_ s) := by
  unfold deferredDone
  repeat' first
    | with_reducible apply Within.rfl | with_reducible assumption | exact rfl
    | with_reducible apply Within.after (raise_within _ _ _)

theorem finishAt_within (h : Held) (st : Status) (res area : List Byte) (at_ : DT) (s : State) : Within
    { hostq := true, mp := true, slots := true } s (finishAt h st res area at_ s) := by
  unfold finishAt
  repeat' first
    | with_reducible apply Within.rfl | with_reducible assumption | exact rfl | with_reducible apply Within.ite
    | with_reducible apply Within.after (deferredDone_within _ _ _ _) | with_reducible apply Within.after (dropHeld_within _ _)
    | with_reducible apply Within.after (sendEntry_within _ _ _ _) | split

theorem finish_within (h : Held) (st : Status) (fs : List (Nat × Nat × Int)) (s : State) : Within
    { hostq := true, mp := true, slots := true } s (finish h st fs s) := by
  unfold finish
  repeat' first
    | with_reducible apply Within.rfl | with_reducible assumption | exact rfl
    | with_reducible apply Within.after (finishAt_within _ _ _ _ _ _)

theorem finishId_within (id : Nat) (st : Status) (fs : List (Nat × Nat × Int)) (s : State) : Within
    { hostq := true, mp := true, slots := true } s (finishId id st fs s) := by
  unfold finishId
  repeat' first
    | with_reducible apply Within.rfl | with_reducible assumption | exact rfl
    | with_reducible apply Within.after (finish_within _ _ _ _) | split

theorem finishC_within (h : Held) (s : State) : Within { hostq := true, mp := true, slots := true } s (finishC h s) := by
  unfold finishC
  repeat' first
    | with_reducible apply Within.rfl | with_reducible assumption | exact rfl
    | with_reducible apply Within.after (finish_within _ _ _ _)

theorem finishIdC_within (id : Nat) (s : State) : Within { hostq := true, mp := true, slots := true } s (finishIdC id s) := by
  unfold finishIdC
  repeat' first
    | with_reducible apply Within.rfl | with_reducible assumption | exact rfl
    | with_reducible apply Within.after (finishId_within _ _ _ _)

theorem finishAll_within (ids : List Nat) (st : Status) (fs : List (Nat × Nat × Int)) (s : State) : Within
    { hostq := true, mp := true, slots := true } s (finishAll ids st fs s) := by
  unfold finishAll
  repeat' first
    | with_reducible apply Within.rfl | with_reducible assumption | exact rfl
    | (with_reducible apply Within.foldl; on_goal 1 => (intro _ _))
    | with_reducible apply Within.after (finishId_within _ _ _ _)

theorem fail_within (h : Held) (st : Status) (off : Nat) (d : Detail) (s : State) : Within
    { hostq := true, mp := true, slots := true } s (fail h st off d s) := by
  unfold fail
  repeat' first
    | with_reducible apply Within.rfl | with_reducible assumption | exact rfl | with_reducible apply Within.ite
    | with_reducible apply Within.after (finish_within _ _ _ _)

theorem reject_within (h : Held) (st : Status) (s : State) : Within { hostq := true, mp := true, slots := true } s (reject h st
    s) := by
  unfold reject
  repeat' first
    | with_reducible apply Within.rfl | with_reducible assumption | exact rfl
    | with_reducible apply Within.after (fail_within _ _ _ _ _)

theorem rejectId_within (id : Nat) (st : Status) (s : State) : Within { hostq := true, mp := true, slots := true } s (rejectId
    id st s) := by
  unfold rejectId
  repeat' first
    | with_reducible apply Within.rfl | with_reducible assumption | exact rfl
    | with_reducible apply Within.after (reject_within _ _ _) | split

theorem rejectAll_within (ids : List Nat) (st : Status) (s : State) : Within { hostq := true, mp := true, slots := true } s
    (rejectAll ids st s) := by
  unfold rejectAll
  repeat' first
    | with_reducible apply Within.rfl | with_reducible assumption | exact rfl
    | (with_reducible apply Within.foldl; on_goal 1 => (intro _ _)) | with_reducible apply Within.after (rejectId_within _ _ _)

theorem finishOut_within (h : Held) (st : Status) (data : List Byte) (own : Option (List (Nat × Nat × Int))) (s : State) :
    Within { hostq := true, mp := true, slots := true } s (finishOut h st data own s) := by
  unfold finishOut
  repeat' first
    | with_reducible apply Within.rfl | with_reducible assumption | exact rfl
    | (extract_lets -underBinder -merge -useContext +onlyGivenNames x; refine Within.cut x (fun hx => ?_) ?_; (on_goal 1 => clear_value x); (on_goal 2 => (unfold x; clear x)))
    | (extract_lets -underBinder -merge -useContext +onlyGivenNames x; clear_value x)
    | with_reducible apply Within.after (finishAt_within _ _ _ _ _ _)

theorem deferCmd_within (h : Held) (fs : List (Nat × Nat × Int)) (s : State) : Within
    { hostq := true, mp := true, slots := true } s (deferCmd h fs s) := by
  unfold deferCmd
  repeat' first
    | with_reducible apply Within.rfl | with_reducible assumption | exact rfl | with_reducible apply Within.ite
    | with_reducible apply Within.after (reject_within _ _ _) | with_reducible apply Within.after (modHeld_within _ _ _)
    | with_reducible apply Within.after (sendEntry_within _ _ _ _) | split

theorem begin__within (h : Held) (s : State) : Within { hostq := true } s (begin_ h s) := by
  unfold begin_
  repeat' first
    | with_reducible apply Within.rfl | with_reducible assumption | exact rfl
    | with_reducible apply Within.after (modHeld_within _ _ _)

theorem note_within (h : Held) (l : List Int) (s : State) : Within { hostq := true } s (note h l s) := by
  unfold note
  repeat' first
    | with_reducible apply Within.rfl | with_reducible assumption | exact rfl
    | with_reducible apply Within.after (modHeld_within _ _ _)

end Sys2Proof.Machine
end

