-- ==== Sys2Proof/Laws/Records.lean ====
section
/-!
SUPPORT. Laws/Records.lean: what each operation of Machine/Records.lean leaves as it was.
-/
namespace Sys2Proof.Machine

theorem returnBuffer_within (c : Fin 4) (st : Status) (s : State) : Within { hostq := true, cry := true } s (returnBuffer c st
    s) := by
  unfold returnBuffer
  repeat' first
    | with_reducible apply Within.rfl | with_reducible assumption | exact rfl
    | (extract_lets -underBinder -merge -useContext +onlyGivenNames x; clear_value x) | with_reducible apply Within.ite
    | with_reducible apply Within.after (retPush_within _ _ _) | with_reducible apply Within.after (modRing_within _ _ _)
    | split

theorem putBytes_within (c : Fin 4) (data : List Byte) (n : Nat) (s : State) : Within { hostq := true } s (putBytes c data n s)
    := by
  unfold putBytes
  repeat' first
    | with_reducible apply Within.rfl | with_reducible assumption | exact rfl
    | with_reducible apply Within.after (modRing_within _ _ _) | with_reducible apply Within.after (emit_within _ _) | split

theorem markSent_within (c : Fin 4) (r : Rec) (s : State) : Within { cry := true } s (markSent c r s) := by
  unfold markSent
  repeat' first
    | with_reducible apply Within.rfl | with_reducible assumption | exact rfl
    | (extract_lets -underBinder -merge -useContext +onlyGivenNames x; clear_value x) | with_reducible apply Within.ite
    | with_reducible apply modCry_within | split

theorem takeOwed_within (c : Fin 4) (r : Rec) (s : State) : PairW { hostq := true } s (takeOwed c r s) := by
  unfold takeOwed
  repeat' first
    | with_reducible apply Within.rfl | with_reducible assumption | exact rfl | with_reducible apply PairW.ite
    | with_reducible apply Within.ite | with_reducible apply Within.after (modRing_within _ _ _) | with_reducible apply pairW_mk

theorem writeRec_within (c : Fin 4) (n : Nat) (r : Rec) (s : State) : FstW { hostq := true, cry := true } s (writeRec c n r s) := by
  induction n generalizing r s with
  | zero => exact Within.rfl
  | succ n ih =>
    unfold writeRec
    repeat' first
      | with_reducible apply Within.rfl | with_reducible assumption | exact rfl 
      | (extract_lets -underBinder -merge -useContext +onlyGivenNames x; refine FstW.cut x (fun hx => ?_) ?_; (on_goal 1 => clear_value x); (on_goal 2 => (unfold x; clear x)))
      | (extract_lets -underBinder -merge -useContext +onlyGivenNames x; clear_value x) | with_reducible apply FstW.after (ih _ _) 
      | with_reducible apply FstW.ite | with_reducible apply Within.ite
      | with_reducible apply Within.after (putBytes_within _ _ _ _)
      | with_reducible apply Within.after (markSent_within _ _ _)
      | with_reducible apply Within.after (returnBuffer_within _ _ _)
      | split
      | with_reducible refine Within.after (PairW.of (takeOwed_within _ _ _) (by with_reducible assumption)) ?_ ?_
      | with_reducible apply Within.after (takeOwed_within _ _ _).snd
      | with_reducible apply fstW_mk


theorem stageRec_within (c : Fin 4) (x : Rec) (s : State) : Within { hostq := true } s (stageRec c x s) := by
  unfold stageRec
  repeat' first
    | with_reducible apply Within.rfl | with_reducible assumption | exact rfl
    | with_reducible apply Within.after (modRing_within _ _ _)

theorem deliver_within (c : Fin 4) (x : Rec) (s : State) : Within { hostq := true, cry := true } s (deliver c x s) := by
  unfold deliver
  repeat' first
    | with_reducible apply Within.rfl | with_reducible assumption | exact rfl | with_reducible apply Within.ite
    | with_reducible apply Within.after (stageRec_within _ _ _) | split
    | with_reducible refine Within.after (FstW.of (writeRec_within _ _ _ _) (by with_reducible assumption)) ?_ ?_

theorem unstage_within (c : Fin 4) (n : Nat) (s : State) : Within { hostq := true, cry := true } s (unstage c n s) := by
  induction n generalizing s with
  | zero => exact Within.rfl
  | succ n ih =>
    unfold unstage
    repeat' first
      | with_reducible apply Within.rfl | with_reducible assumption | exact rfl | with_reducible apply Within.after (ih _)
      | with_reducible apply Within.ite | with_reducible apply Within.after (modRing_within _ _ _) | split
      | with_reducible refine Within.after (FstW.of (writeRec_within _ _ _ _) (by with_reducible assumption)) ?_ ?_

theorem makeRoom_within (s : State) : OptW { hostq := true, cry := true } s (makeRoom s) := by
  unfold makeRoom
  repeat' first
    | with_reducible apply Within.rfl | with_reducible assumption | exact rfl | with_reducible apply OptW.ite
    | with_reducible apply Within.ite | with_reducible apply optW_none | with_reducible apply optW_some
    | with_reducible apply modHost_within | with_reducible apply modCry_within | exact .inl rfl | exact .inr fun _ => rfl
    | exact fun _ b => b | split

theorem reserveSeq_within (s : State) : Within { cry := true, vault := true } s (reserveSeq s) := by
  unfold reserveSeq
  repeat' first
    | with_reducible apply Within.rfl | with_reducible assumption | exact rfl
    | (extract_lets -underBinder -merge -useContext +onlyGivenNames x; clear_value x) | with_reducible apply Within.ite
    | with_reducible apply modVault_within | with_reducible apply modCry_within

theorem gapRecorded_within (log : Nat) (d : List Byte) (seq : BitVec 64) (s : State) : Within
    { hostq := true, mp := true, slots := true } s (gapRecorded log d seq s) := by
  unfold gapRecorded
  repeat' first
    | with_reducible apply Within.rfl | with_reducible assumption | exact rfl
    | (extract_lets -underBinder -merge -useContext +onlyGivenNames x; clear_value x) | with_reducible apply Within.ite
    | with_reducible apply Within.after (raise_within _ _ _)

theorem formIn_within (d : List Byte) (s : State) : Within
    { hostq := true, mp := true, cry := true, slots := true, vault := true } s (formIn d s) := by
  unfold formIn
  repeat' first
    | with_reducible apply Within.rfl | with_reducible assumption | exact rfl
    | (extract_lets -underBinder -merge -useContext +onlyGivenNames x; refine Within.cut x (fun hx => ?_) ?_; (on_goal 1 => clear_value x); (on_goal 2 => (unfold x; clear x)))
    | (extract_lets -underBinder -merge -useContext +onlyGivenNames x; clear_value x) | with_reducible apply modCry_within
    | with_reducible apply Within.after (reserveSeq_within _) | with_reducible apply Within.after (gapRecorded_within _ _ _ _)
    | with_reducible apply Within.after (settle_within _ _ _) | with_reducible apply Within.after (post_within _ _ _)

theorem form_within (d : List Byte) (s : State) : Within
    { hostq := true, mp := true, cry := true, slots := true, vault := true } s (form d s) := by
  unfold form
  repeat' first
    | with_reducible apply Within.rfl | with_reducible assumption | exact rfl | with_reducible apply Within.ite
    | with_reducible apply modCry_within | with_reducible apply Within.after (formIn_within _ _) | split
    | with_reducible refine Within.after (OptW.of (makeRoom_within _) (by with_reducible assumption)) ?_ ?_

theorem coverRun_within (s : State) : Within { hostq := true, mp := true, cry := true, slots := true, vault := true } s
    (coverRun s) := by
  unfold coverRun
  repeat' first
    | with_reducible apply Within.rfl | with_reducible assumption | exact rfl | with_reducible apply modCry_within
    | with_reducible apply Within.after (form_within _ _) | split

theorem askStore_within (item : VaultItem) (cmd : Option Nat) (s : State) : Within { mnt := true } s (askStore item cmd s) := by
  unfold askStore
  repeat' first
    | with_reducible apply Within.rfl | with_reducible assumption | exact rfl | with_reducible apply Within.ite
    | with_reducible apply modMnt_within

theorem useCounter_within (i : Fin 64) (k : Key) (s : State) : Within
    { hostq := true, mp := true, cry := true, slots := true, vault := true } s (useCounter i k s) := by
  unfold useCounter
  repeat' first
    | with_reducible apply Within.rfl | with_reducible assumption | exact rfl
    | (extract_lets -underBinder -merge -useContext +onlyGivenNames x; refine Within.cut x (fun hx => ?_) ?_; (on_goal 1 => clear_value x); (on_goal 2 => (unfold x; clear x)))
    | (extract_lets -underBinder -merge -useContext +onlyGivenNames x; clear_value x) | with_reducible apply Within.ite
    | with_reducible apply Within.after (modKey_within _ _ _) | with_reducible apply Within.after (form_within _ _)

theorem tagLoop_within  (n : Nat) (s : State) : Within
    { hostq := true, mp := true, cry := true, slots := true, mnt := true, vault := true } s (tagLoop  n s) := by
  induction n generalizing s with
  | zero => exact Within.rfl
  | succ n ih =>
    unfold tagLoop
    repeat' first
      | with_reducible apply Within.rfl | with_reducible assumption | exact rfl | with_reducible apply Within.after (ih _)
      | (extract_lets -underBinder -merge -useContext +onlyGivenNames x; refine Within.cut x (fun hx => ?_) ?_; (on_goal 1 => clear_value x); (on_goal 2 => (unfold x; clear x)))
      | (extract_lets -underBinder -merge -useContext +onlyGivenNames x; clear_value x) | with_reducible apply Within.ite
      | with_reducible apply modCry_within | with_reducible apply Within.after (askStore_within _ _ _)
      | with_reducible apply Within.after (useCounter_within _ _ _) | with_reducible apply Within.after (deliver_within _ _ _)
      | split

theorem formWaiting_within  (n : Nat) (s : State) : Within
    { hostq := true, mp := true, cry := true, slots := true, vault := true } s (formWaiting  n s) := by
  induction n generalizing s with
  | zero => exact Within.rfl
  | succ n ih =>
    unfold formWaiting
    repeat' first
      | with_reducible apply Within.rfl | with_reducible assumption | exact rfl | with_reducible apply Within.after (ih _)
      | with_reducible apply modCry_within | with_reducible apply Within.after (formIn_within _ _) | split
      | with_reducible refine Within.after (OptW.of (makeRoom_within _) (by with_reducible assumption)) ?_ ?_

theorem tagAll_within (s : State) : Within { hostq := true, mp := true, cry := true, slots := true, mnt := true, vault := true }
    s (tagAll s) := by
  unfold tagAll
  repeat' first
    | with_reducible apply Within.rfl | with_reducible assumption | exact rfl
    | (extract_lets -underBinder -merge -useContext +onlyGivenNames x; refine Within.cut x (fun hx => ?_) ?_; (on_goal 1 => clear_value x); (on_goal 2 => (unfold x; clear x)))
    | with_reducible apply Within.ite | with_reducible apply Within.after (tagLoop_within _ _)
    | with_reducible apply Within.after (formWaiting_within _ _)

theorem writeSherd_within (d : List Byte) (s : State) : Within
    { hostq := true, mp := true, cry := true, slots := true, mnt := true, vault := true } s (writeSherd d s) := by
  unfold writeSherd
  repeat' first
    | with_reducible apply Within.rfl | with_reducible assumption | exact rfl | with_reducible apply Within.ite
    | with_reducible apply Within.after (emit_within _ _) | with_reducible apply Within.after (tagAll_within _)
    | with_reducible apply Within.after (form_within _ _) | with_reducible apply Within.after (coverRun_within _)

theorem opSherd_within (type ctx : Nat) (start stop : DT) (payload : List Byte) (s : State) : Within
    { hostq := true, mp := true, cry := true, slots := true, mnt := true, vault := true } s (opSherd type ctx start stop payload
    s) := by
  unfold opSherd
  repeat' first
    | with_reducible apply Within.rfl | with_reducible assumption | exact rfl
    | with_reducible apply Within.after (writeSherd_within _ _)

theorem evSherd_within (type ctx : Nat) (res : List Byte) (s : State) : Within
    { hostq := true, mp := true, cry := true, slots := true, mnt := true, vault := true } s (evSherd type ctx res s) := by
  unfold evSherd
  repeat' first
    | with_reducible apply Within.rfl | with_reducible assumption | exact rfl
    | with_reducible apply Within.after (opSherd_within _ _ _ _ _ _)

theorem faultSherd_within (row obj : Nat) (detected recovered : DT) (s : State) : Within
    { hostq := true, mp := true, cry := true, slots := true, mnt := true, vault := true } s (faultSherd row obj detected
    recovered s) := by
  unfold faultSherd
  repeat' first
    | with_reducible apply Within.rfl | with_reducible assumption | exact rfl
    | with_reducible apply Within.after (opSherd_within _ _ _ _ _ _)

theorem gapSherd_within (cause obj ctx count : Nat) (first last : Int) (start stop : DT) (s : State) : Within
    { hostq := true, mp := true, cry := true, slots := true, mnt := true, vault := true } s (gapSherd cause obj ctx count first
    last start stop s) := by
  unfold gapSherd
  repeat' first
    | with_reducible apply Within.rfl | with_reducible assumption | exact rfl
    | with_reducible apply Within.after (opSherd_within _ _ _ _ _ _)

theorem legalSherd_within (type ctx : Nat) (start stop : DT) (payload : List Byte) (notLegal : Bool) (s : State) : Within
    { hostq := true, mp := true, sg := true, slots := true } s (legalSherd type ctx start stop payload notLegal s) := by
  unfold legalSherd
  repeat' first
    | with_reducible apply Within.rfl | with_reducible assumption | exact rfl
    | (extract_lets -underBinder -merge -useContext +onlyGivenNames x; refine Within.cut x (fun hx => ?_) ?_; (on_goal 1 => clear_value x); (on_goal 2 => (unfold x; clear x)))
    | (extract_lets -underBinder -merge -useContext +onlyGivenNames x; clear_value x) | with_reducible apply modSg_within
    | with_reducible apply Within.after (gapRecorded_within _ _ _ _) | with_reducible apply Within.after (post_within _ _ _)

theorem legalFault_within (touched : Bool) (row obj : Nat) (detected recovered : DT) (s : State) : Within
    { hostq := true, mp := true, sg := true, slots := true } s (legalFault touched row obj detected recovered s) := by
  unfold legalFault
  repeat' first
    | with_reducible apply Within.rfl | with_reducible assumption | exact rfl | with_reducible apply Within.ite
    | with_reducible apply Within.after (legalSherd_within _ _ _ _ _ _ _)

theorem lossGap_within (l : List (Nat × Nat)) (s : State) : Within
    { hostq := true, mp := true, cry := true, slots := true, mnt := true, vault := true } s (lossGap l s) := by
  unfold lossGap
  repeat' first
    | with_reducible apply Within.rfl | with_reducible assumption | exact rfl
    | (extract_lets -underBinder -merge -useContext +onlyGivenNames x; clear_value x) | with_reducible apply Within.ite
    | with_reducible apply Within.after (opSherd_within _ _ _ _ _ _)

theorem closeEpisode_within (c : Fin 4) (s : State) : Within
    { hostq := true, mp := true, cry := true, slots := true, mnt := true, vault := true } s (closeEpisode c s) := by
  unfold closeEpisode
  repeat' first
    | with_reducible apply Within.rfl | with_reducible assumption | exact rfl
    | (extract_lets -underBinder -merge -useContext +onlyGivenNames x; clear_value x) | with_reducible apply Within.ite
    | with_reducible apply Within.after (lossGap_within _ _) | with_reducible apply Within.after (modRing_within _ _ _)

theorem flushStage_within (c : Fin 4) (s : State) : Within
    { hostq := true, mp := true, cry := true, slots := true, mnt := true, vault := true } s (flushStage c s) := by
  unfold flushStage
  repeat' first
    | with_reducible apply Within.rfl | with_reducible assumption | exact rfl
    | (extract_lets -underBinder -merge -useContext +onlyGivenNames x; refine Within.cut x (fun hx => ?_) ?_; (on_goal 1 => clear_value x); (on_goal 2 => (unfold x; clear x)))
    | with_reducible apply Within.after (closeEpisode_within _ _) | with_reducible apply Within.after (unstage_within _ _ _)

end Sys2Proof.Machine
end

