-- ==== Sys2Proof/Laws/HostCmd.lean ====
section
/-!
SUPPORT. Laws/HostCmd.lean: what each operation of Machine/HostCmd.lean leaves as it was.
-/
namespace Sys2Proof.Machine

theorem park_within (h : Held) (l : List Int) (s : State) : Within { hostq := true } s (park h l s) := by
  unfold park
  repeat' first
    | with_reducible apply Within.rfl | with_reducible assumption | exact rfl
    | with_reducible apply Within.after (modHeld_within _ _ _)

theorem takeTurn_within (src : Source) (s : State) : Within { hostq := true } s (takeTurn src s) := by
  unfold takeTurn
  repeat' first
    | with_reducible apply Within.rfl | with_reducible assumption | exact rfl | with_reducible apply Within.ite
    | with_reducible apply modHost_within | exact .inl rfl | exact .inr fun _ => rfl | exact fun _ b => b | split

theorem fetch_within (op : Nat) (e : Entry) (s : State) : OptW { hostq := true, mp := true } s (fetch op e s) := by
  unfold fetch
  repeat' first
    | with_reducible apply Within.rfl | with_reducible assumption | exact rfl | with_reducible apply OptW.ite
    | with_reducible apply Within.ite | with_reducible apply optW_none | with_reducible apply optW_some
    | with_reducible apply modMp_within | with_reducible apply Within.after (settle_within _ _ _)
    | with_reducible apply Within.after (post_within _ _ _) | with_reducible apply Within.after (modPairq_within _ _ _)
    | with_reducible apply Within.after (takeTurn_within _ _) | split

theorem hold_within (op : Nat) (cmd : Instr) (e : Entry) (s : State) : PairW { hostq := true } s (hold op cmd e s) := by
  unfold hold
  repeat' first
    | with_reducible apply Within.rfl | with_reducible assumption | exact rfl
    | (extract_lets -underBinder -merge -useContext +onlyGivenNames x; clear_value x) | with_reducible apply modHost_within
    | exact .inl rfl | exact .inr fun _ => rfl | exact fun _ b => b | with_reducible apply pairW_mk

theorem forward_within (h : Held) (s : State) : Within { hostq := true } s (forward h s) := by
  unfold forward
  repeat' first
    | with_reducible apply Within.rfl | with_reducible assumption | exact rfl
    | with_reducible apply Within.after (note_within _ _ _) | with_reducible apply Within.after (emit_within _ _)

/-- Beginning a command changes what its own meaning changes, and what completing it does. -/
theorem start_within {m : Parts} (c : Spec) {body : Held → State → State} (h : Held) (s : State)
    (hm : Parts.sub { hostq := true, mp := true, slots := true } m = true) (hb : ∀ h s, Within m s (body h s)) :
    Within m s (start c body h s) := by
  unfold start
  refine Within.ite ((reject_within _ _ _).widen hm) (Within.ite ((forward_within _ _).widen ?_) (hb h s))
  simp only [Parts.sub, Bool.and_eq_true, Bool.or_eq_true, Bool.not_eq_true'] at hm ⊢
  simp_all


theorem shieldCopy_within (op : Nat) (e : Entry) (s : State) : Within {} s (shieldCopy op e s) := by
  unfold shieldCopy
  repeat' first
    | with_reducible apply Within.rfl | with_reducible assumption | exact rfl | with_reducible apply Within.ite
    | with_reducible apply Within.after (emit_within _ _)

/-- Running a host command changes what its own meaning changes, and what fetching, time and completing do. -/
theorem hostCmd_within {m : Parts} (cmd : Instr) (c : Spec) {body : Held → State → State} (e : Entry) (s : State)
    (hm : Parts.sub { hostq := true, dt := true, due := true, mp := true, slots := true } m = true)
    (hb : ∀ h s, Within m s (body h s)) : Within m s (hostCmd cmd c body e s) := by
  have hf : Parts.sub { hostq := true, mp := true, slots := true } m = true := by
    simp only [Parts.sub, Bool.and_eq_true, Bool.or_eq_true, Bool.not_eq_true'] at hm ⊢
    simp_all
  have hq : Parts.sub { hostq := true } m = true := by
    simp only [Parts.sub, Bool.and_eq_true, Bool.or_eq_true, Bool.not_eq_true'] at hm ⊢
    simp_all
  have hp : Parts.sub { hostq := true, mp := true } m = true := by
    simp only [Parts.sub, Bool.and_eq_true, Bool.or_eq_true, Bool.not_eq_true'] at hm ⊢
    simp_all
  have ht : Parts.sub { hostq := true, dt := true, due := true } m = true := by
    simp only [Parts.sub, Bool.and_eq_true, Bool.or_eq_true, Bool.not_eq_true'] at hm ⊢
    simp_all
  unfold hostCmd
  split
  · have r : Within m s (modHost (fun x => { x with resuming := none }) s) := by
      refine Within.widen (modHost_within (m := { hostq := true }) _ (.inl rfl) (.inr fun _ => rfl) ?_ .rfl) hq
      exact fun _ b => b
    dsimp only
    split
    · exact r.trans (start_within _ _ _ hf hb)
    · exact r
  · have k := (moment_within e.t s).widen ht
    dsimp only
    split
    · exact k
    · rename_i s1 e1
      have k1 := (k.trans (((fetch_within _ _ _).of e1).widen hp)).trans ((shieldCopy_within c.op e s1).widen (by simp [Parts.sub]))
      have k2 := k1.trans ((hold_within c.op cmd e (shieldCopy c.op e s1)).snd.widen hq)
      split
      · exact k2.trans ((fail_within _ _ _ _ _).widen hf)
      · exact Within.ite k2 (k2.trans (start_within _ _ _ hf hb))


theorem resumeHeld_within (h : Held) (s : State) : Within { hostq := true } s (resumeHeld h s) := by
  unfold resumeHeld
  repeat' first
    | with_reducible apply Within.rfl | with_reducible assumption | exact rfl | with_reducible apply modHost_within
    | exact .inl rfl | exact .inr fun _ => rfl | exact fun _ b => b

theorem finishStaged_within (h : Held) (s : State) : Within { hostq := true, mp := true, slots := true } s (finishStaged h s) :=
    by
  unfold finishStaged
  repeat' first
    | with_reducible apply Within.rfl | with_reducible assumption | exact rfl
    | with_reducible apply Within.after (finishC_within _ _)

theorem finishAllC_within (hs : List Held) (s : State) : Within { hostq := true, mp := true, slots := true } s (finishAllC hs s)
    := by
  unfold finishAllC
  repeat' first
    | with_reducible apply Within.rfl | with_reducible assumption | exact rfl
    | (with_reducible apply Within.foldl; on_goal 1 => (intro _ _)) | with_reducible apply Within.after (finishC_within _ _)

end Sys2Proof.Machine
end

