-- ==== Sys2Proof/Laws/Kiln.lean ====
section
/-!
SUPPORT. Laws/Kiln.lean: what each operation of Machine/Kiln.lean leaves as it was.
-/
namespace Sys2Proof.Machine

theorem modFiring_within (a o : Nat) (f : Firing → Firing) (s : State) : Within { mnt := true } s (modFiring a o f s) := by
  unfold modFiring
  repeat' first
    | with_reducible apply Within.rfl | with_reducible assumption | exact rfl | with_reducible apply Within.ite
    | with_reducible apply modMnt_within

theorem restartPeriod_within (a : Fin 9) (o : Nat) (t : DT) (s : State) : Within { mnt := true } s (restartPeriod a o t s) := by
  unfold restartPeriod
  repeat' first
    | with_reducible apply Within.rfl | with_reducible assumption | exact rfl
    | with_reducible apply Within.after (modFiring_within _ _ _ _)

theorem calResult_within (a o : Nat) (st : BitVec 16) (q flags : Nat) (value : Int) (s : State) : Within
    { hostq := true, mp := true, slots := true } s (calResult a o st q flags value s) := by
  unfold calResult
  repeat' first
    | with_reducible apply Within.rfl | with_reducible assumption | exact rfl
    | with_reducible apply Within.after (raise_within _ _ _)

theorem endJoined_within (ids : List Nat) (st : Status) (q : Nat) (s : State) : Within
    { hostq := true, mp := true, slots := true } s (endJoined ids st q s) := by
  unfold endJoined
  repeat' first
    | with_reducible apply Within.rfl | with_reducible assumption | exact rfl
    | (with_reducible apply Within.foldl; on_goal 1 => (intro _ _)) | with_reducible apply Within.ite
    | with_reducible apply Within.after (dropHeld_within _ _) | with_reducible apply Within.after (finish_within _ _ _ _)
    | split

theorem freeFiringSlip_within (a : Nat) (s : State) : Within { slip := true } s (freeFiringSlip a s) := by
  unfold freeFiringSlip
  repeat' first
    | with_reducible apply Within.rfl | with_reducible assumption | exact rfl | with_reducible apply Within.ite
    | with_reducible apply Within.after (modSlip_within _ _)

theorem abandonFiring_within (a o : Nat) (tell : Option Status) (s : State) : Within
    { hostq := true, slip := true, mp := true, slots := true, mnt := true } s (abandonFiring a o tell s) := by
  unfold abandonFiring
  repeat' first
    | with_reducible apply Within.rfl | with_reducible assumption | exact rfl
    | (extract_lets -underBinder -merge -useContext +onlyGivenNames x; refine Within.cut x (fun hx => ?_) ?_; (on_goal 1 => clear_value x); (on_goal 2 => (unfold x; clear x)))
    | (extract_lets -underBinder -merge -useContext +onlyGivenNames x; clear_value x) | with_reducible apply Within.ite
    | with_reducible apply Within.after (freeFiringSlip_within _ _) | with_reducible apply Within.after (modFiring_within _ _ _ _)
    | with_reducible apply Within.after (endJoined_within _ _ _ _)
    | with_reducible apply Within.after (calResult_within _ _ _ _ _ _ _) | split

theorem abandonTunerFirings_within (n : Fin 4) (tell : Option Status) (s : State) : Within
    { hostq := true, slip := true, mp := true, slots := true, mnt := true } s (abandonTunerFirings n tell s) := by
  unfold abandonTunerFirings
  repeat' first
    | with_reducible apply Within.rfl | with_reducible assumption | exact rfl
    | with_reducible apply Within.after (abandonFiring_within _ _ _ _)

end Sys2Proof.Machine
end

