-- ==== Sys2Proof/Laws/Paths.lean ====
section
/-!
SUPPORT. Laws/Paths.lean: what each operation of Machine/Paths.lean leaves as it was.
-/
namespace Sys2Proof.Machine

theorem settlePath_within (p : Fin 64) (n : Nat) (s : State) : Within { hostq := true, due := true, paths := true } s
    (settlePath p n s) := by
  unfold settlePath
  repeat' first
    | with_reducible apply Within.rfl | with_reducible assumption | exact rfl
    | (extract_lets -underBinder -merge -useContext +onlyGivenNames x; clear_value x)
    | with_reducible apply Within.after (modPath_within _ _ _) | with_reducible apply Within.after (settle_within _ _ _)
    | with_reducible apply Within.after (post_within _ _ _)

theorem deliverIntervals_within (p : Fin 64) (n : Nat) (s : State) : Within { hostq := true, due := true, paths := true } s
    (deliverIntervals p n s) := by
  unfold deliverIntervals
  repeat' first
    | with_reducible apply Within.rfl | with_reducible assumption | exact rfl
    | with_reducible apply Within.after (modPath_within _ _ _) | with_reducible apply Within.after (settlePath_within _ _ _)

theorem closeGap_within (p : Fin 64) (n : Nat) (last : DT) (s : State) : Within
    { hostq := true, due := true, paths := true, mp := true, cry := true, slots := true, mnt := true, vault := true } s
    (closeGap p n last s) := by
  unfold closeGap
  repeat' first
    | with_reducible apply Within.rfl | with_reducible assumption | exact rfl
    | (extract_lets -underBinder -merge -useContext +onlyGivenNames x; clear_value x)
    | with_reducible apply Within.after (gapSherd_within _ _ _ _ _ _ _ _ _)
    | with_reducible apply Within.after (modPath_within _ _ _) | with_reducible apply Within.after (settlePath_within _ _ _)
    | split

theorem endSwaps_within (p : Fin 64) (s : State) : Within
    { hostq := true, due := true, paths := true, mp := true, slots := true } s (endSwaps p s) := by
  unfold endSwaps
  repeat' first
    | with_reducible apply Within.rfl | with_reducible assumption | exact rfl
    | (extract_lets -underBinder -merge -useContext +onlyGivenNames x; clear_value x)
    | with_reducible apply Within.after (finishAll_within _ _ _ _) | with_reducible apply Within.after (modPath_within _ _ _)

theorem loseSignal_within (p : Fin 64) (s : State) : Within { ctxs := true } s (loseSignal p s) := by
  unfold loseSignal
  repeat' first
    | with_reducible apply Within.rfl | with_reducible assumption | exact rfl | with_reducible apply Within.ite
    | with_reducible apply Within.after (modCtx_within _ _ _) | split

theorem holdPath_within (p : Fin 64) (s : State) : Within { hostq := true, due := true, paths := true, ctxs := true } s
    (holdPath p s) := by
  unfold holdPath
  repeat' first
    | with_reducible apply Within.rfl | with_reducible assumption | exact rfl | with_reducible apply Within.ite
    | with_reducible apply Within.after (loseSignal_within _ _) | with_reducible apply Within.after (accrue_within _)
    | with_reducible apply Within.after (modPath_within _ _ _)

theorem restartMpx_within (p : Fin 64) (s : State) : Within { ctxs := true } s (restartMpx p s) := by
  unfold restartMpx
  repeat' first
    | with_reducible apply Within.rfl | with_reducible assumption | exact rfl | with_reducible apply Within.ite
    | with_reducible apply Within.after (modCtx_within _ _ _) | split

theorem setPhase_within (p : Fin 64) (s : State) : Within { due := true, paths := true } s (setPhase p s) := by
  unfold setPhase
  repeat' first
    | with_reducible apply Within.rfl | with_reducible assumption | exact rfl | with_reducible apply Within.after (useFree_within _)
    | with_reducible apply Within.after (modPath_within _ _ _)

theorem gridPhase_within (p : Fin 64) (s : State) : Within { due := true, paths := true } s (gridPhase p s) := by
  unfold gridPhase
  repeat' first
    | with_reducible apply Within.rfl | with_reducible assumption | exact rfl | with_reducible apply Within.ite
    | with_reducible apply Within.after (setPhase_within _ _) | split

theorem resetPath_within (p : Fin 64) (s : State) : Within
    { hostq := true, due := true, paths := true, ctxs := true, mp := true, slots := true } s (resetPath p s) := by
  unfold resetPath
  repeat' first
    | with_reducible apply Within.rfl | with_reducible assumption | exact rfl
    | (extract_lets -underBinder -merge -useContext +onlyGivenNames x; refine Within.cut x (fun hx => ?_) ?_; (on_goal 1 => clear_value x); (on_goal 2 => (unfold x; clear x)))
    | (extract_lets -underBinder -merge -useContext +onlyGivenNames x; clear_value x) | with_reducible apply Within.ite
    | with_reducible apply Within.after (gridPhase_within _ _) | with_reducible apply Within.after (restartMpx_within _ _)
    | with_reducible apply Within.after (loseSignal_within _ _) | with_reducible apply Within.after (accrue_within _)
    | with_reducible apply Within.after (endSwaps_within _ _) | with_reducible apply Within.after (modPath_within _ _ _)

theorem takeLength_within (p : Fin 64) (s : State) : Within { due := true, paths := true } s (takeLength p s) := by
  unfold takeLength
  repeat' first
    | with_reducible apply Within.rfl | with_reducible assumption | exact rfl
    | (extract_lets -underBinder -merge -useContext +onlyGivenNames x; refine Within.cut x (fun hx => ?_) ?_; (on_goal 1 => clear_value x); (on_goal 2 => (unfold x; clear x)))
    | (extract_lets -underBinder -merge -useContext +onlyGivenNames x; clear_value x) | with_reducible apply Within.ite
    | with_reducible apply Within.after (modPath_within _ _ _) | split

theorem resumePath_within (p : Fin 64) (s : State) : Within
    { hostq := true, due := true, paths := true, ctxs := true, mp := true, slots := true } s (resumePath p s) := by
  unfold resumePath
  repeat' first
    | with_reducible apply Within.rfl | with_reducible assumption | exact rfl | with_reducible apply Within.ite
    | with_reducible apply Within.after (resetPath_within _ _) | with_reducible apply Within.after (modPath_within _ _ _)
    | with_reducible apply Within.after (takeLength_within _ _)

theorem closePath_within (p : Fin 64) (s : State) : Within
    { hostq := true, due := true, paths := true, mp := true, cry := true, slots := true, mnt := true, vault := true } s
    (closePath p s) := by
  unfold closePath
  repeat' first
    | with_reducible apply Within.rfl | with_reducible assumption | exact rfl
    | (extract_lets -underBinder -merge -useContext +onlyGivenNames x; refine Within.cut x (fun hx => ?_) ?_; (on_goal 1 => clear_value x); (on_goal 2 => (unfold x; clear x)))
    | (extract_lets -underBinder -merge -useContext +onlyGivenNames x; clear_value x) | with_reducible apply Within.ite
    | with_reducible apply Within.after (finishAll_within _ _ _ _) | with_reducible apply Within.after (accrue_within _)
    | with_reducible apply Within.after (closeGap_within _ _ _ _) | with_reducible apply Within.after (settlePath_within _ _ _)
    | with_reducible apply Within.after (modPath_within _ _ _)

theorem dropPath_within (p : Fin 64) (s : State) : Within
    { hostq := true, due := true, paths := true, mp := true, slots := true } s (dropPath p s) := by
  unfold dropPath
  repeat' first
    | with_reducible apply Within.rfl | with_reducible assumption | exact rfl
    | (extract_lets -underBinder -merge -useContext +onlyGivenNames x; refine Within.cut x (fun hx => ?_) ?_; (on_goal 1 => clear_value x); (on_goal 2 => (unfold x; clear x)))
    | with_reducible apply Within.after (finishAll_within _ _ _ _) | with_reducible apply Within.after (modPath_within _ _ _)
    | with_reducible apply Within.after (settlePath_within _ _ _)

theorem migrate_within (c : Fin 64) (w : Fin 16) (reason : Nat) (s : State) : Within
    { hostq := true, ctxs := true, mp := true, slots := true } s (migrate c w reason s) := by
  unfold migrate
  repeat' first
    | with_reducible apply Within.rfl | with_reducible assumption | exact rfl
    | (extract_lets -underBinder -merge -useContext +onlyGivenNames x; refine Within.cut x (fun hx => ?_) ?_; (on_goal 1 => clear_value x); (on_goal 2 => (unfold x; clear x)))
    | (extract_lets -underBinder -merge -useContext +onlyGivenNames x; clear_value x) | with_reducible apply Within.ite
    | with_reducible apply Within.after (modCtx_within _ _ _) | with_reducible apply Within.after (raiseAt_within _ _ _ _)

theorem regrow_within (c : Fin 64) (old s : State) : OptW { hostq := true, ctxs := true, mp := true, slots := true } s (regrow c old s) := by
  unfold regrow
  exact OptW.ite (optW_some .rfl) (optW_map fun w => migrate_within _ _ _ _)


theorem beginChange_within (n : Fin 4) (cmd ctx : Option Nat) (s : State) : Within
    { hostq := true, tuners := true, slip := true, due := true, paths := true, ctxs := true, mp := true, slots := true, mnt := true }
    s (beginChange n cmd ctx s) := by
  unfold beginChange
  repeat' first
    | with_reducible apply Within.rfl | with_reducible assumption | exact rfl
    | (with_reducible apply Within.foldl; on_goal 1 => (intro _ _))
    | (extract_lets -underBinder -merge -useContext +onlyGivenNames x; refine Within.cut x (fun hx => ?_) ?_; (on_goal 1 => clear_value x); (on_goal 2 => (unfold x; clear x)))
    | (extract_lets -underBinder -merge -useContext +onlyGivenNames x; clear_value x) | with_reducible apply Within.ite
    | with_reducible apply Within.after (abandonTunerFirings_within _ _ _) | with_reducible apply Within.after (holdPath_within _ _)
    | with_reducible apply Within.after (modTuner_within _ _ _) | split

theorem commitTuner_within (n : Fin 4) (set : FieldSet) (s : State) : Within { tuners := true } s (commitTuner n set s) := by
  unfold commitTuner
  repeat' first
    | with_reducible apply Within.rfl | with_reducible assumption | exact rfl
    | with_reducible apply Within.after (modTuner_within _ _ _)

theorem tuneFor_within (n : Fin 4) (freq half : Nat) (ctx : Nat) (s : State) : Within
    { hostq := true, tuners := true, slip := true, due := true, paths := true, ctxs := true, mp := true, slots := true, mnt := true }
    s (tuneFor n freq half ctx s) := by
  unfold tuneFor
  repeat' first
    | with_reducible apply Within.rfl | with_reducible assumption | exact rfl
    | with_reducible apply Within.after (beginChange_within _ _ _ _)
    | with_reducible apply Within.after (commitTuner_within _ _ _)

theorem releaseTuner_within (src : Nat) (s : State) : Within { tuners := true } s (releaseTuner src s) := by
  unfold releaseTuner
  repeat' first
    | with_reducible apply Within.rfl | with_reducible assumption | exact rfl
    | (extract_lets -underBinder -merge -useContext +onlyGivenNames x; refine Within.cut x (fun hx => ?_) ?_; (on_goal 1 => clear_value x); (on_goal 2 => (unfold x; clear x)))
    | (extract_lets -underBinder -merge -useContext +onlyGivenNames x; clear_value x) | with_reducible apply Within.ite
    | with_reducible apply Within.after (modTuner_within _ _ _) | split

theorem openPath_within (p : Fin 64) (c : Fin 64) (src freq : Nat) (cfg : FieldSet) (s : State) : Within
    { due := true, paths := true } s (openPath p c src freq cfg s) := by
  unfold openPath
  repeat' first
    | with_reducible apply Within.rfl | with_reducible assumption | exact rfl
    | (extract_lets -underBinder -merge -useContext +onlyGivenNames x; refine Within.cut x (fun hx => ?_) ?_; (on_goal 1 => clear_value x); (on_goal 2 => (unfold x; clear x)))
    | (extract_lets -underBinder -merge -useContext +onlyGivenNames x; clear_value x) | with_reducible apply Within.ite
    | with_reducible apply Within.after (modPath_within _ _ _)

theorem boundTrim_within (p : Fin 64) (s : State) : Within { due := true, paths := true } s (boundTrim p s) := by
  unfold boundTrim
  repeat' first
    | with_reducible apply Within.rfl | with_reducible assumption | exact rfl
    | with_reducible apply Within.after (modPath_within _ _ _)

theorem dropBranch_within (c : Fin 64) (s : State) : Within
    { hostq := true, tuners := true, due := true, paths := true, ctxs := true, mp := true, cry := true, slots := true, mnt := true, vault := true }
    s (dropBranch c s) := by
  unfold dropBranch
  repeat' first
    | with_reducible apply Within.rfl | with_reducible assumption | exact rfl
    | (extract_lets -underBinder -merge -useContext +onlyGivenNames x; refine Within.cut x (fun hx => ?_) ?_; (on_goal 1 => clear_value x); (on_goal 2 => (unfold x; clear x)))
    | (extract_lets -underBinder -merge -useContext +onlyGivenNames x; clear_value x)
    | with_reducible apply Within.after (releaseTuner_within _ _) | with_reducible apply Within.after (closePath_within _ _)
    | with_reducible apply Within.after (modCtx_within _ _ _) | split

theorem attachBranch_within (c : Fin 64) (role : Branch) (divSource : Nat) (s : State) : OptW
    { hostq := true, tuners := true, slip := true, due := true, paths := true, ctxs := true, mp := true, slots := true, mnt := true } s (attachBranch c role divSource s) := by
  have e (a : Option (Fin 64)) (b : Option Nat) (f : Fin 64 → Nat → Option State)
      (h : ∀ p src, OptW { hostq := true, tuners := true, slip := true, due := true, paths := true, ctxs := true, mp := true, slots := true, mnt := true } s (f p src)) :
      OptW { hostq := true, tuners := true, slip := true, due := true, paths := true, ctxs := true, mp := true, slots := true, mnt := true } s
        (match a, b with | some p, some src => f p src | _, _ => none) := by
    cases a <;> cases b <;> first | exact optW_none | exact h _ _
  unfold attachBranch
  refine e _ _ _ fun p src => ?_
  extract_lets x t
  have ht : Within { hostq := true, tuners := true, slip := true, due := true, paths := true, ctxs := true, mp := true, slots := true, mnt := true } s t :=
    (modCtx_within _ _ _).widen rfl
  clear_value t
  split
  swap
  · exact optW_none
  rename_i u k
  have hu := ht.trans ((regrow_within _ _ _ u k).widen (m := { hostq := true, tuners := true, slip := true, due := true, paths := true, ctxs := true, mp := true, slots := true, mnt := true }) rfl)
  refine optW_some (Within.after (boundTrim_within _ _) rfl (Within.after (openPath_within _ _ _ _ _ _) rfl ?_))
  cases srcTuner src with
  | none => exact hu
  | some n => exact Within.after (tuneFor_within _ _ _ _ _) rfl hu


theorem rebind_within (p : Fin 64) (src freq : Nat) (s : State) : Within { due := true, paths := true, ctxs := true } s (rebind
    p src freq s) := by
  unfold rebind
  repeat' first
    | with_reducible apply Within.rfl | with_reducible assumption | exact rfl
    | (extract_lets -underBinder -merge -useContext +onlyGivenNames x; refine Within.cut x (fun hx => ?_) ?_; (on_goal 1 => clear_value x); (on_goal 2 => (unfold x; clear x)))
    | (extract_lets -underBinder -merge -useContext +onlyGivenNames x; clear_value x) | with_reducible apply Within.ite
    | with_reducible apply Within.after (modPath_within _ _ _) | with_reducible apply Within.after (modCtx_within _ _ _) | split

theorem seekFailover_within (c : Fin 64) (s : State) : Within
    { hostq := true, tuners := true, slip := true, due := true, paths := true, ctxs := true, mp := true, slots := true, mnt := true } s (seekFailover c s) := by
  unfold seekFailover
  refine Within.ite ?_ .rfl
  split
  · exact attachBranch_within _ _ _ _ _ (by assumption)
  · exact (modCtx_within _ _ _).widen rfl


theorem rebranch_within (c : Fin 64) (s : State) : Within
    { hostq := true, tuners := true, slip := true, due := true, paths := true, ctxs := true, mp := true, slots := true, mnt := true }
    s (rebranch c s) := by
  unfold rebranch
  repeat' first
    | with_reducible apply Within.rfl | with_reducible assumption | exact rfl
    | (extract_lets -underBinder -merge -useContext +onlyGivenNames x; refine Within.cut x (fun hx => ?_) ?_; (on_goal 1 => clear_value x); (on_goal 2 => (unfold x; clear x)))
    | (extract_lets -underBinder -merge -useContext +onlyGivenNames x; clear_value x) | with_reducible apply Within.ite
    | with_reducible apply Within.after (seekFailover_within _ _) | split
    | with_reducible refine Within.after (OptW.of (attachBranch_within _ _ _ _) (by with_reducible assumption)) ?_ ?_

theorem recheckBranch_within (c : Fin 64) (s : State) : Within
    { hostq := true, tuners := true, slip := true, due := true, paths := true, ctxs := true, mp := true, cry := true, slots := true, mnt := true, vault := true }
    s (recheckBranch c s) := by
  unfold recheckBranch
  repeat' first
    | with_reducible apply Within.rfl | with_reducible assumption | exact rfl | with_reducible apply Within.ite
    | with_reducible apply Within.after (rebranch_within _ _) | with_reducible apply Within.after (dropBranch_within _ _) | split

theorem holdCtx_within (c : Fin 64) (s : State) : Within { ctxs := true, audio := true } s (holdCtx c s) := by
  unfold holdCtx
  repeat' first
    | with_reducible apply Within.rfl | with_reducible assumption | exact rfl
    | (with_reducible apply Within.foldl; on_goal 1 => (intro _ _))
    | (extract_lets -underBinder -merge -useContext +onlyGivenNames x; refine Within.cut x (fun hx => ?_) ?_; (on_goal 1 => clear_value x); (on_goal 2 => (unfold x; clear x)))
    | (extract_lets -underBinder -merge -useContext +onlyGivenNames x; clear_value x) | with_reducible apply Within.ite
    | with_reducible apply Within.after (modCtx_within _ _ _) | with_reducible apply Within.after (modSvc_within _ _ _)

theorem leaveHold_within (c : Fin 64) (s : State) : Within { ctxs := true, audio := true } s (leaveHold c s) := by
  unfold leaveHold
  repeat' first
    | with_reducible apply Within.rfl | with_reducible assumption | exact rfl
    | (with_reducible apply Within.foldl; on_goal 1 => (intro _ _)) | with_reducible apply Within.ite
    | with_reducible apply Within.after (modSvc_within _ _ _) | with_reducible apply Within.after (modCtx_within _ _ _)

theorem failover_within (c : Fin 64) (s : State) : Within
    { hostq := true, tuners := true, slip := true, due := true, paths := true, ctxs := true, audio := true, mp := true, sg := true, cry := true, slots := true, mnt := true, vault := true }
    s (failover c s) := by
  unfold failover
  repeat' first
    | with_reducible apply Within.rfl | with_reducible assumption | exact rfl
    | (extract_lets -underBinder -merge -useContext +onlyGivenNames x; refine Within.cut x (fun hx => ?_) ?_; (on_goal 1 => clear_value x); (on_goal 2 => (unfold x; clear x)))
    | (extract_lets -underBinder -merge -useContext +onlyGivenNames x; clear_value x) | with_reducible apply Within.ite
    | with_reducible apply modSg_within | with_reducible apply Within.after (modCtx_within _ _ _)
    | with_reducible apply Within.after (closePath_within _ _) | with_reducible apply Within.after (dropPath_within _ _)
    | with_reducible apply Within.after (leaveHold_within _ _) | with_reducible apply Within.after (evSherd_within _ _ _ _)
    | with_reducible apply Within.after (raiseAt_within _ _ _ _) | with_reducible apply Within.after (seekFailover_within _ _)
    | with_reducible apply Within.after (releaseTuner_within _ _) | split

theorem loseSource_within (p : Fin 64) (s : State) : Within
    { hostq := true, tuners := true, slip := true, due := true, paths := true, ctxs := true, audio := true, mp := true, sg := true, cry := true, slots := true, mnt := true, vault := true }
    s (loseSource p s) := by
  unfold loseSource
  repeat' first
    | with_reducible apply Within.rfl | with_reducible assumption | exact rfl
    | (extract_lets -underBinder -merge -useContext +onlyGivenNames x; refine Within.cut x (fun hx => ?_) ?_; (on_goal 1 => clear_value x); (on_goal 2 => (unfold x; clear x)))
    | (extract_lets -underBinder -merge -useContext +onlyGivenNames x; clear_value x) | with_reducible apply Within.ite
    | with_reducible apply Within.after (failover_within _ _) | with_reducible apply Within.after (holdCtx_within _ _)
    | with_reducible apply Within.after (holdPath_within _ _) | with_reducible apply Within.after (modCtx_within _ _ _) | split

theorem holdAll_within (s : State) : Within { hostq := true, due := true, paths := true, ctxs := true, audio := true } s
    (holdAll s) := by
  unfold holdAll
  repeat' first
    | with_reducible apply Within.rfl | with_reducible assumption | exact rfl
    | (with_reducible apply Within.foldl; on_goal 1 => (intro _ _)) | with_reducible apply Within.ite
    | with_reducible apply Within.after (holdPath_within _ _) | with_reducible apply Within.after (holdCtx_within _ _)

theorem reSource_within (c : Fin 64) (s : State) : Within
    { hostq := true, tuners := true, slip := true, due := true, paths := true, ctxs := true, mp := true, cry := true, slots := true, mnt := true, vault := true }
    s (reSource c s) := by
  unfold reSource
  repeat' first
    | with_reducible apply Within.rfl | with_reducible assumption | exact rfl
    | (extract_lets -underBinder -merge -useContext +onlyGivenNames x; refine Within.cut x (fun hx => ?_) ?_; (on_goal 1 => clear_value x); (on_goal 2 => (unfold x; clear x)))
    | (extract_lets -underBinder -merge -useContext +onlyGivenNames x; clear_value x) | with_reducible apply Within.ite
    | with_reducible apply Within.after (tuneFor_within _ _ _ _ _) | with_reducible apply Within.after (rebind_within _ _ _ _)
    | with_reducible apply Within.after (modCtx_within _ _ _) | with_reducible apply Within.after (seekFailover_within _ _)
    | with_reducible apply Within.after (recheckBranch_within _ _) | with_reducible apply Within.after (resumePath_within _ _)
    | split

end Sys2Proof.Machine
end

