-- ==== Sys2Proof/Laws/Time.lean ====
section
/-!
SUPPORT. Laws/Time.lean: what each operation of Machine/Time.lean leaves as it was.
-/
namespace Sys2Proof.Machine

theorem tellPair_within (kind : Nat) (v : Int) (tick : DT) (s : State) : Within {} s (tellPair kind v tick s) := by
  unfold tellPair
  repeat' first
    | with_reducible apply Within.rfl | with_reducible assumption | exact rfl | with_reducible apply Within.ite
    | with_reducible apply Within.after (emit_within _ _)

theorem leaveLocked_within (s : State) : Within { clock := true, mnt := true } s (leaveLocked s) := by
  unfold leaveLocked
  repeat' first
    | with_reducible apply Within.rfl | with_reducible assumption | exact rfl | with_reducible apply Within.ite
    | with_reducible apply modTime_within | exact .inl rfl | exact .inr fun _ => rfl
    | with_reducible apply Within.after (askStore_within _ _ _)

theorem setDisc_within (d : Disc) (s : State) : Within { dt := true, clock := true, mnt := true } s (setDisc d s) := by
  unfold setDisc
  repeat' first
    | with_reducible apply Within.rfl | with_reducible assumption | exact rfl
    | (extract_lets -underBinder -merge -useContext +onlyGivenNames x; refine Within.cut x (fun hx => ?_) ?_; (on_goal 1 => clear_value x); (on_goal 2 => (unfold x; clear x)))
    | (extract_lets -underBinder -merge -useContext +onlyGivenNames x; clear_value x) | with_reducible apply Within.ite
    | with_reducible apply modTime_within | exact .inl rfl | exact .inr fun _ => rfl
    | with_reducible apply Within.after (leaveLocked_within _)

theorem enterAcquire_within (measure : Bool) (s : State) : Within { dt := true, clock := true, mnt := true } s (enterAcquire
    measure s) := by
  unfold enterAcquire
  repeat' first
    | with_reducible apply Within.rfl | with_reducible assumption | exact rfl | with_reducible apply modTime_within | exact .inl rfl
    | exact .inr fun _ => rfl | with_reducible apply Within.after (setDisc_within _ _)

theorem enterHoldover_within (s : State) : Within { dt := true, clock := true, mnt := true } s (enterHoldover s) := by
  unfold enterHoldover
  repeat' first
    | with_reducible apply Within.rfl | with_reducible assumption | exact rfl
    | (extract_lets -underBinder -merge -useContext +onlyGivenNames x; refine Within.cut x (fun hx => ?_) ?_; (on_goal 1 => clear_value x); (on_goal 2 => (unfold x; clear x)))
    | (extract_lets -underBinder -merge -useContext +onlyGivenNames x; clear_value x) | with_reducible apply modTime_within
    | exact .inl rfl | exact .inr fun _ => rfl | with_reducible apply Within.after (setDisc_within _ _)

theorem enterReturning_within (pps : Bool) (s : State) : Within { dt := true, clock := true, mnt := true } s (enterReturning pps
    s) := by
  unfold enterReturning
  repeat' first
    | with_reducible apply Within.rfl | with_reducible assumption | exact rfl | with_reducible apply modTime_within
    | exact .inl rfl | exact .inr fun _ => rfl | with_reducible apply Within.after (setDisc_within _ _)

theorem checkLocked_within (s : State) : Within { dt := true, clock := true, mnt := true } s (checkLocked s) := by
  unfold checkLocked
  repeat' first
    | with_reducible apply Within.rfl | with_reducible assumption | exact rfl | with_reducible apply Within.ite
    | with_reducible apply Within.after (setDisc_within _ _) | with_reducible apply Within.after (enterAcquire_within _ _)

theorem endSlew_within (s : State) : Within
    { hostq := true, clock := true, due := true, paths := true, port := true, mp := true, slots := true } s (endSlew s) := by
  unfold endSlew
  repeat' first
    | with_reducible apply Within.rfl | with_reducible assumption | exact rfl
    | (extract_lets -underBinder -merge -useContext +onlyGivenNames x; refine Within.cut x (fun hx => ?_) ?_; (on_goal 1 => clear_value x); (on_goal 2 => (unfold x; clear x)))
    | (extract_lets -underBinder -merge -useContext +onlyGivenNames x; clear_value x) | with_reducible apply modTime_within
    | exact .inl rfl | exact .inr fun _ => rfl | with_reducible apply Within.after (tellPair_within _ _ _ _)
    | with_reducible apply Within.after (setRate_within _ _) | with_reducible apply Within.after (finishId_within _ _ _ _) | split

theorem runSlew_within (left rate : Int) (cfgRate : Bool) (cmd : Option Nat) (s : State) : Within { hostq := true, clock := true, due := true, paths := true, port := true, mp := true, slots := true } s (runSlew left rate cfgRate cmd s) := by
  unfold runSlew
  repeat' first
    | with_reducible apply Within.rfl | with_reducible assumption | exact rfl
    | (extract_lets -underBinder -merge -useContext +onlyGivenNames x; refine Within.cut x (fun hx => ?_) ?_; (on_goal 1 => clear_value x); (on_goal 2 => (unfold x; clear x)))
    | (extract_lets -underBinder -merge -useContext +onlyGivenNames x; clear_value x) | with_reducible apply modTime_within
    | exact .inl rfl | exact .inr fun _ => rfl | with_reducible apply Within.after (setRate_within _ _)
    | with_reducible apply Within.after (finishId_within _ _ _ _) | split

theorem startSlew_within (left rate : Int) (cfgRate : Bool) (cmd : Option Nat) (s : State) : Within
    { hostq := true, clock := true, due := true, paths := true, port := true, mp := true, slots := true } s (startSlew left rate
    cfgRate cmd s) := by
  unfold startSlew
  repeat' first
    | with_reducible apply Within.rfl | with_reducible assumption | exact rfl
    | with_reducible apply Within.after (tellPair_within _ _ _ _) | with_reducible apply Within.after (runSlew_within _ _ _ _ _)

theorem decideSlew_within (left rate : Int) (cfgRate : Bool) (s : State) : Within { hostq := true, clock := true, due := true, paths := true, port := true, mp := true, slots := true } s (decideSlew left rate cfgRate s) := by
  unfold decideSlew
  repeat' first
    | with_reducible apply Within.rfl | with_reducible assumption | exact rfl
    | (extract_lets -underBinder -merge -useContext +onlyGivenNames x; refine Within.cut x (fun hx => ?_) ?_; (on_goal 1 => clear_value x); (on_goal 2 => (unfold x; clear x)))
    | (extract_lets -underBinder -merge -useContext +onlyGivenNames x; clear_value x) | with_reducible apply Within.ite
    | with_reducible apply modTime_within | exact .inl rfl | exact .inr fun _ => rfl
    | with_reducible apply Within.after (tellPair_within _ _ _ _) | with_reducible apply Within.after (startSlew_within _ _ _ _ _)

theorem applyDecided_within (s : State) : Within { hostq := true, clock := true, due := true, paths := true, port := true, mp := true, slots := true } s (applyDecided s) := by
  unfold applyDecided
  repeat' first
    | with_reducible apply Within.rfl | with_reducible assumption | exact rfl | with_reducible apply Within.ite
    | with_reducible apply Within.after (runSlew_within _ _ _ _ _) | split

theorem stepDtAs_within (dest : DT) (cause : Int) (keep : Bool) (s : State) : Within
    { hostq := true, dt := true, clock := true, due := true, paths := true, ctxs := true, audio := true, port := true, mp := true, cry := true, slots := true, mnt := true, vault := true }
    s (stepDtAs dest cause keep s) := by
  unfold stepDtAs
  repeat' first
    | with_reducible apply Within.rfl | with_reducible assumption | exact rfl
    | (extract_lets -underBinder -merge -useContext +onlyGivenNames x; refine Within.cut x (fun hx => ?_) ?_; (on_goal 1 => clear_value x); (on_goal 2 => (unfold x; clear x)))
    | (extract_lets -underBinder -merge -useContext +onlyGivenNames x; clear_value x) | with_reducible apply Within.ite
    | with_reducible apply modTime_within | with_reducible apply modCx_within | with_reducible apply modAudio_within
    | with_reducible apply modPortSt_within | exact .inl rfl | exact .inr fun _ => rfl
    | with_reducible apply Within.after (endSlew_within _) | with_reducible apply Within.after (enterAcquire_within _ _)
    | with_reducible apply Within.after (tellPair_within _ _ _ _) | with_reducible apply Within.after (raise_within _ _ _)
    | with_reducible apply Within.after (opSherd_within _ _ _ _ _ _)

theorem stepDt_within (dest : DT) (cause : Nat) (s : State) : Within
    { hostq := true, dt := true, clock := true, due := true, paths := true, ctxs := true, audio := true, port := true, mp := true, cry := true, slots := true, mnt := true, vault := true }
    s (stepDt dest cause s) := by
  unfold stepDt
  repeat' first
    | with_reducible apply Within.rfl | with_reducible assumption | exact rfl
    | with_reducible apply Within.after (stepDtAs_within _ _ _ _)

theorem corrected_within (s : State) : Within { dt := true, clock := true, mnt := true } s (corrected s) := by
  unfold corrected
  repeat' first
    | with_reducible apply Within.rfl | with_reducible assumption | exact rfl | with_reducible apply Within.ite
    | with_reducible apply Within.after (enterAcquire_within _ _)

theorem beginTimeSet_within (h : Held) (s : State) : Within { hostq := true, clock := true, due := true, paths := true, port := true, mp := true, slots := true } s (beginTimeSet h s) := by
  unfold beginTimeSet
  repeat' first
    | with_reducible apply Within.rfl | with_reducible assumption | exact rfl
    | (extract_lets -underBinder -merge -useContext +onlyGivenNames x; refine Within.cut x (fun hx => ?_) ?_; (on_goal 1 => clear_value x); (on_goal 2 => (unfold x; clear x)))
    | (extract_lets -underBinder -merge -useContext +onlyGivenNames x; clear_value x) | with_reducible apply Within.ite
    | with_reducible apply modTime_within | exact .inl rfl | exact .inr fun _ => rfl
    | with_reducible apply Within.after (park_within _ _ _) | with_reducible apply Within.after (reject_within _ _ _)
    | with_reducible apply Within.after (begin__within _ _) | with_reducible apply Within.after (startSlew_within _ _ _ _ _)

theorem execTimeSet_within (e : Entry) (s : State) : Stays { hostq := true, dt := true, clock := true, due := true, paths := true, port := true, mp := true, slots := true } s (execTimeSet e s) := by
  unfold execTimeSet
  repeat' first
    | with_reducible apply Within.rfl | with_reducible assumption | exact rfl
    | (with_reducible apply hostCmd_within; (on_goal 2 => (intro _ _))) | with_reducible apply stays_next
    | with_reducible apply Within.after (beginTimeSet_within _ _)

theorem applyTimeSet_within (s : State) (h : Held) : Within
    { hostq := true, dt := true, clock := true, due := true, paths := true, ctxs := true, audio := true, port := true, mp := true, cry := true, slots := true, mnt := true, vault := true }
    s (applyTimeSet s h) := by
  unfold applyTimeSet
  repeat' first
    | with_reducible apply Within.rfl | with_reducible assumption | exact rfl
    | (extract_lets -underBinder -merge -useContext +onlyGivenNames x; refine Within.cut x (fun hx => ?_) ?_; (on_goal 1 => clear_value x); (on_goal 2 => (unfold x; clear x)))
    | (extract_lets -underBinder -merge -useContext +onlyGivenNames x; clear_value x) | with_reducible apply Within.ite
    | with_reducible apply modTime_within | exact .inl rfl | exact .inr fun _ => rfl
    | with_reducible apply Within.after (fail_within _ _ _ _ _) | with_reducible apply Within.after (stepDt_within _ _ _)
    | with_reducible apply Within.after (finish_within _ _ _ _)

theorem execTimeSetStepApply_within (t : DT) (s : State) : Stays
    { hostq := true, dt := true, clock := true, due := true, paths := true, ctxs := true, audio := true, port := true, mp := true, cry := true, slots := true, mnt := true, vault := true }
    s (execTimeSetStepApply t s) := by
  unfold execTimeSetStepApply
  repeat' first
    | with_reducible apply Within.rfl | with_reducible assumption | exact rfl
    | (with_reducible apply Within.foldl; on_goal 1 => (intro _ _))
    | (extract_lets -underBinder -merge -useContext +onlyGivenNames x; refine Stays.cut x (fun hx => ?_) ?_; (on_goal 1 => clear_value x); (on_goal 2 => (unfold x; clear x)))
    | (extract_lets -underBinder -merge -useContext +onlyGivenNames x; refine Within.cut x (fun hx => ?_) ?_; (on_goal 1 => clear_value x); (on_goal 2 => (unfold x; clear x)))
    | (extract_lets -underBinder -merge -useContext +onlyGivenNames x; clear_value x) | with_reducible apply stays_next
    | with_reducible apply Within.after (moment_within _ _) | with_reducible apply Within.after (applyTimeSet_within _ _)

theorem execSlewTargetReached_within (t : DT) (s : State) : Stays
    { hostq := true, dt := true, clock := true, due := true, paths := true, port := true, mp := true, slots := true, mnt := true }
    s (execSlewTargetReached t s) := by
  unfold execSlewTargetReached
  repeat' first
    | with_reducible apply Within.rfl | with_reducible assumption | exact rfl
    | (extract_lets -underBinder -merge -useContext +onlyGivenNames x; refine Stays.cut x (fun hx => ?_) ?_; (on_goal 1 => clear_value x); (on_goal 2 => (unfold x; clear x)))
    | (extract_lets -underBinder -merge -useContext +onlyGivenNames x; refine Within.cut x (fun hx => ?_) ?_; (on_goal 1 => clear_value x); (on_goal 2 => (unfold x; clear x)))
    | (extract_lets -underBinder -merge -useContext +onlyGivenNames x; clear_value x) | with_reducible apply Stays.ite
    | with_reducible apply Within.ite | with_reducible apply stays_next | with_reducible apply modTime_within | exact .inl rfl
    | exact .inr fun _ => rfl | with_reducible apply Within.after (moment_within _ _)
    | with_reducible apply Within.after (tellPair_within _ _ _ _) | with_reducible apply Within.after (setRate_within _ _)
    | with_reducible apply Within.after (finishId_within _ _ _ _) | with_reducible apply Within.after (corrected_within _) | split

theorem doTimeGet_within (h : Held) (s : State) : Within { hostq := true, mp := true, slots := true } s (doTimeGet h s) := by
  unfold doTimeGet
  repeat' first
    | with_reducible apply Within.rfl | with_reducible assumption | exact rfl
    | (extract_lets -underBinder -merge -useContext +onlyGivenNames x; clear_value x)
    | with_reducible apply Within.after (finish_within _ _ _ _)

theorem execTimeGet_within (e : Entry) (s : State) : Stays { hostq := true, dt := true, due := true, mp := true, slots := true }
    s (execTimeGet e s) := by
  unfold execTimeGet
  repeat' first
    | with_reducible apply Within.rfl | with_reducible assumption | exact rfl | with_reducible apply stays_next
    | (with_reducible apply hostCmd_within; (on_goal 2 => (intro _ _)))
    | with_reducible apply Within.after (doTimeGet_within _ _)

theorem doTimeDisciplineStatus_within (h : Held) (s : State) : Within { hostq := true, mp := true, slots := true } s
    (doTimeDisciplineStatus h s) := by
  unfold doTimeDisciplineStatus
  repeat' first
    | with_reducible apply Within.rfl | with_reducible assumption | exact rfl
    | with_reducible apply Within.after (finishOut_within _ _ _ _ _)

theorem execTimeDisciplineStatus_within (e : Entry) (s : State) : Stays
    { hostq := true, dt := true, due := true, mp := true, slots := true } s (execTimeDisciplineStatus e s) := by
  unfold execTimeDisciplineStatus
  repeat' first
    | with_reducible apply Within.rfl | with_reducible assumption | exact rfl | with_reducible apply stays_next
    | (with_reducible apply hostCmd_within; (on_goal 2 => (intro _ _)))
    | with_reducible apply Within.after (doTimeDisciplineStatus_within _ _)

theorem doTimeRefConfig_within (h : Held) (s : State) : Within { hostq := true, clock := true, mp := true, slots := true } s
    (doTimeRefConfig h s) := by
  unfold doTimeRefConfig
  repeat' first
    | with_reducible apply Within.rfl | with_reducible assumption | exact rfl
    | (extract_lets -underBinder -merge -useContext +onlyGivenNames x; refine Within.cut x (fun hx => ?_) ?_; (on_goal 1 => clear_value x); (on_goal 2 => (unfold x; clear x)))
    | (extract_lets -underBinder -merge -useContext +onlyGivenNames x; clear_value x) | with_reducible apply Within.ite
    | with_reducible apply modTime_within | exact .inl rfl | exact .inr fun _ => rfl
    | with_reducible apply Within.after (park_within _ _ _) | with_reducible apply Within.after (finishStaged_within _ _)

theorem execTimeRefConfig_within (e : Entry) (s : State) : Stays
    { hostq := true, dt := true, clock := true, due := true, mp := true, slots := true } s (execTimeRefConfig e s) := by
  unfold execTimeRefConfig
  repeat' first
    | with_reducible apply Within.rfl | with_reducible assumption | exact rfl | with_reducible apply stays_next
    | (with_reducible apply hostCmd_within; (on_goal 2 => (intro _ _)))
    | with_reducible apply Within.after (doTimeRefConfig_within _ _)

theorem restartLoop_within (s : State) : Within { dt := true, clock := true, mnt := true } s (restartLoop s) := by
  unfold restartLoop
  repeat' first
    | with_reducible apply Within.rfl | with_reducible assumption | exact rfl
    | (extract_lets -underBinder -merge -useContext +onlyGivenNames x; refine Within.cut x (fun hx => ?_) ?_; (on_goal 1 => clear_value x); (on_goal 2 => (unfold x; clear x)))
    | with_reducible apply Within.ite | with_reducible apply modTime_within | exact .inl rfl | exact .inr fun _ => rfl
    | with_reducible apply Within.after (setDisc_within _ _) | with_reducible apply Within.after (enterAcquire_within _ _)

theorem newSlewRate_within (s : State) : Within { clock := true, due := true, paths := true, port := true } s (newSlewRate s) :=
    by
  unfold newSlewRate
  repeat' first
    | with_reducible apply Within.rfl | with_reducible assumption | exact rfl
    | (extract_lets -underBinder -merge -useContext +onlyGivenNames x; refine Within.cut x (fun hx => ?_) ?_; (on_goal 1 => clear_value x); (on_goal 2 => (unfold x; clear x)))
    | (extract_lets -underBinder -merge -useContext +onlyGivenNames x; clear_value x) | with_reducible apply Within.ite
    | with_reducible apply modTime_within | exact .inl rfl | exact .inr fun _ => rfl
    | with_reducible apply Within.after (tellPair_within _ _ _ _) | with_reducible apply Within.after (setRate_within _ _) | split

theorem execTimeRefCommitApply_within (t : DT) (s : State) : Stays
    { hostq := true, dt := true, clock := true, due := true, paths := true, port := true, mp := true, slots := true, mnt := true }
    s (execTimeRefCommitApply t s) := by
  unfold execTimeRefCommitApply
  repeat' first
    | with_reducible apply Within.rfl | with_reducible assumption | exact rfl
    | (with_reducible apply Within.foldl; on_goal 1 => (intro _ _))
    | (extract_lets -underBinder -merge -useContext +onlyGivenNames x; refine Stays.cut x (fun hx => ?_) ?_; (on_goal 1 => clear_value x); (on_goal 2 => (unfold x; clear x)))
    | (extract_lets -underBinder -merge -useContext +onlyGivenNames x; refine Within.cut x (fun hx => ?_) ?_; (on_goal 1 => clear_value x); (on_goal 2 => (unfold x; clear x)))
    | (extract_lets -underBinder -merge -useContext +onlyGivenNames x; clear_value x) | with_reducible apply Stays.ite
    | with_reducible apply Within.ite | with_reducible apply stays_next | with_reducible apply modTime_within | exact .inl rfl
    | exact .inr fun _ => rfl | with_reducible apply Within.after (moment_within _ _)
    | with_reducible apply Within.after (emit_within _ _) | with_reducible apply Within.after (restartLoop_within _)
    | with_reducible apply Within.after (finishAllC_within _ _) | with_reducible apply Within.after (newSlewRate_within _) | split

theorem refLost_within (pps hold : Bool) (s : State) : Within
    { hostq := true, mp := true, cry := true, slots := true, mnt := true, vault := true } s (refLost pps hold s) := by
  unfold refLost
  repeat' first
    | with_reducible apply Within.rfl | with_reducible assumption | exact rfl
    | (extract_lets -underBinder -merge -useContext +onlyGivenNames x; clear_value x) | with_reducible apply Within.ite
    | with_reducible apply Within.after (faultSherd_within _ _ _ _ _) | with_reducible apply Within.after (raise_within _ _ _)

theorem refReturn_within (action : Nat) (mean : Int) (s : State) : Within { hostq := true, mp := true, slots := true } s
    (refReturn action mean s) := by
  unfold refReturn
  repeat' first
    | with_reducible apply Within.rfl | with_reducible assumption | exact rfl
    | with_reducible apply Within.after (raise_within _ _ _)

theorem execRefinLost_within (t : DT) (s : State) : Stays
    { hostq := true, dt := true, clock := true, due := true, mp := true, cry := true, slots := true, mnt := true, vault := true }
    s (execRefinLost t s) := by
  unfold execRefinLost
  repeat' first
    | with_reducible apply Within.rfl | with_reducible assumption | exact rfl
    | (extract_lets -underBinder -merge -useContext +onlyGivenNames x; refine Stays.cut x (fun hx => ?_) ?_; (on_goal 1 => clear_value x); (on_goal 2 => (unfold x; clear x)))
    | (extract_lets -underBinder -merge -useContext +onlyGivenNames x; refine Within.cut x (fun hx => ?_) ?_; (on_goal 1 => clear_value x); (on_goal 2 => (unfold x; clear x)))
    | (extract_lets -underBinder -merge -useContext +onlyGivenNames x; clear_value x) | with_reducible apply Stays.ite
    | with_reducible apply Within.ite | with_reducible apply stays_next | with_reducible apply modTime_within | exact .inl rfl
    | exact .inr fun _ => rfl | with_reducible apply Within.after (moment_within _ _)
    | with_reducible apply Within.after (refLost_within _ _ _) | with_reducible apply Within.after (enterHoldover_within _) | split

theorem execPpsinLost_within (t : DT) (s : State) : Stays
    { hostq := true, dt := true, clock := true, due := true, mp := true, cry := true, slots := true, mnt := true, vault := true }
    s (execPpsinLost t s) := by
  unfold execPpsinLost
  repeat' first
    | with_reducible apply Within.rfl | with_reducible assumption | exact rfl
    | (extract_lets -underBinder -merge -useContext +onlyGivenNames x; refine Stays.cut x (fun hx => ?_) ?_; (on_goal 1 => clear_value x); (on_goal 2 => (unfold x; clear x)))
    | (extract_lets -underBinder -merge -useContext +onlyGivenNames x; refine Within.cut x (fun hx => ?_) ?_; (on_goal 1 => clear_value x); (on_goal 2 => (unfold x; clear x)))
    | (extract_lets -underBinder -merge -useContext +onlyGivenNames x; clear_value x) | with_reducible apply Stays.ite
    | with_reducible apply Within.ite | with_reducible apply stays_next | with_reducible apply modTime_within | exact .inl rfl
    | exact .inr fun _ => rfl | with_reducible apply Within.after (moment_within _ _)
    | with_reducible apply Within.after (enterHoldover_within _) | with_reducible apply Within.after (setDisc_within _ _)
    | with_reducible apply Within.after (refLost_within _ _ _) | split

theorem refinReturns_within (s : State) : Within
    { hostq := true, dt := true, clock := true, mp := true, slots := true, mnt := true } s (refinReturns s) := by
  unfold refinReturns
  repeat' first
    | with_reducible apply Within.rfl | with_reducible assumption | exact rfl | with_reducible apply Within.ite
    | with_reducible apply modTime_within | exact .inl rfl | exact .inr fun _ => rfl
    | with_reducible apply Within.after (enterAcquire_within _ _) | with_reducible apply Within.after (refReturn_within _ _ _)
    | with_reducible apply Within.after (enterReturning_within _ _)

theorem execRefinQualified_within (t : DT) (s : State) : Stays
    { hostq := true, dt := true, clock := true, due := true, mp := true, slots := true, mnt := true } s (execRefinQualified t s)
    := by
  unfold execRefinQualified
  repeat' first
    | with_reducible apply Within.rfl | with_reducible assumption | exact rfl
    | (extract_lets -underBinder -merge -useContext +onlyGivenNames x; refine Stays.cut x (fun hx => ?_) ?_; (on_goal 1 => clear_value x); (on_goal 2 => (unfold x; clear x)))
    | (extract_lets -underBinder -merge -useContext +onlyGivenNames x; refine Within.cut x (fun hx => ?_) ?_; (on_goal 1 => clear_value x); (on_goal 2 => (unfold x; clear x)))
    | (extract_lets -underBinder -merge -useContext +onlyGivenNames x; clear_value x) | with_reducible apply Stays.ite
    | with_reducible apply Within.ite | with_reducible apply stays_next | with_reducible apply modTime_within | exact .inl rfl
    | exact .inr fun _ => rfl | with_reducible apply Within.after (moment_within _ _)
    | with_reducible apply Within.after (refinReturns_within _)

theorem execRefinSteerWindow_within (t : DT) (errorPpt : Int) (s : State) : Stays
    { hostq := true, dt := true, clock := true, due := true, mnt := true } s (execRefinSteerWindow t errorPpt s) := by
  unfold execRefinSteerWindow
  repeat' first
    | with_reducible apply Within.rfl | with_reducible assumption | exact rfl
    | (extract_lets -underBinder -merge -useContext +onlyGivenNames x; refine Stays.cut x (fun hx => ?_) ?_; (on_goal 1 => clear_value x); (on_goal 2 => (unfold x; clear x)))
    | (extract_lets -underBinder -merge -useContext +onlyGivenNames x; refine Within.cut x (fun hx => ?_) ?_; (on_goal 1 => clear_value x); (on_goal 2 => (unfold x; clear x)))
    | (extract_lets -underBinder -merge -useContext +onlyGivenNames x; clear_value x) | with_reducible apply Stays.ite
    | with_reducible apply Within.ite | with_reducible apply stays_next | with_reducible apply modTime_within | exact .inl rfl
    | exact .inr fun _ => rfl | with_reducible apply Within.after (moment_within _ _)
    | with_reducible apply Within.after (checkLocked_within _)

theorem execReturningPpsTimeout_within (t : DT) (s : State) : Stays
    { hostq := true, dt := true, clock := true, due := true, mnt := true } s (execReturningPpsTimeout t s) := by
  unfold execReturningPpsTimeout
  repeat' first
    | with_reducible apply Within.rfl | with_reducible assumption | exact rfl
    | (extract_lets -underBinder -merge -useContext +onlyGivenNames x; refine Stays.cut x (fun hx => ?_) ?_; (on_goal 1 => clear_value x); (on_goal 2 => (unfold x; clear x)))
    | with_reducible apply Stays.ite | with_reducible apply Within.ite | with_reducible apply stays_next
    | with_reducible apply modTime_within | exact .inl rfl | exact .inr fun _ => rfl
    | with_reducible apply Within.after (moment_within _ _) | with_reducible apply Within.after (setDisc_within _ _)

theorem ppsReturns_within (s : State) : Within { dt := true, clock := true, mnt := true } s (ppsReturns s) := by
  unfold ppsReturns
  repeat' first
    | with_reducible apply Within.rfl | with_reducible assumption | exact rfl
    | (extract_lets -underBinder -merge -useContext +onlyGivenNames x; refine Within.cut x (fun hx => ?_) ?_; (on_goal 1 => clear_value x); (on_goal 2 => (unfold x; clear x)))
    | (extract_lets -underBinder -merge -useContext +onlyGivenNames x; clear_value x) | with_reducible apply Within.ite
    | with_reducible apply modTime_within | exact .inl rfl | exact .inr fun _ => rfl
    | with_reducible apply Within.after (enterReturning_within _ _) | with_reducible apply Within.after (enterAcquire_within _ _)

theorem decideOffset_within (mean : Int) (s : State) : Within
    { hostq := true, clock := true, due := true, paths := true, port := true, mp := true, slots := true } s (decideOffset mean
    s) := by
  unfold decideOffset
  repeat' first
    | with_reducible apply Within.rfl | with_reducible assumption | exact rfl
    | (extract_lets -underBinder -merge -useContext +onlyGivenNames x; refine Within.cut x (fun hx => ?_) ?_; (on_goal 1 => clear_value x); (on_goal 2 => (unfold x; clear x)))
    | (extract_lets -underBinder -merge -useContext +onlyGivenNames x; clear_value x) | with_reducible apply Within.ite
    | with_reducible apply modTime_within | exact .inl rfl | exact .inr fun _ => rfl
    | with_reducible apply Within.after (refReturn_within _ _ _) | with_reducible apply Within.after (decideSlew_within _ _ _ _)

theorem measure_within (s : State) : Within { hostq := true, clock := true, due := true, paths := true, port := true, mp := true, slots := true } s (measure s) := by
  unfold measure
  repeat' first
    | with_reducible apply Within.rfl | with_reducible assumption | exact rfl
    | (with_reducible apply Within.foldl; on_goal 1 => (intro _ _))
    | (extract_lets -underBinder -merge -useContext +onlyGivenNames x; refine Within.cut x (fun hx => ?_) ?_; (on_goal 1 => clear_value x); (on_goal 2 => (unfold x; clear x)))
    | (extract_lets -underBinder -merge -useContext +onlyGivenNames x; clear_value x) | with_reducible apply Within.ite
    | with_reducible apply modTime_within | exact .inl rfl | exact .inr fun _ => rfl
    | with_reducible apply Within.after (decideOffset_within _ _)

theorem execPpsinEdgeAccepted_within (t : DT) (sub : Fin 4) (s : State) : Stays
    { hostq := true, dt := true, clock := true, due := true, paths := true, port := true, mp := true, slots := true, mnt := true }
    s (execPpsinEdgeAccepted t sub s) := by
  unfold execPpsinEdgeAccepted
  repeat' first
    | with_reducible apply Within.rfl | with_reducible assumption | exact rfl
    | (with_reducible apply Within.foldl; on_goal 1 => (intro _ _))
    | (extract_lets -underBinder -merge -useContext +onlyGivenNames x; refine Stays.cut x (fun hx => ?_) ?_; (on_goal 1 => clear_value x); (on_goal 2 => (unfold x; clear x)))
    | (extract_lets -underBinder -merge -useContext +onlyGivenNames x; refine Within.cut x (fun hx => ?_) ?_; (on_goal 1 => clear_value x); (on_goal 2 => (unfold x; clear x)))
    | (extract_lets -underBinder -merge -useContext +onlyGivenNames x; clear_value x) | with_reducible apply Stays.ite
    | with_reducible apply Within.ite | with_reducible apply stays_next | with_reducible apply modTime_within | exact .inl rfl
    | exact .inr fun _ => rfl | with_reducible apply Within.after (moment_within _ _)
    | with_reducible apply Within.after (ppsReturns_within _) | with_reducible apply Within.after (modHeld_within _ _ _)
    | with_reducible apply Within.after (checkLocked_within _) | with_reducible apply Within.after (measure_within _) | split

theorem execDtForwardStep_within (t : DT) (s : State) : Stays
    { hostq := true, dt := true, clock := true, due := true, paths := true, ctxs := true, audio := true, port := true, mp := true, cry := true, slots := true, mnt := true, vault := true }
    s (execDtForwardStep t s) := by
  unfold execDtForwardStep
  repeat' first
    | with_reducible apply Within.rfl | with_reducible assumption | exact rfl
    | (extract_lets -underBinder -merge -useContext +onlyGivenNames x; refine Stays.cut x (fun hx => ?_) ?_; (on_goal 1 => clear_value x); (on_goal 2 => (unfold x; clear x)))
    | (extract_lets -underBinder -merge -useContext +onlyGivenNames x; refine Within.cut x (fun hx => ?_) ?_; (on_goal 1 => clear_value x); (on_goal 2 => (unfold x; clear x)))
    | (extract_lets -underBinder -merge -useContext +onlyGivenNames x; clear_value x) | with_reducible apply Stays.ite
    | with_reducible apply Within.ite | with_reducible apply stays_next | with_reducible apply Within.after (moment_within _ _)
    | with_reducible apply Within.after (corrected_within _) | with_reducible apply Within.after (stepDt_within _ _ _) | split

theorem execPpsoutPulse_within (t : DT) (s : State) : Stays { hostq := true, dt := true, clock := true, due := true } s
    (execPpsoutPulse t s) := by
  unfold execPpsoutPulse
  repeat' first
    | with_reducible apply Within.rfl | with_reducible assumption | exact rfl
    | (extract_lets -underBinder -merge -useContext +onlyGivenNames x; refine Stays.cut x (fun hx => ?_) ?_; (on_goal 1 => clear_value x); (on_goal 2 => (unfold x; clear x)))
    | (extract_lets -underBinder -merge -useContext +onlyGivenNames x; refine Within.cut x (fun hx => ?_) ?_; (on_goal 1 => clear_value x); (on_goal 2 => (unfold x; clear x)))
    | (extract_lets -underBinder -merge -useContext +onlyGivenNames x; clear_value x) | with_reducible apply Stays.ite
    | with_reducible apply Within.ite | with_reducible apply stays_next | with_reducible apply modTime_within | exact .inl rfl
    | exact .inr fun _ => rfl | with_reducible apply Within.after (moment_within _ _)
    | with_reducible apply Within.after (emit_within _ _) | split

theorem settleLock_within (b : Fin 2) (s : State) : Within { power := true, clock := true } s (settleLock b s) := by
  unfold settleLock
  repeat' first
    | with_reducible apply Within.rfl | with_reducible assumption | exact rfl
    | (extract_lets -underBinder -merge -useContext +onlyGivenNames x; refine Within.cut x (fun hx => ?_) ?_; (on_goal 1 => clear_value x); (on_goal 2 => (unfold x; clear x)))
    | (extract_lets -underBinder -merge -useContext +onlyGivenNames x; clear_value x) | with_reducible apply Within.ite
    | with_reducible apply modPower_within | with_reducible apply Within.after (modPll_within _ _ _)

theorem spllLost_within (reason : Nat) (b : Fin 2) (s : State) : Within { hostq := true, mp := true, slots := true } s (spllLost
    reason b s) := by
  unfold spllLost
  repeat' first
    | with_reducible apply Within.rfl | with_reducible assumption | exact rfl
    | with_reducible apply Within.after (raise_within _ _ _)

theorem switchPll_within (s : State) : Within { dt := true, clock := true } s (switchPll s) := by
  unfold switchPll
  repeat' first
    | with_reducible apply Within.rfl | with_reducible assumption | exact rfl | with_reducible apply Within.ite
    | with_reducible apply modTime_within | exact .inl rfl

theorem plannedSwitch_within (s : State) : Within { hostq := true, dt := true, clock := true, mp := true, slots := true } s
    (plannedSwitch s) := by
  unfold plannedSwitch
  repeat' first
    | with_reducible apply Within.rfl | with_reducible assumption | exact rfl
    | (extract_lets -underBinder -merge -useContext +onlyGivenNames x; refine Within.cut x (fun hx => ?_) ?_; (on_goal 1 => clear_value x); (on_goal 2 => (unfold x; clear x)))
    | with_reducible apply Within.after (switchPll_within _) | with_reducible apply Within.after (raise_within _ _ _)

theorem reconfigure_within (b : Fin 2) (mult icp : Nat) (s : State) : Within { power := true, clock := true } s (reconfigure b
    mult icp s) := by
  unfold reconfigure
  repeat' first
    | with_reducible apply Within.rfl | with_reducible assumption | exact rfl
    | (extract_lets -underBinder -merge -useContext +onlyGivenNames x; refine Within.cut x (fun hx => ?_) ?_; (on_goal 1 => clear_value x); (on_goal 2 => (unfold x; clear x)))
    | (extract_lets -underBinder -merge -useContext +onlyGivenNames x; clear_value x)
    | with_reducible apply Within.after (settleLock_within _ _) | with_reducible apply Within.after (modPll_within _ _ _)

theorem stopPll_within (b : Fin 2) (s : State) : Within { power := true, clock := true } s (stopPll b s) := by
  unfold stopPll
  repeat' first
    | with_reducible apply Within.rfl | with_reducible assumption | exact rfl
    | (extract_lets -underBinder -merge -useContext +onlyGivenNames x; refine Within.cut x (fun hx => ?_) ?_; (on_goal 1 => clear_value x); (on_goal 2 => (unfold x; clear x)))
    | (extract_lets -underBinder -merge -useContext +onlyGivenNames x; clear_value x)
    | with_reducible apply Within.after (settleLock_within _ _) | with_reducible apply Within.after (modPll_within _ _ _)

theorem endPllSeq_within (st : Status) (s : State) : Within
    { hostq := true, clock := true, mp := true, slots := true, mnt := true } s (endPllSeq st s) := by
  unfold endPllSeq
  repeat' first
    | with_reducible apply Within.rfl | with_reducible assumption | exact rfl
    | (extract_lets -underBinder -merge -useContext +onlyGivenNames x; refine Within.cut x (fun hx => ?_) ?_; (on_goal 1 => clear_value x); (on_goal 2 => (unfold x; clear x)))
    | with_reducible apply Within.ite | with_reducible apply modTime_within | exact .inl rfl | exact .inr fun _ => rfl
    | with_reducible apply Within.after (askStore_within _ _ _) | with_reducible apply Within.after (finishId_within _ _ _ _)
    | split

theorem loseBoth_within (b : Fin 2) (s : State) : Within
    { hostq := true, clock := true, due := true, paths := true, ctxs := true, audio := true, port := true, mp := true, slots := true }
    s (loseBoth b s) := by
  unfold loseBoth
  repeat' first
    | with_reducible apply Within.rfl | with_reducible assumption | exact rfl
    | (extract_lets -underBinder -merge -useContext +onlyGivenNames x; refine Within.cut x (fun hx => ?_) ?_; (on_goal 1 => clear_value x); (on_goal 2 => (unfold x; clear x)))
    | (extract_lets -underBinder -merge -useContext +onlyGivenNames x; clear_value x) | with_reducible apply modPortSt_within
    | with_reducible apply modTime_within | exact .inl rfl | exact .inr fun _ => rfl
    | with_reducible apply Within.after (holdAll_within _) | with_reducible apply Within.after (spllLost_within _ _ _)

theorem dividersAgain_within (s : State) : Within { port := true } s (dividersAgain s) := by
  unfold dividersAgain
  repeat' first
    | with_reducible apply Within.rfl | with_reducible assumption | exact rfl
    | (extract_lets -underBinder -merge -useContext +onlyGivenNames x; refine Within.cut x (fun hx => ?_) ?_; (on_goal 1 => clear_value x); (on_goal 2 => (unfold x; clear x)))
    | (extract_lets -underBinder -merge -useContext +onlyGivenNames x; clear_value x) | with_reducible apply Within.ite
    | with_reducible apply modPortSt_within

theorem moveDividers_within (s : State) : Within { port := true } s (moveDividers s) := by
  unfold moveDividers
  repeat' first
    | with_reducible apply Within.rfl | with_reducible assumption | exact rfl | with_reducible apply Within.ite
    | with_reducible apply modPortSt_within | with_reducible apply Within.after (dividersAgain_within _)

theorem commitPll_within (h : Held) (new : FieldSet) (s : State) : Within
    { power := true, hostq := true, clock := true, due := true, paths := true, ctxs := true, audio := true, port := true, mp := true, slots := true }
    s (commitPll h new s) := by
  unfold commitPll
  dsimp only
  repeat' first
    | with_reducible apply Within.rfl | with_reducible assumption | exact rfl | with_reducible apply Within.ite
    | with_reducible apply modTime_within | exact .inl rfl | exact .inr fun _ => rfl
    | with_reducible apply Within.after (begin__within _ _) | with_reducible apply Within.after (finish_within _ _ _ _)
    | with_reducible apply Within.after (reconfigure_within _ _ _ _) | with_reducible apply Within.after (stopPll_within _ _)
    | with_reducible apply Within.after (loseBoth_within _ _) | with_reducible apply Within.after (reject_within _ _ _)

theorem doTimePllConfig_within (h : Held) (s : State) : Within { power := true, hostq := true, dt := true, clock := true, due := true, paths := true, ctxs := true, audio := true, port := true, mp := true, slots := true } s (doTimePllConfig h s) := by
  unfold doTimePllConfig
  repeat' first
    | with_reducible apply Within.rfl | with_reducible assumption | exact rfl
    | (extract_lets -underBinder -merge -useContext +onlyGivenNames x; refine Within.cut x (fun hx => ?_) ?_; (on_goal 1 => clear_value x); (on_goal 2 => (unfold x; clear x)))
    | (extract_lets -underBinder -merge -useContext +onlyGivenNames x; clear_value x) | with_reducible apply Within.ite
    | with_reducible apply modTime_within | exact .inl rfl | exact .inr fun _ => rfl
    | with_reducible apply Within.after (plannedSwitch_within _) | with_reducible apply Within.after (finish_within _ _ _ _)
    | with_reducible apply Within.after (reject_within _ _ _) | with_reducible apply Within.after (commitPll_within _ _ _)
    | with_reducible apply Within.after (finishStaged_within _ _)

theorem execTimePllConfig_within (e : Entry) (s : State) : Stays { power := true, hostq := true, dt := true, clock := true, due := true, paths := true, ctxs := true, audio := true, port := true, mp := true, slots := true } s (execTimePllConfig e s) :=
    by
  unfold execTimePllConfig
  repeat' first
    | with_reducible apply Within.rfl | with_reducible assumption | exact rfl
    | (with_reducible apply hostCmd_within; (on_goal 2 => (intro _ _))) | with_reducible apply stays_next
    | with_reducible apply Within.after (doTimePllConfig_within _ _)

theorem resumeAll_within (s : State) : Within
    { hostq := true, due := true, paths := true, ctxs := true, mp := true, slots := true } s (resumeAll s) := by
  unfold resumeAll
  repeat' first
    | with_reducible apply Within.rfl | with_reducible assumption | exact rfl
    | (with_reducible apply Within.foldl; on_goal 1 => (intro _ _)) | with_reducible apply Within.ite
    | with_reducible apply Within.after (resumePath_within _ _)

theorem execSpllLockDeclared_within (t : DT) (pllB : Bool) (s : State) : Stays
    { power := true, hostq := true, dt := true, clock := true, due := true, paths := true, ctxs := true, port := true, mp := true, slots := true, mnt := true }
    s (execSpllLockDeclared t pllB s) := by
  unfold execSpllLockDeclared
  repeat' first
    | with_reducible apply Within.rfl | with_reducible assumption | exact rfl
    | (extract_lets -underBinder -merge -useContext +onlyGivenNames x; refine Stays.cut x (fun hx => ?_) ?_; (on_goal 1 => clear_value x); (on_goal 2 => (unfold x; clear x)))
    | (extract_lets -underBinder -merge -useContext +onlyGivenNames x; refine Within.cut x (fun hx => ?_) ?_; (on_goal 1 => clear_value x); (on_goal 2 => (unfold x; clear x)))
    | (extract_lets -underBinder -merge -useContext +onlyGivenNames x; clear_value x) | with_reducible apply Stays.ite
    | with_reducible apply Within.ite | with_reducible apply stays_next | with_reducible apply modTime_within | exact .inl rfl
    | exact .inr fun _ => rfl | with_reducible apply Within.after (moment_within _ _)
    | with_reducible apply Within.after (modPll_within _ _ _) | with_reducible apply Within.after (settleLock_within _ _)
    | with_reducible apply Within.after (switchPll_within _) | with_reducible apply Within.after (resumeAll_within _)
    | with_reducible apply Within.after (moveDividers_within _) | with_reducible apply Within.after (endPllSeq_within _ _) | split

theorem execSpareAlignmentDone_within (t : DT) (s : State) : Stays
    { power := true, hostq := true, dt := true, clock := true, due := true, mp := true, slots := true, mnt := true } s
    (execSpareAlignmentDone t s) := by
  unfold execSpareAlignmentDone
  repeat' first
    | with_reducible apply Within.rfl | with_reducible assumption | exact rfl
    | (extract_lets -underBinder -merge -useContext +onlyGivenNames x; refine Stays.cut x (fun hx => ?_) ?_; (on_goal 1 => clear_value x); (on_goal 2 => (unfold x; clear x)))
    | (extract_lets -underBinder -merge -useContext +onlyGivenNames x; refine Within.cut x (fun hx => ?_) ?_; (on_goal 1 => clear_value x); (on_goal 2 => (unfold x; clear x)))
    | (extract_lets -underBinder -merge -useContext +onlyGivenNames x; clear_value x) | with_reducible apply Stays.ite
    | with_reducible apply Within.ite | with_reducible apply stays_next | with_reducible apply modTime_within | exact .inl rfl
    | exact .inr fun _ => rfl | with_reducible apply Within.after (moment_within _ _)
    | with_reducible apply Within.after (plannedSwitch_within _) | with_reducible apply Within.after (endPllSeq_within _ _)
    | with_reducible apply Within.after (stopPll_within _ _) | with_reducible apply Within.after (reconfigure_within _ _ _ _)
    | split

theorem failPllSeq_within (s : State) : Within { hostq := true, clock := true, mp := true, slots := true, mnt := true } s
    (failPllSeq s) := by
  unfold failPllSeq
  repeat' first
    | with_reducible apply Within.rfl | with_reducible assumption | exact rfl
    | (extract_lets -underBinder -merge -useContext +onlyGivenNames x; clear_value x)
    | with_reducible apply Within.after (endPllSeq_within _ _) | with_reducible apply Within.after (spllLost_within _ _ _)
    | with_reducible apply Within.after (modPll_within _ _ _)

theorem execSpllReconfigTimeout_within (t : DT) (s : State) : Stays
    { hostq := true, dt := true, clock := true, due := true, mp := true, slots := true, mnt := true } s (execSpllReconfigTimeout
    t s) := by
  unfold execSpllReconfigTimeout
  repeat' first
    | with_reducible apply Within.rfl | with_reducible assumption | exact rfl
    | (extract_lets -underBinder -merge -useContext +onlyGivenNames x; refine Stays.cut x (fun hx => ?_) ?_; (on_goal 1 => clear_value x); (on_goal 2 => (unfold x; clear x)))
    | with_reducible apply Stays.ite | with_reducible apply Within.ite | with_reducible apply stays_next
    | with_reducible apply Within.after (moment_within _ _) | with_reducible apply Within.after (endPllSeq_within _ _)
    | with_reducible apply Within.after (failPllSeq_within _) | split

theorem execActiveSpllFlagged_within (t : DT) (vcoStops : Bool) (s : State) : Stays
    { power := true, hostq := true, dt := true, clock := true, due := true, paths := true, ctxs := true, audio := true, port := true, mp := true, cry := true, slots := true, mnt := true, vault := true }
    s (execActiveSpllFlagged t vcoStops s) := by
  unfold execActiveSpllFlagged
  repeat' first
    | with_reducible apply Within.rfl | with_reducible assumption | exact rfl
    | (extract_lets -underBinder -merge -useContext +onlyGivenNames x; refine Stays.cut x (fun hx => ?_) ?_; (on_goal 1 => clear_value x); (on_goal 2 => (unfold x; clear x)))
    | (extract_lets -underBinder -merge -useContext +onlyGivenNames x; refine Within.cut x (fun hx => ?_) ?_; (on_goal 1 => clear_value x); (on_goal 2 => (unfold x; clear x)))
    | (extract_lets -underBinder -merge -useContext +onlyGivenNames x; clear_value x) | with_reducible apply Stays.ite
    | with_reducible apply Within.ite | with_reducible apply stays_next | with_reducible apply modTime_within | exact .inl rfl
    | exact .inr fun _ => rfl | with_reducible apply Within.after (moment_within _ _)
    | with_reducible apply Within.after (modPll_within _ _ _) | with_reducible apply Within.after (settleLock_within _ _)
    | with_reducible apply Within.after (switchPll_within _) | with_reducible apply Within.after (evSherd_within _ _ _ _)
    | with_reducible apply Within.after (raise_within _ _ _) | with_reducible apply Within.after (endPllSeq_within _ _)
    | with_reducible apply Within.after (loseBoth_within _ _)

theorem execSpareSpllFlagged_within (t : DT) (s : State) : Stays
    { power := true, hostq := true, dt := true, clock := true, due := true, mp := true, slots := true, mnt := true } s
    (execSpareSpllFlagged t s) := by
  unfold execSpareSpllFlagged
  repeat' first
    | with_reducible apply Within.rfl | with_reducible assumption | exact rfl
    | (extract_lets -underBinder -merge -useContext +onlyGivenNames x; refine Stays.cut x (fun hx => ?_) ?_; (on_goal 1 => clear_value x); (on_goal 2 => (unfold x; clear x)))
    | (extract_lets -underBinder -merge -useContext +onlyGivenNames x; refine Within.cut x (fun hx => ?_) ?_; (on_goal 1 => clear_value x); (on_goal 2 => (unfold x; clear x)))
    | (extract_lets -underBinder -merge -useContext +onlyGivenNames x; clear_value x) | with_reducible apply Stays.ite
    | with_reducible apply Within.ite | with_reducible apply stays_next | with_reducible apply modTime_within | exact .inl rfl
    | exact .inr fun _ => rfl | with_reducible apply Within.after (moment_within _ _)
    | with_reducible apply Within.after (modPll_within _ _ _) | with_reducible apply Within.after (settleLock_within _ _)
    | with_reducible apply Within.after (failPllSeq_within _) | with_reducible apply Within.after (spllLost_within _ _ _) | split

theorem execSpareAlignTimeout_within (t : DT) (s : State) : Stays
    { hostq := true, dt := true, clock := true, due := true, mp := true, slots := true } s (execSpareAlignTimeout t s) := by
  unfold execSpareAlignTimeout
  repeat' first
    | with_reducible apply Within.rfl | with_reducible assumption | exact rfl
    | (extract_lets -underBinder -merge -useContext +onlyGivenNames x; refine Stays.cut x (fun hx => ?_) ?_; (on_goal 1 => clear_value x); (on_goal 2 => (unfold x; clear x)))
    | (extract_lets -underBinder -merge -useContext +onlyGivenNames x; refine Within.cut x (fun hx => ?_) ?_; (on_goal 1 => clear_value x); (on_goal 2 => (unfold x; clear x)))
    | (extract_lets -underBinder -merge -useContext +onlyGivenNames x; clear_value x) | with_reducible apply Stays.ite
    | with_reducible apply Within.ite | with_reducible apply stays_next | with_reducible apply modTime_within | exact .inl rfl
    | exact .inr fun _ => rfl | with_reducible apply Within.after (moment_within _ _)
    | with_reducible apply Within.after (spllLost_within _ _ _) | split

theorem execSpllRelockAttempt_within (t : DT) (pllB : Bool) (s : State) : Stays
    { hostq := true, dt := true, clock := true, due := true } s (execSpllRelockAttempt t pllB s) := by
  unfold execSpllRelockAttempt
  repeat' first
    | with_reducible apply Within.rfl | with_reducible assumption | exact rfl
    | (extract_lets -underBinder -merge -useContext +onlyGivenNames x; refine Stays.cut x (fun hx => ?_) ?_; (on_goal 1 => clear_value x); (on_goal 2 => (unfold x; clear x)))
    | (extract_lets -underBinder -merge -useContext +onlyGivenNames x; clear_value x) | with_reducible apply Stays.ite
    | with_reducible apply Within.ite | with_reducible apply stays_next | with_reducible apply Within.after (moment_within _ _)
    | with_reducible apply Within.after (modPll_within _ _ _)

theorem doTimePhaseStep_within (h : Held) (s : State) : Within { hostq := true, clock := true } s (doTimePhaseStep h s) := by
  unfold doTimePhaseStep
  repeat' first
    | with_reducible apply Within.rfl | with_reducible assumption | exact rfl | with_reducible apply modTime_within | exact .inl rfl
    | exact .inr fun _ => rfl | with_reducible apply Within.after (begin__within _ _)
    | with_reducible apply Within.after (tellPair_within _ _ _ _)

theorem execTimePhaseStep_within (e : Entry) (s : State) : Stays
    { hostq := true, dt := true, clock := true, due := true, mp := true, slots := true } s (execTimePhaseStep e s) := by
  unfold execTimePhaseStep
  repeat' first
    | with_reducible apply Within.rfl | with_reducible assumption | exact rfl | with_reducible apply stays_next
    | (with_reducible apply hostCmd_within; (on_goal 2 => (intro _ _)))
    | with_reducible apply Within.after (doTimePhaseStep_within _ _)

theorem execPhaseSteppingDone_within (t : DT) (s : State) : Stays
    { hostq := true, dt := true, clock := true, due := true, mp := true, slots := true } s (execPhaseSteppingDone t s) := by
  unfold execPhaseSteppingDone
  repeat' first
    | with_reducible apply Within.rfl | with_reducible assumption | exact rfl
    | (extract_lets -underBinder -merge -useContext +onlyGivenNames x; refine Stays.cut x (fun hx => ?_) ?_; (on_goal 1 => clear_value x); (on_goal 2 => (unfold x; clear x)))
    | with_reducible apply stays_next | with_reducible apply modTime_within | exact .inl rfl | exact .inr fun _ => rfl
    | with_reducible apply Within.after (moment_within _ _) | with_reducible apply Within.after (finishId_within _ _ _ _)
    | split

theorem tick_within (s : State) : Within
    { hostq := true, dt := true, clock := true, due := true, paths := true, port := true, mp := true, slots := true } s (tick s)
    := by
  unfold tick
  repeat' first
    | with_reducible apply Within.rfl | with_reducible assumption | exact rfl | with_reducible apply Within.ite
    | with_reducible apply modTime_within | exact .inl rfl | exact .inr fun _ => rfl
    | with_reducible apply Within.after (applyDecided_within _) | with_reducible apply Within.after (accrue_within _)

end Sys2Proof.Machine
end

