-- ==== Sys2Proof/Laws/Rf.lean ====
section
/-!
SUPPORT. Laws/Rf.lean: what each operation of Machine/Rf.lean leaves as it was.
-/
namespace Sys2Proof.Machine

theorem markGain_within (reads : Fin 64 → Bool) (s : State) : Within { sg := true } s (markGain reads s) := by
  unfold markGain
  repeat' first
    | with_reducible apply Within.rfl | with_reducible assumption | exact rfl | with_reducible apply Within.ite
    | with_reducible apply modSg_within | split

theorem setGain_within (i : GainInput) (g : Int) (cause : Nat) (holdFrom : Option DT) (s : State) : Within
    { wb := true, tuners := true, sg := true, mnt := true } s (setGain i g cause holdFrom s) := by
  unfold setGain
  repeat' first
    | with_reducible apply Within.rfl | with_reducible assumption | exact rfl
    | (extract_lets -underBinder -merge -useContext +onlyGivenNames x; refine Within.cut x (fun hx => ?_) ?_; (on_goal 1 => clear_value x); (on_goal 2 => (unfold x; clear x)))
    | (extract_lets -underBinder -merge -useContext +onlyGivenNames x; clear_value x) | with_reducible apply Within.ite
    | with_reducible apply Within.after (markGain_within _ _) | with_reducible apply Within.after (modFiring_within _ _ _ _)
    | with_reducible apply Within.after (modWb_within _ _ _) | with_reducible apply Within.after (modTuner_within _ _ _) | split

theorem setHold_within (i : GainInput) (f : Option DT) (s : State) : Within { wb := true, tuners := true } s (setHold i f s) :=
    by
  unfold setHold
  repeat' first
    | with_reducible apply Within.rfl | with_reducible assumption | exact rfl
    | with_reducible apply Within.after (modWb_within _ _ _) | with_reducible apply Within.after (modTuner_within _ _ _) | split

theorem execAgcWindowEnd_within (t : DT) (input : GainInput) (peak : Int) (s : State) : Stays
    { hostq := true, dt := true, wb := true, tuners := true, due := true, sg := true, mnt := true } s (execAgcWindowEnd t input
    peak s) := by
  unfold execAgcWindowEnd
  repeat' first
    | with_reducible apply Within.rfl | with_reducible assumption | exact rfl
    | (extract_lets -underBinder -merge -useContext +onlyGivenNames x; refine Stays.cut x (fun hx => ?_) ?_; (on_goal 1 => clear_value x); (on_goal 2 => (unfold x; clear x)))
    | (extract_lets -underBinder -merge -useContext +onlyGivenNames x; refine Within.cut x (fun hx => ?_) ?_; (on_goal 1 => clear_value x); (on_goal 2 => (unfold x; clear x)))
    | (extract_lets -underBinder -merge -useContext +onlyGivenNames x; clear_value x) | with_reducible apply Stays.ite
    | with_reducible apply Within.ite | with_reducible apply stays_next | with_reducible apply Within.after (moment_within _ _)
    | with_reducible apply Within.after (setHold_within _ _ _) | with_reducible apply Within.after (setGain_within _ _ _ _ _)

theorem execAgcHoldExpiry_within (t : DT) (input : GainInput) (s : State) : Stays { hostq := true, dt := true, wb := true, tuners := true, due := true, sg := true, mnt := true } s (execAgcHoldExpiry t input s) := by
  unfold execAgcHoldExpiry
  repeat' first
    | with_reducible apply Within.rfl | with_reducible assumption | exact rfl
    | (extract_lets -underBinder -merge -useContext +onlyGivenNames x; refine Stays.cut x (fun hx => ?_) ?_; (on_goal 1 => clear_value x); (on_goal 2 => (unfold x; clear x)))
    | (extract_lets -underBinder -merge -useContext +onlyGivenNames x; refine Within.cut x (fun hx => ?_) ?_; (on_goal 1 => clear_value x); (on_goal 2 => (unfold x; clear x)))
    | (extract_lets -underBinder -merge -useContext +onlyGivenNames x; clear_value x) | with_reducible apply Stays.ite
    | with_reducible apply Within.ite | with_reducible apply stays_next | with_reducible apply Within.after (moment_within _ _)
    | with_reducible apply Within.after (setGain_within _ _ _ _ _) | split

theorem countClipped_within (i : GainInput) (n steps : Nat) (s : State) : Within { wb := true, tuners := true } s (countClipped
    i n steps s) := by
  unfold countClipped
  repeat' first
    | with_reducible apply Within.rfl | with_reducible assumption | exact rfl
    | with_reducible apply Within.after (modWb_within _ _ _) | with_reducible apply Within.after (modTuner_within _ _ _) | split

theorem execOverloadTrip_within (t : DT) (input : GainInput) (clipped : Nat) (s : State) : Stays { hostq := true, dt := true, wb := true, tuners := true, due := true, sg := true, mnt := true } s (execOverloadTrip t input clipped s) := by
  unfold execOverloadTrip
  repeat' first
    | with_reducible apply Within.rfl | with_reducible assumption | exact rfl
    | (extract_lets -underBinder -merge -useContext +onlyGivenNames x; refine Stays.cut x (fun hx => ?_) ?_; (on_goal 1 => clear_value x); (on_goal 2 => (unfold x; clear x)))
    | (extract_lets -underBinder -merge -useContext +onlyGivenNames x; refine Within.cut x (fun hx => ?_) ?_; (on_goal 1 => clear_value x); (on_goal 2 => (unfold x; clear x)))
    | (extract_lets -underBinder -merge -useContext +onlyGivenNames x; clear_value x) | with_reducible apply Stays.ite
    | with_reducible apply Within.ite | with_reducible apply stays_next | with_reducible apply Within.after (moment_within _ _)
    | with_reducible apply Within.after (countClipped_within _ _ _ _) | with_reducible apply Within.after (setGain_within _ _ _ _ _)

theorem applyWb_within (i : Fin 2) (l : FieldSet) (s : State) : Within
    { wb := true, tuners := true, sg := true, mnt := true } s (applyWb i l s) := by
  unfold applyWb
  repeat' first
    | with_reducible apply Within.rfl | with_reducible assumption | exact rfl
    | (extract_lets -underBinder -merge -useContext +onlyGivenNames x; refine Within.cut x (fun hx => ?_) ?_; (on_goal 1 => clear_value x); (on_goal 2 => (unfold x; clear x)))
    | (extract_lets -underBinder -merge -useContext +onlyGivenNames x; clear_value x) | with_reducible apply Within.ite
    | with_reducible apply Within.after (modWb_within _ _ _) | with_reducible apply Within.after (setGain_within _ _ _ _ _)

theorem doRfWbConfig_within (h : Held) (s : State) : Within
    { hostq := true, wb := true, tuners := true, mp := true, sg := true, slots := true, mnt := true } s (doRfWbConfig h s) := by
  unfold doRfWbConfig
  repeat' first
    | with_reducible apply Within.rfl | with_reducible assumption | exact rfl
    | (with_reducible apply Within.foldl; on_goal 1 => (intro _ _))
    | (extract_lets -underBinder -merge -useContext +onlyGivenNames x; refine Within.cut x (fun hx => ?_) ?_; (on_goal 1 => clear_value x); (on_goal 2 => (unfold x; clear x)))
    | (extract_lets -underBinder -merge -useContext +onlyGivenNames x; clear_value x) | with_reducible apply Within.ite
    | with_reducible apply Within.after (reject_within _ _ _) | with_reducible apply Within.after (deferCmd_within _ _ _)
    | with_reducible apply Within.after (park_within _ _ _) | with_reducible apply Within.after (finishAllC_within _ _)
    | with_reducible apply Within.after (applyWb_within _ _ _) | split

theorem execRfWbConfig_within (e : Entry) (s : State) : Stays { hostq := true, dt := true, wb := true, tuners := true, due := true, mp := true, sg := true, slots := true, mnt := true } s (execRfWbConfig e s) := by
  unfold execRfWbConfig
  repeat' first
    | with_reducible apply Within.rfl | with_reducible assumption | exact rfl
    | (with_reducible apply hostCmd_within; (on_goal 2 => (intro _ _))) | with_reducible apply stays_next
    | with_reducible apply Within.after (doRfWbConfig_within _ _)

theorem doRfCarverSet_within (h : Held) (s : State) : Within { hostq := true, carvers := true, mp := true, slots := true } s
    (doRfCarverSet h s) := by
  unfold doRfCarverSet
  repeat' first
    | with_reducible apply Within.rfl | with_reducible assumption | exact rfl
    | (extract_lets -underBinder -merge -useContext +onlyGivenNames x; clear_value x) | with_reducible apply Within.ite
    | with_reducible apply Within.after (reject_within _ _ _) | with_reducible apply Within.after (finishStaged_within _ _)
    | with_reducible apply Within.after (modCarver_within _ _ _) | with_reducible apply Within.after (deferCmd_within _ _ _)
    | with_reducible apply Within.after (park_within _ _ _) | split

theorem execRfCarverSet_within (e : Entry) (s : State) : Stays
    { hostq := true, dt := true, carvers := true, due := true, mp := true, slots := true } s (execRfCarverSet e s) := by
  unfold execRfCarverSet
  repeat' first
    | with_reducible apply Within.rfl | with_reducible assumption | exact rfl | with_reducible apply stays_next
    | (with_reducible apply hostCmd_within; (on_goal 2 => (intro _ _)))
    | with_reducible apply Within.after (doRfCarverSet_within _ _)

theorem retuneCarver_within (c : Fin 8) (new : FieldSet) (s : State) : Within { due := true, paths := true } s (retuneCarver c
    new s) := by
  unfold retuneCarver
  repeat' first
    | with_reducible apply Within.rfl | with_reducible assumption | exact rfl
    | (with_reducible apply Within.foldl; on_goal 1 => (intro _ _)) | with_reducible apply Within.after (modPath_within _ _ _)

theorem restartCarverPaths_within (c : Fin 8) (s : State) : Within
    { hostq := true, due := true, paths := true, ctxs := true, mp := true, slots := true } s (restartCarverPaths c s) := by
  unfold restartCarverPaths
  repeat' first
    | with_reducible apply Within.rfl | with_reducible assumption | exact rfl
    | (with_reducible apply Within.foldl; on_goal 1 => (intro _ _))
    | (extract_lets -underBinder -merge -useContext +onlyGivenNames x; refine Within.cut x (fun hx => ?_) ?_; (on_goal 1 => clear_value x); (on_goal 2 => (unfold x; clear x)))
    | with_reducible apply Within.ite | with_reducible apply Within.after (modPath_within _ _ _)
    | with_reducible apply Within.after (resumePath_within _ _) | with_reducible apply Within.after (resetPath_within _ _)

theorem commitCarver_within (c : Fin 8) (s : State) (h : Held) : Within
    { hostq := true, carvers := true, due := true, paths := true, ctxs := true, mp := true, slots := true } s (commitCarver c s
    h) := by
  unfold commitCarver
  dsimp only
  repeat' first
    | with_reducible apply Within.rfl | with_reducible assumption | exact rfl | with_reducible apply Within.ite
    | with_reducible apply Within.after (modCarver_within _ _ _) | with_reducible apply Within.after (reject_within _ _ _)
    | with_reducible apply Within.after (deferCmd_within _ _ _) | with_reducible apply Within.after (retuneCarver_within _ _ _)
    | with_reducible apply Within.after (restartCarverPaths_within _ _) | with_reducible apply Within.after (emit_within _ _)
    | with_reducible apply Within.after (finish_within _ _ _ _)

theorem resumeCarver_within (c : Fin 8) (s : State) : Within { hostq := true, carvers := true, due := true, paths := true, ctxs := true, mp := true, slots := true } s (resumeCarver c s) := by
  unfold resumeCarver
  repeat' first
    | with_reducible apply Within.rfl | with_reducible assumption | exact rfl
    | (with_reducible apply Within.foldl; on_goal 1 => (intro _ _))
    | (extract_lets -underBinder -merge -useContext +onlyGivenNames x; refine Within.cut x (fun hx => ?_) ?_; (on_goal 1 => clear_value x); (on_goal 2 => (unfold x; clear x)))
    | (extract_lets -underBinder -merge -useContext +onlyGivenNames x; clear_value x) | with_reducible apply Within.ite
    | with_reducible apply Within.after (modCarver_within _ _ _) | with_reducible apply Within.after (resumePath_within _ _)

theorem execCarverFrameCommit_within (t : DT) (c : Fin 8) (s : State) : Stays
    { hostq := true, dt := true, carvers := true, due := true, paths := true, ctxs := true, mp := true, slots := true } s
    (execCarverFrameCommit t c s) := by
  unfold execCarverFrameCommit
  repeat' first
    | with_reducible apply Within.rfl | with_reducible assumption | exact rfl
    | (with_reducible apply Within.foldl; on_goal 1 => (intro _ _))
    | (extract_lets -underBinder -merge -useContext +onlyGivenNames x; refine Stays.cut x (fun hx => ?_) ?_; (on_goal 1 => clear_value x); (on_goal 2 => (unfold x; clear x)))
    | (extract_lets -underBinder -merge -useContext +onlyGivenNames x; refine Within.cut x (fun hx => ?_) ?_; (on_goal 1 => clear_value x); (on_goal 2 => (unfold x; clear x)))
    | (extract_lets -underBinder -merge -useContext +onlyGivenNames x; clear_value x) | with_reducible apply stays_next
    | with_reducible apply Within.after (moment_within _ _) | with_reducible apply Within.after (commitCarver_within _ _ _)
    | with_reducible apply Within.after (resumeCarver_within _ _)

theorem stopStream_within (b : Bool) (s : State) : Within
    { hostq := true, carvers := true, tuners := true, slip := true, due := true, paths := true, ctxs := true, audio := true, mp := true, sg := true, cry := true, slots := true, mnt := true, pair := true, vault := true }
    s (stopStream b s) := by
  unfold stopStream
  repeat' first
    | with_reducible apply Within.rfl | with_reducible assumption | exact rfl
    | (with_reducible apply Within.foldl; on_goal 1 => (intro _ _))
    | (extract_lets -underBinder -merge -useContext +onlyGivenNames x; refine Within.cut x (fun hx => ?_) ?_; (on_goal 1 => clear_value x); (on_goal 2 => (unfold x; clear x)))
    | (extract_lets -underBinder -merge -useContext +onlyGivenNames x; clear_value x) | with_reducible apply modPair_within
    | with_reducible apply Within.after (modCarver_within _ _ _) | with_reducible apply Within.after (loseSource_within _ _)

theorem execPeerStreamStop_within (t : DT) (streamB : Bool) (s : State) : Stays { hostq := true, dt := true, carvers := true, tuners := true, slip := true, due := true, paths := true, ctxs := true, audio := true, mp := true, sg := true, cry := true, slots := true, mnt := true, pair := true, vault := true } s (execPeerStreamStop t streamB s) := by
  unfold execPeerStreamStop
  repeat' first
    | with_reducible apply Within.rfl | with_reducible assumption | exact rfl | with_reducible apply stays_next
    | with_reducible apply Within.after (stopStream_within _ _) | with_reducible apply Within.after (moment_within _ _)

end Sys2Proof.Machine
end

