-- ==== Sys2Proof/Laws/Tuner.lean ====
section
/-!
SUPPORT. Laws/Tuner.lean: what each operation of Machine/Tuner.lean leaves as it was.
-/
namespace Sys2Proof.Machine

theorem headFor_within (h : Held) (n : Fin 4) (want : TState) (s : State) : Within
    { hostq := true, tuners := true, slip := true, due := true, paths := true, ctxs := true, mp := true, slots := true, mnt := true }
    s (headFor h n want s) := by
  unfold headFor
  repeat' first
    | with_reducible apply Within.rfl | with_reducible assumption | exact rfl
    | (extract_lets -underBinder -merge -useContext +onlyGivenNames x; clear_value x) | with_reducible apply Within.ite
    | with_reducible apply Within.after (finish_within _ _ _ _) | with_reducible apply Within.after (begin__within _ _)
    | with_reducible apply Within.after (modTuner_within _ _ _) | with_reducible apply Within.after (beginChange_within _ _ _ _)

theorem setPtState_within (h : Held) (n : Fin 4) (want : TState) (s : State) : Within
    { hostq := true, tuners := true, slip := true, due := true, paths := true, ctxs := true, mp := true, slots := true, mnt := true }
    s (setPtState h n want s) := by
  unfold setPtState
  repeat' first
    | with_reducible apply Within.rfl | with_reducible assumption | exact rfl
    | (extract_lets -underBinder -merge -useContext +onlyGivenNames x; refine Within.cut x (fun hx => ?_) ?_; (on_goal 1 => clear_value x); (on_goal 2 => (unfold x; clear x)))
    | (extract_lets -underBinder -merge -useContext +onlyGivenNames x; clear_value x) | with_reducible apply Within.ite
    | with_reducible apply Within.after (reject_within _ _ _) | with_reducible apply Within.after (deferCmd_within _ _ _)
    | with_reducible apply Within.after (begin__within _ _) | with_reducible apply Within.after (modTuner_within _ _ _)
    | with_reducible apply Within.after (headFor_within _ _ _ _)

theorem doRfPtState_within (h : Held) (s : State) : Within
    { hostq := true, tuners := true, slip := true, due := true, paths := true, ctxs := true, mp := true, slots := true, mnt := true }
    s (doRfPtState h s) := by
  unfold doRfPtState
  repeat' first
    | with_reducible apply Within.rfl | with_reducible assumption | exact rfl
    | (extract_lets -underBinder -merge -useContext +onlyGivenNames x; clear_value x) | with_reducible apply Within.ite
    | with_reducible apply Within.after (finish_within _ _ _ _) | with_reducible apply Within.after (setPtState_within _ _ _ _)
    | split

theorem execRfPtState_within (e : Entry) (s : State) : Stays
    { hostq := true, dt := true, tuners := true, slip := true, due := true, paths := true, ctxs := true, mp := true, slots := true, mnt := true }
    s (execRfPtState e s) := by
  unfold execRfPtState
  repeat' first
    | with_reducible apply Within.rfl | with_reducible assumption | exact rfl | with_reducible apply stays_next
    | (with_reducible apply hostCmd_within; (on_goal 2 => (intro _ _)))
    | with_reducible apply Within.after (doRfPtState_within _ _)

theorem applyTunerLive_within (n : Fin 4) (l : FieldSet) (s : State) : Within
    { wb := true, tuners := true, sg := true, mnt := true } s (applyTunerLive n l s) := by
  unfold applyTunerLive
  repeat' first
    | with_reducible apply Within.rfl | with_reducible assumption | exact rfl
    | (extract_lets -underBinder -merge -useContext +onlyGivenNames x; refine Within.cut x (fun hx => ?_) ?_; (on_goal 1 => clear_value x); (on_goal 2 => (unfold x; clear x)))
    | (extract_lets -underBinder -merge -useContext +onlyGivenNames x; clear_value x) | with_reducible apply Within.ite
    | with_reducible apply Within.after (modTuner_within _ _ _) | with_reducible apply Within.after (setGain_within _ _ _ _ _)

theorem commitPtTune_within (h : Held) (n : Fin 4) (l : FieldSet) (s : State) : Within { hostq := true, wb := true, tuners := true, slip := true, due := true, paths := true, ctxs := true, mp := true, sg := true, slots := true, mnt := true } s
    (commitPtTune h n l s) := by
  unfold commitPtTune
  repeat' first
    | with_reducible apply Within.rfl | with_reducible assumption | exact rfl
    | (extract_lets -underBinder -merge -useContext +onlyGivenNames x; refine Within.cut x (fun hx => ?_) ?_; (on_goal 1 => clear_value x); (on_goal 2 => (unfold x; clear x)))
    | (extract_lets -underBinder -merge -useContext +onlyGivenNames x; clear_value x) | with_reducible apply Within.ite
    | with_reducible apply Within.after (reject_within _ _ _) | with_reducible apply Within.after (modTuner_within _ _ _)
    | with_reducible apply Within.after (applyTunerLive_within _ _ _) | with_reducible apply Within.after (commitTuner_within _ _ _)
    | with_reducible apply Within.after (finish_within _ _ _ _) | with_reducible apply Within.after (begin__within _ _)
    | with_reducible apply Within.after (beginChange_within _ _ _ _)

theorem doRfPtTune_within (h : Held) (s : State) : Within
    { hostq := true, wb := true, tuners := true, slip := true, due := true, paths := true, ctxs := true, mp := true, sg := true, slots := true, mnt := true }
    s (doRfPtTune h s) := by
  unfold doRfPtTune
  repeat' first
    | with_reducible apply Within.rfl | with_reducible assumption | exact rfl
    | (extract_lets -underBinder -merge -useContext +onlyGivenNames x; refine Within.cut x (fun hx => ?_) ?_; (on_goal 1 => clear_value x); (on_goal 2 => (unfold x; clear x)))
    | (extract_lets -underBinder -merge -useContext +onlyGivenNames x; clear_value x) | with_reducible apply Within.ite
    | with_reducible apply Within.after (deferCmd_within _ _ _) | with_reducible apply Within.after (commitPtTune_within _ _ _ _)
    | with_reducible apply Within.after (finishC_within _ _) | with_reducible apply Within.after (applyTunerLive_within _ _ _)
    | with_reducible apply Within.after (modTuner_within _ _ _) | with_reducible apply Within.after (park_within _ _ _) | split

theorem execRfPtTune_within (e : Entry) (s : State) : Stays { hostq := true, dt := true, wb := true, tuners := true, slip := true, due := true, paths := true, ctxs := true, mp := true, sg := true, slots := true, mnt := true } s (execRfPtTune e s) :=
    by
  unfold execRfPtTune
  repeat' first
    | with_reducible apply Within.rfl | with_reducible assumption | exact rfl
    | (with_reducible apply hostCmd_within; (on_goal 2 => (intro _ _))) | with_reducible apply stays_next
    | with_reducible apply Within.after (doRfPtTune_within _ _)

theorem doRfPtBandtableLoad_within (h : Held) (s : State) : Within { hostq := true, tuners := true, mp := true, slots := true }
    s (doRfPtBandtableLoad h s) := by
  unfold doRfPtBandtableLoad
  repeat' first
    | with_reducible apply Within.rfl | with_reducible assumption | exact rfl
    | (extract_lets -underBinder -merge -useContext +onlyGivenNames x; clear_value x)
    | with_reducible apply Within.after (finish_within _ _ _ _) | with_reducible apply Within.after (modTuner_within _ _ _)
    | split

theorem execRfPtBandtableLoad_within (e : Entry) (s : State) : Stays
    { hostq := true, dt := true, tuners := true, due := true, mp := true, slots := true } s (execRfPtBandtableLoad e s) := by
  unfold execRfPtBandtableLoad
  repeat' first
    | with_reducible apply Within.rfl | with_reducible assumption | exact rfl | with_reducible apply stays_next
    | (with_reducible apply hostCmd_within; (on_goal 2 => (intro _ _)))
    | with_reducible apply Within.after (doRfPtBandtableLoad_within _ _)

theorem doRfPtRecallRead_within (h : Held) (s : State) : Within { hostq := true, mp := true, slots := true } s (doRfPtRecallRead
    h s) := by
  unfold doRfPtRecallRead
  repeat' first
    | with_reducible apply Within.rfl | with_reducible assumption | exact rfl
    | (extract_lets -underBinder -merge -useContext +onlyGivenNames x; clear_value x) | with_reducible apply Within.ite
    | with_reducible apply Within.after (finishOut_within _ _ _ _ _) | split

theorem execRfPtRecallRead_within (e : Entry) (s : State) : Stays
    { hostq := true, dt := true, due := true, mp := true, slots := true } s (execRfPtRecallRead e s) := by
  unfold execRfPtRecallRead
  repeat' first
    | with_reducible apply Within.rfl | with_reducible assumption | exact rfl | with_reducible apply stays_next
    | (with_reducible apply hostCmd_within; (on_goal 2 => (intro _ _)))
    | with_reducible apply Within.after (doRfPtRecallRead_within _ _)

theorem execRecallTableSave_within (t : DT) (n : Fin 4) (s : State) : Stays
    { hostq := true, dt := true, tuners := true, due := true, mnt := true } s (execRecallTableSave t n s) := by
  unfold execRecallTableSave
  repeat' first
    | with_reducible apply Within.rfl | with_reducible assumption | exact rfl
    | (extract_lets -underBinder -merge -useContext +onlyGivenNames x; refine Stays.cut x (fun hx => ?_) ?_; (on_goal 1 => clear_value x); (on_goal 2 => (unfold x; clear x)))
    | with_reducible apply Stays.ite | with_reducible apply Within.ite | with_reducible apply stays_next
    | with_reducible apply Within.after (moment_within _ _) | with_reducible apply Within.after (askStore_within _ _ _)
    | with_reducible apply Within.after (modTuner_within _ _ _)

theorem endTransition_within (n : Fin 4) (want : TState) (s : State) : Within
    { hostq := true, tuners := true, mp := true, slots := true } s (endTransition n want s) := by
  unfold endTransition
  repeat' first
    | with_reducible apply Within.rfl | with_reducible assumption | exact rfl
    | (extract_lets -underBinder -merge -useContext +onlyGivenNames x; refine Within.cut x (fun hx => ?_) ?_; (on_goal 1 => clear_value x); (on_goal 2 => (unfold x; clear x)))
    | (extract_lets -underBinder -merge -useContext +onlyGivenNames x; clear_value x)
    | with_reducible apply Within.after (modTuner_within _ _ _) | with_reducible apply Within.after (finishId_within _ _ _ _)
    | split

theorem execTunerTransitionDone_within (t : DT) (n : Fin 4) (s : State) : Stays
    { hostq := true, dt := true, tuners := true, due := true, mp := true, slots := true } s (execTunerTransitionDone t n s) :=
    by
  unfold execTunerTransitionDone
  repeat' first
    | with_reducible apply Within.rfl | with_reducible assumption | exact rfl
    | (extract_lets -underBinder -merge -useContext +onlyGivenNames x; refine Stays.cut x (fun hx => ?_) ?_; (on_goal 1 => clear_value x); (on_goal 2 => (unfold x; clear x)))
    | (extract_lets -underBinder -merge -useContext +onlyGivenNames x; refine Within.cut x (fun hx => ?_) ?_; (on_goal 1 => clear_value x); (on_goal 2 => (unfold x; clear x)))
    | (extract_lets -underBinder -merge -useContext +onlyGivenNames x; clear_value x) | with_reducible apply Stays.ite
    | with_reducible apply Within.ite | with_reducible apply stays_next | with_reducible apply Within.after (moment_within _ _)
    | with_reducible apply Within.after (modTuner_within _ _ _) | with_reducible apply Within.after (endTransition_within _ _ _)
    | split

theorem execChannelChangeDone_within (t : DT) (n : Fin 4) (r : ChannelChange) (s : State) : Stays
    { hostq := true, dt := true, tuners := true, due := true, mp := true, slots := true, mnt := true } s (execChannelChangeDone
    t n r s) := by
  unfold execChannelChangeDone
  repeat' first
    | with_reducible apply Within.rfl | with_reducible assumption | exact rfl
    | (extract_lets -underBinder -merge -useContext +onlyGivenNames x; refine Stays.cut x (fun hx => ?_) ?_; (on_goal 1 => clear_value x); (on_goal 2 => (unfold x; clear x)))
    | (extract_lets -underBinder -merge -useContext +onlyGivenNames x; refine Within.cut x (fun hx => ?_) ?_; (on_goal 1 => clear_value x); (on_goal 2 => (unfold x; clear x)))
    | (extract_lets -underBinder -merge -useContext +onlyGivenNames x; clear_value x) | with_reducible apply Stays.ite
    | with_reducible apply Within.ite | with_reducible apply stays_next | with_reducible apply Within.after (moment_within _ _)
    | with_reducible apply Within.after (modTuner_within _ _ _) | with_reducible apply Within.after (modFiring_within _ _ _ _)
    | with_reducible apply Within.after (restartPeriod_within _ _ _ _) | with_reducible apply Within.after (finish_within _ _ _ _)
    | split

theorem execRecallLockTimeout_within (t : DT) (n : Fin 4) (s : State) : Stays
    { hostq := true, dt := true, tuners := true, due := true } s (execRecallLockTimeout t n s) := by
  unfold execRecallLockTimeout
  repeat' first
    | with_reducible apply Within.rfl | with_reducible assumption | exact rfl
    | (extract_lets -underBinder -merge -useContext +onlyGivenNames x; refine Stays.cut x (fun hx => ?_) ?_; (on_goal 1 => clear_value x); (on_goal 2 => (unfold x; clear x)))
    | (extract_lets -underBinder -merge -useContext +onlyGivenNames x; refine Within.cut x (fun hx => ?_) ?_; (on_goal 1 => clear_value x); (on_goal 2 => (unfold x; clear x)))
    | (extract_lets -underBinder -merge -useContext +onlyGivenNames x; clear_value x) | with_reducible apply Stays.ite
    | with_reducible apply Within.ite | with_reducible apply stays_next | with_reducible apply Within.after (moment_within _ _)
    | with_reducible apply Within.after (modTuner_within _ _ _)

theorem moveFrom_within (s : State) (p : Fin 64) : Within
    { hostq := true, tuners := true, slip := true, due := true, paths := true, ctxs := true, audio := true, mp := true, sg := true, cry := true, slots := true, mnt := true, vault := true }
    s (moveFrom s p) := by
  unfold moveFrom
  repeat' first
    | with_reducible apply Within.rfl | with_reducible assumption | exact rfl
    | (extract_lets -underBinder -merge -useContext +onlyGivenNames x; refine Within.cut x (fun hx => ?_) ?_; (on_goal 1 => clear_value x); (on_goal 2 => (unfold x; clear x)))
    | (extract_lets -underBinder -merge -useContext +onlyGivenNames x; clear_value x) | with_reducible apply Within.ite
    | with_reducible apply Within.after (loseSource_within _ _) | with_reducible apply Within.after (reSource_within _ _)
    | split

theorem execTunerFailed_within (t : DT) (n : Fin 4) (s : State) : Stays
    { hostq := true, dt := true, tuners := true, slip := true, due := true, paths := true, ctxs := true, audio := true, mp := true, sg := true, cry := true, slots := true, mnt := true, vault := true }
    s (execTunerFailed t n s) := by
  unfold execTunerFailed
  repeat' first
    | with_reducible apply Within.rfl | with_reducible assumption | exact rfl
    | (with_reducible apply Within.foldl; on_goal 1 => (intro _ _))
    | (extract_lets -underBinder -merge -useContext +onlyGivenNames x; refine Stays.cut x (fun hx => ?_) ?_; (on_goal 1 => clear_value x); (on_goal 2 => (unfold x; clear x)))
    | (extract_lets -underBinder -merge -useContext +onlyGivenNames x; clear_value x) | with_reducible apply Stays.ite
    | with_reducible apply Within.ite | with_reducible apply stays_next | with_reducible apply Within.after (moment_within _ _)
    | with_reducible apply Within.after (finishAll_within _ _ _ _) | with_reducible apply Within.after (modTuner_within _ _ _)
    | with_reducible apply Within.after (abandonTunerFirings_within _ _ _)
    | with_reducible apply Within.after (moveFrom_within _ _)
    | with_reducible apply Within.after (legalFault_within _ _ _ _ _ _)
    | with_reducible apply Within.after (faultSherd_within _ _ _ _ _)

theorem execTunerRetry_within (t : DT) (n : Fin 4) (pass : Bool) (s : State) : Stays
    { hostq := true, dt := true, tuners := true, slip := true, due := true, paths := true, ctxs := true, mp := true, slots := true, mnt := true }
    s (execTunerRetry t n pass s) := by
  unfold execTunerRetry
  repeat' first
    | with_reducible apply Within.rfl | with_reducible assumption | exact rfl
    | (extract_lets -underBinder -merge -useContext +onlyGivenNames x; refine Stays.cut x (fun hx => ?_) ?_; (on_goal 1 => clear_value x); (on_goal 2 => (unfold x; clear x)))
    | (extract_lets -underBinder -merge -useContext +onlyGivenNames x; refine Within.cut x (fun hx => ?_) ?_; (on_goal 1 => clear_value x); (on_goal 2 => (unfold x; clear x)))
    | (extract_lets -underBinder -merge -useContext +onlyGivenNames x; clear_value x) | with_reducible apply Stays.ite
    | with_reducible apply Within.ite | with_reducible apply stays_next | with_reducible apply Within.after (moment_within _ _)
    | with_reducible apply Within.after (modTuner_within _ _ _) | with_reducible apply Within.after (headFor_within _ _ _ _)
    | with_reducible apply Within.after (rejectId_within _ _ _) | split

theorem doRfProbe_within (h : Held) (s : State) : Within { hostq := true, mp := true, slots := true } s (doRfProbe h s) := by
  unfold doRfProbe
  repeat' first
    | with_reducible apply Within.rfl | with_reducible assumption | exact rfl
    | (extract_lets -underBinder -merge -useContext +onlyGivenNames x; clear_value x) | with_reducible apply Within.ite
    | with_reducible apply Within.after (fail_within _ _ _ _ _) | with_reducible apply Within.after (reject_within _ _ _)
    | with_reducible apply Within.after (deferCmd_within _ _ _) | with_reducible apply Within.after (park_within _ _ _) | split

theorem execRfProbe_within (e : Entry) (s : State) : Stays { hostq := true, dt := true, due := true, mp := true, slots := true }
    s (execRfProbe e s) := by
  unfold execRfProbe
  repeat' first
    | with_reducible apply Within.rfl | with_reducible assumption | exact rfl | with_reducible apply stays_next
    | (with_reducible apply hostCmd_within; (on_goal 2 => (intro _ _)))
    | with_reducible apply Within.after (doRfProbe_within _ _)

theorem execProbeStart_within (t : DT) (n : Fin 4) (s : State) : Stays
    { hostq := true, dt := true, tuners := true, slip := true, due := true, paths := true, ctxs := true, audio := true, mp := true, sg := true, cry := true, slots := true, mnt := true, vault := true }
    s (execProbeStart t n s) := by
  unfold execProbeStart
  repeat' first
    | with_reducible apply Within.rfl | with_reducible assumption | exact rfl
    | (with_reducible apply Within.foldl; on_goal 1 => (intro _ _))
    | (extract_lets -underBinder -merge -useContext +onlyGivenNames x; refine Stays.cut x (fun hx => ?_) ?_; (on_goal 1 => clear_value x); (on_goal 2 => (unfold x; clear x)))
    | (extract_lets -underBinder -merge -useContext +onlyGivenNames x; refine Within.cut x (fun hx => ?_) ?_; (on_goal 1 => clear_value x); (on_goal 2 => (unfold x; clear x)))
    | with_reducible apply Stays.ite | with_reducible apply Within.ite | with_reducible apply stays_next
    | with_reducible apply Within.after (moment_within _ _) | with_reducible apply Within.after (note_within _ _ _)
    | with_reducible apply Within.after (modTuner_within _ _ _) | with_reducible apply Within.after (loseSource_within _ _)
    | split

theorem execProbeEnd_within (t : DT) (n : Fin 4) (measured leak : Int) (s : State) : Stays
    { hostq := true, dt := true, tuners := true, due := true, paths := true, ctxs := true, mp := true, slots := true } s
    (execProbeEnd t n measured leak s) := by
  unfold execProbeEnd
  repeat' first
    | with_reducible apply Within.rfl | with_reducible assumption | exact rfl
    | (with_reducible apply Within.foldl; on_goal 1 => (intro _ _))
    | (extract_lets -underBinder -merge -useContext +onlyGivenNames x; refine Stays.cut x (fun hx => ?_) ?_; (on_goal 1 => clear_value x); (on_goal 2 => (unfold x; clear x)))
    | (extract_lets -underBinder -merge -useContext +onlyGivenNames x; refine Within.cut x (fun hx => ?_) ?_; (on_goal 1 => clear_value x); (on_goal 2 => (unfold x; clear x)))
    | (extract_lets -underBinder -merge -useContext +onlyGivenNames x; clear_value x) | with_reducible apply Stays.ite
    | with_reducible apply Within.ite | with_reducible apply stays_next | with_reducible apply Within.after (moment_within _ _)
    | with_reducible apply Within.after (modTuner_within _ _ _) | with_reducible apply Within.after (resumePath_within _ _)
    | with_reducible apply Within.after (finishAt_within _ _ _ _ _ _) | split

theorem deferProbes_within (n : Fin 4) (s : State) : Within { hostq := true, mp := true, slots := true } s (deferProbes n s) :=
    by
  unfold deferProbes
  repeat' first
    | with_reducible apply Within.rfl | with_reducible assumption | exact rfl
    | (with_reducible apply Within.foldl; on_goal 1 => (intro _ _)) | with_reducible apply Within.ite
    | with_reducible apply Within.after (deferCmd_within _ _ _) | with_reducible apply Within.after (modHeld_within _ _ _) | split

theorem execProbeWaitTimeout_within (t : DT) (n : Fin 4) (s : State) : Stays
    { hostq := true, dt := true, due := true, mp := true, slots := true } s (execProbeWaitTimeout t n s) := by
  unfold execProbeWaitTimeout
  repeat' first
    | with_reducible apply Within.rfl | with_reducible assumption | exact rfl
    | (extract_lets -underBinder -merge -useContext +onlyGivenNames x; refine Stays.cut x (fun hx => ?_) ?_; (on_goal 1 => clear_value x); (on_goal 2 => (unfold x; clear x)))
    | (extract_lets -underBinder -merge -useContext +onlyGivenNames x; clear_value x) | with_reducible apply Stays.ite
    | with_reducible apply Within.ite | with_reducible apply stays_next | with_reducible apply Within.after (moment_within _ _)
    | with_reducible apply Within.after (reject_within _ _ _) | split

theorem slipStart_within (s : State) : PairW {} s (slipStart s) := by
  unfold slipStart
  repeat' first
    | with_reducible apply Within.rfl | with_reducible assumption | exact rfl
    | (extract_lets -underBinder -merge -useContext +onlyGivenNames x; clear_value x) | with_reducible apply PairW.ite
    | with_reducible apply Within.ite | with_reducible apply Within.after (useFree_within _) | split
    | with_reducible apply pairW_mk

theorem applySlip_within (s : State) (h : Held) : Within { hostq := true, slip := true, mp := true, slots := true } s
    (applySlip s h) := by
  unfold applySlip
  dsimp only
  repeat' first
    | with_reducible apply Within.rfl | with_reducible assumption | exact rfl | with_reducible apply Within.ite
    | with_reducible apply Within.after (fail_within _ _ _ _ _) | with_reducible apply Within.after (reject_within _ _ _)
    | with_reducible apply Within.after (deferCmd_within _ _ _) | with_reducible apply Within.after (finishC_within _ _)
    | with_reducible apply Within.after (modSlip_within _ _) | split
    | with_reducible apply Within.after (slipStart_within _).snd

theorem doRfSlipConfig_within (h : Held) (s : State) : Within { hostq := true, slip := true, mp := true, slots := true } s
    (doRfSlipConfig h s) := by
  unfold doRfSlipConfig
  repeat' first
    | with_reducible apply Within.rfl | with_reducible assumption | exact rfl | with_reducible apply Within.ite
    | (with_reducible apply Within.foldl; on_goal 1 => (intro _ _)) | with_reducible apply Within.after (applySlip_within _ _)
    | with_reducible apply Within.after (park_within _ _ _)

theorem execRfSlipConfig_within (e : Entry) (s : State) : Stays
    { hostq := true, dt := true, slip := true, due := true, mp := true, slots := true } s (execRfSlipConfig e s) := by
  unfold execRfSlipConfig
  repeat' first
    | with_reducible apply Within.rfl | with_reducible assumption | exact rfl | with_reducible apply stays_next
    | (with_reducible apply hostCmd_within; (on_goal 2 => (intro _ _)))
    | with_reducible apply Within.after (doRfSlipConfig_within _ _)

theorem execInjEnFall_within (t : DT) (s : State) : Stays
    { power := true, hostq := true, dt := true, slip := true, due := true } s (execInjEnFall t s) := by
  unfold execInjEnFall
  repeat' first
    | with_reducible apply Within.rfl | with_reducible assumption | exact rfl
    | (extract_lets -underBinder -merge -useContext +onlyGivenNames x; refine Stays.cut x (fun hx => ?_) ?_; (on_goal 1 => clear_value x); (on_goal 2 => (unfold x; clear x)))
    | with_reducible apply Stays.ite | with_reducible apply Within.ite | with_reducible apply stays_next
    | with_reducible apply modPower_within | with_reducible apply Within.after (moment_within _ _)
    | with_reducible apply Within.after (modSlip_within _ _)

theorem execSlipSaggarRelease_within (t : DT) (s : State) : Stays
    { hostq := true, dt := true, tuners := true, slip := true, due := true, mnt := true } s (execSlipSaggarRelease t s) := by
  unfold execSlipSaggarRelease
  repeat' first
    | with_reducible apply Within.rfl | with_reducible assumption | exact rfl
    | (extract_lets -underBinder -merge -useContext +onlyGivenNames x; refine Stays.cut x (fun hx => ?_) ?_; (on_goal 1 => clear_value x); (on_goal 2 => (unfold x; clear x)))
    | (extract_lets -underBinder -merge -useContext +onlyGivenNames x; refine Within.cut x (fun hx => ?_) ?_; (on_goal 1 => clear_value x); (on_goal 2 => (unfold x; clear x)))
    | (extract_lets -underBinder -merge -useContext +onlyGivenNames x; clear_value x) | with_reducible apply Stays.ite
    | with_reducible apply Within.ite | with_reducible apply stays_next | with_reducible apply modMnt_within
    | with_reducible apply modRf_within | exact .inl rfl | exact .inr fun _ => rfl
    | with_reducible apply Within.after (moment_within _ _) | with_reducible apply Within.after (modSlip_within _ _) | split

theorem supervisionResult_within (level : Int) (s : State) : Within { hostq := true, slip := true, mp := true, slots := true } s
    (supervisionResult level s) := by
  unfold supervisionResult
  repeat' first
    | with_reducible apply Within.rfl | with_reducible assumption | exact rfl
    | (extract_lets -underBinder -merge -useContext +onlyGivenNames x; refine Within.cut x (fun hx => ?_) ?_; (on_goal 1 => clear_value x); (on_goal 2 => (unfold x; clear x)))
    | (extract_lets -underBinder -merge -useContext +onlyGivenNames x; clear_value x)
    | with_reducible apply Within.after (useFree_within _) | with_reducible apply Within.after (emit_within _ _)
    | with_reducible apply Within.after (raise_within _ _ _) | with_reducible apply Within.after (modSlip_within _ _) | split

theorem execSupervisionPeriod_within (t : DT) (level : Int) (s : State) : Stays
    { hostq := true, dt := true, slip := true, due := true, mp := true, slots := true } s (execSupervisionPeriod t level s) :=
    by
  unfold execSupervisionPeriod
  repeat' first
    | with_reducible apply Within.rfl | with_reducible assumption | exact rfl
    | (extract_lets -underBinder -merge -useContext +onlyGivenNames x; refine Stays.cut x (fun hx => ?_) ?_; (on_goal 1 => clear_value x); (on_goal 2 => (unfold x; clear x)))
    | (extract_lets -underBinder -merge -useContext +onlyGivenNames x; refine Within.cut x (fun hx => ?_) ?_; (on_goal 1 => clear_value x); (on_goal 2 => (unfold x; clear x)))
    | (extract_lets -underBinder -merge -useContext +onlyGivenNames x; clear_value x) | with_reducible apply Stays.ite
    | with_reducible apply Within.ite | with_reducible apply stays_next | with_reducible apply Within.after (moment_within _ _)
    | with_reducible apply Within.after (modSlip_within _ _) | with_reducible apply Within.after (supervisionResult_within _ _)

end Sys2Proof.Machine
end

