-- ==== Sys2Proof/Laws/Mill.lean ====
section
/-!
SUPPORT. Laws/Mill.lean: what each operation of Machine/Mill.lean leaves as it was.
-/
namespace Sys2Proof.Machine

theorem tapCopy_within (p : Fin 64) (stamp : DT) (mid : List Sample) (s : State) : Within { sg := true } s (tapCopy p stamp mid
    s) := by
  unfold tapCopy
  repeat' first
    | with_reducible apply Within.rfl | with_reducible assumption | exact rfl | with_reducible apply Within.ite
    | with_reducible apply modSg_within

theorem recordBlock_within (p : Fin 64) (stamp : DT) (bytes : List Byte) (s : State) : Within { slots := true } s (recordBlock p
    stamp bytes s) := by
  unfold recordBlock
  repeat' first
    | with_reducible apply Within.rfl | with_reducible assumption | exact rfl
    | (extract_lets -underBinder -merge -useContext +onlyGivenNames x; refine Within.cut x (fun hx => ?_) ?_; (on_goal 1 => clear_value x); (on_goal 2 => (unfold x; clear x)))
    | (extract_lets -underBinder -merge -useContext +onlyGivenNames x; clear_value x) | with_reducible apply Within.ite
    | with_reducible apply modMem_within | exact .inl rfl | exact .inr fun _ => rfl

theorem execPathBlockOutput_within (t : DT) (p : Fin 64) (stamp : DT) (mid : List Sample) (s : State) : Stays
    { hostq := true, dt := true, due := true, paths := true, mp := true, sg := true, cry := true, slots := true, mnt := true, vault := true }
    s (execPathBlockOutput t p stamp mid s) := by
  unfold execPathBlockOutput
  repeat' first
    | with_reducible apply Within.rfl | with_reducible assumption | exact rfl
    | (extract_lets -underBinder -merge -useContext +onlyGivenNames x; refine Stays.cut x (fun hx => ?_) ?_; (on_goal 1 => clear_value x); (on_goal 2 => (unfold x; clear x)))
    | (extract_lets -underBinder -merge -useContext +onlyGivenNames x; refine Within.cut x (fun hx => ?_) ?_; (on_goal 1 => clear_value x); (on_goal 2 => (unfold x; clear x)))
    | (extract_lets -underBinder -merge -useContext +onlyGivenNames x; clear_value x) | with_reducible apply Stays.ite
    | with_reducible apply Within.ite | with_reducible apply stays_next | with_reducible apply Within.after (moment_within _ _)
    | with_reducible apply Within.after (recordBlock_within _ _ _ _) | with_reducible apply Within.after (tapCopy_within _ _ _ _)
    | with_reducible apply Within.after (closeGap_within _ _ _ _) | with_reducible apply Within.after (modPath_within _ _ _)
    | with_reducible apply Within.after (deliverIntervals_within _ _ _) | split

theorem setGrid_within (t : DT) (s : State) (c : Nat) : Within { due := true, paths := true } s (setGrid t s c) := by
  unfold setGrid
  repeat' first
    | with_reducible apply Within.rfl | with_reducible assumption | exact rfl
    | (with_reducible apply Within.foldl; on_goal 1 => (intro _ _)) | with_reducible apply Within.after (modPath_within _ _ _)
    | split

theorem lateResets_within (at_ : DT) (s : State) (c : Nat) : Within
    { hostq := true, due := true, paths := true, ctxs := true, mp := true, slots := true } s (lateResets at_ s c) := by
  unfold lateResets
  repeat' first
    | with_reducible apply Within.rfl | with_reducible assumption | exact rfl
    | (with_reducible apply Within.foldl; on_goal 1 => (intro _ _)) | with_reducible apply Within.ite
    | with_reducible apply Within.after (resetPath_within _ _) | split

theorem doCtxSync_within (h : Held) (s : State) : Within
    { hostq := true, due := true, paths := true, ctxs := true, cx := true, mp := true, slots := true } s (doCtxSync h s) := by
  unfold doCtxSync
  repeat' first
    | with_reducible apply Within.rfl | with_reducible assumption | exact rfl
    | (with_reducible apply Within.foldl; on_goal 1 => (intro _ _))
    | (extract_lets -underBinder -merge -useContext +onlyGivenNames x; refine Within.cut x (fun hx => ?_) ?_; (on_goal 1 => clear_value x); (on_goal 2 => (unfold x; clear x)))
    | (extract_lets -underBinder -merge -useContext +onlyGivenNames x; clear_value x) | with_reducible apply Within.ite
    | with_reducible apply modCx_within | exact .inl rfl | exact .inr fun _ => rfl
    | with_reducible apply Within.after (reject_within _ _ _) | with_reducible apply Within.after (deferCmd_within _ _ _)
    | with_reducible apply Within.after (emit_within _ _) | with_reducible apply Within.after (lateResets_within _ _ _)
    | with_reducible apply Within.after (begin__within _ _) | with_reducible apply Within.after (setGrid_within _ _ _)

theorem execCtxSync_within (e : Entry) (s : State) : Stays
    { hostq := true, dt := true, due := true, paths := true, ctxs := true, cx := true, mp := true, slots := true } s
    (execCtxSync e s) := by
  unfold execCtxSync
  repeat' first
    | with_reducible apply Within.rfl | with_reducible assumption | exact rfl
    | (with_reducible apply hostCmd_within; (on_goal 2 => (intro _ _))) | with_reducible apply stays_next
    | with_reducible apply Within.after (doCtxSync_within _ _)

theorem deferSync_within (c : Nat) (s : State) : Within { hostq := true, cx := true, mp := true, slots := true } s (deferSync c
    s) := by
  unfold deferSync
  repeat' first
    | with_reducible apply Within.rfl | with_reducible assumption | exact rfl
    | (with_reducible apply Within.foldl; on_goal 1 => (intro _ _))
    | (extract_lets -underBinder -merge -useContext +onlyGivenNames x; refine Within.cut x (fun hx => ?_) ?_; (on_goal 1 => clear_value x); (on_goal 2 => (unfold x; clear x)))
    | (extract_lets -underBinder -merge -useContext +onlyGivenNames x; clear_value x) | with_reducible apply modCx_within
    | exact .inl rfl | exact .inr fun _ => rfl | with_reducible apply Within.after (deferCmd_within _ _ _)
    | with_reducible apply Within.after (modHeld_within _ _ _) | split

theorem endSyncs_within (s : State) : Within { hostq := true, cx := true, mp := true, slots := true } s (endSyncs s) := by
  unfold endSyncs
  repeat' first
    | with_reducible apply Within.rfl | with_reducible assumption | exact rfl
    | (with_reducible apply Within.foldl; on_goal 1 => (intro _ _)) | with_reducible apply modCx_within | exact .inl rfl
    | exact .inr fun _ => rfl | with_reducible apply Within.after (finishId_within _ _ _ _)

theorem leaveSync_within (c : Nat) (s : State) : Within { hostq := true, cx := true, mp := true, slots := true } s (leaveSync c
    s) := by
  unfold leaveSync
  repeat' first
    | with_reducible apply Within.rfl | with_reducible assumption | exact rfl | with_reducible apply Within.ite
    | with_reducible apply modCx_within | exact .inl rfl | exact .inr fun _ => rfl
    | with_reducible apply Within.after (endSyncs_within _)

theorem syncDelivered_within (c : Fin 64) (s : State) : Within { hostq := true, cx := true, mp := true, slots := true } s
    (syncDelivered c s) := by
  unfold syncDelivered
  repeat' first
    | with_reducible apply Within.rfl | with_reducible assumption | exact rfl | with_reducible apply Within.ite
    | with_reducible apply modCx_within | exact .inl rfl | exact .inr fun _ => rfl
    | with_reducible apply Within.after (endSyncs_within _)

theorem peersLeave_within (which : SyncCmd → Bool) (s : State) : Within { hostq := true, cx := true, mp := true, slots := true }
    s (peersLeave which s) := by
  unfold peersLeave
  repeat' first
    | with_reducible apply Within.rfl | with_reducible assumption | exact rfl | with_reducible apply Within.ite
    | with_reducible apply modCx_within | exact .inl rfl | exact .inr fun _ => rfl
    | with_reducible apply Within.after (endSyncs_within _)

theorem peerSyncs_within (s : State) : Within { hostq := true, cx := true, mp := true, slots := true } s (peerSyncs s) := by
  unfold peerSyncs
  repeat' first
    | with_reducible apply Within.rfl | with_reducible assumption | exact rfl
    | (extract_lets -underBinder -merge -useContext +onlyGivenNames x; refine Within.cut x (fun hx => ?_) ?_; (on_goal 1 => clear_value x); (on_goal 2 => (unfold x; clear x)))
    | (extract_lets -underBinder -merge -useContext +onlyGivenNames x; clear_value x) | with_reducible apply Within.ite
    | with_reducible apply modCx_within | exact .inl rfl | exact .inr fun _ => rfl
    | with_reducible apply Within.after (useFree_within _) | with_reducible apply Within.after (peersLeave_within _ _)

theorem execCtxSyncReset_within (t : DT) (p : Fin 64) (s : State) : Stays
    { hostq := true, dt := true, due := true, paths := true, ctxs := true, cx := true, mp := true, slots := true } s
    (execCtxSyncReset t p s) := by
  unfold execCtxSyncReset
  repeat' first
    | with_reducible apply Within.rfl | with_reducible assumption | exact rfl
    | (extract_lets -underBinder -merge -useContext +onlyGivenNames x; refine Stays.cut x (fun hx => ?_) ?_; (on_goal 1 => clear_value x); (on_goal 2 => (unfold x; clear x)))
    | (extract_lets -underBinder -merge -useContext +onlyGivenNames x; refine Within.cut x (fun hx => ?_) ?_; (on_goal 1 => clear_value x); (on_goal 2 => (unfold x; clear x)))
    | (extract_lets -underBinder -merge -useContext +onlyGivenNames x; clear_value x) | with_reducible apply Stays.ite
    | with_reducible apply Within.ite | with_reducible apply stays_next | with_reducible apply Within.after (moment_within _ _)
    | with_reducible apply Within.after (deferSync_within _ _) | with_reducible apply Within.after (resetPath_within _ _) | split

theorem execCtxSyncHoldTimeout_within (t : DT) (p : Fin 64) (s : State) : Stays
    { hostq := true, dt := true, due := true, cx := true, mp := true, slots := true } s (execCtxSyncHoldTimeout t p s) := by
  unfold execCtxSyncHoldTimeout
  repeat' first
    | with_reducible apply Within.rfl | with_reducible assumption | exact rfl
    | (extract_lets -underBinder -merge -useContext +onlyGivenNames x; refine Stays.cut x (fun hx => ?_) ?_; (on_goal 1 => clear_value x); (on_goal 2 => (unfold x; clear x)))
    | (extract_lets -underBinder -merge -useContext +onlyGivenNames x; clear_value x) | with_reducible apply Stays.ite
    | with_reducible apply Within.ite | with_reducible apply stays_next | with_reducible apply Within.after (moment_within _ _)
    | with_reducible apply Within.after (leaveSync_within _ _) | split

theorem syncCtx_within (p : Fin 64) (stamp : DT) (s : State) : Within
    { hostq := true, ctxs := true, cx := true, audio := true, mp := true, slots := true } s (syncCtx p stamp s) := by
  unfold syncCtx
  repeat' first
    | with_reducible apply Within.rfl | with_reducible assumption | exact rfl
    | (extract_lets -underBinder -merge -useContext +onlyGivenNames x; refine Within.cut x (fun hx => ?_) ?_; (on_goal 1 => clear_value x); (on_goal 2 => (unfold x; clear x)))
    | (extract_lets -underBinder -merge -useContext +onlyGivenNames x; clear_value x) | with_reducible apply Within.ite
    | with_reducible apply Within.after (leaveHold_within _ _) | with_reducible apply Within.after (modCtx_within _ _ _)
    | with_reducible apply Within.after (syncDelivered_within _ _) | split

theorem execSyncSample_within (t : DT) (p : Fin 64) (stamp : DT) (mid : List Sample) (s : State) : Stays
    { hostq := true, dt := true, due := true, paths := true, ctxs := true, cx := true, audio := true, mp := true, sg := true, cry := true, slots := true, mnt := true, vault := true }
    s (execSyncSample t p stamp mid s) := by
  unfold execSyncSample
  repeat' first
    | with_reducible apply Within.rfl | with_reducible assumption | exact rfl
    | (extract_lets -underBinder -merge -useContext +onlyGivenNames x; refine Stays.cut x (fun hx => ?_) ?_; (on_goal 1 => clear_value x); (on_goal 2 => (unfold x; clear x)))
    | (extract_lets -underBinder -merge -useContext +onlyGivenNames x; refine Within.cut x (fun hx => ?_) ?_; (on_goal 1 => clear_value x); (on_goal 2 => (unfold x; clear x)))
    | (extract_lets -underBinder -merge -useContext +onlyGivenNames x; clear_value x) | with_reducible apply Stays.ite
    | with_reducible apply Within.ite | with_reducible apply stays_next | with_reducible apply Within.after (moment_within _ _)
    | with_reducible apply Within.after (closeGap_within _ _ _ _) | with_reducible apply Within.after (tapCopy_within _ _ _ _)
    | with_reducible apply Within.after (modPath_within _ _ _) | with_reducible apply Within.after (syncCtx_within _ _ _) | split

theorem execPathSourceResume_within (t : DT) (p : Fin 64) (s : State) : Stays
    { hostq := true, dt := true, due := true, paths := true, ctxs := true, mp := true, slots := true } s (execPathSourceResume t
    p s) := by
  unfold execPathSourceResume
  repeat' first
    | with_reducible apply Within.rfl | with_reducible assumption | exact rfl
    | (extract_lets -underBinder -merge -useContext +onlyGivenNames x; refine Stays.cut x (fun hx => ?_) ?_; (on_goal 1 => clear_value x); (on_goal 2 => (unfold x; clear x)))
    | with_reducible apply Stays.ite | with_reducible apply Within.ite | with_reducible apply stays_next
    | with_reducible apply Within.after (moment_within _ _) | with_reducible apply Within.after (resumePath_within _ _)

theorem doCtxCoefLoad_within (h : Held) (s : State) : Within
    { hostq := true, due := true, paths := true, mp := true, slots := true } s (doCtxCoefLoad h s) := by
  unfold doCtxCoefLoad
  repeat' first
    | with_reducible apply Within.rfl | with_reducible assumption | exact rfl
    | (extract_lets -underBinder -merge -useContext +onlyGivenNames x; clear_value x) | with_reducible apply Within.ite
    | with_reducible apply Within.after (fail_within _ _ _ _ _) | with_reducible apply Within.after (reject_within _ _ _)
    | with_reducible apply Within.after (finish_within _ _ _ _) | with_reducible apply Within.after (modPath_within _ _ _)
    | split

theorem execCtxCoefLoad_within (e : Entry) (s : State) : Stays
    { hostq := true, dt := true, due := true, paths := true, mp := true, slots := true } s (execCtxCoefLoad e s) := by
  unfold execCtxCoefLoad
  repeat' first
    | with_reducible apply Within.rfl | with_reducible assumption | exact rfl | with_reducible apply stays_next
    | (with_reducible apply hostCmd_within; (on_goal 2 => (intro _ _)))
    | with_reducible apply Within.after (doCtxCoefLoad_within _ _)

theorem requestSwap_within (h : Held) (p : Fin 64) (q : Swap) (s : State) : Within
    { hostq := true, due := true, paths := true, mp := true, slots := true } s (requestSwap h p q s) := by
  unfold requestSwap
  repeat' first
    | with_reducible apply Within.rfl | with_reducible assumption | exact rfl
    | (extract_lets -underBinder -merge -useContext +onlyGivenNames x; refine Within.cut x (fun hx => ?_) ?_; (on_goal 1 => clear_value x); (on_goal 2 => (unfold x; clear x)))
    | (extract_lets -underBinder -merge -useContext +onlyGivenNames x; clear_value x) | with_reducible apply Within.ite
    | with_reducible apply Within.after (finishId_within _ _ _ _) | with_reducible apply Within.after (park_within _ _ _)
    | with_reducible apply Within.after (modPath_within _ _ _) | with_reducible apply Within.after (finish_within _ _ _ _)
    | split

theorem doCtxCoefSwap_within (h : Held) (s : State) : Within
    { hostq := true, due := true, paths := true, mp := true, slots := true } s (doCtxCoefSwap h s) := by
  unfold doCtxCoefSwap
  repeat' first
    | with_reducible apply Within.rfl | with_reducible assumption | exact rfl
    | (extract_lets -underBinder -merge -useContext +onlyGivenNames x; clear_value x)
    | with_reducible apply Within.after (requestSwap_within _ _ _ _) | with_reducible apply Within.after (reject_within _ _ _)
    | split

theorem execCtxCoefSwap_within (e : Entry) (s : State) : Stays
    { hostq := true, dt := true, due := true, paths := true, mp := true, slots := true } s (execCtxCoefSwap e s) := by
  unfold execCtxCoefSwap
  repeat' first
    | with_reducible apply Within.rfl | with_reducible assumption | exact rfl | with_reducible apply stays_next
    | (with_reducible apply hostCmd_within; (on_goal 2 => (intro _ _)))
    | with_reducible apply Within.after (doCtxCoefSwap_within _ _)

theorem promoteSwap_within (p : Fin 64) (s : State) : Within
    { hostq := true, due := true, paths := true, mp := true, slots := true } s (promoteSwap p s) := by
  unfold promoteSwap
  repeat' first
    | with_reducible apply Within.rfl | with_reducible assumption | exact rfl
    | (extract_lets -underBinder -merge -useContext +onlyGivenNames x; clear_value x) | with_reducible apply Within.ite
    | with_reducible apply Within.after (finishId_within _ _ _ _) | with_reducible apply Within.after (modPath_within _ _ _)
    | split

theorem forgetSwap_within (id : Nat) (s : State) : Within
    { hostq := true, due := true, paths := true, mp := true, slots := true } s (forgetSwap id s) := by
  unfold forgetSwap
  repeat' first
    | with_reducible apply Within.rfl | with_reducible assumption | exact rfl
    | (with_reducible apply Within.foldl; on_goal 1 => (intro _ _))
    | (extract_lets -underBinder -merge -useContext +onlyGivenNames x; clear_value x) | with_reducible apply Within.ite
    | with_reducible apply Within.after (modPath_within _ _ _) | with_reducible apply Within.after (promoteSwap_within _ _)
    | split

theorem execFadeStart_within (t : DT) (p : Fin 64) (s : State) : Stays { hostq := true, dt := true, due := true, paths := true }
    s (execFadeStart t p s) := by
  unfold execFadeStart
  repeat' first
    | with_reducible apply Within.rfl | with_reducible assumption | exact rfl
    | (extract_lets -underBinder -merge -useContext +onlyGivenNames x; refine Stays.cut x (fun hx => ?_) ?_; (on_goal 1 => clear_value x); (on_goal 2 => (unfold x; clear x)))
    | (extract_lets -underBinder -merge -useContext +onlyGivenNames x; refine Within.cut x (fun hx => ?_) ?_; (on_goal 1 => clear_value x); (on_goal 2 => (unfold x; clear x)))
    | (extract_lets -underBinder -merge -useContext +onlyGivenNames x; clear_value x) | with_reducible apply Stays.ite
    | with_reducible apply Within.ite | with_reducible apply stays_next | with_reducible apply Within.after (moment_within _ _)
    | with_reducible apply Within.after (modHeld_within _ _ _) | with_reducible apply Within.after (modPath_within _ _ _) | split

theorem execFadeEnd_within (t : DT) (p : Fin 64) (s : State) : Stays
    { hostq := true, dt := true, due := true, paths := true, mp := true, slots := true } s (execFadeEnd t p s) := by
  unfold execFadeEnd
  repeat' first
    | with_reducible apply Within.rfl | with_reducible assumption | exact rfl
    | (extract_lets -underBinder -merge -useContext +onlyGivenNames x; refine Stays.cut x (fun hx => ?_) ?_; (on_goal 1 => clear_value x); (on_goal 2 => (unfold x; clear x)))
    | (extract_lets -underBinder -merge -useContext +onlyGivenNames x; refine Within.cut x (fun hx => ?_) ?_; (on_goal 1 => clear_value x); (on_goal 2 => (unfold x; clear x)))
    | (extract_lets -underBinder -merge -useContext +onlyGivenNames x; clear_value x) | with_reducible apply Stays.ite
    | with_reducible apply Within.ite | with_reducible apply stays_next | with_reducible apply Within.after (moment_within _ _)
    | with_reducible apply Within.after (modPath_within _ _ _) | with_reducible apply Within.after (promoteSwap_within _ _)
    | with_reducible apply Within.after (finishId_within _ _ _ _) | split

theorem doCtxSetThresholds_within (h : Held) (s : State) : Within { hostq := true, mp := true, slots := true } s
    (doCtxSetThresholds h s) := by
  unfold doCtxSetThresholds
  repeat' first
    | with_reducible apply Within.rfl | with_reducible assumption | exact rfl | with_reducible apply Within.ite
    | with_reducible apply Within.after (park_within _ _ _) | with_reducible apply Within.after (fail_within _ _ _ _ _)
    | with_reducible apply Within.after (reject_within _ _ _) | split

theorem execCtxSetThresholds_within (e : Entry) (s : State) : Stays
    { hostq := true, dt := true, due := true, mp := true, slots := true } s (execCtxSetThresholds e s) := by
  unfold execCtxSetThresholds
  repeat' first
    | with_reducible apply Within.rfl | with_reducible assumption | exact rfl | with_reducible apply stays_next
    | (with_reducible apply hostCmd_within; (on_goal 2 => (intro _ _)))
    | with_reducible apply Within.after (doCtxSetThresholds_within _ _)

theorem thresholdsAt_within (p : Fin 64) (s : State) : Within
    { hostq := true, due := true, paths := true, mp := true, slots := true } s (thresholdsAt p s) := by
  unfold thresholdsAt
  repeat' first
    | with_reducible apply Within.rfl | with_reducible assumption | exact rfl
    | (with_reducible apply Within.foldl; on_goal 1 => (intro _ _))
    | (extract_lets -underBinder -merge -useContext +onlyGivenNames x; refine Within.cut x (fun hx => ?_) ?_; (on_goal 1 => clear_value x); (on_goal 2 => (unfold x; clear x)))
    | (extract_lets -underBinder -merge -useContext +onlyGivenNames x; clear_value x) | with_reducible apply Within.ite
    | with_reducible apply Within.after (modPath_within _ _ _) | with_reducible apply Within.after (fail_within _ _ _ _ _)
    | with_reducible apply Within.after (finishC_within _ _) | with_reducible apply Within.after (note_within _ _ _)

theorem threshEvent_within (ev : Ev) (p : Fin 64) (c : Comparator) (level : Int) (s : State) : Within
    { hostq := true, mp := true, slots := true } s (threshEvent ev p c level s) := by
  unfold threshEvent
  repeat' first
    | with_reducible apply Within.rfl | with_reducible assumption | exact rfl
    | with_reducible apply Within.after (raise_within _ _ _)

theorem blockLevel_within (p : Fin 64) (sum n : Nat) (s : State) : PairW {} s (blockLevel p sum n s) := by
  unfold blockLevel
  repeat' first
    | with_reducible apply Within.rfl | with_reducible assumption | exact rfl | with_reducible apply PairW.ite
    | with_reducible apply Within.ite | with_reducible apply pairW_mk | with_reducible apply Within.after (useFree_within _) | split

theorem judgeBlock_within (p : Fin 64) (stamp : DT) (level : Int) (s : State) : Within { hostq := true, due := true, paths := true, mp := true, slots := true } s (judgeBlock p stamp level s) := by
  unfold judgeBlock
  repeat' first
    | with_reducible apply Within.rfl | with_reducible assumption | exact rfl
    | (extract_lets -underBinder -merge -useContext +onlyGivenNames x; refine Within.cut x (fun hx => ?_) ?_; (on_goal 1 => clear_value x); (on_goal 2 => (unfold x; clear x)))
    | (extract_lets -underBinder -merge -useContext +onlyGivenNames x; clear_value x) | with_reducible apply Within.ite
    | with_reducible apply Within.after (modPath_within _ _ _) | with_reducible apply Within.after (threshEvent_within _ _ _ _ _)

theorem execPowerBlockEnd_within (t : DT) (p : Fin 64) (s : State) : Stays
    { hostq := true, dt := true, due := true, paths := true, mp := true, slots := true } s (execPowerBlockEnd t p s) := by
  unfold execPowerBlockEnd
  repeat' first
    | with_reducible apply Within.rfl | with_reducible assumption | exact rfl
    | (extract_lets -underBinder -merge -useContext +onlyGivenNames x; refine Stays.cut x (fun hx => ?_) ?_; (on_goal 1 => clear_value x); (on_goal 2 => (unfold x; clear x)))
    | (extract_lets -underBinder -merge -useContext +onlyGivenNames x; refine Within.cut x (fun hx => ?_) ?_; (on_goal 1 => clear_value x); (on_goal 2 => (unfold x; clear x)))
    | (extract_lets -underBinder -merge -useContext +onlyGivenNames x; clear_value x) | with_reducible apply Stays.ite
    | with_reducible apply Within.ite | with_reducible apply stays_next | with_reducible apply Within.after (moment_within _ _)
    | with_reducible apply Within.after (judgeBlock_within _ _ _ _) | with_reducible apply Within.after (modPath_within _ _ _)
    | split | with_reducible apply Within.after (PairW.snd (blockLevel_within _ _ _ _))
    | with_reducible refine Within.after (PairW.of (blockLevel_within _ _ _ _) (by with_reducible assumption)) ?_ ?_

end Sys2Proof.Machine
end

