-- ==== Sys2Proof/Laws/Meter.lean ====
section
/-!
SUPPORT. Laws/Meter.lean: what the operations of Machine/Meter.lean that draw free values leave as it was.
-/
namespace Sys2Proof.Machine

theorem told_within (v : Option Int) (s : State) : PairW {} s (told v s) := by
  unfold told
  split
  · exact pairW_mk Within.rfl
  · exact pairW_mk (useFree_within s)

theorem subWords_within (hist : List (List Nat)) (l : List SubFrame) (s : State) : PairW {} s (subWords hist l s) := by
  induction l generalizing hist s with
  | nil => exact pairW_mk Within.rfl
  | cons f rest ih =>
    unfold subWords
    cases hist[1]? with
    | some e =>
      dsimp only
      split
      · exact (useFree_within s).trans (ih _ (useFree s))
      · exact ih _ s
    | none => exact (useFree_within s).trans (ih _ (useFree s))

end Sys2Proof.Machine
end

