-- ==== Sys2Proof/Laws/Line.lean ====
section
/-!
SUPPORT. Laws/Line.lean: what the operations of Machine/Line.lean leave as it was.
-/
namespace Sys2Proof.Machine

theorem recordFrom_within (source index : Nat) (stamp : DT) (bytes : List Byte) (s : State) : Within { slots := true } s
    (recordFrom source index stamp bytes s) := by
  unfold recordFrom
  repeat' first
    | with_reducible apply Within.rfl | with_reducible assumption | exact rfl
    | (extract_lets -underBinder -merge -useContext +onlyGivenNames x; refine Within.cut x (fun hx => ?_) ?_; (on_goal 1 => clear_value x); (on_goal 2 => (unfold x; clear x)))
    | (extract_lets -underBinder -merge -useContext +onlyGivenNames x; clear_value x) | with_reducible apply Within.ite
    | with_reducible apply modMem_within | exact .inl rfl | exact .inr fun _ => rfl

end Sys2Proof.Machine
end

