-- ==== Sys2Proof/Laws/Consumers.lean ====
section
/-!
SUPPORT. Laws/Consumers.lean: what each operation of Machine/Consumers.lean leaves as it was.
-/
namespace Sys2Proof.Machine

theorem modSub_within (id : BitVec 16) (f : Sub → Sub) (s : State) : Within { cx := true } s (modSub id f s) := by
  unfold modSub
  repeat' first
    | with_reducible apply Within.rfl | with_reducible assumption | exact rfl | with_reducible apply Within.ite
    | with_reducible apply modCx_within | exact .inl rfl | exact .inr fun _ => rfl

theorem dataRec_within (id : BitVec 16) (flags : Nat) (dt : DT) (aux : Nat) (payload : List Byte) (s : State) : Within
    { hostq := true, cx := true, cry := true } s (dataRec id flags dt aux payload s) := by
  unfold dataRec
  repeat' first
    | with_reducible apply Within.rfl | with_reducible assumption | exact rfl
    | with_reducible apply Within.after (deliver_within _ _ _) | with_reducible apply Within.after (modSub_within _ _ _) | split

theorem endSub_within (id : BitVec 16) (s : State) : Within { hostq := true, cx := true, cry := true } s (endSub id s) := by
  unfold endSub
  repeat' first
    | with_reducible apply Within.rfl | with_reducible assumption | exact rfl
    | (extract_lets -underBinder -merge -useContext +onlyGivenNames x; refine Within.cut x (fun hx => ?_) ?_; (on_goal 1 => clear_value x); (on_goal 2 => (unfold x; clear x)))
    | with_reducible apply modCx_within | exact .inl rfl | exact .inr fun _ => rfl
    | with_reducible apply Within.after (dataRec_within _ _ _ _ _ _)

theorem deliverChanged_within (id : BitVec 16) (key : Nat) (flags : Nat) (dt : DT) (aux : Nat) (value : List Byte) (s : State) :
    Within { hostq := true, cx := true, cry := true } s (deliverChanged id key flags dt aux value s) := by
  unfold deliverChanged
  repeat' first
    | with_reducible apply Within.rfl | with_reducible assumption | exact rfl | with_reducible apply Within.ite
    | with_reducible apply Within.after (dataRec_within _ _ _ _ _ _) | with_reducible apply Within.after (modSub_within _ _ _)
    | split

theorem keepHistory_within (v : Fin 96) (stamp : DT) (bytes : List Byte) (s : State) : Within { mem := true } s (keepHistory v
    stamp bytes s) := by
  unfold keepHistory
  refine modMem_within _ (.inr fun x => ?_) (.inl rfl) .rfl
  split <;> rfl

theorem hostBlock_within (v : Fin 96) (flags : Nat) (stamp : DT) (fs : List AFrame) (s : State) : Within
    { hostq := true, audio := true, cry := true, slots := true, mem := true } s (hostBlock v flags stamp fs s) := by
  unfold hostBlock
  repeat' first
    | with_reducible apply Within.rfl | with_reducible assumption | exact rfl
    | (extract_lets -underBinder -merge -useContext +onlyGivenNames x; refine Within.cut x (fun hx => ?_) ?_; (on_goal 1 => clear_value x); (on_goal 2 => (unfold x; clear x)))
    | (extract_lets -underBinder -merge -useContext +onlyGivenNames x; clear_value x) | with_reducible apply Within.ite
    | with_reducible apply Within.after (recordFrom_within _ _ _ _ _)
    | with_reducible apply Within.after (keepHistory_within _ _ _ _) | with_reducible apply Within.after (modSvc_within _ _ _)
    | with_reducible apply Within.after (deliver_within _ _ _)

theorem audioRec_within (v : Fin 96) (kind flags : Nat) (dt : DT) (payload : List Byte) (s : State) : Within
    { hostq := true, audio := true, cry := true } s (audioRec v kind flags dt payload s) := by
  unfold audioRec
  repeat' first
    | with_reducible apply Within.rfl | with_reducible assumption | exact rfl
    | (extract_lets -underBinder -merge -useContext +onlyGivenNames x; clear_value x)
    | with_reducible apply Within.after (deliver_within _ _ _) | with_reducible apply Within.after (modSvc_within _ _ _)

theorem endItem_within (v : Fin 96) (stop : DT) (reason : Nat) (s : State) : Within
    { hostq := true, audio := true, mp := true, cry := true, slots := true, mnt := true, vault := true } s (endItem v stop
    reason s) := by
  unfold endItem
  repeat' first
    | with_reducible apply Within.rfl | with_reducible assumption | exact rfl
    | (extract_lets -underBinder -merge -useContext +onlyGivenNames x; refine Within.cut x (fun hx => ?_) ?_; (on_goal 1 => clear_value x); (on_goal 2 => (unfold x; clear x)))
    | (extract_lets -underBinder -merge -useContext +onlyGivenNames x; clear_value x)
    | with_reducible apply Within.after (audioRec_within _ _ _ _ _ _)
    | with_reducible apply Within.after (opSherd_within _ _ _ _ _ _) | with_reducible apply Within.after (modSvc_within _ _ _)
    | split | with_reducible apply Within.after (PairW.snd (told_within _ _))
    | with_reducible refine Within.after (PairW.of (told_within _ _) (by with_reducible assumption)) ?_ ?_

theorem stopItem_within (v : Fin 96) (reason : Nat) (s : State) : Within
    { hostq := true, audio := true, mp := true, cry := true, slots := true, mnt := true, vault := true } s (stopItem v reason s)
    := by
  unfold stopItem
  repeat' first
    | with_reducible apply Within.rfl | with_reducible assumption | exact rfl
    | with_reducible apply Within.after (endItem_within _ _ _ _) | split

theorem sigChain_within (v : Fin 96) (s : State) : Within
    { hostq := true, audio := true, mp := true, cry := true, slots := true, mnt := true, vault := true } s (sigChain v s) := by
  unfold sigChain
  repeat' first
    | with_reducible apply Within.rfl | with_reducible assumption | exact rfl
    | (extract_lets -underBinder -merge -useContext +onlyGivenNames x; refine Within.cut x (fun hx => ?_) ?_; (on_goal 1 => clear_value x); (on_goal 2 => (unfold x; clear x)))
    | (extract_lets -underBinder -merge -useContext +onlyGivenNames x; clear_value x) | with_reducible apply Within.ite
    | with_reducible apply Within.after (opSherd_within _ _ _ _ _ _) | with_reducible apply Within.after (modSvc_within _ _ _)
    | with_reducible apply Within.after (PairW.snd (told_within _ _))
    | with_reducible refine Within.after (PairW.of (told_within _ _) (by with_reducible assumption)) ?_ ?_

theorem airchainRec_within (i : Fin 4) (flags : Nat) (r : CompareResult) (s : State) : Within
    { hostq := true, audio := true, cry := true } s (airchainRec i flags r s) := by
  unfold airchainRec
  repeat' first
    | with_reducible apply Within.rfl | with_reducible assumption | exact rfl
    | with_reducible apply Within.after (audioRec_within _ _ _ _ _ _) | split

theorem endCompare_within (i : Fin 4) (s : State) : Within { hostq := true, audio := true, port := true, cry := true } s
    (endCompare i s) := by
  unfold endCompare
  repeat' first
    | with_reducible apply Within.rfl | with_reducible assumption | exact rfl
    | (extract_lets -underBinder -merge -useContext +onlyGivenNames x; refine Within.cut x (fun hx => ?_) ?_; (on_goal 1 => clear_value x); (on_goal 2 => (unfold x; clear x)))
    | (extract_lets -underBinder -merge -useContext +onlyGivenNames x; clear_value x)
    | with_reducible apply Within.after (modAin_within _ _ _) | with_reducible apply Within.after (airchainRec_within _ _ _ _)

theorem endCompares_within (v : Fin 96) (s : State) : Within { hostq := true, audio := true, port := true, cry := true } s
    (endCompares v s) := by
  unfold endCompares
  repeat' first
    | with_reducible apply Within.rfl | with_reducible assumption | exact rfl
    | (with_reducible apply Within.foldl; on_goal 1 => (intro _ _)) | with_reducible apply Within.ite
    | with_reducible apply Within.after (endCompare_within _ _)

theorem loseRoutes_within (v : Fin 96) (s : State) : Within { port := true } s (loseRoutes v s) := by
  unfold loseRoutes
  repeat' first
    | with_reducible apply Within.rfl | with_reducible assumption | exact rfl | with_reducible apply Within.ite
    | with_reducible apply modPortSt_within | split

theorem setDepth_within (v : Fin 96) (ms : Nat) (stamp : DT) (s : State) : Within { mem := true } s (setDepth v ms stamp s) :=
    by
  unfold setDepth
  repeat' first
    | with_reducible apply Within.rfl | with_reducible assumption | exact rfl
    | (extract_lets -underBinder -merge -useContext +onlyGivenNames x; refine Within.cut x (fun hx => ?_) ?_; (on_goal 1 => clear_value x); (on_goal 2 => (unfold x; clear x)))
    | (extract_lets -underBinder -merge -useContext +onlyGivenNames x; clear_value x) | with_reducible apply Within.ite
    | with_reducible apply modMem_within | exact .inl rfl | exact .inr fun _ => rfl

theorem endBlock_within (v : Fin 96) (s : State) : Within
    { hostq := true, audio := true, cry := true, slots := true, mem := true } s (endBlock v s) := by
  unfold endBlock
  repeat' first
    | with_reducible apply Within.rfl | with_reducible assumption | exact rfl
    | (extract_lets -underBinder -merge -useContext +onlyGivenNames x; refine Within.cut x (fun hx => ?_) ?_; (on_goal 1 => clear_value x); (on_goal 2 => (unfold x; clear x)))
    | (extract_lets -underBinder -merge -useContext +onlyGivenNames x; clear_value x) | with_reducible apply Within.ite
    | with_reducible apply Within.after (hostBlock_within _ _ _ _ _)

theorem endService_within (v : Fin 96) (s : State) : Within
    { hostq := true, audio := true, port := true, mp := true, cry := true, slots := true, mem := true, mnt := true, vault := true }
    s (endService v s) := by
  unfold endService
  repeat' first
    | with_reducible apply Within.rfl | with_reducible assumption | exact rfl
    | (with_reducible apply Within.foldl; on_goal 1 => (intro _ _))
    | (extract_lets -underBinder -merge -useContext +onlyGivenNames x; refine Within.cut x (fun hx => ?_) ?_; (on_goal 1 => clear_value x); (on_goal 2 => (unfold x; clear x)))
    | (extract_lets -underBinder -merge -useContext +onlyGivenNames x; clear_value x) | with_reducible apply Within.ite
    | with_reducible apply Within.after (stopItem_within _ _ _) | with_reducible apply Within.after (endBlock_within _ _)
    | with_reducible apply Within.after (sigChain_within _ _) | with_reducible apply Within.after (setDepth_within _ _ _ _)
    | with_reducible apply Within.after (loseRoutes_within _ _) | with_reducible apply Within.after (endCompares_within _ _)
    | with_reducible apply Within.after (modSvc_within _ _ _) | with_reducible apply Within.after (finishC_within _ _)
    | with_reducible apply Within.after (reject_within _ _ _) | split

theorem declineSwitch_within (c : Fin 64) (reason : Nat) (s : State) : Within
    { hostq := true, due := true, paths := true, ctxs := true, mp := true, slots := true } s (declineSwitch c reason s) := by
  unfold declineSwitch
  repeat' first
    | with_reducible apply Within.rfl | with_reducible assumption | exact rfl
    | (extract_lets -underBinder -merge -useContext +onlyGivenNames x; refine Within.cut x (fun hx => ?_) ?_; (on_goal 1 => clear_value x); (on_goal 2 => (unfold x; clear x)))
    | (extract_lets -underBinder -merge -useContext +onlyGivenNames x; clear_value x)
    | with_reducible apply Within.after (dropPath_within _ _) | with_reducible apply Within.after (modCtx_within _ _ _)
    | with_reducible apply Within.after (raiseAt_within _ _ _ _) | split

end Sys2Proof.Machine
end

