-- ==== Sys2Proof/Laws/Context.lean ====
section
/-!
SUPPORT. Laws/Context.lean: what each operation of Machine/Context.lean leaves as it was.
-/
namespace Sys2Proof.Machine

theorem freeTuner_within (src : Nat) (s : State) : Within
    { hostq := true, tuners := true, due := true, paths := true, ctxs := true, mp := true, cry := true, slots := true, mnt := true, vault := true }
    s (freeTuner src s) := by
  unfold freeTuner
  repeat' first
    | with_reducible apply Within.rfl | with_reducible assumption | exact rfl
    | with_reducible apply Within.after (dropBranch_within _ _) | split

theorem freeAPath_within (s : State) : Within
    { hostq := true, tuners := true, due := true, paths := true, ctxs := true, mp := true, cry := true, slots := true, mnt := true, vault := true }
    s (freeAPath s) := by
  unfold freeAPath
  repeat' first
    | with_reducible apply Within.rfl | with_reducible assumption | exact rfl | with_reducible apply Within.ite
    | with_reducible apply Within.after (dropBranch_within _ _) | split

theorem tuneSource_within (src freq half : Nat) (c : Fin 64) (s : State) : Within
    { hostq := true, tuners := true, slip := true, due := true, paths := true, ctxs := true, mp := true, slots := true, mnt := true }
    s (tuneSource src freq half c s) := by
  unfold tuneSource
  repeat' first
    | with_reducible apply Within.rfl | with_reducible assumption | exact rfl | with_reducible apply Within.ite
    | with_reducible apply Within.after (tuneFor_within _ _ _ _ _) | split

theorem putContext_within (c : Fin 64) (std : Standard) (cfg : FieldSet) (src : Nat) (s : State) : OptW
    { hostq := true, tuners := true, slip := true, due := true, paths := true, ctxs := true, mp := true, cry := true, slots := true, mnt := true, vault := true }
    s (putContext c std cfg src s) := by
  unfold putContext
  repeat' first
    | with_reducible apply Within.rfl | with_reducible assumption | exact rfl
    | (extract_lets -underBinder -merge -useContext +onlyGivenNames x; refine OptW.cut x (fun hx => ?_) ?_; (on_goal 1 => clear_value x); (on_goal 2 => (unfold x; clear x)))
    | (extract_lets -underBinder -merge -useContext +onlyGivenNames x; clear_value x)
    | with_reducible apply optW_none | with_reducible apply optW_some | with_reducible apply Within.after (freeAPath_within _)
    | with_reducible apply Within.after (freeTuner_within _ _) | with_reducible apply Within.after (modCtx_within _ _ _)
    | with_reducible apply Within.after (tuneSource_within _ _ _ _ _)
    | with_reducible apply Within.after (openPath_within _ _ _ _ _ _) | split

theorem openExtras_within (h : Held) (c : Fin 64) (cfg : FieldSet) (s : State) : Within { ctxs := true, cx := true } s
    (openExtras h c cfg s) := by
  unfold openExtras
  repeat' first
    | with_reducible apply Within.rfl | with_reducible assumption | exact rfl
    | (extract_lets -underBinder -merge -useContext +onlyGivenNames x; refine Within.cut x (fun hx => ?_) ?_; (on_goal 1 => clear_value x); (on_goal 2 => (unfold x; clear x)))
    | with_reducible apply Within.ite | with_reducible apply modCx_within | exact .inl rfl | exact .inr fun _ => rfl
    | with_reducible apply Within.after (modCtx_within _ _ _) | with_reducible apply Within.after (emit_within _ _)

theorem doCtxOpen_within (h : Held) (s : State) : Within
    { hostq := true, tuners := true, slip := true, due := true, paths := true, ctxs := true, cx := true, mp := true, cry := true, slots := true, mnt := true, vault := true }
    s (doCtxOpen h s) := by
  unfold doCtxOpen
  repeat' first
    | with_reducible apply Within.rfl | with_reducible assumption | exact rfl
    | (extract_lets -underBinder -merge -useContext +onlyGivenNames x; refine Within.cut x (fun hx => ?_) ?_; (on_goal 1 => clear_value x); (on_goal 2 => (unfold x; clear x)))
    | (extract_lets -underBinder -merge -useContext +onlyGivenNames x; clear_value x) | with_reducible apply Within.ite
    | with_reducible apply Within.after (fail_within _ _ _ _ _) | with_reducible apply Within.after (reject_within _ _ _)
    | with_reducible apply Within.after (begin__within _ _) | with_reducible apply Within.after (openExtras_within _ _ _ _) | split
    | with_reducible apply Within.getD | with_reducible apply OptW.after (putContext_within _ _ _ _ _)
    | with_reducible refine Within.after (OptW.of (putContext_within _ _ _ _ _) (by with_reducible assumption)) ?_ ?_

theorem execCtxOpen_within (e : Entry) (s : State) : Stays
    { hostq := true, dt := true, tuners := true, slip := true, due := true, paths := true, ctxs := true, cx := true, mp := true, cry := true, slots := true, mnt := true, vault := true }
    s (execCtxOpen e s) := by
  unfold execCtxOpen
  repeat' first
    | with_reducible apply Within.rfl | with_reducible assumption | exact rfl | with_reducible apply stays_next
    | (with_reducible apply hostCmd_within; (on_goal 2 => (intro _ _)))
    | with_reducible apply Within.after (doCtxOpen_within _ _)

theorem withLive_within (c : Fin 64) (l : FieldSet) (s : State) : Within { ctxs := true } s (withLive c l s) := by
  unfold withLive
  repeat' first
    | with_reducible apply Within.rfl | with_reducible assumption | exact rfl | with_reducible apply Within.ite
    | with_reducible apply Within.after (modCtx_within _ _ _)

theorem doCtxStage_within (h : Held) (s : State) : Within { hostq := true, ctxs := true, mp := true, slots := true } s
    (doCtxStage h s) := by
  unfold doCtxStage
  repeat' first
    | with_reducible apply Within.rfl | with_reducible assumption | exact rfl
    | (extract_lets -underBinder -merge -useContext +onlyGivenNames x; refine Within.cut x (fun hx => ?_) ?_; (on_goal 1 => clear_value x); (on_goal 2 => (unfold x; clear x)))
    | (extract_lets -underBinder -merge -useContext +onlyGivenNames x; clear_value x) | with_reducible apply Within.ite
    | with_reducible apply Within.after (finish_within _ _ _ _) | with_reducible apply Within.after (modCtx_within _ _ _)
    | with_reducible apply Within.after (fail_within _ _ _ _ _) | with_reducible apply Within.after (reject_within _ _ _)
    | with_reducible apply Within.after (withLive_within _ _ _) | with_reducible apply Within.after (park_within _ _ _) | split
    | with_reducible refine Within.after (OptW.of (regrow_within _ _ _) (by with_reducible assumption)) ?_ ?_

theorem execCtxStage_within (e : Entry) (s : State) : Stays
    { hostq := true, dt := true, due := true, ctxs := true, mp := true, slots := true } s (execCtxStage e s) := by
  unfold execCtxStage
  repeat' first
    | with_reducible apply Within.rfl | with_reducible assumption | exact rfl | with_reducible apply stays_next
    | (with_reducible apply hostCmd_within; (on_goal 2 => (intro _ _)))
    | with_reducible apply Within.after (doCtxStage_within _ _)

theorem setTrim_within (v : Int) (s : State) (p : Fin 64) : Within { due := true, paths := true } s (setTrim v s p) := by
  unfold setTrim
  repeat' first
    | with_reducible apply Within.rfl | with_reducible assumption | exact rfl | with_reducible apply Within.ite
    | with_reducible apply Within.after (modPath_within _ _ _)

theorem liveEffects_within (c : Fin 64) (l : FieldSet) (s : State) : Within
    { hostq := true, tuners := true, slip := true, due := true, paths := true, ctxs := true, cx := true, mp := true, cry := true, slots := true, mnt := true, vault := true }
    s (liveEffects c l s) := by
  unfold liveEffects
  repeat' first
    | with_reducible apply Within.rfl | with_reducible assumption | exact rfl
    | (with_reducible apply Within.foldl; on_goal 1 => (intro _ _))
    | (extract_lets -underBinder -merge -useContext +onlyGivenNames x; refine Within.cut x (fun hx => ?_) ?_; (on_goal 1 => clear_value x); (on_goal 2 => (unfold x; clear x)))
    | (extract_lets -underBinder -merge -useContext +onlyGivenNames x; clear_value x) | with_reducible apply Within.ite
    | with_reducible apply modCx_within | exact .inl rfl | exact .inr fun _ => rfl
    | with_reducible apply Within.after (setTrim_within _ _ _) | with_reducible apply Within.after (modCtx_within _ _ _)
    | with_reducible apply Within.after (dropBranch_within _ _) | with_reducible apply Within.after (seekFailover_within _ _)

theorem applyStage_within (c : Fin 64) (r : State × FieldSet) (h : Held) : FstW
    { hostq := true, ctxs := true, mp := true, slots := true } r.1 (applyStage c r h) := by
  obtain ⟨s, acc⟩ := r
  unfold applyStage
  repeat' first
    | with_reducible apply Within.rfl | with_reducible assumption
    | with_reducible apply FstW.ite | with_reducible apply fstW_mk
    | (extract_lets -underBinder -merge -useContext +onlyGivenNames x; refine FstW.cut x (fun hx => ?_) ?_; (on_goal 1 => clear_value x); (on_goal 2 => (unfold x; clear x)))
    | (extract_lets -underBinder -merge -useContext +onlyGivenNames x; clear_value x)
    | with_reducible apply Within.after (modCtx_within _ _ _) | with_reducible apply Within.after (finish_within _ _ _ _)
    | with_reducible apply Within.after (reject_within _ _ _) | exact rfl | split

theorem applyLiveFields_within (c : Fin 64) (old : State) (r : State × FieldSet) : Within
    { hostq := true, tuners := true, slip := true, due := true, paths := true, ctxs := true, cx := true, mp := true, cry := true, slots := true, mnt := true, vault := true } r.1
    (applyLiveFields c old r) := by
  unfold applyLiveFields
  split
  · rename_i t e
    exact Within.after (liveEffects_within _ _ _) rfl (Within.after (OptW.of (regrow_within _ _ _) e) rfl
      (Within.after (withLive_within _ _ _) rfl Within.rfl))
  · exact Within.rfl

theorem applyStages_within (c : Fin 64) (hs : List Held) (s : State) : Within
    { hostq := true, tuners := true, slip := true, due := true, paths := true, ctxs := true, cx := true, mp := true, cry := true, slots := true, mnt := true, vault := true } s
    (applyStages c hs s) := by
  unfold applyStages
  exact Within.after (applyLiveFields_within _ _ _) rfl (Within.widen (FstW.foldl (applyStage_within c) (s, [])) rfl)

theorem moveSource_within (c : Fin 64) (src freq : Nat) (s : State) : Within
    { hostq := true, tuners := true, slip := true, due := true, paths := true, ctxs := true, mp := true, slots := true, mnt := true }
    s (moveSource c src freq s) := by
  unfold moveSource
  repeat' first
    | with_reducible apply Within.rfl | with_reducible assumption | exact rfl
    | (extract_lets -underBinder -merge -useContext +onlyGivenNames x; refine Within.cut x (fun hx => ?_) ?_; (on_goal 1 => clear_value x); (on_goal 2 => (unfold x; clear x)))
    | (extract_lets -underBinder -merge -useContext +onlyGivenNames x; clear_value x) | with_reducible apply Within.ite
    | with_reducible apply Within.after (modCtx_within _ _ _) | with_reducible apply Within.after (modPath_within _ _ _)
    | with_reducible apply Within.after (tuneSource_within _ _ _ _ _)
    | with_reducible apply Within.after (rebind_within _ _ _ _) | with_reducible apply Within.after (resumePath_within _ _)
    | with_reducible apply Within.after (resetPath_within _ _) | with_reducible apply Within.after (holdPath_within _ _)
    | with_reducible apply Within.after (releaseTuner_within _ _) | split

theorem doCtxCommit_within (h : Held) (s : State) : Within { hostq := true, ctxs := true, mp := true, slots := true } s
    (doCtxCommit h s) := by
  unfold doCtxCommit
  repeat' first
    | with_reducible apply Within.rfl | with_reducible assumption | exact rfl
    | (extract_lets -underBinder -merge -useContext +onlyGivenNames x; refine Within.cut x (fun hx => ?_) ?_; (on_goal 1 => clear_value x); (on_goal 2 => (unfold x; clear x)))
    | (extract_lets -underBinder -merge -useContext +onlyGivenNames x; clear_value x) | with_reducible apply Within.ite
    | with_reducible apply Within.after (park_within _ _ _) | with_reducible apply Within.after (fail_within _ _ _ _ _)
    | with_reducible apply Within.after (reject_within _ _ _) | with_reducible apply Within.after (withLive_within _ _ _)
    | with_reducible apply Within.after (deferCmd_within _ _ _) | split
    | with_reducible refine Within.after (OptW.of (regrow_within _ _ _) (by with_reducible assumption)) ?_ ?_

theorem execCtxCommit_within (e : Entry) (s : State) : Stays
    { hostq := true, dt := true, due := true, ctxs := true, mp := true, slots := true } s (execCtxCommit e s) := by
  unfold execCtxCommit
  repeat' first
    | with_reducible apply Within.rfl | with_reducible assumption | exact rfl | with_reducible apply stays_next
    | (with_reducible apply hostCmd_within; (on_goal 2 => (intro _ _)))
    | with_reducible apply Within.after (doCtxCommit_within _ _)

theorem commitPath_within (c : Fin 64) (s : State) : Within
    { hostq := true, tuners := true, slip := true, due := true, paths := true, ctxs := true, audio := true, mp := true, cry := true, slots := true, mnt := true, vault := true }
    s (commitPath c s) := by
  unfold commitPath
  repeat' first
    | with_reducible apply Within.rfl | with_reducible assumption | exact rfl
    | (extract_lets -underBinder -merge -useContext +onlyGivenNames x; refine Within.cut x (fun hx => ?_) ?_; (on_goal 1 => clear_value x); (on_goal 2 => (unfold x; clear x)))
    | (extract_lets -underBinder -merge -useContext +onlyGivenNames x; clear_value x) | with_reducible apply Within.ite
    | with_reducible apply Within.after (recheckBranch_within _ _) | with_reducible apply Within.after (moveSource_within _ _ _ _)
    | with_reducible apply Within.after (holdCtx_within _ _) | split

theorem holdBack_within (h : Held) (s : State) : Within { hostq := true, mp := true, slots := true } s (holdBack h s) := by
  unfold holdBack
  repeat' first
    | with_reducible apply Within.rfl | with_reducible assumption | exact rfl
    | with_reducible apply Within.after (modHeld_within _ _ _) | with_reducible apply Within.after (deferCmd_within _ _ _)

theorem applyCommit_within (c : Fin 64) (r : State × FieldSet) (h : Held) : FstW
    { hostq := true, tuners := true, slip := true, due := true, paths := true, ctxs := true, cx := true, audio := true, mp := true, cry := true, slots := true, mnt := true, vault := true } r.1
    (applyCommit c r h) := by
  obtain ⟨s, acc⟩ := r
  unfold applyCommit
  repeat' first
    | with_reducible apply Within.rfl | with_reducible assumption
    | with_reducible apply FstW.ite | with_reducible apply fstW_mk
    | (extract_lets -underBinder -merge -useContext +onlyGivenNames x; refine FstW.cut x (fun hx => ?_) ?_; (on_goal 1 => clear_value x); (on_goal 2 => (unfold x; clear x)))
    | (extract_lets -underBinder -merge -useContext +onlyGivenNames x; clear_value x)
    | with_reducible apply Within.after (modCtx_within _ _ _) | with_reducible apply Within.after (fail_within _ _ _ _ _)
    | with_reducible apply Within.after (reject_within _ _ _) | with_reducible apply Within.after (holdBack_within _ _)
    | with_reducible apply Within.after (commitPath_within _ _) | with_reducible apply Within.after (note_within _ _ _) | exact rfl | split

theorem applyFields_within (c : Fin 64) (s : State) : Within
    { hostq := true, tuners := true, slip := true, due := true, paths := true, ctxs := true, cx := true, audio := true, mp := true, cry := true, slots := true, mnt := true, vault := true } s
    (applyFields c s) := by
  unfold applyFields
  refine Within.after (applyLiveFields_within _ _ _) rfl (FstW.foldl (fun r h => ?_) (s, []))
  exact FstW.ite (Within.widen (applyStage_within c r h) rfl) (applyCommit_within c r h)

theorem applyMigrate_within (c : Fin 64) (s : State) (h : Held) : Within
    { hostq := true, ctxs := true, mp := true, slots := true } s (applyMigrate c s h) := by
  unfold applyMigrate
  repeat' first
    | with_reducible apply Within.rfl | with_reducible assumption | exact rfl
    | (extract_lets -underBinder -merge -useContext +onlyGivenNames x; clear_value x) | with_reducible apply Within.ite
    | with_reducible apply Within.after (finish_within _ _ _ _) | with_reducible apply Within.after (migrate_within _ _ _ _)
    | with_reducible apply Within.after (reject_within _ _ _) | split

theorem doCtxRetune_within (h : Held) (s : State) : Within { hostq := true, ctxs := true, mp := true, slots := true } s
    (doCtxRetune h s) := by
  unfold doCtxRetune
  repeat' first
    | with_reducible apply Within.rfl | with_reducible assumption | exact rfl
    | (extract_lets -underBinder -merge -useContext +onlyGivenNames x; clear_value x) | with_reducible apply Within.ite
    | with_reducible apply Within.after (fail_within _ _ _ _ _) | with_reducible apply Within.after (withLive_within _ _ _)
    | with_reducible apply Within.after (reject_within _ _ _) | with_reducible apply Within.after (deferCmd_within _ _ _)
    | with_reducible apply Within.after (park_within _ _ _) | split

theorem execCtxRetune_within (e : Entry) (s : State) : Stays
    { hostq := true, dt := true, due := true, ctxs := true, mp := true, slots := true } s (execCtxRetune e s) := by
  unfold execCtxRetune
  repeat' first
    | with_reducible apply Within.rfl | with_reducible assumption | exact rfl | with_reducible apply stays_next
    | (with_reducible apply hostCmd_within; (on_goal 2 => (intro _ _)))
    | with_reducible apply Within.after (doCtxRetune_within _ _)

theorem waitService_within (s : State) (v : Fin 96) : Within
    { hostq := true, audio := true, mp := true, cry := true, slots := true, mnt := true, vault := true } s (waitService s v) :=
    by
  unfold waitService
  repeat' first
    | with_reducible apply Within.rfl | with_reducible assumption | exact rfl
    | with_reducible apply Within.after (modSvc_within _ _ _) | with_reducible apply Within.after (stopItem_within _ _ _)

theorem raiseAlert_within (c : Fin 64) (f : AlertFlag) (on restated : Bool) (stamp : DT) (s : State) : Within
    { hostq := true, mp := true, cry := true, slots := true, mnt := true, vault := true } s (raiseAlert c f on restated stamp s)
    := by
  unfold raiseAlert
  repeat' first
    | with_reducible apply Within.rfl | with_reducible assumption | exact rfl
    | (extract_lets -underBinder -merge -useContext +onlyGivenNames x; refine Within.cut x (fun hx => ?_) ?_; (on_goal 1 => clear_value x); (on_goal 2 => (unfold x; clear x)))
    | (extract_lets -underBinder -merge -useContext +onlyGivenNames x; clear_value x) | with_reducible apply Within.ite
    | with_reducible apply Within.after (raiseAt_within _ _ _ _) | with_reducible apply Within.after (evSherd_within _ _ _ _)

theorem dropAlerts_within (c : Fin 64) (keep : AlertSt → Bool) (s : State) : Within
    { hostq := true, ctxs := true, mp := true, cry := true, slots := true, mnt := true, vault := true } s (dropAlerts c keep s)
    := by
  unfold dropAlerts
  repeat' first
    | with_reducible apply Within.rfl | with_reducible assumption | exact rfl
    | (with_reducible apply Within.foldl; on_goal 1 => (intro _ _))
    | (extract_lets -underBinder -merge -useContext +onlyGivenNames x; refine Within.cut x (fun hx => ?_) ?_; (on_goal 1 => clear_value x); (on_goal 2 => (unfold x; clear x)))
    | (extract_lets -underBinder -merge -useContext +onlyGivenNames x; clear_value x)
    | with_reducible apply Within.after (raiseAlert_within _ _ _ _ _ _) | with_reducible apply Within.after (modCtx_within _ _ _)

theorem zeroDemod_within (c : Fin 64) (s : State) : Within
    { hostq := true, ctxs := true, audio := true, mp := true, cry := true, slots := true, mnt := true, vault := true } s
    (zeroDemod c s) := by
  unfold zeroDemod
  repeat' first
    | with_reducible apply Within.rfl | with_reducible assumption | exact rfl
    | (with_reducible apply Within.foldl; on_goal 1 => (intro _ _))
    | (extract_lets -underBinder -merge -useContext +onlyGivenNames x; refine Within.cut x (fun hx => ?_) ?_; (on_goal 1 => clear_value x); (on_goal 2 => (unfold x; clear x)))
    | (extract_lets -underBinder -merge -useContext +onlyGivenNames x; clear_value x) | with_reducible apply Within.ite
    | with_reducible apply Within.after (dropAlerts_within _ _ _) | with_reducible apply Within.after (modCtx_within _ _ _)
    | with_reducible apply Within.after (waitService_within _ _)

theorem endCommits_within (c : Fin 64) (s : State) : Within { hostq := true, mp := true, slots := true } s (endCommits c s) :=
    by
  unfold endCommits
  repeat' first
    | with_reducible apply Within.rfl | with_reducible assumption | exact rfl
    | with_reducible apply Within.after (finishAllC_within _ _)

theorem retuneTo_within (c : Fin 64) (cfg : FieldSet) (src : Nat) (s : State) : Within
    { hostq := true, tuners := true, slip := true, due := true, paths := true, ctxs := true, audio := true, mp := true, cry := true, slots := true, mnt := true, vault := true }
    s (retuneTo c cfg src s) := by
  unfold retuneTo
  repeat' first
    | with_reducible apply Within.rfl | with_reducible assumption | exact rfl
    | (extract_lets -underBinder -merge -useContext +onlyGivenNames x; refine Within.cut x (fun hx => ?_) ?_; (on_goal 1 => clear_value x); (on_goal 2 => (unfold x; clear x)))
    | (extract_lets -underBinder -merge -useContext +onlyGivenNames x; clear_value x)
    | with_reducible apply Within.after (dropBranch_within _ _) | with_reducible apply Within.after (declineSwitch_within _ _ _)
    | with_reducible apply Within.after (modCtx_within _ _ _) | with_reducible apply Within.after (takeLength_within _ _)
    | with_reducible apply Within.after (endCommits_within _ _) | with_reducible apply Within.after (zeroDemod_within _ _)
    | with_reducible apply Within.after (moveSource_within _ _ _ _) | split

theorem applyRetune_within (c : Fin 64) (s : State) (h : Held) : Within
    { hostq := true, tuners := true, slip := true, due := true, paths := true, ctxs := true, audio := true, mp := true, cry := true, slots := true, mnt := true, vault := true }
    s (applyRetune c s h) := by
  unfold applyRetune
  repeat' first
    | with_reducible apply Within.rfl | with_reducible assumption | exact rfl
    | (extract_lets -underBinder -merge -useContext +onlyGivenNames x; refine Within.cut x (fun hx => ?_) ?_; (on_goal 1 => clear_value x); (on_goal 2 => (unfold x; clear x)))
    | (extract_lets -underBinder -merge -useContext +onlyGivenNames x; clear_value x) | with_reducible apply Within.ite
    | with_reducible apply Within.after (holdBack_within _ _) | with_reducible apply Within.after (fail_within _ _ _ _ _)
    | with_reducible apply Within.after (note_within _ _ _) | with_reducible apply Within.after (retuneTo_within _ _ _ _) | split

theorem doCtxClose_within (h : Held) (s : State) : Within { hostq := true, mp := true, slots := true } s (doCtxClose h s) := by
  unfold doCtxClose
  repeat' first
    | with_reducible apply Within.rfl | with_reducible assumption | exact rfl | with_reducible apply Within.ite
    | with_reducible apply Within.after (deferCmd_within _ _ _) | with_reducible apply Within.after (park_within _ _ _)
    | with_reducible apply Within.after (reject_within _ _ _) | split

theorem execCtxClose_within (e : Entry) (s : State) : Stays
    { hostq := true, dt := true, due := true, mp := true, slots := true } s (execCtxClose e s) := by
  unfold execCtxClose
  repeat' first
    | with_reducible apply Within.rfl | with_reducible assumption | exact rfl | with_reducible apply stays_next
    | (with_reducible apply hostCmd_within; (on_goal 2 => (intro _ _)))
    | with_reducible apply Within.after (doCtxClose_within _ _)

theorem closeCtx_within (c : Fin 64) (keep : Option Nat) (st : Status) (s : State) : Within
    { hostq := true, tuners := true, due := true, paths := true, ctxs := true, cx := true, audio := true, port := true, mp := true, cry := true, slots := true, mem := true, mnt := true, vault := true }
    s (closeCtx c keep st s) := by
  unfold closeCtx
  repeat' first
    | with_reducible apply Within.rfl | with_reducible assumption | exact rfl
    | (with_reducible apply Within.foldl; on_goal 1 => (intro _ _))
    | (extract_lets -underBinder -merge -useContext +onlyGivenNames x; refine Within.cut x (fun hx => ?_) ?_; (on_goal 1 => clear_value x); (on_goal 2 => (unfold x; clear x)))
    | (extract_lets -underBinder -merge -useContext +onlyGivenNames x; clear_value x)
    | with_reducible apply Within.after (modCtx_within _ _ _) | with_reducible apply Within.after (declineSwitch_within _ _ _)
    | with_reducible apply Within.after (endService_within _ _) | with_reducible apply Within.after (endSub_within _ _)
    | with_reducible apply Within.after (leaveSync_within _ _) | with_reducible apply Within.after (dropBranch_within _ _)
    | with_reducible apply Within.after (closePath_within _ _) | with_reducible apply Within.after (reject_within _ _ _)
    | with_reducible apply Within.after (releaseTuner_within _ _) | split

theorem applyClose_within (c : Fin 64) (h : Held) (s : State) : Within
    { hostq := true, tuners := true, due := true, paths := true, ctxs := true, cx := true, audio := true, port := true, mp := true, cry := true, slots := true, mem := true, mnt := true, vault := true }
    s (applyClose c h s) := by
  unfold applyClose
  repeat' first
    | with_reducible apply Within.rfl | with_reducible assumption | exact rfl | with_reducible apply Within.ite
    | with_reducible apply Within.after (holdBack_within _ _) | with_reducible apply Within.after (finishC_within _ _)
    | with_reducible apply Within.after (closeCtx_within _ _ _ _)

theorem addDiversity_within (c : Fin 64) (src : Nat) (s : State) : OptW
    { hostq := true, tuners := true, slip := true, due := true, paths := true, ctxs := true, mp := true, cry := true, slots := true, mnt := true, vault := true }
    s (addDiversity c src s) := by
  unfold addDiversity
  repeat' first
    | with_reducible apply Within.rfl | with_reducible assumption | exact rfl
    | (extract_lets -underBinder -merge -useContext +onlyGivenNames x; refine OptW.cut x (fun hx => ?_) ?_; (on_goal 1 => clear_value x); (on_goal 2 => (unfold x; clear x)))
    | (extract_lets -underBinder -merge -useContext +onlyGivenNames x; refine Within.cut x (fun hx => ?_) ?_; (on_goal 1 => clear_value x); (on_goal 2 => (unfold x; clear x)))
    | (extract_lets -underBinder -merge -useContext +onlyGivenNames x; clear_value x) | with_reducible apply optW_none
    | with_reducible apply optW_some | with_reducible apply Within.after (freeAPath_within _)
    | with_reducible apply Within.after (freeTuner_within _ _) | with_reducible apply Within.after (dropBranch_within _ _)
    | with_reducible apply Within.after (modCtx_within _ _ _) | with_reducible apply Within.after (tuneSource_within _ _ _ _ _)
    | with_reducible apply Within.after (boundTrim_within _ _) | with_reducible apply Within.after (openPath_within _ _ _ _ _ _)
    | split | with_reducible apply OptW.after (regrow_within _ _ _)
    | with_reducible refine Within.after (OptW.of (regrow_within _ _ _) (by with_reducible assumption)) ?_ ?_

theorem doCtxDiversity_within (h : Held) (s : State) : Within
    { hostq := true, tuners := true, slip := true, due := true, paths := true, ctxs := true, mp := true, cry := true, slots := true, mnt := true, vault := true }
    s (doCtxDiversity h s) := by
  unfold doCtxDiversity
  repeat' first
    | with_reducible apply Within.rfl | with_reducible assumption | exact rfl
    | (extract_lets -underBinder -merge -useContext +onlyGivenNames x; clear_value x) | with_reducible apply Within.ite
    | with_reducible apply Within.after (park_within _ _ _) | with_reducible apply Within.after (fail_within _ _ _ _ _)
    | with_reducible apply Within.after (reject_within _ _ _) | split

theorem execCtxDiversity_within (e : Entry) (s : State) : Stays
    { hostq := true, dt := true, tuners := true, slip := true, due := true, paths := true, ctxs := true, mp := true, cry := true, slots := true, mnt := true, vault := true }
    s (execCtxDiversity e s) := by
  unfold execCtxDiversity
  repeat' first
    | with_reducible apply Within.rfl | with_reducible assumption | exact rfl | with_reducible apply stays_next
    | (with_reducible apply hostCmd_within; (on_goal 2 => (intro _ _)))
    | with_reducible apply Within.after (doCtxDiversity_within _ _)

theorem applyDiversity_within (c : Fin 64) (s : State) (h : Held) : Within
    { hostq := true, tuners := true, slip := true, due := true, paths := true, ctxs := true, mp := true, cry := true, slots := true, mnt := true, vault := true }
    s (applyDiversity c s h) := by
  unfold applyDiversity
  dsimp only
  repeat' first
    | with_reducible apply Within.rfl | with_reducible assumption | exact rfl | with_reducible apply Within.ite
    | with_reducible apply Within.after (modCtx_within _ _ _) | with_reducible apply Within.after (dropBranch_within _ _)
    | with_reducible apply Within.after (seekFailover_within _ _) | with_reducible apply Within.after (finish_within _ _ _ _)
    | with_reducible apply Within.after (fail_within _ _ _ _ _) | with_reducible apply Within.after (reject_within _ _ _) | with_reducible apply Within.after (note_within _ _ _) | split
    | with_reducible refine Within.after (OptW.of (addDiversity_within _ _ _) (by with_reducible assumption)) ?_ ?_

end Sys2Proof.Machine
end

