-- ==== Sys2Proof/Laws/Afs.lean ====
section
/-!
SUPPORT. Laws/Afs.lean: what each operation of Machine/Afs.lean leaves as it was.
-/
namespace Sys2Proof.Machine

theorem forgetPi_within (p : AltFreq → Bool) (s : State) : Within { ctxs := true } s (forgetPi p s) := by
  unfold forgetPi
  repeat' first
    | with_reducible apply Within.rfl | with_reducible assumption | exact rfl | with_reducible apply Within.ite
    | with_reducible apply modCx_within | exact .inl rfl | exact .inr fun _ => rfl

theorem hopTo_within (n : Fin 4) (freq half : Nat) (s : State) : Within
    { hostq := true, tuners := true, slip := true, due := true, paths := true, ctxs := true, cx := true, mp := true, slots := true, mnt := true }
    s (hopTo n freq half s) := by
  unfold hopTo
  repeat' first
    | with_reducible apply Within.rfl | with_reducible assumption | exact rfl | with_reducible apply modCx_within | exact .inl rfl
    | exact .inr fun _ => rfl | with_reducible apply Within.after (beginChange_within _ _ _ _)
    | with_reducible apply Within.after (commitTuner_within _ _ _) | with_reducible apply Within.after (forgetPi_within _ _)

theorem endHop_within (n : Fin 4) (s : State) : Within { tuners := true, cx := true } s (endHop n s) := by
  unfold endHop
  repeat' first
    | with_reducible apply Within.rfl | with_reducible assumption | exact rfl
    | (extract_lets -underBinder -merge -useContext +onlyGivenNames x; refine Within.cut x (fun hx => ?_) ?_; (on_goal 1 => clear_value x); (on_goal 2 => (unfold x; clear x)))
    | (extract_lets -underBinder -merge -useContext +onlyGivenNames x; clear_value x) | with_reducible apply Within.ite
    | with_reducible apply modCx_within | exact .inl rfl | exact .inr fun _ => rfl
    | with_reducible apply Within.after (releaseTuner_within _ _)

theorem assignHop_within (plan : List ((Nat × Nat) × Option Nat)) (s : State) : Within
    { hostq := true, tuners := true, slip := true, due := true, paths := true, ctxs := true, cx := true, mp := true, slots := true, mnt := true }
    s (assignHop plan s) := by
  unfold assignHop
  repeat' first
    | with_reducible apply Within.rfl | with_reducible assumption | exact rfl
    | (with_reducible apply Within.foldl; on_goal 1 => (intro _ _))
    | (extract_lets -underBinder -merge -useContext +onlyGivenNames x; refine Within.cut x (fun hx => ?_) ?_; (on_goal 1 => clear_value x); (on_goal 2 => (unfold x; clear x)))
    | (extract_lets -underBinder -merge -useContext +onlyGivenNames x; clear_value x) | with_reducible apply Within.ite
    | with_reducible apply Within.after (endHop_within _ _) | with_reducible apply Within.after (hopTo_within _ _ _ _) | split

theorem assignMeters_within (s : State) : Within
    { hostq := true, tuners := true, slip := true, due := true, paths := true, ctxs := true, cx := true, mp := true, slots := true, mnt := true }
    s (assignMeters s) := by
  unfold assignMeters
  repeat' first
    | with_reducible apply Within.rfl | with_reducible assumption | exact rfl
    | (extract_lets -underBinder -merge -useContext +onlyGivenNames x; refine Within.cut x (fun hx => ?_) ?_; (on_goal 1 => clear_value x); (on_goal 2 => (unfold x; clear x)))
    | (extract_lets -underBinder -merge -useContext +onlyGivenNames x; clear_value x) | with_reducible apply Within.ite
    | with_reducible apply modCx_within | exact .inl rfl | exact .inr fun _ => rfl
    | with_reducible apply Within.after (assignHop_within _ _) | split

theorem execAfMeterInterval_within (t : DT) (freq : Nat) (level cnr multipath : Int) (pi : Option (Option Nat)) (s : State) :
    Stays { hostq := true, dt := true, tuners := true, slip := true, due := true, paths := true, ctxs := true, cx := true, mp := true, slots := true, mnt := true } s (execAfMeterInterval t freq level cnr multipath pi s) := by
  unfold execAfMeterInterval
  repeat' first
    | with_reducible apply Within.rfl | with_reducible assumption | exact rfl
    | (with_reducible apply Within.foldl; on_goal 1 => (intro _ _))
    | (extract_lets -underBinder -merge -useContext +onlyGivenNames x; refine Stays.cut x (fun hx => ?_) ?_; (on_goal 1 => clear_value x); (on_goal 2 => (unfold x; clear x)))
    | (extract_lets -underBinder -merge -useContext +onlyGivenNames x; refine Within.cut x (fun hx => ?_) ?_; (on_goal 1 => clear_value x); (on_goal 2 => (unfold x; clear x)))
    | (extract_lets -underBinder -merge -useContext +onlyGivenNames x; clear_value x) | with_reducible apply Stays.ite
    | with_reducible apply Within.ite | with_reducible apply stays_next | with_reducible apply Within.after (assignMeters_within _)
    | with_reducible apply Within.after (moment_within _ _) | with_reducible apply Within.after (modCtx_within _ _ _) | split

theorem execSharedMeterTurn_within (t : DT) (carver : Fin 8) (s : State) : Stays
    { hostq := true, dt := true, tuners := true, slip := true, due := true, paths := true, ctxs := true, cx := true, mp := true, slots := true, mnt := true }
    s (execSharedMeterTurn t carver s) := by
  unfold execSharedMeterTurn
  repeat' first
    | with_reducible apply Within.rfl | with_reducible assumption | exact rfl
    | (extract_lets -underBinder -merge -useContext +onlyGivenNames x; refine Stays.cut x (fun hx => ?_) ?_; (on_goal 1 => clear_value x); (on_goal 2 => (unfold x; clear x)))
    | (extract_lets -underBinder -merge -useContext +onlyGivenNames x; refine Within.cut x (fun hx => ?_) ?_; (on_goal 1 => clear_value x); (on_goal 2 => (unfold x; clear x)))
    | (extract_lets -underBinder -merge -useContext +onlyGivenNames x; clear_value x) | with_reducible apply Stays.ite
    | with_reducible apply Within.ite | with_reducible apply stays_next | with_reducible apply modCx_within | exact .inl rfl
    | exact .inr fun _ => rfl | with_reducible apply Within.after (assignMeters_within _)
    | with_reducible apply Within.after (moment_within _ _) | with_reducible apply Within.after (forgetPi_within _ _)

theorem execAfHopDwellEnd_within (t : DT) (n : Fin 4) (s : State) : Stays
    { hostq := true, dt := true, tuners := true, slip := true, due := true, paths := true, ctxs := true, cx := true, mp := true, slots := true, mnt := true }
    s (execAfHopDwellEnd t n s) := by
  unfold execAfHopDwellEnd
  repeat' first
    | with_reducible apply Within.rfl | with_reducible assumption | exact rfl
    | (extract_lets -underBinder -merge -useContext +onlyGivenNames x; refine Stays.cut x (fun hx => ?_) ?_; (on_goal 1 => clear_value x); (on_goal 2 => (unfold x; clear x)))
    | (extract_lets -underBinder -merge -useContext +onlyGivenNames x; refine Within.cut x (fun hx => ?_) ?_; (on_goal 1 => clear_value x); (on_goal 2 => (unfold x; clear x)))
    | (extract_lets -underBinder -merge -useContext +onlyGivenNames x; clear_value x) | with_reducible apply Stays.ite
    | with_reducible apply Within.ite | with_reducible apply stays_next | with_reducible apply modCx_within | exact .inl rfl
    | exact .inr fun _ => rfl | with_reducible apply Within.after (moment_within _ _)
    | with_reducible apply Within.after (rebind_within _ _ _ _) | with_reducible apply Within.after (tuneSource_within _ _ _ _ _)
    | with_reducible apply Within.after (endHop_within _ _) | with_reducible apply Within.after (assignMeters_within _)
    | with_reducible apply Within.after (hopTo_within _ _ _ _) | split

theorem openSwitch_within (c : Fin 64) (w : AfSwitch) (s : State) : OptW
    { hostq := true, due := true, paths := true, ctxs := true, mp := true, slots := true } s (openSwitch c w s) := by
  unfold openSwitch
  repeat' first
    | with_reducible apply Within.rfl | with_reducible assumption | exact rfl
    | (extract_lets -underBinder -merge -useContext +onlyGivenNames x; refine OptW.cut x (fun hx => ?_) ?_; (on_goal 1 => clear_value x); (on_goal 2 => (unfold x; clear x)))
    | (extract_lets -underBinder -merge -useContext +onlyGivenNames x; refine Within.cut x (fun hx => ?_) ?_; (on_goal 1 => clear_value x); (on_goal 2 => (unfold x; clear x)))
    | (extract_lets -underBinder -merge -useContext +onlyGivenNames x; clear_value x) | with_reducible apply OptW.ite
    | with_reducible apply Within.ite | with_reducible apply optW_none | with_reducible apply optW_some
    | with_reducible apply Within.after (modCtx_within _ _ _) | with_reducible apply Within.after (boundTrim_within _ _)
    | with_reducible apply Within.after (openPath_within _ _ _ _ _ _) | split
    | with_reducible apply OptW.after (regrow_within _ _ _) | (with_reducible apply OptW.map; on_goal 1 => (intro _))
    | with_reducible refine Within.after (OptW.of (regrow_within _ _ _) (by with_reducible assumption)) ?_ ?_

theorem startSwitch_within (c : Fin 64) (w : AfSwitch) (s : State) : Within
    { hostq := true, due := true, paths := true, ctxs := true, mp := true, slots := true } s (startSwitch c w s) := by
  unfold startSwitch
  repeat' first
    | with_reducible apply Within.rfl | with_reducible assumption | exact rfl
    | (extract_lets -underBinder -merge -useContext +onlyGivenNames x; refine Within.cut x (fun hx => ?_) ?_; (on_goal 1 => clear_value x); (on_goal 2 => (unfold x; clear x)))
    | with_reducible apply Within.ite | with_reducible apply Within.after (modCtx_within _ _ _)
    | with_reducible apply Within.after (declineSwitch_within _ _ _) | split
    | with_reducible refine Within.after (OptW.of (openSwitch_within _ _ _) (by with_reducible assumption)) ?_ ?_

theorem execAfPiConfirmed_within (t : DT) (c : Fin 64) (freq : Nat) (s : State) : Stays
    { hostq := true, dt := true, due := true, paths := true, ctxs := true, mp := true, slots := true } s (execAfPiConfirmed t c
    freq s) := by
  unfold execAfPiConfirmed
  repeat' first
    | with_reducible apply Within.rfl | with_reducible assumption | exact rfl
    | (extract_lets -underBinder -merge -useContext +onlyGivenNames x; refine Stays.cut x (fun hx => ?_) ?_; (on_goal 1 => clear_value x); (on_goal 2 => (unfold x; clear x)))
    | (extract_lets -underBinder -merge -useContext +onlyGivenNames x; refine Within.cut x (fun hx => ?_) ?_; (on_goal 1 => clear_value x); (on_goal 2 => (unfold x; clear x)))
    | (extract_lets -underBinder -merge -useContext +onlyGivenNames x; clear_value x) | with_reducible apply Stays.ite
    | with_reducible apply Within.ite | with_reducible apply stays_next | with_reducible apply Within.after (moment_within _ _)
    | with_reducible apply Within.after (modCtx_within _ _ _) | with_reducible apply Within.after (raiseAt_within _ _ _ _)
    | with_reducible apply Within.after (startSwitch_within _ _ _) | split

theorem execAfDecisionTimeout_within (t : DT) (c : Fin 64) (s : State) : Stays
    { hostq := true, dt := true, due := true, ctxs := true } s (execAfDecisionTimeout t c s) := by
  unfold execAfDecisionTimeout
  repeat' first
    | with_reducible apply Within.rfl | with_reducible assumption | exact rfl
    | (extract_lets -underBinder -merge -useContext +onlyGivenNames x; refine Stays.cut x (fun hx => ?_) ?_; (on_goal 1 => clear_value x); (on_goal 2 => (unfold x; clear x)))
    | with_reducible apply Stays.ite | with_reducible apply Within.ite | with_reducible apply stays_next
    | with_reducible apply Within.after (moment_within _ _) | with_reducible apply Within.after (modCtx_within _ _ _)

theorem resumeSwitch_within (c : Fin 64) (s : State) : Within
    { hostq := true, due := true, paths := true, ctxs := true, mp := true, slots := true } s (resumeSwitch c s) := by
  unfold resumeSwitch
  repeat' first
    | with_reducible apply Within.rfl | with_reducible assumption | exact rfl
    | (extract_lets -underBinder -merge -useContext +onlyGivenNames x; clear_value x) | with_reducible apply Within.ite
    | with_reducible apply Within.after (startSwitch_within _ _ _)
    | with_reducible apply Within.after (declineSwitch_within _ _ _) | split

theorem execAfCorrelationDone_within (t : DT) (c : Fin 64) (delay : Option Int) (s : State) : Stays
    { hostq := true, dt := true, due := true, ctxs := true } s (execAfCorrelationDone t c delay s) := by
  unfold execAfCorrelationDone
  repeat' first
    | with_reducible apply Within.rfl | with_reducible assumption | exact rfl
    | (extract_lets -underBinder -merge -useContext +onlyGivenNames x; refine Stays.cut x (fun hx => ?_) ?_; (on_goal 1 => clear_value x); (on_goal 2 => (unfold x; clear x)))
    | (extract_lets -underBinder -merge -useContext +onlyGivenNames x; refine Within.cut x (fun hx => ?_) ?_; (on_goal 1 => clear_value x); (on_goal 2 => (unfold x; clear x)))
    | (extract_lets -underBinder -merge -useContext +onlyGivenNames x; clear_value x) | with_reducible apply Stays.ite
    | with_reducible apply Within.ite | with_reducible apply stays_next | with_reducible apply Within.after (moment_within _ _)
    | with_reducible apply Within.after (modCtx_within _ _ _)

theorem finishSwitch_within (c : Fin 64) (w : AfSwitch) (new old : Fin 64) (s : State) : Within
    { hostq := true, tuners := true, slip := true, due := true, paths := true, ctxs := true, mp := true, cry := true, slots := true, mnt := true, vault := true }
    s (finishSwitch c w new old s) := by
  unfold finishSwitch
  repeat' first
    | with_reducible apply Within.rfl | with_reducible assumption | exact rfl
    | (extract_lets -underBinder -merge -useContext +onlyGivenNames x; refine Within.cut x (fun hx => ?_) ?_; (on_goal 1 => clear_value x); (on_goal 2 => (unfold x; clear x)))
    | (extract_lets -underBinder -merge -useContext +onlyGivenNames x; clear_value x) | with_reducible apply Within.ite
    | with_reducible apply Within.after (closePath_within _ _) | with_reducible apply Within.after (dropBranch_within _ _)
    | with_reducible apply Within.after (modCtx_within _ _ _) | with_reducible apply Within.after (releaseTuner_within _ _)
    | with_reducible apply Within.after (rebranch_within _ _) | with_reducible apply Within.after (evSherd_within _ _ _ _)
    | with_reducible apply Within.after (raiseAt_within _ _ _ _)

theorem execAfCrossfadeEnd_within (t : DT) (c : Fin 64) (s : State) : Stays
    { hostq := true, dt := true, tuners := true, slip := true, due := true, paths := true, ctxs := true, mp := true, cry := true, slots := true, mnt := true, vault := true }
    s (execAfCrossfadeEnd t c s) := by
  unfold execAfCrossfadeEnd
  repeat' first
    | with_reducible apply Within.rfl | with_reducible assumption | exact rfl
    | (extract_lets -underBinder -merge -useContext +onlyGivenNames x; refine Stays.cut x (fun hx => ?_) ?_; (on_goal 1 => clear_value x); (on_goal 2 => (unfold x; clear x)))
    | (extract_lets -underBinder -merge -useContext +onlyGivenNames x; refine Within.cut x (fun hx => ?_) ?_; (on_goal 1 => clear_value x); (on_goal 2 => (unfold x; clear x)))
    | (extract_lets -underBinder -merge -useContext +onlyGivenNames x; clear_value x) | with_reducible apply Stays.ite
    | with_reducible apply Within.ite | with_reducible apply stays_next | with_reducible apply Within.after (moment_within _ _)
    | with_reducible apply Within.after (finishSwitch_within _ _ _ _ _) | split

theorem execAfHoldoffExpiry_within (t : DT) (c : Fin 64) (s : State) : Stays
    { hostq := true, dt := true, due := true, ctxs := true } s (execAfHoldoffExpiry t c s) := by
  unfold execAfHoldoffExpiry
  repeat' first
    | with_reducible apply Within.rfl | with_reducible assumption | exact rfl
    | (extract_lets -underBinder -merge -useContext +onlyGivenNames x; refine Stays.cut x (fun hx => ?_) ?_; (on_goal 1 => clear_value x); (on_goal 2 => (unfold x; clear x)))
    | (extract_lets -underBinder -merge -useContext +onlyGivenNames x; clear_value x) | with_reducible apply Stays.ite
    | with_reducible apply Within.ite | with_reducible apply stays_next | with_reducible apply Within.after (moment_within _ _)
    | with_reducible apply Within.after (modCtx_within _ _ _) | split

theorem switchFrame_within (c : Fin 64) (s : State) : Within
    { hostq := true, tuners := true, slip := true, due := true, paths := true, ctxs := true, audio := true, mp := true, cry := true, slots := true, mnt := true, vault := true }
    s (switchFrame c s) := by
  unfold switchFrame
  repeat' first
    | with_reducible apply Within.rfl | with_reducible assumption | exact rfl
    | (extract_lets -underBinder -merge -useContext +onlyGivenNames x; refine Within.cut x (fun hx => ?_) ?_; (on_goal 1 => clear_value x); (on_goal 2 => (unfold x; clear x)))
    | (extract_lets -underBinder -merge -useContext +onlyGivenNames x; clear_value x) | with_reducible apply Within.ite
    | with_reducible apply Within.after (modCtx_within _ _ _) | with_reducible apply Within.after (retuneTo_within _ _ _ _)
    | with_reducible apply Within.after (declineSwitch_within _ _ _) | split

theorem execAfReportDue_within (t : DT) (c : Fin 64) (s : State) : Stays
    { hostq := true, dt := true, tuners := true, slip := true, due := true, paths := true, ctxs := true, cx := true, mp := true, cry := true, slots := true, mnt := true }
    s (execAfReportDue t c s) := by
  unfold execAfReportDue
  repeat' first
    | with_reducible apply Within.rfl | with_reducible assumption | exact rfl
    | (with_reducible apply Within.foldl; on_goal 1 => (intro _ _))
    | (extract_lets -underBinder -merge -useContext +onlyGivenNames x; refine Stays.cut x (fun hx => ?_) ?_; (on_goal 1 => clear_value x); (on_goal 2 => (unfold x; clear x)))
    | (extract_lets -underBinder -merge -useContext +onlyGivenNames x; refine Within.cut x (fun hx => ?_) ?_; (on_goal 1 => clear_value x); (on_goal 2 => (unfold x; clear x)))
    | (extract_lets -underBinder -merge -useContext +onlyGivenNames x; clear_value x) | with_reducible apply Stays.ite
    | with_reducible apply Within.ite | with_reducible apply stays_next | with_reducible apply Within.after (assignMeters_within _)
    | with_reducible apply Within.after (moment_within _ _) | with_reducible apply Within.after (modCtx_within _ _ _)
    | with_reducible apply Within.after (dataRec_within _ _ _ _ _ _) | split

theorem doAfPolicy_within (h : Held) (s : State) : Within { hostq := true, mp := true, slots := true } s (doAfPolicy h s) := by
  unfold doAfPolicy
  repeat' first
    | with_reducible apply Within.rfl | with_reducible assumption | exact rfl
    | (extract_lets -underBinder -merge -useContext +onlyGivenNames x; clear_value x) | with_reducible apply Within.ite
    | with_reducible apply Within.after (park_within _ _ _) | with_reducible apply Within.after (fail_within _ _ _ _ _)
    | with_reducible apply Within.after (reject_within _ _ _) | split

theorem execAfPolicy_within (e : Entry) (s : State) : Stays
    { hostq := true, dt := true, due := true, mp := true, slots := true } s (execAfPolicy e s) := by
  unfold execAfPolicy
  repeat' first
    | with_reducible apply Within.rfl | with_reducible assumption | exact rfl | with_reducible apply stays_next
    | (with_reducible apply hostCmd_within; (on_goal 2 => (intro _ _)))
    | with_reducible apply Within.after (doAfPolicy_within _ _)

theorem applyPolicy_within (c : Fin 64) (s : State) (h : Held) : Within
    { hostq := true, ctxs := true, mp := true, slots := true } s (applyPolicy c s h) := by
  unfold applyPolicy
  repeat' first
    | with_reducible apply Within.rfl | with_reducible assumption | exact rfl
    | (extract_lets -underBinder -merge -useContext +onlyGivenNames x; clear_value x) | with_reducible apply Within.ite
    | with_reducible apply Within.after (fail_within _ _ _ _ _) | with_reducible apply Within.after (finishC_within _ _)
    | with_reducible apply Within.after (modCtx_within _ _ _)

theorem applyList_within (c : Fin 64) (s : State) (h : Held) : Within { hostq := true, ctxs := true, mp := true, slots := true }
    s (applyList c s h) := by
  unfold applyList
  repeat' first
    | with_reducible apply Within.rfl | with_reducible assumption | exact rfl
    | (extract_lets -underBinder -merge -useContext +onlyGivenNames x; refine Within.cut x (fun hx => ?_) ?_; (on_goal 1 => clear_value x); (on_goal 2 => (unfold x; clear x)))
    | with_reducible apply Within.after (modCtx_within _ _ _) | with_reducible apply Within.after (finish_within _ _ _ _)

theorem doAfListSet_within (h : Held) (s : State) : Within { hostq := true, ctxs := true, mp := true, slots := true } s
    (doAfListSet h s) := by
  unfold doAfListSet
  repeat' first
    | with_reducible apply Within.rfl | with_reducible assumption | exact rfl | with_reducible apply Within.ite
    | with_reducible apply Within.after (park_within _ _ _) | with_reducible apply Within.after (applyList_within _ _ _)
    | with_reducible apply Within.after (reject_within _ _ _) | split

theorem execAfListSet_within (e : Entry) (s : State) : Stays
    { hostq := true, dt := true, due := true, ctxs := true, mp := true, slots := true } s (execAfListSet e s) := by
  unfold execAfListSet
  repeat' first
    | with_reducible apply Within.rfl | with_reducible assumption | exact rfl | with_reducible apply stays_next
    | (with_reducible apply hostCmd_within; (on_goal 2 => (intro _ _)))
    | with_reducible apply Within.after (doAfListSet_within _ _)

theorem doAlertConfig_within (h : Held) (s : State) : Within { hostq := true, mp := true, slots := true } s (doAlertConfig h s)
    := by
  unfold doAlertConfig
  repeat' first
    | with_reducible apply Within.rfl | with_reducible assumption | exact rfl | with_reducible apply Within.ite
    | with_reducible apply Within.after (park_within _ _ _) | with_reducible apply Within.after (reject_within _ _ _)

theorem execAlertConfig_within (e : Entry) (s : State) : Stays
    { hostq := true, dt := true, due := true, mp := true, slots := true } s (execAlertConfig e s) := by
  unfold execAlertConfig
  repeat' first
    | with_reducible apply Within.rfl | with_reducible assumption | exact rfl | with_reducible apply stays_next
    | (with_reducible apply hostCmd_within; (on_goal 2 => (intro _ _)))
    | with_reducible apply Within.after (doAlertConfig_within _ _)

theorem applyAlertConfig_within (c : Fin 64) (s : State) (h : Held) : Within
    { hostq := true, ctxs := true, mp := true, cry := true, slots := true, mnt := true, vault := true } s (applyAlertConfig c s
    h) := by
  unfold applyAlertConfig
  repeat' first
    | with_reducible apply Within.rfl | with_reducible assumption | exact rfl
    | (extract_lets -underBinder -merge -useContext +onlyGivenNames x; refine Within.cut x (fun hx => ?_) ?_; (on_goal 1 => clear_value x); (on_goal 2 => (unfold x; clear x)))
    | (extract_lets -underBinder -merge -useContext +onlyGivenNames x; clear_value x)
    | with_reducible apply Within.after (modCtx_within _ _ _) | with_reducible apply Within.after (finishC_within _ _)
    | with_reducible apply Within.after (dropAlerts_within _ _ _)

end Sys2Proof.Machine
end

