-- ==== Sys2Proof/Laws/Compare.lean ====
section
/-!
SUPPORT. Laws/Compare.lean: what each operation of Machine/Compare.lean leaves as it was.
-/
namespace Sys2Proof.Machine

theorem compareResult_within (i : Fin 4) (v : Fin 96) (s : State) : PairW {} s (compareResult i v s) := by
  unfold compareResult
  repeat' first
    | with_reducible apply Within.rfl | with_reducible assumption | exact rfl
    | (extract_lets -underBinder -merge -useContext +onlyGivenNames x; refine PairW.cut x (fun hx => ?_) ?_; (on_goal 1 => clear_value x); (on_goal 2 => (unfold x; clear x)))
    | (extract_lets -underBinder -merge -useContext +onlyGivenNames x; refine Within.cut x (fun hx => ?_) ?_; (on_goal 1 => clear_value x); (on_goal 2 => (unfold x; clear x)))
    | (extract_lets -underBinder -merge -useContext +onlyGivenNames x; clear_value x) | with_reducible apply PairW.ite
    | with_reducible apply Within.ite | with_reducible apply pairW_mk | split
    | with_reducible apply Within.after (PairW.snd (told_within _ _))
    | with_reducible refine Within.after (PairW.of (told_within _ _) (by with_reducible assumption)) ?_ ?_

theorem reportCompare_within (i : Fin 4) (changed : Bool) (s : State) : Within
    { hostq := true, audio := true, mp := true, cry := true, slots := true, mnt := true, vault := true } s (reportCompare i
    changed s) := by
  unfold reportCompare
  repeat' first
    | with_reducible apply Within.rfl | with_reducible assumption | exact rfl
    | (extract_lets -underBinder -merge -useContext +onlyGivenNames x; refine Within.cut x (fun hx => ?_) ?_; (on_goal 1 => clear_value x); (on_goal 2 => (unfold x; clear x)))
    | (extract_lets -underBinder -merge -useContext +onlyGivenNames x; clear_value x) | with_reducible apply Within.ite
    | with_reducible apply Within.after (airchainRec_within _ _ _ _)
    | with_reducible apply Within.after (opSherd_within _ _ _ _ _ _) | split
    | with_reducible apply Within.after (PairW.snd (compareResult_within _ _ _))
    | with_reducible refine Within.after (PairW.of (compareResult_within _ _ _) (by with_reducible assumption)) ?_ ?_

theorem followCompare_within (i : Fin 4) (s : State) : Within
    { hostq := true, audio := true, port := true, mp := true, cry := true, slots := true, mnt := true, vault := true } s
    (followCompare i s) := by
  unfold followCompare
  repeat' first
    | with_reducible apply Within.rfl | with_reducible assumption | exact rfl
    | (extract_lets -underBinder -merge -useContext +onlyGivenNames x; refine Within.cut x (fun hx => ?_) ?_; (on_goal 1 => clear_value x); (on_goal 2 => (unfold x; clear x)))
    | (extract_lets -underBinder -merge -useContext +onlyGivenNames x; clear_value x) | with_reducible apply Within.ite
    | with_reducible apply Within.after (reportCompare_within _ _ _) | with_reducible apply Within.after (modAin_within _ _ _)
    | split

theorem followCompares_within (v : Fin 96) (second : Bool) (s : State) : Within
    { hostq := true, audio := true, port := true, mp := true, cry := true, slots := true, mnt := true, vault := true } s
    (followCompares v second s) := by
  unfold followCompares
  repeat' first
    | with_reducible apply Within.rfl | with_reducible assumption | exact rfl
    | (with_reducible apply Within.foldl; on_goal 1 => (intro _ _)) | with_reducible apply Within.ite
    | with_reducible apply Within.after (followCompare_within _ _) | with_reducible apply Within.after (modAin_within _ _ _)

end Sys2Proof.Machine
end

