-- ==== Sys2Proof/Laws/Frame.lean ====
section
/-!
SUPPORT. Laws/Frame.lean: what each operation of Machine/Frame.lean leaves as it was.
-/
namespace Sys2Proof.Machine

theorem steer_within (c : Fin 64) (s : State) : Within { due := true, paths := true, ctxs := true } s (steer c s) := by
  unfold steer
  repeat' first
    | with_reducible apply Within.rfl | with_reducible assumption | exact rfl
    | (with_reducible apply Within.foldl; on_goal 1 => (intro _ _))
    | (extract_lets -underBinder -merge -useContext +onlyGivenNames x; refine Within.cut x (fun hx => ?_) ?_; (on_goal 1 => clear_value x); (on_goal 2 => (unfold x; clear x)))
    | (extract_lets -underBinder -merge -useContext +onlyGivenNames x; clear_value x) | with_reducible apply Within.ite
    | with_reducible apply Within.after (modCtx_within _ _ _) | with_reducible apply Within.after (setTrim_within _ _ _) | split

theorem endOpening_within (c : Fin 64) (s : State) : Within
    { hostq := true, tuners := true, slip := true, due := true, paths := true, ctxs := true, mp := true, slots := true, mnt := true }
    s (endOpening c s) := by
  unfold endOpening
  repeat' first
    | with_reducible apply Within.rfl | with_reducible assumption | exact rfl
    | (with_reducible apply Within.foldl; on_goal 1 => (intro _ _))
    | (extract_lets -underBinder -merge -useContext +onlyGivenNames x; refine Within.cut x (fun hx => ?_) ?_; (on_goal 1 => clear_value x); (on_goal 2 => (unfold x; clear x)))
    | (extract_lets -underBinder -merge -useContext +onlyGivenNames x; clear_value x) | with_reducible apply Within.ite
    | with_reducible apply Within.after (rebranch_within _ _) | with_reducible apply Within.after (finish_within _ _ _ _)

theorem endDiversity_within (c : Fin 64) (s : State) : Within { hostq := true, mp := true, slots := true } s (endDiversity c s)
    := by
  unfold endDiversity
  repeat' first
    | with_reducible apply Within.rfl | with_reducible assumption | exact rfl
    | (with_reducible apply Within.foldl; on_goal 1 => (intro _ _)) | with_reducible apply Within.ite
    | with_reducible apply Within.after (reject_within _ _ _) | with_reducible apply Within.after (finish_within _ _ _ _)

theorem endApplied_within (c : Fin 64) (s : State) : Within { hostq := true, mp := true, slots := true } s (endApplied c s) :=
    by
  unfold endApplied
  repeat' first
    | with_reducible apply Within.rfl | with_reducible assumption | exact rfl
    | (with_reducible apply Within.foldl; on_goal 1 => (intro _ _)) | with_reducible apply Within.after (finish_within _ _ _ _)

theorem pushAnalog_within (c : Fin 64) (start : DT) (s : State) : Within { audio := true } s (pushAnalog c start s) := by
  unfold pushAnalog
  repeat' first
    | with_reducible apply Within.rfl | with_reducible assumption | exact rfl
    | (with_reducible apply Within.foldl; on_goal 1 => (intro _ _))
    | (extract_lets -underBinder -merge -useContext +onlyGivenNames x; refine Within.cut x (fun hx => ?_) ?_; (on_goal 1 => clear_value x); (on_goal 2 => (unfold x; clear x)))
    | (extract_lets -underBinder -merge -useContext +onlyGivenNames x; clear_value x) | with_reducible apply Within.ite
    | with_reducible apply Within.after (modSvc_within _ _ _)

theorem takeFrame_within (c : Fin 64) (f : FrameFigures) (s : State) : Within
    { hostq := true, tuners := true, slip := true, due := true, paths := true, ctxs := true, audio := true, mp := true, slots := true, mnt := true }
    s (takeFrame c f s) := by
  unfold takeFrame
  repeat' first
    | with_reducible apply Within.rfl | with_reducible assumption | exact rfl
    | (extract_lets -underBinder -merge -useContext +onlyGivenNames x; refine Within.cut x (fun hx => ?_) ?_; (on_goal 1 => clear_value x); (on_goal 2 => (unfold x; clear x)))
    | (extract_lets -underBinder -merge -useContext +onlyGivenNames x; clear_value x)
    | with_reducible apply Within.after (modCtx_within _ _ _) | with_reducible apply Within.after (steer_within _ _)
    | with_reducible apply Within.after (pushAnalog_within _ _ _) | with_reducible apply Within.after (endDiversity_within _ _)
    | with_reducible apply Within.after (endApplied_within _ _) | with_reducible apply Within.after (endOpening_within _ _)

theorem applyMirror_within (c : Fin 64) (s : State) (h : Held) : Within
    { hostq := true, ctxs := true, mp := true, slots := true } s (applyMirror c s h) := by
  unfold applyMirror
  repeat' first
    | with_reducible apply Within.rfl | with_reducible assumption | exact rfl
    | (extract_lets -underBinder -merge -useContext +onlyGivenNames x; clear_value x) | with_reducible apply Within.ite
    | with_reducible apply Within.after (finish_within _ _ _ _) | with_reducible apply Within.after (modCtx_within _ _ _)
    | with_reducible apply Within.after (emit_within _ _)

theorem applyUnsubscribe_within (c : Fin 64) (s : State) (h : Held) : Within
    { hostq := true, cx := true, mp := true, cry := true, slots := true } s (applyUnsubscribe c s h) := by
  unfold applyUnsubscribe
  repeat' first
    | with_reducible apply Within.rfl | with_reducible assumption | exact rfl
    | (extract_lets -underBinder -merge -useContext +onlyGivenNames x; clear_value x) | with_reducible apply Within.ite
    | with_reducible apply Within.after (finishC_within _ _) | with_reducible apply Within.after (endSub_within _ _)
    | with_reducible apply Within.after (fail_within _ _ _ _ _)

theorem applyStops_within (c : Fin 64) (s : State) : Within
    { hostq := true, audio := true, port := true, mp := true, cry := true, slots := true, mem := true, mnt := true, vault := true }
    s (applyStops c s) := by
  unfold applyStops
  repeat' first
    | with_reducible apply Within.rfl | with_reducible assumption | exact rfl
    | (with_reducible apply Within.foldl; on_goal 1 => (intro _ _)) | with_reducible apply Within.ite
    | with_reducible apply Within.after (endService_within _ _)

theorem applyWaiting_within (c : Fin 64) (s : State) : Within
    { hostq := true, tuners := true, slip := true, due := true, paths := true, ctxs := true, cx := true, audio := true, port := true, mp := true, cry := true, slots := true, mem := true, mnt := true, vault := true }
    s (applyWaiting c s) := by
  unfold applyWaiting
  repeat' first
    | with_reducible apply Within.rfl | with_reducible assumption | exact rfl
    | (with_reducible apply Within.foldl; on_goal 1 => (intro _ _))
    | (extract_lets -underBinder -merge -useContext +onlyGivenNames x; refine Within.cut x (fun hx => ?_) ?_; (on_goal 1 => clear_value x); (on_goal 2 => (unfold x; clear x)))
    | (extract_lets -underBinder -merge -useContext +onlyGivenNames x; clear_value x)
    | with_reducible apply Within.after (applyMigrate_within _ _ _) | with_reducible apply Within.after (applyFields_within _ _)
    | with_reducible apply Within.after (applyPolicy_within _ _ _) | with_reducible apply Within.after (applyList_within _ _ _)
    | with_reducible apply Within.after (applyAlertConfig_within _ _ _)
    | with_reducible apply Within.after (applyMirror_within _ _ _)
    | with_reducible apply Within.after (applyUnsubscribe_within _ _ _) | with_reducible apply Within.after (applyStops_within _ _)
    | with_reducible apply Within.after (switchFrame_within _ _)

theorem applySelection_within (c : Fin 64) (s : State) : Within { ctxs := true } s (applySelection c s) := by
  unfold applySelection
  repeat' first
    | with_reducible apply Within.rfl | with_reducible assumption | exact rfl
    | (extract_lets -underBinder -merge -useContext +onlyGivenNames x; refine Within.cut x (fun hx => ?_) ?_; (on_goal 1 => clear_value x); (on_goal 2 => (unfold x; clear x)))
    | (extract_lets -underBinder -merge -useContext +onlyGivenNames x; clear_value x) | with_reducible apply Within.ite
    | with_reducible apply Within.after (modCtx_within _ _ _)

theorem frameBoundary_within (c : Fin 64) (s : State) : Within
    { hostq := true, tuners := true, slip := true, due := true, paths := true, ctxs := true, cx := true, audio := true, port := true, mp := true, cry := true, slots := true, mem := true, mnt := true, vault := true }
    s (frameBoundary c s) := by
  unfold frameBoundary
  repeat' first
    | with_reducible apply Within.rfl | with_reducible assumption | exact rfl
    | (extract_lets -underBinder -merge -useContext +onlyGivenNames x; refine Within.cut x (fun hx => ?_) ?_; (on_goal 1 => clear_value x); (on_goal 2 => (unfold x; clear x)))
    | (extract_lets -underBinder -merge -useContext +onlyGivenNames x; clear_value x) | with_reducible apply Within.ite
    | with_reducible apply Within.after (applyStages_within _ _ _) | with_reducible apply Within.after (applyClose_within _ _ _)
    | with_reducible apply Within.after (applySelection_within _ _) | with_reducible apply Within.after (applyWaiting_within _ _)
    | with_reducible apply Within.after (applyRetune_within _ _ _) | with_reducible apply Within.after (applyDiversity_within _ _ _)
    | split

theorem execContextFrame_within (t : DT) (c : Fin 64) (f : FrameFigures) (s : State) : Stays
    { hostq := true, dt := true, tuners := true, slip := true, due := true, paths := true, ctxs := true, cx := true, audio := true, port := true, mp := true, cry := true, slots := true, mem := true, mnt := true, vault := true }
    s (execContextFrame t c f s) := by
  unfold execContextFrame
  repeat' first
    | with_reducible apply Within.rfl | with_reducible assumption | exact rfl
    | (extract_lets -underBinder -merge -useContext +onlyGivenNames x; refine Stays.cut x (fun hx => ?_) ?_; (on_goal 1 => clear_value x); (on_goal 2 => (unfold x; clear x)))
    | (extract_lets -underBinder -merge -useContext +onlyGivenNames x; refine Within.cut x (fun hx => ?_) ?_; (on_goal 1 => clear_value x); (on_goal 2 => (unfold x; clear x)))
    | (extract_lets -underBinder -merge -useContext +onlyGivenNames x; clear_value x) | with_reducible apply Stays.ite
    | with_reducible apply Within.ite | with_reducible apply stays_next | with_reducible apply Within.after (moment_within _ _)
    | with_reducible apply Within.after (frameBoundary_within _ _) | with_reducible apply Within.after (takeFrame_within _ _ _)
    | with_reducible apply Within.after (modCtx_within _ _ _)

theorem execPathCommitApply_within (t : DT) (p : Fin 64) (s : State) : Stays
    { hostq := true, dt := true, tuners := true, slip := true, due := true, paths := true, ctxs := true, audio := true, mp := true, cry := true, slots := true, mnt := true, vault := true }
    s (execPathCommitApply t p s) := by
  unfold execPathCommitApply
  repeat' first
    | with_reducible apply Within.rfl | with_reducible assumption | exact rfl
    | (extract_lets -underBinder -merge -useContext +onlyGivenNames x; refine Stays.cut x (fun hx => ?_) ?_; (on_goal 1 => clear_value x); (on_goal 2 => (unfold x; clear x)))
    | (extract_lets -underBinder -merge -useContext +onlyGivenNames x; refine Within.cut x (fun hx => ?_) ?_; (on_goal 1 => clear_value x); (on_goal 2 => (unfold x; clear x)))
    | (extract_lets -underBinder -merge -useContext +onlyGivenNames x; clear_value x) | with_reducible apply Stays.ite
    | with_reducible apply Within.ite | with_reducible apply stays_next | with_reducible apply Within.after (moment_within _ _)
    | with_reducible apply Within.after (thresholdsAt_within _ _) | with_reducible apply Within.after (commitPath_within _ _)
    | split

theorem execAcquisitionHoldMet_within (t : DT) (c : Fin 64) (s : State) : Stays
    { hostq := true, dt := true, due := true, ctxs := true } s (execAcquisitionHoldMet t c s) := by
  unfold execAcquisitionHoldMet
  repeat' first
    | with_reducible apply Within.rfl | with_reducible assumption | exact rfl
    | (extract_lets -underBinder -merge -useContext +onlyGivenNames x; refine Stays.cut x (fun hx => ?_) ?_; (on_goal 1 => clear_value x); (on_goal 2 => (unfold x; clear x)))
    | with_reducible apply Stays.ite | with_reducible apply Within.ite | with_reducible apply stays_next
    | with_reducible apply Within.after (moment_within _ _) | with_reducible apply Within.after (modCtx_within _ _ _)

theorem execCnrLossTimeout_within (t : DT) (c : Fin 64) (s : State) : Stays
    { hostq := true, dt := true, due := true, ctxs := true } s (execCnrLossTimeout t c s) := by
  unfold execCnrLossTimeout
  repeat' first
    | with_reducible apply Within.rfl | with_reducible assumption | exact rfl
    | (extract_lets -underBinder -merge -useContext +onlyGivenNames x; refine Stays.cut x (fun hx => ?_) ?_; (on_goal 1 => clear_value x); (on_goal 2 => (unfold x; clear x)))
    | with_reducible apply Stays.ite | with_reducible apply Within.ite | with_reducible apply stays_next
    | with_reducible apply Within.after (moment_within _ _) | with_reducible apply Within.after (modCtx_within _ _ _)

theorem rescue_within (s : State) (c : Fin 64) : Within
    { hostq := true, due := true, paths := true, ctxs := true, audio := true } s (rescue s c) := by
  unfold rescue
  repeat' first
    | with_reducible apply Within.rfl | with_reducible assumption | exact rfl
    | (with_reducible apply Within.foldl; on_goal 1 => (intro _ _)) | with_reducible apply Within.ite
    | with_reducible apply Within.after (modCtx_within _ _ _) | with_reducible apply Within.after (holdCtx_within _ _)
    | with_reducible apply Within.after (holdPath_within _ _) | split

theorem hangSherds_within (w : Fin 16) (s : State) : Within { hostq := true, mp := true, sg := true, cry := true, slots := true, mnt := true, vault := true } s (hangSherds w s) := by
  unfold hangSherds
  repeat' first
    | with_reducible apply Within.rfl | with_reducible assumption | exact rfl
    | (extract_lets -underBinder -merge -useContext +onlyGivenNames x; refine Within.cut x (fun hx => ?_) ?_; (on_goal 1 => clear_value x); (on_goal 2 => (unfold x; clear x)))
    | (extract_lets -underBinder -merge -useContext +onlyGivenNames x; clear_value x)
    | with_reducible apply Within.after (legalFault_within _ _ _ _ _ _)
    | with_reducible apply Within.after (faultSherd_within _ _ _ _ _)

theorem execWheelWatchdogExpiry_within (t : DT) (w : Fin 16) (s : State) : Stays
    { hostq := true, dt := true, due := true, paths := true, ctxs := true, cx := true, audio := true, mp := true, sg := true, cry := true, slots := true, mnt := true, vault := true }
    s (execWheelWatchdogExpiry t w s) := by
  unfold execWheelWatchdogExpiry
  repeat' first
    | with_reducible apply Within.rfl | with_reducible assumption | exact rfl
    | (with_reducible apply Within.foldl; on_goal 1 => (intro _ _))
    | (extract_lets -underBinder -merge -useContext +onlyGivenNames x; refine Stays.cut x (fun hx => ?_) ?_; (on_goal 1 => clear_value x); (on_goal 2 => (unfold x; clear x)))
    | (extract_lets -underBinder -merge -useContext +onlyGivenNames x; refine Within.cut x (fun hx => ?_) ?_; (on_goal 1 => clear_value x); (on_goal 2 => (unfold x; clear x)))
    | (extract_lets -underBinder -merge -useContext +onlyGivenNames x; clear_value x) | with_reducible apply Stays.ite
    | with_reducible apply Within.ite | with_reducible apply stays_next | with_reducible apply Within.after (moment_within _ _)
    | with_reducible apply Within.after (modWheel_within _ _ _) | with_reducible apply Within.after (modCtx_within _ _ _)
    | with_reducible apply Within.after (hangSherds_within _ _) | with_reducible apply Within.after (rescue_within _ _)

theorem execHangBacklogCleared_within (t : DT) (w : Fin 16) (s : State) : Stays
    { hostq := true, dt := true, due := true, cx := true, mp := true, sg := true, cry := true, slots := true, mnt := true, vault := true }
    s (execHangBacklogCleared t w s) := by
  unfold execHangBacklogCleared
  repeat' first
    | with_reducible apply Within.rfl | with_reducible assumption | exact rfl
    | (with_reducible apply Within.foldl; on_goal 1 => (intro _ _))
    | (extract_lets -underBinder -merge -useContext +onlyGivenNames x; refine Stays.cut x (fun hx => ?_) ?_; (on_goal 1 => clear_value x); (on_goal 2 => (unfold x; clear x)))
    | (extract_lets -underBinder -merge -useContext +onlyGivenNames x; refine Within.cut x (fun hx => ?_) ?_; (on_goal 1 => clear_value x); (on_goal 2 => (unfold x; clear x)))
    | (extract_lets -underBinder -merge -useContext +onlyGivenNames x; clear_value x) | with_reducible apply Stays.ite
    | with_reducible apply Within.ite | with_reducible apply stays_next | with_reducible apply Within.after (moment_within _ _)
    | with_reducible apply Within.after (modWheel_within _ _ _) | with_reducible apply Within.after (evSherd_within _ _ _ _)
    | with_reducible apply Within.after (raiseAt_within _ _ _ _) | with_reducible apply Within.after (hangSherds_within _ _) | split

theorem retryRescue_within (s : State) (c : Fin 64) : Within
    { hostq := true, due := true, paths := true, ctxs := true, audio := true, mp := true, slots := true } s (retryRescue s c) :=
    by
  unfold retryRescue
  repeat' first
    | with_reducible apply Within.rfl | with_reducible assumption | exact rfl
    | (with_reducible apply Within.foldl; on_goal 1 => (intro _ _))
    | (extract_lets -underBinder -merge -useContext +onlyGivenNames x; refine Within.cut x (fun hx => ?_) ?_; (on_goal 1 => clear_value x); (on_goal 2 => (unfold x; clear x)))
    | with_reducible apply Within.ite | with_reducible apply Within.after (rescue_within _ _)
    | with_reducible apply Within.after (resumePath_within _ _)

theorem execWheelSelfTestDone_within (t : DT) (w : Fin 16) (pass : Bool) (s : State) : Stays
    { hostq := true, dt := true, due := true, paths := true, ctxs := true, cx := true, audio := true, mp := true, slots := true }
    s (execWheelSelfTestDone t w pass s) := by
  unfold execWheelSelfTestDone
  repeat' first
    | with_reducible apply Within.rfl | with_reducible assumption | exact rfl
    | (with_reducible apply Within.foldl; on_goal 1 => (intro _ _))
    | (extract_lets -underBinder -merge -useContext +onlyGivenNames x; refine Stays.cut x (fun hx => ?_) ?_; (on_goal 1 => clear_value x); (on_goal 2 => (unfold x; clear x)))
    | with_reducible apply Stays.ite | with_reducible apply Within.ite | with_reducible apply stays_next
    | with_reducible apply Within.after (moment_within _ _) | with_reducible apply Within.after (retryRescue_within _ _)
    | with_reducible apply Within.after (modWheel_within _ _ _)

theorem execFailoverBranchRetry_within (t : DT) (c : Fin 64) (s : State) : Stays
    { hostq := true, dt := true, tuners := true, slip := true, due := true, paths := true, ctxs := true, audio := true, mp := true, cry := true, slots := true, mnt := true, vault := true }
    s (execFailoverBranchRetry t c s) := by
  unfold execFailoverBranchRetry
  repeat' first
    | with_reducible apply Within.rfl | with_reducible assumption | exact rfl
    | (extract_lets -underBinder -merge -useContext +onlyGivenNames x; refine Stays.cut x (fun hx => ?_) ?_; (on_goal 1 => clear_value x); (on_goal 2 => (unfold x; clear x)))
    | (extract_lets -underBinder -merge -useContext +onlyGivenNames x; refine Within.cut x (fun hx => ?_) ?_; (on_goal 1 => clear_value x); (on_goal 2 => (unfold x; clear x)))
    | (extract_lets -underBinder -merge -useContext +onlyGivenNames x; clear_value x) | with_reducible apply Stays.ite
    | with_reducible apply Within.ite | with_reducible apply stays_next | with_reducible apply Within.after (moment_within _ _)
    | with_reducible apply Within.after (retryRescue_within _ _) | with_reducible apply Within.after (modCtx_within _ _ _)
    | with_reducible apply Within.after (reSource_within _ _) | with_reducible apply Within.after (seekFailover_within _ _)

theorem execEqAutoTimeout_within (t : DT) (c : Fin 64) (engage : Bool) (s : State) : Stays
    { hostq := true, dt := true, due := true, ctxs := true, mp := true, slots := true } s (execEqAutoTimeout t c engage s) := by
  unfold execEqAutoTimeout
  repeat' first
    | with_reducible apply Within.rfl | with_reducible assumption | exact rfl
    | (extract_lets -underBinder -merge -useContext +onlyGivenNames x; refine Stays.cut x (fun hx => ?_) ?_; (on_goal 1 => clear_value x); (on_goal 2 => (unfold x; clear x)))
    | (extract_lets -underBinder -merge -useContext +onlyGivenNames x; refine Within.cut x (fun hx => ?_) ?_; (on_goal 1 => clear_value x); (on_goal 2 => (unfold x; clear x)))
    | (extract_lets -underBinder -merge -useContext +onlyGivenNames x; clear_value x) | with_reducible apply Stays.ite
    | with_reducible apply Within.ite | with_reducible apply stays_next | with_reducible apply Within.after (moment_within _ _)
    | with_reducible apply Within.after (modCtx_within _ _ _) | split
    | with_reducible refine Within.after (OptW.of (regrow_within _ _ _) (by with_reducible assumption)) ?_ ?_

theorem execPilotDetectTimeout_within (t : DT) (c : Fin 64) (present : Bool) (s : State) : Stays
    { hostq := true, dt := true, due := true, ctxs := true } s (execPilotDetectTimeout t c present s) := by
  unfold execPilotDetectTimeout
  repeat' first
    | with_reducible apply Within.rfl | with_reducible assumption | exact rfl
    | (extract_lets -underBinder -merge -useContext +onlyGivenNames x; refine Stays.cut x (fun hx => ?_) ?_; (on_goal 1 => clear_value x); (on_goal 2 => (unfold x; clear x)))
    | (extract_lets -underBinder -merge -useContext +onlyGivenNames x; refine Within.cut x (fun hx => ?_) ?_; (on_goal 1 => clear_value x); (on_goal 2 => (unfold x; clear x)))
    | (extract_lets -underBinder -merge -useContext +onlyGivenNames x; clear_value x) | with_reducible apply Stays.ite
    | with_reducible apply Within.ite | with_reducible apply stays_next | with_reducible apply Within.after (moment_within _ _)
    | with_reducible apply Within.after (modCtx_within _ _ _)

theorem execMpxPowerUpdate_within (t : DT) (c : Fin 64) (meanSq : Nat) (s : State) : Stays
    { hostq := true, dt := true, due := true, ctxs := true } s (execMpxPowerUpdate t c meanSq s) := by
  unfold execMpxPowerUpdate
  repeat' first
    | with_reducible apply Within.rfl | with_reducible assumption | exact rfl
    | (with_reducible apply Within.foldl; on_goal 1 => (intro _ _))
    | (extract_lets -underBinder -merge -useContext +onlyGivenNames x; refine Stays.cut x (fun hx => ?_) ?_; (on_goal 1 => clear_value x); (on_goal 2 => (unfold x; clear x)))
    | (extract_lets -underBinder -merge -useContext +onlyGivenNames x; refine Within.cut x (fun hx => ?_) ?_; (on_goal 1 => clear_value x); (on_goal 2 => (unfold x; clear x)))
    | (extract_lets -underBinder -merge -useContext +onlyGivenNames x; clear_value x) | with_reducible apply Stays.ite
    | with_reducible apply Within.ite | with_reducible apply stays_next | with_reducible apply Within.after (moment_within _ _)
    | with_reducible apply Within.after (modCtx_within _ _ _) | with_reducible apply Within.after (useFree_within _) | split

theorem execMeasWindowEnd_within (t : DT) (c : Fin 64) (f : WindowFigures) (s : State) : Stays
    { hostq := true, dt := true, due := true, ctxs := true } s (execMeasWindowEnd t c f s) := by
  unfold execMeasWindowEnd
  repeat' first
    | with_reducible apply Within.rfl | with_reducible assumption | exact rfl
    | (extract_lets -underBinder -merge -useContext +onlyGivenNames x; refine Stays.cut x (fun hx => ?_) ?_; (on_goal 1 => clear_value x); (on_goal 2 => (unfold x; clear x)))
    | (extract_lets -underBinder -merge -useContext +onlyGivenNames x; refine Within.cut x (fun hx => ?_) ?_; (on_goal 1 => clear_value x); (on_goal 2 => (unfold x; clear x)))
    | (extract_lets -underBinder -merge -useContext +onlyGivenNames x; clear_value x) | with_reducible apply Stays.ite
    | with_reducible apply Within.ite | with_reducible apply stays_next | with_reducible apply Within.after (moment_within _ _)
    | with_reducible apply Within.after (modCtx_within _ _ _) | with_reducible apply Within.after (useFree_within _) | split

theorem doCtxGetQuality_within (h : Held) (s : State) : Within { hostq := true, mp := true, slots := true } s (doCtxGetQuality h
    s) := by
  unfold doCtxGetQuality
  repeat' first
    | with_reducible apply Within.rfl | with_reducible assumption | exact rfl
    | with_reducible apply Within.after (finishOut_within _ _ _ _ _) | with_reducible apply Within.after (reject_within _ _ _)
    | split

theorem execCtxGetQuality_within (e : Entry) (s : State) : Stays
    { hostq := true, dt := true, due := true, mp := true, slots := true } s (execCtxGetQuality e s) := by
  unfold execCtxGetQuality
  repeat' first
    | with_reducible apply Within.rfl | with_reducible assumption | exact rfl | with_reducible apply stays_next
    | (with_reducible apply hostCmd_within; (on_goal 2 => (intro _ _)))
    | with_reducible apply Within.after (doCtxGetQuality_within _ _)

end Sys2Proof.Machine
end

