-- ==== Sys2Proof/Laws/Side.lean ====
section
/-!
SUPPORT. Laws/Side.lean: what each operation of Machine/Side.lean leaves as it was.
-/
namespace Sys2Proof.Machine

theorem doDataSubscribe_within (h : Held) (s : State) : Within
    { hostq := true, ctxs := true, cx := true, mp := true, slots := true } s (doDataSubscribe h s) := by
  unfold doDataSubscribe
  repeat' first
    | with_reducible apply Within.rfl | with_reducible assumption | exact rfl
    | (extract_lets -underBinder -merge -useContext +onlyGivenNames x; refine Within.cut x (fun hx => ?_) ?_; (on_goal 1 => clear_value x); (on_goal 2 => (unfold x; clear x)))
    | (extract_lets -underBinder -merge -useContext +onlyGivenNames x; clear_value x) | with_reducible apply Within.ite
    | with_reducible apply modCx_within | exact .inl rfl | exact .inr fun _ => rfl
    | with_reducible apply Within.after (fail_within _ _ _ _ _) | with_reducible apply Within.after (reject_within _ _ _)
    | with_reducible apply Within.after (modCtx_within _ _ _) | with_reducible apply Within.after (finish_within _ _ _ _) | split
    | with_reducible refine Within.after (OptW.of (regrow_within _ _ _) (by with_reducible assumption)) ?_ ?_

theorem execDataSubscribe_within (e : Entry) (s : State) : Stays
    { hostq := true, dt := true, due := true, ctxs := true, cx := true, mp := true, slots := true } s (execDataSubscribe e s) :=
    by
  unfold execDataSubscribe
  repeat' first
    | with_reducible apply Within.rfl | with_reducible assumption | exact rfl | with_reducible apply stays_next
    | (with_reducible apply hostCmd_within; (on_goal 2 => (intro _ _)))
    | with_reducible apply Within.after (doDataSubscribe_within _ _)

theorem doDataUnsubscribe_within (h : Held) (s : State) : Within { hostq := true, mp := true, slots := true } s
    (doDataUnsubscribe h s) := by
  unfold doDataUnsubscribe
  repeat' first
    | with_reducible apply Within.rfl | with_reducible assumption | exact rfl | with_reducible apply Within.ite
    | with_reducible apply Within.after (park_within _ _ _) | with_reducible apply Within.after (fail_within _ _ _ _ _)
    | with_reducible apply Within.after (reject_within _ _ _) | split

theorem execDataUnsubscribe_within (e : Entry) (s : State) : Stays
    { hostq := true, dt := true, due := true, mp := true, slots := true } s (execDataUnsubscribe e s) := by
  unfold execDataUnsubscribe
  repeat' first
    | with_reducible apply Within.rfl | with_reducible assumption | exact rfl | with_reducible apply stays_next
    | (with_reducible apply hostCmd_within; (on_goal 2 => (intro _ _)))
    | with_reducible apply Within.after (doDataUnsubscribe_within _ _)

theorem execBufferFlushTimeout_within (t : DT) (cls : Fin 4) (s : State) : Stays
    { hostq := true, dt := true, due := true, cry := true } s (execBufferFlushTimeout t cls s) := by
  unfold execBufferFlushTimeout
  repeat' first
    | with_reducible apply Within.rfl | with_reducible assumption | exact rfl
    | (extract_lets -underBinder -merge -useContext +onlyGivenNames x; refine Stays.cut x (fun hx => ?_) ?_; (on_goal 1 => clear_value x); (on_goal 2 => (unfold x; clear x)))
    | with_reducible apply Stays.ite | with_reducible apply Within.ite | with_reducible apply stays_next
    | with_reducible apply Within.after (moment_within _ _) | with_reducible apply Within.after (returnBuffer_within _ _ _)
    | split

theorem takeFlag_within (c : Fin 64) (stamp : DT) (s : State) (f : AlertFlag) : Within
    { hostq := true, ctxs := true, mp := true, cry := true, slots := true, mnt := true, vault := true } s (takeFlag c stamp s f)
    := by
  unfold takeFlag
  dsimp only
  repeat' first
    | with_reducible apply Within.rfl | with_reducible assumption | exact rfl | with_reducible apply Within.ite
    | with_reducible apply Within.after (modCtx_within _ _ _)
    | with_reducible apply Within.after (raiseAlert_within _ _ _ _ _ _) | split

theorem takeFlags_within (c : Fin 64) (stamp : DT) (l : List AlertFlag) (s : State) : Within
    { hostq := true, ctxs := true, mp := true, cry := true, slots := true, mnt := true, vault := true } s (takeFlags c stamp l
    s) := by
  unfold takeFlags
  repeat' first
    | with_reducible apply Within.rfl | with_reducible assumption | exact rfl
    | (with_reducible apply Within.foldl; on_goal 1 => (intro _ _))
    | with_reducible apply Within.after (takeFlag_within _ _ _ _)

theorem takeText_within (limit : Nat) (id : BitVec 16) (flags : Nat) (s : State) (p : Segment × DT × Nat) : Within
    { hostq := true, cx := true, cry := true } s (takeText limit id flags s p) := by
  unfold takeText
  repeat' first
    | with_reducible apply Within.rfl | with_reducible assumption | exact rfl
    | (extract_lets -underBinder -merge -useContext +onlyGivenNames x; refine Within.cut x (fun hx => ?_) ?_; (on_goal 1 => clear_value x); (on_goal 2 => (unfold x; clear x)))
    | (extract_lets -underBinder -merge -useContext +onlyGivenNames x; clear_value x) | with_reducible apply Within.ite
    | with_reducible apply Within.after (dataRec_within _ _ _ _ _ _) | with_reducible apply Within.after (modSub_within _ _ _)
    | split

theorem modStat_within (c : Fin 64) (subch : Nat) (f : SubchStat → SubchStat) (s : State) : Within { ctxs := true } s (modStat c
    subch f s) := by
  unfold modStat
  repeat' first
    | with_reducible apply Within.rfl | with_reducible assumption | exact rfl | with_reducible apply Within.ite
    | with_reducible apply Within.after (modCtx_within _ _ _)

theorem takeMot_within (c : Fin 64) (subch : Nat) (id : BitVec 16) (flags : Nat) (s : State) (p : Segment × DT × Nat) : Within
    { hostq := true, ctxs := true, cx := true, cry := true } s (takeMot c subch id flags s p) := by
  unfold takeMot
  repeat' first
    | with_reducible apply Within.rfl | with_reducible assumption | exact rfl
    | (extract_lets -underBinder -merge -useContext +onlyGivenNames x; refine Within.cut x (fun hx => ?_) ?_; (on_goal 1 => clear_value x); (on_goal 2 => (unfold x; clear x)))
    | (extract_lets -underBinder -merge -useContext +onlyGivenNames x; clear_value x) | with_reducible apply Within.ite
    | with_reducible apply Within.after (modStat_within _ _ _ _)
    | with_reducible apply Within.after (deliverChanged_within _ _ _ _ _ _ _)
    | with_reducible apply Within.after (modSub_within _ _ _) | split

theorem execMotObjectTimeout_within (t : DT) (sub : BitVec 16) (s : State) : Stays
    { hostq := true, dt := true, due := true, ctxs := true, cx := true } s (execMotObjectTimeout t sub s) := by
  unfold execMotObjectTimeout
  repeat' first
    | with_reducible apply Within.rfl | with_reducible assumption | exact rfl
    | (extract_lets -underBinder -merge -useContext +onlyGivenNames x; refine Stays.cut x (fun hx => ?_) ?_; (on_goal 1 => clear_value x); (on_goal 2 => (unfold x; clear x)))
    | (extract_lets -underBinder -merge -useContext +onlyGivenNames x; refine Within.cut x (fun hx => ?_) ?_; (on_goal 1 => clear_value x); (on_goal 2 => (unfold x; clear x)))
    | (extract_lets -underBinder -merge -useContext +onlyGivenNames x; clear_value x) | with_reducible apply Stays.ite
    | with_reducible apply Within.ite | with_reducible apply stays_next | with_reducible apply modCx_within | exact .inl rfl
    | exact .inr fun _ => rfl | with_reducible apply Within.after (moment_within _ _)
    | with_reducible apply Within.after (modStat_within _ _ _ _) | split

theorem takeItem_within (c : Fin 64) (stamp : DT) (s : State) (g : Segment) : Within
    { hostq := true, ctxs := true, cx := true, cry := true } s (takeItem c stamp s g) := by
  unfold takeItem
  repeat' first
    | with_reducible apply Within.rfl | with_reducible assumption | exact rfl
    | (with_reducible apply Within.foldl; on_goal 1 => (intro _ _))
    | (extract_lets -underBinder -merge -useContext +onlyGivenNames x; refine Within.cut x (fun hx => ?_) ?_; (on_goal 1 => clear_value x); (on_goal 2 => (unfold x; clear x)))
    | (extract_lets -underBinder -merge -useContext +onlyGivenNames x; clear_value x) | with_reducible apply Within.ite
    | with_reducible apply Within.after (modCtx_within _ _ _)
    | with_reducible apply Within.after (deliverChanged_within _ _ _ _ _ _ _)

theorem takeGroup_within (c : Fin 64) (g : RdsGroup) (s : State) : Within
    { hostq := true, ctxs := true, cx := true, mp := true, cry := true, slots := true, mnt := true, vault := true } s (takeGroup
    c g s) := by
  unfold takeGroup
  repeat' first
    | with_reducible apply Within.rfl | with_reducible assumption | exact rfl
    | (with_reducible apply Within.foldl; on_goal 1 => (intro _ _))
    | (extract_lets -underBinder -merge -useContext +onlyGivenNames x; refine Within.cut x (fun hx => ?_) ?_; (on_goal 1 => clear_value x); (on_goal 2 => (unfold x; clear x)))
    | (extract_lets -underBinder -merge -useContext +onlyGivenNames x; clear_value x) | with_reducible apply Within.ite
    | with_reducible apply Within.after (modCtx_within _ _ _) | with_reducible apply Within.after (dataRec_within _ _ _ _ _ _)
    | with_reducible apply Within.after (takeItem_within _ _ _ _) | with_reducible apply Within.after (takeFlags_within _ _ _ _)

theorem execRdsGroupReceived_within (t : DT) (c : Fin 64) (g : RdsGroup) (s : State) : Stays
    { hostq := true, dt := true, due := true, ctxs := true, cx := true, mp := true, cry := true, slots := true, mnt := true, vault := true }
    s (execRdsGroupReceived t c g s) := by
  unfold execRdsGroupReceived
  repeat' first
    | with_reducible apply Within.rfl | with_reducible assumption | exact rfl
    | (extract_lets -underBinder -merge -useContext +onlyGivenNames x; refine Stays.cut x (fun hx => ?_) ?_; (on_goal 1 => clear_value x); (on_goal 2 => (unfold x; clear x)))
    | (extract_lets -underBinder -merge -useContext +onlyGivenNames x; refine Within.cut x (fun hx => ?_) ?_; (on_goal 1 => clear_value x); (on_goal 2 => (unfold x; clear x)))
    | (extract_lets -underBinder -merge -useContext +onlyGivenNames x; clear_value x) | with_reducible apply Stays.ite
    | with_reducible apply Within.ite | with_reducible apply stays_next | with_reducible apply Within.after (moment_within _ _)
    | with_reducible apply Within.after (modCtx_within _ _ _) | with_reducible apply Within.after (takeGroup_within _ _ _)

end Sys2Proof.Machine
end

