-- ==== Sys2Proof/Laws/Digital.lean ====
section
/-!
SUPPORT. Laws/Digital.lean: what each operation of Machine/Digital.lean leaves as it was.
-/
namespace Sys2Proof.Machine

theorem undoService_within (v : Fin 96) (s : State) : Within
    { hostq := true, audio := true, port := true, cry := true, mem := true } s (undoService v s) := by
  unfold undoService
  repeat' first
    | with_reducible apply Within.rfl | with_reducible assumption | exact rfl
    | with_reducible apply Within.after (modSvc_within _ _ _) | with_reducible apply Within.after (setDepth_within _ _ _ _)
    | with_reducible apply Within.after (loseRoutes_within _ _) | with_reducible apply Within.after (endCompares_within _ _)

theorem resumeService_within (c : Fin 64) (s : State) (v : Fin 96) : Within
    { hostq := true, audio := true, port := true, mp := true, cry := true, slots := true, mem := true } s (resumeService c s v)
    := by
  unfold resumeService
  repeat' first
    | with_reducible apply Within.rfl | with_reducible assumption | exact rfl
    | (extract_lets -underBinder -merge -useContext +onlyGivenNames x; refine Within.cut x (fun hx => ?_) ?_; (on_goal 1 => clear_value x); (on_goal 2 => (unfold x; clear x)))
    | (extract_lets -underBinder -merge -useContext +onlyGivenNames x; clear_value x) | with_reducible apply Within.ite
    | with_reducible apply Within.after (undoService_within _ _) | with_reducible apply Within.after (finish_within _ _ _ _)
    | with_reducible apply Within.after (modSvc_within _ _ _) | split

theorem dropStarts_within (c : Fin 64) (s : State) : Within
    { hostq := true, audio := true, port := true, mp := true, cry := true, slots := true, mem := true } s (dropStarts c s) := by
  unfold dropStarts
  repeat' first
    | with_reducible apply Within.rfl | with_reducible assumption | exact rfl
    | (with_reducible apply Within.foldl; on_goal 1 => (intro _ _)) | with_reducible apply Within.ite
    | with_reducible apply Within.after (undoService_within _ _) | with_reducible apply Within.after (reject_within _ _ _)
    | split

theorem denyGrown_within (c : Fin 64) (old s : State) : Within { ctxs := true } s (denyGrown c old s) := by
  unfold denyGrown
  repeat' first
    | with_reducible apply Within.rfl | with_reducible assumption | exact rfl
    | (extract_lets -underBinder -merge -useContext +onlyGivenNames x; refine Within.cut x (fun hx => ?_) ?_; (on_goal 1 => clear_value x); (on_goal 2 => (unfold x; clear x)))
    | (extract_lets -underBinder -merge -useContext +onlyGivenNames x; clear_value x)
    | with_reducible apply Within.after (modCtx_within _ _ _)

theorem settleCost_within (c : Fin 64) (old s : State) : Within
    { hostq := true, ctxs := true, audio := true, port := true, mp := true, cry := true, slots := true, mem := true } s
    (settleCost c old s) := by
  unfold settleCost
  repeat' first
    | with_reducible apply Within.rfl | with_reducible assumption | exact rfl
    | (extract_lets -underBinder -merge -useContext +onlyGivenNames x; refine Within.cut x (fun hx => ?_) ?_; (on_goal 1 => clear_value x); (on_goal 2 => (unfold x; clear x)))
    | (extract_lets -underBinder -merge -useContext +onlyGivenNames x; clear_value x)
    | with_reducible apply Within.after (modCtx_within _ _ _) | with_reducible apply Within.after (dropStarts_within _ _)
    | with_reducible apply Within.after (denyGrown_within _ _ _) | split | with_reducible apply Within.getD
    | with_reducible apply OptW.after (regrow_within _ _ _)
    | with_reducible refine Within.after (OptW.of (regrow_within _ _ _) (by with_reducible assumption)) ?_ ?_

theorem endSubGone_within (s : State) (u : Sub) : Within { hostq := true, cx := true, cry := true } s (endSubGone s u) := by
  unfold endSubGone
  repeat' first
    | with_reducible apply Within.rfl | with_reducible assumption | exact rfl
    | (extract_lets -underBinder -merge -useContext +onlyGivenNames x; refine Within.cut x (fun hx => ?_) ?_; (on_goal 1 => clear_value x); (on_goal 2 => (unfold x; clear x)))
    | with_reducible apply modCx_within | exact .inl rfl | exact .inr fun _ => rfl
    | with_reducible apply Within.after (dataRec_within _ _ _ _ _ _)

theorem applyOrg_within (c : Fin 64) (l : List Component) (s : State) : Within
    { hostq := true, ctxs := true, cx := true, audio := true, port := true, mp := true, cry := true, slots := true, mem := true, mnt := true, vault := true }
    s (applyOrg c l s) := by
  unfold applyOrg
  repeat' first
    | with_reducible apply Within.rfl | with_reducible assumption | exact rfl
    | (with_reducible apply Within.foldl; on_goal 1 => (intro _ _))
    | (extract_lets -underBinder -merge -useContext +onlyGivenNames x; refine Within.cut x (fun hx => ?_) ?_; (on_goal 1 => clear_value x); (on_goal 2 => (unfold x; clear x)))
    | (extract_lets -underBinder -merge -useContext +onlyGivenNames x; clear_value x) | with_reducible apply Within.ite
    | with_reducible apply Within.after (modCtx_within _ _ _) | with_reducible apply Within.after (endSubGone_within _ _)
    | with_reducible apply Within.after (waitService_within _ _) | with_reducible apply Within.after (settleCost_within _ _ _)
    | with_reducible apply Within.after (resumeService_within _ _ _) | split

theorem ensembleSherd_within (c : Fin 64) (old new cif cause : Nat) (s : State) : Within
    { hostq := true, mp := true, cry := true, slots := true, mnt := true, vault := true } s (ensembleSherd c old new cif cause
    s) := by
  unfold ensembleSherd
  repeat' first
    | with_reducible apply Within.rfl | with_reducible assumption | exact rfl
    | with_reducible apply Within.after (opSherd_within _ _ _ _ _ _)

theorem modDab_within (c : Fin 64) (f : DabSt → DabSt) (s : State) : Within { ctxs := true } s (modDab c f s) := by
  unfold modDab
  repeat' first
    | with_reducible apply Within.rfl | with_reducible assumption | exact rfl
    | with_reducible apply Within.after (modCtx_within _ _ _)

theorem execDabNullDetected_within (t : DT) (c : Fin 64) (sample : Nat) (s : State) : Stays
    { hostq := true, dt := true, due := true, ctxs := true } s (execDabNullDetected t c sample s) := by
  unfold execDabNullDetected
  repeat' first
    | with_reducible apply Within.rfl | with_reducible assumption | exact rfl
    | (extract_lets -underBinder -merge -useContext +onlyGivenNames x; refine Stays.cut x (fun hx => ?_) ?_; (on_goal 1 => clear_value x); (on_goal 2 => (unfold x; clear x)))
    | with_reducible apply Stays.ite | with_reducible apply Within.ite | with_reducible apply stays_next
    | with_reducible apply Within.after (moment_within _ _) | with_reducible apply Within.after (modDab_within _ _ _)

theorem takeLabel_within (c : Fin 64) (cif : Nat) (s : State) (l : Fin 4 × Nat × DT × List Byte) : Within
    { hostq := true, ctxs := true, cx := true, cry := true } s (takeLabel c cif s l) := by
  unfold takeLabel
  repeat' first
    | with_reducible apply Within.rfl | with_reducible assumption | exact rfl
    | (with_reducible apply Within.foldl; on_goal 1 => (intro _ _))
    | (extract_lets -underBinder -merge -useContext +onlyGivenNames x; refine Within.cut x (fun hx => ?_) ?_; (on_goal 1 => clear_value x); (on_goal 2 => (unfold x; clear x)))
    | (extract_lets -underBinder -merge -useContext +onlyGivenNames x; clear_value x) | with_reducible apply Within.ite
    | with_reducible apply Within.after (modDab_within _ _ _)
    | with_reducible apply Within.after (deliverChanged_within _ _ _ _ _ _ _) | split

theorem takeComponents_within (c : Fin 64) (f : FicData) (s : State) : Within
    { hostq := true, ctxs := true, cx := true, audio := true, port := true, mp := true, cry := true, slots := true, mem := true, mnt := true, vault := true }
    s (takeComponents c f s) := by
  unfold takeComponents
  repeat' first
    | with_reducible apply Within.rfl | with_reducible assumption | exact rfl
    | (extract_lets -underBinder -merge -useContext +onlyGivenNames x; clear_value x) | with_reducible apply Within.ite
    | with_reducible apply Within.after (applyOrg_within _ _ _)
    | with_reducible apply Within.after (ensembleSherd_within _ _ _ _ _ _)
    | with_reducible apply Within.after (modDab_within _ _ _) | split

theorem execFicDecoded_within (t : DT) (c : Fin 64) (f : FicData) (s : State) : Stays
    { hostq := true, dt := true, due := true, ctxs := true, cx := true, audio := true, port := true, mp := true, cry := true, slots := true, mem := true, mnt := true, vault := true }
    s (execFicDecoded t c f s) := by
  unfold execFicDecoded
  repeat' first
    | with_reducible apply Within.rfl | with_reducible assumption | exact rfl
    | (with_reducible apply Within.foldl; on_goal 1 => (intro _ _))
    | (extract_lets -underBinder -merge -useContext +onlyGivenNames x; refine Stays.cut x (fun hx => ?_) ?_; (on_goal 1 => clear_value x); (on_goal 2 => (unfold x; clear x)))
    | (extract_lets -underBinder -merge -useContext +onlyGivenNames x; refine Within.cut x (fun hx => ?_) ?_; (on_goal 1 => clear_value x); (on_goal 2 => (unfold x; clear x)))
    | (extract_lets -underBinder -merge -useContext +onlyGivenNames x; clear_value x) | with_reducible apply Stays.ite
    | with_reducible apply Within.ite | with_reducible apply stays_next | with_reducible apply Within.after (moment_within _ _)
    | with_reducible apply Within.after (dataRec_within _ _ _ _ _ _) | with_reducible apply Within.after (takeLabel_within _ _ _ _)
    | with_reducible apply Within.after (takeComponents_within _ _ _) | with_reducible apply Within.after (modDab_within _ _ _)
    | with_reducible apply Within.after (modCtx_within _ _ _) | with_reducible apply Within.after (takeFlags_within _ _ _ _) | split

theorem execDabFrameEnd_within (t : DT) (c : Fin 64) (syncHeld nullFound : Bool) (fibsPassed : Nat) (s : State) : Stays
    { hostq := true, dt := true, due := true, ctxs := true } s (execDabFrameEnd t c syncHeld nullFound fibsPassed s) := by
  unfold execDabFrameEnd
  repeat' first
    | with_reducible apply Within.rfl | with_reducible assumption | exact rfl
    | (extract_lets -underBinder -merge -useContext +onlyGivenNames x; refine Stays.cut x (fun hx => ?_) ?_; (on_goal 1 => clear_value x); (on_goal 2 => (unfold x; clear x)))
    | (extract_lets -underBinder -merge -useContext +onlyGivenNames x; refine Within.cut x (fun hx => ?_) ?_; (on_goal 1 => clear_value x); (on_goal 2 => (unfold x; clear x)))
    | (extract_lets -underBinder -merge -useContext +onlyGivenNames x; clear_value x) | with_reducible apply Stays.ite
    | with_reducible apply Within.ite | with_reducible apply stays_next | with_reducible apply Within.after (moment_within _ _)
    | with_reducible apply Within.after (modCtx_within _ _ _) | with_reducible apply Within.after (modDab_within _ _ _)

theorem selectSubs_within (c : Fin 64) (cif : Nat) (s : State) : Within { ctxs := true } s (selectSubs c cif s) := by
  unfold selectSubs
  repeat' first
    | with_reducible apply Within.rfl | with_reducible assumption | exact rfl
    | (extract_lets -underBinder -merge -useContext +onlyGivenNames x; refine Within.cut x (fun hx => ?_) ?_; (on_goal 1 => clear_value x); (on_goal 2 => (unfold x; clear x)))
    | (extract_lets -underBinder -merge -useContext +onlyGivenNames x; clear_value x)
    | with_reducible apply Within.after (modDab_within _ _ _) | split

theorem execCifBoundary_within (t : DT) (c : Fin 64) (cif : Nat) (received : Bool) (s : State) : Stays
    { hostq := true, dt := true, due := true, ctxs := true, cx := true, audio := true, port := true, mp := true, cry := true, slots := true, mem := true, mnt := true, vault := true }
    s (execCifBoundary t c cif received s) := by
  unfold execCifBoundary
  repeat' first
    | with_reducible apply Within.rfl | with_reducible assumption | exact rfl
    | (extract_lets -underBinder -merge -useContext +onlyGivenNames x; refine Stays.cut x (fun hx => ?_) ?_; (on_goal 1 => clear_value x); (on_goal 2 => (unfold x; clear x)))
    | (extract_lets -underBinder -merge -useContext +onlyGivenNames x; clear_value x) | with_reducible apply Stays.ite
    | with_reducible apply Within.ite | with_reducible apply stays_next | with_reducible apply Within.after (moment_within _ _)
    | with_reducible apply Within.after (applyOrg_within _ _ _) | with_reducible apply Within.after (modDab_within _ _ _)
    | with_reducible apply Within.after (selectSubs_within _ _ _) | split

theorem execLogicalFrameComplete_within (t : DT) (c : Fin 64) (subch : Nat) (stamp : DT) (f : LogicalFrame) (s : State) : Stays
    { hostq := true, dt := true, due := true, ctxs := true, cx := true, cry := true } s (execLogicalFrameComplete t c subch
    stamp f s) := by
  unfold execLogicalFrameComplete
  repeat' first
    | with_reducible apply Within.rfl | with_reducible assumption | exact rfl
    | (with_reducible apply Within.foldl; on_goal 1 => (intro _ _))
    | (extract_lets -underBinder -merge -useContext +onlyGivenNames x; refine Stays.cut x (fun hx => ?_) ?_; (on_goal 1 => clear_value x); (on_goal 2 => (unfold x; clear x)))
    | (extract_lets -underBinder -merge -useContext +onlyGivenNames x; refine Within.cut x (fun hx => ?_) ?_; (on_goal 1 => clear_value x); (on_goal 2 => (unfold x; clear x)))
    | (extract_lets -underBinder -merge -useContext +onlyGivenNames x; clear_value x) | with_reducible apply Stays.ite
    | with_reducible apply Within.ite | with_reducible apply stays_next | with_reducible apply Within.after (moment_within _ _)
    | with_reducible apply Within.after (modStat_within _ _ _ _) | with_reducible apply Within.after (dataRec_within _ _ _ _ _ _)
    | with_reducible apply Within.after (takeText_within _ _ _ _ _) | with_reducible apply Within.after (takeMot_within _ _ _ _ _ _)

theorem execDabReacquisition_within (t : DT) (c : Fin 64) (eid cif : Nat) (s : State) : Stays
    { hostq := true, dt := true, due := true, ctxs := true, mp := true, cry := true, slots := true, mnt := true, vault := true }
    s (execDabReacquisition t c eid cif s) := by
  unfold execDabReacquisition
  repeat' first
    | with_reducible apply Within.rfl | with_reducible assumption | exact rfl
    | (extract_lets -underBinder -merge -useContext +onlyGivenNames x; refine Stays.cut x (fun hx => ?_) ?_; (on_goal 1 => clear_value x); (on_goal 2 => (unfold x; clear x)))
    | (extract_lets -underBinder -merge -useContext +onlyGivenNames x; refine Within.cut x (fun hx => ?_) ?_; (on_goal 1 => clear_value x); (on_goal 2 => (unfold x; clear x)))
    | (extract_lets -underBinder -merge -useContext +onlyGivenNames x; clear_value x) | with_reducible apply Stays.ite
    | with_reducible apply Within.ite | with_reducible apply stays_next | with_reducible apply Within.after (moment_within _ _)
    | with_reducible apply Within.after (modDab_within _ _ _) | with_reducible apply Within.after (ensembleSherd_within _ _ _ _ _ _)
    | split

theorem execTiiListUpdate_within (t : DT) (c : Fin 64) (l : List (Nat × Nat × Int × Int)) (s : State) : Stays
    { hostq := true, dt := true, due := true, ctxs := true } s (execTiiListUpdate t c l s) := by
  unfold execTiiListUpdate
  repeat' first
    | with_reducible apply Within.rfl | with_reducible assumption | exact rfl
    | (with_reducible apply Within.foldl; on_goal 1 => (intro _ _))
    | (extract_lets -underBinder -merge -useContext +onlyGivenNames x; refine Stays.cut x (fun hx => ?_) ?_; (on_goal 1 => clear_value x); (on_goal 2 => (unfold x; clear x)))
    | (extract_lets -underBinder -merge -useContext +onlyGivenNames x; refine Within.cut x (fun hx => ?_) ?_; (on_goal 1 => clear_value x); (on_goal 2 => (unfold x; clear x)))
    | (extract_lets -underBinder -merge -useContext +onlyGivenNames x; clear_value x) | with_reducible apply Stays.ite
    | with_reducible apply Within.ite | with_reducible apply stays_next | with_reducible apply Within.after (moment_within _ _)
    | with_reducible apply Within.after (modDab_within _ _ _)

theorem modDrm_within (c : Fin 64) (f : DrmSt → DrmSt) (s : State) : Within { ctxs := true } s (modDrm c f s) := by
  unfold modDrm
  repeat' first
    | with_reducible apply Within.rfl | with_reducible assumption | exact rfl
    | with_reducible apply Within.after (modCtx_within _ _ _)

theorem takeStream_within (c : Fin 64) (s : State) (g : StreamFrame) : Within
    { hostq := true, ctxs := true, cx := true, cry := true } s (takeStream c s g) := by
  unfold takeStream
  dsimp only
  repeat' first
    | with_reducible apply Within.rfl | with_reducible assumption | exact rfl
    | (with_reducible apply Within.foldl; on_goal 1 => (intro _ _)) | with_reducible apply Within.ite
    | with_reducible apply Within.after (modDrm_within _ _ _) | with_reducible apply Within.after (dataRec_within _ _ _ _ _ _)
    | with_reducible apply Within.after (takeText_within _ _ _ _ _)

theorem execDrmFrameEnd_within (t : DT) (c : Fin 64) (f : DrmFrame) (s : State) : Stays
    { hostq := true, dt := true, due := true, ctxs := true, cx := true, audio := true, port := true, mp := true, cry := true, slots := true, mem := true, mnt := true, vault := true }
    s (execDrmFrameEnd t c f s) := by
  unfold execDrmFrameEnd
  repeat' first
    | with_reducible apply Within.rfl | with_reducible assumption | exact rfl
    | (with_reducible apply Within.foldl; on_goal 1 => (intro _ _))
    | (extract_lets -underBinder -merge -useContext +onlyGivenNames x; refine Stays.cut x (fun hx => ?_) ?_; (on_goal 1 => clear_value x); (on_goal 2 => (unfold x; clear x)))
    | (extract_lets -underBinder -merge -useContext +onlyGivenNames x; refine Within.cut x (fun hx => ?_) ?_; (on_goal 1 => clear_value x); (on_goal 2 => (unfold x; clear x)))
    | (extract_lets -underBinder -merge -useContext +onlyGivenNames x; clear_value x) | with_reducible apply Stays.ite
    | with_reducible apply Within.ite | with_reducible apply stays_next | with_reducible apply Within.after (moment_within _ _)
    | with_reducible apply Within.after (modCtx_within _ _ _) | with_reducible apply Within.after (applyOrg_within _ _ _)
    | with_reducible apply Within.after (dataRec_within _ _ _ _ _ _) | with_reducible apply Within.after (takeStream_within _ _ _)
    | split

theorem execSdcDecoded_within (t : DT) (c : Fin 64) (d : SdcData) (s : State) : Stays
    { hostq := true, dt := true, due := true, ctxs := true, cx := true, audio := true, port := true, mp := true, cry := true, slots := true, mem := true, mnt := true, vault := true }
    s (execSdcDecoded t c d s) := by
  unfold execSdcDecoded
  repeat' first
    | with_reducible apply Within.rfl | with_reducible assumption | exact rfl
    | (with_reducible apply Within.foldl; on_goal 1 => (intro _ _))
    | (extract_lets -underBinder -merge -useContext +onlyGivenNames x; refine Stays.cut x (fun hx => ?_) ?_; (on_goal 1 => clear_value x); (on_goal 2 => (unfold x; clear x)))
    | (extract_lets -underBinder -merge -useContext +onlyGivenNames x; refine Within.cut x (fun hx => ?_) ?_; (on_goal 1 => clear_value x); (on_goal 2 => (unfold x; clear x)))
    | (extract_lets -underBinder -merge -useContext +onlyGivenNames x; clear_value x) | with_reducible apply Stays.ite
    | with_reducible apply Within.ite | with_reducible apply stays_next | with_reducible apply Within.after (moment_within _ _)
    | with_reducible apply Within.after (modDrm_within _ _ _)
    | with_reducible apply Within.after (deliverChanged_within _ _ _ _ _ _ _)
    | with_reducible apply Within.after (applyOrg_within _ _ _) | with_reducible apply Within.after (takeFlags_within _ _ _ _)
    | with_reducible apply Within.after (modCtx_within _ _ _) | split

end Sys2Proof.Machine
end

