-- ==== Sys2Proof/Laws/Audio.lean ====
section
/-!
SUPPORT. Laws/Audio.lean: what each operation of Machine/Audio.lean leaves as it was.
-/
namespace Sys2Proof.Machine

theorem askComp_within (c : Fin 64) (k : Option Component) (s : State) : Within { ctxs := true } s (askComp c k s) := by
  unfold askComp
  repeat' first
    | with_reducible apply Within.rfl | with_reducible assumption | exact rfl
    | with_reducible apply Within.after (modCtx_within _ _ _) | split

theorem startService_within (h : Held) (c : Fin 64) (sid scids : Nat) (s : State) : Within
    { hostq := true, ctxs := true, audio := true, mp := true, slots := true } s (startService h c sid scids s) := by
  unfold startService
  repeat' first
    | with_reducible apply Within.rfl | with_reducible assumption | exact rfl
    | (extract_lets -underBinder -merge -useContext +onlyGivenNames x; refine Within.cut x (fun hx => ?_) ?_; (on_goal 1 => clear_value x); (on_goal 2 => (unfold x; clear x)))
    | (extract_lets -underBinder -merge -useContext +onlyGivenNames x; clear_value x) | with_reducible apply Within.ite
    | with_reducible apply Within.after (finish_within _ _ _ _) | with_reducible apply Within.after (reject_within _ _ _)
    | with_reducible apply Within.after (askComp_within _ _ _) | with_reducible apply Within.after (modSvc_within _ _ _)
    | with_reducible apply Within.after (deferCmd_within _ _ _) | with_reducible apply Within.after (note_within _ _ _) | split
    | with_reducible refine Within.after (OptW.of (regrow_within _ _ _) (by with_reducible assumption)) ?_ ?_

theorem changeService_within (h : Held) (v : Fin 96) (s : State) : Within
    { hostq := true, ctxs := true, audio := true, mp := true, slots := true } s (changeService h v s) := by
  unfold changeService
  repeat' first
    | with_reducible apply Within.rfl | with_reducible assumption | exact rfl
    | (extract_lets -underBinder -merge -useContext +onlyGivenNames x; refine Within.cut x (fun hx => ?_) ?_; (on_goal 1 => clear_value x); (on_goal 2 => (unfold x; clear x)))
    | (extract_lets -underBinder -merge -useContext +onlyGivenNames x; clear_value x) | with_reducible apply Within.ite
    | with_reducible apply Within.after (fail_within _ _ _ _ _) | with_reducible apply Within.after (reject_within _ _ _)
    | with_reducible apply Within.after (modSvc_within _ _ _) | with_reducible apply Within.after (park_within _ _ _) | split
    | with_reducible refine Within.after (OptW.of (regrow_within _ _ _) (by with_reducible assumption)) ?_ ?_

theorem doAudServiceStart_within (h : Held) (s : State) : Within
    { hostq := true, ctxs := true, audio := true, mp := true, slots := true } s (doAudServiceStart h s) := by
  unfold doAudServiceStart
  repeat' first
    | with_reducible apply Within.rfl | with_reducible assumption | exact rfl
    | (extract_lets -underBinder -merge -useContext +onlyGivenNames x; refine Within.cut x (fun hx => ?_) ?_; (on_goal 1 => clear_value x); (on_goal 2 => (unfold x; clear x)))
    | (extract_lets -underBinder -merge -useContext +onlyGivenNames x; clear_value x) | with_reducible apply Within.ite
    | with_reducible apply Within.after (changeService_within _ _ _) | with_reducible apply Within.after (reject_within _ _ _)
    | with_reducible apply Within.after (fail_within _ _ _ _ _) | with_reducible apply Within.after (startService_within _ _ _ _ _)
    | split

theorem execAudServiceStart_within (e : Entry) (s : State) : Stays
    { hostq := true, dt := true, due := true, ctxs := true, audio := true, mp := true, slots := true } s (execAudServiceStart e
    s) := by
  unfold execAudServiceStart
  repeat' first
    | with_reducible apply Within.rfl | with_reducible assumption | exact rfl | with_reducible apply stays_next
    | (with_reducible apply hostCmd_within; (on_goal 2 => (intro _ _)))
    | with_reducible apply Within.after (doAudServiceStart_within _ _)

theorem doAudServiceStop_within (h : Held) (s : State) : Within { hostq := true, mp := true, slots := true } s (doAudServiceStop
    h s) := by
  unfold doAudServiceStop
  repeat' first
    | with_reducible apply Within.rfl | with_reducible assumption | exact rfl | with_reducible apply Within.ite
    | with_reducible apply Within.after (park_within _ _ _) | with_reducible apply Within.after (reject_within _ _ _)

theorem execAudServiceStop_within (e : Entry) (s : State) : Stays
    { hostq := true, dt := true, due := true, mp := true, slots := true } s (execAudServiceStop e s) := by
  unfold execAudServiceStop
  repeat' first
    | with_reducible apply Within.rfl | with_reducible assumption | exact rfl | with_reducible apply stays_next
    | (with_reducible apply hostCmd_within; (on_goal 2 => (intro _ _)))
    | with_reducible apply Within.after (doAudServiceStop_within _ _)

theorem doAudLoudnessConfig_within (h : Held) (s : State) : Within { hostq := true, mp := true, slots := true } s
    (doAudLoudnessConfig h s) := by
  unfold doAudLoudnessConfig
  repeat' first
    | with_reducible apply Within.rfl | with_reducible assumption | exact rfl | with_reducible apply Within.ite
    | with_reducible apply Within.after (park_within _ _ _) | with_reducible apply Within.after (reject_within _ _ _)

theorem execAudLoudnessConfig_within (e : Entry) (s : State) : Stays
    { hostq := true, dt := true, due := true, mp := true, slots := true } s (execAudLoudnessConfig e s) := by
  unfold execAudLoudnessConfig
  repeat' first
    | with_reducible apply Within.rfl | with_reducible assumption | exact rfl | with_reducible apply stays_next
    | (with_reducible apply hostCmd_within; (on_goal 2 => (intro _ _)))
    | with_reducible apply Within.after (doAudLoudnessConfig_within _ _)

theorem doAudSignatureConfig_within (h : Held) (s : State) : Within { hostq := true, mp := true, slots := true } s
    (doAudSignatureConfig h s) := by
  unfold doAudSignatureConfig
  repeat' first
    | with_reducible apply Within.rfl | with_reducible assumption | exact rfl
    | (extract_lets -underBinder -merge -useContext +onlyGivenNames x; refine Within.cut x (fun hx => ?_) ?_; (on_goal 1 => clear_value x); (on_goal 2 => (unfold x; clear x)))
    | (extract_lets -underBinder -merge -useContext +onlyGivenNames x; clear_value x) | with_reducible apply Within.ite
    | with_reducible apply Within.after (park_within _ _ _) | with_reducible apply Within.after (reject_within _ _ _)
    | with_reducible apply Within.after (fail_within _ _ _ _ _) | split

theorem execAudSignatureConfig_within (e : Entry) (s : State) : Stays
    { hostq := true, dt := true, due := true, mp := true, slots := true } s (execAudSignatureConfig e s) := by
  unfold execAudSignatureConfig
  repeat' first
    | with_reducible apply Within.rfl | with_reducible assumption | exact rfl | with_reducible apply stays_next
    | (with_reducible apply hostCmd_within; (on_goal 2 => (intro _ _)))
    | with_reducible apply Within.after (doAudSignatureConfig_within _ _)

theorem endRemoved_within (s : State) : Within
    { hostq := true, audio := true, mp := true, cry := true, slots := true, mnt := true, vault := true } s (endRemoved s) := by
  unfold endRemoved
  repeat' first
    | with_reducible apply Within.rfl | with_reducible assumption | exact rfl
    | (with_reducible apply Within.foldl; on_goal 1 => (intro _ _)) | with_reducible apply Within.ite
    | with_reducible apply Within.after (stopItem_within _ _ _) | split

theorem applyLib_within (s : State) (h : Held) : Within
    { hostq := true, audio := true, mp := true, cry := true, slots := true, mnt := true, vault := true } s (applyLib s h) := by
  unfold applyLib
  dsimp only
  repeat' first
    | with_reducible apply Within.rfl | with_reducible assumption | exact rfl | with_reducible apply Within.ite
    | with_reducible apply modAudio_within | with_reducible apply Within.after (endRemoved_within _)
    | with_reducible apply Within.after (finish_within _ _ _ _) | with_reducible apply Within.after (fail_within _ _ _ _ _)
    | split

theorem execLibraryChangeApply_within (t : DT) (s : State) : Stays
    { hostq := true, dt := true, due := true, audio := true, mp := true, cry := true, slots := true, mnt := true, vault := true }
    s (execLibraryChangeApply t s) := by
  unfold execLibraryChangeApply
  repeat' first
    | with_reducible apply Within.rfl | with_reducible assumption | exact rfl
    | (with_reducible apply Within.foldl; on_goal 1 => (intro _ _))
    | (extract_lets -underBinder -merge -useContext +onlyGivenNames x; refine Stays.cut x (fun hx => ?_) ?_; (on_goal 1 => clear_value x); (on_goal 2 => (unfold x; clear x)))
    | (extract_lets -underBinder -merge -useContext +onlyGivenNames x; refine Within.cut x (fun hx => ?_) ?_; (on_goal 1 => clear_value x); (on_goal 2 => (unfold x; clear x)))
    | (extract_lets -underBinder -merge -useContext +onlyGivenNames x; clear_value x) | with_reducible apply Stays.ite
    | with_reducible apply Within.ite | with_reducible apply stays_next | with_reducible apply Within.after (moment_within _ _)
    | with_reducible apply Within.after (applyLib_within _ _)

theorem execAccessUnitDecoded_within (t : DT) (svc : Fin 96) (u : AccessUnit) (s : State) : Stays
    { hostq := true, dt := true, due := true, audio := true } s (execAccessUnitDecoded t svc u s) := by
  unfold execAccessUnitDecoded
  repeat' first
    | with_reducible apply Within.rfl | with_reducible assumption | exact rfl
    | (extract_lets -underBinder -merge -useContext +onlyGivenNames x; refine Stays.cut x (fun hx => ?_) ?_; (on_goal 1 => clear_value x); (on_goal 2 => (unfold x; clear x)))
    | (extract_lets -underBinder -merge -useContext +onlyGivenNames x; refine Within.cut x (fun hx => ?_) ?_; (on_goal 1 => clear_value x); (on_goal 2 => (unfold x; clear x)))
    | (extract_lets -underBinder -merge -useContext +onlyGivenNames x; clear_value x) | with_reducible apply Stays.ite
    | with_reducible apply Within.ite | with_reducible apply stays_next | with_reducible apply Within.after (moment_within _ _)
    | with_reducible apply Within.after (modSvc_within _ _ _) | split

theorem fieldsOff_within (v : Fin 96) (old : FieldSet) (s : State) : Within
    { hostq := true, audio := true, mp := true, cry := true, slots := true, mnt := true, vault := true } s (fieldsOff v old s)
    := by
  unfold fieldsOff
  dsimp only
  repeat' first
    | with_reducible apply Within.rfl | with_reducible assumption | exact rfl | with_reducible apply Within.ite
    | with_reducible apply Within.after (stopItem_within _ _ _) | with_reducible apply Within.after (useFree_within _)
    | with_reducible apply Within.after (sigChain_within _ _) | with_reducible apply Within.after (modSvc_within _ _ _)

theorem applyChange_within (v : Fin 96) (p : State × List Held) (h : Held) : FstW
    { hostq := true, ctxs := true, audio := true, mp := true, slots := true } p.1 (applyChange v p h) := by
  unfold applyChange
  extract_lets s y cfg
  refine FstW.ite (fstW_mk (Within.after (fail_within _ _ _ _ _) rfl .rfl)) ?_
  split
  · split
    · exact fstW_mk (Within.after (OptW.of (regrow_within _ _ _) (by assumption)) rfl (Within.after (modSvc_within _ _ _) rfl .rfl))
    · exact fstW_mk (Within.after (reject_within _ _ _) rfl .rfl)
  · exact fstW_mk (Within.after (reject_within _ _ _) rfl .rfl)

theorem applyChanges_within (v : Fin 96) (s : State) : Within
    { hostq := true, ctxs := true, audio := true, mp := true, cry := true, slots := true, mnt := true, vault := true } s
    (applyChanges v s) := by
  unfold applyChanges
  refine Within.foldl (fun _ _ => Within.after (finishC_within _ _) rfl .rfl) ?_
  exact Within.after (fieldsOff_within _ _ _) rfl (Within.widen (FstW.foldl (applyChange_within v) (s, [])) rfl)

theorem applyLive_within (v : Fin 96) (s : State) (h : Held) : Within
    { hostq := true, audio := true, mp := true, slots := true } s (applyLive v s h) := by
  unfold applyLive
  repeat' first
    | with_reducible apply Within.rfl | with_reducible assumption | exact rfl
    | (extract_lets -underBinder -merge -useContext +onlyGivenNames x; refine Within.cut x (fun hx => ?_) ?_; (on_goal 1 => clear_value x); (on_goal 2 => (unfold x; clear x)))
    | (extract_lets -underBinder -merge -useContext +onlyGivenNames x; clear_value x) | with_reducible apply Within.ite
    | with_reducible apply Within.after (finishC_within _ _) | with_reducible apply Within.after (modSvc_within _ _ _)
    | with_reducible apply Within.after (modHeld_within _ _ _) | split

theorem applySecond_within (v : Fin 96) (s : State) (h : Held) : Within
    { hostq := true, audio := true, mp := true, slots := true } s (applySecond v s h) := by
  unfold applySecond
  repeat' first
    | with_reducible apply Within.rfl | with_reducible assumption | exact rfl
    | (extract_lets -underBinder -merge -useContext +onlyGivenNames x; refine Within.cut x (fun hx => ?_) ?_; (on_goal 1 => clear_value x); (on_goal 2 => (unfold x; clear x)))
    | (extract_lets -underBinder -merge -useContext +onlyGivenNames x; clear_value x) | with_reducible apply Within.ite
    | with_reducible apply Within.after (finishC_within _ _) | with_reducible apply Within.after (modSvc_within _ _ _) | split

theorem svcPlays_within (v : Fin 96) (s : State) : Within { port := true } s (svcPlays v s) := by
  unfold svcPlays
  repeat' first
    | with_reducible apply Within.rfl | with_reducible assumption | exact rfl | with_reducible apply Within.ite
    | with_reducible apply modPortSt_within | split

theorem blockBoundary_within (v : Fin 96) (stamp : DT) (s : State) : Within
    { hostq := true, ctxs := true, audio := true, mp := true, cry := true, slots := true, mem := true, mnt := true, vault := true }
    s (blockBoundary v stamp s) := by
  unfold blockBoundary
  repeat' first
    | with_reducible apply Within.rfl | with_reducible assumption | exact rfl
    | (with_reducible apply Within.foldl; on_goal 1 => (intro _ _))
    | (extract_lets -underBinder -merge -useContext +onlyGivenNames x; refine Within.cut x (fun hx => ?_) ?_; (on_goal 1 => clear_value x); (on_goal 2 => (unfold x; clear x)))
    | (extract_lets -underBinder -merge -useContext +onlyGivenNames x; clear_value x)
    | with_reducible apply Within.after (applyChanges_within _ _) | with_reducible apply Within.after (finishC_within _ _)
    | with_reducible apply Within.after (setDepth_within _ _ _ _) | with_reducible apply Within.after (applyLive_within _ _ _)

theorem execHostAudioBlock_within (t : DT) (svc : Fin 96) (s : State) : Stays
    { hostq := true, dt := true, due := true, ctxs := true, audio := true, port := true, mp := true, cry := true, slots := true, mem := true, mnt := true, vault := true }
    s (execHostAudioBlock t svc s) := by
  unfold execHostAudioBlock
  repeat' first
    | with_reducible apply Within.rfl | with_reducible assumption | exact rfl
    | (extract_lets -underBinder -merge -useContext +onlyGivenNames x; refine Stays.cut x (fun hx => ?_) ?_; (on_goal 1 => clear_value x); (on_goal 2 => (unfold x; clear x)))
    | (extract_lets -underBinder -merge -useContext +onlyGivenNames x; refine Within.cut x (fun hx => ?_) ?_; (on_goal 1 => clear_value x); (on_goal 2 => (unfold x; clear x)))
    | (extract_lets -underBinder -merge -useContext +onlyGivenNames x; clear_value x) | with_reducible apply Stays.ite
    | with_reducible apply Within.ite | with_reducible apply stays_next | with_reducible apply Within.after (moment_within _ _)
    | with_reducible apply Within.after (modSvc_within _ _ _) | with_reducible apply Within.after (hostBlock_within _ _ _ _ _)
    | with_reducible apply Within.after (followCompares_within _ _ _)
    | with_reducible apply Within.after (blockBoundary_within _ _ _) | with_reducible apply Within.after (svcPlays_within _ _)
    | split

theorem loudReport_within (v : Fin 96) (stamp : DT) (s : State) : Within { hostq := true, audio := true, cry := true } s
    (loudReport v stamp s) := by
  unfold loudReport
  repeat' first
    | with_reducible apply Within.rfl | with_reducible assumption | exact rfl
    | (extract_lets -underBinder -merge -useContext +onlyGivenNames x; refine Within.cut x (fun hx => ?_) ?_; (on_goal 1 => clear_value x); (on_goal 2 => (unfold x; clear x)))
    | (extract_lets -underBinder -merge -useContext +onlyGivenNames x; clear_value x)
    | with_reducible apply Within.after (audioRec_within _ _ _ _ _ _)
    | with_reducible apply Within.after (PairW.snd (told_within _ _))
    | with_reducible refine Within.after (PairW.of (told_within _ _) (by with_reducible assumption)) ?_ ?_

theorem execLoudnessBlock_within (t : DT) (svc : Fin 96) (s : State) : Stays
    { hostq := true, dt := true, due := true, audio := true, cry := true } s (execLoudnessBlock t svc s) := by
  unfold execLoudnessBlock
  repeat' first
    | with_reducible apply Within.rfl | with_reducible assumption | exact rfl
    | (extract_lets -underBinder -merge -useContext +onlyGivenNames x; refine Stays.cut x (fun hx => ?_) ?_; (on_goal 1 => clear_value x); (on_goal 2 => (unfold x; clear x)))
    | (extract_lets -underBinder -merge -useContext +onlyGivenNames x; refine Within.cut x (fun hx => ?_) ?_; (on_goal 1 => clear_value x); (on_goal 2 => (unfold x; clear x)))
    | (extract_lets -underBinder -merge -useContext +onlyGivenNames x; clear_value x) | with_reducible apply Stays.ite
    | with_reducible apply Within.ite | with_reducible apply stays_next | with_reducible apply Within.after (moment_within _ _)
    | with_reducible apply Within.after (modSvc_within _ _ _) | with_reducible apply Within.after (loudReport_within _ _ _) | split

theorem execLoudReportPeriod_within (t : DT) (svc : Fin 96) (s : State) : Stays
    { hostq := true, dt := true, due := true, audio := true, cry := true } s (execLoudReportPeriod t svc s) := by
  unfold execLoudReportPeriod
  repeat' first
    | with_reducible apply Within.rfl | with_reducible assumption | exact rfl
    | (extract_lets -underBinder -merge -useContext +onlyGivenNames x; refine Stays.cut x (fun hx => ?_) ?_; (on_goal 1 => clear_value x); (on_goal 2 => (unfold x; clear x)))
    | (extract_lets -underBinder -merge -useContext +onlyGivenNames x; refine Within.cut x (fun hx => ?_) ?_; (on_goal 1 => clear_value x); (on_goal 2 => (unfold x; clear x)))
    | (extract_lets -underBinder -merge -useContext +onlyGivenNames x; clear_value x) | with_reducible apply Stays.ite
    | with_reducible apply Within.ite | with_reducible apply stays_next | with_reducible apply Within.after (moment_within _ _)
    | with_reducible apply Within.after (modSvc_within _ _ _) | with_reducible apply Within.after (loudReport_within _ _ _) | split

theorem startItem_within (v : Fin 96) (r : Ref) (off : Int) (rate : Nat × Nat) (stamp : DT) (s : State) : Within
    { hostq := true, audio := true, cry := true } s (startItem v r off rate stamp s) := by
  unfold startItem
  repeat' first
    | with_reducible apply Within.rfl | with_reducible assumption | exact rfl
    | (extract_lets -underBinder -merge -useContext +onlyGivenNames x; refine Within.cut x (fun hx => ?_) ?_; (on_goal 1 => clear_value x); (on_goal 2 => (unfold x; clear x)))
    | (extract_lets -underBinder -merge -useContext +onlyGivenNames x; clear_value x) | with_reducible apply Within.ite
    | with_reducible apply Within.after (modSvc_within _ _ _) | with_reducible apply Within.after (audioRec_within _ _ _ _ _ _)
    | split

theorem dropCands_within (v : Fin 96) (ref : Nat) (s : State) : Within { audio := true } s (dropCands v ref s) := by
  unfold dropCands
  repeat' first
    | with_reducible apply Within.rfl | with_reducible assumption | exact rfl
    | with_reducible apply Within.after (modSvc_within _ _ _)

theorem followOpen_within (v : Fin 96) (s : State) : Within
    { hostq := true, audio := true, mp := true, cry := true, slots := true, mnt := true, vault := true } s (followOpen v s) :=
    by
  unfold followOpen
  repeat' first
    | with_reducible apply Within.rfl | with_reducible assumption | exact rfl
    | (extract_lets -underBinder -merge -useContext +onlyGivenNames x; refine Within.cut x (fun hx => ?_) ?_; (on_goal 1 => clear_value x); (on_goal 2 => (unfold x; clear x)))
    | (extract_lets -underBinder -merge -useContext +onlyGivenNames x; clear_value x) | with_reducible apply Within.ite
    | with_reducible apply Within.after (modSvc_within _ _ _) | with_reducible apply Within.after (dropCands_within _ _ _)
    | with_reducible apply Within.after (endItem_within _ _ _ _) | split

theorem openMatch_within (v : Fin 96) (stamp : DT) (k : Nat × Int × (Nat × Nat)) (s : State) : Within
    { hostq := true, audio := true, cry := true } s (openMatch v stamp k s) := by
  unfold openMatch
  repeat' first
    | with_reducible apply Within.rfl | with_reducible assumption | exact rfl
    | with_reducible apply Within.after (startItem_within _ _ _ _ _ _) | split

theorem takeMatch_within (v : Fin 96) (stamp : DT) (s : State) : Within
    { hostq := true, audio := true, mp := true, cry := true, slots := true, mnt := true, vault := true } s (takeMatch v stamp s)
    := by
  unfold takeMatch
  repeat' first
    | with_reducible apply Within.rfl | with_reducible assumption | exact rfl
    | (extract_lets -underBinder -merge -useContext +onlyGivenNames x; refine Within.cut x (fun hx => ?_) ?_; (on_goal 1 => clear_value x); (on_goal 2 => (unfold x; clear x)))
    | (extract_lets -underBinder -merge -useContext +onlyGivenNames x; clear_value x) | with_reducible apply Within.ite
    | with_reducible apply Within.after (modSvc_within _ _ _) | with_reducible apply Within.after (followOpen_within _ _)
    | with_reducible apply Within.after (openMatch_within _ _ _ _) | with_reducible apply Within.after (stopItem_within _ _ _)
    | split

theorem signSecond_within (v : Fin 96) (sec : Nat) (subs : List SubFrame) (text : List Byte) (s : State) : Within
    { hostq := true, audio := true, port := true, mp := true, cry := true, slots := true, mnt := true, vault := true } s
    (signSecond v sec subs text s) := by
  unfold signSecond
  repeat' first
    | with_reducible apply Within.rfl | with_reducible assumption | exact rfl
    | (extract_lets -underBinder -merge -useContext +onlyGivenNames x; refine Within.cut x (fun hx => ?_) ?_; (on_goal 1 => clear_value x); (on_goal 2 => (unfold x; clear x)))
    | (extract_lets -underBinder -merge -useContext +onlyGivenNames x; clear_value x) | with_reducible apply Within.ite
    | with_reducible apply Within.after (modSvc_within _ _ _) | with_reducible apply Within.after (audioRec_within _ _ _ _ _ _)
    | with_reducible apply Within.after (followCompares_within _ _ _) | with_reducible apply Within.after (takeMatch_within _ _ _)
    | with_reducible apply Within.after (PairW.snd (subWords_within _ _ _))
    | with_reducible refine Within.after (PairW.of (subWords_within _ _ _) (by with_reducible assumption)) ?_ ?_
    | with_reducible apply Within.after (PairW.snd (told_within _ _))
    | with_reducible refine Within.after (PairW.of (told_within _ _) (by with_reducible assumption)) ?_ ?_

theorem execSignatureSecond_within (t : DT) (svc : Fin 96) (text : List Byte) (s : State) : Stays
    { hostq := true, dt := true, due := true, audio := true, port := true, mp := true, cry := true, slots := true, mnt := true, vault := true }
    s (execSignatureSecond t svc text s) := by
  unfold execSignatureSecond
  repeat' first
    | with_reducible apply Within.rfl | with_reducible assumption | exact rfl
    | (with_reducible apply Within.foldl; on_goal 1 => (intro _ _))
    | (extract_lets -underBinder -merge -useContext +onlyGivenNames x; refine Stays.cut x (fun hx => ?_) ?_; (on_goal 1 => clear_value x); (on_goal 2 => (unfold x; clear x)))
    | (extract_lets -underBinder -merge -useContext +onlyGivenNames x; refine Within.cut x (fun hx => ?_) ?_; (on_goal 1 => clear_value x); (on_goal 2 => (unfold x; clear x)))
    | (extract_lets -underBinder -merge -useContext +onlyGivenNames x; clear_value x) | with_reducible apply Stays.ite
    | with_reducible apply Within.ite | with_reducible apply stays_next | with_reducible apply Within.after (moment_within _ _)
    | with_reducible apply Within.after (applySecond_within _ _ _) | with_reducible apply Within.after (modSvc_within _ _ _)
    | with_reducible apply Within.after (signSecond_within _ _ _ _ _) | split

theorem execSigChainPeriod_within (t : DT) (svc : Fin 96) (s : State) : Stays
    { hostq := true, dt := true, due := true, audio := true, mp := true, cry := true, slots := true, mnt := true, vault := true }
    s (execSigChainPeriod t svc s) := by
  unfold execSigChainPeriod
  repeat' first
    | with_reducible apply Within.rfl | with_reducible assumption | exact rfl
    | (extract_lets -underBinder -merge -useContext +onlyGivenNames x; refine Stays.cut x (fun hx => ?_) ?_; (on_goal 1 => clear_value x); (on_goal 2 => (unfold x; clear x)))
    | (extract_lets -underBinder -merge -useContext +onlyGivenNames x; refine Within.cut x (fun hx => ?_) ?_; (on_goal 1 => clear_value x); (on_goal 2 => (unfold x; clear x)))
    | (extract_lets -underBinder -merge -useContext +onlyGivenNames x; clear_value x) | with_reducible apply Stays.ite
    | with_reducible apply Within.ite | with_reducible apply stays_next | with_reducible apply Within.after (moment_within _ _)
    | with_reducible apply Within.after (sigChain_within _ _)

end Sys2Proof.Machine
end

