-- ==== Sys2Proof/Laws/Port.lean ====
section
/-!
SUPPORT. Laws/Port.lean: what each operation of Machine/Port.lean leaves as it was.
-/
namespace Sys2Proof.Machine

theorem setDividers_within (s : State) : Within { port := true } s (setDividers s) := by
  unfold setDividers
  repeat' first
    | with_reducible apply Within.rfl | with_reducible assumption | exact rfl
    | (extract_lets -underBinder -merge -useContext +onlyGivenNames x; refine Within.cut x (fun hx => ?_) ?_; (on_goal 1 => clear_value x); (on_goal 2 => (unfold x; clear x)))
    | (extract_lets -underBinder -merge -useContext +onlyGivenNames x; clear_value x) | with_reducible apply Within.ite
    | with_reducible apply modPortSt_within

theorem startPort_within (p : Fin 14) (s : State) : Within { port := true } s (startPort p s) := by
  unfold startPort
  repeat' first
    | with_reducible apply Within.rfl | with_reducible assumption | exact rfl
    | (extract_lets -underBinder -merge -useContext +onlyGivenNames x; refine Within.cut x (fun hx => ?_) ?_; (on_goal 1 => clear_value x); (on_goal 2 => (unfold x; clear x)))
    | (extract_lets -underBinder -merge -useContext +onlyGivenNames x; clear_value x) | with_reducible apply Within.ite
    | with_reducible apply Within.after (modAin_within _ _ _) | with_reducible apply Within.after (modPort_within _ _ _) | split

theorem stopPort_within (p : Fin 14) (s : State) : Within { port := true } s (stopPort p s) := by
  unfold stopPort
  repeat' first
    | with_reducible apply Within.rfl | with_reducible assumption | exact rfl
    | (extract_lets -underBinder -merge -useContext +onlyGivenNames x; refine Within.cut x (fun hx => ?_) ?_; (on_goal 1 => clear_value x); (on_goal 2 => (unfold x; clear x)))
    | (extract_lets -underBinder -merge -useContext +onlyGivenNames x; clear_value x) | with_reducible apply Within.ite
    | with_reducible apply Within.after (emit_within _ _) | with_reducible apply Within.after (modPort_within _ _ _)
    | with_reducible apply Within.after (modAin_within _ _ _) | split

theorem endPort_within (p : Fin 14) (s : State) : Within { port := true } s (endPort p s) := by
  unfold endPort
  repeat' first
    | with_reducible apply Within.rfl | with_reducible assumption | exact rfl | with_reducible apply Within.ite
    | with_reducible apply Within.after (stopPort_within _ _) | with_reducible apply Within.after (modPort_within _ _ _)

theorem applyPort_within (p : Fin 14) (l : FieldSet) (s : State) : Within { port := true } s (applyPort p l s) := by
  unfold applyPort
  repeat' first
    | with_reducible apply Within.rfl | with_reducible assumption | exact rfl
    | (extract_lets -underBinder -merge -useContext +onlyGivenNames x; refine Within.cut x (fun hx => ?_) ?_; (on_goal 1 => clear_value x); (on_goal 2 => (unfold x; clear x)))
    | (extract_lets -underBinder -merge -useContext +onlyGivenNames x; clear_value x) | with_reducible apply Within.ite
    | with_reducible apply modPortSt_within | with_reducible apply Within.after (modPort_within _ _ _)
    | with_reducible apply Within.after (stopPort_within _ _) | with_reducible apply Within.after (setDividers_within _)
    | with_reducible apply Within.after (startPort_within _ _) | with_reducible apply Within.after (endPort_within _ _)
    | with_reducible apply Within.after (emit_within _ _)

theorem doPortConfig_within (h : Held) (s : State) : Within { hostq := true, port := true, mp := true, slots := true } s
    (doPortConfig h s) := by
  unfold doPortConfig
  repeat' first
    | with_reducible apply Within.rfl | with_reducible assumption | exact rfl
    | (extract_lets -underBinder -merge -useContext +onlyGivenNames x; clear_value x) | with_reducible apply Within.ite
    | with_reducible apply Within.after (reject_within _ _ _) | with_reducible apply Within.after (park_within _ _ _)
    | with_reducible apply Within.after (finishC_within _ _) | with_reducible apply Within.after (applyPort_within _ _ _)
    | split

theorem execPortConfig_within (e : Entry) (s : State) : Stays
    { hostq := true, dt := true, due := true, port := true, mp := true, slots := true } s (execPortConfig e s) := by
  unfold execPortConfig
  repeat' first
    | with_reducible apply Within.rfl | with_reducible assumption | exact rfl | with_reducible apply stays_next
    | (with_reducible apply hostCmd_within; (on_goal 2 => (intro _ _)))
    | with_reducible apply Within.after (doPortConfig_within _ _)

theorem setRoutes_within (l : List Route) (s : State) : Within { port := true } s (setRoutes l s) := by
  unfold setRoutes
  repeat' first
    | with_reducible apply Within.rfl | with_reducible assumption | exact rfl
    | (extract_lets -underBinder -merge -useContext +onlyGivenNames x; refine Within.cut x (fun hx => ?_) ?_; (on_goal 1 => clear_value x); (on_goal 2 => (unfold x; clear x)))
    | (extract_lets -underBinder -merge -useContext +onlyGivenNames x; clear_value x) | with_reducible apply Within.ite
    | with_reducible apply modPortSt_within | split

theorem startCompare_within (h : Held) (s : State) : Within
    { hostq := true, ctxs := true, audio := true, port := true, mp := true, cry := true, slots := true, mnt := true, vault := true }
    s (startCompare h s) := by
  unfold startCompare
  repeat' first
    | with_reducible apply Within.rfl | with_reducible assumption | exact rfl
    | (extract_lets -underBinder -merge -useContext +onlyGivenNames x; refine Within.cut x (fun hx => ?_) ?_; (on_goal 1 => clear_value x); (on_goal 2 => (unfold x; clear x)))
    | (extract_lets -underBinder -merge -useContext +onlyGivenNames x; clear_value x) | with_reducible apply Within.ite
    | with_reducible apply Within.after (reject_within _ _ _) | with_reducible apply Within.after (fail_within _ _ _ _ _)
    | with_reducible apply Within.after (modAin_within _ _ _) | with_reducible apply Within.after (followCompare_within _ _)
    | with_reducible apply Within.after (finishC_within _ _) | split
    | with_reducible refine Within.after (OptW.of (regrow_within _ _ _) (by with_reducible assumption)) ?_ ?_

theorem doPortRoute_within (h : Held) (s : State) : Within
    { hostq := true, ctxs := true, audio := true, port := true, mp := true, cry := true, slots := true, mnt := true, vault := true }
    s (doPortRoute h s) := by
  unfold doPortRoute
  repeat' first
    | with_reducible apply Within.rfl | with_reducible assumption | exact rfl
    | (extract_lets -underBinder -merge -useContext +onlyGivenNames x; refine Within.cut x (fun hx => ?_) ?_; (on_goal 1 => clear_value x); (on_goal 2 => (unfold x; clear x)))
    | (extract_lets -underBinder -merge -useContext +onlyGivenNames x; clear_value x) | with_reducible apply Within.ite
    | with_reducible apply modPortSt_within | with_reducible apply Within.after (finishC_within _ _)
    | with_reducible apply Within.after (setRoutes_within _ _) | with_reducible apply Within.after (park_within _ _ _)
    | with_reducible apply Within.after (startCompare_within _ _) | with_reducible apply Within.after (reject_within _ _ _)
    | with_reducible apply Within.after (endCompare_within _ _) | split

theorem execPortRoute_within (e : Entry) (s : State) : Stays
    { hostq := true, dt := true, due := true, ctxs := true, audio := true, port := true, mp := true, cry := true, slots := true, mnt := true, vault := true }
    s (execPortRoute e s) := by
  unfold execPortRoute
  repeat' first
    | with_reducible apply Within.rfl | with_reducible assumption | exact rfl
    | (with_reducible apply hostCmd_within; (on_goal 2 => (intro _ _))) | with_reducible apply stays_next
    | with_reducible apply Within.after (doPortRoute_within _ _)

theorem doPortSlotmask_within (h : Held) (s : State) : Within { hostq := true, port := true, mp := true, slots := true } s
    (doPortSlotmask h s) := by
  unfold doPortSlotmask
  repeat' first
    | with_reducible apply Within.rfl | with_reducible assumption | exact rfl | with_reducible apply Within.ite
    | with_reducible apply Within.after (park_within _ _ _) | with_reducible apply Within.after (finishC_within _ _)
    | with_reducible apply Within.after (modPort_within _ _ _) | split

theorem execPortSlotmask_within (e : Entry) (s : State) : Stays
    { hostq := true, dt := true, due := true, port := true, mp := true, slots := true } s (execPortSlotmask e s) := by
  unfold execPortSlotmask
  repeat' first
    | with_reducible apply Within.rfl | with_reducible assumption | exact rfl | with_reducible apply stays_next
    | (with_reducible apply hostCmd_within; (on_goal 2 => (intro _ _)))
    | with_reducible apply Within.after (doPortSlotmask_within _ _)

theorem sendTdm_within (p : Fin 14) (n : Nat) (s : State) : Within {} s (sendTdm p n s) := by
  unfold sendTdm
  repeat' first
    | with_reducible apply Within.rfl | with_reducible assumption | exact rfl
    | (extract_lets -underBinder -merge -useContext +onlyGivenNames x; refine Within.cut x (fun hx => ?_) ?_; (on_goal 1 => clear_value x); (on_goal 2 => (unfold x; clear x)))
    | (extract_lets -underBinder -merge -useContext +onlyGivenNames x; clear_value x)
    | with_reducible apply Within.after (emit_within _ _)

theorem execSlotmaskFrameApply_within (t : DT) (tdm : Fin 2) (s : State) : Stays
    { hostq := true, dt := true, due := true, port := true, mp := true, slots := true } s (execSlotmaskFrameApply t tdm s) := by
  unfold execSlotmaskFrameApply
  repeat' first
    | with_reducible apply Within.rfl | with_reducible assumption | exact rfl
    | (with_reducible apply Within.foldl; on_goal 1 => (intro _ _))
    | (extract_lets -underBinder -merge -useContext +onlyGivenNames x; refine Stays.cut x (fun hx => ?_) ?_; (on_goal 1 => clear_value x); (on_goal 2 => (unfold x; clear x)))
    | (extract_lets -underBinder -merge -useContext +onlyGivenNames x; refine Within.cut x (fun hx => ?_) ?_; (on_goal 1 => clear_value x); (on_goal 2 => (unfold x; clear x)))
    | (extract_lets -underBinder -merge -useContext +onlyGivenNames x; clear_value x) | with_reducible apply Stays.ite
    | with_reducible apply Within.ite | with_reducible apply stays_next | with_reducible apply Within.after (moment_within _ _)
    | with_reducible apply Within.after (finish_within _ _ _ _) | with_reducible apply Within.after (modPort_within _ _ _)
    | with_reducible apply Within.after (sendTdm_within _ _ _)

theorem doPortChstatusSet_within (h : Held) (s : State) : Within { hostq := true, port := true, mp := true, slots := true } s
    (doPortChstatusSet h s) := by
  unfold doPortChstatusSet
  repeat' first
    | with_reducible apply Within.rfl | with_reducible assumption | exact rfl | with_reducible apply Within.ite
    | with_reducible apply Within.after (park_within _ _ _) | with_reducible apply Within.after (finishC_within _ _)
    | with_reducible apply Within.after (modPort_within _ _ _) | split

theorem execPortChstatusSet_within (e : Entry) (s : State) : Stays
    { hostq := true, dt := true, due := true, port := true, mp := true, slots := true } s (execPortChstatusSet e s) := by
  unfold execPortChstatusSet
  repeat' first
    | with_reducible apply Within.rfl | with_reducible assumption | exact rfl | with_reducible apply stays_next
    | (with_reducible apply hostCmd_within; (on_goal 2 => (intro _ _)))
    | with_reducible apply Within.after (doPortChstatusSet_within _ _)

theorem doPortInputStatus_within (h : Held) (s : State) : Within { hostq := true, mp := true, slots := true } s
    (doPortInputStatus h s) := by
  unfold doPortInputStatus
  repeat' first
    | with_reducible apply Within.rfl | with_reducible assumption | exact rfl
    | with_reducible apply Within.after (finishOut_within _ _ _ _ _) | split

theorem execPortInputStatus_within (e : Entry) (s : State) : Stays
    { hostq := true, dt := true, due := true, mp := true, slots := true } s (execPortInputStatus e s) := by
  unfold execPortInputStatus
  repeat' first
    | with_reducible apply Within.rfl | with_reducible assumption | exact rfl | with_reducible apply stays_next
    | (with_reducible apply hostCmd_within; (on_goal 2 => (intro _ _)))
    | with_reducible apply Within.after (doPortInputStatus_within _ _)

theorem sendChannel_within (p : Fin 14) (play : DT) (s : State) (x : Nat × DT × List OutSample) : Within { slots := true } s
    (sendChannel p play s x) := by
  unfold sendChannel
  repeat' first
    | with_reducible apply Within.rfl | with_reducible assumption | exact rfl
    | (extract_lets -underBinder -merge -useContext +onlyGivenNames x; refine Within.cut x (fun hx => ?_) ?_; (on_goal 1 => clear_value x); (on_goal 2 => (unfold x; clear x)))
    | (extract_lets -underBinder -merge -useContext +onlyGivenNames x; clear_value x) | with_reducible apply Within.ite
    | with_reducible apply Within.after (recordFrom_within _ _ _ _ _) | with_reducible apply Within.after (emit_within _ _)

theorem sendBlock_within (p : Fin 14) (play : DT) (s : State) : Within { port := true, slots := true } s (sendBlock p play s) :=
    by
  unfold sendBlock
  repeat' first
    | with_reducible apply Within.rfl | with_reducible assumption | exact rfl
    | (with_reducible apply Within.foldl; on_goal 1 => (intro _ _))
    | (extract_lets -underBinder -merge -useContext +onlyGivenNames x; refine Within.cut x (fun hx => ?_) ?_; (on_goal 1 => clear_value x); (on_goal 2 => (unfold x; clear x)))
    | (extract_lets -underBinder -merge -useContext +onlyGivenNames x; clear_value x) | with_reducible apply Within.ite
    | with_reducible apply modPortSt_within | with_reducible apply Within.after (modPort_within _ _ _)
    | with_reducible apply Within.after (sendChannel_within _ _ _ _) | with_reducible apply Within.after (sendTdm_within _ _ _)
    | with_reducible apply Within.after (emit_within _ _) | split

theorem clearGone_within (p : Fin 14) (s : State) : Within { port := true } s (clearGone p s) := by
  unfold clearGone
  repeat' first
    | with_reducible apply Within.rfl | with_reducible assumption | exact rfl | with_reducible apply Within.ite
    | with_reducible apply modPortSt_within

theorem selfPlays_within (s : State) : Within { port := true } s (selfPlays s) := by
  unfold selfPlays
  repeat' first
    | with_reducible apply Within.rfl | with_reducible assumption | exact rfl | with_reducible apply Within.ite
    | with_reducible apply modPortSt_within

theorem applyRoutes_within (p : Fin 14) (s : State) : Within { hostq := true, port := true, mp := true, slots := true } s
    (applyRoutes p s) := by
  unfold applyRoutes
  repeat' first
    | with_reducible apply Within.rfl | with_reducible assumption | exact rfl
    | (with_reducible apply Within.foldl; on_goal 1 => (intro _ _))
    | (extract_lets -underBinder -merge -useContext +onlyGivenNames x; clear_value x) | with_reducible apply Within.ite
    | with_reducible apply modPortSt_within | with_reducible apply Within.after (finishC_within _ _)
    | with_reducible apply Within.after (setRoutes_within _ _)

theorem portBoundary_within (p : Fin 14) (s : State) : Within { hostq := true, port := true, mp := true, slots := true } s
    (portBoundary p s) := by
  unfold portBoundary
  repeat' first
    | with_reducible apply Within.rfl | with_reducible assumption | exact rfl
    | (with_reducible apply Within.foldl; on_goal 1 => (intro _ _))
    | (extract_lets -underBinder -merge -useContext +onlyGivenNames x; refine Within.cut x (fun hx => ?_) ?_; (on_goal 1 => clear_value x); (on_goal 2 => (unfold x; clear x)))
    | (extract_lets -underBinder -merge -useContext +onlyGivenNames x; clear_value x) | with_reducible apply Within.ite
    | with_reducible apply Within.after (applyPort_within _ _ _) | with_reducible apply Within.after (finishC_within _ _)
    | with_reducible apply Within.after (modPort_within _ _ _) | with_reducible apply Within.after (setDividers_within _)
    | with_reducible apply Within.after (selfPlays_within _) | with_reducible apply Within.after (clearGone_within _ _)
    | with_reducible apply Within.after (applyRoutes_within _ _)

theorem execPortBlockBoundary_within (t : DT) (port : Fin 14) (s : State) : Stays
    { hostq := true, dt := true, due := true, port := true, mp := true, slots := true } s (execPortBlockBoundary t port s) := by
  unfold execPortBlockBoundary
  repeat' first
    | with_reducible apply Within.rfl | with_reducible assumption | exact rfl
    | (extract_lets -underBinder -merge -useContext +onlyGivenNames x; refine Stays.cut x (fun hx => ?_) ?_; (on_goal 1 => clear_value x); (on_goal 2 => (unfold x; clear x)))
    | (extract_lets -underBinder -merge -useContext +onlyGivenNames x; refine Within.cut x (fun hx => ?_) ?_; (on_goal 1 => clear_value x); (on_goal 2 => (unfold x; clear x)))
    | (extract_lets -underBinder -merge -useContext +onlyGivenNames x; clear_value x) | with_reducible apply Stays.ite
    | with_reducible apply Within.ite | with_reducible apply stays_next | with_reducible apply Within.after (moment_within _ _)
    | with_reducible apply Within.after (modPort_within _ _ _) | with_reducible apply Within.after (dividersAgain_within _)
    | with_reducible apply Within.after (setDividers_within _) | with_reducible apply Within.after (stopPort_within _ _)
    | with_reducible apply Within.after (portBoundary_within _ _) | with_reducible apply Within.after (sendBlock_within _ _ _)
    | split

theorem loseAin_within (i : Fin 4) (s : State) : Within
    { hostq := true, audio := true, port := true, mp := true, cry := true, slots := true, mnt := true, vault := true } s
    (loseAin i s) := by
  unfold loseAin
  repeat' first
    | with_reducible apply Within.rfl | with_reducible assumption | exact rfl
    | (extract_lets -underBinder -merge -useContext +onlyGivenNames x; refine Within.cut x (fun hx => ?_) ?_; (on_goal 1 => clear_value x); (on_goal 2 => (unfold x; clear x)))
    | (extract_lets -underBinder -merge -useContext +onlyGivenNames x; clear_value x) | with_reducible apply Within.ite
    | with_reducible apply Within.after (followCompare_within _ _) | with_reducible apply Within.after (raise_within _ _ _)
    | with_reducible apply Within.after (modAin_within _ _ _)

theorem nonAudio_within (i : Fin 4) (on : Bool) (cause dataType : Nat) (s : State) : Within
    { hostq := true, audio := true, port := true, mp := true, cry := true, slots := true, mnt := true, vault := true } s
    (nonAudio i on cause dataType s) := by
  unfold nonAudio
  repeat' first
    | with_reducible apply Within.rfl | with_reducible assumption | exact rfl
    | with_reducible apply Within.after (followCompare_within _ _) | with_reducible apply Within.after (raise_within _ _ _)
    | with_reducible apply Within.after (modAin_within _ _ _)

theorem ainBlock_within (i : Fin 4) (stamp : DT) (l : List (AinSample × AinSample)) (s : State) : Within
    { hostq := true, port := true, cry := true } s (ainBlock i stamp l s) := by
  unfold ainBlock
  repeat' first
    | with_reducible apply Within.rfl | with_reducible assumption | exact rfl
    | (extract_lets -underBinder -merge -useContext +onlyGivenNames x; refine Within.cut x (fun hx => ?_) ?_; (on_goal 1 => clear_value x); (on_goal 2 => (unfold x; clear x)))
    | (extract_lets -underBinder -merge -useContext +onlyGivenNames x; clear_value x) | with_reducible apply Within.ite
    | with_reducible apply Within.after (deliver_within _ _ _) | with_reducible apply Within.after (modAin_within _ _ _)

theorem ainPlays_within (i : Fin 4) (s : State) : Within { port := true } s (ainPlays i s) := by
  unfold ainPlays
  repeat' first
    | with_reducible apply Within.rfl | with_reducible assumption | exact rfl | with_reducible apply Within.ite
    | with_reducible apply modPortSt_within | split

theorem signStudio_within (i : Fin 4) (s : State) : Within { port := true } s (signStudio i s) := by
  unfold signStudio
  repeat' first
    | with_reducible apply Within.rfl | with_reducible assumption | exact rfl
    | (extract_lets -underBinder -merge -useContext +onlyGivenNames x; refine Within.cut x (fun hx => ?_) ?_; (on_goal 1 => clear_value x); (on_goal 2 => (unfold x; clear x)))
    | (extract_lets -underBinder -merge -useContext +onlyGivenNames x; clear_value x) | with_reducible apply Within.ite
    | with_reducible apply Within.after (modAin_within _ _ _) | split
    | with_reducible apply Within.after (PairW.snd (subWords_within _ _ _))
    | with_reducible refine Within.after (PairW.of (subWords_within _ _ _) (by with_reducible assumption)) ?_ ?_

theorem feedStudio_within (i : Fin 4) (b : AinHeld) (s : State) : Within { port := true } s (feedStudio i b s) := by
  unfold feedStudio
  repeat' first
    | with_reducible apply Within.rfl | with_reducible assumption | exact rfl
    | (extract_lets -underBinder -merge -useContext +onlyGivenNames x; refine Within.cut x (fun hx => ?_) ?_; (on_goal 1 => clear_value x); (on_goal 2 => (unfold x; clear x)))
    | (extract_lets -underBinder -merge -useContext +onlyGivenNames x; clear_value x) | with_reducible apply Within.ite
    | with_reducible apply Within.after (signStudio_within _ _) | with_reducible apply Within.after (modAin_within _ _ _)

theorem takeBlock_within (i : Fin 4) (b : AinBlock) (s : State) : Within
    { hostq := true, audio := true, port := true, mp := true, cry := true, slots := true, mnt := true, vault := true } s
    (takeBlock i b s) := by
  unfold takeBlock
  repeat' first
    | with_reducible apply Within.rfl | with_reducible assumption | exact rfl
    | (extract_lets -underBinder -merge -useContext +onlyGivenNames x; refine Within.cut x (fun hx => ?_) ?_; (on_goal 1 => clear_value x); (on_goal 2 => (unfold x; clear x)))
    | (extract_lets -underBinder -merge -useContext +onlyGivenNames x; clear_value x) | with_reducible apply Within.ite
    | with_reducible apply Within.after (nonAudio_within _ _ _ _ _) | with_reducible apply Within.after (modAin_within _ _ _)
    | with_reducible apply Within.after (feedStudio_within _ _ _) | with_reducible apply Within.after (ainPlays_within _ _)
    | with_reducible apply Within.after (ainBlock_within _ _ _ _) | split

theorem ainGap_within (i : Fin 4) (count : Nat) (first last : DT) (s : State) : Within
    { hostq := true, mp := true, cry := true, slots := true, mnt := true, vault := true } s (ainGap i count first last s) := by
  unfold ainGap
  repeat' first
    | with_reducible apply Within.rfl | with_reducible assumption | exact rfl
    | with_reducible apply Within.after (gapSherd_within _ _ _ _ _ _ _ _ _)

theorem settleJump_within (i : Fin 4) (stop : DT) (s : State) : Within
    { hostq := true, port := true, mp := true, cry := true, slots := true, mnt := true, vault := true } s (settleJump i stop s)
    := by
  unfold settleJump
  repeat' first
    | with_reducible apply Within.rfl | with_reducible assumption | exact rfl
    | (extract_lets -underBinder -merge -useContext +onlyGivenNames x; refine Within.cut x (fun hx => ?_) ?_; (on_goal 1 => clear_value x); (on_goal 2 => (unfold x; clear x)))
    | (extract_lets -underBinder -merge -useContext +onlyGivenNames x; clear_value x) | with_reducible apply Within.ite
    | with_reducible apply Within.after (modAin_within _ _ _) | with_reducible apply Within.after (ainGap_within _ _ _ _ _)

theorem execAinBlockReceived_within (t : DT) (i : Fin 4) (b : AinBlock) (s : State) : Stays
    { hostq := true, dt := true, due := true, audio := true, port := true, mp := true, cry := true, slots := true, mnt := true, vault := true }
    s (execAinBlockReceived t i b s) := by
  unfold execAinBlockReceived
  repeat' first
    | with_reducible apply Within.rfl | with_reducible assumption | exact rfl
    | (extract_lets -underBinder -merge -useContext +onlyGivenNames x; refine Stays.cut x (fun hx => ?_) ?_; (on_goal 1 => clear_value x); (on_goal 2 => (unfold x; clear x)))
    | (extract_lets -underBinder -merge -useContext +onlyGivenNames x; refine Within.cut x (fun hx => ?_) ?_; (on_goal 1 => clear_value x); (on_goal 2 => (unfold x; clear x)))
    | (extract_lets -underBinder -merge -useContext +onlyGivenNames x; clear_value x) | with_reducible apply Stays.ite
    | with_reducible apply Within.ite | with_reducible apply stays_next | with_reducible apply Within.after (moment_within _ _)
    | with_reducible apply Within.after (followCompare_within _ _) | with_reducible apply Within.after (takeBlock_within _ _ _)
    | with_reducible apply Within.after (modAin_within _ _ _) | with_reducible apply Within.after (loseAin_within _ _)
    | with_reducible apply Within.after (settleJump_within _ _ _) | split

theorem execAinAudioReturn_within (t : DT) (i : Fin 4) (s : State) : Stays
    { hostq := true, dt := true, due := true, audio := true, port := true, mp := true, cry := true, slots := true, mnt := true, vault := true }
    s (execAinAudioReturn t i s) := by
  unfold execAinAudioReturn
  repeat' first
    | with_reducible apply Within.rfl | with_reducible assumption | exact rfl
    | (extract_lets -underBinder -merge -useContext +onlyGivenNames x; refine Stays.cut x (fun hx => ?_) ?_; (on_goal 1 => clear_value x); (on_goal 2 => (unfold x; clear x)))
    | (extract_lets -underBinder -merge -useContext +onlyGivenNames x; refine Within.cut x (fun hx => ?_) ?_; (on_goal 1 => clear_value x); (on_goal 2 => (unfold x; clear x)))
    | (extract_lets -underBinder -merge -useContext +onlyGivenNames x; clear_value x) | with_reducible apply Stays.ite
    | with_reducible apply Within.ite | with_reducible apply stays_next | with_reducible apply Within.after (moment_within _ _)
    | with_reducible apply Within.after (nonAudio_within _ _ _ _ _)

theorem execAinPreambleTimeout_within (t : DT) (i : Fin 4) (s : State) : Stays
    { hostq := true, dt := true, due := true, audio := true, port := true, mp := true, cry := true, slots := true, mnt := true, vault := true }
    s (execAinPreambleTimeout t i s) := by
  unfold execAinPreambleTimeout
  repeat' first
    | with_reducible apply Within.rfl | with_reducible assumption | exact rfl
    | (extract_lets -underBinder -merge -useContext +onlyGivenNames x; refine Stays.cut x (fun hx => ?_) ?_; (on_goal 1 => clear_value x); (on_goal 2 => (unfold x; clear x)))
    | (extract_lets -underBinder -merge -useContext +onlyGivenNames x; refine Within.cut x (fun hx => ?_) ?_; (on_goal 1 => clear_value x); (on_goal 2 => (unfold x; clear x)))
    | (extract_lets -underBinder -merge -useContext +onlyGivenNames x; clear_value x) | with_reducible apply Stays.ite
    | with_reducible apply Within.ite | with_reducible apply stays_next | with_reducible apply Within.after (moment_within _ _)
    | with_reducible apply Within.after (loseAin_within _ _)

theorem rateChange_within (i : Fin 4) (old new : Nat) (ppm : Int) (stamp : DT) (s : State) : Within
    { hostq := true, mp := true, slots := true } s (rateChange i old new ppm stamp s) := by
  unfold rateChange
  repeat' first
    | with_reducible apply Within.rfl | with_reducible assumption | exact rfl
    | with_reducible apply Within.after (raise_within _ _ _)

theorem execAinRelock_within (t : DT) (i : Fin 4) (b : AinBlock) (s : State) : Stays
    { hostq := true, dt := true, due := true, audio := true, port := true, mp := true, cry := true, slots := true, mnt := true, vault := true }
    s (execAinRelock t i b s) := by
  unfold execAinRelock
  repeat' first
    | with_reducible apply Within.rfl | with_reducible assumption | exact rfl
    | (extract_lets -underBinder -merge -useContext +onlyGivenNames x; refine Stays.cut x (fun hx => ?_) ?_; (on_goal 1 => clear_value x); (on_goal 2 => (unfold x; clear x)))
    | (extract_lets -underBinder -merge -useContext +onlyGivenNames x; refine Within.cut x (fun hx => ?_) ?_; (on_goal 1 => clear_value x); (on_goal 2 => (unfold x; clear x)))
    | (extract_lets -underBinder -merge -useContext +onlyGivenNames x; clear_value x) | with_reducible apply Stays.ite
    | with_reducible apply Within.ite | with_reducible apply stays_next | with_reducible apply Within.after (moment_within _ _)
    | with_reducible apply Within.after (ainGap_within _ _ _ _ _) | with_reducible apply Within.after (modAin_within _ _ _)
    | with_reducible apply Within.after (raise_within _ _ _) | with_reducible apply Within.after (rateChange_within _ _ _ _ _ _)
    | with_reducible apply Within.after (followCompare_within _ _) | with_reducible apply Within.after (takeBlock_within _ _ _)
    | split

theorem execAinRateConfirmed_within (t : DT) (i : Fin 4) (s : State) : Stays
    { hostq := true, dt := true, due := true, audio := true, port := true, mp := true, cry := true, slots := true, mnt := true, vault := true }
    s (execAinRateConfirmed t i s) := by
  unfold execAinRateConfirmed
  repeat' first
    | with_reducible apply Within.rfl | with_reducible assumption | exact rfl
    | (with_reducible apply Within.foldl; on_goal 1 => (intro _ _))
    | (extract_lets -underBinder -merge -useContext +onlyGivenNames x; refine Stays.cut x (fun hx => ?_) ?_; (on_goal 1 => clear_value x); (on_goal 2 => (unfold x; clear x)))
    | (extract_lets -underBinder -merge -useContext +onlyGivenNames x; refine Within.cut x (fun hx => ?_) ?_; (on_goal 1 => clear_value x); (on_goal 2 => (unfold x; clear x)))
    | (extract_lets -underBinder -merge -useContext +onlyGivenNames x; clear_value x) | with_reducible apply Stays.ite
    | with_reducible apply Within.ite | with_reducible apply stays_next | with_reducible apply Within.after (moment_within _ _)
    | with_reducible apply Within.after (ainGap_within _ _ _ _ _)
    | with_reducible apply Within.after (rateChange_within _ _ _ _ _ _) | with_reducible apply Within.after (modAin_within _ _ _)
    | with_reducible apply Within.after (takeBlock_within _ _ _) | split

theorem execAinRateChangeTimeout_within (t : DT) (i : Fin 4) (s : State) : Stays
    { hostq := true, dt := true, due := true, audio := true, port := true, mp := true, cry := true, slots := true, mnt := true, vault := true }
    s (execAinRateChangeTimeout t i s) := by
  unfold execAinRateChangeTimeout
  repeat' first
    | with_reducible apply Within.rfl | with_reducible assumption | exact rfl
    | (extract_lets -underBinder -merge -useContext +onlyGivenNames x; refine Stays.cut x (fun hx => ?_) ?_; (on_goal 1 => clear_value x); (on_goal 2 => (unfold x; clear x)))
    | (extract_lets -underBinder -merge -useContext +onlyGivenNames x; refine Within.cut x (fun hx => ?_) ?_; (on_goal 1 => clear_value x); (on_goal 2 => (unfold x; clear x)))
    | (extract_lets -underBinder -merge -useContext +onlyGivenNames x; clear_value x) | with_reducible apply Stays.ite
    | with_reducible apply Within.ite | with_reducible apply stays_next | with_reducible apply Within.after (moment_within _ _)
    | with_reducible apply Within.after (loseAin_within _ _) | split

theorem spoilInput_within (i : Fin 4) (first stop : DT) (s : State) : Within { port := true } s (spoilInput i first stop s) :=
    by
  unfold spoilInput
  repeat' first
    | with_reducible apply Within.rfl | with_reducible assumption | exact rfl
    | (extract_lets -underBinder -merge -useContext +onlyGivenNames x; refine Within.cut x (fun hx => ?_) ?_; (on_goal 1 => clear_value x); (on_goal 2 => (unfold x; clear x)))
    | (extract_lets -underBinder -merge -useContext +onlyGivenNames x; clear_value x) | with_reducible apply Within.ite
    | with_reducible apply Within.after (modAin_within _ _ _)

theorem execAirchainReport_within (t : DT) (i : Fin 4) (s : State) : Stays
    { hostq := true, dt := true, due := true, audio := true, port := true, mp := true, cry := true, slots := true, mnt := true, vault := true }
    s (execAirchainReport t i s) := by
  unfold execAirchainReport
  repeat' first
    | with_reducible apply Within.rfl | with_reducible assumption | exact rfl
    | (extract_lets -underBinder -merge -useContext +onlyGivenNames x; refine Stays.cut x (fun hx => ?_) ?_; (on_goal 1 => clear_value x); (on_goal 2 => (unfold x; clear x)))
    | (extract_lets -underBinder -merge -useContext +onlyGivenNames x; refine Within.cut x (fun hx => ?_) ?_; (on_goal 1 => clear_value x); (on_goal 2 => (unfold x; clear x)))
    | (extract_lets -underBinder -merge -useContext +onlyGivenNames x; clear_value x) | with_reducible apply Stays.ite
    | with_reducible apply Within.ite | with_reducible apply stays_next | with_reducible apply Within.after (moment_within _ _)
    | with_reducible apply Within.after (reportCompare_within _ _ _) | with_reducible apply Within.after (followCompare_within _ _)
    | with_reducible apply Within.after (modAin_within _ _ _)

end Sys2Proof.Machine
end

