-- ==== Sys2Proof/Laws/Memory.lean ====
section
/-!
SUPPORT. Laws/Memory.lean: what each operation of Machine/Memory.lean leaves as it was.
-/
namespace Sys2Proof.Machine

theorem freeSlot_within (k : Fin 4) (s : State) : Within { hostq := true, mp := true, slots := true, mem := true } s (freeSlot k
    s) := by
  unfold freeSlot
  repeat' first
    | with_reducible apply Within.rfl | with_reducible assumption | exact rfl
    | (with_reducible apply Within.foldl; on_goal 1 => (intro _ _))
    | (extract_lets -underBinder -merge -useContext +onlyGivenNames x; refine Within.cut x (fun hx => ?_) ?_; (on_goal 1 => clear_value x); (on_goal 2 => (unfold x; clear x)))
    | with_reducible apply Within.ite | with_reducible apply modMem_within | exact .inl rfl | exact .inr fun _ => rfl
    | with_reducible apply Within.after (reject_within _ _ _)

theorem readBuffer_within (k : Fin 4) (off left : Nat) (b : Buffer) (s : State) : Within
    { hostq := true, mp := true, cry := true, slots := true, mnt := true, vault := true } s (readBuffer k off left b s) := by
  unfold readBuffer
  repeat' first
    | with_reducible apply Within.rfl | with_reducible assumption | exact rfl
    | (extract_lets -underBinder -merge -useContext +onlyGivenNames x; refine Within.cut x (fun hx => ?_) ?_; (on_goal 1 => clear_value x); (on_goal 2 => (unfold x; clear x)))
    | (extract_lets -underBinder -merge -useContext +onlyGivenNames x; clear_value x) | with_reducible apply Within.ite
    | with_reducible apply Within.after (putBytes_within _ _ _ _) | with_reducible apply Within.after (returnBuffer_within _ _ _)
    | with_reducible apply Within.after (useFree_within _) | with_reducible apply Within.after (gapSherd_within _ _ _ _ _ _ _ _ _)

theorem pumpReads_within  (n : Nat) (s : State) : Within
    { hostq := true, mp := true, cry := true, slots := true, mnt := true, vault := true } s (pumpReads  n s) := by
  induction n generalizing s with
  | zero => exact Within.rfl
  | succ n ih =>
    unfold pumpReads
    repeat' first
      | with_reducible apply Within.rfl | with_reducible assumption | exact rfl | with_reducible apply Within.after (ih _)
      | (extract_lets -underBinder -merge -useContext +onlyGivenNames x; clear_value x) | with_reducible apply Within.ite
      | with_reducible apply Within.after (finish_within _ _ _ _)
      | with_reducible apply Within.after (readBuffer_within _ _ _ _ _) | with_reducible apply Within.after (note_within _ _ _)
      | split

theorem carryReads_within (s : State) : Within
    { hostq := true, mp := true, cry := true, slots := true, mnt := true, vault := true } s (carryReads s) := by
  unfold carryReads
  repeat' first
    | with_reducible apply Within.rfl | with_reducible assumption | exact rfl
    | with_reducible apply Within.after (pumpReads_within _ _)

theorem doMemCaptureArm_within (h : Held) (s : State) : Within { hostq := true, mp := true, slots := true, mem := true } s
    (doMemCaptureArm h s) := by
  unfold doMemCaptureArm
  repeat' first
    | with_reducible apply Within.rfl | with_reducible assumption | exact rfl
    | (extract_lets -underBinder -merge -useContext +onlyGivenNames x; refine Within.cut x (fun hx => ?_) ?_; (on_goal 1 => clear_value x); (on_goal 2 => (unfold x; clear x)))
    | (extract_lets -underBinder -merge -useContext +onlyGivenNames x; clear_value x) | with_reducible apply Within.ite
    | with_reducible apply modMem_within | exact .inl rfl | exact .inr fun _ => rfl
    | with_reducible apply Within.after (reject_within _ _ _) | with_reducible apply Within.after (finish_within _ _ _ _)
    | with_reducible apply Within.after (freeSlot_within _ _) | with_reducible apply Within.after (post_within _ _ _) | split

theorem execMemCaptureArm_within (e : Entry) (s : State) : Stays
    { hostq := true, dt := true, due := true, mp := true, slots := true, mem := true } s (execMemCaptureArm e s) := by
  unfold execMemCaptureArm
  repeat' first
    | with_reducible apply Within.rfl | with_reducible assumption | exact rfl | with_reducible apply stays_next
    | (with_reducible apply hostCmd_within; (on_goal 2 => (intro _ _)))
    | with_reducible apply Within.after (doMemCaptureArm_within _ _)

theorem doMemCaptureFreeze_within (h : Held) (s : State) : Within { hostq := true, mp := true, slots := true } s
    (doMemCaptureFreeze h s) := by
  unfold doMemCaptureFreeze
  repeat' first
    | with_reducible apply Within.rfl | with_reducible assumption | exact rfl
    | with_reducible apply Within.after (begin__within _ _) | with_reducible apply Within.after (modSlot_within _ _ _)
    | with_reducible apply Within.after (reject_within _ _ _) | split

theorem execMemCaptureFreeze_within (e : Entry) (s : State) : Stays
    { hostq := true, dt := true, due := true, mp := true, slots := true } s (execMemCaptureFreeze e s) := by
  unfold execMemCaptureFreeze
  repeat' first
    | with_reducible apply Within.rfl | with_reducible assumption | exact rfl | with_reducible apply stays_next
    | (with_reducible apply hostCmd_within; (on_goal 2 => (intro _ _)))
    | with_reducible apply Within.after (doMemCaptureFreeze_within _ _)

theorem execCaptureFreeze_within (t : DT) (slot : Fin 4) (written : List RingBlock) (s : State) : Stays
    { hostq := true, dt := true, due := true, mp := true, slots := true } s (execCaptureFreeze t slot written s) := by
  unfold execCaptureFreeze
  repeat' first
    | with_reducible apply Within.rfl | with_reducible assumption | exact rfl
    | (extract_lets -underBinder -merge -useContext +onlyGivenNames x; refine Stays.cut x (fun hx => ?_) ?_; (on_goal 1 => clear_value x); (on_goal 2 => (unfold x; clear x)))
    | (extract_lets -underBinder -merge -useContext +onlyGivenNames x; refine Within.cut x (fun hx => ?_) ?_; (on_goal 1 => clear_value x); (on_goal 2 => (unfold x; clear x)))
    | (extract_lets -underBinder -merge -useContext +onlyGivenNames x; clear_value x) | with_reducible apply Stays.ite
    | with_reducible apply Within.ite | with_reducible apply stays_next | with_reducible apply Within.after (moment_within _ _)
    | with_reducible apply Within.after (modSlot_within _ _ _) | with_reducible apply Within.after (finishAll_within _ _ _ _)

theorem doMemCaptureRead_within (h : Held) (s : State) : Within
    { hostq := true, mp := true, cry := true, slots := true, mem := true, mnt := true, vault := true } s (doMemCaptureRead h s)
    := by
  unfold doMemCaptureRead
  repeat' first
    | with_reducible apply Within.rfl | with_reducible assumption | exact rfl
    | (extract_lets -underBinder -merge -useContext +onlyGivenNames x; refine Within.cut x (fun hx => ?_) ?_; (on_goal 1 => clear_value x); (on_goal 2 => (unfold x; clear x)))
    | (extract_lets -underBinder -merge -useContext +onlyGivenNames x; clear_value x) | with_reducible apply Within.ite
    | with_reducible apply modMem_within | exact .inl rfl | exact .inr fun _ => rfl
    | with_reducible apply Within.after (reject_within _ _ _) | with_reducible apply Within.after (carryReads_within _)
    | with_reducible apply Within.after (note_within _ _ _) | with_reducible apply Within.after (useFree_within _)
    | with_reducible apply Within.after (finish_within _ _ _ _) | split

theorem execMemCaptureRead_within (e : Entry) (s : State) : Stays
    { hostq := true, dt := true, due := true, mp := true, cry := true, slots := true, mem := true, mnt := true, vault := true }
    s (execMemCaptureRead e s) := by
  unfold execMemCaptureRead
  repeat' first
    | with_reducible apply Within.rfl | with_reducible assumption | exact rfl | with_reducible apply stays_next
    | (with_reducible apply hostCmd_within; (on_goal 2 => (intro _ _)))
    | with_reducible apply Within.after (doMemCaptureRead_within _ _)

theorem doMemTimeshiftConfig_within (h : Held) (s : State) : Within { hostq := true, mp := true, slots := true } s
    (doMemTimeshiftConfig h s) := by
  unfold doMemTimeshiftConfig
  repeat' first
    | with_reducible apply Within.rfl | with_reducible assumption | exact rfl
    | (extract_lets -underBinder -merge -useContext +onlyGivenNames x; clear_value x) | with_reducible apply Within.ite
    | with_reducible apply Within.after (reject_within _ _ _) | with_reducible apply Within.after (park_within _ _ _) | split

theorem execMemTimeshiftConfig_within (e : Entry) (s : State) : Stays
    { hostq := true, dt := true, due := true, mp := true, slots := true } s (execMemTimeshiftConfig e s) := by
  unfold execMemTimeshiftConfig
  repeat' first
    | with_reducible apply Within.rfl | with_reducible assumption | exact rfl | with_reducible apply stays_next
    | (with_reducible apply hostCmd_within; (on_goal 2 => (intro _ _)))
    | with_reducible apply Within.after (doMemTimeshiftConfig_within _ _)

theorem execSharedPoolInitDone_within (t : DT) (s : State) : Stays { hostq := true, dt := true, due := true, mem := true } s
    (execSharedPoolInitDone t s) := by
  unfold execSharedPoolInitDone
  repeat' first
    | with_reducible apply Within.rfl | with_reducible assumption | exact rfl
    | (extract_lets -underBinder -merge -useContext +onlyGivenNames x; refine Stays.cut x (fun hx => ?_) ?_; (on_goal 1 => clear_value x); (on_goal 2 => (unfold x; clear x)))
    | with_reducible apply Stays.ite | with_reducible apply Within.ite | with_reducible apply stays_next
    | with_reducible apply modMem_within | exact .inl rfl | exact .inr fun _ => rfl
    | with_reducible apply Within.after (moment_within _ _)

theorem discardStaged_within (c : Fin 4) (n : Nat) (s : State) : Within
    { hostq := true, mp := true, cry := true, slots := true, mnt := true, vault := true } s (discardStaged c n s) := by
  unfold discardStaged
  repeat' first
    | with_reducible apply Within.rfl | with_reducible assumption | exact rfl | with_reducible apply Within.ite
    | with_reducible apply Within.after (flushStage_within _ _) | with_reducible apply Within.after (modRing_within _ _ _)
    | split

theorem loseReference_within (refId : Nat) (s : State) : Within
    { hostq := true, audio := true, mp := true, cry := true, slots := true, mnt := true, vault := true } s (loseReference refId
    s) := by
  unfold loseReference
  repeat' first
    | with_reducible apply Within.rfl | with_reducible assumption | exact rfl | with_reducible apply modAudio_within
    | with_reducible apply Within.after (endRemoved_within _)

theorem loseStaged_within (p : Fin 14) (ch : Nat) (first last : DT) (s : State) : Within { hostq := true, port := true, mp := true, cry := true, slots := true, mnt := true, vault := true } s (loseStaged p ch first last s) := by
  unfold loseStaged
  repeat' first
    | with_reducible apply Within.rfl | with_reducible assumption | exact rfl | with_reducible apply Within.ite
    | with_reducible apply modPortSt_within | with_reducible apply Within.after (gapSherd_within _ _ _ _ _ _ _ _ _)

theorem dramOutcome_within (area : DramArea) (s : State) : Within
    { hostq := true, audio := true, port := true, mp := true, cry := true, slots := true, mem := true, mnt := true, vault := true }
    s (dramOutcome area s) := by
  unfold dramOutcome
  repeat' first
    | with_reducible apply Within.rfl | with_reducible assumption | exact rfl | with_reducible apply Within.ite
    | with_reducible apply modMem_within | exact .inl rfl | exact .inr fun _ => rfl
    | with_reducible apply Within.after (ainGap_within _ _ _ _ _) | with_reducible apply Within.after (spoilInput_within _ _ _ _)
    | with_reducible apply Within.after (discardStaged_within _ _ _) | with_reducible apply Within.after (loseReference_within _ _)
    | with_reducible apply Within.after (modSlot_within _ _ _) | with_reducible apply Within.after (loseStaged_within _ _ _ _ _)
    | split

end Sys2Proof.Machine
end

