-- ==== Sys2Proof/Laws/HostIf.lean ====
section
/-!
SUPPORT. Laws/HostIf.lean: what each operation of Machine/HostIf.lean leaves as it was.
-/
namespace Sys2Proof.Machine

theorem setupRing_within (c : Fin 4) (a : List Byte) (s : State) : Within { hostq := true } s (setupRing c a s) := by
  unfold setupRing
  repeat' first
    | with_reducible apply Within.rfl | with_reducible assumption | exact rfl
    | (extract_lets -underBinder -merge -useContext +onlyGivenNames x; refine Within.cut x (fun hx => ?_) ?_; (on_goal 1 => clear_value x); (on_goal 2 => (unfold x; clear x)))
    | (extract_lets -underBinder -merge -useContext +onlyGivenNames x; clear_value x) | with_reducible apply Within.ite
    | with_reducible apply Within.after (settle_within _ _ _) | with_reducible apply Within.after (post_within _ _ _)
    | with_reducible apply Within.after (modRing_within _ _ _)

theorem reclaim_within (c : Fin 4) (n : Nat) (s : State) : Within { hostq := true, cry := true } s (reclaim c n s) := by
  induction n generalizing s with
  | zero => exact Within.rfl
  | succ n ih =>
    unfold reclaim
    repeat' first
      | with_reducible apply Within.rfl | with_reducible assumption | exact rfl | with_reducible apply Within.after (ih _)
      | with_reducible apply Within.ite | with_reducible apply Within.after (returnBuffer_within _ _ _) | split

theorem endReclaims_within (c : Fin 4) (s : State) : Within { hostq := true, mp := true, slots := true } s (endReclaims c s) :=
    by
  unfold endReclaims
  repeat' first
    | with_reducible apply Within.rfl | with_reducible assumption | exact rfl
    | (with_reducible apply Within.foldl; on_goal 1 => (intro _ _)) | with_reducible apply Within.ite
    | with_reducible apply Within.after (finish_within _ _ _ _)

theorem resumeClass_within (c : Fin 4) (s : State) : Within
    { hostq := true, mp := true, cry := true, slots := true, mnt := true, vault := true } s (resumeClass c s) := by
  unfold resumeClass
  repeat' first
    | with_reducible apply Within.rfl | with_reducible assumption | exact rfl
    | (extract_lets -underBinder -merge -useContext +onlyGivenNames x; refine Within.cut x (fun hx => ?_) ?_; (on_goal 1 => clear_value x); (on_goal 2 => (unfold x; clear x)))
    | with_reducible apply Within.ite | with_reducible apply Within.after (flushStage_within _ _)
    | with_reducible apply Within.after (carryReads_within _)

theorem doBufPost_within (h : Held) (s : State) : Within
    { hostq := true, mp := true, cry := true, slots := true, mnt := true, vault := true } s (doBufPost h s) := by
  unfold doBufPost
  repeat' first
    | with_reducible apply Within.rfl | with_reducible assumption | exact rfl
    | (extract_lets -underBinder -merge -useContext +onlyGivenNames x; refine Within.cut x (fun hx => ?_) ?_; (on_goal 1 => clear_value x); (on_goal 2 => (unfold x; clear x)))
    | (extract_lets -underBinder -merge -useContext +onlyGivenNames x; clear_value x) | with_reducible apply Within.ite
    | with_reducible apply Within.after (finish_within _ _ _ _) | with_reducible apply Within.after (setupRing_within _ _ _)
    | with_reducible apply Within.after (reject_within _ _ _) | with_reducible apply Within.after (post_within _ _ _)
    | with_reducible apply Within.after (modRing_within _ _ _) | with_reducible apply Within.after (resumeClass_within _ _)
    | with_reducible apply Within.after (endReclaims_within _ _) | with_reducible apply Within.after (note_within _ _ _)
    | with_reducible apply Within.after (reclaim_within _ _ _) | split

theorem execBufPost_within (e : Entry) (s : State) : Stays
    { hostq := true, dt := true, due := true, mp := true, cry := true, slots := true, mnt := true, vault := true } s
    (execBufPost e s) := by
  unfold execBufPost
  repeat' first
    | with_reducible apply Within.rfl | with_reducible assumption | exact rfl | with_reducible apply stays_next
    | (with_reducible apply hostCmd_within; (on_goal 2 => (intro _ _)))
    | with_reducible apply Within.after (doBufPost_within _ _)

theorem execQueuedEntryWrite_within (t : DT) (ring : Ring) (s : State) : Stays
    { hostq := true, dt := true, due := true, mp := true, cry := true, slots := true, mnt := true, vault := true } s
    (execQueuedEntryWrite t ring s) := by
  unfold execQueuedEntryWrite
  repeat' first
    | with_reducible apply Within.rfl | with_reducible assumption | exact rfl
    | (extract_lets -underBinder -merge -useContext +onlyGivenNames x; refine Stays.cut x (fun hx => ?_) ?_; (on_goal 1 => clear_value x); (on_goal 2 => (unfold x; clear x)))
    | (extract_lets -underBinder -merge -useContext +onlyGivenNames x; refine Within.cut x (fun hx => ?_) ?_; (on_goal 1 => clear_value x); (on_goal 2 => (unfold x; clear x)))
    | with_reducible apply Stays.ite | with_reducible apply Within.ite | with_reducible apply stays_next
    | with_reducible apply Within.after (moment_within _ _) | with_reducible apply Within.after (cqDrainOne_within _ _)
    | with_reducible apply Within.after (endReclaims_within _ _) | with_reducible apply Within.after (retDrainOne_within _ _)
    | with_reducible apply Within.after (carryReads_within _) | split

theorem execCoalTimeExpiry_within (t : DT) (ring : Ring) (s : State) : Stays { hostq := true, dt := true, due := true } s
    (execCoalTimeExpiry t ring s) := by
  unfold execCoalTimeExpiry
  repeat' first
    | with_reducible apply Within.rfl | with_reducible assumption | exact rfl
    | (extract_lets -underBinder -merge -useContext +onlyGivenNames x; refine Stays.cut x (fun hx => ?_) ?_; (on_goal 1 => clear_value x); (on_goal 2 => (unfold x; clear x)))
    | (extract_lets -underBinder -merge -useContext +onlyGivenNames x; clear_value x) | with_reducible apply Stays.ite
    | with_reducible apply Within.ite | with_reducible apply stays_next | with_reducible apply modHost_within | exact .inl rfl
    | exact .inr fun _ => rfl | exact fun _ b => b | with_reducible apply Within.after (moment_within _ _)
    | with_reducible apply Within.after (sendMsix_within _ _) | with_reducible apply Within.after (modPairq_within _ _ _)
    | split

theorem execSqDoorbellWrite_within (t : DT) (q : Fin 32) (value : BitVec 32) (s : State) : Stays
    { hostq := true, dt := true, due := true } s (execSqDoorbellWrite t q value s) := by
  unfold execSqDoorbellWrite
  repeat' first
    | with_reducible apply Within.rfl | with_reducible assumption | exact rfl
    | (extract_lets -underBinder -merge -useContext +onlyGivenNames x; refine Stays.cut x (fun hx => ?_) ?_; (on_goal 1 => clear_value x); (on_goal 2 => (unfold x; clear x)))
    | (extract_lets -underBinder -merge -useContext +onlyGivenNames x; clear_value x) | with_reducible apply Stays.ite
    | with_reducible apply Within.ite | with_reducible apply stays_next | with_reducible apply Within.after (moment_within _ _)
    | with_reducible apply Within.after (modPairq_within _ _ _) | with_reducible apply Within.after (post_within _ _ _)

theorem execCqDoorbellWrite_within (t : DT) (q : Fin 32) (value : BitVec 32) (s : State) : Stays
    { hostq := true, dt := true, due := true } s (execCqDoorbellWrite t q value s) := by
  unfold execCqDoorbellWrite
  repeat' first
    | with_reducible apply Within.rfl | with_reducible assumption | exact rfl
    | (extract_lets -underBinder -merge -useContext +onlyGivenNames x; refine Stays.cut x (fun hx => ?_) ?_; (on_goal 1 => clear_value x); (on_goal 2 => (unfold x; clear x)))
    | (extract_lets -underBinder -merge -useContext +onlyGivenNames x; clear_value x) | with_reducible apply Stays.ite
    | with_reducible apply Within.ite | with_reducible apply stays_next | with_reducible apply Within.after (moment_within _ _)
    | with_reducible apply Within.after (modPairq_within _ _ _) | with_reducible apply Within.after (post_within _ _ _)

theorem execReturnRingDoorbellWrite_within (t : DT) (c : Fin 4) (value : BitVec 32) (s : State) : Stays
    { hostq := true, dt := true, due := true } s (execReturnRingDoorbellWrite t c value s) := by
  unfold execReturnRingDoorbellWrite
  repeat' first
    | with_reducible apply Within.rfl | with_reducible assumption | exact rfl
    | (extract_lets -underBinder -merge -useContext +onlyGivenNames x; refine Stays.cut x (fun hx => ?_) ?_; (on_goal 1 => clear_value x); (on_goal 2 => (unfold x; clear x)))
    | (extract_lets -underBinder -merge -useContext +onlyGivenNames x; clear_value x) | with_reducible apply Stays.ite
    | with_reducible apply Within.ite | with_reducible apply stays_next | with_reducible apply Within.after (moment_within _ _)
    | with_reducible apply Within.after (modRing_within _ _ _) | with_reducible apply Within.after (post_within _ _ _)

theorem enablePair_within (q : Fin 32) (s : State) : Within { hostq := true } s (enablePair q s) := by
  unfold enablePair
  repeat' first
    | with_reducible apply Within.rfl | with_reducible assumption | exact rfl
    | (extract_lets -underBinder -merge -useContext +onlyGivenNames x; clear_value x) | with_reducible apply Within.ite
    | with_reducible apply Within.after (modPairq_within _ _ _) | with_reducible apply Within.after (post_within _ _ _)

theorem execPairEnableWrite_within (t : DT) (q : Fin 32) (value : BitVec 32) (s : State) : Stays
    { hostq := true, dt := true, due := true } s (execPairEnableWrite t q value s) := by
  unfold execPairEnableWrite
  repeat' first
    | with_reducible apply Within.rfl | with_reducible assumption | exact rfl
    | (extract_lets -underBinder -merge -useContext +onlyGivenNames x; refine Stays.cut x (fun hx => ?_) ?_; (on_goal 1 => clear_value x); (on_goal 2 => (unfold x; clear x)))
    | (extract_lets -underBinder -merge -useContext +onlyGivenNames x; clear_value x) | with_reducible apply Stays.ite
    | with_reducible apply Within.ite | with_reducible apply stays_next | with_reducible apply Within.after (moment_within _ _)
    | with_reducible apply Within.after (modPairq_within _ _ _) | with_reducible apply Within.after (enablePair_within _ _)

theorem withdraw_within (st : Status) (s : State) (h : Held) : Within
    { hostq := true, due := true, paths := true, mp := true, slots := true } s (withdraw st s h) := by
  unfold withdraw
  repeat' first
    | with_reducible apply Within.rfl | with_reducible assumption | exact rfl
    | with_reducible apply Within.after (reject_within _ _ _) | with_reducible apply Within.after (forgetSwap_within _ _)

theorem execPairDisableWrite_within (t : DT) (q : Fin 32) (value : BitVec 32) (s : State) : Stays
    { hostq := true, dt := true, due := true, paths := true, mp := true, slots := true } s (execPairDisableWrite t q value s) :=
    by
  unfold execPairDisableWrite
  repeat' first
    | with_reducible apply Within.rfl | with_reducible assumption | exact rfl
    | (with_reducible apply Within.foldl; on_goal 1 => (intro _ _))
    | (extract_lets -underBinder -merge -useContext +onlyGivenNames x; refine Stays.cut x (fun hx => ?_) ?_; (on_goal 1 => clear_value x); (on_goal 2 => (unfold x; clear x)))
    | with_reducible apply Stays.ite | with_reducible apply Within.ite | with_reducible apply stays_next
    | with_reducible apply Within.after (moment_within _ _) | with_reducible apply Within.after (modPairq_within _ _ _)
    | with_reducible apply Within.after (withdraw_within _ _ _)

theorem execPairDrainDone_within (t : DT) (q : Fin 32) (s : State) : Stays { hostq := true, dt := true, due := true } s
    (execPairDrainDone t q s) := by
  unfold execPairDrainDone
  repeat' first
    | with_reducible apply Within.rfl | with_reducible assumption | exact rfl
    | (extract_lets -underBinder -merge -useContext +onlyGivenNames x; refine Stays.cut x (fun hx => ?_) ?_; (on_goal 1 => clear_value x); (on_goal 2 => (unfold x; clear x)))
    | (extract_lets -underBinder -merge -useContext +onlyGivenNames x; clear_value x) | with_reducible apply Stays.ite
    | with_reducible apply Within.ite | with_reducible apply stays_next | with_reducible apply Within.after (moment_within _ _)
    | with_reducible apply Within.after (settle_within _ _ _) | with_reducible apply Within.after (modPairq_within _ _ _)

theorem execCommandDeadlineExpiry_within (t : DT) (src : Source) (tag : BitVec 16) (s : State) : Stays
    { hostq := true, dt := true, due := true, paths := true, mp := true, slots := true } s (execCommandDeadlineExpiry t src tag
    s) := by
  unfold execCommandDeadlineExpiry
  repeat' first
    | with_reducible apply Within.rfl | with_reducible assumption | exact rfl
    | (extract_lets -underBinder -merge -useContext +onlyGivenNames x; refine Stays.cut x (fun hx => ?_) ?_; (on_goal 1 => clear_value x); (on_goal 2 => (unfold x; clear x)))
    | with_reducible apply stays_next | with_reducible apply Within.after (moment_within _ _)
    | with_reducible apply Within.after (withdraw_within _ _ _) | split

theorem latchSnapshot_within (s : State) : Within { hostr := true } s (latchSnapshot s) :=
  modHost_within _ (.inr fun _ => rfl) (.inl rfl) (fun _ b c => ⟨(b c).1, (b c).1⟩) .rfl


theorem execLedgerSnapWrite_within (t : DT) (s : State) : Stays { hostq := true, hostr := true, dt := true, due := true } s
    (execLedgerSnapWrite t s) := by
  unfold execLedgerSnapWrite
  repeat' first
    | with_reducible apply Within.rfl | with_reducible assumption | exact rfl
    | (extract_lets -underBinder -merge -useContext +onlyGivenNames x; refine Stays.cut x (fun hx => ?_) ?_; (on_goal 1 => clear_value x); (on_goal 2 => (unfold x; clear x)))
    | with_reducible apply Stays.ite | with_reducible apply Within.ite | with_reducible apply stays_next
    | with_reducible apply Within.after (moment_within _ _) | with_reducible apply Within.after (latchSnapshot_within _)

theorem flushMsix_within (s : State) : Within { hostq := true } s (flushMsix s) := by
  unfold flushMsix
  repeat' first
    | with_reducible apply Within.rfl | with_reducible assumption | exact rfl
    | (with_reducible apply Within.foldl; on_goal 1 => (intro _ _)) | with_reducible apply Within.ite
    | with_reducible apply modHost_within | exact .inl rfl | exact .inr fun _ => rfl | exact fun _ b => b
    | with_reducible apply Within.after (emit_within _ _)

theorem execMsixVectorUnmask_within (t : DT) (v : Fin 33) (s : State) : Stays
    { hostq := true, hostr := true, dt := true, due := true } s (execMsixVectorUnmask t v s) := by
  unfold execMsixVectorUnmask
  repeat' first
    | with_reducible apply Within.rfl | with_reducible assumption | exact rfl
    | (extract_lets -underBinder -merge -useContext +onlyGivenNames x; refine Stays.cut x (fun hx => ?_) ?_; (on_goal 1 => clear_value x); (on_goal 2 => (unfold x; clear x)))
    | with_reducible apply Stays.ite | with_reducible apply Within.ite | with_reducible apply stays_next
    | with_reducible apply modHost_within | exact .inl rfl | exact .inr fun _ => rfl | exact fun _ b => b
    | with_reducible apply Within.after (moment_within _ _) | with_reducible apply Within.after (flushMsix_within _)

theorem resumeHost_within (s : State) : Within
    { hostq := true, mp := true, cry := true, slots := true, mnt := true, vault := true } s (resumeHost s) := by
  unfold resumeHost
  repeat' first
    | with_reducible apply Within.rfl | with_reducible assumption | exact rfl
    | (with_reducible apply Within.foldl; on_goal 1 => (intro _ _)) | with_reducible apply Within.ite
    | with_reducible apply Within.after (resumeClass_within _ _) | with_reducible apply Within.after (flushMsix_within _)

theorem execBusMasterEnableSet_within (t : DT) (s : State) : Stays
    { hostq := true, hostr := true, dt := true, due := true, mp := true, cry := true, slots := true, mnt := true, vault := true }
    s (execBusMasterEnableSet t s) := by
  unfold execBusMasterEnableSet
  repeat' first
    | with_reducible apply Within.rfl | with_reducible assumption | exact rfl
    | (extract_lets -underBinder -merge -useContext +onlyGivenNames x; refine Stays.cut x (fun hx => ?_) ?_; (on_goal 1 => clear_value x); (on_goal 2 => (unfold x; clear x)))
    | with_reducible apply Stays.ite | with_reducible apply Within.ite | with_reducible apply stays_next
    | with_reducible apply modHost_within | exact .inl rfl | exact .inr fun _ => rfl | exact fun _ b => b
    | with_reducible apply Within.after (moment_within _ _) | with_reducible apply Within.after (resumeHost_within _)

theorem execBusMasterEnableClear_within (t : DT) (s : State) : Stays { hostq := true, hostr := true, dt := true, due := true } s
    (execBusMasterEnableClear t s) := by
  unfold execBusMasterEnableClear
  repeat' first
    | with_reducible apply Within.rfl | with_reducible assumption | exact rfl
    | (extract_lets -underBinder -merge -useContext +onlyGivenNames x; refine Stays.cut x (fun hx => ?_) ?_; (on_goal 1 => clear_value x); (on_goal 2 => (unfold x; clear x)))
    | with_reducible apply Stays.ite | with_reducible apply Within.ite | with_reducible apply stays_next
    | with_reducible apply modHost_within | exact .inl rfl | exact .inr fun _ => rfl | exact fun _ b => b
    | with_reducible apply Within.after (moment_within _ _)

theorem execPcieLinkDown_within (t : DT) (s : State) : Stays { hostq := true, hostr := true, dt := true, due := true } s
    (execPcieLinkDown t s) := by
  unfold execPcieLinkDown
  repeat' first
    | with_reducible apply Within.rfl | with_reducible assumption | exact rfl | with_reducible apply stays_next
    | with_reducible apply modHost_within | exact .inl rfl | exact .inr fun _ => rfl | exact fun _ b => b
    | with_reducible apply Within.after (moment_within _ _)

theorem trainLink_within (s : State) : Within { hostr := true } s (trainLink s) := by
  unfold trainLink
  repeat' first
    | with_reducible apply Within.rfl | with_reducible assumption | exact rfl | with_reducible apply modHost_within | exact .inl rfl
    | exact .inr fun _ => rfl | exact fun _ b => b | with_reducible apply Within.after (useMany_within _ _)
    | with_reducible apply Within.after (useFree_within _)

theorem execPcieLinkUp_within (t : DT) (s : State) : Stays
    { hostq := true, hostr := true, dt := true, due := true, mp := true, cry := true, slots := true, mnt := true, vault := true }
    s (execPcieLinkUp t s) := by
  unfold execPcieLinkUp
  repeat' first
    | with_reducible apply Within.rfl | with_reducible assumption | exact rfl
    | (extract_lets -underBinder -merge -useContext +onlyGivenNames x; refine Stays.cut x (fun hx => ?_) ?_; (on_goal 1 => clear_value x); (on_goal 2 => (unfold x; clear x)))
    | (extract_lets -underBinder -merge -useContext +onlyGivenNames x; refine Within.cut x (fun hx => ?_) ?_; (on_goal 1 => clear_value x); (on_goal 2 => (unfold x; clear x)))
    | (extract_lets -underBinder -merge -useContext +onlyGivenNames x; clear_value x) | with_reducible apply Stays.ite
    | with_reducible apply Within.ite | with_reducible apply stays_next | with_reducible apply Within.after (moment_within _ _)
    | with_reducible apply Within.after (resumeHost_within _) | with_reducible apply Within.after (trainLink_within _)

theorem writeCoal_within (q : Fin 32) (v : BitVec 32) (s : State) : Within { hostq := true } s (writeCoal q v s) := by
  unfold writeCoal
  repeat' first
    | with_reducible apply Within.rfl | with_reducible assumption | exact rfl
    | (extract_lets -underBinder -merge -useContext +onlyGivenNames x; refine Within.cut x (fun hx => ?_) ?_; (on_goal 1 => clear_value x); (on_goal 2 => (unfold x; clear x)))
    | (extract_lets -underBinder -merge -useContext +onlyGivenNames x; clear_value x) | with_reducible apply Within.ite
    | with_reducible apply Within.after (modPairq_within _ _ _) | with_reducible apply Within.after (sendMsix_within _ _)

theorem writeRingCoal_within (v : BitVec 32) (s : State) : Within { hostq := true, hostr := true } s (writeRingCoal v s) := by
  unfold writeRingCoal
  repeat' first
    | with_reducible apply Within.rfl | with_reducible assumption | exact rfl
    | (extract_lets -underBinder -merge -useContext +onlyGivenNames x; refine Within.cut x (fun hx => ?_) ?_; (on_goal 1 => clear_value x); (on_goal 2 => (unfold x; clear x)))
    | (extract_lets -underBinder -merge -useContext +onlyGivenNames x; clear_value x) | with_reducible apply Within.ite
    | with_reducible apply modHost_within | exact .inl rfl | exact .inr fun _ => rfl | exact fun _ b => b
    | with_reducible apply Within.after (sendMsix_within _ _)

theorem writeMport_within (off : Nat) (v : BitVec 32) (s : State) : Within { mp := true } s (writeMport off v s) := by
  unfold writeMport
  repeat' first
    | with_reducible apply Within.rfl | with_reducible assumption | exact rfl
    | (extract_lets -underBinder -merge -useContext +onlyGivenNames x; clear_value x) | with_reducible apply modMp_within
    | split

theorem writeReg_within (off : Nat) (v : BitVec 32) (s : State) : Within
    { power := true, hostq := true, hostr := true, clock := true, mp := true } s (writeReg off v s) := by
  unfold writeReg
  repeat' first
    | with_reducible apply Within.rfl | with_reducible assumption | exact rfl | with_reducible apply Within.ite
    | with_reducible apply modPower_within | with_reducible apply modHost_within | exact .inl rfl | exact .inr fun _ => rfl
    | exact fun _ b => b | with_reducible apply Within.after (modPairq_within _ _ _)
    | with_reducible apply Within.after (modRing_within _ _ _) | with_reducible apply Within.after (writeCoal_within _ _ _)
    | with_reducible apply Within.after (writeRingCoal_within _ _) | with_reducible apply Within.after (writeMport_within _ _ _)
    | with_reducible apply Within.after (settleLock_within _ _) | split

theorem execRegisterWrite_within (t : DT) (off : Nat) (wide : Bool) (value : BitVec 64) (s : State) : Stays { power := true, hostq := true, hostr := true, dt := true, clock := true, due := true, mp := true } s (execRegisterWrite t off wide value s)
    := by
  unfold execRegisterWrite
  repeat' first
    | with_reducible apply Within.rfl | with_reducible assumption | exact rfl
    | (extract_lets -underBinder -merge -useContext +onlyGivenNames x; refine Stays.cut x (fun hx => ?_) ?_; (on_goal 1 => clear_value x); (on_goal 2 => (unfold x; clear x)))
    | (extract_lets -underBinder -merge -useContext +onlyGivenNames x; refine Within.cut x (fun hx => ?_) ?_; (on_goal 1 => clear_value x); (on_goal 2 => (unfold x; clear x)))
    | (extract_lets -underBinder -merge -useContext +onlyGivenNames x; clear_value x) | with_reducible apply Stays.ite
    | with_reducible apply Within.ite | with_reducible apply stays_next | with_reducible apply modHost_within | exact .inl rfl
    | exact .inr fun _ => rfl | exact fun _ b => b | with_reducible apply Within.after (moment_within _ _)
    | with_reducible apply Within.after (writeReg_within _ _ _)

theorem execUnknownOpcode_within (e : Entry) (opcode : BitVec 16) (s : State) : Stays
    { hostq := true, dt := true, due := true, mp := true, slots := true } s (execUnknownOpcode e opcode s) := by
  unfold execUnknownOpcode
  repeat' first
    | with_reducible apply Within.rfl | with_reducible assumption | exact rfl
    | (extract_lets -underBinder -merge -useContext +onlyGivenNames x; refine Stays.cut x (fun hx => ?_) ?_; (on_goal 1 => clear_value x); (on_goal 2 => (unfold x; clear x)))
    | (extract_lets -underBinder -merge -useContext +onlyGivenNames x; clear_value x) | with_reducible apply Stays.ite
    | with_reducible apply Within.ite | with_reducible apply stays_next | with_reducible apply modHost_within | exact .inl rfl
    | exact .inr fun _ => rfl | exact fun _ b => b | with_reducible apply Within.after (moment_within _ _)
    | with_reducible apply Within.after (shieldCopy_within _ _ _) | with_reducible apply Within.after (fail_within _ _ _ _ _)
    | split | with_reducible refine Within.after (OptW.of (fetch_within _ _ _) (by with_reducible assumption)) ?_ ?_
    | with_reducible apply Within.after (hold_within _ _ _ _).snd

theorem doDiagLoopback_within (source : List Byte) (h : Held) (s : State) : Within { hostq := true, mp := true, slots := true }
    s (doDiagLoopback source h s) := by
  unfold doDiagLoopback
  repeat' first
    | with_reducible apply Within.rfl | with_reducible assumption | exact rfl
    | (extract_lets -underBinder -merge -useContext +onlyGivenNames x; refine Within.cut x (fun hx => ?_) ?_; (on_goal 1 => clear_value x); (on_goal 2 => (unfold x; clear x)))
    | (extract_lets -underBinder -merge -useContext +onlyGivenNames x; clear_value x) | with_reducible apply Within.ite
    | with_reducible apply Within.after (finishAt_within _ _ _ _ _ _) | with_reducible apply Within.after (emit_within _ _)
    | with_reducible apply Within.after (finish_within _ _ _ _)

theorem execDiagLoopback_within (e : Entry) (source : List Byte) (s : State) : Stays
    { hostq := true, dt := true, due := true, mp := true, slots := true } s (execDiagLoopback e source s) := by
  unfold execDiagLoopback
  repeat' first
    | with_reducible apply Within.rfl | with_reducible assumption | exact rfl | with_reducible apply stays_next
    | (with_reducible apply hostCmd_within; (on_goal 2 => (intro _ _)))
    | with_reducible apply Within.after (doDiagLoopback_within _ _ _)

end Sys2Proof.Machine
end

