-- ==== Sys2Proof/Laws/TwoWire.lean ====
section
/-!
SUPPORT. Laws/TwoWire.lean: what each operation of Machine/TwoWire.lean leaves as it was.
-/
namespace Sys2Proof.Machine

theorem mpStop_within (s : State) : Within { mp := true } s (mpStop s) := by
  unfold mpStop
  repeat' first
    | with_reducible apply Within.rfl | with_reducible assumption | exact rfl | with_reducible apply Within.ite
    | with_reducible apply modMp_within

theorem mpSend_within (code : Nat) (counted : Bool) (l : List Byte) (s : State) : Within { mp := true } s (mpSend code counted l
    s) := by
  unfold mpSend
  repeat' first
    | with_reducible apply Within.rfl | with_reducible assumption | exact rfl | with_reducible apply Within.after (mpStop_within _)
    | with_reducible apply Within.after (emit_within _ _)

theorem mpNack_within (s : State) : Within { mp := true } s (mpNack s) := by
  unfold mpNack
  repeat' first
    | with_reducible apply Within.rfl | with_reducible assumption | exact rfl | with_reducible apply Within.after (mpStop_within _)
    | with_reducible apply Within.after (emit_within _ _)

theorem mpPecError_within (s : State) : Within { mp := true } s (mpPecError s) := by
  unfold mpPecError
  repeat' first
    | with_reducible apply Within.rfl | with_reducible assumption | exact rfl | with_reducible apply modMp_within
    | with_reducible apply Within.after (mpStop_within _)

theorem execMportStatus_within (t : DT) (s : State) : Stays { hostq := true, dt := true, due := true, mp := true } s
    (execMportStatus t s) := by
  unfold execMportStatus
  repeat' first
    | with_reducible apply Within.rfl | with_reducible assumption | exact rfl
    | (extract_lets -underBinder -merge -useContext +onlyGivenNames x; refine Stays.cut x (fun hx => ?_) ?_; (on_goal 1 => clear_value x); (on_goal 2 => (unfold x; clear x)))
    | (extract_lets -underBinder -merge -useContext +onlyGivenNames x; refine Within.cut x (fun hx => ?_) ?_; (on_goal 1 => clear_value x); (on_goal 2 => (unfold x; clear x)))
    | (extract_lets -underBinder -merge -useContext +onlyGivenNames x; clear_value x) | with_reducible apply Stays.ite
    | with_reducible apply Within.ite | with_reducible apply stays_next | with_reducible apply modMp_within
    | with_reducible apply Within.after (moment_within _ _) | with_reducible apply Within.after (mpSend_within _ _ _ _)

theorem execCmdSubmit_within (t : DT) (x : Xfer) (s : State) : Stays { hostq := true, dt := true, due := true, mp := true } s
    (execCmdSubmit t x s) := by
  unfold execCmdSubmit
  repeat' first
    | with_reducible apply Within.rfl | with_reducible assumption | exact rfl
    | (extract_lets -underBinder -merge -useContext +onlyGivenNames x; refine Stays.cut x (fun hx => ?_) ?_; (on_goal 1 => clear_value x); (on_goal 2 => (unfold x; clear x)))
    | (extract_lets -underBinder -merge -useContext +onlyGivenNames x; refine Within.cut x (fun hx => ?_) ?_; (on_goal 1 => clear_value x); (on_goal 2 => (unfold x; clear x)))
    | (extract_lets -underBinder -merge -useContext +onlyGivenNames x; clear_value x) | with_reducible apply Stays.ite
    | with_reducible apply Within.ite | with_reducible apply stays_next | with_reducible apply modMp_within
    | with_reducible apply Within.after (moment_within _ _) | with_reducible apply Within.after (mpNack_within _)
    | with_reducible apply Within.after (post_within _ _ _) | with_reducible apply Within.after (mpPecError_within _) | split

theorem execCmdResult_within (t : DT) (whole : Bool) (s : State) : Stays { hostq := true, dt := true, due := true, mp := true }
    s (execCmdResult t whole s) := by
  unfold execCmdResult
  repeat' first
    | with_reducible apply Within.rfl | with_reducible assumption | exact rfl
    | (extract_lets -underBinder -merge -useContext +onlyGivenNames x; refine Stays.cut x (fun hx => ?_) ?_; (on_goal 1 => clear_value x); (on_goal 2 => (unfold x; clear x)))
    | (extract_lets -underBinder -merge -useContext +onlyGivenNames x; refine Within.cut x (fun hx => ?_) ?_; (on_goal 1 => clear_value x); (on_goal 2 => (unfold x; clear x)))
    | (extract_lets -underBinder -merge -useContext +onlyGivenNames x; clear_value x) | with_reducible apply Stays.ite
    | with_reducible apply Within.ite | with_reducible apply stays_next | with_reducible apply modMp_within
    | with_reducible apply Within.after (moment_within _ _) | with_reducible apply Within.after (mpNack_within _)
    | with_reducible apply Within.after (mpSend_within _ _ _ _) | with_reducible apply Within.after (useFree_within _) | split

theorem execCmdResultRedeliver_within (t : DT) (s : State) : Stays { hostq := true, dt := true, due := true, mp := true } s
    (execCmdResultRedeliver t s) := by
  unfold execCmdResultRedeliver
  repeat' first
    | with_reducible apply Within.rfl | with_reducible assumption | exact rfl
    | (extract_lets -underBinder -merge -useContext +onlyGivenNames x; refine Stays.cut x (fun hx => ?_) ?_; (on_goal 1 => clear_value x); (on_goal 2 => (unfold x; clear x)))
    | with_reducible apply Stays.ite | with_reducible apply Within.ite | with_reducible apply stays_next
    | with_reducible apply modMp_within | with_reducible apply Within.after (moment_within _ _)
    | with_reducible apply Within.after (mpNack_within _) | with_reducible apply Within.after (notifyRise_within _ _) | split

theorem execMportTimingRead_within (t : DT) (s : State) : Stays { hostq := true, dt := true, due := true, mp := true } s
    (execMportTimingRead t s) := by
  unfold execMportTimingRead
  repeat' first
    | with_reducible apply Within.rfl | with_reducible assumption | exact rfl
    | (extract_lets -underBinder -merge -useContext +onlyGivenNames x; refine Stays.cut x (fun hx => ?_) ?_; (on_goal 1 => clear_value x); (on_goal 2 => (unfold x; clear x)))
    | (extract_lets -underBinder -merge -useContext +onlyGivenNames x; refine Within.cut x (fun hx => ?_) ?_; (on_goal 1 => clear_value x); (on_goal 2 => (unfold x; clear x)))
    | (extract_lets -underBinder -merge -useContext +onlyGivenNames x; clear_value x) | with_reducible apply Stays.ite
    | with_reducible apply Within.ite | with_reducible apply stays_next | with_reducible apply Within.after (moment_within _ _)
    | with_reducible apply Within.after (mpSend_within _ _ _ _)

theorem execMportTimingWrite_within (t : DT) (x : Xfer) (s : State) : Stays
    { hostq := true, dt := true, due := true, mp := true } s (execMportTimingWrite t x s) := by
  unfold execMportTimingWrite
  repeat' first
    | with_reducible apply Within.rfl | with_reducible assumption | exact rfl
    | (extract_lets -underBinder -merge -useContext +onlyGivenNames x; refine Stays.cut x (fun hx => ?_) ?_; (on_goal 1 => clear_value x); (on_goal 2 => (unfold x; clear x)))
    | (extract_lets -underBinder -merge -useContext +onlyGivenNames x; refine Within.cut x (fun hx => ?_) ?_; (on_goal 1 => clear_value x); (on_goal 2 => (unfold x; clear x)))
    | (extract_lets -underBinder -merge -useContext +onlyGivenNames x; clear_value x) | with_reducible apply Stays.ite
    | with_reducible apply Within.ite | with_reducible apply stays_next | with_reducible apply modMp_within
    | with_reducible apply Within.after (moment_within _ _) | with_reducible apply Within.after (mpStop_within _)
    | with_reducible apply Within.after (mpNack_within _) | with_reducible apply Within.after (mpPecError_within _) | split

theorem execMportTimingApply_within (t : DT) (s : State) : Stays { hostq := true, dt := true, due := true, mp := true } s
    (execMportTimingApply t s) := by
  unfold execMportTimingApply
  repeat' first
    | with_reducible apply Within.rfl | with_reducible assumption | exact rfl | with_reducible apply stays_next
    | with_reducible apply modMp_within | with_reducible apply Within.after (moment_within _ _)

theorem execEventFetch_within (t : DT) (whole : Bool) (s : State) : Stays { hostq := true, dt := true, due := true, mp := true }
    s (execEventFetch t whole s) := by
  unfold execEventFetch
  repeat' first
    | with_reducible apply Within.rfl | with_reducible assumption | exact rfl
    | (extract_lets -underBinder -merge -useContext +onlyGivenNames x; refine Stays.cut x (fun hx => ?_) ?_; (on_goal 1 => clear_value x); (on_goal 2 => (unfold x; clear x)))
    | (extract_lets -underBinder -merge -useContext +onlyGivenNames x; clear_value x) | with_reducible apply Stays.ite
    | with_reducible apply Within.ite | with_reducible apply stays_next | with_reducible apply modMp_within
    | with_reducible apply modHost_within | exact .inl rfl | exact .inr fun _ => rfl | exact fun _ b => b
    | with_reducible apply Within.after (moment_within _ _) | with_reducible apply Within.after (mpNack_within _)
    | with_reducible apply Within.after (useFree_within _) | with_reducible apply Within.after (mpSend_within _ _ _ _)
    | with_reducible apply Within.after (refill_within _)

theorem execEventFetchRedeliver_within (t : DT) (s : State) : Stays { hostq := true, dt := true, due := true, mp := true } s
    (execEventFetchRedeliver t s) := by
  unfold execEventFetchRedeliver
  repeat' first
    | with_reducible apply Within.rfl | with_reducible assumption | exact rfl
    | (extract_lets -underBinder -merge -useContext +onlyGivenNames x; refine Stays.cut x (fun hx => ?_) ?_; (on_goal 1 => clear_value x); (on_goal 2 => (unfold x; clear x)))
    | (extract_lets -underBinder -merge -useContext +onlyGivenNames x; clear_value x) | with_reducible apply Stays.ite
    | with_reducible apply Within.ite | with_reducible apply stays_next | with_reducible apply modMp_within
    | with_reducible apply modHost_within | exact .inl rfl | exact .inr fun _ => rfl | exact fun _ b => b
    | with_reducible apply Within.after (moment_within _ _) | with_reducible apply Within.after (mpNack_within _)
    | with_reducible apply Within.after (notifyRise_within _ _)

theorem execMportDormantMatch_within (t : DT) (s : State) : Stays { hostq := true, dt := true, due := true, mp := true } s
    (execMportDormantMatch t s) := by
  unfold execMportDormantMatch
  repeat' first
    | with_reducible apply Within.rfl | with_reducible assumption | exact rfl
    | (extract_lets -underBinder -merge -useContext +onlyGivenNames x; refine Stays.cut x (fun hx => ?_) ?_; (on_goal 1 => clear_value x); (on_goal 2 => (unfold x; clear x)))
    | (extract_lets -underBinder -merge -useContext +onlyGivenNames x; refine Within.cut x (fun hx => ?_) ?_; (on_goal 1 => clear_value x); (on_goal 2 => (unfold x; clear x)))
    | (extract_lets -underBinder -merge -useContext +onlyGivenNames x; clear_value x) | with_reducible apply stays_next
    | with_reducible apply Within.after (moment_within _ _) | with_reducible apply Within.after (mpStop_within _)

theorem execMportRegateTimeout_within (t : DT) (s : State) : Stays { hostq := true, dt := true, due := true, mp := true } s
    (execMportRegateTimeout t s) := by
  unfold execMportRegateTimeout
  repeat' first
    | with_reducible apply Within.rfl | with_reducible assumption | exact rfl
    | (extract_lets -underBinder -merge -useContext +onlyGivenNames x; refine Stays.cut x (fun hx => ?_) ?_; (on_goal 1 => clear_value x); (on_goal 2 => (unfold x; clear x)))
    | (extract_lets -underBinder -merge -useContext +onlyGivenNames x; refine Within.cut x (fun hx => ?_) ?_; (on_goal 1 => clear_value x); (on_goal 2 => (unfold x; clear x)))
    | (extract_lets -underBinder -merge -useContext +onlyGivenNames x; clear_value x) | with_reducible apply Stays.ite
    | with_reducible apply Within.ite | with_reducible apply stays_next | with_reducible apply modMp_within
    | with_reducible apply Within.after (moment_within _ _)

theorem execStretchTimeout_within (t : DT) (port : Port2) (s : State) : Stays
    { hostq := true, dt := true, due := true, mp := true, sg := true } s (execStretchTimeout t port s) := by
  unfold execStretchTimeout
  repeat' first
    | with_reducible apply Within.rfl | with_reducible assumption | exact rfl
    | (extract_lets -underBinder -merge -useContext +onlyGivenNames x; refine Stays.cut x (fun hx => ?_) ?_; (on_goal 1 => clear_value x); (on_goal 2 => (unfold x; clear x)))
    | (extract_lets -underBinder -merge -useContext +onlyGivenNames x; refine Within.cut x (fun hx => ?_) ?_; (on_goal 1 => clear_value x); (on_goal 2 => (unfold x; clear x)))
    | (extract_lets -underBinder -merge -useContext +onlyGivenNames x; clear_value x) | with_reducible apply Stays.ite
    | with_reducible apply Within.ite | with_reducible apply stays_next | with_reducible apply modMp_within
    | with_reducible apply modSg_within | with_reducible apply Within.after (moment_within _ _)
    | with_reducible apply Within.after (emit_within _ _) | split

theorem execSclHeldTimeout_within (t : DT) (port : Port2) (s : State) : Stays { hostq := true, dt := true, due := true } s
    (execSclHeldTimeout t port s) := by
  unfold execSclHeldTimeout
  repeat' first
    | with_reducible apply Within.rfl | with_reducible assumption | exact rfl
    | (extract_lets -underBinder -merge -useContext +onlyGivenNames x; refine Stays.cut x (fun hx => ?_) ?_; (on_goal 1 => clear_value x); (on_goal 2 => (unfold x; clear x)))
    | (extract_lets -underBinder -merge -useContext +onlyGivenNames x; refine Within.cut x (fun hx => ?_) ?_; (on_goal 1 => clear_value x); (on_goal 2 => (unfold x; clear x)))
    | (extract_lets -underBinder -merge -useContext +onlyGivenNames x; clear_value x) | with_reducible apply Stays.ite
    | with_reducible apply Within.ite | with_reducible apply stays_next | with_reducible apply Within.after (moment_within _ _)
    | with_reducible apply Within.after (emit_within _ _)

theorem busStuckEvent_within (state line : Nat) (s : State) : Within { hostq := true, mp := true, slots := true } s
    (busStuckEvent state line s) := by
  unfold busStuckEvent
  repeat' first
    | with_reducible apply Within.rfl | with_reducible assumption | exact rfl
    | with_reducible apply Within.after (raise_within _ _ _)

theorem execSdaSelfHeld_within (t : DT) (port : Port2) (s : State) : Stays
    { hostq := true, dt := true, due := true, mp := true, slots := true } s (execSdaSelfHeld t port s) := by
  unfold execSdaSelfHeld
  repeat' first
    | with_reducible apply Within.rfl | with_reducible assumption | exact rfl
    | (extract_lets -underBinder -merge -useContext +onlyGivenNames x; refine Stays.cut x (fun hx => ?_) ?_; (on_goal 1 => clear_value x); (on_goal 2 => (unfold x; clear x)))
    | (extract_lets -underBinder -merge -useContext +onlyGivenNames x; refine Within.cut x (fun hx => ?_) ?_; (on_goal 1 => clear_value x); (on_goal 2 => (unfold x; clear x)))
    | (extract_lets -underBinder -merge -useContext +onlyGivenNames x; clear_value x) | with_reducible apply Stays.ite
    | with_reducible apply Within.ite | with_reducible apply stays_next | with_reducible apply modMp_within
    | with_reducible apply Within.after (moment_within _ _) | with_reducible apply Within.after (emit_within _ _)
    | with_reducible apply Within.after (busStuckEvent_within _ _ _) | split

theorem execLineHeldByOther_within (t : DT) (port : Port2) (scl : Bool) (s : State) : Stays
    { hostq := true, dt := true, due := true, mp := true, sg := true, slots := true } s (execLineHeldByOther t port scl s) := by
  unfold execLineHeldByOther
  repeat' first
    | with_reducible apply Within.rfl | with_reducible assumption | exact rfl
    | (extract_lets -underBinder -merge -useContext +onlyGivenNames x; refine Stays.cut x (fun hx => ?_) ?_; (on_goal 1 => clear_value x); (on_goal 2 => (unfold x; clear x)))
    | (extract_lets -underBinder -merge -useContext +onlyGivenNames x; refine Within.cut x (fun hx => ?_) ?_; (on_goal 1 => clear_value x); (on_goal 2 => (unfold x; clear x)))
    | (extract_lets -underBinder -merge -useContext +onlyGivenNames x; clear_value x) | with_reducible apply Stays.ite
    | with_reducible apply Within.ite | with_reducible apply stays_next | with_reducible apply modMp_within
    | with_reducible apply modSg_within | with_reducible apply Within.after (moment_within _ _)
    | with_reducible apply Within.after (busStuckEvent_within _ _ _) | split

theorem execBusStuckClear_within (t : DT) (port : Port2) (s : State) : Stays
    { hostq := true, dt := true, due := true, mp := true, sg := true, slots := true } s (execBusStuckClear t port s) := by
  unfold execBusStuckClear
  repeat' first
    | with_reducible apply Within.rfl | with_reducible assumption | exact rfl
    | (extract_lets -underBinder -merge -useContext +onlyGivenNames x; refine Stays.cut x (fun hx => ?_) ?_; (on_goal 1 => clear_value x); (on_goal 2 => (unfold x; clear x)))
    | (extract_lets -underBinder -merge -useContext +onlyGivenNames x; refine Within.cut x (fun hx => ?_) ?_; (on_goal 1 => clear_value x); (on_goal 2 => (unfold x; clear x)))
    | with_reducible apply Stays.ite | with_reducible apply Within.ite | with_reducible apply stays_next
    | with_reducible apply modMp_within | with_reducible apply modSg_within
    | with_reducible apply Within.after (moment_within _ _) | with_reducible apply Within.after (busStuckEvent_within _ _ _)
    | split

theorem execHostNotifySend_within (t : DT) (outcome : NotifyOutcome) (s : State) : Stays
    { hostq := true, dt := true, due := true, mp := true } s (execHostNotifySend t outcome s) := by
  unfold execHostNotifySend
  repeat' first
    | with_reducible apply Within.rfl | with_reducible assumption | exact rfl
    | (extract_lets -underBinder -merge -useContext +onlyGivenNames x; refine Stays.cut x (fun hx => ?_) ?_; (on_goal 1 => clear_value x); (on_goal 2 => (unfold x; clear x)))
    | with_reducible apply Stays.ite | with_reducible apply Within.ite | with_reducible apply stays_next
    | with_reducible apply modMp_within | with_reducible apply Within.after (moment_within _ _)
    | with_reducible apply Within.after (emit_within _ _) | split

end Sys2Proof.Machine
end

