-- ==== Sys2Proof/Laws/Saggar.lean ====
section
/-!
SUPPORT. Laws/Saggar.lean: what each operation of Machine/Saggar.lean leaves as it was.
-/
namespace Sys2Proof.Machine

theorem bumpCounter_within (i : Fin 4) (s : State) : Within { sg := true } s (bumpCounter i s) := by
  unfold bumpCounter
  repeat' first
    | with_reducible apply Within.rfl | with_reducible assumption | exact rfl | with_reducible apply Within.ite
    | with_reducible apply modSg_within

theorem sealEvent_within (kind : Nat) (s : State) : Within { hostq := true, mp := true, sg := true, slots := true } s (sealEvent
    kind s) := by
  unfold sealEvent
  repeat' first
    | with_reducible apply Within.rfl | with_reducible assumption | exact rfl
    | (extract_lets -underBinder -merge -useContext +onlyGivenNames x; refine Within.cut x (fun hx => ?_) ?_; (on_goal 1 => clear_value x); (on_goal 2 => (unfold x; clear x)))
    | (extract_lets -underBinder -merge -useContext +onlyGivenNames x; clear_value x) | with_reducible apply Within.ite
    | with_reducible apply Within.after (raise_within _ _ _)
    | with_reducible apply Within.after (legalSherd_within _ _ _ _ _ _ _)

theorem unsealSt_within (s : State) : Within { sg := true } s (unsealSt s) := by
  unfold unsealSt
  repeat' first
    | with_reducible apply Within.rfl | with_reducible assumption | exact rfl | with_reducible apply Within.ite
    | with_reducible apply modSg_within | with_reducible apply Within.after (bumpCounter_within _ _)

theorem execSealSwChange_within (t : DT) (protect : Bool) (s : State) : Stays
    { power := true, hostq := true, dt := true, due := true, mp := true, sg := true, slots := true } s (execSealSwChange t
    protect s) := by
  unfold execSealSwChange
  repeat' first
    | with_reducible apply Within.rfl | with_reducible assumption | exact rfl
    | (extract_lets -underBinder -merge -useContext +onlyGivenNames x; refine Stays.cut x (fun hx => ?_) ?_; (on_goal 1 => clear_value x); (on_goal 2 => (unfold x; clear x)))
    | with_reducible apply Stays.ite | with_reducible apply Within.ite | with_reducible apply stays_next
    | with_reducible apply modPower_within | with_reducible apply Within.after (moment_within _ _)
    | with_reducible apply Within.after (sealEvent_within _ _) | with_reducible apply Within.after (unsealSt_within _)

theorem execTamperNAssert_within (t : DT) (s : State) : Stays
    { hostq := true, dt := true, due := true, mp := true, sg := true, slots := true } s (execTamperNAssert t s) := by
  unfold execTamperNAssert
  repeat' first
    | with_reducible apply Within.rfl | with_reducible assumption | exact rfl
    | (extract_lets -underBinder -merge -useContext +onlyGivenNames x; refine Stays.cut x (fun hx => ?_) ?_; (on_goal 1 => clear_value x); (on_goal 2 => (unfold x; clear x)))
    | with_reducible apply Stays.ite | with_reducible apply Within.ite | with_reducible apply stays_next
    | with_reducible apply modSg_within | with_reducible apply Within.after (moment_within _ _)
    | with_reducible apply Within.after (sealEvent_within _ _) | with_reducible apply Within.after (unsealSt_within _)
    | with_reducible apply Within.after (bumpCounter_within _ _) | split

theorem execTamperNRelease_within (t : DT) (s : State) : Stays { hostq := true, dt := true, due := true, sg := true } s
    (execTamperNRelease t s) := by
  unfold execTamperNRelease
  repeat' first
    | with_reducible apply Within.rfl | with_reducible assumption | exact rfl | with_reducible apply stays_next
    | with_reducible apply modSg_within | with_reducible apply Within.after (moment_within _ _)

theorem changeDue_within (cause : Nat) (f : SaggarSt → SaggarSt) (s : State) : Within
    { hostq := true, mp := true, sg := true, slots := true } s (changeDue cause f s) := by
  unfold changeDue
  repeat' first
    | with_reducible apply Within.rfl | with_reducible assumption | exact rfl
    | (extract_lets -underBinder -merge -useContext +onlyGivenNames x; refine Within.cut x (fun hx => ?_) ?_; (on_goal 1 => clear_value x); (on_goal 2 => (unfold x; clear x)))
    | (extract_lets -underBinder -merge -useContext +onlyGivenNames x; clear_value x) | with_reducible apply Within.ite
    | with_reducible apply modSg_within | with_reducible apply Within.after (legalSherd_within _ _ _ _ _ _ _)

theorem verifyNow_within (s : State) : Within { mnt := true } s (verifyNow s) := by
  unfold verifyNow
  repeat' first
    | with_reducible apply Within.rfl | with_reducible assumption | exact rfl
    | with_reducible apply Within.after (modFiring_within _ _ _ _)

theorem queueJob_within (r : Request) (c : Fin 64) (s : State) : PairW { sg := true } s (queueJob r c s) := by
  unfold queueJob
  repeat' first
    | with_reducible apply Within.rfl | with_reducible assumption | exact rfl
    | (extract_lets -underBinder -merge -useContext +onlyGivenNames x; refine PairW.cut x (fun hx => ?_) ?_; (on_goal 1 => clear_value x); (on_goal 2 => (unfold x; clear x)))
    | (extract_lets -underBinder -merge -useContext +onlyGivenNames x; refine Within.cut x (fun hx => ?_) ?_; (on_goal 1 => clear_value x); (on_goal 2 => (unfold x; clear x)))
    | (extract_lets -underBinder -merge -useContext +onlyGivenNames x; clear_value x) | with_reducible apply PairW.ite
    | with_reducible apply Within.ite | with_reducible apply pairW_mk | with_reducible apply modSg_within
    | with_reducible apply Within.after (useFree_within _)

theorem lateResponse_within (l : List Byte) (s : State) : Within { sg := true } s (lateResponse l s) := by
  unfold lateResponse
  repeat' first
    | with_reducible apply Within.rfl | with_reducible assumption | exact rfl | with_reducible apply Within.ite
    | with_reducible apply modSg_within

theorem writeResult_within (j : Job) (v : Verdict) (wide : Bool) (s : State) : Within
    { hostq := true, mp := true, sg := true, slots := true } s (writeResult j v wide s) := by
  unfold writeResult
  repeat' first
    | with_reducible apply Within.rfl | with_reducible assumption | exact rfl
    | (extract_lets -underBinder -merge -useContext +onlyGivenNames x; refine Within.cut x (fun hx => ?_) ?_; (on_goal 1 => clear_value x); (on_goal 2 => (unfold x; clear x)))
    | (extract_lets -underBinder -merge -useContext +onlyGivenNames x; clear_value x) | with_reducible apply Within.ite
    | with_reducible apply modSg_within | with_reducible apply Within.after (finish_within _ _ _ _)
    | with_reducible apply Within.after (legalSherd_within _ _ _ _ _ _ _)
    | with_reducible apply Within.after (lateResponse_within _ _)

theorem cutVerdict_within (invalid : Nat) (finish : DT) (broken : Bool) (s : State) : PairW {} s (cutVerdict invalid finish
    broken s) := by
  unfold cutVerdict
  repeat' first
    | with_reducible apply Within.rfl | with_reducible assumption | exact rfl
    | (extract_lets -underBinder -merge -useContext +onlyGivenNames x; refine PairW.cut x (fun hx => ?_) ?_; (on_goal 1 => clear_value x); (on_goal 2 => (unfold x; clear x)))
    | (extract_lets -underBinder -merge -useContext +onlyGivenNames x; clear_value x)
    | with_reducible apply Within.after (useFree_within _) | with_reducible apply pairW_mk

theorem claimSlip_within  (s : State) : Within { slip := true } s (claimSlip  s) := by
  unfold claimSlip
  repeat' first
    | with_reducible apply Within.rfl | with_reducible assumption | exact rfl | with_reducible apply Within.ite
    | with_reducible apply Within.after (modSlip_within _ _)

theorem endSlip_within (s : State) : Within { slip := true } s (endSlip s) := by
  unfold endSlip
  repeat' first
    | with_reducible apply Within.rfl | with_reducible assumption | exact rfl | with_reducible apply Within.ite
    | with_reducible apply Within.after (modSlip_within _ _)

theorem dropClaim_within (s : State) : Within { slip := true } s (dropClaim s) := by
  unfold dropClaim
  repeat' first
    | with_reducible apply Within.rfl | with_reducible assumption | exact rfl
    | with_reducible apply Within.after (endSlip_within _) | with_reducible apply Within.after (modSlip_within _ _)

theorem levelFree_within (src : Nat) (p : Nat × Nat) (s : State) : PairW {} s (levelFree src p s) := by
  unfold levelFree
  repeat' first
    | with_reducible apply Within.rfl | with_reducible assumption | exact rfl | with_reducible apply pairW_mk
    | with_reducible apply Within.after (useFree_within _) | split

theorem applyTrims_within (s : State) : Within { due := true, paths := true } s (applyTrims s) := by
  unfold applyTrims
  repeat' first
    | with_reducible apply Within.rfl | with_reducible assumption | exact rfl
    | (with_reducible apply Within.foldl; on_goal 1 => (intro _ _)) | with_reducible apply Within.ite
    | with_reducible apply Within.after (modPath_within _ _ _) | split

theorem settleState_within (s : State) : Within { sg := true } s (settleState s) := by
  unfold settleState
  repeat' first
    | with_reducible apply Within.rfl | with_reducible assumption | exact rfl | with_reducible apply Within.ite
    | with_reducible apply modSg_within

theorem releaseJob_within (j : Job) (s : State) : Within
    { hostq := true, carvers := true, tuners := true, due := true, paths := true, ctxs := true, mp := true, sg := true, cry := true, slots := true, mnt := true, vault := true }
    s (releaseJob j s) := by
  unfold releaseJob
  repeat' first
    | with_reducible apply Within.rfl | with_reducible assumption | exact rfl
    | (with_reducible apply Within.foldl; on_goal 1 => (intro _ _))
    | (extract_lets -underBinder -merge -useContext +onlyGivenNames x; refine Within.cut x (fun hx => ?_) ?_; (on_goal 1 => clear_value x); (on_goal 2 => (unfold x; clear x)))
    | with_reducible apply Within.after (closePath_within _ _) | with_reducible apply Within.after (releaseTuner_within _ _)
    | with_reducible apply Within.after (modCarver_within _ _ _) | with_reducible apply Within.after (settleState_within _)
    | with_reducible apply Within.after (resumeSwitch_within _ _) | with_reducible apply Within.after (applyTrims_within _)
    | split

theorem dropJob_within (id : BitVec 32) (s : State) : Within { sg := true } s (dropJob id s) := by
  unfold dropJob
  repeat' first
    | with_reducible apply Within.rfl | with_reducible assumption | exact rfl | with_reducible apply modSg_within

theorem cutJob_within (j : Job) (invalid : Nat) (s : State) : Within
    { hostq := true, carvers := true, tuners := true, slip := true, due := true, paths := true, ctxs := true, mp := true, sg := true, cry := true, slots := true, mnt := true, vault := true }
    s (cutJob j invalid s) := by
  unfold cutJob
  dsimp only
  repeat' first
    | with_reducible apply Within.rfl | with_reducible assumption | exact rfl | with_reducible apply Within.ite
    | with_reducible apply Within.after (dropClaim_within _) | with_reducible apply Within.after (releaseJob_within _ _)
    | with_reducible apply Within.after (dropJob_within _ _) | with_reducible apply Within.after (writeResult_within _ _ _ _)
    | split | with_reducible apply Within.after (cutVerdict_within _ _ _ _).snd

theorem openOwn_within (p c : Fin 64) (src freq : Nat) (s : State) : Within { due := true, paths := true } s (openOwn p c src
    freq s) := by
  unfold openOwn
  repeat' first
    | with_reducible apply Within.rfl | with_reducible assumption | exact rfl
    | with_reducible apply Within.after (modPath_within _ _ _) | with_reducible apply Within.after (openPath_within _ _ _ _ _ _)

theorem takeTuner_within (n : Fin 4) (freq half : Nat) (s : State) : Within { tuners := true } s (takeTuner n freq half s) := by
  unfold takeTuner
  repeat' first
    | with_reducible apply Within.rfl | with_reducible assumption | exact rfl
    | (extract_lets -underBinder -merge -useContext +onlyGivenNames x; refine Within.cut x (fun hx => ?_) ?_; (on_goal 1 => clear_value x); (on_goal 2 => (unfold x; clear x)))
    | (extract_lets -underBinder -merge -useContext +onlyGivenNames x; clear_value x) | with_reducible apply Within.ite
    | with_reducible apply Within.after (commitTuner_within _ _ _) | with_reducible apply Within.after (useMany_within _ _)
    | with_reducible apply Within.after (modTuner_within _ _ _) | split

theorem takeCarver_within (k : Fin 8) (conv : Option (Fin 2)) (freq : Nat) (s : State) : Within { carvers := true } s
    (takeCarver k conv freq s) := by
  unfold takeCarver
  repeat' first
    | with_reducible apply Within.rfl | with_reducible assumption | exact rfl
    | with_reducible apply Within.after (modCarver_within _ _ _)

theorem verifyStart_within (j : Job) (x : JobPath) (c : Fin 64) (r : ToneReading) (s : State) : PairW {} s (verifyStart j x c r
    s) := by
  unfold verifyStart
  repeat' first
    | with_reducible apply Within.rfl | with_reducible assumption | exact rfl
    | (extract_lets -underBinder -merge -useContext +onlyGivenNames x; refine PairW.cut x (fun hx => ?_) ?_; (on_goal 1 => clear_value x); (on_goal 2 => (unfold x; clear x)))
    | (extract_lets -underBinder -merge -useContext +onlyGivenNames x; refine Within.cut x (fun hx => ?_) ?_; (on_goal 1 => clear_value x); (on_goal 2 => (unfold x; clear x)))
    | (extract_lets -underBinder -merge -useContext +onlyGivenNames x; clear_value x) | with_reducible apply PairW.ite
    | with_reducible apply Within.ite | with_reducible apply pairW_mk
    | with_reducible apply Within.after (PairW.snd (levelFree_within _ _ _))
    | with_reducible refine Within.after (PairW.of (levelFree_within _ _ _) (by with_reducible assumption)) ?_ ?_

theorem startJob_within (j : Job) (x : JobPath) (c p : Fin 64) (r : ToneReading) (s : State) : Within
    { hostq := true, carvers := true, tuners := true, due := true, paths := true, mp := true, sg := true, slots := true }
    s (startJob j x c p r s) := by
  unfold startJob
  repeat' first
    | with_reducible apply Within.rfl | with_reducible assumption | exact rfl
    | (extract_lets -underBinder -merge -useContext +onlyGivenNames x; refine Within.cut x (fun hx => ?_) ?_; (on_goal 1 => clear_value x); (on_goal 2 => (unfold x; clear x)))
    | (extract_lets -underBinder -merge -useContext +onlyGivenNames x; clear_value x) | with_reducible apply Within.ite
    | with_reducible apply modSg_within | with_reducible apply Within.after (openOwn_within _ _ _ _ _)
    | with_reducible apply Within.after (takeTuner_within _ _ _ _) | with_reducible apply Within.after (takeCarver_within _ _ _ _)
    | with_reducible apply Within.after (modPath_within _ _ _) | with_reducible apply Within.after (deferProbes_within _ _)
    | with_reducible apply Within.after (settleState_within _) | split
    | with_reducible apply Within.after (PairW.snd (verifyStart_within _ _ _ _ _))
    | with_reducible refine Within.after (PairW.of (verifyStart_within _ _ _ _ _) (by with_reducible assumption)) ?_ ?_

theorem execSaggarJobStart_within (t : DT) (job : BitVec 32) (tone : ToneReading) (path : Fin 64) (s : State) : Stays
    { hostq := true, dt := true, carvers := true, tuners := true, slip := true, due := true, paths := true, mp := true, sg := true, slots := true }
    s (execSaggarJobStart t job tone path s) := by
  unfold execSaggarJobStart
  repeat' first
    | with_reducible apply Within.rfl | with_reducible assumption | exact rfl
    | (extract_lets -underBinder -merge -useContext +onlyGivenNames x; refine Stays.cut x (fun hx => ?_) ?_; (on_goal 1 => clear_value x); (on_goal 2 => (unfold x; clear x)))
    | (extract_lets -underBinder -merge -useContext +onlyGivenNames x; refine Within.cut x (fun hx => ?_) ?_; (on_goal 1 => clear_value x); (on_goal 2 => (unfold x; clear x)))
    | (extract_lets -underBinder -merge -useContext +onlyGivenNames x; clear_value x) | with_reducible apply Stays.ite
    | with_reducible apply Within.ite | with_reducible apply stays_next | with_reducible apply Within.after (moment_within _ _)
    | with_reducible apply Within.after (claimSlip_within _) | with_reducible apply Within.after (endSlip_within _)
    | with_reducible apply Within.after (startJob_within _ _ _ _ _ _) | split

theorem endCorrection_within (j : Job) (r : JobOutcome) (s : State) : PairW {} s (endCorrection j r s) := by
  unfold endCorrection
  repeat' first
    | with_reducible apply Within.rfl | with_reducible assumption | exact rfl
    | (extract_lets -underBinder -merge -useContext +onlyGivenNames x; refine PairW.cut x (fun hx => ?_) ?_; (on_goal 1 => clear_value x); (on_goal 2 => (unfold x; clear x)))
    | (extract_lets -underBinder -merge -useContext +onlyGivenNames x; refine Within.cut x (fun hx => ?_) ?_; (on_goal 1 => clear_value x); (on_goal 2 => (unfold x; clear x)))
    | (extract_lets -underBinder -merge -useContext +onlyGivenNames x; clear_value x) | with_reducible apply pairW_mk | split
    | with_reducible apply Within.after (PairW.snd (levelFree_within _ _ _))
    | with_reducible refine Within.after (PairW.of (levelFree_within _ _ _) (by with_reducible assumption)) ?_ ?_

theorem measured_within (j : Job) (r : JobOutcome) (s : State) : PairW {} s (measured j r s) := by
  unfold measured
  repeat' first
    | with_reducible apply Within.rfl | with_reducible assumption | exact rfl
    | (extract_lets -underBinder -merge -useContext +onlyGivenNames x; refine PairW.cut x (fun hx => ?_) ?_; (on_goal 1 => clear_value x); (on_goal 2 => (unfold x; clear x)))
    | (extract_lets -underBinder -merge -useContext +onlyGivenNames x; refine Within.cut x (fun hx => ?_) ?_; (on_goal 1 => clear_value x); (on_goal 2 => (unfold x; clear x)))
    | (extract_lets -underBinder -merge -useContext +onlyGivenNames x; clear_value x) | with_reducible apply PairW.ite
    | with_reducible apply Within.ite | with_reducible apply pairW_mk | with_reducible apply Within.after (useFree_within _) | split
    | with_reducible apply Within.after (PairW.snd (levelFree_within _ _ _))
    | with_reducible refine Within.after (PairW.of (levelFree_within _ _ _) (by with_reducible assumption)) ?_ ?_
    | with_reducible apply Within.after (PairW.snd (endCorrection_within _ _ _))
    | with_reducible refine Within.after (PairW.of (endCorrection_within _ _ _) (by with_reducible assumption)) ?_ ?_

theorem execSaggarJobEnd_within (t : DT) (job : BitVec 32) (r : JobOutcome) (s : State) : Stays
    { hostq := true, dt := true, carvers := true, tuners := true, slip := true, due := true, paths := true, ctxs := true, mp := true, sg := true, cry := true, slots := true, mnt := true, vault := true }
    s (execSaggarJobEnd t job r s) := by
  unfold execSaggarJobEnd
  repeat' first
    | with_reducible apply Within.rfl | with_reducible assumption | exact rfl
    | (extract_lets -underBinder -merge -useContext +onlyGivenNames x; refine Stays.cut x (fun hx => ?_) ?_; (on_goal 1 => clear_value x); (on_goal 2 => (unfold x; clear x)))
    | (extract_lets -underBinder -merge -useContext +onlyGivenNames x; refine Within.cut x (fun hx => ?_) ?_; (on_goal 1 => clear_value x); (on_goal 2 => (unfold x; clear x)))
    | (extract_lets -underBinder -merge -useContext +onlyGivenNames x; clear_value x) | with_reducible apply Stays.ite
    | with_reducible apply Within.ite | with_reducible apply stays_next | with_reducible apply Within.after (moment_within _ _)
    | with_reducible apply Within.after (claimSlip_within _) | with_reducible apply Within.after (endSlip_within _)
    | with_reducible apply Within.after (releaseJob_within _ _) | with_reducible apply Within.after (dropJob_within _ _)
    | with_reducible apply Within.after (writeResult_within _ _ _ _) | split
    | with_reducible apply Within.after (PairW.snd (measured_within _ _ _))
    | with_reducible refine Within.after (PairW.of (measured_within _ _ _) (by with_reducible assumption)) ?_ ?_

theorem commitOne_within (s : State) : Within { hostq := true, sg := true, cry := true } s (commitOne s) := by
  unfold commitOne
  repeat' first
    | with_reducible apply Within.rfl | with_reducible assumption | exact rfl
    | (extract_lets -underBinder -merge -useContext +onlyGivenNames x; refine Within.cut x (fun hx => ?_) ?_; (on_goal 1 => clear_value x); (on_goal 2 => (unfold x; clear x)))
    | with_reducible apply Within.ite | with_reducible apply modSg_within
    | with_reducible apply Within.after (settle_within _ _ _) | with_reducible apply Within.after (deliver_within _ _ _) | split

theorem execLegalSherdCommit_within (t : DT) (s : State) : Stays
    { hostq := true, dt := true, due := true, sg := true, cry := true } s (execLegalSherdCommit t s) := by
  unfold execLegalSherdCommit
  repeat' first
    | with_reducible apply Within.rfl | with_reducible assumption | exact rfl
    | (extract_lets -underBinder -merge -useContext +onlyGivenNames x; refine Stays.cut x (fun hx => ?_) ?_; (on_goal 1 => clear_value x); (on_goal 2 => (unfold x; clear x)))
    | with_reducible apply Stays.ite | with_reducible apply Within.ite | with_reducible apply stays_next
    | with_reducible apply Within.after (moment_within _ _) | with_reducible apply Within.after (commitOne_within _)

theorem commitAll_within (s : State) : Within { hostq := true, sg := true, cry := true } s (commitAll s) := by
  unfold commitAll
  repeat' first
    | with_reducible apply Within.rfl | with_reducible assumption | exact rfl
    | (with_reducible apply Within.foldl; on_goal 1 => (intro _ _)) | with_reducible apply Within.after (commitOne_within _)

theorem legalGap_within (s : State) : Within { hostq := true, mp := true, sg := true, slots := true } s (legalGap s) := by
  unfold legalGap
  repeat' first
    | with_reducible apply Within.rfl | with_reducible assumption | exact rfl
    | (extract_lets -underBinder -merge -useContext +onlyGivenNames x; refine Within.cut x (fun hx => ?_) ?_; (on_goal 1 => clear_value x); (on_goal 2 => (unfold x; clear x)))
    | (extract_lets -underBinder -merge -useContext +onlyGivenNames x; clear_value x) | with_reducible apply Within.ite
    | with_reducible apply modSg_within | with_reducible apply Within.after (settle_within _ _ _)
    | with_reducible apply Within.after (legalSherd_within _ _ _ _ _ _ _)

theorem sgFaultSherd_within (kind : Nat) (s : State) : Within { hostq := true, mp := true, sg := true, slots := true } s
    (sgFaultSherd kind s) := by
  unfold sgFaultSherd
  repeat' first
    | with_reducible apply Within.rfl | with_reducible assumption | exact rfl
    | with_reducible apply Within.after (legalSherd_within _ _ _ _ _ _ _)

theorem faultSherds_within (k : SgFaultKind) (s : State) : Within { hostq := true, mp := true, sg := true, slots := true } s
    (faultSherds k s) := by
  unfold faultSherds
  repeat' first
    | with_reducible apply Within.rfl | with_reducible assumption | exact rfl
    | with_reducible apply Within.after (legalFault_within _ _ _ _ _ _)
    | with_reducible apply Within.after (sgFaultSherd_within _ _)

theorem faultResults_within (s : State) : Within
    { hostq := true, carvers := true, tuners := true, slip := true, due := true, paths := true, ctxs := true, mp := true, sg := true, cry := true, slots := true, mnt := true, vault := true }
    s (faultResults s) := by
  unfold faultResults
  repeat' first
    | with_reducible apply Within.rfl | with_reducible assumption | exact rfl
    | (with_reducible apply Within.foldl; on_goal 1 => (intro _ _)) | with_reducible apply Within.after (cutJob_within _ _ _)

theorem stopSaggar_within (kind : Option SgFaultKind) (s : State) : Within
    { hostq := true, carvers := true, tuners := true, slip := true, due := true, paths := true, ctxs := true, mp := true, sg := true, cry := true, slots := true, mnt := true, vault := true }
    s (stopSaggar kind s) := by
  unfold stopSaggar
  repeat' first
    | with_reducible apply Within.rfl | with_reducible assumption | exact rfl
    | (extract_lets -underBinder -merge -useContext +onlyGivenNames x; refine Within.cut x (fun hx => ?_) ?_; (on_goal 1 => clear_value x); (on_goal 2 => (unfold x; clear x)))
    | (extract_lets -underBinder -merge -useContext +onlyGivenNames x; clear_value x) | with_reducible apply modSg_within
    | with_reducible apply Within.after (legalGap_within _) | with_reducible apply Within.after (faultSherds_within _ _)
    | with_reducible apply Within.after (sgFaultSherd_within _ _) | with_reducible apply Within.after (faultResults_within _)
    | split

theorem haltJobs_within (s : State) : Within
    { hostq := true, carvers := true, tuners := true, slip := true, due := true, paths := true, ctxs := true, mp := true, sg := true, cry := true, slots := true, mnt := true, vault := true }
    s (haltJobs s) := by
  unfold haltJobs
  repeat' first
    | with_reducible apply Within.rfl | with_reducible assumption | exact rfl
    | (with_reducible apply Within.foldl; on_goal 1 => (intro _ _)) | with_reducible apply Within.ite
    | with_reducible apply modSg_within | with_reducible apply Within.after (dropClaim_within _)
    | with_reducible apply Within.after (releaseJob_within _ _)

theorem execSaggarFault_within (t : DT) (kind : SgFaultKind) (s : State) : Stays
    { hostq := true, dt := true, carvers := true, tuners := true, slip := true, due := true, paths := true, ctxs := true, mp := true, sg := true, cry := true, slots := true, mnt := true, vault := true }
    s (execSaggarFault t kind s) := by
  unfold execSaggarFault
  repeat' first
    | with_reducible apply Within.rfl | with_reducible assumption | exact rfl
    | (extract_lets -underBinder -merge -useContext +onlyGivenNames x; refine Stays.cut x (fun hx => ?_) ?_; (on_goal 1 => clear_value x); (on_goal 2 => (unfold x; clear x)))
    | (extract_lets -underBinder -merge -useContext +onlyGivenNames x; refine Within.cut x (fun hx => ?_) ?_; (on_goal 1 => clear_value x); (on_goal 2 => (unfold x; clear x)))
    | (extract_lets -underBinder -merge -useContext +onlyGivenNames x; clear_value x) | with_reducible apply Stays.ite
    | with_reducible apply Within.ite | with_reducible apply stays_next | with_reducible apply modSg_within
    | with_reducible apply Within.after (moment_within _ _) | with_reducible apply Within.after (faultSherd_within _ _ _ _ _)
    | with_reducible apply Within.after (haltJobs_within _) | with_reducible apply Within.after (sealEvent_within _ _)
    | with_reducible apply Within.after (bumpCounter_within _ _) | with_reducible apply Within.after (stopSaggar_within _ _) | split

theorem execVddSgArrival_within (t : DT) (s : State) : Stays { hostq := true, dt := true, due := true, sg := true } s
    (execVddSgArrival t s) := by
  unfold execVddSgArrival
  repeat' first
    | with_reducible apply Within.rfl | with_reducible assumption | exact rfl
    | (extract_lets -underBinder -merge -useContext +onlyGivenNames x; refine Stays.cut x (fun hx => ?_) ?_; (on_goal 1 => clear_value x); (on_goal 2 => (unfold x; clear x)))
    | with_reducible apply Stays.ite | with_reducible apply Within.ite | with_reducible apply stays_next
    | with_reducible apply modSg_within | with_reducible apply Within.after (moment_within _ _)

theorem execVddSgLoss_within (t : DT) (s : State) : Stays
    { hostq := true, dt := true, carvers := true, tuners := true, slip := true, due := true, paths := true, ctxs := true, mp := true, sg := true, cry := true, slots := true, mnt := true, vault := true }
    s (execVddSgLoss t s) := by
  unfold execVddSgLoss
  repeat' first
    | with_reducible apply Within.rfl | with_reducible assumption | exact rfl
    | (extract_lets -underBinder -merge -useContext +onlyGivenNames x; refine Stays.cut x (fun hx => ?_) ?_; (on_goal 1 => clear_value x); (on_goal 2 => (unfold x; clear x)))
    | with_reducible apply Stays.ite | with_reducible apply Within.ite | with_reducible apply stays_next
    | with_reducible apply modSg_within | with_reducible apply Within.after (moment_within _ _)
    | with_reducible apply Within.after (haltJobs_within _) | with_reducible apply Within.after (finishAll_within _ _ _ _)

theorem bootSherd_within (s : State) : Within { hostq := true, mp := true, sg := true, slots := true } s (bootSherd s) := by
  unfold bootSherd
  repeat' first
    | with_reducible apply Within.rfl | with_reducible assumption | exact rfl
    | with_reducible apply Within.after (legalSherd_within _ _ _ _ _ _ _)

theorem restoreSeal_within (s : State) : Within { hostq := true, mp := true, sg := true, slots := true } s (restoreSeal s) := by
  unfold restoreSeal
  repeat' first
    | with_reducible apply Within.rfl | with_reducible assumption | exact rfl | with_reducible apply Within.ite
    | with_reducible apply modSg_within | with_reducible apply Within.after (sealEvent_within _ _)

theorem execSaggarBootDone_within (t : DT) (areaB : Option Bool) (selfTest : Bool) (s : State) : Stays
    { hostq := true, dt := true, carvers := true, tuners := true, slip := true, due := true, paths := true, ctxs := true, mp := true, sg := true, cry := true, slots := true, mnt := true, vault := true }
    s (execSaggarBootDone t areaB selfTest s) := by
  unfold execSaggarBootDone
  repeat' first
    | with_reducible apply Within.rfl | with_reducible assumption | exact rfl
    | (extract_lets -underBinder -merge -useContext +onlyGivenNames x; refine Stays.cut x (fun hx => ?_) ?_; (on_goal 1 => clear_value x); (on_goal 2 => (unfold x; clear x)))
    | (extract_lets -underBinder -merge -useContext +onlyGivenNames x; refine Within.cut x (fun hx => ?_) ?_; (on_goal 1 => clear_value x); (on_goal 2 => (unfold x; clear x)))
    | (extract_lets -underBinder -merge -useContext +onlyGivenNames x; clear_value x) | with_reducible apply Stays.ite
    | with_reducible apply Within.ite | with_reducible apply stays_next | with_reducible apply modSg_within
    | with_reducible apply Within.after (moment_within _ _) | with_reducible apply Within.after (legalGap_within _)
    | with_reducible apply Within.after (sgFaultSherd_within _ _) | with_reducible apply Within.after (faultResults_within _)
    | with_reducible apply Within.after (faultSherds_within _ _) | with_reducible apply Within.after (verifyNow_within _)
    | with_reducible apply Within.after (bootSherd_within _) | with_reducible apply Within.after (restoreSeal_within _)
    | with_reducible apply Within.after (stopSaggar_within _ _) | split

theorem execVerifyMaxExpiry_within (t : DT) (s : State) : Stays { hostq := true, dt := true, due := true, sg := true } s
    (execVerifyMaxExpiry t s) := by
  unfold execVerifyMaxExpiry
  repeat' first
    | with_reducible apply Within.rfl | with_reducible assumption | exact rfl
    | (extract_lets -underBinder -merge -useContext +onlyGivenNames x; refine Stays.cut x (fun hx => ?_) ?_; (on_goal 1 => clear_value x); (on_goal 2 => (unfold x; clear x)))
    | with_reducible apply Stays.ite | with_reducible apply Within.ite | with_reducible apply stays_next
    | with_reducible apply modSg_within | with_reducible apply Within.after (moment_within _ _)

theorem endVerify_within (drift : Int) (khz : Nat) (s : State) : Within
    { hostq := true, mp := true, sg := true, slots := true, mnt := true } s (endVerify drift khz s) := by
  unfold endVerify
  repeat' first
    | with_reducible apply Within.rfl | with_reducible assumption | exact rfl
    | (extract_lets -underBinder -merge -useContext +onlyGivenNames x; refine Within.cut x (fun hx => ?_) ?_; (on_goal 1 => clear_value x); (on_goal 2 => (unfold x; clear x)))
    | (extract_lets -underBinder -merge -useContext +onlyGivenNames x; clear_value x) | with_reducible apply modMnt_within
    | with_reducible apply modSg_within | with_reducible apply Within.after (legalSherd_within _ _ _ _ _ _ _)

theorem sgCmd_within {m : Parts} {body : Held → State → State} (h : Held) (s : State)
    (hm : Parts.sub { hostq := true, mp := true, slots := true } m = true) (hb : ∀ h s, Within m s (body h s)) :
    Within m s (sgCmd body h s) := by
  unfold sgCmd
  exact Within.ite ((reject_within _ _ _).widen hm) (hb h s)


theorem doSgReadResult_within  (h : Held) (s : State) : Within { hostq := true, mp := true, slots := true } s (doSgReadResult  h
    s) := by
  unfold doSgReadResult
  repeat' first
    | with_reducible apply Within.rfl | with_reducible assumption | exact rfl
    | (extract_lets -underBinder -merge -useContext +onlyGivenNames x; clear_value x) | with_reducible apply Within.ite
    | (with_reducible apply sgCmd_within; (on_goal 2 => (intro _ _))) | with_reducible apply Within.after (reject_within _ _ _)
    | with_reducible apply Within.after (finishOut_within _ _ _ _ _) | with_reducible apply Within.after (fail_within _ _ _ _ _)
    | split

theorem execSgReadResult_within (e : Entry) (s : State) : Stays
    { hostq := true, dt := true, due := true, mp := true, slots := true } s (execSgReadResult e s) := by
  unfold execSgReadResult
  repeat' first
    | with_reducible apply Within.rfl | with_reducible assumption | exact rfl | with_reducible apply stays_next
    | (with_reducible apply hostCmd_within; (on_goal 2 => (intro _ _)))
    | with_reducible apply Within.after (doSgReadResult_within _ _)

theorem doSgStatus_within  (h : Held) (s : State) : Within { hostq := true, mp := true, slots := true } s (doSgStatus  h s) :=
    by
  unfold doSgStatus
  repeat' first
    | with_reducible apply Within.rfl | with_reducible assumption | exact rfl
    | (extract_lets -underBinder -merge -useContext +onlyGivenNames x; clear_value x) | with_reducible apply Within.ite
    | (with_reducible apply sgCmd_within; (on_goal 2 => (intro _ _)))
    | with_reducible apply Within.after (finish_within _ _ _ _)

theorem execSgStatus_within (e : Entry) (s : State) : Stays
    { hostq := true, dt := true, due := true, mp := true, slots := true } s (execSgStatus e s) := by
  unfold execSgStatus
  repeat' first
    | with_reducible apply Within.rfl | with_reducible assumption | exact rfl | with_reducible apply stays_next
    | (with_reducible apply hostCmd_within; (on_goal 2 => (intro _ _)))
    | with_reducible apply Within.after (doSgStatus_within _ _)

theorem doSgRequestMeasure_within  (h : Held) (s : State) : Within { hostq := true, mp := true, sg := true, slots := true } s
    (doSgRequestMeasure  h s) := by
  unfold doSgRequestMeasure
  repeat' first
    | with_reducible apply Within.rfl | with_reducible assumption | exact rfl
    | (extract_lets -underBinder -merge -useContext +onlyGivenNames x; clear_value x)
    | (with_reducible apply sgCmd_within; (on_goal 2 => (intro _ _))) | with_reducible apply Within.after (reject_within _ _ _)
    | with_reducible apply Within.after (fail_within _ _ _ _ _) | with_reducible apply Within.after (finish_within _ _ _ _)
    | split | with_reducible apply Within.after (queueJob_within _ _ _).snd

theorem execSgRequestMeasure_within (e : Entry) (s : State) : Stays
    { hostq := true, dt := true, due := true, mp := true, sg := true, slots := true } s (execSgRequestMeasure e s) := by
  unfold execSgRequestMeasure
  repeat' first
    | with_reducible apply Within.rfl | with_reducible assumption | exact rfl | with_reducible apply stays_next
    | (with_reducible apply hostCmd_within; (on_goal 2 => (intro _ _)))
    | with_reducible apply Within.after (doSgRequestMeasure_within _ _)

end Sys2Proof.Machine
end

