-- ==== Sys2Proof/Laws/LPort.lean ====
section
/-!
SUPPORT. Laws/LPort.lean: what each operation of Machine/LPort.lean leaves as it was.
-/
namespace Sys2Proof.Machine

theorem lpSend_within (code : Nat) (counted : Bool) (l : List Byte) (s : State) : Within {} s (lpSend code counted l s) := by
  unfold lpSend
  repeat' first
    | with_reducible apply Within.rfl | with_reducible assumption | exact rfl
    | with_reducible apply Within.after (emit_within _ _)

theorem lpNack_within (s : State) : Within {} s (lpNack s) := by
  unfold lpNack
  repeat' first
    | with_reducible apply Within.rfl | with_reducible assumption | exact rfl
    | with_reducible apply Within.after (emit_within _ _)

theorem lpPecError_within (s : State) : Within { sg := true } s (lpPecError s) := by
  unfold lpPecError
  repeat' first
    | with_reducible apply Within.rfl | with_reducible assumption | exact rfl | with_reducible apply modSg_within

theorem lpWake_within  (s : State) : Within { sg := true } s (lpWake  s) := by
  unfold lpWake
  repeat' first
    | with_reducible apply Within.rfl | with_reducible assumption | exact rfl | with_reducible apply modSg_within

theorem lpRead_within (t : DT) (code : Nat) (counted : Bool) (data : State → List Byte) (s : State) : Within
    { hostq := true, dt := true, due := true, sg := true } s (lpRead t code counted data s) := by
  unfold lpRead
  repeat' first
    | with_reducible apply Within.rfl | with_reducible assumption | exact rfl
    | (extract_lets -underBinder -merge -useContext +onlyGivenNames x; refine Within.cut x (fun hx => ?_) ?_; (on_goal 1 => clear_value x); (on_goal 2 => (unfold x; clear x)))
    | with_reducible apply Within.ite | with_reducible apply Within.after (lpWake_within _)
    | with_reducible apply Within.after (moment_within _ _) | with_reducible apply Within.after (lpSend_within _ _ _ _)
    | with_reducible apply Within.after (lpNack_within _)

theorem respond_within (st : Status) (code : Nat) (data : List Byte) (s : State) : Within { sg := true } s (respond st code data
    s) := by
  unfold respond
  repeat' first
    | with_reducible apply Within.rfl | with_reducible assumption | exact rfl | with_reducible apply modSg_within

theorem lpWrite_within {m : Parts} (t : DT) (code : Nat) (counted : Bool) (ok : Nat → Bool) (x : Xfer)
    {body : List Byte → State → State} (s : State) (hm : Parts.sub { hostq := true, dt := true, due := true, sg := true } m = true)
    (hb : ∀ l u, Within m u (body l u)) : Within m s (lpWrite t code counted ok x body s) := by
  have hq : Parts.sub { hostq := true, dt := true, due := true } m = true := by
    simp only [Parts.sub, Bool.and_eq_true, Bool.or_eq_true, Bool.not_eq_true'] at hm ⊢
    simp_all
  have hs : Parts.sub { sg := true } m = true := by
    simp only [Parts.sub, Bool.and_eq_true, Bool.or_eq_true, Bool.not_eq_true'] at hm ⊢
    simp_all
  have hw : Within m s (lpWake (moment t s)) :=
    ((moment_within t s).widen hq).trans ((lpWake_within _).widen (by simp_all [Parts.sub]))
  have hn (u : State) : Within m u (lpNack u) := (lpNack_within u).widen (by simp [Parts.sub])
  unfold lpWrite
  extract_lets u n
  refine Within.ite (hw.trans (hn _)) (Within.ite (hw.trans (Within.ite (hn _) .rfl)) ?_)
  split
  · exact hw.trans (hb _ _)
  · exact hw
  · exact hw.trans (hn _)
  · exact hw.trans ((hn _).trans ((lpPecError_within _).widen hs))
  · exact hw.trans ((lpPecError_within _).widen hs)


theorem legalChange_within {m : Parts} (code : Nat) {change : State → State} (s : State)
    (hm : Parts.sub { sg := true } m = true) (hb : ∀ u, Within m u (change u)) : Within m s (legalChange code change s) := by
  have hr (st : Status) : Within m s (respond st code [] s) := (respond_within st code [] s).widen hm
  unfold legalChange
  exact Within.ite (hr _) (Within.ite (hr _) (hb s))


theorem acceptChange_within (code param input : Nat) (value : List Byte) (s : State) : Within
    { hostq := true, mp := true, sg := true, slots := true } s (acceptChange code param input value s) := by
  unfold acceptChange
  repeat' first
    | with_reducible apply Within.rfl | with_reducible assumption | exact rfl
    | (extract_lets -underBinder -merge -useContext +onlyGivenNames x; refine Within.cut x (fun hx => ?_) ?_; (on_goal 1 => clear_value x); (on_goal 2 => (unfold x; clear x)))
    | with_reducible apply Within.after (bumpCounter_within _ _) | with_reducible apply Within.after (respond_within _ _ _ _)
    | with_reducible apply Within.after (legalSherd_within _ _ _ _ _ _ _)

theorem execLportAddressWake_within (t : DT) (s : State) : Stays { hostq := true, dt := true, due := true, sg := true } s
    (execLportAddressWake t s) := by
  unfold execLportAddressWake
  repeat' first
    | with_reducible apply Within.rfl | with_reducible assumption | exact rfl | with_reducible apply stays_next
    | with_reducible apply Within.after (lpWake_within _) | with_reducible apply Within.after (moment_within _ _)

theorem execLportSgStatus_within (t : DT) (s : State) : Stays { hostq := true, dt := true, due := true, sg := true } s
    (execLportSgStatus t s) := by
  unfold execLportSgStatus
  repeat' first
    | with_reducible apply Within.rfl | with_reducible assumption | exact rfl | with_reducible apply stays_next
    | with_reducible apply Within.after (lpRead_within _ _ _ _ _)

theorem execSgIdentify_within (t : DT) (s : State) : Stays { hostq := true, dt := true, due := true, sg := true } s
    (execSgIdentify t s) := by
  unfold execSgIdentify
  repeat' first
    | with_reducible apply Within.rfl | with_reducible assumption | exact rfl | with_reducible apply stays_next
    | with_reducible apply Within.after (lpRead_within _ _ _ _ _)

theorem execSgPortRead_within (t : DT) (s : State) : Stays { hostq := true, dt := true, due := true, sg := true } s
    (execSgPortRead t s) := by
  unfold execSgPortRead
  repeat' first
    | with_reducible apply Within.rfl | with_reducible assumption | exact rfl | with_reducible apply stays_next
    | with_reducible apply Within.after (lpRead_within _ _ _ _ _)

theorem execSgCounters_within (t : DT) (s : State) : Stays { hostq := true, dt := true, due := true, sg := true } s
    (execSgCounters t s) := by
  unfold execSgCounters
  repeat' first
    | with_reducible apply Within.rfl | with_reducible assumption | exact rfl | with_reducible apply stays_next
    | with_reducible apply Within.after (lpRead_within _ _ _ _ _)

theorem doSgPort_within (l : List Byte) (s : State) : Within { hostq := true, mp := true, sg := true, slots := true } s
    (doSgPort l s) := by
  unfold doSgPort
  repeat' first
    | with_reducible apply Within.rfl | with_reducible assumption | exact rfl | with_reducible apply modSg_within
    | (with_reducible apply legalChange_within; (on_goal 2 => (intro _)))
    | with_reducible apply Within.after (acceptChange_within _ _ _ _ _)

theorem execSgPortWrite_within (t : DT) (x : Xfer) (s : State) : Stays
    { hostq := true, dt := true, due := true, mp := true, sg := true, slots := true } s (execSgPortWrite t x s) := by
  unfold execSgPortWrite
  repeat' first
    | with_reducible apply Within.rfl | with_reducible assumption | exact rfl | with_reducible apply stays_next
    | (with_reducible apply lpWrite_within; (on_goal 2 => (intro _ _)))
    | with_reducible apply Within.after (doSgPort_within _ _)

theorem execSgResponse_within (t : DT) (whole : Bool) (s : State) : Stays { hostq := true, dt := true, due := true, sg := true }
    s (execSgResponse t whole s) := by
  unfold execSgResponse
  repeat' first
    | with_reducible apply Within.rfl | with_reducible assumption | exact rfl
    | (extract_lets -underBinder -merge -useContext +onlyGivenNames x; refine Stays.cut x (fun hx => ?_) ?_; (on_goal 1 => clear_value x); (on_goal 2 => (unfold x; clear x)))
    | (extract_lets -underBinder -merge -useContext +onlyGivenNames x; clear_value x) | with_reducible apply Stays.ite
    | with_reducible apply Within.ite | with_reducible apply stays_next | with_reducible apply modSg_within
    | with_reducible apply Within.after (lpRead_within _ _ _ _ _)

theorem execSgResponseRedeliver_within (t : DT) (s : State) : Stays { hostq := true, dt := true, due := true, sg := true } s
    (execSgResponseRedeliver t s) := by
  unfold execSgResponseRedeliver
  repeat' first
    | with_reducible apply Within.rfl | with_reducible assumption | exact rfl
    | (extract_lets -underBinder -merge -useContext +onlyGivenNames x; refine Stays.cut x (fun hx => ?_) ?_; (on_goal 1 => clear_value x); (on_goal 2 => (unfold x; clear x)))
    | with_reducible apply Stays.ite | with_reducible apply Within.ite | with_reducible apply stays_next
    | with_reducible apply modSg_within | with_reducible apply Within.after (lpWake_within _)
    | with_reducible apply Within.after (moment_within _ _) | with_reducible apply Within.after (lpNack_within _)

theorem doSgMeasure_within (l : List Byte) (s : State) : Within { sg := true } s (doSgMeasure l s) := by
  unfold doSgMeasure
  repeat' first
    | with_reducible apply Within.rfl | with_reducible assumption | exact rfl
    | (extract_lets -underBinder -merge -useContext +onlyGivenNames x; clear_value x) | with_reducible apply Within.ite
    | with_reducible apply Within.after (respond_within _ _ _ _) | split
    | with_reducible apply Within.after (queueJob_within _ _ _).snd

theorem execSgMeasure_within (t : DT) (x : Xfer) (s : State) : Stays { hostq := true, dt := true, due := true, sg := true } s
    (execSgMeasure t x s) := by
  unfold execSgMeasure
  repeat' first
    | with_reducible apply Within.rfl | with_reducible assumption | exact rfl | with_reducible apply stays_next
    | (with_reducible apply lpWrite_within; (on_goal 2 => (intro _ _)))
    | with_reducible apply Within.after (doSgMeasure_within _ _)

theorem doSgCancel_within (l : List Byte) (s : State) : Within
    { hostq := true, carvers := true, tuners := true, slip := true, due := true, paths := true, ctxs := true, mp := true, sg := true, cry := true, slots := true, mnt := true, vault := true }
    s (doSgCancel l s) := by
  unfold doSgCancel
  repeat' first
    | with_reducible apply Within.rfl | with_reducible assumption | exact rfl
    | with_reducible apply Within.after (cutJob_within _ _ _) | with_reducible apply Within.after (respond_within _ _ _ _)
    | split

theorem execSgCancel_within (t : DT) (x : Xfer) (s : State) : Stays
    { hostq := true, dt := true, carvers := true, tuners := true, slip := true, due := true, paths := true, ctxs := true, mp := true, sg := true, cry := true, slots := true, mnt := true, vault := true }
    s (execSgCancel t x s) := by
  unfold execSgCancel
  repeat' first
    | with_reducible apply Within.rfl | with_reducible assumption | exact rfl | with_reducible apply stays_next
    | (with_reducible apply lpWrite_within; (on_goal 2 => (intro _ _)))
    | with_reducible apply Within.after (doSgCancel_within _ _)

theorem doSgResult_within (l : List Byte) (s : State) : Within { sg := true } s (doSgResult l s) := by
  unfold doSgResult
  repeat' first
    | with_reducible apply Within.rfl | with_reducible assumption | exact rfl | with_reducible apply Within.ite
    | with_reducible apply Within.after (respond_within _ _ _ _) | split

theorem execSgResult_within (t : DT) (x : Xfer) (s : State) : Stays { hostq := true, dt := true, due := true, sg := true } s
    (execSgResult t x s) := by
  unfold execSgResult
  repeat' first
    | with_reducible apply Within.rfl | with_reducible assumption | exact rfl | with_reducible apply stays_next
    | (with_reducible apply lpWrite_within; (on_goal 2 => (intro _ _)))
    | with_reducible apply Within.after (doSgResult_within _ _)

theorem doSgLogSeek_within (l : List Byte) (s : State) : Within { sg := true } s (doSgLogSeek l s) := by
  unfold doSgLogSeek
  repeat' first
    | with_reducible apply Within.rfl | with_reducible assumption | exact rfl | with_reducible apply modSg_within
    | with_reducible apply Within.after (respond_within _ _ _ _)

theorem execSgLogSeek_within (t : DT) (x : Xfer) (s : State) : Stays { hostq := true, dt := true, due := true, sg := true } s
    (execSgLogSeek t x s) := by
  unfold execSgLogSeek
  repeat' first
    | with_reducible apply Within.rfl | with_reducible assumption | exact rfl | with_reducible apply stays_next
    | (with_reducible apply lpWrite_within; (on_goal 2 => (intro _ _)))
    | with_reducible apply Within.after (doSgLogSeek_within _ _)

theorem execSgLogRead_within (t : DT) (whole : Bool) (s : State) : Stays { hostq := true, dt := true, due := true, sg := true }
    s (execSgLogRead t whole s) := by
  unfold execSgLogRead
  repeat' first
    | with_reducible apply Within.rfl | with_reducible assumption | exact rfl
    | (extract_lets -underBinder -merge -useContext +onlyGivenNames x; refine Stays.cut x (fun hx => ?_) ?_; (on_goal 1 => clear_value x); (on_goal 2 => (unfold x; clear x)))
    | with_reducible apply Stays.ite | with_reducible apply Within.ite | with_reducible apply stays_next
    | with_reducible apply modSg_within | with_reducible apply Within.after (lpRead_within _ _ _ _ _)

theorem doSgSeal_within (l : List Byte) (s : State) : Within { hostq := true, mp := true, sg := true, slots := true } s
    (doSgSeal l s) := by
  unfold doSgSeal
  repeat' first
    | with_reducible apply Within.rfl | with_reducible assumption | exact rfl
    | (extract_lets -underBinder -merge -useContext +onlyGivenNames x; clear_value x) | with_reducible apply Within.ite
    | with_reducible apply modSg_within | with_reducible apply Within.after (respond_within _ _ _ _)
    | with_reducible apply Within.after (sealEvent_within _ _) | with_reducible apply Within.after (bumpCounter_within _ _)

theorem execSgSeal_within (t : DT) (x : Xfer) (s : State) : Stays
    { hostq := true, dt := true, due := true, mp := true, sg := true, slots := true } s (execSgSeal t x s) := by
  unfold execSgSeal
  repeat' first
    | with_reducible apply Within.rfl | with_reducible assumption | exact rfl | with_reducible apply stays_next
    | (with_reducible apply lpWrite_within; (on_goal 2 => (intro _ _)))
    | with_reducible apply Within.after (doSgSeal_within _ _)

theorem doSgAfWrite_within (l : List Byte) (s : State) : Within { hostq := true, mp := true, sg := true, slots := true } s
    (doSgAfWrite l s) := by
  unfold doSgAfWrite
  repeat' first
    | with_reducible apply Within.rfl | with_reducible assumption | exact rfl
    | (extract_lets -underBinder -merge -useContext +onlyGivenNames x; clear_value x) | with_reducible apply Within.ite
    | with_reducible apply modSg_within | (with_reducible apply legalChange_within; (on_goal 2 => (intro _)))
    | with_reducible apply Within.after (respond_within _ _ _ _)
    | with_reducible apply Within.after (acceptChange_within _ _ _ _ _) | split

theorem execSgAfWrite_within (t : DT) (x : Xfer) (s : State) : Stays
    { hostq := true, dt := true, due := true, mp := true, sg := true, slots := true } s (execSgAfWrite t x s) := by
  unfold execSgAfWrite
  repeat' first
    | with_reducible apply Within.rfl | with_reducible assumption | exact rfl | with_reducible apply stays_next
    | (with_reducible apply lpWrite_within; (on_goal 2 => (intro _ _)))
    | with_reducible apply Within.after (doSgAfWrite_within _ _)

theorem doSgAfRead_within (l : List Byte) (s : State) : Within { sg := true } s (doSgAfRead l s) := by
  unfold doSgAfRead
  repeat' first
    | with_reducible apply Within.rfl | with_reducible assumption | exact rfl
    | with_reducible apply Within.after (respond_within _ _ _ _) | split

theorem execSgAfRead_within (t : DT) (x : Xfer) (s : State) : Stays { hostq := true, dt := true, due := true, sg := true } s
    (execSgAfRead t x s) := by
  unfold execSgAfRead
  repeat' first
    | with_reducible apply Within.rfl | with_reducible assumption | exact rfl | with_reducible apply stays_next
    | (with_reducible apply lpWrite_within; (on_goal 2 => (intro _ _)))
    | with_reducible apply Within.after (doSgAfRead_within _ _)

theorem doSgCalWrite_within (l : List Byte) (s : State) : Within { hostq := true, mp := true, sg := true, slots := true } s
    (doSgCalWrite l s) := by
  unfold doSgCalWrite
  repeat' first
    | with_reducible apply Within.rfl | with_reducible assumption | exact rfl
    | (extract_lets -underBinder -merge -useContext +onlyGivenNames x; refine Within.cut x (fun hx => ?_) ?_; (on_goal 1 => clear_value x); (on_goal 2 => (unfold x; clear x)))
    | (extract_lets -underBinder -merge -useContext +onlyGivenNames x; clear_value x) | with_reducible apply Within.ite
    | with_reducible apply modSg_within | (with_reducible apply legalChange_within; (on_goal 2 => (intro _)))
    | with_reducible apply Within.after (respond_within _ _ _ _)
    | with_reducible apply Within.after (acceptChange_within _ _ _ _ _)
    | with_reducible apply Within.after (bumpCounter_within _ _)
    | with_reducible apply Within.after (legalSherd_within _ _ _ _ _ _ _)

theorem execSgCalWrite_within (t : DT) (x : Xfer) (s : State) : Stays
    { hostq := true, dt := true, due := true, mp := true, sg := true, slots := true } s (execSgCalWrite t x s) := by
  unfold execSgCalWrite
  repeat' first
    | with_reducible apply Within.rfl | with_reducible assumption | exact rfl | with_reducible apply stays_next
    | (with_reducible apply lpWrite_within; (on_goal 2 => (intro _ _)))
    | with_reducible apply Within.after (doSgCalWrite_within _ _)

theorem doSgCalRead_within (l : List Byte) (s : State) : Within { sg := true } s (doSgCalRead l s) := by
  unfold doSgCalRead
  repeat' first
    | with_reducible apply Within.rfl | with_reducible assumption | exact rfl
    | with_reducible apply Within.after (respond_within _ _ _ _)

theorem execSgCalRead_within (t : DT) (x : Xfer) (s : State) : Stays { hostq := true, dt := true, due := true, sg := true } s
    (execSgCalRead t x s) := by
  unfold execSgCalRead
  repeat' first
    | with_reducible apply Within.rfl | with_reducible assumption | exact rfl | with_reducible apply stays_next
    | (with_reducible apply lpWrite_within; (on_goal 2 => (intro _ _)))
    | with_reducible apply Within.after (doSgCalRead_within _ _)

theorem doSgVerify_within (l : List Byte) (s : State) : Within { sg := true, mnt := true } s (doSgVerify l s) := by
  unfold doSgVerify
  repeat' first
    | with_reducible apply Within.rfl | with_reducible assumption | exact rfl
    | with_reducible apply Within.after (respond_within _ _ _ _) | with_reducible apply Within.after (verifyNow_within _)

theorem execSgVerify_within (t : DT) (x : Xfer) (s : State) : Stays
    { hostq := true, dt := true, due := true, sg := true, mnt := true } s (execSgVerify t x s) := by
  unfold execSgVerify
  repeat' first
    | with_reducible apply Within.rfl | with_reducible assumption | exact rfl | with_reducible apply stays_next
    | (with_reducible apply lpWrite_within; (on_goal 2 => (intro _ _)))
    | with_reducible apply Within.after (doSgVerify_within _ _)

theorem setVerifyMax_within (hours : Nat) (s : State) : Within { sg := true, mnt := true } s (setVerifyMax hours s) := by
  unfold setVerifyMax
  repeat' first
    | with_reducible apply Within.rfl | with_reducible assumption | exact rfl
    | (extract_lets -underBinder -merge -useContext +onlyGivenNames x; refine Within.cut x (fun hx => ?_) ?_; (on_goal 1 => clear_value x); (on_goal 2 => (unfold x; clear x)))
    | (extract_lets -underBinder -merge -useContext +onlyGivenNames x; clear_value x) | with_reducible apply Within.ite
    | with_reducible apply modSg_within | with_reducible apply modMnt_within
    | with_reducible apply Within.after (modFiring_within _ _ _ _)

theorem doSgParam_within (l : List Byte) (s : State) : Within
    { hostq := true, mp := true, sg := true, slots := true, mnt := true } s (doSgParam l s) := by
  unfold doSgParam
  repeat' first
    | with_reducible apply Within.rfl | with_reducible assumption | exact rfl
    | (extract_lets -underBinder -merge -useContext +onlyGivenNames x; clear_value x) | with_reducible apply Within.ite
    | with_reducible apply Within.after (respond_within _ _ _ _)
    | (with_reducible apply legalChange_within; (on_goal 2 => (intro _)))
    | with_reducible apply Within.after (acceptChange_within _ _ _ _ _)
    | with_reducible apply Within.after (changeDue_within _ _ _) | with_reducible apply Within.after (setVerifyMax_within _ _)
    | split

theorem execSgParam_within (t : DT) (x : Xfer) (s : State) : Stays
    { hostq := true, dt := true, due := true, mp := true, sg := true, slots := true, mnt := true } s (execSgParam t x s) := by
  unfold execSgParam
  repeat' first
    | with_reducible apply Within.rfl | with_reducible assumption | exact rfl | with_reducible apply stays_next
    | (with_reducible apply lpWrite_within; (on_goal 2 => (intro _ _)))
    | with_reducible apply Within.after (doSgParam_within _ _)

theorem doSgKeyLoad_within (l : List Byte) (s : State) : Within { hostq := true, mp := true, sg := true, slots := true } s
    (doSgKeyLoad l s) := by
  unfold doSgKeyLoad
  repeat' first
    | with_reducible apply Within.rfl | with_reducible assumption | exact rfl | with_reducible apply modSg_within
    | (with_reducible apply legalChange_within; (on_goal 2 => (intro _)))
    | with_reducible apply Within.after (acceptChange_within _ _ _ _ _)
    | with_reducible apply Within.after (respond_within _ _ _ _) | split

theorem execSgKeyLoad_within (t : DT) (x : Xfer) (s : State) : Stays
    { hostq := true, dt := true, due := true, mp := true, sg := true, slots := true } s (execSgKeyLoad t x s) := by
  unfold execSgKeyLoad
  repeat' first
    | with_reducible apply Within.rfl | with_reducible assumption | exact rfl | with_reducible apply stays_next
    | (with_reducible apply lpWrite_within; (on_goal 2 => (intro _ _)))
    | with_reducible apply Within.after (doSgKeyLoad_within _ _)

theorem doSgImageBlock_within (l : List Byte) (s : State) : Within { sg := true } s (doSgImageBlock l s) := by
  unfold doSgImageBlock
  repeat' first
    | with_reducible apply Within.rfl | with_reducible assumption | exact rfl | with_reducible apply Within.ite
    | with_reducible apply modSg_within | with_reducible apply Within.after (respond_within _ _ _ _)

theorem execSgImageBlock_within (t : DT) (x : Xfer) (s : State) : Stays { hostq := true, dt := true, due := true, sg := true } s
    (execSgImageBlock t x s) := by
  unfold execSgImageBlock
  repeat' first
    | with_reducible apply Within.rfl | with_reducible assumption | exact rfl | with_reducible apply stays_next
    | (with_reducible apply lpWrite_within; (on_goal 2 => (intro _ _)))
    | with_reducible apply Within.after (doSgImageBlock_within _ _)

theorem installImage_within (img : List Byte) (s : State) : Within
    { hostq := true, carvers := true, tuners := true, slip := true, due := true, paths := true, ctxs := true, mp := true, sg := true, cry := true, slots := true, mnt := true, vault := true }
    s (installImage img s) := by
  unfold installImage
  repeat' first
    | with_reducible apply Within.rfl | with_reducible assumption | exact rfl
    | (with_reducible apply Within.foldl; on_goal 1 => (intro _ _))
    | (extract_lets -underBinder -merge -useContext +onlyGivenNames x; refine Within.cut x (fun hx => ?_) ?_; (on_goal 1 => clear_value x); (on_goal 2 => (unfold x; clear x)))
    | (extract_lets -underBinder -merge -useContext +onlyGivenNames x; clear_value x) | with_reducible apply Within.ite
    | with_reducible apply modSg_within | with_reducible apply Within.after (respond_within _ _ _ _)
    | with_reducible apply Within.after (bumpCounter_within _ _) | with_reducible apply Within.after (cutJob_within _ _ _)
    | with_reducible apply Within.after (legalSherd_within _ _ _ _ _ _ _)
    | with_reducible apply Within.after (commitAll_within _)

theorem doSgImageCommit_within (l : List Byte) (s : State) : Within
    { hostq := true, carvers := true, tuners := true, slip := true, due := true, paths := true, ctxs := true, mp := true, sg := true, cry := true, slots := true, mnt := true, vault := true }
    s (doSgImageCommit l s) := by
  unfold doSgImageCommit
  repeat' first
    | with_reducible apply Within.rfl | with_reducible assumption | exact rfl
    | (extract_lets -underBinder -merge -useContext +onlyGivenNames x; clear_value x) | with_reducible apply Within.ite
    | (with_reducible apply legalChange_within; (on_goal 2 => (intro _)))
    | with_reducible apply Within.after (respond_within _ _ _ _) | with_reducible apply Within.after (installImage_within _ _)

theorem execSgImageCommit_within (t : DT) (x : Xfer) (s : State) : Stays
    { hostq := true, dt := true, carvers := true, tuners := true, slip := true, due := true, paths := true, ctxs := true, mp := true, sg := true, cry := true, slots := true, mnt := true, vault := true }
    s (execSgImageCommit t x s) := by
  unfold execSgImageCommit
  repeat' first
    | with_reducible apply Within.rfl | with_reducible assumption | exact rfl | with_reducible apply stays_next
    | (with_reducible apply lpWrite_within; (on_goal 2 => (intro _ _)))
    | with_reducible apply Within.after (doSgImageCommit_within _ _)

end Sys2Proof.Machine
end

