-- ==== Sys2Proof/Laws/Crypto.lean ====
section
/-!
SUPPORT. Laws/Crypto.lean: what each operation of Machine/Crypto.lean leaves as it was.
-/
namespace Sys2Proof.Machine

theorem putKey_within (i : Fin 64) (type usage : Nat) (bytes : List Byte) (s : State) : PairW { cry := true, vault := true } s
    (putKey i type usage bytes s) := by
  unfold putKey
  repeat' first
    | with_reducible apply Within.rfl | with_reducible assumption | exact rfl
    | (extract_lets -underBinder -merge -useContext +onlyGivenNames x; clear_value x) | with_reducible apply PairW.ite
    | with_reducible apply Within.ite | with_reducible apply modVault_within | with_reducible apply modCry_within
    | with_reducible apply pairW_mk

theorem keySherd_within (action : Nat) (i : Fin 64) (k : Key) (s : State) : Within
    { hostq := true, mp := true, cry := true, slots := true, mnt := true, vault := true } s (keySherd action i k s) := by
  unfold keySherd
  repeat' first
    | with_reducible apply Within.rfl | with_reducible assumption | exact rfl
    | with_reducible apply Within.after (opSherd_within _ _ _ _ _ _)

theorem doCryKeyLoad_within (h : Held) (s : State) : Within
    { hostq := true, mp := true, cry := true, slots := true, mnt := true, vault := true } s (doCryKeyLoad h s) := by
  unfold doCryKeyLoad
  dsimp only
  repeat' first
    | with_reducible apply Within.rfl | with_reducible assumption | exact rfl | with_reducible apply Within.ite
    | with_reducible apply Within.after (reject_within _ _ _) | with_reducible apply Within.after (finish_within _ _ _ _)
    | with_reducible apply Within.after (keySherd_within _ _ _ _) | with_reducible apply Within.after (fail_within _ _ _ _ _)
    | split | with_reducible apply Within.after (putKey_within _ _ _ _ _).snd

theorem execCryKeyLoad_within (e : Entry) (s : State) : Stays
    { hostq := true, dt := true, due := true, mp := true, cry := true, slots := true, mnt := true, vault := true } s
    (execCryKeyLoad e s) := by
  unfold execCryKeyLoad
  repeat' first
    | with_reducible apply Within.rfl | with_reducible assumption | exact rfl | with_reducible apply stays_next
    | (with_reducible apply hostCmd_within; (on_goal 2 => (intro _ _)))
    | with_reducible apply Within.after (doCryKeyLoad_within _ _)

theorem doCryKeyDerive_within (h : Held) (s : State) : Within
    { hostq := true, mp := true, cry := true, slots := true, mnt := true, vault := true } s (doCryKeyDerive h s) := by
  unfold doCryKeyDerive
  repeat' first
    | with_reducible apply Within.rfl | with_reducible assumption | exact rfl
    | (extract_lets -underBinder -merge -useContext +onlyGivenNames x; clear_value x) | with_reducible apply Within.ite
    | with_reducible apply Within.after (reject_within _ _ _) | with_reducible apply Within.after (fail_within _ _ _ _ _)
    | with_reducible apply Within.after (finish_within _ _ _ _) | with_reducible apply Within.after (keySherd_within _ _ _ _)
    | split | with_reducible apply Within.after (putKey_within _ _ _ _ _).snd

theorem execCryKeyDerive_within (e : Entry) (s : State) : Stays
    { hostq := true, dt := true, due := true, mp := true, cry := true, slots := true, mnt := true, vault := true } s
    (execCryKeyDerive e s) := by
  unfold execCryKeyDerive
  repeat' first
    | with_reducible apply Within.rfl | with_reducible assumption | exact rfl | with_reducible apply stays_next
    | (with_reducible apply hostCmd_within; (on_goal 2 => (intro _ _)))
    | with_reducible apply Within.after (doCryKeyDerive_within _ _)

theorem doCryKeyRetire_within (h : Held) (s : State) : Within
    { hostq := true, mp := true, cry := true, slots := true, mnt := true, vault := true } s (doCryKeyRetire h s) := by
  unfold doCryKeyRetire
  repeat' first
    | with_reducible apply Within.rfl | with_reducible assumption | exact rfl
    | (extract_lets -underBinder -merge -useContext +onlyGivenNames x; refine Within.cut x (fun hx => ?_) ?_; (on_goal 1 => clear_value x); (on_goal 2 => (unfold x; clear x)))
    | (extract_lets -underBinder -merge -useContext +onlyGivenNames x; clear_value x) | with_reducible apply Within.ite
    | with_reducible apply modCry_within | with_reducible apply modVault_within
    | with_reducible apply Within.after (finishAll_within _ _ _ _) | with_reducible apply Within.after (finish_within _ _ _ _)
    | with_reducible apply Within.after (keySherd_within _ _ _ _) | with_reducible apply Within.after (reject_within _ _ _)
    | split

theorem execCryKeyRetire_within (e : Entry) (s : State) : Stays
    { hostq := true, dt := true, due := true, mp := true, cry := true, slots := true, mnt := true, vault := true } s
    (execCryKeyRetire e s) := by
  unfold execCryKeyRetire
  repeat' first
    | with_reducible apply Within.rfl | with_reducible assumption | exact rfl | with_reducible apply stays_next
    | (with_reducible apply hostCmd_within; (on_goal 2 => (intro _ _)))
    | with_reducible apply Within.after (doCryKeyRetire_within _ _)

theorem assign_within (c : Fin 5) (m : GlazeMsg) (s : State) : Within { cry := true } s (assign c m s) := by
  unfold assign
  repeat' first
    | with_reducible apply Within.rfl | with_reducible assumption | exact rfl | with_reducible apply modCry_within

theorem suspend_within (c : Fin 5) (s : State) : Within { cry := true } s (suspend c s) := by
  unfold suspend
  repeat' first
    | with_reducible apply Within.rfl | with_reducible assumption | exact rfl | with_reducible apply modCry_within

theorem feedCores_within (hash : Bool) (n : Nat) (s : State) : Within { cry := true } s (feedCores hash n s) := by
  induction n generalizing s with
  | zero => exact Within.rfl
  | succ n ih =>
    unfold feedCores
    repeat' first
      | with_reducible apply Within.rfl | with_reducible assumption | exact rfl | with_reducible apply Within.after (ih _)
      | with_reducible apply Within.after (assign_within _ _ _) | with_reducible apply Within.after (suspend_within _ _) | split

theorem schedule_within (s : State) : Within { cry := true } s (schedule s) := by
  unfold schedule
  repeat' first
    | with_reducible apply Within.rfl | with_reducible assumption | exact rfl
    | (extract_lets -underBinder -merge -useContext +onlyGivenNames x; clear_value x)
    | with_reducible apply Within.after (feedCores_within _ _ _)

theorem enqueue_within (h : Held) (key : List Byte) (l : List Int) (s : State) : Within { hostq := true, cry := true } s
    (enqueue h key l s) := by
  unfold enqueue
  repeat' first
    | with_reducible apply Within.rfl | with_reducible assumption | exact rfl
    | (extract_lets -underBinder -merge -useContext +onlyGivenNames x; clear_value x) | with_reducible apply modCry_within
    | with_reducible apply Within.after (schedule_within _) | with_reducible apply Within.after (note_within _ _ _)

theorem admitMessage_within (h : Held) (s : State) : Within
    { hostq := true, mp := true, cry := true, slots := true, mnt := true, vault := true } s (admitMessage h s) := by
  unfold admitMessage
  repeat' first
    | with_reducible apply Within.rfl | with_reducible assumption | exact rfl
    | (extract_lets -underBinder -merge -useContext +onlyGivenNames x; clear_value x) | with_reducible apply Within.ite
    | with_reducible apply Within.after (reject_within _ _ _) | with_reducible apply Within.after (enqueue_within _ _ _ _)
    | with_reducible apply Within.after (fail_within _ _ _ _ _) | with_reducible apply Within.after (tagAll_within _)
    | with_reducible apply Within.after (useCounter_within _ _ _) | with_reducible apply Within.after (askStore_within _ _ _)
    | with_reducible apply Within.after (begin__within _ _) | split

theorem doCryProcess_within (h : Held) (s : State) : Within
    { hostq := true, mp := true, cry := true, slots := true, mnt := true, vault := true } s (doCryProcess h s) := by
  unfold doCryProcess
  repeat' first
    | with_reducible apply Within.rfl | with_reducible assumption | exact rfl
    | with_reducible apply Within.after (admitMessage_within _ _)

theorem execCryProcess_within (e : Entry) (input aad : List Byte) (s : State) : Stays
    { hostq := true, dt := true, due := true, mp := true, cry := true, slots := true, mnt := true, vault := true } s
    (execCryProcess e input aad s) := by
  unfold execCryProcess
  repeat' first
    | with_reducible apply Within.rfl | with_reducible assumption | exact rfl | with_reducible apply stays_next
    | (with_reducible apply hostCmd_within; (on_goal 2 => (intro _ _)))
    | with_reducible apply Within.after (doCryProcess_within _ _)

theorem writeArea_within (addr : Nat) (l : List Byte) (s : State) : Within {} s (writeArea addr l s) := by
  unfold writeArea
  repeat' first
    | with_reducible apply Within.rfl | with_reducible assumption | exact rfl | with_reducible apply Within.ite
    | with_reducible apply Within.after (emit_within _ _)

theorem endMessage_within (m : GlazeMsg) (h : Held) (input aad : List Byte) (s : State) : Within
    { hostq := true, mp := true, slots := true } s (endMessage m h input aad s) := by
  unfold endMessage
  repeat' first
    | with_reducible apply Within.rfl | with_reducible assumption | exact rfl
    | (extract_lets -underBinder -merge -useContext +onlyGivenNames x; refine Within.cut x (fun hx => ?_) ?_; (on_goal 1 => clear_value x); (on_goal 2 => (unfold x; clear x)))
    | (extract_lets -underBinder -merge -useContext +onlyGivenNames x; clear_value x) | with_reducible apply Within.ite
    | with_reducible apply Within.after (writeArea_within _ _ _)
    | with_reducible apply Within.after (finishAt_within _ _ _ _ _ _) | with_reducible apply Within.after (reject_within _ _ _)

theorem execGlazeMessageDone_within (t : DT) (core : Fin 5) (s : State) : Stays
    { hostq := true, dt := true, due := true, mp := true, cry := true, slots := true } s (execGlazeMessageDone t core s) := by
  unfold execGlazeMessageDone
  repeat' first
    | with_reducible apply Within.rfl | with_reducible assumption | exact rfl
    | (extract_lets -underBinder -merge -useContext +onlyGivenNames x; refine Stays.cut x (fun hx => ?_) ?_; (on_goal 1 => clear_value x); (on_goal 2 => (unfold x; clear x)))
    | (extract_lets -underBinder -merge -useContext +onlyGivenNames x; refine Within.cut x (fun hx => ?_) ?_; (on_goal 1 => clear_value x); (on_goal 2 => (unfold x; clear x)))
    | with_reducible apply stays_next | with_reducible apply modCry_within
    | with_reducible apply Within.after (moment_within _ _) | with_reducible apply Within.after (endMessage_within _ _ _ _ _)
    | with_reducible apply Within.after (schedule_within _) | split

theorem clearMessages_within  (s : State) : Within { cry := true } s (clearMessages  s) := by
  unfold clearMessages
  repeat' first
    | with_reducible apply Within.rfl | with_reducible assumption | exact rfl | with_reducible apply modCry_within

theorem healthFailure_within (s : State) : Within { hostq := true, mp := true, cry := true, slots := true } s (healthFailure s)
    := by
  unfold healthFailure
  repeat' first
    | with_reducible apply Within.rfl | with_reducible assumption | exact rfl
    | (extract_lets -underBinder -merge -useContext +onlyGivenNames x; refine Within.cut x (fun hx => ?_) ?_; (on_goal 1 => clear_value x); (on_goal 2 => (unfold x; clear x)))
    | (extract_lets -underBinder -merge -useContext +onlyGivenNames x; clear_value x) | with_reducible apply Within.ite
    | with_reducible apply modCry_within | with_reducible apply Within.after (clearMessages_within _)
    | with_reducible apply Within.after (finishAll_within _ _ _ _)

theorem execEntropyHealthFailure_within (t : DT) (s : State) : Stays
    { hostq := true, dt := true, due := true, mp := true, cry := true, slots := true } s (execEntropyHealthFailure t s) := by
  unfold execEntropyHealthFailure
  repeat' first
    | with_reducible apply Within.rfl | with_reducible assumption | exact rfl
    | (extract_lets -underBinder -merge -useContext +onlyGivenNames x; refine Stays.cut x (fun hx => ?_) ?_; (on_goal 1 => clear_value x); (on_goal 2 => (unfold x; clear x)))
    | with_reducible apply Stays.ite | with_reducible apply Within.ite | with_reducible apply stays_next
    | with_reducible apply Within.after (moment_within _ _) | with_reducible apply Within.after (healthFailure_within _)

theorem execEntropyStartupTestsDone_within (t : DT) (pass : Bool) (s : State) : Stays
    { hostq := true, dt := true, due := true, mp := true, cry := true, slots := true } s (execEntropyStartupTestsDone t pass s)
    := by
  unfold execEntropyStartupTestsDone
  repeat' first
    | with_reducible apply Within.rfl | with_reducible assumption | exact rfl
    | (extract_lets -underBinder -merge -useContext +onlyGivenNames x; refine Stays.cut x (fun hx => ?_) ?_; (on_goal 1 => clear_value x); (on_goal 2 => (unfold x; clear x)))
    | with_reducible apply Stays.ite | with_reducible apply Within.ite | with_reducible apply stays_next
    | with_reducible apply modCry_within | with_reducible apply Within.after (moment_within _ _)
    | with_reducible apply Within.after (healthFailure_within _)

theorem execEntropyRetry_within (t : DT) (pass : Bool) (s : State) : Stays
    { hostq := true, dt := true, due := true, mp := true, cry := true, slots := true, mnt := true, vault := true } s
    (execEntropyRetry t pass s) := by
  unfold execEntropyRetry
  repeat' first
    | with_reducible apply Within.rfl | with_reducible assumption | exact rfl
    | (extract_lets -underBinder -merge -useContext +onlyGivenNames x; refine Stays.cut x (fun hx => ?_) ?_; (on_goal 1 => clear_value x); (on_goal 2 => (unfold x; clear x)))
    | (extract_lets -underBinder -merge -useContext +onlyGivenNames x; clear_value x) | with_reducible apply Stays.ite
    | with_reducible apply Within.ite | with_reducible apply stays_next | with_reducible apply modCry_within
    | with_reducible apply Within.after (moment_within _ _) | with_reducible apply Within.after (tagAll_within _)
    | with_reducible apply Within.after (faultSherd_within _ _ _ _ _) | with_reducible apply Within.after (useFree_within _)

theorem doCryCounterRead_within (h : Held) (s : State) : Within { hostq := true, mp := true, slots := true } s (doCryCounterRead
    h s) := by
  unfold doCryCounterRead
  repeat' first
    | with_reducible apply Within.rfl | with_reducible assumption | exact rfl
    | with_reducible apply Within.after (finish_within _ _ _ _) | with_reducible apply Within.after (reject_within _ _ _)
    | split

theorem execCryCounterRead_within (e : Entry) (s : State) : Stays
    { hostq := true, dt := true, due := true, mp := true, slots := true } s (execCryCounterRead e s) := by
  unfold execCryCounterRead
  repeat' first
    | with_reducible apply Within.rfl | with_reducible assumption | exact rfl | with_reducible apply stays_next
    | (with_reducible apply hostCmd_within; (on_goal 2 => (intro _ _)))
    | with_reducible apply Within.after (doCryCounterRead_within _ _)

theorem doCryCounterIncrement_within (h : Held) (s : State) : Within { hostq := true, mp := true, slots := true, mnt := true } s
    (doCryCounterIncrement h s) := by
  unfold doCryCounterIncrement
  repeat' first
    | with_reducible apply Within.rfl | with_reducible assumption | exact rfl | with_reducible apply Within.ite
    | with_reducible apply Within.after (reject_within _ _ _) | with_reducible apply Within.after (askStore_within _ _ _)
    | with_reducible apply Within.after (begin__within _ _) | split

theorem execCryCounterIncrement_within (e : Entry) (s : State) : Stays
    { hostq := true, dt := true, due := true, mp := true, slots := true, mnt := true } s (execCryCounterIncrement e s) := by
  unfold execCryCounterIncrement
  repeat' first
    | with_reducible apply Within.rfl | with_reducible assumption | exact rfl | with_reducible apply stays_next
    | (with_reducible apply hostCmd_within; (on_goal 2 => (intro _ _)))
    | with_reducible apply Within.after (doCryCounterIncrement_within _ _)

theorem setLog_within (slot : Nat) (deliver : Bool) (kb : Nat) (s : State) : Within
    { hostq := true, mp := true, cry := true, slots := true, mnt := true, vault := true } s (setLog slot deliver kb s) := by
  unfold setLog
  repeat' first
    | with_reducible apply Within.rfl | with_reducible assumption | exact rfl
    | (extract_lets -underBinder -merge -useContext +onlyGivenNames x; refine Within.cut x (fun hx => ?_) ?_; (on_goal 1 => clear_value x); (on_goal 2 => (unfold x; clear x)))
    | (extract_lets -underBinder -merge -useContext +onlyGivenNames x; clear_value x) | with_reducible apply Within.ite
    | with_reducible apply modCry_within | with_reducible apply modVault_within
    | with_reducible apply Within.after (tagAll_within _)

theorem doLogConfig_within (h : Held) (s : State) : Within
    { hostq := true, mp := true, sg := true, cry := true, slots := true, mnt := true, vault := true } s (doLogConfig h s) := by
  unfold doLogConfig
  repeat' first
    | with_reducible apply Within.rfl | with_reducible assumption | exact rfl
    | (extract_lets -underBinder -merge -useContext +onlyGivenNames x; clear_value x) | with_reducible apply Within.ite
    | with_reducible apply modSg_within | with_reducible apply Within.after (deliver_within _ _ _)
    | with_reducible apply Within.after (finishC_within _ _) | with_reducible apply Within.after (reject_within _ _ _)
    | with_reducible apply Within.after (fail_within _ _ _ _ _) | with_reducible apply Within.after (setLog_within _ _ _ _)

theorem execLogConfig_within (e : Entry) (s : State) : Stays
    { hostq := true, dt := true, due := true, mp := true, sg := true, cry := true, slots := true, mnt := true, vault := true } s
    (execLogConfig e s) := by
  unfold execLogConfig
  repeat' first
    | with_reducible apply Within.rfl | with_reducible assumption | exact rfl | with_reducible apply stays_next
    | (with_reducible apply hostCmd_within; (on_goal 2 => (intro _ _)))
    | with_reducible apply Within.after (doLogConfig_within _ _)

theorem endRead_within (h : Held) (first : Nat) (l : List (BitVec 64 × List Byte)) (s : State) : Within
    { hostq := true, mp := true, slots := true } s (endRead h first l s) := by
  unfold endRead
  repeat' first
    | with_reducible apply Within.rfl | with_reducible assumption | exact rfl
    | (extract_lets -underBinder -merge -useContext +onlyGivenNames x; clear_value x)
    | with_reducible apply Within.after (finishOut_within _ _ _ _ _)

theorem doLogRead_within (h : Held) (s : State) : Within { hostq := true, mp := true, cry := true, slots := true } s (doLogRead
    h s) := by
  unfold doLogRead
  dsimp only
  repeat' first
    | with_reducible apply Within.rfl | with_reducible assumption | exact rfl | with_reducible apply Within.ite
    | with_reducible apply modCry_within | with_reducible apply Within.after (fail_within _ _ _ _ _)
    | with_reducible apply Within.after (endRead_within _ _ _ _) | with_reducible apply Within.after (settle_within _ _ _)

theorem execLogRead_within (e : Entry) (s : State) : Stays
    { hostq := true, dt := true, due := true, mp := true, cry := true, slots := true } s (execLogRead e s) := by
  unfold execLogRead
  repeat' first
    | with_reducible apply Within.rfl | with_reducible assumption | exact rfl | with_reducible apply stays_next
    | (with_reducible apply hostCmd_within; (on_goal 2 => (intro _ _)))
    | with_reducible apply Within.after (doLogRead_within _ _)

theorem doLogMark_within (h : Held) (s : State) : Within
    { hostq := true, mp := true, cry := true, slots := true, mnt := true, vault := true } s (doLogMark h s) := by
  unfold doLogMark
  repeat' first
    | with_reducible apply Within.rfl | with_reducible assumption | exact rfl
    | (extract_lets -underBinder -merge -useContext +onlyGivenNames x; refine Within.cut x (fun hx => ?_) ?_; (on_goal 1 => clear_value x); (on_goal 2 => (unfold x; clear x)))
    | (extract_lets -underBinder -merge -useContext +onlyGivenNames x; clear_value x) | with_reducible apply Within.ite
    | with_reducible apply Within.after (opSherd_within _ _ _ _ _ _) | with_reducible apply Within.after (finish_within _ _ _ _)

theorem execLogMark_within (e : Entry) (s : State) : Stays
    { hostq := true, dt := true, due := true, mp := true, cry := true, slots := true, mnt := true, vault := true } s
    (execLogMark e s) := by
  unfold execLogMark
  repeat' first
    | with_reducible apply Within.rfl | with_reducible assumption | exact rfl | with_reducible apply stays_next
    | (with_reducible apply hostCmd_within; (on_goal 2 => (intro _ _)))
    | with_reducible apply Within.after (doLogMark_within _ _)

end Sys2Proof.Machine
end

