-- ==== Sys2Proof/Laws/Maint.lean ====
section
/-!
SUPPORT. Laws/Maint.lean: what each operation of Machine/Maint.lean leaves as it was.
-/
namespace Sys2Proof.Machine

theorem startFiring_within (a : Fin 9) (o : Nat) (s : State) : Within { wb := true, tuners := true, slip := true, mnt := true }
    s (startFiring a o s) := by
  unfold startFiring
  repeat' first
    | with_reducible apply Within.rfl | with_reducible assumption | exact rfl
    | (extract_lets -underBinder -merge -useContext +onlyGivenNames x; refine Within.cut x (fun hx => ?_) ?_; (on_goal 1 => clear_value x); (on_goal 2 => (unfold x; clear x)))
    | (extract_lets -underBinder -merge -useContext +onlyGivenNames x; clear_value x) | with_reducible apply Within.ite
    | with_reducible apply Within.after (modFiring_within _ _ _ _) | with_reducible apply Within.after (modSlip_within _ _)
    | with_reducible apply Within.after (modWb_within _ _ _) | with_reducible apply Within.after (askStore_within _ _ _)
    | with_reducible apply Within.after (modTuner_within _ _ _) | split

theorem withEntry_within (a o : Nat) (s : State) : Within { mnt := true } s (withEntry a o s) := by
  unfold withEntry
  repeat' first
    | with_reducible apply Within.rfl | with_reducible assumption | exact rfl | with_reducible apply Within.ite
    | with_reducible apply modMnt_within

theorem execKilnFiringStart_within (t : DT) (activity : Fin 9) (obj : Fin 64) (s : State) : Stays
    { hostq := true, dt := true, wb := true, tuners := true, slip := true, due := true, mnt := true } s (execKilnFiringStart t
    activity obj s) := by
  unfold execKilnFiringStart
  repeat' first
    | with_reducible apply Within.rfl | with_reducible assumption | exact rfl
    | (extract_lets -underBinder -merge -useContext +onlyGivenNames x; refine Stays.cut x (fun hx => ?_) ?_; (on_goal 1 => clear_value x); (on_goal 2 => (unfold x; clear x)))
    | with_reducible apply Stays.ite | with_reducible apply Within.ite | with_reducible apply stays_next
    | with_reducible apply Within.after (withEntry_within _ _ _) | with_reducible apply Within.after (moment_within _ _)
    | with_reducible apply Within.after (startFiring_within _ _ _) | with_reducible apply Within.after (claimSlip_within _)
    | split

theorem execKilnWindowExpiry_within (t : DT) (activity : Fin 9) (obj : Fin 64) (s : State) : Stays
    { hostq := true, dt := true, due := true, mnt := true } s (execKilnWindowExpiry t activity obj s) := by
  unfold execKilnWindowExpiry
  repeat' first
    | with_reducible apply Within.rfl | with_reducible assumption | exact rfl
    | (extract_lets -underBinder -merge -useContext +onlyGivenNames x; refine Stays.cut x (fun hx => ?_) ?_; (on_goal 1 => clear_value x); (on_goal 2 => (unfold x; clear x)))
    | with_reducible apply Stays.ite | with_reducible apply Within.ite | with_reducible apply stays_next
    | with_reducible apply Within.after (moment_within _ _) | with_reducible apply Within.after (modFiring_within _ _ _ _)
    | split

theorem firingQuality_within (f : Firing) (outcome : CalOutcome) (r : FiringResult) (s : State) : PairW {} s (firingQuality f
    outcome r s) := by
  unfold firingQuality
  repeat' first
    | with_reducible apply Within.rfl | with_reducible assumption | exact rfl | with_reducible apply PairW.ite
    | with_reducible apply Within.ite | with_reducible apply pairW_mk | with_reducible apply Within.after (useFree_within _)

theorem newValues_within (a : Fin 9) (o : Nat) (r : FiringResult) (s : State) : Within
    { wb := true, tuners := true, mnt := true } s (newValues a o r s) := by
  unfold newValues
  repeat' first
    | with_reducible apply Within.rfl | with_reducible assumption | exact rfl
    | (extract_lets -underBinder -merge -useContext +onlyGivenNames x; refine Within.cut x (fun hx => ?_) ?_; (on_goal 1 => clear_value x); (on_goal 2 => (unfold x; clear x)))
    | (extract_lets -underBinder -merge -useContext +onlyGivenNames x; clear_value x) | with_reducible apply Within.ite
    | with_reducible apply Within.after (modFiring_within _ _ _ _) | with_reducible apply Within.after (modTuner_within _ _ _)
    | with_reducible apply Within.after (modWb_within _ _ _) | split

theorem survey_within (s : State) : Within { mnt := true } s (survey s) := by
  unfold survey
  repeat' first
    | with_reducible apply Within.rfl | with_reducible assumption | exact rfl
    | (extract_lets -underBinder -merge -useContext +onlyGivenNames x; refine Within.cut x (fun hx => ?_) ?_; (on_goal 1 => clear_value x); (on_goal 2 => (unfold x; clear x)))
    | (extract_lets -underBinder -merge -useContext +onlyGivenNames x; clear_value x) | with_reducible apply modMnt_within
    | with_reducible apply Within.after (useFree_within _) | with_reducible apply Within.after (askStore_within _ _ _)
    | with_reducible apply Within.after (useMany_within _ _) | split

theorem closeFiring_within (a : Fin 9) (o : Nat) (outcome : CalOutcome) (q : Nat) (fields : Nat × Int) (s : State) : Within {
    hostq := true, tuners := true, slip := true, mp := true, slots := true, mnt := true } s (closeFiring a o outcome q fields s)
    := by
  unfold closeFiring
  repeat' first
    | with_reducible apply Within.rfl | with_reducible assumption | exact rfl
    | (extract_lets -underBinder -merge -useContext +onlyGivenNames x; refine Within.cut x (fun hx => ?_) ?_; (on_goal 1 => clear_value x); (on_goal 2 => (unfold x; clear x)))
    | (extract_lets -underBinder -merge -useContext +onlyGivenNames x; clear_value x) | with_reducible apply Within.ite
    | with_reducible apply Within.after (modFiring_within _ _ _ _) | with_reducible apply Within.after (freeFiringSlip_within _ _)
    | with_reducible apply Within.after (modTuner_within _ _ _) | with_reducible apply Within.after (endJoined_within _ _ _ _)
    | with_reducible apply Within.after (calResult_within _ _ _ _ _ _ _) | split

theorem closeStored_within (a : Fin 9) (o : Nat) (outcome : CalOutcome) (s : State) : Within { hostq := true, tuners := true, slip := true, mp := true, slots := true, mnt := true } s (closeStored a o outcome s) := by
  unfold closeStored
  repeat' first
    | with_reducible apply Within.rfl | with_reducible assumption | exact rfl
    | with_reducible apply Within.after (closeFiring_within _ _ _ _ _ _) | split

theorem endFiring_within (a : Fin 9) (o : Nat) (outcome : CalOutcome) (q : Nat) (r : FiringResult) (s : State) : Within
    { hostq := true, wb := true, tuners := true, slip := true, mp := true, sg := true, slots := true, mnt := true } s (endFiring
    a o outcome q r s) := by
  unfold endFiring
  repeat' first
    | with_reducible apply Within.rfl | with_reducible assumption | exact rfl
    | (extract_lets -underBinder -merge -useContext +onlyGivenNames x; refine Within.cut x (fun hx => ?_) ?_; (on_goal 1 => clear_value x); (on_goal 2 => (unfold x; clear x)))
    | (extract_lets -underBinder -merge -useContext +onlyGivenNames x; clear_value x) | with_reducible apply Within.ite
    | with_reducible apply Within.after (newValues_within _ _ _ _) | with_reducible apply Within.after (askStore_within _ _ _)
    | with_reducible apply Within.after (modFiring_within _ _ _ _) | with_reducible apply Within.after (survey_within _)
    | with_reducible apply Within.after (closeFiring_within _ _ _ _ _ _)
    | with_reducible apply Within.after (endVerify_within _ _ _) | split

theorem execKilnFiringEnd_within (t : DT) (activity : Fin 9) (obj : Fin 64) (r : FiringResult) (s : State) : Stays
    { hostq := true, dt := true, wb := true, tuners := true, slip := true, due := true, mp := true, sg := true, slots := true, mnt := true }
    s (execKilnFiringEnd t activity obj r s) := by
  unfold execKilnFiringEnd
  repeat' first
    | with_reducible apply Within.rfl | with_reducible assumption | exact rfl
    | (extract_lets -underBinder -merge -useContext +onlyGivenNames x; refine Stays.cut x (fun hx => ?_) ?_; (on_goal 1 => clear_value x); (on_goal 2 => (unfold x; clear x)))
    | (extract_lets -underBinder -merge -useContext +onlyGivenNames x; refine Within.cut x (fun hx => ?_) ?_; (on_goal 1 => clear_value x); (on_goal 2 => (unfold x; clear x)))
    | (extract_lets -underBinder -merge -useContext +onlyGivenNames x; clear_value x) | with_reducible apply Stays.ite
    | with_reducible apply Within.ite | with_reducible apply stays_next | with_reducible apply Within.after (moment_within _ _)
    | with_reducible apply Within.after (endFiring_within _ _ _ _ _ _) | split
    | with_reducible apply Within.after (PairW.snd (firingQuality_within _ _ _ _))
    | with_reducible refine Within.after (PairW.of (firingQuality_within _ _ _ _) (by with_reducible assumption)) ?_ ?_

theorem requestFiring_within (h : Held) (a : Fin 9) (o : Nat) (s : State) : Within
    { hostq := true, wb := true, tuners := true, slip := true, mp := true, slots := true, mnt := true } s (requestFiring h a o
    s) := by
  unfold requestFiring
  repeat' first
    | with_reducible apply Within.rfl | with_reducible assumption | exact rfl
    | (extract_lets -underBinder -merge -useContext +onlyGivenNames x; refine Within.cut x (fun hx => ?_) ?_; (on_goal 1 => clear_value x); (on_goal 2 => (unfold x; clear x)))
    | with_reducible apply Within.ite | with_reducible apply Within.after (modFiring_within _ _ _ _)
    | with_reducible apply Within.after (startFiring_within _ _ _) | with_reducible apply Within.after (begin__within _ _)
    | with_reducible apply Within.after (deferCmd_within _ _ _) | with_reducible apply Within.after (useFree_within _) | split

theorem doMntCalibrate_within (h : Held) (s : State) : Within
    { hostq := true, wb := true, tuners := true, slip := true, mp := true, slots := true, mnt := true } s (doMntCalibrate h s)
    := by
  unfold doMntCalibrate
  repeat' first
    | with_reducible apply Within.rfl | with_reducible assumption | exact rfl
    | (extract_lets -underBinder -merge -useContext +onlyGivenNames x; clear_value x) | with_reducible apply Within.ite
    | with_reducible apply Within.after (reject_within _ _ _) | with_reducible apply Within.after (begin__within _ _)
    | with_reducible apply Within.after (modFiring_within _ _ _ _)
    | with_reducible apply Within.after (requestFiring_within _ _ _ _) | split

theorem execMntCalibrate_within (e : Entry) (s : State) : Stays
    { hostq := true, dt := true, wb := true, tuners := true, slip := true, due := true, mp := true, slots := true, mnt := true }
    s (execMntCalibrate e s) := by
  unfold execMntCalibrate
  repeat' first
    | with_reducible apply Within.rfl | with_reducible assumption | exact rfl | with_reducible apply stays_next
    | (with_reducible apply hostCmd_within; (on_goal 2 => (intro _ _)))
    | with_reducible apply Within.after (doMntCalibrate_within _ _)

theorem doMntScheduleSet_within (h : Held) (s : State) : Within { hostq := true, mp := true, slots := true, mnt := true } s
    (doMntScheduleSet h s) := by
  unfold doMntScheduleSet
  repeat' first
    | with_reducible apply Within.rfl | with_reducible assumption | exact rfl
    | (extract_lets -underBinder -merge -useContext +onlyGivenNames x; refine Within.cut x (fun hx => ?_) ?_; (on_goal 1 => clear_value x); (on_goal 2 => (unfold x; clear x)))
    | (extract_lets -underBinder -merge -useContext +onlyGivenNames x; clear_value x) | with_reducible apply Within.ite
    | with_reducible apply modMnt_within | with_reducible apply Within.after (fail_within _ _ _ _ _)
    | with_reducible apply Within.after (finishC_within _ _) | with_reducible apply Within.after (askStore_within _ _ _)
    | with_reducible apply Within.after (reject_within _ _ _) | split

theorem execMntScheduleSet_within (e : Entry) (s : State) : Stays
    { hostq := true, dt := true, due := true, mp := true, slots := true, mnt := true } s (execMntScheduleSet e s) := by
  unfold execMntScheduleSet
  repeat' first
    | with_reducible apply Within.rfl | with_reducible assumption | exact rfl | with_reducible apply stays_next
    | (with_reducible apply hostCmd_within; (on_goal 2 => (intro _ _)))
    | with_reducible apply Within.after (doMntScheduleSet_within _ _)

theorem doMntScheduleStatus_within (h : Held) (s : State) : Within { hostq := true, mp := true, slots := true } s
    (doMntScheduleStatus h s) := by
  unfold doMntScheduleStatus
  repeat' first
    | with_reducible apply Within.rfl | with_reducible assumption | exact rfl
    | (extract_lets -underBinder -merge -useContext +onlyGivenNames x; clear_value x) | with_reducible apply Within.ite
    | with_reducible apply Within.after (finishOut_within _ _ _ _ _)

theorem execMntScheduleStatus_within (e : Entry) (s : State) : Stays
    { hostq := true, dt := true, due := true, mp := true, slots := true } s (execMntScheduleStatus e s) := by
  unfold execMntScheduleStatus
  repeat' first
    | with_reducible apply Within.rfl | with_reducible assumption | exact rfl | with_reducible apply stays_next
    | (with_reducible apply hostCmd_within; (on_goal 2 => (intro _ _)))
    | with_reducible apply Within.after (doMntScheduleStatus_within _ _)

theorem doMntConeRead_within (h : Held) (s : State) : Within { hostq := true, mp := true, slots := true } s (doMntConeRead h s)
    := by
  unfold doMntConeRead
  repeat' first
    | with_reducible apply Within.rfl | with_reducible assumption | exact rfl
    | with_reducible apply Within.after (finishOut_within _ _ _ _ _)

theorem execMntConeRead_within (e : Entry) (s : State) : Stays
    { hostq := true, dt := true, due := true, mp := true, slots := true } s (execMntConeRead e s) := by
  unfold execMntConeRead
  repeat' first
    | with_reducible apply Within.rfl | with_reducible assumption | exact rfl | with_reducible apply stays_next
    | (with_reducible apply hostCmd_within; (on_goal 2 => (intro _ _)))
    | with_reducible apply Within.after (doMntConeRead_within _ _)

theorem issuePlan_within (mv endurance headroom : Nat) (s : State) : Within
    { power := true, hostq := true, mp := true, sg := true, slots := true, mnt := true } s (issuePlan mv endurance headroom s)
    := by
  unfold issuePlan
  repeat' first
    | with_reducible apply Within.rfl | with_reducible assumption | exact rfl
    | (extract_lets -underBinder -merge -useContext +onlyGivenNames x; refine Within.cut x (fun hx => ?_) ?_; (on_goal 1 => clear_value x); (on_goal 2 => (unfold x; clear x)))
    | (extract_lets -underBinder -merge -useContext +onlyGivenNames x; clear_value x) | with_reducible apply Within.ite
    | with_reducible apply modMnt_within | with_reducible apply modPower_within
    | with_reducible apply Within.after (changeDue_within _ _ _) | with_reducible apply Within.after (raise_within _ _ _)
    | with_reducible apply Within.after (askStore_within _ _ _)

theorem planTarget_within (s : State) : PairW {} s (planTarget s) := by
  unfold planTarget
  repeat' first
    | with_reducible apply Within.rfl | with_reducible assumption | exact rfl | with_reducible apply PairW.ite
    | with_reducible apply Within.ite | with_reducible apply Within.after (useFree_within _) | with_reducible apply pairW_mk

theorem ownPlan_within (s : State) : Within { power := true, hostq := true, mp := true, sg := true, slots := true, mnt := true }
    s (ownPlan s) := by
  unfold ownPlan
  repeat' first
    | with_reducible apply Within.rfl | with_reducible assumption | exact rfl
    | (extract_lets -underBinder -merge -useContext +onlyGivenNames x; refine Within.cut x (fun hx => ?_) ?_; (on_goal 1 => clear_value x); (on_goal 2 => (unfold x; clear x)))
    | (extract_lets -underBinder -merge -useContext +onlyGivenNames x; clear_value x)
    | with_reducible apply Within.after (issuePlan_within _ _ _ _)
    | with_reducible apply Within.after (PairW.snd (planTarget_within _))
    | with_reducible refine Within.after (PairW.of (planTarget_within _) (by with_reducible assumption)) ?_ ?_

theorem doMntMarginPlan_within (h : Held) (s : State) : Within
    { power := true, hostq := true, mp := true, sg := true, slots := true, mnt := true } s (doMntMarginPlan h s) := by
  unfold doMntMarginPlan
  repeat' first
    | with_reducible apply Within.rfl | with_reducible assumption | exact rfl
    | (extract_lets -underBinder -merge -useContext +onlyGivenNames x; refine Within.cut x (fun hx => ?_) ?_; (on_goal 1 => clear_value x); (on_goal 2 => (unfold x; clear x)))
    | with_reducible apply Within.ite | with_reducible apply Within.after (ownPlan_within _)
    | with_reducible apply Within.after (finish_within _ _ _ _)

theorem execMntMarginPlan_within (e : Entry) (s : State) : Stays
    { power := true, hostq := true, dt := true, due := true, mp := true, sg := true, slots := true, mnt := true } s
    (execMntMarginPlan e s) := by
  unfold execMntMarginPlan
  repeat' first
    | with_reducible apply Within.rfl | with_reducible assumption | exact rfl | with_reducible apply stays_next
    | (with_reducible apply hostCmd_within; (on_goal 2 => (intro _ _)))
    | with_reducible apply Within.after (doMntMarginPlan_within _ _)

theorem execConePlanDue_within (t : DT) (s : State) : Stays
    { power := true, hostq := true, dt := true, due := true, mp := true, sg := true, slots := true, mnt := true } s
    (execConePlanDue t s) := by
  unfold execConePlanDue
  repeat' first
    | with_reducible apply Within.rfl | with_reducible assumption | exact rfl
    | (extract_lets -underBinder -merge -useContext +onlyGivenNames x; refine Stays.cut x (fun hx => ?_) ?_; (on_goal 1 => clear_value x); (on_goal 2 => (unfold x; clear x)))
    | (extract_lets -underBinder -merge -useContext +onlyGivenNames x; refine Within.cut x (fun hx => ?_) ?_; (on_goal 1 => clear_value x); (on_goal 2 => (unfold x; clear x)))
    | (extract_lets -underBinder -merge -useContext +onlyGivenNames x; clear_value x) | with_reducible apply Stays.ite
    | with_reducible apply Within.ite | with_reducible apply stays_next | with_reducible apply Within.after (moment_within _ _)
    | with_reducible apply Within.after (ownPlan_within _)

theorem tempDue_within (s : State) : Within { mnt := true } s (tempDue s) := by
  unfold tempDue
  repeat' first
    | with_reducible apply Within.rfl | with_reducible assumption | exact rfl | with_reducible apply Within.ite
    | with_reducible apply modMnt_within

theorem marginTrip_within (margins : List Int) (s : State) : Within
    { power := true, hostq := true, mp := true, sg := true, slots := true, mnt := true } s (marginTrip margins s) := by
  unfold marginTrip
  repeat' first
    | with_reducible apply Within.rfl | with_reducible assumption | exact rfl
    | (extract_lets -underBinder -merge -useContext +onlyGivenNames x; refine Within.cut x (fun hx => ?_) ?_; (on_goal 1 => clear_value x); (on_goal 2 => (unfold x; clear x)))
    | (extract_lets -underBinder -merge -useContext +onlyGivenNames x; clear_value x) | with_reducible apply Within.ite
    | with_reducible apply Within.after (issuePlan_within _ _ _ _)

theorem dailyTune_within (s : State) : Within { clock := true, mnt := true } s (dailyTune s) := by
  unfold dailyTune
  repeat' first
    | with_reducible apply Within.rfl | with_reducible assumption | exact rfl | with_reducible apply Within.ite
    | with_reducible apply modTime_within | exact .inl rfl | exact .inr fun _ => rfl
    | with_reducible apply Within.after (askStore_within _ _ _)

theorem execConeSample_within (t : DT) (tHot tAo : Int) (margins : List Int) (s : State) : Stays
    { power := true, hostq := true, dt := true, clock := true, due := true, mp := true, sg := true, slots := true, mnt := true }
    s (execConeSample t tHot tAo margins s) := by
  unfold execConeSample
  repeat' first
    | with_reducible apply Within.rfl | with_reducible assumption | exact rfl
    | (extract_lets -underBinder -merge -useContext +onlyGivenNames x; refine Stays.cut x (fun hx => ?_) ?_; (on_goal 1 => clear_value x); (on_goal 2 => (unfold x; clear x)))
    | (extract_lets -underBinder -merge -useContext +onlyGivenNames x; refine Within.cut x (fun hx => ?_) ?_; (on_goal 1 => clear_value x); (on_goal 2 => (unfold x; clear x)))
    | (extract_lets -underBinder -merge -useContext +onlyGivenNames x; clear_value x) | with_reducible apply Stays.ite
    | with_reducible apply Within.ite | with_reducible apply stays_next | with_reducible apply modPower_within
    | with_reducible apply modMnt_within | with_reducible apply Within.after (moment_within _ _)
    | with_reducible apply Within.after (useFree_within _) | with_reducible apply Within.after (dailyTune_within _)
    | with_reducible apply Within.after (marginTrip_within _ _) | with_reducible apply Within.after (tempDue_within _)

theorem reserveBlock_within (i : Fin 64) (s : State) : Within { cry := true, vault := true } s (reserveBlock i s) := by
  unfold reserveBlock
  repeat' first
    | with_reducible apply Within.rfl | with_reducible assumption | exact rfl
    | (extract_lets -underBinder -merge -useContext +onlyGivenNames x; refine Within.cut x (fun hx => ?_) ?_; (on_goal 1 => clear_value x); (on_goal 2 => (unfold x; clear x)))
    | with_reducible apply Within.ite | with_reducible apply modVault_within
    | with_reducible apply Within.after (modKey_within _ _ _) | split

theorem writeCopy_within (item : VaultItem) (ok : Bool) (s : State) : Within { vault := true } s (writeCopy item ok s) := by
  unfold writeCopy
  repeat' first
    | with_reducible apply Within.rfl | with_reducible assumption | exact rfl
    | (extract_lets -underBinder -merge -useContext +onlyGivenNames x; refine Within.cut x (fun hx => ?_) ?_; (on_goal 1 => clear_value x); (on_goal 2 => (unfold x; clear x)))
    | (extract_lets -underBinder -merge -useContext +onlyGivenNames x; clear_value x) | with_reducible apply Within.ite
    | with_reducible apply modVault_within

theorem storedItem_within (item : VaultItem) (cmds : List Nat) (s : State) : Within
    { hostq := true, tuners := true, slip := true, mp := true, cry := true, slots := true, mnt := true, vault := true } s
    (storedItem item cmds s) := by
  unfold storedItem
  repeat' first
    | with_reducible apply Within.rfl | with_reducible assumption | exact rfl
    | (with_reducible apply Within.foldl; on_goal 1 => (intro _ _))
    | (extract_lets -underBinder -merge -useContext +onlyGivenNames x; refine Within.cut x (fun hx => ?_) ?_; (on_goal 1 => clear_value x); (on_goal 2 => (unfold x; clear x)))
    | (extract_lets -underBinder -merge -useContext +onlyGivenNames x; clear_value x) | with_reducible apply Within.ite
    | with_reducible apply modMnt_within | with_reducible apply modVault_within | with_reducible apply modCry_within
    | with_reducible apply Within.after (closeStored_within _ _ _ _) | with_reducible apply Within.after (reserveBlock_within _ _)
    | with_reducible apply Within.after (modFiring_within _ _ _ _) | with_reducible apply Within.after (admitMessage_within _ _)
    | with_reducible apply Within.after (tagAll_within _) | with_reducible apply Within.after (finishId_within _ _ _ _) | split

theorem storeFailed_within (item : VaultItem) (cmds : List Nat) (s : State) : Within
    { hostq := true, tuners := true, slip := true, mp := true, slots := true, mnt := true } s (storeFailed item cmds s) := by
  unfold storeFailed
  repeat' first
    | with_reducible apply Within.rfl | with_reducible assumption | exact rfl
    | (extract_lets -underBinder -merge -useContext +onlyGivenNames x; refine Within.cut x (fun hx => ?_) ?_; (on_goal 1 => clear_value x); (on_goal 2 => (unfold x; clear x)))
    | (extract_lets -underBinder -merge -useContext +onlyGivenNames x; clear_value x) | with_reducible apply modMnt_within
    | with_reducible apply Within.after (rejectAll_within _ _ _) | with_reducible apply Within.after (modFiring_within _ _ _ _)
    | with_reducible apply Within.after (closeStored_within _ _ _ _) | split

theorem execVaultStoreDone_within (t : DT) (item : VaultItem) (ok : Bool) (s : State) : Stays
    { hostq := true, dt := true, tuners := true, slip := true, due := true, mp := true, cry := true, slots := true, mnt := true, vault := true }
    s (execVaultStoreDone t item ok s) := by
  unfold execVaultStoreDone
  repeat' first
    | with_reducible apply Within.rfl | with_reducible assumption | exact rfl
    | (extract_lets -underBinder -merge -useContext +onlyGivenNames x; refine Stays.cut x (fun hx => ?_) ?_; (on_goal 1 => clear_value x); (on_goal 2 => (unfold x; clear x)))
    | (extract_lets -underBinder -merge -useContext +onlyGivenNames x; refine Within.cut x (fun hx => ?_) ?_; (on_goal 1 => clear_value x); (on_goal 2 => (unfold x; clear x)))
    | (extract_lets -underBinder -merge -useContext +onlyGivenNames x; clear_value x) | with_reducible apply Stays.ite
    | with_reducible apply Within.ite | with_reducible apply stays_next | with_reducible apply modMnt_within
    | with_reducible apply Within.after (moment_within _ _) | with_reducible apply Within.after (writeCopy_within _ _ _)
    | with_reducible apply Within.after (storedItem_within _ _ _) | with_reducible apply Within.after (storeFailed_within _ _ _)
    | split

end Sys2Proof.Machine
end

