-- ==== Sys2Proof/Laws/Dormant.lean ====
section
/-!
SUPPORT. Laws/Dormant.lean: what each operation of Machine/Dormant.lean leaves as it was.
-/
namespace Sys2Proof.Machine

theorem abortReceived_within (s : State) (b : List Byte) : Within { hostq := true, mp := true } s (abortReceived s b) := by
  unfold abortReceived
  repeat' first
    | with_reducible apply Within.rfl | with_reducible assumption | exact rfl
    | with_reducible apply Within.after (mpResult_within _ _ _)

theorem abortNotBegun_within (s : State) : Within { hostq := true, due := true, paths := true, mp := true, slots := true } s
    (abortNotBegun s) := by
  unfold abortNotBegun
  repeat' first
    | with_reducible apply Within.rfl | with_reducible assumption | exact rfl
    | (with_reducible apply Within.foldl; on_goal 1 => (intro _ _))
    | (extract_lets -underBinder -merge -useContext +onlyGivenNames x; refine Within.cut x (fun hx => ?_) ?_; (on_goal 1 => clear_value x); (on_goal 2 => (unfold x; clear x)))
    | (extract_lets -underBinder -merge -useContext +onlyGivenNames x; clear_value x) | with_reducible apply modMp_within
    | with_reducible apply Within.after (withdraw_within _ _ _) | with_reducible apply Within.after (abortReceived_within _ _)

theorem settleDormant_within (s : State) : Within
    { hostq := true, clock := true, due := true, paths := true, port := true, mp := true, cry := true, slots := true, pair := true }
    s (settleDormant s) := by
  unfold settleDormant
  repeat' first
    | with_reducible apply Within.rfl | with_reducible assumption | exact rfl
    | (with_reducible apply Within.foldl; on_goal 1 => (intro _ _))
    | (extract_lets -underBinder -merge -useContext +onlyGivenNames x; refine Within.cut x (fun hx => ?_) ?_; (on_goal 1 => clear_value x); (on_goal 2 => (unfold x; clear x)))
    | (extract_lets -underBinder -merge -useContext +onlyGivenNames x; clear_value x) | with_reducible apply modPair_within
    | with_reducible apply Within.after (reject_within _ _ _) | with_reducible apply Within.after (endSlew_within _)
    | with_reducible apply Within.after (reclaim_within _ _ _)

theorem stopFirings_within (s : State) : Within { slip := true, mnt := true } s (stopFirings s) := by
  unfold stopFirings
  repeat' first
    | with_reducible apply Within.rfl | with_reducible assumption | exact rfl
    | (with_reducible apply Within.foldl; on_goal 1 => (intro _ _)) | with_reducible apply Within.ite
    | with_reducible apply Within.after (freeFiringSlip_within _ _)
    | with_reducible apply Within.after (modFiring_within _ _ _ _)

theorem restTuners_within (s : State) : Within { power := true, wb := true, tuners := true, slip := true, vault := true } s
    (restTuners s) := by
  unfold restTuners
  repeat' first
    | with_reducible apply Within.rfl | with_reducible assumption | exact rfl
    | (extract_lets -underBinder -merge -useContext +onlyGivenNames x; refine Within.cut x (fun hx => ?_) ?_; (on_goal 1 => clear_value x); (on_goal 2 => (unfold x; clear x)))
    | (extract_lets -underBinder -merge -useContext +onlyGivenNames x; clear_value x) | with_reducible apply modVault_within
    | with_reducible apply modRf_within | with_reducible apply modPower_within | exact .inl rfl | exact .inr fun _ => rfl
    | with_reducible apply Within.after (modSlip_within _ _)

theorem lowPins_within (s : State) : Within {} s (lowPins s) := by
  unfold lowPins
  repeat' first
    | with_reducible apply Within.rfl | with_reducible assumption | exact rfl
    | (with_reducible apply Within.foldl; on_goal 1 => (intro _ _)) | with_reducible apply Within.ite
    | with_reducible apply Within.after (emit_within _ _)

theorem restPorts_within (s : State) : Within { port := true } s (restPorts s) := by
  unfold restPorts
  repeat' first
    | with_reducible apply Within.rfl | with_reducible assumption | exact rfl | with_reducible apply Within.ite
    | with_reducible apply modPortSt_within | with_reducible apply Within.after (lowPins_within _)

theorem restLoop_within (s : State) : Within { dt := true, clock := true, mnt := true } s (restLoop s) := by
  unfold restLoop
  repeat' first
    | with_reducible apply Within.rfl | with_reducible assumption | exact rfl
    | (extract_lets -underBinder -merge -useContext +onlyGivenNames x; refine Within.cut x (fun hx => ?_) ?_; (on_goal 1 => clear_value x); (on_goal 2 => (unfold x; clear x)))
    | (extract_lets -underBinder -merge -useContext +onlyGivenNames x; clear_value x) | with_reducible apply Within.ite
    | with_reducible apply modTime_within | exact .inl rfl | exact .inr fun _ => rfl
    | with_reducible apply Within.after (setDisc_within _ _)

theorem stopPlls_within (s : State) : Within { power := true, clock := true } s (stopPlls s) := by
  unfold stopPlls
  repeat' first
    | with_reducible apply Within.rfl | with_reducible assumption | exact rfl | with_reducible apply modTime_within | exact .inl rfl
    | exact .inr fun _ => rfl | with_reducible apply Within.after (stopPll_within _ _)

theorem restSaggar_within (s : State) : Within
    { hostq := true, carvers := true, tuners := true, slip := true, due := true, paths := true, ctxs := true, mp := true, sg := true, cry := true, slots := true, mnt := true, vault := true }
    s (restSaggar s) := by
  unfold restSaggar
  repeat' first
    | with_reducible apply Within.rfl | with_reducible assumption | exact rfl
    | (with_reducible apply Within.foldl; on_goal 1 => (intro _ _)) | with_reducible apply modSg_within
    | with_reducible apply Within.after (cutJob_within _ _ _)

theorem enterDormant_within (s : State) : Within
    { power := true, hostq := true, hostr := true, dt := true, clock := true, wb := true, carvers := true, tuners := true, slip := true, due := true, paths := true, ctxs := true, cx := true, audio := true, port := true, mp := true, sg := true, cry := true, slots := true, mnt := true, pair := true, vault := true }
    s (enterDormant s) := by
  unfold enterDormant
  repeat' first
    | with_reducible apply Within.rfl | with_reducible assumption | exact rfl
    | (extract_lets -underBinder -merge -useContext +onlyGivenNames x; refine Within.cut x (fun hx => ?_) ?_; (on_goal 1 => clear_value x); (on_goal 2 => (unfold x; clear x)))
    | (extract_lets -underBinder -merge -useContext +onlyGivenNames x; clear_value x) | with_reducible apply modCx_within
    | with_reducible apply modMnt_within | with_reducible apply modHost_within | with_reducible apply modMp_within
    | with_reducible apply modPower_within | exact .inl rfl | exact .inr fun _ => rfl | exact fun _ b => b
    | with_reducible apply Within.after (settleDormant_within _) | with_reducible apply Within.after (holdAll_within _)
    | with_reducible apply Within.after (restPorts_within _) | with_reducible apply Within.after (restTuners_within _)
    | with_reducible apply Within.after (stopFirings_within _) | with_reducible apply Within.after (restSaggar_within _)
    | with_reducible apply Within.after (clearMessages_within _) | with_reducible apply Within.after (stopPlls_within _)
    | with_reducible apply Within.after (restLoop_within _)

theorem dormantCheck_within (s : State) : Within
    { power := true, hostq := true, due := true, paths := true, mp := true, slots := true }
    s (dormantCheck s) := by
  unfold dormantCheck
  repeat' first
    | with_reducible apply Within.rfl | with_reducible assumption | exact rfl | with_reducible apply Within.ite
    | with_reducible apply modPower_within | with_reducible apply Within.after (abortNotBegun_within _)

theorem execDormantReqHeld_within (t : DT) (s : State) : Stays
    { power := true, hostq := true, dt := true, clock := true, due := true, paths := true, mp := true, slots := true }
    s (execDormantReqHeld t s) := by
  unfold execDormantReqHeld
  repeat' first
    | with_reducible apply Within.rfl | with_reducible assumption | exact rfl | with_reducible apply stays_next
    | with_reducible apply modPower_within | with_reducible apply Within.after (dormantCheck_within _)
    | with_reducible apply Within.after (moment_within _ _)

end Sys2Proof.Machine
end

