-- ==== Sys2Proof/Laws/PairMode.lean ====
section
/-!
SUPPORT. Laws/PairMode.lean: what each operation of Machine/PairMode.lean leaves as it was.
-/
namespace Sys2Proof.Machine

theorem peerState_within (s : State) : Within { hostq := true, mp := true, slots := true } s (peerState s) := by
  unfold peerState
  repeat' first
    | with_reducible apply Within.rfl | with_reducible assumption | exact rfl
    | with_reducible apply Within.after (raise_within _ _ _)

theorem setLink_within (l : LinkState) (s : State) : Within { hostq := true, mp := true, slots := true, pair := true } s
    (setLink l s) := by
  unfold setLink
  repeat' first
    | with_reducible apply Within.rfl | with_reducible assumption | exact rfl | with_reducible apply Within.ite
    | with_reducible apply modPair_within | with_reducible apply Within.after (peerState_within _)

theorem retrain_within (m : BitVec 4) (s : State) : Within { hostq := true, mp := true, slots := true, pair := true } s (retrain
    m s) := by
  unfold retrain
  repeat' first
    | with_reducible apply Within.rfl | with_reducible assumption | exact rfl
    | (extract_lets -underBinder -merge -useContext +onlyGivenNames x; refine Within.cut x (fun hx => ?_) ?_; (on_goal 1 => clear_value x); (on_goal 2 => (unfold x; clear x)))
    | with_reducible apply modPair_within | with_reducible apply Within.after (setLink_within _ _)

theorem resumeStream_within (b : Bool) (s : State) : Within
    { carvers := true, pair := true } s
    (resumeStream b s) := by
  unfold resumeStream
  repeat' first
    | with_reducible apply Within.rfl | with_reducible assumption | exact rfl
    | (with_reducible apply Within.foldl; on_goal 1 => (intro _ _)) | with_reducible apply modPair_within
    | with_reducible apply Within.after (modCarver_within _ _ _)

theorem doPairJoin_within (h : Held) (s : State) : Within { hostq := true, mp := true, slots := true, pair := true } s
    (doPairJoin h s) := by
  unfold doPairJoin
  repeat' first
    | with_reducible apply Within.rfl | with_reducible assumption | exact rfl
    | (extract_lets -underBinder -merge -useContext +onlyGivenNames x; clear_value x) | with_reducible apply Within.ite
    | with_reducible apply modPair_within | with_reducible apply Within.after (reject_within _ _ _)
    | with_reducible apply Within.after (begin__within _ _)

theorem execPairJoin_within (e : Entry) (s : State) : Stays
    { hostq := true, dt := true, due := true, mp := true, slots := true, pair := true } s (execPairJoin e s) := by
  unfold execPairJoin
  repeat' first
    | with_reducible apply Within.rfl | with_reducible assumption | exact rfl | with_reducible apply stays_next
    | (with_reducible apply hostCmd_within; (on_goal 2 => (intro _ _)))
    | with_reducible apply Within.after (doPairJoin_within _ _)

theorem endJoin_within (j : Join) (st : Status) (s : State) : Within { hostq := true, mp := true, slots := true, pair := true }
    s (endJoin j st s) := by
  unfold endJoin
  repeat' first
    | with_reducible apply Within.rfl | with_reducible assumption | exact rfl | with_reducible apply modPair_within
    | with_reducible apply Within.after (rejectId_within _ _ _) | with_reducible apply Within.after (setLink_within _ _)

theorem alignDt_within (i : JoinInfo) (s : State) : Within
    { hostq := true, dt := true, clock := true, due := true, paths := true, ctxs := true, audio := true, port := true, mp := true, cry := true, slots := true, mnt := true, vault := true }
    s (alignDt i s) := by
  unfold alignDt
  repeat' first
    | with_reducible apply Within.rfl | with_reducible assumption | exact rfl | with_reducible apply Within.ite
    | with_reducible apply Within.after (stepDtAs_within _ _ _ _) | with_reducible apply Within.after (useFree_within _)

theorem followPrimary_within (s : State) : Within { hostq := true, dt := true, clock := true, due := true, paths := true, port := true, mp := true, slots := true, mnt := true } s (followPrimary s) := by
  unfold followPrimary
  repeat' first
    | with_reducible apply Within.rfl | with_reducible assumption | exact rfl | with_reducible apply Within.ite
    | with_reducible apply modTime_within | exact .inl rfl | exact .inr fun _ => rfl
    | with_reducible apply Within.after (setDisc_within _ _) | with_reducible apply Within.after (endSlew_within _)

theorem pairUp_within (mode role : Nat) (exports : BitVec 2) (i : JoinInfo) (s : State) : Within
    { hostq := true, dt := true, clock := true, due := true, paths := true, ctxs := true, cx := true, audio := true, port := true, mp := true, cry := true, slots := true, mnt := true, pair := true, vault := true }
    s (pairUp mode role exports i s) := by
  unfold pairUp
  repeat' first
    | with_reducible apply Within.rfl | with_reducible assumption | exact rfl
    | (extract_lets -underBinder -merge -useContext +onlyGivenNames x; refine Within.cut x (fun hx => ?_) ?_; (on_goal 1 => clear_value x); (on_goal 2 => (unfold x; clear x)))
    | (extract_lets -underBinder -merge -useContext +onlyGivenNames x; clear_value x) | with_reducible apply Within.ite
    | with_reducible apply modPair_within | with_reducible apply modCx_within | exact .inl rfl | exact .inr fun _ => rfl
    | with_reducible apply Within.after (followPrimary_within _) | with_reducible apply Within.after (alignDt_within _ _)
    | with_reducible apply Within.after (useFree_within _) | with_reducible apply Within.after (setLink_within _ _)

theorem armMirrors_within  (s : State) : Within { ctxs := true } s (armMirrors  s) := by
  unfold armMirrors
  repeat' first
    | with_reducible apply Within.rfl | with_reducible assumption | exact rfl | with_reducible apply Within.ite
    | with_reducible apply modCx_within | exact .inl rfl | exact .inr fun _ => rfl

theorem execPairJoinComplete_within (t : DT) (j : JoinInfo) (s : State) : Stays
    { hostq := true, dt := true, clock := true, due := true, paths := true, ctxs := true, cx := true, audio := true, port := true, mp := true, cry := true, slots := true, mnt := true, pair := true, vault := true }
    s (execPairJoinComplete t j s) := by
  unfold execPairJoinComplete
  repeat' first
    | with_reducible apply Within.rfl | with_reducible assumption | exact rfl
    | (extract_lets -underBinder -merge -useContext +onlyGivenNames x; refine Stays.cut x (fun hx => ?_) ?_; (on_goal 1 => clear_value x); (on_goal 2 => (unfold x; clear x)))
    | (extract_lets -underBinder -merge -useContext +onlyGivenNames x; refine Within.cut x (fun hx => ?_) ?_; (on_goal 1 => clear_value x); (on_goal 2 => (unfold x; clear x)))
    | (extract_lets -underBinder -merge -useContext +onlyGivenNames x; clear_value x) | with_reducible apply Stays.ite
    | with_reducible apply Within.ite | with_reducible apply stays_next | with_reducible apply Within.after (moment_within _ _)
    | with_reducible apply Within.after (setLink_within _ _) | with_reducible apply Within.after (endJoin_within _ _ _)
    | with_reducible apply Within.after (pairUp_within _ _ _ _ _) | with_reducible apply Within.after (finishId_within _ _ _ _)
    | with_reducible apply Within.after (armMirrors_within _) | split

theorem execPairJoinTimeout_within (t : DT) (s : State) : Stays
    { hostq := true, dt := true, due := true, mp := true, slots := true, pair := true } s (execPairJoinTimeout t s) := by
  unfold execPairJoinTimeout
  repeat' first
    | with_reducible apply Within.rfl | with_reducible assumption | exact rfl
    | (extract_lets -underBinder -merge -useContext +onlyGivenNames x; refine Stays.cut x (fun hx => ?_) ?_; (on_goal 1 => clear_value x); (on_goal 2 => (unfold x; clear x)))
    | with_reducible apply Stays.ite | with_reducible apply Within.ite | with_reducible apply stays_next
    | with_reducible apply Within.after (moment_within _ _) | with_reducible apply Within.after (endJoin_within _ _ _) | split

theorem resumeLoop_within (s : State) : Within
    { hostq := true, dt := true, clock := true, mp := true, slots := true, mnt := true } s (resumeLoop s) := by
  unfold resumeLoop
  repeat' first
    | with_reducible apply Within.rfl | with_reducible assumption | exact rfl
    | (extract_lets -underBinder -merge -useContext +onlyGivenNames x; refine Within.cut x (fun hx => ?_) ?_; (on_goal 1 => clear_value x); (on_goal 2 => (unfold x; clear x)))
    | with_reducible apply Within.ite | with_reducible apply Within.after (setDisc_within _ _)
    | with_reducible apply Within.after (enterHoldover_within _) | with_reducible apply Within.after (refinReturns_within _)
    | with_reducible apply Within.after (ppsReturns_within _)

theorem stopMirrors_within  (s : State) : Within { ctxs := true } s (stopMirrors  s) := by
  unfold stopMirrors
  repeat' first
    | with_reducible apply Within.rfl | with_reducible assumption | exact rfl | with_reducible apply modCx_within
    | exact .inl rfl | exact .inr fun _ => rfl

theorem dropPeerUnits_within (s : State) : Within { hostq := true, pair := true } s (dropPeerUnits s) := by
  unfold dropPeerUnits
  repeat' first
    | with_reducible apply Within.rfl | with_reducible assumption | exact rfl | with_reducible apply modPair_within
    | with_reducible apply Within.after (settle_within _ _ _)

theorem unpair_within (s : State) : Within
    { hostq := true, dt := true, clock := true, mp := true, slots := true, mnt := true, pair := true } s (unpair s) := by
  unfold unpair
  repeat' first
    | with_reducible apply Within.rfl | with_reducible assumption | exact rfl
    | (extract_lets -underBinder -merge -useContext +onlyGivenNames x; refine Within.cut x (fun hx => ?_) ?_; (on_goal 1 => clear_value x); (on_goal 2 => (unfold x; clear x)))
    | (extract_lets -underBinder -merge -useContext +onlyGivenNames x; clear_value x) | with_reducible apply Within.ite
    | with_reducible apply modPair_within | with_reducible apply Within.after (dropPeerUnits_within _)
    | with_reducible apply Within.after (setLink_within _ _) | with_reducible apply Within.after (resumeLoop_within _)

theorem losePeerStreams_within (s : State) : Within { hostq := true, carvers := true, tuners := true, slip := true, due := true, paths := true, ctxs := true, audio := true, mp := true, sg := true, cry := true, slots := true, mnt := true, pair := true, vault := true } s (losePeerStreams s) := by
  unfold losePeerStreams
  repeat' first
    | with_reducible apply Within.rfl | with_reducible assumption | exact rfl
    | with_reducible apply Within.after (stopStream_within _ _)

theorem endContexts_within (s : State) : Within
    { hostq := true, tuners := true, due := true, paths := true, ctxs := true, cx := true, audio := true, port := true, mp := true, cry := true, slots := true, mem := true, mnt := true, vault := true }
    s (endContexts s) := by
  unfold endContexts
  repeat' first
    | with_reducible apply Within.rfl | with_reducible assumption | exact rfl
    | (with_reducible apply Within.foldl; on_goal 1 => (intro _ _)) | with_reducible apply Within.ite
    | with_reducible apply Within.after (closeCtx_within _ _ _ _)

theorem returnAll_within (c : Fin 4) (st : Status) (n : Nat) (s : State) : Within { hostq := true, cry := true } s (returnAll c
    st n s) := by
  induction n generalizing s with
  | zero => exact Within.rfl
  | succ n ih =>
    unfold returnAll
    repeat' first
      | with_reducible apply Within.rfl | with_reducible assumption | exact rfl | with_reducible apply Within.after (ih _)
      | with_reducible apply Within.after (returnBuffer_within _ _ _)

theorem returnBuffers_within (st : Status) (s : State) : Within { hostq := true, cry := true } s (returnBuffers st s) := by
  unfold returnBuffers
  repeat' first
    | with_reducible apply Within.rfl | with_reducible assumption | exact rfl
    | (with_reducible apply Within.foldl; on_goal 1 => (intro _ _))
    | with_reducible apply Within.after (returnAll_within _ _ _ _)

theorem takeOver_within (s : State) : Within { hostq := true, mp := true, cry := true, slots := true, pair := true } s (takeOver
    s) := by
  unfold takeOver
  repeat' first
    | with_reducible apply Within.rfl | with_reducible assumption | exact rfl
    | (with_reducible apply Within.foldl; on_goal 1 => (intro _ _))
    | (extract_lets -underBinder -merge -useContext +onlyGivenNames x; refine Within.cut x (fun hx => ?_) ?_; (on_goal 1 => clear_value x); (on_goal 2 => (unfold x; clear x)))
    | (extract_lets -underBinder -merge -useContext +onlyGivenNames x; clear_value x) | with_reducible apply modPair_within
    | with_reducible apply Within.after (reject_within _ _ _) | with_reducible apply Within.after (returnBuffers_within _ _)

theorem peerUnits_within (s : State) : Within
    { hostq := true, mp := true, cry := true, slots := true, mnt := true, pair := true, vault := true } s (peerUnits s) := by
  unfold peerUnits
  repeat' first
    | with_reducible apply Within.rfl | with_reducible assumption | exact rfl
    | (extract_lets -underBinder -merge -useContext +onlyGivenNames x; refine Within.cut x (fun hx => ?_) ?_; (on_goal 1 => clear_value x); (on_goal 2 => (unfold x; clear x)))
    | (extract_lets -underBinder -merge -useContext +onlyGivenNames x; clear_value x) | with_reducible apply Within.ite
    | with_reducible apply modPair_within | with_reducible apply Within.after (useFree_within _)
    | with_reducible apply Within.after (post_within _ _ _) | with_reducible apply Within.after (settle_within _ _ _)
    | with_reducible apply Within.after (writeSherd_within _ _) | with_reducible apply Within.after (useMany_within _ _)

theorem losePeer_within (gone : Bool) (s : State) : Within
    { hostq := true, dt := true, clock := true, carvers := true, tuners := true, slip := true, due := true, paths := true, ctxs := true, cx := true, audio := true, port := true, mp := true, sg := true, cry := true, slots := true, mem := true, mnt := true, pair := true, vault := true }
    s (losePeer gone s) := by
  unfold losePeer
  repeat' first
    | with_reducible apply Within.rfl | with_reducible assumption | exact rfl
    | (with_reducible apply Within.foldl; on_goal 1 => (intro _ _))
    | (extract_lets -underBinder -merge -useContext +onlyGivenNames x; refine Within.cut x (fun hx => ?_) ?_; (on_goal 1 => clear_value x); (on_goal 2 => (unfold x; clear x)))
    | (extract_lets -underBinder -merge -useContext +onlyGivenNames x; clear_value x) | with_reducible apply Within.ite
    | with_reducible apply modPair_within | with_reducible apply Within.after (resumeLoop_within _)
    | with_reducible apply Within.after (takeOver_within _) | with_reducible apply Within.after (stopMirrors_within _)
    | with_reducible apply Within.after (setLink_within _ _) | with_reducible apply Within.after (faultSherd_within _ _ _ _ _)
    | with_reducible apply Within.after (losePeerStreams_within _) | with_reducible apply Within.after (dropPeerUnits_within _)
    | with_reducible apply Within.after (peersLeave_within _ _) | with_reducible apply Within.after (reject_within _ _ _)
    | with_reducible apply Within.after (unpair_within _) | with_reducible apply Within.after (endContexts_within _)

theorem execPeerHeartbeatLost_within (t : DT) (s : State) : Stays
    { power := true, hostq := true, hostr := true, dt := true, clock := true, wb := true, carvers := true, tuners := true, slip := true, due := true, paths := true, ctxs := true, cx := true, audio := true, port := true, mp := true, sg := true, cry := true, slots := true, mem := true, mnt := true, pair := true, vault := true }
    s (execPeerHeartbeatLost t s) := by
  unfold execPeerHeartbeatLost
  repeat' first
    | with_reducible apply Within.rfl | with_reducible assumption | exact rfl
    | (extract_lets -underBinder -merge -useContext +onlyGivenNames x; refine Stays.cut x (fun hx => ?_) ?_; (on_goal 1 => clear_value x); (on_goal 2 => (unfold x; clear x)))
    | (extract_lets -underBinder -merge -useContext +onlyGivenNames x; refine Within.cut x (fun hx => ?_) ?_; (on_goal 1 => clear_value x); (on_goal 2 => (unfold x; clear x)))
    | (extract_lets -underBinder -merge -useContext +onlyGivenNames x; clear_value x) | with_reducible apply Stays.ite
    | with_reducible apply Within.ite | with_reducible apply stays_next | with_reducible apply modPair_within
    | with_reducible apply Within.after (moment_within _ _) | with_reducible apply Within.after (endJoin_within _ _ _)
    | with_reducible apply Within.after (dormantCheck_within _) | with_reducible apply Within.after (losePeer_within _ _) | split

theorem execLinkTrainTimeout_within (t : DT) (s : State) : Stays
    { power := true, hostq := true, hostr := true, dt := true, clock := true, wb := true, carvers := true, tuners := true, slip := true, due := true, paths := true, ctxs := true, cx := true, audio := true, port := true, mp := true, sg := true, cry := true, slots := true, mem := true, mnt := true, pair := true, vault := true }
    s (execLinkTrainTimeout t s) := by
  unfold execLinkTrainTimeout
  repeat' first
    | with_reducible apply Within.rfl | with_reducible assumption | exact rfl
    | (extract_lets -underBinder -merge -useContext +onlyGivenNames x; refine Stays.cut x (fun hx => ?_) ?_; (on_goal 1 => clear_value x); (on_goal 2 => (unfold x; clear x)))
    | (extract_lets -underBinder -merge -useContext +onlyGivenNames x; refine Within.cut x (fun hx => ?_) ?_; (on_goal 1 => clear_value x); (on_goal 2 => (unfold x; clear x)))
    | (extract_lets -underBinder -merge -useContext +onlyGivenNames x; clear_value x) | with_reducible apply Stays.ite
    | with_reducible apply Within.ite | with_reducible apply stays_next | with_reducible apply Within.after (moment_within _ _)
    | with_reducible apply Within.after (dormantCheck_within _) | with_reducible apply Within.after (losePeer_within _ _)

theorem doPairLeave_within (h : Held) (s : State) : Within
    { hostq := true, dt := true, clock := true, tuners := true, due := true, paths := true, ctxs := true, cx := true, audio := true, port := true, mp := true, cry := true, slots := true, mem := true, mnt := true, pair := true, vault := true }
    s (doPairLeave h s) := by
  unfold doPairLeave
  repeat' first
    | with_reducible apply Within.rfl | with_reducible assumption | exact rfl
    | (extract_lets -underBinder -merge -useContext +onlyGivenNames x; refine Within.cut x (fun hx => ?_) ?_; (on_goal 1 => clear_value x); (on_goal 2 => (unfold x; clear x)))
    | with_reducible apply Within.ite | with_reducible apply modCx_within | exact .inl rfl | exact .inr fun _ => rfl
    | with_reducible apply Within.after (reject_within _ _ _) | with_reducible apply Within.after (emit_within _ _)
    | with_reducible apply Within.after (endContexts_within _) | with_reducible apply Within.after (stopMirrors_within _)
    | with_reducible apply Within.after (finishC_within _ _) | with_reducible apply Within.after (unpair_within _)

theorem execPairLeave_within (e : Entry) (s : State) : Stays
    { power := true, hostq := true, hostr := true, dt := true, clock := true, wb := true, carvers := true, tuners := true, slip := true, due := true, paths := true, ctxs := true, cx := true, audio := true, port := true, mp := true, sg := true, cry := true, slots := true, mem := true, mnt := true, pair := true, vault := true }
    s (execPairLeave e s) := by
  unfold execPairLeave
  repeat' first
    | with_reducible apply Within.rfl | with_reducible assumption | exact rfl
    | (with_reducible apply hostCmd_within; (on_goal 2 => (intro _ _))) | with_reducible apply stays_next
    | with_reducible apply Within.after (dormantCheck_within _) | with_reducible apply Within.after (doPairLeave_within _ _)

theorem execWalvalLaneLoss_within (t : DT) (lane : Fin 4) (s : State) : Stays
    { hostq := true, dt := true, carvers := true, tuners := true, slip := true, due := true, paths := true, ctxs := true, audio := true, mp := true, sg := true, cry := true, slots := true, mnt := true, pair := true, vault := true }
    s (execWalvalLaneLoss t lane s) := by
  unfold execWalvalLaneLoss
  repeat' first
    | with_reducible apply Within.rfl | with_reducible assumption | exact rfl
    | (extract_lets -underBinder -merge -useContext +onlyGivenNames x; refine Stays.cut x (fun hx => ?_) ?_; (on_goal 1 => clear_value x); (on_goal 2 => (unfold x; clear x)))
    | (extract_lets -underBinder -merge -useContext +onlyGivenNames x; refine Within.cut x (fun hx => ?_) ?_; (on_goal 1 => clear_value x); (on_goal 2 => (unfold x; clear x)))
    | (extract_lets -underBinder -merge -useContext +onlyGivenNames x; clear_value x) | with_reducible apply Stays.ite
    | with_reducible apply Within.ite | with_reducible apply stays_next | with_reducible apply modPair_within
    | with_reducible apply Within.after (moment_within _ _) | with_reducible apply Within.after (retrain_within _ _)
    | with_reducible apply Within.after (stopStream_within _ _) | with_reducible apply Within.after (faultSherd_within _ _ _ _ _)

theorem execWalvalLaneRetry_within (t : DT) (lane : Fin 4) (pass : Bool) (s : State) : Stays
    { hostq := true, dt := true, carvers := true, due := true, mp := true, slots := true, pair := true }
    s (execWalvalLaneRetry t lane pass s) := by
  unfold execWalvalLaneRetry
  repeat' first
    | with_reducible apply Within.rfl | with_reducible assumption | exact rfl
    | (extract_lets -underBinder -merge -useContext +onlyGivenNames x; refine Stays.cut x (fun hx => ?_) ?_; (on_goal 1 => clear_value x); (on_goal 2 => (unfold x; clear x)))
    | (extract_lets -underBinder -merge -useContext +onlyGivenNames x; refine Within.cut x (fun hx => ?_) ?_; (on_goal 1 => clear_value x); (on_goal 2 => (unfold x; clear x)))
    | (extract_lets -underBinder -merge -useContext +onlyGivenNames x; clear_value x) | with_reducible apply Stays.ite
    | with_reducible apply Within.ite | with_reducible apply stays_next | with_reducible apply modPair_within
    | with_reducible apply Within.after (moment_within _ _) | with_reducible apply Within.after (retrain_within _ _)
    | with_reducible apply Within.after (resumeStream_within _ _)

theorem doPairStatus_within (h : Held) (s : State) : Within { hostq := true, mp := true, slots := true } s (doPairStatus h s) :=
    by
  unfold doPairStatus
  repeat' first
    | with_reducible apply Within.rfl | with_reducible assumption | exact rfl
    | (extract_lets -underBinder -merge -useContext +onlyGivenNames x; clear_value x)
    | with_reducible apply Within.after (finish_within _ _ _ _)

theorem execPairStatus_within (e : Entry) (s : State) : Stays
    { hostq := true, dt := true, due := true, mp := true, slots := true } s (execPairStatus e s) := by
  unfold execPairStatus
  repeat' first
    | with_reducible apply Within.rfl | with_reducible assumption | exact rfl | with_reducible apply stays_next
    | (with_reducible apply hostCmd_within; (on_goal 2 => (intro _ _)))
    | with_reducible apply Within.after (doPairStatus_within _ _)

theorem doPairMirror_within (h : Held) (s : State) : Within { hostq := true, mp := true, slots := true } s (doPairMirror h s) :=
    by
  unfold doPairMirror
  repeat' first
    | with_reducible apply Within.rfl | with_reducible assumption | exact rfl | with_reducible apply Within.ite
    | with_reducible apply Within.after (park_within _ _ _) | with_reducible apply Within.after (reject_within _ _ _) | split

theorem execPairMirror_within (e : Entry) (s : State) : Stays
    { hostq := true, dt := true, due := true, mp := true, slots := true } s (execPairMirror e s) := by
  unfold execPairMirror
  repeat' first
    | with_reducible apply Within.rfl | with_reducible assumption | exact rfl | with_reducible apply stays_next
    | (with_reducible apply hostCmd_within; (on_goal 2 => (intro _ _)))
    | with_reducible apply Within.after (doPairMirror_within _ _)

theorem execPairDtMarker_within (t : DT) (offsetPs : Int) (s : State) : Stays
    { hostq := true, dt := true, clock := true, due := true, pair := true } s (execPairDtMarker t offsetPs s) := by
  unfold execPairDtMarker
  repeat' first
    | with_reducible apply Within.rfl | with_reducible assumption | exact rfl
    | (extract_lets -underBinder -merge -useContext +onlyGivenNames x; refine Stays.cut x (fun hx => ?_) ?_; (on_goal 1 => clear_value x); (on_goal 2 => (unfold x; clear x)))
    | (extract_lets -underBinder -merge -useContext +onlyGivenNames x; refine Within.cut x (fun hx => ?_) ?_; (on_goal 1 => clear_value x); (on_goal 2 => (unfold x; clear x)))
    | (extract_lets -underBinder -merge -useContext +onlyGivenNames x; clear_value x) | with_reducible apply Stays.ite
    | with_reducible apply Within.ite | with_reducible apply stays_next | with_reducible apply modTime_within
    | with_reducible apply modPair_within | exact .inl rfl | exact .inr fun _ => rfl
    | with_reducible apply Within.after (moment_within _ _) | with_reducible apply Within.after (useFree_within _)

end Sys2Proof.Machine
end

