-- ==== Sys2Proof/Laws/Power.lean ====
section
/-!
SUPPORT. Laws/Power.lean: what each operation of Machine/Power.lean leaves as it was.
-/
namespace Sys2Proof.Machine

theorem orphanJobs_within  (s : State) : Within { sg := true } s (orphanJobs  s) := by
  unfold orphanJobs
  repeat' first
    | with_reducible apply Within.rfl | with_reducible assumption | exact rfl | with_reducible apply Within.ite
    | with_reducible apply modSg_within

theorem coldHost_balanced (keepLink : Bool) (h : HostIf) : Balanced (coldHost keepLink h) := by
  intro c
  cases keepLink <;> fin_cases c <;> exact ⟨rfl, rfl⟩

theorem clearBlocks_within (keepLink : Bool) (s : State) : Within
    { ident := true, hostq := true, hostr := true, wb := true, carvers := true, tuners := true, slip := true, due := true, paths := true, ctxs := true, cx := true, audio := true, port := true, sg := true, cry := true, slots := true, mem := true, mnt := true, pair := true } s (clearBlocks keepLink s) := by
  unfold clearBlocks
  repeat' first
    | with_reducible apply Within.rfl | with_reducible assumption | exact rfl
    | (extract_lets -underBinder -merge -useContext +onlyGivenNames x; refine Within.cut x (fun hx => ?_) ?_; (on_goal 1 => clear_value x); (on_goal 2 => (unfold x; clear x)))
    | with_reducible apply modRf_within | with_reducible apply modCx_within | with_reducible apply modAudio_within
    | with_reducible apply modPortSt_within | with_reducible apply modMem_within | with_reducible apply modMnt_within
    | with_reducible apply modPair_within | with_reducible apply modHost_within | with_reducible apply modIdent_within
    | with_reducible apply modCry_within | exact .inl rfl | exact fun _ => ⟨rfl, rfl, rfl, rfl, rfl⟩
    | exact fun _ _ => coldHost_balanced _ _ | with_reducible apply Within.after (orphanJobs_within _)

theorem enterRecovery_within (s : State) : Within
    { ident := true, power := true, hostq := true, hostr := true, clock := true, wb := true, carvers := true, tuners := true, slip := true, due := true, paths := true, ctxs := true, cx := true, audio := true, port := true, sg := true, cry := true, slots := true, mem := true, mnt := true, pair := true }
    s (enterRecovery s) := by
  unfold enterRecovery
  repeat' first
    | with_reducible apply Within.rfl | with_reducible assumption | exact rfl | with_reducible apply modPower_within
    | with_reducible apply Within.after (stopPlls_within _) | with_reducible apply Within.after (clearBlocks_within _ _)

theorem enterHalted_within (s : State) : Within
    { ident := true, power := true, hostq := true, hostr := true, clock := true, wb := true, carvers := true, tuners := true, slip := true, due := true, paths := true, ctxs := true, cx := true, audio := true, port := true, mp := true, sg := true, cry := true, slots := true, mem := true, mnt := true, pair := true, vault := true }
    s (enterHalted s) := by
  unfold enterHalted
  repeat' first
    | with_reducible apply Within.rfl | with_reducible assumption | exact rfl
    | (extract_lets -underBinder -merge -useContext +onlyGivenNames x; refine Within.cut x (fun hx => ?_) ?_; (on_goal 1 => clear_value x); (on_goal 2 => (unfold x; clear x)))
    | (extract_lets -underBinder -merge -useContext +onlyGivenNames x; clear_value x) | with_reducible apply Within.ite
    | with_reducible apply modPower_within | with_reducible apply Within.after (stopSaggar_within _ _)
    | with_reducible apply Within.after (haltJobs_within _) | with_reducible apply Within.after (stopPlls_within _)
    | with_reducible apply Within.after (clearBlocks_within _ _)

theorem failStart_within {again : State → State} (ha : ∀ u, Within Parts.all u (again u))
    (fromRecovery : Bool) (cause : Nat) (s : State) : Within Parts.all s (failStart again fromRecovery cause s) := by
  unfold failStart
  extract_lets u
  have hu : Within Parts.all s u := (modPower_within (m := { power := true }) _ rfl .rfl).widen rfl
  exact hu.trans (Within.ite ((enterRecovery_within u).widen rfl) (ha u))

theorem reachRunning_within (s : State) : Within
    { power := true, hostq := true, due := true, paths := true, mp := true, slots := true }
    s (reachRunning s) := by
  unfold reachRunning
  repeat' first
    | with_reducible apply Within.rfl | with_reducible assumption | exact rfl | with_reducible apply modPower_within
    | with_reducible apply Within.after (dormantCheck_within _)

theorem clocksUp_within (s : State) : Within { clock := true } s (clocksUp s) := by
  unfold clocksUp
  repeat' first
    | with_reducible apply Within.rfl | with_reducible assumption | exact rfl
    | (extract_lets -underBinder -merge -useContext +onlyGivenNames x; clear_value x) | with_reducible apply Within.ite
    | with_reducible apply modTime_within | exact .inl rfl | exact .inr fun _ => rfl

theorem calibrateInputs_within (s : State) : Within { wb := true } s (calibrateInputs s) := by
  unfold calibrateInputs
  repeat' first
    | with_reducible apply Within.rfl | with_reducible assumption | exact rfl | with_reducible apply modRf_within | exact .inl rfl
    | exact .inr fun _ => rfl | with_reducible apply Within.after (useMany_within _ _)

theorem frontEndUp_within (s : State) : Within { wb := true, tuners := true, slip := true } s (frontEndUp s) := by
  unfold frontEndUp
  repeat' first
    | with_reducible apply Within.rfl | with_reducible assumption | exact rfl
    | (extract_lets -underBinder -merge -useContext +onlyGivenNames x; refine Within.cut x (fun hx => ?_) ?_; (on_goal 1 => clear_value x); (on_goal 2 => (unfold x; clear x)))
    | (extract_lets -underBinder -merge -useContext +onlyGivenNames x; clear_value x) | with_reducible apply Within.ite
    | with_reducible apply modRf_within | exact .inl rfl | exact .inr fun _ => rfl
    | with_reducible apply Within.after (calibrateInputs_within _)

theorem memoryUp_within (s : State) : Within { mem := true } s (memoryUp s) := by
  unfold memoryUp
  repeat' first
    | with_reducible apply Within.rfl | with_reducible assumption | exact rfl
    | (extract_lets -underBinder -merge -useContext +onlyGivenNames x; clear_value x) | with_reducible apply modMem_within
    | exact .inl rfl | exact .inr fun _ => rfl

theorem scheduleUp_within (s : State) : Within { mnt := true } s (scheduleUp s) := by
  unfold scheduleUp
  dsimp only
  repeat' first
    | with_reducible apply Within.rfl | with_reducible assumption | exact rfl | with_reducible apply Within.ite
    | with_reducible apply modMnt_within

theorem keysUp_within (s : State) : Within { cry := true } s (keysUp s) := by
  unfold keysUp
  repeat' first
    | with_reducible apply Within.rfl | with_reducible assumption | exact rfl
    | (extract_lets -underBinder -merge -useContext +onlyGivenNames x; clear_value x) | with_reducible apply modCry_within

theorem openingGap_within (s : State) (x : Nat × Nat) : Within
    { hostq := true, mp := true, cry := true, slots := true, mnt := true, vault := true } s (openingGap s x) := by
  unfold openingGap
  repeat' first
    | with_reducible apply Within.rfl | with_reducible assumption | exact rfl
    | with_reducible apply Within.after (gapSherd_within _ _ _ _ _ _ _ _ _)

theorem openLog_within (s : State) : Within
    { hostq := true, mp := true, cry := true, slots := true, mnt := true, vault := true } s (openLog s) := by
  unfold openLog
  repeat' first
    | with_reducible apply Within.rfl | with_reducible assumption | exact rfl
    | (with_reducible apply Within.foldl; on_goal 1 => (intro _ _))
    | (extract_lets -underBinder -merge -useContext +onlyGivenNames x; refine Within.cut x (fun hx => ?_) ?_; (on_goal 1 => clear_value x); (on_goal 2 => (unfold x; clear x)))
    | (extract_lets -underBinder -merge -useContext +onlyGivenNames x; clear_value x) | with_reducible apply modCry_within
    | with_reducible apply Within.after (openingGap_within _ _) | (intro _ _; simp [LedgerRow.Balanced])
    | with_reducible apply Within.after (modRow_within _ _ _)

theorem announceKeys_within (s : State) : Within
    { hostq := true, mp := true, cry := true, slots := true, mnt := true, vault := true } s (announceKeys s) := by
  unfold announceKeys
  repeat' first
    | with_reducible apply Within.rfl | with_reducible assumption | exact rfl
    | (with_reducible apply Within.foldl; on_goal 1 => (intro _ _))
    | with_reducible apply Within.after (keySherd_within _ _ _ _) | split

theorem surviveSaggar_within (s : State) : Within { hostq := true, mp := true, sg := true, slots := true } s (surviveSaggar s)
    := by
  unfold surviveSaggar
  repeat' first
    | with_reducible apply Within.rfl | with_reducible assumption | exact rfl
    | (extract_lets -underBinder -merge -useContext +onlyGivenNames x; refine Within.cut x (fun hx => ?_) ?_; (on_goal 1 => clear_value x); (on_goal 2 => (unfold x; clear x)))
    | (extract_lets -underBinder -merge -useContext +onlyGivenNames x; clear_value x) | with_reducible apply Within.ite
    | with_reducible apply modSg_within | (intro _ _; simp [LedgerRow.Balanced])
    | with_reducible apply Within.after (modRow_within _ _ _)
    | with_reducible apply Within.after (legalSherd_within _ _ _ _ _ _ _)

theorem beginCold_within (fromRecovery : Bool) (keepLink : Bool) (s : State) : Within
    { ident := true, power := true, hostq := true, hostr := true, dt := true, clock := true, wb := true, carvers := true, tuners := true, slip := true, due := true, paths := true, ctxs := true, cx := true, audio := true, port := true, mp := true, sg := true, cry := true, slots := true, mem := true, mnt := true, pair := true }
    s (beginCold fromRecovery keepLink s) := by
  unfold beginCold
  repeat' first
    | with_reducible apply Within.rfl | with_reducible assumption | exact rfl
    | (extract_lets -underBinder -merge -useContext +onlyGivenNames x; refine Within.cut x (fun hx => ?_) ?_; (on_goal 1 => clear_value x); (on_goal 2 => (unfold x; clear x)))
    | with_reducible apply modPower_within | with_reducible apply modTime_within | with_reducible apply modMp_within
    | with_reducible apply modSg_within | exact .inl rfl | exact .inr fun _ => rfl
    | with_reducible apply Within.after (clearBlocks_within _ _)

theorem newEpoch_within (s : State) : Within
    { hostq := true, hostr := true, mp := true, sg := true, slots := true, vault := true } s (newEpoch s) := by
  unfold newEpoch
  repeat' first
    | with_reducible apply Within.rfl | with_reducible assumption | exact rfl
    | (extract_lets -underBinder -merge -useContext +onlyGivenNames x; clear_value x) | with_reducible apply modHost_within
    | with_reducible apply modVault_within | exact .inl rfl | exact .inr fun _ => rfl | exact fun _ b => b
    | with_reducible apply Within.after (surviveSaggar_within _)

theorem coldTail_within {again : State → State} (ha : ∀ u, Within Parts.all u (again u))
    (fromRecovery : Bool) (secver : Nat) (s : State) : Within Parts.all s (coldTail again fromRecovery secver s) := by
  unfold coldTail
  repeat' first
    | with_reducible apply Within.rfl | with_reducible assumption | exact rfl
    | (extract_lets -underBinder -merge -useContext +onlyGivenNames x; refine Within.cut x (fun hx => ?_) ?_; (on_goal 1 => clear_value x); (on_goal 2 => (unfold x; clear x)))
    | with_reducible apply Within.ite | with_reducible apply modPower_within | with_reducible apply modIdent_within
    | exact fun _ => ⟨rfl, rfl, rfl, rfl, rfl⟩
    | with_reducible apply Within.after (failStart_within ha _ _ _) | with_reducible apply Within.after (reachRunning_within _)
    | with_reducible apply Within.after (announceKeys_within _) | with_reducible apply Within.after (openLog_within _)
    | with_reducible apply Within.after (keysUp_within _) | with_reducible apply Within.after (scheduleUp_within _)
    | with_reducible apply Within.after (frontEndUp_within _) | with_reducible apply Within.after (clocksUp_within _)

theorem coldSteps_within {again : State → State} (ha : ∀ u, Within Parts.all u (again u))
    (fromRecovery : Bool) (img : Option Nat) (s : State) : Within Parts.all s (coldSteps again fromRecovery img s) := by
  unfold coldSteps
  extract_lets b
  clear_value b
  repeat' first
    | with_reducible apply Within.rfl | with_reducible assumption | exact rfl
    | (extract_lets -underBinder -merge -useContext +onlyGivenNames x; refine Within.cut x (fun hx => ?_) ?_; (on_goal 1 => clear_value x); (on_goal 2 => (unfold x; clear x)))
    | with_reducible apply Within.ite | with_reducible apply modPower_within
    | with_reducible apply Within.after (failStart_within ha _ _ _) | with_reducible apply Within.after (coldTail_within ha _ _ _)
    | with_reducible apply Within.after (enterHalted_within _) | with_reducible apply Within.after (enterRecovery_within _)
    | with_reducible apply Within.after (newEpoch_within _) | with_reducible apply Within.after (memoryUp_within _) | split

theorem coldStart_within (n : Nat) (fromRecovery keepLink : Bool) (img : Option Nat) (s : State) :
    Within Parts.all s (coldStart n fromRecovery keepLink img s) := by
  induction n generalizing fromRecovery keepLink img s with
  | zero =>
    exact ((beginCold_within _ _ _).widen rfl).trans (coldSteps_within (fun u => (enterRecovery_within u).widen rfl) _ _ _)
  | succ n ih => exact ((beginCold_within _ _ _).widen rfl).trans (coldSteps_within (fun u => ih _ _ _ u) _ _ _)

theorem orderedCold_within (s : State) : Within Parts.all s (orderedCold s) := coldStart_within _ _ _ _ _

theorem failRunning_within (cause : Nat) (s : State) : Within Parts.all s (failRunning cause s) :=
  failStart_within orderedCold_within _ _ _

theorem warmTime_within (s : State) : Within { hostq := true, clock := true, mp := true, slots := true, mnt := true } s
    (warmTime s) := by
  unfold warmTime
  repeat' first
    | with_reducible apply Within.rfl | with_reducible assumption | exact rfl
    | (extract_lets -underBinder -merge -useContext +onlyGivenNames x; refine Within.cut x (fun hx => ?_) ?_; (on_goal 1 => clear_value x); (on_goal 2 => (unfold x; clear x)))
    | (extract_lets -underBinder -merge -useContext +onlyGivenNames x; clear_value x) | with_reducible apply Within.ite
    | with_reducible apply modTime_within | exact .inl rfl | exact .inr fun _ => rfl
    | with_reducible apply Within.after (endPllSeq_within _ _) | with_reducible apply Within.after (useFree_within _) | split

theorem warmRf_within (s : State) : Within { carvers := true, tuners := true, slip := true } s (warmRf s) := by
  unfold warmRf
  repeat' first
    | with_reducible apply Within.rfl | with_reducible assumption | exact rfl | with_reducible apply modRf_within | exact .inl rfl
    | exact .inr fun _ => rfl

theorem dropPartials_within (s : State) (u : Sub) : Within { hostq := true, cx := true } s (dropPartials s u) := by
  unfold dropPartials
  repeat' first
    | with_reducible apply Within.rfl | with_reducible assumption | exact rfl
    | (extract_lets -underBinder -merge -useContext +onlyGivenNames x; refine Within.cut x (fun hx => ?_) ?_; (on_goal 1 => clear_value x); (on_goal 2 => (unfold x; clear x)))
    | (extract_lets -underBinder -merge -useContext +onlyGivenNames x; clear_value x) | with_reducible apply Within.ite
    | with_reducible apply Within.after (modSub_within _ _ _) | with_reducible apply Within.after (modRing_within _ _ _) | split

theorem warmContexts_within (s : State) : Within
    { hostq := true, due := true, paths := true, ctxs := true, cx := true, mp := true, slots := true } s (warmContexts s) := by
  unfold warmContexts
  repeat' first
    | with_reducible apply Within.rfl | with_reducible assumption | exact rfl
    | (with_reducible apply Within.foldl; on_goal 1 => (intro _ _)) | with_reducible apply modCx_within | exact .inl rfl
    | exact .inr fun _ => rfl | with_reducible apply Within.after (declineSwitch_within _ _ _)
    | with_reducible apply Within.after (dropPartials_within _ _) | with_reducible apply Within.after (resetPath_within _ _)

theorem warmService_within (s : State) (v : Fin 96) : Within
    { hostq := true, audio := true, mp := true, cry := true, slots := true, mnt := true, vault := true } s (warmService s v) :=
    by
  unfold warmService
  repeat' first
    | with_reducible apply Within.rfl | with_reducible assumption | exact rfl
    | (extract_lets -underBinder -merge -useContext +onlyGivenNames x; refine Within.cut x (fun hx => ?_) ?_; (on_goal 1 => clear_value x); (on_goal 2 => (unfold x; clear x)))
    | (extract_lets -underBinder -merge -useContext +onlyGivenNames x; clear_value x)
    | with_reducible apply Within.after (endItem_within _ _ _ _) | with_reducible apply Within.after (modSvc_within _ _ _)

theorem warmAudio_within (s : State) : Within
    { hostq := true, audio := true, mp := true, cry := true, slots := true, mnt := true, vault := true } s (warmAudio s) := by
  unfold warmAudio
  repeat' first
    | with_reducible apply Within.rfl | with_reducible assumption | exact rfl
    | (with_reducible apply Within.foldl; on_goal 1 => (intro _ _)) | with_reducible apply Within.after (warmService_within _ _)

theorem warmPorts_within (s : State) : Within
    { port := true } s (warmPorts s) := by
  unfold warmPorts
  repeat' first
    | with_reducible apply Within.rfl | with_reducible assumption | exact rfl
    | (extract_lets -underBinder -merge -useContext +onlyGivenNames x; refine Within.cut x (fun hx => ?_) ?_; (on_goal 1 => clear_value x); (on_goal 2 => (unfold x; clear x)))
    | (extract_lets -underBinder -merge -useContext +onlyGivenNames x; clear_value x) | with_reducible apply modPortSt_within

theorem warmFirings_within (s : State) : Within { tuners := true, slip := true, mnt := true } s (warmFirings s) := by
  unfold warmFirings
  repeat' first
    | with_reducible apply Within.rfl | with_reducible assumption | exact rfl | with_reducible apply modRf_within
    | exact .inl rfl | exact .inr fun _ => rfl | with_reducible apply Within.after (stopFirings_within _)

theorem warmCalibration_within (dieTemp : Int) (s : State) : Within { power := true, wb := true, slip := true, mnt := true } s
    (warmCalibration dieTemp s) := by
  unfold warmCalibration
  repeat' first
    | with_reducible apply Within.rfl | with_reducible assumption | exact rfl
    | (extract_lets -underBinder -merge -useContext +onlyGivenNames x; refine Within.cut x (fun hx => ?_) ?_; (on_goal 1 => clear_value x); (on_goal 2 => (unfold x; clear x)))
    | (extract_lets -underBinder -merge -useContext +onlyGivenNames x; clear_value x) | with_reducible apply Within.ite
    | with_reducible apply modPower_within | with_reducible apply modMnt_within | with_reducible apply modRf_within | exact .inl rfl
    | exact .inr fun _ => rfl | with_reducible apply Within.after (calibrateInputs_within _)

theorem warmBlocks_within (dieTemp : Int) (s : State) : Within
    { power := true, hostq := true, clock := true, wb := true, carvers := true, tuners := true, slip := true, due := true, paths := true, ctxs := true, cx := true, audio := true, port := true, mp := true, cry := true, slots := true, mnt := true, vault := true }
    s (warmBlocks dieTemp s) := by
  unfold warmBlocks
  repeat' first
    | with_reducible apply Within.rfl | with_reducible assumption | exact rfl
    | (extract_lets -underBinder -merge -useContext +onlyGivenNames x; refine Within.cut x (fun hx => ?_) ?_; (on_goal 1 => clear_value x); (on_goal 2 => (unfold x; clear x)))
    | with_reducible apply Within.after (warmCalibration_within _ _)
    | with_reducible apply Within.after (clearMessages_within _) | with_reducible apply Within.after (warmRf_within _)
    | with_reducible apply Within.after (warmTime_within _) | with_reducible apply Within.after (warmFirings_within _)
    | with_reducible apply Within.after (warmPorts_within _) | with_reducible apply Within.after (warmAudio_within _)
    | with_reducible apply Within.after (warmContexts_within _)

theorem zeroCut_within (s : State) (m : GlazeMsg) : Within {} s (zeroCut s m) := by
  unfold zeroCut
  repeat' first
    | with_reducible apply Within.rfl | with_reducible assumption | exact rfl
    | (extract_lets -underBinder -merge -useContext +onlyGivenNames x; clear_value x) | with_reducible apply Within.ite
    | with_reducible apply Within.after (writeArea_within _ _ _) | split

theorem cutHeld_within (order : Option Nat) (s : State) : Within { hostq := true, mp := true } s (cutHeld order s) := by
  unfold cutHeld
  repeat' first
    | with_reducible apply Within.rfl | with_reducible assumption | exact rfl
    | (with_reducible apply Within.foldl; on_goal 1 => (intro _ _))
    | (extract_lets -underBinder -merge -useContext +onlyGivenNames x; refine Within.cut x (fun hx => ?_) ?_; (on_goal 1 => clear_value x); (on_goal 2 => (unfold x; clear x)))
    | (extract_lets -underBinder -merge -useContext +onlyGivenNames x; clear_value x) | with_reducible apply modMp_within
    | with_reducible apply modHost_within | exact .inl rfl | exact .inr fun _ => rfl | exact fun _ b => b
    | with_reducible apply Within.after (zeroCut_within _ _)

theorem drainQueue_within (q : Fin 32) (n : Nat) (s : State) : Within { hostq := true, mp := true } s (drainQueue q n s) := by
  induction n generalizing s with
  | zero => exact Within.rfl
  | succ n ih =>
    unfold drainQueue
    exact Within.ite ((cqDrainOne_within q s).trans (ih _)) .rfl

theorem returnQueue_within (l : List Returning) (s : State) (q : Fin 32) : Within { hostq := true, mp := true } s (returnQueue l
    s q) := by
  unfold returnQueue
  repeat' first
    | with_reducible apply Within.rfl | with_reducible assumption | exact rfl
    | (extract_lets -underBinder -merge -useContext +onlyGivenNames x; refine Within.cut x (fun hx => ?_) ?_; (on_goal 1 => clear_value x); (on_goal 2 => (unfold x; clear x)))
    | (extract_lets -underBinder -merge -useContext +onlyGivenNames x; clear_value x) | with_reducible apply Within.ite
    | with_reducible apply Within.after (modPairq_within _ _ _) | with_reducible apply Within.after (drainQueue_within _ _ _)

theorem returnMport_within (l : List Returning) (s : State) : Within { hostq := true, mp := true } s (returnMport l s) := by
  unfold returnMport
  repeat' first
    | with_reducible apply Within.rfl | with_reducible assumption | exact rfl
    | (extract_lets -underBinder -merge -useContext +onlyGivenNames x; refine Within.cut x (fun hx => ?_) ?_; (on_goal 1 => clear_value x); (on_goal 2 => (unfold x; clear x)))
    | (extract_lets -underBinder -merge -useContext +onlyGivenNames x; clear_value x) | with_reducible apply Within.ite
    | with_reducible apply modMp_within | with_reducible apply Within.after (notifyRise_within _ _)
    | with_reducible apply Within.after (settle_within _ _ _)

theorem returnHeld_within (s : State) : Within { hostq := true, mp := true, cry := true } s (returnHeld s) := by
  unfold returnHeld
  repeat' first
    | with_reducible apply Within.rfl | with_reducible assumption | exact rfl
    | (with_reducible apply Within.foldl; on_goal 1 => (intro _ _))
    | (extract_lets -underBinder -merge -useContext +onlyGivenNames x; refine Within.cut x (fun hx => ?_) ?_; (on_goal 1 => clear_value x); (on_goal 2 => (unfold x; clear x)))
    | (extract_lets -underBinder -merge -useContext +onlyGivenNames x; clear_value x) | with_reducible apply modHost_within
    | exact .inl rfl | exact .inr fun _ => rfl | exact fun _ b => b | with_reducible apply Within.after (returnQueue_within _ _ _)
    | with_reducible apply Within.after (returnBuffers_within _ _) | with_reducible apply Within.after (returnMport_within _ _)

theorem warmStart_within (dieTemp : Int) (refetch : Bool) (order : Option Held) (s : State) : Within Parts.all s (warmStart
    dieTemp refetch order s) := by
  unfold warmStart
  repeat' first
    | with_reducible apply Within.rfl | with_reducible assumption | exact rfl
    | (with_reducible apply Within.foldl; on_goal 1 => (intro _ _))
    | (extract_lets -underBinder -merge -useContext +onlyGivenNames x; refine Within.cut x (fun hx => ?_) ?_; (on_goal 1 => clear_value x); (on_goal 2 => (unfold x; clear x)))
    | (extract_lets -underBinder -merge -useContext +onlyGivenNames x; clear_value x) | with_reducible apply Within.ite
    | with_reducible apply modPower_within | with_reducible apply Within.after (failRunning_within _ _)
    | with_reducible apply Within.after (cutHeld_within _ _) | with_reducible apply Within.after (closeCtx_within _ _ _ _)
    | with_reducible apply Within.after (warmBlocks_within _ _)

theorem endWarm_within (s : State) : Within
    { power := true, hostq := true, due := true, paths := true, mp := true, cry := true, slots := true, mnt := true, vault := true }
    s (endWarm s) := by
  unfold endWarm
  repeat' first
    | with_reducible apply Within.rfl | with_reducible assumption | exact rfl
    | (with_reducible apply Within.foldl; on_goal 1 => (intro _ _))
    | (extract_lets -underBinder -merge -useContext +onlyGivenNames x; refine Within.cut x (fun hx => ?_) ?_; (on_goal 1 => clear_value x); (on_goal 2 => (unfold x; clear x)))
    | (extract_lets -underBinder -merge -useContext +onlyGivenNames x; clear_value x) | with_reducible apply Within.ite
    | with_reducible apply Within.after (reachRunning_within _) | with_reducible apply Within.after (returnHeld_within _)
    | with_reducible apply Within.after (resumeClass_within _ _)

theorem warmIfRunning_within (dieTemp : Int) (s : State) : Within Parts.all s (warmIfRunning dieTemp s) := by
  unfold warmIfRunning
  repeat' first
    | with_reducible apply Within.rfl | with_reducible assumption | exact rfl | with_reducible apply Within.ite
    | with_reducible apply Within.after (warmStart_within _ _ _ _)

theorem faultRestart_within (refetch : Bool) (s : State) : Within Parts.all s (faultRestart refetch s) := by
  unfold faultRestart
  repeat' first
    | with_reducible apply Within.rfl | with_reducible assumption | exact rfl | with_reducible apply Within.ite
    | with_reducible apply Within.after (failRunning_within _ _) | with_reducible apply Within.after (warmStart_within _ _ _ _)

theorem execRestartWarmWrite_within (t : DT) (value : BitVec 32) (s : State) : Stays Parts.all s (execRestartWarmWrite t value
    s) := by
  unfold execRestartWarmWrite
  repeat' first
    | with_reducible apply Within.rfl | with_reducible assumption | exact rfl
    | (extract_lets -underBinder -merge -useContext +onlyGivenNames x; refine Stays.cut x (fun hx => ?_) ?_; (on_goal 1 => clear_value x); (on_goal 2 => (unfold x; clear x)))
    | with_reducible apply Stays.ite | with_reducible apply Within.ite | with_reducible apply stays_next
    | with_reducible apply Within.after (moment_within _ _) | with_reducible apply Within.after (warmIfRunning_within _ _)

theorem execRestartColdWrite_within (t : DT) (value : BitVec 32) (s : State) : Stays Parts.all s (execRestartColdWrite t value
    s) := by
  unfold execRestartColdWrite
  repeat' first
    | with_reducible apply Within.rfl | with_reducible assumption | exact rfl
    | (extract_lets -underBinder -merge -useContext +onlyGivenNames x; refine Stays.cut x (fun hx => ?_) ?_; (on_goal 1 => clear_value x); (on_goal 2 => (unfold x; clear x)))
    | with_reducible apply Stays.ite | with_reducible apply Within.ite | with_reducible apply stays_next
    | with_reducible apply Within.after (moment_within _ _) | with_reducible apply Within.after (orderedCold_within _)

theorem execWarmNFall_within (t : DT) (dieTemp : Int) (s : State) : Stays Parts.all s (execWarmNFall t dieTemp s) := by
  unfold execWarmNFall
  repeat' first
    | with_reducible apply Within.rfl | with_reducible assumption | exact rfl
    | (extract_lets -underBinder -merge -useContext +onlyGivenNames x; refine Stays.cut x (fun hx => ?_) ?_; (on_goal 1 => clear_value x); (on_goal 2 => (unfold x; clear x)))
    | with_reducible apply stays_next | with_reducible apply modPower_within
    | with_reducible apply Within.after (moment_within _ _) | with_reducible apply Within.after (warmIfRunning_within _ _)

theorem execSetterWatchdogExpiry_within (t : DT) (_setter1 : Bool) (s : State) : Stays Parts.all s (execSetterWatchdogExpiry t
    _setter1 s) := by
  unfold execSetterWatchdogExpiry
  repeat' first
    | with_reducible apply Within.rfl | with_reducible assumption | exact rfl | with_reducible apply stays_next
    | with_reducible apply Within.after (faultRestart_within _ _) | with_reducible apply Within.after (moment_within _ _)

theorem bootSaggar_within (vddSg : Bool) (s : State) : Within { sg := true } s (bootSaggar vddSg s) := by
  unfold bootSaggar
  repeat' first
    | with_reducible apply Within.rfl | with_reducible assumption | exact rfl | with_reducible apply Within.ite
    | with_reducible apply modSg_within

theorem execPorstNRise_within (t : DT) (b : Boot) (s : State) : Stays Parts.all s (execPorstNRise t b s) := by
  unfold execPorstNRise
  repeat' first
    | with_reducible apply Within.rfl | with_reducible assumption | exact rfl
    | (extract_lets -underBinder -merge -useContext +onlyGivenNames x; refine Stays.cut x (fun hx => ?_) ?_; (on_goal 1 => clear_value x); (on_goal 2 => (unfold x; clear x)))
    | with_reducible apply Stays.ite | with_reducible apply Within.ite | with_reducible apply stays_next
    | with_reducible apply modPower_within | with_reducible apply Within.after (moment_within _ _)
    | with_reducible apply Within.after (coldStart_within _ _ _ _ _) | with_reducible apply Within.after (bootSaggar_within _ _)

theorem execPorstNFall_within (t : DT) (s : State) : Stays
    { ident := true, power := true, hostq := true, hostr := true, dt := true, clock := true, wb := true, carvers := true, tuners := true, slip := true, due := true, paths := true, ctxs := true, cx := true, audio := true, port := true, mp := true, sg := true, cry := true, slots := true, mem := true, mnt := true, pair := true }
    s (execPorstNFall t s) := by
  unfold execPorstNFall
  repeat' first
    | with_reducible apply Within.rfl | with_reducible assumption | exact rfl
    | (extract_lets -underBinder -merge -useContext +onlyGivenNames x; refine Stays.cut x (fun hx => ?_) ?_; (on_goal 1 => clear_value x); (on_goal 2 => (unfold x; clear x)))
    | with_reducible apply Stays.ite | with_reducible apply Within.ite | with_reducible apply stays_next
    | with_reducible apply modPower_within | with_reducible apply modTime_within | with_reducible apply modMp_within
    | with_reducible apply modHost_within | exact .inl rfl | exact .inr fun _ => rfl | exact fun _ b => b
    | with_reducible apply Within.after (moment_within _ _) | with_reducible apply Within.after (clearBlocks_within _ _)

theorem execImgGo_within (t : DT) (s : State) : Stays { power := true, hostq := true, dt := true, due := true } s (execImgGo t
    s) := by
  unfold execImgGo
  repeat' first
    | with_reducible apply Within.rfl | with_reducible assumption | exact rfl
    | (extract_lets -underBinder -merge -useContext +onlyGivenNames x; refine Stays.cut x (fun hx => ?_) ?_; (on_goal 1 => clear_value x); (on_goal 2 => (unfold x; clear x)))
    | (extract_lets -underBinder -merge -useContext +onlyGivenNames x; clear_value x) | with_reducible apply Stays.ite
    | with_reducible apply Within.ite | with_reducible apply stays_next | with_reducible apply modPower_within
    | with_reducible apply Within.after (moment_within _ _)

theorem execImageFetchDone_within (t : DT) (result : Fin 6) (secver : Nat) (s : State) : Stays Parts.all s (execImageFetchDone t
    result secver s) := by
  unfold execImageFetchDone
  repeat' first
    | with_reducible apply Within.rfl | with_reducible assumption | exact rfl
    | (extract_lets -underBinder -merge -useContext +onlyGivenNames x; refine Stays.cut x (fun hx => ?_) ?_; (on_goal 1 => clear_value x); (on_goal 2 => (unfold x; clear x)))
    | (extract_lets -underBinder -merge -useContext +onlyGivenNames x; clear_value x) | with_reducible apply Stays.ite
    | with_reducible apply Within.ite | with_reducible apply stays_next | with_reducible apply modPower_within
    | with_reducible apply Within.after (moment_within _ _) | with_reducible apply Within.after (coldStart_within _ _ _ _ _)
    | with_reducible apply Within.after (coldTail_within orderedCold_within _ _ _)
    | with_reducible apply Within.after (orderedCold_within _) | with_reducible apply Within.after (failRunning_within _ _)
    | split

theorem execStartTimeout_within (t : DT) (s : State) : Stays Parts.all s (execStartTimeout t s) := by
  unfold execStartTimeout
  repeat' first
    | with_reducible apply Within.rfl | with_reducible assumption | exact rfl
    | (extract_lets -underBinder -merge -useContext +onlyGivenNames x; refine Stays.cut x (fun hx => ?_) ?_; (on_goal 1 => clear_value x); (on_goal 2 => (unfold x; clear x)))
    | (extract_lets -underBinder -merge -useContext +onlyGivenNames x; refine Within.cut x (fun hx => ?_) ?_; (on_goal 1 => clear_value x); (on_goal 2 => (unfold x; clear x)))
    | (extract_lets -underBinder -merge -useContext +onlyGivenNames x; clear_value x) | with_reducible apply Stays.ite
    | with_reducible apply Within.ite | with_reducible apply stays_next | with_reducible apply Within.after (moment_within _ _)
    | with_reducible apply Within.after (failRunning_within _ _)

theorem execRunningFailCountClear_within (t : DT) (s : State) : Stays { power := true, hostq := true, dt := true, due := true }
    s (execRunningFailCountClear t s) := by
  unfold execRunningFailCountClear
  repeat' first
    | with_reducible apply Within.rfl | with_reducible assumption | exact rfl
    | (extract_lets -underBinder -merge -useContext +onlyGivenNames x; refine Stays.cut x (fun hx => ?_) ?_; (on_goal 1 => clear_value x); (on_goal 2 => (unfold x; clear x)))
    | with_reducible apply Stays.ite | with_reducible apply Within.ite | with_reducible apply stays_next
    | with_reducible apply modPower_within | with_reducible apply Within.after (moment_within _ _)

theorem execThermalTrip_within (t : DT) (s : State) : Stays Parts.all s (execThermalTrip t s) := by
  unfold execThermalTrip
  repeat' first
    | with_reducible apply Within.rfl | with_reducible assumption | exact rfl
    | (extract_lets -underBinder -merge -useContext +onlyGivenNames x; refine Stays.cut x (fun hx => ?_) ?_; (on_goal 1 => clear_value x); (on_goal 2 => (unfold x; clear x)))
    | with_reducible apply Stays.ite | with_reducible apply Within.ite | with_reducible apply stays_next
    | with_reducible apply Within.after (moment_within _ _) | with_reducible apply Within.after (enterHalted_within _)

theorem wake_within (s : State) : Within { power := true } s (wake s) := by
  unfold wake
  repeat' first
    | with_reducible apply Within.rfl | with_reducible assumption | exact rfl | with_reducible apply Within.ite
    | with_reducible apply modPower_within

theorem endDormant_within (s : State) : Within
    { power := true, hostq := true, hostr := true, dt := true, clock := true, wb := true, carvers := true, tuners := true, slip := true, due := true, paths := true, ctxs := true, cx := true, audio := true, port := true, mp := true, sg := true, cry := true, slots := true, mnt := true, pair := true, vault := true }
    s (endDormant s) := by
  unfold endDormant
  repeat' first
    | with_reducible apply Within.rfl | with_reducible assumption | exact rfl
    | (extract_lets -underBinder -merge -useContext +onlyGivenNames x; refine Within.cut x (fun hx => ?_) ?_; (on_goal 1 => clear_value x); (on_goal 2 => (unfold x; clear x)))
    | (extract_lets -underBinder -merge -useContext +onlyGivenNames x; clear_value x) | with_reducible apply Within.ite
    | with_reducible apply Within.after (enterDormant_within _) | with_reducible apply Within.after (wake_within _)

theorem execDormantReqFall_within (t : DT) (s : State) : Stays { power := true, hostq := true, dt := true, due := true } s
    (execDormantReqFall t s) := by
  unfold execDormantReqFall
  repeat' first
    | with_reducible apply Within.rfl | with_reducible assumption | exact rfl | with_reducible apply stays_next
    | with_reducible apply modPower_within | with_reducible apply Within.after (wake_within _)
    | with_reducible apply Within.after (moment_within _ _)

theorem execPcieResetRise_within (t : DT) (s : State) : Stays { power := true, hostq := true, dt := true, due := true } s
    (execPcieResetRise t s) := by
  unfold execPcieResetRise
  repeat' first
    | with_reducible apply Within.rfl | with_reducible assumption | exact rfl | with_reducible apply stays_next
    | with_reducible apply Within.after (wake_within _) | with_reducible apply Within.after (moment_within _ _)

theorem execMportWake_within (t : DT) (s : State) : Stays { power := true, hostq := true, dt := true, due := true } s
    (execMportWake t s) := by
  unfold execMportWake
  repeat' first
    | with_reducible apply Within.rfl | with_reducible assumption | exact rfl | with_reducible apply stays_next
    | with_reducible apply Within.after (wake_within _) | with_reducible apply Within.after (moment_within _ _)

theorem wakeClocks_within (s : State) : Within
    { power := true, hostq := true, dt := true, clock := true, mp := true, slots := true, mnt := true } s (wakeClocks s) := by
  unfold wakeClocks
  repeat' first
    | with_reducible apply Within.rfl | with_reducible assumption | exact rfl
    | (extract_lets -underBinder -merge -useContext +onlyGivenNames x; refine Within.cut x (fun hx => ?_) ?_; (on_goal 1 => clear_value x); (on_goal 2 => (unfold x; clear x)))
    | (extract_lets -underBinder -merge -useContext +onlyGivenNames x; clear_value x) | with_reducible apply Within.ite
    | with_reducible apply modTime_within | exact .inl rfl | exact .inr fun _ => rfl
    | with_reducible apply Within.after (settleLock_within _ _) | with_reducible apply Within.after (refinReturns_within _)
    | with_reducible apply Within.after (ppsReturns_within _)

theorem wakeTuners_within (s : State) : Within
    { power := true, hostq := true, tuners := true, slip := true, due := true, paths := true, ctxs := true, mp := true, slots := true, mnt := true }
    s (wakeTuners s) := by
  unfold wakeTuners
  repeat' first
    | with_reducible apply Within.rfl | with_reducible assumption | exact rfl
    | (with_reducible apply Within.foldl; on_goal 1 => (intro _ _)) | with_reducible apply Within.ite
    | with_reducible apply modPower_within | with_reducible apply Within.after (beginChange_within _ _ _ _) | split

theorem wakePorts_within (s : State) : Within { port := true } s (wakePorts s) := by
  unfold wakePorts
  repeat' first
    | with_reducible apply Within.rfl | with_reducible assumption | exact rfl
    | (with_reducible apply Within.foldl; on_goal 1 => (intro _ _)) | with_reducible apply Within.ite
    | with_reducible apply Within.after (setDividers_within _) | with_reducible apply Within.after (startPort_within _ _)

theorem execVddCoreInRange_within (t : DT) (dieTemp : Int) (s : State) : Stays Parts.all s (execVddCoreInRange t dieTemp s) :=
    by
  unfold execVddCoreInRange
  repeat' first
    | with_reducible apply Within.rfl | with_reducible assumption | exact rfl
    | (extract_lets -underBinder -merge -useContext +onlyGivenNames x; refine Stays.cut x (fun hx => ?_) ?_; (on_goal 1 => clear_value x); (on_goal 2 => (unfold x; clear x)))
    | with_reducible apply Stays.ite | with_reducible apply Within.ite | with_reducible apply stays_next
    | with_reducible apply modMnt_within | with_reducible apply modSg_within
    | with_reducible apply Within.after (moment_within _ _) | with_reducible apply Within.after (failRunning_within _ _)
    | with_reducible apply Within.after (warmBlocks_within _ _) | with_reducible apply Within.after (wakeClocks_within _)
    | with_reducible apply Within.after (resumeAll_within _) | with_reducible apply Within.after (wakePorts_within _)
    | with_reducible apply Within.after (wakeTuners_within _) | with_reducible apply Within.after (reachRunning_within _)
    | with_reducible apply Within.after (tagAll_within _)

theorem pauseStores_within (s : State) : Within { hostq := true, mp := true, slots := true, mnt := true } s (pauseStores s) :=
    by
  unfold pauseStores
  repeat' first
    | with_reducible apply Within.rfl | with_reducible assumption | exact rfl
    | (extract_lets -underBinder -merge -useContext +onlyGivenNames x; refine Within.cut x (fun hx => ?_) ?_; (on_goal 1 => clear_value x); (on_goal 2 => (unfold x; clear x)))
    | (extract_lets -underBinder -merge -useContext +onlyGivenNames x; clear_value x) | with_reducible apply modMnt_within
    | with_reducible apply Within.after (rejectAll_within _ _ _) | split

theorem execPfailNFall_within (t : DT) (s : State) : Stays
    { power := true, hostq := true, dt := true, due := true, mp := true, slots := true, mnt := true } s (execPfailNFall t s) :=
    by
  unfold execPfailNFall
  repeat' first
    | with_reducible apply Within.rfl | with_reducible assumption | exact rfl
    | (extract_lets -underBinder -merge -useContext +onlyGivenNames x; refine Stays.cut x (fun hx => ?_) ?_; (on_goal 1 => clear_value x); (on_goal 2 => (unfold x; clear x)))
    | with_reducible apply Stays.ite | with_reducible apply Within.ite | with_reducible apply stays_next
    | with_reducible apply modPower_within | with_reducible apply modMnt_within
    | with_reducible apply Within.after (moment_within _ _) | with_reducible apply Within.after (pauseStores_within _)

theorem execPfailNRise_within (t : DT) (s : State) : Stays
    { power := true, hostq := true, dt := true, due := true, mnt := true } s (execPfailNRise t s) := by
  unfold execPfailNRise
  repeat' first
    | with_reducible apply Within.rfl | with_reducible assumption | exact rfl
    | (extract_lets -underBinder -merge -useContext +onlyGivenNames x; refine Stays.cut x (fun hx => ?_) ?_; (on_goal 1 => clear_value x); (on_goal 2 => (unfold x; clear x)))
    | with_reducible apply Stays.ite | with_reducible apply Within.ite | with_reducible apply stays_next
    | with_reducible apply modMnt_within | with_reducible apply modPower_within
    | with_reducible apply Within.after (moment_within _ _)

theorem execAvsCodeStep_within (t : DT) (s : State) : Stays { power := true, hostq := true, dt := true, due := true } s
    (execAvsCodeStep t s) := by
  unfold execAvsCodeStep
  repeat' first
    | with_reducible apply Within.rfl | with_reducible assumption | exact rfl
    | (extract_lets -underBinder -merge -useContext +onlyGivenNames x; refine Stays.cut x (fun hx => ?_) ?_; (on_goal 1 => clear_value x); (on_goal 2 => (unfold x; clear x)))
    | (extract_lets -underBinder -merge -useContext +onlyGivenNames x; refine Within.cut x (fun hx => ?_) ?_; (on_goal 1 => clear_value x); (on_goal 2 => (unfold x; clear x)))
    | (extract_lets -underBinder -merge -useContext +onlyGivenNames x; clear_value x) | with_reducible apply Stays.ite
    | with_reducible apply Within.ite | with_reducible apply stays_next | with_reducible apply modPower_within
    | with_reducible apply Within.after (moment_within _ _)

theorem execAvsSettleTimeout_within (t : DT) (measuredMv : Nat) (s : State) : Stays
    { power := true, hostq := true, dt := true, due := true, mnt := true } s (execAvsSettleTimeout t measuredMv s) := by
  unfold execAvsSettleTimeout
  repeat' first
    | with_reducible apply Within.rfl | with_reducible assumption | exact rfl
    | (extract_lets -underBinder -merge -useContext +onlyGivenNames x; refine Stays.cut x (fun hx => ?_) ?_; (on_goal 1 => clear_value x); (on_goal 2 => (unfold x; clear x)))
    | (extract_lets -underBinder -merge -useContext +onlyGivenNames x; refine Within.cut x (fun hx => ?_) ?_; (on_goal 1 => clear_value x); (on_goal 2 => (unfold x; clear x)))
    | (extract_lets -underBinder -merge -useContext +onlyGivenNames x; clear_value x) | with_reducible apply Stays.ite
    | with_reducible apply Within.ite | with_reducible apply stays_next | with_reducible apply modMnt_within
    | with_reducible apply modPower_within | with_reducible apply Within.after (moment_within _ _)

theorem execDramEccError_within (t : DT) (area : DramArea) (multi : Bool) (s : State) : Stays Parts.all s (execDramEccError t
    area multi s) := by
  unfold execDramEccError
  repeat' first
    | with_reducible apply Within.rfl | with_reducible assumption | exact rfl
    | (extract_lets -underBinder -merge -useContext +onlyGivenNames x; refine Stays.cut x (fun hx => ?_) ?_; (on_goal 1 => clear_value x); (on_goal 2 => (unfold x; clear x)))
    | (extract_lets -underBinder -merge -useContext +onlyGivenNames x; refine Within.cut x (fun hx => ?_) ?_; (on_goal 1 => clear_value x); (on_goal 2 => (unfold x; clear x)))
    | (extract_lets -underBinder -merge -useContext +onlyGivenNames x; clear_value x) | with_reducible apply Stays.ite
    | with_reducible apply Within.ite | with_reducible apply stays_next | with_reducible apply modMem_within | exact .inl rfl
    | exact .inr fun _ => rfl | with_reducible apply Within.after (moment_within _ _)
    | with_reducible apply Within.after (faultSherd_within _ _ _ _ _) | with_reducible apply Within.after (faultRestart_within _ _)
    | with_reducible apply Within.after (dramOutcome_within _ _) | split

end Sys2Proof.Machine
end

