-- ==== Sys2Proof/Laws/Device.lean ====
section
/-!
SUPPORT. Laws/Device.lean: what each operation of Machine/Device.lean leaves as it was.
-/
namespace Sys2Proof.Machine

theorem doDevIdentify_within (h : Held) (s : State) : Within { hostq := true, mp := true, slots := true } s (doDevIdentify h s)
    := by
  unfold doDevIdentify
  repeat' first
    | with_reducible apply Within.rfl | with_reducible assumption | exact rfl
    | with_reducible apply Within.after (finishOut_within _ _ _ _ _)

theorem execDevIdentify_within (e : Entry) (s : State) : Stays
    { hostq := true, dt := true, due := true, mp := true, slots := true } s (execDevIdentify e s) := by
  unfold execDevIdentify
  repeat' first
    | with_reducible apply Within.rfl | with_reducible assumption | exact rfl | with_reducible apply stays_next
    | (with_reducible apply hostCmd_within; (on_goal 2 => (intro _ _)))
    | with_reducible apply Within.after (doDevIdentify_within _ _)

theorem moveOff_within {m : Parts} (old new : Nat) (w : Fin 16) {o : Option State} (c : Fin 64) (s : State)
    (hm : Parts.sub { hostq := true, ctxs := true, mp := true, slots := true } m = true) (h : OptW m s o) :
    OptW m s (moveOff old new w o c) := by
  unfold moveOff
  cases o with
  | none => exact optW_none
  | some u =>
    dsimp only
    split
    · exact OptW.ite (optW_some ((h u rfl).trans ((migrate_within _ _ _ _).widen hm))) optW_none
    · exact optW_none


theorem emptyWheel_within {m : Parts} (old new : Nat) {o : Option State} (w : Fin 16) (s : State)
    (hm : Parts.sub { hostq := true, ctxs := true, mp := true, slots := true } m = true) (h : OptW m s o) :
    OptW m s (emptyWheel old new o w) := by
  have step (l : List (Fin 64)) : ∀ o : Option State, OptW m s o → OptW m s (l.foldl (moveOff old new w) o) := by
    induction l with
    | nil => exact fun _ k => k
    | cons c l ih => exact fun o k => ih _ (moveOff_within old new w c s hm k)
  unfold emptyWheel
  cases o with
  | none => exact optW_none
  | some u => exact step _ _ h

theorem emptyWheels_within {m : Parts} (old new : Nat) (l : List (Fin 16)) (s : State)
    (hm : Parts.sub { hostq := true, ctxs := true, mp := true, slots := true } m = true) :
    ∀ o : Option State, OptW m s o → OptW m s (l.foldl (emptyWheel old new) o) := by
  induction l with
  | nil => exact fun _ k => k
  | cons w l ih => exact fun o k => ih _ (emptyWheel_within old new w s hm k)


theorem setProfile_within (old new : Nat) (s : State) : Within { power := true, cx := true } s (setProfile old new s) := by
  unfold setProfile
  repeat' first
    | with_reducible apply Within.rfl | with_reducible assumption | exact rfl
    | (extract_lets -underBinder -merge -useContext +onlyGivenNames x; refine Within.cut x (fun hx => ?_) ?_; (on_goal 1 => clear_value x); (on_goal 2 => (unfold x; clear x)))
    | (extract_lets -underBinder -merge -useContext +onlyGivenNames x; clear_value x) | with_reducible apply Within.ite
    | with_reducible apply modCx_within | with_reducible apply modPower_within | exact .inl rfl | exact .inr fun _ => rfl

theorem doDevSetProfile_within (h : Held) (s : State) : Within
    { power := true, hostq := true, ctxs := true, cx := true, mp := true, slots := true } s (doDevSetProfile h s) := by
  have r (st : Status) : Within { power := true, hostq := true, ctxs := true, cx := true, mp := true, slots := true } s (reject h st s) :=
    (reject_within h st s).widen rfl
  unfold doDevSetProfile
  extract_lets new old
  refine Within.ite (r _) (Within.ite (r _) ?_)
  split
  · rename_i t e
    have k := emptyWheels_within (m := { power := true, hostq := true, ctxs := true, cx := true, mp := true, slots := true }) old new _ s rfl _
      (optW_some .rfl) t e
    exact Within.ite (Within.after (finish_within _ _ _ _) rfl (Within.after (setProfile_within _ _ _) rfl k)) (r _)
  · exact r _


theorem execDevSetProfile_within (e : Entry) (s : State) : Stays
    { power := true, hostq := true, dt := true, due := true, ctxs := true, cx := true, mp := true, slots := true } s
    (execDevSetProfile e s) := by
  unfold execDevSetProfile
  repeat' first
    | with_reducible apply Within.rfl | with_reducible assumption | exact rfl | with_reducible apply stays_next
    | (with_reducible apply hostCmd_within; (on_goal 2 => (intro _ _)))
    | with_reducible apply Within.after (doDevSetProfile_within _ _)

theorem doDevRestart_within (h : Held) (s : State) : Within Parts.all s (doDevRestart h s) := by
  unfold doDevRestart
  repeat' first
    | with_reducible apply Within.rfl | with_reducible assumption | exact rfl | with_reducible apply Within.ite
    | with_reducible apply Within.after (reject_within _ _ _) | with_reducible apply Within.after (warmStart_within _ _ _ _)
    | with_reducible apply Within.after (orderedCold_within _)

theorem execDevRestart_within (e : Entry) (s : State) : Stays Parts.all s (execDevRestart e s) := by
  unfold execDevRestart
  repeat' first
    | with_reducible apply Within.rfl | with_reducible assumption | exact rfl | with_reducible apply stays_next
    | (with_reducible apply hostCmd_within; (on_goal 2 => (intro _ _)))
    | with_reducible apply Within.after (doDevRestart_within _ _)

theorem doDevGetHealth_within (h : Held) (s : State) : Within { hostq := true, mp := true, slots := true } s (doDevGetHealth h
    s) := by
  unfold doDevGetHealth
  repeat' first
    | with_reducible apply Within.rfl | with_reducible assumption | exact rfl
    | with_reducible apply Within.after (finishOut_within _ _ _ _ _) | with_reducible apply Within.after (useFree_within _)

theorem execDevGetHealth_within (e : Entry) (s : State) : Stays
    { hostq := true, dt := true, due := true, mp := true, slots := true } s (execDevGetHealth e s) := by
  unfold execDevGetHealth
  repeat' first
    | with_reducible apply Within.rfl | with_reducible assumption | exact rfl | with_reducible apply stays_next
    | (with_reducible apply hostCmd_within; (on_goal 2 => (intro _ _)))
    | with_reducible apply Within.after (doDevGetHealth_within _ _)

theorem doDevSetEventMask_within (h : Held) (s : State) : Within { hostq := true, hostr := true, mp := true, slots := true } s
    (doDevSetEventMask h s) := by
  unfold doDevSetEventMask
  generalize BitVec.ofNat 64 (le (Entry.args h.entry) 8 8) = k
  extract_lets old
  clear_value old
  refine Within.after (finish_within _ _ _ _) rfl (modHost_within _ (.inr fun _ => rfl) (.inl rfl) ?_ .rfl)
  exact fun _ b => b


theorem execDevSetEventMask_within (e : Entry) (s : State) : Stays
    { hostq := true, hostr := true, dt := true, due := true, mp := true, slots := true } s (execDevSetEventMask e s) := by
  unfold execDevSetEventMask
  repeat' first
    | with_reducible apply Within.rfl | with_reducible assumption | exact rfl | with_reducible apply stays_next
    | (with_reducible apply hostCmd_within; (on_goal 2 => (intro _ _)))
    | with_reducible apply Within.after (doDevSetEventMask_within _ _)

theorem doDevLedgerRead_within (h : Held) (s : State) : Within { hostq := true, hostr := true, mp := true, slots := true } s
    (doDevLedgerRead h s) := by
  unfold doDevLedgerRead
  repeat' first
    | with_reducible apply Within.rfl | with_reducible assumption | exact rfl
    | (extract_lets -underBinder -merge -useContext +onlyGivenNames x; refine Within.cut x (fun hx => ?_) ?_; (on_goal 1 => clear_value x); (on_goal 2 => (unfold x; clear x)))
    | (extract_lets -underBinder -merge -useContext +onlyGivenNames x; clear_value x) | with_reducible apply Within.ite
    | with_reducible apply Within.after (latchSnapshot_within _)
    | with_reducible apply Within.after (finishOut_within _ _ _ _ _)

theorem execDevLedgerRead_within (e : Entry) (s : State) : Stays
    { hostq := true, hostr := true, dt := true, due := true, mp := true, slots := true } s (execDevLedgerRead e s) := by
  unfold execDevLedgerRead
  repeat' first
    | with_reducible apply Within.rfl | with_reducible assumption | exact rfl | with_reducible apply stays_next
    | (with_reducible apply hostCmd_within; (on_goal 2 => (intro _ _)))
    | with_reducible apply Within.after (doDevLedgerRead_within _ _)

theorem clearCounters_within (s : State) : Within
    { hostr := true, dt := true, clock := true, wb := true, tuners := true, port := true, mem := true, mnt := true, pair := true }
    s (clearCounters s) := by
  unfold clearCounters
  repeat' first
    | with_reducible apply Within.rfl | with_reducible assumption | exact rfl
    | (extract_lets -underBinder -merge -useContext +onlyGivenNames x; refine Within.cut x (fun hx => ?_) ?_; (on_goal 1 => clear_value x); (on_goal 2 => (unfold x; clear x)))
    | with_reducible apply modRf_within | with_reducible apply modMem_within | with_reducible apply modHost_within
    | with_reducible apply modPair_within | with_reducible apply modPortSt_within | exact .inl rfl | exact .inr fun _ => rfl
    | exact fun _ b => b

theorem doDiagReadCounters_within (h : Held) (s : State) : Within
    { hostq := true, hostr := true, dt := true, clock := true, wb := true, tuners := true, port := true, mp := true, slots := true, mem := true, mnt := true, pair := true }
    s (doDiagReadCounters h s) := by
  unfold doDiagReadCounters
  repeat' first
    | with_reducible apply Within.rfl | with_reducible assumption | exact rfl
    | (extract_lets -underBinder -merge -useContext +onlyGivenNames x; clear_value x) | with_reducible apply Within.ite
    | with_reducible apply Within.after (finishOut_within _ _ _ _ _)
    | with_reducible apply Within.after (clearCounters_within _)

theorem execDiagReadCounters_within (e : Entry) (s : State) : Stays
    { hostq := true, hostr := true, dt := true, clock := true, wb := true, tuners := true, due := true, port := true, mp := true, slots := true, mem := true, mnt := true, pair := true }
    s (execDiagReadCounters e s) := by
  unfold execDiagReadCounters
  repeat' first
    | with_reducible apply Within.rfl | with_reducible assumption | exact rfl | with_reducible apply stays_next
    | (with_reducible apply hostCmd_within; (on_goal 2 => (intro _ _)))
    | with_reducible apply Within.after (doDiagReadCounters_within _ _)

theorem idle_within (s : State) : Within
    { power := true, hostq := true, hostr := true, dt := true, clock := true, wb := true, carvers := true, tuners := true, slip := true, due := true, paths := true, ctxs := true, cx := true, audio := true, port := true, mp := true, sg := true, cry := true, slots := true, mnt := true, pair := true, vault := true }
    s (idle s) := by
  unfold idle
  repeat' first
    | with_reducible apply Within.rfl | with_reducible assumption | exact rfl
    | with_reducible apply Within.after (peerUnits_within _) | with_reducible apply Within.after (peerSyncs_within _)
    | with_reducible apply Within.after (endWarm_within _) | with_reducible apply Within.after (endDormant_within _)
    | with_reducible apply Within.after (tick_within _)

end Sys2Proof.Machine
end

