-- ==== Sys2Proof/Laws/State.lean ====
section
/-!
SUPPORT. Laws/State.lean: each field of the state after each primitive change.
-/
namespace Sys2Proof.Machine

/-! `modPower` -/

@[simp] theorem modPower_pending (f : PowerSt → PowerSt) (s : State) : (modPower f s).pending = s.pending := rfl
@[simp] theorem modPower_outbox (f : PowerSt → PowerSt) (s : State) : (modPower f s).outbox = s.outbox := rfl
@[simp] theorem modPower_fresh (f : PowerSt → PowerSt) (s : State) : (modPower f s).fresh = s.fresh := rfl
@[simp] theorem modPower_ident (f : PowerSt → PowerSt) (s : State) : (modPower f s).ident = s.ident := rfl
@[simp] theorem modPower_power (f : PowerSt → PowerSt) (s : State) : (modPower f s).power = f s.power := rfl
@[simp] theorem modPower_host (f : PowerSt → PowerSt) (s : State) : (modPower f s).host = s.host := rfl
@[simp] theorem modPower_time (f : PowerSt → PowerSt) (s : State) : (modPower f s).time = s.time := rfl
@[simp] theorem modPower_rf (f : PowerSt → PowerSt) (s : State) : (modPower f s).rf = s.rf := rfl
@[simp] theorem modPower_cx (f : PowerSt → PowerSt) (s : State) : (modPower f s).cx = s.cx := rfl
@[simp] theorem modPower_audio (f : PowerSt → PowerSt) (s : State) : (modPower f s).audio = s.audio := rfl
@[simp] theorem modPower_port (f : PowerSt → PowerSt) (s : State) : (modPower f s).port = s.port := rfl
@[simp] theorem modPower_mp (f : PowerSt → PowerSt) (s : State) : (modPower f s).mp = s.mp := rfl
@[simp] theorem modPower_sg (f : PowerSt → PowerSt) (s : State) : (modPower f s).sg = s.sg := rfl
@[simp] theorem modPower_cry (f : PowerSt → PowerSt) (s : State) : (modPower f s).cry = s.cry := rfl
@[simp] theorem modPower_mem (f : PowerSt → PowerSt) (s : State) : (modPower f s).mem = s.mem := rfl
@[simp] theorem modPower_mnt (f : PowerSt → PowerSt) (s : State) : (modPower f s).mnt = s.mnt := rfl
@[simp] theorem modPower_pair (f : PowerSt → PowerSt) (s : State) : (modPower f s).pair = s.pair := rfl
@[simp] theorem modPower_vault (f : PowerSt → PowerSt) (s : State) : (modPower f s).vault = s.vault := rfl

/-! `modHost` -/

@[simp] theorem modHost_pending (f : HostIf → HostIf) (s : State) : (modHost f s).pending = s.pending := rfl
@[simp] theorem modHost_outbox (f : HostIf → HostIf) (s : State) : (modHost f s).outbox = s.outbox := rfl
@[simp] theorem modHost_fresh (f : HostIf → HostIf) (s : State) : (modHost f s).fresh = s.fresh := rfl
@[simp] theorem modHost_ident (f : HostIf → HostIf) (s : State) : (modHost f s).ident = s.ident := rfl
@[simp] theorem modHost_power (f : HostIf → HostIf) (s : State) : (modHost f s).power = s.power := rfl
@[simp] theorem modHost_host (f : HostIf → HostIf) (s : State) : (modHost f s).host = f s.host := rfl
@[simp] theorem modHost_time (f : HostIf → HostIf) (s : State) : (modHost f s).time = s.time := rfl
@[simp] theorem modHost_rf (f : HostIf → HostIf) (s : State) : (modHost f s).rf = s.rf := rfl
@[simp] theorem modHost_cx (f : HostIf → HostIf) (s : State) : (modHost f s).cx = s.cx := rfl
@[simp] theorem modHost_audio (f : HostIf → HostIf) (s : State) : (modHost f s).audio = s.audio := rfl
@[simp] theorem modHost_port (f : HostIf → HostIf) (s : State) : (modHost f s).port = s.port := rfl
@[simp] theorem modHost_mp (f : HostIf → HostIf) (s : State) : (modHost f s).mp = s.mp := rfl
@[simp] theorem modHost_sg (f : HostIf → HostIf) (s : State) : (modHost f s).sg = s.sg := rfl
@[simp] theorem modHost_cry (f : HostIf → HostIf) (s : State) : (modHost f s).cry = s.cry := rfl
@[simp] theorem modHost_mem (f : HostIf → HostIf) (s : State) : (modHost f s).mem = s.mem := rfl
@[simp] theorem modHost_mnt (f : HostIf → HostIf) (s : State) : (modHost f s).mnt = s.mnt := rfl
@[simp] theorem modHost_pair (f : HostIf → HostIf) (s : State) : (modHost f s).pair = s.pair := rfl
@[simp] theorem modHost_vault (f : HostIf → HostIf) (s : State) : (modHost f s).vault = s.vault := rfl

/-! `modTime` -/

@[simp] theorem modTime_pending (f : TimeSt → TimeSt) (s : State) : (modTime f s).pending = s.pending := rfl
@[simp] theorem modTime_outbox (f : TimeSt → TimeSt) (s : State) : (modTime f s).outbox = s.outbox := rfl
@[simp] theorem modTime_fresh (f : TimeSt → TimeSt) (s : State) : (modTime f s).fresh = s.fresh := rfl
@[simp] theorem modTime_ident (f : TimeSt → TimeSt) (s : State) : (modTime f s).ident = s.ident := rfl
@[simp] theorem modTime_power (f : TimeSt → TimeSt) (s : State) : (modTime f s).power = s.power := rfl
@[simp] theorem modTime_host (f : TimeSt → TimeSt) (s : State) : (modTime f s).host = s.host := rfl
@[simp] theorem modTime_time (f : TimeSt → TimeSt) (s : State) : (modTime f s).time = f s.time := rfl
@[simp] theorem modTime_rf (f : TimeSt → TimeSt) (s : State) : (modTime f s).rf = s.rf := rfl
@[simp] theorem modTime_cx (f : TimeSt → TimeSt) (s : State) : (modTime f s).cx = s.cx := rfl
@[simp] theorem modTime_audio (f : TimeSt → TimeSt) (s : State) : (modTime f s).audio = s.audio := rfl
@[simp] theorem modTime_port (f : TimeSt → TimeSt) (s : State) : (modTime f s).port = s.port := rfl
@[simp] theorem modTime_mp (f : TimeSt → TimeSt) (s : State) : (modTime f s).mp = s.mp := rfl
@[simp] theorem modTime_sg (f : TimeSt → TimeSt) (s : State) : (modTime f s).sg = s.sg := rfl
@[simp] theorem modTime_cry (f : TimeSt → TimeSt) (s : State) : (modTime f s).cry = s.cry := rfl
@[simp] theorem modTime_mem (f : TimeSt → TimeSt) (s : State) : (modTime f s).mem = s.mem := rfl
@[simp] theorem modTime_mnt (f : TimeSt → TimeSt) (s : State) : (modTime f s).mnt = s.mnt := rfl
@[simp] theorem modTime_pair (f : TimeSt → TimeSt) (s : State) : (modTime f s).pair = s.pair := rfl
@[simp] theorem modTime_vault (f : TimeSt → TimeSt) (s : State) : (modTime f s).vault = s.vault := rfl

/-! `modRf` -/

@[simp] theorem modRf_pending (f : RfSt → RfSt) (s : State) : (modRf f s).pending = s.pending := rfl
@[simp] theorem modRf_outbox (f : RfSt → RfSt) (s : State) : (modRf f s).outbox = s.outbox := rfl
@[simp] theorem modRf_fresh (f : RfSt → RfSt) (s : State) : (modRf f s).fresh = s.fresh := rfl
@[simp] theorem modRf_ident (f : RfSt → RfSt) (s : State) : (modRf f s).ident = s.ident := rfl
@[simp] theorem modRf_power (f : RfSt → RfSt) (s : State) : (modRf f s).power = s.power := rfl
@[simp] theorem modRf_host (f : RfSt → RfSt) (s : State) : (modRf f s).host = s.host := rfl
@[simp] theorem modRf_time (f : RfSt → RfSt) (s : State) : (modRf f s).time = s.time := rfl
@[simp] theorem modRf_rf (f : RfSt → RfSt) (s : State) : (modRf f s).rf = f s.rf := rfl
@[simp] theorem modRf_cx (f : RfSt → RfSt) (s : State) : (modRf f s).cx = s.cx := rfl
@[simp] theorem modRf_audio (f : RfSt → RfSt) (s : State) : (modRf f s).audio = s.audio := rfl
@[simp] theorem modRf_port (f : RfSt → RfSt) (s : State) : (modRf f s).port = s.port := rfl
@[simp] theorem modRf_mp (f : RfSt → RfSt) (s : State) : (modRf f s).mp = s.mp := rfl
@[simp] theorem modRf_sg (f : RfSt → RfSt) (s : State) : (modRf f s).sg = s.sg := rfl
@[simp] theorem modRf_cry (f : RfSt → RfSt) (s : State) : (modRf f s).cry = s.cry := rfl
@[simp] theorem modRf_mem (f : RfSt → RfSt) (s : State) : (modRf f s).mem = s.mem := rfl
@[simp] theorem modRf_mnt (f : RfSt → RfSt) (s : State) : (modRf f s).mnt = s.mnt := rfl
@[simp] theorem modRf_pair (f : RfSt → RfSt) (s : State) : (modRf f s).pair = s.pair := rfl
@[simp] theorem modRf_vault (f : RfSt → RfSt) (s : State) : (modRf f s).vault = s.vault := rfl

/-! `modCx` -/

@[simp] theorem modCx_pending (f : CtxSt → CtxSt) (s : State) : (modCx f s).pending = s.pending := rfl
@[simp] theorem modCx_outbox (f : CtxSt → CtxSt) (s : State) : (modCx f s).outbox = s.outbox := rfl
@[simp] theorem modCx_fresh (f : CtxSt → CtxSt) (s : State) : (modCx f s).fresh = s.fresh := rfl
@[simp] theorem modCx_ident (f : CtxSt → CtxSt) (s : State) : (modCx f s).ident = s.ident := rfl
@[simp] theorem modCx_power (f : CtxSt → CtxSt) (s : State) : (modCx f s).power = s.power := rfl
@[simp] theorem modCx_host (f : CtxSt → CtxSt) (s : State) : (modCx f s).host = s.host := rfl
@[simp] theorem modCx_time (f : CtxSt → CtxSt) (s : State) : (modCx f s).time = s.time := rfl
@[simp] theorem modCx_rf (f : CtxSt → CtxSt) (s : State) : (modCx f s).rf = s.rf := rfl
@[simp] theorem modCx_cx (f : CtxSt → CtxSt) (s : State) : (modCx f s).cx = f s.cx := rfl
@[simp] theorem modCx_audio (f : CtxSt → CtxSt) (s : State) : (modCx f s).audio = s.audio := rfl
@[simp] theorem modCx_port (f : CtxSt → CtxSt) (s : State) : (modCx f s).port = s.port := rfl
@[simp] theorem modCx_mp (f : CtxSt → CtxSt) (s : State) : (modCx f s).mp = s.mp := rfl
@[simp] theorem modCx_sg (f : CtxSt → CtxSt) (s : State) : (modCx f s).sg = s.sg := rfl
@[simp] theorem modCx_cry (f : CtxSt → CtxSt) (s : State) : (modCx f s).cry = s.cry := rfl
@[simp] theorem modCx_mem (f : CtxSt → CtxSt) (s : State) : (modCx f s).mem = s.mem := rfl
@[simp] theorem modCx_mnt (f : CtxSt → CtxSt) (s : State) : (modCx f s).mnt = s.mnt := rfl
@[simp] theorem modCx_pair (f : CtxSt → CtxSt) (s : State) : (modCx f s).pair = s.pair := rfl
@[simp] theorem modCx_vault (f : CtxSt → CtxSt) (s : State) : (modCx f s).vault = s.vault := rfl

/-! `modAudio` -/

@[simp] theorem modAudio_pending (f : AudioSt → AudioSt) (s : State) : (modAudio f s).pending = s.pending := rfl
@[simp] theorem modAudio_outbox (f : AudioSt → AudioSt) (s : State) : (modAudio f s).outbox = s.outbox := rfl
@[simp] theorem modAudio_fresh (f : AudioSt → AudioSt) (s : State) : (modAudio f s).fresh = s.fresh := rfl
@[simp] theorem modAudio_ident (f : AudioSt → AudioSt) (s : State) : (modAudio f s).ident = s.ident := rfl
@[simp] theorem modAudio_power (f : AudioSt → AudioSt) (s : State) : (modAudio f s).power = s.power := rfl
@[simp] theorem modAudio_host (f : AudioSt → AudioSt) (s : State) : (modAudio f s).host = s.host := rfl
@[simp] theorem modAudio_time (f : AudioSt → AudioSt) (s : State) : (modAudio f s).time = s.time := rfl
@[simp] theorem modAudio_rf (f : AudioSt → AudioSt) (s : State) : (modAudio f s).rf = s.rf := rfl
@[simp] theorem modAudio_cx (f : AudioSt → AudioSt) (s : State) : (modAudio f s).cx = s.cx := rfl
@[simp] theorem modAudio_audio (f : AudioSt → AudioSt) (s : State) : (modAudio f s).audio = f s.audio := rfl
@[simp] theorem modAudio_port (f : AudioSt → AudioSt) (s : State) : (modAudio f s).port = s.port := rfl
@[simp] theorem modAudio_mp (f : AudioSt → AudioSt) (s : State) : (modAudio f s).mp = s.mp := rfl
@[simp] theorem modAudio_sg (f : AudioSt → AudioSt) (s : State) : (modAudio f s).sg = s.sg := rfl
@[simp] theorem modAudio_cry (f : AudioSt → AudioSt) (s : State) : (modAudio f s).cry = s.cry := rfl
@[simp] theorem modAudio_mem (f : AudioSt → AudioSt) (s : State) : (modAudio f s).mem = s.mem := rfl
@[simp] theorem modAudio_mnt (f : AudioSt → AudioSt) (s : State) : (modAudio f s).mnt = s.mnt := rfl
@[simp] theorem modAudio_pair (f : AudioSt → AudioSt) (s : State) : (modAudio f s).pair = s.pair := rfl
@[simp] theorem modAudio_vault (f : AudioSt → AudioSt) (s : State) : (modAudio f s).vault = s.vault := rfl

/-! `modPortSt` -/

@[simp] theorem modPortSt_pending (f : PortSt → PortSt) (s : State) : (modPortSt f s).pending = s.pending := rfl
@[simp] theorem modPortSt_outbox (f : PortSt → PortSt) (s : State) : (modPortSt f s).outbox = s.outbox := rfl
@[simp] theorem modPortSt_fresh (f : PortSt → PortSt) (s : State) : (modPortSt f s).fresh = s.fresh := rfl
@[simp] theorem modPortSt_ident (f : PortSt → PortSt) (s : State) : (modPortSt f s).ident = s.ident := rfl
@[simp] theorem modPortSt_power (f : PortSt → PortSt) (s : State) : (modPortSt f s).power = s.power := rfl
@[simp] theorem modPortSt_host (f : PortSt → PortSt) (s : State) : (modPortSt f s).host = s.host := rfl
@[simp] theorem modPortSt_time (f : PortSt → PortSt) (s : State) : (modPortSt f s).time = s.time := rfl
@[simp] theorem modPortSt_rf (f : PortSt → PortSt) (s : State) : (modPortSt f s).rf = s.rf := rfl
@[simp] theorem modPortSt_cx (f : PortSt → PortSt) (s : State) : (modPortSt f s).cx = s.cx := rfl
@[simp] theorem modPortSt_audio (f : PortSt → PortSt) (s : State) : (modPortSt f s).audio = s.audio := rfl
@[simp] theorem modPortSt_port (f : PortSt → PortSt) (s : State) : (modPortSt f s).port = f s.port := rfl
@[simp] theorem modPortSt_mp (f : PortSt → PortSt) (s : State) : (modPortSt f s).mp = s.mp := rfl
@[simp] theorem modPortSt_sg (f : PortSt → PortSt) (s : State) : (modPortSt f s).sg = s.sg := rfl
@[simp] theorem modPortSt_cry (f : PortSt → PortSt) (s : State) : (modPortSt f s).cry = s.cry := rfl
@[simp] theorem modPortSt_mem (f : PortSt → PortSt) (s : State) : (modPortSt f s).mem = s.mem := rfl
@[simp] theorem modPortSt_mnt (f : PortSt → PortSt) (s : State) : (modPortSt f s).mnt = s.mnt := rfl
@[simp] theorem modPortSt_pair (f : PortSt → PortSt) (s : State) : (modPortSt f s).pair = s.pair := rfl
@[simp] theorem modPortSt_vault (f : PortSt → PortSt) (s : State) : (modPortSt f s).vault = s.vault := rfl

/-! `modMp` -/

@[simp] theorem modMp_pending (f : Mport → Mport) (s : State) : (modMp f s).pending = s.pending := rfl
@[simp] theorem modMp_outbox (f : Mport → Mport) (s : State) : (modMp f s).outbox = s.outbox := rfl
@[simp] theorem modMp_fresh (f : Mport → Mport) (s : State) : (modMp f s).fresh = s.fresh := rfl
@[simp] theorem modMp_ident (f : Mport → Mport) (s : State) : (modMp f s).ident = s.ident := rfl
@[simp] theorem modMp_power (f : Mport → Mport) (s : State) : (modMp f s).power = s.power := rfl
@[simp] theorem modMp_host (f : Mport → Mport) (s : State) : (modMp f s).host = s.host := rfl
@[simp] theorem modMp_time (f : Mport → Mport) (s : State) : (modMp f s).time = s.time := rfl
@[simp] theorem modMp_rf (f : Mport → Mport) (s : State) : (modMp f s).rf = s.rf := rfl
@[simp] theorem modMp_cx (f : Mport → Mport) (s : State) : (modMp f s).cx = s.cx := rfl
@[simp] theorem modMp_audio (f : Mport → Mport) (s : State) : (modMp f s).audio = s.audio := rfl
@[simp] theorem modMp_port (f : Mport → Mport) (s : State) : (modMp f s).port = s.port := rfl
@[simp] theorem modMp_mp (f : Mport → Mport) (s : State) : (modMp f s).mp = f s.mp := rfl
@[simp] theorem modMp_sg (f : Mport → Mport) (s : State) : (modMp f s).sg = s.sg := rfl
@[simp] theorem modMp_cry (f : Mport → Mport) (s : State) : (modMp f s).cry = s.cry := rfl
@[simp] theorem modMp_mem (f : Mport → Mport) (s : State) : (modMp f s).mem = s.mem := rfl
@[simp] theorem modMp_mnt (f : Mport → Mport) (s : State) : (modMp f s).mnt = s.mnt := rfl
@[simp] theorem modMp_pair (f : Mport → Mport) (s : State) : (modMp f s).pair = s.pair := rfl
@[simp] theorem modMp_vault (f : Mport → Mport) (s : State) : (modMp f s).vault = s.vault := rfl

/-! `modSg` -/

@[simp] theorem modSg_pending (f : SaggarSt → SaggarSt) (s : State) : (modSg f s).pending = s.pending := rfl
@[simp] theorem modSg_outbox (f : SaggarSt → SaggarSt) (s : State) : (modSg f s).outbox = s.outbox := rfl
@[simp] theorem modSg_fresh (f : SaggarSt → SaggarSt) (s : State) : (modSg f s).fresh = s.fresh := rfl
@[simp] theorem modSg_ident (f : SaggarSt → SaggarSt) (s : State) : (modSg f s).ident = s.ident := rfl
@[simp] theorem modSg_power (f : SaggarSt → SaggarSt) (s : State) : (modSg f s).power = s.power := rfl
@[simp] theorem modSg_host (f : SaggarSt → SaggarSt) (s : State) : (modSg f s).host = s.host := rfl
@[simp] theorem modSg_time (f : SaggarSt → SaggarSt) (s : State) : (modSg f s).time = s.time := rfl
@[simp] theorem modSg_rf (f : SaggarSt → SaggarSt) (s : State) : (modSg f s).rf = s.rf := rfl
@[simp] theorem modSg_cx (f : SaggarSt → SaggarSt) (s : State) : (modSg f s).cx = s.cx := rfl
@[simp] theorem modSg_audio (f : SaggarSt → SaggarSt) (s : State) : (modSg f s).audio = s.audio := rfl
@[simp] theorem modSg_port (f : SaggarSt → SaggarSt) (s : State) : (modSg f s).port = s.port := rfl
@[simp] theorem modSg_mp (f : SaggarSt → SaggarSt) (s : State) : (modSg f s).mp = s.mp := rfl
@[simp] theorem modSg_sg (f : SaggarSt → SaggarSt) (s : State) : (modSg f s).sg = f s.sg := rfl
@[simp] theorem modSg_cry (f : SaggarSt → SaggarSt) (s : State) : (modSg f s).cry = s.cry := rfl
@[simp] theorem modSg_mem (f : SaggarSt → SaggarSt) (s : State) : (modSg f s).mem = s.mem := rfl
@[simp] theorem modSg_mnt (f : SaggarSt → SaggarSt) (s : State) : (modSg f s).mnt = s.mnt := rfl
@[simp] theorem modSg_pair (f : SaggarSt → SaggarSt) (s : State) : (modSg f s).pair = s.pair := rfl
@[simp] theorem modSg_vault (f : SaggarSt → SaggarSt) (s : State) : (modSg f s).vault = s.vault := rfl

/-! `modCry` -/

@[simp] theorem modCry_pending (f : CrySt → CrySt) (s : State) : (modCry f s).pending = s.pending := rfl
@[simp] theorem modCry_outbox (f : CrySt → CrySt) (s : State) : (modCry f s).outbox = s.outbox := rfl
@[simp] theorem modCry_fresh (f : CrySt → CrySt) (s : State) : (modCry f s).fresh = s.fresh := rfl
@[simp] theorem modCry_ident (f : CrySt → CrySt) (s : State) : (modCry f s).ident = s.ident := rfl
@[simp] theorem modCry_power (f : CrySt → CrySt) (s : State) : (modCry f s).power = s.power := rfl
@[simp] theorem modCry_host (f : CrySt → CrySt) (s : State) : (modCry f s).host = s.host := rfl
@[simp] theorem modCry_time (f : CrySt → CrySt) (s : State) : (modCry f s).time = s.time := rfl
@[simp] theorem modCry_rf (f : CrySt → CrySt) (s : State) : (modCry f s).rf = s.rf := rfl
@[simp] theorem modCry_cx (f : CrySt → CrySt) (s : State) : (modCry f s).cx = s.cx := rfl
@[simp] theorem modCry_audio (f : CrySt → CrySt) (s : State) : (modCry f s).audio = s.audio := rfl
@[simp] theorem modCry_port (f : CrySt → CrySt) (s : State) : (modCry f s).port = s.port := rfl
@[simp] theorem modCry_mp (f : CrySt → CrySt) (s : State) : (modCry f s).mp = s.mp := rfl
@[simp] theorem modCry_sg (f : CrySt → CrySt) (s : State) : (modCry f s).sg = s.sg := rfl
@[simp] theorem modCry_cry (f : CrySt → CrySt) (s : State) : (modCry f s).cry = f s.cry := rfl
@[simp] theorem modCry_mem (f : CrySt → CrySt) (s : State) : (modCry f s).mem = s.mem := rfl
@[simp] theorem modCry_mnt (f : CrySt → CrySt) (s : State) : (modCry f s).mnt = s.mnt := rfl
@[simp] theorem modCry_pair (f : CrySt → CrySt) (s : State) : (modCry f s).pair = s.pair := rfl
@[simp] theorem modCry_vault (f : CrySt → CrySt) (s : State) : (modCry f s).vault = s.vault := rfl

/-! `modMem` -/

@[simp] theorem modMem_pending (f : MemSt → MemSt) (s : State) : (modMem f s).pending = s.pending := rfl
@[simp] theorem modMem_outbox (f : MemSt → MemSt) (s : State) : (modMem f s).outbox = s.outbox := rfl
@[simp] theorem modMem_fresh (f : MemSt → MemSt) (s : State) : (modMem f s).fresh = s.fresh := rfl
@[simp] theorem modMem_ident (f : MemSt → MemSt) (s : State) : (modMem f s).ident = s.ident := rfl
@[simp] theorem modMem_power (f : MemSt → MemSt) (s : State) : (modMem f s).power = s.power := rfl
@[simp] theorem modMem_host (f : MemSt → MemSt) (s : State) : (modMem f s).host = s.host := rfl
@[simp] theorem modMem_time (f : MemSt → MemSt) (s : State) : (modMem f s).time = s.time := rfl
@[simp] theorem modMem_rf (f : MemSt → MemSt) (s : State) : (modMem f s).rf = s.rf := rfl
@[simp] theorem modMem_cx (f : MemSt → MemSt) (s : State) : (modMem f s).cx = s.cx := rfl
@[simp] theorem modMem_audio (f : MemSt → MemSt) (s : State) : (modMem f s).audio = s.audio := rfl
@[simp] theorem modMem_port (f : MemSt → MemSt) (s : State) : (modMem f s).port = s.port := rfl
@[simp] theorem modMem_mp (f : MemSt → MemSt) (s : State) : (modMem f s).mp = s.mp := rfl
@[simp] theorem modMem_sg (f : MemSt → MemSt) (s : State) : (modMem f s).sg = s.sg := rfl
@[simp] theorem modMem_cry (f : MemSt → MemSt) (s : State) : (modMem f s).cry = s.cry := rfl
@[simp] theorem modMem_mem (f : MemSt → MemSt) (s : State) : (modMem f s).mem = f s.mem := rfl
@[simp] theorem modMem_mnt (f : MemSt → MemSt) (s : State) : (modMem f s).mnt = s.mnt := rfl
@[simp] theorem modMem_pair (f : MemSt → MemSt) (s : State) : (modMem f s).pair = s.pair := rfl
@[simp] theorem modMem_vault (f : MemSt → MemSt) (s : State) : (modMem f s).vault = s.vault := rfl

/-! `modMnt` -/

@[simp] theorem modMnt_pending (f : MaintSt → MaintSt) (s : State) : (modMnt f s).pending = s.pending := rfl
@[simp] theorem modMnt_outbox (f : MaintSt → MaintSt) (s : State) : (modMnt f s).outbox = s.outbox := rfl
@[simp] theorem modMnt_fresh (f : MaintSt → MaintSt) (s : State) : (modMnt f s).fresh = s.fresh := rfl
@[simp] theorem modMnt_ident (f : MaintSt → MaintSt) (s : State) : (modMnt f s).ident = s.ident := rfl
@[simp] theorem modMnt_power (f : MaintSt → MaintSt) (s : State) : (modMnt f s).power = s.power := rfl
@[simp] theorem modMnt_host (f : MaintSt → MaintSt) (s : State) : (modMnt f s).host = s.host := rfl
@[simp] theorem modMnt_time (f : MaintSt → MaintSt) (s : State) : (modMnt f s).time = s.time := rfl
@[simp] theorem modMnt_rf (f : MaintSt → MaintSt) (s : State) : (modMnt f s).rf = s.rf := rfl
@[simp] theorem modMnt_cx (f : MaintSt → MaintSt) (s : State) : (modMnt f s).cx = s.cx := rfl
@[simp] theorem modMnt_audio (f : MaintSt → MaintSt) (s : State) : (modMnt f s).audio = s.audio := rfl
@[simp] theorem modMnt_port (f : MaintSt → MaintSt) (s : State) : (modMnt f s).port = s.port := rfl
@[simp] theorem modMnt_mp (f : MaintSt → MaintSt) (s : State) : (modMnt f s).mp = s.mp := rfl
@[simp] theorem modMnt_sg (f : MaintSt → MaintSt) (s : State) : (modMnt f s).sg = s.sg := rfl
@[simp] theorem modMnt_cry (f : MaintSt → MaintSt) (s : State) : (modMnt f s).cry = s.cry := rfl
@[simp] theorem modMnt_mem (f : MaintSt → MaintSt) (s : State) : (modMnt f s).mem = s.mem := rfl
@[simp] theorem modMnt_mnt (f : MaintSt → MaintSt) (s : State) : (modMnt f s).mnt = f s.mnt := rfl
@[simp] theorem modMnt_pair (f : MaintSt → MaintSt) (s : State) : (modMnt f s).pair = s.pair := rfl
@[simp] theorem modMnt_vault (f : MaintSt → MaintSt) (s : State) : (modMnt f s).vault = s.vault := rfl

/-! `modPair` -/

@[simp] theorem modPair_pending (f : PairSt → PairSt) (s : State) : (modPair f s).pending = s.pending := rfl
@[simp] theorem modPair_outbox (f : PairSt → PairSt) (s : State) : (modPair f s).outbox = s.outbox := rfl
@[simp] theorem modPair_fresh (f : PairSt → PairSt) (s : State) : (modPair f s).fresh = s.fresh := rfl
@[simp] theorem modPair_ident (f : PairSt → PairSt) (s : State) : (modPair f s).ident = s.ident := rfl
@[simp] theorem modPair_power (f : PairSt → PairSt) (s : State) : (modPair f s).power = s.power := rfl
@[simp] theorem modPair_host (f : PairSt → PairSt) (s : State) : (modPair f s).host = s.host := rfl
@[simp] theorem modPair_time (f : PairSt → PairSt) (s : State) : (modPair f s).time = s.time := rfl
@[simp] theorem modPair_rf (f : PairSt → PairSt) (s : State) : (modPair f s).rf = s.rf := rfl
@[simp] theorem modPair_cx (f : PairSt → PairSt) (s : State) : (modPair f s).cx = s.cx := rfl
@[simp] theorem modPair_audio (f : PairSt → PairSt) (s : State) : (modPair f s).audio = s.audio := rfl
@[simp] theorem modPair_port (f : PairSt → PairSt) (s : State) : (modPair f s).port = s.port := rfl
@[simp] theorem modPair_mp (f : PairSt → PairSt) (s : State) : (modPair f s).mp = s.mp := rfl
@[simp] theorem modPair_sg (f : PairSt → PairSt) (s : State) : (modPair f s).sg = s.sg := rfl
@[simp] theorem modPair_cry (f : PairSt → PairSt) (s : State) : (modPair f s).cry = s.cry := rfl
@[simp] theorem modPair_mem (f : PairSt → PairSt) (s : State) : (modPair f s).mem = s.mem := rfl
@[simp] theorem modPair_mnt (f : PairSt → PairSt) (s : State) : (modPair f s).mnt = s.mnt := rfl
@[simp] theorem modPair_pair (f : PairSt → PairSt) (s : State) : (modPair f s).pair = f s.pair := rfl
@[simp] theorem modPair_vault (f : PairSt → PairSt) (s : State) : (modPair f s).vault = s.vault := rfl

/-! `modVault` -/

@[simp] theorem modVault_pending (f : Vault → Vault) (s : State) : (modVault f s).pending = s.pending := rfl
@[simp] theorem modVault_outbox (f : Vault → Vault) (s : State) : (modVault f s).outbox = s.outbox := rfl
@[simp] theorem modVault_fresh (f : Vault → Vault) (s : State) : (modVault f s).fresh = s.fresh := rfl
@[simp] theorem modVault_ident (f : Vault → Vault) (s : State) : (modVault f s).ident = s.ident := rfl
@[simp] theorem modVault_power (f : Vault → Vault) (s : State) : (modVault f s).power = s.power := rfl
@[simp] theorem modVault_host (f : Vault → Vault) (s : State) : (modVault f s).host = s.host := rfl
@[simp] theorem modVault_time (f : Vault → Vault) (s : State) : (modVault f s).time = s.time := rfl
@[simp] theorem modVault_rf (f : Vault → Vault) (s : State) : (modVault f s).rf = s.rf := rfl
@[simp] theorem modVault_cx (f : Vault → Vault) (s : State) : (modVault f s).cx = s.cx := rfl
@[simp] theorem modVault_audio (f : Vault → Vault) (s : State) : (modVault f s).audio = s.audio := rfl
@[simp] theorem modVault_port (f : Vault → Vault) (s : State) : (modVault f s).port = s.port := rfl
@[simp] theorem modVault_mp (f : Vault → Vault) (s : State) : (modVault f s).mp = s.mp := rfl
@[simp] theorem modVault_sg (f : Vault → Vault) (s : State) : (modVault f s).sg = s.sg := rfl
@[simp] theorem modVault_cry (f : Vault → Vault) (s : State) : (modVault f s).cry = s.cry := rfl
@[simp] theorem modVault_mem (f : Vault → Vault) (s : State) : (modVault f s).mem = s.mem := rfl
@[simp] theorem modVault_mnt (f : Vault → Vault) (s : State) : (modVault f s).mnt = s.mnt := rfl
@[simp] theorem modVault_pair (f : Vault → Vault) (s : State) : (modVault f s).pair = s.pair := rfl
@[simp] theorem modVault_vault (f : Vault → Vault) (s : State) : (modVault f s).vault = f s.vault := rfl

/-! `modIdent` -/

@[simp] theorem modIdent_pending (f : Ident → Ident) (s : State) : (modIdent f s).pending = s.pending := rfl
@[simp] theorem modIdent_outbox (f : Ident → Ident) (s : State) : (modIdent f s).outbox = s.outbox := rfl
@[simp] theorem modIdent_fresh (f : Ident → Ident) (s : State) : (modIdent f s).fresh = s.fresh := rfl
@[simp] theorem modIdent_ident (f : Ident → Ident) (s : State) : (modIdent f s).ident = f s.ident := rfl
@[simp] theorem modIdent_power (f : Ident → Ident) (s : State) : (modIdent f s).power = s.power := rfl
@[simp] theorem modIdent_host (f : Ident → Ident) (s : State) : (modIdent f s).host = s.host := rfl
@[simp] theorem modIdent_time (f : Ident → Ident) (s : State) : (modIdent f s).time = s.time := rfl
@[simp] theorem modIdent_rf (f : Ident → Ident) (s : State) : (modIdent f s).rf = s.rf := rfl
@[simp] theorem modIdent_cx (f : Ident → Ident) (s : State) : (modIdent f s).cx = s.cx := rfl
@[simp] theorem modIdent_audio (f : Ident → Ident) (s : State) : (modIdent f s).audio = s.audio := rfl
@[simp] theorem modIdent_port (f : Ident → Ident) (s : State) : (modIdent f s).port = s.port := rfl
@[simp] theorem modIdent_mp (f : Ident → Ident) (s : State) : (modIdent f s).mp = s.mp := rfl
@[simp] theorem modIdent_sg (f : Ident → Ident) (s : State) : (modIdent f s).sg = s.sg := rfl
@[simp] theorem modIdent_cry (f : Ident → Ident) (s : State) : (modIdent f s).cry = s.cry := rfl
@[simp] theorem modIdent_mem (f : Ident → Ident) (s : State) : (modIdent f s).mem = s.mem := rfl
@[simp] theorem modIdent_mnt (f : Ident → Ident) (s : State) : (modIdent f s).mnt = s.mnt := rfl
@[simp] theorem modIdent_pair (f : Ident → Ident) (s : State) : (modIdent f s).pair = s.pair := rfl
@[simp] theorem modIdent_vault (f : Ident → Ident) (s : State) : (modIdent f s).vault = s.vault := rfl

/-! `modPairq` -/

@[simp] theorem modPairq_pending (i : Fin 32) (f : Pairq → Pairq) (s : State) : (modPairq i f s).pending = s.pending := rfl
@[simp] theorem modPairq_outbox (i : Fin 32) (f : Pairq → Pairq) (s : State) : (modPairq i f s).outbox = s.outbox := rfl
@[simp] theorem modPairq_fresh (i : Fin 32) (f : Pairq → Pairq) (s : State) : (modPairq i f s).fresh = s.fresh := rfl
@[simp] theorem modPairq_ident (i : Fin 32) (f : Pairq → Pairq) (s : State) : (modPairq i f s).ident = s.ident := rfl
@[simp] theorem modPairq_power (i : Fin 32) (f : Pairq → Pairq) (s : State) : (modPairq i f s).power = s.power := rfl
@[simp] theorem modPairq_host (i : Fin 32) (f : Pairq → Pairq) (s : State) : (modPairq i f s).host = { s.host with pairs := upd s.host.pairs i f } := rfl
@[simp] theorem modPairq_time (i : Fin 32) (f : Pairq → Pairq) (s : State) : (modPairq i f s).time = s.time := rfl
@[simp] theorem modPairq_rf (i : Fin 32) (f : Pairq → Pairq) (s : State) : (modPairq i f s).rf = s.rf := rfl
@[simp] theorem modPairq_cx (i : Fin 32) (f : Pairq → Pairq) (s : State) : (modPairq i f s).cx = s.cx := rfl
@[simp] theorem modPairq_audio (i : Fin 32) (f : Pairq → Pairq) (s : State) : (modPairq i f s).audio = s.audio := rfl
@[simp] theorem modPairq_port (i : Fin 32) (f : Pairq → Pairq) (s : State) : (modPairq i f s).port = s.port := rfl
@[simp] theorem modPairq_mp (i : Fin 32) (f : Pairq → Pairq) (s : State) : (modPairq i f s).mp = s.mp := rfl
@[simp] theorem modPairq_sg (i : Fin 32) (f : Pairq → Pairq) (s : State) : (modPairq i f s).sg = s.sg := rfl
@[simp] theorem modPairq_cry (i : Fin 32) (f : Pairq → Pairq) (s : State) : (modPairq i f s).cry = s.cry := rfl
@[simp] theorem modPairq_mem (i : Fin 32) (f : Pairq → Pairq) (s : State) : (modPairq i f s).mem = s.mem := rfl
@[simp] theorem modPairq_mnt (i : Fin 32) (f : Pairq → Pairq) (s : State) : (modPairq i f s).mnt = s.mnt := rfl
@[simp] theorem modPairq_pair (i : Fin 32) (f : Pairq → Pairq) (s : State) : (modPairq i f s).pair = s.pair := rfl
@[simp] theorem modPairq_vault (i : Fin 32) (f : Pairq → Pairq) (s : State) : (modPairq i f s).vault = s.vault := rfl

/-! `modRing` -/

@[simp] theorem modRing_pending (i : Fin 4) (f : RetRing → RetRing) (s : State) : (modRing i f s).pending = s.pending := rfl
@[simp] theorem modRing_outbox (i : Fin 4) (f : RetRing → RetRing) (s : State) : (modRing i f s).outbox = s.outbox := rfl
@[simp] theorem modRing_fresh (i : Fin 4) (f : RetRing → RetRing) (s : State) : (modRing i f s).fresh = s.fresh := rfl
@[simp] theorem modRing_ident (i : Fin 4) (f : RetRing → RetRing) (s : State) : (modRing i f s).ident = s.ident := rfl
@[simp] theorem modRing_power (i : Fin 4) (f : RetRing → RetRing) (s : State) : (modRing i f s).power = s.power := rfl
@[simp] theorem modRing_host (i : Fin 4) (f : RetRing → RetRing) (s : State) : (modRing i f s).host = { s.host with rings := upd s.host.rings i f } := rfl
@[simp] theorem modRing_time (i : Fin 4) (f : RetRing → RetRing) (s : State) : (modRing i f s).time = s.time := rfl
@[simp] theorem modRing_rf (i : Fin 4) (f : RetRing → RetRing) (s : State) : (modRing i f s).rf = s.rf := rfl
@[simp] theorem modRing_cx (i : Fin 4) (f : RetRing → RetRing) (s : State) : (modRing i f s).cx = s.cx := rfl
@[simp] theorem modRing_audio (i : Fin 4) (f : RetRing → RetRing) (s : State) : (modRing i f s).audio = s.audio := rfl
@[simp] theorem modRing_port (i : Fin 4) (f : RetRing → RetRing) (s : State) : (modRing i f s).port = s.port := rfl
@[simp] theorem modRing_mp (i : Fin 4) (f : RetRing → RetRing) (s : State) : (modRing i f s).mp = s.mp := rfl
@[simp] theorem modRing_sg (i : Fin 4) (f : RetRing → RetRing) (s : State) : (modRing i f s).sg = s.sg := rfl
@[simp] theorem modRing_cry (i : Fin 4) (f : RetRing → RetRing) (s : State) : (modRing i f s).cry = s.cry := rfl
@[simp] theorem modRing_mem (i : Fin 4) (f : RetRing → RetRing) (s : State) : (modRing i f s).mem = s.mem := rfl
@[simp] theorem modRing_mnt (i : Fin 4) (f : RetRing → RetRing) (s : State) : (modRing i f s).mnt = s.mnt := rfl
@[simp] theorem modRing_pair (i : Fin 4) (f : RetRing → RetRing) (s : State) : (modRing i f s).pair = s.pair := rfl
@[simp] theorem modRing_vault (i : Fin 4) (f : RetRing → RetRing) (s : State) : (modRing i f s).vault = s.vault := rfl

/-! `modPll` -/

@[simp] theorem modPll_pending (i : Fin 2) (f : Pll → Pll) (s : State) : (modPll i f s).pending = s.pending := rfl
@[simp] theorem modPll_outbox (i : Fin 2) (f : Pll → Pll) (s : State) : (modPll i f s).outbox = s.outbox := rfl
@[simp] theorem modPll_fresh (i : Fin 2) (f : Pll → Pll) (s : State) : (modPll i f s).fresh = s.fresh := rfl
@[simp] theorem modPll_ident (i : Fin 2) (f : Pll → Pll) (s : State) : (modPll i f s).ident = s.ident := rfl
@[simp] theorem modPll_power (i : Fin 2) (f : Pll → Pll) (s : State) : (modPll i f s).power = s.power := rfl
@[simp] theorem modPll_host (i : Fin 2) (f : Pll → Pll) (s : State) : (modPll i f s).host = s.host := rfl
@[simp] theorem modPll_time (i : Fin 2) (f : Pll → Pll) (s : State) : (modPll i f s).time = { s.time with plls := upd s.time.plls i f } := rfl
@[simp] theorem modPll_rf (i : Fin 2) (f : Pll → Pll) (s : State) : (modPll i f s).rf = s.rf := rfl
@[simp] theorem modPll_cx (i : Fin 2) (f : Pll → Pll) (s : State) : (modPll i f s).cx = s.cx := rfl
@[simp] theorem modPll_audio (i : Fin 2) (f : Pll → Pll) (s : State) : (modPll i f s).audio = s.audio := rfl
@[simp] theorem modPll_port (i : Fin 2) (f : Pll → Pll) (s : State) : (modPll i f s).port = s.port := rfl
@[simp] theorem modPll_mp (i : Fin 2) (f : Pll → Pll) (s : State) : (modPll i f s).mp = s.mp := rfl
@[simp] theorem modPll_sg (i : Fin 2) (f : Pll → Pll) (s : State) : (modPll i f s).sg = s.sg := rfl
@[simp] theorem modPll_cry (i : Fin 2) (f : Pll → Pll) (s : State) : (modPll i f s).cry = s.cry := rfl
@[simp] theorem modPll_mem (i : Fin 2) (f : Pll → Pll) (s : State) : (modPll i f s).mem = s.mem := rfl
@[simp] theorem modPll_mnt (i : Fin 2) (f : Pll → Pll) (s : State) : (modPll i f s).mnt = s.mnt := rfl
@[simp] theorem modPll_pair (i : Fin 2) (f : Pll → Pll) (s : State) : (modPll i f s).pair = s.pair := rfl
@[simp] theorem modPll_vault (i : Fin 2) (f : Pll → Pll) (s : State) : (modPll i f s).vault = s.vault := rfl

/-! `modWb` -/

@[simp] theorem modWb_pending (i : Fin 2) (f : WbIn → WbIn) (s : State) : (modWb i f s).pending = s.pending := rfl
@[simp] theorem modWb_outbox (i : Fin 2) (f : WbIn → WbIn) (s : State) : (modWb i f s).outbox = s.outbox := rfl
@[simp] theorem modWb_fresh (i : Fin 2) (f : WbIn → WbIn) (s : State) : (modWb i f s).fresh = s.fresh := rfl
@[simp] theorem modWb_ident (i : Fin 2) (f : WbIn → WbIn) (s : State) : (modWb i f s).ident = s.ident := rfl
@[simp] theorem modWb_power (i : Fin 2) (f : WbIn → WbIn) (s : State) : (modWb i f s).power = s.power := rfl
@[simp] theorem modWb_host (i : Fin 2) (f : WbIn → WbIn) (s : State) : (modWb i f s).host = s.host := rfl
@[simp] theorem modWb_time (i : Fin 2) (f : WbIn → WbIn) (s : State) : (modWb i f s).time = s.time := rfl
@[simp] theorem modWb_rf (i : Fin 2) (f : WbIn → WbIn) (s : State) : (modWb i f s).rf = { s.rf with wb := upd s.rf.wb i f } := rfl
@[simp] theorem modWb_cx (i : Fin 2) (f : WbIn → WbIn) (s : State) : (modWb i f s).cx = s.cx := rfl
@[simp] theorem modWb_audio (i : Fin 2) (f : WbIn → WbIn) (s : State) : (modWb i f s).audio = s.audio := rfl
@[simp] theorem modWb_port (i : Fin 2) (f : WbIn → WbIn) (s : State) : (modWb i f s).port = s.port := rfl
@[simp] theorem modWb_mp (i : Fin 2) (f : WbIn → WbIn) (s : State) : (modWb i f s).mp = s.mp := rfl
@[simp] theorem modWb_sg (i : Fin 2) (f : WbIn → WbIn) (s : State) : (modWb i f s).sg = s.sg := rfl
@[simp] theorem modWb_cry (i : Fin 2) (f : WbIn → WbIn) (s : State) : (modWb i f s).cry = s.cry := rfl
@[simp] theorem modWb_mem (i : Fin 2) (f : WbIn → WbIn) (s : State) : (modWb i f s).mem = s.mem := rfl
@[simp] theorem modWb_mnt (i : Fin 2) (f : WbIn → WbIn) (s : State) : (modWb i f s).mnt = s.mnt := rfl
@[simp] theorem modWb_pair (i : Fin 2) (f : WbIn → WbIn) (s : State) : (modWb i f s).pair = s.pair := rfl
@[simp] theorem modWb_vault (i : Fin 2) (f : WbIn → WbIn) (s : State) : (modWb i f s).vault = s.vault := rfl

/-! `modCarver` -/

@[simp] theorem modCarver_pending (i : Fin 8) (f : Carver → Carver) (s : State) : (modCarver i f s).pending = s.pending := rfl
@[simp] theorem modCarver_outbox (i : Fin 8) (f : Carver → Carver) (s : State) : (modCarver i f s).outbox = s.outbox := rfl
@[simp] theorem modCarver_fresh (i : Fin 8) (f : Carver → Carver) (s : State) : (modCarver i f s).fresh = s.fresh := rfl
@[simp] theorem modCarver_ident (i : Fin 8) (f : Carver → Carver) (s : State) : (modCarver i f s).ident = s.ident := rfl
@[simp] theorem modCarver_power (i : Fin 8) (f : Carver → Carver) (s : State) : (modCarver i f s).power = s.power := rfl
@[simp] theorem modCarver_host (i : Fin 8) (f : Carver → Carver) (s : State) : (modCarver i f s).host = s.host := rfl
@[simp] theorem modCarver_time (i : Fin 8) (f : Carver → Carver) (s : State) : (modCarver i f s).time = s.time := rfl
@[simp] theorem modCarver_rf (i : Fin 8) (f : Carver → Carver) (s : State) : (modCarver i f s).rf = { s.rf with carvers := upd s.rf.carvers i f } := rfl
@[simp] theorem modCarver_cx (i : Fin 8) (f : Carver → Carver) (s : State) : (modCarver i f s).cx = s.cx := rfl
@[simp] theorem modCarver_audio (i : Fin 8) (f : Carver → Carver) (s : State) : (modCarver i f s).audio = s.audio := rfl
@[simp] theorem modCarver_port (i : Fin 8) (f : Carver → Carver) (s : State) : (modCarver i f s).port = s.port := rfl
@[simp] theorem modCarver_mp (i : Fin 8) (f : Carver → Carver) (s : State) : (modCarver i f s).mp = s.mp := rfl
@[simp] theorem modCarver_sg (i : Fin 8) (f : Carver → Carver) (s : State) : (modCarver i f s).sg = s.sg := rfl
@[simp] theorem modCarver_cry (i : Fin 8) (f : Carver → Carver) (s : State) : (modCarver i f s).cry = s.cry := rfl
@[simp] theorem modCarver_mem (i : Fin 8) (f : Carver → Carver) (s : State) : (modCarver i f s).mem = s.mem := rfl
@[simp] theorem modCarver_mnt (i : Fin 8) (f : Carver → Carver) (s : State) : (modCarver i f s).mnt = s.mnt := rfl
@[simp] theorem modCarver_pair (i : Fin 8) (f : Carver → Carver) (s : State) : (modCarver i f s).pair = s.pair := rfl
@[simp] theorem modCarver_vault (i : Fin 8) (f : Carver → Carver) (s : State) : (modCarver i f s).vault = s.vault := rfl

/-! `modTuner` -/

@[simp] theorem modTuner_pending (i : Fin 4) (f : Tuner → Tuner) (s : State) : (modTuner i f s).pending = s.pending := rfl
@[simp] theorem modTuner_outbox (i : Fin 4) (f : Tuner → Tuner) (s : State) : (modTuner i f s).outbox = s.outbox := rfl
@[simp] theorem modTuner_fresh (i : Fin 4) (f : Tuner → Tuner) (s : State) : (modTuner i f s).fresh = s.fresh := rfl
@[simp] theorem modTuner_ident (i : Fin 4) (f : Tuner → Tuner) (s : State) : (modTuner i f s).ident = s.ident := rfl
@[simp] theorem modTuner_power (i : Fin 4) (f : Tuner → Tuner) (s : State) : (modTuner i f s).power = s.power := rfl
@[simp] theorem modTuner_host (i : Fin 4) (f : Tuner → Tuner) (s : State) : (modTuner i f s).host = s.host := rfl
@[simp] theorem modTuner_time (i : Fin 4) (f : Tuner → Tuner) (s : State) : (modTuner i f s).time = s.time := rfl
@[simp] theorem modTuner_rf (i : Fin 4) (f : Tuner → Tuner) (s : State) : (modTuner i f s).rf = { s.rf with tuners := upd s.rf.tuners i f } := rfl
@[simp] theorem modTuner_cx (i : Fin 4) (f : Tuner → Tuner) (s : State) : (modTuner i f s).cx = s.cx := rfl
@[simp] theorem modTuner_audio (i : Fin 4) (f : Tuner → Tuner) (s : State) : (modTuner i f s).audio = s.audio := rfl
@[simp] theorem modTuner_port (i : Fin 4) (f : Tuner → Tuner) (s : State) : (modTuner i f s).port = s.port := rfl
@[simp] theorem modTuner_mp (i : Fin 4) (f : Tuner → Tuner) (s : State) : (modTuner i f s).mp = s.mp := rfl
@[simp] theorem modTuner_sg (i : Fin 4) (f : Tuner → Tuner) (s : State) : (modTuner i f s).sg = s.sg := rfl
@[simp] theorem modTuner_cry (i : Fin 4) (f : Tuner → Tuner) (s : State) : (modTuner i f s).cry = s.cry := rfl
@[simp] theorem modTuner_mem (i : Fin 4) (f : Tuner → Tuner) (s : State) : (modTuner i f s).mem = s.mem := rfl
@[simp] theorem modTuner_mnt (i : Fin 4) (f : Tuner → Tuner) (s : State) : (modTuner i f s).mnt = s.mnt := rfl
@[simp] theorem modTuner_pair (i : Fin 4) (f : Tuner → Tuner) (s : State) : (modTuner i f s).pair = s.pair := rfl
@[simp] theorem modTuner_vault (i : Fin 4) (f : Tuner → Tuner) (s : State) : (modTuner i f s).vault = s.vault := rfl

/-! `modPath` -/

@[simp] theorem modPath_pending (i : Fin 64) (f : Path → Path) (s : State) : (modPath i f s).pending = s.pending := rfl
@[simp] theorem modPath_outbox (i : Fin 64) (f : Path → Path) (s : State) : (modPath i f s).outbox = s.outbox := rfl
@[simp] theorem modPath_fresh (i : Fin 64) (f : Path → Path) (s : State) : (modPath i f s).fresh = s.fresh := rfl
@[simp] theorem modPath_ident (i : Fin 64) (f : Path → Path) (s : State) : (modPath i f s).ident = s.ident := rfl
@[simp] theorem modPath_power (i : Fin 64) (f : Path → Path) (s : State) : (modPath i f s).power = s.power := rfl
@[simp] theorem modPath_host (i : Fin 64) (f : Path → Path) (s : State) : (modPath i f s).host = s.host := rfl
@[simp] theorem modPath_time (i : Fin 64) (f : Path → Path) (s : State) : (modPath i f s).time = s.time := rfl
@[simp] theorem modPath_rf (i : Fin 64) (f : Path → Path) (s : State) : (modPath i f s).rf = s.rf := rfl
@[simp] theorem modPath_cx (i : Fin 64) (f : Path → Path) (s : State) : (modPath i f s).cx = { s.cx with paths := upd s.cx.paths i f } := rfl
@[simp] theorem modPath_audio (i : Fin 64) (f : Path → Path) (s : State) : (modPath i f s).audio = s.audio := rfl
@[simp] theorem modPath_port (i : Fin 64) (f : Path → Path) (s : State) : (modPath i f s).port = s.port := rfl
@[simp] theorem modPath_mp (i : Fin 64) (f : Path → Path) (s : State) : (modPath i f s).mp = s.mp := rfl
@[simp] theorem modPath_sg (i : Fin 64) (f : Path → Path) (s : State) : (modPath i f s).sg = s.sg := rfl
@[simp] theorem modPath_cry (i : Fin 64) (f : Path → Path) (s : State) : (modPath i f s).cry = s.cry := rfl
@[simp] theorem modPath_mem (i : Fin 64) (f : Path → Path) (s : State) : (modPath i f s).mem = s.mem := rfl
@[simp] theorem modPath_mnt (i : Fin 64) (f : Path → Path) (s : State) : (modPath i f s).mnt = s.mnt := rfl
@[simp] theorem modPath_pair (i : Fin 64) (f : Path → Path) (s : State) : (modPath i f s).pair = s.pair := rfl
@[simp] theorem modPath_vault (i : Fin 64) (f : Path → Path) (s : State) : (modPath i f s).vault = s.vault := rfl

/-! `modCtx` -/

@[simp] theorem modCtx_pending (i : Fin 64) (f : Ctx → Ctx) (s : State) : (modCtx i f s).pending = s.pending := rfl
@[simp] theorem modCtx_outbox (i : Fin 64) (f : Ctx → Ctx) (s : State) : (modCtx i f s).outbox = s.outbox := rfl
@[simp] theorem modCtx_fresh (i : Fin 64) (f : Ctx → Ctx) (s : State) : (modCtx i f s).fresh = s.fresh := rfl
@[simp] theorem modCtx_ident (i : Fin 64) (f : Ctx → Ctx) (s : State) : (modCtx i f s).ident = s.ident := rfl
@[simp] theorem modCtx_power (i : Fin 64) (f : Ctx → Ctx) (s : State) : (modCtx i f s).power = s.power := rfl
@[simp] theorem modCtx_host (i : Fin 64) (f : Ctx → Ctx) (s : State) : (modCtx i f s).host = s.host := rfl
@[simp] theorem modCtx_time (i : Fin 64) (f : Ctx → Ctx) (s : State) : (modCtx i f s).time = s.time := rfl
@[simp] theorem modCtx_rf (i : Fin 64) (f : Ctx → Ctx) (s : State) : (modCtx i f s).rf = s.rf := rfl
@[simp] theorem modCtx_cx (i : Fin 64) (f : Ctx → Ctx) (s : State) : (modCtx i f s).cx = { s.cx with ctxs := upd s.cx.ctxs i f } := rfl
@[simp] theorem modCtx_audio (i : Fin 64) (f : Ctx → Ctx) (s : State) : (modCtx i f s).audio = s.audio := rfl
@[simp] theorem modCtx_port (i : Fin 64) (f : Ctx → Ctx) (s : State) : (modCtx i f s).port = s.port := rfl
@[simp] theorem modCtx_mp (i : Fin 64) (f : Ctx → Ctx) (s : State) : (modCtx i f s).mp = s.mp := rfl
@[simp] theorem modCtx_sg (i : Fin 64) (f : Ctx → Ctx) (s : State) : (modCtx i f s).sg = s.sg := rfl
@[simp] theorem modCtx_cry (i : Fin 64) (f : Ctx → Ctx) (s : State) : (modCtx i f s).cry = s.cry := rfl
@[simp] theorem modCtx_mem (i : Fin 64) (f : Ctx → Ctx) (s : State) : (modCtx i f s).mem = s.mem := rfl
@[simp] theorem modCtx_mnt (i : Fin 64) (f : Ctx → Ctx) (s : State) : (modCtx i f s).mnt = s.mnt := rfl
@[simp] theorem modCtx_pair (i : Fin 64) (f : Ctx → Ctx) (s : State) : (modCtx i f s).pair = s.pair := rfl
@[simp] theorem modCtx_vault (i : Fin 64) (f : Ctx → Ctx) (s : State) : (modCtx i f s).vault = s.vault := rfl

/-! `modWheel` -/

@[simp] theorem modWheel_pending (i : Fin 16) (f : Wheel → Wheel) (s : State) : (modWheel i f s).pending = s.pending := rfl
@[simp] theorem modWheel_outbox (i : Fin 16) (f : Wheel → Wheel) (s : State) : (modWheel i f s).outbox = s.outbox := rfl
@[simp] theorem modWheel_fresh (i : Fin 16) (f : Wheel → Wheel) (s : State) : (modWheel i f s).fresh = s.fresh := rfl
@[simp] theorem modWheel_ident (i : Fin 16) (f : Wheel → Wheel) (s : State) : (modWheel i f s).ident = s.ident := rfl
@[simp] theorem modWheel_power (i : Fin 16) (f : Wheel → Wheel) (s : State) : (modWheel i f s).power = s.power := rfl
@[simp] theorem modWheel_host (i : Fin 16) (f : Wheel → Wheel) (s : State) : (modWheel i f s).host = s.host := rfl
@[simp] theorem modWheel_time (i : Fin 16) (f : Wheel → Wheel) (s : State) : (modWheel i f s).time = s.time := rfl
@[simp] theorem modWheel_rf (i : Fin 16) (f : Wheel → Wheel) (s : State) : (modWheel i f s).rf = s.rf := rfl
@[simp] theorem modWheel_cx (i : Fin 16) (f : Wheel → Wheel) (s : State) : (modWheel i f s).cx = { s.cx with wheels := upd s.cx.wheels i f } := rfl
@[simp] theorem modWheel_audio (i : Fin 16) (f : Wheel → Wheel) (s : State) : (modWheel i f s).audio = s.audio := rfl
@[simp] theorem modWheel_port (i : Fin 16) (f : Wheel → Wheel) (s : State) : (modWheel i f s).port = s.port := rfl
@[simp] theorem modWheel_mp (i : Fin 16) (f : Wheel → Wheel) (s : State) : (modWheel i f s).mp = s.mp := rfl
@[simp] theorem modWheel_sg (i : Fin 16) (f : Wheel → Wheel) (s : State) : (modWheel i f s).sg = s.sg := rfl
@[simp] theorem modWheel_cry (i : Fin 16) (f : Wheel → Wheel) (s : State) : (modWheel i f s).cry = s.cry := rfl
@[simp] theorem modWheel_mem (i : Fin 16) (f : Wheel → Wheel) (s : State) : (modWheel i f s).mem = s.mem := rfl
@[simp] theorem modWheel_mnt (i : Fin 16) (f : Wheel → Wheel) (s : State) : (modWheel i f s).mnt = s.mnt := rfl
@[simp] theorem modWheel_pair (i : Fin 16) (f : Wheel → Wheel) (s : State) : (modWheel i f s).pair = s.pair := rfl
@[simp] theorem modWheel_vault (i : Fin 16) (f : Wheel → Wheel) (s : State) : (modWheel i f s).vault = s.vault := rfl

/-! `modSvc` -/

@[simp] theorem modSvc_pending (i : Fin 96) (f : Svc → Svc) (s : State) : (modSvc i f s).pending = s.pending := rfl
@[simp] theorem modSvc_outbox (i : Fin 96) (f : Svc → Svc) (s : State) : (modSvc i f s).outbox = s.outbox := rfl
@[simp] theorem modSvc_fresh (i : Fin 96) (f : Svc → Svc) (s : State) : (modSvc i f s).fresh = s.fresh := rfl
@[simp] theorem modSvc_ident (i : Fin 96) (f : Svc → Svc) (s : State) : (modSvc i f s).ident = s.ident := rfl
@[simp] theorem modSvc_power (i : Fin 96) (f : Svc → Svc) (s : State) : (modSvc i f s).power = s.power := rfl
@[simp] theorem modSvc_host (i : Fin 96) (f : Svc → Svc) (s : State) : (modSvc i f s).host = s.host := rfl
@[simp] theorem modSvc_time (i : Fin 96) (f : Svc → Svc) (s : State) : (modSvc i f s).time = s.time := rfl
@[simp] theorem modSvc_rf (i : Fin 96) (f : Svc → Svc) (s : State) : (modSvc i f s).rf = s.rf := rfl
@[simp] theorem modSvc_cx (i : Fin 96) (f : Svc → Svc) (s : State) : (modSvc i f s).cx = s.cx := rfl
@[simp] theorem modSvc_audio (i : Fin 96) (f : Svc → Svc) (s : State) : (modSvc i f s).audio = { s.audio with svcs := upd s.audio.svcs i f } := rfl
@[simp] theorem modSvc_port (i : Fin 96) (f : Svc → Svc) (s : State) : (modSvc i f s).port = s.port := rfl
@[simp] theorem modSvc_mp (i : Fin 96) (f : Svc → Svc) (s : State) : (modSvc i f s).mp = s.mp := rfl
@[simp] theorem modSvc_sg (i : Fin 96) (f : Svc → Svc) (s : State) : (modSvc i f s).sg = s.sg := rfl
@[simp] theorem modSvc_cry (i : Fin 96) (f : Svc → Svc) (s : State) : (modSvc i f s).cry = s.cry := rfl
@[simp] theorem modSvc_mem (i : Fin 96) (f : Svc → Svc) (s : State) : (modSvc i f s).mem = s.mem := rfl
@[simp] theorem modSvc_mnt (i : Fin 96) (f : Svc → Svc) (s : State) : (modSvc i f s).mnt = s.mnt := rfl
@[simp] theorem modSvc_pair (i : Fin 96) (f : Svc → Svc) (s : State) : (modSvc i f s).pair = s.pair := rfl
@[simp] theorem modSvc_vault (i : Fin 96) (f : Svc → Svc) (s : State) : (modSvc i f s).vault = s.vault := rfl

/-! `modPort` -/

@[simp] theorem modPort_pending (i : Fin 14) (f : Port → Port) (s : State) : (modPort i f s).pending = s.pending := rfl
@[simp] theorem modPort_outbox (i : Fin 14) (f : Port → Port) (s : State) : (modPort i f s).outbox = s.outbox := rfl
@[simp] theorem modPort_fresh (i : Fin 14) (f : Port → Port) (s : State) : (modPort i f s).fresh = s.fresh := rfl
@[simp] theorem modPort_ident (i : Fin 14) (f : Port → Port) (s : State) : (modPort i f s).ident = s.ident := rfl
@[simp] theorem modPort_power (i : Fin 14) (f : Port → Port) (s : State) : (modPort i f s).power = s.power := rfl
@[simp] theorem modPort_host (i : Fin 14) (f : Port → Port) (s : State) : (modPort i f s).host = s.host := rfl
@[simp] theorem modPort_time (i : Fin 14) (f : Port → Port) (s : State) : (modPort i f s).time = s.time := rfl
@[simp] theorem modPort_rf (i : Fin 14) (f : Port → Port) (s : State) : (modPort i f s).rf = s.rf := rfl
@[simp] theorem modPort_cx (i : Fin 14) (f : Port → Port) (s : State) : (modPort i f s).cx = s.cx := rfl
@[simp] theorem modPort_audio (i : Fin 14) (f : Port → Port) (s : State) : (modPort i f s).audio = s.audio := rfl
@[simp] theorem modPort_port (i : Fin 14) (f : Port → Port) (s : State) : (modPort i f s).port = { s.port with ports := upd s.port.ports i f } := rfl
@[simp] theorem modPort_mp (i : Fin 14) (f : Port → Port) (s : State) : (modPort i f s).mp = s.mp := rfl
@[simp] theorem modPort_sg (i : Fin 14) (f : Port → Port) (s : State) : (modPort i f s).sg = s.sg := rfl
@[simp] theorem modPort_cry (i : Fin 14) (f : Port → Port) (s : State) : (modPort i f s).cry = s.cry := rfl
@[simp] theorem modPort_mem (i : Fin 14) (f : Port → Port) (s : State) : (modPort i f s).mem = s.mem := rfl
@[simp] theorem modPort_mnt (i : Fin 14) (f : Port → Port) (s : State) : (modPort i f s).mnt = s.mnt := rfl
@[simp] theorem modPort_pair (i : Fin 14) (f : Port → Port) (s : State) : (modPort i f s).pair = s.pair := rfl
@[simp] theorem modPort_vault (i : Fin 14) (f : Port → Port) (s : State) : (modPort i f s).vault = s.vault := rfl

/-! `modAin` -/

@[simp] theorem modAin_pending (i : Fin 4) (f : Ain → Ain) (s : State) : (modAin i f s).pending = s.pending := rfl
@[simp] theorem modAin_outbox (i : Fin 4) (f : Ain → Ain) (s : State) : (modAin i f s).outbox = s.outbox := rfl
@[simp] theorem modAin_fresh (i : Fin 4) (f : Ain → Ain) (s : State) : (modAin i f s).fresh = s.fresh := rfl
@[simp] theorem modAin_ident (i : Fin 4) (f : Ain → Ain) (s : State) : (modAin i f s).ident = s.ident := rfl
@[simp] theorem modAin_power (i : Fin 4) (f : Ain → Ain) (s : State) : (modAin i f s).power = s.power := rfl
@[simp] theorem modAin_host (i : Fin 4) (f : Ain → Ain) (s : State) : (modAin i f s).host = s.host := rfl
@[simp] theorem modAin_time (i : Fin 4) (f : Ain → Ain) (s : State) : (modAin i f s).time = s.time := rfl
@[simp] theorem modAin_rf (i : Fin 4) (f : Ain → Ain) (s : State) : (modAin i f s).rf = s.rf := rfl
@[simp] theorem modAin_cx (i : Fin 4) (f : Ain → Ain) (s : State) : (modAin i f s).cx = s.cx := rfl
@[simp] theorem modAin_audio (i : Fin 4) (f : Ain → Ain) (s : State) : (modAin i f s).audio = s.audio := rfl
@[simp] theorem modAin_port (i : Fin 4) (f : Ain → Ain) (s : State) : (modAin i f s).port = { s.port with ains := upd s.port.ains i f } := rfl
@[simp] theorem modAin_mp (i : Fin 4) (f : Ain → Ain) (s : State) : (modAin i f s).mp = s.mp := rfl
@[simp] theorem modAin_sg (i : Fin 4) (f : Ain → Ain) (s : State) : (modAin i f s).sg = s.sg := rfl
@[simp] theorem modAin_cry (i : Fin 4) (f : Ain → Ain) (s : State) : (modAin i f s).cry = s.cry := rfl
@[simp] theorem modAin_mem (i : Fin 4) (f : Ain → Ain) (s : State) : (modAin i f s).mem = s.mem := rfl
@[simp] theorem modAin_mnt (i : Fin 4) (f : Ain → Ain) (s : State) : (modAin i f s).mnt = s.mnt := rfl
@[simp] theorem modAin_pair (i : Fin 4) (f : Ain → Ain) (s : State) : (modAin i f s).pair = s.pair := rfl
@[simp] theorem modAin_vault (i : Fin 4) (f : Ain → Ain) (s : State) : (modAin i f s).vault = s.vault := rfl

/-! `modSlot` -/

@[simp] theorem modSlot_pending (i : Fin 4) (f : Capture → Capture) (s : State) : (modSlot i f s).pending = s.pending := rfl
@[simp] theorem modSlot_outbox (i : Fin 4) (f : Capture → Capture) (s : State) : (modSlot i f s).outbox = s.outbox := rfl
@[simp] theorem modSlot_fresh (i : Fin 4) (f : Capture → Capture) (s : State) : (modSlot i f s).fresh = s.fresh := rfl
@[simp] theorem modSlot_ident (i : Fin 4) (f : Capture → Capture) (s : State) : (modSlot i f s).ident = s.ident := rfl
@[simp] theorem modSlot_power (i : Fin 4) (f : Capture → Capture) (s : State) : (modSlot i f s).power = s.power := rfl
@[simp] theorem modSlot_host (i : Fin 4) (f : Capture → Capture) (s : State) : (modSlot i f s).host = s.host := rfl
@[simp] theorem modSlot_time (i : Fin 4) (f : Capture → Capture) (s : State) : (modSlot i f s).time = s.time := rfl
@[simp] theorem modSlot_rf (i : Fin 4) (f : Capture → Capture) (s : State) : (modSlot i f s).rf = s.rf := rfl
@[simp] theorem modSlot_cx (i : Fin 4) (f : Capture → Capture) (s : State) : (modSlot i f s).cx = s.cx := rfl
@[simp] theorem modSlot_audio (i : Fin 4) (f : Capture → Capture) (s : State) : (modSlot i f s).audio = s.audio := rfl
@[simp] theorem modSlot_port (i : Fin 4) (f : Capture → Capture) (s : State) : (modSlot i f s).port = s.port := rfl
@[simp] theorem modSlot_mp (i : Fin 4) (f : Capture → Capture) (s : State) : (modSlot i f s).mp = s.mp := rfl
@[simp] theorem modSlot_sg (i : Fin 4) (f : Capture → Capture) (s : State) : (modSlot i f s).sg = s.sg := rfl
@[simp] theorem modSlot_cry (i : Fin 4) (f : Capture → Capture) (s : State) : (modSlot i f s).cry = s.cry := rfl
@[simp] theorem modSlot_mem (i : Fin 4) (f : Capture → Capture) (s : State) : (modSlot i f s).mem = { s.mem with slots := upd s.mem.slots i f } := rfl
@[simp] theorem modSlot_mnt (i : Fin 4) (f : Capture → Capture) (s : State) : (modSlot i f s).mnt = s.mnt := rfl
@[simp] theorem modSlot_pair (i : Fin 4) (f : Capture → Capture) (s : State) : (modSlot i f s).pair = s.pair := rfl
@[simp] theorem modSlot_vault (i : Fin 4) (f : Capture → Capture) (s : State) : (modSlot i f s).vault = s.vault := rfl

/-! `modRow` -/

@[simp] theorem modRow_pending (i : Fin 9) (f : LedgerRow → LedgerRow) (s : State) : (modRow i f s).pending = s.pending := rfl
@[simp] theorem modRow_outbox (i : Fin 9) (f : LedgerRow → LedgerRow) (s : State) : (modRow i f s).outbox = s.outbox := rfl
@[simp] theorem modRow_fresh (i : Fin 9) (f : LedgerRow → LedgerRow) (s : State) : (modRow i f s).fresh = s.fresh := rfl
@[simp] theorem modRow_ident (i : Fin 9) (f : LedgerRow → LedgerRow) (s : State) : (modRow i f s).ident = s.ident := rfl
@[simp] theorem modRow_power (i : Fin 9) (f : LedgerRow → LedgerRow) (s : State) : (modRow i f s).power = s.power := rfl
@[simp] theorem modRow_host (i : Fin 9) (f : LedgerRow → LedgerRow) (s : State) : (modRow i f s).host = { s.host with ledger := upd s.host.ledger i f } := rfl
@[simp] theorem modRow_time (i : Fin 9) (f : LedgerRow → LedgerRow) (s : State) : (modRow i f s).time = s.time := rfl
@[simp] theorem modRow_rf (i : Fin 9) (f : LedgerRow → LedgerRow) (s : State) : (modRow i f s).rf = s.rf := rfl
@[simp] theorem modRow_cx (i : Fin 9) (f : LedgerRow → LedgerRow) (s : State) : (modRow i f s).cx = s.cx := rfl
@[simp] theorem modRow_audio (i : Fin 9) (f : LedgerRow → LedgerRow) (s : State) : (modRow i f s).audio = s.audio := rfl
@[simp] theorem modRow_port (i : Fin 9) (f : LedgerRow → LedgerRow) (s : State) : (modRow i f s).port = s.port := rfl
@[simp] theorem modRow_mp (i : Fin 9) (f : LedgerRow → LedgerRow) (s : State) : (modRow i f s).mp = s.mp := rfl
@[simp] theorem modRow_sg (i : Fin 9) (f : LedgerRow → LedgerRow) (s : State) : (modRow i f s).sg = s.sg := rfl
@[simp] theorem modRow_cry (i : Fin 9) (f : LedgerRow → LedgerRow) (s : State) : (modRow i f s).cry = s.cry := rfl
@[simp] theorem modRow_mem (i : Fin 9) (f : LedgerRow → LedgerRow) (s : State) : (modRow i f s).mem = s.mem := rfl
@[simp] theorem modRow_mnt (i : Fin 9) (f : LedgerRow → LedgerRow) (s : State) : (modRow i f s).mnt = s.mnt := rfl
@[simp] theorem modRow_pair (i : Fin 9) (f : LedgerRow → LedgerRow) (s : State) : (modRow i f s).pair = s.pair := rfl
@[simp] theorem modRow_vault (i : Fin 9) (f : LedgerRow → LedgerRow) (s : State) : (modRow i f s).vault = s.vault := rfl

/-! `modSlip` -/

@[simp] theorem modSlip_pending (f : SlipSt → SlipSt) (s : State) : (modSlip f s).pending = s.pending := rfl
@[simp] theorem modSlip_outbox (f : SlipSt → SlipSt) (s : State) : (modSlip f s).outbox = s.outbox := rfl
@[simp] theorem modSlip_fresh (f : SlipSt → SlipSt) (s : State) : (modSlip f s).fresh = s.fresh := rfl
@[simp] theorem modSlip_ident (f : SlipSt → SlipSt) (s : State) : (modSlip f s).ident = s.ident := rfl
@[simp] theorem modSlip_power (f : SlipSt → SlipSt) (s : State) : (modSlip f s).power = s.power := rfl
@[simp] theorem modSlip_host (f : SlipSt → SlipSt) (s : State) : (modSlip f s).host = s.host := rfl
@[simp] theorem modSlip_time (f : SlipSt → SlipSt) (s : State) : (modSlip f s).time = s.time := rfl
@[simp] theorem modSlip_rf (f : SlipSt → SlipSt) (s : State) : (modSlip f s).rf = { s.rf with slip := f s.rf.slip } := rfl
@[simp] theorem modSlip_cx (f : SlipSt → SlipSt) (s : State) : (modSlip f s).cx = s.cx := rfl
@[simp] theorem modSlip_audio (f : SlipSt → SlipSt) (s : State) : (modSlip f s).audio = s.audio := rfl
@[simp] theorem modSlip_port (f : SlipSt → SlipSt) (s : State) : (modSlip f s).port = s.port := rfl
@[simp] theorem modSlip_mp (f : SlipSt → SlipSt) (s : State) : (modSlip f s).mp = s.mp := rfl
@[simp] theorem modSlip_sg (f : SlipSt → SlipSt) (s : State) : (modSlip f s).sg = s.sg := rfl
@[simp] theorem modSlip_cry (f : SlipSt → SlipSt) (s : State) : (modSlip f s).cry = s.cry := rfl
@[simp] theorem modSlip_mem (f : SlipSt → SlipSt) (s : State) : (modSlip f s).mem = s.mem := rfl
@[simp] theorem modSlip_mnt (f : SlipSt → SlipSt) (s : State) : (modSlip f s).mnt = s.mnt := rfl
@[simp] theorem modSlip_pair (f : SlipSt → SlipSt) (s : State) : (modSlip f s).pair = s.pair := rfl
@[simp] theorem modSlip_vault (f : SlipSt → SlipSt) (s : State) : (modSlip f s).vault = s.vault := rfl

/-! `modKey` -/

@[simp] theorem modKey_pending (i : Fin 64) (f : Key → Key) (s : State) : (modKey i f s).pending = s.pending := rfl
@[simp] theorem modKey_outbox (i : Fin 64) (f : Key → Key) (s : State) : (modKey i f s).outbox = s.outbox := rfl
@[simp] theorem modKey_fresh (i : Fin 64) (f : Key → Key) (s : State) : (modKey i f s).fresh = s.fresh := rfl
@[simp] theorem modKey_ident (i : Fin 64) (f : Key → Key) (s : State) : (modKey i f s).ident = s.ident := rfl
@[simp] theorem modKey_power (i : Fin 64) (f : Key → Key) (s : State) : (modKey i f s).power = s.power := rfl
@[simp] theorem modKey_host (i : Fin 64) (f : Key → Key) (s : State) : (modKey i f s).host = s.host := rfl
@[simp] theorem modKey_time (i : Fin 64) (f : Key → Key) (s : State) : (modKey i f s).time = s.time := rfl
@[simp] theorem modKey_rf (i : Fin 64) (f : Key → Key) (s : State) : (modKey i f s).rf = s.rf := rfl
@[simp] theorem modKey_cx (i : Fin 64) (f : Key → Key) (s : State) : (modKey i f s).cx = s.cx := rfl
@[simp] theorem modKey_audio (i : Fin 64) (f : Key → Key) (s : State) : (modKey i f s).audio = s.audio := rfl
@[simp] theorem modKey_port (i : Fin 64) (f : Key → Key) (s : State) : (modKey i f s).port = s.port := rfl
@[simp] theorem modKey_mp (i : Fin 64) (f : Key → Key) (s : State) : (modKey i f s).mp = s.mp := rfl
@[simp] theorem modKey_sg (i : Fin 64) (f : Key → Key) (s : State) : (modKey i f s).sg = s.sg := rfl
@[simp] theorem modKey_cry (i : Fin 64) (f : Key → Key) (s : State) : (modKey i f s).cry = { s.cry with keys := upd s.cry.keys i (Option.map f) } := rfl
@[simp] theorem modKey_mem (i : Fin 64) (f : Key → Key) (s : State) : (modKey i f s).mem = s.mem := rfl
@[simp] theorem modKey_mnt (i : Fin 64) (f : Key → Key) (s : State) : (modKey i f s).mnt = s.mnt := rfl
@[simp] theorem modKey_pair (i : Fin 64) (f : Key → Key) (s : State) : (modKey i f s).pair = s.pair := rfl
@[simp] theorem modKey_vault (i : Fin 64) (f : Key → Key) (s : State) : (modKey i f s).vault = s.vault := rfl

/-! `emit` -/

@[simp] theorem emit_pending (o : Out) (s : State) : (emit o s).pending = s.pending := rfl
@[simp] theorem emit_outbox (o : Out) (s : State) : (emit o s).outbox = o :: s.outbox := rfl
@[simp] theorem emit_fresh (o : Out) (s : State) : (emit o s).fresh = s.fresh := rfl
@[simp] theorem emit_ident (o : Out) (s : State) : (emit o s).ident = s.ident := rfl
@[simp] theorem emit_power (o : Out) (s : State) : (emit o s).power = s.power := rfl
@[simp] theorem emit_host (o : Out) (s : State) : (emit o s).host = s.host := rfl
@[simp] theorem emit_time (o : Out) (s : State) : (emit o s).time = s.time := rfl
@[simp] theorem emit_rf (o : Out) (s : State) : (emit o s).rf = s.rf := rfl
@[simp] theorem emit_cx (o : Out) (s : State) : (emit o s).cx = s.cx := rfl
@[simp] theorem emit_audio (o : Out) (s : State) : (emit o s).audio = s.audio := rfl
@[simp] theorem emit_port (o : Out) (s : State) : (emit o s).port = s.port := rfl
@[simp] theorem emit_mp (o : Out) (s : State) : (emit o s).mp = s.mp := rfl
@[simp] theorem emit_sg (o : Out) (s : State) : (emit o s).sg = s.sg := rfl
@[simp] theorem emit_cry (o : Out) (s : State) : (emit o s).cry = s.cry := rfl
@[simp] theorem emit_mem (o : Out) (s : State) : (emit o s).mem = s.mem := rfl
@[simp] theorem emit_mnt (o : Out) (s : State) : (emit o s).mnt = s.mnt := rfl
@[simp] theorem emit_pair (o : Out) (s : State) : (emit o s).pair = s.pair := rfl
@[simp] theorem emit_vault (o : Out) (s : State) : (emit o s).vault = s.vault := rfl

/-! `useFree` -/

@[simp] theorem useFree_pending (s : State) : (useFree s).pending = s.pending := rfl
@[simp] theorem useFree_outbox (s : State) : (useFree s).outbox = s.outbox := rfl
@[simp] theorem useFree_fresh (s : State) : (useFree s).fresh = s.fresh + 1 := rfl
@[simp] theorem useFree_ident (s : State) : (useFree s).ident = s.ident := rfl
@[simp] theorem useFree_power (s : State) : (useFree s).power = s.power := rfl
@[simp] theorem useFree_host (s : State) : (useFree s).host = s.host := rfl
@[simp] theorem useFree_time (s : State) : (useFree s).time = s.time := rfl
@[simp] theorem useFree_rf (s : State) : (useFree s).rf = s.rf := rfl
@[simp] theorem useFree_cx (s : State) : (useFree s).cx = s.cx := rfl
@[simp] theorem useFree_audio (s : State) : (useFree s).audio = s.audio := rfl
@[simp] theorem useFree_port (s : State) : (useFree s).port = s.port := rfl
@[simp] theorem useFree_mp (s : State) : (useFree s).mp = s.mp := rfl
@[simp] theorem useFree_sg (s : State) : (useFree s).sg = s.sg := rfl
@[simp] theorem useFree_cry (s : State) : (useFree s).cry = s.cry := rfl
@[simp] theorem useFree_mem (s : State) : (useFree s).mem = s.mem := rfl
@[simp] theorem useFree_mnt (s : State) : (useFree s).mnt = s.mnt := rfl
@[simp] theorem useFree_pair (s : State) : (useFree s).pair = s.pair := rfl
@[simp] theorem useFree_vault (s : State) : (useFree s).vault = s.vault := rfl

/-! `useMany` -/

@[simp] theorem useMany_pending (n : Nat) (s : State) : (useMany n s).pending = s.pending := rfl
@[simp] theorem useMany_outbox (n : Nat) (s : State) : (useMany n s).outbox = s.outbox := rfl
@[simp] theorem useMany_fresh (n : Nat) (s : State) : (useMany n s).fresh = s.fresh + n := rfl
@[simp] theorem useMany_ident (n : Nat) (s : State) : (useMany n s).ident = s.ident := rfl
@[simp] theorem useMany_power (n : Nat) (s : State) : (useMany n s).power = s.power := rfl
@[simp] theorem useMany_host (n : Nat) (s : State) : (useMany n s).host = s.host := rfl
@[simp] theorem useMany_time (n : Nat) (s : State) : (useMany n s).time = s.time := rfl
@[simp] theorem useMany_rf (n : Nat) (s : State) : (useMany n s).rf = s.rf := rfl
@[simp] theorem useMany_cx (n : Nat) (s : State) : (useMany n s).cx = s.cx := rfl
@[simp] theorem useMany_audio (n : Nat) (s : State) : (useMany n s).audio = s.audio := rfl
@[simp] theorem useMany_port (n : Nat) (s : State) : (useMany n s).port = s.port := rfl
@[simp] theorem useMany_mp (n : Nat) (s : State) : (useMany n s).mp = s.mp := rfl
@[simp] theorem useMany_sg (n : Nat) (s : State) : (useMany n s).sg = s.sg := rfl
@[simp] theorem useMany_cry (n : Nat) (s : State) : (useMany n s).cry = s.cry := rfl
@[simp] theorem useMany_mem (n : Nat) (s : State) : (useMany n s).mem = s.mem := rfl
@[simp] theorem useMany_mnt (n : Nat) (s : State) : (useMany n s).mnt = s.mnt := rfl
@[simp] theorem useMany_pair (n : Nat) (s : State) : (useMany n s).pair = s.pair := rfl
@[simp] theorem useMany_vault (n : Nat) (s : State) : (useMany n s).vault = s.vault := rfl

/-! Reading a family after a change of one member. -/

@[simp] theorem upd_get_self {α : Type} {n : Nat} (v : Vector α n) (i : Fin n) (f : α → α) : (upd v i f)[i] = f v[i] := by
  simp [upd]

@[simp] theorem upd_get_self_val {α : Type} {n : Nat} (v : Vector α n) (i : Fin n) (f : α → α) :
    (upd v i f)[i.val] = f v[i.val] := by
  simp [upd]

theorem upd_get_ne {α : Type} {n : Nat} (v : Vector α n) {i j : Fin n} (f : α → α) (h : i ≠ j) : (upd v i f)[j] = v[j] := by
  simp only [upd, Fin.getElem_fin]
  exact Vector.getElem_set_ne _ _ (fun e => h (Fin.ext e))

end Sys2Proof.Machine
end

