-- ==== Sys2Proof/Laws/Fields.lean ====
section
/-!
SUPPORT. Laws/Fields.lean: the fields of the state that the shared operations leave as they were, for simp.
-/
namespace Sys2Proof.Machine

theorem Within.time_eq {m : Parts} {s t : State} (h : Within m s t) (a : m.dt = false) (b : m.clock = false) : t.time = s.time := by
  have x := h.dt a
  have y := h.clock b
  cases hs : s.time
  cases ht : t.time
  simp_all [TimeSt.clock]

theorem Within.rf_eq {m : Parts} {s t : State} (h : Within m s t) (a : m.wb = false) (b : m.carvers = false)
    (c : m.tuners = false) (d : m.slip = false) : t.rf = s.rf := by
  have x := h.wb a
  have y := h.carvers b
  have z := h.tuners c
  have w := h.slip d
  cases hs : s.rf
  cases ht : t.rf
  simp_all [RfSt.slipPart]

theorem paths_eq {v w : Vector Path 64} (h : v.map (·.dueOpen) = w.map (·.dueOpen)) (k : v.map Path.noDue = w.map Path.noDue) :
    v = w := by
  ext i hi
  have x : (v.map (·.dueOpen))[i] = (w.map (·.dueOpen))[i] := by rw [h]
  have y : (v.map Path.noDue)[i] = (w.map Path.noDue)[i] := by rw [k]
  simp only [Vector.getElem_map] at x y
  cases hv : v[i]
  cases hw : w[i]
  simp_all [Path.noDue]

theorem Within.cx_eq {m : Parts} {s t : State} (h : Within m s t) (a : m.due = false) (b : m.paths = false)
    (c : m.ctxs = false) (d : m.cx = false) : t.cx = s.cx := by
  have p := paths_eq (h.due a) (h.paths b)
  have z := h.ctxs c
  have w := h.cx d
  cases hs : s.cx
  cases ht : t.cx
  simp_all [CtxSt.rest]

theorem Within.mem_eq {m : Parts} {s t : State} (h : Within m s t) (a : m.slots = false) (b : m.mem = false) : t.mem = s.mem := by
  have x := h.slots a
  have y := h.mem b
  cases hs : s.mem
  cases ht : t.mem
  simp_all [MemSt.rest]

/-! The instant of a step. -/

@[simp] theorem moment_pending (t : DT) (s : State) : (moment t s).pending = s.pending := by unfold moment; split <;> rfl
@[simp] theorem moment_outbox (t : DT) (s : State) : (moment t s).outbox = s.outbox := by unfold moment; split <;> rfl
@[simp] theorem moment_fresh (t : DT) (s : State) : (moment t s).fresh = s.fresh := by unfold moment; split <;> rfl
@[simp] theorem moment_ident (t : DT) (s : State) : (moment t s).ident = s.ident := by unfold moment; split <;> rfl
@[simp] theorem moment_power (t : DT) (s : State) : (moment t s).power = s.power := by unfold moment; split <;> rfl
@[simp] theorem moment_rf (t : DT) (s : State) : (moment t s).rf = s.rf := by unfold moment; split <;> rfl
@[simp] theorem moment_audio (t : DT) (s : State) : (moment t s).audio = s.audio := by unfold moment; split <;> rfl
@[simp] theorem moment_port (t : DT) (s : State) : (moment t s).port = s.port := by unfold moment; split <;> rfl
@[simp] theorem moment_mp (t : DT) (s : State) : (moment t s).mp = s.mp := by unfold moment; split <;> rfl
@[simp] theorem moment_sg (t : DT) (s : State) : (moment t s).sg = s.sg := by unfold moment; split <;> rfl
@[simp] theorem moment_cry (t : DT) (s : State) : (moment t s).cry = s.cry := by unfold moment; split <;> rfl
@[simp] theorem moment_mem (t : DT) (s : State) : (moment t s).mem = s.mem := by unfold moment; split <;> rfl
@[simp] theorem moment_mnt (t : DT) (s : State) : (moment t s).mnt = s.mnt := by unfold moment; split <;> rfl
@[simp] theorem moment_pair (t : DT) (s : State) : (moment t s).pair = s.pair := by unfold moment; split <;> rfl
@[simp] theorem moment_vault (t : DT) (s : State) : (moment t s).vault = s.vault := by unfold moment; split <;> rfl
@[simp] theorem moment_time_dtLow (t : DT) (s : State) : (moment t s).time.dtLow = s.time.dtLow := by unfold moment; split <;> rfl
@[simp] theorem moment_time_residue (t : DT) (s : State) : (moment t s).time.residue = s.time.residue := by unfold moment; split <;> rfl
@[simp] theorem moment_time_rateAdj (t : DT) (s : State) : (moment t s).time.rateAdj = s.time.rateAdj := by unfold moment; split <;> rfl
@[simp] theorem moment_time_running (t : DT) (s : State) : (moment t s).time.running = s.time.running := by unfold moment; split <;> rfl
@[simp] theorem moment_time_unset (t : DT) (s : State) : (moment t s).time.unset = s.time.unset := by unfold moment; split <;> rfl
@[simp] theorem moment_time_backup (t : DT) (s : State) : (moment t s).time.backup = s.time.backup := by unfold moment; split <;> rfl
@[simp] theorem moment_time_cfg (t : DT) (s : State) : (moment t s).time.cfg = s.time.cfg := by unfold moment; split <;> rfl
@[simp] theorem moment_time_shadow (t : DT) (s : State) : (moment t s).time.shadow = s.time.shadow := by unfold moment; split <;> rfl
@[simp] theorem moment_time_disc (t : DT) (s : State) : (moment t s).time.disc = s.time.disc := by unfold moment; split <;> rfl
@[simp] theorem moment_time_tune (t : DT) (s : State) : (moment t s).time.tune = s.time.tune := by unfold moment; split <;> rfl
@[simp] theorem moment_time_held (t : DT) (s : State) : (moment t s).time.held = s.time.held := by unfold moment; split <;> rfl
@[simp] theorem moment_time_coastFrom (t : DT) (s : State) : (moment t s).time.coastFrom = s.time.coastFrom := by unfold moment; split <;> rfl
@[simp] theorem moment_time_lockedFrom (t : DT) (s : State) : (moment t s).time.lockedFrom = s.time.lockedFrom := by unfold moment; split <;> rfl
@[simp] theorem moment_time_lockedSum (t : DT) (s : State) : (moment t s).time.lockedSum = s.time.lockedSum := by unfold moment; split <;> rfl
@[simp] theorem moment_time_lockedMean (t : DT) (s : State) : (moment t s).time.lockedMean = s.time.lockedMean := by unfold moment; split <;> rfl
@[simp] theorem moment_time_tuneStored (t : DT) (s : State) : (moment t s).time.tuneStored = s.time.tuneStored := by unfold moment; split <;> rfl
@[simp] theorem moment_time_hist (t : DT) (s : State) : (moment t s).time.hist = s.time.hist := by unfold moment; split <;> rfl
@[simp] theorem moment_time_refinQual (t : DT) (s : State) : (moment t s).time.refinQual = s.time.refinQual := by unfold moment; split <;> rfl
@[simp] theorem moment_time_ppsQual (t : DT) (s : State) : (moment t s).time.ppsQual = s.time.ppsQual := by unfold moment; split <;> rfl
@[simp] theorem moment_time_returnRef (t : DT) (s : State) : (moment t s).time.returnRef = s.time.returnRef := by unfold moment; split <;> rfl
@[simp] theorem moment_time_returningSince (t : DT) (s : State) : (moment t s).time.returningSince = s.time.returningSince := by unfold moment; split <;> rfl
@[simp] theorem moment_time_measuring (t : DT) (s : State) : (moment t s).time.measuring = s.time.measuring := by unfold moment; split <;> rfl
@[simp] theorem moment_time_offsets (t : DT) (s : State) : (moment t s).time.offsets = s.time.offsets := by unfold moment; split <;> rfl
@[simp] theorem moment_time_last8 (t : DT) (s : State) : (moment t s).time.last8 = s.time.last8 := by unfold moment; split <;> rfl
@[simp] theorem moment_time_lastOffset (t : DT) (s : State) : (moment t s).time.lastOffset = s.time.lastOffset := by unfold moment; split <;> rfl
@[simp] theorem moment_time_freqErr (t : DT) (s : State) : (moment t s).time.freqErr = s.time.freqErr := by unfold moment; split <;> rfl
@[simp] theorem moment_time_y0 (t : DT) (s : State) : (moment t s).time.y0 = s.time.y0 := by unfold moment; split <;> rfl
@[simp] theorem moment_time_sumX (t : DT) (s : State) : (moment t s).time.sumX = s.time.sumX := by unfold moment; split <;> rfl
@[simp] theorem moment_time_fwdStep (t : DT) (s : State) : (moment t s).time.fwdStep = s.time.fwdStep := by unfold moment; split <;> rfl
@[simp] theorem moment_time_slew (t : DT) (s : State) : (moment t s).time.slew = s.time.slew := by unfold moment; split <;> rfl
@[simp] theorem moment_time_plls (t : DT) (s : State) : (moment t s).time.plls = s.time.plls := by unfold moment; split <;> rfl
@[simp] theorem moment_time_activeB (t : DT) (s : State) : (moment t s).time.activeB = s.time.activeB := by unfold moment; split <;> rfl
@[simp] theorem moment_time_spareAligned (t : DT) (s : State) : (moment t s).time.spareAligned = s.time.spareAligned := by unfold moment; split <;> rfl
@[simp] theorem moment_time_switchedAt (t : DT) (s : State) : (moment t s).time.switchedAt = s.time.switchedAt := by unfold moment; split <;> rfl
@[simp] theorem moment_time_bothLost (t : DT) (s : State) : (moment t s).time.bothLost = s.time.bothLost := by unfold moment; split <;> rfl
@[simp] theorem moment_time_pllSeq (t : DT) (s : State) : (moment t s).time.pllSeq = s.time.pllSeq := by unfold moment; split <;> rfl
@[simp] theorem moment_time_phaseCmd (t : DT) (s : State) : (moment t s).time.phaseCmd = s.time.phaseCmd := by unfold moment; split <;> rfl
@[simp] theorem moment_time_phaseRef (t : DT) (s : State) : (moment t s).time.phaseRef = s.time.phaseRef := by unfold moment; split <;> rfl
@[simp] theorem moment_time_ppsHigh (t : DT) (s : State) : (moment t s).time.ppsHigh = s.time.ppsHigh := by unfold moment; split <;> rfl
@[simp] theorem moment_cx_ctxs (t : DT) (s : State) : (moment t s).cx.ctxs = s.cx.ctxs := by unfold moment; split <;> rfl
@[simp] theorem moment_cx_wheels (t : DT) (s : State) : (moment t s).cx.wheels = s.cx.wheels := by unfold moment; split <;> rfl
@[simp] theorem moment_cx_syncs (t : DT) (s : State) : (moment t s).cx.syncs = s.cx.syncs := by unfold moment; split <;> rfl
@[simp] theorem moment_cx_subs (t : DT) (s : State) : (moment t s).cx.subs = s.cx.subs := by unfold moment; split <;> rfl
@[simp] theorem moment_cx_nextSub (t : DT) (s : State) : (moment t s).cx.nextSub = s.cx.nextSub := by unfold moment; split <;> rfl
@[simp] theorem moment_cx_flushMs (t : DT) (s : State) : (moment t s).cx.flushMs = s.cx.flushMs := by unfold moment; split <;> rfl
@[simp] theorem moment_cx_hops (t : DT) (s : State) : (moment t s).cx.hops = s.cx.hops := by unfold moment; split <;> rfl
@[simp] theorem moment_cx_meterTurns (t : DT) (s : State) : (moment t s).cx.meterTurns = s.cx.meterTurns := by unfold moment; split <;> rfl
@[simp] theorem moment_cx_profile (t : DT) (s : State) : (moment t s).cx.profile = s.cx.profile := by unfold moment; split <;> rfl
@[simp] theorem moment_host_pairs (t : DT) (s : State) : (moment t s).host.pairs = s.host.pairs := by unfold moment; split <;> rfl
@[simp] theorem moment_host_rings (t : DT) (s : State) : (moment t s).host.rings = s.host.rings := by unfold moment; split <;> rfl
@[simp] theorem moment_host_msix (t : DT) (s : State) : (moment t s).host.msix = s.host.msix := by unfold moment; split <;> rfl
@[simp] theorem moment_host_pba (t : DT) (s : State) : (moment t s).host.pba = s.host.pba := by unfold moment; split <;> rfl
@[simp] theorem moment_host_rrCoal (t : DT) (s : State) : (moment t s).host.rrCoal = s.host.rrCoal := by unfold moment; split <;> rfl
@[simp] theorem moment_host_rrUnsignalled (t : DT) (s : State) : (moment t s).host.rrUnsignalled = s.host.rrUnsignalled := by unfold moment; split <;> rfl
@[simp] theorem moment_host_rrCoalFrom (t : DT) (s : State) : (moment t s).host.rrCoalFrom = s.host.rrCoalFrom := by unfold moment; split <;> rfl
@[simp] theorem moment_host_bme (t : DT) (s : State) : (moment t s).host.bme = s.host.bme := by unfold moment; split <;> rfl
@[simp] theorem moment_host_linkUp (t : DT) (s : State) : (moment t s).host.linkUp = s.host.linkUp := by unfold moment; split <;> rfl
@[simp] theorem moment_host_held (t : DT) (s : State) : (moment t s).host.held = s.host.held := by unfold moment; split <;> rfl
@[simp] theorem moment_host_nextId (t : DT) (s : State) : (moment t s).host.nextId = s.host.nextId := by unfold moment; split <;> rfl
@[simp] theorem moment_host_resuming (t : DT) (s : State) : (moment t s).host.resuming = s.host.resuming := by unfold moment; split <;> rfl
@[simp] theorem moment_host_evMask (t : DT) (s : State) : (moment t s).host.evMask = s.host.evMask := by unfold moment; split <;> rfl
@[simp] theorem moment_host_evtSeq (t : DT) (s : State) : (moment t s).host.evtSeq = s.host.evtSeq := by unfold moment; split <;> rfl
@[simp] theorem moment_host_heldBack (t : DT) (s : State) : (moment t s).host.heldBack = s.host.heldBack := by unfold moment; split <;> rfl
@[simp] theorem moment_host_epoch (t : DT) (s : State) : (moment t s).host.epoch = s.host.epoch := by unfold moment; split <;> rfl
@[simp] theorem moment_host_snap (t : DT) (s : State) : (moment t s).host.snap = s.host.snap := by unfold moment; split <;> rfl
@[simp] theorem moment_host_bar2Discarded (t : DT) (s : State) : (moment t s).host.bar2Discarded = s.host.bar2Discarded := by unfold moment; split <;> rfl
@[simp] theorem moment_time_lastEdge (t : DT) (s : State) : (moment t s).time.lastEdge = s.time.lastEdge := by unfold moment; split <;> rfl
@[simp] theorem moment_time_decided (t : DT) (s : State) : (moment t s).time.decided = s.time.decided := by unfold moment; split <;> rfl
@[simp] theorem moment_time_vcoStopped (t : DT) (s : State) : (moment t s).time.vcoStopped = s.time.vcoStopped := by unfold moment; split <;> rfl
@[simp] theorem moment_host_turns (t : DT) (s : State) : (moment t s).host.turns = s.host.turns := by unfold moment; split <;> rfl
@[simp] theorem moment_host_mportTurn (t : DT) (s : State) : (moment t s).host.mportTurn = s.host.mportTurn := by unfold moment; split <;> rfl
@[simp] theorem moment_path_run (t : DT) (s : State) (p : Fin 64) : (moment t s).cx.paths[p].run = s.cx.paths[p].run := by
  unfold moment
  split
  · simp [accrue, post]
  · rfl
@[simp] theorem moment_path_run_val (t : DT) (s : State) (p : Fin 64) : (moment t s).cx.paths[p.val].run = s.cx.paths[p.val].run :=
  moment_path_run t s p
@[simp] theorem moment_path_fadePos (t : DT) (s : State) (p : Fin 64) : (moment t s).cx.paths[p].fadePos = s.cx.paths[p].fadePos := by
  unfold moment
  split
  · simp [accrue, post]
  · rfl
@[simp] theorem moment_path_fadePos_val (t : DT) (s : State) (p : Fin 64) : (moment t s).cx.paths[p.val].fadePos = s.cx.paths[p.val].fadePos :=
  moment_path_fadePos t s p
@[simp] theorem moment_path_inc (t : DT) (s : State) (p : Fin 64) : (moment t s).cx.paths[p].inc = s.cx.paths[p].inc := by
  unfold moment
  split
  · simp [accrue, post]
  · rfl
@[simp] theorem moment_path_inc_val (t : DT) (s : State) (p : Fin 64) : (moment t s).cx.paths[p.val].inc = s.cx.paths[p.val].inc :=
  moment_path_inc t s p
@[simp] theorem moment_path_phase (t : DT) (s : State) (p : Fin 64) : (moment t s).cx.paths[p].phase = s.cx.paths[p].phase := by
  unfold moment
  split
  · simp [accrue, post]
  · rfl
@[simp] theorem moment_path_phase_val (t : DT) (s : State) (p : Fin 64) : (moment t s).cx.paths[p.val].phase = s.cx.paths[p.val].phase :=
  moment_path_phase t s p
@[simp] theorem moment_path_residue (t : DT) (s : State) (p : Fin 64) : (moment t s).cx.paths[p].residue = s.cx.paths[p].residue := by
  unfold moment
  split
  · simp [accrue, post]
  · rfl
@[simp] theorem moment_path_residue_val (t : DT) (s : State) (p : Fin 64) : (moment t s).cx.paths[p.val].residue = s.cx.paths[p.val].residue :=
  moment_path_residue t s p
@[simp] theorem moment_path_made (t : DT) (s : State) (p : Fin 64) : (moment t s).cx.paths[p].made = s.cx.paths[p].made := by
  unfold moment
  split
  · simp [accrue, post]
  · rfl
@[simp] theorem moment_path_made_val (t : DT) (s : State) (p : Fin 64) : (moment t s).cx.paths[p.val].made = s.cx.paths[p.val].made :=
  moment_path_made t s p
@[simp] theorem moment_path_madeFrom (t : DT) (s : State) (p : Fin 64) : (moment t s).cx.paths[p].madeFrom = s.cx.paths[p].madeFrom := by
  unfold moment
  split
  · simp [accrue, post]
  · rfl
@[simp] theorem moment_path_madeFrom_val (t : DT) (s : State) (p : Fin 64) : (moment t s).cx.paths[p.val].madeFrom = s.cx.paths[p.val].madeFrom :=
  moment_path_madeFrom t s p
@[simp] theorem moment_path_phases (t : DT) (s : State) (p : Fin 64) : (moment t s).cx.paths[p].phases = s.cx.paths[p].phases := by
  unfold moment
  split
  · simp [accrue, post]
  · rfl
@[simp] theorem moment_path_phases_val (t : DT) (s : State) (p : Fin 64) : (moment t s).cx.paths[p.val].phases = s.cx.paths[p.val].phases :=
  moment_path_phases t s p
@[simp] theorem moment_path_line (t : DT) (s : State) (p : Fin 64) : (moment t s).cx.paths[p].line = s.cx.paths[p].line := by
  unfold moment
  split
  · simp [accrue, post]
  · rfl
@[simp] theorem moment_path_line_val (t : DT) (s : State) (p : Fin 64) : (moment t s).cx.paths[p.val].line = s.cx.paths[p.val].line :=
  moment_path_line t s p
@[simp] theorem moment_path_firs (t : DT) (s : State) (p : Fin 64) : (moment t s).cx.paths[p].firs = s.cx.paths[p].firs := by
  unfold moment
  split
  · simp [accrue, post]
  · rfl
@[simp] theorem moment_path_firs_val (t : DT) (s : State) (p : Fin 64) : (moment t s).cx.paths[p.val].firs = s.cx.paths[p.val].firs :=
  moment_path_firs t s p
@[simp] theorem moment_path_firCount (t : DT) (s : State) (p : Fin 64) : (moment t s).cx.paths[p].firCount = s.cx.paths[p].firCount := by
  unfold moment
  split
  · simp [accrue, post]
  · rfl
@[simp] theorem moment_path_firCount_val (t : DT) (s : State) (p : Fin 64) : (moment t s).cx.paths[p.val].firCount = s.cx.paths[p.val].firCount :=
  moment_path_firCount t s p
@[simp] theorem moment_path_syncAt (t : DT) (s : State) (p : Fin 64) : (moment t s).cx.paths[p].syncAt = s.cx.paths[p].syncAt := by
  unfold moment
  split
  · simp [accrue, post]
  · rfl
@[simp] theorem moment_path_syncAt_val (t : DT) (s : State) (p : Fin 64) : (moment t s).cx.paths[p.val].syncAt = s.cx.paths[p.val].syncAt :=
  moment_path_syncAt t s p
@[simp] theorem moment_path_since (t : DT) (s : State) (p : Fin 64) : (moment t s).cx.paths[p].since = s.cx.paths[p].since := by
  unfold moment
  split
  · simp [accrue, post]
  · rfl
@[simp] theorem moment_path_since_val (t : DT) (s : State) (p : Fin 64) : (moment t s).cx.paths[p.val].since = s.cx.paths[p.val].since :=
  moment_path_since t s p
@[simp] theorem moment_path_blockSync (t : DT) (s : State) (p : Fin 64) : (moment t s).cx.paths[p].blockSync = s.cx.paths[p].blockSync := by
  unfold moment
  split
  · simp [accrue, post]
  · rfl
@[simp] theorem moment_path_blockSync_val (t : DT) (s : State) (p : Fin 64) : (moment t s).cx.paths[p.val].blockSync = s.cx.paths[p.val].blockSync :=
  moment_path_blockSync t s p
@[simp] theorem moment_path_block (t : DT) (s : State) (p : Fin 64) : (moment t s).cx.paths[p].block = s.cx.paths[p].block := by
  unfold moment
  split
  · simp [accrue, post]
  · rfl
@[simp] theorem moment_path_block_val (t : DT) (s : State) (p : Fin 64) : (moment t s).cx.paths[p.val].block = s.cx.paths[p.val].block :=
  moment_path_block t s p
@[simp] theorem moment_path_kept (t : DT) (s : State) (p : Fin 64) : (moment t s).cx.paths[p].kept = s.cx.paths[p].kept := by
  unfold moment
  split
  · simp [accrue, post]
  · rfl
@[simp] theorem moment_path_kept_val (t : DT) (s : State) (p : Fin 64) : (moment t s).cx.paths[p.val].kept = s.cx.paths[p.val].kept :=
  moment_path_kept t s p
@[simp] theorem moment_path_powSum (t : DT) (s : State) (p : Fin 64) : (moment t s).cx.paths[p].powSum = s.cx.paths[p].powSum := by
  unfold moment
  split
  · simp [accrue, post]
  · rfl
@[simp] theorem moment_path_powSum_val (t : DT) (s : State) (p : Fin 64) : (moment t s).cx.paths[p.val].powSum = s.cx.paths[p.val].powSum :=
  moment_path_powSum t s p
@[simp] theorem moment_path_powN (t : DT) (s : State) (p : Fin 64) : (moment t s).cx.paths[p].powN = s.cx.paths[p].powN := by
  unfold moment
  split
  · simp [accrue, post]
  · rfl
@[simp] theorem moment_path_powN_val (t : DT) (s : State) (p : Fin 64) : (moment t s).cx.paths[p.val].powN = s.cx.paths[p.val].powN :=
  moment_path_powN t s p
@[simp] theorem moment_path_powFrom (t : DT) (s : State) (p : Fin 64) : (moment t s).cx.paths[p].powFrom = s.cx.paths[p].powFrom := by
  unfold moment
  split
  · simp [accrue, post]
  · rfl
@[simp] theorem moment_path_powFrom_val (t : DT) (s : State) (p : Fin 64) : (moment t s).cx.paths[p.val].powFrom = s.cx.paths[p.val].powFrom :=
  moment_path_powFrom t s p
@[simp] theorem moment_path_powers (t : DT) (s : State) (p : Fin 64) : (moment t s).cx.paths[p].powers = s.cx.paths[p].powers := by
  unfold moment
  split
  · simp [accrue, post]
  · rfl
@[simp] theorem moment_path_powers_val (t : DT) (s : State) (p : Fin 64) : (moment t s).cx.paths[p.val].powers = s.cx.paths[p.val].powers :=
  moment_path_powers t s p
@[simp] theorem moment_path_ctx (t : DT) (s : State) (p : Fin 64) : (moment t s).cx.paths[p].ctx = s.cx.paths[p].ctx := by
  unfold moment
  split
  · simp [accrue, post]
  · rfl
@[simp] theorem moment_path_ctx_val (t : DT) (s : State) (p : Fin 64) : (moment t s).cx.paths[p.val].ctx = s.cx.paths[p.val].ctx :=
  moment_path_ctx t s p
@[simp] theorem moment_path_source (t : DT) (s : State) (p : Fin 64) : (moment t s).cx.paths[p].source = s.cx.paths[p].source := by
  unfold moment
  split
  · simp [accrue, post]
  · rfl
@[simp] theorem moment_path_source_val (t : DT) (s : State) (p : Fin 64) : (moment t s).cx.paths[p.val].source = s.cx.paths[p.val].source :=
  moment_path_source t s p
@[simp] theorem moment_path_fin (t : DT) (s : State) (p : Fin 64) : (moment t s).cx.paths[p].fin = s.cx.paths[p].fin := by
  unfold moment
  split
  · simp [accrue, post]
  · rfl
@[simp] theorem moment_path_fin_val (t : DT) (s : State) (p : Fin 64) : (moment t s).cx.paths[p.val].fin = s.cx.paths[p.val].fin :=
  moment_path_fin t s p
@[simp] theorem moment_path_fout (t : DT) (s : State) (p : Fin 64) : (moment t s).cx.paths[p].fout = s.cx.paths[p].fout := by
  unfold moment
  split
  · simp [accrue, post]
  · rfl
@[simp] theorem moment_path_fout_val (t : DT) (s : State) (p : Fin 64) : (moment t s).cx.paths[p.val].fout = s.cx.paths[p.val].fout :=
  moment_path_fout t s p
@[simp] theorem moment_path_m (t : DT) (s : State) (p : Fin 64) : (moment t s).cx.paths[p].m = s.cx.paths[p].m := by
  unfold moment
  split
  · simp [accrue, post]
  · rfl
@[simp] theorem moment_path_m_val (t : DT) (s : State) (p : Fin 64) : (moment t s).cx.paths[p.val].m = s.cx.paths[p.val].m :=
  moment_path_m t s p
@[simp] theorem moment_path_h (t : DT) (s : State) (p : Fin 64) : (moment t s).cx.paths[p].h = s.cx.paths[p].h := by
  unfold moment
  split
  · simp [accrue, post]
  · rfl
@[simp] theorem moment_path_h_val (t : DT) (s : State) (p : Fin 64) : (moment t s).cx.paths[p.val].h = s.cx.paths[p.val].h :=
  moment_path_h t s p
@[simp] theorem moment_path_wp (t : DT) (s : State) (p : Fin 64) : (moment t s).cx.paths[p].wp = s.cx.paths[p].wp := by
  unfold moment
  split
  · simp [accrue, post]
  · rfl
@[simp] theorem moment_path_wp_val (t : DT) (s : State) (p : Fin 64) : (moment t s).cx.paths[p.val].wp = s.cx.paths[p.val].wp :=
  moment_path_wp t s p
@[simp] theorem moment_path_trim (t : DT) (s : State) (p : Fin 64) : (moment t s).cx.paths[p].trim = s.cx.paths[p].trim := by
  unfold moment
  split
  · simp [accrue, post]
  · rfl
@[simp] theorem moment_path_trim_val (t : DT) (s : State) (p : Fin 64) : (moment t s).cx.paths[p.val].trim = s.cx.paths[p.val].trim :=
  moment_path_trim t s p
@[simp] theorem moment_path_trimHeld (t : DT) (s : State) (p : Fin 64) : (moment t s).cx.paths[p].trimHeld = s.cx.paths[p].trimHeld := by
  unfold moment
  split
  · simp [accrue, post]
  · rfl
@[simp] theorem moment_path_trimHeld_val (t : DT) (s : State) (p : Fin 64) : (moment t s).cx.paths[p.val].trimHeld = s.cx.paths[p.val].trimHeld :=
  moment_path_trimHeld t s p
@[simp] theorem moment_path_trimChanged (t : DT) (s : State) (p : Fin 64) : (moment t s).cx.paths[p].trimChanged = s.cx.paths[p].trimChanged := by
  unfold moment
  split
  · simp [accrue, post]
  · rfl
@[simp] theorem moment_path_trimChanged_val (t : DT) (s : State) (p : Fin 64) : (moment t s).cx.paths[p.val].trimChanged = s.cx.paths[p.val].trimChanged :=
  moment_path_trimChanged t s p
@[simp] theorem moment_path_firLen (t : DT) (s : State) (p : Fin 64) : (moment t s).cx.paths[p].firLen = s.cx.paths[p].firLen := by
  unfold moment
  split
  · simp [accrue, post]
  · rfl
@[simp] theorem moment_path_firLen_val (t : DT) (s : State) (p : Fin 64) : (moment t s).cx.paths[p.val].firLen = s.cx.paths[p.val].firLen :=
  moment_path_firLen t s p
@[simp] theorem moment_path_cfg (t : DT) (s : State) (p : Fin 64) : (moment t s).cx.paths[p].cfg = s.cx.paths[p].cfg := by
  unfold moment
  split
  · simp [accrue, post]
  · rfl
@[simp] theorem moment_path_cfg_val (t : DT) (s : State) (p : Fin 64) : (moment t s).cx.paths[p.val].cfg = s.cx.paths[p.val].cfg :=
  moment_path_cfg t s p
@[simp] theorem moment_path_bankA (t : DT) (s : State) (p : Fin 64) : (moment t s).cx.paths[p].bankA = s.cx.paths[p].bankA := by
  unfold moment
  split
  · simp [accrue, post]
  · rfl
@[simp] theorem moment_path_bankA_val (t : DT) (s : State) (p : Fin 64) : (moment t s).cx.paths[p.val].bankA = s.cx.paths[p.val].bankA :=
  moment_path_bankA t s p
@[simp] theorem moment_path_bankB (t : DT) (s : State) (p : Fin 64) : (moment t s).cx.paths[p].bankB = s.cx.paths[p].bankB := by
  unfold moment
  split
  · simp [accrue, post]
  · rfl
@[simp] theorem moment_path_bankB_val (t : DT) (s : State) (p : Fin 64) : (moment t s).cx.paths[p.val].bankB = s.cx.paths[p.val].bankB :=
  moment_path_bankB t s p
@[simp] theorem moment_path_activeB (t : DT) (s : State) (p : Fin 64) : (moment t s).cx.paths[p].activeB = s.cx.paths[p].activeB := by
  unfold moment
  split
  · simp [accrue, post]
  · rfl
@[simp] theorem moment_path_activeB_val (t : DT) (s : State) (p : Fin 64) : (moment t s).cx.paths[p.val].activeB = s.cx.paths[p.val].activeB :=
  moment_path_activeB t s p
@[simp] theorem moment_path_fade (t : DT) (s : State) (p : Fin 64) : (moment t s).cx.paths[p].fade = s.cx.paths[p].fade := by
  unfold moment
  split
  · simp [accrue, post]
  · rfl
@[simp] theorem moment_path_fade_val (t : DT) (s : State) (p : Fin 64) : (moment t s).cx.paths[p.val].fade = s.cx.paths[p.val].fade :=
  moment_path_fade t s p
@[simp] theorem moment_path_queued (t : DT) (s : State) (p : Fin 64) : (moment t s).cx.paths[p].queued = s.cx.paths[p].queued := by
  unfold moment
  split
  · simp [accrue, post]
  · rfl
@[simp] theorem moment_path_queued_val (t : DT) (s : State) (p : Fin 64) : (moment t s).cx.paths[p.val].queued = s.cx.paths[p.val].queued :=
  moment_path_queued t s p
@[simp] theorem moment_path_high (t : DT) (s : State) (p : Fin 64) : (moment t s).cx.paths[p].high = s.cx.paths[p].high := by
  unfold moment
  split
  · simp [accrue, post]
  · rfl
@[simp] theorem moment_path_high_val (t : DT) (s : State) (p : Fin 64) : (moment t s).cx.paths[p.val].high = s.cx.paths[p.val].high :=
  moment_path_high t s p
@[simp] theorem moment_path_low (t : DT) (s : State) (p : Fin 64) : (moment t s).cx.paths[p].low = s.cx.paths[p].low := by
  unfold moment
  split
  · simp [accrue, post]
  · rfl
@[simp] theorem moment_path_low_val (t : DT) (s : State) (p : Fin 64) : (moment t s).cx.paths[p.val].low = s.cx.paths[p.val].low :=
  moment_path_low t s p
@[simp] theorem moment_path_next (t : DT) (s : State) (p : Fin 64) : (moment t s).cx.paths[p].next = s.cx.paths[p].next := by
  unfold moment
  split
  · simp [accrue, post]
  · rfl
@[simp] theorem moment_path_next_val (t : DT) (s : State) (p : Fin 64) : (moment t s).cx.paths[p.val].next = s.cx.paths[p.val].next :=
  moment_path_next t s p
@[simp] theorem moment_path_delivered (t : DT) (s : State) (p : Fin 64) : (moment t s).cx.paths[p].delivered = s.cx.paths[p].delivered := by
  unfold moment
  split
  · simp [accrue, post]
  · rfl
@[simp] theorem moment_path_delivered_val (t : DT) (s : State) (p : Fin 64) : (moment t s).cx.paths[p.val].delivered = s.cx.paths[p.val].delivered :=
  moment_path_delivered t s p
@[simp] theorem moment_path_gapped (t : DT) (s : State) (p : Fin 64) : (moment t s).cx.paths[p].gapped = s.cx.paths[p].gapped := by
  unfold moment
  split
  · simp [accrue, post]
  · rfl
@[simp] theorem moment_path_gapped_val (t : DT) (s : State) (p : Fin 64) : (moment t s).cx.paths[p.val].gapped = s.cx.paths[p.val].gapped :=
  moment_path_gapped t s p
@[simp] theorem moment_path_gapFrom (t : DT) (s : State) (p : Fin 64) : (moment t s).cx.paths[p].gapFrom = s.cx.paths[p].gapFrom := by
  unfold moment
  split
  · simp [accrue, post]
  · rfl
@[simp] theorem moment_path_gapFrom_val (t : DT) (s : State) (p : Fin 64) : (moment t s).cx.paths[p.val].gapFrom = s.cx.paths[p.val].gapFrom :=
  moment_path_gapFrom t s p
@[simp] theorem moment_path_grid (t : DT) (s : State) (p : Fin 64) : (moment t s).cx.paths[p].grid = s.cx.paths[p].grid := by
  unfold moment
  split
  · simp [accrue, post]
  · rfl
@[simp] theorem moment_path_grid_val (t : DT) (s : State) (p : Fin 64) : (moment t s).cx.paths[p.val].grid = s.cx.paths[p.val].grid :=
  moment_path_grid t s p
@[simp] theorem moment_path_seq (t : DT) (s : State) (p : Fin 64) : (moment t s).cx.paths[p].seq = s.cx.paths[p].seq := by
  unfold moment
  split
  · simp [accrue, post]
  · rfl
@[simp] theorem moment_path_seq_val (t : DT) (s : State) (p : Fin 64) : (moment t s).cx.paths[p.val].seq = s.cx.paths[p.val].seq :=
  moment_path_seq t s p
@[simp] theorem moment_path_clipped (t : DT) (s : State) (p : Fin 64) : (moment t s).cx.paths[p].clipped = s.cx.paths[p].clipped := by
  unfold moment
  split
  · simp [accrue, post]
  · rfl
@[simp] theorem moment_path_clipped_val (t : DT) (s : State) (p : Fin 64) : (moment t s).cx.paths[p.val].clipped = s.cx.paths[p.val].clipped :=
  moment_path_clipped t s p
@[simp] theorem moment_path_level (t : DT) (s : State) (p : Fin 64) : (moment t s).cx.paths[p].level = s.cx.paths[p].level := by
  unfold moment
  split
  · simp [accrue, post]
  · rfl
@[simp] theorem moment_path_level_val (t : DT) (s : State) (p : Fin 64) : (moment t s).cx.paths[p.val].level = s.cx.paths[p.val].level :=
  moment_path_level t s p
@[simp] theorem moment_path_broken (t : DT) (s : State) (p : Fin 64) : (moment t s).cx.paths[p].broken = s.cx.paths[p].broken := by
  unfold moment
  split
  · simp [accrue, post]
  · rfl
@[simp] theorem moment_path_broken_val (t : DT) (s : State) (p : Fin 64) : (moment t s).cx.paths[p.val].broken = s.cx.paths[p.val].broken :=
  moment_path_broken t s p
@[simp] theorem moment_path_opening (t : DT) (s : State) (p : Fin 64) : (moment t s).cx.paths[p].opening = s.cx.paths[p].opening := by
  unfold moment
  split
  · simp [accrue, post]
  · rfl
@[simp] theorem moment_path_opening_val (t : DT) (s : State) (p : Fin 64) : (moment t s).cx.paths[p.val].opening = s.cx.paths[p.val].opening :=
  moment_path_opening t s p

/-! `sendMsix` -/

@[simp] theorem sendMsix_pending (v : Nat) (s : State) : (sendMsix v s).pending = s.pending := (sendMsix_within _ _).pending
@[simp] theorem sendMsix_ident (v : Nat) (s : State) :
    (sendMsix v s).ident = s.ident := (sendMsix_within _ _).ident rfl
@[simp] theorem sendMsix_power (v : Nat) (s : State) :
    (sendMsix v s).power = s.power := (sendMsix_within _ _).power rfl
@[simp] theorem sendMsix_time (v : Nat) (s : State) :
    (sendMsix v s).time = s.time := (sendMsix_within _ _).time_eq rfl rfl
@[simp] theorem sendMsix_rf (v : Nat) (s : State) :
    (sendMsix v s).rf = s.rf := (sendMsix_within _ _).rf_eq rfl rfl rfl rfl
@[simp] theorem sendMsix_cx (v : Nat) (s : State) :
    (sendMsix v s).cx = s.cx := (sendMsix_within _ _).cx_eq rfl rfl rfl rfl
@[simp] theorem sendMsix_audio (v : Nat) (s : State) :
    (sendMsix v s).audio = s.audio := (sendMsix_within _ _).audio rfl
@[simp] theorem sendMsix_port (v : Nat) (s : State) :
    (sendMsix v s).port = s.port := (sendMsix_within _ _).port rfl
@[simp] theorem sendMsix_mp (v : Nat) (s : State) :
    (sendMsix v s).mp = s.mp := (sendMsix_within _ _).mp rfl
@[simp] theorem sendMsix_sg (v : Nat) (s : State) :
    (sendMsix v s).sg = s.sg := (sendMsix_within _ _).sg rfl
@[simp] theorem sendMsix_cry (v : Nat) (s : State) :
    (sendMsix v s).cry = s.cry := (sendMsix_within _ _).cry rfl
@[simp] theorem sendMsix_mem (v : Nat) (s : State) :
    (sendMsix v s).mem = s.mem := (sendMsix_within _ _).mem_eq rfl rfl
@[simp] theorem sendMsix_mnt (v : Nat) (s : State) :
    (sendMsix v s).mnt = s.mnt := (sendMsix_within _ _).mnt rfl
@[simp] theorem sendMsix_pair (v : Nat) (s : State) :
    (sendMsix v s).pair = s.pair := (sendMsix_within _ _).pair rfl
@[simp] theorem sendMsix_vault (v : Nat) (s : State) :
    (sendMsix v s).vault = s.vault := (sendMsix_within _ _).vault rfl

/-! `signalCq` -/

@[simp] theorem signalCq_pending (q : Fin 32) (event : Bool) (s : State) : (signalCq q event s).pending = s.pending := (signalCq_within _ _ _).pending
@[simp] theorem signalCq_ident (q : Fin 32) (event : Bool) (s : State) :
    (signalCq q event s).ident = s.ident := (signalCq_within _ _ _).ident rfl
@[simp] theorem signalCq_power (q : Fin 32) (event : Bool) (s : State) :
    (signalCq q event s).power = s.power := (signalCq_within _ _ _).power rfl
@[simp] theorem signalCq_time (q : Fin 32) (event : Bool) (s : State) :
    (signalCq q event s).time = s.time := (signalCq_within _ _ _).time_eq rfl rfl
@[simp] theorem signalCq_rf (q : Fin 32) (event : Bool) (s : State) :
    (signalCq q event s).rf = s.rf := (signalCq_within _ _ _).rf_eq rfl rfl rfl rfl
@[simp] theorem signalCq_cx (q : Fin 32) (event : Bool) (s : State) :
    (signalCq q event s).cx = s.cx := (signalCq_within _ _ _).cx_eq rfl rfl rfl rfl
@[simp] theorem signalCq_audio (q : Fin 32) (event : Bool) (s : State) :
    (signalCq q event s).audio = s.audio := (signalCq_within _ _ _).audio rfl
@[simp] theorem signalCq_port (q : Fin 32) (event : Bool) (s : State) :
    (signalCq q event s).port = s.port := (signalCq_within _ _ _).port rfl
@[simp] theorem signalCq_mp (q : Fin 32) (event : Bool) (s : State) :
    (signalCq q event s).mp = s.mp := (signalCq_within _ _ _).mp rfl
@[simp] theorem signalCq_sg (q : Fin 32) (event : Bool) (s : State) :
    (signalCq q event s).sg = s.sg := (signalCq_within _ _ _).sg rfl
@[simp] theorem signalCq_cry (q : Fin 32) (event : Bool) (s : State) :
    (signalCq q event s).cry = s.cry := (signalCq_within _ _ _).cry rfl
@[simp] theorem signalCq_mem (q : Fin 32) (event : Bool) (s : State) :
    (signalCq q event s).mem = s.mem := (signalCq_within _ _ _).mem_eq rfl rfl
@[simp] theorem signalCq_mnt (q : Fin 32) (event : Bool) (s : State) :
    (signalCq q event s).mnt = s.mnt := (signalCq_within _ _ _).mnt rfl
@[simp] theorem signalCq_pair (q : Fin 32) (event : Bool) (s : State) :
    (signalCq q event s).pair = s.pair := (signalCq_within _ _ _).pair rfl
@[simp] theorem signalCq_vault (q : Fin 32) (event : Bool) (s : State) :
    (signalCq q event s).vault = s.vault := (signalCq_within _ _ _).vault rfl

/-! `signalRing` -/

@[simp] theorem signalRing_pending (c : Fin 4) (s : State) : (signalRing c s).pending = s.pending := (signalRing_within _ _).pending
@[simp] theorem signalRing_ident (c : Fin 4) (s : State) :
    (signalRing c s).ident = s.ident := (signalRing_within _ _).ident rfl
@[simp] theorem signalRing_power (c : Fin 4) (s : State) :
    (signalRing c s).power = s.power := (signalRing_within _ _).power rfl
@[simp] theorem signalRing_time (c : Fin 4) (s : State) :
    (signalRing c s).time = s.time := (signalRing_within _ _).time_eq rfl rfl
@[simp] theorem signalRing_rf (c : Fin 4) (s : State) :
    (signalRing c s).rf = s.rf := (signalRing_within _ _).rf_eq rfl rfl rfl rfl
@[simp] theorem signalRing_cx (c : Fin 4) (s : State) :
    (signalRing c s).cx = s.cx := (signalRing_within _ _).cx_eq rfl rfl rfl rfl
@[simp] theorem signalRing_audio (c : Fin 4) (s : State) :
    (signalRing c s).audio = s.audio := (signalRing_within _ _).audio rfl
@[simp] theorem signalRing_port (c : Fin 4) (s : State) :
    (signalRing c s).port = s.port := (signalRing_within _ _).port rfl
@[simp] theorem signalRing_mp (c : Fin 4) (s : State) :
    (signalRing c s).mp = s.mp := (signalRing_within _ _).mp rfl
@[simp] theorem signalRing_sg (c : Fin 4) (s : State) :
    (signalRing c s).sg = s.sg := (signalRing_within _ _).sg rfl
@[simp] theorem signalRing_cry (c : Fin 4) (s : State) :
    (signalRing c s).cry = s.cry := (signalRing_within _ _).cry rfl
@[simp] theorem signalRing_mem (c : Fin 4) (s : State) :
    (signalRing c s).mem = s.mem := (signalRing_within _ _).mem_eq rfl rfl
@[simp] theorem signalRing_mnt (c : Fin 4) (s : State) :
    (signalRing c s).mnt = s.mnt := (signalRing_within _ _).mnt rfl
@[simp] theorem signalRing_pair (c : Fin 4) (s : State) :
    (signalRing c s).pair = s.pair := (signalRing_within _ _).pair rfl
@[simp] theorem signalRing_vault (c : Fin 4) (s : State) :
    (signalRing c s).vault = s.vault := (signalRing_within _ _).vault rfl

/-! `countEvent` -/

@[simp] theorem countEvent_pending (e : CqEntry) (s : State) : (countEvent e s).pending = s.pending := (countEvent_within _ _).pending
@[simp] theorem countEvent_ident (e : CqEntry) (s : State) :
    (countEvent e s).ident = s.ident := (countEvent_within _ _).ident rfl
@[simp] theorem countEvent_power (e : CqEntry) (s : State) :
    (countEvent e s).power = s.power := (countEvent_within _ _).power rfl
@[simp] theorem countEvent_time (e : CqEntry) (s : State) :
    (countEvent e s).time = s.time := (countEvent_within _ _).time_eq rfl rfl
@[simp] theorem countEvent_rf (e : CqEntry) (s : State) :
    (countEvent e s).rf = s.rf := (countEvent_within _ _).rf_eq rfl rfl rfl rfl
@[simp] theorem countEvent_cx (e : CqEntry) (s : State) :
    (countEvent e s).cx = s.cx := (countEvent_within _ _).cx_eq rfl rfl rfl rfl
@[simp] theorem countEvent_audio (e : CqEntry) (s : State) :
    (countEvent e s).audio = s.audio := (countEvent_within _ _).audio rfl
@[simp] theorem countEvent_port (e : CqEntry) (s : State) :
    (countEvent e s).port = s.port := (countEvent_within _ _).port rfl
@[simp] theorem countEvent_sg (e : CqEntry) (s : State) :
    (countEvent e s).sg = s.sg := (countEvent_within _ _).sg rfl
@[simp] theorem countEvent_cry (e : CqEntry) (s : State) :
    (countEvent e s).cry = s.cry := (countEvent_within _ _).cry rfl
@[simp] theorem countEvent_mem (e : CqEntry) (s : State) :
    (countEvent e s).mem = s.mem := (countEvent_within _ _).mem_eq rfl rfl
@[simp] theorem countEvent_mnt (e : CqEntry) (s : State) :
    (countEvent e s).mnt = s.mnt := (countEvent_within _ _).mnt rfl
@[simp] theorem countEvent_pair (e : CqEntry) (s : State) :
    (countEvent e s).pair = s.pair := (countEvent_within _ _).pair rfl
@[simp] theorem countEvent_vault (e : CqEntry) (s : State) :
    (countEvent e s).vault = s.vault := (countEvent_within _ _).vault rfl

/-! `settleEntry` -/

@[simp] theorem settleEntry_pending (e : CqEntry) (s : State) : (settleEntry e s).pending = s.pending := (settleEntry_within _ _).pending
@[simp] theorem settleEntry_ident (e : CqEntry) (s : State) :
    (settleEntry e s).ident = s.ident := (settleEntry_within _ _).ident rfl
@[simp] theorem settleEntry_power (e : CqEntry) (s : State) :
    (settleEntry e s).power = s.power := (settleEntry_within _ _).power rfl
@[simp] theorem settleEntry_time (e : CqEntry) (s : State) :
    (settleEntry e s).time = s.time := (settleEntry_within _ _).time_eq rfl rfl
@[simp] theorem settleEntry_rf (e : CqEntry) (s : State) :
    (settleEntry e s).rf = s.rf := (settleEntry_within _ _).rf_eq rfl rfl rfl rfl
@[simp] theorem settleEntry_cx (e : CqEntry) (s : State) :
    (settleEntry e s).cx = s.cx := (settleEntry_within _ _).cx_eq rfl rfl rfl rfl
@[simp] theorem settleEntry_audio (e : CqEntry) (s : State) :
    (settleEntry e s).audio = s.audio := (settleEntry_within _ _).audio rfl
@[simp] theorem settleEntry_port (e : CqEntry) (s : State) :
    (settleEntry e s).port = s.port := (settleEntry_within _ _).port rfl
@[simp] theorem settleEntry_mp (e : CqEntry) (s : State) :
    (settleEntry e s).mp = s.mp := (settleEntry_within _ _).mp rfl
@[simp] theorem settleEntry_sg (e : CqEntry) (s : State) :
    (settleEntry e s).sg = s.sg := (settleEntry_within _ _).sg rfl
@[simp] theorem settleEntry_cry (e : CqEntry) (s : State) :
    (settleEntry e s).cry = s.cry := (settleEntry_within _ _).cry rfl
@[simp] theorem settleEntry_mem (e : CqEntry) (s : State) :
    (settleEntry e s).mem = s.mem := (settleEntry_within _ _).mem_eq rfl rfl
@[simp] theorem settleEntry_mnt (e : CqEntry) (s : State) :
    (settleEntry e s).mnt = s.mnt := (settleEntry_within _ _).mnt rfl
@[simp] theorem settleEntry_pair (e : CqEntry) (s : State) :
    (settleEntry e s).pair = s.pair := (settleEntry_within _ _).pair rfl
@[simp] theorem settleEntry_vault (e : CqEntry) (s : State) :
    (settleEntry e s).vault = s.vault := (settleEntry_within _ _).vault rfl

/-! `cqWrite` -/

@[simp] theorem cqWrite_pending (q : Fin 32) (e : CqEntry) (s : State) : (cqWrite q e s).pending = s.pending := (cqWrite_within _ _ _).pending
@[simp] theorem cqWrite_ident (q : Fin 32) (e : CqEntry) (s : State) :
    (cqWrite q e s).ident = s.ident := (cqWrite_within _ _ _).ident rfl
@[simp] theorem cqWrite_power (q : Fin 32) (e : CqEntry) (s : State) :
    (cqWrite q e s).power = s.power := (cqWrite_within _ _ _).power rfl
@[simp] theorem cqWrite_time (q : Fin 32) (e : CqEntry) (s : State) :
    (cqWrite q e s).time = s.time := (cqWrite_within _ _ _).time_eq rfl rfl
@[simp] theorem cqWrite_rf (q : Fin 32) (e : CqEntry) (s : State) :
    (cqWrite q e s).rf = s.rf := (cqWrite_within _ _ _).rf_eq rfl rfl rfl rfl
@[simp] theorem cqWrite_cx (q : Fin 32) (e : CqEntry) (s : State) :
    (cqWrite q e s).cx = s.cx := (cqWrite_within _ _ _).cx_eq rfl rfl rfl rfl
@[simp] theorem cqWrite_audio (q : Fin 32) (e : CqEntry) (s : State) :
    (cqWrite q e s).audio = s.audio := (cqWrite_within _ _ _).audio rfl
@[simp] theorem cqWrite_port (q : Fin 32) (e : CqEntry) (s : State) :
    (cqWrite q e s).port = s.port := (cqWrite_within _ _ _).port rfl
@[simp] theorem cqWrite_sg (q : Fin 32) (e : CqEntry) (s : State) :
    (cqWrite q e s).sg = s.sg := (cqWrite_within _ _ _).sg rfl
@[simp] theorem cqWrite_cry (q : Fin 32) (e : CqEntry) (s : State) :
    (cqWrite q e s).cry = s.cry := (cqWrite_within _ _ _).cry rfl
@[simp] theorem cqWrite_mem (q : Fin 32) (e : CqEntry) (s : State) :
    (cqWrite q e s).mem = s.mem := (cqWrite_within _ _ _).mem_eq rfl rfl
@[simp] theorem cqWrite_mnt (q : Fin 32) (e : CqEntry) (s : State) :
    (cqWrite q e s).mnt = s.mnt := (cqWrite_within _ _ _).mnt rfl
@[simp] theorem cqWrite_pair (q : Fin 32) (e : CqEntry) (s : State) :
    (cqWrite q e s).pair = s.pair := (cqWrite_within _ _ _).pair rfl
@[simp] theorem cqWrite_vault (q : Fin 32) (e : CqEntry) (s : State) :
    (cqWrite q e s).vault = s.vault := (cqWrite_within _ _ _).vault rfl

/-! `cqPush` -/

@[simp] theorem cqPush_pending (q : Fin 32) (e : CqEntry) (u : Option Unwritten) (s : State) : (cqPush q e u s).pending = s.pending := (cqPush_within _ _ _ _).pending
@[simp] theorem cqPush_ident (q : Fin 32) (e : CqEntry) (u : Option Unwritten) (s : State) :
    (cqPush q e u s).ident = s.ident := (cqPush_within _ _ _ _).ident rfl
@[simp] theorem cqPush_power (q : Fin 32) (e : CqEntry) (u : Option Unwritten) (s : State) :
    (cqPush q e u s).power = s.power := (cqPush_within _ _ _ _).power rfl
@[simp] theorem cqPush_time (q : Fin 32) (e : CqEntry) (u : Option Unwritten) (s : State) :
    (cqPush q e u s).time = s.time := (cqPush_within _ _ _ _).time_eq rfl rfl
@[simp] theorem cqPush_rf (q : Fin 32) (e : CqEntry) (u : Option Unwritten) (s : State) :
    (cqPush q e u s).rf = s.rf := (cqPush_within _ _ _ _).rf_eq rfl rfl rfl rfl
@[simp] theorem cqPush_cx (q : Fin 32) (e : CqEntry) (u : Option Unwritten) (s : State) :
    (cqPush q e u s).cx = s.cx := (cqPush_within _ _ _ _).cx_eq rfl rfl rfl rfl
@[simp] theorem cqPush_audio (q : Fin 32) (e : CqEntry) (u : Option Unwritten) (s : State) :
    (cqPush q e u s).audio = s.audio := (cqPush_within _ _ _ _).audio rfl
@[simp] theorem cqPush_port (q : Fin 32) (e : CqEntry) (u : Option Unwritten) (s : State) :
    (cqPush q e u s).port = s.port := (cqPush_within _ _ _ _).port rfl
@[simp] theorem cqPush_sg (q : Fin 32) (e : CqEntry) (u : Option Unwritten) (s : State) :
    (cqPush q e u s).sg = s.sg := (cqPush_within _ _ _ _).sg rfl
@[simp] theorem cqPush_cry (q : Fin 32) (e : CqEntry) (u : Option Unwritten) (s : State) :
    (cqPush q e u s).cry = s.cry := (cqPush_within _ _ _ _).cry rfl
@[simp] theorem cqPush_mem (q : Fin 32) (e : CqEntry) (u : Option Unwritten) (s : State) :
    (cqPush q e u s).mem = s.mem := (cqPush_within _ _ _ _).mem_eq rfl rfl
@[simp] theorem cqPush_mnt (q : Fin 32) (e : CqEntry) (u : Option Unwritten) (s : State) :
    (cqPush q e u s).mnt = s.mnt := (cqPush_within _ _ _ _).mnt rfl
@[simp] theorem cqPush_pair (q : Fin 32) (e : CqEntry) (u : Option Unwritten) (s : State) :
    (cqPush q e u s).pair = s.pair := (cqPush_within _ _ _ _).pair rfl
@[simp] theorem cqPush_vault (q : Fin 32) (e : CqEntry) (u : Option Unwritten) (s : State) :
    (cqPush q e u s).vault = s.vault := (cqPush_within _ _ _ _).vault rfl

/-! `mpResult` -/

@[simp] theorem mpResult_pending (e : CqEntry) (area : List Byte) (s : State) : (mpResult e area s).pending = s.pending := (mpResult_within _ _ _).pending
@[simp] theorem mpResult_ident (e : CqEntry) (area : List Byte) (s : State) :
    (mpResult e area s).ident = s.ident := (mpResult_within _ _ _).ident rfl
@[simp] theorem mpResult_power (e : CqEntry) (area : List Byte) (s : State) :
    (mpResult e area s).power = s.power := (mpResult_within _ _ _).power rfl
@[simp] theorem mpResult_time (e : CqEntry) (area : List Byte) (s : State) :
    (mpResult e area s).time = s.time := (mpResult_within _ _ _).time_eq rfl rfl
@[simp] theorem mpResult_rf (e : CqEntry) (area : List Byte) (s : State) :
    (mpResult e area s).rf = s.rf := (mpResult_within _ _ _).rf_eq rfl rfl rfl rfl
@[simp] theorem mpResult_cx (e : CqEntry) (area : List Byte) (s : State) :
    (mpResult e area s).cx = s.cx := (mpResult_within _ _ _).cx_eq rfl rfl rfl rfl
@[simp] theorem mpResult_audio (e : CqEntry) (area : List Byte) (s : State) :
    (mpResult e area s).audio = s.audio := (mpResult_within _ _ _).audio rfl
@[simp] theorem mpResult_port (e : CqEntry) (area : List Byte) (s : State) :
    (mpResult e area s).port = s.port := (mpResult_within _ _ _).port rfl
@[simp] theorem mpResult_sg (e : CqEntry) (area : List Byte) (s : State) :
    (mpResult e area s).sg = s.sg := (mpResult_within _ _ _).sg rfl
@[simp] theorem mpResult_cry (e : CqEntry) (area : List Byte) (s : State) :
    (mpResult e area s).cry = s.cry := (mpResult_within _ _ _).cry rfl
@[simp] theorem mpResult_mem (e : CqEntry) (area : List Byte) (s : State) :
    (mpResult e area s).mem = s.mem := (mpResult_within _ _ _).mem_eq rfl rfl
@[simp] theorem mpResult_mnt (e : CqEntry) (area : List Byte) (s : State) :
    (mpResult e area s).mnt = s.mnt := (mpResult_within _ _ _).mnt rfl
@[simp] theorem mpResult_pair (e : CqEntry) (area : List Byte) (s : State) :
    (mpResult e area s).pair = s.pair := (mpResult_within _ _ _).pair rfl
@[simp] theorem mpResult_vault (e : CqEntry) (area : List Byte) (s : State) :
    (mpResult e area s).vault = s.vault := (mpResult_within _ _ _).vault rfl

/-! `notifyRise` -/

@[simp] theorem notifyRise_pending (old s : State) : (notifyRise old s).pending = s.pending := (notifyRise_within _ _).pending
@[simp] theorem notifyRise_ident (old s : State) :
    (notifyRise old s).ident = s.ident := (notifyRise_within _ _).ident rfl
@[simp] theorem notifyRise_power (old s : State) :
    (notifyRise old s).power = s.power := (notifyRise_within _ _).power rfl
@[simp] theorem notifyRise_time (old s : State) :
    (notifyRise old s).time = s.time := (notifyRise_within _ _).time_eq rfl rfl
@[simp] theorem notifyRise_rf (old s : State) :
    (notifyRise old s).rf = s.rf := (notifyRise_within _ _).rf_eq rfl rfl rfl rfl
@[simp] theorem notifyRise_cx (old s : State) :
    (notifyRise old s).cx = s.cx := (notifyRise_within _ _).cx_eq rfl rfl rfl rfl
@[simp] theorem notifyRise_audio (old s : State) :
    (notifyRise old s).audio = s.audio := (notifyRise_within _ _).audio rfl
@[simp] theorem notifyRise_port (old s : State) :
    (notifyRise old s).port = s.port := (notifyRise_within _ _).port rfl
@[simp] theorem notifyRise_sg (old s : State) :
    (notifyRise old s).sg = s.sg := (notifyRise_within _ _).sg rfl
@[simp] theorem notifyRise_cry (old s : State) :
    (notifyRise old s).cry = s.cry := (notifyRise_within _ _).cry rfl
@[simp] theorem notifyRise_mem (old s : State) :
    (notifyRise old s).mem = s.mem := (notifyRise_within _ _).mem_eq rfl rfl
@[simp] theorem notifyRise_mnt (old s : State) :
    (notifyRise old s).mnt = s.mnt := (notifyRise_within _ _).mnt rfl
@[simp] theorem notifyRise_pair (old s : State) :
    (notifyRise old s).pair = s.pair := (notifyRise_within _ _).pair rfl
@[simp] theorem notifyRise_vault (old s : State) :
    (notifyRise old s).vault = s.vault := (notifyRise_within _ _).vault rfl

/-! `raiseAt` -/

@[simp] theorem raiseAt_pending (ev : Ev) (dt : DT) (res : List Byte) (s : State) : (raiseAt ev dt res s).pending = s.pending := (raiseAt_within _ _ _ _).pending
@[simp] theorem raiseAt_ident (ev : Ev) (dt : DT) (res : List Byte) (s : State) :
    (raiseAt ev dt res s).ident = s.ident := (raiseAt_within _ _ _ _).ident rfl
@[simp] theorem raiseAt_power (ev : Ev) (dt : DT) (res : List Byte) (s : State) :
    (raiseAt ev dt res s).power = s.power := (raiseAt_within _ _ _ _).power rfl
@[simp] theorem raiseAt_time (ev : Ev) (dt : DT) (res : List Byte) (s : State) :
    (raiseAt ev dt res s).time = s.time := (raiseAt_within _ _ _ _).time_eq rfl rfl
@[simp] theorem raiseAt_rf (ev : Ev) (dt : DT) (res : List Byte) (s : State) :
    (raiseAt ev dt res s).rf = s.rf := (raiseAt_within _ _ _ _).rf_eq rfl rfl rfl rfl
@[simp] theorem raiseAt_cx (ev : Ev) (dt : DT) (res : List Byte) (s : State) :
    (raiseAt ev dt res s).cx = s.cx := (raiseAt_within _ _ _ _).cx_eq rfl rfl rfl rfl
@[simp] theorem raiseAt_audio (ev : Ev) (dt : DT) (res : List Byte) (s : State) :
    (raiseAt ev dt res s).audio = s.audio := (raiseAt_within _ _ _ _).audio rfl
@[simp] theorem raiseAt_port (ev : Ev) (dt : DT) (res : List Byte) (s : State) :
    (raiseAt ev dt res s).port = s.port := (raiseAt_within _ _ _ _).port rfl
@[simp] theorem raiseAt_sg (ev : Ev) (dt : DT) (res : List Byte) (s : State) :
    (raiseAt ev dt res s).sg = s.sg := (raiseAt_within _ _ _ _).sg rfl
@[simp] theorem raiseAt_cry (ev : Ev) (dt : DT) (res : List Byte) (s : State) :
    (raiseAt ev dt res s).cry = s.cry := (raiseAt_within _ _ _ _).cry rfl
@[simp] theorem raiseAt_mnt (ev : Ev) (dt : DT) (res : List Byte) (s : State) :
    (raiseAt ev dt res s).mnt = s.mnt := (raiseAt_within _ _ _ _).mnt rfl
@[simp] theorem raiseAt_pair (ev : Ev) (dt : DT) (res : List Byte) (s : State) :
    (raiseAt ev dt res s).pair = s.pair := (raiseAt_within _ _ _ _).pair rfl
@[simp] theorem raiseAt_vault (ev : Ev) (dt : DT) (res : List Byte) (s : State) :
    (raiseAt ev dt res s).vault = s.vault := (raiseAt_within _ _ _ _).vault rfl

/-! `raise` -/

@[simp] theorem raise_pending (ev : Ev) (fs : List (Nat × Nat × Int)) (s : State) : (raise ev fs s).pending = s.pending := (raise_within _ _ _).pending
@[simp] theorem raise_ident (ev : Ev) (fs : List (Nat × Nat × Int)) (s : State) :
    (raise ev fs s).ident = s.ident := (raise_within _ _ _).ident rfl
@[simp] theorem raise_power (ev : Ev) (fs : List (Nat × Nat × Int)) (s : State) :
    (raise ev fs s).power = s.power := (raise_within _ _ _).power rfl
@[simp] theorem raise_time (ev : Ev) (fs : List (Nat × Nat × Int)) (s : State) :
    (raise ev fs s).time = s.time := (raise_within _ _ _).time_eq rfl rfl
@[simp] theorem raise_rf (ev : Ev) (fs : List (Nat × Nat × Int)) (s : State) :
    (raise ev fs s).rf = s.rf := (raise_within _ _ _).rf_eq rfl rfl rfl rfl
@[simp] theorem raise_cx (ev : Ev) (fs : List (Nat × Nat × Int)) (s : State) :
    (raise ev fs s).cx = s.cx := (raise_within _ _ _).cx_eq rfl rfl rfl rfl
@[simp] theorem raise_audio (ev : Ev) (fs : List (Nat × Nat × Int)) (s : State) :
    (raise ev fs s).audio = s.audio := (raise_within _ _ _).audio rfl
@[simp] theorem raise_port (ev : Ev) (fs : List (Nat × Nat × Int)) (s : State) :
    (raise ev fs s).port = s.port := (raise_within _ _ _).port rfl
@[simp] theorem raise_sg (ev : Ev) (fs : List (Nat × Nat × Int)) (s : State) :
    (raise ev fs s).sg = s.sg := (raise_within _ _ _).sg rfl
@[simp] theorem raise_cry (ev : Ev) (fs : List (Nat × Nat × Int)) (s : State) :
    (raise ev fs s).cry = s.cry := (raise_within _ _ _).cry rfl
@[simp] theorem raise_mnt (ev : Ev) (fs : List (Nat × Nat × Int)) (s : State) :
    (raise ev fs s).mnt = s.mnt := (raise_within _ _ _).mnt rfl
@[simp] theorem raise_pair (ev : Ev) (fs : List (Nat × Nat × Int)) (s : State) :
    (raise ev fs s).pair = s.pair := (raise_within _ _ _).pair rfl
@[simp] theorem raise_vault (ev : Ev) (fs : List (Nat × Nat × Int)) (s : State) :
    (raise ev fs s).vault = s.vault := (raise_within _ _ _).vault rfl

/-! `refill` -/

@[simp] theorem refill_pending (s : State) : (refill s).pending = s.pending := (refill_within _).pending
@[simp] theorem refill_ident (s : State) :
    (refill s).ident = s.ident := (refill_within _).ident rfl
@[simp] theorem refill_power (s : State) :
    (refill s).power = s.power := (refill_within _).power rfl
@[simp] theorem refill_time (s : State) :
    (refill s).time = s.time := (refill_within _).time_eq rfl rfl
@[simp] theorem refill_rf (s : State) :
    (refill s).rf = s.rf := (refill_within _).rf_eq rfl rfl rfl rfl
@[simp] theorem refill_cx (s : State) :
    (refill s).cx = s.cx := (refill_within _).cx_eq rfl rfl rfl rfl
@[simp] theorem refill_audio (s : State) :
    (refill s).audio = s.audio := (refill_within _).audio rfl
@[simp] theorem refill_port (s : State) :
    (refill s).port = s.port := (refill_within _).port rfl
@[simp] theorem refill_sg (s : State) :
    (refill s).sg = s.sg := (refill_within _).sg rfl
@[simp] theorem refill_cry (s : State) :
    (refill s).cry = s.cry := (refill_within _).cry rfl
@[simp] theorem refill_mem (s : State) :
    (refill s).mem = s.mem := (refill_within _).mem_eq rfl rfl
@[simp] theorem refill_mnt (s : State) :
    (refill s).mnt = s.mnt := (refill_within _).mnt rfl
@[simp] theorem refill_pair (s : State) :
    (refill s).pair = s.pair := (refill_within _).pair rfl
@[simp] theorem refill_vault (s : State) :
    (refill s).vault = s.vault := (refill_within _).vault rfl

/-! `retWrite` -/

@[simp] theorem retWrite_pending (c : Fin 4) (e : RetEntry) (s : State) : (retWrite c e s).pending = s.pending := (retWrite_within _ _ _).pending
@[simp] theorem retWrite_ident (c : Fin 4) (e : RetEntry) (s : State) :
    (retWrite c e s).ident = s.ident := (retWrite_within _ _ _).ident rfl
@[simp] theorem retWrite_power (c : Fin 4) (e : RetEntry) (s : State) :
    (retWrite c e s).power = s.power := (retWrite_within _ _ _).power rfl
@[simp] theorem retWrite_time (c : Fin 4) (e : RetEntry) (s : State) :
    (retWrite c e s).time = s.time := (retWrite_within _ _ _).time_eq rfl rfl
@[simp] theorem retWrite_rf (c : Fin 4) (e : RetEntry) (s : State) :
    (retWrite c e s).rf = s.rf := (retWrite_within _ _ _).rf_eq rfl rfl rfl rfl
@[simp] theorem retWrite_cx (c : Fin 4) (e : RetEntry) (s : State) :
    (retWrite c e s).cx = s.cx := (retWrite_within _ _ _).cx_eq rfl rfl rfl rfl
@[simp] theorem retWrite_audio (c : Fin 4) (e : RetEntry) (s : State) :
    (retWrite c e s).audio = s.audio := (retWrite_within _ _ _).audio rfl
@[simp] theorem retWrite_port (c : Fin 4) (e : RetEntry) (s : State) :
    (retWrite c e s).port = s.port := (retWrite_within _ _ _).port rfl
@[simp] theorem retWrite_mp (c : Fin 4) (e : RetEntry) (s : State) :
    (retWrite c e s).mp = s.mp := (retWrite_within _ _ _).mp rfl
@[simp] theorem retWrite_sg (c : Fin 4) (e : RetEntry) (s : State) :
    (retWrite c e s).sg = s.sg := (retWrite_within _ _ _).sg rfl
@[simp] theorem retWrite_mem (c : Fin 4) (e : RetEntry) (s : State) :
    (retWrite c e s).mem = s.mem := (retWrite_within _ _ _).mem_eq rfl rfl
@[simp] theorem retWrite_mnt (c : Fin 4) (e : RetEntry) (s : State) :
    (retWrite c e s).mnt = s.mnt := (retWrite_within _ _ _).mnt rfl
@[simp] theorem retWrite_pair (c : Fin 4) (e : RetEntry) (s : State) :
    (retWrite c e s).pair = s.pair := (retWrite_within _ _ _).pair rfl
@[simp] theorem retWrite_vault (c : Fin 4) (e : RetEntry) (s : State) :
    (retWrite c e s).vault = s.vault := (retWrite_within _ _ _).vault rfl

/-! `retPush` -/

@[simp] theorem retPush_pending (c : Fin 4) (e : RetEntry) (s : State) : (retPush c e s).pending = s.pending := (retPush_within _ _ _).pending
@[simp] theorem retPush_ident (c : Fin 4) (e : RetEntry) (s : State) :
    (retPush c e s).ident = s.ident := (retPush_within _ _ _).ident rfl
@[simp] theorem retPush_power (c : Fin 4) (e : RetEntry) (s : State) :
    (retPush c e s).power = s.power := (retPush_within _ _ _).power rfl
@[simp] theorem retPush_time (c : Fin 4) (e : RetEntry) (s : State) :
    (retPush c e s).time = s.time := (retPush_within _ _ _).time_eq rfl rfl
@[simp] theorem retPush_rf (c : Fin 4) (e : RetEntry) (s : State) :
    (retPush c e s).rf = s.rf := (retPush_within _ _ _).rf_eq rfl rfl rfl rfl
@[simp] theorem retPush_cx (c : Fin 4) (e : RetEntry) (s : State) :
    (retPush c e s).cx = s.cx := (retPush_within _ _ _).cx_eq rfl rfl rfl rfl
@[simp] theorem retPush_audio (c : Fin 4) (e : RetEntry) (s : State) :
    (retPush c e s).audio = s.audio := (retPush_within _ _ _).audio rfl
@[simp] theorem retPush_port (c : Fin 4) (e : RetEntry) (s : State) :
    (retPush c e s).port = s.port := (retPush_within _ _ _).port rfl
@[simp] theorem retPush_mp (c : Fin 4) (e : RetEntry) (s : State) :
    (retPush c e s).mp = s.mp := (retPush_within _ _ _).mp rfl
@[simp] theorem retPush_sg (c : Fin 4) (e : RetEntry) (s : State) :
    (retPush c e s).sg = s.sg := (retPush_within _ _ _).sg rfl
@[simp] theorem retPush_mem (c : Fin 4) (e : RetEntry) (s : State) :
    (retPush c e s).mem = s.mem := (retPush_within _ _ _).mem_eq rfl rfl
@[simp] theorem retPush_mnt (c : Fin 4) (e : RetEntry) (s : State) :
    (retPush c e s).mnt = s.mnt := (retPush_within _ _ _).mnt rfl
@[simp] theorem retPush_pair (c : Fin 4) (e : RetEntry) (s : State) :
    (retPush c e s).pair = s.pair := (retPush_within _ _ _).pair rfl
@[simp] theorem retPush_vault (c : Fin 4) (e : RetEntry) (s : State) :
    (retPush c e s).vault = s.vault := (retPush_within _ _ _).vault rfl

/-! `sendEntry` -/

@[simp] theorem sendEntry_pending (h : Held) (e : CqEntry) (area : List Byte) (s : State) : (sendEntry h e area s).pending = s.pending := (sendEntry_within _ _ _ _).pending
@[simp] theorem sendEntry_ident (h : Held) (e : CqEntry) (area : List Byte) (s : State) :
    (sendEntry h e area s).ident = s.ident := (sendEntry_within _ _ _ _).ident rfl
@[simp] theorem sendEntry_power (h : Held) (e : CqEntry) (area : List Byte) (s : State) :
    (sendEntry h e area s).power = s.power := (sendEntry_within _ _ _ _).power rfl
@[simp] theorem sendEntry_time (h : Held) (e : CqEntry) (area : List Byte) (s : State) :
    (sendEntry h e area s).time = s.time := (sendEntry_within _ _ _ _).time_eq rfl rfl
@[simp] theorem sendEntry_rf (h : Held) (e : CqEntry) (area : List Byte) (s : State) :
    (sendEntry h e area s).rf = s.rf := (sendEntry_within _ _ _ _).rf_eq rfl rfl rfl rfl
@[simp] theorem sendEntry_cx (h : Held) (e : CqEntry) (area : List Byte) (s : State) :
    (sendEntry h e area s).cx = s.cx := (sendEntry_within _ _ _ _).cx_eq rfl rfl rfl rfl
@[simp] theorem sendEntry_audio (h : Held) (e : CqEntry) (area : List Byte) (s : State) :
    (sendEntry h e area s).audio = s.audio := (sendEntry_within _ _ _ _).audio rfl
@[simp] theorem sendEntry_port (h : Held) (e : CqEntry) (area : List Byte) (s : State) :
    (sendEntry h e area s).port = s.port := (sendEntry_within _ _ _ _).port rfl
@[simp] theorem sendEntry_sg (h : Held) (e : CqEntry) (area : List Byte) (s : State) :
    (sendEntry h e area s).sg = s.sg := (sendEntry_within _ _ _ _).sg rfl
@[simp] theorem sendEntry_cry (h : Held) (e : CqEntry) (area : List Byte) (s : State) :
    (sendEntry h e area s).cry = s.cry := (sendEntry_within _ _ _ _).cry rfl
@[simp] theorem sendEntry_mem (h : Held) (e : CqEntry) (area : List Byte) (s : State) :
    (sendEntry h e area s).mem = s.mem := (sendEntry_within _ _ _ _).mem_eq rfl rfl
@[simp] theorem sendEntry_mnt (h : Held) (e : CqEntry) (area : List Byte) (s : State) :
    (sendEntry h e area s).mnt = s.mnt := (sendEntry_within _ _ _ _).mnt rfl
@[simp] theorem sendEntry_pair (h : Held) (e : CqEntry) (area : List Byte) (s : State) :
    (sendEntry h e area s).pair = s.pair := (sendEntry_within _ _ _ _).pair rfl
@[simp] theorem sendEntry_vault (h : Held) (e : CqEntry) (area : List Byte) (s : State) :
    (sendEntry h e area s).vault = s.vault := (sendEntry_within _ _ _ _).vault rfl

/-! `finishAt` -/

@[simp] theorem finishAt_pending (h : Held) (st : Status) (res area : List Byte) (at_ : DT) (s : State) : (finishAt h st res area at_ s).pending = s.pending := (finishAt_within _ _ _ _ _ _).pending
@[simp] theorem finishAt_ident (h : Held) (st : Status) (res area : List Byte) (at_ : DT) (s : State) :
    (finishAt h st res area at_ s).ident = s.ident := (finishAt_within _ _ _ _ _ _).ident rfl
@[simp] theorem finishAt_power (h : Held) (st : Status) (res area : List Byte) (at_ : DT) (s : State) :
    (finishAt h st res area at_ s).power = s.power := (finishAt_within _ _ _ _ _ _).power rfl
@[simp] theorem finishAt_time (h : Held) (st : Status) (res area : List Byte) (at_ : DT) (s : State) :
    (finishAt h st res area at_ s).time = s.time := (finishAt_within _ _ _ _ _ _).time_eq rfl rfl
@[simp] theorem finishAt_rf (h : Held) (st : Status) (res area : List Byte) (at_ : DT) (s : State) :
    (finishAt h st res area at_ s).rf = s.rf := (finishAt_within _ _ _ _ _ _).rf_eq rfl rfl rfl rfl
@[simp] theorem finishAt_cx (h : Held) (st : Status) (res area : List Byte) (at_ : DT) (s : State) :
    (finishAt h st res area at_ s).cx = s.cx := (finishAt_within _ _ _ _ _ _).cx_eq rfl rfl rfl rfl
@[simp] theorem finishAt_audio (h : Held) (st : Status) (res area : List Byte) (at_ : DT) (s : State) :
    (finishAt h st res area at_ s).audio = s.audio := (finishAt_within _ _ _ _ _ _).audio rfl
@[simp] theorem finishAt_port (h : Held) (st : Status) (res area : List Byte) (at_ : DT) (s : State) :
    (finishAt h st res area at_ s).port = s.port := (finishAt_within _ _ _ _ _ _).port rfl
@[simp] theorem finishAt_sg (h : Held) (st : Status) (res area : List Byte) (at_ : DT) (s : State) :
    (finishAt h st res area at_ s).sg = s.sg := (finishAt_within _ _ _ _ _ _).sg rfl
@[simp] theorem finishAt_cry (h : Held) (st : Status) (res area : List Byte) (at_ : DT) (s : State) :
    (finishAt h st res area at_ s).cry = s.cry := (finishAt_within _ _ _ _ _ _).cry rfl
@[simp] theorem finishAt_mnt (h : Held) (st : Status) (res area : List Byte) (at_ : DT) (s : State) :
    (finishAt h st res area at_ s).mnt = s.mnt := (finishAt_within _ _ _ _ _ _).mnt rfl
@[simp] theorem finishAt_pair (h : Held) (st : Status) (res area : List Byte) (at_ : DT) (s : State) :
    (finishAt h st res area at_ s).pair = s.pair := (finishAt_within _ _ _ _ _ _).pair rfl
@[simp] theorem finishAt_vault (h : Held) (st : Status) (res area : List Byte) (at_ : DT) (s : State) :
    (finishAt h st res area at_ s).vault = s.vault := (finishAt_within _ _ _ _ _ _).vault rfl

/-! `finish` -/

@[simp] theorem finish_pending (h : Held) (st : Status) (fs : List (Nat × Nat × Int)) (s : State) : (finish h st fs s).pending = s.pending := (finish_within _ _ _ _).pending
@[simp] theorem finish_ident (h : Held) (st : Status) (fs : List (Nat × Nat × Int)) (s : State) :
    (finish h st fs s).ident = s.ident := (finish_within _ _ _ _).ident rfl
@[simp] theorem finish_power (h : Held) (st : Status) (fs : List (Nat × Nat × Int)) (s : State) :
    (finish h st fs s).power = s.power := (finish_within _ _ _ _).power rfl
@[simp] theorem finish_time (h : Held) (st : Status) (fs : List (Nat × Nat × Int)) (s : State) :
    (finish h st fs s).time = s.time := (finish_within _ _ _ _).time_eq rfl rfl
@[simp] theorem finish_rf (h : Held) (st : Status) (fs : List (Nat × Nat × Int)) (s : State) :
    (finish h st fs s).rf = s.rf := (finish_within _ _ _ _).rf_eq rfl rfl rfl rfl
@[simp] theorem finish_cx (h : Held) (st : Status) (fs : List (Nat × Nat × Int)) (s : State) :
    (finish h st fs s).cx = s.cx := (finish_within _ _ _ _).cx_eq rfl rfl rfl rfl
@[simp] theorem finish_audio (h : Held) (st : Status) (fs : List (Nat × Nat × Int)) (s : State) :
    (finish h st fs s).audio = s.audio := (finish_within _ _ _ _).audio rfl
@[simp] theorem finish_port (h : Held) (st : Status) (fs : List (Nat × Nat × Int)) (s : State) :
    (finish h st fs s).port = s.port := (finish_within _ _ _ _).port rfl
@[simp] theorem finish_sg (h : Held) (st : Status) (fs : List (Nat × Nat × Int)) (s : State) :
    (finish h st fs s).sg = s.sg := (finish_within _ _ _ _).sg rfl
@[simp] theorem finish_cry (h : Held) (st : Status) (fs : List (Nat × Nat × Int)) (s : State) :
    (finish h st fs s).cry = s.cry := (finish_within _ _ _ _).cry rfl
@[simp] theorem finish_mnt (h : Held) (st : Status) (fs : List (Nat × Nat × Int)) (s : State) :
    (finish h st fs s).mnt = s.mnt := (finish_within _ _ _ _).mnt rfl
@[simp] theorem finish_pair (h : Held) (st : Status) (fs : List (Nat × Nat × Int)) (s : State) :
    (finish h st fs s).pair = s.pair := (finish_within _ _ _ _).pair rfl
@[simp] theorem finish_vault (h : Held) (st : Status) (fs : List (Nat × Nat × Int)) (s : State) :
    (finish h st fs s).vault = s.vault := (finish_within _ _ _ _).vault rfl

/-! `finishId` -/

@[simp] theorem finishId_pending (id : Nat) (st : Status) (fs : List (Nat × Nat × Int)) (s : State) : (finishId id st fs s).pending = s.pending := (finishId_within _ _ _ _).pending
@[simp] theorem finishId_ident (id : Nat) (st : Status) (fs : List (Nat × Nat × Int)) (s : State) :
    (finishId id st fs s).ident = s.ident := (finishId_within _ _ _ _).ident rfl
@[simp] theorem finishId_power (id : Nat) (st : Status) (fs : List (Nat × Nat × Int)) (s : State) :
    (finishId id st fs s).power = s.power := (finishId_within _ _ _ _).power rfl
@[simp] theorem finishId_time (id : Nat) (st : Status) (fs : List (Nat × Nat × Int)) (s : State) :
    (finishId id st fs s).time = s.time := (finishId_within _ _ _ _).time_eq rfl rfl
@[simp] theorem finishId_rf (id : Nat) (st : Status) (fs : List (Nat × Nat × Int)) (s : State) :
    (finishId id st fs s).rf = s.rf := (finishId_within _ _ _ _).rf_eq rfl rfl rfl rfl
@[simp] theorem finishId_cx (id : Nat) (st : Status) (fs : List (Nat × Nat × Int)) (s : State) :
    (finishId id st fs s).cx = s.cx := (finishId_within _ _ _ _).cx_eq rfl rfl rfl rfl
@[simp] theorem finishId_audio (id : Nat) (st : Status) (fs : List (Nat × Nat × Int)) (s : State) :
    (finishId id st fs s).audio = s.audio := (finishId_within _ _ _ _).audio rfl
@[simp] theorem finishId_port (id : Nat) (st : Status) (fs : List (Nat × Nat × Int)) (s : State) :
    (finishId id st fs s).port = s.port := (finishId_within _ _ _ _).port rfl
@[simp] theorem finishId_sg (id : Nat) (st : Status) (fs : List (Nat × Nat × Int)) (s : State) :
    (finishId id st fs s).sg = s.sg := (finishId_within _ _ _ _).sg rfl
@[simp] theorem finishId_cry (id : Nat) (st : Status) (fs : List (Nat × Nat × Int)) (s : State) :
    (finishId id st fs s).cry = s.cry := (finishId_within _ _ _ _).cry rfl
@[simp] theorem finishId_mnt (id : Nat) (st : Status) (fs : List (Nat × Nat × Int)) (s : State) :
    (finishId id st fs s).mnt = s.mnt := (finishId_within _ _ _ _).mnt rfl
@[simp] theorem finishId_pair (id : Nat) (st : Status) (fs : List (Nat × Nat × Int)) (s : State) :
    (finishId id st fs s).pair = s.pair := (finishId_within _ _ _ _).pair rfl
@[simp] theorem finishId_vault (id : Nat) (st : Status) (fs : List (Nat × Nat × Int)) (s : State) :
    (finishId id st fs s).vault = s.vault := (finishId_within _ _ _ _).vault rfl

/-! `finishC` -/

@[simp] theorem finishC_pending (h : Held) (s : State) : (finishC h s).pending = s.pending := (finishC_within _ _).pending
@[simp] theorem finishC_ident (h : Held) (s : State) :
    (finishC h s).ident = s.ident := (finishC_within _ _).ident rfl
@[simp] theorem finishC_power (h : Held) (s : State) :
    (finishC h s).power = s.power := (finishC_within _ _).power rfl
@[simp] theorem finishC_time (h : Held) (s : State) :
    (finishC h s).time = s.time := (finishC_within _ _).time_eq rfl rfl
@[simp] theorem finishC_rf (h : Held) (s : State) :
    (finishC h s).rf = s.rf := (finishC_within _ _).rf_eq rfl rfl rfl rfl
@[simp] theorem finishC_cx (h : Held) (s : State) :
    (finishC h s).cx = s.cx := (finishC_within _ _).cx_eq rfl rfl rfl rfl
@[simp] theorem finishC_audio (h : Held) (s : State) :
    (finishC h s).audio = s.audio := (finishC_within _ _).audio rfl
@[simp] theorem finishC_port (h : Held) (s : State) :
    (finishC h s).port = s.port := (finishC_within _ _).port rfl
@[simp] theorem finishC_sg (h : Held) (s : State) :
    (finishC h s).sg = s.sg := (finishC_within _ _).sg rfl
@[simp] theorem finishC_cry (h : Held) (s : State) :
    (finishC h s).cry = s.cry := (finishC_within _ _).cry rfl
@[simp] theorem finishC_mnt (h : Held) (s : State) :
    (finishC h s).mnt = s.mnt := (finishC_within _ _).mnt rfl
@[simp] theorem finishC_pair (h : Held) (s : State) :
    (finishC h s).pair = s.pair := (finishC_within _ _).pair rfl
@[simp] theorem finishC_vault (h : Held) (s : State) :
    (finishC h s).vault = s.vault := (finishC_within _ _).vault rfl

/-! `finishIdC` -/

@[simp] theorem finishIdC_pending (id : Nat) (s : State) : (finishIdC id s).pending = s.pending := (finishIdC_within _ _).pending
@[simp] theorem finishIdC_ident (id : Nat) (s : State) :
    (finishIdC id s).ident = s.ident := (finishIdC_within _ _).ident rfl
@[simp] theorem finishIdC_power (id : Nat) (s : State) :
    (finishIdC id s).power = s.power := (finishIdC_within _ _).power rfl
@[simp] theorem finishIdC_time (id : Nat) (s : State) :
    (finishIdC id s).time = s.time := (finishIdC_within _ _).time_eq rfl rfl
@[simp] theorem finishIdC_rf (id : Nat) (s : State) :
    (finishIdC id s).rf = s.rf := (finishIdC_within _ _).rf_eq rfl rfl rfl rfl
@[simp] theorem finishIdC_cx (id : Nat) (s : State) :
    (finishIdC id s).cx = s.cx := (finishIdC_within _ _).cx_eq rfl rfl rfl rfl
@[simp] theorem finishIdC_audio (id : Nat) (s : State) :
    (finishIdC id s).audio = s.audio := (finishIdC_within _ _).audio rfl
@[simp] theorem finishIdC_port (id : Nat) (s : State) :
    (finishIdC id s).port = s.port := (finishIdC_within _ _).port rfl
@[simp] theorem finishIdC_sg (id : Nat) (s : State) :
    (finishIdC id s).sg = s.sg := (finishIdC_within _ _).sg rfl
@[simp] theorem finishIdC_cry (id : Nat) (s : State) :
    (finishIdC id s).cry = s.cry := (finishIdC_within _ _).cry rfl
@[simp] theorem finishIdC_mnt (id : Nat) (s : State) :
    (finishIdC id s).mnt = s.mnt := (finishIdC_within _ _).mnt rfl
@[simp] theorem finishIdC_pair (id : Nat) (s : State) :
    (finishIdC id s).pair = s.pair := (finishIdC_within _ _).pair rfl
@[simp] theorem finishIdC_vault (id : Nat) (s : State) :
    (finishIdC id s).vault = s.vault := (finishIdC_within _ _).vault rfl

/-! `finishAll` -/

@[simp] theorem finishAll_pending (ids : List Nat) (st : Status) (fs : List (Nat × Nat × Int)) (s : State) : (finishAll ids st fs s).pending = s.pending := (finishAll_within _ _ _ _).pending
@[simp] theorem finishAll_ident (ids : List Nat) (st : Status) (fs : List (Nat × Nat × Int)) (s : State) :
    (finishAll ids st fs s).ident = s.ident := (finishAll_within _ _ _ _).ident rfl
@[simp] theorem finishAll_power (ids : List Nat) (st : Status) (fs : List (Nat × Nat × Int)) (s : State) :
    (finishAll ids st fs s).power = s.power := (finishAll_within _ _ _ _).power rfl
@[simp] theorem finishAll_time (ids : List Nat) (st : Status) (fs : List (Nat × Nat × Int)) (s : State) :
    (finishAll ids st fs s).time = s.time := (finishAll_within _ _ _ _).time_eq rfl rfl
@[simp] theorem finishAll_rf (ids : List Nat) (st : Status) (fs : List (Nat × Nat × Int)) (s : State) :
    (finishAll ids st fs s).rf = s.rf := (finishAll_within _ _ _ _).rf_eq rfl rfl rfl rfl
@[simp] theorem finishAll_cx (ids : List Nat) (st : Status) (fs : List (Nat × Nat × Int)) (s : State) :
    (finishAll ids st fs s).cx = s.cx := (finishAll_within _ _ _ _).cx_eq rfl rfl rfl rfl
@[simp] theorem finishAll_audio (ids : List Nat) (st : Status) (fs : List (Nat × Nat × Int)) (s : State) :
    (finishAll ids st fs s).audio = s.audio := (finishAll_within _ _ _ _).audio rfl
@[simp] theorem finishAll_port (ids : List Nat) (st : Status) (fs : List (Nat × Nat × Int)) (s : State) :
    (finishAll ids st fs s).port = s.port := (finishAll_within _ _ _ _).port rfl
@[simp] theorem finishAll_sg (ids : List Nat) (st : Status) (fs : List (Nat × Nat × Int)) (s : State) :
    (finishAll ids st fs s).sg = s.sg := (finishAll_within _ _ _ _).sg rfl
@[simp] theorem finishAll_cry (ids : List Nat) (st : Status) (fs : List (Nat × Nat × Int)) (s : State) :
    (finishAll ids st fs s).cry = s.cry := (finishAll_within _ _ _ _).cry rfl
@[simp] theorem finishAll_mnt (ids : List Nat) (st : Status) (fs : List (Nat × Nat × Int)) (s : State) :
    (finishAll ids st fs s).mnt = s.mnt := (finishAll_within _ _ _ _).mnt rfl
@[simp] theorem finishAll_pair (ids : List Nat) (st : Status) (fs : List (Nat × Nat × Int)) (s : State) :
    (finishAll ids st fs s).pair = s.pair := (finishAll_within _ _ _ _).pair rfl
@[simp] theorem finishAll_vault (ids : List Nat) (st : Status) (fs : List (Nat × Nat × Int)) (s : State) :
    (finishAll ids st fs s).vault = s.vault := (finishAll_within _ _ _ _).vault rfl

/-! `fail` -/

@[simp] theorem fail_pending (h : Held) (st : Status) (off : Nat) (d : Detail) (s : State) : (fail h st off d s).pending = s.pending := (fail_within _ _ _ _ _).pending
@[simp] theorem fail_ident (h : Held) (st : Status) (off : Nat) (d : Detail) (s : State) :
    (fail h st off d s).ident = s.ident := (fail_within _ _ _ _ _).ident rfl
@[simp] theorem fail_power (h : Held) (st : Status) (off : Nat) (d : Detail) (s : State) :
    (fail h st off d s).power = s.power := (fail_within _ _ _ _ _).power rfl
@[simp] theorem fail_time (h : Held) (st : Status) (off : Nat) (d : Detail) (s : State) :
    (fail h st off d s).time = s.time := (fail_within _ _ _ _ _).time_eq rfl rfl
@[simp] theorem fail_rf (h : Held) (st : Status) (off : Nat) (d : Detail) (s : State) :
    (fail h st off d s).rf = s.rf := (fail_within _ _ _ _ _).rf_eq rfl rfl rfl rfl
@[simp] theorem fail_cx (h : Held) (st : Status) (off : Nat) (d : Detail) (s : State) :
    (fail h st off d s).cx = s.cx := (fail_within _ _ _ _ _).cx_eq rfl rfl rfl rfl
@[simp] theorem fail_audio (h : Held) (st : Status) (off : Nat) (d : Detail) (s : State) :
    (fail h st off d s).audio = s.audio := (fail_within _ _ _ _ _).audio rfl
@[simp] theorem fail_port (h : Held) (st : Status) (off : Nat) (d : Detail) (s : State) :
    (fail h st off d s).port = s.port := (fail_within _ _ _ _ _).port rfl
@[simp] theorem fail_sg (h : Held) (st : Status) (off : Nat) (d : Detail) (s : State) :
    (fail h st off d s).sg = s.sg := (fail_within _ _ _ _ _).sg rfl
@[simp] theorem fail_cry (h : Held) (st : Status) (off : Nat) (d : Detail) (s : State) :
    (fail h st off d s).cry = s.cry := (fail_within _ _ _ _ _).cry rfl
@[simp] theorem fail_mnt (h : Held) (st : Status) (off : Nat) (d : Detail) (s : State) :
    (fail h st off d s).mnt = s.mnt := (fail_within _ _ _ _ _).mnt rfl
@[simp] theorem fail_pair (h : Held) (st : Status) (off : Nat) (d : Detail) (s : State) :
    (fail h st off d s).pair = s.pair := (fail_within _ _ _ _ _).pair rfl
@[simp] theorem fail_vault (h : Held) (st : Status) (off : Nat) (d : Detail) (s : State) :
    (fail h st off d s).vault = s.vault := (fail_within _ _ _ _ _).vault rfl

/-! `reject` -/

@[simp] theorem reject_pending (h : Held) (st : Status) (s : State) : (reject h st s).pending = s.pending := (reject_within _ _ _).pending
@[simp] theorem reject_ident (h : Held) (st : Status) (s : State) :
    (reject h st s).ident = s.ident := (reject_within _ _ _).ident rfl
@[simp] theorem reject_power (h : Held) (st : Status) (s : State) :
    (reject h st s).power = s.power := (reject_within _ _ _).power rfl
@[simp] theorem reject_time (h : Held) (st : Status) (s : State) :
    (reject h st s).time = s.time := (reject_within _ _ _).time_eq rfl rfl
@[simp] theorem reject_rf (h : Held) (st : Status) (s : State) :
    (reject h st s).rf = s.rf := (reject_within _ _ _).rf_eq rfl rfl rfl rfl
@[simp] theorem reject_cx (h : Held) (st : Status) (s : State) :
    (reject h st s).cx = s.cx := (reject_within _ _ _).cx_eq rfl rfl rfl rfl
@[simp] theorem reject_audio (h : Held) (st : Status) (s : State) :
    (reject h st s).audio = s.audio := (reject_within _ _ _).audio rfl
@[simp] theorem reject_port (h : Held) (st : Status) (s : State) :
    (reject h st s).port = s.port := (reject_within _ _ _).port rfl
@[simp] theorem reject_sg (h : Held) (st : Status) (s : State) :
    (reject h st s).sg = s.sg := (reject_within _ _ _).sg rfl
@[simp] theorem reject_cry (h : Held) (st : Status) (s : State) :
    (reject h st s).cry = s.cry := (reject_within _ _ _).cry rfl
@[simp] theorem reject_mnt (h : Held) (st : Status) (s : State) :
    (reject h st s).mnt = s.mnt := (reject_within _ _ _).mnt rfl
@[simp] theorem reject_pair (h : Held) (st : Status) (s : State) :
    (reject h st s).pair = s.pair := (reject_within _ _ _).pair rfl
@[simp] theorem reject_vault (h : Held) (st : Status) (s : State) :
    (reject h st s).vault = s.vault := (reject_within _ _ _).vault rfl

/-! `rejectId` -/

@[simp] theorem rejectId_pending (id : Nat) (st : Status) (s : State) : (rejectId id st s).pending = s.pending := (rejectId_within _ _ _).pending
@[simp] theorem rejectId_ident (id : Nat) (st : Status) (s : State) :
    (rejectId id st s).ident = s.ident := (rejectId_within _ _ _).ident rfl
@[simp] theorem rejectId_power (id : Nat) (st : Status) (s : State) :
    (rejectId id st s).power = s.power := (rejectId_within _ _ _).power rfl
@[simp] theorem rejectId_time (id : Nat) (st : Status) (s : State) :
    (rejectId id st s).time = s.time := (rejectId_within _ _ _).time_eq rfl rfl
@[simp] theorem rejectId_rf (id : Nat) (st : Status) (s : State) :
    (rejectId id st s).rf = s.rf := (rejectId_within _ _ _).rf_eq rfl rfl rfl rfl
@[simp] theorem rejectId_cx (id : Nat) (st : Status) (s : State) :
    (rejectId id st s).cx = s.cx := (rejectId_within _ _ _).cx_eq rfl rfl rfl rfl
@[simp] theorem rejectId_audio (id : Nat) (st : Status) (s : State) :
    (rejectId id st s).audio = s.audio := (rejectId_within _ _ _).audio rfl
@[simp] theorem rejectId_port (id : Nat) (st : Status) (s : State) :
    (rejectId id st s).port = s.port := (rejectId_within _ _ _).port rfl
@[simp] theorem rejectId_sg (id : Nat) (st : Status) (s : State) :
    (rejectId id st s).sg = s.sg := (rejectId_within _ _ _).sg rfl
@[simp] theorem rejectId_cry (id : Nat) (st : Status) (s : State) :
    (rejectId id st s).cry = s.cry := (rejectId_within _ _ _).cry rfl
@[simp] theorem rejectId_mnt (id : Nat) (st : Status) (s : State) :
    (rejectId id st s).mnt = s.mnt := (rejectId_within _ _ _).mnt rfl
@[simp] theorem rejectId_pair (id : Nat) (st : Status) (s : State) :
    (rejectId id st s).pair = s.pair := (rejectId_within _ _ _).pair rfl
@[simp] theorem rejectId_vault (id : Nat) (st : Status) (s : State) :
    (rejectId id st s).vault = s.vault := (rejectId_within _ _ _).vault rfl

/-! `finishOut` -/

@[simp] theorem finishOut_pending (h : Held) (st : Status) (data : List Byte) (own : Option (List (Nat × Nat × Int))) (s : State) : (finishOut h st data own s).pending = s.pending := (finishOut_within _ _ _ _ _).pending
@[simp] theorem finishOut_ident (h : Held) (st : Status) (data : List Byte) (own : Option (List (Nat × Nat × Int))) (s : State) :
    (finishOut h st data own s).ident = s.ident := (finishOut_within _ _ _ _ _).ident rfl
@[simp] theorem finishOut_power (h : Held) (st : Status) (data : List Byte) (own : Option (List (Nat × Nat × Int))) (s : State) :
    (finishOut h st data own s).power = s.power := (finishOut_within _ _ _ _ _).power rfl
@[simp] theorem finishOut_time (h : Held) (st : Status) (data : List Byte) (own : Option (List (Nat × Nat × Int))) (s : State) :
    (finishOut h st data own s).time = s.time := (finishOut_within _ _ _ _ _).time_eq rfl rfl
@[simp] theorem finishOut_rf (h : Held) (st : Status) (data : List Byte) (own : Option (List (Nat × Nat × Int))) (s : State) :
    (finishOut h st data own s).rf = s.rf := (finishOut_within _ _ _ _ _).rf_eq rfl rfl rfl rfl
@[simp] theorem finishOut_cx (h : Held) (st : Status) (data : List Byte) (own : Option (List (Nat × Nat × Int))) (s : State) :
    (finishOut h st data own s).cx = s.cx := (finishOut_within _ _ _ _ _).cx_eq rfl rfl rfl rfl
@[simp] theorem finishOut_audio (h : Held) (st : Status) (data : List Byte) (own : Option (List (Nat × Nat × Int))) (s : State) :
    (finishOut h st data own s).audio = s.audio := (finishOut_within _ _ _ _ _).audio rfl
@[simp] theorem finishOut_port (h : Held) (st : Status) (data : List Byte) (own : Option (List (Nat × Nat × Int))) (s : State) :
    (finishOut h st data own s).port = s.port := (finishOut_within _ _ _ _ _).port rfl
@[simp] theorem finishOut_sg (h : Held) (st : Status) (data : List Byte) (own : Option (List (Nat × Nat × Int))) (s : State) :
    (finishOut h st data own s).sg = s.sg := (finishOut_within _ _ _ _ _).sg rfl
@[simp] theorem finishOut_cry (h : Held) (st : Status) (data : List Byte) (own : Option (List (Nat × Nat × Int))) (s : State) :
    (finishOut h st data own s).cry = s.cry := (finishOut_within _ _ _ _ _).cry rfl
@[simp] theorem finishOut_mnt (h : Held) (st : Status) (data : List Byte) (own : Option (List (Nat × Nat × Int))) (s : State) :
    (finishOut h st data own s).mnt = s.mnt := (finishOut_within _ _ _ _ _).mnt rfl
@[simp] theorem finishOut_pair (h : Held) (st : Status) (data : List Byte) (own : Option (List (Nat × Nat × Int))) (s : State) :
    (finishOut h st data own s).pair = s.pair := (finishOut_within _ _ _ _ _).pair rfl
@[simp] theorem finishOut_vault (h : Held) (st : Status) (data : List Byte) (own : Option (List (Nat × Nat × Int))) (s : State) :
    (finishOut h st data own s).vault = s.vault := (finishOut_within _ _ _ _ _).vault rfl

/-! `deferCmd` -/

@[simp] theorem deferCmd_pending (h : Held) (fs : List (Nat × Nat × Int)) (s : State) : (deferCmd h fs s).pending = s.pending := (deferCmd_within _ _ _).pending
@[simp] theorem deferCmd_ident (h : Held) (fs : List (Nat × Nat × Int)) (s : State) :
    (deferCmd h fs s).ident = s.ident := (deferCmd_within _ _ _).ident rfl
@[simp] theorem deferCmd_power (h : Held) (fs : List (Nat × Nat × Int)) (s : State) :
    (deferCmd h fs s).power = s.power := (deferCmd_within _ _ _).power rfl
@[simp] theorem deferCmd_time (h : Held) (fs : List (Nat × Nat × Int)) (s : State) :
    (deferCmd h fs s).time = s.time := (deferCmd_within _ _ _).time_eq rfl rfl
@[simp] theorem deferCmd_rf (h : Held) (fs : List (Nat × Nat × Int)) (s : State) :
    (deferCmd h fs s).rf = s.rf := (deferCmd_within _ _ _).rf_eq rfl rfl rfl rfl
@[simp] theorem deferCmd_cx (h : Held) (fs : List (Nat × Nat × Int)) (s : State) :
    (deferCmd h fs s).cx = s.cx := (deferCmd_within _ _ _).cx_eq rfl rfl rfl rfl
@[simp] theorem deferCmd_audio (h : Held) (fs : List (Nat × Nat × Int)) (s : State) :
    (deferCmd h fs s).audio = s.audio := (deferCmd_within _ _ _).audio rfl
@[simp] theorem deferCmd_port (h : Held) (fs : List (Nat × Nat × Int)) (s : State) :
    (deferCmd h fs s).port = s.port := (deferCmd_within _ _ _).port rfl
@[simp] theorem deferCmd_sg (h : Held) (fs : List (Nat × Nat × Int)) (s : State) :
    (deferCmd h fs s).sg = s.sg := (deferCmd_within _ _ _).sg rfl
@[simp] theorem deferCmd_cry (h : Held) (fs : List (Nat × Nat × Int)) (s : State) :
    (deferCmd h fs s).cry = s.cry := (deferCmd_within _ _ _).cry rfl
@[simp] theorem deferCmd_mnt (h : Held) (fs : List (Nat × Nat × Int)) (s : State) :
    (deferCmd h fs s).mnt = s.mnt := (deferCmd_within _ _ _).mnt rfl
@[simp] theorem deferCmd_pair (h : Held) (fs : List (Nat × Nat × Int)) (s : State) :
    (deferCmd h fs s).pair = s.pair := (deferCmd_within _ _ _).pair rfl
@[simp] theorem deferCmd_vault (h : Held) (fs : List (Nat × Nat × Int)) (s : State) :
    (deferCmd h fs s).vault = s.vault := (deferCmd_within _ _ _).vault rfl

/-! `begin_` -/

@[simp] theorem begin__pending (h : Held) (s : State) : (begin_ h s).pending = s.pending := (begin__within _ _).pending
@[simp] theorem begin__ident (h : Held) (s : State) :
    (begin_ h s).ident = s.ident := (begin__within _ _).ident rfl
@[simp] theorem begin__power (h : Held) (s : State) :
    (begin_ h s).power = s.power := (begin__within _ _).power rfl
@[simp] theorem begin__time (h : Held) (s : State) :
    (begin_ h s).time = s.time := (begin__within _ _).time_eq rfl rfl
@[simp] theorem begin__rf (h : Held) (s : State) :
    (begin_ h s).rf = s.rf := (begin__within _ _).rf_eq rfl rfl rfl rfl
@[simp] theorem begin__cx (h : Held) (s : State) :
    (begin_ h s).cx = s.cx := (begin__within _ _).cx_eq rfl rfl rfl rfl
@[simp] theorem begin__audio (h : Held) (s : State) :
    (begin_ h s).audio = s.audio := (begin__within _ _).audio rfl
@[simp] theorem begin__port (h : Held) (s : State) :
    (begin_ h s).port = s.port := (begin__within _ _).port rfl
@[simp] theorem begin__mp (h : Held) (s : State) :
    (begin_ h s).mp = s.mp := (begin__within _ _).mp rfl
@[simp] theorem begin__sg (h : Held) (s : State) :
    (begin_ h s).sg = s.sg := (begin__within _ _).sg rfl
@[simp] theorem begin__cry (h : Held) (s : State) :
    (begin_ h s).cry = s.cry := (begin__within _ _).cry rfl
@[simp] theorem begin__mem (h : Held) (s : State) :
    (begin_ h s).mem = s.mem := (begin__within _ _).mem_eq rfl rfl
@[simp] theorem begin__mnt (h : Held) (s : State) :
    (begin_ h s).mnt = s.mnt := (begin__within _ _).mnt rfl
@[simp] theorem begin__pair (h : Held) (s : State) :
    (begin_ h s).pair = s.pair := (begin__within _ _).pair rfl
@[simp] theorem begin__vault (h : Held) (s : State) :
    (begin_ h s).vault = s.vault := (begin__within _ _).vault rfl

/-! `note` -/

@[simp] theorem note_pending (h : Held) (l : List Int) (s : State) : (note h l s).pending = s.pending := (note_within _ _ _).pending
@[simp] theorem note_ident (h : Held) (l : List Int) (s : State) :
    (note h l s).ident = s.ident := (note_within _ _ _).ident rfl
@[simp] theorem note_power (h : Held) (l : List Int) (s : State) :
    (note h l s).power = s.power := (note_within _ _ _).power rfl
@[simp] theorem note_time (h : Held) (l : List Int) (s : State) :
    (note h l s).time = s.time := (note_within _ _ _).time_eq rfl rfl
@[simp] theorem note_rf (h : Held) (l : List Int) (s : State) :
    (note h l s).rf = s.rf := (note_within _ _ _).rf_eq rfl rfl rfl rfl
@[simp] theorem note_cx (h : Held) (l : List Int) (s : State) :
    (note h l s).cx = s.cx := (note_within _ _ _).cx_eq rfl rfl rfl rfl
@[simp] theorem note_audio (h : Held) (l : List Int) (s : State) :
    (note h l s).audio = s.audio := (note_within _ _ _).audio rfl
@[simp] theorem note_port (h : Held) (l : List Int) (s : State) :
    (note h l s).port = s.port := (note_within _ _ _).port rfl
@[simp] theorem note_mp (h : Held) (l : List Int) (s : State) :
    (note h l s).mp = s.mp := (note_within _ _ _).mp rfl
@[simp] theorem note_sg (h : Held) (l : List Int) (s : State) :
    (note h l s).sg = s.sg := (note_within _ _ _).sg rfl
@[simp] theorem note_cry (h : Held) (l : List Int) (s : State) :
    (note h l s).cry = s.cry := (note_within _ _ _).cry rfl
@[simp] theorem note_mem (h : Held) (l : List Int) (s : State) :
    (note h l s).mem = s.mem := (note_within _ _ _).mem_eq rfl rfl
@[simp] theorem note_mnt (h : Held) (l : List Int) (s : State) :
    (note h l s).mnt = s.mnt := (note_within _ _ _).mnt rfl
@[simp] theorem note_pair (h : Held) (l : List Int) (s : State) :
    (note h l s).pair = s.pair := (note_within _ _ _).pair rfl
@[simp] theorem note_vault (h : Held) (l : List Int) (s : State) :
    (note h l s).vault = s.vault := (note_within _ _ _).vault rfl

/-! `dropHeld` -/

@[simp] theorem dropHeld_pending (id : Nat) (s : State) : (dropHeld id s).pending = s.pending := (dropHeld_within _ _).pending
@[simp] theorem dropHeld_ident (id : Nat) (s : State) :
    (dropHeld id s).ident = s.ident := (dropHeld_within _ _).ident rfl
@[simp] theorem dropHeld_power (id : Nat) (s : State) :
    (dropHeld id s).power = s.power := (dropHeld_within _ _).power rfl
@[simp] theorem dropHeld_time (id : Nat) (s : State) :
    (dropHeld id s).time = s.time := (dropHeld_within _ _).time_eq rfl rfl
@[simp] theorem dropHeld_rf (id : Nat) (s : State) :
    (dropHeld id s).rf = s.rf := (dropHeld_within _ _).rf_eq rfl rfl rfl rfl
@[simp] theorem dropHeld_cx (id : Nat) (s : State) :
    (dropHeld id s).cx = s.cx := (dropHeld_within _ _).cx_eq rfl rfl rfl rfl
@[simp] theorem dropHeld_audio (id : Nat) (s : State) :
    (dropHeld id s).audio = s.audio := (dropHeld_within _ _).audio rfl
@[simp] theorem dropHeld_port (id : Nat) (s : State) :
    (dropHeld id s).port = s.port := (dropHeld_within _ _).port rfl
@[simp] theorem dropHeld_mp (id : Nat) (s : State) :
    (dropHeld id s).mp = s.mp := (dropHeld_within _ _).mp rfl
@[simp] theorem dropHeld_sg (id : Nat) (s : State) :
    (dropHeld id s).sg = s.sg := (dropHeld_within _ _).sg rfl
@[simp] theorem dropHeld_cry (id : Nat) (s : State) :
    (dropHeld id s).cry = s.cry := (dropHeld_within _ _).cry rfl
@[simp] theorem dropHeld_mem (id : Nat) (s : State) :
    (dropHeld id s).mem = s.mem := (dropHeld_within _ _).mem_eq rfl rfl
@[simp] theorem dropHeld_mnt (id : Nat) (s : State) :
    (dropHeld id s).mnt = s.mnt := (dropHeld_within _ _).mnt rfl
@[simp] theorem dropHeld_pair (id : Nat) (s : State) :
    (dropHeld id s).pair = s.pair := (dropHeld_within _ _).pair rfl
@[simp] theorem dropHeld_vault (id : Nat) (s : State) :
    (dropHeld id s).vault = s.vault := (dropHeld_within _ _).vault rfl

/-! `modHeld` -/

@[simp] theorem modHeld_pending (id : Nat) (f : Held → Held) (s : State) : (modHeld id f s).pending = s.pending := (modHeld_within _ _ _).pending
@[simp] theorem modHeld_ident (id : Nat) (f : Held → Held) (s : State) :
    (modHeld id f s).ident = s.ident := (modHeld_within _ _ _).ident rfl
@[simp] theorem modHeld_power (id : Nat) (f : Held → Held) (s : State) :
    (modHeld id f s).power = s.power := (modHeld_within _ _ _).power rfl
@[simp] theorem modHeld_time (id : Nat) (f : Held → Held) (s : State) :
    (modHeld id f s).time = s.time := (modHeld_within _ _ _).time_eq rfl rfl
@[simp] theorem modHeld_rf (id : Nat) (f : Held → Held) (s : State) :
    (modHeld id f s).rf = s.rf := (modHeld_within _ _ _).rf_eq rfl rfl rfl rfl
@[simp] theorem modHeld_cx (id : Nat) (f : Held → Held) (s : State) :
    (modHeld id f s).cx = s.cx := (modHeld_within _ _ _).cx_eq rfl rfl rfl rfl
@[simp] theorem modHeld_audio (id : Nat) (f : Held → Held) (s : State) :
    (modHeld id f s).audio = s.audio := (modHeld_within _ _ _).audio rfl
@[simp] theorem modHeld_port (id : Nat) (f : Held → Held) (s : State) :
    (modHeld id f s).port = s.port := (modHeld_within _ _ _).port rfl
@[simp] theorem modHeld_mp (id : Nat) (f : Held → Held) (s : State) :
    (modHeld id f s).mp = s.mp := (modHeld_within _ _ _).mp rfl
@[simp] theorem modHeld_sg (id : Nat) (f : Held → Held) (s : State) :
    (modHeld id f s).sg = s.sg := (modHeld_within _ _ _).sg rfl
@[simp] theorem modHeld_cry (id : Nat) (f : Held → Held) (s : State) :
    (modHeld id f s).cry = s.cry := (modHeld_within _ _ _).cry rfl
@[simp] theorem modHeld_mem (id : Nat) (f : Held → Held) (s : State) :
    (modHeld id f s).mem = s.mem := (modHeld_within _ _ _).mem_eq rfl rfl
@[simp] theorem modHeld_mnt (id : Nat) (f : Held → Held) (s : State) :
    (modHeld id f s).mnt = s.mnt := (modHeld_within _ _ _).mnt rfl
@[simp] theorem modHeld_pair (id : Nat) (f : Held → Held) (s : State) :
    (modHeld id f s).pair = s.pair := (modHeld_within _ _ _).pair rfl
@[simp] theorem modHeld_vault (id : Nat) (f : Held → Held) (s : State) :
    (modHeld id f s).vault = s.vault := (modHeld_within _ _ _).vault rfl

/-! `post` -/

@[simp] theorem post_pending (c : Fin 9) (n : Nat) (s : State) : (post c n s).pending = s.pending := (post_within _ _ _).pending
@[simp] theorem post_ident (c : Fin 9) (n : Nat) (s : State) :
    (post c n s).ident = s.ident := (post_within _ _ _).ident rfl
@[simp] theorem post_power (c : Fin 9) (n : Nat) (s : State) :
    (post c n s).power = s.power := (post_within _ _ _).power rfl
@[simp] theorem post_time (c : Fin 9) (n : Nat) (s : State) :
    (post c n s).time = s.time := (post_within _ _ _).time_eq rfl rfl
@[simp] theorem post_rf (c : Fin 9) (n : Nat) (s : State) :
    (post c n s).rf = s.rf := (post_within _ _ _).rf_eq rfl rfl rfl rfl
@[simp] theorem post_cx (c : Fin 9) (n : Nat) (s : State) :
    (post c n s).cx = s.cx := (post_within _ _ _).cx_eq rfl rfl rfl rfl
@[simp] theorem post_audio (c : Fin 9) (n : Nat) (s : State) :
    (post c n s).audio = s.audio := (post_within _ _ _).audio rfl
@[simp] theorem post_port (c : Fin 9) (n : Nat) (s : State) :
    (post c n s).port = s.port := (post_within _ _ _).port rfl
@[simp] theorem post_mp (c : Fin 9) (n : Nat) (s : State) :
    (post c n s).mp = s.mp := (post_within _ _ _).mp rfl
@[simp] theorem post_sg (c : Fin 9) (n : Nat) (s : State) :
    (post c n s).sg = s.sg := (post_within _ _ _).sg rfl
@[simp] theorem post_cry (c : Fin 9) (n : Nat) (s : State) :
    (post c n s).cry = s.cry := (post_within _ _ _).cry rfl
@[simp] theorem post_mem (c : Fin 9) (n : Nat) (s : State) :
    (post c n s).mem = s.mem := (post_within _ _ _).mem_eq rfl rfl
@[simp] theorem post_mnt (c : Fin 9) (n : Nat) (s : State) :
    (post c n s).mnt = s.mnt := (post_within _ _ _).mnt rfl
@[simp] theorem post_pair (c : Fin 9) (n : Nat) (s : State) :
    (post c n s).pair = s.pair := (post_within _ _ _).pair rfl
@[simp] theorem post_vault (c : Fin 9) (n : Nat) (s : State) :
    (post c n s).vault = s.vault := (post_within _ _ _).vault rfl

/-! `settle` -/

@[simp] theorem settle_pending (c : Fin 9) (n : Nat) (s : State) : (settle c n s).pending = s.pending := (settle_within _ _ _).pending
@[simp] theorem settle_ident (c : Fin 9) (n : Nat) (s : State) :
    (settle c n s).ident = s.ident := (settle_within _ _ _).ident rfl
@[simp] theorem settle_power (c : Fin 9) (n : Nat) (s : State) :
    (settle c n s).power = s.power := (settle_within _ _ _).power rfl
@[simp] theorem settle_time (c : Fin 9) (n : Nat) (s : State) :
    (settle c n s).time = s.time := (settle_within _ _ _).time_eq rfl rfl
@[simp] theorem settle_rf (c : Fin 9) (n : Nat) (s : State) :
    (settle c n s).rf = s.rf := (settle_within _ _ _).rf_eq rfl rfl rfl rfl
@[simp] theorem settle_cx (c : Fin 9) (n : Nat) (s : State) :
    (settle c n s).cx = s.cx := (settle_within _ _ _).cx_eq rfl rfl rfl rfl
@[simp] theorem settle_audio (c : Fin 9) (n : Nat) (s : State) :
    (settle c n s).audio = s.audio := (settle_within _ _ _).audio rfl
@[simp] theorem settle_port (c : Fin 9) (n : Nat) (s : State) :
    (settle c n s).port = s.port := (settle_within _ _ _).port rfl
@[simp] theorem settle_mp (c : Fin 9) (n : Nat) (s : State) :
    (settle c n s).mp = s.mp := (settle_within _ _ _).mp rfl
@[simp] theorem settle_sg (c : Fin 9) (n : Nat) (s : State) :
    (settle c n s).sg = s.sg := (settle_within _ _ _).sg rfl
@[simp] theorem settle_cry (c : Fin 9) (n : Nat) (s : State) :
    (settle c n s).cry = s.cry := (settle_within _ _ _).cry rfl
@[simp] theorem settle_mem (c : Fin 9) (n : Nat) (s : State) :
    (settle c n s).mem = s.mem := (settle_within _ _ _).mem_eq rfl rfl
@[simp] theorem settle_mnt (c : Fin 9) (n : Nat) (s : State) :
    (settle c n s).mnt = s.mnt := (settle_within _ _ _).mnt rfl
@[simp] theorem settle_pair (c : Fin 9) (n : Nat) (s : State) :
    (settle c n s).pair = s.pair := (settle_within _ _ _).pair rfl
@[simp] theorem settle_vault (c : Fin 9) (n : Nat) (s : State) :
    (settle c n s).vault = s.vault := (settle_within _ _ _).vault rfl

/-! `opSherd` -/

@[simp] theorem opSherd_pending (type ctx : Nat) (start stop : DT) (payload : List Byte) (s : State) : (opSherd type ctx start stop payload s).pending = s.pending := (opSherd_within _ _ _ _ _ _).pending
@[simp] theorem opSherd_ident (type ctx : Nat) (start stop : DT) (payload : List Byte) (s : State) :
    (opSherd type ctx start stop payload s).ident = s.ident := (opSherd_within _ _ _ _ _ _).ident rfl
@[simp] theorem opSherd_power (type ctx : Nat) (start stop : DT) (payload : List Byte) (s : State) :
    (opSherd type ctx start stop payload s).power = s.power := (opSherd_within _ _ _ _ _ _).power rfl
@[simp] theorem opSherd_time (type ctx : Nat) (start stop : DT) (payload : List Byte) (s : State) :
    (opSherd type ctx start stop payload s).time = s.time := (opSherd_within _ _ _ _ _ _).time_eq rfl rfl
@[simp] theorem opSherd_rf (type ctx : Nat) (start stop : DT) (payload : List Byte) (s : State) :
    (opSherd type ctx start stop payload s).rf = s.rf := (opSherd_within _ _ _ _ _ _).rf_eq rfl rfl rfl rfl
@[simp] theorem opSherd_cx (type ctx : Nat) (start stop : DT) (payload : List Byte) (s : State) :
    (opSherd type ctx start stop payload s).cx = s.cx := (opSherd_within _ _ _ _ _ _).cx_eq rfl rfl rfl rfl
@[simp] theorem opSherd_audio (type ctx : Nat) (start stop : DT) (payload : List Byte) (s : State) :
    (opSherd type ctx start stop payload s).audio = s.audio := (opSherd_within _ _ _ _ _ _).audio rfl
@[simp] theorem opSherd_port (type ctx : Nat) (start stop : DT) (payload : List Byte) (s : State) :
    (opSherd type ctx start stop payload s).port = s.port := (opSherd_within _ _ _ _ _ _).port rfl
@[simp] theorem opSherd_sg (type ctx : Nat) (start stop : DT) (payload : List Byte) (s : State) :
    (opSherd type ctx start stop payload s).sg = s.sg := (opSherd_within _ _ _ _ _ _).sg rfl
@[simp] theorem opSherd_pair (type ctx : Nat) (start stop : DT) (payload : List Byte) (s : State) :
    (opSherd type ctx start stop payload s).pair = s.pair := (opSherd_within _ _ _ _ _ _).pair rfl

/-! `gapSherd` -/

@[simp] theorem gapSherd_pending (cause obj ctx count : Nat) (first last : Int) (start stop : DT) (s : State) : (gapSherd cause obj ctx count first last start stop s).pending = s.pending := (gapSherd_within _ _ _ _ _ _ _ _ _).pending
@[simp] theorem gapSherd_ident (cause obj ctx count : Nat) (first last : Int) (start stop : DT) (s : State) :
    (gapSherd cause obj ctx count first last start stop s).ident = s.ident := (gapSherd_within _ _ _ _ _ _ _ _ _).ident rfl
@[simp] theorem gapSherd_power (cause obj ctx count : Nat) (first last : Int) (start stop : DT) (s : State) :
    (gapSherd cause obj ctx count first last start stop s).power = s.power := (gapSherd_within _ _ _ _ _ _ _ _ _).power rfl
@[simp] theorem gapSherd_time (cause obj ctx count : Nat) (first last : Int) (start stop : DT) (s : State) :
    (gapSherd cause obj ctx count first last start stop s).time = s.time := (gapSherd_within _ _ _ _ _ _ _ _ _).time_eq rfl rfl
@[simp] theorem gapSherd_rf (cause obj ctx count : Nat) (first last : Int) (start stop : DT) (s : State) :
    (gapSherd cause obj ctx count first last start stop s).rf = s.rf := (gapSherd_within _ _ _ _ _ _ _ _ _).rf_eq rfl rfl rfl rfl
@[simp] theorem gapSherd_cx (cause obj ctx count : Nat) (first last : Int) (start stop : DT) (s : State) :
    (gapSherd cause obj ctx count first last start stop s).cx = s.cx := (gapSherd_within _ _ _ _ _ _ _ _ _).cx_eq rfl rfl rfl rfl
@[simp] theorem gapSherd_audio (cause obj ctx count : Nat) (first last : Int) (start stop : DT) (s : State) :
    (gapSherd cause obj ctx count first last start stop s).audio = s.audio := (gapSherd_within _ _ _ _ _ _ _ _ _).audio rfl
@[simp] theorem gapSherd_port (cause obj ctx count : Nat) (first last : Int) (start stop : DT) (s : State) :
    (gapSherd cause obj ctx count first last start stop s).port = s.port := (gapSherd_within _ _ _ _ _ _ _ _ _).port rfl
@[simp] theorem gapSherd_sg (cause obj ctx count : Nat) (first last : Int) (start stop : DT) (s : State) :
    (gapSherd cause obj ctx count first last start stop s).sg = s.sg := (gapSherd_within _ _ _ _ _ _ _ _ _).sg rfl
@[simp] theorem gapSherd_pair (cause obj ctx count : Nat) (first last : Int) (start stop : DT) (s : State) :
    (gapSherd cause obj ctx count first last start stop s).pair = s.pair := (gapSherd_within _ _ _ _ _ _ _ _ _).pair rfl

end Sys2Proof.Machine
end

