-- ==== Sys2Proof/Laws/Completion.lean ====
section
/-!
SUPPORT. Completion.lean: from a command that starts to its whole effect (Starts, Does, Gives), and what the shared operations leave alone in
the parts that the statements name. A prover cites these and unfolds no operation.
-/
namespace Sys2Proof.Machine

/-! ### Parts of the state that an operation leaves alone -/

theorem q_held {a b : HostIf} (h : a.queues = b.queues) : a.held = b.held := by have := congrArg HostIf.held h; exact this
theorem q_pairs {a b : HostIf} (h : a.queues = b.queues) : a.pairs = b.pairs := by have := congrArg HostIf.pairs h; exact this
theorem q_rings {a b : HostIf} (h : a.queues = b.queues) : a.rings = b.rings := by have := congrArg HostIf.rings h; exact this
theorem q_nextId {a b : HostIf} (h : a.queues = b.queues) : a.nextId = b.nextId := by have := congrArg HostIf.nextId h; exact this
theorem q_resuming {a b : HostIf} (h : a.queues = b.queues) : a.resuming = b.resuming := by have := congrArg HostIf.resuming h; exact this
theorem q_ledger {a b : HostIf} (h : a.queues = b.queues) : a.ledger = b.ledger := by have := congrArg HostIf.ledger h; exact this
theorem r_msix {a b : HostIf} (h : a.rest = b.rest) : a.msix = b.msix := by have := congrArg HostIf.msix h; exact this
theorem r_rrCoal {a b : HostIf} (h : a.rest = b.rest) : a.rrCoal = b.rrCoal := by have := congrArg HostIf.rrCoal h; exact this
theorem r_bme {a b : HostIf} (h : a.rest = b.rest) : a.bme = b.bme := by have := congrArg HostIf.bme h; exact this
theorem r_linkUp {a b : HostIf} (h : a.rest = b.rest) : a.linkUp = b.linkUp := by have := congrArg HostIf.linkUp h; exact this
theorem r_evMask {a b : HostIf} (h : a.rest = b.rest) : a.evMask = b.evMask := by have := congrArg HostIf.evMask h; exact this
theorem r_epoch {a b : HostIf} (h : a.rest = b.rest) : a.epoch = b.epoch := by have := congrArg HostIf.epoch h; exact this
theorem r_snap {a b : HostIf} (h : a.rest = b.rest) : a.snap = b.snap := by have := congrArg HostIf.snap h; exact this
theorem c_wheels {a b : CtxSt} (h : a.rest = b.rest) : a.wheels = b.wheels := by have := congrArg CtxSt.wheels h; exact this
theorem c_subs {a b : CtxSt} (h : a.rest = b.rest) : a.subs = b.subs := by have := congrArg CtxSt.subs h; exact this
theorem c_profile {a b : CtxSt} (h : a.rest = b.rest) : a.profile = b.profile := by have := congrArg CtxSt.profile h; exact this
theorem sl_slip {a b : RfSt} (h : a.slipPart = b.slipPart) : a.slip = b.slip := congrArg Prod.fst h
theorem Within.qs {m : Parts} {s t : State} (h : Within m s t) (a : m.hostq = false) : t.host.queues = s.host.queues := h.hostq a
@[simp] theorem accrue_l_time (s : State) : (accrue s).time = s.time := (accrue_within _).time_eq rfl rfl
@[simp] theorem accrue_l_ctxs (s : State) : (accrue s).cx.ctxs = s.cx.ctxs := (accrue_within _).ctxs rfl
@[simp] theorem moment_l_ctxs (t : DT) (s : State) : (moment t s).cx.ctxs = s.cx.ctxs := (moment_within _ _).ctxs rfl
@[simp] theorem notifyRise_l_hheld (old s : State) : (notifyRise old s).host.held = s.host.held := q_held ((notifyRise_within _ _).hostq rfl)
@[simp] theorem captureTrigger_l_hheld (ev : Ev) (e : CqEntry) (s : State) : (captureTrigger ev e s).host.held = s.host.held := q_held ((captureTrigger_within _ _ _).hostq rfl)
@[simp] theorem markSent_l_hheld (c : Fin 4) (r : Rec) (s : State) : (markSent c r s).host.held = s.host.held := q_held ((markSent_within _ _ _).hostq rfl)
@[simp] theorem deliver_l_audio (c : Fin 4) (x : Rec) (s : State) : (deliver c x s).audio = s.audio := (deliver_within _ _ _).audio rfl
@[simp] theorem deliver_l_port (c : Fin 4) (x : Rec) (s : State) : (deliver c x s).port = s.port := (deliver_within _ _ _).port rfl
@[simp] theorem deliver_l_sg (c : Fin 4) (x : Rec) (s : State) : (deliver c x s).sg = s.sg := (deliver_within _ _ _).sg rfl
@[simp] theorem gapRecorded_l_sg (log : Nat) (d : List Byte) (seq : BitVec 64) (s : State) : (gapRecorded log d seq s).sg = s.sg := (gapRecorded_within _ _ _ _).sg rfl
@[simp] theorem askStore_l_time (item : VaultItem) (cmd : Option Nat) (s : State) : (askStore item cmd s).time = s.time := (askStore_within _ _ _).time_eq rfl rfl
@[simp] theorem askStore_l_rf (item : VaultItem) (cmd : Option Nat) (s : State) : (askStore item cmd s).rf = s.rf := (askStore_within _ _ _).rf_eq rfl rfl rfl rfl
@[simp] theorem askStore_l_hheld (item : VaultItem) (cmd : Option Nat) (s : State) : (askStore item cmd s).host.held = s.host.held := q_held ((askStore_within _ _ _).hostq rfl)
@[simp] theorem tagAll_l_sg (s : State) : (tagAll s).sg = s.sg := (tagAll_within _).sg rfl
@[simp] theorem evSherd_l_time (type ctx : Nat) (res : List Byte) (s : State) : (evSherd type ctx res s).time = s.time := (evSherd_within _ _ _ _).time_eq rfl rfl
@[simp] theorem evSherd_l_rf (type ctx : Nat) (res : List Byte) (s : State) : (evSherd type ctx res s).rf = s.rf := (evSherd_within _ _ _ _).rf_eq rfl rfl rfl rfl
@[simp] theorem evSherd_l_cx (type ctx : Nat) (res : List Byte) (s : State) : (evSherd type ctx res s).cx = s.cx := (evSherd_within _ _ _ _).cx_eq rfl rfl rfl rfl
@[simp] theorem faultSherd_l_time (row obj : Nat) (detected recovered : DT) (s : State) : (faultSherd row obj detected recovered s).time = s.time := (faultSherd_within _ _ _ _ _).time_eq rfl rfl
@[simp] theorem faultSherd_l_rf (row obj : Nat) (detected recovered : DT) (s : State) : (faultSherd row obj detected recovered s).rf = s.rf := (faultSherd_within _ _ _ _ _).rf_eq rfl rfl rfl rfl
@[simp] theorem faultSherd_l_cx (row obj : Nat) (detected recovered : DT) (s : State) : (faultSherd row obj detected recovered s).cx = s.cx := (faultSherd_within _ _ _ _ _).cx_eq rfl rfl rfl rfl
@[simp] theorem faultSherd_l_pair (row obj : Nat) (detected recovered : DT) (s : State) : (faultSherd row obj detected recovered s).pair = s.pair := (faultSherd_within _ _ _ _ _).pair rfl
@[simp] theorem legalSherd_l_power (type ctx : Nat) (start stop : DT) (payload : List Byte) (notLegal : Bool) (s : State) : (legalSherd type ctx start stop payload notLegal s).power = s.power := (legalSherd_within _ _ _ _ _ _ _).power rfl
@[simp] theorem legalFault_l_rf (touched : Bool) (row obj : Nat) (detected recovered : DT) (s : State) : (legalFault touched row obj detected recovered s).rf = s.rf := (legalFault_within _ _ _ _ _ _).rf_eq rfl rfl rfl rfl
@[simp] theorem legalFault_l_cx (touched : Bool) (row obj : Nat) (detected recovered : DT) (s : State) : (legalFault touched row obj detected recovered s).cx = s.cx := (legalFault_within _ _ _ _ _ _).cx_eq rfl rfl rfl rfl
@[simp] theorem park_l_cx (h : Held) (l : List Int) (s : State) : (park h l s).cx = s.cx := (park_within _ _ _).cx_eq rfl rfl rfl rfl
@[simp] theorem shieldCopy_l_hnextId (op : Nat) (e : Entry) (s : State) : (shieldCopy op e s).host.nextId = s.host.nextId := q_nextId ((shieldCopy_within _ _ _).hostq rfl)
@[simp] theorem restartPeriod_l_rf (a : Fin 9) (o : Nat) (t : DT) (s : State) : (restartPeriod a o t s).rf = s.rf := (restartPeriod_within _ _ _ _).rf_eq rfl rfl rfl rfl
@[simp] theorem restartPeriod_l_hheld (a : Fin 9) (o : Nat) (t : DT) (s : State) : (restartPeriod a o t s).host.held = s.host.held := q_held ((restartPeriod_within _ _ _ _).hostq rfl)
@[simp] theorem abandonTunerFirings_l_tuners (n : Fin 4) (tell : Option Status) (s : State) : (abandonTunerFirings n tell s).rf.tuners = s.rf.tuners := (abandonTunerFirings_within _ _ _).tuners rfl
@[simp] theorem abandonTunerFirings_l_cx (n : Fin 4) (tell : Option Status) (s : State) : (abandonTunerFirings n tell s).cx = s.cx := (abandonTunerFirings_within _ _ _).cx_eq rfl rfl rfl rfl
@[simp] theorem loseSignal_l_paths (p : Fin 64) (s : State) : (loseSignal p s).cx.paths = s.cx.paths := paths_eq ((loseSignal_within _ _).due rfl) ((loseSignal_within _ _).paths rfl)
@[simp] theorem loseSignal_l_hheld (p : Fin 64) (s : State) : (loseSignal p s).host.held = s.host.held := q_held ((loseSignal_within _ _).hostq rfl)
@[simp] theorem holdPath_l_rf (p : Fin 64) (s : State) : (holdPath p s).rf = s.rf := (holdPath_within _ _).rf_eq rfl rfl rfl rfl
@[simp] theorem resumePath_l_time (p : Fin 64) (s : State) : (resumePath p s).time = s.time := (resumePath_within _ _).time_eq rfl rfl
@[simp] theorem resumePath_l_rf (p : Fin 64) (s : State) : (resumePath p s).rf = s.rf := (resumePath_within _ _).rf_eq rfl rfl rfl rfl
@[simp] theorem resumePath_l_pair (p : Fin 64) (s : State) : (resumePath p s).pair = s.pair := (resumePath_within _ _).pair rfl
@[simp] theorem closePath_l_time (p : Fin 64) (s : State) : (closePath p s).time = s.time := (closePath_within _ _).time_eq rfl rfl
@[simp] theorem closePath_l_rf (p : Fin 64) (s : State) : (closePath p s).rf = s.rf := (closePath_within _ _).rf_eq rfl rfl rfl rfl
@[simp] theorem closePath_l_ctxs (p : Fin 64) (s : State) : (closePath p s).cx.ctxs = s.cx.ctxs := (closePath_within _ _).ctxs rfl
@[simp] theorem closePath_l_sg (p : Fin 64) (s : State) : (closePath p s).sg = s.sg := (closePath_within _ _).sg rfl
@[simp] theorem dropPath_l_rf (p : Fin 64) (s : State) : (dropPath p s).rf = s.rf := (dropPath_within _ _).rf_eq rfl rfl rfl rfl
@[simp] theorem migrate_l_rf (c : Fin 64) (w : Fin 16) (reason : Nat) (s : State) : (migrate c w reason s).rf = s.rf := (migrate_within _ _ _ _).rf_eq rfl rfl rfl rfl
@[simp] theorem releaseTuner_l_cx (src : Nat) (s : State) : (releaseTuner src s).cx = s.cx := (releaseTuner_within _ _).cx_eq rfl rfl rfl rfl
@[simp] theorem releaseTuner_l_sg (src : Nat) (s : State) : (releaseTuner src s).sg = s.sg := (releaseTuner_within _ _).sg rfl
@[simp] theorem openPath_l_rf (p : Fin 64) (c : Fin 64) (src freq : Nat) (cfg : FieldSet) (s : State) : (openPath p c src freq cfg s).rf = s.rf := (openPath_within _ _ _ _ _ _).rf_eq rfl rfl rfl rfl
@[simp] theorem dropBranch_l_time (c : Fin 64) (s : State) : (dropBranch c s).time = s.time := (dropBranch_within _ _).time_eq rfl rfl
@[simp] theorem holdCtx_l_rf (c : Fin 64) (s : State) : (holdCtx c s).rf = s.rf := (holdCtx_within _ _).rf_eq rfl rfl rfl rfl
@[simp] theorem leaveHold_l_rf (c : Fin 64) (s : State) : (leaveHold c s).rf = s.rf := (leaveHold_within _ _).rf_eq rfl rfl rfl rfl
@[simp] theorem loseSource_l_carvers (p : Fin 64) (s : State) : (loseSource p s).rf.carvers = s.rf.carvers := (loseSource_within _ _).carvers rfl
@[simp] theorem holdAll_l_time (s : State) : (holdAll s).time = s.time := (holdAll_within _).time_eq rfl rfl
@[simp] theorem tellPair_l_time (kind : Nat) (v : Int) (tick : DT) (s : State) : (tellPair kind v tick s).time = s.time := (tellPair_within _ _ _ _).time_eq rfl rfl
@[simp] theorem tellPair_l_pair (kind : Nat) (v : Int) (tick : DT) (s : State) : (tellPair kind v tick s).pair = s.pair := (tellPair_within _ _ _ _).pair rfl
@[simp] theorem tellPair_l_hheld (kind : Nat) (v : Int) (tick : DT) (s : State) : (tellPair kind v tick s).host.held = s.host.held := q_held ((tellPair_within _ _ _ _).hostq rfl)
@[simp] theorem setRate_time (r : Int) (s : State) : (setRate r s).time = { s.time with rateAdj := r } := rfl
@[simp] theorem setRate_host (r : Int) (s : State) : (setRate r s).host = s.host := rfl
@[simp] theorem setRate_pair (r : Int) (s : State) : (setRate r s).pair = s.pair := rfl
@[simp] theorem setRate_power (r : Int) (s : State) : (setRate r s).power = s.power := rfl
@[simp] theorem setRate_rf (r : Int) (s : State) : (setRate r s).rf = s.rf := rfl
@[simp] theorem setRate_audio (r : Int) (s : State) : (setRate r s).audio = s.audio := rfl
@[simp] theorem setRate_mp (r : Int) (s : State) : (setRate r s).mp = s.mp := rfl
@[simp] theorem setRate_sg (r : Int) (s : State) : (setRate r s).sg = s.sg := rfl
@[simp] theorem setRate_cry (r : Int) (s : State) : (setRate r s).cry = s.cry := rfl
@[simp] theorem setRate_mem (r : Int) (s : State) : (setRate r s).mem = s.mem := rfl
@[simp] theorem setRate_mnt (r : Int) (s : State) : (setRate r s).mnt = s.mnt := rfl
@[simp] theorem setRate_vault (r : Int) (s : State) : (setRate r s).vault = s.vault := rfl
@[simp] theorem setRate_ident (r : Int) (s : State) : (setRate r s).ident = s.ident := rfl
@[simp] theorem leaveLocked_l_dt (s : State) : (leaveLocked s).time.dt = s.time.dt := (leaveLocked_within _).dt rfl
@[simp] theorem setDisc_l_pair (d : Disc) (s : State) : (setDisc d s).pair = s.pair := (setDisc_within _ _).pair rfl
@[simp] theorem endSlew_l_dt (s : State) : (endSlew s).time.dt = s.time.dt := (endSlew_within _).dt rfl
@[simp] theorem endSlew_l_pair (s : State) : (endSlew s).pair = s.pair := (endSlew_within _).pair rfl
@[simp] theorem spllLost_l_time (reason : Nat) (b : Fin 2) (s : State) : (spllLost reason b s).time = s.time := (spllLost_within _ _ _).time_eq rfl rfl
@[simp] theorem stopPll_l_dt (b : Fin 2) (s : State) : (stopPll b s).time.dt = s.time.dt := (stopPll_within _ _).dt rfl
@[simp] theorem resumeAll_l_power (s : State) : (resumeAll s).power = s.power := (resumeAll_within _).power rfl
@[simp] theorem resumeAll_l_time (s : State) : (resumeAll s).time = s.time := (resumeAll_within _).time_eq rfl rfl
@[simp] theorem resumeAll_l_sg (s : State) : (resumeAll s).sg = s.sg := (resumeAll_within _).sg rfl
@[simp] theorem retuneCarver_l_rf (c : Fin 8) (new : FieldSet) (s : State) : (retuneCarver c new s).rf = s.rf := (retuneCarver_within _ _ _).rf_eq rfl rfl rfl rfl
@[simp] theorem stopStream_l_time (b : Bool) (s : State) : (stopStream b s).time = s.time := (stopStream_within _ _).time_eq rfl rfl
@[simp] theorem applyTunerLive_l_carvers (n : Fin 4) (l : FieldSet) (s : State) : (applyTunerLive n l s).rf.carvers = s.rf.carvers := (applyTunerLive_within _ _ _).carvers rfl
@[simp] theorem applyTunerLive_l_slip (n : Fin 4) (l : FieldSet) (s : State) : (applyTunerLive n l s).rf.slip = s.rf.slip := sl_slip ((applyTunerLive_within _ _ _).slip rfl)
@[simp] theorem setGrid_l_ctxs (t : DT) (s : State) (c : Nat) : (setGrid t s c).cx.ctxs = s.cx.ctxs := (setGrid_within _ _ _).ctxs rfl
@[simp] theorem syncCtx_l_paths (p : Fin 64) (stamp : DT) (s : State) : (syncCtx p stamp s).cx.paths = s.cx.paths := paths_eq ((syncCtx_within _ _ _).due rfl) ((syncCtx_within _ _ _).paths rfl)
@[simp] theorem threshEvent_l_cx (ev : Ev) (p : Fin 64) (c : Comparator) (level : Int) (s : State) : (threshEvent ev p c level s).cx = s.cx := (threshEvent_within _ _ _ _ _).cx_eq rfl rfl rfl rfl
@[simp] theorem dataRec_l_ctxs (id : BitVec 16) (flags : Nat) (dt : DT) (aux : Nat) (payload : List Byte) (s : State) : (dataRec id flags dt aux payload s).cx.ctxs = s.cx.ctxs := (dataRec_within _ _ _ _ _ _).ctxs rfl
@[simp] theorem deliverChanged_l_ctxs (id : BitVec 16) (key : Nat) (flags : Nat) (dt : DT) (aux : Nat) (value : List Byte) (s : State) : (deliverChanged id key flags dt aux value s).cx.ctxs = s.cx.ctxs := (deliverChanged_within _ _ _ _ _ _ _).ctxs rfl
@[simp] theorem airchainRec_l_port (i : Fin 4) (flags : Nat) (r : CompareResult) (s : State) : (airchainRec i flags r s).port = s.port := (airchainRec_within _ _ _ _).port rfl
@[simp] theorem freeTuner_l_wheels (src : Nat) (s : State) : (freeTuner src s).cx.wheels = s.cx.wheels := c_wheels ((freeTuner_within _ _).cx rfl)
@[simp] theorem freeTuner_l_subs (src : Nat) (s : State) : (freeTuner src s).cx.subs = s.cx.subs := c_subs ((freeTuner_within _ _).cx rfl)
@[simp] theorem freeTuner_l_profile (src : Nat) (s : State) : (freeTuner src s).cx.profile = s.cx.profile := c_profile ((freeTuner_within _ _).cx rfl)
@[simp] theorem freeAPath_l_wheels (s : State) : (freeAPath s).cx.wheels = s.cx.wheels := c_wheels ((freeAPath_within _).cx rfl)
@[simp] theorem freeAPath_l_subs (s : State) : (freeAPath s).cx.subs = s.cx.subs := c_subs ((freeAPath_within _).cx rfl)
@[simp] theorem freeAPath_l_profile (s : State) : (freeAPath s).cx.profile = s.cx.profile := c_profile ((freeAPath_within _).cx rfl)
@[simp] theorem resumeSwitch_l_sg (c : Fin 64) (s : State) : (resumeSwitch c s).sg = s.sg := (resumeSwitch_within _ _).sg rfl
@[simp] theorem rescue_l_wheels (s : State) (c : Fin 64) : (rescue s c).cx.wheels = s.cx.wheels := c_wheels ((rescue_within _ _).cx rfl)
@[simp] theorem retryRescue_l_wheels (s : State) (c : Fin 64) : (retryRescue s c).cx.wheels = s.cx.wheels := c_wheels ((retryRescue_within _ _).cx rfl)
@[simp] theorem ainGap_l_port (i : Fin 4) (count : Nat) (first last : DT) (s : State) : (ainGap i count first last s).port = s.port := (ainGap_within _ _ _ _ _).port rfl
@[simp] theorem latchSnapshot_l_cx (s : State) : (latchSnapshot s).cx = s.cx := (latchSnapshot_within _).cx_eq rfl rfl rfl rfl
@[simp] theorem sealEvent_l_power (kind : Nat) (s : State) : (sealEvent kind s).power = s.power := (sealEvent_within _ _).power rfl
@[simp] theorem changeDue_l_mnt (cause : Nat) (f : SaggarSt → SaggarSt) (s : State) : (changeDue cause f s).mnt = s.mnt := (changeDue_within _ _ _).mnt rfl
@[simp] theorem haltJobs_l_time (s : State) : (haltJobs s).time = s.time := (haltJobs_within _).time_eq rfl rfl
@[simp] theorem acceptChange_l_mnt (code param input : Nat) (value : List Byte) (s : State) : (acceptChange code param input value s).mnt = s.mnt := (acceptChange_within _ _ _ _ _).mnt rfl
@[simp] theorem setLink_l_time (l : LinkState) (s : State) : (setLink l s).time = s.time := (setLink_within _ _).time_eq rfl rfl
@[simp] theorem alignDt_l_pair (i : JoinInfo) (s : State) : (alignDt i s).pair = s.pair := (alignDt_within _ _).pair rfl
@[simp] theorem followPrimary_l_pair (s : State) : (followPrimary s).pair = s.pair := (followPrimary_within _).pair rfl
@[simp] theorem newEpoch_l_power (s : State) : (newEpoch s).power = s.power := (newEpoch_within _).power rfl
@[simp] theorem warmBlocks_l_sg (dieTemp : Int) (s : State) : (warmBlocks dieTemp s).sg = s.sg := (warmBlocks_within _ _).sg rfl
@[simp] theorem wakeClocks_l_sg (s : State) : (wakeClocks s).sg = s.sg := (wakeClocks_within _).sg rfl
@[simp] theorem wakeTuners_l_sg (s : State) : (wakeTuners s).sg = s.sg := (wakeTuners_within _).sg rfl
@[simp] theorem wakePorts_l_power (s : State) : (wakePorts s).power = s.power := (wakePorts_within _).power rfl
@[simp] theorem wakePorts_l_sg (s : State) : (wakePorts s).sg = s.sg := (wakePorts_within _).sg rfl

/-! ### Commands that start, and their effects -/


theorem hostCmd_starts {c : Spec} {i : Instr} {e : Entry} {s : State} {h : Held} {u : State} (b : Starts c i e s h u)
    (body : Held → State → State) : hostCmd i c body e s = body h u := by
  cases b with
  | fetched v _ _ h1 h2 h3 h4 h5 h6 =>
    unfold hostCmd
    simp only [h1, h2, h3, h4, h5]
    have he : h.entry = e := by simp [hold] at h3; rw [← h3.1]
    unfold start
    simp only [he, h6]
    have hd : (Entry.hasDeadline e && decide (e.deadline.toNat < (now u).toNat)) = false := by
      by_contra hc
      simp only [Bool.not_eq_false] at hc
      unfold failing at h4
      simp only [he, hc] at h4
      split at h4
      · simp at h4
      · split at h4
        · simp at h4
        · split at h4
          · simp at h4
          · split at h4 <;> simp at h4
    simp [hd]
  | resumed id _ h1 h2 h3 h4 h5 h6 =>
    unfold hostCmd
    simp only [h1]
    have : findHeld id (modHost (fun x => { x with resuming := none }) s) = findHeld id s := rfl
    rw [this, h2]
    unfold start
    have : now (modHost (fun x => { x with resuming := none }) s) = now s := rfl
    simp only [h3, this, h5, h6]
    simp

theorem Starts.entry {c : Spec} {i : Instr} {e : Entry} {s : State} {h : Held} {u : State} (b : Starts c i e s h u) : h.entry = e := by
  cases b with
  | fetched v _ _ h1 h2 h3 h4 h5 h6 => simp [hold] at h3; rw [← h3.1]
  | resumed id _ h1 h2 h3 h4 h5 h6 => exact h3

theorem Starts.deferred {c : Spec} {i : Instr} {e : Entry} {s : State} {h : Held} {u : State} (b : Starts c i e s h u) : h.deferred = false := by
  cases b with
  | fetched v _ _ h1 h2 h3 h4 h5 h6 => simp [hold] at h3; rw [← h3.1]
  | resumed id _ h1 h2 h3 h4 h5 h6 => exact h4

theorem does_of {i : Instr} {c : Spec} {e : Entry} {P : Held → State → State → Prop} {body : Held → State → State}
    (he : ∀ s, exec i s = .next (hostCmd i c body e s)) (hp : ∀ h u, h.entry = e → h.deferred = false → P h u (body h u)) : Does i c e P :=
  fun s h u b => ⟨_, he s, hostCmd_starts b body ▸ hp h u b.entry b.deferred⟩
/-- A command waits on for its boundary while held and clock are the same (R310, R312). -/
theorem waiting_congr {o n : Nat} {s t : State} (h : t.host.held = s.host.held) (d : t.time.dt = s.time.dt) : waiting o n t = waiting o n s := by
  simp [waiting, late, now, h, d]
@[simp] theorem findHeld_moment (n : Nat) (t : DT) (s : State) : findHeld n (moment t s) = findHeld n s := by simp [findHeld]
theorem findHeld_congr {n : Nat} {s t : State} (h : s.host.held = t.host.held) : findHeld n s = findHeld n t := by simp [findHeld, h]
theorem finishId_eq {n : Nat} {st : Status} {fs : List (Nat × Nat × Int)} {s : State} {h : Held} (e : findHeld n s = some h) :
    finishId n st fs s = finish h st fs s := by simp [finishId, e]
theorem gives {i : Instr} {s a : State} {P : State → Prop} (h : exec i s = .next a) (p : P a) : Gives i s P := ⟨a, h, p⟩
theorem gives_ite {i : Instr} {s a b : State} {P : State → Prop} {c : Prop} [Decidable c] (h : exec i s = if c then .next a else .next b)
    (p : c → P a) (q : ¬ c → P b) : Gives i s P := by
  by_cases hc : c
  · exact ⟨a, by rw [h, if_pos hc], p hc⟩
  · exact ⟨b, by rw [h, if_neg hc], q hc⟩
theorem gives_pos {i : Instr} {s a : State} {o} {P : State → Prop} {c : Prop} [Decidable c] (h : exec i s = if c then .next a else o)
    (hc : c) (p : P a) : Gives i s P := ⟨a, by rw [h, if_pos hc], p⟩
theorem gives_neg {i : Instr} {s b : State} {o} {P : State → Prop} {c : Prop} [Decidable c] (h : exec i s = if c then o else .next b)
    (hc : ¬ c) (p : P b) : Gives i s P := ⟨b, by rw [h, if_neg hc], p⟩
@[simp] theorem setTune_dt (t w u) : (setTune t w u).dt = u.dt := by unfold setTune; split <;> rfl
@[simp] theorem setTune_dtLow (t w u) : (setTune t w u).dtLow = u.dtLow := by unfold setTune; split <;> rfl
@[simp] theorem setTune_residue (t w u) : (setTune t w u).residue = u.residue := by unfold setTune; split <;> rfl
@[simp] theorem setTune_rateAdj (t w u) : (setTune t w u).rateAdj = u.rateAdj := by unfold setTune; split <;> rfl
@[simp] theorem setTune_running (t w u) : (setTune t w u).running = u.running := by unfold setTune; split <;> rfl
@[simp] theorem setTune_unset (t w u) : (setTune t w u).unset = u.unset := by unfold setTune; split <;> rfl
@[simp] theorem setTune_backup (t w u) : (setTune t w u).backup = u.backup := by unfold setTune; split <;> rfl
@[simp] theorem setTune_cfg (t w u) : (setTune t w u).cfg = u.cfg := by unfold setTune; split <;> rfl
@[simp] theorem setTune_shadow (t w u) : (setTune t w u).shadow = u.shadow := by unfold setTune; split <;> rfl
@[simp] theorem setTune_disc (t w u) : (setTune t w u).disc = u.disc := by unfold setTune; split <;> rfl
@[simp] theorem setTune_held (t w u) : (setTune t w u).held = u.held := by unfold setTune; split <;> rfl
@[simp] theorem setTune_coastFrom (t w u) : (setTune t w u).coastFrom = u.coastFrom := by unfold setTune; split <;> rfl
@[simp] theorem setTune_lockedFrom (t w u) : (setTune t w u).lockedFrom = u.lockedFrom := by unfold setTune; split <;> rfl
@[simp] theorem setTune_lockedMean (t w u) : (setTune t w u).lockedMean = u.lockedMean := by unfold setTune; split <;> rfl
@[simp] theorem setTune_tuneStored (t w u) : (setTune t w u).tuneStored = u.tuneStored := by unfold setTune; split <;> rfl
@[simp] theorem setTune_refinQual (t w u) : (setTune t w u).refinQual = u.refinQual := by unfold setTune; split <;> rfl
@[simp] theorem setTune_ppsQual (t w u) : (setTune t w u).ppsQual = u.ppsQual := by unfold setTune; split <;> rfl
@[simp] theorem setTune_returnRef (t w u) : (setTune t w u).returnRef = u.returnRef := by unfold setTune; split <;> rfl
@[simp] theorem setTune_returningSince (t w u) : (setTune t w u).returningSince = u.returningSince := by unfold setTune; split <;> rfl
@[simp] theorem setTune_measuring (t w u) : (setTune t w u).measuring = u.measuring := by unfold setTune; split <;> rfl
@[simp] theorem setTune_offsets (t w u) : (setTune t w u).offsets = u.offsets := by unfold setTune; split <;> rfl
@[simp] theorem setTune_last8 (t w u) : (setTune t w u).last8 = u.last8 := by unfold setTune; split <;> rfl
@[simp] theorem setTune_lastOffset (t w u) : (setTune t w u).lastOffset = u.lastOffset := by unfold setTune; split <;> rfl
@[simp] theorem setTune_freqErr (t w u) : (setTune t w u).freqErr = u.freqErr := by unfold setTune; split <;> rfl
@[simp] theorem setTune_y0 (t w u) : (setTune t w u).y0 = u.y0 := by unfold setTune; split <;> rfl
@[simp] theorem setTune_sumX (t w u) : (setTune t w u).sumX = u.sumX := by unfold setTune; split <;> rfl
@[simp] theorem setTune_fwdStep (t w u) : (setTune t w u).fwdStep = u.fwdStep := by unfold setTune; split <;> rfl
@[simp] theorem setTune_slew (t w u) : (setTune t w u).slew = u.slew := by unfold setTune; split <;> rfl
@[simp] theorem setTune_plls (t w u) : (setTune t w u).plls = u.plls := by unfold setTune; split <;> rfl
@[simp] theorem setTune_activeB (t w u) : (setTune t w u).activeB = u.activeB := by unfold setTune; split <;> rfl
@[simp] theorem setTune_spareAligned (t w u) : (setTune t w u).spareAligned = u.spareAligned := by unfold setTune; split <;> rfl
@[simp] theorem setTune_switchedAt (t w u) : (setTune t w u).switchedAt = u.switchedAt := by unfold setTune; split <;> rfl
@[simp] theorem setTune_bothLost (t w u) : (setTune t w u).bothLost = u.bothLost := by unfold setTune; split <;> rfl
@[simp] theorem setTune_pllSeq (t w u) : (setTune t w u).pllSeq = u.pllSeq := by unfold setTune; split <;> rfl
@[simp] theorem setTune_phaseCmd (t w u) : (setTune t w u).phaseCmd = u.phaseCmd := by unfold setTune; split <;> rfl
@[simp] theorem setTune_phaseRef (t w u) : (setTune t w u).phaseRef = u.phaseRef := by unfold setTune; split <;> rfl
@[simp] theorem setTune_ppsHigh (t w u) : (setTune t w u).ppsHigh = u.ppsHigh := by unfold setTune; split <;> rfl
@[simp] theorem setTune_lastEdge (t w u) : (setTune t w u).lastEdge = u.lastEdge := by unfold setTune; split <;> rfl
@[simp] theorem setTune_decided (t w u) : (setTune t w u).decided = u.decided := by unfold setTune; split <;> rfl
@[simp] theorem setTune_vcoStopped (t w u) : (setTune t w u).vcoStopped = u.vcoStopped := by unfold setTune; split <;> rfl
@[simp] theorem setTune_tune (t w u) : (setTune t w u).tune = w := by unfold setTune; split <;> simp_all
@[simp] theorem leaveLocked_dt (s) : (leaveLocked s).time.dt = s.time.dt := by unfold leaveLocked; split <;> simp
@[simp] theorem leaveLocked_dtLow (s) : (leaveLocked s).time.dtLow = s.time.dtLow := by unfold leaveLocked; split <;> simp
@[simp] theorem leaveLocked_residue (s) : (leaveLocked s).time.residue = s.time.residue := by unfold leaveLocked; split <;> simp
@[simp] theorem leaveLocked_rateAdj (s) : (leaveLocked s).time.rateAdj = s.time.rateAdj := by unfold leaveLocked; split <;> simp
@[simp] theorem leaveLocked_running (s) : (leaveLocked s).time.running = s.time.running := by unfold leaveLocked; split <;> simp
@[simp] theorem leaveLocked_unset (s) : (leaveLocked s).time.unset = s.time.unset := by unfold leaveLocked; split <;> simp
@[simp] theorem leaveLocked_backup (s) : (leaveLocked s).time.backup = s.time.backup := by unfold leaveLocked; split <;> simp
@[simp] theorem leaveLocked_cfg (s) : (leaveLocked s).time.cfg = s.time.cfg := by unfold leaveLocked; split <;> simp
@[simp] theorem leaveLocked_shadow (s) : (leaveLocked s).time.shadow = s.time.shadow := by unfold leaveLocked; split <;> simp
@[simp] theorem leaveLocked_disc (s) : (leaveLocked s).time.disc = s.time.disc := by unfold leaveLocked; split <;> simp
@[simp] theorem leaveLocked_tune (s) : (leaveLocked s).time.tune = s.time.tune := by unfold leaveLocked; split <;> simp
@[simp] theorem leaveLocked_held (s) : (leaveLocked s).time.held = s.time.held := by unfold leaveLocked; split <;> simp
@[simp] theorem leaveLocked_coastFrom (s) : (leaveLocked s).time.coastFrom = s.time.coastFrom := by unfold leaveLocked; split <;> simp
@[simp] theorem leaveLocked_lockedFrom (s) : (leaveLocked s).time.lockedFrom = s.time.lockedFrom := by unfold leaveLocked; split <;> simp
@[simp] theorem leaveLocked_lockedSum (s) : (leaveLocked s).time.lockedSum = s.time.lockedSum := by unfold leaveLocked; split <;> simp
@[simp] theorem leaveLocked_hist (s) : (leaveLocked s).time.hist = s.time.hist := by unfold leaveLocked; split <;> simp
@[simp] theorem leaveLocked_refinQual (s) : (leaveLocked s).time.refinQual = s.time.refinQual := by unfold leaveLocked; split <;> simp
@[simp] theorem leaveLocked_ppsQual (s) : (leaveLocked s).time.ppsQual = s.time.ppsQual := by unfold leaveLocked; split <;> simp
@[simp] theorem leaveLocked_returnRef (s) : (leaveLocked s).time.returnRef = s.time.returnRef := by unfold leaveLocked; split <;> simp
@[simp] theorem leaveLocked_returningSince (s) : (leaveLocked s).time.returningSince = s.time.returningSince := by unfold leaveLocked; split <;> simp
@[simp] theorem leaveLocked_measuring (s) : (leaveLocked s).time.measuring = s.time.measuring := by unfold leaveLocked; split <;> simp
@[simp] theorem leaveLocked_offsets (s) : (leaveLocked s).time.offsets = s.time.offsets := by unfold leaveLocked; split <;> simp
@[simp] theorem leaveLocked_last8 (s) : (leaveLocked s).time.last8 = s.time.last8 := by unfold leaveLocked; split <;> simp
@[simp] theorem leaveLocked_lastOffset (s) : (leaveLocked s).time.lastOffset = s.time.lastOffset := by unfold leaveLocked; split <;> simp
@[simp] theorem leaveLocked_freqErr (s) : (leaveLocked s).time.freqErr = s.time.freqErr := by unfold leaveLocked; split <;> simp
@[simp] theorem leaveLocked_y0 (s) : (leaveLocked s).time.y0 = s.time.y0 := by unfold leaveLocked; split <;> simp
@[simp] theorem leaveLocked_sumX (s) : (leaveLocked s).time.sumX = s.time.sumX := by unfold leaveLocked; split <;> simp
@[simp] theorem leaveLocked_fwdStep (s) : (leaveLocked s).time.fwdStep = s.time.fwdStep := by unfold leaveLocked; split <;> simp
@[simp] theorem leaveLocked_slew (s) : (leaveLocked s).time.slew = s.time.slew := by unfold leaveLocked; split <;> simp
@[simp] theorem leaveLocked_plls (s) : (leaveLocked s).time.plls = s.time.plls := by unfold leaveLocked; split <;> simp
@[simp] theorem leaveLocked_activeB (s) : (leaveLocked s).time.activeB = s.time.activeB := by unfold leaveLocked; split <;> simp
@[simp] theorem leaveLocked_spareAligned (s) : (leaveLocked s).time.spareAligned = s.time.spareAligned := by unfold leaveLocked; split <;> simp
@[simp] theorem leaveLocked_switchedAt (s) : (leaveLocked s).time.switchedAt = s.time.switchedAt := by unfold leaveLocked; split <;> simp
@[simp] theorem leaveLocked_bothLost (s) : (leaveLocked s).time.bothLost = s.time.bothLost := by unfold leaveLocked; split <;> simp
@[simp] theorem leaveLocked_pllSeq (s) : (leaveLocked s).time.pllSeq = s.time.pllSeq := by unfold leaveLocked; split <;> simp
@[simp] theorem leaveLocked_phaseCmd (s) : (leaveLocked s).time.phaseCmd = s.time.phaseCmd := by unfold leaveLocked; split <;> simp
@[simp] theorem leaveLocked_phaseRef (s) : (leaveLocked s).time.phaseRef = s.time.phaseRef := by unfold leaveLocked; split <;> simp
@[simp] theorem leaveLocked_ppsHigh (s) : (leaveLocked s).time.ppsHigh = s.time.ppsHigh := by unfold leaveLocked; split <;> simp
@[simp] theorem leaveLocked_lastEdge (s) : (leaveLocked s).time.lastEdge = s.time.lastEdge := by unfold leaveLocked; split <;> simp
@[simp] theorem leaveLocked_decided (s) : (leaveLocked s).time.decided = s.time.decided := by unfold leaveLocked; split <;> simp
@[simp] theorem leaveLocked_vcoStopped (s) : (leaveLocked s).time.vcoStopped = s.time.vcoStopped := by unfold leaveLocked; split <;> simp
@[simp] theorem setDisc_dt (d s) : (setDisc d s).time.dt = s.time.dt := by unfold setDisc; simp; try split <;> simp
@[simp] theorem enterAcquire_dt (d s) : (enterAcquire d s).time.dt = s.time.dt := by unfold enterAcquire; simp
@[simp] theorem setDisc_dtLow (d s) : (setDisc d s).time.dtLow = s.time.dtLow := by unfold setDisc; simp; try split <;> simp
@[simp] theorem enterAcquire_dtLow (d s) : (enterAcquire d s).time.dtLow = s.time.dtLow := by unfold enterAcquire; simp
@[simp] theorem setDisc_residue (d s) : (setDisc d s).time.residue = s.time.residue := by unfold setDisc; simp; try split <;> simp
@[simp] theorem enterAcquire_residue (d s) : (enterAcquire d s).time.residue = s.time.residue := by unfold enterAcquire; simp
@[simp] theorem setDisc_rateAdj (d s) : (setDisc d s).time.rateAdj = s.time.rateAdj := by unfold setDisc; simp; try split <;> simp
@[simp] theorem enterAcquire_rateAdj (d s) : (enterAcquire d s).time.rateAdj = s.time.rateAdj := by unfold enterAcquire; simp
@[simp] theorem setDisc_running (d s) : (setDisc d s).time.running = s.time.running := by unfold setDisc; simp; try split <;> simp
@[simp] theorem enterAcquire_running (d s) : (enterAcquire d s).time.running = s.time.running := by unfold enterAcquire; simp
@[simp] theorem setDisc_unset (d s) : (setDisc d s).time.unset = s.time.unset := by unfold setDisc; simp; try split <;> simp
@[simp] theorem enterAcquire_unset (d s) : (enterAcquire d s).time.unset = s.time.unset := by unfold enterAcquire; simp
@[simp] theorem setDisc_backup (d s) : (setDisc d s).time.backup = s.time.backup := by unfold setDisc; simp; try split <;> simp
@[simp] theorem enterAcquire_backup (d s) : (enterAcquire d s).time.backup = s.time.backup := by unfold enterAcquire; simp
@[simp] theorem setDisc_cfg (d s) : (setDisc d s).time.cfg = s.time.cfg := by unfold setDisc; simp; try split <;> simp
@[simp] theorem enterAcquire_cfg (d s) : (enterAcquire d s).time.cfg = s.time.cfg := by unfold enterAcquire; simp
@[simp] theorem setDisc_shadow (d s) : (setDisc d s).time.shadow = s.time.shadow := by unfold setDisc; simp; try split <;> simp
@[simp] theorem enterAcquire_shadow (d s) : (enterAcquire d s).time.shadow = s.time.shadow := by unfold enterAcquire; simp
@[simp] theorem setDisc_held (d s) : (setDisc d s).time.held = s.time.held := by unfold setDisc; simp; try split <;> simp
@[simp] theorem enterAcquire_held (d s) : (enterAcquire d s).time.held = s.time.held := by unfold enterAcquire; simp
@[simp] theorem setDisc_coastFrom (d s) : (setDisc d s).time.coastFrom = s.time.coastFrom := by unfold setDisc; simp; try split <;> simp
@[simp] theorem enterAcquire_coastFrom (d s) : (enterAcquire d s).time.coastFrom = s.time.coastFrom := by unfold enterAcquire; simp
@[simp] theorem setDisc_refinQual (d s) : (setDisc d s).time.refinQual = s.time.refinQual := by unfold setDisc; simp; try split <;> simp
@[simp] theorem enterAcquire_refinQual (d s) : (enterAcquire d s).time.refinQual = s.time.refinQual := by unfold enterAcquire; simp
@[simp] theorem setDisc_ppsQual (d s) : (setDisc d s).time.ppsQual = s.time.ppsQual := by unfold setDisc; simp; try split <;> simp
@[simp] theorem enterAcquire_ppsQual (d s) : (enterAcquire d s).time.ppsQual = s.time.ppsQual := by unfold enterAcquire; simp
@[simp] theorem setDisc_returnRef (d s) : (setDisc d s).time.returnRef = s.time.returnRef := by unfold setDisc; simp; try split <;> simp
@[simp] theorem enterAcquire_returnRef (d s) : (enterAcquire d s).time.returnRef = s.time.returnRef := by unfold enterAcquire; simp
@[simp] theorem setDisc_returningSince (d s) : (setDisc d s).time.returningSince = s.time.returningSince := by unfold setDisc; simp; try split <;> simp
@[simp] theorem enterAcquire_returningSince (d s) : (enterAcquire d s).time.returningSince = s.time.returningSince := by unfold enterAcquire; simp
@[simp] theorem setDisc_measuring (d s) : (setDisc d s).time.measuring = s.time.measuring := by unfold setDisc; simp; try split <;> simp
@[simp] theorem setDisc_offsets (d s) : (setDisc d s).time.offsets = s.time.offsets := by unfold setDisc; simp; try split <;> simp
@[simp] theorem setDisc_last8 (d s) : (setDisc d s).time.last8 = s.time.last8 := by unfold setDisc; simp; try split <;> simp
@[simp] theorem enterAcquire_last8 (d s) : (enterAcquire d s).time.last8 = s.time.last8 := by unfold enterAcquire; simp
@[simp] theorem setDisc_lastOffset (d s) : (setDisc d s).time.lastOffset = s.time.lastOffset := by unfold setDisc; simp; try split <;> simp
@[simp] theorem enterAcquire_lastOffset (d s) : (enterAcquire d s).time.lastOffset = s.time.lastOffset := by unfold enterAcquire; simp
@[simp] theorem setDisc_freqErr (d s) : (setDisc d s).time.freqErr = s.time.freqErr := by unfold setDisc; simp; try split <;> simp
@[simp] theorem enterAcquire_freqErr (d s) : (enterAcquire d s).time.freqErr = none := by unfold enterAcquire; simp
@[simp] theorem setDisc_y0 (d s) : (setDisc d s).time.y0 = s.time.y0 := by unfold setDisc; simp; try split <;> simp
@[simp] theorem setDisc_sumX (d s) : (setDisc d s).time.sumX = s.time.sumX := by unfold setDisc; simp; try split <;> simp
@[simp] theorem setDisc_fwdStep (d s) : (setDisc d s).time.fwdStep = s.time.fwdStep := by unfold setDisc; simp; try split <;> simp
@[simp] theorem enterAcquire_fwdStep (d s) : (enterAcquire d s).time.fwdStep = s.time.fwdStep := by unfold enterAcquire; simp
@[simp] theorem setDisc_slew (d s) : (setDisc d s).time.slew = s.time.slew := by unfold setDisc; simp; try split <;> simp
@[simp] theorem enterAcquire_slew (d s) : (enterAcquire d s).time.slew = s.time.slew := by unfold enterAcquire; simp
@[simp] theorem setDisc_plls (d s) : (setDisc d s).time.plls = s.time.plls := by unfold setDisc; simp; try split <;> simp
@[simp] theorem enterAcquire_plls (d s) : (enterAcquire d s).time.plls = s.time.plls := by unfold enterAcquire; simp
@[simp] theorem setDisc_activeB (d s) : (setDisc d s).time.activeB = s.time.activeB := by unfold setDisc; simp; try split <;> simp
@[simp] theorem enterAcquire_activeB (d s) : (enterAcquire d s).time.activeB = s.time.activeB := by unfold enterAcquire; simp
@[simp] theorem setDisc_spareAligned (d s) : (setDisc d s).time.spareAligned = s.time.spareAligned := by unfold setDisc; simp; try split <;> simp
@[simp] theorem enterAcquire_spareAligned (d s) : (enterAcquire d s).time.spareAligned = s.time.spareAligned := by unfold enterAcquire; simp
@[simp] theorem setDisc_switchedAt (d s) : (setDisc d s).time.switchedAt = s.time.switchedAt := by unfold setDisc; simp; try split <;> simp
@[simp] theorem enterAcquire_switchedAt (d s) : (enterAcquire d s).time.switchedAt = s.time.switchedAt := by unfold enterAcquire; simp
@[simp] theorem setDisc_bothLost (d s) : (setDisc d s).time.bothLost = s.time.bothLost := by unfold setDisc; simp; try split <;> simp
@[simp] theorem enterAcquire_bothLost (d s) : (enterAcquire d s).time.bothLost = s.time.bothLost := by unfold enterAcquire; simp
@[simp] theorem setDisc_pllSeq (d s) : (setDisc d s).time.pllSeq = s.time.pllSeq := by unfold setDisc; simp; try split <;> simp
@[simp] theorem enterAcquire_pllSeq (d s) : (enterAcquire d s).time.pllSeq = s.time.pllSeq := by unfold enterAcquire; simp
@[simp] theorem setDisc_phaseCmd (d s) : (setDisc d s).time.phaseCmd = s.time.phaseCmd := by unfold setDisc; simp; try split <;> simp
@[simp] theorem enterAcquire_phaseCmd (d s) : (enterAcquire d s).time.phaseCmd = s.time.phaseCmd := by unfold enterAcquire; simp
@[simp] theorem setDisc_phaseRef (d s) : (setDisc d s).time.phaseRef = s.time.phaseRef := by unfold setDisc; simp; try split <;> simp
@[simp] theorem enterAcquire_phaseRef (d s) : (enterAcquire d s).time.phaseRef = s.time.phaseRef := by unfold enterAcquire; simp
@[simp] theorem setDisc_ppsHigh (d s) : (setDisc d s).time.ppsHigh = s.time.ppsHigh := by unfold setDisc; simp; try split <;> simp
@[simp] theorem setDisc_lastEdge (d s) : (setDisc d s).time.lastEdge = s.time.lastEdge := by unfold setDisc; simp; try split <;> simp
@[simp] theorem setDisc_decided (d s) : (setDisc d s).time.decided = s.time.decided := by unfold setDisc; simp; try split <;> simp
@[simp] theorem setDisc_vcoStopped (d s) : (setDisc d s).time.vcoStopped = s.time.vcoStopped := by unfold setDisc; simp; try split <;> simp
@[simp] theorem enterAcquire_ppsHigh (d s) : (enterAcquire d s).time.ppsHigh = s.time.ppsHigh := by unfold enterAcquire; simp
@[simp] theorem enterAcquire_lastEdge (d s) : (enterAcquire d s).time.lastEdge = s.time.lastEdge := by unfold enterAcquire; simp
@[simp] theorem enterAcquire_decided (d s) : (enterAcquire d s).time.decided = s.time.decided := by unfold enterAcquire; simp
@[simp] theorem enterAcquire_vcoStopped (d s) : (enterAcquire d s).time.vcoStopped = s.time.vcoStopped := by unfold enterAcquire; simp
@[simp] theorem endSlew_dt (s) : (endSlew s).time.dt = s.time.dt := by unfold endSlew; dsimp only; split <;> (try split) <;> simp
@[simp] theorem endSlew_dtLow (s) : (endSlew s).time.dtLow = s.time.dtLow := by unfold endSlew; dsimp only; split <;> (try split) <;> simp
@[simp] theorem endSlew_residue (s) : (endSlew s).time.residue = s.time.residue := by unfold endSlew; dsimp only; split <;> (try split) <;> simp
@[simp] theorem endSlew_running (s) : (endSlew s).time.running = s.time.running := by unfold endSlew; dsimp only; split <;> (try split) <;> simp
@[simp] theorem endSlew_unset (s) : (endSlew s).time.unset = s.time.unset := by unfold endSlew; dsimp only; split <;> (try split) <;> simp
@[simp] theorem endSlew_backup (s) : (endSlew s).time.backup = s.time.backup := by unfold endSlew; dsimp only; split <;> (try split) <;> simp
@[simp] theorem endSlew_cfg (s) : (endSlew s).time.cfg = s.time.cfg := by unfold endSlew; dsimp only; split <;> (try split) <;> simp
@[simp] theorem endSlew_shadow (s) : (endSlew s).time.shadow = s.time.shadow := by unfold endSlew; dsimp only; split <;> (try split) <;> simp
@[simp] theorem endSlew_disc (s) : (endSlew s).time.disc = s.time.disc := by unfold endSlew; dsimp only; split <;> (try split) <;> simp
@[simp] theorem endSlew_tune (s) : (endSlew s).time.tune = s.time.tune := by unfold endSlew; dsimp only; split <;> (try split) <;> simp
@[simp] theorem endSlew_held (s) : (endSlew s).time.held = s.time.held := by unfold endSlew; dsimp only; split <;> (try split) <;> simp
@[simp] theorem endSlew_coastFrom (s) : (endSlew s).time.coastFrom = s.time.coastFrom := by unfold endSlew; dsimp only; split <;> (try split) <;> simp
@[simp] theorem endSlew_lockedFrom (s) : (endSlew s).time.lockedFrom = s.time.lockedFrom := by unfold endSlew; dsimp only; split <;> (try split) <;> simp
@[simp] theorem endSlew_lockedSum (s) : (endSlew s).time.lockedSum = s.time.lockedSum := by unfold endSlew; dsimp only; split <;> (try split) <;> simp
@[simp] theorem endSlew_lockedMean (s) : (endSlew s).time.lockedMean = s.time.lockedMean := by unfold endSlew; dsimp only; split <;> (try split) <;> simp
@[simp] theorem endSlew_tuneStored (s) : (endSlew s).time.tuneStored = s.time.tuneStored := by unfold endSlew; dsimp only; split <;> (try split) <;> simp
@[simp] theorem endSlew_hist (s) : (endSlew s).time.hist = s.time.hist := by unfold endSlew; dsimp only; split <;> (try split) <;> simp
@[simp] theorem endSlew_refinQual (s) : (endSlew s).time.refinQual = s.time.refinQual := by unfold endSlew; dsimp only; split <;> (try split) <;> simp
@[simp] theorem endSlew_ppsQual (s) : (endSlew s).time.ppsQual = s.time.ppsQual := by unfold endSlew; dsimp only; split <;> (try split) <;> simp
@[simp] theorem endSlew_returnRef (s) : (endSlew s).time.returnRef = s.time.returnRef := by unfold endSlew; dsimp only; split <;> (try split) <;> simp
@[simp] theorem endSlew_returningSince (s) : (endSlew s).time.returningSince = s.time.returningSince := by unfold endSlew; dsimp only; split <;> (try split) <;> simp
@[simp] theorem endSlew_measuring (s) : (endSlew s).time.measuring = s.time.measuring := by unfold endSlew; dsimp only; split <;> (try split) <;> simp
@[simp] theorem endSlew_offsets (s) : (endSlew s).time.offsets = s.time.offsets := by unfold endSlew; dsimp only; split <;> (try split) <;> simp
@[simp] theorem endSlew_last8 (s) : (endSlew s).time.last8 = s.time.last8 := by unfold endSlew; dsimp only; split <;> (try split) <;> simp
@[simp] theorem endSlew_lastOffset (s) : (endSlew s).time.lastOffset = s.time.lastOffset := by unfold endSlew; dsimp only; split <;> (try split) <;> simp
@[simp] theorem endSlew_freqErr (s) : (endSlew s).time.freqErr = s.time.freqErr := by unfold endSlew; dsimp only; split <;> (try split) <;> simp
@[simp] theorem endSlew_y0 (s) : (endSlew s).time.y0 = s.time.y0 := by unfold endSlew; dsimp only; split <;> (try split) <;> simp
@[simp] theorem endSlew_sumX (s) : (endSlew s).time.sumX = s.time.sumX := by unfold endSlew; dsimp only; split <;> (try split) <;> simp
@[simp] theorem endSlew_fwdStep (s) : (endSlew s).time.fwdStep = s.time.fwdStep := by unfold endSlew; dsimp only; split <;> (try split) <;> simp
@[simp] theorem endSlew_plls (s) : (endSlew s).time.plls = s.time.plls := by unfold endSlew; dsimp only; split <;> (try split) <;> simp
@[simp] theorem endSlew_activeB (s) : (endSlew s).time.activeB = s.time.activeB := by unfold endSlew; dsimp only; split <;> (try split) <;> simp
@[simp] theorem endSlew_spareAligned (s) : (endSlew s).time.spareAligned = s.time.spareAligned := by unfold endSlew; dsimp only; split <;> (try split) <;> simp
@[simp] theorem endSlew_switchedAt (s) : (endSlew s).time.switchedAt = s.time.switchedAt := by unfold endSlew; dsimp only; split <;> (try split) <;> simp
@[simp] theorem endSlew_bothLost (s) : (endSlew s).time.bothLost = s.time.bothLost := by unfold endSlew; dsimp only; split <;> (try split) <;> simp
@[simp] theorem endSlew_pllSeq (s) : (endSlew s).time.pllSeq = s.time.pllSeq := by unfold endSlew; dsimp only; split <;> (try split) <;> simp
@[simp] theorem endSlew_phaseCmd (s) : (endSlew s).time.phaseCmd = s.time.phaseCmd := by unfold endSlew; dsimp only; split <;> (try split) <;> simp
@[simp] theorem endSlew_phaseRef (s) : (endSlew s).time.phaseRef = s.time.phaseRef := by unfold endSlew; dsimp only; split <;> (try split) <;> simp
@[simp] theorem endSlew_ppsHigh (s) : (endSlew s).time.ppsHigh = s.time.ppsHigh := by unfold endSlew; dsimp only; split <;> (try split) <;> simp
@[simp] theorem endSlew_lastEdge (s) : (endSlew s).time.lastEdge = s.time.lastEdge := by unfold endSlew; dsimp only; split <;> (try split) <;> simp
@[simp] theorem endSlew_vcoStopped (s) : (endSlew s).time.vcoStopped = s.time.vcoStopped := by unfold endSlew; dsimp only; split <;> (try split) <;> simp
theorem upd_get' {α : Type} {n : Nat} (v : Vector α n) (i j : Fin n) (f : α → α) : (upd v i f)[j] = if i = j then f v[j] else v[j] := by
  rw [upd_get]
theorem ite_time {c : Prop} [Decidable c] (a b : State) : (if c then a else b).time = if c then a.time else b.time := by split <;> rfl
theorem spare_ne (u : TimeSt) : sparePll u ≠ activePll u := by unfold sparePll activePll; split <;> decide

section held
variable (s : State)
@[simp] theorem hh_emit (o) : (emit o s).host = s.host := rfl
@[simp] theorem hh_modRow (c f) : (modRow c f s).host.held = s.host.held := rfl
@[simp] theorem hh_post (c n) : (post c n s).host.held = s.host.held := rfl
@[simp] theorem hh_settle (c n) : (settle c n s).host.held = s.host.held := rfl
@[simp] theorem hh_modPairq (c f) : (modPairq c f s).host.held = s.host.held := rfl
@[simp] theorem hh_sendMsix (v) : (sendMsix v s).host.held = s.host.held := by unfold sendMsix; split <;> (try split) <;> rfl
@[simp] theorem hh_notifyRise (o) : (notifyRise o s).host.held = s.host.held := by unfold notifyRise; split <;> rfl
@[simp] theorem hh_signalCq (q e) : (signalCq q e s).host.held = s.host.held := by unfold signalCq; dsimp only; split <;> (try split) <;> simp
@[simp] theorem hh_settleEntry (e) : (settleEntry e s).host.held = s.host.held := by unfold settleEntry; split <;> rfl
@[simp] theorem hh_countEvent (e) : (countEvent e s).host.held = s.host.held := by unfold countEvent; split <;> rfl
@[simp] theorem hh_cqWrite (q e) : (cqWrite q e s).host.held = s.host.held := by unfold cqWrite; simp
@[simp] theorem hh_writeOut (u) : (writeOut u s).host.held = s.host.held := by unfold writeOut; split <;> rfl
@[simp] theorem hh_cqPush (q e u) : (cqPush q e u s).host.held = s.host.held := by unfold cqPush; split <;> simp
@[simp] theorem hh_mpResult (e a) : (mpResult e a s).host.held = s.host.held := by unfold mpResult; simp
@[simp] theorem hh_captureTrigger (v e) : (captureTrigger v e s).host.held = s.host.held := rfl
@[simp] theorem hh_queueEvent (v e) : (queueEvent v e s).host.held = s.host.held := by unfold queueEvent; dsimp only; split <;> (try split) <;> simp
@[simp] theorem hh_raiseAt (v d r) : (raiseAt v d r s).host.held = s.host.held := by unfold raiseAt; split <;> simp
@[simp] theorem hh_raise (v l) : (raise v l s).host.held = s.host.held := by unfold raise; simp
end held
@[simp] theorem accrue_path_run (s : State) (p : Fin 64) : (accrue s).cx.paths[p].run = s.cx.paths[p].run := by simp [accrue, post, Fin.getElem_fin]
@[simp] theorem accrue_path_ctx (s : State) (p : Fin 64) : (accrue s).cx.paths[p].ctx = s.cx.paths[p].ctx := by simp [accrue, post, Fin.getElem_fin]
@[simp] theorem accrue_path_source (s : State) (p : Fin 64) : (accrue s).cx.paths[p].source = s.cx.paths[p].source := by simp [accrue, post, Fin.getElem_fin]
@[simp] theorem accrue_path_fin (s : State) (p : Fin 64) : (accrue s).cx.paths[p].fin = s.cx.paths[p].fin := by simp [accrue, post, Fin.getElem_fin]
@[simp] theorem accrue_path_fout (s : State) (p : Fin 64) : (accrue s).cx.paths[p].fout = s.cx.paths[p].fout := by simp [accrue, post, Fin.getElem_fin]
@[simp] theorem accrue_path_m (s : State) (p : Fin 64) : (accrue s).cx.paths[p].m = s.cx.paths[p].m := by simp [accrue, post, Fin.getElem_fin]
@[simp] theorem accrue_path_h (s : State) (p : Fin 64) : (accrue s).cx.paths[p].h = s.cx.paths[p].h := by simp [accrue, post, Fin.getElem_fin]
@[simp] theorem accrue_path_wp (s : State) (p : Fin 64) : (accrue s).cx.paths[p].wp = s.cx.paths[p].wp := by simp [accrue, post, Fin.getElem_fin]
@[simp] theorem accrue_path_trim (s : State) (p : Fin 64) : (accrue s).cx.paths[p].trim = s.cx.paths[p].trim := by simp [accrue, post, Fin.getElem_fin]
@[simp] theorem accrue_path_trimHeld (s : State) (p : Fin 64) : (accrue s).cx.paths[p].trimHeld = s.cx.paths[p].trimHeld := by simp [accrue, post, Fin.getElem_fin]
@[simp] theorem accrue_path_trimChanged (s : State) (p : Fin 64) : (accrue s).cx.paths[p].trimChanged = s.cx.paths[p].trimChanged := by simp [accrue, post, Fin.getElem_fin]
@[simp] theorem accrue_path_firLen (s : State) (p : Fin 64) : (accrue s).cx.paths[p].firLen = s.cx.paths[p].firLen := by simp [accrue, post, Fin.getElem_fin]
@[simp] theorem accrue_path_cfg (s : State) (p : Fin 64) : (accrue s).cx.paths[p].cfg = s.cx.paths[p].cfg := by simp [accrue, post, Fin.getElem_fin]
@[simp] theorem accrue_path_bankA (s : State) (p : Fin 64) : (accrue s).cx.paths[p].bankA = s.cx.paths[p].bankA := by simp [accrue, post, Fin.getElem_fin]
@[simp] theorem accrue_path_bankB (s : State) (p : Fin 64) : (accrue s).cx.paths[p].bankB = s.cx.paths[p].bankB := by simp [accrue, post, Fin.getElem_fin]
@[simp] theorem accrue_path_activeB (s : State) (p : Fin 64) : (accrue s).cx.paths[p].activeB = s.cx.paths[p].activeB := by simp [accrue, post, Fin.getElem_fin]
@[simp] theorem accrue_path_fade (s : State) (p : Fin 64) : (accrue s).cx.paths[p].fade = s.cx.paths[p].fade := by simp [accrue, post, Fin.getElem_fin]
@[simp] theorem accrue_path_queued (s : State) (p : Fin 64) : (accrue s).cx.paths[p].queued = s.cx.paths[p].queued := by simp [accrue, post, Fin.getElem_fin]
@[simp] theorem accrue_path_high (s : State) (p : Fin 64) : (accrue s).cx.paths[p].high = s.cx.paths[p].high := by simp [accrue, post, Fin.getElem_fin]
@[simp] theorem accrue_path_low (s : State) (p : Fin 64) : (accrue s).cx.paths[p].low = s.cx.paths[p].low := by simp [accrue, post, Fin.getElem_fin]
@[simp] theorem accrue_path_next (s : State) (p : Fin 64) : (accrue s).cx.paths[p].next = s.cx.paths[p].next := by simp [accrue, post, Fin.getElem_fin]
@[simp] theorem accrue_path_delivered (s : State) (p : Fin 64) : (accrue s).cx.paths[p].delivered = s.cx.paths[p].delivered := by simp [accrue, post, Fin.getElem_fin]
@[simp] theorem accrue_path_gapped (s : State) (p : Fin 64) : (accrue s).cx.paths[p].gapped = s.cx.paths[p].gapped := by simp [accrue, post, Fin.getElem_fin]
@[simp] theorem accrue_path_gapFrom (s : State) (p : Fin 64) : (accrue s).cx.paths[p].gapFrom = s.cx.paths[p].gapFrom := by simp [accrue, post, Fin.getElem_fin]
@[simp] theorem accrue_path_grid (s : State) (p : Fin 64) : (accrue s).cx.paths[p].grid = s.cx.paths[p].grid := by simp [accrue, post, Fin.getElem_fin]
@[simp] theorem accrue_path_seq (s : State) (p : Fin 64) : (accrue s).cx.paths[p].seq = s.cx.paths[p].seq := by simp [accrue, post, Fin.getElem_fin]
@[simp] theorem accrue_path_clipped (s : State) (p : Fin 64) : (accrue s).cx.paths[p].clipped = s.cx.paths[p].clipped := by simp [accrue, post, Fin.getElem_fin]
@[simp] theorem accrue_path_level (s : State) (p : Fin 64) : (accrue s).cx.paths[p].level = s.cx.paths[p].level := by simp [accrue, post, Fin.getElem_fin]
@[simp] theorem accrue_path_broken (s : State) (p : Fin 64) : (accrue s).cx.paths[p].broken = s.cx.paths[p].broken := by simp [accrue, post, Fin.getElem_fin]
@[simp] theorem accrue_path_opening (s : State) (p : Fin 64) : (accrue s).cx.paths[p].opening = s.cx.paths[p].opening := by simp [accrue, post, Fin.getElem_fin]
@[simp] theorem hh_accrue (s : State) : (accrue s).host.held = s.host.held := rfl
@[simp] theorem vmap_fin {α β : Type} {n : Nat} (v : Vector α n) (f : α → β) (i : Fin n) : (v.map f)[i] = f v[i] := by simp [Fin.getElem_fin]
theorem ite_neg_of {c : Prop} [Decidable c] {a b : State} (P : State → Prop) (h : ¬c) (p : P b) : P (if c then a else b) := by rw [if_neg h]; exact p
theorem ite_pos_of {c : Prop} [Decidable c] {a b : State} (P : State → Prop) (h : c) (p : P a) : P (if c then a else b) := by rw [if_pos h]; exact p
@[simp] theorem modFiring_pending (a o f) (s : State) : (modFiring a o f s).pending = s.pending := rfl
@[simp] theorem modFiring_vault (a o f) (s : State) : (modFiring a o f s).vault = s.vault := rfl
@[simp] theorem modFiring_mem (a o f) (s : State) : (modFiring a o f s).mem = s.mem := rfl
@[simp] theorem modFiring_cry (a o f) (s : State) : (modFiring a o f s).cry = s.cry := rfl
@[simp] theorem modFiring_sg (a o f) (s : State) : (modFiring a o f s).sg = s.sg := rfl
@[simp] theorem modFiring_mp (a o f) (s : State) : (modFiring a o f s).mp = s.mp := rfl
@[simp] theorem modFiring_port (a o f) (s : State) : (modFiring a o f s).port = s.port := rfl
@[simp] theorem modFiring_audio (a o f) (s : State) : (modFiring a o f s).audio = s.audio := rfl
@[simp] theorem modFiring_pair (a o f) (s : State) : (modFiring a o f s).pair = s.pair := rfl
@[simp] theorem modFiring_power (a o f) (s : State) : (modFiring a o f s).power = s.power := rfl
@[simp] theorem modFiring_cx (a o f) (s : State) : (modFiring a o f s).cx = s.cx := rfl
@[simp] theorem modFiring_time (a o f) (s : State) : (modFiring a o f s).time = s.time := rfl
@[simp] theorem modFiring_host (a o f) (s : State) : (modFiring a o f s).host = s.host := rfl
@[simp] theorem modFiring_rf (a o f) (s : State) : (modFiring a o f s).rf = s.rf := rfl
@[simp] theorem moment_returned (t : DT) (s : State) (c : Fin 9) : (moment t s).host.ledger[c].returned = s.host.ledger[c].returned := by
  unfold moment; split
  · simp only [accrue, post, modRow, modHost_host, modCx_host, modTime_host, upd_get']; split <;> rfl
  · rfl
theorem held_finish (h : Held) (st : Status) (fs) (s : State) : (finish h st fs s).host.held = s.host.held.filter (·.id != h.id) := by
  unfold finish finishAt; split
  · simp [deferredDone, dropHeld]
  · unfold sendEntry; split <;> simp [dropHeld]
theorem waiting_filter {o n : Nat} {s : State} {v : State} {f : Held → Bool} (hv : v.host.held = s.host.held.filter f)
    (hd : v.time.dt = s.time.dt) (h : waiting o n s = []) : waiting o n v = [] := by
  unfold waiting late now at *; rw [hv, hd]
  simp only [List.filter_filter, List.filter_eq_nil_iff] at *
  intro a ha hb; exact h a ha (by simp_all)
theorem foldP {α : Type} {f : State → α → State} {P : State → Prop} (hf : ∀ s a, P s → P (f s a)) (l : List α) (s : State) (h : P s) : P (l.foldl f s) := by
  induction l generalizing s with
  | nil => exact h
  | cons a l ih => exact ih _ (hf s a h)
theorem fold_keep {α β : Type} {f : State → α → State} {g : State → β} (hf : ∀ s a, g (f s a) = g s) (l : List α) (s : State) : g (l.foldl f s) = g s := by
  induction l generalizing s with
  | nil => rfl
  | cons a l ih => exact (ih _).trans (hf s a)
theorem foldId {α : Type} {f : State → α → State} {m : State} (hf : ∀ a, f m a = m) (l : List α) : l.foldl f m = m := by
  induction l with
  | nil => rfl
  | cons a l ih => rw [List.foldl_cons, hf]; exact ih
@[simp] theorem moment_rings (t : DT) (s : State) : (moment t s).host.rings = s.host.rings := by
  unfold moment; split
  · simp [accrue, post, modRow]
  · rfl
section held2
variable (s : State)
@[simp] theorem hh_modRing (c f) : (modRing c f s).host.held = s.host.held := rfl
@[simp] theorem hh_signalRing (c) : (signalRing c s).host.held = s.host.held := by unfold signalRing; dsimp only; split <;> simp
@[simp] theorem hh_retWrite (c e) : (retWrite c e s).host.held = s.host.held := by unfold retWrite; dsimp only; split <;> simp
@[simp] theorem hh_retPush (c e) : (retPush c e s).host.held = s.host.held := by unfold retPush; split <;> simp
@[simp] theorem hh_returnBuffer (c st) : (returnBuffer c st s).host.held = s.host.held := by unfold returnBuffer; split <;> simp
@[simp] theorem hh_putBytes (c d n) : (putBytes c d n s).host.held = s.host.held := by unfold putBytes; split <;> simp
@[simp] theorem hh_markSent (c r) : (markSent c r s).host.held = s.host.held := by unfold markSent; split <;> simp
@[simp] theorem hh_takeOwed (c r) : (takeOwed c r s).2.host.held = s.host.held := by unfold takeOwed; split <;> simp
@[simp] theorem hh_stageRec (c x) : (stageRec c x s).host.held = s.host.held := by unfold stageRec; simp
theorem hh_writeRec (c n) : ∀ (r) (s : State), (writeRec c n r s).1.host.held = s.host.held := by
  induction n with
  | zero => intro r s; rfl
  | succ n ih =>
    intro r s; unfold writeRec; split
    · rfl
    · split
      · split
        · simp
        · rw [ih]; simp
      · dsimp only
        repeat' split
        all_goals (try rw [ih])
        all_goals simp
@[simp] theorem hh_deliver (c x) : (deliver c x s).host.held = s.host.held := by
  unfold deliver; split
  · split
    · rename_i s1 _ h; have := hh_writeRec c (s.host.rings[c].buffers.length + 1) x s; rw [h] at this; simpa using this
    · rename_i s1 h; have := hh_writeRec c (s.host.rings[c].buffers.length + 1) x s; rw [h] at this; simpa using this
  · simp
@[simp] theorem hh_recordFrom (a b c d) : (recordFrom a b c d s).host.held = s.host.held := rfl
@[simp] theorem hh_keepHistory (a b c) : (keepHistory a b c s).host.held = s.host.held := rfl
@[simp] theorem hh_hostBlock (v f a b) : (hostBlock v f a b s).host.held = s.host.held := by unfold hostBlock; dsimp only; split <;> simp
@[simp] theorem hh_audioRec (v a b c d) : (audioRec v a b c d s).host.held = s.host.held := by unfold audioRec; simp
@[simp] theorem hh_dataRec (v a b c d) : (dataRec v a b c d s).host.held = s.host.held := by unfold dataRec; split <;> simp [modSub]
@[simp] theorem hh_reserveSeq : (reserveSeq s).host.held = s.host.held := by unfold reserveSeq; split <;> simp
@[simp] theorem hh_gapRecorded (l d q) : (gapRecorded l d q s).host.held = s.host.held := by unfold gapRecorded; split <;> simp
@[simp] theorem hh_formIn (d) : (formIn d s).host.held = s.host.held := by unfold formIn; simp
theorem hh_makeRoom {s t : State} (h : makeRoom s = some t) : t.host.held = s.host.held := by
  unfold makeRoom at h; split at h
  · injection h with h; rw [h]
  · split at h
    · injection h with h; subst h; rfl
    · cases h
@[simp] theorem hh_form (d) : (form d s).host.held = s.host.held := by
  unfold form; split
  · rfl
  · split
    · rename_i h; simp [hh_makeRoom h]
    · rfl
@[simp] theorem hh_coverRun : (coverRun s).host.held = s.host.held := by unfold coverRun; split <;> simp
@[simp] theorem hh_askStore (i c) : (askStore i c s).host.held = s.host.held := by unfold askStore; split <;> (try split) <;> simp
@[simp] theorem hh_useCounter (i k) : (useCounter i k s).host.held = s.host.held := by unfold useCounter; dsimp only; split <;> split <;> simp [modKey]
theorem hh_tagLoop (n) : ∀ s : State, (tagLoop n s).host.held = s.host.held := by
  induction n with
  | zero => intro s; rfl
  | succ n ih =>
    intro s; unfold tagLoop; dsimp only
    repeat' split
    all_goals (try rw [ih])
    all_goals simp
theorem hh_formWaiting (n) : ∀ s : State, (formWaiting n s).host.held = s.host.held := by
  induction n with
  | zero => intro s; rfl
  | succ n ih =>
    intro s; unfold formWaiting; split
    · rfl
    · split
      · rename_i h; rw [ih]; simp [hh_makeRoom h]
      · rfl
@[simp] theorem hh_tagAll : (tagAll s).host.held = s.host.held := by
  unfold tagAll; dsimp only; split <;> simp [hh_tagLoop, hh_formWaiting]
@[simp] theorem hh_told (v) : (told v s).2.host.held = s.host.held := by cases v <;> rfl
@[simp] theorem hh_writeSherd (d) : (writeSherd d s).host.held = s.host.held := by
  unfold writeSherd
  repeat' split
  all_goals simp
@[simp] theorem hh_opSherd (a b c d e) : (opSherd a b c d e s).host.held = s.host.held := by unfold opSherd; simp
@[simp] theorem hh_evSherd (a b c) : (evSherd a b c s).host.held = s.host.held := by unfold evSherd; simp
@[simp] theorem hh_faultSherd (a b c d) : (faultSherd a b c d s).host.held = s.host.held := by unfold faultSherd; simp
@[simp] theorem hh_gapSherd (a b c d e f g i) : (gapSherd a b c d e f g i s).host.held = s.host.held := by unfold gapSherd; simp
@[simp] theorem hh_endItem (v a b) : (endItem v a b s).host.held = s.host.held := by unfold endItem; dsimp only; split <;> simp
@[simp] theorem hh_stopItem (v b) : (stopItem v b s).host.held = s.host.held := by unfold stopItem; split <;> simp
@[simp] theorem hh_sigChain (v) : (sigChain v s).host.held = s.host.held := by unfold sigChain; dsimp only; split <;> simp
@[simp] theorem hh_moment (t) : (moment t s).host.held = s.host.held := by unfold moment; split <;> simp
@[simp] theorem hh_migrate (c w r) : (migrate c w r s).host.held = s.host.held := by unfold migrate; dsimp only; split <;> split <;> simp [modCtx]
end held2
end Sys2Proof.Machine
end

