-- ==== Sys2Proof/Machine/Flags.lean ====
section
/-!
DEFINITION. Flags.lean: what the state shows: the registers of BAR0 as a host reads them (R298, R299, R314, R320, R361, R480, R492, R499 to
R507), and the level of the status pins (R315, R356, R392, R497). A read has no side effect and is no command of the table.
-/
namespace Sys2Proof.Machine

/-- A 32-bit word with fields given as position, width, value; every other bit reads zero (R499). -/
def word (fs : List (Nat × Nat × Nat)) : BitVec 32 :=
  BitVec.ofNat 32 (fs.foldl (fun (n : Nat) f => n + f.2.2 % 2 ^ f.2.1 * 2 ^ f.1) 0)

/-- The low or the high half of a 64-bit field, by bit 2 of the offset (R500). -/
def half (off : Nat) (v : BitVec 64) : BitVec 32 := if off / 4 % 2 = 0 then v.setWidth 32 else v.extractLsb' 32 32

/-! ### Identity, device state and boot-load (R298, R492, R501, R502) -/

/-- JTAG_EN (R502): on a PRODUCTION part, while the seal state is UNSEALED or NEVER. Of the other parts the spec does not say. -/
def jtagEn (s : State) : Bool :=
  if s.ident.lifecycle = 2 then s.sg.sealSt == .unsealed || s.sg.sealSt == .never else Config.jtagOther s.ident.lifecycle

/-- The identity block; it reads zero before step 3 of the cold start (R501). -/
def readIdentity (off : Nat) (s : State) : BitVec 32 :=
  let i := s.ident
  if !s.power.valid then 0
  else match off with
    | 0x00 => word [(0, 16, 0x6404), (16, 8, 0xA1), (24, 2, bit i.nfb), (28, 3, i.lifecycle.toNat), (31, 1, bit (jtagEn s))]
    | 0x04 => i.rom
    | 0x08 | 0x0C => half off i.serial
    | 0x14 => word [(0, 8, i.minSecver.toNat), (8, 8, i.imgSecver.toNat)]
    | _ => 0

/-- The boot-load registers (R492). -/
def readBoot (off : Nat) (p : PowerSt) : BitVec 32 :=
  match off with
  | 0x20 | 0x24 => half off p.imgAddr
  | 0x28 => p.imgLen
  | 0x2C => word [(1, 1, bit p.imgBusy), (8, 4, p.imgResult)]
  | 0x30 => word [(0, 2, p.fails), (8, 4, p.lastCause)]
  | _ => 0

/-! ### Queue pairs, return rings, interrupts, ledger (R299, R314, R320, R503, R504) -/

/-- A word of a queue-pair block; `held` is its HELD count (R299). -/
def readPair (r held : Nat) (p : Pairq) : BitVec 32 :=
  match r with
  | 0x00 | 0x04 => half r p.sqBase
  | 0x08 | 0x0C => half r p.cqBase
  | 0x10 => word [(0, 13, p.sqSize), (16, 13, p.cqSize)]
  | 0x14 => word [(0, 1, bit p.en), (4, 2, p.prio.toNat), (8, 1, bit p.intEn), (16, 6, p.vector)]
  | 0x18 => word [(0, 13, p.sqHead), (16, 13, p.cqTail)]
  | _ => word [(0, 1, bit p.enabled), (1, 1, bit p.draining), (8, 4, p.err.toNat), (16, 16, held)]

/-- A return-ring status register (R503). -/
def readRing (r : RetRing) : BitVec 32 := word [(0, 13, r.head), (16, 13, r.tail), (29, 1, bit r.setup), (31, 1, bit r.err)]

/-- A word of an MSI-X table entry (R314). -/
def readMsix (r : Nat) (x : Msix) : BitVec 32 :=
  match r with
  | 0x0 | 0x4 => half r x.addr
  | 0x8 => x.data
  | _ => word [(0, 1, bit x.masked)]

/-- A word of the counts of a class; the fourth doubleword is reserved (R320). -/
def readRow (r : Nat) (x : LedgerRow) : BitVec 32 :=
  if r < 0x08 then half r x.posted else if r < 0x10 then half r x.returned else if r < 0x18 then half r x.held else 0

/-- The ledger block (R320). -/
def readLedger (off : Nat) (h : HostIf) : BitVec 32 :=
  if off = 0x3000 then word [(1, 1, bit h.snap.done), (16, 16, h.snap.id.toNat)]
  else if off = 0x3004 then h.epoch
  else if off = 0x3008 ∨ off = 0x300C then half off h.snap.dt
  else if off < 0x3100 then 0
  else if off < 0x3400 then
    match idx 9 ((off - 0x3100) / 0x20) with
    | some c => readRow ((off - 0x3100) % 0x20) h.snap.rows[c]
    | none => 0
  else if off < 0x3480 then
    match idx 32 ((off - 0x3400) / 4) with
    | some q => word [(0, 13, h.snap.sqPos[q]), (16, 13, h.snap.cqPos[q])]
    | none => 0
  else if off < 0x3600 then
    if 0x3484 ≤ off then
      match idx 4 ((off - 0x3484) / 4) with
      | some c => word [(0, 13, h.snap.rrPos[c])]
      | none => 0
    else 0
  else match idx 9 ((off - 0x3600) / 0x20) with
    | some c => readRow ((off - 0x3600) % 0x20) h.ledger[c]
    | none => 0

/-! ### MPORT, pins, link (R361, R480, R505, R506) -/

/-- The MPORT block (R361). -/
def readMport (off : Nat) (s : State) : BitVec 32 :=
  let m := s.mp
  match off with
  | 0x4000 => m.timing.word0
  | 0x4004 => m.timing.word1
  | 0x4008 => m.control
  | 0x400C => word [(0, 2, s.power.boot.mpaddr.val), (2, 1, bit m.busStuck), (3, 1, bit m.stuckLine), (4, 1, bit m.hnPending),
      (8, 1, bit m.pecErr), (9, 1, bit m.stretchTo), (10, 1, bit m.arbLost), (11, 1, bit m.nackHn), (12, 1, bit m.sdaReleased)]
  | 0x4010 => word [(0, 16, m.pecErrors.toNat), (16, 16, m.arbLosses.toNat)]
  | _ => 0

/-- The comparators that have fallen and are not latched yet (R67, R506). -/
def fellNow (u : TimeSt) : BitVec 5 :=
  BitVec.ofNat 5 (bit (u.plls[(0 : Fin 2)].cmp && !u.plls[(0 : Fin 2)].cmpAt u.dt)
    + 2 * bit (u.plls[(1 : Fin 2)].cmp && !u.plls[(1 : Fin 2)].cmpAt u.dt))

/-- The pin and analogue status block (R505, R506). -/
def readPins (off : Nat) (s : State) : BitVec 32 :=
  let p := s.power
  let u := s.time
  match off with
  | 0x5000 => word [(0, 1, bit (u.plls[(0 : Fin 2)].cmpAt u.dt)), (1, 1, bit (u.plls[(1 : Fin 2)].cmpAt u.dt)), (2, 1, bit u.plls[(0 : Fin 2)].declared),
      (3, 1, bit u.plls[(1 : Fin 2)].declared), (4, 1, bit u.activeB), (5, 1, bit u.spareAligned), (6, 1, bit u.backup), (8, 1, bit p.pfail),
      (9, 1, bit p.sealSw), (10, 1, bit p.injEn), (11, 1, bit p.warmN), (12, 1, bit p.dormantReq), (13, 1, bit p.coreEn),
      (16, 2, p.boot.mpaddr.val), (18, 2, p.boot.bootsel.val), (20, 1, bit p.boot.pairrole)]
  | 0x5004 => word [(0, 5, (p.latched ||| fellNow u).toNat)]
  | 0x5008 => word [(0, 16, p.vcoreMv), (16, 5, p.vid), (24, 1, bit p.avsStopped)]
  | 0x500C => word [(0, 16, (BitVec.ofInt 16 p.tHot).toNat), (16, 16, (BitVec.ofInt 16 p.tAo).toNat)]
  | 0x5010 => word [(0, 16, (BitVec.ofInt 16 (tuneNow u.dt u)).toNat)]
  | _ => 0

/-- The Walval link status block (R480). -/
def readLink (off : Nat) (s : State) : BitVec 32 :=
  let p := s.pair
  match off with
  | 0x6000 => word [(0, 3, linkCode p.link), (4, 2, p.role), (8, 2, p.mode), (12, 2, p.exportOut.toNat), (14, 2, p.exportIn.toNat),
      (16, 4, p.lanes.toNat), (20, 1, bit p.peerHb), (21, 1, bit s.power.boot.pairrole)]
  | 0x6004 => p.transit
  | 0x6008 => BitVec.ofInt 32 p.dtOffset
  | 0x600C => word [(0, 8, p.crc[(0 : Fin 4)]), (8, 8, p.crc[(1 : Fin 4)]), (16, 8, p.crc[(2 : Fin 4)]), (24, 8, p.crc[(3 : Fin 4)])]
  | 0x6010 => word [(0, 16, p.retrains.toNat), (16, 16, p.laneDrops.toNat)]
  | _ => 0

/-! ### The map (R499, R507) -/

/-- Whether a block is one of those that read zero in RECOVERY and HALTED (R507). -/
def gated (off : Nat) : Bool := (decide (0x100 ≤ off) && decide (off < 0x4000)) || decide (0x6000 ≤ off)

/-- The 32-bit word at an offset of BAR0, while the link is up: zero at a misaligned one (R296). Doorbells are written only. -/
def regRead (off : Nat) (s : State) : BitVec 32 :=
  if off % 4 ≠ 0 then 0
  else if gated off && (s.power.st == .recovery || s.power.st == .halted) then 0
  else if off = 0x10 then word [(0, 4, devCode s.power.st)]
  else if off < 0x20 then readIdentity off s
  else if off < 0x34 then readBoot off s.power
  else if off < 0x100 then 0
  else if off < 0x500 then
    match idx 32 ((off - 0x100) / 0x20) with
    | some q => readPair ((off - 0x100) % 0x20) (heldOf (.queue q) s) s.host.pairs[q]
    | none => 0
  else if off < 0x1144 then 0
  else if off < 0x1154 then
    match idx 4 ((off - 0x1144) / 4) with
    | some c => readRing s.host.rings[c]
    | none => 0
  else if off < 0x2000 then 0
  else if off < 0x2210 then
    match idx 33 ((off - 0x2000) / 16) with
    | some i => readMsix ((off - 0x2000) % 16) s.host.msix[i]
    | none => 0
  else if off = 0x2400 then s.host.pba.setWidth 32
  else if off = 0x2404 then word [(0, 1, bit (s.host.pba.getLsbD 32))]
  else if off < 0x2800 then 0
  else if off < 0x2880 then
    match idx 32 ((off - 0x2800) / 4) with
    | some q => s.host.pairs[q].coal.setWidth 32
    | none => 0
  else if off = 0x2880 then s.host.rrCoal.setWidth 32
  else if off < 0x3000 then 0
  else if off < 0x3800 then readLedger off s.host
  else if off < 0x4000 then 0
  else if off < 0x5000 then readMport off s
  else if off < 0x6000 then readPins off s
  else readLink off s

/-! ### Status pins (R315, R356, R392, R497) -/

/-- Whether the open-drain outputs of the main die are driven at all. -/
def pinsDriven (s : State) : Bool := s.power.porstN && s.power.st != .recovery && s.power.st != .halted

/-- IRQ_N is low while any pending bit is set (R315). -/
def irqLow (s : State) : Bool := pinsDriven s && s.host.pba != 0

/-- MP_ATTN_N (R356). -/
def mpAttnLow (s : State) : Bool := pinsDriven s && (resultReady s || eventPending s || s.mp.busStuck)

/-- LP_ATTN_N is low while the Saggar's store holds a response (R392). -/
def lpAttnLow (s : State) : Bool := s.sg.st != .off && !s.sg.responses.isEmpty

/-- FAULT_N is low in RECOVERY and HALTED (R497). -/
def faultPinLow (s : State) : Bool := s.power.faultLow

end Sys2Proof.Machine
end

