-- ==== Sys2Proof/WellFormed.lean ====
section
/-!
DEFINITION. WellFormed.lean: the commands as the block can receive them: entries of the length of R304, operands within what their
registers, counts and layouts can hold.
-/
namespace Sys2Proof.WellFormed

/-- An entry has 48 parameter bytes, and the block that a set PTR points at (R304); one above 1 MB is never read further. -/
def entryOk (e : Entry) : Bool :=
  decide (e.param.length = 48)
    && (if Machine.Entry.ptr e then decide (e.block.length = min 1048576 (Machine.le e.param 8 4)) else e.block.isEmpty)

/-- An opcode outside the catalogue, or one not allowed where the entry comes from (R306, R307, R353). -/
def opcodeOk (e : Entry) (op : BitVec 16) : Bool := !Machine.knownOpcode op.toNat || Machine.disallowed op.toNat e

/-- A security version is one byte (R501). -/
def secverOk (n : Nat) : Bool := decide (n < 256)

/-- Host writes are aligned (R296). -/
def alignedOk (off : Nat) (wide : Bool) : Bool := off % (if wide then 8 else 4) == 0

/-- A firing's result brings the estimates of its activity (R438), and activity 6 the sixteen readings (R388). -/
def firingOk (a : Nat) (r : FiringResult) : Bool :=
  decide (r.estimates.length = (Machine.limitsOf a).length) && (a != 6 || decide (r.levels.length = 16))

/-- The CIF count runs modulo 5000 (R192). -/
def cifOk (n : Nat) : Bool := decide (n < 5000)

/-- A block of a biphase input has 192 frames and takes some time (R271, R282). -/
def blockOk (b : AinBlock) : Bool := decide (b.frames.length = 192) && decide (0 < b.span)

/-- An access unit has a sampling rate, and its frames have channels (R246). -/
def unitOk (u : AccessUnit) : Bool := decide (0 < u.rate) && u.frames.all fun f => !f.isEmpty

/-- A board: the security versions of its images. -/
def bootOk (b : Boot) : Bool := (b.imageA.toList ++ b.imageB.toList).all secverOk

/-- A two-wire block write has at most 255 data bytes, after its command code and its count (R348). -/
def xferOk (x : Xfer) : Bool := decide (x.data.length ≤ 256)

/-- A well-formed command. -/
def instr : Instr → Bool
  | .devIdentify e | .devSetProfile e | .devRestart e | .devGetHealth e | .devSetEventMask e | .devLedgerRead e | .timeSet e
  | .timeGet e | .timeRefConfig e | .timePllConfig e | .timePhaseStep e | .timeDisciplineStatus e | .rfWbConfig e
  | .rfCarverSet e | .rfPtState e | .rfPtTune e | .rfPtBandtableLoad e | .rfPtRecallRead e | .rfProbe e | .rfSlipConfig e
  | .ctxOpen e | .ctxRetune e | .ctxClose e | .ctxGetQuality e | .ctxSetThresholds e | .ctxStage e | .ctxCommit e
  | .ctxCoefLoad e | .ctxCoefSwap e | .ctxSync e | .ctxDiversity e | .dataSubscribe e | .dataUnsubscribe e | .afPolicy e
  | .afListSet e | .alertConfig e | .audServiceStart e | .audServiceStop e | .audSignatureConfig e | .audLoudnessConfig e
  | .portConfig e | .portRoute e | .portSlotmask e | .portChstatusSet e | .portInputStatus e | .memCaptureArm e
  | .memCaptureFreeze e | .memCaptureRead e | .memTimeshiftConfig e | .bufPost e | .cryKeyLoad e | .cryKeyDerive e
  | .cryKeyRetire e | .cryCounterRead e | .cryCounterIncrement e | .logConfig e | .logRead e | .logMark e | .mntCalibrate e
  | .mntScheduleSet e | .mntScheduleStatus e | .mntConeRead e | .mntMarginPlan e | .pairJoin e | .pairLeave e
  | .pairStatus e | .pairMirror e | .sgReadResult e | .sgStatus e | .sgRequestMeasure e | .diagReadCounters e => entryOk e
  | .cryProcess e _ _ => entryOk e
  | .diagLoopback e _ => entryOk e
  | .unknownOpcode e op => entryOk e && opcodeOk e op
  | .imageFetchDone _ _ n => secverOk n
  | .registerWrite _ off wide _ => alignedOk off wide
  | .overloadTrip _ _ n => decide (0 < n)
  | .ficDecoded _ _ f => cifOk f.cifCount
  | .cifBoundary _ _ n _ => cifOk n
  | .logicalFrameComplete _ _ n _ f => decide (n < 64) && cifOk f.cif
  | .dabReacquisition _ _ _ n => cifOk n
  | .accessUnitDecoded _ _ u => unitOk u
  | .ainBlockReceived _ _ b => blockOk b
  | .ainRelock _ _ b => blockOk b
  | .kilnFiringEnd _ a _ r => firingOk a.val r
  | .coneSample _ _ _ l => decide (l.length = 8)
  | .porstNRise _ b => bootOk b
  | .cmdSubmit _ x | .mportTimingWrite _ x | .sgPortWrite _ x | .sgMeasure _ x | .sgCancel _ x | .sgResult _ x
  | .sgLogSeek _ x | .sgSeal _ x | .sgAfWrite _ x | .sgAfRead _ x | .sgCalWrite _ x | .sgCalRead _ x | .sgVerify _ x
  | .sgParam _ x | .sgKeyLoad _ x | .sgImageBlock _ x | .sgImageCommit _ x => xferOk x
  | .queuedEntryWrite .. | .commandDeadlineExpiry .. | .coalTimeExpiry .. | .sqDoorbellWrite .. | .cqDoorbellWrite ..
  | .pairEnableWrite .. | .pairDisableWrite .. | .pairDrainDone .. | .returnRingDoorbellWrite .. | .ledgerSnapWrite ..
  | .restartWarmWrite .. | .restartColdWrite .. | .imgGo .. | .msixVectorUnmask .. | .busMasterEnableSet ..
  | .busMasterEnableClear .. | .pcieLinkDown .. | .pcieLinkUp .. | .ppsinEdgeAccepted .. | .ppsinLost .. | .refinLost ..
  | .refinQualified .. | .refinSteerWindow .. | .returningPpsTimeout .. | .dtForwardStep .. | .timeSetStepApply ..
  | .slewTargetReached .. | .timeRefCommitApply .. | .spllLockDeclared .. | .spareAlignmentDone .. | .spllReconfigTimeout ..
  | .activeSpllFlagged .. | .spareSpllFlagged .. | .spareAlignTimeout .. | .spllRelockAttempt .. | .agcWindowEnd ..
  | .agcHoldExpiry .. | .carverFrameCommit .. | .peerStreamStop .. | .tunerTransitionDone .. | .recallLockTimeout ..
  | .tunerFailed .. | .tunerRetry .. | .probeStart .. | .probeEnd .. | .probeWaitTimeout .. | .injEnFall ..
  | .slipSaggarRelease .. | .supervisionPeriod .. | .recallTableSave .. | .pathBlockOutput .. | .syncSample ..
  | .pathSourceResume .. | .powerBlockEnd .. | .pathCommitApply .. | .fadeStart .. | .fadeEnd .. | .ctxSyncReset ..
  | .ctxSyncHoldTimeout .. | .contextFrame .. | .acquisitionHoldMet .. | .cnrLossTimeout .. | .wheelWatchdogExpiry ..
  | .hangBacklogCleared .. | .wheelSelfTestDone .. | .failoverBranchRetry .. | .eqAutoTimeout .. | .pilotDetectTimeout ..
  | .mpxPowerUpdate .. | .measWindowEnd .. | .dabNullDetected .. | .dabFrameEnd .. | .tiiListUpdate .. | .drmFrameEnd ..
  | .sdcDecoded .. | .rdsGroupReceived .. | .bufferFlushTimeout .. | .motObjectTimeout .. | .afMeterInterval ..
  | .sharedMeterTurn .. | .afHopDwellEnd .. | .afPiConfirmed .. | .afDecisionTimeout .. | .afCorrelationDone ..
  | .afCrossfadeEnd .. | .afHoldoffExpiry .. | .afReportDue .. | .signatureSecond .. | .hostAudioBlock ..
  | .loudnessBlock .. | .loudReportPeriod .. | .sigChainPeriod .. | .libraryChangeApply .. | .portBlockBoundary ..
  | .slotmaskFrameApply .. | .ainAudioReturn .. | .ainPreambleTimeout .. | .ainRateConfirmed .. | .ainRateChangeTimeout ..
  | .airchainReport .. | .captureFreeze .. | .dramEccError .. | .entropyHealthFailure .. | .entropyRetry ..
  | .kilnFiringStart .. | .kilnWindowExpiry .. | .vaultStoreDone .. | .avsCodeStep .. | .avsSettleTimeout ..
  | .peerHeartbeatLost .. | .walvalLaneLoss .. | .walvalLaneRetry .. | .linkTrainTimeout .. | .pairJoinComplete ..
  | .pairJoinTimeout .. | .pairDtMarker .. | .porstNFall .. | .warmNFall .. | .setterWatchdogExpiry .. | .pfailNFall ..
  | .pfailNRise .. | .startTimeout .. | .runningFailCountClear .. | .thermalTrip .. | .dormantReqHeld ..
  | .dormantReqFall .. | .pcieResetRise .. | .sealSwChange .. | .tamperNAssert .. | .vddSgArrival .. | .saggarBootDone ..
  | .saggarJobStart .. | .saggarFault .. | .legalSherdCommit .. | .verifyMaxExpiry .. | .lportAddressWake ..
  | .mportStatus .. | .cmdResult .. | .cmdResultRedeliver .. | .mportWake .. | .mportTimingRead .. | .mportTimingApply ..
  | .eventFetch .. | .eventFetchRedeliver .. | .mportDormantMatch .. | .mportRegateTimeout .. | .stretchTimeout ..
  | .sclHeldTimeout .. | .sdaSelfHeld .. | .lineHeldByOther .. | .busStuckClear .. | .hostNotifySend .. | .lportSgStatus ..
  | .sgIdentify .. | .sgPortRead .. | .sgCounters .. | .sgResponse .. | .sgResponseRedeliver .. | .sgLogRead ..
  | .vddSgLoss .. | .tamperNRelease .. | .vddCoreInRange .. | .entropyStartupTestsDone .. | .phaseSteppingDone ..
  | .glazeMessageDone .. | .ppsoutPulse .. | .sharedPoolInitDone .. | .channelChangeDone .. | .conePlanDue .. | .saggarJobEnd .. => true

end Sys2Proof.WellFormed
end

