-- ==== Sys2Proof/Tests/Slice0.lean ====
section
/-!
SUPPORT. Slice0.lean: the model's own tests. Ill-formed commands are refused by WellFormed; one step of commands on small states against
the spec's rules; and for every statement that has hypotheses (Obligations.lean) a state and operands that meet those of each clause.
-/
namespace Sys2Proof.Tests
open Sys2Proof Sys2Proof.Machine
set_option Elab.async false

/-! ### Small states -/

/-- The device some time after a start: running, the link up, DT at 16 s, the shared pool ready, queue pair 0 with one entry posted. -/
def up : State :=
  { State.reset with
    power := { PowerSt.reset with st := .running, porstN := true, valid := true }
    time := { TimeSt.reset with running := true, dt := 0x1000000000 }
    host := { HostIf.reset with
      linkUp := true, bme := true
      pairs := upd HostIf.reset.pairs 0 fun p => { p with en := true, enabled := true, sqSize := 64, cqSize := 64, sqTail := 1 } }
    mem := { MemSt.reset with poolReady := true } }

/-- An entry of queue 0 with tag 7, no flags and its parameters. -/
def ent (target : BitVec 16) (param : List Byte) : Entry :=
  { t := 0, src := .queue 0, tag := 7, flags := 0, plen := BitVec.ofNat 8 param.length, target := target, deadline := 0,
    param := fit 48 param, block := [] }

/-- Parameters in the item form of R330: header flags, action, items. -/
def its (flags action : Byte) (l : List (Nat × Int)) : List Byte :=
  [flags, action, BitVec.ofNat 8 l.length, 0, 0, 0, 0, 0] ++ l.flatMap fun x => leBytes 2 x.1 ++ leBytes 6 x.2

/-- A held command with identifier 0. -/
def hd (op : Nat) (i : Entry → Instr) (e : Entry) (aux : List Int := []) : Held :=
  { id := 0, src := e.src, tag := e.tag, op := op, entry := e, cmd := i e, begun := false, deferred := false, aux := aux }

/-- A state with held commands. -/
def holding (l : List Held) (s : State) : State := modHost (fun x => { x with held := l, nextId := 9 }) s

/-- The next state of a step. -/
def after (o : Host.Outcome State Fault Refusal) : State :=
  match o with
  | .next t => t
  | _ => State.reset

/-- A command queued in front of a state. -/
def front (i : Instr) (s : State) : State := { s with pending := [i] }

/-- In every state that holds a command without a deadline, and for none of the secondary's objects, that command can begin. -/
theorem held_starts (c : Spec) (i : Instr) (h : Held) (u : State) (hf : findHeld h.id u = some h) (hr : u.host.resuming = none)
    (hn : h.deferred = false) (hd : Entry.hasDeadline h.entry = false) (hm : isRemote c h.entry = false) :
    ∃ s, Starts c i h.entry s h u := by
  refine ⟨modHost (fun x => { x with resuming := some h.id }) u, ?_⟩
  have hs := Starts.resumed (c := c) (i := i) (e := h.entry) (s := modHost (fun x => { x with resuming := some h.id }) u) h.id h rfl hf
    rfl hn (by simp [hd]) hm
  have hu : modHost (fun x => { x with resuming := none }) (modHost (fun x => { x with resuming := some h.id }) u) = u := by
    simp only [modHost, ← hr]
  rwa [hu] at hs

/-- So the premise of Does is met in `holding [h] s`, whatever else `s` is. The witnesses below give the conditions of the clauses on `h` and on
`s`, of which the held commands are no part. -/
theorem witness_Does (c : Spec) (i : Instr) (h : Held) (s : State) (hr : s.host.resuming = none) (hn : h.deferred = false)
    (hd : Entry.hasDeadline h.entry = false) (hm : isRemote c h.entry = false) : ∃ s', Starts c i h.entry s' h (holding [h] s) :=
  held_starts c i h (holding [h] s) (by simp [findHeld, holding, modHost]) hr hn hd hm

theorem witness_TimeReadsComplete :
    ∃ s, Starts specTimeGet (.timeGet (ent 0 [])) (ent 0 []) s (hd 0x0201 .timeGet (ent 0 [])) (holding [hd 0x0201 .timeGet (ent 0 [])] up) :=
  witness_Does specTimeGet _ (hd 0x0201 .timeGet (ent 0 [])) up (by decide) (by decide) (by decide) (by decide)

/-- TIME_GET on queue 0 is fetched, passes the checks of R306 and begins, without being held before. -/
theorem witness_fetched :
    let e := ent 0 []
    (∃ v h u, up.host.resuming = none ∧ fetch specTimeGet.op e (moment e.t up) = some v ∧ hold specTimeGet.op (.timeGet e) e (shieldCopy specTimeGet.op e v) = (h, u)
      ∧ failing specTimeGet h u = none ∧ mustWait h u = false ∧ isRemote specTimeGet e = false) :=
  ⟨_, _, _, rfl, rfl, rfl, by decide, by decide, by decide⟩

/-! ### Witnesses: the queue of commands and the host interface -/

/-- An entry of a source, taken and held as a step does. -/
def taken (c : Spec) (i : Entry → Instr) (e : Entry) (s : State) : Option (Held × State) :=
  (fetch c.op e (moment e.t s)).map fun v => hold c.op (i e) e (shieldCopy c.op e v)

/-- `up` with two queue pairs. -/
def up2 : State := modPairq 1 (fun p => { p with en := true, enabled := true, sqSize := 64, cqSize := 64, sqTail := 1 }) up

/-- Nothing waits in queue 0. -/
def drained0 (s : State) : State := modPairq 0 (fun p => { p with sqTail := 0 }) s

/-- One completion entry. -/
def cqe : CqEntry := { tag := 1, status := 0, dt := 0, result := [], event := false }

/-- TIME_GET, held. -/
def getHeld : Held := hd 0x0201 .timeGet (ent 0 [])

theorem witness_StepRunsTheFrontCommand : ∃ c rest, (front (.timeGet (ent 0 [])) up).pending = c :: rest := ⟨_, _, rfl⟩

theorem witness_EmptyQueueResumesOrTicks :
    ((up.pending = [] ∧ up.cx.syncs = [] ∧ ∀ h ∈ up.host.held, h.begun = true)
      ∧ (let s := holding [{ getHeld with begun := true, id := 1 }, getHeld] up;
        s.pending = [] ∧ s.host.held = [{ getHeld with begun := true, id := 1 }] ++ getHeld :: [] ∧ getHeld.begun = false
          ∧ getHeld.deferred = false ∧ mustWait getHeld s = false))
      ∧ State.reset.pending = [] ∧ State.reset.host.held = [] ∧ State.reset.time.running = false ∧ State.reset.cx.syncs = [] ∧ isRunning State.reset = false :=
  ⟨by decide, rfl, rfl, rfl, rfl, rfl⟩

/-- The device runs, of itself, and with no peer: it idles by a tick alone; it enters Dormant; it waits in a warm start. -/
theorem witness_EmptyQueueResumesOrTicks_idle :
    (isRunning up = true ∧ up.power.entering = false ∧ up.power.st ≠ .warmStart ∧ up.pair.role ≠ 1)
      ∧ (modPower (fun p => { p with entering := true }) up).power.entering = true
      ∧ (let s := modPower (fun p => { p with st := .warmStart, waking := true }) up; isRunning s = false ∧ s.power.waking = true ∧ s.pending = [])
      ∧ (let s := modPair (fun p => { p with role := 1, link := .lost }) up; s.pair.link ≠ .up ∧ s.pair.link ≠ .degraded) := by decide

theorem witness_EveryStepKeepsTheLedgerBalanced : Machine.Balanced up.host ∧ ∃ t, step (front (.timeGet (ent 0 [])) up) = .next t := by
  refine ⟨?_, _, rfl⟩
  unfold Machine.Balanced LedgerRow.Balanced
  decide

theorem witness_EveryCommandStaysWithinItsParts : ∃ t, exec (.timeGet (ent 0 [])) up = .next t := ⟨_, rfl⟩

theorem witness_EveryStepKeepsQueueFusesAndRecord : ∃ t, step (front (.timeGet (ent 0 [])) up) = .next t := ⟨_, rfl⟩

theorem witness_FirstFailingCheckDecides :
    (taken specTimeGet .timeGet { ent 0 [] with flags := 8 } up).map (fun x => failing specTimeGet x.1 x.2) = some (some (.errParam, 4, .reservedNonzero))
      ∧ (taken specTimeGet .timeGet (ent 0 []) (holding [{ getHeld with tag := 1, entry := { ent 0 [] with flags := 2 } }] up)).map
          (fun x => (failing specTimeGet x.1 x.2, mustWait x.1 x.2)) = some (none, true)
      ∧ (taken specTimeGet .timeGet (ent 0 []) up).map (fun x => (failing specTimeGet x.1 x.2, mustWait x.1 x.2)) = some (none, false)
      ∧ (specDevIdentify.admin (Entry.args { ent 0 [] with src := .queue 1 }) = true)
      ∧ (check1 specTimeGet (ent 0 []) = none ∧ check2 specTimeGet { ent 0 [] with plen := 49 } = some (.errLength, 5, .none))
      ∧ (check2 specRfPtState (ent 9 (List.replicate 16 0)) = none ∧ specRfPtState.target up 9 = false)
      ∧ (specRfPtState.target up 1 = true ∧ firstOffence (offences specRfPtState (hd 0x0302 .rfPtState (ent 1 [7])) up) = some (16, .outOfRange))
      ∧ (let u := modPairq 0 (fun p => { p with wait := [{ cqe with tag := 7 }] }) up; getHeld.src = .queue 0 ∧ ∃ x ∈ u.host.pairs[(0 : Fin 32)].wait, x.event = false ∧ x.tag = getHeld.tag)
      ∧ (let e : Entry := { ent 0 [] with flags := 4, deadline := 1 };
        check2 specTimeGet e = none ∧ specTimeGet.target up 0 = true ∧ specTimeGet.targetFor [] up 0 = true ∧ offences specTimeGet (hd 0x0201 .timeGet e) up = []
          ∧ Entry.hasDeadline e = true ∧ e.deadline.toNat < (now up).toNat) := by
  and_intros <;> decide

theorem witness_TagsAreUniqueAmongHeldCommands :
    (let s := holding [getHeld] up;
      (taken specTimeGet .timeGet (ent 0 []) s).isSome = true ∧ s.host.resuming = none ∧ check1 specTimeGet (ent 0 []) = none
        ∧ check2 specTimeGet (ent 0 []) = none ∧ specTimeGet.target s 0 = true ∧ (∀ x ∈ s.host.held, x.id ≠ s.host.nextId)
        ∧ ∃ x ∈ s.host.held, x.src = (ent 0 []).src ∧ x.tag = (ent 0 []).tag ∧ x.deferred = false)
      ∧ (taken specTimeGet .timeGet { ent 0 [] with tag := 0xFFFF } up).isSome = true
      ∧ (let h := { getHeld with id := 3, src := .queue 1 };
        h.tag ≠ 0xFFFF ∧ earlier h (holding [getHeld, h] up) = [getHeld] ∧ getHeld.src ≠ h.src ∧ up.host.pairs[(1 : Fin 32)].wait = [])
      ∧ (let s := modPairq 0 (fun p => { p with wait := [{ cqe with tag := 7 }] }) up; (taken specTimeGet .timeGet (ent 0 []) s).isSome = true
          ∧ (ent 0 []).src = .queue 0 ∧ ∃ x ∈ s.host.pairs[(0 : Fin 32)].wait, x.event = false ∧ x.tag = (ent 0 []).tag) := by decide

theorem witness_AdminCommandsAreForQueueZero :
    (taken specDevIdentify .devIdentify { ent 0 [] with src := .queue 1 } (drained0 up2)).isSome = true ∧ (1 : Fin 32).val ≠ 0
      ∧ (ent 0 []).src = .queue 0 := by decide

theorem witness_FetchTakesTheNextEntry :
    ((ent 0 []).src = .queue 0 ∧ (fetch 0x0201 (ent 0 []) up).isSome = true ∧ (fetch 0x0201 { ent 0 [] with src := .queue 1 } up).isSome = false)
      ∧ (Machine.ready 0 up = true ∧ (0 : Fin 32).val = 0 ∧ mportReady up = false ∧ nextSource up = some (.queue 0))
      ∧ ((1 : Fin 32).val ≠ 0 ∧ Machine.ready 1 (drained0 up2) = true ∧ Machine.ready 0 (drained0 up2) = false
          ∧ (List.finRange 32).all (fun r => r == 1 || !Machine.ready r (drained0 up2)) = true ∧ nextSource (drained0 up2) = some (.queue 1))
      ∧ (Machine.ready 0 up2 = true ∧ Machine.ready 1 up2 = true)
      ∧ (let s := modPairq 2 (fun p => { p with en := true, enabled := true, sqSize := 64, cqSize := 64, sqTail := 1, prio := 1 }) (drained0 up2);
          Machine.ready 2 s = true ∧ s.host.pairs[1].prio < s.host.pairs[2].prio ∧ nextSource s = some (.queue 2)) := by decide

theorem witness_CompletionsGoWhereTheirCommandsCameFrom :
    (getHeld.deferred = false ∧ getHeld.src = .queue 0 ∧ canSend up = true ∧ up.host.pairs[0].enabled = true ∧ 0 < cqFree up.host.pairs[0]
        ∧ up.host.pairs[0].wait = [] ∧ up.host.pairs[0].cqTail + 1 < up.host.pairs[0].cqSize)
      ∧ (let s := modPairq 0 (fun p => { p with cqTail := 63, cqHead := 40 }) up;
        0 < cqFree s.host.pairs[0] ∧ s.host.pairs[0].cqSize ≤ s.host.pairs[0].cqTail + 1)
      ∧ canSend (modHost (fun x => { x with bme := false }) up) = false
      ∧ cqFree (modPairq 0 (fun p => { p with cqHead := 1 }) up).host.pairs[0] = 0
      ∧ ({ getHeld with src := .mport }.src = .mport) := by decide

theorem witness_DeferredCommandsReportTheirEnd :
    (getHeld.deferred = false ∧ getHeld.entry.flags.getLsbD 2 = false)
      ∧ ({ getHeld with entry := { ent 0 [] with flags := 4 } }.entry.flags.getLsbD 2 = true)
      ∧ ({ getHeld with deferred := true }.deferred = true) := by decide

/-- `up` with the internal event queue full. -/
def full : State :=
  modPairq 0 (fun p => { p with wait := List.replicate 256 { tag := 0xFFFF, status := evCode .threshHigh, dt := 0, result := List.replicate 16 0, event := true } }) up

theorem witness_EventsAreMaskedNumberedAndKept :
    (let s := modHost (fun h => { h with evMask := 0xFFFFFFFFFFFFFFFF }) up;
      s.host.evMask.getLsbD (evBit .threshHigh) = true ∧ unmaskable.getLsbD (evBit .threshHigh) = false
        ∧ s.host.evMask.getLsbD (evBit .busStuck) = true ∧ unmaskable.getLsbD (evBit .busStuck) = true)
      ∧ (up.host.evMask.getLsbD (evBit .threshHigh) = false ∧ (internalEvents up).length < 256 ∧ up.host.heldBack = [] ∧ canSend up = true
        ∧ up.host.pairs[0].enabled = true ∧ 0 < cqFree up.host.pairs[0] ∧ up.host.pairs[0].wait = [])
      ∧ canSend (modHost (fun x => { x with bme := false }) up) = false := by decide

set_option maxRecDepth 8000 in
theorem witness_EventsAreHeldBack :
    256 ≤ (internalEvents full).length
      ∧ full.host.pairs[0].wait.any (sameThresh { tag := 0xFFFF, status := evCode .threshHigh, dt := 5, result := List.replicate 16 0, event := true }) = true
      ∧ full.host.pairs[0].wait.any (sameThresh { tag := 0xFFFF, status := evCode .threshLow, dt := 5, result := List.replicate 16 0, event := true }) = false := by
  decide

/-- `up` with BAR0 open, queue pair 0 not yet enabled, its bases and sizes valid. -/
def ready : State := modPairq 0 (fun p => { p with en := false, enabled := false, sqBase := 0x1000, cqBase := 0x2000 }) up

/-- A buffer of 4 KB. -/
def buf : Buffer := { addr := 0x1000, len := 4096, cookie := 5, fill := 0, firstWrite := none, bad := false }

/-- `up` with the return ring of class `c` set up. -/
def ringUp (c : Fin 4) : State := modRing c (fun r => { r with setup := true, size := 64 }) up

set_option maxRecDepth 4000 in
theorem witness_QueuesFollowTheirRegisters :
    (let p := up.host.pairs[0]; barOpen up = true ∧ p.enabled = true
        ∧ ¬ (5000 < p.sqSize ∧ ringSteps p.sqSize p.sqHead p.sqTail + ringSteps p.sqSize p.sqTail 5000 < p.sqSize)
        ∧ (3 < p.sqSize ∧ ringSteps p.sqSize p.sqHead p.sqTail + ringSteps p.sqSize p.sqTail 3 < p.sqSize))
      ∧ barOpen (modHost (fun x => { x with linkUp := false }) up) = false
      ∧ (let p := (modPairq 0 (fun p => { p with cqTail := 3 }) up).host.pairs[0];
          ¬ ringSteps p.cqSize p.cqHead 4 ≤ ringSteps p.cqSize p.cqHead p.cqTail ∧ 3 < p.cqSize
            ∧ ringSteps p.cqSize p.cqHead 3 ≤ ringSteps p.cqSize p.cqHead p.cqTail)
      ∧ (barOpen (ringUp 1) = true ∧ (ringUp 1).host.rings[1].setup = true ∧ up.host.rings[1].setup = false
          ∧ ¬ ringSteps (ringUp 1).host.rings[1].size 0 5 ≤ ringSteps (ringUp 1).host.rings[1].size 0 0 ∧ 0 < (ringUp 1).host.rings[1].size)
      ∧ (barOpen ready = true ∧ (1 : BitVec 32).getLsbD 0 = true ∧ ready.host.pairs[0].enabled = false ∧ ready.host.pairs[0].draining = false
          ∧ ready.pair.role ≠ 2 ∧ baseOk ready.host.pairs[0].sqBase (64 * 64) = true ∧ baseOk ready.host.pairs[0].cqBase (32 * 64) = true
          ∧ sizeOk ready.host.pairs[0].sqSize = true ∧ sizeOk ready.host.pairs[0].cqSize = true)
      ∧ (baseOk (modPairq 0 (fun p => { p with sqBase := 0x1001 }) ready).host.pairs[0].sqBase (64 * 64) = false)
      ∧ ((0 : BitVec 32).getLsbD 0 = false)
      ∧ (let s := modPairq 0 (fun p => { p with draining := true }) up;
          s.host.pairs[0].draining = true ∧ heldOf (.queue 0) s = 0 ∧ heldOf (.queue 0) (holding [getHeld] s) ≠ 0)
      ∧ (let s := modPairq 0 (fun p => { p with wait := [cqe] }) up;
          s.host.pairs[0].wait = cqe :: [] ∧ cqWritable 0 s = true ∧ cqWritable 1 s = false)
      ∧ (let s := modPairq 0 (fun p => { p with wait := [cqe], unwritten := [{ id := 0, fence := false, area := some (4096, [1]) }] }) up;
          cqe.event = false ∧ (s.host.pairs[(0 : Fin 32)].unwritten.head?.bind (·.area)).isSome = true)
      ∧ (let s := modRing 1 (fun r => { r with wait := [{ cookie := 0, bytes := 0, status := 0, serial := 0 }] }) (ringUp 1);
          s.host.held = [] ∧ (1 : Fin 4).val ≠ 3 ∧ s.host.rings[1].wait.length = 1 ∧ retWritable 1 s = true ∧ retWritable 2 s = false)
      ∧ (let s := modPairq 0 (fun p => { p with intEn := true, coalFrom := some (0, 100, 4) }) up;
          s.host.pairs[0].intEn = true ∧ coalDue s.host.pairs[0].coalFrom (now s) = true ∧ up.host.pairs[0].intEn = false)
      ∧ coalDue (modHost (fun x => { x with rrCoalFrom := some (0, 100, 4) }) up).host.rrCoalFrom (now up) = true
      ∧ coalDue up.host.rrCoalFrom (now up) = false := by decide

/-- BUF_POST of class 1: action, and two descriptors. -/
def postArgs (action : Byte) : List Byte := [action, 1, 2, 0]

theorem witness_HostInterfaceAnswersItsWrites :
    (postClass (Entry.args (ent 0 (postArgs 0))) = (0 : Fin 4).val + 1 ∧ postAction (Entry.args (ent 0 (postArgs 0))) = 0 ∧ heldBuffers 0 up = 0
        ∧ heldBuffers 0 (modRing 0 (fun r => { r with buffers := [buf] }) up) ≠ 0)
      ∧ (postAction (Entry.args (ent 0 (postArgs 1))) = 1 ∧ up.host.rings[0].setup = false ∧ (ringUp 0).host.rings[0].setup = true
          ∧ heldBuffers 0 (ringUp 0) + postCount (Entry.args (ent 0 (postArgs 1))) ≤ 65536)
      ∧ (postAction (Entry.args (ent 0 (postArgs 2))) ≠ 0 ∧ postAction (Entry.args (ent 0 (postArgs 2))) ≠ 1 ∧ (ringUp 0).host.rings[0].buffers = [])
      ∧ (barOpen up = true ∧ barOpen State.reset = false ∧ canSend up = true ∧ canSend (modHost (fun x => { x with bme := false }) up) = false)
      ∧ (up.host.linkUp = true ∧ State.reset.host.linkUp = false ∧ up.power.porstN = true ∧ up.power.st ≠ .dormant
          ∧ (modPower (fun p => { p with porstN := false }) up).power.porstN = false)
      ∧ (0x10000 ≤ 0x12340 ∧ 0x4008 < 0x10000 ∧ 0x4008 % 4 = 0 ∧ 0x4000 % 8 = 0 ∧ up.host.linkUp = true)
      ∧ (barOpen up = true ∧ up.host.pairs[1].enabled = false ∧ up.host.pairs[0].enabled = true)
      ∧ (let s := holding [{ getHeld with entry := { ent 0 [] with flags := 4, deadline := 1 } }] up;
          ((notBegun (.queue 0) s).filter fun h => h.tag == 7 && Entry.hasDeadline h.entry && decide (h.entry.deadline.toNat ≤ (now s).toNat)) ≠ []
            ∧ notBegun (.queue 1) s = [])
      ∧ (knownOpcode 0x0200 = true ∧ disallowed 0x0200 (ent 0 []) = false ∧ knownOpcode 0x0999 = false ∧ disallowed 0x0100 { ent 0 [] with src := .queue 1 } = true
          ∧ (fetch 0x0999 (ent 0 []) up).isSome = true ∧ (fetch 0x0999 { ent 0 [] with src := .queue 1 } up).isSome = false) := by decide

/-- Context 0 runs FM on path 0 and Wheel `w`. -/
def ctxOn (w : Fin 16) (s : State) : State :=
  modCtx 0 (fun x => { x with st := .running, std := .fm, freq := 98000000, wheel := some w, primary := some 0 })
    (modPath 0 (fun p => { p with run := .running, ctx := 0, source := 0, fin := 38400000, fout := 256000, m := 4, h := 4, firLen := 127 }) s)

/-- Every Wheel but `w` has failed. -/
def lone (w : Fin 16) (s : State) : State :=
  modCx (fun x => { x with wheels := upd (Vector.replicate 16 { Wheel.reset with failed := true }) w fun v => { v with failed := false } }) s

set_option maxRecDepth 4000 in
theorem witness_DeviceCommandsAnswerAndSet :
    (le (Entry.args (ent 0 [3])) 0 1 = 3 ∧ le (Entry.args (ent 0 [1])) 0 1 ≠ 3 ∧ inShield up = false
        ∧ inShield (modPair (fun p => { p with link := .up, role := 1, mode := 2 }) up) = true)
      ∧ exceeds 1 up = false ∧ exceeds 1 (modPath 0 (fun p => { p with run := .running, source := 7 }) up) = true
      ∧ (emptied 0 1).foldl (emptyWheel 0 1) (some (lone 14 (ctxOn 14 up))) = none
      ∧ ((emptied 0 1).foldl (emptyWheel 0 1) (some up)).isSome = true
      ∧ (let w := setProfile 1 0 (lone 0 (ctxOn 0 (modCx (fun x => { x with profile := 1 }) up)));
          (emptied 1 0) = [] ∧ reserveKept (placed w) w = false)
      ∧ reserveKept (placed (setProfile 0 1 up)) (setProfile 0 1 up) = true
      ∧ (up.power.st ≠ .recovery ∧ le (Entry.args (ent 0 [0])) 0 1 = 0 ∧ le (Entry.args (ent 0 [1])) 0 1 ≠ 0
          ∧ (modPower (fun p => { p with st := .recovery }) up).power.st = .recovery)
      ∧ (le (Entry.args (ent 0 (List.replicate 12 0 ++ [1]))) 12 1 = 1 ∧ le (Entry.args (ent 0 [])) 12 1 ≠ 1) := by decide

theorem witness_TimeNeverRunsBack : up.time.running = true ∧ State.reset.time.running = false := by decide

theorem witness_TickAdvancesDtExactly :
    (State.reset.time.residue < 9375 ∧ 0 ≤ 1832519 + State.reset.time.rateAdj
        ∧ ((((State.reset.time.dt.toNat * 65536 + State.reset.time.dtLow.toNat) * 9375 + State.reset.time.residue : Nat) : Int)
            + 4 * ((1832519 + State.reset.time.rateAdj) * 9375 + 3559) < 2 ^ 80 * 9375))
      ∧ ({ up.time with backup := true }.backup = true ∧ { up.time with backup := true, residue := 9374, rateAdj := -1832519 }.residue < 9375) := by decide

/-- TIME_SET to a DT with a mode, held, and what its step waits for. -/
def setHeld (mode : Byte) (v : DT) (aux : List Int) : Held := hd 0x0200 .timeSet (ent 0 ([mode, 0, 0, 0, 0, 0, 0, 0] ++ leBytes 8 (dtInt v))) aux

theorem witness_TimeSetActs :
    (le (Entry.args (setHeld 2 0 []).entry) 0 1 = 2 ∧ (modTime (fun x => { x with ppsQual := true }) up).time.ppsQual = true ∧ up.time.ppsQual = false)
      ∧ (le (Entry.args (setHeld 0 0 []).entry) 0 1 = 0 ∧ up.time.unset = true)
      ∧ (le (Entry.args (setHeld 1 5 []).entry) 0 1 = 1 ∧ (modTime (fun x => { x with unset := false }) up).time.unset = false
          ∧ (5 : DT).toNat < (now up).toNat ∧ (now up).toNat ≤ (0x2000000000 : DT).toNat) := by decide

/-! ### Witnesses: time, converters and tuners -/

/-- `up` with REF_MODE `m` and the loop in state `d`, both references qualified. -/
def ref (m : Int) (d : Disc) : State := modTime (fun x => { x with cfg := [(0x0100, m)], disc := d, refinQual := true, ppsQual := true }) up

/-- `up` with a slew running. -/
def slewing (cmd : Option Nat) : State :=
  modTime (fun x => { x with slew := some { left := 5, since := 0, cmd := cmd, cfgRate := true, began := 0 }, disc := .returning }) up

theorem witness_TimeSetActs_instant :
    (let s := holding [setHeld 0 0x2000000000 [1, 0, 1]] up;
        (waiting 0x0200 0 (moment 0 s)).filter (timeSetDue (now (moment 0 s))) = [setHeld 0 0x2000000000 [1, 0, 1]] ∧ s.time.unset = true)
      ∧ (let h := setHeld 0 0x2000000000 [1, 0, 1]; let s := holding [h] (modTime (fun x => { x with unset := false }) up);
          (waiting 0x0200 0 (moment 0 s)).filter (timeSetDue (now (moment 0 s))) = [h]
            ∧ (now s).toNat < (BitVec.ofNat 64 (le (Entry.args h.entry) 8 8)).toNat ∧ s.time.unset = false)
      ∧ (let h := setHeld 0 5 [1, 0, 1]; let s := holding [h] (modTime (fun x => { x with unset := false }) up);
          (waiting 0x0200 0 (moment 0 s)).filter (timeSetDue (now (moment 0 s))) = [h]
            ∧ (BitVec.ofNat 64 (le (Entry.args h.entry) 8 8)).toNat ≤ (now s).toNat)
      ∧ (let s := holding [setHeld 1 5 []] (slewing (some 0)); s.time.slew.isSome = true ∧ findHeld 0 s = some (setHeld 1 5 []))
      ∧ ((slewing none).time.slew.isSome = true ∧ (slewing none).time.disc = .returning ∧ (slewing none).time.decided = none) := by decide

theorem witness_ReferencesAreLostAndReturn :
    ((ref 1 .locked).time.refinQual = true ∧ modeNow (ref 1 .locked) = 1 ∧ tracking (ref 1 .locked).time.disc = true ∧ modeNow (ref 3 .locked) = 3
        ∧ modeNow (ref 2 .locked) = 2 ∧ tracking Disc.free = false)
      ∧ ((ref 2 .locked).time.ppsQual = true ∧ modeNow (ref 0 .free) = 0)
      ∧ (modeNow (ref 1 .holdover) = 1 ∧ (ref 1 .holdover).time.disc = .holdover ∧ (ref 3 .free).time.disc = .free)
      ∧ (let s := modTime (fun x => { x with ppsQual := false }) (ref 3 .returning);
          s.time.disc = .returning ∧ modeNow s = 3 ∧ s.time.ppsQual = false ∧ 10 * 2 ^ 32 ≤ dtSince s.time.returningSince (now (moment 0 s)))
      ∧ (let s := modTime (fun x => { x with ppsHigh := some 0 }) up;
          s.time.ppsHigh = some 0 ∧ usDt (fget s.time.cfg 0x0108).toNat ≤ dtSince 0 (now (moment 0 s)))
      ∧ (up.time.ppsHigh = none ∧ up.time.running = true ∧ (now (moment 0 up)).toNat % 2 ^ 32 < tickSpan up.time
          ∧ tickSpan up.time ≤ (now (moment 0x1080000000 up)).toNat % 2 ^ 32)
      ∧ (up.power.st ≠ .dormant ∧ (modPower (fun p => { p with st := .dormant }) (ref 1 .locked)).power.st = .dormant) := by decide

theorem witness_ReferenceSteersTheClock :
    ((ref 1 .acquire).time.refinQual = true ∧ modeNow (ref 1 .acquire) = 1 ∧ tracking Disc.acquire = true)
      ∧ (let s := ref 2 .acquire; s.time.ppsQual = true ∧ modeNow s = 2 ∧ s.time.measuring = false ∧ waiting 0x0200 0 (moment 0 s) = [] ∧ s.power.st ≠ .dormant)
      ∧ (let s := modTime (fun x => { x with fwdStep := some (7, 1) }) (ref 3 .returning);
          s.time.fwdStep = some (7, 1) ∧ (1 : DT).toNat ≤ (now (moment 0 s)).toNat ∧ s.time.disc = .returning)
      ∧ (let l := [its 0 0 [(0x0100, 1)], its 1 0 [(0x0100, 1)]];
          commits (hd 0x0202 .timeRefConfig (ent 0 (l.getD 0 []))) = false ∧ ofClass .lv (itemsOf (hd 0x0202 .timeRefConfig (ent 0 (l.getD 0 [])))) = []
            ∧ commits (hd 0x0202 .timeRefConfig (ent 0 (l.getD 1 []))) = true
            ∧ ofClass .lv (itemsOf (hd 0x0202 .timeRefConfig (ent 0 (its 0 0 [(0x0104, 200)])))) ≠ [])
      ∧ (let h := hd 0x0202 .timeRefConfig (ent 0 (its 1 0 [(0x0100, 0)])) [1, 1]; let s := holding [h] (ref 1 .locked);
          waiting 0x0202 0 (moment 0 s) = [h] ∧ h.aux = [1, 1] ∧ (1 : Int) ≤ dtInt (now (moment 0 s)) ∧ findHeld h.id s = some h ∧ s.pair.role ≠ 2
            ∧ s.time.slew = none ∧ commits h = true
            ∧ (let t := modTime (fun x => { x with shadow := [(0x0100, 0)] }) s;
                fget (fmerge (fmerge t.time.cfg (ofClass .lv (itemsOf h))) (t.time.shadow.filter refRow)) 0x0100 = 0) ∧ fget s.time.cfg 0x0100 ≠ 0)
      ∧ refoutOf (modTime (fun x => { x with cfg := [(0x0107, 1)] }) up).time ≠ refoutOf up.time := by decide

/-- `up` with both SPLLs running and declared locked. -/
def plls : State :=
  modTime (fun x => { x with plls := Vector.replicate 2 { Pll.stopped 0 with running := true, declared := true }, spareAligned := true }) up

/-- A held command of the SPLLs. -/
def pllHeld : Held := hd 0x0203 .timePllConfig (ent 0 (its 1 0 []))

theorem witness_SamplingPllsSwitch :
    (itemAction (Entry.args (ent 0 (its 0 1 []))) = 1 ∧ plls.time.spareAligned = true ∧ up.time.spareAligned = false
        ∧ itemAction (Entry.args (ent 0 (its 0 0 []))) = 0 ∧ commits (hd 0x0203 .timePllConfig (ent 0 (its 0 0 []))) = false)
      ∧ (plls.time.plls[(1 : Fin 2)].running = true ∧ plls.time.bothLost = false ∧ (modTime (fun x => { x with bothLost := true }) plls).time.bothLost = true)
      ∧ (plls.time.plls[sparePll plls.time].declared = true ∧ plls.time.phaseCmd = none ∧ plls.time.pllSeq = none)
      ∧ (let s := modTime (fun x => { x with bothLost := true, activeB := true, pllSeq := some { cmd := 0, stage := 5, refMult := 0, icp := 0, stopOld := false } }) plls;
          s.time.bothLost = true ∧ s.time.pllSeq.map (·.stage) = some 5 ∧ s.time.activeB ≠ false ∧ s.time.activeB = true)
      ∧ (let q : PllSeq := { cmd := 0, stage := 1, refMult := 0, icp := 0, stopOld := false };
          let s := holding [pllHeld] (modTime (fun x => { x with pllSeq := some q }) plls);
          s.time.pllSeq = some q ∧ q.stage = 1 ∧ findHeld q.cmd s = some pllHeld)
      ∧ (plls.time.plls[activePll plls.time].declared = true ∧ (modTime (fun x => { x with spareAligned := false }) plls).time.spareAligned = false)
      ∧ (let s := modTime (fun x => { x with switchedAt := some 0 }) up;
          s.time.switchedAt = some 0 ∧ s.time.spareAligned = false ∧ 2 ^ 32 ≤ dtSince 0 (now (moment 0 s)) ∧ fget s.time.cfg 0x010B = 1
            ∧ fget (modTime (fun x => { x with cfg := [(0x010B, 0)] }) s).time.cfg 0x010B ≠ 1)
      ∧ (let h := hd 0x0204 .timePhaseStep (ent 0 [3, 0]); let s := holding [h] (modTime (fun x => { x with phaseCmd := some (0, 3) }) up);
          s.time.phaseCmd = some (0, 3) ∧ findHeld 0 s = some h) := by decide

/-- `up` with input A live in automatic gain, its hold running since 0. -/
def agc : State := modWb 0 (fun x => { x with holdFrom := some 0 }) up

theorem witness_GainControlMoves :
    (let v := gainView (.wb 0) agc; v.live = true ∧ v.auto = true ∧ (v.target + 2) * 100 < 0 ∧ (-5000 : Int) ≤ (v.target + 2) * 100
        ∧ (-5000 : Int) < (v.target - 4) * 100 ∧ v.holdFrom = some 0 ∧ v.hold ≤ dtSince 0 (now (moment 0 agc)) ∧ v.gain < v.hi ∧ v.read = false
        ∧ v.count ≤ 4 ∧ 3 < v.count)
      ∧ (gainView (.pt 0) up).live = false
      ∧ (let s := modTuner 0 (fun x => { x with st := .rx, holdFrom := some 0 }) up; let v := gainView (.pt 0) s;
          v.live = true ∧ v.auto = true ∧ v.gain < v.hi ∧ v.hold ≤ dtSince 0 (now (moment 0 s)))
      ∧ (let h := hd 0x0300 .rfWbConfig (ent 0 (its 0 0 [(0x0200, 0)])); fhas (itemsOf h) 0x0200 = true
          ∧ inputRuns 0 (modCarver 0 (fun x => { x with cfg := [(0x0300, 1)] }) up) = true ∧ inputRuns 0 up = false ∧ fhas (itemsOf h) 0x0202 = false)
      ∧ (let h := hd 0x0300 .rfWbConfig (ent 0 (its 0 0 [(0x0202, 5)])); fhas (itemsOf h) 0x0200 = false ∧ fhas (itemsOf h) 0x0202 = true
          ∧ jobReadsInput 0 up = false ∧ up.rf.wb[0].gain < fget (itemsOf h) 0x0202 ∧ parked h = false)
      ∧ (let h := hd 0x0300 .rfWbConfig (ent 0 (its 0 0 [(0x0202, 5)])) [1]; let s := holding [h] up; parked h = true
          ∧ (waitingNow 0x0300 0 s).filter (fun x => !wbRaises 0 x s || !jobReadsInput 0 s) = [h] ∧ fhas (lastValues [h]) 0x0202 = true)
      ∧ (let h := hd 0x0300 .rfWbConfig (ent 0 (its 0 0 [(0x0200, 0)])) [1]; let s := holding [h] (modCarver 0 (fun x => { x with cfg := [(0x0300, 1)] }) up);
          (waitingNow 0x0300 0 s).filter (fun x => !wbRaises 0 x s || !jobReadsInput 0 s) = [h] ∧ (fhas (itemsOf h) 0x0200 && inputRuns 0 s) = true) := by decide

/-- A job that reads input A through path 0 and carver 0. -/
def jobbed (s : State) : State :=
  modSg (fun g => { g with
    jobs := [{ id := 0, running := true, lport := false, ctx := 0, quantity := 0, pathSel := 0, duration := 0, start := 0, planned := 0,
               expected := none, bandwidth := 0, path := some 0, own := 0, tuner := none, carver := none, wheel := none, began := 0, cStart := 0,
               tone := 0, toneBad := false, std := .fm, freq := 0, carverCfg := [], unsealed := false, fault := false, broken := false, tap := none,
               tapped := 0, tapClips := 0, gainSteps := [] }] }) s

theorem witness_GainControlWaitsForJobs :
    let s := jobbed (modCarver 0 (fun x => { x with cfg := [(0x0300, 1)] }) agc)
    (gainView (.wb 0) s).read = true ∧ (gainView (.wb 0) s).live = true ∧ (gainView (.wb 0) s).gain < (gainView (.wb 0) s).hi
      ∧ jobReadsInput 0 s = true := by decide

theorem witness_CarversCommitAtFrameBoundary :
    (let h := hd 0x0301 .rfCarverSet (ent 1 (its 0 0 [(0x0301, 7)])); (ent 1 []).target.toNat = (1 : Fin 8).val ∧ fhas (itemsOf h) 0x0302 = false
        ∧ (1 : Fin 8).val ≠ 7 ∧ commits h = false)
      ∧ (let h := hd 0x0301 .rfCarverSet (ent 1 (its 1 0 [(0x0300, 1), (0x0301, 7)])) [1]; let s := holding [h] up;
          commits h = true ∧ sourceOk (fget (carverNew 1 h up) 0x0300) up = true ∧ stopsFed 1 (carverNew 1 h up) up = false ∧ jobReadsCarver 1 up = false
            ∧ carverCmds 1 (moment 0 s) = [h])
      ∧ (let h := hd 0x0301 .rfCarverSet (ent 0 (its 1 0 [(0x0301, 0x28d55555)])) [1];
          let s := holding [h] (ctxOn 0 (modCarver 0 (fun x => { x with cfg := [(0x0300, 1), (0x0301, 0x28d55555)] }) up));
          carverCmds 0 (moment 0 s) = [h] ∧ sourceOk (fget (carverNew 0 h s) 0x0300) s = true ∧ stopsFed 0 (carverNew 0 h s) s = false
            ∧ jobReadsCarver 0 s = false ∧ fget (carverNew 0 h s) 0x0300 = fget s.rf.carvers[0].cfg 0x0300 ∧ pathsOn 0 s = [0]
            ∧ ∀ p ∈ pathsOn 0 s, bandCovers (fget (carverNew 0 h s) 0x0301) (fget (carverNew 0 h s) 0x0302) (pathBand p s).1 (pathBand p s).2 = true)
      ∧ (carverCmds 0 (moment 0 up) = [] ∧ up.rf.carvers[0].resumes = false
          ∧ (modCarver 0 (fun x => { x with stopped := true, resumes := true }) up).rf.carvers[0].resumes = true) := by decide

/-- A tuner command on tuner 0. -/
def ptHeld (op : Nat) (i : Entry → Instr) (param : List Byte) (aux : List Int := []) : Held := hd op i (ent 0 param) aux

/-- `up` with tuner 0 as `f` makes it. -/
def tun (f : Tuner → Tuner) : State := modTuner 0 f up

/-- A span of samples that every test of R436 passes. -/
def calBlock : CalBlock := { clip := false, strong := 4096, rms := -1000, power := 1000, top := 10, carrier := 10, ac := 1000, square := 10 }

/-- A channel change whose three calibrations are good. -/
def change : ChannelChange :=
  { offsetSpan := calBlock, imageSpan := calBlock, offset := ⟨5, 0⟩, bandwidth := ⟨10, 0⟩, irGain := ⟨100, 0⟩, irPhase := ⟨200, 0⟩, trim := 3, band := 10,
    temp := 40 }

theorem witness_TunersChangeState :
    (le (Entry.args (ptHeld 0x0302 .rfPtState [1]).entry) 0 1 = 1 ∧ (let a := Entry.args (ptHeld 0x0302 .rfPtState [0, 3]).entry; le a 0 1 = 0 ∧ le a 1 1 = 3)
        ∧ up.rf.tuners[0].freq = none ∧ (tun (fun x => { x with st := .failed })).rf.tuners[0].st = .failed)
      ∧ (let x := (tun (fun x => { x with st := .rx, freq := some 98000000 })).rf.tuners[0];
          x.st = .rx ∧ x.freq ≠ none ∧ x.change = none ∧ x.target = none ∧ x.unavailable = false)
      ∧ (let a := Entry.args (ptHeld 0x0302 .rfPtState [0, 1]).entry; le a 0 1 = 0 ∧ le a 1 1 = 1 ∧ up.rf.tuners[0].st ≠ .failed ∧ up.rf.tuners[0].st ≠ .standby
          ∧ jobReadsTuner 0 up = false ∧ feeds 0 up = false ∧ up.rf.tuners[0].unavailable = false)
      ∧ (let s := modPath 3 (fun p => { p with run := .running, source := 8 }) (tun (fun x => { x with st := .rx }));
          le (Entry.args (ptHeld 0x0302 .rfPtState [0, 0]).entry) 1 1 = 0 ∧ s.rf.tuners[0].st ≠ .sleep ∧ jobReadsTuner 0 s = false ∧ feeds 0 s = true)
      ∧ (let s := tun (fun x => { x with target := some .rx }); s.rf.tuners[0].target = some .rx ∧ s.rf.tuners[0].probe = none
          ∧ tunerFires 0 (moment 0 s) = false ∧ nextState s.rf.tuners[0] .rx ≠ .rx)
      ∧ (let h := ptHeld 0x0302 .rfPtState [0, 1] [1]; let s := holding [h] (tun (fun x => { x with target := some .standby, targetCmd := some 0 }));
          nextState s.rf.tuners[0] .standby = .standby ∧ s.rf.tuners[0].targetCmd = some 0 ∧ findHeld 0 s = some h) := by decide

theorem witness_TunersChangeState_commits :
    (commits (ptHeld 0x0303 .rfPtTune (its 0 0 [(0x0400, 98000000)])) = false ∧ jobReadsTuner 0 up = false
          ∧ parked (ptHeld 0x0303 .rfPtTune []) = false ∧ tunerRuns up.rf.tuners[0] = false)
      ∧ (let h := ptHeld 0x0303 .rfPtTune (its 0 0 [(0x0407, 5)]); let s := tun (fun x => { x with st := .rx });
          commits h = false ∧ parked h = false ∧ tunerRuns s.rf.tuners[0] = true ∧ ofClass .lv (itemsOf h) ≠ [] ∧ jobReadsTuner 0 s = false
            ∧ parked { h with aux := [1] } = true)
      ∧ (let h := ptHeld 0x0303 .rfPtTune (its 1 0 [(0x0400, 98000000)]); commits h = true ∧ up.rf.tuners[0].st = .sleep ∧ feeds 0 up = false
          ∧ fhas (tunerNew up.rf.tuners[0] (itemsOf h)) 0x0400 = true ∧ onlyExcluded up.rf.tuners[0] (planOf (tunerNew up.rf.tuners[0] (itemsOf h))) = false)
      ∧ (let h := ptHeld 0x0303 .rfPtTune []; let p : Plan := { n := 60, dlog := 0, mult := 0 };
          let s := holding [h] (tun (fun x => { x with st := .rx, plan := some p, change := some { fromTable := false, cmd := some 0, ctx := none } }));
          s.rf.tuners[0].change.isSome = true ∧ s.rf.tuners[0].plan = some p ∧ s.rf.tuners[0].st = .rx ∧ findHeld 0 s = some h
            ∧ excluded s.rf.tuners[0] (changeBand s.rf.tuners[0] { fromTable := false, cmd := some 0, ctx := none } p change) = false
            ∧ (judgedChange change).offset = .ok ∧ (judgedChange change).filter = .ok ∧ (judgedChange change).image = .ok)
      ∧ (let x := (tun (fun x => { x with freq := some 98000000, bands := upd x.bands 10 fun b => { b with low := 3200000, high := 6400000 } })).rf.tuners[0];
          change.band ∈ searchBands x (planOf [(0x0400, 98000000)]))
      ∧ ((tun (fun x => { x with st := .synth })).rf.tuners[0].st = .synth)
      ∧ (let x := (tun (fun x => { x with st := .failed })).rf.tuners[0]; x.st = .failed ∧ x.target = none ∧ x.retest = none) := by decide

/-- A tuner whose plan lies on band 10, which is excluded or not. -/
def onBand (e : Bool) : Tuner :=
  (tun (fun x => { x with st := .synth, change := some { fromTable := true, cmd := none, ctx := none }, plan := some (planOf [(0x0400, 98000000)]), freq := some 98000000, bands := upd x.bands 10 fun b => { b with low := 3200000, high := 6400000, exclude := e } })).rf.tuners[0]

theorem witness_TunersChangeState_bands :
    ((onBand false).st = .synth ∧ (onBand false).change.isSome = true ∧ searchStart (onBand false) (planOf [(0x0400, 98000000)]) = some 10)
      ∧ (onlyExcluded (onBand true) (planOf [(0x0400, 98000000)]) = true ∧ (onBand true).plan = some (planOf [(0x0400, 98000000)]) ∧ (onBand true).st ≠ .failed
          ∧ (onBand true).st ≠ .rx ∧ (onBand true).freq ≠ none ∧ ({ onBand true with change := none }).change = none) := by decide +kernel

theorem witness_TunerTablesAndProbes :
    ((ent 0 []).target.toNat = (0 : Fin 4).val ∧ (tun (fun x => { x with recallDirty := true })).rf.tuners[0].recallDirty = true)
      ∧ (2 * (fget (itemsOf (ptHeld 0x0306 .rfProbe (its 0 0 []))) 0x0601).natAbs ≤ (fget up.rf.tuners[0].cfg 0x0403).toNat
          ∧ up.rf.tuners[0].st = .sleep ∧ (let x := (tun (fun x => { x with st := .rx })).rf.tuners[0]; x.st ≠ .sleep ∧ x.st ≠ .standby ∧ x.st ≠ .failed))
      ∧ (let h := ptHeld 0x0306 .rfProbe (its 0 0 []) [1, 0]; let s := holding [h] (tun (fun x => { x with st := .rx }));
          waiting 0x0306 0 (moment 0 s) = [h] ∧ settled s.rf.tuners[0] = true ∧ jobReadsTuner 0 (moment 0 s) = false ∧ tunerFires 0 (moment 0 s) = false)
      ∧ (let h := ptHeld 0x0306 .rfProbe (its 0 0 []) [1, 0]; let s := holding [h] (tun (fun x => { x with probe := some (0, [], true) }));
          s.rf.tuners[0].probe = some (0, [], true) ∧ s.rf.tuners[0].change.isSome = false ∧ findHeld 0 s = some h ∧ (∀ p : Fin 64, s.cx.paths[p].fade = none ∧ s.cx.paths[p].queued = none))
      ∧ (let h := ptHeld 0x0306 .rfProbe (its 0 0 []) [1, 0]; let s := holding [h] up;
          waiting 0x0306 0 (moment 0 s) = [h] ∧ Entry.hasDeadline h.entry = false ∧ msDt 2 ≤ dtSince (BitVec.ofInt 64 (h.aux.getD 1 0)) (now (moment 0 s))
            ∧ settled s.rf.tuners[0] = false) := by decide

/-- `up` with the Slip as `f` makes it and INJ_EN high. -/
def slp (f : SlipSt → SlipSt) : State := modPower (fun p => { p with injEn := true }) (modSlip f up)

theorem witness_SlipIsSharedAndSupervises :
    (let h := hd 0x0305 .rfSlipConfig (ent 0 (its 1 0 [(0x0605, 1)])); let off := hd 0x0305 .rfSlipConfig (ent 0 (its 1 0 [(0x0605, 0)]));
      slipRefused (applyItems off ([], [])).1 up = none ∧ commits off = true ∧ up.rf.slip.owner = .nobody ∧ commits h = true
        ∧ (slp (fun x => { x with owner := .saggar })).rf.slip.owner = .saggar ∧ fget (applyItems h ([], [])).1 0x0605 ≠ 0
        ∧ parked h = false ∧ fget up.rf.slip.cfg 0x0605 = 0 ∧ slipDue up = false)
      ∧ (let h := hd 0x0307 .rfSlipConfig (ent 0 (its 1 0 [(0x0605, 0)])) [1]; let s := holding [h] (slp (fun x => { x with owner := .host, cfg := [(0x0605, 1)] }));
          parked { h with aux := [] } = false ∧ fget s.rf.slip.cfg 0x0605 ≠ 0 ∧ parked h = true ∧ waitingNow 0x0307 0 s = [h] ∧ s.rf.slip.owner = .host)
      ∧ slipRefused [(0x0605, 3), (0x0607, 1000000000)] (slp id) = some .errState
      ∧ slipRefused [(0x0605, 3), (0x0609, 2), (0x0607, 1000000000)] (slp id) = some .errParam
      ∧ slipRefused [(0x0605, 1), (0x0607, 1000000000)] (slp (fun x => { x with owner := .saggar })) = none
      ∧ (let s := slp (fun x => { x with emitting := true, owner := .host, cfg := [(0x0605, 1)] });
          s.rf.slip.emitting = true ∧ s.rf.slip.owner = .host ∧ fget s.rf.slip.cfg 0x0606 = 0)
      ∧ ((slp (fun x => { x with sgWaiting := true })).rf.slip.sgWaiting = true ∧ up.rf.slip.sgWaiting = false)
      ∧ (up.power.st ≠ .dormant ∧ (modPower (fun p => { p with st := .dormant }) up).power.st = .dormant ∧ supDue (moment 0 up) = true ∧ supDue (moment 0 (slp (fun x => { x with lastAt := some 0x1000000000 }))) = false)
      ∧ (fget up.rf.slip.cfg 0x0605 < 2 ∧ fget (slp (fun x => { x with cfg := [(0x0605, 3)] })).rf.slip.cfg 0x0605 = 3 ∧ up.rf.slip.owner ≠ .host)
      ∧ (let s := slp (fun x => { x with cfg := [(0x0605, 3)], owner := .host, baseline := some 4 });
          s.rf.slip.owner = .host ∧ s.power.injEn = true ∧ jobReadsSide (fget s.rf.slip.cfg 0x0609).toNat (moment 0 s) = false ∧ s.rf.slip.baseline = some 4)
      ∧ (let s := slp (fun x => { x with cfg := [(0x0605, 2)], owner := .host, learnCount := 15 });
          fget s.rf.slip.cfg 0x0605 = 2 ∧ jobReadsSide (fget s.rf.slip.cfg 0x0609).toNat (moment 0 s) = false ∧ s.rf.slip.learnCount < 16) := by decide +kernel

/-! ### Witnesses: paths and contexts -/

/-- `up` with carver 0 on input A at 98 MHz. -/
def carved : State := modCarver 0 (fun x => { x with cfg := [(0x0300, 1), (0x0301, 0x28d55555)] }) up

/-- `carved` with FM context 0 running on path 0 and Wheel 0, the context changed by `f`, its path by `g`. -/
def fm (f : Ctx → Ctx) (g : Path → Path) : State := modCtx 0 f (modPath 0 g (ctxOn 0 carved))

/-- A command on context 0. -/
def cxHeld (op : Nat) (i : Entry → Instr) (param : List Byte) (aux : List Int := []) : Held := hd op i (ent 0 param) aux

/-- A sample at f_mid. -/
def quiet : Sample := { i := 0, q := 0, clip := false }

/-- A path whose block is due: with the increment 0 of a path never reset, one sample feeds all its outputs. -/
theorem witness_PathsDeliverAndReset_block :
    (let x := (moment 0 (fm id id)).cx.paths[0]; x.run = .running ∧ (x.makeBlock 0 x.next [quiet]).isSome = true ∧ x.makeBlock 0 x.next [] = none)
      ∧ (let m := moment 0 (fm id fun p => { p with run := .withholding, madeFrom := 0x1000000000 }); (m.cx.paths[0].catchUp (now m)).made < settling m.cx.paths[0])
      ∧ (let m := moment 0 (fm id fun p => { p with run := .withholding }); let x := m.cx.paths[0]; (x.begin_ (now m) (syncStamp x 5) [quiet]).isSome = true) := by
  decide +kernel

theorem witness_PathsDeliverAndReset :
    ((fm id id).cx.paths[0].run = .running ∧ up.cx.paths[0].run ≠ .running)
      ∧ (let s := fm id fun p => { p with run := .withholding, gapFrom := some 5 }; s.cx.paths[0].run = .withholding ∧ s.cx.paths[0].gapFrom = some 5
          ∧ (fm id fun p => { p with run := .withholding }).cx.paths[0].gapFrom = none)
      ∧ (let s := fm id fun p => { p with run := .hold }; s.cx.paths[0].run = .hold ∧ delivers s.cx.paths[0].source s = true ∧ s.time.bothLost = false)
      ∧ (let a := Entry.args (ent 0 (leBytes 8 0x1080000000 ++ [1, 0, 0, 0, 0, 0, 0, 0, 0])); syncCtxs a = [0] ∧ (syncCtxs a).all (namedOpen up) = false
          ∧ (syncCtxs a).all (namedOpen (fm id id)) = true ∧ (syncCtxs a).any (namedRead (fm id id)) = false ∧ (syncCtxs a).all (· < 64) = true)
      ∧ (let h := cxHeld 0x0409 .ctxSync []; let y : SyncCmd := { cmd := 0, at_ := 5, waiting := [0], delivered := 0, left := 0 };
          let s := holding [h] (modCx (fun x => { x with syncs := [y] }) (fm id fun p => { p with grid := some 5, run := .hold }));
          let r := modPath 0 (fun p => { p with run := .running }) s;
          syncAwaits 0 (moment 0 r) = true ∧ r.cx.paths[0].run = .running ∧ s.cx.paths[0].grid = some 5 ∧ s.cx.paths[0].run = .hold ∧ s.cx.syncs = [y]
            ∧ y.waiting = [s.cx.paths[0].ctx] ∧ findHeld y.cmd s = some h ∧ (5 : DT).toNat + 10 * 2 ^ 32 ≤ (now (moment 0 s)).toNat) := by decide +kernel

/-- `fm` with its carver at DECIM 16, whose group delay the spec gives. -/
def fm16 : State := modCarver 0 (fun x => { x with cfg := fset x.cfg 0x0302 16 }) (fm id id)

theorem ratio_cases (n : Int) (d : Nat) : ratio n d = n / d ∨ ratio n d = n / d + 1 := by
  unfold ratio
  split
  · exact Or.inl rfl
  · split
    · exact Or.inr rfl
    · exact Or.inl rfl

/-- A CTX_SYNC whose T, of 9 s, has passed at 16 s, whichever way the delays are rounded. -/
theorem witness_PathsDeliverAndReset_late :
    (0 : Fin 64) ∈ pathsOf 0 fm16 ∧ fm16.cx.paths[(0 : Fin 64)].run = .running
      ∧ resetDue 0 0x0900000000 fm16 + (outSpan 1 fm16.cx.paths[(0 : Fin 64)] : Int) < dtInt (now fm16) := by
  refine ⟨by decide +kernel, by decide +kernel, ?_⟩
  have h1 : tauHalf fm16.cx.paths[(0 : Fin 64)] = 21847 := by decide +kernel
  have h2 : fm16.cx.paths[(0 : Fin 64)].fin = 38400000 := by decide +kernel
  have h3 : fm16.cx.paths[(0 : Fin 64)].source = 0 := by decide +kernel
  have h4 : carverGroupDelay fm16.rf.carvers[(0 : Fin 8)].cfg fm16 = 1071 := by decide +kernel
  have h5 : outSpan (settling fm16.cx.paths[(0 : Fin 64)]) fm16.cx.paths[(0 : Fin 64)] = 1627389 := by decide +kernel
  have h6 : outSpan 1 fm16.cx.paths[(0 : Fin 64)] = 16777 := by decide +kernel
  have h7 : dtInt (now fm16) = 0x1000000000 := by decide +kernel
  have h8 : srcCarver 0 = some 0 := by decide
  unfold resetDue tauPs sourceDelay
  simp only [h1, h2, h3, h4, h5, h6, h7, h8]
  rcases ratio_cases (21847 * 1000000000000) (2 * 38400000) with h | h <;>
    rcases ratio_cases (1071 * 10000000) 6144 with k | k <;> (rw [show ((21847 : Nat) : Int) = 21847 from rfl, h, k]; decide)

theorem witness_CoefficientSwapsFade :
    (let h := cxHeld 0x0407 .ctxCoefLoad [1, 0, 1, 0]; let a := Entry.args h.entry; let s := holding [h] (fm id fun p => { p with firLen := 1 });
        openCtx h s = some 0 ∧ pathsNamed 0 (le a 1 1) s = some (0 :: []) ∧ coefCount a = s.cx.paths[0].firLen ∧ bankBusy true s.cx.paths[0] = false
          ∧ bankBusy false s.cx.paths[0] = true ∧ coefCount a ≠ (fm id id).cx.paths[0].firLen)
      ∧ (let h := cxHeld 0x0408 .ctxCoefSwap (its 0 0 [(0x0704, 1)]); openCtx h (fm id id) = some 0
          ∧ pathsNamed 0 (itemArg8 (Entry.args h.entry)) (fm id id) = some (0 :: []) ∧ (fm id id).cx.paths[0].fade = none
          ∧ (fget (itemsOf h) 0x0704 == 1) ≠ (fm id id).cx.paths[0].activeB ∧ (fget (itemsOf h) 0x0704 == 1) = (fm id fun p => { p with activeB := true }).cx.paths[0].activeB)
      ∧ (let q : Swap := { target := true, len := 64, cmd := 0 }; let h := cxHeld 0x0408 .ctxCoefSwap []; let s := holding [h] (fm id fun p => { p with fade := some (q, true) });
          (fm id fun p => { p with fade := some (q, false) }).cx.paths[0].fade = some (q, false) ∧ s.cx.paths[0].fade = some (q, true)
            ∧ s.cx.paths[0].run = .running ∧ findHeld q.cmd s = some h ∧ s.cx.paths[0].queued = none
            ∧ (modPath 0 (fun p => { p with queued := some q }) s).cx.paths[0].queued = some q
            ∧ s.cx.paths[0].fadePos < fadeSamples s.cx.paths[0] q ∧ fadeSamples s.cx.paths[0] q ≤ (modPath 0 (fun p => { p with fadePos := 1000 }) s).cx.paths[0].fadePos) := by
  decide +kernel

theorem witness_ThresholdsJudgePower :
    (let h := cxHeld 0x0404 .ctxSetThresholds (its 0 0 []); openCtx h (fm id id) = some 0 ∧ pathsNamed 0 (itemArg8 (Entry.args h.entry)) (fm id id) = some [0]
        ∧ levelsOk (fmerge (fm id id).cx.paths[0].cfg (itemsOf h)) = true ∧ openCtx h up = none)
      ∧ levelsOk (fmerge [] (itemsOf (cxHeld 0x0404 .ctxSetThresholds (its 0 0 [(0x0707, -1100)])))) = false
      ∧ (let s := fm id fun p => { p with powers := [(5, 256, 7)], cfg := [(0x0706, 3), (0x070B, 0), (0x070C, 0)] }; let x := s.cx.paths[0];
          x.powers = (5, 256, 7) :: [] ∧ x.run = .running ∧ testBit (fget x.cfg 0x0706).toNat 0 = true ∧ testBit (fget x.cfg 0x0706).toNat 1 = true
            ∧ (x.high.step (decide (fget x.cfg 0x0707 < 200)) (dwellBlocks 0 1000) 7).2 = true
            ∧ (x.low.step (decide (-1200 < fget x.cfg 0x0708)) (dwellBlocks 0 1000) 7).2 = true) := by decide +kernel

theorem witness_DwellCountsConsecutiveBlocks : Comparator.reset.blocks = 0 ∧ ([5] : List DT) ≠ [] ∧ ([5] : List DT).length < 2 := by decide

/-- Every tuner has failed. -/
def deaf (s : State) : State :=
  let f : Tuner → Tuner := fun x => { x with st := .failed }
  modTuner 0 f (modTuner 1 f (modTuner 2 f (modTuner 3 f s)))

/-- A CTX_OPEN of FM at 98 MHz on context 1, its source carver 0 or any. -/
def openHeld (pref : Int) : Held := hd 0x0400 .ctxOpen (ent 1 (its 0 0 [(0x0800, 1), (0x0801, 98000000), (0x0802, pref)]))

theorem witness_ContextCommandsAreJudged_open :
    (let h := openHeld 0; let a := Entry.args h.entry; let s := holding [h] (fm id id); let cfg := openSet 1 .fm (items a) s;
      s.cx.ctxs[1].st = .closed ∧ s.cx.ctxs[0].st ≠ .closed ∧ itemStd a = some .fm ∧ itemStd (Entry.args (ent 1 (its 0 0 []))) = none ∧ fhas (items a) 0x0801 = true
        ∧ blendOk .fm cfg = true ∧ namedMisses (fget cfg 0x0802).toNat 98000000 (halfBand .fm cfg) s = false ∧ withinLimits .fm s = true
        ∧ openSource (fget cfg 0x0802).toNat 98000000 (halfBand .fm cfg) s = some 0
        ∧ (match putContext 1 .fm cfg 0 s with
          | some v => (v.cx.paths[(v.cx.ctxs[1].primary.getD 0)]).trim.natAbs ≤ trimBound v.cx.paths[(v.cx.ctxs[1].primary.getD 0)]
          | none => false) = true)
      ∧ (let h := openHeld 14; let a := Entry.args h.entry; let s := holding [h] (deaf up); let cfg := openSet 1 .fm (items a) s;
          namedMisses (fget cfg 0x0802).toNat 98000000 (halfBand .fm cfg) s = true ∧ itemStd a = some .fm)
      ∧ fhas (items (Entry.args (ent 1 (its 0 0 [(0x0800, 1)])))) 0x0801 = false
      ∧ (let h := openHeld 0; let a := Entry.args h.entry; let s := holding [h] (fm id id);
          blendOk .fm (openSet 1 .fm (items a ++ [(0x080A, 100), (0x080B, 900)]) s) = false
            ∧ blendOk .fm (openSet 0 .fm (items a) s) = true ∧ namedMisses (fget (openSet 0 .fm (items a) s) 0x0802).toNat 98000000 (halfBand .fm (openSet 0 .fm (items a) s)) s = false)
      ∧ (let s := deaf up; openSource 0 98000000 100000 s = none ∧ withinLimits .fm s = true ∧ namedMisses 0 98000000 100000 s = false)
      ∧ withinLimits .fm (modCx (fun x => { x with ctxs := Vector.replicate 64 { Ctx.reset with st := .running, std := .fm } }) up) = false
      := by decide +kernel

theorem witness_ContextCommandsAreJudged :
    (let h := cxHeld 0x0401 .ctxRetune (its 0 0 [(0x0801, 98100000)]); let s := holding [h] (fm id id); let x := s.cx.ctxs[0];
        openCtx h up = none ∧ openCtx h s = some 0 ∧ fhas (itemsOf h) 0x0801 = true ∧ blendOk x.std (retuned x (itemsOf h)) = true
          ∧ (retuneSource x (itemsOf h) s).isSome = true ∧ (regrow 0 s (withLive 0 (fmerge x.shadow (itemsOf h)) s)).isSome = true ∧ namedRead s 0 = false
          ∧ namedRead (jobbed s) 0 = true)
      ∧ (let h := cxHeld 0x0401 .ctxRetune (its 0 0 [(0x0801, 208000000)]); let s := holding [h] (deaf (fm id id)); retuneSource s.cx.ctxs[0] (itemsOf h) s = none
          ∧ blendOk s.cx.ctxs[0].std (retuned s.cx.ctxs[0] (itemsOf h)) = true)
      ∧ (let h := cxHeld 0x0403 .ctxStage (its 0 0 [(0x0801, 98100000)]); let s := holding [h] (fm id id);
          up.cx.ctxs[0].st = .closed ∧ s.cx.ctxs[0].st ≠ .closed ∧ ofClass .lk (itemsOf h) = [] ∧ trimOk 0 (itemsOf h) s = true ∧ ofClass .lv (itemsOf h) = []
            ∧ (regrow 0 s (withLive 0 [] s)).isSome = true)
      ∧ trimOk 0 (itemsOf (cxHeld 0x0403 .ctxStage (its 0 0 [(0x0702, 100000000000)]))) (fm id id) = false
      ∧ (let h := cxHeld 0x0403 .ctxStage (its 0 0 [(0x0703, 63)]); let s := holding [h] (fm id fun p => { p with run := .hold });
          ofClass .lk (itemsOf h) ≠ [] ∧ pathRuns 0 s = false ∧ trimOk 0 (itemsOf h) s = true ∧ ofClass .lv (itemsOf h) = [] ∧ waiting 0x0405 0 s = []
            ∧ (regrow 0 s (withLive 0 [] s)).isSome = true ∧ trimOk 0 (itemsOf h) (fm id id) = true)
      ∧ (ofClass .lk (itemsOf (cxHeld 0x0403 .ctxStage (its 0 0 [(0x0703, 63)]))) ≠ [] ∧ pathRuns 0 (fm id id) = true ∧ pathRuns 0 (fm id fun p => { p with run := .hold }) = false)
      ∧ (let s := fm id id; let x := s.cx.ctxs[0]; itemAction (Entry.args (ent 0 (its 0 1 []))) = 1 ∧ itemAction (Entry.args (ent 0 (its 0 0 []))) = 0
          ∧ blendOk x.std (committed x) = true ∧ commitMoves x s = false ∧ commitMisses x s = false ∧ (regrow 0 s (withLive 0 x.shadow s)).isSome = true)
      ∧ (let s := modCarver 0 (fun x => { x with cfg := [(0x0300, 1), (0x0301, 0x20000000)] }) (fm id id); commitMisses s.cx.ctxs[0] s = true)
      ∧ (let x := (fm (fun x => { x with shadow := [(0x080A, 100), (0x080B, 900)] }) id).cx.ctxs[0]; blendOk x.std (committed x) = false)
      ∧ waiting 0x0405 0 (holding [cxHeld 0x0403 .ctxStage []] (fm id id)) = []
      ∧ (let s := fm id id; let off := divSet s.cx.ctxs[0] (itemsOf (cxHeld 0x040A .ctxDiversity (its 0 0 [(0x0804, 0)])));
          let on := divSet s.cx.ctxs[0] (itemsOf (cxHeld 0x040A .ctxDiversity (its 0 0 [(0x0804, 1), (0x0805, 1)])));
          fget off 0x0804 = 0 ∧ fget on 0x0804 ≠ 0) := by decide +kernel

/-- `fm` with carver 1 on input B at 98 MHz, which covers the context too. -/
def fm2 : State := modCarver 1 (fun x => { x with cfg := [(0x0300, 2), (0x0301, 0x28d55555)] }) (fm id id)

theorem witness_ContextCommandsAreJudged_diversity :
    (let h := cxHeld 0x040A .ctxDiversity (its 0 0 [(0x0804, 1), (0x0805, 2)]); let d := (fget (divSet fm2.cx.ctxs[0] (itemsOf h)) 0x0805).toNat;
      openCtx h fm2 = some 0 ∧ fget (divSet fm2.cx.ctxs[0] (itemsOf h)) 0x0804 ≠ 0 ∧ keepsBranch 0 d fm2 = false ∧ divRefused 0 d fm2 = false
        ∧ diversitySource 0 d fm2 = some 1 ∧ (addDiversity 0 1 fm2).isSome = true)
      ∧ (let s := deaf (fm id id); keepsBranch 0 0 s = false ∧ divRefused 0 0 s = false ∧ diversitySource 0 0 s = none) := by decide +kernel

/-- A branch on carver 1 can be aligned, whatever the group delays are: both sources have the same. -/
theorem witness_ContextCommandsAreJudged_alignable : alignable 0 1 fm2 = true := by
  have hp : fm2.cx.ctxs[(0 : Fin 64)].primary = some 0 := by decide +kernel
  have ht : tauHalf (fm2.cx.paths[(0 : Fin 64)].plan 1 (srcRate 1 fm2) fm2.cx.paths[(0 : Fin 64)].fout 0) = tauHalf fm2.cx.paths[(0 : Fin 64)] := by decide +kernel
  have hf : (fm2.cx.paths[(0 : Fin 64)].plan 1 (srcRate 1 fm2) fm2.cx.paths[(0 : Fin 64)].fout 0).fin = fm2.cx.paths[(0 : Fin 64)].fin := by decide +kernel
  have hs : fm2.cx.paths[(0 : Fin 64)].source = 0 := by decide +kernel
  have h0 : srcCarver 0 = some 0 := by decide
  have h1 : srcCarver 1 = some 1 := by decide
  have hg : carverGroupDelay fm2.rf.carvers[(1 : Fin 8)].cfg fm2 = carverGroupDelay fm2.rf.carvers[(0 : Fin 8)].cfg fm2 := by decide +kernel
  unfold alignable
  simp only [hp]
  unfold stampDelay tauPs sourceDelay
  simp only [hs, h0, h1, ht, hf, hg, Int.sub_self]
  decide

theorem witness_FramesApplyWhatWaits :
    (up.cx.ctxs[0].st = .closed)
      ∧ (let m := moment 0 (fm id id); let x := m.cx.ctxs[0]; x.st ≠ .closed ∧ x.st ≠ .hold ∧ primaryRuns 0 m = true ∧ m.host.held = [] ∧ x.afSwitch = none)
      ∧ (let m := moment 0 (fm id fun p => { p with run := .withholding }); m.cx.ctxs[0].st ≠ .closed ∧ primaryRuns 0 m = false ∧ branchLive m.cx.ctxs[0] m = false ∧ m.host.held = [] ∧ m.cx.ctxs[0].afSwitch = none)
      ∧ (let m := moment 0 (modPath 1 (fun p => { p with run := .running, ctx := 0, source := 0, fin := 38400000, fout := 256000, m := 4, h := 4, firLen := 127, next := 8589935, kept := List.replicate 8 [] })
            (fm (fun x => { x with branch := some 1, cfg := [(0x0806, 0)] }) fun p => { p with run := .hold, next := 8589935, kept := List.replicate 8 [] }));
          m.cx.ctxs[0].st ≠ .closed ∧ m.cx.ctxs[0].st ≠ .hold ∧ primaryRuns 0 m = false ∧ branchLive m.cx.ctxs[0] m = true ∧ m.host.held = [] ∧ m.cx.ctxs[0].afSwitch = none
            ∧ m.cx.ctxs[0].std ≠ .dab ∧ frameDue 0 m = true ∧ fget m.cx.ctxs[0].cfg 0x0806 = 0)
      ∧ (let h := cxHeld 0x0402 .ctxClose [] [1]; let m := moment 0 (holding [h] (fm id fun p => { p with run := .withholding }));
          nextLifecycle 0 m = some h ∧ h.op = 0x0402 ∧ primaryRuns 0 m = false ∧ branchLive m.cx.ctxs[0] m = false ∧ m.cx.ctxs[0].st ≠ .closed)
      ∧ ((moment 0 up).cx.paths[0].run ≠ .running) := by decide +kernel

theorem witness_FramesApplyThresholds :
    let h := cxHeld 0x0404 .ctxSetThresholds (its 0 0 []) [1, 0]
    let m := moment 0 (holding [h] (fm id id))
    m.cx.paths[0].run = .running ∧ thresholdCmds 0 m = [h] ∧ h.aux.drop 1 = [((0 : Fin 64).val : Int)] ∧ ∀ c, waiting 0x0406 c m = [] := by
  refine ⟨by decide +kernel, by decide +kernel, by decide, fun c => ?_⟩
  have hm : (moment 0 (holding [cxHeld 0x0404 .ctxSetThresholds (its 0 0 []) [1, 0]] (fm id id))).host.held
      = [cxHeld 0x0404 .ctxSetThresholds (its 0 0 []) [1, 0]] := by decide +kernel
  unfold waiting
  rw [hm]
  simp [cxHeld, hd]

/-- The levels of a waiting CTX_SET_THRESHOLDS agree with the fields in force, or do not (`no`): nothing waits for the boundary but it. -/
theorem witness_FramesApplyThresholds_levels :
    let h := cxHeld 0x0404 .ctxSetThresholds (its 0 0 []) [1, 0]
    let no := cxHeld 0x0404 .ctxSetThresholds (its 0 0 [(0x0707, -1100)]) [1, 0]
    let m := moment 0 (holding [no] (fm id id))
    levelsOk (fmerge (fm id id).cx.paths[0].cfg (fmerge [] (itemsOf h))) = true ∧ levelsOk (fmerge m.cx.paths[0].cfg (fmerge [] (itemsOf no))) = false ∧ m.cx.paths[0].run = .running
      ∧ thresholdCmds 0 m = [no] ∧ no.aux.drop 1 = [((0 : Fin 64).val : Int)] ∧ m.host.held.all (·.op != 0x0406) = true := by decide +kernel

/-- A frame is due and kept, due and kept no longer, and not due: the path has delivered 2 ms with its blocks kept, far more, or nothing. -/
theorem witness_FramesApplyWhatWaits_frames :
    let kept (afc : Int) := moment 0 (fm (fun x => { x with cfg := [(0x0806, afc)] }) fun p => { p with next := 8589935, kept := List.replicate 8 [] })
    let lost := moment 0 (fm id fun p => { p with next := 0x800000000 })
    (∀ m ∈ [kept 0, kept 1, lost], m.cx.ctxs[0].st ≠ .closed ∧ m.cx.ctxs[0].st ≠ .hold ∧ primaryRuns 0 m = true ∧ frameDue 0 m = true ∧ m.host.held = []
        ∧ m.cx.ctxs[0].afSwitch = none ∧ m.cx.ctxs[0].std ≠ .dab ∧ m.cx.ctxs[0].primary = some 0 ∧ m.cx.ctxs[0].branch = none ∧ jobReadsPath 0 m = false)
      ∧ frameKept 0 (kept 0) = true ∧ frameKept 0 (kept 1) = true ∧ frameKept 0 lost = false ∧ frameDue 0 (moment 0 (fm id id)) = false
      ∧ fget (kept 0).cx.ctxs[0].cfg 0x0806 = 0 ∧ fget (kept 1).cx.ctxs[0].cfg 0x0806 ≠ 0
      ∧ (let h := cxHeld 0x0402 .ctxClose [] [1]; let m := moment 0 (holding [h] (fm id fun p => { p with run := .withholding })); waiting 0x0405 0 m = []
          ∧ namedRead m 0 = false) := by decide +kernel

theorem witness_ContextTimersAct :
    (let s := fm (fun x => { x with st := .acquiring, acqFrom := some 0 }) id; s.cx.ctxs[0].acqFrom = some 0 ∧ s.cx.ctxs[0].st = .acquiring
        ∧ msDt 20 ≤ dtSince 0 (now (moment 0 s)))
      ∧ (let s := fm (fun x => { x with lossFrom := some 0 }) id; s.cx.ctxs[0].lossFrom = some 0 ∧ s.cx.ctxs[0].st = .running ∧ msDt 200 ≤ dtSince 0 (now (moment 0 s)))
      ∧ ((fm id id).cx.ctxs[0].std = .fm ∧ (fm id id).cx.ctxs[0].st ≠ .closed ∧ (fm id id).cx.ctxs[0].st ≠ .hold)
      ∧ (let s := fm (fun x => { x with pilotFrom := some 0 }) id; (fm id id).cx.ctxs[0].pilot = false ∧ s.cx.ctxs[0].pilot = false
          ∧ heldFor 50 s.cx.ctxs[0].pilotFrom (now (moment 0 s)) = true ∧ heldFor 50 (fm id id).cx.ctxs[0].pilotFrom (now (moment 0 s)) = false)
      ∧ (let s := fm (fun x => { x with cfg := [(0x080D, 1)], eqEngaged := true, eqFrom := some 0 }) id; fget s.cx.ctxs[0].cfg 0x080D = 1 ∧ s.cx.ctxs[0].eqEngaged = true
          ∧ heldFor 1000 s.cx.ctxs[0].eqFrom (now (moment 0 s)) = true ∧ heldFor 1000 (some 0x1000000000) (now (moment 0 s)) = false)
      ∧ (let s := fm (fun x => { x with cfg := [(0x080D, 1)], eqFrom := some 0 }) id;
          heldFor 1000 s.cx.ctxs[0].eqFrom (now (moment 0 s)) = true ∧ s.cx.ctxs[0].eqEngaged = false
            ∧ (regrow 0 (moment 0 s) (modCtx 0 (fun x => { x with eqEngaged := true, eqDenied := false }) (moment 0 s))).isSome = true)
      ∧ (let s := lone 0 (modSg (fun g => g) (fm (fun x => { x with cfg := [(0x080D, 1)], eqFrom := some 0 }) id));
          (regrow 0 (moment 0 s) (modCtx 0 (fun x => { x with eqEngaged := true, eqDenied := false }) (moment 0 s))).isSome = false)
      ∧ (let s := fm (fun x => { x with mpxFrom := some 0 }) id; let r := fm (fun x => { x with mpxFrom := some 0x1000000000 }) id;
          s.cx.ctxs[0].mpxFrom = some 0 ∧ s.cx.ctxs[0].st ≠ .hold ∧ (s.cx.ctxs[0].mpxCount + 1) * 2 ^ 32 ≤ dtSince 0 (now (moment 0 s))
            ∧ dtSince 0x1000000000 (now (moment 0 r)) < (r.cx.ctxs[0].mpxCount + 1) * 2 ^ 32)
      ∧ (let s := fm id id; let r := fm (fun x => { x with winFrom := 0x1000000000 }) id; s.cx.ctxs[0].st ≠ .closed ∧ s.cx.ctxs[0].st ≠ .hold
          ∧ ¬ dtSince s.cx.ctxs[0].winFrom (now (moment 0 s)) < msDt ((fget s.cx.ctxs[0].cfg 0x080E).toNat * 100)
          ∧ dtSince r.cx.ctxs[0].winFrom (now (moment 0 r)) < msDt ((fget r.cx.ctxs[0].cfg 0x080E).toNat * 100)) := by decide +kernel

theorem witness_HungWheelsLoseTheirContexts :
    ((fm id id).cx.wheels[0].failed = false ∧ (fm id id).cx.wheels[0].testing = false ∧ (modWheel 0 (fun w => { w with testing := true }) up).cx.wheels[0].testing = true)
      ∧ (let s := fm id id; s.cx.ctxs[0].wheel.isSome = true ∧ s.cx.ctxs[0].st ≠ .hold ∧ s.cx.ctxs[0].st ≠ .opening ∧ s.cx.ctxs[0].st ≠ .retuning
          ∧ wantsFailover (moment 0 s).cx.ctxs[0] = false ∧ retryDue (moment 0 s).cx.ctxs[0] (now (moment 0 s)) = true)
      ∧ (let s := fm (fun x => { x with triedAt := some 0x1000000000 }) id; retryDue (moment 0 s).cx.ctxs[0] (now (moment 0 s)) = false)
      ∧ (let m := moment 0 (modCx (fun x => { x with paths := Vector.replicate 64 { x.paths[0] with run := .running } }) (fm (fun x => { x with source := 8 }) id)); wantsFailover m.cx.ctxs[0] = true
          ∧ (attachBranch 0 .failover 0 (modCtx 0 (fun x => { x with triedAt := some (now m) }) m)).isNone = true)
      ∧ (let s := fm (fun x => { x with source := 8 }) id; wantsFailover (moment 0 s).cx.ctxs[0] = true) := by decide +kernel

/-- A tuner-fed context that wants a failover branch. -/
def failing : State :=
  let m := moment 0 (fm (fun x => { x with source := 8 }) id)
  modCtx 0 (fun x => { x with triedAt := some (now m) }) m

theorem failing_alignable : alignable 0 0 failing = true := by
  have hp : failing.cx.ctxs[(0 : Fin 64)].primary = some 0 := by decide +kernel
  have hs : failing.cx.paths[(0 : Fin 64)].source = 0 := by decide +kernel
  have ht : tauHalf (failing.cx.paths[(0 : Fin 64)].plan 0 (srcRate 0 failing) failing.cx.paths[(0 : Fin 64)].fout 0) = tauHalf failing.cx.paths[(0 : Fin 64)] := by decide +kernel
  have hf : (failing.cx.paths[(0 : Fin 64)].plan 0 (srcRate 0 failing) failing.cx.paths[(0 : Fin 64)].fout 0).fin = failing.cx.paths[(0 : Fin 64)].fin := by decide +kernel
  unfold alignable
  simp only [hp]
  unfold stampDelay tauPs
  simp only [hs, ht, hf, Int.sub_self]
  decide

theorem failing_chooses : chooseBranch 0 0 failing = some 0 := by
  have hl : branchOrder failing.cx.ctxs[(0 : Fin 64)].source failing = 0 :: [1, 2, 3, 4, 5, 6, 7, 8, 9, 10, 11] := by decide +kernel
  have hf : (branchAllowed failing.cx.ctxs[(0 : Fin 64)].source 0 failing && sourceFits 0 failing.cx.ctxs[(0 : Fin 64)].freq
      (halfBand failing.cx.ctxs[(0 : Fin 64)].std failing.cx.ctxs[(0 : Fin 64)].cfg) failing) = true := by decide +kernel
  unfold chooseBranch
  simp only [if_pos, hl, List.find?, failing_alignable]
  simp only [Bool.and_true, hf]

/-- Its branch is attached on carver 0: the primary path has the same delays. -/
theorem witness_HungWheelsLoseTheirContexts_branch : (attachBranch 0 .failover 0 failing).isSome = true := by
  have hp : freePath failing = some 1 := by decide +kernel
  have hr : (regrow 0 failing (modCtx 0 (fun x => { x with branch := some 1, branchRole := .failover, branchFrames := 0 }) failing)).isSome = true := by
    decide +kernel
  unfold attachBranch
  simp only [hp, failing_chooses]
  revert hr
  cases regrow 0 failing (modCtx 0 (fun x => { x with branch := some 1, branchRole := .failover, branchFrames := 0 }) failing) <;> simp


/-! ### Witnesses: digital reception, side data, audio -/

/-- `fm` as a DAB context in synchronisation, its DAB part changed by `f`. -/
def dab (f : DabSt → DabSt) : State := fm (fun x => { x with std := .dab, dab := f { x.dab with sync := true } }) id

/-- A component that can be decoded. -/
def comp : Component := { sid := 5, scids := 0, subch := 1, cus := 4, protection := 0, audio := true, scrambled := false, mp2 := false, decodable := true, address := 0 }

def fic : FicData :=
  { stamp := 0, fibsPassed := 1, eid := 7, cifCount := 3, components := none, next := none, figs := [], labels := [], afs := [], clusters := [], announce := [] }

theorem witness_DabReceptionFollowsItsFrames :
    ((dab id).cx.ctxs[0].std = .dab ∧ primaryRuns 0 (moment 0 (dab id)) = true ∧ (dab id).cx.ctxs[0].dab.firstNull = none
        ∧ (dab fun d => { d with firstNull := some 9 }).cx.ctxs[0].dab.firstNull = some 9 ∧ (dab id).cx.ctxs[0].dab.sync = true)
      ∧ (2 ≤ (dab fun d => { d with missed := 2 }).cx.ctxs[0].dab.missed ∧ (dab id).cx.ctxs[0].dab.missed < 2)
      ∧ (let d := (dab fun d => { d with eid := some 7 }).cx.ctxs[0].dab; d.eid.isSome = true ∧ d.next = none)
      ∧ ((dab id).cx.ctxs[0].dab.cifsWritten < 16
          ∧ (let s := dab fun d => { d with cifsWritten := 16, subs := [{ subch := 1, cus := 4, selectedFrom := none, rsCorrected := 0, rsFailed := 0, syncLosses := 0, erasedFrames := 0, oversize := 0, overs := [], incomplete := 0 }] };
              16 ≤ s.cx.ctxs[0].dab.cifsWritten ∧ s.cx.ctxs[0].dab.subs.any (·.subch == 1) = true ∧ s.cx.subs = []))
      ∧ (let s := dab fun d => { d with lostAt := some 0x0F80000000, eid := some 7, cif := 100 }; let span := dtSince 0x0F80000000 (now (moment 0 s));
          s.cx.ctxs[0].dab.lostAt = some 0x0F80000000 ∧ s.cx.ctxs[0].dab.eid = some 7 ∧ s.cx.ctxs[0].dab.sync = true ∧ (7 : Nat) ≠ 8
            ∧ cifConsistent 100 120 span = true ∧ span ≤ 2 * 2 ^ 32 ∧ cifConsistent 100 300 span = false)
      ∧ (let s := dab id; fic.fibsPassed ≠ 0 ∧ s.cx.subs = [] ∧ fic.labels = [] ∧ fic.announce = [] ∧ fic.components = none ∧ s.cx.ctxs[0].dab.lostAt = none)
      ∧ (fget (fm (fun x => { x with std := .dab, cfg := [(0x0908, 1)], dab := { x.dab with sync := true } }) id).cx.ctxs[0].cfg 0x0908 = 1) := by decide +kernel

/-- `fm` as a DRM context, its DRM part changed by `f`. -/
def drm (st : CtxState) (f : DrmSt → DrmSt) : State := fm (fun x => { x with st := st, std := .drm, drm := f { x.drm with sync := true } }) id

def drmFrame : DrmFrame :=
  { stamp := 0, syncHeld := true, mode := some 1, facOk := true, occupancy := 0, longInterleave := false, qam := 0, reconfigIndex := 0, superFrameStart := false,
    facBits := [], merFac := 0, streams := [] }

def sdc : SdcData := { stamp := 0, crcOk := true, sid := 0, components := [], nextComponents := none, entities := [], afs := [], alerts := [] }

theorem witness_DrmReceptionFollowsItsFrames :
    (let s := drm .running fun d => { d with good := 1, mode := some 1 }; isDrm s.cx.ctxs[0].std = true ∧ primaryRuns 0 (moment 0 s) = true ∧ s.cx.subs = []
        ∧ s.cx.ctxs[0].drm.facTaken = false ∧ drmFrame.streams = [] ∧ drmFrame.syncHeld = true ∧ drmFrame.facOk = true ∧ modeOk s.cx.ctxs[0] drmFrame.mode = true ∧ 1 ≤ s.cx.ctxs[0].drm.good
        ∧ drmFrame.mode = s.cx.ctxs[0].drm.mode ∧ s.cx.ctxs[0].st = .running ∧ s.cx.ctxs[0].drm.bad < 2)
      ∧ (2 ≤ (drm .running fun d => { d with bad := 2 }).cx.ctxs[0].drm.bad ∧ (drm .acquiring id).cx.ctxs[0].st = .acquiring)
      ∧ (let s := drm .running id; s.cx.ctxs[0].drm.sync = true ∧ sdc.crcOk = true ∧ sdc.alerts = [] ∧ compsOf s.cx.ctxs[0] = sdc.components) := by decide +kernel

/-- An announced reconfiguration reaches its boundary; another mode, a lost synchronisation, a bad FAC and a foreign mode. -/
theorem witness_DrmReceptionFollowsItsFrames_changes :
    (let x := (drm .running fun d => { d with compsNext := some [comp], reconfIndex := 1 }).cx.ctxs[0]; let f := { drmFrame with superFrameStart := true };
        isDrm x.std = true ∧ x.drm.compsNext = some [comp] ∧ x.drm.reconfigures f = true ∧ x.drm.reconfigures drmFrame = false ∧ f.streams = [])
      ∧ (let x := (drm .running fun d => { d with mode := some 0, bad := 2 }).cx.ctxs[0]; x.drm.compsNext = none ∧ x.drm.mode = some 0 ∧ drmFrame.mode = some 1
          ∧ (0 : Fin 5) ≠ 1 ∧ 2 ≤ x.drm.bad ∧ modeOk x (some 4) = false)
      ∧ (let x := (drm .acquiring fun d => { d with mode := some 1 }).cx.ctxs[0]; x.st = .acquiring ∧ x.drm.mode = drmFrame.mode)
      ∧ sdc.nextComponents = none := by decide +kernel

/-- A subscription of context 0. -/
def sub (id : BitVec 16) : Sub := { id := id, ctx := 0, kind := 0, selector := [], seq := 0, last := [], parts := [], motSince := [] }

/-- `fm` with subscriptions. -/
def subbed (l : List Sub) : State := modCx (fun x => { x with subs := l }) (fm id id)

theorem witness_SideDataIsSubscribedAndReceived :
    (let h := cxHeld 0x0500 .dataSubscribe [0]; let s := holding [h] (fm id id); let a := Entry.args h.entry;
        openCtx h up = none ∧ openCtx h s = some 0 ∧ kindOk (le a 0 1) s.cx.ctxs[0].std = true ∧ kindOk 2 s.cx.ctxs[0].std = false
          ∧ s.cx.subs.length < 512 ∧ (subsOf 0 s).length < 32 ∧ 32 ≤ (subsOf 0 (subbed (List.replicate 32 (sub 0)))).length
          ∧ (regrow 0 s (modCtx 0 (fun x => x.askAgain (subSubch s.cx.ctxs[0] (sub 0)).toList) (modCx (fun x => { x with subs := x.subs ++ [sub 0], nextSub := 1 }) s))).isSome = true)
      ∧ (let h := cxHeld 0x0501 .dataUnsubscribe [3, 0]; let s := holding [h] (subbed [sub 3]); openCtx h s = some 0
          ∧ (subsOf 0 s).any (fun w => w.id.toNat == le (Entry.args h.entry) 0 2) = true ∧ (subsOf 0 (fm id id)).any (fun w => w.id.toNat == 3) = false)
      ∧ ((fm id id).cx.ctxs[0].std = .fm ∧ primaryRuns 0 (moment 0 (fm id id)) = true
          ∧ 45 ≤ ((List.replicate 50 true).take 50).countP id ∧ fget (fm (fun x => { x with cfg := [(0x0A00, 1)] }) id).cx.ctxs[0].cfg 0x0A00 = 1
          ∧ (let r (n : Nat) := (fm (fun x => { x with rds := { x.rds with sync := true, synced := n, blocks := List.replicate 50 true } }) id).cx.ctxs[0].rds;
              (r 46).sync = true ∧ 46 ≤ (r 46).synced ∧ (r 40).synced < 41))
      ∧ (let s := modRing 1 (fun r => { r with buffers := [{ buf with firstWrite := some 0 }] }) (ringUp 1); s.host.rings[(1 : Fin 4)].buffers = { buf with firstWrite := some 0 } :: []
          ∧ (1 : Fin 4).val < 3 ∧ msDt s.cx.flushMs ≤ dtSince 0 (now (moment 0 s)) ∧ dtSince 0x1000000000 (now (moment 0 s)) < msDt s.cx.flushMs)
      ∧ (let w := { sub 3 with motSince := [(1, 0)] }; let s := modTime (fun x => { x with dt := 0x4000000000 }) (subbed [w]); findSub 4 s = none ∧ findSub 3 s = some w
          ∧ 60 * 2 ^ 32 ≤ dtSince 0 (now (moment 0 s))
          ∧ (w.motSince.all fun m => decide (dtSince m.2 (now (moment 0 up)) < 60 * 2 ^ 32)) = true)
      ∧ (let w := { sub 3 with kind := 6, selector := [1], motSince := [(1, 0)] }; let s := modCx (fun x => { x with subs := [w] }) (dab id); w.ctx = (0 : Fin 64).val
          ∧ subSubch s.cx.ctxs[0] w = some 1) := by decide +kernel

theorem witness_SubscriptionIdentifiersAreFresh :
    up.cx.subs.length ≤ 512 ∧ (up.cx.subs.any fun w => w.id == up.cx.nextSub) = false ∧ ((subbed [sub 0]).cx.subs.any fun w => w.id == up.cx.nextSub) = true := by decide +kernel

/-- An alternative frequency. -/
def alt (crossed : Option DT) : AltFreq :=
  { freq := 98100000, source := 2, bank := some 0, shared := false, hop := false, hist := [], piSeen := none, pi := none, piAt := 0, met := 0, crossed := crossed }

/-- `fm` with AF mode `m` and an alternative. -/
def afd (m : Int) (crossed : Option DT) : State := fm (fun x => { x with cfg := [(0x0A03, m)], afs := [alt crossed] }) id

/-- A seamless switch to 98.1 MHz that stands at a step since DT 0. -/
def switching (stage : Nat) (path : Option (Fin 64)) : AfSwitch :=
  { freq := 98100000, path := path, stage := stage, since := 0, crossed := 0, pi := 5, qCtx := 0, qAf := 0, delay := none }

theorem witness_AlternativesAreMeteredAndConfigured :
    (let h := cxHeld 0x0502 .afPolicy (its 1 0 []); let s := holding [h] (fm id id); openCtx h up = none ∧ openCtx h s = some 0
        ∧ policyOk s.cx.ctxs[0].std (fmerge s.cx.ctxs[0].cfg (itemsOf h)) = true ∧ policyOk .dab [(0x0A03, 2)] = false)
      ∧ ((fm id id).cx.ctxs[0].afSwitch = none ∧ (fm (fun x => { x with afSwitch := some (switching 0 none) }) id).cx.ctxs[0].afSwitch.isSome = true)
      ∧ (let v := assignMeters (moment 0 (afd 1 none)); afContexts v = [0] ∧ (v.cx.ctxs[0].afs.find? (·.freq == 98100000)).isSome = true
          ∧ (match v.cx.ctxs[0].afs.find? (·.freq == 98100000) with | some a => measuredNow v.cx.ctxs[0].std a v | none => false) = true)
      ∧ (let v := assignMeters (moment 0 (modCarver 0 (fun x => { x with cfg := [] }) (afd 1 none)));
          (match v.cx.ctxs[0].afs.find? (·.freq == 98100000) with | some a => measuredNow v.cx.ctxs[0].std a v | none => true) = false)
      ∧ (bankTurns (assignMeters (moment 0 up)) 0 ≤ 1)
      ∧ ((moment 0 up).cx.hops[(0 : Fin 4)] = none)
      ∧ (let m := moment 0 (modCx (fun x => { x with hops := upd x.hops 0 fun _ => some 98100000 }) up); m.cx.hops[(0 : Fin 4)] = some 98100000 ∧ pathsOn 8 m = [])
      ∧ (let m := moment 0 (modPath 0 (fun p => { p with source := 8 }) (modCx (fun x => { x with hops := upd x.hops 0 fun _ => some 98100000 }) (fm id id)));
          pathsOn 8 m = 0 :: []) := by decide +kernel

/-- More alternatives than the 32 continuous meters of a bank: its 33 members take turns. -/
theorem witness_SharedMetersTakeTurns :
    1 < bankTurns (assignMeters (moment 0 (modCtx 1 (fun x => { x with st := .running, std := .fm, freq := 98000000, cfg := [(0x0A03, 1)], wheel := some 0, primary := none, afs := [{ alt none with freq := 98200000 }] })
      (fm (fun x => { x with cfg := [(0x0A03, 1)], afs := (List.range 32).map fun i => { alt none with freq := 93100000 + 100000 * i } }) id)))) 0 := by decide +kernel

theorem witness_SwitchesFollowDecisions :
    (let m := moment 0 (afd 1 (some 0x1000000000)); let x := m.cx.ctxs[0]; x.st ≠ .closed ∧ afMode x = 1 ∧ heldOff x = false ∧ (decided x 98100000 (now m)).isSome = true)
      ∧ (let m := moment 0 (jobbed (afd 2 (some 0x1000000000))); let x := m.cx.ctxs[0]; 2 ≤ afMode x ∧ heldOff x = false ∧ (decided x 98100000 (now m)).isSome = true ∧ primaryRead 0 m = true)
      ∧ (let m := moment 0 (afd 0 none); afMode m.cx.ctxs[0] = 0 ∧ m.cx.ctxs[0].afSwitch = none)
      ∧ (let s (w : AfSwitch) := moment 0 (fm (fun x => { x with afSwitch := some w }) id); let w := switching 4 (some 1);
          (s w).cx.ctxs[0].afSwitch = some w ∧ (s w).cx.ctxs[0].primary = some 0 ∧ w.path = some 1 ∧ w.stage = 4 ∧ msDt 10 ≤ dtSince w.since (now (s w))
            ∧ (s (switching 2 (some 1))).cx.ctxs[0].afSwitch = some (switching 2 (some 1)) ∧ (switching 2 (some 1)).stage = 2
            ∧ msDt 200 ≤ dtSince (switching 2 (some 1)).since (now (s w)) ∧ (switching 1 none).stage ≠ 2 ∧ (switching 1 none).stage ≠ 4)
      ∧ (let s := fm (fun x => { x with afHoldoff := some 0 }) id; s.cx.ctxs[0].afHoldoff = some 0 ∧ (fget s.cx.ctxs[0].cfg 0x0A08).toNat * 2 ^ 32 ≤ dtSince 0 (now (moment 0 s))
          ∧ dtSince 0x1000000000 (now (moment 0 s)) < (fget s.cx.ctxs[0].cfg 0x0A08).toNat * 2 ^ 32)
      ∧ (let m := moment 0 (afd 1 (some 0x1000000000)); let x := m.cx.ctxs[0]; decided x 99000000 (now m) = none
          ∧ ((decided x 98100000 (now m)).bind (·.crossed)) = some 0x1000000000
          ∧ heldOff (fm (fun x => { x with afHoldoff := some 0 }) id).cx.ctxs[0] = true)
      ∧ (let x (d : Option DT) := (assignMeters (moment 0 (fm (fun x => { x with cfg := [(0x0A03, 1)], reportAt := d }) id))).cx.ctxs[0];
          (x none).st ≠ .closed ∧ afMode (x none) ≠ 0 ∧ (x none).reportAt = none ∧ (x (some 0x1000000000)).reportAt = some 0x1000000000
            ∧ dtSince 0x1000000000 (now (moment 0 up)) < msDt (fget (x none).cfg 0x0A07).toNat) := by decide +kernel

/-- A decision of which nothing reads the primary path: on carver 2 it opens its switch path, with no carver there it cannot, in mode 2 and in
mode 3. -/
theorem witness_SwitchesFollowDecisions_opens :
    (let m (k : Int) := moment 0 (modCarver 0 (fun x => { x with cfg := [] }) (afd k (some 0x1000000000))); (m 2).cx.ctxs[0].st ≠ .closed ∧ (m 3).cx.ctxs[0].st ≠ .closed ∧ afMode (m 2).cx.ctxs[0] = 2
        ∧ afMode (m 3).cx.ctxs[0] = 3 ∧ (∀ k ∈ [(2 : Int), 3], heldOff (m k).cx.ctxs[0] = false ∧ (decided (m k).cx.ctxs[0] 98100000 (now (m k))).isSome = true
        ∧ primaryRead 0 (m k) = false ∧ (openSwitch 0 (switching 0 none) (m k)).isNone = true))
      ∧ (let m := moment 0 (modCarver 2 (fun x => { x with cfg := [(0x0300, 1), (0x0301, 0x28d55555)] }) (afd 2 (some 0x1000000000)));
          (openSwitch 0 (switching 0 none) m).isSome = true) := by decide +kernel

/-- An AUD_SERVICE_START on context 0. -/
def svcHeld : Held := cxHeld 0x0600 .audServiceStart (its 0 0 [])

/-- `fm` with audio service 0 of context 0. -/
def svc (f : Svc → Svc) : State := modSvc 0 (fun _ => f { Svc.reset with st := .running, ctx := 0 }) (fm id id)

theorem witness_ServicesStartChangeAndStop :
    (let h := svcHeld; let s := holding [h] (fm id id); itemAction (Entry.args h.entry) = 0 ∧ openCtx h up = none ∧ openCtx h s = some 0 ∧ badSelector s.cx.ctxs[0].std 0 0 = none
        ∧ badSelector .fm 1 0 = some 3 ∧ matchOk (itemsOf h) = true ∧ svcCount s < (limits s.cx.profile).2.2.2 ∧ freeSvc s = some 0
        ∧ (regrow 0 s (modSvc 0 (fun _ => Svc.begin_ 0 .fm .running 0 0 (itemsOf h)) s)).isSome = true ∧ compOf s.cx.ctxs[0] 0 0 = none
        ∧ Entry.hasDeadline h.entry = false ∧ Entry.hasDeadline { h.entry with flags := 4 } = true)
      ∧ matchOk (itemsOf (cxHeld 0x0600 .audServiceStart (its 0 0 [(0x0B0C, 1), (0x0B0A, 0)]))) = false
      ∧ ((svcsOf 0 (svc id)).any fun w => hasComp .fm 0 0 (svc id).audio.svcs[w]) = true ∧ ((svcsOf 0 (fm id id)).any fun w => hasComp .fm 0 0 (fm id id).audio.svcs[w]) = false
      ∧ (let s := modAudio (fun a => { a with svcs := Vector.replicate 96 { Svc.reset with st := .running, ctx := 9 } }) (fm id id); (limits s.cx.profile).2.2.2 ≤ svcCount s ∧ svcsOf 0 s = [])
      ∧ (compOf (dab fun d => { d with comps := [comp] }).cx.ctxs[0] 5 0 = some comp ∧ unsuitable comp = false ∧ unsuitable { comp with mp2 := true } = true
          ∧ compOf (dab id).cx.ctxs[0] 5 0 = none)
      ∧ (let a := Entry.args (ent 0 (its 0 1 [])); itemAction a = 1 ∧ up.audio.svcs[0].st = .free ∧ (svc id).audio.svcs[0].st ≠ .free
          ∧ (regrow 0 (svc id) (modSvc 0 (fun y => { y with cfg := fmerge y.cfg [] }) (svc id))).isSome = true ∧ matchOk (fmerge (svc id).audio.svcs[0].cfg []) = true ∧ matchOk [(0x0B0C, 1), (0x0B0A, 0)] = false ∧ (svc id).audio.svcs[0].ctx = (0 : Fin 64).val)
      ∧ itemAction (Entry.args (ent 0 (its 0 2 []))) = 2 := by decide +kernel

/-- A frame of audio in full. -/
def aFrame : AFrame := { l := 5, r := 5, conc := false, mute := false }

/-- A line of 192 frames that no block has taken, the first of which has DT 10 s. -/
def line192 : Line := { Line.reset with start := some 0x0A00000000, wait := List.replicate 192 (0x0A00000000, aFrame) }

/-- An access unit of one frame. -/
def unit1 : AccessUnit := { stamp := 0, pos := 0, rate := 48000, good := true, erased := false, frames := [[5, 5]], metadata := [] }

theorem witness_AudioIsConcealedMeteredAndSigned :
    ((svc id).audio.svcs[0].st = .running ∧ (svc id).audio.svcs[0].ctx = (0 : Fin 64).val ∧ (svc id).cx.ctxs[0].std ≠ .dab ∧ isDrm (svc id).cx.ctxs[0].std = false
        ∧ (modSvc 0 (fun _ => { Svc.reset with st := .running }) (dab id)).cx.ctxs[0].std = .dab ∧ unit1.good = true ∧ unit1.erased = false ∧ ({ unit1 with erased := true }).erased = true)
      ∧ ((moment 0 up).audio.svcs[0].st = .free
          ∧ (let m := moment 0 (svc fun y => { y with line := line192 }); m.audio.svcs[0].st ≠ .free ∧ m.host.held = []
              ∧ (m.audio.svcs[0].nextBlock (now m) (svcLat m.audio.svcs[0] m)).isSome = true)
          ∧ (let m := moment 0 (svc fun y => { y with line := { line192 with wait := [] } }); m.audio.svcs[0].st ≠ .free ∧ m.audio.svcs[0].line.start.isSome = true
              ∧ m.audio.svcs[0].nextBlock (now m) (svcLat m.audio.svcs[0] m) = none)
          ∧ (let y := (svc fun y => { y with st := .waiting, line := line192 }).audio.svcs[0]; y.st ≠ .running ∧ (y.nextBlock (now up) 0).isSome = true))
      ∧ (let h := cxHeld 0x0703 .memTimeshiftConfig [] [1]; let s := holding [h] (svc id); let y := (moment 0 s).audio.svcs[0]; y.st ≠ .free ∧ y.line.start = none
          ∧ y.nextBlock (now (moment 0 s)) (svcLat y (moment 0 s)) = none ∧ s.host.held = [h] ∧ parked h = true ∧ h.op = 0x0703 ∧ h.entry.target.toNat = (0 : Fin 96).val)
      ∧ (fget (svc id).audio.svcs[0].cfg 0x0B03 = 1 ∧ fget (svc fun y => { y with cfg := [(0x0B03, 0)] }).audio.svcs[0].cfg 0x0B03 ≠ 1
          ∧ fget (svc fun y => { y with cfg := [(0x0B04, 1)] }).audio.svcs[0].cfg 0x0B04 = 1 ∧ (svc id).audio.svcs[0].line.meter.done = [])
      ∧ (4800 % 4800 = 0 ∧ 5 % 4800 ≠ 0 ∧ ({ Meter.reset with running := true }).running = true)
      := by decide +kernel

/-- A stereo line from DT 16 s that holds the sub-frames of that second. -/
def lineSecond : Line := { Line.reset with start := some 0x1000000000, second := 16, mono := List.replicate 8262 { v := 0, conc := false, mute := false }, monoNext := 136262 }

/-- Loudness blocks, muted and not; report and chain periods that are due and that are not; a second that the line has and one that it lacks. -/
theorem witness_AudioIsConcealedMeteredAndSigned_periods :
    (let b : LoudBlock := { stamp := 0, power := 0, peakL := some 0, peakR := some 0, muted := true }; b.muted = true ∧ ({ b with muted := false }).muted = false
        ∧ (svc fun y => { y with line := { y.line with meter := { y.line.meter with done := [b] } } }).audio.svcs[0].line.meter.done = b :: [])
      ∧ (let y (d : DT) := (svc fun y => { y with cfg := [(0x0B10, 10)], reportFrom := some d, chainFrom := d, chainEnd := 0x1000000000, line := line192 }).audio.svcs[0];
          (y 0).reportFrom = some 0 ∧ fget (y 0).cfg 0x0B03 = 1 ∧ (svc id).audio.svcs[0].reportFrom = none
          ∧ (dtAdd 0 ((fget (y 0).cfg 0x0B07).toNat * 2 ^ 32)).toNat ≤ (y 0).line.next.toNat
          ∧ ¬ (dtAdd 0x1000000000 ((fget (y 0).cfg 0x0B07).toNat * 2 ^ 32)).toNat ≤ (y 0).line.next.toNat
          ∧ (fget (y 0).cfg 0x0B10).toNat * 2 ^ 32 ≤ dtSince (y 0).chainFrom (y 0).chainEnd
          ∧ ¬ (fget (y 0x1000000000).cfg 0x0B10).toNat * 2 ^ 32 ≤ dtSince (y 0x1000000000).chainFrom (y 0x1000000000).chainEnd)
      ∧ (fget (svc id).audio.svcs[0].cfg 0x0B0A = 1 ∧ fget (svc id).audio.svcs[0].cfg 0x0B0C = 0 ∧ fget (svc fun y => { y with cfg := [(0x0B0A, 0)] }).audio.svcs[0].cfg 0x0B0A = 0)
      ∧ (lineSecond.start.isSome = true ∧ lineSecond.past? 16 = true ∧ (lineSecond.subs 16).isSome = true ∧ lineSecond.past? 17 = false
          ∧ ({ lineSecond with monoNext := 300000 }).past? 16 = true ∧ ({ lineSecond with monoNext := 300000 }).subs 16 = none) := by decide +kernel

/-- Library changes at a whole second of DT, due and not due, of every action, accepted and not; and an instant that is none. -/
theorem witness_AudioIsConcealedMeteredAndSigned_library :
    (onSecond (now (moment 0 up)) = true ∧ onSecond (now (moment 0x1080000000 up)) = false ∧ waiting 0x0602 0xFFFF (moment 0 up) = [])
      ∧ (let h (at_ : Int) := hd 0x0602 .audSignatureConfig (ent 0xFFFF (its 0 1 [(1, 5)])) [1, at_]; let m := moment 0 (holding [h 0] up); let a := Entry.args (h 0).entry;
          waiting 0x0602 0xFFFF m = [h 0] ∧ itemAction a = 1 ∧ libTakes m.audio.library (libRef a) (libSeconds a) = true
            ∧ ((h 0).aux.getD 1 0).toNat / 2 ^ 32 < (now m).toNat / 2 ^ 32 ∧ ¬ ((h 0x1000000000).aux.getD 1 0).toNat / 2 ^ 32 < (now m).toNat / 2 ^ 32)
      ∧ (let h := hd 0x0602 .audSignatureConfig (ent 0xFFFF (its 0 1 [(1, 5)])) [1]; let a := Entry.args h.entry;
          let m := moment 0 (modAudio (fun x => { x with library := [{ id := libRef a, seconds := 1, words := [] }] }) (holding [h] up));
          waiting 0x0602 0xFFFF m = [h] ∧ libTakes m.audio.library (libRef a) (libSeconds a) = false)
      ∧ (∀ k ∈ [(2 : Byte), 3], let h := hd 0x0602 .audSignatureConfig (ent 0xFFFF (its 0 k [])) [1]; waiting 0x0602 0xFFFF (moment 0 (holding [h] up)) = [h]
          ∧ itemAction (Entry.args h.entry) = k.toNat) := by decide +kernel

/-! ### Witnesses: ports, captures, keys, logs, maintenance, pair -/

/-- `up` with output port 0 running. -/
def port0 : State := modPort 0 (fun p => { p with cfg := [(0x0C00, 1)], grid := some 0 }) up

/-- A command on a port. -/
def poHeld (op : Nat) (i : Entry → Instr) (n : BitVec 16) (param : List Byte) (aux : List Int := []) : Held := hd op i (ent n param) aux

def route : Route := Route.fresh 0 0 .none 0

theorem witness_PortsApplyAtTheirBoundaries :
    (let h := poHeld 0x0680 .portConfig 0 (its 0 0 [(0x0C00, 1)]); portRuns port0.port.ports[0] = true ∧ portRuns up.port.ports[0] = false ∧ ofClass .lk (itemsOf h) = []
        ∧ isAin 0 = false ∧ fhas (itemsOf h) 0x0C0B = false ∧ fget (fmerge up.port.ports[0].cfg (itemsOf h)) 0x0C00 = 1
        ∧ ofClass .lk (itemsOf (poHeld 0x0680 .portConfig 0 (its 0 0 [(0x0C01, 44100)]))) ≠ [])
      ∧ (itemAction (its 1 0 []) = 0 ∧ itemCommit (its 0 0 []) = false ∧ itemCommit (its 1 0 []) = true ∧ routePorts [] up = [])
      ∧ routePorts ((modPortSt (fun o => { o with staged := [route] }) port0).port.staged ++ routesOf (its 1 0 []) port0) port0 ≠ []
      ∧ (let a := Entry.args (ent 0 ([0, 1, 0, 2] ++ leBytes 4 0)); itemAction a = 1 ∧ itemArg8 a = (2 : Fin 4).val ∧ itemArg32 a = (0 : Fin 96).val)
      ∧ (up.port.ains[2].cmp = none ∧ up.audio.svcs[0].st = .free ∧ (modAin 2 (fun x => { x with cmp := some 0 }) up).port.ains[2].cmp.isSome = true
          ∧ (svc id).audio.svcs[0].st ≠ .free ∧ (svc id).audio.svcs[0].ctx = (0 : Fin 64).val
          ∧ (regrow 0 (svc id) (modAin 2 (fun x => { x with cmp := some 0, cmpCfg := [] }) (svc id))).isSome = true)
      ∧ itemAction (Entry.args (ent 0 [0, 2, 0, 2])) = 2
      ∧ (isAin 9 = true ∧ up.port.ports[0].grid = none ∧ port0.port.ports[0].grid.isSome = true ∧ port0.host.held = [])
      ∧ (let h := poHeld 0x0682 .portSlotmask 12 [] [1]; waiting 0x0682 12 (moment 0 up) = [] ∧ waiting 0x0682 12 (moment 0 (holding [h] up)) = [h]) := by decide +kernel

/-- `up` with TDM port 12 running since DT 16 s, its first block under way, changed by `f`. -/
def tdm (f : Port → Port) : State :=
  modPort 12 (fun p => f { p with cfg := [(0x0C00, 1)], grid := some 0x1000000000, blockAt := 0x1000000000, sent := [[]] }) up

/-- Boundaries on the grid and off it, behind the port's frames, of a stop whose ramps have ended and of one whose ramps have not; slot masks
committed too late for a frame, in a frame and behind the block. -/
theorem witness_PortsApplyAtTheirBoundaries_grid :
    (let x (f : Port → Port) (s : State) := (moment 0 (modPort 0 f (modPort 0 (fun p => { p with cfg := [(0x0C00, 1)], grid := some 0x1000000000 }) s))).port.ports[0]; let t := now up;
        (x id up).grid = some 0x1000000000 ∧ onGrid t (x id up) = true ∧ onGrid 0x1000100000 (x id up) = false ∧ framesAt t (x id up) 0x1000000000 < (x (fun p => { p with frames := 192 }) up).frames
          ∧ (x id up).frames ≤ framesAt t (x id up) 0x1000000000 ∧ (x (fun p => { p with stopping := true }) up).stopping = true ∧ (x id up).stopping = false
          ∧ rampsDown 0 up = true ∧ rampsDown 0 (modPortSt (fun o => { o with routes := [route] }) up) = false)
      ∧ (let h (at_ : Int) := poHeld 0x0682 .portSlotmask 12 [] [1, at_]; let m := moment 0x1000100000 (tdm id); let x := m.port.ports[12];
          let n := dtSince x.blockAt (now m) * 48000 / 2 ^ 32; let frame := dtAdd x.blockAt (n * 2 ^ 32 / 48000);
          x.grid.isSome = true ∧ x.sent ≠ [] ∧ n < 192 ∧ frame.toNat < ((h 0x10000FFFF0).aux.getD 1 0).toNat + twoBclk ∧ ¬ frame.toNat < ((h 0).aux.getD 1 0).toNat + twoBclk
            ∧ (tdm fun p => { p with sent := [] }).port.ports[12].sent = []
            ∧ 192 ≤ dtSince x.blockAt (now (moment 0x1080000000 (tdm id))) * 48000 / 2 ^ 32) := by decide +kernel

/-- The clock of the outputs stands still with both SPLLs lost. -/
theorem witness_PortsApplyAtTheirBoundaries_dead :
    (let m := moment 0 (modTime (fun x => { x with bothLost := true, vcoStopped := true }) port0); m.time.bothLost = true ∧ m.time.vcoStopped = true)
      ∧ up.time.bothLost = false := by decide +kernel

/-- `up` with input 0 on, changed by `f`. -/
def ain (f : Ain → Ain) : State := modAin 0 f (modPort 8 (fun p => { p with cfg := [(0x0C00, 1)] }) up)

/-- A subframe whose bits are all zero, without a fault. -/
def ainSub : AinSub := { word := 0, v := false, u := false, c := false, parity := false, biphase := false }

/-- A block of 192 frames at 48 kHz: 4 ms. -/
def ainBlock : AinBlock := { stamp := 0, span := msDt 4, frames := List.replicate 192 (ainSub, ainSub) }

/-- The same at 32 kHz, with nine frames that have faults, and at no nominal rate. -/
def ainBlock32 : AinBlock := { ainBlock with span := msDt 6 }
def ainFaulty : AinBlock := { ainBlock with frames := List.replicate 9 ({ ainSub with parity := true, biphase := true }, { ainSub with biphase := true }) ++ List.replicate 183 (ainSub, ainSub) }
def ainOdd : AinBlock := { ainBlock with span := msDt 5 }

theorem witness_InputsLockLoseAndChangeRate :
    (let m := moment 0 (ain id); let a := m.port.ains[0]; ainOn 0 m = true ∧ a.lostAt = none ∧ a.locked = false ∧ nominalOf ainBlock = some 2 ∧ nominalOf ainOdd = none
        ∧ ¬ (a.blocks = 1 ∧ a.rate = (2 : Fin 5).val) ∧ ainOn 0 (moment 0 up) = false)
      ∧ (let a := (moment 0 (ain fun a => { a with blocks := 1, rate := 2 })).port.ains[0]; a.lostAt = none ∧ a.locked = false ∧ a.blocks = 1 ∧ a.rate = (2 : Fin 5).val)
      ∧ (let a := (moment 0 (ain fun a => { a with locked := true, rate := 2 })).port.ains[0]; a.locked = true ∧ a.lostAt = none ∧ 16 < faultsOf ainFaulty
          ∧ faultsOf ainBlock ≤ 16 ∧ faultsOf ainBlock32 ≤ 16 ∧ farFrom a.rate ainBlock = false ∧ farFrom a.rate ainBlock32 = true)
      ∧ (let a := (ain fun a => { a with nonAudio := true, quiet := 16384 }).port.ains[0]; a.nonAudio = true ∧ csNonAudio a.csA = false ∧ csNonAudio a.csB = false ∧ 16384 ≤ a.quiet
          ∧ (ain id).port.ains[0].nonAudio = false)
      ∧ (let s (d : DT) := ain fun a => { a with locked := true, lastGood := d }; (s 0).port.ains[0].locked = true
          ∧ 3 * 2 ^ 32 ≤ dtSince 0 (now (moment 0 (s 0))) * ainRate (s 0).port.ains[0].rate
          ∧ ¬ 3 * 2 ^ 32 ≤ dtSince 0x1000000000 (now (moment 0 (s 0))) * ainRate (s 0).port.ains[0].rate)
      ∧ (let m := moment 0 (ain fun a => { a with lostAt := some 0 }); m.port.ains[0].lostAt.isSome = true ∧ ainOn 0 m = true)
      ∧ (let s := ain fun a => { a with locked := true, changeFrom := some 0, fresh := [ainBlock32, ainBlock32] }; s.port.ains[0].changeFrom = some 0 ∧ s.port.ains[0].locked = true
          ∧ s.port.ains[0].fresh = ainBlock32 :: ainBlock32 :: [] ∧ nominalOf ainBlock32 = some 0 ∧ (ain id).port.ains[0].fresh.length < 2
          ∧ msDt 100 ≤ dtSince 0 (now (moment 0 s)) ∧ dtSince 0x1000000000 (now (moment 0 s)) < msDt 100)
      ∧ (let s (d : DT) := modAin 0 (fun a => { a with cmp := some 0, cmpAt := d, locked := true }) (svc id); (s 0).port.ains[0].cmp = some 0 ∧ (s 0).port.ains[0].locked = true
          ∧ (s 0).port.ains[0].nonAudio = false ∧ (s 0).audio.svcs[0].st = .running ∧ up.audio.svcs[0].st ≠ .running ∧ up.port.ains[0].locked = false ∧ up.port.ains[0].cmp = none
          ∧ (fget (s 0).port.ains[0].cmpCfg 0x0D03).toNat * 2 ^ 32 ≤ dtSince 0 (now (moment 0 (s 0)))
          ∧ ¬ (fget (s 0).port.ains[0].cmpCfg 0x0D03).toNat * 2 ^ 32 ≤ dtSince 0x1000000000 (now (moment 0 (s 0)))) := by decide +kernel

/-- A comparison of sides of the same words finds a delay: of those at which three quarters can be compared, the first (CMP_WIN of 1 s, MAX_DELAY of 0 s). -/
theorem witness_InputsLockLoseAndChangeRate_search :
    let l := List.replicate 64 ((7, true) : Nat × Bool)
    searchDelay { Svc.reset with words := l, subEnd := 64 } { Ain.reset with words := l, subEnd := 64, cmpCfg := [(0x0D02, 0), (0x0D04, 1)] } = some (-8) := by
  decide +kernel

/-- `up` with a pool of 2000 MB and capture slot 0 in a state. -/
def cap (st : CapState) : State := modMem (fun m => { m with poolMb := 2000 }) (modSlot 0 (fun c => { c with st := st }) up)

/-- MEM_CAPTURE_ARM of slot 0: source, index, PRE, POST. -/
def armHeld (src idx : Byte) (pre post : Nat) : Held := hd 0x0700 .memCaptureArm (ent 0 ([src, idx, 0, 0] ++ leBytes 4 pre ++ leBytes 4 post))

theorem witness_CapturesAreArmedFrozenAndRead :
    ((cap .armed).mem.slots[0].armed = true ∧ (cap .idle).mem.slots[0].armed = false)
      ∧ (let a := Entry.args (armHeld 2 0 0 0).entry; capPre a = 0 ∧ capPost a = 0)
      ∧ (let a := Entry.args (armHeld 0 1 10 10).entry; capPre a ≠ 0 ∧ capSource a < 2 ∧ capIndex a = 1 ∧ peerStream (capSource a == 1) (cap .idle) = false)
      ∧ (let a := Entry.args (armHeld 0 0 10 4000000000).entry; let s := cap .idle; capIndex a ≠ 1 ∧ 3072 < captureMb (capSource a) (capIndex a) (capPre a) (capPost a) s)
      ∧ (let a := Entry.args (armHeld 0 0 10 10).entry; let s := cap .idle; let mb := captureMb (capSource a) (capIndex a) (capPre a) (capPost a) s;
          ¬ 3072 < mb ∧ ¬ 2 ≤ rawSlots 0 s ∧ ¬ poolFree s + s.mem.slots[0].ring < mb)
      ∧ ((cap .triggered).mem.slots[0].st = .triggered ∧ (cap .frozen).mem.slots[0].st = .frozen ∧ (cap .armed).mem.slots[0].st = .armed)
      ∧ (let c := (cap .triggered).mem.slots[0]; c.trigger.toNat + msDt c.post ≤ (now (moment 0 (cap .triggered))).toNat ∧ (cap .triggered).host.held = [])
      ∧ (le (Entry.args (ent 0 [0])) 0 1 = 0 ∧ le (Entry.args (ent 0 [1])) 0 1 ≠ 0)
      ∧ (up.audio.svcs[0].st = .free ∧ (svc id).audio.svcs[0].st ≠ .free ∧ poolFree (svc id) < depthMb 600000 - depthMb (svc id).mem.depth[0]
          ∧ depthMb 0 - depthMb (svc id).mem.depth[0] ≤ poolFree (svc id))
      ∧ (isRunning up = true ∧ State.reset.power.st = .coldStart ∧ (let s := modPower (fun p => { p with st := .recovery }) up; isRunning s = false ∧ s.power.st ≠ .coldStart)) := by decide +kernel

/-- A triggered ring of blocks whose POST has passed: one block is of its span, one came too early. -/
theorem witness_CapturesAreArmedFrozenAndRead_span :
    let b : DT × List Byte := (0x0F80000000, [1])
    let s := modSlot 0 (fun c => { c with source := 3, pre := 10, post := 10, ring := 1, trigger := 0x0F80000000, blocks := [(5, [2]), b] }) (cap .triggered)
    let m := moment 0 s
    let c := m.mem.slots[(0 : Fin 4)]
    (c.st = .triggered ∧ m.power.st ≠ .dormant ∧ c.trigger.toNat + msDt c.post ≤ (now m).toNat ∧ m.host.held = [] ∧ c.source = 3)
      ∧ spanOfRing c (blockSpan c m) (c.blocks.drop (c.blocks.length - c.ring * 1048576 / blockSize c.source c.index)) = b :: []
      ∧ b ∈ spanOfRing c (blockSpan c m) c.blocks ∧ ¬ (cap .idle).mem.slots[(0 : Fin 4)].st = .triggered := by decide +kernel

/-- `up` with a key in slot 0. -/
def keyed (type usage counter blockEnd : Nat) : State :=
  modCry (fun c => { c with keys := c.keys.set 0 (some { type := type, usage := usage, ident := 1, bytes := [], counter := counter, blockEnd := blockEnd, used := false, nearDone := false }) }) up

def pfail (s : State) : State := modPower (fun p => { p with pfail := true }) s

/-- CRY_KEY_LOAD into slot 1 under wrapping key `w`. -/
def loadHeld (w : Nat) : Held := hd 0x0800 .cryKeyLoad (ent 1 ([0, 1] ++ leBytes 2 w))

theorem witness_KeysAreLoadedDerivedAndRetired :
    ((ent 1 []).target.toNat = (1 : Fin 64).val ∧ (pfail up).power.pfail = true ∧ up.cry.keys[1].isSome = false ∧ up.power.pfail = false)
      ∧ (le (Entry.args (loadHeld 0).entry) 2 2 = 0 ∧ le (Entry.args (loadHeld 0xFFFF).entry) 2 2 = 0xFFFF ∧ (keyAt 0 up).isNone = true)
      ∧ (match keyAt 0 (keyed 0 2 0 0) with | some k => isAes k && testBit k.usage 1 && !worn k | none => false) = true
      ∧ (match keyAt 0 (keyed 0 0 0 0) with | some k => isAes k && testBit k.usage 1 | none => true) = false
      ∧ (identsOut up = false ∧ identsOut (modCry (fun c => { c with nextIdent := 0xFFFFFFFE }) up) = true)
      ∧ (match keyAt 0 (keyed 0 16 0 0) with | some k => testBit k.usage 4 && !worn k | none => false) = true
      ∧ (match keyAt 0 (keyed 0 16 keyEnd 0) with | some k => testBit k.usage 4 && worn k | none => false) = true
      ∧ (up.cry.keys[0].isNone = true ∧ (keyed 0 2 0 0).cry.keys[0].isSome = true)
      ∧ (up.power.pfail = false ∧ up.cry.counters[0] ≠ 0xFFFFFFFF ∧ (modCry (fun c => { c with counters := c.counters.set 0 0xFFFFFFFF }) up).cry.counters[0] = 0xFFFFFFFF) := by decide +kernel

/-- Whatever key unwrapping gives, one of the two clauses on it is met. -/
theorem witness_KeysAreLoadedDerivedAndRetired_unwrapped (wrap : List Byte) :
    let a := Entry.args (loadHeld 0xFFFF).entry
    unwrapped (le a 0 1) wrap ((a.drop 8).take 40) = none ∨ ∃ bytes, unwrapped (le a 0 1) wrap ((a.drop 8).take 40) = some bytes := by
  intro a
  cases unwrapped (le a 0 1) wrap ((a.drop 8).take 40) with
  | none => exact Or.inl rfl
  | some b => exact Or.inr ⟨b, rfl⟩

/-- `up` with the entropy source as `f` makes it. -/
def entro (f : Entropy → Entropy) : State := modCry (fun c => { c with entropy := f { Entropy.reset with testing := false, failed := false, failures := [] } }) up

def glazeMsg : GlazeMsg := { cmd := 0, cls := 0, hash := false, slot := 0, key := [] }

/-- CRY_PROCESS in a mode with key slot 0. -/
def procHeld (mode : Byte) : Held := hd 0x0803 (fun e => .cryProcess e [] []) (ent 0 [mode])

def sherd : Sherd := { seq := 0, data := [], untagged := false, drained := false, sent := none }

theorem witness_GlazeAndLogsAnswer :
    ((entro fun x => { x with failed := true }).cry.entropy.failed = true ∧ (entro id).cry.entropy.failed = false ∧ le (Entry.args (procHeld 7).entry) 0 1 = 7
        ∧ le (Entry.args (procHeld 0).entry) 0 1 ≠ 7 ∧ (keyAt 0 up).isNone = true)
      ∧ (match keyAt 0 (keyed 0 1 0 9) with | some k => keySuits 0 k && !worn k && buildsNonce 0 && decide (k.counter < k.blockEnd) | none => false) = true
      ∧ (match keyAt 0 (keyed 0 2 0 0) with | some k => keySuits 1 k && !worn k && !buildsNonce 1 && !keySuits 0 k | none => false) = true
      ∧ (match keyAt 0 (keyed 0 1 keyEnd 0) with | some k => keySuits 0 k && worn k | none => false) = true
      ∧ (match keyAt 0 (pfail (keyed 0 1 0 0)) with | some k => keySuits 0 k && decide (k.blockEnd ≤ k.counter) && (pfail (keyed 0 1 0 0)).power.pfail | none => false) = true
      ∧ (up.cry.cores[0].running = none
          ∧ (let s := holding [procHeld 1] (modCry (fun c => { c with cores := upd c.cores 0 fun _ => { running := some glazeMsg, suspended := [] } }) up);
              s.cry.cores[0].running = some glazeMsg ∧ findHeld glazeMsg.cmd s = some (procHeld 1) ∧ (procHeld 1).cmd = .cryProcess (ent 0 [1]) [] []))
      ∧ (((entro id).cry.entropy.failures.filter fun d => decide (dtSince d (now (moment 0 up)) ≤ 2 ^ 32)).length < 2
          ∧ 2 ≤ ((entro fun x => { x with failures := [0x1000000000, 0x1000000000] }).cry.entropy.failures.filter fun d => decide (dtSince d (now (moment 0 up)) ≤ 2 ^ 32)).length)
      ∧ ((entro fun x => { x with testing := true }).cry.entropy.testing = true ∧ (entro id).cry.entropy.testing = false)
      ∧ ((ent 1 []).target.toNat = 1 ∧ (ent 0 []).target.toNat = 0 ∧ le (Entry.args (ent 0 [0xFF, 0xFF])) 0 2 = 0xFFFF ∧ le (Entry.args (ent 0 [0, 0])) 0 2 ≠ 0xFFFF)
      ∧ (match keyAt 0 (keyed 2 8 0 0) with | some k => testBit k.usage 3 | none => false) = true
      ∧ (match keyAt 0 (keyed 2 1 0 0) with | some k => testBit k.usage 3 | none => true) = false
      ∧ (let s := modCry (fun c => { c with log := [sherd] }) up; le (Entry.args (ent 0 [0xFF, 0xFF, 0, 0, 77])) 4 4 ≠ s.cry.ringKb ∧ s.pair.role ≠ 2
          ∧ s.cry.log.any (fun x => !x.drained) = true ∧ up.cry.log.any (fun x => !x.drained) = false)
      ∧ (let s := modCry (fun c => { c with nextSeq := 5 }) up; s.cry.nextSeq.toNat ≤ le (Entry.args (ent 0 (List.replicate 16 0 ++ [5]))) 16 8
          ∧ le (Entry.args (ent 0 [])) 16 8 < s.cry.nextSeq.toNat)
      ∧ (let s := modSg (fun g => { g with seq := 5 }) up; s.sg.seq.toNat ≤ le (Entry.args (ent 1 (List.replicate 16 0 ++ [5]))) 16 8
          ∧ le (Entry.args (ent 1 [])) 16 8 < s.sg.seq.toNat) := by decide +kernel

/-- `up` with one firing of an activity on object `o`, changed by `f`. -/
def fired (a o : Nat) (f : Firing → Firing) : State :=
  modMnt (fun m => { m with firings := [f { activity := a, obj := o, last := 0, due := 0, running := false, requested := true, cmds := [], deferrals := 0, raised := false,
                                            blocks := 0, discarded := 0, storing := none, drift := 0, moves := [],
                                            outcome := 0, quality := 0, value := 0, lastEnd := 0, lastTemp := none }] }) up

theorem witness_KilnFiresPlansAndStores :
    (le (Entry.args (ent 0 [3])) 0 1 = (3 : Fin 9).val ∧ (findFiring 3 0 (fired 3 0 id)).isSome = true ∧ fireable 3 0 (fired 3 0 id) = true ∧ (findFiring 3 0 up).isNone = true
        ∧ (match findFiring 3 0 (fired 3 0 fun f => { f with running := true }) with | some f => f.running | none => false) = true
        ∧ (match findFiring 3 0 (fired 3 0 id) with | some f => f.running | none => true) = false)
      ∧ ((6 : Fin 9).val = 6 ∧ (0 : Fin 9).val ≠ 6 ∧ (0 : Fin 9).val ≠ 7 ∧ le (Entry.args (ent 0 [1])) 0 1 = 1 ∧ le (Entry.args (ent 0 [0])) 0 1 ≠ 1)
      ∧ (let m := withEntry 3 0 (moment 0 (fired 3 0 id)); isRunning m = true ∧ m.mnt.paused = false
          ∧ (match findFiring 3 0 m with | some f => isDue f m && canFire f m | none => false) = true)
      ∧ (let m := withEntry 3 0 (moment 0 (fired 3 0 fun f => { f with requested := false, due := 0xFFFFFFFFFFFFFFFF })); isRunning m = true
          ∧ (match findFiring 3 0 m with | some f => isDue f m | none => true) = false)
      ∧ (let s := fired 3 0 id; let m := moment 0 { s with mnt := { s.mnt with acts := upd s.mnt.acts 3 fun a => { a with window := 1 } } };
          (match findFiring 3 0 m with | some f => isDue f m && !f.raised && decide (f.due.toNat + m.mnt.acts[3].window * 2 ^ 32 ≤ (now m).toNat) | none => false) = true)
      ∧ (firingRuns 3 0 (moment 0 (fired 3 0 fun f => { f with running := true })) = true ∧ firingRuns 0 0 (moment 0 (fired 0 0 fun f => { f with running := true })) = true
          ∧ firingRuns 3 0 (moment 0 up) = false)
      ∧ (let s := modMnt (fun m => { m with stores := [(.schedule, 0, none)] }) up; (s.mnt.stores.filter fun x => x.1 == .schedule) ≠ [] ∧ (up.mnt.stores.filter fun x => x.1 == .schedule) = [])
      ∧ (State.reset.power.porstN = false ∧ up.power.porstN = true ∧ up.power.st = .running
          ∧ (let p := (modPower (fun p => { p with st := .recovery }) up).power; p.st ≠ .running ∧ p.st ≠ .dormant) ∧ (modPower (fun p => { p with st := .dormant }) up).power.st = .dormant)
      ∧ (dtSince up.mnt.cone.planDt (now (moment 0 up)) < daysDt 30 ∧ daysDt 30 ≤ dtSince up.mnt.cone.planDt (now (moment (BitVec.ofNat 64 (daysDt 31)) up))) := by decide +kernel

/-- A firing that another one keeps from starting: the same tuner. -/
theorem witness_KilnFiringsWait :
    let s := modMnt (fun m => { m with firings := m.firings ++ [{ activity := 8, obj := 0, last := 0, due := 0, running := true, requested := false, cmds := [], deferrals := 0,
                                                                  raised := false, blocks := 0, discarded := 0, storing := none, drift := 0, moves := [],
                                                                  outcome := 0, quality := 0, value := 0, lastEnd := 0, lastTemp := none }] })
      (modTuner 0 (fun x => { x with st := .rx }) (fired 2 0 id))
    (match findFiring 2 0 (moment 0 s) with | some f => isDue f (moment 0 s) && !canFire f (moment 0 s) | none => false) = true := by decide +kernel

/-- What a firing of activity 2 found: one good block, estimates that are the values in force. -/
def firing2 : FiringResult := { blocks := [calBlock], estimates := List.replicate 3 { value := 0, unc := 0 }, rejection := 700, trim := 0, levels := [] }

/-- Firings that end well, on an unsuitable input, implausibly, on a clipped input; a store that failed once; Cone samples that are due and
that are not; a stopped AVS. -/
theorem witness_KilnFiresPlansAndStores_ends :
    (let m := moment 0 (fired 2 0 fun f => { f with running := true, blocks := 1 });
        (match findFiring 2 0 m with
          | some f => f.running && f.storing.isNone && suitable f firing2 m && plausible f firing2 m && (judgedOutcome f firing2 m == .ok)
              && (judgedOutcome f { firing2 with blocks := [] } m == .unsuitable)
              && (judgedOutcome f { firing2 with estimates := List.replicate 3 { value := 9999, unc := 0 } } m == .implausible)
          | none => false) = true)
      ∧ (let m := moment 0 (modWb 0 (fun x => { x with clippedSinceCal := true }) (fired 3 0 fun f => { f with running := true, blocks := 1 }));
          (3 : Fin 9).val = 3 ∧ (0 : Fin 64).val = (0 : Fin 2).val ∧ m.rf.wb[(0 : Fin 2)].clippedSinceCal = true ∧ (findFiring 3 0 m).isSome = true)
      ∧ (match findFiring 2 0 (moment 0 (fired 2 0 fun f => { f with running := true, storing := some 0 })) with | some f => f.storing.isSome | none => false) = true
      ∧ (let s := modMnt (fun m => { m with stores := [(.schedule, 1, none)] }) up; (s.mnt.stores.filter fun x => x.1 == .schedule) = (.schedule, 1, none) :: [] ∧ (1 : Nat) ≠ 0)
      ∧ (conePeriod up * 2 ^ 32 ≤ dtSince up.mnt.sampledAt (now (moment 0 up))
          ∧ (let s := modMnt (fun m => { m with sampledAt := 0x1000000000 }) up; ¬ conePeriod s * 2 ^ 32 ≤ dtSince s.mnt.sampledAt (now (moment 0 s)))
          ∧ (∀ st ∈ [DevState.recovery, .dormant], let s := modPower (fun p => { p with st := st }) up; conePeriod s * 2 ^ 32 ≤ dtSince s.mnt.sampledAt (now (moment 0 s))))
      ∧ ((modPower (fun p => { p with avsStopped := true }) up).power.avsStopped = true ∧ up.power.avsStopped = false) := by decide +kernel

/-- `up` as the PRIMARY of a pair in a mode. -/
def paired (mode role : Nat) (link : LinkState) : State := modPair (fun p => { p with link := link, role := role, mode := mode, lanes := 15 }) up

def join : Join := { cmd := 0, mode := 0, role := 1, exports := 0, at_ := 0 }

def joinInfo : JoinInfo :=
  { peerMode := 0, peerRole := 2, peerSpan := true, peerHasOpen := false, peerExport := 0, lanes := 15, transit := 0, dtOffset := 0, primaryDt := 0 }

theorem witness_PairsJoinRunAndPart :
    (joined up = false ∧ up.pair.join = none ∧ le (Entry.args (ent 0 [0])) 0 1 ≠ 2 ∧ joined (paired 0 1 .up) = true ∧ le (Entry.args (ent 0 [2])) 0 1 = 2 ∧ (logKey up).isNone = true)
      ∧ (let s := paired 0 1 .up; joined s = true ∧ s.pair.takeover = false ∧ secondaryOpen s = false ∧ usesPeer s = false ∧ inShield s = false ∧ inShield (paired 2 1 .up) = true
          ∧ secondaryOpen (paired 2 1 .up) = false ∧ usesPeer (paired 2 1 .up) = false)
      ∧ (let s := modPair (fun p => { p with link := .up, role := 1, mode := 2 }) (fm id id); s.cx.ctxs[0].st ≠ .closed ∧ inShield s = true)
      ∧ ((modPair (fun p => { p with join := some join }) up).pair.join = some join ∧ (paired 0 1 .up).pair.join = none ∧ (paired 0 1 .up).pair.link ≠ .lost
          ∧ (paired 0 1 .lost).pair.link = .lost ∧ (paired 0 1 .training).pair.link = .training)
      ∧ ((paired 0 1 .up).pair.lanes.getLsbD 2 = true ∧ laneCount ((modPair (fun p => { p with lanes := 6 }) (paired 0 1 .up)).pair.lanes &&& ~~~ BitVec.twoPow 4 2) = 1)
      ∧ (let s := modPair (fun p => { p with lanes := 3 }) (paired 0 1 .degraded); joined s = true ∧ s.pair.lanes.getLsbD 2 = false ∧ s.pair.link ≠ .lost)
      ∧ (let m := setLink .training (moment 0 (modPair (fun p => { p with join := some join }) up)); joinFails join joinInfo m = none
          ∧ joinFails join { joinInfo with peerMode := 1 } m = some .errParam)
      ∧ (10 * 2 ^ 32 ≤ dtSince join.at_ (now (moment 0 up)) ∧ dtSince 0x1000000000 (now (moment 0 up)) < 10 * 2 ^ 32)
      ∧ ((paired 0 2 .up).pair.role = 2 ∧ (paired 0 2 .up).pair.link = .up)
      ∧ (let s := paired 0 1 .training; let r := modPair (fun p => { p with trainFrom := 0x1000000000 }) s; joined (moment 0 s) = true
          ∧ msDt 5 ≤ dtSince s.pair.trainFrom (now (moment 0 s)) ∧ ¬ msDt 5 ≤ dtSince r.pair.trainFrom (now (moment 0 r)))
      ∧ (let s := modPair (fun p => { p with lanes := 3 }) (paired 0 1 .degraded); let r := modPair (fun p => { p with laneAt := p.laneAt.set 2 0x1000000000 }) s;
          joined (moment 0 s) = true ∧ msDt 1000 ≤ dtSince s.pair.laneAt[2] (now (moment 0 s)) ∧ ¬ msDt 1000 ≤ dtSince r.pair.laneAt[2] (now (moment 0 r))) := by decide +kernel

/-! ### Witnesses: Saggar, starts and pins, two-wire ports -/

/-- `fm` with the Saggar READY and unsealed, changed by `f`. -/
def sg (f : SaggarSt → SaggarSt) : State := modSg (fun g => f { g with st := .ready, sealSt := .unsealed }) (fm id id)

/-- A queued FM job on the context's own path. -/
def job (running : Bool) (quantity : Nat) : Job :=
  { id := 4, running := running, lport := true, ctx := 0, quantity := quantity, pathSel := 1, duration := 100, start := 0, planned := 0, expected := none,
    bandwidth := 0, path := some 0, own := 0, tuner := none, carver := none, wheel := none, began := 0, cStart := 0, std := .fm, freq := 98000000, carverCfg := [], tone := 0,
    toneBad := false, unsealed := false, fault := false, broken := false, tap := none, tapped := 0, tapClips := 0, gainSteps := [] }

/-- A measurement request of a quantity. -/
def req (quantity duration : Nat) : Request :=
  { quantity := quantity, sel := 0, duration := duration, start := 0, expected := none, bandwidth := 0, lport := false }

def sgRes : SgResult :=
  { job := 4, quantity := 2, flags := 0, ctx := 0, start := 0, finish := 0, value := 0, uncertainty := 0, seq := 0, invalid := 0, notLegal := 0, source := 0, path := 0,
    idSource := 0, cStart := 0, cEnd := 0, ident := 0 }

theorem witness_SaggarSealsJudgesAndMeasures :
    (up.power.sealSw = false ∧ sgActs (moment 0 (sg id)) = true ∧ (sg fun g => { g with sealSt := .sealed_ }).sg.sealSt = .sealed_ ∧ (sg id).sg.sealSt = .unsealed
        ∧ (modPower (fun p => { p with sealSw := true }) (sg id)).power.sealSw ≠ false ∧ (sg id).sg.sealSt ≠ .sealed_)
      ∧ ((sg fun g => { g with tamperArmed := true }).sg.tamperArmed = true ∧ (sg fun g => { g with tamperArmed := false }).sg.tamperArmed = false)
      ∧ (up.sg.st = .off ∧ up.power.porstN = true ∧ State.reset.power.porstN = false ∧ (sg id).sg.st ≠ .off ∧ (sg id).sg.st ≠ .stopped ∧ (sg id).sg.lastFault = none
          ∧ (sg fun g => { g with st := .stopped }).sg.st = .stopped ∧ (sg fun g => { g with st := .boot }).sg.st = .boot)
      ∧ (let s := sg fun g => { g with formed := [(3, [])] }; s.sg.st ≠ .boot ∧ s.sg.formed = (3, []) :: [] ∧ (sg id).sg.formed = [])
      ∧ (dtSince (sg id).sg.lastVerify (now (moment 0 (sg id))) < (sg id).sg.verifyMax * 3600 * 2 ^ 32
          ∧ (sg fun g => { g with verifyMax := 0 }).sg.verifyMax * 3600 * 2 ^ 32 ≤ dtSince (sg id).sg.lastVerify (now (moment 0 (sg id))))
      ∧ (let s := sg fun g => { g with jobs := [job false 2] }; s.sg.jobs.any (·.id == 4) = true ∧ (sg id).sg.jobs.any (·.id == 4) = false
          ∧ (sg id).sg.results.find? (·.job == 4) = none ∧ (sg fun g => { g with results := [sgRes] }).sg.results.find? (·.job == 4) = some sgRes)
      ∧ (le (Entry.args (ent 0 [0])) 0 1 = 0 ∧ le (Entry.args (ent 0 [1])) 0 1 ≠ 0)
      ∧ (judge (req 2 100) 1 (sg id) = some .state ∧ judge (req 2 99) 0 (sg id) = some .duration ∧ judge (req 1 100) 0 (sg id) = none ∧ judge (req 2 100) 0 (sg id) = none
          ∧ judge (req 0 100) 0 (sg id) = some .quantity) := by decide +kernel

theorem witness_SaggarJobsStartAndEnd :
    (let m := moment 0 (sg fun g => { g with jobs := [job false 2] }); m.sg.jobs.find? (·.id == 4) = some (job false 2) ∧ m.sg.jobs.find? (·.id == 5) = none
        ∧ isRunning m = true ∧ canStart (job false 2) 0 m = true ∧ [job false 2].any (fun k => beforeJob k (job false 2) && canStart k 0 m) = false
        ∧ levelJob (job false 2) = false ∧ (choosePath (job false 2).pathSel 0 m).isSome = true ∧ (job false 2).ctx = (0 : Fin 64).val)
      ∧ (let m := moment 0 (modSlip (fun x => { x with owner := .host }) (sg fun g => { g with jobs := [job false 1] })); canStart (job false 1) 0 m = true
          ∧ levelJob (job false 1) = true ∧ slipForSaggar m = false)
      ∧ canStart (job true 2) 0 (moment 0 (sg id)) = false
      ∧ (let m := moment 0 (sg fun g => { g with jobs := [job true 2] }); (job true 2).running = true ∧ (dtAdd (job true 2).began (msDt (job true 2).duration)).toNat ≤ (now m).toNat
          ∧ ¬ (dtAdd 0x1000000000 (msDt (job true 2).duration)).toNat ≤ (now m).toNat)
      ∧ (levelJob (job true 1) = true ∧ slipForSaggar (sg id) = true) := by decide +kernel

/-- No source is left for a request that asks for a tuner of its own. -/
theorem witness_SaggarFindsNoResource : judge { req 2 100 with sel := 2 } 0 (deaf (sg id)) = some .resource := by decide +kernel

/-- `sg` with tuner 0 on its hop to 150 MHz, one of two alternatives that no carver reaches. -/
def hopping (f : Tuner → Tuner) : State :=
  modTuner 0 (fun x => f { x with st := .rx, freq := some 150000000 }) (modCx (fun x => { x with hops := upd x.hops 0 fun _ => some 150000000 })
    (modCtx 0 (fun x => { x with cfg := [(0x0A03, 1), (0x0A09, 1)], afs := [{ alt none with freq := 150000000 }, { alt none with freq := 151000000 }] }) (sg id)))

/-- The hop goes on to the next of its list; it ends with no list, and where a Saggar job waits for the last tuner. -/
theorem witness_AlternativesAreMeteredAndConfigured_hops :
    (let m := moment 0 (hopping id); let v := assignMeters m; let l := hopKeys (meterPlan v) v; m.cx.hops[(0 : Fin 4)] = some 150000000 ∧ pathsOn 8 m = []
        ∧ jobWantsHop m = false ∧ v.cx.hops[(0 : Fin 4)] = some 150000000 ∧ v.rf.tuners[(0 : Fin 4)].st = .rx ∧ v.rf.tuners[(0 : Fin 4)].change = none
        ∧ l.findIdx? (· == 150000000) = some 0 ∧ l[0 + 1]? = some 151000000)
      ∧ (let m := moment 0 (modCtx 0 (fun x => { x with afs := [] }) (hopping id)); m.cx.hops[(0 : Fin 4)] = some 150000000 ∧ pathsOn 8 m = []
          ∧ (assignMeters m).cx.hops[(0 : Fin 4)] = none)
      ∧ (let m := moment 0 (modSg (fun g => { g with jobs := [{ job false 2 with pathSel := 0 }] }) (deaf (hopping id))); m.cx.hops[(0 : Fin 4)] = some 150000000
          ∧ pathsOn 8 m = [] ∧ jobWantsHop m = true) := by decide +kernel

/-- A recovery in time and one that took too long; a level job whose readings have levels. -/
theorem witness_SaggarSealsJudgesAndMeasures_recovery :
    (let s (d : DT) := sg fun g => { g with st := .boot, recovering := some .sram, lastFault := some d }; (s 0).sg.st = .boot
        ∧ ¬ dtSince 0 (now (moment 0 (s 0))) ≤ msDt 500 ∧ (s 0x1000000000).sg.lastFault = some 0x1000000000
        ∧ dtSince 0x1000000000 (now (moment 0 (s 0x1000000000))) ≤ msDt 500 ∧ up.sg.recovering = none)
      ∧ (let m := moment 0 (sg fun g => { g with lastFault := some 0, jobs := [job true 1] }); daysDt 1 < dtSince 0 (now (moment (BitVec.ofNat 64 (daysDt 2)) m))
          ∧ (levelOf (jobSource (job true 1) m) (1000000, 10) m).isSome = true ∧ (job true 1).quantity = 1) := by decide +kernel

/-- `up` in a state of the device. -/
def dev (st : DevState) : State := modPower (fun p => { p with st := st }) up

theorem witness_StartsAndPinsAct :
    ((let v : BitVec 32 := 0x5A3C0100; regOpen (moment 0 up) = true ∧ v.toNat / 65536 = 0x5A3C ∧ v.toNat / 256 % 4 = 1 ∧ isRunning (moment 0 up) = true ∧ up.power.entering = false)
        ∧ isRunning (dev .recovery) = false)
      ∧ (let v : BitVec 32 := 0x5A3C0200; coldAllowed (moment 0 up) = true ∧ v.toNat / 65536 = 0x5A3C ∧ v.toNat / 256 % 4 = 2 ∧ coldAllowed (dev .halted) = false)
      ∧ (dtSince up.power.runningSince (now (moment 0 up)) < 60 * 2 ^ 32 ∧ 60 * 2 ^ 32 ≤ dtSince up.power.runningSince (now (moment 0x4000000000 up)))
      ∧ (State.reset.power.porstN = false ∧ up.power.porstN = true)
      ∧ (bootOpen (moment 0 up) = false ∧ bootOpen (moment 0 (dev .recovery)) = true ∧ (dev .recovery).power.imgBusy = false ∧ (0x1000 : BitVec 32).toNat ≤ 16777216
          ∧ (dev .recovery).power.imgLen.toNat < 4096)
      ∧ (let s := modPower (fun p => { p with imgBusy := true }) (dev .recovery); s.power.imgBusy = true ∧ s.power.st = .recovery ∧ up.power.imgBusy = false ∧ State.reset.power.st = .coldStart
          ∧ (1 : Fin 6).val = 1 ∧ (2 : Fin 6).val ≠ 1 ∧ (4 : Fin 6).val ≠ 3)
      ∧ ((modPower (fun p => { p with waking := true }) (dev .warmStart)).power.waking = true ∧ up.power.waking = false ∧ up.power.boot.spllLocks = false
          ∧ (modPower (fun p => { p with waking := true, boot := { p.boot with spllLocks := true } }) (dev .warmStart)).power.boot.spllLocks = true)
      ∧ (isRunning up = true ∧ up.power.st ≠ .halted ∧ (dev .halted).power.st = .halted ∧ (dev .dormant).power.st = .dormant ∧ up.power.st ≠ .dormant)
      ∧ (let s (w : Bool) := modPower (fun p => { p with entering := true, wakeAfter := w }) up; (s false).power.entering = true ∧ isRunning (s false) = true
          ∧ (s false).power.st ≠ .dormant ∧ (s false).power.wakeAfter = false ∧ (s true).power.wakeAfter = true)
      ∧ (up.power.dormantArmed = true ∧ joined up = false ∧ (up.power.porstN || up.power.dormantReq) = true ∧ joined (paired 0 1 .up) = true)
      ∧ (up.power.pfail = false ∧ (pfail up).power.pfail = true ∧ up.power.avsStopped = false ∧ (modPower (fun p => { p with avsStopped := true }) up).power.avsStopped = true)
      ∧ (((700 : Int) - (700 + 5 * up.power.vid)).natAbs ≤ 10 ∧ ¬ ((900 : Int) - (700 + 5 * up.power.vid)).natAbs ≤ 10) := by decide +kernel

/-- Starts that are late and that are not; steps of AVS up, down and not at all; a settling that is judged too early. -/
theorem witness_StartsAndPinsAct_times :
    (let w (p : PowerSt → PowerSt) := modPower p up; let late (s : State) := dtSince s.power.startAt (now (moment 0 s));
        (w fun p => { p with st := .coldStart, waitImage := true }).power.st = .coldStart
          ∧ msDt 3000 ≤ late (w fun p => { p with st := .coldStart, waitImage := true })
          ∧ msDt 1000 ≤ late (w fun p => { p with waking := true }) ∧ ¬ msDt 1000 ≤ late (w fun p => { p with waking := true, startAt := 0x1000000000 }))
      ∧ (let p (target vid : Nat) := (modPower (fun p => { p with avsTarget := target, vid := vid }) up).power; let n (target : Nat) := min 30 ((target - 700) / 5);
          (p 850 3).vid < n 850 ∧ n 700 < (p 700 3).vid ∧ (p 715 3).vid = n 715)
      ∧ (let s := modMnt (fun m => { m with cone := { m.cone with margins := [60, 99] } }) up; s.mnt.cone.margins.all (fun (k : Int) => decide (60 ≤ k)) = true
          ∧ ¬ (modMnt (fun m => { m with cone := { m.cone with margins := [59] } }) up).mnt.cone.margins.all (fun (k : Int) => decide (60 ≤ k)) = true)
      ∧ (isRunning up = true ∧ up.power.avsStopped = false ∧ usDt 500 ≤ dtSince up.power.vidAt (now (moment 0 up)) ∧ ¬ dtSince up.power.vidAt (now (moment 0 up)) < msDt 5
          ∧ (let s := modPower (fun p => { p with vidAt := 0x1000000000 }) up; ¬ usDt 500 ≤ dtSince s.power.vidAt (now (moment 0 s))
              ∧ dtSince s.power.vidAt (now (moment 0 s)) < msDt 5))
      ∧ (let s := modPower (fun p => { p with imgBusy := true, st := .coldStart }) up; s.power.st = .coldStart ∧ s.power.imgBusy = true ∧ (3 : Fin 6).val = 3) := by decide +kernel

/-- A board on which a cold start reaches RUNNING. -/
def board : Boot := { Boot.reset with fusesOk := true, vaultOk := true, dramGB := 2, imageA := some 3, spllLocks := true }

/-- Reset with a LIFECYCLE and no least security version. -/
def off (lifecycle : BitVec 3) : State := modIdent (fun i => { i with lifecycle := lifecycle, minSecver := 0 }) State.reset

theorem witness_ColdStartsRunOrFailThreeTimes :
    ((off 1).power.porstN = false ∧ board.fusesOk = true ∧ (off 1).ident.lifecycle ≠ 3 ∧ board.vaultOk = true ∧ 2 ≤ board.dramGB ∧ board.bootsel ≠ 1 ∧ board.imageA = some 3
        ∧ (off 1).ident.minSecver.toNat ≤ 3 ∧ board.spllLocks = true ∧ board.dormantReq = false)
      ∧ Boot.reset.fusesOk = false ∧ (off 3).ident.lifecycle = 3 ∧ ({ board with vaultOk := false }).vaultOk = false ∧ ({ board with dramGB := 1 }).dramGB < 2
      ∧ ({ board with bootsel := 1 }).bootsel = 1 := by decide +kernel

theorem witness_WarmStartsReturnWhatIsHeld :
    ((let s := holding [getHeld, { getHeld with id := 1, deferred := true }] up; Machine.openHeld s = [getHeld] ∧ s.host.held.length = 2)
        ∧ Machine.Balanced up.host ∧ (dev .warmStart).power.st = .warmStart ∧ (dev .warmStart).power.waking = false ∧ up.power.st ≠ .warmStart)
      ∧ getHeld.deferred = false ∧ up.power.dormantReq = false ∧ (modPower (fun p => { p with dormantArmed := false }) up).power.dormantArmed = false ∧ joined (paired 0 1 .up) = true := by
  unfold Machine.Balanced LedgerRow.Balanced
  decide +kernel

/-- A whole write to the LPORT with a good PEC. -/
def lpx (code : Nat) (counted : Bool) (l : List Byte) : Xfer :=
  let d := if counted then BitVec.ofNat 8 l.length :: l else l
  { data := d, pec := some (crc8 (addrByte lpAddress false :: BitVec.ofNat 8 code :: d)), whole := true }

/-- A whole write to the MPORT, PEC off. -/
def mpx (counted : Bool) (l : List Byte) : Xfer := { data := if counted then BitVec.ofNat 8 l.length :: l else l, pec := none, whole := true }

/-- `up` with PEC on. -/
def pec : State := modMp (fun m => { m with control := 1 }) up

def mpres : MpResult := { entry := cqe, area := [] }

/-- Every outcome of a write of code `code` with `n` bytes at the MPORT: whole, ended early, wrong in its count or length, with a PEC byte
that does not match, and without one. -/
def framesOf (code : Nat) (counted : Bool) (n : Nat) : Prop :=
  let x := mpx counted (List.replicate n 0)
  frame (mpAddress up) code counted n (pecEn up) x = .data (List.replicate n 0)
    ∧ frame (mpAddress up) code counted n (pecEn up) { x with data := [], whole := false } = .nothing
    ∧ frame (mpAddress up) code counted n (pecEn up) (mpx counted (List.replicate (n + 1) 0)) = .nacked
    ∧ frame (mpAddress pec) code counted n (pecEn pec) { x with pec := some 1 } = .pecError
    ∧ frame (mpAddress pec) code counted n (pecEn pec) x = .pecMissing

theorem witness_MportAnswersAndDelivers :
    (mpAnswers up = true ∧ mpAnswers State.reset = false ∧ isRunning (dev .recovery) = false ∧ mpAnswers (dev .recovery) = true ∧ isRunning up = true ∧ mpCount (moment 0 up) < 8
        ∧ 8 ≤ mpCount (moment 0 (modMp (fun m => { m with received := List.replicate 8 [] }) up)))
      ∧ framesOf 0x10 true 64 ∧ framesOf 0x30 false 12
      ∧ (up.mp.results = [] ∧ (modMp (fun m => { m with results := [mpres] }) up).mp.results = mpres :: [] ∧ up.mp.lastResult = none
          ∧ (modMp (fun m => { m with lastResult := some mpres }) up).mp.lastResult = some mpres)
      ∧ (up.mp.timingNext = none ∧ (modMp (fun m => { m with timingNext := some (Timing.reset, 0) }) up).mp.timingNext = some (Timing.reset, 0))
      ∧ ((dev .dormant).power.st = .dormant ∧ mpAnswers (dev .dormant) = true ∧ up.power.st ≠ .dormant ∧ queue0Enabled up = true
          ∧ queue0Enabled (modPairq 0 (fun p => { p with enabled := false }) up) = false)
      ∧ ((modMp (fun m => { m with lastFromQueue := true }) up).mp.lastFromQueue = true ∧ up.mp.lastFromQueue = false ∧ up.mp.lastEvents.length + up.mp.mirror.length ≤ 64)
      ∧ (up.mp.busStuck = false ∧ (modMp (fun m => { m with busStuck := true }) up).mp.busStuck = true)
      ∧ (let s := modMp (fun m => { m with hnPending := true, control := 2 }) up; s.mp.hnPending = true ∧ s.mp.busStuck = false ∧ hnEn s = true ∧ up.mp.hnPending = false
          ∧ 2 ≤ (modMp (fun m => { m with hnTries := 2 }) s).mp.hnTries ∧ ¬ 2 ≤ s.mp.hnTries) := by
  unfold framesOf
  decide +kernel

theorem witness_MportAnswersAndDelivers_lines :
    (let s := modMp (fun m => { m with awake := some 0x0F00000000 }) (dev .dormant); s.power.st = .dormant ∧ s.mp.awake = some 0x0F00000000
        ∧ msDt 100 ≤ dtSince 0x0F00000000 (now (moment 0 s)) ∧ dtSince 0x1000000000 (now (moment 0 s)) < msDt 100 ∧ up.mp.awake = none)
      ∧ portUp .mport State.reset = false ∧ portUp .mport up = true ∧ portUp .lport (sg id) = true ∧ portUp .lport up = false := by decide +kernel

/-- The LPORT takes a write, with its bytes. -/
theorem lp_takes {code : Nat} {counted : Bool} {x : Xfer} {t : DT} {s : State} {l : List Byte}
    (h : (lpAnswers code (lpWake (moment t s)) = true ∧ s.sg.responses.length < 8)
      ∧ frame lpAddress code counted (if counted then (x.data.headD 0).toNat else x.data.length) true x = .data l) :
    LpTakes code counted x t s l := ⟨h.1.1, h.1.2, h.2⟩

theorem witness_LportReadsJudgesAndResponds :
    (let m := lpWake (moment 0 (sg id)); lpAnswers 0x10 m = true ∧ (sg id).sg.responses.length < 8 ∧ lpAnswers 0x10 (lpWake (moment 0 up)) = false
        ∧ 8 ≤ (sg fun g => { g with responses := List.replicate 8 [] }).sg.responses.length
        ∧ (let ok : Nat → Bool := (· == 8); let x := lpx 0x10 false (List.replicate 8 0); let y := lpx 0x10 true (List.replicate 9 0);
            ok x.data.length = true ∧ ok (y.data.headD 0).toNat = false ∧ y.data ≠ [] ∧ ok 9 = false ∧ ok 8 = true ∧ 8 < 9 ∧ ok 7 = false
            ∧ (∀ k, k < 7 → ok k = false)
            ∧ frame lpAddress 0x10 false 8 true { x with whole := false } = .nothing
            ∧ frame lpAddress 0x10 false 8 true { x with pec := some 1 } = .pecError ∧ frame lpAddress 0x10 false 8 true { x with pec := none } = .pecMissing
            ∧ frame lpAddress 0x10 true 9 true { y with data := y.data ++ [0] } = .nacked))
      ∧ (let m := lpWake (moment 0 (sg id)); lpAnswers 0x01 m = true ∧ lpAnswers 0x02 m = true ∧ lpAnswers 0x03 m = true ∧ lpAnswers 0x04 m = true ∧ lpAnswers 0x09 m = true
          ∧ lpAnswers 0x0A m = true ∧ lpAnswers 0x11 m = true ∧ lpAnswers 0x01 (lpWake (moment 0 up)) = false)
      ∧ (let s := sg fun g => { g with responses := [[1]], lastResponse := some [2] }; s.sg.responses.head? = some [1] ∧ s.sg.lateResponses = [] ∧ s.sg.lastResponse = some [2]
          ∧ (sg id).sg.responses = [] ∧ (sg id).sg.lastResponse = none)
      ∧ (logNext (sg id).sg = none ∧ logNext (sg fun g => { g with log := [(3, [])] }).sg = some (3, []))
      ∧ (let s := sg fun g => { g with jobs := [job false 2], results := [sgRes] }; (s.sg.jobs.any fun j => j.id.toNat == 4) = true ∧ ((sg id).sg.jobs.any fun j => j.id.toNat == 4) = false
          ∧ ((sg id).sg.results.find? fun r => r.job.toNat == 4) = none ∧ (s.sg.results.find? fun r => r.job.toNat == 4).isSome = true
          ∧ (s.sg.jobs.find? fun j => j.id.toNat == 4 && j.lport && !j.fault).isSome = true ∧ ((sg id).sg.jobs.find? fun j => j.id.toNat == 4 && j.lport && !j.fault) = none) := by
  decide +kernel

/-- SG_MEASURE bytes: context, quantity, path selection, duration. -/
def measureBytes (c : Nat) (quantity sel : Byte) (duration : Nat) : List Byte :=
  leBytes 2 c ++ [quantity, sel] ++ leBytes 4 duration ++ List.replicate 8 0 ++ List.replicate 4 0xFF ++ List.replicate 4 0

theorem witness_LportTakesRequests :
    LpTakes 0x10 false (lpx 0x10 false (List.replicate 8 0)) 0 (sg id) (List.replicate 8 0)
      ∧ LpTakes 0x0C true (lpx 0x0C true [4, 0, 0, 0]) 0 (sg id) [4, 0, 0, 0]
      ∧ LpTakes 0x0B true (lpx 0x0B true [4, 0, 0, 0]) 0 (sg id) [4, 0, 0, 0]
      ∧ LpTakes 0x08 true (lpx 0x08 true (measureBytes 0 2 1 100)) 0 (sg id) (measureBytes 0 2 1 100) := by
  refine ⟨lp_takes ?_, lp_takes ?_, lp_takes ?_, lp_takes ?_⟩ <;> decide +kernel

theorem witness_LportRequestsAreJudged :
    let m := lpWake (moment 0 (sg id))
    let j (l : List Byte) := judge (requestOf l) 0 m
    (measureBytes 0 2 1 100).length = 24 ∧ le (measureBytes 0 2 1 100) 0 2 = (0 : Fin 64).val ∧ 4 < (requestOf (measureBytes 0 5 1 100)).quantity
      ∧ (requestOf (measureBytes 0 2 1 100)).quantity ≤ 4 ∧ (requestOf (measureBytes 0 2 1 100)).sel ≤ 3 ∧ j (measureBytes 0 2 1 100) = none
      ∧ j (measureBytes 0 2 1 99) = some .duration ∧ judge (requestOf (measureBytes 1 2 1 100)) 1 m = some .state
      ∧ judge (requestOf (measureBytes 0 2 2 100)) 0 (deaf m) = some .resource := by decide +kernel

theorem witness_LportChangesAreSealedAndAudited :
    ((sg fun g => { g with sealSt := .sealed_ }).sg.sealSt = .sealed_ ∧ (sg id).sg.sealSt ≠ .sealed_ ∧ (sg id).sg.counters[0] ≠ 0xFFFFFFFF
        ∧ (sg fun g => { g with counters := g.counters.set 0 0xFFFFFFFF }).sg.counters[0] = 0xFFFFFFFF)
      ∧ (let s := modPower (fun p => { p with sealSw := true }) (sg id); s.sg.sealSt = .unsealed ∧ s.power.sealSw = true ∧ s.sg.tamper = false ∧ runningJobs s = []
          ∧ le [0, 0, 0, 0] 0 4 = auditOf s ∧ le [1, 0, 0, 0] 0 4 ≠ auditOf s ∧ (sg id).power.sealSw ≠ true)
      ∧ (let l : List Byte := [0, 0]; le l 0 1 = (0 : Fin 6).val ∧ le l 1 1 ≤ 1 ∧ l.length % 8 = 2 ∧ (entriesAt l 2).length ≤ 64 ∧ 2 ≤ l.length ∧ l.length ≤ 210)
      ∧ (let l : List Byte := [0, 0] ++ leBytes 8 77; let s := sg fun g => { g with afTables := g.afTables.set 0 ((List.range 64).map fun i => { khz := 1000 + i, value := 0, unc := 0 }) };
          64 < ((entriesAt l 2).foldl (fun acc e => putEntry e acc) s.sg.afTables[0]).length)
      ∧ ((runningJobs (sg fun g => { g with jobs := [job true 1] })).any levelJob = true ∧ (runningJobs (sg id)).any levelJob = false)
      ∧ (le [0, 0, 0, 0, 0] 0 1 = 0 ∧ le [1, 0, 0, 0, 0] 0 1 = 1 ∧ 1 < le [2, 0, 0, 0, 0] 0 1 ∧ 128 ≤ le [0x80, 40, 0, 0, 0] 0 1 ∧ 30 ≤ le [0x80, 40, 0, 0, 0] 1 4
          ∧ le [0x80, 29, 0, 0, 0] 1 4 < 30 ∧ le [0x81, 24, 0, 0, 0] 0 1 % 128 = 1 ∧ 1 ≤ le [0x81, 24, 0, 0, 0] 1 4 ∧ 1 < le [0x82, 0, 0, 0, 0] 0 1 % 128)
      ∧ (let l : List Byte := List.replicate 8 0; le l 4 4 = 0 ∧ le l 0 4 + (l.length - 8) ≤ 524288 ∧ le [0, 0, 0, 0, 1, 0, 0, 0] 4 4 ≠ 0) := by decide +kernel

theorem witness_LportTakesChanges :
    LpTakes 0x03 false (lpx 0x03 false (List.replicate 12 0)) 0 (sg id) (List.replicate 12 0)
      ∧ LpTakes 0x14 true (lpx 0x14 true [0, 0, 0, 0]) 0 (sg id) [0, 0, 0, 0]
      ∧ LpTakes 0x15 true (lpx 0x15 true [0, 0]) 0 (sg id) [0, 0]
      ∧ LpTakes 0x16 true (lpx 0x16 true [0, 0]) 0 (sg id) [0, 0]
      ∧ LpTakes 0x18 true (lpx 0x18 true (List.replicate 8 0)) 0 (sg id) (List.replicate 8 0)
      ∧ LpTakes 0x19 true (lpx 0x19 true [0]) 0 (sg id) [0]
      ∧ LpTakes 0x1A false (lpx 0x1A false []) 0 (sg id) []
      ∧ LpTakes 0x1B true (lpx 0x1B true [0x80, 40, 0, 0, 0]) 0 (sg id) [0x80, 40, 0, 0, 0]
      ∧ LpTakes 0x1C true (lpx 0x1C true (List.replicate 40 0)) 0 (sg id) (List.replicate 40 0)
      ∧ LpTakes 0x1D true (lpx 0x1D true (List.replicate 8 0)) 0 (sg id) (List.replicate 8 0)
      ∧ LpTakes 0x1E true (lpx 0x1E true (List.replicate 64 0)) 0 (sg id) (List.replicate 64 0) := by
  refine ⟨lp_takes ?_, lp_takes ?_, lp_takes ?_, lp_takes ?_, lp_takes ?_, lp_takes ?_, lp_takes ?_, lp_takes ?_, lp_takes ?_, lp_takes ?_, lp_takes ?_⟩ <;> decide +kernel

/-- Whatever the cryptography of the Saggar says, one of the clauses on it is met, by SG_KEY_LOAD and by SG_IMAGE_COMMIT. -/
theorem witness_LportChangesAreSealedAndAudited_crypto (img l : List Byte) (v : BitVec 32) :
    (keyUnwrap Config.sgTransportKey l = none ∨ ∃ k, keyUnwrap Config.sgTransportKey l = some k)
      ∧ (Config.ecdsaOk img l = false ∨ (Config.ecdsaOk img l = true ∧ Config.imageVersion img < v) ∨ (Config.ecdsaOk img l = true ∧ v ≤ Config.imageVersion img)) := by
  constructor
  · cases keyUnwrap Config.sgTransportKey l with
    | none => exact Or.inl rfl
    | some k => exact Or.inr ⟨k, rfl⟩
  · cases Config.ecdsaOk img l with
    | false => exact Or.inl rfl
    | true => exact (Nat.lt_or_ge (Config.imageVersion img).toNat v.toNat).elim (fun h => Or.inr (Or.inl ⟨rfl, h⟩)) (fun h => Or.inr (Or.inr ⟨rfl, h⟩))

/-! ### The spec's worked examples, and one step of a command against its rule -/

/-- R90 and the carver plan of chapter 3: the words of 97.750 MHz and 3.840 MHz, and the realised centre 0.0477 Hz high. -/
theorem test_carver_words :
    roundDiv (97750000 * 131072) 18750 = 0x28BAAAAB ∧ roundDiv (3840000 * 131072) 18750 = 0x0199999A
      ∧ carverCentre 0x28BAAAAB = 97750000 * 65536 + 3125 := by decide

/-- The example of chapter 12: result bytes 16 to 23 of RF_CARVER_SET for BC1. -/
theorem test_carver_result :
    (result (carverResult [(0x0300, 1), (0x0301, 0x28BAAAAB)] up)).take 8 = [0xF0, 0x8B, 0xD3, 0x05, 0x35, 0x0C, 0x2F, 0x04] := by decide

/-- The example of chapter 12: the items of that entry, and that they commit. -/
theorem test_carver_items :
    (let a : List Byte := [1, 0, 2, 0, 0, 0, 0, 0, 0x00, 0x03, 1, 0, 0, 0, 0, 0, 0x01, 0x03, 0xAB, 0xAA, 0xBA, 0x28, 0, 0];
      items a = [(0x0300, 1), (0x0301, 0x28BAAAAB)] ∧ itemCommit a = true) := by decide

/-- R104 and the example of chapter 4: PT0 on block 12C with IF_TARGET 2.0 MHz, SIDE LOW and HIGH. -/
theorem test_tuner_plan :
    (let p := tunerPlan 227360000 false 2000 0; p.n = 2254 ∧ 2 ^ p.dlog = 16 ∧ planLo p = 225400000 ∧ tunerWord 227360000 p = 0x146AAAAB)
      ∧ (let p := tunerPlan 227360000 true 2000 0; p.n = 2294 ∧ planLo p = 229400000 ∧ tunerIf 227360000 p < 0) := by decide +kernel

/-- R134: the plans of the DAB and the FM path of chapters 5 and 6 on a carver at DECIM 16. -/
theorem test_path_plan : pathPlan 38400000 2048000 = (1, 3) ∧ pathPlan 38400000 256000 = (4, 4) := by decide +kernel

/-- R132: the NCO words of chapters 5, 6 and 8. -/
theorem test_path_word :
    pathWord (2720000 * 65536 + 3750) 38400000 = 0x12222229
      ∧ pathWord (99300000 * 65536 - carverCentre 0x28BAAAAB) 38400000 = 0x0A555550
      ∧ pathWord (95600000 * 65536 - carverCentre 0x28BAAAAB) 38400000 = -240473435 := by decide

/-- R144: L is 97 samples for the DAB path of chapter 5 and for the FM path of chapter 6. -/
theorem test_settling :
    (let p := State.reset.cx.paths[0];
      settling { p with fin := 38400000, fout := 2048000, m := 1, h := 3, firLen := 127 } = 97
        ∧ settling { p with fin := 38400000, fout := 256000, m := 4, h := 4, firLen := 127 } = 97) := by decide +kernel

/-- R426 and the example of chapter 16: 700 ms of a raw input take 824 MB. -/
theorem test_capture_size : captureMb 0 0 500 200 up = 824 := by decide +kernel

/-- R485: the AVS code of a target. -/
theorem test_avs_code : avsCode 700 = 0 ∧ avsCode 745 = 9 ∧ avsCode 850 = 30 := by decide

/-- R49: SLEW_RATE 20 ppm as RATE_ADJ, one unit of which is 0.5457 ppm; R59 slews an offset out of bounds at 366. -/
theorem test_slew_rate : rateAdjOf 2000 = 36 ∧ maxRateAdj = 366 := by decide

/-- R59 and the example of chapter 2: at the eighth edge DT is 2.161 ms ahead of SLEW_LIMIT 1 ms: RATE_ADJ becomes −366; 2.161 ms behind,
a forward step is ordered 0.5 s later. -/
theorem test_offset_decision :
    (let f := fun (m : Int) => decideOffset m (modTime (fun u => { u with disc := .returning, cfg := [(0x0105, 1000000)] }) up);
      (f 9281424).time.rateAdj = -366
        ∧ (f (-9281424)).time.fwdStep = some (9281424, 0x1080000000)) := by decide +kernel

/-- R75: SLEW_LIMIT in DT units. -/
theorem test_slew_limit : slewLimit { TimeSt.reset with cfg := [(0x0105, 1000000000)] } = 2 ^ 32 := by decide

/-- R45: one tick in backup advances DT by four ticks' worth. -/
theorem test_tick :
    (let u := { TimeSt.reset with backup := false };
      (tickTime u).dt = 27 ∧ (tickTime { u with backup := true }).dt = 111) := by decide

/-- R409 and the example of chapter 15: bytes 0 to 7, 16 to 31 and 44 to 47 of the airplay Sherd. -/
theorem test_airplay_sherd :
    (let d := sherdBody 0x30 0 12 0 0x000003E880000000 0x0000040680000000 7 0 [];
      d.length = 128 ∧ d.take 8 = [0x30, 0, 1, 0, 0x0C, 0, 0, 0]
        ∧ (d.drop 16).take 16 = [0, 0, 0, 0x80, 0xE8, 3, 0, 0, 0, 0, 0, 0x80, 6, 4, 0, 0] ∧ (d.drop 44).take 4 = [7, 0, 0, 0]) := by
  decide +kernel

/-- R404 and the same example: the nonce of KEY_ID 0x0000_0103 and INVOCATION 256 497. -/
theorem test_log_nonce : nonceOf 0x103 256497 = [0, 0, 1, 3, 0, 0, 0, 0, 0, 3, 0xE9, 0xF1] := by decide

/-- R405 and the same example: the next reservation of block 3 (0x3_0000 to 0x3_FFFF) is due at 245 760, not before. -/
theorem test_reservation_due :
    (let k : Key := { type := 0, usage := 8, ident := 0x103, bytes := [], counter := 245760, blockEnd := 262144, used := true, nearDone := false };
      blockLow k = true ∧ blockLow { k with counter := 245759 } = false) := by decide

/-- R379 and the example of chapter 14: −61.20 dBm with C_START +0.14 and C_END +0.10 is −61.08 dBm. -/
theorem test_corrected_level : correctedLevel (-6120) 14 10 = -6108 := by decide

/-- R505 and the example of chapter 20: register 0x5000 of the board that has lost its spare clock. -/
theorem test_pin_status :
    regRead 0x5000
        { up with
          time := { up.time with backup := false, plls := upd up.time.plls 0 fun p => { p with cmp := true, declared := true } }
          power := { up.power with sealSw := true, warmN := true, coreEn := true, boot := { up.power.boot with mpaddr := 1 } } }
      = 0x00012A05 := by decide +kernel

/-- R358 and the example of chapter 13: the first two bytes of a host notify from 0x4C and from 0x4D. -/
theorem test_host_notify :
    (let f := fun (a : Fin 4) =>
        (after (execHostNotifySend 0x1000000000 .sent { up with
          power := { up.power with boot := { up.power.boot with mpaddr := a } }
          mp := { up.mp with control := 0x802, hnPending := true } })).outbox.head?;
      let g := fun (o : Option Out) => match o with | some (.twoWire _ d) => d.take 2 | _ => [];
      g (f 0) = [0x10, 0x98] ∧ g (f 1) = [0x10, 0x9A]) := by decide +kernel

/-- R442: the CRC-32 of IEEE 802.3 (its published check value). -/
theorem test_crc32 : crc32 [0x31, 0x32, 0x33, 0x34, 0x35, 0x36, 0x37, 0x38, 0x39] = 0xCBF43926 := by decide +kernel

/-- R349: the PEC of a zero byte is zero, of 0x01 the polynomial. -/
theorem test_pec : crc8 [0] = 0 ∧ crc8 [1] = 7 := by decide

/-- The completions of queue 0 written in a step: tag, status and result. -/
def cqes (s : State) : List (BitVec 16 × BitVec 16 × List Byte) :=
  s.outbox.filterMap fun o => match o with | .cqe 0 _ _ _ _ e => some (e.tag, e.status, e.result) | _ => none

/-- R336: TIME_GET completes with OK, DT, TIME_UNSET, FREE, SPLL-A active and no spare. -/
theorem test_timeGet :
    cqes (after (step (front (.timeGet { ent 0 [] with t := 0x1200000000 }) up)))
      = [(7, 0, [0, 0, 0, 0, 0x12, 0, 0, 0, 1, 0, 0, 0, 0, 0, 0, 0])] := by decide +kernel

/-- R306, R312: an opcode outside the catalogue completes with ERR_OPCODE. -/
theorem test_unknownOpcode :
    (cqes (after (step (front (.unknownOpcode (ent 0 []) 0x7FFF) up)))).map (fun x => x.2.1) = [0x0100] := by
  decide +kernel

/-- R302: an entry on a queue pair that is not enabled is not fetched. -/
theorem test_disabled_pair : cqes (after (step (front (.timeGet { ent 0 [] with src := .queue 5 }) up))) = [] := by decide +kernel

/-- R498: PORST_N low stops the device whatever ran. -/
theorem test_porstNFall : (after (exec (.porstNFall 0x1000000000) up)).power.st ≠ .running := by decide +kernel

/-- A ratio, a rate adjustment that is not 0, and a residue counter below its q. -/
theorem witness_RatiosAreCarriedExactly :
    (0 : Nat) < 38400000 ∧ (0 : Nat) < 256000 ∧ (5 : Int) ≠ 0 ∧ 0 < (2 : Int) ^ 48 + 5 * 153600000 ∧ (0 : Nat) < (rateWord 38400000 256000 0).q := by decide +kernel

/-! ### WellFormed refuses an ill-formed term at each check -/

/-- An entry whose parameters are short (R304). -/
def shortEntry : Entry := { ent 0 [] with param := [] }

theorem test_wf_entry : WellFormed.instr (.timeGet (ent 0 [])) = true ∧ WellFormed.instr (.timeGet shortEntry) = false := by decide

/-- PTR is set and the block is shorter than its length says. -/
theorem test_wf_block_of_entry :
    WellFormed.instr (.ctxOpen { ent 0 [] with flags := 1, param := fit 48 ([0, 0, 0, 0, 0, 0, 0, 0] ++ [4, 0, 0, 0]), block := [1, 2, 3, 4] }) = true
      ∧ WellFormed.instr (.ctxOpen { ent 0 [] with flags := 1, param := fit 48 ([0, 0, 0, 0, 0, 0, 0, 0] ++ [4, 0, 0, 0]), block := [1, 2, 3] }) = false
      ∧ WellFormed.instr (.ctxOpen { ent 0 [] with block := [1] }) = false := by decide

/-- TIME_GET is of the catalogue and allowed on every queue. -/
theorem test_wf_opcode :
    WellFormed.instr (.unknownOpcode (ent 0 []) 0x7FFF) = true ∧ WellFormed.instr (.unknownOpcode (ent 0 []) 0x0201) = false := by decide

theorem test_wf_secver : WellFormed.instr (.imageFetchDone 0 0 255) = true ∧ WellFormed.instr (.imageFetchDone 0 0 256) = false := by decide

theorem test_wf_aligned :
    WellFormed.instr (.registerWrite 0 0x4008 true 0) = true ∧ WellFormed.instr (.registerWrite 0 0x400C true 0) = false
      ∧ WellFormed.instr (.registerWrite 0 0x4002 false 0) = false := by decide

theorem test_wf_overload : WellFormed.instr (.overloadTrip 0 (.wb 0) 1) = true ∧ WellFormed.instr (.overloadTrip 0 (.wb 0) 0) = false := by decide

/-- Activity 2 estimates three values (R438), activity 6 reads sixteen levels (R388). -/
theorem test_wf_firing :
    (let r : FiringResult := { blocks := [], estimates := List.replicate 3 { value := 0, unc := 0 }, rejection := 0, trim := 0, levels := [] };
      WellFormed.instr (.kilnFiringEnd 0 2 0 r) = true ∧ WellFormed.instr (.kilnFiringEnd 0 2 0 { r with estimates := [] }) = false
        ∧ WellFormed.instr (.kilnFiringEnd 0 6 0 { r with estimates := [] }) = false
        ∧ WellFormed.instr (.kilnFiringEnd 0 6 0 { r with estimates := [], levels := List.replicate 16 0 }) = true) := by decide

/-- The CIF count is below 5000 (R192). -/
theorem test_wf_cif :
    WellFormed.instr (.cifBoundary 0 0 4999 true) = true ∧ WellFormed.instr (.cifBoundary 0 0 5000 true) = false
      ∧ WellFormed.instr (.dabReacquisition 0 0 0 5000) = false ∧ WellFormed.instr (.ficDecoded 0 0 { fic with cifCount := 5000 }) = false := by decide

/-- A subchannel number is below 64. -/
theorem test_wf_frame :
    (let f : LogicalFrame := { cif := 7, payload := [], dls := [], mot := [], groups := [], rsCorrected := 0, rsFailed := 0, syncLost := false };
      WellFormed.instr (.logicalFrameComplete 0 0 63 0 f) = true ∧ WellFormed.instr (.logicalFrameComplete 0 0 64 0 f) = false
        ∧ WellFormed.instr (.logicalFrameComplete 0 0 63 0 { f with cif := 5000 }) = false) := by decide

/-- An access unit has a rate and no frame without channels (R246). -/
theorem test_wf_unit :
    WellFormed.instr (.accessUnitDecoded 0 0 unit1) = true ∧ WellFormed.instr (.accessUnitDecoded 0 0 { unit1 with rate := 0 }) = false
      ∧ WellFormed.instr (.accessUnitDecoded 0 0 { unit1 with frames := [[]] }) = false := by decide

/-- A block of a biphase input has 192 frames and a span (R271). -/
theorem test_wf_block :
    WellFormed.instr (.ainBlockReceived 0 0 ainBlock) = true ∧ WellFormed.instr (.ainBlockReceived 0 0 { ainBlock with frames := [] }) = false
      ∧ WellFormed.instr (.ainRelock 0 0 { ainBlock with span := 0 }) = false := by decide +kernel

theorem test_wf_cone :
    WellFormed.instr (.coneSample 0 0 0 (List.replicate 8 0)) = true ∧ WellFormed.instr (.coneSample 0 0 0 []) = false := by decide

theorem test_wf_board :
    WellFormed.instr (.porstNRise 0 board) = true ∧ WellFormed.instr (.porstNRise 0 { board with imageB := some 256 }) = false := by decide

/-- R348: at most 255 bytes after the count. -/
theorem test_wf_write :
    (let x : Xfer := { data := [], pec := none, whole := true };
      WellFormed.instr (.cmdSubmit 0 x) = true ∧ WellFormed.xferOk { x with data := List.replicate 257 0 } = false) := by decide +kernel
end Sys2Proof.Tests
end

/-!
The tick of the DT clock (R45, R51). A tick adds to the 80-bit accumulator and to the modulo-9375 residue; the carry of the residue is what
the accumulator takes up, so the two together rise by a fixed number of units of 2^-48 s / 9375.
-/
namespace Sys2Proof.Machine

/-- The DT accumulator as one number: DT above the 16 bits below 2^-32 s, 80 bits in all (R45). -/
def TimeSt.accumulator (u : TimeSt) : Nat := u.dt.toNat * 65536 + u.dtLow.toNat

/-- How many nominal increments one tick stands for: four on the backup count (R51). -/
def TimeSt.tickWeight (u : TimeSt) : Nat := if u.backup then 4 else 1

/-- The sum that a tick puts into the accumulator, before it is cut to 80 bits: the increments and the carry of the residue. -/
def TimeSt.tickSum (u : TimeSt) : Int :=
  u.accumulator + u.tickWeight * (1832519 + u.rateAdj) + ((u.residue + 3559 * u.tickWeight) / 9375 : Nat)

theorem tickTime_dt (u : TimeSt) : (tickTime u).dt = BitVec.ofInt 64 (u.tickSum / 65536) := rfl

theorem tickTime_dtLow (u : TimeSt) : (tickTime u).dtLow = BitVec.ofInt 16 u.tickSum := rfl

theorem tickTime_residue (u : TimeSt) : (tickTime u).residue = (u.residue + 3559 * u.tickWeight) % 9375 := rfl

theorem tickTime_residue_lt (u : TimeSt) : (tickTime u).residue < 9375 := by
  rw [tickTime_residue]
  exact Nat.mod_lt _ (by decide)

/-- A rate adjustment that does not turn the increment negative never makes the sum of a tick negative. -/
theorem tickSum_nonneg {u : TimeSt} (hrate : 0 ≤ 1832519 + u.rateAdj) : 0 ≤ u.tickSum := by
  have hinc : 0 ≤ (u.tickWeight : Int) * (1832519 + u.rateAdj) := Int.mul_nonneg (Int.natCast_nonneg _) hrate
  unfold TimeSt.tickSum
  omega

/-- The two words of DT hold the sum of a tick whole when it fits into the 80 bits. -/
theorem tickTime_accumulator {u : TimeSt} (hnonneg : 0 ≤ u.tickSum) (hfits : u.tickSum < 2 ^ 80) :
    ((tickTime u).accumulator : Int) = u.tickSum := by
  have hhigh : (u.tickSum / 65536) % 2 ^ 64 = u.tickSum / 65536 := Int.emod_eq_of_lt (by omega) (by omega)
  simp only [TimeSt.accumulator, tickTime_dt, tickTime_dtLow, BitVec.toNat_ofInt]
  omega

/-- The carry loses nothing: what leaves the residue as 9375 of its units enters the accumulator as one of its own (R45). -/
theorem tickSum_add_residue (u : TimeSt) :
    u.tickSum * 9375 + (tickTime u).residue
      = (u.accumulator * 9375 + u.residue : Nat) + (u.tickWeight : Int) * ((1832519 + u.rateAdj) * 9375 + 3559) := by
  have hcarry := Nat.div_add_mod (u.residue + 3559 * u.tickWeight) 9375
  have hsplit : (u.tickWeight : Int) * ((1832519 + u.rateAdj) * 9375 + 3559)
      = u.tickWeight * (1832519 + u.rateAdj) * 9375 + 3559 * u.tickWeight := by ring
  rw [tickTime_residue, hsplit, TimeSt.tickSum]
  omega

/-- Settles O18: the residue and its carry make up the whole sum, and the 80 bits hold it without a cut. -/
theorem tickAdvancesDtExactly : Obligations.TickAdvancesDtExactly := by
  intro u _ hrate k units hroom
  have hweight : (u.tickWeight : Int) = k := Nat.cast_ite ..
  have hsum := tickSum_add_residue u
  rw [hweight] at hsum
  have hfits : u.tickSum < 2 ^ 80 := by
    have hroom' : u.tickSum * 9375 + (tickTime u).residue < 2 ^ 80 * 9375 := hsum.trans_lt hroom
    omega
  refine ⟨tickTime_residue_lt u, ?_⟩
  calc units (tickTime u)
      = (tickTime u).accumulator * 9375 + (tickTime u).residue := by
        simp only [units, TimeSt.accumulator, Nat.cast_add, Nat.cast_mul, Nat.cast_ofNat]
    _ = u.tickSum * 9375 + (tickTime u).residue := by rw [tickTime_accumulator (tickSum_nonneg hrate) hfits]
    _ = units u + k * ((1832519 + u.rateAdj) * 9375 + 3559) := hsum

end Sys2Proof.Machine

/-!
How a host command that is just fetched is judged (R305 to R307): what `fetch` and `hold` make of it, which of its offences comes first, and
how it ends at a check that fails.
-/
namespace Sys2Proof.Machine

/-! ### A command just fetched -/

@[simp] theorem takeTurn_host_held (src : Source) (s : State) : (takeTurn src s).host.held = s.host.held := by
  cases src with
  | mport => rfl
  | queue q => simp only [takeTurn]; split <;> rfl

@[simp] theorem takeTurn_host_nextId (src : Source) (s : State) : (takeTurn src s).host.nextId = s.host.nextId := by
  cases src with
  | mport => rfl
  | queue q => simp only [takeTurn]; split <;> rfl

@[simp] theorem takeTurn_host_pairs (src : Source) (s : State) : (takeTurn src s).host.pairs = s.host.pairs := by
  cases src with
  | mport => rfl
  | queue q => simp only [takeTurn]; split <;> rfl

theorem modPairq_wait {f : Pairq → Pairq} (hf : ∀ p, (f p).wait = p.wait) (q r : Fin 32) (s : State) :
    (modPairq q f s).host.pairs[r].wait = s.host.pairs[r].wait := by
  simp only [modPairq, modHost_host, upd_get']
  split
  · exact hf _
  · rfl

/-- A fetch takes the entry of its queue, or of the MPORT. -/
theorem fetch_cases {op : Nat} {e : Entry} {s v : State} (hf : fetch op e s = some v) :
    (∃ q, v = settle 5 1 (post 0 1 (modPairq q (fun p => { p with sqHead := (p.sqHead + 1) % p.sqSize }) (takeTurn e.src s))))
      ∨ ∃ rest, v = modMp (fun m => { m with received := rest }) (takeTurn e.src s) := by
  unfold fetch at hf
  split at hf
  · split at hf
    · exact .inl ⟨_, (Option.some.inj hf).symm⟩
    · split at hf
      · split at hf
        · exact .inr ⟨_, (Option.some.inj hf).symm⟩
        · cases hf
      · cases hf
  · cases hf

theorem fetch_host_held {op : Nat} {e : Entry} {s v : State} (hf : fetch op e s = some v) : v.host.held = s.host.held := by
  obtain ⟨q, rfl⟩ | ⟨rest, rfl⟩ := fetch_cases hf
  · exact takeTurn_host_held e.src s
  · exact takeTurn_host_held e.src s

theorem fetch_host_nextId {op : Nat} {e : Entry} {s v : State} (hf : fetch op e s = some v) : v.host.nextId = s.host.nextId := by
  obtain ⟨q, rfl⟩ | ⟨rest, rfl⟩ := fetch_cases hf
  · exact takeTurn_host_nextId e.src s
  · exact takeTurn_host_nextId e.src s

theorem fetch_wait {op : Nat} {e : Entry} {s v : State} (hf : fetch op e s = some v) (r : Fin 32) :
    v.host.pairs[r].wait = s.host.pairs[r].wait := by
  rw [← takeTurn_host_pairs e.src s]
  obtain ⟨q, rfl⟩ | ⟨rest, rfl⟩ := fetch_cases hf
  · refine modPairq_wait ?_ q r _
    exact fun _ => rfl
  · rfl

/-- What is known of a command `h` that was just fetched from entry `e` in `s`, and of the state `u` that holds it. -/
structure JustHeld (e : Entry) (s : State) (h : Held) (u : State) : Prop where
  entry : h.entry = e
  src : h.src = e.src
  tag : h.tag = e.tag
  deferred : h.deferred = false
  id : h.id = s.host.nextId
  held : u.host.held = s.host.held ++ [h]
  wait : ∀ q : Fin 32, u.host.pairs[q].wait = s.host.pairs[q].wait
  within : Within { hostq := true, dt := true, due := true, mp := true } s u

theorem justHeld_of_fetch {op : Nat} {i : Instr} {e : Entry} {s v : State} {h : Held} {u : State}
    (hf : fetch op e (moment e.t s) = some v) (hh : hold op i e (shieldCopy op e v) = (h, u)) : JustHeld e s h u := by
  have hcopy : (shieldCopy op e v).host.queues = v.host.queues := (shieldCopy_within op e v).hostq rfl
  have hid : (shieldCopy op e v).host.nextId = s.host.nextId := by
    rw [q_nextId hcopy, fetch_host_nextId hf, moment_host_nextId]
  have hheld : (shieldCopy op e v).host.held = s.host.held := by rw [q_held hcopy, fetch_host_held hf, hh_moment]
  have hwait (q : Fin 32) : (shieldCopy op e v).host.pairs[q].wait = s.host.pairs[q].wait := by
    rw [q_pairs hcopy, fetch_wait hf, moment_host_pairs]
  have hwithin : Within { hostq := true, dt := true, due := true, mp := true } s u :=
    ((((moment_within e.t s).widen rfl).trans (((fetch_within op e _).of hf).widen rfl)).trans
      ((shieldCopy_within op e v).widen rfl)).trans (((hold_within op i e _).of hh).widen rfl)
  obtain ⟨rfl, rfl⟩ := Prod.mk.inj hh
  exact ⟨rfl, rfl, rfl, rfl, hid, congrArg (· ++ _) hheld, hwait, hwithin⟩

namespace JustHeld
variable {e : Entry} {s u : State} {h : Held}

/-- When no held command has the next identifier, none has that of a command just fetched. -/
theorem id_bne (k : JustHeld e s h u) (hfresh : ∀ x ∈ s.host.held, x.id ≠ s.host.nextId) :
    ∀ x ∈ s.host.held, (x.id != h.id) = true := fun x hx => by
  simpa [k.id] using hfresh x hx

/-- When no held command has the next identifier, all of them come before a command just fetched. -/
theorem earlier_eq (k : JustHeld e s h u) (hfresh : ∀ x ∈ s.host.held, x.id ≠ s.host.nextId) : earlier h u = s.host.held := by
  simp [earlier, k.held, List.takeWhile_append_of_pos (k.id_bne hfresh)]

/-- A command just fetched that ends at once leaves the commands held before it as they were. -/
theorem fail_held (k : JustHeld e s h u) (hfresh : ∀ x ∈ s.host.held, x.id ≠ s.host.nextId) (st : Status) (off : Nat) (d : Detail) :
    (fail h st off d u).host.held = s.host.held := by
  rw [fail, held_finish, k.held, List.filter_append, List.filter_eq_self.mpr (k.id_bne hfresh)]
  simp

end JustHeld

/-! ### Ending at a failed check -/

/-- A command that was not deferred ends without an event, so no capture slot is triggered. -/
theorem fail_within_of_not_deferred {h : Held} (hd : h.deferred = false) (st : Status) (off : Nat) (d : Detail) (s : State) :
    Within { hostq := true, mp := true } s (fail h st off d s) := by
  rw [fail, finish, finishAt, hd, if_neg Bool.false_ne_true]
  exact ((dropHeld_within h.id s).widen rfl).trans (sendEntry_within _ _ _ _)

/-- The first failing check decides the step of a command just fetched (R306). -/
theorem hostCmd_eq_fail {i : Instr} {c : Spec} {body : Held → State → State} {e : Entry} {s v u : State} {h : Held} {st : Status}
    {off : Nat} {d : Detail} (hr : s.host.resuming = none) (hf : fetch c.op e (moment e.t s) = some v)
    (hh : hold c.op i e (shieldCopy c.op e v) = (h, u)) (hfail : failing c h u = some (st, off, d)) :
    hostCmd i c body e s = fail h st off d u := by
  simp only [hostCmd, hr, hf, hh, hfail]

theorem failing_of_check1 {c : Spec} {h : Held} {s : State} {x : Status × Nat × Detail} (h1 : check1 c h.entry = some x) :
    failing c h s = some x := by
  simp only [failing, h1]

/-- With checks 1 to 3 passed, the first offence of check 4 decides (R306). -/
theorem failing_of_firstOffence {c : Spec} {h : Held} {s : State} {off : Nat} {d : Detail} (h1 : check1 c h.entry = none)
    (h2 : check2 c h.entry = none)
    (h3 : (c.target s h.entry.target.toNat && c.targetFor (Entry.args h.entry) s h.entry.target.toNat) = true)
    (h4 : firstOffence (offences c h s) = some (off, d)) : failing c h s = some (.errParam, off, d) := by
  have h3' : (!c.target s h.entry.target.toNat || !c.targetFor (Entry.args h.entry) s h.entry.target.toNat) = false := by
    rw [← Bool.not_and, h3]; rfl
  simp only [failing, h1, h2, h3', h4, Bool.false_eq_true, if_false]

theorem check1_queue (c : Spec) {e : Entry} {q : Fin 32} (hq : e.src = .queue q) :
    check1 c e = if c.admin (Entry.args e) && q.val != 0 then some (.errOpcode, 0, .adminOnly) else none := by
  simp only [check1, hq]

/-! ### The offence with the smallest offset (R311) -/

/-- The better of the best offence so far and another one: the one with the smaller offset, the older one of two equal offsets. -/
def keepSmaller (best : Option Offence) (x : Offence) : Option Offence :=
  match best with
  | some b => if x.1 < b.1 then some x else some b
  | none => some x

theorem firstOffence_eq_foldl (l : List Offence) : firstOffence l = l.foldl keepSmaller none := rfl

/-- Once the best offence so far is smaller than all others still to come, it stays. -/
theorem foldl_keepSmaller_some {x : Offence} {l : List Offence} (hl : ∀ y ∈ l, y = x ∨ x.1 < y.1) :
    l.foldl keepSmaller (some x) = some x := by
  induction l with
  | nil => rfl
  | cons y l ih =>
    obtain ⟨hy, hl⟩ := List.forall_mem_cons.mp hl
    have hkeep : ¬ y.1 < x.1 := by
      obtain rfl | hy := hy
      · exact lt_irrefl _
      · exact hy.not_gt
    rw [List.foldl_cons, keepSmaller, if_neg hkeep]
    exact ih hl

/-- An offence that is smaller than every best so far and every other one of the list comes out of it. -/
theorem foldl_keepSmaller_of_mem {x : Offence} {l : List Offence} (hx : x ∈ l) (hl : ∀ y ∈ l, y = x ∨ x.1 < y.1)
    (best : Option Offence) (hbest : ∀ b ∈ best, b = x ∨ x.1 < b.1) : l.foldl keepSmaller best = some x := by
  induction l generalizing best with
  | nil => cases hx
  | cons y l ih =>
    obtain ⟨hy, htail⟩ := List.forall_mem_cons.mp hl
    rw [List.foldl_cons]
    obtain rfl | hx := List.mem_cons.mp hx
    · have hfirst : keepSmaller best x = some x := by
        cases best with
        | none => rfl
        | some b =>
          obtain rfl | hb := hbest b rfl
          · exact if_neg (lt_irrefl _)
          · exact if_pos hb
      rw [hfirst]
      exact foldl_keepSmaller_some htail
    · refine ih hx htail _ fun b hb => ?_
      cases best with
      | none => cases hb; exact hy
      | some a =>
        simp only [keepSmaller] at hb
        split at hb
        · cases hb; exact hy
        · cases hb; exact hbest b rfl

theorem firstOffence_eq_of_least {x : Offence} {l : List Offence} (hx : x ∈ l) (hl : ∀ y ∈ l, y = x ∨ x.1 < y.1) :
    firstOffence l = some x :=
  foldl_keepSmaller_of_mem hx hl none nofun

/-! ### The offences of check 4 -/

/-- When a tag is 0xFFFF or held already: by an earlier command of its queue, or by a completion that waits for a slot of it (R305). -/
theorem badTag_iff (h : Held) (s : State) :
    badTag h s = true ↔ h.tag = 0xFFFF ∨ (∃ x ∈ earlier h s, x.src = h.src ∧ x.tag = h.tag ∧ x.deferred = false)
      ∨ ∃ q : Fin 32, h.src = .queue q ∧ ∃ x ∈ s.host.pairs[q].wait, x.event = false ∧ x.tag = h.tag := by
  have hwaits : tagWaits h.src h.tag s = true
      ↔ ∃ q : Fin 32, h.src = .queue q ∧ ∃ x ∈ s.host.pairs[q].wait, x.event = false ∧ x.tag = h.tag := by
    cases h.src with
    | queue q => simp [tagWaits]
    | mport => simp [tagWaits]
  simp only [badTag, Bool.or_eq_true, beq_iff_eq, hwaits, List.any_eq_true, Bool.and_eq_true, Bool.not_eq_true', and_assoc]
  rw [or_right_comm, or_assoc]

theorem sixteen_le_offset (e : Entry) (i : Nat) : 16 ≤ Entry.offset e i := by
  unfold Entry.offset
  split <;> omega

theorem le_of_mem_firstNonzero {n : Nat} {l : List Byte} {x : Offence} (hx : x ∈ firstNonzero n l) : n ≤ x.1 := by
  unfold firstNonzero at hx
  split at hx
  · rw [List.mem_singleton.mp hx]; exact Nat.le_add_right n _
  · cases hx

theorem sixteen_le_of_mem_outOffences {e : Entry} {x : Offence} (hx : x ∈ outOffences e) : 16 ≤ x.1 := by
  unfold outOffences at hx
  split at hx
  all_goals
    rcases List.mem_append.mp hx with hx | hx
    all_goals
      split at hx
      · cases hx
      · obtain rfl := List.mem_singleton.mp hx; decide

/-- A tag that is not allowed is the offence with the smallest offset: every other one lies at byte 4 or behind it (R304, R311). -/
theorem mem_offences {c : Spec} {h : Held} {s : State} {x : Offence} (hx : x ∈ offences c h s) :
    (badTag h s = true ∧ x = (2, .duplicateTag)) ∨ 4 ≤ x.1 := by
  simp only [offences, List.mem_append, List.mem_ite_nil_right, List.mem_ite_nil_left, List.mem_singleton, List.mem_map] at hx
  obtain ((((((htag | ⟨-, rfl⟩) | ⟨-, hx⟩) | ⟨-, hx⟩) | ⟨-, hx⟩) | ⟨y, -, rfl⟩) | ⟨y, -, rfl⟩) | ⟨y, -, rfl⟩ := hx
  · exact .inl htag
  · exact .inr (le_refl 4)
  · exact .inr (le_trans (by decide) (le_of_mem_firstNonzero hx))
  · exact .inr (le_trans (by decide) (le_of_mem_firstNonzero hx))
  · exact .inr (le_trans (by decide) (sixteen_le_of_mem_outOffences hx))
  · exact .inr (le_trans (by decide) (sixteen_le_offset h.entry y.1))
  · exact .inr (le_trans (by decide) (sixteen_le_offset h.entry y.1))
  · exact .inr (le_trans (by decide) (sixteen_le_offset h.entry y.1))

theorem firstOffence_of_badTag (c : Spec) {h : Held} {s : State} (hb : badTag h s = true) :
    firstOffence (offences c h s) = some (2, .duplicateTag) := by
  refine firstOffence_eq_of_least ?_ fun y hy => ?_
  · simp [offences, hb]
  · obtain ⟨-, rfl⟩ | hy := mem_offences hy
    · exact .inl rfl
    · exact .inr (lt_of_lt_of_le (by decide) hy)

/-! ### The obligations of the host interface -/

/-- Settles O8: a bad tag is the first offence of check 4, and no other offence is at its offset. -/
theorem tagsAreUniqueAmongHeldCommands : Obligations.TagsAreUniqueAmongHeldCommands := by
  refine ⟨fun i c body e s v h u hr hf hh h1 h2 h3 hfresh htag => ?_, fun c h u hne hearlier hwait hmem => ?_⟩
  · have k := justHeld_of_fetch hf hh
    have hbad : badTag h u = true := by
      rw [badTag_iff, k.earlier_eq hfresh, k.src, k.tag]
      simpa only [k.wait] using htag
    have hstep : hostCmd i c body e s = fail h .errParam 2 .duplicateTag u := by
      refine hostCmd_eq_fail hr hf hh (failing_of_firstOffence ?_ ?_ ?_ (firstOffence_of_badTag c hbad)) <;> rwa [k.entry]
    refine ⟨hstep, ?_, ?_⟩
    · rw [hstep, k.fail_held hfresh]
    · rw [hstep]
      exact k.within.trans ((fail_within_of_not_deferred k.deferred _ _ _ u).widen rfl)
  · obtain ⟨hbad, -⟩ | hle := mem_offences hmem
    · obtain htag | ⟨x, hx, hsrc, htag, hd⟩ | ⟨q, hq, x, hx, hev, htag⟩ := (badTag_iff h u).mp hbad
      · exact hne htag
      · exact Bool.false_ne_true (hd.symm.trans (hearlier x hx hsrc htag))
      · exact hwait q hq x hx hev htag
    · exact absurd hle (by decide)

/-- Settles O9: all these commands are of the admin queue whatever their parameters, and check 1 comes first. -/
theorem adminCommandsAreForQueueZero : Obligations.AdminCommandsAreForQueueZero := by
  refine ⟨fun c hc i body e q s v h u hq hne hr hf hh => ?_, fun c e hq => ?_⟩
  · have hadmin : c.admin (Entry.args e) = true := by
      simp only [List.mem_cons, List.not_mem_nil, or_false] at hc
      rcases hc with rfl | rfl | rfl | rfl | rfl | rfl | rfl | rfl | rfl | rfl | rfl <;> rfl
    have hcheck : check1 c h.entry = some (.errOpcode, 0, .adminOnly) := by
      rw [(justHeld_of_fetch hf hh).entry, check1_queue c hq, hadmin]
      simp [hne]
    exact hostCmd_eq_fail hr hf hh (failing_of_check1 hcheck)
  · rw [check1_queue c hq]
    simp

end Sys2Proof.Machine

/-!
The frame of every command (R30, R37): `touches` names at least the parts that the law of each meaning names, so every step keeps what
`Within` promises.
-/
namespace Sys2Proof.Machine

theorem Stays.widen {p m : Parts} {s : State} {o : Host.Outcome State Fault Refusal} (h : Stays p s o) (hs : p.sub m = true) :
    Stays m s o := fun t e => (h t e).widen hs

/-- What a command leaves as it was: the law of its meaning, seen within the parts that `touches` names. -/
theorem exec_within (i : Instr) (s : State) : Stays (touches i) s (exec i s) := by
  match i with
  | .devIdentify e => exact (execDevIdentify_within e s).widen rfl
  | .devSetProfile e => exact (execDevSetProfile_within e s).widen rfl
  | .devRestart e => exact (execDevRestart_within e s).widen rfl
  | .devGetHealth e => exact (execDevGetHealth_within e s).widen rfl
  | .devSetEventMask e => exact (execDevSetEventMask_within e s).widen rfl
  | .devLedgerRead e => exact (execDevLedgerRead_within e s).widen rfl
  | .timeSet e => exact (execTimeSet_within e s).widen rfl
  | .timeGet e => exact (execTimeGet_within e s).widen rfl
  | .timeRefConfig e => exact (execTimeRefConfig_within e s).widen rfl
  | .timePllConfig e => exact (execTimePllConfig_within e s).widen rfl
  | .timePhaseStep e => exact (execTimePhaseStep_within e s).widen rfl
  | .timeDisciplineStatus e => exact (execTimeDisciplineStatus_within e s).widen rfl
  | .rfWbConfig e => exact (execRfWbConfig_within e s).widen rfl
  | .rfCarverSet e => exact (execRfCarverSet_within e s).widen rfl
  | .rfPtState e => exact (execRfPtState_within e s).widen rfl
  | .rfPtTune e => exact (execRfPtTune_within e s).widen rfl
  | .rfPtBandtableLoad e => exact (execRfPtBandtableLoad_within e s).widen rfl
  | .rfPtRecallRead e => exact (execRfPtRecallRead_within e s).widen rfl
  | .rfProbe e => exact (execRfProbe_within e s).widen rfl
  | .rfSlipConfig e => exact (execRfSlipConfig_within e s).widen rfl
  | .ctxOpen e => exact (execCtxOpen_within e s).widen rfl
  | .ctxRetune e => exact (execCtxRetune_within e s).widen rfl
  | .ctxClose e => exact (execCtxClose_within e s).widen rfl
  | .ctxGetQuality e => exact (execCtxGetQuality_within e s).widen rfl
  | .ctxSetThresholds e => exact (execCtxSetThresholds_within e s).widen rfl
  | .ctxStage e => exact (execCtxStage_within e s).widen rfl
  | .ctxCommit e => exact (execCtxCommit_within e s).widen rfl
  | .ctxCoefLoad e => exact (execCtxCoefLoad_within e s).widen rfl
  | .ctxCoefSwap e => exact (execCtxCoefSwap_within e s).widen rfl
  | .ctxSync e => exact (execCtxSync_within e s).widen rfl
  | .ctxDiversity e => exact (execCtxDiversity_within e s).widen rfl
  | .dataSubscribe e => exact (execDataSubscribe_within e s).widen rfl
  | .dataUnsubscribe e => exact (execDataUnsubscribe_within e s).widen rfl
  | .afPolicy e => exact (execAfPolicy_within e s).widen rfl
  | .afListSet e => exact (execAfListSet_within e s).widen rfl
  | .alertConfig e => exact (execAlertConfig_within e s).widen rfl
  | .audServiceStart e => exact (execAudServiceStart_within e s).widen rfl
  | .audServiceStop e => exact (execAudServiceStop_within e s).widen rfl
  | .audSignatureConfig e => exact (execAudSignatureConfig_within e s).widen rfl
  | .audLoudnessConfig e => exact (execAudLoudnessConfig_within e s).widen rfl
  | .portConfig e => exact (execPortConfig_within e s).widen rfl
  | .portRoute e => exact (execPortRoute_within e s).widen rfl
  | .portSlotmask e => exact (execPortSlotmask_within e s).widen rfl
  | .portChstatusSet e => exact (execPortChstatusSet_within e s).widen rfl
  | .portInputStatus e => exact (execPortInputStatus_within e s).widen rfl
  | .memCaptureArm e => exact (execMemCaptureArm_within e s).widen rfl
  | .memCaptureFreeze e => exact (execMemCaptureFreeze_within e s).widen rfl
  | .memCaptureRead e => exact (execMemCaptureRead_within e s).widen rfl
  | .memTimeshiftConfig e => exact (execMemTimeshiftConfig_within e s).widen rfl
  | .bufPost e => exact (execBufPost_within e s).widen rfl
  | .cryKeyLoad e => exact (execCryKeyLoad_within e s).widen rfl
  | .cryKeyDerive e => exact (execCryKeyDerive_within e s).widen rfl
  | .cryKeyRetire e => exact (execCryKeyRetire_within e s).widen rfl
  | .cryProcess e input aad => exact (execCryProcess_within e input aad s).widen rfl
  | .cryCounterRead e => exact (execCryCounterRead_within e s).widen rfl
  | .cryCounterIncrement e => exact (execCryCounterIncrement_within e s).widen rfl
  | .logConfig e => exact (execLogConfig_within e s).widen rfl
  | .logRead e => exact (execLogRead_within e s).widen rfl
  | .logMark e => exact (execLogMark_within e s).widen rfl
  | .mntCalibrate e => exact (execMntCalibrate_within e s).widen rfl
  | .mntScheduleSet e => exact (execMntScheduleSet_within e s).widen rfl
  | .mntScheduleStatus e => exact (execMntScheduleStatus_within e s).widen rfl
  | .mntConeRead e => exact (execMntConeRead_within e s).widen rfl
  | .mntMarginPlan e => exact (execMntMarginPlan_within e s).widen rfl
  | .pairJoin e => exact (execPairJoin_within e s).widen rfl
  | .pairLeave e => exact (execPairLeave_within e s).widen rfl
  | .pairStatus e => exact (execPairStatus_within e s).widen rfl
  | .pairMirror e => exact (execPairMirror_within e s).widen rfl
  | .sgReadResult e => exact (execSgReadResult_within e s).widen rfl
  | .sgStatus e => exact (execSgStatus_within e s).widen rfl
  | .sgRequestMeasure e => exact (execSgRequestMeasure_within e s).widen rfl
  | .diagLoopback e source => exact (execDiagLoopback_within e source s).widen rfl
  | .diagReadCounters e => exact (execDiagReadCounters_within e s).widen rfl
  | .unknownOpcode e opcode => exact (execUnknownOpcode_within e opcode s).widen rfl
  | .queuedEntryWrite t ring => exact (execQueuedEntryWrite_within t ring s).widen rfl
  | .commandDeadlineExpiry t src tag => exact (execCommandDeadlineExpiry_within t src tag s).widen rfl
  | .coalTimeExpiry t ring => exact (execCoalTimeExpiry_within t ring s).widen rfl
  | .sqDoorbellWrite t q value => exact (execSqDoorbellWrite_within t q value s).widen rfl
  | .cqDoorbellWrite t q value => exact (execCqDoorbellWrite_within t q value s).widen rfl
  | .pairEnableWrite t q value => exact (execPairEnableWrite_within t q value s).widen rfl
  | .pairDisableWrite t q value => exact (execPairDisableWrite_within t q value s).widen rfl
  | .pairDrainDone t q => exact (execPairDrainDone_within t q s).widen rfl
  | .returnRingDoorbellWrite t c value => exact (execReturnRingDoorbellWrite_within t c value s).widen rfl
  | .ledgerSnapWrite t => exact (execLedgerSnapWrite_within t s).widen rfl
  | .restartWarmWrite t value => exact (execRestartWarmWrite_within t value s).widen rfl
  | .restartColdWrite t value => exact (execRestartColdWrite_within t value s).widen rfl
  | .imgGo t => exact (execImgGo_within t s).widen rfl
  | .imageFetchDone t result secver => exact (execImageFetchDone_within t result secver s).widen rfl
  | .msixVectorUnmask t v => exact (execMsixVectorUnmask_within t v s).widen rfl
  | .registerWrite t off wide value => exact (execRegisterWrite_within t off wide value s).widen rfl
  | .busMasterEnableSet t => exact (execBusMasterEnableSet_within t s).widen rfl
  | .busMasterEnableClear t => exact (execBusMasterEnableClear_within t s).widen rfl
  | .pcieLinkDown t => exact (execPcieLinkDown_within t s).widen rfl
  | .pcieLinkUp t => exact (execPcieLinkUp_within t s).widen rfl
  | .ppsinEdgeAccepted t sub => exact (execPpsinEdgeAccepted_within t sub s).widen rfl
  | .ppsinLost t => exact (execPpsinLost_within t s).widen rfl
  | .refinLost t => exact (execRefinLost_within t s).widen rfl
  | .refinQualified t => exact (execRefinQualified_within t s).widen rfl
  | .refinSteerWindow t errorPpt => exact (execRefinSteerWindow_within t errorPpt s).widen rfl
  | .returningPpsTimeout t => exact (execReturningPpsTimeout_within t s).widen rfl
  | .dtForwardStep t => exact (execDtForwardStep_within t s).widen rfl
  | .timeSetStepApply t => exact (execTimeSetStepApply_within t s).widen rfl
  | .slewTargetReached t => exact (execSlewTargetReached_within t s).widen rfl
  | .timeRefCommitApply t => exact (execTimeRefCommitApply_within t s).widen rfl
  | .spllLockDeclared t pllB => exact (execSpllLockDeclared_within t pllB s).widen rfl
  | .spareAlignmentDone t => exact (execSpareAlignmentDone_within t s).widen rfl
  | .spllReconfigTimeout t => exact (execSpllReconfigTimeout_within t s).widen rfl
  | .activeSpllFlagged t vcoStops => exact (execActiveSpllFlagged_within t vcoStops s).widen rfl
  | .spareSpllFlagged t => exact (execSpareSpllFlagged_within t s).widen rfl
  | .spareAlignTimeout t => exact (execSpareAlignTimeout_within t s).widen rfl
  | .spllRelockAttempt t pllB => exact (execSpllRelockAttempt_within t pllB s).widen rfl
  | .agcWindowEnd t input peak => exact (execAgcWindowEnd_within t input peak s).widen rfl
  | .agcHoldExpiry t input => exact (execAgcHoldExpiry_within t input s).widen rfl
  | .overloadTrip t input clipped => exact (execOverloadTrip_within t input clipped s).widen rfl
  | .carverFrameCommit t c => exact (execCarverFrameCommit_within t c s).widen rfl
  | .peerStreamStop t streamB => exact (execPeerStreamStop_within t streamB s).widen rfl
  | .tunerTransitionDone t n => exact (execTunerTransitionDone_within t n s).widen rfl
  | .channelChangeDone t n r => exact (execChannelChangeDone_within t n r s).widen rfl
  | .recallLockTimeout t n => exact (execRecallLockTimeout_within t n s).widen rfl
  | .tunerFailed t n => exact (execTunerFailed_within t n s).widen rfl
  | .tunerRetry t n pass => exact (execTunerRetry_within t n pass s).widen rfl
  | .probeStart t n => exact (execProbeStart_within t n s).widen rfl
  | .probeEnd t n measured leak => exact (execProbeEnd_within t n measured leak s).widen rfl
  | .probeWaitTimeout t n => exact (execProbeWaitTimeout_within t n s).widen rfl
  | .injEnFall t => exact (execInjEnFall_within t s).widen rfl
  | .slipSaggarRelease t => exact (execSlipSaggarRelease_within t s).widen rfl
  | .supervisionPeriod t level => exact (execSupervisionPeriod_within t level s).widen rfl
  | .recallTableSave t n => exact (execRecallTableSave_within t n s).widen rfl
  | .pathBlockOutput t p stamp mid => exact (execPathBlockOutput_within t p stamp mid s).widen rfl
  | .syncSample t p stamp mid => exact (execSyncSample_within t p stamp mid s).widen rfl
  | .pathSourceResume t p => exact (execPathSourceResume_within t p s).widen rfl
  | .powerBlockEnd t p => exact (execPowerBlockEnd_within t p s).widen rfl
  | .pathCommitApply t p => exact (execPathCommitApply_within t p s).widen rfl
  | .fadeStart t p => exact (execFadeStart_within t p s).widen rfl
  | .fadeEnd t p => exact (execFadeEnd_within t p s).widen rfl
  | .ctxSyncReset t p => exact (execCtxSyncReset_within t p s).widen rfl
  | .ctxSyncHoldTimeout t p => exact (execCtxSyncHoldTimeout_within t p s).widen rfl
  | .contextFrame t c f => exact (execContextFrame_within t c f s).widen rfl
  | .acquisitionHoldMet t c => exact (execAcquisitionHoldMet_within t c s).widen rfl
  | .cnrLossTimeout t c => exact (execCnrLossTimeout_within t c s).widen rfl
  | .wheelWatchdogExpiry t w => exact (execWheelWatchdogExpiry_within t w s).widen rfl
  | .hangBacklogCleared t w => exact (execHangBacklogCleared_within t w s).widen rfl
  | .wheelSelfTestDone t w pass => exact (execWheelSelfTestDone_within t w pass s).widen rfl
  | .failoverBranchRetry t c => exact (execFailoverBranchRetry_within t c s).widen rfl
  | .eqAutoTimeout t c engage => exact (execEqAutoTimeout_within t c engage s).widen rfl
  | .pilotDetectTimeout t c present => exact (execPilotDetectTimeout_within t c present s).widen rfl
  | .mpxPowerUpdate t c meanSq => exact (execMpxPowerUpdate_within t c meanSq s).widen rfl
  | .measWindowEnd t c f => exact (execMeasWindowEnd_within t c f s).widen rfl
  | .dabNullDetected t c sample => exact (execDabNullDetected_within t c sample s).widen rfl
  | .ficDecoded t c f => exact (execFicDecoded_within t c f s).widen rfl
  | .dabFrameEnd t c syncHeld nullFound fibsPassed => exact (execDabFrameEnd_within t c syncHeld nullFound fibsPassed s).widen rfl
  | .cifBoundary t c cif received => exact (execCifBoundary_within t c cif received s).widen rfl
  | .logicalFrameComplete t c subch stamp f => exact (execLogicalFrameComplete_within t c subch stamp f s).widen rfl
  | .dabReacquisition t c eid cif => exact (execDabReacquisition_within t c eid cif s).widen rfl
  | .tiiListUpdate t c l => exact (execTiiListUpdate_within t c l s).widen rfl
  | .drmFrameEnd t c f => exact (execDrmFrameEnd_within t c f s).widen rfl
  | .sdcDecoded t c d => exact (execSdcDecoded_within t c d s).widen rfl
  | .rdsGroupReceived t c g => exact (execRdsGroupReceived_within t c g s).widen rfl
  | .bufferFlushTimeout t cls => exact (execBufferFlushTimeout_within t cls s).widen rfl
  | .motObjectTimeout t sub => exact (execMotObjectTimeout_within t sub s).widen rfl
  | .afMeterInterval t freq level cnr multipath pi => exact (execAfMeterInterval_within t freq level cnr multipath pi s).widen rfl
  | .sharedMeterTurn t carver => exact (execSharedMeterTurn_within t carver s).widen rfl
  | .afHopDwellEnd t n => exact (execAfHopDwellEnd_within t n s).widen rfl
  | .afPiConfirmed t c freq => exact (execAfPiConfirmed_within t c freq s).widen rfl
  | .afDecisionTimeout t c => exact (execAfDecisionTimeout_within t c s).widen rfl
  | .afCorrelationDone t c delay => exact (execAfCorrelationDone_within t c delay s).widen rfl
  | .afCrossfadeEnd t c => exact (execAfCrossfadeEnd_within t c s).widen rfl
  | .afHoldoffExpiry t c => exact (execAfHoldoffExpiry_within t c s).widen rfl
  | .afReportDue t c => exact (execAfReportDue_within t c s).widen rfl
  | .accessUnitDecoded t svc u => exact (execAccessUnitDecoded_within t svc u s).widen rfl
  | .hostAudioBlock t svc => exact (execHostAudioBlock_within t svc s).widen rfl
  | .loudnessBlock t svc => exact (execLoudnessBlock_within t svc s).widen rfl
  | .loudReportPeriod t svc => exact (execLoudReportPeriod_within t svc s).widen rfl
  | .signatureSecond t svc text => exact (execSignatureSecond_within t svc text s).widen rfl
  | .sigChainPeriod t svc => exact (execSigChainPeriod_within t svc s).widen rfl
  | .libraryChangeApply t => exact (execLibraryChangeApply_within t s).widen rfl
  | .portBlockBoundary t port => exact (execPortBlockBoundary_within t port s).widen rfl
  | .slotmaskFrameApply t tdm => exact (execSlotmaskFrameApply_within t tdm s).widen rfl
  | .ainBlockReceived t n b => exact (execAinBlockReceived_within t n b s).widen rfl
  | .ainAudioReturn t n => exact (execAinAudioReturn_within t n s).widen rfl
  | .ainPreambleTimeout t n => exact (execAinPreambleTimeout_within t n s).widen rfl
  | .ainRelock t n b => exact (execAinRelock_within t n b s).widen rfl
  | .ainRateConfirmed t n => exact (execAinRateConfirmed_within t n s).widen rfl
  | .ainRateChangeTimeout t n => exact (execAinRateChangeTimeout_within t n s).widen rfl
  | .airchainReport t n => exact (execAirchainReport_within t n s).widen rfl
  | .captureFreeze t slot written => exact (execCaptureFreeze_within t slot written s).widen rfl
  | .dramEccError t area multi => exact (execDramEccError_within t area multi s).widen rfl
  | .entropyHealthFailure t => exact (execEntropyHealthFailure_within t s).widen rfl
  | .entropyRetry t pass => exact (execEntropyRetry_within t pass s).widen rfl
  | .kilnFiringStart t activity obj => exact (execKilnFiringStart_within t activity obj s).widen rfl
  | .kilnFiringEnd t activity obj r => exact (execKilnFiringEnd_within t activity obj r s).widen rfl
  | .kilnWindowExpiry t activity obj => exact (execKilnWindowExpiry_within t activity obj s).widen rfl
  | .vaultStoreDone t item ok => exact (execVaultStoreDone_within t item ok s).widen rfl
  | .coneSample t tHot tAo margins => exact (execConeSample_within t tHot tAo margins s).widen rfl
  | .conePlanDue t => exact (execConePlanDue_within t s).widen rfl
  | .avsCodeStep t => exact (execAvsCodeStep_within t s).widen rfl
  | .avsSettleTimeout t measuredMv => exact (execAvsSettleTimeout_within t measuredMv s).widen rfl
  | .peerHeartbeatLost t => exact (execPeerHeartbeatLost_within t s).widen rfl
  | .walvalLaneLoss t lane => exact (execWalvalLaneLoss_within t lane s).widen rfl
  | .walvalLaneRetry t lane pass => exact (execWalvalLaneRetry_within t lane pass s).widen rfl
  | .linkTrainTimeout t => exact (execLinkTrainTimeout_within t s).widen rfl
  | .pairJoinComplete t j => exact (execPairJoinComplete_within t j s).widen rfl
  | .pairJoinTimeout t => exact (execPairJoinTimeout_within t s).widen rfl
  | .pairDtMarker t offsetPs => exact (execPairDtMarker_within t offsetPs s).widen rfl
  | .porstNRise t b => exact (execPorstNRise_within t b s).widen rfl
  | .porstNFall t => exact (execPorstNFall_within t s).widen rfl
  | .warmNFall t dieTemp => exact (execWarmNFall_within t dieTemp s).widen rfl
  | .setterWatchdogExpiry t setter1 => exact (execSetterWatchdogExpiry_within t setter1 s).widen rfl
  | .pfailNFall t => exact (execPfailNFall_within t s).widen rfl
  | .pfailNRise t => exact (execPfailNRise_within t s).widen rfl
  | .startTimeout t => exact (execStartTimeout_within t s).widen rfl
  | .runningFailCountClear t => exact (execRunningFailCountClear_within t s).widen rfl
  | .thermalTrip t => exact (execThermalTrip_within t s).widen rfl
  | .dormantReqHeld t => exact (execDormantReqHeld_within t s).widen rfl
  | .dormantReqFall t => exact (execDormantReqFall_within t s).widen rfl
  | .pcieResetRise t => exact (execPcieResetRise_within t s).widen rfl
  | .sealSwChange t protect => exact (execSealSwChange_within t protect s).widen rfl
  | .tamperNAssert t => exact (execTamperNAssert_within t s).widen rfl
  | .vddSgArrival t => exact (execVddSgArrival_within t s).widen rfl
  | .saggarBootDone t areaB selfTest => exact (execSaggarBootDone_within t areaB selfTest s).widen rfl
  | .saggarJobStart t job cStart path => exact (execSaggarJobStart_within t job cStart path s).widen rfl
  | .saggarJobEnd t job r => exact (execSaggarJobEnd_within t job r s).widen rfl
  | .saggarFault t kind => exact (execSaggarFault_within t kind s).widen rfl
  | .legalSherdCommit t => exact (execLegalSherdCommit_within t s).widen rfl
  | .verifyMaxExpiry t => exact (execVerifyMaxExpiry_within t s).widen rfl
  | .lportAddressWake t => exact (execLportAddressWake_within t s).widen rfl
  | .mportStatus t => exact (execMportStatus_within t s).widen rfl
  | .cmdSubmit t x => exact (execCmdSubmit_within t x s).widen rfl
  | .cmdResult t whole => exact (execCmdResult_within t whole s).widen rfl
  | .cmdResultRedeliver t => exact (execCmdResultRedeliver_within t s).widen rfl
  | .mportWake t => exact (execMportWake_within t s).widen rfl
  | .mportTimingRead t => exact (execMportTimingRead_within t s).widen rfl
  | .mportTimingWrite t x => exact (execMportTimingWrite_within t x s).widen rfl
  | .mportTimingApply t => exact (execMportTimingApply_within t s).widen rfl
  | .eventFetch t whole => exact (execEventFetch_within t whole s).widen rfl
  | .eventFetchRedeliver t => exact (execEventFetchRedeliver_within t s).widen rfl
  | .mportDormantMatch t => exact (execMportDormantMatch_within t s).widen rfl
  | .mportRegateTimeout t => exact (execMportRegateTimeout_within t s).widen rfl
  | .stretchTimeout t port => exact (execStretchTimeout_within t port s).widen rfl
  | .sclHeldTimeout t port => exact (execSclHeldTimeout_within t port s).widen rfl
  | .sdaSelfHeld t port => exact (execSdaSelfHeld_within t port s).widen rfl
  | .lineHeldByOther t port scl => exact (execLineHeldByOther_within t port scl s).widen rfl
  | .busStuckClear t port => exact (execBusStuckClear_within t port s).widen rfl
  | .hostNotifySend t outcome => exact (execHostNotifySend_within t outcome s).widen rfl
  | .lportSgStatus t => exact (execLportSgStatus_within t s).widen rfl
  | .sgIdentify t => exact (execSgIdentify_within t s).widen rfl
  | .sgPortRead t => exact (execSgPortRead_within t s).widen rfl
  | .sgPortWrite t x => exact (execSgPortWrite_within t x s).widen rfl
  | .sgCounters t => exact (execSgCounters_within t s).widen rfl
  | .sgMeasure t x => exact (execSgMeasure_within t x s).widen rfl
  | .sgResponse t whole => exact (execSgResponse_within t whole s).widen rfl
  | .sgResponseRedeliver t => exact (execSgResponseRedeliver_within t s).widen rfl
  | .sgCancel t x => exact (execSgCancel_within t x s).widen rfl
  | .sgResult t x => exact (execSgResult_within t x s).widen rfl
  | .sgLogSeek t x => exact (execSgLogSeek_within t x s).widen rfl
  | .sgLogRead t whole => exact (execSgLogRead_within t whole s).widen rfl
  | .sgSeal t x => exact (execSgSeal_within t x s).widen rfl
  | .sgAfWrite t x => exact (execSgAfWrite_within t x s).widen rfl
  | .sgAfRead t x => exact (execSgAfRead_within t x s).widen rfl
  | .sgCalWrite t x => exact (execSgCalWrite_within t x s).widen rfl
  | .sgCalRead t x => exact (execSgCalRead_within t x s).widen rfl
  | .sgVerify t x => exact (execSgVerify_within t x s).widen rfl
  | .sgParam t x => exact (execSgParam_within t x s).widen rfl
  | .sgKeyLoad t x => exact (execSgKeyLoad_within t x s).widen rfl
  | .sgImageBlock t x => exact (execSgImageBlock_within t x s).widen rfl
  | .sgImageCommit t x => exact (execSgImageCommit_within t x s).widen rfl
  | .vddSgLoss t => exact (execVddSgLoss_within t s).widen rfl
  | .tamperNRelease t => exact (execTamperNRelease_within t s).widen rfl
  | .vddCoreInRange t dieTemp => exact (execVddCoreInRange_within t dieTemp s).widen rfl
  | .entropyStartupTestsDone t pass => exact (execEntropyStartupTestsDone_within t pass s).widen rfl
  | .phaseSteppingDone t => exact (execPhaseSteppingDone_within t s).widen rfl
  | .glazeMessageDone t core => exact (execGlazeMessageDone_within t core s).widen rfl
  | .ppsoutPulse t => exact (execPpsoutPulse_within t s).widen rfl
  | .sharedPoolInitDone t => exact (execSharedPoolInitDone_within t s).widen rfl

/-- What a step does: the front command on the rest of the queue, a held command that resumes, or what the block does idle. -/
theorem step_cases {s t : State} (h : step s = .next t) :
    (∃ c rest, s.pending = c :: rest ∧ exec c { s with pending := rest } = .next t)
      ∨ (s.pending = [] ∧ ∃ x, nextHeld s = some x ∧ exec x.cmd (resumeHeld x s) = .next t)
      ∨ (s.pending = [] ∧ nextHeld s = none ∧ t = idle s) := by
  unfold step at h
  split at h
  case h_1 c rest hp => exact .inl ⟨c, rest, hp, h⟩
  case h_2 hp =>
    split at h
    case h_1 x hx => exact .inr (.inl ⟨hp, x, hx, h⟩)
    case h_2 hx => exact .inr (.inr ⟨hp, hx, (Host.Outcome.next.inj h).symm⟩)

/-- Settles O1: the first branch of `step`. -/
theorem stepRunsTheFrontCommand : Obligations.StepRunsTheFrontCommand := by
  intro c rest s hp
  simp only [step, hp]

/-- Settles O5: the law of each meaning is within the parts that `touches` names. -/
theorem everyCommandStaysWithinItsParts : Obligations.EveryCommandStaysWithinItsParts :=
  fun i s t h => exec_within i s t h

/-- Settles O4: each of the three kinds of step keeps the ledger, the command by its frame and the idle step by its own. -/
theorem everyStepKeepsTheLedgerBalanced : Obligations.EveryStepKeepsTheLedgerBalanced := by
  intro s t hs h
  obtain ⟨c, rest, -, he⟩ | ⟨-, x, -, he⟩ | ⟨-, -, rfl⟩ := step_cases h
  · exact (exec_within c _ t he).ledger hs
  · exact (exec_within x.cmd _ t he).ledger hs
  · exact (idle_within s).ledger hs

/-- Settles O6: no meaning changes the queue, so only the step itself takes its front command. -/
theorem everyStepKeepsQueueFusesAndRecord : Obligations.EveryStepKeepsQueueFusesAndRecord := by
  intro s t h
  obtain ⟨c, rest, hp, he⟩ | ⟨hp, x, -, he⟩ | ⟨hp, -, rfl⟩ := step_cases h
  · have w := exec_within c _ t he
    exact ⟨by rw [w.pending, hp]; rfl, w.fuses, w.outbox⟩
  · have w := exec_within x.cmd _ t he
    exact ⟨by rw [w.pending, hp]; exact hp, w.fuses, w.outbox⟩
  · have w := idle_within s
    exact ⟨by rw [w.pending, hp]; rfl, w.fuses, w.outbox⟩

end Sys2Proof.Machine

/-!
What a step does on an empty queue (R45, R308, R309), and the small facts about time, ratios, dwell and identifiers.
-/
namespace Sys2Proof.Machine

/-! ### Every command answers a next state -/

/-- A meaning that checks first answers a next state where both its sides do. -/
theorem exists_next_ite {a b : Host.Outcome State Fault Refusal} {c : Prop} [Decidable c] (ha : ∃ t, a = .next t) (hb : ∃ t, b = .next t) :
    ∃ t, (if c then a else b) = .next t := by
  split
  · exact ha
  · exact hb

/-- Settles O59: a meaning answers its next state at once, or on both sides of its checks. -/
theorem noCommandStopsTheBlock : Obligations.NoCommandStopsTheBlock := by
  intro i s
  cases i
  case ppsinLost | refinLost | refinSteerWindow | returningPpsTimeout | spllLockDeclared | spareAlignmentDone | spareSpllFlagged |
      activeSpllFlagged =>
    dsimp only [exec, execPpsinLost, execRefinLost, execRefinSteerWindow, execReturningPpsTimeout, execSpllLockDeclared,
      execSpareAlignmentDone, execSpareSpllFlagged, execActiveSpllFlagged]
    repeat' apply exists_next_ite
    all_goals exact ⟨_, rfl⟩
  all_goals exact ⟨_, rfl⟩

/-! ### Reset -/

/-- Settles O3: the values of the tables, class by class and queue by queue. -/
theorem resetHoldsTheGivenValues : Obligations.ResetHoldsTheGivenValues := by
  refine ⟨?_, rfl, rfl, rfl, ?_, rfl, rfl, rfl, rfl, rfl⟩
  · unfold Balanced LedgerRow.Balanced
    decide
  · decide

/-! ### The instant of a step -/

theorem now_moment (t : DT) (s : State) :
    now (moment t s) = if s.time.running then (if (now s).toNat < t.toNat then t else now s) else now s := by
  unfold moment
  split <;> rfl

theorem moment_of_not_running (t : DT) {s : State} (h : s.time.running = false) : moment t s = s := by
  simp [moment, h]

/-- Settles O17: DT takes the instant only where it is the later one. -/
theorem timeNeverRunsBack : Obligations.TimeNeverRunsBack := by
  refine fun t s => ⟨fun h => ?_, moment_of_not_running t⟩
  rw [now_moment, if_pos h]
  split <;> omega

/-! ### The end of a deferred command -/

/-- Settles O12: the branches of `deferCmd` and `finishAt`. -/
theorem deferredCommandsReportTheirEnd : Obligations.DeferredCommandsReportTheirEnd := by
  refine ⟨fun h fs s hd hf => ?_, fun h fs s hd hf => ?_, fun h st res area at_ s hd => ?_⟩
  · rw [deferCmd, hd, hf]
    rfl
  · rw [deferCmd, hd, hf]
    rfl
  · rw [finishAt, hd]
    rfl

/-- Settles O19: each of the two commands ends with its figures as it begins. -/
theorem timeReadsComplete : Obligations.TimeReadsComplete :=
  ⟨fun _ => does_of (fun _ => rfl) fun _ _ _ _ => rfl, fun _ => does_of (fun _ => rfl) fun _ _ _ _ => rfl⟩

/-! ### The dwell of a comparator (R150) -/

/-- Blocks that meet the condition, run through a comparator whose dwell is `n`. -/
def Comparator.run (n : Nat) (c : Comparator) (stamps : List DT) : Comparator :=
  stamps.foldl (fun c st => (c.step true n st).1) c

/-- Before the dwell is complete the blocks are counted, and the stamp is that of the first. -/
theorem Comparator.run_of_lt {n : Nat} (stamps : List DT) (c : Comparator) (h : c.blocks + stamps.length < n) :
    c.run n stamps = { entered := c.entered, blocks := c.blocks + stamps.length,
                       first := if c.blocks = 0 then stamps.headD c.first else c.first } := by
  induction stamps generalizing c with
  | nil => simp [Comparator.run]
  | cons st l ih =>
    rw [List.length_cons] at h
    have hstep : (c.step true n st).1 = { entered := c.entered, blocks := c.blocks + 1, first := if c.blocks = 0 then st else c.first } := by
      have hlt : ¬ n ≤ c.blocks + 1 := by omega
      simp [Comparator.step, hlt]
    have hrun : c.run n (st :: l) = (c.step true n st).1.run n l := rfl
    rw [hrun, hstep, ih _ (by simp only []; omega)]
    simp only [Comparator.mk.injEq, List.length_cons, true_and]
    exact ⟨by omega, by simp⟩

/-- Settles O32: the last block of a whole dwell turns the comparator; until then the blocks are only counted. -/
theorem dwellCountsConsecutiveBlocks : Obligations.DwellCountsConsecutiveBlocks := by
  refine ⟨fun c stamps h0 hne => ?_, fun c n stamps h0 hlt => ?_, fun c n st => rfl⟩
  · obtain ⟨l, last, rfl⟩ : ∃ l last, stamps = l ++ [last] := ⟨_, _, (List.dropLast_append_getLast hne).symm⟩
    have hrun := Comparator.run_of_lt (n := (l ++ [last]).length) l c (by simp [h0])
    rw [Comparator.run] at hrun
    rw [List.foldl_append, hrun]
    cases l with
    | nil => simp [Comparator.step, h0]
    | cons st l => simp [Comparator.step, h0]
  · have hrun := Comparator.run_of_lt stamps c (n := n) (by omega)
    rw [Comparator.run] at hrun
    rw [hrun]
    exact ⟨rfl, by simp [h0]⟩

/-! ### Identifiers of subscriptions (R214) -/

/-- The identifiers tried for a new subscription, in turn. -/
def subCandidates (n : Nat) : List Nat := (List.range 513).map fun i => (n + i) % 65536

/-- With at most 512 subscriptions one of the 513 identifiers tried is free. -/
theorem exists_free_candidate {l : List Nat} (h : l.length ≤ 512) (n : Nat) : ∃ k ∈ subCandidates n, k ∉ l := by
  by_contra hall
  push Not at hall
  have hnodup : (subCandidates n).Nodup := by
    refine List.Nodup.map_on (fun i hi j hj hij => ?_) List.nodup_range
    rw [List.mem_range] at hi hj
    omega
  have hle := (hnodup.subperm hall).length_le
  simp only [subCandidates, List.length_map, List.length_range] at hle
  omega

theorem freeSub_eq (s : State) :
    freeSub s = BitVec.ofNat 16
      (((subCandidates s.cx.nextSub.toNat).find? fun k => !s.cx.subs.any fun u => u.id.toNat == k).getD s.cx.nextSub.toNat) := rfl

theorem subCandidates_cons {n : Nat} (hn : n < 65536) : ∃ l, subCandidates n = n :: l := by
  refine ⟨((List.range 512).map Nat.succ).map fun i => (n + i) % 65536, ?_⟩
  rw [subCandidates, List.range_succ_eq_map, List.map_cons, Nat.add_zero, Nat.mod_eq_of_lt hn]

/-- Settles O40: of 513 identifiers tried 512 subscriptions cannot hold all, and the first tried is the next in turn. -/
theorem subscriptionIdentifiersAreFresh : Obligations.SubscriptionIdentifiersAreFresh := by
  refine fun s hlen => ⟨fun w hw heq => ?_, fun hfree => ?_⟩
  · obtain ⟨k, hk, hnot⟩ := exists_free_candidate (l := s.cx.subs.map (·.id.toNat)) (by simpa using hlen) s.cx.nextSub.toNat
    rw [freeSub_eq] at heq
    cases hfind : (subCandidates s.cx.nextSub.toNat).find? fun k => !s.cx.subs.any fun u => u.id.toNat == k with
    | none =>
      have hused := List.find?_eq_none.mp hfind k hk
      simp only [Bool.not_eq_true', Bool.not_eq_false, List.any_eq_true, beq_iff_eq] at hused
      exact hnot (List.mem_map.mpr hused)
    | some x =>
      have hx := List.find?_some hfind
      obtain ⟨i, -, hi⟩ := List.mem_map.mp (List.mem_of_find?_eq_some hfind)
      simp only [Bool.not_eq_true', List.any_eq_false, beq_iff_eq] at hx
      refine hx w hw ?_
      rw [heq, hfind, Option.getD_some, BitVec.toNat_ofNat]
      exact Nat.mod_eq_of_lt (by omega)
  · obtain ⟨l, hfirst⟩ := subCandidates_cons s.cx.nextSub.isLt
    rw [freeSub_eq, hfirst, List.find?_cons_of_pos]
    · simp
    · simpa [← BitVec.toNat_inj] using hfree

/-! ### Ratios (R140, R141, R267, R268) -/

/-- A ratio in lowest terms is whole and residue together. -/
theorem rateWord_zero_exact {n d : Nat} (hd : 0 < d) :
    (rateWord n d 0).p < (rateWord n d 0).q
      ∧ ((rateWord n d 0).word * (rateWord n d 0).q + (rateWord n d 0).p) * d = n * 2 ^ 48 * (rateWord n d 0).q := by
  have hq : 0 < d / Nat.gcd n d := Nat.div_pos (Nat.le_of_dvd hd (Nat.gcd_dvd_right n d)) (Nat.gcd_pos_of_pos_right n hd)
  refine ⟨Nat.mod_lt _ hq, ?_⟩
  have hn : n / Nat.gcd n d * Nat.gcd n d = n := Nat.div_mul_cancel (Nat.gcd_dvd_left n d)
  have hd' : d / Nat.gcd n d * Nat.gcd n d = d := Nat.div_mul_cancel (Nat.gcd_dvd_right n d)
  have hword := Nat.div_add_mod' (n / Nat.gcd n d * 2 ^ 48) (d / Nat.gcd n d)
  simp only [rateWord, if_true]
  rw [hword]
  generalize n / Nat.gcd n d = a at *
  generalize d / Nat.gcd n d = b at *
  generalize Nat.gcd n d = g at *
  subst hn hd'
  ring

/-- With a RATE_ADJ the word is the quotient rounded down. -/
theorem rateWord_adj {n d : Nat} {adj : Int} (hadj : adj ≠ 0) :
    rateWord n d adj = { word := n * 2 ^ 96 / (d * ((2 : Int) ^ 48 + adj * 153600000).toNat), p := 0, q := 1 } := by
  rw [rateWord, if_neg hadj]

theorem rateWord_adj_floor {n d : Nat} {adj : Int} (hadj : adj ≠ 0) (hd : 0 < d) (hpos : 0 < (2 : Int) ^ 48 + adj * 153600000) :
    (rateWord n d adj).p = 0 ∧ (rateWord n d adj).q = 1
      ∧ (rateWord n d adj).word * (d * ((2 : Int) ^ 48 + adj * 153600000).toNat) ≤ n * 2 ^ 96
      ∧ n * 2 ^ 96 < ((rateWord n d adj).word + 1) * (d * ((2 : Int) ^ 48 + adj * 153600000).toNat) := by
  have hslow : 0 < d * ((2 : Int) ^ 48 + adj * 153600000).toNat := Nat.mul_pos hd (Int.pos_iff_toNat_pos.mp hpos)
  rw [rateWord_adj hadj]
  exact ⟨rfl, rfl, Nat.div_mul_le_self _ _, Nat.lt_mul_of_div_lt (Nat.lt_succ_self _) hslow⟩

theorem dividerRatio_q_le (k : Fin 4) : (dividerRatio k.val 0).q ≤ 255 := by
  revert k
  decide

/-- Counted in units of 1/q, `k` additions raise an accumulator by `k` times the ratio. -/
theorem RateWord.after_units (w : RateWord) (acc residue k : Nat) :
    (w.after acc residue k).1 * w.q + (w.after acc residue k).2 = acc * w.q + residue + k * (w.word * w.q + w.p) := by
  have h := Nat.div_add_mod' (residue + k * w.p) w.q
  simp only [RateWord.after]
  calc (acc + k * w.word + (residue + k * w.p) / w.q) * w.q + (residue + k * w.p) % w.q
      = (acc + k * w.word) * w.q + ((residue + k * w.p) / w.q * w.q + (residue + k * w.p) % w.q) := by ring
    _ = acc * w.q + residue + k * (w.word * w.q + w.p) := by rw [h]; ring

/-- Additions compose. -/
theorem RateWord.after_add (w : RateWord) (acc residue k j : Nat) (hq : 0 < w.q) :
    w.after acc residue (k + j) = w.after (w.after acc residue k).1 (w.after acc residue k).2 j := by
  have hsplit : residue + (k + j) * w.p = ((residue + k * w.p) % w.q + j * w.p) + (residue + k * w.p) / w.q * w.q := by
    have h := Nat.div_add_mod' (residue + k * w.p) w.q
    rw [Nat.add_right_comm, Nat.add_comm (_ % _), h]
    ring
  refine Prod.ext ?_ ?_
  · simp only [RateWord.after, hsplit, Nat.add_mul_div_right _ _ hq]
    ring
  · simp only [RateWord.after, hsplit, Nat.add_mul_mod_self_right]

set_option maxRecDepth 2000 in
/-- The increment depends on the rates of a path alone, which its output leaves. -/
theorem Path.incAt_catchUp (r : Int) (t : DT) (x : Path) : (x.catchUp t).incAt r = x.incAt r := by
  unfold Path.catchUp
  split
  · simp only [Path.incAt, Path.output]
  · rfl

theorem setRate_paths (r : Int) (s : State) :
    (setRate r s).cx.paths = s.cx.paths.map fun x => { x.catchUp (now s) with inc := x.incAt r, residue := 0 } := rfl

theorem setRate_dividers (r : Int) (s : State) :
    (setRate r s).port.dividers
      = Vector.ofFn fun (k : Fin 4) => { s.port.dividers[k].catchUp k.val (now s) with ratio := dividerRatio k.val r, residue := 0 } := rfl

/-- Settles O60: exact in lowest terms, rounded down under a RATE_ADJ, additive, and taken by DT, paths and dividers in one change. -/
theorem ratiosAreCarriedExactly : Obligations.RatiosAreCarriedExactly := by
  refine ⟨fun n d _ hd => rateWord_zero_exact hd, dividerRatio_q_le, fun n d adj hadj hd hpos => rateWord_adj_floor hadj hd hpos,
    fun w acc residue k hlt => ?_, fun r s => ?_⟩
  · have hq : 0 < w.q := by omega
    exact ⟨Nat.mod_lt _ hq, w.after_units acc residue k, fun j => w.after_add acc residue k j hq⟩
  · refine ⟨rfl, fun p => ⟨_, rfl, ?_⟩, fun k => ⟨_, rfl, ?_⟩⟩
    · rw [setRate_paths, vmap_fin, Path.incAt_catchUp]
    · rw [setRate_dividers, Fin.getElem_fin, Vector.getElem_ofFn]

/-! ### What a step does on an empty queue -/

/-- None of the commands held may begin: each has begun, is still deferred, or must wait. -/
theorem nextHeld_eq_none {s : State}
    (h : isRunning s = false ∨ s.power.entering = true
      ∨ ∀ x ∈ s.host.held, x.begun = true ∨ (x.deferred = true ∧ resumes x s = false) ∨ mustWait x s = true) :
    nextHeld s = none := by
  unfold nextHeld
  obtain h | h | h := h
  · simp [h]
  · simp [h]
  · split
    · rw [List.find?_eq_none]
      intro x hx
      obtain hb | ⟨hd, hr⟩ | hw := h x hx <;> simp [*]
    · rfl

/-- The first held command that may begin, begins. -/
theorem nextHeld_eq_some {s : State} {a b : List Held} {h : Held} (hrun : isRunning s = true) (hent : s.power.entering = false)
    (hheld : s.host.held = a ++ h :: b)
    (ha : ∀ x ∈ a, x.begun = true ∨ (x.deferred = true ∧ resumes x s = false) ∨ mustWait x s = true)
    (hb : h.begun = false) (hd : h.deferred = true → resumes h s = true) (hw : mustWait h s = false) : nextHeld s = some h := by
  have hskip : a.find? (fun x => !x.begun && (!x.deferred || resumes x s) && !mustWait x s) = none := by
    rw [List.find?_eq_none]
    intro x hx
    obtain hb | ⟨hd, hr⟩ | hw := ha x hx <;> simp [*]
  have hready : (!h.begun && (!h.deferred || resumes h s) && !mustWait h s) = true := by
    cases hdef : h.deferred with
    | false => simp [hb, hw]
    | true => simp [hb, hw, hd hdef]
  simp only [nextHeld, hrun, hent, hheld, List.find?_append, hskip, List.find?_cons, hready, Bool.not_false, Bool.and_true, if_true, Option.none_or]

/-- With no warm start and no entry to Dormant under way and no secondary linked, the block idles by a tick and the peers' part of CTX_SYNC. -/
theorem idle_eq_tick {s : State} (hent : s.power.entering = false) (hwarm : s.power.st = .warmStart → s.power.waking = true)
    (hlink : s.pair.role ≠ 1 ∨ (s.pair.link ≠ .up ∧ s.pair.link ≠ .degraded)) : idle s = peerSyncs (tick s) := by
  have hpower : (tick s).power = s.power := (tick_within s).power rfl
  have hpair : (peerSyncs (tick s)).pair = s.pair := ((peerSyncs_within _).pair rfl).trans ((tick_within s).pair rfl)
  have hdormant : endDormant (tick s) = tick s := by simp [endDormant, hpower, hent]
  have hendWarm : endWarm (tick s) = tick s := by
    cases hst : s.power.st <;> simp_all [endWarm]
  have hunits : peerUnits (peerSyncs (tick s)) = peerSyncs (tick s) := by
    obtain h | ⟨h, k⟩ := hlink
    · simp [peerUnits, hpair, h]
    · simp [peerUnits, hpair, h, k]
  rw [idle, hdormant, hendWarm, hunits]

/-- Without a CTX_SYNC under way the peers report nothing. -/
theorem peerSyncs_of_nil {s : State} (h : s.cx.syncs = []) : peerSyncs s = s := by
  simp only [peerSyncs, h, List.any_nil, Bool.false_eq_true, if_false, peersLeave, endSyncs, modCx, List.map_nil, List.filter_nil, List.foldl_nil]
  rw [← h]

theorem tick_syncs (s : State) : (tick s).cx.syncs = s.cx.syncs := by
  have h := congrArg CtxSt.syncs ((tick_within s).cx rfl)
  exact h

/-- Settles O2: `nextHeld` finds no command, or the first that may begin; the idle step is the tick where nothing else is under way. -/
theorem emptyQueueResumesOrTicks : Obligations.EmptyQueueResumesOrTicks := by
  refine fun s hp => ⟨fun hnone => ?_, fun a b h hrun hent hheld ha hb hd hw => ?_⟩
  · have hstep : step s = .next (idle s) := by simp [step, hp, nextHeld_eq_none hnone]
    refine ⟨hstep, fun hent hwarm hlink => ?_⟩
    rw [hstep, idle_eq_tick hent hwarm hlink]
    refine ⟨rfl, fun hsync => ?_, fun hsync hstop => ?_⟩
    · rw [peerSyncs_of_nil ((tick_syncs s).trans hsync)]
    · rw [peerSyncs_of_nil ((tick_syncs s).trans hsync), tick, hstop]
      rfl
  · simp only [step, hp, nextHeld_eq_some hrun hent hheld ha hb hd hw, resumeHeld, modHost]

end Sys2Proof.Machine

/-!
The checks of R306 in their order, the turns of fetching (R302, R355), and what raising an event does (R44, R313).
-/
namespace Sys2Proof.Machine

/-! ### The checks of R306 in their order -/

theorem failing_of_check2 {c : Spec} {h : Held} {s : State} {x : Status × Nat × Detail} (h1 : check1 c h.entry = none)
    (h2 : check2 c h.entry = some x) : failing c h s = some x := by
  simp only [failing, h1, h2]

theorem failing_of_target {c : Spec} {h : Held} {s : State} (h1 : check1 c h.entry = none) (h2 : check2 c h.entry = none)
    (h3 : (c.target s h.entry.target.toNat && c.targetFor (Entry.args h.entry) s h.entry.target.toNat) = false) :
    failing c h s = some (.errTarget, 6, .none) := by
  have h3' : (!c.target s h.entry.target.toNat || !c.targetFor (Entry.args h.entry) s h.entry.target.toNat) = true := by
    rw [← Bool.not_and, h3]; rfl
  simp only [failing, h1, h2, h3', if_true]

theorem failing_of_deadline {c : Spec} {h : Held} {s : State} (h1 : check1 c h.entry = none) (h2 : check2 c h.entry = none)
    (h3 : (c.target s h.entry.target.toNat && c.targetFor (Entry.args h.entry) s h.entry.target.toNat) = true)
    (h4 : offences c h s = []) (h5 : Entry.hasDeadline h.entry = true) (h6 : h.entry.deadline.toNat < (now s).toNat) :
    failing c h s = some (.deadlineMissed, 0xFFFF, .none) := by
  have h3' : (!c.target s h.entry.target.toNat || !c.targetFor (Entry.args h.entry) s h.entry.target.toNat) = false := by
    rw [← Bool.not_and, h3]; rfl
  simp only [failing, h1, h2, h3', h4, h5, h6, firstOffence_eq_foldl, List.foldl_nil, Bool.false_eq_true, if_false, decide_true, Bool.and_self, if_true]

/-- A deadline that passed is a failing check, so a command that passes them all may begin (R306, R310). -/
theorem not_late_of_passes {c : Spec} {h : Held} {s : State} (hf : failing c h s = none) :
    (Entry.hasDeadline h.entry && decide (h.entry.deadline.toNat < (now s).toNat)) = false := by
  unfold failing at hf
  dsimp only at hf
  split at hf
  · cases hf
  · split at hf
    · cases hf
    · split at hf
      · cases hf
      · split at hf
        · cases hf
        · split at hf
          · cases hf
          · exact Bool.eq_false_iff.mpr ‹_›

/-- A command that passes the checks and must wait stays held. -/
theorem hostCmd_eq_wait {i : Instr} {c : Spec} {body : Held → State → State} {e : Entry} {s v u : State} {h : Held}
    (hr : s.host.resuming = none) (hf : fetch c.op e (moment e.t s) = some v) (hh : hold c.op i e (shieldCopy c.op e v) = (h, u))
    (hpass : failing c h u = none) (hw : mustWait h u = true) : hostCmd i c body e s = u := by
  simp only [hostCmd, hr, hf, hh, hpass, hw, if_true]

/-- What the smaller offence of a fold is: one of those folded, and none of them is smaller. -/
theorem foldl_keepSmaller_least (l : List Offence) (b : Offence) :
    ∃ x, l.foldl keepSmaller (some b) = some x ∧ (x = b ∨ x ∈ l) ∧ x.1 ≤ b.1 ∧ ∀ y ∈ l, x.1 ≤ y.1 := by
  induction l generalizing b with
  | nil => exact ⟨b, rfl, .inl rfl, le_refl _, nofun⟩
  | cons y l ih =>
    rw [List.foldl_cons]
    by_cases hy : y.1 < b.1
    · obtain ⟨x, hx, hmem, hle, hall⟩ := ih y
      refine ⟨x, by rw [keepSmaller, if_pos hy, hx], .inr ?_, hle.trans hy.le, ?_⟩
      · exact hmem.elim (fun e => e ▸ List.mem_cons_self) (List.mem_cons_of_mem y)
      · exact List.forall_mem_cons.mpr ⟨hle, hall⟩
    · obtain ⟨x, hx, hmem, hle, hall⟩ := ih b
      refine ⟨x, by rw [keepSmaller, if_neg hy, hx], hmem.imp_right (List.mem_cons_of_mem y), hle, ?_⟩
      exact List.forall_mem_cons.mpr ⟨hle.trans (not_lt.mp hy), hall⟩

/-- The first offence is one of the list with the smallest offset (R311). -/
theorem firstOffence_least {l : List Offence} (hl : l ≠ []) : ∃ x ∈ l, firstOffence l = some x ∧ ∀ y ∈ l, x.1 ≤ y.1 := by
  obtain ⟨b, l, rfl⟩ := List.exists_cons_of_ne_nil hl
  obtain ⟨x, hx, hmem, hle, hall⟩ := foldl_keepSmaller_least l b
  exact ⟨x, List.mem_cons.mpr hmem, hx, List.forall_mem_cons.mpr ⟨hle, hall⟩⟩

/-- Settles O7: the branches of `failing` in their order, and the step of a fetched command by what they answer. -/
theorem firstFailingCheckDecides : Obligations.FirstFailingCheckDecides := by
  refine ⟨fun i c body e s v h u hr hf hh => ?_, fun c h u q hq hne hadmin => ?_, fun c h u h1 => ?_, fun l => firstOffence_least,
    fun c h u h1 h2 h3 htag => failing_of_firstOffence h1 h2 h3 (firstOffence_of_badTag c ((badTag_iff h u).mpr htag))⟩
  · have k := justHeld_of_fetch hf hh
    refine ⟨fun st off d hfail => ⟨hostCmd_eq_fail hr hf hh hfail, ?_⟩, hostCmd_eq_wait hr hf hh, fun hpass hw hrem => ?_⟩
    · exact k.within.trans ((fail_within_of_not_deferred k.deferred _ _ _ u).widen rfl)
    · exact hostCmd_starts (.fetched v h u hr hf hh hpass hw hrem) body
  · refine failing_of_check1 ?_
    rw [check1_queue c hq, hadmin]
    simp [hne]
  · refine ⟨fun x h2 => failing_of_check2 h1 h2, fun h2 => ⟨failing_of_target h1 h2, fun h3 off d h4 => ?_, fun h3 h4 h5 h6 => ?_⟩⟩
    · exact failing_of_firstOffence h1 h2 h3 h4
    · exact failing_of_deadline h1 h2 h3 h4 h5 h6

/-! ### The order of turns (R302, R355) -/

theorem fetch_eq_none {op : Nat} {e : Entry} {s : State} (h : nextSource s ≠ some e.src) : fetch op e s = none := by
  rw [fetch, fetchable, beq_false_of_ne h]
  rfl

/-- The queue whose turn it is within a level is a ready one of that level other than the admin queue. -/
theorem levelNext_eq_some {k : Fin 4} {s : State} {x : Fin 32} (h : levelNext k s = some x) :
    x.val ≠ 0 ∧ s.host.pairs[x].prio.toNat = k.val ∧ ready x s = true := by
  suffices hmem : x ∈ (List.finRange 32).filter fun q => q.val != 0 && s.host.pairs[q].prio.toNat == k.val && ready q s by
    simpa [and_assoc] using hmem
  unfold levelNext at h
  simp only [Option.or_eq_some_iff] at h
  obtain (h | ⟨-, h⟩) | ⟨-, h⟩ := h
  · split at h
    · exact List.mem_of_find?_eq_some h
    · cases h
  · exact List.mem_of_find?_eq_some h
  · exact List.mem_of_head? h

/-- A level with a ready queue has one whose turn it is. -/
theorem levelNext_ne_none {s : State} {q : Fin 32} (hne : q.val ≠ 0) (hready : ready q s = true) :
    levelNext s.host.pairs[q].prio.toFin s ≠ none := by
  have hmem : q ∈ (List.finRange 32).filter fun r =>
      r.val != 0 && s.host.pairs[r].prio.toNat == s.host.pairs[q].prio.toFin.val && ready r s := by
    simp [hne, hready]
  intro h
  unfold levelNext at h
  simp only [Option.or_eq_none_iff] at h
  rw [List.head?_eq_none_iff.mp h.2] at hmem
  cases hmem

/-- The queue that the levels give is that of the highest level that has one. -/
theorem findSome_levels {f : Fin 4 → Option (Fin 32)} {x : Fin 32} (h : [3, 2, 1, 0].findSome? f = some x) :
    ∃ k, f k = some x ∧ ∀ j, k < j → f j = none := by
  obtain ⟨l, k, r, heq, hk, hl⟩ := List.findSome?_eq_some_iff.mp h
  have hsorted : ([3, 2, 1, 0] : List (Fin 4)).Pairwise (· > ·) := by decide
  rw [heq, List.pairwise_append, List.pairwise_cons] at hsorted
  refine ⟨k, hk, fun j hj => hl j ?_⟩
  have hall : ∀ i : Fin 4, i ∈ ([3, 2, 1, 0] : List (Fin 4)) := by decide
  have hmem := hall j
  rw [heq, List.mem_append, List.mem_cons] at hmem
  obtain hmem | rfl | hmem := hmem
  · exact hmem
  · exact absurd hj (lt_irrefl _)
  · exact absurd hj (hsorted.2.1.1 j hmem).not_gt

theorem findSome_levels_ne_none {s : State} {q : Fin 32} (hne : q.val ≠ 0) (hready : ready q s = true) :
    [3, 2, 1, 0].findSome? (fun k => levelNext k s) ≠ none := by
  intro h
  rw [List.findSome?_eq_none_iff] at h
  have hall : ∀ i : Fin 4, i ∈ ([3, 2, 1, 0] : List (Fin 4)) := by decide
  exact levelNext_ne_none hne hready (h _ (hall _))

/-- What it takes for a queue other than the admin queue to be next: neither the admin queue nor the MPORT is ready, the queue is, and
no ready one has a higher PRIO. -/
theorem of_nextSource_queue {s : State} {q : Fin 32} (h : nextSource s = some (.queue q)) :
    ready q s = true ∧ (q.val ≠ 0 → ready 0 s = false ∧ mportReady s = false
      ∧ ∀ r : Fin 32, r.val ≠ 0 → ready r s = true → s.host.pairs[r].prio ≤ s.host.pairs[q].prio) := by
  unfold nextSource at h
  split at h
  case isTrue hboth =>
    split at h
    · cases h
    · cases h
      exact ⟨(Bool.and_eq_true _ _ ▸ hboth).1, fun hne => absurd rfl hne⟩
  case isFalse hboth =>
    split at h
    case isTrue h0 =>
      cases h
      exact ⟨h0, fun hne => absurd rfl hne⟩
    case isFalse h0 =>
      split at h
      · cases h
      case isFalse hm =>
        obtain ⟨x, hx, hxq⟩ := Option.map_eq_some_iff.mp h
        cases hxq
        obtain ⟨k, hk, habove⟩ := findSome_levels hx
        obtain ⟨-, hprio, hready⟩ := levelNext_eq_some hk
        refine ⟨hready, fun _ => ⟨Bool.eq_false_iff.mpr h0, Bool.eq_false_iff.mpr hm, fun r hr hrr => ?_⟩⟩
        by_contra hlt
        refine levelNext_ne_none hr hrr (habove _ ?_)
        rw [Fin.lt_def, ← hprio]
        exact BitVec.lt_def.mp (BitVec.not_le.mp hlt)

/-- A ready queue with no ready source above it and no other of its level is next. -/
theorem nextSource_eq_queue {s : State} {q : Fin 32} (hready : ready q s = true)
    (hne : q.val ≠ 0 → ready 0 s = false ∧ mportReady s = false ∧ ∀ r : Fin 32, r ≠ q → ready r s = true →
      s.host.pairs[r].prio < s.host.pairs[q].prio)
    (hzero : q.val = 0 → mportReady s = false) : nextSource s = some (.queue q) := by
  by_cases hq : q.val = 0
  · obtain rfl : q = 0 := Fin.ext hq
    simp [nextSource, hready, hzero hq]
  · obtain ⟨h0, hm, hlow⟩ := hne hq
    obtain ⟨x, hx⟩ := Option.ne_none_iff_exists'.mp (findSome_levels_ne_none hq hready)
    obtain ⟨k, hk, habove⟩ := findSome_levels hx
    obtain ⟨-, hprio, hxready⟩ := levelNext_eq_some hk
    have hxq : x = q := by
      by_contra hxne
      refine levelNext_ne_none hq hready (habove _ ?_)
      rw [Fin.lt_def, ← hprio]
      exact BitVec.lt_def.mp (hlow x hxne hxready)
    simp [nextSource, h0, hm, hx, hxq]

theorem ready_iff (q : Fin 32) (s : State) :
    ready q s = true ↔ isRunning s = true ∧ s.power.entering = false ∧ canSend s = true ∧ s.host.pairs[q].en = true
      ∧ s.host.pairs[q].enabled = true ∧ s.host.pairs[q].draining = false ∧ s.host.pairs[q].err = 0
      ∧ s.host.pairs[q].sqHead ≠ s.host.pairs[q].sqTail
      ∧ heldOf (.queue q) s + (s.host.pairs[q].cqSize - 1 - cqFree s.host.pairs[q]) < s.host.pairs[q].cqSize - 1 ∧ heldAll s < 1024 := by
  simp [ready, and_assoc]

@[simp] theorem takeTurn_host_ledger (src : Source) (s : State) : (takeTurn src s).host.ledger = s.host.ledger := by
  cases src with
  | mport => rfl
  | queue q => simp only [takeTurn]; split <;> rfl

theorem settle_ledger (c d : Fin 9) (n : Nat) (s : State) :
    (settle c n s).host.ledger[d] = if c = d then (s.host.ledger[d]).settle n else s.host.ledger[d] := upd_get' _ c d _

theorem post_ledger (c d : Fin 9) (n : Nat) (s : State) :
    (post c n s).host.ledger[d] = if c = d then (s.host.ledger[d]).post n else s.host.ledger[d] := upd_get' _ c d _

theorem modPairq_ledger (q : Fin 32) (f : Pairq → Pairq) (s : State) : (modPairq q f s).host.ledger = s.host.ledger := rfl

/-- What the entry of a queue whose turn it is leaves when it is taken. -/
theorem fetch_queue {op : Nat} {e : Entry} {q : Fin 32} {s : State} (hsrc : e.src = .queue q) (hnext : nextSource s = some (.queue q)) :
    fetch op e s = some (settle 5 1 (post 0 1 (modPairq q (fun p => { p with sqHead := (p.sqHead + 1) % p.sqSize }) (takeTurn e.src s)))) := by
  simp [fetch, fetchable, hsrc, hnext]

/-- Settles O10: what `nextSource` needs and gives, and what taking an entry of a queue does. -/
theorem fetchTakesTheNextEntry : Obligations.FetchTakesTheNextEntry := by
  refine ⟨fun op e q s hsrc => ?_, fun op cmd e s => ⟨rfl, rfl⟩⟩
  have hnone (h : nextSource s ≠ some (.queue q)) : fetch op e s = none := fetch_eq_none (hsrc ▸ h)
  refine ⟨ready_iff q s, fun hmay => hnone fun h => ?_, fun hmay => nextSource_eq_queue ((ready_iff q s).mpr hmay), fun hq h0 => hnone fun h => ?_,
    fun r hq hr hready hlt => hnone fun h => ?_, hnone, fun h => ?_⟩
  · exact hmay ((ready_iff q s).mp (of_nextSource_queue h).1)
  · obtain ⟨hr0, hm, -⟩ := (of_nextSource_queue h).2 hq
    rw [hr0, hm] at h0
    exact h0.elim Bool.noConfusion Bool.noConfusion
  · exact absurd hlt (BitVec.not_lt.mpr (((of_nextSource_queue h).2 hq).2.2 r hr hready))
  · refine ⟨_, fetch_queue hsrc h, ?_, ?_⟩
    · show (upd (takeTurn e.src s).host.pairs q _)[q] = _
      rw [upd_get', if_pos rfl, takeTurn_host_pairs]
    · have w : Within { hostq := true } s (modPairq q (fun p => { p with sqHead := (p.sqHead + 1) % p.sqSize }) (takeTurn e.src s)) :=
        (takeTurn_within e.src s).trans (modPairq_within q _ _)
      have hrow (d : Fin 9) : (settle 5 1 (post 0 1 (modPairq q (fun p => { p with sqHead := (p.sqHead + 1) % p.sqSize })
          (takeTurn e.src s)))).host.ledger[d]
            = if 5 = d then (s.host.ledger[d]).settle 1 else if 0 = d then (s.host.ledger[d]).post 1 else s.host.ledger[d] := by
        rw [settle_ledger, post_ledger, modPairq_ledger, takeTurn_host_ledger]
        fin_cases d <;> rfl
      exact ⟨congrArg LedgerRow.posted (hrow 0), congrArg LedgerRow.held (hrow 0), congrArg LedgerRow.returned (hrow 5),
        congrArg LedgerRow.held (hrow 5), (w.trans (post_within 0 1 _)).trans (settle_within 5 1 _)⟩

/-! ### Writing and queueing entries (R44, R302, R311, R313) -/

theorem notifyRise_host (old s : State) : (notifyRise old s).host = s.host := by
  unfold notifyRise
  split <;> rfl

theorem notifyRise_outbox (old s : State) : (notifyRise old s).outbox = s.outbox := by
  unfold notifyRise
  split <;> rfl

theorem sendMsix_evtSeq (v : Nat) (s : State) : (sendMsix v s).host.evtSeq = s.host.evtSeq := by
  unfold sendMsix
  split
  · rfl
  · split <;> rfl

theorem signalCq_evtSeq (q : Fin 32) (event : Bool) (s : State) : (signalCq q event s).host.evtSeq = s.host.evtSeq := by
  unfold signalCq
  dsimp only
  split
  · rfl
  · split
    · exact sendMsix_evtSeq _ _
    · rfl

/-- An entry that is written is sent out with the ring's position, phase and epoch, and its number (R311). -/
theorem cqWrite_mem_outbox (q : Fin 32) (e : CqEntry) (s : State) :
    .cqe q.val s.host.pairs[q].cqTail s.host.pairs[q].phase (epoch4 s)
      (if e.event then s.host.evtSeq else BitVec.ofNat 16 s.host.pairs[q].sqHead) e ∈ (cqWrite q e s).outbox := by
  have w (x : State) : Within { hostq := true, mp := true } x (signalCq q e.event (countEvent e (settleEntry e x))) :=
    (((settleEntry_within e x).widen rfl).trans (countEvent_within e _)).trans ((signalCq_within q e.event _).widen rfl)
  exact (w _).outbox.subset List.mem_cons_self

/-- An event that is written takes the next number (R313). -/
theorem cqWrite_evtSeq (q : Fin 32) {e : CqEntry} (he : e.event = true) (s : State) : (cqWrite q e s).host.evtSeq = s.host.evtSeq + 1 := by
  unfold cqWrite
  rw [signalCq_evtSeq, countEvent, if_pos he, settleEntry, if_pos he]
  rfl

theorem cqPush_of_writable {q : Fin 32} {e : CqEntry} {u : Option Unwritten} {s : State} (hw : cqWritable q s = true)
    (hempty : s.host.pairs[q].wait = []) : cqPush q e u s = cqWrite q e (writeOut u s) := by
  rw [cqPush, hw, hempty]
  rfl

theorem cqPush_of_waits {q : Fin 32} {e : CqEntry} {u : Option Unwritten} {s : State}
    (hw : cqWritable q s = false ∨ s.host.pairs[q].wait ≠ []) :
    cqPush q e u s = modPairq q (fun p => { p with wait := p.wait ++ [e], unwritten := p.unwritten ++ u.toList }) s := by
  rw [cqPush, if_neg]
  rw [Bool.and_eq_true, List.isEmpty_iff]
  exact fun h => hw.elim (fun k => Bool.false_ne_true (k.symm.trans h.1)) fun k => k h.2

theorem cqWritable_eq_false_iff (q : Fin 32) (s : State) :
    cqWritable q s = false ↔ canSend s = false ∨ s.host.pairs[q].enabled = false ∨ cqFree s.host.pairs[q] = 0 := by
  simp [cqWritable, -Fin.getElem_fin, imp_iff_not_or, or_assoc]

theorem modPairq_pairs_self (q : Fin 32) (f : Pairq → Pairq) (s : State) : (modPairq q f s).host.pairs[q] = f s.host.pairs[q] := by
  rw [modPairq, modHost_host, upd_get', if_pos rfl]

/-- The first element that a test finds is the one that `modFirst` changes. -/
theorem modFirst_eq {α : Type} {p : α → Bool} (f : α → α) {l : List α} (h : l.any p = true) :
    ∃ a o b, l = a ++ o :: b ∧ p o = true ∧ (∀ x ∈ a, p x = false) ∧ modFirst p f l = a ++ f o :: b := by
  induction l with
  | nil => cases h
  | cons x l ih =>
    rw [modFirst]
    cases hx : p x with
    | true => exact ⟨[], x, l, rfl, hx, nofun, rfl⟩
    | false =>
      rw [List.any_cons, hx, Bool.false_or] at h
      obtain ⟨a, o, b, rfl, ho, ha, hmod⟩ := ih h
      exact ⟨x :: a, o, b, rfl, ho, List.forall_mem_cons.mpr ⟨hx, ha⟩, by rw [hmod]; rfl⟩

/-- An event that is produced goes to the internal queue; its instant may trigger captures and a host notify, which no queue shows. -/
theorem raiseAt_host {ev : Ev} {s : State} (h : s.host.evMask.getLsbD (evBit ev) = false ∨ unmaskable.getLsbD (evBit ev) = true) (dt : DT)
    (res : List Byte) :
    let e : CqEntry := { tag := 0xFFFF, status := evCode ev, dt := dt, result := res, event := true }
    (raiseAt ev dt res s).host = (queueEvent ev e s).host ∧ (raiseAt ev dt res s).outbox = (queueEvent ev e s).outbox := by
  have hnot : ¬ (s.host.evMask.getLsbD (evBit ev) && !unmaskable.getLsbD (evBit ev)) = true := by
    obtain h | h := h <;> simp [h]
  rw [raiseAt, if_neg hnot]
  exact ⟨notifyRise_host _ _, notifyRise_outbox _ _⟩

theorem queueEvent_of_room {ev : Ev} {e : CqEntry} {s : State} (hn : (internalEvents s).length < 256) (hb : s.host.heldBack = []) :
    queueEvent ev e s = cqPush 0 e none s := by
  simp [queueEvent, hn, hb]

/-- With the internal queue full, or events held back, a threshold event replaces the one of its code and path that waits longest; any
other is held back (R44; log entry 94 chooses which one is replaced). -/
theorem queueEvent_of_full {ev : Ev} {e : CqEntry} {s : State} (h : 256 ≤ (internalEvents s).length ∨ s.host.heldBack ≠ []) :
    queueEvent ev e s =
      if (ev = .threshHigh ∨ ev = .threshLow) ∧ s.host.pairs[0].wait.any (sameThresh e) = true then
        modPairq 0 (fun p => { p with wait := modFirst (sameThresh e) (fun o => replaceThresh o e) p.wait }) s
      else modHost (fun x => { x with heldBack := x.heldBack ++ [e] }) s := by
  have hnot : ¬ (decide ((internalEvents s).length < 256) && s.host.heldBack.isEmpty) = true := by
    rw [Bool.and_eq_true, decide_eq_true_eq, List.isEmpty_iff]
    exact fun k => h.elim (fun h => absurd k.1 h.not_gt) fun h => h k.2
  rw [queueEvent, if_neg hnot]
  simp only [Bool.and_eq_true, Bool.or_eq_true, beq_iff_eq]

/-- The events that no mask bit suppresses (R313). -/
theorem unmaskable_iff (ev : Ev) :
    unmaskable.getLsbD (evBit ev) = true ↔ ev = .spllLost ∨ ev = .timeDiscont ∨ ev = .gapRecorded ∨ ev = .sealEvent ∨ ev = .busStuck := by
  cases ev <;> decide

/-- Settles O13: the mask decides whether an event is produced, the room of the internal queue where it goes. -/
theorem eventsAreMaskedNumberedAndKept : Obligations.EventsAreMaskedNumberedAndKept := by
  refine ⟨fun ev dt res s hm hu => ?_, fun ev dt res s h => ?_, unmaskable_iff⟩
  · rw [raiseAt, hm, hu]
    rfl
  · obtain ⟨hhost, hout⟩ := raiseAt_host h dt res
    dsimp only
    rw [hhost, hout]
    refine ⟨fun hn hb => ?_, fun hfull => ?_⟩
    · rw [queueEvent_of_room hn hb]
      refine ⟨fun hsend hen hfree hempty => ?_, fun hnot => ?_⟩
      · have hw : cqWritable 0 s = true := by simp [cqWritable, hsend, hen, hfree]
        rw [cqPush_of_writable hw hempty]
        exact ⟨cqWrite_mem_outbox 0 _ s, cqWrite_evtSeq 0 rfl s⟩
      · have hw : cqWritable 0 s = false ∨ s.host.pairs[(0 : Fin 32)].wait ≠ [] := by
          rw [cqWritable_eq_false_iff]
          tauto
        rw [cqPush_of_waits hw]
        refine ⟨(modPairq_pairs_self 0 _ s).trans ?_, rfl⟩
        rw [Option.toList_none, List.append_nil]
        rfl
    · rw [queueEvent_of_full hfull]
      split
      case isTrue hthresh =>
        refine ⟨rfl, ?_⟩
        obtain ⟨a, o, b, hl, ho, ha, hmod⟩ := modFirst_eq (fun o => replaceThresh o _) hthresh.2
        refine ⟨a, o, b, hl, ho, ha, (modPairq_pairs_self 0 _ s).trans ?_⟩
        rw [← hmod]
        rfl
      case isFalse => exact ⟨rfl, rfl, rfl⟩

end Sys2Proof.Machine

/-!
The queue registers, rings, interrupts and writes of the host interface (R296 to R303, R306, R310, R314 to R320, R504).
-/
namespace Sys2Proof.Machine

/-! ### Laws of the queues' operations -/

theorem idx_eq_some {n k : Nat} {i : Fin n} (h : k = i.val) : idx n k = some i := by
  subst h
  exact dif_pos i.isLt

theorem modRing_rings_self (c : Fin 4) (f : RetRing → RetRing) (s : State) : (modRing c f s).host.rings[c] = f s.host.rings[c] := by
  rw [modRing, modHost_host, upd_get', if_pos rfl]

/-- Two conditions that hold pass a guard that turns back where either fails. -/
theorem not_closed {a b : Bool} (ha : a = true) (hb : b = true) : ¬ (!a || !b) = true := by
  rw [ha, hb]
  exact Bool.false_ne_true

theorem closed {a b : Bool} (h : a = false ∨ b = false) : (!a || !b) = true := by
  obtain rfl | rfl := h
  · rfl
  · exact Bool.or_true _

theorem post_pairs (c : Fin 9) (n : Nat) (s : State) : (post c n s).host.pairs = s.host.pairs := rfl

theorem settle_pairs (c : Fin 9) (n : Nat) (s : State) : (settle c n s).host.pairs = s.host.pairs := rfl

theorem post_rings (c : Fin 9) (n : Nat) (s : State) : (post c n s).host.rings = s.host.rings := rfl

theorem settle_rings (c : Fin 9) (n : Nat) (s : State) : (settle c n s).host.rings = s.host.rings := rfl

/-! ### Doorbells (R301, R316, R503) -/

/-- A doorbell of a submission queue: the index is taken where it posts no more entries than the ring has slots. -/
theorem sqDoorbell_gives (t : DT) (q : Fin 32) (value : BitVec 32) (s : State) : Gives (.sqDoorbellWrite t q value) s fun u =>
    let m := moment t s
    let p := s.host.pairs[q]
    let i := value.toNat % 8192
    let fits := i < p.sqSize ∧ ringSteps p.sqSize p.sqHead p.sqTail + ringSteps p.sqSize p.sqTail i < p.sqSize
    (barOpen m = false ∨ p.enabled = false → u = m)
      ∧ (barOpen m = true → p.enabled = true → ¬ fits → u.host.pairs[q] = { p with err := 1 })
      ∧ (barOpen m = true → p.enabled = true → fits → u.host.pairs[q] = { p with sqTail := i }) := by
  rw [← moment_host_pairs t s]
  refine ⟨_, rfl, ?_⟩
  dsimp only
  unfold doorbell
  generalize moment t s = m
  refine ⟨fun h => if_pos (closed h), fun hb he hf => ?_, fun hb he hf => ?_⟩
  · rw [if_neg (not_closed hb he), if_pos (by simp only [Bool.or_eq_true, decide_eq_true_eq]; omega), modPairq_pairs_self]
  · rw [if_neg (not_closed hb he), if_neg (by simp only [Bool.or_eq_true, decide_eq_true_eq]; omega), post_pairs,
      modPairq_pairs_self]

/-- A doorbell of a completion queue: the index is taken where it hands back no more entries than were written. -/
theorem cqDoorbell_gives (t : DT) (q : Fin 32) (value : BitVec 32) (s : State) : Gives (.cqDoorbellWrite t q value) s fun u =>
    let m := moment t s
    let p := s.host.pairs[q]
    let i := value.toNat % 8192
    let fits := i < p.cqSize ∧ ringSteps p.cqSize p.cqHead i ≤ ringSteps p.cqSize p.cqHead p.cqTail
    (barOpen m = false ∨ p.enabled = false → u = m)
      ∧ (barOpen m = true → p.enabled = true → ¬ fits → u.host.pairs[q] = { p with err := 2 })
      ∧ (barOpen m = true → p.enabled = true → fits → u.host.pairs[q] = { p with cqHead := i }) := by
  rw [← moment_host_pairs t s]
  refine ⟨_, rfl, ?_⟩
  dsimp only
  unfold doorbell
  generalize moment t s = m
  refine ⟨fun h => if_pos (closed h), fun hb he hf => ?_, fun hb he hf => ?_⟩
  · rw [if_neg (not_closed hb he), if_pos (by simp only [Bool.or_eq_true, decide_eq_true_eq]; omega), modPairq_pairs_self]
  · rw [if_neg (not_closed hb he), if_neg (by simp only [Bool.or_eq_true, decide_eq_true_eq]; omega), post_pairs,
      modPairq_pairs_self]

/-- A doorbell of a return ring: an index that hands back more than was written sets the ring's error. -/
theorem returnRingDoorbell_gives (t : DT) (c : Fin 4) (value : BitVec 32) (s : State) : Gives (.returnRingDoorbellWrite t c value) s fun u =>
    let m := moment t s
    let r := s.host.rings[c]
    let i := value.toNat % 8192
    let fits := i < r.size ∧ ringSteps r.size r.head i ≤ ringSteps r.size r.head r.tail
    (barOpen m = false ∨ r.setup = false → u = m)
      ∧ (barOpen m = true → r.setup = true → ¬ fits → u.host.rings[c] = { r with err := true })
      ∧ (barOpen m = true → r.setup = true → fits → u.host.rings[c] = { r with head := i }) := by
  rw [← moment_rings t s]
  refine ⟨_, rfl, ?_⟩
  dsimp only
  unfold doorbell
  generalize moment t s = m
  refine ⟨fun h => if_pos (closed h), fun hb he hf => ?_, fun hb he hf => ?_⟩
  · rw [if_neg (not_closed hb he), if_pos (by simp only [Bool.or_eq_true, decide_eq_true_eq]; omega), modRing_rings_self]
  · rw [if_neg (not_closed hb he), if_neg (by simp only [Bool.or_eq_true, decide_eq_true_eq]; omega), post_rings,
      modRing_rings_self]

/-! ### Enabling, disabling and draining a pair (R299, R300, R303) -/

/-- EN written 1: the control fields are taken; a pair that neither runs nor drains is enabled after its checks. -/
theorem pairEnable_gives (t : DT) (q : Fin 32) (value : BitVec 32) (s : State) : Gives (.pairEnableWrite t q value) s fun u =>
    let m := moment t s
    let p := setPairControl value s.host.pairs[q]
    let bad := s.pair.role = 2 ∨ baseOk p.sqBase (64 * p.sqSize) = false ∨ baseOk p.cqBase (32 * p.cqSize) = false
      ∨ sizeOk p.sqSize = false ∨ sizeOk p.cqSize = false
    (barOpen m = false ∨ value.getLsbD 0 = false → u = m)
      ∧ (barOpen m = true → value.getLsbD 0 = true →
          (p.enabled = true ∨ p.draining = true → u.host.pairs[q] = p)
            ∧ (p.enabled = false → p.draining = false → bad → u.host.pairs[q] = { p with en := true, err := 3 })
            ∧ (p.enabled = false → p.draining = false → ¬ bad → u.host.pairs[q] =
                { p with en := true, enabled := true, err := 0, sqHead := 0, sqTail := 0, cqTail := 0, cqHead := 0, phase := true })) := by
  rw [← moment_host_pairs t s, ← moment_pair t s]
  refine ⟨_, rfl, ?_⟩
  generalize moment t s = m
  dsimp only
  refine ⟨fun h => if_pos (closed h), fun hb hv => ?_⟩
  rw [if_neg (not_closed hb hv)]
  have hp : (modPairq q (setPairControl value) m).host.pairs[q] = setPairControl value m.host.pairs[q] := modPairq_pairs_self q _ m
  have hpair : (modPairq q (setPairControl value) m).pair = m.pair := rfl
  rw [hp]
  refine ⟨fun h => ?_, fun he hd hbad => ?_, fun he hd hgood => ?_⟩
  · rw [if_pos (Bool.or_eq_true _ _ ▸ h), hp]
  all_goals rw [if_neg (by rw [he, hd]; exact Bool.false_ne_true), enablePair, hp, hpair]
  · rw [if_pos (by simpa [or_assoc] using hbad), modPairq_pairs_self, hp]
  · rw [if_neg (by simpa [or_assoc] using hgood), post_pairs, modPairq_pairs_self, hp]

theorem finishId_held_sublist (id : Nat) (st : Status) (fs : List (Nat × Nat × Int)) (s : State) :
    (finishId id st fs s).host.held.Sublist s.host.held := by
  unfold finishId
  split
  · rw [held_finish]
    exact List.filter_sublist
  · exact List.Sublist.refl _

theorem forgetSwap_held_sublist (id : Nat) (s : State) : (forgetSwap id s).host.held.Sublist s.host.held := by
  unfold forgetSwap
  refine foldP (P := fun u => u.host.held.Sublist s.host.held) (fun u p hu => ?_) _ s (List.Sublist.refl _)
  dsimp only
  split
  · exact hu
  · split
    · split
      · unfold promoteSwap
        dsimp only
        split
        · split
          · exact (finishId_held_sublist _ _ _ _).trans hu
          · exact hu
        · exact hu
      · exact hu
    · exact hu

/-- A command that is withdrawn is held no more, and no command is held that was not. -/
theorem withdraw_held_sublist (st : Status) (s : State) (h : Held) :
    (withdraw st s h).host.held.Sublist (s.host.held.filter (·.id != h.id)) := by
  rw [withdraw, reject, fail, held_finish]
  exact (forgetSwap_held_sublist h.id s).filter _

theorem foldl_withdraw_held {st : Status} (l : List Held) (s : State) {x : Held}
    (hx : x ∈ (l.foldl (withdraw st) s).host.held) : x ∈ s.host.held ∧ ∀ h ∈ l, x.id ≠ h.id := by
  induction l generalizing s with
  | nil => exact ⟨hx, fun h hmem => absurd hmem List.not_mem_nil⟩
  | cons h l ih =>
    rw [List.foldl_cons] at hx
    obtain ⟨hmem, hne⟩ := ih _ hx
    have hkept := (withdraw_held_sublist st s h).subset hmem
    rw [List.mem_filter, bne_iff_ne] at hkept
    exact ⟨hkept.1, List.forall_mem_cons.mpr ⟨hkept.2, hne⟩⟩

/-- Once the commands of a source that have not begun are withdrawn, the source has none (R303). -/
theorem notBegun_foldl_withdraw (st : Status) (src : Source) (s : State) :
    notBegun src ((notBegun src s).foldl (withdraw st) s) = [] := by
  rw [notBegun, List.filter_eq_nil_iff]
  intro x hx hnot
  obtain ⟨hheld, hne⟩ := foldl_withdraw_held _ s hx
  exact hne x (List.mem_filter.mpr ⟨hheld, hnot⟩) rfl

/-- EN written 0: the pair drains, and its commands that have not begun end. -/
theorem pairDisable_gives (t : DT) (q : Fin 32) (value : BitVec 32) (s : State) : Gives (.pairDisableWrite t q value) s fun u =>
    let m := moment t s
    let p := setPairControl value s.host.pairs[q]
    (barOpen m = false ∨ value.getLsbD 0 = true → u = m)
      ∧ (barOpen m = true → value.getLsbD 0 = false →
          ∃ v, v.host.pairs[q] = { p with en := false, draining := p.enabled }
            ∧ (p.enabled = false → u = v)
            ∧ (p.enabled = true → u = (notBegun (.queue q) v).foldl (withdraw .abortedHost) v ∧ notBegun (.queue q) u = [])) := by
  rw [← moment_host_pairs t s]
  refine ⟨_, rfl, ?_⟩
  generalize moment t s = m
  dsimp only
  refine ⟨fun h => if_pos ?_, fun hb hv => ?_⟩
  · obtain h | h := h <;> simp [h]
  · rw [hb, hv, if_neg (by decide)]
    have hp := modPairq_pairs_self q (fun p => { setPairControl value p with en := false, draining := p.enabled }) m
    refine ⟨_, hp, fun he => if_neg ?_, fun he => ?_⟩
    · rw [hp]; exact fun h => Bool.false_ne_true (he.symm.trans h)
    · rw [hp, if_pos he]
      exact ⟨rfl, notBegun_foldl_withdraw _ _ _⟩

/-- The drain ends when no command of the pair is held (R303). -/
theorem pairDrainDone_gives (t : DT) (q : Fin 32) (s : State) : Gives (.pairDrainDone t q) s fun u =>
    let m := moment t s
    let p := s.host.pairs[q]
    (p.draining = true → heldOf (.queue q) m = 0 → u.host.pairs[q] = { p with enabled := false, draining := false })
      ∧ (p.draining = false ∨ heldOf (.queue q) m ≠ 0 → u = m) := by
  rw [← moment_host_pairs t s]
  refine ⟨_, rfl, ?_⟩
  generalize moment t s = m
  dsimp only
  refine ⟨fun hd hh => ?_, fun h => if_neg ?_⟩
  · rw [if_pos (by rw [hd, hh]; rfl), settle_pairs, modPairq_pairs_self]
  · rw [Bool.and_eq_true, beq_iff_eq]
    exact fun k => h.elim (fun h => Bool.false_ne_true (h.symm.trans k.1)) fun h => h k.2

/-! ### Entries that wait for a slot, and coalescing (R302, R315, R318) -/

theorem writeOut_host (u : Option Unwritten) (s : State) : (writeOut u s).host = s.host := by
  unfold writeOut
  split <;> rfl

/-- The oldest entry that waits for a completion queue is written when a slot is free, its output area before it. -/
theorem queuedEntryWrite_cq_gives (t : DT) (q : Fin 32) (s : State) : Gives (.queuedEntryWrite t (.cq q)) s fun u =>
    let m := moment t s
    (s.host.pairs[q].wait = [] ∨ cqWritable q m = false → u = m)
      ∧ ∀ x rest, s.host.pairs[q].wait = x :: rest → cqWritable q m = true →
          ∃ v, u = notifyRise m (refill (cqWrite q x v))
            ∧ v.host.pairs[q] = { s.host.pairs[q] with
                wait := rest, unwritten := if x.event then s.host.pairs[q].unwritten else s.host.pairs[q].unwritten.drop 1 }
            ∧ ∀ y l a, x.event = false → s.host.pairs[q].unwritten = y :: l → y.area = some a → .area a.1 a.2 ∈ v.outbox := by
  rw [← moment_host_pairs t s]
  refine ⟨_, rfl, ?_⟩
  generalize moment t s = m
  dsimp only
  refine ⟨fun h => ?_, fun x rest hwait hw => ?_⟩
  · unfold cqDrainOne
    split
    case h_1 x rest hwait =>
      rw [hwait] at h
      obtain h | h := h
      · cases h
      · rw [h, if_pos Bool.not_false]
    case h_2 => rfl
  · unfold cqDrainOne
    simp only [hwait, hw, Bool.not_true, Bool.false_eq_true, if_false]
    cases he : x.event with
    | true =>
      refine ⟨_, rfl, ?_, nofun⟩
      rw [modPairq_pairs_self]
      rfl
    | false =>
      refine ⟨_, rfl, ?_, fun y l a _ hu ha => ?_⟩
      · rw [writeOut_host, modPairq_pairs_self]
        rfl
      · rw [hu, List.head?_cons, writeOut, Option.bind_some, ha]
        exact List.mem_cons_self

/-- The oldest return entry that waits is written when a slot is free; with no command held no RECLAIM ends with it. -/
theorem queuedEntryWrite_ret_gives (t : DT) (c : Fin 4) (s : State) : Gives (.queuedEntryWrite t (.ret c)) s fun u =>
    let m := moment t s
    s.host.held = [] → c.val ≠ 3 →
      (s.host.rings[c].wait = [] ∨ retWritable c m = false → u = m)
        ∧ ∀ x rest, s.host.rings[c].wait = x :: rest → retWritable c m = true →
            ∃ v, u = retWrite c x v ∧ v.host.rings[c] = { s.host.rings[c] with wait := rest } := by
  rw [← moment_rings t s, ← hh_moment s t]
  refine ⟨_, rfl, ?_⟩
  generalize moment t s = m
  dsimp only
  intro hheld hc
  have hdrain : (retDrainOne c m).host.held = [] := by
    unfold retDrainOne
    split
    · split
      · rw [hh_retWrite]; exact hheld
      · exact hheld
    · exact hheld
  have hend : endReclaims c (retDrainOne c m) = retDrainOne c m := by
    rw [endReclaims, reclaims, hdrain, List.filter_nil, List.foldl_nil, ite_self]
  rw [if_neg hc, hend]
  refine ⟨fun h => ?_, fun x rest hwait hw => ?_⟩
  · unfold retDrainOne
    split
    case h_1 x rest hwait =>
      rw [hwait] at h
      exact if_neg (Bool.eq_false_iff.mp (h.resolve_left (List.cons_ne_nil _ _)))
    case h_2 => rfl
  · unfold retDrainOne
    simp only [hwait, hw, if_true]
    exact ⟨_, rfl, modRing_rings_self c _ m⟩

/-- A coalescing time that has run out on a completion queue sends its vector and clears the count. -/
theorem coalTimeExpiry_cq_gives (t : DT) (q : Fin 32) (s : State) : Gives (.coalTimeExpiry t (.cq q)) s fun u =>
    let m := moment t s
    let p := s.host.pairs[q]
    (p.intEn = true → coalDue p.coalFrom (now m) = true → ∃ v, u = sendMsix p.vector v ∧ v.host.pairs[q] = { p with unsignalled := 0, coalFrom := none })
      ∧ (p.intEn = false ∨ coalDue p.coalFrom (now m) = false → u = m) := by
  rw [← moment_host_pairs t s]
  refine ⟨_, rfl, ?_⟩
  generalize moment t s = m
  dsimp only
  refine ⟨fun hi hd => ?_, fun h => if_neg ?_⟩
  · rw [if_pos (Bool.and_eq_true _ _ ▸ ⟨hi, hd⟩)]
    exact ⟨_, rfl, modPairq_pairs_self q _ m⟩
  · rw [Bool.and_eq_true]
    exact fun k => h.elim (fun h => Bool.false_ne_true (h.symm.trans k.1)) fun h => Bool.false_ne_true (h.symm.trans k.2)


/-- The same of the return rings, which share one coalescing register. -/
theorem coalTimeExpiry_ret_gives (t : DT) (c : Fin 4) (s : State) : Gives (.coalTimeExpiry t (.ret c)) s fun u =>
    let m := moment t s
    (coalDue s.host.rrCoalFrom (now m) = true → ∃ v, u = sendMsix s.host.rings[c].vector v
        ∧ v.host.rrUnsignalled = 0 ∧ v.host.rrCoalFrom = none)
      ∧ (coalDue s.host.rrCoalFrom (now m) = false → u = m) := by
  rw [← moment_rings t s, ← moment_host_rrCoalFrom t s]
  refine ⟨_, rfl, ?_⟩
  generalize moment t s = m
  dsimp only
  refine ⟨fun hd => ?_, fun h => if_neg (Bool.eq_false_iff.mp h)⟩
  rw [if_pos hd]
  exact ⟨_, rfl, rfl, rfl⟩

/-- Settles O14: one law for each of the writes and steps that act on a pair or a ring. -/
theorem queuesFollowTheirRegisters : Obligations.QueuesFollowTheirRegisters :=
  ⟨sqDoorbell_gives, cqDoorbell_gives, returnRingDoorbell_gives, pairEnable_gives, pairDisable_gives, pairDrainDone_gives,
    queuedEntryWrite_cq_gives, queuedEntryWrite_ret_gives, coalTimeExpiry_cq_gives, coalTimeExpiry_ret_gives⟩

end Sys2Proof.Machine

/-!
BUF_POST, the ledger snapshot, MSI-X, the link, register writes, deadlines and unknown opcodes (R297, R299, R306, R310, R314 to R320).
-/
namespace Sys2Proof.Machine

/-! ### BUF_POST (R316 to R319) -/

theorem heldBuffers_congr {c : Fin 4} {s t : State} (h : s.host.rings[c] = t.host.rings[c]) : heldBuffers c s = heldBuffers c t := by
  rw [heldBuffers, heldBuffers, h]

theorem setupRing_ring (c : Fin 4) (a : List Byte) (s : State) :
    (setupRing c a s).host.rings[c] = { s.host.rings[c] with
      setup := true, base := BitVec.ofNat 64 (le a 8 8), size := le a 16 2, vector := le a 2 2, head := 0, tail := 0, phase := true,
      err := false } := by
  have h : (if s.host.rings[c].setup then settle 5 (ringFree s.host.rings[c]) s else s).host.rings = s.host.rings := by
    split <;> rfl
  rw [setupRing, post_rings, modRing_rings_self, h]

/-- BUF_POST sets up a ring that holds no buffer, posts within 65 536, and reclaims; with no buffer there is nothing to return first. -/
theorem bufPost_does (e : Entry) (c : Fin 4) (hc : postClass (Entry.args e) = c.val + 1) : Does (.bufPost e) specBufPost e fun h u t =>
    let a := Entry.args e
    let r := u.host.rings[c]
    let n := postCount a
    (postAction a = 0 → heldBuffers c u ≠ 0 → t = reject h .errState u)
      ∧ (postAction a = 0 → heldBuffers c u = 0 → ∃ v, t = finish h .ok [] v
          ∧ v.host.rings[c] = { r with setup := true, base := BitVec.ofNat 64 (le a 8 8), size := le a 16 2, vector := le a 2 2,
                                       head := 0, tail := 0, phase := true, err := false })
      ∧ (postAction a = 1 → r.setup = false ∨ 65536 < heldBuffers c u + n → t = reject h .noResource u)
      ∧ (postAction a = 1 → r.setup = true → heldBuffers c u + n ≤ 65536 → ∃ v,
          t = resumeClass c (finish h .ok [(16, 2, (n : Int)), (20, 4, (heldBuffers c v : Int))] v)
            ∧ v.host.rings[c] = { r with buffers := r.buffers ++ (List.range n).map (postBuffer a) })
      ∧ (postAction a ≠ 0 → postAction a ≠ 1 → r.buffers = [] → ∃ v, t = endReclaims c v ∧ v = note h [0] u) := by
  refine does_of (fun _ => rfl) fun h u he _ => ?_
  have hidx : idx 4 (postClass (Entry.args e) - 1) = some c := idx_eq_some (by omega)
  simp only [doBufPost, he, hidx]
  refine ⟨fun h0 hb => ?_, fun h0 hb => ?_, fun h1 hb => ?_, fun h1 hset hb => ?_, fun h0 h1 hb => ?_⟩
  · simp only [h0, if_neg hb]
  · simp only [h0, if_pos hb]
    exact ⟨_, rfl, setupRing_ring c _ u⟩
  · have hrefuse : (!u.host.rings[c].setup || decide (65536 < heldBuffers c u + postCount (Entry.args e))) = true := by
      obtain hb | hb := hb <;> simp [hb, -Fin.getElem_fin]
    simp only [h1, hrefuse, if_true]
  · have hgrant : (!u.host.rings[c].setup || decide (65536 < heldBuffers c u + postCount (Entry.args e))) = false := by
      simp [hset, hb, -Fin.getElem_fin]
    simp only [h1, hgrant, Bool.false_eq_true, if_false]
    exact ⟨_, rfl, (congrArg (·[c]) (post_rings _ _ _)).trans (modRing_rings_self c _ u)⟩
  · obtain ⟨k, hk⟩ : ∃ k, postAction (Entry.args e) = k + 2 := ⟨_, (Nat.sub_add_cancel (by omega)).symm⟩
    simp only [hk, hb, List.length_nil, reclaim]
    exact ⟨_, rfl, rfl⟩

/-! ### The snapshot, MSI-X and the link -/

/-- A write of SNAP takes the whole ledger at its instant (R320). -/
theorem ledgerSnapWrite_gives (t : DT) (s : State) : Gives (.ledgerSnapWrite t) s fun u =>
    let m := moment t s
    (barOpen m = true → u.host.snap.id = m.host.snap.id + 1 ∧ u.host.snap.rows = m.host.ledger ∧ u.host.snap.dt = now m
        ∧ u.host.ledger = m.host.ledger)
      ∧ (barOpen m = false → u = m) := by
  refine ⟨_, rfl, ?_⟩
  generalize moment t s = m
  dsimp only
  refine ⟨fun h => ?_, fun h => if_neg (Bool.eq_false_iff.mp h)⟩
  rw [if_pos h]
  exact ⟨rfl, rfl, rfl, rfl⟩

/-- Sends the pending message of one vector, if it has one and is not masked (R314). -/
def flushVector (s : State) (v : Fin 33) : State :=
  if s.host.pba.getLsbD v.val && !s.host.msix[v].masked then
    emit (.msix v.val) (modHost (fun h => { h with pba := h.pba &&& ~~~ BitVec.twoPow 33 v.val }) s)
  else s

theorem flushMsix_eq (s : State) : flushMsix s = if canSend s then (List.finRange 33).foldl flushVector s else s := rfl

theorem flushVector_msix (s : State) (v : Fin 33) : (flushVector s v).host.msix = s.host.msix := by
  unfold flushVector
  split <;> rfl

/-- A pending bit that is clear stays clear. -/
theorem flushVector_pba {s : State} {w : Fin 33} (v : Fin 33) (h : s.host.pba.getLsbD w.val = false) :
    (flushVector s v).host.pba.getLsbD w.val = false := by
  unfold flushVector
  split
  · show (s.host.pba &&& ~~~ BitVec.twoPow 33 v.val).getLsbD w.val = false
    rw [BitVec.getLsbD_and, h, Bool.false_and]
  · exact h

theorem flushVector_pba_self {s : State} {v : Fin 33} (h : s.host.msix[v].masked = false) :
    (flushVector s v).host.pba.getLsbD v.val = false := by
  unfold flushVector
  split
  case isTrue =>
    show (s.host.pba &&& ~~~ BitVec.twoPow 33 v.val).getLsbD v.val = false
    simp
  case isFalse hnot => simpa [h, -Fin.getElem_fin] using hnot

theorem foldl_flushVector_msix (l : List (Fin 33)) (s : State) : (l.foldl flushVector s).host.msix = s.host.msix :=
  fold_keep (g := fun s => s.host.msix) flushVector_msix l s

/-- Flushing clears the pending bit of every vector that is not masked. -/
theorem foldl_flushVector_pba {v : Fin 33} {l : List (Fin 33)} {s : State} (hm : s.host.msix[v].masked = false)
    (h : v ∈ l ∨ s.host.pba.getLsbD v.val = false) : (l.foldl flushVector s).host.pba.getLsbD v.val = false := by
  induction l generalizing s with
  | nil => exact h.resolve_left List.not_mem_nil
  | cons w l ih =>
    rw [List.foldl_cons]
    refine ih (by rw [flushVector_msix]; exact hm) ?_
    rw [List.mem_cons] at h
    obtain (rfl | h) | h := h
    · exact .inr (flushVector_pba_self hm)
    · exact .inl h
    · exact .inr (flushVector_pba w h)

theorem flushMsix_msix (s : State) : (flushMsix s).host.msix = s.host.msix := by
  rw [flushMsix_eq]
  split
  · exact foldl_flushVector_msix _ s
  · rfl

/-- Unmasking a vector sends what is pending, if the device may send (R314). -/
theorem msixVectorUnmask_gives (t : DT) (v : Fin 33) (s : State) : Gives (.msixVectorUnmask t v) s fun u =>
    let m := moment t s
    (barOpen m = false → u = m)
      ∧ (barOpen m = true → u.host.msix[v].masked = false
          ∧ (canSend m = true → u.host.pba.getLsbD v.val = false)
          ∧ (canSend m = false → u.host.pba = m.host.pba ∧ u.outbox = m.outbox)) := by
  refine ⟨_, rfl, ?_⟩
  generalize moment t s = m
  dsimp only
  refine ⟨fun h => if_neg (Bool.eq_false_iff.mp h), fun h => ?_⟩
  have hmask : (modHost (fun h => { h with msix := upd h.msix v fun x => { x with masked := false } }) m).host.msix[v].masked = false := by
    rw [modHost_host, upd_get', if_pos rfl]
  rw [if_pos h]
  refine ⟨by rw [flushMsix_msix]; exact hmask, fun hs => ?_, fun hs => ?_⟩
  · rw [flushMsix_eq, if_pos (by exact hs)]
    exact foldl_flushVector_pba hmask (.inl (List.mem_finRange v))
  · rw [flushMsix_eq, if_neg (by exact Bool.eq_false_iff.mp hs)]
    exact ⟨rfl, rfl⟩

theorem busMasterEnableSet_gives (t : DT) (s : State) : Gives (.busMasterEnableSet t) s fun u =>
    let m := moment t s
    (s.host.linkUp = true → ∃ v, u = resumeHost v ∧ v.host = { m.host with bme := true })
      ∧ (s.host.linkUp = false → u = m) := by
  rw [← moment_host_linkUp t s]
  refine ⟨_, rfl, ?_⟩
  generalize moment t s = m
  dsimp only
  refine ⟨fun h => ?_, fun h => if_neg (Bool.eq_false_iff.mp h)⟩
  rw [if_pos h]
  exact ⟨_, rfl, rfl⟩

theorem busMasterEnableClear_gives (t : DT) (s : State) : Gives (.busMasterEnableClear t) s fun u =>
    let m := moment t s
    (s.host.linkUp = true → u.host = { m.host with bme := false } ∧ canSend u = false)
      ∧ (s.host.linkUp = false → u = m) := by
  rw [← moment_host_linkUp t s]
  refine ⟨_, rfl, ?_⟩
  generalize moment t s = m
  dsimp only
  refine ⟨fun h => ?_, fun h => if_neg (Bool.eq_false_iff.mp h)⟩
  rw [if_pos h]
  exact ⟨rfl, rfl⟩

theorem pcieLinkDown_gives (t : DT) (s : State) : Gives (.pcieLinkDown t) s fun u =>
    u.host = { (moment t s).host with linkUp := false } ∧ canSend u = false ∧ barOpen u = false :=
  ⟨_, rfl, rfl, by simp [canSend], rfl⟩

/-- A link that trains has one of the speeds and widths of R295 (log entry 52: which of them is free). -/
theorem trainLink_host (s : State) : (trainLink s).host =
      { s.host with linkUp := true, d3hot := false, speed := (trainLink s).host.speed, width := (trainLink s).host.width }
    ∧ 1 ≤ (trainLink s).host.speed ∧ (trainLink s).host.speed ≤ 3 ∧ 1 ≤ (trainLink s).host.width ∧ (trainLink s).host.width ≤ 2 := by
  have hspeed : (trainLink s).host.speed = (freeNow s % 3).toNat + 1 := rfl
  have hwidth : (trainLink s).host.width = (freeNow (useFree s) % 2).toNat + 1 := rfl
  refine ⟨rfl, ?_⟩
  rw [hspeed, hwidth]
  omega

theorem pcieLinkUp_gives (t : DT) (s : State) : Gives (.pcieLinkUp t) s fun u =>
    let m := moment t s
    (s.power.porstN = true → s.power.st ≠ .dormant → ∃ v, u = resumeHost v
        ∧ v.host = { m.host with linkUp := true, d3hot := false, speed := v.host.speed, width := v.host.width }
        ∧ 1 ≤ v.host.speed ∧ v.host.speed ≤ 3 ∧ 1 ≤ v.host.width ∧ v.host.width ≤ 2)
      ∧ (s.power.porstN = false ∨ s.power.st = .dormant → u = m) := by
  rw [← moment_power t s]
  refine ⟨_, rfl, ?_⟩
  generalize moment t s = m
  dsimp only
  refine ⟨fun hp hd => ?_, fun h => if_neg ?_⟩
  · rw [if_pos (by simp [hp, hd])]
    exact ⟨_, rfl, trainLink_host m⟩
  · obtain h | h := h <;> simp [h]

/-! ### Register writes (R296, R299) -/

/-- A write below BAR2 acts on its word, or on its low half and then its high half; one above is discarded and counted. -/
theorem registerWrite_gives (t : DT) (off : Nat) (wide : Bool) (value : BitVec 64) (s : State) :
    Gives (.registerWrite t off wide value) s fun u =>
      let m := moment t s
      (s.host.linkUp = false ∨ s.power.st = .dormant → u = m)
        ∧ (s.host.linkUp = true → s.power.st ≠ .dormant →
            (0x10000 ≤ off → u.host = { m.host with bar2Discarded := m.host.bar2Discarded + 1 })
              ∧ (off < 0x10000 → wide = false → off % 4 = 0 → u = writeReg off (value.setWidth 32) m)
              ∧ (off < 0x10000 → wide = true → off % 8 = 0 →
                  u = writeReg (off + 4) (value.extractLsb' 32 32) (writeReg off (value.setWidth 32) m))) := by
  rw [← moment_host_linkUp t s, ← moment_power t s]
  refine ⟨_, rfl, ?_⟩
  generalize moment t s = m
  dsimp only
  refine ⟨fun h => if_pos ?_, fun hl hd => ?_⟩
  · obtain h | h := h <;> simp [h]
  · rw [if_neg (by simp [hl, hd])]
    refine ⟨fun ho => ?_, fun ho hw hm => ?_, fun ho hw hm => ?_⟩
    · rw [if_pos ho]
      rfl
    · rw [if_neg ho.not_ge, hw, if_neg Bool.false_ne_true, if_pos hm]
    · rw [if_neg ho.not_ge, hw, if_pos rfl, if_pos hm]

/-- The offset of register `r` of pair `q` is one of that pair's block and of no other register. -/
theorem writeReg_pair (q : Fin 32) (r : Fin 8) (v : BitVec 32) (s : State) :
    writeReg (0x100 + 0x20 * q.val + 4 * r.val) v s = if barOpen s then modPairq q (writePairReg (4 * r.val) v) s else s := by
  have hidx : idx 32 ((0x100 + 0x20 * q.val + 4 * r.val - 0x100) / 0x20) = some q := idx_eq_some (by omega)
  have hreg : (0x100 + 0x20 * q.val + 4 * r.val - 0x100) % 0x20 = 4 * r.val := by omega
  rw [writeReg, if_neg (by omega), if_pos (by omega), hidx, hreg]

/-- A write to a pair's registers is taken only while the pair is not enabled (R299). -/
theorem writeReg_pair_fields (q : Fin 32) (r : Fin 8) (v : BitVec 32) (s : State) :
    let u := writeReg (0x100 + 0x20 * q.val + 4 * r.val) v s
    (barOpen s = false ∨ s.host.pairs[q].enabled = true → u.host.pairs[q] = s.host.pairs[q])
      ∧ (barOpen s = true → s.host.pairs[q].enabled = false →
          (r.val = 1 → u.host.pairs[q].sqBase = joinHalves v (s.host.pairs[q].sqLow.getD (s.host.pairs[q].sqBase.setWidth 32)))
            ∧ (r.val = 3 → u.host.pairs[q].cqBase = joinHalves v (s.host.pairs[q].cqLow.getD (s.host.pairs[q].cqBase.setWidth 32)))
            ∧ (r.val = 4 → u.host.pairs[q].sqSize = v.toNat % 8192 ∧ u.host.pairs[q].cqSize = v.toNat / 65536 % 8192)) := by
  dsimp only
  rw [writeReg_pair]
  refine ⟨fun h => ?_, fun hb he => ?_⟩
  · split
    case isTrue hb =>
      have he : s.host.pairs[q].enabled = true := h.resolve_left (by rw [hb]; exact Bool.noConfusion)
      rw [modPairq_pairs_self]
      exact if_pos he
    case isFalse => rfl
  · rw [if_pos hb, modPairq_pairs_self]
    unfold writePairReg
    rw [if_neg (Bool.eq_false_iff.mp he)]
    exact ⟨fun hr => by rw [hr]; rfl, fun hr => by rw [hr]; rfl, fun hr => by rw [hr]; exact ⟨rfl, rfl⟩⟩

/-! ### Deadlines and unknown opcodes -/

theorem commandDeadlineExpiry_gives (t : DT) (src : Source) (tag : BitVec 16) (s : State) : Gives (.commandDeadlineExpiry t src tag) s fun u =>
    let m := moment t s
    let late := (notBegun src m).filter fun h => h.tag == tag && Entry.hasDeadline h.entry && decide (h.entry.deadline.toNat ≤ (now m).toNat)
    (late = [] → u = m) ∧ (∀ h rest, late = h :: rest → u = withdraw .deadlineMissed m h) := by
  refine ⟨_, rfl, ?_⟩
  generalize moment t s = m
  dsimp only
  rw [← List.head?_filter]
  refine ⟨fun h => ?_, fun h rest hl => ?_⟩
  · rw [h]; rfl
  · rw [hl]; rfl

/-- An unknown or disallowed opcode is fetched and ends at once; ADMIN_ONLY says that the opcode is known and not of the MPORT (R307). -/
theorem unknownOpcode_gives (e : Entry) (op : BitVec 16) (s : State) : Gives (.unknownOpcode e op) s fun u =>
    let m := moment e.t (modHost (fun h => { h with resuming := none }) s)
    (knownOpcode op.toNat = true → disallowed op.toNat e = false → u = m)
      ∧ ((knownOpcode op.toNat = false ∨ disallowed op.toNat e = true) →
          (fetch op.toNat e m = none → u = m)
            ∧ ∀ v, fetch op.toNat e m = some v → ∃ h w d, u = fail h .errOpcode 0 d w
                ∧ (h, w) = hold op.toNat (.unknownOpcode e op) e (shieldCopy op.toNat e v)
                ∧ (d = .adminOnly ↔ knownOpcode op.toNat = true ∧ e.src ≠ .mport)) := by
  refine ⟨_, rfl, ?_⟩
  generalize moment e.t (modHost (fun h => { h with resuming := none }) s) = m
  dsimp only
  refine ⟨fun hk hd => if_pos (by rw [hk, hd]; rfl), fun h => ?_⟩
  rw [if_neg (by obtain h | h := h <;> simp [h])]
  refine ⟨fun hf => by rw [hf], fun v hf => ?_⟩
  rw [hf]
  refine ⟨_, _, _, rfl, rfl, ?_⟩
  split <;> simp_all

/-- Settles O15: one law for each command, write and event. -/
theorem hostInterfaceAnswersItsWrites : Obligations.HostInterfaceAnswersItsWrites :=
  ⟨bufPost_does, ledgerSnapWrite_gives, msixVectorUnmask_gives, busMasterEnableSet_gives, busMasterEnableClear_gives, pcieLinkDown_gives,
    pcieLinkUp_gives, registerWrite_gives, writeReg_pair_fields, commandDeadlineExpiry_gives, unknownOpcode_gives⟩

end Sys2Proof.Machine

/-! ## The device and its diagnostics (chapter 12)

Each command of chapter 12 as one law: what it answers and what it sets. The rest of the block is about the lengths of the areas that two of
them give.
-/
namespace Sys2Proof.Machine

/-! ### Lengths of what is packed -/

@[simp] theorem pack_length (base size : Nat) (fs : List (Nat × Nat × Int)) : (pack base size fs).length = size := by simp [pack]

@[simp] theorem fit_length (n : Nat) (l : List Byte) : (fit n l).length = n := by
  rw [fit, List.length_take, List.length_append, List.length_replicate]
  omega

@[simp] theorem zeros_length (n : Nat) : (zeros n).length = n := List.length_replicate

@[simp] theorem rowBytes_length (posted returned held : Nat) : (rowBytes posted returned held).length = 32 := pack_length ..

/-- Rows of one length make an area of as many times that length. -/
theorem length_flatMap_of_length_eq {α : Type} (f : α → List Byte) (n : Nat) (hf : ∀ a, (f a).length = n) (l : List α) :
    (l.flatMap f).length = l.length * n := by
  simp [List.length_flatMap, hf]

/-! ### Commands of the device (R335) -/

theorem identBytes_length (s : State) : (identBytes s).length = 64 := by
  rw [identBytes, List.length_append, List.length_append, pack_length, fit_length, zeros_length]

theorem devIdentify_does (e : Entry) : Does (.devIdentify e) specDevIdentify e fun h u t =>
    t = finishOut h .ok (identBytes u) none u ∧ (identBytes u).length = 64 :=
  does_of (fun _ => rfl) fun _ u _ _ => ⟨rfl, identBytes_length u⟩

/-- The new profile is in force, whether or not the Wheel clock changes with it. -/
theorem setProfile_profile (old new : Nat) (s : State) : (setProfile old new s).cx.profile = new := by
  unfold setProfile
  dsimp only
  split <;> rfl

/-- The checks of R21 to R24 in their order; the moves are one step by the model's choice (log entry 45). -/
theorem devSetProfile_does (e : Entry) : Does (.devSetProfile e) specDevSetProfile e fun h u t =>
    let new := le (Entry.args e) 0 1
    let old := u.cx.profile
    (new = 3 ∨ inShield u = true → t = reject h .errState u)
      ∧ (new ≠ 3 → inShield u = false → exceeds new u = true → t = reject h .noResource u)
      ∧ (new ≠ 3 → inShield u = false → exceeds new u = false →
          ((emptied old new).foldl (emptyWheel old new) (some u) = none → t = reject h .noResource u)
            ∧ ∀ v, (emptied old new).foldl (emptyWheel old new) (some u) = some v →
              let w := setProfile old new v
              (old ≠ new → reserveKept (placed w) w = false → t = reject h .noResource u)
                ∧ (old = new ∨ reserveKept (placed w) w = true →
                    t = finish h .ok [(16, 1, (old : Int)), (24, 8, dtInt (now w))] w ∧ w.cx.profile = new)) := by
  refine does_of (fun _ => rfl) fun h u he _ => ?_
  simp only [doDevSetProfile, he]
  refine ⟨fun hn => if_pos (by simpa using hn), fun hn hs hx => ?_, fun hn hs hx => ?_⟩
  · rw [if_neg (by simp [hn, hs]), if_pos hx]
  · rw [if_neg (by simp [hn, hs]), if_neg (Bool.eq_false_iff.mp hx)]
    refine ⟨fun hm => by rw [hm], fun v hv => ?_⟩
    rw [hv]
    refine ⟨fun ho hr => ?_, fun hok => ⟨?_, setProfile_profile ..⟩⟩
    · dsimp only
      rw [if_neg (by simp [ho, hr])]
    · dsimp only
      rw [if_pos (by simpa using hok)]

theorem devRestart_does (e : Entry) : Does (.devRestart e) specDevRestart e fun h u t =>
    let cold := le (Entry.args e) 0 1
    (u.power.st = .recovery → t = reject h .errState u)
      ∧ (u.power.st ≠ .recovery → cold = 0 → t = warmStart u.power.tHot false (some h) u)
      ∧ (u.power.st ≠ .recovery → cold ≠ 0 → t = orderedCold u) := by
  refine does_of (fun _ => rfl) fun h u he _ => ?_
  simp only [doDevRestart, he]
  refine ⟨fun hr => if_pos hr, fun hr hc => ?_, fun hr hc => ?_⟩
  · rw [if_neg hr, if_pos hc]
  · rw [if_neg hr, if_neg hc]

theorem devGetHealth_does (e : Entry) : Does (.devGetHealth e) specDevGetHealth e fun h u t =>
    t = finishOut h .ok (healthFigures u) none u :=
  does_of (fun _ => rfl) fun _ _ _ _ => rfl

theorem devSetEventMask_does (e : Entry) : Does (.devSetEventMask e) specDevSetEventMask e fun h u t =>
    ∃ v, t = finish h .ok [(24, 8, (u.host.evMask.toNat : Int))] v
      ∧ v.host = { u.host with evMask := BitVec.ofNat 64 (le (Entry.args e) 8 8) } := by
  refine does_of (fun _ => rfl) fun h u he _ => ?_
  rw [← he]
  exact ⟨_, rfl, rfl⟩

/-- The nine rows of the snapshot, and with POSITIONS those of the 64 paths, at 32 bytes a row. -/
theorem devLedgerRead_does (e : Entry) : Does (.devLedgerRead e) specDevLedgerRead e fun h u t =>
    ∃ area v, t = finishOut h .ok area
        (some [(16, 2, (v.host.snap.id.toNat : Int)), (20, 4, (u.host.epoch.toNat : Int)), (24, 8, dtInt (now u))]) v
      ∧ v.host.snap.id = u.host.snap.id + 1 ∧ v.host.snap.rows = u.host.ledger ∧ v.host.ledger = u.host.ledger
      ∧ area.length = if le (Entry.args e) 12 1 = 1 then 288 + 2048 else 288 := by
  refine does_of (fun _ => rfl) fun h u he _ => ?_
  rw [← he]
  refine ⟨_, latchSnapshot u, rfl, rfl, rfl, rfl, ?_⟩
  have hrow (p : Path) : (pathRow p).length = 32 := rowBytes_length ..
  rw [List.length_append, length_flatMap_of_length_eq _ 32 (fun _ => rowBytes_length ..), Vector.length_toList]
  split
  · rw [length_flatMap_of_length_eq _ 32 hrow, Vector.length_toList]
  · rfl

/-! ### Diagnostics -/

/-- READ_CLEAR zeroes every counter of the table and nothing beside it (R343). -/
theorem clearCounters_clears (u : State) : let v := clearCounters u
    v.mem.corrected = 0 ∧ v.mem.multibit = 0 ∧ v.host.bar2Discarded = 0
      ∧ (∀ i : Fin 2, v.rf.wb[i] = { u.rf.wb[i] with overloads := 0, clipped := 0 })
      ∧ (∀ n : Fin 4, v.rf.tuners[n] = { u.rf.tuners[n] with overloads := 0, clipped := 0 })
      ∧ (∀ i : Fin 4, v.port.ains[i] = { u.port.ains[i] with parity := 0, biphase := 0 })
      ∧ ∀ k : Fin 4, v.pair.crc[k] = 0 :=
  ⟨rfl, rfl, rfl, fun i => vmap_fin u.rf.wb _ i, fun n => vmap_fin u.rf.tuners _ n, fun i => vmap_fin u.port.ains _ i,
    fun k => by simp [clearCounters]⟩

theorem diagReadCounters_does (e : Entry) : Does (.diagReadCounters e) specDiagReadCounters e fun h u t =>
    ∃ v, t = finishOut h .ok (counterFigures u) none v
      ∧ (le (Entry.args e) 12 1 ≠ 1 → v = u)
      ∧ (le (Entry.args e) 12 1 = 1 → v.mem.corrected = 0 ∧ v.mem.multibit = 0 ∧ v.host.bar2Discarded = 0
          ∧ (∀ i : Fin 2, v.rf.wb[i] = { u.rf.wb[i] with overloads := 0, clipped := 0 })
          ∧ (∀ n : Fin 4, v.rf.tuners[n] = { u.rf.tuners[n] with overloads := 0, clipped := 0 })
          ∧ (∀ i : Fin 4, v.port.ains[i] = { u.port.ains[i] with parity := 0, biphase := 0 })
          ∧ ∀ k : Fin 4, v.pair.crc[k] = 0) := by
  refine does_of (fun _ => rfl) fun h u he _ => ?_
  rw [← he]
  refine ⟨_, rfl, fun hn => if_neg hn, fun hc => ?_⟩
  rw [if_pos hc]
  exact clearCounters_clears u

theorem diagLoopback_does (e : Entry) (source : List Byte) : Does (.diagLoopback e source) specDiagLoopback e fun h u t =>
    let a := Entry.args e
    (le a 0 1 = 0 → t = finishAt h .ok (fit 16 ((a.drop 16).take 16)) [] (now u) u)
      ∧ (le a 0 1 ≠ 0 → ∃ v data, t = finish h .ok [(16, 4, (le a 24 4 : Int)), (20, 4, ((crc32 data).toNat : Int))] v
          ∧ data = fit (le a 24 4) source ∧ v.outbox = .area (BitVec.ofNat 64 (le a 16 8)) data :: u.outbox) := by
  refine does_of (fun _ => rfl) fun h u he _ => ?_
  simp only [doDiagLoopback, he]
  refine ⟨fun h0 => if_pos h0, fun h0 => ?_⟩
  rw [if_neg h0, fit_length]
  exact ⟨emit (.area _ (fit (le (Entry.args e) 24 4) source)) u, _, rfl, rfl, rfl⟩

/-- Settles O16: one law for each command. -/
theorem deviceCommandsAnswerAndSet : Obligations.DeviceCommandsAnswerAndSet :=
  ⟨devIdentify_does, devSetProfile_does, devRestart_does, devGetHealth_does, devSetEventMask_does, devLedgerRead_does, diagReadCounters_does,
    diagLoopback_does⟩

end Sys2Proof.Machine

/-! ## TIME_SET (R47, R48, R62)

What a slew and a step leave in the time state, said once each; then the three commands.
-/
namespace Sys2Proof.Machine

/-! ### Slews -/

/-- A slew that starts takes over the rate, and nothing else of the time state moves. -/
theorem runSlew_time (left rate : Int) (cfgRate : Bool) (cmd : Option Nat) (s : State) :
    (runSlew left rate cfgRate cmd s).time = { s.time with
      decided := none, rateAdj := slewRate left rate,
      slew := some { left := left, since := now s, cmd := cmd, cfgRate := cfgRate, began := now s } } := by
  unfold runSlew
  dsimp only
  split
  · rw [finishId_time]
    rfl
  · rfl

theorem startSlew_time (left rate : Int) (cfgRate : Bool) (cmd : Option Nat) (s : State) :
    (startSlew left rate cfgRate cmd s).time = { s.time with
      decided := none, rateAdj := slewRate left rate,
      slew := some { left := left, since := now s, cmd := cmd, cfgRate := cfgRate, began := now s } } := by
  rw [startSlew, tellPair_l_time, runSlew_time]

theorem natAbs_slewRate (left rate : Int) : (slewRate left rate).natAbs = rate.natAbs := by
  unfold slewRate
  split
  · exact Int.natAbs_neg rate
  · rfl

theorem slewRate_nonpos {left rate : Int} (hr : 0 ≤ rate) (hl : left < 0) : slewRate left rate ≤ 0 := by
  rw [slewRate, if_pos hl]
  omega

theorem slewRate_nonneg {left rate : Int} (hr : 0 ≤ rate) (hl : 0 ≤ left) : 0 ≤ slewRate left rate := by
  rw [slewRate, if_neg (by omega)]
  exact hr

theorem rateAdjOf_nonneg (r : Int) : 0 ≤ rateAdjOf r := Int.natCast_nonneg _

/-- A slew that ends returns RATE_ADJ to 0 with the word that the other unit is told. -/
def slewEnded (s : State) : State := tellPair 3 0 (now s) (setRate 0 (modTime (fun u => { u with slew := none }) s))

theorem slewEnded_time (s : State) : (slewEnded s).time = { s.time with slew := none, rateAdj := 0 } := tellPair_l_time ..

theorem slewEnded_held (s : State) : (slewEnded s).host.held = s.host.held := tellPair_l_hheld ..

/-- After its end no slew is in progress or decided; the rest of the time state but RATE_ADJ stands. -/
theorem endSlew_time (s : State) :
    (endSlew s).time = { s.time with decided := none, slew := none, rateAdj := (endSlew s).time.rateAdj } := by
  unfold endSlew
  dsimp only
  split
  · split
    · rw [finishId_time, tellPair_l_time]
      rfl
    · rw [tellPair_l_time]
      rfl
  case h_2 hs =>
    have hs : s.time.slew = none := hs
    rw [← hs]
    rfl

/-! ### Steps -/

/-- A step of DT leaves the new value, with no slew and no forward step; TIME_UNSET stays only where it is kept. -/
theorem stepDtAs_time (dest : DT) (cause : Int) (keep : Bool) (s : State) : let u := (stepDtAs dest cause keep s).time
    u.dt = dest ∧ u.slew = none ∧ u.fwdStep = none ∧ u.unset = (keep && s.time.unset)
      ∧ (s.time.disc = .returning → u.disc = .returning) := by
  have hslew : (endSlew s).time.slew = none := by rw [endSlew_time]
  have hunset : (endSlew s).time.unset = s.time.unset := by rw [endSlew_time]
  have hdisc : (endSlew s).time.disc = s.time.disc := by rw [endSlew_time]
  dsimp only
  unfold stepDtAs
  simp only [opSherd_time, tellPair_l_time, raise_time]
  split
  case isTrue hl =>
    have hnot : s.time.disc ≠ .returning := fun hr => by simp [hr] at hl
    simp [hslew, hnot]
  case isFalse => simp [hslew]

/-- The measurement that a step restarts is the only thing that TIME_SET adds to it. -/
theorem applyTimeSet_step {s : State} {h : Held}
    (hv : s.time.unset = true ∨ (now s).toNat < (BitVec.ofNat 64 (le (Entry.args h.entry) 8 8) : DT).toNat) :
    ∃ w, applyTimeSet s h = finish h .ok
        [(16, 8, dtInt (now s)), (24, 8, dtInt (BitVec.ofNat 64 (le (Entry.args h.entry) 8 8) : DT))] w
      ∧ w.time.dt = BitVec.ofNat 64 (le (Entry.args h.entry) 8 8) ∧ w.time.unset = false ∧ w.time.slew = none := by
  unfold applyTimeSet
  dsimp only
  generalize (BitVec.ofNat 64 (le (Entry.args h.entry) 8 8) : DT) = v at hv ⊢
  rw [if_neg (by obtain h | h := hv <;> simp [h])]
  refine ⟨_, rfl, ?_⟩
  have hcause : ((if s.time.unset then 0 else if le (Entry.args h.entry) 0 1 = 2 then 2 else 1 : Nat) == 3) = false := by
    split
    · rfl
    · split <;> rfl
  generalize (if s.time.unset then 0 else if le (Entry.args h.entry) 0 1 = 2 then 2 else 1 : Nat) = cause at hcause ⊢
  obtain ⟨hdt, hslew, -, hunset, -⟩ := stepDtAs_time v cause (cause == 3) s
  replace hunset := hunset.trans (congrArg (· && s.time.unset) hcause)
  unfold stepDt
  split
  · exact ⟨hdt, hunset, hslew⟩
  · exact ⟨hdt, hunset, hslew⟩

theorem applyTimeSet_refused {s : State} {h : Held} (hu : s.time.unset = false)
    (hv : (BitVec.ofNat 64 (le (Entry.args h.entry) 8 8) : DT).toNat ≤ (now s).toNat) :
    applyTimeSet s h = fail h .errParam (Entry.offset h.entry 8) .outOfRange s :=
  if_pos (by rw [hu, decide_eq_true hv]; rfl)

/-! ### The commands -/

/-- SLEW takes the difference at acceptance: the model's choice (log entry 18). -/
theorem timeSet_does (e : Entry) : Does (.timeSet e) specTimeSet e fun h u t =>
    let a := Entry.args e
    let v : DT := BitVec.ofNat 64 (le a 8 8)
    (le a 0 1 = 2 → u.time.ppsQual = true → t = park h [1, 0] u)
      ∧ (le a 0 1 = 2 → u.time.ppsQual = false → t = reject h .errState u)
      ∧ (le a 0 1 ≠ 2 → (le a 0 1 = 0 ∨ u.time.unset = true) → t = park h [0, dtInt (nextSecond (now u))] u)
      ∧ (le a 0 1 = 1 → u.time.unset = false →
          t.time.slew = some { left := dtInt v - dtInt (now u), since := now u, cmd := some h.id, cfgRate := true, began := now u }
            ∧ t.time.rateAdj.natAbs = (rateAdjOf (fget u.time.cfg 0x0106)).natAbs
            ∧ (v.toNat < (now u).toNat → t.time.rateAdj ≤ 0) ∧ ((now u).toNat ≤ v.toNat → 0 ≤ t.time.rateAdj)
            ∧ t.time.dt = u.time.dt) := by
  refine does_of (fun _ => rfl) fun h u he _ => ?_
  simp only [beginTimeSet, he]
  refine ⟨fun h2 hq => ?_, fun h2 hq => ?_, fun h2 h0 => ?_, fun h1 hu => ?_⟩
  · rw [if_pos h2, if_pos hq]
  · rw [if_pos h2, if_neg (Bool.eq_false_iff.mp hq)]
  · rw [if_neg h2, if_pos (by simpa using h0)]
  · rw [if_neg (by omega), if_neg (by simp [h1, hu])]
    have hpos := rateAdjOf_nonneg (fget u.time.cfg 0x0106)
    generalize (BitVec.ofNat 64 (le (Entry.args e) 8 8) : DT) = v
    have hnonpos (hv : v.toNat < (now u).toNat) : slewRate (dtInt v - dtInt (now u)) (rateAdjOf (fget u.time.cfg 0x0106)) ≤ 0 :=
      slewRate_nonpos hpos (by unfold dtInt; omega)
    have hnonneg (hv : (now u).toNat ≤ v.toNat) : 0 ≤ slewRate (dtInt v - dtInt (now u)) (rateAdjOf (fget u.time.cfg 0x0106)) :=
      slewRate_nonneg hpos (by unfold dtInt; omega)
    split
    · simp only [modTime_time, begin__time, startSlew_time]
      exact ⟨trivial, natAbs_slewRate .., hnonpos, hnonneg, trivial⟩
    · simp only [begin__time, startSlew_time]
      exact ⟨trivial, natAbs_slewRate .., hnonpos, hnonneg, trivial⟩

theorem timeSetStepApply_gives (t : DT) (s : State) (h : Held)
    (hw : (waiting 0x0200 0 (moment t s)).filter (timeSetDue (now (moment t s))) = [h]) :
    let old := now (moment t s)
    let v : DT := BitVec.ofNat 64 (le (Entry.args h.entry) 8 8)
    ((s.time.unset = true ∨ old.toNat < v.toNat) →
      Gives (.timeSetStepApply t) s fun u => ∃ w, u = finish h .ok [(16, 8, dtInt old), (24, 8, dtInt v)] w ∧
        w.time.dt = v ∧ w.time.unset = false ∧ w.time.slew = none)
    ∧ (s.time.unset = false → v.toNat ≤ old.toNat →
      Gives (.timeSetStepApply t) s fun u => u = fail h .errParam (Entry.offset h.entry 8) .outOfRange (moment t s)) := by
  have hexec : exec (.timeSetStepApply t) s = .next (applyTimeSet (moment t s) h) := by
    show Host.Outcome.next _ = _
    rw [hw]
    rfl
  have hunset : (moment t s).time.unset = s.time.unset := by simp
  rw [← hunset]
  exact ⟨fun hv => gives hexec (applyTimeSet_step hv), fun hu hv => gives hexec (applyTimeSet_refused hu hv)⟩

/-- A decision carried out changes the loop state at most; RETURNING goes on to ACQUIRE. -/
theorem corrected_time (s : State) : let u := (corrected s).time
    u.slew = s.time.slew ∧ u.rateAdj = s.time.rateAdj ∧ u.dt = s.time.dt ∧ u.fwdStep = s.time.fwdStep ∧ u.unset = s.time.unset
      ∧ (s.time.disc = .returning → u.disc = .acquire) := by
  dsimp only
  unfold corrected
  split
  · exact ⟨enterAcquire_slew .., enterAcquire_rateAdj .., enterAcquire_dt .., enterAcquire_fwdStep .., enterAcquire_unset .., fun _ => rfl⟩
  case isFalse hd => exact ⟨rfl, rfl, rfl, rfl, rfl, fun h => absurd (by rw [h]; rfl) hd⟩

theorem slewTargetReached_gives (t : DT) (s : State) (w : Slew) (hs : s.time.slew = some w) :
    (∀ id h, w.cmd = some id → findHeld id s = some h → Gives (.slewTargetReached t) s fun u => ∃ x,
        u = finish h .ok [(16, 8, dtInt w.began), (24, 8, dtInt (now x))] x
          ∧ x.time.dt = (moment t s).time.dt ∧ x.time.slew = none ∧ x.time.rateAdj = 0)
      ∧ (w.cmd = none → Gives (.slewTargetReached t) s fun u => u.time.slew = none ∧ u.time.rateAdj = 0 ∧
        (s.time.disc = .returning → s.time.decided = none → u.time.disc = .acquire)) := by
  have hm : (moment t s).time.slew = some w := by simp [hs]
  have hd : (moment t s).time.disc = s.time.disc := by simp
  have hdec : (moment t s).time.decided = s.time.decided := by simp
  refine ⟨fun id h hc hh => ?_, fun hc => ?_⟩
  · have hfind : findHeld id (slewEnded (moment t s)) = some h := by
      rw [findHeld_congr (slewEnded_held _), findHeld_moment, hh]
    have hexec : exec (.slewTargetReached t) s
        = .next (finishId id .ok [(16, 8, dtInt w.began), (24, 8, dtInt (now (slewEnded (moment t s))))] (slewEnded (moment t s))) := by
      show Host.Outcome.next _ = _
      rw [hm]
      dsimp only
      rw [hc]
      rfl
    refine gives hexec ⟨_, finishId_eq hfind, ?_⟩
    rw [slewEnded_time]
    exact ⟨rfl, rfl, rfl⟩
  · have hexec : exec (.slewTargetReached t) s
        = .next (if (slewEnded (moment t s)).time.decided.isSome then slewEnded (moment t s) else corrected (slewEnded (moment t s))) := by
      show Host.Outcome.next _ = _
      rw [hm]
      dsimp only
      rw [hc]
      rfl
    refine gives hexec ?_
    rw [← hd, ← hdec]
    obtain ⟨hcs, hcr, -, -, -, hcd⟩ := corrected_time (slewEnded (moment t s))
    rw [slewEnded_time] at hcs hcr hcd ⊢
    split
    case isTrue hsome => 
      rw [slewEnded_time]
      exact ⟨rfl, rfl, fun _ hn => absurd hsome (by dsimp only; rw [hn]; exact Bool.false_ne_true)⟩
    case isFalse => exact ⟨hcs, hcr, fun hr _ => hcd hr⟩

/-- Settles O20: TIME_SET, its step at the instant it waits for, and the end of a slew. -/
theorem timeSetActs : Obligations.TimeSetActs :=
  ⟨timeSet_does, timeSetStepApply_gives, slewTargetReached_gives⟩

end Sys2Proof.Machine

/-! ## The references of the discipline loop (R52 to R62, R526)

A change of the loop state moves the tune word only out of HOLDOVER; the commands of the references follow from that.
-/
namespace Sys2Proof.Machine

/-! ### What a change of the loop state leaves -/

theorem tuneNow_of_ne {t : DT} {u : TimeSt} (h : u.disc ≠ .holdover) : tuneNow t u = u.tune := if_neg h

theorem tuneNow_leaveLocked {t : DT} {s : State} {hist : List (Int × Int)} (h : s.time.disc ≠ .holdover) :
    tuneNow t { (leaveLocked s).time with hist := hist } = s.time.tune := by
  rw [tuneNow_of_ne (by rw [← leaveLocked_disc s] at h; exact h)]
  exact leaveLocked_tune s

/-- The tune word stands where it is when the loop does not leave HOLDOVER (R55). -/
theorem setDisc_tune {d : Disc} {s : State} (h : s.time.disc ≠ .holdover) : (setDisc d s).time.tune = s.time.tune := by
  unfold setDisc
  simp only [modTime_time, setTune_tune]
  split
  · exact tuneNow_of_ne h
  · exact (tuneNow_of_ne (by rw [leaveLocked_disc]; exact h)).trans (leaveLocked_tune s)

theorem setDisc_disc (d : Disc) (s : State) : (setDisc d s).time.disc = d := rfl

theorem tracking_ne_holdover {d : Disc} (h : tracking d = true) : d ≠ .holdover := by
  rintro rfl
  exact Bool.false_ne_true h

theorem enterHoldover_held (s : State) : (enterHoldover s).time.held = heldWord (now s) s.time := rfl
theorem enterHoldover_tune {s : State} (h : s.time.disc ≠ .holdover) : (enterHoldover s).time.tune = s.time.tune := setDisc_tune h

@[simp] theorem refLost_time (pps hold : Bool) (s : State) : (refLost pps hold s).time = s.time := by
  rw [refLost, faultSherd_l_time, raise_time]

theorem refReturn_time (action : Nat) (mean : Int) (s : State) : (refReturn action mean s).time = s.time := raise_time ..

@[simp] theorem modeNow_moment (t : DT) (s : State) : modeNow (moment t s) = modeNow s := by
  simp only [modeNow, refMode, moment_pair, moment_time_cfg]

theorem modeNow_modTime {f : TimeSt → TimeSt} {s : State} (h : (f s.time).cfg = s.time.cfg) : modeNow (modTime f s) = modeNow s := by
  simp only [modeNow, refMode, modTime_time, modTime_pair, h]

@[simp] theorem heldWord_moment (d t : DT) (s : State) : heldWord d (moment t s).time = heldWord d s.time := by
  simp only [heldWord, moment_time_hist, moment_time_tune]

theorem loopRests_iff (s : State) : loopRests s = true ↔ s.power.st = .dormant := by
  simp [loopRests]

/-- Whether the loss of a reference makes the loop leave its state, as the model writes it. -/
theorem leaves_iff {mode : Bool} {p : Prop} (hp : mode = true ↔ p) {s : State} :
    (mode && tracking s.time.disc && !loopRests s) = true ↔ p ∧ tracking s.time.disc = true ∧ s.power.st ≠ .dormant := by
  rw [← hp]
  simp [loopRests_iff, ← Bool.not_eq_true, and_assoc]

theorem mode_iff_or (n : Int) : (n == 1 || n == 3) = true ↔ n = 1 ∨ n = 3 := by simp

/-! ### Loss and return (R54, R55, R59) -/

theorem refinLost_gives (t : DT) (s : State) (hq : s.time.refinQual = true) : Gives (.refinLost t) s fun u =>
    u.time.refinQual = false ∧ u.time.tune = s.time.tune
      ∧ ((modeNow s = 1 ∨ modeNow s = 3) → tracking s.time.disc = true → s.power.st ≠ .dormant →
          u.time.disc = .holdover ∧ u.time.held = heldWord (now (moment t s)) s.time)
      ∧ (¬ (modeNow s = 1 ∨ modeNow s = 3) ∨ tracking s.time.disc = false ∨ s.power.st = .dormant → u.time.disc = s.time.disc) := by
  rw [← heldWord_moment _ t s, ← modeNow_moment t s, ← moment_power t s, ← moment_time_disc t s, ← moment_time_tune t s]
  rw [← moment_time_refinQual t s] at hq
  refine gives_neg rfl (by rw [hq]; exact Bool.false_ne_true) ?_
  generalize moment t s = m
  simp only [refLost_time]
  split
  case isTrue hl =>
    obtain ⟨hmode, htrack, hd⟩ := (leaves_iff (mode_iff_or (modeNow m))).mp hl
    refine ⟨setDisc_refinQual .., enterHoldover_tune (tracking_ne_holdover htrack), fun _ _ _ => ⟨rfl, rfl⟩, fun h => ?_⟩
    obtain h | h | h := h
    · exact absurd hmode h
    · exact absurd (htrack.symm.trans h) Bool.false_ne_true.symm
    · exact absurd h hd
  case isFalse hl =>
    refine ⟨rfl, rfl, fun hmode htrack hd => absurd ((leaves_iff (mode_iff_or (modeNow m))).mpr ⟨hmode, htrack, hd⟩) hl,
      fun _ => rfl⟩

theorem ppsinLost_gives (t : DT) (s : State) (hq : s.time.ppsQual = true) : Gives (.ppsinLost t) s fun u =>
    u.time.ppsQual = false
      ∧ (tracking s.time.disc = true → modeNow s = 2 → s.power.st ≠ .dormant →
          u.time.disc = .holdover ∧ u.time.held = heldWord (now (moment t s)) s.time)
      ∧ (tracking s.time.disc = true → modeNow s = 3 → s.power.st ≠ .dormant → u.time.disc = .phaseHold ∧ u.time.measuring = false)
      ∧ (tracking s.time.disc = false ∨ (modeNow s ≠ 2 ∧ modeNow s ≠ 3) ∨ s.power.st = .dormant → u.time.disc = s.time.disc) := by
  rw [← heldWord_moment _ t s, ← modeNow_moment t s, ← moment_power t s, ← moment_time_disc t s]
  rw [← moment_time_ppsQual t s] at hq
  refine gives_neg rfl (by rw [hq]; exact Bool.false_ne_true) ?_
  generalize moment t s = m
  simp only [refLost_time]
  split
  case isTrue hl =>
    obtain ⟨hmode, htrack, hd⟩ := (leaves_iff (beq_iff_eq (a := modeNow m) (b := 2))).mp hl
    refine ⟨setDisc_ppsQual .., fun _ _ _ => ⟨rfl, rfl⟩, fun _ h3 => ?_, fun h => ?_⟩
    · rw [hmode] at h3
      omega
    · obtain h | h | h := h
      · exact absurd (htrack.symm.trans h) Bool.false_ne_true.symm
      · exact absurd hmode h.1
      · exact absurd h hd
  case isFalse hl =>
    refine ⟨?_, fun htrack hmode hd => absurd ((leaves_iff (beq_iff_eq (a := modeNow m) (b := 2))).mpr ⟨hmode, htrack, hd⟩) hl,
      ?_⟩
    · split
      · exact setDisc_ppsQual ..
      · rfl
    · split
      case isTrue hp =>
        obtain ⟨hmode, htrack, hd⟩ := (leaves_iff (beq_iff_eq (a := modeNow m) (b := 3))).mp hp
        refine ⟨fun _ _ _ => ⟨rfl, rfl⟩, fun h => ?_⟩
        obtain h | h | h := h
        · exact absurd (htrack.symm.trans h) Bool.false_ne_true.symm
        · exact absurd hmode h.2
        · exact absurd h hd
      case isFalse hp =>
        exact ⟨fun htrack hmode hd => absurd ((leaves_iff (beq_iff_eq (a := modeNow m) (b := 3))).mpr ⟨hmode, htrack, hd⟩) hp,
          fun _ => rfl⟩

theorem refinReturns_refinQual (s : State) : (refinReturns s).time.refinQual = s.time.refinQual := by
  unfold refinReturns
  split
  · split
    · rw [enterAcquire_refinQual, refReturn_time]
      rfl
    · split
      · exact enterAcquire_refinQual ..
      · rfl
  · split
    · split
      · exact setDisc_refinQual ..
      · split
        · exact enterAcquire_refinQual ..
        · rfl
    · rfl

/-- What the return of REFIN makes of each loop state in each mode (R59, R61). -/
theorem refinReturns_disc (s : State) : let u := (refinReturns s).time
    (modeNow s = 1 → (s.time.disc = .holdover ∨ s.time.disc = .free) → u.disc = .acquire)
      ∧ (modeNow s = 3 → s.time.disc = .holdover → u.disc = .returning)
      ∧ (modeNow s = 3 → s.time.disc = .free → u.disc = .acquire ∧ u.measuring = true)
      ∧ ((modeNow s ≠ 1 ∧ modeNow s ≠ 3) ∨ (s.time.disc ≠ .holdover ∧ s.time.disc ≠ .free) → u.disc = s.time.disc) := by
  dsimp only
  unfold refinReturns
  refine ⟨fun h1 hd => ?_, fun h3 hd => ?_, fun h3 hd => ?_, fun h => ?_⟩
  · obtain hd | hd := hd <;> rw [if_pos h1, hd] <;> rfl
  · rw [if_neg (by omega), if_pos h3, hd]
    rfl
  · rw [if_neg (by omega), if_pos h3, hd]
    exact ⟨rfl, rfl⟩
  · obtain ⟨h1, h3⟩ | ⟨hh, hf⟩ := h
    · rw [if_neg h1, if_neg h3]
    · simp [hh, hf]

theorem refinQualified_gives (t : DT) (s : State) : Gives (.refinQualified t) s fun u => u.time.refinQual = true
    ∧ (s.power.st ≠ .dormant →
        (modeNow s = 1 → (s.time.disc = .holdover ∨ s.time.disc = .free) → u.time.disc = .acquire)
        ∧ (modeNow s = 3 → s.time.disc = .holdover → u.time.disc = .returning)
        ∧ (modeNow s = 3 → s.time.disc = .free → u.time.disc = .acquire ∧ u.time.measuring = true))
    ∧ ((modeNow s ≠ 1 ∧ modeNow s ≠ 3) ∨ (s.time.disc ≠ .holdover ∧ s.time.disc ≠ .free) ∨ s.power.st = .dormant →
        u.time.disc = s.time.disc) := by
  rw [← modeNow_moment t s, ← moment_power t s, ← moment_time_disc t s]
  refine ⟨_, rfl, ?_⟩
  generalize moment t s = m
  obtain ⟨hrefin, hreturn, hacquire, hstay⟩ := refinReturns_disc (modTime (fun u => { u with refinQual := true }) m)
  split
  case isTrue hd =>
    exact ⟨rfl, fun h => absurd ((loopRests_iff _).mp hd) h, fun _ => rfl⟩
  case isFalse hd =>
    refine ⟨refinReturns_refinQual _, fun _ => ⟨hrefin, hreturn, hacquire⟩, fun h => hstay ?_⟩
    obtain h | h | h := h
    · exact Or.inl h
    · exact Or.inr h
    · exact absurd ((loopRests_iff _).mpr h) hd

theorem returningPpsTimeout_gives (t : DT) (s : State) : Gives (.returningPpsTimeout t) s fun u =>
    (s.time.disc = .returning → modeNow s = 3 → s.time.ppsQual = false → 10 * 2 ^ 32 ≤ dtSince s.time.returningSince (now (moment t s)) →
      u.time.disc = .phaseHold)
    ∧ (s.time.disc ≠ .returning → u = moment t s) := by
  rw [← modeNow_moment t s, ← moment_time_disc t s, ← moment_time_ppsQual t s, ← moment_time_returningSince t s]
  refine gives_ite rfl (fun hc => ?_) (fun hc => ?_)
  · refine ⟨fun _ _ _ _ => rfl, fun hd => ?_⟩
    simp only [Bool.and_eq_true, beq_iff_eq] at hc
    exact absurd hc.1.1.1 hd
  · refine ⟨fun hd hm hp ht => absurd ?_ hc, fun _ => rfl⟩
    simp only [Bool.and_eq_true, beq_iff_eq, Bool.not_eq_true', decide_eq_true_eq]
    exact ⟨⟨⟨hd, hm⟩, hp⟩, ht⟩

/-! ### PPSOUT (R58) -/

theorem ppsoutPulse_falls (t : DT) (s : State) (r : DT) (hr : s.time.ppsHigh = some r)
    (hw : usDt (fget s.time.cfg 0x0108).toNat ≤ dtSince r (now (moment t s))) :
    Gives (.ppsoutPulse t) s fun u => u.outbox = .pps false :: s.outbox ∧ u.time.ppsHigh = none := by
  rw [← moment_time_ppsHigh t s] at hr
  rw [← moment_time_cfg t s] at hw
  rw [← moment_outbox t s]
  refine ⟨_, rfl, ?_⟩
  generalize moment t s = m at hr hw ⊢
  rw [hr]
  dsimp only
  rw [if_pos hw]
  exact ⟨rfl, rfl⟩

theorem ppsoutPulse_rises (t : DT) (s : State) (hr : s.time.ppsHigh = none) (hrun : s.time.running = true) :
    Gives (.ppsoutPulse t) s fun u => let m := moment t s
      ((now m).toNat % 2 ^ 32 < tickSpan s.time → u.outbox = .pps true :: s.outbox ∧ u.time.ppsHigh = some (now m))
        ∧ (tickSpan s.time ≤ (now m).toNat % 2 ^ 32 → u = m) := by
  have hspan : tickSpan s.time = tickSpan (moment t s).time := by simp only [tickSpan, moment_time_backup]
  rw [← moment_time_ppsHigh t s] at hr
  rw [← moment_time_running t s] at hrun
  rw [← moment_outbox t s, hspan]
  refine ⟨_, rfl, ?_⟩
  generalize moment t s = m at hr hrun ⊢
  rw [hr]
  dsimp only
  refine ⟨fun h => ?_, fun h => if_neg (by rw [hrun, decide_eq_false h.not_gt]; exact Bool.false_ne_true)⟩
  rw [if_pos (by rw [hrun, decide_eq_true h]; rfl)]
  exact ⟨rfl, rfl⟩

/-- Settles O21: the loss and return of each reference, and the two edges of PPSOUT. -/
theorem referencesAreLostAndReturn : Obligations.ReferencesAreLostAndReturn :=
  ⟨refinLost_gives, ppsinLost_gives, refinQualified_gives, returningPpsTimeout_gives, ppsoutPulse_falls, ppsoutPulse_rises⟩

/-! ### Steering (R53, R526) -/

/-- Judging LOCKED moves neither the tune word nor the offsets; where LOCKED is left, the frequency error and the sum are taken afresh (log
entry 20). -/
theorem checkLocked_time {s : State} (h : s.time.disc ≠ .holdover) : let u := (checkLocked s).time
    u.tune = s.time.tune ∧ u.lastOffset = s.time.lastOffset ∧ u.last8 = s.time.last8
      ∧ u.freqErr = (if s.time.disc = .locked ∧ u.disc = .acquire then none else s.time.freqErr)
      ∧ u.sumX = (if s.time.disc = .locked ∧ u.disc = .acquire then 0 else s.time.sumX) := by
  dsimp only
  unfold checkLocked
  split
  case isTrue ha =>
    have ha : s.time.disc = .acquire := by simp at ha; exact ha.1
    have hn : ¬(s.time.disc = .locked ∧ (setDisc .locked s).time.disc = .acquire) := fun h => by rw [ha] at h; exact Disc.noConfusion h.1
    rw [if_neg hn, if_neg hn]
    exact ⟨setDisc_tune h, setDisc_lastOffset .., setDisc_last8 .., setDisc_freqErr .., setDisc_sumX ..⟩
  case isFalse =>
    split
    case isTrue hl =>
      have hl : s.time.disc = .locked := by simp at hl; exact hl.1
      have hp : s.time.disc = .locked ∧ (enterAcquire false s).time.disc = .acquire := ⟨hl, rfl⟩
      rw [if_pos hp, if_pos hp]
      exact ⟨setDisc_tune h, enterAcquire_lastOffset .., enterAcquire_last8 .., rfl, rfl⟩
    case isFalse =>
      have hn : ¬(s.time.disc = .locked ∧ s.time.disc = .acquire) := fun h => by rw [h.1] at h; exact Disc.noConfusion h.2
      rw [if_neg hn, if_neg hn]
      exact ⟨rfl, rfl, rfl, rfl, rfl⟩

/-- One tenth of the error per window is the model's choice (log entry 57). -/
theorem refinSteerWindow_gives (t : DT) (err : Int) (s : State) (hmode : modeNow s = 1 ∨ modeNow s = 3) (hq : s.time.refinQual = true)
    (ht : tracking s.time.disc = true) (hd : s.power.st ≠ .dormant) : Gives (.refinSteerWindow t err) s fun u =>
      u.time.freqErr = (if s.time.disc = .locked ∧ u.time.disc = .acquire then none else some err)
      ∧ u.time.tune
        = approach s.time.tune (s.time.tune + roundSigned (-err * 65535) (14000 * fget s.time.cfg 0x0103)) (maxTuneStep s.time) := by
  have hstep : maxTuneStep s.time = maxTuneStep (moment t s).time := by simp only [maxTuneStep, moment_time_cfg]
  rw [hstep, ← moment_time_disc t s, ← moment_time_tune t s, ← moment_time_cfg t s]
  rw [← modeNow_moment t s] at hmode
  rw [← moment_time_refinQual t s] at hq
  rw [← moment_time_disc t s] at ht
  rw [← moment_power t s] at hd
  refine gives_pos rfl ?_ ?_
  · rw [hq, Bool.and_true, (leaves_iff (mode_iff_or _)).mpr ⟨hmode, ht, hd⟩]
  generalize moment t s = m at ht ⊢
  have hjudged (n : State) (w : Int) (hn : n.time.disc = m.time.disc) (hw : n.time.tune = w) (he : n.time.freqErr = some err) :
      (checkLocked n).time.freqErr = (if m.time.disc = .locked ∧ (checkLocked n).time.disc = .acquire then none else some err)
        ∧ (checkLocked n).time.tune = w := by
    obtain ⟨htune, -, -, herr, -⟩ := checkLocked_time (s := n) (by rw [hn]; exact tracking_ne_holdover ht)
    rw [herr, htune, hn, he]
    exact ⟨rfl, hw⟩
  exact hjudged _ _ (setTune_disc ..) (setTune_tune ..) rfl

theorem ppsDelay_eq : ppsDelay = 21 := by decide

/-- Steering by PPSIN reads the offsets' sum, the tune word and the settings. -/
theorem steerPps_congr {y : Int} {u v : TimeSt} (hs : u.sumX = v.sumX) (ht : u.tune = v.tune) (hy : u.y0 = v.y0) (hc : u.cfg = v.cfg) :
    steerPps y u = steerPps y v := by
  unfold steerPps slewLimit maxTuneStep
  rw [hs, ht, hy, hc]

theorem measure_of_not_measuring {s : State} (h : s.time.measuring = false) : measure s = s := by
  unfold measure
  dsimp only
  rw [if_pos (by rw [h]; rfl)]

/-- What an accepted edge of offset `y` makes of the time state of `m` where the loop steers by PPSIN. -/
def EdgeTaken (m : State) (y : Int) (u : State) : Prop :=
  u.time.lastOffset = y ∧ u.time.last8 = (y :: m.time.last8).take 8
    ∧ (u.time.sumX = if m.time.disc = .locked ∧ u.time.disc = .acquire then 0 else m.time.sumX + y)
    ∧ u.time.tune = steerPps y { m.time with sumX := m.time.sumX + y }

/-- The offset of an accepted edge enters, and in PPS mode the loop steers by it. -/
theorem ppsinEdgeAccepted_steers (t : DT) (sub : Fin 4) (s : State) (hq : (moment t s).time.ppsQual = true)
    (hmode : modeNow (moment t s) = 2) (ht : tracking (moment t s).time.disc = true) (hm : (moment t s).time.measuring = false)
    (hd : (moment t s).power.st ≠ .dormant) (hw : waiting 0x0200 0 (moment t s) = []) : Gives (.ppsinEdgeAccepted t sub) s
      (EdgeTaken (moment t s) (ppsOffset (ppsCapture (now (moment t s)) sub) + (moment t s).time.phaseRef)) := by
  refine ⟨_, rfl, ?_⟩
  generalize moment t s = m at hq hmode ht hm hd hw ⊢
  have hjudged (n : State) (y : Int) (hn : n.time.disc = m.time.disc) (hp : n.power = m.power) (hms : n.time.measuring = m.time.measuring)
      (hl : n.time.lastOffset = y) (h8 : n.time.last8 = (y :: m.time.last8).take 8) (hs : n.time.sumX = m.time.sumX + y)
      (hw : n.time.tune = steerPps y { m.time with sumX := m.time.sumX + y }) :
      EdgeTaken m y (if loopRests n = true then n else checkLocked (measure n)) := by
    rw [if_neg (fun hr => hd (hp ▸ (loopRests_iff n).mp hr)), measure_of_not_measuring (hms.trans hm)]
    obtain ⟨htune, hlast, hlast8, -, hsum⟩ := checkLocked_time (s := n) (by rw [hn]; exact tracking_ne_holdover ht)
    rw [hn, hs] at hsum
    exact ⟨hlast.trans hl, hlast8.trans h8, hsum, htune.trans hw⟩
  simp only [hq, if_true, hw, List.foldl_nil]
  split
  case isTrue =>
    refine hjudged _ _ ?_ ?_ ?_ ?_ ?_ ?_ ?_
    · simp only [modTime_time, setTune_disc]
    · exact (modTime_power _ _).trans (modTime_power _ _)
    · simp only [modTime_time, setTune_measuring]
    · simp only [modTime_time, setTune_lastOffset]
    · simp only [modTime_time, setTune_last8]
    · simp only [modTime_time, setTune_sumX]
    · simp only [modTime_time, setTune_tune]
      exact steerPps_congr rfl rfl rfl rfl
  case isFalse hl => exact (hl ((leaves_iff beq_iff_eq).mpr ⟨(modeNow_modTime rfl).trans hmode, ht, hd⟩)).elim

theorem ppsinEdgeAccepted_gives (t : DT) (sub : Fin 4) (s : State) (hq : s.time.ppsQual = true) (hmode : modeNow s = 2)
    (ht : tracking s.time.disc = true) (hm : s.time.measuring = false) (hd : s.power.st ≠ .dormant)
    (hw : waiting 0x0200 0 (moment t s) = []) : Gives (.ppsinEdgeAccepted t sub) s fun u =>
      let y := ppsOffset (dtInt (now (moment t s)) + (sub.val * 2 ^ 32 / 614400000 : Nat) - 21) + s.time.phaseRef
      u.time.lastOffset = y ∧ u.time.last8 = (y :: s.time.last8).take 8
        ∧ (u.time.sumX = if s.time.disc = .locked ∧ u.time.disc = .acquire then 0 else s.time.sumX + y)
        ∧ u.time.tune = steerPps y { s.time with sumX := s.time.sumX + y } := by
  obtain ⟨u, hu, hlast, hlast8, hsum, htune⟩ := ppsinEdgeAccepted_steers t sub s ((moment_time_ppsQual t s).trans hq)
    ((modeNow_moment t s).trans hmode) (by rw [moment_time_disc]; exact ht) ((moment_time_measuring t s).trans hm)
    (by rw [moment_power]; exact hd) hw
  have hcap : ppsCapture (now (moment t s)) sub = dtInt (now (moment t s)) + (sub.val * 2 ^ 32 / 614400000 : Nat) - 21 := by
    rw [ppsCapture, ppsDelay_eq]
    rfl
  rw [moment_time_phaseRef, hcap] at hlast hlast8 hsum htune
  rw [moment_time_last8] at hlast8
  rw [moment_time_disc, moment_time_sumX] at hsum
  refine ⟨u, hu, hlast, hlast8, hsum, htune.trans (steerPps_congr ?_ ?_ ?_ ?_)⟩
  · exact congrArg (· + _) (moment_time_sumX t s)
  · exact moment_time_tune t s
  · exact moment_time_y0 t s
  · exact moment_time_cfg t s

/-! ### Forward steps and settings (R53, R60, R75) -/

theorem dtForwardStep_gives (t : DT) (s : State) (d : Int) (due : DT) (hf : s.time.fwdStep = some (d, due))
    (hdue : due.toNat ≤ (now (moment t s)).toNat) : Gives (.dtForwardStep t) s fun u =>
      u.time.dt = BitVec.ofInt 64 (dtInt (now (moment t s)) + d) ∧ u.time.fwdStep = none
        ∧ u.time.unset = s.time.unset ∧ (s.time.disc = .returning → u.time.disc = .acquire) := by
  rw [← moment_time_unset t s, ← moment_time_disc t s]
  rw [← moment_time_fwdStep t s] at hf
  refine ⟨_, rfl, ?_⟩
  generalize moment t s = m at hf hdue ⊢
  rw [hf]
  dsimp only
  rw [if_pos hdue]
  obtain ⟨hdt, -, hstep, hunset, hdisc⟩ := stepDtAs_time (BitVec.ofInt 64 (dtInt (now m) + d)) (3 : Nat) (3 == 3) m
  obtain ⟨-, -, hcdt, hcstep, hcunset, hcdisc⟩ := corrected_time (stepDt (BitVec.ofInt 64 (dtInt (now m) + d)) 3 m)
  exact ⟨hcdt.trans hdt, hcstep.trans hstep, hcunset.trans hunset, fun h => hcdisc (hdisc h)⟩

theorem timeRefConfig_does (e : Entry) : Does (.timeRefConfig e) specTimeRefConfig e fun h u t =>
    let l := itemsOf h
    (commits h = false → ofClass .lv l = [] →
      t = finish h .ok [(24, 8, dtInt (now u))] (modTime (fun x => { x with shadow := fmerge x.shadow (ofClass .st l) }) u))
    ∧ (commits h = true ∨ ofClass .lv l ≠ [] → t = park h [dtInt (nextSecond (now u))]
        (modTime (fun x => { x with shadow := fmerge x.shadow (ofClass .st l) }) u)) := by
  refine does_of (fun _ => rfl) fun h u _ _ => ?_
  unfold doTimeRefConfig
  dsimp only
  refine ⟨fun hc hl => ?_, fun hc => if_pos (by simpa using hc)⟩
  rw [if_neg (by simp [hc, hl])]
  rfl

/-- The values of a commit enter the active set; device time and the loop state stand. -/
theorem applyRef_dt (h : Held) (u : TimeSt) : (applyRef h u).dt = u.dt := by unfold applyRef; dsimp only; split <;> rfl
theorem applyRef_slew (h : Held) (u : TimeSt) : (applyRef h u).slew = u.slew := by unfold applyRef; dsimp only; split <;> rfl
theorem applyRef_disc (h : Held) (u : TimeSt) : (applyRef h u).disc = u.disc := by unfold applyRef; dsimp only; split <;> rfl

theorem newSlewRate_of_none {s : State} (h : s.time.slew = none) : newSlewRate s = s := by
  unfold newSlewRate
  rw [h]

/-- A restart of the loop leaves device time, its settings and every slew. -/
theorem restartLoop_time (s : State) : let u := (restartLoop s).time
    u.dt = s.time.dt ∧ u.cfg = s.time.cfg ∧ u.shadow = s.time.shadow ∧ u.slew = s.time.slew
      ∧ (modeNow s = 0 → u.disc = .free) := by
  unfold restartLoop
  dsimp only
  split
  · exact ⟨setDisc_dt .., setDisc_cfg .., setDisc_shadow .., setDisc_slew .., fun _ => rfl⟩
  case isFalse hn =>
    refine ⟨enterAcquire_dt .., enterAcquire_cfg .., enterAcquire_shadow .., enterAcquire_slew .., fun h => absurd ?_ hn⟩
    have h : modeNow (modTime (fun u => { u with fwdStep := none, measuring := false, offsets := [] }) s) = 0 := h
    rw [h]
    rfl

theorem refoutOf_congr {u v : TimeSt} (h : u.cfg = v.cfg) : refoutOf u = refoutOf v := by
  simp only [refoutOf, h]

/-- REFOUT is sent out where it is no longer what it was (R58). -/
def refoutTold (old : Nat × Bool) (s : State) : State :=
  if refoutOf s.time = old then s else emit (.refout (refoutOf s.time).1 (refoutOf s.time).2) s

theorem refoutTold_time (old : Nat × Bool) (s : State) : (refoutTold old s).time = s.time := by
  unfold refoutTold
  split
  · rfl
  · exact emit_time ..

theorem refoutTold_pair (old : Nat × Bool) (s : State) : (refoutTold old s).pair = s.pair := by
  unfold refoutTold
  split
  · rfl
  · exact emit_pair ..

theorem refoutTold_sent {old : Nat × Bool} {s : State} (h : refoutOf s.time ≠ old) :
    .refout (refoutOf s.time).1 (refoutOf s.time).2 ∈ (refoutTold old s).outbox := by
  rw [refoutTold, if_neg h, emit_outbox]
  exact List.mem_cons_self

/-- Off a secondary the mode of the loop is the one configured (R470). -/
theorem modeNow_of_role_ne {s : State} (h : s.pair.role ≠ 2) : modeNow s = fget s.time.cfg 0x0100 := if_neg h

/-- A changed mode restarts the loop (R527); nothing else of what the commit leaves depends on it. -/
def loopFollows (mode : Int) (s : State) : State := if modeNow s = mode then s else restartLoop s

theorem loopFollows_time (mode : Int) (s : State) : let u := (loopFollows mode s).time
    u.dt = s.time.dt ∧ u.cfg = s.time.cfg ∧ u.shadow = s.time.shadow ∧ u.slew = s.time.slew
      ∧ (modeNow s = mode → u.disc = s.time.disc) ∧ (modeNow s ≠ mode → modeNow s = 0 → u.disc = .free) := by
  dsimp only
  unfold loopFollows
  split
  case isTrue h => exact ⟨rfl, rfl, rfl, rfl, fun _ => rfl, fun hn => absurd h hn⟩
  case isFalse h =>
    obtain ⟨hdt, hcfg, hshadow, hslew, hfree⟩ := restartLoop_time s
    exact ⟨hdt, hcfg, hshadow, hslew, fun hn => absurd hn h, fun _ => hfree⟩

theorem loopFollows_sends (mode : Int) (s : State) : s.outbox <:+ (loopFollows mode s).outbox := by
  unfold loopFollows
  split
  · exact List.suffix_rfl
  · exact (restartLoop_within s).outbox

/-- At the whole second the values take effect, REFOUT follows them, and a new mode restarts the loop (R527). -/
theorem timeRefCommitApply_gives (t : DT) (s : State) (h : Held) (sec : Int) (hw : waiting 0x0202 0 (moment t s) = [h])
    (ha : h.aux = [1, sec]) (hsec : sec ≤ dtInt (now (moment t s))) (_ : findHeld h.id s = some h) (hrole : s.pair.role ≠ 2)
    (hslew : s.time.slew = none) :
    let live := fmerge s.time.cfg (ofClass .lv (itemsOf h))
    let new := if commits h then fmerge live (s.time.shadow.filter refRow) else live
    Gives (.timeRefCommitApply t) s fun u => ∃ w, u = finish h .ok [(24, 8, dtInt (now w))] w ∧ w.time.dt = (moment t s).time.dt
      ∧ w.time.cfg = new
      ∧ (w.time.shadow = if commits h then s.time.shadow.filter (fun f => !refRow f) else s.time.shadow)
      ∧ (refoutOf w.time ≠ refoutOf s.time → .refout (refoutOf w.time).1 (refoutOf w.time).2 ∈ w.outbox)
      ∧ (fget new 0x0100 = fget s.time.cfg 0x0100 → w.time.disc = s.time.disc)
      ∧ (fget new 0x0100 ≠ fget s.time.cfg 0x0100 → fget new 0x0100 = 0 → w.time.disc = .free) := by
  have hout : refoutOf s.time = refoutOf (moment t s).time := refoutOf_congr (moment_time_cfg t s).symm
  rw [hout, ← moment_time_cfg t s, ← moment_time_shadow t s, ← moment_time_disc t s]
  rw [← moment_pair t s] at hrole
  rw [← moment_time_slew t s] at hslew
  refine ⟨_, rfl, ?_⟩
  generalize moment t s = m at hw hsec hrole hslew ⊢
  rw [hw, List.filter_cons_of_pos (by rw [ha]; exact decide_eq_true hsec), List.filter_nil]
  simp only [List.foldl_cons, List.foldl_nil, finishAllC]
  have hcfg : (applyRef h m.time).cfg = if commits h then fmerge (fmerge m.time.cfg (ofClass .lv (itemsOf h))) (m.time.shadow.filter refRow)
      else fmerge m.time.cfg (ofClass .lv (itemsOf h)) := by
    unfold applyRef
    dsimp only
    split <;> rfl
  have hshadow : (applyRef h m.time).shadow = if commits h then m.time.shadow.filter (fun f => !refRow f) else m.time.shadow := by
    unfold applyRef
    dsimp only
    split <;> rfl
  have htold := refoutTold_time (refoutOf m.time) (modTime (applyRef h) m)
  have hmode : modeNow (refoutTold (refoutOf m.time) (modTime (applyRef h) m)) = fget (applyRef h m.time).cfg 0x0100 := by
    rw [modeNow_of_role_ne (by rw [refoutTold_pair]; exact hrole), htold, modTime_time]
  have hold : modeNow m = fget m.time.cfg 0x0100 := modeNow_of_role_ne hrole
  obtain ⟨hdt, hcfg', hshadow', hslew', hsame, hfree⟩ :=
    loopFollows_time (fget m.time.cfg 0x0100) (refoutTold (refoutOf m.time) (modTime (applyRef h) m))
  have hsent := loopFollows_sends (fget m.time.cfg 0x0100) (refoutTold (refoutOf m.time) (modTime (applyRef h) m))
  rw [htold, modTime_time] at hdt hcfg' hshadow' hslew' hsame
  rw [hmode] at hsame hfree
  change ∃ w, finishC h (newSlewRate (loopFollows (modeNow m) (refoutTold (refoutOf m.time) (modTime (applyRef h) m)))) = _ ∧ _
  rw [newSlewRate_of_none (by rw [hold, hslew', applyRef_slew, hslew]), hold, ← hcfg]
  refine ⟨_, rfl, hdt.trans (applyRef_dt h m.time), hcfg', hshadow'.trans hshadow, fun hout => ?_, fun he => ?_, hfree⟩
  · have hsame : refoutOf (loopFollows (fget m.time.cfg 0x0100) (refoutTold (refoutOf m.time) (modTime (applyRef h) m))).time
        = refoutOf (modTime (applyRef h) m).time := refoutOf_congr hcfg'
    rw [hsame] at hout ⊢
    exact hsent.subset (refoutTold_sent hout)
  · exact (hsame he).trans (applyRef_disc h m.time)

/-- Settles O22: the steering by each reference, the forward step, and the settings at their second. -/
theorem referenceSteersTheClock : Obligations.ReferenceSteersTheClock :=
  ⟨refinSteerWindow_gives, ppsinEdgeAccepted_gives, dtForwardStep_gives, timeRefConfig_does, timeRefCommitApply_gives⟩

end Sys2Proof.Machine

/-! ## The sampling PLLs (R63 to R74)

What each operation on the PLLs leaves in the time state, as one equation each; then the commands and events.
-/
namespace Sys2Proof.Machine

/-! ### The time state after each operation -/

/-- A comparator that has fallen concerns the PLLs alone. -/
theorem settleLock_time (b : Fin 2) (s : State) : (settleLock b s).time = { s.time with plls := (settleLock b s).time.plls } := by
  unfold settleLock
  dsimp only
  split <;> rfl

theorem settleLock_held (b : Fin 2) (s : State) : (settleLock b s).host.held = s.host.held := by
  unfold settleLock
  dsimp only
  split <;> rfl

theorem stopPll_time (b : Fin 2) (s : State) : (stopPll b s).time = { s.time with plls := (stopPll b s).time.plls } := by
  unfold stopPll
  rw [modPll_time, settleLock_time]

theorem reconfigure_time (b : Fin 2) (mult icp : Nat) (s : State) :
    (reconfigure b mult icp s).time = { s.time with plls := (reconfigure b mult icp s).time.plls } := by
  unfold reconfigure
  rw [modPll_time, settleLock_time]

theorem spllLost_time (reason : Nat) (b : Fin 2) (s : State) : (spllLost reason b s).time = s.time := raise_time ..
theorem spllLost_held (reason : Nat) (b : Fin 2) (s : State) : (spllLost reason b s).host.held = s.host.held := hh_raise ..

theorem plannedSwitch_time (s : State) : (plannedSwitch s).time = (switchPll s).time := raise_time ..

theorem loseBoth_time (b : Fin 2) (s : State) :
    (loseBoth b s).time = { s.time with bothLost := true, backup := true, spareAligned := false } := by
  unfold loseBoth
  rw [holdAll_l_time, spllLost_time]
  rfl

theorem moveDividers_time (s : State) : (moveDividers s).time = s.time := by
  unfold moveDividers
  split <;> rfl

theorem resumeAll_time (s : State) : (resumeAll s).time = s.time := by
  unfold resumeAll
  refine fold_keep (g := State.time) (fun s p => ?_) _ _
  split
  · exact resumePath_l_time ..
  · rfl

/-- The end of a reconfiguration leaves none running and nothing else changed. -/
theorem endPllSeq_time (st : Status) (s : State) : (endPllSeq st s).time = { s.time with pllSeq := none } := by
  unfold endPllSeq
  split
  · dsimp only
    rw [finishId_time]
    split
    · rw [askStore_l_time]
      rfl
    · rfl
  case h_2 h => rw [← h]

/-- A reconfiguration whose command is held ends with that command. -/
theorem endPllSeq_finishes {s : State} {q : PllSeq} {h : Held} (hq : s.time.pllSeq = some q) (hh : findHeld q.cmd s = some h) :
    ∃ v, endPllSeq .hwFault s = finish h .hwFault [] v ∧ v.time.pllSeq = none := by
  unfold endPllSeq
  rw [hq]
  dsimp only
  rw [if_neg (by decide)]
  refine ⟨_, finishId_eq ?_, ?_⟩
  · split
    · exact (findHeld_congr (askStore_l_hheld ..)).trans hh
    · exact hh
  · split
    · rw [askStore_l_time]
      rfl
    · rfl

theorem failPllSeq_time (s : State) : (failPllSeq s).time
    = { s.time with pllSeq := none, plls := upd s.time.plls (sparePll s.time) fun p => { p with lost := true } } := by
  unfold failPllSeq
  rw [endPllSeq_time, spllLost_time, modPll_time]

/-! ### TIME_PLL_CONFIG (R64, R65) -/

/-- That SWITCH leaves the former active one aligned follows log entry 21. -/
theorem timePllConfig_does (e : Entry) : Does (.timePllConfig e) specTimePllConfig e fun h u t =>
    (itemAction (Entry.args e) = 1 → u.time.spareAligned = true → ∃ v, t = finish h .ok [(16, 1, bit v.time.activeB), (24, 8, dtInt (now v))] v
        ∧ v.time.dt = u.time.dt ∧ v.time.activeB = !u.time.activeB ∧ v.time.spareAligned = true)
      ∧ (itemAction (Entry.args e) = 1 → u.time.spareAligned = false → t = reject h .errState u)
      ∧ (itemAction (Entry.args e) = 0 → commits h = false →
          t = finish h .ok [(24, 8, dtInt (now u))] (modTime (fun x => { x with shadow := fmerge x.shadow (itemsOf h) }) u)) := by
  refine does_of (fun _ => rfl) fun h u he _ => ?_
  simp only [doTimePllConfig, he]
  refine ⟨fun h1 ha => ?_, fun h1 ha => ?_, fun h0 hc => ?_⟩
  · rw [if_pos h1, if_pos ha]
    refine ⟨_, rfl, ?_⟩
    rw [modTime_time, plannedSwitch_time]
    exact ⟨rfl, rfl, rfl⟩
  · rw [if_pos h1, if_neg (Bool.eq_false_iff.mp ha)]
  · rw [if_neg (by omega), if_neg (Bool.eq_false_iff.mp hc)]
    rfl

/-! ### Locks and alignment (R64 to R68, R71) -/

theorem endsLoss_of_not_lost {b : Bool} {u : TimeSt} (h : u.bothLost = false) : endsLoss b u = false := by
  rw [endsLoss, h, Bool.false_and]

theorem endsLoss_iff {b : Bool} {u : TimeSt} (h : u.bothLost = true) :
    endsLoss b u = true ↔ ∀ q, u.pllSeq = some q → q.stage ≠ 5 ∨ u.activeB = b := by
  rw [endsLoss, h, Bool.true_and]
  cases u.pllSeq <;> simp

/-- After the loss of both, the PLL that is declared becomes the active one. -/
theorem switched_activeB (b : Bool) (s : State) : (if s.time.activeB = b then s else switchPll s).time.activeB = b := by
  split
  · assumption
  case isFalse h =>
    show (!s.time.activeB) = b
    revert h
    cases s.time.activeB <;> cases b <;> decide

/-- A declared lock ends the loss of both, or the backup count where it is that of the active PLL (log entry 58). -/
theorem spllLockDeclared_gives (t : DT) (b : Bool) (s : State) : let p : Fin 2 := if b then 1 else 0
    s.time.plls[p].running = true → Gives (.spllLockDeclared t b) s fun u =>
      (s.time.bothLost = false → u.time.plls[p].declared = true ∧ u.time.activeB = s.time.activeB
          ∧ u.time.backup = (s.time.backup && s.time.activeB != b))
        ∧ (s.time.bothLost = true → (∀ q, s.time.pllSeq = some q → q.stage ≠ 5 ∨ s.time.activeB = b) →
            u.time.bothLost = false ∧ u.time.backup = false ∧ u.time.activeB = b)
        ∧ (∀ q, s.time.bothLost = true → s.time.pllSeq = some q → q.stage = 5 → s.time.activeB ≠ b →
            u.time.bothLost = true ∧ u.time.plls[p].declared = true ∧ u.time.backup = s.time.backup ∧ u.time.activeB = s.time.activeB) := by
  intro p hrun
  rw [← moment_time_plls t s] at hrun
  rw [← moment_time_bothLost t s, ← moment_time_activeB t s, ← moment_time_backup t s, ← moment_time_pllSeq t s]
  show ∃ u, execSpllLockDeclared t b s = .next u ∧ _
  unfold execSpllLockDeclared
  dsimp only
  generalize moment t s = m at hrun ⊢
  rw [if_neg (by rw [hrun]; exact Bool.false_ne_true)]
  have hn : (modPll p (fun p => { p with cmp := true, declared := true, lost := false, unlockAt := none }) (settleLock p m)).time
      = { m.time with
          plls := upd (settleLock p m).time.plls p fun p => { p with cmp := true, declared := true, lost := false, unlockAt := none } } := by
    rw [modPll_time, settleLock_time]
  change ∃ u, (if endsLoss b (modPll p _ (settleLock p m)).time = true then _ else _) = Host.Outcome.next u ∧ _
  generalize modPll p (fun p => { p with cmp := true, declared := true, lost := false, unlockAt := none }) (settleLock p m) = n at hn ⊢
  have hdecl : n.time.plls[p].declared = true := by rw [hn, upd_get_self]
  have hactive : n.time.activeB = m.time.activeB := by rw [hn]
  have hbackup : n.time.backup = m.time.backup := by rw [hn]
  have hlost : n.time.bothLost = m.time.bothLost := by rw [hn]
  have hseq : n.time.pllSeq = m.time.pllSeq := by rw [hn]
  clear hn
  rw [← hactive, ← hbackup, ← hlost, ← hseq]
  clear hactive hbackup hlost hseq
  split
  case isTrue hends =>
    have hlost : n.time.bothLost = true := by
      by_contra hl
      exact Bool.false_ne_true ((endsLoss_of_not_lost (Bool.eq_false_iff.mpr hl)).symm.trans hends)
    refine ⟨_, rfl, fun hl => absurd (hl.symm.trans hlost) Bool.false_ne_true, fun _ _ => ?_, fun q _ hq h5 ha => ?_⟩
    · split
      · split
        · rw [endPllSeq_time, resumeAll_time, moveDividers_time]
          exact ⟨rfl, rfl, switched_activeB b n⟩
        · rw [resumeAll_time, moveDividers_time]
          exact ⟨rfl, rfl, switched_activeB b n⟩
      · rw [resumeAll_time, moveDividers_time]
        exact ⟨rfl, rfl, switched_activeB b n⟩
    · exact absurd ((endsLoss_iff hlost).mp hends q hq) (by simp [h5, ha])
  case isFalse hends =>
    refine ⟨_, rfl, fun hl => ?_, fun hl hq => absurd ((endsLoss_iff hl).mpr hq) hends, fun q hl hq h5 ha => ?_⟩
    · split
      case isTrue hc => exact ⟨hdecl, rfl, by simp [hc.1]⟩
      case isFalse hc =>
        have ha : n.time.activeB ≠ b := fun ha => hc ⟨ha, hl⟩
        exact ⟨hdecl, rfl, by simp [ha]⟩
    · rw [if_neg (fun hc => ha hc.1)]
      exact ⟨hl, hdecl, rfl, rfl⟩

theorem sparePll_moment (t : DT) (s : State) : sparePll (moment t s).time = sparePll s.time := by
  rw [sparePll, moment_time_activeB, sparePll]

theorem activePll_moment (t : DT) (s : State) : activePll (moment t s).time = activePll s.time := by
  rw [activePll, moment_time_activeB, activePll]

theorem spare_moment (t : DT) (s : State) : (moment t s).time.plls[sparePll (moment t s).time] = s.time.plls[sparePll s.time] := by
  simp only [moment_time_plls, sparePll_moment]

theorem active_moment (t : DT) (s : State) : (moment t s).time.plls[activePll (moment t s).time] = s.time.plls[activePll s.time] := by
  simp only [moment_time_plls, activePll_moment]

theorem spareAlignmentDone_aligns (t : DT) (s : State) (hd : s.time.plls[sparePll s.time].declared = true) (hl : s.time.bothLost = false)
    (hp : s.time.phaseCmd = none) (hq : s.time.pllSeq = none) : Gives (.spareAlignmentDone t) s fun u =>
      u.time.spareAligned = true ∧ u.time.activeB = s.time.activeB ∧ u.time.switchedAt = none := by
  rw [← spare_moment t s] at hd
  rw [← moment_time_bothLost t s] at hl
  rw [← moment_time_phaseCmd t s] at hp
  rw [← moment_time_pllSeq t s] at hq
  rw [← moment_time_activeB t s]
  refine gives_neg rfl (by rw [hd, hl, hp]; exact Bool.false_ne_true) ?_
  generalize moment t s = m at hq ⊢
  simp only [modTime_time, hq]
  exact ⟨trivial, trivial, trivial⟩

/-- A reconfiguration through the spare goes on with the switch (R64). -/
theorem spareAlignmentDone_switches (t : DT) (s : State) (q : PllSeq) (hd : s.time.plls[sparePll s.time].declared = true)
    (hl : s.time.bothLost = false) (hp : s.time.phaseCmd = none) (hq : s.time.pllSeq = some q) (h1 : q.stage = 1) :
    Gives (.spareAlignmentDone t) s fun u => u.time.activeB = !s.time.activeB := by
  rw [← spare_moment t s] at hd
  rw [← moment_time_bothLost t s] at hl
  rw [← moment_time_phaseCmd t s] at hp
  rw [← moment_time_pllSeq t s] at hq
  rw [← moment_time_activeB t s]
  refine gives_neg rfl (by rw [hd, hl, hp]; exact Bool.false_ne_true) ?_
  generalize moment t s = m at hq ⊢
  simp only [modTime_time, hq, if_pos h1]
  split
  · rw [endPllSeq_time, stopPll_time, modTime_time, plannedSwitch_time]
    rfl
  · rw [reconfigure_time, modTime_time, plannedSwitch_time]
    rfl

/-- A reconfiguration that does not lock in time ends with HW_FAULT, in place too (log entry 58). -/
theorem spllReconfigTimeout_gives (t : DT) (s : State) (q : PllSeq) (h : Held) (hq : s.time.pllSeq = some q)
    (hh : findHeld q.cmd s = some h) : Gives (.spllReconfigTimeout t) s fun u => ∃ v,
      u = finish h .hwFault [] v ∧ v.time.pllSeq = none := by
  rw [← moment_time_pllSeq t s] at hq
  rw [← findHeld_moment q.cmd t s] at hh
  refine ⟨_, rfl, ?_⟩
  generalize moment t s = m at hq hh ⊢
  rw [hq]
  dsimp only
  split
  · exact endPllSeq_finishes hq hh
  · refine endPllSeq_finishes (q := q) ?_ ((findHeld_congr (spllLost_held ..)).trans hh)
    rw [spllLost_time]
    exact hq

/-! ### Losses (R69 to R71) -/

/-- A flagged PLL is unlocked and lost; the rest of the time state but the PLLs stands. -/
def flagPll (b : Fin 2) (s : State) : State := modPll b (fun p => { (p.unlock (now s)) with lost := true }) (settleLock b s)

theorem flagPll_time (b : Fin 2) (s : State) : (flagPll b s).time = { s.time with plls := (flagPll b s).time.plls } := by
  unfold flagPll
  rw [modPll_time, settleLock_time]

theorem flagPll_flags (b : Fin 2) (s : State) :
    (flagPll b s).time.plls[b].lost = true ∧ (flagPll b s).time.plls[b].declared = false := by
  unfold flagPll
  simp only [modPll_time, upd_get_self]
  exact ⟨trivial, rfl⟩

theorem activeSpllFlagged_switches (t : DT) (vco : Bool) (s : State) (hd : s.time.plls[activePll s.time].declared = true)
    (ha : s.time.spareAligned = true) : Gives (.activeSpllFlagged t vco) s fun u =>
      u.time.activeB = (!s.time.activeB) ∧ u.time.spareAligned = false ∧ u.time.bothLost = s.time.bothLost
        ∧ u.time.plls[activePll s.time].lost = true ∧ u.time.plls[activePll s.time].declared = false := by
  rw [← active_moment t s] at hd
  rw [← moment_time_spareAligned t s] at ha
  simp only [← moment_time_activeB t s, ← moment_time_bothLost t s, ← activePll_moment t s]
  show ∃ u, execActiveSpllFlagged t vco s = .next u ∧ _
  unfold execActiveSpllFlagged
  dsimp only
  rw [if_neg (by rw [hd]; exact Bool.false_ne_true)]
  change ∃ u, (if (flagPll (activePll (moment t s).time) (moment t s)).time.spareAligned = true then _ else _) = Host.Outcome.next u ∧ _
  have hf := flagPll_time (activePll (moment t s).time) (moment t s)
  obtain ⟨hlost, hdecl⟩ := flagPll_flags (activePll (moment t s).time) (moment t s)
  rw [if_pos (by rw [hf]; exact ha)]
  refine ⟨_, rfl, ?_⟩
  rw [evSherd_l_time, raise_time]
  refine ⟨?_, rfl, ?_, hlost, hdecl⟩
  · show (!(flagPll (activePll (moment t s).time) (moment t s)).time.activeB) = _
    rw [hf]
  · show (flagPll (activePll (moment t s).time) (moment t s)).time.bothLost = _
    rw [hf]

theorem activeSpllFlagged_losesBoth (t : DT) (vco : Bool) (s : State) (hd : s.time.plls[activePll s.time].declared = true)
    (ha : s.time.spareAligned = false) : Gives (.activeSpllFlagged t vco) s fun u =>
      u.time.bothLost = true ∧ u.time.backup = true ∧ u.time.vcoStopped = vco ∧ u.time.activeB = s.time.activeB ∧ u.time.pllSeq = none := by
  rw [← active_moment t s] at hd
  rw [← moment_time_spareAligned t s] at ha
  rw [← moment_time_activeB t s]
  show ∃ u, execActiveSpllFlagged t vco s = .next u ∧ _
  unfold execActiveSpllFlagged
  dsimp only
  rw [if_neg (by rw [hd]; exact Bool.false_ne_true)]
  change ∃ u, (if (flagPll (activePll (moment t s).time) (moment t s)).time.spareAligned = true then _ else _) = Host.Outcome.next u ∧ _
  have hf := flagPll_time (activePll (moment t s).time) (moment t s)
  rw [if_neg (by rw [hf, ha]; exact Bool.false_ne_true)]
  refine ⟨_, rfl, ?_⟩
  rw [endPllSeq_time, loseBoth_time]
  refine ⟨rfl, rfl, rfl, ?_, rfl⟩
  show (flagPll (activePll (moment t s).time) (moment t s)).time.activeB = _
  rw [hf]

/-- The spare that is flagged is no spare, with or without a reconfiguration that waits for it. -/
theorem spareSpllFlagged_gives (t : DT) (s : State) (hr : s.time.plls[sparePll s.time].running = true) :
    Gives (.spareSpllFlagged t) s fun u =>
      u.time.spareAligned = false ∧ u.time.plls[sparePll s.time].declared = false ∧ u.time.plls[sparePll s.time].lost = true := by
  rw [← spare_moment t s] at hr
  simp only [← sparePll_moment t s]
  show ∃ u, execSpareSpllFlagged t s = .next u ∧ _
  unfold execSpareSpllFlagged
  dsimp only
  rw [if_neg (by rw [hr]; exact Bool.false_ne_true),
    show modPll (sparePll (moment t s).time) _ (settleLock (sparePll (moment t s).time) (moment t s))
      = flagPll (sparePll (moment t s).time) (moment t s) from rfl]
  obtain ⟨hlost, hdecl⟩ := flagPll_flags (sparePll (moment t s).time) (moment t s)
  have hspare : sparePll (modTime (fun u => { u with spareAligned := false }) (flagPll (sparePll (moment t s).time) (moment t s))).time
      = sparePll (moment t s).time := by
    rw [modTime_time, flagPll_time]
    rfl
  generalize flagPll (sparePll (moment t s).time) (moment t s) = n at hlost hdecl hspare ⊢
  refine ⟨_, rfl, ?_⟩
  split
  · split
    · exact ⟨rfl, hdecl, hlost⟩
    · simp only [failPllSeq_time, hspare, upd_get_self]
      exact ⟨rfl, hdecl, trivial⟩
  · split
    · simp only [spllLost_time]
      exact ⟨rfl, hdecl, hlost⟩
    · exact ⟨rfl, hdecl, hlost⟩

theorem spareAlignTimeout_gives (t : DT) (s : State) (w : DT) (hw : s.time.switchedAt = some w) (ha : s.time.spareAligned = false)
    (ht : 2 ^ 32 ≤ dtSince w (now (moment t s))) : Gives (.spareAlignTimeout t) s fun u =>
      (fget s.time.cfg 0x010B = 1 → u.time.switchedAt = none
        ∧ u = spllLost 0 (sparePll s.time) (modTime (fun x => { x with switchedAt := none }) (moment t s)))
      ∧ (fget s.time.cfg 0x010B ≠ 1 → u = moment t s) := by
  rw [← moment_time_switchedAt t s] at hw
  rw [← moment_time_spareAligned t s] at ha
  rw [← sparePll_moment t s, ← moment_time_cfg t s]
  refine ⟨_, rfl, ?_⟩
  generalize moment t s = m at hw ha ht ⊢
  rw [hw]
  dsimp only
  refine ⟨fun h1 => ?_, fun h1 => if_neg (by simp [h1])⟩
  rw [if_pos (by rw [ha, h1, decide_eq_true ht]; rfl)]
  exact ⟨by rw [spllLost_time]; rfl, rfl⟩

/-- A lost PLL runs again, one that is not lost stands. -/
def relock (p : Fin 2) (s : State) : State := if s.time.plls[p].lost then modPll p (fun p => { p with running := true }) s else s

theorem relock_running (p : Fin 2) (s : State) :
    (relock p s).time.plls[p].running = (s.time.plls[p].running || s.time.plls[p].lost) := by
  unfold relock
  by_cases hl : s.time.plls[p].lost = true
  · rw [if_pos hl, hl, Bool.or_true]
    simp only [modPll_time, upd_get_self]
  · rw [if_neg hl, Bool.eq_false_iff.mpr hl, Bool.or_false]

theorem spllRelockAttempt_gives (t : DT) (b : Bool) (s : State) : let p : Fin 2 := if b then 1 else 0
    Gives (.spllRelockAttempt t b) s fun u => u.time.plls[p].running = (s.time.plls[p].running || s.time.plls[p].lost) := by
  intro p
  rw [← moment_time_plls t s]
  exact ⟨_, rfl, relock_running p (moment t s)⟩

/-! ### Phase steps (R73, R74) -/

theorem timePhaseStep_does (e : Entry) : Does (.timePhaseStep e) specTimePhaseStep e fun h u t =>
    t.time.phaseCmd = some (h.id, leInt (Entry.args e) 0 2) ∧ t.time.phaseRef = u.time.phaseRef := by
  refine does_of (fun _ => rfl) fun h u he _ => ?_
  rw [doTimePhaseStep, he, begin__time, modTime_time, tellPair_l_time]
  exact ⟨rfl, rfl⟩

theorem phaseSteppingDone_gives (t : DT) (s : State) (id : Nat) (n : Int) (h : Held) (hp : s.time.phaseCmd = some (id, n))
    (hh : findHeld id s = some h) : Gives (.phaseSteppingDone t) s fun u => ∃ v,
      u = finish h .ok [(16, 2, n), (24, 8, dtInt (now v))] v ∧ v.time.dt = (moment t s).time.dt ∧ v.time.phaseCmd = none
        ∧ v.time.phaseRef = s.time.phaseRef + ratio (n * 2 ^ 32) 314572800000 := by
  rw [← moment_time_phaseRef t s]
  rw [← moment_time_phaseCmd t s] at hp
  rw [← findHeld_moment id t s] at hh
  refine ⟨_, rfl, ?_⟩
  generalize moment t s = m at hp hh ⊢
  rw [hp]
  exact ⟨_, finishId_eq hh, rfl, rfl, rfl⟩

/-- Settles O23: one law for each command and event of the sampling PLLs. -/
theorem samplingPllsSwitch : Obligations.SamplingPllsSwitch :=
  ⟨timePllConfig_does, spllLockDeclared_gives, spareAlignmentDone_aligns, spareAlignmentDone_switches, spllReconfigTimeout_gives,
    activeSpllFlagged_switches, activeSpllFlagged_losesBoth, spareSpllFlagged_gives, spareAlignTimeout_gives, spllRelockAttempt_gives,
    timePhaseStep_does, phaseSteppingDone_gives⟩

end Sys2Proof.Machine

/-! ## Gain control (R82 to R86, R103, R127)

The view of an input after each operation on its gain, said once; then the windows, the hold, the trip and RF_WB_CONFIG.
-/
namespace Sys2Proof.Machine

/-! ### The view of an input -/

@[simp] theorem jobPaths_moment (t : DT) (s : State) : jobPaths (moment t s) = jobPaths s := by
  rw [jobPaths, moment_sg, jobPaths]

@[simp] theorem jobReadsSource_moment (src : Nat) (t : DT) (s : State) : jobReadsSource src (moment t s) = jobReadsSource src s := by
  simp only [jobReadsSource, jobPaths_moment, moment_path_source]

@[simp] theorem jobReadsInput_moment (i : Fin 2) (t : DT) (s : State) : jobReadsInput i (moment t s) = jobReadsInput i s := by
  simp only [jobReadsInput, jobPaths_moment, moment_path_source, moment_rf]

theorem gainView_moment (i : GainInput) (t : DT) (s : State) : gainView i (moment t s) = gainView i s := by
  cases i with
  | wb i => simp only [gainView, jobReadsInput_moment, moment_rf, moment_power]
  | pt n => simp only [gainView, jobReadsTuner, jobReadsSource_moment, moment_rf]

theorem setHold_view (i : GainInput) (f : Option DT) (s : State) :
    (gainView i (setHold i f s)).gain = (gainView i s).gain ∧ (gainView i (setHold i f s)).holdFrom = f := by
  cases i with
  | wb i => simp only [gainView, setHold, modWb_rf, upd_get_self, and_self]
  | pt n => simp only [gainView, setHold, modTuner_rf, upd_get_self, and_self]

/-- A gain that is set is the gain, and the hold restarts where it is given. -/
theorem setGain_view (i : GainInput) (g : Int) (cause : Nat) (f : Option DT) (s : State) :
    (gainView i (setGain i g cause f s)).gain = g ∧ (gainView i (setGain i g cause f s)).holdFrom = f := by
  cases i with
  | wb i => simp only [gainView, setGain, modWb_rf, upd_get_self, WbIn.toGain, and_self]
  | pt n => simp only [gainView, setGain, modTuner_rf, upd_get_self, Tuner.toGain, and_self]

theorem countClipped_gain (i : GainInput) (n steps : Nat) (s : State) :
    (gainView i (countClipped i n steps s)).gain = (gainView i s).gain := by
  cases i with
  | wb i => simp only [gainView, countClipped, modWb_rf, upd_get_self]
  | pt n => simp only [gainView, countClipped, modTuner_rf, upd_get_self]

/-! ### Windows, hold and trip -/

theorem agcWindowEnd_gives (t : DT) (i : GainInput) (peak : Int) (s : State) : Gives (.agcWindowEnd t i peak) s fun u =>
    let v := gainView i s
    let w := gainView i u
    (v.live = true → v.auto = true → (v.target + 2) * 100 < peak → w.gain = max v.lo (v.gain - 1) ∧ w.holdFrom = none)
      ∧ (v.live = true → v.auto = true → peak ≤ (v.target + 2) * 100 → w.gain = v.gain
          ∧ (w.holdFrom.isSome ↔ peak < (v.target - 4) * 100))
      ∧ (v.live = false ∨ v.auto = false → w.gain = v.gain ∧ w.holdFrom = none) := by
  rw [← gainView_moment i t s]
  refine ⟨_, rfl, ?_⟩
  generalize moment t s = m
  dsimp only
  refine ⟨fun hl ha hp => ?_, fun hl ha hp => ?_, fun h => ?_⟩
  · rw [if_neg (by simp [hl, ha]), if_pos hp]
    exact setGain_view ..
  · rw [if_neg (by simp [hl, ha]), if_neg hp.not_gt]
    split
    case isTrue hlow =>
      obtain ⟨hgain, hhold⟩ := setHold_view i
        (some ((gainView i m).holdFrom.getD (BitVec.ofNat 64 ((now m).toNat - usDt (agcWindow i))))) m
      rw [hgain, hhold]
      exact ⟨rfl, fun _ => hlow, fun _ => rfl⟩
    case isFalse hlow =>
      obtain ⟨hgain, hhold⟩ := setHold_view i none m
      rw [hgain, hhold]
      exact ⟨rfl, fun h => absurd h Bool.false_ne_true, fun h => absurd h hlow⟩
  · rw [if_pos (by obtain h | h := h <;> simp [h])]
    exact setHold_view ..

theorem agcHoldExpiry_gives (t : DT) (i : GainInput) (s : State) (f : DT) : let v := gainView i s
    v.live = true → v.auto = true → v.holdFrom = some f → v.hold ≤ dtSince f (now (moment t s)) → v.gain < v.hi →
    Gives (.agcHoldExpiry t i) s fun u =>
      (v.read = false → (gainView i u).gain = v.gain + 1 ∧ (gainView i u).holdFrom = some (now (moment t s)))
        ∧ (v.read = true → u = moment t s) := by
  intro v
  rw [show v = gainView i (moment t s) from (gainView_moment i t s).symm]
  intro hl ha hf hh hg
  refine ⟨_, rfl, ?_⟩
  generalize moment t s = m at hl ha hf hh hg ⊢
  rw [hf]
  dsimp only
  refine ⟨fun hr => ?_, fun hr => if_neg (by simp [hr])⟩
  rw [if_pos (by rw [hl, ha, hr, decide_eq_true hh, decide_eq_true hg]; rfl)]
  exact setGain_view ..

theorem overloadTrip_gives (t : DT) (i : GainInput) (n : Nat) (s : State) : let v := gainView i s
    v.live = true → Gives (.overloadTrip t i n) s fun u =>
      (v.count ≤ n → (gainView i u).gain = max v.lo (v.gain - v.step) ∧ (gainView i u).holdFrom = none)
        ∧ (n < v.count → (gainView i u).gain = v.gain) := by
  intro v
  rw [show v = gainView i (moment t s) from (gainView_moment i t s).symm]
  intro hl
  refine ⟨_, rfl, ?_⟩
  generalize moment t s = m at hl ⊢
  rw [if_neg (by rw [hl]; exact Bool.false_ne_true)]
  refine ⟨fun hn => ?_, fun hn => ?_⟩
  · rw [if_neg hn.not_gt]
    exact setGain_view ..
  · rw [if_pos hn]
    exact countClipped_gain ..

/-! ### RF_WB_CONFIG -/

theorem markGain_rf (reads : Fin 64 → Bool) (s : State) : (markGain reads s).rf = s.rf := rfl

theorem setGain_wb (i : Fin 2) (g : Int) (cause : Nat) (f : Option DT) (s : State) :
    (setGain (.wb i) g cause f s).rf.wb[i].cfg = s.rf.wb[i].cfg ∧ (setGain (.wb i) g cause f s).rf.wb[i].gain = g := by
  have hrf (c : Prop) [Decidable c] : (if c then markGain (fedFrom (.wb i) s) s else s).rf = s.rf := by split <;> rfl
  unfold setGain
  simp only [modWb_rf, upd_get_self, WbIn.toGain, and_true]
  split
  · simp only [hrf]
  · simp only [modFiring_rf, hrf]

/-- The fields that a command brings join the active set; a commanded GAIN is the gain (R82). -/
theorem applyWb_wb (i : Fin 2) (l : FieldSet) (s : State) : (applyWb i l s).rf.wb[i].cfg = fmerge s.rf.wb[i].cfg l
    ∧ (applyWb i l s).rf.wb[i].gain = if fhas l 0x0202 then fget l 0x0202 else s.rf.wb[i].gain := by
  unfold applyWb
  dsimp only
  split
  · obtain ⟨hcfg, hgain⟩ := setGain_wb i (fget l 0x0202) 2 none (modWb i (fun x => { x with
      cfg := fmerge x.cfg l, holdFrom := if fhas l 0x0200 || fhas l 0x0201 then none else x.holdFrom }) s)
    refine ⟨hcfg.trans ?_, hgain⟩
    simp only [modWb_rf, upd_get_self]
  · simp only [modWb_rf, upd_get_self, and_self]

theorem rfWbConfig_does (e : Entry) (i : Fin 2) (hi : e.target.toNat = i.val) : Does (.rfWbConfig e) specRfWbConfig e fun h u t =>
    let l := itemsOf h
    (fhas l 0x0200 = true → inputRuns i u = true → t = reject h .busyRunning u)
      ∧ ((fhas l 0x0200 = false ∨ inputRuns i u = false) → fhas l 0x0202 = true → u.rf.wb[i].gain < fget l 0x0202 →
          jobReadsInput i u = true → t = deferCmd h [] u)
      ∧ ((fhas l 0x0200 = false ∨ inputRuns i u = false) →
          (fhas l 0x0202 = false ∨ fget l 0x0202 ≤ u.rf.wb[i].gain ∨ jobReadsInput i u = false) →
          (parked h = false → t = park h [] u)
            ∧ (parked h = true →
              let all := (waitingNow 0x0300 i.val u).filter fun x => !wbRaises i x u || !jobReadsInput i u
              let locked (x : Held) : Bool := fhas (itemsOf x) 0x0200 && inputRuns i u
              let hs := all.filter fun x => !locked x
              let new := lastValues hs
              ∃ v, t = (all.filter locked).foldl (fun s x => reject x .busyRunning s) (finishAllC hs v)
                ∧ v.rf.wb[i].cfg = fmerge u.rf.wb[i].cfg new
                ∧ v.rf.wb[i].gain = if fhas new 0x0202 then fget new 0x0202 else u.rf.wb[i].gain)) := by
  refine does_of (fun _ => rfl) fun h u he _ => ?_
  unfold doRfWbConfig
  rw [he, idx_eq_some hi]
  have hopen (hl : fhas (itemsOf h) 0x0200 = false ∨ inputRuns i u = false) :
      ¬(fhas (itemsOf h) 0x0200 && inputRuns i u) = true := by obtain hl | hl := hl <;> simp [hl]
  refine ⟨fun hl hr => if_pos (by rw [hl, hr]; rfl), fun hl hg hlt hj => ?_, fun hl hj => ⟨fun hp => ?_, fun hp => ?_⟩⟩
  · dsimp only
    rw [if_neg (hopen hl), if_pos (by rw [wbRaises, hg, decide_eq_true hlt, hj]; rfl)]
  all_goals
    have hnow : ¬(wbRaises i h u && jobReadsInput i u) = true := by
      unfold wbRaises
      obtain hj | hj | hj := hj
      · simp [hj]
      · rw [decide_eq_false hj.not_gt, Bool.and_false, Bool.false_and]
        exact Bool.false_ne_true
      · simp [hj]
    dsimp only
    rw [if_neg (hopen hl), if_neg hnow]
  · rw [if_pos (by rw [hp]; rfl)]
  · rw [if_neg (by rw [hp]; exact Bool.false_ne_true)]
    exact ⟨_, rfl, applyWb_wb ..⟩

/-- Settles O24: the slow loop, the hold, the trip and the settings of an input. -/
theorem gainControlMoves : Obligations.GainControlMoves :=
  ⟨agcWindowEnd_gives, agcHoldExpiry_gives, overloadTrip_gives, rfWbConfig_does⟩

end Sys2Proof.Machine

/-! ## The band carvers (R90 to R98, R465)

A change made to each of several members of a family, each once, changes those members and no other; then the commands of the carvers.
-/
namespace Sys2Proof.Machine

/-! ### Changes to several members -/

theorem foldl_modPath_paths (f : Path → Path) (l : List (Fin 64)) (hl : l.Nodup) (s : State) (p : Fin 64) :
    (l.foldl (fun s p => modPath p f s) s).cx.paths[p] = if p ∈ l then f s.cx.paths[p] else s.cx.paths[p] := by
  induction l generalizing s with
  | nil => rw [List.foldl_nil, if_neg List.not_mem_nil]
  | cons q l ih =>
    obtain ⟨hq, hl⟩ := List.nodup_cons.mp hl
    rw [List.foldl_cons, ih hl, modPath_cx]
    simp only [upd_get, List.mem_cons]
    by_cases hqp : q = p
    · subst hqp
      simp [hq]
    · simp [hqp, Ne.symm hqp]

theorem foldl_modCarver_carvers (f : Carver → Carver) (l : List (Fin 8)) (hl : l.Nodup) (s : State) (c : Fin 8) :
    (l.foldl (fun s c => modCarver c f s) s).rf.carvers[c] = if c ∈ l then f s.rf.carvers[c] else s.rf.carvers[c] := by
  induction l generalizing s with
  | nil => rw [List.foldl_nil, if_neg List.not_mem_nil]
  | cons q l ih =>
    obtain ⟨hq, hl⟩ := List.nodup_cons.mp hl
    rw [List.foldl_cons, ih hl, modCarver_rf]
    simp only [upd_get, List.mem_cons]
    by_cases hqp : q = c
    · subst hqp
      simp [hq]
    · simp [hqp, Ne.symm hqp]

theorem pathsOn_nodup (src : Nat) (s : State) : (pathsOn src s).Nodup := (List.nodup_finRange 64).filter _

/-! ### RF_CARVER_SET (R92 to R98) -/

/-- Without COMMIT an unavailable SOURCE is staged too: the model's choice (log entry 62). -/
theorem rfCarverSet_does (e : Entry) (c : Fin 8) (hc : e.target.toNat = c.val) : Does (.rfCarverSet e) specRfCarverSet e fun h u t =>
    let l := itemsOf h
    (fhas l 0x0302 = false ∨ fget u.rf.carvers[c].cfg 0x0300 = 0) → (c.val ≠ 7 ∨ u.cx.profile ≠ 1) →
      (commits h = false → ∃ v, t = finishC h v ∧ v.rf.carvers[c].cfg = fmerge u.rf.carvers[c].cfg (ofClass .lk l)
          ∧ v.rf.carvers[c].shadow = fmerge u.rf.carvers[c].shadow (ofClass .st l))
        ∧ (commits h = true → sourceOk (fget (carverNew c h u) 0x0300) u = true → stopsFed c (carverNew c h u) u = false →
            jobReadsCarver c u = false → t = park h [] u) := by
  refine does_of (fun _ => rfl) fun h u he _ => ?_
  unfold doRfCarverSet
  rw [he, idx_eq_some hc]
  intro l hrun hkept
  have hkept : ¬(decide (c.val = 7) && decide (u.cx.profile = 1)) = true := by
    rw [Bool.and_eq_true, decide_eq_true_eq, decide_eq_true_eq]
    rintro ⟨h7, h1⟩
    exact hkept.elim (fun h => h h7) (fun h => h h1)
  have hrun : ¬(fhas (itemsOf h) 0x0302 && fget u.rf.carvers[c].cfg 0x0300 != 0) = true := by
    obtain hrun | hrun := hrun
    · rw [show fhas (itemsOf h) 0x0302 = false from hrun, Bool.false_and]
      exact Bool.false_ne_true
    · rw [hrun, bne_self_eq_false, Bool.and_false]
      exact Bool.false_ne_true
  dsimp only
  rw [if_neg hkept, if_neg hrun]
  refine ⟨fun hn => ?_, fun hn hs hf hj => ?_⟩
  · rw [if_pos (by rw [hn]; rfl)]
    refine ⟨_, rfl, ?_⟩
    simp only [modCarver_rf, upd_get_self]
    exact ⟨rfl, rfl⟩
  · rw [if_neg (by rw [hn]; exact Bool.false_ne_true), if_neg (by rw [hs, hf]; exact Bool.false_ne_true),
      if_neg (by rw [hj, Bool.and_false]; exact Bool.false_ne_true)]

/-! ### The frame boundary (R94 to R96) -/

theorem retuneCarver_rf (c : Fin 8) (new : FieldSet) (s : State) : (retuneCarver c new s).rf = s.rf := by
  unfold retuneCarver
  refine fold_keep (g := State.rf) (fun s p => ?_) _ _
  rfl

theorem retuneCarver_outbox (c : Fin 8) (new : FieldSet) (s : State) : (retuneCarver c new s).outbox = s.outbox := by
  unfold retuneCarver
  refine fold_keep (g := State.outbox) (fun s p => ?_) _ _
  rfl

/-- The tuning word of each path on the carver, and of no other, moves against the step (R94). -/
theorem retuneCarver_wp (c : Fin 8) (new : FieldSet) (s : State) (p : Fin 64) :
    (retuneCarver c new s).cx.paths[p].wp = if p ∈ pathsOn c.val s then
      s.cx.paths[p].wp - (fget new 0x0301 - fget s.rf.carvers[c].cfg 0x0301) * fget new 0x0302 else s.cx.paths[p].wp := by
  unfold retuneCarver
  dsimp only
  rw [foldl_modPath_paths _ _ (pathsOn_nodup ..)]
  split <;> rfl

/-- A commit that leaves SOURCE and covers every band takes effect. -/
theorem commitCarver_applies (c : Fin 8) (m : State) (h : Held) (hsrc : sourceOk (fget (carverNew c h m) 0x0300) m = true)
    (hfed : stopsFed c (carverNew c h m) m = false) (hjob : jobReadsCarver c m = false)
    (hsame : fget (carverNew c h m) 0x0300 = fget m.rf.carvers[c].cfg 0x0300)
    (hband : ∀ p ∈ pathsOn c.val m,
      bandCovers (fget (carverNew c h m) 0x0301) (fget (carverNew c h m) 0x0302) (pathBand p m).1 (pathBand p m).2 = true) :
    ∃ v, commitCarver c m h = finish h .ok (carverResult (carverNew c h m) v) v
      ∧ v.rf.carvers[c].cfg = carverNew c h m ∧ v.rf.carvers[c].shadow = []
      ∧ v.outbox = .carverStep c.val (carverCentre (fget (carverNew c h m) 0x0301)).toNat :: m.outbox
      ∧ v.cx.paths = (retuneCarver c (carverNew c h m) m).cx.paths := by
  have hchange : (fget (carverNew c h m) 0x0300 != fget m.rf.carvers[c].cfg 0x0300) = false := by rw [hsame, bne_self_eq_false]
  have hinside : ((pathsOn c.val m).any fun p =>
      !bandCovers (fget (carverNew c h m) 0x0301) (fget (carverNew c h m) 0x0302) (pathBand p m).1 (pathBand p m).2) = false := by
    rw [List.any_eq_false]
    intro p hp
    rw [hband p hp]
    exact Bool.false_ne_true
  unfold commitCarver
  dsimp only
  rw [if_neg (by rw [hjob, Bool.and_false]; exact Bool.false_ne_true),
    if_neg (by rw [hsrc, hfed, hinside, Bool.and_false]; exact Bool.false_ne_true), hchange, if_neg Bool.false_ne_true,
    if_neg Bool.false_ne_true]
  refine ⟨_, rfl, ?_⟩
  simp only [emit_rf, emit_outbox, emit_cx, modCarver_rf, modCarver_outbox, modCarver_cx, upd_get_self, retuneCarver_outbox]
  exact ⟨trivial, trivial, trivial, trivial⟩

theorem resumeCarver_of_not_resumes {c : Fin 8} {s : State} (h : s.rf.carvers[c].resumes = false) : resumeCarver c s = s :=
  if_neg (Bool.eq_false_iff.mp h)

theorem resumeCarver_carver {c : Fin 8} {s : State} (h : s.rf.carvers[c].resumes = true) :
    (resumeCarver c s).rf.carvers[c] = { s.rf.carvers[c] with stopped := false, resumes := false } := by
  unfold resumeCarver
  rw [if_pos h]
  have hrf (l : List (Fin 64)) (v : State) :
      (l.foldl (fun s p => if delivers s.cx.paths[p].source s then resumePath p s else s) v).rf = v.rf := by
    refine fold_keep (g := State.rf) (fun s p => ?_) l v
    split
    · exact resumePath_l_rf ..
    · rfl
  simp only [hrf, modCarver_rf, upd_get_self]

theorem carverFrameCommit_applies (t : DT) (c : Fin 8) (s : State) (h : Held) :
    let m := moment t s
    let new := carverNew c h m
    carverCmds c m = [h] → s.rf.carvers[c].resumes = false → sourceOk (fget new 0x0300) m = true → stopsFed c new m = false →
      jobReadsCarver c m = false → fget new 0x0300 = fget s.rf.carvers[c].cfg 0x0300 →
      (∀ p ∈ pathsOn c.val m, bandCovers (fget new 0x0301) (fget new 0x0302) (pathBand p m).1 (pathBand p m).2 = true) →
      Gives (.carverFrameCommit t c) s fun u => ∃ v, u = finish h .ok (carverResult new v) v
        ∧ v.rf.carvers[c].cfg = new ∧ v.rf.carvers[c].shadow = []
        ∧ v.outbox = .carverStep c.val (carverCentre (fget new 0x0301)).toNat :: s.outbox
        ∧ ∀ p : Fin 64, v.cx.paths[p].wp = if p ∈ pathsOn c.val m then
            s.cx.paths[p].wp - (fget new 0x0301 - fget s.rf.carvers[c].cfg 0x0301) * fget new 0x0302 else s.cx.paths[p].wp := by
  intro m new hcmds hres hsrc hfed hjob hsame hband
  have hrf : m.rf = s.rf := moment_rf t s
  rw [← hrf] at hres hsame
  obtain ⟨v, hv, hcfg, hshadow, hout, hpaths⟩ := commitCarver_applies c m h hsrc hfed hjob hsame hband
  refine ⟨_, rfl, v, ?_, hcfg, hshadow, hout.trans (congrArg _ (moment_outbox t s)), fun p => ?_⟩
  · show (carverCmds c m).foldl (commitCarver c) (resumeCarver c m) = _
    rw [hcmds, resumeCarver_of_not_resumes hres]
    exact hv
  · have hwp : m.cx.paths[p].wp = s.cx.paths[p].wp := moment_path_wp t s p
    rw [hpaths, retuneCarver_wp, hrf, hwp]

theorem carverFrameCommit_idle (t : DT) (c : Fin 8) (s : State) (hcmds : carverCmds c (moment t s) = []) :
    Gives (.carverFrameCommit t c) s fun u => (s.rf.carvers[c].resumes = false → u = moment t s)
      ∧ (s.rf.carvers[c].resumes = true → u.rf.carvers[c] = { s.rf.carvers[c] with stopped := false, resumes := false }) := by
  rw [← moment_rf t s]
  refine ⟨_, rfl, ?_⟩
  generalize moment t s = m at hcmds ⊢
  rw [hcmds]
  exact ⟨resumeCarver_of_not_resumes, resumeCarver_carver⟩

/-! ### A peer stream that stops (R93) -/

theorem loseSource_pair (p : Fin 64) (s : State) : (loseSource p s).pair = s.pair := (loseSource_within p s).pair rfl

theorem stopStream_stops (b : Bool) (s : State) : (stopStream b s).pair.stoppedIn.getLsbD (bit b) = true
    ∧ ∀ c : Fin 8, (stopStream b s).rf.carvers[c] = if carverSource c s = 3 + (bit b : Int)
      then { s.rf.carvers[c] with stopped := true, resumes := false } else s.rf.carvers[c] := by
  have hpair (l : List (Fin 64)) (v : State) : (l.foldl (fun s p => loseSource p s) v).pair = v.pair :=
    fold_keep (g := State.pair) (fun s p => loseSource_pair p s) l v
  have hcarvers (l : List (Fin 64)) (v : State) : (l.foldl (fun s p => loseSource p s) v).rf.carvers = v.rf.carvers :=
    fold_keep (g := fun s => s.rf.carvers) (fun s p => loseSource_l_carvers p s) l v
  unfold stopStream
  dsimp only
  refine ⟨?_, fun c => ?_⟩
  · rw [hpair, modPair_pair]
    cases b <;> simp [bit]
  · simp only [hcarvers, modPair_rf]
    rw [foldl_modCarver_carvers _ _ ((List.nodup_finRange 8).filter _)]
    simp

theorem peerStreamStop_gives (t : DT) (b : Bool) (s : State) : Gives (.peerStreamStop t b) s fun u =>
    u.pair.stoppedIn.getLsbD (bit b) = true ∧ ∀ c : Fin 8, u.rf.carvers[c] = if carverSource c s = 3 + (bit b : Int)
      then { s.rf.carvers[c] with stopped := true, resumes := false } else s.rf.carvers[c] := by
  have hsource (c : Fin 8) : carverSource c (moment t s) = carverSource c s := by rw [carverSource, moment_rf, carverSource]
  refine ⟨_, rfl, ?_⟩
  simpa only [hsource, moment_rf] using stopStream_stops b (moment t s)

/-- Settles O25: staging, the boundary with and without a commit, and a peer stream that stops. -/
theorem carversCommitAtFrameBoundary : Obligations.CarversCommitAtFrameBoundary :=
  ⟨rfCarverSet_does, carverFrameCommit_applies, carverFrameCommit_idle, peerStreamStop_gives⟩

end Sys2Proof.Machine

/-! ## A tuner that rests: FAILED or in PROBE (R117, R121)

Whatever moves contexts and branches off a tuner that has failed or that probes leaves that tuner's state and its probe alone. Each operation
of the sources is taken once.
-/
namespace Sys2Proof.Machine

/-- Tuner `n` is in state `st` with probe `pr`. -/
def TunerAt (n : Fin 4) (st : TState) (pr : Option (Nat × FieldSet × Bool)) (s : State) : Prop :=
  s.rf.tuners[n].st = st ∧ s.rf.tuners[n].probe = pr

section
variable {n : Fin 4} {st : TState} {pr : Option (Nat × FieldSet × Bool)} {s : State}

theorem TunerAt.of_tuners {t : State} (h : TunerAt n st pr s) (ht : t.rf.tuners = s.rf.tuners) : TunerAt n st pr t := by
  unfold TunerAt
  rw [ht]
  exact h

theorem TunerAt.of_rf {t : State} (h : TunerAt n st pr s) (ht : t.rf = s.rf) : TunerAt n st pr t :=
  h.of_tuners (congrArg RfSt.tuners ht)

theorem TunerAt.modTuner (h : TunerAt n st pr s) (k : Fin 4) {f : Tuner → Tuner}
    (hf : ∀ x, x.st = st → (f x).st = x.st ∧ (f x).probe = x.probe) : TunerAt n st pr (modTuner k f s) := by
  obtain ⟨hst, hpr⟩ := h
  unfold TunerAt
  simp only [modTuner_rf, upd_get]
  split
  · obtain ⟨hfst, hfpr⟩ := hf _ hst
    exact ⟨hfst.trans hst, hfpr.trans hpr⟩
  · exact ⟨hst, hpr⟩

theorem TunerAt.commitTuner (h : TunerAt n st pr s) (k : Fin 4) (l : FieldSet) : TunerAt n st pr (commitTuner k l s) :=
  h.modTuner k fun _ _ => ⟨rfl, rfl⟩

/-- A channel change of another tuner, or one that waits for the tuner to leave its state, begins. -/
theorem TunerAt.beginChange (h : TunerAt n st pr s) (hst : st ≠ .rx) (k : Fin 4) (cmd ctx : Option Nat) :
    TunerAt n st pr (beginChange k cmd ctx s) := by
  unfold Sys2Proof.Machine.beginChange
  dsimp only
  split
  · refine TunerAt.modTuner ?_ k fun x hx => ?_
    · refine TunerAt.of_rf (h.of_tuners (abandonTunerFirings_l_tuners ..)) (fold_keep (g := State.rf) (fun s q => holdPath_l_rf q s) _ _)
    · rw [if_neg (by rw [hx]; exact hst)]
      exact ⟨rfl, rfl⟩
  · exact h

theorem TunerAt.tuneFor (h : TunerAt n st pr s) (hst : st ≠ .rx) (k : Fin 4) (freq half ctx : Nat) :
    TunerAt n st pr (tuneFor k freq half ctx s) := (h.commitTuner k _).beginChange hst k _ _

/-- The release of a tuner leaves a failed one alone and a probe to its end (R121). -/
theorem TunerAt.releaseTuner (h : TunerAt n st pr s) (hst : st = .failed ∨ st = .probe) (src : Nat) :
    TunerAt n st pr (releaseTuner src s) := by
  unfold Sys2Proof.Machine.releaseTuner
  split
  case h_2 => exact h
  case h_1 k _ =>
    dsimp only
    split
    · exact h
    case isFalse hfree =>
      split
      · exact h.modTuner k fun _ _ => ⟨rfl, rfl⟩
      case isFalse hprobe =>
        by_cases hk : k = n
        · subst hk
          obtain ⟨hkst, -⟩ := h
          obtain rfl | rfl := hst
          · exact absurd (by simp [-Fin.getElem_fin, hkst]) hfree
          · exact absurd (by simp [-Fin.getElem_fin, hkst]) hprobe
        · unfold TunerAt
          simp only [modTuner_rf, upd_get, if_neg hk]
          exact h

theorem TunerAt.dropBranch (h : TunerAt n st pr s) (hst : st = .failed ∨ st = .probe) (c : Fin 64) :
    TunerAt n st pr (dropBranch c s) := by
  unfold Sys2Proof.Machine.dropBranch
  split
  · exact TunerAt.releaseTuner (h.of_rf ((closePath_l_rf ..).trans (modCtx_rf ..))) hst _
  · exact h

theorem regrow_rf {c : Fin 64} {old t : State} (h : regrow c old s = some t) : t.rf = s.rf :=
  ((regrow_within c old s).of h).rf_eq rfl rfl rfl rfl

theorem TunerAt.attachBranch (h : TunerAt n st pr s) (hst : st ≠ .rx) {c : Fin 64} {role : Branch} {d : Nat} {t : State}
    (ht : attachBranch c role d s = some t) : TunerAt n st pr t := by
  unfold Sys2Proof.Machine.attachBranch at ht
  split at ht
  case h_2 => cases ht
  case h_1 p src _ _ =>
    dsimp only at ht
    split at ht
    case h_2 => cases ht
    case h_1 v hv =>
      injection ht with ht
      subst ht
      have hv : TunerAt n st pr v := h.of_rf ((regrow_rf hv).trans rfl)
      refine TunerAt.of_rf ?_ ((modPath_rf ..).trans (openPath_l_rf ..))
      split
      · exact hv.tuneFor hst _ _ _ _
      · exact hv

theorem TunerAt.seekFailover (h : TunerAt n st pr s) (hst : st ≠ .rx) (c : Fin 64) : TunerAt n st pr (seekFailover c s) := by
  unfold Sys2Proof.Machine.seekFailover
  split
  · split
    case h_1 ht => exact h.attachBranch hst ht
    case h_2 => exact h
  · exact h

theorem TunerAt.rebranch (h : TunerAt n st pr s) (hst : st ≠ .rx) (c : Fin 64) : TunerAt n st pr (rebranch c s) := by
  unfold Sys2Proof.Machine.rebranch
  dsimp only
  split
  · exact h
  · split
    · split
      case h_1 ht => exact h.attachBranch hst ht
      case h_2 => exact h.seekFailover hst c
    · exact h.seekFailover hst c

theorem rests_ne_rx (hst : st = .failed ∨ st = .probe) : st ≠ .rx := by
  obtain rfl | rfl := hst <;> exact TState.noConfusion

theorem TunerAt.recheckBranch (h : TunerAt n st pr s) (hst : st = .failed ∨ st = .probe) (c : Fin 64) :
    TunerAt n st pr (recheckBranch c s) := by
  unfold Sys2Proof.Machine.recheckBranch
  split
  · split
    · exact h
    · exact (h.dropBranch hst c).rebranch (rests_ne_rx hst) c
  · exact h

theorem TunerAt.failover (h : TunerAt n st pr s) (hst : st = .failed ∨ st = .probe) (c : Fin 64) : TunerAt n st pr (failover c s) := by
  unfold Sys2Proof.Machine.failover
  dsimp only
  split
  case h_2 => exact h
  case h_1 p b _ _ =>
    refine TunerAt.seekFailover (TunerAt.releaseTuner (h.of_rf ?_) hst _) (rests_ne_rx hst) c
    rw [evSherd_l_rf, raiseAt_rf, leaveHold_l_rf, modSg_rf, modCtx_rf]
    split
    · exact closePath_l_rf ..
    · exact dropPath_l_rf ..

theorem TunerAt.loseSource (h : TunerAt n st pr s) (hst : st = .failed ∨ st = .probe) (p : Fin 64) : TunerAt n st pr (loseSource p s) := by
  unfold Sys2Proof.Machine.loseSource
  split
  · exact h
  · split
    · dsimp only
      split
      · split
        · exact h.failover hst _
        · exact h.of_rf ((holdCtx_l_rf ..).trans (holdPath_l_rf ..))
      · split
        · exact h.of_rf ((modCtx_rf ..).trans (holdPath_l_rf ..))
        · exact h.of_rf (holdPath_l_rf ..)
    · exact h.of_rf (holdPath_l_rf ..)

theorem rebind_rf (p : Fin 64) (src freq : Nat) (s : State) : (rebind p src freq s).rf = s.rf := (rebind_within ..).rf_eq rfl rfl rfl rfl

theorem TunerAt.reSource (h : TunerAt n st pr s) (hst : st = .failed ∨ st = .probe) (c : Fin 64) : TunerAt n st pr (reSource c s) := by
  unfold Sys2Proof.Machine.reSource
  dsimp only
  split
  case h_2 => exact h
  case h_1 p src _ _ =>
    refine TunerAt.seekFailover (TunerAt.recheckBranch ?_ hst c) (rests_ne_rx hst) c
    have hresumed (v : State) (hv : TunerAt n st pr v) : TunerAt n st pr (if delivers src v then resumePath p v else v) := by
      split
      · exact hv.of_rf (resumePath_l_rf ..)
      · exact hv
    refine hresumed _ (TunerAt.of_rf ?_ ((rebind_rf ..).trans (modCtx_rf ..)))
    split
    · exact h.tuneFor (rests_ne_rx hst) _ _ _ _
    · exact h

theorem TunerAt.moveFrom (h : TunerAt n st pr s) (hst : st = .failed ∨ st = .probe) (p : Fin 64) : TunerAt n st pr (moveFrom s p) := by
  unfold Sys2Proof.Machine.moveFrom
  cases ctxOf p s with
  | none => exact h.loseSource hst p
  | some c =>
    dsimp only
    split
    · exact (h.loseSource hst p).reSource hst c
    · exact h.loseSource hst p

end

end Sys2Proof.Machine

/-! ## Tuner states and channel changes (R108 to R117)

The commands and events of a pointed tuner, each as one law.
-/
namespace Sys2Proof.Machine

/-! ### RF_PT_STATE (R108 to R110) -/

theorem tunerOf_eq {h : Held} {n : Fin 4} (hn : h.entry.target.toNat = n.val) : tunerOf h = some n := idx_eq_some hn

theorem doRfPtState_query {h : Held} {n : Fin 4} {u : State} (hn : h.entry.target.toNat = n.val) (h1 : le (Entry.args h.entry) 0 1 = 1) :
    doRfPtState h u = finish h .ok (queryResult n u) u := by
  unfold doRfPtState
  rw [tunerOf_eq hn]
  dsimp only
  rw [if_pos h1]

/-- SET asks for the state that byte 1 names. -/
theorem doRfPtState_set {h : Held} {n : Fin 4} {u : State} (hn : h.entry.target.toNat = n.val) (h0 : le (Entry.args h.entry) 0 1 = 0) :
    (le (Entry.args h.entry) 1 1 = 0 → doRfPtState h u = setPtState h n .sleep u)
      ∧ (le (Entry.args h.entry) 1 1 = 1 → doRfPtState h u = setPtState h n .standby u)
      ∧ (le (Entry.args h.entry) 1 1 = 3 → doRfPtState h u = setPtState h n .rx u) := by
  unfold doRfPtState
  rw [tunerOf_eq hn]
  dsimp only
  rw [if_neg (by omega)]
  refine ⟨fun h1 => ?_, fun h1 => ?_, fun h1 => ?_⟩
  · rw [if_pos h1]
  · rw [if_neg (by omega), if_pos h1]
  · rw [if_neg (by omega), if_neg (by omega)]

section
variable {h : Held} {n : Fin 4} {u : State}

theorem setPtState_rx_errState (hx : u.rf.tuners[n].st = .failed ∨ u.rf.tuners[n].freq = none) :
    setPtState h n .rx u = reject h .errState u := by
  unfold setPtState
  dsimp only
  obtain hx | hx := hx
  · rw [if_pos (by rw [hx]; rfl)]
  · split
    · rfl
    · rw [if_pos (by rw [hx]; rfl)]

theorem setPtState_rx_there (hst : u.rf.tuners[n].st = .rx) (hf : u.rf.tuners[n].freq ≠ none) (hc : u.rf.tuners[n].change = none)
    (ht : u.rf.tuners[n].target = none) (hu : u.rf.tuners[n].unavailable = false) :
    setPtState h n .rx u = finish h .ok (stateResult .rx u) u := by
  obtain ⟨f, hf⟩ := Option.ne_none_iff_exists'.mp hf
  unfold setPtState headFor
  simp [-Fin.getElem_fin, hst, hf, hc, ht, hu]

/-- RX for a plan that only excluded bands meet (R106). -/
theorem setPtState_rx_excluded {p : Plan} (hst : u.rf.tuners[n].st ≠ .failed) (hrx : u.rf.tuners[n].st ≠ .rx)
    (hf : u.rf.tuners[n].freq ≠ none) (hj : jobReadsTuner n u = false) (hc : u.rf.tuners[n].change = none)
    (hp : u.rf.tuners[n].plan = some p) (hx : onlyExcluded u.rf.tuners[n] p = true) :
    setPtState h n .rx u = reject h .noResource u := by
  obtain ⟨f, hf⟩ := Option.ne_none_iff_exists'.mp hf
  unfold setPtState
  simp [-Fin.getElem_fin, hst, hrx, hf, hj, hc, hp, hx]

theorem setPtState_standby (hst : u.rf.tuners[n].st ≠ .failed) (hs : u.rf.tuners[n].st ≠ .standby) (hj : jobReadsTuner n u = false)
    (hf : feeds n u = false) (hu : u.rf.tuners[n].unavailable = false) :
    setPtState h n .standby u
      = begin_ h (modTuner n (fun t => { t with target := some .standby, targetCmd := some h.id, change := none }) u) := by
  unfold setPtState headFor
  simp [-Fin.getElem_fin, hst, hs, hj, hf, hu]

theorem setPtState_sleep_feeds (hj : jobReadsTuner n u = false) (hf : feeds n u = true) :
    setPtState h n .sleep u = reject h .errState u := by
  unfold setPtState
  simp [-Fin.getElem_fin, hj, hf]

end

/-- ERR_STATE for SLEEP while a path uses the tuner comes in every state of it (log entry 66). -/
theorem rfPtState_does (e : Entry) (n : Fin 4) (hn : e.target.toNat = n.val) : Does (.rfPtState e) specRfPtState e fun h u t =>
    let a := Entry.args e
    let x := u.rf.tuners[n]
    (le a 0 1 = 1 → t = finish h .ok (queryResult n u) u)
      ∧ (le a 0 1 = 0 → le a 1 1 = 3 → (x.st = .failed ∨ x.freq = none) → t = reject h .errState u)
      ∧ (le a 0 1 = 0 → le a 1 1 = 3 → x.st = .rx → x.freq ≠ none → x.change = none → x.target = none → x.unavailable = false →
          t = finish h .ok (stateResult .rx u) u)
      ∧ (le a 0 1 = 0 → le a 1 1 = 3 → x.st ≠ .failed → x.st ≠ .rx → x.freq ≠ none → jobReadsTuner n u = false → x.change = none →
          (∃ p, x.plan = some p ∧ onlyExcluded x p = true) → t = reject h .noResource u)
      ∧ (le a 0 1 = 0 → le a 1 1 = 1 → x.st ≠ .failed → x.st ≠ .standby → jobReadsTuner n u = false → feeds n u = false →
          x.unavailable = false →
          t.rf.tuners[n] = { x with target := some .standby, targetCmd := some h.id, change := none } ∧ t.time = u.time)
      ∧ (le a 0 1 = 0 → le a 1 1 = 0 → x.st ≠ .sleep → jobReadsTuner n u = false → feeds n u = true → t = reject h .errState u) := by
  refine does_of (fun _ => rfl) fun h u he _ => ?_
  subst he
  refine ⟨doRfPtState_query hn, fun h0 h1 hx => ?_, fun h0 h1 hst hf hc ht hu => ?_, fun h0 h1 hst hrx hf hj hc hp => ?_,
    fun h0 h1 hst hs hj hf hu => ?_, fun h0 h1 _ hj hf => ?_⟩
  · rw [(doRfPtState_set hn h0).2.2 h1, setPtState_rx_errState hx]
  · rw [(doRfPtState_set hn h0).2.2 h1, setPtState_rx_there hst hf hc ht hu]
  · obtain ⟨p, hp, hx⟩ := hp
    rw [(doRfPtState_set hn h0).2.2 h1, setPtState_rx_excluded hst hrx hf hj hc hp hx]
  · rw [(doRfPtState_set hn h0).2.1 h1, setPtState_standby hst hs hj hf hu]
    simp only [begin__rf, begin__time, modTuner_rf, modTuner_time, upd_get_self, and_self]
  · rw [(doRfPtState_set hn h0).1 h1, setPtState_sleep_feeds hj hf]

/-! ### Transitions (R109) -/

/-- The start of the synthesiser moves band and trim alone (R111). -/
theorem synthStart_eq (t : Tuner) : t.synthStart = { t with band := t.synthStart.band, trim := t.synthStart.trim } := by
  unfold Tuner.synthStart
  split
  · split <;> rfl
  · rfl

/-- A tuner as its transition reaches `st`. -/
def Tuner.reach (st : TState) (old : TState) (t : Tuner) : Tuner :=
  let y := { t with st := st, holdFrom := none, unavailable := t.unavailable || old == .failed }
  if st = .synth then y.synthStart else y

theorem Tuner.reach_fields (st old : TState) (t : Tuner) :
    (t.reach st old).st = st ∧ (t.reach st old).target = t.target ∧ (t.reach st old).targetCmd = t.targetCmd := by
  unfold Tuner.reach
  dsimp only
  split
  · rw [synthStart_eq]
    exact ⟨rfl, rfl, rfl⟩
  · exact ⟨rfl, rfl, rfl⟩

theorem endTransition_finishes {n : Fin 4} {want : TState} {s : State} {id : Nat} {h : Held} (hc : s.rf.tuners[n].targetCmd = some id)
    (hh : findHeld id s = some h) : ∃ v, endTransition n want s = finish h .ok (stateResult want v) v
      ∧ v.rf.tuners[n].st = s.rf.tuners[n].st ∧ v.rf.tuners[n].target = none ∧ v.time = s.time := by
  unfold endTransition
  dsimp only
  rw [hc]
  dsimp only
  refine ⟨_, finishId_eq ((findHeld_congr rfl).trans hh), ?_⟩
  simp only [modTuner_rf, modTuner_time, upd_get_self, and_self]

theorem tunerTransitionDone_gives (t : DT) (n : Fin 4) (s : State) (want : TState) :
    let m := moment t s
    let x := s.rf.tuners[n]
    x.target = some want → x.probe = none → tunerFires n m = false →
      (nextState x want ≠ want → Gives (.tunerTransitionDone t n) s fun u =>
          u.rf.tuners[n].st = nextState x want ∧ u.rf.tuners[n].target = some want)
        ∧ (nextState x want = want → ∀ id h, x.targetCmd = some id → findHeld id s = some h →
            Gives (.tunerTransitionDone t n) s fun u => ∃ v, u = finish h .ok (stateResult want v) v
              ∧ v.rf.tuners[n].st = want ∧ v.rf.tuners[n].target = none ∧ v.time.dt = m.time.dt) := by
  intro m x
  have hx : x = m.rf.tuners[n] := by simp only [x, m, moment_rf]
  rw [hx]
  intro ht hp hf
  have hfree : ¬(tunerFires n m || m.rf.tuners[n].probe.isSome) = true := by
    rw [hf, hp]
    exact Bool.false_ne_true
  have hexec : exec (.tunerTransitionDone t n) s = .next (
      if nextState m.rf.tuners[n] want = want
      then endTransition n want (modTuner n (Tuner.reach (nextState m.rf.tuners[n] want) m.rf.tuners[n].st) m)
      else modTuner n (Tuner.reach (nextState m.rf.tuners[n] want) m.rf.tuners[n].st) m) := by
    show Host.Outcome.next _ = _
    rw [ht]
    dsimp only
    rw [if_neg hfree]
    rfl
  obtain ⟨hst, htarget, hcmd⟩ := m.rf.tuners[n].reach_fields (nextState m.rf.tuners[n] want) m.rf.tuners[n].st
  refine ⟨fun hn => gives (hexec.trans (congrArg _ (if_neg hn))) ?_, fun hn id h hc hh => gives (hexec.trans (congrArg _ (if_pos hn))) ?_⟩
  · simp only [modTuner_rf, upd_get_self]
    exact ⟨hst, htarget.trans ht⟩
  · have hc' : (modTuner n (Tuner.reach (nextState m.rf.tuners[n] want) m.rf.tuners[n].st) m).rf.tuners[n].targetCmd = some id := by
      simp only [modTuner_rf, upd_get_self]
      exact hcmd.trans hc
    obtain ⟨v, hv, hvst, hvtarget, hvtime⟩ := endTransition_finishes (want := want) hc' ((findHeld_moment id t s).trans hh)
    simp only [modTuner_rf, upd_get_self] at hvst
    exact ⟨v, hv, hvst.trans (hst.trans hn), hvtarget, congrArg TimeSt.dt hvtime⟩

/-! ### RF_PT_TUNE (R103, R110, R114) -/

/-- A gain that is set leaves a tuner's fields, state and plan. -/
theorem setGain_pt (n : Fin 4) (g : Int) (cause : Nat) (f : Option DT) (s : State) : let t := (setGain (.pt n) g cause f s).rf.tuners[n]
    let x := s.rf.tuners[n]
    t.cfg = x.cfg ∧ t.shadow = x.shadow ∧ t.st = x.st ∧ t.freq = x.freq ∧ t.plan = x.plan := by
  have hrf (c : Prop) [Decidable c] : (if c then markGain (fedFrom (.pt n) s) s else s).rf = s.rf := by split <;> rfl
  unfold setGain
  simp only [modTuner_rf, upd_get_self, Tuner.toGain]
  split
  · simp only [hrf, and_self]
  · simp only [modFiring_rf, hrf, and_self]

theorem applyTunerLive_tuner (n : Fin 4) (l : FieldSet) (s : State) : let t := (applyTunerLive n l s).rf.tuners[n]
    let x := s.rf.tuners[n]
    t.cfg = fmerge x.cfg (ofClass .lv l) ∧ t.shadow = x.shadow ∧ t.st = x.st := by
  unfold applyTunerLive
  dsimp only
  split
  · obtain ⟨hcfg, hshadow, hst, -, -⟩ := setGain_pt n (fget l 0x0407) 2 none (modTuner n (fun t => { t with
      cfg := fmerge t.cfg (ofClass .lv l), holdFrom := if fhas l 0x0406 then none else t.holdFrom }) s)
    refine ⟨hcfg.trans ?_, hshadow.trans ?_, hst.trans ?_⟩ <;> simp only [modTuner_rf, upd_get_self]
  · simp only [modTuner_rf, upd_get_self, and_self]

section
variable {h : Held} {n : Fin 4} {u : State}

/-- In SLEEP and STANDBY a commit sets frequency and plan at once (R110). -/
theorem commitPtTune_rests {l : FieldSet} (hst : u.rf.tuners[n].st = .sleep ∨ u.rf.tuners[n].st = .standby) (hf : feeds n u = false)
    (hfreq : u.rf.tuners[n].freq ≠ none ∨ fhas (tunerNew u.rf.tuners[n] l) 0x0400 = true)
    (hx : onlyExcluded u.rf.tuners[n] (planOf (tunerNew u.rf.tuners[n] l)) = false) :
    ∃ v, commitPtTune h n l u = finish h .ok [(16, 7, 0xFFFFFFFFFFFFFF), (24, 8, dtInt (now v))] v ∧ v.rf.tuners[n].shadow = []
      ∧ v.rf.tuners[n].st = u.rf.tuners[n].st ∧ v.rf.tuners[n].freq = some (fget v.rf.tuners[n].cfg 0x0400).toNat
      ∧ v.rf.tuners[n].plan = some (planOf v.rf.tuners[n].cfg) := by
  obtain ⟨hcfg, hshadow, hkept⟩ := applyTunerLive_tuner n l u
  have hbad : ¬(u.rf.tuners[n].st == .failed || feeds n u
      || (u.rf.tuners[n].freq.isNone && !fhas (tunerNew u.rf.tuners[n] l) 0x0400)) = true := by
    have hfailed : (u.rf.tuners[n].st == TState.failed) = false := by obtain hst | hst := hst <;> rw [hst] <;> rfl
    have hnone : (u.rf.tuners[n].freq.isNone && !fhas (tunerNew u.rf.tuners[n] l) 0x0400) = false := by
      obtain hfreq | hfreq := hfreq
      · obtain ⟨f, hf⟩ := Option.ne_none_iff_exists'.mp hfreq
        rw [hf]
        rfl
      · rw [hfreq, Bool.not_true, Bool.and_false]
    rw [hfailed, hf, hnone]
    exact Bool.false_ne_true
  unfold commitPtTune
  dsimp only
  rw [if_neg hbad, if_neg (Bool.eq_false_iff.mp hx), if_pos (by simpa [-Fin.getElem_fin] using hst)]
  refine ⟨_, rfl, ?_⟩
  simp only [commitTuner, modTuner_rf, upd_get_self, hkept, planOf, and_self]

end

theorem rfPtTune_does (e : Entry) (n : Fin 4) (hn : e.target.toNat = n.val) : Does (.rfPtTune e) specRfPtTune e fun h u t =>
    let l := itemsOf h
    let x := u.rf.tuners[n]
    let new := tunerNew x l
    jobReadsTuner n u = false →
      (commits h = false → parked h = false → (tunerRuns x = false ∨ ofClass .lv l = []) →
          ∃ v, t = finishC h v ∧ v.rf.tuners[n].shadow = fmerge x.shadow (ofClass .st l) ∧ v.rf.tuners[n].cfg = fmerge x.cfg (ofClass .lv l))
        ∧ (commits h = false → parked h = false → tunerRuns x = true → ofClass .lv l ≠ [] →
          ∃ v, t = park h [] v ∧ v.rf.tuners[n] = { x with shadow := fmerge x.shadow (ofClass .st l) })
        ∧ (commits h = false → parked h = true →
          ∃ v, t = finishC h v ∧ v.rf.tuners[n].shadow = x.shadow ∧ v.rf.tuners[n].cfg = fmerge x.cfg (ofClass .lv l))
        ∧ (commits h = true → (x.st = .failed ∨ feeds n u = true) → t = reject h .errState u)
        ∧ (commits h = true → (x.st = .sleep ∨ x.st = .standby) → feeds n u = false → (x.freq ≠ none ∨ fhas new 0x0400 = true) →
            onlyExcluded x (planOf new) = false →
            ∃ v, t = finish h .ok [(16, 7, 0xFFFFFFFFFFFFFF), (24, 8, dtInt (now v))] v ∧ v.rf.tuners[n].shadow = []
              ∧ v.rf.tuners[n].st = x.st ∧ v.rf.tuners[n].freq = some (fget v.rf.tuners[n].cfg 0x0400).toNat
              ∧ v.rf.tuners[n].plan = some (planOf v.rf.tuners[n].cfg)) := by
  refine does_of (fun _ => rfl) fun h u he _ => ?_
  subst he
  intro l x new hj
  unfold doRfPtTune
  rw [tunerOf_eq hn]
  dsimp only
  rw [if_neg (by rw [hj]; exact Bool.false_ne_true)]
  refine ⟨fun hc hp hr => ?_, fun hc hp hr hl => ?_, fun hc hp => ?_, fun hc hx => ?_, fun hc hst hf hfreq hx => ?_⟩
  · rw [if_neg (Bool.eq_false_iff.mp hc), if_neg (Bool.eq_false_iff.mp hp), if_neg ?_]
    · obtain ⟨hcfg, hshadow, -⟩ := applyTunerLive_tuner n l (modTuner n (fun t => { t with shadow := fmerge t.shadow (ofClass .st l) }) u)
      refine ⟨_, rfl, hshadow.trans ?_, hcfg.trans ?_⟩ <;> simp only [modTuner_rf, upd_get_self] <;> rfl
    · simp only [modTuner_rf, upd_get_self]
      show ¬(tunerRuns x && !(ofClass .lv l).isEmpty) = true
      obtain hr | hr := hr
      · rw [hr, Bool.false_and]
        exact Bool.false_ne_true
      · rw [hr, List.isEmpty_nil, Bool.not_true, Bool.and_false]
        exact Bool.false_ne_true
  · rw [if_neg (Bool.eq_false_iff.mp hc), if_neg (Bool.eq_false_iff.mp hp), if_pos ?_]
    · refine ⟨_, rfl, ?_⟩
      simp only [modTuner_rf, upd_get_self]
      rfl
    · simp only [modTuner_rf, upd_get_self]
      show (tunerRuns x && !(ofClass .lv l).isEmpty) = true
      rw [hr]
      simpa using hl
  · rw [if_neg (Bool.eq_false_iff.mp hc), if_pos hp]
    obtain ⟨hcfg, hshadow, -⟩ := applyTunerLive_tuner n l u
    exact ⟨_, rfl, hshadow, hcfg⟩
  · rw [if_pos hc]
    refine if_pos ?_
    change (x.st == .failed || feeds n u || _) = true
    obtain hx | hx := hx
    · rw [hx]
      rfl
    · rw [hx, Bool.or_true, Bool.true_or]
  · rw [if_pos hc]
    exact commitPtTune_rests hst hf hfreq hx

/-! ### Channel changes (R106, R107, R111, R112) -/

/-- An outcome that is OK has passed its limits. -/
theorem of_gate_ok {suitable fits : Bool} (h : gate suitable fits = .ok) : fits = true := by
  unfold gate at h
  split at h
  · cases h
  · split at h
    · assumption
    · cases h

theorem judgedChange_limits (r : ChannelChange) :
    ((judgedChange r).image = .ok → r.irGain.value.natAbs ≤ 1000 ∧ r.irPhase.value.natAbs ≤ 5000)
      ∧ ((judgedChange r).filter = .ok → r.bandwidth.value.natAbs ≤ 1500) ∧ ((judgedChange r).offset = .ok → r.offset.value.natAbs ≤ 200) := by
  refine ⟨fun h => ?_, fun h => of_decide_eq_true (of_gate_ok (suitable := true) h),
    fun h => of_decide_eq_true (of_gate_ok h)⟩
  have h := of_gate_ok h
  rw [Bool.and_eq_true, decide_eq_true_eq, decide_eq_true_eq] at h
  exact h

/-- A tuner as its channel change ends: settled, with its recall entry first and the corrections that passed. -/
def Tuner.changed (band : Nat) (v : Int × Int × Nat × Int) (k : Quick) (r : ChannelChange) (e : Recall) (t : Tuner) : Tuner :=
  { t with
    change := none, calibrating := false, band := band, irGain := v.1, irPhase := v.2.1, trim := v.2.2.1, offset := v.2.2.2,
    bandwidth := if k.filter = .ok then r.bandwidth.value else t.bandwidth,
    recalls := writeRecall e t.recalls, recallDirty := true }

theorem changeBand_search {x : Tuner} {c : Change} {p : Plan} {r : ChannelChange} (hc : c.fromTable = false)
    (hb : r.band ∈ searchBands x p) : changeBand x c p r = r.band.val := by
  unfold changeBand
  rw [hc]
  exact if_pos (List.contains_iff_mem.mpr hb)

theorem changeValues_of_ok (n : Fin 4) (t : Tuner) (c : Change) (p : Plan) (r : ChannelChange) (k : Quick) :
    let v := changeValues n t c p r k
    (k.image = .ok → v.1 = r.irGain.value ∧ v.2.1 = r.irPhase.value) ∧ (k.filter = .ok → v.2.2.1 = r.trim)
      ∧ v.2.2.2 = if k.offset = .ok then r.offset.value else t.offset := by
  dsimp only
  unfold changeValues
  dsimp only
  exact ⟨fun h => by rw [if_pos h]; exact ⟨rfl, rfl⟩, fun h => if_pos h, rfl⟩

theorem channelChangeDone_gives (t : DT) (n : Fin 4) (r : ChannelChange) (s : State) (c : Change) (p : Plan) (id : Nat) (h : Held)
    (hc : s.rf.tuners[n].change = some c) (hp : s.rf.tuners[n].plan = some p) (hst : s.rf.tuners[n].st = .rx)
    (hx : excluded s.rf.tuners[n] (changeBand s.rf.tuners[n] c p r) = false) (hid : c.cmd = some id) (hh : findHeld id s = some h) :
    let k := judgedChange r
    Gives (.channelChangeDone t n r) s fun u => ∃ v, u = finish h .ok (changeResult (h.op == 0x0303) c k v) v
      ∧ settled v.rf.tuners[n] = true ∧ v.rf.tuners[n].recallDirty = true
      ∧ (v.rf.tuners[n].recalls.head?.map (·.plan)) = some p
      ∧ (c.fromTable = false → r.band ∈ searchBands s.rf.tuners[n] p → v.rf.tuners[n].band = r.band.val)
      ∧ (k.image = .ok → v.rf.tuners[n].irGain = r.irGain.value ∧ v.rf.tuners[n].irPhase = r.irPhase.value
          ∧ r.irGain.value.natAbs ≤ 1000 ∧ r.irPhase.value.natAbs ≤ 5000)
      ∧ (k.filter = .ok → v.rf.tuners[n].trim = r.trim ∧ v.rf.tuners[n].bandwidth = r.bandwidth.value ∧ r.bandwidth.value.natAbs ≤ 1500)
      ∧ (v.rf.tuners[n].offset = if k.offset = .ok then r.offset.value else s.rf.tuners[n].offset)
      ∧ (k.offset = .ok → r.offset.value.natAbs ≤ 200) := by
  intro k
  rw [← moment_rf t s] at hc hp hst hx ⊢
  rw [← findHeld_moment id t s] at hh
  obtain ⟨himage, hfilter, hoffset⟩ := judgedChange_limits r
  obtain ⟨vimage, vfilter, voffset⟩ := changeValues_of_ok n (moment t s).rf.tuners[n] c p r k
  have hexec : ∃ v, exec (.channelChangeDone t n r) s = .next (finish h .ok (changeResult (h.op == 0x0303) c k v) v)
      ∧ ∃ e : Recall, v.rf.tuners[n] = (moment t s).rf.tuners[n].changed (changeBand (moment t s).rf.tuners[n] c p r)
          (changeValues n (moment t s).rf.tuners[n] c p r k) k r e ∧ e.plan = p := by
    show ∃ v, Host.Outcome.next _ = _ ∧ _
    rw [hc, hp]
    dsimp only
    rw [if_neg (by rw [hst, hx]; exact Bool.false_ne_true), hid]
    unfold findHeld at hh
    by_cases hk : (judgedChange r).image = .ok
    · simp only [if_pos hk, findHeld, modFiring_host, restartPeriod_l_hheld, modTuner_host, hh]
      refine ⟨_, rfl, ?_⟩
      simp only [modFiring_rf, restartPeriod_l_rf, modTuner_rf, upd_get_self]
      exact ⟨_, rfl, rfl⟩
    · simp only [if_neg hk, findHeld, modTuner_host, hh]
      refine ⟨_, rfl, ?_⟩
      simp only [modTuner_rf, upd_get_self]
      exact ⟨_, rfl, rfl⟩
  obtain ⟨v, hv, e, htuner, he⟩ := hexec
  refine gives hv ⟨v, rfl, ?_⟩
  rw [htuner]
  refine ⟨?_, rfl, ?_, fun hf hb => changeBand_search hf hb, fun hk => ?_, fun hk => ?_, voffset, hoffset⟩
  · simp only [settled, Tuner.changed, hst]
    rfl
  · simp only [Tuner.changed, writeRecall, List.head?_cons, Option.map_some, he]
  · exact ⟨(vimage hk).1, (vimage hk).2, himage hk⟩
  · exact ⟨vfilter hk, if_pos hk, hfilter hk⟩

/-- A search reads the band table alone. -/
theorem searchStart_congr {t u : Tuner} (h : t.bands = u.bands) (p : Plan) : searchStart t p = searchStart u p := by
  unfold searchStart
  simp only [h]

/-- Without the recall table the synthesiser starts at the search's first band. -/
theorem synthStart_band {t : Tuner} {c : Change} {p : Plan} {k : Fin 64} (hc : t.change = some c) (hf : c.fromTable = false)
    (hp : t.plan = some p) (hk : searchStart t p = some k) : t.synthStart.band = k.val := by
  simp only [Tuner.synthStart, hc, hp, hf, hk, Bool.false_eq_true, if_false]

theorem recallLockTimeout_gives (t : DT) (n : Fin 4) (s : State) (hst : s.rf.tuners[n].st = .synth) :
    Gives (.recallLockTimeout t n) s fun u =>
      u.rf.tuners[n] = Tuner.synthStart { s.rf.tuners[n] with change := s.rf.tuners[n].change.map fun c => { c with fromTable := false } }
        ∧ ∀ c p k, s.rf.tuners[n].change = some c → s.rf.tuners[n].plan = some p → searchStart s.rf.tuners[n] p = some k →
            u.rf.tuners[n].band = k.val := by
  rw [← moment_rf t s] at hst ⊢
  refine gives (congrArg Host.Outcome.next (if_pos hst)) ?_
  simp only [modTuner_rf, upd_get_self, true_and]
  intro c p k hc hp hk
  refine synthStart_band (c := { c with fromTable := false }) ?_ rfl hp ((searchStart_congr rfl p).trans hk)
  rw [hc]
  rfl

/-! ### Failure and retries (R117) -/

theorem tunerFailed_gives (t : DT) (n : Fin 4) (s : State)
    (hst : s.rf.tuners[n].st = .synth ∨ s.rf.tuners[n].st = .rx ∨ s.rf.tuners[n].st = .probe) :
    Gives (.tunerFailed t n) s fun u => u.rf.tuners[n].st = .failed := by
  rw [← moment_rf t s] at hst
  refine ⟨_, rfl, ?_⟩
  rw [if_neg (by obtain hst | hst | hst := hst <;> simp [-Fin.getElem_fin, -moment_rf, hst])]
  simp only [legalFault_l_rf, faultSherd_l_rf]
  refine (foldP (P := TunerAt n .failed none) (fun s p h => h.moveFrom (Or.inl rfl) p) _ _ ?_).1
  unfold TunerAt
  rw [abandonTunerFirings_l_tuners, finishAll_rf]
  simp only [modTuner_rf, upd_get_self]
  exact ⟨rfl, rfl⟩

theorem tunerRetry_gives (t : DT) (n : Fin 4) (pass : Bool) (s : State) (hst : s.rf.tuners[n].st = .failed)
    (ht : s.rf.tuners[n].target = none) (hr : s.rf.tuners[n].retest = none) : Gives (.tunerRetry t n pass) s fun u =>
      u.rf.tuners[n].st = (if pass then .standby else .failed) ∧ u.rf.tuners[n].retries = s.rf.tuners[n].retries + 1
        ∧ (pass = true → u.rf.tuners[n].unavailable = false) := by
  rw [← moment_rf t s] at hst ht hr ⊢
  refine ⟨_, rfl, ?_⟩
  rw [hr]
  dsimp only
  rw [if_pos (by rw [hst, ht]; rfl)]
  cases pass
  · simp only [Bool.false_eq_true, if_false, modTuner_rf, upd_get_self, hst, false_implies, and_self]
  · simp only [if_true, modTuner_rf, upd_get_self, implies_true, and_self]

/-- Settles O26: one law for each command and event of a tuner's states. -/
theorem tunersChangeState : Obligations.TunersChangeState :=
  ⟨rfPtState_does, tunerTransitionDone_gives, rfPtTune_does, channelChangeDone_gives, recallLockTimeout_gives, tunerFailed_gives,
    tunerRetry_gives⟩

end Sys2Proof.Machine

/-! ## Tables and probes of a tuner (R106, R107, R118 to R121)

A path without a swap leaves HOLD and no command ends with that; with the facts about a tuner that rests, the laws of the probe follow.
-/
namespace Sys2Proof.Machine

/-! ### Paths without a swap -/

/-- No path has a swap in progress or queued, and the held commands are `l`. -/
def NoSwaps (l : List Held) (s : State) : Prop :=
  (∀ p : Fin 64, s.cx.paths[p].fade = none ∧ s.cx.paths[p].queued = none) ∧ s.host.held = l

section
variable {l : List Held} {s : State}

theorem NoSwaps.modPath (h : NoSwaps l s) (q : Fin 64) {f : Path → Path}
    (hf : ∀ x, x.fade = none → x.queued = none → (f x).fade = none ∧ (f x).queued = none) : NoSwaps l (modPath q f s) := by
  refine ⟨fun p => ?_, h.2⟩
  simp only [modPath_cx, upd_get]
  split
  · exact hf _ (h.1 p).1 (h.1 p).2
  · exact h.1 p

theorem NoSwaps.of_parts {t : State} (h : NoSwaps l s) (hp : t.cx.paths = s.cx.paths) (hh : t.host.held = s.host.held) : NoSwaps l t := by
  unfold NoSwaps
  rw [hp, hh]
  exact h

theorem NoSwaps.accrue (h : NoSwaps l s) : NoSwaps l (accrue s) :=
  ⟨fun p => by rw [accrue_path_fade, accrue_path_queued]; exact h.1 p, (hh_accrue s).trans h.2⟩

theorem restartMpx_paths (p : Fin 64) (s : State) : (restartMpx p s).cx.paths = s.cx.paths ∧ (restartMpx p s).host = s.host := by
  unfold restartMpx
  split
  · split <;> exact ⟨rfl, rfl⟩
  · exact ⟨rfl, rfl⟩

theorem NoSwaps.gridPhase (h : NoSwaps l s) (p : Fin 64) : NoSwaps l (gridPhase p s) := by
  unfold Sys2Proof.Machine.gridPhase
  split
  · split
    · exact (h.modPath p (f := fun x => { x with phase := (freeNow s % 2 ^ 48).toNat }) fun _ hf hq => ⟨hf, hq⟩).of_parts rfl rfl
    · exact h
  · exact h

/-- The swaps of a path that has none end no command. -/
theorem NoSwaps.endSwaps (h : NoSwaps l s) (p : Fin 64) : NoSwaps l (endSwaps p s) := by
  obtain ⟨hf, hq⟩ := h.1 p
  have hcmds : swapCmds s.cx.paths[p] = [] := by
    rw [swapCmds, hf, hq]
    rfl
  unfold Sys2Proof.Machine.endSwaps
  dsimp only
  rw [hcmds]
  exact h.modPath p fun _ _ _ => ⟨rfl, rfl⟩

theorem NoSwaps.resetPath (h : NoSwaps l s) (p : Fin 64) : NoSwaps l (resetPath p s) := by
  unfold Sys2Proof.Machine.resetPath
  dsimp only
  split
  · exact h
  · refine NoSwaps.gridPhase (NoSwaps.of_parts ?_ (restartMpx_paths ..).1 (congrArg HostIf.held (restartMpx_paths ..).2)) p
    refine NoSwaps.of_parts ?_ (loseSignal_l_paths ..) (loseSignal_l_hheld ..)
    refine NoSwaps.accrue (NoSwaps.endSwaps (NoSwaps.modPath h p ?_) p)
    exact fun _ hf hq => ⟨hf, hq⟩

theorem NoSwaps.takeLength (h : NoSwaps l s) (p : Fin 64) : NoSwaps l (takeLength p s) := by
  unfold Sys2Proof.Machine.takeLength
  split
  · dsimp only
    split
    · exact h
    · refine NoSwaps.modPath h p ?_
      exact fun _ hf hq => ⟨hf, hq⟩
  · exact h

theorem NoSwaps.resumePath (h : NoSwaps l s) (p : Fin 64) : NoSwaps l (resumePath p s) := by
  unfold Sys2Proof.Machine.resumePath
  split
  · refine NoSwaps.resetPath (NoSwaps.modPath (h.takeLength p) p ?_) p
    exact fun _ hf hq => ⟨hf, hq⟩
  · exact h

end

/-! ### Tables (R106, R107, R441) -/

theorem rfPtBandtableLoad_does (e : Entry) (n : Fin 4) (hn : e.target.toNat = n.val) :
    Does (.rfPtBandtableLoad e) specRfPtBandtableLoad e fun h u t =>
      let a := Entry.args e
      ∃ v, t = finish h .ok [(16, 1, loadCount a)] v
        ∧ v.rf.tuners[n].bands = (List.range (loadCount a)).foldl (loadBand a) u.rf.tuners[n].bands := by
  refine does_of (fun _ => rfl) fun h u he _ => ?_
  subst he
  unfold doRfPtBandtableLoad
  rw [tunerOf_eq hn]
  refine ⟨_, rfl, ?_⟩
  simp only [modTuner_rf, upd_get_self]

theorem rfPtRecallRead_does (e : Entry) (n : Fin 4) (hn : e.target.toNat = n.val) :
    Does (.rfPtRecallRead e) specRfPtRecallRead e fun h u t =>
      t = finishOut h .ok (if le (Entry.args e) 12 1 = 0 then fit 4096 (u.rf.tuners[n].recalls.flatMap recallBytes)
        else (entries u.rf.tuners[n].bands).flatMap fun x => bandBytes x.1.val x.2) none u := by
  refine does_of (fun _ => rfl) fun h u he _ => ?_
  subst he
  unfold doRfPtRecallRead
  rw [tunerOf_eq hn]

/-- What is asked of the vault waits there, or waited already. -/
theorem askStore_waits (item : VaultItem) (s : State) :
    ((askStore item none s).mnt.stores ++ (askStore item none s).mnt.stalled).any (fun x => x.1 == item) = true := by
  unfold askStore
  split
  case isTrue h =>
    obtain ⟨x, hx, hi⟩ := List.any_eq_true.mp h
    exact List.any_eq_true.mpr ⟨x, hx, (Bool.and_eq_true_iff.mp hi).1⟩
  · split <;> simp

theorem recallTableSave_gives (t : DT) (n : Fin 4) (s : State) (hd : s.rf.tuners[n].recallDirty = true) :
    Gives (.recallTableSave t n) s fun u =>
      u.rf.tuners[n].recallDirty = false ∧ (u.mnt.stores ++ u.mnt.stalled).any (fun x => x.1 == .recallTable n) = true := by
  rw [← moment_rf t s] at hd
  refine gives (congrArg Host.Outcome.next (if_pos hd)) ⟨?_, askStore_waits ..⟩
  simp only [askStore_l_rf, modTuner_rf, upd_get_self]

/-! ### Probes (R118 to R121) -/

theorem rfProbe_does (e : Entry) (n : Fin 4) (hn : e.target.toNat = n.val) : Does (.rfProbe e) specRfProbe e fun h u t =>
    let x := u.rf.tuners[n]
    2 * (fget (itemsOf h) 0x0601).natAbs ≤ (fget x.cfg 0x0403).toNat →
      ((x.st = .sleep ∨ x.st = .standby ∨ x.st = .failed) → t = reject h .errState u)
        ∧ (x.st ≠ .sleep → x.st ≠ .standby → x.st ≠ .failed → jobReadsTuner n u = false → t = park h [dtInt (now u)] u) := by
  refine does_of (fun _ => rfl) fun h u he _ => ?_
  subst he
  intro x hw
  unfold doRfProbe
  rw [tunerOf_eq hn]
  dsimp only
  rw [if_neg (Nat.not_lt.mpr hw)]
  refine ⟨fun hst => if_pos ?_, fun hs hb hf hj => ?_⟩
  · change (decide (x.st = _) || decide (x.st = _) || decide (x.st = _)) = true
    obtain hst | hst | hst := hst <;> rw [hst] <;> rfl
  · rw [if_neg ?_, if_neg (by rw [hj]; exact Bool.false_ne_true)]
    change ¬(decide (x.st = _) || decide (x.st = _) || decide (x.st = _)) = true
    rw [decide_eq_false hs, decide_eq_false hb, decide_eq_false hf]
    exact Bool.false_ne_true

theorem probeStart_gives (t : DT) (n : Fin 4) (s : State) (h : Held) (l : List Held) : let m := moment t s
    waiting 0x0306 n.val m = h :: l → settled s.rf.tuners[n] = true → jobReadsTuner n m = false → tunerFires n m = false →
    Gives (.probeStart t n) s fun u => u.rf.tuners[n].st = .probe ∧ u.rf.tuners[n].probe = some (h.id, itemsOf h, true) := by
  intro m hw hs hj hf
  rw [← moment_rf t s] at hs
  refine ⟨_, rfl, ?_⟩
  rw [show waiting 0x0306 n.val (moment t s) = h :: l from hw]
  dsimp only
  rw [if_pos (by rw [hs, show jobReadsTuner n (moment t s) = false from hj, show tunerFires n (moment t s) = false from hf]; rfl)]
  refine foldP (P := TunerAt n .probe (some (h.id, itemsOf h, true))) (fun s p hp => hp.loseSource (Or.inr rfl) p) _ _ ?_
  unfold TunerAt
  simp only [note, modHeld_rf, modTuner_rf, upd_get_self, and_self]

/-- A tuner as its probe ends (R118 step 3): back in RX, or to the channel change that a context asked for meanwhile. -/
def Tuner.endProbe (t : Tuner) : Tuner :=
  if t.change.isSome then { t.synthStart with st := .synth, probe := none } else { t with st := .rx, probe := none }

theorem endProbe_keeps (x : Tuner) : x.endProbe.st = (if x.change.isSome then .synth else .rx) ∧ x.endProbe.probe = none := by
  unfold Tuner.endProbe
  split <;> exact ⟨rfl, rfl⟩

/-- The paths that a tuner feeds leave HOLD, unless it goes on with a channel change (R118 step 4). -/
def resumeFed (n : Fin 4) (s : State) : State :=
  if s.rf.tuners[n].st = .synth then s else (pathsOn (8 + n.val) s).foldl (fun s p => resumePath p s) s

theorem resumeFed_rf (n : Fin 4) (s : State) : (resumeFed n s).rf = s.rf := by
  unfold resumeFed
  split
  · rfl
  · exact fold_keep (g := State.rf) (fun s p => resumePath_l_rf p s) _ _

theorem NoSwaps.resumeFed {l : List Held} {s : State} (h : NoSwaps l s) (n : Fin 4) : NoSwaps l (resumeFed n s) := by
  unfold Sys2Proof.Machine.resumeFed
  split
  · exact h
  · exact foldP (P := NoSwaps l) (fun s p hs => hs.resumePath p) _ _ h

theorem probeEnd_gives (t : DT) (n : Fin 4) (measured leak : Int) (s : State) (id : Nat) (l : FieldSet) (h : Held)
    (hp : s.rf.tuners[n].probe = some (id, l, true)) (hh : findHeld id s = some h)
    (hq : ∀ p : Fin 64, s.cx.paths[p].fade = none ∧ s.cx.paths[p].queued = none) :
    Gives (.probeEnd t n measured leak) s fun u => ∃ v,
      u = finishAt h .ok (result (probeResult l measured leak)) [] (BitVec.ofInt 64 (h.aux.headD 0)) v
        ∧ v.rf.tuners[n].st = (if s.rf.tuners[n].change.isSome then .synth else .rx) ∧ v.rf.tuners[n].probe = none := by
  let m := modTuner n Tuner.endProbe (moment t s)
  have hm : m.rf.tuners[n] = s.rf.tuners[n].endProbe := by
    simp only [m, modTuner_rf, upd_get_self, moment_rf]
  have hn : NoSwaps s.host.held m := ⟨fun p => by simpa only [m, modTuner_cx, moment_path_fade, moment_path_queued] using hq p,
    (congrArg HostIf.held (modTuner_host ..)).trans (hh_moment ..)⟩
  have hfound : findHeld id (resumeFed n m) = some h := (findHeld_congr (hn.resumeFed n).2).trans hh
  refine ⟨_, rfl, resumeFed n m, ?_, ?_⟩
  · rw [moment_rf, hp]
    split
    case h_1 id' l' hsome =>
      cases hsome
      dsimp only
      split
      case h_1 h' hfound' =>
        cases hfound.symm.trans hfound'
        rfl
      case h_2 hnone => cases hnone.symm.trans hfound
    case h_2 hnot => exact absurd rfl (hnot id l)
  · rw [resumeFed_rf, hm]
    exact endProbe_keeps _

theorem probeWaitTimeout_gives (t : DT) (n : Fin 4) (s : State) (h : Held) (l : List Held) : let m := moment t s
    waiting 0x0306 n.val m = h :: l → Entry.hasDeadline h.entry = false → msDt 2 ≤ dtSince (BitVec.ofInt 64 (h.aux.getD 1 0)) (now m) →
    settled s.rf.tuners[n] = false → Gives (.probeWaitTimeout t n) s fun u => u = reject h .busyCalibrating m := by
  intro m hw hd hlong hs
  rw [← moment_rf t s] at hs
  refine ⟨_, rfl, ?_⟩
  rw [show waiting 0x0306 n.val (moment t s) = h :: l from hw]
  exact if_pos (by rw [hd, hs, decide_eq_true hlong]; rfl)

/-- Settles O27: what waits or goes on with a tuner is taken apart command by command (R106, R107, R118 to R121); a path without a swap
leaves HOLD without a command that ends, so the held probe is still found. -/
theorem tunerTablesAndProbes : Obligations.TunerTablesAndProbes :=
  ⟨rfPtBandtableLoad_does, rfPtRecallRead_does, recallTableSave_gives, rfProbe_does, probeStart_gives, probeEnd_gives,
    probeWaitTimeout_gives⟩

end Sys2Proof.Machine

/-! ## The Slip (R122 to R126, R128)

`takes_*` say what a set of fields makes of the Slip, `applySlip_*` how the command is judged with it; the rest follows the events in
turn.
-/
namespace Sys2Proof.Machine

/-! ### RF_SLIP_CONFIG (R123 to R126) -/

theorem SlipSt.take_sets (x : SlipSt) (cfg shadow : FieldSet) (commit : Bool) :
    (x.take cfg shadow commit).cfg = cfg ∧ (x.take cfg shadow commit).shadow = shadow := by
  unfold SlipSt.take
  dsimp only
  split
  · exact ⟨rfl, rfl⟩
  · split <;> split <;> try split
    all_goals exact ⟨rfl, rfl⟩

/-- A commit by a Slip that the host may have gives it the owner and the emission of its MODE (R126). -/
theorem SlipSt.take_operates {x : SlipSt} (ho : x.owner = .host ∨ x.owner = .nobody) (cfg shadow : FieldSet) :
    (x.take cfg shadow true).owner = (if fget cfg 0x0605 = 0 then .nobody else .host)
      ∧ (x.take cfg shadow true).emitting = (fget cfg 0x0605 == 1)
      ∧ (fget cfg 0x0605 = 2 → (x.take cfg shadow true).learnCount = 0) := by
  unfold SlipSt.take
  dsimp only
  have hmay : (decide (x.owner = .host) || decide (x.owner = .nobody)) = true := by simpa using ho
  rw [if_neg (by decide)]
  simp only [hmay, if_true]
  split
  · exact ⟨rfl, rfl, fun _ => rfl⟩
  case isFalse h2 => split <;> exact ⟨rfl, rfl, fun h => absurd h h2⟩

/-- How a committed RF_SLIP_CONFIG is judged with the values it would leave (R124 to R126). -/
theorem applySlip_judges (h : Held) (u : State) :
    let x := u.rf.slip
    let sets := applyItems h (x.cfg, x.shadow)
    (slipRefused sets.1 u = some .errParam → applySlip u h = fail h .errParam (itemAt 0x0607 h) .outOfRange u)
      ∧ (slipRefused sets.1 u = some .errState → applySlip u h = reject h .errState u)
      ∧ (slipRefused sets.1 u = none → commits h = true →
          (x.owner = .host ∨ (x.owner = .nobody ∧ (slipDue u = false ∨ fget sets.1 0x0605 = 0))) → ∃ v, applySlip u h = finishC h v
          ∧ v.rf.slip.cfg = sets.1 ∧ v.rf.slip.shadow = sets.2
          ∧ v.rf.slip.owner = (if fget sets.1 0x0605 = 0 then .nobody else .host) ∧ v.rf.slip.emitting = (fget sets.1 0x0605 == 1)
          ∧ (fget sets.1 0x0605 = 2 → v.rf.slip.learnCount = 0))
      ∧ (slipRefused sets.1 u = none → commits h = true → fget sets.1 0x0605 ≠ 0 →
          (x.owner = .saggar ∨ (x.owner = .nobody ∧ slipDue u = true)) → applySlip u h = deferCmd h [(24, 8, freeNow u)] (useFree u)) := by
  intro x sets
  have hs : sets = applyItems h (u.rf.slip.cfg, u.rf.slip.shadow) := rfl
  unfold applySlip
  dsimp only
  rw [← hs]
  refine ⟨fun he => ?_, fun he => ?_, fun hn hc ho => ?_, fun hn hc hm ho => ?_⟩
  · rw [he]
    exact if_pos rfl
  · rw [he]
    exact if_neg (by decide)
  · rw [hn]
    dsimp only
    rw [if_neg, hc]
    · have hown : u.rf.slip.owner = .host ∨ u.rf.slip.owner = .nobody := ho.imp_right And.left
      refine ⟨_, rfl, ?_⟩
      simp only [modSlip_rf]
      exact ⟨(SlipSt.take_sets ..).1, (SlipSt.take_sets ..).2, SlipSt.take_operates hown _ _⟩
    · obtain ho | ⟨ho, hd⟩ := ho
      · rw [show u.rf.slip.owner = _ from ho]
        simp
      · rw [show u.rf.slip.owner = _ from ho]
        obtain hd | hd := hd <;> simp [hd]
  · rw [hn]
    dsimp only
    rw [if_pos]
    · unfold slipStart
      dsimp only
      obtain ho | ⟨ho, -⟩ := ho <;> rw [show u.rf.slip.owner = _ from ho]
    · rw [hc, bne_iff_ne.mpr hm]
      obtain ho | ⟨ho, hd⟩ := ho <;> rw [show u.rf.slip.owner = _ from ho]
      · rfl
      · rw [hd]
        rfl

theorem rfSlipConfig_does (e : Entry) : Does (.rfSlipConfig e) specRfSlipConfig e fun h u t =>
    let x := u.rf.slip
    let sets := applyItems h (x.cfg, x.shadow)
    (parked h = false → fget x.cfg 0x0605 ≠ 0 → t = park h [] u)
      ∧ ((parked h = false ∧ fget x.cfg 0x0605 = 0) ∨ (parked h = true ∧ waitingNow 0x0307 0 u = [h]) →
        (slipRefused sets.1 u = some .errParam → t = fail h .errParam (itemAt 0x0607 h) .outOfRange u)
        ∧ (slipRefused sets.1 u = some .errState → t = reject h .errState u)
        ∧ (slipRefused sets.1 u = none → commits h = true →
            (x.owner = .host ∨ (x.owner = .nobody ∧ (slipDue u = false ∨ fget sets.1 0x0605 = 0))) → ∃ v, t = finishC h v
            ∧ v.rf.slip.cfg = sets.1 ∧ v.rf.slip.shadow = sets.2
            ∧ v.rf.slip.owner = (if fget sets.1 0x0605 = 0 then .nobody else .host) ∧ v.rf.slip.emitting = (fget sets.1 0x0605 == 1)
            ∧ (fget sets.1 0x0605 = 2 → v.rf.slip.learnCount = 0))
        ∧ (slipRefused sets.1 u = none → commits h = true → fget sets.1 0x0605 ≠ 0 →
            (x.owner = .saggar ∨ (x.owner = .nobody ∧ slipDue u = true)) → t = deferCmd h [(24, 8, freeNow u)] (useFree u))) := by
  refine does_of (fun _ => rfl) fun h u _ _ => ?_
  unfold doRfSlipConfig
  refine ⟨fun hp hm => ?_, fun hw => ?_⟩
  · rw [if_neg (by rw [hp]; exact Bool.false_ne_true)]
    exact if_pos hm
  · have htaken : (if parked h then (waitingNow 0x0307 0 u).foldl applySlip u
        else if fget u.rf.slip.cfg 0x0605 ≠ 0 then park h [] u else applySlip u h) = applySlip u h := by
      obtain ⟨hp, hm⟩ | ⟨hp, hq⟩ := hw
      · rw [if_neg (by rw [hp]; exact Bool.false_ne_true), if_neg (not_not_intro hm)]
      · rw [if_pos hp, hq]
        rfl
    rw [htaken]
    exact applySlip_judges h u

/-- A field reads back what was written to it. -/
theorem fget_fset_same (set : FieldSet) (fid : Nat) (v : Int) : fget (fset set fid v) fid = v := by
  have hnone : (set.filter (·.1 != fid)).find? (·.1 == fid) = none := by simp
  unfold fget fset
  rw [List.find?_append, hnone]
  simp

/-! ### INJ_EN and the release to the Saggar (R123, R125, R459) -/

theorem injEnFall_gives (t : DT) (s : State) : Gives (.injEnFall t) s fun u => u.power.injEn = false
    ∧ (s.rf.slip.emitting = true → s.rf.slip.owner = .host → fget s.rf.slip.cfg 0x0606 = 0 →
        u.rf.slip.emitting = false ∧ u.rf.slip.owner = .nobody ∧ fget u.rf.slip.cfg 0x0605 = 0) := by
  refine ⟨_, rfl, ?_, fun he ho ht => ?_⟩
  · split <;> rfl
  · rw [if_pos (by simp [he, ho, ht])]
    exact ⟨rfl, rfl, fget_fset_same ..⟩

theorem slipSaggarRelease_gives (t : DT) (s : State) : Gives (.slipSaggarRelease t) s fun u =>
    (s.rf.slip.sgWaiting = true → u.rf.slip.owner = .saggar ∧ u.rf.slip.sgWaiting = false ∧ u.rf.slip.emitting = false)
      ∧ (s.rf.slip.sgWaiting = false → u = moment t s) := by
  rw [← moment_rf t s]
  refine ⟨_, rfl, fun hw => ?_, fun hw => ?_⟩
  · rw [if_neg (by rw [hw]; decide)]
    generalize moment t s = m at *
    have hrel (v : State) (hv : v.rf.slip = m.rf.slip) (x : SlipSt) (hx : x = v.rf.slip.release v.power.injEn) :
        x.owner = .saggar ∧ x.sgWaiting = false ∧ x.emitting = false := by
      rw [hx, hv]
      unfold SlipSt.release
      dsimp only
      rw [if_pos hw]
      exact ⟨rfl, rfl, rfl⟩
    refine hrel _ ?_ _ rfl
    split
    · dsimp only
      split <;> rfl
    · rfl
  · exact if_pos (by rw [hw]; rfl)

/-! ### Supervision (R126) -/

/-- A measurement leaves the Slip but for its last difference, its alarm and its level. -/
theorem supervisionResult_slip (level : Int) (s : State) : ∃ d a,
    (supervisionResult level s).rf.slip = { s.rf.slip with lastDiff := d, alarm := a, level := level } := by
  unfold supervisionResult
  dsimp only
  split <;> exact ⟨_, _, congrArg RfSt.slip (raise_rf ..)⟩

/-- With a baseline, the difference is taken from it and judged against the limit (R126). -/
theorem supervisionResult_of_baseline {b : Int} {s : State} (hb : s.rf.slip.baseline = some b) (level : Int) :
    let alarm := decide ((fget s.rf.slip.cfg 0x060B).toNat * 10 < (level - b).natAbs)
    (supervisionResult level s).rf.slip = { s.rf.slip with lastDiff := level - b, alarm := alarm, level := level }
      ∧ ∃ l, (supervisionResult level s).outbox = .supervision level (level - b) s.rf.slip.missed alarm :: l := by
  intro alarm
  unfold supervisionResult
  simp only [useFree_rf, hb]
  refine ⟨?_, _, rfl⟩
  rw [emit_rf, raise_rf]
  simp only [modSlip_rf, useFree_rf]
  rw [hb]

theorem SlipSt.learn_of_lt {x : SlipSt} (h : x.learnCount < 16) (level : Int) :
    (x.learn level).learnCount = x.learnCount + 1 ∧ (x.learn level).learnSum = x.learnSum + level
      ∧ (x.learn level).baseline = if x.learnCount = 15 then some (ratio (x.learnSum + level) 16) else x.baseline := by
  unfold SlipSt.learn
  rw [if_pos h]
  refine ⟨rfl, rfl, ?_⟩
  simp

/-- What a supervision period that counts makes of the state whose last measurement is noted as now. -/
def supervise (level : Int) (m : State) : State :=
  let v := modSlip (fun x => { x with lastAt := some (now m) }) m
  if m.rf.slip.owner != .host || jobReadsSide (fget m.rf.slip.cfg 0x0609).toNat m || !m.power.injEn then
    modSlip (fun x => { x with missed := x.missed + 1 }) v
  else if fget m.rf.slip.cfg 0x0605 = 2 then supervisionResult level (modSlip (fun x => x.learn level) v)
  else supervisionResult level v

theorem exec_supervisionPeriod (t : DT) (level : Int) (s : State) : exec (.supervisionPeriod t level) s = .next (
    let m := moment t s
    let mode := fget m.rf.slip.cfg 0x0605
    if mode < 2 || (mode = 2 && m.rf.slip.learnCount = 16) || m.power.st == .dormant || !supDue m then m else supervise level m) := rfl

theorem supervise_misses {level : Int} {m : State} (h : m.rf.slip.owner ≠ .host ∨ m.power.injEn = false) :
    (supervise level m).rf.slip = { m.rf.slip with missed := m.rf.slip.missed + 1, lastAt := some (now m) } := by
  unfold supervise
  dsimp only
  rw [if_pos]
  · rfl
  · obtain h | h := h <;> simp [h]

/-- A period in which the Slip is the host's, may emit and disturbs no job is measured. -/
theorem supervise_measures {level : Int} {m : State} (ho : m.rf.slip.owner = .host) (hi : m.power.injEn = true)
    (hj : jobReadsSide (fget m.rf.slip.cfg 0x0609).toNat m = false) :
    let v := modSlip (fun x => { x with lastAt := some (now m) }) m
    supervise level m = if fget m.rf.slip.cfg 0x0605 = 2 then supervisionResult level (modSlip (fun x => x.learn level) v)
      else supervisionResult level v := by
  unfold supervise
  dsimp only
  rw [if_neg]
  simp [ho, hi, hj]

theorem supervisionPeriod_gives (t : DT) (level : Int) (s : State) : Gives (.supervisionPeriod t level) s fun u =>
    let x := s.rf.slip
    let mode := fget x.cfg 0x0605
    let m := moment t s
    (mode < 2 ∨ supDue m = false ∨ s.power.st = .dormant → u = m)
      ∧ (s.power.st ≠ .dormant → mode = 3 → supDue m = true → (x.owner ≠ .host ∨ s.power.injEn = false) →
          u.rf.slip = { x with missed := x.missed + 1, lastAt := some (now m) })
      ∧ (s.power.st ≠ .dormant → mode = 3 → supDue m = true → x.owner = .host → s.power.injEn = true →
          jobReadsSide (fget x.cfg 0x0609).toNat (moment t s) = false → ∀ b, x.baseline = some b →
          let alarm := decide ((fget x.cfg 0x060B).toNat * 10 < (level - b).natAbs)
          u.rf.slip.lastDiff = level - b ∧ u.rf.slip.level = level ∧ u.rf.slip.alarm = alarm ∧ u.rf.slip.missed = x.missed
            ∧ ∃ l, u.outbox = .supervision level (level - b) x.missed alarm :: l)
      ∧ (s.power.st ≠ .dormant → mode = 2 → supDue m = true → x.owner = .host → s.power.injEn = true →
          jobReadsSide (fget x.cfg 0x0609).toNat (moment t s) = false → x.learnCount < 16 →
          u.rf.slip.learnCount = x.learnCount + 1 ∧ u.rf.slip.learnSum = x.learnSum + level
            ∧ u.rf.slip.baseline = if x.learnCount = 15 then some (ratio (x.learnSum + level) 16) else x.baseline) := by
  rw [← moment_rf t s, ← moment_power t s]
  refine ⟨_, exec_supervisionPeriod t level s, ?_⟩
  generalize moment t s = m
  intro x mode m'
  have hx : m.rf.slip = x := rfl
  have hm' : m' = m := rfl
  dsimp only
  rw [hm', hx, show fget x.cfg 0x0605 = mode from rfl]
  refine ⟨fun h => ?_, fun hs hm hd h => ?_, fun hs hm hd ho hi hj b hb => ?_, fun hs hm hd ho hi hj hc => ?_⟩
  · rw [if_pos]
    obtain h | h | h := h <;> simp [h]
  · rw [if_neg (by simp [hs, hm, hd]), supervise_misses h]
  · rw [if_neg (by simp [hs, hm, hd]), supervise_measures ho hi hj, if_neg (by rw [show fget m.rf.slip.cfg 0x0605 = 3 from hm]; decide)]
    obtain ⟨hslip, l, hout⟩ := supervisionResult_of_baseline
      (s := modSlip (fun x => { x with lastAt := some (now m) }) m) (b := b) hb level
    rw [hslip]
    exact ⟨rfl, rfl, rfl, rfl, l, hout⟩
  · rw [if_neg (by simp [hs, hm, hd]; omega), supervise_measures ho hi hj, if_pos hm]
    obtain ⟨d, a, hslip⟩ := supervisionResult_slip level
      (modSlip (fun x => x.learn level) (modSlip (fun x => { x with lastAt := some (now m) }) m))
    rw [hslip]
    exact SlipSt.learn_of_lt (x := { m.rf.slip with lastAt := some (now m) }) hc level

/-- Settles O28: RF_SLIP_CONFIG is judged by the values it would leave (log entry 69 for the firing that comes first, 70 for a tone outside
the passband), the fall of INJ_EN leaves MODE OFF and no owner (log entry 72), and a supervision period counts, misses or measures. -/
theorem slipIsSharedAndSupervises : Obligations.SlipIsSharedAndSupervises :=
  ⟨rfSlipConfig_does, injEnFall_gives, slipSaggarRelease_gives, supervisionPeriod_gives⟩

end Sys2Proof.Machine

/-! ## The interval counts of class 6 (R29, R32)

Only what a path delivers or settles, and the running DT, move the row of class 6: entries, buffers and Sherds leave it as it is.
-/
namespace Sys2Proof.Machine

/-- The ledger row of class 6, the output intervals. -/
def row6 (s : State) : LedgerRow := s.host.ledger[(6 : Fin 9)]

section
variable (s : State)

theorem row6_congr {t : State} (h : t.host.ledger = s.host.ledger) : row6 t = row6 s := by rw [row6, h, row6]

theorem row6_settle_ne {c : Fin 9} (hc : c ≠ 6) (n : Nat) : row6 (settle c n s) = row6 s := (settle_ledger ..).trans (if_neg hc)

theorem row6_post_ne {c : Fin 9} (hc : c ≠ 6) (n : Nat) : row6 (post c n s) = row6 s := (post_ledger ..).trans (if_neg hc)

theorem row6_settle (n : Nat) : row6 (settle 6 n s) = (row6 s).settle n := (settle_ledger ..).trans (if_pos rfl)

theorem row6_post (n : Nat) : row6 (post 6 n s) = (row6 s).post n := (post_ledger ..).trans (if_pos rfl)

@[simp] theorem row6_emit (o : Out) : row6 (emit o s) = row6 s := rfl
@[simp] theorem row6_modPairq (q : Fin 32) (f : Pairq → Pairq) : row6 (modPairq q f s) = row6 s := rfl
@[simp] theorem row6_modRing (c : Fin 4) (f : RetRing → RetRing) : row6 (modRing c f s) = row6 s := rfl
@[simp] theorem row6_modPath (p : Fin 64) (f : Path → Path) : row6 (modPath p f s) = row6 s := rfl
@[simp] theorem row6_modMp (f : Mport → Mport) : row6 (modMp f s) = row6 s := rfl
@[simp] theorem row6_modCry (f : CrySt → CrySt) : row6 (modCry f s) = row6 s := rfl
@[simp] theorem row6_modVault (f : Vault → Vault) : row6 (modVault f s) = row6 s := rfl
@[simp] theorem row6_modKey (k : Fin 64) (f : Key → Key) : row6 (modKey k f s) = row6 s := rfl

/-! ### Entries and events -/

@[simp] theorem row6_sendMsix (v : Nat) : row6 (sendMsix v s) = row6 s := by
  unfold sendMsix
  split
  · rfl
  · split <;> rfl

@[simp] theorem row6_notifyRise (o : State) : row6 (notifyRise o s) = row6 s := by
  unfold notifyRise
  split <;> rfl

@[simp] theorem row6_signalCq (q : Fin 32) (e : Bool) : row6 (signalCq q e s) = row6 s := by
  unfold signalCq
  dsimp only
  split
  · rfl
  · split <;> simp

@[simp] theorem row6_signalRing (c : Fin 4) : row6 (signalRing c s) = row6 s := by
  unfold signalRing
  dsimp only
  split
  · exact row6_sendMsix ..
  · rfl

@[simp] theorem row6_settleEntry (e : CqEntry) : row6 (settleEntry e s) = row6 s := by
  unfold settleEntry
  split
  · exact row6_settle_ne _ (by decide) _
  · exact (row6_settle_ne _ (by decide) _).trans (row6_settle_ne _ (by decide) _)

@[simp] theorem row6_countEvent (e : CqEntry) : row6 (countEvent e s) = row6 s := by
  unfold countEvent
  split <;> rfl

@[simp] theorem row6_cqWrite (q : Fin 32) (e : CqEntry) : row6 (cqWrite q e s) = row6 s := by
  unfold cqWrite
  simp

@[simp] theorem row6_cqPush_event (q : Fin 32) (e : CqEntry) : row6 (cqPush q e none s) = row6 s := by
  unfold cqPush
  split
  · exact row6_cqWrite ..
  · rfl

@[simp] theorem row6_queueEvent (ev : Ev) (e : CqEntry) : row6 (queueEvent ev e s) = row6 s := by
  unfold queueEvent
  dsimp only
  split
  · exact row6_cqPush_event ..
  · split <;> rfl

@[simp] theorem row6_raise (ev : Ev) (fs : List (Nat × Nat × Int)) : row6 (raise ev fs s) = row6 s := by
  unfold raise raiseAt
  split
  · rfl
  · exact (row6_notifyRise ..).trans (row6_queueEvent ..)

/-! ### Records in the buffers -/

theorem bufRow_ne (c : Fin 4) : bufRow c ≠ 6 := by
  revert c
  decide

@[simp] theorem row6_retWrite (c : Fin 4) (e : RetEntry) : row6 (retWrite c e s) = row6 s := by
  unfold retWrite
  dsimp only
  have h5 : (5 : Fin 9) ≠ 6 := by decide
  have h7 : (7 : Fin 9) ≠ 6 := by decide
  split <;> simp only [row6_settle_ne _ h7, row6_modCry, row6_signalRing, row6_settle_ne _ (bufRow_ne c), row6_settle_ne _ h5, row6_modRing,
    row6_emit]

@[simp] theorem row6_retPush (c : Fin 4) (e : RetEntry) : row6 (retPush c e s) = row6 s := by
  unfold retPush
  split
  · exact row6_retWrite ..
  · rfl

@[simp] theorem row6_returnBuffer (c : Fin 4) (st : Status) : row6 (returnBuffer c st s) = row6 s := by
  unfold returnBuffer
  split
  · exact row6_retPush ..
  · rfl

@[simp] theorem row6_putBytes (c : Fin 4) (d : List Byte) (n : Nat) : row6 (putBytes c d n s) = row6 s := by
  unfold putBytes
  split <;> rfl

@[simp] theorem row6_markSent (c : Fin 4) (r : Rec) : row6 (markSent c r s) = row6 s := by
  unfold markSent
  split <;> rfl

@[simp] theorem row6_takeOwed (c : Fin 4) (r : Rec) : row6 (takeOwed c r s).2 = row6 s := by
  unfold takeOwed
  split <;> rfl

@[simp] theorem row6_writeRec (c : Fin 4) (n : Nat) (r : Rec) : row6 (writeRec c n r s).1 = row6 s := by
  induction n generalizing r s with
  | zero => rfl
  | succ n ih =>
    unfold writeRec
    split
    · rfl
    · split
      · split
        · simp
        · rw [ih, row6_returnBuffer]
      · dsimp only
        repeat' split
        all_goals simp [ih]

@[simp] theorem row6_deliver (c : Fin 4) (x : Rec) : row6 (deliver c x s) = row6 s := by
  unfold deliver
  have hw := row6_writeRec s c (s.host.rings[c].buffers.length + 1) x
  split
  · split
    case h_1 t rest heq => exact (row6_modRing ..).trans ((congrArg (row6 ·.1) heq.symm).trans hw)
    case h_2 t heq => exact (congrArg (row6 ·.1) heq.symm).trans hw
  · rfl

/-! ### Sherds of the operational log -/

@[simp] theorem row6_formIn (d : List Byte) : row6 (formIn d s) = row6 s := by
  have hr : row6 (reserveSeq s) = row6 s := by
    unfold reserveSeq
    split
    · rfl
    · exact (row6_modVault ..).trans (row6_modCry ..)
  unfold formIn gapRecorded
  dsimp only
  have h7 : (7 : Fin 9) ≠ 6 := by decide
  split <;> simp only [row6_raise, row6_settle_ne _ h7, row6_post_ne _ h7, row6_modCry, hr]

theorem row6_makeRoom {s t : State} (h : makeRoom s = some t) : row6 t = row6 s := by
  unfold makeRoom at h
  split at h
  · cases h
    rfl
  · split at h <;> cases h
    rfl

@[simp] theorem row6_form (d : List Byte) : row6 (form d s) = row6 s := by
  unfold form
  split
  · rfl
  · split
    case h_1 t h => exact (row6_formIn ..).trans (row6_makeRoom h)
    case h_2 => rfl

@[simp] theorem row6_coverRun : row6 (coverRun s) = row6 s := by
  unfold coverRun
  split
  · exact row6_form ..
  · rfl

@[simp] theorem row6_useCounter (i : Fin 64) (k : Key) : row6 (useCounter i k s) = row6 s := by
  unfold useCounter
  dsimp only
  split <;> split <;> simp only [row6_form, row6_modKey]

@[simp] theorem row6_askStore (i : VaultItem) (c : Option Nat) : row6 (askStore i c s) = row6 s := by
  unfold askStore
  split
  · rfl
  · split <;> rfl

@[simp] theorem row6_tagLoop (n : Nat) : row6 (tagLoop n s) = row6 s := by
  induction n generalizing s with
  | zero => rfl
  | succ n ih =>
    unfold tagLoop
    dsimp only
    repeat' split
    all_goals simp [ih]

@[simp] theorem row6_formWaiting (n : Nat) : row6 (formWaiting n s) = row6 s := by
  induction n generalizing s with
  | zero => rfl
  | succ n ih =>
    unfold formWaiting
    split
    · rfl
    · split
      case h_1 t h => exact (ih _).trans ((row6_formIn ..).trans ((row6_modCry ..).trans (row6_makeRoom h)))
      case h_2 => rfl

@[simp] theorem row6_tagAll : row6 (tagAll s) = row6 s := by
  unfold tagAll
  dsimp only
  split <;> simp

@[simp] theorem row6_opSherd (type ctx : Nat) (start stop : DT) (payload : List Byte) : row6 (opSherd type ctx start stop payload s) = row6 s := by
  unfold opSherd writeSherd
  split
  · rfl
  · rw [row6_tagAll]
    split <;> simp

/-! ### Intervals settled and delivered -/

/-- The intervals of a path that are settled: what was due or is posted now is returned (R29). -/
theorem row6_settlePath (p : Fin 64) (n : Nat) : (row6 (settlePath p n s)).returned = (row6 s).returned + BitVec.ofNat 64 n := by
  unfold settlePath
  dsimp only
  rw [row6_modPath, row6_settle, row6_post]
  rfl

theorem row6_deliverIntervals (p : Fin 64) (n : Nat) :
    (row6 (deliverIntervals p n s)).returned = (row6 s).returned + BitVec.ofNat 64 n := by
  rw [deliverIntervals, row6_modPath, row6_settlePath]

theorem row6_closeGap {p : Fin 64} {g : DT} (hg : s.cx.paths[p].gapFrom = some g) (n : Nat) (last : DT) :
    (row6 (closeGap p n last s)).returned = (row6 s).returned + BitVec.ofNat 64 n := by
  unfold closeGap
  dsimp only
  rw [hg]
  refine (congrArg LedgerRow.returned (row6_opSherd ..)).trans ?_
  rw [row6_modPath, row6_settlePath]

end

end Sys2Proof.Machine

/-! ## Blocks, SYNC samples and CTX_SYNC (R29, R143 to R148)

`PathStep` lists what the samples that pass a path leave as it is; `closeGap_at` and `resetPath_*` say what the settling of a gap and
a synchronising reset do to a path.
-/
namespace Sys2Proof.Machine

/-! ### Samples through a path -/

theorem resampled_seq (x : Path) (l : List Nat) (phase residue made : Nat) :
    { x with phases := l, phase := phase, residue := residue, made := made }.seq = x.seq := rfl

theorem output_seq (n : Nat) (x : Path) : (x.output n).seq = x.seq := resampled_seq ..

theorem madeTo_seq (first n : Nat) (x : Path) : (x.madeTo first n).1.seq = x.seq := by
  unfold Path.madeTo
  split
  · exact output_seq ..
  · rfl

theorem foldl_feed_seq (l : List Sample) (x : Path) : (l.foldl (fun x m => x.feed m) x).seq = x.seq := by
  induction l generalizing x with
  | nil => rfl
  | cons m l ih => exact ih _

theorem outputs_seq {as : List Nat} {mid : List Sample} {x y : Path} {out : List Sample} (h : x.outputs as mid = some (y, out)) :
    y.seq = x.seq := by
  induction as generalizing mid x y out with
  | nil =>
    cases h
    rfl
  | cons a as ih =>
    unfold Path.outputs at h
    dsimp only at h
    split at h
    · cases h
    · split at h <;> cases h
      case h_1 hrest => exact (ih hrest).trans (foldl_feed_seq ..)

theorem detect_seq (x : Path) (stamp : DT) (m : Sample) : (x.detect stamp m).seq = x.seq := by
  unfold Path.detect
  dsimp only
  split <;> rfl

theorem foldl_detect_seq (x : Path) (n : Nat) (l : List (Sample × Nat)) (y : Path) :
    (l.foldl (fun y m => y.detect (stampOf x (n + m.2)) m.1) y).seq = y.seq := by
  induction l generalizing y with
  | nil => rfl
  | cons m l ih => exact (ih _).trans (detect_seq ..)

/-- A block counts itself and the blocks lost before it, and the next one begins 64 intervals after it (R143). -/
theorem makeBlock_counts {p : Nat} {stamp : DT} {mid : List Sample} {x y : Path} (h : x.makeBlock p stamp mid = some y) :
    let k := lostBlocks x stamp
    y.seq = x.seq + BitVec.ofNat 32 k + 1 ∧ y.next = dtAdd x.syncAt (outSpan (x.since + 64 * k + 64) x) := by
  unfold Path.makeBlock at h
  dsimp only at h
  split at h <;> cases h
  case h_1 z out hz =>
    refine ⟨?_, rfl⟩
    show (List.foldl _ _ _ : Path).seq + 1 = _
    rw [foldl_detect_seq]
    show z.seq + _ + 1 = _
    rw [outputs_seq hz, madeTo_seq]

theorem beginBlock_keeps {t stamp : DT} {mid : List Sample} {x y : Path} (h : x.begin_ t stamp mid = some y) :
    y.run = .running ∧ y.next = stamp ∧ y.opening = false := by
  unfold Path.begin_ at h
  dsimp only at h
  split at h
  · cases h
  · split at h <;> cases h
    exact ⟨rfl, rfl, rfl⟩

/-! ### The settling of a gap (R29, R146) -/

/-- What a gap record makes of its path: the gap is closed and its intervals are counted. -/
theorem closeGap_path {p : Fin 64} {s : State} {g : DT} (hg : s.cx.paths[p].gapFrom = some g) (n : Nat) (last : DT) :
    (closeGap p n last s).cx.paths[p].gapped = s.cx.paths[p].gapped + n ∧ (closeGap p n last s).cx.paths[p].gapFrom = none
      ∧ (closeGap p n last s).cx.paths[p].delivered = s.cx.paths[p].delivered := by
  unfold closeGap
  dsimp only
  rw [hg]
  simp only [gapSherd_cx, settlePath, modPath_cx, upd_get_self, settle, post, modRow_cx, and_self]

theorem closeGap_of_none {p : Fin 64} {s : State} (hg : s.cx.paths[p].gapFrom = none) (n : Nat) (last : DT) : closeGap p n last s = s := by
  unfold closeGap
  dsimp only
  rw [hg]

/-! ### Blocks (R143) -/

/-- The gap record of blocks lost before one, and the state in which the block is delivered (R32, R41). -/
def settleLost (p : Fin 64) (lost : Nat) (last : DT) (s : State) : State :=
  if lost = 0 then s else closeGap p lost last (modPath p (fun x => { x with gapFrom := some x.next }) s)

theorem settleLost_counts (p : Fin 64) (lost : Nat) (last : DT) (s : State) :
    (settleLost p lost last s).cx.paths[p].gapped = s.cx.paths[p].gapped + lost
      ∧ (settleLost p lost last s).cx.paths[p].delivered = s.cx.paths[p].delivered
      ∧ (row6 (settleLost p lost last s)).returned = (row6 s).returned + BitVec.ofNat 64 lost := by
  unfold settleLost
  split
  case isTrue h =>
    subst h
    exact ⟨rfl, rfl, (BitVec.add_zero _).symm⟩
  case isFalse h =>
    have hg : (modPath p (fun x => { x with gapFrom := some x.next }) s).cx.paths[p].gapFrom = some s.cx.paths[p].next := by
      simp only [modPath_cx, upd_get_self]
    obtain ⟨hgap, -, hdel⟩ := closeGap_path hg lost last
    refine ⟨hgap.trans ?_, hdel.trans ?_, (row6_closeGap _ hg lost last).trans ?_⟩
    · simp only [modPath_cx, upd_get_self]
    · simp only [modPath_cx, upd_get_self]
    · rw [row6_modPath]

theorem deliverIntervals_path (p : Fin 64) (n : Nat) (s : State) :
    (deliverIntervals p n s).cx.paths[p].delivered = s.cx.paths[p].delivered + n
      ∧ (deliverIntervals p n s).cx.paths[p].gapped = s.cx.paths[p].gapped := by
  simp only [deliverIntervals, settlePath, modPath_cx, upd_get_self, settle, post, modRow_cx, and_self]

theorem pathBlockOutput_gives (t : DT) (p : Fin 64) (stamp : DT) (mid : List Sample) (s : State) :
    Gives (.pathBlockOutput t p stamp mid) s fun u =>
      let m := moment t s
      let x := m.cx.paths[p]
      let k := lostBlocks x stamp
      (x.run = .running → x.makeBlock p.val stamp mid = none → u = m)
        ∧ (∀ y, x.run = .running → x.makeBlock p.val stamp mid = some y →
            u.cx.paths[p].seq = x.seq + BitVec.ofNat 32 k + 1 ∧ u.cx.paths[p].next = dtAdd x.syncAt (outSpan (x.since + 64 * k + 64) x)
            ∧ u.cx.paths[p].delivered = x.delivered + 64 ∧ u.cx.paths[p].gapped = x.gapped + 64 * k ∧ u.cx.paths[p].block = y.block
            ∧ u.host.ledger[(6 : Fin 9)].returned = s.host.ledger[(6 : Fin 9)].returned + BitVec.ofNat 64 (64 * k) + 64)
        ∧ (x.run ≠ .running → u = m) := by
  rw [← moment_returned t s]
  refine ⟨_, rfl, ?_⟩
  generalize moment t s = m
  dsimp only
  refine ⟨fun hr hn => ?_, fun y hr hy => ?_, fun hr => ?_⟩
  · rw [if_neg (by rw [hr]; decide), hn]
  · rw [if_neg (by rw [hr]; decide), hy]
    dsimp only
    generalize hlost : 64 * lostBlocks m.cx.paths[p] stamp = lost
    generalize hv : recordBlock p _ _ _ = v
    have hcx : v.cx = m.cx := by rw [← hv]; rfl
    have hrow : row6 v = row6 m := by rw [← hv]; rfl
    generalize hw : deliverIntervals p 64 _ = w
    have hw' : w = deliverIntervals p 64 (settleLost p lost (stampOf m.cx.paths[p] (m.cx.paths[p].since + lost)) v) := hw.symm
    obtain ⟨hgap, hdel, hret⟩ := settleLost_counts p lost (stampOf m.cx.paths[p] (m.cx.paths[p].since + lost)) v
    obtain ⟨hseq, hnext⟩ := makeBlock_counts hy
    obtain ⟨hdel', hgap'⟩ := deliverIntervals_path p 64 (settleLost p lost (stampOf m.cx.paths[p] (m.cx.paths[p].since + lost)) v)
    simp only [modPath_cx, upd_get_self]
    refine ⟨hseq, hlost ▸ hnext, ?_, ?_, trivial, ?_⟩
    · rw [hw', hdel', hdel, hcx]
    · rw [hw', hgap', hgap, hcx]
    · show (row6 w).returned = (row6 m).returned + _ + _
      rw [hw', row6_deliverIntervals, hret, hrow]
      rfl
  · exact if_pos (by simpa using hr)

/-! ### SYNC samples and the end of HOLD (R145 to R147) -/

/-- The gap that a path may have is closed and its intervals are counted (R146). -/
theorem closeGap_counts (p : Fin 64) (k : Nat) (last : DT) (s : State) :
    (closeGap p k last s).cx.paths[p].gapFrom = none
      ∧ (∀ g, s.cx.paths[p].gapFrom = some g → (closeGap p k last s).cx.paths[p].gapped = s.cx.paths[p].gapped + k)
      ∧ (s.cx.paths[p].gapFrom = none → (closeGap p k last s).cx.paths[p].gapped = s.cx.paths[p].gapped) := by
  cases hg : s.cx.paths[p].gapFrom with
  | none =>
    rw [closeGap_of_none hg]
    exact ⟨hg, fun _ h => (nomatch h), fun _ => rfl⟩
  | some g =>
    obtain ⟨hgap, hnone, -⟩ := closeGap_path hg k last
    exact ⟨hnone, fun _ _ => hgap, fun h => nomatch h⟩

theorem syncSample_gives (t : DT) (p : Fin 64) (given : DT) (mid : List Sample) (s : State) (hr : s.cx.paths[p].run = .withholding) :
    Gives (.syncSample t p given mid) s fun u =>
      let m := moment t s
      let x := m.cx.paths[p]
      let stamp := syncStamp x given
      ((x.catchUp (now m)).made < settling x → u = m)
        ∧ ((x.begin_ (now m) stamp mid).isSome = true →
            u.cx.paths[p].run = .running ∧ u.cx.paths[p].next = stamp ∧ u.cx.paths[p].opening = false ∧ u.cx.paths[p].gapFrom = none
            ∧ (∀ g, x.gapFrom = some g → u.cx.paths[p].gapped = x.gapped + dtSince g stamp * x.fout / 2 ^ 32)
            ∧ (x.gapFrom = none → u.cx.paths[p].gapped = x.gapped)) := by
  rw [← moment_path_run t s p] at hr
  refine ⟨_, rfl, ?_⟩
  generalize moment t s = m at hr ⊢
  dsimp only
  rw [if_neg (by rw [hr]; decide)]
  refine ⟨fun hshort => ?_, fun hsome => ?_⟩
  · have hnone : m.cx.paths[p].begin_ (now m) (syncStamp m.cx.paths[p] given) mid = none := by
      unfold Path.begin_
      exact if_pos hshort
    rw [hnone]
  · obtain ⟨y, hy⟩ := Option.isSome_iff_exists.mp hsome
    obtain ⟨hrun, hnext, hopen⟩ := beginBlock_keeps hy
    rw [hy]
    dsimp only
    simp only [syncCtx_l_paths, modPath_cx, upd_get_self]
    obtain ⟨hnone, hsome, hsame⟩ := closeGap_counts p (match m.cx.paths[p].gapFrom with
      | some g => dtSince g (syncStamp m.cx.paths[p] given) * m.cx.paths[p].fout / 2 ^ 32
      | none => 0) (syncStamp m.cx.paths[p] given) (tapCopy p (syncStamp m.cx.paths[p] given) mid m)
    refine ⟨hrun, hnext, hopen, hnone, fun g hg => (hsome g hg).trans ?_, hsame⟩
    rw [hg]
    rfl

/-! ### Synchronising resets (R139, R145 to R148) -/

/-- A change of one path, seen at any path. -/
theorem modPath_at (p q : Fin 64) (f : Path → Path) (s : State) :
    (modPath p f s).cx.paths[q] = if p = q then f s.cx.paths[q] else s.cx.paths[q] := by
  simp only [modPath_cx, upd_get]

theorem endSwaps_cx (p : Fin 64) (s : State) : (endSwaps p s).cx
    = (modPath p (fun x => { x with activeB := swapTarget s.cx.paths[p], fade := none, queued := none }) s).cx := by
  unfold endSwaps finishAll
  dsimp only
  exact fold_keep (g := State.cx) (fun s id => by rw [finishId_cx]) _ _

theorem endSwaps_paths (p q : Fin 64) (s : State) : (endSwaps p s).cx.paths[q].run = s.cx.paths[q].run
    ∧ (endSwaps p s).cx.paths[q].grid = s.cx.paths[q].grid ∧ (q ≠ p → (endSwaps p s).cx.paths[q] = s.cx.paths[q]) := by
  rw [endSwaps_cx, modPath_at]
  split
  case isTrue h => exact ⟨rfl, rfl, fun hq => absurd h.symm hq⟩
  case isFalse => exact ⟨rfl, rfl, fun _ => rfl⟩

theorem run_of_noDue {x y : Path} (h : x.noDue = y.noDue) : x.run = y.run := by
  have := congrArg Path.run h
  exact this

theorem accrue_noDue (s : State) (p : Fin 64) : (accrue s).cx.paths[p].noDue = s.cx.paths[p].noDue := by
  simp [accrue, post, Path.noDue, Fin.getElem_fin]

theorem gridPhase_paths (p q : Fin 64) (s : State) : (gridPhase p s).cx.paths[q].run = s.cx.paths[q].run
    ∧ (gridPhase p s).cx.paths[q].grid = s.cx.paths[q].grid ∧ (q ≠ p → (gridPhase p s).cx.paths[q] = s.cx.paths[q]) := by
  unfold gridPhase
  split
  · split
    · simp only [setPhase, useFree_cx, modPath_cx, upd_get]
      split
      case isTrue h =>
        subst h
        exact ⟨rfl, rfl, fun h => absurd rfl h⟩
      case isFalse => exact ⟨rfl, rfl, fun _ => rfl⟩
    · exact ⟨rfl, rfl, fun _ => rfl⟩
  · exact ⟨rfl, rfl, fun _ => rfl⟩

/-- A path after the zeroing of a reset. -/
def Path.restart (t : DT) (adj : Int) (x : Path) : Path := { (x.openGap.zeroed t adj) with run := .withholding, broken := true }

theorem restart_keeps (t : DT) (adj : Int) (x : Path) : (x.restart t adj).run = .withholding ∧ (x.restart t adj).grid = x.grid := by
  refine ⟨rfl, ?_⟩
  unfold Path.restart Path.zeroed Path.openGap
  dsimp only

/-- A synchronising reset: its path withholds, its grid and every other path stay as they are. -/
theorem resetPath_path {p : Fin 64} {s : State} (hc : s.cx.paths[p].run ≠ .closed) (hh : s.cx.paths[p].run ≠ .hold) (q : Fin 64) :
    (resetPath p s).cx.paths[q].grid = s.cx.paths[q].grid ∧ (q = p → (resetPath p s).cx.paths[q].run = .withholding)
      ∧ (q ≠ p → (resetPath p s).cx.paths[q].noDue = s.cx.paths[q].noDue) := by
  unfold resetPath
  dsimp only
  rw [if_neg (by simpa using And.intro hc hh)]
  obtain ⟨hrun, hgrid, hother⟩ := gridPhase_paths p q (restartMpx p (loseSignal p (accrue (endSwaps p
    (modPath p (Path.restart s.time.dt s.time.rateAdj) s)))))
  have hpaths : (restartMpx p (loseSignal p (accrue (endSwaps p (modPath p (Path.restart s.time.dt s.time.rateAdj) s))))).cx.paths
      = (accrue (endSwaps p (modPath p (Path.restart s.time.dt s.time.rateAdj) s))).cx.paths :=
    (restartMpx_paths ..).1.trans (loseSignal_l_paths ..)
  rw [hpaths] at hrun hgrid hother
  obtain ⟨hrun', hgrid', hother'⟩ := endSwaps_paths p q (modPath p (Path.restart s.time.dt s.time.rateAdj) s)
  rw [accrue_path_run, hrun', modPath_at] at hrun
  rw [accrue_path_grid, hgrid', modPath_at] at hgrid
  refine ⟨hgrid.trans ?_, fun hq => hrun.trans ?_, fun hq => (congrArg Path.noDue (hother hq)).trans ?_⟩
  · split
    · exact (restart_keeps ..).2
    · rfl
  · rw [if_pos hq.symm]
    exact (restart_keeps ..).1
  · rw [accrue_noDue, hother' hq, modPath_at, if_neg (Ne.symm hq)]

theorem resetPath_of_closed_or_hold {p : Fin 64} {s : State} (h : s.cx.paths[p].run = .closed ∨ s.cx.paths[p].run = .hold) :
    resetPath p s = s := by
  unfold resetPath
  exact if_pos (by obtain h | h := h <;> rw [h] <;> rfl)

theorem resetPath_grid (p q : Fin 64) (s : State) : (resetPath p s).cx.paths[q].grid = s.cx.paths[q].grid := by
  by_cases h : s.cx.paths[p].run = .closed ∨ s.cx.paths[p].run = .hold
  · rw [resetPath_of_closed_or_hold h]
  · obtain ⟨hc, hh⟩ := not_or.mp h
    exact (resetPath_path hc hh q).1

theorem resetPath_other {p q : Fin 64} (hq : q ≠ p) (s : State) : (resetPath p s).cx.paths[q].noDue = s.cx.paths[q].noDue := by
  by_cases h : s.cx.paths[p].run = .closed ∨ s.cx.paths[p].run = .hold
  · rw [resetPath_of_closed_or_hold h]
  · obtain ⟨hc, hh⟩ := not_or.mp h
    exact (resetPath_path hc hh q).2.2 hq

theorem resetPath_run {p : Fin 64} {s : State} (h : s.cx.paths[p].run = .running ∨ s.cx.paths[p].run = .withholding) :
    (resetPath p s).cx.paths[p].run = .withholding :=
  (resetPath_path (fun hc => by rw [hc] at h; revert h; decide) (fun hh => by rw [hh] at h; revert h; decide) p).2.1 rfl

theorem takeLength_run (p q : Fin 64) (s : State) : (takeLength p s).cx.paths[q].run = s.cx.paths[q].run := by
  unfold takeLength
  split
  · dsimp only
    split
    · rfl
    · simp only [modPath_cx, upd_get]
      split
      · subst q
        rfl
      · rfl
  · rfl

theorem pathSourceResume_gives (t : DT) (p : Fin 64) (s : State) (hr : s.cx.paths[p].run = .hold)
    (hd : delivers s.cx.paths[p].source s = true) (hb : s.time.bothLost = false) :
    Gives (.pathSourceResume t p) s fun u => u.cx.paths[p].run = .withholding := by
  have hd' : delivers (moment t s).cx.paths[p].source (moment t s) = true := by
    rw [moment_path_source]
    simpa only [delivers, moment_rf, moment_power, moment_time_bothLost, moment_cx_hops] using hd
  refine gives (congrArg Host.Outcome.next (if_pos (by rw [hd', moment_time_bothLost, hb]; rfl))) ?_
  unfold resumePath
  rw [if_pos (by rw [moment_path_run, hr]; rfl)]
  refine resetPath_run (Or.inl ?_)
  simp only [modPath_cx, upd_get_self]

/-! ### CTX_SYNC (R148, R160) -/

/-- The command is due on a path: its reset there has passed by more than one output period (R148). -/
def LateOn (p : Fin 64) (at_ : DT) (s : State) : Prop := resetDue p at_ s + (outSpan 1 s.cx.paths[p] : Int) < dtInt (now s)

/-- A path but for its due count and its grid. -/
def Path.noGrid (x : Path) : Path := { x.noDue with grid := none }

theorem pathsOf_congr {s t : State} (h : t.cx.ctxs = s.cx.ctxs) (c : Fin 64) : pathsOf c t = pathsOf c s := by rw [pathsOf, h, pathsOf]

theorem pathsOf_modCtx {f : Ctx → Ctx} (hf : ∀ x, (f x).primary = x.primary ∧ (f x).branch = x.branch) (d c : Fin 64) (s : State) :
    pathsOf c (modCtx d f s) = pathsOf c s := by
  simp only [pathsOf, modCtx_cx, upd_get]
  split
  · rw [(hf _).1, (hf _).2]
  · rfl

theorem pathsOf_resetPath (p c : Fin 64) (s : State) : pathsOf c (resetPath p s) = pathsOf c s := by
  have hgrid (v : State) : pathsOf c (gridPhase p v) = pathsOf c v := pathsOf_congr ((gridPhase_within p v).ctxs rfl) c
  have hmpx (v : State) : pathsOf c (restartMpx p v) = pathsOf c v := by
    unfold restartMpx
    split
    · split
      · refine pathsOf_modCtx ?_ ..
        exact fun _ => ⟨rfl, rfl⟩
      · rfl
    · rfl
  have hlose (v : State) : pathsOf c (loseSignal p v) = pathsOf c v := by
    unfold loseSignal
    split
    · split
      · refine pathsOf_modCtx ?_ ..
        exact fun _ => ⟨rfl, rfl⟩
      · rfl
    · rfl
  unfold resetPath
  dsimp only
  split
  · rfl
  · rw [hgrid, hmpx, hlose]
    refine pathsOf_congr ?_ c
    rw [accrue_l_ctxs, endSwaps_cx, modPath_cx, modPath_cx]

theorem resetDue_congr {s t : State} {p : Fin 64} (hx : t.cx.paths[p].noGrid = s.cx.paths[p].noGrid) (hrf : t.rf = s.rf)
    (hpair : t.pair = s.pair) (at_ : DT) : resetDue p at_ t = resetDue p at_ s ∧ outSpan 1 t.cx.paths[p] = outSpan 1 s.cx.paths[p] := by
  have hspan (n : Nat) (x : Path) : outSpan n x.noGrid = outSpan n x := rfl
  have hdue (x : Path) : tauPs x.noGrid = tauPs x ∧ x.noGrid.source = x.source ∧ settling x.noGrid = settling x := ⟨rfl, rfl, rfl⟩
  have hsrc (n : Nat) : sourceDelay n t = sourceDelay n s := by simp only [sourceDelay, carverGroupDelay, hrf, hpair]
  refine ⟨?_, by rw [← hspan 1 t.cx.paths[p], hx, hspan]⟩
  unfold resetDue
  dsimp only
  rw [hsrc, ← hspan (settling t.cx.paths[p]) t.cx.paths[p], ← (hdue t.cx.paths[p]).1, ← (hdue t.cx.paths[p]).2.1, ← (hdue t.cx.paths[p]).2.2, hx]
  rfl

/-- A path that runs as it did in `u`, or has made its reset. -/
structure RunsOrReset (p : Fin 64) (u s : State) : Prop where
  rf : s.rf = u.rf
  pair : s.pair = u.pair
  dt : s.time.dt = u.time.dt
  paths : ∀ c, pathsOf c s = pathsOf c u
  path : s.cx.paths[p].run = .withholding ∨ (s.cx.paths[p].run = .running ∧ s.cx.paths[p].noGrid = u.cx.paths[p].noGrid)

section
variable {p : Fin 64} {u s : State}

theorem RunsOrReset.resetPath (h : RunsOrReset p u s) (q : Fin 64) : RunsOrReset p u (resetPath q s) where
  rf := ((resetPath_within q s).rf_eq rfl rfl rfl rfl).trans h.rf
  pair := ((resetPath_within q s).pair rfl).trans h.pair
  dt := ((resetPath_within q s).dt rfl).trans h.dt
  paths := fun c => (pathsOf_resetPath q c s).trans (h.paths c)
  path := by
    by_cases hq : p = q
    · subst hq
      exact Or.inl (resetPath_run (h.path.symm.imp_left And.left))
    · have hsame := resetPath_other hq s
      have hrun : (Machine.resetPath q s).cx.paths[p].run = s.cx.paths[p].run := run_of_noDue hsame
      have hnoGrid : (Machine.resetPath q s).cx.paths[p].noGrid = s.cx.paths[p].noGrid :=
        congrArg (fun x : Path => { x with grid := none }) hsame
      rw [hrun, hnoGrid]
      exact h.path

/-- The resets of the paths of one context whose due instants have passed. -/
def resetLate (at_ : DT) (s : State) (q : Fin 64) : State :=
  if resetDue q at_ s + (outSpan 1 s.cx.paths[q] : Int) < dtInt (now s) then resetPath q s else s

theorem RunsOrReset.resetLate (h : RunsOrReset p u s) (at_ : DT) (q : Fin 64) : RunsOrReset p u (resetLate at_ s q) := by
  unfold Machine.resetLate
  split
  · exact h.resetPath q
  · exact h

/-- A path on which the command is late has made its reset after its turn. -/
theorem RunsOrReset.withholds (h : RunsOrReset p u s) {at_ : DT} (hlate : LateOn p at_ u) :
    (Machine.resetLate at_ s p).cx.paths[p].run = .withholding := by
  unfold Machine.resetLate
  obtain hw | ⟨hr, hx⟩ := h.path
  · split
    · exact resetPath_run (Or.inr hw)
    · exact hw
  · obtain ⟨hdue, hspan⟩ := resetDue_congr hx h.rf h.pair at_
    rw [if_pos]
    · exact resetPath_run (Or.inl hr)
    · rw [hdue, hspan, show now s = now u from h.dt]
      exact hlate

/-- Once reset, the path withholds through the resets that follow. -/
theorem withholds_resetLate (hw : s.cx.paths[p].run = .withholding) (at_ : DT) (q : Fin 64) :
    (Machine.resetLate at_ s q).cx.paths[p].run = .withholding := by
  unfold Machine.resetLate
  split
  · by_cases hq : p = q
    · subst hq
      exact resetPath_run (Or.inr hw)
    · have hrun : (resetPath q s).cx.paths[p].run = s.cx.paths[p].run := run_of_noDue (resetPath_other hq s)
      exact hrun.trans hw
  · exact hw

end

/-- A fold reaches what one of its elements brings about, if the elements after it keep it. -/
theorem foldl_reaches {α : Type} {f : State → α → State} {P Q : State → Prop} (hP : ∀ s a, P s → P (f s a))
    (hQ : ∀ s a, Q s → Q (f s a)) {a : α} (ha : ∀ s, P s → Q (f s a)) {l : List α} (hl : a ∈ l) {s : State} (h : P s) : Q (l.foldl f s) := by
  induction l generalizing s with
  | nil => cases hl
  | cons b l ih =>
    obtain hab | hl := List.mem_cons.mp hl
    · subst hab
      exact foldP hQ l (f s a) (ha s h)
    · exact ih hl (hP _ _ h)

theorem lateResets_of_lt (at_ : DT) (s : State) (c : Fin 64) : lateResets at_ s c.val = (pathsOf c s).foldl (resetLate at_) s := by
  unfold lateResets
  rw [idx_eq_some rfl]
  rfl

section
variable {p : Fin 64} {u s : State}

theorem RunsOrReset.lateResets (h : RunsOrReset p u s) (at_ : DT) (c : Nat) : RunsOrReset p u (lateResets at_ s c) := by
  unfold Machine.lateResets
  split
  · exact foldP (P := RunsOrReset p u) (fun s q hs => hs.resetLate at_ q) _ _ h
  · exact h

theorem withholds_lateResets (hw : s.cx.paths[p].run = .withholding) (at_ : DT) (c : Nat) :
    (lateResets at_ s c).cx.paths[p].run = .withholding := by
  unfold Machine.lateResets
  split
  · exact foldP (P := fun s => s.cx.paths[p].run = .withholding) (fun s q hs => withholds_resetLate hs at_ q) _ _ hw
  · exact hw

/-- A context's resets reach each of its paths on which the command is late. -/
theorem RunsOrReset.withholds_of_mem (h : RunsOrReset p u s) {at_ : DT} (hlate : LateOn p at_ u) {c : Fin 64} (hp : p ∈ pathsOf c u) :
    (Machine.lateResets at_ s c.val).cx.paths[p].run = .withholding := by
  rw [lateResets_of_lt, h.paths]
  exact foldl_reaches (P := RunsOrReset p u) (Q := fun s => s.cx.paths[p].run = .withholding)
    (fun s q hs => hs.resetLate at_ q) (fun s q hs => withholds_resetLate hs at_ q) (fun s hs => hs.withholds hlate) hp h

end

theorem lateResets_grid (at_ : DT) (s : State) (c : Nat) (p : Fin 64) : (lateResets at_ s c).cx.paths[p].grid = s.cx.paths[p].grid := by
  have hone (s : State) (q : Fin 64) : (resetLate at_ s q).cx.paths[p].grid = s.cx.paths[p].grid := by
    unfold resetLate
    split
    · exact resetPath_grid ..
    · rfl
  unfold lateResets
  split
  · exact fold_keep (f := resetLate at_) (g := fun s => s.cx.paths[p].grid) hone _ _
  · rfl

theorem syncs_of_rest {a b : CtxSt} (h : a.rest = b.rest) : a.syncs = b.syncs := by
  have := congrArg CtxSt.syncs h
  exact this

theorem lateResets_syncs (at_ : DT) (s : State) (c : Nat) : (lateResets at_ s c).cx.syncs = s.cx.syncs :=
  syncs_of_rest ((lateResets_within at_ s c).cx rfl)

/-- Whether a path is one of those that a context's number names. -/
def pathNamed (p : Fin 64) (s : State) (c : Nat) : Bool :=
  match idx 64 c with
  | some c => (pathsOf c s).contains p
  | none => false

theorem setGrid_grid (t : DT) (s : State) (c : Nat) (p : Fin 64) :
    (setGrid t s c).cx.paths[p].grid = if pathNamed p s c then some t else s.cx.paths[p].grid := by
  have hfold (l : List (Fin 64)) (v : State) : (l.foldl (fun s p => modPath p (fun x => { x with grid := some t }) s) v).cx.paths[p].grid
      = if l.contains p then some t else v.cx.paths[p].grid := by
    induction l generalizing v with
    | nil => rfl
    | cons q l ih =>
      rw [List.foldl_cons, ih, modPath_at, List.contains_cons]
      by_cases hq : p = q
      · simp [hq]
      · simp [hq, Ne.symm hq]
  unfold setGrid pathNamed
  cases idx 64 c with
  | some c => exact hfold (pathsOf c s) s
  | none => rfl

theorem setGrid_noGrid (t : DT) (s : State) (c : Nat) (p : Fin 64) :
    (setGrid t s c).cx.paths[p].run = s.cx.paths[p].run ∧ (setGrid t s c).cx.paths[p].noGrid = s.cx.paths[p].noGrid := by
  unfold setGrid
  split
  · refine foldP (P := fun v => v.cx.paths[p].run = s.cx.paths[p].run ∧ v.cx.paths[p].noGrid = s.cx.paths[p].noGrid)
      (fun v q hv => ?_) _ _ ⟨rfl, rfl⟩
    rw [modPath_at]
    split <;> exact hv
  · exact ⟨rfl, rfl⟩

theorem pathNamed_setGrid (t : DT) (s : State) (c d : Nat) (p : Fin 64) : pathNamed p (setGrid t s c) d = pathNamed p s d := by
  unfold pathNamed
  split
  · rw [pathsOf_congr (setGrid_l_ctxs t s c)]
  · rfl

theorem foldl_setGrid_grid (t : DT) (l : List Nat) (s : State) (p : Fin 64) :
    (l.foldl (setGrid t) s).cx.paths[p].grid = if l.any (pathNamed p s) then some t else s.cx.paths[p].grid := by
  induction l generalizing s with
  | nil => rfl
  | cons c l ih =>
    have hany : l.any (pathNamed p (setGrid t s c)) = l.any (pathNamed p s) :=
      congrArg l.any (funext fun d => pathNamed_setGrid t s c d p)
    rw [List.foldl_cons, ih, hany, setGrid_grid, List.any_cons]
    cases pathNamed p s c <;> cases l.any (pathNamed p s) <;> rfl

theorem ctxSync_does (e : Entry) : Does (.ctxSync e) specCtxSync e fun h u v =>
    let a := Entry.args e
    let l := syncCtxs a
    (l.all (namedOpen u) = false → v = reject h .errState u)
      ∧ (l.all (namedOpen u) = true → l.any (namedRead u) = false → l.all (· < 64) = true →
          v.cx.syncs = u.cx.syncs ++ [{ cmd := h.id, at_ := BitVec.ofNat 64 (le a 0 8), waiting := l, delivered := 0, left := 0 }]
            ∧ (∀ (c p : Fin 64), c.val ∈ l → p ∈ pathsOf c u → (u.cx.paths[p].run = .running ∨ u.cx.paths[p].run = .withholding) →
                resetDue p (BitVec.ofNat 64 (le a 0 8)) u + (outSpan 1 u.cx.paths[p] : Int) < dtInt (now u) →
                v.cx.paths[p].run = .withholding)
            ∧ ∀ p : Fin 64, v.cx.paths[p].grid = if l.any (pathNamed p u) then some (BitVec.ofNat 64 (le a 0 8)) else u.cx.paths[p].grid) := by
  refine does_of (fun _ => rfl) fun h u he _ => ?_
  subst he
  unfold doCtxSync
  dsimp only
  generalize BitVec.ofNat 64 (le (Entry.args h.entry) 0 8) = t
  generalize syncCtxs (Entry.args h.entry) = l
  refine ⟨fun ho => if_pos (by rw [ho]; rfl), fun ho hr hl => ?_⟩
  have hlocal : l.any (fun c => decide (64 ≤ c)) = false := by
    simp only [List.all_eq_true, List.any_eq_false, decide_eq_true_eq] at hl ⊢
    exact fun c hc => Nat.not_le.mpr (hl c hc)
  rw [if_neg (by rw [ho]; decide), if_neg (by rw [hr]; decide), if_neg (by rw [hlocal]; decide)]
  generalize hg : l.foldl (setGrid t) u = g
  generalize hv : begin_ h _ = v
  have hvcx : v.cx = { g.cx with syncs := g.cx.syncs ++ [{ cmd := h.id, at_ := t, waiting := l, delivered := 0, left := 0 }] } := by
    rw [← hv, begin__cx]
    rfl
  have hgsyncs : g.cx.syncs = u.cx.syncs := by
    rw [← hg]
    exact fold_keep (g := fun s => s.cx.syncs) (fun s c => syncs_of_rest ((setGrid_within t s c).cx rfl)) _ _
  have hgparts : g.rf = u.rf ∧ g.pair = u.pair ∧ g.time.dt = u.time.dt := by
    rw [← hg]
    exact foldP (P := fun v => v.rf = u.rf ∧ v.pair = u.pair ∧ v.time.dt = u.time.dt)
      (fun v c hv => ⟨((setGrid_within t v c).rf_eq rfl rfl rfl rfl).trans hv.1, ((setGrid_within t v c).pair rfl).trans hv.2.1,
        ((setGrid_within t v c).dt rfl).trans hv.2.2⟩) _ _ ⟨rfl, rfl, rfl⟩
  refine ⟨?_, fun c p hc hp hrun hlate => ?_, fun p => ?_⟩
  · rw [fold_keep (g := fun s => s.cx.syncs) (fun s c => lateResets_syncs t s c), hvcx, hgsyncs]
  · have hg' : g.cx.paths[p].run = u.cx.paths[p].run ∧ g.cx.paths[p].noGrid = u.cx.paths[p].noGrid := by
      rw [← hg]
      exact foldP (P := fun v => v.cx.paths[p].run = u.cx.paths[p].run ∧ v.cx.paths[p].noGrid = u.cx.paths[p].noGrid)
        (fun v c hv => ⟨(setGrid_noGrid t v c p).1.trans hv.1, (setGrid_noGrid t v c p).2.trans hv.2⟩) _ _ ⟨rfl, rfl⟩
    have hctxs : v.cx.ctxs = u.cx.ctxs := by
      rw [hvcx, ← hg]
      exact fold_keep (g := fun s => s.cx.ctxs) (fun s c => setGrid_l_ctxs t s c) _ _
    have hparts : v.rf = u.rf ∧ v.pair = u.pair ∧ v.time.dt = u.time.dt := by
      rw [← hv, begin__rf, begin__pair, begin__time]
      exact ⟨hgparts.1, hgparts.2.1, hgparts.2.2⟩
    have hpath : v.cx.paths = g.cx.paths := by rw [hvcx]
    have hstart : RunsOrReset p u v :=
      ⟨hparts.1, hparts.2.1, hparts.2.2, pathsOf_congr hctxs, by
        rw [hpath, hg'.1, hg'.2]
        exact hrun.symm.imp_right fun h => ⟨h, rfl⟩⟩
    exact foldl_reaches (P := RunsOrReset p u) (Q := fun s => s.cx.paths[p].run = .withholding)
      (fun s c hs => hs.lateResets t c) (fun s c hs => withholds_lateResets hs t c) (fun s hs => hs.withholds_of_mem hlate hp) hc hstart
  · rw [fold_keep (g := fun s => s.cx.paths[p].grid) (fun s c => lateResets_grid t s c p), hvcx, ← hg]
    exact foldl_setGrid_grid t l u p

theorem jobReadsPath_moment (p : Fin 64) (t : DT) (s : State) : jobReadsPath p (moment t s) = jobReadsPath p s := by
  rw [jobReadsPath, jobPaths_moment, jobReadsPath]

theorem ctxSyncReset_gives (t : DT) (p : Fin 64) (s : State) (g : DT) (hg : s.cx.paths[p].grid = some g)
    (ha : syncAwaits p (moment t s) = true) (hr : s.cx.paths[p].run = .running ∨ s.cx.paths[p].run = .withholding) :
    Gives (.ctxSyncReset t p) s fun u =>
      (resetMeets p g (moment t s) = true → jobReadsPath p s = false → u.cx.paths[p].run = .withholding)
        ∧ (resetMeets p g (moment t s) = false → u = moment t s) := by
  rw [← moment_path_grid t s p] at hg
  rw [← moment_path_run t s p] at hr
  rw [← jobReadsPath_moment p t s]
  refine ⟨_, rfl, ?_⟩
  generalize moment t s = m at hg hr ha ⊢
  rw [hg]
  dsimp only
  refine ⟨fun hm hj => ?_, fun hm => if_pos (by rw [hm]; simp)⟩
  rw [if_neg, if_neg (by rw [hj]; decide)]
  · exact resetPath_run hr
  · rw [ha, hm]
    obtain hr | hr := hr <;> rw [hr] <;> decide

/-- A CTX_SYNC that waits for one context alone ends as that context leaves it (R148). -/
theorem leaveSync_finishes {c : Nat} {s : State} {y : SyncCmd} {h : Held} (hs : s.cx.syncs = [y]) (hw : y.waiting = [c])
    (hh : findHeld y.cmd s = some h) : ∃ v, leaveSync c s
      = finish h .ok [(16, 1, y.delivered), (17, 1, (y.left + 1 : Nat)), (24, 8, dtInt y.at_)] v ∧ v.cx.syncs = [] := by
  let left := modCx (fun x => { x with syncs := [{ y with waiting := [], left := y.left + 1 }] }) s
  have hleft : modCx (fun x => { x with
      syncs := x.syncs.map fun y => if y.waiting.contains c then { y with waiting := y.waiting.erase c, left := y.left + 1 } else y }) s = left := by
    simp [left, modCx, hs, hw]
  refine ⟨modCx (fun x => { x with syncs := [] }) left, ?_, rfl⟩
  unfold leaveSync
  rw [hleft]
  exact finishId_eq ((findHeld_congr rfl).trans hh)

theorem ctxSyncHoldTimeout_gives (t : DT) (p : Fin 64) (s : State) (g : DT) (y : SyncCmd) (h : Held) (hg : s.cx.paths[p].grid = some g)
    (hr : s.cx.paths[p].run = .hold) (hs : s.cx.syncs = [y]) (hw : y.waiting = [s.cx.paths[p].ctx]) (hh : findHeld y.cmd s = some h)
    (hl : g.toNat + 10 * 2 ^ 32 ≤ (now (moment t s)).toNat) :
    Gives (.ctxSyncHoldTimeout t p) s fun u => ∃ v, u = finish h .ok [(16, 1, y.delivered), (17, 1, (y.left + 1 : Nat)), (24, 8, dtInt y.at_)] v
      ∧ v.cx.syncs = [] := by
  rw [← moment_path_grid t s p] at hg
  rw [← moment_path_run t s p] at hr
  rw [← moment_cx_syncs t s] at hs
  rw [← moment_path_ctx t s p] at hw
  rw [← findHeld_moment y.cmd t s] at hh
  refine ⟨_, rfl, ?_⟩
  generalize moment t s = m at *
  have hawaits : syncAwaits p m = true := by simp [syncAwaits, hg, hs, hw, -Fin.getElem_fin]
  rw [hg]
  dsimp only
  rw [if_pos (by rw [hr, hawaits, decide_eq_true hl]; rfl)]
  exact leaveSync_finishes hs hw hh

/-- Settles O29: blocks and SYNC samples by what they count, a reset by its path alone, CTX_SYNC by the resets that its late paths make
at once (log entry 99). -/
theorem pathsDeliverAndReset : Obligations.PathsDeliverAndReset :=
  ⟨pathBlockOutput_gives, syncSample_gives, pathSourceResume_gives, ctxSync_does, ctxSyncReset_gives, ctxSyncHoldTimeout_gives⟩

end Sys2Proof.Machine

/-! ## Coefficient banks, swaps and threshold comparators (R136 to R139, R149 to R152)
-/
namespace Sys2Proof.Machine

/-! ### Banks (R136) -/

theorem ctxCoefLoad_does (e : Entry) (c p : Fin 64) (l : List (Fin 64)) : Does (.ctxCoefLoad e) specCtxCoefLoad e fun h u t =>
    let a := Entry.args e
    let b := le a 0 1 == 1
    let coefs := (List.range (coefCount a)).map fun i => leInt a (8 + 4 * i) 4
    openCtx h u = some c → pathsNamed c (le a 1 1) u = some (p :: l) →
      (coefCount a ≠ u.cx.paths[p].firLen → t = fail h .errParam (Entry.offset e 2) .outOfRange u)
        ∧ (coefCount a = u.cx.paths[p].firLen → bankBusy b u.cx.paths[p] = true → t = reject h .errState u)
        ∧ (coefCount a = u.cx.paths[p].firLen → bankBusy b u.cx.paths[p] = false → ∃ v, t = finish h .ok [(16, 1, bit b)] v
            ∧ v.cx.paths[p] = if b then { u.cx.paths[p] with bankB := coefs } else { u.cx.paths[p] with bankA := coefs }) := by
  refine does_of (fun _ => rfl) fun h u he _ => ?_
  subst he
  intro a b coefs ho hp
  unfold doCtxCoefLoad
  dsimp only
  rw [ho]
  dsimp only
  rw [hp]
  refine ⟨fun hl => if_pos hl, fun hl hb => ?_, fun hl hb =>
    ⟨modPath p (fun x => if b then { x with bankB := coefs } else { x with bankA := coefs }) u, ?_, ?_⟩⟩
  · exact (if_neg (not_not_intro hl)).trans (if_pos hb)
  · exact (if_neg (not_not_intro hl)).trans (if_neg (by rw [hb]; decide))
  · rw [modPath_at, if_pos rfl]

/-! ### Swaps (R137, R138) -/

theorem ctxCoefSwap_does (e : Entry) (c p : Fin 64) (l : List (Fin 64)) : Does (.ctxCoefSwap e) specCtxCoefSwap e fun h u t =>
    let q : Swap := { target := fget (itemsOf h) 0x0704 == 1, len := (fget (itemsOf h) 0x0705).toNat, cmd := h.id }
    let x := u.cx.paths[p]
    openCtx h u = some c → pathsNamed c (itemArg8 (Entry.args e)) u = some (p :: l) →
      (x.fade = none → q.target = x.activeB → t = finish h .ok (swapResult x.activeB u) u)
        ∧ (x.fade = none → q.target ≠ x.activeB → t.cx.paths[p] = { x with fade := some (q, false) })
        ∧ (x.fade.isSome = true → t.cx.paths[p] = { x with queued := some q }) := by
  refine does_of (fun _ => rfl) fun h u he _ => ?_
  subst he
  intro q x ho hp
  unfold doCtxCoefSwap
  rw [ho]
  dsimp only
  rw [hp]
  show _ ∧ _ ∧ _
  unfold requestSwap
  dsimp only
  refine ⟨fun hf ht => ?_, fun hf ht => ?_, fun hf => ?_⟩
  · rw [if_neg (by rw [show u.cx.paths[p].fade = none from hf]; decide)]
    exact if_pos ht
  · rw [if_neg (by rw [show u.cx.paths[p].fade = none from hf]; decide), if_neg ht, park_l_cx, modPath_at, if_pos rfl]
  · rw [if_pos hf, park_l_cx, modPath_at, if_pos rfl]
    split
    · rw [finishId_cx]
    · rfl

theorem fadeStart_gives (t : DT) (p : Fin 64) (s : State) (q : Swap) (hf : s.cx.paths[p].fade = some (q, false))
    (hr : s.cx.paths[p].run = .running) : Gives (.fadeStart t p) s fun u =>
      u.cx.paths[p].fade = some (q, true) ∧ u.cx.paths[p].activeB = s.cx.paths[p].activeB := by
  rw [← moment_path_fade t s p] at hf
  rw [← moment_path_run t s p] at hr
  rw [← moment_path_activeB t s p]
  refine ⟨_, rfl, ?_⟩
  generalize moment t s = m at *
  rw [hf]
  dsimp only
  rw [if_pos (by rw [hr]; rfl), modHeld_cx, modPath_at, if_pos rfl]
  exact ⟨rfl, rfl⟩

theorem promoteSwap_of_none {p : Fin 64} {s : State} (hq : s.cx.paths[p].queued = none) :
    promoteSwap p s = modPath p (fun x => { x with fade := none }) s := by
  unfold promoteSwap
  dsimp only
  rw [hq]

/-- A queued swap takes its turn, or is over where its bank is active already (R138). -/
theorem promoteSwap_of_some {p : Fin 64} {s : State} {y : Swap} (hq : s.cx.paths[p].queued = some y) :
    (promoteSwap p s).cx.paths[p] = { s.cx.paths[p] with
      queued := none, fade := if y.target = s.cx.paths[p].activeB then none else some (y, false) } := by
  unfold promoteSwap
  dsimp only
  rw [hq]
  dsimp only
  by_cases ht : y.target = s.cx.paths[p].activeB
  · simp only [if_pos ht, finishId_cx, modPath_at, if_true]
  · simp only [if_neg ht, modPath_at, if_true]

theorem fadeEnd_gives (t : DT) (p : Fin 64) (s : State) (q : Swap) (h : Held) (hf : s.cx.paths[p].fade = some (q, true))
    (hr : s.cx.paths[p].run = .running) (hh : findHeld q.cmd s = some h) : Gives (.fadeEnd t p) s fun u =>
      let x := s.cx.paths[p]
      (x.fadePos < fadeSamples x q → u = moment t s) ∧ (fadeSamples x q ≤ x.fadePos → u.cx.paths[p].activeB = q.target
        ∧ (s.cx.paths[p].queued = none → u.cx.paths[p].fade = none ∧
            ∃ v, u = modPath p (fun x => { x with fade := none }) (finish h .ok (swapResult q.target v) v) ∧ v.time = (moment t s).time)
        ∧ (∀ y, s.cx.paths[p].queued = some y → u.cx.paths[p].queued = none
            ∧ u.cx.paths[p].fade = if y.target = q.target then none else some (y, false))) := by
  have hlen : fadeSamples (moment t s).cx.paths[p] q = fadeSamples s.cx.paths[p] q := by
    simp only [fadeSamples, Path.decim, moment_path_fin, moment_path_fout, moment_path_m, moment_path_h]
  rw [← moment_path_fade t s p] at hf
  rw [← moment_path_run t s p] at hr
  rw [← findHeld_moment q.cmd t s] at hh
  dsimp only
  rw [← hlen, ← moment_path_fadePos t s p, ← moment_path_queued t s p]
  refine ⟨_, rfl, ?_⟩
  generalize moment t s = m at hf hr hh ⊢
  dsimp only
  rw [hf]
  dsimp only
  refine ⟨fun hl => if_neg ?_, fun hl => ?_⟩
  · rw [hr, decide_eq_false (Nat.not_le.mpr hl)]
    decide
  · rw [if_pos (by rw [hr, decide_eq_true hl]; rfl)]
    generalize hv : modPath p (fun x => { x with activeB := q.target, fade := none, fadePos := 0 }) m = v
    have hpath : v.cx.paths[p] = { m.cx.paths[p] with activeB := q.target, fade := none, fadePos := 0 } := by
      rw [← hv, modPath_at, if_pos rfl]
    have hfound : findHeld q.cmd v = some h := by
      rw [← hv]
      exact (findHeld_congr rfl).trans hh
    have htime : v.time = m.time := by
      rw [← hv]
      rfl
    rw [finishId_eq hfound]
    generalize hw : finish h .ok (swapResult q.target v) v = w
    have hwcx : w.cx = v.cx := by rw [← hw, finish_cx]
    have hwpath : w.cx.paths[p] = { m.cx.paths[p] with activeB := q.target, fade := none, fadePos := 0 } := by rw [hwcx, hpath]
    cases hq : m.cx.paths[p].queued with
    | none =>
      have hwq : w.cx.paths[p].queued = none := by rw [hwpath]; exact hq
      rw [promoteSwap_of_none hwq, modPath_at, if_pos rfl, hwpath]
      refine ⟨rfl, fun _ => ⟨rfl, v, by rw [hw], htime⟩, fun _ hy => nomatch hy⟩
    | some y =>
      have hwq : w.cx.paths[p].queued = some y := by rw [hwpath]; exact hq
      rw [promoteSwap_of_some hwq, hwpath]
      refine ⟨rfl, (nomatch ·), fun y' hy => ?_⟩
      cases hy
      exact ⟨rfl, rfl⟩

/-- Settles O30: a bank is written while it is idle, a swap waits for its fade (log entry 65 for the one queued behind it), and the fade's
end makes the target active and lets the queued one follow. -/
theorem coefficientSwapsFade : Obligations.CoefficientSwapsFade :=
  ⟨ctxCoefLoad_does, ctxCoefSwap_does, fadeStart_gives, fadeEnd_gives⟩

/-! ### Threshold comparators (R149 to R152) -/

theorem ctxSetThresholds_does (e : Entry) (c : Fin 64) (ps : List (Fin 64)) : Does (.ctxSetThresholds e) specCtxSetThresholds e fun h u t =>
    openCtx h u = some c → pathsNamed c (itemArg8 (Entry.args e)) u = some ps →
      (ps.all (fun p => levelsOk (fmerge u.cx.paths[p].cfg (itemsOf h))) = true → t = park h (ps.map fun p => (p.val : Int)) u)
        ∧ (ps.all (fun p => levelsOk (fmerge u.cx.paths[p].cfg (itemsOf h))) = false → t = fail h .errParam 0xFFFF .outOfRange u) := by
  refine does_of (fun _ => rfl) fun h u he _ => ?_
  subst he
  intro ho hp
  unfold doCtxSetThresholds
  rw [ho]
  dsimp only
  rw [hp]
  exact ⟨fun hok => if_pos hok, fun hok => if_neg (by rw [hok]; decide)⟩

theorem ctxSetThresholds_of_none (e : Entry) : Does (.ctxSetThresholds e) specCtxSetThresholds e fun h u t =>
    openCtx h u = none → t = reject h .errState u := by
  refine does_of (fun _ => rfl) fun h u _ _ ho => ?_
  unfold doCtxSetThresholds
  rw [ho]

/-- The level of a block leaves the state but for a free value. -/
theorem blockLevel_keeps (p : Fin 64) (sum n : Nat) (s : State) : (blockLevel p sum n s).2.cx = s.cx := by
  unfold blockLevel
  split
  · split <;> rfl
  · rfl

theorem threshEvent_keeps (b : Bool) (ev : Ev) (p : Fin 64) (c : Comparator) (level : Int) (s : State) :
    (if b then threshEvent ev p c level s else s).cx = s.cx := by
  split
  · exact threshEvent_l_cx ..
  · rfl

/-- What a power block with a level makes of a path's comparators (R150). -/
def Path.judgeHigh (x : Path) (level : Int) (stamp : DT) : Comparator × Bool :=
  x.high.step (if x.high.entered then decide (level < fget x.cfg 0x0707 - fget x.cfg 0x0709) else decide (fget x.cfg 0x0707 < level))
    (dwellBlocks (fget x.cfg 0x070B).toNat (fget x.cfg 0x070A).toNat) stamp

def Path.judgeLow (x : Path) (level : Int) (stamp : DT) : Comparator × Bool :=
  x.low.step (if x.low.entered then decide (fget x.cfg 0x0708 + fget x.cfg 0x0709 < level) else decide (level < fget x.cfg 0x0708))
    (dwellBlocks (fget x.cfg 0x070C).toNat (fget x.cfg 0x070A).toNat) stamp

/-- The step of the high comparator, and of the low one after it (R151). -/
def stepHigh (p : Fin 64) (stamp : DT) (level : Int) (x : Path) (s : State) : State :=
  if testBit (fget x.cfg 0x0706).toNat 0 then
    let v := modPath p (fun y => { y with high := (x.judgeHigh level stamp).1 }) s
    if (x.judgeHigh level stamp).2 then threshEvent .threshHigh p (x.judgeHigh level stamp).1 level v else v
  else s

def stepLow (p : Fin 64) (stamp : DT) (level : Int) (x : Path) (s : State) : State :=
  if testBit (fget x.cfg 0x0706).toNat 1 then
    let v := modPath p (fun y => { y with low := (x.judgeLow level stamp).1 }) s
    if (x.judgeLow level stamp).2 then threshEvent .threshLow p (x.judgeLow level stamp).1 level v else v
  else s

theorem judgeBlock_eq (p : Fin 64) (stamp : DT) (level : Int) (s : State) :
    judgeBlock p stamp level s = stepLow p stamp level s.cx.paths[p] (stepHigh p stamp level s.cx.paths[p] s) := rfl

theorem stepHigh_path (p : Fin 64) (stamp : DT) (level : Int) (x : Path) (s : State) : (stepHigh p stamp level x s).cx.paths[p]
    = { s.cx.paths[p] with
        high := if testBit (fget x.cfg 0x0706).toNat 0 then (x.judgeHigh level stamp).1 else s.cx.paths[p].high } := by
  unfold stepHigh
  by_cases hen : testBit (fget x.cfg 0x0706).toNat 0
  · simp only [if_pos hen, threshEvent_keeps, modPath_at, if_true]
  · simp only [if_neg hen]

theorem stepLow_path (p : Fin 64) (stamp : DT) (level : Int) (x : Path) (s : State) : (stepLow p stamp level x s).cx.paths[p]
    = { s.cx.paths[p] with
        low := if testBit (fget x.cfg 0x0706).toNat 1 then (x.judgeLow level stamp).1 else s.cx.paths[p].low } := by
  unfold stepLow
  by_cases hen : testBit (fget x.cfg 0x0706).toNat 1
  · simp only [if_pos hen, threshEvent_keeps, modPath_at, if_true]
  · simp only [if_neg hen]

theorem judgeBlock_path (p : Fin 64) (stamp : DT) (level : Int) (s : State) : (judgeBlock p stamp level s).cx.paths[p] =
    let x := s.cx.paths[p]
    { x with
      high := if testBit (fget x.cfg 0x0706).toNat 0 then (x.judgeHigh level stamp).1 else x.high,
      low := if testBit (fget x.cfg 0x0706).toNat 1 then (x.judgeLow level stamp).1 else x.low } := by
  rw [judgeBlock_eq, stepLow_path, stepHigh_path]

theorem powerBlockEnd_gives (t : DT) (p : Fin 64) (sum n : Nat) (stamp : DT) (rest : List (Nat × Nat × DT)) (s : State)
    (hp : s.cx.paths[p].powers = (sum, n, stamp) :: rest) : Gives (.powerBlockEnd t p) s fun u =>
      let x := s.cx.paths[p]
      let level := (blockLevel p sum n (moment t s)).1
      let en := (fget x.cfg 0x0706).toNat
      let us := (fget x.cfg 0x070A).toNat
      let hi := x.high.step (if x.high.entered then decide (level < fget x.cfg 0x0707 - fget x.cfg 0x0709) else decide (fget x.cfg 0x0707 < level))
        (dwellBlocks (fget x.cfg 0x070B).toNat us) stamp
      let lo := x.low.step (if x.low.entered then decide (fget x.cfg 0x0708 + fget x.cfg 0x0709 < level) else decide (level < fget x.cfg 0x0708))
        (dwellBlocks (fget x.cfg 0x070C).toNat us) stamp
      (x.run ≠ .running → u = moment t s)
        ∧ (x.run = .running → u.cx.paths[p] = { (moment t s).cx.paths[p] with
            powers := rest, level := level, high := if testBit en 0 then hi.1 else x.high, low := if testBit en 1 then lo.1 else x.low })
        ∧ (x.run = .running → testBit en 0 = true → hi.2 = true → testBit en 1 = false → ∃ v, u = threshEvent .threshHigh p hi.1 level v)
        ∧ (x.run = .running → testBit en 1 = true → lo.2 = true → testBit en 0 = false → ∃ v, u = threshEvent .threshLow p lo.1 level v) := by
  rw [← moment_path_powers t s p] at hp
  dsimp only
  rw [← moment_path_cfg t s p, ← moment_path_high t s p, ← moment_path_low t s p, ← moment_path_run t s p]
  refine ⟨_, rfl, ?_⟩
  generalize moment t s = m at hp ⊢
  generalize hx : m.cx.paths[p] = x
  rw [hx] at hp
  rw [hp]
  dsimp only
  generalize hb : blockLevel p sum n m = r
  have hcx : r.2.cx = m.cx := hb ▸ blockLevel_keeps p sum n m
  generalize hv : modPath p (fun x => { x with powers := rest, level := r.1 }) r.2 = v
  have hpath : v.cx.paths[p] = { x with powers := rest, level := r.1 } := by
    rw [← hv, modPath_at, if_pos rfl, hcx, hx]
  refine ⟨fun hr => if_pos (by simpa using hr), fun hr => ?_, fun hr hen hhi hlo => ?_, fun hr hen hlo hhi => ?_⟩
  all_goals rw [if_neg (by rw [hr]; decide)]
  · rw [judgeBlock_path, hpath]
    rfl
  · rw [judgeBlock_eq, hpath]
    unfold stepLow stepHigh
    refine ⟨_, (if_neg (by rw [show testBit _ 1 = false from hlo]; decide)).trans ((if_pos hen).trans (if_pos hhi))⟩
  · rw [judgeBlock_eq, hpath]
    unfold stepLow stepHigh
    exact ⟨_, (if_pos hen).trans (if_pos hlo)⟩

/-- Settles O31: CTX_SET_THRESHOLDS is judged by the levels it would leave, a power block by the two comparators in turn (R150, R151). -/
theorem thresholdsJudgePower : Obligations.ThresholdsJudgePower :=
  ⟨ctxSetThresholds_does, ctxSetThresholds_of_none, powerBlockEnd_gives⟩

end Sys2Proof.Machine

/-! ## Context commands (R157 to R174)

`Ctx.face` is what an open fixes of a context and a change of its tuner leaves alone; the rest of each command is its checks in turn.
-/
namespace Sys2Proof.Machine

/-! ### What a change of tuner leaves of a context -/

/-- The state, standard, frequency, source and field sets of a context. -/
def Ctx.face (x : Ctx) : CtxState × Standard × Nat × Nat × FieldSet × FieldSet := (x.st, x.std, x.freq, x.source, x.cfg, x.shadow)

/-- The contexts of `t` have the faces of those in `s`. -/
def SameFaces (s t : State) : Prop := ∀ c : Fin 64, t.cx.ctxs[c].face = s.cx.ctxs[c].face

section
variable {s t : State}

theorem SameFaces.of_ctxs (h : t.cx.ctxs = s.cx.ctxs) : SameFaces s t := fun c => by rw [h]

theorem SameFaces.trans {u : State} (h : SameFaces s t) (k : SameFaces t u) : SameFaces s u := fun c => (k c).trans (h c)

theorem sameFaces_modCtx (d : Fin 64) {f : Ctx → Ctx} (hf : ∀ x, (f x).face = x.face) (s : State) : SameFaces s (modCtx d f s) := by
  intro c
  simp only [modCtx_cx, upd_get]
  split
  · exact hf _
  · rfl

theorem sameFaces_foldl {α : Type} {f : State → α → State} (hf : ∀ s a, SameFaces s (f s a)) (l : List α) (s : State) :
    SameFaces s (l.foldl f s) := foldP (P := SameFaces s) (fun t a h => h.trans (hf t a)) l s fun _ => rfl

theorem sameFaces_loseSignal (p : Fin 64) (s : State) : SameFaces s (loseSignal p s) := by
  unfold loseSignal
  split
  · split
    · refine sameFaces_modCtx _ ?_ s
      exact fun _ => rfl
    · exact fun _ => rfl
  · exact fun _ => rfl

theorem sameFaces_holdPath (p : Fin 64) (s : State) : SameFaces s (holdPath p s) := by
  unfold holdPath
  split
  · exact fun _ => rfl
  · refine SameFaces.trans ?_ (sameFaces_loseSignal p _)
    refine SameFaces.of_ctxs ?_
    rw [accrue_l_ctxs, modPath_cx]

theorem sameFaces_beginChange (n : Fin 4) (cmd ctx : Option Nat) (s : State) : SameFaces s (beginChange n cmd ctx s) := by
  unfold beginChange
  dsimp only
  split
  · refine SameFaces.trans ?_ (SameFaces.of_ctxs (congrArg CtxSt.ctxs (modTuner_cx ..)))
    refine SameFaces.trans ?_ (sameFaces_foldl (fun s q => sameFaces_holdPath q s) _ _)
    exact SameFaces.of_ctxs (congrArg CtxSt.ctxs (abandonTunerFirings_l_cx ..))
  · exact fun _ => rfl

theorem sameFaces_tuneSource (src freq half : Nat) (c : Fin 64) (s : State) : SameFaces s (tuneSource src freq half c s) := by
  unfold tuneSource
  split
  · split
    · exact fun _ => rfl
    · unfold tuneFor
      refine SameFaces.trans ?_ (sameFaces_beginChange _ _ _ _)
      exact SameFaces.of_ctxs (congrArg CtxSt.ctxs (modTuner_cx ..))
  · exact fun _ => rfl

end

/-! ### CTX_OPEN (R160 to R162) -/

/-- The context that CTX_OPEN puts in place, but for its Wheel. -/
theorem putContext_face {c : Fin 64} {std : Standard} {cfg : FieldSet} {src : Nat} {s v : State} (h : putContext c std cfg src s = some v) :
    v.cx.ctxs[c].face = (.opening, std, (fget cfg 0x0801).toNat, src, cfg, []) := by
  unfold putContext at h
  dsimp only at h
  split at h
  · split at h <;> cases h
    refine (congrArg (fun x : Vector Ctx 64 => x[c].face) ((openPath_within ..).ctxs rfl)).trans ((sameFaces_tuneSource _ _ _ _ _ c).trans ?_)
    simp only [modCtx_cx, upd_get_self]
    rfl
  · cases h

theorem sameFaces_openExtras (h : Held) (c : Fin 64) (cfg : FieldSet) (s : State) : SameFaces s (openExtras h c cfg s) := by
  have hflush : SameFaces s (if fhas cfg 0x0A02 then modCx (fun x => { x with flushMs := (fget cfg 0x0A02).toNat }) s else s) := by
    split <;> exact fun _ => rfl
  unfold openExtras
  generalize (if fhas cfg 0x0A02 then modCx (fun x => { x with flushMs := (fget cfg 0x0A02).toNat }) s else s) = v at hflush
  dsimp only
  split
  · refine hflush.trans (SameFaces.trans (t := emit _ v) (fun _ => rfl) (sameFaces_modCtx _ ?_ _))
    exact fun _ => rfl
  · exact hflush

theorem ctxOpen_does (e : Entry) (c : Fin 64) (std : Standard) (src : Nat) (v : State) (hc : e.target.toNat = c.val) :
    Does (.ctxOpen e) specCtxOpen e fun h u t =>
      let a := Entry.args e
      let cfg := openSet c std (items a) u
      let freq := (fget cfg 0x0801).toNat
      let pref := (fget cfg 0x0802).toNat
      (itemStd a = none → t = fail h .errParam 0xFFFF .outOfRange u)
        ∧ (itemStd a = some std → (fhas (items a) 0x0801 = false ∨ blendOk std cfg = false ∨ namedMisses pref freq (halfBand std cfg) u = true) →
            t = fail h .errParam 0xFFFF .outOfRange u)
        ∧ (itemStd a = some std → fhas (items a) 0x0801 = true → blendOk std cfg = true → namedMisses pref freq (halfBand std cfg) u = false →
            u.cx.ctxs[c].st ≠ .closed → t = reject h .errState u)
        ∧ (u.cx.ctxs[c].st = .closed → itemStd a = some std → fhas (items a) 0x0801 = true → blendOk std cfg = true →
            namedMisses pref freq (halfBand std cfg) u = false →
            (withinLimits std u = false → t = reject h .noResource u)
              ∧ (withinLimits std u = true → openSource pref freq (halfBand std cfg) u = none → t = reject h .noResource u)
              ∧ (withinLimits std u = true → openSource pref freq (halfBand std cfg) u = some src → putContext c std cfg src u = some v →
                  (v.cx.paths[(v.cx.ctxs[c].primary.getD 0)]).trim.natAbs ≤ trimBound v.cx.paths[(v.cx.ctxs[c].primary.getD 0)] →
                  ∃ w, t = begin_ h w ∧ w.cx.ctxs[c].st = .opening ∧ w.cx.ctxs[c].std = std ∧ w.cx.ctxs[c].freq = freq
                    ∧ w.cx.ctxs[c].source = src ∧ w.cx.ctxs[c].cfg = cfg ∧ w.cx.ctxs[c].shadow = [])) := by
  refine does_of (fun _ => rfl) fun h u he _ => ?_
  subst he
  unfold doCtxOpen
  rw [idx_eq_some hc]
  dsimp only
  refine ⟨fun hn => by rw [hn], fun hs hbad => ?_, fun hs hf hb hm ho => ?_, fun ho hs hf hb hm => ?_⟩ <;> rw [hs]
  · refine if_pos ?_
    obtain h | h | h := hbad <;> rw [h] <;> simp
  · exact (if_neg (by rw [hf, hb, hm]; decide)).trans (if_pos ho)
  · dsimp only
    rw [if_neg (by rw [hf, hb, hm]; decide), if_neg (not_not_intro ho)]
    refine ⟨fun hl => if_pos (by rw [hl]; rfl), fun hl hn => ?_, fun hl hsrc hput htrim => ?_⟩
    · rw [if_neg (by rw [hl]; decide), hn]
    · refine ⟨openExtras h c (openSet c std (items (Entry.args h.entry)) u) v, ?_, ?_⟩
      · rw [if_neg (by rw [hl]; decide), hsrc]
        dsimp only
        rw [hput]
        exact if_neg (by rw [decide_eq_true_eq, Int.ofNat_lt]; exact Nat.not_lt.mpr htrim)
      · have hface := (sameFaces_openExtras h c (openSet c std (items (Entry.args h.entry)) u) v c).trans (putContext_face hput)
        simp only [Ctx.face, Prod.mk.injEq] at hface
        exact hface

/-! ### CTX_RETUNE, CTX_CLOSE and CTX_COMMIT (R163 to R165) -/

theorem ctxRetune_of_none (e : Entry) : Does (.ctxRetune e) specCtxRetune e fun h u t => openCtx h u = none → t = reject h .errState u := by
  refine does_of (fun _ => rfl) fun h u _ _ ho => ?_
  unfold doCtxRetune
  rw [ho]

theorem ctxRetune_does (e : Entry) (c : Fin 64) : Does (.ctxRetune e) specCtxRetune e fun h u t =>
    let x := u.cx.ctxs[c]
    let l := itemsOf h
    openCtx h u = some c → fhas l 0x0801 = true → blendOk x.std (retuned x l) = true →
      (retuneSource x l u = none → t = fail h (retuneMiss x l u) 0xFFFF .outOfRange u)
        ∧ ((retuneSource x l u).isSome = true → (regrow c u (withLive c (fmerge x.shadow l) u)).isSome = true →
            t = if namedRead u c.val then deferCmd h [] u else park h [] u) := by
  refine does_of (fun _ => rfl) fun h u _ _ => ?_
  intro x l ho hf hb
  unfold doCtxRetune
  rw [ho]
  dsimp only
  rw [if_neg (by rw [show fhas (itemsOf h) 0x0801 = true from hf, show blendOk u.cx.ctxs[c].std _ = true from hb]; decide)]
  refine ⟨fun hs => if_pos (by rw [show retuneSource _ _ u = none from hs]; rfl), fun hs hg => ?_⟩
  rw [if_neg, if_neg]
  · rw [Option.isNone_eq_false_iff.mpr hg]
    decide
  · rw [Option.isNone_eq_false_iff.mpr hs]
    decide

theorem ctxClose_does (e : Entry) (c : Fin 64) : Does (.ctxClose e) specCtxClose e fun h u t =>
    (openCtx h u = none → t = reject h .errState u)
      ∧ (openCtx h u = some c → t = if namedRead u c.val then deferCmd h [] u else park h [] u) := by
  refine does_of (fun _ => rfl) fun h u _ _ => ?_
  unfold doCtxClose
  exact ⟨fun ho => by rw [ho], fun ho => by rw [ho]⟩

theorem ctxCommit_does (e : Entry) (c : Fin 64) : Does (.ctxCommit e) specCtxCommit e fun h u t =>
    let x := u.cx.ctxs[c]
    (openCtx h u = none → t = reject h .errState u)
      ∧ (openCtx h u = some c → itemAction (Entry.args e) = 1 → t = park h [] u)
      ∧ (openCtx h u = some c → itemAction (Entry.args e) = 0 → (blendOk x.std (committed x) = false ∨ commitMisses x u = true) →
          t = fail h .errParam 0xFFFF .outOfRange u)
      ∧ (openCtx h u = some c → itemAction (Entry.args e) = 0 → blendOk x.std (committed x) = true → commitMisses x u = false →
          commitMoves x u = false → (regrow c u (withLive c x.shadow u)).isSome = true → t = park h [] u) := by
  refine does_of (fun _ => rfl) fun h u he _ => ?_
  subst he
  intro x
  unfold doCtxCommit
  refine ⟨fun ho => by rw [ho], fun ho ha => ?_, fun ho ha hbad => ?_, fun ho ha hb hm hv hg => ?_⟩ <;> rw [ho] <;> dsimp only
  · exact if_pos ha
  · rw [if_neg (by rw [ha]; decide)]
    refine if_pos ?_
    obtain h | h := hbad
    · rw [show blendOk _ _ = false from h]
      rfl
    · rw [show commitMisses _ _ = true from h, Bool.or_true]
  · rw [if_neg (by rw [ha]; decide), if_neg, if_neg, if_neg, if_neg]
    · rw [show commitMoves _ _ = false from hv, Bool.false_and]
      decide
    · rw [Option.isNone_eq_false_iff.mpr hg]
      decide
    · rw [show commitMoves _ _ = false from hv, Bool.false_and]
      decide
    · rw [show blendOk _ _ = true from hb, show commitMisses _ _ = false from hm]
      decide

/-! ### CTX_STAGE (R133, R163) -/

theorem ctxStage_does (e : Entry) (c : Fin 64) (hc : e.target.toNat = c.val) : Does (.ctxStage e) specCtxStage e fun h u t =>
    let x := u.cx.ctxs[c]
    let l := itemsOf h
    (x.st = .closed → ∃ v, t = finish h .ok [(16, 1, l.length), (24, 8, dtInt (now v))] v ∧ v.cx.ctxs[c].shadow = fmerge x.shadow l
        ∧ v.cx.ctxs[c].cfg = x.cfg)
      ∧ (x.st ≠ .closed → trimOk c l u = false → t = fail h .errParam (Entry.offset h.entry (itemAt 0x0702 h)) .outOfRange u)
      ∧ (x.st ≠ .closed → trimOk c l u = true → ofClass .lk l ≠ [] → pathRuns c u = true → t = reject h .busyRunning u)
      ∧ (x.st ≠ .closed → (ofClass .lk l = [] ∨ pathRuns c u = false) → trimOk c l u = true → ofClass .lv l = [] → waiting 0x0405 c.val u = [] →
          regrow c u (withLive c [] u) ≠ none → ∃ v, t = finish h .ok [(16, 1, l.length), (24, 8, dtInt (now v))] v
            ∧ v.cx.ctxs[c].shadow = fmerge x.shadow (ofClass .st l)
            ∧ v.cx.ctxs[c].cfg = if ofClass .lk l = [] then x.cfg else fmerge x.cfg (ofClass .lk l)) := by
  refine does_of (fun _ => rfl) fun h u he _ => ?_
  subst he
  intro x l
  unfold doCtxStage
  rw [idx_eq_some hc]
  dsimp only
  refine ⟨fun hx => ?_, fun hx ht => ?_, fun hx ht hl hr => ?_, fun hx hl ht hlv hw hg => ?_⟩
  · rw [if_pos hx]
    refine ⟨_, rfl, ?_⟩
    simp only [modCtx_cx, upd_get_self]
    exact ⟨rfl, rfl⟩
  · rw [if_neg hx]
    exact if_pos (by rw [show trimOk _ _ u = false from ht]; rfl)
  · rw [if_neg hx, if_neg (by rw [show trimOk _ _ u = true from ht]; decide)]
    exact if_pos (by rw [List.isEmpty_eq_false_iff.mpr hl, hr]; rfl)
  · rw [if_neg hx, if_neg (by rw [show trimOk _ _ u = true from ht]; decide), if_neg, show ofClass .lv (itemsOf h) = [] from hlv, if_neg]
    · generalize hlocked : (if (ofClass .lk (itemsOf h)).isEmpty = true then u else _) = v
      have hv : v.host = u.host ∧ v.time = u.time ∧ v.cx.ctxs[c].shadow = x.shadow
          ∧ v.cx.ctxs[c].cfg = if ofClass .lk l = [] then x.cfg else fmerge x.cfg (ofClass .lk l) := by
        rw [← hlocked]
        cases hlk : ofClass .lk (itemsOf h) with
        | nil => exact ⟨rfl, rfl, rfl, (if_pos rfl).symm⟩
        | cons a b =>
          rw [if_neg (List.cons_ne_nil a b), if_neg (by rw [List.isEmpty_cons]; decide)]
          simp only [modCtx_cx, upd_get_self]
          exact ⟨rfl, rfl, rfl, rfl⟩
      obtain ⟨hhost, htime, hshadow, hcfg⟩ := hv
      have hwait : waiting 0x0405 c.val v = [] := (waiting_congr (congrArg HostIf.held hhost) (congrArg TimeSt.dt htime)).trans hw
      rw [if_pos (by rw [hwait]; rfl)]
      refine ⟨_, rfl, ?_⟩
      simp only [modCtx_cx, upd_get_self]
      exact ⟨by rw [hshadow], hcfg⟩
    · rw [Option.isNone_eq_false_iff.mpr (Option.isSome_iff_ne_none.mpr hg)]
      decide
    · obtain hl | hl := hl
      · rw [show ofClass .lk (itemsOf h) = [] from hl]
        simp
      · rw [hl]
        simp

/-! ### CTX_DIVERSITY and CTX_GET_QUALITY (R172, R184) -/

theorem ctxDiversity_does (e : Entry) (c : Fin 64) : Does (.ctxDiversity e) specCtxDiversity e fun h u t =>
    let cfg := divSet u.cx.ctxs[c] (itemsOf h)
    let d := (fget cfg 0x0805).toNat
    (openCtx h u = none → t = reject h .errState u)
      ∧ (openCtx h u = some c → (fget cfg 0x0804 = 0 ∨ keepsBranch c d u = true) → t = park h [] u)
      ∧ (openCtx h u = some c → fget cfg 0x0804 ≠ 0 → keepsBranch c d u = false → divRefused c d u = false → diversitySource c d u = none →
          t = reject h .noResource u)
      ∧ (∀ src, openCtx h u = some c → fget cfg 0x0804 ≠ 0 → keepsBranch c d u = false → divRefused c d u = false →
          diversitySource c d u = some src → alignable c src u = true → (addDiversity c src u).isSome = true → t = park h [] u) := by
  refine does_of (fun _ => rfl) fun h u _ _ => ?_
  intro cfg d
  unfold doCtxDiversity
  have hwanted (hm : fget cfg 0x0804 ≠ 0) (hk : keepsBranch c d u = false) :
      ¬(decide (fget cfg 0x0804 = 0) || keepsBranch c d u) = true := by
    rw [decide_eq_false hm, hk]
    decide
  have hallowed (hd : divRefused c d u = false) : ¬divRefused c d u = true := by
    rw [hd]
    decide
  refine ⟨fun ho => by rw [ho], fun ho hk => ?_, fun ho hm hk hd hs => ?_, fun src ho hm hk hd hs ha hadd => ?_⟩ <;> rw [ho] <;> dsimp only
  · refine if_pos ?_
    obtain hk | hk := hk
    · rw [decide_eq_true hk]
      rfl
    · rw [hk, Bool.or_true]
  · rw [if_neg (hwanted hm hk), if_neg (hallowed hd), hs]
  · rw [if_neg (hwanted hm hk), if_neg (hallowed hd), hs]
    dsimp only
    rw [if_neg, if_neg]
    · rw [Option.isNone_eq_false_iff.mpr hadd]
      decide
    · rw [ha]
      decide

theorem ctxGetQuality_does (e : Entry) (c : Fin 64) : Does (.ctxGetQuality e) specCtxGetQuality e fun h u t =>
    (openCtx h u = none → t = reject h .errState u)
      ∧ (openCtx h u = some c → t = finishOut h .ok (qualityFigures u.cx.ctxs[c] (branchLive u.cx.ctxs[c] u)) none u) := by
  refine does_of (fun _ => rfl) fun h u _ _ => ?_
  unfold doCtxGetQuality
  exact ⟨fun ho => by rw [ho], fun ho => by rw [ho]⟩

/-- Settles O33: each command by its checks in turn; what CTX_OPEN fixes stays while the tuner is tuned (log entries 101 and 102 for a named
source that misses and for fields of another standard). -/
theorem contextCommandsAreJudged : Obligations.ContextCommandsAreJudged :=
  ⟨ctxOpen_does, ctxRetune_of_none, ctxRetune_does, ctxClose_does, ctxStage_does, ctxCommit_does, ctxDiversity_does, ctxGetQuality_does⟩

end Sys2Proof.Machine

/-! ## Frame boundaries (R11, R152, R159, R163)

With no command held, a boundary of a context without a switch changes nothing (`frameBoundary_idle`): what a frame leaves is then what
was demodulated from it.
-/
namespace Sys2Proof.Machine

/-! ### A boundary at which nothing waits -/

theorem upd_id {α : Type} {n : Nat} (v : Vector α n) (i : Fin n) {f : α → α} (h : f v[i] = v[i]) : upd v i f = v := by
  refine Vector.ext fun j hj => ?_
  have hget := upd_get v i ⟨j, hj⟩ f
  change (upd v i f)[j] = _ at hget
  rw [hget]
  split
  case isTrue hij =>
    subst hij
    exact h
  · rfl

theorem modCtx_id (c : Fin 64) {f : Ctx → Ctx} {s : State} (h : f s.cx.ctxs[c] = s.cx.ctxs[c]) : modCtx c f s = s := by
  have hctxs : upd s.cx.ctxs c f = s.cx.ctxs := upd_id _ _ h
  unfold modCtx modCx
  dsimp only
  rw [hctxs]

theorem withLive_nil (c : Fin 64) (s : State) : withLive c [] s = s := by
  refine modCtx_id c ?_
  rw [if_neg (by decide)]
  rfl

theorem liveEffects_nil (c : Fin 64) (s : State) : liveEffects c [] s = s := rfl

theorem applyLiveFields_nil (c : Fin 64) (s : State) : applyLiveFields c s (s, []) = s := by
  have hgrow : regrow c s s = some s := if_pos (le_refl _)
  unfold applyLiveFields
  dsimp only
  rw [withLive_nil, hgrow]
  exact liveEffects_nil c s

section
variable {c : Fin 64} {s : State}

theorem waiting_of_empty (h : s.host.held = []) (op n : Nat) : waiting op n s = [] := by rw [waiting, h, List.filter_nil]

theorem applyStops_idle (h : s.host.held = []) : applyStops c s = s := by
  unfold applyStops
  refine foldId ?_ _
  intro v
  exact if_pos (by rw [waiting_of_empty h]; rfl)

theorem switchFrame_idle (h : s.cx.ctxs[c].afSwitch = none) : switchFrame c s = s := by
  unfold switchFrame
  dsimp only
  rw [h]

theorem applyWaiting_idle (h : s.host.held = []) (hw : s.cx.ctxs[c].afSwitch = none) : applyWaiting c s = s := by
  have hfields : applyFields c s = s := by
    unfold applyFields
    dsimp only
    rw [h]
    exact applyLiveFields_nil c s
  unfold applyWaiting
  dsimp only
  simp only [waiting_of_empty h, List.filter_nil, List.foldl_nil, hfields, switchFrame_idle hw, applyStops_idle h]

theorem frameBoundary_idle (h : s.host.held = []) (hw : s.cx.ctxs[c].afSwitch = none) (hd : s.cx.ctxs[c].std ≠ .dab) :
    frameBoundary c s = s := by
  have hnext : nextLifecycle c s = none := by
    unfold nextLifecycle
    split
    · rfl
    · rw [h, List.find?_nil]
  unfold frameBoundary
  rw [hnext]
  dsimp only
  rw [applyWaiting_idle h hw]
  exact if_neg hd

/-! ### The frame itself (R158, R169, R176) -/

/-- The commands that end with a frame are none where none is held. -/
theorem endings_idle (h : s.host.held = []) : endDiversity c (endApplied c (endOpening c s)) = s := by
  have hb (op : Nat) : begunOf op c s = [] := by rw [begunOf, h, List.filter_nil]
  have hopening : endOpening c s = s := by
    unfold endOpening
    dsimp only
    rw [hb, hb]
    rfl
  rw [hopening]
  unfold endDiversity endApplied
  rw [hb, List.foldl_nil, hb, List.foldl_nil]

/-- The audio of a frame reaches the services alone. -/
theorem pushAnalog_keeps (c : Fin 64) (start : DT) (s : State) : (pushAnalog c start s).cx = s.cx ∧ (pushAnalog c start s).host = s.host
    ∧ (pushAnalog c start s).sg = s.sg := by
  unfold pushAnalog
  dsimp only
  split
  · exact ⟨rfl, rfl, rfl⟩
  · refine foldP (P := fun t => t.cx = s.cx ∧ t.host = s.host ∧ t.sg = s.sg) ?_ _ _ ⟨rfl, rfl, rfl⟩
    exact fun t v ht => ht

theorem setTrim_keeps (v : Int) (p : Fin 64) (s : State) : (setTrim v s p).host = s.host ∧ (setTrim v s p).cx.ctxs = s.cx.ctxs := by
  unfold setTrim
  split <;> exact ⟨rfl, rfl⟩

/-- One path under the AFC of a context. -/
def steerPath (x : Ctx) (s : State) (p : Fin 64) : State :=
  let v := afcTrim x s.cx.paths[p]
  if jobReadsPath p s || v == s.cx.paths[p].trim then s else setTrim v s p

theorem steerPath_keeps (x : Ctx) (s : State) (p : Fin 64) : (steerPath x s p).host = s.host ∧ (steerPath x s p).cx.ctxs = s.cx.ctxs := by
  unfold steerPath
  dsimp only
  split
  · exact ⟨rfl, rfl⟩
  · exact setTrim_keeps ..

theorem foldl_steerPath_keeps (x : Ctx) (l : List (Fin 64)) (s : State) : (l.foldl (steerPath x) s).host = s.host
    ∧ (l.foldl (steerPath x) s).cx.ctxs = s.cx.ctxs :=
  foldP (P := fun u => u.host = s.host ∧ u.cx.ctxs = s.cx.ctxs)
    (fun u p hu => ⟨(steerPath_keeps x u p).1.trans hu.1, (steerPath_keeps x u p).2.trans hu.2⟩) _ _ ⟨rfl, rfl⟩

/-- The steering with the AFC on: a digital offset, then each path in turn. -/
theorem steer_eq (h : fget s.cx.ctxs[c].cfg 0x0806 ≠ 0) : ∃ d, steer c s
    = (pathsOf c s).foldl (steerPath s.cx.ctxs[c]) (modCtx c (fun y => { y with afcDigital := d }) s) := by
  have hp (d : Int) : pathsOf c (modCtx c (fun y => { y with afcDigital := d }) s) = pathsOf c s := by
    refine pathsOf_modCtx ?_ c c s
    exact fun _ => ⟨rfl, rfl⟩
  rw [show steer c s = _ from if_neg h]
  dsimp only
  rw [hp]
  exact ⟨_, rfl⟩

/-- The steering of a context's paths leaves the held commands and, but for its digital offset, the context. -/
theorem steer_keeps (c : Fin 64) (s : State) : (steer c s).host = s.host
    ∧ ∃ d, (steer c s).cx.ctxs[c] = { s.cx.ctxs[c] with afcDigital := d } := by
  by_cases h : fget s.cx.ctxs[c].cfg 0x0806 = 0
  · rw [show steer c s = modCtx c (fun x => { x with afcDigital := 0 }) s from if_pos h]
    exact ⟨rfl, 0, by simp only [modCtx_cx, upd_get_self]⟩
  · obtain ⟨d, hd⟩ := steer_eq h
    rw [hd]
    refine ⟨(foldl_steerPath_keeps ..).1, d, ?_⟩
    rw [(foldl_steerPath_keeps ..).2]
    simp only [modCtx_cx, upd_get_self]

theorem steer_off (h : fget s.cx.ctxs[c].cfg 0x0806 = 0) : steer c s = modCtx c (fun x => { x with afcDigital := 0 }) s := if_pos h

/-- With the AFC on, the trim of a path that alone carries a context and that no job reads follows the offset (R176). -/
theorem steer_on {p : Fin 64} (h : fget s.cx.ctxs[c].cfg 0x0806 ≠ 0) (hp : pathsOf c s = [p]) (hj : jobReadsPath p s = false) :
    (steer c s).cx.paths[p].trim = afcTrim s.cx.ctxs[c] s.cx.paths[p] := by
  obtain ⟨d, hd⟩ := steer_eq h
  rw [hd, hp, List.foldl_cons, List.foldl_nil]
  unfold steerPath
  have hm : (modCtx c (fun y => { y with afcDigital := d }) s).cx.paths = s.cx.paths := rfl
  have hj' : jobReadsPath p (modCtx c (fun y => { y with afcDigital := d }) s) = false := hj
  dsimp only
  rw [hm, hj', Bool.false_or]
  by_cases heq : afcTrim s.cx.ctxs[c] s.cx.paths[p] = s.cx.paths[p].trim
  · rw [if_pos (beq_iff_eq.mpr heq), hm]
    exact heq.symm
  · rw [if_neg (fun h => heq (eq_of_beq h))]
    unfold setTrim
    rw [if_neg (by rw [hj']; decide), modPath_at, if_pos rfl, hm]
    unfold afcTrim clampTo
    dsimp only
    omega

theorem takeFrame_idle (f : FrameFigures) (h : s.host.held = []) : takeFrame c f s
    = modCtx c Ctx.save (steer c (pushAnalog c (frameStamp s.cx.ctxs[c] s)
      (modCtx c (Ctx.takeFrame f (frameClips c s) (branchLive s.cx.ctxs[c] s) (now s)) s))) := by
  unfold takeFrame
  dsimp only
  refine endings_idle ?_
  rw [modCtx_host, (steer_keeps ..).1, (pushAnalog_keeps ..).2.1]
  exact h

theorem Ctx.takeFrame_keeps (f : FrameFigures) (clips : Nat × Nat) (live : Bool) (t : DT) (x : Ctx) :
    (x.takeFrame f clips live t).cfg = x.cfg ∧ (x.takeFrame f clips live t).afSwitch = x.afSwitch
      ∧ (x.takeFrame f clips live t).std = x.std ∧ (x.takeFrame f clips live t).primary = x.primary
      ∧ (x.takeFrame f clips live t).branch = x.branch := ⟨rfl, rfl, rfl, rfl, rfl⟩

/-- What a demodulated frame leaves: its figures with the digital offset, saved, and the paths as they are steered. -/
theorem takeFrame_leaves (f : FrameFigures) (h : s.host.held = []) :
    let y := Ctx.takeFrame f (frameClips c s) (branchLive s.cx.ctxs[c] s) (now s) s.cx.ctxs[c]
    (takeFrame c f s).host = s.host ∧ (∃ d, (takeFrame c f s).cx.ctxs[c] = Ctx.save { y with afcDigital := d })
      ∧ (fget s.cx.ctxs[c].cfg 0x0806 = 0 → (takeFrame c f s).cx.ctxs[c] = Ctx.save { y with afcDigital := 0 })
      ∧ (∀ p : Fin 64, fget s.cx.ctxs[c].cfg 0x0806 ≠ 0 → s.cx.ctxs[c].primary = some p → s.cx.ctxs[c].branch = none → jobReadsPath p s = false →
          (takeFrame c f s).cx.paths[p].trim = afcTrim y s.cx.paths[p]) := by
  intro y
  rw [takeFrame_idle f h]
  generalize hv : pushAnalog c _ _ = v
  have hvcx : v.cx = (modCtx c (Ctx.takeFrame f (frameClips c s) (branchLive s.cx.ctxs[c] s) (now s)) s).cx := by
    rw [← hv, (pushAnalog_keeps ..).1]
  have hvctx : v.cx.ctxs[c] = y := by
    rw [hvcx]
    simp only [modCtx_cx, upd_get_self]
    rfl
  have hvhost : v.host = s.host := by rw [← hv, (pushAnalog_keeps ..).2.1, modCtx_host]
  have hvsg : v.sg = s.sg := by rw [← hv, (pushAnalog_keeps ..).2.2, modCtx_sg]
  obtain ⟨hcfg, -, -, hprim, hbr⟩ := Ctx.takeFrame_keeps f (frameClips c s) (branchLive s.cx.ctxs[c] s) (now s) s.cx.ctxs[c]
  obtain ⟨hhost, d, hd⟩ := steer_keeps c v
  have hsave (u : State) : (modCtx c Ctx.save u).cx.ctxs[c] = u.cx.ctxs[c].save := by simp only [modCtx_cx, upd_get_self]
  refine ⟨hhost.trans hvhost, ⟨d, by rw [hsave, hd, hvctx]⟩, fun hoff => ?_, fun p hon hp hb hj => ?_⟩
  · rw [hsave, steer_off (by rw [hvctx, hcfg]; exact hoff)]
    simp only [modCtx_cx, upd_get_self, hvctx]
  · have hpath : v.cx.paths = s.cx.paths := by rw [hvcx]; rfl
    have hpaths : pathsOf c v = [p] := by
      rw [pathsOf, hvctx, hprim, hbr, hp, hb]
      rfl
    have hjob : jobReadsPath p v = false := by
      rw [jobReadsPath, jobPaths, hvsg]
      exact hj
    refine (steer_on (by rw [hvctx, hcfg]; exact hon) hpaths hjob).trans ?_
    rw [hvctx, hpath]

theorem saved_keeps (d : Int) (y : Ctx) : (Ctx.save { y with afcDigital := d }).afSwitch = y.afSwitch
    ∧ (Ctx.save { y with afcDigital := d }).std = y.std := ⟨rfl, rfl⟩

/-- After a frame nothing waits where nothing waited before. -/
theorem boundary_takeFrame (f : FrameFigures) (h : s.host.held = []) (hw : s.cx.ctxs[c].afSwitch = none) (hd : s.cx.ctxs[c].std ≠ .dab) :
    frameBoundary c (takeFrame c f s) = takeFrame c f s := by
  obtain ⟨hhost, ⟨d, hctx⟩, -, -⟩ := takeFrame_leaves (c := c) f h
  obtain ⟨-, hsw, hstd, -, -⟩ := Ctx.takeFrame_keeps f (frameClips c s) (branchLive s.cx.ctxs[c] s) (now s) s.cx.ctxs[c]
  refine frameBoundary_idle (by rw [hhost]; exact h) ?_ ?_
  · rw [hctx, (saved_keeps ..).1, hsw, hw]
  · rw [hctx, (saved_keeps ..).2, hstd]
    exact hd

end

/-! ### CTX_CLOSE at the boundary (R160, R165) -/

theorem closeCtx_closed (c : Fin 64) (keep : Option Nat) (st : Status) (s : State) : (closeCtx c keep st s).cx.ctxs[c].st = .closed := by
  unfold closeCtx
  dsimp only
  generalize hv : modCtx c (fun _ => Ctx.reset) _ = v
  have hreset : v.cx.ctxs[c].st = .closed := by
    rw [← hv]
    simp only [modCtx_cx, upd_get_self]
    rfl
  refine (congrArg (fun x : CtxSt => x.ctxs[c].st) (fold_keep (g := State.cx) (fun s h => ?_) _ _)).trans ?_
  · exact fail_cx ..
  · rw [releaseTuner_l_cx]
    exact hreset

theorem frameBoundary_closes {c : Fin 64} {s : State} {h : Held} (hn : nextLifecycle c s = some h) (ho : h.op = 0x0402)
    (hw : waiting 0x0405 c.val s = []) (hr : namedRead s c.val = false) :
    ∃ v, frameBoundary c s = finishC h v ∧ v.cx.ctxs[c].st = .closed := by
  have hclose : applyClose c h s = finishC h (closeCtx c (some h.id) .errState s) := if_neg (by rw [hr]; decide)
  have hclosed : (finishC h (closeCtx c (some h.id) .errState s)).cx.ctxs[c].st = .closed := by
    rw [finishC_cx]
    exact closeCtx_closed ..
  refine ⟨closeCtx c (some h.id) .errState s, ?_, closeCtx_closed ..⟩
  unfold frameBoundary
  rw [hn]
  dsimp only
  rw [hw, List.filter_nil, show applyStages c [] s = s from applyLiveFields_nil c s, if_pos ho, hclose, hclosed]
  rfl

/-! ### The context frame (R159, R175) -/

/-- A primary that waits for its source brings the boundary by itself (log entry 41). -/
theorem frameDue_of_not_runs {c : Fin 64} {s : State} (h : primaryRuns c s = false) : frameDue c s = true := by
  unfold primaryRuns at h
  unfold frameDue
  dsimp only
  split at h
  case h_1 p _ =>
    rw [show (s.cx.paths[p].run != .running) = true by rw [bne, h]; rfl, Bool.true_or]
  case h_2 => rfl

theorem contextFrame_gives (t : DT) (c : Fin 64) (f : FrameFigures) (s : State) : Gives (.contextFrame t c f) s fun u =>
    let m := moment t s
    let x := m.cx.ctxs[c]
    let y := Ctx.takeFrame f (frameClips c m) (branchLive x m) (now m) x
    let free := m.host.held = [] ∧ x.afSwitch = none ∧ x.std ≠ .dab
    (x.st = .closed ∨ frameDue c m = false → u = m)
      ∧ (x.st ≠ .closed → x.st ≠ .hold → primaryRuns c m = true → frameDue c m = true → free →
          (frameKept c m = false → u.cx.ctxs[c] = { x with frame := x.frame + 1 })
            ∧ (frameKept c m = true → fget x.cfg 0x0806 = 0 → u.cx.ctxs[c] = Ctx.save { y with afcDigital := 0 })
            ∧ (∀ p : Fin 64, frameKept c m = true → fget x.cfg 0x0806 ≠ 0 → x.primary = some p → x.branch = none → jobReadsPath p m = false →
                u.cx.paths[p].trim = afcTrim y m.cx.paths[p]))
      ∧ (x.st ≠ .closed → x.st ≠ .hold → primaryRuns c m = false → branchLive x m = true → free → fget x.cfg 0x0806 = 0 →
          u.cx.ctxs[c] = Ctx.save { y with afcDigital := 0 })
      ∧ (x.st ≠ .closed → primaryRuns c m = false → branchLive x m = false → free → u = m)
      ∧ (∀ h, x.st ≠ .closed → primaryRuns c m = false → branchLive x m = false → nextLifecycle c m = some h → h.op = 0x0402 →
          waiting 0x0405 c.val m = [] → namedRead m c.val = false → ∃ v, u = finishC h v ∧ v.cx.ctxs[c].st = .closed) := by
  refine ⟨_, rfl, ?_⟩
  generalize moment t s = m
  intro _ x y free
  have hopen (hc : x.st ≠ .closed) (hd : frameDue c m = true) : ¬(m.cx.ctxs[c].st == .closed || !frameDue c m) = true := by
    rw [hd, show (m.cx.ctxs[c].st == .closed) = false from beq_eq_false_iff_ne.mpr hc]
    decide
  have hgives (hh : x.st ≠ .hold) (hr : (primaryRuns c m || branchLive x m) = true) :
      ¬(!(primaryRuns c m || branchLive m.cx.ctxs[c] m) || m.cx.ctxs[c].st == .hold) = true := by
    rw [show (primaryRuns c m || branchLive m.cx.ctxs[c] m) = true from hr,
      show (m.cx.ctxs[c].st == .hold) = false from beq_eq_false_iff_ne.mpr hh]
    decide
  refine ⟨fun hn => ?_, fun hc hh hr hd hfree => ?_, fun hc hh hr hb hfree hoff => ?_, fun hc hr hb hfree => ?_,
    fun h hc hr hb hn ho hw hj => ?_⟩
  · refine if_pos ?_
    obtain hn | hn := hn
    · rw [show m.cx.ctxs[c].st = _ from hn]
      rfl
    · rw [hn, Bool.not_false, Bool.or_true]
  · obtain ⟨hheld, hsw, hstd⟩ := hfree
    rw [if_neg (hopen hc hd), if_neg (hgives hh (by rw [hr]; rfl)), hr, Bool.not_true, Bool.false_or]
    refine ⟨fun hk => ?_, fun hk hoff => ?_, fun p hk hon hp hb hj => ?_⟩
    · rw [if_neg (by rw [hk]; decide), frameBoundary_idle]
      · simp only [modCtx_cx, upd_get_self]
        rfl
      · exact hheld
      · simp only [modCtx_cx, upd_get_self]
        exact hsw
      · simp only [modCtx_cx, upd_get_self]
        exact hstd
    · rw [if_pos hk, boundary_takeFrame f hheld hsw hstd]
      exact (takeFrame_leaves f hheld).2.2.1 hoff
    · rw [if_pos hk, boundary_takeFrame f hheld hsw hstd]
      exact (takeFrame_leaves f hheld).2.2.2 p hon hp hb hj
  · obtain ⟨hheld, hsw, hstd⟩ := hfree
    rw [if_neg (hopen hc (frameDue_of_not_runs hr)), if_neg (hgives hh (by rw [hb, Bool.or_true])), hr, Bool.not_false, Bool.true_or, if_pos rfl,
      boundary_takeFrame f hheld hsw hstd]
    exact (takeFrame_leaves f hheld).2.2.1 hoff
  · obtain ⟨hheld, hsw, hstd⟩ := hfree
    rw [if_neg (hopen hc (frameDue_of_not_runs hr)), if_pos (by rw [hr, show branchLive m.cx.ctxs[c] m = false from hb]; rfl)]
    exact frameBoundary_idle hheld hsw hstd
  · rw [if_neg (hopen hc (frameDue_of_not_runs hr)), if_pos (by rw [hr, show branchLive m.cx.ctxs[c] m = false from hb]; rfl)]
    exact frameBoundary_closes hn ho hw hj

/-! ### The frame boundary of a path (R152) -/

/-- A single threshold command at its path's boundary is judged by the levels that it leaves (R12, R152). -/
theorem thresholdsAt_single {p : Fin 64} {s : State} {h : Held} (hl : thresholdCmds p s = [h]) (ha : h.aux.drop 1 = [(p.val : Int)]) :
    let new := fmerge [] (itemsOf h)
    (levelsOk (fmerge s.cx.paths[p].cfg new) = true → thresholdsAt p s = finishC h (modPath p (applyThresholds new) s))
      ∧ (levelsOk (fmerge s.cx.paths[p].cfg new) = false → thresholdsAt p s = fail h .errParam 0xFFFF .outOfRange s) := by
  intro new
  have hfields : thresholdFields s.cx.paths[p].cfg [h]
      = if levelsOk (fmerge s.cx.paths[p].cfg new) then (new, [h]) else ([], []) := rfl
  unfold thresholdsAt
  dsimp only
  rw [hl, hfields]
  refine ⟨fun hok => ?_, fun hok => ?_⟩
  · rw [if_pos hok, List.foldl_cons, List.foldl_nil, if_neg (by simp), ha, if_pos (by simp)]
    rfl
  · rw [if_neg (by rw [hok]; decide)]
    rfl

/-- The source part of a commit at a path's frame boundary (R155). -/
def commitAt (p : Fin 64) (v : State) : State :=
  match ctxOf p v with
  | some c =>
    let x := v.cx.ctxs[c]
    if x.primary == some p && (waiting 0x0406 c.val v).any (fun h => itemAction (Entry.args h.entry) == 0)
        && blendOk x.std (committed x) && !commitMisses x v && !namedRead v c.val then commitPath c v
    else v
  | none => v

/-- With no commit that waits, a path's boundary brings the thresholds alone. -/
theorem commitAt_idle {p : Fin 64} {v : State} (h : ∀ c, waiting 0x0406 c v = []) : commitAt p v = v := by
  unfold commitAt
  dsimp only
  split
  case h_1 c _ =>
    rw [h c.val, List.any_nil, Bool.and_false]
    rfl
  case h_2 => rfl

theorem pathCommitApply_gives (t : DT) (p : Fin 64) (s : State) : Gives (.pathCommitApply t p) s fun u =>
    let m := moment t s
    (m.cx.paths[p].run ≠ .running → u = m)
      ∧ (∀ h, m.cx.paths[p].run = .running → thresholdCmds p m = [h] → h.aux.drop 1 = [(p.val : Int)] → (∀ c, waiting 0x0406 c m = []) →
          let new := fmerge [] (itemsOf h)
          (levelsOk (fmerge m.cx.paths[p].cfg new) = true → ∃ v, u = finishC h v ∧ v.cx.paths[p] = applyThresholds new m.cx.paths[p])
            ∧ (levelsOk (fmerge m.cx.paths[p].cfg new) = false → u = fail h .errParam 0xFFFF .outOfRange m)) := by
  refine ⟨_, rfl, ?_⟩
  generalize moment t s = m
  dsimp only
  refine ⟨fun hr => if_pos (by simpa using hr), fun h hr hl ha hw => ?_⟩
  rw [if_neg (by rw [hr]; decide)]
  obtain ⟨hok, hbad⟩ := thresholdsAt_single hl ha
  refine ⟨fun hlev => ?_, fun hlev => ?_⟩
  · have hidle (c : Nat) : waiting 0x0406 c (finishC h (modPath p (applyThresholds (fmerge [] (itemsOf h))) m)) = [] :=
      waiting_filter (held_finish ..) (congrArg TimeSt.dt (finishC_time ..)) (hw c)
    rw [hok hlev]
    refine ⟨_, commitAt_idle hidle, ?_⟩
    rw [modPath_at, if_pos rfl]
  · have hidle (c : Nat) : waiting 0x0406 c (fail h .errParam 0xFFFF .outOfRange m) = [] :=
      waiting_filter (held_finish ..) (congrArg TimeSt.dt (fail_time ..)) (hw c)
    rw [hbad hlev]
    exact commitAt_idle hidle

/-- Settles O34: a boundary at which nothing waits leaves the frame as demodulated; a frame whose blocks are gone is only counted (log entry
80), the boundary comes by itself while the primary waits (log entry 41), and a close leaves CLOSED at once (log entry 75). -/
theorem framesApplyWhatWaits : Obligations.FramesApplyWhatWaits := ⟨contextFrame_gives, pathCommitApply_gives⟩

end Sys2Proof.Machine

/-! ## Timers of a context (R158, R178, R180, R184)
-/
namespace Sys2Proof.Machine

/-- A change of one context, seen at that context. -/
theorem modCtx_get (c : Fin 64) (f : Ctx → Ctx) (s : State) : (modCtx c f s).cx.ctxs[c] = f s.cx.ctxs[c] := by
  simp only [modCtx_cx, upd_get_self]

theorem acquisitionHoldMet_gives (t d : DT) (c : Fin 64) (s : State) (ha : s.cx.ctxs[c].acqFrom = some d)
    (hs : s.cx.ctxs[c].st = .acquiring) : Gives (.acquisitionHoldMet t c) s fun u =>
      u.cx.ctxs[c].st = if msDt 20 ≤ dtSince d (now (moment t s)) then .running else .acquiring := by
  rw [← moment_cx_ctxs t s] at ha hs
  refine ⟨_, rfl, ?_⟩
  generalize moment t s = m at *
  rw [modCtx_get, ha]
  dsimp only
  by_cases hl : msDt 20 ≤ dtSince d (now m)
  · rw [if_pos ⟨hs, hl⟩, if_pos hl]
  · rw [if_neg (fun h => hl h.2), if_neg hl, hs]

theorem cnrLossTimeout_gives (t d : DT) (c : Fin 64) (s : State) (ha : s.cx.ctxs[c].lossFrom = some d)
    (hs : s.cx.ctxs[c].st = .running) : Gives (.cnrLossTimeout t c) s fun u =>
      u.cx.ctxs[c].st = if msDt 200 ≤ dtSince d (now (moment t s)) then .acquiring else .running := by
  rw [← moment_cx_ctxs t s] at ha hs
  refine ⟨_, rfl, ?_⟩
  generalize moment t s = m at *
  rw [modCtx_get, ha]
  dsimp only
  by_cases hl : msDt 200 ≤ dtSince d (now m)
  · rw [if_pos ⟨hs, hl⟩, if_pos hl]
  · rw [if_neg (fun h => hl h.2), if_neg hl, hs]

theorem pilotDetectTimeout_gives (t : DT) (c : Fin 64) (present : Bool) (s : State) (hf : s.cx.ctxs[c].std = .fm)
    (hc : s.cx.ctxs[c].st ≠ .closed) : Gives (.pilotDetectTimeout t c present) s fun u =>
      let x := s.cx.ctxs[c]
      let beyond := heldFor 50 x.pilotFrom (now (moment t s))
      (x.pilot ≠ present → beyond = true → u.cx.ctxs[c] = { x with pilot := present, pilotFrom := none })
        ∧ (x.pilot = present ∨ beyond = false → u.cx.ctxs[c] = x) := by
  rw [← moment_cx_ctxs t s] at hf hc ⊢
  refine ⟨_, rfl, ?_⟩
  generalize moment t s = m at *
  rw [modCtx_get]
  generalize m.cx.ctxs[c] = x at *
  have hopen : (x.std != .fm || x.st == .closed) = false := by simp [hf, hc]
  rw [hopen, Bool.false_or]
  refine ⟨fun hp hb => if_neg ?_, fun h => if_pos ?_⟩
  · rw [hb, beq_eq_false_iff_ne.mpr hp]
    decide
  · obtain h | h := h
    · rw [beq_iff_eq.mpr h]
      rfl
    · rw [h, Bool.not_false, Bool.or_true]

theorem migrate_cx (c : Fin 64) (w : Fin 16) (reason : Nat) (s : State) :
    (migrate c w reason s).cx = (modCtx c (fun x => { x with wheel := some w }) s).cx := by
  unfold migrate
  dsimp only
  rw [apply_ite State.cx, raiseAt_cx, ite_self]

/-- A context keeps what its growth asked for, wherever it is placed. -/
theorem regrow_eqEngaged {c : Fin 64} {old s v : State} (h : regrow c old s = some v) : v.cx.ctxs[c].eqEngaged = s.cx.ctxs[c].eqEngaged := by
  unfold regrow at h
  split at h
  · cases h
    rfl
  · obtain ⟨w, -, hv⟩ := Option.map_eq_some_iff.mp h
    rw [← hv]
    rw [migrate_cx, modCtx_get]

theorem eqAutoTimeout_gives (t : DT) (c : Fin 64) (s : State) (hf : s.cx.ctxs[c].std = .fm) (hc : s.cx.ctxs[c].st ≠ .closed)
    (he : fget s.cx.ctxs[c].cfg 0x080D = 1) :
    let x := s.cx.ctxs[c]
    let beyond := heldFor 1000 x.eqFrom (now (moment t s))
    (∀ engage, beyond = false → Gives (.eqAutoTimeout t c engage) s fun u => u = moment t s)
      ∧ (beyond = true → x.eqEngaged = true → Gives (.eqAutoTimeout t c false) s fun u =>
          u.cx.ctxs[c] = { x with eqEngaged := false, eqDenied := false, eqFrom := none })
      ∧ (beyond = true → x.eqEngaged = false →
          regrow c (moment t s) (modCtx c (fun x => { x with eqEngaged := true, eqDenied := false }) (moment t s)) = none →
          Gives (.eqAutoTimeout t c true) s fun u => u.cx.ctxs[c] = { x with eqDenied := true })
      ∧ ∀ v, beyond = true → x.eqEngaged = false →
          regrow c (moment t s) (modCtx c (fun x => { x with eqEngaged := true, eqDenied := false }) (moment t s)) = some v →
          Gives (.eqAutoTimeout t c true) s fun u => u = modCtx c (fun x => { x with eqFrom := none }) v ∧ u.cx.ctxs[c].eqEngaged = true := by
  rw [← moment_cx_ctxs t s] at hf hc he ⊢
  have hexec (engage : Bool) : exec (.eqAutoTimeout t c engage) s = execEqAutoTimeout t c engage s := rfl
  unfold Gives
  simp only [hexec, execEqAutoTimeout]
  generalize moment t s = m at *
  have hauto : (m.cx.ctxs[c].st == .closed || m.cx.ctxs[c].std != .fm || fget m.cx.ctxs[c].cfg 0x080D != 1) = false := by
    rw [beq_eq_false_iff_ne.mpr hc, hf, he]
    rfl
  simp only [hauto, Bool.false_eq_true, if_false]
  refine ⟨fun engage hb => ⟨_, rfl, ?_⟩, fun hb hg => ⟨_, rfl, ?_⟩, fun hb hg hr => ⟨_, rfl, ?_⟩, fun v hb hg hr => ⟨_, rfl, ?_⟩⟩
  · rw [show heldFor 1000 _ (now m) = false from hb]
    cases engage
    · exact if_pos (Bool.or_true _)
    · exact if_pos (Bool.or_true _)
  · rw [show heldFor 1000 _ (now m) = true from hb, hg]
    exact modCtx_get ..
  · rw [show heldFor 1000 _ (now m) = true from hb, hg, if_pos trivial, if_neg (by decide), hr]
    dsimp only
    rw [modCtx_get, hg]
  · rw [show heldFor 1000 _ (now m) = true from hb, hg, if_pos trivial, if_neg (by decide), hr]
    dsimp only
    refine ⟨rfl, ?_⟩
    rw [modCtx_get]
    refine (regrow_eqEngaged hr).trans ?_
    rw [modCtx_get]

theorem mpxPowerUpdate_gives (t d : DT) (c : Fin 64) (meanSq : Nat) (s : State) (hd : s.cx.ctxs[c].mpxFrom = some d)
    (hf : s.cx.ctxs[c].std = .fm) (hc : s.cx.ctxs[c].st ≠ .closed) (hh : s.cx.ctxs[c].st ≠ .hold) :
    Gives (.mpxPowerUpdate t c meanSq) s fun u =>
      let m := moment t s
      let x := s.cx.ctxs[c]
      let l := (meanSq :: x.mpxSeconds).take 60
      let sum : Nat := l.foldl (· + ·) 0
      let power := if sum = 0 then freeNow m else hundredthsDb sum (l.length * 180500000)
      (dtSince d (now m) < (x.mpxCount + 1) * 2 ^ 32 → u = m)
        ∧ ((x.mpxCount + 1) * 2 ^ 32 ≤ dtSince d (now m) → u.cx.ctxs[c] = { x with
            mpxSeconds := l, mpxCount := x.mpxCount + 1, mpxPower := power, mpxValid := decide (60 ≤ x.mpxCount + 1),
            mpxOver := decide (fget x.cfg 0x0810 < power) }) := by
  rw [← moment_cx_ctxs t s] at hd hf hc hh ⊢
  refine ⟨_, rfl, ?_⟩
  generalize moment t s = m at *
  dsimp only
  rw [hd]
  dsimp only
  have hlive : (m.cx.ctxs[c].std != .fm || m.cx.ctxs[c].st == .closed || m.cx.ctxs[c].st == .hold) = false := by
    rw [beq_eq_false_iff_ne.mpr hc, beq_eq_false_iff_ne.mpr hh, hf]
    rfl
  rw [hlive, Bool.false_or]
  refine ⟨fun hl => if_pos (decide_eq_true hl), fun hl => ?_⟩
  rw [if_neg (by rw [decide_eq_true_eq]; exact Nat.not_lt.mpr hl), modCtx_get]
  have hctx : (if ((meanSq :: m.cx.ctxs[c].mpxSeconds).take 60).foldl (· + ·) 0 = 0 then useFree m else m).cx = m.cx := by
    split <;> rfl
  rw [hctx, hd]

theorem measWindowEnd_gives (t : DT) (c : Fin 64) (f : WindowFigures) (s : State) (hc : s.cx.ctxs[c].st ≠ .closed)
    (hh : s.cx.ctxs[c].st ≠ .hold) : Gives (.measWindowEnd t c f) s fun u =>
      let m := moment t s
      let x := s.cx.ctxs[c]
      let depth : Int × Int := match modDepth 1000 f.envelope with
        | some d => d
        | none => if x.std = .am then (freeNow m, freeNow (useFree m)) else (0, 0)
      u.cx.ctxs[c] = if dtSince x.winFrom (now m) < msDt ((fget x.cfg 0x080E).toNat * 100) then x
        else Ctx.newWindow (now m) { x with win := windowResult x f depth } := by
  rw [← moment_cx_ctxs t s] at hc hh ⊢
  refine ⟨_, rfl, ?_⟩
  generalize moment t s = m at *
  dsimp only
  have hlive : (m.cx.ctxs[c].st == .closed || m.cx.ctxs[c].st == .hold) = false := by
    rw [beq_eq_false_iff_ne.mpr hc, beq_eq_false_iff_ne.mpr hh]
    rfl
  rw [hlive, Bool.false_or]
  by_cases hl : dtSince m.cx.ctxs[c].winFrom (now m) < msDt ((fget m.cx.ctxs[c].cfg 0x080E).toNat * 100)
  · rw [if_pos (decide_eq_true hl), if_pos hl]
  · rw [if_neg (by rw [decide_eq_true_eq]; exact hl), if_neg hl]
    cases modDepth 1000 f.envelope with
    | some d => exact modCtx_get ..
    | none =>
      by_cases ha : m.cx.ctxs[c].std = .am
      · simp only [if_pos ha]
        exact modCtx_get ..
      · simp only [if_neg ha]
        exact modCtx_get ..

/-- Settles O35: each timer is one change of its context, made when its time has run and not before. -/
theorem contextTimersAct : Obligations.ContextTimersAct :=
  ⟨acquisitionHoldMet_gives, cnrLossTimeout_gives, pilotDetectTimeout_gives, eqAutoTimeout_gives, mpxPowerUpdate_gives, measWindowEnd_gives⟩

end Sys2Proof.Machine

/-! ## Hung Wheels (R168, R170, R171, R174)

No open context stays on a Wheel under test: `Vacated` holds once its contexts are taken off, and a rescue places them on Wheels that work.
-/
namespace Sys2Proof.Machine

/-! ### What a path in HOLD leaves of its context -/

section
variable {α : Type} {g : Ctx → α}

theorem loseSignal_ctx (hg : ∀ t x, g (Ctx.loseSignal t x) = g x) (p c : Fin 64) (s : State) :
    g (loseSignal p s).cx.ctxs[c] = g s.cx.ctxs[c] := by
  unfold loseSignal
  split
  · split
    · simp only [modCtx_cx, upd_get]
      split
      · exact hg _ _
      · rfl
    · rfl
  · rfl

theorem holdPath_ctx (hg : ∀ t x, g (Ctx.loseSignal t x) = g x) (p c : Fin 64) (s : State) :
    g (holdPath p s).cx.ctxs[c] = g s.cx.ctxs[c] := by
  unfold holdPath
  split
  · rfl
  · rw [loseSignal_ctx hg, accrue_l_ctxs, modPath_cx]

end

/-! ### The contexts of a Wheel -/

theorem mem_insertCost (s : State) (c d : Fin 64) (l : List (Fin 64)) : c ∈ insertCost s d l ↔ c = d ∨ c ∈ l := by
  induction l with
  | nil => simp [insertCost]
  | cons e l ih =>
    unfold insertCost
    split
    · exact List.mem_cons
    · rw [List.mem_cons, ih, List.mem_cons]
      tauto

theorem mem_onWheel (w : Fin 16) (s : State) (c : Fin 64) :
    c ∈ onWheel w s ↔ s.cx.ctxs[c].st ≠ .closed ∧ s.cx.ctxs[c].wheel = some w := by
  have hfold (l acc : List (Fin 64)) : c ∈ l.foldl (fun l c => insertCost s c l) acc ↔ c ∈ l ∨ c ∈ acc := by
    induction l generalizing acc with
    | nil => simp
    | cons d l ih =>
      rw [List.foldl_cons, ih, mem_insertCost, List.mem_cons]
      tauto
  unfold onWheel
  rw [hfold]
  simp [-Fin.getElem_fin]

/-- The contexts that a hang takes from its Wheel. -/
def takeOff (l : List (Fin 64)) (s : State) : State := l.foldl (fun s c => modCtx c (fun x => { x.reload with wheel := none }) s) s

theorem takeOff_ctx (l : List (Fin 64)) (s : State) (c : Fin 64) :
    (c ∈ l → (takeOff l s).cx.ctxs[c].wheel = none) ∧ (c ∉ l → (takeOff l s).cx.ctxs[c] = s.cx.ctxs[c]) := by
  unfold takeOff
  induction l generalizing s with
  | nil => exact ⟨fun h => (by cases h), fun _ => rfl⟩
  | cons d l ih =>
    rw [List.foldl_cons]
    obtain ⟨hin, hout⟩ := ih (modCtx d (fun x => { x.reload with wheel := none }) s)
    refine ⟨fun hc => ?_, fun hc => ?_⟩
    · by_cases hl : c ∈ l
      · exact hin hl
      · obtain hcd | hcl := List.mem_cons.mp hc
        · subst hcd
          rw [hout hl, modCtx_get]
        · exact absurd hcl hl
    · obtain ⟨hcd, hcl⟩ := not_or.mp (fun h => hc (List.mem_cons.mpr h))
      rw [hout hcl]
      simp only [modCtx_cx, upd_get, if_neg (Ne.symm hcd)]

theorem takeOff_wheels (l : List (Fin 64)) (s : State) : (takeOff l s).cx.wheels = s.cx.wheels := by
  unfold takeOff
  refine fold_keep (g := fun s => s.cx.wheels) ?_ _ _
  exact fun _ _ => rfl

/-! ### A Wheel under test -/

/-- The Wheel is under test and no context that is not CLOSED is on it. -/
def Vacated (w : Fin 16) (s : State) : Prop :=
  s.cx.wheels[w].testing = true ∧ ∀ c : Fin 64, s.cx.ctxs[c].st ≠ .closed → s.cx.ctxs[c].wheel ≠ some w

section
variable {w : Fin 16} {s t : State}

theorem Vacated.of_keeps (h : Vacated w s) (hw : t.cx.wheels = s.cx.wheels)
    (hc : ∀ c : Fin 64, t.cx.ctxs[c].wheel = s.cx.ctxs[c].wheel ∧ (s.cx.ctxs[c].st = .closed → t.cx.ctxs[c].st = .closed)) : Vacated w t := by
  refine ⟨by rw [hw]; exact h.1, fun c hopen => ?_⟩
  rw [(hc c).1]
  exact h.2 c fun hcl => hopen ((hc c).2 hcl)

theorem Vacated.holdPath (h : Vacated w s) (p : Fin 64) : Vacated w (holdPath p s) :=
  h.of_keeps (c_wheels ((holdPath_within p s).cx rfl)) fun c =>
    ⟨holdPath_ctx (g := Ctx.wheel) (fun _ _ => rfl) p c s, (holdPath_ctx (g := Ctx.st) (fun _ _ => rfl) p c s).trans⟩

theorem Vacated.holdCtx (h : Vacated w s) (c : Fin 64) : Vacated w (holdCtx c s) := by
  unfold Sys2Proof.Machine.holdCtx
  dsimp only
  refine foldP (P := Vacated w) ?_ _ _ ?_
  · exact fun v i hv => hv
  refine h.of_keeps rfl fun d => ?_
  simp only [modCtx_cx, upd_get]
  split
  · split
    · exact ⟨rfl, id⟩
    case isFalse hn => exact ⟨rfl, fun hcl => absurd (Or.inl hcl) hn⟩
  · exact ⟨rfl, id⟩

/-- The roomier of a Wheel found and the next one. -/
def roomier (best : Option (Fin 16 × Nat)) (x : Fin 16 × Nat) : Option (Fin 16 × Nat) :=
  match best with
  | some b => if b.2 < x.2 then some x else some b
  | none => some x

theorem roomier_cases {best : Option (Fin 16 × Nat)} {x b : Fin 16 × Nat} (h : roomier best x = some b) : b = x ∨ best = some b := by
  unfold roomier at h
  split at h
  · split at h
    · exact Or.inl (Option.some.inj h).symm
    · exact Or.inr h
  · exact Or.inl (Option.some.inj h).symm

theorem mem_of_roomiest {caps : List (Fin 16 × Nat)} {b : Fin 16 × Nat} (h : roomiest caps = some b) : b ∈ caps := by
  have hfold (l : List (Fin 16 × Nat)) (acc : Option (Fin 16 × Nat)) (h : l.foldl roomier acc = some b) : b ∈ l ∨ acc = some b := by
    induction l generalizing acc with
    | nil => exact Or.inr h
    | cons x l ih =>
      obtain hb | hb := ih _ h
      · exact Or.inl (List.mem_cons_of_mem _ hb)
      · exact (roomier_cases hb).imp_left (fun h => List.mem_cons.mpr (Or.inl h))
  exact (hfold caps none h).resolve_right (fun h => nomatch h)

/-- A Wheel with room for a context is not under test (R171). -/
theorem not_testing_of_freeCaps {l : List (Fin 64 × Fin 16 × Nat)} {b : Fin 16 × Nat} (h : b ∈ freeCaps l s) :
    s.cx.wheels[b.1].testing = false := by
  obtain ⟨v, hv, rfl⟩ := List.mem_map.mp h
  have hup := (List.mem_filter.mp hv).2
  simp only [wheelUp, Bool.and_eq_true, Bool.not_eq_true'] at hup
  exact hup.1.2

theorem Vacated.rescue (h : Vacated w s) (c : Fin 64) : Vacated w (rescue s c) := by
  have hhold : Vacated w (Machine.holdCtx c ((pathsOf c s).foldl (fun s p => Machine.holdPath p s) s)) :=
    (foldP (P := Vacated w) (fun v p hv => hv.holdPath p) _ _ h).holdCtx c
  unfold Sys2Proof.Machine.rescue
  split
  case h_1 v room hroom =>
    split
    · refine ⟨h.1, fun d hd => ?_⟩
      simp only [modCtx_cx, upd_get] at hd ⊢
      split
      · intro hv
        have htest := not_testing_of_freeCaps (mem_of_roomiest hroom)
        rw [show v = w from Option.some.inj hv, h.1] at htest
        cases htest
      case isFalse hcd =>
        rw [if_neg hcd] at hd
        exact h.2 d hd
    · exact hhold
  case h_2 => exact hhold

end

theorem hangSherds_cx (w : Fin 16) (s : State) : (hangSherds w s).cx = s.cx := by
  unfold hangSherds
  rw [legalFault_l_cx, faultSherd_l_cx]

theorem wheelWatchdogExpiry_gives (t : DT) (w : Fin 16) (s : State) (hf : s.cx.wheels[w].failed = false) (ht : s.cx.wheels[w].testing = false) :
    Gives (.wheelWatchdogExpiry t w) s fun u =>
      let m := moment t s
      u.cx.wheels[w] = { s.cx.wheels[w] with testing := true, hungAt := now m, moved := (onWheel w m).map fun c => (c.val, m.cx.ctxs[c].reload.frame) }
        ∧ ∀ c : Fin 64, u.cx.ctxs[c].st ≠ .closed → u.cx.ctxs[c].wheel ≠ some w := by
  rw [← moment_cx_wheels t s] at hf ht ⊢
  refine ⟨_, rfl, ?_⟩
  generalize moment t s = m at *
  dsimp only
  rw [if_neg (by rw [hf, ht]; decide)]
  generalize hv : modWheel w _ m = v
  have hwheel : v.cx.wheels[w] = { m.cx.wheels[w] with
      testing := true, hungAt := now m, moved := (onWheel w m).map fun c => (c.val, m.cx.ctxs[c].reload.frame) } := by
    rw [← hv]
    simp only [modWheel_cx, upd_get_self]
  have hctxs : v.cx.ctxs = m.cx.ctxs := by
    rw [← hv]
    rfl
  have hvacated : Vacated w (takeOff (onWheel w m) v) := by
    refine ⟨?_, fun c hopen => ?_⟩
    · rw [takeOff_wheels, hwheel]
    · by_cases hc : c ∈ onWheel w m
      · rw [(takeOff_ctx _ v c).1 hc]
        exact nofun
      · rw [(takeOff_ctx _ v c).2 hc, hctxs] at hopen ⊢
        exact fun hw => hc ((mem_onWheel w m c).mpr ⟨hopen, hw⟩)
  have htaken := takeOff_wheels (onWheel w m) v
  by_cases he : (onWheel w m).isEmpty = true
  · rw [if_pos he, hangSherds_cx]
    exact ⟨(congrArg (fun x : Vector Wheel 16 => x[w]) htaken).trans hwheel, hvacated.2⟩
  · rw [if_neg he]
    refine ⟨?_, (foldP (P := Vacated w) (fun v c hv => hv.rescue c) _ _ hvacated).2⟩
    rw [fold_keep (g := fun s => s.cx.wheels) (fun s c => rescue_l_wheels s c)]
    exact (congrArg (fun x : Vector Wheel 16 => x[w]) htaken).trans hwheel

/-- The report of one context that a hang moved (R171). -/
def reportMoved (w : Fin 16) (s : State) (k : Nat × Nat) : State :=
  match idx 64 k.1 with
  | some c => match s.cx.ctxs[c].wheel with
    | some new =>
      let res := migratedFields c w.val new.val 3 (s.cx.ctxs[c].frame - k.2) (primaryNo s.cx.ctxs[c]) (primaryNo s.cx.ctxs[c]) s
      evSherd 0x20 k.1 res (raiseAt .ctxMigrated (now s) res s)
    | none => s
  | none => s

theorem reportMoved_cx (w : Fin 16) (s : State) (k : Nat × Nat) : (reportMoved w s k).cx = s.cx := by
  unfold reportMoved
  split
  · split
    · dsimp only
      rw [evSherd_l_cx, raiseAt_cx]
    · rfl
  · rfl

theorem hangBacklogCleared_gives (t : DT) (w : Fin 16) (s : State) : Gives (.hangBacklogCleared t w) s fun u =>
    u.cx.wheels = upd s.cx.wheels w (fun x => { x with moved := [] }) ∧ u.cx.ctxs = s.cx.ctxs := by
  rw [← moment_cx_wheels t s, ← moment_cx_ctxs t s]
  refine ⟨_, rfl, ?_⟩
  generalize moment t s = m
  dsimp only
  by_cases he : m.cx.wheels[w].moved.isEmpty = true
  · rw [if_pos he]
    refine ⟨(upd_id _ _ ?_).symm, rfl⟩
    rw [← List.isEmpty_iff.mp he]
  · rw [if_neg he, hangSherds_cx]
    have hcx := fold_keep (f := reportMoved w) (g := State.cx) (fun s k => reportMoved_cx w s k) m.cx.wheels[w].moved
      (modWheel w (fun x => { x with moved := [] }) m)
    exact ⟨(congrArg CtxSt.wheels hcx).trans (by rw [modWheel_cx]), (congrArg CtxSt.ctxs hcx).trans (by rw [modWheel_cx])⟩

theorem wheelSelfTestDone_gives (t : DT) (w : Fin 16) (pass : Bool) (s : State) : Gives (.wheelSelfTestDone t w pass) s fun u =>
    (s.cx.wheels[w].testing = true → u.cx.wheels[w] = { s.cx.wheels[w] with testing := false, failed := !pass })
      ∧ (s.cx.wheels[w].testing = false → u = moment t s) := by
  rw [← moment_cx_wheels t s]
  refine ⟨_, rfl, ?_⟩
  generalize moment t s = m
  dsimp only
  refine ⟨fun ht => ?_, fun ht => if_pos (by rw [ht]; rfl)⟩
  rw [if_neg (by rw [ht]; decide), fold_keep (g := fun s => s.cx.wheels) (fun s c => retryRescue_l_wheels s c)]
  simp only [modWheel_cx, upd_get_self]

theorem seekFailover_cases (c : Fin 64) (n : State) :
    (wantsFailover n.cx.ctxs[c] = false → seekFailover c n = n)
      ∧ (wantsFailover n.cx.ctxs[c] = true → attachBranch c .failover 0 n = none →
          seekFailover c n = modCtx c (fun x => { x with triedAt := some (now n) }) n)
      ∧ ∀ v, wantsFailover n.cx.ctxs[c] = true → attachBranch c .failover 0 n = some v → seekFailover c n = v := by
  unfold seekFailover
  refine ⟨fun hw => if_neg (by rw [hw]; decide), fun hw ha => ?_, fun v hw ha => ?_⟩
  · rw [if_pos hw, ha]
  · rw [if_pos hw, ha]

theorem failoverBranchRetry_gives (t : DT) (c : Fin 64) (s : State) (hw : s.cx.ctxs[c].wheel.isSome = true) (hh : s.cx.ctxs[c].st ≠ .hold)
    (ho : s.cx.ctxs[c].st ≠ .opening) (hr : s.cx.ctxs[c].st ≠ .retuning) : Gives (.failoverBranchRetry t c) s fun u =>
      let m := moment t s
      let n := modCtx c (fun x => { x with triedAt := some (now m) }) m
      (retryDue m.cx.ctxs[c] (now m) = false → u = m)
        ∧ (retryDue m.cx.ctxs[c] (now m) = true →
          (wantsFailover m.cx.ctxs[c] = false → u = n)
            ∧ (wantsFailover m.cx.ctxs[c] = true → attachBranch c .failover 0 n = none → u.cx.ctxs = n.cx.ctxs)
            ∧ ∀ v, wantsFailover m.cx.ctxs[c] = true → attachBranch c .failover 0 n = some v → u = v) := by
  rw [← moment_cx_ctxs t s] at hw hh ho hr
  refine ⟨_, rfl, ?_⟩
  generalize moment t s = m at *
  dsimp only
  generalize hn : modCtx c (fun x => { x with triedAt := some (now m) }) m = n
  have hctx : n.cx.ctxs[c] = { m.cx.ctxs[c] with triedAt := some (now m) } := by rw [← hn, modCtx_get]
  have hnow : now n = now m := by rw [← hn]; rfl
  refine ⟨fun hd => by rw [hd]; rfl, fun hd => ?_⟩
  have hstays : retryRescue n c = n := if_pos (by rw [hctx, hw, Bool.or_true])
  rw [hd, if_pos rfl, hstays, if_neg (by decide), if_neg, if_neg]
  · obtain ⟨hno, hnone, hsome⟩ := seekFailover_cases c n
    have hwants : wantsFailover n.cx.ctxs[c] = wantsFailover m.cx.ctxs[c] := by rw [hctx]; rfl
    rw [← hwants]
    refine ⟨hno, fun hf ha => ?_, hsome⟩
    rw [hnone hf ha, modCtx_id]
    rw [hctx, hnow]
  · rw [hctx]
    simpa using And.intro ho hr
  · rw [hctx, Bool.and_eq_true]
    exact fun h => hh (eq_of_beq h.1)

/-- Settles O36: a watchdog's expiry vacates its Wheel and the contexts go to Wheels that work; the retry of a branch waits its second. -/
theorem hungWheelsLoseTheirContexts : Obligations.HungWheelsLoseTheirContexts :=
  ⟨wheelWatchdogExpiry_gives, hangBacklogCleared_gives, wheelSelfTestDone_gives, failoverBranchRetry_gives⟩

end Sys2Proof.Machine

/-! ## DAB reception (R192 to R201)
-/
namespace Sys2Proof.Machine

theorem modDab_get (c : Fin 64) (f : DabSt → DabSt) (s : State) :
    (modDab c f s).cx.ctxs[c] = { s.cx.ctxs[c] with dab := f s.cx.ctxs[c].dab } := modCtx_get c _ s

/-- With no subscription there is nothing that takes side data. -/
theorem subsKind_nil {s : State} (h : s.cx.subs = []) (c : Fin 64) (kind : Nat) : subsKind c kind s = [] := by
  rw [subsKind, subsOf, h, List.filter_nil, List.filter_nil]

theorem frameSubs_nil {s : State} (h : s.cx.subs = []) (c : Fin 64) (kind subch : Nat) : frameSubs c kind subch s = [] := by
  rw [frameSubs, subsKind_nil h, List.filter_nil]

theorem seeAfs_dab (l : List Nat) (source : Nat) (x : Ctx) : (Ctx.seeAfs l source x).dab = x.dab := by
  unfold Ctx.seeAfs
  split <;> rfl

theorem dabNullDetected_gives (t : DT) (c : Fin 64) (k : Nat) (s : State) (hs : s.cx.ctxs[c].std = .dab)
    (hr : primaryRuns c (moment t s) = true) : Gives (.dabNullDetected t c k) s fun u =>
      let d := s.cx.ctxs[c].dab
      (d.firstNull = none → u.cx.ctxs[c].dab = { d with firstNull := some k })
        ∧ ∀ a, d.firstNull = some a → u.cx.ctxs[c].dab.firstNull = some k
            ∧ u.cx.ctxs[c].dab.sync = (d.sync || decide (a + 196608 ≤ k + 64 ∧ k ≤ a + 196608 + 64)) := by
  rw [← moment_cx_ctxs t s] at hs ⊢
  refine ⟨_, rfl, ?_⟩
  generalize moment t s = m at *
  dsimp only
  rw [if_neg (by rw [hs, hr]; decide), modDab_get]
  refine ⟨fun hn => by rw [hn], fun a ha => ?_⟩
  rw [ha]
  refine ⟨rfl, congrArg (m.cx.ctxs[c].dab.sync || ·) ?_⟩
  rw [← Bool.decide_and]
  exact decide_eq_decide.mpr (by omega)

theorem chooseMer_dab (live : Bool) (x : Ctx) : (Ctx.chooseMer live x).dab = x.dab := rfl

theorem chooseMer_st (live : Bool) (x : Ctx) : (Ctx.chooseMer live x).st = x.st := rfl

theorem dabFrameEnd_gives (t : DT) (c : Fin 64) (held null : Bool) (fibs : Nat) (s : State) (hs : s.cx.ctxs[c].std = .dab)
    (hy : s.cx.ctxs[c].dab.sync = true) (hr : primaryRuns c (moment t s) = true) : Gives (.dabFrameEnd t c held null fibs) s fun u =>
      let x := s.cx.ctxs[c]
      let y := u.cx.ctxs[c]
      (null = false → 2 ≤ x.dab.missed → y.dab.sync = false ∧ y.dab.full = false ∧ y.dab.lostAt = some (now (moment t s))
          ∧ y.st = if x.st = .running then .acquiring else x.st)
        ∧ ((null = true ∨ x.dab.missed < 2) → y.dab.sync = true ∧ y.dab.full = (held && decide (9 ≤ fibs))
          ∧ y.dab.missed = (if null then 0 else x.dab.missed + 1)
          ∧ y.st = if held = true ∧ 9 ≤ fibs ∧ x.st = .acquiring then .running else x.st) := by
  rw [← moment_cx_ctxs t s] at hs hy ⊢
  refine ⟨_, rfl, ?_⟩
  generalize moment t s = m at *
  dsimp only
  rw [if_neg (by rw [hs, hy, hr]; decide)]
  constructor
  · intro hn hm
    rw [if_neg (by rw [hn]; exact Nat.not_lt.mpr (Nat.succ_le_succ hm)), modCtx_get, modCtx_get, modDab_get, chooseMer_st]
    exact ⟨rfl, rfl, rfl, rfl⟩
  · intro hn
    have hlt : (if null = true then 0 else m.cx.ctxs[c].dab.missed + 1) < 3 := by
      split
      · decide
      · rename_i h
        have := hn.resolve_left h
        omega
    rw [if_pos hlt, modCtx_get, modCtx_get, modDab_get, chooseMer_st]
    refine ⟨hy, rfl, rfl, ?_⟩
    simp only [Bool.and_eq_true, decide_eq_true_eq, beq_iff_eq, and_assoc]

theorem cifBoundary_gives (t : DT) (c : Fin 64) (cif : Nat) (received : Bool) (s : State) (hs : s.cx.ctxs[c].std = .dab)
    (he : s.cx.ctxs[c].dab.eid.isSome = true) (hn : s.cx.ctxs[c].dab.next = none) : Gives (.cifBoundary t c cif received) s fun u =>
      let d := s.cx.ctxs[c].dab
      let e := u.cx.ctxs[c].dab
      e.cif = (if d.lostAt.isSome then d.cif else cif) ∧ e.cifsWritten = min 16 (d.cifsWritten + 1)
        ∧ e.erasedCifs = if received then d.erasedCifs - 1 else 16 := by
  rw [← moment_cx_ctxs t s] at hs he hn ⊢
  refine ⟨_, rfl, ?_⟩
  generalize moment t s = m at *
  dsimp only
  rw [if_neg (by simp [-Fin.getElem_fin, hs, Option.isNone_eq_false_iff.mpr he]), hn]
  unfold selectSubs
  dsimp only
  rw [modDab_get, modDab_get]
  exact ⟨rfl, rfl, rfl⟩

theorem logicalFrameComplete_gives (t : DT) (c : Fin 64) (k : Nat) (stamp : DT) (f : LogicalFrame) (s : State) :
    Gives (.logicalFrameComplete t c k stamp f) s fun u =>
      let d := s.cx.ctxs[c].dab
      (d.cifsWritten < 16 → u = moment t s)
        ∧ (s.cx.ctxs[c].std = .dab → 16 ≤ d.cifsWritten → d.subs.any (·.subch == k) = true → s.cx.subs = [] →
            u = modStat c k (fun y => { y with
              rsCorrected := y.rsCorrected + f.rsCorrected, rsFailed := y.rsFailed + f.rsFailed,
              syncLosses := y.syncLosses + bit f.syncLost, erasedFrames := y.erasedFrames + (if d.erasedCifs = 0 then 0 else 1) })
                (moment t s)) := by
  rw [← moment_cx_ctxs t s, ← moment_cx_subs t s]
  refine ⟨_, rfl, ?_⟩
  generalize moment t s = m at *
  dsimp only
  constructor
  · intro hw
    exact if_pos (by simp [-Fin.getElem_fin, hw])
  · intro hs hw hk hsubs
    rw [if_neg (by simp [-Fin.getElem_fin, hs, hw, hk])]
    have hnone (g : SubchStat → SubchStat) (kind : Nat) : frameSubs c kind k (modStat c k g m) = [] :=
      frameSubs_nil (s := modStat c k g m) hsubs c kind k
    simp only [hnone, List.foldl_nil]
    have hflag : (if erasedFlag m.cx.ctxs[c].dab.erasedCifs = 0 then 0 else 1) = if m.cx.ctxs[c].dab.erasedCifs = 0 then 0 else 1 := by
      unfold erasedFlag
      split <;> rfl
    rw [hflag]

theorem dabReacquisition_gives (t l : DT) (c : Fin 64) (e eid cif : Nat) (s : State) (hl : s.cx.ctxs[c].dab.lostAt = some l)
    (he : s.cx.ctxs[c].dab.eid = some e) (hy : s.cx.ctxs[c].dab.sync = true) : Gives (.dabReacquisition t c eid cif) s fun u =>
      let d := s.cx.ctxs[c].dab
      let y := u.cx.ctxs[c].dab
      let span := dtSince l (now (moment t s))
      y.lostAt = none ∧ y.cif = cif
        ∧ (e ≠ eid → y.eid = some eid ∧ y.ensembleChanged = true ∧ y.cifsWritten = 0 ∧ y.comps = [] ∧ y.subs = [])
        ∧ (e = eid → cifConsistent d.cif cif span = true → span ≤ 2 * 2 ^ 32 → y.cifsWritten = d.cifsWritten ∧ y.comps = d.comps)
        ∧ (e = eid → (cifConsistent d.cif cif span = false ∨ 2 * 2 ^ 32 < span) → y.cifsWritten = 0 ∧ y.comps = d.comps) := by
  rw [← moment_cx_ctxs t s] at hl he hy ⊢
  refine ⟨_, rfl, ?_⟩
  generalize moment t s = m at *
  dsimp only
  rw [hl, he]
  dsimp only
  rw [if_neg (by rw [hy]; decide)]
  by_cases heq : e = eid
  · rw [if_pos heq]
    by_cases hk : (cifConsistent m.cx.ctxs[c].dab.cif cif (dtSince l (now m)) && decide (dtSince l (now m) ≤ 2 * 2 ^ 32)) = true
    · rw [if_pos hk, modDab_get]
      obtain ⟨hcons, hspan⟩ := Bool.and_eq_true_iff.mp hk
      refine ⟨rfl, rfl, fun h => absurd heq h, fun _ _ _ => ⟨rfl, rfl⟩, fun _ h => ?_⟩
      rw [hcons] at h
      exact absurd (of_decide_eq_true hspan) (Nat.not_le.mpr (h.resolve_left (by decide)))
    · rw [if_neg hk, modDab_get, modDab_get]
      refine ⟨rfl, rfl, fun h => absurd heq h, fun _ hcons hspan => absurd ?_ hk, fun _ _ => ⟨rfl, rfl⟩⟩
      rw [hcons, decide_eq_true hspan]
      rfl
  · rw [if_neg heq, ensembleSherd, opSherd_cx, modDab_get, modDab_get]
    exact ⟨rfl, rfl, fun _ => ⟨rfl, rfl, rfl, rfl, rfl⟩, fun h => absurd h heq, fun h => absurd h heq⟩

theorem ficDecoded_gives (t : DT) (c : Fin 64) (f : FicData) (s : State) (hs : s.cx.ctxs[c].std = .dab)
    (hr : primaryRuns c (moment t s) = true) (hy : s.cx.ctxs[c].dab.sync = true) (hp : f.fibsPassed ≠ 0) (hsubs : s.cx.subs = [])
    (hlabels : f.labels = []) (hann : f.announce = []) (hcomps : f.components = none) (hlost : s.cx.ctxs[c].dab.lostAt = none) :
    Gives (.ficDecoded t c f) s fun u =>
      let d := s.cx.ctxs[c].dab
      u.cx.ctxs[c].dab = { d with
        eid := some f.eid, cif := f.cifCount, next := (match f.next with | some n => some n | none => d.next),
        clusters := (d.clusters ++ f.clusters).eraseDups } := by
  rw [← moment_cx_ctxs t s] at hs hy hlost ⊢
  rw [← moment_cx_subs t s] at hsubs
  refine ⟨_, rfl, ?_⟩
  generalize moment t s = m at *
  dsimp only
  rw [if_neg (by simp [-Fin.getElem_fin, hs, hr, hy, hp]), subsKind_nil hsubs, hlabels, hann]
  dsimp only [List.foldl_nil]
  rw [if_neg (by rw [hlost]; decide), takeComponents, hcomps]
  dsimp only
  rw [modCtx_get, seeAfs_dab, modDab_get] <;> rfl

theorem mem_insertTii (e a : Nat × Nat × Int × Int) (l : List (Nat × Nat × Int × Int)) : a ∈ insertTii e l ↔ a = e ∨ a ∈ l := by
  induction l with
  | nil => simp [insertTii]
  | cons h rest ih =>
    rw [insertTii]
    split
    · exact List.mem_cons
    · rw [List.mem_cons, ih, List.mem_cons]
      exact or_left_comm

/-- The strongest transmitters come first. -/
def StrongestFirst (l : List (Nat × Nat × Int × Int)) : Prop := l.Pairwise fun a b => b.2.2.1 ≤ a.2.2.1

theorem StrongestFirst.insertTii {e : Nat × Nat × Int × Int} {l : List (Nat × Nat × Int × Int)} (hl : StrongestFirst l) :
    StrongestFirst (insertTii e l) := by
  induction l with
  | nil => exact List.pairwise_singleton _ _
  | cons h rest ih =>
    obtain ⟨hh, hrest⟩ := List.pairwise_cons.mp hl
    rw [Machine.insertTii]
    split
    · next hlt =>
      refine List.pairwise_cons.mpr ⟨fun b hb => ?_, hl⟩
      rcases List.mem_cons.mp hb with rfl | hb
      · exact hlt.le
      · exact (hh b hb).trans hlt.le
    · next hge =>
      refine List.pairwise_cons.mpr ⟨fun b hb => ?_, ih hrest⟩
      rcases (mem_insertTii e b rest).mp hb with rfl | hb
      · exact not_lt.mp hge
      · exact hh b hb

/-- Transmitters inserted one after another lie strongest first, and none is there that was not inserted. -/
theorem foldl_insertTii (l acc : List (Nat × Nat × Int × Int)) (hacc : StrongestFirst acc) :
    StrongestFirst (l.foldl (fun acc e => insertTii e acc) acc) ∧
      ∀ a ∈ l.foldl (fun acc e => insertTii e acc) acc, a ∈ l ∨ a ∈ acc := by
  induction l generalizing acc with
  | nil => exact ⟨hacc, fun a ha => .inr ha⟩
  | cons e rest ih =>
    obtain ⟨hsorted, hmem⟩ := ih (insertTii e acc) hacc.insertTii
    refine ⟨hsorted, fun a ha => ?_⟩
    rcases hmem a ha with h | h
    · exact .inl (List.mem_cons_of_mem _ h)
    · exact ((mem_insertTii e a acc).mp h).imp (fun h => List.mem_cons.mpr (.inl h)) id

theorem tiiListUpdate_gives (t : DT) (c : Fin 64) (l : List (Nat × Nat × Int × Int)) (s : State) (hs : s.cx.ctxs[c].std = .dab)
    (hy : s.cx.ctxs[c].dab.sync = true) (hon : fget s.cx.ctxs[c].cfg 0x0908 = 1) : Gives (.tiiListUpdate t c l) s fun u =>
      u.cx.ctxs[c].dab.tii.length ≤ 8 ∧ (∀ e ∈ u.cx.ctxs[c].dab.tii, e ∈ l ∧ -300 ≤ e.2.2.1 ∧ e.2.2.2.natAbs ≤ 2460)
        ∧ u.cx.ctxs[c].dab.tii.Pairwise fun a b => b.2.2.1 ≤ a.2.2.1 := by
  rw [← moment_cx_ctxs t s] at hs hy hon
  refine ⟨_, rfl, ?_⟩
  generalize moment t s = m at *
  rw [if_neg (by rw [hs, hy, hon]; decide), modDab_get]
  obtain ⟨hsorted, hmem⟩ := foldl_insertTii (l.filter fun e => decide (-300 ≤ e.2.2.1) && decide (e.2.2.2.natAbs ≤ 2460)) [] .nil
  refine ⟨List.length_take_le _ _, fun e he => ?_, hsorted.sublist (List.take_sublist _ _)⟩
  have hin := (hmem e (List.mem_of_mem_take he)).resolve_right List.not_mem_nil
  obtain ⟨hl, hbounds⟩ := List.mem_filter.mp hin
  obtain ⟨hlevel, hdelay⟩ := Bool.and_eq_true_iff.mp hbounds
  exact ⟨hl, of_decide_eq_true hlevel, of_decide_eq_true hdelay⟩

/-- Settles O37. A CIF not received is written as erased, and the CIF count after a loss may be one CIF off (the model's choices, log
entry 35). -/
theorem dabReceptionFollowsItsFrames : Obligations.DabReceptionFollowsItsFrames :=
  ⟨dabNullDetected_gives, dabFrameEnd_gives, cifBoundary_gives, logicalFrameComplete_gives, dabReacquisition_gives, ficDecoded_gives,
    tiiListUpdate_gives⟩

end Sys2Proof.Machine

/-! ## DRM reception (R202 to R208)

A frame's FAC is judged by `DrmSt.takeFrame`; its lemmas say when sync and full reception hold after it. An organisation that applies changes
the components of its context, and what follows from it leaves them alone.
-/
namespace Sys2Proof.Machine

/-! ### What a frame does to the DRM part -/

/-- Whether a frame was received in another robustness mode than the one known. -/
def DrmSt.otherMode (f : DrmFrame) (d : DrmSt) : Bool := d.mode.isSome && f.mode.isSome && d.mode != f.mode

/-- Whether a frame holds synchronisation. -/
def DrmSt.holds (f : DrmFrame) (d : DrmSt) : Bool := f.syncHeld && !d.otherMode f

section
variable {std : Standard} {f : DrmFrame} {ok : Bool} {t : DT} {d : DrmSt}

theorem DrmSt.otherMode_iff : d.otherMode f = true ↔ ∃ a b, d.mode = some a ∧ f.mode = some b ∧ a ≠ b := by
  unfold DrmSt.otherMode
  cases d.mode <;> cases f.mode <;> simp

theorem DrmSt.holds_eq_false_iff :
    d.holds f = false ↔ f.syncHeld = false ∨ ∃ a b, d.mode = some a ∧ f.mode = some b ∧ a ≠ b := by
  rw [DrmSt.holds, Bool.and_eq_false_iff, Bool.not_eq_false', DrmSt.otherMode_iff]

theorem takeFrame_sync : (d.takeFrame std f ok t).sync = d.holds f := rfl

theorem takeFrame_compsNext : (d.takeFrame std f ok t).compsNext = d.compsNext := rfl

theorem takeFrame_bad : (d.takeFrame std f ok t).bad = if f.facOk then 0 else d.bad + 1 := rfl

theorem takeFrame_full : (d.takeFrame std f ok t).full = (d.holds f && ok && f.facOk && decide (1 ≤ d.good)) := by
  change decide (2 ≤ if (d.holds f && ok && f.facOk) = true then min 2 (d.good + 1) else 0) = _
  cases d.holds f && ok && f.facOk
  · rfl
  · rw [if_pos rfl, Bool.true_and]
    exact decide_eq_decide.mpr (by omega)

/-- The first FAC that passes with sync gives the configuration (R204). -/
theorem takeFrame_first (hheld : d.holds f = true) (hok : f.facOk = true) (hnew : d.facTaken = false) :
    (d.takeFrame std f ok t).occupancy = f.occupancy ∧ (d.takeFrame std f ok t).longInt = f.longInterleave
      ∧ (d.takeFrame std f ok t).qam = f.qam := by
  have htake : (f.facOk && (f.syncHeld && !(d.mode.isSome && f.mode.isSome && d.mode != f.mode))
      && (!d.facTaken || (f.superFrameStart && (decide (d.reconfIndex ≤ 1) || decide (f.reconfigIndex = 0))))) = true := by
    rw [show (f.syncHeld && !(d.mode.isSome && f.mode.isSome && d.mode != f.mode)) = true from hheld, hok, hnew]
    rfl
  exact ⟨if_pos htake, if_pos htake, if_pos htake⟩

end

/-! ### What an organisation that applies leaves -/

/-- The standard and the DRM part of a context. -/
def Ctx.drmPart (x : Ctx) : Standard × DrmSt := (x.std, x.drm)

theorem regrow_drmPart {c : Fin 64} {old s v : State} (h : regrow c old s = some v) : v.cx.ctxs[c].drmPart = s.cx.ctxs[c].drmPart := by
  unfold regrow at h
  split at h
  · cases h
    rfl
  · obtain ⟨w, -, hv⟩ := Option.map_eq_some_iff.mp h
    rw [← hv, migrate_cx, modCtx_get]
    rfl

theorem dropStarts_cx (c : Fin 64) (s : State) : (dropStarts c s).cx = s.cx := (dropStarts_within c s).cx_eq rfl rfl rfl rfl

theorem resumeService_cx (c : Fin 64) (s : State) (v : Fin 96) : (resumeService c s v).cx = s.cx :=
  (resumeService_within c s v).cx_eq rfl rfl rfl rfl

theorem waitService_cx (s : State) (v : Fin 96) : (waitService s v).cx = s.cx := (waitService_within s v).cx_eq rfl rfl rfl rfl

theorem denyGrown_drmPart (c : Fin 64) (old s : State) : (denyGrown c old s).cx.ctxs[c].drmPart = s.cx.ctxs[c].drmPart := by
  unfold denyGrown
  dsimp only
  rw [modCtx_get]
  rfl

theorem settleCost_drmPart (c : Fin 64) (old s : State) : (settleCost c old s).cx.ctxs[c].drmPart = s.cx.ctxs[c].drmPart := by
  have hclear : (modCtx c (fun x => { x with dab := { x.dab with denied := [] } }) s).cx.ctxs[c].drmPart = s.cx.ctxs[c].drmPart := by
    rw [modCtx_get]
    rfl
  unfold settleCost
  dsimp only
  split
  · next t ht => exact (regrow_drmPart ht).trans hclear
  · split
    · next t ht =>
      rw [regrow_drmPart ht, dropStarts_cx]
      exact hclear
    · generalize hdeny : denyGrown c old _ = n
      have hn : n.cx.ctxs[c].drmPart = s.cx.ctxs[c].drmPart := by
        rw [← hdeny, denyGrown_drmPart, dropStarts_cx]
        exact hclear
      cases hr : regrow c old n with
      | none => exact hn
      | some t => exact (regrow_drmPart hr).trans hn

theorem compsOf_of_drm {x : Ctx} (h : isDrm x.std = true) : compsOf x = x.drm.comps :=
  if_neg fun hdab => by rw [hdab] at h; exact absurd h (by decide)

theorem setComps_of_drm {x : Ctx} (l : List Component) (h : isDrm x.std = true) : Ctx.setComps l x =
    { x with drm := { x.drm with comps := l, streams := x.drm.streams.filter fun e => l.any (·.subch == e.1) } } :=
  if_neg fun hdab => by rw [hdab] at h; exact absurd h (by decide)

/-- Without subscriptions an organisation changes the components of its DRM context, not what is announced, and no subscription comes. -/
theorem applyOrg_drm (c : Fin 64) (l : List Component) (s : State) (hs : isDrm s.cx.ctxs[c].std = true) (hsubs : s.cx.subs = []) :
    compsOf (applyOrg c l s).cx.ctxs[c] = l ∧ (applyOrg c l s).cx.ctxs[c].drm.compsNext = s.cx.ctxs[c].drm.compsNext
      ∧ (applyOrg c l s).cx.subs = [] := by
  by_cases hsame : compsOf s.cx.ctxs[c] = l
  · rw [show applyOrg c l s = s from if_pos hsame]
    exact ⟨hsame, rfl, hsubs⟩
  · have hnone : subsOf c.val (modCtx c (Ctx.setComps l) s) = [] := by
      rw [subsOf, modCtx_cx, hsubs]
      rfl
    obtain ⟨n, happly, hn⟩ : ∃ n : State, applyOrg c l s = (svcsOf c.val (settleCost c s n)).foldl (resumeService c) (settleCost c s n)
        ∧ n.cx = (modCtx c (Ctx.setComps l) s).cx := by
      refine ⟨?n, ?_, ?_⟩
      rotate_left
      · unfold applyOrg
        rw [if_neg hsame]
      · refine (fold_keep (g := State.cx) waitService_cx _ _).trans ?_
        rw [hnone]
        rfl
    rw [happly]
    have hpart : (settleCost c s n).cx.ctxs[c].drmPart = (Ctx.setComps l s.cx.ctxs[c]).drmPart := by
      rw [settleCost_drmPart, hn, modCtx_get]
    have hkept : (settleCost c s n).cx.subs = [] := by
      rw [c_subs ((settleCost_within c s n).cx rfl), hn]
      exact hsubs
    generalize settleCost c s n = z at *
    rw [show (List.foldl (resumeService c) z (svcsOf c.val z)).cx = z.cx from fold_keep (g := State.cx) (resumeService_cx c) _ _]
    rw [setComps_of_drm l hs] at hpart
    obtain ⟨hstd, hdrm⟩ := Prod.mk.inj hpart
    rw [compsOf_of_drm (by rw [hstd]; exact hs), hdrm]
    exact ⟨rfl, rfl, hkept⟩

theorem applyOrg_same (c : Fin 64) (s : State) : applyOrg c (compsOf s.cx.ctxs[c]) s = s := if_pos rfl

/-! ### The frame and the SDC -/

theorem drmFrameEnd_gives (t : DT) (c : Fin 64) (f : DrmFrame) (s : State) (hs : isDrm s.cx.ctxs[c].std = true)
    (hr : primaryRuns c (moment t s) = true) (hsubs : s.cx.subs = []) (hstreams : f.streams = [])
    (hnext : s.cx.ctxs[c].drm.compsNext = none ∨ s.cx.ctxs[c].drm.reconfigures f = false) : Gives (.drmFrameEnd t c f) s fun u =>
      let x := s.cx.ctxs[c]
      let y := u.cx.ctxs[c]
      y.drm = x.drm.takeFrame x.std f (modeOk x f.mode) (now (moment t s))
        ∧ y.st = if x.st = .acquiring ∧ y.drm.full = true then .running
          else if x.st = .running ∧ (3 ≤ y.drm.bad ∨ y.drm.sync = false) then .acquiring else x.st := by
  rw [← moment_cx_ctxs t s] at hs hnext ⊢
  rw [← moment_cx_subs t s] at hsubs
  refine ⟨_, rfl, ?_⟩
  generalize moment t s = m at *
  dsimp only
  have hnone : (if m.cx.ctxs[c].drm.reconfigures f = true then m.cx.ctxs[c].drm.compsNext else none) = none := by
    obtain h | h := hnext
    · rw [h, ite_self]
    · rw [if_neg (by rw [h]; decide)]
  rw [if_neg (by rw [hs, hr]; decide), hnone, hstreams]
  dsimp only [List.foldl_nil]
  have hsubs8 (g : Ctx → Ctx) : subsKind c 8 (modCtx c g m) = [] := subsKind_nil (s := modCtx c g m) hsubs c 8
  simp only [hsubs8, List.foldl_nil, ite_self, modCtx_get]
  exact ⟨rfl, rfl⟩

theorem drmFrameEnd_follows (t : DT) (c : Fin 64) (f : DrmFrame) (s : State) (hs : isDrm s.cx.ctxs[c].std = true)
    (hr : primaryRuns c (moment t s) = true) (hsubs : s.cx.subs = []) (hstreams : f.streams = [])
    (hnext : s.cx.ctxs[c].drm.compsNext = none ∨ s.cx.ctxs[c].drm.reconfigures f = false) : Gives (.drmFrameEnd t c f) s fun u =>
      let x := s.cx.ctxs[c]
      let y := u.cx.ctxs[c]
      let other := ∃ a b, x.drm.mode = some a ∧ f.mode = some b ∧ a ≠ b
      let lost := f.syncHeld = false ∨ other
      y.drm = x.drm.takeFrame x.std f (modeOk x f.mode) (now (moment t s)) ∧ (y.drm.sync = false ↔ lost)
        ∧ (f.syncHeld = true → f.facOk = true → modeOk x f.mode = true → 1 ≤ x.drm.good → f.mode = x.drm.mode → y.drm.full = true)
        ∧ (lost ∨ f.facOk = false ∨ modeOk x f.mode = false → y.drm.full = false)
        ∧ (¬ lost → f.facOk = true → x.drm.facTaken = false →
            y.drm.occupancy = f.occupancy ∧ y.drm.longInt = f.longInterleave ∧ y.drm.qam = f.qam)
        ∧ (x.st = .running → (lost ∨ (f.facOk = false ∧ 2 ≤ x.drm.bad)) → y.st = .acquiring)
        ∧ (x.st = .running → ¬ lost → (f.facOk = true ∨ x.drm.bad < 2) → y.st = .running)
        ∧ (x.st = .acquiring → y.st = if y.drm.full then .running else .acquiring) := by
  obtain ⟨u, hu, hdrm, hst⟩ := drmFrameEnd_gives t c f s hs hr hsubs hstreams hnext
  refine ⟨u, hu, ?_⟩
  dsimp only
  rw [hdrm] at hst
  rw [hst, hdrm, takeFrame_sync, takeFrame_full, takeFrame_bad, ← DrmSt.holds_eq_false_iff]
  generalize s.cx.ctxs[c] = x at *
  refine ⟨rfl, Iff.rfl, fun hheld hok hmode hgood hsame => ?_, fun h => ?_, fun hheld hok hnew => ?_, fun hx h => ?_, fun hx hheld h => ?_,
    fun hx => ?_⟩
  · have hother : x.drm.otherMode f = false := by
      rw [DrmSt.otherMode, hsame, bne_self_eq_false, Bool.and_false]
    rw [DrmSt.holds, hheld, hother, hok, hmode, decide_eq_true hgood]
    rfl
  · obtain h | h | h := h <;> simp [h]
  · exact takeFrame_first (Bool.not_eq_false _ ▸ hheld) hok hnew
  · rw [hx, if_neg (by simp)]
    refine if_pos ⟨rfl, ?_⟩
    obtain h | ⟨hbad, hcount⟩ := h
    · exact .inr h
    · exact .inl (by rw [if_neg (by rw [hbad]; decide)]; exact Nat.succ_le_succ hcount)
  · rw [hx, if_neg (by simp)]
    refine if_neg fun hfall => ?_
    refine hfall.2.elim (fun hcount => ?_) hheld
    split at hcount
    · omega
    · next hbad => exact absurd (h.resolve_left hbad) (by omega)
  · rw [hx]
    simp

theorem drmFrameEnd_reconfigures (t : DT) (c : Fin 64) (f : DrmFrame) (l : List Component) (s : State) (hs : isDrm s.cx.ctxs[c].std = true)
    (hr : primaryRuns c (moment t s) = true) (hstreams : f.streams = []) (hsubs : s.cx.subs = [])
    (hnext : s.cx.ctxs[c].drm.compsNext = some l) (hrec : s.cx.ctxs[c].drm.reconfigures f = true) : Gives (.drmFrameEnd t c f) s fun u =>
      compsOf u.cx.ctxs[c] = l ∧ u.cx.ctxs[c].drm.compsNext = none := by
  rw [← moment_cx_ctxs t s] at hs hnext hrec
  rw [← moment_cx_subs t s] at hsubs
  refine ⟨_, rfl, ?_⟩
  generalize moment t s = m at *
  dsimp only
  rw [if_neg (by rw [hs, hr]; decide), hrec, hnext, hstreams]
  dsimp only [List.foldl_nil]
  generalize hn : modCtx c _ m = n
  have hnctx : n.cx.ctxs[c].std = m.cx.ctxs[c].std ∧ n.cx.ctxs[c].drm.compsNext = none ∧ n.cx.subs = [] := by
    rw [← hn, modCtx_get]
    exact ⟨rfl, rfl, hsubs⟩
  obtain ⟨hstd, hcleared, hnsubs⟩ := hnctx
  obtain ⟨hcomps, hkept, hleft⟩ := applyOrg_drm c l n (by rw [hstd]; exact hs) hnsubs
  have hnone : subsKind c 8 (applyOrg c l n) = [] := subsKind_nil hleft c 8
  simp only [if_true, hnone, List.foldl_nil, ite_self]
  exact ⟨hcomps, hkept.trans hcleared⟩

theorem sdcDecoded_gives (t : DT) (c : Fin 64) (d : SdcData) (s : State) (hs : isDrm s.cx.ctxs[c].std = true)
    (hr : primaryRuns c (moment t s) = true) (hy : s.cx.ctxs[c].drm.sync = true) : Gives (.sdcDecoded t c d) s fun u =>
      (d.crcOk = false → u.cx.ctxs[c].drm.sdcErr = s.cx.ctxs[c].drm.sdcErr + 1 ∧ u.cx.ctxs[c].drm.comps = s.cx.ctxs[c].drm.comps)
        ∧ (d.crcOk = true → s.cx.subs = [] → d.alerts = [] → compsOf s.cx.ctxs[c] = d.components → d.nextComponents = none →
            u = modCtx c (Ctx.seeAfs d.afs 4) (moment t s)) := by
  rw [← moment_cx_ctxs t s, ← moment_cx_subs t s] at *
  refine ⟨_, rfl, ?_⟩
  generalize moment t s = m at *
  dsimp only
  rw [if_neg (by rw [hs, hr, hy]; decide)]
  refine ⟨fun hbad => ?_, fun hok hsubs halerts hcomps hnext => ?_⟩
  · rw [if_pos (by rw [hbad]; rfl), modDrm, modCtx_get]
    exact ⟨rfl, rfl⟩
  · have hentities : d.entities.foldl (fun s e => ((subsKind c 9 s).filter fun u => maskBit u e.1).foldl (fun s u =>
        deliverChanged u.id (e.1 + 16 * e.2.1) 0 d.stamp (drmAux m.cx.ctxs[c].drm 0) (leBytes 1 e.1 ++ e.2.2) s) s) m = m :=
      foldId (fun e => by rw [subsKind_nil hsubs]; rfl) _
    have hnothing : modDrm c (fun y => { y with compsNext := y.compsNext }) m = m := modCtx_id c rfl
    rw [if_neg (by rw [hok]; decide), hentities, hnext, halerts, ← hcomps]
    dsimp only
    rw [hnothing, applyOrg_same]
    rfl

/-- Settles O38. -/
theorem drmReceptionFollowsItsFrames : Obligations.DrmReceptionFollowsItsFrames :=
  ⟨drmFrameEnd_follows, drmFrameEnd_reconfigures, sdcDecoded_gives⟩

end Sys2Proof.Machine

/-! ## Side data (R214 to R228, R240)

`RdsSt.counts` is what the assembly of items and flags from a group leaves of the RDS part of a context.
-/
namespace Sys2Proof.Machine

/-! ### Subscriptions (R214, R215) -/

theorem regrow_subs {c : Fin 64} {old s v : State} (h : regrow c old s = some v) : v.cx.subs = s.cx.subs := by
  unfold regrow at h
  split at h
  · cases h
    rfl
  · obtain ⟨w, -, hv⟩ := Option.map_eq_some_iff.mp h
    rw [← hv, migrate_cx, modCtx_cx]

theorem dataSubscribe_does (e : Entry) (c : Fin 64) : Does (.dataSubscribe e) specDataSubscribe e fun h u t =>
    let a := Entry.args e
    let kind := le a 0 1
    let id := freeSub u
    let new : Sub := { id := id, ctx := c.val, kind := kind, selector := (a.drop 8).take 10, seq := 0, last := [], parts := [], motSince := [] }
    (openCtx h u = none → t = reject h .errState u)
      ∧ (openCtx h u = some c → kindOk kind u.cx.ctxs[c].std = false → t = fail h .errParam (Entry.offset e 0) .outOfRange u)
      ∧ (openCtx h u = some c → kindOk kind u.cx.ctxs[c].std = true → (512 ≤ u.cx.subs.length ∨ 32 ≤ (subsOf c.val u).length) →
          t = reject h .noResource u)
      ∧ (∀ v, openCtx h u = some c → kindOk kind u.cx.ctxs[c].std = true → u.cx.subs.length < 512 → (subsOf c.val u).length < 32 →
          regrow c u (modCtx c (fun x => x.askAgain (subSubch x new).toList) (modCx (fun x => { x with subs := x.subs ++ [new], nextSub := id + 1 }) u))
            = some v →
          t = finish h .ok [(16, 2, id.toNat)] v ∧ v.cx.subs = u.cx.subs ++ [new]) := by
  refine does_of (fun _ => rfl) fun h u he _ => ?_
  subst he
  intro a kind id new
  unfold doDataSubscribe
  refine ⟨fun ho => by rw [ho], fun ho hk => ?_, fun ho hk hfull => ?_, fun v ho hk hdev hctx hv => ?_⟩ <;> rw [ho] <;> dsimp only
  · exact if_pos (by rw [show kindOk _ _ = false from hk]; rfl)
  · rw [if_neg (by rw [show kindOk _ _ = true from hk]; decide)]
    exact if_pos (by simpa using hfull)
  · rw [if_neg (by rw [show kindOk _ _ = true from hk]; decide),
      if_neg (by simpa using And.intro hdev hctx)]
    refine ⟨?_, (regrow_subs hv).trans (by rw [modCtx_cx]; rfl)⟩
    rw [show regrow c u _ = some v from hv]

theorem dataUnsubscribe_does (e : Entry) (c : Fin 64) : Does (.dataUnsubscribe e) specDataUnsubscribe e fun h u t =>
    let n := le (Entry.args e) 0 2
    (openCtx h u = none → t = reject h .errState u)
      ∧ (openCtx h u = some c → (subsOf c.val u).any (fun w => w.id.toNat == n) = true → t = park h [] u)
      ∧ (openCtx h u = some c → (subsOf c.val u).any (fun w => w.id.toNat == n) = false → t = fail h .errParam (Entry.offset e 0) .outOfRange u) := by
  refine does_of (fun _ => rfl) fun h u he _ => ?_
  subst he
  intro n
  unfold doDataUnsubscribe
  refine ⟨fun ho => by rw [ho], fun ho hn => ?_, fun ho hn => ?_⟩ <;> rw [ho] <;> dsimp only
  · exact if_pos hn
  · exact if_neg (by rw [show (subsOf c.val u).any _ = false from hn]; decide)

/-! ### RDS groups (R220 to R222) -/

/-- The block history, synchronisation and group counts of the RDS part. -/
def RdsSt.counts (r : RdsSt) : List Bool × Bool × Nat × Nat := (r.blocks, r.sync, r.mmbs, r.groups)

theorem takePi_counts (g : RdsGroup) (r : RdsSt) : (r.takePi g).counts = r.counts := by
  unfold RdsSt.takePi
  split
  · rfl
  · split
    · split <;> rfl
    · rfl

/-- The RDS part of a context. -/
def rdsOf (c : Fin 64) (s : State) : RdsSt := s.cx.ctxs[c].rds

section
variable {s t : State} {c : Fin 64}

theorem rdsOf_congr (h : t.cx.ctxs = s.cx.ctxs) : rdsOf c t = rdsOf c s := by rw [rdsOf, rdsOf, h]

theorem rdsOf_modCtx (f : Ctx → Ctx) : rdsOf c (modCtx c f s) = (f s.cx.ctxs[c]).rds := congrArg Ctx.rds (modCtx_get c f s)

theorem rdsOf_raiseAlert (f : AlertFlag) (on restated : Bool) (stamp : DT) : rdsOf c (raiseAlert c f on restated stamp s) = rdsOf c s :=
  rdsOf_congr ((raiseAlert_within ..).ctxs rfl)

theorem rdsOf_dataRec (id : BitVec 16) (flags : Nat) (dt : DT) (aux : Nat) (payload : List Byte) :
    rdsOf c (dataRec id flags dt aux payload s) = rdsOf c s := rdsOf_congr ((dataRec_within ..).ctxs rfl)

end

theorem takeItem_counts (c : Fin 64) (stamp : DT) (s : State) (g : Segment) : (rdsOf c (takeItem c stamp s g)).counts = (rdsOf c s).counts := by
  unfold takeItem
  dsimp only
  split
  · refine (fold_keep (g := fun s => (rdsOf c s).counts) ?_ _ _).trans ?_
    · exact fun n u => congrArg RdsSt.counts (rdsOf_congr (deliverChanged_l_ctxs ..))
    · rw [rdsOf_modCtx, modCtx_get]
      rfl
  · rw [rdsOf_modCtx]
    rfl

theorem takeFlag_rds (c : Fin 64) (stamp : DT) (s : State) (f : AlertFlag) : rdsOf c (takeFlag c stamp s f) = rdsOf c s := by
  unfold takeFlag
  dsimp only
  split
  · rfl
  · split
    · rw [rdsOf_raiseAlert, rdsOf_modCtx]
      rfl
    · split
      · rw [rdsOf_raiseAlert, rdsOf_modCtx]
        rfl
      · rw [rdsOf_modCtx]
        rfl
    · split
      · rw [rdsOf_modCtx]
        rfl
      · rw [rdsOf_raiseAlert, rdsOf_modCtx]
        rfl
    · rfl

theorem takeFlags_rds (c : Fin 64) (stamp : DT) (l : List AlertFlag) (s : State) : rdsOf c (takeFlags c stamp l s) = rdsOf c s :=
  fold_keep (g := rdsOf c) (takeFlag_rds c stamp) _ _

/-- One group more keeps equal counts equal. -/
theorem counts_succ {a b : RdsSt} (h : a.counts = b.counts) :
    { a with groups := a.groups + 1 }.counts = { b with groups := b.groups + 1 }.counts := by
  simp only [RdsSt.counts, Prod.mk.injEq] at h ⊢
  obtain ⟨hblocks, hsync, hmmbs, hgroups⟩ := h
  exact ⟨hblocks, hsync, hmmbs, congrArg (· + 1) hgroups⟩

theorem seeAfs_rds (l : List Nat) (source : Nat) (x : Ctx) : (Ctx.seeAfs l source x).rds = x.rds := by
  unfold Ctx.seeAfs
  split <;> rfl

/-- A delivered group is counted; its record, items, alternatives and flags leave the counts alone. -/
theorem takeGroup_counts (c : Fin 64) (g : RdsGroup) (s : State) :
    (rdsOf c (takeGroup c g s)).counts = { rdsOf c s with groups := (rdsOf c s).groups + 1 }.counts := by
  unfold takeGroup
  dsimp only
  rw [takeFlags_rds, rdsOf_modCtx, seeAfs_rds, seeAfs_rds]
  refine (fold_keep (g := fun s => (rdsOf c s).counts) (takeItem_counts c g.stamp) _ _).trans ?_
  refine congrArg RdsSt.counts ((fold_keep (g := rdsOf c) ?_ _ _).trans (rdsOf_modCtx _))
  exact fun n u => rdsOf_dataRec ..

theorem takeBlocks_synced {r : RdsSt} {g : RdsGroup} (h : r.sync = true) :
    (r.takeBlocks g).sync = !decide (45 ≤ ((r.takeBlocks g).blocks.take (min 50 (r.synced + 4))).countP id) := by
  unfold RdsSt.takeBlocks
  dsimp only
  rw [h]
  rfl

/-- A group is delivered in sync when block A or B passes (R221). -/
theorem delivered_iff (sync : Bool) (a b : Nat) : (sync && (blockOk a || blockOk b)) = true ↔ sync = true ∧ (a < 2 ∨ b < 2) := by
  simp [blockOk]

theorem rdsGroupReceived_gives (t : DT) (c : Fin 64) (g : RdsGroup) (s : State) (hs : s.cx.ctxs[c].std = .fm)
    (hr : primaryRuns c (moment t s) = true) : Gives (.rdsGroupReceived t c g) s fun u =>
      let x := s.cx.ctxs[c]
      let k := correctGroup (fget x.cfg 0x0A01) g
      let r := x.rds.takeBlocks k
      let y := u.cx.ctxs[c].rds
      let e := fget x.cfg 0x0A00 = 1 ∧ g.mmbs = true
      y.blocks = r.blocks ∧ y.sync = r.sync
        ∧ (e → y.mmbs = x.rds.mmbs + 1 ∧ y.groups = x.rds.groups)
        ∧ (¬ e → y.groups = if r.sync = true ∧ (k.stA.val < 2 ∨ k.stB.val < 2) then x.rds.groups + 1 else x.rds.groups) := by
  rw [← moment_cx_ctxs t s] at hs ⊢
  refine ⟨_, rfl, ?_⟩
  generalize moment t s = m at *
  intro x k r y e
  have hrun : ¬(m.cx.ctxs[c].std != .fm || !primaryRuns c m) = true := by rw [hs, hr]; decide
  by_cases he : e
  · have hmm : (decide (fget m.cx.ctxs[c].cfg 0x0A00 = 1) && (correctGroup (fget m.cx.ctxs[c].cfg 0x0A01) g).mmbs) = true :=
      Bool.and_eq_true_iff.mpr ⟨decide_eq_true he.1, he.2⟩
    have hy : y = { r with mmbs := r.mmbs + 1 } := by
      change rdsOf c (if _ then _ else _) = _
      rw [if_neg hrun]
      dsimp only
      rw [if_pos hmm, rdsOf_modCtx]
    rw [hy]
    exact ⟨rfl, rfl, fun _ => ⟨rfl, rfl⟩, fun h => absurd he h⟩
  · have hmm : ¬(decide (fget m.cx.ctxs[c].cfg 0x0A00 = 1) && (correctGroup (fget m.cx.ctxs[c].cfg 0x0A01) g).mmbs) = true :=
      fun h => he ((Bool.and_eq_true_iff.mp h).imp of_decide_eq_true id)
    have hnew : (if r.sync = true then r.takePi k else r).counts = r.counts := by
      split
      · exact takePi_counts k r
      · rfl
    have hy : y.counts = if r.sync = true ∧ (k.stA.val < 2 ∨ k.stB.val < 2) then { r with groups := r.groups + 1 }.counts else r.counts := by
      change (rdsOf c (if _ then _ else _)).counts = _
      rw [if_neg hrun]
      dsimp only
      rw [if_neg hmm]
      generalize hn : modCtx c _ m = n
      have hcounts : (rdsOf c n).counts = r.counts := by
        rw [← hn, rdsOf_modCtx]
        exact hnew
      by_cases hg : r.sync = true ∧ (k.stA.val < 2 ∨ k.stB.val < 2)
      · rw [if_pos hg, if_pos ((delivered_iff ..).mpr hg), takeGroup_counts, counts_succ hcounts]
      · rw [if_neg hg, if_neg fun h => hg ((delivered_iff ..).mp h), hcounts]
    have hgroups : r.groups = m.cx.ctxs[c].rds.groups := rfl
    have hparts : y.blocks = r.blocks ∧ y.sync = r.sync
        ∧ y.groups = if r.sync = true ∧ (k.stA.val < 2 ∨ k.stB.val < 2) then r.groups + 1 else r.groups := by
      clear_value y
      rw [← apply_ite RdsSt.counts] at hy
      simp only [RdsSt.counts, Prod.mk.injEq] at hy
      obtain ⟨hblocks, hsync, -, hcount⟩ := hy
      by_cases hg : r.sync = true ∧ (k.stA.val < 2 ∨ k.stB.val < 2)
      · rw [if_pos hg] at hblocks hsync hcount ⊢
        exact ⟨hblocks, hsync, hcount⟩
      · rw [if_neg hg] at hblocks hsync hcount ⊢
        exact ⟨hblocks, hsync, hcount⟩
    obtain ⟨hblocks, hsync, hcount⟩ := hparts
    exact ⟨hblocks, hsync, fun h => absurd h he, fun _ => hcount⟩

theorem rdsGroupReceived_follows (t : DT) (c : Fin 64) (g : RdsGroup) (s : State) (hs : s.cx.ctxs[c].std = .fm)
    (hr : primaryRuns c (moment t s) = true) : Gives (.rdsGroupReceived t c g) s fun u =>
      let x := s.cx.ctxs[c]
      let k := correctGroup (fget x.cfg 0x0A01) g
      let r := x.rds.takeBlocks k
      let y := u.cx.ctxs[c].rds
      let e := fget x.cfg 0x0A00 = 1 ∧ g.mmbs = true
      y.blocks = r.blocks ∧ y.sync = r.sync
        ∧ (x.rds.sync = true → 46 ≤ x.rds.synced → (y.sync = false ↔ 45 ≤ (r.blocks.take 50).countP id))
        ∧ (x.rds.sync = true → x.rds.synced < 41 → y.sync = true)
        ∧ (e → y.mmbs = x.rds.mmbs + 1 ∧ y.groups = x.rds.groups)
        ∧ (¬ e → y.groups = if r.sync = true ∧ (k.stA.val < 2 ∨ k.stB.val < 2) then x.rds.groups + 1 else x.rds.groups) := by
  obtain ⟨u, hu, hblocks, hsync, hmmbs, hgroups⟩ := rdsGroupReceived_gives t c g s hs hr
  refine ⟨u, hu, hblocks, hsync, fun hx hn => ?_, fun hx hn => ?_, hmmbs, hgroups⟩
  · rw [hsync, takeBlocks_synced hx, min_eq_left (by omega), Bool.not_eq_false', decide_eq_true_eq]
  · rw [hsync, takeBlocks_synced hx, Bool.not_eq_true', decide_eq_false_iff_not]
    refine Nat.not_le.mpr (lt_of_le_of_lt (List.countP_le_length.trans (List.length_take_le _ _)) ?_)
    omega

/-! ### Buffers and MOT objects (R217, R225, R240) -/

theorem sendMsix_rings (v : Nat) (s : State) : (sendMsix v s).host.rings = s.host.rings := by
  unfold sendMsix
  repeat' split
  all_goals rfl

theorem signalRing_rings (c : Fin 4) (s : State) : (signalRing c s).host.rings = s.host.rings := by
  unfold signalRing
  dsimp only
  split
  · exact sendMsix_rings ..
  · rfl

theorem retWrite_buffers (c : Fin 4) (e : RetEntry) (s : State) : (retWrite c e s).host.rings[c].buffers = s.host.rings[c].buffers := by
  have hring (f : RetRing → RetRing) (hf : ∀ r, (f r).buffers = r.buffers) (m : State) :
      (signalRing c (settle (bufRow c) 1 (settle 5 1 (modRing c f m)))).host.rings[c].buffers = m.host.rings[c].buffers := by
    rw [signalRing_rings]
    exact (congrArg RetRing.buffers (modRing_rings_self c f m)).trans (hf _)
  unfold retWrite
  dsimp only
  split
  · refine hring _ (fun r => ?_) _
    split <;> rfl
  · refine hring _ (fun r => ?_) _
    split <;> rfl

theorem retPush_buffers (c : Fin 4) (e : RetEntry) (s : State) : (retPush c e s).host.rings[c].buffers = s.host.rings[c].buffers := by
  unfold retPush
  split
  · exact retWrite_buffers c e s
  · refine (congrArg RetRing.buffers (modRing_rings_self c _ s)).trans ?_
    rfl

theorem returnBuffer_buffers {c : Fin 4} {b : Buffer} {rest : List Buffer} {s : State} (h : s.host.rings[c].buffers = b :: rest) (st : Status) :
    (returnBuffer c st s).host.rings[c].buffers = rest := by
  unfold returnBuffer
  rw [h]
  exact (retPush_buffers ..).trans (congrArg RetRing.buffers (modRing_rings_self ..))

theorem bufferFlushTimeout_gives (t d : DT) (cls : Fin 4) (b : Buffer) (rest : List Buffer) (s : State)
    (hb : s.host.rings[cls].buffers = b :: rest) (hd : b.firstWrite = some d) (hc : cls.val < 3) : Gives (.bufferFlushTimeout t cls) s fun u =>
      (msDt s.cx.flushMs ≤ dtSince d (now (moment t s)) → u = returnBuffer cls .ok (moment t s) ∧ u.host.rings[cls].buffers = rest)
        ∧ (dtSince d (now (moment t s)) < msDt s.cx.flushMs → u = moment t s) := by
  rw [← moment_rings t s] at hb
  rw [← moment_cx_flushMs t s]
  refine ⟨_, rfl, ?_⟩
  generalize moment t s = m at *
  rw [hb]
  dsimp only
  rw [hd]
  dsimp only
  refine ⟨fun hle => ?_, fun hlt => if_neg (by simpa using fun _ => hlt)⟩
  rw [if_pos (by simpa using And.intro hc hle)]
  exact ⟨rfl, returnBuffer_buffers hb _⟩

theorem motObjectTimeout_gives (t : DT) (id : BitVec 16) (s : State) : Gives (.motObjectTimeout t id) s fun u =>
    (findSub id s = none → u = moment t s)
      ∧ (∀ w, findSub id s = some w → (w.motSince.all fun m => decide (dtSince m.2 (now (moment t s)) < 60 * 2 ^ 32)) = true → u = moment t s)
      ∧ (∀ w, findSub id s = some w →
          let late := (w.motSince.filter fun m => decide (60 * 2 ^ 32 ≤ dtSince m.2 (now (moment t s)))).map (·.1)
          let all_ := s.cx.subs.map fun v => if (v.ctx = w.ctx ∧ v.kind = w.kind ∧ v.selector = w.selector) ∧ late ≠ [] then { v with
            parts := v.parts.filter fun p => !late.contains p.1.obj, motSince := v.motSince.filter fun m => !late.contains m.1 } else v
          u.cx.subs = all_
            ∧ ∀ (c : Fin 64) (k : Nat), w.ctx = c.val → subSubch s.cx.ctxs[c] w = some k → late ≠ [] →
              u.cx.ctxs[c].dab.subs = s.cx.ctxs[c].dab.subs.map fun y =>
                if y.subch = k then { y with incomplete := y.incomplete + late.length } else y) := by
  have hfind : findSub id s = findSub id (moment t s) := by rw [findSub, findSub, moment_cx_subs]
  rw [hfind, ← moment_cx_subs t s, ← moment_cx_ctxs t s]
  refine ⟨_, rfl, ?_⟩
  generalize moment t s = m at *
  dsimp only
  refine ⟨fun hn => by rw [hn], fun w hw hall => ?_, fun w hw => ?_⟩
  · rw [hw]
    refine if_pos ?_
    rw [List.isEmpty_iff, List.map_eq_nil_iff, List.filter_eq_nil_iff]
    intro p hp
    have := of_decide_eq_true (List.all_eq_true.mp hall p hp)
    exact fun h => absurd (of_decide_eq_true h) (Nat.not_le.mpr this)
  · rw [hw]
    dsimp only
    generalize (w.motSince.filter _).map _ = late
    cases late with
    | nil =>
      rw [if_pos (by rfl)]
      refine ⟨?_, fun _ _ _ _ h => absurd rfl h⟩
      simp
    | cons a l =>
      rw [if_neg (show ¬(a :: l).isEmpty = true from Bool.false_ne_true)]
      generalize hn : modCx _ m = n
      have hctxs : n.cx.ctxs = m.cx.ctxs := by rw [← hn]; rfl
      have hsubs : n.cx.subs = m.cx.subs.map fun v => if (v.ctx = w.ctx ∧ v.kind = w.kind ∧ v.selector = w.selector) ∧ a :: l ≠ [] then { v with
          parts := v.parts.filter fun p => !(a :: l).contains p.1.obj, motSince := v.motSince.filter fun m => !(a :: l).contains m.1 } else v := by
        rw [← hn]
        simp
      rw [← hsubs]
      refine ⟨?_, fun c k hc hk _ => ?_⟩
      · split
        · split
          · rfl
          · rfl
        · rfl
      · rw [idx_eq_some hc]
        dsimp only
        rw [hctxs, hk]
        dsimp only
        rw [modStat, modCtx_get, hctxs]

/-- Settles O39. -/
theorem sideDataIsSubscribedAndReceived : Obligations.SideDataIsSubscribedAndReceived :=
  ⟨dataSubscribe_does, dataUnsubscribe_does, rdsGroupReceived_follows, bufferFlushTimeout_gives, motObjectTimeout_gives⟩

end Sys2Proof.Machine

/-! ## Alternative frequencies: policy, list, meters and the tuner hop (R227 to R230, R236)

The frequencies that a hop would visit depend on what `Ctx.meterFace` reads of the contexts and on the carvers, which a hop leaves alone: so
the list is the same before and after the meters are assigned.
-/
namespace Sys2Proof.Machine

/-! ### The commands -/

theorem afPolicy_does (e : Entry) (c : Fin 64) : Does (.afPolicy e) specAfPolicy e fun h u t =>
    (openCtx h u = none → t = reject h .errState u)
      ∧ (openCtx h u = some c → t = if policyOk u.cx.ctxs[c].std (fmerge u.cx.ctxs[c].cfg (itemsOf h)) then park h [] u
          else fail h .errParam 0xFFFF .outOfRange u) := by
  refine does_of (fun _ => rfl) fun h u _ _ => ?_
  unfold doAfPolicy
  exact ⟨fun ho => by rw [ho], fun ho => by rw [ho]⟩

theorem afListSet_does (e : Entry) (c : Fin 64) : Does (.afListSet e) specAfListSet e fun h u t =>
    let x := Ctx.refreshAfs { u.cx.ctxs[c] with hostAfs := listFreqs (Entry.args e) }
    (openCtx h u = none → t = reject h .errState u)
      ∧ (openCtx h u = some c → u.cx.ctxs[c].afSwitch.isSome = true → t = park h [] u)
      ∧ (openCtx h u = some c → u.cx.ctxs[c].afSwitch = none →
          ∃ v, t = finish h .ok [(16, 1, x.afs.length)] v ∧ v.cx.ctxs[c] = x) := by
  refine does_of (fun _ => rfl) fun h u he _ => ?_
  subst he
  intro x
  unfold doAfListSet
  refine ⟨fun ho => by rw [ho], fun ho hw => ?_, fun ho hw => ?_⟩ <;> rw [ho] <;> dsimp only
  · exact if_pos hw
  · rw [if_neg (by rw [hw]; decide)]
    have hx : (modCtx c (fun x => Ctx.refreshAfs { x with hostAfs := listFreqs (Entry.args h.entry) }) u).cx.ctxs[c] = x := modCtx_get ..
    refine ⟨_, ?_, hx⟩
    rw [← hx]
    rfl

theorem alertConfig_does (e : Entry) : Does (.alertConfig e) specAlertConfig e fun h u t =>
    t = if (openCtx h u).isSome then park h [] u else reject h .errState u :=
  does_of (fun _ => rfl) fun _ _ _ _ => rfl

/-! ### Meters -/

theorem afMeterInterval_gives (t : DT) (freq : Nat) (level cnr mp : Int) (pi : Option (Option Nat)) (c : Fin 64) (a : AltFreq) (s : State) :
    let v := assignMeters (moment t s)
    let x := v.cx.ctxs[c]
    let b := (a.measure level cnr mp pi (now v)).holdStep (candidate c (a.measure level cnr mp pi (now v)) v) (!heldOff x)
      (fget x.cfg 0x0A06).toNat (now v)
    afContexts v = [c] → x.afs.find? (·.freq == freq) = some a → Gives (.afMeterInterval t freq level cnr mp pi) s fun u =>
      (measuredNow x.std a v = false → u = v)
        ∧ (measuredNow x.std a v = true → u.cx.ctxs[c] = { x with afs := x.afs.map fun d => if d.freq = freq then b else d }) := by
  intro v x b hone hfind
  refine ⟨_, rfl, ?_⟩
  rw [show afContexts (assignMeters (moment t s)) = [c] from hone]
  dsimp only [List.foldl_cons, List.foldl_nil]
  rw [show List.find? _ (assignMeters (moment t s)).cx.ctxs[c].afs = some a from hfind]
  dsimp only
  refine ⟨fun hm => if_neg (by rw [show measuredNow _ a _ = false from hm]; decide), fun hm => ?_⟩
  rw [if_pos (show measuredNow _ a _ = true from hm)]
  exact modCtx_get ..

theorem sharedMeterTurn_gives (t : DT) (k : Fin 8) (s : State) : Gives (.sharedMeterTurn t k) s fun u =>
    let v := assignMeters (moment t s)
    let n := bankTurns v k.val
    (n ≤ 1 → u = v) ∧ (1 < n → u.cx.meterTurns[k] = (v.cx.meterTurns[k] + 1) % n ∧ u.cx.meterTurns[k] < n) := by
  refine ⟨_, rfl, ?_⟩
  generalize assignMeters (moment t s) = v
  intro v' n
  refine ⟨fun h => if_pos h, fun h => ?_⟩
  rw [if_neg (show ¬bankTurns v k.val ≤ 1 from Nat.not_le.mpr h)]
  have hturn : (forgetPi (fun a => a.bank == some k.val)
      (modCx (fun x => { x with meterTurns := upd x.meterTurns k fun k => (k + 1) % n }) v)).cx.meterTurns[k] = (v.cx.meterTurns[k] + 1) % n :=
    upd_get_self ..
  refine ⟨hturn, ?_⟩
  rw [show (forgetPi _ _).cx.meterTurns[k] = _ from hturn]
  exact Nat.mod_lt _ (by omega)

/-! ### What the list of a hop depends on -/

/-- What the meters and the hop read of a context. -/
def Ctx.meterFace (x : Ctx) : CtxState × Standard × Nat × FieldSet × List Nat := (x.st, x.std, x.source, x.cfg, x.afs.map (·.freq))

/-- The carvers of `t`, and of its contexts what the meters read, are those of `s`. -/
def SameMeters (s t : State) : Prop := t.rf.carvers = s.rf.carvers ∧ ∀ c : Fin 64, t.cx.ctxs[c].meterFace = s.cx.ctxs[c].meterFace

section
variable {s t u : State}

theorem SameMeters.refl (s : State) : SameMeters s s := ⟨rfl, fun _ => rfl⟩

theorem SameMeters.trans (h : SameMeters s t) (k : SameMeters t u) : SameMeters s u := ⟨k.1.trans h.1, fun c => (k.2 c).trans (h.2 c)⟩

theorem SameMeters.of_eq (hr : t.rf.carvers = s.rf.carvers) (hc : t.cx.ctxs = s.cx.ctxs) : SameMeters s t := ⟨hr, fun c => by rw [hc]⟩

theorem sameMeters_foldl {α : Type} {f : State → α → State} (hf : ∀ s a, SameMeters s (f s a)) (l : List α) (s : State) :
    SameMeters s (l.foldl f s) := foldP (P := SameMeters s) (fun t a h => h.trans (hf t a)) l s (.refl s)

theorem SameMeters.parts (h : SameMeters s t) (c : Fin 64) : t.cx.ctxs[c].st = s.cx.ctxs[c].st ∧ t.cx.ctxs[c].std = s.cx.ctxs[c].std
    ∧ t.cx.ctxs[c].source = s.cx.ctxs[c].source ∧ t.cx.ctxs[c].cfg = s.cx.ctxs[c].cfg
    ∧ t.cx.ctxs[c].afs.map (·.freq) = s.cx.ctxs[c].afs.map (·.freq) := by
  have hc := h.2 c
  simp only [Ctx.meterFace, Prod.mk.injEq] at hc
  exact hc

theorem afKeys_freqs (c : Fin 64) (s : State) :
    afKeys c s = (s.cx.ctxs[c].afs.map (·.freq)).map fun f => (f, meterHalf s.cx.ctxs[c].std f) := by
  rw [afKeys, List.map_map]
  rfl

theorem SameMeters.afKeys_eq (h : SameMeters s t) (c : Fin 64) : afKeys c t = afKeys c s := by
  obtain ⟨-, hstd, -, -, hafs⟩ := h.parts c
  rw [afKeys_freqs, afKeys_freqs, hstd, hafs]

theorem SameMeters.afContexts_eq (h : SameMeters s t) : afContexts t = afContexts s := by
  refine List.filter_congr fun c _ => ?_
  obtain ⟨hst, -, -, hcfg, -⟩ := h.parts c
  rw [afMode, afMode, hst, hcfg]

theorem SameMeters.bankFor_eq (h : SameMeters s t) (c : Fin 64) (freq half : Nat) : bankFor c freq half t = bankFor c freq half s := by
  have hcover (k : Fin 8) : bankCovers freq half t k = bankCovers freq half s k := by rw [bankCovers, bankCovers, h.1]
  have hsource (k : Fin 8) : carverSource k t = carverSource k s := by rw [carverSource, carverSource, h.1]
  obtain ⟨-, -, hsrc, -, -⟩ := h.parts c
  unfold bankFor
  simp only [hcover, hsource, hsrc]

theorem SameMeters.meterPlan_eq (h : SameMeters s t) : meterPlan t = meterPlan s := by
  unfold meterPlan
  simp only [h.afContexts_eq, h.afKeys_eq, h.bankFor_eq]

theorem SameMeters.hopKeys_eq (h : SameMeters s t) : hopKeys (meterPlan t) t = hopKeys (meterPlan s) s := by
  have hcfg (c : Fin 64) : t.cx.ctxs[c].cfg = s.cx.ctxs[c].cfg := (h.parts c).2.2.2.1
  unfold hopKeys
  simp only [h.meterPlan_eq, h.afContexts_eq, h.afKeys_eq, hcfg]

end

theorem sameMeters_beginChange (n : Fin 4) (cmd ctx : Option Nat) (s : State) : SameMeters s (beginChange n cmd ctx s) := by
  refine ⟨(beginChange_within ..).carvers rfl, fun c => ?_⟩
  unfold beginChange
  dsimp only
  split
  · rw [modTuner_cx]
    refine (fold_keep (g := fun s => s.cx.ctxs[c].meterFace) ?_ _ _).trans ?_
    · exact fun s q => holdPath_ctx (fun _ _ => rfl) q c s
    · rw [abandonTunerFirings_l_cx]
  · rfl

theorem sameMeters_forgetPi (p : AltFreq → Bool) (s : State) : SameMeters s (forgetPi p s) := by
  refine ⟨rfl, fun c => ?_⟩
  have hafs (l : List AltFreq) : (l.map fun a => if p a then { a with piSeen := none } else a).map (·.freq) = l.map (·.freq) := by
    rw [List.map_map]
    refine List.map_congr_left fun a _ => ?_
    dsimp only [Function.comp]
    split <;> rfl
  unfold forgetPi
  simp only [modCx_cx, Fin.getElem_fin, Vector.getElem_map, Ctx.meterFace, hafs]

theorem sameMeters_hopTo (n : Fin 4) (freq half : Nat) (s : State) : SameMeters s (hopTo n freq half s) :=
  SameMeters.trans (t := forgetPi (·.hop) (modCx (fun x => { x with hops := x.hops.set n (some freq) }) s))
    (SameMeters.trans (.of_eq rfl rfl) (sameMeters_forgetPi _ _))
    (SameMeters.trans (.of_eq rfl rfl) (sameMeters_beginChange n none none _))

theorem sameMeters_endHop (n : Fin 4) (s : State) : SameMeters s (endHop n s) := by
  refine .of_eq ((endHop_within n s).carvers rfl) ((endHop_within n s).ctxs rfl)

/-- What a new assignment does to the hop of one tuner: it goes on while there is a list, and a tuner that a context took keeps it. -/
def keepHop (l : List Nat) (s : State) (n : Fin 4) : State :=
  if s.cx.hops[n].isNone || feeds n s || (onHop n s && !l.isEmpty) then s else endHop n s

theorem sameMeters_keepHop (l : List Nat) (s : State) (n : Fin 4) : SameMeters s (keepHop l s n) := by
  unfold keepHop
  split
  · exact .refl s
  · exact sameMeters_endHop n s

theorem sameMeters_assignHop (plan : List ((Nat × Nat) × Option Nat)) (s : State) : SameMeters s (assignHop plan s) := by
  have hkept := sameMeters_foldl (sameMeters_keepHop (hopKeys plan s)) (List.finRange 4) s
  unfold assignHop
  dsimp only
  split
  · exact hkept
  · split
    · exact hkept.trans (sameMeters_hopTo ..)
    · exact hkept

theorem sameMeters_assignMeters (s : State) : SameMeters s (assignMeters s) := by
  refine (sameMeters_assignHop (meterPlan s) s).trans ?_
  unfold assignMeters
  dsimp only
  generalize assignHop _ s = r
  refine ⟨rfl, fun c => ?_⟩
  simp only [modCx_cx, Fin.getElem_fin, Vector.getElem_map]
  split
  · rfl
  · simp only [Ctx.meterFace, List.map_map]
    refine congrArg (fun l => (_, _, _, _, l)) (List.map_congr_left fun a _ => ?_)
    dsimp only [Function.comp]
    split <;> rfl

/-! ### The frequencies that tuners hop to -/

theorem c_hops {a b : CtxSt} (h : a.rest = b.rest) : a.hops = b.hops := by
  have := congrArg CtxSt.hops h
  exact this

/-- The frequency that a tuner hops to. -/
def hopOf (n : Fin 4) (s : State) : Option Nat := s.cx.hops[n]

section
variable {s t : State}

theorem hopOf_congr {n : Fin 4} (h : t.cx.rest = s.cx.rest) : hopOf n t = hopOf n s := by rw [hopOf, hopOf, c_hops h]

theorem hopOf_set (n k : Fin 4) (v : Option Nat) (s : State) :
    hopOf k (modCx (fun x => { x with hops := x.hops.set n v }) s) = if n = k then v else hopOf k s := by
  have hset := Vector.getElem_set (xs := s.cx.hops) (x := v) n.isLt k.isLt
  simp only [Fin.val_inj] at hset
  exact hset

theorem hopOf_hopTo (n k : Fin 4) (freq half : Nat) (s : State) : hopOf k (hopTo n freq half s) = if n = k then some freq else hopOf k s := by
  rw [← hopOf_set]
  exact hopOf_congr ((beginChange_within ..).cx rfl)

theorem hopOf_endHop (n k : Fin 4) (s : State) : hopOf k (endHop n s) = if n = k then none else hopOf k s := by
  rw [← hopOf_set]
  unfold endHop
  dsimp only
  split
  · exact hopOf_congr (congrArg CtxSt.rest (releaseTuner_l_cx ..))
  · rfl

theorem hopOf_rebind (n : Fin 4) (p : Fin 64) (src freq : Nat) (s : State) : hopOf n (rebind p src freq s) = hopOf n s :=
  hopOf_congr ((rebind_within ..).cx rfl)

theorem hopOf_tuneSource (n : Fin 4) (src freq half : Nat) (c : Fin 64) (s : State) : hopOf n (tuneSource src freq half c s) = hopOf n s :=
  hopOf_congr ((tuneSource_within ..).cx rfl)

theorem hopOf_assignMeters (n : Fin 4) (s : State) : hopOf n (assignMeters s) = hopOf n (assignHop (meterPlan s) s) := by
  unfold assignMeters
  dsimp only
  generalize assignHop _ s = r
  rfl

end

/-- Tuners may have ended their hops, and none has begun one. -/
def HopsEnded (s t : State) : Prop := ∀ (n : Fin 4) (f : Nat), hopOf n t = some f → hopOf n s = some f

theorem hopsEnded_keepHop (l : List Nat) (s : State) (n : Fin 4) : HopsEnded s (keepHop l s n) := by
  unfold keepHop
  split
  · exact fun _ _ h => h
  · intro k f hf
    rw [hopOf_endHop] at hf
    split at hf
    · exact absurd hf (by simp)
    · exact hf

/-- After an assignment a tuner is where it was or on its way to a frequency of the list. -/
theorem hopOf_assignHop {plan : List ((Nat × Nat) × Option Nat)} {s : State} {n : Fin 4} {g : Nat}
    (h : hopOf n (assignHop plan s) = some g) : hopOf n s = some g ∨ g ∈ hopKeys plan s := by
  have hended : HopsEnded s ((List.finRange 4).foldl (keepHop (hopKeys plan s)) s) :=
    foldP (P := HopsEnded s) (fun t a ht k f hf => ht k f (hopsEnded_keepHop _ t a k f hf)) _ s fun _ _ h => h
  unfold assignHop at h
  dsimp only at h
  split at h
  · exact .inl (hended n g h)
  · split at h
    · next f k hf _ =>
      rw [hopOf_hopTo] at h
      split at h
      · cases h
        exact .inr (List.mem_of_head? hf)
      · exact .inl (hended n g h)
    · exact .inl (hended n g h)

theorem afHopDwellEnd_gives (t : DT) (n : Fin 4) (s : State) : Gives (.afHopDwellEnd t n) s fun u =>
    let m := moment t s
    let v := assignMeters m
    (m.cx.hops[n] = none → u = m)
      ∧ (∀ f p l, m.cx.hops[n] = some f → pathsOn (8 + n.val) m = p :: l → u.cx.hops[n] = none)
      ∧ (∀ f, m.cx.hops[n] = some f → pathsOn (8 + n.val) m = [] →
          let l := hopKeys (meterPlan v) v
          (jobWantsHop m = true ∨ v.cx.hops[n] = none → u.cx.hops[n] = none)
            ∧ (∀ g, u.cx.hops[n] = some g → g = f ∨ g ∈ l)
            ∧ (∀ i g, jobWantsHop m = false → v.cx.hops[n] = some f → v.rf.tuners[n].st = .rx → v.rf.tuners[n].change = none →
                l.findIdx? (· == f) = some i → l[i + 1]? = some g → u.cx.hops[n] = some g)) := by
  refine ⟨_, rfl, ?_⟩
  generalize moment t s = m
  dsimp only
  refine ⟨fun hn => by rw [hn], fun f p l hf hp => ?_, fun f hf hp => ?_⟩ <;> rw [hf] <;> dsimp only <;> rw [hp] <;> dsimp only
  · change hopOf n _ = _
    split
    · rw [hopOf_rebind, hopOf_tuneSource, hopOf_set, if_pos rfl]
    · rw [hopOf_set, if_pos rfl]
  · by_cases hj : jobWantsHop m = true
    · rw [if_pos hj]
      have hnone : (endHop n m).cx.hops[n] = none := (hopOf_endHop n n m).trans (if_pos rfl)
      rw [hnone]
      exact ⟨fun _ => rfl, fun g h => absurd h (by simp), fun i g h => absurd hj (by rw [h]; decide)⟩
    · rw [if_neg hj]
      have hlist : hopKeys (meterPlan m) m = hopKeys (meterPlan (assignMeters m)) (assignMeters m) :=
        (sameMeters_assignMeters m).hopKeys_eq.symm
      have hstay (g : Nat) (hg : hopOf n (assignMeters m) = some g) : g = f ∨ g ∈ hopKeys (meterPlan (assignMeters m)) (assignMeters m) := by
        rw [← hlist]
        rw [hopOf_assignMeters] at hg
        exact (hopOf_assignHop hg).imp_left fun h => Option.some.inj (h.symm.trans hf)
      generalize assignMeters m = v at *
      clear hlist
      generalize hopKeys (meterPlan v) v = l at *
      change (_ ∨ hopOf n v = none → hopOf n _ = none) ∧ (∀ g, hopOf n _ = some g → _)
        ∧ ∀ i g, _ → hopOf n v = some f → _ → _ → _ → _ → hopOf n _ = some g
      split
      · next g hg =>
        have hmem : g ∈ l := by
          split at hg
          · split at hg
            · exact List.mem_of_getElem? hg
            · exact List.mem_of_head? hg
          · exact List.mem_of_head? hg
        have hnext : ∀ i g', l.findIdx? (· == f) = some i → l[i + 1]? = some g' → g' = g := by
          intro i g' hi hg'
          rw [hi] at hg
          dsimp only at hg
          rw [if_pos (List.getElem?_eq_some_iff.mp hg').1, hg'] at hg
          exact Option.some.inj hg
        by_cases hgo : (v.cx.hops[n].isSome && v.rf.tuners[n].st == .rx && v.rf.tuners[n].change.isNone && g != f) = true
        · rw [if_pos hgo, (hopOf_hopTo n n g _ v).trans (if_pos rfl)]
          refine ⟨fun h => ?_, fun g' h => .inr (Option.some.inj h ▸ hmem), fun i g' _ _ _ _ hi hg' => by rw [hnext i g' hi hg']⟩
          obtain h | h := h
          · exact absurd h hj
          · rw [show v.cx.hops[n] = none from h] at hgo
            exact absurd hgo Bool.false_ne_true
        · rw [if_neg hgo]
          refine ⟨fun h => h.resolve_left hj, hstay, fun i g' _ hv hrx hch hi hg' => ?_⟩
          rw [show v.cx.hops[n] = some f from hv, hrx, hch] at hgo
          rw [hv, hnext i g' hi hg']
          exact congrArg some (of_not_not fun hne => hgo (bne_iff_ne.mpr (Ne.symm hne)))
      · next hg =>
        refine ⟨fun h => h.resolve_left hj, hstay, fun i g' _ _ _ _ hi hg' => ?_⟩
        rw [hi] at hg
        dsimp only at hg
        rw [if_pos (List.getElem?_eq_some_iff.mp hg').1, hg'] at hg
        exact absurd hg (by simp)

/-- Settles O41. A tuner hops with the settings of R161 and for the widest meter bandwidth (the model's choice, log entry 81). -/
theorem alternativesAreMeteredAndConfigured : Obligations.AlternativesAreMeteredAndConfigured :=
  ⟨afPolicy_does, afListSet_does, alertConfig_does, afMeterInterval_gives, sharedMeterTurn_gives, afHopDwellEnd_gives⟩

end Sys2Proof.Machine

/-! ## Alternative frequencies: decisions and the seamless switch (R232 to R235)

`Ctx.switchFace` is what the end of a switch sets of its context; seeking a new branch afterwards leaves it alone.
-/
namespace Sys2Proof.Machine

/-! ### A new branch and what it leaves of its context -/

/-- The primary path, the frequency, the switch and the holdoff of a context. -/
def Ctx.switchFace (x : Ctx) : Option (Fin 64) × Nat × Option AfSwitch × Option DT := (x.primary, x.freq, x.afSwitch, x.afHoldoff)

/-- The switch face of context `c`. -/
def switchFaceOf (c : Fin 64) (s : State) : Option (Fin 64) × Nat × Option AfSwitch × Option DT := s.cx.ctxs[c].switchFace

section
variable {s t : State} {c : Fin 64}

theorem switchFaceOf_congr (h : t.cx.ctxs = s.cx.ctxs) : switchFaceOf c t = switchFaceOf c s := by rw [switchFaceOf, switchFaceOf, h]

theorem switchFaceOf_modCtx (f : Ctx → Ctx) : switchFaceOf c (modCtx c f s) = (f s.cx.ctxs[c]).switchFace :=
  congrArg Ctx.switchFace (modCtx_get c f s)

theorem switchFaceOf_beginChange (n : Fin 4) (cmd ctx : Option Nat) : switchFaceOf c (beginChange n cmd ctx s) = switchFaceOf c s := by
  unfold beginChange
  dsimp only
  split
  · refine (switchFaceOf_congr (congrArg CtxSt.ctxs (modTuner_cx ..))).trans ?_
    refine (fold_keep (g := switchFaceOf c) ?_ _ _).trans (switchFaceOf_congr (congrArg CtxSt.ctxs (abandonTunerFirings_l_cx ..)))
    exact fun s q => holdPath_ctx (g := Ctx.switchFace) (fun _ _ => rfl) q c s
  · rfl

theorem switchFaceOf_tuneFor (n : Fin 4) (freq half ctx : Nat) : switchFaceOf c (tuneFor n freq half ctx s) = switchFaceOf c s :=
  switchFaceOf_beginChange ..

theorem switchFaceOf_regrow {old : State} (h : regrow c old s = some t) : switchFaceOf c t = switchFaceOf c s := by
  unfold regrow at h
  split at h
  · cases h
    rfl
  · obtain ⟨w, -, hv⟩ := Option.map_eq_some_iff.mp h
    rw [← hv, switchFaceOf_congr (congrArg CtxSt.ctxs (migrate_cx c w 1 s)), switchFaceOf_modCtx]
    rfl

theorem switchFaceOf_attachBranch {role : Branch} {d : Nat} (h : attachBranch c role d s = some t) : switchFaceOf c t = switchFaceOf c s := by
  unfold attachBranch at h
  split at h
  case h_2 => cases h
  case h_1 p src _ _ =>
    dsimp only at h
    split at h
    case h_2 => cases h
    case h_1 v hv =>
      injection h with h
      subst h
      have hgrown : switchFaceOf c v = switchFaceOf c s := (switchFaceOf_regrow hv).trans (switchFaceOf_modCtx _)
      refine (switchFaceOf_congr (((boundTrim_within ..).ctxs rfl).trans ((openPath_within ..).ctxs rfl))).trans ?_
      split
      · exact (switchFaceOf_tuneFor ..).trans hgrown
      · exact hgrown

theorem switchFaceOf_seekFailover : switchFaceOf c (seekFailover c s) = switchFaceOf c s := by
  unfold seekFailover
  split
  · split
    · next h => exact switchFaceOf_attachBranch h
    · exact switchFaceOf_modCtx _
  · rfl

theorem switchFaceOf_rebranch : switchFaceOf c (rebranch c s) = switchFaceOf c s := by
  unfold rebranch
  dsimp only
  split
  · rfl
  · split
    · split
      · next h => exact switchFaceOf_attachBranch h
      · exact switchFaceOf_seekFailover
    · exact switchFaceOf_seekFailover

end

/-! ### Decisions -/

theorem decided_spec {x : Ctx} {freq : Nat} {t : DT} {a : AltFreq} (h : decided x freq t = some a) :
    a.freq = freq ∧ ∃ k, a.crossed = some k ∧ dtSince k t ≤ decisionSpan := by
  unfold decided at h
  split at h
  case h_2 => cases h
  case h_1 b hb =>
    split at h
    case h_2 => cases h
    case h_1 k hk =>
      split at h
      case isFalse => cases h
      case isTrue hjudged =>
        cases h
        have hfreq := List.find?_some hb
        exact ⟨beq_iff_eq.mp hfreq, k, hk, of_decide_eq_true (Bool.and_eq_true_iff.mp hjudged).1⟩

theorem startSwitch_of_some {c : Fin 64} {w : AfSwitch} {v z : State} (h : openSwitch c w v = some z) : startSwitch c w v = z := by
  unfold startSwitch
  rw [h]

/-- Without resources the switch becomes the retune of SWITCH_GAP, or is declined and the holdoff runs (R233, R235). -/
theorem startSwitch_of_none {c : Fin 64} {w : AfSwitch} {v : State} (h : openSwitch c w v = none) (hp : w.path = none) :
    (afMode v.cx.ctxs[c] = 3 → (startSwitch c w v).cx.ctxs[c].afSwitch = some { w with stage := 5 })
      ∧ (afMode v.cx.ctxs[c] = 2 → (startSwitch c w v).cx.ctxs[c].afSwitch = none
          ∧ (startSwitch c w v).cx.ctxs[c].afHoldoff = some (now v)) := by
  have hstage : (modCtx c (fun x => { x with afSwitch := some { w with stage := 5 } }) v).cx.ctxs[c]
      = { v.cx.ctxs[c] with afSwitch := some { w with stage := 5 } } := modCtx_get ..
  unfold startSwitch
  rw [h]
  dsimp only
  refine ⟨fun hm => ?_, fun hm => ?_⟩
  · rw [if_pos ((congrArg afMode hstage).trans hm), hstage]
  · rw [if_neg (by rw [hstage]; change ¬afMode v.cx.ctxs[c] = 3; omega)]
    unfold declineSwitch
    rw [hstage]
    dsimp only
    rw [hp]
    dsimp only
    rw [raiseAt_cx, modCtx_get]
    exact ⟨rfl, rfl⟩

theorem afPiConfirmed_gives (t : DT) (c : Fin 64) (freq : Nat) (s : State) : Gives (.afPiConfirmed t c freq) s fun u =>
    let m := moment t s
    let x := m.cx.ctxs[c]
    let judged := x.st ≠ .closed ∧ afMode x ≠ 0 ∧ heldOff x = false
    (¬ judged ∨ decided x freq (now m) = none → u = m)
      ∧ (∀ a, judged → decided x freq (now m) = some a →
          let k := a.crossed.getD 0
          let w : AfSwitch :=
            { freq := a.freq, path := none, stage := 0, since := now m, crossed := k, pi := a.pi.getD 0, qCtx := qDb (ctxQ x), qAf := qDb (altQ x a), delay := none }
          let later := decide (2 ≤ afMode x) && primaryRead c m
          let v := raiseAt .afSwitch (now m) (afEvent c 0 (if later then 4 else 0) 0 w x.freq (ratio (dtSince k (now m) * 10000) (2 ^ 32)))
            (modCtx c (Ctx.clearCrossings k) m)
          v.cx.ctxs[c] = x.clearCrossings k
            ∧ (afMode x = 1 → u = v)
            ∧ (2 ≤ afMode x → primaryRead c m = true → u = modCtx c (fun x => { x with afSwitch := some w }) v)
            ∧ (∀ z, 2 ≤ afMode x → primaryRead c m = false → openSwitch c w v = some z → u = z)
            ∧ (2 ≤ afMode x → primaryRead c m = false → openSwitch c w v = none →
                (afMode x = 3 → u.cx.ctxs[c].afSwitch = some { w with stage := 5 })
                  ∧ (afMode x = 2 → u.cx.ctxs[c].afSwitch = none ∧ u.cx.ctxs[c].afHoldoff = some (now m))))
      ∧ (∀ a, decided x freq (now m) = some a → a.freq = freq ∧ ∃ k, a.crossed = some k ∧ dtSince k (now m) ≤ decisionSpan) := by
  refine ⟨_, rfl, ?_⟩
  generalize moment t s = m
  intro m' x judged
  have hjudged : (m.cx.ctxs[c].st == .closed || afMode m.cx.ctxs[c] == 0 || heldOff m.cx.ctxs[c]) = false ↔ judged := by
    simp [-Fin.getElem_fin, judged, x, m', and_assoc]
  refine ⟨fun h => ?_, fun a hj ha => ?_, fun a ha => decided_spec ha⟩
  · by_cases hj : judged
    · rw [if_neg (by rw [hjudged.mpr hj]; decide), show decided _ freq (now m) = none from h.resolve_left (not_not_intro hj)]
    · exact if_pos (Bool.not_eq_false _ ▸ mt hjudged.mp hj)
  · intro k w later v
    have hv : v.cx.ctxs[c] = x.clearCrossings k := by
      change (raiseAt .afSwitch _ _ _).cx.ctxs[c] = _
      rw [raiseAt_cx, modCtx_get]
    have hmode : afMode v.cx.ctxs[c] = afMode x := by rw [hv]; rfl
    have hnow : now v = now m := congrArg TimeSt.dt ((raiseAt_time ..).trans (modCtx_time ..))
    have hstarts (hp : primaryRead c m = false) : ¬(decide (2 ≤ afMode m.cx.ctxs[c]) && primaryRead c m) = true := by
      rw [hp, Bool.and_false]
      decide
    rw [if_neg (by rw [hjudged.mpr hj]; decide), show decided _ freq (now m) = some a from ha]
    dsimp only
    refine ⟨hv, fun h1 => if_pos ?_, fun h2 hp => ?_, fun z h2 hp hz => ?_, fun h2 hp hz => ?_⟩
    · rw [show afMode m.cx.ctxs[c] = 1 from h1]
      decide
    · rw [if_neg (show ¬afMode m.cx.ctxs[c] < 2 from Nat.not_lt.mpr h2)]
      exact if_pos (Bool.and_eq_true_iff.mpr ⟨decide_eq_true h2, hp⟩)
    · rw [if_neg (show ¬afMode m.cx.ctxs[c] < 2 from Nat.not_lt.mpr h2)]
      exact (if_neg (hstarts hp)).trans (startSwitch_of_some hz)
    · rw [if_neg (show ¬afMode m.cx.ctxs[c] < 2 from Nat.not_lt.mpr h2), if_neg (hstarts hp)]
      obtain ⟨hgap, hdeclined⟩ := startSwitch_of_none hz rfl
      rw [hmode] at hgap hdeclined
      rw [hnow] at hdeclined
      exact ⟨hgap, hdeclined⟩

theorem afDecisionTimeout_gives (t : DT) (c : Fin 64) (s : State) : Gives (.afDecisionTimeout t c) s fun u =>
    let m := moment t s
    u = modCtx c (fun x => { x with afs := x.afs.map fun a => match a.crossed with
      | some k => if decisionSpan ≤ dtSince k (now m) then { a with crossed := none, met := 0 } else a
      | none => a }) m := by
  exact ⟨_, rfl, rfl⟩

/-! ### Correlation, crossfade and holdoff -/

theorem afCorrelationDone_gives (t : DT) (c : Fin 64) (delay : Option Int) (s : State) : Gives (.afCorrelationDone t c delay) s fun u =>
    let m := moment t s
    (m.cx.ctxs[c].afSwitch = none → u.cx.ctxs[c] = m.cx.ctxs[c])
      ∧ ∀ w, m.cx.ctxs[c].afSwitch = some w →
        let due := w.stage = 2 ∧ msDt 200 ≤ dtSince w.since (now m)
        (¬ due → u.cx.ctxs[c] = m.cx.ctxs[c])
          ∧ (due → ∃ d, u.cx.ctxs[c] = { m.cx.ctxs[c] with afSwitch := some { w with stage := 3, since := now m, delay := d } }
              ∧ (∀ k, d = some k ↔ delay = some k ∧ k.natAbs ≤ 2000)) := by
  refine ⟨_, rfl, ?_⟩
  generalize moment t s = m
  rw [modCtx_get]
  intro m'
  have hiff (w : AfSwitch) : (decide (w.stage = 2) && decide (msDt 200 ≤ dtSince w.since (now m))) = true
      ↔ w.stage = 2 ∧ msDt 200 ≤ dtSince w.since (now m) := by rw [Bool.and_eq_true, decide_eq_true_eq, decide_eq_true_eq]
  refine ⟨fun hn => ?_, fun w hw => ⟨fun hd => ?_, fun hd => ⟨delay.filter fun d => decide (d.natAbs ≤ 2000), ?_, fun k => ?_⟩⟩⟩
  · rw [hn, Option.map_none, ← hn]
  · rw [hw, Option.map_some, if_neg (mt (hiff w).mp hd), ← hw]
  · rw [hw, Option.map_some, if_pos ((hiff w).mpr hd)]
  · rw [Option.filter_eq_some_iff, decide_eq_true_eq]

theorem now_finish_base (c old : Fin 64) (s : State) : now (closePath old (dropBranch c s)) = now s :=
  congrArg TimeSt.dt ((closePath_l_time ..).trans ((dropBranch_within ..).time_eq rfl rfl))

theorem finishSwitch_face (c : Fin 64) (w : AfSwitch) (new old : Fin 64) (s : State) :
    switchFaceOf c (finishSwitch c w new old s) = (some new, w.freq, none, some (now s)) := by
  unfold finishSwitch
  dsimp only
  rw [switchFaceOf_rebranch, switchFaceOf_congr (congrArg CtxSt.ctxs ((evSherd_l_cx ..).trans (raiseAt_cx ..)))]
  split
  · rw [switchFaceOf_modCtx, now_finish_base]
    rfl
  · rw [switchFaceOf_congr (congrArg CtxSt.ctxs (releaseTuner_l_cx ..)), switchFaceOf_modCtx, now_finish_base]
    rfl

theorem afCrossfadeEnd_gives (t : DT) (c : Fin 64) (s : State) : Gives (.afCrossfadeEnd t c) s fun u =>
    let m := moment t s
    (m.cx.ctxs[c].afSwitch = none → u = m)
      ∧ ∀ w, m.cx.ctxs[c].afSwitch = some w →
        let due := w.stage = 4 ∧ msDt 10 ≤ dtSince w.since (now m)
        (¬ due → u = m)
          ∧ ∀ new old : Fin 64, due → m.cx.ctxs[c].primary = some old → w.path = some new →
            let y := u.cx.ctxs[c]
            y.primary = some new ∧ y.freq = w.freq ∧ y.afSwitch = none ∧ y.afHoldoff = some (now m) := by
  refine ⟨_, rfl, ?_⟩
  generalize moment t s = m
  dsimp only
  have hiff (w : AfSwitch) : (decide (w.stage = 4) && decide (msDt 10 ≤ dtSince w.since (now m))) = true
      ↔ w.stage = 4 ∧ msDt 10 ≤ dtSince w.since (now m) := by rw [Bool.and_eq_true, decide_eq_true_eq, decide_eq_true_eq]
  refine ⟨fun hn => by rw [hn], fun w hw => ⟨fun hd => ?_, fun new old hd hold hnew => ?_⟩⟩
  · rw [hw]
    cases hold : m.cx.ctxs[c].primary with
    | none => rfl
    | some old =>
      cases hnew : w.path with
      | none => simp only [hnew]
      | some new => simp only [hnew, if_neg (mt (hiff w).mp hd)]
  · have hface := finishSwitch_face c w new old m
    simp only [switchFaceOf, Ctx.switchFace, Prod.mk.injEq] at hface
    rw [hw, hold]
    dsimp only
    rw [hnew]
    dsimp only
    rw [if_pos ((hiff w).mpr hd)]
    exact hface

theorem afHoldoffExpiry_gives (t k : DT) (c : Fin 64) (s : State) (hk : s.cx.ctxs[c].afHoldoff = some k) : Gives (.afHoldoffExpiry t c) s fun u =>
    let x := s.cx.ctxs[c]
    ((fget x.cfg 0x0A08).toNat * 2 ^ 32 ≤ dtSince k (now (moment t s)) →
        u.cx.ctxs[c] = { x with afHoldoff := none, afs := x.afs.map fun a => { a with met := 0 } })
      ∧ (dtSince k (now (moment t s)) < (fget x.cfg 0x0A08).toNat * 2 ^ 32 → u = moment t s) := by
  rw [← moment_cx_ctxs t s] at hk ⊢
  refine ⟨_, rfl, ?_⟩
  generalize moment t s = m at *
  dsimp only
  rw [hk]
  dsimp only
  refine ⟨fun h => ?_, fun h => if_neg (Nat.not_le.mpr h)⟩
  rw [if_pos h]
  exact modCtx_get ..

/-- Whether the last report of a context is not yet one AF_AVG ago. -/
def reportWaits (v : State) (x : Ctx) : Bool :=
  match x.reportAt with
  | some d => decide (dtSince d (now v) < msDt (fget x.cfg 0x0A07).toNat)
  | none => false

theorem reportWaits_iff (v : State) (x : Ctx) :
    reportWaits v x = true ↔ ∃ d, x.reportAt = some d ∧ dtSince d (now v) < msDt (fget x.cfg 0x0A07).toNat := by
  unfold reportWaits
  cases x.reportAt with
  | none => simp
  | some d => simp

theorem afReportDue_gives (t : DT) (c : Fin 64) (s : State) : Gives (.afReportDue t c) s fun u =>
    let v := assignMeters (moment t s)
    let x := v.cx.ctxs[c]
    let early := x.st = .closed ∨ afMode x = 0 ∨ ∃ d, x.reportAt = some d ∧ dtSince d (now v) < msDt (fget x.cfg 0x0A07).toNat
    (early → u = v) ∧ (¬ early → u.cx.ctxs[c] = { x with reportAt := some (now v) }) := by
  refine ⟨_, rfl, ?_⟩
  generalize assignMeters (moment t s) = v
  intro v' x early
  have hearly : (x.st == .closed || afMode x == 0 || reportWaits v x) = true ↔ early := by
    rw [Bool.or_eq_true, Bool.or_eq_true, beq_iff_eq, beq_iff_eq, reportWaits_iff, or_assoc]
  refine ⟨fun h => if_pos (hearly.mpr h), fun h => ?_⟩
  refine (congrArg (fun w : State => w.cx.ctxs[c]) (if_neg (mt hearly.mp h))).trans ?_
  refine (congrArg (fun l : Vector Ctx 64 => l[c]) (fold_keep (g := fun s => s.cx.ctxs) ?_ _ _)).trans (modCtx_get ..)
  exact fun s u => (dataRec_within ..).ctxs rfl

/-- Settles O42. -/
theorem switchesFollowDecisions : Obligations.SwitchesFollowDecisions :=
  ⟨afPiConfirmed_gives, afDecisionTimeout_gives, afCorrelationDone_gives, afCrossfadeEnd_gives, afHoldoffExpiry_gives, afReportDue_gives⟩

end Sys2Proof.Machine

/-! ## Audio services: start, change, stop and configuration (R242 to R245, R257)
-/
namespace Sys2Proof.Machine

/-! ### START -/

theorem modSvc_get (n : Fin 96) (f : Svc → Svc) (s : State) : (modSvc n f s).audio.svcs[n] = f s.audio.svcs[n] := by
  simp only [modSvc_audio, upd_get_self]

/-- Whether a service must wait for its component (R243). -/
def startWaits (x : Ctx) (sid scids : Nat) : Bool := (x.std == .dab || isDrm x.std) && (compOf x sid scids).isNone

/-- The state in which a service starts. -/
def startSt (x : Ctx) (sid scids : Nat) : SvcState :=
  if startWaits x sid scids then .waiting else if x.st = .hold then .mutedHold else .running

theorem startSt_eq_waiting {x : Ctx} {sid scids : Nat} : startSt x sid scids = .waiting ↔ startWaits x sid scids = true := by
  unfold startSt
  split
  · next h => simp [h]
  · next h => split <;> simp [h]

section
variable {h : Held} {c : Fin 64} {sid scids : Nat} {s : State}

theorem startService_unsuitable (hk : ∃ k, compOf s.cx.ctxs[c] sid scids = some k ∧ unsuitable k = true) :
    startService h c sid scids s = finish h .inputUnsuitable [] s := by
  obtain ⟨k, hcomp, hbad⟩ := hk
  unfold startService
  dsimp only
  rw [hcomp]
  exact if_pos hbad

theorem startService_full (hk : ∀ k, compOf s.cx.ctxs[c] sid scids = some k → unsuitable k = false)
    (hfull : (limits s.cx.profile).2.2.2 ≤ svcCount s) : startService h c sid scids s = reject h .noResource s := by
  unfold startService
  dsimp only
  cases hcomp : compOf s.cx.ctxs[c] sid scids with
  | none => exact (if_neg Bool.false_ne_true).trans (if_pos hfull)
  | some k => exact (if_neg fun h => Bool.false_ne_true ((hk k hcomp).symm.trans h)).trans (if_pos hfull)

theorem startService_placed {n : Fin 96} {v : State} (hk : ∀ k, compOf s.cx.ctxs[c] sid scids = some k → unsuitable k = false)
    (hroom : svcCount s < (limits s.cx.profile).2.2.2) (hfree : freeSvc s = some n)
    (hv : regrow c s (askComp c (compOf s.cx.ctxs[c] sid scids)
      (modSvc n (fun _ => Svc.begin_ c.val s.cx.ctxs[c].std (startSt s.cx.ctxs[c] sid scids) sid scids (itemsOf h)) s)) = some v) :
    let res : List (Nat × Nat × Int) :=
      [(16, 2, n.val), (18, 1, if startWaits s.cx.ctxs[c] sid scids then 0 else if startSt s.cx.ctxs[c] sid scids = .running then 1 else 2)]
    startService h c sid scids s = if !startWaits s.cx.ctxs[c] sid scids then finish h .ok res v
      else if Entry.hasDeadline h.entry then reject h .deadlineMissed s else deferCmd h res (note h [n.val] v) := by
  intro res
  have hgood : ¬(match compOf s.cx.ctxs[c] sid scids with | some k => unsuitable k | none => false) = true := by
    cases hcomp : compOf s.cx.ctxs[c] sid scids with
    | none => exact Bool.false_ne_true
    | some k => exact fun h => Bool.false_ne_true ((hk k hcomp).symm.trans h)
  refine (if_neg hgood).trans ((if_neg (Nat.not_le.mpr hroom)).trans ?_)
  rw [hfree]
  dsimp only
  unfold startSt startWaits at hv
  rw [hv]
  rfl

end

theorem regrow_audio {c : Fin 64} {old s v : State} (h : regrow c old s = some v) : v.audio = s.audio := ((regrow_within c old s).of h).audio rfl

theorem askComp_audio (c : Fin 64) (k : Option Component) (s : State) : (askComp c k s).audio = s.audio := by
  unfold askComp
  split <;> rfl

theorem audServiceStart_starts (e : Entry) (c : Fin 64) (n : Fin 96) (v : State) (ha : itemAction (Entry.args e) = 0) :
    Does (.audServiceStart e) specAudServiceStart e fun h u t =>
      let a := Entry.args e
      let x := u.cx.ctxs[c]
      let scids := itemArg8 a
      let sid := itemArg32 a
      let comp := compOf x sid scids
      let coded := x.std == .dab || isDrm x.std
      let st : SvcState := if coded && comp.isNone then .waiting else if x.st = .hold then .mutedHold else .running
      let code : Int := if coded && comp.isNone then 0 else if st = .running then 1 else 2
      let new := Svc.begin_ c.val x.std st sid scids (itemsOf h)
      let taken := (svcsOf c.val u).any fun w => hasComp x.std scids sid u.audio.svcs[w]
      (matchOk (itemsOf h) = false → t = fail h .errParam 0xFFFF .outOfRange u)
        ∧ (matchOk (itemsOf h) = true → openCtx h u = none → t = reject h .errState u)
        ∧ (∀ off, matchOk (itemsOf h) = true → openCtx h u = some c → badSelector x.std scids sid = some off →
            t = fail h .errParam (Entry.offset h.entry off) .outOfRange u)
        ∧ (matchOk (itemsOf h) = true → openCtx h u = some c → badSelector x.std scids sid = none →
            (taken = true → t = reject h .errState u)
              ∧ (taken = false → (∃ k, comp = some k ∧ unsuitable k = true) → t = finish h .inputUnsuitable [] u)
              ∧ (taken = false → (∀ k, comp = some k → unsuitable k = false) →
                  ((limits u.cx.profile).2.2.2 ≤ svcCount u → t = reject h .noResource u)
                    ∧ (svcCount u < (limits u.cx.profile).2.2.2 → freeSvc u = some n →
                        regrow c u (askComp c comp (modSvc n (fun _ => new) u)) = some v →
                        v.audio.svcs[n] = new
                          ∧ (st ≠ .waiting → t = finish h .ok [(16, 2, n.val), (18, 1, code)] v)
                          ∧ (st = .waiting → Entry.hasDeadline h.entry = true → t = reject h .deadlineMissed u)
                          ∧ (st = .waiting → Entry.hasDeadline h.entry = false → t = deferCmd h [(16, 2, n.val), (18, 1, code)] (note h [n.val] v))))) := by
  refine does_of (fun _ => rfl) fun h u he _ => ?_
  subst he
  intro a x scids sid comp coded st code new taken
  have hstart : ¬itemAction (Entry.args h.entry) = 1 := by rw [ha]; decide
  unfold doAudServiceStart
  dsimp only
  rw [if_neg hstart]
  refine ⟨fun hm => if_pos (by rw [hm]; rfl), fun hm ho => ?_, fun off hm ho hb => ?_, fun hm ho hb => ?_⟩ <;>
    rw [if_neg (by rw [hm]; decide), ho]
  · dsimp only
    rw [show badSelector _ _ _ = some off from hb]
  · dsimp only
    rw [show badSelector _ _ _ = none from hb]
    dsimp only
    refine ⟨fun ht => if_pos ht, fun ht hk => ?_, fun ht hk => ⟨fun hfull => ?_, fun hroom hfree hv => ?_⟩⟩ <;>
      rw [if_neg (show ¬(svcsOf c.val u).any _ = true by rw [show (svcsOf c.val u).any _ = false from ht]; decide)]
    · exact startService_unsuitable hk
    · exact startService_full hk hfull
    · have hplaced := startService_placed hk hroom hfree hv
      have hwait : st = .waiting ↔ startWaits x sid scids = true := startSt_eq_waiting
      refine ⟨?_, fun hw => hplaced.trans (if_pos ?_), fun hw hd => hplaced.trans ?_, fun hw hd => hplaced.trans ?_⟩
      · rw [regrow_audio hv, askComp_audio]
        exact modSvc_get n (fun _ => new) u
      · rw [eq_false_of_ne_true (mt hwait.mpr hw)]
        rfl
      · rw [if_neg (by rw [hwait.mp hw]; decide), if_pos hd]
      · rw [if_neg (by rw [hwait.mp hw]; decide), if_neg (by rw [hd]; decide)]
        rfl

/-! ### CHANGE, stop and configuration -/

theorem audServiceStart_changes (e : Entry) (n : Fin 96) (c : Fin 64) (ha : itemAction (Entry.args e) = 1) (hn : e.target.toNat = n.val) :
    Does (.audServiceStart e) specAudServiceStart e fun h u t =>
      let y := u.audio.svcs[n]
      let cfg := fmerge y.cfg (itemsOf h)
      (matchOk cfg = false → t = fail h .errParam 0xFFFF .outOfRange u)
        ∧ (matchOk cfg = true → y.st = .free → t = reject h .errState u)
        ∧ (matchOk cfg = true → y.st ≠ .free → y.ctx = c.val →
            t = if (regrow c u (modSvc n (fun y => { y with cfg := cfg }) u)).isNone then reject h .noResource u else park h [] u) := by
  refine does_of (fun _ => rfl) fun h u he _ => ?_
  subst he
  intro y cfg
  unfold doAudServiceStart
  dsimp only
  rw [if_pos ha, idx_eq_some hn]
  dsimp only
  unfold changeService
  dsimp only
  refine ⟨fun hm => if_pos (by rw [show matchOk _ = false from hm]; rfl), fun hm hf => ?_, fun hm hf hc => ?_⟩ <;>
    rw [if_neg (show ¬(!matchOk _) = true by rw [show matchOk _ = true from hm]; decide)]
  · exact if_pos hf
  · rw [if_neg hf, idx_eq_some hc]

theorem audServiceStop_does (e : Entry) : Does (.audServiceStop e) specAudServiceStop e fun h u t =>
    t = if (svcOf h u).isSome then park h [] u else reject h .errState u :=
  does_of (fun _ => rfl) fun _ _ _ _ => rfl

theorem audLoudnessConfig_does (e : Entry) : Does (.audLoudnessConfig e) specAudLoudnessConfig e fun h u t =>
    t = if (svcOf h u).isSome then park h [] u else reject h .errState u :=
  does_of (fun _ => rfl) fun _ _ _ _ => rfl

theorem audSignatureConfig_does (e : Entry) : Does (.audSignatureConfig e) specAudSignatureConfig e fun h u t =>
    let a := Entry.args e
    (itemAction a = 0 → t = if (svcOf h u).isSome then park h [] u else reject h .errState u)
      ∧ (itemAction a = 1 → t = if libTakes u.audio.library (libRef a) (libSeconds a) then park h [dtInt (now u)] u
          else fail h .errParam (Entry.offset e 8) .outOfRange u)
      ∧ (2 ≤ itemAction a → t = park h [dtInt (now u)] u) := by
  refine does_of (fun _ => rfl) fun h u he _ => ?_
  subst he
  intro a
  unfold doAudSignatureConfig
  dsimp only
  refine ⟨fun h0 => by rw [show itemAction _ = 0 from h0]; rfl, fun h1 => by rw [show itemAction _ = 1 from h1]; rfl, fun h2 => ?_⟩
  obtain ⟨k, hk⟩ := Nat.exists_eq_add_of_le' h2
  rw [show itemAction _ = k + 2 from hk]
  rfl

/-- Settles O43. A free service cannot be stopped or changed, and CHANGE keeps the selector (the model's choices, log entries 36 and 107). -/
theorem servicesStartChangeAndStop : Obligations.ServicesStartChangeAndStop :=
  ⟨audServiceStart_starts, audServiceStart_changes, audServiceStop_does, audLoudnessConfig_does, audSignatureConfig_does⟩

end Sys2Proof.Machine

/-! ## Audio of services: a waiting depth whose deadline has passed (R244, R310)

A service without audio has its boundary at every HostAudioBlock, and the depth of a waiting MEM_TIMESHIFT_CONFIG applies at it, but not that of
a command whose deadline has passed: no boundary applies it any more (R310).
-/
namespace Sys2Proof.Machine

theorem fieldsOff_same (v : Fin 96) (s : State) : fieldsOff v s.audio.svcs[v].cfg s = s := by
  have hoff (fid : Nat) : (fget s.audio.svcs[v].cfg fid == 1 && fget s.audio.svcs[v].cfg fid == 0) = false := by
    by_cases h : fget s.audio.svcs[v].cfg fid = 1 <;> simp [-Fin.getElem_fin, h]
  unfold fieldsOff
  dsimp only
  simp only [hoff]
  rfl

/-- A block boundary changes nothing when nothing waits for it. -/
theorem blockBoundary_idle {s : State} (hnone : ∀ op n, waiting op n s = []) (v : Fin 96) (stamp : DT) : blockBoundary v stamp s = s := by
  have hchanges : applyChanges v s = s := by
    unfold applyChanges
    dsimp only
    rw [hnone]
    exact fieldsOff_same v s
  unfold blockBoundary
  dsimp only
  rw [hchanges, hnone]
  dsimp only [List.foldl_nil]
  rw [svcConfigs, hnone, hnone]
  rfl

/-- A command whose deadline has passed waits for no boundary (R310). -/
theorem waiting_of_late {h : Held} {s : State} (hs : s.host.held = [h]) (hl : late h s = true) (op n : Nat) : waiting op n s = [] := by
  rw [waiting, hs]
  exact List.filter_cons_of_neg (by rw [hl, Bool.not_true, Bool.and_false, Bool.false_and, Bool.false_and]; exact Bool.false_ne_true)

/-- A service without audio has its boundary when its block would be complete. -/
theorem hostAudioBlock_boundary {t : DT} {v : Fin 96} {s : State} (hst : (moment t s).audio.svcs[v].st ≠ .free)
    (hnone : (moment t s).audio.svcs[v].nextBlock (now (moment t s)) (svcLat (moment t s).audio.svcs[v] (moment t s)) = none)
    (hstart : (moment t s).audio.svcs[v].line.start = none) :
    exec (.hostAudioBlock t v) s = .next (blockBoundary v (now (moment t s)) (moment t s)) := by
  refine congrArg Host.Outcome.next ((if_neg (by rw [beq_iff_eq]; exact hst)).trans ?_)
  rw [hnone]
  exact if_pos (by rw [hstart]; rfl)

/-- A MEM_TIMESHIFT_CONFIG of service 0 that waits for its boundary and whose deadline was DT 0. -/
def lateDepth : Held :=
  let e : Entry := { t := 0, src := .queue 0, tag := 7, flags := 4, plen := 0, target := 0, deadline := 0, param := [], block := [] }
  { id := 0, src := .queue 0, tag := 7, op := 0x0703, entry := e, cmd := .memTimeshiftConfig e, begun := false, deferred := false, aux := [1] }

/-- At DT 1 service 0 runs and has had no audio, and that command still waits. -/
def lateDepthState : State :=
  { State.reset with
    time := { State.reset.time with dt := 1 }
    host := { State.reset.host with held := [lateDepth] }
    audio := { State.reset.audio with svcs := upd State.reset.audio.svcs 0 fun y => { y with st := .running } } }

theorem lateDepthState_svc : lateDepthState.audio.svcs[(0 : Fin 96)] = { Svc.reset with st := .running } := by
  refine (upd_get_self ..).trans ?_
  rw [show State.reset.audio.svcs[(0 : Fin 96)] = Svc.reset from Vector.getElem_replicate _]

theorem lateDepthState_late : late lateDepth lateDepthState = true := rfl

theorem lateDepthState_nextBlock (d : DT) (lat : Nat) : lateDepthState.audio.svcs[(0 : Fin 96)].nextBlock d lat = none := by
  rw [lateDepthState_svc]
  rfl

theorem lateDepthState_held : lateDepthState.host.held = [lateDepth] := rfl

/-- Its block boundary comes and the command stays held. -/
theorem hostAudioBlock_keepsLate : exec (.hostAudioBlock 0 0) lateDepthState = .next lateDepthState := by
  have hmoment : moment 0 lateDepthState = lateDepthState := if_neg Bool.false_ne_true
  rw [hostAudioBlock_boundary, hmoment, blockBoundary_idle (waiting_of_late lateDepthState_held lateDepthState_late)]
  · rw [hmoment, lateDepthState_svc]
    exact SvcState.noConfusion
  · rw [hmoment]
    exact lateDepthState_nextBlock _ _
  · rw [hmoment, lateDepthState_svc]
    rfl

/-- Refutes O44: at DT 1 a MEM_TIMESHIFT_CONFIG with deadline 0 waits for service 0, which runs and has had no audio; its boundary changes
nothing and the command stays held, where the statement says that its depth applies and that it ends. -/
theorem not_audioIsConcealedMeteredAndSigned : ¬ Obligations.AudioIsConcealedMeteredAndSigned := by
  unfold Obligations.AudioIsConcealedMeteredAndSigned
  rintro ⟨-, -, hblock, -⟩
  obtain ⟨u, hu, -, -, -, hdepth⟩ := hblock 0 0 lateDepthState
  have hmoment : moment 0 lateDepthState = lateDepthState := if_neg Bool.false_ne_true
  rw [hmoment, lateDepthState_svc] at hdepth
  obtain ⟨w, hw, -⟩ := hdepth lateDepth SvcState.noConfusion rfl rfl lateDepthState_held rfl rfl rfl
  have hstays : u = lateDepthState := Host.Outcome.next.inj (hu.symm.trans hostAudioBlock_keepsLate)
  have hgone : u.host.held = w.host.held.filter (·.id != lateDepth.id) := by
    rw [hw]
    exact held_finish ..
  rw [hstays, lateDepthState_held] at hgone
  have hmem : lateDepth ∈ w.host.held.filter (·.id != lateDepth.id) := hgone ▸ List.mem_singleton_self _
  exact absurd (List.mem_filter.mp hmem).2 (by decide)

end Sys2Proof.Machine

/-! ## Ports: configuration, routes, masks, blocks and subframes (R265 to R281, R292)
-/
namespace Sys2Proof.Machine

/-! ### One port -/

/-- A port of the state. -/
def portAt (p : Fin 14) (s : State) : Port := s.port.ports[p]

section
variable {p : Fin 14} {s t : State}

theorem portAt_congr (h : t.port.ports = s.port.ports) : portAt p t = portAt p s := by rw [portAt, portAt, h]

theorem portAt_modPort (f : Port → Port) : portAt p (modPort p f s) = f (portAt p s) := upd_get_self ..

theorem portAt_setDividers : portAt p (setDividers s) = portAt p s := rfl

theorem portAt_ite_modAin {q : Prop} [Decidable q] (i : Fin 4) (f : Ain → Ain) : portAt p (if q then modAin i f s else s) = portAt p s := by
  split <;> rfl

/-- A port that stops keeps its fields and its image. -/
theorem portAt_stopPort :
    portAt p (stopPort p s) = { portAt p s with grid := none, frames := 0, base := 0, stopping := false, sent := [] } := by
  have hlow : portAt p (if s.port.ports[p].grid.isSome = true then emit (.portLow p.val) s else s) = portAt p s := by
    split <;> rfl
  unfold stopPort
  dsimp only
  split
  · rw [portAt_ite_modAin, portAt_modPort, hlow]
  · rw [portAt_modPort, hlow]

theorem portAt_startPort_cfg : (portAt p (startPort p s)).cfg = (portAt p s).cfg := by
  unfold startPort
  dsimp only
  split
  · split
    · rfl
    · rw [portAt_modPort]
  · rw [portAt_modPort]

/-- An output that starts begins its grid and its frames anew (R270). -/
theorem portAt_startPort (hp : isAin p.val = false) : portAt p (startPort p s) =
    { portAt p s with grid := some (gridStart (portRate (portAt p s)) (now s)), frames := 0, base := 0, stopping := false, sent := [] } := by
  unfold startPort
  dsimp only
  split
  · rw [if_neg (by rw [hp]; decide), portAt_modPort]
  · rw [portAt_modPort]

theorem portAt_endPort_cfg : (portAt p (endPort p s)).cfg = (portAt p s).cfg := by
  unfold endPort
  split
  · rw [portAt_stopPort]
  · rw [portAt_modPort]

end

/-! ### PORT_CONFIG -/

/-- A port that goes on ramping to its stop, or has just ended that because it starts again or an LK field changes. -/
def afterRamp (p : Fin 14) (l : FieldSet) (s : State) : State :=
  if s.port.ports[p].stopping && (portRuns s.port.ports[p] || !(ofClass .lk l).isEmpty) then stopPort p s else s

theorem afterRamp_cfg (p : Fin 14) (l : FieldSet) (s : State) : (portAt p (afterRamp p l s)).cfg = (portAt p s).cfg := by
  unfold afterRamp
  split
  · rw [portAt_stopPort]
  · rfl

theorem afterRamp_now (p : Fin 14) (l : FieldSet) (s : State) : now (afterRamp p l s) = now s := by
  unfold afterRamp
  split
  · exact congrArg TimeSt.dt ((stopPort_within p s).time_eq rfl rfl)
  · rfl

section
variable {p : Fin 14} {l : FieldSet} {s : State}

theorem applyPort_eq (hk : fhas l 0x0C0B = false) :
    let m := modPort p (fun x => { x with cfg := fmerge x.cfg l }) s
    applyPort p l s = setDividers (if !portRuns s.port.ports[p] && portRuns m.port.ports[p] then startPort p (afterRamp p l m)
      else if portRuns s.port.ports[p] && !portRuns m.port.ports[p] then endPort p (afterRamp p l m) else afterRamp p l m) := by
  intro m
  unfold applyPort
  dsimp only
  rw [hk]
  simp only [Bool.false_eq_true, if_false]
  rfl

theorem applyPort_cfg (hk : fhas l 0x0C0B = false) : (portAt p (applyPort p l s)).cfg = fmerge (portAt p s).cfg l := by
  have hmerged : (portAt p (modPort p (fun x => { x with cfg := fmerge x.cfg l }) s)).cfg = fmerge (portAt p s).cfg l := by rw [portAt_modPort]
  rw [applyPort_eq hk, portAt_setDividers]
  split
  · rw [portAt_startPort_cfg, afterRamp_cfg, hmerged]
  · split
    · rw [portAt_endPort_cfg, afterRamp_cfg, hmerged]
    · rw [afterRamp_cfg, hmerged]

theorem applyPort_starts (hk : fhas l 0x0C0B = false) (hp : isAin p.val = false) (hwas : portRuns (portAt p s) = false)
    (hon : fget (fmerge (portAt p s).cfg l) 0x0C00 = 1) :
    (portAt p (applyPort p l s)).grid = some (gridStart (fget (fmerge (portAt p s).cfg l) 0x0C01).toNat (now s))
      ∧ (portAt p (applyPort p l s)).frames = 0 := by
  have hmerged : (portAt p (modPort p (fun x => { x with cfg := fmerge x.cfg l }) s)).cfg = fmerge (portAt p s).cfg l := by rw [portAt_modPort]
  have hruns : portRuns (modPort p (fun x => { x with cfg := fmerge x.cfg l }) s).port.ports[p] = true := by
    rw [portRuns, show (modPort p _ s).port.ports[p].cfg = _ from hmerged, hon]
    rfl
  rw [applyPort_eq hk, portAt_setDividers, if_pos (by rw [hruns, show portRuns s.port.ports[p] = false from hwas]; rfl), portAt_startPort hp,
    portRate, afterRamp_cfg, hmerged, afterRamp_now]
  exact ⟨rfl, rfl⟩

end

theorem portConfig_does (e : Entry) (p : Fin 14) (hp : e.target.toNat = p.val) : Does (.portConfig e) specPortConfig e fun h u t =>
    let l := itemsOf h
    let x := u.port.ports[p]
    (portRuns x = true → ofClass .lk l ≠ [] → t = reject h .busyRunning u)
      ∧ (portRuns x = true → ofClass .lk l = [] → isAin p.val = false → t = park h [] u)
      ∧ (portRuns x = false ∨ (ofClass .lk l = [] ∧ isAin p.val = true) → ∃ v, t = finishC h v
          ∧ (fhas l 0x0C0B = false → v.port.ports[p].cfg = fmerge x.cfg l)
          ∧ (fget (fmerge x.cfg l) 0x0C00 = 1 → fhas l 0x0C0B = false → isAin p.val = false →
              v.port.ports[p].grid = some (gridStart (fget (fmerge x.cfg l) 0x0C01).toNat (now u)) ∧ v.port.ports[p].frames = 0)) := by
  refine does_of (fun _ => rfl) fun h u he _ => ?_
  subst he
  intro l x
  unfold doPortConfig
  rw [show portOf h = some p from idx_eq_some hp]
  dsimp only
  refine ⟨fun hr hl => if_pos ?_, fun hr hl ha => ?_, fun hr => ⟨applyPort p l u, ?_, fun hk => applyPort_cfg hk, fun hon hk ha => ?_⟩⟩
  · rw [show portRuns u.port.ports[p] = true from hr, Bool.true_and, List.isEmpty_eq_false_iff.mpr hl]
    rfl
  · rw [if_neg (by rw [show ofClass .lk (itemsOf h) = [] from hl, Bool.and_comm]; exact Bool.false_ne_true)]
    exact if_pos (by rw [show portRuns u.port.ports[p] = true from hr, ha]; rfl)
  · obtain hr | ⟨hl, ha⟩ := hr
    · rw [if_neg (by rw [show portRuns u.port.ports[p] = false from hr]; exact Bool.false_ne_true),
        if_neg (by rw [show portRuns u.port.ports[p] = false from hr]; exact Bool.false_ne_true)]
    · rw [if_neg (by rw [show ofClass .lk (itemsOf h) = [] from hl, Bool.and_comm]; exact Bool.false_ne_true),
        if_neg (by rw [ha, Bool.and_comm]; exact Bool.false_ne_true)]
  · refine applyPort_starts hk ha (hr.resolve_right fun h => ?_) hon
    rw [h.2] at ha
    exact Bool.noConfusion ha

end Sys2Proof.Machine

/-! ## Ports: routes, masks, blocks and subframes (R271 to R281)

The block of a port goes out with 192 frames of every channel (`playChannel_length`). A subframe's bits are read off `subframeBits`.
-/
namespace Sys2Proof.Machine

/-! ### Routes and comparisons -/

theorem regrow_port {c : Fin 64} {old s v : State} (h : regrow c old s = some v) : v.port = s.port := ((regrow_within c old s).of h).port rfl

theorem modAin_get (i : Fin 4) (f : Ain → Ain) (s : State) : (modAin i f s).port.ains[i] = f s.port.ains[i] := by
  simp only [modAin_port, upd_get_self]

theorem endCompare_cmp (i : Fin 4) (s : State) : (endCompare i s).port.ains[i].cmp = none := congrArg Ain.cmp (modAin_get ..)

/-- While no port runs, routes come into force as they are (R279). -/
theorem setRoutes_at_rest (l : List Route) {s : State} (hrest : ∀ p : Fin 14, s.port.ports[p].grid = none) :
    (setRoutes l s).port.routes = (mergeRoutes s.port.routes l).filter fun r => r.src != .none || r.gone || r.old.isSome || r.next.isSome := by
  unfold setRoutes
  dsimp only
  rw [modPortSt_port]
  dsimp only
  refine congrArg (fun l => (mergeRoutes s.port.routes l).filter _) ?_
  refine (List.map_congr_left fun r _ => ?_).trans (List.map_id l)
  split
  · exact if_neg (by rw [hrest]; decide)
  · exact if_neg (by rw [hrest]; decide)
  · rfl

theorem startCompare_gives {h : Held} {u : State} {i : Fin 4} {v : Fin 96} (hi : itemArg8 (Entry.args h.entry) = i.val)
    (hv : itemArg32 (Entry.args h.entry) = v.val) :
    (u.port.ains[i].cmp.isSome = true → startCompare h u = reject h .errState u)
      ∧ (u.port.ains[i].cmp = none → u.audio.svcs[v].st = .free → startCompare h u = fail h .errParam (Entry.offset h.entry 4) .outOfRange u)
      ∧ ∀ (c : Fin 64) (w : State), u.port.ains[i].cmp = none → u.audio.svcs[v].st ≠ .free → u.audio.svcs[v].ctx = c.val →
          regrow c u (modAin i (fun x => { x with
            cmp := some v, cmpCfg := itemsOf h, cmpState := 0, cmpDelay := 0, line := Line.reset, loudHist := [], bands := [], words := [],
            subEnd := 0, cmpSub := none, cmpWin := u.audio.svcs[v].subEnd, cmpBad := none, cmpStudio := none, cmpAir := none,
            cmpAt := now u }) u) = some w →
          startCompare h u = followCompare i (finishC h w) ∧ w.port.ains[i].cmp = some v ∧ w.port.ains[i].cmpCfg = itemsOf h := by
  unfold startCompare
  dsimp only
  rw [idx_eq_some hi, idx_eq_some hv]
  dsimp only
  refine ⟨fun hc => if_pos hc, fun hc hf => ?_, fun c w hc hf hx hw => ⟨?_, ?_⟩⟩
  · rw [if_neg (by rw [hc]; decide)]
    exact if_pos hf
  · rw [if_neg (by rw [hc]; decide), if_neg hf, idx_eq_some hx]
    dsimp only
    rw [hw]
  · rw [regrow_port hw, modAin_get]
    exact ⟨rfl, rfl⟩

theorem portRoute_does (e : Entry) : Does (.portRoute e) specPortRoute e fun h u t =>
    let a := Entry.args e
    let l := routesOf a u
    (itemAction a = 0 → itemCommit a = false → ∃ v, t = finishC h v ∧ v.port.staged = mergeRoutes u.port.staged l ∧ v.port.routes = u.port.routes)
      ∧ (itemAction a = 0 → itemCommit a = true → routePorts (u.port.staged ++ l) u ≠ [] → t = park h [] u)
      ∧ (itemAction a = 0 → itemCommit a = true → routePorts (u.port.staged ++ l) u = [] → ∃ v, t = finishC h v ∧ v.port.staged = []
          ∧ v.port.routes = (setRoutes (mergeRoutes u.port.staged l) u).port.routes
          ∧ ((∀ p : Fin 14, u.port.ports[p].grid = none) → v.port.routes = (mergeRoutes u.port.routes (mergeRoutes u.port.staged l)).filter fun r =>
              r.src != .none || r.gone || r.old.isSome || r.next.isSome))
      ∧ (∀ (i : Fin 4) (v : Fin 96), itemAction a = 1 → itemArg8 a = i.val → itemArg32 a = v.val →
          (u.port.ains[i].cmp.isSome = true → t = reject h .errState u)
            ∧ (u.port.ains[i].cmp = none → u.audio.svcs[v].st = .free → t = fail h .errParam (Entry.offset h.entry 4) .outOfRange u)
            ∧ ∀ (c : Fin 64) (w : State), u.port.ains[i].cmp = none → u.audio.svcs[v].st ≠ .free → u.audio.svcs[v].ctx = c.val →
                regrow c u (modAin i (fun x => { x with
                  cmp := some v, cmpCfg := itemsOf h, cmpState := 0, cmpDelay := 0, line := Line.reset, loudHist := [], bands := [], words := [],
                  subEnd := 0, cmpSub := none, cmpWin := u.audio.svcs[v].subEnd, cmpBad := none, cmpStudio := none, cmpAir := none,
                  cmpAt := now u }) u) = some w →
                t = followCompare i (finishC h w) ∧ w.port.ains[i].cmp = some v ∧ w.port.ains[i].cmpCfg = itemsOf h)
      ∧ ∀ i : Fin 4, itemAction a = 2 → itemArg8 a = i.val → (u.port.ains[i].cmp = none → t = reject h .errState u)
          ∧ (u.port.ains[i].cmp.isSome = true → ∃ v, t = finishC h v ∧ v.port.ains[i].cmp = none) := by
  refine does_of (fun _ => rfl) fun h u he _ => ?_
  subst he
  intro a l
  unfold doPortRoute
  dsimp only
  refine ⟨fun ha hc => ⟨modPortSt (fun o => { o with staged := mergeRoutes o.staged l }) u, ?_, rfl, rfl⟩, fun ha hc hl => ?_,
    fun ha hc hl => ⟨modPortSt (fun o => { o with staged := [] }) (setRoutes (mergeRoutes u.port.staged l) u), ?_, rfl, rfl,
      setRoutes_at_rest _⟩, fun i v ha hi hv => ?_, fun i ha hi => ?_⟩ <;>
    rw [show itemAction (Entry.args h.entry) = _ from ha]
  · rw [show itemCommit (Entry.args h.entry) = false from hc]
    rfl
  · change ite _ _ (ite _ _ _) = _
    rw [if_neg (by rw [show itemCommit (Entry.args h.entry) = true from hc]; decide)]
    exact if_neg (mt List.isEmpty_iff.mp hl)
  · change ite _ _ (ite _ _ _) = _
    rw [if_neg (by rw [show itemCommit (Entry.args h.entry) = true from hc]; decide)]
    exact if_pos (List.isEmpty_iff.mpr hl)
  · exact startCompare_gives hi hv
  · rw [idx_eq_some hi]
    refine ⟨fun hc => if_pos (by rw [hc]; rfl), fun hc => ⟨endCompare i u, if_neg ?_, endCompare_cmp i u⟩⟩
    rw [Option.isNone_eq_false_iff.mpr hc]
    decide

/-! ### PORT_SLOTMASK, PORT_CHSTATUS_SET, PORT_INPUT_STATUS -/

theorem portSlotmask_does (e : Entry) (p : Fin 14) (hp : e.target.toNat = p.val) : Does (.portSlotmask e) specPortSlotmask e fun h u t =>
    (u.port.ports[p].grid.isSome = true → t = park h [dtInt (now u)] u)
      ∧ (u.port.ports[p].grid = none → ∃ v, t = finishC h v
          ∧ v.port.ports = upd u.port.ports p fun x => { x with mask := BitVec.ofNat 32 (le (Entry.args e) 8 4) }) := by
  refine does_of (fun _ => rfl) fun h u he _ => ?_
  subst he
  unfold doPortSlotmask
  rw [show portOf h = some p from idx_eq_some hp]
  dsimp only
  refine ⟨fun hg => if_pos hg, fun hg => ⟨modPort p (fun x => { x with mask := maskOf h }) u, if_neg ?_, rfl⟩⟩
  rw [hg]
  decide

theorem portChstatusSet_does (e : Entry) (p : Fin 14) (hp : e.target.toNat = p.val) :
    Does (.portChstatusSet e) specPortChstatusSet e fun h u t =>
      (portRuns u.port.ports[p] = true → t = park h [] u)
        ∧ (portRuns u.port.ports[p] = false → ∃ v, t = finishC h v ∧ v.port.ports = upd u.port.ports p fun x => { x with image := imageOf h }) := by
  refine does_of (fun _ => rfl) fun h u he _ => ?_
  subst he
  unfold doPortChstatusSet
  rw [show portOf h = some p from idx_eq_some hp]
  dsimp only
  refine ⟨fun hr => if_pos hr, fun hr => ⟨modPort p (fun x => { x with image := imageOf h }) u, if_neg ?_, rfl⟩⟩
  rw [hr]
  decide

theorem portInputStatus_does (e : Entry) (i : Fin 4) (hi : e.target.toNat = 8 + i.val) :
    Does (.portInputStatus e) specPortInputStatus e fun h u t => t = finishOut h .ok (inputStatus u.port.ains[i]) none u := by
  refine does_of (fun _ => rfl) fun h u he _ => ?_
  subst he
  unfold doPortInputStatus
  rw [idx_eq_some (i := i) (by omega)]

/-! ### The block of an output -/

/-- Every channel of a block has 192 frames. -/
theorem playChannel_length (p : Fin 14) (play : DT) (ch : Nat) (s : State) : (playChannel p play ch s).2.length = 192 := by
  have hfold {α : Type} (f : Route × List OutSample → Nat → Route × List OutSample) (hf : ∀ e j, (f e j).2.length = e.2.length + 1)
      (l : List Nat) (e : Route × List OutSample) : (l.foldl f e).2.length = e.2.length + l.length := by
    induction l generalizing e with
    | nil => rfl
    | cons a l ih => rw [List.foldl_cons, ih, hf, List.length_cons]; omega
  unfold playChannel
  split
  · exact List.length_replicate
  · dsimp only
    rw [List.length_reverse, hfold (α := Unit) _ (fun _ _ => rfl), List.length_range]
    rfl

section
variable {p : Fin 14} {s : State}

theorem portAt_sendChannel (play : DT) (x : Nat × DT × List OutSample) : portAt p (sendChannel p play s x) = portAt p s := by
  unfold sendChannel
  dsimp only
  split <;> rfl

/-- A block that goes out: its instant, its frames, and the samples of every channel. -/
theorem sendBlock_gives (play : DT) :
    let y := portAt p (sendBlock p play s)
    y.frames = (portAt p s).frames + 192 ∧ y.blockAt = play ∧ y.grid = (portAt p s).grid ∧ y.cfg = (portAt p s).cfg
      ∧ y.sent.length = (channelsOf p).length ∧ ∀ l ∈ y.sent, l.length = 192 := by
  intro y
  have hy : y = { portAt p s with
      blockAt := play, frames := (portAt p s).frames + 192
      sent := ((channelsOf p).map fun ch => (ch, contentDt p ch play s, playChannel p play ch s)).map fun e =>
        e.2.2.2.map fun k => (BitVec.ofInt 24 k.v, k.invalid) } := by
    have hfold (l : List (Nat × DT × List OutSample)) (m : State) : portAt p (l.foldl (sendChannel p play) m) = portAt p m :=
      fold_keep (g := portAt p) (fun m x => portAt_sendChannel play x) l m
    change portAt p (sendBlock p play s) = _
    unfold sendBlock
    dsimp only
    split
    · refine (hfold _ _).trans ?_
      rw [portAt_modPort]
      rfl
    · refine (hfold _ _).trans ?_
      rw [portAt_modPort]
      rfl
  rw [hy]
  refine ⟨rfl, rfl, rfl, rfl, ?_, fun l hl => ?_⟩
  · rw [List.length_map, List.length_map]
  · obtain ⟨e, he, rfl⟩ := List.mem_map.mp hl
    obtain ⟨ch, -, rfl⟩ := List.mem_map.mp he
    rw [List.length_map]
    exact playChannel_length p play ch s

theorem selfPlays_ports (s : State) : (selfPlays s).port.ports = s.port.ports := by
  unfold selfPlays
  split <;> rfl

/-- At a boundary for which nothing waits the ports stay as they are. -/
theorem portBoundary_idle (h : s.host.held = []) : (portBoundary p s).port.ports = s.port.ports := by
  have hroutes : applyRoutes p s = s := by
    rw [applyRoutes, waiting_of_empty h]
    rfl
  unfold portBoundary
  dsimp only
  rw [waiting_of_empty h]
  simp only [List.isEmpty_nil, if_true, List.foldl_nil]
  rw [waiting_of_empty h]
  simp only [List.foldl_nil]
  rw [hroutes]
  exact selfPlays_ports _

end

/-- The instant of a frame does not depend on how many have gone out. -/
theorem frameAt_frames (x : Port) (k : Nat) (g : DT) (n : Nat) : frameAt { x with frames := k } g n = frameAt x g n := by
  unfold frameAt portRate
  dsimp only

theorem portBlockBoundary_gives (t : DT) (p : Fin 14) (s : State) : Gives (.portBlockBoundary t p) s fun u =>
    let m := moment t s
    let x := m.port.ports[p]
    let dead := m.time.bothLost = true ∧ m.time.vcoStopped = true
    (isAin p.val = true ∨ x.grid = none ∨ dead ∨ onGrid (now m) x = false → u = m)
      ∧ ∀ g, isAin p.val = false → x.grid = some g → ¬ dead → onGrid (now m) x = true →
        let n := framesAt (now m) x g
        (n < x.frames → u = m)
          ∧ (x.frames ≤ n → x.stopping = true → rampsDown p m = true → u.port.ports[p].grid = none ∧ u.port.ports[p].cfg = x.cfg)
          ∧ (x.frames ≤ n → x.stopping = false ∨ rampsDown p m = false → s.host.held = [] →
              let y := u.port.ports[p]
              y.frames = n + 192 ∧ y.blockAt = frameAt x g n ∧ y.grid = some g ∧ y.cfg = x.cfg
                ∧ y.sent.length = (channelsOf p).length ∧ (∀ l ∈ y.sent, l.length = 192)) := by
  rw [← hh_moment s t]
  refine ⟨_, rfl, ?_⟩
  generalize moment t s = m
  intro m' x dead
  refine ⟨fun h => ?_, fun g hp hg hd ho => ?_⟩
  · cases hg : m.port.ports[p].grid with
    | none => rfl
    | some g =>
      refine if_pos ?_
      obtain h | h | ⟨hb, hv⟩ | h := h
      · rw [h]
        rfl
      · exact absurd (hg.symm.trans h) (by simp)
      · rw [show m.time.bothLost = true from hb, show m.time.vcoStopped = true from hv]
        simp
      · rw [show onGrid (now m) m.port.ports[p] = false from h]
        simp
  · rw [show m.port.ports[p].grid = some g from hg]
    dsimp only
    have hlive : (isAin p.val || (m.time.bothLost && m.time.vcoStopped) || !onGrid (now m) m.port.ports[p]) = false := by
      rw [hp, show onGrid (now m) m.port.ports[p] = true from ho]
      simpa [dead, m'] using hd
    have hmoved : (if m.port.toMove = true then dividersAgain m else m).port.ports = m.port.ports
        ∧ (if m.port.toMove = true then dividersAgain m else m).port.routes = m.port.routes
        ∧ (if m.port.toMove = true then dividersAgain m else m).host = m.host := by
      split <;> exact ⟨rfl, rfl, rfl⟩
    generalize (if m.port.toMove = true then dividersAgain m else m) = w at hmoved ⊢
    obtain ⟨hports, hroutes, hhost⟩ := hmoved
    obtain ⟨k, hk⟩ : ∃ k, modPort p (fun x => { x with frames := framesAt (now m) m.port.ports[p] g }) w = k := ⟨_, rfl⟩
    have hdown : rampsDown p k = rampsDown p m := by
      rw [rampsDown, rampsDown, ← hroutes, ← hk]
      rfl
    have hframes : portAt p k = { x with frames := framesAt (now m) m.port.ports[p] g } := by
      rw [← hk, portAt_modPort, portAt_congr hports]
      rfl
    have hempty (h : m.host.held = []) : k.host.held = [] := by
      rw [← hk, modPort_host, hhost, h]
    rw [hlive, Bool.false_or, hk, hdown]
    clear hk hports hroutes hhost hlive hdown
    refine ⟨fun hn => if_pos (decide_eq_true hn), fun hn hstop hramp => ?_, fun hn hgo hheld => ?_⟩ <;>
      rw [if_neg (by rw [decide_eq_true_eq]; exact Nat.not_lt.mpr hn)]
    · rw [if_pos (by rw [show m.port.ports[p].stopping = true from hstop, hramp]; rfl)]
      have hstopped : portAt p (setDividers (stopPort p k)) = _ := portAt_setDividers.trans portAt_stopPort
      rw [hframes] at hstopped
      have hgrid := congrArg Port.grid hstopped
      have hcfg := congrArg Port.cfg hstopped
      exact ⟨hgrid, hcfg⟩
    · rw [if_neg fun h => ?_]
      · generalize hb : portBoundary p k = b
        have hport : portAt p b = { x with frames := framesAt (now m) m.port.ports[p] g } := by
          rw [← hb, portAt_congr (portBoundary_idle (hempty hheld)), hframes]
        rw [show b.port.ports[p] = _ from hport, show x.grid = some g from hg]
        obtain ⟨hcount, hat, hgrid, hcfg, hsent⟩ := sendBlock_gives (p := p) (s := b)
          (frameAt { x with frames := framesAt (now m) m.port.ports[p] g } g (framesAt (now m) m.port.ports[p] g))
        rw [hport] at hcount hgrid hcfg
        rw [frameAt_frames] at hat
        exact ⟨hcount, hat, hgrid.trans hg, hcfg, hsent⟩
      · obtain ⟨hstop, hramp⟩ := Bool.and_eq_true_iff.mp h
        obtain hgo | hgo := hgo
        · exact Bool.false_ne_true (hgo.symm.trans hstop)
        · exact Bool.false_ne_true (hgo.symm.trans hramp)

/-! ### Subframes -/

/-- The bits of a subframe without its parity bit. -/
def subframeBits (word : BitVec 24) (v c : Bool) : BitVec 28 :=
  word.setWidth 28 ||| (if v then 0x1000000#28 else 0) ||| (if c then 0x4000000#28 else 0)

/-- The parity of the first `n` bits. -/
def parityTo (n : Nat) (b : BitVec 28) : Bool := (List.range n).foldl (fun q i => q != b.getLsbD i) false

theorem subframe_bits (pre : Nat) (word : BitVec 24) (v c : Bool) : (subframe pre word v c).2 =
    if parityTo 28 (subframeBits word v c) then subframeBits word v c ||| 0x8000000#28 else subframeBits word v c := by
  by_cases h : parityTo 28 (subframeBits word v c) = true
  · rw [if_pos h]
    unfold parityTo subframeBits at *
    exact if_pos h
  · rw [if_neg h]
    unfold parityTo subframeBits at *
    exact if_neg h

theorem parityTo_succ (n : Nat) (b : BitVec 28) : parityTo (n + 1) b = (parityTo n b != b.getLsbD n) := by
  rw [parityTo, List.range_succ, List.foldl_append]
  rfl

theorem parityTo_congr {n : Nat} {a b : BitVec 28} (h : ∀ i < n, a.getLsbD i = b.getLsbD i) : parityTo n a = parityTo n b := by
  induction n with
  | zero => rfl
  | succ n ih => rw [parityTo_succ, parityTo_succ, ih fun i hi => h i (by omega), h n (by omega)]

theorem getLsbD_subframeBits (word : BitVec 24) (v c : Bool) {i : Nat} (hi : i < 28) :
    (subframeBits word v c).getLsbD i = (word.getLsbD i || (v && decide (i = 24)) || (c && decide (i = 26))) := by
  have hv : (if v then 0x1000000#28 else 0#28).getLsbD i = (v && decide (i = 24)) := by
    cases v
    · simp
    · rw [if_pos rfl, show 0x1000000#28 = BitVec.twoPow 28 24 from by decide, BitVec.getLsbD_twoPow]
      simp [eq_comm]
  have hc : (if c then 0x4000000#28 else 0#28).getLsbD i = (c && decide (i = 26)) := by
    cases c
    · simp
    · rw [if_pos rfl, show 0x4000000#28 = BitVec.twoPow 28 26 from by decide, BitVec.getLsbD_twoPow]
      simp [eq_comm]
  rw [subframeBits, BitVec.getLsbD_or, BitVec.getLsbD_or, BitVec.getLsbD_setWidth, decide_eq_true hi, Bool.true_and]
  exact congr (congrArg _ (congrArg _ hv)) hc

/-- The parity bit is bit 27, which the others leave clear. -/
theorem getLsbD_parity (i : Nat) : (0x8000000#28).getLsbD i = decide (i = 27) := by
  rw [show 0x8000000#28 = BitVec.twoPow 28 27 from by decide, BitVec.getLsbD_twoPow]
  by_cases h : i = 27 <;> simp [h, eq_comm]

theorem getLsbD_subframe (pre : Nat) (word : BitVec 24) (v c : Bool) {i : Nat} (hi : i < 27) :
    (subframe pre word v c).2.getLsbD i = (subframeBits word v c).getLsbD i := by
  rw [subframe_bits]
  split
  · rw [BitVec.getLsbD_or, getLsbD_parity, decide_eq_false (by omega), Bool.or_false]
  · rfl

theorem subframe_even (pre : Nat) (word : BitVec 24) (v c : Bool) : parityTo 28 (subframe pre word v c).2 = false := by
  have hclear : (subframeBits word v c).getLsbD 27 = false := by
    rw [getLsbD_subframeBits _ _ _ (by omega), BitVec.getLsbD_of_ge _ _ (by omega)]
    simp
  rw [subframe_bits]
  split
  · next hodd =>
    rw [parityTo_succ, hclear, Bool.bne_false] at hodd
    rw [parityTo_succ, parityTo_congr (b := subframeBits word v c) fun i hi => ?_, hodd, BitVec.getLsbD_or, getLsbD_parity]
    · simp
    · rw [BitVec.getLsbD_or, getLsbD_parity, decide_eq_false (by omega), Bool.or_false]
  · next heven => exact eq_false_of_ne_true heven

theorem subframe_gives (pre : Nat) (word : BitVec 24) (v c : Bool) : (subframe pre word v c).1 = pre
    ∧ (subframe pre word v c).2.setWidth 24 = word ∧ (subframe pre word v c).2.getLsbD 24 = v
    ∧ (subframe pre word v c).2.getLsbD 25 = false ∧ (subframe pre word v c).2.getLsbD 26 = c
    ∧ (List.range 28).foldl (fun q i => q != (subframe pre word v c).2.getLsbD i) false = false := by
  have hbit {i : Nat} (hi : i < 27) : (subframe pre word v c).2.getLsbD i = (word.getLsbD i || (v && decide (i = 24)) || (c && decide (i = 26))) :=
    (getLsbD_subframe pre word v c hi).trans (getLsbD_subframeBits word v c (by omega))
  refine ⟨rfl, BitVec.eq_of_getLsbD_eq fun i hi => ?_, ?_, ?_, ?_, subframe_even pre word v c⟩
  · rw [BitVec.getLsbD_setWidth, hbit (by omega), decide_eq_true hi, decide_eq_false (by omega), decide_eq_false (by omega)]
    simp
  · rw [hbit (by omega), BitVec.getLsbD_of_ge _ _ (by omega)]
    simp
  · rw [hbit (by omega), BitVec.getLsbD_of_ge _ _ (by omega)]
    simp
  · rw [hbit (by omega), BitVec.getLsbD_of_ge _ _ (by omega)]
    simp

theorem subframe_pre (pre : Nat) (word : BitVec 24) (v c : Bool) : (subframe pre word v c).1 = pre := rfl

theorem length_flatMap_pair {α : Type} (f g : Nat → α) (n : Nat) : ((List.range n).flatMap fun j => [f j, g j]).length = 2 * n := by
  induction n with
  | zero => rfl
  | succ n ih => rw [List.range_succ, List.flatMap_append, List.length_append, ih, List.flatMap_singleton, mul_add]; rfl

/-- A list of pairs laid out one after another, read at a place. -/
theorem getElem?_flatMap_pair {α : Type} (f g : Nat → α) (n k : Nat) (hk : k < 2 * n) :
    ((List.range n).flatMap fun j => [f j, g j])[k]? = some (if k % 2 = 0 then f (k / 2) else g (k / 2)) := by
  induction n with
  | zero => omega
  | succ n ih =>
    have hlen := length_flatMap_pair f g n
    rw [List.range_succ, List.flatMap_append, List.flatMap_singleton]
    by_cases hlt : k < 2 * n
    · rw [List.getElem?_append_left (by omega), ih hlt]
    · rw [List.getElem?_append_right (by omega), hlen]
      obtain hk | hk : k = 2 * n ∨ k = 2 * n + 1 := by omega
      · subst hk
        simp
      · subst hk
        have hhalf : (2 * n + 1) / 2 = n := by omega
        simp [hhalf]

theorem subframes_gives (cs : List Byte) (sent : List (List (BitVec 24 × Bool))) : (subframes cs sent).length = 384
    ∧ ∀ k : Nat, k < 384 → ((subframes cs sent)[k]?.map (·.1)) = some (if k = 0 then 0 else if k % 2 = 0 then 1 else 2) := by
  unfold subframes
  refine ⟨?_, fun k hk => ?_⟩
  · exact length_flatMap_pair _ _ 192
  · rw [getElem?_flatMap_pair _ _ 192 k hk, Option.map_some]
    refine congrArg some ?_
    by_cases hodd : k % 2 = 0
    · have hzero : k / 2 = 0 ↔ k = 0 := by omega
      rw [if_pos hodd, if_pos hodd, subframe_pre]
      simp only [hzero]
    · rw [if_neg hodd, if_neg hodd, if_neg (by omega), subframe_pre]

/-! ### Slot masks -/

theorem slotmaskFrameApply_gives (t : DT) (k : Fin 2) (s : State) : Gives (.slotmaskFrameApply t k) s fun u =>
    let m := moment t s
    let p : Fin 14 := ⟨12 + k.val, by omega⟩
    let x := m.port.ports[p]
    let n := dtSince x.blockAt (now m) * 48000 / 2 ^ 32
    let frame := dtAdd x.blockAt (n * 2 ^ 32 / 48000)
    (waiting 0x0682 p.val m = [] → u = m)
      ∧ ∀ h, waiting 0x0682 p.val m = [h] →
        let early := x.grid.isSome = true ∧ frame.toNat < (h.aux.getD 1 0).toNat + twoBclk
        let w := finish h .ok [(24, 8, dtInt (if x.grid.isSome then frame else now m))] (modPort p (fun x => { x with mask := maskOf h }) m)
        (early → u = m)
          ∧ (¬ early → x.grid = none ∨ x.sent = [] ∨ 192 ≤ n → u = w)
          ∧ (¬ early → x.grid.isSome = true → x.sent ≠ [] → n < 192 → u = sendTdm p n w ∧ u.port.ports[p].mask = maskOf h) := by
  refine ⟨_, rfl, ?_⟩
  generalize moment t s = m
  intro m' p x n frame
  refine ⟨fun hw => ?_, fun h hw => ?_⟩
  · rw [show waiting 0x0682 (12 + k.val) m = [] from hw]
    rfl
  · rw [show waiting 0x0682 (12 + k.val) m = [h] from hw]
    intro early w
    have hearly : (decide ((h.aux.getD 1 0).toNat + twoBclk ≤ frame.toNat) || x.grid.isNone) = false ↔ early := by
      rw [Bool.or_eq_false_iff, decide_eq_false_iff_not, not_le, Option.isNone_eq_false_iff, and_comm]
    refine ⟨fun he => ?_, fun he hidle => ?_, fun he hg hs hn => ?_⟩
    · rw [List.filter_cons_of_neg (by rw [show (decide _ || _) = false from hearly.mpr he]; decide), List.filter_nil]
      rfl
    · rw [List.filter_cons_of_pos (Bool.not_eq_false _ ▸ mt hearly.mp he), List.filter_nil]
      refine (if_neg (by rw [List.isEmpty_cons]; decide)).trans (if_neg fun hsend => ?_)
      obtain ⟨hgs, hn⟩ := Bool.and_eq_true_iff.mp hsend
      obtain ⟨hg, hs⟩ := Bool.and_eq_true_iff.mp hgs
      obtain h | h | h := hidle
      · rw [show m.port.ports[p].grid = none from h] at hg
        exact Bool.false_ne_true hg
      · rw [show m.port.ports[p].sent = [] from h] at hs
        exact Bool.false_ne_true hs
      · exact Nat.not_lt.mpr h (of_decide_eq_true hn)
    · rw [List.filter_cons_of_pos (Bool.not_eq_false _ ▸ mt hearly.mp he), List.filter_nil]
      refine ⟨(if_neg (by rw [List.isEmpty_cons]; decide)).trans (if_pos ?_), ?_⟩
      · rw [show m.port.ports[p].grid.isSome = true from hg, List.isEmpty_eq_false_iff.mpr (show m.port.ports[p].sent ≠ [] from hs)]
        exact decide_eq_true hn
      · have hmask : (portAt p w).mask = maskOf h := by
          rw [portAt_congr (congrArg PortSt.ports (finish_port ..)), portAt_modPort]
        rw [if_neg (by rw [List.isEmpty_cons]; decide), if_pos]
        · exact hmask
        · rw [show m.port.ports[p].grid.isSome = true from hg, List.isEmpty_eq_false_iff.mpr (show m.port.ports[p].sent ≠ [] from hs)]
          exact decide_eq_true hn

/-- Settles O45. On a stopped port the fields apply when the command is accepted (the model's choice, log entry 43). -/
theorem portsApplyAtTheirBoundaries : Obligations.PortsApplyAtTheirBoundaries :=
  ⟨portConfig_does, portRoute_does, portSlotmask_does, portChstatusSet_does, portInputStatus_does, portBlockBoundary_gives, subframe_gives,
    subframes_gives, slotmaskFrameApply_gives⟩

end Sys2Proof.Machine

/-! ## Biphase inputs and the air-chain comparison (R282 to R290)

`Ain.face` is what a block, a loss or a relock sets of an input; the comparison and its reports leave it alone.
-/
namespace Sys2Proof.Machine

/-! ### What a comparison leaves of an input -/

/-- The receiver of an input: its lock, rate, status and counts. -/
def Ain.face (a : Ain) : (Bool × Option DT × Nat × DT) × (List Byte × List Byte × Nat × Nat) × Option DT × List AinBlock × Nat :=
  ((a.locked, a.lostAt, a.rate, a.lastGood), (a.csA, a.csB, a.parity, a.biphase), a.changeFrom, a.fresh, a.blocks)

/-- An input of the state. -/
def ainAt (i : Fin 4) (s : State) : Ain := s.port.ains[i]

section
variable {i : Fin 4} {s t : State}

theorem ainAt_congr (h : t.port = s.port) : ainAt i t = ainAt i s := by rw [ainAt, ainAt, h]

theorem ainAt_modAin (f : Ain → Ain) : ainAt i (modAin i f s) = f (ainAt i s) := modAin_get ..

theorem ainAt_reportCompare (changed : Bool) : ainAt i (reportCompare i changed s) = ainAt i s := ainAt_congr ((reportCompare_within ..).port rfl)

/-- A comparison that follows its input changes no more of it than its own state. -/
theorem ainAt_followCompare : ∃ st, ainAt i (followCompare i s) = { ainAt i s with cmpState := st } := by
  unfold followCompare
  split
  · dsimp only
    split
    · exact ⟨(ainAt i s).cmpState, rfl⟩
    · exact ⟨_, (ainAt_reportCompare true).trans (ainAt_modAin _)⟩
  · exact ⟨(ainAt i s).cmpState, rfl⟩

theorem face_followCompare : (ainAt i (followCompare i s)).face = (ainAt i s).face := by
  obtain ⟨st, h⟩ := ainAt_followCompare (i := i) (s := s)
  rw [h]
  rfl

theorem face_nonAudio (on : Bool) (cause dataType : Nat) : (ainAt i (nonAudio i on cause dataType s)).face = (ainAt i s).face := by
  unfold nonAudio
  rw [face_followCompare, ainAt_congr (raise_port ..), ainAt_modAin]
  rfl

theorem face_signStudio : (ainAt i (signStudio i s)).face = (ainAt i s).face := by
  unfold signStudio
  dsimp only
  split
  · rfl
  · split
    · rw [ainAt_modAin]
      change (ainAt i (subWords _ _ _).2).face = _
      rw [ainAt_congr ((PairW.snd (subWords_within _ _ _)).port rfl), ainAt_modAin]
      rfl
    · rw [ainAt_modAin]
      rfl

theorem face_feedStudio (b : AinHeld) : (ainAt i (feedStudio i b s)).face = (ainAt i s).face := by
  unfold feedStudio
  split
  · rfl
  · rw [face_signStudio, ainAt_modAin]
    rfl

theorem face_ainBlock (stamp : DT) (l : List (AinSample × AinSample)) : (ainAt i (ainBlock i stamp l s)).face = (ainAt i s).face := by
  unfold ainBlock
  dsimp only
  rw [ainAt_congr ((deliver_within ..).port rfl), ainAt_modAin]
  rfl

theorem face_settleJump (stop : DT) : (ainAt i (settleJump i stop s)).face = (ainAt i s).face := by
  unfold settleJump
  dsimp only
  split
  · rfl
  · rw [ainAt_modAin, ainAt_congr ((ainGap_within ..).port rfl), ainAt_congr ((ainGap_within ..).port rfl)]
    rfl

/-- The non-audio state after a block (R286). -/
def takeAudio (i : Fin 4) (b : AinBlock) (s : State) : State :=
  let a := s.port.ains[i]
  match a.nonAudio, csNonAudio (statusBytes (b.frames.map (·.1))) || csNonAudio (statusBytes (b.frames.map (·.2))), bursts (a.tail ++ msbWords b) with
  | false, true, _ => nonAudio i true 0 0 s
  | false, false, k :: _ => nonAudio i true 1 (k.2 % 32) s
  | _, _, _ => s

theorem face_takeAudio (b : AinBlock) : (ainAt i (takeAudio i b s)).face = (ainAt i s).face := by
  unfold takeAudio
  dsimp only
  split
  · exact face_nonAudio ..
  · exact face_nonAudio ..
  · rfl

/-- What a block of a locked input brings. -/
theorem face_takeBlock (b : AinBlock) : (ainAt i (takeBlock i b s)).face =
    Ain.face { ainAt i s with
      csA := statusBytes (b.frames.map Prod.fst), csB := statusBytes (b.frames.map Prod.snd), parity := (ainAt i s).parity + parityOf b,
      biphase := (ainAt i s).biphase + biphaseOf b, lastGood := lastFrame b, changeFrom := none, fresh := [] } := by
  have hstored (h : AinHeld) (stamp : DT) (l : List (AinSample × AinSample)) (q : Prop) [Decidable q] (f : Ain → Ain) (n : State) :
      (ainAt i (if q then ainBlock i stamp l (feedStudio i h (ainPlays i (modAin i f n))) else feedStudio i h (ainPlays i (modAin i f n)))).face
        = (f (ainAt i n)).face := by
    have hfed : (ainAt i (feedStudio i h (ainPlays i (modAin i f n)))).face = (f (ainAt i n)).face := by
      rw [face_feedStudio]
      exact congrArg Ain.face (ainAt_modAin (s := n) f)
    split
    · rw [face_ainBlock, hfed]
    · exact hfed
  have hface := face_takeAudio (i := i) (s := s) b
  refine (hstored _ _ _ _ _ (takeAudio i b s)).trans ?_
  simp only [Ain.face, Prod.mk.injEq] at hface ⊢
  simp only [hface, and_self]

/-- An input that was locked loses lock with the instant of its last good frame. -/
theorem face_loseAin (h : (ainAt i s).locked = true) : (ainAt i (loseAin i s)).face =
    { ainAt i s with locked := false, blocks := 0, lostAt := some (ainAt i s).lastGood, changeFrom := none, fresh := [] }.face := by
  unfold loseAin
  dsimp only
  rw [if_neg (by rw [show s.port.ains[i].locked = true from h]; decide), face_followCompare, ainAt_congr (raise_port ..), ainAt_modAin]

theorem loseAin_of_unlocked (h : (ainAt i s).locked = false) : loseAin i s = s := if_pos (by rw [show s.port.ains[i].locked = false from h]; rfl)

/-- A comparison that follows its input is in the state that R290 gives. -/
theorem ainAt_followCompare_of_cmp {v : Fin 96} (h : (ainAt i s).cmp = some v) :
    ainAt i (followCompare i s) = { ainAt i s with cmpState := compareState s.audio.svcs[v] (ainAt i s) (now s) } := by
  unfold followCompare
  rw [show s.port.ains[i].cmp = some v from h]
  dsimp only
  split
  next heq =>
    conv_rhs => rw [show compareState s.audio.svcs[v] (ainAt i s) (now s) = (ainAt i s).cmpState from heq]
  next => exact (ainAt_reportCompare true).trans (ainAt_modAin _)

/-- An input that is no longer non-audio. -/
theorem ainAt_nonAudio (on : Bool) (cause dataType : Nat) :
    ∃ st, ainAt i (nonAudio i on cause dataType s) = { ainAt i s with nonAudio := on, dataType := dataType, cmpState := st } := by
  unfold nonAudio
  obtain ⟨st, h⟩ := ainAt_followCompare (i := i)
    (s := raise .ainNonaudio [(16, 1, ainPort i), (17, 1, bit on), (18, 1, cause), (19, 1, dataType), (24, 8, dtInt (now s))]
      (modAin i (fun a => { a with nonAudio := on, dataType := dataType }) s))
  exact ⟨st, h.trans (by rw [ainAt_congr (raise_port ..), ainAt_modAin])⟩

/-- The blocks at a new rate are taken one after another, the last of them last. -/
theorem face_takeBlocks (b : AinBlock) (l : List AinBlock) : ∃ cs, (ainAt i (l.foldl (fun s b => takeBlock i b s) (takeBlock i b s))).face =
    (((ainAt i s).locked, (ainAt i s).lostAt, (ainAt i s).rate, lastFrame ((b :: l).getLast (List.cons_ne_nil b l))), cs, none, [],
      (ainAt i s).blocks) := by
  induction l generalizing b s with
  | nil => exact ⟨_, face_takeBlock b⟩
  | cons d l ih =>
    obtain ⟨cs, h⟩ := ih (s := takeBlock i b s) d
    have hb := face_takeBlock (i := i) (s := s) b
    simp only [Ain.face, Prod.mk.injEq] at hb
    obtain ⟨⟨hl, hlost, hr, _⟩, _, _, _, hn⟩ := hb
    rw [hl, hlost, hr, hn] at h
    refine ⟨cs, ?_⟩
    rw [List.getLast_cons_cons, List.foldl_cons]
    exact h

end

/-! ### The counts of a block and the search of a comparison -/

theorem countP_or_le {α : Type} (p q : α → Bool) (l : List α) : l.countP (fun x => p x || q x) ≤ l.countP p + l.countP q := by
  induction l with
  | nil => simp
  | cons x l ih => cases hp : p x <;> cases hq : q x <;> simp [hp, hq] <;> omega

/-- A subframe with a fault has a parity error or a biphase violation, and is counted once (R283). -/
theorem faultsOf_le (b : AinBlock) : faultsOf b ≤ parityOf b + biphaseOf b ∧ faultsOf b ≤ 2 * b.frames.length := by
  have h1 := countP_or_le (fun f : AinSub × AinSub => f.1.parity) (·.1.biphase) b.frames
  have h2 := countP_or_le (fun f : AinSub × AinSub => f.2.parity) (·.2.biphase) b.frames
  have h3 := List.countP_le_length (p := fun f : AinSub × AinSub => f.1.parity || f.1.biphase) (l := b.frames)
  have h4 := List.countP_le_length (p := fun f : AinSub × AinSub => f.2.parity || f.2.biphase) (l := b.frames)
  unfold faultsOf parityOf biphaseOf
  omega

/-- The better delay of a list is one of it. -/
theorem foldl_betterDelay_mem (y : Svc) (a : Ain) (d : Int) (l : List Int) : l.foldl (betterDelay y a) d ∈ d :: l := by
  induction l generalizing d with
  | nil => exact List.mem_singleton_self d
  | cons e l ih =>
    have hb : betterDelay y a d e = d ∨ betterDelay y a d e = e := by
      unfold betterDelay
      dsimp only
      split
      · exact .inr rfl
      · exact .inl rfl
    rw [List.foldl_cons]
    have h := List.mem_cons.mp (ih (betterDelay y a d e))
    rcases h with h | h
    · rw [h]
      rcases hb with hb | hb <;> rw [hb] <;> simp
    · exact List.mem_cons_of_mem _ (List.mem_cons_of_mem _ h)

/-- The delay that a search finds lies between -1 s and MAX_DELAY and within CMP_BER (R289). -/
theorem searchDelay_bounds {y : Svc} {a : Ain} {d : Int} (h : searchDelay y a = some d) :
    -32 ≤ d ∧ d ≤ 32 * (fget a.cmpCfg 0x0D02).toNat ∧ (cmpCount y a d).within (fget a.cmpCfg 0x0D05) = true := by
  unfold searchDelay at h
  dsimp only at h
  split at h
  · simp at h
  · split at h
    next e rest hl =>
      have hm := foldl_betterDelay_mem y a e rest
      rw [← hl] at hm
      split at h
      next hw =>
        obtain rfl := Option.some.inj h
        obtain ⟨k, hk, hd⟩ := List.mem_map.mp (List.mem_filter.mp hm).1
        have := List.mem_range.mp hk
        exact ⟨by omega, by omega, hw⟩
      next => simp at h
    next => simp at h

/-- The states of a comparison that come first (R290; their order is log entry 110's). -/
theorem compareState_first (y : Svc) (a : Ain) (t : DT) : (a.locked = false ∨ a.nonAudio = true → compareState y a t = 5)
    ∧ (a.locked = true → a.nonAudio = false → y.st ≠ .running → compareState y a t = 6) := by
  unfold compareState
  refine ⟨fun h => if_pos ?_, fun hl hn hy => ?_⟩
  · rcases h with h | h <;> simp [h]
  · rw [if_neg (by rw [hl, hn]; decide), if_pos (by simpa using hy)]

/-- Nothing that a comparison judges is the instant of its last report. -/
theorem compareState_cmpAt (y : Svc) (a : Ain) (t d : DT) : compareState y { a with cmpAt := d } t = compareState y a t := rfl

/-! ### The obligation -/

/-- A block received (R282, R283, R285). -/
theorem gives_ainBlock (t : DT) (i : Fin 4) (b : AinBlock) (s : State) : Gives (.ainBlockReceived t i b) s fun u =>
    let m := moment t s
    let a := m.port.ains[i]
    let z := u.port.ains[i]
    let open_ := ainOn i m = true ∧ a.lostAt = none
    (ainOn i m = false ∨ a.lostAt.isSome = true → u = m)
      ∧ (open_ → a.locked = false → nominalOf b = none → z = { a with blocks := 0 })
      ∧ (∀ k, open_ → a.locked = false → nominalOf b = some k → ¬ (a.blocks = 1 ∧ a.rate = k.val) → z = { a with rate := k.val, blocks := 1 })
      ∧ (∀ k, open_ → a.locked = false → nominalOf b = some k → a.blocks = 1 → a.rate = k.val →
          z.locked = true ∧ z.lastGood = lastFrame b ∧ z.parity = a.parity + parityOf b)
      ∧ (open_ → a.locked = true → 16 < faultsOf b →
          z.locked = false ∧ z.lostAt = some a.lastGood ∧ z.parity = a.parity + parityOf b ∧ z.biphase = a.biphase + biphaseOf b)
      ∧ (open_ → a.locked = true → faultsOf b ≤ 16 → farFrom a.rate b = false →
          z.locked = true ∧ z.lastGood = lastFrame b ∧ z.csA = statusBytes (b.frames.map (·.1)) ∧ z.csB = statusBytes (b.frames.map (·.2))
            ∧ z.parity = a.parity + parityOf b ∧ z.biphase = a.biphase + biphaseOf b ∧ z.changeFrom = none)
      ∧ (open_ → a.locked = true → faultsOf b ≤ 16 → farFrom a.rate b = true →
          z.locked = true ∧ z.rate = a.rate ∧ z.lastGood = a.lastGood ∧ z.changeFrom = some (a.changeFrom.getD b.stamp) ∧ b ∈ z.fresh) := by
  refine ⟨_, rfl, ?_⟩
  generalize moment t s = m
  intro n a z open_
  have hopen (ho : open_) : ¬ (!ainOn i n || a.lostAt.isSome) = true := by rw [ho.1, ho.2]; decide
  have hz (x : State) (hx : ite _ _ _ = x) : z = ainAt i x := congrArg (ainAt i) hx
  refine ⟨fun h => if_pos ?_, fun ho hl hk => ?_, fun k ho hl hk hne => ?_, fun k ho hl hk h1 h2 => ?_, fun ho hl hf => ?_,
    fun ho hl hf hr => ?_, fun ho hl hf hr => ?_⟩
  · rcases h with h | h
    · rw [h]; rfl
    · rw [h, Bool.or_true]
  · refine (hz (modAin i (fun a => { a with blocks := 0 }) n) ((if_neg (hopen ho)).trans ((if_pos (by rw [hl]; rfl)).trans ?_))).trans (ainAt_modAin _)
    rw [hk]
  · refine (hz (modAin i (fun a => { a with rate := k.val, blocks := 1 }) n)
      ((if_neg (hopen ho)).trans ((if_pos (by rw [hl]; rfl)).trans ?_))).trans (ainAt_modAin _)
    rw [hk]
    exact if_neg hne
  · have hx := hz (followCompare i (takeBlock i b (modAin i (fun a => { a with locked := true, blocks := 2, startFlag := true, buf := [], tail := [] }) n)))
      ((if_neg (hopen ho)).trans ((if_pos (by rw [hl]; rfl)).trans (by rw [hk]; exact if_pos ⟨h1, h2⟩)))
    rw [hx]
    have hm := ainAt_modAin (i := i) (s := n) fun a => { a with locked := true, blocks := 2, startFlag := true, buf := [], tail := [] }
    generalize modAin i _ n = n' at hm ⊢
    have h := face_followCompare.trans (face_takeBlock (i := i) (s := n') b)
    rw [hm] at h
    simp only [Ain.face, Prod.mk.injEq] at h
    obtain ⟨⟨hlock, _, _, hgood⟩, ⟨_, _, hpar, _⟩, _⟩ := h
    exact ⟨hlock, hgood, hpar⟩
  · rw [hz _ ((if_neg (hopen ho)).trans ((if_neg (by rw [hl]; decide)).trans (if_pos hf)))]
    have hm := ainAt_modAin (i := i) (s := n) fun a => { a with parity := a.parity + parityOf b, biphase := a.biphase + biphaseOf b }
    have h := (face_loseAin (i := i) (by rw [hm]; exact hl)).trans (by rw [hm])
    simp only [Ain.face, Prod.mk.injEq] at h
    obtain ⟨⟨hlock, hlost, _⟩, ⟨_, _, hpar, hbi⟩, _⟩ := h
    exact ⟨hlock, hlost, hpar, hbi⟩
  · rw [hz _ ((if_neg (hopen ho)).trans ((if_neg (by rw [hl]; decide)).trans ((if_neg (Nat.not_lt.mpr hf)).trans (if_pos (by rw [hr]; rfl)))))]
    have h := face_takeBlock (i := i) (s := settleJump i b.stamp n) b
    have hs := face_settleJump (i := i) (s := n) b.stamp
    simp only [Ain.face, Prod.mk.injEq] at h hs
    obtain ⟨⟨hlock, _, _, hgood⟩, ⟨hA, hB, hpar, hbi⟩, hch, _⟩ := h
    obtain ⟨⟨hlock', _⟩, ⟨_, _, hpar', hbi'⟩, _⟩ := hs
    exact ⟨hlock.trans (hlock'.trans hl), hgood, hA, hB, hpar.trans (by rw [hpar']; rfl), hbi.trans (by rw [hbi']; rfl), hch⟩
  · rw [hz _ ((if_neg (hopen ho)).trans ((if_neg (by rw [hl]; decide)).trans ((if_neg (Nat.not_lt.mpr hf)).trans (if_neg (by rw [hr]; decide))))),
      ainAt_modAin]
    refine ⟨hl, rfl, rfl, rfl, ?_⟩
    change b ∈ ite _ _ _
    split <;> simp

/-- The audio of an input returns (R286). -/
theorem gives_ainAudioReturn (t : DT) (i : Fin 4) (s : State) : Gives (.ainAudioReturn t i) s fun u =>
    let a := s.port.ains[i]
    let returns := a.nonAudio = true ∧ csNonAudio a.csA = false ∧ csNonAudio a.csB = false ∧ 16384 ≤ a.quiet
    (returns → u.port.ains[i].nonAudio = false ∧ u.port.ains[i].dataType = 0 ∧ u.port.ains[i].locked = a.locked)
      ∧ (¬ returns → u = moment t s) := by
  rw [← moment_port t s]
  refine ⟨_, rfl, ?_⟩
  generalize moment t s = m
  intro a returns
  have hiff : returns ↔ (m.port.ains[i].nonAudio && !csNonAudio m.port.ains[i].csA && !csNonAudio m.port.ains[i].csB
      && decide (16384 ≤ m.port.ains[i].quiet)) = true := by
    simp [-Fin.getElem_fin, returns, a, and_assoc]
  refine ⟨fun h => ?_, fun h => if_neg (mt hiff.mpr h)⟩
  obtain ⟨st, hx⟩ := ainAt_nonAudio (i := i) (s := m) false 2 0
  rw [if_pos (hiff.mp h)]
  exact ⟨congrArg Ain.nonAudio hx, congrArg Ain.dataType hx, (congrArg Ain.locked hx :)⟩

/-- The preambles of an input are gone (R284). -/
theorem gives_ainPreambleTimeout (t : DT) (i : Fin 4) (s : State) : Gives (.ainPreambleTimeout t i) s fun u =>
    let a := s.port.ains[i]
    let z := u.port.ains[i]
    let silent := 3 * 2 ^ 32 ≤ dtSince a.lastGood (now (moment t s)) * ainRate a.rate
    (a.locked = true → silent → z.locked = false ∧ z.blocks = 0 ∧ z.lostAt = some a.lastGood ∧ z.changeFrom = none)
      ∧ (a.locked = false ∨ ¬ silent → u = moment t s) := by
  rw [← moment_port t s]
  refine ⟨_, rfl, ?_⟩
  generalize moment t s = m
  intro a z silent
  refine ⟨fun hl hs => ?_, fun h => ?_⟩
  · have hz : z = ainAt i (loseAin i m) := congrArg (ainAt i) (if_pos (decide_eq_true hs))
    have h := face_loseAin (i := i) (s := m) hl
    rw [← hz] at h
    simp only [Ain.face, Prod.mk.injEq] at h
    obtain ⟨⟨hlock, hlost, _⟩, _, hch, _, hb⟩ := h
    exact ⟨hlock, hb, hlost, hch⟩
  · by_cases hs : silent
    · exact (if_pos (decide_eq_true hs)).trans (loseAin_of_unlocked (h.resolve_right (not_not.mpr hs)))
    · exact if_neg (by rw [decide_eq_true_iff]; exact hs)

/-- What a relock sets before its block is taken. -/
def Ain.relocked (k n : Nat) (first stop : DT) (a : Ain) : Ain :=
  { a with locked := true, blocks := 2, lostAt := none, rate := k, startFlag := true, tail := [], buf := lostBlock n first stop :: a.buf }

/-- A relock with its reports and its block. -/
theorem relocked_takeBlock {i : Fin 4} (b : AinBlock) (p : Prop) [Decidable p] (k n old new : Nat) (first stop stamp : DT) (ppm : Int)
    (fs : List (Nat × Nat × Int)) (x : State) :
    let y := ainAt i (followCompare i (takeBlock i b (if p then raise .ainClockLost fs (modAin i (Ain.relocked k n first stop) x)
      else rateChange i old new ppm stamp (raise .ainClockLost fs (modAin i (Ain.relocked k n first stop) x)))))
    y.locked = true ∧ y.lostAt = none ∧ y.rate = k ∧ y.lastGood = lastFrame b := by
  intro y
  have hm : ainAt i (raise .ainClockLost fs (modAin i (Ain.relocked k n first stop) x)) = (ainAt i x).relocked k n first stop :=
    (ainAt_congr (raise_port ..)).trans (ainAt_modAin _)
  have h := face_followCompare.trans (face_takeBlock (i := i) (s := if p then raise .ainClockLost fs (modAin i (Ain.relocked k n first stop) x)
    else rateChange i old new ppm stamp (raise .ainClockLost fs (modAin i (Ain.relocked k n first stop) x))) b)
  rw [show ainAt i (ite p _ _) = (ainAt i x).relocked k n first stop by
    split
    · exact hm
    · exact (ainAt_congr ((rateChange_within ..).port rfl)).trans hm] at h
  simp only [Ain.face, Prod.mk.injEq] at h
  obtain ⟨⟨hlock, hl, hr, hg⟩, _⟩ := h
  exact ⟨hlock, hl, hr, hg⟩

/-- An input locks again (R284). -/
theorem gives_ainRelock (t : DT) (i : Fin 4) (b : AinBlock) (s : State) : Gives (.ainRelock t i b) s fun u =>
    let m := moment t s
    let z := u.port.ains[i]
    (m.port.ains[i].lostAt = none ∨ ainOn i m = false ∨ nominalOf b = none → u = m)
      ∧ ∀ k, m.port.ains[i].lostAt.isSome = true → ainOn i m = true → nominalOf b = some k →
          z.locked = true ∧ z.lostAt = none ∧ z.rate = k.val ∧ z.lastGood = lastFrame b := by
  refine ⟨_, rfl, ?_⟩
  generalize moment t s = m
  intro m z
  refine ⟨fun h => ?_, fun k hlost hon hk => ?_⟩
  · rcases hd : m.port.ains[i].lostAt with _ | d
    · rfl
    · rcases hk : nominalOf b with _ | k
      · rfl
      · have hoff : ainOn i m = false := (h.resolve_left (by rw [hd]; simp)).resolve_right (by rw [hk]; simp)
        exact if_pos (by rw [hoff]; rfl)
  · obtain ⟨d, hd⟩ := Option.isSome_iff_exists.mp hlost
    dsimp only [z]
    rw [show m.port.ains[i].lostAt = some d from hd, hk]
    dsimp only
    rw [if_neg (by rw [hon]; decide)]
    exact relocked_takeBlock ..

/-- The blocks at a confirmed rate are taken. -/
theorem confirmed_takeBlocks {i : Fin 4} {n : State} {a : Ain} {k : Nat} {b : AinBlock} {l : List AinBlock}
    (hn : ainAt i n = { a with rate := k, changeFrom := none, fresh := [], startFlag := true, buf := [], tail := [] }) (hl : a.locked = true) :
    let z := ainAt i (l.foldl (fun s b => takeBlock i b s) (takeBlock i b n))
    z.rate = k ∧ z.changeFrom = none ∧ z.fresh = [] ∧ z.locked = true ∧ z.lastGood = lastFrame ((b :: l).getLast (List.cons_ne_nil b l)) := by
  intro z
  obtain ⟨cs, h⟩ := face_takeBlocks (i := i) (s := n) b l
  rw [hn] at h
  simp only [Ain.face, Prod.mk.injEq] at h
  obtain ⟨⟨hlock, _, hr, hg⟩, _, hc, hf, _⟩ := h
  exact ⟨hr, hc, hf, hlock.trans hl, hg⟩

/-- A new rate is confirmed over two blocks (R285). -/
theorem gives_ainRateConfirmed (t : DT) (i : Fin 4) (s : State) : Gives (.ainRateConfirmed t i) s fun u =>
    let a := s.port.ains[i]
    let z := u.port.ains[i]
    (a.locked = false ∨ a.fresh.length < 2 → u = moment t s)
      ∧ ∀ b d l k, a.locked = true → a.fresh = b :: d :: l → nominalOf b = some k →
          z.rate = k.val ∧ z.changeFrom = none ∧ z.fresh = [] ∧ z.locked = true
            ∧ z.lastGood = lastFrame ((b :: d :: l).getLast (List.cons_ne_nil b (d :: l))) := by
  rw [← moment_port t s]
  refine ⟨_, rfl, ?_⟩
  generalize moment t s = m
  intro a z
  refine ⟨fun h => ?_, fun b d l k hl hf hk => ?_⟩
  · dsimp only
    split
    next b d l hfresh =>
      have hl : a.locked = false := h.resolve_right (by rw [show a.fresh = b :: d :: l from hfresh]; simp)
      split
      · exact if_pos (by rw [show m.port.ains[i].locked = false from hl]; rfl)
      · rfl
    next => rfl
  · have hm (n n' old new : Nat) (d1 d2 d3 d4 d5 : DT) (ppm : Int) : ainAt i (rateChange i old new ppm d5
        (modAin i (fun a => { a with rate := k.val, changeFrom := none, fresh := [], startFlag := true, buf := [], tail := [] })
          (ainGap i n d1 d2 (ainGap i n' d3 d4 m))))
        = { a with rate := k.val, changeFrom := none, fresh := [], startFlag := true, buf := [], tail := [] } := by
      rw [ainAt_congr ((rateChange_within ..).port rfl), ainAt_modAin, ainAt_congr ((ainGap_within ..).port rfl),
        ainAt_congr ((ainGap_within ..).port rfl)]
      rfl
    dsimp only [z]
    rw [show m.port.ains[i].fresh = b :: d :: l from hf]
    dsimp only
    rw [hk]
    dsimp only
    rw [if_neg (by rw [show m.port.ains[i].locked = true from hl]; decide), List.foldl_cons]
    exact confirmed_takeBlocks (hm ..) hl

/-- A rate change was not confirmed in time (R285). -/
theorem gives_ainRateChangeTimeout (t d : DT) (i : Fin 4) (s : State) (hd : s.port.ains[i].changeFrom = some d) :
    Gives (.ainRateChangeTimeout t i) s fun u =>
      (msDt 100 ≤ dtSince d (now (moment t s)) → s.port.ains[i].locked = true →
          u.port.ains[i].locked = false ∧ u.port.ains[i].lostAt = some s.port.ains[i].lastGood ∧ u.port.ains[i].changeFrom = none)
        ∧ (dtSince d (now (moment t s)) < msDt 100 → u = moment t s) := by
  rw [← moment_port t s] at hd ⊢
  refine ⟨_, rfl, ?_⟩
  generalize moment t s = m at hd ⊢
  rw [hd]
  dsimp only
  refine ⟨fun ht hl => ?_, fun ht => if_neg (Nat.not_le.mpr ht)⟩
  rw [if_pos ht]
  have h := face_loseAin (i := i) (s := m) hl
  simp only [Ain.face, Prod.mk.injEq] at h
  obtain ⟨⟨hlock, hlost, _⟩, _, hch, _⟩ := h
  exact ⟨hlock, hlost, hch⟩

/-- A comparison reports at its period (R290). -/
theorem gives_airchainReport (t : DT) (i : Fin 4) (s : State) : Gives (.airchainReport t i) s fun u =>
    let m := moment t s
    let a := m.port.ains[i]
    (a.cmp = none → u = m)
      ∧ ∀ v, a.cmp = some v →
        let due := (fget a.cmpCfg 0x0D03).toNat * 2 ^ 32 ≤ dtSince a.cmpAt (now m)
        (¬ due → u = m)
          ∧ (due → u = reportCompare i false (followCompare i (modAin i (fun a => { a with cmpAt := now m }) m))
              ∧ u.port.ains[i].cmpAt = now m ∧ u.port.ains[i].cmpState = compareState m.audio.svcs[v] a (now m)) := by
  refine ⟨_, rfl, ?_⟩
  generalize moment t s = m
  intro n a
  refine ⟨fun h => if_pos (by rw [show m.port.ains[i].cmp = none from h]; rfl), fun v hv => ?_⟩
  intro due
  refine ⟨fun h => if_pos ?_, fun h => ?_⟩
  · rw [Bool.or_eq_true, decide_eq_true_iff]
    exact .inr (Nat.not_le.mp h)
  · rw [if_neg (show ¬ (a.cmp.isNone || decide (dtSince a.cmpAt (now n) < (fget a.cmpCfg 0x0D03).toNat * 2 ^ 32)) = true by
      rw [hv, decide_eq_false (Nat.not_lt.mpr h)]; simp)]
    have hm := ainAt_modAin (i := i) (s := m) fun a => { a with cmpAt := now m }
    have hz : ainAt i (reportCompare i false (followCompare i (modAin i (fun a => { a with cmpAt := now m }) m))) = _ :=
      (ainAt_reportCompare false).trans (ainAt_followCompare_of_cmp (v := v) (by rw [hm]; exact hv))
    rw [hm] at hz
    exact ⟨rfl, congrArg Ain.cmpAt hz, (congrArg Ain.cmpState hz).trans (compareState_cmpAt ..)⟩

/-- Settles O46, event by event: the receiver of an input (`Ain.face`) through a block, a loss, a relock and a new rate, then its
comparison. That NO_INPUT and then AIR_UNAVAILABLE come first is the model's choice (log entry 110), as is taking a block between 1000 ppm
and 2 % off at the current rate (log entry 111). -/
theorem inputsLockLoseAndChangeRate : Obligations.InputsLockLoseAndChangeRate :=
  ⟨gives_ainBlock, faultsOf_le, gives_ainAudioReturn, gives_ainPreambleTimeout, gives_ainRelock, gives_ainRateConfirmed,
    gives_ainRateChangeTimeout, gives_airchainReport,
    fun y a t => ⟨(compareState_first y a t).1, (compareState_first y a t).2, fun _ => searchDelay_bounds⟩⟩

end Sys2Proof.Machine

/-! ## Captures, time-shift and the shared pool (R421 to R434) -/
namespace Sys2Proof.Machine

section
variable {k : Fin 4} {s : State}

theorem modSlot_get (f : Capture → Capture) : (modSlot k f s).mem.slots[k] = f s.mem.slots[k] := upd_get_self ..

theorem freeSlot_slot : (freeSlot k s).mem.slots[k] = Capture.reset := by
  unfold freeSlot
  exact Vector.getElem_set_self ..

/-- A new arm of a slot (R426). -/
theorem modMem_set_slot (used : Nat) (c : Capture) :
    (modMem (fun m => { m with usedMb := m.usedMb + used, slots := m.slots.set k c }) s).mem.slots[k] = c := Vector.getElem_set_self ..

/-- A block of the span is one of the ring, from PRE before to POST after the trigger (R427). -/
theorem spanOfRing_mem {c : Capture} {w : Nat} {l : List (DT × List Byte)} {b : DT × List Byte} (h : b ∈ spanOfRing c w l) :
    b ∈ l ∧ c.trigger.toNat - msDt c.pre ≤ b.1.toNat + w ∧ b.1.toNat < c.trigger.toNat + msDt c.post := by
  unfold spanOfRing at h
  obtain ⟨hl, hp⟩ := List.mem_filter.mp h
  simp only [Bool.and_eq_true, Bool.or_eq_true, decide_eq_true_eq, beq_iff_eq] at hp
  exact ⟨hl, by omega, hp.2⟩

end

/-- Where no command is held, a freeze completes none. -/
theorem finishAll_modSlot_get {k : Fin 4} {f : Capture → Capture} {p : Held → Bool} {st : Status} {fs : List (Nat × Nat × Int)} {s : State}
    (h : s.host.held = []) :
    (finishAll (((modSlot k f s).host.held.filter p).map (·.id)) st fs (modSlot k f s)).mem.slots[k] = f s.mem.slots[k] := by
  rw [show (modSlot k f s).host.held = [] from h]
  exact modSlot_get f

/-- A slot whose POST has passed freezes (R427, R428). -/
theorem gives_captureFreeze (t : DT) (k : Fin 4) (written : List RingBlock) (s : State) : Gives (.captureFreeze t k written) s fun u =>
    let m := moment t s
    let c := m.mem.slots[k]
    let d := u.mem.slots[k]
    let all_ := if 3 ≤ c.source then c.blocks else written.filterMap (ringBlock c)
    let l := spanOfRing c (blockSpan c m) (all_.drop (all_.length - c.ring * 1048576 / blockSize c.source c.index))
    let due := c.st = .triggered ∧ m.power.st ≠ .dormant ∧ c.trigger.toNat + msDt c.post ≤ (now m).toNat
    (¬ due → u = m)
      ∧ (due → m.host.held = [] → d.st = .frozen ∧ d.blocks = l ∧ d.bytes = sumOf (l.map (·.2.length))
          ∧ (∀ b rest, l = b :: rest → d.oldest = b.1) ∧ d.source = c.source ∧ d.trigger = c.trigger) := by
  refine ⟨_, rfl, ?_⟩
  generalize moment t s = n
  intro m c d all_ l due
  have hiff : due ↔ (n.mem.slots[k].st == .triggered && n.power.st != .dormant
      && decide (n.mem.slots[k].trigger.toNat + msDt n.mem.slots[k].post ≤ (now n).toNat)) = true := by
    simp [-Fin.getElem_fin, due, c, m, and_assoc]
  refine ⟨fun h => if_neg (mt hiff.mpr h), fun h hh => ?_⟩
  dsimp only [d]
  rw [if_pos (hiff.mp h), finishAll_modSlot_get hh]
  exact ⟨rfl, rfl, rfl, fun b rest hl => by change (l.head?.map (·.1)).getD c.trigger = b.1; rw [hl]; rfl, rfl, rfl⟩

theorem gives_sharedPoolInitDone (t : DT) (s : State) : Gives (.sharedPoolInitDone t) s fun u =>
    (isRunning s = true ∨ s.power.st = .coldStart → u.mem = { s.mem with poolReady := true })
      ∧ (isRunning s = false → s.power.st ≠ .coldStart → u = moment t s) := by
  unfold isRunning
  rw [← moment_power t s, ← moment_mem t s]
  refine ⟨_, rfl, fun h => ?_, fun hr hc => if_neg ?_⟩
  · rw [if_pos]
    · rfl
    · rcases h with h | h
      · exact Bool.or_eq_true_iff.mpr (.inl h)
      · exact Bool.or_eq_true_iff.mpr (.inr (beq_iff_eq.mpr h))
  · change ¬ ((moment t s).power.st == .running || _) = true
    rw [hr, Bool.false_or]
    simpa using hc

/-- A capture is armed within the pool, or its slot is released (R424, R426). -/
theorem does_memCaptureArm (e : Entry) (k : Fin 4) (hk : e.target.toNat = k.val) : Does (.memCaptureArm e) specMemCaptureArm e fun h u t =>
    let a := Entry.args e
    let c := u.mem.slots[k]
    let src := capSource a
    let mb := captureMb src (capIndex a) (capPre a) (capPost a) u
    let noStream := decide (src < 2) && capIndex a == 1 && !peerStream (src == 1) u
    let full := decide (3072 < mb) || (decide (src < 2) && decide (2 ≤ rawSlots k u)) || decide (poolFree u + c.ring < mb)
    let none_ := capPre a = 0 ∧ capPost a = 0
    (c.armed = true → t = reject h .errState u)
      ∧ (c.armed = false → none_ → ∃ v, t = finish h .ok [(16, 4, 0), (24, 8, dtInt (now u))] v ∧ v.mem.slots[k] = Capture.reset)
      ∧ (c.armed = false → ¬ none_ → noStream = true → t = reject h .errState u)
      ∧ (c.armed = false → ¬ none_ → noStream = false → full = true → t = reject h .noResource u)
      ∧ (c.armed = false → ¬ none_ → noStream = false → full = false → ∃ v, t = finish h .ok [(16, 4, ((mb * 1048576 : Nat) : Int)), (24, 8, dtInt (now v))] v
          ∧ v.mem.slots[k].st = .armed ∧ v.mem.slots[k].source = src ∧ v.mem.slots[k].pre = capPre a ∧ v.mem.slots[k].post = capPost a
          ∧ v.mem.slots[k].ring = mb) := by
  refine does_of (fun _ => rfl) fun h u he _ => ?_
  subst he
  intro a c src mb noStream full none_
  unfold doMemCaptureArm
  rw [idx_eq_some hk]
  dsimp only
  refine ⟨fun ha => if_pos ha, fun ha hn => ?_, fun ha hn hs => ?_, fun ha hn hs hf => ?_, fun ha hn hs hf => ?_⟩ <;>
    rw [if_neg (show ¬ c.armed = true by rw [ha]; decide)]
  · exact ⟨_, if_pos hn, freeSlot_slot⟩
  · exact (if_neg hn).trans (if_pos hs)
  · exact (if_neg hn).trans ((if_neg (show ¬ noStream = true by rw [hs]; decide)).trans (if_pos hf))
  · refine ⟨_, (if_neg hn).trans ((if_neg (show ¬ noStream = true by rw [hs]; decide)).trans
      (if_neg (show ¬ full = true by rw [hf]; decide))), ?_⟩
    rw [modMem_set_slot]
    exact ⟨rfl, rfl, rfl, rfl, rfl⟩

theorem does_memCaptureFreeze (e : Entry) (k : Fin 4) (hk : e.target.toNat = k.val) :
    Does (.memCaptureFreeze e) specMemCaptureFreeze e fun h u t =>
      (u.mem.slots[k].st = .armed → ∃ v, t = begin_ h v ∧ v.mem.slots[k] = { u.mem.slots[k] with
          st := .triggered, trigger := now u, reach := u.mem.slots[k].reachAt u, blocks := u.mem.slots[k].atTrigger u })
        ∧ (u.mem.slots[k].st = .triggered → t = begin_ h u)
        ∧ (u.mem.slots[k].st = .idle ∨ u.mem.slots[k].st = .frozen → t = reject h .errState u) := by
  refine does_of (fun _ => rfl) fun h u he _ => ?_
  subst he
  unfold doMemCaptureFreeze
  rw [idx_eq_some hk]
  dsimp only
  refine ⟨fun ha => ?_, fun ht => ?_, fun ho => ?_⟩
  · rw [ha]
    exact ⟨_, rfl, modSlot_get _⟩
  · rw [ht]
  · rcases ho with ho | ho <;> rw [ho]

theorem does_memCaptureRead (e : Entry) (k : Fin 4) (hk : e.target.toNat = k.val) : Does (.memCaptureRead e) specMemCaptureRead e fun h u t =>
    let a := Entry.args e
    let c := u.mem.slots[k]
    let off := min (le a 8 8) c.bytes
    let len := min (le a 16 4) (c.bytes - off)
    (c.st ≠ .frozen → t = reject h .errState u)
      ∧ (c.st = .frozen → le a 0 1 = 0 → t = carryReads (note h [off, len, 0] u))
      ∧ (c.st = .frozen → le a 0 1 ≠ 0 → ∃ (base n : Nat) (v : State), t = finish h .ok [(16, 8, (base : Int)), (24, 4, (n : Int))] v
          ∧ v.mem.bar2 = some (k.val, off, n) ∧ n ≤ len) := by
  refine does_of (fun _ => rfl) fun h u he _ => ?_
  subst he
  intro a c off len
  unfold doMemCaptureRead
  rw [idx_eq_some hk]
  dsimp only
  refine ⟨fun hc => if_pos (bne_iff_ne.mpr hc), fun hc h0 => ?_, fun hc h0 => ?_⟩ <;>
    rw [if_neg (show ¬ (c.st != .frozen) = true by rw [hc]; decide)]
  · exact if_pos h0
  · exact ⟨_, _, _, if_neg h0, rfl, Nat.min_le_left _ _⟩

theorem does_memTimeshiftConfig (e : Entry) (v : Fin 96) (hv : e.target.toNat = v.val) :
    Does (.memTimeshiftConfig e) specMemTimeshiftConfig e fun h u t =>
      let mb := depthMb (le (Entry.args e) 0 4)
      (u.audio.svcs[v].st = .free → t = reject h .errState u)
        ∧ (u.audio.svcs[v].st ≠ .free → poolFree u < mb - depthMb u.mem.depth[v] → t = reject h .noResource u)
        ∧ (u.audio.svcs[v].st ≠ .free → mb - depthMb u.mem.depth[v] ≤ poolFree u → t = park h [] u) := by
  refine does_of (fun _ => rfl) fun h u he _ => ?_
  subst he
  intro mb
  unfold doMemTimeshiftConfig
  rw [idx_eq_some hv]
  dsimp only
  exact ⟨fun hf => if_pos hf, fun hf hp => (if_neg hf).trans (if_pos hp), fun hf hp => (if_neg hf).trans (if_neg (Nat.not_lt.mpr hp))⟩

/-- Settles O47. Which blocks the captured span holds, those with a part from T - PRE to T + POST, is the model's choice (log entry 91). -/
theorem capturesAreArmedFrozenAndRead : Obligations.CapturesAreArmedFrozenAndRead :=
  ⟨does_memCaptureArm, does_memCaptureFreeze, gives_captureFreeze, fun _ _ _ _ => spanOfRing_mem, does_memCaptureRead,
    does_memTimeshiftConfig, gives_sharedPoolInitDone⟩

end Sys2Proof.Machine

/-! ## Keys and monotonic counters (R400 to R408, R342) -/
namespace Sys2Proof.Machine

section
variable {i : Fin 64} {s : State}

/-- The key that a load or a derivation puts into a slot. -/
theorem putKey_fst (type usage : Nat) (bytes : List Byte) : (putKey i type usage bytes s).1 =
    { type := type, usage := usage, ident := BitVec.ofNat 32 s.cry.nextIdent, bytes := bytes, counter := 0, blockEnd := 0, used := false,
      nearDone := false } := rfl

theorem putKey_slot (type usage : Nat) (bytes : List Byte) :
    (putKey i type usage bytes s).2.cry.keys[i] = some (putKey i type usage bytes s).1 := Vector.getElem_set_self ..

end

/-- A message of a slot is gone with all that share its command. -/
theorem filter_gone (p : GlazeMsg → Bool) (l : List GlazeMsg) :
    (l.filter fun m => !(l.filter p).any fun g => g.cmd == m.cmd).filter p = [] := by
  rw [List.filter_filter, List.filter_eq_nil_iff]
  intro m hm h
  simp only [Bool.and_eq_true, Bool.not_eq_true', List.any_eq_false] at h
  exact h.2 m (List.mem_filter.mpr ⟨hm, h.1⟩) (beq_self_eq_true _)

/-- What CRY_KEY_LOAD does once it has its wrapping key. -/
def loadKey (h : Held) (i : Fin 64) (wrap : List Byte) (s : State) : State :=
  let a := Entry.args h.entry
  if identsOut s then reject h .keyExhausted s
  else match unwrapped (le a 0 1) wrap ((a.drop 8).take 40) with
    | some bytes =>
      let (k, s) := putKey i (le a 0 1) (le a 1 1) bytes s
      finish h .ok [(16, 4, k.ident.toNat)] (keySherd 0 i k s)
    | none => reject h .authFailed s

/-- A key that unwraps is put into the slot. -/
theorem loadKey_unwrapped {h : Held} {i : Fin 64} {wrap bytes : List Byte} {s : State} (ho : identsOut s = false)
    (hb : unwrapped (le (Entry.args h.entry) 0 1) wrap (((Entry.args h.entry).drop 8).take 40) = some bytes) :
    loadKey h i wrap s = finish h .ok [(16, 4, ((BitVec.ofNat 32 s.cry.nextIdent).toNat : Int))]
      (keySherd 0 i (putKey i (le (Entry.args h.entry) 0 1) (le (Entry.args h.entry) 1 1) bytes s).1
        (putKey i (le (Entry.args h.entry) 0 1) (le (Entry.args h.entry) 1 1) bytes s).2) := by
  unfold loadKey
  dsimp only
  rw [if_neg (by rw [ho]; decide), hb]
  rfl

theorem loadKey_failed {h : Held} {i : Fin 64} {wrap : List Byte} {s : State} (ho : identsOut s = false)
    (hb : unwrapped (le (Entry.args h.entry) 0 1) wrap (((Entry.args h.entry).drop 8).take 40) = none) :
    loadKey h i wrap s = reject h .authFailed s := by
  unfold loadKey
  dsimp only
  rw [if_neg (by rw [ho]; decide), hb]

/-- CRY_KEY_LOAD (R342, R401). -/
theorem does_cryKeyLoad (e : Entry) (i : Fin 64) (hi : e.target.toNat = i.val) : Does (.cryKeyLoad e) specCryKeyLoad e fun h u t =>
    let a := Entry.args e
    let w := le a 2 2
    let wrapper := if w = 0xFFFF then some Config.transportKey else (keyAt w u).map (·.bytes)
    let closed := u.cry.keys[i].isSome = true ∨ u.power.pfail = true
    (closed → t = reject h .errState u)
      ∧ (¬ closed → w ≠ 0xFFFF → keyAt w u = none → t = reject h .keyAbsent u)
      ∧ (¬ closed → ∀ k, w ≠ 0xFFFF → keyAt w u = some k → (isAes k && testBit k.usage 1) = false →
          t = fail h .errParam (Entry.offset e 2) .outOfRange u)
      ∧ (¬ closed → (w = 0xFFFF ∨ ∃ k, keyAt w u = some k ∧ isAes k = true ∧ testBit k.usage 1 = true ∧ worn k = false) →
          ∀ wrap, wrapper = some wrap →
          (identsOut u = true → t = reject h .keyExhausted u)
            ∧ (identsOut u = false → unwrapped (le a 0 1) wrap ((a.drop 8).take 40) = none → t = reject h .authFailed u)
            ∧ (identsOut u = false → ∀ bytes, unwrapped (le a 0 1) wrap ((a.drop 8).take 40) = some bytes →
                ∃ k v, t = finish h .ok [(16, 4, ((BitVec.ofNat 32 u.cry.nextIdent).toNat : Int))] v
                  ∧ k = { type := le a 0 1, usage := le a 1 1, ident := BitVec.ofNat 32 u.cry.nextIdent, bytes := bytes, counter := 0,
                          blockEnd := 0, used := false, nearDone := false }
                  ∧ v = keySherd 0 i k (putKey i (le a 0 1) (le a 1 1) bytes u).2
                  ∧ (putKey i (le a 0 1) (le a 1 1) bytes u).2.cry.keys[i] = some k)) := by
  refine does_of (fun _ => rfl) fun h u he _ => ?_
  subst he
  intro a w wrapper closed
  have hiff : closed ↔ (u.cry.keys[i].isSome || u.power.pfail) = true := (Bool.or_eq_true_iff ..).symm
  unfold doCryKeyLoad
  rw [show slotOf h = some i from idx_eq_some hi]
  dsimp only
  refine ⟨fun hc => if_pos (hiff.mp hc), fun hc hw hk => ?_, fun hc k hw hk hs => ?_, fun hc hw wrap hwrap => ?_⟩ <;>
    rw [if_neg (mt hiff.mpr hc)]
  · rw [if_neg hw, show keyAt w u = none from hk]
  · rw [if_neg hw, show keyAt w u = some k from hk]
    exact if_pos (by rw [hs]; rfl)
  · have hload : (if w = 0xFFFF then loadKey h i Config.transportKey u
        else match keyAt w u with
          | none => reject h .keyAbsent u
          | some k =>
            if !(isAes k && testBit k.usage 1) then fail h .errParam (Entry.offset h.entry 2) .outOfRange u
            else if worn k then reject h .keyExhausted u
            else loadKey h i k.bytes u) = loadKey h i wrap u := by
      rcases hw with hw | ⟨k, hk, haes, hbit, hworn⟩
      · rw [if_pos hw, Option.some.inj ((if_pos hw).symm.trans hwrap)]
      · have hne : w ≠ 0xFFFF := fun hw => by
          rw [hw] at hk
          exact absurd hk (by simp [keyAt, idx])
        have hb := (if_neg hne).symm.trans hwrap
        rw [hk] at hb
        rw [if_neg hne, hk, ← Option.some.inj hb]
        dsimp only
        rw [if_neg (by rw [haes, hbit]; decide), if_neg (by rw [hworn]; decide)]
    refine ⟨fun ho => hload.trans (if_pos ho), fun ho hb => hload.trans (loadKey_failed ho hb), fun ho bytes hb => ?_⟩
    exact ⟨_, _, hload.trans (loadKey_unwrapped ho hb), rfl, rfl, putKey_slot ..⟩

/-- CRY_KEY_DERIVE (R342, R402). -/
theorem does_cryKeyDerive (e : Entry) (i : Fin 64) (hi : e.target.toNat = i.val) : Does (.cryKeyDerive e) specCryKeyDerive e fun h u t =>
    let a := Entry.args e
    (keyAt (le a 2 2) u = none → t = reject h .keyAbsent u)
      ∧ ∀ p, keyAt (le a 2 2) u = some p →
        (testBit p.usage 4 = false → t = fail h .errParam (Entry.offset e 2) .outOfRange u)
          ∧ (testBit p.usage 4 = true → u.cry.keys[i].isSome = true → t = reject h .errState u)
          ∧ (testBit p.usage 4 = true → u.cry.keys[i] = none → worn p = true ∨ identsOut u = true → t = reject h .keyExhausted u)
          ∧ (testBit p.usage 4 = true → u.cry.keys[i] = none → worn p = false → identsOut u = false →
              ∃ k v, t = finish h .ok [(16, 4, ((BitVec.ofNat 32 u.cry.nextIdent).toNat : Int))] (keySherd 1 i k v)
                ∧ v.cry.keys[i] = some k ∧ v.cry.nextIdent = u.cry.nextIdent + 1
                ∧ k.bytes = derivedKey p.bytes ((a.drop 8).take 32) u.ident.serial (le a 0 1) ∧ k.usage = le a 1 1 ∧ k.type = le a 0 1) := by
  refine does_of (fun _ => rfl) fun h u he _ => ?_
  subst he
  intro a
  unfold doCryKeyDerive
  rw [show slotOf h = some i from idx_eq_some hi]
  dsimp only
  refine ⟨fun hk => by rw [show keyAt (le a 2 2) u = none from hk], fun p hp => ?_⟩
  rw [show keyAt (le a 2 2) u = some p from hp]
  dsimp only
  refine ⟨fun hb => if_pos (by rw [hb]; rfl), fun hb hs => ?_, fun hb hs hw => ?_, fun hb hs hw ho => ?_⟩ <;> rw [if_neg (by rw [hb]; decide)]
  · exact if_pos hs
  · exact (if_neg (by rw [hs]; decide)).trans (if_pos (Bool.or_eq_true_iff.mpr hw))
  · exact ⟨_, _, (if_neg (by rw [hs]; decide)).trans (if_neg (by rw [hw, ho]; decide)), putKey_slot .., rfl, rfl, rfl, rfl⟩

/-- CRY_KEY_RETIRE (R403). -/
theorem does_cryKeyRetire (e : Entry) (i : Fin 64) (hi : e.target.toNat = i.val) : Does (.cryKeyRetire e) specCryKeyRetire e fun h u t =>
    (u.cry.keys[i] = none → t = reject h .keyAbsent u)
      ∧ ∀ k, u.cry.keys[i] = some k →
          ∃ v, t = finish h .ok [(16, 8, if k.used then (k.counter : Int) - 1 else 0xFFFFFFFFFFFFFFFF)] (keySherd 2 i k v)
            ∧ v.cry.keys[i] = none ∧ v.cry.cores = u.cry.cores
            ∧ v.cry.queues.filter (fun m => !(m.hash && m.slot == 0xFFFF) && m.slot == i.val) = [] := by
  refine does_of (fun _ => rfl) fun h u he _ => ?_
  subst he
  unfold doCryKeyRetire
  rw [show slotOf h = some i from idx_eq_some hi]
  dsimp only
  refine ⟨fun hk => by rw [hk], fun k hk => ?_⟩
  rw [hk]
  refine ⟨_, rfl, ?_⟩
  rw [finishAll_cry]
  exact ⟨Vector.getElem_set_self .., rfl, filter_gone ..⟩

theorem does_cryCounterRead (e : Entry) (i : Fin 8) (hi : e.target.toNat = i.val) : Does (.cryCounterRead e) specCryCounterRead e fun h u t =>
    t = finish h .ok [(16, 4, (u.cry.counters[i].toNat : Int)), (20, 1, bit (u.cry.counters[i] == 0xFFFFFFFF))] u := by
  refine does_of (fun _ => rfl) fun h u he _ => ?_
  subst he
  unfold doCryCounterRead
  rw [show counterAt h = some i from idx_eq_some hi]

theorem does_cryCounterIncrement (e : Entry) (i : Fin 8) (hi : e.target.toNat = i.val) :
    Does (.cryCounterIncrement e) specCryCounterIncrement e fun h u t =>
      (u.power.pfail = true → t = reject h .errState u)
        ∧ (u.power.pfail = false → u.cry.counters[i] = 0xFFFFFFFF → t = reject h .counterSaturated u)
        ∧ (u.power.pfail = false → u.cry.counters[i] ≠ 0xFFFFFFFF → t = askStore (.counter i) (some h.id) (begin_ h u)
            ∧ t.cry.counters = u.cry.counters) := by
  refine does_of (fun _ => rfl) fun h u he _ => ?_
  subst he
  unfold doCryCounterIncrement
  rw [show counterAt h = some i from idx_eq_some hi]
  dsimp only
  refine ⟨fun hp => if_pos hp, fun hp hc => ?_, fun hp hc => ?_⟩ <;> rw [if_neg (by rw [hp]; decide)]
  · exact if_pos hc
  · rw [if_neg hc]
    exact ⟨rfl, by rw [(askStore_within ..).cry rfl]; rfl⟩

/-- Settles O48. -/
theorem keysAreLoadedDerivedAndRetired : Obligations.KeysAreLoadedDerivedAndRetired :=
  ⟨does_cryKeyLoad, does_cryKeyDerive, does_cryKeyRetire, does_cryCounterRead, does_cryCounterIncrement⟩

end Sys2Proof.Machine

/-! ## Glaze messages, the entropy source and the log commands (R396 to R407, R415 to R418) -/
namespace Sys2Proof.Machine

/-! ### CRY_PROCESS -/

/-- What a message with a key that suits its mode comes to. -/
theorem admitMessage_key {h : Held} {u : State} {k : Key} (hf : u.cry.entropy.failed = false) (hm : le (Entry.args h.entry) 0 1 ≠ 7)
    (hk : keyAt (le (Entry.args h.entry) 4 2) u = some k) :
    ∃ v w, admitMessage h u =
      (if !keySuits (le (Entry.args h.entry) 0 1) k then fail h .errParam (Entry.offset h.entry 4) .outOfRange u
      else if worn k then reject h .keyExhausted u
      else if !buildsNonce (le (Entry.args h.entry) 0 1) then enqueue h k.bytes [] u
      else if k.counter < k.blockEnd then enqueue h k.bytes [(k.ident.toNat : Int), k.counter] v
      else if u.power.pfail then reject h .errState u
      else w) := by
  unfold keyAt at hk
  unfold admitMessage
  dsimp only
  rw [if_neg (by rw [hf]; decide), if_neg hm]
  split at hk
  next i hi =>
    rw [hi]
    dsimp only
    rw [hk]
    exact ⟨_, _, rfl⟩
  next => contradiction

theorem admitMessage_keyAbsent {h : Held} {u : State} (hf : u.cry.entropy.failed = false) (hm : le (Entry.args h.entry) 0 1 ≠ 7)
    (hk : keyAt (le (Entry.args h.entry) 4 2) u = none) : admitMessage h u = reject h .keyAbsent u := by
  unfold keyAt at hk
  unfold admitMessage
  dsimp only
  rw [if_neg (by rw [hf]; decide), if_neg hm]
  split at hk
  next i hi =>
    rw [hi]
    dsimp only
    rw [hk]
  next hi => rw [hi]

/-- CRY_PROCESS (R342, R396, R399, R404 to R406). -/
theorem does_cryProcess (e : Entry) (input aad : List Byte) : Does (.cryProcess e input aad) specCryProcess e fun h u t =>
    let a := Entry.args e
    let mode := le a 0 1
    let slot := le a 4 2
    (u.cry.entropy.failed = true → t = reject h .hwFault u)
      ∧ (u.cry.entropy.failed = false → mode = 7 → t = enqueue h [] [] u)
      ∧ (u.cry.entropy.failed = false → mode ≠ 7 → keyAt slot u = none → t = reject h .keyAbsent u)
      ∧ (u.cry.entropy.failed = false → mode ≠ 7 → ∀ k, keyAt slot u = some k →
          (keySuits mode k = false → t = fail h .errParam (Entry.offset e 4) .outOfRange u)
            ∧ (keySuits mode k = true → worn k = true → t = reject h .keyExhausted u)
            ∧ (keySuits mode k = true → worn k = false → buildsNonce mode = false → t = enqueue h k.bytes [] u)
            ∧ (keySuits mode k = true → worn k = false → buildsNonce mode = true → k.counter < k.blockEnd →
                ∃ v, t = enqueue h k.bytes [(k.ident.toNat : Int), (k.counter : Int)] v)
            ∧ (keySuits mode k = true → worn k = false → buildsNonce mode = true → k.blockEnd ≤ k.counter → u.power.pfail = true →
                t = reject h .errState u)) := by
  refine does_of (fun _ => rfl) fun h u he _ => ?_
  subst he
  intro a mode slot
  unfold doCryProcess
  refine ⟨fun hf => if_pos hf, fun hf hm => ?_, fun hf hm hk => admitMessage_keyAbsent hf hm hk, fun hf hm k hk => ?_⟩
  · exact (if_neg (by rw [hf]; decide)).trans (if_pos hm)
  · obtain ⟨v, w, hv⟩ := admitMessage_key hf hm hk
    rw [hv]
    refine ⟨fun hs => if_pos (by rw [hs]; rfl), fun hs hw => ?_, fun hs hw hb => ?_, fun hs hw hb hc => ⟨v, ?_⟩, fun hs hw hb hc hp => ?_⟩ <;>
      rw [if_neg (by rw [hs]; decide)]
    · exact if_pos hw
    · exact (if_neg (by rw [hw]; decide)).trans (if_pos (by rw [hb]; rfl))
    · exact (if_neg (by rw [hw]; decide)).trans ((if_neg (by rw [hb]; decide)).trans (if_pos hc))
    · exact (if_neg (by rw [hw]; decide)).trans ((if_neg (by rw [hb]; decide)).trans ((if_neg (Nat.not_lt.mpr hc)).trans (if_pos hp)))

/-- A message on a core ends (R397). -/
theorem gives_glazeMessageDone (t : DT) (core : Fin 5) (s : State) : Gives (.glazeMessageDone t core) s fun u =>
    let m := moment t s
    (s.cry.cores[core].running = none → u = m)
      ∧ ∀ (g : GlazeMsg) (h : Held) (e : Entry) (input aad : List Byte), s.cry.cores[core].running = some g →
          findHeld g.cmd s = some h → h.cmd = .cryProcess e input aad →
          ∃ v, u = schedule (endMessage g h input aad v) ∧ v.cry.cores[core] = { s.cry.cores[core] with running := none } := by
  simp only [← findHeld_moment _ t s]
  rw [← moment_cry t s]
  refine ⟨_, rfl, ?_⟩
  generalize moment t s = m
  refine ⟨fun h => by rw [h], fun g h e input aad hg hh hc => ?_⟩
  rw [hg]
  dsimp only
  rw [show findHeld g.cmd (modCry _ m) = some h from hh]
  dsimp only
  rw [hc]
  exact ⟨_, rfl, upd_get_self ..⟩

/-! ### The entropy source -/

theorem allMessages_clear {s : State} : allMessages (clearMessages s) = [] := by
  unfold allMessages clearMessages
  simp [modCry, Glaze.reset]

theorem allMessages_congr {s t : State} (hq : t.cry.queues = s.cry.queues) (hc : t.cry.cores = s.cry.cores) : allMessages t = allMessages s := by
  rw [allMessages, allMessages, hq, hc]

/-- A health failure of the entropy source (R399). -/
theorem gives_entropyHealthFailure (t : DT) (s : State) : Gives (.entropyHealthFailure t) s fun u =>
    let m := moment t s
    let recent := (s.cry.entropy.failures.filter fun d => decide (dtSince d (now m) ≤ 2 ^ 32)).length
    (s.cry.entropy.failed = true → u = m)
      ∧ (s.cry.entropy.failed = false → recent < 2 →
          u.cry = { s.cry with entropy := { s.cry.entropy with
            testing := true, failures := now m :: s.cry.entropy.failures.filter fun d => decide (dtSince d (now m) ≤ 2 ^ 32) } })
      ∧ (s.cry.entropy.failed = false → 2 ≤ recent → u.cry.entropy.failed = true ∧ u.cry.entropy.failedAt = now m
          ∧ allMessages u = [] ∧ ∃ v, u = finishAll ((allMessages s).map (·.cmd)) .hwFault [] v) := by
  rw [← allMessages_congr (congrArg CrySt.queues (moment_cry t s)) (congrArg CrySt.cores (moment_cry t s)), ← moment_cry t s]
  refine ⟨_, rfl, ?_⟩
  generalize moment t s = m
  intro n recent
  refine ⟨fun h => if_pos h, fun h hr => ?_, fun h hr => ?_⟩ <;> rw [if_neg (by rw [h]; decide)] <;> unfold healthFailure <;> dsimp only
  · rw [if_pos (by rw [List.length_cons]; exact Nat.succ_lt_succ hr)]
    rfl
  · rw [if_neg (by rw [List.length_cons]; exact Nat.not_lt.mpr (Nat.succ_le_succ hr)), finishAll_cry]
    refine ⟨rfl, rfl, ?_, _, rfl⟩
    rw [allMessages_congr (s := clearMessages m) (by rw [finishAll_cry]; rfl) (by rw [finishAll_cry]; rfl)]
    exact allMessages_clear

theorem gives_entropyStartupTestsDone (t : DT) (pass : Bool) (s : State) : Gives (.entropyStartupTestsDone t pass) s fun u =>
    let m := moment t s
    (s.cry.entropy.testing = false → u = m)
      ∧ (s.cry.entropy.testing = true → pass = true → u.cry = { s.cry with entropy := { s.cry.entropy with testing := false } })
      ∧ (s.cry.entropy.testing = true → pass = false → ∃ v, u = healthFailure v
          ∧ v.cry = { s.cry with entropy := { s.cry.entropy with testing := false } }) := by
  rw [← moment_cry t s]
  refine ⟨_, rfl, ?_⟩
  generalize moment t s = m
  intro n
  refine ⟨fun h => if_pos (by rw [h]; rfl), fun h hp => ?_, fun h hp => ?_⟩ <;> rw [if_neg (by rw [h]; decide)]
  · rw [if_pos hp]
    rfl
  · exact ⟨_, if_neg (by rw [hp]; decide), rfl⟩

theorem gives_entropyRetry (t : DT) (pass : Bool) (s : State) : Gives (.entropyRetry t pass) s fun u =>
    let m := moment t s
    (s.cry.entropy.failed = false ∨ pass = false → u = m)
      ∧ (s.cry.entropy.failed = true → pass = true → ∃ c w, w.cry = { s.cry with entropy := Entropy.reset }
          ∧ u = faultSherd c 0 s.cry.entropy.failedAt (now (tagAll w)) (useFree (tagAll w))) := by
  rw [← moment_cry t s]
  refine ⟨_, rfl, ?_⟩
  generalize moment t s = m
  intro n
  refine ⟨fun h => if_neg ?_, fun h hp => ⟨_, modCry (fun y => { y with entropy := Entropy.reset }) m, rfl, if_pos (by rw [h, hp]; rfl)⟩⟩
  rcases h with h | h <;> rw [h] <;> simp

/-! ### The logs -/

theorem does_logConfig_legal (e : Entry) (he : e.target.toNat = 1) : Does (.logConfig e) specLogConfig e fun h u t => ∃ v, t = finishC h v
    ∧ v.sg.deliver = if u.pair.role = 2 then u.sg.deliver else le (Entry.args e) 2 1 == 1 := by
  refine does_of (fun _ => rfl) fun h u hh _ => ?_
  subst hh
  exact ⟨_, if_pos he, rfl⟩

/-- LOG_CONFIG of the operational log (R417). -/
theorem does_logConfig_operational (e : Entry) (he : e.target.toNat = 0) : Does (.logConfig e) specLogConfig e fun h u t =>
    let a := Entry.args e
    let slot := le a 0 2
    (slot ≠ 0xFFFF → keyAt slot u = none → t = reject h .keyAbsent u)
      ∧ (slot ≠ 0xFFFF → ∀ k, keyAt slot u = some k → testBit k.usage 3 = false → t = fail h .errParam (Entry.offset e 0) .outOfRange u)
      ∧ ((slot = 0xFFFF ∨ ∃ k, keyAt slot u = some k ∧ testBit k.usage 3 = true) →
          let busy := le a 4 4 ≠ u.cry.ringKb ∧ u.pair.role ≠ 2 ∧ u.cry.log.any (fun x => !x.drained) = true
          (busy → t = reject h .busyRunning u) ∧ (¬ busy → t = finishC h (setLog slot (le a 2 1 == 1) (le a 4 4) u))) := by
  refine does_of (fun _ => rfl) fun h u hh _ => ?_
  subst hh
  intro a slot
  unfold doLogConfig
  dsimp only
  rw [if_neg (by rw [he]; decide)]
  refine ⟨fun hs hk => if_pos ?_, fun hs k hk hb => ?_, fun hk => ?_⟩
  · rw [show keyAt slot u = none from hk]
    simpa using hs
  · rw [show keyAt slot u = some k from hk]
    refine (if_neg (by simp)).trans (if_pos ?_)
    simpa [hb] using hs
  · have hiff : (le a 4 4 ≠ u.cry.ringKb ∧ u.pair.role ≠ 2 ∧ u.cry.log.any (fun x => !x.drained) = true) ↔ (decide (le a 4 4 ≠ u.cry.ringKb) && decide (u.pair.role ≠ 2) && u.cry.log.any (fun x => !x.drained)) = true := by
      simp only [Bool.and_eq_true, decide_eq_true_eq, and_assoc]
    have h1 : ¬ (decide (slot ≠ 0xFFFF) && (keyAt slot u).isNone) = true := by
      rcases hk with hk | ⟨k, hk, _⟩ <;> simp [hk]
    have h2 : ¬ (decide (slot ≠ 0xFFFF) && (match keyAt slot u with | some k => !testBit k.usage 3 | none => false)) = true := by
      rcases hk with hk | ⟨k, hk, hb⟩
      · simp [hk]
      · simp [hk, hb]
    exact ⟨fun hb => (if_neg h1).trans ((if_neg h2).trans (if_pos (hiff.mp hb))),
      fun hb => (if_neg h1).trans ((if_neg h2).trans (if_neg (mt hiff.mpr hb)))⟩

theorem does_logRead_operational (e : Entry) (he : e.target.toNat = 0) : Does (.logRead e) specLogRead e fun h u t =>
    let first := le (Entry.args e) 16 8
    let ready := ((u.cry.log.filter fun x => decide (first ≤ x.seq.toNat)).takeWhile fun x => !x.untagged).take (readLimit h)
    (u.cry.nextSeq.toNat ≤ first → t = fail h .errParam (Entry.offset e 16) .outOfRange u)
      ∧ (first < u.cry.nextSeq.toNat → ∃ v, t = endRead h first (ready.map fun x => (x.seq, x.data)) v
          ∧ v.cry.log = u.cry.log.map fun x => if ready.any (fun y => y.seq == x.seq) then { x with drained := true } else x) := by
  refine does_of (fun _ => rfl) fun h u hh _ => ?_
  subst hh
  intro first ready
  unfold doLogRead
  dsimp only
  rw [if_neg (by rw [he]; decide)]
  exact ⟨fun hf => if_pos (decide_eq_true hf), fun hf => ⟨_, if_neg (by simpa using hf), rfl⟩⟩

theorem does_logRead_legal (e : Entry) (he : e.target.toNat = 1) : Does (.logRead e) specLogRead e fun h u t =>
    let first := le (Entry.args e) 16 8
    (u.sg.seq.toNat ≤ first → t = fail h .errParam (Entry.offset e 16) .outOfRange u)
      ∧ (first < u.sg.seq.toNat → t = endRead h first ((u.sg.log.filter fun x => decide (first ≤ x.1.toNat)).take (readLimit h)) u) := by
  refine does_of (fun _ => rfl) fun h u hh _ => ?_
  subst hh
  intro first
  unfold doLogRead
  dsimp only
  rw [if_pos he]
  exact ⟨fun hf => if_pos (decide_eq_true hf), fun hf => if_neg (by simpa using hf)⟩

theorem does_logMark (e : Entry) : Does (.logMark e) specLogMark e fun h u t =>
    ∃ v n, t = finish h .ok [(16, 8, (BitVec.toNat n : Int)), (24, 1, bit (v.cry.log.any fun x => x.seq == n && x.untagged))] v
      ∧ n = u.cry.nextSeq + (if runEnds u then 1 else 0)
      ∧ v = opSherd 0x60 0xFFFF (now u) (now u)
          (fit 40 ((Entry.args e).drop 8) ++ pack 40 8 [(40, 2, (h.tag.toNat : Int)), (42, 1, (qidOf h.src : Int))]) u := by
  refine does_of (fun _ => rfl) fun h u hh _ => ?_
  subst hh
  exact ⟨_, _, rfl, rfl, rfl⟩

/-- Settles O49. That a LOG_MARK's number counts the gap record that goes first is log entry 31's reading; on a SECONDARY the delivery and
the ring size are not set. -/
theorem glazeAndLogsAnswer : Obligations.GlazeAndLogsAnswer :=
  ⟨does_cryProcess, gives_glazeMessageDone, gives_entropyHealthFailure, gives_entropyStartupTestsDone, gives_entropyRetry,
    does_logConfig_legal, does_logConfig_operational, does_logRead_operational, does_logRead_legal, does_logMark⟩

end Sys2Proof.Machine

/-! ## The Kiln schedule, its firings and stores, the Cone and its plans (R435 to R460) -/
namespace Sys2Proof.Machine

/-! ### Firings -/

theorem findFiring_key {a o : Nat} {s : State} {f : Firing} (h : findFiring a o s = some f) : f.activity = a ∧ f.obj = o := by
  have h := List.find?_some h
  simpa using h

/-- MNT_CALIBRATE (R457). -/
theorem does_mntCalibrate (e : Entry) (a : Fin 9) (ha : le (Entry.args e) 0 1 = a.val) : Does (.mntCalibrate e) specMntCalibrate e fun h u t =>
    let o := e.target.toNat
    (findFiring a.val o u = none ∨ fireable a.val o u = false → t = reject h .errState u)
      ∧ ∀ f, findFiring a.val o u = some f → fireable a.val o u = true →
        (f.running = true → ∃ v, t = begin_ h v
            ∧ v.mnt.firings = u.mnt.firings.map fun x => if x.activity = a.val ∧ x.obj = o then { x with cmds := x.cmds ++ [h.id] } else x)
          ∧ (f.running = false → t = requestFiring h a o u) := by
  refine does_of (fun _ => rfl) fun h u he _ => ?_
  subst he
  intro o
  unfold doMntCalibrate
  dsimp only
  rw [idx_eq_some ha]
  dsimp only
  refine ⟨fun hno => ?_, fun f hf hfire => ?_⟩
  · split
    next f hf => exact if_pos (by rw [hno.resolve_left (by rw [show findFiring a.val o u = some f from hf]; simp)]; rfl)
    next => rfl
  · rw [show findFiring a.val h.entry.target.toNat u = some f from hf]
    dsimp only
    rw [if_neg (by rw [hfire]; decide)]
    exact ⟨fun hr => ⟨_, if_pos hr, rfl⟩, fun hr => if_neg (by rw [hr]; decide)⟩

/-- MNT_SCHEDULE_SET (R458). -/
theorem does_mntScheduleSet (e : Entry) (a : Fin 9) (ha : e.target.toNat = a.val) : Does (.mntScheduleSet e) specMntScheduleSet e fun h u t =>
    let p := Entry.args e
    (a.val = 6 ∨ a.val = 7 → t = fail h .errParam 6 .outOfRange u)
      ∧ (a.val ≠ 6 → a.val ≠ 7 → ∃ v, t = finishC h (askStore .schedule none v)
          ∧ v.mnt.acts[a] = { u.mnt.acts[a] with enable := le p 0 1 == 1, cls := le p 1 1, period := le p 4 4, window := le p 8 4 }
          ∧ ∀ f, f ∈ v.mnt.firings → f.activity = a.val → f.due = dtAdd f.last (periodOf v.mnt.acts[a])) := by
  refine does_of (fun _ => rfl) fun h u he _ => ?_
  subst he
  intro p
  unfold doMntScheduleSet
  dsimp only
  rw [idx_eq_some ha]
  dsimp only
  refine ⟨fun h67 => if_pos (by simpa using h67), fun h6 h7 => ⟨_, if_neg (by simp [h6, h7]), upd_get_self .., fun f hf hact => ?_⟩⟩
  obtain ⟨g, _, rfl⟩ := List.mem_map.mp hf
  by_cases hg : g.activity = a.val
  · rw [if_pos hg]
    rfl
  · rw [if_neg hg] at hact
    exact absurd hact hg

/-- MNT_SCHEDULE_STATUS (R343) lists the firings asked for. -/
theorem does_mntScheduleStatus (e : Entry) : Does (.mntScheduleStatus e) specMntScheduleStatus e fun h u t =>
    ∃ l : List Firing, t = finishOut h .ok (l.flatMap fun f => firingBytes f u) none u
      ∧ ∀ f, f ∈ l ↔ f ∈ u.mnt.firings ∧ f.activity < 9 ∧ (e.target.toNat = f.activity ∨ e.target.toNat = 0xFFFF) := by
  refine does_of (fun _ => rfl) fun h u he _ => ⟨_, rfl, fun f => ?_⟩
  subst he
  rw [List.mem_flatMap]
  constructor
  · rintro ⟨a, ha, hf⟩
    split at hf
    next ht =>
      obtain ⟨hm, hact⟩ := List.mem_filter.mp hf
      rw [beq_iff_eq] at hact
      exact ⟨hm, hact ▸ List.mem_range.mp ha, hact ▸ ht⟩
    next => simp at hf
  · rintro ⟨hm, hact, ht⟩
    exact ⟨f.activity, List.mem_range.mpr hact, by rw [if_pos ht]; exact List.mem_filter.mpr ⟨hm, beq_self_eq_true _⟩⟩

theorem coneBytes_length (c : Cone) : (coneBytes c).length = 64 := by
  unfold coneBytes
  rw [List.length_append, List.length_append, pack_length, fit_length, pack_length]

/-- A due firing starts when it can (R453 to R455). -/
theorem gives_kilnFiringStart (t : DT) (a : Fin 9) (obj : Fin 64) (s : State) : Gives (.kilnFiringStart t a obj) s fun u =>
    let m := withEntry a.val obj.val (moment t s)
    (isRunning m = false ∨ m.mnt.paused = true ∨ findFiring a.val obj.val m = none → u = m)
      ∧ ∀ f, findFiring a.val obj.val m = some f → isRunning m = true → m.mnt.paused = false →
        (isDue f m = false → u = m)
          ∧ (isDue f m = true → canFire f m = true → u = startFiring a obj.val m)
          ∧ (isDue f m = true → canFire f m = false → u = if a.val = 6 then claimSlip m else m) := by
  refine ⟨_, rfl, ?_⟩
  generalize withEntry a.val obj.val (moment t s) = m
  refine ⟨fun hno => ?_, fun f hf hrun hpaused => ?_⟩
  · split
    next f hf =>
      refine if_pos ?_
      rcases hno with h | h | h
      · rw [h]; rfl
      · rw [h, Bool.or_true, Bool.true_or]
      · rw [h] at hf; contradiction
    next => rfl
  · rw [hf, hrun, hpaused]
    dsimp only
    refine ⟨fun hd => if_pos (by rw [hd]; rfl), fun hd hc => ?_, fun hd hc => ?_⟩ <;> rw [if_neg (by rw [hd]; decide)]
    · exact if_pos hc
    · exact if_neg (by rw [hc]; decide)

/-- A window that has passed counts a deferral once (R453). -/
theorem gives_kilnWindowExpiry (t : DT) (a : Fin 9) (obj : Fin 64) (s : State) : Gives (.kilnWindowExpiry t a obj) s fun u =>
    let m := moment t s
    ∀ f, findFiring a.val obj.val m = some f →
      let past := isDue f m = true ∧ f.raised = false ∧ f.due.toNat + m.mnt.acts[a].window * 2 ^ 32 ≤ (now m).toNat
      (past → u = modFiring a.val obj.val (fun f => { f with deferrals := f.deferrals + 1, raised := true }) m) ∧ (¬ past → u = m) := by
  refine ⟨_, rfl, ?_⟩
  generalize moment t s = m
  intro n f hf past
  have hiff : past ↔ (isDue f m && !f.raised && decide (f.due.toNat + m.mnt.acts[a].window * 2 ^ 32 ≤ (now m).toNat)) = true := by
    simp only [past, Bool.and_eq_true, Bool.not_eq_true', decide_eq_true_eq, and_assoc, n]
  rw [show findFiring a.val obj.val m = some f from hf]
  exact ⟨fun h => if_pos (hiff.mp h), fun h => if_neg (mt hiff.mpr h)⟩

/-! ### The end of a firing -/

theorem judgedOutcome_ok {f : Firing} {r : FiringResult} {s : State} :
    judgedOutcome f r s = .ok ↔ suitable f r s = true ∧ plausible f r s = true := by
  unfold judgedOutcome
  cases suitable f r s <;> cases plausible f r s <;> simp

theorem judgedOutcome_unsuitable {f : Firing} {r : FiringResult} {s : State} : judgedOutcome f r s = .unsuitable ↔ suitable f r s = false := by
  unfold judgedOutcome
  cases suitable f r s <;> cases plausible f r s <;> simp

/-- An input that has clipped since its firing began is unsuitable (R89). -/
theorem suitable_of_clipped {f : Firing} {r : FiringResult} {s : State} {i : Fin 2} (ha : f.activity = 3) (ho : f.obj = i.val)
    (hc : s.rf.wb[i].clippedSinceCal = true) : suitable f r s = false := by
  unfold suitable
  rw [ha, idx_eq_some ho]
  dsimp only
  rw [hc]
  exact Bool.and_false _

/-- What a firing of activity 2 renews of a tuner. -/
def irOf (n : Fin 4) (s : State) : Int × Int × Int := (s.rf.tuners[n].offset, s.rf.tuners[n].irGain, s.rf.tuners[n].irPhase)

theorem irOf_congr {n : Fin 4} {s t : State} (h : t.rf.tuners = s.rf.tuners) : irOf n t = irOf n s := by rw [irOf, irOf, h]

theorem irOf_modTuner {n k : Fin 4} {s : State} (g : Tuner → Bool) :
    irOf n (modTuner k (fun t => { t with calibrating := g t }) s) = irOf n s := by
  have h : (modTuner k (fun t => { t with calibrating := g t }) s).rf.tuners[n] = if k = n then _ else s.rf.tuners[n] :=
    upd_get s.rf.tuners k n _
  unfold irOf
  rw [h]
  split
  next hk => subst hk; rfl
  next => rfl

/-- A closed firing leaves the values in force. -/
theorem irOf_closeFiring {n : Fin 4} {s : State} (a : Fin 9) (o : Nat) (c : CalOutcome) (q : Nat) (fields : Nat × Int) :
    irOf n (closeFiring a o c q fields s) = irOf n s := by
  unfold closeFiring
  dsimp only
  rw [irOf_congr ((endJoined_within ..).tuners rfl), irOf_congr ((calResult_within ..).tuners rfl)]
  have hfree (f : Firing → Firing) : irOf n (freeFiringSlip a.val (modFiring a.val o f s)) = irOf n s :=
    irOf_congr ((freeFiringSlip_within ..).tuners rfl)
  split
  · exact (irOf_modTuner _).trans (hfree _)
  · exact (irOf_modTuner _).trans (hfree _)
  · exact hfree _

/-- A firing of activity 2 that is not OK leaves the values in force. -/
theorem irOf_endFiring {n : Fin 4} {s : State} {a : Fin 9} (ha : a.val = 2) {c : CalOutcome} (hc : c ≠ .ok) (o q : Nat) (r : FiringResult) :
    irOf n (endFiring a o c q r s) = irOf n s := by
  unfold endFiring
  dsimp only
  rw [if_neg hc]
  split
  · omega
  · omega
  · omega
  · exact irOf_closeFiring ..

/-- The end of a firing (R436 to R439). -/
theorem gives_kilnFiringEnd (t : DT) (a : Fin 9) (obj : Fin 64) (r : FiringResult) (s : State) : Gives (.kilnFiringEnd t a obj r) s fun u =>
    let m := moment t s
    (findFiring a.val obj.val m = none → u = m)
      ∧ ∀ f, findFiring a.val obj.val m = some f →
        (f.running = false ∨ f.storing.isSome = true ∨ a.val = 7 → u = m)
          ∧ (f.running = true → f.storing = none → a.val ≠ 7 →
              (u = endFiring a obj.val (judgedOutcome f r m) (firingQuality f (judgedOutcome f r m) r m).1 r
                  (firingQuality f (judgedOutcome f r m) r m).2)
                ∧ (judgedOutcome f r m = .ok ↔ suitable f r m = true ∧ plausible f r m = true)
                ∧ (judgedOutcome f r m = .unsuitable ↔ suitable f r m = false)
                ∧ (∀ i : Fin 2, a.val = 3 → obj.val = i.val → m.rf.wb[i].clippedSinceCal = true → judgedOutcome f r m = .unsuitable)
                ∧ (∀ n : Fin 4, a.val = 2 → obj.val = n.val → judgedOutcome f r m ≠ .ok →
                    u.rf.tuners[n].offset = m.rf.tuners[n].offset ∧ u.rf.tuners[n].irGain = m.rf.tuners[n].irGain
                      ∧ u.rf.tuners[n].irPhase = m.rf.tuners[n].irPhase)) := by
  refine ⟨_, rfl, ?_⟩
  generalize moment t s = m
  refine ⟨fun h => by dsimp only; rw [h], fun f hf => ?_⟩
  dsimp only
  rw [hf]
  dsimp only
  refine ⟨fun h => if_pos ?_, fun hrun hst h7 => ?_⟩
  · rcases h with h | h | h <;> simp [h]
  · rw [if_neg (by simp [hrun, hst, h7])]
    refine ⟨rfl, judgedOutcome_ok, judgedOutcome_unsuitable, fun i ha ho hc => ?_, fun n ha ho hne => ?_⟩
    · obtain ⟨hact, hobj⟩ := findFiring_key hf
      exact judgedOutcome_unsuitable.mpr (suitable_of_clipped (hact.trans ha) (hobj.trans ho) hc)
    · have h := (irOf_endFiring (n := n) ha hne obj.val (firingQuality f (judgedOutcome f r m) r m).1 r).trans
        (irOf_congr (PairW.snd (firingQuality_within f (judgedOutcome f r m) r m) |>.tuners rfl))
      unfold irOf at h
      simpa only [Prod.mk.injEq] using h

/-! ### The calibration store -/

/-- A vault store ends (R444). -/
theorem gives_vaultStoreDone (t : DT) (item : VaultItem) (ok : Bool) (s : State) : Gives (.vaultStoreDone t item ok) s fun u =>
    let m := moment t s
    let mine := s.mnt.stores.filter fun x => x.1 == item
    let cmds := mine.filterMap (·.2.2)
    (mine = [] → u = m)
      ∧ ∀ x rest, mine = x :: rest →
        (ok = true → ∃ v, u = storedItem item cmds v ∧ v.mnt.stores = s.mnt.stores.filter fun x => x.1 != item)
          ∧ (ok = false → x.2.1 = 0 → u.mnt.stores = s.mnt.stores.map fun y => if y.1 == item then (y.1, 1, y.2.2) else y)
          ∧ (ok = false → x.2.1 ≠ 0 → ∃ v, u = storeFailed item cmds v ∧ v.mnt.stores = s.mnt.stores.filter fun x => x.1 != item) := by
  rw [← moment_mnt t s]
  refine ⟨_, rfl, ?_⟩
  generalize moment t s = m
  intro n mine cmds
  refine ⟨fun h => ?_, fun x rest h => ?_⟩ <;> rw [show (m.mnt.stores.filter fun x => x.1 == item) = _ from h]
  dsimp only
  let v := modMnt (fun x => { x with stores := m.mnt.stores.filter fun x => x.1 != item }) (writeCopy item ok m)
  refine ⟨fun hok => ⟨v, ?_, rfl⟩, fun hok hx => ?_, fun hok hx => ⟨v, ?_, rfl⟩⟩
  · rw [if_pos hok, ← h]
  · rw [if_neg (by rw [hok]; decide), if_pos hx]
    rfl
  · rw [if_neg (by rw [hok]; decide), if_neg hx, ← h]

/-! ### The Cone and its plans -/

theorem askStore_cone (item : VaultItem) (cmd : Option Nat) (s : State) : (askStore item cmd s).mnt.cone = s.mnt.cone := by
  unfold askStore
  split
  · rfl
  · split <;> rfl

theorem changeDue_ite_mnt (p : Prop) [Decidable p] (cause : Nat) (f : SaggarSt → SaggarSt) (s : State) :
    (if p then changeDue cause f s else s).mnt = s.mnt := by
  split
  · exact (changeDue_within ..).mnt rfl
  · rfl

/-- What a plan writes into the Cone (R447). -/
theorem issuePlan_cone (mv endurance headroom : Nat) (s : State) : (issuePlan mv endurance headroom s).mnt.cone = { s.mnt.cone with
    planNumber := s.mnt.cone.planNumber + 1, planMv := mv, planEndurance := endurance, planHeadroom := headroom, planDt := now s,
    derated := headroom == 0 && (if s.cx.profile = 2 then endurance else mv) == 850 } := by
  unfold issuePlan
  dsimp only
  rw [(raise_within ..).mnt rfl, askStore_cone, changeDue_ite_mnt]
  rfl

/-- An AVS target lies within 700 to 850 mV in steps of 5 mV, but after a regulator that did not settle (R448, R485). -/
theorem planTarget_bounds (s : State) : (s.power.avsStopped = true → (planTarget s).1 = s.power.vcoreMv)
    ∧ (s.power.avsStopped = false → 700 ≤ (planTarget s).1 ∧ (planTarget s).1 ≤ 850 ∧ (planTarget s).1 % 5 = 0) := by
  unfold planTarget
  refine ⟨fun h => by rw [if_pos h], fun h => ?_⟩
  rw [if_neg (by rw [h]; decide)]
  dsimp only
  omega

/-- What a plan that the device works out leaves in the Cone. -/
theorem ownPlan_cone (s : State) : (ownPlan s).mnt.cone.planNumber = s.mnt.cone.planNumber + 1 ∧ (ownPlan s).mnt.cone.planDt = now s
    ∧ (ownPlan s).mnt.cone.planHeadroom = headroomOf s.mnt.cone.margins s.cx.profile
    ∧ (ownPlan s).mnt.cone.planMv = (planTarget s).1 := by
  have hw (n : State) := PairW.snd (planTarget_within n)
  have hmnt : (planTarget (planTarget s).2).2.mnt = s.mnt := ((hw _).mnt rfl).trans ((hw _).mnt rfl)
  have hprofile : (planTarget (planTarget s).2).2.cx.profile = s.cx.profile := (c_profile ((hw _).cx rfl)).trans (c_profile ((hw _).cx rfl))
  have hnow : now (planTarget (planTarget s).2).2 = now s := ((hw _).dt rfl).trans ((hw _).dt rfl)
  unfold ownPlan
  dsimp only
  rw [issuePlan_cone]
  dsimp only
  rw [hmnt, hprofile, hnow]
  exact ⟨rfl, rfl, rfl, rfl⟩

theorem does_mntMarginPlan (e : Entry) : Does (.mntMarginPlan e) specMntMarginPlan e fun h u t =>
    (le (Entry.args e) 0 1 ≠ 1 → t = finish h .ok (planFields u) u)
      ∧ (le (Entry.args e) 0 1 = 1 → ∃ v, t = finish h .ok (planFields v) v ∧ v = ownPlan u
          ∧ v.mnt.cone.planNumber = u.mnt.cone.planNumber + 1) := by
  refine does_of (fun _ => rfl) fun h u he _ => ?_
  subst he
  unfold doMntMarginPlan
  dsimp only
  exact ⟨fun h1 => by rw [if_neg h1], fun h1 => ⟨_, by rw [if_pos h1], rfl, (ownPlan_cone u).1⟩⟩

/-- Thirty days after the last plan (R447). -/
theorem gives_conePlanDue (t : DT) (s : State) : Gives (.conePlanDue t) s fun u =>
    let m := moment t s
    (dtSince s.mnt.cone.planDt (now m) < daysDt 30 → u = m)
      ∧ (daysDt 30 ≤ dtSince s.mnt.cone.planDt (now m) → u = ownPlan m
          ∧ u.mnt.cone.planNumber = s.mnt.cone.planNumber + 1 ∧ u.mnt.cone.planDt = now m
          ∧ u.mnt.cone.planHeadroom = headroomOf s.mnt.cone.margins s.cx.profile
          ∧ (s.power.avsStopped = true → u.mnt.cone.planMv = s.power.vcoreMv)
          ∧ (s.power.avsStopped = false → 700 ≤ u.mnt.cone.planMv ∧ u.mnt.cone.planMv ≤ 850 ∧ u.mnt.cone.planMv % 5 = 0)) := by
  rw [← moment_mnt t s, ← moment_cx_profile t s, ← moment_power t s]
  refine ⟨_, rfl, ?_⟩
  generalize moment t s = m
  intro n
  refine ⟨fun h => if_neg (Nat.not_le.mpr h), fun h => ?_⟩
  rw [if_pos (show daysDt 30 ≤ dtSince m.mnt.cone.planDt (now m) from h)]
  obtain ⟨hnumber, hdt, hroom, hmv⟩ := ownPlan_cone m
  obtain ⟨hstopped, hown⟩ := planTarget_bounds m
  rw [hmv]
  exact ⟨rfl, hnumber, hdt, hroom, hstopped, hown⟩

/-- The state after a sample of the Cone, before what follows from it (R445). -/
def coneSampled (tHot tAo : Int) (margins : List Int) (s : State) : State :=
  let tj := if s.power.st = .dormant then tAo else tHot
  let work := s.mnt.cone.heatFrac + heatWork (conePeriod s) tj
  let s := useFree (modPower (fun p => { p with tHot := tHot, tAo := tAo, vcoreMv := (freeNow s).natAbs % 65536 }) s)
  modMnt (fun m => { m with sampledAt := now s, cone := { m.cone with
    heat := m.cone.heat + BitVec.ofNat 64 (work / 2 ^ 32), heatFrac := work % 2 ^ 32,
    tMax := max m.cone.tMax tj, margins := if s.power.st = .dormant then m.cone.margins else margins.take 8 } }) s

theorem exec_coneSample (t : DT) (tHot tAo : Int) (margins : List Int) (s : State) : exec (.coneSample t tHot tAo margins) s =
    .next (if !(moment t s).power.porstN
        || decide (dtSince (moment t s).mnt.sampledAt (now (moment t s)) < conePeriod (moment t s) * 2 ^ 32) then moment t s
      else if (moment t s).power.st = .running then dailyTune (marginTrip margins (tempDue (coneSampled tHot tAo margins (moment t s))))
      else if (moment t s).power.st = .dormant then tempDue (coneSampled tHot tAo margins (moment t s))
      else coneSampled tHot tAo margins (moment t s)) := rfl

section
variable {tHot tAo : Int} {margins : List Int} {s : State}

/-- Awake, the sample is the hot sensor's. -/
theorem coneSampled_awake (h : s.power.st ≠ .dormant) :
    (coneSampled tHot tAo margins s).mnt.cone.heat
        = s.mnt.cone.heat + BitVec.ofNat 64 ((s.mnt.cone.heatFrac + heatWork (conePeriod s) tHot) / 2 ^ 32)
      ∧ (coneSampled tHot tAo margins s).mnt.cone.tMax = max s.mnt.cone.tMax tHot
      ∧ (coneSampled tHot tAo margins s).mnt.cone.margins = margins.take 8 := by
  unfold coneSampled
  dsimp only
  rw [if_neg h]
  exact ⟨rfl, rfl, if_neg h⟩

/-- In Dormant it is the always-on sensor's, and the margins stay. -/
theorem coneSampled_dormant (h : s.power.st = .dormant) :
    (tempDue (coneSampled tHot tAo margins s)).mnt.cone.heat
        = s.mnt.cone.heat + BitVec.ofNat 64 ((s.mnt.cone.heatFrac + heatWork (conePeriod s) tAo) / 2 ^ 32)
      ∧ (tempDue (coneSampled tHot tAo margins s)).mnt.cone.tMax = max s.mnt.cone.tMax tAo
      ∧ (tempDue (coneSampled tHot tAo margins s)).mnt.cone.margins = s.mnt.cone.margins := by
  unfold tempDue coneSampled
  dsimp only
  rw [if_pos h]
  exact ⟨rfl, rfl, if_pos h⟩

end

/-- A sample of the Cone (R445, R446). -/
theorem gives_coneSample (t : DT) (tHot tAo : Int) (margins : List Int) (s : State) : Gives (.coneSample t tHot tAo margins) s fun u =>
    let m := moment t s
    let heat (tj : Int) : BitVec 64 := s.mnt.cone.heat + BitVec.ofNat 64 ((s.mnt.cone.heatFrac + heatWork (conePeriod s) tj) / 2 ^ 32)
    let due := conePeriod s * 2 ^ 32 ≤ dtSince s.mnt.sampledAt (now m)
    (s.power.porstN = false ∨ ¬ due → u = m)
      ∧ (s.power.porstN = true → due → s.power.st ≠ .running → s.power.st ≠ .dormant → u.power.tHot = tHot ∧ u.power.tAo = tAo
          ∧ u.mnt.cone.heat = heat tHot ∧ u.mnt.cone.tMax = max s.mnt.cone.tMax tHot ∧ u.mnt.cone.margins = margins.take 8)
      ∧ (s.power.porstN = true → due → s.power.st = .running → ∃ v, u = dailyTune (marginTrip margins (tempDue v)) ∧ v.power.tHot = tHot
          ∧ v.mnt.cone.heat = heat tHot ∧ v.mnt.cone.tMax = max s.mnt.cone.tMax tHot ∧ v.mnt.cone.margins = margins.take 8)
      ∧ (s.power.porstN = true → due → s.power.st = .dormant → u.mnt.cone.heat = heat tAo ∧ u.mnt.cone.tMax = max s.mnt.cone.tMax tAo
          ∧ u.mnt.cone.margins = s.mnt.cone.margins) := by
  rw [show conePeriod s = conePeriod (moment t s) by rw [conePeriod, conePeriod, moment_power]]
  rw [← moment_mnt t s, ← moment_power t s]
  refine ⟨_, exec_coneSample .., ?_⟩
  generalize moment t s = m
  intro n heat due
  have hgo (hp : m.power.porstN = true) (hd : due) :
      ¬ (!m.power.porstN || decide (dtSince m.mnt.sampledAt (now m) < conePeriod m * 2 ^ 32)) = true := by
    rw [hp, decide_eq_false (Nat.not_lt.mpr hd)]
    decide
  refine ⟨fun h => if_pos ?_, fun hp hd hr hm => ?_, fun hp hd hr => ?_, fun hp hd hm => ?_⟩
  · rcases h with h | h
    · rw [h]; rfl
    · rw [decide_eq_true (Nat.not_le.mp h), Bool.or_true]
  · rw [show ite _ _ _ = coneSampled tHot tAo margins m from (if_neg (hgo hp hd)).trans ((if_neg hr).trans (if_neg hm))]
    exact ⟨rfl, rfl, coneSampled_awake hm⟩
  · exact ⟨coneSampled tHot tAo margins m, (if_neg (hgo hp hd)).trans (if_pos hr), rfl, coneSampled_awake (by rw [hr]; decide)⟩
  · rw [show ite _ _ _ = tempDue (coneSampled tHot tAo margins m) from
      (if_neg (hgo hp hd)).trans ((if_neg (show ¬ m.power.st = .running by rw [hm]; decide)).trans (if_pos hm))]
    exact coneSampled_dormant hm

/-- Settles O50. That the offset stays where only test (e) fails is the model's choice (log entry 87); so are the slope's span and the
fixed-point work of the heat (log entries 88 to 90). -/
theorem kilnFiresPlansAndStores : Obligations.KilnFiresPlansAndStores :=
  ⟨does_mntCalibrate, does_mntScheduleSet, does_mntScheduleStatus,
    fun _ => does_of (fun _ => rfl) fun _ u _ _ => ⟨rfl, coneBytes_length u.mnt.cone⟩,
    does_mntMarginPlan, gives_kilnFiringStart, gives_kilnWindowExpiry, gives_kilnFiringEnd, gives_vaultStoreDone, gives_coneSample,
    gives_conePlanDue⟩

end Sys2Proof.Machine

/-! ## Joining, the Walval link, the loss of the peer (R461 to R483) -/
namespace Sys2Proof.Machine

/-! ### What the link's changes leave of the pair -/

theorem setLink_pair (l : LinkState) (s : State) : ∃ d, (setLink l s).pair = { s.pair with link := l, trainFrom := d } := by
  unfold setLink
  split
  next h => exact ⟨s.pair.trainFrom, by rw [← h]⟩
  next => exact ⟨_, (peerState_within _).pair rfl⟩

theorem retrain_pair (m : BitVec 4) (s : State) :
    ∃ d, (retrain m s).pair = { s.pair with lanes := m, retrains := s.pair.retrains + 1, link := trained m, trainFrom := d } := by
  unfold retrain
  dsimp only
  obtain ⟨d, hd⟩ := setLink_pair .training (modPair (fun p => { p with lanes := m, retrains := p.retrains + 1 }) s)
  obtain ⟨d', hd'⟩ := setLink_pair (trained m) (setLink .training (modPair (fun p => { p with lanes := m, retrains := p.retrains + 1 }) s))
  exact ⟨d', hd'.trans (by rw [hd]; rfl)⟩

theorem foldl_modCarver_pair (f : Carver → Carver) (l : List (Fin 8)) (s : State) : (l.foldl (fun s c => modCarver c f s) s).pair = s.pair :=
  fold_keep (f := fun s c => modCarver c f s) (g := State.pair) (fun _ _ => rfl) l s

theorem stopStream_pair (b : Bool) (s : State) :
    (stopStream b s).pair = { s.pair with stoppedIn := s.pair.stoppedIn ||| BitVec.twoPow 2 (bit b) } := by
  unfold stopStream
  dsimp only
  refine (fold_keep (f := fun s p => loseSource p s) (g := State.pair) (fun s p => (loseSource_within p s).pair rfl) _ _).trans ?_
  exact congrArg (fun p : PairSt => { p with stoppedIn := p.stoppedIn ||| BitVec.twoPow 2 (bit b) }) (foldl_modCarver_pair _ _ s)

theorem resumeStream_pair (b : Bool) (s : State) :
    (resumeStream b s).pair = { s.pair with stoppedIn := s.pair.stoppedIn &&& ~~~ BitVec.twoPow 2 (bit b) } := by
  unfold resumeStream
  exact fold_keep (f := fun s c => modCarver c (fun x => { x with resumes := x.stopped }) s) (g := State.pair) (fun _ _ => rfl) _ _

/-! ### The commands -/

/-- PAIR_JOIN (R466, R477, R481). -/
theorem does_pairJoin (e : Entry) : Does (.pairJoin e) specPairJoin e fun h u t =>
    let a := Entry.args e
    let busy := joined u = true ∨ u.pair.join.isSome = true
    let unfit := le a 0 1 = 2 ∧ (u.cx.profile ≠ 0 ∨ logKey u = none)
    (busy ∨ unfit → t = reject h .errState u)
      ∧ (¬ busy → ¬ unfit → ∃ v, t = begin_ h v ∧ v.pair = { u.pair with
          join := some { cmd := h.id, mode := le a 0 1, role := le a 1 1, exports := BitVec.ofNat 2 (le a 2 1), at_ := now u } }) := by
  refine does_of (fun _ => rfl) fun h u he _ => ?_
  subst he
  intro a busy unfit
  have hbusy : busy ↔ (joined u || u.pair.join.isSome) = true := (Bool.or_eq_true_iff ..).symm
  have hunfit : unfit ↔ (decide (le a 0 1 = 2) && (decide (u.cx.profile ≠ 0) || (logKey u).isNone)) = true := by
    simp only [unfit, Bool.and_eq_true, Bool.or_eq_true, decide_eq_true_eq, Option.isNone_iff_eq_none]
  refine ⟨fun h => ?_, fun hb hu => ⟨_, (if_neg (mt hbusy.mpr hb)).trans (if_neg (mt hunfit.mpr hu)), rfl⟩⟩
  by_cases hb : busy
  · exact if_pos (hbusy.mp hb)
  · exact (if_neg (mt hbusy.mpr hb)).trans (if_pos (hunfit.mp (h.resolve_left hb)))

/-- PAIR_LEAVE (R469); a DORMANT_REQ that waited for it is acted on then (R482). -/
theorem does_pairLeave (e : Entry) : Does (.pairLeave e) specPairLeave e fun h u t =>
    let barred := joined u = false ∨ u.pair.takeover = true ∨ secondaryOpen u = true ∨ usesPeer u = true
    (barred → t = dormantCheck (reject h .errState u))
      ∧ (¬ barred → inShield u = false → t = dormantCheck (finishC h (unpair (emit (.link 6 []) u))))
      ∧ (¬ barred → inShield u = true → ∃ v, t = dormantCheck (finishC h (unpair v)) ∧ v.cx.profile = 0) := by
  intro s h u b
  refine ⟨dormantCheck (doPairLeave h u), congrArg (fun x => Host.Outcome.next (dormantCheck x)) (hostCmd_starts b doPairLeave), ?_⟩
  beta_reduce
  intro barred
  have hiff : barred ↔ (!joined u || u.pair.takeover || secondaryOpen u || usesPeer u) = true := by
    simp only [barred, Bool.or_eq_true, Bool.not_eq_true', or_assoc]
  refine ⟨fun hb => congrArg dormantCheck (if_pos (hiff.mp hb)), fun hb hs => congrArg dormantCheck ((if_neg (mt hiff.mpr hb)).trans ?_),
    fun hb hs => ?_⟩
  · exact congrArg (fun v => finishC h (unpair v)) (if_neg (by rw [show inShield (emit _ u) = false from hs]; decide))
  · exact ⟨modCx (fun c => { c with profile := 0 }) _, congrArg dormantCheck ((if_neg (mt hiff.mpr hb)).trans
      (congrArg (fun v => finishC h (unpair v)) (if_pos hs))), rfl⟩

theorem does_pairMirror (e : Entry) (c : Fin 64) (hc : e.target.toNat = c.val) : Does (.pairMirror e) specPairMirror e fun h u t =>
    (u.cx.ctxs[c].st ≠ .closed ∧ inShield u = true → t = park h [] u)
      ∧ (u.cx.ctxs[c].st = .closed ∨ inShield u = false → t = reject h .errState u) := by
  refine does_of (fun _ => rfl) fun h u he _ => ?_
  subst he
  unfold doPairMirror openCtx
  rw [idx_eq_some hc]
  dsimp only
  by_cases hst : u.cx.ctxs[c].st = .closed
  · rw [if_pos (beq_iff_eq.mpr hst)]
    exact ⟨fun h => absurd hst h.1, fun _ => rfl⟩
  · rw [if_neg (mt beq_iff_eq.mp hst)]
    exact ⟨fun h => if_pos h.2, fun h => if_neg (by rw [h.resolve_left hst]; decide)⟩

/-! ### The loss of the peer and of lanes -/

theorem gives_peerHeartbeatLost (t : DT) (s : State) : Gives (.peerHeartbeatLost t) s fun u =>
    ∃ m : State, m.pair = { s.pair with peerHb := false } ∧ now m = now (moment t s)
      ∧ (∀ q, s.pair.join = some q → u = endJoin q .peerLost m)
      ∧ (s.pair.join = none → joined m = true → s.pair.link ≠ .lost → u = dormantCheck (losePeer true m))
      ∧ (s.pair.join = none → joined m = false ∨ s.pair.link = .lost → u = m) := by
  rw [← moment_pair t s]
  refine ⟨_, rfl, ?_⟩
  generalize moment t s = n
  refine ⟨modPair (fun p => { p with peerHb := false }) n, rfl, rfl, fun q hq => ?_, fun hq hj hl => ?_, fun hq h => ?_⟩ <;>
    rw [show (modPair (fun p => { p with peerHb := false }) n).pair.join = _ from hq]
  · exact if_pos (by rw [hj]; exact bne_iff_ne.mpr hl)
  · refine if_neg ?_
    rcases h with h | h
    · rw [h]; simp
    · rw [show (modPair (fun p => { p with peerHb := false }) n).pair.link = .lost from h]
      simp

theorem gives_linkTrainTimeout (t : DT) (s : State) : Gives (.linkTrainTimeout t) s fun u =>
    let m := moment t s
    let late := joined m = true ∧ s.pair.link = .training ∧ msDt 5 ≤ dtSince s.pair.trainFrom (now m)
    (late → u = dormantCheck (losePeer false m)) ∧ (¬ late → u = m) := by
  rw [← moment_pair t s]
  refine ⟨_, rfl, ?_⟩
  generalize moment t s = n
  intro m late
  have hiff : late ↔ (joined n && n.pair.link == .training && decide (msDt 5 ≤ dtSince n.pair.trainFrom (now n))) = true := by
    simp only [late, Bool.and_eq_true, beq_iff_eq, decide_eq_true_eq, and_assoc, m]
  exact ⟨fun h => if_pos (hiff.mp h), fun h => if_neg (mt hiff.mpr h)⟩

/-- A lane is removed (R465). -/
theorem gives_walvalLaneLoss (t : DT) (lane : Fin 4) (s : State) : Gives (.walvalLaneLoss t lane) s fun u =>
    let m := moment t s
    let rest := s.pair.lanes &&& ~~~ BitVec.twoPow 4 lane.val
    (joined m = false ∨ s.pair.lanes.getLsbD lane.val = false → u = m)
      ∧ (joined m = true → s.pair.lanes.getLsbD lane.val = true →
          u.pair.lanes = rest ∧ u.pair.retrains = s.pair.retrains + 1 ∧ u.pair.laneDrops = s.pair.laneDrops + 1
            ∧ u.pair.link = trained rest
            ∧ ∃ v, u = faultSherd 5 lane.val (now m) (now m) v
              ∧ (laneCount rest = 1 → ∃ w, v = stopStream true w)) := by
  rw [← moment_pair t s]
  refine ⟨_, rfl, ?_⟩
  generalize moment t s = n
  intro m rest
  refine ⟨fun h => if_pos ?_, fun hj hl => ?_⟩
  · rcases h with h | h
    · rw [h]; rfl
    · rw [h, Bool.not_false, Bool.or_true]
  · rw [if_neg (by rw [hj, hl]; decide)]
    dsimp only
    let y := modPair (fun p => { p with laneDrops := p.laneDrops + 1, laneAt := p.laneAt.set lane (now n) }) n
    obtain ⟨d, hd⟩ := retrain_pair rest y
    have hnow : now (retrain rest y) = now n := (retrain_within rest y).dt rfl
    have hv : ∃ x, (if laneCount rest = 1 then stopStream true (retrain rest y) else retrain rest y).pair
        = { (retrain rest y).pair with stoppedIn := x } := by
      split
      · exact ⟨_, stopStream_pair ..⟩
      · exact ⟨_, rfl⟩
    have hnow' : now (if laneCount rest = 1 then stopStream true (retrain rest y) else retrain rest y) = now n := by
      split
      · exact ((stopStream_within ..).dt rfl).trans hnow
      · exact hnow
    obtain ⟨x, hx⟩ := hv
    have hu := ((faultSherd_within 5 lane.val (now n) (now n) _).pair rfl).trans (hx.trans (by rw [hd]))
    rw [show now _ = now n from hnow']
    exact ⟨congrArg PairSt.lanes hu, congrArg PairSt.retrains hu, congrArg PairSt.laneDrops hu, congrArg PairSt.link hu, _, rfl,
      fun h1 => ⟨_, if_pos h1⟩⟩

/-- A removed lane is retried (R465). -/
theorem gives_walvalLaneRetry (t : DT) (lane : Fin 4) (pass : Bool) (s : State) : Gives (.walvalLaneRetry t lane pass) s fun u =>
    let m := moment t s
    let all_ := s.pair.lanes ||| BitVec.twoPow 4 lane.val
    let tries := joined m = true ∧ s.pair.lanes.getLsbD lane.val = false ∧ s.pair.link ≠ .lost ∧ msDt 1000 ≤ dtSince s.pair.laneAt[lane] (now m)
    (¬ tries → u = m)
      ∧ (tries → pass = false → u.pair = { s.pair with laneAt := s.pair.laneAt.set lane (now m) })
      ∧ (tries → pass = true → u.pair.lanes = all_ ∧ u.pair.link = trained all_ ∧ u.pair.retrains = s.pair.retrains + 1) := by
  rw [← moment_pair t s]
  refine ⟨_, rfl, ?_⟩
  generalize moment t s = n
  intro m all_ tries
  have hiff : tries ↔ ¬ (!joined n || n.pair.lanes.getLsbD lane.val || n.pair.link == .lost
      || decide (dtSince n.pair.laneAt[lane] (now n) < msDt 1000)) = true := by
    simp only [tries, Bool.or_eq_true, Bool.not_eq_true', beq_iff_eq, decide_eq_true_eq, not_or, Bool.not_eq_false, Bool.not_eq_true,
      Nat.not_lt, and_assoc, m, ne_eq]
  refine ⟨fun h => if_pos (not_not.mp (mt hiff.mpr h)), fun h hp => ?_, fun h hp => ?_⟩ <;> rw [if_neg (hiff.mp h), hp]
  · rfl
  · obtain ⟨d, hd⟩ := retrain_pair all_ n
    have hx : ∃ x, (if laneCount all_ = 2 && (retrain all_ n).pair.exportIn.getLsbD 1 then resumeStream true (retrain all_ n)
        else retrain all_ n).pair = { (retrain all_ n).pair with stoppedIn := x } := by
      split
      · exact ⟨_, resumeStream_pair ..⟩
      · exact ⟨_, rfl⟩
    obtain ⟨x, hx⟩ := hx
    have hu := hx.trans (by rw [hd])
    exact ⟨congrArg PairSt.lanes hu, congrArg PairSt.link hu, congrArg PairSt.retrains hu⟩

/-! ### The end of a join, and the secondary's time -/

/-- Role, mode, lanes and the join that is under way. -/
def PairSt.face (p : PairSt) : Nat × Nat × BitVec 4 × Option Join := (p.role, p.mode, p.lanes, p.join)

theorem face_setLink (l : LinkState) (s : State) : (setLink l s).pair.face = s.pair.face := by
  obtain ⟨d, hd⟩ := setLink_pair l s
  rw [hd]
  rfl

/-- What a pair that runs has of its join (R466). -/
theorem face_pairUp (mode role : Nat) (exports : BitVec 2) (j : JoinInfo) (s : State) :
    (pairUp mode role exports j s).pair.face = (role, mode, j.lanes, none) := by
  have hprofile (p : Prop) [Decidable p] (f : PairSt → PairSt) (n : State) :
      (if p then modCx (fun c => { c with profile := 3 }) (useFree (modPair f n)) else useFree (modPair f n)).pair = f n.pair := by
    split <;> rfl
  unfold pairUp
  dsimp only
  rw [face_setLink, hprofile, (followPrimary_within _).pair rfl, (alignDt_within ..).pair rfl]
  rfl

theorem pairUp_pair (mode role : Nat) (exports : BitVec 2) (j : JoinInfo) (s : State) :
    (pairUp mode role exports j s).pair.role = role ∧ (pairUp mode role exports j s).pair.mode = mode
      ∧ (pairUp mode role exports j s).pair.lanes = j.lanes ∧ (pairUp mode role exports j s).pair.join = none := by
  have h := face_pairUp mode role exports j s
  unfold PairSt.face at h
  simpa only [Prod.mk.injEq] using h

theorem gives_pairJoinComplete (t : DT) (j : JoinInfo) (s : State) : Gives (.pairJoinComplete t j) s fun u =>
    ∀ q, s.pair.join = some q → ∃ m : State, m = setLink .training (moment t s)
      ∧ (∀ st, joinFails q j m = some st → u = endJoin q st m)
      ∧ (joinFails q j m = none → ∃ v, v = pairUp q.mode (joinRole q m) q.exports j m
          ∧ u = finishId q.cmd .ok [(16, 1, (joinRole q m : Int)), (17, 1, (v.pair.lanes.toNat : Int)), (18, 1, (q.mode : Int)),
              (20, 4, (v.pair.transit.toNat : Int)), (24, 8, dtInt (now v))] v
          ∧ v.pair.role = joinRole q m ∧ v.pair.mode = q.mode ∧ v.pair.lanes = j.lanes ∧ v.pair.join = none) := by
  rw [← moment_pair t s]
  refine ⟨_, rfl, fun q hq => ⟨_, rfl, ?_⟩⟩
  generalize moment t s = n at hq ⊢
  rw [hq]
  dsimp only
  refine ⟨fun st hst => by rw [hst], fun hst => ⟨_, rfl, ?_, pairUp_pair ..⟩⟩
  rw [hst]

theorem gives_pairJoinTimeout (t : DT) (s : State) : Gives (.pairJoinTimeout t) s fun u =>
    let m := moment t s
    (s.pair.join = none → u = m)
      ∧ ∀ q, s.pair.join = some q →
        (10 * 2 ^ 32 ≤ dtSince q.at_ (now m) → u = endJoin q .peerLost m) ∧ (dtSince q.at_ (now m) < 10 * 2 ^ 32 → u = m) := by
  rw [← moment_pair t s]
  refine ⟨_, rfl, ?_⟩
  generalize moment t s = n
  refine ⟨fun h => by rw [h], fun q hq => ?_⟩
  rw [hq]
  exact ⟨fun h => if_pos h, fun h => if_neg (Nat.not_le.mpr h)⟩

/-- A marker of the primary (R470). -/
theorem gives_pairDtMarker (t : DT) (offsetPs : Int) (s : State) : Gives (.pairDtMarker t offsetPs) s fun u =>
    let m := moment t s
    let follows := s.pair.role = 2 ∧ (s.pair.link = .up ∨ s.pair.link = .degraded)
    (¬ follows → u = m)
      ∧ (follows → u.pair = { s.pair with dtOffset := offsetPs, peerHb := true }
          ∧ ∃ w, u.time.tune = approach s.time.tune w (maxTuneStep s.time * (dtInt (now m) - lastTune s.time).toNat / 2 ^ 32)) := by
  rw [show maxTuneStep s.time = maxTuneStep (moment t s).time by rw [maxTuneStep, maxTuneStep, moment_time_cfg],
    show lastTune s.time = lastTune (moment t s).time by rw [lastTune, lastTune, moment_time_hist], ← moment_pair t s, ← moment_time_tune t s]
  refine ⟨_, rfl, ?_⟩
  generalize moment t s = n
  intro m follows
  have hiff : follows ↔ (decide (n.pair.role = 2) && (n.pair.link == .up || n.pair.link == .degraded)) = true := by
    simp only [follows, Bool.and_eq_true, Bool.or_eq_true, beq_iff_eq, decide_eq_true_eq]
  refine ⟨fun h => if_neg (mt hiff.mpr h), fun h => ?_⟩
  rw [if_pos (hiff.mp h)]
  exact ⟨rfl, freeNow n, setTune_tune ..⟩

/-- Settles O51. -/
theorem pairsJoinRunAndPart : Obligations.PairsJoinRunAndPart :=
  ⟨does_pairJoin, does_pairLeave, fun _ => does_of (fun _ => rfl) fun _ _ _ _ => rfl, does_pairMirror, gives_peerHeartbeatLost,
    gives_linkTrainTimeout, gives_walvalLaneLoss, gives_walvalLaneRetry, gives_pairJoinComplete, gives_pairJoinTimeout, gives_pairDtMarker⟩

end Sys2Proof.Machine

/-! ## The Saggar: seal, faults, boots, jobs and results (R371 to R393)

`SaggarSt.noLog` is the Saggar without its legal log, all that a legal Sherd changes; `sgFace` is what the end of a job leaves.
-/
namespace Sys2Proof.Machine

/-! ### What a Sherd and a cut job leave -/

/-- The Saggar without the numbers, tags and waiting records of its legal log. -/
def SaggarSt.noLog (g : SaggarSt) : SaggarSt :=
  { g with seq := 0, invocation := 0, prevTag := [], formed := [], reserved := 0, committed := 0 }

theorem noLog_setLog (g : SaggarSt) (a c r : BitVec 64) (i : Nat) (p : List Byte) (l : List (BitVec 64 × List Byte)) :
    { g with seq := a, committed := c, reserved := r, invocation := i, prevTag := p, formed := l }.noLog = g.noLog := rfl

theorem noLog_reserveLegal (g : SaggarSt) : (reserveLegal g).noLog = g.noLog := by
  unfold reserveLegal
  split
  · rfl
  · exact noLog_setLog g g.seq g.committed (g.seq + 4096) g.invocation g.prevTag g.formed

theorem noLog_legalSherd (type ctx : Nat) (start stop : DT) (payload : List Byte) (notLegal : Bool) (s : State) :
    (legalSherd type ctx start stop payload notLegal s).sg.noLog = s.sg.noLog := by
  unfold legalSherd
  dsimp only
  rw [(gapRecorded_within ..).sg rfl]
  exact (noLog_setLog _ _ _ _ _ _ _).trans (noLog_reserveLegal s.sg)

theorem noLog_sealEvent (kind : Nat) (s : State) : (sealEvent kind s).sg.noLog = s.sg.noLog := by
  have h (fs : List (Nat × Nat × Int)) : (raise .sealEvent fs s).sg.noLog = s.sg.noLog := congrArg SaggarSt.noLog ((raise_within ..).sg rfl)
  unfold sealEvent
  dsimp only
  split
  · rw [noLog_legalSherd]
    exact h _
  · exact h _

theorem noLog_sgFaultSherd (kind : Nat) (s : State) : (sgFaultSherd kind s).sg.noLog = s.sg.noLog := noLog_legalSherd ..

theorem noLog_faultSherds (k : SgFaultKind) (s : State) : (faultSherds k s).sg.noLog = s.sg.noLog := by
  unfold faultSherds legalFault
  split
  · rw [noLog_legalSherd, noLog_sgFaultSherd]
  · rw [noLog_sgFaultSherd]

theorem noLog_legalGap (s : State) : (legalGap s).sg.noLog = s.sg.noLog := by
  have h (p : Prop) [Decidable p] (start stop : DT) (l : List Byte) (n : State) :
      (if p then legalSherd 1 0xFFFF start stop l false n else n).sg.noLog = n.sg.noLog := by
    split
    · exact noLog_legalSherd ..
    · rfl
  unfold legalGap
  dsimp only
  rw [h]
  exact noLog_setLog s.sg _ _ s.sg.reserved s.sg.invocation s.sg.prevTag []

/-- Whether the Saggar acts, the state it is in where it does not, and its software. -/
def SaggarSt.face (g : SaggarSt) : Bool × Option SgState × Bool × BitVec 32 :=
  (g.st == .ready || g.st == .measuring, if g.st == .ready || g.st == .measuring then none else some g.st, g.activeB, g.version)

theorem face_noLog (g : SaggarSt) : g.noLog.face = g.face := rfl

theorem face_of_noLog {g k : SaggarSt} (h : g.noLog = k.noLog) : g.face = k.face := by rw [← face_noLog g, h, face_noLog]

theorem face_settleState (s : State) : (settleState s).sg.face = s.sg.face := by
  unfold settleState
  split
  next h =>
    have hst (st : SgState) (hst : (st == .ready || st == .measuring) = true) : { s.sg with st := st }.face = s.sg.face := by
      simp only [SaggarSt.face, hst, show (s.sg.st == .ready || s.sg.st == .measuring) = true from h, if_true]
    exact hst _ (by split <;> rfl)
  next => rfl

theorem face_releaseJob (j : Job) (s : State) : (releaseJob j s).sg.face = s.sg.face := by
  unfold releaseJob
  dsimp only
  rw [face_settleState, fold_keep (f := fun s c => resumeSwitch c s) (g := State.sg) (fun s c => (resumeSwitch_within c s).sg rfl),
    (applyTrims_within _).sg rfl]
  split
  · rfl
  · split
    · rw [(releaseTuner_within ..).sg rfl, (closePath_within ..).sg rfl]
    · exact congrArg SaggarSt.face ((closePath_within ..).sg rfl)
    · rw [(closePath_within ..).sg rfl]
  · rfl

theorem face_lateResponse (l : List Byte) (s : State) : (lateResponse l s).sg.face = s.sg.face := by
  unfold lateResponse
  change (ite _ _ _ : SaggarSt).face = _
  split <;> rfl

theorem face_setResults (g : SaggarSt) (l : List SgResult) : { g with results := l }.face = g.face := rfl

theorem face_addResult (r : SgResult) (s : State) :
    (modSg (fun g => { g with results := (g.results ++ [r]).drop (g.results.length + 1 - 256) }) s).sg.face = s.sg.face :=
  face_setResults s.sg _

theorem face_writeResult (j : Job) (v : Verdict) (wide : Bool) (s : State) : (writeResult j v wide s).sg.face = s.sg.face := by
  unfold writeResult
  dsimp only
  split
  · rw [face_lateResponse, face_addResult, face_of_noLog (noLog_legalSherd ..)]
  · rw [face_addResult, face_of_noLog (noLog_legalSherd ..)]

theorem cutVerdict_sg (invalid : Nat) (finish : DT) (broken : Bool) (s : State) : (cutVerdict invalid finish broken s).2.sg = s.sg := rfl

theorem face_dropJob (id : BitVec 32) (s : State) : (dropJob id s).sg.face = s.sg.face := rfl

theorem face_cutJob (j : Job) (invalid : Nat) (s : State) : (cutJob j invalid s).sg.face = s.sg.face := by
  unfold cutJob
  dsimp only
  rw [face_writeResult, cutVerdict_sg, (dropClaim_within _).sg rfl, face_releaseJob, face_dropJob]

theorem face_faultResults (s : State) : (faultResults s).sg.face = s.sg.face :=
  fold_keep (f := fun s j => cutJob j 96 s) (g := fun s => s.sg.face) (fun s j => face_cutJob j 96 s) _ s

/-! ### Seal and tamper (R372) -/

/-- The audit counter after one count (R375). -/
theorem bumpCounter_audit (g : State) : (bumpCounter 0 g).sg.counters[0] =
    if g.sg.counters[0] = 0xFFFFFFFF then g.sg.counters[0] else g.sg.counters[0] + 1 := upd_get_self ..

/-- What a change of SEAL_SW does once the pin shows it. -/
def sealSwActs (protect : Bool) (s : State) : State :=
  if !sgActs s then s
  else if s.sg.sealSt = .sealed_ ∧ protect = false then sealEvent 1 (sealEvent 3 (unsealSt s))
  else sealEvent 3 s

theorem sealSwActs_power (protect : Bool) (s : State) : (sealSwActs protect s).power = s.power := by
  unfold sealSwActs
  split
  · rfl
  · split
    · exact ((sealEvent_within ..).power rfl).trans ((sealEvent_within ..).power rfl)
    · exact (sealEvent_within ..).power rfl

theorem sealSwActs_open {s : State} (ha : sgActs s = true) (hs : s.sg.sealSt = .sealed_) :
    (sealSwActs false s).sg.noLog = (unsealSt s).sg.noLog := by
  unfold sealSwActs
  rw [if_neg (by rw [ha]; decide), if_pos ⟨hs, rfl⟩, noLog_sealEvent, noLog_sealEvent]

theorem sealSwActs_keeps {protect : Bool} {s : State} (ha : sgActs s = true) (hs : s.sg.sealSt ≠ .sealed_ ∨ protect = true) :
    (sealSwActs protect s).sg.noLog = s.sg.noLog := by
  unfold sealSwActs
  rw [if_neg (by rw [ha]; decide), if_neg, noLog_sealEvent]
  rintro ⟨h1, h2⟩
  rcases hs with hs | hs
  · exact hs h1
  · rw [h2] at hs; contradiction

theorem gives_sealSwChange (t : DT) (protect : Bool) (s : State) : Gives (.sealSwChange t protect) s fun u =>
    let m := moment t s
    (s.power.sealSw = protect → u = m)
      ∧ (s.power.sealSw ≠ protect → u.power.sealSw = protect ∧ u.power.latched = s.power.latched ||| BitVec.twoPow 5 3
          ∧ (sgActs m = true → s.sg.sealSt = .sealed_ → protect = false →
              u.sg.sealSt = .unsealed ∧ u.sg.counters[0] = if s.sg.counters[0] = 0xFFFFFFFF then s.sg.counters[0] else s.sg.counters[0] + 1)
          ∧ (sgActs m = true → s.sg.sealSt ≠ .sealed_ ∨ protect = true → u.sg.sealSt = s.sg.sealSt ∧ u.sg.counters = s.sg.counters)) := by
  rw [← moment_power t s, ← moment_sg t s]
  refine ⟨if (moment t s).power.sealSw = protect then moment t s
    else sealSwActs protect (modPower (fun p => { p with sealSw := protect, latched := p.latched ||| BitVec.twoPow 5 3 }) (moment t s)), rfl, ?_⟩
  generalize moment t s = n
  intro m
  refine ⟨fun h => if_pos h, fun h => ?_⟩
  rw [if_neg h, sealSwActs_power]
  refine ⟨rfl, rfl, fun ha hs hp => ?_, fun ha hs => ?_⟩
  · subst hp
    have hu := sealSwActs_open (s := modPower (fun p => { p with sealSw := false, latched := p.latched ||| BitVec.twoPow 5 3 }) n) ha hs
    refine ⟨congrArg SaggarSt.sealSt hu, ?_⟩
    exact (congrArg (fun g : SaggarSt => g.counters[0]) hu).trans (bumpCounter_audit n)
  · have hu := sealSwActs_keeps (protect := protect)
      (s := modPower (fun p => { p with sealSw := protect, latched := p.latched ||| BitVec.twoPow 5 3 }) n) ha hs
    exact ⟨(congrArg SaggarSt.sealSt hu :), (congrArg SaggarSt.counters hu :)⟩

/-- What an assertion of TAMPER_N does while the Saggar acts and is armed. -/
def tamperActs (s : State) : State :=
  match s.sg.sealSt with
  | .sealed_ => sealEvent 1 (sealEvent 2 (unsealSt s))
  | .unsealed => sealEvent 2 (bumpCounter 0 s)
  | _ => s

theorem tamperActs_sealed {s : State} (h : s.sg.sealSt = .sealed_) : (tamperActs s).sg.noLog = (unsealSt s).sg.noLog := by
  unfold tamperActs
  rw [h]
  dsimp only
  rw [noLog_sealEvent, noLog_sealEvent]

theorem tamperActs_unsealed {s : State} (h : s.sg.sealSt = .unsealed) : (tamperActs s).sg.noLog = (bumpCounter 0 s).sg.noLog := by
  unfold tamperActs
  rw [h]
  dsimp only
  rw [noLog_sealEvent]

theorem tamperActs_other {s : State} (h1 : s.sg.sealSt ≠ .sealed_) (h2 : s.sg.sealSt ≠ .unsealed) : tamperActs s = s := by
  unfold tamperActs
  split
  next h => exact absurd h h1
  next h => exact absurd h h2
  next => rfl

/-- Whatever TAMPER_N does, the pin and its arming stay as set. -/
theorem tamperActs_pin (s : State) : (tamperActs s).sg.tamper = s.sg.tamper ∧ (tamperActs s).sg.tamperArmed = s.sg.tamperArmed := by
  by_cases h1 : s.sg.sealSt = .sealed_
  · exact ⟨(congrArg SaggarSt.tamper (tamperActs_sealed h1) :), (congrArg SaggarSt.tamperArmed (tamperActs_sealed h1) :)⟩
  · by_cases h2 : s.sg.sealSt = .unsealed
    · exact ⟨(congrArg SaggarSt.tamper (tamperActs_unsealed h2) :), (congrArg SaggarSt.tamperArmed (tamperActs_unsealed h2) :)⟩
    · rw [tamperActs_other h1 h2]
      exact ⟨rfl, rfl⟩

theorem gives_tamperNAssert (t : DT) (s : State) : Gives (.tamperNAssert t) s fun u =>
    let m := moment t s
    let acts := sgActs m = true ∧ s.sg.tamperArmed = true
    u.sg.tamper = true
      ∧ (¬ acts → u.sg = { s.sg with tamper := true })
      ∧ (acts → u.sg.tamperArmed = false
          ∧ (s.sg.sealSt = .sealed_ → u.sg.sealSt = .unsealed)
          ∧ (s.sg.sealSt = .sealed_ ∨ s.sg.sealSt = .unsealed →
              u.sg.counters[0] = if s.sg.counters[0] = 0xFFFFFFFF then s.sg.counters[0] else s.sg.counters[0] + 1)
          ∧ (s.sg.sealSt ≠ .sealed_ → s.sg.sealSt ≠ .unsealed → u.sg.sealSt = s.sg.sealSt ∧ u.sg.counters = s.sg.counters)) := by
  rw [← moment_sg t s]
  refine ⟨if !sgActs (moment t s) || !(moment t s).sg.tamperArmed then modSg (fun g => { g with tamper := true }) (moment t s)
    else tamperActs (modSg (fun g => { g with tamperArmed := false }) (modSg (fun g => { g with tamper := true }) (moment t s))), rfl, ?_⟩
  generalize moment t s = n
  intro m acts
  have hiff : acts ↔ ¬ (!sgActs n || !n.sg.tamperArmed) = true := by
    simp only [acts, Bool.or_eq_true, Bool.not_eq_true', not_or, Bool.not_eq_false, m]
  by_cases h : acts
  · rw [if_neg (hiff.mp h)]
    generalize hy : modSg (fun g => { g with tamperArmed := false }) (modSg (fun g => { g with tamper := true }) n) = y
    have hseal : y.sg.sealSt = n.sg.sealSt := by rw [← hy]; rfl
    have hcount : y.sg.counters = n.sg.counters := by rw [← hy]; rfl
    obtain ⟨hpin, harmed⟩ := tamperActs_pin y
    refine ⟨hpin.trans (by rw [← hy]; rfl), fun h' => absurd h h', fun _ => ⟨harmed.trans (by rw [← hy]; rfl), fun hs => ?_, fun hs => ?_, fun h1 h2 => ?_⟩⟩
    · exact congrArg SaggarSt.sealSt (tamperActs_sealed (hseal.trans hs))
    · rw [← hcount]
      rcases hs with hs | hs
      · exact (congrArg (fun g : SaggarSt => g.counters[0]) (tamperActs_sealed (hseal.trans hs))).trans (bumpCounter_audit y)
      · exact (congrArg (fun g : SaggarSt => g.counters[0]) (tamperActs_unsealed (hseal.trans hs))).trans (bumpCounter_audit y)
    · rw [tamperActs_other (hseal ▸ h1) (hseal ▸ h2)]
      exact ⟨hseal, hcount⟩
  · rw [if_pos (not_not.mp (mt hiff.mpr h))]
    exact ⟨rfl, fun _ => rfl, fun h' => absurd h' h⟩

theorem gives_tamperNRelease (t : DT) (s : State) : Gives (.tamperNRelease t) s fun u => u.sg = { s.sg with tamper := false, tamperArmed := true } :=
  ⟨_, rfl, congrArg (fun g : SaggarSt => { g with tamper := false, tamperArmed := true }) (moment_sg t s)⟩

/-! ### Supply, faults and boots (R391, R393) -/

theorem gives_vddSgArrival (t : DT) (s : State) : Gives (.vddSgArrival t) s fun u =>
    (s.sg.st = .off → s.power.porstN = true → u.sg = { s.sg with st := .boot, coldBoot := true })
      ∧ (s.sg.st ≠ .off ∨ s.power.porstN = false → u = moment t s) := by
  rw [← moment_sg t s, ← moment_power t s]
  refine ⟨_, rfl, fun hst hp => ?_, fun h => if_neg ?_⟩
  · rw [if_pos (by rw [hst, hp]; rfl)]
    rfl
  · rcases h with h | h
    · rw [decide_eq_false h]; simp
    · rw [h, Bool.and_false]; simp

theorem gives_vddSgLoss (t : DT) (s : State) : Gives (.vddSgLoss t) s fun u =>
    (s.sg.st = .off → u = moment t s)
      ∧ (s.sg.st ≠ .off → u.sg.st = .off ∧ u.sg.jobs = [] ∧ u.sg.formed = [] ∧ u.sg.responses = [] ∧ u.sg.lateResponses = []
          ∧ u.sg.lastFault = none) := by
  rw [← moment_sg t s]
  refine ⟨_, rfl, fun h => if_pos h, fun h => ?_⟩
  rw [if_neg h, (finishAll_within ..).sg rfl]
  exact ⟨rfl, rfl, rfl, rfl, rfl, rfl⟩

/-- Whether a fault is the second within 24 h. -/
def faultAgain (s : State) : Bool :=
  match s.sg.lastFault with
  | some d => decide (dtSince d (now s) ≤ daysDt 1)
  | none => false

/-- What a fault ends and marks before the Saggar boots again or stops. -/
def faultMarks (s : State) : State :=
  let s := faultSherd 6 0 (now s) (now s) (haltJobs s)
  let s := modSg (fun g => { g with formed := [], lastFault := some (now s), coldBoot := g.coldBoot && g.st == .boot }) s
  if s.sg.sealSt = .sealed_ || s.sg.sealSt = .unsealed then
    sealEvent 4 (modSg (fun g => { g with sealBefore := g.sealSt, sealSt := .fault }) (bumpCounter 0 s))
  else s

theorem faultMarks_lastFault (s : State) : (faultMarks s).sg.lastFault = some (now s) := by
  unfold faultMarks
  dsimp only
  have hnow : now (faultSherd 6 0 (now s) (now s) (haltJobs s)) = now s := ((faultSherd_within ..).dt rfl).trans ((haltJobs_within s).dt rfl)
  split
  · refine (congrArg SaggarSt.lastFault (noLog_sealEvent 4 _) :).trans ?_
    exact congrArg some hnow
  · exact congrArg some hnow

theorem faultAgain_first {s : State} (h : s.sg.lastFault = none ∨ ∃ d, s.sg.lastFault = some d ∧ daysDt 1 < dtSince d (now s)) :
    faultAgain s = false := by
  unfold faultAgain
  rcases h with h | ⟨d, h, hd⟩
  · rw [h]
  · rw [h]
    exact decide_eq_false (Nat.not_le.mpr hd)

/-- A first fault in 24 h recovers (R391). -/
theorem gives_saggarFault (t : DT) (kind : SgFaultKind) (s : State) : Gives (.saggarFault t kind) s fun u =>
    let m := moment t s
    (s.sg.st = .off ∨ s.sg.st = .stopped → u = m)
      ∧ (s.sg.st ≠ .off → s.sg.st ≠ .stopped → (s.sg.lastFault = none ∨ ∃ d, s.sg.lastFault = some d ∧ daysDt 1 < dtSince d (now m)) →
          u.sg.st = .boot ∧ u.sg.recovering = some kind ∧ u.sg.lastFault = some (now m)) := by
  rw [← moment_sg t s]
  refine ⟨if (moment t s).sg.st = .off || (moment t s).sg.st = .stopped then moment t s
    else if faultAgain (moment t s) then stopSaggar (some kind) (faultMarks (moment t s))
    else modSg (fun g => { g with st := .boot, recovering := some kind }) (faultMarks (moment t s)), rfl, ?_⟩
  generalize moment t s = n
  refine ⟨fun h => if_pos (by simpa using h), fun h1 h2 hlast => ?_⟩
  rw [if_neg (by simp [h1, h2]), if_neg (by rw [faultAgain_first hlast]; decide)]
  exact ⟨rfl, rfl, faultMarks_lastFault n⟩

/-- The Saggar after the record of a boot (R393). -/
def bootCounted (s : State) : State :=
  modSg (fun g => { g with
    boots := g.boots + 1, invocation := if g.coldBoot then invocationEnd g.invocation else g.invocation }) s

/-- What a boot that found a good image does (R393). -/
def bootReady (b : Bool) (kind : Option SgFaultKind) (s : State) : State :=
  let s := modSg (fun g => { loadImage b g with st := .ready, recovering := none, prevTag := zeros 8 }) s
  let s := legalGap s
  let s := match kind with
    | some k => sgFaultSherd 4 (faultResults (faultSherds k s))
    | none => s
  verifyNow (bootSherd (restoreSeal (modSg (fun g => { g with coldBoot := false }) s)))

theorem face_warmBoot (s : State) : (modSg (fun g => { g with coldBoot := false }) s).sg.face = s.sg.face := rfl

theorem verifyNow_sg (s : State) : (verifyNow s).sg = s.sg := rfl

theorem face_restoreSeal (s : State) : (restoreSeal s).sg.face = s.sg.face := by
  unfold restoreSeal
  split
  · rw [face_of_noLog (noLog_sealEvent ..)]
    rfl
  · rfl

/-- A Saggar that has booted acts, with the image of the area found. -/
theorem face_bootReady (b : Bool) (kind : Option SgFaultKind) (s : State) :
    (bootReady b kind s).sg.face = (true, none, b, (if b then s.sg.areas[1] else s.sg.areas[0]).1) := by
  unfold bootReady
  dsimp only
  rw [verifyNow_sg]
  unfold bootSherd
  rw [face_of_noLog (noLog_legalSherd ..), face_restoreSeal, face_warmBoot]
  have hready : (legalGap (modSg (fun g => { loadImage b g with st := .ready, recovering := none, prevTag := zeros 8 }) s)).sg.face
      = (true, none, b, (if b then s.sg.areas[1] else s.sg.areas[0]).1) := by
    rw [face_of_noLog (noLog_legalGap ..)]
    cases b <;> rfl
  split
  next k =>
    rw [face_of_noLog (noLog_sgFaultSherd ..), face_faultResults, face_of_noLog (noLog_faultSherds ..), hready]
  next => exact hready

/-- A Saggar that stops stays stopped through what it still writes (R391). -/
theorem stopSaggar_st (kind : Option SgFaultKind) (s : State) : (stopSaggar kind s).sg.st = .stopped := by
  have hface : (stopSaggar kind s).sg.face = ({ s.sg with st := .stopped } : SaggarSt).face := by
    unfold stopSaggar
    dsimp only
    rw [face_of_noLog (noLog_sgFaultSherd ..), face_faultResults]
    have hgap : (legalGap (modSg (fun g => { g with st := .stopped, recovering := none, prevTag := zeros 8 }) s)).sg.face
        = ({ s.sg with st := .stopped } : SaggarSt).face := by
      rw [face_of_noLog (noLog_legalGap ..)]
      rfl
    split
    · rw [face_of_noLog (noLog_faultSherds ..), hgap]
    · exact hgap
  generalize stopSaggar kind s = y at hface ⊢
  have h1 := congrArg (·.1) hface
  have h2 := congrArg (·.2.1) hface
  simp only [SaggarSt.face] at h1 h2
  rw [h1] at h2
  simpa using h2

/-- The end of a boot by the area it found, and whether it passed in time. -/
def bootEnds (area : Option Bool) (good : Bool) (s : State) : State :=
  match area, good with
  | some b, true => bootReady b s.sg.recovering (bootCounted s)
  | some b, false => stopSaggar s.sg.recovering (modSg (loadImage b) (bootCounted s))
  | none, _ => stopSaggar s.sg.recovering (modSg (fun g => { g with version := 0, checksum := zeros 32 }) (bootCounted s))

theorem bootEnds_ready (b : Bool) (s : State) : sgActs (bootEnds (some b) true s) = true ∧ (bootEnds (some b) true s).sg.activeB = b
    ∧ (bootEnds (some b) true s).sg.version = (if b then s.sg.areas[1] else s.sg.areas[0]).1 := by
  have h : (bootEnds (some b) true s).sg.face = (true, none, b, (if b then s.sg.areas[1] else s.sg.areas[0]).1) := face_bootReady ..
  generalize bootEnds (some b) true s = y at h ⊢
  exact ⟨congrArg (·.1) h, congrArg (·.2.2.1) h, congrArg (·.2.2.2) h⟩

theorem bootEnds_stopped {area : Option Bool} {good : Bool} (h : area = none ∨ good = false) (s : State) :
    (bootEnds area good s).sg.st = .stopped := by
  unfold bootEnds
  split
  · rcases h with h | h <;> contradiction
  · exact stopSaggar_st ..
  · exact stopSaggar_st ..

/-- Whether a recovery has passed within 500 ms of its fault (R391). -/
def bootInTime (s : State) : Bool := s.sg.recovering.isNone || s.sg.lastFault.all fun f => decide (dtSince f (now s) ≤ msDt 500)

theorem bootInTime_iff (s : State) :
    bootInTime s = true ↔ s.sg.recovering = none ∨ ∀ f, s.sg.lastFault = some f → dtSince f (now s) ≤ msDt 500 := by
  unfold bootInTime
  rw [Bool.or_eq_true, Option.isNone_iff_eq_none]
  rcases s.sg.lastFault with _ | f <;> simp

theorem exec_saggarBootDone (t : DT) (area : Option Bool) (pass : Bool) (s : State) : exec (.saggarBootDone t area pass) s =
    .next (if (moment t s).sg.st ≠ .boot then moment t s else bootEnds area (pass && bootInTime (moment t s)) (moment t s)) := rfl

/-- The end of a boot (R391, R393). -/
theorem gives_saggarBootDone (t : DT) (area : Option Bool) (pass : Bool) (s : State) : Gives (.saggarBootDone t area pass) s fun u =>
    (s.sg.st ≠ .boot → u = moment t s)
      ∧ (s.sg.st = .boot →
          let inTime := s.sg.recovering = none ∨ ∀ f, s.sg.lastFault = some f → dtSince f (now (moment t s)) ≤ msDt 500
          (∀ b, area = some b → pass = true → inTime → sgActs u = true ∧ u.sg.activeB = b
              ∧ u.sg.version = (if b then s.sg.areas[1] else s.sg.areas[0]).1)
            ∧ (area = none ∨ pass = false ∨ ¬ inTime → u.sg.st = .stopped)) := by
  rw [← moment_sg t s]
  refine ⟨_, exec_saggarBootDone .., fun h => if_pos h, fun h => ?_⟩
  generalize moment t s = n at h ⊢
  intro inTime
  rw [if_neg (not_not.mpr h)]
  refine ⟨fun b hb hp ht => ?_, fun hno => bootEnds_stopped ?_ n⟩
  · subst hb hp
    rw [(bootInTime_iff n).mpr ht]
    exact bootEnds_ready b n
  · rcases hno with hno | hno | hno
    · exact .inl hno
    · exact .inr (by rw [hno]; rfl)
    · exact .inr (by rw [eq_false_of_ne_true (mt (bootInTime_iff n).mp hno), Bool.and_false])

end Sys2Proof.Machine

/-! ## The Saggar's log, the host's commands for it, its jobs (R378 to R392) -/
namespace Sys2Proof.Machine

/-! ### The legal log and the verification limit -/

theorem gives_legalSherdCommit (t : DT) (s : State) : Gives (.legalSherdCommit t) s fun u =>
    let m := moment t s
    (s.sg.st = .off ∨ s.sg.st = .boot → u = m)
      ∧ (s.sg.st ≠ .off → s.sg.st ≠ .boot →
          (s.sg.formed = [] → u = m)
            ∧ ∀ q d rest, s.sg.formed = (q, d) :: rest → u.sg.formed = rest ∧ u.sg.committed = q + 1
              ∧ u.sg.log = (s.sg.log ++ [(q, d)]).drop (s.sg.log.length + 1 - 16384)) := by
  rw [← moment_sg t s]
  refine ⟨_, rfl, ?_⟩
  generalize moment t s = n
  have hacts : (sgActs n || n.sg.st == .stopped) = true ↔ n.sg.st ≠ .off ∧ n.sg.st ≠ .boot := by
    unfold sgActs
    cases n.sg.st <;> simp
  refine ⟨fun h => if_neg ?_, fun h1 h2 => ?_⟩
  · rw [hacts]
    rintro ⟨h1, h2⟩
    exact h.elim h1 h2
  · rw [if_pos (hacts.mpr ⟨h1, h2⟩)]
    unfold commitOne
    refine ⟨fun hf => by rw [hf], fun q d rest hf => ?_⟩
    rw [hf]
    dsimp only
    have hsg (p : Prop) [Decidable p] (k : Fin 9) (x : Rec) (y : State) : (if p then deliver 2 x (settle k 1 y) else settle k 1 y).sg = y.sg := by
      split
      · rw [(deliver_within ..).sg rfl, (settle_within ..).sg rfl]
      · exact (settle_within ..).sg rfl
    rw [hsg]
    dsimp only [modSg]
    exact ⟨rfl, rfl, rfl⟩

theorem gives_verifyMaxExpiry (t : DT) (s : State) : Gives (.verifyMaxExpiry t) s fun u =>
    let m := moment t s
    (s.sg.verifyMax * 3600 * 2 ^ 32 ≤ dtSince s.sg.lastVerify (now m) → u.sg = { s.sg with verifyLate := true })
      ∧ (dtSince s.sg.lastVerify (now m) < s.sg.verifyMax * 3600 * 2 ^ 32 → u = m) := by
  rw [← moment_sg t s]
  refine ⟨_, rfl, ?_⟩
  generalize moment t s = n
  refine ⟨fun h => ?_, fun h => if_neg (Nat.not_le.mpr h)⟩
  rw [if_pos h]
  rfl

/-! ### The host's commands -/

theorem resultArea_length (r : SgResult) : (resultArea r).length = 40 := pack_length ..

theorem does_sgReadResult (e : Entry) : Does (.sgReadResult e) specSgReadResult e fun h u t =>
    let job := BitVec.ofNat 32 (le (Entry.args e) 12 4)
    (u.sg.st = .off → t = reject h .hwFault u)
      ∧ (u.sg.st ≠ .off → u.sg.jobs.any (·.id == job) = true → t = reject h .errState u)
      ∧ (u.sg.st ≠ .off → u.sg.jobs.any (·.id == job) = false →
          (u.sg.results.find? (·.job == job) = none → t = fail h .errParam (Entry.offset e 12) .outOfRange u)
            ∧ ∀ r, u.sg.results.find? (·.job == job) = some r →
              t = finishOut h (if u.ident.nfb then .notLegal else .ok) (resultArea r) none u ∧ (resultArea r).length = 40) := by
  refine does_of (fun _ => rfl) fun h u he _ => ?_
  subst he
  intro job
  unfold doSgReadResult sgCmd
  refine ⟨fun ho => if_pos ho, fun ho hj => (if_neg ho).trans (if_pos hj), fun ho hj => ?_⟩
  rw [if_neg ho]
  dsimp only
  rw [if_neg (show ¬ (u.sg.jobs.any (·.id == job)) = true by rw [hj]; decide)]
  refine ⟨fun hr => ?_, fun r hr => ⟨?_, resultArea_length r⟩⟩ <;> rw [show u.sg.results.find? (·.job == job) = _ from hr]

theorem does_sgStatus (e : Entry) : Does (.sgStatus e) specSgStatus e fun h u t =>
    (u.sg.st = .off → t = reject h .hwFault u)
      ∧ (u.sg.st ≠ .off → le (Entry.args e) 0 1 = 0 →
          t = finish h .ok [(16, 1, (sealCode u.sg.sealSt : Int)), (17, 1, (sgStateCode u.sg.st : Int)), (18, 2, ((queuedJobs u).length : Int)),
            (20, 4, (auditOf u : Int)), (24, 8, dtInt (dueDate u.sg))] u)
      ∧ (u.sg.st ≠ .off → le (Entry.args e) 0 1 ≠ 0 →
          t = finish h .ok [(16, 4, (u.sg.version.toNat : Int)), (20, 4, (le u.sg.checksum 0 4 : Int))] u) := by
  refine does_of (fun _ => rfl) fun h u he _ => ?_
  subst he
  unfold doSgStatus sgCmd
  refine ⟨fun ho => if_pos ho, fun ho h0 => ?_, fun ho h0 => ?_⟩ <;> rw [if_neg ho] <;> dsimp only
  · rw [if_pos h0]
  · rw [if_neg h0]

/-- A request is judged and queued (R378, R381). -/
theorem does_sgRequestMeasure (e : Entry) (c : Fin 64) (hc : e.target.toNat = c.val) :
    Does (.sgRequestMeasure e) specSgRequestMeasure e fun h u t =>
      let a := Entry.args e
      let r : Request :=
        { quantity := le a 0 1, sel := 0, duration := le a 4 4, start := BitVec.ofNat 64 (le a 8 8), expected := none, bandwidth := 0,
          lport := false }
      (u.sg.st = .off → t = reject h .hwFault u)
        ∧ (u.sg.st ≠ .off → judge r c u = some .state → t = reject h .errState u)
        ∧ (u.sg.st ≠ .off → judge r c u = some .resource → t = reject h .noResource u)
        ∧ (u.sg.st ≠ .off → judge r c u = some .duration → t = fail h .errParam (Entry.offset e 4) .outOfRange u)
        ∧ (u.sg.st ≠ .off → judge r c u = some .quantity → t = fail h .errParam (Entry.offset e 0) .outOfRange u)
        ∧ (u.sg.st ≠ .off → judge r c u = none → ∃ j v, (j, v) = queueJob r c u
            ∧ t = finish h .ok [(16, 4, (j.id.toNat : Int)), (24, 8, dtInt j.planned)] v
            ∧ v.sg.jobs = u.sg.jobs ++ [j] ∧ j.id = u.sg.nextJob ∧ j.running = false ∧ r.start.toNat ≤ j.planned.toNat) := by
  refine does_of (fun _ => rfl) fun h u he _ => ?_
  subst he
  intro a r
  unfold doSgRequestMeasure sgCmd
  dsimp only
  rw [idx_eq_some hc]
  dsimp only
  refine ⟨fun ho => if_pos ho, fun ho hj => ?_, fun ho hj => ?_, fun ho hj => ?_, fun ho hj => ?_, fun ho hj => ?_⟩ <;>
    rw [if_neg ho, show judge r c u = _ from hj]
  refine ⟨(queueJob r c u).1, (queueJob r c u).2, rfl, rfl, rfl, rfl, rfl, ?_⟩
  change r.start.toNat ≤ (ite _ _ _ : DT).toNat
  split
  next hlt => exact Nat.le_of_lt hlt
  next => exact Nat.le_refl _

/-! ### Jobs -/

/-- A queued job starts in its turn (R381). -/
theorem gives_saggarJobStart (t : DT) (job : BitVec 32) (tone : ToneReading) (path : Fin 64) (s : State) :
    Gives (.saggarJobStart t job tone path) s fun u =>
      let m := moment t s
      (s.sg.jobs.find? (·.id == job) = none → u = m)
        ∧ ∀ j, s.sg.jobs.find? (·.id == job) = some j →
          let first := sgActs m = true ∧ isRunning m = true ∧ canStart j path m = true
            ∧ s.sg.jobs.any (fun k => beforeJob k j && canStart k path m) = false
          (¬ first → u = m)
            ∧ (first → levelJob j = true → slipForSaggar m = false → u = claimSlip m)
            ∧ (first → levelJob j = false ∨ slipForSaggar m = true → ∀ (c : Fin 64) x, j.ctx = c.val → choosePath j.pathSel c m = some x →
                u = endSlip (startJob j x c path tone m)) := by
  rw [← moment_sg t s]
  refine ⟨_, rfl, ?_⟩
  generalize moment t s = n
  refine ⟨fun h => by rw [h], fun j hj => ?_⟩
  dsimp only
  rw [hj]
  dsimp only
  have hiff : (sgActs n = true ∧ isRunning n = true ∧ canStart j path n = true
      ∧ n.sg.jobs.any (fun k => beforeJob k j && canStart k path n) = false) ↔
      ¬ (!sgActs n || !isRunning n || !canStart j path n || n.sg.jobs.any (fun k => beforeJob k j && canStart k path n)) = true := by
    simp only [Bool.or_eq_true, Bool.not_eq_true', not_or, Bool.not_eq_false, Bool.not_eq_true, and_assoc]
  refine ⟨fun h => if_pos (not_not.mp (mt hiff.mpr h)), fun h hl hs => ?_, fun h hslip c x hc hx => ?_⟩ <;> rw [if_neg (hiff.mp h)]
  · exact if_pos (by rw [hl, hs]; rfl)
  · rw [if_neg (by rcases hslip with h | h <;> rw [h] <;> simp), idx_eq_some hc]
    dsimp only
    rw [hx]

/-- No end correction belongs to a job that is not a level job. -/
theorem measured_cEnd {j : Job} {r : JobOutcome} {s : State} (h : levelJob j = false) : (measured j r s).1.cEnd = 0 := by
  have hq : ¬ j.quantity < 2 := of_decide_eq_false h
  unfold measured
  dsimp only
  split
  next hq' => omega
  next hq' => omega
  next => split <;> rfl
  next =>
    split
    · split <;> rfl
    · rfl
  next => split <;> rfl

theorem levelFree_of {src : Nat} {p : Nat × Nat} {s : State} {a : Int} (h : levelOf src p s = some a) : levelFree src p s = (a, s) := by
  unfold levelFree
  rw [h]

/-- A level that is read without the antenna takes half the sum of its corrections (R378, R379). -/
theorem measured_level {j : Job} {r : JobOutcome} {s : State} {a : Int} (ha : levelOf (jobSource j s) r.power s = some a) (hq : j.quantity = 1) :
    (measured j r s).1.value = correctedLevel a j.cStart (measured j r s).1.cEnd
      ∧ (measured j r s).1.unc = if jobSource j s < 8 then 100 else 50 := by
  unfold measured
  dsimp only
  rw [levelFree_of ha]
  split
  next hq' => omega
  next =>
    rw [if_pos hq]
    exact ⟨rfl, by split <;> rfl⟩
  next hq' => omega
  next hq' => omega
  next h0 h1 _ _ => exact absurd hq h1

/-- What a job that has run is judged on (R385). -/
def jobVerdict (j : Job) (r : JobOutcome) (s : State) : Verdict :=
  let m := (measured j r s).1
  let n := (measured j r s).2
  { finish := dtAdd j.began (msDt j.duration), value := m.value, unc := m.unc, cEnd := m.cEnd, ident := r.identity,
    invalid := invalidBits j r m n, broken := j.broken || (match j.path with | some p => n.cx.paths[p].broken | none => false) }

/-- A running job has lasted its duration (R379, R381, R385). -/
theorem gives_saggarJobEnd (t : DT) (job : BitVec 32) (r : JobOutcome) (s : State) : Gives (.saggarJobEnd t job r) s fun u =>
    let m := moment t s
    (s.sg.jobs.find? (·.id == job) = none → u = m)
      ∧ ∀ j, s.sg.jobs.find? (·.id == job) = some j →
        let finish := dtAdd j.began (msDt j.duration)
        (j.running = false ∨ (now m).toNat < finish.toNat → u = m)
          ∧ (j.running = true → finish.toNat ≤ (now m).toNat → levelJob j = true → slipForSaggar m = false → u = claimSlip m)
          ∧ (j.running = true → finish.toNat ≤ (now m).toNat → levelJob j = false ∨ slipForSaggar m = true →
              let k := (measured j r m).1
              let n := (measured j r m).2
              (∃ v wide, v.finish = finish ∧ v.ident = (r.identity : Int) ∧ v.cEnd = k.cEnd ∧ v.value = k.value ∧ v.unc = k.unc
                  ∧ v.invalid = invalidBits j r k n ∧ u = endSlip (releaseJob j (dropJob job (writeResult j v wide n))))
                ∧ (levelJob j = false → k.cEnd = 0)
                ∧ (∀ a b, levelOf (jobSource j m) r.power m = some a → levelOf (jobSource j m) r.tone.tone m = some b → j.quantity = 1 →
                    k.value = correctedLevel a j.cStart k.cEnd ∧ k.unc = if jobSource j m < 8 then 100 else 50)) := by
  rw [← moment_sg t s]
  refine ⟨_, rfl, ?_⟩
  generalize moment t s = n
  refine ⟨fun h => by dsimp only; rw [h], fun j hj => ?_⟩
  dsimp only
  rw [hj]
  dsimp only
  have hgo (hr : j.running = true) (hd : (dtAdd j.began (msDt j.duration)).toNat ≤ (now n).toNat) :
      ¬ (!j.running || decide ((now n).toNat < (dtAdd j.began (msDt j.duration)).toNat)) = true := by
    rw [hr, decide_eq_false (Nat.not_lt.mpr hd)]
    decide
  refine ⟨fun h => if_pos ?_, fun hr hd hl hs => ?_, fun hr hd hslip =>
    ⟨⟨jobVerdict j r n, wideJob j (measured j r n).2, rfl, rfl, rfl, rfl, rfl, rfl, ?_⟩, measured_cEnd, fun a b ha _ => measured_level ha⟩⟩
  · rcases h with h | h
    · rw [h]; rfl
    · rw [decide_eq_true h, Bool.or_true]
  · exact (if_neg (hgo hr hd)).trans (if_pos (by rw [hl, hs]; rfl))
  · rw [if_neg (hgo hr hd), if_neg (by rcases hslip with h | h <;> rw [h] <;> simp)]
    rfl

/-- Settles O52. That a seal input makes no transition while the Saggar does not act is the model's reading (log entry 50); the loss of
VDD_SG clears the remembered fault with the rest of its SRAM. -/
theorem saggarSealsJudgesAndMeasures : Obligations.SaggarSealsJudgesAndMeasures :=
  ⟨gives_sealSwChange, gives_tamperNAssert, gives_tamperNRelease, gives_vddSgArrival, gives_vddSgLoss, gives_saggarFault, gives_saggarBootDone,
    gives_legalSherdCommit, gives_verifyMaxExpiry, does_sgReadResult, does_sgStatus, does_sgRequestMeasure, gives_saggarJobStart,
    gives_saggarJobEnd⟩

end Sys2Proof.Machine

/-! ## Restart orders, pins, images, Dormant, power fail, AVS and DRAM errors (R421, R431, R482 to R498) -/
namespace Sys2Proof.Machine

/-! ### Orders and failed starts -/

theorem restartOrder_eq_true {value : BitVec 32} {code : Nat} :
    restartOrder value code = true ↔ value.toNat / 65536 = 0x5A3C ∧ value.toNat / 256 % 4 = code := by
  simp only [restartOrder, Bool.and_eq_true, beq_iff_eq]

theorem warmIfRunning_runs {temp : Int} {s : State} (h : isRunning s = true) (h' : s.power.entering = false) :
    warmIfRunning temp s = warmStart temp false none s := by
  unfold warmIfRunning
  rw [h, h', Bool.not_false, Bool.and_self, if_pos rfl]

theorem warmIfRunning_ignored {temp : Int} {s : State} (h : ¬ (isRunning s = true ∧ s.power.entering = false)) :
    warmIfRunning temp s = s := by
  unfold warmIfRunning
  exact if_neg (by simpa using h)

theorem faultRestart_stopped {refetch : Bool} {s : State} (h : isRunning s = false) : faultRestart refetch s = s := by
  unfold faultRestart
  rw [h, Bool.not_false, if_pos rfl]

theorem faultRestart_early {refetch : Bool} {s : State} (h : isRunning s = true)
    (h' : dtSince s.power.runningSince (now s) < 60 * 2 ^ 32) : faultRestart refetch s = failRunning 4 s := by
  unfold faultRestart
  rw [h, Bool.not_true, if_neg Bool.false_ne_true, if_pos h']

theorem faultRestart_late {refetch : Bool} {s : State} (h : isRunning s = true)
    (h' : 60 * 2 ^ 32 ≤ dtSince s.power.runningSince (now s)) : faultRestart refetch s = warmStart s.power.tHot refetch none s := by
  unfold faultRestart
  rw [h, Bool.not_true, if_neg Bool.false_ne_true, if_neg (Nat.not_lt.mpr h')]

theorem gives_restartWarmWrite (t : DT) (value : BitVec 32) (s : State) : Gives (.restartWarmWrite t value) s fun u =>
    let m := moment t s
    let ordered := regOpen m = true ∧ value.toNat / 65536 = 0x5A3C ∧ value.toNat / 256 % 4 = 1
    let may := isRunning m = true ∧ s.power.entering = false
    (ordered → may → u = warmStart s.power.tHot false none m) ∧ (¬ ordered ∨ ¬ may → u = m) := by
  rw [← moment_power t s]
  refine ⟨_, rfl, ?_⟩
  generalize moment t s = n
  intro m ordered may
  have hord : (regOpen n && restartOrder value 1) = true ↔ ordered := by
    rw [Bool.and_eq_true, restartOrder_eq_true]
  refine ⟨fun ho hm => ?_, fun h => ?_⟩
  · rw [if_pos (hord.mpr ho)]
    exact warmIfRunning_runs hm.1 hm.2
  · by_cases ho : ordered
    · rw [if_pos (hord.mpr ho)]
      exact warmIfRunning_ignored (h.resolve_left (not_not_intro ho))
    · exact if_neg (mt hord.mp ho)

theorem gives_restartColdWrite (t : DT) (value : BitVec 32) (s : State) : Gives (.restartColdWrite t value) s fun u =>
    let m := moment t s
    let ordered := regOpen m = true ∧ coldAllowed m = true ∧ value.toNat / 65536 = 0x5A3C ∧ value.toNat / 256 % 4 = 2
    (ordered → u = orderedCold m) ∧ (¬ ordered → u = m) := by
  refine ⟨_, rfl, ?_⟩
  show let m := moment t s; let ordered := _; (ordered → _ = orderedCold m) ∧ (¬ ordered → _ = m)
  intro m ordered
  have hord : (regOpen m && coldAllowed m && restartOrder value 2) = true ↔ ordered := by
    rw [Bool.and_eq_true, Bool.and_eq_true, restartOrder_eq_true, and_assoc]
  exact ⟨fun h => if_pos (hord.mpr h), fun h => if_neg (mt hord.mp h)⟩

theorem gives_warmNFall (t : DT) (temp : Int) (s : State) : Gives (.warmNFall t temp) s fun u => ∃ v,
    v.power = { s.power with warmN := false }
      ∧ (isRunning s = true → s.power.entering = false → u = warmStart temp false none v)
      ∧ (isRunning s = false ∨ s.power.entering = true → u = v) := by
  refine ⟨_, rfl, modPower (fun p => { p with warmN := false }) (moment t s), by simp, fun hr he => ?_, fun h => ?_⟩
  · exact warmIfRunning_runs (by simpa [isRunning] using hr) (by simpa using he)
  · refine warmIfRunning_ignored fun hc => ?_
    have hr : isRunning s = true := by simpa [isRunning] using hc.1
    have he : s.power.entering = false := by simpa using hc.2
    simp [hr, he] at h

theorem gives_setterWatchdogExpiry (t : DT) (b : Bool) (s : State) : Gives (.setterWatchdogExpiry t b) s fun u =>
    let m := moment t s
    (isRunning s = false → u = m)
      ∧ (isRunning s = true → dtSince s.power.runningSince (now m) < 60 * 2 ^ 32 → u = failRunning 4 m)
      ∧ (isRunning s = true → 60 * 2 ^ 32 ≤ dtSince s.power.runningSince (now m) → u = warmStart s.power.tHot false none m) := by
  unfold isRunning
  rw [← moment_power t s]
  exact ⟨_, rfl, faultRestart_stopped, faultRestart_early, faultRestart_late⟩

/-! ### PORST_N -/

theorem orphanJobs_sg (s : State) : (orphanJobs s).sg.st = s.sg.st ∧ (orphanJobs s).sg.log = s.sg.log
    ∧ (orphanJobs s).sg.counters = s.sg.counters := ⟨rfl, rfl, rfl⟩

theorem clearBlocks_sg (keepLink : Bool) (s : State) : (clearBlocks keepLink s).sg.st = s.sg.st ∧ (clearBlocks keepLink s).sg.log = s.sg.log
    ∧ (clearBlocks keepLink s).sg.counters = s.sg.counters := by
  unfold clearBlocks
  dsimp only
  simp [orphanJobs]

theorem clearBlocks_vault (keepLink : Bool) (s : State) : (clearBlocks keepLink s).vault = s.vault :=
  (clearBlocks_within keepLink s).vault rfl

theorem bootSaggar_st (b : Bool) (s : State) : (bootSaggar b s).sg.st = if b then .boot else .off := by
  cases b <;> rfl

theorem gives_porstNRise (t : DT) (b : Boot) (s : State) : Gives (.porstNRise t b) s fun u =>
    (s.power.porstN = true → u = moment t s)
      ∧ (s.power.porstN = false → ∃ v, u = coldStart 3 false false none v ∧ v.power.boot = b ∧ v.power.porstN = true ∧ v.power.fails = 0
          ∧ v.sg.st = (if b.vddSg then .boot else .off) ∧ v.vault = s.vault) := by
  rw [← moment_power t s, ← moment_vault t s]
  refine ⟨_, rfl, ?_⟩
  generalize moment t s = n
  refine ⟨fun h => if_pos h, fun h => ?_⟩
  rw [if_neg (by rw [h]; exact Bool.false_ne_true)]
  exact ⟨_, rfl, rfl, rfl, rfl, bootSaggar_st .., rfl⟩

theorem gives_porstNFall (t : DT) (s : State) : Gives (.porstNFall t) s fun u =>
    (s.power.porstN = false → u = moment t s)
      ∧ (s.power.porstN = true → u.power = PowerSt.reset ∧ u.time = TimeSt.reset ∧ u.mp = Mport.reset ∧ u.cx = CtxSt.reset
          ∧ u.rf = RfSt.reset ∧ u.vault = s.vault ∧ u.sg.st = s.sg.st ∧ u.sg.log = s.sg.log ∧ u.sg.counters = s.sg.counters) := by
  rw [← moment_power t s, ← moment_vault t s, ← moment_sg t s]
  refine ⟨_, rfl, ?_⟩
  generalize moment t s = n
  refine ⟨fun h => if_neg (by rw [h]; exact Bool.false_ne_true), fun h => ?_⟩
  rw [if_pos h]
  obtain ⟨hst, hlog, hcount⟩ := clearBlocks_sg false n
  refine ⟨rfl, rfl, rfl, rfl, rfl, ?_, ?_, ?_, ?_⟩
  · simp only [modPower_vault, modTime_vault, modMp_vault, modHost_vault, clearBlocks_vault]
  · simpa using hst
  · simpa using hlog
  · simpa using hcount

/-! ### Images of the host, limits and trips -/

theorem gives_imgGo (t : DT) (s : State) : Gives (.imgGo t) s fun u =>
    let m := moment t s
    let n := s.power.imgLen.toNat
    (bootOpen m = false ∨ s.power.imgBusy = true → u = m)
      ∧ (bootOpen m = true → s.power.imgBusy = false →
          (4096 ≤ n ∧ n ≤ 16777216 → u.power = { s.power with imgBusy := true, imgResult := 0 })
            ∧ (n < 4096 ∨ 16777216 < n → u.power = { s.power with imgResult := 4 })) := by
  rw [← moment_power t s]
  refine ⟨_, rfl, ?_⟩
  generalize moment t s = m
  intro m' n
  refine ⟨fun h => if_pos (by simpa using h), fun ho hb => ?_⟩
  rw [if_neg (by rw [ho, hb]; decide)]
  refine ⟨fun h => ?_, fun h => ?_⟩
  · rw [if_pos h]
    rfl
  · rw [if_neg (by omega)]
    rfl

/-- What follows the end of a fetch with the result `r` (R490 to R492). -/
def fetched (secver r : Nat) (s : State) : State :=
  match s.power.st, r with
  | .recovery, 1 => coldStart 3 true true (some secver) s
  | .coldStart, 1 => coldTail orderedCold false secver s
  | .coldStart, 2 | .coldStart, 3 => failRunning 1 s
  | _, _ => s

/-- The fetch has ended with the result `r`. -/
def fetchEnded (r : Nat) : State → State := modPower fun p => { p with imgBusy := false, imgResult := r }

theorem fetched_other {secver r : Nat} {s : State} (h1 : r ≠ 1) (h2 : s.power.st = .coldStart → r ≠ 2 ∧ r ≠ 3) : fetched secver r s = s := by
  unfold fetched
  split <;> simp_all

theorem fetched_outcomes (secver r : Nat) (v : State) :
    (v.power.st = .recovery → r = 1 → fetched secver r v = coldStart 3 true true (some secver) v)
      ∧ (v.power.st = .coldStart → r = 1 → fetched secver r v = coldTail orderedCold false secver v)
      ∧ (v.power.st = .coldStart → r = 2 ∨ r = 3 → fetched secver r v = failRunning 1 v)
      ∧ (v.power.st = .recovery → r ≠ 1 → fetched secver r v = v)
      ∧ (v.power.st = .coldStart → r ≠ 1 → r ≠ 2 → r ≠ 3 → fetched secver r v = v) := by
  refine ⟨fun h1 h2 => ?_, fun h1 h2 => ?_, fun h1 h2 => ?_, fun h1 h2 => ?_, fun h1 h2 h3 h4 => fetched_other h2 fun _ => ⟨h3, h4⟩⟩
  · simp only [fetched, h1, h2]
  · simp only [fetched, h1, h2]
  · rcases h2 with h2 | h2 <;> simp only [fetched, h1, h2]
  · exact fetched_other h2 fun h => absurd (h1.symm.trans h) (by decide)

theorem fetched_fetchEnded (secver r : Nat) (n : State) : ∃ v, v.power = { n.power with imgBusy := false, imgResult := r }
    ∧ (n.power.st = .recovery → r = 1 → fetched secver r (fetchEnded r n) = coldStart 3 true true (some secver) v)
    ∧ (n.power.st = .coldStart → r = 1 → fetched secver r (fetchEnded r n) = coldTail orderedCold false secver v)
    ∧ (n.power.st = .coldStart → r = 2 ∨ r = 3 → fetched secver r (fetchEnded r n) = failRunning 1 v)
    ∧ (n.power.st = .recovery → r ≠ 1 → fetched secver r (fetchEnded r n) = v)
    ∧ (n.power.st = .coldStart → r ≠ 1 → r ≠ 2 → r ≠ 3 → fetched secver r (fetchEnded r n) = v) :=
  ⟨fetchEnded r n, rfl, fetched_outcomes secver r (fetchEnded r n)⟩

theorem gives_imageFetchDone (t : DT) (result : Fin 6) (secver : Nat) (s : State) : Gives (.imageFetchDone t result secver) s fun u =>
    let r := if result.val = 1 ∧ secver < s.ident.minSecver.toNat then 3 else result.val
    (s.power.imgBusy = false → u = moment t s)
      ∧ (s.power.imgBusy = true → ∃ v, v.power = { s.power with imgBusy := false, imgResult := r }
          ∧ (s.power.st = .recovery → r = 1 → u = coldStart 3 true true (some secver) v)
          ∧ (s.power.st = .coldStart → r = 1 → u = coldTail orderedCold false secver v)
          ∧ (s.power.st = .coldStart → r = 2 ∨ r = 3 → u = failRunning 1 v)
          ∧ (s.power.st = .recovery → r ≠ 1 → u = v)
          ∧ (s.power.st = .coldStart → r ≠ 1 → r ≠ 2 → r ≠ 3 → u = v)) := by
  rw [← moment_power t s, ← moment_ident t s]
  refine ⟨if !(moment t s).power.imgBusy then moment t s
    else
      let r := if result.val = 1 ∧ secver < (moment t s).ident.minSecver.toNat then 3 else result.val
      fetched secver r (fetchEnded r (moment t s)), rfl, ?_⟩
  generalize moment t s = n
  intro r
  refine ⟨fun h => if_pos (by rw [h]; rfl), fun h => ?_⟩
  rw [if_neg (by rw [h]; decide)]
  exact fetched_fetchEnded secver r n

theorem gives_startTimeout (t : DT) (s : State) : Gives (.startTimeout t) s fun u =>
    let m := moment t s
    let span := dtSince s.power.startAt (now m)
    let late := (s.power.st = .coldStart ∧ s.power.waitImage = true ∧ msDt 3000 ≤ span) ∨ (s.power.waking = true ∧ msDt 1000 ≤ span)
    (late → u = failRunning 6 m) ∧ (¬ late → u = m) := by
  rw [← moment_power t s]
  refine ⟨_, rfl, ?_⟩
  generalize moment t s = n
  intro m span late
  have hlate : ((n.power.st == .coldStart && n.power.waitImage && decide (msDt 3000 ≤ span)) || (n.power.waking && decide (msDt 1000 ≤ span)))
      = true ↔ late := by
    simp only [Bool.and_eq_true, Bool.or_eq_true, beq_iff_eq, decide_eq_true_eq, and_assoc, late]
  exact ⟨fun h => if_pos (hlate.mpr h), fun h => if_neg (mt hlate.mp h)⟩

theorem gives_runningFailCountClear (t : DT) (s : State) : Gives (.runningFailCountClear t) s fun u =>
    let m := moment t s
    let held := isRunning s = true ∧ 60 * 2 ^ 32 ≤ dtSince s.power.runningSince (now m)
    (held → u.power = { s.power with fails := 0 }) ∧ (¬ held → u = m) := by
  unfold isRunning
  rw [← moment_power t s]
  refine ⟨_, rfl, ?_⟩
  generalize moment t s = n
  intro m held
  refine ⟨fun h => ?_, fun h => if_neg (by rw [Bool.and_eq_true, decide_eq_true_eq]; exact h)⟩
  rw [if_pos (by rw [Bool.and_eq_true, decide_eq_true_eq]; exact h)]
  rfl

theorem gives_thermalTrip (t : DT) (s : State) : Gives (.thermalTrip t) s fun u =>
    (s.power.porstN = true → s.power.st ≠ .halted → u.power.st = .halted ∧ u.power.coreEn = true ∧ u.power.vid = 10 ∧ u.power.faultLow = true)
      ∧ (s.power.porstN = false ∨ s.power.st = .halted → u = moment t s) := by
  rw [← moment_power t s]
  refine ⟨_, rfl, ?_⟩
  generalize moment t s = n
  refine ⟨fun h1 h2 => ?_, fun h => if_neg ?_⟩
  · rw [if_pos (by simpa using ⟨h1, h2⟩)]
    exact ⟨rfl, rfl, rfl, rfl⟩
  · rcases h with h | h <;> simp [h]

end Sys2Proof.Machine

/-! ## Dormant, the power-fail warning, AVS and DRAM errors (R431, R443, R448, R482, R485, R487, R495, R496, R498) -/
namespace Sys2Proof.Machine

/-! ### The entry to Dormant begins -/

theorem notifyRise_received (old s : State) : (notifyRise old s).mp.received = s.mp.received := by
  unfold notifyRise
  split <;> rfl

theorem mpResult_received (e : CqEntry) (area : List Byte) (s : State) : (mpResult e area s).mp.received = s.mp.received := by
  unfold mpResult
  rw [notifyRise_received, (settle_within ..).mp rfl]
  rfl

theorem foldl_abortReceived_received (l : List (List Byte)) (s : State) : (l.foldl abortReceived s).mp.received = s.mp.received :=
  fold_keep (f := abortReceived) (g := fun s => s.mp.received) (fun _ _ => mpResult_received ..) _ _

theorem abortNotBegun_received (s : State) : (abortNotBegun s).mp.received = [] := by
  unfold abortNotBegun
  dsimp only
  rw [foldl_abortReceived_received]
  rfl

theorem dormantCheck_enters {s : State} (hr : isRunning s = true) (hq : s.power.dormantReq = true) (ha : s.power.dormantArmed = true)
    (he : s.power.entering = false) (hj : joined s = false) :
    dormantCheck s = abortNotBegun (modPower (fun p => { p with entering := true }) s) := by
  unfold dormantCheck
  exact if_pos (by rw [hr, hq, ha, he, hj]; rfl)

theorem dormantCheck_stays {s : State} (h : isRunning s = false ∨ s.power.dormantReq = false ∨ s.power.dormantArmed = false
    ∨ s.power.entering = true ∨ joined s = true) : dormantCheck s = s := by
  unfold dormantCheck
  refine if_neg ?_
  rcases h with h | h | h | h | h <;> rw [h] <;> simp

theorem gives_dormantReqHeld (t : DT) (s : State) : Gives (.dormantReqHeld t) s fun u => ∃ v,
    v.power = { s.power with dormantReq := s.power.porstN || s.power.dormantReq }
      ∧ (isRunning s = true → v.power.dormantReq = true → s.power.dormantArmed = true → s.power.entering = false → joined s = false →
          u = abortNotBegun (modPower (fun p => { p with entering := true }) v) ∧ u.power.entering = true ∧ u.mp.received = [])
      ∧ (isRunning s = false ∨ v.power.dormantReq = false ∨ s.power.dormantArmed = false ∨ s.power.entering = true ∨ joined s = true → u = v) := by
  unfold isRunning joined
  rw [← moment_power t s, ← moment_pair t s]
  refine ⟨_, rfl, ?_⟩
  generalize moment t s = n
  refine ⟨modPower (fun p => { p with dormantReq := p.porstN || p.dormantReq }) n, rfl, fun hr hq ha he hj => ?_, fun h => dormantCheck_stays h⟩
  rw [dormantCheck_enters (s := modPower (fun p => { p with dormantReq := p.porstN || p.dormantReq }) n) hr hq ha he hj]
  refine ⟨rfl, ?_, abortNotBegun_received _⟩
  rw [(abortNotBegun_within _).power rfl]
  rfl

/-! ### Its end, and the wake -/

theorem enterDormant_power (s : State) : (enterDormant s).power.st = .dormant ∧ (enterDormant s).power.coreEn = false
    ∧ (enterDormant s).power.entering = false := ⟨rfl, rfl, rfl⟩

theorem stopPlls_backup (s : State) : (stopPlls s).time.backup = true := rfl

theorem enterDormant_backup (s : State) : (enterDormant s).time.backup = true := by
  unfold enterDormant
  simp only [modPower_time, modHost_time, modMp_time, modMnt_time]
  rw [(clearMessages_within _).time_eq rfl rfl]
  exact stopPlls_backup _

theorem wake_dormant {s : State} (h : s.power.st = .dormant) :
    (wake s).power = { s.power with st := .warmStart, waking := true, startAt := now s, coreEn := true } := by
  unfold wake
  rw [if_pos h]
  rfl

theorem wake_entering {s : State} (h : s.power.st ≠ .dormant) (he : s.power.entering = true) :
    (wake s).power = { s.power with wakeAfter := true } := by
  unfold wake
  rw [if_neg h, if_pos he]
  rfl

theorem wake_ignored {s : State} (h : s.power.st ≠ .dormant) (he : s.power.entering = false) : wake s = s := by
  unfold wake
  rw [if_neg h, he, if_neg Bool.false_ne_true]

theorem endDormant_idle {s : State} (h : s.power.entering = false) : endDormant s = s := by
  unfold endDormant
  rw [h, if_neg Bool.false_ne_true]

theorem endDormant_sleeps {s : State} (h : s.power.entering = true) (hw : s.power.wakeAfter = false) : endDormant s = enterDormant s := by
  unfold endDormant
  dsimp only
  rw [if_pos h, hw, if_neg Bool.false_ne_true]

theorem endDormant_wakes {s : State} (h : s.power.entering = true) (hw : s.power.wakeAfter = true) :
    endDormant s = wake (enterDormant s) := by
  unfold endDormant
  dsimp only
  rw [if_pos h, if_pos hw]

theorem endDormant_outcomes (s : State) : (s.power.entering = false → endDormant s = s)
    ∧ (s.power.entering = true → s.power.wakeAfter = false → (endDormant s).power.st = .dormant ∧ (endDormant s).power.coreEn = false
        ∧ (endDormant s).power.entering = false ∧ (endDormant s).time.backup = true)
    ∧ (s.power.entering = true → s.power.wakeAfter = true → (endDormant s).power.st = .warmStart ∧ (endDormant s).power.waking = true) := by
  obtain ⟨hst, hcore, hent⟩ := enterDormant_power s
  refine ⟨endDormant_idle, fun h hw => ?_, fun h hw => ?_⟩
  · rw [endDormant_sleeps h hw]
    exact ⟨hst, hcore, hent, enterDormant_backup s⟩
  · rw [endDormant_wakes h hw, wake_dormant hst]
    exact ⟨rfl, rfl⟩

theorem gives_dormantReqFall (t : DT) (s : State) : Gives (.dormantReqFall t) s fun u => u.power.dormantReq = false ∧ u.power.dormantArmed = true
    ∧ (s.power.st = .dormant → u.power.st = .warmStart ∧ u.power.waking = true ∧ u.power.coreEn = true)
    ∧ (s.power.st ≠ .dormant → u.power = { s.power with
        dormantReq := false, dormantArmed := true, wakeAfter := s.power.wakeAfter || s.power.entering }) := by
  rw [← moment_power t s]
  refine ⟨_, rfl, ?_⟩
  generalize moment t s = n
  generalize hv : modPower (fun p => { p with dormantReq := false, dormantArmed := true }) n = v
  have hp : v.power = { n.power with dormantReq := false, dormantArmed := true } := by rw [← hv]; rfl
  by_cases hd : n.power.st = .dormant
  · have hw := wake_dormant (s := v) (by rw [hp]; exact hd)
    rw [hw, hp]
    exact ⟨rfl, rfl, fun _ => ⟨rfl, rfl, rfl⟩, fun h => absurd hd h⟩
  · have hd' : v.power.st ≠ .dormant := by rw [hp]; exact hd
    have hw : (wake v).power = { n.power with dormantReq := false, dormantArmed := true, wakeAfter := n.power.wakeAfter || n.power.entering } := by
      cases he : n.power.entering
      · rw [wake_ignored hd' (by rw [hp]; exact he), hp, Bool.or_false]
      · rw [wake_entering hd' (by rw [hp]; exact he), hp, Bool.or_true]
    rw [hw]
    exact ⟨rfl, rfl, fun h => absurd h hd, fun _ => rfl⟩

theorem wake_outcomes (t : DT) (s : State) :
    (s.power.st = .dormant → (wake (moment t s)).power
      = { s.power with st := .warmStart, waking := true, startAt := now (moment t s), coreEn := true })
      ∧ (s.power.st ≠ .dormant → s.power.entering = false → wake (moment t s) = moment t s)
      ∧ (s.power.st ≠ .dormant → s.power.entering = true → (wake (moment t s)).power = { s.power with wakeAfter := true }) := by
  rw [← moment_power t s]
  exact ⟨wake_dormant, wake_ignored, wake_entering⟩

theorem gives_vddCoreInRange (t : DT) (temp : Int) (s : State) : Gives (.vddCoreInRange t temp) s fun u =>
    (s.power.waking = false → u = moment t s)
      ∧ (s.power.waking = true → s.power.boot.spllLocks = false → u = failRunning 5 (moment t s))
      ∧ (s.power.waking = true → s.power.boot.spllLocks = true → ∃ v, u = reachRunning v ∧ v.sg.halted = false) := by
  rw [← moment_power t s]
  refine ⟨_, rfl, ?_⟩
  generalize moment t s = n
  refine ⟨fun h => if_pos (by rw [h]; rfl), fun h h' => ?_, fun h h' => ?_⟩
  · rw [if_neg (by rw [h]; decide), if_pos (by rw [h']; rfl)]
  · rw [if_neg (by rw [h]; decide), if_neg (by rw [h']; decide)]
    refine ⟨_, rfl, ?_⟩
    rw [tagAll_l_sg]
    rfl

/-! ### The power-fail warning -/

theorem pauseStores_power (s : State) : (pauseStores s).power = s.power := by
  unfold pauseStores
  split
  · rfl
  · exact (rejectAll_within ..).power rfl

theorem pauseStores_paused (s : State) : (pauseStores s).mnt.paused = s.mnt.paused := by
  unfold pauseStores
  split
  · rfl
  · rw [(rejectAll_within ..).mnt rfl]
    rfl

theorem gives_pfailNFall (t : DT) (s : State) : Gives (.pfailNFall t) s fun u =>
    (s.power.porstN = false → u = moment t s)
      ∧ (s.power.porstN = true → u.power.pfail = true ∧ u.power.latched = s.power.latched ||| BitVec.twoPow 5 2 ∧ u.mnt.paused = true) := by
  rw [← moment_power t s]
  refine ⟨_, rfl, ?_⟩
  generalize moment t s = n
  refine ⟨fun h => if_pos (by rw [h]; rfl), fun h => ?_⟩
  rw [if_neg (by rw [h]; decide), pauseStores_power, pauseStores_paused]
  exact ⟨rfl, rfl, rfl⟩

theorem gives_pfailNRise (t : DT) (s : State) : Gives (.pfailNRise t) s fun u =>
    (s.power.pfail = false → u = moment t s)
      ∧ (s.power.pfail = true → u.power = { s.power with pfail := false }
          ∧ u.mnt = { s.mnt with paused := s.power.st == .dormant, stores := s.mnt.stores ++ s.mnt.stalled, stalled := [] }) := by
  rw [← moment_power t s, ← moment_mnt t s]
  refine ⟨_, rfl, ?_⟩
  generalize moment t s = n
  refine ⟨fun h => if_pos (by rw [h]; rfl), fun h => ?_⟩
  rw [if_neg (by rw [h]; decide)]
  exact ⟨rfl, rfl⟩

/-! ### AVS -/

theorem gives_avsCodeStep (t : DT) (s : State) : Gives (.avsCodeStep t) s fun u =>
    let m := moment t s
    let n := min 30 ((s.power.avsTarget - 700) / 5)
    let may := isRunning s = true ∧ s.power.avsStopped = false ∧ usDt 500 ≤ dtSince s.power.vidAt (now m)
    let margin := s.mnt.cone.margins.all (fun (k : Int) => decide (60 ≤ k)) = true
    (may → s.power.vid < n → u.power = { s.power with vid := s.power.vid + 1, vidAt := now m })
      ∧ (may → n < s.power.vid → margin → u.power = { s.power with vid := s.power.vid - 1, vidAt := now m })
      ∧ (¬ may ∨ s.power.vid = n ∨ (n < s.power.vid ∧ ¬ margin) → u = m) := by
  unfold isRunning
  rw [← moment_power t s, ← moment_mnt t s]
  refine ⟨_, rfl, ?_⟩
  generalize moment t s = m
  intro m' n may margin
  have hstop : ¬ (!isRunning m || m.power.avsStopped || decide (dtSince m.power.vidAt (now m) < usDt 500)) = true ↔ may := by
    unfold isRunning
    simp only [Bool.or_eq_true, Bool.not_eq_true', decide_eq_true_eq, not_or, Bool.not_eq_false, Bool.not_eq_true, Nat.not_lt, and_assoc, may]
    rfl
  refine ⟨fun hm hv => ?_, fun hm hv hc => ?_, fun h => ?_⟩
  · rw [if_neg (hstop.mpr hm), if_pos (show m.power.vid < avsCode m.power.avsTarget from hv)]
    rfl
  · have hup : ¬ m.power.vid < avsCode m.power.avsTarget := Nat.lt_asymm hv
    rw [if_neg (hstop.mpr hm), if_neg hup, if_pos (by rw [Bool.and_eq_true, decide_eq_true_eq]; exact ⟨hv, hc⟩)]
    rfl
  · by_cases hm : may
    · have h' := h.resolve_left (not_not_intro hm)
      have hup : ¬ m.power.vid < avsCode m.power.avsTarget := by
        rcases h' with h' | h'
        · exact fun hlt => Nat.ne_of_lt hlt h'
        · exact Nat.lt_asymm h'.1
      have hdown : ¬ (decide (avsCode m.power.avsTarget < m.power.vid) && m.mnt.cone.margins.all fun (k : Int) => decide (60 ≤ k)) = true := by
        rw [Bool.and_eq_true, decide_eq_true_eq]
        rintro ⟨hlt, hc⟩
        exact h'.elim (fun h' => Nat.ne_of_gt hlt h') fun h' => h'.2 hc
      rw [if_neg (hstop.mpr hm), if_neg hup, if_neg hdown]
    · exact if_pos (not_not.mp (mt hstop.mp hm))

theorem gives_avsSettleTimeout (t : DT) (mv : Nat) (s : State) : Gives (.avsSettleTimeout t mv) s fun u =>
    let settled := ((mv : Int) - (700 + 5 * s.power.vid)).natAbs ≤ 10
    let early := dtSince s.power.vidAt (now (moment t s)) < msDt 5
    (isRunning s = false ∨ settled ∨ early → u = moment t s)
      ∧ (isRunning s = true → ¬ settled → ¬ early → u.power = { s.power with avsStopped := true, vcoreMv := mv, avsTarget := mv }
          ∧ u.mnt.cone.planMv = mv) := by
  unfold isRunning
  rw [← moment_power t s]
  refine ⟨_, rfl, ?_⟩
  generalize moment t s = n
  intro settled early
  have hstop : (!isRunning n || decide (dtSince n.power.vidAt (now n) < msDt 5) || decide (((mv : Int) - (700 + 5 * n.power.vid)).natAbs ≤ 10))
      = true ↔ isRunning n = false ∨ settled ∨ early := by
    rw [Bool.or_eq_true, Bool.or_eq_true, Bool.not_eq_true', decide_eq_true_eq, decide_eq_true_eq, or_assoc]
    exact or_congr_right or_comm
  refine ⟨fun h => if_pos (hstop.mpr h), fun hr hs he => ?_⟩
  have hrun : isRunning n ≠ false := by
    unfold isRunning
    rw [hr]
    decide
  rw [if_neg (mt hstop.mp (not_or.mpr ⟨hrun, not_or.mpr ⟨hs, he⟩⟩))]
  exact ⟨rfl, rfl⟩

/-! ### DRAM errors -/

/-- What follows a multi-bit error in an area (R37, R431). -/
def multibitOutcome (area : DramArea) (s : State) : State :=
  match area with
  | .firmware => faultRestart true s
  | .demodulator | .audioOutput _ | .ain .. | .staging .. | .operationalLog | .legalMirror | .library .. | .timeshift .. | .capture .. =>
    faultSherd 2 0 (now s) (now s) (dramOutcome area s)

theorem multibitOutcome_elsewhere {area : DramArea} (h : area ≠ .firmware) (s : State) :
    multibitOutcome area s = faultSherd 2 0 (now s) (now s) (dramOutcome area s) := by
  cases area with
  | firmware => exact absurd rfl h
  | demodulator => rfl
  | audioOutput _ => rfl
  | ain => rfl
  | staging => rfl
  | operationalLog => rfl
  | legalMirror => rfl
  | library => rfl
  | timeshift => rfl
  | capture => rfl

theorem gives_dramEccError (t : DT) (area : DramArea) (multi : Bool) (s : State) : Gives (.dramEccError t area multi) s fun u =>
    let m := moment t s
    (isRunning s = false → u = m)
      ∧ (isRunning s = true → multi = false → ∃ v, u = faultSherd 1 0 (now m) (now m) v ∧ v.mem = { s.mem with corrected := s.mem.corrected + 1 })
      ∧ (isRunning s = true → multi = true → ∃ v, v.mem = { s.mem with multibit := s.mem.multibit + 1 }
          ∧ (area = .firmware → u = faultRestart true v) ∧ (area ≠ .firmware → u = faultSherd 2 0 (now m) (now m) (dramOutcome area v))) := by
  unfold isRunning
  rw [← moment_power t s, ← moment_mem t s]
  refine ⟨if !isRunning (moment t s) then moment t s
    else if !multi then faultSherd 1 0 (now (moment t s)) (now (moment t s)) (modMem (fun m => { m with corrected := m.corrected + 1 }) (moment t s))
    else multibitOutcome area (modMem (fun m => { m with multibit := m.multibit + 1 }) (moment t s)), rfl, ?_⟩
  generalize moment t s = n
  intro m
  refine ⟨fun h => if_pos (by unfold isRunning; rw [h]; rfl), fun h hm => ?_, fun h hm => ?_⟩
  · rw [if_neg (by unfold isRunning; rw [h]; decide), if_pos (by rw [hm]; rfl)]
    exact ⟨_, rfl, rfl⟩
  · rw [if_neg (by unfold isRunning; rw [h]; decide), if_neg (by rw [hm]; decide)]
    refine ⟨modMem (fun m => { m with multibit := m.multibit + 1 }) n, rfl, fun ha => ?_, fun ha => multibitOutcome_elsewhere ha _⟩
    subst ha
    rfl

/-- Settles O53. That a second IMG_GO is ignored, the warm order acts in RUNNING only, and fetch results 4 and 5 leave the wait as it is are the
model's choices (log entry 51); so is the entry to Dormant in two steps (log entry 12). -/
theorem startsAndPinsAct : Obligations.StartsAndPinsAct := by
  unfold Obligations.StartsAndPinsAct
  exact ⟨gives_restartWarmWrite, gives_restartColdWrite, gives_warmNFall, gives_setterWatchdogExpiry, gives_porstNRise, gives_porstNFall,
    gives_imgGo, gives_imageFetchDone, gives_startTimeout, gives_runningFailCountClear, gives_thermalTrip, gives_dormantReqFall,
    fun t s => ⟨_, rfl, wake_outcomes t s⟩, fun t s => ⟨_, rfl, wake_outcomes t s⟩, gives_vddCoreInRange, gives_dormantReqHeld,
    endDormant_outcomes, gives_pfailNFall, gives_pfailNRise, gives_avsCodeStep, gives_avsSettleTimeout, gives_dramEccError⟩

end Sys2Proof.Machine

/-! ## A cold start: what it keeps, where it fails and where it ends (R33, R76, R324, R489 to R493) -/
namespace Sys2Proof.Machine

/-! ### What the steps keep -/

theorem lifecycle_of_fuses {s t : State} (h : fuses t = fuses s) : t.ident.lifecycle = s.ident.lifecycle :=
  congrArg (fun x => x.2.1) h

theorem minSecver_of_fuses {s t : State} (h : fuses t = fuses s) : t.ident.minSecver = s.ident.minSecver :=
  congrArg (fun x => x.2.2.2.2) h

theorem epoch_of_rest {s t : State} (h : t.host.rest = s.host.rest) : t.host.epoch = s.host.epoch := (congrArg HostIf.epoch h :)

theorem poolReady_of_rest {s t : State} (h : t.mem.rest = s.mem.rest) : t.mem.poolReady = s.mem.poolReady := (congrArg MemSt.poolReady h :)

theorem clearBlocks_power (keepLink : Bool) (s : State) : (clearBlocks keepLink s).power = s.power :=
  (clearBlocks_within keepLink s).power rfl

theorem coldHost_epoch (keepLink : Bool) (h : HostIf) : (coldHost keepLink h).epoch = h.epoch := by
  cases keepLink <;> rfl

theorem clearBlocks_epoch (keepLink : Bool) (s : State) : (clearBlocks keepLink s).host.epoch = s.host.epoch := by
  unfold clearBlocks orphanJobs
  simp only [modRf_host, modCx_host, modAudio_host, modPortSt_host, modMem_host, modMnt_host, modPair_host, modHost_host, modIdent_host,
    modCry_host, modSg_host]
  exact coldHost_epoch keepLink s.host

theorem clearBlocks_ctxs (keepLink : Bool) (s : State) : (clearBlocks keepLink s).cx.ctxs = CtxSt.reset.ctxs := by
  unfold clearBlocks orphanJobs
  simp only [modRf_cx, modCx_cx, modPortSt_cx, modMem_cx, modMnt_cx, modPair_cx, modHost_cx, modIdent_cx, modCry_cx, modSg_cx]

theorem clearBlocks_poolReady (keepLink : Bool) (s : State) : (clearBlocks keepLink s).mem.poolReady = false := by
  unfold clearBlocks orphanJobs
  simp only [modPortSt_mem, modMem_mem, modPair_mem, modHost_mem, modIdent_mem, modCry_mem, modSg_mem]
  rfl

theorem settleLock_fails (b : Fin 2) (s : State) : (settleLock b s).power.fails = s.power.fails
    ∧ (settleLock b s).power.lastCause = s.power.lastCause := by
  unfold settleLock
  dsimp only
  split <;> exact ⟨rfl, rfl⟩

theorem stopPlls_fails (s : State) : (stopPlls s).power.fails = s.power.fails ∧ (stopPlls s).power.lastCause = s.power.lastCause := by
  have hstop (b : Fin 2) (s : State) : (stopPll b s).power.fails = s.power.fails ∧ (stopPll b s).power.lastCause = s.power.lastCause :=
    settleLock_fails b s
  obtain ⟨h1, h2⟩ := hstop 1 (stopPll 0 s)
  obtain ⟨h3, h4⟩ := hstop 0 s
  exact ⟨h1.trans h3, h2.trans h4⟩

/-! ### Its beginning -/

theorem beginCold_power (fromRecovery keepLink : Bool) (s : State) :
    (beginCold fromRecovery keepLink s).power = startPower fromRecovery s.vault.cone.planMv s.power := by
  unfold beginCold
  simp only [modSg_power, modPower_power, modTime_power, modMp_power, clearBlocks_power, clearBlocks_vault]

theorem beginCold_vault (fromRecovery keepLink : Bool) (s : State) : (beginCold fromRecovery keepLink s).vault = s.vault :=
  (beginCold_within ..).vault rfl

theorem beginCold_epoch (fromRecovery keepLink : Bool) (s : State) : (beginCold fromRecovery keepLink s).host.epoch = s.host.epoch := by
  unfold beginCold
  simp only [modSg_host, modPower_host, modTime_host, modMp_host, clearBlocks_epoch]

theorem beginCold_time (fromRecovery keepLink : Bool) (s : State) : (beginCold fromRecovery keepLink s).time = startTime s.vault.tune := by
  unfold beginCold
  simp only [modSg_time, modPower_time, modTime_time, clearBlocks_vault]

theorem beginCold_ctxs (fromRecovery keepLink : Bool) (s : State) : (beginCold fromRecovery keepLink s).cx.ctxs = CtxSt.reset.ctxs := by
  unfold beginCold
  simp only [modSg_cx, modPower_cx, modTime_cx, modMp_cx, clearBlocks_ctxs]

theorem beginCold_poolReady (fromRecovery keepLink : Bool) (s : State) : (beginCold fromRecovery keepLink s).mem.poolReady = false := by
  unfold beginCold
  simp only [modSg_mem, modPower_mem, modTime_mem, modMp_mem, clearBlocks_poolReady]

theorem startPower_boot (fromRecovery : Bool) (mv : Nat) (p : PowerSt) : (startPower fromRecovery mv p).boot = p.boot := by
  cases fromRecovery <;> rfl

theorem startPower_fails (fromRecovery : Bool) (mv : Nat) (p : PowerSt) : (startPower fromRecovery mv p).fails = p.fails := by
  cases fromRecovery <;> rfl

theorem startPower_pins (fromRecovery : Bool) (mv : Nat) (p : PowerSt) : (startPower fromRecovery mv p).porstN = p.porstN
    ∧ (startPower fromRecovery mv p).dormantReq = p.dormantReq ∧ (startPower fromRecovery mv p).st = .coldStart := by
  cases fromRecovery <;> exact ⟨rfl, rfl, rfl⟩

theorem newEpoch_power (s : State) : (newEpoch s).power = s.power := (newEpoch_within s).power rfl

theorem newEpoch_vault (s : State) : (newEpoch s).vault = { s.vault with epoch := s.vault.epoch + 1 } :=
  (surviveSaggar_within _).vault rfl

theorem newEpoch_epoch (s : State) : (newEpoch s).host.epoch = s.vault.epoch + 1 :=
  epoch_of_rest ((surviveSaggar_within _).hostr rfl)

/-! ### The branches of its steps -/

/-- The board that a cold start finds: its samples and the LIFECYCLE. -/
def OnBoard (b : Boot) (l : BitVec 3) (s : State) : Prop := s.power.boot = b ∧ s.ident.lifecycle = l

theorem onBoard_beginCold {b : Boot} {l : BitVec 3} {s : State} (h : OnBoard b l s) (fromRecovery keepLink : Bool) :
    OnBoard b l (beginCold fromRecovery keepLink s) := by
  obtain ⟨hb, hl⟩ := h
  refine ⟨?_, (lifecycle_of_fuses (beginCold_within ..).fuses).trans hl⟩
  rw [beginCold_power, startPower_boot, hb]

section steps
variable {b : Boot} {l : BitVec 3} {s : State} (h : OnBoard b l s) (again : State → State) (fromRecovery : Bool) (img : Option Nat)
include h

theorem coldSteps_badFuses (hf : b.fusesOk = false) : coldSteps again fromRecovery img s = enterHalted s := by
  unfold coldSteps
  dsimp only
  rw [h.1, hf, Bool.not_false, if_pos rfl]

theorem coldSteps_legal (hf : b.fusesOk = true) (hl : l = 3) : coldSteps again fromRecovery img s = enterRecovery s := by
  unfold coldSteps
  dsimp only
  rw [h.1, hf, Bool.not_true, if_neg Bool.false_ne_true, if_pos (h.2.trans hl)]

theorem coldSteps_noVault (hf : b.fusesOk = true) (hl : l ≠ 3) (hv : b.vaultOk = false) :
    coldSteps again fromRecovery img s = failStart again fromRecovery 3 s := by
  unfold coldSteps
  dsimp only
  rw [h.1, hf, Bool.not_true, if_neg Bool.false_ne_true, if_neg (by rw [h.2]; exact hl), hv, Bool.not_false, if_pos rfl]

theorem coldSteps_littleDram (hf : b.fusesOk = true) (hl : l ≠ 3) (hv : b.vaultOk = true) (hd : b.dramGB < 2) :
    coldSteps again fromRecovery img s = failStart again fromRecovery 2 (newEpoch s) := by
  unfold coldSteps
  dsimp only
  rw [h.1, hf, Bool.not_true, if_neg Bool.false_ne_true, if_neg (by rw [h.2]; exact hl), hv, Bool.not_true, if_neg Bool.false_ne_true,
    if_pos hd]

theorem coldSteps_memory (hf : b.fusesOk = true) (hl : l ≠ 3) (hv : b.vaultOk = true) (hd : 2 ≤ b.dramGB) :
    (∀ n, qspiImage (memoryUp (newEpoch s)) = some n →
        coldSteps again fromRecovery none s = coldTail again fromRecovery n (memoryUp (newEpoch s)))
      ∧ (qspiImage (memoryUp (newEpoch s)) = none → hostBoot (memoryUp (newEpoch s)) = true →
        coldSteps again fromRecovery none s = modPower (fun p => { p with waitImage := true }) (memoryUp (newEpoch s))) := by
  unfold coldSteps
  dsimp only
  rw [h.1, hf, Bool.not_true, if_neg Bool.false_ne_true, if_neg (by rw [h.2]; exact hl), hv, Bool.not_true, if_neg Bool.false_ne_true,
    if_neg (Nat.not_lt.mpr hd)]
  refine ⟨fun n hn => by rw [hn], fun hn hb => ?_⟩
  rw [hn]
  exact if_pos hb
end steps

/-! ### Three failures in a row -/

/-- The count of failed starts with a failure of this cause (R489). -/
def noteFail (cause : Nat) : State → State := modPower fun p => { p with fails := min 3 (p.fails + 1), lastCause := cause, waitImage := false }

theorem failStart_again {cause : Nat} {s : State} (again : State → State) (h : s.power.fails < 2) :
    failStart again false cause s = again (noteFail cause s) := by
  have hf : (noteFail cause s).power.fails = min 3 (s.power.fails + 1) := rfl
  refine if_neg ?_
  rw [Bool.false_or, decide_eq_true_eq]
  exact fun hc => absurd (hf ▸ hc : 3 ≤ min 3 (s.power.fails + 1)) (by omega)

theorem failStart_ends {cause : Nat} {s : State} (again : State → State) (h : 2 ≤ s.power.fails) :
    failStart again false cause s = enterRecovery (noteFail cause s) := by
  have hf : (noteFail cause s).power.fails = min 3 (s.power.fails + 1) := rfl
  refine if_pos ?_
  rw [Bool.false_or, decide_eq_true_eq]
  exact hf ▸ (by omega : 3 ≤ min 3 (s.power.fails + 1))

theorem enterRecovery_power (s : State) : (enterRecovery s).power.st = .recovery ∧ (enterRecovery s).power.fails = s.power.fails
    ∧ (enterRecovery s).power.lastCause = s.power.lastCause := by
  obtain ⟨h1, h2⟩ := stopPlls_fails (clearBlocks true s)
  rw [clearBlocks_power] at h1 h2
  exact ⟨rfl, h1, h2⟩

/-- A start that fails each time with one cause, after steps that change the vault by `f` and keep the board and the count, ends in RECOVERY
when the count has reached 3 (R489). -/
theorem coldStart_failsThrice {b : Boot} {l : BitVec 3} {cause : Nat} {steps : State → State} {f : Vault → Vault}
    (hfail : ∀ again s, OnBoard b l s → coldSteps again false none s = failStart again false cause (steps s))
    (hpower : ∀ s, (steps s).power = s.power) (hfuses : ∀ s, fuses (steps s) = fuses s) (hvault : ∀ s, (steps s).vault = f s.vault) :
    ∀ (n : Nat) (keepLink : Bool) (s : State), OnBoard b l s → s.power.fails + (n + 1) = 3 →
      let u := coldStart (n + 1) false keepLink none s
      u.power.st = .recovery ∧ u.power.fails = 3 ∧ u.power.lastCause = cause ∧ u.vault = f^[n + 1] s.vault := by
  intro n
  induction n with
  | zero =>
    intro keepLink s hs hn
    have hb := onBoard_beginCold hs false keepLink
    have hcount : (steps (beginCold false keepLink s)).power.fails = s.power.fails := by rw [hpower, beginCold_power, startPower_fails]
    dsimp only
    rw [coldStart, hfail _ _ hb, failStart_ends _ (by omega)]
    obtain ⟨hst, hfails, hcause⟩ := enterRecovery_power (noteFail cause (steps (beginCold false keepLink s)))
    refine ⟨hst, hfails.trans ?_, hcause, ?_⟩
    · show min 3 (_ + 1) = 3
      omega
    · rw [(enterRecovery_within _).vault rfl]
      exact (hvault _).trans (congrArg f (beginCold_vault ..))
  | succ n ih =>
    intro keepLink s hs hn
    have hb := onBoard_beginCold hs false keepLink
    have hcount : (steps (beginCold false keepLink s)).power.fails = s.power.fails := by rw [hpower, beginCold_power, startPower_fails]
    dsimp only
    rw [coldStart, hfail _ _ hb, failStart_again _ (by omega)]
    have hnext : (noteFail cause (steps (beginCold false keepLink s))).power.fails + (n + 1) = 3 := by
      show min 3 (_ + 1) + (n + 1) = 3
      omega
    have hboard : OnBoard b l (noteFail cause (steps (beginCold false keepLink s))) :=
      ⟨(congrArg PowerSt.boot (hpower _) :).trans hb.1, (lifecycle_of_fuses (hfuses _)).trans hb.2⟩
    obtain ⟨hst, hfails, hcause, hv⟩ := ih true _ hboard hnext
    refine ⟨hst, hfails, hcause, hv.trans ?_⟩
    rw [Function.iterate_succ_apply]
    exact congrArg f^[n + 1] ((hvault _).trans (congrArg f (beginCold_vault ..)))

/-! ### RUNNING -/

/-- The steps of a cold start after the image, up to RUNNING (R493). -/
def bootUp (s : State) : State := announceKeys (openLog (keysUp (scheduleUp (frontEndUp (clocksUp s)))))

theorem bootUp_power (s : State) : (bootUp s).power = s.power := by
  unfold bootUp
  rw [(announceKeys_within _).power rfl, (openLog_within _).power rfl, (keysUp_within _).power rfl, (scheduleUp_within _).power rfl,
    (frontEndUp_within _).power rfl, (clocksUp_within _).power rfl]

theorem bootUp_ident (s : State) : (bootUp s).ident = s.ident := by
  unfold bootUp
  rw [(announceKeys_within _).ident rfl, (openLog_within _).ident rfl, (keysUp_within _).ident rfl, (scheduleUp_within _).ident rfl,
    (frontEndUp_within _).ident rfl, (clocksUp_within _).ident rfl]

theorem bootUp_ctxs (s : State) : (bootUp s).cx.ctxs = s.cx.ctxs := by
  unfold bootUp
  rw [(announceKeys_within _).ctxs rfl, (openLog_within _).ctxs rfl, (keysUp_within _).ctxs rfl, (scheduleUp_within _).ctxs rfl,
    (frontEndUp_within _).ctxs rfl, (clocksUp_within _).ctxs rfl]

theorem bootUp_epoch (s : State) : (bootUp s).host.epoch = s.host.epoch := by
  unfold bootUp
  rw [epoch_of_rest ((announceKeys_within _).hostr rfl), epoch_of_rest ((openLog_within _).hostr rfl),
    epoch_of_rest ((keysUp_within _).hostr rfl), epoch_of_rest ((scheduleUp_within _).hostr rfl),
    epoch_of_rest ((frontEndUp_within _).hostr rfl), epoch_of_rest ((clocksUp_within _).hostr rfl)]

theorem bootUp_poolReady (s : State) : (bootUp s).mem.poolReady = s.mem.poolReady := by
  unfold bootUp
  rw [poolReady_of_rest ((announceKeys_within _).mem rfl), poolReady_of_rest ((openLog_within _).mem rfl),
    poolReady_of_rest ((keysUp_within _).mem rfl), poolReady_of_rest ((scheduleUp_within _).mem rfl),
    poolReady_of_rest ((frontEndUp_within _).mem rfl), poolReady_of_rest ((clocksUp_within _).mem rfl)]

theorem bootUp_time (s : State) : (bootUp s).time.dt = s.time.dt ∧ (bootUp s).time.backup = false := by
  have htime : (bootUp s).time = (clocksUp s).time := by
    unfold bootUp
    rw [(announceKeys_within _).time_eq rfl rfl, (openLog_within _).time_eq rfl rfl, (keysUp_within _).time_eq rfl rfl,
      (scheduleUp_within _).time_eq rfl rfl, (frontEndUp_within _).time_eq rfl rfl]
  rw [htime]
  exact ⟨rfl, rfl⟩

theorem reachRunning_awake {s : State} (h : s.power.dormantReq = false ∨ s.power.dormantArmed = false ∨ joined s = true) :
    reachRunning s = modPower (fun p => { p with
      st := .running, runningSince := s.time.dt, waking := false, waitImage := false, entering := false, wakeAfter := false }) s :=
  dormantCheck_stays (h.elim (.inr ∘ .inl) fun h => h.elim (.inr ∘ .inr ∘ .inl) (.inr ∘ .inr ∘ .inr ∘ .inr))

/-- The identity that a started image gives (R493). -/
def imaged (secver : Nat) (s : State) : State :=
  modPower (fun p => { p with waitImage := false }) (modIdent (fun i => { i with
    firmware := Config.firmwareVersion secver, digest := fit 32 (Config.firmwareDigest secver), imgSecver := BitVec.ofNat 8 secver }) s)

theorem coldTail_runs {s : State} (again : State → State) (fromRecovery : Bool) (n : Nat) (hl : s.power.boot.spllLocks = true) :
    coldTail again fromRecovery n s = reachRunning (bootUp (imaged n s)) := by
  refine if_neg ?_
  show ¬ (!s.power.boot.spllLocks) = true
  rw [hl]
  decide

theorem memoryUp_kept (s : State) : (memoryUp s).power = s.power ∧ (memoryUp s).ident = s.ident ∧ (memoryUp s).host = s.host
    ∧ (memoryUp s).time = s.time ∧ (memoryUp s).cx = s.cx ∧ (memoryUp s).mem.poolReady = s.mem.poolReady := ⟨rfl, rfl, rfl, rfl, rfl, rfl⟩

theorem qspiImage_imageA {s : State} {n : Nat} (hb : s.power.boot.bootsel ≠ 1) (ha : s.power.boot.imageA = some n)
    (hn : s.ident.minSecver.toNat ≤ n) : qspiImage s = some n := by
  unfold qspiImage
  dsimp only
  rw [if_neg hb, ha, Option.filter_some, if_pos (decide_eq_true hn)]

theorem qspiImage_mport {s : State} (hb : s.power.boot.bootsel = 1) : qspiImage s = none := by
  unfold qspiImage
  exact if_pos hb

/-! ### The rise of PORST_N -/

/-- The board as a rise of PORST_N samples it. -/
def sampled (b : Boot) (s : State) : State :=
  bootSaggar b.vddSg (modPower (fun _ => { PowerSt.reset with
    porstN := true, boot := b, injEn := b.injEn, sealSw := b.sealSw, warmN := b.warmN, dormantReq := b.dormantReq }) s)

theorem onBoard_sampled (b : Boot) (s : State) : OnBoard b s.ident.lifecycle (sampled b s) := ⟨rfl, rfl⟩

theorem gives_porstNRise_sampled (t : DT) (b : Boot) (s : State) (hp : s.power.porstN = false) (P : State → Prop)
    (h : ∀ m : State, m.ident = s.ident → m.vault = s.vault → m.host.epoch = s.host.epoch → P (coldStart 3 false false none (sampled b m))) :
    Gives (.porstNRise t b) s P := by
  refine ⟨_, rfl, ?_⟩
  rw [if_neg (by rw [moment_power, hp]; decide)]
  exact h (moment t s) (moment_ident t s) (moment_vault t s) (moment_host_epoch t s)

end Sys2Proof.Machine

/-! ## A cold start: where it ends (R33, R489 to R493) -/
namespace Sys2Proof.Machine

theorem sampled_vault (b : Boot) (s : State) : (sampled b s).vault = s.vault := rfl

theorem sampled_epoch (b : Boot) (s : State) : (sampled b s).host.epoch = s.host.epoch := rfl

theorem sampled_fails (b : Boot) (s : State) : (sampled b s).power.fails = 0 := rfl

theorem imaged_host (n : Nat) (s : State) : (imaged n s).host = s.host := rfl

theorem imaged_time (n : Nat) (s : State) : (imaged n s).time = s.time := rfl

theorem imaged_cx (n : Nat) (s : State) : (imaged n s).cx = s.cx := rfl

theorem imaged_mem (n : Nat) (s : State) : (imaged n s).mem = s.mem := rfl

theorem imaged_secver (n : Nat) (s : State) : (imaged n s).ident.imgSecver = BitVec.ofNat 8 n := rfl

theorem porstNRise_runs (t : DT) (b : Boot) (s : State) (n : Nat) (hp : s.power.porstN = false) (hf : b.fusesOk = true)
    (hl : s.ident.lifecycle ≠ 3) (hv : b.vaultOk = true) (hd : 2 ≤ b.dramGB) (hb : b.bootsel ≠ 1) (ha : b.imageA = some n)
    (hn : s.ident.minSecver.toNat ≤ n) (hs : b.spllLocks = true) (hq : b.dormantReq = false) :
    Gives (.porstNRise t b) s fun u => u.power.st = .running ∧ u.power.fails = 0 ∧ u.power.porstN = true
      ∧ u.host.epoch = s.vault.epoch + 1 ∧ u.time.dt = 0 ∧ u.time.backup = false ∧ u.ident.imgSecver = BitVec.ofNat 8 n
      ∧ u.cx.ctxs = CtxSt.reset.ctxs ∧ u.mem.poolReady = false := by
  refine gives_porstNRise_sampled t b s hp _ fun m hident hvault _ => ?_
  have hboard := onBoard_beginCold (onBoard_sampled b m) false false
  have hboot := hboard.1
  generalize hc : beginCold false false (sampled b m) = c at hboard hboot
  have hpower : c.power = startPower false m.vault.cone.planMv (sampled b m).power := by rw [← hc, beginCold_power, sampled_vault]
  have hsecver : c.ident.minSecver = s.ident.minSecver := by
    rw [← hc, minSecver_of_fuses (beginCold_within ..).fuses, ← hident]
    rfl
  generalize hk : memoryUp (newEpoch c) = k
  obtain ⟨kpower, kident, khost, ktime, kcx, kpool⟩ := memoryUp_kept (newEpoch c)
  rw [hk] at kpower kident khost ktime kcx kpool
  rw [newEpoch_power] at kpower
  have himage : qspiImage k = some n := by
    refine qspiImage_imageA (by rw [kpower, hboot]; exact hb) (by rw [kpower, hboot]; exact ha) ?_
    rw [kident, minSecver_of_fuses (newEpoch_within _).fuses, hsecver]
    exact hn
  have hstart : coldStart 3 false false none (sampled b m) = reachRunning (bootUp (imaged n k)) := by
    rw [coldStart, hc, (coldSteps_memory hboard _ false hf (by rw [hident]; exact hl) hv hd).1 n (by rw [hk]; exact himage), hk]
    exact coldTail_runs _ false n (by rw [kpower, hboot]; exact hs)
  have ipower : (bootUp (imaged n k)).power = { c.power with waitImage := false } := by
    rw [bootUp_power, ← kpower]
    rfl
  have hawake : (bootUp (imaged n k)).power.dormantReq = false := by
    rw [ipower, hpower]
    exact hq
  have hepoch : (bootUp (imaged n k)).host.epoch = s.vault.epoch + 1 := by
    rw [bootUp_epoch, imaged_host, khost, newEpoch_epoch, ← hc, beginCold_vault, sampled_vault, hvault]
  have hdt : (bootUp (imaged n k)).time.dt = 0 := by
    rw [(bootUp_time _).1, imaged_time, ktime, (newEpoch_within _).time_eq rfl rfl, ← hc, beginCold_time]
    rfl
  have hctxs : (bootUp (imaged n k)).cx.ctxs = CtxSt.reset.ctxs := by
    rw [bootUp_ctxs, imaged_cx, kcx, (newEpoch_within _).ctxs rfl, ← hc, beginCold_ctxs]
  have hpool : (bootUp (imaged n k)).mem.poolReady = false := by
    rw [bootUp_poolReady, imaged_mem, kpool, poolReady_of_rest ((newEpoch_within _).mem rfl), ← hc, beginCold_poolReady]
  have himg : (bootUp (imaged n k)).ident.imgSecver = BitVec.ofNat 8 n := by rw [bootUp_ident, imaged_secver]
  have hbackup := (bootUp_time (imaged n k)).2
  rw [hstart, reachRunning_awake (.inl hawake)]
  generalize bootUp (imaged n k) = v at *
  simp only [modPower_power, modPower_host, modPower_time, modPower_ident, modPower_cx, modPower_mem]
  refine ⟨trivial, ?_, ?_, hepoch, hdt, hbackup, himg, hctxs, hpool⟩
  · rw [ipower, hpower]
    exact startPower_fails ..
  · rw [ipower, hpower]
    exact (startPower_pins ..).1

theorem enterHalted_epoch (s : State) : (enterHalted s).host.epoch = s.host.epoch := by
  unfold enterHalted
  dsimp only
  simp only [modPower_host]
  rw [epoch_of_rest ((stopPlls_within _).hostr rfl), clearBlocks_epoch]
  split
  · rfl
  · rw [epoch_of_rest ((stopSaggar_within ..).hostr rfl), epoch_of_rest ((haltJobs_within _).hostr rfl)]

theorem porstNRise_halts (t : DT) (b : Boot) (s : State) (hp : s.power.porstN = false) (hf : b.fusesOk = false) :
    Gives (.porstNRise t b) s fun u => u.power.st = .halted ∧ u.host.epoch = s.host.epoch := by
  refine gives_porstNRise_sampled t b s hp _ fun m _ _ hepoch => ?_
  rw [coldStart, coldSteps_badFuses (onBoard_beginCold (onBoard_sampled b m) false false) _ false none hf]
  refine ⟨rfl, ?_⟩
  rw [enterHalted_epoch, beginCold_epoch, sampled_epoch, hepoch]

theorem porstNRise_recovers (t : DT) (b : Boot) (s : State) (hp : s.power.porstN = false) (hf : b.fusesOk = true) (hl : s.ident.lifecycle = 3) :
    Gives (.porstNRise t b) s fun u => u.power.st = .recovery ∧ u.power.fails = 0 := by
  refine gives_porstNRise_sampled t b s hp _ fun m hident _ _ => ?_
  rw [coldStart, coldSteps_legal (onBoard_beginCold (onBoard_sampled b m) false false) _ false none hf (by rw [hident]; exact hl)]
  obtain ⟨hst, hfails, _⟩ := enterRecovery_power (beginCold false false (sampled b m))
  refine ⟨hst, hfails.trans ?_⟩
  rw [beginCold_power, startPower_fails, sampled_fails]

theorem porstNRise_noVault (t : DT) (b : Boot) (s : State) (hp : s.power.porstN = false) (hf : b.fusesOk = true) (hl : s.ident.lifecycle ≠ 3)
    (hv : b.vaultOk = false) :
    Gives (.porstNRise t b) s fun u => u.power.st = .recovery ∧ u.power.fails = 3 ∧ u.power.lastCause = 3 ∧ u.vault = s.vault := by
  refine gives_porstNRise_sampled t b s hp _ fun m hident hvault _ => ?_
  rw [← hident] at hl
  obtain ⟨hst, hfails, hcause, hu⟩ := coldStart_failsThrice (cause := 3) (steps := id) (f := id)
    (fun again _ hs => coldSteps_noVault hs again false none hf hl hv) (fun _ => rfl) (fun _ => rfl) (fun _ => rfl) 2 false _
    (onBoard_sampled b m) rfl
  exact ⟨hst, hfails, hcause, hu.trans hvault⟩

theorem porstNRise_littleDram (t : DT) (b : Boot) (s : State) (hp : s.power.porstN = false) (hf : b.fusesOk = true) (hl : s.ident.lifecycle ≠ 3)
    (hv : b.vaultOk = true) (hd : b.dramGB < 2) :
    Gives (.porstNRise t b) s fun u => u.power.st = .recovery ∧ u.power.fails = 3 ∧ u.power.lastCause = 2
      ∧ u.vault.epoch = s.vault.epoch + 3 := by
  refine gives_porstNRise_sampled t b s hp _ fun m hident hvault _ => ?_
  rw [← hident] at hl
  obtain ⟨hst, hfails, hcause, hu⟩ := coldStart_failsThrice (cause := 2) (steps := newEpoch) (f := fun v => { v with epoch := v.epoch + 1 })
    (fun again _ hs => coldSteps_littleDram hs again false none hf hl hv hd) newEpoch_power (fun s => (newEpoch_within s).fuses) newEpoch_vault
    2 false _ (onBoard_sampled b m) rfl
  refine ⟨hst, hfails, hcause, ?_⟩
  rw [hu, sampled_vault, hvault]
  show s.vault.epoch + 1 + 1 + 1 = _
  rw [BitVec.add_assoc, BitVec.add_assoc]
  rfl

theorem porstNRise_waits (t : DT) (b : Boot) (s : State) (hp : s.power.porstN = false) (hf : b.fusesOk = true) (hl : s.ident.lifecycle ≠ 3)
    (hv : b.vaultOk = true) (hd : 2 ≤ b.dramGB) (hb : b.bootsel = 1) :
    Gives (.porstNRise t b) s fun u => u.power.st = .coldStart ∧ u.power.waitImage = true ∧ u.host.epoch = s.vault.epoch + 1 := by
  refine gives_porstNRise_sampled t b s hp _ fun m hident hvault _ => ?_
  have hboard := onBoard_beginCold (onBoard_sampled b m) false false
  have hboot := hboard.1
  generalize hc : beginCold false false (sampled b m) = c at hboard hboot
  have hsel : (memoryUp (newEpoch c)).power.boot.bootsel = 1 := by
    rw [(memoryUp_kept _).1, newEpoch_power, hboot, hb]
  have hhost : hostBoot (memoryUp (newEpoch c)) = true := by
    unfold hostBoot
    rw [hsel]
    rfl
  rw [coldStart, hc, (coldSteps_memory hboard _ false hf (by rw [hident]; exact hl) hv hd).2 (qspiImage_mport hsel) hhost]
  refine ⟨?_, rfl, ?_⟩
  · show (memoryUp (newEpoch c)).power.st = _
    rw [(memoryUp_kept _).1, newEpoch_power, ← hc, beginCold_power]
    exact (startPower_pins ..).2.2
  · show (memoryUp (newEpoch c)).host.epoch = _
    rw [(memoryUp_kept _).2.2.1, newEpoch_epoch, ← hc, beginCold_vault, sampled_vault, hvault]

/-- Settles O54. That each start runs as one step is the model's choice (log entry 12). -/
theorem coldStartsRunOrFailThreeTimes : Obligations.ColdStartsRunOrFailThreeTimes := by
  unfold Obligations.ColdStartsRunOrFailThreeTimes
  exact ⟨porstNRise_runs, porstNRise_halts, porstNRise_recovers, porstNRise_noVault, porstNRise_littleDram, porstNRise_waits⟩

end Sys2Proof.Machine

/-! ## What waits to be returned by a warm start, and the buffers it returns (R35, R323) -/
namespace Sys2Proof.Machine

/-! ### Only a warm start notes what is to be returned

The operations that write to the host leave the list of what a warm start returns as it is. -/

theorem returning_of_queues {s t : State} (h : t.host.queues = s.host.queues) : t.host.returning = s.host.returning :=
  (congrArg HostIf.returning h :)

section returning
variable (s : State)

theorem returning_sendMsix (v : Nat) : (sendMsix v s).host.returning = s.host.returning := by
  unfold sendMsix
  split
  · rfl
  · split <;> rfl

theorem returning_notifyRise (old : State) : (notifyRise old s).host.returning = s.host.returning :=
  returning_of_queues ((notifyRise_within ..).hostq rfl)

theorem returning_signalCq (q : Fin 32) (e : Bool) : (signalCq q e s).host.returning = s.host.returning := by
  unfold signalCq
  dsimp only
  split
  · rfl
  · split
    · exact returning_sendMsix ..
    · rfl

theorem returning_settleEntry (e : CqEntry) : (settleEntry e s).host.returning = s.host.returning := by
  unfold settleEntry
  split <;> rfl

theorem returning_countEvent (e : CqEntry) : (countEvent e s).host.returning = s.host.returning := by
  unfold countEvent
  split <;> rfl

theorem returning_writeOut (u : Option Unwritten) : (writeOut u s).host.returning = s.host.returning := by
  unfold writeOut
  split <;> rfl

theorem returning_cqWrite (q : Fin 32) (e : CqEntry) : (cqWrite q e s).host.returning = s.host.returning := by
  unfold cqWrite
  rw [returning_signalCq, returning_countEvent, returning_settleEntry]
  rfl

theorem returning_cqPush (q : Fin 32) (e : CqEntry) (u : Option Unwritten) : (cqPush q e u s).host.returning = s.host.returning := by
  unfold cqPush
  split
  · rw [returning_cqWrite, returning_writeOut]
  · rfl

theorem returning_mpResult (e : CqEntry) (area : List Byte) : (mpResult e area s).host.returning = s.host.returning := by
  unfold mpResult
  rw [returning_notifyRise]
  rfl

theorem returning_raise (ev : Ev) (fs : List (Nat × Nat × Int)) : (raise ev fs s).host.returning = s.host.returning := by
  unfold raise raiseAt
  split
  · rfl
  · rw [returning_of_queues ((captureTrigger_within ..).hostq rfl), returning_notifyRise]
    unfold queueEvent
    dsimp only
    split
    · exact returning_cqPush ..
    · split <;> rfl

theorem returning_finish (h : Held) (st : Status) (fs : List (Nat × Nat × Int)) : (finish h st fs s).host.returning = s.host.returning := by
  unfold finish finishAt
  split
  · exact returning_raise ..
  · unfold sendEntry
    split
    · exact returning_cqPush ..
    · exact returning_mpResult ..

/-! ### Return rings and records -/

theorem returning_signalRing (c : Fin 4) : (signalRing c s).host.returning = s.host.returning := by
  unfold signalRing
  dsimp only
  split
  · exact returning_sendMsix ..
  · rfl

theorem returning_retWrite (c : Fin 4) (e : RetEntry) : (retWrite c e s).host.returning = s.host.returning := by
  unfold retWrite
  dsimp only
  split <;> exact returning_signalRing _ c

theorem returning_returnBuffer (c : Fin 4) (st : Status) : (returnBuffer c st s).host.returning = s.host.returning := by
  unfold returnBuffer retPush
  split
  · dsimp only
    split
    · exact returning_retWrite ..
    · rfl
  · rfl

theorem returning_putBytes (c : Fin 4) (d : List Byte) (n : Nat) : (putBytes c d n s).host.returning = s.host.returning := by
  unfold putBytes
  split <;> rfl

theorem returning_takeOwed (c : Fin 4) (r : Rec) : (takeOwed c r s).2.host.returning = s.host.returning := by
  unfold takeOwed
  split <;> rfl

theorem returning_markSent (c : Fin 4) (r : Rec) : (markSent c r s).host.returning = s.host.returning :=
  returning_of_queues ((markSent_within ..).hostq rfl)

theorem returning_writeRec (c : Fin 4) (n : Nat) : ∀ (r : Rec) (s : State), (writeRec c n r s).1.host.returning = s.host.returning := by
  induction n with
  | zero => exact fun _ _ => rfl
  | succ n ih =>
    intro r s
    unfold writeRec
    split
    · rfl
    · split
      · split
        · exact (returning_putBytes ..).trans (returning_takeOwed ..)
        · exact (ih ..).trans (returning_returnBuffer ..)
      · dsimp only
        repeat' split
        all_goals simp only [ih, returning_returnBuffer, returning_markSent, returning_putBytes, returning_takeOwed]

theorem returning_deliver (c : Fin 4) (x : Rec) : (deliver c x s).host.returning = s.host.returning := by
  have hw := returning_writeRec c (s.host.rings[c].buffers.length + 1) x s
  unfold deliver
  split
  · split <;> rename_i heq <;> rw [heq] at hw
    · exact hw
    · exact hw
  · rfl

theorem returning_unstage (c : Fin 4) (n : Nat) : ∀ s : State, (unstage c n s).host.returning = s.host.returning := by
  induction n with
  | zero => exact fun _ => rfl
  | succ n ih =>
    intro s
    unfold unstage
    split
    · rfl
    · rename_i x rest _
      split
      · have hw := returning_writeRec c (s.host.rings[c].buffers.length + 1) x (modRing c (fun r => { r with stage := rest }) s)
        split <;> rename_i heq <;> rw [heq] at hw
        · exact (ih _).trans hw
        · exact hw
      · rfl

/-! ### The operational log -/

theorem returning_formIn (d : List Byte) : (formIn d s).host.returning = s.host.returning := by
  have hr : (reserveSeq s).host.returning = s.host.returning := returning_of_queues ((reserveSeq_within _).hostq rfl)
  unfold formIn gapRecorded
  dsimp only
  split
  · exact (returning_raise ..).trans hr
  · exact hr

theorem returning_makeRoom {s t : State} (h : makeRoom s = some t) : t.host.returning = s.host.returning := by
  unfold makeRoom at h
  split at h
  · rw [← Option.some.inj h]
  · split at h
    · rw [← Option.some.inj h]
      rfl
    · cases h

theorem returning_form (d : List Byte) : (form d s).host.returning = s.host.returning := by
  unfold form
  split
  · rfl
  · split
    case h_1 t h => exact (returning_formIn ..).trans (returning_makeRoom h)
    case h_2 => rfl

theorem returning_coverRun : (coverRun s).host.returning = s.host.returning := by
  unfold coverRun
  split
  · exact returning_form ..
  · rfl

theorem returning_useCounter (i : Fin 64) (k : Key) : (useCounter i k s).host.returning = s.host.returning := by
  unfold useCounter
  dsimp only
  split <;> split <;> simp [returning_form, modKey]

theorem returning_tagLoop (n : Nat) : ∀ s : State, (tagLoop n s).host.returning = s.host.returning := by
  have hask (i : VaultItem) (c : Option Nat) (s : State) : (askStore i c s).host.returning = s.host.returning :=
    returning_of_queues ((askStore_within ..).hostq rfl)
  induction n with
  | zero => exact fun _ => rfl
  | succ n ih =>
    intro s
    unfold tagLoop
    dsimp only
    repeat' split
    all_goals simp only [ih, returning_deliver, returning_useCounter, hask, modCry_host]

theorem returning_formWaiting (n : Nat) : ∀ s : State, (formWaiting n s).host.returning = s.host.returning := by
  induction n with
  | zero => exact fun _ => rfl
  | succ n ih =>
    intro s
    unfold formWaiting
    split
    · rfl
    · split
      case h_1 t h => exact (ih _).trans ((returning_formIn ..).trans (returning_makeRoom (t := t) h))
      case h_2 => rfl

theorem returning_opSherd (type ctx : Nat) (start stop : DT) (payload : List Byte) :
    (opSherd type ctx start stop payload s).host.returning = s.host.returning := by
  have htag (s : State) : (tagAll s).host.returning = s.host.returning := by
    unfold tagAll
    dsimp only
    split
    · exact returning_tagLoop ..
    · rw [returning_tagLoop, returning_formWaiting, returning_tagLoop]
  unfold opSherd writeSherd
  split
  · rfl
  · rw [htag, returning_form]
    split
    · exact returning_coverRun s
    · rfl

/-! ### What was staged goes out -/

theorem returning_readBuffer (k : Fin 4) (off left : Nat) (b : Buffer) : (readBuffer k off left b s).host.returning = s.host.returning := by
  unfold readBuffer
  dsimp only
  split
  · refine (returning_opSherd ..).trans ?_
    rw [returning_returnBuffer, returning_putBytes]
  · rw [returning_returnBuffer, returning_putBytes]

theorem returning_pumpReads (n : Nat) : ∀ s : State, (pumpReads n s).host.returning = s.host.returning := by
  induction n with
  | zero => exact fun _ => rfl
  | succ n ih =>
    intro s
    unfold pumpReads
    repeat' split
    all_goals simp only [ih, returning_finish, returning_readBuffer]
    rfl

theorem returning_resumeClass (c : Fin 4) : (resumeClass c s).host.returning = s.host.returning := by
  have hflush : (flushStage c s).host.returning = s.host.returning := by
    unfold flushStage closeEpisode lossGap
    dsimp only
    rw [returning_unstage]
    split
    · rfl
    · exact returning_opSherd ..
  unfold resumeClass
  dsimp only
  split
  · exact (returning_pumpReads ..).trans hflush
  · exact hflush
end returning

end Sys2Proof.Machine

/-! ## A warm start: what it returns and what it leaves alone (R35, R323, R494) -/
namespace Sys2Proof.Machine

/-! ### The buffers -/

theorem signalRing_settled_rings (c d : Fin 4) (a b : Fin 9) (s : State) :
    (signalRing c (settle a 1 (settle b 1 s))).host.rings[d] = s.host.rings[d] := by
  rw [signalRing_rings]
  rfl

theorem returnBuffer_other {c d : Fin 4} (hd : d ≠ c) (st : Status) (s : State) : (returnBuffer c st s).host.rings[d] = s.host.rings[d] := by
  have hring (f : RetRing → RetRing) (s : State) : (modRing c f s).host.rings[d] = s.host.rings[d] := by
    unfold modRing
    rw [modHost_host]
    exact (upd_get ..).trans (if_neg (Ne.symm hd))
  have hwrite (e : RetEntry) (s : State) : (retWrite c e s).host.rings[d] = s.host.rings[d] := by
    unfold retWrite
    dsimp only
    split
    · exact (signalRing_settled_rings ..).trans (hring ..)
    · exact (signalRing_settled_rings ..).trans (hring ..)
  unfold returnBuffer retPush
  split
  · dsimp only
    split
    · exact (hwrite ..).trans (hring ..)
    · exact (hring ..).trans (hring ..)
  · rfl

theorem returnBuffer_length (c : Fin 4) (st : Status) (s : State) :
    (returnBuffer c st s).host.rings[c].buffers.length = s.host.rings[c].buffers.length - 1 := by
  cases hb : s.host.rings[c].buffers with
  | nil =>
    unfold returnBuffer
    rw [hb]
    simp [-Fin.getElem_fin, hb]
  | cons b rest => rw [returnBuffer_buffers hb, List.length_cons, Nat.add_sub_cancel]

theorem returnAll_length (c : Fin 4) (st : Status) (n : Nat) (s : State) :
    (returnAll c st n s).host.rings[c].buffers.length = s.host.rings[c].buffers.length - n := by
  induction n generalizing s with
  | zero => rfl
  | succ n ih =>
    unfold returnAll
    rw [ih, returnBuffer_length]
    omega

theorem returnAll_other {c d : Fin 4} (hd : d ≠ c) (st : Status) (n : Nat) (s : State) :
    (returnAll c st n s).host.rings[d] = s.host.rings[d] := by
  induction n generalizing s with
  | zero => rfl
  | succ n ih =>
    unfold returnAll
    rw [ih, returnBuffer_other hd]

theorem foldl_returnAll_buffers (st : Status) (c : Fin 4) (l : List (Fin 4)) (s : State) (h : c ∈ l ∨ s.host.rings[c].buffers = []) :
    (l.foldl (fun s c => returnAll c st s.host.rings[c].buffers.length s) s).host.rings[c].buffers = [] := by
  induction l generalizing s with
  | nil => exact h.resolve_left List.not_mem_nil
  | cons d l ih =>
    refine ih _ (or_iff_not_imp_left.mpr fun hl => ?_)
    by_cases hd : c = d
    · subst hd
      rw [← List.length_eq_zero_iff, returnAll_length, Nat.sub_self]
    · rw [returnAll_other hd]
      exact h.resolve_left fun hm => (List.mem_cons.mp hm).elim hd hl

theorem returnHeld_buffers (s : State) (c : Fin 4) : (returnHeld s).host.rings[c].buffers = [] := by
  unfold returnHeld returnBuffers
  dsimp only
  generalize returnMport _ _ = m
  convert foldl_returnAll_buffers .returnedRestart c (List.finRange 4) m (.inl (List.mem_finRange c))

/-! ### What is noted, and returned -/

theorem returning_cqDrainOne (q : Fin 32) (s : State) : (cqDrainOne q s).host.returning = s.host.returning := by
  have hrefill (s : State) : (refill s).host.returning = s.host.returning := returning_notifyRise _ s
  unfold cqDrainOne
  repeat' split
  · rfl
  · rw [returning_notifyRise, hrefill, returning_cqWrite]
    rfl
  · dsimp only
    rw [returning_notifyRise, hrefill, returning_cqWrite, returning_writeOut]
    rfl
  · rfl

theorem returning_drainQueue (q : Fin 32) (n : Nat) (s : State) : (drainQueue q n s).host.returning = s.host.returning := by
  induction n generalizing s with
  | zero => rfl
  | succ n ih =>
    unfold drainQueue
    split
    · exact (ih _).trans (returning_cqDrainOne ..)
    · rfl

theorem returning_returnQueue (l : List Returning) (s : State) (q : Fin 32) : (returnQueue l s q).host.returning = s.host.returning := by
  unfold returnQueue
  dsimp only
  split
  · rfl
  · exact returning_drainQueue ..

theorem returning_returnMport (l : List Returning) (s : State) : (returnMport l s).host.returning = s.host.returning := by
  unfold returnMport
  dsimp only
  split
  · rfl
  · exact returning_notifyRise ..

theorem returning_returnAll (c : Fin 4) (st : Status) (n : Nat) (s : State) : (returnAll c st n s).host.returning = s.host.returning := by
  induction n generalizing s with
  | zero => rfl
  | succ n ih => exact (ih _).trans (returning_returnBuffer ..)

theorem returnHeld_returning (s : State) : (returnHeld s).host.returning = [] := by
  unfold returnHeld returnBuffers
  dsimp only
  refine (fold_keep (g := fun s => s.host.returning) (fun s c => returning_returnAll c _ _ s) _ _).trans ?_
  rw [returning_returnMport]
  exact fold_keep (f := returnQueue s.host.returning) (g := fun s => s.host.returning) (fun s q => returning_returnQueue _ s q) _ _

/-! ### What is cut off -/

/-- The note of a held command that a warm start cuts off. -/
def cutNote (order : Option Nat) (h : Held) : Returning :=
  { id := h.id, src := h.src, tag := h.tag, fence := h.entry.flags.getLsbD 1, ok := order == some h.id }

/-- The note of an entry that the MPORT has received and the device not taken. -/
def receivedNote (s : State) (b : List Byte) : Returning :=
  { id := s.host.nextId, src := .mport, tag := BitVec.ofNat 16 (le b 2 2), fence := false, ok := false }

/-- What a warm start notes for its return, the order's own completion first (R323). -/
def cutNotes (order : Option Nat) (s : State) : List Returning :=
  let l := (openHeld s).map (cutNote order) ++ s.mp.received.map (receivedNote s)
  l.filter (·.ok) ++ l.filter (!·.ok)

theorem cutNotes_length (order : Option Nat) (s : State) : (cutNotes order s).length = (openHeld s).length + s.mp.received.length := by
  unfold cutNotes
  dsimp only
  rw [List.length_append, ← List.length_eq_length_filter_add, List.length_append, List.length_map, List.length_map]

theorem mem_cutNotes {order : Option Nat} {s : State} {h : Held} (hm : h ∈ openHeld s) : cutNote order h ∈ cutNotes order s := by
  have hl : cutNote order h ∈ (openHeld s).map (cutNote order) ++ s.mp.received.map (receivedNote s) :=
    List.mem_append_left _ (List.mem_map_of_mem hm)
  unfold cutNotes
  dsimp only
  rw [List.mem_append, List.mem_filter, List.mem_filter]
  cases (cutNote order h).ok
  · exact .inr ⟨hl, rfl⟩
  · exact .inl ⟨hl, rfl⟩

theorem foldl_zeroCut_held (l : List GlazeMsg) (s : State) : (l.foldl zeroCut s).host.queues = s.host.queues :=
  fold_keep (f := zeroCut) (g := fun s => s.host.queues) (fun s m => (zeroCut_within s m).hostq rfl) _ _

theorem foldl_zeroCut_mp (l : List GlazeMsg) (s : State) : (l.foldl zeroCut s).mp = s.mp :=
  fold_keep (f := zeroCut) (g := fun s => s.mp) (fun s m => (zeroCut_within s m).mp rfl) _ _

theorem cutHeld_outcome (order : Option Nat) (s : State) : (cutHeld order s).host.held = s.host.held.filter (·.deferred)
    ∧ (cutHeld order s).mp.received = [] ∧ (cutHeld order s).host.returning = cutNotes order ((allMessages s).foldl zeroCut s) := by
  refine ⟨?_, rfl, rfl⟩
  exact congrArg (List.filter (·.deferred)) (q_held (foldl_zeroCut_held _ s))

theorem cutHeld_notes (order : Option Nat) (s : State) : let v := cutHeld order s
    (∀ h ∈ v.host.held, h ∈ s.host.held ∧ h.deferred = true) ∧ v.mp.received = []
      ∧ v.host.returning.length = (openHeld s).length + s.mp.received.length
      ∧ ∀ h ∈ openHeld s, ∃ r ∈ v.host.returning, r.id = h.id ∧ r.src = h.src ∧ r.tag = h.tag ∧ r.ok = (order == some h.id) := by
  obtain ⟨hheld, hrec, hret⟩ := cutHeld_outcome order s
  have hopen : openHeld ((allMessages s).foldl zeroCut s) = openHeld s := by
    unfold openHeld
    rw [q_held (foldl_zeroCut_held _ s)]
  intro v
  refine ⟨fun h hm => ?_, hrec, ?_, fun h hm => ?_⟩
  · rw [hheld] at hm
    exact List.mem_filter.mp hm
  · rw [hret, cutNotes_length, hopen, foldl_zeroCut_mp]
  · rw [hret]
    exact ⟨cutNote order h, mem_cutNotes (by rw [hopen]; exact hm), rfl, rfl, rfl, rfl⟩

/-! ### What a warm start leaves alone -/

theorem evMask_of_rest {s t : State} (h : t.host.rest = s.host.rest) : t.host.evMask = s.host.evMask := (congrArg HostIf.evMask h :)

theorem msix_of_rest {s t : State} (h : t.host.rest = s.host.rest) : t.host.msix = s.host.msix := (congrArg HostIf.msix h :)

/-- What a warm start may change. -/
def Parts.warm : Parts := { Parts.all with dt := false, sg := false, pair := false, hostr := false }

/-- The steps of a warm start up to its state (R494). -/
def warmSteps (dieTemp : Int) (order : Option Nat) (s : State) : State :=
  warmBlocks dieTemp ((opening s).foldl (fun s c => closeCtx c none .returnedRestart s) (cutHeld order s))

theorem warmSteps_within (dieTemp : Int) (order : Option Nat) (s : State) : Within .warm s (warmSteps dieTemp order s) := by
  have hcut : Within .warm s (cutHeld order s) := (cutHeld_within ..).widen rfl
  exact (warmBlocks_within ..).after rfl (Within.foldl (fun u c => (closeCtx_within ..).widen rfl) hcut)

theorem warmStart_outcome (temp : Int) (order : Option Held) (s : State) : let w := warmStart temp false order s
    w.power.st = .warmStart ∧ w.time.dt = s.time.dt ∧ w.sg = s.sg ∧ w.pair = s.pair
      ∧ w.host.epoch = s.host.epoch ∧ w.host.evMask = s.host.evMask ∧ w.host.msix = s.host.msix ∧ (Balanced s.host → Balanced w.host) := by
  have hw : warmStart temp false order s
      = modPower (fun p => { p with st := .warmStart, entering := false, wakeAfter := false }) (warmSteps temp (order.map (·.id)) s) :=
    if_neg (by rw [Bool.false_and]; exact Bool.false_ne_true)
  have hwithin := warmSteps_within temp (order.map (·.id)) s
  intro w
  rw [show w = _ from hw]
  simp only [modPower_power, modPower_time, modPower_sg, modPower_pair, modPower_host]
  have hrest := hwithin.hostr rfl
  exact ⟨trivial, hwithin.dt rfl, hwithin.sg rfl, hwithin.pair rfl, epoch_of_rest hrest, evMask_of_rest hrest, msix_of_rest hrest,
    hwithin.ledger⟩

/-! ### Its end -/

theorem endWarm_idle {s : State} (h : s.power.st ≠ .warmStart ∨ s.power.waking = true) : endWarm s = s := by
  unfold endWarm
  refine if_neg ?_
  rw [Bool.and_eq_true, beq_iff_eq, Bool.not_eq_true']
  rintro ⟨h1, h2⟩
  exact h.elim (fun h => h h1) fun h => by rw [h] at h2; cases h2

theorem endWarm_ends {s : State} (h : s.power.st = .warmStart) (hw : s.power.waking = false) :
    endWarm s = (List.finRange 4).foldl (fun s c => resumeClass c s) (reachRunning (returnHeld s)) := by
  unfold endWarm
  exact if_pos (by rw [h, hw]; rfl)

theorem foldl_resumeClass_within (l : List (Fin 4)) (s : State) : Within
    { hostq := true, mp := true, cry := true, slots := true, mnt := true, vault := true } s (l.foldl (fun s c => resumeClass c s) s) :=
  Within.foldl (fun u c => resumeClass_within c u) Within.rfl

theorem endWarm_runs {s : State} (h : s.power.st = .warmStart) (hw : s.power.waking = false)
    (ha : s.power.dormantReq = false ∨ s.power.dormantArmed = false ∨ joined s = true) : let w := endWarm s
    w.power.st = .running ∧ w.host.returning = [] ∧ w.time = s.time ∧ w.sg = s.sg ∧ w.pair = s.pair ∧ w.host.epoch = s.host.epoch
      ∧ (Balanced s.host → Balanced w.host) := by
  have hret := returnHeld_within s
  have hawake : (returnHeld s).power.dormantReq = false ∨ (returnHeld s).power.dormantArmed = false ∨ joined (returnHeld s) = true := by
    unfold joined
    rw [hret.power rfl, hret.pair rfl]
    exact ha
  have hall := endWarm_within s
  intro w
  refine ⟨?_, ?_, hall.time_eq rfl rfl, hall.sg rfl, hall.pair rfl, epoch_of_rest (hall.hostr rfl), hall.ledger⟩
  · show (endWarm s).power.st = _
    rw [endWarm_ends h hw, (foldl_resumeClass_within ..).power rfl, reachRunning_awake hawake]
    rfl
  · show (endWarm s).host.returning = _
    rw [endWarm_ends h hw]
    refine (fold_keep (g := fun s => s.host.returning) (fun s c => returning_resumeClass s c) _ _).trans ?_
    rw [reachRunning_awake hawake, modPower_host]
    exact returnHeld_returning s

/-- Settles O55. That the warm start takes two steps, its beginning and its end, is the model's choice (log entry 12). -/
theorem warmStartsReturnWhatIsHeld : Obligations.WarmStartsReturnWhatIsHeld := by
  unfold Obligations.WarmStartsReturnWhatIsHeld
  exact ⟨cutHeld_notes, fun s => ⟨returnHeld_returning s, returnHeld_buffers s⟩, fun _ _ => ⟨rfl, rfl, rfl⟩, warmStart_outcome,
    fun _ => ⟨endWarm_idle, endWarm_runs⟩, fun _ => reachRunning_awake⟩

end Sys2Proof.Machine

/-! ## The MPORT: its codes, its bus and its host notify (R347 to R363) -/
namespace Sys2Proof.Machine

/-! ### What the instant of a step leaves to the ports -/

theorem mpAnswers_moment (t : DT) (s : State) : mpAnswers (moment t s) = mpAnswers s := by
  unfold mpAnswers
  rw [moment_power]

theorem mpAddress_moment (t : DT) (s : State) : mpAddress (moment t s) = mpAddress s := by
  unfold mpAddress
  rw [moment_power]

theorem pecEn_moment (t : DT) (s : State) : pecEn (moment t s) = pecEn s := by
  unfold pecEn
  rw [moment_mp]

theorem isRunning_moment (t : DT) (s : State) : isRunning (moment t s) = isRunning s := by
  unfold isRunning
  rw [moment_power]

theorem portUp_moment (t : DT) (p : Port2) (s : State) : portUp p (moment t s) = portUp p s := by
  cases p
  · exact mpAnswers_moment t s
  · unfold portUp
    rw [moment_sg]

theorem epoch4_moment (t : DT) (s : State) : epoch4 (moment t s) = epoch4 s := by
  unfold epoch4
  rw [moment_host_epoch]

theorem timingBytes_moment (t : DT) (s : State) : timingBytes (moment t s) = timingBytes s := by
  unfold timingBytes
  rw [moment_mp]

/-! ### A transfer ends -/

theorem mpStop_awake {s : State} (h : s.power.st ≠ .dormant) : mpStop s = s := by
  unfold mpStop
  exact if_neg (by rw [beq_iff_eq]; exact h)

theorem mpStop_mp (s : State) : (mpStop s).mp = { s.mp with awake := if s.power.st = .dormant then some (now s) else s.mp.awake } := by
  by_cases h : s.power.st = .dormant
  · unfold mpStop
    rw [if_pos (by rw [h]; rfl), if_pos h]
    rfl
  · rw [mpStop_awake h, if_neg h]

theorem mpStop_outbox (s : State) : (mpStop s).outbox = s.outbox := by
  unfold mpStop
  split <;> rfl

theorem mpSend_outbox (code : Nat) (counted : Bool) (l : List Byte) (s : State) :
    (mpSend code counted l s).outbox = .twoWire .mport (readBytes (mpAddress s) code counted (pecEn s) l) :: s.outbox :=
  mpStop_outbox _

theorem mpSend_mp (code : Nat) (counted : Bool) (l : List Byte) (s : State) :
    (mpSend code counted l s).mp = { s.mp with awake := if s.power.st = .dormant then some (now s) else s.mp.awake } :=
  mpStop_mp _

theorem mpSend_awake {s : State} (h : s.power.st ≠ .dormant) (code : Nat) (counted : Bool) (l : List Byte) :
    mpSend code counted l s = emit (.twoWire .mport (readBytes (mpAddress s) code counted (pecEn s) l)) s :=
  mpStop_awake h

theorem not_dormant_of_isRunning {s : State} (h : isRunning s = true) : s.power.st ≠ .dormant := by
  intro hd
  unfold isRunning at h
  rw [hd] at h
  cases h

/-! ### STATUS and CMD_SUBMIT -/

theorem gives_mportStatus (t : DT) (s : State) : Gives (.mportStatus t) s fun u =>
    let m := moment t s
    (mpAnswers s = false → u = m)
      ∧ (mpAnswers s = true → u.outbox = .twoWire .mport (readBytes (mpAddress s) 0x01 false (pecEn s) (mpStatus m)) :: m.outbox
          ∧ u.mp = { s.mp with evtOvf := false, hnPending := false, hnTries := 0,
                               awake := if s.power.st = .dormant then some (now m) else s.mp.awake }) := by
  rw [← mpAnswers_moment t s, ← mpAddress_moment t s, ← pecEn_moment t s, ← moment_mp t s, ← moment_power t s]
  refine ⟨_, rfl, ?_⟩
  generalize moment t s = n
  refine ⟨fun h => if_neg (by rw [h]; exact Bool.false_ne_true), fun h => ?_⟩
  rw [if_pos h]
  refine ⟨mpSend_outbox .., ?_⟩
  dsimp only [modMp]
  rw [mpSend_mp]

/-- What CMD_SUBMIT does with a write in its frame (R349, R353). -/
def submitted (f : Framed) (s : State) : State :=
  match f with
  | .data l => post 0 1 (modMp (fun m => { m with received := m.received ++ [l] }) s)
  | .nothing => s
  | .nacked => mpNack s
  | .pecError => mpPecError (mpNack s)
  | .pecMissing => mpPecError s

theorem gives_cmdSubmit (t : DT) (x : Xfer) (s : State) : Gives (.cmdSubmit t x) s fun u =>
    let m := moment t s
    (mpAnswers s = false → u = m)
      ∧ (mpAnswers s = true → isRunning s = false ∨ 8 ≤ mpCount m → u = mpNack m)
      ∧ (mpAnswers s = true → isRunning s = true → mpCount m < 8 →
          (∀ l, frame (mpAddress s) 0x10 true 64 (pecEn s) x = .data l → u.mp = { s.mp with received := s.mp.received ++ [l] }
              ∧ u.host.ledger[0].posted = m.host.ledger[0].posted + 1)
            ∧ (frame (mpAddress s) 0x10 true 64 (pecEn s) x = .nothing → u = m)
            ∧ (frame (mpAddress s) 0x10 true 64 (pecEn s) x = .nacked → u = mpNack m)
            ∧ (frame (mpAddress s) 0x10 true 64 (pecEn s) x = .pecError → u = mpPecError (mpNack m))
            ∧ (frame (mpAddress s) 0x10 true 64 (pecEn s) x = .pecMissing → u = mpPecError m)) := by
  rw [← mpAnswers_moment t s, ← mpAddress_moment t s, ← pecEn_moment t s, ← isRunning_moment t s, ← moment_mp t s]
  refine ⟨if !mpAnswers (moment t s) then moment t s
    else if !isRunning (moment t s) || 8 ≤ mpCount (moment t s) then mpNack (moment t s)
    else submitted (frame (mpAddress (moment t s)) 0x10 true 64 (pecEn (moment t s)) x) (moment t s), rfl, ?_⟩
  generalize moment t s = n
  intro m
  refine ⟨fun h => if_pos (by rw [h]; rfl), fun h hc => ?_, fun h hr hc => ?_⟩
  · rw [if_neg (by rw [h]; decide), if_pos (by rw [Bool.or_eq_true, Bool.not_eq_true', decide_eq_true_eq]; exact hc)]
  · rw [if_neg (by rw [h]; decide), if_neg (by simpa [hr] using hc)]
    generalize frame (mpAddress n) 0x10 true 64 (pecEn n) x = f
    refine ⟨fun l hf => ?_, fun hf => ?_, fun hf => ?_, fun hf => ?_, fun hf => ?_⟩ <;> subst hf
    · have hrow := post_ledger 0 0 1 (modMp (fun m => { m with received := m.received ++ [l] }) n)
      rw [if_pos rfl] at hrow
      exact ⟨rfl, congrArg LedgerRow.posted hrow⟩
    · rfl
    · rfl
    · rfl
    · rfl

/-! ### CMD_RESULT -/

/-- CMD_RESULT reads the oldest completion that waits (R354). -/
def resultRead (whole : Bool) (s : State) : State :=
  match s.mp.results with
  | [] => mpSend 0x11 true [] s
  | r :: rest =>
    let v := (freeNow s).natAbs
    let s := useFree (mpSend 0x11 true (cqeBytes (v % 2 == 1) (epoch4 s) 0xFF (v / 2 % 65536) r.entry ++ r.area) s)
    if whole then modMp (fun m => { m with results := rest, lastResult := some r }) s else s

theorem resultRead_none (whole : Bool) {s : State} (h : s.mp.results = []) : resultRead whole s = mpSend 0x11 true [] s := by
  unfold resultRead
  rw [h]

theorem resultRead_oldest (whole : Bool) {s : State} {r : MpResult} {rest : List MpResult} (h : s.mp.results = r :: rest) :
    ∃ phase head, resultRead whole s = (let u := useFree (mpSend 0x11 true (cqeBytes phase (epoch4 s) 0xFF head r.entry ++ r.area) s)
      if whole then modMp (fun m => { m with results := rest, lastResult := some r }) u else u) := by
  unfold resultRead
  rw [h]
  exact ⟨_, _, rfl⟩

theorem ite_modMp_outbox (p : Prop) [Decidable p] (f : Mport → Mport) (s : State) : (if p then modMp f s else s).outbox = s.outbox := by
  split <;> rfl

theorem gives_cmdResult (t : DT) (whole : Bool) (s : State) : Gives (.cmdResult t whole) s fun u =>
    let m := moment t s
    (mpAnswers s = false → u = m)
      ∧ (mpAnswers s = true → isRunning s = false → u = mpNack m)
      ∧ (mpAnswers s = true → isRunning s = true →
          (s.mp.results = [] → u.mp = { s.mp with lastResult := none }
              ∧ u.outbox = .twoWire .mport (readBytes (mpAddress s) 0x11 true (pecEn s) []) :: m.outbox)
            ∧ ∀ r rest, s.mp.results = r :: rest →
              (whole = true → u.mp = { s.mp with results := rest, lastResult := some r })
                ∧ (whole = false → u.mp = { s.mp with lastResult := none })
                ∧ ∃ phase head, u.outbox = .twoWire .mport (readBytes (mpAddress s) 0x11 true (pecEn s)
                    (cqeBytes phase (epoch4 s) 0xFF head r.entry ++ r.area)) :: m.outbox) := by
  rw [← mpAnswers_moment t s, ← mpAddress_moment t s, ← pecEn_moment t s, ← isRunning_moment t s, ← moment_mp t s, ← epoch4_moment t s]
  refine ⟨if !mpAnswers (moment t s) then moment t s
    else if !isRunning (moment t s) then mpNack (moment t s)
    else resultRead whole (modMp (fun m => { m with lastResult := none }) (moment t s)), rfl, ?_⟩
  generalize moment t s = n
  intro m
  refine ⟨fun h => if_pos (by rw [h]; rfl), fun h hr => ?_, fun h hr => ?_⟩
  · rw [if_neg (by rw [h]; decide), if_pos (by rw [hr]; rfl)]
  · rw [if_neg (by rw [h]; decide), if_neg (by rw [hr]; decide)]
    have hd := not_dormant_of_isRunning hr
    refine ⟨fun hl => ?_, fun r rest hl => ?_⟩
    · rw [resultRead_none whole (s := modMp (fun m => { m with lastResult := none }) n) hl, mpSend_awake (by exact hd)]
      exact ⟨rfl, rfl⟩
    · obtain ⟨phase, head, hread⟩ := resultRead_oldest whole (s := modMp (fun m => { m with lastResult := none }) n) hl
      rw [hread, mpSend_awake (by exact hd)]
      refine ⟨fun hw => ?_, fun hw => ?_, phase, head, ?_⟩
      · rw [if_pos hw]
        rfl
      · rw [if_neg (by rw [hw]; exact Bool.false_ne_true)]
        rfl
      · rw [ite_modMp_outbox]
        rfl

theorem gives_cmdResultRedeliver (t : DT) (s : State) : Gives (.cmdResultRedeliver t) s fun u =>
    let m := moment t s
    (mpAnswers s = false → u = m)
      ∧ (mpAnswers s = true → isRunning s = false → u = mpNack m)
      ∧ (mpAnswers s = true → isRunning s = true → s.mp.lastResult = none → u = m)
      ∧ (mpAnswers s = true → isRunning s = true → ∀ r, s.mp.lastResult = some r → ∃ v, u = notifyRise m v
          ∧ v.mp = { s.mp with results := r :: s.mp.results, lastResult := none }) := by
  rw [← mpAnswers_moment t s, ← isRunning_moment t s, ← moment_mp t s]
  refine ⟨_, rfl, ?_⟩
  generalize moment t s = n
  intro m
  refine ⟨fun h => if_pos (by rw [h]; rfl), fun h hr => ?_, fun h hr hl => ?_, fun h hr r hl => ?_⟩
  · rw [if_neg (by rw [h]; decide), if_pos (by rw [hr]; rfl)]
  · rw [if_neg (by rw [h]; decide), if_neg (by rw [hr]; decide), hl]
  · rw [if_neg (by rw [h]; decide), if_neg (by rw [hr]; decide), hl]
    exact ⟨_, rfl, rfl⟩

/-! ### TIMING -/

theorem gives_mportTimingRead (t : DT) (s : State) : Gives (.mportTimingRead t) s fun u =>
    (mpAnswers s = false → u = moment t s)
      ∧ (mpAnswers s = true → u.outbox = .twoWire .mport (readBytes (mpAddress s) 0x30 false (pecEn s) (timingBytes s)) :: (moment t s).outbox
          ∧ (s.power.st ≠ .dormant → u.mp = s.mp) ∧ (timingBytes s).length = 12) := by
  rw [← mpAnswers_moment t s, ← mpAddress_moment t s, ← pecEn_moment t s, ← moment_mp t s, ← moment_power t s, ← timingBytes_moment t s]
  refine ⟨_, rfl, ?_⟩
  generalize moment t s = n
  refine ⟨fun h => if_neg (by rw [h]; exact Bool.false_ne_true), fun h => ?_⟩
  rw [if_pos h]
  refine ⟨mpSend_outbox .., fun hd => ?_, by simp [timingBytes, leBytes]⟩
  rw [mpSend_awake hd]
  rfl

/-- What TIMING does with a write in its frame (R349, R361). -/
def retimed (f : Framed) (s : State) : State :=
  match f with
  | .data l =>
    let w (i : Nat) : BitVec 32 := BitVec.ofNat 32 (le l i 4)
    mpStop (modMp (fun m => { m with
      timingNext := some ({ word0 := w 0, word1 := timingWord1 (w 4) }, mpControl m.control (w 8) (mpAddress s)) }) s)
  | .nothing => mpStop s
  | .nacked => mpNack s
  | .pecError => mpPecError (mpNack s)
  | .pecMissing => mpPecError s

theorem gives_mportTimingWrite (t : DT) (x : Xfer) (s : State) : Gives (.mportTimingWrite t x) s fun u =>
    let m := moment t s
    (mpAnswers s = false → u = m)
      ∧ (mpAnswers s = true →
          (∀ l, frame (mpAddress s) 0x30 false 12 (pecEn s) x = .data l →
              u.mp = { s.mp with
                timingNext := some ({ word0 := BitVec.ofNat 32 (le l 0 4), word1 := timingWord1 (BitVec.ofNat 32 (le l 4 4)) },
                  mpControl s.mp.control (BitVec.ofNat 32 (le l 8 4)) (mpAddress s)),
                awake := if s.power.st = .dormant then some (now m) else s.mp.awake })
            ∧ (frame (mpAddress s) 0x30 false 12 (pecEn s) x = .nothing → s.power.st ≠ .dormant → u = m)
            ∧ (frame (mpAddress s) 0x30 false 12 (pecEn s) x = .nacked → u = mpNack m)
            ∧ (frame (mpAddress s) 0x30 false 12 (pecEn s) x = .pecError → u = mpPecError (mpNack m))
            ∧ (frame (mpAddress s) 0x30 false 12 (pecEn s) x = .pecMissing → u = mpPecError m)) := by
  rw [← mpAnswers_moment t s, ← mpAddress_moment t s, ← pecEn_moment t s, ← moment_mp t s, ← moment_power t s]
  refine ⟨if !mpAnswers (moment t s) then moment t s
    else retimed (frame (mpAddress (moment t s)) 0x30 false 12 (pecEn (moment t s)) x) (moment t s), rfl, ?_⟩
  generalize moment t s = n
  intro m
  refine ⟨fun h => if_pos (by rw [h]; rfl), fun h => ?_⟩
  rw [if_neg (by rw [h]; decide)]
  generalize frame (mpAddress n) 0x30 false 12 (pecEn n) x = f
  refine ⟨fun l hf => ?_, fun hf hd => ?_, fun hf => ?_, fun hf => ?_, fun hf => ?_⟩ <;> subst hf
  · exact mpStop_mp _
  · exact mpStop_awake hd
  · rfl
  · rfl
  · rfl

theorem gives_mportTimingApply (t : DT) (s : State) : Gives (.mportTimingApply t) s fun u =>
    (s.mp.timingNext = none → u.mp = s.mp)
      ∧ ∀ w c, s.mp.timingNext = some (w, c) → u.mp = { s.mp with timing := w, control := c, timingNext := none } := by
  rw [← moment_mp t s]
  refine ⟨_, rfl, ?_⟩
  generalize moment t s = n
  rw [modMp_mp]
  exact ⟨fun h => by rw [h], fun w c h => by rw [h]⟩

end Sys2Proof.Machine

/-! ## The MPORT's events, Dormant, the bus and host notify (R351, R354, R357 to R365) -/
namespace Sys2Proof.Machine

/-! ### Events -/

theorem queue0Enabled_moment (t : DT) (s : State) : queue0Enabled (moment t s) = queue0Enabled s := by
  unfold queue0Enabled
  rw [moment_host_pairs]

/-- What EVENT_FETCH removes after a read in full or in part (R351). -/
def fetchedEvents (whole : Bool) (l : List MpEvent) (s : State) : State :=
  if !whole then s
  else if queue0Enabled s then modMp (fun m => { m with mirror := m.mirror.drop l.length, lastEvents := l, lastFromQueue := false }) s
  else
    refill (modMp (fun m => { m with lastEvents := l, lastFromQueue := true }) (modHost (fun h => { h with
      evtSeq := h.evtSeq + BitVec.ofNat 16 l.length,
      pairs := upd h.pairs 0 fun p => { p with wait := takeEvents l.length p.wait } }) s))

theorem fetchedEvents_part {s : State} (l : List MpEvent) : fetchedEvents false l s = s := rfl

theorem fetchedEvents_mirror {s : State} (l : List MpEvent) (h : queue0Enabled s = true) :
    fetchedEvents true l s = modMp (fun m => { m with mirror := m.mirror.drop l.length, lastEvents := l, lastFromQueue := false }) s := by
  unfold fetchedEvents
  rw [if_neg (by decide), if_pos h]

theorem fetchedEvents_queue {s : State} (l : List MpEvent) (h : queue0Enabled s = false) : ∃ v, fetchedEvents true l s = refill v
    ∧ v.mp = { s.mp with lastEvents := l, lastFromQueue := true } ∧ v.host.evtSeq = s.host.evtSeq + BitVec.ofNat 16 l.length
    ∧ v.host.pairs[0].wait = takeEvents l.length s.host.pairs[0].wait := by
  unfold fetchedEvents
  rw [if_neg (by decide), if_neg (by rw [h]; exact Bool.false_ne_true)]
  refine ⟨_, rfl, rfl, rfl, ?_⟩
  exact congrArg Pairq.wait (upd_get_self s.host.pairs 0 fun p => { p with wait := takeEvents l.length p.wait })

/-- The state in which the events of a batch have been sent and are not yet removed. -/
def eventsSent (s : State) : State :=
  let v := (freeNow s).natAbs
  modMp (fun m => { m with lastEvents := [] })
    (useFree (mpSend 0x40 true ((eventBatch s).flatMap fun e => cqeBytes (v % 2 == 1) (epoch4 s) 0 e.seq.toNat e.entry) s))

theorem eventsSent_kept {s : State} (h : s.power.st ≠ .dormant) :
    (eventsSent s).mp = { s.mp with lastEvents := [] } ∧ (eventsSent s).host = s.host := by
  unfold eventsSent
  dsimp only
  rw [mpSend_awake h]
  exact ⟨rfl, rfl⟩

theorem gives_eventFetch (t : DT) (whole : Bool) (s : State) : Gives (.eventFetch t whole) s fun u =>
    let m := moment t s
    let l := eventBatch m
    (mpAnswers s = false → u = m)
      ∧ (mpAnswers s = true → s.power.st = .dormant → u = mpNack m)
      ∧ (mpAnswers s = true → s.power.st ≠ .dormant →
          (whole = false → u.mp = { s.mp with lastEvents := [] })
            ∧ (whole = true → queue0Enabled s = true → u.mp = { s.mp with mirror := s.mp.mirror.drop l.length, lastEvents := l, lastFromQueue := false })
            ∧ (whole = true → queue0Enabled s = false → ∃ v, u = refill v
                ∧ v.mp = { s.mp with lastEvents := l, lastFromQueue := true } ∧ v.host.evtSeq = s.host.evtSeq + BitVec.ofNat 16 l.length
                ∧ v.host.pairs[0].wait = takeEvents l.length s.host.pairs[0].wait)) := by
  rw [← mpAnswers_moment t s, ← moment_mp t s, ← moment_power t s, ← queue0Enabled_moment t s, ← moment_host_evtSeq t s,
    ← moment_host_pairs t s]
  refine ⟨if !mpAnswers (moment t s) then moment t s
    else if (moment t s).power.st == .dormant then mpNack (moment t s)
    else fetchedEvents whole (eventBatch (moment t s)) (eventsSent (moment t s)), rfl, ?_⟩
  generalize moment t s = n
  intro m l
  refine ⟨fun h => if_pos (by rw [h]; rfl), fun h hd => ?_, fun h hd => ?_⟩
  · rw [if_neg (by rw [h]; decide), if_pos (by rw [hd]; rfl)]
  · rw [if_neg (by rw [h]; decide), if_neg (by rw [beq_iff_eq]; exact hd)]
    obtain ⟨hmp, hhost⟩ := eventsSent_kept hd
    have hq : queue0Enabled (eventsSent n) = queue0Enabled n := by
      unfold queue0Enabled
      rw [hhost]
    refine ⟨fun hw => ?_, fun hw he => ?_, fun hw he => ?_⟩ <;> subst hw
    · rw [fetchedEvents_part, hmp]
    · rw [fetchedEvents_mirror _ (hq.trans he), modMp_mp, hmp]
    · obtain ⟨v, hv, vmp, vseq, vwait⟩ := fetchedEvents_queue (s := eventsSent n) (eventBatch n) (hq.trans he)
      rw [hmp] at vmp
      rw [hhost] at vseq vwait
      exact ⟨v, hv, vmp, vseq, vwait⟩

theorem gives_eventFetchRedeliver (t : DT) (s : State) : Gives (.eventFetchRedeliver t) s fun u =>
    let m := moment t s
    (mpAnswers s = false → u = m)
      ∧ (mpAnswers s = true → s.power.st = .dormant → u = mpNack m)
      ∧ (mpAnswers s = true → s.power.st ≠ .dormant →
          (s.mp.lastFromQueue = true → ∃ v, u = notifyRise m v ∧ v.host.pairs[0].wait = s.mp.lastEvents.map (·.entry) ++ s.host.pairs[0].wait)
            ∧ (s.mp.lastFromQueue = false → s.mp.lastEvents.length + s.mp.mirror.length ≤ 64 →
                ∃ v, u = notifyRise m v ∧ v.mp = { s.mp with mirror := s.mp.lastEvents ++ s.mp.mirror, lastEvents := [] })) := by
  rw [← mpAnswers_moment t s, ← moment_mp t s, ← moment_power t s, ← moment_host_pairs t s]
  refine ⟨_, rfl, ?_⟩
  generalize moment t s = n
  intro m
  refine ⟨fun h => if_pos (by rw [h]; rfl), fun h hd => ?_, fun h hd => ?_⟩
  · rw [if_neg (by rw [h]; decide), if_pos (by rw [hd]; rfl)]
  · rw [if_neg (by rw [h]; decide), if_neg (by rw [beq_iff_eq]; exact hd)]
    refine ⟨fun hq => ⟨_, rfl, ?_⟩, fun hq hl => ⟨_, rfl, ?_⟩⟩
    · rw [if_pos hq]
      exact congrArg Pairq.wait (upd_get_self n.host.pairs 0 fun p => { p with wait := n.mp.lastEvents.map (·.entry) ++ p.wait })
    · have hk : (n.mp.lastEvents ++ n.mp.mirror).length - 64 = 0 := by
        rw [List.length_append]
        omega
      rw [if_neg (by rw [hq]; exact Bool.false_ne_true), modMp_mp, modMp_mp]
      dsimp only
      rw [hk, List.drop_zero, decide_eq_false (Nat.lt_irrefl 0), Bool.or_false]

/-! ### Dormant -/

theorem gives_mportDormantMatch (t : DT) (s : State) : Gives (.mportDormantMatch t) s fun u =>
    (s.power.st = .dormant → u.mp = { s.mp with awake := some (now (moment t s)) }) ∧ (s.power.st ≠ .dormant → u = moment t s) := by
  rw [← moment_mp t s, ← moment_power t s]
  refine ⟨_, rfl, fun h => ?_, mpStop_awake⟩
  rw [mpStop_mp, if_pos h]

theorem gives_mportRegateTimeout (t : DT) (s : State) : Gives (.mportRegateTimeout t) s fun u =>
    let m := moment t s
    (∀ d, s.power.st = .dormant → s.mp.awake = some d → msDt 100 ≤ dtSince d (now m) → u.mp = { s.mp with awake := none })
      ∧ (s.power.st ≠ .dormant ∨ s.mp.awake = none → u = m) ∧ (∀ d, s.mp.awake = some d → dtSince d (now m) < msDt 100 → u = m) := by
  rw [← moment_mp t s, ← moment_power t s]
  refine ⟨_, rfl, ?_⟩
  generalize moment t s = n
  intro m
  refine ⟨fun d hd ha hl => ?_, fun h => if_neg ?_, fun d ha hl => if_neg ?_⟩
  · rw [if_pos (by rw [hd, ha, Option.any_some, decide_eq_true hl]; rfl)]
    rfl
  · rw [Bool.and_eq_true, beq_iff_eq]
    rintro ⟨hd, ha⟩
    exact h.elim (fun h => h hd) fun h => by rw [h] at ha; cases ha
  · rw [ha, Option.any_some, decide_eq_false (Nat.not_le.mpr hl), Bool.and_false]
    exact Bool.false_ne_true

/-! ### Stretching and the stuck bus -/

theorem gives_portDown (t : DT) (p : Port2) (s : State) (h : portUp p s = false) :
    (Gives (.stretchTimeout t p) s fun u => u = moment t s) ∧ (Gives (.sclHeldTimeout t p) s fun u => u = moment t s)
      ∧ (Gives (.sdaSelfHeld t p) s fun u => u = moment t s) ∧ ∀ scl : Bool, Gives (.lineHeldByOther t p scl) s fun u => u = moment t s := by
  have hm : portUp p (moment t s) = false := (portUp_moment t p s).trans h
  refine ⟨⟨_, rfl, ?_⟩, ⟨_, rfl, ?_⟩, ⟨_, rfl, ?_⟩, fun scl => ⟨_, rfl, ?_⟩⟩
  · exact if_pos (by rw [hm]; rfl)
  · exact if_neg (by rw [hm]; exact Bool.false_ne_true)
  · exact if_pos (by rw [hm]; rfl)
  · exact if_pos (by rw [hm]; rfl)

section up
variable {t : DT} {s : State} {p : Port2}

theorem not_portUp_moment (h : portUp p s = true) : ¬ (!portUp p (moment t s)) = true := by
  rw [portUp_moment, h]
  decide

theorem gives_stretchTimeout_mport (h : portUp .mport s = true) :
    Gives (.stretchTimeout t .mport) s fun u => u.mp = { s.mp with stretchTo := true } ∧ u.sg = s.sg := by
  rw [← moment_mp t s, ← moment_sg t s]
  refine ⟨_, rfl, ?_⟩
  rw [if_neg (not_portUp_moment h)]
  exact ⟨rfl, rfl⟩

theorem gives_stretchTimeout_lport (h : portUp .lport s = true) :
    Gives (.stretchTimeout t .lport) s fun u => u.sg = { s.sg with stretchTo := true } ∧ u.mp = s.mp := by
  rw [← moment_mp t s, ← moment_sg t s]
  refine ⟨_, rfl, ?_⟩
  rw [if_neg (not_portUp_moment h)]
  exact ⟨rfl, rfl⟩

theorem gives_sclHeldTimeout (h : portUp p s = true) : Gives (.sclHeldTimeout t p) s fun u =>
    u.outbox = .pin (lineOf p false) true :: .pin (lineOf p true) true :: (moment t s).outbox ∧ u.mp = s.mp ∧ u.sg = s.sg := by
  rw [← moment_mp t s, ← moment_sg t s]
  refine ⟨_, rfl, ?_⟩
  rw [if_pos ((portUp_moment t p s).trans h)]
  exact ⟨rfl, rfl, rfl⟩

theorem gives_sdaSelfHeld_mport (h : portUp .mport s = true) : Gives (.sdaSelfHeld t .mport) s fun u => ∃ v, u = busStuckEvent 1 0 v
    ∧ v.mp = { s.mp with sdaReleased := true } ∧ v.outbox = .pin 1 true :: (moment t s).outbox := by
  rw [← moment_mp t s]
  refine ⟨_, rfl, ?_⟩
  rw [if_neg (not_portUp_moment h)]
  exact ⟨_, rfl, rfl, rfl⟩

theorem gives_sdaSelfHeld_lport (h : portUp .lport s = true) :
    Gives (.sdaSelfHeld t .lport) s fun u => u = emit (.pin 3 true) (moment t s) := by
  refine ⟨_, rfl, ?_⟩
  rw [if_neg (not_portUp_moment h)]
  rfl

theorem gives_lineHeldByOther_mport (scl : Bool) (h : portUp .mport s = true) : Gives (.lineHeldByOther t .mport scl) s fun u =>
    ∃ v, u = busStuckEvent 0 (bit scl) v ∧ v.mp = { s.mp with busStuck := true, stuckLine := scl } := by
  rw [← moment_mp t s]
  refine ⟨_, rfl, ?_⟩
  rw [if_neg (not_portUp_moment h)]
  exact ⟨_, rfl, rfl⟩

theorem gives_lineHeldByOther_lport (scl : Bool) (h : portUp .lport s = true) : Gives (.lineHeldByOther t .lport scl) s fun u =>
    u.sg = { s.sg with busStuck := true } ∧ u.mp = s.mp := by
  rw [← moment_mp t s, ← moment_sg t s]
  refine ⟨_, rfl, ?_⟩
  rw [if_neg (not_portUp_moment h)]
  exact ⟨rfl, rfl⟩
end up

theorem gives_busStuckClear_mport (t : DT) (s : State) : Gives (.busStuckClear t .mport) s fun u =>
    (s.mp.busStuck = false → u = moment t s)
      ∧ (s.mp.busStuck = true → ∃ v, u = busStuckEvent 2 (bit s.mp.stuckLine) v
          ∧ v.mp = { s.mp with busStuck := false, hnPending := s.mp.hnPending || hnEn s, hnTries := 0 }) := by
  have hn : hnEn (moment t s) = hnEn s := by
    unfold hnEn
    rw [moment_mp]
  rw [← hn, ← moment_mp t s]
  refine ⟨_, rfl, ?_⟩
  dsimp only
  refine ⟨fun h => if_neg (by rw [h]; exact Bool.false_ne_true), fun h => ?_⟩
  rw [if_pos h]
  exact ⟨_, rfl, rfl⟩

theorem gives_busStuckClear_lport (t : DT) (s : State) :
    Gives (.busStuckClear t .lport) s fun u => u.sg = { s.sg with busStuck := false } ∧ u.mp = s.mp := by
  rw [← moment_mp t s, ← moment_sg t s]
  exact ⟨_, rfl, rfl, rfl⟩

/-! ### Host notify -/

/-- What follows an attempt at a host notify (R357, R358). -/
def notified (o : NotifyOutcome) (s : State) : State :=
  match o with
  | .sent =>
    emit (.twoWire .mport (addrByte (s.mp.control.toNat / 256 % 128) false :: BitVec.ofNat 8 (2 * mpAddress s) :: (mpStatus s).take 2))
      (modMp (fun m => { m with hnPending := false, hnTries := 0 }) s)
  | .nacked =>
    if 2 ≤ s.mp.hnTries then modMp (fun m => { m with hnPending := false, hnTries := 0, nackHn := true }) s
    else modMp (fun m => { m with hnTries := m.hnTries + 1 }) s
  | .arbLost => modMp (fun m => { m with arbLost := true, arbLosses := m.arbLosses + 1 }) s

theorem gives_hostNotifySend (t : DT) (o : NotifyOutcome) (s : State) : Gives (.hostNotifySend t o) s fun u =>
    let may := s.mp.hnPending = true ∧ s.mp.busStuck = false ∧ hnEn s = true
    (¬ may → u = moment t s)
      ∧ (may → o = .sent → u.mp = { s.mp with hnPending := false, hnTries := 0 }
          ∧ u.outbox = .twoWire .mport (addrByte (s.mp.control.toNat / 256 % 128) false :: BitVec.ofNat 8 (2 * mpAddress s) ::
              (mpStatus (moment t s)).take 2) :: (moment t s).outbox)
      ∧ (may → o = .nacked → u.mp = if 2 ≤ s.mp.hnTries then { s.mp with hnPending := false, hnTries := 0, nackHn := true }
          else { s.mp with hnTries := s.mp.hnTries + 1 })
      ∧ (may → o = .arbLost → u.mp = { s.mp with arbLost := true, arbLosses := s.mp.arbLosses + 1 }) := by
  have hn : hnEn (moment t s) = hnEn s := by
    unfold hnEn
    rw [moment_mp]
  rw [← hn, ← mpAddress_moment t s, ← moment_mp t s]
  refine ⟨if !(moment t s).mp.hnPending || (moment t s).mp.busStuck || !hnEn (moment t s) then moment t s
    else notified o (moment t s), rfl, ?_⟩
  generalize moment t s = m
  intro may
  have hmay : ¬ (!m.mp.hnPending || m.mp.busStuck || !hnEn m) = true ↔ may := by
    simp only [Bool.or_eq_true, Bool.not_eq_true', not_or, Bool.not_eq_false, Bool.not_eq_true, and_assoc, may]
  refine ⟨fun h => if_pos (not_not.mp (mt hmay.mp h)), fun h ho => ?_, fun h ho => ?_, fun h ho => ?_⟩ <;>
    rw [if_neg (hmay.mpr h)] <;> subst ho
  · exact ⟨rfl, rfl⟩
  · unfold notified
    dsimp only
    split <;> rfl
  · rfl

/-- Settles O56, code by code and bus event by bus event. -/
theorem mportAnswersAndDelivers : Obligations.MportAnswersAndDelivers := by
  unfold Obligations.MportAnswersAndDelivers
  exact ⟨gives_mportStatus, gives_cmdSubmit, gives_cmdResult, gives_cmdResultRedeliver, gives_mportTimingRead, gives_mportTimingWrite,
    gives_mportTimingApply, gives_eventFetch, gives_eventFetchRedeliver, gives_mportDormantMatch, gives_mportRegateTimeout, gives_portDown,
    fun _ _ => gives_stretchTimeout_mport, fun _ _ => gives_stretchTimeout_lport, fun _ _ _ => gives_sclHeldTimeout,
    fun _ _ => gives_sdaSelfHeld_mport, fun _ _ => gives_sdaSelfHeld_lport, fun _ scl _ => gives_lineHeldByOther_mport scl,
    fun _ scl _ => gives_lineHeldByOther_lport scl, gives_busStuckClear_mport, gives_busStuckClear_lport, gives_hostNotifySend⟩

end Sys2Proof.Machine

/-! ## The LPORT: its frames, reads and responses, requests and the legal log's position (R364, R365, R381 to R392) -/
namespace Sys2Proof.Machine

/-! ### Frames -/

theorem frame_data_length {addr code n : Nat} {counted : Bool} {x : Xfer} {l : List Byte} (h : frame addr code counted n true x = .data l) :
    l.length = n := by
  unfold frame at h
  dsimp only at h
  generalize (if counted then x.data.drop 1 else x.data) = body at h
  rw [Bool.not_true, if_neg Bool.false_ne_true] at h
  split at h
  · cases h
  · next h1 =>
    split at h
    · cases h
    · next h2 =>
      have hle : ¬ n < body.length := fun hc => h1 (by rw [decide_eq_true hc, Bool.or_true])
      have hge : ¬ body.length < n := fun hc => h2 (by rw [decide_eq_true hc, Bool.or_true])
      split at h
      · split at h
        · rw [← Framed.data.inj h]
          omega
        · cases h
      · cases h

/-- The byte count that a write gives, or its length. -/
def writeCount (counted : Bool) (x : Xfer) : Nat := if counted then (x.data.headD 0).toNat else x.data.length

theorem lpWake_sg (t : DT) (s : State) : (lpWake (moment t s)).sg = { s.sg with halted := false } := by
  unfold lpWake
  rw [modSg_sg, moment_sg]

theorem lpWake_responses (t : DT) (s : State) : (lpWake (moment t s)).sg.responses = s.sg.responses := by rw [lpWake_sg]

/-- What an LPORT write in its frame does (R348, R349, R364). -/
def lpFramed (f : Framed) (body : List Byte → State → State) (s : State) : State :=
  match f with
  | .data l => body l s
  | .nothing => s
  | .nacked => lpNack s
  | .pecError => lpPecError (lpNack s)
  | .pecMissing => lpPecError s

section write
variable {t : DT} {code : Nat} {counted : Bool} {ok : Nat → Bool} {x : Xfer} {body : List Byte → State → State} {s : State}

/-- Whether the LPORT takes a write of a code: it answers, and the store of responses has room. -/
def LpOpen (code : Nat) (t : DT) (s : State) : Prop := lpAnswers code (lpWake (moment t s)) = true ∧ s.sg.responses.length < 8

theorem lpWrite_closed (h : ¬ LpOpen code t s) : lpWrite t code counted ok x body s = lpNack (lpWake (moment t s)) := by
  refine if_pos ?_
  rw [Bool.or_eq_true, Bool.not_eq_true', decide_eq_true_eq, lpWake_responses]
  by_contra hc
  obtain ⟨ha, hl⟩ := not_or.mp hc
  exact h ⟨(Bool.not_eq_false _).mp ha, Nat.not_le.mp hl⟩

theorem not_lpClosed (h : LpOpen code t s) :
    ¬ (!lpAnswers code (lpWake (moment t s)) || decide (8 ≤ (lpWake (moment t s)).sg.responses.length)) = true := by
  rw [h.1, Bool.not_true, Bool.false_or, decide_eq_true_eq, lpWake_responses]
  exact Nat.not_le.mpr h.2

theorem lpWrite_badLength (h : LpOpen code t s) (hn : ok (writeCount counted x) = false) : lpWrite t code counted ok x body s
    = if (counted && !x.data.isEmpty) || (List.range (writeCount counted x)).any ok then lpNack (lpWake (moment t s)) else lpWake (moment t s) := by
  have hok : (!ok (writeCount counted x)) = true := by rw [hn]; rfl
  exact (if_neg (not_lpClosed h)).trans (if_pos hok)

theorem lpWrite_framed (h : LpOpen code t s) (hn : ok (writeCount counted x) = true) : lpWrite t code counted ok x body s
    = lpFramed (frame lpAddress code counted (writeCount counted x) true x) body (lpWake (moment t s)) := by
  have hok : ¬ (!ok (writeCount counted x)) = true := by rw [hn]; decide
  exact (if_neg (not_lpClosed h)).trans (if_neg hok)

theorem lpWrite_takes {l : List Byte} (h : LpTakes code counted x t s l) (hok : ok l.length = true) :
    lpWrite t code counted ok x body s = body l (lpWake (moment t s)) := by
  obtain ⟨ha, hr, hf⟩ := h
  have hn : ok (writeCount counted x) = true := by
    rw [← hok, frame_data_length hf]
    rfl
  rw [lpWrite_framed ⟨ha, hr⟩ hn, show frame lpAddress code counted (writeCount counted x) true x = .data l from hf]
  rfl
end write

theorem anyLength_iff {counted : Bool} {ok : Nat → Bool} {x : Xfer} {n : Nat} :
    ((counted && !x.data.isEmpty) || (List.range n).any ok) = true
      ↔ (counted = true ∧ x.data ≠ []) ∨ ∃ k, k < n ∧ ok k = true := by
  simp only [Bool.or_eq_true, Bool.and_eq_true, Bool.not_eq_true', List.isEmpty_eq_false_iff, List.any_eq_true, List.mem_range]

theorem lpWrite_outcomes (t : DT) (code : Nat) (counted : Bool) (ok : Nat → Bool) (x : Xfer) (body : List Byte → State → State) (s : State) :
    let m := lpWake (moment t s)
    let n := if counted then (x.data.headD 0).toNat else x.data.length
    let u := lpWrite t code counted ok x body s
    let open_ := lpAnswers code m = true ∧ s.sg.responses.length < 8
    (¬ open_ → u = lpNack m)
      ∧ (open_ → ok n = false → (counted = true ∧ x.data ≠ []) ∨ (∃ k, k < n ∧ ok k = true) → u = lpNack m)
      ∧ (open_ → ok n = false → counted = false ∨ x.data = [] → (∀ k, k < n → ok k = false) → u = m)
      ∧ (open_ → ok n = true → frame lpAddress code counted n true x = .nothing → u = m)
      ∧ (open_ → ok n = true → frame lpAddress code counted n true x = .nacked → u = lpNack m)
      ∧ (open_ → ok n = true → frame lpAddress code counted n true x = .pecError → u = lpPecError (lpNack m))
      ∧ (open_ → ok n = true → frame lpAddress code counted n true x = .pecMissing →
          u = lpPecError m ∧ u.sg = { s.sg with halted := false, pecErr := true, pecErrors := s.sg.pecErrors + 1 })
      ∧ (∀ l, LpTakes code counted x t s l → ok l.length = true → u = body l m) := by
  intro m n u open_
  have hframed (ho : open_) (hn : ok n = true) {f : Framed} (hf : frame lpAddress code counted n true x = f) : u = lpFramed f body m := by
    rw [← hf]
    exact lpWrite_framed ho hn
  refine ⟨lpWrite_closed, fun ho hn hc => ?_, fun ho hn hc hk => ?_, fun ho hn => hframed ho hn, fun ho hn => hframed ho hn, fun ho hn => hframed ho hn,
    fun ho hn hf => ?_, fun l hl hok => lpWrite_takes hl hok⟩
  · exact (lpWrite_badLength ho hn).trans (if_pos (anyLength_iff.mpr hc))
  · refine (lpWrite_badLength ho hn).trans (if_neg ?_)
    rw [anyLength_iff]
    rintro (⟨h1, h2⟩ | ⟨k, hlt, hokk⟩)
    · exact hc.elim (fun h => by rw [h] at h1; cases h1) h2
    · rw [hk k hlt] at hokk
      cases hokk
  · have hu : u = lpPecError m := hframed ho hn hf
    refine ⟨hu, ?_⟩
    rw [hu]
    unfold lpPecError
    rw [modSg_sg, lpWake_sg]

/-! ### Reads -/

theorem lpRead_answers {t : DT} {code : Nat} {s : State} (counted : Bool) (data : State → List Byte)
    (h : lpAnswers code (lpWake (moment t s)) = true) :
    lpRead t code counted data s = lpSend code counted (data (lpWake (moment t s))) (lpWake (moment t s)) := if_pos h

theorem lpRead_refused {t : DT} {code : Nat} {s : State} (counted : Bool) (data : State → List Byte)
    (h : lpAnswers code (lpWake (moment t s)) = false) : lpRead t code counted data s = lpNack (lpWake (moment t s)) :=
  if_neg (by rw [h]; exact Bool.false_ne_true)

theorem gives_lportAddressWake (t : DT) (s : State) : Gives (.lportAddressWake t) s fun u => u.sg = { s.sg with halted := false } :=
  ⟨_, rfl, lpWake_sg t s⟩

theorem gives_lportSgStatus (t : DT) (s : State) : Gives (.lportSgStatus t) s fun u =>
    let m := lpWake (moment t s)
    (lpAnswers 0x01 m = true → u = lpSend 0x01 false (sgStatusBytes m) m) ∧ (lpAnswers 0x01 m = false → u = lpNack m) :=
  ⟨_, rfl, lpRead_answers _ _, lpRead_refused _ _⟩

theorem gives_sgIdentify (t : DT) (s : State) : Gives (.sgIdentify t) s fun u =>
    let m := lpWake (moment t s)
    (lpAnswers 0x02 m = true → u = lpSend 0x02 true (sgIdentifyBytes m) m) ∧ (lpAnswers 0x02 m = false → u = lpNack m) :=
  ⟨_, rfl, lpRead_answers _ _, lpRead_refused _ _⟩

theorem gives_sgPortRead (t : DT) (s : State) : Gives (.sgPortRead t) s fun u =>
    let m := lpWake (moment t s)
    (lpAnswers 0x03 m = true → u = lpSend 0x03 false (sgPortBytes m) m) ∧ (lpAnswers 0x03 m = false → u = lpNack m) :=
  ⟨_, rfl, lpRead_answers _ _, lpRead_refused _ _⟩

theorem gives_sgCounters (t : DT) (s : State) : Gives (.sgCounters t) s fun u =>
    let m := lpWake (moment t s)
    (lpAnswers 0x04 m = true → u = lpSend 0x04 false (s.sg.counters.toList.flatMap fun c => leBytes 4 c.toNat) m)
      ∧ (lpAnswers 0x04 m = false → u = lpNack m) := by
  have hbytes : sgCounterBytes (lpWake (moment t s)) = s.sg.counters.toList.flatMap fun c => leBytes 4 c.toNat := by
    unfold sgCounterBytes
    rw [lpWake_sg]
  rw [← hbytes]
  exact ⟨_, rfl, lpRead_answers _ _, lpRead_refused _ _⟩

/-! ### Responses -/

/-- The store after the oldest response `r` has been read (R392). -/
def responseRead (whole : Bool) (r : Option (List Byte)) (g : SaggarSt) : SaggarSt :=
  match r with
  | some l => if whole then fillResponses { g with responses := g.responses.drop 1, lastResponse := some l } else { g with lastResponse := none }
  | none => { g with lastResponse := none }

theorem fillResponses_noneLate {g : SaggarSt} (h : g.lateResponses = []) : fillResponses g = g := by
  unfold fillResponses
  dsimp only
  rw [h, List.take_nil, List.drop_nil, List.append_nil, ← h]

theorem lpAnswers_lpSend (code c : Nat) (counted : Bool) (l : List Byte) (s : State) :
    lpAnswers code (lpSend c counted l s) = lpAnswers code s := rfl

theorem modSg_same {f : SaggarSt → SaggarSt} {s : State} (h : f s.sg = s.sg) : modSg f s = s := by
  unfold modSg
  rw [h]

theorem gives_sgResponse (t : DT) (whole : Bool) (s : State) : Gives (.sgResponse t whole) s fun u =>
    let m := lpWake (moment t s)
    (lpAnswers 0x09 m = false → u = lpNack m)
      ∧ (lpAnswers 0x09 m = true → u.outbox = .twoWire .lport (readBytes lpAddress 0x09 true true (s.sg.responses.headD [])) :: m.outbox
          ∧ (∀ l, whole = true → s.sg.responses.head? = some l → s.sg.lateResponses = [] →
              u.sg = { s.sg with halted := false, responses := s.sg.responses.drop 1, lastResponse := some l })
          ∧ (whole = false ∨ s.sg.responses = [] → u.sg = { s.sg with halted := false, lastResponse := none })) := by
  refine ⟨if !lpAnswers 0x09 (lpRead t 0x09 true (fun s => s.sg.responses.headD []) s) then lpRead t 0x09 true (fun s => s.sg.responses.headD []) s
    else modSg (responseRead whole s.sg.responses.head?) (lpRead t 0x09 true (fun s => s.sg.responses.headD []) s), rfl, ?_⟩
  beta_reduce
  intro m
  refine ⟨fun h => ?_, fun h => ?_⟩
  · rw [lpRead_refused _ _ h]
    refine if_pos ?_
    show (!lpAnswers 0x09 m) = true
    rw [h]
    rfl
  · rw [lpRead_answers _ _ h, if_neg (by rw [lpAnswers_lpSend, h]; decide), lpWake_responses]
    refine ⟨rfl, fun l hw hl hlate => ?_, fun hc => ?_⟩
    · have hsg : (lpSend 0x09 true (s.sg.responses.headD []) (lpWake (moment t s))).sg = { s.sg with halted := false } := lpWake_sg t s
      rw [modSg_sg, hsg, hl]
      unfold responseRead
      dsimp only
      rw [if_pos hw]
      exact fillResponses_noneLate (by exact hlate)
    · have hsg : (lpSend 0x09 true (s.sg.responses.headD []) (lpWake (moment t s))).sg = { s.sg with halted := false } := lpWake_sg t s
      rw [modSg_sg, hsg]
      unfold responseRead
      rcases hc with hc | hc
      · rw [hc]
        split <;> rfl
      · have hnone : s.sg.responses.head? = none := by rw [hc, List.head?_nil]
        rw [hnone]

theorem gives_sgResponseRedeliver (t : DT) (s : State) : Gives (.sgResponseRedeliver t) s fun u =>
    let m := lpWake (moment t s)
    (lpAnswers 0x0A m = false → u = lpNack m)
      ∧ (lpAnswers 0x0A m = true → s.sg.lastResponse = none → u = m)
      ∧ (lpAnswers 0x0A m = true → ∀ l, s.sg.lastResponse = some l →
          u.sg = { s.sg with halted := false, responses := l :: s.sg.responses, lastResponse := none }) := by
  refine ⟨_, rfl, ?_⟩
  have hsg := lpWake_sg t s
  beta_reduce
  intro m
  change m.sg = _ at hsg
  have hlast : m.sg.lastResponse = s.sg.lastResponse := by rw [hsg]
  refine ⟨fun h => if_pos (by rw [h]; rfl), fun h hl => ?_, fun h l hl => ?_⟩
  · rw [if_neg (show ¬ (!lpAnswers 0x0A m) = true by rw [h]; decide)]
    refine modSg_same ?_
    rw [show (lpWake (moment t s)).sg.lastResponse = none from hlast.trans hl]
  · rw [if_neg (show ¬ (!lpAnswers 0x0A m) = true by rw [h]; decide), modSg_sg, hlast, hl]
    dsimp only
    rw [hsg]

end Sys2Proof.Machine

/-! ## The LPORT: the legal log's position, results, requests and cancellations (R381 to R392) -/
namespace Sys2Proof.Machine

/-! ### A write that is taken -/

theorem gives_lpWrite {i : Instr} {code : Nat} {counted : Bool} {ok : Nat → Bool} {x : Xfer} {body : List Byte → State → State} {t : DT}
    {s : State} {l : List Byte} {P : State → Prop} (hexec : exec i s = .next (lpWrite t code counted ok x body s))
    (h : LpTakes code counted x t s l) (hok : ok l.length = true) (hP : P (body l (lpWake (moment t s)))) : Gives i s P :=
  ⟨_, hexec, by rw [lpWrite_takes h hok]; exact hP⟩

theorem respond_sg (st : Status) (code : Nat) (data : List Byte) (s : State) :
    (respond st code data s).sg = { s.sg with responses := s.sg.responses ++ [responseOf st code data] } := rfl

/-! ### The legal log -/

theorem logNext_halted (g : SaggarSt) : logNext { g with halted := false } = logNext g := rfl

theorem lpWake_logNext (t : DT) (s : State) : logNext (lpWake (moment t s)).sg = logNext s.sg := by
  rw [lpWake_sg, logNext_halted]

/-- The position after a Sherd has been read in full (R392). -/
def logAdvance (g : SaggarSt) : SaggarSt :=
  match logNext g with
  | some x => { g with seek := x.1 + 1 }
  | none => g

theorem logAdvance_seek (g : SaggarSt) : (logNext g = none → (logAdvance g).seek = g.seek)
    ∧ ∀ q d, logNext g = some (q, d) → (logAdvance g).seek = q + 1 := by
  unfold logAdvance
  exact ⟨fun h => by rw [h], fun q d h => by rw [h]⟩

/-- The bytes that SG_LOG_READ sends (R392). -/
def logBytes (g : SaggarSt) : List Byte := match logNext g with | some x => x.2 | none => []

theorem logBytes_of (g : SaggarSt) : (logNext g = none → logBytes g = []) ∧ ∀ q d, logNext g = some (q, d) → logBytes g = d := by
  unfold logBytes
  exact ⟨fun h => by rw [h], fun q d h => by rw [h]⟩

/-- SG_LOG_READ after its bytes have been sent or refused (R392). -/
def logReadEnd (whole : Bool) (s : State) : State := if lpAnswers 0x11 s && whole then modSg logAdvance s else s

theorem logReadEnd_seek {s : State} (whole : Bool) (h : lpAnswers 0x11 s = true) :
    (logReadEnd whole s).outbox = s.outbox ∧ (logReadEnd whole s).sg.seek = if whole then (logAdvance s.sg).seek else s.sg.seek := by
  unfold logReadEnd
  rw [h, Bool.true_and]
  split <;> exact ⟨rfl, rfl⟩

theorem gives_sgLogRead (t : DT) (whole : Bool) (s : State) : Gives (.sgLogRead t whole) s fun u =>
    let m := lpWake (moment t s)
    (lpAnswers 0x11 m = false → u = lpNack m)
      ∧ (lpAnswers 0x11 m = true → (logNext s.sg = none →
            u.outbox = .twoWire .lport (readBytes lpAddress 0x11 true true []) :: m.outbox ∧ u.sg.seek = s.sg.seek)
          ∧ ∀ q d, logNext s.sg = some (q, d) → u.outbox = .twoWire .lport (readBytes lpAddress 0x11 true true d) :: m.outbox
            ∧ u.sg.seek = if whole then q + 1 else s.sg.seek) := by
  refine ⟨logReadEnd whole (lpRead t 0x11 true (fun s => logBytes s.sg) s), rfl, ?_⟩
  have hseek : (lpWake (moment t s)).sg.seek = s.sg.seek := by rw [lpWake_sg]
  rw [← lpWake_logNext t s, ← hseek]
  beta_reduce
  intro m
  refine ⟨fun h => ?_, fun h => ?_⟩
  · rw [lpRead_refused _ _ h]
    refine if_neg ?_
    rw [show lpAnswers 0x11 (lpNack m) = false from h, Bool.false_and]
    exact Bool.false_ne_true
  · rw [lpRead_answers _ _ h]
    obtain ⟨hout, hsk⟩ := logReadEnd_seek (s := lpSend 0x11 true (logBytes m.sg) m) whole h
    refine ⟨fun hn => ⟨?_, ?_⟩, fun q d hn => ⟨?_, ?_⟩⟩
    · rw [← (logBytes_of m.sg).1 hn]
      exact hout
    · refine hsk.trans ?_
      rw [show (logAdvance (lpSend 0x11 true (logBytes m.sg) m).sg).seek = m.sg.seek from (logAdvance_seek m.sg).1 hn]
      exact ite_self _
    · rw [← (logBytes_of m.sg).2 q d hn]
      exact hout
    · refine hsk.trans ?_
      rw [show (logAdvance (lpSend 0x11 true (logBytes m.sg) m).sg).seek = q + 1 from (logAdvance_seek m.sg).2 q d hn]
      rfl

theorem gives_sgLogSeek (t : DT) (x : Xfer) (s : State) (l : List Byte) (h : LpTakes 0x10 false x t s l) (hl : l.length = 8) :
    Gives (.sgLogSeek t x) s fun u =>
      u.sg = { s.sg with halted := false, seek := BitVec.ofNat 64 (le l 0 8), responses := s.sg.responses ++ [responseOf .ok 0x10 []] } := by
  refine gives_lpWrite rfl h (beq_iff_eq.mpr hl) ?_
  unfold doSgLogSeek
  rw [respond_sg, modSg_sg, lpWake_sg]

/-! ### Results and jobs -/

theorem gives_sgResult (t : DT) (x : Xfer) (s : State) (l : List Byte) (h : LpTakes 0x0C true x t s l) (hl : l.length = 4) :
    Gives (.sgResult t x) s fun u =>
      let m := lpWake (moment t s)
      let open_ := s.sg.jobs.any fun j => j.id.toNat == le l 0 4
      let done := s.sg.results.find? fun r => r.job.toNat == le l 0 4
      (open_ = true → u = respond .errState 0x0C [] m)
        ∧ (open_ = false → done = none → u = respond .errParam 0x0C [] m)
        ∧ (open_ = false → ∀ r, done = some r → u = respond .ok 0x0C (resultArea r ++ resultTail r) m) := by
  refine gives_lpWrite rfl h (beq_iff_eq.mpr hl) ?_
  have hj : (lpWake (moment t s)).sg.jobs = s.sg.jobs := by rw [lpWake_sg]
  have hr : (lpWake (moment t s)).sg.results = s.sg.results := by rw [lpWake_sg]
  rw [← hj, ← hr]
  unfold doSgResult
  intro m open_ done
  refine ⟨fun ho => if_pos ho, fun ho hd => ?_, fun ho r hd => ?_⟩
  · rw [if_neg (Bool.eq_false_iff.mp ho), show m.sg.results.find? _ = none from hd]
  · rw [if_neg (Bool.eq_false_iff.mp ho), show m.sg.results.find? _ = some r from hd]

/-- What SG_MEASURE answers to a request, as it is judged (R392). -/
def measureAnswer (b : Option BadRequest) (r : Request) (c : Fin 64) (s : State) : State :=
  match b with
  | some .state => respond .errState 0x08 [] s
  | some .resource => respond .noResource 0x08 [] s
  | some _ => respond .errParam 0x08 [] s
  | none =>
    let (j, s) := queueJob r c s
    respond .ok 0x08 (leBytes 4 j.id.toNat ++ leBytes 8 (dtInt j.planned)) s

theorem doSgMeasure_eq {l : List Byte} {c : Fin 64} (hc : le l 0 2 = c.val) (s : State) : doSgMeasure l s =
    if 4 < (requestOf l).quantity || 3 < (requestOf l).sel then respond .errParam 0x08 [] s
    else measureAnswer (judge (requestOf l) c s) (requestOf l) c s := by
  unfold doSgMeasure
  rw [idx_eq_some hc]
  rfl

theorem queueJob_queues (r : Request) (c : Fin 64) (s : State) : (queueJob r c s).2.sg.jobs = s.sg.jobs ++ [(queueJob r c s).1]
    ∧ (queueJob r c s).1.lport = r.lport ∧ (queueJob r c s).1.id = s.sg.nextJob := ⟨rfl, rfl, rfl⟩

theorem gives_sgMeasure (t : DT) (x : Xfer) (s : State) (l : List Byte) (c : Fin 64) (h : LpTakes 0x08 true x t s l) (hl : l.length = 24)
    (hc : le l 0 2 = c.val) : Gives (.sgMeasure t x) s fun u =>
      let m := lpWake (moment t s)
      let r := requestOf l
      (4 < r.quantity ∨ 3 < r.sel → u = respond .errParam 0x08 [] m)
        ∧ (r.quantity ≤ 4 → r.sel ≤ 3 →
            (judge r c m = some .state → u = respond .errState 0x08 [] m)
              ∧ (judge r c m = some .resource → u = respond .noResource 0x08 [] m)
              ∧ (judge r c m = some .quantity ∨ judge r c m = some .duration ∨ judge r c m = some .bandwidth → u = respond .errParam 0x08 [] m)
              ∧ (judge r c m = none → ∃ j v, (j, v) = queueJob r c m ∧ u = respond .ok 0x08 (leBytes 4 j.id.toNat ++ leBytes 8 (dtInt j.planned)) v
                  ∧ v.sg.jobs = s.sg.jobs ++ [j] ∧ j.lport = true ∧ j.id = s.sg.nextJob)) := by
  refine gives_lpWrite rfl h (beq_iff_eq.mpr hl) ?_
  have hj : (lpWake (moment t s)).sg.jobs = s.sg.jobs := by rw [lpWake_sg]
  have hn : (lpWake (moment t s)).sg.nextJob = s.sg.nextJob := by rw [lpWake_sg]
  rw [doSgMeasure_eq hc, ← hj, ← hn]
  intro m r
  refine ⟨fun hb => if_pos (by simpa using hb), fun hq hs => ?_⟩
  rw [if_neg (by rw [Bool.or_eq_true, decide_eq_true_eq, decide_eq_true_eq]; exact not_or.mpr ⟨Nat.not_lt.mpr hq, Nat.not_lt.mpr hs⟩)]
  have hanswer {b : Option BadRequest} (hb : judge r c m = b) : measureAnswer (judge r c m) r c m = measureAnswer b r c m := by rw [hb]
  refine ⟨fun hb => hanswer hb, fun hb => hanswer hb, fun hb => ?_, fun hb => ?_⟩
  · rcases hb with hb | hb | hb <;> exact hanswer hb
  · obtain ⟨hjobs, hlp, hid⟩ := queueJob_queues r c m
    exact ⟨(queueJob r c m).1, (queueJob r c m).2, rfl, hanswer hb, hjobs, hlp, hid⟩

theorem gives_sgCancel (t : DT) (x : Xfer) (s : State) (l : List Byte) (h : LpTakes 0x0B true x t s l) (hl : l.length = 4) :
    Gives (.sgCancel t x) s fun u =>
      let m := lpWake (moment t s)
      let mine := s.sg.jobs.find? fun j => j.id.toNat == le l 0 4 && j.lport && !j.fault
      (mine = none → u = respond .errParam 0x0B [] m) ∧ (∀ j, mine = some j → u = cutJob j 64 (respond .ok 0x0B [] m)) := by
  refine gives_lpWrite rfl h (beq_iff_eq.mpr hl) ?_
  have hj : (lpWake (moment t s)).sg.jobs = s.sg.jobs := by rw [lpWake_sg]
  rw [← hj]
  unfold doSgCancel
  intro m mine
  exact ⟨fun hm => by rw [show m.sg.jobs.find? _ = none from hm], fun j hm => by rw [show m.sg.jobs.find? _ = some j from hm]⟩

/-- Settles O57: the judgement of a write once for every code, then read by read and request by request. -/
theorem lportReadsJudgesAndResponds : Obligations.LportReadsJudgesAndResponds := by
  unfold Obligations.LportReadsJudgesAndResponds
  exact ⟨lpWrite_outcomes, gives_lportAddressWake, gives_lportSgStatus, gives_sgIdentify, gives_sgPortRead, gives_sgCounters, gives_sgResponse,
    gives_sgResponseRedeliver, gives_sgLogRead, gives_sgLogSeek, gives_sgResult, gives_sgMeasure, gives_sgCancel⟩

end Sys2Proof.Machine

/-! ## The LPORT's legally relevant changes (R372 to R377, R380, R388, R389, R392) -/
namespace Sys2Proof.Machine

/-! ### Whether a change is taken -/

theorem auditFull_eq_true {s : State} : auditFull s = true ↔ s.sg.counters[0] = 0xFFFFFFFF := by
  unfold auditFull
  rw [beq_iff_eq]

theorem legalChange_sealed {s : State} (code : Nat) (change : State → State) (h : s.sg.sealSt = .sealed_) :
    legalChange code change s = respond .sealed_ code [] s := if_pos h

theorem legalChange_saturated {s : State} (code : Nat) (change : State → State) (h : s.sg.sealSt ≠ .sealed_)
    (hc : s.sg.counters[0] = 0xFFFFFFFF) : legalChange code change s = respond .counterSaturated code [] s :=
  (if_neg h).trans (if_pos (auditFull_eq_true.mpr hc))

theorem legalChange_taken {s : State} (code : Nat) (change : State → State) (h : s.sg.sealSt ≠ .sealed_)
    (hc : s.sg.counters[0] ≠ 0xFFFFFFFF) : legalChange code change s = change s :=
  (if_neg h).trans (if_neg (mt auditFull_eq_true.mp hc))

theorem lpWake_sealSt (t : DT) (s : State) : (lpWake (moment t s)).sg.sealSt = s.sg.sealSt := by rw [lpWake_sg]

theorem lpWake_counters (t : DT) (s : State) : (lpWake (moment t s)).sg.counters = s.sg.counters := by rw [lpWake_sg]

theorem lpWake_jobs (t : DT) (s : State) : (lpWake (moment t s)).sg.jobs = s.sg.jobs := by rw [lpWake_sg]

theorem lpWake_afTables (t : DT) (s : State) : (lpWake (moment t s)).sg.afTables = s.sg.afTables := by rw [lpWake_sg]

theorem lpWake_slipTable (t : DT) (s : State) : (lpWake (moment t s)).sg.slipTable = s.sg.slipTable := by rw [lpWake_sg]

theorem lpWake_legalChange {t : DT} {s : State} (code : Nat) (change : State → State) (h : s.sg.sealSt ≠ .sealed_)
    (hc : s.sg.counters[0] ≠ 0xFFFFFFFF) : legalChange code change (lpWake (moment t s)) = change (lpWake (moment t s)) := by
  refine legalChange_taken code change (by rw [lpWake_sealSt]; exact h) ?_
  rw [lpWake_counters]
  exact hc

/-! ### What an accepted change leaves -/

theorem noLog_responses {g k : SaggarSt} (h : g.noLog = k.noLog) (r : List (List Byte)) :
    { g with responses := g.responses ++ r }.noLog = { k with responses := k.responses ++ r }.noLog := by
  have hset (g : SaggarSt) : { g with responses := g.responses ++ r }.noLog = { g.noLog with responses := g.noLog.responses ++ r } := rfl
  rw [hset g, hset k, h]

/-- The Saggar after an accepted change, but for its legal log (R374). -/
def SaggarSt.accepted (code : Nat) (g : SaggarSt) : SaggarSt :=
  { g with
    counters := upd g.counters 0 fun c => if c = 0xFFFFFFFF then c else c + 1
    responses := g.responses ++ [responseOf .ok code []] }

theorem acceptChange_noLog (code param input : Nat) (value : List Byte) (s : State) :
    (acceptChange code param input value s).sg.noLog = (s.sg.accepted code).noLog := by
  unfold acceptChange
  dsimp only
  rw [respond_sg]
  exact noLog_responses (noLog_legalSherd ..) _

theorem accepted_audit (code : Nat) {g : SaggarSt} (h : g.counters[0] ≠ 0xFFFFFFFF) : (g.accepted code).counters[0] = g.counters[0] + 1 :=
  (upd_get_self ..).trans (if_neg h)

section noLog
variable {g k : SaggarSt} (h : g.noLog = k.noLog)
include h

theorem counters_of_noLog : g.counters = k.counters := (congrArg SaggarSt.counters h :)

theorem responses_of_noLog : g.responses = k.responses := (congrArg SaggarSt.responses h :)

theorem sealSt_of_noLog : g.sealSt = k.sealSt := (congrArg SaggarSt.sealSt h :)

theorem afTables_of_noLog : g.afTables = k.afTables := (congrArg SaggarSt.afTables h :)

theorem calibration_of_noLog : g.slipTable = k.slipTable ∧ g.calDate = k.calDate ∧ g.verifyBad = k.verifyBad :=
  ⟨(congrArg SaggarSt.slipTable h :), (congrArg SaggarSt.calDate h :), (congrArg SaggarSt.verifyBad h :)⟩

theorem limits_of_noLog : g.legalInterval = k.legalInterval ∧ g.verifyMax = k.verifyMax :=
  ⟨(congrArg SaggarSt.legalInterval h :), (congrArg SaggarSt.verifyMax h :)⟩

theorem legalKey_of_noLog : g.legalKey = k.legalKey ∧ g.keyIdent = k.keyIdent :=
  ⟨(congrArg SaggarSt.legalKey h :), (congrArg SaggarSt.keyIdent h :)⟩
end noLog

theorem acceptChange_counters (code param input : Nat) (value : List Byte) (s : State) :
    (acceptChange code param input value s).sg.counters = (s.sg.accepted code).counters :=
  counters_of_noLog (acceptChange_noLog code param input value s)

theorem acceptChange_audit (code param input : Nat) (value : List Byte) {s : State} (h : s.sg.counters[0] ≠ 0xFFFFFFFF) :
    (acceptChange code param input value s).sg.counters[0] = s.sg.counters[0] + 1 := by
  rw [acceptChange_counters]
  exact accepted_audit code h

theorem accepted_kept (code : Nat) (g : SaggarSt) : (g.accepted code).responses = g.responses ++ [responseOf .ok code []]
    ∧ (g.accepted code).sealSt = g.sealSt := ⟨rfl, rfl⟩

theorem acceptChange_outcome (code param input : Nat) (value : List Byte) (s : State) (h : s.sg.counters[0] ≠ 0xFFFFFFFF) :
    (acceptChange code param input value s).sg.counters[0] = s.sg.counters[0] + 1
      ∧ (acceptChange code param input value s).sg.responses = s.sg.responses ++ [responseOf .ok code []]
      ∧ (acceptChange code param input value s).sg.sealSt = s.sg.sealSt := by
  have hlog := acceptChange_noLog code param input value s
  exact ⟨acceptChange_audit code param input value h, (responses_of_noLog hlog).trans (accepted_kept code s.sg).1,
    (sealSt_of_noLog hlog).trans (accepted_kept code s.sg).2⟩

theorem respond_mnt (st : Status) (code : Nat) (data : List Byte) (s : State) : (respond st code data s).mnt = s.mnt := rfl

theorem acceptChange_mnt (code param input : Nat) (value : List Byte) (s : State) : (acceptChange code param input value s).mnt = s.mnt := by
  unfold acceptChange
  dsimp only
  rw [respond_mnt, (legalSherd_within ..).mnt rfl]
  rfl

/-! ### The port words and the seal -/

theorem gives_sgPortWrite (t : DT) (x : Xfer) (s : State) (l : List Byte) (h : LpTakes 0x03 false x t s l) (hl : l.length = 12)
    (hs : s.sg.sealSt ≠ .sealed_) (hc : s.sg.counters[0] ≠ 0xFFFFFFFF) : Gives (.sgPortWrite t x) s fun u =>
      ∃ v, u = acceptChange 0x03 5 0 (l.take 8) v
        ∧ v.sg = { s.sg with
            halted := false, pecErr := s.sg.pecErr && !testBit (le l 8 4) 8, stretchTo := s.sg.stretchTo && !testBit (le l 8 4) 9,
            timing := { word0 := BitVec.ofNat 32 (le l 0 4), word1 := timingWord1 (BitVec.ofNat 32 (le l 4 4)) } } := by
  refine gives_lpWrite rfl h (beq_iff_eq.mpr hl) ?_
  unfold doSgPort
  rw [lpWake_legalChange _ _ hs hc]
  refine ⟨_, rfl, ?_⟩
  rw [modSg_sg, lpWake_sg]
  rfl

/-- Whether SG_SEAL finds what R373 asks for. -/
def SealReady (s : State) : Prop := s.sg.sealSt = .unsealed ∧ s.power.sealSw = true ∧ s.sg.tamper = false ∧ runningJobs s = []

theorem sealNotReady_iff {s : State} :
    (decide (s.sg.sealSt ≠ .unsealed) || !s.power.sealSw || s.sg.tamper || !(runningJobs s).isEmpty) = true ↔ ¬ SealReady s := by
  unfold SealReady
  simp only [Bool.or_eq_true, decide_eq_true_eq, Bool.not_eq_true', List.isEmpty_eq_false_iff, not_and_or, Bool.not_eq_true, Bool.not_eq_false,
    or_assoc]

/-- The Saggar sealed, but for its legal log and its counters (R373). -/
def SaggarSt.sealedNow (counters : Vector (BitVec 32) 4) (g : SaggarSt) : SaggarSt :=
  { g with sealSt := .sealed_, counters := counters, responses := g.responses ++ [responseOf .ok 0x14 []] }

theorem sealedNow_fields (c : Vector (BitVec 32) 4) (g : SaggarSt) : (g.sealedNow c).sealSt = .sealed_ ∧ (g.sealedNow c).counters = c
    ∧ (g.sealedNow c).responses = g.responses ++ [responseOf .ok 0x14 []] := ⟨rfl, rfl, rfl⟩

/-- SG_SEAL that finds everything in order (R373). -/
def sealNow (s : State) : State :=
  respond .ok 0x14 [] (sealEvent 0 (modSg (fun g => { g with sealSt := .sealed_ }) (bumpCounter 1 (bumpCounter 0 s))))

theorem sealNow_noLog (s : State) : (sealNow s).sg.noLog = (s.sg.sealedNow (bumpCounter 1 (bumpCounter 0 s)).sg.counters).noLog := by
  unfold sealNow
  rw [respond_sg]
  exact noLog_responses (noLog_sealEvent ..) _

theorem sealNow_outcome (s : State) : (sealNow s).sg.sealSt = .sealed_
    ∧ (sealNow s).sg.counters = (bumpCounter 1 (bumpCounter 0 s)).sg.counters
    ∧ (sealNow s).sg.responses = s.sg.responses ++ [responseOf .ok 0x14 []] := by
  obtain ⟨h1, h2, h3⟩ := sealedNow_fields (bumpCounter 1 (bumpCounter 0 s)).sg.counters s.sg
  have hlog := sealNow_noLog s
  exact ⟨(sealSt_of_noLog hlog).trans h1, (counters_of_noLog hlog).trans h2, (responses_of_noLog hlog).trans h3⟩

theorem doSgSeal_eq (l : List Byte) (s : State) : doSgSeal l s =
    if decide (s.sg.sealSt ≠ .unsealed) || !s.power.sealSw || s.sg.tamper || !(runningJobs s).isEmpty then respond .errState 0x14 [] s
    else if le l 0 4 ≠ auditOf s then respond .errParam 0x14 [] s
    else if auditFull s then respond .counterSaturated 0x14 [] s
    else sealNow s := rfl

theorem bumpCounter_other {i j : Fin 4} (h : i ≠ j) (s : State) : (bumpCounter i s).sg.counters[j] = s.sg.counters[j] := upd_get_ne _ _ h

theorem bumpCounter_seal_audit (s : State) : (bumpCounter 1 s).sg.counters[0] = s.sg.counters[0] :=
  bumpCounter_other (i := 1) (j := 0) (by decide) s

theorem gives_sgSeal (t : DT) (x : Xfer) (s : State) (l : List Byte) (h : LpTakes 0x14 true x t s l) (hl : l.length = 4) :
    Gives (.sgSeal t x) s fun u =>
      let m := lpWake (moment t s)
      let ready := s.sg.sealSt = .unsealed ∧ s.power.sealSw = true ∧ s.sg.tamper = false ∧ runningJobs s = []
      (¬ ready → u = respond .errState 0x14 [] m)
        ∧ (ready → le l 0 4 ≠ auditOf s → u = respond .errParam 0x14 [] m)
        ∧ (ready → le l 0 4 = auditOf s → s.sg.counters[0] = 0xFFFFFFFF → u = respond .counterSaturated 0x14 [] m)
        ∧ (ready → le l 0 4 = auditOf s → s.sg.counters[0] ≠ 0xFFFFFFFF → u.sg.sealSt = .sealed_
            ∧ u.sg.counters[0] = s.sg.counters[0] + 1 ∧ u.sg.responses = s.sg.responses ++ [responseOf .ok 0x14 []]) := by
  refine gives_lpWrite rfl h (beq_iff_eq.mpr hl) ?_
  have hready : SealReady (lpWake (moment t s)) ↔ SealReady s := by
    have hpower : (lpWake (moment t s)).power = s.power := moment_power t s
    unfold SealReady runningJobs
    rw [lpWake_sg, hpower]
  have haudit : auditOf (lpWake (moment t s)) = auditOf s := by
    unfold auditOf
    rw [lpWake_counters]
  rw [doSgSeal_eq, ← haudit, ← lpWake_counters t s, ← lpWake_responses t s]
  generalize lpWake (moment t s) = n at *
  intro m ready
  change SealReady n ↔ ready at hready
  refine ⟨fun hr => if_pos (sealNotReady_iff.mpr (mt hready.mp hr)), fun hr ha => ?_, fun hr ha hc => ?_, fun hr ha hc => ?_⟩ <;>
    rw [if_neg (mt sealNotReady_iff.mp (not_not_intro (hready.mpr hr)))]
  · exact if_pos ha
  · rw [if_neg (not_not_intro ha), if_pos (auditFull_eq_true.mpr hc)]
  · rw [if_neg (not_not_intro ha), if_neg (mt auditFull_eq_true.mp hc)]
    obtain ⟨hseal, hcount, hresp⟩ := sealNow_outcome n
    refine ⟨hseal, ?_, hresp⟩
    rw [hcount, bumpCounter_seal_audit, bumpCounter_audit, if_neg hc]

end Sys2Proof.Machine

/-! ## The LPORT: tables, parameters, the legal key and the image (R375, R377, R380, R388, R389, R392) -/
namespace Sys2Proof.Machine

/-! ### Antenna factors and the Slip level table -/

/-- The table that SG_AF_WRITE makes of an input's (R380). -/
def newTable (l : List Byte) (old : List SgEntry) : List SgEntry :=
  (entriesAt l 2).foldl (fun acc e => putEntry e acc) (if testBit (le l 1 1) 0 then [] else old)

theorem doSgAfWrite_eq {l : List Byte} {i : Fin 6} {s : State} (hs : s.sg.sealSt ≠ .sealed_) (hc : s.sg.counters[0] ≠ 0xFFFFFFFF)
    (hi : le l 0 1 = i.val) (h1 : le l 1 1 ≤ 1) (hl : l.length % 8 = 2) : doSgAfWrite l s =
      if 64 < (newTable l s.sg.afTables[i]).length then respond .noResource 0x15 [] s
      else acceptChange 0x15 1 i.val ((newTable l s.sg.afTables[i]).flatMap entryOut)
        (modSg (fun g => { g with afTables := upd g.afTables i fun _ => newTable l s.sg.afTables[i] }) s) := by
  unfold doSgAfWrite
  rw [legalChange_taken _ _ hs hc, idx_eq_some hi]
  refine if_neg ?_
  rw [Bool.or_eq_true, decide_eq_true_eq, decide_eq_true_eq]
  omega

theorem setTable_fields (i : Fin 6) (table : List SgEntry) (s : State) :
    (modSg (fun g => { g with afTables := upd g.afTables i fun _ => table }) s).sg.afTables[i] = table
      ∧ (modSg (fun g => { g with afTables := upd g.afTables i fun _ => table }) s).sg.counters = s.sg.counters :=
  ⟨upd_get_self .., rfl⟩

theorem accepted_afTables (code : Nat) (g : SaggarSt) : (g.accepted code).afTables = g.afTables := rfl

theorem gives_sgAfWrite (t : DT) (x : Xfer) (s : State) (l : List Byte) (i : Fin 6) (h : LpTakes 0x15 true x t s l) (h2 : 2 ≤ l.length)
    (h210 : l.length ≤ 210) (hs : s.sg.sealSt ≠ .sealed_) (hc : s.sg.counters[0] ≠ 0xFFFFFFFF) (hi : le l 0 1 = i.val) (h1 : le l 1 1 ≤ 1)
    (hl : l.length % 8 = 2) : Gives (.sgAfWrite t x) s fun u =>
      let old := if testBit (le l 1 1) 0 then [] else s.sg.afTables[i]
      let new := (entriesAt l 2).foldl (fun acc e => putEntry e acc) old
      (64 < new.length → u = respond .noResource 0x15 [] (lpWake (moment t s)))
        ∧ (new.length ≤ 64 → u.sg.afTables[i] = new ∧ u.sg.counters[0] = s.sg.counters[0] + 1) := by
  refine gives_lpWrite rfl h (decide_eq_true ⟨h2, h210⟩) ?_
  rw [← lpWake_sealSt t s] at hs
  rw [← lpWake_counters t s] at hc
  rw [← lpWake_counters t s, ← lpWake_afTables t s]
  clear h
  generalize lpWake (moment t s) = n at *
  rw [doSgAfWrite_eq hs hc hi h1 hl]
  intro old new
  refine ⟨fun hn => if_pos hn, fun hn => ?_⟩
  obtain ⟨htable, hcount⟩ := setTable_fields i (newTable l n.sg.afTables[i]) n
  have hc' := hc
  rw [← hcount] at hc'
  rw [if_neg (show ¬ 64 < (newTable l n.sg.afTables[i]).length from Nat.not_lt.mpr hn)]
  refine ⟨?_, ?_⟩
  · rw [afTables_of_noLog (acceptChange_noLog ..), accepted_afTables, htable]
    rfl
  · rw [acceptChange_audit _ _ _ _ hc', hcount]

theorem gives_sgAfRead (t : DT) (x : Xfer) (s : State) (l : List Byte) (i : Fin 6) (h : LpTakes 0x16 true x t s l) (hl : l.length = 2)
    (hi : le l 0 1 = i.val) : Gives (.sgAfRead t x) s fun u =>
      u = respond .ok 0x16 (sevenEntries s.sg.afTables[i] (le l 1 1)) (lpWake (moment t s)) := by
  refine gives_lpWrite rfl h (beq_iff_eq.mpr hl) ?_
  unfold doSgAfRead
  rw [idx_eq_some hi, lpWake_afTables]

/-- The Slip level table with the entries that SG_CAL_WRITE gives (R389). -/
def calibrated (l : List Byte) (s : State) : State :=
  modSg (fun g => { g with
    slipTable := (entriesAt l 8).foldl (fun acc e => putEntry e acc) g.slipTable, calDate := BitVec.ofNat 64 (le l 0 8), verifyBad := false }) s

/-- The change that SG_CAL_WRITE makes, with the response and the two Sherds (R389, R413). -/
def calWritten (l : List Byte) (s : State) : State :=
  let table := (calibrated l s).sg.slipTable.flatMap entryOut
  let u := acceptChange 0x18 0 0 table (bumpCounter 3 (calibrated l s))
  legalSherd 0x0105 0xFFFF (now u) (now u)
    (pack 0 16 [(0, 8, dtInt (BitVec.ofNat 64 (le l 0 8))), (8, 4, (entriesAt l 8).length), (12, 4, auditOf u)] ++ fit 32 (sha256 table)) false u

theorem doSgCalWrite_eq {l : List Byte} {s : State} (hs : s.sg.sealSt ≠ .sealed_) (hc : s.sg.counters[0] ≠ 0xFFFFFFFF)
    (hl : l.length % 8 = 0) : doSgCalWrite l s =
      if (runningJobs s).any levelJob then respond .errState 0x18 [] s else calWritten l s := by
  unfold doSgCalWrite
  rw [legalChange_taken _ _ hs hc]
  rw [if_neg (not_not_intro hl)]
  unfold calWritten calibrated
  dsimp only

theorem calibrated_fields (l : List Byte) (s : State) :
    (calibrated l s).sg.slipTable = (entriesAt l 8).foldl (fun acc e => putEntry e acc) s.sg.slipTable
      ∧ (calibrated l s).sg.calDate = BitVec.ofNat 64 (le l 0 8) ∧ (calibrated l s).sg.verifyBad = false
      ∧ (calibrated l s).sg.counters = s.sg.counters := ⟨rfl, rfl, rfl, rfl⟩

theorem accepted_calibration (code : Nat) (g : SaggarSt) : (g.accepted code).slipTable = g.slipTable
    ∧ (g.accepted code).calDate = g.calDate ∧ (g.accepted code).verifyBad = g.verifyBad := ⟨rfl, rfl, rfl⟩

theorem bumpCounter_calibration (i : Fin 4) (s : State) : (bumpCounter i s).sg.slipTable = s.sg.slipTable
    ∧ (bumpCounter i s).sg.calDate = s.sg.calDate ∧ (bumpCounter i s).sg.verifyBad = s.sg.verifyBad := ⟨rfl, rfl, rfl⟩

theorem calWritten_noLog (l : List Byte) (s : State) :
    (calWritten l s).sg.noLog = ((bumpCounter 3 (calibrated l s)).sg.accepted 0x18).noLog := by
  unfold calWritten
  dsimp only
  rw [noLog_legalSherd, acceptChange_noLog]

theorem calWritten_calibration (l : List Byte) (s : State) :
    (calWritten l s).sg.slipTable = (entriesAt l 8).foldl (fun acc e => putEntry e acc) s.sg.slipTable
      ∧ (calWritten l s).sg.calDate = BitVec.ofNat 64 (le l 0 8) ∧ (calWritten l s).sg.verifyBad = false := by
  obtain ⟨h1, h2, h3⟩ := calibration_of_noLog (calWritten_noLog l s)
  obtain ⟨a1, a2, a3⟩ := accepted_calibration 0x18 (bumpCounter 3 (calibrated l s)).sg
  obtain ⟨b1, b2, b3⟩ := bumpCounter_calibration 3 (calibrated l s)
  obtain ⟨c1, c2, c3, _⟩ := calibrated_fields l s
  exact ⟨by rw [h1, a1, b1, c1], by rw [h2, a2, b2, c2], by rw [h3, a3, b3, c3]⟩

theorem accepted_counter3 (code : Nat) (g : SaggarSt) : (g.accepted code).counters[3] = g.counters[3] :=
  upd_get_ne (i := 0) (j := 3) _ _ (by decide)

theorem bumpCounter3 (s : State) : (bumpCounter 3 s).sg.counters[0] = s.sg.counters[0]
    ∧ (bumpCounter 3 s).sg.counters[3] = if s.sg.counters[3] = 0xFFFFFFFF then s.sg.counters[3] else s.sg.counters[3] + 1 :=
  ⟨bumpCounter_other (i := 3) (j := 0) (by decide) s, upd_get_self s.sg.counters 3 fun c => if c = 0xFFFFFFFF then c else c + 1⟩

theorem calWritten_counters (l : List Byte) {s : State} (hc : s.sg.counters[0] ≠ 0xFFFFFFFF) :
    (calWritten l s).sg.counters[0] = s.sg.counters[0] + 1
      ∧ (calWritten l s).sg.counters[3] = if s.sg.counters[3] = 0xFFFFFFFF then s.sg.counters[3] else s.sg.counters[3] + 1 := by
  obtain ⟨h0, h3⟩ := bumpCounter3 (calibrated l s)
  rw [(calibrated_fields l s).2.2.2] at h0 h3
  rw [counters_of_noLog (calWritten_noLog l s)]
  refine ⟨?_, ?_⟩
  · rw [accepted_audit _ (by rw [h0]; exact hc), h0]
  · rw [accepted_counter3, h3]

theorem lpWake_runningJobs (t : DT) (s : State) : runningJobs (lpWake (moment t s)) = runningJobs s := by
  unfold runningJobs
  rw [lpWake_jobs]

theorem gives_sgCalWrite (t : DT) (x : Xfer) (s : State) (l : List Byte) (h : LpTakes 0x18 true x t s l) (h8 : 8 ≤ l.length)
    (h200 : l.length ≤ 200) (hs : s.sg.sealSt ≠ .sealed_) (hc : s.sg.counters[0] ≠ 0xFFFFFFFF) (hl : l.length % 8 = 0) :
    Gives (.sgCalWrite t x) s fun u =>
      ((runningJobs s).any levelJob = true → u = respond .errState 0x18 [] (lpWake (moment t s)))
        ∧ ((runningJobs s).any levelJob = false → u.sg.slipTable = (entriesAt l 8).foldl (fun acc e => putEntry e acc) s.sg.slipTable
            ∧ u.sg.calDate = BitVec.ofNat 64 (le l 0 8) ∧ u.sg.verifyBad = false ∧ u.sg.counters[0] = s.sg.counters[0] + 1
            ∧ u.sg.counters[3] = if s.sg.counters[3] = 0xFFFFFFFF then s.sg.counters[3] else s.sg.counters[3] + 1) := by
  refine gives_lpWrite rfl h (decide_eq_true ⟨h8, h200⟩) ?_
  rw [← lpWake_sealSt t s] at hs
  rw [← lpWake_counters t s] at hc
  rw [← lpWake_counters t s, ← lpWake_slipTable t s, ← lpWake_runningJobs t s]
  clear h
  generalize lpWake (moment t s) = n at *
  rw [doSgCalWrite_eq hs hc hl]
  refine ⟨fun hj => if_pos hj, fun hj => ?_⟩
  rw [if_neg (by rw [hj]; exact Bool.false_ne_true)]
  obtain ⟨htable, hdate, hbad⟩ := calWritten_calibration l n
  obtain ⟨h0, h3⟩ := calWritten_counters l hc
  exact ⟨htable, hdate, hbad, h0, h3⟩

theorem gives_sgCalRead (t : DT) (x : Xfer) (s : State) (l : List Byte) (h : LpTakes 0x19 true x t s l) (hl : l.length = 1) :
    Gives (.sgCalRead t x) s fun u => u = respond .ok 0x19 (sevenEntries s.sg.slipTable (le l 0 1)) (lpWake (moment t s)) := by
  refine gives_lpWrite rfl h (beq_iff_eq.mpr hl) ?_
  unfold doSgCalRead
  rw [lpWake_slipTable]

theorem gives_sgVerify (t : DT) (x : Xfer) (s : State) (l : List Byte) (h : LpTakes 0x1A false x t s l) (hl : l.length = 0) :
    Gives (.sgVerify t x) s fun u => u = respond .ok 0x1A [] (verifyNow (lpWake (moment t s))) :=
  gives_lpWrite rfl h (beq_iff_eq.mpr hl) rfl

end Sys2Proof.Machine

/-! ## The LPORT: parameters, the legal key and the image (R375, R377, R388, R392) -/
namespace Sys2Proof.Machine

/-! ### Parameters -/

theorem lpWake_limits (t : DT) (s : State) : (lpWake (moment t s)).sg.legalInterval = s.sg.legalInterval
    ∧ (lpWake (moment t s)).sg.verifyMax = s.sg.verifyMax := by
  rw [lpWake_sg]
  exact ⟨rfl, rfl⟩

/-- What SG_PARAM reads (R392). -/
def paramRead (k : Nat) (s : State) : State :=
  match k with
  | 0 => respond .ok 0x1B (leBytes 4 s.sg.legalInterval) s
  | 1 => respond .ok 0x1B (leBytes 4 s.sg.verifyMax) s
  | _ => respond .errParam 0x1B [] s

theorem paramRead_unknown {k : Nat} (h : 1 < k) (s : State) : paramRead k s = respond .errParam 0x1B [] s := by
  obtain ⟨j, rfl⟩ : ∃ j, k = j + 2 := ⟨k - 2, by omega⟩
  rfl

/-- What SG_PARAM writes (R392). -/
def paramWrite (k v : Nat) (s : State) : State :=
  if k = 0 ∧ 30 ≤ v ∧ v ≤ 3650 then acceptChange 0x1B 2 0 (leBytes 4 v) (changeDue 0 (fun g => { g with legalInterval := v }) s)
  else if k = 1 ∧ 1 ≤ v ∧ v ≤ 168 then acceptChange 0x1B 3 0 (leBytes 4 v) (setVerifyMax v s)
  else respond .errParam 0x1B [] s

theorem doSgParam_eq (l : List Byte) (s : State) : doSgParam l s =
    if le l 0 1 < 128 then paramRead (le l 0 1 % 128) s else legalChange 0x1B (paramWrite (le l 0 1 % 128) (le l 1 4)) s := rfl

theorem gives_sgParamRead (t : DT) (x : Xfer) (s : State) (l : List Byte) (h : LpTakes 0x1B true x t s l) (hl : l.length = 5)
    (hr : le l 0 1 < 128) : Gives (.sgParam t x) s fun u =>
      let m := lpWake (moment t s)
      (le l 0 1 = 0 → u = respond .ok 0x1B (leBytes 4 s.sg.legalInterval) m)
        ∧ (le l 0 1 = 1 → u = respond .ok 0x1B (leBytes 4 s.sg.verifyMax) m)
        ∧ (1 < le l 0 1 → u = respond .errParam 0x1B [] m) := by
  refine gives_lpWrite rfl h (beq_iff_eq.mpr hl) ?_
  obtain ⟨hi, hv⟩ := lpWake_limits t s
  rw [← hi, ← hv, doSgParam_eq, if_pos hr, Nat.mod_eq_of_lt hr]
  exact ⟨fun hk => by rw [hk]; rfl, fun hk => by rw [hk]; rfl, fun hk => paramRead_unknown hk _⟩

theorem noLog_changeDue (cause : Nat) (f : SaggarSt → SaggarSt) (s : State) : (changeDue cause f s).sg.noLog = (f s.sg).noLog := by
  unfold changeDue
  dsimp only
  split
  · rfl
  · exact noLog_legalSherd ..

theorem accepted_limits (code : Nat) (g : SaggarSt) : (g.accepted code).legalInterval = g.legalInterval
    ∧ (g.accepted code).verifyMax = g.verifyMax := ⟨rfl, rfl⟩

/-- The Saggar with a new LEGAL_INTERVAL. -/
def SaggarSt.withInterval (v : Nat) (g : SaggarSt) : SaggarSt := { g with legalInterval := v }

theorem withInterval_fields (v : Nat) (g : SaggarSt) : (g.withInterval v).legalInterval = v ∧ (g.withInterval v).counters = g.counters :=
  ⟨rfl, rfl⟩

theorem paramWrite_interval {v : Nat} {s : State} (h1 : 30 ≤ v) (h2 : v ≤ 3650) (hc : s.sg.counters[0] ≠ 0xFFFFFFFF) :
    (paramWrite 0 v s).sg.legalInterval = v ∧ (paramWrite 0 v s).sg.counters[0] = s.sg.counters[0] + 1 := by
  have hw : paramWrite 0 v s = acceptChange 0x1B 2 0 (leBytes 4 v) (changeDue 0 (SaggarSt.withInterval v) s) := if_pos ⟨rfl, h1, h2⟩
  have hdue := noLog_changeDue 0 (SaggarSt.withInterval v) s
  obtain ⟨hinterval, hcount⟩ := withInterval_fields v s.sg
  rw [hw]
  refine ⟨?_, ?_⟩
  · rw [(limits_of_noLog (acceptChange_noLog ..)).1, (accepted_limits ..).1, (limits_of_noLog hdue).1, hinterval]
  · have hcounters := (counters_of_noLog hdue).trans hcount
    rw [acceptChange_audit _ _ _ _ (by rw [hcounters]; exact hc), hcounters]

theorem setVerifyMax_fields (v : Nat) (s : State) : (setVerifyMax v s).sg.verifyMax = v ∧ (setVerifyMax v s).sg.counters = s.sg.counters
    ∧ (setVerifyMax v s).mnt.acts[6].period = min 86400 (v * 3600) :=
  ⟨rfl, rfl, congrArg Activity.period (upd_get_self s.mnt.acts 6 fun a => { a with period := min 86400 (v * 3600) })⟩

theorem paramWrite_verifyMax {v : Nat} {s : State} (h1 : 1 ≤ v) (h2 : v ≤ 168) (hc : s.sg.counters[0] ≠ 0xFFFFFFFF) :
    (paramWrite 1 v s).sg.verifyMax = v ∧ (paramWrite 1 v s).sg.counters[0] = s.sg.counters[0] + 1
      ∧ (paramWrite 1 v s).mnt.acts[6].period = min 86400 (v * 3600) := by
  have hw : paramWrite 1 v s = acceptChange 0x1B 3 0 (leBytes 4 v) (setVerifyMax v s) :=
    (if_neg fun h => absurd h.1 (by decide)).trans (if_pos ⟨rfl, h1, h2⟩)
  obtain ⟨hmax, hcount, hperiod⟩ := setVerifyMax_fields v s
  rw [hw]
  refine ⟨?_, ?_, ?_⟩
  · rw [(limits_of_noLog (acceptChange_noLog ..)).2, (accepted_limits ..).2, hmax]
  · rw [acceptChange_audit _ _ _ _ (by rw [hcount]; exact hc), hcount]
  · rw [acceptChange_mnt, hperiod]

theorem paramWrite_refused {k v : Nat} {s : State} (h : (k = 0 ∧ (v < 30 ∨ 3650 < v)) ∨ (k = 1 ∧ (v < 1 ∨ 168 < v)) ∨ 1 < k) :
    paramWrite k v s = respond .errParam 0x1B [] s := (if_neg (by omega)).trans (if_neg (by omega))

theorem gives_sgParamWrite (t : DT) (x : Xfer) (s : State) (l : List Byte) (h : LpTakes 0x1B true x t s l) (hl : l.length = 5)
    (hw : 128 ≤ le l 0 1) (hs : s.sg.sealSt ≠ .sealed_) (hc : s.sg.counters[0] ≠ 0xFFFFFFFF) : Gives (.sgParam t x) s fun u =>
      let m := lpWake (moment t s)
      let k := le l 0 1 % 128
      let v := le l 1 4
      (k = 0 → 30 ≤ v → v ≤ 3650 → u.sg.legalInterval = v ∧ u.sg.counters[0] = s.sg.counters[0] + 1)
        ∧ (k = 1 → 1 ≤ v → v ≤ 168 → u.sg.verifyMax = v ∧ u.sg.counters[0] = s.sg.counters[0] + 1
            ∧ u.mnt.acts[6].period = min 86400 (v * 3600))
        ∧ ((k = 0 ∧ (v < 30 ∨ 3650 < v)) ∨ (k = 1 ∧ (v < 1 ∨ 168 < v)) ∨ 1 < k → u = respond .errParam 0x1B [] m) := by
  refine gives_lpWrite rfl h (beq_iff_eq.mpr hl) ?_
  rw [← lpWake_sealSt t s] at hs
  rw [← lpWake_counters t s] at hc
  rw [← lpWake_counters t s]
  clear h
  generalize lpWake (moment t s) = n at *
  rw [doSgParam_eq, if_neg (Nat.not_lt.mpr hw), legalChange_taken _ _ hs hc]
  generalize le l 0 1 % 128 = k
  generalize le l 1 4 = v
  refine ⟨fun hk h1 h2 => ?_, fun hk h1 h2 => ?_, fun hb => paramWrite_refused hb⟩ <;> subst hk
  · exact paramWrite_interval h1 h2 hc
  · exact paramWrite_verifyMax h1 h2 hc

/-! ### The legal key -/

/-- The Saggar with a new legal-log key (R392). -/
def SaggarSt.withKey (k : List Byte) (g : SaggarSt) : SaggarSt := { g with legalKey := k, keyIdent := g.keyIdent + 1, invocation := 0 }

theorem withKey_fields (k : List Byte) (g : SaggarSt) : (g.withKey k).legalKey = k ∧ (g.withKey k).keyIdent = g.keyIdent + 1
    ∧ (g.withKey k).counters = g.counters := ⟨rfl, rfl, rfl⟩

theorem accepted_legalKey (code : Nat) (g : SaggarSt) : (g.accepted code).legalKey = g.legalKey ∧ (g.accepted code).keyIdent = g.keyIdent :=
  ⟨rfl, rfl⟩

/-- What SG_KEY_LOAD does with the key that unwraps, if one does (R392). -/
def keyLoaded (k : Option (List Byte)) (s : State) : State :=
  match k with
  | some k => acceptChange 0x1C 4 0 k (modSg (SaggarSt.withKey k) s)
  | none => respond .authFailed 0x1C [] s

theorem doSgKeyLoad_eq (l : List Byte) (s : State) :
    doSgKeyLoad l s = legalChange 0x1C (keyLoaded (keyUnwrap Config.sgTransportKey l)) s := rfl

theorem keyLoaded_some (k : List Byte) {s : State} (hc : s.sg.counters[0] ≠ 0xFFFFFFFF) : (keyLoaded (some k) s).sg.legalKey = k
    ∧ (keyLoaded (some k) s).sg.keyIdent = s.sg.keyIdent + 1 ∧ (keyLoaded (some k) s).sg.counters[0] = s.sg.counters[0] + 1 := by
  obtain ⟨hkey, hident, hcount⟩ := withKey_fields k s.sg
  have hlog := legalKey_of_noLog (acceptChange_noLog 0x1C 4 0 k (modSg (SaggarSt.withKey k) s))
  unfold keyLoaded
  dsimp only
  refine ⟨?_, ?_, ?_⟩
  · rw [hlog.1, (accepted_legalKey ..).1, modSg_sg, hkey]
  · rw [hlog.2, (accepted_legalKey ..).2, modSg_sg, hident]
  · rw [acceptChange_audit _ _ _ _ (by rw [modSg_sg, hcount]; exact hc), modSg_sg, hcount]

theorem lpWake_keyIdent (t : DT) (s : State) : (lpWake (moment t s)).sg.keyIdent = s.sg.keyIdent := by rw [lpWake_sg]

theorem gives_sgKeyLoad (t : DT) (x : Xfer) (s : State) (l : List Byte) (h : LpTakes 0x1C true x t s l) (hl : l.length = 40)
    (hs : s.sg.sealSt ≠ .sealed_) (hc : s.sg.counters[0] ≠ 0xFFFFFFFF) : Gives (.sgKeyLoad t x) s fun u =>
      (keyUnwrap Config.sgTransportKey l = none → u = respond .authFailed 0x1C [] (lpWake (moment t s)))
        ∧ ∀ k, keyUnwrap Config.sgTransportKey l = some k → u.sg.legalKey = k ∧ u.sg.keyIdent = s.sg.keyIdent + 1
          ∧ u.sg.counters[0] = s.sg.counters[0] + 1 := by
  refine gives_lpWrite rfl h (beq_iff_eq.mpr hl) ?_
  rw [← lpWake_sealSt t s] at hs
  rw [← lpWake_counters t s] at hc
  rw [← lpWake_counters t s, ← lpWake_keyIdent t s]
  clear h
  generalize lpWake (moment t s) = n at *
  rw [doSgKeyLoad_eq, legalChange_taken _ _ hs hc]
  exact ⟨fun hk => by rw [hk]; rfl, fun k hk => by rw [hk]; exact keyLoaded_some k hc⟩

/-! ### The image -/

theorem gives_sgImageBlock (t : DT) (x : Xfer) (s : State) (l : List Byte) (h : LpTakes 0x1D true x t s l) (h8 : 8 ≤ l.length)
    (h232 : l.length ≤ 232) : Gives (.sgImageBlock t x) s fun u =>
      let m := lpWake (moment t s)
      (s.sg.sealSt = .sealed_ → u = respond .sealed_ 0x1D [] m)
        ∧ (s.sg.sealSt ≠ .sealed_ → le l 4 4 ≠ 0 ∨ 524288 < le l 0 4 + (l.length - 8) → u = respond .errParam 0x1D [] m)
        ∧ (s.sg.sealSt ≠ .sealed_ → le l 4 4 = 0 → le l 0 4 + (l.length - 8) ≤ 524288 →
            u.sg = { s.sg with halted := false, imageNext := s.sg.imageNext ++ [(le l 0 4, l.drop 8)],
                               responses := s.sg.responses ++ [responseOf .ok 0x1D []] }) := by
  refine gives_lpWrite rfl h (decide_eq_true ⟨h8, h232⟩) ?_
  unfold doSgImageBlock
  rw [lpWake_sealSt]
  have hbad : (decide (le l 4 4 ≠ 0) || decide (524288 < le l 0 4 + (l.length - 8))) = true
      ↔ le l 4 4 ≠ 0 ∨ 524288 < le l 0 4 + (l.length - 8) := by rw [Bool.or_eq_true, decide_eq_true_eq, decide_eq_true_eq]
  refine ⟨fun hs => if_pos hs, fun hs hb => ?_, fun hs h0 hle => ?_⟩
  · rw [if_neg hs, if_pos (hbad.mpr hb)]
  · rw [if_neg hs, if_neg (mt hbad.mp (not_or.mpr ⟨not_not_intro h0, Nat.not_lt.mpr hle⟩)), respond_sg, modSg_sg, lpWake_sg]

theorem lpWake_image (t : DT) (s : State) : (lpWake (moment t s)).sg.imageNext = s.sg.imageNext
    ∧ (lpWake (moment t s)).sg.version = s.sg.version := by
  rw [lpWake_sg]
  exact ⟨rfl, rfl⟩

/-- What SG_IMAGE_COMMIT does with an image and its signature (R377). -/
def imageCommitted (l : List Byte) (s : State) : State :=
  if !Config.ecdsaOk (imageBytes s.sg.imageNext) l then respond .authFailed 0x1E [] s
  else if Config.imageVersion (imageBytes s.sg.imageNext) < s.sg.version then respond .errParam 0x1E [] s
  else installImage (imageBytes s.sg.imageNext) s

theorem doSgImageCommit_eq (l : List Byte) (s : State) : doSgImageCommit l s = legalChange 0x1E (imageCommitted l) s := rfl

theorem installImage_imageNext (img : List Byte) (s : State) : (installImage img s).sg.imageNext = [] := rfl

theorem gives_sgImageCommit (t : DT) (x : Xfer) (s : State) (l : List Byte) (h : LpTakes 0x1E true x t s l) (hl : l.length = 64)
    (hs : s.sg.sealSt ≠ .sealed_) (hc : s.sg.counters[0] ≠ 0xFFFFFFFF) : Gives (.sgImageCommit t x) s fun u =>
      let m := lpWake (moment t s)
      let img := imageBytes s.sg.imageNext
      (Config.ecdsaOk img l = false → u = respond .authFailed 0x1E [] m)
        ∧ (Config.ecdsaOk img l = true → Config.imageVersion img < s.sg.version → u = respond .errParam 0x1E [] m)
        ∧ (Config.ecdsaOk img l = true → s.sg.version ≤ Config.imageVersion img →
            u = installImage img m ∧ u.sg.imageNext = []) := by
  refine gives_lpWrite rfl h (beq_iff_eq.mpr hl) ?_
  obtain ⟨himage, hversion⟩ := lpWake_image t s
  rw [← lpWake_sealSt t s] at hs
  rw [← lpWake_counters t s] at hc
  rw [← himage, ← hversion]
  clear h himage hversion
  generalize lpWake (moment t s) = n at *
  rw [doSgImageCommit_eq, legalChange_taken _ _ hs hc]
  unfold imageCommitted
  intro m img
  refine ⟨fun ho => if_pos (by rw [show Config.ecdsaOk (imageBytes n.sg.imageNext) l = false from ho]; rfl), fun ho hv => ?_, fun ho hv => ?_⟩ <;>
    rw [if_neg (show ¬ (!Config.ecdsaOk (imageBytes n.sg.imageNext) l) = true by
      rw [show Config.ecdsaOk (imageBytes n.sg.imageNext) l = true from ho]; decide)]
  · exact if_pos hv
  · rw [if_neg (show ¬ Config.imageVersion (imageBytes n.sg.imageNext) < n.sg.version from BitVec.not_lt.mpr hv)]
    exact ⟨rfl, installImage_imageNext ..⟩

/-- Settles O58: the refusals of a legal change once, what an accepted one leaves once, then code by code. -/
theorem lportChangesAreSealedAndAudited : Obligations.LportChangesAreSealedAndAudited := by
  unfold Obligations.LportChangesAreSealedAndAudited
  exact ⟨fun code change _ => ⟨legalChange_sealed code change, legalChange_saturated code change, legalChange_taken code change⟩,
    acceptChange_outcome, gives_sgPortWrite, gives_sgSeal, gives_sgAfWrite, gives_sgAfRead, gives_sgCalWrite, gives_sgCalRead, gives_sgVerify,
    gives_sgParamRead, gives_sgParamWrite, gives_sgKeyLoad, gives_sgImageBlock, gives_sgImageCommit⟩

end Sys2Proof.Machine
